-- ==== Sys2Proof/Word.lean ====
section
/-!
DEFINITION. The word types of the TM1152 and the shape of its sparse stores.
-/
namespace Sys2Proof

/-- An octet or byte (the notation section of the scope chapter). -/
abbrev Byte := BitVec 8

/-- A 32-bit register or header-vector container. -/
abbrev Word := BitVec 32

/-- A store with a natural-number key that lists only the cells that differ from their default. -/
abbrev Store (α : Type) := List (Nat × α)

end Sys2Proof
end

