-- ==== Sys2Proof/Syntax.lean ====
section
/-!
DEFINITION. The commands of the TM1152 block: one constructor of Instr per row of the spec's opcode table.
The table gives its rows no operand bits; an operand here names what the row's own rule reads from outside
the part (a land, a sensor, a received frame, host memory reached by DMA, the object acted on).
-/
namespace Sys2Proof

/-- The rails of the supply monitor (R61, Table ISL-11). -/
inductive Rail where
  | core | mkt | io | aon
  deriving DecidableEq, Repr

/-- The four kinds of ring (R78). -/
inductive RingKind where
  | cr | cq | rx | nq
  deriving DecidableEq, Repr

/-- The two version domains (R105). -/
inductive Dom where
  | ing | egr
  deriving DecidableEq, Repr

/-- What starts a PERST_N reset (R44). -/
inductive PerstCause where
  | pin | hotReset | linkDown | flr
  deriving DecidableEq, Repr

/-- A requester of 64-bit register accesses (R75): the host or a control core. -/
inductive Requester where
  | host
  | core (n : Nat)
  deriving DecidableEq, Repr

/-- A command taken from a command ring, with the host data its DMA read (R84, Table HIF-8). -/
structure HostCmd where
  /-- Number of the doorbell write that made its entry visible (R92): the model's own count, which tells the command from another of
  the same ring entry. -/
  bell : Nat
  /-- Command ring number. -/
  cr : Nat
  /-- Entry index in the ring. -/
  index : Nat
  opcode : Nat
  notify : Bool
  ordered : Bool
  tag : Nat
  dataLen : Nat
  hostAddr : Nat
  /-- The 48 ARG octets. -/
  arg : List Byte
  /-- The octets the part reads at HOST_ADDR, where the command reads host data. -/
  data : List Byte
  deriving DecidableEq, Repr

/-- A journal record whose commit line is missing or fails its check (R68), as firmware finds it at start-up: its partition, in the
order of Table ISL-14 from the system log (0) on, and its sequence number. Of a record that a reset interrupted nothing else is kept. -/
structure JrnRec where
  partition : Nat
  seq : Nat
  deriving DecidableEq, Repr

/-- An ECC error of a stored word: corrected, or uncorrectable, and then whether its second copy is bad as well. -/
inductive WordErr where
  | corrected
  | uncorrectable (noCopy : Bool)
  deriving DecidableEq, Repr

/-- An error of a 32-byte part of a frame's Market data, as the read of a copy meets it: the position of the unit among the
frame's, and for one that cannot be corrected the part of the unit. -/
inductive DataErr where
  | corrected (unit : Nat)
  | uncorrectable (unit part : Nat)
  deriving DecidableEq, Repr

/-- How far a life-cycle transition had come when a reset or a power loss ended it (R58, R59). -/
inductive LcsPoint where
  /-- Steps 1 and 2 are done, no fuse of the new state is burned. -/
  | wiped
  /-- The fuses of the new state are burned, the commit fuse is not. -/
  | burned
  /-- The commit fuse is burned, the journal record of step 4 is not written. -/
  | committed
  deriving DecidableEq, Repr

/-- A signed image as the part reads it (R477, Table SEC-6). -/
structure Image where
  magic : Nat
  kind : Nat
  keyId : Nat
  svn : Nat
  rev : Nat
  length : Nat
  level : Nat
  engines : Nat
  body : List Byte
  signature : List Byte
  deriving DecidableEq, Repr

/-- The identity record of a cartridge (Table CRT-5). -/
structure Identity where
  /-- The 320 octets as the cartridge returns them. -/
  octets : List Byte
  deriving DecidableEq, Repr

/-- An Ainum message as received (R388, Table AIN-1): head fields, payload and check bits. -/
structure AinMsg where
  type : Nat
  len : Nat
  ctr : Nat
  arg : Nat
  payload : Nat
  check : Nat
  /-- A block of it stood in a codeword that RS-FEC marked uncorrectable, or the link was lost before its last block (R386, R401). -/
  cut : Bool
  deriving DecidableEq, Repr

/-- Masks of delivery that have reached the Crier since its last commit and that no row of the table carries (R427, R431).
DESIGN CHOICE (log 54). -/
structure CrierMasks where
  /-- MSI-X Enable and Function Mask, where configuration software wrote them. -/
  msix : Option (Bool × Bool)
  /-- Cores that changed: core, its own mask, asleep. -/
  cores : List (Nat × Bool × Bool)
  deriving DecidableEq, Repr

/-- The clock as SEC, NS and FRAC (R349). -/
structure Stamp where
  sec : Nat
  ns : Nat
  frac : Nat
  deriving DecidableEq, Repr

/-- How a received frame ended (R135, R137, R286). -/
structure TailVerdict where
  fcsOk : Bool
  tailMarked : Bool
  codewordBad : Bool
  deriving DecidableEq, Repr

/-- What a regulator that acknowledges answers a poll with (R443, R444): its bus, address and page, whether its PEC is right, and VOUT_MODE,
READ_VOUT, READ_IOUT and READ_TEMPERATURE_1 as they come. -/
structure RegulatorAnswer where
  bus : Nat
  addr : Nat
  page : Nat
  pecOk : Bool
  voutMode : Nat
  vout : Nat
  iout : Nat
  temp : Nat
  deriving DecidableEq, Repr

/-- The commands of the part, in the order of the spec's table. -/
inductive Instr where
  /-- SYS_RST_N held low for `lowNs` ns. -/
  | sysRstNLow (lowNs : Nat)
  | supplyBelowResetThreshold (rail : Rail) (mv ns : Nat)
  | vddCoreWarning (mv ns : Nat)
  | vddCoreWarningEnd (minMv durNs : Nat)
  /-- t0, with the levels of the five strap lands (bits 1-0 BOOT, 2 PCIE5, 3 TREF, 4 SPI4B), and the REFCLK pairs 0 to 3 that run. -/
  | coldResetRelease (straps : BitVec 5) (refclks : BitVec 4)
  | fusesLoaded
  /-- The banks of the Market that failed their wipe. -/
  | clocksLocked (failedBanks : List Nat)
  | tableWipeComplete
  /-- The channels of the stack that failed their wipe. -/
  | hbmWipeComplete (stack : Nat) (failedCh : List Nat)
  /-- The journal records that fail their check. -/
  | firmwareStart (bad : List JrnRec)
  | jtagCoreRelease
  | islResetIsland (island : Nat)
  | islResetControl
  | islResetCold
  | islandResetComplete (island : Nat)
  | coreWatchdogExpiry (core : Nat)
  | controlReset
  /-- The journal records that fail their check. -/
  | controlResetComplete (bad : List JrnRec)
  | perstNAssert (cause : PerstCause)
  | perstNRelease
  | hostIslandRelease
  /-- Trained width in lanes, speed code 1-6 and FLIT mode. -/
  | linkTrained (width speed : Nat) (flit : Bool)
  | lcsChange
  /-- Where a reset or a power loss ended the transition, with the RESET_CAUSE bits of that reset; none where it ran to its end. -/
  | lcsTransitionStart (cut : Option (LcsPoint × List Nat))
  /-- The image that the DMA reads, and whether a reset or a power loss came during step 2 or 3. -/
  | fwUpdate (image : Image) (cut : Bool)
  | registerWrite (addr : Nat) (value : Word)
  | rcCounterRead (addr : Nat)
  | reg64LowWordRead (rq : Requester) (addr : Nat)
  | reg64LowWordWrite (rq : Requester) (addr : Nat) (value : Word)
  | reg64HighWordWrite (rq : Requester) (addr : Nat) (value : Word)
  | bar0UnmappedAccess (addr : Nat) (write : Bool)
  /-- Size in octets of the request, its address, and for a write the dwords whose byte enables are whole. -/
  | bar0BadAccess (write : Bool) (addr size : Nat) (dwords : List (Word × Bool))
  | crDoorbell (r index : Nat)
  | cqDoorbell (r index : Nat)
  | rxDoorbell (n index : Nat)
  | nqDoorbell (n index : Nat)
  /-- The CFG value written, with EN = 1. -/
  | ringEnable (kind : RingKind) (n : Nat) (cfg : Word)
  | ringDisable (kind : RingKind) (n : Nat) (cfg : Word)
  | ringDmaError (kind : RingKind) (n : Nat)
  /-- The ring, the 64 octets of the entry, and the octets that the part reads at HOST_ADDR where the command reads host data. -/
  | commandFetch (r : Nat) (entry data : List Byte)
  | completionWrite (q : Nat)
  | notificationWrite (n : Nat)
  | nop (cmd : HostCmd)
  | fence (cmd : HostCmd)
  | fenceComplete (cr index : Nat)
  /-- The ring, the 32 octets of its entry at HEAD, and an error of the Market data that is read. -/
  | rxFrameDma (n : Nat) (entry : List Byte) (err : Option DataErr)
  /-- BAR2 offset, and the octets written. -/
  | apertureWrite (addr : Nat) (data : List Byte)
  | apertureRead (addr len : Nat)
  | mailboxGo
  /-- The status of the served request and the response payload of its CODE. -/
  | mailboxResponse
  | orphanLogClear
  /-- The lines whose record fails its seal check when it is read. -/
  | jrnRead (cmd : HostCmd) (badLines : List Nat)
  /-- Likewise, and the logical blocks of the pool that fail to verify. -/
  | jrnWrite (cmd : HostCmd) (badLines failedBlocks : List Nat)
  | stageWrite (cmd : HostCmd)
  | commit (cmd : HostCmd)
  | commitAt (cmd : HostCmd)
  | commitToken (cmd : HostCmd)
  | commitCancel (cmd : HostCmd)
  | commitInstant (d : Dom)
  | drainEnd (d : Dom)
  | drainForce (d : Dom)
  | retireComplete (d : Dom)
  /-- The logical blocks of the pool that fail to verify. -/
  | commitRecordWrite (failedBlocks : List Nat)
  | patchLoad (cmd : HostCmd) (image : Image)
  | patchSwitchPoint
  | octCfgWrite (g o : Nat) (value : Word)
  | portCfgWrite (lane : Nat) (value : Word)
  | portEnable (lane : Nat)
  | portDisable (lane : Nat)
  | portAligned (port skewNs : Nat)
  | lossOfSignal (lane : Nat) (signalGone : Bool)
  | faultReceived (port : Nat) (localFault : Bool)
  | recoveryEnd (port : Nat)
  | ladderStepPropose (port : Nat)
  | stepTransmitterSwitch (port : Nat)
  | ladderStepSuccess (port skewNs : Nat)
  | ladderStepFail (port : Nat)
  | stepAckTimeout (port : Nat)
  | ladderRetry (port : Nat)
  | ladderNoPeer (port : Nat)
  /-- The four values the loop would choose, one byte each. -/
  | eqLoopStep (lane : Nat) (want : Word)
  | eqPolicyConflict (lane : Nat) (want : Word)
  /-- What a lane's 1 ms held: its corrected symbols, and the codewords of the port that were corrected and are not yet counted
  with another of its lanes. -/
  | fecDegrade (lane symbols words : Nat)
  /-- Port, the octets received so far, and the PCS time of the timestamp point. -/
  | frameArrival (port : Nat) (octets : List Byte) (pcs : Stamp)
  | frameTailArrival (frame : Nat) (octets : List Byte) (verdict : TailVerdict)
  | parseEntry (g : Nat)
  | parseExit (g : Nat)
  | parCaptureArm (g : Nat)
  /-- Space code, bank, byte offset of the word, and its error. -/
  | parseWordRepair (g space bank offset : Nat) (err : WordErr)
  | recircEntry (g : Nat)
  /-- Global stall number (R5). -/
  | stallAdmit (stall : Nat)
  /-- Stall, position of the context among the oldest first, whether the word read fails its parity and its backing copy is
  uncorrectable, and an ECC error of a constant that the word reads: its table, and whether it is uncorrectable. -/
  | stallWordIssue (stall ctx : Nat) (parityBad backingBad : Bool) (constErr : Option (Nat × Bool))
  | waitTimeout (stall ctx : Nat)
  /-- An error of a row that the lookup reads in its hall: the row, and whether it is uncorrectable. -/
  | lookupResult (stall ctx slot : Nat) (err : Option (Nat × Bool))
  | statefulLockGrant (stall ctx port : Nat)
  | statefulReadData (stall ctx port : Nat)
  | meterColour (stall ctx : Nat)
  | parityReloadDone (stall : Nat)
  | stallDepart (stall : Nat)
  | ingressTail (g : Nat)
  /-- The group, and an error of the Market data that the load ops read. -/
  | dequeueDecision (g : Nat) (err : Option DataErr)
  | egressTail (g : Nat)
  | editor (g : Nat)
  /-- Port, PCS time of the timestamp point, and an error of the Market data that is read, with whether the copy had begun. -/
  | copyDeparture (port : Nat) (pcs : Stamp) (begun : Bool) (err : Option DataErr)
  /-- Class-enable vector, the eight times, and whether it is a PAUSE frame. -/
  | pfcFrameReceived (port : Nat) (enable : BitVec 8) (times : List Nat) (isPause : Bool)
  | pfcPauseExpiry (port prio : Nat)
  | pfcFrameSend (port : Nat)
  | pfcRefresh (port prio : Nat)
  | pfcWatchdogTrip (port prio : Nat)
  | pfcWatchdogHoldEnd (port prio : Nat)
  | refillBoundary
  | portQWrite (lane : Nat) (value : Word)
  | carveWrite (value : Word)
  | reserveWrite (hdrm : Bool) (value : Word)
  | bankRetire (bank : Nat) (value : Word)
  | auditSweep
  | auditSweepEnd
  | bufAlloc (cmd : HostCmd)
  | bufFree (cmd : HostCmd)
  | bufSendIngress (cmd : HostCmd)
  | bufSendEgress (cmd : HostCmd)
  | pageFlushTimer (queue : Nat)
  | pageWriteStart (queue : Nat)
  /-- The channels whose cell failed even after a retry. -/
  | pageWriteCommit (stack tag : Nat) (failedCh : List Nat)
  | pageReadStart (queue : Nat)
  /-- The channels whose cell of the page had a single-bit error, and those whose cell was uncorrectable. -/
  | pageReadCommit (stack tag : Nat) (corrCh badCh : List Nat)
  | chRetire (stack : Nat) (value : Word)
  | stackLost (stack : Nat)
  | hbmNoResponse (stack tag : Nat)
  /-- Stack, channel, and the temperature that the stack reports, in °C. -/
  | hbmRefresh (stack ch temp : Nat)
  /-- Patrol of one cell: corrected single-bit error, uncorrectable error. -/
  | patrolScrub (stack page ch : Nat) (corr uncorr : Bool)
  | diagCellRead (stack : Nat) (value : Word)
  | diagCellWrite (stack : Nat) (value : Word)
  | tblSearch (cmd : HostCmd)
  | tblNext (cmd : HostCmd)
  | tblInsert (cmd : HostCmd)
  | tblUpdate (cmd : HostCmd)
  | tblDelete (cmd : HostCmd)
  | tblFlushPort (cmd : HostCmd)
  | tblRead (cmd : HostCmd)
  /-- Descriptor and its word (0 or 1) with the value written. -/
  | descWrite (t word : Nat) (value : Word)
  | hashCfgWrite (k : Nat) (value : Word)
  | clerkIssue
  | clerkOpInForce
  | learnInstall
  | flapHoldEnd (table handle : Nat)
  | ageVisit (table handle : Nat)
  | ageRemove (table handle : Nat)
  | ageRestore (table handle : Nat)
  /-- Hall and row, the entries of the row, and whether every replica is uncorrectable. -/
  | replicaRepair (hall row : Nat) (entries : List (Nat × Nat)) (allBad : Bool)
  /-- One row: a corrected error, an uncorrectable error. -/
  | tableScrub (hall row : Nat) (corr uncorr : Bool)
  | rawRowRead (hall : Nat) (value : Word)
  | rawRowWrite (hall : Nat) (value : Word)
  | stateRead (stall : Nat) (value : Word)
  | stateWrite (stall : Nat) (value : Word)
  | meterRead (stall : Nat) (value : Word)
  | meterWrite (stall : Nat) (value : Word)
  | pipeQuiesce (p : Nat)
  | quiesced (p : Nat)
  | stallHalt (stall : Nat) (halt : Bool)
  /-- As STALL_WORD_ISSUE, for the word that it issues. -/
  | stallStep (stall : Nat) (parityBad backingBad : Bool) (constErr : Option (Nat × Bool))
  | timeSetSet (cmd : HostCmd)
  | timeSetStep (cmd : HostCmd)
  | timeSetSlew (cmd : HostCmd)
  | slewComplete
  | scheduledEventFire
  | nowNsRead (rq : Requester)
  | freqWrite (value : Word)
  | refSelWrite (value : Word)
  | referenceLost
  | timeLock
  | captureEdge (set : Nat) (falling : Bool)
  | pulseArm (n : Nat) (value : Word)
  | pulseStop (n : Nat) (value : Word)
  | pulseEdge (n : Nat)
  | slotStageWrite (cmd : HostCmd)
  | slotStageArm (cmd : HostCmd)
  | slotStageCancel (cmd : HostCmd)
  | slotStageRead (cmd : HostCmd)
  | slotSwitch (lane : Nat)
  | slotEntryBoundary (lane : Nat)
  | protectedSpanStart (lane : Nat)
  | protectedSpanEnd (lane : Nat)
  /-- Port, the idle blocks without Ainum that it sent since its last message, and the PCS time of the head block. -/
  | ainumSend (port idle : Nat) (pcs : Stamp)
  | helloTimer (port : Nat)
  | hello (port : Nat) (msg : AinMsg)
  | confirm (port : Nat) (msg : AinMsg)
  | stepPropose (port : Nat) (msg : AinMsg)
  | stepAck (port : Nat) (msg : AinMsg)
  | timeSyncTimer (port : Nat)
  /-- The message, and the PCS time of its head block. -/
  | timeSync (port : Nat) (msg : AinMsg) (t2 : Stamp)
  /-- The message, and the PCS time of its head block. -/
  | timeReply (port : Nat) (msg : AinMsg) (t4 : Stamp)
  | token (port : Nat) (msg : AinMsg)
  | capNotice (port : Nat) (msg : AinMsg)
  | peerTimeout (port : Nat)
  | tokenGo
  | flowEvictTimer (g slot : Nat)
  | flowFlush
  | exportRecordForm
  | exportMessageSend
  | exportFlushTimer
  | templateSend
  | ldgRead (cmd : HostCmd)
  | ldgSnapshot (cmd : HostCmd)
  | ldgSnapshotComplete (buffer : Nat)
  | pmcCountWrite (n : Nat) (value : Word) (occurrences : Nat)
  | sourceForce (value : Word)
  /-- A write by the host, or by firmware. -/
  | srcCfgWrite (s : Nat) (value : Word) (fw : Bool)
  | vectorTimerExpiry (v : Nat)
  | dispatchCommit (masks : CrierMasks)
  | vecEoi (v : Nat)
  | coreEoi (n : Nat)
  | crossingFault (receiver sender : Nat) (handshake : Nat)
  | graceExpiry (s : Nat)
  | escAck (value : Word)
  | actionsWrite (s : Nat) (value : BitVec 64)
  | escEnd (s : Nat)
  | escIsland (s : Nat)
  | escControl (s : Nat)
  | escCold (s : Nat)
  | escQuiesce (s : Nat)
  | escPortOff (s : Nat)
  | escLoseStack (s : Nat)
  | escWait (s : Nat)
  | regulatorPoll (answers : List RegulatorAnswer)
  | scalesReady
  /-- What the activity model prices, in mW: key p the saving of a cut of pipeline p by one step, 72 + p of one eighth
  off its activity limit, 144 + p the cost of a raise by one step, 216 + p of one eighth more activity. -/
  | capLoopTick (savings : List (Nat × Nat))
  | deferralForce (p : Nat)
  | sclPolicyConflict (p step : Nat)
  | glideComplete (p : Nat)
  | pmbusAlert (bus : Nat) (low : Bool)
  | fastEstimateTick
  | limiterStep
  | limiterRelease
  | absWrite (value : Word)
  | droopTrip (island : Nat)
  | droopClear (island stretchedUs : Nat)
  | phaseTick
  /-- The 13 die sensors and the 36 engine sensors, in °C. -/
  | thermalSense (sensors engines : List Nat)
  | throttleTick
  | cartPresenceChange (bay : Nat) (present : Bool)
  | cartLatchOpen (bay : Nat)
  | cartLatchClose (bay : Nat)
  /-- Whether the cartridge reports a shutdown within 100 ms. -/
  | cartInt (bay : Nat) (shutdown : Bool)
  | cartAuthenticating (bay : Nat) (identity : Identity)
  /-- The tag the cartridge returns to the challenge. -/
  | cartChallengeCheck (bay : Nat) (tag : List Byte)
  | cartEnRaise (bay : Nat)
  | cartActivate (bay : Nat)
  | removalRampStart (bay : Nat)
  | removalRampDone (bay : Nat)
  | removalEnLow (bay : Nat)
  | shareFailed (bay ch : Nat)
  | lightLow (g input : Nat)
  /-- The output of channels as their monitor taps show it: bay, channel, thousandths of full output. A channel not named is at its
  target. -/
  | wearTick (outputs : List (Nat × Nat × Nat))
  /-- The logical blocks of the pool that fail to verify. -/
  | wearRecordWrite (failedBlocks : List Nat)
  /-- Bay, channel and the drive the loop wants, in units of 0.01 mA. -/
  | currentLoopStep (bay ch want : Nat)
  | cartPolicyConflict (bay ch want : Nat)
  | readId (cmd : HostCmd)
  | reauth (cmd : HostCmd) (tag : List Byte)
  | setPolicy (cmd : HostCmd)
  | prepareRemove (cmd : HostCmd)
  | keyUnwrap (cmd : HostCmd)
  | keyErase (cmd : HostCmd)
  | ctxSave (cmd : HostCmd)
  | ctxRestore (cmd : HostCmd)
  | keyEpochStart
  | trngFail
  | hbmPhyTrained (stack : Nat) (failedCh : List Nat)
  | watchdogPageFree (queue : Nat)
  | trngOk
  | faultCleared (port : Nat)
  | signalPresent (port : Nat)
  | uncorrectableCodeword (lane : Nat)
  | commandTimeout (cr index : Nat)
  deriving DecidableEq, Repr

end Sys2Proof
end

