-- ==== Sys2Proof/Machine/State.lean ====
section
/-!
DEFINITION. The state of the TM1152 as plain data, its fault and refusal reasons, and the state at reset.
Every BAR0 register, the read-only status registers among them, is a dword of `regs`, keyed by its BAR0
address and absent where it holds its reset value (Machine/RegMap.lean gives that value); what is no
register is a typed field.
-/
namespace Sys2Proof.Machine

/-- The life-cycle states of R56. -/
inductive LcState where
  | blank | provisioned | operational | debug | retired
  deriving DecidableEq, Repr

/-- The fuses of one life-cycle state (R59, Table SEC-7): what its transition burns, the commit fuse last. -/
structure StateFuses where
  state : LcState
  rma : Bool
  ownerHash : Option (List Byte)
  ownerKek : Option (List Byte)
  /-- Device root key, OWNER_KEK and CMK are never used again. -/
  keyDisable : Bool
  /-- The commit fuse of the state. -/
  committed : Bool
  deriving DecidableEq, Repr

/-- The fuses (R9, R35, R56, R59, R477, R480, R483). -/
structure Fuses where
  /-- Lanes of the part that do not run at 200 Gbit/s, as made (R139, Table AIN-2). -/
  slowLanes : List Nat
  variant : Nat
  selfId : Nat
  /-- The activity model's coefficients (R460): of a packet slot, a stall word, a lookup, a Market grant, an HBM beat and a lane bit, each in fJ of
  package energy and in µA of VDD_CORE current for one in a µs. -/
  weights : List (Nat × Nat)
  /-- The fuses burned for each state entered, or begun to be entered, newest first. -/
  states : List StateFuses
  kRevoke : BitVec 4
  fwFloor : Nat
  patchFloor : Nat
  deriving DecidableEq, Repr

/-- The fuses that the part decodes: those of a state burned without its commit fuse are ignored (R59). -/
def Fuses.decoded (f : Fuses) : List StateFuses := f.states.filter (·.committed)
/-- The state is that of the newest commit fuse (R59), BLANK with none. -/
def Fuses.lcs (f : Fuses) : LcState := match f.decoded with | [] => .blank | x :: _ => x.state
def Fuses.rma (f : Fuses) : Bool := f.decoded.any (·.rma)
def Fuses.ownerHash (f : Fuses) : Option (List Byte) := f.decoded.findSome? (·.ownerHash)
def Fuses.ownerKek (f : Fuses) : Option (List Byte) := f.decoded.findSome? (·.ownerKek)
def Fuses.keyDisable (f : Fuses) : Bool := f.decoded.any (·.keyDisable)

/-- The SPI NOR flash as the part uses it (R478, R126, R443). -/
structure Flash where
  slotA : Option Image
  slotB : Option Image
  recovery : Option Image
  patch : Option Image
  /-- The places whose image verifies as signed: 0 slot A, 1 slot B, 2 recovery, 3 patch area. -/
  sound : List Nat
  /-- The regulator table of the board configuration record: entry and its register word. -/
  regulators : List (Nat × Word)
  deriving DecidableEq, Repr

/-- The clock of R349, with the remainder below 2^-16 ns of R352 in units of 10^-9 of it, and the slew left to
apply (R353) in units of 2^-16 ns x 10^-9. -/
structure Clock where
  sec : Nat
  ns : Nat
  frac : Nat
  rem : Nat
  running : Bool
  slewLeft : Int
  /-- A slew is in progress (R353). -/
  slewing : Bool
  deriving DecidableEq, Repr

/-- A life-cycle transition accepted and not yet carried out (R58, R482). -/
structure LcsJob where
  target : LcState
  rma : Bool
  ownerHash : Option (List Byte)
  ownerKek : Option (List Byte)
  deriving DecidableEq, Repr

/-- A learned phase (R454). -/
structure Phase where
  centroid : List Nat
  steps : List Nat
  /-- Instant of its last use. -/
  used : Nat
  deriving DecidableEq, Repr

/-- An entry of the system log (Table ISL-14): a reset with TOP.RESET_CAUSE, a control reset, a life-cycle state entered, or the
versions that run: the SVN of the firmware and the level of the patch. -/
inductive SysEntry where
  | reset (cause : Word)
  | control
  | lifeCycle (state : Nat)
  | versions (svn patch : Nat)
  deriving DecidableEq, Repr

/-- A fault record (R435): a first-error record as its eight dwords, or an escalation. -/
inductive FaultEntry where
  | first (source : Nat) (words : List Word)
  | escalation (source : Nat)
  deriving DecidableEq, Repr

/-- A commit record (R124, Table ISL-14): versions of the domains as named (0 = not named, else version plus one), whether T had passed,
T in ns where the commit has one, and the id of the token that it awaits. -/
structure CommitRec where
  ing : Nat
  egr : Nat
  passed : Bool
  t : Option Nat
  token : Option Nat
  deriving DecidableEq, Repr

/-- A cartridge record (R162, Table ISL-14): the identity and the wear units of a cartridge, and its bay. -/
structure CartRec where
  serial : Nat
  bay : Nat
  identity : List Byte
  wear : Nat
  deriving DecidableEq, Repr

/-- One copy of the remap table (Table ISL-14, R66): logical block to physical block, where it is not the identity. -/
structure RemapCopy where
  gen : Nat
  table : Store Nat
  deriving DecidableEq, Repr

/-- One copy of the root in the anchor (Table ISL-14): which remap copy is in force, and its generation. -/
structure Root where
  copy : Bool
  gen : Nat
  deriving DecidableEq, Repr

/-- What a journal record says, by partition (Table ISL-14): system log, fault records, cartridge records, commit records, firmware state
(policy, phases, ladder and equalisation of a port) and host partition. -/
inductive JrnEntry where
  | sys (e : SysEntry)
  | fault (e : FaultEntry)
  | cart (r : CartRec)
  | commit (r : CommitRec)
  | policy (admits : Bool)
  | phases (l : List Phase)
  | ladder (port : Nat) (full : Bool) (eq : List Word)
  | host (first : Nat) (data : List Byte)
  deriving DecidableEq, Repr

/-- The commit line that ends a record (R68): sequence number, CRC-32 and, in a sealed partition, the AES-GCM tag. -/
structure CommitLine where
  seq : Nat
  crc : BitVec 32
  tag : List Byte
  deriving DecidableEq, Repr

/-- A journal record with its commit line (R68). -/
structure JrnRecord where
  entry : JrnEntry
  line : CommitLine
  deriving DecidableEq, Repr

/-- The journal (R65-R69): what survives every reset. -/
structure Journal where
  /-- The two copies of the root, and of the remap table. -/
  anchorA : Root
  anchorB : Root
  remapA : RemapCopy
  remapB : RemapCopy
  /-- The records that firmware reads back, newest first. -/
  records : List JrnRecord
  /-- Host partition, line l byte i at 64 l + i. -/
  host : Store Byte
  /-- Highest sequence number used in each partition, in the order of Table ISL-14 from the system log (0) on. -/
  seq : Store Nat
  /-- Writes of each line of the levelled pool: line i of physical block p at 64 p + i. -/
  wear : Store Nat
  /-- Physical blocks retired. -/
  retiredBlocks : List Nat
  /-- Spare physical blocks of the levelled pool. -/
  spareList : List Nat
  hostLost : Nat
  exhausted : Bool
  /-- Logical blocks that stay mapped though they fail to verify (R67). -/
  stuck : List Nat
  deriving DecidableEq, Repr

/-- A host access that waits at the crossing into its island (R42, R48): a dword write, a write of a whole 64-bit register,
or a read of one dword or of an aligned pair. -/
inductive Held where
  | write (addr : Nat) (value : Word)
  | wide (addr : Nat) (lo : Option Word) (hi : Word)
  | read (rq : Requester) (addr : Nat) (pair : Bool)
  deriving DecidableEq, Repr

/-- The address that a held access names. -/
def Held.addr : Held → Nat
  | .write a _ => a
  | .wide a _ _ => a
  | .read _ a _ => a

/-- What a land is doing: a reset state of Table PKG-3, a level driven, or the traffic of the block that owns the land. -/
inductive Level where
  | idle | termOff | commonMode | low | high | highZ | pullUp | pullDown | released | input | passive | connected
  /-- The block that owns the land has taken it over. -/
  | owned
  deriving DecidableEq, Repr

/-- The signal lands that the part drives or terminates and that no register shows (Table PKG-3); CARTc_EN is BAYc.STATUS.EN and
TOUTn is in `pulses`. DESIGN CHOICE (log 81). -/
structure Lands where
  pcieTx : Level
  pcieRx : Level
  mgmtTx : Level
  mgmtMdc : Level
  mgmtMdio : Level
  spiClk : Level
  spiCs : Level
  spiIo : Level
  tdo : Level
  pmbus : Level
  gpio : Level
  cartBus : Level
  /-- VDD_IO is below its minimum operating voltage (R23). -/
  ioLow : Bool
  deriving DecidableEq, Repr

/-- Reset, life-cycle, supply and firmware state (chapters 01, 02). -/
structure Top where
  fuses : Fuses
  flash : Flash
  /-- The part is in cold reset: between its cause and t0 (R52). -/
  inReset : Bool
  /-- Islands in island reset (R48). -/
  islands : List Nat
  /-- Those whose reset was asked through TOP.ISL_RESET. -/
  islandsByReg : List Nat
  /-- Islands whose REFCLK pair was absent at t0: held in reset (R40). -/
  unfed : List Nat
  /-- Host accesses held at the crossings, oldest first (R41, R42, R48). -/
  held : List Held
  lcsJob : Option LcsJob
  /-- A VDD_CORE excursion below 0.66 V is under way (R62). -/
  warning : Bool
  /-- Instants, by `elapsed`, at which the last warnings began (R63). -/
  warnStarts : List Nat
  /-- The cores are held for JTAG (R35, R505). -/
  jtagHold : Bool
  controlReset : Bool
  /-- A control reset has been asked for and has not begun. -/
  controlDue : Bool
  /-- The firmware that runs: 0 slot A, 1 slot B, 2 recovery. -/
  running : Nat
  /-- Firmware has not run since the cold or life-cycle reset. -/
  coldBoot : Bool
  lands : Lands
  deriving DecidableEq, Repr

/-- How far a fetched command has come (R90, R98). -/
inductive CmdPhase where
  /-- Fetched, not started, host data not read. -/
  | fetched
  /-- Held for a condition: the table wipe, firmware, an idle context. -/
  | held
  /-- Taken by a control core (R47). -/
  | taken
  /-- Started by hardware, or accepted and waiting for its effect. -/
  | started
  /-- Its completion is formed and not yet written. -/
  | done
  deriving DecidableEq, Repr

/-- A command that counts against the 1,024 of R90. -/
structure OutCmd where
  cmd : HostCmd
  phase : CmdPhase
  /-- For a FENCE: the keys of the commands that it covers (R92). -/
  covers : List (Nat × Nat × Nat)
  since : Nat
  deriving DecidableEq, Repr

/-- A completion (Table HIF-9). -/
structure Completion where
  /-- The doorbell that made the command visible. -/
  bell : Nat
  cr : Nat
  index : Nat
  opcode : Nat
  status : Nat
  tag : Nat
  result : List Byte
  ts32 : Nat
  notify : Bool
  deriving DecidableEq, Repr

/-- A notification entry (R94): KIND and payload octets 4-27. -/
structure Notif where
  kind : Nat
  payload : List Byte
  deriving DecidableEq, Repr

/-- An orphan-log entry (R101). -/
structure Orphan where
  tag : Nat
  opcode : Nat
  cr : Nat
  status : Nat
  deriving DecidableEq, Repr

/-- A mailbox request being served (R96). -/
structure MailReq where
  code : Nat
  tag : Nat
  /-- The 256 octets of the request area. -/
  area : List Byte
  taken : Bool
  deriving DecidableEq, Repr

/-- Host interface (chapter 03). -/
structure Hif where
  /-- The host island is in reset. -/
  perst : Bool
  /-- It is in reset for a PERST_N reset, not a cold reset. -/
  fromPerst : Bool
  /-- PERST_N is high. -/
  perstHigh : Bool
  /-- Ring entries that doorbells made visible and that are not fetched: ring, index and number of the doorbell, their key (R92). -/
  visible : List (Nat × Nat × Nat)
  /-- Doorbells of CRs since the state was made: the model's own count. -/
  bellSeq : Nat
  outstanding : List OutCmd
  /-- Completions formed and waiting for room, with their CQ. -/
  completions : List (Nat × Completion)
  /-- Notifications waiting for room, with their NQ. -/
  notifs : List (Nat × Notif)
  /-- PHASE of the next entry of each CQ (0-15) and NQ (16-23); true is the value after EN is set. -/
  phaseInv : Store Bool
  /-- The last doorbell before the last PERST_N reset: what it and earlier ones made visible is left to be settled (R98). -/
  oldBell : Nat
  /-- Commands that a PERST_N reset left to run to their end and to be recorded in the orphan log (R98). -/
  settling : List OutCmd
  /-- The mailbox request that a PERST_N reset left likewise. -/
  oldMail : Option MailReq
  /-- Read latches of R75: requester, address, high word. -/
  latches : List (Requester × Nat × Word)
  /-- Held low words of R75. -/
  heldLow : List (Requester × Nat × Word)
  mail : Option MailReq
  /-- The ring served last by COMMAND_FETCH. -/
  lastCr : Nat
  /-- MSI-X Enable and Function Mask of the function (R427). -/
  msixOn : Bool
  msixMask : Bool
  /-- UA + 1 of the buffer that each aperture slot maps; 0 unmapped. -/
  slots : Store Nat
  /-- Octets of host-owned buffers, at UA x 256 + offset. -/
  buf : Store Byte
  deriving DecidableEq, Repr

/-- One change-log entry (R114): the table, the key that it changed and the copies that it touched. -/
structure Change where
  table : Nat
  /-- The EXACT key, the LPM key under its prefix, or the TCAM row; and the prefix length. -/
  key : Nat
  plen : Nat
  /-- Handles of the copies the change touches. -/
  handles : List Nat
  deriving DecidableEq, Repr

/-- A commit accepted and waiting for its instant or its token (R117, R120). -/
structure CommitGrp where
  /-- The domains that it names and that a cancel has not taken out. -/
  doms : List Dom
  /-- T in ns since the clock's zero; none while a token is awaited. -/
  t : Option Nat
  token : Option Nat
  /-- Made by COMMIT, and so not cancellable (R119). -/
  byCommit : Bool
  cmd : HostCmd
  deferred : Bool
  deriving DecidableEq, Repr

/-- The part of a version domain that is not in its registers (R106-R124). -/
structure Domain where
  /-- The previous commit instant in ns. -/
  prevT : Option Nat
  changeLog : List Change
  /-- Change-log entries that retire has still to work through. -/
  retireTodo : List Change
  deriving DecidableEq, Repr

/-- A PATCH_LOAD that firmware is applying (R126). -/
structure PatchJob where
  cmd : HostCmd
  image : Image
  deriving DecidableEq, Repr

/-- Programs and versions (chapter 04). -/
structure Prg where
  ing : Domain
  egr : Domain
  groups : List CommitGrp
  /-- Commit events not yet recorded in the journal, oldest first (R124). -/
  events : List CommitRec
  patch : Option PatchJob
  /-- The patch in force in the engines' shadow stores. -/
  patchInForce : Option Image
  deriving DecidableEq, Repr

/-- What a port holds beside its registers: the ladder of R139-R142. DEDUCED (log 26). -/
structure PortSt where
  /-- Finished ladder bring-up (R141): UP at 200 Gbit/s, or holding UP_LADDER. -/
  finished : Bool
  /-- Next step number, and the one proposed and not yet acknowledged. -/
  stepNo : Nat
  proposed : Option Nat
  /-- The step instant has been taken (R392). -/
  stepTaken : Bool
  /-- A retry is waited for (R140). -/
  retry : Bool
  /-- The port has been in a fault or NO_SIGNAL since it last carried frames or was enabled (R143). -/
  fromFault : Bool
  /-- A ladder port acquires at 200 Gbit/s per lane (R142). -/
  full : Bool
  /-- A step proposal received while firmware does not run: its number (R142). -/
  owedAck : Option Nat
  /-- The port was disabled while its MAC had a frame, which it finishes (R144). -/
  finishing : Bool
  deriving DecidableEq, Repr

/-- A packet's Tally record (Table TAL-1), STAMP 0xFFFF where not written. -/
structure Tally where
  ingTs : Nat
  srcPort : Nat
  egrPort : Nat
  prio : Nat
  colour : Nat
  passes : Nat
  spilled : Bool
  cut : Bool
  queue : Nat
  occEnq : Nat
  ingVer : Nat
  egrVer : Nat
  egrTs : Nat
  stamps : List Nat
  user : Nat
  flags : BitVec 8
  reason : Nat
  deriving DecidableEq, Repr

/-- A frame inside the part: its octets without FCS, header vector and metadata (codes 0-223, absent = 0). -/
structure Packet where
  id : Nat
  octets : List Byte
  /-- The end has been received. -/
  whole : Bool
  /-- 0, or the drop reason of a bad frame (R286). -/
  bad : Nat
  /-- Sent by BUF_SEND, and the unit to free at parse. -/
  fromHost : Bool
  unit : Nat
  vec : Store Word
  /-- The ingress pipeline that parses it; for a frame sent in egress mode the pipeline of its queue. -/
  pipe : Nat
  /-- FRAC of the ingress timestamp (R358). -/
  frac : Nat
  ingVer : Nat
  egrVer : Nat
  tally : Tally
  /-- Error of the last parse pass, its ending state and cursor (R179-R188). -/
  parseErr : Nat
  parseState : Nat
  parseCursor : Nat
  /-- The cursor at the end of the parse, and whether a state has set MD_ORIGIN.ORIGIN (R183). -/
  parseEnd : Nat
  originSet : Bool
  /-- The drop reason that hardware set in MD_DISP (R207); 0 none. -/
  hwReason : Nat
  deriving DecidableEq, Repr

/-- What a copy is (R277). -/
inductive CopyKind where
  | port | cpu | mirror
  deriving DecidableEq, Repr

/-- A copy of a frame on its way through a queue and egress. -/
structure Copy where
  pkt : Packet
  kind : CopyKind
  queue : Nat
  port : Nat
  cells : Nat
  admitted : Nat
  dequeued : Nat
  /-- Charged length and projected start at dequeue (R336, R376). -/
  charged : Int
  projected : Nat
  hdrm : Bool
  /-- Selected by a watchdog trip (R340). -/
  selected : Bool
  /-- Octets kept: 0 = whole frame (R289). -/
  trunc : Nat
  /-- Octets counted as dequeued and not yet transmitted (R330). -/
  sent : Nat
  /-- Window guard at dequeue: end of the window in ns; 0 = no window ends (R376). -/
  windowEnd : Nat
  /-- A slot table governed its projected start, with that table's OVERRUN (R376). -/
  gated : Bool
  overrun : Nat
  /-- REASON of the receive entry (Table HIF-12). -/
  rxReason : Nat
  /-- A load op of its profile faulted, for which the editor drops it (R211). -/
  loadFault : Bool
  /-- The head of the frame as edited, and the stored octets that it stands for (R209): each octet with its stored position
  plus one, 0 where it was inserted. -/
  edited : Option (List (Nat × Byte) × Nat)
  /-- A PTP op that acts at departure: its parameter, stored position of the header and of the UDP header (R360). -/
  ptp : Option (Nat × Nat × Nat)
  /-- Fields that the IOAM op writes at departure: tag of the first octet and kind 0 SEC, 1 NS, 2 delay, 3 EGR_TS32 (R416). -/
  ioam : List (Nat × Nat)
  deriving DecidableEq, Repr

/-- A frame's data in the Market (R288). -/
structure MFrame where
  id : Nat
  port : Nat
  prio : Nat
  cells : Nat
  /-- Its cells count in HDRM_USED: a copy in the Market was admitted into headroom (R282). -/
  hdrm : Bool
  /-- It takes its units in the headroom class: any of its copies was (R282). -/
  hclass : Bool
  units : List Nat
  refs : Nat
  deriving DecidableEq, Repr

/-- A unit's tag (Table MKT-7) and pool; class 0 is FREE. -/
structure UnitTag where
  cls : Nat
  id : Nat
  pool : Nat
  /-- Sweeps in a row at whose end the mark stood (R295). -/
  marks : Nat
  deriving DecidableEq, Repr

/-- The Market (chapter 11). -/
structure Market where
  units : Store UnitTag
  frames : List MFrame
  queues : Store (List Copy)
  /-- Bank of each requester's previous grant plus one: tails 0-35, the Barrow 36, the host 37. -/
  lastBank : Store Nat
  /-- Samples seen by each mirror session. -/
  samples : Store Nat
  /-- Uncorrectable errors of each bank, by instant. -/
  bankErrs : List (Nat × Nat)
  /-- Units the sweep in progress examines: held at its start. -/
  sweep : Option (List Nat)
  hostHeld : List Nat
  deriving DecidableEq, Repr

/-- A lookup in flight (R200, R233, R243): its table, key bits, the version that chooses the parity, and for a
learning lookup the port learned. -/
structure LkReq where
  table : Nat
  key : Nat
  parity : Nat
  /-- The domain of the lookup's pipeline (R105). -/
  dom : Dom
  noTouch : Bool
  /-- With MEMBER: the hash that chooses the member (R249). -/
  member : Option Nat
  /-- The port that a LOOKUP_LEARN would learn. -/
  learn : Option Nat
  /-- Bits of its key, the wider one of two with MEMBER; none for a profile that is bad in itself (R243). -/
  bits : Option Nat
  deriving DecidableEq, Repr

/-- A lookup result slot (R200, R245). -/
structure LkSlot where
  words : List Word
  /-- A lookup is in flight, with its request. -/
  req : Option LkReq
  deriving DecidableEq, Repr

/-- A stateful port of a context (R201, R227). DEDUCED (log 36). -/
structure SPort where
  index : Option Nat
  /-- The open waits for another context's lock. -/
  waiting : Bool
  locked : Bool
  /-- Read data on its way, and whether the read data of the open index has arrived. -/
  reading : Option (BitVec 64)
  arrived : Bool
  /-- The read data that has arrived, and the value last delivered to this context, if any. -/
  data : BitVec 64
  delivered : Option (BitVec 64)
  /-- Value this packet last wrote through the port. -/
  wrote : Option (BitVec 64)
  /-- A write held while the open waits: whole or low half only. -/
  heldWrite : Option (Bool × BitVec 64)
  deriving DecidableEq, Repr

/-- A stall context (R190). -/
structure Ctx where
  /-- Its number, as CTX_STATUS shows it (R217). -/
  num : Nat
  pkt : Packet
  copy : Option Copy
  next : Nat
  issued : Nat
  finished : Bool
  slots : List LkSlot
  ports : List SPort
  /-- Colours of meter operations on their way, oldest first, and whether each is a red that drops. -/
  meters : List (Nat × Bool)
  preds : BitVec 16
  /-- Marked by a parity machine check (R213). -/
  marked : Bool
  deriving DecidableEq, Repr

/-- A stall (R190, R213, R216): its contexts, oldest first. -/
structure Stall where
  ctxs : List Ctx
  paused : Bool
  /-- Program-store key of the failing word, its address and the backing copy's verdict, for each reload under way. -/
  reloads : List (Nat × Nat × Bool)
  /-- Host writes of stateful registers that wait for a lock (R202). -/
  hostWrites : List (Nat × BitVec 64)
  /-- Data writes of finished packets whose opens still waited: index, and whole or low half only (R201). -/
  lateWrites : List (Nat × Bool × BitVec 64)
  deriving DecidableEq, Repr

/-- A meter entry in force (Table SCH-5) and its buckets, in 1/65,536 octet. -/
structure Meter where
  words : List Word
  cTok : Int
  eTok : Int
  /-- Lengths to return or take at the next boundary: committed and excess bucket. -/
  adjC : Int
  adjE : Int
  deriving DecidableEq, Repr

/-- A frame whose octets are still arriving on a port. -/
structure Arriving where
  id : Nat
  port : Nat
  /-- Octets received so far. -/
  got : List Byte
  deriving DecidableEq, Repr

/-- A packet on its way into a stall: with its copy in an egress pipeline. -/
structure Flight where
  pkt : Packet
  copy : Option Copy
  deriving DecidableEq, Repr

/-- The pipelines (chapters 07-09). -/
structure Pipes where
  arriving : List Arriving
  /-- Frames in the ingress hold of each group, oldest first. -/
  hold : Store (List Packet)
  /-- Frames inside each parse engine, oldest first. -/
  parse : Store (List Packet)
  /-- The recirculation buffer of each ingress pipeline. -/
  recirc : Store (List Packet)
  /-- Frames that left S19, waiting for the ingress tail. -/
  toTail : Store (List Packet)
  stalls : Store Stall
  /-- Packets passed on to each stall and not yet admitted. -/
  entry : Store (List Flight)
  /-- The frame that entered parse last from the recirculation path of a pipeline was a host frame (R293). -/
  recircHost : Store Bool
  toETail : Store (List Copy)
  toEditor : Store (List Copy)
  /-- Copies given to the MAC of each port. -/
  mac : Store (List Copy)
  stateRegs : Store (BitVec 64)
  meters : Store Meter
  /-- Host meter writes waiting for the refill boundary. -/
  meterWrites : List (Nat × List Word)
  /-- Stall words poisoned (R214), by program store key. -/
  poison : List Nat
  /-- Parse words both copies of which are bad, and patterns that are bad (R186). -/
  parsePoison : List Nat
  nextId : Nat
  /-- Meter charges to true up at a frame's tail: frame, meter key, 0 committed, 1 excess, 2 both buckets (R343). -/
  meterOwed : List (Nat × Nat × Nat)
  deriving DecidableEq, Repr

/-- A record waiting in the spill staging or held by a page (R309). -/
structure Record where
  copy : Copy
  /-- Bytes of the record. -/
  bytes : Nat
  deriving DecidableEq, Repr

/-- A page of a queue (R307, R308). -/
structure Page where
  page : Nat
  seq : Nat
  /-- Bytes of record data: USED of the header. -/
  used : Nat
  /-- The records that end in the page. -/
  ends : List Record
  /-- A record runs on into the next page. -/
  runsOn : Bool
  /-- The channel left out, in the degraded layout. -/
  degraded : Option Nat
  /-- Channels whose cell failed to write (R319). -/
  bad : List Nat
  /-- Holds copies that a watchdog trip selected. -/
  selected : Bool
  deriving DecidableEq, Repr

/-- The spill side of one queue (R303-R313). -/
structure SpillQ where
  spilling : Bool
  stack : Nat
  /-- SEQ of the next page to form, and of the next read to commit. -/
  nextSeq : Nat
  drainSeq : Nat
  /-- Records in the staging, oldest first, not yet wholly in a page. -/
  staging : List Record
  /-- Bytes of the oldest staged record already in a page. -/
  cut : Nat
  /-- The page now open: its number, and the channel that its layout leaves out (R307, R320). -/
  openPage : Option (Nat × Option Nat)
  /-- The page that follows, taken when a page was opened (R308). -/
  nextPage : Option Nat
  /-- The open page is to be written as it stands (R310). -/
  flush : Bool
  /-- Pages written and held in HBM, in order, whose read has not started. -/
  pages : List Page
  /-- Bytes of a record that earlier committed pages have given. -/
  carry : List Byte
  /-- That record has lost a part and is dropped when it ends (R319). -/
  carryLost : Bool
  deriving DecidableEq, Repr

/-- What a page transfer moves. -/
inductive XferKind where
  | write | read
  /-- A page drained from the staging (R313). -/
  | bypass
  deriving DecidableEq, Repr

/-- A page transfer in flight (R311). -/
structure Xfer where
  stack : Nat
  tag : Nat
  kind : XferKind
  queue : Nat
  page : Page
  /-- Page data, for a bypass. -/
  data : List Byte
  /-- Cells taken for the drained frames of a read, in record order. -/
  units : List (List Nat)
  /-- The read has completed and waits for an earlier page (R312), with its page data, none where unrecoverable. -/
  done : Option (Option (List Byte))
  deriving DecidableEq, Repr

/-- The spill path (chapter 12). -/
structure Spill where
  q : Store SpillQ
  /-- Page cells of 256 bytes, zero where absent: (stack x 16 + channel) x 2^23 + page. -/
  hbm : Store (List Byte)
  xfers : List Xfer
  /-- Pages never taken start here above 256; pages given back, per stack. -/
  fresh : Store Nat
  freed : Store (List Nat)
  /-- Stacks whose wipe is under way. -/
  wiping : List Nat
  /-- Stacks wiped since the last cold reset and not lost since (R323). -/
  wiped : List Nat
  /-- Uncorrectable errors: stack x 16 + channel, instant. -/
  errs : List (Nat × Nat)
  /-- Count of refreshes taken per channel. -/
  refreshes : Store Nat
  deriving DecidableEq, Repr

/-- A frame dequeued before its length was known: what it was charged for, and where (R336). -/
structure Owed where
  frame : Nat
  queue : Nat
  port : Nat
  /-- The length taken for it: MAX_SDU of its queue. -/
  base : Int
  /-- The buckets charged: committed, peak, port; and whether the deficit was. -/
  com : Bool
  peak : Bool
  shaper : Bool
  dwrr : Bool
  deriving DecidableEq, Repr

/-- Schedulers (chapter 13). -/
structure Sched where
  /-- The next refill boundary in ns since the clock's zero (R334, R354). -/
  nextRefill : Nat
  /-- SCH registers in force for decisions (R337). -/
  force : Store Word
  /-- Port position served last, per group. -/
  lastPort : Store Nat
  /-- Queue served last in each pass and level, keyed by port x 16 + pass x 8 + level, plus one. -/
  lastQueue : Store Nat
  deficit : Store Int
  /-- The queue whose DWRR turn it is, keyed by port x 8 + level, plus one. -/
  turn : Store Nat
  /-- Bucket counts less their reset burst, in 1/65,536 octet. -/
  cTok : Store Int
  pTok : Store Int
  portTok : Store Int
  /-- Frames dequeued before their length was known. -/
  owed : List Owed
  /-- Those whose tail has arrived, with the octets to return at the next boundary (R336). -/
  refund : List (Owed × Int)
  single : Store Bool
  /-- Octets dequeued and not yet transmitted, per port. -/
  unsent : Store Nat
  /-- End of each pause by `elapsed`, keyed by port x 8 + priority; 0 = not paused. -/
  pauseEnd : Store Nat
  /-- Start plus one of the pause without a break. -/
  pausedSince : Store Nat
  /-- The last PFC frame received for a priority: instant plus one and pause length in ns. -/
  lastPfc : Store (Nat × Nat)
  /-- Watchdog holds running, keyed as pauses: end instant. -/
  wdHold : Store Nat
  /-- XOFF changes not yet sent on each port: bits of changed priorities. -/
  xoffDue : Store Nat
  lastCpu : Nat
  deriving DecidableEq, Repr

/-- A table entry (R240). `row` is a TCAM row; `handle` serves EXACT and LPM. -/
structure Entry where
  handle : Nat
  key : Nat
  mask : Nat
  plen : Nat
  data : BitVec 96
  present : BitVec 2
  static : Bool
  age : Bool
  learned : Bool
  pinned : Bool
  /-- Hit bit, arm and removal of the entry in each of the nine replicas (R258). -/
  hit : BitVec 9
  armed : BitVec 9
  gone : BitVec 9
  /-- An ageing visit has been made since the entry began to age (R257). -/
  visited : Bool
  /-- Moves counted in the open window, and the window's start plus one (R256). -/
  moves : Nat
  window : Nat
  deriving DecidableEq, Repr

/-- A multicast group (R250). -/
structure MGroup where
  mask : Nat
  qidx : Nat
  deriving DecidableEq, Repr

/-- A range of a pool with entries written under a KIND and WIDTH that no descriptor names any more (R242). -/
structure PoolPart where
  kind : Nat
  width : Nat
  base : Nat
  size : Nat
  entries : List Entry
  deriving DecidableEq, Repr

/-- The tables as the Clerk orders their changes. -/
structure Tables where
  entries : Store (List Entry)
  left : List PoolPart
  /-- KIND, WIDTH, BASE and SIZE under which the entries of a table were written (R242). -/
  shape : Store Nat
  groups : Store (BitVec 96)
  members : Store (BitVec 96)
  mcast : Store MGroup
  /-- Rows written through RAW_CTRL: hall x 2^21 + row (DESIGN CHOICE, log 14). -/
  raw : Store (List Word)
  deriving DecidableEq, Repr

/-- A learn request (R254). -/
structure LearnReq where
  table : Nat
  key : Nat
  port : Nat
  deriving DecidableEq, Repr

/-- A Clerk operation of the class HOST (R253). -/
inductive ClerkOp where
  | cmd (c : HostCmd)
  | desc (t word : Nat) (v : Word)
  | hash (k : Nat) (v : Word)
  deriving DecidableEq, Repr

/-- What an ageing operation does in each replica as it comes to apply it (R258). -/
inductive AgeOp where
  | remove (t h : Nat)
  | restore (t h : Nat)
  deriving DecidableEq, Repr

/-- An operation issued and not yet in force everywhere (R252), with the tables and the registers that it changed as they
stood before it. -/
structure Issued where
  before : Tables
  old : List (Nat × Word)
  /-- The replicas that have applied it. -/
  seen : BitVec 9
  age : Option AgeOp
  /-- The completion to write when it is in force. -/
  done : Option (HostCmd × Nat × List Byte)
  /-- A descriptor or HASH_CFG write. -/
  write : Bool
  deriving DecidableEq, Repr

/-- The Clerk (R251-R263). -/
structure Clerk where
  host : List ClerkOp
  learn : List LearnReq
  /-- Entries (table, handle) whose REMOVE is due, and whose restore is due. -/
  remove : List (Nat × Nat)
  restore : List (Nat × Nat)
  /-- Entries whose TEST visit is due. -/
  age : List (Nat × Nat)
  /-- Rows (hall, row) with an uncorrectable error, not yet repaired (R266). -/
  repair : List (Nat × Nat)
  inFlight : List Issued
  /-- Class served last: 0 HOST, 1 LEARN, 2 AGE. -/
  lastClass : Nat
  deriving DecidableEq, Repr

/-- A slot-table entry (Table WIN-2). -/
structure SlotEntry where
  prot : Bool
  interval : Nat
  gates : BitVec 64
  deriving DecidableEq, Repr

/-- A slot table (Table WIN-1); COUNT is the number of entries. -/
structure SlotTable where
  baseSec : Nat
  baseNs : Nat
  cycle : Nat
  overrun : Nat
  protLead : Nat
  entries : List SlotEntry
  deriving DecidableEq, Repr

/-- The two copies of a lane position's table (R368) and a pending switch (R373). -/
structure SlotPair where
  oper : SlotTable
  staged : SlotTable
  armed : Option Nat
  deriving DecidableEq, Repr

/-- A pulse output as armed (R365). -/
structure Pulse where
  mode : Nat
  pol : Bool
  start : Nat
  period : Nat
  width : Nat
  /-- Index of the next pulse, and whether a pulse is being driven. -/
  k : Nat
  high : Bool
  deriving DecidableEq, Repr

/-- Ainum on one port (R387-R394). -/
structure AinPort where
  /-- Pending messages, oldest first. -/
  pend : List AinMsg
  /-- The last 64 idle blocks, newest first: whether each carried background. -/
  recent : List Bool
  /-- Idle blocks within the last 1 ms: instant, blocks left idle, blocks that carried Ainum. -/
  idles : List (Nat × Nat × Nat)
  /-- NONCE of the last HELLO sent, and of the peer's last HELLO. -/
  myNonce : Option Nat
  peerNonce : Option Nat
  /-- Messages sent in the session, and the last counter accepted. -/
  txCtr : Nat
  rxCtr : Option Nat
  linkKey : Option (List Byte)
  /-- Instants of authentication failures within 1 s. -/
  fails : List Nat
  /-- Number of the last exchange started, and its t1 in 2^-16 ns once sent. -/
  exch : Nat
  t1 : Option Nat
  deriving DecidableEq, Repr

/-- Ainum (chapter 16). -/
structure Ainum where
  ports : Store AinPort
  /-- Tokens accepted: id, T in ns, instant. -/
  tokens : List (Nat × Nat × Nat)
  /-- Ports on which the token that GO started is still to be sent. -/
  goLeft : List Nat
  deriving DecidableEq, Repr

/-- A flow summary entry (R409). -/
structure Flow where
  key : Nat
  octets : Nat
  packets : Nat
  first : Nat
  last : Nat
  drops : Nat
  lastReason : Nat
  /-- Instants of FIRST and of its last update, for ACTIVE and IDLE. -/
  born : Nat
  touched : Nat
  /-- Number of the update that made it, which names it, and of its last update. -/
  id : Nat
  order : Nat
  deriving DecidableEq, Repr

/-- A record waiting for export (R413). -/
inductive ExpRec where
  | postcard (t : Tally)
  | flow (f : Flow)
  deriving DecidableEq, Repr

/-- Telemetry (chapter 17). -/
structure Telem where
  /-- Ledger entries (packets, octets) by flat index. -/
  ledger : Store (Nat × Nat)
  snap0 : Store (Nat × Nat)
  snap1 : Store (Nat × Nat)
  /-- The snapshot under way: buffer, command, T in ns. -/
  snapJob : List (Nat × HostCmd × Nat)
  /-- Flow cache: key g x 16,384 + set x 4 + way. -/
  flows : Store (Option Flow)
  backlog : List ExpRec
  openMsg : List ExpRec
  closed : List (List ExpRec)
  /-- Buffers whose snapshot under way has taken its counts. -/
  snapTaken : List Nat
  seq : Nat
  /-- Postcard candidates seen on each pipeline. -/
  pcSeen : Store Nat
  /-- Ledger entries that a frame still arriving has counted in, and which take its octets at its tail: frame, entry. -/
  owed : List (Nat × Nat)
  /-- Flow entries likewise: frame, and `id` of the entry, which may have been handed to export meanwhile. -/
  owedFlow : List (Nat × Nat)
  /-- Updates of the flow caches so far. -/
  flowSeq : Nat
  deriving DecidableEq, Repr

/-- A host vector (R428). -/
structure Vec where
  counted : Nat
  timer : Bool
  ready : Bool
  inService : Bool
  held : Bool
  deriving DecidableEq, Repr

/-- A control core's interrupt state (R431): (priority, source) from the top of the stack. -/
structure Core where
  stack : List (Nat × Nat)
  /-- The core's own interrupt mask, and sleep, which firmware sets. -/
  masked : Bool
  sleep : Bool
  deriving DecidableEq, Repr

/-- The Crier (R424-R432). -/
structure Crier where
  pend : List Nat
  /-- Active sources with their target: vector v, or 4,096 + core. -/
  active : List (Nat × Nat)
  line : List Nat
  vecs : Store Vec
  cores : Store Core
  deriving DecidableEq, Repr

/-- An action list in progress (R437). -/
structure EscRun where
  source : Nat
  /-- Next action, 0-4. -/
  next : Nat
  /-- Cancelled by ESC_ACK. -/
  cancelled : Bool
  /-- An island the current action waits for. -/
  waitIsland : Option Nat
  deriving DecidableEq, Repr

/-- The fault collector (R433-R438). -/
structure Flt where
  /-- Sources whose grace timer runs. -/
  grace : List Nat
  lists : List EscRun
  deriving DecidableEq, Repr

/-- A deferred cut (R451). -/
structure Deferral where
  pipe : Nat
  since : Nat
  /-- Still wanted by the cap. -/
  wanted : Bool
  /-- Since when a frozen glide of the pipeline holds the count (R456). -/
  paused : Option Nat
  deriving DecidableEq, Repr

/-- Scales (chapter 19) beside its registers. -/
structure Scales where
  /-- Step plus one that a recognised phase wants of each pipeline; 0 none. -/
  want : Store Nat
  /-- Activity limit that policy, and that the limiter, sets on each pipeline; 8 by default. -/
  actPolicy : Store Nat
  actLimiter : Store Nat
  /-- Activity limit that the throttle sets while it lasts (R380, R458); 8 by default. -/
  actThrottle : Store Nat
  /-- Pipelines whose cut by the last THROTTLE_TICK is still to come (R448, R458). -/
  throttleWant : List Nat
  /-- Step plus one from which a limit has lowered a pipeline, for its restoring (R453, R458); 0 none. -/
  restore : Store Nat
  /-- Last cut of each hall: instant plus one, and the step it cut from (R448). -/
  lastCut : Store (Nat × Nat)
  /-- Limiter step reached, 0 = released. -/
  limiter : Nat
  /-- PMBus alerts that are low. -/
  alerts : List Nat
  /-- The fast estimate of VDD_CORE current is at the limit. -/
  overCurrent : Bool
  deferrals : List Deferral
  /-- Pipelines whose glide is frozen (R456), and islands whose clock is stretched (R455). -/
  frozen : List Nat
  stretched : List Nat
  /-- Step that a glide left (R456). -/
  glideFrom : Store Nat
  phases : List Phase
  /-- The phase recognised last. -/
  current : Option Nat
  /-- Phase that the latest signatures matched, and how many in a row (R454). -/
  matched : Nat × Nat
  /-- Steps of all pipelines at the last interval, and for how many intervals they have stood. -/
  heldSteps : List Nat × Nat
  /-- Energy in fJ that the uncalibrated model gives each part in the present interval (R460): 0-71 pipelines, 72-80 table islands, 81-116 lanes of
  a group, 117 the Market, 118 the Barrow. -/
  parts : Store Nat
  /-- Package energy of the interval in fJ, measured or modelled (R444, R450). -/
  energy : Nat
  /-- The last fast estimate and that of the last poll, uncalibrated, in nW. -/
  estNw : Nat
  pollNw : Nat
  /-- QUEUE_ENERGY (R461). -/
  queueUj : Store Nat
  /-- The engine sensors in °C (R457). -/
  engines : List Nat
  /-- Calibration factor of R460, in 1/65,536. -/
  calib : Nat
  /-- Package power in W of the last intervals of 1 ms, newest first. -/
  window : List Nat
  /-- Instant since which TJ has been 3 °C below the throttle temperature. -/
  coolSince : Option Nat
  /-- Firmware has loaded the regulator table. -/
  regTable : Bool
  /-- Regulators polled since the table was loaded. -/
  polled : List Nat
  deriving DecidableEq, Repr

/-- What the part has done since Scales last looked (R454, R460, R461). -/
structure Activity where
  /-- Since the last FAST_ESTIMATE_TICK, by the key of `actKey`. -/
  micro : Store Nat
  /-- Since the last PHASE_TICK, likewise. -/
  ms : Store Nat
  /-- Weights of queues since the last PHASE_TICK, at 16,384 x kind + queue: kind g for the copies that frames of INGg admitted and 36 + g for those
  that EGRg dequeued, 256 for each and its octets; kind 72 for octets spilled and drained. -/
  shares : Store Nat
  deriving DecidableEq, Repr

/-- Where a bay is in Tables CRT-1 and CRT-2. -/
inductive BayStep where
  | idle
  /-- Insertion steps done, 0-4. -/
  | inserting (n : Nat)
  /-- Removal steps done, 1-4. -/
  | removing (n : Nat)
  deriving DecidableEq, Repr

/-- A cartridge bay (chapter 06) beside its registers. -/
structure Bay where
  step : BayStep
  identity : Option Identity
  challenge : List Byte
  /-- Target of each channel: 0 off, 1 half, 2 full. -/
  target : Store Nat
  /-- Drive of each channel in units of 0.01 mA. -/
  drive : Store Nat
  /-- Wear of each channel in units of 1/7,200 thousandth of a wear unit. -/
  wear : Store Nat
  /-- The latch has closed again during a removal (R159). -/
  reclosed : Bool
  /-- Start plus one of the ramp of Table CRT-2 step 5, by `elapsed`; 0 = none (R159). -/
  ramp : Nat
  /-- The cartridge of which CH_FAILED speaks (R154), by serial number. -/
  failedOf : Option Nat
  /-- A status request that firmware has not served (R46, R155): whether the cartridge reports a shutdown. -/
  asked : Option Bool
  deriving DecidableEq, Repr

/-- A key slot (R467). -/
structure KeySlot where
  key : Option (List Byte)
  usage : BitVec 4
  gen : Nat
  deriving DecidableEq, Repr

/-- Context 0 (R471, Table SEC-3). -/
structure Ctx0 where
  slot : Nat
  gen : Nat
  counter : Nat
  ghash : Nat
  aadBits : Nat
  textBits : Nat
  partialBlock : Nat
  partialLen : Nat
  deriving DecidableEq, Repr

/-- The Cashbox (chapter 20). -/
structure Sec where
  slots : Store KeySlot
  ctx0 : Ctx0
  /-- Commands waiting for an idle context (R472). -/
  waiting : List HostCmd
  /-- Bays and ports that wait for a random value (R465). -/
  rngWait : List Nat
  /-- A key epoch is due (R468): whether it follows an island reset. -/
  epochDue : Option Bool
  deriving DecidableEq, Repr

/-- What the part sends out: the record of its outputs, oldest last. -/
inductive Output where
  | hostRead (addr len : Nat)
  | hostWrite (addr : Nat) (data : List Byte)
  | readData (data : List Byte)
  | completerAbort
  | msix (addr : Nat) (data : Word)
  | frame (port : Nat) (octets : List Byte) (tailMarked : Bool)
  | pfc (port source enable : Nat) (times : List Nat)
  | ainum (port : Nat) (block : Nat)
  | pulse (n : Nat) (level : Bool)
  | i2cIdentity (bay : Nat)
  | challenge (bay : Nat) (octets : List Byte)
  | wearRecord (bay wear : Nat)
  | ocWarnLimit (entry amps : Nat)
  /-- A regulator's alert is enabled (R453). -/
  | alertOn (entry : Nat)
  /-- A regulator is polled: bus, address, and the PAGE written first (R443). -/
  | pmbusRead (bus addr : Nat) (page : Option Nat)
  deriving DecidableEq, Repr

/-- The state of the part. -/
structure State where
  /-- Commands waiting, first in, first out. -/
  pending : List Instr
  /-- BAR0 dwords that differ from their reset value, by address. -/
  regs : Store Word
  /-- Program spaces of both banks (R103): see Machine/Programs.lean for the key. -/
  prog : Store Byte
  clock : Clock
  /-- Time-island clocks since the state was made: the model's measure of real time in ns. -/
  elapsed : Nat
  /-- The counter that free values are taken at: the model's own field. -/
  freeCtr : Nat
  /-- The journal: what survives every reset but the erasures of a life-cycle transition (R65). -/
  journal : Journal
  /-- Journal writes that firmware owes, oldest first (R46, R435). -/
  owed : List JrnEntry
  /-- Instant of the last raise of each source that is raised at most once per interval. -/
  lastRaise : Store Nat
  top : Top
  hif : Hif
  prg : Prg
  ports : Store PortSt
  pipes : Pipes
  tables : Tables
  clerk : Clerk
  market : Market
  spill : Spill
  sched : Sched
  slots : Store SlotPair
  pulses : Store Pulse
  ainum : Ainum
  telem : Telem
  crier : Crier
  flt : Flt
  scales : Scales
  activity : Activity
  bays : Store Bay
  sec : Sec
  out : List Output
  deriving DecidableEq, Repr

/-- Why a command could stop. No meaning of this model faults: every row of the table has an effect in the spec,
or describes an event whose premise can fail, and then changes nothing. -/
inductive Fault where
  /-- Raised by nobody; kept so that the type is not empty. Safe. -/
  | unreachable
  deriving DecidableEq, Repr

/-- Why a command is refused. -/
inductive Refusal where
  /-- Raised by a dispatch arm whose command has no meaning yet. Safe. -/
  | notModelled (mnemonic : String)
  deriving DecidableEq, Repr

/-- The fuses of a TM1152-A1 as shipped (Table SCP-3: BLANK). DESIGN CHOICE (log 3): VARIANT 1, SELF_ID 1, nothing
revoked, floors 0. -/
def Fuses.shipped : Fuses :=
  { slowLanes := [], variant := 1, selfId := 1, weights := [], states := [], kRevoke := 0, fwFloor := 0, patchFloor := 0 }

/-- A firmware or recovery image (KIND 0 or 1) of silicon revision 0 with an empty body. DESIGN CHOICE (log 3). -/
def shippedImage (kind : Nat) : Image :=
  { magic := 0x4B594E44, kind := kind, keyId := 0, svn := 0, rev := 0, length := 0, level := 0, engines := 0,
    body := [], signature := [] }

/-- The flash as shipped: firmware in slot A and a recovery image, both of which verify; no patch, no regulator table.
DESIGN CHOICE (log 3). -/
def Flash.shipped : Flash :=
  { slotA := some (shippedImage 0), slotB := none, recovery := some (shippedImage 1), patch := none, sound := [0, 2],
    regulators := [] }

/-- A journal that nothing has written. DESIGN CHOICE (log 3). -/
def Journal.empty : Journal :=
  { anchorA := { copy := false, gen := 0 }, anchorB := { copy := false, gen := 0 }, remapA := { gen := 0, table := [] },
    remapB := { gen := 0, table := [] }, records := [], host := [], seq := [], wear := [], retiredBlocks := [],
    spareList := (List.range 56).map (1984 + ·), hostLost := 0, exhausted := false, stuck := [] }

/-- Every land in its reset state (Table PKG-3). -/
def Lands.reset : Lands :=
  { pcieTx := .idle, pcieRx := .termOff, mgmtTx := .commonMode, mgmtMdc := .low, mgmtMdio := .highZ, spiClk := .low,
    spiCs := .pullUp, spiIo := .pullUp, tdo := .highZ, pmbus := .released, gpio := .highZ, cartBus := .released, ioLow := false }

def Top.reset : Top :=
  { fuses := Fuses.shipped, flash := Flash.shipped, inReset := true,
    islands := [], islandsByReg := [], unfed := [], held := [], lcsJob := none, warning := false, warnStarts := [],
    jtagHold := false, controlReset := false, controlDue := false, running := 0, coldBoot := true,
    lands := Lands.reset }

/-- DESIGN CHOICE (log 13). -/
def Hif.reset : Hif :=
  { perst := true, fromPerst := false, perstHigh := true, visible := [], bellSeq := 0,
    outstanding := [], completions := [], notifs := [], phaseInv := [], oldBell := 0, settling := [], oldMail := none,
    latches := [], heldLow := [], mail := none, lastCr := 15, msixOn := false, msixMask := false, slots := [], buf := [] }

def Domain.reset : Domain :=
  { prevT := none, changeLog := [], retireTodo := [] }

def Prg.reset : Prg :=
  { ing := Domain.reset, egr := Domain.reset, groups := [], events := [], patch := none, patchInForce := none }

def Pipes.reset : Pipes :=
  { arriving := [], hold := [], parse := [], recirc := [], toTail := [], stalls := [], entry := [], recircHost := [],
    toETail := [], toEditor := [], mac := [], stateRegs := [], meters := [], meterWrites := [], poison := [],
    parsePoison := [], nextId := 0, meterOwed := [] }

def Tables.reset : Tables :=
  { entries := [], left := [], shape := [], groups := [], members := [], mcast := [], raw := [] }

/-- DESIGN CHOICE (log 13). -/
def Clerk.reset : Clerk :=
  { host := [], learn := [], remove := [], restore := [], age := [], repair := [], inFlight := [], lastClass := 2 }

def Market.reset : Market :=
  { units := [], frames := [], queues := [], lastBank := [],
    samples := [], bankErrs := [], sweep := none, hostHeld := [] }

def Spill.reset : Spill :=
  { q := [], hbm := [], xfers := [], fresh := [], freed := [], wiping := [], wiped := [], errs := [], refreshes := [] }

/-- DESIGN CHOICE (log 13). -/
def Sched.reset : Sched :=
  { nextRefill := 0, force := [], lastPort := [], lastQueue := [], deficit := [], turn := [], cTok := [], pTok := [],
    portTok := [], owed := [], refund := [], single := [], unsent := [], pauseEnd := [], pausedSince := [],
    lastPfc := [], wdHold := [], xoffDue := [], lastCpu := 63 }

/-- DESIGN CHOICE (log 13). -/
def Telem.reset : Telem :=
  { ledger := [], snap0 := [], snap1 := [], snapJob := [], flows := [], backlog := [], openMsg := [],
    closed := [], snapTaken := [], seq := 0, pcSeen := [], owed := [], owedFlow := [], flowSeq := 0 }

def Scales.reset : Scales :=
  { want := [], actPolicy := [], actLimiter := [], actThrottle := [], throttleWant := [], restore := [], lastCut := [],
    limiter := 0, alerts := [], overCurrent := false, deferrals := [], frozen := [], stretched := [], glideFrom := [],
    phases := [], current := none, matched := (0, 0), heldSteps := ([], 0), parts := [], energy := 0, estNw := 0,
    pollNw := 0, queueUj := [], engines := [], calib := 65536, window := [], coolSince := none, regTable := false,
    polled := [] }

def Activity.reset : Activity := { micro := [], ms := [], shares := [] }

def Ctx0.reset : Ctx0 :=
  { slot := 0, gen := 0, counter := 0, ghash := 0, aadBits := 0, textBits := 0, partialBlock := 0,
    partialLen := 0 }

/-- The part in cold reset with every rail in regulation, its causes over and its stores wiped, the instant before
t0: every register at its reset value, nothing loaded yet. COLD_RESET_RELEASE starts bring-up (R52). -/
def State.reset : State :=
  { pending := [], regs := [], prog := [],
    clock := { sec := 0, ns := 0, frac := 0, rem := 0, running := false, slewLeft := 0, slewing := false },
    elapsed := 0, freeCtr := 0, journal := Journal.empty, owed := [], lastRaise := [],
    top := Top.reset, hif := Hif.reset, prg := Prg.reset, ports := [],
    pipes := Pipes.reset, tables := Tables.reset, clerk := Clerk.reset, market := Market.reset,
    spill := Spill.reset, sched := Sched.reset, slots := [], pulses := [],
    ainum := { ports := [], tokens := [], goLeft := [] }, telem := Telem.reset,
    crier := { pend := [], active := [], line := [], vecs := [], cores := [] },
    flt := { grace := [], lists := [] }, scales := Scales.reset, activity := Activity.reset, bays := [],
    sec := { slots := [], ctx0 := Ctx0.reset, waiting := [], rngWait := [], epochDue := some false }, out := [] }

end Sys2Proof.Machine
end

