-- ==== Sys2Proof/Config.lean ====
section
/-!
DEFINITION. What the spec leaves to an implementation or does not state: the free values of the model.
Each constant is opaque, with no body: nothing in Lean can evaluate it, so every claim holds for all its values.
Those taken at a counter are applied to `State.freeCtr`, which the taking advances; those that are functions of
their operands stand for algorithms that the spec names by an outside standard and does not describe.
-/
namespace Sys2Proof.Config

/-- A number that nothing constrains, taken at a counter (DESIGN CHOICE, log 1). -/
opaque freeNat : Nat → Nat

/-- A choice that nothing constrains, taken at a counter (DESIGN CHOICE, log 1). -/
opaque freeBool : Nat → Bool

/-- A 32-bit value that nothing constrains, taken at a counter (DESIGN CHOICE, log 1). -/
opaque freeWord : Nat → Word

/-- The random source: an octet string of a length, taken at a counter (R465; DESIGN CHOICE, log 4). -/
opaque random : Nat → Nat → List Byte

/-- AES in counter mode of the GCM profile: key, nonce, counter, data (R464 to R475; DESIGN CHOICE, log 4). -/
opaque aesCtr : List Byte → List Byte → List Byte → List Byte

/-- The GCM tag of key, nonce, associated data and data (DESIGN CHOICE, log 4). -/
opaque gcmTag : List Byte → List Byte → List Byte → List Byte → List Byte

/-- Unwrapping under a key by algorithm 0 (RFC 3394) or 1 (RFC 5649): none where the integrity check fails (DESIGN CHOICE, log 4). -/
opaque unwrap : Nat → List Byte → List Byte → Option (List Byte)

/-- RFC 3394 wrapping under a key (DESIGN CHOICE, log 4). -/
opaque wrap : List Byte → List Byte → List Byte

/-- A signature over a message verifies under a public key: key, message, signature (DESIGN CHOICE, log 4). -/
opaque verify : List Byte → List Byte → List Byte → Bool

/-- SHA-384 (DESIGN CHOICE, log 4). -/
opaque sha384 : List Byte → List Byte

/-- A key derived from a key and a context (DESIGN CHOICE, log 4). -/
opaque derive : List Byte → List Byte → List Byte

/-- The device root key, the cartridge master key and the Kyndosel public key of a number (DESIGN CHOICE, log 4). -/
opaque rootKey : List Byte
opaque cartMasterKey : List Byte
opaque kyndoselKey : Nat → List Byte

/-- The challenge response that a cartridge of a serial number gives to a challenge (R160; DESIGN CHOICE, log 4). -/
opaque cartTag : Nat → List Byte → List Byte

/-- The firmware source that the mailbox GO raises, from 0xF00 (R426 gives no number; DESIGN CHOICE, log 54). -/
opaque mailboxSource : Nat

/-- The CRC-32 of octets (R68 names no polynomial; DESIGN CHOICE, log 4). DESIGN CHOICE (log 4). -/
opaque crc32 : List Byte → BitVec 32

/-- The octets of a journal record of the part's own (Table ISL-14 gives none of their layout; DESIGN CHOICE, log 60). -/
opaque recordOctets : Machine.JrnEntry → List Byte

/-- The ECC syndrome of a failing word, where a record carries one (Table CRI-8; DESIGN CHOICE, log 5). -/
opaque syndrome : Nat → Nat

/-- Whether an EXACT table at 90 % of its slots or more has no room for a key: the hashes of the key under HASH_A and HASH_B,
and a counter (R247 states no placement; DESIGN CHOICE, log 1). -/
opaque exactFull : Nat → Nat → Nat → Bool

/-- The set of the flow summary cache that a hash chooses (R409 names the hash and not the bits; DESIGN CHOICE, log 1). -/
opaque flowSet : Nat → Nat

end Sys2Proof.Config
end

