-- ==== Sys2Proof/Machine/Mem.lean ====
section
/-!
DEFINITION. Sparse stores in one canonical form, bit fields, byte order, sign extension and the modular
arithmetic shared by every family. A store lists its keys strictly rising and no cell equal to the default.
-/
namespace Sys2Proof.Machine

/-- The cell at key `k`, or the default. -/
def mapGet {α : Type} (d : α) (m : Store α) (k : Nat) : α :=
  match m with
  | [] => d
  | (k', v) :: r => if k' = k then v else mapGet d r k

/-- Write the cell at `k`: keys stay strictly rising, and a cell equal to the default is left out. -/
def mapPut {α : Type} [DecidableEq α] (d : α) (m : Store α) (k : Nat) (v : α) : Store α :=
  match m with
  | [] => if v = d then [] else [(k, v)]
  | (k', v') :: r =>
    if v = d then (if k' = k then mapPut d r k v else (k', v') :: mapPut d r k v)
    else if k < k' then (k, v) :: (k', v') :: r
    else if k' = k then (k, v) :: r
    else (k', v') :: mapPut d r k v

/-- The canonical form above bound `lo`: keys at least `lo` and rising, no cell at its default. -/
def mapWfFrom {α : Type} [DecidableEq α] (d : Nat → α) (lo : Nat) (m : Store α) : Bool :=
  match m with
  | [] => true
  | (k, v) :: r => decide (lo ≤ k) && !decide (v = d k) && mapWfFrom d (k + 1) r

/-- The canonical form of a store whose default may depend on the key. -/
def mapWf {α : Type} [DecidableEq α] (d : Nat → α) (m : Store α) : Bool := mapWfFrom d 0 m

/-- Change the cell at `k`. -/
def mapMod {α : Type} [DecidableEq α] (d : α) (m : Store α) (k : Nat) (f : α → α) : Store α :=
  mapPut d m k (f (mapGet d m k))

/-- Whether a condition holds, as a number. -/
def b2n (b : Bool) : Nat := if b then 1 else 0

/-- Bit field [hi:lo] of a number. -/
def nbits (x hi lo : Nat) : Nat := (x >>> lo) % 2 ^ (hi + 1 - lo)

/-- A number with field [hi:lo] replaced by the low bits of `v`. -/
def putBits (x hi lo v : Nat) : Nat :=
  x - (nbits x hi lo <<< lo) + ((v % 2 ^ (hi + 1 - lo)) <<< lo)

/-- Mask of field [hi:lo] of a 32-bit word. -/
def fmask (hi lo : Nat) : Word := BitVec.ofNat 32 ((2 ^ (hi + 1 - lo) - 1) <<< lo)

/-- Field [hi:lo] of a word. -/
def fget (w : Word) (hi lo : Nat) : Nat := nbits w.toNat hi lo

/-- A word with field [hi:lo] replaced. -/
def fset (w : Word) (hi lo v : Nat) : Word :=
  (w &&& ~~~(fmask hi lo)) ||| (BitVec.ofNat 32 (v % 2 ^ (hi + 1 - lo)) <<< lo)

/-- Two's complement value of the low `w` bits of a number (R14). -/
def toSigned (w x : Nat) : Int :=
  if x % 2 ^ w < 2 ^ (w - 1) then (x % 2 ^ w : Nat) else (x % 2 ^ w : Nat) - (2 ^ w : Nat)

/-- The `w`-bit two's complement code of an integer. -/
def ofSigned (w : Nat) (i : Int) : Nat := (i % (2 ^ w : Nat)).toNat

/-- Octets of a number, least significant first (R15). -/
def bytesLE (n x : Nat) : List Byte := (List.range n).map fun i => BitVec.ofNat 8 (x >>> (8 * i))

/-- Octets of a number, most significant first (fields on the wire, R15). -/
def bytesBE (n x : Nat) : List Byte := (bytesLE n x).reverse

/-- The number spelled by octets, least significant first. -/
def leNat (b : List Byte) : Nat := b.foldr (fun x acc => x.toNat + 256 * acc) 0

/-- The number spelled by octets, most significant first. -/
def beNat (b : List Byte) : Nat := b.foldl (fun acc x => 256 * acc + x.toNat) 0

/-- `n` octets from offset `o`, zero beyond the end. -/
def sliceZ (b : List Byte) (o n : Nat) : List Byte :=
  let t := (b.drop o).take n
  t ++ List.replicate (n - t.length) 0

/-- Little-endian field of `n` octets at offset `o`. -/
def leAt (b : List Byte) (o n : Nat) : Nat := leNat (sliceZ b o n)

/-- Big-endian field of `n` octets at offset `o`. -/
def beAt (b : List Byte) (o n : Nat) : Nat := beNat (sliceZ b o n)

/-- Overwrite octets from offset `o`. -/
def splice (b : List Byte) (o : Nat) (v : List Byte) : List Byte :=
  b.take o ++ v ++ b.drop (o + v.length)

/-- Saturating sum at `top`. -/
def satAdd (top a b : Nat) : Nat := min top (a + b)

/-- ⌈a / b⌉. -/
def ceilDiv (a b : Nat) : Nat := (a + (b - 1)) / b

/-- First element and the rest of a list that satisfies `p`, the rest in order. -/
def takeFirst {α : Type} (p : α → Bool) : List α → Option α × List α
  | [] => (none, [])
  | x :: r => if p x then (some x, r) else let q := takeFirst p r; (q.1, x :: q.2)

/-- Apply `f` to element `i` of a list. -/
def modAt {α : Type} (l : List α) (i : Nat) (f : α → α) : List α := l.modify i f

/-- One step of a reflected CRC. -/
def crcStep (poly : Nat) (c : Nat) : Nat := if c % 2 = 1 then (c / 2) ^^^ poly else c / 2

/-- A reflected CRC over octets: eight steps an octet. -/
def crcRefl (poly : Nat) (init : Nat) (b : List Byte) : Nat :=
  b.foldl (fun c x => (List.range 8).foldl (fun c _ => crcStep poly c) (c ^^^ x.toNat)) init

/-- CRC-32C (Castagnoli), reflected polynomial 0x82F6_3B78, initial and final inversion. -/
def crc32c (b : List Byte) : Nat := (crcRefl 0x82F63B78 0xFFFFFFFF b) ^^^ 0xFFFFFFFF

/-- CRC-32 of 802.3, reflected polynomial 0xEDB8_8320, initial and final inversion. DESIGN CHOICE (log 4). -/
def crc32 (b : List Byte) : Nat := (crcRefl 0xEDB88320 0xFFFFFFFF b) ^^^ 0xFFFFFFFF

/-- A CRC of `w` bits taken most significant bit first, initial value zero and no inversion. -/
def crcMsb (w poly : Nat) (bits : List Bool) : Nat :=
  bits.foldl (fun c b =>
    let top := c.testBit (w - 1) != b
    let c' := (c * 2) % 2 ^ w
    if top then c' ^^^ poly else c') 0

/-- The bits of a number, most significant of `n` first. -/
def msbBits (n x : Nat) : List Bool := (List.range n).map fun i => x.testBit (n - 1 - i)

/-- One's-complement folded sum of 16-bit words. -/
def foldSum16 (l : List Nat) : Nat :=
  let s := l.foldl (· + ·) 0
  let s := s % 65536 + s / 65536
  let s := s % 65536 + s / 65536
  s % 65536 + s / 65536

/-- Number of ones in the low `n` bits. -/
def popN (n x : Nat) : Nat := (List.range n).foldl (fun c i => c + b2n (x.testBit i)) 0

/-- Index of the lowest set bit below `n`, or `n`. -/
def lowBit (n x : Nat) : Nat := ((List.range n).find? fun i => x.testBit i).getD n

/-- Bits of a mask, lowest first. -/
def bitList (n x : Nat) : List Nat := (List.range n).filter fun i => x.testBit i

/-- Set or clear bit `i` of a number. -/
def putBit (x i : Nat) (b : Bool) : Nat :=
  if b then x ||| 2 ^ i else if x.testBit i then x - 2 ^ i else x

end Sys2Proof.Machine
end

