-- ==== Sys2Proof/Machine/RegMap.lean ====
section
/-!
DEFINITION. The register map of BAR0: every register table of the spec as rows of access masks and reset
values (R10, R13, R16, R72 and the register tables of each chapter).
-/
namespace Sys2Proof.Machine

/-- The blocks of Table HIF-3. -/
inductive Blk where
  | top | hif | cri | flt | scl | tim | ain | sec | crt | prg | lan | pipe | mkt | spl | sch | tbl | ldg | tal | pmc | jrn
  deriving DecidableEq, Repr

/-- One row of a register table: dwords at `base + i * s1 + j * s2` for i < n1, j < n2. Bits outside the masks are
read-only or RSV for REGISTER_WRITE; bits that a row of the opcode table of their own acts on are not in `rw`. -/
structure RegRow where
  base : Nat
  n1 : Nat := 1
  s1 : Nat := 0
  n2 : Nat := 1
  s2 : Nat := 0
  rw : Word := 0
  w1c : Word := 0
  rc : Word := 0
  reset : Word := 0
  /-- Defined codes of RW fields: high bit, low bit, least and greatest code. A field passes where one line admits it. -/
  ok : List (Nat × Nat × Nat × Nat) := []
  /-- A write holding an undefined code is ignored whole, not field by field. -/
  whole : Bool := false
  /-- Three 10-bit weights may not sum above this (0 = no such rule). -/
  sumMax : Nat := 0
  /-- One half of a 64-bit register (R75). -/
  wide : Bool := false
  deriving DecidableEq, Repr

/-- A read-only 64-bit register, or an array of them. -/
def ro64 (base : Nat) (n s : Nat) : RegRow := { base := base, n1 := n, s1 := s, n2 := 2, s2 := 4, wide := true }

/-- A read-only dword, or an array of them. -/
def ro32 (base : Nat) (n s : Nat) (reset : Word := 0) : RegRow := { base := base, n1 := n, s1 := s, reset := reset }

/-- A read-write dword, or an array of them. -/
def rw32 (base : Nat) (n s : Nat) (rw reset : Word) : RegRow :=
  { base := base, n1 := n, s1 := s, rw := rw, reset := reset }

/-- TOP (R9, R34, Tables ISL-5, ISL-6, ISL-9, ISL-10, ISL-12). -/
def topRows : List RegRow :=
  [ro32 0x00 1 0 0x11520000, ro32 0x10 1 0, { base := 0x20, w1c := 0xFF }, ro32 0x30 1 0, ro32 0x40 1 0,
   ro32 0x50 1 0, ro32 0x60 1 0]

/-- One kind of ring (Tables HIF-6, HIF-7): EN belongs to RING_ENABLE and RING_DISABLE. -/
def ringRows (base n : Nat) (cfgRw : Word) : List RegRow :=
  [{ base := base, n1 := n, s1 := 0x20, n2 := 2, s2 := 4, rw := 0xFFFFFFFF, wide := true },
   { base := base + 8, n1 := n, s1 := 0x20, rw := cfgRw, reset := 0x20000600, ok := [(11, 8, 6, 12)] },
   { base := base + 0xC, n1 := n, s1 := 0x20, n2 := 2, s2 := 4 }]

/-- HIF (Tables HIF-2, HIF-6, HIF-17, R77, R96, R101, the MSI-X table and PBA of Table HIF-1). -/
def hifRows : List RegRow :=
  [ro32 0x0 1 0, { base := 0x8, w1c := 0xF }, ro64 0x10 1 0]
  ++ ringRows 0x1000 16 0xF0F00 ++ ringRows 0x1200 16 0xF00 ++ ringRows 0x1400 64 0xF00 ++ ringRows 0x1C00 8 0xF00
  ++ [{ base := 0x2000, w1c := 0x4 }, rw32 0x2100 64 4 0xFFFFFFFF 0, ro32 0x2200 64 4, ro32 0x3000 1 0,
      ro32 0x4000 2048 4, { base := 0x80000, n1 := 2048, s1 := 16, n2 := 3, s2 := 4, rw := 0xFFFFFFFF },
      rw32 0x8000C 2048 16 1 1, ro32 0x90000 64 4]

/-- CRI (Tables CRI-2 to CRI-4): SRC_CFG, FORCE and VEC_EOI have rows of their own. -/
def criRows : List RegRow :=
  [{ base := 0x0, w1c := 3 }, ro32 0x10 1 0, ro32 0x100 128 4, ro32 0x300 128 4, ro32 0x500 128 4,
   ro32 0x1000 4096 4,
   { base := 0x8000, n1 := 2048, s1 := 16, rw := 0xFFFFFFFF, reset := 0x10000, ok := [(31, 16, 1, 65535)] },
   rw32 0x8004 2048 16 0x80000000 0, ro32 0x8008 2048 16, ro32 0x800C 2048 16, ro32 0x10000 4 16]

/-- FLT (Tables CRI-6, CRI-9): ESC_ACK and ACTIONS have rows of their own. DEDUCED (log 21). -/
def fltRows : List RegRow :=
  [{ base := 0x0, w1c := 0x80000000 }, ro32 0x4 1 0, { base := 0x8, w1c := 1 }, ro64 0x10 6 8,
   { base := 0x10000, n1 := 4096, s1 := 0x20, w1c := 0x80000000 },
   { base := 0x10004, n1 := 4096, s1 := 0x20, n2 := 7, s2 := 4 },
   { base := 0x40000, n1 := 4096, s1 := 16, rw := 0x800FFFFF, ok := [(19, 0, 0, 1000000)] },
   { base := 0x40008, n1 := 4096, s1 := 16, n2 := 2, s2 := 4, wide := true }]

/-- SCL (Tables SCL-4 to SCL-6): a write with a bad code is ignored whole (R463); ABS has a row of its own. -/
def sclRows : List RegRow :=
  [rw32 0x0 1 0 0xE0000007 0xC0000000, ro32 0x4 1 0, { base := 0x8, w1c := 1 },
   { base := 0x10, rw := 0x0FFF0FFF, reset := 0x000A0960, ok := [(27, 16, 1, 1000), (11, 0, 1200, 2400)], whole := true },
   ro32 0x14 1 0 0x640,
   { base := 0x18, rw := 0xFF, reset := 0x64, ok := [(7, 0, 60, 100)], whole := true },
   { base := 0x1C, rw := 0x3FF, reset := 0x294, ok := [(9, 0, 640, 700)], whole := true },
   ro32 0x20 1 0, ro32 0x24 1 0,
   { base := 0x28, rw := 0x1FFFF, reset := 0x103E8, ok := [(15, 0, 100, 10000)], whole := true },
   ro32 0x30 1 0, ro64 0x40 1 0, ro64 0x48 1 0, ro64 0x50 9 8,
   { base := 0xA0, n1 := 10, s1 := 4, rc := 0xFFFFFFFF },
   { base := 0x100, n1 := 12, s1 := 16, rw := 0xFFFFE000, ok := [(16, 13, 0, 10)], whole := true },
   ro32 0x104 12 16, ro32 0x108 12 16,
   rw32 0x400 72 4 0xBF 0x4000080C]

/-- QUEUE_ENERGY of Table SCL-4, at SCL +0x10_0000, which is the base of TIM. -/
def energyRow : RegRow := ro64 0 10368 8

/-- TIM (Tables TIM-6 to TIM-8): REF.SEL, FREQ and OUT_CFG have rows of their own. Where TIM has no register, QUEUE_ENERGY stands. DESIGN CHOICE
(log 97). -/
def timRows : List RegRow :=
  [ro32 0x0 1 0, ro32 0x4 1 0, { base := 0x8, rw := 0xFFFFF, reset := 0xC350, ok := [(19, 0, 1, 500000)] },
   ro64 0x10 1 0, ro32 0x20 1 0, ro32 0x24 1 0, ro64 0x28 1 0, rw32 0x30 1 0 7 0, ro64 0x38 1 0,
   rw32 0x100 3 0x20 3 0, { base := 0x104, n1 := 3, s1 := 0x20, w1c := 0xE0000000 },
   ro32 0x108 3 0x20, ro32 0x10C 3 0x20, ro64 0x110 3 0x20,
   ro32 0x200 4 0x20, { base := 0x204, n1 := 4, s1 := 0x20, w1c := 0xC0000000 },
   rw32 0x208 4 0x20 0x3FFFFFFF 0,
   { base := 0x210, n1 := 4, s1 := 0x20, rw := 0xFFFFFFFF, wide := true },
   { base := 0x214, n1 := 4, s1 := 0x20, rw := 0xFFFF, wide := true },
   rw32 0x218 4 0x20 0xFFFFFFFF 0x3B9ACA00, rw32 0x21C 4 0x20 0x3FFFFFFF 0x64,
   { base := 0x10000, n1 := 1152, s1 := 0x20, n2 := 3, s2 := 4, rw := 0xFFFFFFFF },
   { base := 0x1000C, n1 := 1152, s1 := 0x20, n2 := 2, s2 := 4 }, energyRow]

/-- AIN (Tables AIN-3, AIN-4): TOKEN_CTRL.GO has a row of its own. -/
def ainRows : List RegRow :=
  [{ base := 0x0, rw := 0x800000FF, ok := [(7, 0, 0, 63)] }, ro64 0x8 1 0, { base := 0x10, rw := 0xFF, reset := 0x10, ok := [(7, 0, 0, 128)] },
   rw32 0x20 1 0 0xFFFFFFFF 0, { base := 0x28, rw := 0xFFFFFFFF, wide := true },
   { base := 0x2C, rw := 0xFFFF, wide := true }, rw32 0x30 1 0 0x3FFFFFFF 0, ro32 0x34 1 0, ro32 0x40 1 0,
   ro64 0x48 1 0, ro64 0x100 8 8, rw32 0x10000 1152 0x40 0xF0000000 0, ro32 0x10004 1152 0x40,
   ro64 0x10008 1152 0x40, rw32 0x10010 1152 0x40 0xFFFFFFFF 0, ro64 0x10018 1152 0x40,
   { base := 0x10020, n1 := 1152, s1 := 0x40, n2 := 3, s2 := 4 }]

/-- SEC (Table SEC-8). -/
def secRows : List RegRow :=
  [ro32 0x0 1 0 0x80000000, ro32 0x4 1 0, ro32 0x10 64 4, ro64 0x200 6 8, ro32 0x300 1 0 0x80000000, ro64 0x308 1 0]

/-- CRT (Tables CRT-3, CRT-4). -/
def crtRows : List RegRow :=
  [rw32 0x0 1 0 1 0, ro32 0x1000 9 0x100, ro64 0x1008 9 0x100, ro32 0x1010 9 0x100, ro32 0x1014 9 0x100,
   rw32 0x1020 9 0x100 0xFFFF 0xFFFF, rw32 0x1024 9 0x100 0xFFFF 0,
   { base := 0x1028, n1 := 9, s1 := 0x100, n2 := 2, s2 := 4, rw := 0xFFFFFFFF, wide := true },
   ro32 0x1030 9 0x100, ro64 0x1038 9 0x100, ro64 0x1040 9 0x100]

/-- PRG (Tables PRG-5 to PRG-7). DESIGN CHOICE (log 3). -/
def prgRows : List RegRow :=
  [{ base := 0x0, n1 := 2, s1 := 0x10, w1c := 0xE0, reset := 0x100 }, ro32 0x4 2 0x10, ro64 0x8 2 0x10, ro32 0x100 1 0]

/-- LAN (Tables LAN-1 to LAN-6): OCT_CFG and PORT_CFG have rows of their own. -/
def lanRows : List RegRow :=
  [ro32 0x0 4 4, { base := 0x40, w1c := 3 }, ro32 0x44 1 0, { base := 0x80, n1 := 8, s1 := 4, w1c := 0xFFFFFFFF },
   rw32 0xC0 1 0 0xFFFFFF 0x5302, ro32 0x1000 32 0x100 0x30002600, ro32 0x1004 32 0x100,
   { base := 0x1010, n1 := 32, s1 := 0x100, rw := 0xFFFFFFFF, reset := 0xE000,
     ok := [(7, 0, 0, 31), (15, 8, 0, 31), (15, 8, 224, 255), (23, 16, 0, 15), (31, 24, 0, 15)] },
   { base := 0x1014, n1 := 32, s1 := 0x100, rw := 0xFFFFFFFF, reset := 0x0D0F1F1F,
     ok := [(7, 0, 0, 31), (15, 8, 0, 31), (15, 8, 224, 255), (23, 16, 0, 15), (31, 24, 0, 15)] },
   { base := 0x1018, n1 := 32, s1 := 0x100, rw := 0xFFFFFFFF,
     ok := [(7, 0, 0, 31), (15, 8, 0, 31), (15, 8, 224, 255), (23, 16, 0, 15), (31, 24, 0, 15)] },
   rw32 0x101C 32 0x100 0x10F 0, ro32 0x1020 32 0x100, ro32 0x1024 32 0x100,
   ro64 0x1040 32 0x100, ro64 0x1048 32 0x100, ro64 0x1050 32 0x100]

/-- PIPE (Tables STL-10, PAR-10 to PAR-12, SCH-6). DEDUCED (log 22). -/
def pipeRows : List RegRow :=
  [rw32 0x0 1 0 1 0, ro32 0x4 1 0, ro64 0x10 1 0, ro64 0x18 1 0, ro64 0x20 4 8, ro64 0x40 1 0,
   ro32 0x10000 20 0x1000, ro32 0x10004 20 0x1000, { base := 0x10008, n1 := 20, s1 := 0x1000, rc := 0xFFFFFFFF },
   rw32 0x10010 20 0x1000 0xFFFF 0,
   { base := 0x10018, n1 := 20, s1 := 0x1000, n2 := 2, s2 := 4, rw := 0xFFFFFFFF, wide := true },
   { base := 0x10020, n1 := 20, s1 := 0x1000, n2 := 32, s2 := 4 },
   rw32 0x10100 20 0x1000 0x3FFF 0,
   { base := 0x10110, n1 := 20, s1 := 0x1000, n2 := 4, s2 := 4, rw := 0xFFFFFFFF },
   rw32 0xF0000 1 0 0xFFFF0000 0xFFFE0000, ro64 0xF0008 1 0, ro32 0xF0010 1 0, { base := 0xF0020, rc := 0xFFFFFFFF },
   ro64 0xF0108 15 8]

/-- MKT (Tables MKT-2, MKT-5, MKT-8, MKT-10 to MKT-12): CARVE, the reserves and BANK_RETIRE have rows of their own. DEDUCED (log 22). -/
def mktRows : List RegRow :=
  [ro32 0x0 1 0 0x000800C0, ro32 0x4 1 0 0x80000000, { base := 0x8, w1c := 7 }, ro32 0x10 1 0 0x4000, ro32 0x14 1 0,
   { base := 0x18, rw := 0xE0000FFF, reset := 0xFC0, ok := [(31, 29, 0, 7), (11, 0, 0, 4032)] },
   ro32 0x20 1 0 524288, ro32 0x24 1 0 49152, ro32 0x28 1 0 2048,
   rw32 0x30 1 0 7 1, { base := 0x40, rw := 0xC000FFFF, reset := 0x80000064, ok := [(15, 0, 1, 65535)] },
   ro32 0x44 1 0, ro64 0x48 1 0, ro64 0x100 8 8,
   rw32 0x200 8 16 0x1FFFFF 0, ro32 0x204 8 16,
   { base := 0x400, n1 := 32, s1 := 16, rw := 0xC7FF003F, ok := [(26, 16, 0, 1151)] },
   { base := 0x404, n1 := 32, s1 := 16, rw := 0x000F3FFF, ok := [(13, 0, 0, 0), (13, 0, 64, 16383)] },
   rw32 0x408 32 16 0xFFFF 0, ro32 0x40C 32 16,
   ro32 0x10000 64 16, { base := 0x10004, n1 := 64, s1 := 16, rc := 0xFFFFFFFF }, ro32 0x10008 64 16,
   { base := 0x40000, n1 := 10432, s1 := 16, rw := 0xFF1FFFFF, ok := [(28, 25, 0, 3), (28, 25, 9, 15)] },
   rw32 0x40004 10432 16 0xFFFFFFFF 0, rw32 0x40008 10432 16 0xFF 0, ro32 0x4000C 10432 16,
   rw32 0x80000 1152 0x80 0xFF00FFFF 0, rw32 0x80004 1152 0x80 0xFFFFFFFF 0, ro32 0x80008 1152 0x80,
   { base := 0x80010, n1 := 1152, s1 := 0x80, n2 := 16, s2 := 4 }]

/-- SPL (Tables SPL-5 to SPL-8): CH_RETIRE and DIAG_CTRL.OP have rows of their own. DESIGN CHOICE (log 72). DEDUCED (log 22). -/
def splRows : List RegRow :=
  [rw32 0x0 1 0 3 3, ro32 0x4 1 0, { base := 0x8, w1c := 3 },
   { base := 0x10, rw := 0xFFFF, reset := 0x7D0, ok := [(15, 0, 100, 65535)] }, ro32 0x14 1 0 0x400000,
   rw32 0x18 1 0 0xFF 0x18, ro64 0x40 10 8,
   ro32 0x1000 2 0x400, ro32 0x1004 2 0x400, ro32 0x1008 2 0x400,
   { base := 0x1010, n1 := 2, s1 := 0x400, rw := 0xF0000000, ok := [(31, 30, 0, 2), (29, 28, 0, 2)] },
   { base := 0x1014, n1 := 2, s1 := 0x400, rw := 0x3FFFFFFF, reset := 0x02030100, whole := true, sumMax := 512 },
   { base := 0x1020, n1 := 2, s1 := 0x400, rw := 0x07FFFFFF, ok := [(22, 0, 0, 6291455)] },
   { base := 0x1040, n1 := 2, s1 := 0x400, n2 := 64, s2 := 4, rw := 0xFFFFFFFF },
   { base := 0x1200, n1 := 2, s1 := 0x400, n2 := 16, s2 := 16, rc := 0xFFFFFFFF },
   { base := 0x1204, n1 := 2, s1 := 0x400, n2 := 16, s2 := 16, rc := 0xFFFFFFFF },
   rw32 0x100000 10368 16 0xC01FFFFF 0x8000, rw32 0x100004 10368 16 0xFFFFFF 0, ro32 0x100008 10368 16,
   rw32 0x10000C 10368 16 0x1FFFFF 0x200, ro32 0x200000 2 0x100000]

/-- SCH (Tables SCH-2 to SCH-4, WIN-4): PORT_Q has a row of its own. DEDUCED (log 22). -/
def schRows : List RegRow :=
  [{ base := 0x0, w1c := 3 }, ro32 0x100 32 0x40, rw32 0x104 32 0x40 0x807F0000 0x140000,
   { base := 0x108, n1 := 32, s1 := 0x40, rw := 0x1FFFFF, ok := [(20, 0, 0, 1600000)] },
   rw32 0x10C 32 0x40 0xFFFFFF 0x4000, rw32 0x110 32 0x40 0xFF00FFFF 0xFFFF,
   { base := 0x114, n1 := 32, s1 := 0x40, rw := 0x03FFFFFF, reset := 0x6403E8, ok := [(25, 16, 0, 1000), (15, 0, 1, 65535)] },
   rw32 0x118 32 0x40 0xFFFFFFFF 0, rw32 0x11C 32 0x40 0xFFFF 0, ro32 0x120 32 0x40, ro32 0x124 32 0x40,
   ro64 0x128 32 0x40, ro64 0x130 32 0x40, ro64 0x138 32 0x40,
   { base := 0x1000, n1 := 288, s1 := 0x20, rw := 0xBFFFBFFF, ok := [(13, 0, 64, 16383)] },
   { base := 0x1004, n1 := 288, s1 := 0x20, rw := 0x1FFFFF, ok := [(20, 0, 0, 1600000)] }, rw32 0x1008 288 0x20 0xFFFFFF 0x4000,
   { base := 0x100C, n1 := 288, s1 := 0x20, rw := 0x1FFFFF, ok := [(20, 0, 0, 1600000)] },
   rw32 0x1010 288 0x20 0xFFFFFF 0x4000, ro32 0x1014 288 0x20, ro32 0x1018 288 0x20, ro32 0x101C 288 0x20,
   ro32 0x8000 32 0x40, { base := 0x8004, n1 := 32, s1 := 0x40, w1c := 7 }, rw32 0x8008 32 0x40 0xFFFF 0xFA,
   ro64 0x8010 32 0x40, ro64 0x8018 32 0x40, ro64 0x8020 32 0x40, ro64 0x8028 32 0x40]

/-- TBL (Table TBL-8): DESC, HASH_CFG and RAW_CTRL.OP have rows of their own. DESIGN CHOICE (log 72). -/
def tblRows : List RegRow :=
  [ro64 0x0 1 0, { base := 0x8, rc := 0xFFFFFFFF },
   { base := 0x10, rw := 0xF000FFFF, reset := 0x100, ok := [(31, 30, 0, 2), (29, 28, 0, 2), (15, 0, 64, 65535)] },
   { base := 0x14, rw := 0x3FFFFFFF, reset := 0x020043CC, whole := true, sumMax := 1020 }, { base := 0x18, rc := 0xFFFFFFFF },
   { base := 0x100, rw := 0x1FFFFF, ok := [(20, 0, 0, 1572863)] }, rw32 0x140 16 4 0xFFFFFFFF 0,
   ro32 0x40000 1 0, { base := 0x40004, w1c := 3 }, rw32 0x40010 1 0 0xF 5,
   { base := 0x40014, rw := 0xFFFFFFFF, reset := 0x03E8003C, ok := [(31, 16, 1, 65535), (15, 0, 1, 65535)] },
   ro32 0x40018 1 0, ro32 0x4001C 1 0, ro64 0x40100 9 8, ro32 0x41000 64 16 0x1012C,
   { base := 0x41004, n1 := 64, s1 := 16, n2 := 3, s2 := 4 }, ro32 0x42000 16 4]

/-- LDG (Table TAL-10). -/
def ldgRows : List RegRow := [ro32 0x0 1 0, ro64 0x10 2 8]

/-- TAL (Table TAL-10). DEDUCED (log 22). -/
def talRows : List RegRow :=
  [rw32 0x0 1 0 0xC700FFFF 0, rw32 0x10 1 0 0x870000FF 0,
   { base := 0x14, rw := 0xFFFFFFFF, reset := 0x003C0708, ok := [(31, 16, 1, 65535), (15, 0, 1, 65535)] }, ro32 0x18 1 0,
   { base := 0x20, rw := 0xFF3FFFFF, ok := [(21, 11, 0, 1151), (6, 0, 14, 64)] },
   { base := 0x24, rw := 0xFFFFFFFF, reset := 0x0E2205DC, ok := [(15, 14, 0, 1), (13, 0, 128, 9728)] },
   rw32 0x28 1 0 0xFFFFFFFF 0, rw32 0x2C 1 0 0xFFFFFFFF 0,
   { base := 0x30, rw := 0xFFFFFFFF, reset := 0x003C03E8, ok := [(31, 16, 1, 65535), (15, 0, 1, 65535)] },
   { base := 0x34, rw := 0xFF, ok := [(7, 0, 0, 63)] }, rw32 0x40 1 0 0xFFFFFF 0, rw32 0x100 256 4 0x8000001F 0, rw32 0x800 16 4 0xFFFFFFFF 0,
   ro64 0x900 9 8]

/-- PMC (Table TAL-10): PMC_COUNT has a row of its own. -/
def pmcRows : List RegRow := [ro32 0x10000 4096 8, rw32 0x10004 4096 8 0xE0000000 0]

/-- JRN (Table ISL-15): 56 spares are what the journal of a new part holds (Table ISL-14). DESIGN CHOICE (log 3). -/
def jrnRows : List RegRow := [ro32 0x10 1 0 0x3800]

/-- The rows of a block. -/
def blkRows : Blk → List RegRow
  | .top => topRows | .hif => hifRows | .cri => criRows | .flt => fltRows | .scl => sclRows | .tim => timRows
  | .ain => ainRows | .sec => secRows | .crt => crtRows | .prg => prgRows | .lan => lanRows | .pipe => pipeRows
  | .mkt => mktRows | .spl => splRows | .sch => schRows | .tbl => tblRows | .ldg => ldgRows | .tal => talRows
  | .pmc => pmcRows | .jrn => jrnRows

/-- Table HIF-3: block, base, size of one instance, number of instances. -/
def blkMap : List (Blk × Nat × Nat × Nat) :=
  [(.top, 0x0000000, 0x100000, 1), (.hif, 0x0100000, 0x100000, 1), (.cri, 0x0200000, 0x100000, 1),
   (.flt, 0x0300000, 0x100000, 1), (.scl, 0x0400000, 0x100000, 1), (.tim, 0x0500000, 0x100000, 1),
   (.ain, 0x0600000, 0x100000, 1), (.sec, 0x0700000, 0x100000, 1), (.crt, 0x0800000, 0x400000, 1),
   (.prg, 0x0C00000, 0x400000, 1), (.lan, 0x1000000, 0x40000, 36), (.pipe, 0x2000000, 0x100000, 72),
   (.mkt, 0x7000000, 0x100000, 4), (.spl, 0x7400000, 0x400000, 1), (.sch, 0x7800000, 0x20000, 36),
   (.tbl, 0x8000000, 0x80000, 9), (.ldg, 0x8800000, 0x800000, 1), (.tal, 0x9000000, 0x800000, 1),
   (.pmc, 0x9800000, 0x800000, 1), (.jrn, 0xA000000, 0x100000, 1)]

/-- Block, instance and offset of a BAR0 address. -/
def blkOf (a : Nat) : Option (Blk × Nat × Nat) :=
  blkMap.findSome? fun (b, base, size, n) =>
    if base ≤ a ∧ a < base + size * n then some (b, (a - base) / size, (a - base) % size) else none

/-- The index pair of an offset within a row. -/
def RegRow.hit (r : RegRow) (off : Nat) : Option (Nat × Nat) :=
  if off < r.base then none else
    let d := off - r.base
    let i := if r.s1 = 0 then 0 else d / r.s1
    let e := d - i * r.s1
    let j := if r.s2 = 0 then 0 else e / r.s2
    if i < r.n1 ∧ j < r.n2 ∧ e = j * r.s2 then some (i, j) else none

/-- The row of a register table that names a dword address, with its block, instance and indexes. -/
def regInfo (a : Nat) : Option (Blk × Nat × RegRow × Nat × Nat) :=
  match blkOf a with
  | none => none
  | some (b, n, off) => (blkRows b).findSome? fun r => (r.hit off).map fun (i, j) => (b, n, r, i, j)

/-- The queue whose QUEUE_ENERGY an address names, and the half of it. DESIGN CHOICE (log 97). -/
def energyAt (a : Nat) : Option (Nat × Nat) :=
  match regInfo a with
  | some (.tim, _, r, i, j) => if r = energyRow then some (i, j) else none
  | _ => none

/-- A register that the tables name and a given instance lacks reads zero and ignores writes (R73): the Clerk set in
halls other than H0, the whole-Market registers in quadrants 1 to 3, and PIPE registers of one direction only. DEDUCED (log 21). -/
def lacksReg (b : Blk) (n : Nat) (r : RegRow) (i : Nat) : Bool :=
  match b with
  | .tbl => decide (n ≠ 0 ∧ 0x40000 ≤ r.base)
  | .mkt => decide (n ≠ 0 ∧ ¬(0x10000 ≤ r.base ∧ r.base < 0x20000))
  | .pipe =>
    if n < 36 then decide (r.base = 0x40)
    else decide (0xF0000 ≤ r.base ∨ r.base = 0x10 ∨ r.base = 0x18 ∨ (0x10000 ≤ r.base ∧ r.base < 0xF0000 ∧ 12 ≤ i))
  | _ => false

/-- Whether an island can be island-reset (R48, Table ISL-4): 0-107, 112-123, 127 and 128 only. -/
def islandResettable (n : Nat) : Bool := n ≤ 107 || (112 ≤ n && n ≤ 123) || n == 127 || n == 128

/-- Action k with code `c` and argument `a` in an ACTIONS value (R437). -/
def action (k c a : Nat) : Nat := (c * 4096 + a) <<< (16 * k)

/-- The default list of a source (Table CRI-10): GRACE, ACTIONS. -/
def defaultEsc (s : Nat) : Option (Nat × Nat) :=
  if s = 1 then some (1000000, 0)
  else if s = 0x8A then some (0, action 0 6 0 + action 1 1 122)
  else if s = 0x8B then some (0, action 0 6 1 + action 1 1 123)
  else if s = 0x8E then some (0, action 0 2 0)
  else if (0x7C ≤ s ∧ s ≤ 0x7F) ∨ s = 0x8C ∨ s = 0x8D then some (0, 0)
  else if 0x10 ≤ s ∧ s ≤ 0x90 then some (0, action 0 1 (s - 0x10))
  else none

/-- Reset value of QSCH of local queue j (chapter 13): LEVEL, PFC_EN, PFC_PRIO, WEIGHT 16, MAX_SDU 9,728. -/
def qschReset (j : Nat) : Word :=
  let i := j % 9
  if i = 8 then BitVec.ofNat 32 (16 * 2 ^ 15 + 9728)
  else BitVec.ofNat 32 (i * 2 ^ 27 + 2 ^ 26 + i * 2 ^ 23 + 16 * 2 ^ 15 + 9728)

/-- The reset value of a register at a dword address (R13); zero where no register stands. DESIGN CHOICE (log 12). -/
def resetWord (a : Nat) : Word :=
  match regInfo a with
  | none => 0
  | some (b, n, r, i, j) =>
    if lacksReg b n r i then 0 else
    match b with
    | .cri =>
      if r.base = 0x1000 then
        (if 0x300 ≤ i ∧ i ≤ 0x41F then 0x40000000 else if 0xF00 ≤ i then 0x20000000 else 0)
      else r.reset
    | .flt =>
      if r.base = 0x40000 then (match defaultEsc i with | some (g, _) => BitVec.ofNat 32 (2 ^ 31 + g) | none => 0)
      else if r.base = 0x40008 then (match defaultEsc i with | some (_, l) => BitVec.ofNat 32 (l >>> (32 * j)) | none => 0)
      else r.reset
    | .mkt => if r.base = 0x200 ∧ i = 0 then 0x100000 else r.reset
    | .spl => if r.base = 0x100000 ∧ 18 * 288 ≤ i then 0x40008000 else r.reset
    | .sch =>
      if r.base = 0x100 then BitVec.ofNat 32 (9 * i * 65536 + 9)
      else if r.base = 0x1000 then qschReset i
      else r.reset
    | _ => r.reset

/-- Whether an RW field's new code is defined: every line for the field, if any, and one of them admits the code. -/
def fieldOk (r : RegRow) (hi lo : Nat) (v : Word) : Bool :=
  r.ok.any fun (h, l, mn, mx) => h == hi && l == lo && mn ≤ fget v hi lo && fget v hi lo ≤ mx

/-- Mask of the fields of `r` whose code in `v` is reserved (R16). -/
def badFields (r : RegRow) (v : Word) : Word :=
  r.ok.foldl (fun m (h, l, _, _) => if fieldOk r h l v then m else m ||| fmask h l) 0

/-- The sum of three 10-bit weights. -/
def weightSum (v : Word) : Nat := fget v 29 20 + fget v 19 10 + fget v 9 0

/-- A write refused whole. -/
def writeRefused (r : RegRow) (v : Word) : Bool :=
  (r.whole && badFields r v != 0) || (r.sumMax != 0 && decide (r.sumMax < weightSum v))

/-- What a write of `v` makes of a register that held `old` (R10, R16). DEDUCED (log 22). -/
def applyWrite (r : RegRow) (old v : Word) : Word :=
  if writeRefused r v then old else
    let m := r.rw &&& ~~~(badFields r v)
    ((old &&& ~~~m) ||| (v &&& m)) &&& ~~~(r.w1c &&& v)

end Sys2Proof.Machine
end

