-- ==== Sys2Proof/Machine/Ops.lean ====
section
/-!
DEFINITION. The named operations that every family uses: registers, counters, time, free values, outputs,
the raising of Crier sources, first-error records, completions, notifications and the gates of host commands.
-/
namespace Sys2Proof.Machine

/-- The reset rule of the register store, for `mapWf`. -/
def regsWf (m : Store Word) : Bool := mapWf resetWord m

/-- The dword register at BAR0 address `a`. -/
def reg (s : State) (a : Nat) : Word := mapGet (resetWord a) s.regs a

/-- Set the dword register at `a`. -/
def setReg (s : State) (a : Nat) (v : Word) : State := { s with regs := mapPut (resetWord a) s.regs a v }

/-- Field [hi:lo] of a register. -/
def regF (s : State) (a hi lo : Nat) : Nat := fget (reg s a) hi lo

/-- Set field [hi:lo] of a register. -/
def setF (s : State) (a hi lo v : Nat) : State := setReg s a (fset (reg s a) hi lo v)

/-- Bit `i` of a register. -/
def regBit (s : State) (a i : Nat) : Bool := (reg s a).getLsbD i

/-- Set bit `i` of a register. -/
def setBit (s : State) (a i : Nat) (b : Bool) : State := setF s a i i (b2n b)

/-- A 64-bit register, low word first (R75). -/
def reg64 (s : State) (a : Nat) : Nat := (reg s a).toNat + 2 ^ 32 * (reg s (a + 4)).toNat

/-- Set a 64-bit register, modulo 2^64. -/
def setReg64 (s : State) (a v : Nat) : State :=
  setReg (setReg s a (BitVec.ofNat 32 v)) (a + 4) (BitVec.ofNat 32 (v >>> 32))

/-- Add to a 64-bit counter, modulo 2^64. -/
def add64 (s : State) (a n : Nat) : State := setReg64 s a (reg64 s a + n)

/-- Add to a field that saturates at all ones. -/
def satF (s : State) (a hi lo n : Nat) : State := setF s a hi lo (satAdd (2 ^ (hi + 1 - lo) - 1) (regF s a hi lo) n)

/-- Perform `f` where a condition holds. -/
def whenB (b : Bool) (f : State → State) (s : State) : State := if b then f s else s

/-- A host command's row, run for its state. -/
def rowState (o : Host.Outcome State Fault Refusal) (s : State) : State :=
  match o with | .next t => t | _ => s

/-- Perform `f` for each element in order. -/
def forEach {α : Type} (l : List α) (f : State → α → State) (s : State) : State := l.foldl f s

-- Register addresses (Table HIF-3).
def aHif (o : Nat) : Nat := 0x0100000 + o
def aCri (o : Nat) : Nat := 0x0200000 + o
def aFlt (o : Nat) : Nat := 0x0300000 + o
def aScl (o : Nat) : Nat := 0x0400000 + o
def aTim (o : Nat) : Nat := 0x0500000 + o
def aAin (o : Nat) : Nat := 0x0600000 + o
def aSec (o : Nat) : Nat := 0x0700000 + o
def aCrt (o : Nat) : Nat := 0x0800000 + o
def aBay (c o : Nat) : Nat := 0x0801000 + c * 0x100 + o
def aPrg (o : Nat) : Nat := 0x0C00000 + o
def aLan (g o : Nat) : Nat := 0x1000000 + g * 0x40000 + o
/-- The lane set of lane `l` (R148). -/
def aLane (l o : Nat) : Nat := aLan (l / 32) (0x1000 + (l % 32) * 0x100 + o)
def aPipe (p o : Nat) : Nat := 0x2000000 + p * 0x100000 + o
/-- The stall set of a global stall number (R5, Table STL-10). -/
def aStall (n o : Nat) : Nat :=
  if n < 720 then aPipe (n / 20) (0x10000 + (n % 20) * 0x1000 + o)
  else aPipe (36 + (n - 720) / 12) (0x10000 + ((n - 720) % 12) * 0x1000 + o)
def aMkt (o : Nat) : Nat := 0x7000000 + o
def aQcfg (q o : Nat) : Nat := aMkt (0x40000 + q * 0x10 + o)
def aMPort (l o : Nat) : Nat := aMkt (0x80000 + l * 0x80 + o)
/-- The bank set of a Market bank (Table MKT-12). -/
def aBank (b o : Nat) : Nat := 0x7000000 + (b / 64) * 0x100000 + 0x10000 + (b % 64) * 0x10 + o
def aSpl (o : Nat) : Nat := 0x7400000 + o
def aQspill (q o : Nat) : Nat := aSpl (0x100000 + q * 0x10 + o)
def aStack (m o : Nat) : Nat := aSpl (0x1000 + m * 0x400 + o)
def aSch (g o : Nat) : Nat := 0x7800000 + g * 0x20000 + o
/-- The port set and the slot set of lane position l mod 32 (Tables SCH-3, WIN-4). -/
def aSPort (l o : Nat) : Nat := aSch (l / 32) (0x100 + (l % 32) * 0x40 + o)
def aSlot (l o : Nat) : Nat := aSch (l / 32) (0x8000 + (l % 32) * 0x40 + o)
/-- The queue set of queue Qq (R6, Table SCH-4). -/
def aSQueue (q o : Nat) : Nat := aSch (q / 288) (0x1000 + (q % 288) * 0x20 + o)
def aTbl (h o : Nat) : Nat := 0x8000000 + h * 0x80000 + o
def aClk (o : Nat) : Nat := 0x8040000 + o
def aLdg (o : Nat) : Nat := 0x8800000 + o
def aTal (o : Nat) : Nat := 0x9000000 + o
def aPmc (o : Nat) : Nat := 0x9800000 + o
def aJrn (o : Nat) : Nat := 0xA000000 + o

/-- A BRINGUP bit (Table ISL-9). -/
def bringup (s : State) (i : Nat) : Bool := regBit s 0x40 i

/-- Firmware runs (BRINGUP.FW). -/
def fwRuns (s : State) : Bool := bringup s 3

/-- Nanoseconds in a second. -/
def nsPerSec : Nat := 1000000000

/-- The clock in ns since its zero. -/
def clkNs (s : State) : Nat := s.clock.sec * nsPerSec + s.clock.ns

/-- TS32 of a clock reading (R363). -/
def ts32Of (ns : Nat) : Nat := ns % 2 ^ 32

/-- TS32 now. -/
def ts32 (s : State) : Nat := ts32Of (clkNs s)

/-- A stamp in ns. -/
def stampNs (t : Stamp) : Nat := t.sec * nsPerSec + t.ns

/-- A stamp in 2^-16 ns. -/
def stampFine (t : Stamp) : Nat := stampNs t * 65536 + t.frac

/-- Advance the counter of free values. DESIGN CHOICE (log 1). -/
def drawn (s : State) : State := { s with freeCtr := s.freeCtr + 1 }

/-- Record an output. DESIGN CHOICE (log 76). -/
def emit (s : State) (o : Output) : State := { s with out := s.out ++ [o] }

/-- Whether the interval since the last act under `key` has passed; the act is then noted. -/
def lastOf (s : State) (key : Nat) : Nat := mapGet 0 s.lastRaise key
def intervalOver (s : State) (key ns : Nat) : Bool := lastOf s key == 0 || decide (lastOf s key + ns ≤ s.elapsed + 1)
def noteInterval (s : State) (key : Nat) : State :=
  { s with lastRaise := mapPut 0 s.lastRaise key (s.elapsed + 1) }

/-- The level sources are exactly 0x300 to 0x41F (R425). -/
def isLevel (id : Nat) : Bool := 0x300 ≤ id && id ≤ 0x41F

/-- SRC_CFG of a source. -/
def aSrc (id : Nat) : Nat := aCri (0x1000 + 4 * id)
def aVec (v o : Nat) : Nat := aCri (0x8000 + 16 * v + o)
def aEsc (id o : Nat) : Nat := aFlt (0x40000 + 16 * id + o)

/-- A host vector, idle by default. -/
def vecIdle : Vec := { counted := 0, timer := false, ready := false, inService := false, held := false }
def getVec (s : State) (v : Nat) : Vec := mapGet vecIdle s.crier.vecs v

/-- One event counted at a vector (R427, R428): COUNTED saturates, a timer that does not run starts, and the vector is ready at COUNT. -/
def countVec (x : Vec) (coal : Word) : Vec :=
  { x with counted := satAdd 65535 x.counted 1,
           timer := x.timer || (fget coal 15 0 != 0 && !x.ready),
           ready := x.ready || decide (fget coal 31 16 ≤ satAdd 65535 x.counted 1) }

/-- Count one event of source `id` at its vector, where the source is enabled and host-owned. -/
def countEvent (s : State) (id : Nat) : State :=
  let cfg := reg s (aSrc id)
  let v := fget cfg 10 0
  let vecs := if cfg.getLsbD 31 && decide (id < 0xF00) then
      mapMod vecIdle s.crier.vecs v (countVec · (reg s (aVec v 0)))
    else s.crier.vecs
  { s with crier := { s.crier with vecs := vecs } }

/-- Add to a list once. -/
def addOnce (l : List Nat) (x : Nat) : List Nat := if l.contains x then l else l ++ [x]

-- Control cores (R431).
def coreIdle : Core := { stack := [], masked := false, sleep := false }
def getCore (s : State) (n : Nat) : Core := mapGet coreIdle s.crier.cores n

/-- The running priority of a core's stack plus one; 0 with an empty stack. -/
def runPrio (c : Core) : Nat := match c.stack with | [] => 0 | x :: _ => x.1 + 1

/-- A sleeping core is woken by an enabled source that targets it above its stack, even while masked (R431). -/
def wakeCore (s : State) (id : Nat) : State :=
  let cfg := reg s (aSrc id)
  let n := fget cfg 1 0
  let wake := decide (0xF00 ≤ id) && cfg.getLsbD 31 && decide (runPrio (getCore s n) ≤ fget cfg 27 24)
  let cores := if wake then mapMod coreIdle s.crier.cores n fun c => { c with sleep := false } else s.crier.cores
  { s with crier := { s.crier with cores := cores } }

/-- What an event of source `id` does at the Crier (R425, R428): it becomes pending and is counted at its vector. -/
def pendEvent (s : State) (id : Nat) : State :=
  wakeCore (countEvent { s with crier := { s.crier with pend := addOnce s.crier.pend id } } id) id

/-- Neither the grace timer nor the list of a source runs, and ESC_CFG.EN = 1 (R436). -/
def graceIdle (s : State) (id : Nat) : Bool :=
  regBit s (aEsc id 0) 31 && !s.flt.grace.contains id && !s.flt.lists.any (·.source == id)

/-- The list of a source starts (R436): the timer is over, GRACE_EXPIRED counts, and firmware owes the journal a copy (R435). DEDUCED (log 55). -/
def startList (s : State) (id : Nat) : State :=
  let s := { s with
    flt := { s.flt with
      grace := s.flt.grace.erase id
      lists := s.flt.lists ++ [{ source := id, next := 0, cancelled := false, waitIsland := none }] }
    owed := s.owed ++ [.fault (.escalation id)] }
  add64 (setF s (aEsc id 0) 30 29 1) (aFlt 0x20) 1

/-- The grace timer of a source starts, or with GRACE = 0 its list at once; `after` is what the start of the list raises (R436). DEDUCED (log 55). -/
def graceWith (after : State → State) (s : State) (id : Nat) : State :=
  if !graceIdle s id then s
  else if regF s (aEsc id 0) 19 0 = 0 then after (startList s id)
  else setBit { s with flt := { s.flt with grace := s.flt.grace ++ [id] } } (aEsc id 0) 30 true

/-- Source 0xE00 is raised. Its own list, if it starts by this, raises it once more, which then starts nothing (R436). -/
def raiseE00 (s : State) : State := graceWith (pendEvent · 0xE00) (pendEvent s 0xE00) 0xE00

/-- The grace timer of a raised source starts (R436). -/
def startGrace (s : State) (id : Nat) : State := graceWith raiseE00 s id

/-- A block raises a source as an event (R425, R428, R436): it becomes pending, is counted at its vector and starts
its grace timer. -/
def raise (s : State) (id : Nat) : State := startGrace (pendEvent s id) id

/-- Raise a source at most once per interval of `ns`. -/
def raiseLimited (s : State) (id ns : Nat) : State :=
  if intervalOver s id ns then raise (noteInterval s id) id else s

/-- The line of a level source follows `on` (R425): a rise makes it pending, counted and starts its grace timer, where
it is not active; a fall ends pending and the grace timer. -/
def setLine (s : State) (id : Nat) (on : Bool) : State :=
  if on then
    if s.crier.line.contains id then s else
      let s := { s with crier := { s.crier with line := s.crier.line ++ [id] } }
      if s.crier.active.any (·.1 == id) then startGrace s id else raise s id
  else
    if !s.crier.line.contains id then s else
      let s := { s with crier := { s.crier with line := s.crier.line.erase id, pend := s.crier.pend.erase id },
                        flt := { s.flt with grace := s.flt.grace.erase id } }
      setBit s (aEsc id 0) 30 false

/-- A bit of FLT.ERR or CRI.ERR sets: source 0xE04 (R442). -/
def setErrE04 (s : State) (a i : Nat) : State := raise (setBit s a i true) 0xE04

/-- A BRINGUP bit sets, and source 0x003 is raised (R52). -/
def setBringup (s : State) (i : Nat) : State :=
  if bringup s i then s else raise (setBit s 0x40 i true) 0x003

/-- A BRINGUP bit clears (R55). -/
def clearBringup (s : State) (i : Nat) : State := setBit s 0x40 i false

-- Rings (Table HIF-6).

/-- Set base of a ring. -/
def ringBase (k : RingKind) (n : Nat) : Nat :=
  match k with
  | .cr => aHif (0x1000 + n * 0x20) | .cq => aHif (0x1200 + n * 0x20)
  | .rx => aHif (0x1400 + n * 0x20) | .nq => aHif (0x1C00 + n * 0x20)

/-- Number of rings of a kind (Table HIF-5). -/
def ringCount (k : RingKind) : Nat := match k with | .cr => 16 | .cq => 16 | .rx => 64 | .nq => 8

def ringEn (s : State) (k : RingKind) (n : Nat) : Bool := regBit s (ringBase k n + 8) 31
def ringSize (s : State) (k : RingKind) (n : Nat) : Nat := 2 ^ regF s (ringBase k n + 8) 11 8
def ringHead (s : State) (k : RingKind) (n : Nat) : Nat := (reg s (ringBase k n + 0xC)).toNat
def ringTail (s : State) (k : RingKind) (n : Nat) : Nat := (reg s (ringBase k n + 0x10)).toNat
def ringAddr (s : State) (k : RingKind) (n i entry : Nat) : Nat := reg64 s (ringBase k n) + i * entry

/-- Entries a ring holds. -/
def ringHeld (s : State) (k : RingKind) (n : Nat) : Nat :=
  (ringTail s k n + ringSize s k n - ringHead s k n) % ringSize s k n

/-- A ring has room for the part's next entry. DESIGN CHOICE (log 83). -/
def ringRoom (s : State) (k : RingKind) (n : Nat) : Bool := decide (ringHeld s k n + 1 < ringSize s k n)

/-- The PHASE of the next entry of a CQ (0-15) or NQ (16-23): 1 on the first pass (Table HIF-9). -/
def phaseOf (s : State) (key : Nat) : Bool := !(mapGet false s.hif.phaseInv key)

/-- TAIL of a CQ or NQ advances by one; PHASE inverts on the wrap to entry 0. -/
def tailStep (s : State) (k : RingKind) (n key : Nat) : State :=
  let t := (ringTail s k n + 1) % ringSize s k n
  let s := setReg s (ringBase k n + 0x10) (BitVec.ofNat 32 t)
  let ph := if t = 0 then mapPut false s.hif.phaseInv key (!(mapGet false s.hif.phaseInv key)) else s.hif.phaseInv
  { s with hif := { s.hif with phaseInv := ph } }

/-- IDLE of a ring's CFG: EN = 0 and nothing for the ring outstanding or pending (Table HIF-7). -/
def ringIdle (s : State) (k : RingKind) (n : Nat) : Bool :=
  !ringEn s k n && !(match k with
    | .cr => s.hif.outstanding.any (·.cmd.cr == n)
    | .cq => s.hif.completions.any (·.1 == n) ||
        s.hif.outstanding.any fun o => regF s (ringBase .cr o.cmd.cr + 8) 19 16 == n
    | .nq => s.hif.notifs.any (·.1 == n)
    | .rx => false)

-- The orphan log (R98, R101).

/-- The log has settled: SETTLING clears and source 0x165 is raised. -/
def settleDone (s : State) : State :=
  if regBit s (aHif 0x3000) 17 && s.hif.settling.isEmpty && s.hif.oldMail.isNone then
    raise (setBit s (aHif 0x3000) 17 false) 0x165
  else s

/-- Record a command or mailbox request in the orphan log; lost with OVERFLOW where it is full. -/
def orphan (s : State) (o : Orphan) : State :=
  let n := regF s (aHif 0x3000) 10 0
  let a := aHif (0x4000 + 8 * n)
  if n < 1024 then
    setF (setReg (setReg s a (BitVec.ofNat 32 (o.tag % 65536 + (o.opcode % 256) * 65536 + (o.cr % 256) * 2 ^ 24)))
      (a + 4) (BitVec.ofNat 32 (o.status % 256))) (aHif 0x3000) 10 0 (n + 1)
  else setBit s (aHif 0x3000) 16 true

-- Commands (R84 to R92).

-- Status codes of Table HIF-11.
def stOk : Nat := 0
def stNotFound : Nat := 1
def stTableFull : Nat := 2
def stNotOwner : Nat := 3
def stAlreadyFree : Nat := 4
def stVersionBusy : Nat := 5
def stLate : Nat := 6
def stAuthFail : Nat := 7
def stBadArg : Nat := 8
def stAborted : Nat := 9
def stPoolEmpty : Nat := 10
def stNotPermitted : Nat := 11
def stTimeout : Nat := 12

/-- What tells a command from every other: its ring, its entry and the doorbell that made it visible. -/
def cmdKey (c : HostCmd) : Nat × Nat × Nat := (c.cr, c.index, c.bell)

/-- Octet, 16-bit, 32-bit, 64-bit fields of ARG. -/
def argN (c : HostCmd) (o n : Nat) : Nat := leAt c.arg o n

/-- The commands of Table HIF-10 as the table of commands has them: one row for each form. -/
inductive CmdRow where
  | nop | fence | tblSearch | tblNext | tblInsert | tblUpdate | tblDelete | tblFlushPort | tblRead | stageWrite | commit
  | commitAt | commitToken | commitCancel | patchLoad | ldgSnapshot | ldgRead | bufAlloc | bufFree | bufSendIngress
  | bufSendEgress | slotWrite | slotArm | slotCancel | slotRead | keyUnwrap | keyErase | ctxSave | ctxRestore | jrnRead
  | jrnWrite | readId | reauth | setPolicy | prepareRemove | timeSet | timeStep | timeSlew
  deriving DecidableEq, Repr

/-- The form that a command's OPCODE and its form field choose (Table HIF-10, R119, R166, R293, R353, R372, R469); none where the
opcode or the form is reserved, which is BAD_ARG (R16, R88). -/
def rowOf (c : HostCmd) : Option CmdRow :=
  match c.opcode with
  | 0x01 => some .nop
  | 0x02 => some .fence
  | 0x10 => some .tblSearch
  | 0x11 => some .tblNext
  | 0x12 => some .tblInsert
  | 0x13 => some .tblUpdate
  | 0x14 => some .tblDelete
  | 0x15 => some .tblFlushPort
  | 0x16 => some .tblRead
  | 0x20 => some .stageWrite
  | 0x21 => some .commit
  | 0x22 => some (if (argN c 0 1).testBit 7 then .commitCancel else .commitAt)
  | 0x23 => some (if (argN c 0 1).testBit 7 then .commitCancel else .commitToken)
  | 0x24 => some .patchLoad
  | 0x30 => some .ldgSnapshot
  | 0x31 => some .ldgRead
  | 0x40 => some .bufAlloc
  | 0x41 => some .bufFree
  | 0x42 => some (if (argN c 6 1).testBit 0 then .bufSendEgress else .bufSendIngress)
  | 0x50 =>
    match argN c 0 1 % 4 with
    | 0 => some .slotWrite | 1 => some .slotArm | 2 => some .slotCancel | _ => some .slotRead
  | 0x60 => some (if (argN c 2 1).testBit 1 then .keyErase else .keyUnwrap)
  | 0x61 => some .ctxSave
  | 0x62 => some .ctxRestore
  | 0x70 => some .jrnRead
  | 0x71 => some .jrnWrite
  | 0x80 =>
    match argN c 0 1 with
    | 1 => some .readId | 2 => some .reauth | 3 => some .setPolicy | 4 => some .prepareRemove | _ => none
  | 0x90 =>
    match argN c 0 1 % 4 with
    | 0 => some .timeSet | 1 => some .timeStep | 2 => some .timeSlew | _ => none
  | _ => none

/-- The commands that the part holds, those that a PERST_N reset left to be settled first. -/
def heldCmds (s : State) : List OutCmd := s.hif.settling ++ s.hif.outstanding

/-- Set the phase of a command that the part holds. -/
def setPhase (s : State) (c : HostCmd) (p : CmdPhase) : State :=
  let mark := fun (o : OutCmd) => if cmdKey o.cmd == cmdKey c then { o with phase := p } else o
  { s with hif := { s.hif with outstanding := s.hif.outstanding.map mark, settling := s.hif.settling.map mark } }

/-- Remove a command from those held, and from what every FENCE still waits for. -/
def dropCmd (s : State) (key : Nat × Nat × Nat) : State :=
  let cut := fun (l : List OutCmd) => (l.filter fun o => cmdKey o.cmd != key).map fun o =>
    { o with covers := o.covers.filter (· != key) }
  { s with hif := { s.hif with outstanding := cut s.hif.outstanding, settling := cut s.hif.settling } }

/-- A command that a PERST_N reset left to be settled ends: it is recorded in the orphan log (R98, R101). -/
def orphanCmd (s : State) (c : HostCmd) (status : Nat) : State :=
  settleDone (orphan (dropCmd s (cmdKey c)) { tag := c.tag, opcode := c.opcode, cr := c.cr, status := status })

/-- A command completes (R85): its completion is formed for the PEER CQ of its ring; one that was outstanding when a PERST_N
reset began is recorded in the orphan log instead, whether or not the host island has been released meanwhile (R98). -/
def complete (s : State) (c : HostCmd) (status : Nat) (result : List Byte := []) : State :=
  if c.bell ≤ s.hif.oldBell then orphanCmd s c status
  else
    let s := setPhase s c .done
    { s with hif := { s.hif with completions := s.hif.completions ++
        [(regF s (ringBase .cr c.cr + 8) 19 16,
          { bell := c.bell, cr := c.cr, index := c.index, opcode := c.opcode, status := status, tag := c.tag,
            result := sliceZ result 0 16, ts32 := ts32 s, notify := c.notify })] } }

/-- The part writes octets to host memory. -/
def hostWrite (s : State) (addr : Nat) (data : List Byte) : State := emit s (.hostWrite addr data)

/-- The data of a command goes to HOST_ADDR (R86); none of a command from before a PERST_N reset does (R98 step 1). -/
def dataOut (s : State) (c : HostCmd) (data : List Byte) : State :=
  if c.bell ≤ s.hif.oldBell then s else hostWrite s c.hostAddr data

/-- Complete with data written to HOST_ADDR first (R86). -/
def completeData (s : State) (c : HostCmd) (status : Nat) (result data : List Byte) : State :=
  complete (dataOut s c data) c status result

/-- What a command waits for before it starts. -/
inductive Gate where
  | none
  /-- The table wipe (R53). -/
  | wipe
  /-- Running firmware (R47, R505). -/
  | fw
  /-- Running firmware and the derived keys that seal the journal (R468). -/
  | seal
  deriving DecidableEq, Repr

/-- The seal key is in its slot (R468). -/
def sealReady (s : State) : Bool := regBit s (aSec 0) 30

def gateOpen (s : State) (g : Gate) : Bool :=
  match g with
  | .none => true
  | .wipe => bringup s 4
  | .fw => fwRuns s
  | .seal => fwRuns s && sealReady s

/-- What each command waits for (R47, R53, R468). -/
def gateOf (r : CmdRow) : Gate :=
  match r with
  | .tblSearch | .tblNext | .tblInsert | .tblUpdate | .tblDelete | .tblFlushPort | .tblRead => .wipe
  | .stageWrite | .commit | .commitAt | .commitToken | .commitCancel => .wipe
  | .patchLoad | .jrnRead | .readId | .prepareRemove => .fw
  | .jrnWrite | .reauth | .setPolicy => .seal
  | _ => .none

/-- Earlier commands of the same ring that are still outstanding. -/
def earlier (s : State) (c : HostCmd) : List OutCmd :=
  (s.hif.outstanding.takeWhile (fun o => cmdKey o.cmd != cmdKey c)).filter (·.cmd.cr == c.cr)

/-- The kind and width of descriptor t as DESC0 reads (Table TBL-2). -/
def tblKind (s : State) (t : Nat) : Nat := regF s (0x8041000 + 16 * t) 30 29
def tblWidth (s : State) (t : Nat) : Nat := regF s (0x8041000 + 16 * t) 27 26

/-- Bits of an LPM address. -/
def addrBits (width : Nat) : Nat := if width = 0 then 32 else 128

/-- An LPM key without the bits below its prefix. -/
def prefixKey (width key plen : Nat) : Nat :=
  let n := addrBits width - plen
  key >>> n <<< n

/-- What else a STAGED write of a table acts on (R91): the staged version of its domain, and for a TCAM UPDATE the row of the second
copy (R105, R261). -/
def stagedObjects (s : State) (c : HostCmd) : List (List Nat) :=
  let t := argN c 0 1
  if decide (64 ≤ t) || !(argN c 1 1).testBit 0 then []
  else [5, regF s (0x8041000 + 16 * t) 28 28] :: (if c.opcode == 0x13 && tblKind s t == 1 then [[1, t, argN c 2 2]] else [])

/-- The objects that a command acts on, for R91: a code for the kind of object and what names it (R261). -/
def objectsOf (s : State) (c : HostCmd) : List (List Nat) :=
  let t := argN c 0 1
  let index := argN c 4 4
  match c.opcode with
  | 0x10 | 0x12 | 0x13 | 0x14 | 0x16 =>
    (if decide (0x12 ≤ c.opcode) && decide (c.opcode ≤ 0x14) then stagedObjects s c else []) ++
    if decide (64 ≤ t) || c.opcode == 0x16 || tblKind s t == 1 then [[1, t, index]]
    else if tblKind s t = 0 then [[2, t, argN c 4 (if tblWidth s t = 0 then 16 else 32)]]
    else [[3, t, argN c 2 2, prefixKey (tblWidth s t) (argN c 4 32) (argN c 2 2)]]
  | 0x15 => [[4]]
  | 0x20 => [[5, if argN c 0 1 = 6 then argN c 1 1 else if argN c 1 1 < 36 then 0 else 1]]
  | 0x21 | 0x22 | 0x23 => ((List.range 2).filter fun d => t.testBit d).map fun d => [5, d]
  | 0x41 | 0x42 => [[6, argN c 0 4]]
  | 0x50 => [[9, argN c 2 2 % 2048]]
  | 0x60 => [[10, argN c 0 1]]
  | 0x61 | 0x62 => [[7, argN c 0 1]]
  | 0x70 | 0x71 => (List.range (min 64 (argN c 2 2))).map fun k => [8, argN c 0 2 + k]
  | _ => []

/-- A command whose order on its objects is settled: it has ended, or the part has accepted it into a queue that keeps the
order (a commit, R92; an operation of the Clerk, R253). -/
def settled (o : OutCmd) : Bool :=
  o.phase == .done || (o.phase == .started && ((0x10 ≤ o.cmd.opcode && o.cmd.opcode ≤ 0x16) ||
    (0x21 ≤ o.cmd.opcode && o.cmd.opcode ≤ 0x23)))

/-- An earlier command of the ring that acts on the same object has not taken effect. -/
def objectWaits (s : State) (c : HostCmd) : Bool :=
  (earlier s c).any fun o => !settled o && (objectsOf s o.cmd).any fun x => (objectsOf s c).contains x

/-- A command may start: no FENCE of its ring is before it, with ORDERED nothing is, and commands of one ring on one
object keep the ring's order (R91, R92). -/
def canStart (s : State) (c : HostCmd) : Bool :=
  !s.hif.perst && !(earlier s c).any (fun o => o.cmd.opcode == 2) && (!c.ordered || (earlier s c).isEmpty)
  && !objectWaits s c

/-- A fetched command that has not started: the entry of COMMAND_FETCH itself, not the operand alone. -/
def waits (s : State) (c : HostCmd) : Bool :=
  s.hif.outstanding.any fun o => o.cmd == c && (o.phase == .fetched || o.phase == .held)

/-- Run a host command's row: nothing where the part has not fetched that very command, where it is of another form, or where it
may not start or has started (DEDUCED, log 6); held where its gate is closed; otherwise its body. -/
def runCmd (s : State) (c : HostCmd) (row : CmdRow) (body : State → State) : State :=
  if rowOf c ≠ some row || !waits s c || !canStart s c then s
  else if !gateOpen s (gateOf row) then setPhase s c .held
  else body s

/-- A command of an unknown opcode or a reserved form ends with BAD_ARG (R16, R88) once it may start (R91, R92), and one that
firmware serves once firmware runs (R47). -/
def refuseForm (s : State) (c : HostCmd) : State :=
  if (rowOf c).isSome || !waits s c || !canStart s c then s
  else if c.opcode == 0x80 && !fwRuns s then setPhase s c .held
  else complete s c stBadArg

/-- The fetched commands that have no form, in the order of their fetch. DEDUCED (log 74). -/
def refuseForms (s : State) : State := forEach (s.hif.outstanding.map (·.cmd)) refuseForm s

/-- A notification entry is formed where its NQ is enabled and PERST_N is not held (R83, R94); answers whether. -/
def notifyOk (s : State) (n : Nat) : Bool := ringEn s .nq n && !s.hif.perst
def notify (s : State) (n kind : Nat) (payload : List Byte) : State :=
  if notifyOk s n then
    { s with hif := { s.hif with notifs := s.hif.notifs ++ [(n, { kind := kind, payload := sliceZ payload 0 24 })] } }
  else s

/-- The variant is TM1152-E1. -/
def isE1 (s : State) : Bool := s.top.fuses.variant == 2

/-- The life-cycle code of TOP.LCS.STATE. -/
def lcsCode (l : LcState) : Nat :=
  match l with | .blank => 0 | .provisioned => 1 | .operational => 2 | .debug => 3 | .retired => 4

/-- The part is in the DEBUG state. -/
def inDebug (s : State) : Bool := s.top.fuses.lcs == .debug

/-- The island whose registers lie at an address (Table HIF-3). -/
def islandAt (a : Nat) : Nat :=
  match blkOf a with
  | some (.hif, _, off) => if 0x3000 ≤ off ∧ off < 0x6000 then 126 else 125
  | some (.scl, _, _) => 127
  | some (.tim, _, _) => if (energyAt a).isSome then 127 else 124
  | some (.sec, _, _) => 128
  | some (.prg, _, _) => 125
  | some (.lan, g, _) => 72 + g
  | some (.pipe, p, _) => p
  | some (.mkt, q, _) => 108 + q
  | some (.spl, _, off) => if 0x300000 ≤ off then 123 else if 0x200000 ≤ off then 122 else 121
  | some (.sch, g, _) => 36 + g
  | some (.tbl, h, _) => 112 + h
  | _ => 126

/-- An island is in island reset, or held in reset for want of its reference clock (R40, R48). -/
def islandHeld (s : State) (n : Nat) : Bool := s.top.islands.contains n || s.top.unfed.contains n

/-- An island is in reset, alone or with the whole part. -/
def islandDown (s : State) (n : Nat) : Bool := s.top.inReset || islandHeld s n

/-- A DESC or HASH_CFG write is not yet in force in all nine halls (R241). -/
def clerkWrites (s : State) : Bool :=
  s.clerk.host.any (fun | .cmd _ => false | _ => true) || s.clerk.inFlight.any (·.write)

/-- The crossing into an island holds an access: the island is in reset (R48), or an earlier access waits there (R41, R42). DEDUCED (log 20). -/
def crossingShut (s : State) (isl : Nat) : Bool := islandHeld s isl || s.top.held.any (islandAt ·.addr == isl)

/-- A host access to a register of an island takes effect at once, or waits at the crossing (R41, R42, R48). DEDUCED (log 20). -/
def atCrossing (s : State) (shut : Bool) (h : Held) (f : State → State) : State :=
  if s.top.inReset then s
  else if shut then { s with top := { s.top with held := s.top.held ++ [h] } }
  else f s

/-- A host write to a register of an island. Those of island 112 also wait for the Clerk's register writes before them (R42, R241). -/
def holdWrite (s : State) (isl a : Nat) (v : Word) (f : State → State) : State :=
  atCrossing s (crossingShut s isl || (isl == 112 && clerkWrites s)) (.write a v) f

/-- A register as the writes that wait at its crossing will leave it. -/
def regDue (s : State) (a : Nat) : Word :=
  s.top.held.foldl (fun v h => match h with | .write b w => if b = a then w else v | _ => v) (reg s a)

/-- Group, hall, position of a lane (R2). -/
def grp (l : Nat) : Nat := l / 32
def hallOf (g : Nat) : Nat := g / 4

/-- A version domain (R105) and its PRG offsets. -/
def getDom (s : State) (d : Dom) : Domain := match d with | .ing => s.prg.ing | .egr => s.prg.egr
def setDom (s : State) (d : Dom) (x : Domain) : State :=
  { s with prg := match d with | .ing => { s.prg with ing := x } | .egr => { s.prg with egr := x } }
def domIdx (d : Dom) : Nat := match d with | .ing => 0 | .egr => 1
def aDom (d : Dom) (o : Nat) : Nat := aPrg (16 * domIdx d + o)
def curVer (s : State) (d : Dom) : Nat := regF s (aDom d 0) 31 16

end Sys2Proof.Machine
end

