-- ==== Sys2Proof/Machine/Clock.lean ====
section
/-!
DEFINITION. The clock of R349 and R352, and one clock of the time island: what a step does on an empty queue (DESIGN CHOICE, log 2).
-/
namespace Sys2Proof.Machine

/-- TIM.FREQ as a signed number of 2^-12 ppb. -/
def freqOf (s : State) : Int := toSigned 32 (reg s (aTim 4)).toNat

/-- What the slew adds in one clock, in 2^-16 ns x 10^-9: SLEW_RATE with the sign of the amount left, and no more than
is left (R353). -/
def slewTerm (s : State) : Int :=
  let most : Int := 65536 * (regF s (aTim 8) 19 0 : Nat)
  if !s.clock.slewing then 0
  else if 0 ≤ s.clock.slewLeft then min most s.clock.slewLeft else max (-most) s.clock.slewLeft

/-- A reading moved by `d` units of 2^-16 ns, never below zero. -/
def clkAdd (c : Clock) (d : Int) : Clock :=
  let t := (((c.sec * nsPerSec + c.ns) * 65536 + c.frac : Nat) + d).toNat
  { c with sec := (t / 65536 / nsPerSec) % 2 ^ 48, ns := t / 65536 % nsPerSec, frac := t % 65536 }

/-- One clock of the time island (R352): the period is added with the remainder carried. -/
def clkTick (s : State) : Clock :=
  if !s.clock.running then s.clock
  else
    let sl := slewTerm s
    let acc : Int := s.clock.rem + 16 * freqOf s + sl
    let c := clkAdd s.clock (65536 + acc / 1000000000)
    { c with rem := (acc % 1000000000).toNat, slewLeft := c.slewLeft - sl }

/-- SLEW_LEFT in 2^-16 ns (R353). -/
def slewLeftReg (c : Clock) : Nat := ofSigned 64 (c.slewLeft.tdiv 1000000000)

/-- The clock in ns, rounded up: the first whole ns at or after the reading. -/
def clkCeil (s : State) : Nat := clkNs s + b2n (s.clock.frac != 0)

/-- A step on an empty queue (DESIGN CHOICE, log 2): one time-island clock passes. -/
def tick (s : State) : State :=
  let c := clkTick s
  let s := if s.clock.slewing then setReg64 s (aTim 0x10) (slewLeftReg c) else s
  { s with clock := c, elapsed := s.elapsed + 1 }

end Sys2Proof.Machine
end

