-- ==== Sys2Proof/Machine/Journal.lean ====
section
/-!
DEFINITION. The journal: its layout, wear levelling, block retirement, the records that firmware owes it, first-error records
with their journal copy, and the commands JRN_READ and JRN_WRITE (R65 to R69, R97, R433, R435, R475). Logical blocks of the
levelled pool are numbered in the order of Table ISL-14: system log 0-255, fault records 256-383, cartridge records 384-447,
commit records 448-511, firmware state 512-959, host partition 960-1983; the last 56 physical blocks start as spares.
-/
namespace Sys2Proof.Machine

def modJrn (s : State) (f : Journal → Journal) : State := { s with journal := f s.journal }

/-- Table ISL-14: the partitions of the levelled pool as first logical block, blocks of 4 KiB, and whether sealed. -/
def jrnPartitions : List (Nat × Nat × Bool) :=
  [(0, 256, false), (256, 128, false), (384, 64, true), (448, 64, true), (512, 448, true), (960, 1024, true)]

/-- Logical blocks of the pool (R65). -/
def jrnBlocks : Nat := jrnPartitions.foldl (fun n x => n + x.2.1) 0

/-- The root in force: the copy of the later generation (R66). -/
def jrnRoot (j : Journal) : Root := if j.anchorA.gen < j.anchorB.gen then j.anchorB else j.anchorA

/-- The remap table that a root names. -/
def jrnTable (j : Journal) (r : Root) : RemapCopy := if r.copy then j.remapB else j.remapA

/-- The physical block of a logical block, by the mapping in force. DESIGN CHOICE (log 60). -/
def jrnPhys (j : Journal) (l : Nat) : Nat := mapGet l (jrnTable j (jrnRoot j)).table l

/-- A remap's first write: the copy that is not in force, with the logical block at its new place (R66). -/
def jrnWriteTable (j : Journal) (l p : Nat) : Journal :=
  let r := jrnRoot j
  let c : RemapCopy := { gen := r.gen + 1, table := mapPut l (jrnTable j r).table l p }
  if r.copy then { j with remapA := c } else { j with remapB := c }

/-- A remap's last write: the anchor copy that is not in force names that table copy (R66). -/
def jrnWriteAnchor (j : Journal) : Journal :=
  let r := jrnRoot j
  let n : Root := { copy := !r.copy, gen := r.gen + 1 }
  if j.anchorA.gen < j.anchorB.gen then { j with anchorA := n } else { j with anchorB := n }

/-- Put a logical block at a physical block: the table copy first, the anchor last (R66). DESIGN CHOICE (log 60). -/
def jrnRemap (j : Journal) (l p : Nat) : Journal := jrnWriteAnchor (jrnWriteTable j l p)

/-- Writes of the most-written line of a physical block. -/
def jrnBlockWear (j : Journal) (p : Nat) : Nat := j.wear.foldl (fun m x => if x.1 / 64 = p then max m x.2 else m) 0

/-- Writes of the most-written line among the blocks that `f` names. -/
def jrnMost (j : Journal) (f : Nat → Bool) : Nat := j.wear.foldl (fun m x => if f (x.1 / 64) then max m x.2 else m) 0

/-- Writes of the most-written line of the blocks in service, and of the least-written of those blocks (R66, R69). -/
def jrnMax (j : Journal) : Nat := jrnMost j fun p => !j.retiredBlocks.contains p
def jrnMin (j : Journal) : Nat :=
  ((List.range 2040).filter fun p => !j.retiredBlocks.contains p).foldl (fun m p => min m (jrnBlockWear j p)) (jrnMax j)

/-- Percent of the rated 2 x 10^8 writes (R69). -/
def jrnPct (j : Journal) : Nat := jrnMax j * 100 / 200000000

/-- JRN.WEAR (Table ISL-15). -/
def jrnView (j : Journal) : Word :=
  BitVec.ofNat 32 (min 255 (jrnPct j) + j.spareList.length * 256
    + b2n (decide (j.spareList.length < 8)) * 2 ^ 16 + j.hostLost * 2 ^ 17 + b2n j.exhausted * 2 ^ 31)

/-- One more write of each of the lines of the pool. -/
def jrnWear (j : Journal) (lines : List Nat) : Journal :=
  { j with wear := lines.foldl (fun m l => mapMod 0 m l (· + 1)) j.wear }

/-- The 64 lines of a physical block. -/
def jrnBlockLines (p : Nat) : List Nat := (List.range 64).map (64 * p + ·)

/-- A wear swap (R66): the most-written of the mapped blocks is left for a spare once its most-written line exceeds that of the
least-written block by 1,000,000 writes, while spares remain. DESIGN CHOICE (log 79): the spare taken is the head of the list. -/
def jrnSwap (j : Journal) (l : Nat) : Journal :=
  let p := jrnPhys j l
  let w := jrnBlockWear j p
  match j.spareList with
  | [] => j
  | sp :: rest =>
    if 1000000 ≤ w ∧ w = jrnMost j (fun k => !j.retiredBlocks.contains k && !j.spareList.contains k) ∧ jrnMin j + 1000000 ≤ w then
      jrnWear { jrnRemap j l sp with spareList := rest ++ [p] } (jrnBlockLines sp)
    else j

/-- Sources 0x005 and 0x006 as the most-written line reaches 80 % and 95 % (R69). -/
def jrnWarn (before : Nat) (s : State) : State :=
  let after := jrnPct s.journal
  let s := whenB (decide (before < 80 ∧ 80 ≤ after)) (raise · 0x005) s
  whenB (decide (before < 95 ∧ 95 ≤ after)) (raise · 0x006) s

/-- Writes of logical lines (line i of logical block l at 64 l + i): their wear, and the swaps that follow (R66, R69). DESIGN CHOICE (log 60). -/
def jrnTouch (s : State) (lines : List Nat) : State :=
  jrnWarn (jrnPct s.journal) (modJrn s fun j =>
    ((lines.map (· / 64)).dedup).foldl jrnSwap (jrnWear j (lines.map fun l => 64 * jrnPhys j (l / 64) + l % 64)))

/-- A block fails to verify (R66, R67): its contents go to a spare and it leaves service; with no spare the highest host block
in service is withdrawn and gives its physical block; with none left the block stays mapped and EXHAUSTED sets.
DESIGN CHOICE (log 79): the spare taken is the head of the list. -/
def jrnRetire (s : State) (l : Nat) : State :=
  let j := s.journal
  let pct := jrnPct j
  let leave := fun (j : Journal) (p : Nat) =>
    jrnWear { jrnRemap j l p with retiredBlocks := jrnPhys j l :: j.retiredBlocks } (jrnBlockLines p)
  match j.spareList with
  | sp :: rest => jrnWarn pct (modJrn s fun j => leave { j with spareList := rest } sp)
  | [] =>
    if j.hostLost < 1024 then
      let w := 1983 - j.hostLost
      raise (jrnWarn pct (modJrn s fun j => leave { j with hostLost := j.hostLost + 1 } (jrnPhys j w))) 0x008
    else
      let s := modJrn s fun j => { j with exhausted := true, stuck := addOnce j.stuck l }
      if j.exhausted then s else raise s 0x008

/-- The blocks that fail to verify after a write, of any partition. -/
def jrnFailed (failed : List Nat) (s : State) : State := forEach (failed.filter (· < jrnBlocks)) jrnRetire s

-- Records (R68, R474, R475).

/-- The partition of a record, in the order of Table ISL-14, its octets, and whether it is sealed. -/
def jrnPart : JrnEntry → Nat
  | .sys _ => 0 | .fault _ => 1 | .cart _ => 2 | .commit _ => 3 | .policy _ | .phases _ | .ladder _ _ _ => 4 | .host _ _ => 5
def jrnOctets : JrnEntry → List Byte
  | .host _ data => data
  | e => Config.recordOctets e
def jrnSealed (part : Nat) : Bool := (jrnPartitions.getD part (0, 1, false)).2.2

/-- The next sequence number of a partition. -/
def jrnSeq (j : Journal) (part : Nat) : Nat := mapGet 0 j.seq part + 1

/-- The key of slot 1 that seals the journal: one label in DEBUG, another in every other state (Table SEC-1). -/
def sealKey (s : State) : List Byte := Config.derive Config.rootKey (if s.top.fuses.lcs == .debug then [2] else [1])

/-- The commit line of a record (R68): its CRC-32, and in a sealed partition its tag under slot 1 (Table SEC-5). -/
def jrnLineOf (s : State) (e : JrnEntry) (seq : Nat) : CommitLine :=
  let iv := BitVec.ofNat 8 (jrnPart e) :: List.replicate 3 0 ++ bytesBE 8 seq
  { seq := seq, crc := Config.crc32 (jrnOctets e),
    tag := if jrnSealed (jrnPart e) then Config.gcmTag (sealKey s) iv (jrnOctets e) [] else [] }

/-- The commit line of a record passes its check (R68, R475). -/
def jrnGood (s : State) (r : JrnRecord) : Bool := r.line == jrnLineOf s r.entry r.line.seq

/-- The logical lines that a record takes: the lines of a host record; of any other, two in turn through its partition, its own and its
commit line. DESIGN CHOICE (log 60). -/
def jrnPlace (e : JrnEntry) (seq : Nat) : List Nat :=
  match e with
  | .host first data => (List.range (data.length / 64)).map (61440 + first + ·)
  | e =>
    let p := jrnPartitions.getD (jrnPart e) (0, 1, false)
    [64 * p.1 + 2 * seq % (64 * p.2.1), 64 * p.1 + 2 * seq % (64 * p.2.1) + 1]

/-- COUNT[k] of the SEC block (Table SEC-8). DEDUCED (log 98). -/
def secCount (s : State) (k : Nat) : State := add64 s (aSec (0x200 + 8 * k)) 1

/-- The Cashbox computes the tag of a record of a sealed partition, to write it or to check it; one that fails is counted as failed as
well (R474, Table SEC-8). DEDUCED (log 98). -/
def jrnTagged (s : State) (part : Nat) (ok : Bool) : State :=
  if jrnSealed part then whenB (!ok) (secCount · 1) (secCount s 0) else s

/-- A new record stands for an older one: of the same cartridge, of the same part of the firmware state, or of host lines that it
holds whole. -/
def jrnReplaces (new old : JrnEntry) : Bool :=
  match new, old with
  | .cart a, .cart b => a.serial == b.serial
  | .policy _, .policy _ | .phases _, .phases _ => true
  | .ladder a _ _, .ladder b _ _ => a == b
  | .host a x, .host b y => decide (a ≤ b) && decide (b + y.length / 64 ≤ a + x.length / 64)
  | _, _ => false

/-- A record is written with its commit line (R68, R69). -/
def jrnStore (s : State) (e : JrnEntry) : State :=
  let part := jrnPart e
  let n := jrnSeq s.journal part
  let r : JrnRecord := { entry := e, line := jrnLineOf s e n }
  jrnTouch (modJrn s fun j => { j with
    records := r :: j.records.filter fun x => !jrnReplaces e x.entry
    seq := mapPut 0 j.seq part n }) (jrnPlace e n)

/-- A record is written; in a sealed partition its tag is counted. -/
def jrnPut (s : State) (e : JrnEntry) : State := jrnStore (jrnTagged s (jrnPart e) true) e

/-- An entry of the system log, which is not sealed. -/
def jrnLog (s : State) (e : SysEntry) : State := jrnStore s (.sys e)

/-- What the records hold: the system log and the commit records, newest first, the wear of a cartridge, the policy, and the phases. -/
def jrnSysLog (j : Journal) : List SysEntry := j.records.filterMap fun r => match r.entry with | .sys e => some e | _ => none
def jrnCommits (j : Journal) : List CommitRec := j.records.filterMap fun r => match r.entry with | .commit e => some e | _ => none
def jrnFaults (j : Journal) : List FaultEntry := j.records.filterMap fun r => match r.entry with | .fault e => some e | _ => none
def jrnCarts (j : Journal) : List CartRec := j.records.filterMap fun r => match r.entry with | .cart e => some e | _ => none
def jrnPolicy (j : Journal) : Option Bool := j.records.findSome? fun r => match r.entry with | .policy b => some b | _ => none
def jrnPhases (j : Journal) : List Phase := (j.records.findSome? fun r => match r.entry with | .phases l => some l | _ => none).getD []

-- What firmware owes the journal (R46, R435, R468).

/-- Firmware writes a record, or owes it until it runs and, for a sealed partition, the seal key is there. The wear record of a cartridge
goes to it as well while it is there. DEDUCED (log 33). -/
def jrnOwe (s : State) (e : JrnEntry) : State :=
  if fwRuns s && (!jrnSealed (jrnPart e) || sealReady s) then
    let s := match e with
      | .cart r => whenB (regBit s (aBay r.bay 0) 8 && reg64 s (aBay r.bay 8) == r.serial) (emit · (.wearRecord r.bay r.wear)) s
      | _ => s
    jrnPut s e
  else { s with owed := s.owed ++ [e] }

/-- Firmware writes a fault record, which is not sealed, or owes it until it runs (R435). -/
def jrnOweFault (s : State) (e : FaultEntry) : State :=
  if fwRuns s then jrnStore s (.fault e) else { s with owed := s.owed ++ [.fault e] }

/-- Firmware writes what it owes, in order. -/
def jrnFlush (s : State) : State :=
  forEach s.owed jrnOwe { s with owed := [] }

-- First-error records (R433, R435).

/-- A first-error record of source `id` (R433, Tables CRI-6 to CRI-8): written whole where none is held, counted
otherwise; FIRST takes the first. Firmware copies it to the journal (R435). DEDUCED (log 55). -/
def faultRecord (s : State) (id access requester address syndrome : Nat) : State :=
  let a := aFlt (0x10000 + 0x20 * id)
  if regBit s a 31 then
    add64 (satF s (a + 12) 31 16 1) (aFlt 0x18) 1
  else
    let s := setReg s a (BitVec.ofNat 32 (2 ^ 31 + s.clock.ns % 2 ^ 30))
    let s := setReg s (a + 4) (BitVec.ofNat 32 s.clock.sec)
    let s := setReg s (a + 8) (BitVec.ofNat 32 ((s.clock.sec >>> 32) % 65536 + (id % 4096 + access * 4096) * 65536))
    let s := setReg s (a + 12) (BitVec.ofNat 32 (requester % 65536 + 65536))
    let s := setReg64 s (a + 16) address
    let s := setReg64 s (a + 24) syndrome
    let s := add64 s (aFlt 0x10) 1
    let s := jrnOweFault s (.first id ((List.range 8).map fun i => reg s (a + 4 * i)))
    if regBit s (aFlt 0) 31 then s
    else raise (setReg s (aFlt 0) (BitVec.ofNat 32 (2 ^ 31 + id % 4096))) 0xE03

/-- A first-error record and the source with it. -/
def fault (s : State) (id access requester address syndrome : Nat) : State :=
  raise (faultRecord s id access requester address syndrome) id

-- Start-up (R59, R68, R475).

/-- Lines of a host record, and those that no other record holds since. -/
def jrnHostLines : JrnEntry → List Nat
  | .host first data => (List.range (data.length / 64)).map (first + ·)
  | _ => []

/-- A record is discarded with source 0x007 (R68). The lines of a host record become lines never written (R97), but for those that a
later record holds. DESIGN CHOICE (log 60). -/
def jrnDrop (s : State) (r : JrnRecord) : State :=
  let later := (s.journal.records.takeWhile (· != r)).flatMap (jrnHostLines ·.entry)
  let gone := (jrnHostLines r.entry).filter fun l => !later.contains l
  raise (modJrn s fun j => { j with
    records := j.records.erase r
    host := j.host.filter fun x => !gone.contains (x.1 / 64) }) 0x007

/-- A record of a partition has a sequence number. -/
def jrnNamed (b : JrnRec) (r : JrnRecord) : Bool := jrnPart r.entry == b.partition && r.line.seq == b.seq

/-- A record that a reset interrupted is discarded; its number counts as used (R475). -/
def jrnTorn (s : State) (b : JrnRec) : State :=
  raise (modJrn s fun j => { j with seq := mapMod 0 j.seq b.partition (max b.seq) }) 0x007

/-- The life-cycle state of the last life-cycle record; a part with none has never left BLANK. -/
def jrnLcs (j : Journal) : Nat := ((jrnSysLog j).findSome? fun | .lifeCycle n => some n | _ => none).getD 0

/-- The journal at start-up: records whose commit line is missing or fails its check are discarded (R68), each sealed partition
resumes 65,536 above the highest sequence number used (R475), and a life-cycle record that is missing is written (R59). -/
def journalStart (bad : List JrnRec) (s : State) : State :=
  let fail := fun r => bad.any (jrnNamed · r) || !jrnGood s r
  let fails := s.journal.records.filter fail
  let s := forEach s.journal.records (fun s r => jrnTagged s (jrnPart r.entry) (!fail r)) s
  let torn := bad.filter fun b => !s.journal.records.any (jrnNamed b)
  let s := forEach torn jrnTorn (forEach fails jrnDrop s)
  let s := forEach [2, 3, 4, 5] (fun s p => modJrn s fun j => { j with seq := mapMod 0 j.seq p (· + 65535) }) s
  whenB (jrnLcs s.journal != lcsCode s.top.fuses.lcs) (jrnLog · (.lifeCycle (lcsCode s.top.fuses.lcs))) s

/-- Firmware reads records: those that lie in a block which stays mapped though it fails to verify, and that fail their checks, are
discarded (R67, R68). Which of them fail is free. -/
def jrnReads (s : State) (pick : JrnEntry → Bool) : State :=
  forEach (s.journal.records.filter fun r => pick r.entry) (fun s r =>
    if (jrnPlace r.entry r.line.seq).any fun l => s.journal.stuck.contains (l / 64) then
      let lost := Config.freeBool s.freeCtr
      whenB lost (jrnDrop · r) (jrnTagged (drawn s) (jrnPart r.entry) (!lost))
    else jrnTagged s (jrnPart r.entry) true) s

-- JRN_READ and JRN_WRITE (R97).

/-- FIRST_LINE and LINE_COUNT of a JRN command are in range (R97). -/
def jrnArgsOk (c : HostCmd) : Bool :=
  let n := argN c 2 2
  1 ≤ n && n ≤ 64 && c.dataLen == 64 * n && decide (argN c 0 2 + n ≤ 65536)

def jrnLines (c : HostCmd) : List Nat := (List.range (argN c 2 2)).map (argN c 0 2 + ·)

/-- A line lies in a withdrawn block (R67). -/
def jrnLost (j : Journal) (line : Nat) : Bool := decide (1024 ≤ line / 64 + j.hostLost)

/-- A line fails its seal check: as the command's row tells, or by the commit line of the record that holds it (R68, R475). -/
def jrnLineBad (s : State) (badLines : List Nat) (line : Nat) : Bool :=
  badLines.contains line ||
    ((s.journal.records.find? fun r => (jrnHostLines r.entry).contains line).map (!jrnGood s ·)).getD false

/-- The status of a JRN command before it acts (R97, Table SEC-4). A withdrawn line gives NOT_FOUND before it is read (R67). DESIGN
CHOICE (log 80): of a command wrong in two other ways the status is the first in this order. -/
def jrnStatus (s : State) (badLines : List Nat) (c : HostCmd) : Nat :=
  if s.top.fuses.lcs == .retired then stNotPermitted
  else if !jrnArgsOk c then stBadArg
  else if (jrnLines c).any (jrnLost s.journal) then stNotFound
  else if (jrnLines c).any (jrnLineBad s badLines) then stAuthFail
  else stOk

/-- The host records that hold lines of a JRN command are checked, where the command comes so far (R97). DEDUCED (log 98). -/
def jrnChecked (s : State) (badLines : List Nat) (c : HostCmd) : State :=
  if jrnStatus s badLines c = stOk ∨ jrnStatus s badLines c = stAuthFail then
    forEach (s.journal.records.filter fun r => (jrnHostLines r.entry).any (jrnLines c).contains)
      (fun t r => jrnTagged t 5 (jrnGood s r && !(jrnHostLines r.entry).any badLines.contains)) s
  else s

/-- The octets of a host line; a line never written reads as zeros. -/
def jrnLine (j : Journal) (line : Nat) : List Byte := (List.range 64).map fun i => mapGet 0 j.host (64 * line + i)

def doJrnRead (badLines : List Nat) (c : HostCmd) (s : State) : State :=
  let t := jrnChecked s badLines c
  if jrnStatus s badLines c = stOk then
    completeData t c stOk [] ((jrnLines c).flatMap (jrnLine s.journal))
  else complete t c (jrnStatus s badLines c)

/-- Octets stored from host octet `o` on. -/
def putBytes (m : Store Byte) (o : Nat) (b : List Byte) : Store Byte :=
  (b.zipIdx).foldl (fun m x => mapPut 0 m (o + x.2) x.1) m

def doJrnWrite (badLines failed : List Nat) (c : HostCmd) (s : State) : State :=
  if jrnStatus s badLines c = stOk then
    let n := jrnSeq s.journal 5
    let data := sliceZ c.data 0 c.dataLen
    let t := modJrn (jrnChecked s badLines c) fun j => { j with host := putBytes j.host (64 * argN c 0 2) data }
    complete (jrnFailed failed (jrnPut t (.host (argN c 0 2) data))) c stOk (bytesLE 4 n)
  else complete (jrnChecked s badLines c) c (jrnStatus s badLines c)

/-- JRN_READ (R97). -/
def execJrnRead (cmd : HostCmd) (badLines : List Nat) (s : State) : Host.Outcome State Fault Refusal :=
  .next (runCmd s cmd .jrnRead (doJrnRead badLines cmd))

/-- JRN_WRITE (R97, R66 to R69). -/
def execJrnWrite (cmd : HostCmd) (badLines failedBlocks : List Nat) (s : State) : Host.Outcome State Fault Refusal :=
  .next (runCmd s cmd .jrnWrite (doJrnWrite badLines failedBlocks cmd))

end Sys2Proof.Machine
end

