-- ==== Sys2Proof/Machine/Programs.lean ====
section
/-!
DEFINITION. The program store and the version domains: staging, commits, drain, records and patches (chapter 04).
A byte of a program space stands at one flat key made of bank, space, instance, stall and offset.
-/
namespace Sys2Proof.Machine

/-- Key of a byte of the program store: bank of a parity, space code, PIPE index or domain, stall, offset. -/
def progKey (bank space index stall off : Nat) : Nat := (((bank * 8 + space) * 128 + index) * 32 + stall) * 0x80000 + off

/-- Bytes of the program store. -/
def progBytes (s : State) (key n : Nat) : List Byte := (List.range n).map fun i => mapGet 0 s.prog (key + i)

/-- A little-endian number of `n` bytes in the program store. -/
def progNat (s : State) (key n : Nat) : Nat := leNat (progBytes s key n)

/-- Size of an instance of a space (Table PRG-1); 0 where the code is not in the table. -/
def spaceSize (space : Nat) : Nat :=
  match space with | 1 => 32768 | 2 => 8192 | 3 => 16384 | 4 => 262144 | 5 => 16384 | 6 => 16384 | _ => 0

/-- INDEX and STALL name an instance of the space (Tables PRG-1, PRG-2). -/
def instanceOk (space index stall : Nat) : Bool :=
  match space with
  | 1 | 2 => decide (index < 36 ∧ stall < 20) || decide (36 ≤ index ∧ index < 72 ∧ stall < 12)
  | 3 | 4 => decide (index < 36 ∧ stall = 0)
  | 5 => decide (36 ≤ index ∧ index < 72 ∧ stall = 0)
  | 6 => decide (index < 2 ∧ stall = 0)
  | _ => false

/-- The domain that holds an instance of a space (R105). -/
def spaceDom (space index : Nat) : Dom :=
  if space = 6 then (if index = 0 then .ing else .egr) else if index < 36 then .ing else .egr

def stageOpen (s : State) (d : Dom) : Bool := regBit s (aDom d 0) 0

/-- The bank that staging writes: the parity of CURRENT + 1 (R106, R110). -/
def stagedBank (s : State) (d : Dom) : Nat := (curVer s d + 1) % 2

/-- Staging opens (R110). -/
def openStage (s : State) (d : Dom) : State := setBit s (aDom d 0) 0 true

/-- Bit Pk of a stall word is the exclusive OR of bits [31k + 30 : 31k] (R221). -/
def stallParity (w : Nat) : Bool := (List.range 8).all fun k => popN 31 (nbits w (31 * k + 30) (31 * k)) % 2 == b2n (w.testBit (248 + k))

/-- Every whole stall word of staged data has correct parity. -/
def stallWordsOk (b : List Byte) : Bool := (List.range (b.length / 32)).all fun i => stallParity (leAt b (32 * i) 32)

/-- The checks of STAGE_WRITE that come first (R112), with that of R221. -/
def stageArgsOk (c : HostCmd) : Bool :=
  let off := argN c 4 4
  instanceOk (argN c 0 1) (argN c 1 1) (argN c 2 1) && c.dataLen != 0 && c.dataLen % 32 == 0 && off % 32 == 0
  && decide (off + c.dataLen ≤ spaceSize (argN c 0 1)) && crc32 (sliceZ c.data 0 c.dataLen) == argN c 8 4
  && (argN c 0 1 != 1 || stallWordsOk (sliceZ c.data 0 c.dataLen))

/-- STAGE_WRITE (R111, R112): whole or not at all. A write of stall words ends their poison, and one of parse words
gives both copies anew (R186, R214). -/
def doStageWrite (c : HostCmd) (s : State) : State :=
  if !stageArgsOk c then complete s c stBadArg
  else
    let d := spaceDom (argN c 0 1) (argN c 1 1)
    if !stageOpen s d then complete s c stVersionBusy
    else
      let key := progKey (stagedBank s d) (argN c 0 1) (argN c 1 1) (argN c 2 1) (argN c 4 4)
      let inside := fun k => decide (key ≤ k ∧ k < key + c.dataLen)
      let s := { s with
        prog := putBytes s.prog key (sliceZ c.data 0 c.dataLen)
        pipes := { s.pipes with
          poison := s.pipes.poison.filter fun k => !inside k
          parsePoison := s.pipes.parsePoison.filter fun k => !inside k } }
      complete s c stOk

/-- STAGE_WRITE (R112), held until the table wipe ends (R53). -/
def execStageWrite (cmd : HostCmd) (s : State) : Host.Outcome State Fault Refusal :=
  .next (runCmd s cmd .stageWrite (doStageWrite cmd))

-- Commits (R115 to R120).

/-- The domains that DOMAINS names. -/
def namedDoms (c : HostCmd) : List Dom :=
  (if (argN c 0 1) % 2 = 1 then [Dom.ing] else []) ++ (if argN c 0 1 / 2 % 2 = 1 then [Dom.egr] else [])

/-- CANCEL of the commit ARG. -/
def cancelBit (c : HostCmd) : Bool := (argN c 0 1).testBit 7

/-- The group that holds domain `d`. -/
def grpOf (s : State) (d : Dom) : Option CommitGrp := s.prg.groups.find? (·.doms.contains d)

/-- The commit RESULT (Table PRG-4). -/
def commitResult (doms : List Dom) (vers : Dom → Nat) (t : Option Nat) (deferred : Bool) : List Byte :=
  let v := fun d => if doms.contains d then vers d else 0
  bytesLE 2 (v .ing) ++ bytesLE 2 (v .egr) ++ bytesLE 6 ((t.getD 0) / nsPerSec) ++ bytesLE 4 ((t.getD 0) % nsPerSec)
  ++ bytesLE 1 (b2n (doms.contains .ing) + 2 * b2n (doms.contains .egr) + 4 * b2n deferred) ++ [0]

/-- The version that a commit makes current. -/
def nextVer (s : State) (d : Dom) : Nat := (curVer s d + 1) % 65536

/-- A commit event waits for its record (R124): that of an accepted commit tells what is scheduled (Table ISL-14). -/
def commitEvent (s : State) (g : CommitGrp) (vers : Dom → Nat) (passed : Bool) : State :=
  let v := fun d => if g.doms.contains d then vers d + 1 else 0
  { s with prg := { s.prg with events := s.prg.events ++
    [{ ing := v .ing, egr := v .egr, passed := passed, t := g.t, token := g.token }] } }

/-- ING_T or EGR_T (Table PRG-6). DEDUCED (log 99). -/
def setDomT (s : State) (d : Dom) (t : Nat) : State := setReg64 s (aDom d 8) (t / nsPerSec % 2 ^ 32 * 2 ^ 32 + t % nsPerSec)

/-- With nothing pending, ING_T and EGR_T show the last T that passed (Table PRG-6). DEDUCED (log 99). -/
def showLastT (s : State) (d : Dom) : State := setDomT s d ((getDom s d).prevT.getD 0)

/-- T moved under R117: 10 µs after the previous commit instant of a named domain at the earliest. -/
def deferT (s : State) (doms : List Dom) (t : Nat) : Nat :=
  doms.foldl (fun t' d => match (getDom s d).prevT with | some p => if t < p + 10000 then max t' (p + 10000) else t' | none => t') t

/-- Give a group its instant: DEFERRED with source 0x204 where R117 moves it; PENDING and T read. -/
def placeGrp (s : State) (g : CommitGrp) (t : Nat) : State :=
  let t' := deferT s g.doms t
  let moved := decide (t' ≠ t)
  let g' := { g with t := some t', deferred := moved }
  let s := { s with prg := { s.prg with groups := s.prg.groups.map fun x => if x = g then g' else x } }
  let s := forEach g.doms (fun s d =>
    setDomT (setF (setBit s (aDom d 0) 6 (moved || regBit s (aDom d 0) 6)) (aDom d 0) 4 3 1) d t') s
  whenB moved (raise · 0x204) s

/-- The status that the checks of R116 give a commit, without CANCEL. DESIGN CHOICE (log 85): the T fields of a cancel are not
checked. -/
def commitStatus (s : State) (c : HostCmd) : Nat :=
  let doms := namedDoms c
  let t := argN c 8 6 * nsPerSec + argN c 16 4 % 2 ^ 30
  if s.top.fuses.lcs == .retired then stNotPermitted
  else if doms.isEmpty || (c.opcode == 0x21 && cancelBit c) || (c.opcode == 0x22 && !cancelBit c && decide (999999999 < argN c 16 4 % 2 ^ 30))
    then stBadArg
  else if cancelBit c then stOk
  else if doms.any (fun d => !stageOpen s d || (grpOf s d).isSome) || decide (16 ≤ s.prg.events.length) then stVersionBusy
  else if c.opcode == 0x22 && decide (t < clkNs s + 1000) then stLate
  else stOk

/-- A commit is accepted (R117, R118): staging closes and the group is formed; COMMIT and COMMIT_AT take their T, and
COMMIT_TOKEN arms. -/
def commitAccept (c : HostCmd) (s : State) : State :=
  let doms := namedDoms c
  let vers := nextVer s
  let token := if c.opcode == 0x23 then some (argN c 8 4) else none
  let g : CommitGrp := { doms := doms, t := none, token := token, byCommit := c.opcode == 0x21, cmd := c, deferred := false }
  let s := { s with prg := { s.prg with groups := s.prg.groups ++ [g] } }
  let s := forEach doms (fun s d => setBit s (aDom d 0) 0 false) s
  if c.opcode == 0x23 then
    complete (forEach doms (fun s d => setBit s (aDom d 0) 4 true) (commitEvent s g vers false)) c stOk (commitResult doms vers none false)
  else
    let t := if c.opcode == 0x21 then clkNs s + 2000 else argN c 8 6 * nsPerSec + argN c 16 4 % 2 ^ 30
    let s := placeGrp s g t
    let placed := (doms.head?.bind (grpOf s)).getD g
    let s := commitEvent s placed vers false
    if c.opcode == 0x21 then setPhase s c .started
    else complete s c stOk (commitResult doms vers placed.t placed.deferred)

/-- The status of a cancel (R119). DEDUCED (log 69). -/
def cancelStatus (s : State) (c : HostCmd) : Nat :=
  let gs := (namedDoms c).map (grpOf s)
  if gs.any (fun g => match g with | none => true | some g => g.byCommit) then stNotFound
  else if gs.any (fun g => match g with | some { t := some t, .. } => decide (t < clkNs s + 1000) | _ => false) then stLate
  else stOk

/-- A commit command: R116 to R120; with CANCEL, R119. DEDUCED (log 69). -/
def doCommit (c : HostCmd) (s : State) : State :=
  if commitStatus s c ≠ stOk then complete s c (commitStatus s c)
  else if cancelBit c then
    if cancelStatus s c ≠ stOk then complete s c (cancelStatus s c)
    else
      let doms := namedDoms c
      let groups := (s.prg.groups.map fun g => { g with doms := g.doms.filter fun d => !doms.contains d }).filter (!·.doms.isEmpty)
      let s := { s with prg := { s.prg with groups := groups } }
      let s := forEach doms (fun s d => openStage (showLastT (setF s (aDom d 0) 4 3 0) d) d) s
      complete s c stOk (commitResult doms (nextVer s) none false)
  else commitAccept c s

/-- COMMIT (R116 to R118). -/
def execCommit (cmd : HostCmd) (s : State) : Host.Outcome State Fault Refusal :=
  .next (runCmd s cmd .commit (doCommit cmd))

/-- COMMIT_AT (R116 to R118). -/
def execCommitAt (cmd : HostCmd) (s : State) : Host.Outcome State Fault Refusal :=
  .next (runCmd s cmd .commitAt (doCommit cmd))

/-- COMMIT_TOKEN (R116, R118, R120). -/
def execCommitToken (cmd : HostCmd) (s : State) : Host.Outcome State Fault Refusal :=
  .next (runCmd s cmd .commitToken (doCommit cmd))

/-- COMMIT_CANCEL (R119). -/
def execCommitCancel (cmd : HostCmd) (s : State) : Host.Outcome State Fault Refusal :=
  .next (runCmd s cmd .commitCancel (doCommit cmd))

/-- A commit token arrives with an id and an instant (R117, R120): every group armed with the id takes T. -/
def tokenArrive (s : State) (id t : Nat) : State :=
  let mine := s.prg.groups.filter fun g => g.token == some id && g.t.isNone
  let late := decide (t < clkNs s + 1000)
  let t' := if late then clkNs s + 1000 else t
  let s := forEach mine (fun s g =>
    let s := whenB late (forEach g.doms fun s d => setBit s (aDom d 0) 7 true) s
    whenB late (raise · 0x204) (placeGrp s g t')) s
  whenB (!mine.isEmpty) (raise · 0x206) s

/-- A domain takes its new version at T (R106, R107, R121). -/
def switchDom (t : Nat) (s : State) (d : Dom) : State :=
  let s := setF s (aDom d 0) 31 16 (nextVer s d)
  let s := setF (setBit (setBit s (aDom d 0) 8 false) (aDom d 0) 3 false) (aDom d 0) 1 1 1
  raise (setDomT (setDom s d { getDom s d with prevT := some t }) d t) (0x200 + domIdx d)

/-- COMMIT_INSTANT (R107, R118): the first reading at or after T of the commit that names the domain; one instant for
every domain the commit names (R117). -/
def execCommitInstant (d : Dom) (s : State) : Host.Outcome State Fault Refusal :=
  .next (match grpOf s d with
    | some g =>
      match g.t with
      | some t =>
        if t ≤ clkNs s then
          let vers := nextVer s
          let s := { s with prg := { s.prg with groups := s.prg.groups.filter (· ≠ g) } }
          let s := forEach g.doms (switchDom t) s
          let s := commitEvent s g vers true
          if g.byCommit then complete s g.cmd stOk (commitResult g.doms vers (some t) g.deferred) else s
        else s
      | none => s
    | none => s)

-- Drain (R121, R122).

/-- A packet of parity `q` in the ingress domain: its parse engines, stalls and recirculation path. -/
def ingHolds (s : State) (q : Nat) : Bool :=
  let has := fun (x : Nat × List Packet) => x.2.any fun p => p.ingVer % 2 == q
  s.pipes.parse.any has || (s.pipes.recirc.any fun x => x.2.any fun p => p.unit == 0 && p.ingVer % 2 == q) || s.pipes.toTail.any has ||
  (s.pipes.entry.any fun x => decide (x.1 < 720) && x.2.any fun f => f.pkt.ingVer % 2 == q) ||
  s.pipes.stalls.any fun x => decide (x.1 < 720) && x.2.ctxs.any fun c => c.pkt.ingVer % 2 == q

/-- A packet of parity `q` in the egress domain: its stalls and editors. -/
def egrHolds (s : State) (q : Nat) : Bool :=
  let has := fun (x : Nat × List Copy) => x.2.any fun c => c.pkt.egrVer % 2 == q
  (s.pipes.entry.any fun x => decide (720 ≤ x.1) && x.2.any fun f => f.pkt.egrVer % 2 == q) ||
  s.pipes.toETail.any has || s.pipes.toEditor.any has ||
  s.pipes.stalls.any fun x => decide (720 ≤ x.1) && x.2.ctxs.any fun c => c.pkt.egrVer % 2 == q

/-- The domain holds a packet of its previous parity. -/
def domHolds (s : State) (d : Dom) : Bool :=
  let q := (curVer s d + 1) % 2
  match d with | .ing => ingHolds s q | .egr => egrHolds s q

/-- CHANGES: entries of a domain's change log (R123). -/
def changesView (s : State) (d : Dom) : Word := BitVec.ofNat 32 (getDom s d).changeLog.length

/-- PATCH_VERSION (Table PRG-7): the level of the patch in the flash, and of the one in force. -/
def flashLevel (s : State) : Nat := (s.top.flash.patch.map (·.level)).getD 0
def patchLevel (s : State) : Nat := (s.prg.patchInForce.map (·.level)).getD 0
def patchView (s : State) : Word := BitVec.ofNat 32 (flashLevel s % 65536 * 65536 + patchLevel s % 65536)

/-- DRAIN_END (R121, R123): DRAINING clears as RETIRING sets, and the Clerk has the change log to work through. DEDUCED (log 69). -/
def execDrainEnd (d : Dom) (s : State) : Host.Outcome State Fault Refusal :=
  .next (if regBit s (aDom d 0) 1 && !domHolds s d then
      let s := setF s (aDom d 0) 2 1 2
      setDom s d { getDom s d with retireTodo := (getDom s d).changeLog }
    else s)

/-- COMMIT_RECORD_WRITE (R124): firmware records the oldest event in the journal. DEDUCED (log 69). -/
def execCommitRecordWrite (failedBlocks : List Nat) (s : State) : Host.Outcome State Fault Refusal :=
  .next (match s.prg.events with
    | [] => s
    | e :: rest =>
      if fwRuns s && sealReady s then
        jrnFailed failedBlocks (jrnPut { s with prg := { s.prg with events := rest } } (.commit e))
      else s)

end Sys2Proof.Machine
end

