-- ==== Sys2Proof/Machine/Counters.lean ====
section
/-!
DEFINITION. The Ledger, the performance event counters, the Tally record's octets and the hand-over of records to the
export backlog (chapter 17).
-/
namespace Sys2Proof.Machine

/-- Flat key of a Ledger entry (Table TAL-6): region and index within it. -/
def ldgKey (region index : Nat) : Nat := region * 2 ^ 27 + index

/-- Counter `i` of bank `b` in stall `st` of pipeline `p`. -/
def ldgStall (p st b i : Nat) : Nat := ldgKey 0 ((p * 20 + st) * 65536 + b * 4096 + i)
/-- Drop counter of a reason in a pipeline. -/
def ldgDrop (p reason : Nat) : Nat := ldgKey 1 (p * 256 + reason)
/-- Counter k of port l (Table TAL-7). -/
def ldgPort (l k : Nat) : Nat := ldgKey 2 (l * 16 + k)
/-- Bin of a histogram of port l: kind 0 LAT, 1 QDLY. -/
def ldgHist (l kind bin : Nat) : Nat := ldgKey 3 (l * 64 + 32 * kind + bin)

/-- Add to a Ledger entry, modulo 2^64 in each count (R418). -/
def ledgerAdd (s : State) (key a b : Nat) : State :=
  { s with telem := { s.telem with
      ledger := mapMod (0, 0) s.telem.ledger key fun e => ((e.1 + a) % 2 ^ 64, (e.2 + b) % 2 ^ 64) } }

/-- One packet and L + 4 octets in a Ledger entry; the octets of a frame still arriving are added at its tail. -/
def ledgerPacket (s : State) (key : Nat) (p : Packet) : State :=
  if p.whole then ledgerAdd s key 1 (p.octets.length + 4)
  else
    let s := ledgerAdd s key 1 0
    { s with telem := { s.telem with owed := s.telem.owed ++ [(p.id, key)] } }

-- Performance event counters (R421).

def aPmcCount (n : Nat) : Nat := aPmc (0x10000 + 8 * n)
def aPmcCfg (n : Nat) : Nat := aPmc (0x10004 + 8 * n)

/-- An id that Table TAL-9 names. -/
def pmcNamed (n : Nat) : Bool :=
  decide (n < 1152 ∧ n % 16 < 6) || decide (0x480 ≤ n ∧ n < 0x880 ∧ n % 4 < 3) || decide (0x880 ≤ n ∧ n < 0x8A0)
  || decide (0x8A0 ≤ n ∧ n < 0x8C4) || decide (0x8D0 ≤ n ∧ n < 0x8D3) || decide (0x8E0 ≤ n ∧ n < 0x8E9)

/-- Add to counter `n`; each wrap raises 0xB82 with INT_EN and advances a chained counter `n + 1`, over several. -/
def pmcBump (fuel : Nat) (s : State) (n k : Nat) : State :=
  match fuel with
  | 0 => s
  | f + 1 =>
    if !pmcNamed n || k == 0 then s
    else
      let v := (reg s (aPmcCount n)).toNat + k
      let s := setReg s (aPmcCount n) (BitVec.ofNat 32 v)
      if v < 2 ^ 32 then s
      else
        let s := whenB (regBit s (aPmcCfg n) 29) (raise · 0xB82) s
        if regBit s (aPmcCfg (n + 1)) 31 && decide (n < 4095) then pmcBump f s (n + 1) (v / 2 ^ 32) else s

/-- What the activity model and the signature count, by the events of Table TAL-9 (R454, R460): 0-71 packet slots and 72-143 stall words of a
pipeline, 144-152 lookups of a hall, 153 Market grants, 154 HBM beats, 155 Clerk operations; 156 is pages of the Barrow. DEDUCED (log 67). -/
def actKey (n : Nat) : Option Nat :=
  if n < 1152 then (if n % 16 = 0 then some (n / 16) else if n % 16 = 2 then some (72 + n / 16) else none)
  else if 0x480 ≤ n ∧ n < 0x880 then (if n % 4 = 0 then some 153 else none)
  else if 0x880 ≤ n ∧ n < 0x8A0 then some 154
  else if n = 0x8D0 then some 155
  else if 0x8E0 ≤ n ∧ n < 0x8E9 then some (144 + (n - 0x8E0))
  else none

/-- Activity of a key is counted. -/
def noteAct (s : State) (k n : Nat) : State :=
  { s with activity := { s.activity with micro := mapMod 0 s.activity.micro k (· + n), ms := mapMod 0 s.activity.ms k (· + n) } }

/-- `k` is added to counter n, unless CHAIN = 1 has it ignore its own event; Scales counts the event too. DESIGN CHOICE (log 72). -/
def pmcAdd (s : State) (n k : Nat) : State :=
  let s := match actKey n with | some x => noteAct s x k | none => s
  if regBit s (aPmcCfg n) 31 then s else pmcBump 4096 s n k

/-- Event n occurs `k` times in one clock: a counter with LEVEL = 1 counts the clock (R421). DESIGN CHOICE (log 72). -/
def pmcEvent (s : State) (n k : Nat) : State := pmcAdd s n (if regBit s (aPmcCfg n) 30 then min 1 k else k)

/-- The arbiter of a channel of stack `m` grants the 8 beats of one page cell, a clock each (R316, R421). -/
def pmcBeats (s : State) (m ch : Nat) : State := pmcAdd s (0x880 + 16 * m + ch) 8

/-- PMC_COUNT_WRITE (R421): occurrences in the clock of the write are added to the value written. -/
def execPmcCountWrite (n : Nat) (value : Word) (occurrences : Nat) (s : State) : Host.Outcome State Fault Refusal :=
  .next (if !pmcNamed n then s
    else holdWrite s 126 (aPmcCount n) value fun s => pmcEvent (setReg s (aPmcCount n) value) n occurrences)

-- The record (Table TAL-1).

/-- The Tally record as 32 octets (R403). -/
def tallyOctets (t : Tally) : List Byte :=
  bytesLE 4 t.ingTs
  ++ bytesLE 4 (t.srcPort % 2048 * 2 ^ 21 + t.egrPort % 2048 * 1024 + t.prio % 8 * 128 + t.colour % 4 * 32
    + t.passes % 8 * 4 + 2 * b2n t.spilled + b2n t.cut)
  ++ bytesLE 4 (t.queue % 16384 * 2 ^ 18 + min 262143 t.occEnq)
  ++ bytesLE 4 (t.ingVer % 65536 * 65536 + t.egrVer % 65536)
  ++ bytesLE 4 t.egrTs
  ++ (sliceN t.stamps 4).flatMap (bytesLE 2)
  ++ bytesLE 2 t.user ++ [t.flags, BitVec.ofNat 8 t.reason]
where
  /-- The first `n` stamps, 0xFFFF where none is written. -/
  sliceN (l : List Nat) (n : Nat) : List Nat := (List.range n).map fun i => l.getD i 0xFFFF

/-- A record at parse entry (R403, R404): ingress time, source port, passes and ingress version. -/
def tallyStart (ts src ver : Nat) : Tally :=
  { ingTs := ts, srcPort := src, egrPort := 0x7FF, prio := 0, colour := 0, passes := 0, spilled := false, cut := false,
    queue := 0x3FFF, occEnq := 0, ingVer := ver, egrVer := 0, egrTs := 0,
    stamps := [0xFFFF, 0xFFFF, 0xFFFF, 0xFFFF], user := 0, flags := 0, reason := 0 }

-- Export hand-over (R412, R415).

def addTal (s : State) (k : Nat) : State := add64 s (aTal (0x900 + 8 * k)) 1

/-- An export record is lost (R415). -/
def recordLost (s : State) : State := raiseLimited (addTal s 2) 0xB80 1000000

/-- A record is handed to export: it joins the backlog, or is lost. DEDUCED (log 52). -/
def exportHand (s : State) (r : ExpRec) : State :=
  let s := match r with | .postcard _ => addTal s 0 | .flow _ => addTal s 1
  if !regBit s (aTal 0x20) 31 || decide (65536 ≤ s.telem.backlog.length) then recordLost s
  else { s with telem := { s.telem with backlog := s.telem.backlog ++ [r] } }

/-- The sampling of 1 in `n` candidates: the first of each `n`; 0 and 1 take every one. DEDUCED (log 52). -/
def sampled (seen n : Nat) : Bool := decide (n ≤ 1) || seen % n == 0

/-- A final record yields a postcard under R412: by its flag, or as a drop. -/
def postcard (s : State) (pipe : Nat) (t : Tally) (isDrop : Bool) : State :=
  let cfg := reg s (aTal 0)
  if (cfg.getLsbD 31 && t.flags.getLsbD (fget cfg 26 24)) || (cfg.getLsbD 30 && isDrop) then
    let seen := mapGet 0 s.telem.pcSeen pipe
    let s := { s with telem := { s.telem with pcSeen := mapPut 0 s.telem.pcSeen pipe (seen + 1) } }
    if sampled seen (fget cfg 15 0) then exportHand s (.postcard t) else s
  else s

/-- A drop is counted (R407) and its record is final (R405). DEDUCED (log 42). -/
def dropRecord (s : State) (pipe reason : Nat) (p : Packet) (t : Tally) : State :=
  postcard (ledgerPacket s (ldgDrop pipe reason) p) pipe { t with reason := reason } true

/-- The bin of a value d in ns (R408). -/
def histBin (d : Nat) : Nat := if d < 256 then 0 else min 24 (Nat.log2 d - 7)

/-- Both histograms of port l take a departing copy. -/
def histograms (s : State) (l lat qdly : Nat) (p : Packet) : State :=
  ledgerPacket (ledgerPacket s (ldgHist l 0 (histBin lat)) p) (ldgHist l 1 (histBin qdly)) p

end Sys2Proof.Machine
end

