-- ==== Sys2Proof/Machine/Units.lean ====
section
/-!
DEFINITION. The units of the Market: carving, the Porter's grants and frees, owner tags (R270 to R275, R291, R292).
Every command is a Market clock of its own (DESIGN CHOICE, log 7).
-/
namespace Sys2Proof.Machine

/-- Cells of a unit of pool 0, 1 or 2 (Table MKT-1). -/
def unitCells (pool : Nat) : Nat := if pool = 0 then 1 else if pool = 1 then 8 else 64

def noTag : UnitTag := { cls := 0, id := 0, pool := 0, marks := 0 }
def unitTag (s : State) (ua : Nat) : UnitTag := mapGet noTag s.market.units ua

-- Carving (R271).
def carveBlocks (s : State) : Nat := regF s (aMkt 0) 9 0
def carveSlabs (s : State) : Nat := regF s (aMkt 0) 22 16

/-- C of R271: cells of the cell pool in a bank. -/
def cellPool (s : State) : Nat := 4096 - 8 * carveBlocks s - 64 * carveSlabs s

/-- Units of a pool in one bank. -/
def poolUnits (s : State) (pool : Nat) : Nat :=
  if pool = 0 then cellPool s else if pool = 1 then carveBlocks s else carveSlabs s

/-- Unit address of unit i of a pool in a bank (R270, R271). -/
def unitAt (s : State) (pool bank i : Nat) : Nat :=
  bank * 4096 + (if pool = 0 then i else if pool = 1 then cellPool s + 8 * i else cellPool s + 8 * carveBlocks s + 64 * i)

/-- The pool whose unit starts at a cell; none where no unit starts there. -/
def unitPool (s : State) (ua : Nat) : Option Nat :=
  let c := ua % 4096
  if c < cellPool s then some 0
  else if c < cellPool s + 8 * carveBlocks s then (if (c - cellPool s) % 8 = 0 then some 1 else none)
  else if (c - cellPool s - 8 * carveBlocks s) % 64 = 0 then some 2 else none

def bankRetired (s : State) (b : Nat) : Bool := regBit s (aBank b 0) 31

/-- The least number from `start` that satisfies `p`, in `fuel` tries. -/
def findFrom (p : Nat → Bool) : Nat → Nat → Option Nat
  | 0, _ => none
  | f + 1, start => if p start then some start else findFrom p f (start + 1)

/-- The lowest free unit of an allocator (R273). -/
def lowestFree (s : State) (pool bank : Nat) : Option Nat :=
  if bankRetired s bank then none
  else (findFrom (fun i => (unitTag s (unitAt s pool bank i)).cls == 0) (poolUnits s pool) 0).map (unitAt s pool bank)

-- Free counts: POOL_FREE counts no unit of a retired bank.
def aPoolFree (pool : Nat) : Nat := aMkt (0x20 + 4 * pool)
def poolFree (s : State) (pool : Nat) : Nat := regF s (aPoolFree pool) 20 0

/-- FT of Table MKT-4, before a grant. -/
def freeTotal (s : State) : Nat := poolFree s 0 + 8 * poolFree s 1 + 64 * poolFree s 2

def drainReserve (s : State) : Nat := regF s (aMkt 0x10) 20 0
def hdrmReserve (s : State) : Nat := regF s (aMkt 0x14) 20 0

/-- Request classes (Table MKT-4). -/
inductive UClass where
  | drain | headroom | ordinary
  deriving DecidableEq, Repr

/-- The class may take a unit of the pool: FT and FC as they stand after the grant. -/
def classOk (s : State) (k : UClass) (pool : Nat) : Bool :=
  let ft := freeTotal s
  let n := unitCells pool
  match k with
  | .drain => pool == 0
  | .headroom => decide (drainReserve s + n ≤ ft) && (pool != 0 || decide (drainReserve s + 1 ≤ poolFree s 0))
  | .ordinary => decide (drainReserve s + hdrmReserve s + n ≤ ft) && (pool != 0 || decide (drainReserve s + 1 ≤ poolFree s 0))

/-- A unit becomes held, with its tag (R291). -/
def holdUnit (s : State) (ua pool cls id : Nat) : State :=
  let s := { s with market := { s.market with units := mapPut noTag s.market.units ua { cls := cls, id := id, pool := pool, marks := 0 } } }
  let s := setF s (aPoolFree pool) 20 0 (poolFree s pool - 1)
  pmcEvent (setBit s (aMkt 4) 31 false) (0x480 + 4 * (ua / 4096)) 1

/-- STATUS.EMPTY follows the units held (R272). -/
def syncEmpty (s : State) : State := setBit s (aMkt 4) 31 s.market.units.isEmpty

/-- A unit becomes free (R274); one of a retired bank stays out of service (R299). -/
def freeUnit (s : State) (ua : Nat) : State :=
  let t := unitTag s ua
  if t.cls = 0 then s
  else
    let s := { s with market := { s.market with
      units := mapPut noTag s.market.units ua noTag, hostHeld := s.market.hostHeld.erase ua, sweep := s.market.sweep.map (·.erase ua) } }
    let s := whenB (!bankRetired s (ua / 4096)) (fun s => setF s (aPoolFree t.pool) 20 0 (poolFree s t.pool + 1)) s
    pmcEvent (syncEmpty s) (0x480 + 4 * (ua / 4096) + 2) 1

/-- Change a unit's tag. -/
def retag (s : State) (ua cls id : Nat) : State :=
  if (unitTag s ua).cls = 0 then s
  else { s with market := { s.market with units := mapMod noTag s.market.units ua fun t => { t with cls := cls, id := id } } }

/-- The bank that a requester's next grant of a pool comes from: the first with a free unit after its last (R273). DESIGN CHOICE (log 7). -/
def grantFrom (s : State) (rq pool : Nat) : Option Nat :=
  let start := mapGet 0 s.market.lastBank rq
  (findFrom (fun k => (lowestFree s pool ((start + k) % 256)).isSome) 256 0).bind fun k => lowestFree s pool ((start + k) % 256)

/-- A grant of one pool to a requester. -/
def grantPool (s : State) (rq pool cls id : Nat) (k : UClass) : State × Option Nat :=
  if !classOk s k pool then (s, none)
  else match grantFrom s rq pool with
    | none => (s, none)
    | some ua =>
      let s := { s with market := { s.market with lastBank := mapPut 0 s.market.lastBank rq (ua / 4096 + 1) } }
      (holdUnit s ua pool cls id, some ua)

/-- A fall-back to the next-larger pool (R273): COUNT[3]. -/
def fallBack (s : State) : State := add64 s (aMkt 0x118) 1

/-- A request of a pool: the next-larger pools in turn where the pool gives none; drain requests take cells only. The
bank that grants after a fall-back counts it. DESIGN CHOICE (log 7). -/
def requestUnit (s : State) (rq pool cls id : Nat) (k : UClass) : State × Option Nat :=
  let tried := (List.range 3).filter fun p => decide (pool ≤ p) && (k != .drain || p == 0)
  tried.foldl (fun r p =>
    match r.2 with
    | some _ => r
    | none =>
      let s := if p = pool then r.1 else fallBack r.1
      let g := grantPool s rq p cls id k
      match g.2 with
      | some ua => (whenB (p != pool) (pmcEvent · (0x480 + 4 * (ua / 4096) + 1) 1) g.1, g.2)
      | none => g) (s, none)

/-- The smallest pool whose unit holds n octets of a complete frame (Table MKT-3). -/
def poolFor (n : Nat) : Nat := if n ≤ 256 then 0 else if n ≤ 2048 then 1 else 2

/-- A refused free (R292): counted and recorded with source 0x700. -/
def freeRefused (s : State) (requester ua : Nat) : State :=
  let t := unitTag s ua
  fault (add64 s (aMkt 0x100) 1) 0x700 3 requester ua (t.cls % 16 * 65536 + t.id % 65536)

-- Occupancy (R279) and partitions.

/-- Move a 21-bit count by a signed amount, never below zero. -/
def addF21 (s : State) (a : Nat) (d : Int) : State := setF s a 20 0 ((regF s a 20 0 : Nat) + d).toNat

/-- OCC of a queue. -/
def occOf (s : State) (q : Nat) : Nat := regF s (aQcfg q 0xC) 20 0
def partOf (s : State) (q : Nat) : Nat := regF s (aQcfg q 0) 31 29
def aUsed (p : Nat) : Nat := aMkt (0x204 + 16 * p)

/-- OCC of a queue changes, and USED of its partition with it. -/
def addOcc (s : State) (q : Nat) (d : Int) : State := addF21 (addF21 s (aQcfg q 0xC) d) (aUsed (partOf s q)) d

/-- USED of the host's partition changes. -/
def addHostUsed (s : State) (d : Int) : State := addF21 s (aUsed (regF s (aMkt 0x18) 31 29)) d

end Sys2Proof.Machine
end

