-- ==== Sys2Proof/Machine/Packet.lean ====
section
/-!
DEFINITION. Packets, their metadata words, ports and queues: the helpers that the whole datapath uses (R2 to R6, R130,
Tables PAR-1 and STL-3, R328).
-/
namespace Sys2Proof.Machine

-- The header vector and metadata words of a packet.

def hv (p : Packet) (code : Nat) : Word := mapGet 0 p.vec code
def setHv (p : Packet) (code : Nat) (v : Word) : Packet := { p with vec := mapPut 0 p.vec code v }
def mdF (p : Packet) (code hi lo : Nat) : Nat := fget (hv p code) hi lo
def setMdF (p : Packet) (code hi lo v : Nat) : Packet := setHv p code (fset (hv p code) hi lo v)

def mdSrc (p : Packet) : Nat := mdF p 192 10 0
def mdPass (p : Packet) : Nat := mdF p 192 13 11
def mdAct (p : Packet) : Nat := mdF p 204 31 29
def mdFinal (p : Packet) : Bool := (hv p 204).getLsbD 28
def mdReason (p : Packet) : Nat := mdF p 204 23 16
def mdEprof (p : Packet) : Nat := mdF p 204 15 12
def mdPrio (p : Packet) : Nat := mdF p 209 2 0
def mdColour (p : Packet) : Nat := mdF p 209 4 3

/-- The position recorded in layer slot k; 0xFFFF where none is. -/
def layerPos (p : Packet) (k : Nat) : Nat :=
  if k % 2 = 0 then mdF p (196 + k / 2) 15 0 else mdF p (196 + k / 2) 31 16

/-- Octet i of the frame as received or stored; zero beyond what is there. -/
def octet (p : Packet) (i : Nat) : Byte := p.octets.getD i 0

/-- Metadata words 192 to 213 alone, as a record or a mirror copy carries them (R289, R309). -/
def carried (p : Packet) : Store Word := p.vec.filter fun x => decide (192 ≤ x.1 ∧ x.1 ≤ 213)

-- Lanes and ports (R4, R130).

/-- Lane count of the port whose head is position k of an octet, by its OCT_CFG; none where k is not a head lane. -/
def octetPort (cfg : Word) (k : Nat) : Option Nat :=
  if cfg.getLsbD 6 then (if k = 0 then some 8 else none)
  else if cfg.getLsbD (4 + k / 4) then (if k % 4 = 0 then some 4 else none)
  else if cfg.getLsbD (k / 2) then (if k % 2 = 0 then some 2 else none)
  else some 1

/-- Lane count of port l; none where l is not a head lane. -/
def portLanes (s : State) (l : Nat) : Option Nat :=
  if l < 1152 then octetPort (reg s (aLan (l / 32) (4 * (l % 32 / 8)))) (l % 8) else none

def aPortCfg (l : Nat) : Nat := aLane l 0
def aPortState (l : Nat) : Nat := aLane l 4
def portEn (s : State) (l : Nat) : Bool := regBit s (aPortCfg l) 31
def portState (s : State) (l : Nat) : Nat := regF s (aPortState l) 31 28
/-- RATE_NOW: 0 none, 1 = 100, 2 = 200 Gbit/s per lane. -/
def rateNow (s : State) (l : Nat) : Nat := regF s (aPortState l) 22 21
/-- The port's present rate in Gbit/s. -/
def portRate (s : State) (l : Nat) : Nat := (portLanes s l).getD 0 * (100 * rateNow s l)
/-- The port is in UP or UP_LADDER. -/
def carries (s : State) (l : Nat) : Bool := portState s l == 3 || portState s l == 5

/-- The head lanes of group g. -/
def headLanes (s : State) (g : Nat) : List Nat := (List.range 32).filterMap fun k => (portLanes s (32 * g + k)).map fun _ => 32 * g + k

-- Queues (R6, R328, R329).

def qBase (s : State) (l : Nat) : Nat := regF s (aSPort l 0) 24 16
def qCount (s : State) (l : Nat) : Nat := regF s (aSPort l 0) 6 0

/-- Two non-empty ranges of local queues overlap. -/
def rangesMeet (b1 n1 b2 n2 : Nat) : Bool := n1 != 0 && n2 != 0 && decide (b1 < b2 + n2) && decide (b2 < b1 + n1)

/-- Port l and another enabled port of its group have overlapping ranges (R329). DEDUCED (log 25). -/
def allotClash (s : State) (l : Nat) : Bool :=
  (portLanes s l).isSome && portEn s l && (headLanes s (l / 32)).any fun m =>
    m != l && portEn s m && rangesMeet (qBase s l) (qCount s l) (qBase s m) (qCount s m)

/-- The queue of a port and a queue index; none where the port or the index does not exist (R277, R329). -/
def portQueue (s : State) (l qidx : Nat) : Option Nat :=
  if (portLanes s l).isSome && decide (qidx < qCount s l) && !allotClash s l then some (288 * (l / 32) + qBase s l + qidx)
  else none

/-- Queue number of CPUQn. -/
def cpuQueue (n : Nat) : Nat := 10368 + n

/-- The port that owns a queue of a group. -/
def ownerPort (s : State) (q : Nat) : Option Nat :=
  (headLanes s (q / 288)).find? fun l => decide (qBase s l ≤ q % 288 ∧ q % 288 < qBase s l + qCount s l)

/-- Entries of a queue's Market part. -/
def qEntries (s : State) (q : Nat) : List Copy := mapGet [] s.market.queues q
/-- The entries of a queue's Market part change; a queue that empties has its deficit set to zero (R333). -/
def setQueue (s : State) (q : Nat) (l : List Copy) : State :=
  { s with
    market := { s.market with queues := mapPut [] s.market.queues q l }
    sched := { s.sched with deficit := if l.isEmpty then mapPut 0 s.sched.deficit q 0 else s.sched.deficit } }
def enqueue (s : State) (q : Nat) (c : Copy) : State := setQueue s q (qEntries s q ++ [c])

-- Copies.

/-- The octets that a copy carries: the frame as stored, cut to TRUNC (R289). -/
def copyOctets (c : Copy) : List Byte := if c.trunc = 0 then c.pkt.octets else c.pkt.octets.take c.trunc

/-- The copy is cut-through; a drop copy, whose record is another packet's, is not (R285, R411). -/
def isCut (c : Copy) : Bool := c.pkt.tally.cut && c.pkt.tally.reason == 0

/-- A queue's weight for its share of energy grows (R461). -/
def noteShare (s : State) (kind q n : Nat) : State :=
  if 10368 ≤ q then s
  else { s with activity := { s.activity with shares := mapMod 0 s.activity.shares (16384 * kind + q) (· + n) } }

/-- A copy admitted to its queue weighs for the ingress pipeline of its frame. -/
def noteAdmitted (s : State) (c : Copy) : State :=
  if c.pkt.pipe < 36 then noteShare s c.pkt.pipe c.queue (256 + (copyOctets c).length) else s

/-- L of a copy, where it is known. -/
def copyLen (c : Copy) : Option Nat := if c.pkt.whole then some (copyOctets c).length else none

/-- A copy of a packet for a queue: every other field as at admission. -/
def mkCopy (p : Packet) (kind : CopyKind) (queue port : Nat) : Copy :=
  { pkt := p, kind := kind, queue := queue, port := port, cells := 0, admitted := 0, dequeued := 0, charged := 0,
    projected := 0, hdrm := false, selected := false, trunc := 0, sent := 0, windowEnd := 0, gated := false, overrun := 0, rxReason := 0,
    loadFault := false, edited := none, ptp := none, ioam := [] }

-- Changing the packets of a frame wherever they stand.
def mapCopy (f : Packet → Packet) (c : Copy) : Copy := { c with pkt := f c.pkt }

def mapFlight (f : Packet → Packet) (x : Flight) : Flight := { pkt := f x.pkt, copy := x.copy.map (mapCopy f) }
def mapCtx (f : Packet → Packet) (x : Ctx) : Ctx := { x with pkt := f x.pkt, copy := x.copy.map (mapCopy f) }
def mapStore {α : Type} (f : α → α) (m : Store (List α)) : Store (List α) := m.map fun x => (x.1, x.2.map f)

/-- Change every packet of the part, wherever it stands. -/
def mapPackets (s : State) (f : Packet → Packet) : State :=
  let p := s.pipes
  let pipes := { p with
    hold := mapStore f p.hold
    parse := mapStore f p.parse
    recirc := mapStore f p.recirc
    toTail := mapStore f p.toTail
    entry := mapStore (mapFlight f) p.entry
    stalls := p.stalls.map fun x => (x.1, { x.2 with ctxs := x.2.ctxs.map (mapCtx f) })
    toETail := mapStore (mapCopy f) p.toETail
    toEditor := mapStore (mapCopy f) p.toEditor
    mac := mapStore (mapCopy f) p.mac }
  let q := s.spill.q.map fun x => (x.1, { x.2 with staging := x.2.staging.map fun r => { r with copy := mapCopy f r.copy } })
  { s with
    pipes := pipes
    market := { s.market with queues := mapStore (mapCopy f) s.market.queues }
    spill := { s.spill with q := q } }

/-- Append to the list at a key. -/
def pushAt {α : Type} [DecidableEq α] (m : Store (List α)) (k : Nat) (x : α) : Store (List α) := mapMod [] m k (· ++ [x])

/-- Head and rest of the list at a key. -/
def headAt {α : Type} (m : Store (List α)) (k : Nat) : Option α := (mapGet [] m k).head?
def popAt {α : Type} [DecidableEq α] (m : Store (List α)) (k : Nat) : Store (List α) := mapMod [] m k List.tail

end Sys2Proof.Machine
end

