-- ==== Sys2Proof/Machine/Barrow.lean ====
section
/-!
DEFINITION. Spill mode, the spill staging, records and the stacks' free pages: what admission and every spill command
share (R303 to R310, R325).
-/
namespace Sys2Proof.Machine

def spqIdle : SpillQ :=
  { spilling := false, stack := 0, nextSeq := 0, drainSeq := 0, staging := [], cut := 0, openPage := none, nextPage := none, flush := false,
    pages := [], carry := [], carryLost := false }

def getSpq (s : State) (q : Nat) : SpillQ := mapGet spqIdle s.spill.q q
def setSpq (s : State) (q : Nat) (x : SpillQ) : State := { s with spill := { s.spill with q := mapPut spqIdle s.spill.q q x } }

/-- One of the SPL counters. -/
def addSpl (s : State) (k n : Nat) : State := add64 s (aSpl (0x40 + 8 * k)) n

def stackLostBit (s : State) (m : Nat) : Bool := regBit s (aStack m 0) 31
def stackUsable (s : State) (m : Nat) : Bool := bringup s (5 + m) && !stackLostBit s m
def freePages (s : State) (m : Nat) : Nat := regF s (aStack m 0) 22 0
def retiredCh (s : State) (m : Nat) : Nat := regF s (aStack m 4) 15 0
/-- The channel left out of the degraded layout: the one retired channel. -/
def degradedCh (s : State) (m : Nat) : Option Nat := if retiredCh s m = 0 then none else some (lowBit 16 (retiredCh s m))

/-- Bytes of the record of a frame of n octets (R309). -/
def recordLen (n : Nat) : Nat := ceilDiv (160 + n) 32 * 32

/-- The record of a copy (Table SPL-2). -/
def recordOctets (c : Copy) : List Byte :=
  let f := copyOctets c
  let head := bytesLE 2 f.length ++ bytesLE 2 0 ++ bytesLE 4 c.admitted ++ List.replicate 24 0
    ++ (List.range 22).flatMap (fun i => bytesLE 4 (hv c.pkt (192 + i)).toNat) ++ List.replicate 8 0
    ++ tallyOctets c.pkt.tally ++ f
  head ++ List.replicate (recordLen f.length - head.length) 0

/-- A Tally record read back from its 32 octets. -/
def tallyFrom (b : List Byte) : Tally :=
  let w := fun i => leAt b (4 * i) 4
  { ingTs := w 0, srcPort := nbits (w 1) 31 21, egrPort := nbits (w 1) 20 10, prio := nbits (w 1) 9 7,
    colour := nbits (w 1) 6 5, passes := nbits (w 1) 4 2, spilled := nbits (w 1) 1 1 == 1, cut := nbits (w 1) 0 0 == 1,
    queue := nbits (w 2) 31 18, occEnq := nbits (w 2) 17 0, ingVer := nbits (w 3) 31 16, egrVer := nbits (w 3) 15 0,
    egrTs := w 4, stamps := (List.range 4).map fun i => leAt b (20 + 2 * i) 2, user := leAt b 28 2,
    flags := BitVec.ofNat 8 (leAt b 30 1), reason := leAt b 31 1 }

/-- The copy that a record gives back (R309, R358): the frame, metadata words 192 to 213 and the Tally as stored, with
SPILLED set and FRAC taken as 0x8000. -/
def recordCopy (c : Copy) (b : List Byte) : Copy :=
  let n := min (leAt b 0 2) (b.length - 160)
  let vec := (List.range 22).foldl (fun m i => mapPut 0 m (192 + i) (BitVec.ofNat 32 (leAt b (32 + 4 * i) 4))) []
  let t := tallyFrom (sliceZ b 128 32)
  { c with
    admitted := leAt b 4 4, trunc := 0,
    pkt := { c.pkt with octets := sliceZ b 160 n, whole := true, vec := vec, frac := 0x8000,
                        tally := { t with spilled := true } } }

/-- Free bytes of the spill staging (R310). -/
def stagingFree (s : State) : Nat := regF s (aSpl 0x14) 22 0
def setStagingFree (s : State) (n : Nat) : State := setF s (aSpl 0x14) 22 0 n

/-- Take a page of a stack's free list: pages never taken first, then those given back longest ago (PRESUMED, log 8). -/
def takePage (s : State) (m : Nat) : State × Option Nat :=
  if freePages s m = 0 then (s, none)
  else
    let s' := setF s (aStack m 0) 22 0 (freePages s m - 1)
    let fresh := mapGet 0 s.spill.fresh m
    if fresh < 6291200 then
      ({ s' with spill := { s'.spill with fresh := mapPut 0 s'.spill.fresh m (fresh + 1) } }, some (256 + fresh))
    else
      ({ s' with spill := { s'.spill with freed := popAt s'.spill.freed m } }, headAt s.spill.freed m)

/-- Give a page back to the free list. PRESUMED (log 8). -/
def givePage (s : State) (m p : Nat) : State :=
  setF { s with spill := { s.spill with freed := pushAt s.spill.freed m p } } (aStack m 0) 22 0 (freePages s m + 1)

/-- The stack that a queue would enter spill mode on (R303). -/
def spillStack (s : State) (q : Nat) : Option Nat :=
  let m := b2n (regBit s (aQspill q 0) 30)
  let ok := fun m => stackUsable s m && regBit s (aSpl 0) m
  if ok m then some m else if ok (1 - m) then some (1 - m) else none

/-- The stack on which the admission of a copy makes a queue enter spill mode; none where it does not (R303). -/
def spillEnters (s : State) (q : Nat) : Option Nat :=
  if decide (q < 10368) && regBit s (aQspill q 0) 31 && decide (regF s (aQspill q 0) 20 0 ≤ occOf s q) then spillStack s q else none

/-- A queue enters spill mode on a stack: an episode begins (R303, R305). -/
def spillEnter (s : State) (q m : Nat) : State :=
  let s := setSpq s q { spqIdle with spilling := true, stack := m }
  addSpl (setF s (aQspill q 8) 31 30 (2 + m)) 9 1

/-- The checks of R304 on a copy for a spilling queue: the drop reason, if any. -/
def spillRefusal (s : State) (q bytes : Nat) : Option Nat :=
  let m := (getSpq s q).stack
  let limit := regF s (aQspill q 4) 23 0
  if islandDown s 121 || !stackUsable s m then some 0x25
  else if limit ≠ 0 ∧ limit ≤ regF s (aQspill q 8) 23 0 then some 0x24
  else if freePages s m = 0 then some 0x24
  else if stagingFree s < bytes then some 0x24
  else none

/-- A queue whose page is closed opens the one that follows, or a page of the free list where none was taken, and the page after
it is taken (R308). The layout is that of the moment (R320). -/
def openNext (s : State) (q : Nat) : State :=
  let x := getSpq s q
  if x.openPage.isSome then s
  else
    let p := if x.nextPage.isSome then (s, x.nextPage) else takePage s x.stack
    match p.2 with
    | none => s
    | some n =>
      let f := takePage p.1 x.stack
      setSpq f.1 q { x with openPage := some (n, degradedCh s x.stack), nextPage := f.2 }

/-- The handing of a copy to the Barrow (R304, R310). -/
def spillHandoff (s : State) (q : Nat) (c : Copy) : State × Option Nat :=
  let n := recordLen (copyOctets c).length
  match spillRefusal s q n with
  | some r => (s, some r)
  | none =>
    let s := openNext s q
    let x := getSpq s q
    let s := setSpq s q { x with staging := x.staging ++ [{ copy := c, bytes := n }] }
    (addSpl (setStagingFree (noteShare (noteAdmitted s c) 72 q (copyOctets c).length) (stagingFree s - n)) 0 1, none)

/-- The HBM part of a queue is empty (R305). -/
def hbmEmpty (s : State) (q : Nat) : Bool :=
  let x := getSpq s q
  x.pages.isEmpty && x.staging.isEmpty && !s.spill.xfers.any (·.queue == q)

/-- A queue leaves spill mode once its HBM part is empty; the pages taken for it go back. -/
def spillExit (s : State) (q : Nat) : State :=
  let x := getSpq s q
  if x.spilling && hbmEmpty s q then
    let s := forEach ((x.openPage.map (·.1)).toList ++ x.nextPage.toList) (givePage · x.stack ·) s
    setBit (setSpq s q spqIdle) (aQspill q 8) 31 false
  else s

/-- The counters that a spill drop reason moves (Table SPL-5). -/
def spillCount (s : State) (reason : Nat) : State :=
  if reason = 0x24 then raiseLimited (addSpl s 6 1) 0x800 1000000
  else if reason = 0x25 then raiseLimited (addSpl s 7 1) 0x801 1000000
  else if reason = 0x21 then addSpl s 8 1
  else s

end Sys2Proof.Machine
end

