-- ==== Sys2Proof/Machine/Market.lean ====
section
/-!
DEFINITION. Admission to queues, units and references, PFC thresholds, ECN marking and drops (R277 to R292, R405 to R412).
-/
namespace Sys2Proof.Machine

-- The pitch (R280).

/-- pitch_i of R280, from the present state. -/
def pitchOf (s : State) (q : Nat) : Nat :=
  let p := partOf s q
  let free := min (regF s (aMkt (0x200 + 16 * p)) 20 0 - regF s (aUsed p) 20 0)
    (freeTotal s - drainReserve s - hdrmReserve s)
  let k := toSigned 4 (regF s (aQcfg q 0) 28 25)
  max (regF s (aQcfg q 0) 20 0) (if 0 ≤ k then free * 2 ^ k.toNat else free / 2 ^ (-k).toNat)

/-- QCFG.PITCH reports the last pitch computed; it saturates at its width. DEDUCED (log 47). -/
def notePitch (s : State) (q : Nat) : State := setF s (aQcfg q 8) 28 8 (min (2 ^ 21 - 1) (pitchOf s q))

-- PFC thresholds (R281).

def aIngUsed (l n : Nat) : Nat := aMPort l (0x10 + 4 * n)
def aHdrmUsed (l n : Nat) : Nat := aMPort l (0x30 + 4 * n)
def lossless (s : State) (l n : Nat) : Bool := decide (l < 1152) && regBit s (aMPort l 0) (24 + n)

/-- XOFF wanted for a priority, from its present state and the occupancies. -/
def xoffWanted (s : State) (l n : Nat) : Bool :=
  let used := regF s (aIngUsed l n) 20 0
  let hdrm := regF s (aHdrmUsed l n) 20 0
  let xoff := regF s (aMPort l 4) 15 0
  let xon := regF s (aMPort l 4) 31 16
  lossless s l n && ((xoff != 0 && decide (16 * xoff ≤ used)) || decide (0 < hdrm)
    || (regBit s (aMPort l 8) n && !(decide (used ≤ 16 * xon) && hdrm == 0)))

/-- XOFF_CHANGE (R281): a change is delivered to the port, which has a PFC frame to send. -/
def updXoff (s : State) (l n : Nat) : State :=
  let w := xoffWanted s l n
  if decide (1152 ≤ l) || w == regBit s (aMPort l 8) n then s
  else
    let s := setBit s (aMPort l 8) n w
    { s with sched := { s.sched with xoffDue := mapMod 0 s.sched.xoffDue l (· ||| 2 ^ n) } }

/-- Cells of a frame received on a port count for its priority (R281). -/
def addIng (s : State) (f : MFrame) (d : Int) : State :=
  if 1152 ≤ f.port then s
  else
    let s := addF21 s (aIngUsed f.port f.prio) d
    let s := if f.hdrm then addF21 s (aHdrmUsed f.port f.prio) d else s
    updXoff s f.port f.prio

/-- The port whose ING_USED a packet counts in; none for a frame that BUF_SEND sent. -/
def ingPort (p : Packet) : Nat := if p.fromHost then 0x7FF else mdSrc p

/-- HDRM_USED summed over the port's priorities is below 16 x HDRM (R282). -/
def hdrmRoom (s : State) (l : Nat) : Bool :=
  decide ((List.range 8).foldl (fun a n => a + regF s (aHdrmUsed l n) 20 0) 0 < 16 * regF s (aMPort l 0) 15 0)

-- Judging a copy (R280, R282).

structure Judged where
  copy : Copy
  /-- The drop reason, or admitted. -/
  refused : Option Nat
  deriving DecidableEq, Repr

/-- The copy may use headroom: a port copy of a received frame whose priority is lossless on its ingress port. -/
def mayHdrm (s : State) (c : Copy) : Bool :=
  c.kind == .port && lossless s (ingPort c.pkt) (mdPrio c.pkt)

/-- A copy refused by its pitch, or whose frame the ordinary class cannot serve: into headroom, or dropped. -/
def judgeHdrm (s : State) (c : Copy) (reason : Nat) : Judged :=
  if mayHdrm s c then
    if hdrmRoom s (ingPort c.pkt) then { copy := { c with hdrm := true }, refused := none } else { copy := c, refused := some 0x12 }
  else { copy := c, refused := some reason }

def judge (s : State) (c : Copy) : Judged :=
  if occOf s c.queue < pitchOf s c.queue then { copy := c, refused := none } else judgeHdrm s c 0x11

-- ECN (R283, R284).

/-- The draw of R283 for a queue: p as a fraction of its state. -/
def ecnDrawn (s : State) (q : Nat) : Bool :=
  let lo := 16 * regF s (aQcfg q 4) 15 0
  let hi := 16 * regF s (aQcfg q 4) 31 16
  let lo := min lo hi
  let occ := occOf s q
  if occ < lo then false
  else if hi ≤ occ then true
  else decide (Config.freeNat s.freeCtr % (256 * (hi - lo)) < regF s (aQcfg q 8) 7 0 * (occ - lo))

/-- An updated ones'-complement checksum (RFC 1624): one 16-bit word changes. -/
def csumUpdate (hc old new : Nat) : Nat := 65535 - foldSum16 [65535 - hc % 65536, 65535 - old % 65536, new % 65536]

/-- What marking does to a frame (Table MKT-6): its octets, and whether it counts as marked or as Not-ECT; none where the
frame is not marked. -/
def ecnMark (p : Packet) (pos : Nat) : Option (List Byte × Bool) :=
  let lim := min p.octets.length 256
  let ver := beAt p.octets pos 1 / 16
  let tos := beAt p.octets (pos + 1) 1
  if pos = 0xFFFF ∨ lim ≤ pos + 1 then none
  else if ver = 4 then
    if tos % 4 = 0 then some (p.octets, false)
    else if tos % 4 = 3 ∨ lim ≤ pos + 11 then none
    else
      let w := beAt p.octets pos 2
      let b := splice p.octets (pos + 1) [BitVec.ofNat 8 (tos ||| 3)]
      some (splice b (pos + 10) (bytesBE 2 (csumUpdate (beAt p.octets (pos + 10) 2) w (w ||| 3))), true)
  else if ver = 6 then
    if tos / 16 % 4 = 0 then some (p.octets, false)
    else if tos / 16 % 4 = 3 then none
    else some (splice p.octets (pos + 1) [BitVec.ofNat 8 (tos ||| 0x30)], true)
  else none

/-- ECN_MARK: the octets of the frame after marking, and whether a frame that was drawn is marked (COUNT[4]) or cannot be (COUNT[5]). -/
def ecnApply (s : State) (p : Packet) (q : Nat) : State × List Byte × Option Bool :=
  if !regBit s (aQcfg q 0) 24 || !ecnDrawn s q then (drawn s, p.octets, none)
  else match ecnMark p (layerPos p (regF s (aMkt 0x30) 2 0)) with
    | none => (drawn s, p.octets, none)
    | some (b, true) => (drawn s, b, some true)
    | some (_, false) => (drawn s, p.octets, some false)

-- Units and references (R278, R288, R291).

def frameOf (s : State) (id : Nat) : Option MFrame := s.market.frames.find? (·.id == id)
def putFrame (s : State) (f : MFrame) : State :=
  { s with market := { s.market with frames := (s.market.frames.filter (·.id != f.id)) ++ [f] } }
def dropFrameRec (s : State) (id : Nat) : State :=
  { s with market := { s.market with frames := s.market.frames.filter (·.id != id) } }

/-- Tag class and id of a queue (Table MKT-7). -/
def queueTag (q : Nat) : Nat × Nat := if q < 10368 then (2, q) else (3, q - 10368)

/-- Blocks for `n` more octets of a frame still arriving, one for each 2,048; a slab ends the chain. -/
def takeChain (fuel : Nat) (s : State) (rq n : Nat) (tag : Nat × Nat) (k : UClass) : State × List Nat × Bool :=
  match fuel with
  | 0 => (s, [], true)
  | f + 1 =>
    let g := requestUnit s rq 1 tag.1 tag.2 k
    match g.2 with
    | none => (g.1, [], false)
    | some ua =>
      if (unitTag g.1 ua).pool = 2 ∨ n ≤ 2048 then (g.1, [ua], true)
      else
        let r := takeChain f g.1 rq (n - 2048) tag k
        (r.1, ua :: r.2.1, r.2.2)

/-- Units of a frame at admission (Table MKT-3), and whether all could be had. -/
def takeUnits (s : State) (rq : Nat) (p : Packet) (tag : Nat × Nat) (k : UClass) : State × List Nat × Bool :=
  if p.whole then
    let g := requestUnit s rq (poolFor p.octets.length) tag.1 tag.2 k
    (g.1, g.2.toList, g.2.isSome)
  else takeChain 8 s rq p.octets.length tag k

def unitsCells (s : State) (us : List Nat) : Nat := us.foldl (fun n u => n + unitCells (unitTag s u).pool) 0

/-- The tag of units that `n` copies hold. -/
def holderTag (n q : Nat) : Nat × Nat := if n = 1 then queueTag q else (6, n)

/-- Entries join their queues with the frame's units (R278, R279, R288): `units` are already held, in the headroom class with
`hclass`. -/
def enqueueCopies (s : State) (p : Packet) (cs : List Copy) (units : List Nat) (hclass : Bool) : State :=
  let cells := unitsCells s units
  let tag := holderTag cs.length ((cs.head?.map (·.queue)).getD 0)
  let s := forEach units (fun s u => retag s u tag.1 tag.2) s
  let f : MFrame := { id := p.id, port := ingPort p, prio := mdPrio p, cells := cells, hdrm := cs.any (·.hdrm), hclass := hclass,
                      units := units, refs := cs.length }
  let s := addIng (putFrame s f) f cells
  forEach cs (fun s c => noteAdmitted (addOcc (enqueue s c.queue { c with cells := cells }) c.queue cells) c) s

/-- Copies that share the units of a frame already in the Market: one more reference each (R288, R290). -/
def shareCopies (s : State) (f : MFrame) (cs : List Copy) : State :=
  let n := f.refs + cs.length
  let s := forEach f.units (fun s u => retag s u 6 n) (putFrame s { f with refs := n })
  forEach cs (fun s c => noteAdmitted (addOcc (enqueue s c.queue { c with cells := f.cells }) c.queue f.cells) c) s

/-- A unit that a copy's departure or drop frees, checked against its tag (R292). -/
def freeByCopy (s : State) (q u : Nat) : State :=
  let t := unitTag s u
  if t.cls = 6 ∨ (t.cls, t.id) = queueTag q then freeUnit s u else freeRefused s (0x2000 + q) u

/-- A copy leaves its queue for good (R279, R288): its cells leave OCC, and the last owner frees the units. -/
def releaseCopy (s : State) (c : Copy) : State :=
  let s := addOcc s c.queue (-(c.cells : Int))
  match frameOf s c.pkt.id with
  | none => s
  | some f =>
    if f.refs ≤ 1 then
      addIng (forEach f.units (freeByCopy · c.queue) (dropFrameRec s f.id)) f (-(f.cells : Int))
    else
      forEach f.units (fun s u => if (unitTag s u).cls = 6 then retag s u 6 (f.refs - 1) else s) (putFrame s { f with refs := f.refs - 1 })

-- Admission.

/-- A copy is cut-through (R285). DEDUCED (log 44). -/
def cutThrough (s : State) (c : Copy) : Bool :=
  !c.pkt.whole && c.kind == .port && (qEntries s c.queue).isEmpty && !(getSpq s c.queue).spilling
  && decide (portRate s c.port ≤ portRate s (mdSrc c.pkt))

/-- A copy's own record and times as it is admitted (R405); a drop copy, whose record holds a REASON, carries the final record of the dropped packet
(R411). DEDUCED (log 46). -/
def stampCopy (s : State) (p : Packet) (c : Copy) : Copy :=
  let cut := cutThrough s c
  { c with
    admitted := ts32 s
    pkt := { c.pkt with
      octets := p.octets
      tally := if c.pkt.tally.reason ≠ 0 then c.pkt.tally
        else { c.pkt.tally with egrPort := c.port, prio := mdPrio c.pkt, colour := mdColour c.pkt, cut := cut, queue := c.queue, occEnq := occOf s c.queue } } }

/-- A step of the spill decision over admitted copies: those for the Market, and those that the Barrow refuses. A spilled copy is not
cut-through, that which makes its queue enter spill mode included (R285, R303). A queue that the
refused copy made enter spill mode leaves it, its HBM part being empty (R305). DEDUCED (log 48). -/
def spillStep (r : State × List Copy × List (Copy × Nat)) (c : Copy) : State × List Copy × List (Copy × Nat) :=
  let s := r.1
  let hand := fun s =>
    let c := mapCopy (fun p => { p with tally := { p.tally with cut := false } }) c
    let h := spillHandoff s c.queue { c with hdrm := false }
    match h.2 with | none => (h.1, r.2.1, r.2.2) | some e => (spillExit h.1 c.queue, r.2.1, r.2.2 ++ [(c, e)])
  if (getSpq s c.queue).spilling then hand s
  else match spillEnters s c.queue with
    | some m => hand (spillEnter s c.queue m)
    | none => (s, r.2.1 ++ [c], r.2.2)

/-- The frame of copies that have all their units joins the Market. -/
def placeCopies (s : State) (p : Packet) (cs : List Copy) (units : List Nat) (hclass : Bool) : State :=
  let s := forEach cs (fun s c => if isCut c then add64 s (aMkt 0x130) 1 else s) s
  enqueueCopies s p cs units hclass

/-- Copies of a frame that could not get a further unit: the frame is bad with POOL_EMPTY, and the units it had go back (R286). -/
def placeFails (s : State) (cs : List Copy) (units : List Nat) : State × List (Copy × Nat) :=
  (forEach units freeUnit s, cs.map fun c => (mapCopy (fun x => { x with bad := if units.isEmpty then 0 else 0x20 }) c, 0x20))

/-- Octets that the units of a chain hold. -/
def chainRoom (s : State) (us : List Nat) : Nat := us.foldl (fun n u => n + 256 * unitCells (unitTag s u).pool) 0

/-- The units of a frame in the headroom class, those that the ordinary class gave apart. -/
def takeMore (s : State) (rq : Nat) (p : Packet) (units : List Nat) : State × List Nat × Bool :=
  let t := if units.isEmpty then takeUnits s rq p (1, rq) .headroom
    else takeChain 8 s rq (p.octets.length - chainRoom s units) (1, rq) .headroom
  (t.1, units ++ t.2.1, t.2.2)

/-- The admitted copies that stay in the Market take the frame's units and are enqueued, or are dropped (R278, R282): `hclass` says
that a copy of the frame was admitted into headroom. Where the ordinary class cannot give every unit, lossless port copies go into
headroom, and the frame with them. DEDUCED (log 44). -/
def placeMarket (s : State) (rq : Nat) (p : Packet) (cs : List Copy) (hclass : Bool) : State × List (Copy × Nat) :=
  match cs, frameOf s p.id with
  | [], _ => (s, [])
  | _, some f => (shareCopies s f cs, [])
  | _, none =>
    let t := takeUnits s rq p (1, rq) (if hclass then .headroom else .ordinary)
    if t.2.2 then (placeCopies t.1 p cs t.2.1 hclass, [])
    else if hclass then placeFails t.1 cs t.2.1
    else
      let js := cs.map fun c => judgeHdrm t.1 c 0x20
      if !js.any (·.copy.hdrm) then
        let r := placeFails t.1 cs t.2.1
        (r.1, (js.zip r.2).map fun x => (x.2.1, x.1.refused.getD 0x20))
      else
        let cs := js.map (·.copy)
        let u := takeMore t.1 rq p t.2.1
        if u.2.2 then (placeCopies u.1 p cs u.2.1 true, []) else placeFails u.1 cs u.2.1

/-- The one port copy of a frame that ECN may mark: exactly one, not of a multicast frame, and admitted (R283). -/
def ecnCopy (p : Packet) (js : List Judged) : Option Nat :=
  match js.filter (fun j => j.copy.kind == .port) with
  | [j] => if (hv p 205).getLsbD 31 || j.refused.isSome then none else some j.copy.queue
  | _ => none

/-- The count of a frame that ECN drew, where a copy of it is written or staged (R284). -/
def ecnCount (s : State) (k : Option Bool) (kept : Bool) : State :=
  if !kept then s
  else match k with
    | some true => add64 s (aMkt 0x120) 1
    | some false => add64 s (aMkt 0x128) 1
    | none => s

/-- Copies of a frame are judged and admitted in order (R278): the state, and the copies refused with their reasons. A frame of
which no copy is written keeps its octets as received (R284). -/
def admitCopies (s : State) (rq : Nat) (p : Packet) (cs : List Copy) : State × List (Copy × Nat) :=
  let js := cs.map (judge s)
  let s := forEach cs (fun s c => notePitch s c.queue) s
  let e := match ecnCopy p js with | some q => ecnApply s p q | none => (s, p.octets, none)
  let marked := { p with octets := e.2.1 }
  let ok := (js.filter (·.refused.isNone)).map fun j => stampCopy e.1 marked j.copy
  let no := js.filterMap fun j => j.refused.map fun r => (stampCopy e.1 p j.copy, r)
  let t := ok.foldl spillStep (e.1, [], [])
  let m := placeMarket t.1 rq marked t.2.1 (ok.any (·.hdrm))
  let out := no ++ t.2.2 ++ m.2
  (ecnCount m.1 e.2.2 (out.length != cs.length),
    if out.length = cs.length then out.map fun x => (mapCopy (fun y => { y with octets := p.octets }) x.1, x.2) else out)

-- Mirror copies (R289) and drops (R405 to R411).

def aMirror (k o : Nat) : Nat := aMkt (0x400 + 16 * k + o)

/-- The mirror copy of a packet for a session: with its queue, or none where the destination does not exist. -/
def mirrorCopy (s : State) (p : Packet) (k : Nat) : Copy × Bool :=
  let port := regF s (aMirror k 0) 26 16
  let qidx := regF s (aMirror k 0) 5 0
  let toCpu := regBit s (aMirror k 0) 30
  let p := { p with vec := carried p }
  let p := setHv p 205 (BitVec.ofNat 32 (port * 65536 + qidx))
  let p := setHv (setMdF p 204 15 12 (regF s (aMirror k 4) 19 16)) 206 0
  let q := if toCpu then some (cpuQueue qidx) else portQueue s port qidx
  ({ mkCopy p .mirror (q.getD 0) (if toCpu then 0x7FF else port) with trunc := regF s (aMirror k 4) 13 0 }, q.isSome)

/-- A session takes the packet: enabled, and selected by its sampling. The state counts the packet. DEDUCED (log 42). -/
def sessionTakes (s : State) (k : Nat) : State × Bool :=
  if !regBit s (aMirror k 0) 31 then (s, false)
  else
    let seen := mapGet 0 s.market.samples k
    ({ s with market := { s.market with samples := mapPut 0 s.market.samples k (seen + 1) } },
      sampled seen (regF s (aMirror k 8) 15 0))

/-- The reasons whose drops can be copied (Table TAL-2). -/
def copyableReason (r : Nat) : Bool :=
  [1, 2, 3, 4, 5, 7, 8, 9, 0xA, 0xB, 0x10, 0x11, 0x12, 0x13, 0x24, 0x25, 0x31].contains r || decide (0x80 ≤ r)

/-- The requester of a pipeline's units (R273): the tail of an ingress pipeline; the Barrow for an egress one, whose own frames lie in
HBM where they hold no unit. DEDUCED (log 46). -/
def tailOf (pipe : Nat) : Nat := if pipe < 36 then pipe else 36

/-- DROP_COPY (R411): admitted without headroom; refused, it is lost. -/
def dropCopy (s : State) (pipe reason : Nat) (p : Packet) (t : Tally) : State :=
  let cfg := reg s (aTal (0x100 + 4 * reason))
  if !copyableReason reason || !cfg.getLsbD 31 then s
  else
    let k := sessionTakes s (fget cfg 4 0)
    if !k.2 then k.1
    else
      let p := setMdF { p with tally := { t with reason := reason } } 204 23 16 reason
      let c := mirrorCopy k.1 p (fget cfg 4 0)
      let a := if c.2 then admitCopies k.1 (tailOf pipe) c.1.pkt [{ c.1 with rxReason := reason }] else (k.1, [(c.1, 0x13)])
      if a.2.isEmpty then addTal a.1 4 else raiseLimited (addTal a.1 5) 0xB83 1000000

/-- A copy or frame is dropped: counted in a pipeline, its record final, with the sources of its reason and its drop copy. -/
def dropPacket (s : State) (pipe reason : Nat) (p : Packet) (t : Tally) : State :=
  let s := spillCount (dropRecord s pipe reason p t) reason
  let s := if reason = 0x20 then raiseLimited s 0x705 1000000 else if reason = 0x12 then raiseLimited s 0x706 1000000 else s
  dropCopy s pipe reason p t

/-- The pipeline that counts the drop of a copy once it is enqueued (R407). DEDUCED (log 46). -/
def queuePipe (c : Copy) : Nat := if c.queue < 10368 then 36 + c.queue / 288 else c.pkt.pipe

/-- A copy that was enqueued is dropped: a drop copy takes its reference before the copy's own goes (R290, R411). DEDUCED (log 46). -/
def dropQueued (s : State) (c : Copy) (reason : Nat) : State :=
  releaseCopy (dropPacket s (queuePipe c) reason c.pkt c.pkt.tally) c

/-- Copies refused at the tail are dropped after the frame's other copies are enqueued (R411). DEDUCED (log 46). -/
def dropRefused (s : State) (pipe : Nat) (l : List (Copy × Nat)) : State :=
  forEach l (fun s x => dropPacket s pipe x.2 x.1.pkt x.1.pkt.tally) s

end Sys2Proof.Machine
end

