-- ==== Sys2Proof/Machine/Slots.lean ====
section
/-!
DEFINITION. Slot tables: staging, switching, gates, windows and protected spans (chapter 15).
-/
namespace Sys2Proof.Machine

/-- A table with COUNT = 0. -/
def noTable : SlotTable := { baseSec := 0, baseNs := 0, cycle := 0, overrun := 0, protLead := 0, entries := [] }
def noSlots : SlotPair := { oper := noTable, staged := noTable, armed := none }
def getSlots (s : State) (l : Nat) : SlotPair := mapGet noSlots s.slots l
def setSlots (s : State) (l : Nat) (x : SlotPair) : State := { s with slots := mapPut noSlots s.slots l x }

/-- BASE in ns. -/
def tblBase (t : SlotTable) : Nat := t.baseSec * nsPerSec + t.baseNs

/-- Offset of an instant in the cycle (R370); an instant before BASE, which a clock set back can give, likewise (DEDUCED, log 9). -/
def tblPhase (t : SlotTable) (x : Nat) : Nat := (((x : Int) - (tblBase t : Int)) % (t.cycle : Int)).toNat

/-- The entry that holds a phase, with the phase's offset inside it. -/
def entryIn : List SlotEntry → Nat → Nat → Nat × Nat
  | [], _, k => (k, 0)
  | e :: r, ph, k => if ph < e.interval then (k, ph) else entryIn r (ph - e.interval) (k + 1)

def entryAt (t : SlotTable) (x : Nat) : Nat × Nat := entryIn t.entries (tblPhase t x) 0
def nthEntry (t : SlotTable) (i : Nat) : SlotEntry := t.entries.getD i { prot := false, interval := 0, gates := 0 }

/-- Entry e opens queue index i; an index above 63 does not exist. -/
def opens (t : SlotTable) (e i : Nat) : Bool := (nthEntry t e).gates.getLsbD i

/-- The gate of queue index i at an instant, by one table. -/
def gateIn (t : SlotTable) (i x : Nat) : Bool := t.entries.isEmpty || opens t (entryAt t x).1 i

/-- Length of the run of open entries from entry e on, at most `fuel` entries. -/
def runFrom (t : SlotTable) (i : Nat) : Nat → Nat → Nat
  | 0, _ => 0
  | f + 1, e => if opens t (e % t.entries.length) i then (nthEntry t (e % t.entries.length)).interval + runFrom t i f (e + 1) else 0

/-- Every entry opens the queue index. -/
def alwaysOpen (t : SlotTable) (i : Nat) : Bool := t.entries.all fun e => e.gates.getLsbD i

/-- End of the window that holds an instant at which the queue is open; none where it has no end (R375). -/
def endIn (t : SlotTable) (i x : Nat) : Option Nat :=
  if alwaysOpen t i then none
  else let e := entryAt t x; some (x - e.2 + runFrom t i t.entries.length e.1)

/-- The table that governs an instant: the armed copy from a pending S on (R375). -/
def tblAt (p : SlotPair) (x : Nat) : SlotTable :=
  match p.armed with
  | some sw => if sw ≤ x then p.staged else p.oper
  | none => p.oper

def gateAt (p : SlotPair) (i x : Nat) : Bool := gateIn (tblAt p x) i x

/-- End of the window that holds an instant (R375): at S unless the new table's entry at S also opens the queue. -/
def windowEnd (p : SlotPair) (i x : Nat) : Option Nat :=
  let e := endIn (tblAt p x) i x
  match p.armed with
  | some sw =>
    let past := match e with | none => true | some t => decide (sw ≤ t)
    if decide (sw ≤ x) || !past then e
    else if gateIn p.staged i sw then endIn p.staged i sw else some sw
  | none => e

/-- Longest window of a queue index in a table; none where it has no end. -/
def longestWindow (t : SlotTable) (i : Nat) : Option Nat :=
  if alwaysOpen t i then none
  else some ((List.range t.entries.length).foldl (fun m e => max m (runFrom t i t.entries.length e)) 0)

/-- The queue index is open in at least one entry. -/
def everOpen (t : SlotTable) (i : Nat) : Bool := t.entries.isEmpty || t.entries.any fun e => e.gates.getLsbD i

/-- A protected entry's span meets the closed interval [lo, hi]. -/
def protMeets (t : SlotTable) (lo hi : Int) : Bool :=
  let ph := (lo - (tblBase t : Int)) % (t.cycle : Int)
  let r := t.entries.foldl (fun (a : Bool × Int) e =>
    let inside := decide (a.2 ≤ ph) && decide (ph < a.2 + e.interval)
    let next := (a.2 - ph) % (t.cycle : Int)
    (a.1 || (e.prot && (inside || decide (next ≤ hi - lo))), a.2 + e.interval)) (false, 0)
  r.1

/-- The port is inside a protected span (R379): judged on the copy that governs the instant. -/
def protAt (p : SlotPair) (x : Nat) : Bool :=
  let t := tblAt p x
  !t.entries.isEmpty && protMeets t ((x : Int) - t.overrun) (x + 1000 * t.protLead)

/-- A table acts only on a head lane (R368). -/
def slotsOf (s : State) (l : Nat) : SlotPair := if (portLanes s l).isSome then getSlots s l else noSlots

-- SLOT_STAGE (R371, R372).

/-- A table as SLOT_STAGE carries it (Tables WIN-1, WIN-2). -/
def readTable (b : List Byte) : SlotTable :=
  { baseSec := leAt b 0 6, baseNs := leAt b 8 4 % 2 ^ 30, cycle := leAt b 12 4 % 2 ^ 30, overrun := leAt b 18 2 % 2 ^ 14,
    protLead := leAt b 20 2,
    entries := (List.range (leAt b 16 2 % 512)).map fun e =>
      let w := leAt b (64 + 16 * e) 4
      { prot := w.testBit 31, interval := w % 2 ^ 30, gates := BitVec.ofNat 64 (leAt b (72 + 16 * e) 8) } }

/-- A table as octets. -/
def writeTable (t : SlotTable) : List Byte :=
  bytesLE 8 t.baseSec ++ bytesLE 4 t.baseNs ++ bytesLE 4 t.cycle ++ bytesLE 2 t.entries.length ++ bytesLE 2 t.overrun
  ++ bytesLE 2 t.protLead ++ List.replicate 42 0
  ++ t.entries.flatMap fun e => bytesLE 4 (e.interval + 2 ^ 31 * b2n e.prot) ++ bytesLE 4 0 ++ bytesLE 8 e.gates.toNat

/-- The ranges of Tables WIN-1 and WIN-2 and the sum of R370. DEDUCED (log 50). -/
def tableOk (t : SlotTable) : Bool :=
  decide (t.baseNs < nsPerSec) && decide (1000 ≤ t.cycle ∧ t.cycle ≤ nsPerSec) && decide (t.entries.length ≤ 256)
  && decide (t.overrun ≤ 8192) && decide (t.protLead ≤ 2000) && t.entries.all (fun e => decide (8 ≤ e.interval))
  && (t.entries.isEmpty || (t.entries.foldl (fun n e => n + e.interval) 0) == t.cycle)

def slotLane (c : HostCmd) : Nat := argN c 2 2 % 2048
def slotCopy (c : HostCmd) : Bool := (argN c 0 1).testBit 2

/-- SLOT_STATUS of a lane position as its copies and the clock make it (Table WIN-4). -/
def slotStatus (s : State) (l : Nat) : Word :=
  let p := getSlots s l
  let on := !p.oper.entries.isEmpty
  let now := clkNs s
  BitVec.ofNat 32 ((4 * b2n on + 2 * b2n p.armed.isSome + b2n (protAt (slotsOf s l) now)) * 2 ^ 29
    + if on then (entryAt p.oper now).1 % 256 else 0)

/-- SLOT_STATUS follows the copies and the clock. -/
def syncSlotStatus (s : State) (l : Nat) : State := setReg s (aSlot l 0) (slotStatus s l)

/-- OP WRITE (R372). DEDUCED (log 50). -/
def slotWrite (c : HostCmd) (s : State) : State :=
  let l := slotLane c
  let n := leAt c.data 16 2 % 512
  let t := readTable c.data
  if decide (1151 < l) || slotCopy c || c.dataLen != 64 + 16 * n || !tableOk t then complete s c stBadArg
  else if (getSlots s l).armed.isSome then complete s c stVersionBusy
  else complete (setSlots s l { getSlots s l with staged := t }) c stOk

/-- The first cycle boundary of a table at or after an instant. -/
def boundaryAt (t : SlotTable) (x : Nat) : Nat := tblBase t + ceilDiv (x - tblBase t) t.cycle * t.cycle

/-- T_C and S of R373 for an acceptance instant, and whether BASE had passed. -/
def switchTimes (p : SlotPair) (a : Nat) : Nat × Nat × Bool :=
  let tc := if p.staged.entries.isEmpty then a + 1000 else boundaryAt p.staged (a + 1000)
  let sw := if p.oper.entries.isEmpty then tc else boundaryAt p.oper tc
  (tc, sw, !p.staged.entries.isEmpty && decide (tblBase p.staged < a + 1000))

/-- OP ARM (R372, R373). -/
def slotArm (c : HostCmd) (s : State) : State :=
  let l := slotLane c
  let p := getSlots s l
  if decide (1151 < l) || slotCopy c then complete s c stBadArg
  else if p.armed.isSome then complete s c stVersionBusy
  else
    let w := switchTimes p (clkCeil s)
    let sw := w.2.1
    let s := setSlots s l { p with armed := some sw }
    let s := setReg64 s (aSlot l 0x10) (sw / nsPerSec % 2 ^ 32 * 2 ^ 32 + sw % nsPerSec)
    let s := whenB w.2.2 (fun s => raise (setBit s (aSlot l 4) 0 true) (0xA40 + 4 * (l / 32))) s
    complete (syncSlotStatus s l) c stOk (bytesLE 8 (sw / nsPerSec) ++ bytesLE 4 (sw % nsPerSec) ++ [BitVec.ofNat 8 (b2n w.2.2)])

/-- OP CANCEL (R372). SWITCH_T then still shows the S that was cancelled. DESIGN CHOICE (log 85). -/
def slotCancel (c : HostCmd) (s : State) : State :=
  let l := slotLane c
  let p := getSlots s l
  if decide (1151 < l) || slotCopy c then complete s c stBadArg
  else match p.armed with
    | none => complete s c stNotFound
    | some sw =>
      if sw < clkCeil s + 1000 then complete s c stLate
      else complete (syncSlotStatus (setSlots s l { p with armed := none }) l) c stOk

/-- OP READ (R372). -/
def slotRead (c : HostCmd) (s : State) : State :=
  let l := slotLane c
  let p := getSlots s l
  if decide (1151 < l) || c.dataLen != 4160 then complete s c stBadArg
  else completeData s c stOk [] (sliceZ (writeTable (if slotCopy c then p.oper else p.staged)) 0 4160)

def execSlotStageWrite (cmd : HostCmd) (s : State) : Host.Outcome State Fault Refusal :=
  .next (runCmd s cmd .slotWrite (slotWrite cmd))
def execSlotStageArm (cmd : HostCmd) (s : State) : Host.Outcome State Fault Refusal :=
  .next (runCmd s cmd .slotArm (slotArm cmd))
def execSlotStageCancel (cmd : HostCmd) (s : State) : Host.Outcome State Fault Refusal :=
  .next (runCmd s cmd .slotCancel (slotCancel cmd))
def execSlotStageRead (cmd : HostCmd) (s : State) : Host.Outcome State Fault Refusal :=
  .next (runCmd s cmd .slotRead (slotRead cmd))

/-- The switch of a lane position is due, and its island takes it (R373, R374). -/
def switchDue (s : State) (l : Nat) : Bool :=
  match (getSlots s l).armed with
  | some sw => decide (sw ≤ clkNs s) && !islandDown s (36 + l / 32)
  | none => false

/-- The staged copy becomes the operating copy (R373). -/
def takeSwitch (s : State) (l : Nat) : State :=
  if !switchDue s l then s
  else
    let p := getSlots s l
    let s := setSlots s l { p with oper := p.staged, armed := none }
    raise (syncSlotStatus (setBit s (aSlot l 4) 1 true) l) (0xA41 + 4 * (l / 32))

/-- SLOT_SWITCH (R373, R374). DEDUCED (log 50). -/
def execSlotSwitch (lane : Nat) (s : State) : Host.Outcome State Fault Refusal := .next (takeSwitch s lane)

/-- SLOT_ENTRY_BOUNDARY (R370): ENTRY follows the clock. -/
def execSlotEntryBoundary (lane : Nat) (s : State) : Host.Outcome State Fault Refusal :=
  .next (if 1151 < lane then s
    else
      let p := getSlots s lane
      setF s (aSlot lane 0) 7 0 (if p.oper.entries.isEmpty then 0 else (entryAt p.oper (clkNs s)).1))

/-- INGg and EGRg are window-protected (R379): some port of the group is inside a protected span. -/
def groupProtected (s : State) (g : Nat) : Bool := (headLanes s g).any fun l => protAt (getSlots s l) (clkNs s)

/-- The group of a pipeline. -/
def pipeGroup (p : Nat) : Nat := if p < 36 then p else p - 36

end Sys2Proof.Machine
end

