-- ==== Sys2Proof/Machine/Fetch.lean ====
section
/-!
DEFINITION. What a packet reads from the program store: edit profiles and their load ops (R209), and the loading of
metadata at dequeue (R204, R205).
-/
namespace Sys2Proof.Machine

/-- A load op of an edit profile (Table STL-6). -/
def loadOp (s : State) (g ver e j : Nat) : Nat := progNat s (progKey (ver % 2) 5 (36 + g) 0 (e * 512 + j * 4)) 4

/-- Position of the first octet that a load op reads; none where it is skipped. -/
def loadPos (p : Packet) (w : Nat) : Option Nat :=
  let pos := layerPos p (nbits w 28 26)
  if nbits w 31 29 = 0 ∨ pos = 0xFFFF then none else some (pos + nbits w 25 18)

def loadLen (w : Nat) : Nat := 4 * (nbits w 17 13 + 1)

/-- A load op faults (R211). One that is skipped never does: DESIGN CHOICE (log 94). -/
def loadBad (p : Packet) (w : Nat) : Bool :=
  match loadPos p w with
  | none => false
  | some pos => decide (1 < nbits w 31 29) || decide (191 < nbits w 12 5 + nbits w 17 13) || decide (512 < pos + loadLen w)

/-- The octets that the load ops of a profile read, as one past the highest position. -/
def loadReach (s : State) (g ver e : Nat) (p : Packet) : Nat :=
  (List.range 16).foldl (fun m j =>
    let w := loadOp s g ver e j
    match loadPos p w with | some pos => if loadBad p w then m else max m (pos + loadLen w) | none => m) 0

/-- One load op: octets enter containers most significant first; octets at or beyond L read as zero. DEDUCED (log 40). -/
def runLoad (w : Nat) (b : List Byte) (p : Packet) : Packet :=
  match loadPos p w with
  | none => p
  | some pos =>
    if loadBad p w then p
    else (List.range (nbits w 17 13 + 1)).foldl (fun p i =>
      setHv p (nbits w 12 5 + i) (BitVec.ofNat 32 (beAt b (pos + 4 * i) 4))) p

/-- The load ops of the profile in order (R209). -/
def runLoads (s : State) (g ver e : Nat) (b : List Byte) (p : Packet) : Packet :=
  (List.range 16).foldl (fun p j => runLoad (loadOp s g ver e j) b p) p

def loadsBad (s : State) (g ver e : Nat) (p : Packet) : Bool := (List.range 16).any fun j => loadBad p (loadOp s g ver e j)

/-- Metadata of a copy at dequeue (Table STL-3): every container zero, words 192 to 213 carried but for MD_DISP and
MD_MIRROR, and words 214 to 219 loaded. -/
def egressMeta (s : State) (c : Copy) : Packet :=
  let p := { c.pkt with vec := carried c.pkt, egrVer := curVer s .egr, tally := { c.pkt.tally with egrVer := curVer s .egr } }
  let p := setHv (setHv p 206 0) 204 0
  let p := setHv p 214 (BitVec.ofNat 32 (curVer s .egr))
  let p := setHv p 215 (BitVec.ofNat 32 (c.queue % 16384 * 65536 + c.port % 2048))
  let p := setHv p 216 (BitVec.ofNat 32 (ts32 s))
  let p := setHv p 217 (BitVec.ofNat 32 (occOf s c.queue))
  let p := setHv p 218 (BitVec.ofNat 32 (mdEprof c.pkt * 2 ^ 28))
  setHv p 219 (BitVec.ofNat 32 (b2n p.tally.spilled))

/-- Packets in a stall or waiting to be admitted to it. -/
def stallIdle : Stall := { ctxs := [], paused := false, reloads := [], hostWrites := [], lateWrites := [] }
def getStall (s : State) (n : Nat) : Stall := mapGet stallIdle s.pipes.stalls n
def setStall (s : State) (n : Nat) (x : Stall) : State := { s with pipes := { s.pipes with stalls := mapPut stallIdle s.pipes.stalls n x } }
def waitingAt (s : State) (n : Nat) : List Flight := mapGet [] s.pipes.entry n

/-- The stall has a credit for one more packet (R190, R196). -/
def stallCredit (s : State) (n : Nat) : Bool := decide ((getStall s n).ctxs.length + (waitingAt s n).length < 32)
def passOn (s : State) (n : Nat) (f : Flight) : State := { s with pipes := { s.pipes with entry := pushAt s.pipes.entry n f } }

/-- Global stall number of the first stall of a pipeline (R5), and the pipeline and stall of a number. -/
def firstStall (p : Nat) : Nat := if p < 36 then 20 * p else 720 + 12 * (p - 36)
def stallPipe (n : Nat) : Nat := if n < 720 then n / 20 else 36 + (n - 720) / 12
def stallNo (n : Nat) : Nat := if n < 720 then n % 20 else (n - 720) % 12
def lastStall (n : Nat) : Bool := if n < 720 then stallNo n == 19 else stallNo n == 11

end Sys2Proof.Machine
end

