-- ==== Sys2Proof/Machine/Spill.lean ====
section
/-!
DEFINITION. The Barrow and the HBM stacks: pages, their transfers, faults of channels and stacks, scrub and diagnostic
access (R307 to R326, R340, R492).
-/
namespace Sys2Proof.Machine

-- Pages (R307, R308).

/-- The data channels of a page in order, and its parity channel. -/
def pageChannels (p : Page) : List Nat × Nat :=
  let l := (List.range 16).map fun k => (p.page + k) % 16
  match p.degraded with
  | none => (l.take 15, (p.page + 15) % 16)
  | some r => let k := l.filter (· != r); (k.take 14, k.getD 14 0)

/-- Bytes of records that a page holds (R309). -/
def pageRoom (deg : Option Nat) : Nat := if deg.isNone then 3808 else 3552

def cellKey (m ch page : Nat) : Nat := (m * 16 + ch) * 2 ^ 23 + page
/-- A page cell of 256 bytes; zero after a wipe. -/
def hbmCell (s : State) (m ch page : Nat) : List Byte := sliceZ (mapGet [] s.spill.hbm (cellKey m ch page)) 0 256
def putCell (s : State) (m ch page : Nat) (b : List Byte) : State :=
  let v := if b.all (· == 0) then [] else b
  { s with spill := { s.spill with hbm := mapPut [] s.spill.hbm (cellKey m ch page) v } }

def xorCells (l : List (List Byte)) : List Byte :=
  l.foldl (fun a b => (a.zip b).map fun x => x.1 ^^^ x.2) (List.replicate 256 0)

/-- Records that go into a page with `room` bytes: those that end in it, those left, and the bytes of the first left that
are already in pages (R309, R310). -/
def takeRecords : List Record → Nat → Nat → List Record × List Record × Nat
  | [], _, _ => ([], [], 0)
  | r :: rs, room, cut =>
    if !r.copy.pkt.whole then ([], r :: rs, cut)
    else if r.bytes - cut ≤ room then
      let t := takeRecords rs (room - (r.bytes - cut)) 0
      (r :: t.1, t.2.1, t.2.2)
    else ([], r :: rs, cut + room)

/-- Bytes of complete records that wait at the head of a staging. -/
def readyBytes : List Record → Nat
  | [] => 0
  | r :: rs => if r.copy.pkt.whole then r.bytes + readyBytes rs else 0

/-- The layout of the page that a queue fills (R320). -/
def openLayout (s : State) (x : SpillQ) : Option Nat := match x.openPage with | some p => p.2 | none => degradedCh s x.stack

/-- The next page of a queue as its staging would fill it, with the page data (Table SPL-1). -/
def formPage (s : State) (q : Nat) : Page × List Byte × List Record × Nat :=
  let x := getSpq s q
  let deg := openLayout s x
  let room := pageRoom deg
  let t := takeRecords x.staging room x.cut
  let used := min room (readyBytes x.staging - x.cut)
  let first := if x.cut = 0 then 0 else ((x.staging.head?.map fun r => r.bytes - x.cut).getD 0)
  let p : Page := { page := (x.openPage.map (·.1)).getD 0, seq := x.nextSeq, used := used, ends := t.1, runsOn := t.2.2 != 0,
                    degraded := deg, bad := [], selected := false }
  let head := bytesLE 2 q ++ [BitVec.ofNat 8 (match deg with | none => 0 | some r => 1 + 16 * r), 0]
    ++ bytesLE 4 x.nextSeq ++ bytesLE 4 (x.nextPage.getD 0xFFFFFFFF)
    ++ bytesLE 2 (if first < used then first else 0xFFFF) ++ bytesLE 2 used ++ List.replicate 16 0
  let stream := ((x.staging.takeWhile (·.copy.pkt.whole)).flatMap fun r => recordOctets r.copy).drop x.cut
  (p, head ++ sliceZ stream 0 room, t.2.1, t.2.2)

/-- PAGE_FLUSH_TIMER (R310): the page that holds records is written as it stands. -/
def execPageFlushTimer (queue : Nat) (s : State) : Host.Outcome State Fault Refusal :=
  let x := getSpq s queue
  .next (if x.spilling && decide (x.cut < readyBytes x.staging) then setSpq s queue { x with flush := true } else s)

/-- The lowest tag of a stack that no transfer carries. -/
def freeTag (s : State) (m : Nat) : Option Nat :=
  findFrom (fun t => !s.spill.xfers.any fun x => x.stack == m && x.tag == t && x.kind != .bypass) 768 0

/-- A transfer may start for a queue: its stack answers, the Barrow runs, and no selected copy waits to be freed (R492). -/
def canMove (s : State) (x : SpillQ) (q : Nat) : Bool :=
  x.spilling && !islandDown s 121 && stackUsable s x.stack && !x.pages.any (·.selected)
  && !s.spill.xfers.any (fun t => t.queue == q && t.page.selected)
  && !x.staging.any (·.copy.selected)

def addXfer (s : State) (t : Xfer) : State := { s with spill := { s.spill with xfers := s.spill.xfers ++ [t] } }
def dropXfer (s : State) (t : Xfer) : State := { s with spill := { s.spill with xfers := s.spill.xfers.erase t } }

/-- PAGE_WRITE_START (R310, R311): a full or flushed page. -/
def execPageWriteStart (queue : Nat) (s : State) : Host.Outcome State Fault Refusal :=
  .next (
    let s := whenB (readyBytes (getSpq s queue).staging != 0) (openNext · queue) s
    let x := getSpq s queue
    let ready := readyBytes x.staging - x.cut
    let full := decide (pageRoom (openLayout s x) ≤ ready)
    match freeTag s x.stack with
    | none => s
    | some tag =>
      if !canMove s x queue || x.openPage.isNone || ready == 0 || !(full || x.flush) then s
      else
        let f := formPage s queue
        let s := setSpq s queue { x with openPage := none, staging := f.2.2.1, cut := f.2.2.2, nextSeq := x.nextSeq + 1, flush := false }
        let s := whenB (!f.2.2.1.isEmpty) (openNext · queue) s
        addXfer s { stack := x.stack, tag := tag, kind := .write, queue := queue, page := f.1, data := f.2.1, units := [], done := none })

def recordsBytes (l : List Record) : Nat := l.foldl (fun n r => n + r.bytes) 0

-- Channel errors (R319 to R321).

def aChEcc (m c : Nat) : Nat := aStack m (0x200 + 16 * c)

/-- A spilled copy is dropped (R321, R340): the watchdog's reason stands for one that it selected (R490). -/
def dropSpilled (s : State) (q reason : Nat) (r : Record) : State :=
  dropPacket s (36 + q / 288) (if r.copy.selected then 0x30 else reason) r.copy.pkt r.copy.pkt.tally

/-- Cells that a read took for frames which it does not deliver go back. -/
def freeDrain (s : State) (q : Nat) (units : List (List Nat)) : State :=
  let l := units.flatten
  addOcc (forEach l freeUnit s) q (-(l.length : Int))

/-- Mark records as selected by a watchdog trip. -/
def selectRecords (l : List Record) : List Record := l.map fun r => { r with copy := { r.copy with selected := true } }

/-- Everything of a queue's HBM part is dropped and the queue leaves spill mode. -/
def dropHbmPart (s : State) (q reason : Nat) : State :=
  let x := getSpq s q
  let mine := s.spill.xfers.filter (·.queue == q)
  let recs := x.pages.flatMap (fun p => if p.selected then selectRecords p.ends else p.ends)
    ++ mine.flatMap (fun t => if t.page.selected then selectRecords t.page.ends else t.page.ends) ++ x.staging
  let held := recordsBytes x.staging + (mine.filter (·.kind != .read)).foldl (fun n t => n + recordsBytes t.page.ends) 0
  let s := forEach mine (fun s t => dropXfer (freeDrain s q t.units) t) s
  let s := forEach recs (fun s r => dropSpilled s q reason r) s
  let s := setStagingFree s (stagingFree s + held)
  setF (setBit (setSpq s q spqIdle) (aQspill q 8) 31 false) (aQspill q 8) 23 0 0

/-- The queues in spill mode on a stack. -/
def spillersOn (s : State) (m : Nat) : List Nat :=
  (s.spill.q.filter fun x => x.2.spilling && x.2.stack == m).map (·.1)

/-- A stack is lost (R321), or lost again in the wipe that was to bring it back (R323). DEDUCED (log 48). -/
def loseStack (s : State) (m : Nat) : State :=
  if stackLostBit s m && !s.spill.wiping.contains m then s
  else
    let s := raise (setBit (clearBringup s (5 + m)) (aStack m 0) 31 true) 0x805
    let s := { s with spill := { s.spill with wiping := s.spill.wiping.erase m, wiped := s.spill.wiped.erase m } }
    let qs := spillersOn s m
    let s := forEach qs (fun s q => dropHbmPart s q 0x21) s
    whenB (!qs.isEmpty) (raise · 0x803) s

/-- A channel is retired (R320); the second retired channel loses the stack (R321). DEDUCED (log 48). -/
def retireChannel (s : State) (m c : Nat) : State :=
  if (retiredCh s m).testBit c then s
  else
    let second := retiredCh s m != 0
    let s := raise (setBit (setBit s (aStack m 4) c true) (aStack m 0) 30 true) 0x804
    if second then loseStack s m else s

/-- An uncorrectable error of a channel: counted, and the 16th within 1 s retires the channel. -/
def noteChErr (s : State) (m c : Nat) : State :=
  let s := satF s (aChEcc m c) 31 16 1
  let recent := (s.spill.errs.filter fun e => decide (s.elapsed < e.2 + nsPerSec)) ++ [(16 * m + c, s.elapsed)]
  let s := { s with spill := { s.spill with errs := recent } }
  if 16 ≤ (recent.filter fun e => e.1 == 16 * m + c).length then retireChannel s m c else s

/-- A corrected single-bit error, and the MAINT write-back that rewrites the cell (R318). -/
def noteChCorr (s : State) (m c : Nat) : State := pmcBeats (satF s (aChEcc m c) 15 0 1) m c

/-- The first-error record and source of a cell rebuilt from parity (R319, Table CRI-8). -/
def rebuiltRecord (s : State) (requester access m c page : Nat) : State :=
  fault (addSpl s 5 1) 0x802 access requester (m * 2 ^ 40 + c * 2 ^ 32 + page) (Config.syndrome s.freeCtr % 65536)

-- Commits (R312).

def findXfer (s : State) (m tag : Nat) : Option Xfer :=
  s.spill.xfers.find? fun x => x.stack == m && x.tag == tag && x.kind != .bypass

/-- Insert a page by its SEQ. -/
def insertPage (p : Page) : List Page → List Page
  | [] => [p]
  | x :: r => if p.seq < x.seq then p :: x :: r else x :: insertPage p r

/-- PAGE_WRITE_COMMIT (R312, R319, R320): a cell that fails has been tried twice, no cell goes to a retired channel; the page joins the queue's chain and
its records leave the staging. -/
def execPageWriteCommit (stack tag : Nat) (failedCh : List Nat) (s : State) : Host.Outcome State Fault Refusal :=
  .next (match findXfer s stack tag with
    | none => s
    | some t =>
      if t.kind != .write || islandDown s 121 || !stackUsable s stack then s
      else
        let ch := pageChannels t.page
        let cells := (List.range ch.1.length).map fun j => sliceZ t.data (256 * j) 256
        let all := (ch.1.zip cells) ++ [(ch.2, xorCells cells)]
        let all := all.filter fun x => !(retiredCh s stack).testBit x.1
        let bad := failedCh.filter fun c => all.any (·.1 == c)
        let s := forEach bad (pmcBeats · stack ·) (noteAct s 156 1)
        let s := forEach all (fun s x => pmcBeats (if bad.contains x.1 then s else putCell s stack x.1 t.page.page x.2) stack x.1) s
        let x := getSpq s t.queue
        let s := setSpq s t.queue { x with pages := insertPage { t.page with bad := bad } x.pages }
        let s := setStagingFree (dropXfer s t) (stagingFree s + recordsBytes t.page.ends)
        let s := addSpl (setF s (aQspill t.queue 8) 23 0 (regF s (aQspill t.queue 8) 23 0 + 1)) 3 1
        forEach bad (fun s c => noteChErr s stack c) s)

/-- Drain cells for the frames that end in a page, or none where they are not all to be had (R313). -/
def drainUnits (s : State) (recs : List Record) : Option (State × List (List Nat)) :=
  recs.foldl (fun acc r =>
    match acc with
    | none => none
    | some (s, us) =>
      let n := ceilDiv (copyOctets r.copy).length 256
      let t := (List.range n).foldl (fun a _ =>
        let g := requestUnit a.1 36 0 5 0 .drain
        (g.1, a.2 ++ g.2.toList)) (s, [])
      if t.2.length = n then some (t.1, us ++ [t.2]) else none) (some (s, []))

/-- A drained frame has a cell in a retired bank (R299). -/
def bankLost (s : State) (units : List Nat) : Bool := units.any fun u => bankRetired s (u / 4096)

/-- A drained frame joins the queue's Market list, its cells passing from BARROW to QUEUE (R291, R306, R312). -/
def deliverFrame (s : State) (q : Nat) (r : Record) (b : List Byte) (units : List Nat) : State :=
  let c := recordCopy r.copy b
  let c := { c with cells := units.length, pkt := { c.pkt with id := s.pipes.nextId } }
  let s := { s with pipes := { s.pipes with nextId := s.pipes.nextId + 1 } }
  let f : MFrame := { id := c.pkt.id, port := ingPort c.pkt, prio := mdPrio c.pkt, cells := units.length, hdrm := false, hclass := false,
                      units := units, refs := 1 }
  let s := addIng (putFrame (forEach units (fun s u => retag s u 2 q) s) f) f units.length
  addSpl (noteShare (enqueue s q c) 72 q c.pkt.octets.length) 1 1

/-- The frames that end in a page go on: delivered, or dropped where their record lies partly in an unrecoverable page, where a
watchdog trip selected them (R340), or where a cell of theirs lies in a retired bank (R299). -/
def deliverAll (s : State) (q : Nat) (lost : Bool) : List (Record × List Nat) → List Byte → Bool → State × List Byte × Bool
  | [], stream, cl => (s, stream, cl || (lost && !stream.isEmpty))
  | (r, us) :: rest, stream, cl =>
    let s := if lost || cl || r.copy.selected then dropSpilled (freeDrain s q [us]) q 0x21 r
      else if bankLost s us then dropSpilled (freeDrain s q [us]) q 0x22 r
      else deliverFrame s q r (stream.take r.bytes) us
    deliverAll s q lost rest (stream.drop r.bytes) false

/-- A page whose turn has come commits its read (R308, R312, R319). DEDUCED (log 48). -/
def commitRead (s : State) (t : Xfer) (d : Option (List Byte)) : State :=
  let x := getSpq s t.queue
  let part := match d with | some b => sliceZ b 32 t.page.used | none => List.replicate t.page.used 0
  let lost := d.isNone
  let ends := if t.page.selected then selectRecords t.page.ends else t.page.ends
  let gone := (lost && ends.any (!·.copy.selected)) || (x.carryLost && (ends.head?.map (!·.copy.selected)).getD false)
  let r := deliverAll (dropXfer s t) t.queue lost (ends.zip t.units) (x.carry ++ part) x.carryLost
  let s := setSpq r.1 t.queue { getSpq r.1 t.queue with carry := r.2.1, carryLost := r.2.2 && !r.2.1.isEmpty, drainSeq := x.drainSeq + 1 }
  let s := whenB gone (raise · 0x803) s
  if t.kind == .bypass then setStagingFree s (stagingFree s + recordsBytes t.page.ends)
  else addSpl (setF (givePage s t.stack t.page.page) (aQspill t.queue 8) 23 0 (regF s (aQspill t.queue 8) 23 0 - 1)) 4 1

/-- Every read of a queue that has completed and whose earlier pages have committed commits, in SEQ order (R312). -/
def commitReads (fuel : Nat) (s : State) (q : Nat) : State :=
  match fuel with
  | 0 => s
  | f + 1 =>
    match s.spill.xfers.find? fun t => t.queue == q && t.kind != .write && t.page.seq == (getSpq s q).drainSeq with
    | some t =>
      match t.done with
      | some d => commitReads f (commitRead s t d) q
      | none => s
    | none => s

/-- Commit what can be committed, and leave spill mode where nothing is left (R305). -/
def settleReads (s : State) (q : Nat) : State := spillExit (commitReads s.spill.xfers.length s q) q

/-- Reads of a queue in flight: R of R313. -/
def readsOf (s : State) (q : Nat) : Nat := (s.spill.xfers.filter fun t => t.queue == q && t.kind == .read).length

/-- Every page of a queue before the one with a SEQ has committed or moves: reads start in page order (R313). -/
def isNext (s : State) (q seq : Nat) : Bool :=
  let first := (getSpq s q).drainSeq
  (List.range (seq - first)).all fun i => s.spill.xfers.any fun t => t.queue == q && t.kind != .write && t.page.seq == first + i

/-- PAGE_READ_START (R311, R313): the next page in order, or a bypass of the open one, whose page number serves the next page.
DEDUCED (log 88). -/
def execPageReadStart (queue : Nat) (s : State) : Host.Outcome State Fault Refusal :=
  .next (
    let x := getSpq s queue
    if !canMove s x queue || decide (regF s (aQspill queue 12) 20 0 ≤ occOf s queue + 21 * readsOf s queue) then s
    else match x.pages with
      | p :: rest =>
        if !isNext s queue p.seq then s
        else match freeTag s x.stack, drainUnits s p.ends with
          | some tag, some (s', us) =>
            let s' := addOcc s' queue (us.flatten.length : Nat)
            addXfer (setSpq s' queue { x with pages := rest })
              { stack := x.stack, tag := tag, kind := .read, queue := queue, page := p, data := [], units := us, done := none }
          | _, _ => s
      | [] =>
        if s.spill.xfers.any (fun t => t.queue == queue && t.kind == .write) || readyBytes x.staging ≤ x.cut then s
        else
          let f := formPage s queue
          match drainUnits s f.1.ends with
          | none => s
          | some (s', us) =>
            let s' := addOcc s' queue (us.flatten.length : Nat)
            let page := x.openPage.map fun p => (p.1, degradedCh s x.stack)
            let s' := setSpq s' queue { x with openPage := page, staging := f.2.2.1, cut := f.2.2.2, nextSeq := x.nextSeq + 1, flush := false }
            let t : Xfer := { stack := x.stack, tag := 768, kind := .bypass, queue := queue, page := f.1, data := f.2.1,
                              units := us, done := some (some f.2.1) }
            settleReads (addSpl (addXfer s' t) 2 1) queue)

/-- The page data that a read gives: bad cells rebuilt from parity where one is bad and parity is good; none where the page
is unrecoverable or its header is not the one expected (R308, R319). -/
def readPage (s : State) (t : Xfer) (bad : List Nat) : Option (List Byte) :=
  let ch := pageChannels t.page
  let m := t.stack
  let cell := fun c => hbmCell s m c t.page.page
  let lost := ch.1.filter bad.contains
  if 2 ≤ lost.length ∨ (lost.length = 1 ∧ bad.contains ch.2) then none
  else
    let data := ch.1.flatMap fun c => if lost.contains c then xorCells (((ch.1 ++ [ch.2]).filter (· != c)).map cell) else cell c
    if leAt data 0 2 % 16384 = t.queue ∧ leAt data 4 4 = t.page.seq % 2 ^ 32 then some data else none

/-- PAGE_READ_COMMIT (R305, R306, R312, R318, R319). DEDUCED (log 48). -/
def execPageReadCommit (stack tag : Nat) (corrCh badCh : List Nat) (s : State) : Host.Outcome State Fault Refusal :=
  .next (match findXfer s stack tag with
    | none => s
    | some t =>
      if t.kind != .read || t.done.isSome || islandDown s 121 || !stackUsable s stack then s
      else
        let ch := pageChannels t.page
        let out := fun c => t.page.degraded.isNone && (retiredCh s stack).testBit c
        let bad := (List.range 16).filter fun c => badCh.contains c || t.page.bad.contains c || out c
        let data := readPage s t bad
        let fails := ch.1.filter fun c => (badCh.contains c || t.page.bad.contains c) && !out c
        let needsParity := (ch.1.filter bad.contains).length == 1
        let cells := if needsParity then ch.1 ++ [ch.2] else ch.1
        let s := forEach (cells.filter fun c => !(retiredCh s stack).testBit c) (pmcBeats · stack ·) (noteAct s 156 1)
        let parityBad := needsParity && bad.contains ch.2 && !out ch.2
        let s := { s with spill := { s.spill with xfers := s.spill.xfers.map fun x => if x = t then { t with done := some data } else x } }
        let corrected := cells.filter fun c => corrCh.contains c && !bad.contains c
        let s := forEach corrected (fun s c => noteChCorr s stack c) s
        let s := settleReads s t.queue
        let s := forEach fails (fun s c =>
          noteChErr (if data.isSome then rebuiltRecord s (0x800 + 1024 * stack + tag) 1 stack c t.page.page else s) stack c) s
        whenB parityBad (noteChErr · stack ch.2) s)

/-- CH_RETIRE (R320): a write with GO = 1. -/
def execChRetire (stack : Nat) (value : Word) (s : State) : Host.Outcome State Fault Refusal :=
  .next (if 2 ≤ stack then s
    else holdWrite s 121 (aStack stack 8) value fun s => if value.getLsbD 31 then retireChannel s stack (fget value 3 0) else s)

/-- STACK_LOST (R321): the PHY reports an unrecoverable failure. -/
def execStackLost (stack : Nat) (s : State) : Host.Outcome State Fault Refusal :=
  .next (if stack < 2 then loseStack s stack else s)

/-- HBM_NO_RESPONSE (R321): a page transfer of the stack found no response for 100 µs. -/
def execHbmNoResponse (stack tag : Nat) (s : State) : Host.Outcome State Fault Refusal :=
  .next (if decide (stack < 2) && (findXfer s stack tag).isSome then loseStack s stack else s)

def aPhy (m : Nat) : Nat := aSpl (0x200000 + 0x100000 * m)

/-- HBM_REFRESH (R316, Table SPL-8): the refresh takes the channel, and PHY_STATUS shows the temperature that sets its interval;
nothing that the stack holds changes. -/
def execHbmRefresh (stack ch temp : Nat) (s : State) : Host.Outcome State Fault Refusal :=
  .next (if decide (2 ≤ stack) || decide (16 ≤ ch) then s
    else
      let s := { s with spill := { s.spill with refreshes := mapMod 0 s.spill.refreshes (16 * stack + ch) (· + 1) } }
      setBit (setF s (aPhy stack) 23 16 (min 255 temp)) (aPhy stack) 30 (decide (85 < temp)))

/-- The page in use with a number on a stack. -/
def pageInUse (s : State) (m page : Nat) : Option Page :=
  let held := s.spill.q.flatMap fun x => if x.2.stack = m then x.2.pages else []
  let moving := (s.spill.xfers.filter fun t => t.stack == m && t.kind == .read).map (·.page)
  (held ++ moving).find? (·.page == page)

/-- The cell of a page in use is whole again: no read takes it for bad. -/
def mendCell (s : State) (m page ch : Nat) : State :=
  let f := fun p : Page => if p.page = page then { p with bad := p.bad.erase ch } else p
  { s with spill := { s.spill with
      q := s.spill.q.map fun x => if x.2.stack = m then (x.1, { x.2 with pages := x.2.pages.map f }) else x
      xfers := s.spill.xfers.map fun t => if t.stack = m ∧ t.kind = .read then { t with page := f t.page } else t } }

/-- PATROL_SCRUB (R318, R320, R324): a single-bit error is corrected; an uncorrectable cell of a page in use is rebuilt and rewritten
where the page's other cells are good. A retired channel is not scrubbed. -/
def execPatrolScrub (stack page ch : Nat) (corr uncorr : Bool) (s : State) : Host.Outcome State Fault Refusal :=
  .next (if decide (2 ≤ stack) || decide (16 ≤ ch) || !stackUsable s stack || regF s (aSpl 0x18) 7 0 == 0
      || (retiredCh s stack).testBit ch then s
    else
      let s := whenB corr (noteChCorr · stack ch) (pmcBeats s stack ch)
      match uncorr, pageInUse s stack page with
      | true, some p =>
        let c := pageChannels p
        let others := (c.1 ++ [c.2]).filter (· != ch)
        if !(c.1 ++ [c.2]).contains ch then s
        else if others.any fun k => p.bad.contains k || (retiredCh s stack).testBit k then noteChErr s stack ch
        else
          let s := forEach (others ++ [ch]) (pmcBeats · stack ·) s
          let s := mendCell (putCell s stack ch page (xorCells (others.map fun k => hbmCell s stack k page))) stack page ch
          noteChErr (rebuiltRecord s (0x7200 + stack) 9 stack ch page) stack ch
      | _, _ => s)

def aDiag (m i : Nat) : Nat := aStack m (0x40 + 4 * i)

/-- A reserved code was written: ERR.CFG_BAD (Table SPL-5). -/
def splCfgBad (s : State) : State := raise (setBit s (aSpl 8) 0 true) 0x807

/-- The stored fields of a DIAG_CTRL write: channel and page; a page that no stack has is a reserved code (R16, R307). -/
def diagCtrl (s : State) (m : Nat) (v : Word) : State :=
  let page := if 6291455 < fget v 22 0 then regF s (aStack m 0x20) 22 0 else fget v 22 0
  let s' := setF (setF s (aStack m 0x20) 26 23 (fget v 26 23)) (aStack m 0x20) 22 0 page
  if 6291455 < fget v 22 0 then splCfgBad s' else s'

/-- A DIAG access of the channel and page that DIAG_CTRL holds; it is never granted on a retired channel, where BUSY stays (R317, R320). -/
def diagAccess (m : Nat) (v : Word) (f : Nat → Nat → State → State) (s : State) : State :=
  let s := diagCtrl s m v
  let ch := regF s (aStack m 0x20) 26 23
  let shut := (retiredCh s m).testBit ch
  let s := setBit s (aStack m 0x20) 29 shut
  if shut then s else f ch (regF s (aStack m 0x20) 22 0) (pmcBeats s m ch)

/-- DIAG_CELL_READ (Table SPL-6, OP 1). -/
def execDiagCellRead (stack : Nat) (value : Word) (s : State) : Host.Outcome State Fault Refusal :=
  .next (if 2 ≤ stack then s
    else holdWrite s 121 (aStack stack 0x20) value (diagAccess stack value fun ch page s =>
      let b := hbmCell s stack ch page
      forEach (List.range 64) (fun s i => setReg s (aDiag stack i) (BitVec.ofNat 32 (leAt b (4 * i) 4))) s))

/-- DIAG_CELL_WRITE (Table SPL-6, OP 2): in DEBUG only, otherwise ignored. -/
def execDiagCellWrite (stack : Nat) (value : Word) (s : State) : Host.Outcome State Fault Refusal :=
  .next (if 2 ≤ stack then s
    else holdWrite s 121 (aStack stack 0x20) value fun s =>
      if !inDebug s then diagCtrl s stack value
      else diagAccess stack value (fun ch page s =>
        putCell s stack ch page ((List.range 64).flatMap fun i => bytesLE 4 (reg s (aDiag stack i)).toNat)) s)

/-- WATCHDOG_PAGE_FREE (R340, R492): the pages and staging records that a trip selected are freed. -/
def execWatchdogPageFree (queue : Nat) (s : State) : Host.Outcome State Fault Refusal :=
  .next (
    let x := getSpq s queue
    let mine := s.spill.xfers.filter fun t => t.queue == queue && t.page.selected
    let gone := x.pages.filter (·.selected)
    let staged := x.staging.filter (·.copy.selected)
    if !x.spilling || (mine.isEmpty && gone.isEmpty && staged.isEmpty) then s
    else
      let m := x.stack
      let n := gone.length + (mine.filter (·.kind == .read)).length
      let recs := gone.flatMap (·.ends) ++ mine.flatMap (·.page.ends)
      let held := recordsBytes staged + (mine.filter (·.kind != .read)).foldl (fun n t => n + recordsBytes t.page.ends) 0
      let s := forEach mine (fun s t => dropXfer (freeDrain s queue t.units) t) s
      let s := forEach (selectRecords recs ++ staged) (fun s r => dropSpilled s queue 0x30 r) s
      let s := forEach (gone.map (·.page) ++ (mine.filter (·.kind != .bypass)).map (·.page.page)) (fun s p => givePage s m p) s
      let s := setStagingFree s (stagingFree s + held)
      let s := setF s (aQspill queue 8) 23 0 (regF s (aQspill queue 8) 23 0 - n)
      let pages := x.pages.filter (!·.selected)
      let left := pages.map (·.seq) ++ (s.spill.xfers.filter fun t => t.queue == queue).map (·.page.seq)
      let cut := if (x.staging.head?.map (·.copy.selected)).getD false then 0 else x.cut
      let s := setSpq s queue { x with pages := pages, staging := x.staging.filter (!·.copy.selected),
                                       cut := cut, carry := [], carryLost := false, drainSeq := left.foldl min x.nextSeq }
      spillExit s queue)

end Sys2Proof.Machine
end

