-- ==== Sys2Proof/Machine/Porter.lean ====
section
/-!
DEFINITION. The Market's own commands: carving, reserves, bank retirement, the leaked-buffer audit and the host buffers
(R271, R272, R275, R291 to R295, R299).
-/
namespace Sys2Proof.Machine

/-- A bit of MKT.ERR sets: source 0x704. -/
def mktErr (s : State) (bit : Nat) : State := raise (setBit s (aMkt 8) bit true) 0x704

/-- Banks in service. -/
def banksLeft (s : State) : Nat := 256 - regF s (aMkt 4) 8 0

/-- CARVE_WRITE (R271, R272, R275). -/
def execCarveWrite (value : Word) (s : State) : Host.Outcome State Fault Refusal :=
  .next (holdWrite s 108 (aMkt 0) value fun s =>
    let slabs := fget value 22 16
    let blocks := fget value 9 0
    let cells := 4096 - 8 * blocks - 64 * slabs
    let busy := !s.market.units.isEmpty
    let bad := decide (64 < slabs) || decide (512 < blocks) || decide (4096 < 8 * blocks + 64 * slabs)
      || decide (256 * cells < drainReserve s)
    let s := whenB busy (mktErr · 0) s
    let s := whenB bad (mktErr · 1) s
    if busy || bad then s
    else
      let s := setReg s (aMkt 0) (value &&& 0x007F03FF)
      forEach [0, 1, 2] (fun s k => setF s (aPoolFree k) 20 0 (poolUnits s k * banksLeft s)) s)

/-- RESERVE_WRITE (R275): HDRM_RESERVE or DRAIN_RESERVE. -/
def execReserveWrite (hdrm : Bool) (value : Word) (s : State) : Host.Outcome State Fault Refusal :=
  .next (holdWrite s 108 (aMkt (if hdrm then 0x14 else 0x10)) value fun s =>
    let v := fget value 20 0
    let drain := if hdrm then drainReserve s else v
    let head := if hdrm then v else hdrmReserve s
    if decide (256 * cellPool s < drain) || decide (1048576 < drain + head) then mktErr s 2
    else setF s (aMkt (if hdrm then 0x14 else 0x10)) 20 0 v)

-- Frames that lose their data (R286, R298, R299).

/-- Mark every copy of a frame that has left its queue and not reached its MAC, or is being sent. -/
def markEgress (s : State) (id reason : Nat) : State :=
  let f := fun p : Packet => if p.id = id ∧ p.bad = 0 then { p with bad := reason } else p
  let p := s.pipes
  { s with
    pipes := { p with
      entry := p.entry.map fun x => if x.1 < 720 then x else (x.1, x.2.map (mapFlight f))
      stalls := p.stalls.map fun x => if x.1 < 720 then x else (x.1, { x.2 with ctxs := x.2.ctxs.map (mapCtx f) })
      toETail := mapStore (mapCopy f) p.toETail
      toEditor := mapStore (mapCopy f) p.toEditor
      mac := mapStore (mapCopy f) p.mac } }

/-- Drop the entries of a frame in one queue. -/
def dropEntries (s : State) (q id reason : Nat) : State :=
  let es := qEntries s q
  let s := setQueue s q (es.filter (·.pkt.id != id))
  forEach (es.filter (·.pkt.id == id)) (fun s c => dropQueued s c reason) s

/-- A frame's copies are handled as it becomes bad: those queued are dropped, those further on are marked. -/
def loseFrame (s : State) (id reason : Nat) : State :=
  let s := markEgress s id reason
  forEach (s.market.queues.map (·.1)) (fun s q => if (qEntries s q).any (·.pkt.id == id) then dropEntries s q id reason else s) s

/-- A bank is retired (R299). -/
def retireBank (s : State) (b : Nat) : State :=
  if decide (255 < b) || bankRetired s b then s
  else
    let held := s.market.units.filter fun x => x.1 / 4096 == b
    let ids := (s.market.frames.filter fun f => f.units.any (· / 4096 == b)).map (·.id)
    let s := setF (setBit s (aBank b 0) 31 true) (aMkt 4) 8 0 (regF s (aMkt 4) 8 0 + 1)
    let s := forEach [0, 1, 2] (fun s k =>
      setF s (aPoolFree k) 20 0 (poolFree s k - (poolUnits s k - (held.filter (·.2.pool == k)).length))) s
    raise (forEach ids (fun s id => loseFrame s id 0x22) s) 0x703

/-- BANK_RETIRE (R299): only the value 1 acts. -/
def execBankRetire (bank : Nat) (value : Word) (s : State) : Host.Outcome State Fault Refusal :=
  .next (holdWrite s (108 + bank / 64) (aBank bank 8) value fun s => if value = 1 then retireBank s bank else s)

-- Errors of Market data (R298).

/-- The unit of a frame's chain, by its position. -/
def unitOf (s : State) (c : Copy) (unit : Nat) : Nat := (((frameOf s c.pkt.id).map (·.units)).getD []).getD unit 0

/-- An uncorrectable error in Market data (R298): counted, recorded and raised; the 16th of a bank in 1 s retires it (R299). DESIGN CHOICE (log 5). -/
def marketError (s : State) (c : Copy) (unit part : Nat) : State :=
  let ua := unitOf s c unit
  let b := ua / 4096
  let errs := (s.market.bankErrs.filter fun x => decide (s.elapsed < x.2 + nsPerSec)) ++ [(b, s.elapsed)]
  let s := add64 (satF s (aBank b 4) 31 16 1) (aMkt 0x138) 1
  let s := drawn (fault s 0x702 1 (0x2000 + c.queue) (part % 64 * 2 ^ 20 + ua) (Config.syndrome s.freeCtr % 65536))
  let s := { s with market := { s.market with bankErrs := errs } }
  if 16 ≤ (errs.filter (·.1 == b)).length then retireBank s b else s

/-- The Market data of a copy is read: a corrected error is counted in its bank, and with one that cannot be corrected the data is lost. -/
def marketRead (s : State) (c : Copy) (err : Option DataErr) : State × Bool :=
  match err with
  | none => (s, false)
  | some (.corrected unit) => (satF s (aBank (unitOf s c unit / 4096) 4) 15 0 1, false)
  | some (.uncorrectable unit part) => (marketError s c unit part, true)

-- The audit (R295).

/-- A unit that some holder's list references. -/
def unitHeld (s : State) (ua : Nat) : Bool :=
  (s.market.frames.any fun f => decide (0 < f.refs) && f.units.contains ua) || s.spill.xfers.any fun t => t.units.flatten.contains ua

/-- AUDIT_SWEEP (R295): every unit held at the start, but those tagged HOST, is marked. DEDUCED (log 47). -/
def execAuditSweep (s : State) : Host.Outcome State Fault Refusal :=
  .next (if !regBit s (aMkt 0x40) 31 || s.market.sweep.isSome then s
    else
      let l := (s.market.units.filter fun x => x.2.cls != 4).map (·.1)
      setBit { s with market := { s.market with sweep := some l } } (aMkt 0x44) 31 true)

/-- A leaked unit is reported and, with RECLAIM, freed. -/
def reportLeak (s : State) (ua : Nat) : State :=
  let tag := (unitTag s ua).cls % 16 * 65536 + (unitTag s ua).id % 65536
  let s := setReg64 s (aMkt 0x48) (2 ^ 63 + tag * 2 ^ 32 + ua)
  let s := fault (add64 s (aMkt 0x108) 1) 0x701 9 0x7100 ua tag
  if regBit s (aMkt 0x40) 30 then add64 (freeUnit s ua) (aMkt 0x110) 1 else s

/-- AUDIT_SWEEP_END (R295): a unit whose mark stands at the end of two sweeps in a row is leaked. DEDUCED (log 47). -/
def execAuditSweepEnd (s : State) : Host.Outcome State Fault Refusal :=
  .next (match s.market.sweep with
    | none => s
    | some l =>
      let held := l.filter fun u => (unitTag s u).cls != 0
      let s := { s with market := { s.market with sweep := none } }
      let s := forEach held (fun s u =>
        let n := if unitHeld s u then 0 else (unitTag s u).marks + 1
        { s with market := { s.market with units := mapMod noTag s.market.units u fun t => { t with marks := n } } }) s
      let leaked := held.filter fun u => decide (2 ≤ (unitTag s u).marks)
      forEach leaked reportLeak (setReg s (aMkt 0x44) (BitVec.ofNat 32 leaked.length)))

-- Host buffers (R95, R293, R294).

/-- An aperture slot that maps nothing: any of them, by a free value (R293 names none). -/
def freeSlot (s : State) : Option Nat :=
  let k := Config.freeNat s.freeCtr % 4032
  (findFrom (fun i => mapGet 0 s.hif.slots ((k + i) % 4032) == 0) 4032 0).map fun i => (k + i) % 4032

/-- The octets of a buffer, `n` from its first. DESIGN CHOICE (log 10). -/
def bufOctets (s : State) (ua n : Nat) : List Byte := (List.range n).map fun i => mapGet 0 s.hif.buf (ua * 256 + i)

/-- A buffer as BUF_ALLOC hands it out: its octets read zero until written (DESIGN CHOICE, log 10). -/
def clearBuf (s : State) (ua n : Nat) : State :=
  { s with hif := { s.hif with buf := s.hif.buf.filter fun x => !decide (ua * 256 ≤ x.1 ∧ x.1 < ua * 256 + n) } }

/-- BUF_ALLOC (R293). DEDUCED (log 45). -/
def doBufAlloc (c : HostCmd) (s : State) : State :=
  let len := argN c 0 2
  if decide (len < 1) || decide (16384 < len) then complete s c stBadArg
  else match freeSlot s with
    | none => complete s c stTableFull
    | some slot =>
      if regF s (aMkt 0x18) 11 0 ≤ s.market.hostHeld.length then complete s c stTableFull
      else
        let g := requestUnit s 37 (poolFor len) 4 slot .ordinary
        match g.2 with
        | none => complete g.1 c stPoolEmpty
        | some ua =>
          let pool := (unitTag g.1 ua).pool
          let n := unitCells pool
          let p := regF s (aMkt 0x18) 31 29
          if regF s (aMkt (0x200 + 16 * p)) 20 0 < regF s (aUsed p) 20 0 + n then
            complete (setReg64 s (aMkt 0x118) (reg64 g.1 (aMkt 0x118))) c stPoolEmpty
          else
            let s := clearBuf (addHostUsed (drawn g.1) n) ua (256 * n)
            let s := { s with
              market := { s.market with hostHeld := s.market.hostHeld ++ [ua] }
              hif := { s.hif with slots := mapPut 0 s.hif.slots slot (ua + 1) } }
            complete s c stOk (bytesLE 4 ua ++ bytesLE 2 slot ++ bytesLE 1 pool)

/-- BUF_ALLOC (R293). -/
def execBufAlloc (cmd : HostCmd) (s : State) : Host.Outcome State Fault Refusal :=
  .next (runCmd s cmd .bufAlloc (doBufAlloc cmd))

/-- What HANDLE gives a BUF_FREE or a BUF_SEND: the state and a status; OK where it names a host buffer (R292, R293). DEDUCED (log 45). -/
def checkHandle (s : State) (ua : Nat) : State × Nat :=
  if decide (1048576 ≤ ua) || (unitPool s ua).isNone || bankRetired s (ua / 4096) then (s, stNotFound)
  else if (unitTag s ua).cls = 0 then (freeRefused s 0x6001 ua, stAlreadyFree)
  else if (unitTag s ua).cls ≠ 4 then (freeRefused s 0x6001 ua, stNotOwner)
  else (s, stOk)

/-- A host buffer leaves the host's hands: its cells leave USED and its slot is unmapped. -/
def unmapBuf (s : State) (ua : Nat) : State :=
  let t := unitTag s ua
  let s := addHostUsed s (-(unitCells t.pool : Int))
  { s with
    market := { s.market with hostHeld := s.market.hostHeld.erase ua }
    hif := { s.hif with slots := mapPut 0 s.hif.slots t.id 0 } }

/-- BUF_FREE (R292, R293). -/
def doBufFree (c : HostCmd) (s : State) : State :=
  let ua := argN c 0 4
  let k := checkHandle s ua
  if k.2 ≠ stOk then complete k.1 c k.2 else complete (freeUnit (unmapBuf s ua) ua) c stOk

/-- BUF_FREE (R293). -/
def execBufFree (cmd : HostCmd) (s : State) : Host.Outcome State Fault Refusal :=
  .next (runCmd s cmd .bufFree (doBufFree cmd))

/-- A packet made from a host buffer: whole, with nothing loaded yet. -/
def hostPacket (s : State) (octs : List Byte) (src pipe : Nat) : Packet :=
  { id := s.pipes.nextId, octets := octs, whole := true, bad := 0, fromHost := true, unit := 0, vec := mapPut 0 [] 192 (BitVec.ofNat 32 src),
    pipe := pipe, frac := s.clock.frac, ingVer := 0, egrVer := 0, tally := tallyStart (ts32 s) src 0,
    parseErr := 0, parseState := 0, parseCursor := 0, parseEnd := 0, originSet := false, hwReason := 0 }

def takeId (s : State) : State := { s with pipes := { s.pipes with nextId := s.pipes.nextId + 1 } }

/-- The arguments of a BUF_SEND that HANDLE does not touch: in range (Table MKT-9). DEDUCED (log 45). -/
def sendArgsOk (c : HostCmd) : Bool :=
  let len := argN c 4 2
  decide (14 ≤ len ∧ len ≤ 16383) &&
  (if (argN c 6 1).testBit 0 then decide (argN c 8 2 ≤ 1151) && decide (argN c 10 2 ≤ 63)
   else decide (argN c 8 2 ≤ 35) && decide (argN c 10 2 ≤ 2047))

/-- BUF_SEND in ingress mode (R293): the frame joins the recirculation path, and the command waits for its parse. -/
def sendIngress (c : HostCmd) (s : State) : State :=
  let ua := argN c 0 4
  let g := argN c 8 2
  let p := { hostPacket s (bufOctets s ua (argN c 4 2)) (argN c 10 2) g with unit := ua + 1 }
  setPhase (takeId { s with pipes := { s.pipes with recirc := pushAt s.pipes.recirc g p } }) c .started

/-- Metadata of a frame that BUF_SEND admits to a queue (R293). -/
def egressSendMeta (s : State) (c : HostCmd) (p : Packet) : Packet :=
  let dest := argN c 8 2 * 65536 + argN c 10 2
  let p := setHv (setHv p 192 0x7FF) 193 (BitVec.ofNat 32 (16384 + argN c 4 2))
  let p := setHv (setHv p 194 (BitVec.ofNat 32 (ts32 s))) 205 (BitVec.ofNat 32 dest)
  let p := setHv p 204 (BitVec.ofNat 32 (argN c 12 1 % 16 * 4096))
  (List.range 4).foldl (fun p i => setHv p (210 + i) (BitVec.ofNat 32 (argN c (16 + 4 * i) 4))) p

/-- A host frame judged and admitted to its queue with its own unit, or refused (R280, R291, R293, R303, R304). -/
def admitUnit (s : State) (p : Packet) (c : Copy) (ua : Nat) : State :=
  let j := judge s c
  let s := notePitch s c.queue
  let refuse := fun (s : State) (c : Copy) (r : Nat) =>
    freeUnit (dropPacket (unmapBuf s ua) (36 + c.port / 32) r c.pkt c.pkt.tally) ua
  match j.refused with
  | some r => refuse s (stampCopy s p j.copy) r
  | none =>
    let e := match ecnCopy p [j] with | some q => ecnApply s p q | none => (s, p.octets, none)
    let c := stampCopy e.1 { p with octets := e.2.1 } j.copy
    let t := spillStep (e.1, [], []) c
    let s := ecnCount t.1 e.2.2 t.2.2.isEmpty
    match t.2.1, t.2.2 with
    | c :: _, _ => enqueueCopies (unmapBuf s ua) { p with octets := e.2.1 } [c] [ua] false
    | [], (c, r) :: _ => refuse s (mapCopy (fun y => { y with octets := p.octets }) c) r
    | [], [] => freeUnit (unmapBuf s ua) ua

/-- BUF_SEND in egress mode (R293). -/
def sendEgress (c : HostCmd) (s : State) : State :=
  let ua := argN c 0 4
  let port := argN c 8 2
  let p := egressSendMeta s c (hostPacket s (bufOctets s ua (argN c 4 2)) 0x7FF (36 + port / 32))
  let s := takeId s
  let s := match portQueue s port (argN c 10 2) with
    | some q => admitUnit s p (mkCopy p .port q port) ua
    | none => freeUnit (dropPacket (unmapBuf s ua) (36 + port / 32) 0x13 p p.tally) ua
  complete s c stOk

/-- BUF_SEND by its MODE (R292, R293). DEDUCED (log 45). -/
def doBufSend (c : HostCmd) (s : State) : State :=
  let ua := argN c 0 4
  let k := checkHandle s ua
  if !sendArgsOk c then complete s c stBadArg
  else if k.2 ≠ stOk then complete k.1 c k.2
  else if 256 * unitCells (unitTag s ua).pool < argN c 4 2 then complete s c stBadArg
  else if (argN c 6 1).testBit 0 then sendEgress c s
  else sendIngress c s

/-- BUF_SEND_INGRESS (R293). -/
def execBufSendIngress (cmd : HostCmd) (s : State) : Host.Outcome State Fault Refusal :=
  .next (runCmd s cmd .bufSendIngress (doBufSend cmd))

/-- BUF_SEND_EGRESS (R293). -/
def execBufSendEgress (cmd : HostCmd) (s : State) : Host.Outcome State Fault Refusal :=
  .next (runCmd s cmd .bufSendEgress (doBufSend cmd))

end Sys2Proof.Machine
end

