-- ==== Sys2Proof/Machine/Time.lean ====
section
/-!
DEFINITION. Time: setting and slewing the clock, references, captures, pulse outputs and the fixed latencies
(chapter 14, but for the PTP edit op).
-/
namespace Sys2Proof.Machine

/-- A latch of R75 is set for a requester. -/
def setLatch (s : State) (rq : Requester) (a : Nat) (v : Word) : State :=
  { s with hif := { s.hif with latches := (rq, a, v) :: s.hif.latches.filter fun x => !(x.1 == rq && x.2.1 == a) } }

/-- Host accesses reach the part: its island is out of reset. DEDUCED (log 19). -/
def canAccess (s : State) (rq : Requester) : Bool := match rq with | .host => !s.hif.perst | .core _ => fwRuns s

/-- The read of NS latches FRAC and SEC for the requester (R350). -/
def latchNow (s : State) (rq : Requester) : State :=
  setLatch (setLatch (setLatch s rq (aTim 0x24) (BitVec.ofNat 32 s.clock.frac))
    rq (aTim 0x28) (BitVec.ofNat 32 s.clock.sec)) rq (aTim 0x2C) (BitVec.ofNat 32 (s.clock.sec >>> 32))

/-- NOW_NS_READ (R350): NS is returned; FRAC and SEC are latched for the requester. -/
def execNowNsRead (rq : Requester) (s : State) : Host.Outcome State Fault Refusal :=
  .next (if !canAccess s rq then s else emit (latchNow s rq) (.readData (bytesLE 4 s.clock.ns)))

/-- FREQ_WRITE (R352): the rate changes from the next time-island clock; the clock does not step. -/
def execFreqWrite (value : Word) (s : State) : Host.Outcome State Fault Refusal :=
  .next (holdWrite s 124 (aTim 4) value fun s => setReg s (aTim 4) value)

-- Pulse outputs (R365).

def noPulse : Pulse := { mode := 0, pol := false, start := 0, period := 0, width := 0, k := 0, high := false }
def getPulse (s : State) (n : Nat) : Pulse := mapGet noPulse s.pulses n
def putPulse (s : State) (n : Nat) (p : Pulse) : State := { s with pulses := mapPut noPulse s.pulses n p }

/-- The instant of a pulse output's next edge. -/
def edgeAt (p : Pulse) : Nat := p.start + p.k * p.period + (if p.high then p.width else 0)

/-- A pulse output drives the edge that is due (R365); DONE sets when a ONCE pulse ends. -/
def firePulse (n : Nat) (s : State) : State :=
  let p := getPulse s n
  if !p.high && p.mode == 0 then s
  else if !p.high then putPulse (emit s (.pulse n (!p.pol))) n { p with high := true }
  else
    let s := emit s (.pulse n p.pol)
    if p.mode = 2 then putPulse s n { p with high := false, k := p.k + 1 }
    else if p.mode = 1 then setBit (putPulse s n noPulse) (aTim (0x204 + 0x20 * n)) 30 true
    else putPulse s n noPulse

-- What the clock has scheduled (R354).

/-- The events that are due, each with its time and the step that fires it: commit instants, slot switches and pulse edges. -/
def dueEvents (s : State) : List (Nat × (State → State)) :=
  let now := clkNs s
  let commits := s.prg.groups.filterMap fun g =>
    match g.t, g.doms with
    | some t, d :: _ => if t ≤ now then some (t, fun s => rowState (execCommitInstant d s) s) else none
    | _, _ => none
  let switches := s.slots.filterMap fun x =>
    match x.2.armed with
    | some t => if switchDue s x.1 then some (t, fun s => takeSwitch s x.1) else none
    | none => none
  let edges := s.pulses.filterMap fun x =>
    if (x.2.high || x.2.mode != 0) && decide (edgeAt x.2 ≤ now) then some (edgeAt x.2, fun s => firePulse x.1 s) else none
  commits ++ switches ++ edges

/-- The event whose time comes first. -/
def firstDue (l : List (Nat × (State → State))) : Option (Nat × (State → State)) :=
  l.foldl (fun b x => match b with
    | none => some x
    | some y => if x.1 < y.1 then some x else some y) none

/-- The earliest event that is due fires. -/
def fireFirst (s : State) : State :=
  match firstDue (dueEvents s) with
  | some e => e.2 s
  | none => s

/-- A snapshot takes its counts at the first reading at or after T (R420). DEDUCED (log 53). -/
def captureSnaps (s : State) : State :=
  let due := s.telem.snapJob.filter fun j => decide (j.2.2 ≤ clkNs s) && !s.telem.snapTaken.contains j.1
  forEach due (fun s j => { s with telem := { s.telem with
      snapTaken := s.telem.snapTaken ++ [j.1]
      snap0 := if j.1 = 0 then s.telem.ledger else s.telem.snap0
      snap1 := if j.1 = 1 then s.telem.ledger else s.telem.snap1 } }) s

/-- Every event that is due fires, in time order; `f` follows each. An event leaves at most two others behind it: a pulse its end. -/
def fireDue (f : State → State) (s : State) : State :=
  captureSnaps (forEach (List.range (2 * (dueEvents s).length)) (fun s _ => f (fireFirst s)) s)

/-- SCHEDULED_EVENT_FIRE (R354): the earliest event that is due fires; snapshots take their counts at their time. -/
def execScheduledEventFire (s : State) : Host.Outcome State Fault Refusal := .next (captureSnaps (fireFirst s))

-- Setting (R353, R354).

/-- The slew ends; its remainder is dropped. -/
def endSlew (s : State) : State :=
  setReg64 { s with clock := { s.clock with slewLeft := 0, slewing := false } } (aTim 0x10) 0

/-- The first refill boundary from a new reading on (R354). -/
def refillFrom (s : State) : State := { s with sched := { s.sched with nextRefill := ceilDiv (clkCeil s) 64 * 64 } }

/-- A periodic pulse train resumes at the first pulse at or after the new reading; pulses passed are not replayed (R354). -/
def resumePulse (now : Nat) (p : Pulse) : Pulse :=
  if p.mode = 2 ∧ ¬ p.high then { p with k := max p.k (ceilDiv (now - p.start) p.period) } else p

def resumePulses (s : State) : State :=
  { s with pulses := s.pulses.map fun x => (x.1, resumePulse (clkCeil s) x.2) }

/-- The amount of slew left unapplied, in 2^-16 ns. -/
def discarded (s : State) : Nat := slewLeftReg s.clock

/-- TIME_SET in mode SET or STEP (R353, R354): what was due at the old reading has fired; the clock takes the new one and any slew
ends; pulse trains resume, and what a forward change passes fires in time order. -/
def setClock (c : HostCmd) (k : Clock) (s : State) : State :=
  let d := discarded s
  let s := endSlew (fireDue id s)
  let s := resumePulses (refillFrom { s with clock := { s.clock with sec := k.sec, ns := k.ns, frac := k.frac } })
  complete (fireDue resumePulses s) c stOk (bytesLE 8 d ++ bytesLE 4 (ts32 s) ++ bytesLE 4 0)

/-- OFFSET of TIME_SET. -/
def timeOffset (c : HostCmd) : Int := toSigned 64 (argN c 24 8)

/-- TIME_SET (R353) by its MODE. -/
def doTimeSet (c : HostCmd) (s : State) : State :=
  match argN c 0 1 % 4 with
  | 0 =>
    let ns := argN c 16 4 % 2 ^ 30
    if 999999999 < ns then complete s c stBadArg
    else setClock c { s.clock with sec := argN c 8 6, ns := ns, frac := argN c 20 2 } s
  | 1 =>
    if ((clkNs s * 65536 + s.clock.frac : Nat) : Int) + timeOffset c < 0 then complete s c stBadArg
    else setClock c (clkAdd s.clock (timeOffset c)) s
  | 2 =>
    let o := timeOffset c
    if 65536000000000 < o ∨ o < -65536000000000 then complete s c stBadArg
    else
      let d := discarded s
      let s := { s with clock := { s.clock with slewLeft := o * 1000000000, slewing := true } }
      complete (setReg64 s (aTim 0x10) (slewLeftReg s.clock)) c stOk (bytesLE 8 d)
  | _ => complete s c stBadArg

/-- TIME_SET mode SET (R353). -/
def execTimeSetSet (cmd : HostCmd) (s : State) : Host.Outcome State Fault Refusal :=
  .next (runCmd s cmd .timeSet (doTimeSet cmd))

/-- TIME_SET mode STEP (R353). -/
def execTimeSetStep (cmd : HostCmd) (s : State) : Host.Outcome State Fault Refusal :=
  .next (runCmd s cmd .timeStep (doTimeSet cmd))

/-- TIME_SET mode SLEW (R353). -/
def execTimeSetSlew (cmd : HostCmd) (s : State) : Host.Outcome State Fault Refusal :=
  .next (runCmd s cmd .timeSlew (doTimeSet cmd))

/-- SLEW_COMPLETE (R353): nothing is left to apply; source 0xA05. -/
def execSlewComplete (s : State) : Host.Outcome State Fault Refusal :=
  .next (if s.clock.slewing && s.clock.slewLeft == 0 then
      raise (setReg64 { s with clock := { s.clock with slewing := false } } (aTim 0x10) 0) 0xA05
    else s)

-- The reference (R351).

/-- Holdover: LOCKED and TIME_LOCK clear, HOLDOVER sets, source 0xA00. -/
def loseRef (s : State) : State := raise (clearBringup (setF s (aTim 0) 31 30 1) 7) 0xA00

/-- REFERENCE_LOST (R351). -/
def execReferenceLost (s : State) : Host.Outcome State Fault Refusal :=
  .next (if !s.clock.running || regBit s (aTim 0) 30 then s else loseRef s)

/-- REF_SEL_WRITE (R351): a change of SEL acts as a loss of the old reference. -/
def execRefSelWrite (value : Word) (s : State) : Host.Outcome State Fault Refusal :=
  .next (holdWrite s 124 (aTim 0) value fun s =>
    if value.getLsbD 0 == regBit s (aTim 0) 0 then s else loseRef (setBit s (aTim 0) 0 (value.getLsbD 0)))

/-- TIME_LOCK (R351): LOCKED and TIME_LOCK set, source 0xA01. -/
def execTimeLock (s : State) : Host.Outcome State Fault Refusal :=
  .next (if !s.clock.running || regBit s (aTim 0) 31 then s
    else raise (setBringup (setF s (aTim 0) 31 30 2) 7) 0xA01)

-- Captures and pulses (R364, R365).

/-- CAPTURE_EDGE (R364): the first enabled edge is recorded, a later one sets OVERRUN. -/
def execCaptureEdge (set : Nat) (falling : Bool) (s : State) : Host.Outcome State Fault Refusal :=
  .next (
    let a := aTim (0x100 + 0x20 * set)
    if decide (2 < set) || !regBit s a (b2n falling) then s
    else if regBit s (a + 4) 31 then setBit s (a + 4) 30 true
    else
      let s := setBit (setBit s (a + 4) 31 true) (a + 4) 29 falling
      let s := setReg (setReg s (a + 8) (BitVec.ofNat 32 s.clock.ns)) (a + 0xC) (BitVec.ofNat 32 s.clock.frac)
      raise (setReg64 s (a + 0x10) s.clock.sec) (0xA02 + set))

/-- The limits of an arming (R365): those of PERIOD hold in either mode. DEDUCED (log 92). -/
def pulseOk (mode period width : Nat) : Bool :=
  decide (16 ≤ period ∧ period ≤ 4000000000) && decide (1 ≤ width) &&
    (if mode = 2 then decide (width < period) else decide (width ≤ 999999999))

/-- PULSE_ARM (R365): the output is armed with START, PERIOD and WIDTH as they stand. -/
def pulseArm (n : Nat) (value : Word) (s : State) : State :=
  let a := aTim (0x200 + 0x20 * n)
  let mode := fget value 31 30
  let period := (reg s (a + 0x18)).toNat
  let width := regF s (a + 0x1C) 29 0
  let start := reg64 s (a + 0x10) * nsPerSec + (reg s (a + 8)).toNat
  if decide (3 < n) || mode == 0 then s
  else if mode = 3 then setBit s a 29 (value.getLsbD 29)
  else if !pulseOk mode period width then setBit s (a + 4) 31 true
  else
    let soon := clkCeil s + 1000
    let late := decide (start < soon)
    let p : Pulse := { mode := mode, pol := value.getLsbD 29, start := start, period := period, width := width,
                       k := if late then ceilDiv (soon - start) period else 0, high := false }
    let s := setF s a 31 29 (mode * 2 + b2n (value.getLsbD 29))
    let s := putPulse s n (if late ∧ mode = 1 then noPulse else p)
    if late then raise (setBit s (a + 4) 31 true) (0xA08 + n) else s

def execPulseArm (n : Nat) (value : Word) (s : State) : Host.Outcome State Fault Refusal :=
  .next (holdWrite s 124 (aTim (0x200 + 0x20 * n)) value (pulseArm n value))

/-- PULSE_STOP (R365): the output ends after any pulse in progress; that of ONCE still sets DONE as it ends. -/
def pulseStop (n : Nat) (value : Word) (s : State) : State :=
  if decide (3 < n) || fget value 31 30 != 0 then s
  else
    let s := setF s (aTim (0x200 + 0x20 * n)) 31 29 (b2n (value.getLsbD 29))
    let p := getPulse s n
    putPulse s n (if !p.high then noPulse else if p.mode = 2 then { p with mode := 0 } else p)

def execPulseStop (n : Nat) (value : Word) (s : State) : Host.Outcome State Fault Refusal :=
  .next (holdWrite s 124 (aTim (0x200 + 0x20 * n)) value (pulseStop n value))

/-- PULSE_EDGE (R354, R365): at the first reading at or after the edge's instant. -/
def execPulseEdge (n : Nat) (s : State) : Host.Outcome State Fault Refusal :=
  .next (if edgeAt (getPulse s n) ≤ clkNs s then firePulse n s else s)

-- Fixed latencies (R356, Table TIM-2), in 2^-16 ns.

/-- FIXED_RX and FIXED_TX of a lane count and RATE_NOW (1 = 100, 2 = 200 Gbit/s per lane). -/
def fixedLatency (lanes rate : Nat) : Nat × Nat :=
  let q := fun x : Nat => x * 16384
  match rate, lanes with
  | 2, 8 => (q 473, q 166) | 2, 4 => (q 499, q 176) | 2, 2 => (q 550, q 197) | 2, _ => (q 652, q 239)
  | 1, 8 => (q 685, q 254) | 1, 4 => (q 736, q 275) | 1, 2 => (q 838, q 317) | 1, _ => (q 1043, q 400)
  | _, _ => (0, 0)

/-- The port set of the TIM block reports the values in force. -/
def setLatency (s : State) (l lanes rate : Nat) : State :=
  let f := fixedLatency lanes rate
  setReg (setReg s (aTim (0x1000C + 0x20 * l)) (BitVec.ofNat 32 f.1)) (aTim (0x10010 + 0x20 * l)) (BitVec.ofNat 32 f.2)

/-- A signed adjustment of a port: 0 RX_ADJ, 4 TX_ADJ, 8 ASYM (R357). -/
def portAdj (s : State) (l o : Nat) : Int := toSigned 32 (reg s (aTim (0x10000 + 0x20 * l + o))).toNat

/-- The ingress timestamp of a port in 2^-16 ns (R355). -/
def ingressStamp (s : State) (l : Nat) (pcs : Stamp) : Nat :=
  (((stampFine pcs : Nat) : Int) - ((reg s (aTim (0x1000C + 0x20 * l))).toNat : Nat) - portAdj s l 0).toNat

/-- The egress timestamp of a port in 2^-16 ns (R355). -/
def egressStamp (s : State) (l : Nat) (pcs : Stamp) : Nat :=
  (((stampFine pcs : Nat) : Int) + ((reg s (aTim (0x10010 + 0x20 * l))).toNat : Nat) + portAdj s l 4).toNat

end Sys2Proof.Machine
end

