-- ==== Sys2Proof/Machine/Parse.lean ====
section
/-!
DEFINITION. The parse engine: arrival into the ingress hold, the walk of the parse program, the payload matcher, captures
and store protection (chapter 07, R196, R208, R215).
-/
namespace Sys2Proof.Machine

-- The program (R171, R182).

/-- The 128-bit word at a byte offset of space 0x03, in the bank of a version's parity. -/
def parWordKey (g ver off : Nat) : Nat := progKey (ver % 2) 3 g 0 off
def parWord (s : State) (g ver off : Nat) : Nat := progNat s (parWordKey g ver off) 16
def stateWord (s : State) (g ver st : Nat) : Nat := parWord s g ver (16 * st)
def transWord (s : State) (g ver t : Nat) : Nat := parWord s g ver (0x1000 + 16 * t)

/-- A header field of Table PAR-3. -/
def parHeader (s : State) (g ver off n : Nat) : Nat := progNat s (parWordKey g ver off) n

/-- A poisoned word lies in `n` bytes of the program store from `key`. -/
def parPoisoned (s : State) (key n : Nat) : Bool := s.pipes.parsePoison.any fun k => decide (key ≤ k ∧ k < key + n)
def parWordBad (s : State) (g ver off : Nat) : Bool := parPoisoned s (parWordKey g ver off) 16

-- Octets (R168, R174, R178).

/-- DEDUCED (log 34). -/
def lenKnown (p : Packet) : Bool := mdF p 193 14 14 == 1
def mdLen (p : Packet) : Nat := mdF p 193 13 0

/-- An octet of the parse window; zero outside it. -/
def winOctet (p : Packet) (i : Nat) : Nat := if i < 256 then (octet p i).toNat else 0

/-- Error of reading `n` octets from `o`: 2 TRUNCATED, 3 DEPTH, 0 none. -/
def readErr (p : Packet) (o n : Nat) : Nat :=
  if n = 0 then 0
  else if lenKnown p ∧ mdLen p < o + n then 2
  else if 256 < o + n then 3
  else 0

-- Extraction ops (R177).

/-- Octets that an extraction op reads, from the cursor. -/
def extReads (w cur : Nat) : Nat × Nat :=
  match nbits w 31 29 with
  | 1 => (cur + nbits w 28 21, 4 * (nbits w 20 16 + 1))
  | 2 => (cur + nbits w 28 21, nbits w 17 16 + 1)
  | _ => (0, 0)

/-- The op writes beyond container 191. -/
def extBeyond (w : Nat) : Bool :=
  match nbits w 31 29 with
  | 1 => decide (191 < nbits w 15 8 + nbits w 20 16)
  | 2 | 3 => decide (191 < nbits w 15 8)
  | _ => false

/-- Run one extraction op. -/
def runExt (w cur : Nat) (p : Packet) : Packet :=
  let dst := nbits w 15 8
  let at_ := cur + nbits w 28 21
  match nbits w 31 29 with
  | 1 => (List.range (nbits w 20 16 + 1)).foldl (fun p i => setHv p (dst + i) (BitVec.ofNat 32 (beAt p.octets (at_ + 4 * i) 4))) p
  | 2 => setHv p dst (BitVec.ofNat 32 (beAt p.octets at_ (nbits w 17 16 + 1)))
  | 3 => setHv p dst (BitVec.ofNat 32 (nbits w 7 0))
  | _ => p

-- One state step (R174 to R178).

/-- How a step ends: the next state, acceptance, a REJECT, or an error of R178. -/
inductive ParAct where
  | goto_ (next : Nat)
  | accept
  | reject (e : Nat)
  | error (e : Nat)
  deriving DecidableEq, Repr

/-- The action codes of Table PAR-5. -/
def parAct (act next err : Nat) : ParAct :=
  match act with
  | 0 => .goto_ next
  | 1 => .accept
  | 2 => .reject (if err = 0 then 1 else err)
  | _ => .error 6

/-- The first matching entry of a state: its word, or none; the flag says whether every entry read was readable. -/
def matchEntry (s : State) (g ver key : Nat) : List Nat → Option Nat × Bool
  | [] => (none, true)
  | t :: rest =>
    let w := transWord s g ver t
    if parWordBad s g ver (0x1000 + 16 * t) then (none, false)
    else if key &&& nbits w 63 32 = nbits w 31 0 &&& nbits w 63 32 then (some w, true)
    else matchEntry s g ver key rest

/-- The advance of R175. -/
def advance (w cur : Nat) (p : Packet) : Nat :=
  let o := winOctet p (cur + nbits w 45 38)
  match nbits w 47 46 with
  | 0 => nbits w 37 30
  | 1 => o % 16 * 4 + nbits w 37 30
  | 2 => o * 8 + nbits w 37 30
  | _ => o * 4 + nbits w 37 30

/-- Record the cursor in a layer slot. DEDUCED (log 34). -/
def setLayer (p : Packet) (k v : Nat) : Packet :=
  if k % 2 = 0 then setMdF p (196 + k / 2) 15 0 v else setMdF p (196 + k / 2) 31 16 v

/-- The error that a step records (R178): BAD_WORD, then TRUNCATED, then DEPTH, then HV_RANGE; 0 none. -/
def stepErr (w cur cur' : Nat) (p : Packet) (badWord : Bool) (ends : Bool) : Nat :=
  let e0 := nbits w 95 64
  let e1 := nbits w 127 96
  let reads := [readErr p (extReads e0 cur).1 (extReads e0 cur).2, readErr p (extReads e1 cur).1 (extReads e1 cur).2,
    if nbits w 47 46 = 0 then 0 else readErr p (cur + nbits w 45 38) 1]
  if badWord then 6
  else if reads.contains 2 || (ends && lenKnown p && decide (mdLen p < cur')) then 2
  else if reads.contains 3 then 3
  else if extBeyond e0 || extBeyond e1 then 5
  else 0

/-- One state step: the packet and cursor it leaves, and its action. -/
def parStep (s : State) (g ver st cur : Nat) (p : Packet) : Packet × Nat × ParAct :=
  let w := stateWord s g ver st
  let ka := cur + nbits w 63 56
  let kb := cur + nbits w 55 48
  let key := ((winOctet p ka * 256 + winOctet p (ka + 1)) * 256 + winOctet p kb) * 256 + winOctet p (kb + 1)
  let base := nbits w 29 20
  let count := nbits w 19 15
  let bad := parWordBad s g ver (16 * st) || decide (16 < count) || decide (752 < base + count)
    || decide (3 < nbits w 95 93) || decide (3 < nbits w 127 125)
  let m := if bad then (none, true) else matchEntry s g ver key ((List.range count).map (base + ·))
  let act := match m.1 with
    | some e => parAct (nbits e 73 72) (nbits e 71 64) (nbits e 77 74)
    | none => parAct (nbits w 9 8) (nbits w 7 0) 1
  let cur' := cur + advance w cur p
  let ends := match act with | .goto_ _ | .accept => true | _ => false
  let e := stepErr w cur cur' p (bad || !m.2 || act == .error 6) ends
  if e ≠ 0 then (p, cur, .error e)
  else
    let q := runExt (nbits w 127 96) cur (runExt (nbits w 95 64) cur p)
    let q := if nbits w 14 14 = 1 then setLayer q (nbits w 13 11) cur else q
    let q := match m.1 with | some e => setMdF q 195 31 16 (mdF q 195 31 16 ||| nbits e 95 80) | none => q
    let q := if nbits w 10 10 = 1 then { setMdF q 202 15 0 cur' with originSet := true } else q
    (q, cur', act)

/-- The end of a pass: MD_PARSE.ERR and STEPS. -/
def parFinish (p : Packet) (cur steps e : Nat) : Packet :=
  { setMdF (setMdF p 195 15 12 e) 195 11 7 steps with parseErr := e, parseEnd := cur }

/-- The walk of a pass (R174, R179): at most 24 states. DEDUCED (log 34). -/
def parWalk (fuel : Nat) (s : State) (g ver st cur steps : Nat) (p : Packet) : Packet :=
  match fuel with
  | 0 => parFinish p cur steps 4
  | f + 1 =>
    let p := { p with parseState := st, parseCursor := cur }
    match parStep s g ver st cur p with
    | (q, c, .goto_ n) => parWalk f s g ver n c (steps + 1) q
    | (q, c, .accept) => parFinish q c (steps + 1) 0
    | (q, c, .reject e) => parFinish q c (steps + 1) e
    | (q, c, .error e) => parFinish q c (steps + 1) e

/-- A whole pass from its first state. -/
def parPass (s : State) (g : Nat) (p : Packet) : Packet :=
  parWalk 24 s g p.ingVer (parHeader s g p.ingVer (if mdPass p = 0 then 0x3F04 else 0x3F05) 1) 0 0 p

-- The payload matcher (R182 to R185).

/-- Window of a pass, first octet and one past the last before it is cut at L (Table PAR-9). -/
def pmWindow (k : Nat) : Nat × Nat := if k = 0 then (0, 256) else (448 * k - 224, 448 * k + 256)

/-- An octet compared without regard to case. -/
def foldCase (x : Nat) : Nat := if 0x41 ≤ x ∧ x ≤ 0x5A then x + 32 else x

/-- A pattern entry matches at start offset x (R183): entry octets, reference, window end. -/
def patAt (e : List Byte) (p : Packet) (r lo hi x : Nat) : Bool :=
  let len := leAt e 36 1
  let nocase := (leAt e 37 1).testBit 1
  let f := fun y => if nocase then foldCase y else y
  let top := leAt e 40 2
  decide (lo ≤ x ∧ x + len ≤ hi) && decide (r + leAt e 38 2 ≤ x) && (top == 0xFFFF || decide (x ≤ r + top))
  && (List.range len).all fun i => !(leAt e 32 4).testBit i || f (leAt e i 1) == f (octet p (x + i)).toNat

/-- The lowest start offset at which a pattern matches and that pass k reports (R185). -/
def patMatch (s : State) (g : Nat) (p : Packet) (k lo hi n : Nat) : Option (Nat × List Byte) :=
  let key := progKey (p.ingVer % 2) 4 g 0 (64 * n)
  let len := leNat (progBytes s (key + 36) 1)
  if len = 0 ∨ 32 < len ∨ parPoisoned s key 64 then none
  else
    let e := progBytes s key 64
    let r := if (leAt e 37 1).testBit 0 then 0 else if p.originSet then mdF p 202 15 0 else p.parseEnd
    let prev := if k = 0 then 0 else (pmWindow (k - 1)).2
    ((List.range (hi - lo)).map (lo + ·)).find? (fun x => decide (k = 0 ∨ prev < x + len) && patAt e p r lo hi x)
      |>.map fun x => (x, e)

/-- What the matcher leaves in the metadata of a pass (R184). -/
def pmScan (s : State) (g : Nat) (p : Packet) : Packet :=
  let k := mdPass p
  let lo := (pmWindow k).1
  let hi := min (pmWindow k).2 p.octets.length
  if !(parHeader s g p.ingVer 0x3F08 1).testBit (if k = 0 then 0 else 1) || decide (hi ≤ lo) then p
  else
    let p := setMdF p 202 31 16 hi
    (List.range 4096).foldl (fun q n =>
      match patMatch s g p k lo hi n with
      | none => q
      | some (x, e) =>
        let q := setHv q 201 (hv q 201 ||| BitVec.ofNat 32 (leAt e 42 4))
        if mdF q 200 31 31 = 1 then q else setHv q 200 (BitVec.ofNat 32 (2 ^ 31 + k * 2 ^ 28 + n * 65536 + x))) p

-- Arrival (R196, R168, R286).

/-- Octets of frames held before parse entry by a group. -/
def octetsOf (l : List Packet) : Nat := l.foldl (fun n p => n + p.octets.length) 0
def holdUsed (s : State) (g : Nat) : Nat := octetsOf (mapGet [] s.pipes.hold g)

/-- A frame as it arrives, with the record that parse entry would form. -/
def arrivedPacket (s : State) (l : Nat) (octs : List Byte) (stamp : Nat) : Packet :=
  let ts := stamp / 65536 % 2 ^ 32
  { id := s.pipes.nextId, octets := octs, whole := false, bad := 0, fromHost := false, unit := 0,
    vec := mapPut 0 (mapPut 0 [] 192 (BitVec.ofNat 32 l)) 194 (BitVec.ofNat 32 ts),
    pipe := l / 32, frac := stamp % 65536, ingVer := 0, egrVer := 0, tally := tallyStart ts l (curVer s .ing),
    parseErr := 0, parseState := 0, parseCursor := 0, parseEnd := 0, originSet := false, hwReason := 0 }

/-- FRAME_ARRIVAL (R144, R196): the frame enters the ingress hold, or is dropped whole with INGRESS_OVERRUN; a port that is
not enabled counts it in its Ledger only. DEDUCED (log 34). -/
def execFrameArrival (port : Nat) (octets : List Byte) (pcs : Stamp) (s : State) : Host.Outcome State Fault Refusal :=
  .next (
    let g := port / 32
    if !(portLanes s port).isSome || islandDown s (72 + g) then s
    else if !portEn s port then ledgerAdd s (ldgPort port 8) 1 0
    else if !carries s port then s
    else
      let p := arrivedPacket s port octets (ingressStamp s port pcs)
      let s := { s with pipes := { s.pipes with
          nextId := s.pipes.nextId + 1
          arriving := s.pipes.arriving ++ [{ id := p.id, port := port, got := octets }] } }
      if 1048576 < holdUsed s g + 16384 then
        let s := raise (add64 s (aPipe g 0x10) 1) (0x503 + 4 * g)
        dropPacket s g 0x06 p p.tally
      else { s with pipes := { s.pipes with hold := pushAt s.pipes.hold g p } })

-- Parse entry (R168 to R170, R196, R215, R276).

/-- Octets that the tail staging of an ingress pipeline holds (R276). -/
def stagingUsed (s : State) (g : Nat) : Nat :=
  let stalls := (List.range 20).foldl (fun n i =>
    n + octetsOf ((waitingAt s (20 * g + i)).map (·.pkt)) + octetsOf ((getStall s (20 * g + i)).ctxs.map (·.pkt))) 0
  octetsOf (mapGet [] s.pipes.parse g) + stalls + octetsOf (mapGet [] s.pipes.toTail g)

/-- The parse engine may start a frame: an S0 credit and room in the tail staging. -/
def parseReady (s : State) (g : Nat) : Bool :=
  decide ((getStall s (20 * g)).ctxs.length + (waitingAt s (20 * g)).length + (mapGet [] s.pipes.parse g).length < 32)
  && decide (stagingUsed s g + 16384 ≤ 524288) && !islandDown s g

/-- Metadata at the start of pass 0 (Tables PAR-1, STL-3). -/
def startMeta (s : State) (p : Packet) : Packet :=
  let n := p.octets.length
  let known := p.whole && (p.fromHost || decide (n ≤ 256))
  let ver := curVer s .ing
  let vec := [(192, mdSrc p), (193, if known then 16384 + n else 0), (194, p.tally.ingTs),
      (196, 0xFFFFFFFF), (197, 0xFFFFFFFF), (198, 0xFFFFFFFF), (199, 0xFFFFFFFF), (203, ver), (204, 0x20000000)].foldl
    (fun m x => mapPut 0 m x.1 (BitVec.ofNat 32 x.2)) []
  { p with vec := vec, ingVer := ver, originSet := false, parseErr := 0,
           tally := { p.tally with ingVer := ver, passes := 0 } }

/-- A frame enters the parse engine: its walk is made, or a NULL ingress domain drops it (R106). DEDUCED (log 34). -/
def enterParse (s : State) (g : Nat) (p : Packet) : State :=
  if regBit s (aDom .ing 0) 8 then dropPacket s g 0x02 p p.tally
  else { s with pipes := { s.pipes with parse := pushAt s.pipes.parse g (parPass s g p) } }

/-- A frame may start: 260 octets of it or its end are held (R168). -/
def mayParse (p : Packet) : Bool := p.whole || decide (260 ≤ p.octets.length)

/-- PARSE_ENTRY (R168): the first frame of the hold that may start. DEDUCED (log 34). -/
def execParseEntry (g : Nat) (s : State) : Host.Outcome State Fault Refusal :=
  .next (match (mapGet [] s.pipes.hold g).find? mayParse with
    | none => s
    | some p =>
      if decide (35 < g) || !parseReady s g || regBit s (aPipe g 0) 0 || !(mapGet [] s.pipes.recirc g).isEmpty then s
      else enterParse { s with pipes := { s.pipes with hold := mapMod [] s.pipes.hold g (·.erase p) } } g (startMeta s p))

/-- The BUF_SEND of a host frame, one that a PERST_N reset left to be settled included (R98, R294): the started one that names its
unit. -/
def sendCmdOf (s : State) (ua : Nat) : Option HostCmd :=
  ((heldCmds s).find? fun o => o.cmd.opcode == 0x42 && o.phase == .started && argN o.cmd 0 4 == ua).map (·.cmd)

/-- The parse of a host frame has begun: its unit is freed, its slot unmapped and its command completes (R293). A unit that another
command has freed meanwhile refuses the free (R292); one of a command from before a PERST_N reset was freed by that reset (R294). -/
def hostBegun (s : State) (p : Packet) : State :=
  let ua := p.unit - 1
  match sendCmdOf s ua with
  | some c =>
    let s := if c.bell ≤ s.hif.oldBell then s
      else if (unitTag s ua).cls = 4 then freeUnit (unmapBuf s ua) ua
      else freeRefused s 0x6001 ua
    complete s c stOk
  | none => s
/-- Metadata at the start of a recirculation pass (R170). -/
def recircMeta (p : Packet) : Packet :=
  let k := mdPass p + 1
  let p := setMdF p 192 13 11 k
  let p := setHv p 193 (BitVec.ofNat 32 (16384 + p.octets.length % 16384))
  { setMdF (setMdF p 195 15 12 0) 195 11 7 0 with parseErr := 0, tally := { p.tally with passes := k } }

/-- The next frame of the recirculation path: recirculated frames and host frames alternate (R208, R293). -/
def nextRecirc (s : State) (g : Nat) : Option Packet :=
  let l := mapGet [] s.pipes.recirc g
  let host := l.find? (·.unit != 0)
  let rec_ := l.find? (·.unit == 0)
  if mapGet false s.pipes.recircHost g then rec_.or host else host.or rec_

/-- RECIRC_ENTRY (R170, R208, R293). DEDUCED (log 43). -/
def execRecircEntry (g : Nat) (s : State) : Host.Outcome State Fault Refusal :=
  .next (match nextRecirc s g with
    | none => s
    | some p =>
      if !parseReady s g || decide (35 < g) then s
      else
        let s := { s with pipes := { s.pipes with
            recirc := mapMod [] s.pipes.recirc g (·.erase p)
            recircHost := mapPut false s.pipes.recircHost g (p.unit != 0) } }
        if p.unit = 0 then enterParse s g (recircMeta p)
        else
          let s := hostBegun s p
          let q := { p with unit := 0, frac := s.clock.frac, tally := { p.tally with ingTs := ts32 s } }
          enterParse s g (startMeta s q))

-- Parse exit (R179, R181, R187).

def aPar (g o : Nat) : Nat := aPipe g (0xF0000 + o)

/-- The capture of a parse error (Table PAR-12). -/
def parCapture (s : State) (g : Nat) (p : Packet) : State :=
  let ctl := reg s (aPar g 0)
  if !ctl.getLsbD 0 || p.parseErr == 0 || !ctl.getLsbD (16 + p.parseErr) then s
  else
    let v := p.ingVer % 65536 * 2 ^ 48 + p.parseState % 256 * 2 ^ 40 + p.parseCursor % 65536 * 2 ^ 24 + mdSrc p * 2 ^ 13
      + mdPass p * 1024 + mdF p 195 11 7 * 32 + p.parseErr % 16 * 2 + 1
    let s := setReg (setReg64 s (aPar g 8) v) (aPar g 16) (hv p 194)
    raise (setBit s (aPar g 0) 0 false) (0x500 + 4 * g)

/-- PARSE_EXIT (R179, R181, R184). -/
def execParseExit (g : Nat) (s : State) : Host.Outcome State Fault Refusal :=
  .next (match headAt s.pipes.parse g with
    | none => s
    | some p =>
      let s := { s with pipes := { s.pipes with parse := popAt s.pipes.parse g } }
      let e := p.parseErr
      let s := if e = 0 then s else parCapture (add64 s (aPar g (0x100 + 8 * e)) 1) g p
      if e ≠ 0 ∧ (parHeader s g p.ingVer 0x3F00 2).testBit e = true then dropPacket s g 0x01 p p.tally
      else passOn s (20 * g) { pkt := pmScan s g p, copy := none })

/-- PAR_CAPTURE_ARM (R187): VALID clears. -/
def execParCaptureArm (g : Nat) (s : State) : Host.Outcome State Fault Refusal :=
  .next (if 35 < g then s
    else holdWrite s g (aPar g 0) (reg s (aPar g 0) ||| 1) fun s => setBit (setBit s (aPar g 0) 0 true) (aPar g 8) 0 false)

/-- PARSE_WORD_REPAIR (R186, R188): a single-bit error is corrected and counted; an uncorrectable word is counted, with the source where
the count rises, and recorded, and rewritten from its second copy where there is a good one. A program header of which both copies
are bad is read as good, since no state step reads it (DESIGN CHOICE, log 94). -/
def execParseWordRepair (g space bank offset : Nat) (err : WordErr) (s : State) : Host.Outcome State Fault Refusal :=
  .next (if decide (35 < g) || !(space == 3 || space == 4) || decide (1 < bank) || decide (spaceSize space ≤ offset) then s
    else match err with
      | .corrected => satF s (aPar g 0x20) 15 0 1
      | .uncorrectable noCopy =>
        let full := regF s (aPar g 0x20) 31 16 == 65535
        let s := faultRecord (satF s (aPar g 0x20) 31 16 1) (0x500 + 4 * g) 5 g (space * 2 ^ 40 + g * 2 ^ 32 + offset)
          (Config.syndrome s.freeCtr % 65536)
        let s := whenB (!full) (raise · (0x500 + 4 * g)) (drawn s)
        if noCopy || space == 4 then
          { s with pipes := { s.pipes with parsePoison := addOnce s.pipes.parsePoison (progKey bank space g 0 offset) } }
        else s)

end Sys2Proof.Machine
end

