-- ==== Sys2Proof/Machine/Lands.lean ====
section
/-!
DEFINITION. The signal lands of the package (R18 to R24, Tables PKG-2 and PKG-3): where each lies, its level code and reset state,
what the part is doing on it, and who takes it over.
-/
namespace Sys2Proof.Machine

/-- The signal lands of Table PKG-3; `neg` chooses the N land of a pair. -/
inductive Land where
  | pcieTx (n : Nat) (neg : Bool)
  | pcieRx (n : Nat) (neg : Bool)
  | pcieRefclk (neg : Bool)
  | perstN
  | sysRstN
  | refclk (m : Nat) (neg : Bool)
  | mgmtTx (neg : Bool)
  | mgmtRx (neg : Bool)
  | mgmtMdc
  | mgmtMdio
  | spiClk
  | spiCsN
  | spiIo (n : Nat)
  | tck
  | tms
  | tdi
  | tdo
  | trstN
  | ppsIn
  | tenMhzIn
  | tcap (n : Nat)
  | tout (n : Nat)
  | pmbusScl (k : Nat)
  | pmbusSda (k : Nat)
  | pmbusAlertN (k : Nat)
  | gpio (n : Nat)
  | strap (n : Nat)
  | therm (k : Nat) (c : Bool)
  | cartScl (c : Nat)
  | cartSda (c : Nat)
  | cartPresN (c : Nat)
  | cartIntN (c : Nat)
  | cartEn (c : Nat)
  | cartLatchN (c : Nat)
  | sense (rail : Nat) (neg : Bool)
  deriving DecidableEq, Repr

/-- The level codes of Table PKG-2. -/
inductive LevelCode where
  | c18 | od18 | pcie | hcsl | diff | sgmii | an
  deriving DecidableEq, Repr

/-- A land exists: its index lies in the range of Table PKG-3. -/
def landOk : Land → Bool
  | .pcieTx n _ | .pcieRx n _ | .gpio n => n < 8
  | .refclk m _ => m < 4
  | .spiIo n | .tout n | .therm n _ => n < 4
  | .tcap n | .pmbusScl n | .pmbusSda n | .pmbusAlertN n => n < 2
  | .strap n => n < 5
  | .cartScl c | .cartSda c | .cartPresN c | .cartIntN c | .cartEn c | .cartLatchN c => c < 9
  | .sense r _ => r < 3
  | _ => true

/-- Row and column of a land (Table PKG-3). -/
def landAt : Land → Nat × Nat
  | .pcieTx n neg => (3, 20 + 4 * n + b2n neg)
  | .pcieRx n neg => (5, 20 + 4 * n + b2n neg)
  | .pcieRefclk neg => (7, 20 + b2n neg)
  | .perstN => (7, 24)
  | .sysRstN => (7, 26)
  | .refclk m neg => (9, 20 + 4 * m + b2n neg)
  | .mgmtTx neg => (11, 20 + b2n neg)
  | .mgmtRx neg => (11, 24 + b2n neg)
  | .mgmtMdc => (11, 28)
  | .mgmtMdio => (11, 29)
  | .spiClk => (13, 20)
  | .spiCsN => (13, 21)
  | .spiIo n => (13, 22 + n)
  | .tck => (15, 20)
  | .tms => (15, 21)
  | .tdi => (15, 22)
  | .tdo => (15, 23)
  | .trstN => (15, 24)
  | .ppsIn => (17, 20)
  | .tenMhzIn => (17, 21)
  | .tcap n => (17, 22 + n)
  | .tout n => (17, 24 + n)
  | .pmbusScl k => (19, 20 + 4 * k)
  | .pmbusSda k => (19, 21 + 4 * k)
  | .pmbusAlertN k => (19, 22 + 4 * k)
  | .gpio n => (21, 20 + n)
  | .strap n => (23, 20 + n)
  | .therm k c => (25, 20 + 2 * k + b2n c)
  | .cartScl c => (27, 20 + 6 * c)
  | .cartSda c => (27, 21 + 6 * c)
  | .cartPresN c => (27, 22 + 6 * c)
  | .cartIntN c => (27, 23 + 6 * c)
  | .cartEn c => (27, 24 + 6 * c)
  | .cartLatchN c => (27, 25 + 6 * c)
  | .sense r neg => (31, 20 + 2 * r + b2n neg)

/-- The level code of a land (Table PKG-3). -/
def landCode : Land → LevelCode
  | .pcieTx _ _ | .pcieRx _ _ => .pcie
  | .pcieRefclk _ => .hcsl
  | .refclk _ _ => .diff
  | .mgmtTx _ | .mgmtRx _ => .sgmii
  | .therm _ _ | .sense _ _ => .an
  | .pmbusScl _ | .pmbusSda _ | .pmbusAlertN _ | .cartScl _ | .cartSda _ | .cartIntN _ => .od18
  | _ => .c18

/-- What the part does on a land while VDD_IO is within its limits. DESIGN CHOICE (log 81). -/
def landDriven (s : State) (l : Land) : Level :=
  let x := s.top.lands
  match l with
  | .pcieTx _ _ => x.pcieTx
  | .pcieRx _ _ => x.pcieRx
  | .mgmtTx _ => x.mgmtTx
  | .mgmtMdc => x.mgmtMdc
  | .mgmtMdio => x.mgmtMdio
  | .spiClk => x.spiClk
  | .spiCsN => x.spiCs
  | .spiIo _ => x.spiIo
  | .tdo => x.tdo
  | .pmbusScl _ | .pmbusSda _ => x.pmbus
  | .gpio _ => x.gpio
  | .cartScl _ | .cartSda _ => x.cartBus
  | .cartEn c => if regBit s (aBay c 0) 10 then .high else .low
  | .tout n =>
    let busy := s.pulses.any fun p => p.1 == n && p.2.high
    if busy != regBit s (aTim (0x200 + 0x20 * n)) 29 then .high else .low
  | .tck | .trstN => .pullDown
  | .tms | .tdi => .pullUp
  | .therm _ _ => .passive
  | .sense _ _ => .connected
  | _ => .input

/-- What the part does on a land: below the minimum of VDD_IO no C18 land is driven high and no OD18 land pulled low (R23). DESIGN CHOICE (log 81). -/
def landLevel (s : State) (l : Land) : Level :=
  let v := landDriven s l
  if !s.top.lands.ioLow then v
  else match landCode l, v with
    | .c18, .high | .c18, .owned => .highZ
    | .od18, .owned => .released
    | _, _ => v

def setLands (s : State) (f : Lands → Lands) : State := { s with top := { s.top with lands := f s.top.lands } }

/-- The host interface holds the PCIe lands, or lets them go to their link (R23). DESIGN CHOICE (log 81). -/
def landsPcie (s : State) (up : Bool) : State :=
  setLands s fun x => { x with pcieTx := if up then .owned else .idle, pcieRx := if up then .owned else .termOff }

/-- The control cores read the flash, and take over its lands, as soon as they run (Table ISL-7 step 3). DESIGN CHOICE (log 81). -/
def landsFlash (s : State) : State := setLands s fun x => { x with spiClk := .owned, spiCs := .owned, spiIo := .owned }

/-- The control cores take over the lands that firmware serves: the management, PMBus and cartridge buses. No rule names a block that takes
GPIOn over, which stay High-Z. DESIGN CHOICE (log 81). -/
def landsFirmware (s : State) : State :=
  setLands s fun x => { x with mgmtTx := .owned, mgmtMdc := .owned, mgmtMdio := .owned, pmbus := .owned, cartBus := .owned }

/-- The minimum operating voltage of VDD_IO in mV (Table ELE-2). -/
def vddIoMin : Nat := 1710

/-- A reading of VDD_IO (R23). DESIGN CHOICE (log 81). -/
def landsIo (s : State) (mv : Nat) : State := setLands s fun x => { x with ioLow := decide (mv < vddIoMin) }

end Sys2Proof.Machine
end

