-- ==== Sys2Proof/Machine/Pcie.lean ====
section
/-!
DEFINITION. The PCIe function (R70, R71, Table HIF-1): its identity, its base address registers as a configuration read shows them,
and the map of BAR2 (R73, Table HIF-4).
-/
namespace Sys2Proof.Machine

/-- The function of Table HIF-1. -/
structure PcieFunction where
  vendor : Nat
  device : Nat
  revision : Nat
  classCode : Nat
  physFns : Nat
  virtFns : Nat
  /-- Widest link and highest speed code of Table HIF-2. -/
  width : Nat
  speed : Nat
  addrBits : Nat
  maxPayload : Nat
  maxReadRequest : Nat
  tagBits : Nat
  maxNonPosted : Nat
  msixVectors : Nat
  msi : Bool
  intx : Bool
  aer : Bool
  flr : Bool
  ecrc : Bool
  ats : Bool
  pri : Bool
  pasid : Bool
  aspmL0s : Bool
  aspmL1 : Bool
  l0p : Bool
  /-- BAR0 offsets of the MSI-X table and pending-bit array. -/
  msixTable : Nat
  msixPba : Nat
  deriving DecidableEq, Repr

/-- The one function that the part presents (R70). -/
def pcieFunction : PcieFunction :=
  { vendor := 0x1FD4, device := 0x1152, revision := 0x00, classCode := 0x020000, physFns := 1, virtFns := 0, width := 8,
    speed := 6, addrBits := 64, maxPayload := 512, maxReadRequest := 4096, tagBits := 10, maxNonPosted := 512,
    msixVectors := 2048, msi := false, intx := false, aer := true, flr := true, ecrc := true, ats := false, pri := false,
    pasid := false, aspmL0s := false, aspmL1 := false, l0p := false, msixTable := 0x180000, msixPba := 0x190000 }

/-- The highest speed code that the link trains to (Table HIF-1, Table PKG-7): 5 with TOP.STRAP.PCIE5, else 6. -/
def topSpeed (s : State) : Nat := if regBit s 0x10 2 then 5 else pcieFunction.speed

/-- A base address register of 64 bits: its size, and whether it is prefetchable. -/
structure Bar where
  size : Nat
  prefetch : Bool
  deriving DecidableEq, Repr

/-- BAR0 and BAR2 (R71); BAR4 is not implemented. -/
def barOf (n : Nat) : Option Bar :=
  match n with
  | 0 => some { size := 2 ^ 28, prefetch := false }
  | 2 => some { size := 2 ^ 26, prefetch := false }
  | _ => none

def barSize (n : Nat) : Nat := ((barOf n).map (·.size)).getD 0

/-- What BAR dword `n` (0 to 5) reads after a write of `v` (R71): a 64-bit memory BAR holds the address bits at and above its size,
with its type in the low bits; one that is not implemented reads zero. -/
def barRead (n : Nat) (v : Word) : Word :=
  match barOf (n / 2 * 2) with
  | none => 0
  | some b =>
    if n % 2 = 0 then (v &&& BitVec.ofNat 32 (2 ^ 32 - b.size)) ||| BitVec.ofNat 32 (4 + b2n b.prefetch * 8)
    else v

/-- The identity dwords of the configuration header: offset 0 the device and vendor ID, 8 the class code and revision. -/
def configIdentity (off : Nat) : Word :=
  match off with
  | 0 => BitVec.ofNat 32 (pcieFunction.device * 65536 + pcieFunction.vendor)
  | 8 => BitVec.ofNat 32 (pcieFunction.classCode * 256 + pcieFunction.revision)
  | _ => 0

/-- What lies at an offset of BAR2 (Table HIF-4). -/
inductive Bar2Part where
  /-- A doorbell page, and whether the dword is the one that is decoded. -/
  | bell (k : RingKind) (n : Nat) (first : Bool)
  | reserved
  /-- The buffer aperture, from its start. -/
  | aperture (off : Nat)
  deriving DecidableEq, Repr

/-- The offset at which the aperture starts. -/
def apertureBase : Nat := 0x100000

def bar2Part (a : Nat) : Bar2Part :=
  let first := a % 0x1000 < 4
  if a < 0x10000 then .bell .cr (a / 0x1000) first
  else if a < 0x20000 then .bell .cq ((a - 0x10000) / 0x1000) first
  else if a < 0x60000 then .bell .rx ((a - 0x20000) / 0x1000) first
  else if a < 0x68000 then .bell .nq ((a - 0x60000) / 0x1000) first
  else if a < apertureBase then .reserved
  else if a < barSize 2 then .aperture (a - apertureBase)
  else .reserved

/-- The ring's last accepted doorbell, as its mirror register holds it (R73): TAIL of a CR or RX ring, HEAD of a CQ or NQ ring. -/
def bellMirror (s : State) (k : RingKind) (n : Nat) : Nat :=
  match k with
  | .cr | .rx => ringTail s k n
  | .cq | .nq => ringHead s k n

end Sys2Proof.Machine
end

