-- ==== Sys2Proof/Machine/Host.lean ====
section
/-!
DEFINITION. The host interface: doorbells, rings, the fetching and completing of commands, FENCE, the aperture, the
mailbox, the orphan log and PERST_N (chapter 03).
-/
namespace Sys2Proof.Machine

/-- A host access error: a bit of HIF.ERR with source 0x161 (R73, R80, Tables HIF-15, HIF-17). -/
def hifErr (s : State) (bit : Nat) : State := raise (setBit s (aHif 8) bit true) 0x161

/-- BAR0_UNMAPPED_ACCESS (R73): a read returns zero, a write is ignored. -/
def execBar0UnmappedAccess (addr : Nat) (write : Bool) (s : State) : Host.Outcome State Fault Refusal :=
  .next (if (regInfo addr).isSome || s.hif.perst || s.top.inReset then s
    else hifErr (whenB (!write) (emit · (.readData (bytesLE 4 0))) s) 0)

-- Doorbells (R80, R93).

/-- An index on the way forward from HEAD to TAIL, both included. -/
def consumerOk (s : State) (k : RingKind) (n i : Nat) : Bool :=
  decide (i < ringSize s k n) &&
  decide ((i + ringSize s k n - ringHead s k n) % ringSize s k n ≤ ringHeld s k n)

/-- The doorbell of a consumer: HEAD moves, or the write is ignored. -/
def consumerBell (s : State) (k : RingKind) (n i : Nat) : State :=
  if s.hif.perst then s
  else if decide (n < ringCount k) && ringEn s k n && consumerOk s k n i then
    setReg s (ringBase k n + 0xC) (BitVec.ofNat 32 i)
  else hifErr s 2

/-- The doorbell of a producer: TAIL moves, or the write is ignored where the index is at or above the ring's size, or the entries
from TAIL to it with those that the ring holds are more than size - 1. -/
def producerOk (s : State) (k : RingKind) (n i : Nat) : Bool :=
  let size := ringSize s k n
  decide (n < ringCount k) && ringEn s k n && decide (i < size) &&
    decide (ringHeld s k n + (i + size - ringTail s k n) % size ≤ size - 1)

/-- The doorbell of a CR: its new entries become visible by this doorbell (R92). DEDUCED (log 74). -/
def crBell (r index : Nat) (s : State) : State :=
  if s.hif.perst then s
  else if producerOk s .cr r index then
    let size := ringSize s .cr r
    let t := ringTail s .cr r
    let new := (List.range ((index + size - t) % size)).map fun i => (r, (t + i) % size, s.hif.bellSeq + 1)
    let s := setReg s (ringBase .cr r + 0x10) (BitVec.ofNat 32 index)
    { s with hif := { s.hif with bellSeq := s.hif.bellSeq + 1, visible := s.hif.visible ++ new } }
  else hifErr s 2

/-- The doorbell of an RX ring: buffers are posted. -/
def rxBell (n index : Nat) (s : State) : State :=
  if s.hif.perst then s
  else if producerOk s .rx n index then setReg s (ringBase .rx n + 0x10) (BitVec.ofNat 32 index)
  else hifErr s 2

/-- The doorbell of a ring. -/
def ringBell (s : State) (k : RingKind) (n index : Nat) : State :=
  match k with
  | .cr => crBell n index s
  | .rx => rxBell n index s
  | .cq | .nq => consumerBell s k n index

/-- CR_DOORBELL (R80). DEDUCED (log 74). -/
def execCrDoorbell (r index : Nat) (s : State) : Host.Outcome State Fault Refusal := .next (crBell r index s)

/-- CQ_DOORBELL (R80). -/
def execCqDoorbell (r index : Nat) (s : State) : Host.Outcome State Fault Refusal := .next (consumerBell s .cq r index)

/-- RX_DOORBELL (R80, R93). -/
def execRxDoorbell (n index : Nat) (s : State) : Host.Outcome State Fault Refusal := .next (rxBell n index s)

/-- NQ_DOORBELL (R80). -/
def execNqDoorbell (n index : Nat) (s : State) : Host.Outcome State Fault Refusal := .next (consumerBell s .nq n index)

-- Rings (R81 to R83).

/-- The RW fields of a ring's CFG other than EN, as a write sets them (Table HIF-7, R16). -/
def ringCfgWrite (s : State) (k : RingKind) (n : Nat) (cfg : Word) : State :=
  match regInfo (ringBase k n + 8) with
  | some (_, _, r, _, _) => setReg s (ringBase k n + 8) (applyWrite r (reg s (ringBase k n + 8)) cfg)
  | none => s

/-- Key of the PHASE of a CQ or NQ. -/
def phaseKey (k : RingKind) (n : Nat) : Nat := match k with | .nq => 16 + n | _ => n

/-- The entries of a CR that are visible and not fetched are forgotten. -/
def forgetVisible (s : State) (k : RingKind) (n : Nat) : State :=
  match k with
  | .cr =>
    let gone := s.hif.visible.filter (·.1 == n)
    let l := s.hif.outstanding.map fun o => { o with covers := o.covers.filter (!gone.contains ·) }
    { s with hif := { s.hif with visible := s.hif.visible.filter (·.1 != n), outstanding := l } }
  | _ => s

/-- RING_ENABLE (R81, Table HIF-7): a write of CFG with EN = 1. Setting EN from 0 to 1 zeroes HEAD and TAIL, clears ERR and
starts the first pass. -/
def execRingEnable (kind : RingKind) (n : Nat) (cfg : Word) (s : State) : Host.Outcome State Fault Refusal :=
  .next (if s.hif.perst || decide (ringCount kind ≤ n) then s
    else if ringEn s kind n then ringCfgWrite s kind n cfg
    else
      let s := forgetVisible (ringCfgWrite s kind n cfg) kind n
      let s := setF s (ringBase kind n + 8) 31 30 2
      let s := setReg (setReg s (ringBase kind n + 0xC) 0) (ringBase kind n + 0x10) 0
      match kind with
      | .cq | .nq => { s with hif := { s.hif with phaseInv := mapPut false s.hif.phaseInv (phaseKey kind n) false } }
      | _ => s)

/-- Reports that waited for room in an NQ that is disabled are discarded and counted (R361). DESIGN CHOICE (log 82): entries of
KIND 0x02 that waited are kept, and are written once software has enabled the ring again. -/
def dropReports (s : State) (k : RingKind) (n : Nat) : State :=
  let gone := s.hif.notifs.filter fun x => k == .nq && x.1 == n && x.2.kind == 1
  if gone.isEmpty then s
  else raiseLimited (add64 { s with hif := { s.hif with notifs := s.hif.notifs.filter fun x => !(x.1 == n && x.2.kind == 1) } }
    (aTim 0x38) gone.length) 0xA06 1000000

/-- RING_DISABLE (R82): a write of CFG with EN = 0. Fetched commands run on; IDLE sets once nothing is outstanding. DESIGN CHOICE (log 82). -/
def execRingDisable (kind : RingKind) (n : Nat) (cfg : Word) (s : State) : Host.Outcome State Fault Refusal :=
  .next (if s.hif.perst || decide (ringCount kind ≤ n) then s
    else dropReports (forgetVisible (setBit (ringCfgWrite s kind n cfg) (ringBase kind n + 8) 31 false) kind n) kind n)

/-- RING_DMA_ERROR (Table HIF-7): the ring stops with ERR = 1 and EN = 0, and source 0x161 is raised. -/
def ringStop (s : State) (kind : RingKind) (n : Nat) : State :=
  raise (dropReports (forgetVisible (setF s (ringBase kind n + 8) 31 30 1) kind n) kind n) 0x161

def execRingDmaError (kind : RingKind) (n : Nat) (s : State) : Host.Outcome State Fault Refusal :=
  .next (if s.hif.perst || decide (ringCount kind ≤ n) || !ringEn s kind n then s else ringStop s kind n)

-- Fetching and completing (R86, R88, R90 to R92).

/-- The command that the 64 octets of an entry spell (R84, Table HIF-8): entry `i` of ring `r`, made visible by doorbell `bell`, with the
host data read at HOST_ADDR. -/
def decodeEntry (bell r i : Nat) (b data : List Byte) : HostCmd :=
  let w := leAt b 0 4
  { bell := bell, cr := r, index := i, opcode := nbits w 7 0, notify := w.testBit 8, ordered := w.testBit 9,
    tag := nbits w 31 16, dataLen := leAt b 4 2, hostAddr := leAt b 8 8, arg := sliceZ b 16 48,
    data := data.take (leAt b 4 2) }

/-- A CR from which the part may fetch (R83, R90). DESIGN CHOICE (log 83): a PEER CQ that is disabled bars nothing but by the room
that its indexes show. -/
def fetchable (s : State) (r : Nat) : Bool :=
  ringEn s .cr r && ringHead s .cr r != ringTail s .cr r &&
  ringRoom s .cq (regF s (ringBase .cr r + 8) 19 16)

/-- The ring that round-robin serves next. DEDUCED (log 74). -/
def nextCr (s : State) : Option Nat :=
  ((List.range 16).map fun i => (s.hif.lastCr + 1 + i) % 16).find? (fetchable s)

/-- The doorbell that made entry `i` of ring `r` visible. -/
def entryBell (s : State) (r i : Nat) : Nat :=
  ((s.hif.visible.find? fun x => x.1 == r && x.2.1 == i).map (·.2.2)).getD s.hif.bellSeq

/-- COMMAND_FETCH (R78, R84, R88, R90): the entry at HEAD of the next ring is read and decoded; one of an unknown opcode or a
reserved form ends with BAD_ARG once it may start. DEDUCED (log 74). Commands that a PERST_N reset left to be settled do not count against the 1,024:
DESIGN CHOICE (log 95). -/
def execCommandFetch (r : Nat) (entry data : List Byte) (s : State) : Host.Outcome State Fault Refusal :=
  .next (if s.hif.perst || decide (1024 ≤ s.hif.outstanding.length) || nextCr s != some r then s
    else
      let i := ringHead s .cr r
      let s := emit s (.hostRead (ringAddr s .cr r i 64) 64)
      let c := decodeEntry (entryBell s r i) r i (sliceZ entry 0 64) data
      let out := s.hif.outstanding ++ [{ cmd := c, phase := .fetched, covers := [], since := s.elapsed }]
      let vis := s.hif.visible.filter fun x => !(x.1 == r && x.2.1 == i)
      let s := setReg s (ringBase .cr r + 0xC) (BitVec.ofNat 32 ((i + 1) % ringSize s .cr r))
      refuseForms { s with hif := { s.hif with outstanding := out, visible := vis, lastCr := r } })

/-- The 32 octets of a completion (Table HIF-9). -/
def completionOctets (x : Completion) (phase : Bool) : List Byte :=
  bytesLE 4 (x.opcode % 256 + x.status % 256 * 256 + x.tag % 65536 * 65536)
  ++ bytesLE 4 (x.index % 4096 + x.cr % 16 * 4096) ++ sliceZ x.result 0 16 ++ bytesLE 4 x.ts32
  ++ bytesLE 4 (b2n phase * 2 ^ 31)

/-- COMPLETION_WRITE (R86): the oldest completion waiting for CQ q is written as one 32-octet write, where there is room. -/
def execCompletionWrite (q : Nat) (s : State) : Host.Outcome State Fault Refusal :=
  .next (match takeFirst (fun x : Nat × Completion => x.1 == q) s.hif.completions with
    | (none, _) => s
    | (some (_, x), rest) =>
      if s.hif.perst || !ringEn s .cq q || !ringRoom s .cq q then s
      else
        let s := hostWrite s (ringAddr s .cq q (ringTail s .cq q) 32) (completionOctets x (phaseOf s q))
        let s := tailStep { s with hif := { s.hif with completions := rest } } .cq q q
        let s := dropCmd s (x.cr, x.index, x.bell)
        refuseForms (whenB x.notify (raise · (0x100 + q)) s))

/-- The 32 octets of a notification entry (R94). -/
def notifOctets (x : Notif) (phase : Bool) : List Byte :=
  bytesLE 4 (x.kind % 256) ++ sliceZ x.payload 0 24 ++ bytesLE 4 (b2n phase * 2 ^ 31)

/-- NOTIFICATION_WRITE (R86, R94). -/
def execNotificationWrite (n : Nat) (s : State) : Host.Outcome State Fault Refusal :=
  .next (match takeFirst (fun x : Nat × Notif => x.1 == n) s.hif.notifs with
    | (none, _) => s
    | (some (_, x), rest) =>
      if s.hif.perst || !ringEn s .nq n || !ringRoom s .nq n then s
      else
        let s := hostWrite s (ringAddr s .nq n (ringTail s .nq n) 32) (notifOctets x (phaseOf s (16 + n)))
        raise (tailStep { s with hif := { s.hif with notifs := rest } } .nq n (16 + n)) (0x150 + n))

/-- NOP (R88). -/
def execNop (cmd : HostCmd) (s : State) : Host.Outcome State Fault Refusal :=
  .next (runCmd s cmd .nop (complete · cmd stOk))

/-- What a FENCE covers (R92): the earlier commands of its own ring, and every command that an earlier doorbell made
visible, fetched or not. DEDUCED (log 74). -/
def fenceCovers (s : State) (c : HostCmd) : List (Nat × Nat × Nat) :=
  ((earlier s c).map (cmdKey ·.cmd)
    ++ (s.hif.outstanding.filter fun o => decide (o.cmd.bell < c.bell)).map (cmdKey ·.cmd)
    ++ s.hif.visible.filter fun x => decide (x.2.2 < c.bell)).dedup.filter (· != cmdKey c)

/-- FENCE (R92) starts: it notes what it covers. -/
def execFence (cmd : HostCmd) (s : State) : Host.Outcome State Fault Refusal :=
  .next (runCmd s cmd .fence fun s =>
    let s := setPhase s cmd .started
    let covers := fenceCovers s cmd
    let l := s.hif.outstanding.map fun o => if cmdKey o.cmd == cmdKey cmd then { o with covers := covers } else o
    { s with hif := { s.hif with outstanding := l } })

/-- A BAR0 write has not taken effect: it waits at a crossing (R48), in the Clerk (R241), for a lock of a stateful register (R202) or
for the boundary of the meters (R342). A FENCE waits for those that arrived after its doorbell write too: DESIGN CHOICE (log 95). -/
def writesDue (s : State) : Bool :=
  s.top.held.any (fun | .read _ _ _ => false | _ => true) || clerkWrites s
  || s.pipes.stalls.any (fun x => !x.2.hostWrites.isEmpty) || !s.pipes.meterWrites.isEmpty

/-- FENCE_COMPLETE (R92): every covered command has completed, and every BAR0 write before it has taken effect. -/
def execFenceComplete (cr index : Nat) (s : State) : Host.Outcome State Fault Refusal :=
  .next (match (heldCmds s).find? fun o => o.cmd.cr == cr && o.cmd.index == index && o.cmd.opcode == 2 && o.phase == .started with
    | none => s
    | some o => if o.covers.isEmpty && !writesDue s then complete s o.cmd stOk else s)

/-- A command that waits in the Clerk's queue. -/
def clerkHolds (s : State) (key : Nat × Nat × Nat) : Bool :=
  s.clerk.host.any fun | .cmd c => cmdKey c == key | _ => false

/-- The wait of a command may end in TIMEOUT (R53, R89, R261): it is held for the wipe or an idle context, or it is a table command
that has not started. A command held for firmware waits on (R47, R505). -/
def mayTimeout (o : OutCmd) : Bool :=
  let op := o.cmd.opcode
  let fwServed := op == 0x24 || op == 0x70 || op == 0x71 || op == 0x80
  (o.phase == .held && !fwServed) || (o.phase == .fetched && 0x10 ≤ op && op ≤ 0x16)

/-- COMMAND_TIMEOUT (R53, R89, R261): a command that could not start within its limit completes with TIMEOUT. -/
def execCommandTimeout (cr index : Nat) (s : State) : Host.Outcome State Fault Refusal :=
  .next (match (heldCmds s).find? fun o => o.cmd.cr == cr && o.cmd.index == index && (clerkHolds s (cmdKey o.cmd) || mayTimeout o) with
    | none => s
    | some o =>
      let key := cmdKey o.cmd
      let host := s.clerk.host.filter fun | .cmd c => cmdKey c != key | _ => true
      let waiting := s.sec.waiting.filter fun c => cmdKey c != key
      complete { s with clerk := { s.clerk with host := host }, sec := { s.sec with waiting := waiting } } o.cmd stTimeout)

-- The buffer aperture (R95).

/-- Where an aperture offset lies in a mapped buffer: the key of its octet in `hif.buf`. -/
def apertureKey (s : State) (addr : Nat) : Option Nat :=
  let slot := addr / 0x4000
  let off := addr % 0x4000
  match mapGet 0 s.hif.slots slot with
  | 0 => none
  | u + 1 => if slot < 4032 ∧ off < 256 * unitCells (unitTag s u).pool then some (u * 256 + off) else none

/-- A write through the aperture, from its start: octets inside the buffer are kept, the others discarded; a request with any
discarded counts once. -/
def apertureStore (s : State) (off : Nat) (data : List Byte) : State :=
  let keyed := data.zipIdx.map fun x => (apertureKey s (off + x.2), x.1)
  let buf := keyed.foldl (fun m x => match x.1 with | some k => mapPut 0 m k x.2 | none => m) s.hif.buf
  let s := { s with hif := { s.hif with buf := buf } }
  if keyed.any (·.1.isNone) then raise (setBit (add64 s (aHif 0x10) 1) (aHif 8) 3 true) 0x162 else s

/-- APERTURE_WRITE (R95, Table HIF-4): a BAR2 write. The first dword of a doorbell page is a doorbell; its other dwords, and the
reserved range, ignore writes. So does the first dword where the write does not bring it whole, from its first octet: DESIGN CHOICE (log 95). -/
def execApertureWrite (addr : Nat) (data : List Byte) (s : State) : Host.Outcome State Fault Refusal :=
  .next (if s.hif.perst || s.top.inReset then s
    else match bar2Part addr with
      | .bell k n true => if addr % 4 = 0 ∧ 4 ≤ data.length then ringBell s k n (leAt data 0 4) else s
      | .bell _ _ false | .reserved => s
      | .aperture off => apertureStore s off data)

/-- One octet of BAR2 as a read shows it (R73, R95): the mirror of the last accepted doorbell in the first dword of a doorbell page,
the mapped buffer in the aperture, and zero anywhere else. -/
def bar2Octet (s : State) (a : Nat) : Byte :=
  match bar2Part a with
  | .bell k n true => BitVec.ofNat 8 (bellMirror s k n >>> (8 * (a % 4)))
  | .bell _ _ false | .reserved => 0
  | .aperture off => match apertureKey s off with | some k => mapGet 0 s.hif.buf k | none => 0

/-- APERTURE_READ (R73, R95): a BAR2 read. -/
def execApertureRead (addr len : Nat) (s : State) : Host.Outcome State Fault Refusal :=
  .next (if s.hif.perst || s.top.inReset then s
    else emit s (.readData ((List.range len).map fun i => bar2Octet s (addr + i))))

-- The mailbox (R96) and the orphan log (R101).

/-- Octets of the mailbox request area. -/
def mailOctet (s : State) (i : Nat) : Byte :=
  BitVec.ofNat 8 ((reg s (aHif (0x2100 + i / 4 * 4))).toNat >>> (8 * (i % 4)))

/-- The request area as it stands. -/
def mailArea (s : State) : List Byte := (List.range 256).map (mailOctet s)

/-- A core takes the request that waits, where firmware runs and serves no other. DESIGN CHOICE (log 84): at once. -/
def mailTake (s : State) : State :=
  if fwRuns s && s.hif.oldMail.isNone then
    { s with hif := { s.hif with mail := s.hif.mail.map fun m => { m with taken := true } } }
  else s

/-- MAILBOX_GO (R96): a firmware source is raised with it (R426). DESIGN CHOICE (logs 54, 84). DESIGN CHOICE (log 54). DESIGN CHOICE (log 84). -/
def execMailboxGo (s : State) : Host.Outcome State Fault Refusal :=
  .next (if s.hif.perst || s.top.inReset then s
    else if regBit s (aHif 0x2000) 1 then setBit s (aHif 0x2000) 2 true
    else
      let a := mailArea s
      let m : MailReq := { code := leAt a 0 2, tag := leAt a 2 2, area := a, taken := false }
      let s := setBit { s with hif := { s.hif with mail := some m } } (aHif 0x2000) 1 true
      mailTake (raise s (0xF00 + Config.mailboxSource % 256)))

/-- The request that a core serves: one that a PERST_N reset left, else the one that it has taken. -/
def mailServed (s : State) : Option MailReq :=
  match s.hif.oldMail with
  | some m => some m
  | none => match s.hif.mail with | some m => if m.taken then some m else none | none => none

/-- A request that names no service, or whose LEN is above 248 (Table HIF-13, R16). -/
def mailBad (m : MailReq) : Bool := !(m.code == 1 || m.code == 2) || decide (248 < leAt m.area 4 4)

/-- Octets written into the response area (Table HIF-13). -/
def mailPut (s : State) (b : List Byte) : State :=
  forEach (List.range 64) (fun s i => setReg s (aHif (0x2200 + 4 * i)) (BitVec.ofNat 32 (leAt b (4 * i) 4))) s

/-- A mailbox response (R96): written with BUSY cleared and source 0x160; the request that a PERST_N reset left is recorded in the
orphan log instead (R98), and the one that waits is then taken. -/
def mailRespond (s : State) (status : Nat) (payload : List Byte) : State :=
  match s.hif.oldMail with
  | some m =>
    let s := { s with hif := { s.hif with oldMail := none } }
    mailTake (settleDone (orphan s { tag := m.tag, opcode := 0xFF, cr := 0xFF, status := status }))
  | none =>
    match s.hif.mail with
    | none => s
    | some m =>
      let s := mailPut { s with hif := { s.hif with mail := none } }
        (bytesLE 2 m.code ++ bytesLE 2 m.tag ++ bytesLE 4 (status % 256) ++ payload)
      raise (setBit s (aHif 0x2000) 1 false) 0x160

/-- ORPHAN_LOG_CLEAR (R101). -/
def execOrphanLogClear (s : State) : Host.Outcome State Fault Refusal :=
  .next (if s.hif.perst then s
    else
      let s := forEach (List.range 2048) (fun s i => setReg s (aHif (0x4000 + 4 * i)) 0) s
      setF s (aHif 0x3000) 16 0 0)

-- PERST_N (R98 to R101, R294, R432).

/-- The Crier at a PERST_N reset (R432): vectors leave service, sources active on a vector are pending again, and each
vector that such a source targets is ready. -/
def crierPerst (s : State) : State :=
  let back := (s.crier.active.filter fun x => decide (x.2 < 4096)).map (·.1)
  let vecs := s.crier.vecs.foldl (fun m x => mapPut vecIdle m x.1 { x.2 with inService := false, held := false }) s.crier.vecs
  let vecs := back.foldl (fun m id => mapMod vecIdle m (regF s (aSrc id) 10 0) fun x => { x with ready := true }) vecs
  { s with
    crier := { s.crier with
      vecs := vecs, active := s.crier.active.filter (fun x => decide (4096 ≤ x.2)),
      pend := back.foldl addOnce s.crier.pend } }

/-- Every unit tagged HOST is freed and every slot unmapped (R294). -/
def freeHostUnits (s : State) : State :=
  let gone := s.market.hostHeld
  let cells := gone.foldl (fun n u => n + unitCells (unitTag s u).pool) 0
  let s := forEach gone freeUnit (addHostUsed s (-(cells : Int)))
  { s with
    market := { s.market with hostHeld := [] },
    hif := { s.hif with slots := [], buf := [] } }

/-- A command that has started when PERST_N falls, and runs to its end. -/
def startedCmd (o : OutCmd) : Bool := o.phase == .started || o.phase == .taken

/-- The status with which a command that does not run on is recorded: its own where its completion was formed. -/
def endedStatus (done : List (Nat × Completion)) (o : OutCmd) : Nat :=
  ((done.find? fun x => (x.2.cr, x.2.index, x.2.bell) == cmdKey o.cmd).map (·.2.status)).getD stAborted

/-- What the host island loses as PERST_N falls (R75, R83, R98): the host's latches but those of the time island (R366), visible entries,
completions and entries that wait, and the host's held words; the started commands are left to be settled, and a FENCE among them
waits for those only. -/
def perstDrop (s : State) : State :=
  let keep := s.hif.settling ++ s.hif.outstanding.filter startedCmd
  let keys := keep.map (cmdKey ·.cmd)
  let keep := keep.map fun o => { o with covers := o.covers.filter keys.contains }
  let notHost := fun {α : Type} (x : Requester × Nat × α) => x.1 != Requester.host || islandAt x.2.1 == 124
  let mine := s.sec.waiting.filter fun c => keys.contains (cmdKey c)
  let old := match s.hif.oldMail, s.hif.mail with
    | some m, _ => some m
    | none, some m => if m.taken then some m else none
    | none, none => none
  { s with
    sec := { s.sec with waiting := mine }
    hif := { s.hif with
      perst := true, fromPerst := true, oldBell := s.hif.bellSeq, notifs := [], completions := [], visible := [],
      latches := s.hif.latches.filter notHost, heldLow := s.hif.heldLow.filter notHost, settling := keep, outstanding := [],
      msixOn := false, msixMask := false,
      oldMail := old, mail := none } }

/-- PERST_N_ASSERT (R98, steps 1 and 2): fetching stops; commands not started are recorded with ABORTED_BY_RESET, and
those that had ended with their own status; started ones stay to be settled. -/
def perstAssert (s : State) : State :=
  let out := s.hif.outstanding.filter fun o => !startedCmd o
  let done := s.hif.completions
  let missed := (s.hif.notifs.filter (·.2.kind == 1)).length
  let mail := match s.hif.mail with | some m => if m.taken && s.hif.oldMail.isNone then none else some m | none => none
  let s := setBit (perstDrop s) (aHif 0x3000) 17 true
  let s := forEach out (fun s o =>
      orphan s { tag := o.cmd.tag, opcode := o.cmd.opcode, cr := o.cmd.cr, status := endedStatus done o }) s
  let s := match mail with
    | some m => orphan s { tag := m.tag, opcode := 0xFF, cr := 0xFF, status := stAborted }
    | none => s
  let s := setF (setF (setBit s (aHif 0) 0 false) (aHif 0) 7 4 0) (aHif 0) 11 8 0
  let s := if missed = 0 then s else raiseLimited (add64 s (aTim 0x38) missed) 0xA06 1000000
  settleDone (crierPerst (freeHostUnits s))

/-- PERST_N is low, or an equivalent event stands for it (Table ISL-2): the PCIe lands are held meanwhile (R23). -/
def perstLow (s : State) : State :=
  landsPcie { s with hif := { s.hif with perstHigh := false } } false

/-- PERST_N_ASSERT (R98): the same for the pin and each of its equivalents. -/
def execPerstNAssert (_cause : PerstCause) (s : State) : Host.Outcome State Fault Refusal :=
  .next (perstLow (if s.top.inReset then s
    else if s.hif.perst then { s with hif := { s.hif with fromPerst := true } }
    else perstAssert s))

/-- PERST_N_RELEASE (R98): PERST_N rises, and the 20 ms before step 5 of Table HIF-14 begin. -/
def execPerstNRelease (s : State) : Host.Outcome State Fault Refusal :=
  .next { s with hif := { s.hif with perstHigh := true } }

/-- The registers of the host island at reset: all of HIF but the orphan log and STATUS.EPOCH, which island 126 holds. -/
def hifRegsReset (m : Store Word) : Store Word :=
  m.filter fun x => decide (x.1 < 0x100000) || decide (0x200000 ≤ x.1) || (decide (0x103000 ≤ x.1) && decide (x.1 < 0x106000)) || x.1 == 0x100000

/-- HOST_ISLAND_RELEASE (R98 step 5, Table ISL-7 step 4): the island leaves reset with HIF at reset values; after a
PERST_N reset EPOCH advances, and source 0x164 tells of a log that is not empty. -/
def execHostIslandRelease (s : State) : Host.Outcome State Fault Refusal :=
  .next (if !s.hif.perst || !s.hif.perstHigh || !bringup s 1 then s
    else
      let fromPerst := s.hif.fromPerst
      let s := { s with regs := hifRegsReset s.regs, hif := { s.hif with perst := false, fromPerst := false, phaseInv := [], lastCr := 15 } }
      let s := whenB fromPerst (fun s => setF s (aHif 0) 23 16 (regF s (aHif 0) 23 16 + 1)) s
      landsPcie (whenB (fromPerst && decide (regF s (aHif 0x3000) 10 0 ≠ 0)) (raise · 0x164) s) true)

/-- LINK_TRAINED (R34, R102, Tables HIF-1, HIF-2): width, speed and FLIT mode, with the speed at most what TOP.STRAP.PCIE5 permits;
source 0x163 below x8 or below that speed. -/
def execLinkTrained (width speed : Nat) (flit : Bool) (s : State) : Host.Outcome State Fault Refusal :=
  .next (if s.hif.perst then s
    else
      let speed := min speed (topSpeed s)
      let s := setF (setF (setBit s (aHif 0) 0 flit) (aHif 0) 7 4 speed) (aHif 0) 11 8 width
      whenB (decide (width < 8) || decide (speed < topSpeed s)) (raise · 0x163) s)

end Sys2Proof.Machine
end

