-- ==== Sys2Proof/Machine/Sched.lean ====
section
/-!
DEFINITION. Egress scheduling, shaping, PFC and its watchdog, and the CPU queues (chapter 13).
-/
namespace Sys2Proof.Machine

/-- A SCH register as decisions use it: in force since a refill boundary (R337). -/
def schF (s : State) (a hi lo : Nat) : Nat := fget (mapGet (resetWord a) s.sched.force a) hi lo

-- PORT_Q (R328, R329).

/-- An entry or an HBM part that a queue holds. -/
def queueBusy (s : State) (q : Nat) : Bool := !(qEntries s q).isEmpty || !hbmEmpty s q

/-- A bit of SCH.ERR sets: source 0x902 + 4g. DEDUCED (log 25). -/
def schErr (s : State) (g bit : Nat) : State := raise (setBit s (aSch g 0) bit true) (0x902 + 4 * g)

/-- The local queues that a position owns: those of its range where it is a head lane (R328). -/
def ownedLocal (s : State) (l : Nat) : List Nat :=
  if (portLanes s l).isSome then (List.range (qCount s l)).map (qBase s l + ·) else []

/-- PORT_Q_WRITE (R328, R329): in a position that is not a head lane the value is stored and has no effect. A QBASE of 288, which only
QCOUNT 0 admits, is no code of the field and leaves it as it was (R16). -/
def execPortQWrite (lane : Nat) (value : Word) (s : State) : Host.Outcome State Fault Refusal :=
  .next (if 1151 < lane then s
    else holdWrite s (36 + lane / 32) (aSPort lane 0) value fun s =>
      let g := lane / 32
      let count := fget value 6 0
      let base := if fget value 24 16 + count = 288 ∧ count = 0 then qBase s lane else fget value 24 16
      let leaves := (ownedLocal s lane).filter fun j => !decide (base ≤ j ∧ j < base + count)
      let busy := portEn s lane || leaves.any fun j => queueBusy s (288 * g + j)
      let bad := decide (64 < count) || decide (288 < base + count)
        || (headLanes s g).any fun m => m != lane && rangesMeet base count (qBase s m) (qCount s m)
      let s := whenB busy (schErr · g 0) s
      let s := whenB bad (schErr · g 1) s
      if busy || bad then s else setReg s (aSPort lane 0) (BitVec.ofNat 32 (base * 65536 + count)))

-- Buckets (R334 to R336), in 1/65,536 octet.

/-- The burst at reset: 16,384 octets, from which the bucket stores count. -/
def resetBurst : Int := 16384 * 65536
def cTokens (s : State) (q : Nat) : Int := resetBurst + mapGet 0 s.sched.cTok q
def pTokens (s : State) (q : Nat) : Int := resetBurst + mapGet 0 s.sched.pTok q
def portTokens (s : State) (l : Nat) : Int := resetBurst + mapGet 0 s.sched.portTok l
/-- A bucket at its burst of `n` octets, and the queues of a group. -/
def fullAt (n : Nat) : Int := ((n * 65536 : Nat) : Int) - resetBurst
def groupQueues (g : Nat) : List Nat := (List.range 288).map (288 * g + ·)
def isSingle (s : State) (l : Nat) : Bool := mapGet false s.sched.single l

def qSch (s : State) (q hi lo : Nat) : Nat := schF s (aSQueue q 0) hi lo
def cirOf (s : State) (q : Nat) : Nat := schF s (aSQueue q 4) 20 0
def pirOf (s : State) (q : Nat) : Nat := schF s (aSQueue q 12) 20 0
def portPir (s : State) (l : Nat) : Nat := schF s (aSPort l 8) 20 0
def overheadOf (s : State) (l : Nat) : Int := toSigned 7 (schF s (aSPort l 4) 22 16)

/-- The charged length of a frame of n octets on a port (R336). -/
def chargedLen (s : State) (l n : Nat) : Int := (n : Int) + 4 + overheadOf s l

/-- The length that a copy is charged by: MAX_SDU where L is not yet known. -/
def chargeBase (s : State) (c : Copy) : Nat := (copyLen c).getD (qSch s c.queue 13 0)

-- Eligibility (R330, R331, R376).

def prioKey (l n : Nat) : Nat := 8 * l + n
def wdHolding (s : State) (l n : Nat) : Bool := mapGet 0 s.sched.wdHold (prioKey l n) != 0
def isPaused (s : State) (l n : Nat) : Bool := mapGet 0 s.sched.pauseEnd (prioKey l n) != 0 && !wdHolding s l n

/-- DESIGN CHOICE (log 13). -/
def portSt0 : PortSt :=
  { finished := false, stepNo := 0, proposed := none, stepTaken := false, retry := false, fromFault := false,
    full := false, owedAck := none, finishing := false }
def getPort (s : State) (l : Nat) : PortSt := mapGet portSt0 s.ports l
def setPort (s : State) (l : Nat) (x : PortSt) : State := { s with ports := mapPut portSt0 s.ports l x }

/-- A port is held (R330, R136), or stops frames from its step instant on (R139). -/
def portHeld (s : State) (l : Nat) : Bool :=
  !carries s l || (getPort s l).stepTaken || schF s (aSPort l 4) 31 31 == 1 || (portPir s l != 0 && decide (portTokens s l ≤ 0))

def unsentOf (s : State) (l : Nat) : Nat := mapGet 0 s.sched.unsent l
def portReady (s : State) (l : Nat) : Bool := decide (unsentOf s l < 32768)

/-- The projected start P of a port's next frame in ns (R376). -/
def projectedStart (s : State) (l : Nat) : Nat :=
  clkNs s + regF s (aSlot l 8) 15 0 + unsentOf s l * 8 / portRate s l

/-- The gate is open at P and the frame passes the guard (R375, R376); the comparison is exact in the port's rate. -/
def gatePasses (s : State) (l : Nat) (c : Copy) : Bool :=
  let sp := slotsOf s l
  let i := c.queue % 288 - qBase s l
  let p := projectedStart s l
  let lead := clkNs s + regF s (aSlot l 8) 15 0
  let len := chargedLen s l (chargeBase s c)
  gateAt sp i p && (match windowEnd sp i p with
    | none => true
    | some e => decide (((unsentOf s l : Int) + len) * 8 ≤ ((e + (tblAt sp p).overrun : Nat) - (lead : Int)) * portRate s l))

/-- The MAC of a port sends: the port carries frames and, from its step instant on, starts none (R139); or it finishes the one that it
was sending when it was disabled (R144). -/
def sends (s : State) (l : Nat) (begun : Bool) : Bool :=
  (carries s l && (begun || !(getPort s l).stepTaken)) || (begun && (getPort s l).finishing)

/-- An entry can be dequeued: whole, or cut-through with the octets that its load ops read (R285, R331). -/
def canDequeue (s : State) (c : Copy) : Bool :=
  c.pkt.whole || (isCut c && decide (loadReach s (c.queue / 288) (curVer s .egr) (mdEprof c.pkt) c.pkt ≤ c.pkt.octets.length))

/-- R331, with the port's own conditions apart. -/
def queueEligible (s : State) (l q : Nat) : Bool :=
  match (qEntries s q).head? with
  | none => false
  | some c =>
    canDequeue s c && qSch s q 31 31 == 0 && !(qSch s q 26 26 == 1 && isPaused s l (qSch s q 25 23))
    && gatePasses s l c && (pirOf s q == 0 || decide (0 < pTokens s q))

def committedEligible (s : State) (l q : Nat) : Bool :=
  queueEligible s l q && cirOf s q != 0 && decide (0 < cTokens s q)

-- The choice (R332, R333).

/-- A list rotated to start after its element x. -/
def rotateAfter (l : List Nat) (x : Nat) : List Nat := (l.filter (x < ·)) ++ (l.filter (· ≤ x))

/-- The queues of a port in order. -/
def portQueues (s : State) (l : Nat) : List Nat := (List.range (qCount s l)).map (288 * (l / 32) + qBase s l + ·)
def ofLevel (s : State) (l lev : Nat) : List Nat := (portQueues s l).filter fun q => qSch s q 29 27 == lev

/-- Pass 1 of Table SCH-1 in one level: rotation after the queue served last. -/
def pass1Level (s : State) (l lev : Nat) : Option Nat :=
  let qs := (ofLevel s l lev).filter (committedEligible s l)
  match mapGet 0 s.sched.lastQueue (16 * l + lev) with
  | 0 => qs.head?
  | k + 1 => (rotateAfter qs k).head?

def deficitOf (s : State) (q : Nat) : Int := mapGet 0 s.sched.deficit q
def weightOf (s : State) (q : Nat) : Nat := qSch s q 22 15

/-- How often the rotation reaches a queue until its deficit, which grows by WEIGHT x 256 each time, is above zero (R333). -/
def visitsTo (s : State) (q : Nat) : Nat := (-(deficitOf s q) / (256 * (weightOf s q : Int))).toNat + 1

/-- DWRR rotation over eligible queues of one level with a weight, from the one reached first, until one has a deficit above zero
(R333): that queue, which the fewest visits bring there, and the deficits as the visits leave them. -/
def dwrrRun (s : State) (qs : List Nat) : Option Nat × Store Int :=
  let least := (qs.map (visitsTo s)).foldl min ((qs.head?.map (visitsTo s)).getD 0)
  match qs.find? fun q => visitsTo s q == least with
  | none => (none, s.sched.deficit)
  | some w =>
    let seen := fun q => decide (qs.idxOf q ≤ qs.idxOf w)
    (some w, qs.foldl (fun m q => mapMod 0 m q (· + 256 * (weightOf s q : Int) * (if seen q then least else least - 1 : Nat))) s.sched.deficit)

/-- Pass 2 in one level: the queue, and the deficits as the rotation leaves them. -/
def pass2Level (s : State) (l lev : Nat) : Option Nat × Store Int :=
  let qs := (ofLevel s l lev).filter (queueEligible s l)
  let heavy := qs.filter fun q => weightOf s q != 0
  let cur := mapGet 0 s.sched.turn (8 * l + lev)
  let order := fun (qs : List Nat) => match cur with | 0 => qs | k + 1 => rotateAfter qs k
  if heavy.isEmpty then ((order qs).head?, s.sched.deficit)
  else match cur with
    | 0 => dwrrRun s heavy
    | k + 1 => if heavy.contains k && decide (0 < deficitOf s k) then (some k, s.sched.deficit)
               else dwrrRun s (order heavy)

/-- The queue that a port gives up: the pass (0 committed, 1 excess), the queue and the deficits. -/
def chooseQueue (s : State) (l : Nat) : Option (Nat × Nat × Store Int) :=
  let levels := [7, 6, 5, 4, 3, 2, 1, 0]
  let one := if isSingle s l then none else levels.findSome? fun v => (pass1Level s l v).map fun q => (0, q, s.sched.deficit)
  match one with
  | some x => some x
  | none => levels.findSome? fun v => let r := pass2Level s l v; r.1.map fun q => (1, q, r.2)

/-- A port's own conditions of R331: ready, not held, and its range its own (R329). -/
def portOpen (s : State) (l : Nat) : Bool := !allotClash s l && !portHeld s l && portReady s l

/-- A port has an eligible queue. -/
def portServes (s : State) (l : Nat) : Bool := portOpen s l && (portQueues s l).any (queueEligible s l)

/-- The ports of a group in rotation, starting after the port served last (R330). -/
def nextPort (s : State) (g : Nat) : Option Nat :=
  let hs := headLanes s g
  let order := match mapGet 0 s.sched.lastPort g with | 0 => hs | k + 1 => rotateAfter hs (32 * g + k)
  order.find? (portServes s)

-- Dropping what can never fit (R378).

/-- The head frame of a queue exceeds the longest window of the operating copy. -/
def headExpired (s : State) (l q : Nat) : Bool :=
  match (qEntries s q).head? with
  | none => false
  | some c =>
    let t := (slotsOf s l).oper
    let i := q % 288 - qBase s l
    match copyLen c, longestWindow t i with
    | some n, some w => everOpen t i && decide (((w + t.overrun : Nat) : Int) * portRate s l < 8 * chargedLen s l n)
    | _, _ => false

/-- WINDOW_EXPIRED: the heads of a queue that can never be sent are dropped. -/
def dropExpired (fuel : Nat) (s : State) (l q : Nat) : State :=
  match fuel with
  | 0 => s
  | f + 1 =>
    if !headExpired s l q then s
    else match qEntries s q with
      | [] => s
      | c :: rest =>
        let s := dropQueued (setQueue s q rest) c 0x31
        let s := setBit (add64 s (aSlot l 0x18) 1) (aSlot l 4) 2 true
        dropExpired f (raiseLimited s (0xA42 + 4 * (l / 32)) 1000000) l q

/-- Every gated port of a group drops its expired heads. -/
def expireGroup (s : State) (g : Nat) : State :=
  let ports := (headLanes s g).filter fun l => !(slotsOf s l).oper.entries.isEmpty && portRate s l != 0
  forEach ports (fun s l => forEach (portQueues s l) (fun s q => dropExpired (qEntries s q).length s l q) s) s

-- The dequeue.

/-- Charge the buckets of a queue and its port (R334, R335). -/
def chargeBuckets (s : State) (l q : Nat) (len : Int) : State :=
  let d := 65536 * len
  let c := if cirOf s q != 0 && !isSingle s l then mapMod 0 s.sched.cTok q (· - d) else s.sched.cTok
  let p := if pirOf s q != 0 then mapMod 0 s.sched.pTok q (· - d) else s.sched.pTok
  let t := if portPir s l != 0 then mapMod 0 s.sched.portTok l (· - d) else s.sched.portTok
  { s with sched := { s.sched with cTok := c, pTok := p, portTok := t } }

/-- A cut-through copy's charge (R336), by the buckets that R334 charges. -/
def owedFor (s : State) (l q pass : Nat) (c : Copy) : Owed :=
  { frame := c.pkt.id, queue := q, port := l, base := (qSch s q 13 0 : Nat), com := cirOf s q != 0 && !isSingle s l,
    peak := pirOf s q != 0, shaper := portPir s l != 0, dwrr := pass == 1 }

/-- A copy that has left its queue is dropped: its octets no longer wait for the port. -/
def dropDequeued (s : State) (c : Copy) (reason : Nat) : State :=
  let s := { s with sched := { s.sched with unsent := mapMod 0 s.sched.unsent c.port (· - c.sent) } }
  dropQueued s c reason

/-- A copy as it leaves its queue for S0 of EGRg: its metadata loaded, with its projected start and what it is charged for (R330 to R336,
R376). -/
def dequeuedCopy (s : State) (g l q : Nat) (c : Copy) : Copy :=
  let p := projectedStart s l
  let sp := slotsOf s l
  let gated := !(tblAt sp p).entries.isEmpty
  let e := mdEprof c.pkt
  let octs := copyOctets c
  let pk := egressMeta s c
  { c with pkt := runLoads s g pk.egrVer e octs pk, dequeued := ts32 s, charged := chargedLen s l (chargeBase s c), projected := p,
           sent := octs.length + 4, windowEnd := if gated then (windowEnd sp (q % 288 - qBase s l) p).getD 0 else 0, gated := gated,
           overrun := (tblAt sp p).overrun, loadFault := loadsBad s g pk.egrVer e pk }

/-- The deficits after a queue has sent the head `c` in DWRR (pass 1), or as its empty queue leaves them (R333). -/
def dequeueDeficit (q pass : Nat) (len : Int) (deficits : Store Int) (last : Bool) : Store Int :=
  if pass = 1 then mapPut 0 deficits q (if last then 0 else mapGet 0 deficits q - len)
  else if last then mapPut 0 deficits q 0 else deficits

/-- The scheduler after a dequeue: the turns of its group, port and level, what awaits the length, and what the MAC has to send. -/
def dequeueSched (s : State) (g l q pass : Nat) (deficits : Store Int) (c : Copy) : State :=
  let lev := qSch s q 29 27
  { s with sched := { s.sched with
      owed := if c.pkt.whole then s.sched.owed else s.sched.owed ++ [owedFor s l q pass c]
      deficit := deficits
      lastPort := mapPut 0 s.sched.lastPort g (l % 32 + 1)
      lastQueue := if pass = 0 then mapPut 0 s.sched.lastQueue (16 * l + lev) (q + 1) else s.sched.lastQueue
      turn := if pass = 1 then mapPut 0 s.sched.turn (8 * l + lev) (q + 1) else s.sched.turn
      unsent := mapMod 0 s.sched.unsent l (· + c.sent) } }

/-- The head frame of a queue leaves for S0 of EGRg: charged, with its metadata loaded. Where its load ops read Market data that cannot
be corrected, it is dropped as a copy not yet begun (R298). DEDUCED (log 41). -/
def dequeueHead (s : State) (g l q pass : Nat) (deficits : Store Int) (c : Copy) (rest : List Copy) (err : Option DataErr) : State :=
  let d := dequeuedCopy s g l q c
  let pk := egressMeta s c
  let err := if 0 < loadReach s g pk.egrVer (mdEprof c.pkt) pk then err else none
  let s := chargeBuckets (setQueue s q rest) l q d.charged
  let s := dequeueSched s g l q pass (dequeueDeficit q pass d.charged deficits rest.isEmpty) d
  let r := marketRead (noteShare (pmcEvent s (0x8A0 + g) 1) (36 + g) q (256 + (copyOctets c).length)) d err
  if r.2 then dropDequeued r.1 d 0x41 else passOn r.1 (720 + 12 * g) { pkt := d.pkt, copy := some d }

/-- DEQUEUE_DECISION (R298, R330 to R336, R375 to R378): one decision of the scheduler of a group, with an error of the Market data
that the load ops read. -/
def execDequeueDecision (g : Nat) (err : Option DataErr) (s : State) : Host.Outcome State Fault Refusal :=
  .next (
    if decide (35 < g) || islandDown s (36 + g) then s
    else
      let s := expireGroup s g
      if !stallCredit s (720 + 12 * g) || regBit s (aPipe (36 + g) 0) 0 then s
      else match nextPort s g with
        | none => s
        | some l =>
          match chooseQueue s l with
          | none => s
          | some (pass, q, d) =>
            match qEntries s q with
            | [] => s
            | c :: rest => dequeueHead s g l q pass d c rest err)

-- Refill boundaries (R334, R335, R337, R343, R345).

/-- The end of the SCH blocks of the 36 groups (Table HIF-3). -/
def schEnd : Nat := aSch 36 0

/-- What RATE Mbit/s adds in 64 ns. -/
def refillGain (rate : Nat) : Int := (rate * 65536 / 125 : Nat)

/-- A bucket at a boundary: refilled where `on`, with what is returned to it, and clipped to its burst. -/
def refilled (stored gain back : Int) (on : Bool) (burst : Nat) : Int :=
  min ((burst : Int) * 65536) (resetBurst + stored + back + (if on then gain else 0)) - resetBurst

/-- The queues whose buckets differ from full at the reset burst, or whose registers are set. -/
def liveQueues (s : State) : List Nat :=
  let regQ := s.sched.force.filterMap fun x =>
    let o := (x.1 - 0x7800000) % 0x20000
    if 0x7800000 ≤ x.1 ∧ x.1 < schEnd ∧ 0x1000 ≤ o ∧ o < 0x3400 then some ((x.1 - 0x7800000) / 0x20000 * 288 + (o - 0x1000) / 32)
    else none
  (regQ ++ s.sched.cTok.map (·.1) ++ s.sched.pTok.map (·.1) ++ s.sched.refund.map (·.1.queue)).eraseDups

/-- The head lanes whose port bucket differs from full at the reset burst, or whose registers are set. -/
def livePorts (s : State) : List Nat :=
  let regP := s.sched.force.filterMap fun x =>
    let o := (x.1 - 0x7800000) % 0x20000
    if 0x7800000 ≤ x.1 ∧ x.1 < schEnd ∧ 0x100 ≤ o ∧ o < 0x900 then some ((x.1 - 0x7800000) / 0x20000 * 32 + (o - 0x100) / 64)
    else none
  (regP ++ s.sched.portTok.map (·.1) ++ s.sched.refund.map (·.1.port)).eraseDups

/-- The lanes whose PORT_STATE is not at its reset value, and those in single-bucket mode. -/
def flaggedPorts (s : State) : List Nat :=
  let l := s.regs.filterMap fun x =>
    let o := (x.1 - 0x1000000) % 0x40000
    if 0x1000000 ≤ x.1 ∧ x.1 < 0x1900000 ∧ 0x1000 ≤ o ∧ o % 0x100 = 4 then some ((x.1 - 0x1000000) / 0x40000 * 32 + (o - 0x1000) / 0x100)
    else none
  (l ++ s.sched.single.map (·.1)).eraseDups

/-- A meter at a boundary (R343): refilled by its marker, with what is returned to a bucket or taken from it. -/
def refillMeter (m : Meter) : Meter :=
  let w := fun i hi lo => fget (m.words.getD i 0) hi lo
  let cbs : Int := (w 2 23 0 * 65536 : Nat)
  let ebs : Int := (w 3 23 0 * 65536 : Nat)
  let clip := fun (x top : Int) => max 0 (min top x)
  match w 0 31 30 with
  | 1 =>
    let c := clip (m.cTok + m.adjC) cbs + refillGain (w 0 20 0)
    { m with cTok := clip c cbs, eTok := clip (clip (m.eTok + m.adjE) ebs + max 0 (c - cbs)) ebs, adjC := 0, adjE := 0 }
  | 2 => { m with cTok := clip (m.cTok + m.adjC + refillGain (w 0 20 0)) cbs,
                  eTok := clip (m.eTok + m.adjE + refillGain (w 1 20 0)) ebs, adjC := 0, adjE := 0 }
  | _ => { m with adjC := 0, adjE := 0 }

/-- A meter entry just written: both buckets full (R345). -/
def freshMeter (w : List Word) : Meter :=
  { words := w, cTok := (fget (w.getD 2 0) 23 0 * 65536 : Nat), eTok := (fget (w.getD 3 0) 23 0 * 65536 : Nat), adjC := 0, adjE := 0 }

def noMeter : Meter := freshMeter [0, 0, 0, 0]

/-- What is returned at this boundary to the buckets that `f` picks: those charged at the decision (R336, R337). -/
def refundOf (s : State) (f : Owed → Bool) : Int := s.sched.refund.foldl (fun a x => if f x.1 then a + 65536 * x.2 else a) 0

/-- The registers of the SCH blocks, which this boundary brings into force. -/
def schRegs (s : State) : Store Word := s.regs.filter fun x => decide (0x7800000 ≤ x.1 ∧ x.1 < schEnd)

/-- REFILL_BOUNDARY (R334 to R337, R343, R345, R354): at the first reading at or after the next multiple of 64 ns. -/
def execRefillBoundary (s : State) : Host.Outcome State Fault Refusal :=
  .next (if clkNs s < s.sched.nextRefill then s else
    let s := { s with sched := { s.sched with
        nextRefill := s.sched.nextRefill + 64
        force := schRegs s
        single := (flaggedPorts s).foldl (fun m l => mapPut false m l (regF s (aPortState l) 20 18 != 0)) s.sched.single } }
    let qs := liveQueues s
    let single := fun q => match ownerPort s q with | some l => isSingle s l | none => false
    let c := qs.foldl (fun m q => mapPut 0 m q (refilled (mapGet 0 m q) (refillGain (cirOf s q))
      (refundOf s fun x => x.com && x.queue == q) (cirOf s q != 0 && !single q) (schF s (aSQueue q 8) 23 0))) s.sched.cTok
    let p := qs.foldl (fun m q => mapPut 0 m q (refilled (mapGet 0 m q) (refillGain (pirOf s q))
      (refundOf s fun x => x.peak && x.queue == q) (pirOf s q != 0) (schF s (aSQueue q 16) 23 0))) s.sched.pTok
    let t := (livePorts s).foldl (fun m l => mapPut 0 m l (refilled (mapGet 0 m l) (refillGain (portPir s l))
      (refundOf s fun x => x.shaper && x.port == l) (portPir s l != 0) (schF s (aSPort l 12) 23 0))) s.sched.portTok
    let d := s.sched.refund.foldl (fun m x =>
      if !x.1.dwrr then m else mapMod 0 m x.1.queue (· + x.2)) s.sched.deficit
    let meters := s.pipes.meters.foldl (fun m x => mapPut noMeter m x.1 (refillMeter x.2)) s.pipes.meters
    let meters := s.pipes.meterWrites.foldl (fun m x => mapPut noMeter m x.1 (freshMeter x.2)) meters
    let s := forEach s.pipes.meterWrites (fun s x => setBit s (aStall (x.1 / 16384) 0x100) 29 false) s
    { s with
      sched := { s.sched with cTok := c, pTok := p, portTok := t, deficit := d, refund := [] }
      pipes := { s.pipes with meters := meters, meterWrites := [] } })

-- PFC (R338, R339, R341).

/-- Length of a pause of `t` quanta at the port's rate, in ns. DEDUCED (log 49). -/
def pauseNs (s : State) (l t : Nat) : Nat := ceilDiv (t * 512) (portRate s l)

/-- DEDUCED (log 49). -/
def setPause (s : State) (l n until_ : Nat) : State :=
  let k := prioKey l n
  let since := mapGet 0 s.sched.pausedSince k
  { s with sched := { s.sched with
      pauseEnd := mapPut 0 s.sched.pauseEnd k until_
      pausedSince := mapPut 0 s.sched.pausedSince k (if until_ = 0 then 0 else if since = 0 then s.elapsed + 1 else since) } }

/-- PFC_FRAME_RECEIVED (R338): counted; for each priority enabled and honoured the pause timer is set. -/
def execPfcFrameReceived (port : Nat) (enable : BitVec 8) (times : List Nat) (isPause : Bool) (s : State) : Host.Outcome State Fault Refusal :=
  .next (if !(portLanes s port).isSome || !carries s port then s
    else
      let s := add64 s (aSPort port 0x30) 1
      if isPause then s
      else forEach (List.range 8) (fun s n =>
        if !(enable.getLsbD n && schF s (aSPort port 0x10) (24 + n) (24 + n) == 1) then s
        else
          let d := pauseNs s port (times.getD n 0)
          let s := { s with sched := { s.sched with lastPfc := mapPut (0, 0) s.sched.lastPfc (prioKey port n) (s.elapsed + 1, d) } }
          if wdHolding s port n then s else setPause s port n (if times.getD n 0 = 0 then 0 else s.elapsed + d)) s)

/-- PFC_PAUSE_EXPIRY (R338). -/
def execPfcPauseExpiry (port prio : Nat) (s : State) : Host.Outcome State Fault Refusal :=
  .next (if prio < 8 then setPause s port prio 0 else s)

/-- PFC_SA of a port as 48 bits, octet 0 first. -/
def pfcSource (s : State) (l : Nat) : Nat := schF s (aSPort l 0x1C) 15 0 * 2 ^ 32 + schF s (aSPort l 0x18) 31 0

/-- A PFC frame leaves for the priorities of a mask: QUANTA where XOFF is asserted, zero where it is released. -/
def sendPfc (s : State) (l mask : Nat) : State :=
  let times := (List.range 8).map fun n =>
    if mask.testBit n && regBit s (aMPort l 8) n then schF s (aSPort l 0x10) 15 0 else 0
  emit (add64 s (aSPort l 0x38) 1) (.pfc l (pfcSource s l) mask times)

/-- PFC_FRAME_SEND (R339): the changes that fall together are carried in one frame. -/
def execPfcFrameSend (port : Nat) (s : State) : Host.Outcome State Fault Refusal :=
  .next (
    let due := mapGet 0 s.sched.xoffDue port
    if due = 0 ∨ ¬ carries s port ∨ (getPort s port).stepTaken then s
    else sendPfc { s with sched := { s.sched with xoffDue := mapPut 0 s.sched.xoffDue port 0 } } port due)

/-- PFC_REFRESH (R339): the frame of a priority is sent again while its XOFF stays asserted, once its first has been sent. -/
def execPfcRefresh (port prio : Nat) (s : State) : Host.Outcome State Fault Refusal :=
  .next (if decide (1151 < port) || decide (7 < prio) || !regBit s (aMPort port 8) prio || (mapGet 0 s.sched.xoffDue port).testBit prio
      || !carries s port || (getPort s port).stepTaken then s
    else sendPfc s port (2 ^ prio))

/-- The pauses of a port end with its link, and no PFC frame received before counts any more (R341). -/
def clearPauses (s : State) (l : Nat) : State :=
  forEach (List.range 8) (fun s n =>
    let s := setPause s l n 0
    { s with sched := { s.sched with lastPfc := mapPut (0, 0) s.sched.lastPfc (prioKey l n) (0, 0) } }) s

-- The watchdog (R340, R341).

/-- The queues of a port that a priority's pause holds. -/
def pausedQueues (s : State) (l n : Nat) : List Nat :=
  (portQueues s l).filter fun q => qSch s q 26 26 == 1 && qSch s q 25 23 == n

/-- The HBM part of a queue is selected: the Barrow frees it (R340, R490). -/
def selectHbm (s : State) (q : Nat) : State :=
  let x := getSpq s q
  let x := { x with pages := x.pages.map fun p => { p with selected := true }, staging := selectRecords x.staging }
  let s := setSpq s q x
  { s with spill := { s.spill with xfers := s.spill.xfers.map fun t =>
      if t.queue = q then { t with page := { t.page with selected := true } } else t } }
where
  selectRecords (l : List Record) : List Record := l.map fun r => { r with copy := { r.copy with selected := true } }

/-- The priority has been paused without a break for WD_TIME (R340). -/
def wdDue (s : State) (l n : Nat) : Bool :=
  let w := schF s (aSPort l 0x14) 25 16
  w != 0 && isPaused s l n && decide (mapGet 0 s.sched.pausedSince (prioKey l n) + 1000000 * w ≤ s.elapsed + 1)

/-- PFC_WATCHDOG_TRIP (R340): Market copies are dropped, the HBM part is selected, and the hold begins. DEDUCED (log 49). -/
def execPfcWatchdogTrip (port prio : Nat) (s : State) : Host.Outcome State Fault Refusal :=
  .next (if decide (7 < prio) || !wdDue s port prio then s
    else
      let s := setPause s port prio 0
      let s := forEach (pausedQueues s port prio) (fun s q =>
        let es := qEntries s q
        let s := forEach es (fun s c => dropQueued s c 0x30) (setQueue s q [])
        let s := { s with sched := { s.sched with deficit := mapPut 0 s.sched.deficit q 0 } }
        whenB (getSpq s q).spilling (selectHbm · q) s) s
      let stop := s.elapsed + 1000000 * schF s (aSPort port 0x14) 15 0
      let s := { s with sched := { s.sched with wdHold := mapPut 0 s.sched.wdHold (prioKey port prio) stop } }
      raise (add64 s (aSPort port 0x28) 1) (0x900 + 4 * (port / 32)))

/-- PFC_WATCHDOG_HOLD_END (R340): the pause state is that of the last PFC frame, with what remains of its time. -/
def execPfcWatchdogHoldEnd (port prio : Nat) (s : State) : Host.Outcome State Fault Refusal :=
  .next (if decide (7 < prio) || !wdHolding s port prio then s
    else
      let s := { s with sched := { s.sched with wdHold := mapPut 0 s.sched.wdHold (prioKey port prio) 0 } }
      let last := mapGet (0, 0) s.sched.lastPfc (prioKey port prio)
      let stop := last.1 - 1 + last.2
      let s := if carries s port && decide (0 < last.1 ∧ s.elapsed < stop) then setPause s port prio stop else s
      raise s (0x901 + 4 * (port / 32)))

-- CPU queues (R83, R93, R342).

/-- A CPU queue can be served: a whole frame at its head and a posted buffer. -/
def cpuReady (s : State) (n : Nat) : Bool :=
  (match (qEntries s (cpuQueue n)).head? with | some c => c.pkt.whole | none => false) && ringEn s .rx n && decide (0 < ringHeld s .rx n)

/-- The CPU queue whose turn it is (R342). -/
def nextCpu (s : State) : Option Nat := (rotateAfter (List.range 64) s.sched.lastCpu).find? (cpuReady s)

/-- Octets 12 to 31 of a filled receive entry (Table HIF-12). -/
def rxEntry (c : Copy) (trunc : Bool) : List Byte :=
  bytesLE 4 ((copyOctets c).length % 65536 + c.rxReason % 256 * 65536 + b2n trunc * 2 ^ 24)
  ++ bytesLE 4 (mdSrc c.pkt) ++ bytesLE 4 (hv c.pkt 194).toNat ++ bytesLE 4 (hv c.pkt 208).toNat ++ bytesLE 4 (2 ^ 31)

/-- A BUF_LEN that R93 admits. -/
def bufLenOk (n : Nat) : Bool := decide (256 ≤ n ∧ n ≤ 16384 ∧ n % 64 = 0)

/-- RX_FRAME_DMA (R93, R279, R298, R342): the entry at HEAD is read and gives BUF_ADDR and BUF_LEN (Table HIF-12); the frame and then its
entry are written, HEAD advances and source 0x110 + n is raised. A copy whose data cannot be read is dropped, and its buffer stays posted. -/
def execRxFrameDma (n : Nat) (entry : List Byte) (err : Option DataErr) (s : State) : Host.Outcome State Fault Refusal :=
  .next (if s.hif.perst || nextCpu s != some n then s
    else
    let bufAddr := leAt entry 0 8
    let bufLen := leAt entry 8 2
    let s := emit s (.hostRead (ringAddr s .rx n (ringHead s .rx n) 32) 32)
    if !bufLenOk bufLen then ringStop s .rx n
    else match qEntries s (cpuQueue n) with
      | [] => s
      | c :: rest =>
        let r := marketRead (setQueue s (cpuQueue n) rest) c err
        let s := { r.1 with sched := { r.1.sched with lastCpu := n } }
        if r.2 then dropQueued s c 0x41
        else
          let b := copyOctets c
          let h := ringHead s .rx n
          let s := hostWrite s bufAddr (b.take bufLen)
          let s := hostWrite s (ringAddr s .rx n h 32 + 12) (rxEntry c (decide (bufLen < b.length)))
          let s := setReg s (ringBase .rx n + 0xC) (BitVec.ofNat 32 ((h + 1) % ringSize s .rx n))
          raise (releaseCopy s c) (0x110 + n))

end Sys2Proof.Machine
end

