-- ==== Sys2Proof/Machine/Arrive.lean ====
section
/-!
DEFINITION. The tail of an arriving frame: how the MAC judges it, the units and records that grow with it, what a bad frame
does to its copies, and the charges made before its length was known (R137, R138, R286, R310, R336, R343, R409).
-/
namespace Sys2Proof.Machine

/-- Change every copy of the part that waits in a queue or has left one. -/
def mapCopies (s : State) (f : Copy → Copy) : State :=
  let p := s.pipes
  { s with
    pipes := { p with
      entry := mapStore (fun x : Flight => { x with copy := x.copy.map f }) p.entry
      stalls := p.stalls.map fun x => (x.1, { x.2 with ctxs := x.2.ctxs.map fun c => { c with copy := c.copy.map f } })
      toETail := mapStore f p.toETail
      toEditor := mapStore f p.toEditor
      mac := mapStore f p.mac }
    market := { s.market with queues := mapStore f s.market.queues } }

/-- The copies that have left their queue and not departed. -/
def dequeuedCopies (s : State) : List Copy :=
  (s.pipes.entry.flatMap fun x => x.2.filterMap (·.copy)) ++ (s.pipes.stalls.flatMap fun x => x.2.ctxs.filterMap (·.copy))
  ++ (s.pipes.toETail.flatMap (·.2)) ++ (s.pipes.toEditor.flatMap (·.2)) ++ (s.pipes.mac.flatMap (·.2))

/-- Every copy that counts in the occupancy of a queue. -/
def liveCopies (s : State) : List Copy := (s.market.queues.flatMap (·.2)) ++ dequeuedCopies s

/-- A frame takes the further units that `n` octets need (Table MKT-3), in the headroom class where it is in it or where the ordinary
class fails a frame with a lossless port copy (R282); the flag says whether all could be had. DEDUCED (log 44). -/
def growFrame (s : State) (id rq n : Nat) : State × Bool :=
  match frameOf s id with
  | none => (s, true)
  | some f =>
    if n ≤ chainRoom s f.units then (s, true)
    else
      let tag := (f.units.head?.map fun u => ((unitTag s u).cls, (unitTag s u).id)).getD (1, rq)
      let mine := (liveCopies s).filter (·.pkt.id == id)
      let t := takeChain 8 s rq (n - chainRoom s f.units) tag (if f.hclass then .headroom else .ordinary)
      let into := !t.2.2 && !f.hclass && mine.any (mayHdrm s) && hdrmRoom s f.port
      let u := if into then takeChain 8 t.1 rq (n - chainRoom t.1 (f.units ++ t.2.1)) tag .headroom else (t.1, [], t.2.2)
      let more := t.2.1 ++ u.2.1
      let s := u.1
      let d := unitsCells s more
      let f' := { f with units := f.units ++ more, cells := f.cells + d, hdrm := f.hdrm || into, hclass := f.hclass || into }
      let s := forEach mine (fun s c => addOcc s c.queue (d : Int)) (putFrame s f')
      let s := mapCopies s fun c => if c.pkt.id = id then { c with cells := c.cells + d } else c
      let s := whenB (into && !f.hdrm) (addF21 · (aHdrmUsed f.port f.prio) (f.cells : Int)) s
      (addIng s f' (d : Int), u.2.2)

/-- A staged record of the frame takes its whole length, or its copy is dropped where the staging has no room for it. DEDUCED (log 44). -/
def growRecord (s : State) (q id : Nat) : State :=
  let x := getSpq s q
  forEach (x.staging.filter fun r => r.copy.pkt.id == id) (fun s r =>
    let want := recordLen (copyOctets r.copy).length
    let x := getSpq s q
    let s := setStagingFree s (stagingFree s + r.bytes)
    if stagingFree s < want then
      spillExit (dropSpilled (setSpq s q { x with staging := x.staging.erase r }) q 0x24 r) q
    else
      setSpq (setStagingFree s (stagingFree s - want)) q
        { x with staging := x.staging.map fun y => if y = r then { r with bytes := want } else y }) s

/-- The staged copies of a bad frame are removed, and dropped with FRAME_ERRORED (R310). DEDUCED (log 93). -/
def dropStaged (s : State) (q id : Nat) : State :=
  let x := getSpq s q
  let out := x.staging.filter fun r => r.copy.pkt.id == id
  let s := setSpq s q { x with staging := x.staging.filter fun r => r.copy.pkt.id != id }
  let s := setStagingFree s (stagingFree s + recordsBytes out)
  spillExit (forEach out (fun s r => dropSpilled s q 0x23 r) s) q

/-- The queues whose staging holds a copy of the frame. -/
def stagedQueues (s : State) (id : Nat) : List Nat :=
  (s.spill.q.filter fun x => x.2.staging.any fun r => r.copy.pkt.id == id).map (·.1)

/-- A frame becomes bad with a reason (R286): copies queued or staged are dropped, and those further on are marked. -/
def badFrame (s : State) (id reason : Nat) : State :=
  let s := forEach (stagedQueues s id) (fun s q => dropStaged s q id) s
  let s := loseFrame s id reason
  mapPackets s fun p => if p.id = id ∧ p.bad = 0 then { p with bad := reason, whole := true } else p

/-- What the MAC makes of a frame of `n` octets (Table TAL-7): the counter that takes it, and whether it is good. DEDUCED (log 44). -/
def judgeTail (v : TailVerdict) (n maxFrame : Nat) : Option Nat × Bool :=
  if v.tailMarked then (some 7, false)
  else if !v.fcsOk then (some 2, false)
  else if maxFrame < n + 4 then (some 5, false)
  else if v.codewordBad then (none, false)
  else (some 1, true)

/-- The port counters that a received frame moves. DEDUCED (log 41). -/
def countReceived (s : State) (port : Nat) (octs : List Byte) (k : Option Nat) : State :=
  match k with
  | some 1 =>
    let s := ledgerAdd s (ldgPort port 1) 1 (octs.length + 4)
    if beAt octs 0 6 = 2 ^ 48 - 1 then ledgerAdd s (ldgPort port 4) 0 1
    else if (octs.getD 0 0).getLsbD 0 then ledgerAdd s (ldgPort port 4) 1 0 else s
  | some k => ledgerAdd s (ldgPort port k) 1 0
  | none => s

/-- Octets added to what counted the frame before its length was known: Ledger entries, flow entries and records, meters and shapers. DEDUCED (log 41). -/
def settleLength (s : State) (id n : Nat) : State :=
  let mine := s.telem.owed.filter (·.1 == id)
  let flows := s.telem.owedFlow.filter (·.1 == id)
  let s := forEach mine (fun s x => ledgerAdd s x.2 0 (n + 4)) s
  let grow := fun f : Flow => if flows.any (·.2 == f.id) then { f with octets := f.octets + n + 4 } else f
  let s := { s with telem := { s.telem with
      owed := s.telem.owed.filter (·.1 != id)
      flows := s.telem.flows.map fun e => (e.1, e.2.map grow)
      backlog := s.telem.backlog.map fun r => match r with | .flow f => .flow (grow f) | .postcard t => .postcard t
      owedFlow := s.telem.owedFlow.filter (·.1 != id) } }
  let d : Int := 65536 * (2048 - (n : Int))
  let meters := (s.pipes.meterOwed.filter (·.1 == id)).foldl (fun m x => mapMod noMeter m x.2.1 fun t =>
    { t with adjC := if x.2.2 = 1 then t.adjC else t.adjC + d, adjE := if x.2.2 = 0 then t.adjE else t.adjE + d }) s.pipes.meters
  let mine := s.sched.owed.filter (·.frame == id)
  let back := mine.map fun x => (x, x.base - (n : Int))
  let s := mapCopies s fun c => match mine.find? fun x => c.pkt.id == id && c.queue == x.queue && c.sent != 0 with
    | some x => { c with charged := c.charged - (x.base - (n : Int)) }
    | none => c
  { s with
    pipes := { s.pipes with meters := meters, meterOwed := s.pipes.meterOwed.filter (·.1 != id) }
    sched := { s.sched with refund := s.sched.refund ++ back, owed := s.sched.owed.filter (·.frame != id) } }

/-- Octets appended to every packet of the frame that is not bad, with the count of octets dequeued and not sent (R330). -/
def appendOctets (s : State) (id : Nat) (more : List Byte) : State :=
  let mine := (dequeuedCopies s).filter fun c => c.pkt.id == id && c.pkt.bad == 0
  let s := mapPackets s fun p => if p.id = id then (if p.bad = 0 then { p with octets := p.octets ++ more, whole := true } else { p with whole := true }) else p
  let s := { s with sched := { s.sched with unsent := mine.foldl (fun m c => mapMod 0 m c.port (· + more.length)) s.sched.unsent } }
  let grow := fun c : Copy => if c.pkt.id = id ∧ c.pkt.bad = 0 ∧ c.sent ≠ 0 then { c with sent := c.sent + more.length } else c
  mapCopies s grow

/-- FRAME_TAIL_ARRIVAL (R168, R286, R310, R336, R343). -/
def execFrameTailArrival (frame : Nat) (octets : List Byte) (verdict : TailVerdict) (s : State) : Host.Outcome State Fault Refusal :=
  .next (match s.pipes.arriving.find? (·.id == frame) with
    | none => s
    | some a =>
      let g := a.port / 32
      let n := a.got.length + octets.length
      let most := regF s (aPortCfg a.port) 13 0
      let v := judgeTail verdict n most
      let s := { s with pipes := { s.pipes with arriving := s.pipes.arriving.filter (·.id != frame) } }
      let s := settleLength (countReceived s a.port (a.got ++ octets) v.1) frame n
      if !v.2 && decide (n ≤ 256) && (mapGet [] s.pipes.hold g).any (·.id == frame) then
        { s with pipes := { s.pipes with hold := mapMod [] s.pipes.hold g fun l => l.filter (·.id != frame) } }
      else
        let keep := if most < n + 4 then octets.take (most - 4 - a.got.length) else octets
        let gr := growFrame s frame g (a.got.length + keep.length)
        if !gr.2 then badFrame (appendOctets gr.1 frame []) frame 0x20
        else
          let s := appendOctets gr.1 frame keep
          if v.2 then forEach (stagedQueues s frame) (fun s q => growRecord s q frame) s
          else badFrame s frame 0x23)

end Sys2Proof.Machine
end

