-- ==== Sys2Proof/Machine/Ports.lean ====
section
/-!
DEFINITION. Optical ports and lanes: octet and port configuration, link states, the ladder, FEC events and the
equaliser loop (chapter 05), with the end of an Ainum session that a link's loss brings (R390, R401).
-/
namespace Sys2Proof.Machine

-- Lane events (R149).

def aEvtLanes (g j : Nat) : Nat := aLan g (0x80 + 4 * j)

/-- The LAN source of event j follows EVT_LANES_j (R149). -/
def laneLine (s : State) (g j : Nat) : State := setLine s (0x300 + 8 * g + j) (reg s (aEvtLanes g j) != 0)

/-- Event j of lane l becomes pending. DEDUCED (log 28). -/
def laneEvent (s : State) (l j : Nat) : State := laneLine (setBit s (aEvtLanes (l / 32) j) (l % 32) true) (l / 32) j

/-- A bit of LAN.ERR sets, with the group's configuration source (R132). -/
def lanErr (s : State) (l bit : Nat) : State := laneEvent (setBit s (aLan (l / 32) 0x40) bit true) l 6

/-- The head lane of the port that holds a lane (R130, R131). -/
def portOf (s : State) (l : Nat) : Nat :=
  ((List.range 8).find? fun k => match portLanes s (l - k) with
    | some n => decide (k ≤ l ∧ l - k + n > l ∧ (l - k) / 8 = l / 8)
    | none => false).elim l (l - ·)

/-- The enabled lanes: those whose PORT_CFG is listed with EN = 1 (its reset value has EN = 0). -/
def enabledLanes (s : State) : List Nat :=
  s.regs.filterMap fun x =>
    let d := x.1 - 0x1000000
    let o := d % 0x40000
    if 0x1000000 ≤ x.1 ∧ x.1 < 0x1900000 ∧ 0x1000 ≤ o ∧ o < 0x3000 ∧ o % 0x100 = 0 ∧ x.2.getLsbD 31 then
      some (d / 0x40000 * 32 + (o - 0x1000) / 0x100)
    else none

/-- The enabled ports. -/
def enabledPorts (s : State) : List Nat := (enabledLanes s).filter fun l => (portLanes s l).isSome

-- Port settings and flags (R139, R143).

def portRateCfg (s : State) (l : Nat) : Nat := regF s (aPortCfg l) 30 29
/-- The port is a ladder port. -/
def isLadder (s : State) (l : Nat) : Bool := portRateCfg s l == 0
def ainumEn (s : State) (l : Nat) : Bool := regBit s (aPortCfg l) 28

/-- A combination that Table LAN-2 marks reserved. -/
def modeReserved (s : State) (l : Nat) : Bool :=
  portRateCfg s l == 3 || (portRateCfg s l == 2 && portLanes s l == some 2)

/-- Light reaches a laser input from one of its two shares (R3, R31, R150, R154). -/
def shareLit (s : State) (bay ch : Nat) : Bool :=
  match s.bays.find? (·.1 == bay) with
  | some (_, b) => mapGet 0 b.target ch != 0 && !(reg64 s (aBay bay 0x38)).testBit ch
  | none => false
def inputLit (s : State) (g i : Nat) : Bool :=
  let h := g / 4
  let n := 8 * (g % 4) + i
  shareLit s h n || shareLit s ((h + 1) % 9) (32 + n)

/-- Every laser input of a port carries light. -/
def portLit (s : State) (l : Nat) : Bool :=
  (List.range ((portLanes s l).getD 0)).all fun k => inputLit s (l / 32) ((l + k) % 32 / 4)

/-- The lanes of a port transmit at 106.25 GBd (R133, R139). -/
def portFull (s : State) (l : Nat) : Bool :=
  let st := portState s l
  st != 0 && (portRateCfg s l == 1 || (isLadder s l && (st == 4 || rateNow s l == 2 || (getPort s l).full)))

/-- BRINGUP and TEST of a port, and TXCLK_FULL of its group, follow its state (R143, Table LAN-3). -/
def portFlags (s : State) (l : Nat) : State :=
  let st := portState s l
  let up := isLadder s l && (st == 2 || st == 4 || (st == 3 && !(getPort s l).finished))
  let s := setBit s (aPortState l) 20 up
  let s := setBit s (aPortState l) 19 ((portLanes s l).isSome && regF s (aPortCfg l) 27 26 != 0)
  setBit s (aLan (l / 32) 0x44) 0 ((headLanes s (l / 32)).any (portFull s))

-- Ainum sessions, as far as links end them (R390, R401).

def noAin : AinPort :=
  { pend := [], recent := [], idles := [], myNonce := none, peerNonce := none, txCtr := 0, rxCtr := none, linkKey := none, fails := [],
    exch := 0, t1 := none }
def getAin (s : State) (l : Nat) : AinPort := mapGet noAin s.ainum.ports l
def setAin (s : State) (l : Nat) (x : AinPort) : State :=
  { s with ainum := { s.ainum with ports := mapPut noAin s.ainum.ports l x } }
def aAinPort (l o : Nat) : Nat := aAin (0x10000 + 0x40 * l + o)

def ainPeer (s : State) (l : Nat) : Bool := regBit s (aPortState l) 25

/-- The session of a port ends (R390): AINUM_PEER clears; a peer that was found is lost, with source 0xB00. DEDUCED (log 29). -/
def endSession (s : State) (l : Nat) : State :=
  let x := getAin s l
  let had := ainPeer s l
  let s := setAin s l { x with peerNonce := none, txCtr := 0, rxCtr := none, linkKey := none, fails := [], t1 := none }
  let s := setF (setBit s (aPortState l) 25 false) (aAinPort l 4) 31 29 0
  whenB had (raise · 0xB00) s

/-- GO is done once its token has been sent wherever it is to go: BUSY clears with source 0xB04 (Table AIN-5). -/
def goSent (s : State) (l : Nat) : State :=
  let left := s.ainum.goLeft.filter (· != l)
  let s := { s with ainum := { s.ainum with goLeft := left } }
  if left.isEmpty && regBit s (aAin 0x34) 30 then raise (setBit s (aAin 0x34) 30 false) 0xB04 else s

/-- A link that ends takes its Ainum messages and session with it (R390, R401). -/
def ainumDown (s : State) (l : Nat) : State :=
  let s := endSession s l
  let s := setAin s l { getAin s l with pend := [], recent := [], idles := [] }
  goSent s l

-- Link states (R136, R141, R143).

/-- BRINGUP.LADDER sets once BRINGUP.CART is 1 and no enabled ladder port is unfinished (R141). -/
def ladderDone (s : State) : State :=
  if bringup s 9 && (enabledPorts s).all (fun l => !isLadder s l || (getPort s l).finished) then setBringup s 10 else s

/-- A port enters a state at a RATE_NOW, with its alignment bits: event 0 where it enters or leaves UP or UP_LADDER, and what
ends with the link (R341, R390); the fixed latencies follow the rate (R356). DEDUCED (log 26). -/
def enterState (s : State) (l st rate : Nat) (aligned : Bool) : State :=
  let before := carries s l
  let s := setF (setF s (aPortState l) 31 28 st) (aPortState l) 27 26 (if aligned then 3 else 0)
  let s := setF s (aPortState l) 22 21 rate
  let s := setLatency s l ((portLanes s l).getD 0) (if st = 4 then 2 else rate)
  let after := carries s l
  let s := whenB (before != after) (laneEvent · l 0) s
  let s := if before && !after then ainumDown (clearPauses s l) l else s
  portFlags s l

/-- Change what a port holds beside its registers. -/
def modPort (s : State) (l : Nat) (f : PortSt → PortSt) : State := setPort s l (f (getPort s l))

/-- The port enters UP or UP_LADDER at its rate (R139, R143): RECOVERY where it comes from a fault. -/
def enterUp (s : State) (l : Nat) : State :=
  let full := portRateCfg s l == 1 || (isLadder s l && (getPort s l).full)
  let rec_ := (getPort s l).fromFault
  let s := modPort s l fun x => { x with fromFault := false, finished := x.finished || (isLadder s l && full) }
  let s := setF s (aPortState l) 24 23 0
  let s := whenB rec_ (setBit · (aPortState l) 18 true) s
  enterState s l (if isLadder s l && !full then 3 else 5) (if full then 2 else 1) true

/-- The frames still arriving on a port end there: `f` says what becomes of one still in the ingress hold; the rest turn bad
under R286. DEDUCED (log 27). -/
def cutArriving (s : State) (l : Nat) (f : State → Packet → State) : State :=
  let mine := s.pipes.arriving.filter (·.port == l)
  let s := { s with pipes := { s.pipes with arriving := s.pipes.arriving.filter (·.port != l) } }
  forEach mine (fun s a =>
    let s := settleLength s a.id a.got.length
    match (mapGet [] s.pipes.hold (l / 32)).find? (·.id == a.id) with
    | some p => f { s with pipes := { s.pipes with hold := mapMod [] s.pipes.hold (l / 32) fun q => q.filter (·.id != a.id) } } p
    | none => badFrame s a.id 0x23) s

-- Configuration (R130 to R132).

/-- OCT_CFG_WRITE (R130, R132). DEDUCED (log 28). -/
def octCfgWrite (g o : Nat) (value : Word) (s : State) : State :=
  if decide (35 < g) || decide (3 < o) then s
  else holdWrite s (72 + g) (aLan g (4 * o)) value fun s =>
    let lanes := (List.range 8).map fun k => 32 * g + 8 * o + k
    if lanes.any (portEn s) then lanErr s (32 * g + 8 * o) 0
    else
      let s := setReg s (aLan g (4 * o)) (value &&& 0x7F)
      forEach lanes portFlags s

def execOctCfgWrite (g o : Nat) (value : Word) (s : State) : Host.Outcome State Fault Refusal := .next (octCfgWrite g o value s)

/-- PORT_CFG as a write makes it: reserved codes leave their field (R16). DEDUCED (log 22). -/
def portCfgNew (old value : Word) : Word :=
  let v := value &&& 0xFC003FFF
  let v := if fget v 30 29 = 3 then fset v 30 29 (fget old 30 29) else v
  let v := if fget v 27 26 = 3 then fset v 27 26 (fget old 27 26) else v
  if fget v 13 0 < 64 then fset v 13 0 (fget old 13 0) else v

/-- EN goes from 0 to 1 (R131, R139, R140): only in a head lane it acts. -/
def portUp (s : State) (l : Nat) : State :=
  let s := setBit s (aPortCfg l) 31 true
  if !(portLanes s l).isSome then s
  else if modeReserved s l then lanErr s l 1
  else
    let x := getPort s l
    let s := setPort s l { portSt0 with stepNo := x.stepNo, fromFault := !portLit s l, finishing := x.finishing }
    let s := setF s (aPortState l) 17 16 0
    enterState s l (if portLit s l then 2 else 1) 0 false

/-- EN goes from 1 to 0 (R142, R144): the frame being received is dropped and counted, the MAC finishes the frame that it sends, and
the port reaches DISABLED. DEDUCED (log 27). -/
def portDown (s : State) (l : Nat) : State :=
  let s := setBit s (aPortCfg l) 31 false
  if !(portLanes s l).isSome then s
  else
    let s := forEach (s.pipes.arriving.filter (·.port == l)) (fun s _ => ledgerAdd s (ldgPort l 8) 1 0) s
    let s := cutArriving s l fun s p => if p.octets.length ≤ 256 then s else dropPacket s (l / 32) 0x23 p p.tally
    let busy := carries s l && (headAt s.pipes.mac l).isSome
    let s := setPort s l { portSt0 with stepNo := (getPort s l).stepNo, finishing := busy }
    let s := setF (setBit s (aPortState l) 18 false) (aPortState l) 24 23 0
    ladderDone (enterState s l 0 0 false)

/-- A port that is enabled with queues that another enabled port of its group owns too: ERR.ALLOT_BAD (R329) and source
0x902 + 4g (R347). DEDUCED (log 25). -/
def noteClash (s : State) (l : Nat) : State :=
  if allotClash s l then raise (setBit s (aSch (l / 32) 0) 1 true) (0x902 + 4 * (l / 32)) else s

/-- PORT_CFG_WRITE (R132), and the change of EN that it carries (R139, R144). -/
def portCfgWrite (lane : Nat) (value : Word) (s : State) : State :=
  if decide (1151 < lane) then s
  else holdWrite s (72 + lane / 32) (aPortCfg lane) value fun s =>
    let old := reg s (aPortCfg lane)
    let new := portCfgNew old value
    let busy := old.getLsbD 31 || portState s lane != 0
    if busy && (new &&& 0x7FFFFFFF) != (old &&& 0x7FFFFFFF) then lanErr s lane 0
    else
      let s := portFlags (setReg s (aPortCfg lane) (fset new 31 31 (b2n (old.getLsbD 31)))) lane
      if new.getLsbD 31 && !old.getLsbD 31 then noteClash (portUp s lane) lane
      else if !new.getLsbD 31 && old.getLsbD 31 then portDown s lane
      else s

def execPortCfgWrite (lane : Nat) (value : Word) (s : State) : Host.Outcome State Fault Refusal := .next (portCfgWrite lane value s)

/-- PORT_ENABLE (R131, R139): a write of PORT_CFG that sets EN and nothing else. -/
def execPortEnable (lane : Nat) (s : State) : Host.Outcome State Fault Refusal :=
  .next (portCfgWrite lane (reg s (aPortCfg lane) ||| 0x80000000) s)

/-- PORT_DISABLE (R144): a write of PORT_CFG that clears EN and nothing else. -/
def execPortDisable (lane : Nat) (s : State) : Host.Outcome State Fault Refusal :=
  .next (portCfgWrite lane (reg s (aPortCfg lane) &&& 0x7FFFFFFF) s)

-- Acquisition and faults (R134, R136, R139, R143).

/-- The part drives the lanes of an enabled port: it is a head lane whose state is not DISABLED, its island out of reset. -/
def portLive (s : State) (l : Nat) : Bool := (portLanes s l).isSome && portState s l != 0 && !islandDown s (72 + l / 32)

/-- A port whose lanes may lock: an island reset of its lanes includes their relock (R49). -/
def portLocks (s : State) (l : Nat) : Bool :=
  (portLanes s l).isSome && portState s l == 2 && !s.top.inReset && !s.top.unfed.contains (72 + l / 32)

/-- PORT_ALIGNED (R49, R134, R139): the port enters UP_LADDER or UP; skew beyond 180 ns keeps it in ACQUIRE. DEDUCED (log 26). -/
def execPortAligned (port skewNs : Nat) (s : State) : Host.Outcome State Fault Refusal :=
  .next (if !portLocks s port then s
    else if 180 < skewNs then setF s (aPortState port) 7 0 (max (regF s (aPortState port) 7 0) (min 255 skewNs))
    else ladderDone (enterUp (setF s (aPortState port) 7 0 (min 255 skewNs)) port))

/-- The state in which a port looks for its rate after losing its signal: a ladder port at 200 Gbit/s comes back to UP (the example of
chapter 13). DEDUCED (log 26). -/
def loseLink (s : State) (l : Nat) : State :=
  let full := isLadder s l && rateNow s l == 2
  modPort s l fun x => { x with full := full, fromFault := true, finished := x.finished || full }

/-- The link of a port goes down to NO_SIGNAL or ACQUIRE (R143): alignment lost is event 5 (Table LAN-7). -/
def linkDown (s : State) (l : Nat) (gone : Bool) : State :=
  let aligned := regBit s (aPortState l) 27
  let s := setF (setBit (loseLink s l) (aPortState l) 18 false) (aPortState l) 24 23 0
  let s := enterState s l (if gone then 1 else 2) 0 false
  whenB aligned (laneEvent · l 5) s

/-- LOSS_OF_SIGNAL (R143): a lane loses its optical signal, or alignment is lost. A STEPPING port is not aligned, and its step
goes on unless the signal is gone. -/
def execLossOfSignal (lane : Nat) (signalGone : Bool) (s : State) : Host.Outcome State Fault Refusal :=
  .next (
    let l := portOf s lane
    let st := portState s l
    if decide (1151 < lane) || !portLive s l || st == 1 || (!signalGone && (st == 2 || st == 4)) then s
    else linkDown s l signalGone)

/-- SIGNAL_PRESENT (R143): a port in NO_SIGNAL whose laser inputs carry light moves to ACQUIRE. -/
def execSignalPresent (port : Nat) (s : State) : Host.Outcome State Fault Refusal :=
  .next (if portLive s port && portState s port == 1 && portLit s port then enterState s port 2 0 false else s)

/-- FAULT_RECEIVED (R136, R143): an aligned port that receives local or remote fault is in FAULT. DEDUCED (log 26). -/
def execFaultReceived (port : Nat) (localFault : Bool) (s : State) : Host.Outcome State Fault Refusal :=
  .next (
    let st := portState s port
    if !portLive s port || st == 1 then s
    else
      let s := setF s (aPortState port) 24 23 (if localFault then 2 else 1)
      if st = 4 then s
      else
        let full := portRateCfg s port == 1 || (isLadder s port && (getPort s port).full)
        let rate := if st = 2 then (if full then 2 else 1) else rateNow s port
        enterState (modPort (setBit s (aPortState port) 18 false) port fun x => { x with fromFault := true, full := isLadder s port && rate == 2 })
          port 6 rate true)

/-- FAULT_CLEARED (R136, R143): the port leaves FAULT for UP or UP_LADDER with RECOVERY set. -/
def execFaultCleared (port : Nat) (s : State) : Host.Outcome State Fault Refusal :=
  .next (if portLive s port && portState s port == 6 then ladderDone (enterUp s port)
    else if portLive s port && portState s port == 4 then setF s (aPortState port) 24 23 0 else s)

/-- RECOVERY_END (R143). -/
def execRecoveryEnd (port : Nat) (s : State) : Host.Outcome State Fault Refusal :=
  .next (if (portLanes s port).isSome then setBit s (aPortState port) 18 false else s)

/-- What the reconciliation sublayer of a port sends (R136). -/
inductive RsSends where
  | remoteFault | idles | frames
  deriving DecidableEq, Repr

def rsSends (s : State) (l : Nat) : RsSends :=
  if !regBit s (aPortState l) 27 || regBit s (aPortState l) 24 then .remoteFault
  else if regBit s (aPortState l) 23 then .idles else .frames

-- The ladder (R139 to R142, R392).

/-- A message waits to be sent, one of each TYPE (R389). -/
def queueMsg (s : State) (l : Nat) (m : AinMsg) : State :=
  let x := getAin s l
  setAin s l { x with pend := x.pend.filter (·.type != m.type) ++ [m] }

/-- A message whose check is formed when it is sent. -/
def mkMsg (type len arg payload : Nat) : AinMsg := { type := type, len := len, ctr := 0, arg := arg, payload := payload, check := 0, cut := false }

/-- The lanes of a port that run at 200 Gbit/s, as its HELLO declares them (Table AIN-2): all but those that the part was made
without. DESIGN CHOICE (log 89). -/
def ownCap (s : State) (l : Nat) : Nat :=
  ((List.range ((portLanes s l).getD 0)).filter fun k => !s.top.fuses.slowLanes.contains (l + k)).foldl (fun m k => m + 2 ^ k) 0

/-- Every lane of the port is capable of 200 Gbit/s at both ends (R139, R392). -/
def allCapable (s : State) (l : Nat) : Bool :=
  let n := (portLanes s l).getD 0
  regF s (aAinPort l 4) 7 0 % 2 ^ n == 2 ^ n - 1 && ownCap s l == 2 ^ n - 1

/-- The step instant (R139, R392): no frame starts from here on, and the fixed latencies are those of the new rate (R356). -/
def takeStep (s : State) (l : Nat) : State :=
  setLatency (modPort s l fun x => { x with stepTaken := true, proposed := none }) l ((portLanes s l).getD 0) 2

/-- A ladder port in UP_LADDER that has not finished, with nothing of a step under way. -/
def mayStep (s : State) (l : Nat) : Bool :=
  portLive s l && isLadder s l && portState s l == 3 && !(getPort s l).finished && !(getPort s l).stepTaken

/-- Firmware records how the ladder of a port has ended, and the equalisation of its lanes (Table ISL-14). DESIGN CHOICE (log 60). -/
def recordLadder (s : State) (l : Nat) : State :=
  jrnOwe s (.ladder l (getPort s l).full ((List.range ((portLanes s l).getD 0)).map fun k => reg s (aLane (l + k) 0x20)))

/-- The ladder ends short of 200 Gbit/s: the port holds UP_LADDER, event 2 (R140). -/
def holdLadder (s : State) (l : Nat) : State :=
  ladderDone (recordLadder (portFlags (laneEvent (modPort s l fun x => { x with finished := true, retry := false, proposed := none }) l 2) l) l)

/-- LADDER_STEP_PROPOSE (R139, R142, R392, Table CMB-3 o): the initiator proposes, unless the port is in a protected span. -/
def execLadderStepPropose (port : Nat) (s : State) : Host.Outcome State Fault Refusal :=
  .next (
    let x := getPort s port
    if mayStep s port && fwRuns s && ainumEn s port && ainPeer s port && allCapable s port && !x.retry && x.proposed.isNone
        && decide (s.top.fuses.selfId < reg64 s (aAinPort port 8)) && !regBit s (aSlot port 0) 29 then
      let n := x.stepNo % 256
      queueMsg (setPort s port { x with proposed := some n, stepNo := (n + 1) % 256 }) port (mkMsg 3 0 n 0)
    else s)

/-- STEP_TRANSMITTER_SWITCH (R139): the transmitters go to 106.25 GBd, and the stop in frames ends the peer (R390). DESIGN CHOICE (log 91). -/
def execStepTransmitterSwitch (port : Nat) (s : State) : Host.Outcome State Fault Refusal :=
  .next (if portLive s port && (getPort s port).stepTaken && portState s port == 3 then enterState s port 4 1 false else s)

/-- LADDER_STEP_SUCCESS (R139): UP at 200 Gbit/s per lane, event 1. RECOVERY is not set (R143). -/
def execLadderStepSuccess (port skewNs : Nat) (s : State) : Host.Outcome State Fault Refusal :=
  .next (if portLive s port && portState s port == 4 && decide (skewNs ≤ 180) && regF s (aPortState port) 24 23 == 0 then
      let s := modPort (setF s (aPortState port) 7 0 skewNs) port fun x =>
        { x with stepTaken := false, full := true, finished := true, fromFault := false }
      ladderDone (recordLadder (laneEvent (enterUp s port) port 1) port)
    else s)

/-- A try has failed (R140): STEP_TRIES counts, and after the third the port holds UP_LADDER. DEDUCED (log 26). -/
def tryFailed (s : State) (l : Nat) : State :=
  let n := min 3 (regF s (aPortState l) 17 16 + 1)
  let s := setF s (aPortState l) 17 16 n
  if n = 3 then holdLadder s l
  else modPort s l fun x => { x with retry := true, proposed := none }

/-- LADDER_STEP_FAIL (R140): both ends return to 53.125 GBd. -/
def execLadderStepFail (port : Nat) (s : State) : Host.Outcome State Fault Refusal :=
  .next (if portLive s port && (getPort s port).stepTaken then
      let st := portState s port
      let s := tryFailed (modPort s port fun x => { x with stepTaken := false, full := false }) port
      if st = 1 then s else enterState (setF s (aPortState port) 24 23 0) port 2 0 false
    else s)

/-- STEP_ACK_TIMEOUT (R392): a proposal without an answer is a failed try. While firmware does not run, negotiation waits (R142). -/
def execStepAckTimeout (port : Nat) (s : State) : Host.Outcome State Fault Refusal :=
  .next (if fwRuns s && mayStep s port && (getPort s port).proposed.isSome then tryFailed s port else s)

/-- LADDER_RETRY (R140, R142): the next try begins. -/
def execLadderRetry (port : Nat) (s : State) : Host.Outcome State Fault Refusal :=
  .next (if fwRuns s && (getPort s port).retry then modPort s port fun x => { x with retry := false } else s)

/-- LADDER_NO_PEER (R140, R142): no peer identity has arrived. -/
def execLadderNoPeer (port : Nat) (s : State) : Host.Outcome State Fault Refusal :=
  .next (if fwRuns s && mayStep s port && !ainPeer s port then holdLadder s port else s)

-- FEC (R135).

/-- FEC_DEGRADE (R135): the symbols and codewords that a lane's 1 ms held count in the port's head lane's set (R148), and event 4 sets
where the symbols pass LAN.FEC_DEGRADE. A codeword is corrected where a symbol of it was. -/
def execFecDegrade (lane symbols words : Nat) (s : State) : Host.Outcome State Fault Refusal :=
  .next (
    let l := portOf s lane
    if decide (1151 < lane) || !portLive s l || portState s l == 1 then s
    else
      let s := add64 (add64 s (aLane l 0x50) symbols) (aLane l 0x40) (min words symbols)
      let most := regF s (aLan (lane / 32) 0xC0) 23 0
      if most != 0 && decide (most < symbols) then laneEvent s lane 4 else s)

/-- UNCORRECTABLE_CODEWORD (R135, Table LAN-7). -/
def execUncorrectableCodeword (lane : Nat) (s : State) : Host.Outcome State Fault Refusal :=
  .next (
    let l := portOf s lane
    if decide (1151 < lane) || !portLive s l || portState s l == 1 then s
    else laneEvent (add64 s (aLane l 0x48) 1) l 5)

-- Equalisation (R145 to R147, Table LAN-6).

/-- Byte n of an EQ register as a value: DFE1 is signed. -/
def eqByte (w : Word) (n : Nat) : Int :=
  let b := fget w (8 * n + 7) (8 * n)
  if n = 1 then toSigned 8 b else (b : Int)

/-- The hardware limit of a parameter (Table LAN-6). -/
def eqClamp (n : Nat) (v : Int) : Int := if n = 3 then min v 13 else v

/-- Where a parameter's range is a single value: pinned, or its bounds crossed. -/
def eqPinned (s : State) (l n : Nat) : Option Int :=
  if regBit s (aLane l 0x1C) n then some (eqClamp n (eqByte (reg s (aLane l 0x18)) n))
  else
    let lo := eqClamp n (eqByte (reg s (aLane l 0x10)) n)
    let hi := eqClamp n (eqByte (reg s (aLane l 0x14)) n)
    if hi < lo ∨ eqByte (reg s (aLane l 0x14)) n < eqByte (reg s (aLane l 0x10)) n then some hi else none

/-- The effective range of a parameter that is not pinned. -/
def eqRange (s : State) (l n : Nat) : Int × Int :=
  (eqClamp n (eqByte (reg s (aLane l 0x10)) n), eqClamp n (eqByte (reg s (aLane l 0x14)) n))

def eqFrozen (s : State) (l : Nat) : Bool := regBit s (aLane l 0x1C) 8

/-- The value of a parameter after one step: at most one code toward its aim. -/
def eqStep (s : State) (l n : Nat) (want : Word) : Int :=
  let now := eqByte (reg s (aLane l 0x20)) n
  let aim := match eqPinned s l n with
    | some p => p
    | none => let r := eqRange s l n; max r.1 (min r.2 (eqByte want n))
  if eqFrozen s l then now else if now < aim then now + 1 else if aim < now then now - 1 else now

/-- EQ_LOOP_STEP (R145, R146). -/
def execEqLoopStep (lane : Nat) (want : Word) (s : State) : Host.Outcome State Fault Refusal :=
  .next (if decide (1151 < lane) || islandDown s (72 + lane / 32) then s
    else forEach (List.range 4) (fun t n => setF t (aLane lane 0x20) (8 * n + 7) (8 * n) (ofSigned 8 (eqStep s lane n want))) s)

/-- A wanted value lies outside the bounds, or 2 codes or more from the value at which a pin or a freeze holds it (R147): the hardware
limit alone raises nothing, and crossed bounds are a pin. -/
def eqConflict (s : State) (l n : Nat) (want : Word) : Bool :=
  let w := eqClamp n (eqByte want n)
  let far := fun v : Int => decide (2 ≤ w - v ∨ 2 ≤ v - w)
  let r := eqRange s l n
  let crossed := decide (r.2 < r.1) || decide (eqByte (reg s (aLane l 0x14)) n < eqByte (reg s (aLane l 0x10)) n)
  (!crossed && decide (w < r.1 ∨ r.2 < w)) ||
  (if eqFrozen s l then far (eqByte (reg s (aLane l 0x20)) n) else (eqPinned s l n).any far)

/-- Key of a lane's interval of 100 ms. -/
def laneKey (l : Nat) : Nat := 0x10000 + l

/-- EQ_POLICY_CONFLICT (R147): at most once per 100 ms for a lane. -/
def execEqPolicyConflict (lane : Nat) (want : Word) (s : State) : Host.Outcome State Fault Refusal :=
  .next (if decide (1151 < lane) || !(List.range 4).any (fun n => eqConflict s lane n want)
        || !intervalOver s (laneKey lane) 100000000 then s
    else laneEvent (setReg (noteInterval s (laneKey lane)) (aLane lane 0x24) want) lane 3)

end Sys2Proof.Machine
end

