-- ==== Sys2Proof/Machine/Security.lean ====
section
/-!
DEFINITION. The Cashbox: key slots and epochs, context 0, signed images, patches, firmware updates and life-cycle
requests (chapter 20, R125 and R126).
-/
namespace Sys2Proof.Machine

def noKey : KeySlot := { key := none, usage := 0, gen := 0 }
def getSlot (s : State) (k : Nat) : KeySlot := mapGet noKey s.sec.slots k

/-- The LEN code of a key (Table SEC-8). -/
def lenCode (n : Nat) : Nat := if n = 16 then 0 else if n = 24 then 1 else 2

/-- Write a slot: GENERATION rises by one (R467), and SLOT_STATUS follows. -/
def putSlot (s : State) (k : Nat) (key : Option (List Byte)) (usage : BitVec 4) : State :=
  let gen := ((getSlot s k).gen + 1) % 65536
  let s := { s with sec := { s.sec with slots := mapPut noKey s.sec.slots k { key := key, usage := usage, gen := gen } } }
  setReg s (aSec (0x10 + 4 * k)) (BitVec.ofNat 32 (match key with
    | some b => 2 ^ 31 + usage.toNat * 2 ^ 24 + lenCode b.length * 2 ^ 22 + gen
    | none => gen))

/-- The key of a slot whose usage covers bit `u`. -/
def slotKey (s : State) (k u : Nat) : Option (List Byte) :=
  if (getSlot s k).usage.getLsbD u then (getSlot s k).key else none

/-- The wipe of every slot (R468). -/
def wipeSlots (s : State) : State :=
  let s := forEach (s.sec.slots.map (·.1)) (fun s k => setF s (aSec (0x10 + 4 * k)) 31 16 0) s
  let slots := s.sec.slots.foldl (fun m x => mapPut noKey m x.1 { key := none, usage := 0, gen := x.2.gen }) s.sec.slots
  setBit { s with sec := { s.sec with slots := slots } } (aSec 0) 30 false

/-- The key that opens the provisioning blob, slot 4. -/
def slot4 (s : State) : List Byte := ((getSlot s 4).key).getD []

/-- TRNG_OK reads 1 (R465). -/
def trngUp (s : State) : Bool := regBit s (aSec 0) 31

/-- A key epoch starts (R468, Table SEC-1): the Cashbox refills slots 0 to 4; context 0 counts from zero (R473). The random bits of slot 3
wait for a sound random source (R465): entry 4,096 of those that wait. DEDUCED (log 61). -/
def keyEpoch (s : State) : State :=
  match s.sec.epochDue with
    | none => s
    | some island =>
      if !bringup s 0 || islandDown s 128 then s
      else if !trngUp s then { s with sec := { s.sec with rngWait := addOnce s.sec.rngWait 4096 } }
      else
        let lcs := s.top.fuses.lcs
        let s := wipeSlots s
        let s := if lcs == .provisioned || lcs == .operational then
            (match s.top.fuses.ownerKek with | some k => putSlot s 0 (some k) 1 | none => s) else s
        let s := if lcs == .retired then s else
            putSlot (putSlot s 1 (some (sealKey s)) 0)
              2 (some Config.cartMasterKey) 0
        let s := putSlot (drawn s) 3 (some (Config.random 32 s.freeCtr)) 8
        let s := if lcs == .retired then s else putSlot s 4 (some (Config.derive Config.rootKey [4])) 0
        let s := { s with sec := { s.sec with epochDue := none, ctx0 := { s.sec.ctx0 with counter := 0 } } }
        let s := setBit (setReg64 s (aSec 0x308) 0) (aSec 0) 30 true
        jrnFlush (whenB island (raise · 0xD03) s)

/-- A key is refused for the purpose that names its slot (R470): source 0xD04, at most once per 1 ms. -/
def keyRefused (s : State) : State := raiseLimited s 0xD04 1000000

/-- A life-cycle state in which KEY_UNWRAP is permitted (Table SEC-4). -/
def unwrapPermitted (s : State) : Bool := s.top.fuses.lcs == .provisioned || s.top.fuses.lcs == .operational

/-- KEY_UNWRAP (R469, R470): a host slot as DST; the KEK from slot 0 or a host slot with usage KEK. -/
def doKeyUnwrap (c : HostCmd) (s : State) : State :=
  let dst := argN c 0 1
  let kek := argN c 1 1
  let flags := argN c 2 1
  let usage := argN c 3 1 % 16
  if !unwrapPermitted s then complete s c stNotPermitted
  else if decide (dst < 16 ∨ 63 < dst) then complete s c stBadArg
  else if flags.testBit 1 then
    let s := putSlot s dst none 0
    complete s c stOk (bytesLE 2 (getSlot s dst).gen)
  else
    let key := if kek = 0 ∨ (16 ≤ kek ∧ kek ≤ 63) then slotKey s kek 0 else none
    match key with
    | none => complete (keyRefused s) c stBadArg
    | some k =>
      if usage = 0 || !(c.dataLen == 24 || c.dataLen == 32 || c.dataLen == 40) then complete s c stBadArg
      else match Config.unwrap (flags % 2) k (sliceZ c.data 0 c.dataLen) with
        | none => complete (raise (secCount s 3) 0xD01) c stAuthFail
        | some b =>
          if b.length + 8 ≠ c.dataLen then complete (raise (secCount s 3) 0xD01) c stAuthFail
          else
            let s := secCount (putSlot s dst (some b) (BitVec.ofNat 4 usage)) 2
            complete s c stOk (bytesLE 2 (getSlot s dst).gen)

/-- KEY_UNWRAP (R469). -/
def execKeyUnwrap (cmd : HostCmd) (s : State) : Host.Outcome State Fault Refusal :=
  .next (runCmd s cmd .keyUnwrap (doKeyUnwrap cmd))

/-- KEY_ERASE (R469): KEY_UNWRAP with ERASE set. -/
def execKeyErase (cmd : HostCmd) (s : State) : Host.Outcome State Fault Refusal :=
  .next (runCmd s cmd .keyErase (doKeyUnwrap cmd))

-- Context 0 (R471 to R473).

/-- The clear record of context 0 (Table SEC-3). -/
def ctxRecord (s : State) : List Byte :=
  let x := s.sec.ctx0
  bytesLE 4 0x54435843 ++ [0] ++ bytesLE 1 x.slot ++ bytesLE 2 (getSlot s x.slot).gen ++ bytesLE 8 x.counter
  ++ bytesLE 16 x.ghash ++ bytesLE 8 x.aadBits ++ bytesLE 8 x.textBits ++ bytesLE 16 x.partialBlock
  ++ bytesLE 1 x.partialLen ++ List.replicate 63 0

/-- CTX and FORM are defined and DATA_LEN is the record's length (R471). -/
def ctxArgsOk (c : HostCmd) : Bool :=
  argN c 0 1 == 0 && ((argN c 1 1 == 0 && c.dataLen == 128) || (argN c 1 1 == 1 && c.dataLen == 136))

/-- The wrapping key: slot 3 or a host slot with usage CTX_WRAP. -/
def wrapKey (s : State) (c : HostCmd) : Option (List Byte) :=
  let k := argN c 2 1
  if k = 3 ∨ (16 ≤ k ∧ k ≤ 63) then slotKey s k 3 else none

/-- CTX_SAVE (R470 to R472). -/
def doCtxSave (c : HostCmd) (s : State) : State :=
  if s.top.fuses.lcs == .retired then complete s c stNotPermitted
  else if !ctxArgsOk c then complete s c stBadArg
  else if argN c 1 1 = 0 then completeData s c stOk [] (ctxRecord s)
  else match wrapKey s c with
    | none => complete (keyRefused s) c stBadArg
    | some k => completeData s c stOk [] (Config.wrap k (ctxRecord s))

/-- Context 0 is idle: EXPORT_CFG.EN = 0 with no message open (R472). -/
def ctxIdle (s : State) : Bool := !regBit s (aTal 0x20) 31 && s.telem.openMsg.isEmpty && s.telem.closed.isEmpty

/-- Load a clear record (R472): every field as saved. -/
def ctxLoad (b : List Byte) : Ctx0 :=
  { slot := leAt b 5 1, gen := leAt b 6 2, counter := leAt b 8 8, ghash := leAt b 16 16, aadBits := leAt b 32 8,
    textBits := leAt b 40 8, partialBlock := leAt b 48 16, partialLen := leAt b 64 1 }

/-- CTX_RESTORE (R470 to R472) on an idle context. -/
def ctxRestoreNow (c : HostCmd) (s : State) : State :=
  let s := { s with sec := { s.sec with waiting := s.sec.waiting.filter fun x => cmdKey x != cmdKey c } }
  let data := sliceZ c.data 0 c.dataLen
  let clear := if argN c 1 1 = 0 then some data else (wrapKey s c).bind fun k => Config.unwrap 0 k data
  if argN c 1 1 = 1 ∧ (wrapKey s c).isNone then complete (keyRefused s) c stBadArg
  else match clear with
    | none => complete s c stAuthFail
    | some b =>
      if leAt b 0 4 ≠ 0x54435843 ∨ leAt b 4 1 ≠ 0 then complete s c stAuthFail
      else if (slotKey s (leAt b 5 1) 2).isNone then complete (keyRefused s) c stBadArg
      else
        let x := ctxLoad b
        let s := { s with sec := { s.sec with ctx0 := x } }
        complete (setF (setReg64 s (aSec 0x308) x.counter) (aSec 0x300) 23 0 (x.slot % 256 * 65536 + x.gen)) c stOk

def doCtxRestore (c : HostCmd) (s : State) : State :=
  if s.top.fuses.lcs == .retired then complete s c stNotPermitted
  else if !ctxArgsOk c then complete s c stBadArg
  else if ctxIdle s then ctxRestoreNow c s
  else if s.sec.waiting.any fun x => cmdKey x == cmdKey c then s
  else setPhase { s with sec := { s.sec with waiting := s.sec.waiting ++ [c] } } c .held

/-- Context 0 may have become idle: CTX0_STATUS.IDLE follows, and a waiting CTX_RESTORE goes on (R472). DEDUCED (log 61). -/
def ctxPoll (s : State) : State :=
  let s := setBit s (aSec 0x300) 31 (ctxIdle s)
  if ctxIdle s then forEach s.sec.waiting (fun s c => ctxRestoreNow c s) s else s

/-- CTX_SAVE (R471, R472). -/
def execCtxSave (cmd : HostCmd) (s : State) : Host.Outcome State Fault Refusal :=
  .next (runCmd s cmd .ctxSave (doCtxSave cmd))

/-- CTX_RESTORE (R471, R472); held until the context is idle. -/
def execCtxRestore (cmd : HostCmd) (s : State) : Host.Outcome State Fault Refusal :=
  .next (runCmd s cmd .ctxRestore (doCtxRestore cmd))

-- The random source (R465).

/-- TRNG_FAIL (R465). DEDUCED (log 61). -/
def execTrngFail (s : State) : Host.Outcome State Fault Refusal :=
  .next (if trngUp s && !islandHeld s 128 then raise (setBit s (aSec 0) 31 false) 0xD02 else s)

-- Signed images (R477).

/-- The header and body that the signature covers (Table SEC-6). -/
def imageOctets (m : Image) : List Byte :=
  sliceZ (bytesLE 4 m.magic ++ bytesLE 1 m.kind ++ bytesLE 1 m.keyId ++ bytesLE 1 m.svn ++ bytesLE 1 m.rev ++ bytesLE 4 m.length
    ++ bytesLE 2 m.level ++ bytesLE 2 m.engines) 0 128 ++ m.body

/-- Everything but the revision: MAGIC, KIND, the key not revoked, the length and the signature. -/
def imageSigned (s : State) (kind : Nat) (m : Image) : Bool :=
  m.magic == 0x4B594E44 && m.kind == kind && decide (m.keyId < 4) && !s.top.fuses.kRevoke.getLsbD m.keyId
  && m.length == m.body.length && decide (m.length ≤ if kind = 2 then 262144 else 1048576)
  && Config.verify (Config.kyndoselKey m.keyId) (imageOctets m) m.signature

/-- TOP.ID bits [11:4]. -/
def siliconRev (s : State) : Nat := regF s 0 11 4

/-- An image verifies for its use (R477). -/
def imageOk (s : State) (kind : Nat) (m : Image) : Bool := imageSigned s kind m && m.rev == siliconRev s

/-- A signature check is counted; a failed one raises source 0xD00 (Table SEC-9). -/
def sigCount (s : State) (ok : Bool) : State := if ok then secCount s 4 else raise (secCount s 5) 0xD00

/-- In OPERATIONAL, a floor rises to an SVN with source 0xD05 (R480). -/
def raiseFwFloor (s : State) (svn : Nat) : State :=
  if s.top.fuses.lcs == .operational && decide (s.top.fuses.fwFloor < svn) then
    raise (setF { s with top := { s.top with fuses := { s.top.fuses with fwFloor := svn } } } (aSec 0) 5 0 svn) 0xD05
  else s
def raisePatchFloor (s : State) (svn : Nat) : State :=
  if s.top.fuses.lcs == .operational && decide (s.top.fuses.patchFloor < svn) then
    raise (setF { s with top := { s.top with fuses := { s.top.fuses with patchFloor := svn } } } (aSec 0) 13 8 svn) 0xD05
  else s

/-- The status of PATCH_LOAD (R125, R477, R480). The blob is judged as read; a DATA_LEN that differs from its length changes nothing: DESIGN CHOICE
(log 95). -/
def patchStatus (s : State) (m : Image) : Nat :=
  if s.top.fuses.lcs == .retired then stNotPermitted
  else if !imageSigned s 2 m then stAuthFail
  else if m.rev ≠ siliconRev s ∨ m.level ≤ patchLevel s then stBadArg
  else if m.svn < s.top.fuses.patchFloor then stBadArg
  else stOk

/-- PATCH_LOAD (R125, R126 steps 1 and 2): a core takes it; with PERSIST the flash patch area is written. -/
def doPatchLoad (m : Image) (c : HostCmd) (s : State) : State :=
  if s.prg.patch.isSome then setPhase s c .held
  else
    let st := patchStatus s m
    let s := if st = stNotPermitted then s else sigCount s (st ≠ stAuthFail)
    if st ≠ stOk then complete s c st
    else
      let s := if argN c 0 1 % 2 = 1 then
          { s with top := { s.top with flash := { s.top.flash with patch := some m, sound := addOnce s.top.flash.sound 3 } } }
        else s
      setPhase { s with prg := { s.prg with patch := some { cmd := c, image := m } } } c .taken

/-- PATCH_LOAD (R125, R126). -/
def execPatchLoad (cmd : HostCmd) (image : Image) (s : State) : Host.Outcome State Fault Refusal :=
  .next (runCmd s cmd .patchLoad (doPatchLoad image cmd))

/-- PATCH_SWITCH_POINT (R126): the engines take the patch, the command completes with the new level, and source 0x207. -/
def execPatchSwitchPoint (s : State) : Host.Outcome State Fault Refusal :=
  .next (match s.prg.patch with
    | none => s
    | some j =>
      if !fwRuns s then s
      else
        let s := { s with prg := { s.prg with patch := none, patchInForce := some j.image } }
        raisePatchFloor (raise (complete s j.cmd stOk (bytesLE 2 j.image.level)) 0x207) j.image.svn)

/-- The slot that firmware does not run from takes an image (R479 step 2): sound once it has been read back. -/
def writeSlot (s : State) (image : Image) (sound : Bool) : State :=
  let f := s.top.flash
  let n := if s.top.running = 0 then 1 else 0
  let marks := if sound then addOnce f.sound n else f.sound.filter (· != n)
  let flash := if n = 1 then { f with slotB := some image, sound := marks } else { f with slotA := some image, sound := marks }
  { s with top := { s.top with flash := flash } }

/-- FW_UPDATE (R479): verified, written to the slot that does not run, answered; with ACTIVATE a control reset is due. LEN and
ACTIVATE stand in the request area; a LEN that differs from the image's own length changes nothing: DESIGN CHOICE (log 95). With `cut` a
reset or a power loss comes while the slot is written. -/
def execFwUpdate (image : Image) (cut : Bool) (s : State) : Host.Outcome State Fault Refusal :=
  .next (match mailServed s with
    | none => s
    | some m =>
      let len := leAt m.area 16 4
      let activate := (leAt m.area 20 1).testBit 0
      if m.code ≠ 2 || !fwRuns s then s
      else if mailBad m then mailRespond s stBadArg []
      else if s.top.fuses.lcs == .retired then mailRespond s stNotPermitted []
      else if 128 + 1048576 + 96 < len then mailRespond s stBadArg []
      else if !imageOk s 0 image then mailRespond (sigCount s false) stAuthFail []
      else
        let s := sigCount s true
        if s.top.fuses.lcs == .operational && decide (image.svn < s.top.fuses.fwFloor) then mailRespond s stBadArg []
        else
          let s := writeSlot s image (!cut)
          if cut then s
          else mailRespond { s with top := { s.top with controlDue := activate || s.top.controlDue } } stOk [])

-- Life-cycle requests (R482).

/-- The state that a code names. -/
def lcsOf (n : Nat) : Option LcState :=
  match n with | 0 => some .blank | 1 => some .provisioned | 2 => some .operational | 3 => some .debug | 4 => some .retired | _ => none

/-- The permitted transitions (R56). -/
def lcsStep : LcState → LcState → Bool
  | .blank, .provisioned => true
  | .provisioned, .operational => true
  | .blank, .debug | .provisioned, .debug | .operational, .debug => true
  | .blank, .retired | .provisioned, .retired | .operational, .retired | .debug, .retired => true
  | _, _ => false

/-- The signer that Table SEC-7 allows: SIGNER 0 Kyndosel, 1 the owner. -/
def signerOk (s : State) (dest : LcState) (signer : Nat) : Bool :=
  let owned := s.top.fuses.ownerHash.isSome
  match dest with
  | .provisioned => signer == 0
  | .operational => signer == 1
  | .debug => signer == 0 || (isE1 s && owned)
  | .retired => signer == (if owned then 1 else 0)
  | .blank => false

/-- Check 3 of R482: SELF_ID, the signer, the owner's key and the signature; the last is told apart. -/
def blobId (s : State) (b : List Byte) : Bool := leAt b 8 8 == s.top.fuses.selfId
def ownerKeyOk (s : State) (b : List Byte) : Bool :=
  leAt b 6 1 != 1 || s.top.fuses.ownerHash == some (Config.sha384 (sliceZ b 16 96))
def blobSig (s : State) (b : List Byte) : Bool :=
  let msg := sliceZ b 0 144
  let sig := sliceZ b 144 96
  if leAt b 6 1 = 0 then
    !s.top.fuses.kRevoke.getLsbD (leAt b 7 1) && Config.verify (Config.kyndoselKey (leAt b 7 1)) msg sig
  else Config.verify (sliceZ b 16 96) msg sig

/-- The job of an accepted transition: what its fuses will hold (Table SEC-7). -/
def lcsJobOf (s : State) (dest : LcState) (b : List Byte) : Option LcsJob :=
  match dest with
  | .provisioned =>
    match Config.unwrap 1 (slot4 s) (sliceZ b 64 40) with
    | some k => some { target := dest, rma := false, ownerHash := some (sliceZ b 16 48), ownerKek := some k }
    | none => none
  | _ => some { target := dest, rma := dest == .debug && !isE1 s, ownerHash := none, ownerKek := none }

/-- The request is malformed (check 1 of R482). DEDUCED (log 56). -/
def lcsMalformed (target blobLen : Nat) (b : List Byte) : Bool :=
  blobLen != 240 || leAt b 0 4 != 0x4C435342 || target % 8 != leAt b 5 1 || (lcsOf (target % 8)).isNone
  || (lcsOf (leAt b 4 1)).isNone || (lcsOf (leAt b 5 1)).isNone || decide (1 < leAt b 6 1)
  || (leAt b 6 1 == 0 && decide (3 < leAt b 7 1))

/-- The response of an LCS_CHANGE request (R8, R56, R57, R482): checked in order; an accepted transition posts OK and begins 10 ms
later. DEDUCED (log 56). -/
def lcsAnswer (s : State) (m : MailReq) : State :=
  let blob := sliceZ m.area 16 240
  if lcsMalformed (leAt m.area 8 1) (leAt m.area 12 2) blob then mailRespond s stBadArg []
  else match lcsOf (leAt blob 5 1) with
    | none => mailRespond s stBadArg []
    | some dest =>
      if leAt blob 4 1 ≠ lcsCode s.top.fuses.lcs || !lcsStep s.top.fuses.lcs dest
          || (dest == .debug && !isE1 s && leAt blob 6 1 == 1) then mailRespond s stNotPermitted []
      else if !blobId s blob || !signerOk s dest (leAt blob 6 1) || !ownerKeyOk s blob then mailRespond s stAuthFail []
      else if !blobSig s blob then mailRespond (sigCount s false) stAuthFail []
      else
        let s := sigCount s true
        match lcsJobOf s dest blob with
        | none => mailRespond s stAuthFail []
        | some j => mailRespond { s with top := { s.top with lcsJob := some (s.top.lcsJob.getD j) } } stOk []

/-- LCS_CHANGE (R482): the request is checked and answered. DEDUCED (log 56). -/
def execLcsChange (s : State) : Host.Outcome State Fault Refusal :=
  .next (match mailServed s with
    | none => s
    | some m =>
      if m.code ≠ 1 || !fwRuns s then s
      else if mailBad m then mailRespond s stBadArg []
      else lcsAnswer s m)

/-- MAILBOX_RESPONSE (R96, R98): firmware writes the response of the request that it serves. A reserved CODE or LEN gives BAD_ARG; the
response of an FW_UPDATE comes with its own row, which brings the image that firmware read. DESIGN CHOICE (log 84). -/
def execMailboxResponse (s : State) : Host.Outcome State Fault Refusal :=
  .next (match mailServed s with
    | none => s
    | some m =>
      if !fwRuns s then s
      else if mailBad m then mailRespond s stBadArg []
      else if m.code = 1 then lcsAnswer s m
      else s)

end Sys2Proof.Machine
end

