-- ==== Sys2Proof/Machine/Ainum.lean ====
section
/-!
DEFINITION. Ainum: blocks and messages, neighbours and authentication, the ladder's messages, time exchanges, tokens and
cap notices (chapter 16).
-/
namespace Sys2Proof.Machine

-- Blocks and checks (R383, R388, R391).

/-- The 66 bits of an Ainum block: sync header 0b10, type 0x4B, 24 payload bits, O-code 0xA, 28 zero bits (R383). -/
def ainBlock (payload : Nat) : Nat := 0b10 * 2 ^ 64 + 0x4B * 2 ^ 56 + payload % 2 ^ 24 * 2 ^ 32 + 0xA * 2 ^ 28

/-- The head block of a message (Table AIN-1). -/
def ainHead (m : AinMsg) : Nat := m.type % 16 * 2 ^ 20 + m.len % 16 * 2 ^ 16 + m.ctr % 256 * 2 ^ 8 + m.arg % 256

/-- CRC-24 of RFC 4880, initial value 0xB704CE, over head and payload (R388). -/
def ainCrc (m : AinMsg) : Nat := crcMsb 24 0x864CFB (msbBits 24 (ainHead m ^^^ 0xB704CE) ++ msbBits (24 * m.len) m.payload)

/-- The 64-bit tag followed by eight zero bits (R388, R391). -/
def ainTag (key : List Byte) (dir : Bool) (ctr : Nat) (m : AinMsg) : Nat :=
  beNat ((Config.gcmTag key (bytesBE 12 (b2n dir * 2 ^ 95 + ctr)) (bytesBE 3 (ainHead m) ++ bytesBE (3 * m.len) m.payload) []).take 8) * 256

def ainAuth (s : State) : Bool := regBit s (aAin 0) 31
def ainCount (s : State) (k : Nat) : State := add64 s (aAin (0x100 + 8 * k)) 1
def ainRole (s : State) (l : Nat) : Nat := regF s (aAinPort l 0) 31 30
def peerId (s : State) (l : Nat) : Nat := reg64 s (aAinPort l 8)
def looped (s : State) (l : Nat) : Bool := regBit s (aAinPort l 4) 30

/-- This end has the lower SELF_ID. -/
def selfLower (s : State) (l : Nat) : Bool := decide (s.top.fuses.selfId < peerId s l)

/-- A port sends and takes Ainum blocks (R384, R386). -/
def ainLive (s : State) (l : Nat) : Bool :=
  (portLanes s l).isSome && carries s l && ainumEn s l && !islandDown s (72 + l / 32)

/-- Ports that have a peer. DEDUCED (log 30). -/
def peerPorts (s : State) : List Nat := (enabledPorts s).filter fun l => ainLive s l && ainPeer s l && !looped s l

-- Messages (R387 to R389).

/-- The urgent class. -/
def ainUrgent (t : Nat) : Bool := t == 2 || t == 3 || t == 4 || t == 7 || t == 8

/-- LEN of a TYPE; none where the TYPE is reserved (Table AIN-2). -/
def ainLen (t : Nat) : Option Nat :=
  match t with
  | 1 => some 6 | 2 => some 0 | 3 => some 0 | 4 => some 0 | 5 => some 4 | 6 => some 8 | 7 => some 5 | 8 => some 3 | _ => none

/-- Blocks of a message as sent. -/
def ainBlocks (s : State) (m : AinMsg) : Nat := 1 + m.len + (if ainAuth s && m.type != 1 then 3 else 1)

/-- A pending message can be sent: with AUTH = 1 it needs a session, a LOOPED port sends no TOKEN, STEP or TIME message, and a step
waits while firmware does not run (R142). -/
def ainSendable (s : State) (l : Nat) (m : AinMsg) : Bool :=
  (fwRuns s || !(m.type == 3 || m.type == 4)) &&
  (m.type == 1 || !ainAuth s || (getAin s l).linkKey.isSome) &&
  !(looped s l && (m.type == 3 || m.type == 4 || m.type == 5 || m.type == 6 || m.type == 7))

/-- A port after `idle` blocks that stayed idle; blocks that passed 1 ms ago count no more (R387). -/
def ainIdle (s : State) (l idle : Nat) : AinPort :=
  let x := getAin s l
  { x with
    recent := (List.replicate (min 64 idle) false ++ x.recent).take 64
    idles := (s.elapsed, idle, 0) :: x.idles.filter fun e => decide (s.elapsed < e.1 + 1000000) }

/-- A port that has sent `n` blocks of a message at once. -/
def ainUsed (s : State) (x : AinPort) (n : Nat) (background : Bool) : AinPort :=
  { x with
    recent := (List.replicate n background ++ x.recent).take 64
    idles := (s.elapsed, 0, n) :: x.idles }

/-- With `n` blocks more, Ainum has no more than half of the idle blocks of the last 1 ms (R387). DEDUCED (log 31). -/
def ainHalf (x : AinPort) (n : Nat) : Bool :=
  decide ((x.idles.map (·.2.2)).sum + n ≤ (x.idles.map (·.2.1)).sum)

/-- The message that starts in a free block: a TOKEN, the oldest other urgent message, the oldest background message that R387
lets start. -/
def ainNext (s : State) (l : Nat) (x : AinPort) : Option AinMsg :=
  let p := x.pend.filter fun m => ainSendable s l m && ainHalf x (ainBlocks s m)
  let fits := fun m : AinMsg => decide ((x.recent.filter id).length + ainBlocks s m ≤ 16)
  (p.find? (·.type == 7)).or ((p.find? fun m => ainUrgent m.type).or (p.find? fun m => !ainUrgent m.type && fits m))

-- Authentication (R390, R391, R470).

/-- The link key of a session: two derivations from the fabric key over the nonces, the lower end's first (R391). -/
def ainLinkKey (fabric : List Byte) (lo hi : Nat) : List Byte :=
  Config.derive fabric (bytesBE 8 lo ++ bytesBE 8 hi) ++ Config.derive fabric (bytesBE 8 hi ++ bytesBE 8 lo)

/-- With AUTH = 1, once each nonce is known and the peer is not found in a session, the session's key is derived and CONFIRM is queued; a key
slot that cannot serve raises source 0xD04 (R390, R391, R470). DEDUCED (log 29). -/
def tryConfirm (s : State) (l : Nat) : State :=
  let x := getAin s l
  match x.myNonce, x.peerNonce with
  | some mine, some theirs =>
    if !ainAuth s || (ainPeer s l && x.linkKey.isSome) then s
    else match slotKey s (regF s (aAin 0) 7 0) 1 with
      | none => keyRefused s
      | some k =>
        let key := if selfLower s l then ainLinkKey k mine theirs else ainLinkKey k theirs mine
        queueMsg (setAin s l { x with linkKey := some key, txCtr := 0, rxCtr := none, fails := [] }) l (mkMsg 2 0 0 0)
  | _, _ => s

/-- An authentication failure (R391): counted, source 0xB01; sixteen within 1 s end the session. -/
def ainAuthFail (s : State) (l : Nat) : State :=
  let s := raiseLimited (secCount (ainCount s 3) 1) 0xB01 1000000
  let x := getAin s l
  let f := s.elapsed :: x.fails.filter fun t => decide (s.elapsed < t + 1000000000)
  let s := setAin s l { x with fails := f }
  if 16 ≤ f.length then endSession s l else s

/-- The least counter above the last accepted one whose low 8 bits are CTR (R391). -/
def ainCounter (x : AinPort) (ctr : Nat) : Nat :=
  let base := match x.rxCtr with | some n => n + 1 | none => 0
  base + (ctr % 256 + 256 - base % 256) % 256

/-- A received message is judged (R386, R388, R389, R391, R401): accepted or discarded; one that was cut off is lost whole. -/
def ainReceive (s : State) (l : Nat) (m : AinMsg) : State × Bool :=
  if !ainLive s l || m.cut then (s, false)
  else if ainLen m.type != some m.len then (raiseLimited (ainCount s 4) 0xB06 1000000, false)
  else if !ainAuth s || m.type == 1 then
    if m.check = ainCrc m then (ainCount s 1, true) else (raiseLimited (ainCount s 2) 0xB06 1000000, false)
  else
    let x := getAin s l
    match x.linkKey with
    | none => (ainAuthFail s l, false)
    | some k =>
      let c := ainCounter x m.ctr
      let s := secCount s 0
      if m.check = ainTag k (!selfLower s l) c m then (ainCount (setAin s l { x with rxCtr := some c }) 1, true)
      else (ainAuthFail s l, false)

/-- The row of a received message of TYPE `t`: a message of another TYPE of Table AIN-2 is not this row's. DEDUCED (log 29). -/
def ainTake (s : State) (l t : Nat) (m : AinMsg) (f : State → State) : State :=
  if (ainLen m.type).isSome && m.type != t then s
  else let r := ainReceive s l m; if r.2 then f r.1 else r.1

-- Stamps on the wire.

/-- SEC, NS and FRAC of a time in 2^-16 ns, then two zero bits, and back (Table AIN-2). -/
def stampBits (t : Nat) : Nat := (t / 65536 / nsPerSec % 2 ^ 48 * 2 ^ 46 + t / 65536 % nsPerSec * 2 ^ 16 + t % 65536) * 4
def bitsStamp (b : Nat) : Nat := (nbits b 95 48 * nsPerSec + nbits b 47 18) * 65536 + nbits b 17 2

-- Sending (R389).

/-- What a message carries that is only known as its head block leaves: the counter and its stamp. -/
def ainFill (s : State) (l : Nat) (pcs : Stamp) (m : AinMsg) : AinMsg :=
  let stamp := stampBits (egressStamp s l pcs)
  { m with
    ctr := (getAin s l).txCtr % 256
    payload := if m.type = 5 then stamp else if m.type = 6 then m.payload + stamp else m.payload }

/-- What the sending of a message changes beside the counters: HELLO's nonce, t1, the step instant of R392, GO. -/
def ainSent (s : State) (l : Nat) (pcs : Stamp) (m : AinMsg) : State :=
  if m.type = 1 then tryConfirm (setAin s l { getAin s l with myNonce := some (nbits m.payload 71 8) }) l
  else if m.type = 4 then whenB (mayStep s l) (takeStep · l) s
  else if m.type = 5 then setAin s l { getAin s l with t1 := some (egressStamp s l pcs), exch := m.arg }
  else if m.type = 7 then goSent s l
  else s

/-- AINUM_SEND (R387, R389): `idle` blocks have passed idle; a pending message starts in a free idle block and takes blocks until
it ends. DEDUCED (log 31). -/
def execAinumSend (port idle : Nat) (pcs : Stamp) (s : State) : Host.Outcome State Fault Refusal :=
  .next (if !ainLive s port then s
    else
      let x := ainIdle s port idle
      match ainNext s port x with
      | none => setAin s port x
      | some m =>
        let auth := ainAuth s && m.type != 1
        let f := ainFill s port pcs m
        let check := if auth then ainTag (x.linkKey.getD []) (selfLower s port) x.txCtr f else ainCrc f
        let body := (List.range f.len).map fun i => nbits f.payload (24 * (f.len - i) - 1) (24 * (f.len - 1 - i))
        let tail := if auth then [nbits check 71 48, nbits check 47 24, nbits check 23 0] else [check]
        let blocks := ainHead f :: (body ++ tail)
        let x := { ainUsed s x blocks.length (!ainUrgent m.type) with pend := x.pend.erase m, txCtr := x.txCtr + 1 }
        let s := whenB auth (secCount · 0) (ainCount (setAin s port x) 0)
        ainSent (forEach blocks (fun s b => emit s (.ainum port (ainBlock b))) s) port pcs f)

-- Neighbours (R390).

/-- A HELLO with a new random NONCE is queued; it waits while the random source fails (R390, R465). DEDUCED (log 29). DESIGN CHOICE (log 89). -/
def queueHello (s : State) (l : Nat) : State :=
  if !trngUp s then { s with sec := { s.sec with rngWait := addOnce s.sec.rngWait (16 + l) } }
  else
    let nonce := beNat (Config.random 8 s.freeCtr) % 2 ^ 64
    let cap := ownCap s l
    queueMsg (drawn s) l (mkMsg 1 6 (ainRole s l * 64 + b2n (ainAuth s) * 32)
      (s.top.fuses.selfId % 2 ^ 64 * 2 ^ 80 + cap % 256 * 2 ^ 72 + nonce * 256))

/-- HELLO_TIMER (R390). -/
def execHelloTimer (port : Nat) (s : State) : Host.Outcome State Fault Refusal :=
  .next (if ainLive s port then queueHello s port else s)

/-- The peer is found (R390): source 0xB00; a lane not capable at either end holds the ladder (R140). -/
def peerFound (s : State) (l : Nat) : State :=
  let had := ainPeer s l
  let s := setBit (setBit (setBit s (aPortState l) 25 true) (aAinPort l 4) 31 true) (aAinPort l 4) 29 (ainAuth s)
  let s := whenB (!had) (raise · 0xB00) s
  if mayStep s l && !allCapable s l then holdLadder s l else s

/-- HELLO (R390). DEDUCED (log 29). -/
def execHello (port : Nat) (msg : AinMsg) (s : State) : Host.Outcome State Fault Refusal :=
  .next (ainTake s port 1 msg fun s =>
    let id := nbits msg.payload 143 80
    if msg.arg.testBit 5 != ainAuth s then raiseLimited s 0xB01 1000000
    else if id = s.top.fuses.selfId % 2 ^ 64 then
      let was := looped s port
      let s := setBit (endSession s port) (aAinPort port 4) 30 true
      whenB (!was) (raise · 0xB00) s
    else
      let s := if ainPeer s port && peerId s port != id then endSession s port else s
      let s := setF (setF (setBit s (aAinPort port 4) 30 false) (aAinPort port 4) 28 27 (nbits msg.arg 7 6)) (aAinPort port 4) 7 0
        (nbits msg.payload 79 72)
      let s := setReg64 s (aAinPort port 8) id
      let s := setAin s port { getAin s port with peerNonce := some (nbits msg.payload 71 8) }
      if ainAuth s then tryConfirm s port else peerFound s port)

/-- CONFIRM (R390): with AUTH = 1 it finds the peer. DEDUCED (log 29). -/
def execConfirm (port : Nat) (msg : AinMsg) (s : State) : Host.Outcome State Fault Refusal :=
  .next (ainTake s port 2 msg fun s => if ainAuth s && !looped s port then peerFound s port else s)

/-- PEER_TIMEOUT (R390). -/
def execPeerTimeout (port : Nat) (s : State) : Host.Outcome State Fault Refusal :=
  .next (if ainPeer s port || looped s port then endSession s port else s)

-- The ladder (R392).

/-- STEP_PROPOSE (R392, R142): the responder answers with the same number; while firmware does not run, it waits. DESIGN CHOICE (log 91). -/
def execStepPropose (port : Nat) (msg : AinMsg) (s : State) : Host.Outcome State Fault Refusal :=
  .next (ainTake s port 3 msg fun s =>
    if !mayStep s port || looped s port || !ainPeer s port then s
    else if fwRuns s then queueMsg s port (mkMsg 4 0 (msg.arg % 256) 0)
    else modPort s port fun x => { x with owedAck := some (msg.arg % 256) })

/-- STEP_ACK (R392): the number proposed fixes the step instant; another is ignored. -/
def execStepAck (port : Nat) (msg : AinMsg) (s : State) : Host.Outcome State Fault Refusal :=
  .next (ainTake s port 4 msg fun s =>
    if mayStep s port && (getPort s port).proposed == some (msg.arg % 256) then
      takeStep s port
    else s)

/-- Proposals that waited for firmware are answered (R142). -/
def answerProposals (s : State) : State :=
  forEach (s.ports.filterMap fun x => x.2.owedAck.map fun n => (x.1, n)) (fun s x =>
    let s := modPort s x.1 fun p => { p with owedAck := none }
    if mayStep s x.1 then queueMsg s x.1 (mkMsg 4 0 x.2 0) else s) s

-- Time (R393, R394).

/-- The end that starts exchanges: ROLE UP, or the lower SELF_ID of two PEER ports. -/
def timeInitiator (s : State) (l : Nat) : Bool :=
  ainRole s l == 1 || (ainRole s l == 3 && regF s (aAinPort l 4) 28 27 == 3 && selfLower s l)

/-- TIME_SYNC_TIMER (R393). -/
def execTimeSyncTimer (port : Nat) (s : State) : Host.Outcome State Fault Refusal :=
  .next (if ainLive s port && ainPeer s port && regBit s (aAinPort port 0) 29 && regF s (aAin 0x10) 7 0 != 0 && timeInitiator s port then
      queueMsg s port (mkMsg 5 4 (((getAin s port).exch + 1) % 256) 0)
    else s)

/-- TIME_SYNC (R393): t2 is stamped and TIME_REPLY is queued. DEDUCED (log 31). -/
def execTimeSync (port : Nat) (msg : AinMsg) (t2 : Stamp) (s : State) : Host.Outcome State Fault Refusal :=
  .next (ainTake s port 5 msg fun s =>
    queueMsg s port (mkMsg 6 8 (msg.arg % 256) (stampBits (ingressStamp s port t2) * 2 ^ 96)))

/-- TIME_REPLY (R394): mean and offset in 2^-16 ns. Which way the half of an odd number goes, the spec does not say (DESIGN CHOICE, log 1). -/
def execTimeReply (port : Nat) (msg : AinMsg) (t4 : Stamp) (s : State) : Host.Outcome State Fault Refusal :=
  .next (ainTake s port 6 msg fun s =>
    match (getAin s port).t1 with
    | none => s
    | some t1 =>
      if msg.arg % 256 ≠ (getAin s port).exch then s
      else
        let back : Nat := ingressStamp s port t4
        let t2 : Int := (bitsStamp (nbits msg.payload 191 96) : Nat)
        let t3 : Int := (bitsStamp (nbits msg.payload 95 0) : Nat)
        let twice : Int := ((back : Int) - (t1 : Int)) - (t3 - t2)
        let mean := (twice + (b2n (Config.freeBool s.freeCtr) : Nat)) / 2
        let offset := (t2 - (t1 : Int)) - mean - toSigned 32 (reg s (aAinPort port 0x10)).toNat
        let s := setAin (drawn s) port { getAin s port with t1 := none }
        let s := setReg64 s (aAinPort port 0x18) (ofSigned 64 offset)
        let s := setReg s (aAinPort port 0x20) (BitVec.ofNat 32 (ofSigned 32 mean))
        let s := setReg s (aAinPort port 0x28) (BitVec.ofNat 32 (ts32Of (back / 65536)))
        let s := setBit s (aAinPort port 0x24) 31 true
        whenB (regBit s (aAinPort port 0) 28) (raise · 0xB02) s)

-- Tokens (R396 to R398).

/-- The ports that a received token goes out on: DOWN and PEER, with a session under AUTH = 1 (R391, R398). DEDUCED (log 30). -/
def tokenPorts (s : State) (src : Nat) : List Nat :=
  (enabledPorts s).filter fun l => l != src && (ainRole s l == 2 || ainRole s l == 3) && ainLive s l && !looped s l &&
    (!ainAuth s || (getAin s l).linkKey.isSome)

/-- A TOKEN is queued on the ports of a list. DEDUCED (log 30). -/
def sendToken (s : State) (ports : List Nat) (hop payload : Nat) : State :=
  forEach ports (fun s l => queueMsg s l (mkMsg 7 5 (hop % 256) payload)) s

/-- TOKEN (R398): accepted, acted on and sent on; a duplicate or one from a DOWN port is counted and discarded. DEDUCED (log 30). -/
def execToken (port : Nat) (msg : AinMsg) (s : State) : Host.Outcome State Fault Refusal :=
  .next (ainTake s port 7 msg fun s =>
    let id := nbits msg.payload 119 88
    let t := nbits msg.payload 87 40 * nsPerSec + nbits msg.payload 39 10
    let live := s.ainum.tokens.filter fun x => decide (s.elapsed < x.2.2 + 10000000000)
    if ainRole s port = 0 then s
    else if ainRole s port = 2 then raiseLimited (ainCount s 7) 0xB06 1000000
    else if live.any fun x => x.1 == id && x.2.1 == t then ainCount s 6
    else
      let s := { s with ainum := { s.ainum with tokens := (id, t, s.elapsed) :: live } }
      let s := raise (setReg (tokenArrive s id t) (aAin 0x40) (BitVec.ofNat 32 id)) 0xB03
      let on := tokenPorts s port
      let s := add64 s (aAin 0x128) on.length
      sendToken s on (msg.arg + 1) (msg.payload / 1024 * 1024))

/-- TOKEN_GO (R397): the token goes out on DOWN and PEER ports that have a peer, and acts here at once. DEDUCED (log 30). -/
def execTokenGo (s : State) : Host.Outcome State Fault Refusal :=
  .next (holdWrite s 126 (aAin 0x34) 0x80000000 fun s =>
    if regBit s (aAin 0x34) 30 then s
    else
      let id := (reg s (aAin 0x20)).toNat
      let sec := reg64 s (aAin 0x28) % 2 ^ 48
      let ns := regF s (aAin 0x30) 29 0
      let s := setReg (tokenArrive (setBit s (aAin 0x34) 30 true) id (sec * nsPerSec + ns)) (aAin 0x40) (BitVec.ofNat 32 id)
      let on := (peerPorts s).filter fun l => ainRole s l == 2 || ainRole s l == 3
      let s := sendToken { s with ainum := { s.ainum with goLeft := on } } on 0 (id * 2 ^ 88 + sec * 2 ^ 40 + ns * 1024)
      if on.isEmpty then goSent s 1152 else s)

-- Cap notices (R400).

/-- CAP_NOTICE goes out on every port with ROLE other than OFF and a peer. -/
def capNotice (s : State) (kind hall step us : Nat) : State :=
  let payload := hall % 16 * 2 ^ 68 + step % 4 * 2 ^ 66 + us % 65536 * 2 ^ 50 + ts32 s * 2 ^ 16
  forEach ((peerPorts s).filter fun l => ainRole s l != 0) (fun s l => queueMsg s l (mkMsg 8 3 kind payload)) s

/-- CAP_NOTICE (R400, Table AIN-3): written to CAP_LAST with source 0xB05; the payload bits before the TS32 are 24. DEDUCED (log 31). -/
def execCapNotice (port : Nat) (msg : AinMsg) (s : State) : Host.Outcome State Fault Refusal :=
  .next (ainTake s port 8 msg fun s =>
    raise (setReg64 s (aAin 0x48) (2 ^ 63 + port * 2 ^ 48 + msg.arg % 4 * 2 ^ 46 + nbits msg.payload 71 48)) 0xB05)

end Sys2Proof.Machine
end

