-- ==== Sys2Proof/Machine/Cart.lean ====
section
/-!
DEFINITION. Laser cartridges: bays, insertion and removal, shares, wear, the current loop and CART_CMD (chapter 06), with the
return of the random source that cartridge challenges and HELLO nonces wait for (R465).
-/
namespace Sys2Proof.Machine

def bayEmpty : Bay :=
  { step := .idle, identity := none, challenge := [], target := [], drive := [], wear := [], reclosed := false, ramp := 0,
    failedOf := none, asked := none }
def getBay (s : State) (c : Nat) : Bay := mapGet bayEmpty s.bays c
def setBay (s : State) (c : Nat) (b : Bay) : State := { s with bays := mapPut bayEmpty s.bays c b }
def modBay (s : State) (c : Nat) (f : Bay → Bay) : State := setBay s c (f (getBay s c))

-- The identity record (Table CRT-5).

def idSerial (i : Identity) : Nat := leAt i.octets 0 8
def idWear (i : Identity) : Nat := leAt i.octets 16 4
/-- FULL_MA and HWMAX_MA of a channel, in units of 0.01 mA. -/
def idCal (i : Identity) (n : Nat) : Nat × Nat := (leAt i.octets (64 + 4 * n) 2, leAt i.octets (66 + 4 * n) 2)
/-- The record with another WEAR, in thousandths of a unit. -/
def idWorn (i : Identity) (w : Nat) : Identity := { octets := splice i.octets 16 (bytesLE 4 w) }

-- BAY_STATUS (Table CRT-4).
def bayState (s : State) (c : Nat) : Nat := regF s (aBay c 0) 2 0
def bayEn (s : State) (c : Nat) : Bool := regBit s (aBay c 0) 10
def bayPres (s : State) (c : Nat) : Bool := regBit s (aBay c 0) 8
def bayLatched (s : State) (c : Nat) : Bool := regBit s (aBay c 0) 9
def chFailed (s : State) (c n : Nat) : Bool := (reg64 s (aBay c 0x38)).testBit n

def stEmpty : Nat := 0
def stPresent : Nat := 1
def stAuthenticating : Nat := 2
def stActive : Nat := 3
def stRefused : Nat := 4
def stRemoving : Nat := 5

/-- The bay and channel of the other share of an input (R3, R31). -/
def partner (c n : Nat) : Nat × Nat := if n < 32 then ((c + 1) % 9, n + 32) else ((c + 8) % 9, n - 32)

/-- The engine and laser input that a channel feeds (R31). -/
def feeds (c n : Nat) : Nat × Nat :=
  let h := if n < 32 then c else (c + 8) % 9
  (4 * h + n % 32 / 8, n % 8)

/-- SAFE_TO_REMOVE of every bay follows its neighbours (R157). -/
def safeBay (s : State) (c : Nat) : Bool :=
  let a := (c + 1) % 9
  let b := (c + 8) % 9
  bayState s a == stActive && bayState s b == stActive
  && (List.range 64).all fun n => !chFailed s (partner c n).1 (partner c n).2
def updSafe (s : State) : State := forEach (List.range 9) (fun s c => setBit s (aBay c 0) 12 (safeBay s c)) s

/-- BRINGUP.CART sets when every bay is ACTIVE, REFUSED or EMPTY (R158, R505). -/
def cartDone (s : State) : State :=
  if fwRuns s && !bringup s 9 && (List.range 9).all (fun c => bayState s c == stActive || bayState s c == stRefused || bayState s c == stEmpty)
  then ladderDone (setBringup s 9) else s

/-- STATE of a bay changes, with source 0x480 + c where `tell`. -/
def bayTo (s : State) (c st : Nat) (tell : Bool) : State :=
  whenB tell (raise · (0x480 + c)) (cartDone (updSafe (setF s (aBay c 0) 2 0 st)))

-- Current (R164, R165).

/-- FULL_MA and HWMAX_MA in use for a channel: those of the record for a trusted cartridge, else the most conservative (R161). -/
def bayCal (s : State) (c n : Nat) : Nat × Nat :=
  if regBit s (aBay c 0) 11 then ((getBay s c).identity.map fun i => idCal i n).getD (0, 0) else (18000, 20000)

/-- The channel is pinned (R164). -/
def bayPinned (s : State) (c n : Nat) : Bool := (reg64 s (aBay c 0x28)).testBit n

/-- The most current that software lets a channel take, or its pin, clamped to HWMAX_MA. -/
def curBound (s : State) (c n : Nat) : Nat :=
  let hw := (bayCal s c n).2
  let m := regF s (aBay c 0x20) 15 0
  if bayPinned s c n then min (regF s (aBay c 0x24) 15 0) hw else if m = 0xFFFF then hw else min m hw

/-- A current inside a channel's range. -/
def curClamp (s : State) (c n want : Nat) : Nat := if bayPinned s c n then curBound s c n else min want (curBound s c n)

/-- A channel's target: 0 off, 1 half, 2 full, with CH_FULL and the current it takes. The current of half output is stated
nowhere (DESIGN CHOICE, log 1). -/
def setTarget (s : State) (c n t : Nat) : State :=
  let half := curClamp s c n (Config.freeNat s.freeCtr)
  let d := if t = 0 then 0 else if t = 2 then curClamp s c n (bayCal s c n).1 else half
  let s := whenB (t == 1) drawn s
  let s := modBay s c fun b => { b with target := mapPut 0 b.target n t, drive := mapPut 0 b.drive n d }
  setReg64 s (aBay c 0x40) (putBit (reg64 s (aBay c 0x40)) n (t == 2))

def targetOf (s : State) (c n : Nat) : Nat := mapGet 0 (getBay s c).target n

/-- A share gives light: driven and not failed (R150, R154). -/
def chLive (s : State) (c n : Nat) : Bool := targetOf s c n != 0 && !chFailed s c n

/-- The ports fed by an input that has gone dark leave UP (R154). -/
def inputDark (s : State) (g i : Nat) : State :=
  let heads := ((List.range 4).map fun k => portOf s (32 * g + 4 * i + k)).dedup
  forEach heads (fun s l => if portLive s l && portState s l != 1 then linkDown s l true else s) s

/-- Every channel of a bay is turned off; inputs left without light go dark. -/
def bayDark (s : State) (c : Nat) : State :=
  let lost := (List.range 64).filter fun n => chLive s c n && !chLive s (partner c n).1 (partner c n).2
  let s := modBay s c fun b => { b with target := [], drive := [] }
  let s := setReg64 s (aBay c 0x40) 0
  forEach lost (fun s n => inputDark s (feeds c n).1 (feeds c n).2) s

-- Wear (R162, R163).

/-- Wear of a cartridge in units of 1/7,200 thousandth of a wear unit: that of its most-worn channel. DEDUCED (log 33). -/
def bayWear (b : Bay) : Nat := b.wear.foldl (fun m x => max m x.2) 0

/-- WEAR and its warnings follow; each warning newly set raises source 0x4A0 + c (R163). -/
def wearReport (s : State) (c : Nat) : State :=
  let w := bayWear (getBay s c) / 7200
  let a := aBay c 0
  let w80 := decide (72000000 ≤ w)
  let w95 := decide (85500000 ≤ w)
  let s := setReg s (aBay c 0x10) (BitVec.ofNat 32 w)
  let n := b2n (w80 && !regBit s a 13) + b2n (w95 && !regBit s a 14)
  let s := setBit (setBit (setBit s a 13 w80) a 14 w95) a 15 (decide (90000000 ≤ w))
  forEach (List.range n) (fun s _ => raise s (0x4A0 + c)) s

/-- The wear record of a bay goes to the cartridge and to the journal (R162), or waits for firmware and the seal key (R46, R468); the
cartridge's record holds it from then on. DEDUCED (log 33). -/
def wearRecord (s : State) (c : Nat) : State :=
  match (getBay s c).identity with
  | none => s
  | some i =>
    let w := bayWear (getBay s c) / 7200
    let s := modBay s c fun b => { b with identity := some (idWorn i w) }
    jrnOwe s (.cart { serial := idSerial i, bay := c, identity := (idWorn i w).octets, wear := w })

/-- Output of a channel in thousandths of full output: as measured, else that of its target. -/
def outputOf (outputs : List (Nat × Nat × Nat)) (c n target : Nat) : Nat :=
  ((outputs.find? fun x => x.1 == c && x.2.1 == n).map (·.2.2)).getD (500 * target)

/-- WEAR_TICK (R162): one second of wear at 0.5 + P / P_full units per hour for each channel that is not dark. DEDUCED (log 33). -/
def execWearTick (outputs : List (Nat × Nat × Nat)) (s : State) : Host.Outcome State Fault Refusal :=
  .next (forEach (List.range 9) (fun s c =>
    let b := getBay s c
    let wear := b.target.foldl (fun m x =>
      let p := if chFailed s c x.1 then 0 else outputOf outputs c x.1 x.2
      if p = 0 then m else mapMod 0 m x.1 (· + (1000 + 2 * p))) b.wear
    if b.target.isEmpty then s else wearReport (setBay s c { b with wear := wear }) c) s)

/-- WEAR_RECORD_WRITE (R66, R162): each hour, for the cartridges in service. -/
def execWearRecordWrite (failedBlocks : List Nat) (s : State) : Host.Outcome State Fault Refusal :=
  .next (if !fwRuns s then s
    else jrnFailed failedBlocks (forEach ((List.range 9).filter fun c => bayState s c == stActive) wearRecord s))

-- Removal (R155 to R157, R159, Table CRT-1).

/-- A removal that takes light from inputs without a partner raises source 0x4D0 + c (R157). DESIGN CHOICE (log 90): as it starts. -/
def noteUnsafe (s : State) (c : Nat) : State := whenB (bayState s c == stActive && !safeBay s c) (raise · (0x4D0 + c)) s

/-- Step 1 of a removal, of a cartridge in service or of a refused one (R152, R156). -/
def startRemoval (s : State) (c : Nat) : State :=
  if (bayState s c != stActive && bayState s c != stRefused) || (getBay s c).step != .idle then s
  else modBay (noteUnsafe s c) c fun b => { b with step := .removing 1, reclosed := false }

/-- CARTc_EN goes low, and the bay gives no light. DESIGN CHOICE (log 90). -/
def enLow (s : State) (c : Nat) : State := bayDark (setBit s (aBay c 0) 10 false) c

/-- An insertion is abandoned (R159). -/
def abandon (s : State) (c : Nat) : State := modBay (enLow s c) c fun b => { b with step := .idle, challenge := [] }

/-- The ramp of Table CRT-2 step 5 is under way: 1 ms from its start. -/
def ramping (s : State) (c : Nat) : Bool := let r := (getBay s c).ramp; r != 0 && decide (s.elapsed + 1 < r + 1000000)

/-- The ramp is reversed, and the removal goes on from step 3 of Table CRT-1 (R159). -/
def reverseRamp (s : State) (c : Nat) : State :=
  bayTo (modBay (noteUnsafe s c) c fun b => { b with step := .removing 2, reclosed := false, ramp := 0 }) c stRemoving true

/-- What an opening latch brings (R156, R159), and a reported shutdown as though it had opened (R155). -/
def latchOpened (s : State) (c : Nat) : State :=
  match (getBay s c).step with
  | .inserting _ => abandon s c
  | .removing _ => modBay s c fun b => { b with reclosed := false }
  | .idle => if ramping s c then reverseRamp s c else startRemoval s c

/-- A cartridge leaves its bay's registers, which read as at reset from then on (DESIGN CHOICE, log 94). Its failed channels stay failed
until another takes its place (R154). -/
def forgetCart (s : State) (c : Nat) : State :=
  let s := setReg64 (setReg (setReg s (aBay c 0x10) 0) (aBay c 0x14) 0) (aBay c 8) 0
  let s := setBit (setF s (aBay c 0) 15 13 0) (aBay c 0) 11 false
  modBay s c fun b => { b with identity := none, challenge := [], wear := [], reclosed := false, ramp := 0, asked := none }

/-- A share has failed (R153): the partner share steps to full output; where it gives no light, the input goes dark (R154). -/
def failShare (s : State) (bay ch : Nat) : State :=
  let p := partner bay ch
  let s := setReg64 s (aBay bay 0x38) (putBit (reg64 s (aBay bay 0x38)) ch true)
  let s := modBay s bay fun b => { b with failedOf := b.identity.map idSerial }
  let s := if chLive s p.1 p.2 then setTarget s p.1 p.2 2 else inputDark s (feeds bay ch).1 (feeds bay ch).2
  raise (updSafe s) (0x490 + bay)

/-- t0 of an insertion (R158): the cartridge is seated and the latch closed. STATE becomes PRESENT, a change that no table gives a
source. DESIGN CHOICE (log 90). -/
def startInsert (s : State) (c : Nat) : State :=
  bayTo (modBay s c fun b => { b with step := .inserting 0, reclosed := false }) c stPresent false

/-- CART_PRESENCE_CHANGE (R152, R154, R156, R158): a cartridge that leaves with channels lit has gone dark without warning; EN is low
in an empty bay. Without its reference clock the control island does nothing (R40). DEDUCED (log 32). -/
def execCartPresenceChange (bay : Nat) (present : Bool) (s : State) : Host.Outcome State Fault Refusal :=
  .next (if decide (8 < bay) || bayPres s bay == present then s
    else
      let s := setBit s (aBay bay 0) 8 present
      if islandHeld s 126 then s
      else if present then
        if bayLatched s bay then startInsert s bay else bayTo s bay stPresent false
      else
        let s := forEach ((List.range 64).filter (chLive s bay)) (fun s n => failShare s bay n) s
        bayTo (forgetCart (abandon s bay) bay) bay stEmpty true)

/-- CART_LATCH_OPEN (R156, R159). DEDUCED (log 32). -/
def execCartLatchOpen (bay : Nat) (s : State) : Host.Outcome State Fault Refusal :=
  .next (if decide (8 < bay) || !bayLatched s bay then s
    else
      let s := setBit s (aBay bay 0) 9 false
      if islandHeld s 126 then s else latchOpened s bay)

/-- CART_LATCH_CLOSE (R158, R159). A latch that closes before step 2 of a removal does not stop it either (DESIGN CHOICE, log 94). -/
def execCartLatchClose (bay : Nat) (s : State) : Host.Outcome State Fault Refusal :=
  .next (if decide (8 < bay) || bayLatched s bay then s
    else
      let s := setBit s (aBay bay 0) 9 true
      if islandHeld s 126 then s
      else match (getBay s bay).step with
      | .removing n => if n = 4 && bayPres s bay then startInsert s bay else modBay s bay fun b => { b with reclosed := true }
      | _ => if bayPres s bay && bayState s bay != stActive then startInsert s bay else s)

/-- Firmware reads a cartridge's status (R155): a reported shutdown acts as an opening latch. -/
def serveAsked (s : State) (c : Nat) : State :=
  match (getBay s c).asked with
  | none => s
  | some shutdown =>
    let s := modBay s c fun b => { b with asked := none }
    if shutdown && (bayState s c != stRemoving) then latchOpened s c else s

/-- CART_INT (R155): firmware reads the status, or does so once it runs again (R46). DEDUCED (log 32). -/
def execCartInt (bay : Nat) (shutdown : Bool) (s : State) : Host.Outcome State Fault Refusal :=
  .next (if decide (8 < bay) || !bayPres s bay || islandHeld s 126 then s
    else
      let s := modBay s bay fun b => { b with asked := some (shutdown || b.asked == some true) }
      if fwRuns s then serveAsked s bay else s)

/-- REMOVAL_RAMP_START (Table CRT-1 step 2): inputs whose partner share is live move to it. -/
def execRemovalRampStart (bay : Nat) (s : State) : Host.Outcome State Fault Refusal :=
  .next (if decide (8 < bay) || (getBay s bay).step != .removing 1 then s
    else
      let s := modBay s bay fun b => { b with step := .removing 2 }
      bayTo s bay stRemoving true)

/-- REMOVAL_RAMP_DONE (Table CRT-1 step 3): the live partners are at full output, and CH_FULL sets. An input whose partner gives no
light keeps this bay's until step 4 (R157). DESIGN CHOICE (log 90). -/
def execRemovalRampDone (bay : Nat) (s : State) : Host.Outcome State Fault Refusal :=
  .next (if decide (8 < bay) || (getBay s bay).step != .removing 2 then s
    else
      let s := modBay s bay fun b => { b with step := .removing 3 }
      let live := (List.range 64).filter fun n => chLive s (partner bay n).1 (partner bay n).2
      forEach live (fun s n => setTarget (setTarget s (partner bay n).1 (partner bay n).2 2) bay n 0) s)

/-- REMOVAL_EN_LOW (Table CRT-1 step 4): CARTc_EN low and the wear record; a latch closed meanwhile starts an insertion (R159). -/
def execRemovalEnLow (bay : Nat) (s : State) : Host.Outcome State Fault Refusal :=
  .next (if decide (8 < bay) || (getBay s bay).step != .removing 3 then s
    else
      let s := enLow (wearRecord s bay) bay
      let again := (getBay s bay).reclosed && bayPres s bay && bayLatched s bay
      let s := modBay s bay fun b => { b with step := .removing 4 }
      if again then startInsert s bay else s)

-- Insertion (R158 to R161, Table CRT-2).

/-- A fresh challenge of 16 random octets, or a wait for the random source (R160, R465). -/
def sendChallenge (s : State) (c : Nat) : State :=
  if !trngUp s then { s with sec := { s.sec with rngWait := addOnce s.sec.rngWait c } }
  else
    let ch := sliceZ (Config.random 16 s.freeCtr) 0 16
    emit (modBay (drawn s) c fun b => { b with challenge := ch }) (.challenge c ch)

/-- The identity record is read (step 2): SERIAL, and the larger of the two stored wears for every channel (R162); the failed channels
of another cartridge are no longer of account (R154). -/
def readIdentity (s : State) (c : Nat) (i : Identity) : State :=
  let s := jrnReads s fun e => match e with | .cart r => r.serial == idSerial i | _ => false
  let kept := (((jrnCarts s.journal).find? (·.serial == idSerial i)).map (·.wear)).getD 0
  let w := 7200 * max (idWear i) kept
  let wear := (List.range 64).foldl (fun m n => mapPut 0 m n w) []
  let same := (getBay s c).failedOf == some (idSerial i)
  let s := whenB (!same) (fun s => modBay (setReg64 s (aBay c 0x38) 0) c fun b => { b with failedOf := none }) s
  let s := modBay (emit s (.i2cIdentity c)) c fun b => { b with identity := some i, wear := wear, step := .inserting 2 }
  sendChallenge (wearReport (setReg64 s (aBay c 8) (idSerial i)) c) c

/-- CART_AUTHENTICATING (Table CRT-2 steps 1 and 2): the record is read once firmware runs. -/
def execCartAuthenticating (bay : Nat) (identity : Identity) (s : State) : Host.Outcome State Fault Refusal :=
  .next (if decide (8 < bay) then s
    else match (getBay s bay).step with
      | .inserting 0 =>
        let s := bayTo (modBay s bay fun b => { b with step := .inserting 1 }) bay stAuthenticating true
        if fwRuns s then readIdentity s bay identity else s
      | .inserting 1 => if fwRuns s then readIdentity s bay identity else s
      | _ => s)

/-- The response of a cartridge checks (R160, R476): the part needs its master key in slot 2. -/
def tagChecks (s : State) (c : Nat) (tag : List Byte) : Bool :=
  let i := (getBay s c).identity
  ((getSlot s 2).key).isSome &&
    tag == Config.cartTag ((i.map idSerial).getD 0) ((getBay s c).challenge ++ (i.map (·.octets)).getD [])

/-- The outcome of a check: TRUSTED, the Cashbox counts (R476), and FULL_MA with the values in use. -/
def noteTrust (s : State) (c : Nat) (ok : Bool) : State :=
  let s := setBit (whenB (!ok) (secCount · 1) (secCount s 0)) (aBay c 0) 11 ok
  let full := (List.range 64).foldl (fun m n => max m (bayCal s c n).1) 0
  let hw := (List.range 64).foldl (fun m n => min m (bayCal s c n).2) 65535
  setReg (modBay s c fun b => { b with challenge := [] }) (aBay c 0x14) (BitVec.ofNat 32 (full % 65536 + hw * 65536))

/-- The policy for a cartridge that is not in service (R161): admitted, with source 0x4C0 + c where untrusted, or REFUSED. No
cartridge is admitted in RETIRED (Table SEC-4). DEDUCED (log 32). -/
def applyPolicy (s : State) (c : Nat) (ok : Bool) : State :=
  if (ok || regBit s (aCrt 0) 0) && s.top.fuses.lcs != .retired then
    whenB (!ok) (raise · (0x4C0 + c)) (modBay s c fun b => { b with step := .inserting 3 })
  else bayTo (modBay s c fun b => { b with step := .idle }) c stRefused (bayState s c != stRefused)

/-- CART_CHALLENGE_CHECK (Table CRT-2 step 3, R160, R161): it waits for firmware and for the derived keys (R468). -/
def execCartChallengeCheck (bay : Nat) (tag : List Byte) (s : State) : Host.Outcome State Fault Refusal :=
  .next (if decide (8 < bay) || (getBay s bay).step != .inserting 2 || (getBay s bay).challenge.isEmpty || !fwRuns s || !sealReady s then s
    else applyPolicy (noteTrust s bay (tagChecks s bay tag)) bay (tagChecks s bay tag))

/-- CART_EN_RAISE (Table CRT-2 step 4). -/
def execCartEnRaise (bay : Nat) (s : State) : Host.Outcome State Fault Refusal :=
  .next (if decide (8 < bay) || (getBay s bay).step != .inserting 3 then s
    else modBay (setBit s (aBay bay 0) 10 true) bay fun b => { b with step := .inserting 4 })

/-- A share that gives light, or will: its bay is ACTIVE or ramps up with this one, and the channel has not failed. DEDUCED (log 32). -/
def willLight (s : State) (c n : Nat) : Bool :=
  !chFailed s c n && ((bayState s c == stActive && targetOf s c n != 0) || (getBay s c).step == .inserting 4)

/-- CART_ACTIVATE (Table CRT-2 step 5): half output beside a live partner, which returns to half; full output alone. A channel that had
failed in the same cartridge stays dark, and its partner at full output (R154). -/
def execCartActivate (bay : Nat) (s : State) : Host.Outcome State Fault Refusal :=
  .next (if decide (8 < bay) || (getBay s bay).step != .inserting 4 then s
    else
      let s := modBay s bay fun b => { b with step := .idle, ramp := s.elapsed + 1 }
      let s := forEach ((List.range 64).filter (!chFailed s bay ·)) (fun s n =>
        let p := partner bay n
        let s := setTarget s bay n (if willLight s p.1 p.2 then 1 else 2)
        if chLive s p.1 p.2 then setTarget s p.1 p.2 1 else s) s
      bayTo s bay stActive true)

-- Failure (R151, R153, R154).

/-- SHARE_FAILED (R153). -/
def execShareFailed (bay ch : Nat) (s : State) : Host.Outcome State Fault Refusal :=
  .next (if decide (8 < bay) || decide (63 < ch) || !chLive s bay ch then s
    else failShare s bay ch)

/-- LIGHT_LOW (R151): the four lanes of an input. -/
def execLightLow (g input : Nat) (s : State) : Host.Outcome State Fault Refusal :=
  .next (if decide (35 < g) || decide (7 < input) then s
    else forEach (List.range 4) (fun s k => laneEvent s (32 * g + 4 * input + k) 7) s)

/-- CURRENT_LOOP_STEP (R164): at most 0.1 mA toward the wanted current, inside the range. -/
def execCurrentLoopStep (bay ch want : Nat) (s : State) : Host.Outcome State Fault Refusal :=
  .next (if decide (8 < bay) || decide (63 < ch) || targetOf s bay ch == 0 then s
    else
      let now := mapGet 0 (getBay s bay).drive ch
      let aim := curClamp s bay ch want
      let d := if now ≤ aim then min aim (now + 10) else max aim (now - 10)
      modBay s bay fun b => { b with drive := mapPut 0 b.drive ch d })

/-- CART_POLICY_CONFLICT (R165): a wanted current that software's range keeps out; HWMAX_MA alone raises nothing. -/
def execCartPolicyConflict (bay ch want : Nat) (s : State) : Host.Outcome State Fault Refusal :=
  .next (
    let w := min want (bayCal s bay ch).2
    if decide (8 < bay) || decide (63 < ch) || curClamp s bay ch w == w || !intervalOver s (0x4B0 + bay) 100000000 then s
    else raiseLimited (setReg s (aBay bay 0x30) (BitVec.ofNat 32 (ch * 2 ^ 26 + want % 65536))) (0x4B0 + bay) 100000000)

-- CART_CMD (R166).

def cartBay (c : HostCmd) : Nat := argN c 1 1

/-- READ_ID: the record as the cartridge holds it now; of one that firmware has not read before nothing in the part states what it
holds (DESIGN CHOICE, log 1). -/
def doReadId (c : HostCmd) (s : State) : State :=
  if decide (8 < cartBay c) || c.dataLen != 320 then complete s c stBadArg
  else if bayState s (cartBay c) = stEmpty then complete s c stNotFound
  else match (getBay s (cartBay c)).identity with
    | some i => completeData s c stOk [] (sliceZ i.octets 0 320)
    | none => completeData (drawn s) c stOk [] (sliceZ (Config.random 320 s.freeCtr) 0 320)

/-- READ_ID (R166). DEDUCED (log 32). -/
def execReadId (cmd : HostCmd) (s : State) : Host.Outcome State Fault Refusal :=
  .next (runCmd s cmd .readId (doReadId cmd))

/-- What the check of a REAUTH brings (R161, R166): an ACTIVE or leaving cartridge stays as it is; a refused one is judged again, and so is
one that enters service, whose insertion ends where it is refused. -/
def applyReauth (s : State) (c : Nat) (ok : Bool) : State :=
  let admits := (ok || regBit s (aCrt 0) 0) && s.top.fuses.lcs != .retired
  match (getBay s c).step with
  | .inserting 2 => applyPolicy s c ok
  | .inserting _ => if admits then whenB (!ok) (raise · (0x4C0 + c)) s else applyPolicy (enLow s c) c ok
  | .idle =>
    if bayState s c != stRefused then s
    else applyPolicy (if admits then bayTo s c stAuthenticating true else s) c ok
  | _ => s

/-- REAUTH: the challenge and the check are made anew. It waits for a sound random source, and for the record where no step has read it. -/
def doReauth (tag : List Byte) (c : HostCmd) (s : State) : State :=
  let b := cartBay c
  if 8 < b then complete s c stBadArg
  else if bayState s b = stEmpty then complete s c stNotFound
  else if !trngUp s || (getBay s b).identity.isNone then setPhase s c .held
  else
    let s := sendChallenge s b
    let ok := tagChecks s b tag
    complete (applyReauth (noteTrust s b ok) b ok) c (if ok then stOk else stAuthFail)

/-- REAUTH (R166, R160, R161). -/
def execReauth (cmd : HostCmd) (tag : List Byte) (s : State) : Host.Outcome State Fault Refusal :=
  .next (runCmd s cmd .reauth (doReauth tag cmd))

/-- POLICY is set, and firmware keeps it in the journal's firmware state (R161), once it runs and holds the seal key. -/
def setPolicy (s : State) (allow : Bool) : State := jrnOwe (setBit s (aCrt 0) 0 allow) (.policy allow)

def doSetPolicy (c : HostCmd) (s : State) : State :=
  if 8 < cartBay c then complete s c stBadArg else complete (setPolicy s ((argN c 2 1).testBit 0)) c stOk

/-- SET_POLICY (R166). -/
def execSetPolicy (cmd : HostCmd) (s : State) : Host.Outcome State Fault Refusal :=
  .next (runCmd s cmd .setPolicy (doSetPolicy cmd))

def doPrepareRemove (c : HostCmd) (s : State) : State :=
  if 8 < cartBay c then complete s c stBadArg
  else if bayState s (cartBay c) != stActive then complete s c stNotFound
  else complete (startRemoval s (cartBay c)) c stOk

/-- PREPARE_REMOVE (R166, R156). -/
def execPrepareRemove (cmd : HostCmd) (s : State) : Host.Outcome State Fault Refusal :=
  .next (runCmd s cmd .prepareRemove (doPrepareRemove cmd))

end Sys2Proof.Machine
end

