-- ==== Sys2Proof/Machine/Tables.lean ====
section
/-!
DEFINITION. Tables: descriptors, entries, lookups, change-log marks and entry records (R240 to R250, R260). An entry of a
TCAM table has its row as its handle.
-/
namespace Sys2Proof.Machine

-- Descriptors (R241, R242).

def aDesc (t w : Nat) : Nat := aClk (0x1000 + 16 * t + 4 * w)
def descEn (s : State) (t : Nat) : Bool := decide (t < 64) && regBit s (aDesc t 0) 31
def descDom (s : State) (t : Nat) : Dom := if regBit s (aDesc t 0) 28 then .egr else .ing
def descLearn (s : State) (t : Nat) : Bool := regBit s (aDesc t 0) 25
def descAges (s : State) (t : Nat) : Bool := descEn s t && regBit s (aDesc t 0) 24 && regF s (aDesc t 0) 15 0 != 0

/-- Allocation unit and pool of a kind, in slots, rows or units (Table TBL-1). -/
def tblUnit (kind : Nat) : Nat := if kind = 1 then 512 else 4096
def tblPoolUnits (kind : Nat) : Nat := if kind = 1 then 48 else 256

/-- Bits of a key. -/
def keyBits (kind width : Nat) : Nat := if kind = 2 then (if width = 0 then 48 else 144) else 128 <<< width

/-- What one entry takes of its pool. -/
def entrySlots (kind width : Nat) : Nat := if kind = 1 then 1 else width + 1
def tblCap (s : State) (t : Nat) : Nat := regF s (aDesc t 1) 15 0 * tblUnit (tblKind s t)
def tblKeyBits (s : State) (t : Nat) : Nat := keyBits (tblKind s t) (tblWidth s t)

-- Entries.

def entriesOf (tb : Tables) (t : Nat) : List Entry := mapGet [] tb.entries t

/-- The entries of a table change, and ENTRIES with them. -/
def setEntries (s : State) (t : Nat) (l : List Entry) : State :=
  setReg { s with tables := { s.tables with entries := mapPut [] s.tables.entries t l } } (aDesc t 2) (BitVec.ofNat 32 l.length)

def findEntry (s : State) (t h : Nat) : Option Entry := (entriesOf s.tables t).find? (·.handle == h)
def modEntry (s : State) (t h : Nat) (f : Entry → Entry) : State :=
  setEntries s t ((entriesOf s.tables t).map fun e => if e.handle = h then f e else e)
/-- Remove an entry. -/
def delEntry (s : State) (t h : Nat) : State := setEntries s t ((entriesOf s.tables t).filter (·.handle != h))
def addEntry (s : State) (t : Nat) (e : Entry) : State := setEntries s t (entriesOf s.tables t ++ [e])

/-- A handle that no entry of the table holds: any of them, by a free value (R247 names none). -/
def newHandle (s : State) (t : Nat) : Nat :=
  let k := Config.freeNat s.freeCtr % 1048576
  let used := (entriesOf s.tables t).map (·.handle)
  (k + (findFrom (fun i => !used.contains ((k + i) % 1048576)) 1048576 0).getD 0) % 1048576
where
  findFrom (p : Nat → Bool) : Nat → Nat → Option Nat
    | 0, _ => none
    | f + 1, i => if p i then some i else findFrom p f (i + 1)

/-- A hash function of the halls over the octets of a key (R244). DEDUCED (log 38). -/
def hashOctets (s : State) (k : Nat) (b : List Byte) : Nat :=
  let cfg := reg s (aClk (0x2000 + 4 * k))
  let poly := if cfg.getLsbD 31 then 0xEDB88320 else 0x82F63B78
  crcRefl poly (fget cfg 15 0 * 65537) b ^^^ 0xFFFFFFFF

/-- A key under a hash function: padded to the table's width, most significant octet first (R244). DEDUCED (log 38). -/
def hashKey (s : State) (k t key : Nat) : Nat := hashOctets s k (bytesBE (tblKeyBits s t / 8) key)

/-- Whether a table has room for one more key (R247): an EXACT table from 90 % of its slots on may say no, by the key's two hashes. -/
def hasRoom (s : State) (t key : Nat) : Bool :=
  let need := entrySlots (tblKind s t) (tblWidth s t)
  let used := (entriesOf s.tables t).length * need
  if tblCap s t < used + need then false
  else if tblKind s t = 0 ∧ 9 * tblCap s t ≤ 10 * used then
    !Config.exactFull (hashKey s (regF s (aDesc t 0) 23 20) t key) (hashKey s (regF s (aDesc t 0) 19 16) t key) s.freeCtr
  else true

def freshEntry (handle key mask plen : Nat) (data : BitVec 96) (present : BitVec 2) (static age learned : Bool) : Entry :=
  { handle := handle, key := key, mask := mask, plen := plen, data := data, present := present, static := static, age := age,
    learned := learned, pinned := false, hit := 0, armed := 0, gone := 0, visited := false, moves := 0, window := 0 }

-- Lookups (R113, R200, R245, R248).

/-- An entry of a table matches a key. -/
def entryMatch (kind width : Nat) (e : Entry) (key : Nat) : Bool :=
  match kind with
  | 1 => key &&& e.mask == e.key &&& e.mask
  | 2 => prefixKey width key e.plen == e.key
  | _ => e.key == key

/-- The better of two matches: the lower TCAM row, the longer prefix. -/
def betterEntry (kind : Nat) (a b : Entry) : Bool := if kind = 1 then decide (a.handle < b.handle) else decide (b.plen < a.plen)

/-- A replica has removed an entry that the Clerk may yet restore (R258). -/
def goneIn (hall : Nat) (e : Entry) : Bool := e.gone.getLsbD hall

/-- The entry that a lookup of a parity finds, among the entries of a table that `live` lets it see. -/
def tblLookup (s : State) (t parity key : Nat) (live : Entry → Bool) : Option Entry :=
  let kind := tblKind s t
  let l := (entriesOf s.tables t).filter fun e =>
    e.present.getLsbD parity && live e && entryMatch kind (tblWidth s t) e key
  l.foldl (fun b e => match b with | none => some e | some x => if betterEntry kind e x then some e else some x) none

/-- The status word of an entry (Table TBL-3). -/
def statusWord (e : Entry) (index : Nat) : Nat :=
  2 ^ 31 + b2n e.pinned * 2 ^ 29 + b2n e.static * 2 ^ 28 + b2n e.learned * 2 ^ 27 + e.present.toNat * 2 ^ 25 + index % 2 ^ 20

/-- RESULT of a TBL_SEARCH that hits. -/
def searchResult (e : Entry) : List Byte := bytesLE 12 e.data.toNat ++ bytesLE 4 (statusWord e e.handle)

/-- An entry record (Table TBL-5). -/
def entryRecord (e : Entry) : List Byte :=
  bytesLE 64 e.key ++ bytesLE 64 e.mask ++ bytesLE 12 e.data.toNat ++ bytesLE 4 (statusWord e e.handle) ++ List.replicate 16 0

-- Groups (R249, R250).

/-- Number of entries of tables 64, 65 and 66. -/
def fixedCount (t : Nat) : Nat := if t = 64 then 16384 else if t = 65 then 262144 else 65536

def noGroup : MGroup := { mask := 0, qidx := 0 }
def getMcast (tb : Tables) (g : Nat) : MGroup := mapGet noGroup tb.mcast g

/-- The record of an entry of table 64, 65 or 66. -/
def fixedRecord (tb : Tables) (t i : Nat) : List Byte :=
  if t = 66 then
    let g := getMcast tb i
    bytesLE 144 g.mask ++ bytesLE 1 g.qidx ++ List.replicate 15 0
  else
    let d := mapGet 0 (if t = 64 then tb.groups else tb.members) i
    List.replicate 128 0 ++ bytesLE 12 d.toNat ++ bytesLE 4 (2 ^ 31) ++ List.replicate 16 0

/-- An entry that an operation writes anew: one issued after a REMOVE of the entry puts it back where that took it out (R252, R258).
DEDUCED (log 77). -/
def rewritten (s : State) (t : Nat) (e : Entry) : Entry :=
  if e.gone != 0 || s.clerk.inFlight.any (·.age == some (.remove t e.handle)) then { e with armed := 0, gone := 0 } else e

-- The change log (R114).

/-- A key, or a TCAM row, has a staged change in a change log (R114). -/
def stagedKey (s : State) (t key plen row : Nat) : Bool :=
  (s.prg.ing.changeLog ++ s.prg.egr.changeLog).any fun c =>
    c.table == t && (if tblKind s t = 1 then c.handles.contains row else c.key == key && c.plen == plen)

/-- The key of an entry has one. -/
def stagedIn (s : State) (t : Nat) (e : Entry) : Bool := stagedKey s t e.key e.plen e.handle

/-- A STAGED write adds one entry to the domain's change log. -/
def logChange (s : State) (t : Nat) (e : Entry) (handles : List Nat) : State :=
  let d := descDom s t
  setDom s d { getDom s d with
    changeLog := (getDom s d).changeLog ++ [{ table := t, key := e.key, plen := e.plen, handles := handles }] }

/-- The staged presence bit of a table's domain. -/
def stagedMask (s : State) (t : Nat) : BitVec 2 := BitVec.ofNat 2 (2 ^ stagedBank s (descDom s t))

end Sys2Proof.Machine
end

