-- ==== Sys2Proof/Machine/Clerk.lean ====
section
/-!
DEFINITION. The Clerk: host table commands, descriptor copies, learning, ageing, retire work, repair and row access
(R241, R242, R244, R251 to R266).
-/
namespace Sys2Proof.Machine

def clerkCount (s : State) (k : Nat) : State := add64 s (aClk (0x100 + 8 * k)) 1

/-- LEARN_FULL, LEARN_BUSY and LEARN_OVERFLOW raise source 0x621 at most once per 1 ms (R269). -/
def learnLoss (s : State) (k : Nat) : State := raiseLimited (clerkCount s k) 0x621 1000000

-- Host commands (R259 to R263).

/-- What a command asks of a key: key, mask, prefix length, TCAM row. -/
structure TblKey where
  key : Nat
  mask : Nat
  plen : Nat
  row : Nat
  deriving DecidableEq, Repr

def tblStaged (c : HostCmd) : Bool := (argN c 1 1).testBit 0
def tblAux (c : HostCmd) : Nat := argN c 2 2
def tblIndex (c : HostCmd) : Nat := argN c 4 4

/-- The key that a command names; none where a field is out of range (R259, R260). -/
def tblKeyOf (s : State) (c : HostCmd) (t : Nat) (search : Bool) : Option TblKey :=
  let w := tblKeyBits s t
  match tblKind s t with
  | 1 =>
    if c.dataLen ≠ 160 ∨ (¬ search ∧ tblCap s t ≤ tblIndex c) then none
    else some { key := leAt c.data 0 64 % 2 ^ w, mask := leAt c.data 64 64 % 2 ^ w, plen := 0, row := tblIndex c }
  | 2 =>
    let k := argN c 4 32 % 2 ^ w
    if search then some { key := k, mask := 0, plen := 0, row := 0 }
    else if addrBits (tblWidth s t) < tblAux c then none
    else some { key := prefixKey (tblWidth s t) k (tblAux c), mask := 0, plen := tblAux c, row := 0 }
  | _ => some { key := argN c 4 32 % 2 ^ w, mask := 0, plen := 0, row := 0 }

/-- Result data of a command. -/
def tblData (s : State) (c : HostCmd) (t : Nat) : BitVec 96 :=
  BitVec.ofNat 96 (if tblKind s t = 1 then leAt c.data 128 12 else argN c 36 12)

/-- The copies of the entry that a command names. -/
def copiesOf (s : State) (t : Nat) (k : TblKey) : List Entry :=
  (entriesOf s.tables t).filter fun e =>
    if tblKind s t = 1 then e.handle == k.row else e.key == k.key && e.plen == k.plen

/-- The result of a table command: the state, its status and RESULT. -/
abbrev TblDone := State × Nat × List Byte

/-- The presence bits that a write acts on. -/
def writeMask (s : State) (c : HostCmd) (t : Nat) : BitVec 2 := if tblStaged c then stagedMask s t else 3

/-- The copy that a write finds in the parity it writes. -/
def copyIn (s : State) (c : HostCmd) (t : Nat) (k : TblKey) : Option Entry :=
  (copiesOf s t k).find? fun e => e.present &&& writeMask s c t != 0

/-- What every write checks first (R114): a STAGED write needs open staging and room in the log, a LIVE one a key with no
staged change. -/
def writeRefusal (s : State) (c : HostCmd) (t : Nat) (k : TblKey) : Option Nat :=
  let d := descDom s t
  if tblStaged c then
    if !stageOpen s d then some stVersionBusy
    else if 65536 ≤ (getDom s d).changeLog.length then some stTableFull else none
  else if stagedKey s t k.key k.plen k.row then some stVersionBusy else none

/-- TBL_INSERT (R114, R247, R261). -/
def tblInsertAt (s : State) (c : HostCmd) (t : Nat) (k : TblKey) : TblDone :=
  match writeRefusal s c t k with
  | some st => (s, st, [])
  | none =>
    let taken := if tblKind s t = 1 then (copiesOf s t k).head? else copyIn s c t k
    match taken with
    | some e => (s, stBadArg, searchResult e)
    | none =>
      if tblKind s t ≠ 1 ∧ !hasRoom s t k.key then (drawn s, stTableFull, [])
      else
        let s' := if tblKind s t = 1 then s else drawn s
        let h := if tblKind s t = 1 then k.row else newHandle s' t
        let e := freshEntry h k.key k.mask k.plen (tblData s c t) (writeMask s c t) ((argN c 1 1).testBit 1) ((argN c 1 1).testBit 2) false
        let s' := addEntry (drawn s') t e
        (if tblStaged c then logChange s' t e [h] else s', stOk, [])

/-- An entry with the DATA, STATIC and AGE of an update, its pin ended and its move count restarted (R256, R261). -/
def updated (e : Entry) (data : BitVec 96) (static age : Bool) : Entry :=
  { e with data := data, static := static, age := age, pinned := false, moves := 0, window := 0,
           visited := e.visited && e.age && !e.static }

/-- TBL_UPDATE (R114, R261). -/
def tblUpdateAt (s : State) (c : HostCmd) (t : Nat) (k : TblKey) : TblDone :=
  match writeRefusal s c t k, copyIn s c t k with
  | some st, _ => (s, st, [])
  | none, none => (s, stNotFound, [])
  | none, some e =>
    let static := (argN c 1 1).testBit 1
    let age := (argN c 1 1).testBit 2
    let data := tblData s c t
    if !tblStaged c then (modEntry s t e.handle fun x => { updated (rewritten s t x) data static age with present := 3 }, stOk, [])
    else
      let row := tblAux c
      let tcam := tblKind s t == 1
      if tcam && (decide (tblCap s t ≤ row) || (findEntry s t row).isSome) then (s, stBadArg, [])
      else if !tcam && !hasRoom s t e.key then (drawn s, stTableFull, [])
      else
        let s' := if tcam then s else drawn s
        let h := if tcam then row else newHandle s' t
        let new := { updated e data static age with handle := h, present := stagedMask s t, armed := 0, gone := 0, visited := false }
        let s' := modEntry (drawn s') t e.handle fun x => { x with present := x.present &&& ~~~(stagedMask s t) }
        (logChange (addEntry s' t new) t e [e.handle, h], stOk, [])

/-- TBL_DELETE (R114, R261). -/
def tblDeleteAt (s : State) (c : HostCmd) (t : Nat) (k : TblKey) : TblDone :=
  match writeRefusal s c t k, copyIn s c t k with
  | some st, _ => (s, st, [])
  | none, none => (s, stNotFound, [])
  | none, some e =>
    if tblStaged c then
      (logChange (modEntry s t e.handle fun x => { x with present := x.present &&& ~~~(stagedMask s t) }) t e [e.handle], stOk, [])
    else ((copiesOf s t k).foldl (fun s x => delEntry s t x.handle) s, stOk, [])

/-- TBL_UPDATE of tables 64 to 66 (R249, R250). -/
def fixedUpdate (s : State) (c : HostCmd) (t : Nat) : TblDone :=
  let i := tblIndex c
  let d := BitVec.ofNat 96 (argN c 36 12)
  let count := nbits d.toNat 41 32
  if tblStaged c || decide (fixedCount t ≤ i) || (t == 66 && c.dataLen != 160)
      || (t == 64 && (decide (512 < count) || decide (262144 < nbits d.toNat 17 0 + count))) then (s, stBadArg, [])
  else
    let tb := s.tables
    let tb := if t = 64 then { tb with groups := mapPut 0 tb.groups i d }
      else if t = 65 then { tb with members := mapPut 0 tb.members i d }
      else { tb with mcast := mapPut noGroup tb.mcast i { mask := leAt c.data 0 144, qidx := leAt c.data 144 1 % 64 } }
    ({ s with tables := tb }, stOk, [])

/-- TBL_SEARCH (R261). -/
def tblSearchAt (s : State) (c : HostCmd) (t : Nat) : TblDone :=
  match tblKeyOf s c t true with
  | none => (s, stBadArg, [])
  | some k =>
    let d := descDom s t
    let parity := if (argN c 1 1).testBit 3 then stagedBank s d else curVer s d % 2
    match tblLookup s t parity k.key (fun _ => true) with
    | some e => (s, stOk, searchResult e)
    | none => (s, stNotFound, [])

/-- TBL_READ (R261): the record goes to host memory ahead of the completion. -/
def tblReadAt (s : State) (c : HostCmd) (t : Nat) : TblDone :=
  if c.dataLen ≠ 160 then (s, stBadArg, [])
  else if 64 ≤ t then
    (if fixedCount t ≤ tblIndex c then (s, stBadArg, []) else (dataOut s c (fixedRecord s.tables t (tblIndex c)), stOk, []))
  else match findEntry s t (tblIndex c) with
    | some e => (dataOut s c (entryRecord e), stOk, [])
    | none => (s, stNotFound, [])

/-- Insert into a list in ascending order of handle. -/
def insertByHandle (e : Entry) : List Entry → List Entry
  | [] => [e]
  | x :: r => if e.handle ≤ x.handle then e :: x :: r else x :: insertByHandle e r

/-- TBL_NEXT (R262). -/
def tblNextAt (s : State) (c : HostCmd) (t : Nat) : TblDone :=
  let n := tblAux c
  let i := tblIndex c
  if decide (n < 1) || decide (64 < n) || c.dataLen != 160 * n then (s, stBadArg, [])
  else
    let done := fun (s : State) (next count : Nat) (last : Bool) =>
      ((s, stOk, bytesLE 4 next ++ bytesLE 2 count ++ bytesLE 1 (b2n last)) : TblDone)
    if 64 ≤ t then
      let k := min n (fixedCount t - i)
      let recs := (List.range k).flatMap fun j => fixedRecord s.tables t (i + j)
      done (dataOut s c recs) (i + k) k (decide (fixedCount t ≤ i + k))
    else
      let l := ((entriesOf s.tables t).filter fun e => decide (i ≤ e.handle)).foldr insertByHandle []
      let recs := l.take n
      let next := match recs.getLast? with | some e => e.handle + 1 | none => i
      done (if recs.isEmpty then s else dataOut s c (recs.flatMap entryRecord)) next recs.length (decide (l.length ≤ n))

/-- TBL_FLUSH_PORT (R263). -/
def tblFlushAt (s : State) (c : HostCmd) : TblDone :=
  let t := argN c 0 1
  let port := tblAux c
  let tables := if t = 0xFF then (List.range 64).filter (fun u => descEn s u && descLearn s u) else [t]
  if decide (1151 < port) || (t != 0xFF && !descEn s t) then (s, stBadArg, [])
  else
    let named := tables.flatMap fun u =>
      ((entriesOf s.tables u).filter fun e => e.learned && !e.static && nbits e.data.toNat 90 80 == port).map fun e => (u, e)
    let keep := named.filter fun x => stagedIn s x.1 x.2
    let go := named.filter fun x => !stagedIn s x.1 x.2
    (go.foldl (fun s x => delEntry s x.1 x.2.handle) s, stOk, bytesLE 4 go.length ++ bytesLE 4 keep.length)

/-- A host table command as the Clerk carries it out. -/
def tblRun (s : State) (c : HostCmd) : TblDone :=
  let t := argN c 0 1
  if c.opcode = 0x15 then tblFlushAt s c
  else if 64 ≤ t ∧ t ≤ 66 then
    (if c.opcode = 0x13 then fixedUpdate s c t
     else if c.opcode = 0x16 then tblReadAt s c t
     else if c.opcode = 0x11 then tblNextAt s c t
     else (s, stBadArg, []))
  else if !descEn s t then (s, stBadArg, [])
  else if c.opcode = 0x10 then tblSearchAt s c t
  else if c.opcode = 0x11 then tblNextAt s c t
  else if c.opcode = 0x16 then tblReadAt s c t
  else match tblKeyOf s c t false with
    | none => (s, stBadArg, [])
    | some k =>
      if c.opcode = 0x12 then tblInsertAt s c t k
      else if c.opcode = 0x13 then tblUpdateAt s c t k
      else tblDeleteAt s c t k

-- Descriptors and hash functions (R241, R242, R244).

/-- A bit of the Clerk set's ERR sets: source 0x623. -/
def clkErr (s : State) (bit : Nat) : State := raise (setBit s (aClk 4) bit true) 0x623

/-- A WIDTH code that a kind defines. -/
def widthOk (kind width : Nat) : Bool := if kind = 1 then decide (width ≤ 2) else decide (width ≤ 1)

/-- Ranges of two descriptors overlap in their pool. -/
def descClash (s : State) (t kind base size : Nat) : Bool :=
  (List.range 64).any fun u => u != t && descEn s u && tblKind s u == kind
    && rangesMeet base size (regF s (aDesc u 1) 31 16) (regF s (aDesc u 1) 15 0)
where
  rangesMeet (b1 n1 b2 n2 : Nat) : Bool := n1 != 0 && n2 != 0 && decide (b1 < b2 + n2) && decide (b2 < b1 + n1)

/-- The shape under which entries were written: KIND, WIDTH, BASE and SIZE plus one. DEDUCED (log 15). -/
def shapeOf (kind width base size : Nat) : Nat := ((kind * 4 + width) * 65536 + base) * 65536 + size + 1

/-- The part of a pool in which a descriptor's entries stand. -/
def descPart (tb : Tables) (u : Nat) : PoolPart :=
  let sh := mapGet 0 tb.shape u - 1
  { kind := sh / 65536 / 65536 / 4, width := sh / 65536 / 65536 % 4, base := sh / 65536 % 65536, size := sh % 65536,
    entries := entriesOf tb u }

/-- An entry of a part lies in a range of the pool: a TCAM entry by its row; where an EXACT or LPM entry of a part that the range
cuts lies, nothing states, and a free value says. DEDUCED (log 15). -/
def entryInside (ctr : Nat) (p : PoolPart) (base size i : Nat) (e : Entry) : Bool :=
  if p.kind = 1 then decide (base ≤ p.base + e.handle / 512 ∧ p.base + e.handle / 512 < base + size)
  else decide (base ≤ p.base ∧ p.base + p.size ≤ base + size) || Config.freeBool (ctr + i)

/-- The entries of a part inside a range, and the part without them. -/
def splitPart (ctr : Nat) (p : PoolPart) (base size : Nat) : List Entry × PoolPart :=
  let l := p.entries.zipIdx
  ((l.filter fun x => entryInside ctr p base size x.2 x.1).map (·.1),
    { p with entries := (l.filter fun x => !entryInside ctr p base size x.2 x.1).map (·.1) })

/-- An entry that a table takes over: a TCAM row counts from the new BASE; another keeps its handle where it is free, and stays
out where its key is taken or no room is left. DEDUCED (log 15). -/
def takeEntry (p : PoolPart) (s : State) (t : Nat) (e : Entry) : State :=
  if p.kind = 1 then addEntry s t { e with handle := p.base * 512 + e.handle - regF s (aDesc t 1) 31 16 * 512 }
  else
    let l := entriesOf s.tables t
    if l.any (fun x => x.key == e.key && x.plen == e.plen && x.present &&& e.present != 0)
        || decide (tblCap s t < (l.length + 1) * entrySlots (tblKind s t) (tblWidth s t)) then s
    else if l.any (·.handle == e.handle) then addEntry (drawn s) t { e with handle := newHandle s t }
    else addEntry s t e

/-- What an enabled range takes over of a part of its pool: the entries inside under the same WIDTH; those of another are
discarded (R242). -/
def takePart (s : State) (t : Nat) (p : PoolPart) : State × PoolPart :=
  let x := splitPart s.freeCtr p (regF s (aDesc t 1) 31 16) (regF s (aDesc t 1) 15 0)
  let s := { s with freeCtr := s.freeCtr + p.entries.length }
  (if p.width = tblWidth s t then forEach x.1 (fun s e => takeEntry p s t e) s else s, x.2)

/-- A part meets the range of an enabled descriptor in its pool. -/
def partMeets (s : State) (t : Nat) (p : PoolPart) : Bool :=
  p.kind == tblKind s t && descClash.rangesMeet (regF s (aDesc t 1) 31 16) (regF s (aDesc t 1) 15 0) p.base p.size

/-- A descriptor is enabled (R242): its range takes over the entries that stand there under its KIND and WIDTH, whichever
descriptor wrote them; those it wrote under another KIND or WIDTH are discarded, those outside the range stay in the pool. DEDUCED (log 15). -/
def takeOver (s : State) (t : Nat) : State :=
  let mine := descPart s.tables t
  let had := mapGet 0 s.tables.shape t != 0 && mine.kind == tblKind s t
  let parts := s.tables.left ++ (if had then [mine] else [])
  let s := setEntries { s with tables := { s.tables with left := [] } } t []
  let s := forEach parts (fun s p =>
    let x := if partMeets s t p then takePart s t p else (s, p)
    if x.2.entries.isEmpty then x.1
    else { x.1 with tables := { x.1.tables with left := x.1.tables.left ++ [x.2] } }) s
  let s := forEach (List.range 64) (fun s u =>
    if u = t ∨ mapGet 0 s.tables.shape u = 0 ∨ descEn s u ∨ ¬ partMeets s t (descPart s.tables u) then s
    else
      let x := takePart s t (descPart s.tables u)
      setEntries x.1 u x.2.entries) s
  let shape := shapeOf (tblKind s t) (tblWidth s t) (regF s (aDesc t 1) 31 16) (regF s (aDesc t 1) 15 0)
  { s with tables := { s.tables with shape := mapPut 0 s.tables.shape t shape } }

/-- DESC0 as a write to a disabled descriptor leaves it: a reserved KIND or WIDTH keeps its field (R16). -/
def descMerge (old value : Word) : Word :=
  let kind := if fget value 30 29 = 3 then fget old 30 29 else fget value 30 29
  let width := if widthOk kind (fget value 27 26) then fget value 27 26 else fget old 27 26
  fset (fset value 30 29 kind) 27 26 width

/-- The checks of an enabling write. -/
def enableBad (s : State) (t : Nat) (v : Word) : Bool :=
  let kind := fget v 30 29
  let base := regF s (aDesc t 1) 31 16
  let size := regF s (aDesc t 1) 15 0
  size == 0 || decide (tblPoolUnits kind < base + size) || descClash s t kind base size
  || kind == 3 || !widthOk kind (fget v 27 26) || (kind == 0 && fget v 23 20 == fget v 19 16)

/-- A descriptor write as the Clerk applies it (R242). -/
def descApply (s : State) (t word : Nat) (v : Word) : State :=
  let old0 := reg s (aDesc t 0)
  if word = 1 then
    (if descEn s t then (if v = reg s (aDesc t 1) then s else clkErr s 0) else setReg s (aDesc t 1) v)
  else
    let fixed : Word := 0x7CFF0000
    if descEn s t then (if v &&& fixed = old0 &&& fixed then setReg s (aDesc t 0) v else clkErr s 0)
    else if v.getLsbD 31 then (if enableBad s t v then clkErr s 1 else takeOver (setReg s (aDesc t 0) v) t)
    else setReg s (aDesc t 0) (descMerge old0 v)

/-- A HASH_CFG write as the Clerk applies it (R244). -/
def hashApply (s : State) (k : Nat) (v : Word) : State :=
  let used := (List.range 64).any fun t => descEn s t && tblKind s t == 0
    && (regF s (aDesc t 0) 23 20 == k || regF s (aDesc t 0) 19 16 == k)
  if used then clkErr s 0 else setReg s (aClk (0x2000 + 4 * k)) (v &&& 0x80FFFFFF)

-- Learning (R253 to R256).

/-- A learn request reaches the intake: merged, taken, or lost. DEDUCED (log 77). -/
def learnOffer (s : State) (r : LearnReq) : State :=
  if islandDown s 112 then learnLoss s 5
  else if s.clerk.learn.contains r then pmcEvent (pmcEvent s 0x8D1 1) 0x8D2 1
  else if 16384 ≤ s.clerk.learn.length then learnLoss s 5
  else pmcEvent { s with clerk := { s.clerk with learn := s.clerk.learn ++ [r] } } 0x8D1 1

/-- An entry's port: data word 1 bits [26:16]. -/
def entryPort (e : Entry) : Nat := nbits e.data.toNat 90 80
def withPort (e : Entry) (port : Nat) : Entry := { e with data := BitVec.ofNat 96 (putBits e.data.toNat 90 80 port) }

/-- ADDR_FLAP (R256): the entry is pinned to its present port. -/
def pinEntry (s : State) (t : Nat) (e : Entry) : State :=
  let s := modEntry s t e.handle fun x => { rewritten s t x with pinned := true }
  let s := setReg s (aClk 0x18) (BitVec.ofNat 32 (2 ^ 31 + entryPort e * 2 ^ 20 + e.handle % 2 ^ 20))
  raise (clerkCount (setReg s (aClk 0x1C) (BitVec.ofNat 32 t)) 2) 0x620

/-- A station move (R256): counted, and made unless it would exceed THRESHOLD inside the window. DEDUCED (log 77). -/
def moveEntry (s : State) (t : Nat) (e : Entry) (port : Nat) : State :=
  let place := fun (x : Entry) => withPort (rewritten s t x) port
  let limit := regF s (aClk 0x10) 3 0
  let span := regF s (aClk 0x14) 31 16 * 1000000
  let closed := e.window == 0 || decide (e.window + span ≤ s.elapsed + 1)
  let moves := if closed then 0 else e.moves
  let window := if closed then s.elapsed + 1 else e.window
  if limit = 0 then clerkCount (modEntry s t e.handle place) 1
  else if limit < moves + 1 then pinEntry s t e
  else clerkCount (modEntry s t e.handle fun x => { place x with moves := moves + 1, window := window }) 1

/-- The Clerk takes a learn request (R255). DEDUCED (log 77). -/
def learnTake (s : State) (r : LearnReq) : State :=
  if !descEn s r.table || !descLearn s r.table || tblKind s r.table != 0 then learnLoss s 4
  else
    let es := (entriesOf s.tables r.table).filter (·.key == r.key)
    match es.find? (fun e => e.present != 0), es with
    | _, [] =>
      if !hasRoom s r.table r.key then learnLoss (drawn s) 3
      else
        let s' := drawn s
        let e := freshEntry (newHandle s' r.table) r.key 0 0 (BitVec.ofNat 96 (r.port % 2048 * 2 ^ 80)) 3 false (regBit s (aDesc r.table 0) 24) true
        clerkCount (addEntry (drawn s') r.table e) 0
    | some e, _ =>
      if es.any (fun x => stagedIn s r.table x || x.static) then learnLoss s 4
      else if entryPort e = r.port then s
      else if e.pinned then clerkCount s 2
      else moveEntry s r.table e r.port
    | none, _ => learnLoss s 4

/-- FLAP_HOLD_END (R256): the pin ends and the count restarts. DEDUCED (log 77). -/
def execFlapHoldEnd (table handle : Nat) (s : State) : Host.Outcome State Fault Refusal :=
  .next (match findEntry s table handle with
    | some e => if e.pinned then modEntry s table handle fun x => { x with pinned := false, moves := 0, window := 0 } else s
    | none => s)

-- Ageing (R257, R258).

/-- An entry that the ageing engine visits. -/
def ageable (s : State) (t h : Nat) : Bool :=
  match findEntry s t h with
  | some e => descAges s t && e.age && !e.static && e.gone == 0 && !stagedIn s t e
  | none => false

/-- TEST (R258): each replica reads and clears its hit bit and arms where it was clear. REMOVE is due where every replica
armed the entry and an earlier visit has been made (R257). DEDUCED (log 77). -/
def ageTest (s : State) (t h : Nat) : State :=
  match findEntry s t h with
  | some e =>
    if !ageable s t h then s
    else
      let s := modEntry s t h fun x => { x with armed := ~~~x.hit, hit := 0, visited := true }
      if e.hit = 0 ∧ e.visited then { s with clerk := { s.clerk with remove := s.clerk.remove ++ [(t, h)] } } else s
  | none => s

/-- The tables as they stood before each operation in flight, changed in one table. -/
def modBefore (s : State) (t : Nat) (f : List Entry → List Entry) : State :=
  let one := fun (tb : Tables) => { tb with entries := mapMod [] tb.entries t f }
  { s with clerk := { s.clerk with inFlight := s.clerk.inFlight.map fun x => { x with before := one x.before } } }

/-- An entry changes wherever a replica may show it. -/
def modEverywhere (s : State) (t h : Nat) (f : Entry → Entry) : State :=
  modEntry (modBefore s t fun l => l.map fun e => if e.handle = h then f e else e) t h f

/-- What an ageing operation does in one replica (R258): REMOVE removes the entry where it is still armed, the restore brings it
back with the hit bit clear. -/
def ageInHall (s : State) (hall : Nat) (op : AgeOp) : State :=
  match op with
  | .remove t h => modEverywhere s t h fun e =>
      if e.armed.getLsbD hall then
        { e with gone := BitVec.ofNat 9 (putBit e.gone.toNat hall true), armed := BitVec.ofNat 9 (putBit e.armed.toNat hall false) }
      else e
  | .restore t h => modEverywhere s t h fun e =>
      if e.gone.getLsbD hall then
        { e with gone := BitVec.ofNat 9 (putBit e.gone.toNat hall false), hit := BitVec.ofNat 9 (putBit e.hit.toNat hall false) }
      else e

/-- An ageing operation is in force everywhere (R258): the hit wins. Removed by every replica, the entry is gone; kept by
some, its restore is due. -/
def ageInForce (s : State) (op : AgeOp) : State :=
  match op with
  | .restore _ _ => s
  | .remove t h =>
    match findEntry s t h with
    | none => s
    | some e =>
      if e.gone = 0x1FF then clerkCount (delEntry (modBefore s t fun l => l.filter (·.handle != h)) t h) 6
      else if e.gone = 0 then s
      else { s with clerk := { s.clerk with restore := s.clerk.restore ++ [(t, h)] } }

-- What the halls hold of the operations issued (R252).

/-- A replica applies an operation. -/
def hallApply (hall : Nat) (s : State) (x : Issued) : State :=
  match x.age with | some op => ageInHall s hall op | none => s

/-- The operations issued that a replica has not applied, in their order. -/
def unseen (s : State) (hall : Nat) : List Issued := s.clerk.inFlight.filter fun x => !x.seen.getLsbD hall

/-- A replica applies the first `n` operations that it has not applied. DEDUCED (log 51). -/
def hallTake (s : State) (hall n : Nat) : State :=
  let s' := forEach ((unseen s hall).take n) (hallApply hall) s
  let mark := fun (x : Issued) => { x with seen := BitVec.ofNat 9 (putBit x.seen.toNat hall true) }
  let l := s.clerk.inFlight.foldl (fun (a : List Issued × Nat) x =>
    if x.seen.getLsbD hall || a.2 == 0 then (a.1 ++ [x], a.2) else (a.1 ++ [mark x], a.2 - 1)) ([], n)
  { s' with clerk := { s'.clerk with inFlight := l.1 } }

/-- A replica comes to apply some of the operations issued, in their order; how many, a free value says (R252). DEDUCED (log 51). -/
def hallAdvance (s : State) (hall : Nat) : State :=
  drawn (hallTake s hall (Config.freeNat s.freeCtr % ((unseen s hall).length + 1)))

/-- The part as one replica shows the tables, the descriptors and the hash functions: without what it has not applied. DEDUCED (log 51). -/
def hallState (s : State) (hall : Nat) : State :=
  match unseen s hall with
  | [] => s
  | x :: rest =>
    { s with tables := x.before, regs := (x :: rest).foldr (fun y m =>
        y.old.foldl (fun m r => mapPut (resetWord r.1) m r.1 r.2) m) s.regs }

-- Retire (R123).

/-- One change-log entry is worked through: a copy present only in the retiring parity, or in none, is removed; one present
in the current parity gains the retiring bit. -/
def retireChange (s : State) (d : Dom) (c : Change) : State :=
  c.handles.foldl (fun s h =>
    match findEntry s c.table h with
    | some e => if e.present.getLsbD (curVer s d % 2) then modEntry s c.table h fun x => { x with present := 3 } else delEntry s c.table h
    | none => s) s

-- The order of operations (R251 to R253).

inductive ClerkPick where
  | retire (d : Dom) | restore | repair | host | learn | age
  deriving DecidableEq, Repr

def classWaits (s : State) (k : Nat) : Bool :=
  match k with
  | 0 => !s.clerk.host.isEmpty
  | 1 => !s.clerk.learn.isEmpty
  | _ => !s.clerk.age.isEmpty || !s.clerk.remove.isEmpty

def pickOf (k : Nat) : ClerkPick := match k with | 0 => .host | 1 => .learn | _ => .age
def classOf (p : ClerkPick) : Option Nat := match p with | .host => some 0 | .learn => some 1 | .age => some 2 | _ => none

/-- What the Clerk issues next. -/
def clerkNext (s : State) : Option ClerkPick :=
  if islandDown s 112 then none
  else if !s.prg.ing.retireTodo.isEmpty then some (.retire .ing)
  else if !s.prg.egr.retireTodo.isEmpty then some (.retire .egr)
  else if !s.clerk.restore.isEmpty then some .restore
  else if !s.clerk.repair.isEmpty then some .repair
  else (([1, 2, 3].map fun i => (s.clerk.lastClass + i) % 3).find? (classWaits s)).map pickOf

/-- The Clerk issues `f` as one operation (R251, R252): the tables and the registers `regs` as they stood are kept until it is
in force, and `done` of what `f` leaves waits for that. -/
def clerkIssued (s : State) (regs : List Nat) (age : Option AgeOp) (f : State → State)
    (done : Option (HostCmd × Nat × List Byte) := none) : State :=
  let x : Issued :=
    { before := s.tables, old := regs.map fun a => (a, reg s a), seen := 0, age := age, done := done, write := !regs.isEmpty }
  let s' := f s
  pmcEvent { s' with clerk := { s'.clerk with inFlight := s'.clerk.inFlight ++ [x] } } 0x8D0 1

/-- One operation of the class HOST. -/
def issueHost (s : State) (op : ClerkOp) : State :=
  match op with
  | .cmd c => let r := tblRun s c; clerkIssued s [] none (fun _ => r.1) (some (c, r.2.1, r.2.2))
  | .desc t w v => clerkIssued s [aDesc t w] none (descApply · t w v)
  | .hash k v => clerkIssued s [aClk (0x2000 + 4 * k)] none (hashApply · k v)

/-- The Clerk issues an operation of a class or queue, oldest first. A repair waits for its row of commands. A REMOVE of an entry that
the ageing engine no longer visits falls away (R114, R242, R257). DEDUCED (log 77). -/
def clerkDo (s : State) (p : ClerkPick) : State :=
  let s := match classOf p with | some k => { s with clerk := { s.clerk with lastClass := k } } | none => s
  match p with
  | .retire d =>
    match (getDom s d).retireTodo with
    | c :: rest => clerkIssued (setDom s d { getDom s d with retireTodo := rest }) [] none (retireChange · d c)
    | [] => s
  | .restore =>
    match s.clerk.restore with
    | x :: rest =>
      clerkIssued { s with clerk := { s.clerk with restore := rest } } [] (some (.restore x.1 x.2)) fun s =>
        if (findEntry s x.1 x.2).isSome then clerkCount s 7 else s
    | [] => s
  | .repair => s
  | .host =>
    match s.clerk.host with
    | op :: rest => issueHost { s with clerk := { s.clerk with host := rest } } op
    | [] => s
  | .learn =>
    match s.clerk.learn with
    | r :: rest => clerkIssued { s with clerk := { s.clerk with learn := rest } } [] none (learnTake · r)
    | [] => s
  | .age =>
    match s.clerk.remove, s.clerk.age with
    | x :: rest, _ =>
      let s := { s with clerk := { s.clerk with remove := rest } }
      if ageable s x.1 x.2 then clerkIssued s [] (some (.remove x.1 x.2)) fun s => s else s
    | [], x :: rest => clerkIssued { s with clerk := { s.clerk with age := rest } } [] none (ageTest · x.1 x.2)
    | [], [] => s

/-- An operation of the class HOST reaches the Clerk; where nothing else is ahead of it, it is issued in the same step. -/
def clerkPost (s : State) (op : ClerkOp) : State :=
  let s' := { s with clerk := { s.clerk with host := s.clerk.host ++ [op] } }
  if s.clerk.host.isEmpty && clerkNext s' == some .host then clerkDo s' .host else s'

/-- CLERK_ISSUE (R251 to R253). -/
def execClerkIssue (s : State) : Host.Outcome State Fault Refusal :=
  .next (match clerkNext s with | some p => clerkDo s p | none => s)

/-- The oldest issued operation is in force in all nine replicas, and its completion is formed (R252). -/
def clerkInForce (s : State) : State :=
  match s.clerk.inFlight with
  | [] => s
  | x :: rest =>
    if (List.range 9).any fun h => islandDown s (112 + h) then s
    else
      let late := (List.range 9).filter fun h => !x.seen.getLsbD h
      let s := forEach late (fun s h => hallApply h s x) { s with clerk := { s.clerk with inFlight := rest } }
      let s := match x.age with | some op => ageInForce s op | none => s
      match x.done with | some (c, st, r) => complete s c st r | none => s

/-- A host table command starts (R53, R88): it reaches the Clerk. -/
def tblStart (s : State) (c : HostCmd) (row : CmdRow) : State :=
  runCmd s c row fun s => clerkPost (setPhase s c .started) (.cmd c)

/-- TBL_SEARCH (R261). -/
def execTblSearch (cmd : HostCmd) (s : State) : Host.Outcome State Fault Refusal := .next (tblStart s cmd .tblSearch)
/-- TBL_NEXT (R262). -/
def execTblNext (cmd : HostCmd) (s : State) : Host.Outcome State Fault Refusal := .next (tblStart s cmd .tblNext)
/-- TBL_INSERT (R261). -/
def execTblInsert (cmd : HostCmd) (s : State) : Host.Outcome State Fault Refusal := .next (tblStart s cmd .tblInsert)
/-- TBL_UPDATE (R261). -/
def execTblUpdate (cmd : HostCmd) (s : State) : Host.Outcome State Fault Refusal := .next (tblStart s cmd .tblUpdate)
/-- TBL_DELETE (R261). -/
def execTblDelete (cmd : HostCmd) (s : State) : Host.Outcome State Fault Refusal := .next (tblStart s cmd .tblDelete)
/-- TBL_FLUSH_PORT (R263). -/
def execTblFlushPort (cmd : HostCmd) (s : State) : Host.Outcome State Fault Refusal := .next (tblStart s cmd .tblFlushPort)
/-- TBL_READ (R261). -/
def execTblRead (cmd : HostCmd) (s : State) : Host.Outcome State Fault Refusal := .next (tblStart s cmd .tblRead)

/-- A write of a Clerk register that the Clerk itself copies: it waits at the crossing for earlier accesses only (R41, R241). -/
def clerkWrite (s : State) (a : Nat) (value : Word) (op : ClerkOp) : State :=
  atCrossing s (crossingShut s 112) (.write a value) (clerkPost · op)

/-- DESC_WRITE (R241, R242): words 0 and 1 are written; ENTRIES and DESC3 are not. -/
def execDescWrite (t word : Nat) (value : Word) (s : State) : Host.Outcome State Fault Refusal :=
  .next (if t < 64 ∧ word < 2 then clerkWrite s (aDesc t word) value (.desc t word value) else s)

/-- HASH_CFG_WRITE (R244). -/
def execHashCfgWrite (k : Nat) (value : Word) (s : State) : Host.Outcome State Fault Refusal :=
  .next (if k < 16 then clerkWrite s (aClk (0x2000 + 4 * k)) value (.hash k value) else s)

/-- LEARN_INSTALL (R253, R255): the Clerk takes the oldest learn request when its class is next. -/
def execLearnInstall (s : State) : Host.Outcome State Fault Refusal :=
  .next (if clerkNext s = some .learn then clerkDo s .learn else s)

/-- AGE_VISIT (R257, R258): the ageing engine reaches an entry, and the Clerk's TEST follows when its class is next. -/
def execAgeVisit (table handle : Nat) (s : State) : Host.Outcome State Fault Refusal :=
  .next (if !ageable s table handle then s
    else
      let s' := { s with clerk := { s.clerk with age := s.clerk.age ++ [(table, handle)] } }
      if s.clerk.age.isEmpty && s.clerk.remove.isEmpty && clerkNext s' == some .age then clerkDo s' .age else s')

/-- AGE_REMOVE (R258): the REMOVE that is due for an entry. -/
def execAgeRemove (table handle : Nat) (s : State) : Host.Outcome State Fault Refusal :=
  .next (if s.clerk.remove.head? = some (table, handle) ∧ clerkNext s = some .age then clerkDo s .age else s)

/-- AGE_RESTORE (R258): the restore that is due for an entry. -/
def execAgeRestore (table handle : Nat) (s : State) : Host.Outcome State Fault Refusal :=
  .next (if s.clerk.restore.head? = some (table, handle) ∧ clerkNext s = some .restore then clerkDo s .restore else s)

-- Retire's end (R123).

/-- A flat program key with its bank taken off, and whether a domain holds it. -/
def bankSpan : Nat := 8 * 128 * 32 * 0x80000
def keyDom (k : Nat) : Dom := spaceDom (k % bankSpan / (128 * 32 * 0x80000)) (k / (32 * 0x80000) % 128)

/-- A list of program keys after the copy of a domain's current bank into the freed one. -/
def copyKeys (d : Dom) (cur : Nat) (l : List Nat) : List Nat :=
  let from_ := fun k => k / bankSpan == cur && keyDom k == d
  let other := fun k => k / bankSpan != cur && keyDom k == d
  l.filter (fun k => !other k) ++ (l.filter from_).map fun k => k % bankSpan + (1 - cur) * bankSpan

/-- Every space of the current version is copied into the freed bank; a copy of a poisoned word is poisoned (R123, R214). DEDUCED (log 37). -/
def copyBank (s : State) (d : Dom) : State :=
  let cur := curVer s d % 2
  let keep := s.prog.filter fun x => !(x.1 / bankSpan != cur && keyDom x.1 == d)
  let mine := s.prog.filter fun x => x.1 / bankSpan == cur && keyDom x.1 == d
  { s with
    prog := mine.foldl (fun m x => mapPut 0 m (x.1 % bankSpan + (1 - cur) * bankSpan) x.2) keep
    pipes := { s.pipes with poison := copyKeys d cur s.pipes.poison, parsePoison := copyKeys d cur s.pipes.parsePoison } }

/-- RETIRE_COMPLETE (R123): the change log empties, staging opens and source 0x202 or 0x203 is raised. -/
def execRetireComplete (d : Dom) (s : State) : Host.Outcome State Fault Refusal :=
  .next (if !regBit s (aDom d 0) 2 || !(getDom s d).retireTodo.isEmpty then s
    else
      let s := copyBank (setDom s d { getDom s d with changeLog := [] }) d
      raise (openStage (setBit s (aDom d 0) 2 false) d) (0x202 + domIdx d))

-- Replica rows (R264 to R266, Table TBL-8).

/-- An uncorrectable error of a hall's row: counted, recorded and raised, and the row is to be repaired (R266, Table CRI-8). -/
def rowError (s : State) (hall row requester access : Nat) : State :=
  let due := if s.clerk.repair.contains (hall, row) then s.clerk.repair else s.clerk.repair ++ [(hall, row)]
  fault (satF { s with clerk := { s.clerk with repair := due } } (aTbl hall 8) 31 16 1) 0x622 access requester
    (hall * 2 ^ 32 + row) (Config.syndrome s.freeCtr % 65536)

/-- The hall whose replica a repair copies a row from: the lowest other one with no error of that row due. DESIGN CHOICE (log 14). -/
def repairSource (s : State) (hall row : Nat) : Nat :=
  ((List.range 9).find? fun h => h != hall && !s.clerk.repair.contains (h, row)).getD hall

/-- The row as another hall holds it (R266). DESIGN CHOICE (log 14). -/
def repairRow (hall row : Nat) (s : State) : State :=
  let raw := mapPut [] s.tables.raw (hall * 2 ^ 21 + row) (mapGet [] s.tables.raw (repairSource s hall row * 2 ^ 21 + row))
  clerkCount { s with tables := { s.tables with raw := raw } } 8

/-- REPLICA_REPAIR (R253, R266): the repair that is due for a row, when it is next: the Clerk copies the row from another hall's
replica; where every replica of it is bad, its entries are removed and each has a record. -/
def execReplicaRepair (hall row : Nat) (entries : List (Nat × Nat)) (allBad : Bool) (s : State) : Host.Outcome State Fault Refusal :=
  .next (if s.clerk.repair.head? ≠ some (hall, row) ∨ clerkNext s ≠ some .repair then s
    else
      let s' := { s with clerk := { s.clerk with repair := s.clerk.repair.filter fun x =>
        x != (hall, row) && !(allBad && x.2 == row) } }
      if allBad then
        clerkIssued s' [] none (forEach entries fun s x =>
          faultRecord (delEntry s x.1 x.2) 0x622 1 0x0210 (hall * 2 ^ 32 + row) (Config.syndrome s.freeCtr % 65536))
      else clerkIssued s' [] none (repairRow hall row))

/-- A read corrects a single-bit error (R266). -/
def rowCorrected (s : State) (hall : Nat) : State := satF s (aTbl hall 8) 15 0 1

/-- TABLE_SCRUB (R264, R266): SCRUB reads and corrects one row. -/
def execTableScrub (hall row : Nat) (corr uncorr : Bool) (s : State) : Host.Outcome State Fault Refusal :=
  .next (if decide (8 < hall) || islandDown s (112 + hall) then s
    else if uncorr then rowError s hall row (0x200 + hall) 9
    else if corr then rowCorrected s hall
    else s)

/-- ROW of a RAW_CTRL write: kept where its code is reserved (R16). DESIGN CHOICE (log 14). -/
def rawRow (s : State) (hall : Nat) (value : Word) : State :=
  if fget value 20 0 ≤ 1572863 then setF s (aTbl hall 0x100) 20 0 (fget value 20 0) else s
/-- DESIGN CHOICE (log 14). -/
def rawKey (s : State) (hall : Nat) : Nat := hall * 2 ^ 21 + regF s (aTbl hall 0x100) 20 0

/-- RAW_ROW_READ (R264, R268): the row enters RAW_DATA. What a row that RAW_CTRL has not written holds is not stated: free
values (DESIGN CHOICE, log 14). -/
def execRawRowRead (hall : Nat) (value : Word) (s : State) : Host.Outcome State Fault Refusal :=
  .next (if 8 < hall then s
    else holdWrite s (112 + hall) (aTbl hall 0x100) value fun s =>
      let s := rawRow s hall value
      let row := mapGet [] s.tables.raw (rawKey s hall)
      let w := fun i => if row.isEmpty then Config.freeWord (s.freeCtr + i) else row.getD i 0
      { forEach (List.range 16) (fun s i => setReg s (aTbl hall (0x140 + 4 * i)) (w i)) s with freeCtr := s.freeCtr + 16 })

/-- RAW_ROW_WRITE (R264, R268): in the DEBUG state RAW_DATA is written to the row; in any other it is ignored. DESIGN CHOICE (log 14). -/
def execRawRowWrite (hall : Nat) (value : Word) (s : State) : Host.Outcome State Fault Refusal :=
  .next (if 8 < hall then s
    else holdWrite s (112 + hall) (aTbl hall 0x100) value fun s =>
      let s := rawRow s hall value
      if !inDebug s then s
      else
        let row := (List.range 16).map fun i => reg s (aTbl hall (0x140 + 4 * i))
        { s with tables := { s.tables with raw := mapPut [] s.tables.raw (rawKey s hall) row } })

end Sys2Proof.Machine
end

