-- ==== Sys2Proof/Machine/Crier.lean ====
section
/-!
DEFINITION. The Crier and the fault collector: dispatch, service, grace timers and the running of action lists
(chapter 18).
-/
namespace Sys2Proof.Machine

/-- SOURCE_FORCE (R440, Table CRI-2): raises the source as an event; a level source as though its line had risen. -/
def execSourceForce (value : Word) (s : State) : Host.Outcome State Fault Refusal :=
  .next (holdWrite s 126 (aCri 0x10) value (raise · (fget value 11 0)))

/-- Sleeping cores are judged against every pending source (R431). -/
def wakeCores (s : State) : State := forEach s.crier.pend wakeCore s

/-- SRC_CFG_WRITE (R426, R427): sets enable, priority and target. A firmware-owned source and CORE = 1 refuse the host's write.
An enable while pending, or a change of target while pending and enabled, counts one event. Firmware that runs writes the sources that it owns.
DESIGN CHOICE (log 54). -/
def execSrcCfgWrite (id : Nat) (value : Word) (fw : Bool) (s : State) : Host.Outcome State Fault Refusal :=
  .next (if 0xFFF < id then s
    else if fw then
      (if decide (id < 0xF00) || !fwRuns s then s
      else wakeCores (setReg s (aSrc id) ((reg s (aSrc id) &&& 0x70FFE800) ||| (value &&& 0x8F0017FF))))
    else holdWrite s 126 (aSrc id) value fun s =>
    if decide (0xF00 ≤ id) then setErrE04 s (aCri 0) 0
    else if value.getLsbD 12 then setErrE04 s (aCri 0) 1
    else
      let old := reg s (aSrc id)
      let m : Word := 0x8F0007FF
      let new := (old &&& ~~~m) ||| (value &&& m)
      let s := setReg s (aSrc id) new
      let moved := !old.getLsbD 31 || fget old 10 0 != fget new 10 0
      if s.crier.pend.contains id && new.getLsbD 31 && moved then countEvent s id else s)

/-- VECTOR_TIMER_EXPIRY (R428): the vector becomes ready. -/
def execVectorTimerExpiry (v : Nat) (s : State) : Host.Outcome State Fault Refusal :=
  .next (if (getVec s v).timer then
      { s with crier := { s.crier with vecs := mapMod vecIdle s.crier.vecs v fun x => { x with timer := false, ready := true } } }
    else s)

-- Dispatch (R427 to R431).

/-- Source `id` is pending and enabled for host vector `v`. -/
def targets (s : State) (v id : Nat) : Bool :=
  decide (id < 0xF00) && regBit s (aSrc id) 31 && regF s (aSrc id) 10 0 == v

/-- The vector priority: the highest PRIO among its pending enabled sources (R428). -/
def vecPrio (s : State) (v : Nat) : Nat :=
  (s.crier.pend.filter (targets s v)).foldl (fun m id => max m (regF s (aSrc id) 27 24)) 0

/-- MSI-X entry `v` is masked, or the function is disabled or masked (R427). DESIGN CHOICE (log 54). -/
def msixMasked (s : State) (v : Nat) : Bool := regBit s (aHif (0x8000C + 16 * v)) 0 || !s.hif.msixOn || s.hif.msixMask

/-- Vectors the Crier can take: ready, with a pending enabled source, not in service, and not held by a mask that still stands.
DESIGN CHOICE (log 54). -/
def vecCands (s : State) : List (Nat × Nat) :=
  if s.hif.perst then [] else
  (s.crier.vecs.filter fun x => x.2.ready && s.crier.pend.any (targets s x.1) && !x.2.inService &&
    (!x.2.held || !msixMasked s x.1)).map fun x => (vecPrio s x.1, x.1)

/-- Core interrupts that can be delivered: pending enabled firmware sources above every priority on the target core's stack. -/
def coreCands (s : State) : List (Nat × Nat) :=
  if !fwRuns s then [] else
  (s.crier.pend.filter fun id =>
    decide (0xF00 ≤ id) && regBit s (aSrc id) 31 &&
    (let c := getCore s (regF s (aSrc id) 1 0); !c.masked && decide (runPrio c ≤ regF s (aSrc id) 27 24))).map
  fun id => (regF s (aSrc id) 27 24, id)

/-- The first candidate of the highest priority; of equal ones the lowest number. -/
def bestOf (l : List (Nat × Nat)) : Option (Nat × Nat) :=
  l.foldl (fun b x => match b with
    | none => some x
    | some y => if y.1 < x.1 ∨ (y.1 = x.1 ∧ x.2 < y.2) then some x else some y) none

/-- The end of a vector's service (R430): its active sources leave; a level source whose line stands is pending again and
counts one event. -/
def eoiVec (s : State) (v : Nat) : State :=
  if !(getVec s v).inService then s
  else
    let gone := (s.crier.active.filter (·.2 == v)).map (·.1)
    let s := { s with
      crier := { s.crier with
        vecs := mapMod vecIdle s.crier.vecs v fun x => { x with inService := false }
        active := s.crier.active.filter (·.2 != v) } }
    forEach (gone.filter s.crier.line.contains) (fun s id =>
      countEvent { s with crier := { s.crier with pend := addOnce s.crier.pend id } } id) s

/-- The PBA bit of a vector. -/
def pbaSet (s : State) (v : Nat) (b : Bool) : State := setBit s (aHif (0x90000 + v / 32 * 4)) (v % 32) b

/-- The commit of vector `v` (R429): held where its entry or the function is masked, else the MSI-X write with every
pending enabled source of the vector active. DESIGN CHOICE (log 54). -/
def commitVec (s : State) (v : Nat) : State :=
  if msixMasked s v then
    pbaSet { s with crier := { s.crier with vecs := mapMod vecIdle s.crier.vecs v fun x => { x with held := true } } } v true
  else
    let mine := s.crier.pend.filter (targets s v)
    let s := emit s (.msix (reg64 s (aHif (0x80000 + 16 * v))) (reg s (aHif (0x80008 + 16 * v))))
    let s := { s with
      crier := { s.crier with
        pend := s.crier.pend.filter fun id => !mine.contains id
        active := s.crier.active ++ mine.map (·, v)
        vecs := mapPut vecIdle s.crier.vecs v { counted := 0, timer := false, ready := false, inService := true, held := false } } }
    let s := pbaSet s v false
    if regBit s (aVec v 4) 31 then eoiVec s v else s

/-- The delivery of source `id` to its core (R431). -/
def commitCore (s : State) (id : Nat) : State :=
  let n := regF s (aSrc id) 1 0
  { s with
    crier := { s.crier with
      pend := s.crier.pend.erase id
      active := s.crier.active ++ [(id, 4096 + n)]
      cores := mapMod coreIdle s.crier.cores n fun c => { c with stack := (regF s (aSrc id) 27 24, id) :: c.stack } } }

/-- Masks that have reached the Crier before a commit: MSI-X Enable and Function Mask while the host island runs, and what the cores that run set of
their own; a core that goes to sleep with cause to wake wakes (R427, R431). DESIGN CHOICE (log 54). -/
def setMasks (s : State) (m : CrierMasks) : State :=
  let hif := match m.msix with
    | some (on, off) => if s.hif.perst || s.top.inReset then s.hif else { s.hif with msixOn := on, msixMask := off }
    | none => s.hif
  let cores := if fwRuns s then m.cores.foldl (fun l x => mapMod coreIdle l x.1 fun c => { c with masked := x.2.1, sleep := x.2.2 }) s.crier.cores
    else s.crier.cores
  wakeCores { s with hif := hif, crier := { s.crier with cores := cores } }

/-- The delivery of the candidate of the highest priority; a vector before a core at equal priority. -/
def dispatch (s : State) : State :=
  match bestOf (vecCands s), bestOf (coreCands s) with
  | none, none => s
  | some v, none => commitVec s v.2
  | none, some c => commitCore s c.2
  | some v, some c => if c.1 ≤ v.1 then commitVec s v.2 else commitCore s c.2

/-- DISPATCH_COMMIT (R427 to R431), under the masks that have reached the Crier. -/
def execDispatchCommit (masks : CrierMasks) (s : State) : Host.Outcome State Fault Refusal :=
  .next (dispatch (setMasks s masks))

/-- VEC_EOI (R430). -/
def execVecEoi (v : Nat) (s : State) : Host.Outcome State Fault Refusal := .next (if 2047 < v then s else holdWrite s 126 (aVec v 8) 0 (eoiVec · v))

/-- CORE_EOI (R431): the top priority is popped and its source leaves the active state; a level line is sampled again. -/
def execCoreEoi (n : Nat) (s : State) : Host.Outcome State Fault Refusal :=
  .next (match (getCore s n).stack with
    | [] => s
    | (_, id) :: rest =>
      let s := { s with
        crier := { s.crier with
          cores := mapMod coreIdle s.crier.cores n fun c => { c with stack := rest }
          active := s.crier.active.filter (· != (id, 4096 + n)) } }
      wakeCores (if s.crier.line.contains id then { s with crier := { s.crier with pend := addOnce s.crier.pend id } } else s))

/-- CROSSING_FAULT (R64, R434, Table CRI-8): source 0x010 + the receiving island, with its first-error record. DEDUCED (log 55). -/
def execCrossingFault (receiver sender handshake : Nat) (s : State) : Host.Outcome State Fault Refusal :=
  .next (if decide (128 < receiver) then s
    else fault s (0x010 + receiver) 8 0xFFFF (receiver + sender % 256 * 256) (handshake % 256))

-- Grace timers and lists (R436, R437).

/-- GRACE_EXPIRY (R436): the list of the source starts and source 0xE00 is raised; firmware writes its journal copy (R435). DEDUCED (log 55). -/
def execGraceExpiry (id : Nat) (s : State) : Host.Outcome State Fault Refusal :=
  .next (if !s.flt.grace.contains id || !regBit s (aEsc id 0) 31 then s
    else jrnFlush (raiseE00 (startList s id)))

/-- A list ends (R437): source 0xE01; a line still asserted starts the timer again. -/
def endList (s : State) (id : Nat) : State :=
  let s := { s with flt := { s.flt with lists := s.flt.lists.filter (·.source != id) } }
  let s := raise (setBit s (aEsc id 0) 29 false) 0xE01
  if isLevel id && s.crier.line.contains id then startGrace s id else s

/-- ESC_ACK (R436, R437): a running timer stops; a running list's actions not yet begun are cancelled. -/
def execEscAck (value : Word) (s : State) : Host.Outcome State Fault Refusal :=
  .next (holdWrite s 126 (aFlt 4) value fun s =>
    let id := fget value 11 0
    if s.flt.grace.contains id then
      add64 (setBit { s with flt := { s.flt with grace := s.flt.grace.erase id } } (aEsc id 0) 30 false) (aFlt 0x38) 1
    else match s.flt.lists.find? (·.source == id) with
      | none => s
      | some r =>
        let s := add64 s (aFlt 0x38) 1
        if r.waitIsland.isSome then
          { s with flt := { s.flt with lists := s.flt.lists.map fun x => if x.source == id then { x with cancelled := true } else x } }
        else endList s id)

/-- A defined action code with its ARG in range (Table CRI-5). -/
def actionOk (a : Nat) : Bool :=
  let c := a / 4096
  let g := a % 4096
  match c with
  | 0 | 2 | 3 => true
  | 1 => decide (g ≤ 128) | 4 => decide (g ≤ 71) | 5 => decide (g ≤ 1151) | 6 => decide (g ≤ 1) | 7 => decide (1 ≤ g)
  | _ => false

/-- ACTIONS_WRITE (R437): stored whole, or refused with FLT.ERR.ACTIONS_BAD. -/
def execActionsWrite (id : Nat) (value : BitVec 64) (s : State) : Host.Outcome State Fault Refusal :=
  .next (if decide (0xFFF < id) || s.top.inReset then s
    else if (List.range 4).all fun k => actionOk (nbits value.toNat (16 * k + 15) (16 * k)) then
      setReg64 s (aEsc id 8) value.toNat
    else setErrE04 s (aFlt 8) 0)

/-- The action that a source's running list begins next: its code and ARG. -/
def nextAction (s : State) (id : Nat) : Option (Nat × Nat) :=
  match s.flt.lists.find? (·.source == id) with
  | none => none
  | some r => if r.waitIsland.isSome then none
    else let a := nbits (reg64 s (aEsc id 8)) (16 * r.next + 15) (16 * r.next); some (a / 4096, a % 4096)

/-- An action is done: the next one follows, or the list ends after the fourth or when cancelled. -/
def actionDone (s : State) (id : Nat) : State :=
  match s.flt.lists.find? (·.source == id) with
  | none => s
  | some r =>
    if r.next = 3 ∨ r.cancelled then endList s id
    else
      { s with
        flt := { s.flt with
          lists := s.flt.lists.map fun x => if x.source == id then { x with next := x.next + 1, waitIsland := none } else x } }

/-- Begin an action of code `c` in the list of `id`: firmware that runs has written the journal copy by then (R435, R437),
ACTIONS_RUN counts, and `f` acts with its ARG. -/
def beginAction (s : State) (id c : Nat) (f : State → Nat → State) : State :=
  match nextAction s id with
  | some (code, arg) => if code = c then f (add64 (jrnFlush s) (aFlt 0x28) 1) arg else s
  | none => s

/-- ESC_END (R437). -/
def execEscEnd (id : Nat) (s : State) : Host.Outcome State Fault Refusal :=
  .next (beginAction s id 0 fun s _ => endList s id)

/-- ESC_WAIT (R437): the row stands for the whole wait; the next action follows. DEDUCED (log 55). -/
def execEscWait (id : Nat) (s : State) : Host.Outcome State Fault Refusal :=
  .next (beginAction s id 7 fun s _ => actionDone s id)

/-- The action in progress of a source's list is done when an island leaves reset. -/
def listWaits (s : State) (src n : Nat) : State :=
  { s with flt := { s.flt with lists := s.flt.lists.map fun r => if r.source = src then { r with waitIsland := some n } else r } }

/-- An action that writes a register of an island is done when its write takes effect (Table CRI-5). -/
def writeDone (s : State) (src n : Nat) : State := if islandHeld s n then listWaits s src n else actionDone s src

/-- ESC_QUIESCE (R437, R215): PIPE_CTRL.QUIESCE sets; the write waits at the crossing into an island in reset (R48). -/
def execEscQuiesce (id : Nat) (s : State) : Host.Outcome State Fault Refusal :=
  .next (beginAction s id 4 fun s p =>
    writeDone (holdWrite s p (aPipe p 0) (regDue s (aPipe p 0) ||| 1) fun s => setBit s (aPipe p 0) 0 true) id p)

end Sys2Proof.Machine
end

