-- ==== Sys2Proof/Machine/Flags.lean ====
section
/-!
DEFINITION. What the ALU, compare, predicate and MOV fields of a stall word compute (Tables SWR-8 to SWR-11). The spec's
compares set predicates; a stall has no other flags.
-/
namespace Sys2Proof.Machine

/-- Number of leading zeros of a w-bit value; w for zero. -/
def clz (w x : Nat) : Nat := if x = 0 then w else w - 1 - Nat.log2 x

/-- Octets of a w-bit value, most significant first. -/
def valueOctets (w x : Nat) : List Byte := bytesBE (w / 8) x

/-- Result of an ALU operation at width w (Table SWR-8); compares, predicate ops and NOP write no result. -/
def aluResult (op w a b : Nat) : Nat :=
  let m := 2 ^ w
  let k := b % w
  match op with
  | 0x01 => (a + b) % m
  | 0x02 => (a + m - b % m) % m
  | 0x03 => min (a + b) (m - 1)
  | 0x04 => if b ≤ a then a - b else 0
  | 0x05 => a * b % m
  | 0x06 => min a b
  | 0x07 => max a b
  | 0x08 => a &&& b
  | 0x09 => a ||| b
  | 0x0A => a
  | 0x0B => m - 1 - a
  | 0x0C => a ^^^ b
  | 0x0D => a &&& (m - 1 - b)
  | 0x10 => a <<< k % m
  | 0x11 => a >>> k
  | 0x12 => ofSigned w (toSigned w a / (2 ^ k : Nat))
  | 0x13 => (a <<< k % m) ||| (a >>> (w - k))
  | 0x18 => popN w a
  | 0x19 => clz w a
  | 0x1C => foldSum16 [nbits a 31 16, nbits a 15 0, nbits b 31 16, nbits b 15 0]
  | 0x1D => crc32c (valueOctets w a ++ valueOctets w b)
  | _ => 0

/-- An ALU operation that Table SWR-8 names and that writes a result. -/
def aluWrites (op : Nat) : Bool :=
  decide (1 ≤ op ∧ op ≤ 0x0D) || decide (0x10 ≤ op ∧ op ≤ 0x13) || op == 0x18 || op == 0x19 || op == 0x1C || op == 0x1D

/-- Operations that use only A. -/
def aluOnlyA (op : Nat) : Bool := op == 0x0A || op == 0x0B || op == 0x18 || op == 0x19

def aluCompares (op : Nat) : Bool := decide (0x40 ≤ op ∧ op ≤ 0x46)
def aluPredicate (op : Nat) : Bool := decide (0x48 ≤ op ∧ op ≤ 0x4A)

/-- A compare at width w (Table SWR-9). -/
def compareResult (op w a b : Nat) : Bool :=
  match op with
  | 0x40 => a == b
  | 0x41 => a != b
  | 0x42 => decide (a < b)
  | 0x43 => decide (b ≤ a)
  | 0x44 => decide (toSigned w a < toSigned w b)
  | 0x45 => decide (toSigned w b ≤ toSigned w a)
  | _ => a &&& b != 0

/-- A predicate op (Table SWR-9). -/
def predResult (op : Nat) (a b : Bool) : Bool :=
  match op with | 0x48 => a && b | 0x49 => a || b | _ => a && !b

/-- The fixed masks of Table SWR-11. -/
def fixedMask (sel : Nat) : Nat :=
  match sel with
  | 0 => 0xFFFFFFFF | 1 => 0x0000FFFF | 2 => 0xFFFF0000 | 3 => 0x000000FF
  | 4 => 0x00000FFF | 5 => 0x00FFFFFF | 6 => 0xFF000000 | _ => 0xE0000000

/-- Position of the lowest set bit of a mask; 0 for a zero mask. -/
def tzMask (m : Nat) : Nat := if m = 0 then 0 else lowBit 32 m

/-- Result of a MOV operation on 32 bits (Table SWR-10). -/
def movResult (op dst src m : Nat) : Nat :=
  let keep := dst &&& (0xFFFFFFFF - m)
  match op with
  | 1 => keep ||| (src &&& m)
  | 2 => src &&& m
  | 3 => keep ||| (src <<< tzMask m &&& m)
  | 4 => (src &&& m) >>> tzMask m
  | 5 => keep
  | _ => dst ||| m

end Sys2Proof.Machine
end

