-- ==== Sys2Proof/Machine/Operands.lean ====
section
/-!
DEFINITION. The fields of a stall word, its reserved codes, and every operand form of Table SWR-3: reads of a context before
the word, and the writes of a word (R192, R201, R205, R220 to R227).
-/
namespace Sys2Proof.Machine

-- Fields (Table SWR-1).

def seqOp (w : Nat) : Nat := nbits w 247 244
def seqCond (w : Nat) : Nat := nbits w 243 236
def seqTarget (w : Nat) : Nat := nbits w 235 226
def seqWait (w : Nat) : Nat := nbits w 225 220
def seqWindow (w : Nat) : Nat := nbits w 219 216
def lkpOp (w : Nat) : Nat := nbits w 215 212
def lkpTable (w : Nat) : Nat := nbits w 211 206
def lkpProfile (w : Nat) : Nat := nbits w 205 198
def lkpSlot (w : Nat) : Nat := nbits w 197 196
def lkpFlags (w : Nat) : Nat := nbits w 195 192
def lkpHsel (w : Nat) : Nat := nbits w 191 188
/-- ALU field k, 0 to 3. -/
def aluField (w k : Nat) : Nat := nbits w (87 + 32 * k) (56 + 32 * k)
def fOp (f : Nat) : Nat := nbits f 31 25
def fDst (f : Nat) : Nat := nbits f 24 17
def fSrcA (f : Nat) : Nat := nbits f 16 9
def fSrcB (f : Nat) : Nat := nbits f 8 1
def fWide (f : Nat) : Bool := f.testBit 0
def fWidth (f : Nat) : Nat := if fWide f then 64 else 32
def movOp (w : Nat) : Nat := nbits w 55 52
def movDst (w : Nat) : Nat := nbits w 51 44
def movSrc (w : Nat) : Nat := nbits w 43 36
def movMask (w : Nat) : Nat := nbits w 35 32
def cntOp (w : Nat) : Nat := nbits w 31 28
def cntBank (w : Nat) : Nat := nbits w 27 24
def cntIndex (w : Nat) : Nat := nbits w 23 16
def cntColour (w : Nat) : Nat := nbits w 15 12
def telOp (w : Nat) : Nat := nbits w 11 8
def telSel (w : Nat) : Nat := nbits w 7 0

-- Reserved codes (R222).

/-- An operand code that a 64-bit operand cannot name (R225). -/
def oddPair (wide : Bool) (c : Nat) : Bool := wide && decide (c < 240) && c % 2 == 1

def condReserved (c : Nat) : Bool :=
  let i := nbits c 3 0
  match nbits c 6 4 with
  | 0 | 4 => false
  | 1 | 2 | 5 => decide (3 < i)
  | 3 => decide (2 < i)
  | 7 => i != 0
  | _ => true

def aluReserved (f : Nat) : Bool :=
  let op := fOp f
  if op = 0 then false
  else if aluPredicate op then decide (15 < fDst f) || decide (15 < fSrcA f) || decide (15 < fSrcB f)
  else if aluCompares op then decide (15 < fDst f) || oddPair (fWide f) (fSrcA f) || oddPair (fWide f) (fSrcB f)
  else !aluWrites op || (op == 0x1C && fWide f) || oddPair (fWide f) (fDst f) || oddPair (fWide f) (fSrcA f)
    || (!aluOnlyA op && oddPair (fWide f) (fSrcB f))

/-- The word holds a reserved code in a sub-field that its OP uses. -/
def wordReserved (w : Nat) : Bool :=
  decide (4 < seqOp w) || ((seqOp w == 2 || seqOp w == 3) && condReserved (seqCond w)) || decide (12 < seqWait w)
  || decide (2 < lkpOp w) || (List.range 4).any (fun k => aluReserved (aluField w k)) || decide (6 < movOp w)
  || decide (2 < cntOp w) || (cntOp w == 1 && cntColour w != 0) || (cntOp w == 2 && decide (4 < cntColour w))
  || decide (3 < telOp w) || (telOp w == 2 && decide (7 < telSel w)) || (telOp w == 3 && decide (3 < telSel w))

-- What a word reads.

/-- The operand codes that a word reads as constants or otherwise. -/
def wordReads (w : Nat) : List Nat :=
  let alu := (List.range 4).flatMap fun k =>
    let f := aluField w k
    if fOp f = 0 ∨ aluPredicate (fOp f) = true then [] else if aluOnlyA (fOp f) then [fSrcA f] else [fSrcA f, fSrcB f]
  let mov := match movOp w with
    | 0 => [] | 1 | 3 => [movDst w, movSrc w] | 2 | 4 => [movSrc w] | _ => [movDst w]
  alu ++ mov ++ (if movOp w ≠ 0 ∧ 8 ≤ movMask w then [240 + movMask w] else []) ++ (if cntOp w = 0 then [] else [cntIndex w])
    ++ (if telOp w = 1 then [telSel w] else []) ++ (if seqOp w = 4 then [seqCond w] else [])

/-- The version by which a stall serves a packet. -/
def stallVer (n : Nat) (p : Packet) : Nat := if n < 720 then p.ingVer else p.egrVer

/-- Program-store key of stall word a, and of constant entry e of table k, for a packet in a stall. -/
def stallWordKey (n ver a : Nat) : Nat := progKey (ver % 2) 1 (stallPipe n) (stallNo n) (32 * a)
def constKey (n ver a k : Nat) : Nat := progKey (ver % 2) 2 (stallPipe n) (stallNo n) (1024 * k + 8 * (a % 128))

/-- Constant tables that a word reads. -/
def constReads (w : Nat) : List Nat := ((wordReads w).filter (248 ≤ ·)).map (· - 248)

-- Reads (R223, R225, R227).

def noSlot : LkSlot := { words := [0, 0, 0, 0], req := none }
/-- A port that has not been opened. -/
def noPort : SPort :=
  { index := none, waiting := false, locked := false, reading := none, arrived := false, data := 0, delivered := none, wrote := none, heldWrite := none }

def ctxSlot (x : Ctx) (r : Nat) : LkSlot := x.slots.getD r noSlot
def ctxPort (x : Ctx) (n : Nat) : SPort := x.ports.getD n noPort
def slotWord (x : Ctx) (r k : Nat) : Word := (ctxSlot x r).words.getD k 0

/-- The value that a port holds for its context (R227): what the packet wrote, the read data of the open index, the value last delivered,
or zero. -/
def portValue (p : SPort) : BitVec 64 := p.wrote.getD (if p.index.isSome && p.arrived then p.data else p.delivered.getD 0)

/-- An operand read as 32 bits by word address a of stall n; `d` tells the reads of one word apart (MD_RAND). -/
def read32 (s : State) (n : Nat) (x : Ctx) (a d c : Nat) : Word :=
  if c < 192 then hv x.pkt c
  else if c < 224 then
    if c = 220 then Config.freeWord (s.freeCtr + d)
    else if c = 221 then BitVec.ofNat 32 (ts32 s)
    else if c = 222 then BitVec.ofNat 32 (n * 65536 + a)
    else if c = 223 then 0
    else if n < 720 ∧ 214 ≤ c then 0
    else hv x.pkt c
  else if c < 240 then slotWord x ((c - 224) / 4) (c % 4)
  else if c < 244 then (portValue (ctxPort x (c - 240))).setWidth 32
  else if c < 248 then BitVec.ofNat 32 ((ctxPort x (c - 244)).index.getD 0)
  else BitVec.ofNat 32 (progNat s (constKey n (stallVer n x.pkt) a (c - 248)) 4)

/-- An operand read at the width of its field, as a number. -/
def readOp (s : State) (n : Nat) (x : Ctx) (a d c : Nat) (wide : Bool) : Nat :=
  if !wide then (read32 s n x a d c).toNat
  else if c < 240 then (read32 s n x a d c).toNat * 2 ^ 32 + (read32 s n x a (d + 1) (c + 1)).toNat
  else if c < 244 then (portValue (ctxPort x (c - 240))).toNat
  else if c < 248 then (ctxPort x (c - 244)).index.getD 0
  else progNat s (constKey n (stallVer n x.pkt) a (c - 248)) 8

-- Writes.

/-- Metadata that a stall word can write (Table STL-3). -/
def mdWritable (n c : Nat) : Bool := if n < 720 then decide (204 ≤ c ∧ c ≤ 213) else c == 204 || c == 206 || c == 218

/-- What the fields of one word write, gathered in ascending rank (R192): each destination's last write stands. -/
structure Writes where
  pkt : Packet
  preds : BitVec 16
  /-- Ports opened, and data written: whole value or low half only. -/
  opens : List (Nat × Nat)
  datas : List (Nat × Bool × BitVec 64)
  deriving DecidableEq, Repr

/-- A 32-bit write to a container or metadata word; other codes here discard. -/
def put32 (n : Nat) (p : Packet) (c : Nat) (v : Word) : Packet :=
  if c < 192 then setHv p c v else if decide (c < 224) && mdWritable n c then setHv p c v else p

/-- Data for a port after an earlier write of the same word: halves are decided one by one (R225). -/
def mergeData (old : Option (Bool × BitVec 64)) (low : Bool) (v : BitVec 64) : Bool × BitVec 64 :=
  match old with
  | some (lo, x) => if low then (lo, BitVec.ofNat 64 (putBits x.toNat 31 0 v.toNat)) else (false, v)
  | none => (low, v)

/-- One field's write of a result to a destination code. -/
def putOp (n : Nat) (k : Writes) (c v : Nat) (wide : Bool) : Writes :=
  if c < 240 then
    if wide then { k with pkt := put32 n (put32 n k.pkt c (BitVec.ofNat 32 (v / 2 ^ 32))) (c + 1) (BitVec.ofNat 32 v) }
    else { k with pkt := put32 n k.pkt c (BitVec.ofNat 32 v) }
  else if c < 244 then
    let old := (k.datas.find? (·.1 == c - 240)).map (·.2)
    { k with datas := k.datas.filter (·.1 != c - 240) ++ [(c - 240, mergeData old (!wide) (BitVec.ofNat 64 v))] }
  else if c < 248 then { k with opens := k.opens.filter (·.1 != c - 244) ++ [(c - 244, v % 65536)] }
  else k

/-- The write of MOV, of lowest rank. -/
def putMov (s : State) (n : Nat) (x : Ctx) (a w : Nat) (k : Writes) : Writes :=
  if movOp w = 0 then k
  else
    let m := if 8 ≤ movMask w then progNat s (constKey n (stallVer n x.pkt) a (movMask w - 8)) 4 else fixedMask (movMask w)
    putOp n k (movDst w) (movResult (movOp w) (readOp s n x a 16 (movDst w) false) (readOp s n x a 17 (movSrc w) false) m) false

/-- The write of ALU field j. -/
def putAlu (s : State) (n : Nat) (x : Ctx) (a w : Nat) (k : Writes) (j : Nat) : Writes :=
  let f := aluField w j
  let op := fOp f
  let va := readOp s n x a (4 * j) (fSrcA f) (fWide f)
  let vb := readOp s n x a (4 * j + 2) (fSrcB f) (fWide f)
  let pred := fun b => { k with preds := BitVec.ofNat 16 (putBit k.preds.toNat (fDst f) b) }
  if op = 0 then k
  else if aluPredicate op then pred (predResult op (x.preds.getLsbD (fSrcA f)) (x.preds.getLsbD (fSrcB f)))
  else if aluCompares op then pred (compareResult op (fWidth f) va vb)
  else putOp n k (fDst f) (aluResult op (fWidth f) va vb) (fWide f)

/-- Everything that the writing fields of a word write. -/
def wordWrites (s : State) (n : Nat) (x : Ctx) (a w : Nat) : Writes :=
  let k : Writes := { pkt := x.pkt, preds := x.preds, opens := [], datas := [] }
  (List.range 4).foldl (putAlu s n x a w) (putMov s n x a w k)

end Sys2Proof.Machine
end

