-- ==== Sys2Proof/Machine/Stall.lean ====
section
/-!
DEFINITION. The stalls: admission, the issue of a word, waits, lookups, stateful ports, meters, faults, the parity machine
check, quiesce and halt (chapters 08 and 09, R343 to R345).
-/
namespace Sys2Proof.Machine

-- Contexts.

def getCtx (s : State) (n i : Nat) : Option Ctx := (getStall s n).ctxs[i]?
def setCtx (s : State) (n i : Nat) (x : Ctx) : State :=
  setStall s n { getStall s n with ctxs := (getStall s n).ctxs.set i x }

/-- A context as a packet enters it (R190, R193, R200, R224). -/
def freshCtx (num : Nat) (f : Flight) : Ctx :=
  { num := num, pkt := f.pkt, copy := f.copy, next := 0, issued := 0, finished := mdFinal f.pkt, slots := List.replicate 4 noSlot,
    ports := List.replicate 4 noPort, meters := [], preds := 0, marked := false }

/-- The context that an admitted packet occupies until it departs (R190): the lowest free one. DESIGN CHOICE (log 86). -/
def freeNum (l : List Ctx) : Nat := ((List.range 32).find? fun c => !l.any (·.num == c)).getD 0

/-- The island of a stall's pipeline is in reset. -/
def stallDown (s : State) (n : Nat) : Bool := islandDown s (stallPipe n)

/-- Stalls are numbered 0 to 1,151 (R5). -/
def stallNum (n : Nat) : Bool := decide (n < 1152)

-- Stateful registers and locks (R201, R202).

def stateReg (s : State) (n i : Nat) : BitVec 64 := mapGet 0 s.pipes.stateRegs (n * 65536 + i)
def setStateReg (s : State) (n i : Nat) (v : BitVec 64) : State :=
  { s with pipes := { s.pipes with stateRegs := mapPut 0 s.pipes.stateRegs (n * 65536 + i) v } }

/-- A port holds an index's lock, or waits for it. -/
def portOn (p : SPort) (idx : Nat) : Bool := p.index == some idx && (p.locked || p.waiting)

/-- A context holds the lock of an index. -/
def holdsLock (x : Ctx) (idx : Nat) : Bool := x.ports.any fun p => p.index == some idx && p.locked

/-- Some packet of the stall holds the lock of an index. -/
def indexLocked (s : State) (n idx : Nat) : Bool :=
  (getStall s n).ctxs.any (holdsLock · idx)

/-- Another context of the stall holds it. -/
def otherLocks (s : State) (n i idx : Nat) : Bool := ((getStall s n).ctxs.eraseIdx i).any (holdsLock · idx)

/-- Another context holds the lock of an index or waits for it before. -/
def othersHold (s : State) (n i idx : Nat) : Bool :=
  ((getStall s n).ctxs.eraseIdx i).any fun x => x.ports.any (portOn · idx)

/-- A data write over an old value: whole, or the low half alone. -/
def overData (old : BitVec 64) (low : Bool) (v : BitVec 64) : BitVec 64 :=
  if low then BitVec.ofNat 64 (putBits old.toNat 31 0 v.toNat) else v

/-- Writes that finished packets left waiting take the lock as it is released, in order, and release it at once (R201). -/
def flushLate (s : State) (n : Nat) : State :=
  let x := getStall s n
  let go := x.lateWrites.filter fun w => !indexLocked s n w.1
  if go.isEmpty then s
  else forEach go (fun s w => setStateReg s n w.1 (overData (stateReg s n w.1) w.2.1 w.2.2))
    (setStall s n { x with lateWrites := x.lateWrites.filter fun w => indexLocked s n w.1 })

/-- Host writes whose index is no longer locked are applied in order, after the packets' (R202). DEDUCED (log 39). -/
def flushHost (s : State) (n : Nat) : State :=
  let s := flushLate s n
  let x := getStall s n
  let go := x.hostWrites.filter fun w => !indexLocked s n w.1
  let stay := x.hostWrites.filter fun w => indexLocked s n w.1
  if go.isEmpty then s
  else
    let s := forEach go (fun s w => setStateReg s n w.1 w.2) (setStall s n { x with hostWrites := stay })
    setBit s (aStall n 0x10) 29 (!stay.isEmpty)

/-- The lock of an open is obtained: the register is read (R201). -/
def lockPort (s : State) (n : Nat) (p : SPort) (idx : Nat) : SPort :=
  { p with index := some idx, waiting := false, locked := true, reading := some (stateReg s n idx), arrived := false }

/-- The free value that port k shows while the read data of its first open is on its way, which R227 does not state. DESIGN CHOICE
(log 94). -/
def unreadPort (s : State) (k : Nat) : BitVec 64 :=
  Config.freeWord (s.freeCtr + 32 + 2 * k) ++ Config.freeWord (s.freeCtr + 33 + 2 * k)

/-- A write of an index code opens the port (R201, R202); until its read data comes it shows what it last delivered (R227). -/
def openPort (s : State) (n i : Nat) (x : Ctx) (k idx : Nat) : Ctx :=
  let own := holdsLock x idx
  let p := ctxPort x k
  let p := { p with wrote := none, heldWrite := none, locked := false, waiting := false, delivered := some (p.delivered.getD (unreadPort s k)) }
  let q := if own || !othersHold s n i idx then lockPort s n p idx
    else { p with index := some idx, waiting := true, reading := none, arrived := false }
  { x with ports := x.ports.set k q }

/-- A context gives up the lock of an index. DEDUCED (log 36). -/
def unlockIdx (x : Ctx) (idx : Nat) : Ctx :=
  { x with ports := x.ports.map fun p => if p.index = some idx then { p with locked := false } else p }

/-- A write of a data code (R201). While the open waits, the half that no write of the port holds is that of the register as it stands
(DESIGN CHOICE, log 94). DEDUCED (log 36). -/
def writePort (s : State) (n : Nat) (x : Ctx) (k : Nat) (low : Bool) (v : BitVec 64) : State × Ctx :=
  let p := ctxPort x k
  match p.index with
  | none => (s, { x with ports := x.ports.set k { p with wrote := some (overData (p.wrote.getD 0) low v) } })
  | some idx =>
    let old := if p.heldWrite.isSome then p.wrote.getD 0 else stateReg s n idx
    let full := overData old low v
    if p.waiting then
      (s, { x with ports := x.ports.set k { p with wrote := some full, heldWrite := some (mergeData p.heldWrite low v) } })
    else
      (setStateReg s n idx full, unlockIdx { x with ports := x.ports.set k { p with wrote := some full } } idx)

/-- The writes that the waiting ports of a packet hold. -/
def heldWrites (x : Ctx) : List (Nat × Bool × BitVec 64) :=
  x.ports.filterMap fun p => match p.index, p.heldWrite with
    | some idx, some w => if p.waiting then some (idx, w) else none
    | _, _ => none

/-- Ports of a packet that finishes: every lock is released without a write (R201). -/
def closePorts (x : Ctx) : Ctx :=
  { x with ports := x.ports.map fun p => { p with locked := false, waiting := false, heldWrite := none } }

/-- A packet finishes in a stall (R193): what its waiting ports hold is still written when the lock comes (R201); a fault discards that
and what is pending (R212). -/
def finishCtx (s : State) (n i : Nat) (x : Ctx) (discard : Bool) : State :=
  let late := if discard then [] else heldWrites x
  let s := setStall s n { getStall s n with lateWrites := (getStall s n).lateWrites ++ late }
  let x := { closePorts x with finished := true }
  let x := if discard then { x with slots := x.slots.map fun l => { l with req := none }, meters := [] } else x
  flushHost (setCtx s n i x) n

-- Faults (R212, R214).

/-- MD_DISP as hardware sets it for a drop (R207, R212, R344). -/
def hwDrop (p : Packet) (reason : Nat) : Packet :=
  { setMdF (setMdF (setMdF p 204 31 29 1) 204 28 28 1) 204 23 16 reason with hwReason := reason }

/-- Reason of a stall fault: 0 WORD_LIMIT, 1 WAIT_TIMEOUT, 2 STALL_FAULT, 3 STALL_PARITY (Table STL-8). -/
def faultReason (k : Nat) : Nat := match k with | 0 => 0x07 | 1 => 0x08 | 2 => 0x09 | _ => 0x04

/-- Which bits failed is not stated for a word whose error came from outside the model: free, with the backing copy's
syndrome (DESIGN CHOICE, log 5). -/
def stallSyndrome (s : State) (k : Nat) : Nat :=
  k * 2 ^ 24 + (if k = 3 then Config.syndrome s.freeCtr % 256 * 65536 + Config.syndrome s.freeCtr / 256 % 256 else 0)

/-- The first-error record of a word or a constant of a stall, with its source (Table CRI-8). DEDUCED (log 37). -/
def stallRecord (s : State) (n k space off : Nat) : State :=
  let p := stallPipe n
  drawn (fault s ((if k = 3 then 0x502 else 0x501) + 4 * p) 5 p (space * 2 ^ 40 + p * 2 ^ 32 + stallNo n * 2 ^ 24 + off) (stallSyndrome s k))

/-- A stall fault ends a routine (R212). -/
def stallFault (s : State) (n i : Nat) (x : Ctx) (k space off : Nat) : State :=
  let s := finishCtx s n i { x with pkt := hwDrop x.pkt (faultReason k), marked := false } true
  stallRecord (add64 s (aPipe (stallPipe n) (0x20 + 8 * k)) 1) n k space off

-- Waits (R197 to R199, R230).

def slotReady (x : Ctx) (r : Nat) : Bool := (ctxSlot x r).req.isNone
def portArrived (x : Ctx) (k : Nat) : Bool := let p := ctxPort x k; p.index.isSome && !p.waiting && p.arrived
def slotsReady (x : Ctx) : Bool := (List.range 4).all (slotReady x)
/-- DEDUCED (log 36). -/
def portsReady (x : Ctx) : Bool := (List.range 4).all fun k => (ctxPort x k).index.isNone || portArrived x k

/-- The condition that WAIT names (Table SWR-6). DEDUCED (log 36). -/
def waitHolds (x : Ctx) (code : Nat) : Bool :=
  if code = 0 then true
  else if code ≤ 4 then slotReady x (code - 1)
  else if code = 5 then slotsReady x
  else if code ≤ 9 then portArrived x (code - 6)
  else if code = 10 then portsReady x
  else if code = 11 then x.meters.isEmpty
  else slotsReady x && portsReady x && x.meters.isEmpty

/-- Nothing holds the word: its wait condition, a slot that its LKP names, and its COND. -/
def wordReady (x : Ctx) (w : Nat) : Bool :=
  let c := seqCond w
  let branch := seqOp w == 2 || seqOp w == 3
  waitHolds x (seqWait w) && (lkpOp w == 0 || slotReady x (lkpSlot w))
  && !(branch && (nbits c 6 4 == 1 || nbits c 6 4 == 2) && !slotReady x (nbits c 1 0))
  && !(branch && nbits c 6 4 == 3 && !x.meters.isEmpty)

/-- The condition of BR and ENDIF (Table SWR-5). -/
def condTrue (x : Ctx) (n c : Nat) : Bool :=
  let i := nbits c 3 0
  let t := match nbits c 6 4 with
    | 0 => x.preds.getLsbD i
    | 1 => (slotWord x i 0).getLsbD 31
    | 2 => (slotWord x i 0).getLsbD 30
    | 3 => mdColour x.pkt == i
    | 4 => mdF x.pkt 195 (16 + i) (16 + i) == 1
    | 5 => match i with
      | 0 => mdF x.pkt 200 31 31 == 1
      | 1 => mdF x.pkt 195 15 12 != 0
      | 2 => decide (720 ≤ n) && mdF x.pkt 219 0 0 == 1
      | _ => mdF x.pkt 193 14 14 == 1
    | _ => true
  t != c.testBit 7

-- Lookups (R200, R232, R233, R243 to R249).

/-- The key that a profile builds, with its width in bits; none for a bad profile (R243). -/
def buildKey (s : State) (n : Nat) (x : Ctx) (a prof : Nat) : Option (Nat × Nat) :=
  let dom := if n < 720 then 0 else 1
  let base := progKey (stallVer n x.pkt % 2) 6 dom 0 (64 * prof)
  (List.range 16).foldl (fun acc j =>
    let e := progNat s (base + 4 * j) 4
    match acc with
    | none => none
    | some (key, width) =>
      if nbits e 31 31 = 0 then some (key, width)
      else if 32 < nbits e 25 21 + nbits e 30 26 + 1 ∨ 239 < nbits e 7 0 then none
      else
        let k := nbits e 30 26 + 1
        let v := nbits (read32 s n x a (32 + j) (nbits e 7 0)).toNat (nbits e 25 21 + k - 1) (nbits e 25 21)
        some (key * 2 ^ k + v, width + k)) (some (0, 0))

/-- The lookup that a word issues. The hash of MEMBER is taken over the key that profile HPROF builds, padded to the width of the
table looked up (R244), by the hash function as the pipeline's hall holds it (R252). DEDUCED (log 38). -/
def makeLookup (s : State) (n : Nat) (x : Ctx) (a w : Nat) : LkReq :=
  let t := lkpTable w
  let key := buildKey s n x a (lkpProfile w)
  let member := (lkpFlags w).testBit 1
  let v := hallState s (hallOf (pipeGroup (stallPipe n)))
  let hkey := if member then buildKey s n x a (regF v (aClk (0x2000 + 4 * lkpHsel w)) 23 16) else some (0, 0)
  let learns := lkpOp w == 2 && decide (n < 720) && mdPass x.pkt == 0 && !x.pkt.fromHost
  { table := t, key := (key.map (·.1)).getD 0, parity := stallVer n x.pkt % 2, dom := if n < 720 then .ing else .egr,
    noTouch := (lkpFlags w).testBit 0,
    member := if member then some (hashKey v (lkpHsel w) t ((hkey.map (·.1)).getD 0)) else none,
    learn := if learns then some (mdSrc x.pkt) else none,
    bits := match key, hkey with | some k, some h => some (max k.2 h.2) | _, _ => none }

/-- The four words of a slot (R245). -/
def resultWords (status : Nat) (data : BitVec 96) : List Word :=
  [BitVec.ofNat 32 status, BitVec.ofNat 32 (data.toNat / 2 ^ 64), BitVec.ofNat 32 (data.toNat / 2 ^ 32), BitVec.ofNat 32 data.toNat]

/-- A miss with FAULT. -/
def faultWords : List Word := resultWords (2 ^ 30) 0

/-- The multipath group that an entry names (R249). -/
def groupOfEntry (tb : Tables) (e : Entry) : Nat := (mapGet 0 tb.groups (nbits e.data.toNat 77 64)).toNat

/-- A lookup that asks for a member finds a group whose COUNT is 0 (R245). -/
def memberless (tb : Tables) (r : LkReq) (e : Entry) : Bool := r.member.isSome && nbits (groupOfEntry tb e) 41 32 == 0

/-- Status and data of a hit, resolved to a member where the lookup asks for one (R249). -/
def hitWords (tb : Tables) (r : LkReq) (e : Entry) : List Word :=
  match r.member with
  | none => resultWords (statusWord e e.handle) e.data
  | some h =>
    let grp := groupOfEntry tb e
    let count := nbits grp 41 32
    resultWords (statusWord e (h % count)) (mapGet 0 tb.members (nbits grp 17 0 + h % count))

/-- A hit sets the entry's hit bit in its hall and disarms it (R246, R258). -/
def touchEntry (s : State) (t hall : Nat) (e : Entry) : State :=
  modEntry s t e.handle fun x => if x.key != e.key then x else { x with
    hit := BitVec.ofNat 9 (putBit x.hit.toNat hall true)
    armed := BitVec.ofNat 9 (putBit x.armed.toNat hall false) }

/-- A learning lookup sends its request on a miss, and on a hit that names another port (R254); `v` is the part as the hall shows it. -/
def learnFrom (s v : State) (r : LkReq) (e : Option Entry) : State :=
  match r.learn with
  | none => s
  | some port =>
    let learns := tblKind v r.table == 0 && descLearn v r.table && descDom v r.table == .ing
    let wants := match e with | none => true | some e => !e.static && entryPort e != port
    if learns && wants then learnOffer s { table := r.table, key := r.key, port := port } else s

/-- The descriptor or a profile faults the lookup (R233, R243). -/
def lookupBad (v : State) (r : LkReq) : Bool :=
  !descEn v r.table || (match r.bits with | none => true | some b => decide (tblKeyBits v r.table < b))

/-- The entry that a lookup finds in its hall; a table of the other domain misses (R105). -/
def lookupEntry (v : State) (hall : Nat) (r : LkReq) : Option Entry :=
  if descDom v r.table == r.dom then tblLookup v r.table r.parity r.key fun e => !goneIn hall e else none

/-- A lookup completes as a miss with FAULT (R245), and a learning one sends its request as on any miss (R254). -/
def lookupFault (s v : State) (hall : Nat) (r : LkReq) : State × List Word := (add64 (learnFrom s v r none) (aTbl hall 0) 1, faultWords)

/-- A lookup whose row can be read: its words, and the state it leaves in its hall. -/
def lookupRead (s : State) (p hall : Nat) (r : LkReq) : State × List Word :=
  let v := hallState s hall
  match lookupEntry v hall r with
  | none => (learnFrom s v r none, resultWords 0 0)
  | some e =>
    if memberless v.tables r e then lookupFault s v hall r
    else (pmcEvent (if r.noTouch then learnFrom s v r (some e) else touchEntry (learnFrom s v r (some e)) r.table hall e) (16 * p + 5) 1,
      hitWords v.tables r e)

/-- A lookup completes (R245, R266). DEDUCED (log 51). -/
def runLookup (s : State) (p hall : Nat) (r : LkReq) (err : Option (Nat × Bool)) : State × List Word :=
  if islandDown s (112 + hall) then (s, faultWords)
  else
    let s := hallAdvance (pmcEvent s (0x8E0 + hall) 1) hall
    if lookupBad (hallState s hall) r then (add64 s (aTbl hall 0) 1, faultWords)
    else match err with
      | some (row, true) => lookupFault (drawn (rowError s hall row p 4)) (hallState s hall) hall r
      | some (_, false) => lookupRead (rowCorrected s hall) p hall r
      | none => lookupRead s p hall r

/-- LOOKUP_RESULT (R200, R245, R246, R249, R254, R266). -/
def execLookupResult (stall ctx slot : Nat) (err : Option (Nat × Bool)) (s : State) : Host.Outcome State Fault Refusal :=
  .next (match getCtx s stall ctx with
    | none => s
    | some x =>
      match (ctxSlot x slot).req with
      | none => s
      | some r =>
        let t := runLookup s (stallPipe stall) (hallOf (pipeGroup (stallPipe stall))) r err
        setCtx t.1 stall ctx { x with slots := x.slots.set slot { words := t.2, req := none } })

-- Meters (R203, R343, R344).

def meterKey (n i : Nat) : Nat := n * 16384 + i % 16384
def getMeter (s : State) (k : Nat) : Meter := mapGet noMeter s.pipes.meters k
def meterF (m : Meter) (w hi lo : Nat) : Nat := fget (m.words.getD w 0) hi lo

/-- The colour of a packet charged `b` units, from input colour `c` (none: colour-blind), and the buckets charged: 0 the
committed, 1 the excess or peak, 2 both. -/
def markColour (m : Meter) (b : Int) (c : Option Nat) : Nat × Option Nat :=
  let c' := c.getD 0
  match meterF m 0 31 30 with
  | 1 =>
    if c' = 0 ∧ b ≤ m.cTok then (0, some 0)
    else if c' ≤ 1 ∧ b ≤ m.eTok then (1, some 1)
    else (2, none)
  | 2 =>
    if c' = 2 ∨ m.eTok < b then (2, none)
    else if c' = 1 ∨ m.cTok < b then (1, some 1)
    else (0, some 2)
  | _ => (c', none)

/-- Octets of the frame as a stall counts them: as received in ingress, as stored in egress (R419). -/
def stallOctets (x : Ctx) : List Byte := match x.copy with | none => x.pkt.octets | some c => copyOctets { c with pkt := x.pkt }

/-- A METER operation: the bucket is charged, and the colour is on its way. -/
def startMeter (s : State) (n : Nat) (x : Ctx) (idx : Nat) (c : Option Nat) : State × Ctx :=
  let k := meterKey n idx
  let m := getMeter s k
  let len := if x.pkt.whole then (stallOctets x).length else 2048
  let b : Int := 65536 * ((len : Int) + 4 + toSigned 7 (meterF m 0 28 22))
  let r := markColour m b c
  let m' := match r.2 with
    | none => m
    | some 0 => { m with cTok := m.cTok - b }
    | some 1 => { m with eTok := m.eTok - b }
    | some _ => { m with cTok := m.cTok - b, eTok := m.eTok - b }
  let mode := meterF m 0 31 30
  let red := (mode == 1 || mode == 2) && meterF m 0 29 29 == 1 && r.1 == 2
  let owed := match r.2 with | some j => if x.pkt.whole then [] else [(x.pkt.id, k, j)] | none => []
  ({ s with pipes := { s.pipes with
      meters := mapPut noMeter s.pipes.meters k m'
      meterOwed := s.pipes.meterOwed ++ owed } },
    { x with meters := x.meters ++ [(r.1, red)] })

/-- A colour lands in MD_QOS (R203). -/
def landColour (p : Packet) (c : Nat) : Packet := setMdF p 209 4 3 c

/-- METER_COLOUR (R203, R238, R344): the oldest colour on its way lands; a red that drops ends the routine. DEDUCED (log 39). -/
def execMeterColour (stall ctx : Nat) (s : State) : Host.Outcome State Fault Refusal :=
  .next (match getCtx s stall ctx with
    | none => s
    | some x =>
      match x.meters with
      | [] => s
      | (c, red) :: rest =>
        let x := { x with meters := rest, pkt := landColour x.pkt c }
        if red then finishCtx s stall ctx { x with pkt := hwDrop x.pkt 0x10 } true else setCtx s stall ctx x)

/-- The colours still on their way to a packet that departs, up to the first red that drops (R344). DEDUCED (log 39). -/
def landAll (p : Packet) : List (Nat × Bool) → Packet
  | [] => p
  | (c, red) :: rest => if red then hwDrop (landColour p c) 0x10 else landAll (landColour p c) rest

-- The issue of a word (R228 to R239).

/-- TEL (R239, R404). -/
def runTel (s : State) (n : Nat) (x : Ctx) (a w : Nat) (p : Packet) : Packet :=
  let f := telSel w
  match telOp w with
  | 1 => { p with tally := { p.tally with user := (readOp s n x a 18 f false) % 65536 } }
  | 2 => { p with tally := { p.tally with flags := BitVec.ofNat 8 (putBit p.tally.flags.toNat f true) } }
  | 3 =>
    let d := (ts32 s + 2 ^ 32 - p.tally.ingTs) % 2 ^ 32
    { p with tally := { p.tally with stamps := p.tally.stamps.set f (min d 0xFFFE) } }
  | _ => p

/-- CNT (R238): the count, or the meter operation. -/
def runCnt (s : State) (n : Nat) (x : Ctx) (v w : Nat) (x' : Ctx) : State × Ctx :=
  match cntOp w with
  | 1 =>
    let key := ldgStall (stallPipe n) (stallNo n) (cntBank w) (v % 65536)
    (ledgerPacket s key { x.pkt with octets := stallOctets x }, x')
  | 2 =>
    let c := match cntColour w with | 0 => none | 4 => some (mdColour x.pkt) | k => some (k - 1)
    startMeter s n x' v c
  | _ => (s, x')

/-- Ports named by data codes that the word reads deliver their value (R227); one neither opened nor written has none. DEDUCED (log 36). -/
def deliverReads (x : Ctx) (w : Nat) (ports : List SPort) : List SPort :=
  (List.range 4).map fun k =>
    let p := ports.getD k noPort
    if (wordReads w).contains (240 + k) && (p.index.isSome || p.wrote.isSome) then { p with delivered := some (portValue (ctxPort x k)) } else p

/-- The next word address; none where the word ends the routine (Table SWR-4). DEDUCED (log 36). -/
def nextWord (s : State) (n : Nat) (x : Ctx) (a w : Nat) : Option Nat :=
  match seqOp w with
  | 0 => none
  | 1 => some (a + 1)
  | 2 => some (if condTrue x n (seqCond w) then seqTarget w else a + 1)
  | 3 => if condTrue x n (seqCond w) then none else some (a + 1)
  | _ => some (seqTarget w + readOp s n x a 20 (seqCond w) false % 16)

/-- The ports after a word's opens and data writes, an open before the data of its port (R201). -/
def runPorts (s : State) (n i : Nat) (k : Writes) (x : Ctx) : State × Ctx :=
  let x := k.opens.foldl (fun x o => openPort s n i x o.1 o.2) x
  k.datas.foldl (fun r d => writePort r.1 n r.2 d.1 d.2.1 d.2.2) (s, x)

/-- Where the routine goes after a word (R193, R195, R229). -/
def afterWord (s : State) (n i : Nat) (x : Ctx) (a : Nat) (nxt : Option Nat) : State :=
  match nxt with
  | none => finishCtx s n i x false
  | some b =>
    if 1023 < b then stallFault s n i x 2 1 (32 * a)
    else if 64 ≤ x.issued then stallFault s n i x 0 1 (32 * a)
    else flushHost (setCtx s n i { x with next := b }) n

/-- The hall table island of a stall's group is in reset: lookups end at once with FAULT (R200). -/
def hallDown (s : State) (n : Nat) : Bool := islandDown s (112 + hallOf (pipeGroup (stallPipe n)))

/-- One word acts (R228). -/
def issueWord (s : State) (n i : Nat) (x : Ctx) (a w : Nat) : State :=
  let k := wordWrites s n x a w
  let req := if lkpOp w = 0 then none else some (makeLookup s n x a w)
  let nxt := nextWord s n x a w
  let v := readOp s n x a 19 (cntIndex w) false
  let pkt := runTel s n x a w k.pkt
  let x1 := { x with pkt := pkt, preds := k.preds, issued := x.issued + 1, ports := deliverReads x w x.ports }
  let c := runCnt s n x v w x1
  let x2 := match req with
    | none => c.2
    | some r =>
      let start := fun l : LkSlot => if hallDown s n then { words := faultWords, req := none } else { l with req := some r }
      { c.2 with slots := c.2.slots.modify (lkpSlot w) start }
  let p := runPorts c.1 n i k x2
  let s := pmcEvent { p.1 with freeCtr := p.1.freeCtr + 64 } (16 * stallPipe n + 2) 1
  let s := whenB req.isSome (pmcEvent · (16 * stallPipe n + 4) 1) s
  afterWord s n i p.2 a nxt

/-- The constants that a word reads include a poisoned one: its table (R226). -/
def poisonedConst (s : State) (n : Nat) (x : Ctx) (a w : Nat) : Option Nat :=
  (constReads w).find? fun k => s.pipes.poison.contains (constKey n (stallVer n x.pkt) a k)

/-- A context's next word is taken: it faults, it waits, or it issues. DEDUCED (log 37). -/
def takeWord (s : State) (n i : Nat) (x : Ctx) : State :=
  let a := x.next
  let w := progNat s (stallWordKey n (stallVer n x.pkt) a) 32
  if s.pipes.poison.contains (stallWordKey n (stallVer n x.pkt) a) then stallFault s n i x 3 1 (32 * a)
  else if wordReserved w then stallFault s n i x 2 1 (32 * a)
  else if !wordReady x w then s
  else match poisonedConst s n x a w with
    | some k => stallFault s n i x 3 2 (1024 * k + 8 * (a % 128))
    | none =>
      if cntOp w = 1 ∧ 4095 < readOp s n x a 19 (cntIndex w) false % 65536 then stallFault s n i x 2 1 (32 * a)
      else issueWord s n i x a w

/-- The parity check of a word about to issue fails (R213, step 1). DEDUCED (log 37). -/
def parityFail (s : State) (n : Nat) (x : Ctx) (backingBad : Bool) : State :=
  let key := fun x : Ctx => stallWordKey n (stallVer n x.pkt) x.next
  let st := getStall s n
  setStall s n { st with
    paused := true
    reloads := if st.reloads.any (·.1 == key x) then st.reloads else st.reloads ++ [(key x, x.next, backingBad)]
    ctxs := st.ctxs.map fun y => if !y.finished && key y == key x then { y with marked := true } else y }

/-- An ECC error of a constant that the word reads (R226): corrected and counted, or the entry is poisoned. -/
def constError (s : State) (n : Nat) (x : Ctx) (k : Nat) (uncorr : Bool) : State :=
  if uncorr then
    let key := constKey n (stallVer n x.pkt) x.next k
    let s := satF s (aStall n 8) 31 16 1
    stallRecord { s with pipes := { s.pipes with poison := addOnce s.pipes.poison key } } n 3 2 (1024 * k + 8 * (x.next % 128))
  else satF s (aStall n 8) 15 0 1

/-- The ECC error reaches the word only where the word is about to issue and reads the constant. -/
def constSeen (s : State) (n : Nat) (x : Ctx) (constErr : Option (Nat × Bool)) : State :=
  let w := progNat s (stallWordKey n (stallVer n x.pkt) x.next) 32
  match constErr with
  | some (k, u) => if !wordReserved w && wordReady x w && (constReads w).contains k then constError s n x k u else s
  | none => s

/-- A context about to issue reads its next word (R191, R213, R214): a parity failure of a word that is not poisoned starts the machine
check, or joins the pause under way; otherwise, in a stall that is not paused, the word is taken. -/
def readWord (s : State) (n i : Nat) (x : Ctx) (parityBad backingBad : Bool) (constErr : Option (Nat × Bool)) : State :=
  if parityBad && !s.pipes.poison.contains (stallWordKey n (stallVer n x.pkt) x.next) then parityFail s n x backingBad
  else if (getStall s n).paused then s
  else takeWord (constSeen s n x constErr) n i x

/-- STALL_WORD_ISSUE (R191, R213, R228): an unfinished context takes its next word, in a stall that is not halted. -/
def execStallWordIssue (stall ctx : Nat) (parityBad backingBad : Bool) (constErr : Option (Nat × Bool)) (s : State) :
    Host.Outcome State Fault Refusal :=
  .next (match getCtx s stall ctx with
    | none => s
    | some x =>
      if x.finished || x.marked || stallDown s stall || regBit s (aStall stall 0) 0 then s
      else readWord s stall ctx x parityBad backingBad constErr)

/-- WAIT_TIMEOUT (R199): a word that something holds has waited out its window. -/
def execWaitTimeout (stall ctx : Nat) (s : State) : Host.Outcome State Fault Refusal :=
  .next (match getCtx s stall ctx with
    | none => s
    | some x =>
      let w := progNat s (stallWordKey stall (stallVer stall x.pkt) x.next) 32
      if x.finished || x.marked || stallDown s stall || regBit s (aStall stall 0) 0 || wordReserved w || wordReady x w then s
      else stallFault s stall ctx x 1 1 (32 * x.next))

/-- The ports of a context that wait for an index are granted it: the register is read, and then each held write acts and the
lock is released. -/
def grantLock (s : State) (n : Nat) (x : Ctx) (idx : Nat) : State × Ctx :=
  let mine := (List.range 4).filter fun k => (ctxPort x k).waiting && (ctxPort x k).index == some idx
  let x1 := { x with ports := x.ports.map fun p =>
    if p.waiting && p.index == some idx then { lockPort s n p idx with heldWrite := none } else p }
  mine.foldl (fun r k => match (ctxPort x k).heldWrite with
    | some (low, v) => writePort r.1 n r.2 k low v
    | none => r) (s, x1)

/-- STATEFUL_LOCK_GRANT (R201, R202): a waiting open is granted where no other context holds the index, and with it every
other open of the context that waits for the index. -/
def execStatefulLockGrant (stall ctx port : Nat) (s : State) : Host.Outcome State Fault Refusal :=
  .next (match getCtx s stall ctx with
    | none => s
    | some x =>
      match (ctxPort x port).index with
      | none => s
      | some idx =>
        if !(ctxPort x port).waiting || otherLocks s stall ctx idx || decide (3 < port) then s
        else
          let r := grantLock s stall x idx
          flushHost (setCtx r.1 stall ctx r.2) stall)

/-- STATEFUL_READ_DATA (R201, R227): the read data arrives, and is then the value that the port last delivered. -/
def execStatefulReadData (stall ctx port : Nat) (s : State) : Host.Outcome State Fault Refusal :=
  .next (match getCtx s stall ctx with
    | none => s
    | some x =>
      let p := ctxPort x port
      match p.reading with
      | none => s
      | some v =>
        let p := { p with reading := none, arrived := true, data := v, delivered := some v }
        setCtx s stall ctx { x with ports := x.ports.set port p })

-- Admission and departure (R190, R193).

/-- STALL_ADMIT (R190). -/
def execStallAdmit (stall : Nat) (s : State) : Host.Outcome State Fault Refusal :=
  .next (match headAt s.pipes.entry stall with
    | none => s
    | some f =>
      let st := getStall s stall
      if stallDown s stall || st.paused || decide (32 ≤ st.ctxs.length) then s
      else
        let s := setStall { s with pipes := { s.pipes with entry := popAt s.pipes.entry stall } } stall
          { st with ctxs := st.ctxs ++ [freshCtx (freeNum st.ctxs) f] }
        if stallNo stall ≠ 0 then s
        else
          let s := pmcEvent s (16 * stallPipe stall) 1
          if st.ctxs.length = 31 then pmcEvent s (16 * stallPipe stall + 1) 1 else s)

/-- Where a packet goes from the last stall of its pipeline: the ingress or the egress tail. -/
def leaveLast (s : State) (n : Nat) (x : Ctx) : State :=
  let g := pipeGroup (stallPipe n)
  match x.copy with
  | none => { s with pipes := { s.pipes with toTail := pushAt s.pipes.toTail g x.pkt } }
  | some c => { s with pipes := { s.pipes with toETail := pushAt s.pipes.toETail g { c with pkt := x.pkt } } }

/-- STALL_DEPART (R193): the oldest packet, once it has finished and the next stage can admit it. -/
def execStallDepart (stall : Nat) (s : State) : Host.Outcome State Fault Refusal :=
  .next (match (getStall s stall).ctxs with
    | [] => s
    | x :: rest =>
      if !x.finished || stallDown s stall || !stallNum stall
          || (!lastStall stall && (!stallCredit s (stall + 1) || (getStall s (stall + 1)).paused)) then s
      else
        let s := flushHost (setStall s stall { getStall s stall with ctxs := rest }) stall
        let x := { x with pkt := landAll x.pkt x.meters }
        if lastStall stall then leaveLast s stall x else passOn s (stall + 1) { pkt := x.pkt, copy := x.copy.map fun c => { c with pkt := x.pkt } })

-- The parity machine check (R213, R214).

/-- One reload ends: the word is in place again, or it is poisoned. DEDUCED (log 37). -/
def endReload (s : State) (n : Nat) (r : Nat × Nat × Bool) : State :=
  if r.2.2 then
    let s := satF s (aStall n 8) 31 16 1
    stallRecord { s with pipes := { s.pipes with poison := addOnce s.pipes.poison r.1 } } n 3 1 (32 * r.2.1)
  else raise (satF s (aStall n 8) 15 0 1) (0x502 + 4 * stallPipe n)

/-- PARITY_RELOAD_DONE (R213): issue and admission resume, and the marked packets take STALL_PARITY. -/
def execParityReloadDone (stall : Nat) (s : State) : Host.Outcome State Fault Refusal :=
  .next (
    let st := getStall s stall
    if !st.paused then s
    else
      let s := forEach st.reloads (fun s r => endReload s stall r) (setStall s stall { st with paused := false, reloads := [] })
      forEach (List.range st.ctxs.length) (fun s i =>
        match getCtx s stall i with
        | some x => if x.marked then stallFault s stall i x 3 1 (32 * x.next) else s
        | none => s) s)

-- Quiesce, halt, step (R215, R216).

/-- No packet remains in a pipeline: parse engine, stalls, recirculation buffer or editor. -/
def pipeEmpty (s : State) (p : Nat) : Bool :=
  let n := firstStall p
  let stalls := (List.range (if p < 36 then 20 else 12)).all fun i => (getStall s (n + i)).ctxs.isEmpty && (waitingAt s (n + i)).isEmpty
  let g := pipeGroup p
  stalls && (if p < 36 then (mapGet [] s.pipes.parse g).isEmpty && (mapGet [] s.pipes.recirc g).isEmpty && (mapGet [] s.pipes.toTail g).isEmpty
    else (mapGet [] s.pipes.toETail g).isEmpty && (mapGet [] s.pipes.toEditor g).isEmpty)

/-- PIPE_QUIESCE (R215). -/
def execPipeQuiesce (p : Nat) (s : State) : Host.Outcome State Fault Refusal :=
  .next (if 71 < p then s else holdWrite s p (aPipe p 0) 1 fun s => setBit s (aPipe p 0) 0 true)

/-- QUIESCED (R215). -/
def execQuiesced (p : Nat) (s : State) : Host.Outcome State Fault Refusal :=
  .next (if decide (71 < p) || !regBit s (aPipe p 0) 0 || regBit s (aPipe p 4) 1 || !pipeEmpty s p then s
    else raise (setBit s (aPipe p 4) 1 true) (0x503 + 4 * p))

/-- The oldest context that can take a word. -/
def oldestReady (s : State) (n : Nat) : Option Nat :=
  (List.range (getStall s n).ctxs.length).find? fun i =>
    match getCtx s n i with
    | none => false
    | some x =>
      let key := stallWordKey n (stallVer n x.pkt) x.next
      !x.finished && !x.marked && (s.pipes.poison.contains key || wordReserved (progNat s key 32) || wordReady x (progNat s key 32))

/-- The word that a write of STEP issues. -/
def stepWord (stall : Nat) (parityBad backingBad : Bool) (constErr : Option (Nat × Bool)) (s : State) : State :=
  if !regBit s (aStall stall 0) 0 || (getStall s stall).paused || stallDown s stall then s
  else match oldestReady s stall with
    | none => s
    | some i => match getCtx s stall i with | some x => readWord s stall i x parityBad backingBad constErr | none => s

/-- A write of STALL_CTRL, in the DEBUG state alone (R216): HALT, and then the word that STEP issues. -/
def stallCtrl (stall : Nat) (v : Word) (parityBad backingBad : Bool) (constErr : Option (Nat × Bool)) (s : State) : State :=
  if !stallNum stall || !inDebug s then s
  else holdWrite s (stallPipe stall) (aStall stall 0) v fun s =>
    let s := setBit s (aStall stall 0) 0 (v.getLsbD 0)
    if v.getLsbD 1 then stepWord stall parityBad backingBad constErr s else s

/-- STALL_HALT (R216): a write of HALT. -/
def execStallHalt (stall : Nat) (halt : Bool) (s : State) : Host.Outcome State Fault Refusal :=
  .next (stallCtrl stall (BitVec.ofNat 32 (b2n halt)) false false none s)

/-- STALL_STEP (R213, R216): a write of STEP that leaves HALT as it is: one word for the oldest ready context of a halted stall. -/
def execStallStep (stall : Nat) (parityBad backingBad : Bool) (constErr : Option (Nat × Bool)) (s : State) :
    Host.Outcome State Fault Refusal :=
  .next (stallCtrl stall (regDue s (aStall stall 0) ||| 2) parityBad backingBad constErr s)

-- Host access (R202, R217, R345).

/-- The bits of STATE_ADDR that a write leaves: INDEX, with BUSY as it was. -/
def stateAddr (s : State) (n : Nat) (v : Word) : State := setF s (aStall n 0x10) 15 0 (fget v 15 0)

/-- STATE_READ (R202): the stored value, without waiting. -/
def execStateRead (stall : Nat) (value : Word) (s : State) : Host.Outcome State Fault Refusal :=
  .next (if !stallNum stall then s
    else holdWrite s (stallPipe stall) (aStall stall 0x10) value fun s =>
      setReg64 (stateAddr s stall value) (aStall stall 0x18) (stateReg s stall (fget value 15 0)).toNat)

/-- STATE_WRITE (R202): at once, or once the index's lock is released. DEDUCED (log 39). -/
def execStateWrite (stall : Nat) (value : Word) (s : State) : Host.Outcome State Fault Refusal :=
  .next (if !stallNum stall then s
    else holdWrite s (stallPipe stall) (aStall stall 0x10) value fun s =>
      let s := stateAddr s stall value
      let v := BitVec.ofNat 64 (reg64 s (aStall stall 0x18))
      if indexLocked s stall (fget value 15 0) then
        let st := getStall s stall
        setBit (setStall s stall { st with hostWrites := st.hostWrites ++ [(fget value 15 0, v)] }) (aStall stall 0x10) 29 true
      else setStateReg s stall (fget value 15 0) v)

/-- METER_READ (R345): the entry in force. -/
def execMeterRead (stall : Nat) (value : Word) (s : State) : Host.Outcome State Fault Refusal :=
  .next (if !stallNum stall then s
    else holdWrite s (stallPipe stall) (aStall stall 0x100) value fun s =>
      let s := setF s (aStall stall 0x100) 13 0 (fget value 13 0)
      forEach (List.range 4) (fun s i =>
        setReg s (aStall stall (0x110 + 4 * i)) ((getMeter s (meterKey stall (fget value 13 0))).words.getD i 0)) s)

/-- METER_DATA holds no reserved code (Table SCH-5). -/
def meterOk (w : List Word) : Bool :=
  let f := fun i hi lo => fget (w.getD i 0) hi lo
  let rate := decide (1 ≤ f 0 20 0 ∧ f 0 20 0 ≤ 1600000)
  match f 0 31 30 with
  | 0 => true
  | 1 => rate
  | 2 => rate && decide (f 0 20 0 ≤ f 1 20 0)
  | _ => false

/-- The fields of a meter entry that Table SCH-5 names. -/
def meterFields (w : List Word) : List Word :=
  [w.getD 0 0 &&& 0xFFDFFFFF, w.getD 1 0 &&& 0x001FFFFF, w.getD 2 0 &&& 0x00FFFFFF, w.getD 3 0 &&& 0x00FFFFFF]

/-- METER_WRITE (R345): taken at the next refill boundary; ignored with a reserved code. DEDUCED (log 39). -/
def execMeterWrite (stall : Nat) (value : Word) (s : State) : Host.Outcome State Fault Refusal :=
  .next (if !stallNum stall then s
    else holdWrite s (stallPipe stall) (aStall stall 0x100) value fun s =>
      let w := (List.range 4).map fun i => reg s (aStall stall (0x110 + 4 * i))
      if !meterOk w then s
      else
        let s := setF s (aStall stall 0x100) 13 0 (fget value 13 0)
        setBit { s with pipes := { s.pipes with
          meterWrites := s.pipes.meterWrites ++ [(meterKey stall (fget value 13 0), meterFields w)] } } (aStall stall 0x100) 29 true)

-- Forced drain (R122).

/-- A packet of a pipeline is dropped wherever it stands in it: its copy, or the frame before it has copies. -/
def dropFlight (s : State) (reason : Nat) (f : Flight) : State :=
  match f.copy with
  | some c => dropDequeued s { c with pkt := f.pkt } reason
  | none => dropPacket s f.pkt.pipe reason f.pkt f.pkt.tally

/-- The packets of one stall that satisfy `old` are dropped. -/
def dropInStall (old : Packet → Bool) (reason : Nat) (s : State) (n : Nat) : State :=
  let st := getStall s n
  let wait := waitingAt s n
  let out := (st.ctxs.filter fun x => old x.pkt).map fun x => ({ pkt := x.pkt, copy := x.copy } : Flight)
  let s := setStall s n { st with ctxs := st.ctxs.filter fun x => !old x.pkt }
  let s := flushHost { s with pipes := { s.pipes with entry := mapPut [] s.pipes.entry n (wait.filter fun f => !old f.pkt) } } n
  forEach (out ++ wait.filter fun f => old f.pkt) (fun s f => dropFlight s reason f) s

/-- The packets of a pipeline that satisfy `old` are dropped: parse, stalls, recirculation, tails and editor. -/
def dropInPipe (old : Packet → Bool) (reason : Nat) (s : State) (p : Nat) : State :=
  let n := firstStall p
  let g := pipeGroup p
  let s := forEach (List.range (if p < 36 then 20 else 12)) (fun s i => dropInStall old reason s (n + i)) s
  if p < 36 then
    let l := (mapGet [] s.pipes.parse g ++ mapGet [] s.pipes.toTail g ++ (mapGet [] s.pipes.recirc g).filter (·.unit == 0)).filter old
    let keep := fun (m : Store (List Packet)) => mapMod [] m g fun l => l.filter fun p => !old p
    let s := { s with pipes := { s.pipes with
        parse := keep s.pipes.parse
        toTail := keep s.pipes.toTail
        recirc := mapMod [] s.pipes.recirc g fun l => l.filter fun p => p.unit != 0 || !old p } }
    forEach l (fun s p => dropPacket s g reason p p.tally) s
  else
    let l := (mapGet [] s.pipes.toETail g ++ mapGet [] s.pipes.toEditor g).filter fun c => old c.pkt
    let keep := fun (m : Store (List Copy)) => mapMod [] m g fun l => l.filter fun c => !old c.pkt
    let s := { s with pipes := { s.pipes with toETail := keep s.pipes.toETail, toEditor := keep s.pipes.toEditor } }
    forEach l (fun s c => dropDequeued s c reason) s

/-- DRAIN_FORCE (R122). -/
def execDrainForce (d : Dom) (s : State) : Host.Outcome State Fault Refusal :=
  .next (
    let due := match (getDom s d).prevT with | some t => decide (t + 100000 ≤ clkNs s) | none => false
    if !regBit s (aDom d 0) 1 || !domHolds s d || !due then s
    else
      let q := (curVer s d + 1) % 2
      let old := fun p : Packet => (match d with | .ing => p.ingVer | .egr => p.egrVer) % 2 == q
      let s := forEach (List.range 36) (fun s g => dropInPipe old 0x05 s (36 * domIdx d + g)) s
      raise (setBit s (aDom d 0) 5 true) 0x205)

end Sys2Proof.Machine
end

