-- ==== Sys2Proof/Machine/Editor.lean ====
section
/-!
DEFINITION. The editor: edit ops, IPv4 checksums, IOAM and what the PTP op prepares; and what the MAC writes as a frame leaves
(R209 to R211, R360 to R362, R416, R417). The edited head is a list of octets, each tagged with its stored position plus one,
or 0 where an op inserted it; stored octets beyond the head follow unchanged.
-/
namespace Sys2Proof.Machine

/-- An octet of the head being edited: its tag, its value, and whether it is still there. -/
structure Cell where
  tag : Nat
  val : Byte
  live : Bool
  deriving DecidableEq, Repr

/-- What an edit list has made so far. -/
structure Edit where
  cells : List Cell
  added : Nat
  ptp : Option (Nat × Nat × Nat)
  /-- The IOAM op has acted. -/
  traced : Bool
  ioam : List (Nat × Nat)
  /-- Tally counts moved: 6 IOAM_NODES, 7 IOAM_SKIPPED, 8 IOAM_OVERFLOW. -/
  counts : List Nat
  deriving DecidableEq, Repr

/-- The frame as an op meets it. -/
structure EditCtx where
  pkt : Packet
  /-- The stored octets. -/
  octs : List Byte
  /-- L, where it is known. -/
  len : Option Nat
  deriving DecidableEq, Repr

-- Cells.

def cellAt (l : List Cell) (tag : Nat) : Byte := ((l.find? fun c => c.tag == tag && c.live).map (·.val)).getD 0

/-- Write octets at a stored position; octets removed earlier are passed over (R210). -/
def overCells (l : List Cell) (pos : Nat) (b : List Byte) : List Cell :=
  l.map fun c => if pos < c.tag ∧ c.tag ≤ pos + b.length ∧ c.live then { c with val := b.getD (c.tag - pos - 1) 0 } else c

def removeCells (l : List Cell) (pos n : Nat) : List Cell :=
  l.map fun c => if pos < c.tag ∧ c.tag ≤ pos + n then { c with live := false } else c

/-- Insert octets before the octet at a stored position, after earlier inserts there; at the end where there is none. DEDUCED (log 40). -/
def insertCells (l : List Cell) (pos : Nat) (b : List Cell) : List Cell :=
  l.takeWhile (fun c => c.tag != pos + 1) ++ b ++ l.dropWhile (fun c => c.tag != pos + 1)

/-- Octets of the head from a stored position on, as edited. -/
def fromCell (l : List Cell) (pos : Nat) : List Byte := ((l.dropWhile fun c => c.tag != pos + 1).filter (·.live)).map (·.val)

/-- A big-endian field of the frame as edited, named by stored position. -/
def cellsBE (l : List Cell) (pos n : Nat) : Nat := beNat ((List.range n).map fun i => cellAt l (pos + i + 1))

-- Ops (Table STL-7).

/-- DEDUCED (log 40). -/
def editOp (s : State) (g ver prof k : Nat) : Nat := progNat s (progKey (ver % 2) 5 (36 + g) 0 (512 * prof + 64 + 8 * k)) 8
def template (s : State) (g ver t n : Nat) : List Byte := progBytes s (progKey (ver % 2) 5 (36 + g) 0 (0x2000 + 64 * t)) n

/-- Octets of containers A to A + B. -/
def containerOctets (p : Packet) (a b : Nat) : List Byte := (List.range (b + 1)).flatMap fun i => bytesBE 4 (hv p (a + i)).toNat

/-- An op reaches octets `n` from `pos` that lie beyond 511, or beyond L. DEDUCED (log 40). -/
def beyondHead (pos n : Nat) : Bool := decide (512 < pos + n)
def beyondLen (x : EditCtx) (pos n : Nat) : Bool := match x.len with | some l => decide (l < pos + n) | none => decide (x.octs.length < pos + n)

def fresh (b : List Byte) : List Cell := b.map fun v => { tag := 0, val := v, live := true }

/-- IPV4_CSUM: the checksum over the header as edited; with an IHL below 5 the header is left. What a header that runs on beyond L
gives is not stated: `free` (DESIGN CHOICE, log 87). -/
def ipv4Csum (free : Option Nat) (e : Edit) (pos : Nat) : Edit :=
  let h := fromCell e.cells pos
  let ihl := beAt h 0 1 % 16
  if ihl < 5 then e
  else
    let words := (List.range (2 * ihl)).map fun i => if i = 5 then 0 else beAt h (2 * i) 2
    let sum := free.getD (65535 - foldSum16 words)
    -- The two octets of the checksum field stand 10 octets into the header as edited.
    let pre := e.cells.takeWhile fun c => c.tag != pos + 1
    let post := e.cells.dropWhile fun c => c.tag != pos + 1
    { e with cells := pre ++ setNth post 10 (bytesBE 2 sum) }
where
  /-- Overwrite live octets from the k-th on. -/
  setNth : List Cell → Nat → List Byte → List Cell
    | [], _, _ => []
    | l, _, [] => l
    | c :: r, k, v :: vs =>
      if !c.live then c :: setNth r k (v :: vs)
      else match k with
        | 0 => { c with val := v } :: setNth r 0 vs
        | k + 1 => c :: setNth r k (v :: vs)

/-- PTP (R360, R362): prepared for the MAC; none where it is EDIT_FAULT. Only the first PTP op of a packet acts. DEDUCED (log 35). -/
def editPtp (x : EditCtx) (e : Edit) (pos p : Nat) : Option Edit :=
  if e.ptp.isSome then some e
  else
    let action := nbits p 15 13
    let csum := nbits p 12 11
    let udp := layerPos x.pkt (nbits p 10 8)
    let reach := (match action with | 0 => 16 | 1 => 44 | _ => 32)
    let reach := pos + reach
    let reach := if csum = 0 then reach else max reach (udp + 8)
    let top := match x.len with | some l => min 256 l | none => 256
    if decide (3 < action) || csum == 3 || nbits p 7 6 == 3 || (csum != 0 && udp == 0xFFFF) || decide (top < reach) then none
    else some { e with ptp := some (p, pos, udp) }

/-- Node data of a trace in bit order (Table TAL-5): the octets, and the field kinds written at departure. -/
def nodeFields (s : State) (p : Packet) (hop ty : Nat) : List (Nat × Option Nat) :=
  let f := [ (hop % 256 * 2 ^ 24 + regF s (aTal 0x40) 23 0, none),
    (mdSrc p * 65536 + mdF p 215 10 0, none), (0, some 0), (0, some 1), (0, some 2), (p.tally.user, none), ((hv p 217).toNat, none) ]
  ((List.range 7).filter fun i => ty.testBit (23 - i)).map fun i => f.getD i (0, none)

/-- An octet that a trace which acts reaches stands beyond 511, or before the frame: the Hop Limit, the node data list, and with INCREMENTAL the
lengths (R211, R417). DEDUCED (log 40). -/
def traceReach (kind pos ip remain nodeLen ty : Nat) : Bool :=
  (ty.testBit 23 && beyondHead ip 8) ||
  (if kind = 0 then nodeLen != 0 && beyondHead pos (8 + 4 * remain)
   else beyondHead pos 9 || beyondHead ip 42 || decide (pos < 3))

/-- IOAM trace of KIND 0 or 1 (R416, R417); none where it is EDIT_FAULT. A trace that is not acted on, or is refused, reaches nothing further. -/
def editTrace (s : State) (x : EditCtx) (e : Edit) (pos kind ip : Nat) : Option Edit :=
  let nodeLen := cellsBE e.cells (pos + 2) 1 / 8
  let remain := cellsBE e.cells (pos + 3) 1 % 128
  let ty := cellsBE e.cells (pos + 4) 3
  let fields := nodeFields s x.pkt (octet { x.pkt with octets := x.octs } (ip + 7)).toNat ty
  let n := fields.length
  let short := decide (remain < nodeLen) || (kind == 1 && nodeLen % 2 == 1)
  if ty % 2 ^ 17 ≠ 0 ∨ nodeLen ≠ n then some { e with counts := e.counts ++ [7] }
  else if !short && kind == 1 && beyondHead ip 7 then none
  else
    if short || (kind == 1 && octet { x.pkt with octets := x.octs } (ip + 6) != 0) then
      some { e with cells := overCells e.cells (pos + 2) (bytesBE 1 (putBit (cellsBE e.cells (pos + 2) 1) 2 true)), counts := e.counts ++ [8] }
    else if traceReach kind pos ip remain nodeLen ty then none
    else
      let data := fields.flatMap fun f => bytesBE 4 f.1
      let lower := overCells e.cells (pos + 3) (bytesBE 1 (cellsBE e.cells (pos + 3) 1 - nodeLen))
      let late := fun (base : Nat) => ((List.range n).filterMap fun i => (fields.getD i (0, none)).2.map fun k => (base + 4 * i, k))
      if kind = 0 then
        let at_ := pos + 8 + 4 * (remain - nodeLen)
        some { e with cells := overCells lower at_ data, ioam := late (at_ + 1), counts := e.counts ++ [6] }
      else
        let cells := insertCells lower (pos + 8) (tagged data)
        let up := fun (l : List Cell) (a k d : Nat) => overCells l a (bytesBE k (cellsBE l a k + d))
        let cells := up (up (up cells (pos - 3) 1 (4 * nodeLen)) (ip + 4) 2 (4 * nodeLen)) (ip + 41) 1 (nodeLen / 2)
        some { e with cells := cells, added := e.added + data.length, ioam := late 100000, counts := e.counts ++ [6] }
where
  /-- Inserted node data carries tags of its own, for the fields written at departure. -/
  tagged (b : List Byte) : List Cell := (List.range b.length).map fun i => { tag := 100000 + i, val := b.getD i 0, live := true }

/-- IOAM (R416): none where it is EDIT_FAULT. Only the first IOAM op of a packet acts. -/
def editIoam (s : State) (x : EditCtx) (e : Edit) (pos p : Nat) : Option Edit :=
  if e.traced then some e
  else
    let kind := nbits p 15 14
    let ip := layerPos x.pkt (nbits p 13 11)
    if kind = 3 then none
    else if kind = 2 then
      let rec_ := tallyOctets x.pkt.tally
      let cells := (List.range 32).map fun i => ({ tag := 100000 + i, val := rec_.getD i 0, live := true } : Cell)
      if beyondHead pos 1 then none
      else some { e with cells := insertCells e.cells pos cells, added := e.added + 32, traced := true, ioam := [(100016, 3)], counts := e.counts ++ [6] }
    else if ip = 0xFFFF ∨ beyondHead pos 7 then none
    else (editTrace s x e pos kind ip).map fun e => { e with traced := true }

/-- One edit op; none where it is EDIT_FAULT, with the flag that ends the list. DEDUCED (log 40). DESIGN CHOICE (log 87). -/
def runEdit (s : State) (g : Nat) (x : EditCtx) (e : Edit) (w : Nat) : Option (Edit × Bool) :=
  let p := x.pkt
  let op := nbits w 63 60
  let cond := nbits w 59 56
  let layer := layerPos p (nbits w 55 53)
  let pos := layer + nbits w 52 45
  let a := nbits w 44 37
  let b := nbits w 36 29
  let on := fun e : Edit => some (e, false)
  if layer = 0xFFFF ∨ (1 ≤ cond ∧ cond ≤ 8 ∧ (hv p 218).getLsbD (cond - 1) = false) then on e
  else if 8 < cond then none
  else if op = 0 then some (e, true)
  else match op with
    | 1 =>
      if 191 < a + b ∨ 31 < b ∨ beyondHead pos (4 * (b + 1)) ∨ beyondLen x pos (4 * (b + 1)) then none
      else on { e with cells := overCells e.cells pos (containerOctets p a b) }
    | 2 =>
      if beyondHead pos (b + 1) ∨ beyondLen x pos (b + 1) then none else on { e with cells := removeCells e.cells pos (b + 1) }
    | 3 =>
      if 191 < a + b ∨ 31 < b ∨ beyondHead pos 1 then none
      else on { e with cells := insertCells e.cells pos (fresh (containerOctets p a b)), added := e.added + 4 * (b + 1) }
    | 4 =>
      if 127 < a ∨ 63 < b ∨ beyondHead pos 1 then none
      else on { e with cells := insertCells e.cells pos (fresh (template s g p.egrVer a (b + 1))), added := e.added + b + 1 }
    | 5 =>
      let ihl := cellsBE e.cells pos 1 % 16
      if beyondHead pos (max 1 (4 * ihl)) then none
      else on (ipv4Csum (if beyondLen x pos (4 * ihl) then some (Config.freeNat s.freeCtr % 65536) else none) e pos)
    | 6 => (editIoam s x e pos (nbits w 15 0)).map fun e => (e, false)
    | 7 => (editPtp x e pos (nbits w 15 0)).map fun e => (e, false)
    | _ => none

/-- The edit ops of a profile in order. -/
def runEdits (fuel : Nat) (s : State) (g : Nat) (x : EditCtx) (e : Edit) (k : Nat) : Option Edit :=
  match fuel with
  | 0 => some e
  | f + 1 =>
    match runEdit s g x e (editOp s g x.pkt.egrVer (mdF x.pkt 218 31 28) k) with
    | none => none
    | some (e, true) => some e
    | some (e, false) => runEdits f s g x e (k + 1)

/-- The copy as the editor passes it to the MAC, with what it counts; none where it is EDIT_FAULT (R211). -/
def editCopy (s : State) (g : Nat) (c : Copy) : Option (Copy × List Nat) :=
  let octs := copyOctets c
  let head := octs.take 512
  let x : EditCtx := { pkt := c.pkt, octs := octs, len := copyLen c }
  let cells := (List.range head.length).map fun i => ({ tag := i + 1, val := head.getD i 0, live := true } : Cell)
  if c.loadFault then none
  else match runEdits 56 s g x { cells := cells, added := 0, ptp := none, traced := false, ioam := [], counts := [] } 0 with
    | none => none
    | some e =>
      let out := e.cells.filter (·.live)
      let total := out.length + ((x.len.getD 0) - head.length)
      if 256 < e.added ∨ 16383 < total then none
      else some ({ c with edited := some (out.map fun y => (y.tag, y.val), head.length), ptp := e.ptp, ioam := e.ioam }, e.counts)

/-- A copy is dropped with EDIT_FAULT (R211, R218). -/
def editFault (s : State) (c : Copy) : State :=
  let p := 36 + c.port / 32
  dropDequeued (raise (add64 s (aPipe p 0x40) 1) (0x500 + 4 * p)) c 0x0B

/-- The octets that the profile's ops can reach have arrived. DEDUCED (log 44). -/
def editArrived (c : Copy) : Bool := c.pkt.whole || decide (512 ≤ (copyOctets c).length)

/-- EDITOR (R209 to R211): a copy passes to its MAC, or is dropped before its first octet reaches it. -/
def execEditor (g : Nat) (s : State) : Host.Outcome State Fault Refusal :=
  .next (match headAt s.pipes.toEditor g with
    | none => s
    | some c =>
      if decide (35 < g) || islandDown s (36 + g) || !editArrived c then s
      else
        let s := { s with pipes := { s.pipes with toEditor := popAt s.pipes.toEditor g } }
        if c.pkt.bad ≠ 0 then dropDequeued s c c.pkt.bad
        else match editCopy s g c with
          | none => editFault s c
          | some (c, counts) =>
            let s := forEach counts (fun s k => if k = 6 then addTal s 6 else raiseLimited (addTal s k) 0xB84 1000000) s
            drawn { s with pipes := { s.pipes with mac := pushAt s.pipes.mac c.port c } })

-- What the MAC writes (R360 to R363, R416).

/-- Write octets at tags from `tag` on. DEDUCED (log 35). -/
def overTags (l : List (Nat × Byte)) (tag : Nat) (b : List Byte) : List (Nat × Byte) :=
  l.map fun c => if tag ≤ c.1 ∧ c.1 < tag + b.length ∧ c.1 ≠ 0 then (c.1, b.getD (c.1 - tag) 0) else c
def tagsBE (l : List (Nat × Byte)) (tag n : Nat) : Nat :=
  beNat ((List.range n).map fun i => ((l.find? (·.1 == tag + i)).map (·.2)).getD 0)

/-- The UDP checksum after octets changed (R362): every 16-bit word from the UDP header that changed counts. -/
def udpUpdate (old new : List (Nat × Byte)) (udp : Nat) : List (Nat × Byte) :=
  let hc := tagsBE old (udp + 7) 2
  let words := (List.range 128).map fun j => (tagsBE old (udp + 1 + 2 * j) 2, tagsBE new (udp + 1 + 2 * j) 2)
  let diff := words.filter fun w => w.1 != w.2
  if hc = 0 ∨ diff.isEmpty then new
  else
    let c := 65535 - foldSum16 ((65535 - hc) :: diff.flatMap fun w => [65535 - w.1, w.2])
    overTags new (udp + 7) (bytesBE 2 (if c = 0 then 65535 else c))

/-- ASYM of a port, signed, in 2^-16 ns (R357). -/
def asymOf (s : State) (l : Nat) : Int := if l < 1152 then toSigned 32 (reg s (aTim (0x10008 + 0x20 * l))).toNat else 0

/-- What the PTP op makes of the frame as it leaves with an egress stamp (R360, R362). DEDUCED (log 35). -/
def applyPtp (s : State) (c : Copy) (l : List (Nat × Byte)) (stamp : Nat) : List (Nat × Byte) :=
  match c.ptp with
  | none => l
  | some (p, pos, udp) =>
    let cf := toSigned 64 (tagsBE l (pos + 9) 8)
    let ns := stamp / 65536
    let res : Int := ((stamp % 2 ^ 48 + 2 ^ 48 - ((hv c.pkt 194).toNat * 65536 + c.pkt.frac)) % 2 ^ 48 : Nat)
    let asym := match nbits p 7 6 with | 1 => asymOf s (mdSrc c.pkt) | 2 => -(asymOf s c.port) | _ => 0
    let put := fun (l : List (Nat × Byte)) (v : Int) => overTags l (pos + 9) (bytesBE 8 (ofSigned 64 v))
    let new := match nbits p 15 13 with
      | 0 | 3 => put l (cf + res + asym)
      | 1 => overTags (put l (cf + (stamp % 65536 : Nat))) (pos + 35) (bytesBE 6 (ns / nsPerSec) ++ bytesBE 4 (ns % nsPerSec))
      | _ => l
    match nbits p 12 11 with
    | 1 => udpUpdate l new udp
    | 2 => overTags new (udp + 7) [0, 0]
    | _ => new

/-- The IOAM fields that the MAC writes. -/
def applyIoam (c : Copy) (l : List (Nat × Byte)) (stamp : Nat) : List (Nat × Byte) :=
  let ns := stamp / 65536
  c.ioam.foldl (fun l x =>
    match x.2 with
    | 0 => overTags l x.1 (bytesBE 4 (ns / nsPerSec))
    | 1 => overTags l x.1 (bytesBE 4 (ns % nsPerSec))
    | 2 => overTags l x.1 (bytesBE 4 ((ns + 2 ^ 32 - (hv c.pkt 194).toNat % 2 ^ 32) % 2 ^ 32))
    | _ => overTags l x.1 (bytesLE 4 ns)) l

/-- Octets of the edited frame. A frame whose length the editor did not know is judged by it as it leaves (R211). DEDUCED (log 40). -/
def editedLen (c : Copy) : Nat :=
  match c.edited with
  | none => (copyOctets c).length
  | some (l, n) => l.length + ((copyOctets c).length - n)

/-- The frame as it leaves, without FCS: edited head, the rest as stored, padded to 60 octets. -/
def leavingOctets (s : State) (c : Copy) (stamp : Nat) : List Byte :=
  let octs := copyOctets c
  let b := match c.edited with
    | none => octs
    | some (l, n) => (applyIoam c (applyPtp s c l stamp) stamp).map (·.2) ++ octs.drop n
  b ++ List.replicate (60 - b.length) 0

/-- A two-step report (R361, Table TIM-5), or its loss. -/
def ptpReport (s : State) (c : Copy) (stamp : Nat) : State :=
  match c.ptp with
  | none => s
  | some (p, pos, _) =>
    if nbits p 15 13 < 2 then s
    else
      let nq := regF s (aTim 0x30) 2 0
      let l := (c.edited.map (·.1)).getD []
      let waiting := (s.hif.notifs.filter fun x => x.1 == nq && x.2.kind == 1).length
      if !notifyOk s nq || decide (256 ≤ waiting) then raiseLimited (add64 s (aTim 0x38) 1) 0xA06 1000000
      else
        let ns := stamp / 65536
        notify s nq 1 (bytesLE 2 c.port ++ bytesLE 2 (tagsBE l (pos + 31) 2) ++ bytesLE 1 (tagsBE l (pos + 1) 1 % 16)
          ++ bytesLE 1 (tagsBE l (pos + 5) 1) ++ [0, 0] ++ bytesLE 4 (hv c.pkt 210).toNat
          ++ bytesLE 6 (ns / nsPerSec) ++ bytesLE 4 (ns % nsPerSec) ++ bytesLE 2 (stamp % 65536))

end Sys2Proof.Machine
end

