-- ==== Sys2Proof/Machine/Scales.lean ====
section
/-!
DEFINITION. Scales: regulators, clock steps and activity limits, the sustained cap, deferrals, the absolute limiter,
droop response, phases, thermal limits and energy (chapter 19), with the protected spans of R379.
-/
namespace Sys2Proof.Machine

def setScl (s : State) (f : Scales → Scales) : State := { s with scales := f s.scales }

/-- The Scales island is out of island reset (R462). -/
def sclLive (s : State) : Bool := !islandDown s 127

/-- Scales policy runs: firmware, in a part whose Scales island is not in reset (R46, R462). -/
def sclPolicy (s : State) : Bool := fwRuns s && sclLive s

-- PIPE_CLK (Table SCL-5).

def aPipeClk (p : Nat) : Nat := aScl (0x400 + 4 * p)
def stepNow (s : State) (p : Nat) : Nat := regF s (aPipeClk p) 31 30
def gliding (s : State) (p : Nat) : Bool := regBit s (aPipeClk p) 29

/-- Bounds of the step (R448): the pin, or MIN and MAX with MIN above MAX acting as MIN = MAX. -/
def stepHi (s : State) (p : Nat) : Nat :=
  if regBit s (aPipeClk p) 7 then regF s (aPipeClk p) 5 4 else regF s (aPipeClk p) 3 2
def stepLo (s : State) (p : Nat) : Nat :=
  if regBit s (aPipeClk p) 7 then regF s (aPipeClk p) 5 4 else min (regF s (aPipeClk p) 1 0) (regF s (aPipeClk p) 3 2)

/-- The pipelines of the part. -/
def pipesAll : List Nat := List.range 72

/-- The hall of a pipeline. -/
def pipeHall (p : Nat) : Nat := hallOf (pipeGroup p)

def pipeProtected (s : State) (p : Nat) : Bool := groupProtected s (pipeGroup p)

/-- The pipeline's detector is clear and has been for 5 µs (R456). -/
def detectorClear (s : State) (p : Nat) : Bool := !s.scales.stretched.contains p && intervalOver s (0x20000 + p) 5000

/-- A glide can start: steps are released (R54, R448), the detector is clear, and no glide of the pipeline is frozen (R456). DEDUCED (log 63). -/
def mayGlide (s : State) (p : Nat) : Bool := bringup s 8 && detectorClear s p && !s.scales.frozen.contains p

/-- A glide to a step starts (R448): NOW names the step commanded, GLIDING stands until GLIDE_COMPLETE. DEDUCED (log 62). -/
def setStep (s : State) (p step : Nat) : State :=
  if stepNow s p = step || !mayGlide s p then s
  else
    let s := setScl s fun x => { x with glideFrom := mapPut 0 x.glideFrom p (stepNow s p) }
    setBit (setF s (aPipeClk p) 31 30 step) (aPipeClk p) 29 true

/-- A cut of one step from a step; the interval of R448 for its hall runs from it. -/
def cutOne (s : State) (p : Nat) : State :=
  setScl (setStep s p (stepNow s p - 1)) fun x => { x with lastCut := mapPut (0, 0) x.lastCut (pipeHall p) (s.elapsed + 1, stepNow s p) }

/-- The step that the pipeline has now is to be restored once the limit that lowers it is over (R453, R458). -/
def keepStep (s : State) (p : Nat) : State :=
  setScl s fun x => { x with restore := mapMod 0 x.restore p fun r => if r = 0 then stepNow s p + 1 else r }

/-- A cut of one step by policy, which leaves nothing to restore. -/
def cutStep (s : State) (p : Nat) : State := cutOne (setScl s fun x => { x with restore := mapPut 0 x.restore p 0 }) p

/-- A cut can come in the pipeline's hall (R448): the last one lies 10 µs back, or it is a cut of this instant from the same
step. DEDUCED (log 63). -/
def hallFree (s : State) (p : Nat) : Bool :=
  let c := mapGet (0, 0) s.scales.lastCut (pipeHall p)
  c.1 == 0 || decide (c.1 + 10000 ≤ s.elapsed + 1) || (c.1 == s.elapsed + 1 && c.2 == stepNow s p)

/-- STATUS bits (Table SCL-4). -/
def sclCritical (s : State) : Bool := regBit s (aScl 4) 29
def sclThrottle (s : State) : Bool := regBit s (aScl 4) 30
def absActive (s : State) : Bool := regBit s (aScl 4) 28

/-- The limit that policy sets: by the cap and by the throttle. -/
def actWanted (s : State) (p : Nat) : Nat := min (mapGet 8 s.scales.actPolicy p) (mapGet 8 s.scales.actThrottle p)

/-- ACT is the least of what policy, the limiter and the critical response allow (R446, R449). -/
def syncAct (s : State) (p : Nat) : State :=
  setF s (aPipeClk p) 11 8 (min (min (actWanted s p) (mapGet 8 s.scales.actLimiter p)) (if sclCritical s then 4 else 8))
def syncActs (s : State) : State := forEach pipesAll syncAct s

-- Notices (R452, Table SCL-3).

/-- The PIPES mask of some pipelines of one hall. -/
def pipesMask (ps : List Nat) : Nat :=
  ps.foldl (fun m p => m ||| 2 ^ ((if p < 36 then 0 else 4) + pipeGroup p % 4)) 0

/-- A deferral, a forcing or an end (event 1, 2, 3): CAP_NOTICE, the notification and source 0xC00 (R452). -/
def capEvent (s : State) (event hall step us : Nat) (ps : List Nat) : State :=
  let s := capNotice s (event - 1) hall step us
  let payload := [BitVec.ofNat 8 event, BitVec.ofNat 8 hall, BitVec.ofNat 8 step, BitVec.ofNat 8 (pipesMask ps)]
    ++ bytesLE 2 us ++ [BitVec.ofNat 8 (regF s (aScl 4) 18 16), 0] ++ bytesLE 4 (ts32 s)
  raise (notify s (regF s (aScl 0) 2 0) 2 payload) 0xC00

/-- A throttle, critical or phase event (4, 5, 6): hall, step, pipelines and deferral are stated for cuts only, and
are free values here (DESIGN CHOICE, log 1). -/
def sclEvent (s : State) (event : Nat) : State :=
  let payload := [BitVec.ofNat 8 event] ++ bytesLE 5 (Config.freeNat s.freeCtr)
    ++ [BitVec.ofNat 8 (regF s (aScl 4) 18 16), 0] ++ bytesLE 4 (ts32 s)
  notify (drawn s) (regF s (aScl 0) 2 0) 2 payload

/-- The deferral of a pipeline. -/
def deferralOf (s : State) (p : Nat) : Option Deferral := s.scales.deferrals.find? (·.pipe == p)

/-- µs since a deferral began, at most 2,000; the time that a frozen glide delays it does not count (R456). -/
def deferredUs (s : State) (d : Deferral) : Nat := min 2000 ((d.paused.getD s.elapsed - d.since) / 1000)

/-- The deferral of a pipeline changes. -/
def modDeferral (s : State) (p : Nat) (f : Deferral → Deferral) : State :=
  setScl s fun x => { x with deferrals := x.deferrals.map fun d => if d.pipe = p then f d else d }

/-- A glide freezes, and its deferral counts no further; or it resumes (R456). -/
def pauseDeferral (s : State) (p : Nat) : State := modDeferral s p fun d => { d with paused := some (d.paused.getD s.elapsed) }
def resumeDeferral (s : State) (p : Nat) : State :=
  modDeferral s p fun d => { d with since := d.since + (s.elapsed - d.paused.getD s.elapsed), paused := none }

/-- The deferral of a pipeline ends: DEFERRED and DEFERRING follow (R451). -/
def dropDeferral (s : State) (p : Nat) : State :=
  let s := setScl s fun x => { x with deferrals := x.deferrals.filter (·.pipe != p) }
  setBit (setBit s (aPipeClk p) 28 false) (aScl 4) 27 (!s.scales.deferrals.isEmpty)

/-- Forced notices for protected pipelines that a limit of the first four rows of Table SCL-1 touched: one for each hall
and step after the event, with the longest deferral that it meets. Where it took their cuts, it ends their deferrals (R451 to R453). DEDUCED
(log 65). -/
def forcedNotices (s : State) (ps : List Nat) (cuts : Bool) : State :=
  let ps := ps.filter (pipeProtected s)
  let us := fun q => match deferralOf s q with | some d => deferredUs s d | none => 0
  let all := (List.range 9).flatMap fun h => (List.range 4).map fun st =>
    (h, st, ps.filter fun p => pipeHall p == h && stepNow s p == st)
  let notes := (all.filter fun x => !x.2.2.isEmpty).map fun x => (x, (x.2.2.map us).foldl max 0)
  let s := whenB cuts (forEach ps dropDeferral) s
  forEach notes (fun s n => capEvent s 2 n.1.1 n.1.2.1 n.2 n.1.2.2) s

-- Protected spans (R379, R451).

/-- Throttle temperature: 100 °C, or SOFT_C if lower. -/
def throttleC (s : State) : Nat := min 100 (regF s (aScl 0x18) 7 0)
def tjNow (s : State) : Nat := regF s (aScl 0x24) 7 0

/-- The throttle temperature wants cuts (R458). -/
def throttling (s : State) : Bool := sclThrottle s && decide (throttleC s ≤ tjNow s)

/-- A deferred cut is still wanted, by the cap, the throttle temperature or the software bounds, and they leave room for it (R446, R447, R451,
R458). DEDUCED (log 63). -/
def cutWanted (s : State) (d : Deferral) : Bool :=
  decide (stepLo s d.pipe < stepNow s d.pipe) && (d.wanted || throttling s || decide (stepHi s d.pipe < stepNow s d.pipe))

/-- A cut can start now: a glide can, none is under way, and its hall has none (R448, R456). -/
def cutReady (s : State) (p : Nat) : Bool := mayGlide s p && !gliding s p && hallFree s p

/-- A cut that was deferred: what the throttle wants alone is to be restored (R458). -/
def takeDeferred (s : State) (d : Deferral) : State :=
  if d.wanted then cutStep s d.pipe else cutOne (keepStep s d.pipe) d.pipe

/-- A deferral meets the end of its span: the cut is taken where it is still wanted, and dropped if not. A cut that cannot start
yet stays deferred. -/
def endDeferral (s : State) (p : Nat) : State :=
  match deferralOf s p with
  | none => s
  | some d =>
    let cut := cutWanted s d
    if pipeProtected s p || (cut && !cutReady s p) then s
    else
      let s := whenB cut (takeDeferred · d) (dropDeferral s p)
      capEvent s 3 (pipeHall p) (stepNow s p) (deferredUs s d) [p]

/-- PROTECTED_SPAN_START (R379): SLOT_STATUS.PROT follows the copies and the clock. -/
def execProtectedSpanStart (lane : Nat) (s : State) : Host.Outcome State Fault Refusal :=
  .next (if 1151 < lane then s else syncSlotStatus s lane)

/-- PROTECTED_SPAN_END (R379, R451). Without its policy, Scales holds the deferral (R46, R462): the first tick of the loop ends it. -/
def execProtectedSpanEnd (lane : Nat) (s : State) : Host.Outcome State Fault Refusal :=
  .next (if 1151 < lane then s
    else
      let s := syncSlotStatus s lane
      if !sclPolicy s then s else endDeferral (endDeferral s (lane / 32)) (36 + lane / 32))

/-- A deferral that has lasted 2 ms: the cut is taken at once, where the bounds leave one; another cut of the hall within 10 µs (R448) and a frozen
glide delay it (R456, R493). DEDUCED (log 65). -/
def forceDeferral (s : State) (p : Nat) : State :=
  match deferralOf s p with
  | none => s
  | some d =>
    let cut := decide (stepLo s p < stepNow s p)
    if cut && !cutReady s p then s
    else
      let s := whenB cut (takeDeferred · d) (dropDeferral s p)
      capEvent s 2 (pipeHall p) (stepNow s p) 2000 [p]

/-- DEFERRAL_FORCE (R451). A Scales island reset holds steps (R462). -/
def execDeferralForce (p : Nat) (s : State) : Host.Outcome State Fault Refusal := .next (if sclLive s then forceDeferral s p else s)

-- Regulators (R443 to R445, Table SCL-6).

def aRegulator (k o : Nat) : Nat := aScl (0x100 + 16 * k + o)
def regulatorOn (s : State) (k : Nat) : Bool := regBit s (aRegulator k 0) 31
def regulatorsOn (s : State) : List Nat := (List.range 12).filter (regulatorOn s)

/-- The enabled entries that name VDD_CORE. -/
def coreEntries (s : State) : List Nat := (regulatorsOn s).filter fun k => regF s (aRegulator k 0) 16 13 == 0

/-- STATUS.MODEL_ONLY: every enabled VDD_CORE entry is stale, or none names VDD_CORE (R444). -/
def modelOnly (s : State) : Bool := (coreEntries s).all fun k => regBit s (aRegulator k 4) 31

/-- MODEL_ONLY as last seen follows the VDD_CORE entries; source 0xC07 as it is entered (R444). -/
def syncModelOnly (s : State) : State :=
  whenB (modelOnly s && !regBit s (aScl 4) 31) (raise · 0xC07) (setBit s (aScl 4) 31 (modelOnly s))

/-- `m` x 2^e x `k`, rounded down. -/
def scaled (m e k : Int) : Int := if 0 ≤ e then m * k * 2 ^ e.toNat else m * k / 2 ^ (-e).toNat

/-- A LINEAR11 word, times `k`: an exponent of 5 bits and a mantissa of 11, both signed. PRESUMED (log 96). -/
def linear11 (w : Nat) (k : Int) : Int := scaled (toSigned 11 (w % 2048)) (toSigned 5 (w / 2048 % 32)) k

/-- A value that a field of `n` bits can hold. -/
def inField (n : Nat) (x : Int) : Option Nat := if 0 ≤ x ∧ x < 2 ^ n then some x.toNat else none

/-- mV, mA and °C of an answer; none where its PEC is wrong or a value cannot be converted (R443, R444): VOUT_MODE is not linear, or a result does
not fit its field. PRESUMED (log 96). -/
def answerValues (a : RegulatorAnswer) : Option (Nat × Nat × Nat) :=
  if !a.pecOk || decide (31 < a.voutMode) then none
  else match inField 16 (scaled a.vout (toSigned 5 (a.voutMode % 32)) 1000), inField 21 (linear11 a.iout 1000), inField 8 (linear11 a.temp 1) with
    | some mv, some ma, some deg => some (mv, ma, deg)
    | _, _, _ => none

/-- The PAGE that entry `k` has written before each read. -/
def entryPage (s : State) (k : Nat) : Option Nat :=
  if regBit s (aRegulator k 0) 22 then some (regF s (aRegulator k 0) 21 17) else none

/-- The answer of the device that entry `k` names: its bus and address, and the page selected (Table SCL-6). -/
def entryAnswer (s : State) (k : Nat) (l : List RegulatorAnswer) : Option RegulatorAnswer :=
  l.find? fun a => a.bus == regF s (aRegulator k 0) 30 30 && a.addr == regF s (aRegulator k 0) 29 23
    && (match entryPage s k with | some p => a.page == p | none => true)

/-- One entry is read: its values, or STALE with source 0xC05 at most once per 1 ms (R443, R444). -/
def pollEntry (answers : List RegulatorAnswer) (s : State) (k : Nat) : State :=
  let s := setScl s fun x => { x with polled := addOnce x.polled k }
  let s := emit s (.pmbusRead (regF s (aRegulator k 0) 30 30) (regF s (aRegulator k 0) 29 23) (entryPage s k))
  match (entryAnswer s k answers).bind answerValues with
  | some (mv, ma, deg) =>
    setF (setF (setF (setBit s (aRegulator k 4) 31 false) (aRegulator k 4) 15 0 mv) (aRegulator k 4) 23 16 deg)
      (aRegulator k 8) 20 0 ma
  | none => raiseLimited (setBit s (aRegulator k 4) 31 true) 0xC05 1000000

/-- REGULATOR_POLL (R443, R444): every enabled entry; one without an answer is stale. Power is interpolated from here on (R450). -/
def execRegulatorPoll (answers : List RegulatorAnswer) (s : State) : Host.Outcome State Fault Refusal :=
  .next (if !sclLive s then s
    else setScl (syncModelOnly (forEach (regulatorsOn s) (pollEntry answers) s)) fun x => { x with pollNw := x.estNw })

/-- Each VDD_CORE regulator's IOUT_OC_WARN_LIMIT is written to its equal share of ABS_A (R453). DEDUCED (log 65). -/
def writeWarnLimits (s : State) : State :=
  let ks := coreEntries s
  forEach ks (fun s k => emit s (.ocWarnLimit k (regF s (aScl 0x14) 10 0 / ks.length))) s

/-- SCALES_READY (R445, R453, R454): firmware has loaded the table, every enabled entry has been polled; the phases are
restored, the warning limits written and each VDD_CORE regulator's alert enabled, and BRINGUP.SCALES sets. -/
def execScalesReady (s : State) : Host.Outcome State Fault Refusal :=
  .next (if bringup s 8 || !sclPolicy s || !s.scales.regTable || !(regulatorsOn s).all s.scales.polled.contains then s
    else
      let s := jrnReads s fun e => match e with | .phases _ => true | _ => false
      let s := setScl s fun x => { x with phases := jrnPhases s.journal }
      let s := setF s (aScl 4) 15 8 (2 ^ s.scales.phases.length - 1)
      let s := writeWarnLimits (syncModelOnly s)
      setBringup (forEach (coreEntries s) (fun s k => emit s (.alertOn k)) s) 8)

/-- A write that SCL refuses: ERR.CFG_BAD and source 0xC09 (R463). -/
def sclBad (s : State) : State := raise (setBit s (aScl 8) 0 true) 0xC09

/-- ABS_WRITE (R453, R463): the threshold, and the warning limits once they have been written. -/
def absWrite (value : Word) (s : State) : State :=
  let a := fget value 10 0
  if a < 400 ∨ 1600 < a then sclBad s
  else
    let s := setF s (aScl 0x14) 10 0 a
    whenB (bringup s 8) writeWarnLimits s

def execAbsWrite (value : Word) (s : State) : Host.Outcome State Fault Refusal :=
  .next (holdWrite s 127 (aScl 0x14) value (absWrite value))

-- The loop (R447, R448, R450, R451).

/-- CAP_W in mW, and the fast estimate in mW. -/
def capMw (s : State) : Nat := 1000 * regF s (aScl 0x10) 11 0
def estMw (s : State) : Nat := 1000 * regF s (aScl 0x20) 31 16

/-- Keys of a price list, dearest first. DEDUCED (log 64). -/
def dearest (prices : List (Nat × Nat)) : List (Nat × Nat) := prices.insertionSort fun a b => b.2 ≤ a.2

/-- A cut of one step is open to policy on a pipeline (R447, R448, R456). DEDUCED (log 63). -/
def cutOpen (s : State) (p : Nat) : Bool :=
  decide (p < 72) && decide (stepLo s p < stepNow s p) && !gliding s p && mayGlide s p

/-- An activity cut is open: a pipeline at its lowest step that is not protected, with activity left (R449, R450). DEDUCED (log 64). -/
def actOpen (s : State) (p : Nat) : Bool :=
  decide (p < 72) && decide (stepNow s p ≤ stepLo s p) && !pipeProtected s p && decide (4 < actWanted s p)

/-- Choose among priced pipelines, in order, until the amount is met: in each hall only pipelines at one step (R448). DEDUCED (log 64). -/
def choose (s : State) : List (Nat × Nat) → Nat → List Nat → List Nat
  | [], _, got => got
  | (p, mw) :: r, need, got =>
    if need = 0 then got
    else if got.any (fun q => pipeHall q == pipeHall p && stepNow s q != stepNow s p) then choose s r need got
    else choose s r (need - mw) (got ++ [p])

/-- The cap wants no cut any more: what waits for it alone is dropped at its span's end (R451). -/
def unwantDeferrals (s : State) : State :=
  setScl s fun x => { x with deferrals := x.deferrals.map fun d => { d with wanted := false } }

/-- Cuts of protected pipelines are deferred, each once, with a notice for each hall and step; `cap` says that the cap wants them (R448, R451,
R452). -/
def deferCuts (s : State) (cap : Bool) (ps : List Nat) : State :=
  let s := setScl s fun x => { x with deferrals := x.deferrals.map fun d => { d with wanted := d.wanted || (cap && ps.contains d.pipe) } }
  let new := ps.filter fun p => (deferralOf s p).isNone
  let s := forEach new (fun s p =>
    let s := setScl s fun x => { x with
      deferrals := x.deferrals ++ [{ pipe := p, since := s.elapsed, wanted := cap, paused := none }] }
    setBit (setBit s (aPipeClk p) 28 true) (aScl 4) 27 true) s
  let sets := (List.range 9).flatMap fun h => (List.range 4).map fun st =>
    (h, st, new.filter fun p => pipeHall p == h && stepNow s p == st)
  forEach (sets.filter fun x => !x.2.2.isEmpty) (fun s x => capEvent s 1 x.1 x.2.1 2000 x.2.2) s

/-- Change the activity that policy allows a pipeline. -/
def setActPolicy (s : State) (p v : Nat) : State :=
  syncAct (setScl s fun x => { x with actPolicy := mapPut 8 x.actPolicy p v }) p

/-- Over the cap by `need` mW (R450): cuts of pipelines that are not protected, the largest saving first; then their
activity; then, with neither open, deferred cuts of protected ones. DEDUCED (log 63). -/
def capCut (prices : List (Nat × Nat)) (need : Nat) (s : State) : State :=
  let steps := (dearest prices).filter fun x => cutOpen s x.1
  let free := steps.filter fun x => !pipeProtected s x.1
  let acts := (dearest prices).filterMap fun x => if 72 ≤ x.1 ∧ actOpen s (x.1 - 72) = true ∧ x.2 ≠ 0 then some (x.1 - 72, x.2) else none
  if !free.isEmpty then forEach (choose s (free.filter fun x => hallFree s x.1) need []) cutStep s
  else match acts with
    | x :: _ => setActPolicy s x.1 (mapGet 8 s.scales.actPolicy x.1 - 1)
    | [] => deferCuts s true (choose s (steps.filter fun x => pipeProtected s x.1) need [])

/-- More than 3 % below the cap (R450): raises in the reverse order while the estimate stays 1 % below. DEDUCED (log 63). -/
def capRaise (prices : List (Nat × Nat)) (s : State) : State :=
  let cheap := (dearest prices).reverse
  let raises := cheap.filterMap fun x =>
    let p := x.1 - 144
    if 144 ≤ x.1 ∧ p < 72 ∧ stepNow s p < stepHi s p ∧ gliding s p = false ∧ mayGlide s p = true then some (p, x.2) else none
  let acts := cheap.filterMap fun x =>
    let p := x.1 - 216
    if 216 ≤ x.1 ∧ p < 72 ∧ mapGet 8 s.scales.actPolicy p < 8 then some (p, x.2) else none
  let order := (raises.filter fun x => pipeProtected s x.1).map (fun x => (false, x)) ++ acts.map (fun x => (true, x))
    ++ (raises.filter fun x => !pipeProtected s x.1).map (fun x => (false, x))
  let r := order.foldl (fun (r : State × Nat) x =>
    if (r.2 + x.2.2) * 100 ≤ capMw s * 99 then
      (if x.1 then setActPolicy r.1 x.2.1 (mapGet 8 r.1.scales.actPolicy x.2.1 + 1)
        else setStep r.1 x.2.1 (stepNow r.1 x.2.1 + 1), r.2 + x.2.2)
    else r) (s, estMw s)
  r.1

/-- Steps follow the software bounds and pins (R446, R448), and then the recognised phase (R454), except where a limit
above them holds: a raise at once, a cut of one step in each hall, and a cut of a protected pipeline deferred (R380). DEDUCED (log 62). -/
def stepBounds (s : State) : State :=
  let held := sclCritical s || sclThrottle s || absActive s
  let s := whenB (!held) (forEach (pipesAll.filter fun p => decide (stepNow s p < stepLo s p)) fun s p => setStep s p (stepLo s p)) s
  let target := fun p => match mapGet 0 s.scales.want p with
    | 0 => stepHi s p
    | n + 1 => max (stepLo s p) (min (stepHi s p) n)
  let cuts := pipesAll.filter fun p => decide (target p < stepNow s p) && !pipeProtected s p && cutReady s p
  let s := deferCuts s false (pipesAll.filter fun p => decide (stepHi s p < stepNow s p) && pipeProtected s p && !gliding s p && mayGlide s p)
  let s := setScl s fun x => { x with want := x.want.filter fun w => decide (w.2 ≤ stepNow s w.1) }
  forEach (choose s (cuts.map fun p => (p, 0)) 1 []) cutStep s

/-- Cuts that the last THROTTLE_TICK left: in each hall that can have a cut now, those of the highest step; none once the temperature is below
(R448, R458). DEDUCED (log 63). -/
def throttleCuts (s : State) : State :=
  let l := if throttling s then s.scales.throttleWant.filter fun p => cutOpen s p && !pipeProtected s p else []
  let now := l.filter fun p => hallFree s p && l.all fun q => pipeHall q != pipeHall p || decide (stepNow s q ≤ stepNow s p)
  forEach now (fun s p => cutOne (keepStep s p) p) (setScl s fun x => { x with throttleWant := l.filter fun p => !now.contains p })

/-- With the limits over, steps that they lowered are restored, within the bounds and while the cap is met (R453, R458). DEDUCED (log 63). -/
def restoreSteps (s : State) : State :=
  if sclThrottle s || sclCritical s || absActive s || decide (capMw s < estMw s) then s
  else forEach s.scales.restore (fun s x =>
    let back := min (x.2 - 1) (stepHi s x.1)
    let s := whenB (decide (stepNow s x.1 < back) && !gliding s x.1) (setStep · x.1 back) s
    whenB (decide (back ≤ stepNow s x.1)) (setScl · fun y => { y with restore := mapPut 0 y.restore x.1 0 }) s) s

/-- CAP_LOOP_TICK (R448, R450, R451): deferrals that are over or whose span has ended meanwhile end, and with LOOP_EN = 0 the loop raises nothing,
and the cap still holds. DEDUCED (log 62). -/
def execCapLoopTick (savings : List (Nat × Nat)) (s : State) : Host.Outcome State Fault Refusal :=
  .next (if !sclPolicy s || !bringup s 8 then s
    else
      let late := (s.scales.deferrals.filter fun d => deferredUs s d == 2000).map (·.pipe)
      let s := forEach (s.scales.deferrals.map (·.pipe)) endDeferral (forEach late forceDeferral s)
      let s := restoreSteps (stepBounds (throttleCuts s))
      if capMw s < estMw s then capCut savings (estMw s - capMw s) s
      else
        let s := unwantDeferrals (setBit s (aScl 4) 26 false)
        if estMw s * 100 < capMw s * 97 ∧ regBit s (aScl 0) 31 = true ∧ sclThrottle s = false
            ∧ sclCritical s = false ∧ absActive s = false
        then capRaise savings s else s)

/-- Hardware holds a pipeline below its bounds, under a limit of the first four rows of Table SCL-1 (R447). -/
def heldBelow (s : State) (p : Nat) : Bool := (sclCritical s || absActive s) && decide (stepNow s p < stepLo s p)

/-- SCL_POLICY_CONFLICT (R447): a want outside the bounds for 1 ms, at most one event per 100 ms; CAP_UNMET where it is a cut and the estimate is
above the cap. -/
def execSclPolicyConflict (p step : Nat) (s : State) : Host.Outcome State Fault Refusal :=
  .next (if !sclPolicy s || decide (71 < p) || decide (3 < step) || decide (stepLo s p ≤ step ∧ step ≤ stepHi s p) || heldBelow s p then s
    else
      let s := setReg s (aScl 0x30) (BitVec.ofNat 32 (p * 2 ^ 25 + 2 ^ 24 + step))
      raiseLimited (whenB (decide (step < stepLo s p) && decide (capMw s < estMw s)) (setBit · (aScl 4) 26 true) s) 0xC04 100000000)

/-- GLIDE_COMPLETE (R448, R456): a frozen glide whose detectors are clear is completed or undone as policy evaluates the
step afresh, which the spec leaves open (DESIGN CHOICE, log 1); hardware that wants the step low completes it. DEDUCED (log 62). -/
def execGlideComplete (p : Nat) (s : State) : Host.Outcome State Fault Refusal :=
  .next (if !gliding s p || decide (71 < p) then s
    else if !s.scales.frozen.contains p then setBit s (aPipeClk p) 29 false
    else if !detectorClear s p || !(sclPolicy s || sclCritical s || absActive s) then s
    else
      let back := Config.freeBool s.freeCtr && !sclCritical s && !absActive s
      let s := resumeDeferral (setScl (drawn s) fun x => { x with frozen := x.frozen.erase p }) p
      let s := whenB back (fun s => setF s (aPipeClk p) 31 30 (mapGet 0 s.scales.glideFrom p)) s
      setBit s (aPipeClk p) 29 false)

-- The limiter (R453).

/-- The limiter's condition: an alert, or, while the Scales island runs, the current at the limit (R453, R462). -/
def limiterCond (s : State) : Bool := !s.scales.alerts.isEmpty || (sclLive s && s.scales.overCurrent)

/-- Set the limiter's activity on pipelines, with forced notices for the protected ones, whose deferred cuts still wait. -/
def limitAct (s : State) (ps : List Nat) (v : Nat) : State :=
  let s := setScl s fun x => { x with actLimiter := ps.foldl (fun m p => mapPut 8 m p v) x.actLimiter }
  forcedNotices (forEach ps syncAct s) ps false

/-- The limiter starts where its condition holds (R453): ACT = 6 on every pipeline that is not protected. DEDUCED (log 65). -/
def limiterStart (s : State) : State :=
  if !limiterCond s || decide (0 < s.scales.limiter) then s
  else
    let s := setScl (setBit s (aScl 4) 28 true) fun x => { x with limiter := 1 }
    raise (limitAct s (pipesAll.filter fun p => !pipeProtected s p) 6) 0xC01

/-- PMBUS_ALERT (R453). -/
def execPmbusAlert (bus : Nat) (low : Bool) (s : State) : Host.Outcome State Fault Refusal :=
  .next (if decide (1 < bus) || islandDown s 126 then s
    else limiterStart (setScl s fun x => { x with alerts := if low then addOnce x.alerts bus else x.alerts.erase bus }))

/-- LIMITER_STEP (R453): ACT = 4 on every pipeline, and then cuts of one step on every pipeline above step 0. -/
def execLimiterStep (s : State) : Host.Outcome State Fault Refusal :=
  .next (if !limiterCond s || s.scales.limiter == 0 then s
    else if s.scales.limiter = 1 then limitAct (setScl s fun x => { x with limiter := 2 }) pipesAll 4
    else
      let ps := pipesAll.filter fun p => decide (0 < stepNow s p) && mayGlide s p
      let s := setScl s fun x => { x with limiter := 3 }
      forcedNotices (forEach ps (fun s p => cutOne (keepStep s p) p) s) ps true)

/-- LIMITER_RELEASE (R453). -/
def execLimiterRelease (s : State) : Host.Outcome State Fault Refusal :=
  .next (if limiterCond s || s.scales.limiter == 0 then s
    else syncActs (setBit (setScl s fun x => { x with limiter := 0, actLimiter := [] }) (aScl 4) 28 false))

-- The activity model (R450, R460).

/-- Lane bits of a group in 1 µs, both directions, at the rates that its ports have. DEDUCED (log 67). -/
def laneBits (s : State) (g : Nat) : Nat :=
  ((headLanes s g).filter (carries s)).foldl (fun n l => n + 2000 * portRate s l) 0

/-- What the model counts in 1 µs: the part it attributes to (see Scales.parts), the coefficient, the count (R460). DEDUCED (log 67). -/
def modelCounts (s : State) : List (Nat × Nat × Nat) :=
  let n := mapGet 0 s.activity.micro
  (pipesAll.flatMap fun p => [(p, 0, n p), (p, 1, n (72 + p))]) ++ ((List.range 9).map fun h => (72 + h, 2, n (144 + h)))
  ++ [(117, 3, n 153), (118, 4, n 154)] ++ (List.range 36).map fun g => (81 + g, 5, laneBits s g)

/-- A fused coefficient: fJ, and µA of VDD_CORE current. -/
def weight (s : State) (k : Nat) : Nat × Nat := s.top.fuses.weights.getD k (0, 0)

/-- Package power in nW, and VDD_CORE current in µA, that the model gives the last 1 µs, uncalibrated (R460). -/
def modelNw (s : State) : Nat := (modelCounts s).foldl (fun n x => n + (weight s x.2.1).1 * x.2.2) 0
def modelUa (s : State) : Nat := (modelCounts s).foldl (fun n x => n + (weight s x.2.1).2 * x.2.2) 0

/-- Package power measured by the enabled entries, in µW (R450). DEDUCED (log 67). -/
def measuredUw (s : State) : Nat :=
  (regulatorsOn s).foldl (fun n k => n + regF s (aRegulator k 4) 15 0 * regF s (aRegulator k 8) 20 0) 0

/-- Package power in nW: as last polled, moved with the fast estimate since; with MODEL_ONLY as the calibrated model has it (R444, R450). DEDUCED
(log 67). -/
def packageNw (s : State) : Nat :=
  if modelOnly s then s.scales.estNw * s.scales.calib / 65536
  else if s.scales.pollNw = 0 then 1000 * measuredUw s
  else 1000 * measuredUw s * s.scales.estNw / s.scales.pollNw

/-- FAST_ESTIMATE_TICK (R450, R453, R460): the estimate of the last 1 µs, calibrated, the energy of it, and the limiter's current. -/
def execFastEstimateTick (s : State) : Host.Outcome State Fault Refusal :=
  .next (if !sclLive s then s
    else
      let nw := modelNw s
      let ua := modelUa s
      let parts := (modelCounts s).foldl (fun m x => mapMod 0 m x.1 (· + (weight s x.2.1).1 * x.2.2)) s.scales.parts
      let s := setF (syncModelOnly s) (aScl 0x20) 31 16 (min 65535 (nw * s.scales.calib / 65536 / 1000000000))
      let s := setScl { s with activity := { s.activity with micro := [] } } fun x => { x with
        parts := parts, estNw := nw, overCurrent := decide (min 1600 (regF s (aScl 0x14) 10 0) * 1000000 ≤ ua) }
      limiterStart (setScl s fun x => { x with energy := x.energy + packageNw s }))

-- Droop (R455, R456).

/-- Islands with a droop detector: those on VDD_CORE except the lane, time, host and HBM PHY islands. DEDUCED (log 66). -/
def hasDetector (isl : Nat) : Bool :=
  decide (isl < 72) || decide (112 ≤ isl ∧ isl ≤ 121) || decide (126 ≤ isl ∧ isl ≤ 128)

/-- The DROOP counter of an island: its hall, or 9. -/
def droopIndex (isl : Nat) : Nat :=
  if isl < 72 then pipeHall isl else if 112 ≤ isl ∧ isl ≤ 120 then isl - 112 else 9

/-- An island's clock is stretched: counted, and a glide in progress freezes. -/
def stretch (s : State) (isl : Nat) : State :=
  if !hasDetector isl || s.scales.stretched.contains isl then s
  else
    let s := setScl s fun x => { x with stretched := x.stretched ++ [isl] }
    let s := raiseLimited (satF s (aScl (0xA0 + 4 * droopIndex isl)) 31 16 1) 0xC08 1000000
    whenB (decide (isl < 72) && gliding s isl) (fun s => pauseDeferral (setScl s fun x => { x with frozen := addOnce x.frozen isl }) isl) s

/-- DROOP_TRIP (R455, R456). DEDUCED (log 66). -/
def execDroopTrip (island : Nat) (s : State) : Host.Outcome State Fault Refusal :=
  .next (if s.top.inReset then s else stretch s island)

/-- DROOP_CLEAR (R455): the length is counted, and the instant noted for R456. -/
def execDroopClear (island stretchedUs : Nat) (s : State) : Host.Outcome State Fault Refusal :=
  .next (if !s.scales.stretched.contains island then s
    else
      let s := setScl s fun x => { x with stretched := x.stretched.erase island }
      let s := noteInterval s (0x20000 + island)
      let a := aScl (0xA0 + 4 * droopIndex island)
      whenB (decide (regF s a 15 0 < satAdd 65535 (regF s a 15 0) stretchedUs)) (raiseLimited · 0xC08 1000000)
        (satF s a 15 0 stretchedUs))

-- Phases, calibration and energy (R454, R459 to R461).

/-- A signature within 1/8 of a centroid in every component. -/
def nearPhase (sig : List Nat) (f : Phase) : Bool :=
  sig.length == f.centroid.length && (sig.zip f.centroid).all fun x => decide (8 * (max x.1 x.2 - min x.1 x.2) ≤ x.2)

/-- Recognition (R454): the third interval in a row makes a phase current. DEDUCED (log 68). -/
def recognise (s : State) (k : Nat) : State :=
  let n := if s.scales.matched.1 = k then s.scales.matched.2 + 1 else 1
  let s := setScl s fun x => { x with matched := (k, n), phases := modAt x.phases k fun f => { f with used := s.elapsed } }
  if n < 3 ∨ s.scales.current = some k then s
  else
    let steps := (s.scales.phases.getD k { centroid := [], steps := [], used := 0 }).steps
    let s := setScl s fun x => { x with current := some k, want := steps.zipIdx.map fun y => (y.2, y.1 + 1) }
    let s := setF s (aScl 4) 18 16 k
    let roomy := decide (estMw s * 100 < capMw s * 97) && !sclThrottle s && !sclCritical s && !absActive s
    let s := whenB roomy (forEach (steps.zipIdx.filter fun y => decide (stepNow s y.2 < min y.1 (stepHi s y.2)))
      fun s y => setStep s y.2 (min y.1 (stepHi s y.2))) s
    if intervalOver s 0xC06 100000000 then sclEvent (raiseLimited s 0xC06 100000000) 6 else s

/-- Index of the least recently used phase. -/
def oldestPhase (l : List Phase) : Nat :=
  (l.zipIdx.foldl (fun (b : Nat × Option Nat) x => match b.2 with
    | some u => if x.1.used < u then (x.2, some x.1.used) else b
    | none => (x.2, some x.1.used)) (0, none)).1

/-- The phases go to the journal's firmware state, and PHASES_VALID follows (R454). DEDUCED (log 68). -/
def storePhases (s : State) (l : List Phase) : State :=
  let s := jrnOwe (setScl s fun x => { x with phases := l }) (.phases l)
  setF s (aScl 4) 15 8 (2 ^ l.length - 1)

/-- Every phase is forgotten (R454). -/
def clearPhases (s : State) : State :=
  storePhases (setScl s fun x => { x with current := none, matched := (0, 0), want := [] }) []

/-- A signature near no phase starts a new one (R454). DEDUCED (log 68). -/
def newPhase (s : State) (sig steps : List Nat) : State :=
  let f : Phase := { centroid := sig, steps := steps, used := s.elapsed }
  let l := s.scales.phases
  if l.length < 8 then storePhases s (l ++ [f])
  else
    let k := oldestPhase l
    let s := whenB (s.scales.current == some k) (setScl · fun x => { x with current := none }) s
    storePhases s (modAt l k fun _ => f)

/-- Recognition and learning of one interval (R454). DEDUCED (log 68). -/
def phaseStep (sig : List Nat) (s : State) : State :=
  let steps := pipesAll.map (stepNow s)
  let learn := !regBit s (aScl 0) 29
  let s := setScl s fun x => { x with heldSteps := (steps, if x.heldSteps.1 = steps then x.heldSteps.2 + 1 else 1) }
  match s.scales.phases.findIdx? (nearPhase sig) with
  | some k =>
    let s := whenB (s.scales.current != some k) (setScl · fun x => { x with heldSteps := (steps, 1) }) s
    let s := recognise s k
    if learn && decide (10 ≤ s.scales.heldSteps.2) && s.scales.current == some k
        && (s.scales.phases.getD k { centroid := [], steps := [], used := 0 }).steps != steps then
      storePhases s (modAt s.scales.phases k fun f => { f with steps := steps })
    else s
  | none =>
    let s := setScl s fun x => { x with matched := (8, 0) }
    if learn then newPhase s sig steps else s

/-- The hall whose ENERGY_HALL a part of the model counts in: pipelines, lanes and the table island (R460). -/
def partHall (k : Nat) : Option Nat :=
  if k < 72 then some (pipeHall k) else if k < 81 then some (k - 72) else if k < 117 then some (hallOf (k - 81)) else none

/-- The model's energy of the interval, in fJ. -/
def modelFj (s : State) : Nat := s.scales.parts.foldl (fun n x => n + x.2) 0

/-- A part's share of the `e` µJ of an interval. -/
def shareOf (s : State) (e x : Nat) : Nat := if modelFj s = 0 then 0 else x * e / modelFj s

/-- The energy of a part is divided among queues by their weights of a kind: a pipeline's own kind, and 72 for the Barrow (R461). DEDUCED (log 67). -/
def queueShares (s : State) (e : Nat) : Store Nat :=
  let w := s.activity.shares
  let total := fun k => (w.filter (·.1 / 16384 == k)).foldl (fun n x => n + x.2) 0
  w.foldl (fun m x =>
    let k := x.1 / 16384
    mapMod 0 m (x.1 % 16384) (· + shareOf s e (mapGet 0 s.scales.parts (if k = 72 then 118 else k)) * x.2 / total k)) s.scales.queueUj

/-- The energy of an interval in µJ is accumulated and attributed, the factor set, and the window average formed (R450, R459
to R461): the halls take their share of the model's energy, the rest goes to ENERGY_COMMON. DEDUCED (log 67). -/
def shareEnergy (s : State) : State :=
  let e := s.scales.energy / 1000000000
  let halls := (List.range 9).map fun h => shareOf s e ((s.scales.parts.filter fun x => partHall x.1 == some h).foldl (fun n x => n + x.2) 0)
  let queues := queueShares s e
  let calib := if modelFj s = 0 ∨ modelOnly s = true then s.scales.calib else s.scales.energy * 65536 / modelFj s
  let s := add64 s (aScl 0x40) e
  let s := forEach halls.zipIdx (fun s x => add64 s (aScl (0x50 + 8 * x.2)) x.1) s
  let s := add64 s (aScl 0x48) (e - halls.foldl (· + ·) 0)
  let s := setScl s fun x => { x with
    queueUj := queues, calib := calib, parts := [], energy := x.energy % 1000000000, window := (e / 1000 :: x.window).take 1000 }
  let s := { s with activity := { s.activity with ms := [], shares := [] } }
  let w := s.scales.window.take (max 1 (regF s (aScl 0x10) 27 16))
  setF s (aScl 0x20) 15 0 (min 65535 (w.foldl (· + ·) 0 / max 1 w.length))

/-- The activity signature of the last 1 ms (R454): packet slots of each pipeline, pages of the Barrow, operations of the Clerk. -/
def signature (s : State) : List Nat := (pipesAll ++ [156, 155]).map (mapGet 0 s.activity.ms)

/-- PHASE_TICK (R450, R454, R459 to R461). -/
def execPhaseTick (s : State) : Host.Outcome State Fault Refusal :=
  .next (if !sclLive s then s
    else
      let sig := signature s
      let s := shareEnergy (syncModelOnly s)
      if sclPolicy s && bringup s 8 && regBit s (aScl 0) 30 then phaseStep sig s else s)

-- Temperature (R457, R458).

/-- Every pipeline of a list to step 0, its step kept for its restoring. -/
def dropSteps (s : State) (ps : List Nat) : State := forEach ps (fun s p => setStep (keepStep s p) p 0) s

/-- The critical response: every pipeline to step 0 and ACT = 4, never deferred (R458). -/
def criticalHold (s : State) : State :=
  let ps := pipesAll.filter fun p => decide (0 < stepNow s p) && mayGlide s p
  forcedNotices (syncActs (dropSteps s ps)) ps true

/-- Critical temperature begins, holds or ends (R458). -/
def criticalStep (s : State) : State :=
  if sclCritical s then
    if tjNow s < 110 then syncActs (setBit s (aScl 4) 29 false) else criticalHold s
  else if 115 ≤ tjNow s then
    let s := setBit s (aScl 4) 29 true
    let ps := pipesAll.filter (pipeProtected s)
    let s := dropSteps s pipesAll
    sclEvent (raise (forcedNotices (syncActs s) ps true) 0xC02) 5
  else s

/-- Throttle starts at the throttle temperature and ends, with the activity that it took given back, once TJ has been 3 °C below it for 10 ms
(R458). DEDUCED (log 63). -/
def throttleStep (s : State) : State :=
  if !sclPolicy s then s
  else if !sclThrottle s then
    if throttleC s ≤ tjNow s then
      sclEvent (raise (setBit (setScl s fun x => { x with coolSince := none }) (aScl 4) 30 true) 0xC03) 4
    else s
  else if throttleC s < tjNow s + 3 then setScl s fun x => { x with coolSince := none }
  else match s.scales.coolSince with
    | none => setScl s fun x => { x with coolSince := some s.elapsed }
    | some t =>
      if t + 10000000 ≤ s.elapsed then
        raise (syncActs (setBit (setScl s fun x => { x with coolSince := none, actThrottle := [], throttleWant := [] }) (aScl 4) 30 false)) 0xC03
      else s

/-- THERMAL_SENSE (R457, R458): TJ names the first of the hottest sensors; the engine sensors govern nothing. -/
def execThermalSense (sensors engines : List Nat) (s : State) : Host.Outcome State Fault Refusal :=
  .next (if !sclLive s then s
    else
      let l := sliceN sensors
      let hot := l.foldl max 0
      let s := setScl s fun x => { x with engines := engines }
      let s := setReg s (aScl 0x24) (BitVec.ofNat 32 ((l.findIdx (· == hot)) % 16 * 256 + min 255 hot))
      throttleStep (criticalStep s))
where
  /-- The 13 die sensors. -/
  sliceN (l : List Nat) : List Nat := (List.range 13).map fun i => l.getD i 0

/-- THROTTLE_TICK (R380, R448, R451, R458): every pipeline that is not protected is due a cut of one step, taken as its hall allows; with no such cut
open, an eighth of activity is taken from each of them that is at its lowest step; with neither, the cuts of protected ones are deferred.
Software bounds stand (R447). -/
def execThrottleTick (s : State) : Host.Outcome State Fault Refusal :=
  .next (if !sclPolicy s || !throttling s then s
    else
      let ps := pipesAll.filter (cutOpen s)
      let free := ps.filter fun p => !pipeProtected s p
      let acts := pipesAll.filter (actOpen s)
      if !free.isEmpty then throttleCuts (setScl s fun x => { x with throttleWant := free })
      else if !acts.isEmpty then
        forEach acts syncAct (setScl s fun x => { x with actThrottle := acts.foldl (fun m p => mapPut 8 m p (actWanted s p - 1)) x.actThrottle })
      else deferCuts s false ps)

end Sys2Proof.Machine
end

