-- ==== Sys2Proof/Machine/Tails.lean ====
section
/-!
DEFINITION. The ingress and egress tails, the flow summary cache, and the departure of a copy (R206 to R208, R277, R278, R286,
R289, R290, R298, R376, R377, R405 to R412).
-/
namespace Sys2Proof.Machine

-- Dispositions (R206, R207).

/-- The reason that a DROP in MD_DISP records. -/
def dropReason (p : Packet) : Nat := if p.hwReason ≠ 0 then p.hwReason else if 0x80 ≤ mdReason p then mdReason p else 0x02

/-- A reserved disposition at the tail of pipeline p: counted, recorded and raised (R206, R212, Table CRI-8). -/
def tailFault (s : State) (p : Nat) : State :=
  fault (add64 s (aPipe p 0x30) 1) (0x501 + 4 * p) 0 p (p * 2 ^ 32 + 0xFF * 2 ^ 24) (2 * 2 ^ 24)

/-- The sessions that MD_MIRROR enables, each once, in ascending order. -/
def mirrorSessions (p : Packet) : List Nat :=
  let l := (if mdF p 206 31 31 = 1 then [mdF p 206 30 26] else []) ++ (if mdF p 206 25 25 = 1 then [mdF p 206 24 20] else [])
  (List.range 32).filter l.contains

/-- Mirror copies of the sessions that take the packet, each with whether its destination exists. -/
def mirrorCopies (s : State) (p : Packet) : State × List (Copy × Bool) :=
  (mirrorSessions p).foldl (fun r k =>
    let t := sessionTakes r.1 k
    (t.1, if t.2 then r.2 ++ [mirrorCopy t.1 p k] else r.2)) (s, [])

-- The flow summary cache (R409, R410).

/-- The key of the flow cache; a profile that R243 faults leaves the key open: a free value (DESIGN CHOICE, log 1). DEDUCED (log 38). -/
def flowKey (s : State) (g : Nat) (p : Packet) : Nat :=
  match buildKey s (20 * g + 19) (freshCtx 0 { pkt := p, copy := none }) 0 (regF s (aTal 0x10) 7 0) with
  | some (k, w) => if w ≤ 128 then k else Config.freeNat s.freeCtr % 2 ^ 128
  | none => Config.freeNat s.freeCtr % 2 ^ 128

/-- Evict the entry at a slot of the cache: handed to export, and its way is free. -/
def evictFlow (s : State) (k : Nat) : State :=
  match mapGet none s.telem.flows k with
  | none => s
  | some f => exportHand { s with telem := { s.telem with flows := mapPut none s.telem.flows k none } } (.flow f)

def flowAt (s : State) (k : Nat) : Option Flow := mapGet none s.telem.flows k

/-- The way that a new entry takes: a free one, or the one least recently updated, which is evicted. -/
def flowWay (s : State) (base : Nat) : Nat :=
  let ways := [base, base + 1, base + 2, base + 3]
  match ways.find? fun k => (flowAt s k).isNone with
  | some k => k
  | none => ways.foldl (fun b k => if ((flowAt s k).map (·.order)).getD 0 < ((flowAt s b).map (·.order)).getD 0 then k else b) base

/-- A frame's share in a flow entry. -/
def touchFlow (s : State) (f : Flow) (p : Packet) (dropped : Option Nat) : Flow :=
  { f with
    octets := f.octets + (if p.whole then p.octets.length + 4 else 0)
    packets := f.packets + 1
    last := p.tally.ingTs
    drops := f.drops + (if dropped.isSome then 1 else 0)
    lastReason := dropped.getD f.lastReason
    touched := s.elapsed
    order := s.telem.flowSeq }

/-- A touched entry takes its place; it is owed the octets of a frame still arriving. -/
def putFlow (s : State) (k : Nat) (f : Flow) (p : Packet) (dropped : Option Nat) : State :=
  { s with telem := { s.telem with
    flows := mapPut none s.telem.flows k (some (touchFlow s f p dropped))
    owedFlow := if p.whole then s.telem.owedFlow else s.telem.owedFlow ++ [(p.id, f.id)] } }

/-- A new entry for a frame: ACTIVE runs from FIRST (R410). -/
def newFlow (s : State) (key : Nat) (p : Packet) : Flow :=
  { key := key, octets := 0, packets := 0, first := p.tally.ingTs, last := 0, drops := 0, lastReason := 0,
    born := s.elapsed - (ts32 s + 2 ^ 32 - p.tally.ingTs % 2 ^ 32) % 2 ^ 32, touched := 0, id := s.telem.flowSeq, order := 0 }

/-- The tail takes a frame into the cache, with the reason of a disposition that drops it (R409). -/
def flowTake (s : State) (g : Nat) (p : Packet) (dropped : Option Nat) : State :=
  let cfg := reg s (aTal 0x10)
  if !cfg.getLsbD 31 || !p.tally.flags.getLsbD (fget cfg 26 24) then s
  else
    let key := flowKey s g p
    let s := drawn { s with telem := { s.telem with flowSeq := s.telem.flowSeq + 1 } }
    let base := g * 16384 + Config.flowSet (crc32c (bytesBE 16 key)) % 4096 * 4
    match [base, base + 1, base + 2, base + 3].find? fun k => (flowAt s k).any (·.key == key) with
    | some k => match flowAt s k with | some f => putFlow s k f p dropped | none => s
    | none =>
      let k := flowWay s base
      putFlow (evictFlow s k) k (newFlow s key p) p dropped

-- The ingress tail (R277, R278).

/-- Port copies of a frame at the tail of pipeline g, each with whether its destination exists. DEDUCED (log 42). -/
def portCopies (s : State) (g : Nat) (p : Packet) : List (Copy × Bool) :=
  let one := fun (l qidx : Nat) =>
    let q := portQueue s l qidx
    ({ mkCopy p .port (q.getD 0x3FFF) l with rxReason := 0 }, q.isSome)
  if mdF p 205 31 31 = 0 then [one (mdF p 205 26 16) (mdF p 205 5 0)]
  else
    let m := getMcast (hallState s (hallOf g)).tables (mdF p 205 15 0)
    (bitList 1152 m.mask).map fun l => one l m.qidx

/-- The CPU copy of a frame. DEDUCED (log 42). -/
def cpuCopy (p : Packet) (reason : Nat) : Copy := { mkCopy p .cpu (cpuQueue (mdF p 207 5 0)) 0x7FF with rxReason := reason }

/-- Every copy of a frame with disposition FORWARD or TO_CPU (R277, R287). DEDUCED (log 42). -/
def frameCopies (s : State) (g : Nat) (p : Packet) : State × List (Copy × Bool) :=
  let s := if islandDown s (112 + hallOf g) then s else hallAdvance s (hallOf g)
  let ports := if mdAct p = 0 then portCopies s g p else []
  let cpu := if mdAct p = 3 then [(cpuCopy p (mdReason p), true)] else if mdF p 204 27 27 = 1 then [(cpuCopy p 0, true)] else []
  let m := mirrorCopies s p
  (drawn m.1, ports ++ cpu ++ m.2)

/-- A frame's record at the ingress tail (Table TAL-1). -/
def tailTally (p : Packet) : Tally := { p.tally with prio := mdPrio p, colour := mdColour p }

/-- A copy dropped before it has a queue keeps the record's QUEUE and port of the choice made. -/
def refusedCopy (c : Copy) : Copy := { c with pkt := { c.pkt with tally := { tailTally c.pkt with egrPort := c.port, queue := 0x3FFF } } }

/-- FORWARD or TO_CPU at the ingress tail; a frame that could not get a further unit is bad, and its staged copies are dropped
too (R286). DEDUCED (log 42). -/
def tailForward (s : State) (g : Nat) (p : Packet) : State :=
  let f := frameCopies s g p
  let bad := (f.2.filter fun x => !x.2).map fun x => (refusedCopy x.1, 0x13)
  let good := (f.2.filter (·.2)).map (·.1)
  if f.2.isEmpty then dropPacket f.1 g 0x13 p (tailTally p)
  else if p.bad ≠ 0 then dropRefused f.1 g (good.map (fun c => (stampCopy f.1 p c, p.bad)) ++ bad)
  else
    let a := admitCopies f.1 g p good
    let s := if a.2.any (·.1.pkt.bad == 0x20) then badFrame a.1 p.id 0x20 else a.1
    dropRefused s g (bad ++ a.2)

/-- Room for a whole frame in the recirculation buffer (R208). DEDUCED (log 43). -/
def recircRoom (s : State) (g n : Nat) : Bool := decide (octetsOf ((mapGet [] s.pipes.recirc g).filter (·.unit == 0)) + n ≤ 262144)

/-- The reason for which the tail's disposition drops a frame; none where it does not (R206 to R208). -/
def tailDrop (s : State) (g : Nat) (p : Packet) : Option Nat :=
  match mdAct p with
  | 0 | 3 => none
  | 1 => some (dropReason p)
  | 2 => if mdPass p = 4 then some 0x03 else if recircRoom s g p.octets.length then none else some 0x0A
  | _ => some 0x09

/-- A frame recirculates. DEDUCED (log 43). -/
def recirculate (s : State) (g : Nat) (p : Packet) : State :=
  pmcEvent { s with pipes := { s.pipes with recirc := pushAt s.pipes.recirc g p } } (16 * g + 3) 1

/-- INGRESS_TAIL (R206 to R208, R277, R278). A frame that recirculates does so whole. -/
def execIngressTail (g : Nat) (s : State) : Host.Outcome State Fault Refusal :=
  .next (match headAt s.pipes.toTail g with
    | none => s
    | some p =>
      if decide (35 < g) || islandDown s g || (mdAct p == 2 && !p.whole) then s
      else
        let r := tailDrop s g p
        let s := { s with pipes := { s.pipes with toTail := popAt s.pipes.toTail g } }
        match r with
        | some r =>
          let s := flowTake s g p (some r)
          let s := if r = 0x0A then raise (add64 s (aPipe g 0x18) 1) (0x503 + 4 * g) else s
          let s := if mdAct p ≠ 1 ∧ r = 0x09 then tailFault s g else s
          dropPacket s g r p (tailTally p)
        | none =>
          if mdAct p = 2 then recirculate s g p
          else tailForward (flowTake s g p none) g p)

-- The egress tail (R206, R290).

/-- The egress mirror copies of a packet that is not dropped (R290). -/
def egressMirrors (s : State) (c : Copy) : State :=
  let m := mirrorCopies s c.pkt
  let bad := (m.2.filter fun x => !x.2).map fun x => (refusedCopy x.1, 0x13)
  let a := admitCopies m.1 36 c.pkt ((m.2.filter (·.2)).map (·.1))
  dropRefused a.1 c.pkt.pipe (bad ++ a.2)

/-- EGRESS_TAIL (R206, R207, R286, R290). -/
def execEgressTail (g : Nat) (s : State) : Host.Outcome State Fault Refusal :=
  .next (match headAt s.pipes.toETail g with
    | none => s
    | some c =>
      if decide (35 < g) || islandDown s (36 + g) then s
      else
        let s := { s with pipes := { s.pipes with toETail := popAt s.pipes.toETail g } }
        if c.pkt.bad ≠ 0 then dropDequeued s c c.pkt.bad
        else match mdAct c.pkt with
          | 0 =>
            let s := egressMirrors s c
            { s with pipes := { s.pipes with toEditor := pushAt s.pipes.toEditor g c } }
          | 1 => dropDequeued s c (dropReason c.pkt)
          | _ => dropDequeued (tailFault s (36 + g)) c 0x09)

-- Departure (R137, R298, R405, R408).

/-- Counts of a departing frame of n octets (Table TAL-7). DEDUCED (log 41). -/
def countSent (s : State) (l : Nat) (b : List Byte) (tailMarked : Bool) : State :=
  if tailMarked then ledgerAdd s (ldgPort l 6) 1 0
  else
    let s := ledgerAdd s (ldgPort l 0) 1 (b.length + 4)
    if beAt b 0 6 = 2 ^ 48 - 1 then ledgerAdd s (ldgPort l 3) 0 1
    else if (b.getD 0 0).getLsbD 0 then ledgerAdd s (ldgPort l 3) 1 0 else s

/-- What the window guard counts as a gated frame leaves (R376, R377): a start after P in LATE_TX, and a tail past the end of its window,
within OVERRUN, in OVERRUN_TX. DEDUCED (log 49). -/
def countWindows (s : State) (c : Copy) (start : Nat) : State :=
  let l := c.port
  if !c.gated then s
  else
    let s := if c.projected < start then add64 s (aSlot l 0x20) 1 else s
    let tail : Int := (start * portRate s l : Nat) + 8 * c.charged
    let past := fun x : Nat => decide (((x * portRate s l : Nat) : Int) < tail)
    if c.windowEnd ≠ 0 ∧ past c.windowEnd ∧ ¬ past (c.windowEnd + c.overrun) then add64 s (aSlot l 0x28) 1 else s

/-- A copy leaves on its port: its frame, counts, final record, histograms, and the end of what it held (R279, R405). REASON of its record is
0x00, or that of the dropped packet where it is a drop copy (R411). -/
def departCopy (s : State) (c : Copy) (pcs : Stamp) (tailMarked : Bool) : State :=
  let l := c.port
  let stamp := egressStamp s l pcs
  let b := leavingOctets s c stamp
  let fcs := crc32 b
  let s := emit s (.frame l (b ++ bytesLE 4 (if tailMarked then 0xFFFFFFFF - fcs else fcs)) tailMarked)
  let s := countWindows (countSent s l b tailMarked) c (stampNs pcs)
  let egr := stamp / 65536 % 2 ^ 32
  let t := { c.pkt.tally with egrTs := egr }
  let d := fun (x y : Nat) => (x + 2 ^ 32 - y % 2 ^ 32) % 2 ^ 32
  let s := histograms s l (d egr t.ingTs) (d c.dequeued c.admitted) { c.pkt with octets := copyOctets c }
  let s := ptpReport (postcard s (36 + l / 32) t false) c stamp
  let s := { s with sched := { s.sched with unsent := mapMod 0 s.sched.unsent l (· - c.sent) } }
  releaseCopy s c

/-- The MAC starts no gated frame before its projected start (R376). -/
def tooSoon (c : Copy) (pcs : Stamp) : Bool :=
  c.gated && decide (stampNs pcs < c.projected)

/-- COPY_DEPARTURE (R137, R211, R298, R299, R376, R405): the copy at the head of a port's MAC, once its last octet has arrived; one whose
frame has become bad is dropped where it had not begun, and is tail-marked otherwise (R286). A frame whose edited length,
known only now, is too long faults as the editor would have made it. DEDUCED (log 40). -/
def execCopyDeparture (port : Nat) (pcs : Stamp) (begun : Bool) (err : Option DataErr) (s : State) : Host.Outcome State Fault Refusal :=
  .next (match headAt s.pipes.mac port with
    | none => s
    | some c =>
      if !c.pkt.whole || !sends s port begun || tooSoon c pcs || islandDown s (72 + port / 32) then s
      else
        let s := whenB (getPort s port).finishing (fun s => setPort s port { getPort s port with finishing := false }) s
        let r := marketRead { s with pipes := { s.pipes with mac := popAt s.pipes.mac port } } c err
        if r.2 then (if begun then departCopy r.1 c pcs true else dropDequeued r.1 c 0x41)
        else if c.pkt.bad ≠ 0 ∧ !begun then dropDequeued r.1 c c.pkt.bad
        else if 16383 < editedLen c then editFault r.1 c
        else departCopy r.1 c pcs (c.pkt.bad != 0))

end Sys2Proof.Machine
end

