-- ==== Sys2Proof/Machine/Telemetry.lean ====
section
/-!
DEFINITION. Telemetry that leaves the part: flow eviction, IPFIX export, and the reading of the Ledger (chapter 17).
-/
namespace Sys2Proof.Machine

-- Flow eviction (R410).

/-- FLOW_EVICT_TIMER (R410): not updated for IDLE seconds, or ACTIVE seconds since the first frame. -/
def execFlowEvictTimer (g slot : Nat) (s : State) : Host.Outcome State Fault Refusal :=
  .next (
    let k := g * 16384 + slot
    match (if g < 36 ∧ slot < 16384 then flowAt s k else none) with
    | none => s
    | some f =>
      let idle := regF s (aTal 0x14) 31 16 * nsPerSec
      let active := regF s (aTal 0x14) 15 0 * nsPerSec
      if f.touched + idle ≤ s.elapsed ∨ f.born + active ≤ s.elapsed then evictFlow s k else s)

/-- FLOW_FLUSH (R410): every entry is evicted. -/
def execFlowFlush (s : State) : Host.Outcome State Fault Refusal :=
  .next (holdWrite s 126 (aTal 0x18) 1 fun s => forEach (s.telem.flows.map (·.1)) evictFlow s)

-- IPFIX messages (R413, R414).

def expIsFlow : ExpRec → Bool | .postcard _ => false | .flow _ => true

/-- A flow record of template 257 (Table TAL-3). -/
def flowOctets (f : Flow) : List Byte :=
  bytesBE 16 f.key ++ bytesBE 8 f.octets ++ bytesBE 8 f.packets ++ bytesBE 4 f.first ++ bytesBE 4 f.last ++ bytesBE 4 f.drops
  ++ bytesBE 1 f.lastReason ++ [0, 0, 0]

def expOctets : ExpRec → List Byte | .postcard t => tallyOctets t | .flow f => flowOctets f

/-- Data sets of a list of records in order: records of one template in a row share a set. -/
def expRuns : List ExpRec → List (Bool × List Byte)
  | [] => []
  | r :: rest =>
    match expRuns rest with
    | (k, b) :: more => if k == expIsFlow r then (k, expOctets r ++ b) :: more else (expIsFlow r, expOctets r) :: (k, b) :: more
    | [] => [(expIsFlow r, expOctets r)]

/-- PRESUMED (log 11). -/
def dataSets (l : List ExpRec) : List Byte :=
  (expRuns l).flatMap fun x => bytesBE 2 (if x.1 then 257 else 256) ++ bytesBE 2 (4 + x.2.length) ++ x.2

/-- A field of a template: element id, length, and the enterprise number of an enterprise element. PRESUMED (log 11). -/
def templateField (pen : Option Nat) (id len : Nat) : List Byte :=
  match pen with
  | some n => bytesBE 2 (0x8000 + id) ++ bytesBE 2 len ++ bytesBE 4 n
  | none => bytesBE 2 id ++ bytesBE 2 len

/-- The Template Set of Table TAL-3, with the information elements of the IPFIX registry: octetDeltaCount 1,
packetDeltaCount 2, paddingOctets 210 (PRESUMED, log 11). -/
def templateSet (s : State) : List Byte :=
  let pen := some (reg s (aTal 0x2C)).toNat
  let post := bytesBE 2 256 ++ bytesBE 2 1 ++ templateField pen 1 32
  let flow := bytesBE 2 257 ++ bytesBE 2 8 ++ templateField pen 2 16 ++ templateField none 1 8 ++ templateField none 2 8
    ++ templateField pen 3 4 ++ templateField pen 4 4 ++ templateField pen 5 4 ++ templateField pen 6 1 ++ templateField none 210 3
  bytesBE 2 2 ++ bytesBE 2 (4 + post.length + flow.length) ++ post ++ flow

/-- An IPFIX message over its sets (R413). PRESUMED (log 11). -/
def ipfixMessage (s : State) (sets : List Byte) : List Byte :=
  bytesBE 2 10 ++ bytesBE 2 (16 + sets.length) ++ bytesBE 4 (s.clock.sec % 2 ^ 32) ++ bytesBE 4 s.telem.seq
  ++ bytesBE 4 (reg s (aTal 0x28)).toNat ++ sets

def exportSeal (s : State) : Bool := regBit s (aTal 0x20) 30
def exportHdrLen (s : State) : Nat := regF s (aTal 0x20) 6 0

/-- Octets of the frame that carries a list of records (R413, R414). -/
def exportFrameLen (s : State) (l : List ExpRec) : Nat :=
  exportHdrLen s + 16 + (dataSets l).length + (if exportSeal s then 16 else 0)

/-- 16-bit words of octets, most significant octet first, zero padded. -/
def words16 (b : List Byte) : List Nat := (List.range ((b.length + 1) / 2)).map fun i => beAt b (2 * i) 2

/-- The frame of a UDP payload: the header template with lengths and checksums filled (R414). -/
def exportFrame (s : State) (payload : List Byte) : List Byte :=
  let hdr := (List.range (exportHdrLen s)).map fun i => BitVec.ofNat 8 ((reg s (aTal (0x800 + i / 4 * 4))).toNat >>> (8 * (i % 4)))
  let ip := regF s (aTal 0x24) 31 24
  let udp := regF s (aTal 0x24) 23 16
  let f := hdr ++ payload
  let n := f.length
  let f := splice f (udp + 4) (bytesBE 2 (n - udp))
  if regF s (aTal 0x24) 15 14 = 0 then
    let f := splice (splice (splice f (ip + 2) (bytesBE 2 (n - ip))) (udp + 6) [0, 0]) (ip + 10) [0, 0]
    let sum := 65535 - foldSum16 (words16 (sliceZ f ip ((f.getD ip 0).toNat % 16 * 4)))
    splice f (ip + 10) (bytesBE 2 sum)
  else
    let f := splice (splice f (ip + 4) (bytesBE 2 (n - ip - 40))) (udp + 6) [0, 0]
    let sum := 65535 - foldSum16 (words16 (sliceZ f (ip + 8) 32) ++ [n - udp, 17] ++ words16 (f.drop udp))
    splice f (udp + 6) (bytesBE 2 (if sum = 0 then 65535 else sum))

/-- The UDP payload of a message: with SEAL, the tag under slot EXPORT_KEY follows and the counter of context 0 rises (R414,
R470, R473); none where the slot cannot serve, with source 0xD04. -/
def sealMessage (s : State) (m : List Byte) : State × Option (List Byte) :=
  if !exportSeal s then (s, some m)
  else
    let k := regF s (aTal 0x34) 7 0
    match slotKey s k 2 with
    | none => (keyRefused s, none)
    | some key =>
      let n := s.sec.ctx0.counter
      let tag := Config.gcmTag key (bytesBE 4 (reg s (aTal 0x28)).toNat ++ bytesBE 8 n) m []
      let c := { s.sec.ctx0 with slot := k, gen := (getSlot s k).gen, counter := (n + 1) % 2 ^ 64 }
      let s := { s with sec := { s.sec with ctx0 := c } }
      (secCount (setF (setReg64 s (aSec 0x308) c.counter) (aSec 0x300) 23 0 (k * 65536 + c.gen)) 0, some (m ++ sliceZ tag 0 16))

/-- A frame of the engine enters queue QIDX of PORT as an egress BUF_SEND does (R293, R414); the flag says whether it was
admitted. DEDUCED (log 52). -/
def exportAdmit (s : State) (octs : List Byte) : State × Bool :=
  let port := regF s (aTal 0x20) 21 11
  let qidx := regF s (aTal 0x20) 29 24
  let p := hostPacket s octs 0x7FF (36 + port / 32)
  let p := setHv (setHv p 193 (BitVec.ofNat 32 (16384 + octs.length))) 194 (BitVec.ofNat 32 (ts32 s))
  let p := setHv p 205 (BitVec.ofNat 32 (port * 65536 + qidx))
  let p := setHv p 204 (BitVec.ofNat 32 (regF s (aTal 0x20) 10 7 * 4096))
  let s := takeId s
  match portQueue s port qidx with
  | none => (dropPacket s (36 + port / 32) 0x13 p p.tally, false)
  | some q =>
    let a := admitCopies s 37 p [mkCopy p .port q port]
    (dropRefused a.1 (36 + port / 32) a.2, a.2.isEmpty)

/-- A flow record that octets of a frame still arriving are owed to (R410). DEDUCED (log 38). -/
def octetsOwed (s : State) (r : ExpRec) : Bool := match r with | .flow f => s.telem.owedFlow.any (·.2 == f.id) | .postcard _ => false

/-- EXPORT_RECORD_FORM (R413): the oldest record of the backlog joins the open message, or the next one where it would take the
frame past MAX_LEN. A flow record waits until the lengths of its frames are known. DEDUCED (log 38). -/
def execExportRecordForm (s : State) : Host.Outcome State Fault Refusal :=
  .next (match s.telem.backlog with
    | [] => s
    | r :: rest =>
      if octetsOwed s r then s else
      let open_ := s.telem.openMsg
      let full := !open_.isEmpty && decide (regF s (aTal 0x24) 13 0 < exportFrameLen s (open_ ++ [r]))
      let t := { s.telem with
        backlog := rest
        closed := if full then s.telem.closed ++ [open_] else s.telem.closed
        openMsg := if full then [r] else open_ ++ [r] }
      { s with telem := t })

/-- EXPORT_FLUSH_TIMER (R413). -/
def execExportFlushTimer (s : State) : Host.Outcome State Fault Refusal :=
  .next (if s.telem.openMsg.isEmpty then s
    else { s with telem := { s.telem with closed := s.telem.closed ++ [s.telem.openMsg], openMsg := [] } })

/-- EXPORT_MESSAGE_SEND (R414, R415): the records of a message that is refused are lost; those sent count in Sequence Number. -/
def execExportMessageSend (s : State) : Host.Outcome State Fault Refusal :=
  .next (match s.telem.closed with
    | [] => s
    | l :: rest =>
      let m := sealMessage { s with telem := { s.telem with closed := rest } } (ipfixMessage s (dataSets l))
      let a := match m.2 with
        | none => (m.1, false)
        | some b => exportAdmit m.1 (exportFrame m.1 b)
      ctxPoll (if a.2 then addTal { a.1 with telem := { a.1.telem with seq := (a.1.telem.seq + l.length) % 2 ^ 32 } } 3
        else forEach l (fun s _ => recordLost s) a.1))

/-- TEMPLATE_SEND (R413): the Template Set goes out in a message of its own. DEDUCED (log 52). -/
def execTemplateSend (s : State) : Host.Outcome State Fault Refusal :=
  .next (if !regBit s (aTal 0x20) 31 then s
    else
      let m := sealMessage s (ipfixMessage s (templateSet s))
      match m.2 with
      | none => m.1
      | some b =>
        let a := exportAdmit m.1 (exportFrame m.1 b)
        if a.2 then addTal a.1 3 else a.1)

-- The Ledger (R419, R420).

/-- Entries of a region, where PIPE and STALL hold no reserved code and name a stall that the pipeline has (Tables TAL-6, TAL-8, R16, R419). -/
def ldgSize (c : HostCmd) : Option Nat :=
  let pipe := argN c 2 1
  let stall := argN c 3 1
  if 71 < pipe ∨ 19 < stall then none
  else match argN c 0 1 with
  | 0 => if pipe < 36 ∨ stall < 12 then some 65536 else none
  | 1 => some 256
  | 2 => some 18432
  | 3 => some 73728
  | _ => none

/-- The arguments of LDG_READ are in range (R419). DEDUCED (log 53). -/
def ldgArgsOk (c : HostCmd) : Bool :=
  let n := argN c 8 2
  decide (1 ≤ n ∧ n ≤ 512) && argN c 1 1 % 4 != 3 && c.dataLen == 16 * n
  && (match ldgSize c with | some m => decide (argN c 4 4 + n ≤ m) | none => false)

/-- A sum of entries, each count modulo 2^64. -/
def ldgSum (m : Store (Nat × Nat)) (keys : List Nat) : Nat × Nat :=
  keys.foldl (fun a k => let e := mapGet (0, 0) m k; ((a.1 + e.1) % 2 ^ 64, (a.2 + e.2) % 2 ^ 64)) (0, 0)

/-- Entry i as LDG_READ shows it: summed over the pipelines, or of one. -/
def ldgEntry (s : State) (c : HostCmd) (m : Store (Nat × Nat)) (i : Nat) : Nat × Nat :=
  let pipe := argN c 2 1
  let one := (argN c 1 1).testBit 2
  match argN c 0 1 with
  | 0 =>
    let pipes := if one then [pipe] else (List.range 36).map fun k => if pipe < 36 then k else 36 + k
    ldgSum m (pipes.map fun p => ldgStall p (argN c 3 1) (i / 4096) (i % 4096))
  | 1 => ldgSum m ((if one then [pipe] else List.range 72).map fun p => ldgDrop p i)
  | 2 => if (portLanes s (i / 16)).isSome then ldgSum m [ldgKey 2 i] else (0, 0)
  | _ => if (portLanes s (i / 64)).isSome then ldgSum m [ldgKey 3 i] else (0, 0)

/-- The store that SOURCE names. -/
def ldgSource (s : State) (c : HostCmd) : Store (Nat × Nat) :=
  match argN c 1 1 % 4 with | 0 => s.telem.ledger | 1 => s.telem.snap0 | _ => s.telem.snap1

/-- A buffer's snapshot is being taken. -/
def snapBusy (s : State) (b : Nat) : Bool := s.telem.snapJob.any (·.1 == b)

def doLdgRead (c : HostCmd) (s : State) : State :=
  if !ldgArgsOk c then complete s c stBadArg
  else if argN c 1 1 % 4 != 0 && snapBusy s (argN c 1 1 % 4 - 1) then setPhase s c .held
  else
    let m := ldgSource s c
    completeData s c stOk [] ((List.range (argN c 8 2)).flatMap fun i =>
      let e := ldgEntry s c m (argN c 4 4 + i); bytesLE 8 e.1 ++ bytesLE 8 e.2)

/-- LDG_READ (R419, R420): it waits while its buffer's snapshot is being taken. -/
def execLdgRead (cmd : HostCmd) (s : State) : Host.Outcome State Fault Refusal :=
  .next (runCmd s cmd .ldgRead (doLdgRead cmd))

def doLdgSnapshot (c : HostCmd) (s : State) : State :=
  let b := argN c 0 1 % 2
  if snapBusy s b then setPhase s c .held
  else
    let s := setPhase s c .started
    setBit { s with telem := { s.telem with snapJob := s.telem.snapJob ++ [(b, c, clkNs s + 2000)] } } (aLdg 0) b true

/-- LDG_SNAPSHOT (R420): accepted, with T 2 µs on. -/
def execLdgSnapshot (cmd : HostCmd) (s : State) : Host.Outcome State Fault Refusal :=
  .next (runCmd s cmd .ldgSnapshot (doLdgSnapshot cmd))

/-- LDG_SNAPSHOT_COMPLETE (R420): the command completes with T, and source 0xB81. -/
def execLdgSnapshotComplete (buffer : Nat) (s : State) : Host.Outcome State Fault Refusal :=
  .next (
    let s := captureSnaps s
    match s.telem.snapJob.find? (·.1 == buffer) with
    | none => s
    | some j =>
      if !s.telem.snapTaken.contains buffer then s
      else
        let t := j.2.2
        let s := { s with telem := { s.telem with
            snapJob := s.telem.snapJob.filter (·.1 != buffer)
            snapTaken := s.telem.snapTaken.filter (· != buffer) } }
        let s := setReg64 (setBit s (aLdg 0) buffer false) (aLdg (0x10 + 8 * buffer)) (t / nsPerSec % 2 ^ 32 * 2 ^ 32 + t % nsPerSec)
        raise (complete s j.2.1 stOk (bytesLE 6 (t / nsPerSec) ++ [0, 0] ++ bytesLE 4 (t % nsPerSec))) 0xB81)

end Sys2Proof.Machine
end

