-- ==== Sys2Proof/Machine/Reset.lean ====
section
/-!
DEFINITION. Resets, bring-up, the supply monitor, life-cycle transitions, and the escalation actions that reset
(chapters 01 and 02, R437, R478).
-/
namespace Sys2Proof.Machine

def setTop (s : State) (f : Top → Top) : State := { s with top := f s.top }

-- Cold reset (R44, R45, R51, R58).

def aResetCause : Nat := 0x20

/-- A bay across a cold reset: the laser supply is off, and a cartridge that is seated with its latch closed enters again. DEDUCED (log 57). -/
def bayAfterCold (old : State) (s : State) (c : Nat) : State :=
  let s := setF s (aBay c 0) 9 8 (2 * b2n (bayLatched old c) + b2n (bayPres old c))
  if bayPres old c && bayLatched old c then setF (modBay s c fun b => { b with step := .inserting 0 }) (aBay c 0) 2 0 stPresent
  else if bayPres old c then setF s (aBay c 0) 2 0 stPresent
  else s

/-- A cold reset with its cause bits (R23, R33, R45, R51): every register at its reset value, every store wiped and every land in its
reset state, but for the fuses, the flash, the journal, RESET_CAUSE, TOP.ID, TOP.STRAP until the next release, and the levels that
come to the lands. With `aonLost` RESET_CAUSE restarts at zero. DEDUCED (log 57). -/
def coldReset (causes : List Nat) (aonLost : Bool) (s : State) : State :=
  let t : State := { State.reset with
    pending := s.pending
    elapsed := s.elapsed
    freeCtr := s.freeCtr
    out := s.out
    top := { Top.reset with
      fuses := s.top.fuses, flash := s.top.flash, lands := { Lands.reset with ioLow := s.top.lands.ioLow } }
    journal := s.journal
    hif := { Hif.reset with perstHigh := s.hif.perstHigh }
    scales := { Scales.reset with alerts := s.scales.alerts } }
  let t := setReg (setReg t 0 (reg s 0)) 0x10 (reg s 0x10)
  let t := setReg t aResetCause (if aonLost then 0 else reg s aResetCause)
  let t := forEach causes (fun t i => setBit t aResetCause i true) t
  forEach (List.range 9) (bayAfterCold s) t

/-- SYS_RST_N_LOW (R44): 10 µs resets, up to 1 µs is ignored, and between the two either happens (DESIGN CHOICE, log 1). -/
def execSysRstNLow (lowNs : Nat) (s : State) : Host.Outcome State Fault Refusal :=
  .next (if 10000 ≤ lowNs then coldReset [0] false s
    else if lowNs ≤ 1000 then s
    else if Config.freeBool s.freeCtr then coldReset [0] false (drawn s) else drawn s)

/-- Reset threshold in mV, filter in ns and cause bit of a rail (Tables ISL-6, ISL-11). -/
def railReset (r : Rail) : Nat × Nat × Nat :=
  match r with | .core => (600, 20, 2) | .mkt => (700, 1000, 3) | .io => (1600, 1000, 4) | .aon => (700, 1000, 5)

def aVwarn : Nat := 0x60

/-- VWARN takes an excursion's lowest voltage and length (Table ISL-12). DEDUCED (log 66). -/
def recordWarning (s : State) (mv ns : Nat) : State := setF (setF s aVwarn 25 16 mv) aVwarn 15 0 (min 65535 (ns / 10))

/-- SUPPLY_BELOW_RESET_THRESHOLD (R61, R62, R51): VWARN keeps the record of a VDD_CORE excursion as far as it had run. A low VDD_IO
shows at the lands at once (R23). -/
def execSupplyBelowResetThreshold (rail : Rail) (mv ns : Nat) (s : State) : Host.Outcome State Fault Refusal :=
  .next (
    let r := railReset rail
    let s := whenB (rail == .io) (landsIo · mv) s
    if r.1 ≤ mv ∨ ns < r.2.1 then s
    else
      let w := reg s aVwarn
      let t := coldReset [r.2.2] (rail == .aon) s
      if rail = .core then recordWarning (setReg t aVwarn w) mv ns else t)

/-- The VDD_CORE warnings that began in the last 1 s (R63). -/
def recentWarnings (s : State) : List Nat := s.top.warnStarts.filter fun t => decide (s.elapsed < t + nsPerSec)

/-- VDD_CORE_WARNING (R62, R63): droop response on every island, and source 0x001 at the eighth within 1 s. DEDUCED (log 66). -/
def execVddCoreWarning (mv ns : Nat) (s : State) : Host.Outcome State Fault Refusal :=
  .next (if mv < 600 ∨ 660 ≤ mv ∨ ns < 20 ∨ islandDown s 126 = true then s
    else
      let l := recentWarnings s ++ [s.elapsed]
      let s := setTop s fun t => { t with warning := true, warnStarts := l }
      let s := forEach (List.range 129) stretch s
      if 8 ≤ l.length then raise s 0x001 else s)

/-- VDD_CORE_WARNING_END (R62). -/
def execVddCoreWarningEnd (minMv durNs : Nat) (s : State) : Host.Outcome State Fault Refusal :=
  .next (if s.top.warning then raise (recordWarning (setTop s fun t => { t with warning := false }) minMv durNs) 0x000 else s)

/-- The fuses that a transition burns: those of its state, the commit fuse last (R58 step 3, R59). -/
def lcsFuses (j : LcsJob) (committed : Bool) : StateFuses :=
  { state := j.target, rma := j.rma, ownerHash := j.ownerHash, ownerKek := j.ownerKek, keyDisable := j.target == .retired,
    committed := committed }

/-- The journal without its sealed partitions (R58 step 2, Table ISL-14). -/
def eraseSealed (j : Journal) : Journal :=
  { j with host := [], seq := j.seq.filter fun x => !jrnSealed x.1, records := j.records.filter fun r => !jrnSealed (jrnPart r.entry) }

/-- Steps 2 and 3 of a transition as far as `point` (R58, R59); none where they are done: the sealed partitions are erased on entry to
DEBUG or RETIRED, and the fuses burned. -/
def lcsBurn (j : LcsJob) (point : Option LcsPoint) (s : State) : State :=
  let s := whenB (j.target == .debug || j.target == .retired) (fun s => modJrn s eraseSealed) s
  if point = some .wiped then s
  else
    let f := s.top.fuses
    let f := { f with states := lcsFuses j (point != some .burned) :: f.states }
    setTop s fun t => { t with fuses := f, lcsJob := none }

/-- RETIRED_CH and what follows from it stand through a life-cycle reset, which is no cold reset (R320, R321, R325). -/
def keepRetired (old s : State) : State :=
  forEach [0, 1] (fun s m =>
    let bad := retiredCh old m
    if bad = 0 then s
    else setBit (setBit (setReg s (aStack m 4) (reg old (aStack m 4))) (aStack m 0) 30 true) (aStack m 0) 31 (decide (2 ≤ popN 16 bad))) s

/-- LCS_TRANSITION_START (R58, R59): the steps of the transition and its restart in the new state; or, where a reset or a power loss
cut it short, the restart from that, in the new state if the commit fuse was burned. -/
def execLcsTransitionStart (cut : Option (LcsPoint × List Nat)) (s : State) : Host.Outcome State Fault Refusal :=
  .next (match s.top.lcsJob, cut with
    | none, _ => s
    | some j, none => keepRetired s (coldReset [7] false (jrnLog (lcsBurn j none s) (.lifeCycle (lcsCode j.target))))
    | some j, some (p, causes) => coldReset (causes.filter (· < 7)) (causes.contains 5) (lcsBurn j (some p) s))

-- Bring-up (R52 to R55, Table ISL-7).

/-- BOOT holds the cores for JTAG (R35). -/
def jtagBoot (s : State) (straps : BitVec 5) : Bool := straps.toNat % 4 == 2 && (isE1 s || inDebug s)

/-- The islands that a REFCLK pair feeds (R39, Table ISL-1); the time island is fed by REFCLK0 unless TREF selects 10MHZ_IN. DEDUCED (log 57). -/
def fedBy (pair : Nat) (tref : Bool) : List Nat :=
  let span := fun a n => (List.range n).map (a + ·)
  match pair with
  | 0 => (if tref then [] else [124]) ++ [126, 127, 128]
  | 1 => span 0 72 ++ span 108 16
  | 2 => span 72 18
  | _ => span 90 18

/-- The islands that absent pairs hold in reset (R40). DEDUCED (log 57). -/
def unfedBy (refclks : BitVec 4) (tref : Bool) : List Nat :=
  ((List.range 4).filter fun k => !refclks.getLsbD k).flatMap (fedBy · tref)

/-- COLD_RESET_RELEASE (R33, R35, R40, R52): t0, with every rail in regulation. The straps are sampled; a boot code that is reserved or
not permitted is ignored with source 0x004; an absent REFCLK pair holds its islands in reset. DESIGN CHOICE (log 12); DEDUCED (log 57). -/
def execColdResetRelease (straps : BitVec 5) (refclks : BitVec 4) (s : State) : Host.Outcome State Fault Refusal :=
  .next (if !s.top.inReset then s
    else
      let hold := jtagBoot s straps
      let s := setLands s fun x => { x with ioLow := false }
      let s := setTop s fun t => { t with inReset := false, jtagHold := hold, unfed := unfedBy refclks (straps.getLsbD 3) }
      let s := setBit (setReg s 0x10 (BitVec.ofNat 32 straps.toNat)) (aTim 0) 0 (straps.getLsbD 3)
      whenB (decide (2 ≤ straps.toNat % 4) && !hold) (raise · 0x004) s)

/-- FUSES_LOADED (Table ISL-7 step 2): TOP.ID, TOP.LCS and what other blocks show of the fuses. DESIGN CHOICE (log 12). -/
def execFusesLoaded (s : State) : Host.Outcome State Fault Refusal :=
  .next (if islandDown s 126 || bringup s 0 then s
    else
      let f := s.top.fuses
      let s := setF s 0 15 12 f.variant
      let s := setF s 0x50 3 0 (8 * b2n f.rma + lcsCode f.lcs)
      let s := setF (setF (setReg s (aSec 4) (BitVec.ofNat 32 f.kRevoke.toNat)) (aSec 0) 13 8 f.patchFloor) (aSec 0) 5 0 f.fwFloor
      setBringup (setReg64 s (aAin 8) f.selfId) 0)

/-- CLOCKS_LOCKED (Table ISL-7 step 3, R40, R299, R349): every island has its clock, the time starts, and banks that failed their wipe
are retired. -/
def execClocksLocked (failedBanks : List Nat) (s : State) : Host.Outcome State Fault Refusal :=
  .next (if !bringup s 0 || bringup s 1 || !s.top.unfed.isEmpty then s
    else
      let s := { s with clock := { s.clock with running := true } }
      let s := forEach (failedBanks.filter (· < 256)) (fun s b => setBit (retireBank s b) (aBank b 0) 30 true) s
      let s := if s.top.jtagHold then s else landsFlash s
      setBringup (setBringup s 1) 2)

/-- A signed image read from octets (Table SEC-6). -/
def imageOf (b : List Byte) : Image :=
  let n := leAt b 8 4 % 2 ^ 24
  { magic := leAt b 0 4, kind := leAt b 4 1, keyId := leAt b 5 1 % 4, svn := leAt b 6 1 % 64, rev := leAt b 7 1,
    length := leAt b 8 4, level := leAt b 12 2, engines := leAt b 14 2, body := (b.drop 128).take n,
    signature := sliceZ b (128 + n) 96 }

/-- A held command starts where its gate has opened (R47, R53, R505): its row is run with the octets that the command brought. A REAUTH
waits for its own row, which brings the cartridge's response, a JRN_READ and a JRN_WRITE for theirs, which tell what the journal gives,
and a CTX_RESTORE for its context. DEDUCED (log 20). -/
def runHeldCmd (s : State) (c : HostCmd) : State :=
  match rowOf c with
  | some .tblSearch => rowState (execTblSearch c s) s
  | some .tblNext => rowState (execTblNext c s) s
  | some .tblInsert => rowState (execTblInsert c s) s
  | some .tblUpdate => rowState (execTblUpdate c s) s
  | some .tblDelete => rowState (execTblDelete c s) s
  | some .tblFlushPort => rowState (execTblFlushPort c s) s
  | some .tblRead => rowState (execTblRead c s) s
  | some .stageWrite => rowState (execStageWrite c s) s
  | some .commit => rowState (execCommit c s) s
  | some .commitAt => rowState (execCommitAt c s) s
  | some .commitToken => rowState (execCommitToken c s) s
  | some .commitCancel => rowState (execCommitCancel c s) s
  | some .patchLoad => rowState (execPatchLoad c (imageOf c.data) s) s
  | some .readId => rowState (execReadId c s) s
  | some .setPolicy => rowState (execSetPolicy c s) s
  | some .prepareRemove => rowState (execPrepareRemove c s) s
  | _ => s

/-- Held commands go on, in the order they were fetched; those of a reserved form end (R16). -/
def runHeld (s : State) : State :=
  refuseForms (forEach ((s.hif.outstanding.filter fun o => o.phase == .held).map (·.cmd)) runHeldCmd s)

-- Key epochs and the random source (R465, R468).

/-- A key epoch starts, and the commands that waited for DERIVED go on (R468). -/
def startEpoch (s : State) : State :=
  let t := keyEpoch s
  if s.sec.epochDue.isSome && t.sec.epochDue.isNone then runHeld t else t

/-- KEY_EPOCH_START (R468). -/
def execKeyEpochStart (s : State) : Host.Outcome State Fault Refusal := .next (startEpoch s)

/-- TRNG_OK (R465): the requesters that waited go on: bays below 16, ports above, and the start of a key epoch (4,096). DEDUCED (log 61). -/
def execTrngOk (s : State) : Host.Outcome State Fault Refusal :=
  .next (if trngUp s then s
    else
      let w := s.sec.rngWait
      let s := setBit { s with sec := { s.sec with rngWait := [] } } (aSec 0) 31 true
      forEach w (fun s n =>
        if n = 4096 then startEpoch s
        else if 16 ≤ n then (if ainLive s (n - 16) then queueHello s (n - 16) else s)
        else if (getBay s n).step == .inserting 2 then sendChallenge s n else s) s)

/-- The tables are wiped: staging is open in both domains (R110). -/
def tablesWiped (s : State) : State := setBringup (openStage (openStage s .ing) .egr) 4

/-- TABLE_WIPE_COMPLETE (Table ISL-7 step 7, R53): what waited for the tables goes on. -/
def execTableWipeComplete (s : State) : Host.Outcome State Fault Refusal :=
  .next (if !bringup s 1 || bringup s 4 then s else runHeld (tablesWiped s))

-- HBM (Table ISL-7 steps 5 and 8, R323).

/-- DEDUCED (log 70). -/
def phyTrained (s : State) (m : Nat) : Bool := regBit s (aPhy m) 31

/-- The wipe of a stack starts from the beginning (R60). A stack lost with two channels retired has none (R321). -/
def startWipe (s : State) (m : Nat) : State :=
  if 2 ≤ popN 16 (retiredCh s m) then s
  else { s with spill := { s.spill with wiping := addOnce s.spill.wiping m, wiped := s.spill.wiped.erase m } }

/-- A stack is usable (R52, R323): its bit, and source 0x806. -/
def stackReady (s : State) (m : Nat) : State := raise (setBringup s (5 + m)) 0x806

/-- HBM_PHY_TRAINED (R320, R322, R323, Table SPL-8): channels that failed training are retired; a stack that has been wiped returns with
its contents, and any other is wiped from the beginning. DEDUCED (log 70). -/
def execHbmPhyTrained (stack : Nat) (failedCh : List Nat) (s : State) : Host.Outcome State Fault Refusal :=
  .next (if decide (1 < stack) || !bringup s 1 || phyTrained s stack || islandDown s (122 + stack) then s
    else
      let bad := failedCh.filter (· < 16)
      let s := setBit s (aPhy stack) 31 true
      let s := setF s (aPhy stack) 15 0 (bad.foldl (fun m c => m ||| 2 ^ c) 0)
      let s := forEach bad (fun s c => retireChannel s stack c) s
      if s.spill.wiped.contains stack then stackReady s stack else startWipe s stack)

/-- The contents of a stack after its wipe: zeros, and a full free list (R323); every channel in service was granted the beats of every
page (R421). -/
def wipedStack (s : State) (m : Nat) : State :=
  let s := forEach ((List.range 16).filter fun c => !(retiredCh s m).testBit c) (fun s c => pmcAdd s (0x880 + 16 * m + c) (8 * 6291456)) s
  let s := { s with spill := { s.spill with
    wiping := s.spill.wiping.erase m
    wiped := addOnce s.spill.wiped m
    hbm := s.spill.hbm.filter fun x => x.1 / 2 ^ 27 != m
    fresh := mapPut 0 s.spill.fresh m 0
    freed := mapPut [] s.spill.freed m [] } }
  setF (setBit s (aStack m 0) 31 false) (aStack m 0) 22 0 6291200

/-- HBM_WIPE_COMPLETE (R323): zeros and a full free list; a second retired channel leaves the stack lost (R321). A reset of the PHY's
island, until it has trained again, or of the Barrow's holds the wipe, which restarts after it (R60). -/
def execHbmWipeComplete (stack : Nat) (failedCh : List Nat) (s : State) : Host.Outcome State Fault Refusal :=
  .next (if !s.spill.wiping.contains stack || !phyTrained s stack || islandDown s (122 + stack) || islandDown s 121 then s
    else
      let s := forEach (failedCh.filter (· < 16)) (fun s c => retireChannel s stack c) s
      if s.spill.wiping.contains stack then stackReady (wipedStack s stack) stack else s)

-- Firmware (R478, R127, R68, R59, R161, R443, R480).

/-- A place of the flash holds an image that verifies for its use (R477). DEDUCED (log 59). -/
def slotSigned (s : State) (code kind : Nat) (i : Image) : Bool :=
  s.top.flash.sound.contains code && i.kind == kind && !s.top.fuses.kRevoke.getLsbD i.keyId && i.rev == siliconRev s

/-- It counts as verifying: in OPERATIONAL, its SVN is not below FW_FLOOR (R478). DEDUCED (log 59). -/
def slotVerifies (s : State) (code kind : Nat) (m : Option Image) : Bool :=
  match m with
  | none => false
  | some i => slotSigned s code kind i && !(s.top.fuses.lcs == .operational && decide (i.svn < s.top.fuses.fwFloor))

/-- The firmware that a boot runs: code and SVN (R478). DEDUCED (log 59). -/
def bootChoice (s : State) : Option (Nat × Nat) :=
  let f := s.top.flash
  let a := slotVerifies s 0 0 f.slotA
  let b := slotVerifies s 1 0 f.slotB
  let svn := fun m : Option Image => (m.map (·.svn)).getD 0
  if regF s 0x10 1 0 = 1 then (if slotVerifies s 2 1 f.recovery then some (2, svn f.recovery) else none)
  else if a && (!b || decide (svn f.slotB ≤ svn f.slotA)) then some (0, svn f.slotA)
  else if b then some (1, svn f.slotB)
  else none

/-- The places whose images a boot verifies, and whether each verifies under R477 (R478): slots A and B, or the recovery image. -/
def bootChecks (s : State) : List Bool :=
  let f := s.top.flash
  let one := fun (code kind : Nat) (m : Option Image) => (m.map (slotSigned s code kind)).toList
  if regF s 0x10 1 0 = 1 then one 2 1 f.recovery else one 0 0 f.slotA ++ one 1 0 f.slotB

/-- The signatures that a boot checks are counted; source 0xD00 is raised once, for one that failed (Table SEC-9) or where nothing
verifies (R478). DEDUCED (log 59). -/
def bootVerified (s : State) : State :=
  let l := bootChecks s
  let bad := l.any (!·) || (bootChoice s).isNone
  whenB bad (raise · 0xD00) (forEach l (fun s ok => secCount s (if ok then 4 else 5)) s)

/-- The flash patch is applied at a cold boot (R127, R480). -/
def bootPatch (s : State) : State :=
  match s.top.flash.patch with
  | none => s
  | some m =>
    let ok := slotSigned s 3 2 m
    let s := sigCount s ok
    if !ok then s
    else raisePatchFloor { s with prg := { s.prg with patchInForce := some m } } m.svn

/-- What firmware loads at the first start after a cold or life-cycle reset: POLICY from the journal, unless it has been written
meanwhile and the journal is owed it (R161), the regulator table (R443) and the flash patch (R127). -/
def bootCold (s : State) : State :=
  let written := s.owed.any fun e => match e with | .policy _ => true | _ => false
  let s := whenB (!written) (setBit · (aCrt 0) 0 ((jrnPolicy s.journal).getD false)) s
  let s := forEach s.top.flash.regulators (fun s r =>
    if r.1 < 12 then setReg s (aRegulator r.1 0) (r.2 &&& 0xFFFFE000) else s) s
  bootPatch (setScl s fun x => { x with regTable := true, polled := [] })

/-- The system log of a start (R65): the reset that led to it, and the versions that run. DESIGN CHOICE (log 60). -/
def logStart (s : State) (cold : Bool) (svn : Nat) : State :=
  jrnLog (jrnLog s (if cold then .reset (reg s aResetCause) else .control)) (.versions svn (patchLevel s))

/-- What waits for firmware goes on: owed journal records, the mailbox, proposals, the cartridges' requests and held commands (R46, R47,
R142, R155). -/
def firmwareRuns (s : State) : State :=
  let s := mailTake (landsFirmware (jrnFlush s))
  let s := forEach (List.range 9) serveAsked (answerProposals s)
  runHeld (cartDone s)

/-- The start of firmware `code`: the flash's signatures are checked, then the journal is, what a first start loads is loaded, and
BRINGUP.FW sets; in OPERATIONAL the floor rises to its SVN. `bad` are the journal records that fail their check. -/
def firmwareStarted (bad : List JrnRec) (code svn : Nat) (s : State) : State :=
  let cold := s.top.coldBoot
  let s := setTop (bootVerified s) fun t => { t with running := code, controlReset := false, coldBoot := false }
  let s := whenB cold bootCold (journalStart bad s)
  raiseFwFloor (setBringup (logStart s cold svn) 3) svn

/-- Firmware that verifies runs, and what waited for it goes on. With none that verifies it does not start. -/
def bootFirmware (bad : List JrnRec) (s : State) : State :=
  match bootChoice s with
  | none => bootVerified s
  | some x => firmwareRuns (firmwareStarted bad x.1 x.2 s)

/-- FIRMWARE_START (Table ISL-7 step 6). DEDUCED (log 59). -/
def execFirmwareStart (bad : List JrnRec) (s : State) : Host.Outcome State Fault Refusal :=
  .next (if !bringup s 1 || fwRuns s || s.top.jtagHold || s.top.controlReset then s else bootFirmware bad s)

/-- JTAG_CORE_RELEASE (R505): the cores are let go and read the flash, and FIRMWARE_START follows. DEDUCED (log 59). What came through JTAG
has had TDO taken over (R21; DESIGN CHOICE, log 81). -/
def execJtagCoreRelease (s : State) : Host.Outcome State Fault Refusal :=
  .next (if s.top.inReset then s
    else
      let s := setTop (setLands s fun x => { x with tdo := .owned }) fun t => { t with jtagHold := false }
      if bringup s 1 then landsFlash s else s)

-- Control reset (R46, R47).

/-- A control reset begins: what a core had taken ends with ABORTED_BY_RESET, the cores' stacks empty and their sources are
pending again (R47, R432). DEDUCED (log 58). -/
def controlStart (s : State) : State :=
  if s.top.inReset || s.top.controlReset then s
  else
    let s := clearBringup (setTop s fun t => { t with controlReset := true, controlDue := false }) 3
    let back := (s.crier.active.filter fun x => decide (4096 ≤ x.2)).map (·.1)
    let s := { s with crier := { s.crier with
      cores := []
      active := s.crier.active.filter fun x => decide (x.2 < 4096)
      pend := back.foldl addOnce s.crier.pend } }
    let s := { s with prg := { s.prg with patch := none } }
    let taken := ((heldCmds s).filter fun o => o.phase == .taken).map (·.cmd)
    let s := forEach taken (fun s c => complete s c stAborted) s
    if (mailServed s).isSome then mailRespond s stAborted [] else s

/-- CONTROL_RESET (R46): the reset that a firmware update has made due (R479). DEDUCED (log 58). -/
def execControlReset (s : State) : Host.Outcome State Fault Refusal :=
  .next (if s.top.controlDue then controlStart s else s)

/-- CONTROL_RESET_COMPLETE (R47); where firmware had not run before, this is its first start (R52, R127). -/
def execControlResetComplete (bad : List JrnRec) (s : State) : Host.Outcome State Fault Refusal :=
  .next (if !s.top.controlReset || s.top.jtagHold || !bringup s 1 then s else bootFirmware bad s)

/-- CORE_WATCHDOG_EXPIRY (R44). DEDUCED (log 58). -/
def execCoreWatchdogExpiry (core : Nat) (s : State) : Host.Outcome State Fault Refusal :=
  .next (if core < 4 then controlStart s else s)

-- Island resets (R48 to R50).

def aIslReset : Nat := 0x30

/-- A store without the keys that `f` names. -/
def dropKeys {α : Type} (m : Store α) (f : Nat → Bool) : Store α := m.filter fun x => !f x.1

/-- A pipeline island (R48, R341, R346): the packets inside it are dropped; the schedulers of an egress island start afresh. DEDUCED (log 71). -/
def resetPipe (p : Nat) (s : State) : State :=
  let s := dropInPipe (fun _ => true) 0x40 s p
  let s := forEach (List.range (if p < 36 then 20 else 12)) (fun s i =>
    let n := firstStall p + i
    setStall s n { getStall s n with paused := false, reloads := [], lateWrites := [] }) s
  if p < 36 then s
  else
    let g := p - 36
    let mine := fun (q : Nat) => decide (q / 288 = g)
    let ports := (List.range 32).map (32 * g + ·)
    let s := forEach ports clearPauses s
    let c := s.sched
    { s with sched := { c with
      cTok := (groupQueues g).foldl (fun m q => mapPut 0 m q (fullAt (schF s (aSQueue q 8) 23 0))) c.cTok
      pTok := (groupQueues g).foldl (fun m q => mapPut 0 m q (fullAt (schF s (aSQueue q 16) 23 0))) c.pTok
      portTok := ports.foldl (fun m l => mapPut 0 m l (fullAt (schF s (aSPort l 12) 23 0))) c.portTok
      deficit := dropKeys c.deficit mine
      turn := dropKeys c.turn fun k => decide (k / 256 = g)
      owed := c.owed.filter fun x => !mine x.queue
      refund := c.refund.filter fun x => !mine x.1.queue
      wdHold := dropKeys c.wdHold fun k => decide (k / 256 = g)
      lastPfc := dropKeys c.lastPfc fun k => decide (k / 256 = g) } }

/-- A port of a lane island that is reset (R142, R401): its step and negotiation are abandoned, and it relocks at the rate it
carried in UP; a ladder port in any other state relocks at the ladder rate, from which its bring-up goes on. DEDUCED (log 27). Neither
this nor the switch into STEPPING is an alignment lost of event 5: DESIGN CHOICE (log 91). -/
def resetPort (s : State) (l : Nat) : State :=
  let st := portState s l
  let s := ainumDown s l
  if st = 0 then modPort s l fun x => { x with finishing := false }
  else
    let up := isLadder s l && st == 5
    let was := isLadder s l && (rateNow s l == 2 || (getPort s l).full)
    let s := modPort s l fun x => { x with
      full := up, finished := x.finished && (up || !was), proposed := none, owedAck := none, stepTaken := false,
      retry := x.retry || x.proposed.isSome || x.stepTaken }
    if st = 1 then s else enterState s l 2 0 false

/-- A lane island (R48, R142, R401, CMB-3 k): frames still arriving end there. DEDUCED (log 27). -/
def resetLanes (g : Nat) (s : State) : State :=
  let ls := headLanes s g
  let s := forEach ls (fun s l => cutArriving s l fun s p => dropPacket s g 0x40 p p.tally) s
  forEach ls resetPort s

/-- The lookups in flight to a hall's tables complete as misses with FAULT (chapter 08). DEDUCED (log 71). -/
def faultLookups (h : Nat) (s : State) : State :=
  let miss := fun (x : LkSlot) => match x.req with
    | some _ => { words := resultWords (2 ^ 30) 0, req := none }
    | none => x
  let one := fun (y : Nat × Stall) =>
    if hallOf (pipeGroup (stallPipe y.1)) = h then
      (y.1, { y.2 with ctxs := y.2.ctxs.map fun c => { c with slots := c.slots.map miss } })
    else y
  { s with pipes := { s.pipes with stalls := s.pipes.stalls.map one } }

/-- Uncommitted reads are abandoned: the Barrow frees their cells, and their pages wait again (R322). Uncommitted writes and
bypasses keep their records in the staging and go on after the reset. DEDUCED (log 71). -/
def abandonReads (mine : Xfer → Bool) (s : State) : State :=
  forEach (s.spill.xfers.filter fun t => t.kind == .read && mine t) (fun s t =>
    let s := dropXfer (freeDrain s t.queue t.units) t
    let x := getSpq s t.queue
    setSpq s t.queue { x with pages := insertPage t.page x.pages }) s

/-- An HBM PHY island (R322, R55): the stack is unavailable, its contents kept. -/
def resetPhy (m : Nat) (s : State) : State :=
  setBit (clearBringup (abandonReads (·.stack == m) s) (5 + m)) (aPhy m) 31 false

/-- The security island (R45, R468, R401): every slot is wiped, sessions end, and what was in progress ends with
ABORTED_BY_RESET. -/
def resetSecurity (s : State) : State :=
  let waiting := s.sec.waiting
  let s := { s with sec := { s.sec with waiting := [] } }
  let s := forEach waiting (fun s c => complete s c stAborted) s
  forEach (enabledPorts s) endSession (wipeSlots s)

/-- What an island reset does as it begins (R48). DEDUCED (log 71). -/
def islandEffect (n : Nat) (s : State) : State :=
  if n < 72 then resetPipe n s
  else if n < 108 then resetLanes (n - 72) s
  else if 112 ≤ n ∧ n ≤ 120 then faultLookups (n - 112) s
  else if n = 121 then abandonReads (fun _ => true) s
  else if n = 122 ∨ n = 123 then resetPhy (n - 122) s
  else if n = 128 then resetSecurity s
  else s

/-- An island reset begins; a second request is merged with the first (R50). -/
def startIsland (s : State) (n : Nat) : State :=
  if s.top.islands.contains n then s
  else islandEffect n (setTop s fun t => { t with islands := t.islands ++ [n] })

/-- ISL_RESET_ISLAND (R48, Table ISL-5). -/
def execIslResetIsland (island : Nat) (s : State) : Host.Outcome State Fault Refusal :=
  .next (if s.top.inReset then s
    else if !islandResettable island then setBit s aIslReset 9 true
    else
      let s := setTop s fun t => { t with islandsByReg := addOnce t.islandsByReg island }
      startIsland (setF s aIslReset 9 8 1) island)

/-- ISL_RESET_CONTROL (R46, Table ISL-5). DEDUCED (log 58). -/
def execIslResetControl (s : State) : Host.Outcome State Fault Refusal :=
  .next (if s.top.inReset then s else controlStart (setBit s aIslReset 9 false))

/-- ISL_RESET_COLD (R44, Table ISL-5). -/
def execIslResetCold (s : State) : Host.Outcome State Fault Refusal :=
  .next (if s.top.inReset then s else coldReset [1] false s)

/-- What an island reset does as it ends (R49): switches that fell due are taken (R374), and the security island starts a key epoch
(R468). A PHY trains again by its own row (R322). DEDUCED (log 70). -/
def islandEnd (n : Nat) (s : State) : State :=
  if 36 ≤ n ∧ n < 72 then forEach ((List.range 32).map (32 * (n - 36) + ·)) takeSwitch s
  else if n = 128 then { s with sec := { s.sec with epochDue := some true } }
  else s

/-- An island leaves reset, before the writes held at its crossing are applied: source 0x002, BUSY once no request is left, and
the lists that waited for it go on (R437). -/
def leaveIsland (n : Nat) (s : State) : State :=
  let s := setTop s fun t => { t with islands := t.islands.erase n, islandsByReg := t.islandsByReg.erase n }
  let s := raise (islandEnd n (setBit s aIslReset 8 (!s.top.islandsByReg.isEmpty))) 0x002
  let waits := (s.flt.lists.filter fun r => r.waitIsland == some n).map (·.source)
  forEach waits (fun s id => actionDone s id) s

-- Escalation actions (R437, Table CRI-5).

/-- ESC_ISLAND: a refusal raises source 0xE02 and is counted. -/
def execEscIsland (src : Nat) (s : State) : Host.Outcome State Fault Refusal :=
  .next (beginAction s src 1 fun s n =>
    if !islandResettable n then actionDone (raise (add64 s (aFlt 0x30) 1) 0xE02) src
    else startIsland (listWaits s src n) n)

/-- ESC_CONTROL: done when the reset begins. DEDUCED (log 58). -/
def execEscControl (src : Nat) (s : State) : Host.Outcome State Fault Refusal :=
  .next (beginAction s src 2 fun s _ => actionDone (controlStart s) src)

/-- ESC_COLD: the reset ends every list. -/
def execEscCold (src : Nat) (s : State) : Host.Outcome State Fault Refusal :=
  .next (beginAction s src 3 fun s _ => coldReset [6] false s)

/-- ESC_PORT_OFF: PORT_CFG.EN clears (R144); the write waits at the crossing into a lane island in reset (R48). -/
def execEscPortOff (src : Nat) (s : State) : Host.Outcome State Fault Refusal :=
  .next (beginAction s src 5 fun s l =>
    writeDone (if 1151 < l then s
      else holdWrite s (72 + l / 32) (aPortCfg l) (regDue s (aPortCfg l) &&& 0x7FFFFFFF) fun s =>
        if regBit s (aPortCfg l) 31 then portDown s l else s) src (72 + l / 32))

/-- ESC_LOSE_STACK (R321). -/
def execEscLoseStack (src : Nat) (s : State) : Host.Outcome State Fault Refusal :=
  .next (beginAction s src 6 fun s m => actionDone (loseStack s m) src)

end Sys2Proof.Machine
end

