-- ==== Sys2Proof/Machine/View.lean ====
section
/-!
DEFINITION. What a register read returns: the registers that reflect live state, the registers that an instance lacks (R73),
and the latches of 64-bit registers (R75).
-/
namespace Sys2Proof.Machine

/-- Word `w` of a bit list over source ids. -/
def idWord (has : Nat → Bool) (w : Nat) : Word :=
  BitVec.ofNat 32 ((List.range 32).foldl (fun m i => m + b2n (has (32 * w + i)) * 2 ^ i) 0)

/-- CRI (Tables CRI-2, CRI-4): PEND, ACTIVE, LINE, the RO bits of VEC_CTRL, VEC_PRIO and CORE_STATUS. -/
def criView (s : State) (a off : Nat) : Word :=
  let c := s.crier
  if 0x100 ≤ off ∧ off < 0x300 then idWord c.pend.contains ((off - 0x100) / 4)
  else if 0x300 ≤ off ∧ off < 0x500 then idWord (fun id => c.active.any (·.1 == id)) ((off - 0x300) / 4)
  else if 0x500 ≤ off ∧ off < 0x700 then idWord c.line.contains ((off - 0x500) / 4)
  else if 0x8000 ≤ off ∧ off < 0x10000 then
    let v := (off - 0x8000) / 16
    let x := getVec s v
    if off % 16 = 4 then
      BitVec.ofNat 32 (b2n (regBit s a 31) * 2 ^ 31 + b2n x.inService * 2 ^ 30 + b2n x.ready * 2 ^ 29 + b2n x.held * 2 ^ 28 + x.counted % 65536)
    else if off % 16 = 12 then BitVec.ofNat 32 (vecPrio s v)
    else reg s a
  else if 0x10000 ≤ off then
    let n := (off - 0x10000) / 16
    let x := getCore s n
    BitVec.ofNat 32 (b2n x.sleep * 2 ^ 31 + b2n x.masked * 2 ^ 30 + b2n (s.top.controlReset || s.top.jtagHold || s.top.inReset) * 2 ^ 29
      + x.stack.length % 32 * 65536 + (List.range 16).foldl (fun m p => m + b2n (x.stack.any (·.1 == p)) * 2 ^ p) 0)
  else reg s a

/-- One context of a stall as CTX_STATUS shows it, by the number that it keeps while a packet occupies it (R190). DEDUCED (log 24). -/
def ctxView (s : State) (n c : Nat) : Word :=
  match (getStall s n).ctxs.find? (·.num == c) with
  | none => 0
  | some x =>
    let waits := !x.finished && !wordReady x (progNat s (stallWordKey n (stallVer n x.pkt) x.next) 32)
    BitVec.ofNat 32 (2 ^ 31 + b2n x.finished * 2 ^ 30 + b2n waits * 2 ^ 29 + x.next % 1024 * 65536 + x.issued % 64 * 256)

/-- PIPE (Table STL-10): PAUSED, STALL_STATUS and CTX_STATUS. DEDUCED (log 24). -/
def pipeView (s : State) (p a off : Nat) : Word :=
  if off = 4 then
    let paused := (List.range (if p < 36 then 20 else 12)).any fun i => (getStall s (firstStall p + i)).paused
    BitVec.ofNat 32 (b2n (regBit s a 1) * 2 + b2n paused)
  else if 0x10000 ≤ off ∧ off < 0xF0000 then
    let n := firstStall p + (off - 0x10000) / 0x1000
    let o := off % 0x1000
    if o = 4 then BitVec.ofNat 32 (b2n (regBit s (aStall n 0) 0) * 256 + (getStall s n).ctxs.length % 64)
    else if 0x20 ≤ o ∧ o < 0xA0 then ctxView s n ((o - 0x20) / 4)
    else reg s a
  else reg s a

/-- A bucket count as its register shows it: 26 bits, signed, in octets. -/
def tokenWord (t : Int) : Word := BitVec.ofNat 32 (ofSigned 26 (t / 65536))

/-- The port whose range holds local queue `j` of a group, as PORT_Q stands. -/
def queuePort (s : State) (g j : Nat) : Option Nat :=
  (headLanes s g).find? fun l => decide (qBase s l ≤ j ∧ j < qBase s l + qCount s l)

/-- SCH (Tables SCH-3, SCH-4, WIN-4): PORT_STATUS, PORT_TOKENS, QSTATUS, the buckets and SLOT_STATUS. -/
def schView (s : State) (g a off : Nat) : Word :=
  if 0x100 ≤ off ∧ off < 0x900 then
    let l := 32 * g + (off - 0x100) / 0x40
    let bits := fun (f : Nat → Bool) => (List.range 8).foldl (fun m n => m + b2n (f n) * 2 ^ n) 0
    match off % 0x40 with
    | 0x20 => BitVec.ofNat 32 (b2n (portHeld s l) * 2 ^ 31 + b2n (isSingle s l) * 2 ^ 30
        + bits (wdHolding s l) * 65536 + bits (isPaused s l))
    | 0x24 => tokenWord (portTokens s l)
    | _ => reg s a
  else if 0x1000 ≤ off ∧ off < 0x3400 then
    let j := (off - 0x1000) / 0x20
    let q := 288 * g + j
    match off % 0x20 with
    | 0x14 =>
      let pr := qSch s q 25 23
      let st := match queuePort s g j with
        | some l => b2n (portOpen s l && queueEligible s l q) * 2 ^ 31 + b2n (portOpen s l && committedEligible s l q) * 2 ^ 30
            + b2n (qSch s q 26 26 == 1 && isPaused s l pr) * 2 ^ 29 + b2n (qSch s q 26 26 == 1 && wdHolding s l pr) * 2 ^ 28
        | none => 0
      BitVec.ofNat 32 (st + ofSigned 24 (deficitOf s q))
    | 0x18 => tokenWord (cTokens s q)
    | 0x1C => tokenWord (pTokens s q)
    | _ => reg s a
  else if 0x8000 ≤ off ∧ off < 0x8800 ∧ off % 0x40 = 0 then slotStatus s (32 * g + (off - 0x8000) / 0x40)
  else reg s a

/-- SPL.STATUS (Table SPL-5). -/
def splStatus (s : State) : Word :=
  let bits := fun (f : Nat → Bool) => b2n (f 0) + 2 * b2n (f 1)
  BitVec.ofNat 32 ((s.spill.xfers.filter (·.kind != .bypass)).length % 2048 * 4096 + bits (stackLostBit s) * 256
    + bits s.spill.wiping.contains * 16 + bits (stackUsable s))

/-- CLERK_STATUS (Table TBL-8). DEDUCED (log 24). -/
def clerkStatus (s : State) : Word :=
  let isFlush := fun (c : HostCmd) => c.opcode == 0x15
  let flush := (match s.clerk.host.head? with | some (.cmd c) => isFlush c | _ => false)
    || s.clerk.inFlight.any fun x => match x.done with | some d => isFlush d.1 | none => false
  BitVec.ofNat 32 (b2n flush * 2 ^ 31 + b2n (regBit s (aDom .ing 0) 2 || regBit s (aDom .egr 0) 2) * 2 ^ 30 + min 32767 s.clerk.learn.length)

/-- The lane of a port set that exists for head lanes only: Table MKT-11, the TIM port set and Table AIN-4. DEDUCED (log 21). -/
def portSetLane (b : Blk) (n off : Nat) : Option Nat :=
  match b with
  | .mkt => if 0x80000 ≤ off ∧ off < 0xA4000 then some ((off - 0x80000) / 0x80) else none
  | .tim => if 0x10000 ≤ off ∧ off < 0x19000 then some ((off - 0x10000) / 0x20) else none
  | .ain => if 0x10000 ≤ off ∧ off < 0x22000 then some ((off - 0x10000) / 0x40) else none
  | _ => none

/-- A register that its table names and the instance lacks (R73): reads zero, ignores writes. DEDUCED (log 21). -/
def absent (s : State) (a : Nat) : Bool :=
  match blkOf a, regInfo a with
  | some (b, n, off), some (_, _, r, i, _) =>
    lacksReg b n r i || (match portSetLane b n off with | some l => (portLanes s l).isNone | none => false)
  | _, _ => false

/-- LAN: the FEC counters count in the head lane's set and read zero in the other lanes (R148). -/
def lanView (s : State) (g a off : Nat) : Word :=
  let o := off % 0x100
  if 0x1000 ≤ off ∧ 0x40 ≤ o ∧ o < 0x58 ∧ (portLanes s (32 * g + (off - 0x1000) / 0x100)).isNone then 0 else reg s a

/-- The ring whose CFG lies at an offset of HIF (Table HIF-7). -/
def ringCfgAt (off : Nat) : Option (RingKind × Nat) :=
  if off % 0x20 ≠ 8 then none
  else if 0x1000 ≤ off ∧ off < 0x1200 then some (.cr, (off - 0x1000) / 0x20)
  else if 0x1200 ≤ off ∧ off < 0x1400 then some (.cq, (off - 0x1200) / 0x20)
  else if 0x1400 ≤ off ∧ off < 0x1C00 then some (.rx, (off - 0x1400) / 0x20)
  else if 0x1C00 ≤ off ∧ off < 0x1D00 then some (.nq, (off - 0x1C00) / 0x20)
  else none

/-- HIF: CFG of a ring shows IDLE as it stands (Table HIF-7). -/
def hifView (s : State) (a off : Nat) : Word :=
  match ringCfgAt off with
  | some x => fset (reg s a) 29 29 (b2n (ringIdle s x.1 x.2))
  | none => reg s a

/-- TIM, and QUEUE_ENERGY between its registers (R461). DESIGN CHOICE (log 97). -/
def timView (s : State) (a : Nat) : Word :=
  match energyAt a with
  | some (q, half) => BitVec.ofNat 32 (mapGet 0 s.scales.queueUj q >>> (32 * half))
  | none => reg s a

/-- What a read of the dword at `a` shows, latches apart. DESIGN CHOICE (log 12). -/
def regView (s : State) (a : Nat) : Word :=
  if absent s a then 0 else
  match blkOf a with
  | some (.top, _, 0x60) => fset (reg s a) 31 28 (min 8 (recentWarnings s).length)
  | some (.hif, _, off) => hifView s a off
  | some (.prg, _, 4) => changesView s .ing
  | some (.prg, _, 0x14) => changesView s .egr
  | some (.prg, _, 0x100) => patchView s
  | some (.jrn, _, 0x10) => jrnView s.journal
  | some (.lan, g, off) => lanView s g a off
  | some (.cri, _, off) => criView s a off
  | some (.pipe, p, off) => pipeView s p a off
  | some (.sch, g, off) => schView s g a off
  | some (.spl, _, 4) => splStatus s
  | some (.tbl, 0, 0x40000) => clerkStatus s
  | some (.tim, _, 0x10) => BitVec.ofNat 32 (slewLeftReg s.clock)
  | some (.tim, _, 0x14) => BitVec.ofNat 32 (slewLeftReg s.clock >>> 32)
  | some (.tim, _, 0x20) => BitVec.ofNat 32 s.clock.ns
  | some (.tim, _, _) => timView s a
  | some (.scl, _, 4) => fset (reg s a) 31 31 (b2n (modelOnly s))
  | _ => reg s a

/-- A read latch of R75 for a requester: zero where nothing has latched. -/
def latchOf (s : State) (rq : Requester) (a : Nat) : Word :=
  ((s.hif.latches.find? fun x => x.1 == rq && x.2.1 == a).map (·.2.2)).getD 0

/-- A 64-bit register holds the dword at `a`: its low word is the one at a multiple of 8. -/
def isWide (a : Nat) : Bool := match regInfo a with | some (_, _, r, _, _) => r.wide | none => false

/-- The mask of the RC bits of a register (R10). -/
def rcMask (a : Nat) : Word := match regInfo a with | some (_, _, r, _, _) => r.rc | none => 0

/-- The low word of a 64-bit register is read: its high word is latched, and with AIN OFFSET also DELAY and EX_TS32 (R402). -/
def latchLow (s : State) (rq : Requester) (a : Nat) : State :=
  let t := setLatch s rq (a + 4) (regView s (a + 4))
  match blkOf a with
  | some (.ain, _, off) =>
    if 0x10000 ≤ off ∧ off % 0x40 = 0x18 then setLatch (setLatch t rq (a + 8) (regView s (a + 8))) rq (a + 0x10) (regView s (a + 0x10)) else t
  | _ => t

/-- An RC register is read: its RC bits take their reset value (R10). DEDUCED (log 73). -/
def clearRc (s : State) (a : Nat) : State :=
  if absent s a || rcMask a == 0 then s
  else setReg s a ((regView s a &&& ~~~(rcMask a)) ||| (resetWord a &&& rcMask a))

/-- The dwords that show only what a read of another register latched: NOW_FRAC and NOW_SEC (R350), and of an Ainum port set DELAY and
EX_TS32 (R402). -/
def showsLatch (a : Nat) : Bool :=
  match blkOf a with
  | some (.tim, _, off) => off == 0x24 || off == 0x28 || off == 0x2C
  | some (.ain, _, off) => decide (0x10000 ≤ off) && (off % 0x40 == 0x20 || off % 0x40 == 0x28)
  | _ => false

/-- One aligned dword is read (R10, R73, R75, R350): its value, and what the read does. -/
def readReg (s : State) (rq : Requester) (a : Nat) : Word × State :=
  if (regInfo a).isNone then (0, hifErr s 0)
  else if showsLatch a then (latchOf s rq a, s)
  else if isWide a then (if a % 8 = 0 then (regView s a, latchLow s rq a) else (latchOf s rq a, s))
  else if a = aTim 0x20 then (regView s a, latchNow s rq)
  else (regView s a, clearRc s a)

/-- A read of a dword, or of two as one 64-bit access (R74): a 64-bit register is then read whole (R75). -/
def readAt (rq : Requester) (a : Nat) (pair : Bool) (s : State) : State :=
  let lo := readReg s rq a
  if pair then
    let hi := if isWide a && !showsLatch a then (regView s (a + 4), lo.2) else readReg lo.2 rq (a + 4)
    emit hi.2 (.readData (bytesLE 4 lo.1.toNat ++ bytesLE 4 hi.1.toNat))
  else emit lo.2 (.readData (bytesLE 4 lo.1.toNat))

/-- A read: held while the crossing is shut, and of a register of island 112 until earlier DESC and HASH_CFG writes are in force (R42, R48,
R241). -/
def readEffect (s : State) (rq : Requester) (a : Nat) (pair : Bool) : State :=
  if !canAccess s rq then s
  else atCrossing s (crossingShut s (islandAt a) || (islandAt a == 112 && clerkWrites s)) (.read rq a pair) (readAt rq a pair)

/-- RC_COUNTER_READ (R10, R12). -/
def execRcCounterRead (addr : Nat) (s : State) : Host.Outcome State Fault Refusal :=
  .next (if rcMask addr = 0 then s else readEffect s .host addr false)

/-- REG64_LOW_WORD_READ (R75). -/
def execReg64LowWordRead (rq : Requester) (addr : Nat) (s : State) : Host.Outcome State Fault Refusal :=
  .next (if isWide addr && addr % 8 == 0 then readEffect s rq addr false else s)

end Sys2Proof.Machine
end

