-- ==== Sys2Proof/Machine/RegWrite.lean ====
section
/-!
DEFINITION. Writes of registers: a dword reaches the row that it has of its own, or acts by its access codes; 64-bit registers;
accesses that R74 refuses; and the end of an island reset, which applies the writes held at its crossing (R10, R16, R48, R72 to
R76).
-/
namespace Sys2Proof.Machine

/-- TOP.ISL_RESET is written (Table ISL-5). -/
def islResetWrite (v : Word) (s : State) : State :=
  match fget v 31 24 with
  | 0x01 => rowState (execIslResetIsland (fget v 7 0) s) s
  | 0x02 => rowState (execIslResetControl s) s
  | 0xC0 => rowState (execIslResetCold s) s
  | _ => s

/-- CFG of a ring (Table HIF-7): its EN bit chooses between RING_ENABLE and RING_DISABLE. -/
def ringCfg (k : RingKind) (n : Nat) (v : Word) (s : State) : State :=
  if v.getLsbD 31 then rowState (execRingEnable k n v s) s else rowState (execRingDisable k n v s) s

/-- A register of a stall set (Tables STL-10, SCH-6) with a row of its own. -/
def stallRegWrite (n o : Nat) (v : Word) (s : State) : Option State :=
  match o with
  | 0 => some (stallCtrl n v false false none s)
  | 0x10 =>
    match fget v 31 30 with
    | 1 => some (rowState (execStateRead n v s) s)
    | 2 => some (rowState (execStateWrite n v s) s)
    | _ => none
  | 0x100 =>
    match fget v 31 30 with
    | 1 => some (rowState (execMeterRead n v s) s)
    | 2 => some (rowState (execMeterWrite n v s) s)
    | _ => none
  | _ => none

/-- A dword write that has a row of its own in the table of commands: what that row does. DEDUCED (log 19). -/
def ownRow (a : Nat) (v : Word) (s : State) : Option State :=
  match blkOf a with
  | some (.top, _, 0x30) => some (islResetWrite v s)
  | some (.hif, _, off) => (ringCfgAt off).map fun x => ringCfg x.1 x.2 v s
  | some (.cri, _, off) =>
    if off = 0x10 then some (rowState (execSourceForce v s) s)
    else if 0x1000 ≤ off ∧ off < 0x5000 then some (rowState (execSrcCfgWrite ((off - 0x1000) / 4) v false s) s)
    else if 0x8000 ≤ off ∧ off < 0x10000 ∧ off % 16 = 8 then some (rowState (execVecEoi ((off - 0x8000) / 16) s) s)
    else none
  | some (.flt, _, 4) => some (rowState (execEscAck v s) s)
  | some (.scl, _, 0x14) => some (rowState (execAbsWrite v s) s)
  | some (.tim, _, off) =>
    if off = 0 then some (rowState (execRefSelWrite v s) s)
    else if off = 4 then some (rowState (execFreqWrite v s) s)
    else if 0x200 ≤ off ∧ off < 0x280 ∧ off % 0x20 = 0 then
      let n := (off - 0x200) / 0x20
      some (if fget v 31 30 = 0 then rowState (execPulseStop n v s) s else rowState (execPulseArm n v s) s)
    else none
  | some (.lan, g, off) =>
    if off < 0x10 then some (rowState (execOctCfgWrite g (off / 4) v s) s)
    else if 0x1000 ≤ off ∧ off < 0x3000 ∧ off % 0x100 = 0 then some (rowState (execPortCfgWrite (32 * g + (off - 0x1000) / 0x100) v s) s)
    else none
  | some (.pipe, p, off) =>
    if 0x10000 ≤ off ∧ off < 0xF0000 then stallRegWrite (firstStall p + (off - 0x10000) / 0x1000) (off % 0x1000) v s else none
  | some (.mkt, m, off) =>
    if off = 0 then some (rowState (execCarveWrite v s) s)
    else if off = 0x10 then some (rowState (execReserveWrite false v s) s)
    else if off = 0x14 then some (rowState (execReserveWrite true v s) s)
    else if 0x10000 ≤ off ∧ off < 0x10400 ∧ off % 16 = 8 then some (rowState (execBankRetire (64 * m + (off - 0x10000) / 16) v s) s)
    else none
  | some (.spl, _, off) =>
    if off = 0x1008 ∨ off = 0x1408 then some (rowState (execChRetire ((off - 0x1008) / 0x400) v s) s)
    else if off = 0x1020 ∨ off = 0x1420 then
      match fget v 31 30 with
      | 1 => some (rowState (execDiagCellRead ((off - 0x1020) / 0x400) v s) s)
      | 2 => some (rowState (execDiagCellWrite ((off - 0x1020) / 0x400) v s) s)
      | _ => none
    else none
  | some (.sch, g, off) =>
    if 0x100 ≤ off ∧ off < 0x900 ∧ off % 0x40 = 0 then some (rowState (execPortQWrite (32 * g + (off - 0x100) / 0x40) v s) s) else none
  | some (.tbl, h, off) =>
    if off = 0x100 then
      match fget v 31 30 with
      | 1 => some (rowState (execRawRowRead h v s) s)
      | 2 => some (rowState (execRawRowWrite h v s) s)
      | _ => none
    else if 0x41000 ≤ off ∧ off < 0x41400 ∧ off % 16 < 8 then some (rowState (execDescWrite ((off - 0x41000) / 16) (off % 16 / 4) v s) s)
    else if 0x42000 ≤ off ∧ off < 0x42040 then some (rowState (execHashCfgWrite ((off - 0x42000) / 4) v s) s)
    else none
  | some (.pmc, _, off) => if off % 8 = 0 then some (rowState (execPmcCountWrite ((off - 0x10000) / 8) v 0 s) s) else none
  | _ => none

/-- A change of a queue's or the host's partition moves what it occupies to USED of the new one (R279). DEDUCED (log 23). -/
def movePart (n old new : Nat) (s : State) : State :=
  if old = new then s else addF21 (addF21 s (aUsed old) (-(n : Int))) (aUsed new) n

/-- VEC_COAL is written (R428): a vector whose COUNTED reaches the new COUNT is ready, and TIME = 0 turns its timer off. -/
def judgeVec (s : State) (v : Nat) : State :=
  let coal := reg s (aVec v 0)
  let f := fun x : Vec => { x with
    ready := x.ready || (decide (0 < x.counted) && decide (fget coal 31 16 ≤ x.counted))
    timer := x.timer && fget coal 15 0 != 0 }
  { s with crier := { s.crier with vecs := mapMod vecIdle s.crier.vecs v f } }

/-- What follows a write of the register at `a` that changed `old` by the written value `v`: bits that act (WO and W1S) and
state that a register governs. DEDUCED (log 23); DEDUCED (log 24). -/
def afterWrite (a : Nat) (old v : Word) (s : State) : State :=
  match blkOf a with
  | some (.hif, _, 0x2000) => if v.getLsbD 0 then rowState (execMailboxGo s) s else s
  | some (.hif, _, 0x3000) => if v.getLsbD 31 then rowState (execOrphanLogClear s) s else s
  | some (.cri, _, off) => if 0x8000 ≤ off ∧ off < 0x10000 ∧ off % 16 = 0 then judgeVec s ((off - 0x8000) / 16) else s
  | some (.flt, _, off) =>
    if 0x10000 ≤ off ∧ off < 0x30000 ∧ off % 0x20 = 0 ∧ v.getLsbD 31 = true then
      forEach (List.range 8) (fun s i => setReg s (a + 4 * i) 0) s
    else s
  | some (.scl, _, off) =>
    if off = 0 then whenB (v.getLsbD 28) clearPhases s
    else if 0x100 ≤ off ∧ off < 0x1C0 ∧ off % 16 = 0 then syncModelOnly s
    else s
  | some (.ain, _, 0x34) => if v.getLsbD 31 then rowState (execTokenGo s) s else s
  | some (.crt, _, 0) => if (v.getLsbD 0) == (old.getLsbD 0) then s else setPolicy s (v.getLsbD 0)
  | some (.lan, g, off) => if 0x80 ≤ off ∧ off < 0xA0 then laneLine s g ((off - 0x80) / 4) else s
  | some (.pipe, p, off) =>
    if off = 0 then (if v.getLsbD 0 then s else setBit s (aPipe p 4) 1 false)
    else if off = 0xF0000 ∧ p < 36 then (if v.getLsbD 0 then rowState (execParCaptureArm p s) s else s)
    else s
  | some (.mkt, 0, off) =>
    if off = 0x18 then
      let n := s.market.hostHeld.foldl (fun n u => n + unitCells (unitTag s u).pool) 0
      movePart n (fget old 31 29) (regF s a 31 29) s
    else if 0x40000 ≤ off ∧ off < 0x68C00 ∧ off % 16 = 0 then
      movePart (occOf s ((off - 0x40000) / 16)) (fget old 31 29) (regF s a 31 29) s
    else if 0x80000 ≤ off ∧ off < 0xA4000 ∧ off % 0x80 < 8 then
      forEach (List.range 8) (fun s n => updXoff s ((off - 0x80000) / 0x80) n) s
    else s
  | some (.spl, _, off) => if (off = 0x1020 ∨ off = 0x1420) ∧ fget v 31 30 = 3 then splCfgBad s else s
  | some (.sch, g, off) => if off = 0 then forEach (headLanes s g) noteClash s else s
  | some (.tal, _, off) =>
    if off = 0x18 then (if v.getLsbD 0 then rowState (execFlowFlush s) s else s)
    else if off = 0x20 then (if (reg s a).getLsbD 31 == old.getLsbD 31 then s else ctxPoll s)
    else s
  | _ => s

/-- A refused code in a block that says so: SCL (R463) and SPL (Table SPL-5). -/
def noteRefused (b : Blk) (r : RegRow) (v : Word) (s : State) : State :=
  match b with
  | .scl => if badFields r v != 0 then sclBad s else s
  | .spl =>
    let s := if badFields r v != 0 then raise (setBit s (aSpl 8) 0 true) 0x807 else s
    if r.sumMax != 0 && decide (r.sumMax < weightSum v) then raise (setBit s (aSpl 8) 1 true) 0x807 else s
  | _ => s

/-- A dword write that acts by the access codes of its register alone (R10, R16). DEDUCED (log 73). -/
def plainWrite (a : Nat) (v : Word) (s : State) : State :=
  match regInfo a with
  | none => s
  | some (b, _, r, _, _) =>
    let old := reg s a
    let s := noteRefused b r v (setReg s a (applyWrite r old v))
    if writeRefused r v then s else afterWrite a old v s

/-- A low word that a requester holds for a 64-bit register (R75). -/
def heldLowOf (s : State) (rq : Requester) (a : Nat) : Option Word :=
  (s.hif.heldLow.find? fun x => x.1 == rq && x.2.1 == a).map (·.2.2)
def dropLow (s : State) (rq : Requester) (a : Nat) : State :=
  { s with hif := { s.hif with heldLow := s.hif.heldLow.filter fun x => !(x.1 == rq && x.2.1 == a) } }
def holdLow (s : State) (rq : Requester) (a : Nat) (v : Word) : State :=
  let s := dropLow s rq a
  { s with hif := { s.hif with heldLow := (rq, a, v) :: s.hif.heldLow } }

/-- A whole 64-bit value is applied (R75): ACTIONS has a row of its own. -/
def applyWide (a : Nat) (lo hi : Word) (s : State) : State :=
  match blkOf a with
  | some (.flt, _, off) =>
    if 0x40000 ≤ off then rowState (execActionsWrite ((off - 0x40000) / 16) (hi ++ lo) s) s else s
  | _ => plainWrite (a + 4) hi (plainWrite a lo s)

/-- A whole 64-bit value, or its high word alone beside the present low word, crosses into its island (R42, R48, R75). -/
def wideWrite (s : State) (a : Nat) (lo : Option Word) (hi : Word) : State :=
  let isl := islandAt a
  atCrossing s (crossingShut s isl || (isl == 112 && clerkWrites s)) (.wide a lo hi) fun s => applyWide a (lo.getD (reg s a)) hi s

/-- The high word of a 64-bit register is written (R75): it goes with the low word that the requester holds, or with the present one. -/
def writeHigh (s : State) (rq : Requester) (a : Nat) (v : Word) : State :=
  wideWrite (dropLow s rq (a - 4)) (a - 4) (heldLowOf s rq (a - 4)) v

/-- A whole-dword BAR0 write that reaches the part: undefined addresses are ignored with HIF.ERR.UNMAPPED (R73), registers that
the instance lacks are ignored, a low word is held, and every other dword acts. DEDUCED (log 19). -/
def busWrite (s : State) (rq : Requester) (a : Nat) (v : Word) : State :=
  if (regInfo a).isNone then hifErr s 0
  else if absent s a then s
  else if isWide a then (if a % 8 = 0 then holdLow s rq a v else writeHigh s rq a v)
  else match ownRow a v s with
    | some t => t
    | none => holdWrite s (islandAt a) a v (plainWrite a v)

/-- REGISTER_WRITE (R10): one whole aligned dword from the host. DEDUCED (log 19). -/
def execRegisterWrite (addr : Nat) (value : Word) (s : State) : Host.Outcome State Fault Refusal :=
  .next (if s.hif.perst || s.top.inReset then s else busWrite s .host addr value)

/-- REG64_LOW_WORD_WRITE (R75). -/
def execReg64LowWordWrite (rq : Requester) (addr : Nat) (value : Word) (s : State) : Host.Outcome State Fault Refusal :=
  .next (if canAccess s rq && !s.top.inReset && isWide addr && addr % 8 == 0 && !absent s addr then holdLow s rq addr value else s)

/-- REG64_HIGH_WORD_WRITE (R75). -/
def execReg64HighWordWrite (rq : Requester) (addr : Nat) (value : Word) (s : State) : Host.Outcome State Fault Refusal :=
  .next (if canAccess s rq && !s.top.inReset && isWide addr && addr % 8 == 4 && !absent s addr then writeHigh s rq addr value else s)

/-- A read that R74 serves: 4 octets, or 8 octets aligned to 8. -/
def readServed (addr size : Nat) : Bool := (size == 4 && addr % 4 == 0) || (size == 8 && addr % 8 == 0)

/-- BAR0_BAD_ACCESS (R74): a read that is served returns its registers, and any other ends with Completer Abort; a write beyond 64
octets is refused whole, and of any other the whole dwords are applied in ascending order. -/
def execBar0BadAccess (write : Bool) (addr size : Nat) (dwords : List (Word × Bool)) (s : State) : Host.Outcome State Fault Refusal :=
  .next (if s.hif.perst || s.top.inReset then s
    else if !write then
      (if readServed addr size then readEffect s .host addr (size == 8) else hifErr (emit s .completerAbort) 1)
    else if 64 < size then hifErr s 1
    else
      let t := forEach dwords.zipIdx (fun s x => if x.1.2 then busWrite s .host (addr / 4 * 4 + 4 * x.2) x.1.1 else s) s
      if dwords.all (·.2) then t else hifErr t 1)

-- Crossings that open (R41, R42, R48, R49, R241).

/-- An access that waited at a crossing acts. DEDUCED (log 20). -/
def applyHeld (s : State) (h : Held) : State :=
  match h with
  | .write a v => busWrite s .host a v
  | .wide a lo hi => wideWrite s a lo hi
  | .read rq a pair => readEffect s rq a pair

/-- The accesses that wait at an island's crossing act in the order they came; one that has to wait again waits with those after
it. DEDUCED (log 20). -/
def drainHeld (island : Nat) (s : State) : State :=
  let mine := s.top.held.filter (islandAt ·.addr == island)
  forEach mine applyHeld (setTop s fun t => { t with held := t.held.filter fun x => !(islandAt x.addr == island) })

/-- ISLAND_RESET_COMPLETE (R48, R49): the island leaves reset, and the accesses held for it act. -/
def execIslandResetComplete (island : Nat) (s : State) : Host.Outcome State Fault Refusal :=
  .next (if s.top.inReset || !s.top.islands.contains island then s else drainHeld island (leaveIsland island s))

/-- CLERK_OP_IN_FORCE (R241, R242, R252): the oldest operation in flight is in force in all nine halls, and accesses that waited for it at
the Clerk go on. -/
def execClerkOpInForce (s : State) : Host.Outcome State Fault Refusal := .next (drainHeld 112 (clerkInForce s))

end Sys2Proof.Machine
end

