-- ==== Sys2Proof/Machine/Dispatch.lean ====
section
/-!
DEFINITION. Each command and its meaning.
-/
namespace Sys2Proof.Machine

def exec (i : Instr) (s : State) : Host.Outcome State Fault Refusal :=
  match i with
  | .sysRstNLow lowNs => Sys2Proof.Machine.execSysRstNLow lowNs s
  | .supplyBelowResetThreshold rail mv ns => Sys2Proof.Machine.execSupplyBelowResetThreshold rail mv ns s
  | .vddCoreWarning mv ns => Sys2Proof.Machine.execVddCoreWarning mv ns s
  | .vddCoreWarningEnd minMv durNs => Sys2Proof.Machine.execVddCoreWarningEnd minMv durNs s
  | .coldResetRelease straps refclks => Sys2Proof.Machine.execColdResetRelease straps refclks s
  | .fusesLoaded => Sys2Proof.Machine.execFusesLoaded s
  | .clocksLocked failedBanks => Sys2Proof.Machine.execClocksLocked failedBanks s
  | .tableWipeComplete => Sys2Proof.Machine.execTableWipeComplete s
  | .hbmWipeComplete stack failedCh => Sys2Proof.Machine.execHbmWipeComplete stack failedCh s
  | .firmwareStart bad => Sys2Proof.Machine.execFirmwareStart bad s
  | .jtagCoreRelease => Sys2Proof.Machine.execJtagCoreRelease s
  | .islResetIsland island => Sys2Proof.Machine.execIslResetIsland island s
  | .islResetControl => Sys2Proof.Machine.execIslResetControl s
  | .islResetCold => Sys2Proof.Machine.execIslResetCold s
  | .islandResetComplete island => Sys2Proof.Machine.execIslandResetComplete island s
  | .coreWatchdogExpiry core => Sys2Proof.Machine.execCoreWatchdogExpiry core s
  | .controlReset => Sys2Proof.Machine.execControlReset s
  | .controlResetComplete bad => Sys2Proof.Machine.execControlResetComplete bad s
  | .perstNAssert cause => Sys2Proof.Machine.execPerstNAssert cause s
  | .perstNRelease => Sys2Proof.Machine.execPerstNRelease s
  | .hostIslandRelease => Sys2Proof.Machine.execHostIslandRelease s
  | .linkTrained width speed flit => Sys2Proof.Machine.execLinkTrained width speed flit s
  | .lcsChange => Sys2Proof.Machine.execLcsChange s
  | .lcsTransitionStart cut => Sys2Proof.Machine.execLcsTransitionStart cut s
  | .fwUpdate image cut => Sys2Proof.Machine.execFwUpdate image cut s
  | .registerWrite addr value => Sys2Proof.Machine.execRegisterWrite addr value s
  | .rcCounterRead addr => Sys2Proof.Machine.execRcCounterRead addr s
  | .reg64LowWordRead rq addr => Sys2Proof.Machine.execReg64LowWordRead rq addr s
  | .reg64LowWordWrite rq addr value => Sys2Proof.Machine.execReg64LowWordWrite rq addr value s
  | .reg64HighWordWrite rq addr value => Sys2Proof.Machine.execReg64HighWordWrite rq addr value s
  | .bar0UnmappedAccess addr write => Sys2Proof.Machine.execBar0UnmappedAccess addr write s
  | .bar0BadAccess write addr size dwords => Sys2Proof.Machine.execBar0BadAccess write addr size dwords s
  | .crDoorbell r index => Sys2Proof.Machine.execCrDoorbell r index s
  | .cqDoorbell r index => Sys2Proof.Machine.execCqDoorbell r index s
  | .rxDoorbell n index => Sys2Proof.Machine.execRxDoorbell n index s
  | .nqDoorbell n index => Sys2Proof.Machine.execNqDoorbell n index s
  | .ringEnable kind n cfg => Sys2Proof.Machine.execRingEnable kind n cfg s
  | .ringDisable kind n cfg => Sys2Proof.Machine.execRingDisable kind n cfg s
  | .ringDmaError kind n => Sys2Proof.Machine.execRingDmaError kind n s
  | .commandFetch r entry data => Sys2Proof.Machine.execCommandFetch r entry data s
  | .completionWrite q => Sys2Proof.Machine.execCompletionWrite q s
  | .notificationWrite n => Sys2Proof.Machine.execNotificationWrite n s
  | .nop cmd => Sys2Proof.Machine.execNop cmd s
  | .fence cmd => Sys2Proof.Machine.execFence cmd s
  | .fenceComplete cr index => Sys2Proof.Machine.execFenceComplete cr index s
  | .rxFrameDma n entry err => Sys2Proof.Machine.execRxFrameDma n entry err s
  | .apertureWrite addr data => Sys2Proof.Machine.execApertureWrite addr data s
  | .apertureRead addr len => Sys2Proof.Machine.execApertureRead addr len s
  | .mailboxGo => Sys2Proof.Machine.execMailboxGo s
  | .mailboxResponse => Sys2Proof.Machine.execMailboxResponse s
  | .orphanLogClear => Sys2Proof.Machine.execOrphanLogClear s
  | .jrnRead cmd badLines => Sys2Proof.Machine.execJrnRead cmd badLines s
  | .jrnWrite cmd badLines failedBlocks => Sys2Proof.Machine.execJrnWrite cmd badLines failedBlocks s
  | .stageWrite cmd => Sys2Proof.Machine.execStageWrite cmd s
  | .commit cmd => Sys2Proof.Machine.execCommit cmd s
  | .commitAt cmd => Sys2Proof.Machine.execCommitAt cmd s
  | .commitToken cmd => Sys2Proof.Machine.execCommitToken cmd s
  | .commitCancel cmd => Sys2Proof.Machine.execCommitCancel cmd s
  | .commitInstant d => Sys2Proof.Machine.execCommitInstant d s
  | .drainEnd d => Sys2Proof.Machine.execDrainEnd d s
  | .drainForce d => Sys2Proof.Machine.execDrainForce d s
  | .retireComplete d => Sys2Proof.Machine.execRetireComplete d s
  | .commitRecordWrite failedBlocks => Sys2Proof.Machine.execCommitRecordWrite failedBlocks s
  | .patchLoad cmd image => Sys2Proof.Machine.execPatchLoad cmd image s
  | .patchSwitchPoint => Sys2Proof.Machine.execPatchSwitchPoint s
  | .octCfgWrite g o value => Sys2Proof.Machine.execOctCfgWrite g o value s
  | .portCfgWrite lane value => Sys2Proof.Machine.execPortCfgWrite lane value s
  | .portEnable lane => Sys2Proof.Machine.execPortEnable lane s
  | .portDisable lane => Sys2Proof.Machine.execPortDisable lane s
  | .portAligned port skewNs => Sys2Proof.Machine.execPortAligned port skewNs s
  | .lossOfSignal lane signalGone => Sys2Proof.Machine.execLossOfSignal lane signalGone s
  | .faultReceived port localFault => Sys2Proof.Machine.execFaultReceived port localFault s
  | .recoveryEnd port => Sys2Proof.Machine.execRecoveryEnd port s
  | .ladderStepPropose port => Sys2Proof.Machine.execLadderStepPropose port s
  | .stepTransmitterSwitch port => Sys2Proof.Machine.execStepTransmitterSwitch port s
  | .ladderStepSuccess port skewNs => Sys2Proof.Machine.execLadderStepSuccess port skewNs s
  | .ladderStepFail port => Sys2Proof.Machine.execLadderStepFail port s
  | .stepAckTimeout port => Sys2Proof.Machine.execStepAckTimeout port s
  | .ladderRetry port => Sys2Proof.Machine.execLadderRetry port s
  | .ladderNoPeer port => Sys2Proof.Machine.execLadderNoPeer port s
  | .eqLoopStep lane want => Sys2Proof.Machine.execEqLoopStep lane want s
  | .eqPolicyConflict lane want => Sys2Proof.Machine.execEqPolicyConflict lane want s
  | .fecDegrade lane symbols words => Sys2Proof.Machine.execFecDegrade lane symbols words s
  | .frameArrival port octets pcs => Sys2Proof.Machine.execFrameArrival port octets pcs s
  | .frameTailArrival frame octets verdict => Sys2Proof.Machine.execFrameTailArrival frame octets verdict s
  | .parseEntry g => Sys2Proof.Machine.execParseEntry g s
  | .parseExit g => Sys2Proof.Machine.execParseExit g s
  | .parCaptureArm g => Sys2Proof.Machine.execParCaptureArm g s
  | .parseWordRepair g space bank offset err => Sys2Proof.Machine.execParseWordRepair g space bank offset err s
  | .recircEntry g => Sys2Proof.Machine.execRecircEntry g s
  | .stallAdmit stall => Sys2Proof.Machine.execStallAdmit stall s
  | .stallWordIssue stall ctx parityBad backingBad constErr => Sys2Proof.Machine.execStallWordIssue stall ctx parityBad backingBad constErr s
  | .waitTimeout stall ctx => Sys2Proof.Machine.execWaitTimeout stall ctx s
  | .lookupResult stall ctx slot err => Sys2Proof.Machine.execLookupResult stall ctx slot err s
  | .statefulLockGrant stall ctx port => Sys2Proof.Machine.execStatefulLockGrant stall ctx port s
  | .statefulReadData stall ctx port => Sys2Proof.Machine.execStatefulReadData stall ctx port s
  | .meterColour stall ctx => Sys2Proof.Machine.execMeterColour stall ctx s
  | .parityReloadDone stall => Sys2Proof.Machine.execParityReloadDone stall s
  | .stallDepart stall => Sys2Proof.Machine.execStallDepart stall s
  | .ingressTail g => Sys2Proof.Machine.execIngressTail g s
  | .dequeueDecision g err => Sys2Proof.Machine.execDequeueDecision g err s
  | .egressTail g => Sys2Proof.Machine.execEgressTail g s
  | .editor g => Sys2Proof.Machine.execEditor g s
  | .copyDeparture port pcs begun err => Sys2Proof.Machine.execCopyDeparture port pcs begun err s
  | .pfcFrameReceived port enable times isPause => Sys2Proof.Machine.execPfcFrameReceived port enable times isPause s
  | .pfcPauseExpiry port prio => Sys2Proof.Machine.execPfcPauseExpiry port prio s
  | .pfcFrameSend port => Sys2Proof.Machine.execPfcFrameSend port s
  | .pfcRefresh port prio => Sys2Proof.Machine.execPfcRefresh port prio s
  | .pfcWatchdogTrip port prio => Sys2Proof.Machine.execPfcWatchdogTrip port prio s
  | .pfcWatchdogHoldEnd port prio => Sys2Proof.Machine.execPfcWatchdogHoldEnd port prio s
  | .refillBoundary => Sys2Proof.Machine.execRefillBoundary s
  | .portQWrite lane value => Sys2Proof.Machine.execPortQWrite lane value s
  | .carveWrite value => Sys2Proof.Machine.execCarveWrite value s
  | .reserveWrite hdrm value => Sys2Proof.Machine.execReserveWrite hdrm value s
  | .bankRetire bank value => Sys2Proof.Machine.execBankRetire bank value s
  | .auditSweep => Sys2Proof.Machine.execAuditSweep s
  | .auditSweepEnd => Sys2Proof.Machine.execAuditSweepEnd s
  | .bufAlloc cmd => Sys2Proof.Machine.execBufAlloc cmd s
  | .bufFree cmd => Sys2Proof.Machine.execBufFree cmd s
  | .bufSendIngress cmd => Sys2Proof.Machine.execBufSendIngress cmd s
  | .bufSendEgress cmd => Sys2Proof.Machine.execBufSendEgress cmd s
  | .pageFlushTimer queue => Sys2Proof.Machine.execPageFlushTimer queue s
  | .pageWriteStart queue => Sys2Proof.Machine.execPageWriteStart queue s
  | .pageWriteCommit stack tag failedCh => Sys2Proof.Machine.execPageWriteCommit stack tag failedCh s
  | .pageReadStart queue => Sys2Proof.Machine.execPageReadStart queue s
  | .pageReadCommit stack tag corrCh badCh => Sys2Proof.Machine.execPageReadCommit stack tag corrCh badCh s
  | .chRetire stack value => Sys2Proof.Machine.execChRetire stack value s
  | .stackLost stack => Sys2Proof.Machine.execStackLost stack s
  | .hbmNoResponse stack tag => Sys2Proof.Machine.execHbmNoResponse stack tag s
  | .hbmRefresh stack ch temp => Sys2Proof.Machine.execHbmRefresh stack ch temp s
  | .patrolScrub stack page ch corr uncorr => Sys2Proof.Machine.execPatrolScrub stack page ch corr uncorr s
  | .diagCellRead stack value => Sys2Proof.Machine.execDiagCellRead stack value s
  | .diagCellWrite stack value => Sys2Proof.Machine.execDiagCellWrite stack value s
  | .tblSearch cmd => Sys2Proof.Machine.execTblSearch cmd s
  | .tblNext cmd => Sys2Proof.Machine.execTblNext cmd s
  | .tblInsert cmd => Sys2Proof.Machine.execTblInsert cmd s
  | .tblUpdate cmd => Sys2Proof.Machine.execTblUpdate cmd s
  | .tblDelete cmd => Sys2Proof.Machine.execTblDelete cmd s
  | .tblFlushPort cmd => Sys2Proof.Machine.execTblFlushPort cmd s
  | .tblRead cmd => Sys2Proof.Machine.execTblRead cmd s
  | .descWrite t word value => Sys2Proof.Machine.execDescWrite t word value s
  | .hashCfgWrite k value => Sys2Proof.Machine.execHashCfgWrite k value s
  | .clerkIssue => Sys2Proof.Machine.execClerkIssue s
  | .clerkOpInForce => Sys2Proof.Machine.execClerkOpInForce s
  | .learnInstall => Sys2Proof.Machine.execLearnInstall s
  | .flapHoldEnd table handle => Sys2Proof.Machine.execFlapHoldEnd table handle s
  | .ageVisit table handle => Sys2Proof.Machine.execAgeVisit table handle s
  | .ageRemove table handle => Sys2Proof.Machine.execAgeRemove table handle s
  | .ageRestore table handle => Sys2Proof.Machine.execAgeRestore table handle s
  | .replicaRepair hall row entries allBad => Sys2Proof.Machine.execReplicaRepair hall row entries allBad s
  | .tableScrub hall row corr uncorr => Sys2Proof.Machine.execTableScrub hall row corr uncorr s
  | .rawRowRead hall value => Sys2Proof.Machine.execRawRowRead hall value s
  | .rawRowWrite hall value => Sys2Proof.Machine.execRawRowWrite hall value s
  | .stateRead stall value => Sys2Proof.Machine.execStateRead stall value s
  | .stateWrite stall value => Sys2Proof.Machine.execStateWrite stall value s
  | .meterRead stall value => Sys2Proof.Machine.execMeterRead stall value s
  | .meterWrite stall value => Sys2Proof.Machine.execMeterWrite stall value s
  | .pipeQuiesce p => Sys2Proof.Machine.execPipeQuiesce p s
  | .quiesced p => Sys2Proof.Machine.execQuiesced p s
  | .stallHalt stall halt => Sys2Proof.Machine.execStallHalt stall halt s
  | .stallStep stall parityBad backingBad constErr => Sys2Proof.Machine.execStallStep stall parityBad backingBad constErr s
  | .timeSetSet cmd => Sys2Proof.Machine.execTimeSetSet cmd s
  | .timeSetStep cmd => Sys2Proof.Machine.execTimeSetStep cmd s
  | .timeSetSlew cmd => Sys2Proof.Machine.execTimeSetSlew cmd s
  | .slewComplete => Sys2Proof.Machine.execSlewComplete s
  | .scheduledEventFire => Sys2Proof.Machine.execScheduledEventFire s
  | .nowNsRead rq => Sys2Proof.Machine.execNowNsRead rq s
  | .freqWrite value => Sys2Proof.Machine.execFreqWrite value s
  | .refSelWrite value => Sys2Proof.Machine.execRefSelWrite value s
  | .referenceLost => Sys2Proof.Machine.execReferenceLost s
  | .timeLock => Sys2Proof.Machine.execTimeLock s
  | .captureEdge set falling => Sys2Proof.Machine.execCaptureEdge set falling s
  | .pulseArm n value => Sys2Proof.Machine.execPulseArm n value s
  | .pulseStop n value => Sys2Proof.Machine.execPulseStop n value s
  | .pulseEdge n => Sys2Proof.Machine.execPulseEdge n s
  | .slotStageWrite cmd => Sys2Proof.Machine.execSlotStageWrite cmd s
  | .slotStageArm cmd => Sys2Proof.Machine.execSlotStageArm cmd s
  | .slotStageCancel cmd => Sys2Proof.Machine.execSlotStageCancel cmd s
  | .slotStageRead cmd => Sys2Proof.Machine.execSlotStageRead cmd s
  | .slotSwitch lane => Sys2Proof.Machine.execSlotSwitch lane s
  | .slotEntryBoundary lane => Sys2Proof.Machine.execSlotEntryBoundary lane s
  | .protectedSpanStart lane => Sys2Proof.Machine.execProtectedSpanStart lane s
  | .protectedSpanEnd lane => Sys2Proof.Machine.execProtectedSpanEnd lane s
  | .ainumSend port idle pcs => Sys2Proof.Machine.execAinumSend port idle pcs s
  | .helloTimer port => Sys2Proof.Machine.execHelloTimer port s
  | .hello port msg => Sys2Proof.Machine.execHello port msg s
  | .confirm port msg => Sys2Proof.Machine.execConfirm port msg s
  | .stepPropose port msg => Sys2Proof.Machine.execStepPropose port msg s
  | .stepAck port msg => Sys2Proof.Machine.execStepAck port msg s
  | .timeSyncTimer port => Sys2Proof.Machine.execTimeSyncTimer port s
  | .timeSync port msg t2 => Sys2Proof.Machine.execTimeSync port msg t2 s
  | .timeReply port msg t4 => Sys2Proof.Machine.execTimeReply port msg t4 s
  | .token port msg => Sys2Proof.Machine.execToken port msg s
  | .capNotice port msg => Sys2Proof.Machine.execCapNotice port msg s
  | .peerTimeout port => Sys2Proof.Machine.execPeerTimeout port s
  | .tokenGo => Sys2Proof.Machine.execTokenGo s
  | .flowEvictTimer g slot => Sys2Proof.Machine.execFlowEvictTimer g slot s
  | .flowFlush => Sys2Proof.Machine.execFlowFlush s
  | .exportRecordForm => Sys2Proof.Machine.execExportRecordForm s
  | .exportMessageSend => Sys2Proof.Machine.execExportMessageSend s
  | .exportFlushTimer => Sys2Proof.Machine.execExportFlushTimer s
  | .templateSend => Sys2Proof.Machine.execTemplateSend s
  | .ldgRead cmd => Sys2Proof.Machine.execLdgRead cmd s
  | .ldgSnapshot cmd => Sys2Proof.Machine.execLdgSnapshot cmd s
  | .ldgSnapshotComplete buffer => Sys2Proof.Machine.execLdgSnapshotComplete buffer s
  | .pmcCountWrite n value occurrences => Sys2Proof.Machine.execPmcCountWrite n value occurrences s
  | .sourceForce value => Sys2Proof.Machine.execSourceForce value s
  | .srcCfgWrite src value fw => Sys2Proof.Machine.execSrcCfgWrite src value fw s
  | .vectorTimerExpiry v => Sys2Proof.Machine.execVectorTimerExpiry v s
  | .dispatchCommit masks => Sys2Proof.Machine.execDispatchCommit masks s
  | .vecEoi v => Sys2Proof.Machine.execVecEoi v s
  | .coreEoi n => Sys2Proof.Machine.execCoreEoi n s
  | .crossingFault receiver sender handshake => Sys2Proof.Machine.execCrossingFault receiver sender handshake s
  | .graceExpiry src => Sys2Proof.Machine.execGraceExpiry src s
  | .escAck value => Sys2Proof.Machine.execEscAck value s
  | .actionsWrite src value => Sys2Proof.Machine.execActionsWrite src value s
  | .escEnd src => Sys2Proof.Machine.execEscEnd src s
  | .escIsland src => Sys2Proof.Machine.execEscIsland src s
  | .escControl src => Sys2Proof.Machine.execEscControl src s
  | .escCold src => Sys2Proof.Machine.execEscCold src s
  | .escQuiesce src => Sys2Proof.Machine.execEscQuiesce src s
  | .escPortOff src => Sys2Proof.Machine.execEscPortOff src s
  | .escLoseStack src => Sys2Proof.Machine.execEscLoseStack src s
  | .escWait src => Sys2Proof.Machine.execEscWait src s
  | .regulatorPoll answers => Sys2Proof.Machine.execRegulatorPoll answers s
  | .scalesReady => Sys2Proof.Machine.execScalesReady s
  | .capLoopTick savings => Sys2Proof.Machine.execCapLoopTick savings s
  | .deferralForce p => Sys2Proof.Machine.execDeferralForce p s
  | .sclPolicyConflict p step => Sys2Proof.Machine.execSclPolicyConflict p step s
  | .glideComplete p => Sys2Proof.Machine.execGlideComplete p s
  | .pmbusAlert bus low => Sys2Proof.Machine.execPmbusAlert bus low s
  | .fastEstimateTick => Sys2Proof.Machine.execFastEstimateTick s
  | .limiterStep => Sys2Proof.Machine.execLimiterStep s
  | .limiterRelease => Sys2Proof.Machine.execLimiterRelease s
  | .absWrite value => Sys2Proof.Machine.execAbsWrite value s
  | .droopTrip island => Sys2Proof.Machine.execDroopTrip island s
  | .droopClear island stretchedUs => Sys2Proof.Machine.execDroopClear island stretchedUs s
  | .phaseTick => Sys2Proof.Machine.execPhaseTick s
  | .thermalSense sensors engines => Sys2Proof.Machine.execThermalSense sensors engines s
  | .throttleTick => Sys2Proof.Machine.execThrottleTick s
  | .cartPresenceChange bay present => Sys2Proof.Machine.execCartPresenceChange bay present s
  | .cartLatchOpen bay => Sys2Proof.Machine.execCartLatchOpen bay s
  | .cartLatchClose bay => Sys2Proof.Machine.execCartLatchClose bay s
  | .cartInt bay shutdown => Sys2Proof.Machine.execCartInt bay shutdown s
  | .cartAuthenticating bay identity => Sys2Proof.Machine.execCartAuthenticating bay identity s
  | .cartChallengeCheck bay tag => Sys2Proof.Machine.execCartChallengeCheck bay tag s
  | .cartEnRaise bay => Sys2Proof.Machine.execCartEnRaise bay s
  | .cartActivate bay => Sys2Proof.Machine.execCartActivate bay s
  | .removalRampStart bay => Sys2Proof.Machine.execRemovalRampStart bay s
  | .removalRampDone bay => Sys2Proof.Machine.execRemovalRampDone bay s
  | .removalEnLow bay => Sys2Proof.Machine.execRemovalEnLow bay s
  | .shareFailed bay ch => Sys2Proof.Machine.execShareFailed bay ch s
  | .lightLow g input => Sys2Proof.Machine.execLightLow g input s
  | .wearTick outputs => Sys2Proof.Machine.execWearTick outputs s
  | .wearRecordWrite failedBlocks => Sys2Proof.Machine.execWearRecordWrite failedBlocks s
  | .currentLoopStep bay ch want => Sys2Proof.Machine.execCurrentLoopStep bay ch want s
  | .cartPolicyConflict bay ch want => Sys2Proof.Machine.execCartPolicyConflict bay ch want s
  | .readId cmd => Sys2Proof.Machine.execReadId cmd s
  | .reauth cmd tag => Sys2Proof.Machine.execReauth cmd tag s
  | .setPolicy cmd => Sys2Proof.Machine.execSetPolicy cmd s
  | .prepareRemove cmd => Sys2Proof.Machine.execPrepareRemove cmd s
  | .keyUnwrap cmd => Sys2Proof.Machine.execKeyUnwrap cmd s
  | .keyErase cmd => Sys2Proof.Machine.execKeyErase cmd s
  | .ctxSave cmd => Sys2Proof.Machine.execCtxSave cmd s
  | .ctxRestore cmd => Sys2Proof.Machine.execCtxRestore cmd s
  | .keyEpochStart => Sys2Proof.Machine.execKeyEpochStart s
  | .trngFail => Sys2Proof.Machine.execTrngFail s
  | .hbmPhyTrained stack failedCh => Sys2Proof.Machine.execHbmPhyTrained stack failedCh s
  | .watchdogPageFree queue => Sys2Proof.Machine.execWatchdogPageFree queue s
  | .trngOk => Sys2Proof.Machine.execTrngOk s
  | .faultCleared port => Sys2Proof.Machine.execFaultCleared port s
  | .signalPresent port => Sys2Proof.Machine.execSignalPresent port s
  | .uncorrectableCodeword lane => Sys2Proof.Machine.execUncorrectableCodeword lane s
  | .commandTimeout cr index => Sys2Proof.Machine.execCommandTimeout cr index s

end Sys2Proof.Machine
end

