-- ==== Sys2Proof/Machine/Step.lean ====
section
/-!
DEFINITION. One step: the command at the front of the queue is carried out with the queue's rest; on an empty queue
one time-island clock passes (DESIGN CHOICE, log 2). The host's placement of a command that a table word spells.
-/
namespace Sys2Proof.Machine

/-- Take the command at the front of the queue and carry it out; on an empty queue let a clock pass. -/
def step (s : State) : Host.Outcome State Fault Refusal :=
  match s.pending with
  | [] => .next (captureSnaps (tick s))
  | c :: rest => exec c { s with pending := rest }

/-- The command that a table word spells is put at the front of the queue. -/
def State.withFetchWord (s : State) (nbits w : Nat) : State :=
  match decodeTableWord nbits w with
  | some c => { s with pending := c :: s.pending }
  | none => s

end Sys2Proof.Machine
end

