-- ==== Sys2Proof/Safety.lean ====
section
/-!
DEFINITION. The terms that claims use: the parts of the state and what a command leaves alone, the invariants that every step
keeps, and what a fuse may become.
-/
namespace Sys2Proof.Machine

/-- The parts of the state, one for each field. -/
inductive Part where
  | pending
  | regs
  | prog
  | clock
  | elapsed
  | freeCtr
  | journal
  | owed
  | lastRaise
  | top
  | hif
  | prg
  | ports
  | pipes
  | tables
  | clerk
  | market
  | spill
  | sched
  | slots
  | pulses
  | ainum
  | telem
  | crier
  | flt
  | scales
  | bays
  | sec
  | activity
  | out
  deriving DecidableEq, Repr

/-- A part of two states is the same. -/
def Same (p : Part) (s t : State) : Prop :=
  match p with
  | .pending => t.pending = s.pending
  | .regs => t.regs = s.regs
  | .prog => t.prog = s.prog
  | .clock => t.clock = s.clock
  | .elapsed => t.elapsed = s.elapsed
  | .freeCtr => t.freeCtr = s.freeCtr
  | .journal => t.journal = s.journal
  | .owed => t.owed = s.owed
  | .lastRaise => t.lastRaise = s.lastRaise
  | .top => t.top = s.top
  | .hif => t.hif = s.hif
  | .prg => t.prg = s.prg
  | .ports => t.ports = s.ports
  | .pipes => t.pipes = s.pipes
  | .tables => t.tables = s.tables
  | .clerk => t.clerk = s.clerk
  | .market => t.market = s.market
  | .spill => t.spill = s.spill
  | .sched => t.sched = s.sched
  | .slots => t.slots = s.slots
  | .pulses => t.pulses = s.pulses
  | .ainum => t.ainum = s.ainum
  | .telem => t.telem = s.telem
  | .crier => t.crier = s.crier
  | .flt => t.flt = s.flt
  | .scales => t.scales = s.scales
  | .bays => t.bays = s.bays
  | .sec => t.sec = s.sec
  | .activity => t.activity = s.activity
  | .out => t.out = s.out

/-- From `s` to `t` nothing changes but the listed parts: the frame of a command. -/
def Only (ps : List Part) (s t : State) : Prop := ∀ p, p ∉ ps → Same p s t

/-- From `s` to `t` no register changes but those at the listed addresses. -/
def RegsBut (l : List Nat) (s t : State) : Prop := ∀ a, a ∉ l → reg t a = reg s a

/-- The registers of BAR0 that commands write, by the names of the register tables, for frames: one name for a register or an
array of registers. -/
inductive RegName where
  /-- TOP.ID. -/
  | topId
  /-- TOP.STRAP. -/
  | strap
  /-- TOP.ISL_RESET. -/
  | islReset
  /-- TOP.BRINGUP. -/
  | bringup
  /-- TOP.LCS. -/
  | lcs
  /-- TOP.VWARN. -/
  | vwarn
  /-- HIF.STATUS. -/
  | hifStatus
  /-- HIF.ERR. -/
  | hifErr
  /-- HIF.APERTURE_DROPS. -/
  | apertureDrops
  /-- CFG of a ring. -/
  | ringCfg
  /-- HEAD of a ring. -/
  | ringHead
  /-- TAIL of a ring. -/
  | ringTail
  /-- HIF.MB_CTRL. -/
  | mbCtrl
  /-- the mailbox response area. -/
  | mbResponse
  /-- HIF.ORPHAN_CTRL. -/
  | orphanCtrl
  /-- an orphan-log entry, by entry. -/
  | orphanLog
  /-- an orphan-log entry, by dword. -/
  | orphanDword
  /-- the MSI-X pending bits. -/
  | pba
  /-- CRI.SRC_CFG. -/
  | srcCfg
  /-- CRI.ERR. -/
  | criErr
  /-- FLT.ERR. -/
  | fltErr
  /-- FLT.REC. -/
  | fltRec
  /-- FLT.FIRST. -/
  | fltFirst
  /-- FLT.COUNT[0]. -/
  | fltCount0
  /-- FLT.COUNT[1]. -/
  | fltCount1
  /-- FLT.COUNT[2]. -/
  | fltCount2
  /-- FLT.COUNT[3]. -/
  | fltCount3
  /-- FLT.COUNT[4]. -/
  | fltCount4
  /-- FLT.COUNT[5]. -/
  | fltCount5
  /-- FLT.ESC_CFG. -/
  | escCfg
  /-- FLT.ACTIONS. -/
  | escActions
  /-- SCL.STATUS. -/
  | sclStatus
  /-- SCL.ERR. -/
  | sclErr
  /-- SCL.ABS. -/
  | sclAbs
  /-- SCL.POWER. -/
  | sclPower
  /-- SCL.TJ. -/
  | sclTj
  /-- SCL.POLICY_CONFLICT. -/
  | sclConflict
  /-- SCL.ENERGY_TOTAL. -/
  | energyTotal
  /-- SCL.ENERGY_COMMON. -/
  | energyCommon
  /-- SCL.ENERGY_HALL. -/
  | energyHall
  /-- SCL.DROOP. -/
  | droop
  /-- SCL.REG_CFG. -/
  | regCfg
  /-- SCL.REG_VI. -/
  | regVi
  /-- SCL.REG_STAT. -/
  | regStat
  /-- SCL.PIPE_CLK. -/
  | pipeClk
  /-- TIM.REF. -/
  | timRef
  /-- TIM.FREQ. -/
  | timFreq
  /-- TIM.SLEW_LEFT. -/
  | slewLeft
  /-- TIM.TS_MISSED. -/
  | tsMissed
  /-- CAP_STATUS of a capture set. -/
  | capStatus
  /-- CAP_NS of a capture set. -/
  | capNs
  /-- CAP_FRAC of a capture set. -/
  | capFrac
  /-- CAP_SEC of a capture set. -/
  | capSec
  /-- OUT_CFG of a pulse set. -/
  | outCfg
  /-- OUT_STATUS of a pulse set. -/
  | outStatus
  /-- the latencies of a TIM port set. -/
  | portLatency
  /-- AIN.SELF_ID. -/
  | selfId
  /-- AIN.TOKEN_CTRL. -/
  | tokenCtrl
  /-- AIN.TOKEN_LAST. -/
  | tokenLast
  /-- AIN.CAP_LAST. -/
  | capLast
  /-- AIN.COUNT. -/
  | ainCount
  /-- AIN.PEER_STATUS. -/
  | peerStatus
  /-- AIN.PEER_ID. -/
  | peerId
  /-- AIN.OFFSET. -/
  | ainOffset
  /-- AIN.DELAY. -/
  | ainDelay
  /-- AIN.TIME_STATUS. -/
  | ainTimeStatus
  /-- AIN.EX_TS32. -/
  | exTs32
  /-- SEC.STATUS. -/
  | secStatus
  /-- SEC.KREVOKE. -/
  | kRevoke
  /-- SEC.SLOT. -/
  | slotStatus
  /-- SEC.COUNT. -/
  | secCount
  /-- SEC.CTX0. -/
  | ctx0Status
  /-- SEC.CTX0_BITS. -/
  | ctx0Bits
  /-- CRT.POLICY. -/
  | crtPolicy
  /-- BAY_STATUS. -/
  | bayStatus
  /-- BAY_SERIAL. -/
  | baySerial
  /-- BAY_WEAR. -/
  | bayWear
  /-- BAY_FULL_MA. -/
  | bayFull
  /-- BAY_CONFLICT. -/
  | bayConflict
  /-- CH_FAILED. -/
  | chFailed
  /-- CH_FULL. -/
  | chFull
  /-- PRG status of a domain. -/
  | domCtrl
  /-- PRG.T of a domain. -/
  | domT
  /-- LAN.OCT_CFG. -/
  | octCfg
  /-- LAN.ERR. -/
  | lanErr
  /-- LAN.PORT_FLAGS. -/
  | portsUp
  /-- LAN.EVT_LANES. -/
  | evtLanes
  /-- PORT_CFG. -/
  | portCfg
  /-- PORT_STATE. -/
  | portState
  /-- EQ_NOW. -/
  | eqNow
  /-- EQ_CONFLICT. -/
  | eqConflict
  /-- FEC_CORR. -/
  | fecCorr
  /-- FEC_UNCORR. -/
  | fecUncorr
  /-- FEC_SYMBOLS. -/
  | fecSymbols
  /-- PIPE_CTRL. -/
  | pipeCtrl
  /-- PIPE_STATUS. -/
  | pipeStatus
  /-- packets that entered a pipeline. -/
  | pipeIn
  /-- packets that left a pipeline. -/
  | pipeOut
  /-- FAULT_COUNT. -/
  | faultCount
  /-- FAULT_COUNT of the tail. -/
  | tailFaults
  /-- EDIT_COUNT. -/
  | editFaults
  /-- STALL_CTRL. -/
  | stallCtrl
  /-- STALL_ECC. -/
  | stallEcc
  /-- STATE_CTRL. -/
  | stateCtrl
  /-- STATE_DATA. -/
  | stateData
  /-- METER_CTRL. -/
  | meterCtrl
  /-- METER_DATA. -/
  | meterData
  /-- PAR_CAPTURE_CTRL. -/
  | parCtrl
  /-- PAR_CAPTURE_TS. -/
  | parCaptureTs
  /-- PAR_CAPTURE. -/
  | parCapture
  /-- PAR_ECC. -/
  | parEcc
  /-- PAR_ERR_COUNT. -/
  | parErrCount
  /-- MKT.CARVE. -/
  | carve
  /-- MKT.STATUS. -/
  | mktStatus
  /-- MKT.ERR. -/
  | mktErr
  /-- MKT.DRAIN_RESERVE. -/
  | drainReserve
  /-- MKT.HDRM_RESERVE. -/
  | hdrmReserve
  /-- MKT.POOL_FREE. -/
  | poolFree
  /-- MKT.AUDIT_STATUS. -/
  | auditStatus
  /-- MKT.AUDIT_LAST. -/
  | auditLast
  /-- MKT.COUNT[0]. -/
  | mktCount0
  /-- MKT.COUNT[1]. -/
  | mktCount1
  /-- MKT.COUNT[2]. -/
  | mktCount2
  /-- MKT.COUNT[3]. -/
  | mktCount3
  /-- MKT.COUNT[4]. -/
  | mktCount4
  /-- MKT.COUNT[5]. -/
  | mktCount5
  /-- MKT.COUNT[6]. -/
  | mktCount6
  /-- MKT.COUNT[7]. -/
  | mktCount7
  /-- MKT.USED. -/
  | partUsed
  /-- QCFG.PITCH. -/
  | qcfgPitch
  /-- QCFG.OCC. -/
  | qcfgOcc
  /-- PFC_STATE. -/
  | pfcState
  /-- ING_USED. -/
  | ingUsed
  /-- HDRM_USED. -/
  | hdrmUsed
  /-- BANK_STATUS. -/
  | bankStatus
  /-- BANK_ECC. -/
  | bankEcc
  /-- SPL.ERR. -/
  | splErr
  /-- SPL.STAGING_FREE. -/
  | stagingFree
  /-- SPL.COUNT. -/
  | splCount
  /-- STACK_STATUS. -/
  | stackStatus
  /-- RETIRED_CH. -/
  | retiredCh
  /-- DIAG_CTRL. -/
  | diagCtrl
  /-- DIAG_DATA. -/
  | diagData
  /-- CH_ECC. -/
  | chEcc
  /-- PHY_STATUS. -/
  | phyStatus
  /-- QSPILL status. -/
  | qspillStatus
  /-- SCH.ERR. -/
  | schErr
  /-- PORT_Q. -/
  | portQ
  /-- PFC watchdog trips of a port. -/
  | pfcTrips
  /-- PFC frames received. -/
  | pfcRx
  /-- PFC frames sent. -/
  | pfcTx
  /-- SLOT_STATUS. -/
  | winSlotStatus
  /-- SLOT_EVENT. -/
  | winErr
  /-- the instant of an armed slot table. -/
  | winT
  /-- frames whose window had passed. -/
  | winDrops
  /-- late transmissions. -/
  | winLate
  /-- overruns of a window. -/
  | winOver
  /-- LKP_FAULTS. -/
  | lkpFaults
  /-- ECC of a hall. -/
  | hallEcc
  /-- RAW_CTRL. -/
  | rawCtrl
  /-- RAW_DATA. -/
  | rawData
  /-- the Clerk's ERR. -/
  | clkErr
  /-- FLAP_LAST. -/
  | flapLast
  /-- FLAP_TABLE. -/
  | flapTable
  /-- CLERK_COUNT. -/
  | clerkCount
  /-- DESC. -/
  | desc
  /-- HASH_CFG. -/
  | hashCfg
  /-- LDG status. -/
  | ldgStatus
  /-- the time of a snapshot. -/
  | ldgT
  /-- TAL.COUNT. -/
  | talCount
  /-- PMC.COUNT. -/
  | pmcCount
  deriving DecidableEq, Repr

/-- An address is one of those that a name stands for. -/
def RegName.at (r : RegName) (a : Nat) : Prop :=
  match r with
  | .topId => a = 0
  | .strap => a = 0x10
  | .islReset => a = aIslReset
  | .bringup => a = 0x40
  | .lcs => a = 0x50
  | .vwarn => a = aVwarn
  | .hifStatus => a = aHif 0
  | .hifErr => a = aHif 8
  | .apertureDrops => a = aHif 0x10 ∨ a = aHif 0x10 + 4
  | .ringCfg => ∃ (k : RingKind) (n : Nat), a = ringBase k n + 8
  | .ringHead => ∃ (k : RingKind) (n : Nat), a = ringBase k n + 0xC
  | .ringTail => ∃ (k : RingKind) (n : Nat), a = ringBase k n + 0x10
  | .mbCtrl => a = aHif 0x2000
  | .mbResponse => ∃ (i : Nat), a = aHif (0x2200 + 4 * i)
  | .orphanCtrl => a = aHif 0x3000
  | .orphanLog => ∃ (n : Nat), a = aHif (0x4000 + 8 * n) ∨ a = aHif (0x4000 + 8 * n) + 4
  | .orphanDword => ∃ (i : Nat), a = aHif (0x4000 + 4 * i)
  | .pba => ∃ (v : Nat), a = aHif (0x90000 + v / 32 * 4)
  | .srcCfg => ∃ (id : Nat), a = aSrc id
  | .criErr => a = aCri 0
  | .fltErr => a = aFlt 8
  | .fltRec => ∃ (id : Nat) (k : Nat), a = aFlt (0x10000 + 0x20 * id) + 4 * k
  | .fltFirst => a = aFlt 0
  | .fltCount0 => a = aFlt 0x10 ∨ a = aFlt 0x10 + 4
  | .fltCount1 => a = aFlt 0x18 ∨ a = aFlt 0x18 + 4
  | .fltCount2 => a = aFlt 0x20 ∨ a = aFlt 0x20 + 4
  | .fltCount3 => a = aFlt 0x28 ∨ a = aFlt 0x28 + 4
  | .fltCount4 => a = aFlt 0x30 ∨ a = aFlt 0x30 + 4
  | .fltCount5 => a = aFlt 0x38 ∨ a = aFlt 0x38 + 4
  | .escCfg => ∃ (id : Nat), a = aEsc id 0
  | .escActions => ∃ (id : Nat), a = aEsc id 8 ∨ a = aEsc id 8 + 4
  | .sclStatus => a = aScl 4
  | .sclErr => a = aScl 8
  | .sclAbs => a = aScl 0x14
  | .sclPower => a = aScl 0x20
  | .sclTj => a = aScl 0x24
  | .sclConflict => a = aScl 0x30
  | .energyTotal => a = aScl 0x40 ∨ a = aScl 0x40 + 4
  | .energyCommon => a = aScl 0x48 ∨ a = aScl 0x48 + 4
  | .energyHall => ∃ (h : Nat), a = aScl (0x50 + 8 * h) ∨ a = aScl (0x50 + 8 * h) + 4
  | .droop => ∃ (k : Nat), a = aScl (0xA0 + 4 * k)
  | .regCfg => ∃ (k : Nat), a = aRegulator k 0
  | .regVi => ∃ (k : Nat), a = aRegulator k 4
  | .regStat => ∃ (k : Nat), a = aRegulator k 8
  | .pipeClk => ∃ (p : Nat), a = aPipeClk p
  | .timRef => a = aTim 0
  | .timFreq => a = aTim 4
  | .slewLeft => a = aTim 0x10 ∨ a = aTim 0x10 + 4
  | .tsMissed => a = aTim 0x38 ∨ a = aTim 0x38 + 4
  | .capStatus => ∃ (c : Nat), a = aTim (0x100 + 0x20 * c) + 4
  | .capNs => ∃ (c : Nat), a = aTim (0x100 + 0x20 * c) + 8
  | .capFrac => ∃ (c : Nat), a = aTim (0x100 + 0x20 * c) + 0xC
  | .capSec => ∃ (c : Nat), a = aTim (0x100 + 0x20 * c) + 0x10 ∨ a = aTim (0x100 + 0x20 * c) + 0x10 + 4
  | .outCfg => ∃ (n : Nat), a = aTim (0x200 + 0x20 * n)
  | .outStatus => ∃ (n : Nat), a = aTim (0x204 + 0x20 * n)
  | .portLatency => ∃ (l : Nat), a = aTim (0x1000C + 0x20 * l) ∨ a = aTim (0x1000C + 0x20 * l) + 4
  | .selfId => a = aAin 8 ∨ a = aAin 8 + 4
  | .tokenCtrl => a = aAin 0x34
  | .tokenLast => a = aAin 0x40
  | .capLast => a = aAin 0x48 ∨ a = aAin 0x48 + 4
  | .ainCount => ∃ (k : Nat), a = aAin (0x100 + 8 * k) ∨ a = aAin (0x100 + 8 * k) + 4
  | .peerStatus => ∃ (l : Nat), a = aAinPort l 4
  | .peerId => ∃ (l : Nat), a = aAinPort l 8 ∨ a = aAinPort l 8 + 4
  | .ainOffset => ∃ (l : Nat), a = aAinPort l 0x18 ∨ a = aAinPort l 0x18 + 4
  | .ainDelay => ∃ (l : Nat), a = aAinPort l 0x20
  | .ainTimeStatus => ∃ (l : Nat), a = aAinPort l 0x24
  | .exTs32 => ∃ (l : Nat), a = aAinPort l 0x28
  | .secStatus => a = aSec 0
  | .kRevoke => a = aSec 4
  | .slotStatus => ∃ (k : Nat), a = aSec (0x10 + 4 * k)
  | .secCount => ∃ (k : Nat), a = aSec (0x200 + 8 * k) ∨ a = aSec (0x200 + 8 * k) + 4
  | .ctx0Status => a = aSec 0x300
  | .ctx0Bits => a = aSec 0x308 ∨ a = aSec 0x308 + 4
  | .crtPolicy => a = aCrt 0
  | .bayStatus => ∃ (c : Nat), a = aBay c 0
  | .baySerial => ∃ (c : Nat), a = aBay c 8 ∨ a = aBay c 8 + 4
  | .bayWear => ∃ (c : Nat), a = aBay c 0x10
  | .bayFull => ∃ (c : Nat), a = aBay c 0x14
  | .bayConflict => ∃ (c : Nat), a = aBay c 0x30
  | .chFailed => ∃ (c : Nat), a = aBay c 0x38 ∨ a = aBay c 0x38 + 4
  | .chFull => ∃ (c : Nat), a = aBay c 0x40 ∨ a = aBay c 0x40 + 4
  | .domCtrl => ∃ (d : Dom), a = aDom d 0
  | .domT => ∃ (d : Dom), a = aDom d 8 ∨ a = aDom d 8 + 4
  | .octCfg => ∃ (g : Nat) (o : Nat), a = aLan g (4 * o)
  | .lanErr => ∃ (g : Nat), a = aLan g 0x40
  | .portsUp => ∃ (g : Nat), a = aLan g 0x44
  | .evtLanes => ∃ (g : Nat) (j : Nat), a = aEvtLanes g j
  | .portCfg => ∃ (l : Nat), a = aPortCfg l
  | .portState => ∃ (l : Nat), a = aPortState l
  | .eqNow => ∃ (l : Nat), a = aLane l 0x20
  | .eqConflict => ∃ (l : Nat), a = aLane l 0x24
  | .fecCorr => ∃ (l : Nat), a = aLane l 0x40 ∨ a = aLane l 0x40 + 4
  | .fecUncorr => ∃ (l : Nat), a = aLane l 0x48 ∨ a = aLane l 0x48 + 4
  | .fecSymbols => ∃ (l : Nat), a = aLane l 0x50 ∨ a = aLane l 0x50 + 4
  | .pipeCtrl => ∃ (p : Nat), a = aPipe p 0
  | .pipeStatus => ∃ (p : Nat), a = aPipe p 4
  | .pipeIn => ∃ (p : Nat), a = aPipe p 0x10 ∨ a = aPipe p 0x10 + 4
  | .pipeOut => ∃ (p : Nat), a = aPipe p 0x18 ∨ a = aPipe p 0x18 + 4
  | .faultCount => ∃ (p : Nat) (k : Nat), a = aPipe p (0x20 + 8 * k) ∨ a = aPipe p (0x20 + 8 * k) + 4
  | .tailFaults => ∃ (p : Nat), a = aPipe p 0x30 ∨ a = aPipe p 0x30 + 4
  | .editFaults => ∃ (p : Nat), a = aPipe p 0x40 ∨ a = aPipe p 0x40 + 4
  | .stallCtrl => ∃ (n : Nat), a = aStall n 0
  | .stallEcc => ∃ (n : Nat), a = aStall n 8
  | .stateCtrl => ∃ (n : Nat), a = aStall n 0x10
  | .stateData => ∃ (n : Nat), a = aStall n 0x18 ∨ a = aStall n 0x18 + 4
  | .meterCtrl => ∃ (n : Nat), a = aStall n 0x100
  | .meterData => ∃ (n : Nat) (i : Nat), a = aStall n (0x110 + 4 * i)
  | .parCtrl => ∃ (g : Nat), a = aPar g 0
  | .parCaptureTs => ∃ (g : Nat), a = aPar g 16
  | .parCapture => ∃ (g : Nat), a = aPar g 8 ∨ a = aPar g 8 + 4
  | .parEcc => ∃ (g : Nat), a = aPar g 0x20
  | .parErrCount => ∃ (g : Nat) (e : Nat), a = aPar g (0x100 + 8 * e) ∨ a = aPar g (0x100 + 8 * e) + 4
  | .carve => a = aMkt 0
  | .mktStatus => a = aMkt 4
  | .mktErr => a = aMkt 8
  | .drainReserve => a = aMkt 0x10
  | .hdrmReserve => a = aMkt 0x14
  | .poolFree => ∃ (k : Nat), a = aPoolFree k
  | .auditStatus => a = aMkt 0x44
  | .auditLast => a = aMkt 0x48 ∨ a = aMkt 0x48 + 4
  | .mktCount0 => a = aMkt 0x100 ∨ a = aMkt 0x100 + 4
  | .mktCount1 => a = aMkt 0x108 ∨ a = aMkt 0x108 + 4
  | .mktCount2 => a = aMkt 0x110 ∨ a = aMkt 0x110 + 4
  | .mktCount3 => a = aMkt 0x118 ∨ a = aMkt 0x118 + 4
  | .mktCount4 => a = aMkt 0x120 ∨ a = aMkt 0x120 + 4
  | .mktCount5 => a = aMkt 0x128 ∨ a = aMkt 0x128 + 4
  | .mktCount6 => a = aMkt 0x130 ∨ a = aMkt 0x130 + 4
  | .mktCount7 => a = aMkt 0x138 ∨ a = aMkt 0x138 + 4
  | .partUsed => ∃ (p : Nat), a = aUsed p
  | .qcfgPitch => ∃ (q : Nat), a = aQcfg q 8
  | .qcfgOcc => ∃ (q : Nat), a = aQcfg q 0xC
  | .pfcState => ∃ (l : Nat), a = aMPort l 8
  | .ingUsed => ∃ (l : Nat) (n : Nat), a = aIngUsed l n
  | .hdrmUsed => ∃ (l : Nat) (n : Nat), a = aHdrmUsed l n
  | .bankStatus => ∃ (b : Nat), a = aBank b 0
  | .bankEcc => ∃ (b : Nat), a = aBank b 4
  | .splErr => a = aSpl 8
  | .stagingFree => a = aSpl 0x14
  | .splCount => ∃ (k : Nat), a = aSpl (0x40 + 8 * k) ∨ a = aSpl (0x40 + 8 * k) + 4
  | .stackStatus => ∃ (m : Nat), a = aStack m 0
  | .retiredCh => ∃ (m : Nat), a = aStack m 4
  | .diagCtrl => ∃ (m : Nat), a = aStack m 0x20
  | .diagData => ∃ (m : Nat) (i : Nat), a = aDiag m i
  | .chEcc => ∃ (m : Nat) (c : Nat), a = aChEcc m c
  | .phyStatus => ∃ (m : Nat), a = aPhy m
  | .qspillStatus => ∃ (q : Nat), a = aQspill q 8
  | .schErr => ∃ (g : Nat), a = aSch g 0
  | .portQ => ∃ (l : Nat), a = aSPort l 0
  | .pfcTrips => ∃ (l : Nat), a = aSPort l 0x28 ∨ a = aSPort l 0x28 + 4
  | .pfcRx => ∃ (l : Nat), a = aSPort l 0x30 ∨ a = aSPort l 0x30 + 4
  | .pfcTx => ∃ (l : Nat), a = aSPort l 0x38 ∨ a = aSPort l 0x38 + 4
  | .winSlotStatus => ∃ (l : Nat), a = aSlot l 0
  | .winErr => ∃ (l : Nat), a = aSlot l 4
  | .winT => ∃ (l : Nat), a = aSlot l 0x10 ∨ a = aSlot l 0x10 + 4
  | .winDrops => ∃ (l : Nat), a = aSlot l 0x18 ∨ a = aSlot l 0x18 + 4
  | .winLate => ∃ (l : Nat), a = aSlot l 0x20 ∨ a = aSlot l 0x20 + 4
  | .winOver => ∃ (l : Nat), a = aSlot l 0x28 ∨ a = aSlot l 0x28 + 4
  | .lkpFaults => ∃ (h : Nat), a = aTbl h 0 ∨ a = aTbl h 0 + 4
  | .hallEcc => ∃ (h : Nat), a = aTbl h 8
  | .rawCtrl => ∃ (h : Nat), a = aTbl h 0x100
  | .rawData => ∃ (h : Nat) (i : Nat), a = aTbl h (0x140 + 4 * i)
  | .clkErr => a = aClk 4
  | .flapLast => a = aClk 0x18
  | .flapTable => a = aClk 0x1C
  | .clerkCount => ∃ (k : Nat), a = aClk (0x100 + 8 * k) ∨ a = aClk (0x100 + 8 * k) + 4
  | .desc => ∃ (t : Nat) (w : Nat), a = aDesc t w
  | .hashCfg => ∃ (k : Nat), a = aClk (0x2000 + 4 * k)
  | .ldgStatus => a = aLdg 0
  | .ldgT => ∃ (b : Nat), a = aLdg (0x10 + 8 * b) ∨ a = aLdg (0x10 + 8 * b) + 4
  | .talCount => ∃ (k : Nat), a = aTal (0x900 + 8 * k) ∨ a = aTal (0x900 + 8 * k) + 4
  | .pmcCount => ∃ (n : Nat), a = aPmcCount n

/-- An address is one of those that the names of a list stand for. -/
def RegIn (rs : List RegName) (a : Nat) : Prop := ∃ r ∈ rs, r.at a

/-- From `s` to `t` no register changes but those that the listed names stand for. -/
def RegsOnly (rs : List RegName) (s t : State) : Prop := ∀ a, ¬ RegIn rs a → reg t a = reg s a

/-- The frame of a command: from `s` to `t` only the listed parts change and, of the registers, only those named. -/
def Frame (ps : List Part) (rs : List RegName) (s t : State) : Prop := Only ps s t ∧ RegsOnly rs s t

/-- A command carried out in `s` answers a next state, and `P` holds of it. -/
def Completes (i : Instr) (s : State) (P : State → Prop) : Prop := ∃ t, exec i s = .next t ∧ P t

/-- The STATE registers of the nine cartridge bays. -/
def bayRegs : List Nat := (List.range 9).map fun c => aBay c 0

/-- `t` is the part as a cold reset that begins in `s` leaves it (R23, R33, R44, R45, R51): in reset, with its cause recorded, every
other register at its reset value but TOP.ID, TOP.STRAP, the bays' pins and what `more` lists, every land in its reset state, with
VDD_IO below its minimum or not, and every store wiped but the fuses, the flash, the journal and what stands at the lands. -/
def ColdResetFrom (cause : Nat) (more : List Nat) (io : Bool) (s t : State) : Prop :=
  t.top = { Top.reset with
    fuses := s.top.fuses, flash := s.top.flash, lands := { Lands.reset with ioLow := io } }
  ∧ t.journal = s.journal
  ∧ t.top.inReset = true
  ∧ regBit t aResetCause cause = true
  ∧ (∀ i, i ≠ cause → regBit t aResetCause i = regBit s aResetCause i)
  ∧ reg t 0 = reg s 0
  ∧ reg t 0x10 = reg s 0x10
  ∧ RegsBut ([0, 0x10, aResetCause] ++ bayRegs ++ more) State.reset t
  ∧ Only [.pending, .regs, .elapsed, .freeCtr, .journal, .top, .hif, .scales, .bays, .out] State.reset t
  ∧ Only [.regs, .prog, .clock, .lastRaise, .top, .hif, .prg, .ports, .pipes, .tables, .clerk, .market, .spill, .sched, .slots, .pulses,
      .ainum, .telem, .crier, .flt, .scales, .activity, .bays, .sec] s t

/-- A completion of command `c` with a status stands last among those that wait for its completion ring (R85). -/
def Reports (c : HostCmd) (status : Nat) (t : State) : Prop :=
  ∃ x, t.hif.completions.getLast? = some x ∧ x.2.cr = c.cr ∧ x.2.index = c.index ∧ x.2.tag = c.tag ∧ x.2.status = status

/-- The same with its RESULT. -/
def Answers (c : HostCmd) (status : Nat) (result : List Byte) (t : State) : Prop :=
  ∃ x, t.hif.completions.getLast? = some x ∧ x.2.cr = c.cr ∧ x.2.index = c.index ∧ x.2.tag = c.tag ∧ x.2.status = status
    ∧ x.2.result = sliceZ result 0 16

/-- The mailbox request `m` that a core has taken in `s` has its answer in `t`: the response with BUSY 0 and source 0x160 (R96), or,
for a request that a PERST_N reset left, an orphan-log entry where the log has room (R98, R101). -/
def Responds (s t : State) (m : MailReq) (status : Nat) : Prop :=
  t.hif.oldMail = none
  ∧ (s.hif.oldMail = none → t.hif.mail = none ∧ regBit t (aHif 0x2000) 1 = false ∧ 0x160 ∈ t.crier.pend
      ∧ reg t (aHif 0x2200) = BitVec.ofNat 32 (m.code % 65536 + m.tag % 65536 * 65536)
      ∧ reg t (aHif 0x2204) = BitVec.ofNat 32 (status % 256))
  ∧ (s.hif.oldMail ≠ none → regF s (aHif 0x3000) 10 0 < 1024 → regF t (aHif 0x3000) 10 0 = regF s (aHif 0x3000) 10 0 + 1
      ∧ reg t (aHif (0x4000 + 8 * regF s (aHif 0x3000) 10 0)) = BitVec.ofNat 32 (m.tag % 65536 + 0xFF * 65536 + 0xFF * 2 ^ 24)
      ∧ reg t (aHif (0x4000 + 8 * regF s (aHif 0x3000) 10 0) + 4) = BitVec.ofNat 32 (status % 256))

/-- The blob of an LCS_CHANGE request, and the checks 1 to 3 of R482 on it. -/
def lcsBlob (m : MailReq) : List Byte := sliceZ m.area 16 240
def lcsBad (m : MailReq) : Bool := mailBad m || lcsMalformed (leAt m.area 8 1) (leAt m.area 12 2) (lcsBlob m)
def lcsForbidden (s : State) (m : MailReq) (dest : LcState) : Bool :=
  leAt (lcsBlob m) 4 1 != lcsCode s.top.fuses.lcs || !lcsStep s.top.fuses.lcs dest
    || (dest == .debug && !isE1 s && leAt (lcsBlob m) 6 1 == 1)
def lcsProved (s : State) (m : MailReq) (dest : LcState) : Bool :=
  blobId s (lcsBlob m) && signerOk s dest (leAt (lcsBlob m) 6 1) && ownerKeyOk s (lcsBlob m) && blobSig s (lcsBlob m)

/-- Command `c` may start now as the form `row`: its OPCODE and form field choose that form (R88), the part has fetched it since the
last PERST_N reset and it has not started (R90), the ring's order lets it (R91, R92), and what it waits for is there (R47, R53). -/
def Ready (s : State) (c : HostCmd) (row : CmdRow) : Prop :=
  s.hif.oldBell < c.bell ∧ rowOf c = some row ∧ waits s c = true ∧ canStart s c = true ∧ gateOpen s (gateOf row) = true

/-- An access to the register at `a` waits at the crossing into its island (R41, R42, R48, R241). -/
def shut (s : State) (a : Nat) : Bool := crossingShut s (islandAt a) || (islandAt a == 112 && clerkWrites s)

/-- The Clerk runs and has nothing else to do, so that an operation which reaches it is issued at once (R251, R253). -/
def ClerkFree (s : State) : Prop :=
  islandDown s 112 = false ∧ s.prg.ing.retireTodo = [] ∧ s.prg.egr.retireTodo = [] ∧ s.clerk.restore = [] ∧ s.clerk.host = []
    ∧ s.clerk.repair = [] ∧ s.clerk.learn = [] ∧ s.clerk.age = [] ∧ s.clerk.remove = []

/-- The state in which such a Clerk carries out a host command: the command has started, and the class HOST is served. -/
def clerkTaken (s : State) (c : HostCmd) : State :=
  { setPhase s c .started with clerk := { s.clerk with host := [], lastClass := 0 } }

/-- A table command is carried out and waits to be in force, with the completion that its rule gives (R252, R261). -/
def Carried (s : State) (c : HostCmd) (t : State) : Prop :=
  t.clerk.inFlight = s.clerk.inFlight
      ++ [{ before := s.tables, old := [], seen := 0, age := none, done := some (c, (tblRun (clerkTaken s c) c).2), write := false }]
    ∧ t.tables = (tblRun (clerkTaken s c) c).1.tables

/-- A table command has reached the Clerk: a free Clerk carries it out, and one that has commands before it, or is in reset, keeps it
with them (R251, R253). -/
def Posted (s : State) (c : HostCmd) (t : State) : Prop :=
  (ClerkFree s → Carried s c t)
  ∧ (s.clerk.host ≠ [] ∨ islandDown s 112 = true → t.clerk.host = s.clerk.host ++ [.cmd c] ∧ t.tables = s.tables)

/-- A received message of a TYPE is accepted on a port (R386, R388, R389, R391). -/
def Accepted (s : State) (l type : Nat) (m : AinMsg) : Prop := m.type = type ∧ (ainReceive s l m).2 = true

/-- The blocks of a message as it leaves a port: head, payload, and the CRC or the three blocks of the tag (R388, R391). -/
def ainStream (s : State) (l : Nat) (f : AinMsg) : List Nat :=
  let tag := ainTag ((getAin s l).linkKey.getD []) (selfLower s l) (getAin s l).txCtr f
  ainHead f :: ((List.range f.len).map (fun i => nbits f.payload (24 * (f.len - i) - 1) (24 * (f.len - 1 - i)))
    ++ (if ainAuth s && f.type != 1 then [nbits tag 71 48, nbits tag 47 24, nbits tag 23 0] else [ainCrc f]))

/-- t2 of an exchange as its reply carries it, and twice the mean delay, (t4 - t1) - (t3 - t2), in 2^-16 ns (R394). -/
def exchT2 (m : AinMsg) : Int := (bitsStamp (nbits m.payload 191 96) : Nat)
def exchTwice (s : State) (l t1 : Nat) (t4 : Stamp) (m : AinMsg) : Int :=
  ((ingressStamp s l t4 : Nat) - (t1 : Int)) - ((bitsStamp (nbits m.payload 95 0) : Nat) - exchT2 m)

/-- DELAY and OFFSET of an exchange, its mean rounded down (`half` 0) or up (`half` 1), which R394 leaves open (log 1). -/
def ExchEnds (s t : State) (l t1 half : Nat) (t4 : Stamp) (m : AinMsg) : Prop :=
  (reg t (aAinPort l 0x20)).toNat = ofSigned 32 ((exchTwice s l t1 t4 m + half) / 2)
  ∧ reg64 t (aAinPort l 0x18)
    = ofSigned 64 (exchT2 m - t1 - (exchTwice s l t1 t4 m + half) / 2 - toSigned 32 (reg s (aAinPort l 0x10)).toNat)

/-- The instant of a TOKEN in ns, and whether one of its number and instant was accepted in the last 10 s (R397, R398). -/
def tokenNs (m : AinMsg) : Nat := nbits m.payload 87 40 * nsPerSec + nbits m.payload 39 10
def knownToken (s : State) (m : AinMsg) : Bool :=
  s.ainum.tokens.any fun x => decide (s.elapsed < x.2.2 + 10000000000) && x.1 == nbits m.payload 119 88 && x.2.1 == tokenNs m

/-- The ports that TOKEN_CTRL.GO sends on: DOWN and PEER ports that have a peer (R397). -/
def goPorts (s : State) : List Nat := (peerPorts s).filter fun l => ainRole s l == 2 || ainRole s l == 3

/-- The state in which export sends a closed message: the messages after it still wait. -/
def sending (s : State) (rest : List (List ExpRec)) : State := { s with telem := { s.telem with closed := rest } }

/-- The UDP payload of an export message is sealed, where SEAL asks for it, and its frame is admitted (R414). -/
def exportSent (s : State) (m : List Byte) : Bool :=
  match (sealMessage s m).2 with
  | none => false
  | some b => (exportAdmit (sealMessage s m).1 (exportFrame (sealMessage s m).1 b)).2

/-- The vector, or the firmware source, that a dispatch commits: the highest priority, a vector first at equal ones (R428, R431). -/
def takesVec (s : State) : Option Nat :=
  (bestOf (vecCands s)).bind fun v => if (bestOf (coreCands s)).all (fun c => decide (c.1 ≤ v.1)) then some v.2 else none
def takesCore (s : State) : Option Nat :=
  (bestOf (coreCands s)).bind fun c => if (bestOf (vecCands s)).all (fun v => decide (v.1 < c.1)) then some c.2 else none

/-- The action list of a source runs, its action `n` next, not cancelled and waiting for no island (R437). -/
def Running (s : State) (src n : Nat) : Prop :=
  s.flt.lists.find? (·.source == src) = some { source := src, next := n, cancelled := false, waitIsland := none }

/-- Such a list begins an action of a code with its ARG. -/
def Acting (s : State) (src n code arg : Nat) : Prop := Running s src n ∧ nextAction s src = some (code, arg)

/-- No source but `src` has its escalation enabled, and nothing is left that firmware owes the journal (R435, R436). -/
def EscAlone (s : State) (src : Nat) : Prop := (∀ id, id ≠ src → regBit s (aEsc id 0) 31 = false) ∧ s.owed = []

/-- An action of a source's list is done (R437): the next one follows, or the fourth ends the list, with source 0xE01. -/
def Moves (t : State) (src n : Nat) : Prop :=
  (n ≠ 3 → Running t src (n + 1)) ∧ (n = 3 → 0xE01 ∈ t.crier.pend)

/-- What a poll of `s` leaves for an entry: its reads with the page that it names, and the values of its device's answer, or STALE (R443,
R444). -/
def pollShows (answers : List RegulatorAnswer) (s t : State) (k : Nat) : Bool :=
  t.scales.polled.contains k
  && t.out.contains (.pmbusRead (regF s (aRegulator k 0) 30 30) (regF s (aRegulator k 0) 29 23) (entryPage s k))
  && match (entryAnswer s k answers).bind answerValues with
    | some (mv, ma, deg) => !regBit t (aRegulator k 4) 31 && regF t (aRegulator k 4) 15 0 == mv
        && regF t (aRegulator k 4) 23 16 == deg && regF t (aRegulator k 8) 20 0 == ma
    | none => regBit t (aRegulator k 4) 31

/-- The state in which the loop of R450 looks at the cap: deferrals of 2 ms or whose span is over have ended, the throttle has taken the
cuts that it may, steps follow their bounds, and those that a limit lowered are restored. -/
def loopState (s : State) : State :=
  let late := (s.scales.deferrals.filter fun d => deferredUs s d == 2000).map (·.pipe)
  restoreSteps (stepBounds (throttleCuts (forEach (s.scales.deferrals.map (·.pipe)) endDeferral (forEach late forceDeferral s))))

/-- Each VDD_CORE regulator has been given its share of ABS_A (R453). -/
def warned (s t : State) (amps : Nat) : Bool :=
  (coreEntries s).all fun k => t.out.contains (.ocWarnLimit k (amps / (coreEntries s).length))

/-- The hottest of the 13 die sensors (R457), and a hall's share of an interval's energy (R459, R460). -/
def hottest (sensors : List Nat) : Nat := ((List.range 13).map fun i => sensors.getD i 0).foldl max 0
def hallShare (s : State) (h : Nat) : Nat :=
  shareOf s (s.scales.energy / 1000000000) ((s.scales.parts.filter fun x => partHall x.1 == some h).foldl (fun n x => n + x.2) 0)

/-- The clear record that CTX_RESTORE brings: as given, or unwrapped (R471, R472). -/
def clearRecord (s : State) (c : HostCmd) : Option (List Byte) :=
  if argN c 1 1 = 0 then some (sliceZ c.data 0 c.dataLen)
  else (wrapKey s c).bind fun k => Config.unwrap 0 k (sliceZ c.data 0 c.dataLen)

/-- What fuses may become (R8, R9, R56, R59, R480): the part identity stays, anti-rollback floors never fall, the life-cycle state
stays or takes a permitted transition, and a burned fuse stays burned: those of the states entered, and K_REVOKE. -/
def FusesGe (g f : Fuses) : Prop :=
  f.variant = g.variant ∧ f.selfId = g.selfId ∧ g.fwFloor ≤ f.fwFloor ∧ g.patchFloor ≤ f.patchFloor
  ∧ (f.lcs = g.lcs ∨ lcsStep g.lcs f.lcs = true)
  ∧ g.states <:+ f.states ∧ f.slowLanes = g.slowLanes ∧ f.weights = g.weights ∧ (∀ i : Nat, g.kRevoke.getLsbD i = true → f.kRevoke.getLsbD i = true)

/-- A life-cycle transition that has been accepted and waits to begin is a permitted one (R56). -/
def JobPermitted (s : State) : Prop := ∀ j, s.top.lcsJob = some j → lcsStep s.top.fuses.lcs j.target = true

/-- The addressed memories are in their canonical form: the program stores (R103), the octets of host-owned buffers (R95), the
page cells of HBM (R308) and the host partition of the journal (R65). -/
def memWf (s : State) : Bool :=
  mapWf (fun _ => 0) s.prog && mapWf (fun _ => 0) s.hif.buf && mapWf (fun _ => []) s.spill.hbm && mapWf (fun _ => 0) s.journal.host

/-- The fields of the clock are in their ranges (R349), and the remainder that it carries is below one unit of FRAC (R352). -/
def ClockInRange (c : Clock) : Prop := c.sec < 2 ^ 48 ∧ c.ns < nsPerSec ∧ c.frac < 2 ^ 16 ∧ c.rem < 1000000000

/-- The invariant that every step keeps: the register store and the addressed memories are in their canonical form, and an
accepted transition is permitted. -/
def Inv (s : State) : Prop := regsWf s.regs = true ∧ memWf s = true ∧ JobPermitted s

end Sys2Proof.Machine
end

