-- ==== Sys2Proof/Certificates/Slice0/Obligations.lean ====
section
/-!
DEFINITION. The statements for the provers: what a step does, what every step keeps, rules of the whole part, what each
command does where it completes, and what it leaves unchanged.
-/
open Sys2Proof Sys2Proof.Machine

/-- A step takes the command at the front of the queue and carries it out on the state with the queue's rest. -/
def Obligations.StepRunsFrontCommand : Prop :=
  ∀ (c : Instr) (rest : List Instr) (s : State), s.pending = c :: rest → step s = exec c { s with pending := rest }

/-- On an empty queue a step lets one clock of the time island pass (the model's choice, log 2; R352, R420): the queue stays empty, an
instant goes by, and no part changes but the clock, the slew left to show, and a snapshot that is due. -/
def Obligations.EmptyQueueTicks : Prop :=
  ∀ (s : State), s.pending = [] → ∃ t, step s = .next t ∧ t.pending = [] ∧ t.elapsed = s.elapsed + 1 ∧ t.clock = clkTick s
    ∧ Only [.regs, .clock, .elapsed, .telem] s t ∧ RegsBut [aTim 0x10, aTim 0x14] s t

/-- The state after reset meets the invariant. -/
def Obligations.ResetMeetsInvariant : Prop := Inv State.reset

/-- Every step keeps the invariant: the register store and the addressed memories stay in canonical form (program stores R103,
host-owned buffers R95, page cells R308, the host partition of the journal R65), and a life-cycle transition that waits to begin is a
permitted one (R56). -/
def Obligations.StepKeepsInvariant : Prop :=
  ∀ (s t : State), Inv s → step s = .next t → Inv t

/-- Every command answers a next state, and none changes the queue of the commands that wait or the time that has gone by. -/
def Obligations.CommandsLeaveQueueAndTime : Prop :=
  ∀ (c : Instr) (s : State), Completes c s fun t => t.pending = s.pending ∧ t.elapsed = s.elapsed

/-- Fuses only move forward (R8, R9, R56, R59, R480): from every state that meets the invariant a step keeps the part's identity, never
lowers an anti-rollback floor, never unburns a fuse of a state entered or of K_REVOKE, and leaves the life-cycle state as it is or
takes it over a permitted transition; RETIRED, which has no transition out, stays. -/
def Obligations.FusesOnlyForward : Prop :=
  ∀ (s t : State), Inv s → step s = .next t →
    FusesGe s.top.fuses t.top.fuses ∧ (s.top.fuses.lcs = .retired → t.top.fuses.lcs = .retired)

/-- What reset leaves (R13, R21, R45, R52): the part is held in reset with no command waiting, no BRINGUP bit set, every register at its
reset value, no island in island reset, PERST_N low at the host interface, the clock stopped, the Market, the tables and the ports
empty, every land in its reset state, nothing pending, and nothing sent. What the fuses and the flash hold there is the model's choice (log 3). -/
def Obligations.ResetLeaves : Prop :=
  State.reset.top.inReset = true ∧ State.reset.pending = [] ∧ (∀ i : Nat, i < 10 → bringup State.reset i = false)
  ∧ (∀ a : Nat, reg State.reset a = resetWord a) ∧ State.reset.top.islands = [] ∧ State.reset.hif.perst = true
  ∧ State.reset.clock.running = false ∧ State.reset.top.lands = Lands.reset ∧ State.reset.owed = []
  ∧ State.reset.market.queues = [] ∧ State.reset.tables.entries = [] ∧ State.reset.ports = []
  ∧ State.reset.crier.pend = [] ∧ State.reset.out = [] ∧ regF State.reset (aSrc 5) 31 0 = 0 ∧ regF State.reset (aEsc 5 0) 30 29 = 0

/-- The opcode table gives no row any bits, so no word spells a command, and placing a word leaves the state alone. -/
def Obligations.NoWordSpellsACommand : Prop :=
  ∀ (nbits w : Nat) (s : State), decodeTableWord nbits w = none ∧ s.withFetchWord nbits w = s

/-- R55: a bit of TOP.BRINGUP clears only under the conditions that the rule lists, and there it does: a cold or life-cycle reset
clears every bit; a control reset clears FW; an HBM PHY island reset or a stack loss clears that stack's bit; the loss of the time
reference clears TIME_LOCK. Said over every command and every state. -/
def Obligations.BringupClearsOnly : Prop :=
  ∀ (c : Instr) (s t : State), exec c s = .next t →
    (∀ i : Nat, i < 10 → bringup s i = true → bringup t i = false →
      t.top.inReset = true ∨ (i = 3 ∧ t.top.controlReset = true)
      ∨ (∃ m : Nat, m < 2 ∧ i = 5 + m ∧ (122 + m ∈ t.top.islands ∨ stackLostBit t m = true))
      ∨ (i = 7 ∧ regBit t (aTim 0) 31 = false))
    ∧ (s.top.inReset = false → t.top.inReset = true → ∀ i : Nat, i < 10 → bringup t i = false)
    ∧ (s.top.controlReset = false → t.top.controlReset = true → bringup t 3 = false)
    ∧ (∀ m : Nat, m < 2 → 122 + m ∉ s.top.islands → 122 + m ∈ t.top.islands → bringup t (5 + m) = false)
    ∧ (∀ m : Nat, m < 2 → stackLostBit s m = false → stackLostBit t m = true → bringup t (5 + m) = false)
    ∧ (regBit s (aTim 0) 31 = true → regBit t (aTim 0) 31 = false → bringup t 7 = false)

/-- R352: each time-island clock adds the period, 1 ns corrected by FREQ in 2^-12 ppb and by the slew term of R353, and the remainder
below 2^-16 ns is carried, so that in units of 2^-16 ns x 10^-9 nothing is lost or gained; a write of FREQ never steps the clock. -/
def Obligations.ClockAddsThePeriod : Prop :=
  (∀ (s : State), s.pending = [] → s.clock.running = true → s.clock.sec < 2 ^ 48 - 2 → s.clock.ns < 1000000000 → s.clock.frac < 65536 →
      s.clock.rem < 1000000000 →
    ∃ t, step s = .next t ∧ t.clock.ns < 1000000000 ∧ t.clock.frac < 65536 ∧ t.clock.rem < 1000000000
      ∧ (((((t.clock.sec * 1000000000 + t.clock.ns) * 65536 + t.clock.frac) * 1000000000 + t.clock.rem : Nat)) : Int)
        = ((((s.clock.sec * 1000000000 + s.clock.ns) * 65536 + s.clock.frac) * 1000000000 + s.clock.rem : Nat) : Int)
          + 65536 * 1000000000 + 16 * toSigned 32 (reg s (aTim 4)).toNat + slewTerm s)
  ∧ (∀ (value : Word) (s : State), s.top.inReset = false → shut s (aTim 4) = false →
    Completes (.freqWrite value) s fun t => reg t (aTim 4) = value ∧ t.clock = s.clock)

/-- The fields of the clock stay in their ranges (R349): NS below 1,000,000,000, SEC in 48 bits, FRAC in 16, and the carried remainder
of R352 below 2^-16 ns: at reset, and over every step from every state where they are. -/
def Obligations.ClockStaysInRange : Prop :=
  ClockInRange State.reset.clock ∧ ∀ (s t : State), ClockInRange s.clock → step s = .next t → ClockInRange t.clock

/-- R397: a write of GO sends TOKEN with hop count 0, and the id, seconds and nanoseconds of the registers, on every DOWN and PEER
port that has a peer, and acts on the token at once as R120 does; GO written while BUSY = 1 is ignored. -/
def Obligations.TokenGoSendsAndActs : Prop :=
  (∀ (s : State), s.top.inReset = false → shut s (aAin 0x34) = false → regBit s (aAin 0x34) 30 = false →
    Completes .tokenGo s fun t =>
      t.prg = (tokenArrive (setBit s (aAin 0x34) 30 true) (reg s (aAin 0x20)).toNat (reg64 s (aAin 0x28) % 2 ^ 48 * nsPerSec + regF s (aAin 0x30) 29 0)).prg
      ∧ ∀ l ∈ goPorts s, mkMsg 7 5 0 ((reg s (aAin 0x20)).toNat * 2 ^ 88 + reg64 s (aAin 0x28) % 2 ^ 48 * 2 ^ 40
          + regF s (aAin 0x30) 29 0 * 1024) ∈ (getAin t l).pend)
  ∧ (∀ (s : State), s.top.inReset = false → shut s (aAin 0x34) = false → regBit s (aAin 0x34) 30 = true →
    Completes .tokenGo s fun t => Only [] s t)

/-- R165: a wanted current that lies outside the range is written with its channel to CONFLICT and raises source 0x4B0 + c, at most
once per 100 ms for a bay; a channel that HWMAX_MA alone holds raises nothing. -/
def Obligations.CartridgePolicyConflict : Prop :=
  (∀ (bay ch want : Nat) (s : State), bay < 9 → ch < 64 → intervalOver s (0x4B0 + bay) 100000000 = true →
      curClamp s bay ch (min want (bayCal s bay ch).2) ≠ min want (bayCal s bay ch).2 →
    Completes (.cartPolicyConflict bay ch want) s fun t => regF t (aBay bay 0x30) 31 26 = ch ∧ regF t (aBay bay 0x30) 15 0 = want % 65536
      ∧ 0x4B0 + bay ∈ t.crier.pend ∧ intervalOver t (0x4B0 + bay) 100000000 = false)
  ∧ (∀ (bay ch want : Nat) (s : State), intervalOver s (0x4B0 + bay) 100000000 = false →
    Completes (.cartPolicyConflict bay ch want) s fun t => Only [] s t)
  ∧ (∀ (bay ch want : Nat) (s : State), curClamp s bay ch (min want (bayCal s bay ch).2) = min want (bayCal s bay ch).2 →
    Completes (.cartPolicyConflict bay ch want) s fun t => Only [] s t)

/-- R151: light that stays low at an input sets the EVT_LANES_7 bits of its four lanes, and a step-up under R153, where the partner
share is live, sets no lane event. -/
def Obligations.LightLowMarksFourLanes : Prop :=
  (∀ (g input : Nat) (s : State), g < 36 → input < 8 →
    Completes (.lightLow g input) s fun t => ∀ k : Nat, k < 32 →
      regBit t (aEvtLanes g 7) k = (regBit s (aEvtLanes g 7) k || decide (k / 4 = input)))
  ∧ (∀ (bay ch : Nat) (s : State), bay < 9 → ch < 64 → chLive s bay ch = true → chLive s (partner bay ch).1 (partner bay ch).2 = true →
    Completes (.shareFailed bay ch) s fun t => ∀ g j : Nat, g < 36 → j < 8 → reg t (aEvtLanes g j) = reg s (aEvtLanes g j))

/-- R430: VEC_EOI ends the vector's service, and every source active on it leaves the active state; sources raised meanwhile stay
pending and counted; a level source whose line stands is pending again and counts one event; for a vector that is not in service the
write is ignored. -/
def Obligations.VecEoiEndsService : Prop :=
  (∀ (v : Nat) (s : State), v < 2048 → s.top.inReset = false → shut s (aVec v 8) = false → (getVec s v).inService = true →
    Completes (.vecEoi v) s fun t => (getVec t v).inService = false ∧ (∀ x, x ∈ t.crier.active ↔ x ∈ s.crier.active ∧ x.2 ≠ v)
      ∧ (∀ id, id ∈ t.crier.pend ↔ id ∈ s.crier.pend ∨ ((id, v) ∈ s.crier.active ∧ id ∈ s.crier.line))
      ∧ (∀ w, (getVec s w).counted ≤ 65535 → (getVec t w).counted = min 65535 ((getVec s w).counted
          + (((s.crier.active.filter (·.2 == v)).map (·.1)).filter fun id => s.crier.line.contains id && targets s w id).length)))
  ∧ (∀ (v : Nat) (s : State), s.top.inReset = false → shut s (aVec v 8) = false → (getVec s v).inService = false →
    Completes (.vecEoi v) s fun t => Only [] s t)

/-- Supply and reset lands. SYS_RST_N low for 10 µs or more starts a cold reset with cause bit 0, and up to 1 µs changes nothing
(R44). A rail that stays below its reset threshold for its filter time starts a cold reset with its own cause bit (R44, R45, R61):
VDD_MKT, VDD_IO (which then stands below its minimum at the lands, R23), VDD_CORE, whose excursion stays recorded in VWARN (R62), and
VDD_AON, which clears the causes recorded before it (R51). A VDD_CORE warning stretches every island that has a detector, VWARN.COUNT
shows the warnings of the last 1 s up to 8, and the eighth raises source 0x001 (R62, R63). The end of the excursion records its lowest
voltage and its length and raises source 0x000 (R62). -/
def Obligations.SupplyCommandsComplete : Prop :=
  (∀ (lowNs : Nat) (s : State), 10000 ≤ lowNs →
    Completes (.sysRstNLow lowNs) s fun t => ColdResetFrom 0 [] s.top.lands.ioLow s t)
  ∧ (∀ (lowNs : Nat) (s : State), lowNs ≤ 1000 → Completes (.sysRstNLow lowNs) s fun t => t = s)
  ∧ (∀ (mv ns : Nat) (s : State), mv < 700 → 1000 ≤ ns →
    Completes (.supplyBelowResetThreshold .mkt mv ns) s fun t => ColdResetFrom 3 [] s.top.lands.ioLow s t)
  ∧ (∀ (mv ns : Nat) (s : State), mv < 1600 → 1000 ≤ ns →
    Completes (.supplyBelowResetThreshold .io mv ns) s fun t => ColdResetFrom 4 [] true s t)
  ∧ (∀ (mv ns : Nat) (s : State), mv < 600 → 20 ≤ ns →
    Completes (.supplyBelowResetThreshold .core mv ns) s fun t =>
      ColdResetFrom 2 [0x60] s.top.lands.ioLow s t ∧ regF t 0x60 25 16 = mv ∧ regF t 0x60 15 0 = min 65535 (ns / 10))
  ∧ (∀ (mv ns : Nat) (s : State), mv < 700 → 1000 ≤ ns →
    Completes (.supplyBelowResetThreshold .aon mv ns) s fun t =>
      t.top.inReset = true ∧ t.top.fuses = s.top.fuses ∧ t.top.flash = s.top.flash ∧ t.journal = s.journal ∧ reg t aResetCause = 0x20
      ∧ RegsBut ([0, 0x10, aResetCause] ++ bayRegs) State.reset t)
  ∧ (∀ (mv ns : Nat) (s : State), Inv s → 600 ≤ mv → mv < 660 → 20 ≤ ns → s.top.inReset = false →
    Completes (.vddCoreWarning mv ns) s fun t =>
      t.top.warning = true ∧ t.top.warnStarts = recentWarnings s ++ [s.elapsed]
      ∧ fget (regView t 0x60) 31 28 = min 8 t.top.warnStarts.length
      ∧ (∀ n : Nat, n < 129 → hasDetector n = true → n ∈ t.scales.stretched)
      ∧ (8 ≤ t.top.warnStarts.length → 0x001 ∈ t.crier.pend))
  ∧ (∀ (minMv durNs : Nat) (s : State), Inv s → s.top.warning = true →
    Completes (.vddCoreWarningEnd minMv durNs) s fun t =>
      t.top.warning = false ∧ regF t 0x60 25 16 = minMv % 1024 ∧ regF t 0x60 15 0 = min 65535 (durNs / 10) ∧ 0x000 ∈ t.crier.pend)

/-- Bring-up (Table ISL-7). At t0 the straps are sampled (R33), reserved or forbidden boot codes are ignored with source 0x004 (R35), the
lands leave the state of a low VDD_IO, and the islands that an absent REFCLK pair 1, 2 or 3 feeds stay in reset (R40). Fuse load shows
the fuses in their registers and sets its BRINGUP bit with source 0x003 (R52). With every clock present the clocks lock: two bits set,
the clock runs, and each bank that failed its wipe is retired (R52, R299). The table wipe opens staging in both domains, after which the
held commands go on (R53). A trained PHY retires the channels that failed, and its wipe starts unless two are retired, where the stack has
not been wiped, and where it has it returns with its contents (R323); the end of the wipe gives zeros and a full free list, raises 0x806 and
makes the stack usable, unless two channels are retired, which leaves it lost (R321, R323).
Firmware that verifies starts, with BRINGUP.FW and source 0x003, and what waited for it goes on; with none source 0xD00 is raised (R52).
JTAG lets the cores go, which from the clocks' lock take over the flash's lands; TDO is taken over with it, by the model's choice (log 81). -/
def Obligations.BringUpCompletes : Prop :=
  (∀ (straps : BitVec 5) (refclks : BitVec 4) (s : State), Inv s → s.top.inReset = true →
    Completes (.coldResetRelease straps refclks) s fun t =>
      t.top.inReset = false ∧ t.top.lands.ioLow = false ∧ (reg t 0x10).toNat = straps.toNat ∧ regBit t (aTim 0) 0 = straps.getLsbD 3
      ∧ (t.top.jtagHold = true ↔ straps.toNat % 4 = 2 ∧ (isE1 s = true ∨ inDebug s = true))
      ∧ (2 ≤ straps.toNat % 4 → t.top.jtagHold = false → 0x004 ∈ t.crier.pend)
      ∧ (∀ n : Nat, n < 129 → (refclks.getLsbD 1 = false ∧ (n < 72 ∨ 108 ≤ n ∧ n < 124)) ∨ (refclks.getLsbD 2 = false ∧ 72 ≤ n ∧ n < 90)
          ∨ (refclks.getLsbD 3 = false ∧ 90 ≤ n ∧ n < 108) → islandDown t n = true))
  ∧ (∀ (s : State), Inv s → s.top.inReset = false → bringup s 0 = false →
    Completes .fusesLoaded s fun t =>
      bringup t 0 = true ∧ regF t 0 15 12 = s.top.fuses.variant % 16 ∧ regF t 0x50 2 0 = lcsCode s.top.fuses.lcs
      ∧ regBit t 0x50 3 = s.top.fuses.rma ∧ regF t (aSec 4) 3 0 = s.top.fuses.kRevoke.toNat
      ∧ regF t (aSec 0) 13 8 = s.top.fuses.patchFloor % 64 ∧ regF t (aSec 0) 5 0 = s.top.fuses.fwFloor % 64
      ∧ reg64 t (aAin 8) = s.top.fuses.selfId % 2 ^ 64 ∧ 0x003 ∈ t.crier.pend)
  ∧ (∀ (failedBanks : List Nat) (s : State), Inv s → bringup s 0 = true → bringup s 1 = false → bringup s 2 = false → s.top.unfed = [] →
    Completes (.clocksLocked failedBanks) s fun t =>
      bringup t 1 = true ∧ bringup t 2 = true ∧ t.clock.running = true ∧ 0x003 ∈ t.crier.pend
      ∧ (∀ b ∈ failedBanks, b < 256 → regBit t (aBank b 0) 30 = true ∧ bankRetired t b = true))
  ∧ (∀ (s : State), Inv s → bringup s 1 = true → bringup s 4 = false →
    Completes .tableWipeComplete s fun t =>
      t = runHeld (tablesWiped s) ∧ bringup (tablesWiped s) 4 = true ∧ 0x003 ∈ (tablesWiped s).crier.pend
      ∧ regBit (tablesWiped s) (aDom .ing 0) 0 = true ∧ regBit (tablesWiped s) (aDom .egr 0) 0 = true)
  ∧ (∀ (stack : Nat) (failedCh : List Nat) (s : State), Inv s → stack ≤ 1 → bringup s 1 = true → phyTrained s stack = false →
      islandDown s (122 + stack) = false →
    Completes (.hbmPhyTrained stack failedCh) s fun t =>
      phyTrained t stack = true
      ∧ (∀ c ∈ failedCh, c < 16 → (retiredCh t stack).testBit c = true)
      ∧ (stack ∉ s.spill.wiped → popN 16 (retiredCh t stack) < 2 → stack ∈ t.spill.wiping ∧ (splStatus t).getLsbD (4 + stack) = true)
      ∧ (stack ∈ s.spill.wiped → failedCh = [] → t.spill = s.spill ∧ bringup t (5 + stack) = true ∧ 0x806 ∈ t.crier.pend))
  ∧ (∀ (stack : Nat) (failedCh : List Nat) (s : State), Inv s → stack ≤ 1 → stack ∈ s.spill.wiping → phyTrained s stack = true →
      islandDown s (122 + stack) = false → islandDown s 121 = false →
    Completes (.hbmWipeComplete stack failedCh) s fun t =>
      (∀ c ∈ failedCh, c < 16 → (retiredCh t stack).testBit c = true)
      ∧ (popN 16 (retiredCh t stack) < 2 →
          t.spill.wiping = s.spill.wiping.erase stack ∧ (∀ x ∈ t.spill.hbm, x.1 / 2 ^ 27 ≠ stack)
          ∧ stackUsable t stack = true ∧ freePages t stack = 6291200 ∧ 0x806 ∈ t.crier.pend)
      ∧ (popN 16 (retiredCh s stack) < 2 → 2 ≤ popN 16 (retiredCh t stack) → s.spill.wiping.Nodup →
          stack ∉ t.spill.wiping ∧ stackLostBit t stack = true ∧ 0x805 ∈ t.crier.pend))
  ∧ (∀ (bad : List JrnRec) (code svn : Nat) (s : State), Inv s → bringup s 1 = true → fwRuns s = false → s.top.jtagHold = false →
      s.top.controlReset = false → bootChoice s = some (code, svn) →
    Completes (.firmwareStart bad) s fun t =>
      t = firmwareRuns (firmwareStarted bad code svn s) ∧ fwRuns (firmwareStarted bad code svn s) = true
      ∧ (firmwareStarted bad code svn s).top.running = code ∧ 0x003 ∈ (firmwareStarted bad code svn s).crier.pend)
  ∧ (∀ (bad : List JrnRec) (s : State), bringup s 1 = true → fwRuns s = false → s.top.jtagHold = false → s.top.controlReset = false →
      bootChoice s = none →
    Completes (.firmwareStart bad) s fun t => fwRuns t = false ∧ 0xD00 ∈ t.crier.pend)
  ∧ (∀ (s : State), s.top.inReset = false →
    Completes .jtagCoreRelease s fun t => Only [.top] s t ∧ t.top.jtagHold = false ∧ t.top.lands.tdo = .owned
      ∧ (bringup s 1 = true → t.top.lands.spiClk = .owned ∧ t.top.lands.spiCs = .owned ∧ t.top.lands.spiIo = .owned))

/-- Resets. TOP.ISL_RESET puts an island that can be reset into island reset with BUSY set, a request for one already in reset being merged
with the first (R48, R50); it refuses any other island with REFUSED and changes nothing else (Table ISL-5); it starts a cold reset with
cause bit 1 (R44), or a control reset. A control reset, from TOP.ISL_RESET, from the watchdog of a core or as a firmware update has made
it due, pauses firmware, empties the cores' stacks, drops a patch being loaded and, for a command fetched since the last PERST_N reset that a core had
taken, forms a completion with ABORTED_BY_RESET (R46, R47, R479); its end starts firmware that verifies, after which what waited goes
on, and with none raises 0xD00. An island leaves reset with source 0x002 and BUSY as the requests that remain say, and the accesses
held for it then act in their order (R48, R49). An accepted life-cycle transition that runs to its end enters its state through a cold
reset with cause bit 7, with its journal record written, the sealed partitions erased on entry to DEBUG or RETIRED, and RETIRED_CH
kept; one cut short by a reset enters its state if and only if the commit fuse was burned (R56, R58, R59). -/
def Obligations.ResetsComplete : Prop :=
  (∀ (island : Nat) (s : State), Inv s → s.top.inReset = false → islandResettable island = true →
    Completes (.islResetIsland island) s fun t =>
      island ∈ t.top.islands ∧ island ∈ t.top.islandsByReg ∧ regBit t aIslReset 8 = true ∧ regBit t aIslReset 9 = false
      ∧ t.top.islands = (if island ∈ s.top.islands then s.top.islands else s.top.islands ++ [island]))
  ∧ (∀ (island : Nat) (s : State), Inv s → s.top.inReset = false → islandResettable island = false →
    Completes (.islResetIsland island) s fun t =>
      regBit t aIslReset 9 = true ∧ t.top = s.top ∧ RegsBut [aIslReset] s t ∧ Only [.regs] s t)
  ∧ (∀ (s : State), Inv s → s.top.inReset = false →
    Completes .islResetControl s fun t => t.top.controlReset = true ∧ regBit t aIslReset 9 = false
      ∧ (s.top.controlReset = false → fwRuns t = false ∧ t.crier.cores = [] ∧ t.prg.patch = none
        ∧ ∀ o ∈ s.hif.outstanding, o.phase = .taken → s.hif.oldBell < o.cmd.bell →
            ∃ x ∈ t.hif.completions, x.2.tag = o.cmd.tag ∧ x.2.status = 9))
  ∧ (∀ (s : State), s.top.inReset = false → Completes .islResetCold s fun t => ColdResetFrom 1 [] s.top.lands.ioLow s t)
  ∧ (∀ (core : Nat) (s : State), Inv s → core < 4 → s.top.inReset = false → s.top.controlReset = false →
    Completes (.coreWatchdogExpiry core) s fun t =>
      fwRuns t = false ∧ t.top.controlReset = true ∧ t.crier.cores = [] ∧ t.prg.patch = none
      ∧ ∀ o ∈ s.hif.outstanding, o.phase = .taken → s.hif.oldBell < o.cmd.bell →
          ∃ x ∈ t.hif.completions, x.2.tag = o.cmd.tag ∧ x.2.status = 9)
  ∧ (∀ (s : State), Inv s → s.top.controlDue = true → s.top.inReset = false → s.top.controlReset = false →
    Completes .controlReset s fun t =>
      fwRuns t = false ∧ t.top.controlReset = true ∧ t.top.controlDue = false ∧ t.crier.cores = [] ∧ t.prg.patch = none
      ∧ ∀ o ∈ s.hif.outstanding, o.phase = .taken → s.hif.oldBell < o.cmd.bell →
          ∃ x ∈ t.hif.completions, x.2.tag = o.cmd.tag ∧ x.2.status = 9)
  ∧ (∀ (bad : List JrnRec) (code svn : Nat) (s : State), Inv s → s.top.controlReset = true → s.top.jtagHold = false →
      bringup s 1 = true → bootChoice s = some (code, svn) →
    Completes (.controlResetComplete bad) s fun t =>
      t = firmwareRuns (firmwareStarted bad code svn s) ∧ fwRuns (firmwareStarted bad code svn s) = true
      ∧ (firmwareStarted bad code svn s).top.running = code ∧ (firmwareStarted bad code svn s).top.controlReset = false)
  ∧ (∀ (bad : List JrnRec) (s : State), s.top.controlReset = true → s.top.jtagHold = false → bringup s 1 = true → bootChoice s = none →
    Completes (.controlResetComplete bad) s fun t => t.top.controlReset = true ∧ 0xD00 ∈ t.crier.pend)
  ∧ (∀ (island : Nat) (s : State), Inv s → s.top.inReset = false → island ∈ s.top.islands →
    Completes (.islandResetComplete island) s fun t =>
      t = drainHeld island (leaveIsland island s)
      ∧ (leaveIsland island s).top.islands = s.top.islands.erase island
      ∧ (leaveIsland island s).top.islandsByReg = s.top.islandsByReg.erase island
      ∧ (leaveIsland island s).top.held = s.top.held
      ∧ regBit (leaveIsland island s) aIslReset 8 = !(s.top.islandsByReg.erase island).isEmpty
      ∧ 0x002 ∈ (leaveIsland island s).crier.pend)
  ∧ (∀ (j : LcsJob) (s : State), s.top.lcsJob = some j →
    Completes (.lcsTransitionStart none) s fun t =>
      t.top.fuses.lcs = j.target ∧ t.top.inReset = true ∧ t.top.lcsJob = none ∧ regBit t aResetCause 7 = true
      ∧ t.top.fuses.variant = s.top.fuses.variant ∧ t.top.fuses.rma = (j.rma || s.top.fuses.rma)
      ∧ (j.target = .debug ∨ j.target = .retired → t.journal.host = [] ∧ t.journal.records.all (fun r => !jrnSealed (jrnPart r.entry)) = true)
      ∧ (j.target = .retired → t.top.fuses.keyDisable = true)
      ∧ jrnSysLog t.journal = .lifeCycle (lcsCode j.target) :: jrnSysLog s.journal
      ∧ (∀ m : Nat, m < 2 → retiredCh t m = retiredCh s m))
  ∧ (∀ (j : LcsJob) (p : LcsPoint) (causes : List Nat) (s : State), s.top.lcsJob = some j →
    Completes (.lcsTransitionStart (some (p, causes))) s fun t =>
      t.top.fuses.lcs = (if p = .committed then j.target else s.top.fuses.lcs) ∧ t.top.inReset = true ∧ t.top.lcsJob = none
      ∧ (∀ i ∈ causes, i < 7 → regBit t aResetCause i = true))

/-- PERST_N and the host link. PERST_N falling puts the host island in reset (R98): PERST_N low, nothing outstanding, visible, completed or
notified is left, the host holds no buffer and no slot is mapped (R294), the commands that had started are left to be settled, and the
PCIe lands go to their state of Table PKG-3 (R23). Its release raises PERST_N. The host island leaves reset with the registers of HIF
at their reset values, STATUS and the orphan log apart; after a PERST_N reset EPOCH advances, and source 0x164 tells of a log that is not
empty (R98, R101). A trained link reports its width, its speed, at most 5 with TOP.STRAP.PCIE5 and 6 without, and its mode, and raises
source 0x163 when it is below x8 or below that speed (R34, R102). -/
def Obligations.HostLinkComplete : Prop :=
  (∀ (cause : PerstCause) (s : State), Inv s → s.top.inReset = false → s.hif.perst = false →
    Completes (.perstNAssert cause) s fun t =>
      t.hif.perst = true ∧ t.hif.perstHigh = false ∧ t.hif.fromPerst = true ∧ t.hif.completions = [] ∧ t.hif.notifs = []
      ∧ t.hif.visible = [] ∧ t.hif.outstanding = [] ∧ t.hif.slots = [] ∧ t.market.hostHeld = []
      ∧ (∀ o ∈ s.hif.outstanding, startedCmd o = true → o.cmd ∈ t.hif.settling.map (·.cmd))
      ∧ t.top.lands.pcieTx = .idle ∧ t.top.lands.pcieRx = .termOff)
  ∧ (∀ (s : State), Completes .perstNRelease s fun t => t.hif.perstHigh = true)
  ∧ (∀ (s : State), Inv s → s.hif.perst = true → s.hif.perstHigh = true → bringup s 1 = true →
    Completes .hostIslandRelease s fun t =>
      t.hif.perst = false ∧ t.hif.fromPerst = false
      ∧ (∀ a : Nat, 0x100004 ≤ a → a < 0x103000 → reg t a = resetWord a)
      ∧ (∀ a : Nat, 0x106000 ≤ a → a < 0x200000 → reg t a = resetWord a)
      ∧ regF t (aHif 0) 23 16 = (regF s (aHif 0) 23 16 + b2n s.hif.fromPerst) % 256
      ∧ (s.hif.fromPerst = true → regF s (aHif 0x3000) 10 0 ≠ 0 → 0x164 ∈ t.crier.pend))
  ∧ (∀ (width speed : Nat) (flit : Bool) (s : State), Inv s → s.hif.perst = false → width < 16 → speed < 16 →
    Completes (.linkTrained width speed flit) s fun t =>
      regBit t (aHif 0) 0 = flit ∧ regF t (aHif 0) 11 8 = width
      ∧ regF t (aHif 0) 7 4 = min speed (if regBit s 0x10 2 then 5 else 6)
      ∧ (width < 8 ∨ speed < (if regBit s 0x10 2 then 5 else 6) → 0x163 ∈ t.crier.pend))

/-- Mailbox, orphan log, BAR2 and unmapped addresses, with the host island out of reset. A BAR0 access where no register is defined sets
ERR.UNMAPPED with source 0x161, and a read of one returns zero (R73). A BAR2 write in the aperture keeps the octets that lie in a mapped
buffer, and one with any other sets its error with source 0x162 (R95); a read answers with the octets of BAR2, zero where nothing lies
(R73, R95). GO puts the request area with its CODE and TAG before the control cores and sets BUSY, and a GO while BUSY sets OVERRUN and
leaves the request (R96). The response of a running firmware to the request that it serves writes CODE, TAG and status into the response
area, clears BUSY and raises 0x160 (R96): to a reserved CODE or LEN the status is BAD_ARG (R16), to a life-cycle request it is that of
its checks (R482), and that of a firmware update comes with its own row; of a request that a PERST_N reset left, it is recorded in the
orphan log instead (R98, R101). Clearing the
orphan log empties it (R101). -/
def Obligations.HostWindowsComplete : Prop :=
  (∀ (addr : Nat) (write : Bool) (s : State), Inv s → (regInfo addr).isSome = false → s.hif.perst = false → s.top.inReset = false →
    Completes (.bar0UnmappedAccess addr write) s fun t =>
      regBit t (aHif 8) 0 = true ∧ 0x161 ∈ t.crier.pend ∧ t.out = s.out ++ (if write then [] else [.readData (bytesLE 4 0)]))
  ∧ (∀ (addr : Nat) (data : List Byte) (s : State), Inv s → s.hif.perst = false → s.top.inReset = false →
      0x100000 ≤ addr → addr < 0x4000000 →
    Completes (.apertureWrite addr data) s fun t =>
      t.hif.buf = data.zipIdx.foldl (fun m x => match apertureKey s (addr - 0x100000 + x.2) with | some k => mapPut 0 m k x.1 | none => m) s.hif.buf
      ∧ ((∃ x ∈ data.zipIdx, apertureKey s (addr - 0x100000 + x.2) = none) → regBit t (aHif 8) 3 = true ∧ 0x162 ∈ t.crier.pend))
  ∧ (∀ (addr len : Nat) (s : State), s.hif.perst = false → s.top.inReset = false →
    Completes (.apertureRead addr len) s fun t =>
      t = { s with out := s.out ++ [.readData ((List.range len).map fun i => bar2Octet s (addr + i))] })
  ∧ (∀ (s : State), Inv s → s.hif.perst = false → s.top.inReset = false → regBit s (aHif 0x2000) 1 = false →
    Completes .mailboxGo s fun t => regBit t (aHif 0x2000) 1 = true
      ∧ t.hif.mail.map (·.code) = some ((mailOctet s 0).toNat + 256 * (mailOctet s 1).toNat)
      ∧ t.hif.mail.map (·.tag) = some ((mailOctet s 2).toNat + 256 * (mailOctet s 3).toNat)
      ∧ t.hif.mail.map (·.area) = some ((List.range 256).map (mailOctet s)))
  ∧ (∀ (s : State), Inv s → s.hif.perst = false → s.top.inReset = false → regBit s (aHif 0x2000) 1 = true →
    Completes .mailboxGo s fun t => regBit t (aHif 0x2000) 2 = true ∧ t.hif.mail = s.hif.mail)
  ∧ (∀ (m : MailReq) (s : State), Inv s → s.hif.oldMail = none → s.hif.mail = some m → m.taken = true → fwRuns s = true → mailBad m = true →
    Completes .mailboxResponse s fun t =>
      t.hif.mail = none ∧ regBit t (aHif 0x2000) 1 = false ∧ 0x160 ∈ t.crier.pend
      ∧ reg t (aHif 0x2200) = BitVec.ofNat 32 (m.code % 65536 + m.tag % 65536 * 65536) ∧ reg t (aHif 0x2204) = 8)
  ∧ (∀ (m : MailReq) (s : State), Inv s → s.hif.oldMail = none → s.hif.mail = some m → m.taken = true → fwRuns s = true → mailBad m = false →
      m.code = 1 →
    Completes .mailboxResponse s fun t => t = lcsAnswer s m
      ∧ t.hif.mail = none ∧ regBit t (aHif 0x2000) 1 = false ∧ 0x160 ∈ t.crier.pend
      ∧ reg t (aHif 0x2200) = BitVec.ofNat 32 (1 + m.tag % 65536 * 65536))
  ∧ (∀ (m : MailReq) (s : State), mailServed s = some m → mailBad m = false → m.code = 2 → Completes .mailboxResponse s fun t => t = s)
  ∧ (∀ (m : MailReq) (s : State), Inv s → s.hif.oldMail = some m → fwRuns s = true → mailBad m = true ∨ m.code = 1 →
    Completes .mailboxResponse s fun t =>
      t.hif.oldMail = none ∧ t.hif.mail.map (·.area) = s.hif.mail.map (·.area)
      ∧ (regF s (aHif 0x3000) 10 0 < 1024 →
          (reg t (aHif (0x4000 + 8 * regF s (aHif 0x3000) 10 0))).toNat = m.tag % 65536 + 0xFFFF0000
          ∧ regF t (aHif 0x3000) 10 0 = regF s (aHif 0x3000) 10 0 + 1))
  ∧ (∀ (s : State), Inv s → s.hif.perst = false →
    Completes .orphanLogClear s fun t => regF t (aHif 0x3000) 16 0 = 0 ∧ ∀ i : Nat, i < 2048 → reg t (aHif (0x4000 + 4 * i)) = 0)

/-- Doorbells and rings, with the host island out of reset. A doorbell with an index that its ring admits moves TAIL of a CR, whose new
entries become visible, or of an RX ring, and HEAD of a CQ or NQ; with any other index, or for a ring that is not enabled, it changes no
index and sets ERR.DOORBELL with source 0x161 (R80). Setting EN of a disabled ring zeroes HEAD and TAIL, clears ERR and enables it; a write of
CFG with EN = 1 to an enabled ring leaves HEAD and TAIL (R81). Clearing EN disables the ring; a CR then has no visible entry left, and
reads IDLE when none of its commands is outstanding (R82). A DMA error stops an enabled ring with EN = 0, ERR = 1 and source 0x161 (R81). -/
def Obligations.RingsComplete : Prop :=
  (∀ (r index : Nat) (s : State), Inv s → s.hif.perst = false → producerOk s .cr r index = true →
    Completes (.crDoorbell r index) s fun t => ringTail t .cr r = index ∧ ringHead t .cr r = ringHead s .cr r
      ∧ t.hif.visible.length = s.hif.visible.length + (index + ringSize s .cr r - ringTail s .cr r) % ringSize s .cr r)
  ∧ (∀ (r index : Nat) (s : State), Inv s → s.hif.perst = false → producerOk s .cr r index = false →
    Completes (.crDoorbell r index) s fun t => regBit t (aHif 8) 2 = true ∧ 0x161 ∈ t.crier.pend ∧ t.hif = s.hif)
  ∧ (∀ (r index : Nat) (s : State), Inv s → s.hif.perst = false → r < 16 → ringEn s .cq r = true → consumerOk s .cq r index = true →
    Completes (.cqDoorbell r index) s fun t => ringHead t .cq r = index ∧ ringTail t .cq r = ringTail s .cq r)
  ∧ (∀ (r index : Nat) (s : State), Inv s → s.hif.perst = false → ringEn s .cq r = false ∨ consumerOk s .cq r index = false →
    Completes (.cqDoorbell r index) s fun t => regBit t (aHif 8) 2 = true ∧ 0x161 ∈ t.crier.pend ∧ t.hif = s.hif)
  ∧ (∀ (n index : Nat) (s : State), Inv s → s.hif.perst = false → producerOk s .rx n index = true →
    Completes (.rxDoorbell n index) s fun t => ringTail t .rx n = index ∧ ringHead t .rx n = ringHead s .rx n)
  ∧ (∀ (n index : Nat) (s : State), Inv s → s.hif.perst = false → producerOk s .rx n index = false →
    Completes (.rxDoorbell n index) s fun t => regBit t (aHif 8) 2 = true ∧ 0x161 ∈ t.crier.pend ∧ t.hif = s.hif)
  ∧ (∀ (n index : Nat) (s : State), Inv s → s.hif.perst = false → n < 8 → ringEn s .nq n = true → consumerOk s .nq n index = true →
    Completes (.nqDoorbell n index) s fun t => ringHead t .nq n = index ∧ ringTail t .nq n = ringTail s .nq n)
  ∧ (∀ (n index : Nat) (s : State), Inv s → s.hif.perst = false → ringEn s .nq n = false ∨ consumerOk s .nq n index = false →
    Completes (.nqDoorbell n index) s fun t => regBit t (aHif 8) 2 = true ∧ 0x161 ∈ t.crier.pend ∧ t.hif = s.hif)
  ∧ (∀ (kind : RingKind) (n : Nat) (cfg : Word) (s : State), Inv s → s.hif.perst = false → n < ringCount kind → ringEn s kind n = false →
    Completes (.ringEnable kind n cfg) s fun t => ringEn t kind n = true ∧ regBit t (ringBase kind n + 8) 30 = false
      ∧ ringHead t kind n = 0 ∧ ringTail t kind n = 0)
  ∧ (∀ (kind : RingKind) (n : Nat) (cfg : Word) (s : State), Inv s → s.hif.perst = false → n < ringCount kind → ringEn s kind n = true →
    Completes (.ringEnable kind n cfg) s fun t => ringHead t kind n = ringHead s kind n ∧ ringTail t kind n = ringTail s kind n)
  ∧ (∀ (kind : RingKind) (n : Nat) (cfg : Word) (s : State), Inv s → s.hif.perst = false → n < ringCount kind →
    Completes (.ringDisable kind n cfg) s fun t => ringEn t kind n = false
      ∧ (kind = .cr → ringIdle t kind n = !s.hif.outstanding.any (·.cmd.cr == n))
      ∧ (kind = .cr → ∀ x ∈ t.hif.visible, x.1 ≠ n))
  ∧ (∀ (kind : RingKind) (n : Nat) (s : State), Inv s → s.hif.perst = false → n < ringCount kind → ringEn s kind n = true →
    Completes (.ringDmaError kind n) s fun t => ringEn t kind n = false ∧ regBit t (ringBase kind n + 8) 30 = true ∧ 0x161 ∈ t.crier.pend)

/-- Fetching and completing, with the host island out of reset. With fewer than 1,024 outstanding, the entry at HEAD of the ring whose turn it
is is read as 64 octets and HEAD advances; where the commands outstanding have a form each, the command that the octets spell is then outstanding
(R78, R84, R90), or, if its own opcode or form is reserved and it is alone in its ring, completes with BAD_ARG at once, CART_CMD apart, which waits for firmware
(R16, R47, R88). The oldest completion or notification that waits for an enabled ring with room is written as one 32-octet entry at TAIL, which
advances, with its source where the command asked for it, and for every notification (R86, R94). NOP completes with OK. A FENCE starts
with the earlier commands of its ring covered (R92), and completes once nothing that it covers is left and no write of BAR0 waits. A
command held for the table wipe or an idle context, or a table command not started, completes with TIMEOUT (R53, R89). -/
def Obligations.CommandFlowComplete : Prop :=
  (∀ (r : Nat) (entry data : List Byte) (s : State), Inv s → s.hif.perst = false → s.hif.outstanding.length < 1024 →
      nextCr s = some r →
    Completes (.commandFetch r entry data) s fun t =>
      ringHead t .cr r = (ringHead s .cr r + 1) % ringSize s .cr r ∧ t.hif.lastCr = r
      ∧ t.out = s.out ++ [.hostRead (ringAddr s .cr r (ringHead s .cr r) 64) 64]
      ∧ ((∀ o ∈ s.hif.outstanding, (rowOf o.cmd).isSome = true) →
          (rowOf (decodeEntry (entryBell s r (ringHead s .cr r)) r (ringHead s .cr r) (sliceZ entry 0 64) data)).isSome = true →
          t.hif.outstanding.getLast?.map (fun o => (o.cmd, o.phase))
            = some (decodeEntry (entryBell s r (ringHead s .cr r)) r (ringHead s .cr r) (sliceZ entry 0 64) data, .fetched))
      ∧ ((∀ o ∈ s.hif.outstanding, (rowOf o.cmd).isSome = true) →
          rowOf (decodeEntry (entryBell s r (ringHead s .cr r)) r (ringHead s .cr r) (sliceZ entry 0 64) data) = none →
          (decodeEntry (entryBell s r (ringHead s .cr r)) r (ringHead s .cr r) (sliceZ entry 0 64) data).opcode ≠ 0x80 →
          s.hif.oldBell < entryBell s r (ringHead s .cr r) → (∀ e ∈ s.hif.outstanding, e.cmd.cr ≠ r) →
          Reports (decodeEntry (entryBell s r (ringHead s .cr r)) r (ringHead s .cr r) (sliceZ entry 0 64) data) stBadArg t))
  ∧ (∀ (q : Nat) (x : Completion) (rest : List (Nat × Completion)) (s : State), Inv s → s.hif.perst = false →
      ringEn s .cq q = true → ringRoom s .cq q = true → takeFirst (fun y => y.1 == q) s.hif.completions = (some (q, x), rest) →
    Completes (.completionWrite q) s fun t =>
      ((∀ o ∈ s.hif.outstanding, (rowOf o.cmd).isSome = true) → t.hif.completions = rest) ∧ ringTail t .cq q = (ringTail s .cq q + 1) % ringSize s .cq q
      ∧ .hostWrite (ringAddr s .cq q (ringTail s .cq q) 32) (completionOctets x (phaseOf s q)) ∈ t.out
      ∧ (x.notify = true → 0x100 + q ∈ t.crier.pend))
  ∧ (∀ (n : Nat) (x : Notif) (rest : List (Nat × Notif)) (s : State), Inv s → s.hif.perst = false →
      ringEn s .nq n = true → ringRoom s .nq n = true → takeFirst (fun y => y.1 == n) s.hif.notifs = (some (n, x), rest) →
    Completes (.notificationWrite n) s fun t =>
      t.hif.notifs = rest ∧ ringTail t .nq n = (ringTail s .nq n + 1) % ringSize s .nq n
      ∧ .hostWrite (ringAddr s .nq n (ringTail s .nq n) 32) (notifOctets x (phaseOf s (16 + n))) ∈ t.out
      ∧ 0x150 + n ∈ t.crier.pend)
  ∧ (∀ (cmd : HostCmd) (s : State), Ready s cmd .nop → Completes (.nop cmd) s fun t => Reports cmd stOk t)
  ∧ (∀ (cmd : HostCmd) (s : State), Ready s cmd .fence →
    Completes (.fence cmd) s fun t => ∃ o ∈ t.hif.outstanding, o.cmd = cmd ∧ o.phase = .started
      ∧ ∀ e ∈ earlier s cmd, cmdKey e.cmd ≠ cmdKey cmd → cmdKey e.cmd ∈ o.covers)
  ∧ (∀ (cr index : Nat) (o : OutCmd) (s : State),
      (heldCmds s).find? (fun y => y.cmd.cr == cr && y.cmd.index == index && y.cmd.opcode == 2 && y.phase == .started) = some o →
      s.hif.oldBell < o.cmd.bell → o.covers = [] → writesDue s = false →
    Completes (.fenceComplete cr index) s fun t => Reports o.cmd stOk t)
  ∧ (∀ (cr index : Nat) (o : OutCmd) (s : State),
      (heldCmds s).find? (fun y => y.cmd.cr == cr && y.cmd.index == index && (clerkHolds s (cmdKey y.cmd) || mayTimeout y)) = some o →
      s.hif.oldBell < o.cmd.bell →
    Completes (.commandTimeout cr index) s fun t => Reports o.cmd stTimeout t)

/-- Services of firmware, while it runs (R47), and frames for the CPU. LCS_CHANGE answers BAD_ARG for a malformed request, NOT_PERMITTED for a
transition that is not permitted from the present state, AUTH_FAIL for a blob that does not prove itself, and otherwise OK, with the
transition to begin (R56, R482). FW_UPDATE answers NOT_PERMITTED in RETIRED, BAD_ARG for too long an image and for one below the floor in
OPERATIONAL, AUTH_FAIL for one that does not verify; otherwise the image stands in the slot that does not run and the answer is OK, or, cut off
by a reset or a power loss, the slot is not sound and nothing is answered (R479). PATCH_LOAD with no patch before it completes at once unless
the patch is accepted, then waits for its switch point, PERSIST writing the flash (R125, R126); there the patch is in force, its command completes with the
level and source 0x207 is raised. JRN_READ and JRN_WRITE complete with their status and move the octets that they name (R97). The frame at the head of
the CPU queue whose turn it is goes to the buffer that the entry read at HEAD posts, with its entry, HEAD advances and source 0x110 + n is raised (R93, R342); with a
BUF_LEN that is not admitted the ring stops with source 0x161; a frame whose data is lost leaves its queue and the buffer stays posted (R298). -/
def Obligations.FirmwareServicesComplete : Prop :=
  (∀ (m : MailReq) (s : State), Inv s → mailServed s = some m → m.code = 1 → fwRuns s = true →
    Completes .lcsChange s fun t => t.top.fuses = s.top.fuses
      ∧ (lcsBad m = true → Responds s t m stBadArg ∧ t.top.lcsJob = s.top.lcsJob)
      ∧ (∀ dest, lcsOf (leAt (lcsBlob m) 5 1) = some dest → lcsBad m = false →
          (lcsForbidden s m dest = true → Responds s t m stNotPermitted ∧ t.top.lcsJob = s.top.lcsJob)
          ∧ (lcsForbidden s m dest = false → lcsProved s m dest = false → Responds s t m stAuthFail ∧ t.top.lcsJob = s.top.lcsJob)
          ∧ (lcsForbidden s m dest = false → lcsProved s m dest = true → ∀ j, lcsJobOf s dest (lcsBlob m) = some j →
              Responds s t m stOk ∧ t.top.lcsJob = some (s.top.lcsJob.getD j) ∧ j.target = dest)))
  ∧ (∀ (image : Image) (cut : Bool) (m : MailReq) (s : State), Inv s → mailServed s = some m → m.code = 2 → fwRuns s = true →
    Completes (.fwUpdate image cut) s fun t =>
      (mailBad m = true → Responds s t m stBadArg ∧ t.top.flash = s.top.flash)
      ∧ (mailBad m = false → s.top.fuses.lcs = .retired → Responds s t m stNotPermitted ∧ t.top.flash = s.top.flash)
      ∧ (mailBad m = false → s.top.fuses.lcs ≠ .retired → 1048800 < leAt m.area 16 4 → Responds s t m stBadArg ∧ t.top.flash = s.top.flash)
      ∧ (mailBad m = false → s.top.fuses.lcs ≠ .retired → leAt m.area 16 4 ≤ 1048800 → imageOk s 0 image = false →
          Responds s t m stAuthFail ∧ t.top.flash = s.top.flash)
      ∧ (mailBad m = false → s.top.fuses.lcs ≠ .retired → leAt m.area 16 4 ≤ 1048800 → imageOk s 0 image = true →
          (s.top.fuses.lcs = .operational → image.svn < s.top.fuses.fwFloor → Responds s t m stBadArg ∧ t.top.flash = s.top.flash)
          ∧ (¬(s.top.fuses.lcs = .operational ∧ image.svn < s.top.fuses.fwFloor) →
              (s.top.running = 0 → t.top.flash.slotB = some image ∧ t.top.flash.slotA = s.top.flash.slotA ∧ t.top.flash.sound.contains 1 = !cut)
              ∧ (s.top.running ≠ 0 → t.top.flash.slotA = some image ∧ t.top.flash.slotB = s.top.flash.slotB
                  ∧ t.top.flash.sound.contains 0 = !cut)
              ∧ (cut = true → t.hif = s.hif ∧ t.top.controlDue = s.top.controlDue)
              ∧ (cut = false → Responds s t m stOk ∧ t.top.controlDue = ((leAt m.area 20 1).testBit 0 || s.top.controlDue)))))
  ∧ (∀ (cmd : HostCmd) (image : Image) (s : State), Inv s → Ready s cmd .patchLoad → s.prg.patch = none →
    Completes (.patchLoad cmd image) s fun t =>
      (patchStatus s image = stOk → t.prg.patch = some { cmd := cmd, image := image } ∧ t.prg.patchInForce = s.prg.patchInForce
        ∧ (argN cmd 0 1 % 2 = 1 → t.top.flash.patch = some image)
        ∧ (argN cmd 0 1 % 2 = 0 → t.top.flash.patch = s.top.flash.patch))
      ∧ (patchStatus s image ≠ stOk → Reports cmd (patchStatus s image) t ∧ t.prg = s.prg ∧ t.top.flash = s.top.flash))
  ∧ (∀ (j : PatchJob) (s : State), Inv s → s.prg.patch = some j → fwRuns s = true →
    Completes .patchSwitchPoint s fun t => t.prg.patch = none ∧ t.prg.patchInForce = some j.image
      ∧ (s.hif.oldBell < j.cmd.bell → Answers j.cmd stOk (bytesLE 2 j.image.level) t) ∧ 0x207 ∈ t.crier.pend
      ∧ (s.top.fuses.lcs = .operational → t.top.fuses.patchFloor = max s.top.fuses.patchFloor j.image.svn)
      ∧ (s.top.fuses.lcs ≠ .operational → t.top.fuses = s.top.fuses))
  ∧ (∀ (cmd : HostCmd) (badLines : List Nat) (s : State), Ready s cmd .jrnRead →
    Completes (.jrnRead cmd badLines) s fun t => Reports cmd (jrnStatus s badLines cmd) t
      ∧ (jrnStatus s badLines cmd = stOk → t.out = s.out ++ [.hostWrite cmd.hostAddr ((jrnLines cmd).flatMap (jrnLine s.journal))])
      ∧ (jrnStatus s badLines cmd ≠ stOk → t.out = s.out))
  ∧ (∀ (cmd : HostCmd) (badLines failedBlocks : List Nat) (s : State), Inv s → Ready s cmd .jrnWrite →
    Completes (.jrnWrite cmd badLines failedBlocks) s fun t =>
      (jrnStatus s badLines cmd = stOk → failedBlocks = [] → Answers cmd stOk (bytesLE 4 (jrnSeq s.journal 5)) t
        ∧ t.journal.host = putBytes s.journal.host (64 * argN cmd 0 2) (sliceZ cmd.data 0 cmd.dataLen)
        ∧ jrnSeq t.journal 5 = jrnSeq s.journal 5 + 1
        ∧ t.journal.records.head?.map (·.entry) = some (.host (argN cmd 0 2) (sliceZ cmd.data 0 cmd.dataLen)))
      ∧ (jrnStatus s badLines cmd = stOk → Reports cmd stOk t)
      ∧ (jrnStatus s badLines cmd ≠ stOk → Reports cmd (jrnStatus s badLines cmd) t ∧ t.journal.seq = s.journal.seq))
  ∧ (∀ (n : Nat) (entry : List Byte) (err : Option DataErr) (c : Copy) (rest : List Copy) (s : State), Inv s → s.hif.perst = false →
      nextCpu s = some n → bufLenOk (leAt entry 8 2) = true → qEntries s (cpuQueue n) = c :: rest →
    Completes (.rxFrameDma n entry err) s fun t => t.sched.lastCpu = n
      ∧ ((marketRead s c err).2 = false → ringHead t .rx n = (ringHead s .rx n + 1) % ringSize s .rx n ∧ 0x110 + n ∈ t.crier.pend
          ∧ t.out = s.out ++ [.hostRead (ringAddr s .rx n (ringHead s .rx n) 32) 32,
              .hostWrite (leAt entry 0 8) ((copyOctets c).take (leAt entry 8 2)),
              .hostWrite (ringAddr s .rx n (ringHead s .rx n) 32 + 12) (rxEntry c (decide (leAt entry 8 2 < (copyOctets c).length)))])
      ∧ ((marketRead s c err).2 = true → ringHead t .rx n = ringHead s .rx n
          ∧ t.out = s.out ++ [.hostRead (ringAddr s .rx n (ringHead s .rx n) 32) 32]))
  ∧ (∀ (n : Nat) (entry : List Byte) (err : Option DataErr) (s : State), Inv s → s.hif.perst = false → nextCpu s = some n →
      bufLenOk (leAt entry 8 2) = false →
    Completes (.rxFrameDma n entry err) s fun t => ringEn t .rx n = false ∧ regBit t (ringBase .rx n + 8) 30 = true
      ∧ 0x161 ∈ t.crier.pend ∧ t.out = s.out ++ [.hostRead (ringAddr s .rx n (ringHead s .rx n) 32) 32])

/-- Register accesses, outside cold reset and with the host island out of reset. An access whose island is in reset, or behind an earlier access to
it, waits at the crossing (R41, R48). Otherwise a write of a row's own register does what that row does; of any other 32-bit register it changes
the writable fields whose code is defined and clears the bits written as 1 that clear so (R10, R16), and what the register governs follows. The low word of a
64-bit register is held for its high word, with which the pair is applied (R75); the read of a low word keeps the high word, and NOW_FRAC, NOW_SEC, DELAY and EX_TS32 show what another read kept (R350, R402). A counter that clears when read
returns its value and takes its reset value (R10, R12). A read of 4 or 8 aligned octets returns the registers, a read of another size ends
with Completer Abort, and a write of other than whole dwords, or of more than 64 octets, sets ERR.ACCESS with source 0x161 (R74). -/
def Obligations.RegisterAccessesComplete : Prop :=
  (∀ (addr : Nat) (value : Word) (s : State), Inv s → s.hif.perst = false → s.top.inReset = false → regInfo addr = none →
    Completes (.registerWrite addr value) s fun t => regBit t (aHif 8) 0 = true ∧ 0x161 ∈ t.crier.pend)
  ∧ (∀ (addr : Nat) (value : Word) (s : State), s.hif.perst = false → s.top.inReset = false → absent s addr = true →
    Completes (.registerWrite addr value) s fun t => t = s)
  ∧ (∀ (addr : Nat) (value : Word) (u : State) (s : State), s.hif.perst = false → s.top.inReset = false → (regInfo addr).isSome = true →
      absent s addr = false → isWide addr = false → ownRow addr value s = some u →
    Completes (.registerWrite addr value) s fun t => t = u)
  ∧ (∀ (addr : Nat) (value : Word) (s : State), s.hif.perst = false → s.top.inReset = false → (regInfo addr).isSome = true →
      absent s addr = false → isWide addr = false → (ownRow addr value s).isNone = true → shut s addr = true →
    Completes (.registerWrite addr value) s fun t => t = { s with top := { s.top with held := s.top.held ++ [.write addr value] } })
  ∧ (∀ (addr : Nat) (value : Word) (b : Blk) (n : Nat) (r : RegRow) (i j : Nat) (s : State), Inv s → s.hif.perst = false →
      s.top.inReset = false → regInfo addr = some (b, n, r, i, j) → absent s addr = false → isWide addr = false →
      (ownRow addr value s).isNone = true → shut s addr = false →
    Completes (.registerWrite addr value) s fun t => (writeRefused r value = true → reg t addr = reg s addr)
      ∧ (writeRefused r value = false →
          t = afterWrite addr (reg s addr) value (noteRefused b r value (setReg s addr (applyWrite r (reg s addr) value))))
      ∧ (b ∈ [.top, .tim, .prg, .tbl, .pmc, .sec, .ldg] →
          reg t addr = applyWrite r (reg s addr) value ∧ RegsBut [addr] s t ∧ Only [.regs] s t))
  ∧ (∀ (addr : Nat) (value : Word) (s : State), s.hif.perst = false → s.top.inReset = false → (regInfo addr).isSome = true →
      absent s addr = false → isWide addr = true → addr % 8 = 0 →
    Completes (.registerWrite addr value) s fun t => heldLowOf t .host addr = some value ∧ t.regs = s.regs)
  ∧ (∀ (addr : Nat) (value : Word) (s : State), s.hif.perst = false → s.top.inReset = false → (regInfo addr).isSome = true →
      absent s addr = false → isWide addr = true → addr % 8 = 4 →
    Completes (.registerWrite addr value) s fun t => t = writeHigh s .host addr value)
  ∧ (∀ (addr : Nat) (s : State), Inv s → rcMask addr ≠ 0 → s.hif.perst = false → s.top.inReset = false → absent s addr = false →
    Completes (.rcCounterRead addr) s fun t =>
      (shut s addr = false → t.out = s.out ++ [.readData (bytesLE 4 (regView s addr).toNat)]
        ∧ reg t addr &&& rcMask addr = resetWord addr &&& rcMask addr ∧ RegsBut [addr] s t)
      ∧ (shut s addr = true → t = { s with top := { s.top with held := s.top.held ++ [.read .host addr false] } }))
  ∧ (∀ (rq : Requester) (addr : Nat) (s : State), isWide addr = true → addr % 8 = 0 → canAccess s rq = true →
      s.top.inReset = false →
    Completes (.reg64LowWordRead rq addr) s fun t => t.regs = s.regs
      ∧ (shut s addr = false → showsLatch addr = false → t.out = s.out ++ [.readData (bytesLE 4 (regView s addr).toNat)]
        ∧ (rq, addr + 4, regView s (addr + 4)) ∈ t.hif.latches)
      ∧ (shut s addr = false → showsLatch addr = true → t.out = s.out ++ [.readData (bytesLE 4 (latchOf s rq addr).toNat)])
      ∧ (shut s addr = true → t.top.held = s.top.held ++ [.read rq addr false] ∧ t.out = s.out))
  ∧ (∀ (rq : Requester) (addr : Nat) (value : Word) (s : State), isWide addr = true → addr % 8 = 0 → canAccess s rq = true →
      s.top.inReset = false → absent s addr = false →
    Completes (.reg64LowWordWrite rq addr value) s fun t => heldLowOf t rq addr = some value ∧ t.regs = s.regs)
  ∧ (∀ (rq : Requester) (addr : Nat) (value : Word) (b : Blk) (n : Nat) (r : RegRow) (i j : Nat) (s : State), Inv s →
      regInfo addr = some (b, n, r, i, j) → isWide addr = true → addr % 8 = 4 → canAccess s rq = true →
      s.top.inReset = false → absent s addr = false → shut s (addr - 4) = false →
    Completes (.reg64HighWordWrite rq addr value) s fun t =>
      t = applyWide (addr - 4) ((heldLowOf s rq (addr - 4)).getD (reg s (addr - 4))) value (dropLow s rq (addr - 4))
      ∧ (b ∈ [.tim, .hif] → reg t addr = applyWrite r (reg s addr) value ∧ heldLowOf t rq (addr - 4) = none
          ∧ RegsBut [addr - 4, addr] s t))
  ∧ (∀ (rq : Requester) (addr : Nat) (value : Word) (s : State), isWide addr = true → addr % 8 = 4 → canAccess s rq = true →
      s.top.inReset = false → absent s addr = false → shut s (addr - 4) = true →
    Completes (.reg64HighWordWrite rq addr value) s fun t =>
      t.top.held = s.top.held ++ [.wide (addr - 4) (heldLowOf s rq (addr - 4)) value] ∧ t.regs = s.regs)
  ∧ (∀ (addr size : Nat) (dwords : List (Word × Bool)) (s : State), Inv s → s.hif.perst = false → s.top.inReset = false →
      readServed addr size = false →
    Completes (.bar0BadAccess false addr size dwords) s fun t => t.out = s.out ++ [.completerAbort] ∧ regBit t (aHif 8) 1 = true ∧ 0x161 ∈ t.crier.pend)
  ∧ (∀ (addr size : Nat) (dwords : List (Word × Bool)) (s : State), s.hif.perst = false → s.top.inReset = false →
      readServed addr size = true → shut s addr = false → (regInfo addr).isSome = true →
    Completes (.bar0BadAccess false addr size dwords) s fun t =>
      (size = 4 → isWide addr = false → showsLatch addr = false → t.out = s.out ++ [.readData (bytesLE 4 (regView s addr).toNat)])
      ∧ (size = 4 → showsLatch addr = true → t.out = s.out ++ [.readData (bytesLE 4 (latchOf s .host addr).toNat)])
      ∧ (size = 8 → isWide addr = true → showsLatch addr = false →
          t.out = s.out ++ [.readData (bytesLE 4 (regView s addr).toNat ++ bytesLE 4 (regView s (addr + 4)).toNat)]))
  ∧ (∀ (addr size : Nat) (dwords : List (Word × Bool)) (s : State), Inv s → s.hif.perst = false → s.top.inReset = false →
      64 < size ∨ dwords.all (·.2) = false →
    Completes (.bar0BadAccess true addr size dwords) s fun t => regBit t (aHif 8) 1 = true ∧ 0x161 ∈ t.crier.pend)
  ∧ (∀ (addr size : Nat) (dwords : List (Word × Bool)) (s : State), s.hif.perst = false → s.top.inReset = false → size ≤ 64 →
      dwords.all (·.2) = true →
    Completes (.bar0BadAccess true addr size dwords) s fun t =>
      t = forEach dwords.zipIdx (fun u x => busWrite u .host (addr / 4 * 4 + 4 * x.2) x.1.1) s)

/-- Programs and commits. STAGE_WRITE stores its octets in the bank to be staged of a domain open for staging, and completes with OK; with BAD_ARG or
VERSION_BUSY nothing is stored (R112). A commit completes with the status of its checks, and refused changes nothing (R116). Accepted, it closes staging of
the domains that it names and waits, COMMIT for 2 µs on, COMMIT_AT for T, both moved off an earlier commit, COMMIT_TOKEN for its token; only COMMIT
completes later (R113, R117, R118, R120). A cancel of every domain that it names takes them out of the commit that waits and opens staging again (R119). At the
instant every domain of the commit goes to its next version and drains, with source 0x200 or 0x201, and COMMIT completes (R107, R118, R121). Drained of the previous parity, a
domain retires, with its change log to work off (R121, R123); 100 µs after the instant a packet still in it sets FORCED with source 0x205 (R122). With
that work done staging opens, the log is empty and source 0x202 or 0x203 is raised (R123). The oldest event goes into the journal (R124). -/
def Obligations.CommitsComplete : Prop :=
  (∀ (cmd : HostCmd) (s : State), Ready s cmd .stageWrite →
      stageArgsOk cmd = true → stageOpen s (spaceDom (argN cmd 0 1) (argN cmd 1 1)) = true →
    Completes (.stageWrite cmd) s fun t => Reports cmd stOk t
      ∧ t.prog = putBytes s.prog (progKey (stagedBank s (spaceDom (argN cmd 0 1) (argN cmd 1 1))) (argN cmd 0 1) (argN cmd 1 1)
          (argN cmd 2 1) (argN cmd 4 4)) (sliceZ cmd.data 0 cmd.dataLen))
  ∧ (∀ (cmd : HostCmd) (s : State), Ready s cmd .stageWrite →
      stageArgsOk cmd = false ∨ stageOpen s (spaceDom (argN cmd 0 1) (argN cmd 1 1)) = false →
    Completes (.stageWrite cmd) s fun t => t.prog = s.prog
      ∧ Reports cmd (if stageArgsOk cmd then stVersionBusy else stBadArg) t)
  ∧ (∀ (cmd : HostCmd) (s : State), Inv s → Ready s cmd .commit → commitStatus s cmd = stOk →
    Completes (.commit cmd) s fun t => t.hif.completions = s.hif.completions
      ∧ ∀ d ∈ namedDoms cmd, stageOpen t d = false ∧ regF t (aDom d 0) 4 3 = 1
      ∧ ∃ g, grpOf t d = some g ∧ g.doms = namedDoms cmd ∧ g.byCommit = true ∧ g.t = some (deferT s (namedDoms cmd) (clkNs s + 2000)))
  ∧ (∀ (cmd : HostCmd) (s : State), Ready s cmd .commit → commitStatus s cmd ≠ stOk →
    Completes (.commit cmd) s fun t => Reports cmd (commitStatus s cmd) t ∧ t.prg = s.prg ∧ t.regs = s.regs)
  ∧ (∀ (cmd : HostCmd) (s : State), Inv s → Ready s cmd .commitAt → commitStatus s cmd = stOk →
    Completes (.commitAt cmd) s fun t => Reports cmd stOk t ∧ ∀ d ∈ namedDoms cmd, stageOpen t d = false ∧ regF t (aDom d 0) 4 3 = 1
      ∧ ∃ g, grpOf t d = some g ∧ g.doms = namedDoms cmd
        ∧ g.t = some (deferT s (namedDoms cmd) (argN cmd 8 6 * nsPerSec + argN cmd 16 4 % 2 ^ 30)))
  ∧ (∀ (cmd : HostCmd) (s : State), Ready s cmd .commitAt → commitStatus s cmd ≠ stOk →
    Completes (.commitAt cmd) s fun t => Reports cmd (commitStatus s cmd) t ∧ t.prg = s.prg ∧ t.regs = s.regs)
  ∧ (∀ (cmd : HostCmd) (s : State), Inv s → Ready s cmd .commitToken → commitStatus s cmd = stOk →
    Completes (.commitToken cmd) s fun t => Reports cmd stOk t ∧ ∀ d ∈ namedDoms cmd, stageOpen t d = false
      ∧ regBit t (aDom d 0) 4 = true ∧ ∃ g, grpOf t d = some g ∧ g.doms = namedDoms cmd ∧ g.token = some (argN cmd 8 4) ∧ g.t = none)
  ∧ (∀ (cmd : HostCmd) (s : State), Ready s cmd .commitToken → commitStatus s cmd ≠ stOk →
    Completes (.commitToken cmd) s fun t => Reports cmd (commitStatus s cmd) t ∧ t.prg = s.prg ∧ t.regs = s.regs)
  ∧ (∀ (cmd : HostCmd) (s : State), Inv s → Ready s cmd .commitCancel → commitStatus s cmd = stOk → cancelStatus s cmd = stOk →
    Completes (.commitCancel cmd) s fun t => Reports cmd stOk t ∧ ∀ d ∈ namedDoms cmd, grpOf t d = none
      ∧ stageOpen t d = true ∧ regF t (aDom d 0) 4 3 = 0)
  ∧ (∀ (cmd : HostCmd) (s : State), Ready s cmd .commitCancel → commitStatus s cmd ≠ stOk ∨ cancelStatus s cmd ≠ stOk →
    Completes (.commitCancel cmd) s fun t => t.prg = s.prg ∧ t.regs = s.regs
      ∧ Reports cmd (if commitStatus s cmd = stOk then cancelStatus s cmd else commitStatus s cmd) t)
  ∧ (∀ (d : Dom) (g : CommitGrp) (n : Nat) (s : State), Inv s → grpOf s d = some g → g.t = some n → n ≤ clkNs s → g.doms.Nodup →
    Completes (.commitInstant d) s fun t => (∀ x ∈ g.doms, curVer t x = nextVer s x ∧ regBit t (aDom x 0) 1 = true
        ∧ 0x200 + domIdx x ∈ t.crier.pend)
      ∧ (g.byCommit = true → s.hif.oldBell < g.cmd.bell → Reports g.cmd stOk t) ∧ t.prg.groups = s.prg.groups.filter (· ≠ g))
  ∧ (∀ (d : Dom) (s : State), Inv s → regBit s (aDom d 0) 1 = true → domHolds s d = false →
    Completes (.drainEnd d) s fun t => regBit t (aDom d 0) 1 = false ∧ regBit t (aDom d 0) 2 = true
      ∧ (getDom t d).retireTodo = (getDom s d).changeLog)
  ∧ (∀ (failedBlocks : List Nat) (s : State), Inv s → fwRuns s = true → sealReady s = true → s.prg.events ≠ [] →
    Completes (.commitRecordWrite failedBlocks) s fun t => t.prg.events = s.prg.events.tail
      ∧ ∃ e, s.prg.events.head? = some e ∧ jrnCommits t.journal = e :: jrnCommits s.journal)
  ∧ (∀ (d : Dom) (n : Nat) (s : State), Inv s → regBit s (aDom d 0) 1 = true → domHolds s d = true → (getDom s d).prevT = some n →
      n + 100000 ≤ clkNs s →
    Completes (.drainForce d) s fun t => regBit t (aDom d 0) 5 = true ∧ 0x205 ∈ t.crier.pend)
  ∧ (∀ (d : Dom) (s : State), Inv s → regBit s (aDom d 0) 2 = true → (getDom s d).retireTodo = [] →
    Completes (.retireComplete d) s fun t => stageOpen t d = true ∧ regBit t (aDom d 0) 2 = false ∧ (getDom t d).changeLog = []
      ∧ 0x202 + domIdx d ∈ t.crier.pend)

/-- Ports and links, in islands that are out of reset. A configuration write is applied where no lane of its octet is enabled, or where the lane is in
DISABLED or the write keeps the other fields, and is refused with LAN.ERR otherwise (R132). An enabled head lane starts in ACQUIRE where its laser inputs carry
light and in NO_SIGNAL otherwise, and stays in DISABLED with LAN.ERR for a reserved combination (R131, R139); disabled it is in DISABLED and nothing arrives
there (R144). A port in ACQUIRE comes up when aligned within 180 ns and records its skew (R134, R139). A lost signal takes a port to NO_SIGNAL, lost
alignment to ACQUIRE, with event 5 where it was aligned (R143). A fault that a port receives is recorded and, STEPPING apart, puts it into FAULT, which ends in UP or
UP_LADDER, with RECOVERY where it came from a fault; a signal that comes back leads to ACQUIRE, and RECOVERY clears when its time is over (R136, R143). -/
def Obligations.PortsComplete : Prop :=
  (∀ (g o : Nat) (value : Word) (s : State), Inv s → g < 36 → o < 4 → s.top.inReset = false → shut s (aLan g (4 * o)) = false →
    Completes (.octCfgWrite g o value) s fun t =>
      ((∀ k : Nat, k < 8 → portEn s (32 * g + 8 * o + k) = false) → reg t (aLan g (4 * o)) = value &&& 0x7F)
      ∧ ((∃ k ∈ List.range 8, portEn s (32 * g + 8 * o + k) = true) →
          reg t (aLan g (4 * o)) = reg s (aLan g (4 * o)) ∧ regBit t (aLan g 0x40) 0 = true))
  ∧ (∀ (lane : Nat) (value : Word) (s : State), Inv s → lane < 1152 → s.top.inReset = false → shut s (aPortCfg lane) = false →
      (regBit s (aPortCfg lane) 31 = false ∧ portState s lane = 0)
        ∨ portCfgNew (reg s (aPortCfg lane)) value &&& 0x7FFFFFFF = reg s (aPortCfg lane) &&& 0x7FFFFFFF →
    Completes (.portCfgWrite lane value) s fun t => reg t (aPortCfg lane) = portCfgNew (reg s (aPortCfg lane)) value)
  ∧ (∀ (lane : Nat) (value : Word) (s : State), Inv s → lane < 1152 → s.top.inReset = false → shut s (aPortCfg lane) = false →
      regBit s (aPortCfg lane) 31 = true ∨ portState s lane ≠ 0 →
      portCfgNew (reg s (aPortCfg lane)) value &&& 0x7FFFFFFF ≠ reg s (aPortCfg lane) &&& 0x7FFFFFFF →
    Completes (.portCfgWrite lane value) s fun t => reg t (aPortCfg lane) = reg s (aPortCfg lane) ∧ regBit t (aLan (lane / 32) 0x40) 0 = true)
  ∧ (∀ (lane : Nat) (s : State), Inv s → lane < 1152 → s.top.inReset = false → shut s (aPortCfg lane) = false →
      regBit s (aPortCfg lane) 31 = false → portState s lane = 0 →
    Completes (.portEnable lane) s fun t => regBit t (aPortCfg lane) 31 = true
      ∧ ((portLanes s lane).isSome = true → modeReserved s lane = false → portState t lane = (if portLit s lane then 2 else 1))
      ∧ ((portLanes s lane).isSome = true → modeReserved s lane = true → portState t lane = 0 ∧ regBit t (aLan (lane / 32) 0x40) 1 = true)
      ∧ (portLanes s lane = none → portState t lane = 0))
  ∧ (∀ (lane : Nat) (s : State), Inv s → lane < 1152 → s.top.inReset = false → shut s (aPortCfg lane) = false →
      regBit s (aPortCfg lane) 31 = true →
      portCfgNew (reg s (aPortCfg lane)) (reg s (aPortCfg lane) &&& 0x7FFFFFFF) = reg s (aPortCfg lane) &&& 0x7FFFFFFF →
    Completes (.portDisable lane) s fun t => regBit t (aPortCfg lane) 31 = false
      ∧ ((portLanes s lane).isSome = true → portState t lane = 0 ∧ ∀ a ∈ t.pipes.arriving, a.port ≠ lane)
      ∧ (portLanes s lane = none → portState t lane = portState s lane))
  ∧ (∀ (port skewNs : Nat) (s : State), Inv s → portLocks s port = true → skewNs ≤ 180 →
    Completes (.portAligned port skewNs) s fun t => regF t (aPortState port) 7 0 = skewNs ∧ regBit t (aPortState port) 27 = true
      ∧ portState t port = (if isLadder s port && !(getPort s port).full then 3 else 5))
  ∧ (∀ (port skewNs : Nat) (s : State), Inv s → portLocks s port = true → 180 < skewNs →
    Completes (.portAligned port skewNs) s fun t => portState t port = 2
      ∧ regF t (aPortState port) 7 0 = max (regF s (aPortState port) 7 0) (min 255 skewNs))
  ∧ (∀ (lane l : Nat) (signalGone : Bool) (s : State), Inv s → lane < 1152 → portOf s lane = l → portLive s l = true → portState s l ≠ 1 →
      signalGone = true ∨ (portState s l ≠ 2 ∧ portState s l ≠ 4) →
    Completes (.lossOfSignal lane signalGone) s fun t => portState t l = (if signalGone then 1 else 2)
      ∧ regBit t (aPortState l) 27 = false ∧ regF t (aPortState l) 24 23 = 0
      ∧ (regBit s (aPortState l) 27 = true → regBit t (aEvtLanes (l / 32) 5) (l % 32) = true))
  ∧ (∀ (port : Nat) (localFault : Bool) (s : State), Inv s → portLive s port = true → portState s port ≠ 1 →
    Completes (.faultReceived port localFault) s fun t => regF t (aPortState port) 24 23 = (if localFault then 2 else 1)
      ∧ (portState s port ≠ 4 → portState t port = 6 ∧ (getPort t port).fromFault = true)
      ∧ (portState s port = 4 → portState t port = 4))
  ∧ (∀ (port : Nat) (s : State), Inv s → portLive s port = true → portState s port = 6 →
    Completes (.faultCleared port) s fun t => portState t port = (if isLadder s port && !(getPort s port).full then 3 else 5)
      ∧ regF t (aPortState port) 24 23 = 0 ∧ ((getPort s port).fromFault = true → regBit t (aPortState port) 18 = true))
  ∧ (∀ (port : Nat) (s : State), Inv s → portLive s port = true → portState s port = 1 → portLit s port = true →
    Completes (.signalPresent port) s fun t => portState t port = 2)
  ∧ (∀ (port : Nat) (s : State), Inv s → (portLanes s port).isSome = true →
    Completes (.recoveryEnd port) s fun t => regBit t (aPortState port) 18 = false ∧ RegsBut [aPortState port] s t)

/-- The ladder, FEC and equalisation. While firmware runs, the initiator of a ladder port in UP_LADDER, its peer found and every lane capable, proposes a step
once, but not in a protected span (R139, R142, R392); once a step is taken the transmitters switch and the peer is lost (R139, R390), and a step that succeeds within
the skew bound brings the port to UP at RATE_NOW 2 with event 1 and RECOVERY as it was. A try that fails, or whose proposal gets no answer, counts in STEP_TRIES
and is retried, or with the third finishes the ladder, and a failed step takes a port that is not in NO_SIGNAL to ACQUIRE; with no peer the port holds UP_LADDER
with event 2 (R140). FEC counts go to the set of the port's head lane, with event 4 above a threshold that is set and event 5 for a codeword that
cannot be corrected (R135, R148). Each parameter of the equaliser takes one step toward its aim (R145, R146), and a wanted value in conflict with the policy is
shown with event 3 (R147). -/
def Obligations.LadderAndLanesComplete : Prop :=
  (∀ (port : Nat) (s : State), mayStep s port = true → fwRuns s = true → ainumEn s port = true →
      ainPeer s port = true → allCapable s port = true → (getPort s port).retry = false → (getPort s port).proposed = none →
      s.top.fuses.selfId < reg64 s (aAinPort port 8) → regBit s (aSlot port 0) 29 = false →
    Completes (.ladderStepPropose port) s fun t => (getPort t port).proposed = some ((getPort s port).stepNo % 256)
      ∧ (getPort t port).stepNo = ((getPort s port).stepNo % 256 + 1) % 256
      ∧ mkMsg 3 0 ((getPort s port).stepNo % 256) 0 ∈ (getAin t port).pend)
  ∧ (∀ (port : Nat) (s : State), Inv s → portLive s port = true → (getPort s port).stepTaken = true → portState s port = 3 →
    Completes (.stepTransmitterSwitch port) s fun t => portState t port = 4 ∧ rateNow t port = 1 ∧ ainPeer t port = false)
  ∧ (∀ (port skewNs : Nat) (s : State), Inv s → portLive s port = true → portState s port = 4 → isLadder s port = true →
      skewNs ≤ 180 → regF s (aPortState port) 24 23 = 0 →
    Completes (.ladderStepSuccess port skewNs) s fun t => portState t port = 5 ∧ rateNow t port = 2
      ∧ (getPort t port).finished = true ∧ (getPort t port).stepTaken = false ∧ regBit t (aEvtLanes (port / 32) 1) (port % 32) = true
      ∧ regBit t (aPortState port) 18 = regBit s (aPortState port) 18)
  ∧ (∀ (port : Nat) (s : State), Inv s → portLive s port = true → (getPort s port).stepTaken = true →
    Completes (.ladderStepFail port) s fun t => (getPort t port).stepTaken = false
      ∧ portState t port = (if portState s port = 1 then 1 else 2)
      ∧ regF t (aPortState port) 17 16 = min 3 (regF s (aPortState port) 17 16 + 1)
      ∧ (regF s (aPortState port) 17 16 < 2 → (getPort t port).retry = true)
      ∧ (2 ≤ regF s (aPortState port) 17 16 → (getPort t port).finished = true))
  ∧ (∀ (port : Nat) (s : State), Inv s → fwRuns s = true → mayStep s port = true → (getPort s port).proposed ≠ none →
    Completes (.stepAckTimeout port) s fun t => regF t (aPortState port) 17 16 = min 3 (regF s (aPortState port) 17 16 + 1)
      ∧ (getPort t port).proposed = none ∧ (regF s (aPortState port) 17 16 < 2 → (getPort t port).retry = true)
      ∧ (2 ≤ regF s (aPortState port) 17 16 → (getPort t port).finished = true))
  ∧ (∀ (port : Nat) (s : State), fwRuns s = true → (getPort s port).retry = true →
    Completes (.ladderRetry port) s fun t => getPort t port = { getPort s port with retry := false } ∧ t.regs = s.regs)
  ∧ (∀ (port : Nat) (s : State), Inv s → fwRuns s = true → mayStep s port = true → ainPeer s port = false →
    Completes (.ladderNoPeer port) s fun t => (getPort t port).finished = true ∧ portState t port = 3
      ∧ regBit t (aEvtLanes (port / 32) 2) (port % 32) = true)
  ∧ (∀ (lane l symbols words : Nat) (s : State), Inv s → lane < 1152 → portOf s lane = l → portLive s l = true → portState s l ≠ 1 →
    Completes (.fecDegrade lane symbols words) s fun t => reg64 t (aLane l 0x50) = (reg64 s (aLane l 0x50) + symbols) % 2 ^ 64
      ∧ reg64 t (aLane l 0x40) = (reg64 s (aLane l 0x40) + min words symbols) % 2 ^ 64
      ∧ (regF s (aLan (lane / 32) 0xC0) 23 0 ≠ 0 → regF s (aLan (lane / 32) 0xC0) 23 0 < symbols →
          regBit t (aEvtLanes (lane / 32) 4) (lane % 32) = true))
  ∧ (∀ (lane l : Nat) (s : State), Inv s → lane < 1152 → portOf s lane = l → portLive s l = true → portState s l ≠ 1 →
    Completes (.uncorrectableCodeword lane) s fun t => reg64 t (aLane l 0x48) = (reg64 s (aLane l 0x48) + 1) % 2 ^ 64
      ∧ regBit t (aEvtLanes (l / 32) 5) (l % 32) = true)
  ∧ (∀ (lane : Nat) (want : Word) (s : State), Inv s → lane < 1152 → islandDown s (72 + lane / 32) = false →
    Completes (.eqLoopStep lane want) s fun t => ∀ n : Nat, n < 4 →
      regF t (aLane lane 0x20) (8 * n + 7) (8 * n) = ofSigned 8 (eqStep s lane n want) % 256)
  ∧ (∀ (lane : Nat) (want : Word) (s : State), Inv s → lane < 1152 → (∃ n ∈ List.range 4, eqConflict s lane n want = true) →
      intervalOver s (laneKey lane) 100000000 = true →
    Completes (.eqPolicyConflict lane want) s fun t => reg t (aLane lane 0x24) = want
      ∧ regBit t (aEvtLanes (lane / 32) 3) (lane % 32) = true)

/-- Arrival and parse. A frame that arrives at a lane in reset or not enabled is at most counted; at a port that carries frames it enters its group's
hold, or, without room there, is not held and source 0x503 + 4g is raised (R144, R196). The end of a frame ends its arrival, and a bad frame of at most 256
octets leaves the hold (R286). The first frame of the hold, 260 octets of it or its end held, makes its pass of the parse engine, which needs room for it and no frame
of the recirculation path ahead (R168, R208); a NULL domain passes none on (R106). A frame without a parse error leaves the engine for the first stall, and one whose error
the program says to drop does not (R179, R181). Arming a capture clears VALID (R187). A corrected parse word is counted; an
uncorrectable one is counted with source 0x500 + 4g, and is poisoned without a good copy (R186). The recirculation path enters the engine in turn (R170, R293). -/
def Obligations.ParseComplete : Prop :=
  (∀ (port : Nat) (octets : List Byte) (pcs : Stamp) (s : State), (portLanes s port).isSome = true → islandDown s (72 + port / 32) = false →
      portEn s port = false →
    Completes (.frameArrival port octets pcs) s fun t => t = ledgerAdd s (ldgPort port 8) 1 0)
  ∧ (∀ (port : Nat) (octets : List Byte) (pcs : Stamp) (s : State), islandDown s (72 + port / 32) = true →
    Completes (.frameArrival port octets pcs) s fun t => t = s)
  ∧ (∀ (port : Nat) (octets : List Byte) (pcs : Stamp) (s : State), (portLanes s port).isSome = true → islandDown s (72 + port / 32) = false →
      portEn s port = true → carries s port = true → holdUsed s (port / 32) + 16384 ≤ 1048576 →
    Completes (.frameArrival port octets pcs) s fun t =>
      mapGet [] t.pipes.hold (port / 32) = mapGet [] s.pipes.hold (port / 32) ++ [arrivedPacket s port octets (ingressStamp s port pcs)]
      ∧ t.pipes.arriving = s.pipes.arriving ++ [{ id := s.pipes.nextId, port := port, got := octets }]
      ∧ t.pipes.nextId = s.pipes.nextId + 1)
  ∧ (∀ (port : Nat) (octets : List Byte) (pcs : Stamp) (s : State), (portLanes s port).isSome = true → islandDown s (72 + port / 32) = false →
      portEn s port = true → carries s port = true → 1048576 < holdUsed s (port / 32) + 16384 →
    Completes (.frameArrival port octets pcs) s fun t => mapGet [] t.pipes.hold (port / 32) = mapGet [] s.pipes.hold (port / 32)
      ∧ 0x503 + 4 * (port / 32) ∈ t.crier.pend)
  ∧ (∀ (frame : Nat) (octets : List Byte) (verdict : TailVerdict) (a : Arriving) (s : State),
      s.pipes.arriving.find? (fun y => y.id == frame) = some a →
    Completes (.frameTailArrival frame octets verdict) s fun t => t.pipes.arriving = s.pipes.arriving.filter (·.id != frame)
      ∧ ((judgeTail verdict (a.got.length + octets.length) (regF s (aPortCfg a.port) 13 0)).2 = false →
          a.got.length + octets.length ≤ 256 → (mapGet [] t.pipes.hold (a.port / 32)).all (·.id != frame) = true))
  ∧ (∀ (g : Nat) (p : Packet) (s : State), g < 36 → headAt s.pipes.hold g = some p → p.whole = true ∨ 260 ≤ p.octets.length →
      parseReady s g = true → regBit s (aPipe g 0) 0 = false → mapGet [] s.pipes.recirc g = [] →
    Completes (.parseEntry g) s fun t => mapGet [] t.pipes.hold g = (mapGet [] s.pipes.hold g).tail
      ∧ (regBit s (aDom .ing 0) 8 = true → mapGet [] t.pipes.parse g = mapGet [] s.pipes.parse g)
      ∧ (regBit s (aDom .ing 0) 8 = false → mapGet [] t.pipes.parse g = mapGet [] s.pipes.parse g
          ++ [parPass { s with pipes := { s.pipes with hold := popAt s.pipes.hold g } } g (startMeta s p)]))
  ∧ (∀ (g : Nat) (p : Packet) (s : State), g < 36 → headAt s.pipes.parse g = some p → p.parseErr = 0 →
    Completes (.parseExit g) s fun t => mapGet [] t.pipes.parse g = (mapGet [] s.pipes.parse g).tail
      ∧ waitingAt t (20 * g) = waitingAt s (20 * g) ++ [{ pkt := pmScan s g p, copy := none }])
  ∧ (∀ (g : Nat) (p : Packet) (s : State), g < 36 → headAt s.pipes.parse g = some p → p.parseErr ≠ 0 → p.parseErr < 15 →
    Completes (.parseExit g) s fun t => mapGet [] t.pipes.parse g = (mapGet [] s.pipes.parse g).tail
      ∧ ((parHeader s g p.ingVer 0x3F00 2).testBit p.parseErr = true → waitingAt t (20 * g) = waitingAt s (20 * g))
      ∧ ((parHeader s g p.ingVer 0x3F00 2).testBit p.parseErr = false →
          waitingAt t (20 * g) = waitingAt s (20 * g) ++ [{ pkt := pmScan s g p, copy := none }]))
  ∧ (∀ (g : Nat) (s : State), Inv s → g < 36 → s.top.inReset = false → shut s (aPar g 0) = false →
    Completes (.parCaptureArm g) s fun t => regBit t (aPar g 0) 0 = true ∧ regBit t (aPar g 8) 0 = false)
  ∧ (∀ (g space bank offset : Nat) (err : WordErr) (s : State), Inv s → g < 36 → space = 3 ∨ space = 4 → bank < 2 → offset < spaceSize space →
    Completes (.parseWordRepair g space bank offset err) s fun t =>
      (err = .corrected → regF t (aPar g 0x20) 15 0 = min 65535 (regF s (aPar g 0x20) 15 0 + 1) ∧ t.pipes = s.pipes)
      ∧ (err ≠ .corrected → 0x500 + 4 * g ∈ t.crier.pend
          ∧ regF t (aPar g 0x20) 31 16 = min 65535 (regF s (aPar g 0x20) 31 16 + 1)
          ∧ (err = .uncorrectable true ∨ space = 4 → progKey bank space g 0 offset ∈ t.pipes.parsePoison)))
  ∧ (∀ (g : Nat) (p : Packet) (s : State), g < 36 → nextRecirc s g = some p → parseReady s g = true →
    Completes (.recircEntry g) s fun t => mapGet [] t.pipes.recirc g = (mapGet [] s.pipes.recirc g).erase p
      ∧ (regBit s (aDom .ing 0) 8 = false → (mapGet [] t.pipes.parse g).length = (mapGet [] s.pipes.parse g).length + 1)
      ∧ (regBit s (aDom .ing 0) 8 = false → p.unit = 0 → mapGet [] t.pipes.parse g = mapGet [] s.pipes.parse g
          ++ [parPass { s with pipes := { s.pipes with
              recirc := mapMod [] s.pipes.recirc g (·.erase p), recircHost := mapPut false s.pipes.recircHost g false } } g (recircMeta p)]))

/-- The stalls. A stall that runs admits the oldest packet that waits, into a free context (R190). An unfinished context of a stall that is not halted reads its
next word: a parity failure pauses the stall and marks every unfinished context at that word (R213); otherwise, in a stall that is not paused, the word is taken, and a
reserved one ends its routine with STALL_FAULT (R212, R228). A word that something holds at the end of its window takes WAIT_TIMEOUT (R199). A lookup's answer lands in its slot
(R200, R245). An open that waits, for an index that no other context holds, is granted: its register is read, and a write that it holds acts and releases the
lock (R201, R202). Read data arrives in its port (R201, R227). The oldest colour lands in MD_QOS, and a red that drops finishes the packet (R203, R344). Reloads that end
resume the stall, a word without a good backing copy poisoned (R213, R214). The oldest packet, finished, departs to the next stage when that can
admit it (R193, R196). -/
def Obligations.StallsComplete : Prop :=
  (∀ (stall : Nat) (f : Flight) (s : State), headAt s.pipes.entry stall = some f → stallDown s stall = false →
      (getStall s stall).paused = false → (getStall s stall).ctxs.length < 32 →
    Completes (.stallAdmit stall) s fun t =>
      (getStall t stall).ctxs = (getStall s stall).ctxs ++ [freshCtx (freeNum (getStall s stall).ctxs) f]
      ∧ waitingAt t stall = (waitingAt s stall).tail)
  ∧ (∀ (stall ctx : Nat) (backingBad : Bool) (constErr : Option (Nat × Bool)) (x : Ctx) (s : State), getCtx s stall ctx = some x →
      x.finished = false → x.marked = false → stallDown s stall = false → regBit s (aStall stall 0) 0 = false →
    Completes (.stallWordIssue stall ctx true backingBad constErr) s fun t => (getStall t stall).paused = true
      ∧ (getStall t stall).ctxs = (getStall s stall).ctxs.map fun y =>
          if !y.finished && stallWordKey stall (stallVer stall y.pkt) y.next == stallWordKey stall (stallVer stall x.pkt) x.next
          then { y with marked := true } else y)
  ∧ (∀ (stall ctx : Nat) (backingBad : Bool) (constErr : Option (Nat × Bool)) (x : Ctx) (s : State), getCtx s stall ctx = some x →
      x.finished = false → x.marked = false → stallDown s stall = false → (getStall s stall).paused = false → regBit s (aStall stall 0) 0 = false →
    Completes (.stallWordIssue stall ctx false backingBad constErr) s fun t => t = takeWord (constSeen s stall x constErr) stall ctx x)
  ∧ (∀ (stall ctx : Nat) (backingBad : Bool) (constErr : Option (Nat × Bool)) (x : Ctx) (s : State), getCtx s stall ctx = some x →
      x.finished = false → x.marked = false → stallDown s stall = false → (getStall s stall).paused = false → regBit s (aStall stall 0) 0 = false →
      stallWordKey stall (stallVer stall x.pkt) x.next ∉ s.pipes.poison →
      wordReserved (progNat s (stallWordKey stall (stallVer stall x.pkt) x.next) 32) = true →
    Completes (.stallWordIssue stall ctx false backingBad constErr) s fun t => ∃ y, getCtx t stall ctx = some y ∧ y.finished = true
      ∧ y.pkt = hwDrop x.pkt (faultReason 2))
  ∧ (∀ (stall ctx : Nat) (x : Ctx) (s : State), getCtx s stall ctx = some x → x.finished = false → x.marked = false →
      stallDown s stall = false → regBit s (aStall stall 0) 0 = false →
      wordReserved (progNat s (stallWordKey stall (stallVer stall x.pkt) x.next) 32) = false →
      wordReady x (progNat s (stallWordKey stall (stallVer stall x.pkt) x.next) 32) = false →
    Completes (.waitTimeout stall ctx) s fun t => ∃ y, getCtx t stall ctx = some y ∧ y.finished = true
      ∧ y.pkt = hwDrop x.pkt (faultReason 1))
  ∧ (∀ (stall ctx slot : Nat) (err : Option (Nat × Bool)) (x : Ctx) (r : LkReq) (s : State), getCtx s stall ctx = some x →
      (ctxSlot x slot).req = some r →
    Completes (.lookupResult stall ctx slot err) s fun t => ∃ y, getCtx t stall ctx = some y ∧ (ctxSlot y slot).req = none
      ∧ (ctxSlot y slot).words = (runLookup s (stallPipe stall) (hallOf (pipeGroup (stallPipe stall))) r err).2)
  ∧ (∀ (stall ctx port idx : Nat) (x : Ctx) (s : State), getCtx s stall ctx = some x → port < 4 → port < x.ports.length →
      (ctxPort x port).index = some idx → (ctxPort x port).waiting = true → (∀ k : Nat, k < 4 → (ctxPort x k).heldWrite = none) →
      otherLocks s stall ctx idx = false →
    Completes (.statefulLockGrant stall ctx port) s fun t => ∃ y, getCtx t stall ctx = some y ∧ (ctxPort y port).locked = true
      ∧ (ctxPort y port).waiting = false ∧ (ctxPort y port).reading = some (stateReg s stall idx))
  ∧ (∀ (stall ctx port idx : Nat) (low : Bool) (v : BitVec 64) (x : Ctx) (s : State), getCtx s stall ctx = some x → port < 4 → port < x.ports.length →
      (ctxPort x port).index = some idx → (ctxPort x port).waiting = true → (ctxPort x port).heldWrite = some (low, v) →
      (∀ k : Nat, k < 4 → k ≠ port → (ctxPort x k).waiting = false) → otherLocks s stall ctx idx = false → (getStall s stall).hostWrites = [] →
    Completes (.statefulLockGrant stall ctx port) s fun t => stateReg t stall idx = overData (stateReg s stall idx) low v
      ∧ ∃ y, getCtx t stall ctx = some y ∧ (ctxPort y port).locked = false ∧ (ctxPort y port).waiting = false)
  ∧ (∀ (stall ctx port : Nat) (v : BitVec 64) (x : Ctx) (s : State), getCtx s stall ctx = some x → port < x.ports.length →
      (ctxPort x port).reading = some v →
    Completes (.statefulReadData stall ctx port) s fun t => ∃ y, getCtx t stall ctx = some y ∧ (ctxPort y port).arrived = true
      ∧ (ctxPort y port).data = v ∧ (ctxPort y port).delivered = some v ∧ (ctxPort y port).reading = none)
  ∧ (∀ (stall ctx c : Nat) (red : Bool) (rest : List (Nat × Bool)) (x : Ctx) (s : State), getCtx s stall ctx = some x → x.meters = (c, red) :: rest →
    Completes (.meterColour stall ctx) s fun t => ∃ y, getCtx t stall ctx = some y
      ∧ (red = false → y.meters = rest ∧ y.pkt = landColour x.pkt c ∧ y.finished = x.finished)
      ∧ (red = true → y.meters = [] ∧ y.pkt = hwDrop (landColour x.pkt c) 0x10 ∧ y.finished = true))
  ∧ (∀ (stall : Nat) (s : State), (getStall s stall).paused = true →
    Completes (.parityReloadDone stall) s fun t => (getStall t stall).paused = false ∧ (getStall t stall).reloads = []
      ∧ ∀ r ∈ (getStall s stall).reloads, r.2.2 = true → r.1 ∈ t.pipes.poison)
  ∧ (∀ (stall : Nat) (x : Ctx) (rest : List Ctx) (s : State), (getStall s stall).ctxs = x :: rest → x.finished = true → stallDown s stall = false →
      stallNum stall = true → lastStall stall = false → stallCredit s (stall + 1) = true →
    Completes (.stallDepart stall) s fun t => (getStall t stall).ctxs = rest ∧ waitingAt t (stall + 1) = waitingAt s (stall + 1)
        ++ [{ pkt := landAll x.pkt x.meters, copy := x.copy.map fun c => { c with pkt := landAll x.pkt x.meters } }])
  ∧ (∀ (stall : Nat) (x : Ctx) (rest : List Ctx) (s : State), (getStall s stall).ctxs = x :: rest → x.finished = true → stallDown s stall = false →
      stallNum stall = true → lastStall stall = true → x.copy = none →
    Completes (.stallDepart stall) s fun t => (getStall t stall).ctxs = rest
      ∧ mapGet [] t.pipes.toTail (pipeGroup (stallPipe stall)) = mapGet [] s.pipes.toTail (pipeGroup (stallPipe stall)) ++ [landAll x.pkt x.meters])
  ∧ (∀ (stall : Nat) (x : Ctx) (c : Copy) (rest : List Ctx) (s : State), (getStall s stall).ctxs = x :: rest → x.finished = true →
      stallDown s stall = false → stallNum stall = true → lastStall stall = true → x.copy = some c →
    Completes (.stallDepart stall) s fun t => (getStall t stall).ctxs = rest
      ∧ mapGet [] t.pipes.toETail (pipeGroup (stallPipe stall))
        = mapGet [] s.pipes.toETail (pipeGroup (stallPipe stall)) ++ [{ c with pkt := landAll x.pkt x.meters }])

/-- A pipeline's registers and host access to its stalls, by accesses that do not wait at its crossing. QUIESCE sets; QUIESCED sets, with source 0x503 + 4p, once
the pipeline that is to quiesce holds no packet (R215). In the DEBUG state HALT takes the value written, outside it nothing changes, and in a stall that is halted and not paused the
oldest ready context reads one word (R216). A stateful register is read into its window without waiting, and is written at once or, locked, waits with
PENDING (R202). A meter entry is read from those in force; a write without a reserved code is taken at the next boundary, and one with it is ignored (R345). -/
def Obligations.StallAccessesComplete : Prop :=
  (∀ (p : Nat) (s : State), Inv s → p < 72 → s.top.inReset = false → shut s (aPipe p 0) = false →
    Completes (.pipeQuiesce p) s fun t => regBit t (aPipe p 0) 0 = true ∧ RegsBut [aPipe p 0] s t ∧ Only [.regs] s t)
  ∧ (∀ (p : Nat) (s : State), Inv s → p < 72 → regBit s (aPipe p 0) 0 = true → regBit s (aPipe p 4) 1 = false → pipeEmpty s p = true →
    Completes (.quiesced p) s fun t => regBit t (aPipe p 4) 1 = true ∧ 0x503 + 4 * p ∈ t.crier.pend)
  ∧ (∀ (stall : Nat) (halt : Bool) (s : State), Inv s → stall < 1152 → inDebug s = true → s.top.inReset = false → shut s (aStall stall 0) = false →
    Completes (.stallHalt stall halt) s fun t => regBit t (aStall stall 0) 0 = halt ∧ RegsBut [aStall stall 0] s t ∧ Only [.regs] s t)
  ∧ (∀ (stall : Nat) (halt : Bool) (s : State), inDebug s = false → Completes (.stallHalt stall halt) s fun t => t = s)
  ∧ (∀ (stall i : Nat) (parityBad backingBad : Bool) (constErr : Option (Nat × Bool)) (x : Ctx) (s : State), stall < 1152 → inDebug s = true →
      s.top.inReset = false → shut s (aStall stall 0) = false → regBit s (aStall stall 0) 0 = true → (getStall s stall).paused = false →
      oldestReady s stall = some i → getCtx s stall i = some x →
    Completes (.stallStep stall parityBad backingBad constErr) s fun t => t = readWord s stall i x parityBad backingBad constErr)
  ∧ (∀ (stall : Nat) (parityBad backingBad : Bool) (constErr : Option (Nat × Bool)) (s : State), inDebug s = false →
    Completes (.stallStep stall parityBad backingBad constErr) s fun t => t = s)
  ∧ (∀ (stall : Nat) (value : Word) (s : State), Inv s → stall < 1152 → s.top.inReset = false → shut s (aStall stall 0x10) = false →
    Completes (.stateRead stall value) s fun t => reg64 t (aStall stall 0x18) = (stateReg s stall (fget value 15 0)).toNat
      ∧ regF t (aStall stall 0x10) 15 0 = fget value 15 0 ∧ t.pipes = s.pipes)
  ∧ (∀ (stall : Nat) (value : Word) (s : State), Inv s → stall < 1152 → s.top.inReset = false → shut s (aStall stall 0x10) = false →
      indexLocked s stall (fget value 15 0) = false →
    Completes (.stateWrite stall value) s fun t => stateReg t stall (fget value 15 0) = BitVec.ofNat 64 (reg64 s (aStall stall 0x18)))
  ∧ (∀ (stall : Nat) (value : Word) (s : State), Inv s → stall < 1152 → s.top.inReset = false → shut s (aStall stall 0x10) = false →
      indexLocked s stall (fget value 15 0) = true →
    Completes (.stateWrite stall value) s fun t => regBit t (aStall stall 0x10) 29 = true ∧ t.pipes.stateRegs = s.pipes.stateRegs
      ∧ (getStall t stall).hostWrites
        = (getStall s stall).hostWrites ++ [(fget value 15 0, BitVec.ofNat 64 (reg64 s (aStall stall 0x18)))])
  ∧ (∀ (stall : Nat) (value : Word) (s : State), Inv s → stall < 1152 → s.top.inReset = false → shut s (aStall stall 0x100) = false →
    Completes (.meterRead stall value) s fun t => ∀ i : Nat, i < 4 →
      reg t (aStall stall (0x110 + 4 * i)) = (getMeter s (meterKey stall (fget value 13 0))).words.getD i 0)
  ∧ (∀ (stall : Nat) (value : Word) (s : State), Inv s → stall < 1152 → s.top.inReset = false → shut s (aStall stall 0x100) = false →
      meterOk ((List.range 4).map fun i => reg s (aStall stall (0x110 + 4 * i))) = true →
    Completes (.meterWrite stall value) s fun t => regBit t (aStall stall 0x100) 29 = true
      ∧ t.pipes.meterWrites = s.pipes.meterWrites ++ [(meterKey stall (fget value 13 0),
          meterFields ((List.range 4).map fun i => reg s (aStall stall (0x110 + 4 * i))))])
  ∧ (∀ (stall : Nat) (value : Word) (s : State), stall < 1152 → s.top.inReset = false → shut s (aStall stall 0x100) = false →
      meterOk ((List.range 4).map fun i => reg s (aStall stall (0x110 + 4 * i))) = false →
    Completes (.meterWrite stall value) s fun t => t.pipes = s.pipes)

/-- Tails, scheduler, editors and MACs, in islands that are out of reset. The ingress tail takes its oldest frame, one that recirculates once it is whole: the frame goes to the
recirculation path, is forwarded, or is dropped with the reason of its disposition, source 0x503 + 4g where that path is full (R206 to R208). A decision of a group's
scheduler takes the head of the queue that it chooses, of the port whose turn it is, into the egress pipeline (R330). The egress tail passes a
good copy to forward on to the editor, and no other (R207, R286); the editor passes the edited copy to its MAC, a copy that is bad or does not edit not (R209, R211). A whole
copy at the MAC of a port that sends leaves with its FCS, inverted for a bad frame that had begun (R137, R405), no gated frame before its projected start (R376); a bad
frame that had not begun is dropped (R286); where its data cannot be read, one that had begun ends marked and one that had not leaves the MAC, and a frame whose load
ops cannot read theirs goes no further (R298). -/
def Obligations.EgressComplete : Prop :=
  (∀ (g : Nat) (p : Packet) (s : State), g < 36 → islandDown s g = false → headAt s.pipes.toTail g = some p → mdAct p = 2 → p.whole = true →
      tailDrop s g p = none →
    Completes (.ingressTail g) s fun t => mapGet [] t.pipes.toTail g = (mapGet [] s.pipes.toTail g).tail
      ∧ mapGet [] t.pipes.recirc g = mapGet [] s.pipes.recirc g ++ [p])
  ∧ (∀ (g : Nat) (p : Packet) (s : State), g < 36 → islandDown s g = false → headAt s.pipes.toTail g = some p → mdAct p = 0 ∨ mdAct p = 3 →
    Completes (.ingressTail g) s fun t =>
      t = tailForward (flowTake { s with pipes := { s.pipes with toTail := popAt s.pipes.toTail g } } g p none) g p)
  ∧ (∀ (g r : Nat) (p : Packet) (s : State), g < 36 → islandDown s g = false → headAt s.pipes.toTail g = some p → mdAct p ≠ 2 ∨ p.whole = true →
      tailDrop s g p = some r →
    Completes (.ingressTail g) s fun t => mapGet [] t.pipes.toTail g = (mapGet [] s.pipes.toTail g).tail
      ∧ mapGet [] t.pipes.recirc g = mapGet [] s.pipes.recirc g
      ∧ (r = 0x0A → 0x503 + 4 * g ∈ t.crier.pend)
      ∧ (r ≠ 0x0A → mdAct p ≤ 2 → t = dropPacket (flowTake { s with pipes := { s.pipes with toTail := popAt s.pipes.toTail g } } g p (some r)) g r p p.tally))
  ∧ (∀ (g l pass q : Nat) (d : Store Int) (c : Copy) (rest : List Copy) (err : Option DataErr) (s : State), g < 36 → islandDown s (36 + g) = false →
      stallCredit (expireGroup s g) (720 + 12 * g) = true → regBit (expireGroup s g) (aPipe (36 + g) 0) 0 = false →
      nextPort (expireGroup s g) g = some l → chooseQueue (expireGroup s g) l = some (pass, q, d) →
      qEntries (expireGroup s g) q = c :: rest →
    Completes (.dequeueDecision g err) s fun t => qEntries t q = rest ∧ mapGet 0 t.sched.lastPort g = l % 32 + 1
      ∧ (waitingAt t (720 + 12 * g)).length = (waitingAt (expireGroup s g) (720 + 12 * g)).length
        + b2n (loadReach (expireGroup s g) g (egressMeta (expireGroup s g) c).egrVer (mdEprof c.pkt) (egressMeta (expireGroup s g) c) == 0
          || !(marketRead s c err).2))
  ∧ (∀ (g : Nat) (c : Copy) (s : State), g < 36 → islandDown s (36 + g) = false → headAt s.pipes.toETail g = some c →
    Completes (.egressTail g) s fun t =>
      (c.pkt.bad = 0 → mdAct c.pkt = 0 → mapGet [] t.pipes.toEditor g = mapGet [] s.pipes.toEditor g ++ [c])
      ∧ (c.pkt.bad ≠ 0 ∨ mdAct c.pkt ≠ 0 → mapGet [] t.pipes.toEditor g = mapGet [] s.pipes.toEditor g))
  ∧ (∀ (g : Nat) (c : Copy) (s : State), g < 36 → islandDown s (36 + g) = false → headAt s.pipes.toEditor g = some c → editArrived c = true →
    Completes (.editor g) s fun t =>
      (c.pkt.bad = 0 → ∀ e, editCopy { s with pipes := { s.pipes with toEditor := popAt s.pipes.toEditor g } } g c = some e →
        mapGet [] t.pipes.mac e.1.port = mapGet [] s.pipes.mac e.1.port ++ [e.1])
      ∧ (c.pkt.bad ≠ 0 ∨ editCopy { s with pipes := { s.pipes with toEditor := popAt s.pipes.toEditor g } } g c = none →
          t.pipes.mac = s.pipes.mac))
  ∧ (∀ (port : Nat) (pcs : Stamp) (begun : Bool) (c : Copy) (s : State), headAt s.pipes.mac port = some c → c.pkt.whole = true → c.port = port →
      sends s port begun = true → tooSoon c pcs = false → islandDown s (72 + port / 32) = false → editedLen c ≤ 16383 →
      c.pkt.bad = 0 ∨ begun = true →
    Completes (.copyDeparture port pcs begun none) s fun t =>
      .frame port (leavingOctets s c (egressStamp s port pcs) ++ bytesLE 4 (if c.pkt.bad = 0
        then crc32 (leavingOctets s c (egressStamp s port pcs)) else 0xFFFFFFFF - crc32 (leavingOctets s c (egressStamp s port pcs))))
        (c.pkt.bad != 0) ∈ t.out)
  ∧ (∀ (port : Nat) (pcs : Stamp) (c : Copy) (s : State), headAt s.pipes.mac port = some c → c.pkt.whole = true → c.port = port →
      sends s port false = true → tooSoon c pcs = false → islandDown s (72 + port / 32) = false → c.pkt.bad ≠ 0 →
    Completes (.copyDeparture port pcs false none) s fun t => (mapGet [] t.pipes.mac port).length + 1 = (mapGet [] s.pipes.mac port).length)
  ∧ (∀ (port : Nat) (pcs : Stamp) (begun : Bool) (err : DataErr) (c : Copy) (s : State), headAt s.pipes.mac port = some c → c.pkt.whole = true →
      c.port = port → sends s port begun = true → tooSoon c pcs = false → islandDown s (72 + port / 32) = false →
      (marketRead s c (some err)).2 = true →
    Completes (.copyDeparture port pcs begun (some err)) s fun t =>
      (mapGet [] t.pipes.mac port).length + 1 = (mapGet [] s.pipes.mac port).length
      ∧ (begun = true → t.out.any (fun e => match e with | .frame l _ marked => l == port && marked | _ => false) = true))

/-- Priority flow control, the refill boundary and PORT_Q. A PFC frame at a port that carries frames is counted, and unless it is a PAUSE frame it sets the pause timer of
each priority that it enables, that the port honours and that no watchdog holds (R338); a pause ends when its time is over. A due PFC frame is sent once,
and the frame of an asserted priority again by itself (R339). A priority paused without a break for WD_TIME trips: the trip is counted, its hold begins and source 0x900 + 4g is raised;
the hold ends with source 0x901 + 4g (R340). At a refill boundary the scheduler's registers come into force and the meter writes are taken (R337, R345). PORT_Q takes a
range that fits and meets no other where the port is disabled and no queue that it loses is busy; otherwise it keeps its value, with SCH.ERR and source 0x902 +
4g (R329). -/
def Obligations.FlowControlComplete : Prop :=
  (∀ (port : Nat) (enable : BitVec 8) (times : List Nat) (isPause : Bool) (s : State), Inv s → (portLanes s port).isSome = true → carries s port = true →
    Completes (.pfcFrameReceived port enable times isPause) s fun t => reg64 t (aSPort port 0x30) = (reg64 s (aSPort port 0x30) + 1) % 2 ^ 64
      ∧ (isPause = true → t.sched = s.sched)
      ∧ (isPause = false → ∀ n : Nat, n < 8 → enable.getLsbD n = true → schF s (aSPort port 0x10) (24 + n) (24 + n) = 1 →
          wdHolding s port n = false → mapGet 0 t.sched.pauseEnd (prioKey port n)
            = if times.getD n 0 = 0 then 0 else s.elapsed + pauseNs s port (times.getD n 0)))
  ∧ (∀ (port prio : Nat) (s : State), prio < 8 →
    Completes (.pfcPauseExpiry port prio) s fun t => mapGet 0 t.sched.pauseEnd (prioKey port prio) = 0 ∧ isPaused t port prio = false
      ∧ t.regs = s.regs)
  ∧ (∀ (port : Nat) (s : State), mapGet 0 s.sched.xoffDue port ≠ 0 → carries s port = true →
    Completes (.pfcFrameSend port) s fun t => mapGet 0 t.sched.xoffDue port = 0 ∧ t.out = s.out ++ [.pfc port (pfcSource s port) (mapGet 0 s.sched.xoffDue port)
      ((List.range 8).map fun n => if (mapGet 0 s.sched.xoffDue port).testBit n && regBit s (aMPort port 8) n then schF s (aSPort port 0x10) 15 0 else 0)])
  ∧ (∀ (port prio : Nat) (s : State), port < 1152 → prio < 8 → regBit s (aMPort port 8) prio = true →
      (mapGet 0 s.sched.xoffDue port).testBit prio = false → carries s port = true →
    Completes (.pfcRefresh port prio) s fun t => t.out = s.out ++ [.pfc port (pfcSource s port) (2 ^ prio)
      ((List.range 8).map fun n => if n = prio then schF s (aSPort port 0x10) 15 0 else 0)])
  ∧ (∀ (port prio : Nat) (s : State), Inv s → prio < 8 → wdDue s port prio = true →
    Completes (.pfcWatchdogTrip port prio) s fun t => 0x900 + 4 * (port / 32) ∈ t.crier.pend
      ∧ mapGet 0 t.sched.wdHold (prioKey port prio) = s.elapsed + 1000000 * schF s (aSPort port 0x14) 15 0)
  ∧ (∀ (port prio : Nat) (s : State), prio < 8 → wdHolding s port prio = true →
    Completes (.pfcWatchdogHoldEnd port prio) s fun t => wdHolding t port prio = false ∧ 0x901 + 4 * (port / 32) ∈ t.crier.pend)
  ∧ (∀ (s : State), Completes .refillBoundary s fun t => t.sched.force = schRegs s ∧ t.sched.refund = [] ∧ t.pipes.meterWrites = [])
  ∧ (∀ (lane : Nat) (value : Word) (s : State), Inv s → lane < 1152 → s.top.inReset = false → shut s (aSPort lane 0) = false → portEn s lane = false →
      ((ownedLocal s lane).filter (fun j => !decide (fget value 24 16 ≤ j ∧ j < fget value 24 16 + fget value 6 0))).all
        (fun j => !queueBusy s (288 * (lane / 32) + j)) = true →
      fget value 6 0 ≤ 64 → fget value 24 16 + fget value 6 0 ≤ 288 → fget value 24 16 < 288 →
      (headLanes s (lane / 32)).all (fun m => m == lane || !rangesMeet (fget value 24 16) (fget value 6 0) (qBase s m) (qCount s m)) = true →
    Completes (.portQWrite lane value) s fun t => reg t (aSPort lane 0) = value &&& 0x01FF007F ∧ RegsBut [aSPort lane 0] s t)
  ∧ (∀ (lane : Nat) (value : Word) (s : State), Inv s → lane < 1152 → s.top.inReset = false → shut s (aSPort lane 0) = false →
      portEn s lane = true ∨ ((ownedLocal s lane).filter (fun j => !decide (fget value 24 16 ≤ j ∧ j < fget value 24 16 + fget value 6 0))).any
        (fun j => queueBusy s (288 * (lane / 32) + j)) = true →
    Completes (.portQWrite lane value) s fun t => reg t (aSPort lane 0) = reg s (aSPort lane 0) ∧ regBit t (aSch (lane / 32) 0) 0 = true
      ∧ 0x902 + 4 * (lane / 32) ∈ t.crier.pend)
  ∧ (∀ (lane : Nat) (value : Word) (s : State), Inv s → lane < 1152 → s.top.inReset = false → shut s (aSPort lane 0) = false →
      64 < fget value 6 0 ∨ 288 < fget value 24 16 + fget value 6 0 ∨ 287 < fget value 24 16
        ∨ (headLanes s (lane / 32)).any (fun m => m != lane && rangesMeet (fget value 24 16) (fget value 6 0) (qBase s m) (qCount s m)) = true →
    Completes (.portQWrite lane value) s fun t => reg t (aSPort lane 0) = reg s (aSPort lane 0) ∧ regBit t (aSch (lane / 32) 0) 1 = true
      ∧ 0x902 + 4 * (lane / 32) ∈ t.crier.pend)

/-- The Market and its host buffers. A write of CARVE is taken while nothing is held and it fits, and one of a reserve where the reserves fit; otherwise MKT.ERR sets with source 0x704 and the
register keeps its value (R271, R272, R275). The value 1 retires a bank in service, with source 0x703 (R299). An audit sweep takes all units held but those of the host, and ends (R295).
BUF_ALLOC completes with BAD_ARG for a length that no unit holds, TABLE_FULL with no free slot or too many units held, POOL_EMPTY without a unit or beyond
the partition, and otherwise with OK, the unit held and mapped. BUF_FREE completes with the status of its handle, and with OK frees and unmaps the unit; BUF_SEND completes
with BAD_ARG or the status of its handle, or sends: to an ingress group the frame waits for the recirculation path, and to a port the command completes with OK (R292, R293). -/
def Obligations.MarketComplete : Prop :=
  (∀ (value : Word) (s : State), Inv s → s.top.inReset = false → shut s (aMkt 0) = false → s.market.units = [] → fget value 22 16 ≤ 64 →
      fget value 9 0 ≤ 512 → 8 * fget value 9 0 + 64 * fget value 22 16 ≤ 4096 →
      drainReserve s ≤ 256 * (4096 - 8 * fget value 9 0 - 64 * fget value 22 16) →
    Completes (.carveWrite value) s fun t => reg t (aMkt 0) = value &&& 0x007F03FF
      ∧ regF t (aPoolFree 1) 20 0 = fget value 9 0 * banksLeft s % 2 ^ 21)
  ∧ (∀ (value : Word) (s : State), Inv s → s.top.inReset = false → shut s (aMkt 0) = false →
      s.market.units ≠ [] ∨ 64 < fget value 22 16 ∨ 512 < fget value 9 0 ∨ 4096 < 8 * fget value 9 0 + 64 * fget value 22 16
        ∨ 256 * (4096 - 8 * fget value 9 0 - 64 * fget value 22 16) < drainReserve s →
    Completes (.carveWrite value) s fun t => reg t (aMkt 0) = reg s (aMkt 0) ∧ 0x704 ∈ t.crier.pend
      ∧ (s.market.units ≠ [] → regBit t (aMkt 8) 0 = true) ∧ (s.market.units = [] → regBit t (aMkt 8) 1 = true))
  ∧ (∀ (hdrm : Bool) (value : Word) (s : State), Inv s → s.top.inReset = false → shut s (aMkt (if hdrm then 0x14 else 0x10)) = false →
      (if hdrm then drainReserve s else fget value 20 0) ≤ 256 * cellPool s →
      (if hdrm then drainReserve s + fget value 20 0 else fget value 20 0 + hdrmReserve s) ≤ 1048576 →
    Completes (.reserveWrite hdrm value) s fun t => regF t (aMkt (if hdrm then 0x14 else 0x10)) 20 0 = fget value 20 0)
  ∧ (∀ (hdrm : Bool) (value : Word) (s : State), Inv s → s.top.inReset = false → shut s (aMkt (if hdrm then 0x14 else 0x10)) = false →
      256 * cellPool s < (if hdrm then drainReserve s else fget value 20 0)
        ∨ 1048576 < (if hdrm then drainReserve s + fget value 20 0 else fget value 20 0 + hdrmReserve s) →
    Completes (.reserveWrite hdrm value) s fun t => reg t (aMkt (if hdrm then 0x14 else 0x10)) = reg s (aMkt (if hdrm then 0x14 else 0x10))
      ∧ regBit t (aMkt 8) 2 = true ∧ 0x704 ∈ t.crier.pend)
  ∧ (∀ (bank : Nat) (value : Word) (s : State), Inv s → bank < 256 → s.top.inReset = false → shut s (aBank bank 8) = false →
    Completes (.bankRetire bank value) s fun t =>
      (value = 1 → bankRetired s bank = false → bankRetired t bank = true ∧ 0x703 ∈ t.crier.pend)
      ∧ (value ≠ 1 ∨ bankRetired s bank = true → t = s))
  ∧ (∀ (s : State), Inv s → regBit s (aMkt 0x40) 31 = true → s.market.sweep = none →
    Completes .auditSweep s fun t => t.market.sweep = some ((s.market.units.filter fun x => x.2.cls != 4).map (·.1))
      ∧ regBit t (aMkt 0x44) 31 = true)
  ∧ (∀ (l : List Nat) (s : State), s.market.sweep = some l →
    Completes .auditSweepEnd s fun t => t.market.sweep = none)
  ∧ (∀ (cmd : HostCmd) (s : State), Ready s cmd .bufAlloc → argN cmd 0 2 < 1 ∨ 16384 < argN cmd 0 2 →
    Completes (.bufAlloc cmd) s fun t => Reports cmd stBadArg t ∧ t.market = s.market)
  ∧ (∀ (cmd : HostCmd) (s : State), Inv s → Ready s cmd .bufAlloc → 1 ≤ argN cmd 0 2 → argN cmd 0 2 ≤ 16384 →
    Completes (.bufAlloc cmd) s fun t => (freeSlot s = none ∨ regF s (aMkt 0x18) 11 0 ≤ s.market.hostHeld.length → Reports cmd stTableFull t)
      ∧ (∀ slot, freeSlot s = some slot → s.market.hostHeld.length < regF s (aMkt 0x18) 11 0 →
        ((requestUnit s 37 (poolFor (argN cmd 0 2)) 4 slot .ordinary).2 = none → Reports cmd stPoolEmpty t)
        ∧ (∀ ua, (requestUnit s 37 (poolFor (argN cmd 0 2)) 4 slot .ordinary).2 = some ua →
          (regF s (aMkt (0x200 + 16 * regF s (aMkt 0x18) 31 29)) 20 0 < regF s (aUsed (regF s (aMkt 0x18) 31 29)) 20 0
              + unitCells (unitTag (requestUnit s 37 (poolFor (argN cmd 0 2)) 4 slot .ordinary).1 ua).pool → Reports cmd stPoolEmpty t)
          ∧ (regF s (aUsed (regF s (aMkt 0x18) 31 29)) 20 0
              + unitCells (unitTag (requestUnit s 37 (poolFor (argN cmd 0 2)) 4 slot .ordinary).1 ua).pool
              ≤ regF s (aMkt (0x200 + 16 * regF s (aMkt 0x18) 31 29)) 20 0 →
            Reports cmd stOk t ∧ ua ∈ t.market.hostHeld ∧ mapGet 0 t.hif.slots slot = ua + 1))))
  ∧ (∀ (cmd : HostCmd) (s : State), Inv s → Ready s cmd .bufFree →
    Completes (.bufFree cmd) s fun t => Reports cmd (checkHandle s (argN cmd 0 4)).2 t
      ∧ ((checkHandle s (argN cmd 0 4)).2 = stOk → (unitTag t (argN cmd 0 4)).cls = 0
          ∧ mapGet 0 t.hif.slots (unitTag s (argN cmd 0 4)).id = 0))
  ∧ (∀ (cmd : HostCmd) (s : State), Ready s cmd .bufSendIngress → sendArgsOk cmd = true → (checkHandle s (argN cmd 0 4)).2 = stOk →
      argN cmd 4 2 ≤ 256 * unitCells (unitTag s (argN cmd 0 4)).pool →
    Completes (.bufSendIngress cmd) s fun t => ∃ p ∈ mapGet [] t.pipes.recirc (argN cmd 8 2), p.unit = argN cmd 0 4 + 1
      ∧ p.octets = bufOctets s (argN cmd 0 4) (argN cmd 4 2))
  ∧ (∀ (cmd : HostCmd) (s : State), Inv s → Ready s cmd .bufSendIngress →
      sendArgsOk cmd = false ∨ (checkHandle s (argN cmd 0 4)).2 ≠ stOk ∨ 256 * unitCells (unitTag s (argN cmd 0 4)).pool < argN cmd 4 2 →
    Completes (.bufSendIngress cmd) s fun t => t.pipes = s.pipes
      ∧ Reports cmd (if sendArgsOk cmd = false then stBadArg else if (checkHandle s (argN cmd 0 4)).2 ≠ stOk then (checkHandle s (argN cmd 0 4)).2 else stBadArg) t)
  ∧ (∀ (cmd : HostCmd) (s : State), Inv s → Ready s cmd .bufSendEgress → sendArgsOk cmd = true → (checkHandle s (argN cmd 0 4)).2 = stOk →
      argN cmd 4 2 ≤ 256 * unitCells (unitTag s (argN cmd 0 4)).pool →
    Completes (.bufSendEgress cmd) s fun t => Reports cmd stOk t)
  ∧ (∀ (cmd : HostCmd) (s : State), Inv s → Ready s cmd .bufSendEgress →
      sendArgsOk cmd = false ∨ (checkHandle s (argN cmd 0 4)).2 ≠ stOk ∨ 256 * unitCells (unitTag s (argN cmd 0 4)).pool < argN cmd 4 2 →
    Completes (.bufSendEgress cmd) s fun t => t.pipes = s.pipes
      ∧ Reports cmd (if sendArgsOk cmd = false then stBadArg else if (checkHandle s (argN cmd 0 4)).2 ≠ stOk then (checkHandle s (argN cmd 0 4)).2 else stBadArg) t)

/-- The spill path. A flush is noted for staged records (R310). A full or flushed open page is written under a free tag, and its end puts the page into the
queue's chain (R310 to R312); the next page in order is read where AHEAD and drain cells allow, and with none in HBM the open one is bypassed and counted (R313); a read that is not yet
due keeps its data, and the one that is due ends (R312). A channel retires with source 0x804, and a second one, a failure or no response loses the stack with source 0x805, and 0x803 where
it held part of a queue (R320, R321, R326). A refresh shows the temperature (R316). The patrol counts what it finds and rebuilds a cell whose page is good otherwise (R318,
R324). A cell in a channel in use is read, and in DEBUG written, through the window, and on a retired channel the access stays BUSY (R325). What a watchdog trip selected is
freed (R340). -/
def Obligations.SpillComplete : Prop :=
  (∀ (queue : Nat) (s : State), (getSpq s queue).spilling = true → (getSpq s queue).cut < readyBytes (getSpq s queue).staging →
    Completes (.pageFlushTimer queue) s fun t => getSpq t queue = { getSpq s queue with flush := true } ∧ t.regs = s.regs)
  ∧ (∀ (queue tag : Nat) (page : Nat × Option Nat) (s : State), canMove s (getSpq s queue) queue = true →
      (getSpq s queue).flush = true ∨ pageRoom page.2 ≤ readyBytes (getSpq s queue).staging - (getSpq s queue).cut →
      freeTag s (getSpq s queue).stack = some tag → (getSpq s queue).openPage = some page →
      readyBytes (getSpq s queue).staging - (getSpq s queue).cut ≠ 0 →
    Completes (.pageWriteStart queue) s fun t => (getSpq t queue).flush = false ∧ (getSpq t queue).nextSeq = (getSpq s queue).nextSeq + 1
      ∧ ∃ f ∈ t.spill.xfers, f.tag = tag ∧ f.kind = .write ∧ f.queue = queue ∧ f.page.page = page.1 ∧ f.page.degraded = page.2
          ∧ f.page.seq = (getSpq s queue).nextSeq)
  ∧ (∀ (stack tag : Nat) (failedCh : List Nat) (x : Xfer) (s : State), findXfer s stack tag = some x → x.kind = .write → islandDown s 121 = false →
      stackUsable s stack = true →
    Completes (.pageWriteCommit stack tag failedCh) s fun t => t.spill.xfers.length < s.spill.xfers.length
      ∧ (failedCh = [] → t.spill.xfers = s.spill.xfers.erase x
          ∧ (getSpq t x.queue).pages = insertPage { x.page with bad := [] } (getSpq s x.queue).pages))
  ∧ (∀ (queue tag : Nat) (p : Page) (rest : List Page) (s : State), canMove s (getSpq s queue) queue = true →
      occOf s queue + 21 * readsOf s queue < regF s (aQspill queue 12) 20 0 → (getSpq s queue).pages = p :: rest →
      isNext s queue p.seq = true → freeTag s (getSpq s queue).stack = some tag → (drainUnits s p.ends).isSome = true →
    Completes (.pageReadStart queue) s fun t => (getSpq t queue).pages = rest
      ∧ ∃ f ∈ t.spill.xfers, f.tag = tag ∧ f.kind = .read ∧ f.queue = queue ∧ f.page = p)
  ∧ (∀ (queue : Nat) (s : State), Inv s → canMove s (getSpq s queue) queue = true →
      occOf s queue + 21 * readsOf s queue < regF s (aQspill queue 12) 20 0 → (getSpq s queue).pages = [] →
      s.spill.xfers.any (fun f => f.queue == queue && f.kind == .write) = false →
      (getSpq s queue).cut < readyBytes (getSpq s queue).staging → (drainUnits s (formPage s queue).1.ends).isSome = true →
    Completes (.pageReadStart queue) s fun t => reg64 t (aSpl 0x50) = (reg64 s (aSpl 0x50) + 1) % 2 ^ 64)
  ∧ (∀ (stack tag : Nat) (x : Xfer) (s : State), findXfer s stack tag = some x → x.kind = .read → x.done = none → islandDown s 121 = false →
      stackUsable s stack = true → retiredCh s stack = 0 → x.page.bad = [] → s.spill.xfers = [x] →
    Completes (.pageReadCommit stack tag [] []) s fun t =>
      (x.page.seq ≠ (getSpq s x.queue).drainSeq → t.spill.xfers = [{ x with done := some (readPage s x []) }])
      ∧ (x.page.seq = (getSpq s x.queue).drainSeq → t.spill.xfers = []))
  ∧ (∀ (stack : Nat) (value : Word) (s : State), Inv s → stack < 2 → s.top.inReset = false → shut s (aStack stack 8) = false →
    Completes (.chRetire stack value) s fun t =>
      (value.getLsbD 31 = true → (retiredCh s stack).testBit (fget value 3 0) = false →
        (retiredCh t stack).testBit (fget value 3 0) = true ∧ 0x804 ∈ t.crier.pend ∧ (retiredCh s stack ≠ 0 → stackLostBit t stack = true))
      ∧ (value.getLsbD 31 = false ∨ (retiredCh s stack).testBit (fget value 3 0) = true → t = s))
  ∧ (∀ (stack : Nat) (s : State), Inv s → stack < 2 → stackLostBit s stack = false →
    Completes (.stackLost stack) s fun t => stackLostBit t stack = true ∧ bringup t (5 + stack) = false ∧ 0x805 ∈ t.crier.pend
      ∧ (spillersOn s stack ≠ [] → 0x803 ∈ t.crier.pend))
  ∧ (∀ (stack tag : Nat) (s : State), Inv s → stack < 2 → (findXfer s stack tag).isSome = true → stackLostBit s stack = false →
    Completes (.hbmNoResponse stack tag) s fun t => stackLostBit t stack = true ∧ 0x805 ∈ t.crier.pend
      ∧ (spillersOn s stack ≠ [] → 0x803 ∈ t.crier.pend))
  ∧ (∀ (stack ch temp : Nat) (s : State), Inv s → stack < 2 → ch < 16 → Completes (.hbmRefresh stack ch temp) s fun t =>
      regF t (aPhy stack) 23 16 = min 255 temp ∧ regBit t (aPhy stack) 30 = decide (85 < temp) ∧ t.spill.hbm = s.spill.hbm
      ∧ t.spill.q = s.spill.q ∧ t.spill.xfers = s.spill.xfers)
  ∧ (∀ (stack page ch : Nat) (corr uncorr : Bool) (s : State), Inv s → stack < 2 → ch < 16 → stackUsable s stack = true → regF s (aSpl 0x18) 7 0 ≠ 0 →
      (retiredCh s stack).testBit ch = false →
    Completes (.patrolScrub stack page ch corr uncorr) s fun t =>
      (corr = true → regF t (aChEcc stack ch) 15 0 = min 65535 (regF s (aChEcc stack ch) 15 0 + 1))
      ∧ (uncorr = true → ∀ p, pageInUse s stack page = some p → ((pageChannels p).1 ++ [(pageChannels p).2]).contains ch = true →
          regF t (aChEcc stack ch) 31 16 = min 65535 (regF s (aChEcc stack ch) 31 16 + 1)
          ∧ ((((pageChannels p).1 ++ [(pageChannels p).2]).filter (· != ch)).all (fun k => !p.bad.contains k && !(retiredCh s stack).testBit k) = true →
              hbmCell t stack ch page
                = sliceZ (xorCells ((((pageChannels p).1 ++ [(pageChannels p).2]).filter (· != ch)).map fun k => hbmCell s stack k page)) 0 256))
      ∧ (corr = false → uncorr = false → t = pmcBeats s stack ch))
  ∧ (∀ (stack : Nat) (value : Word) (s : State), Inv s → stack < 2 → s.top.inReset = false → shut s (aStack stack 0x20) = false →
      fget value 22 0 ≤ 6291455 →
    Completes (.diagCellRead stack value) s fun t =>
      ((retiredCh s stack).testBit (fget value 26 23) = false → ∀ i : Nat, i < 64 →
        reg t (aDiag stack i) = BitVec.ofNat 32 (leAt (hbmCell s stack (fget value 26 23) (fget value 22 0)) (4 * i) 4))
      ∧ ((retiredCh s stack).testBit (fget value 26 23) = true → regBit t (aStack stack 0x20) 29 = true
          ∧ ∀ i : Nat, i < 64 → reg t (aDiag stack i) = reg s (aDiag stack i)))
  ∧ (∀ (stack : Nat) (value : Word) (s : State), Inv s → stack < 2 → s.top.inReset = false → shut s (aStack stack 0x20) = false →
      fget value 22 0 ≤ 6291455 →
    Completes (.diagCellWrite stack value) s fun t =>
      (inDebug s = true → (retiredCh s stack).testBit (fget value 26 23) = false →
        hbmCell t stack (fget value 26 23) (fget value 22 0) = (List.range 64).flatMap fun i => bytesLE 4 (reg s (aDiag stack i)).toNat)
      ∧ (inDebug s = true → (retiredCh s stack).testBit (fget value 26 23) = true → regBit t (aStack stack 0x20) 29 = true ∧ t.spill = s.spill)
      ∧ (inDebug s = false → t.spill = s.spill))
  ∧ (∀ (queue : Nat) (s : State), (getSpq s queue).spilling = true →
      (getSpq s queue).pages.any (·.selected) = true ∨ (getSpq s queue).staging.any (·.copy.selected) = true
        ∨ s.spill.xfers.any (fun f => f.queue == queue && f.page.selected) = true →
    Completes (.watchdogPageFree queue) s fun t => (getSpq t queue).pages.all (fun p => !p.selected) = true
      ∧ (getSpq t queue).staging.all (fun r => !r.copy.selected) = true)

/-- Table commands and the Clerk. A table command that may start goes to the Clerk, which carries it out where it is free, its completion waiting until all nine halls have it
(R251, R252, R261). The Clerk issues one operation, a repair by its own row of commands (R253), and the oldest comes into force with its completion. A learn request is taken in its turn (R255),
a pin ends (R256), a TEST clears the hit bits and arms the entry, and a REMOVE and a restore are issued when due, but for a REMOVE whose entry is aged no longer, which falls away (R114, R257, R258). An access to a descriptor or to HASH_CFG that does
not wait for an earlier one goes through a free Clerk: an enabled descriptor keeps its fixed fields and its range, an enabling write is checked, and HASH_CFG is not written while in use; what is
refused sets the Clerk's ERR with source 0x623 (R241, R242, R244). A row is repaired from another hall, or its entries go (R266). Scrubbing counts what it finds (R264, R266), and a row is read and
in DEBUG written raw (R268). -/
def Obligations.TablesComplete : Prop :=
  (∀ (cmd : HostCmd) (s : State), Ready s cmd .tblSearch → Completes (.tblSearch cmd) s fun t => Posted s cmd t)
  ∧ (∀ (cmd : HostCmd) (s : State), Ready s cmd .tblNext → Completes (.tblNext cmd) s fun t => Posted s cmd t)
  ∧ (∀ (cmd : HostCmd) (s : State), Ready s cmd .tblInsert → Completes (.tblInsert cmd) s fun t => Posted s cmd t)
  ∧ (∀ (cmd : HostCmd) (s : State), Ready s cmd .tblUpdate → Completes (.tblUpdate cmd) s fun t => Posted s cmd t)
  ∧ (∀ (cmd : HostCmd) (s : State), Ready s cmd .tblDelete → Completes (.tblDelete cmd) s fun t => Posted s cmd t)
  ∧ (∀ (cmd : HostCmd) (s : State), Ready s cmd .tblFlushPort → Completes (.tblFlushPort cmd) s fun t => Posted s cmd t)
  ∧ (∀ (cmd : HostCmd) (s : State), Ready s cmd .tblRead → Completes (.tblRead cmd) s fun t => Posted s cmd t)
  ∧ (∀ (p : ClerkPick) (s : State), clerkNext s = some p →
    Completes .clerkIssue s fun t => (p ≠ .repair → (p = .age → s.clerk.remove.head?.all (fun x => ageable s x.1 x.2) = true) →
        t.clerk.inFlight.length = s.clerk.inFlight.length + 1) ∧ (p = .repair → t = s))
  ∧ (∀ (x : Issued) (rest : List Issued) (s : State), s.clerk.inFlight = x :: rest → (∀ h : Nat, h < 9 → islandDown s (112 + h) = false) →
    Completes .clerkOpInForce s fun t => t = drainHeld 112 (clerkInForce s) ∧ (clerkInForce s).clerk.inFlight = rest
      ∧ (∀ y, x.done = some y → s.hif.oldBell < y.1.bell → Answers y.1 y.2.1 y.2.2 (clerkInForce s)))
  ∧ (∀ (r : LearnReq) (rest : List LearnReq) (s : State), clerkNext s = some .learn → s.clerk.learn = r :: rest →
    Completes .learnInstall s fun t => t.clerk.learn = rest ∧ t.clerk.inFlight.length = s.clerk.inFlight.length + 1 ∧ t.clerk.lastClass = 1)
  ∧ (∀ (table handle : Nat) (e : Entry) (s : State), findEntry s table handle = some e → e.pinned = true →
    Completes (.flapHoldEnd table handle) s fun t => findEntry t table handle = some { e with pinned := false, moves := 0, window := 0 })
  ∧ (∀ (table handle : Nat) (e : Entry) (s : State), ageable s table handle = true → findEntry s table handle = some e →
    Completes (.ageVisit table handle) s fun t =>
      (ClerkFree s → findEntry t table handle = some { e with armed := ~~~e.hit, hit := 0, visited := true })
      ∧ (s.clerk.age ≠ [] → t = { s with clerk := { s.clerk with age := s.clerk.age ++ [(table, handle)] } }))
  ∧ (∀ (table handle : Nat) (s : State), s.clerk.remove.head? = some (table, handle) → clerkNext s = some .age →
    Completes (.ageRemove table handle) s fun t => t.clerk.remove = s.clerk.remove.tail
      ∧ (ageable s table handle = true → t.clerk.inFlight.getLast?.map (·.age) = some (some (.remove table handle)))
      ∧ (ageable s table handle = false → t.clerk.inFlight = s.clerk.inFlight))
  ∧ (∀ (table handle : Nat) (s : State), s.clerk.restore.head? = some (table, handle) → clerkNext s = some .restore →
    Completes (.ageRestore table handle) s fun t => t.clerk.restore = s.clerk.restore.tail
      ∧ t.clerk.inFlight.getLast?.map (·.age) = some (some (.restore table handle)))
  ∧ (∀ (n : Nat) (value : Word) (s : State), Inv s → n < 64 → s.top.inReset = false → crossingShut s 112 = false → ClerkFree s →
    Completes (.descWrite n 1 value) s fun t => t.clerk.inFlight.length = s.clerk.inFlight.length + 1
      ∧ (descEn s n = false ∨ value = reg s (aDesc n 1) → reg t (aDesc n 1) = value)
      ∧ (descEn s n = true → value ≠ reg s (aDesc n 1) →
          reg t (aDesc n 1) = reg s (aDesc n 1) ∧ regBit t (aClk 4) 0 = true ∧ 0x623 ∈ t.crier.pend))
  ∧ (∀ (n : Nat) (value : Word) (s : State), Inv s → n < 64 → s.top.inReset = false → crossingShut s 112 = false → ClerkFree s →
    Completes (.descWrite n 0 value) s fun t => t.clerk.inFlight.length = s.clerk.inFlight.length + 1
      ∧ (descEn s n = false → value.getLsbD 31 = true → enableBad s n value = false → reg t (aDesc n 0) = value)
      ∧ (descEn s n = false → value.getLsbD 31 = true → enableBad s n value = true →
          reg t (aDesc n 0) = reg s (aDesc n 0) ∧ regBit t (aClk 4) 1 = true ∧ 0x623 ∈ t.crier.pend)
      ∧ (descEn s n = false → value.getLsbD 31 = false → reg t (aDesc n 0) = descMerge (reg s (aDesc n 0)) value)
      ∧ (descEn s n = true → value &&& 0x7CFF0000 = reg s (aDesc n 0) &&& 0x7CFF0000 → reg t (aDesc n 0) = value)
      ∧ (descEn s n = true → value &&& 0x7CFF0000 ≠ reg s (aDesc n 0) &&& 0x7CFF0000 →
          reg t (aDesc n 0) = reg s (aDesc n 0) ∧ regBit t (aClk 4) 0 = true ∧ 0x623 ∈ t.crier.pend))
  ∧ (∀ (k : Nat) (value : Word) (s : State), Inv s → k < 16 → s.top.inReset = false → crossingShut s 112 = false → ClerkFree s →
    Completes (.hashCfgWrite k value) s fun t =>
      ((∀ n : Nat, n < 64 → descEn s n = true → tblKind s n = 0 → regF s (aDesc n 0) 23 20 ≠ k ∧ regF s (aDesc n 0) 19 16 ≠ k) →
        reg t (aClk (0x2000 + 4 * k)) = value &&& 0x80FFFFFF)
      ∧ ((∃ n ∈ List.range 64, descEn s n = true ∧ tblKind s n = 0 ∧ (regF s (aDesc n 0) 23 20 = k ∨ regF s (aDesc n 0) 19 16 = k)) →
          reg t (aClk (0x2000 + 4 * k)) = reg s (aClk (0x2000 + 4 * k)) ∧ regBit t (aClk 4) 0 = true ∧ 0x623 ∈ t.crier.pend))
  ∧ (∀ (hall row : Nat) (entries : List (Nat × Nat)) (allBad : Bool) (s : State), s.clerk.repair.head? = some (hall, row) → clerkNext s = some .repair →
    Completes (.replicaRepair hall row entries allBad) s fun t => t.clerk.inFlight.length = s.clerk.inFlight.length + 1
      ∧ t.clerk.repair.contains (hall, row) = false
      ∧ (allBad = true → ∀ x ∈ entries, findEntry t x.1 x.2 = none)
      ∧ (allBad = false → ∀ h : Nat, h < 9 → h ≠ hall → (∀ k : Nat, k < h → k = hall ∨ (k, row) ∈ s.clerk.repair) → (h, row) ∉ s.clerk.repair →
          mapGet [] t.tables.raw (hall * 2 ^ 21 + row) = mapGet [] s.tables.raw (h * 2 ^ 21 + row)))
  ∧ (∀ (hall row : Nat) (corr uncorr : Bool) (s : State), Inv s → hall < 9 → islandDown s (112 + hall) = false →
    Completes (.tableScrub hall row corr uncorr) s fun t =>
      (uncorr = false → corr = true → regF t (aTbl hall 8) 15 0 = min 65535 (regF s (aTbl hall 8) 15 0 + 1))
      ∧ (uncorr = true → regF t (aTbl hall 8) 31 16 = min 65535 (regF s (aTbl hall 8) 31 16 + 1)
          ∧ 0x622 ∈ t.crier.pend ∧ (hall, row) ∈ t.clerk.repair)
      ∧ (uncorr = false → corr = false → t = s))
  ∧ (∀ (hall : Nat) (value : Word) (s : State), Inv s → hall < 9 → s.top.inReset = false → shut s (aTbl hall 0x100) = false → fget value 20 0 ≤ 1572863 →
    Completes (.rawRowRead hall value) s fun t => regF t (aTbl hall 0x100) 20 0 = fget value 20 0
      ∧ (mapGet [] s.tables.raw (hall * 2 ^ 21 + fget value 20 0) ≠ [] → ∀ i : Nat, i < 16 →
          reg t (aTbl hall (0x140 + 4 * i)) = (mapGet [] s.tables.raw (hall * 2 ^ 21 + fget value 20 0)).getD i 0))
  ∧ (∀ (hall : Nat) (value : Word) (s : State), Inv s → hall < 9 → s.top.inReset = false → shut s (aTbl hall 0x100) = false → fget value 20 0 ≤ 1572863 →
    Completes (.rawRowWrite hall value) s fun t =>
      (inDebug s = true → mapGet [] t.tables.raw (hall * 2 ^ 21 + fget value 20 0)
        = (List.range 16).map fun i => reg s (aTbl hall (0x140 + 4 * i)))
      ∧ (inDebug s = false → t.tables = s.tables))

/-- The clock and its services, in islands whose crossing holds nothing. TIME_SET that may start sets, steps or slews the clock and completes with OK, or completes with BAD_ARG for a reading
that is none or a slew beyond 1 s, the clock as it was (R353); a slew that ends raises source 0xA05. Of the timed events a lone one that is due fires: a commit, a slot switch, a pulse edge (R354). A read of
NOW.NS keeps the rest of the reading for its requester (R350). FREQ is written, and a change of SEL acts as a lost reference; a reference lost, or locked, sets its bits with source 0xA00, or
0xA01, while the clock runs (R351, R352). A capture set records its first enabled edge with source 0xA02 + set, and a later one sets OVERRUN (R364). -/
def Obligations.TimeComplete : Prop :=
  (∀ (cmd : HostCmd) (s : State), Ready s cmd .timeSet →
    Completes (.timeSetSet cmd) s fun t =>
      (argN cmd 16 4 % 2 ^ 30 ≤ 999999999 → Reports cmd stOk t ∧ t.clock.sec = argN cmd 8 6
        ∧ t.clock.ns = argN cmd 16 4 % 2 ^ 30 ∧ t.clock.frac = argN cmd 20 2 ∧ t.clock.slewing = false)
      ∧ (999999999 < argN cmd 16 4 % 2 ^ 30 → Reports cmd stBadArg t ∧ t.clock = s.clock))
  ∧ (∀ (cmd : HostCmd) (s : State), Ready s cmd .timeStep →
    Completes (.timeSetStep cmd) s fun t =>
      (0 ≤ ((clkNs s * 65536 + s.clock.frac : Nat) : Int) + timeOffset cmd → Reports cmd stOk t
        ∧ t.clock.sec = (clkAdd s.clock (timeOffset cmd)).sec ∧ t.clock.ns = (clkAdd s.clock (timeOffset cmd)).ns
        ∧ t.clock.frac = (clkAdd s.clock (timeOffset cmd)).frac ∧ t.clock.slewing = false)
      ∧ (((clkNs s * 65536 + s.clock.frac : Nat) : Int) + timeOffset cmd < 0 → Reports cmd stBadArg t ∧ t.clock = s.clock))
  ∧ (∀ (cmd : HostCmd) (s : State), Ready s cmd .timeSlew →
    Completes (.timeSetSlew cmd) s fun t =>
      (timeOffset cmd ≤ 65536000000000 → -65536000000000 ≤ timeOffset cmd → Answers cmd stOk (bytesLE 8 (discarded s)) t
        ∧ t.clock.slewing = true ∧ t.clock.slewLeft = timeOffset cmd * 1000000000 ∧ clkNs t = clkNs s)
      ∧ (65536000000000 < timeOffset cmd ∨ timeOffset cmd < -65536000000000 → Reports cmd stBadArg t ∧ t.clock = s.clock))
  ∧ (∀ (s : State), Inv s → s.clock.slewing = true → s.clock.slewLeft = 0 →
    Completes .slewComplete s fun t => t.clock.slewing = false ∧ reg64 t (aTim 0x10) = 0 ∧ 0xA05 ∈ t.crier.pend)
  ∧ (∀ (n : Nat) (p : Pulse) (s : State), s.prg.groups = [] → s.slots = [] → s.pulses = [(n, p)] → p.mode ≠ 0 → p.high = false → edgeAt p ≤ clkNs s →
      s.telem.snapJob = [] →
    Completes .scheduledEventFire s fun t => t.out = s.out ++ [.pulse n (!p.pol)] ∧ getPulse t n = { p with high := true })
  ∧ (∀ (d : Dom) (rest : List Dom) (g : CommitGrp) (n : Nat) (s : State), s.prg.groups = [g] → g.t = some n → g.doms = d :: rest → n ≤ clkNs s →
      s.slots = [] → s.pulses = [] → s.telem.snapJob = [] →
    Completes .scheduledEventFire s fun t => t.prg.groups = [] ∧ curVer t d = curVer (rowState (execCommitInstant d s) s) d)
  ∧ (∀ (l : Nat) (x : SlotPair) (s : State), s.prg.groups = [] → s.slots = [(l, x)] → switchDue s l = true → s.pulses = [] → s.telem.snapJob = [] →
    Completes .scheduledEventFire s fun t => getSlots t l = { x with oper := x.staged, armed := none } ∧ 0xA41 + 4 * (l / 32) ∈ t.crier.pend)
  ∧ (∀ (rq : Requester) (s : State), canAccess s rq = true →
    Completes (.nowNsRead rq) s fun t => t.out = s.out ++ [.readData (bytesLE 4 s.clock.ns)]
      ∧ (rq, aTim 0x24, BitVec.ofNat 32 s.clock.frac) ∈ t.hif.latches ∧ (rq, aTim 0x28, BitVec.ofNat 32 s.clock.sec) ∈ t.hif.latches
      ∧ (rq, aTim 0x2C, BitVec.ofNat 32 (s.clock.sec >>> 32)) ∈ t.hif.latches)
  ∧ (∀ (value : Word) (s : State), Inv s → s.top.inReset = false → shut s (aTim 4) = false →
    Completes (.freqWrite value) s fun t => reg t (aTim 4) = value ∧ t.clock = s.clock)
  ∧ (∀ (value : Word) (s : State), Inv s → s.top.inReset = false → shut s (aTim 0) = false →
    Completes (.refSelWrite value) s fun t =>
      (value.getLsbD 0 ≠ regBit s (aTim 0) 0 → regBit t (aTim 0) 0 = value.getLsbD 0 ∧ regF t (aTim 0) 31 30 = 1 ∧ bringup t 7 = false
        ∧ 0xA00 ∈ t.crier.pend)
      ∧ (value.getLsbD 0 = regBit s (aTim 0) 0 → t = s))
  ∧ (∀ (s : State), Inv s → s.clock.running = true → regBit s (aTim 0) 30 = false →
    Completes .referenceLost s fun t => regF t (aTim 0) 31 30 = 1 ∧ bringup t 7 = false ∧ 0xA00 ∈ t.crier.pend)
  ∧ (∀ (s : State), Inv s → s.clock.running = true → regBit s (aTim 0) 31 = false →
    Completes .timeLock s fun t => regF t (aTim 0) 31 30 = 2 ∧ bringup t 7 = true ∧ 0xA01 ∈ t.crier.pend)
  ∧ (∀ (n : Nat) (falling : Bool) (s : State), Inv s → n < 3 → regBit s (aTim (0x100 + 0x20 * n)) (b2n falling) = true →
      regBit s (aTim (0x104 + 0x20 * n)) 31 = false →
    Completes (.captureEdge n falling) s fun t => regBit t (aTim (0x104 + 0x20 * n)) 31 = true ∧ regBit t (aTim (0x104 + 0x20 * n)) 29 = falling
      ∧ reg t (aTim (0x108 + 0x20 * n)) = BitVec.ofNat 32 s.clock.ns ∧ reg t (aTim (0x10C + 0x20 * n)) = BitVec.ofNat 32 s.clock.frac
      ∧ reg64 t (aTim (0x110 + 0x20 * n)) = s.clock.sec % 2 ^ 64 ∧ 0xA02 + n ∈ t.crier.pend)
  ∧ (∀ (n : Nat) (falling : Bool) (s : State), Inv s → n < 3 → regBit s (aTim (0x100 + 0x20 * n)) (b2n falling) = true →
      regBit s (aTim (0x104 + 0x20 * n)) 31 = true →
    Completes (.captureEdge n falling) s fun t => regBit t (aTim (0x104 + 0x20 * n)) 30 = true ∧ reg t (aTim (0x108 + 0x20 * n)) = reg s (aTim (0x108 + 0x20 * n)))

/-- Pulses and slot tables. PULSE_ARM with a mode arms the output from its registers in time, sets its error for values that it does not admit, and where START has passed drops a single pulse and begins a train
later, with source 0xA08 + n; PULSE_STOP ends it after a pulse in progress; an edge that is due is driven, and a single pulse sets DONE as it ends (R365). SLOT_STAGE that may start writes the staged copy, arms
its switch, cancels that in time, or reads a copy, and completes with OK, or else with BAD_ARG, VERSION_BUSY, NOT_FOUND or LATE, the tables as they were (R372, R373). A
switch that is due makes the staged copy the operating one, with source 0xA41 + 4g (R373, R374). ENTRY and PROT follow the clock, and a cut that waits for a span ends with it
where Scales policy runs and a glide can start (R370, R379, R451). -/
def Obligations.SlotsComplete : Prop :=
  (∀ (n : Nat) (value : Word) (s : State), Inv s → n < 4 → s.top.inReset = false → shut s (aTim (0x200 + 0x20 * n)) = false →
      fget value 31 30 = 1 ∨ fget value 31 30 = 2 →
    Completes (.pulseArm n value) s fun t =>
      (pulseOk (fget value 31 30) (reg s (aTim (0x218 + 0x20 * n))).toNat (regF s (aTim (0x21C + 0x20 * n)) 29 0) = true →
        clkCeil s + 1000 ≤ reg64 s (aTim (0x210 + 0x20 * n)) * nsPerSec + (reg s (aTim (0x208 + 0x20 * n))).toNat →
        regF t (aTim (0x200 + 0x20 * n)) 31 30 = fget value 31 30 ∧ getPulse t n =
          { mode := fget value 31 30, pol := value.getLsbD 29,
            start := reg64 s (aTim (0x210 + 0x20 * n)) * nsPerSec + (reg s (aTim (0x208 + 0x20 * n))).toNat,
            period := (reg s (aTim (0x218 + 0x20 * n))).toNat, width := regF s (aTim (0x21C + 0x20 * n)) 29 0, k := 0, high := false })
      ∧ (pulseOk (fget value 31 30) (reg s (aTim (0x218 + 0x20 * n))).toNat (regF s (aTim (0x21C + 0x20 * n)) 29 0) = true →
        reg64 s (aTim (0x210 + 0x20 * n)) * nsPerSec + (reg s (aTim (0x208 + 0x20 * n))).toNat < clkCeil s + 1000 →
        regBit t (aTim (0x204 + 0x20 * n)) 31 = true ∧ 0xA08 + n ∈ t.crier.pend ∧ (fget value 31 30 = 1 → getPulse t n = noPulse)
        ∧ (fget value 31 30 = 2 → clkCeil s + 1000 ≤ edgeAt (getPulse t n)))
      ∧ (pulseOk (fget value 31 30) (reg s (aTim (0x218 + 0x20 * n))).toNat (regF s (aTim (0x21C + 0x20 * n)) 29 0) = false →
        regBit t (aTim (0x204 + 0x20 * n)) 31 = true ∧ t.pulses = s.pulses))
  ∧ (∀ (n : Nat) (value : Word) (s : State), Inv s → n < 4 → s.top.inReset = false → shut s (aTim (0x200 + 0x20 * n)) = false → fget value 31 30 = 0 →
    Completes (.pulseStop n value) s fun t => regF t (aTim (0x200 + 0x20 * n)) 31 30 = 0
      ∧ ((getPulse s n).high = false → getPulse t n = noPulse)
      ∧ ((getPulse s n).high = true → getPulse t n = (if (getPulse s n).mode = 2 then { getPulse s n with mode := 0 } else getPulse s n)))
  ∧ (∀ (n : Nat) (s : State), (getPulse s n).mode ≠ 0 → (getPulse s n).high = false → edgeAt (getPulse s n) ≤ clkNs s →
    Completes (.pulseEdge n) s fun t => t.out = s.out ++ [.pulse n (!(getPulse s n).pol)] ∧ getPulse t n = { getPulse s n with high := true })
  ∧ (∀ (n : Nat) (s : State), Inv s → (getPulse s n).high = true → edgeAt (getPulse s n) ≤ clkNs s →
    Completes (.pulseEdge n) s fun t => t.out = s.out ++ [.pulse n (getPulse s n).pol]
      ∧ ((getPulse s n).mode = 1 → getPulse t n = noPulse ∧ regBit t (aTim (0x204 + 0x20 * n)) 30 = true)
      ∧ ((getPulse s n).mode = 2 → (getPulse t n).high = false ∧ (getPulse t n).mode = 2 ∧ (getPulse s n).k < (getPulse t n).k))
  ∧ (∀ (cmd : HostCmd) (s : State), Ready s cmd .slotWrite →
    Completes (.slotStageWrite cmd) s fun t =>
      (slotLane cmd < 1152 → slotCopy cmd = false → cmd.dataLen = 64 + 16 * (leAt cmd.data 16 2 % 512) → tableOk (readTable cmd.data) = true →
        ((getSlots s (slotLane cmd)).armed = none → Reports cmd stOk t
          ∧ getSlots t (slotLane cmd) = { getSlots s (slotLane cmd) with staged := readTable cmd.data })
        ∧ ((getSlots s (slotLane cmd)).armed ≠ none → Reports cmd stVersionBusy t ∧ t.slots = s.slots))
      ∧ (1152 ≤ slotLane cmd ∨ slotCopy cmd = true ∨ cmd.dataLen ≠ 64 + 16 * (leAt cmd.data 16 2 % 512) ∨ tableOk (readTable cmd.data) = false →
        Reports cmd stBadArg t ∧ t.slots = s.slots))
  ∧ (∀ (cmd : HostCmd) (s : State), Ready s cmd .slotArm →
    Completes (.slotStageArm cmd) s fun t =>
      (slotLane cmd < 1152 → slotCopy cmd = false →
        ((getSlots s (slotLane cmd)).armed = none → Reports cmd stOk t
          ∧ (getSlots t (slotLane cmd)).armed = some (switchTimes (getSlots s (slotLane cmd)) (clkCeil s)).2.1)
        ∧ ((getSlots s (slotLane cmd)).armed ≠ none → Reports cmd stVersionBusy t ∧ t.slots = s.slots))
      ∧ (1152 ≤ slotLane cmd ∨ slotCopy cmd = true → Reports cmd stBadArg t ∧ t.slots = s.slots))
  ∧ (∀ (cmd : HostCmd) (s : State), Ready s cmd .slotCancel →
    Completes (.slotStageCancel cmd) s fun t =>
      (slotLane cmd < 1152 → slotCopy cmd = false →
        ((getSlots s (slotLane cmd)).armed = none → Reports cmd stNotFound t ∧ t.slots = s.slots)
        ∧ (∀ n, (getSlots s (slotLane cmd)).armed = some n →
          (clkCeil s + 1000 ≤ n → Reports cmd stOk t ∧ (getSlots t (slotLane cmd)).armed = none)
          ∧ (n < clkCeil s + 1000 → Reports cmd stLate t ∧ t.slots = s.slots)))
      ∧ (1152 ≤ slotLane cmd ∨ slotCopy cmd = true → Reports cmd stBadArg t ∧ t.slots = s.slots))
  ∧ (∀ (cmd : HostCmd) (s : State), Ready s cmd .slotRead →
    Completes (.slotStageRead cmd) s fun t => t.slots = s.slots
      ∧ (slotLane cmd < 1152 → cmd.dataLen = 4160 → Reports cmd stOk t ∧ t.out = s.out ++ [.hostWrite cmd.hostAddr
          (sliceZ (writeTable (if slotCopy cmd then (getSlots s (slotLane cmd)).oper else (getSlots s (slotLane cmd)).staged)) 0 4160)])
      ∧ (1152 ≤ slotLane cmd ∨ cmd.dataLen ≠ 4160 → Reports cmd stBadArg t ∧ t.out = s.out))
  ∧ (∀ (lane : Nat) (s : State), Inv s → switchDue s lane = true →
    Completes (.slotSwitch lane) s fun t => getSlots t lane = { getSlots s lane with oper := (getSlots s lane).staged, armed := none }
      ∧ regBit t (aSlot lane 4) 1 = true ∧ 0xA41 + 4 * (lane / 32) ∈ t.crier.pend)
  ∧ (∀ (lane : Nat) (s : State), Inv s → lane < 1152 →
    Completes (.slotEntryBoundary lane) s fun t => RegsBut [aSlot lane 0] s t ∧ regF t (aSlot lane 0) 7 0
      = (if (getSlots s lane).oper.entries.isEmpty then 0 else (entryAt (getSlots s lane).oper (clkNs s)).1) % 256)
  ∧ (∀ (lane : Nat) (s : State), Inv s → lane < 1152 →
    Completes (.protectedSpanStart lane) s fun t => regBit t (aSlot lane 0) 29 = protAt (getSlots s lane) (clkNs s)
      ∧ regBit t (aSlot lane 0) 31 = !(getSlots s lane).oper.entries.isEmpty ∧ RegsBut [aSlot lane 0] s t)
  ∧ (∀ (lane : Nat) (s : State), Inv s → lane < 1152 →
    Completes (.protectedSpanEnd lane) s fun t => regBit t (aSlot lane 0) 29 = protAt (getSlots s lane) (clkNs s)
      ∧ (sclPolicy s = true → groupProtected s (lane / 32) = false →
          (mayGlide s (lane / 32) = true → deferralOf t (lane / 32) = none)
          ∧ (mayGlide s (36 + lane / 32) = true → deferralOf t (36 + lane / 32) = none)))

/-- Ainum. A message that may start leaves in its blocks, head, payload and CRC or tag, and is pending no more (R387 to R391). HELLO_TIMER queues a HELLO
with SELF_ID and the lanes' capability, or waits for the random source (R390). A HELLO of a neighbour writes PEER_ID, PEER_CAP and the far ROLE, and with AUTH = 0 finds the peer; with AUTH = 1 the nonce is kept;
one with another AUTH bit is discarded; the part's own SELF_ID sets LOOPED; one that fails its check, or whose LEN is wrong, is discarded and counted, and one that was cut off by an uncorrectable codeword or the loss of the link is lost whole (R386, R389, R390, R401). With AUTH = 1 a CONFIRM
that verifies finds the peer and one that does not is counted (R390, R391). A STEP_PROPOSE is answered with its number, later while firmware does not run, and a STEP_ACK of the number proposed
takes the step (R142, R392). The initiator's exchange is queued, a TIME_SYNC is answered with its arrival, and a TIME_REPLY that echoes the exchange ends in OFFSET and DELAY, another changes nothing (R393, R394).
A peer that is silent is lost (R390). -/
def Obligations.AinumComplete : Prop :=
  (∀ (port idle : Nat) (pcs : Stamp) (m : AinMsg) (s : State), ainLive s port = true → ainNext s port (ainIdle s port idle) = some m →
    Completes (.ainumSend port idle pcs) s fun t =>
      t.out = s.out ++ (ainStream s port (ainFill s port pcs m)).map (fun b => Output.ainum port (ainBlock b))
      ∧ (m.type ≠ 1 → (getAin t port).pend = (getAin s port).pend.erase m ∧ (getAin t port).txCtr = (getAin s port).txCtr + 1)
      ∧ (m.type = 1 → (getAin t port).myNonce = some (nbits m.payload 71 8)))
  ∧ (∀ (port idle : Nat) (pcs : Stamp) (s : State), ainLive s port = true → ainNext s port (ainIdle s port idle) = none →
    Completes (.ainumSend port idle pcs) s fun t => t.out = s.out ∧ (getAin t port).pend = (getAin s port).pend)
  ∧ (∀ (port : Nat) (s : State), ainLive s port = true → trngUp s = true →
    Completes (.helloTimer port) s fun t =>
      ((getAin t port).pend.getLast?.map fun m => (m.type, m.len, m.arg, m.payload >>> 80, nbits m.payload 79 72))
      = some (1, 6, ainRole s port * 64 + b2n (ainAuth s) * 32, s.top.fuses.selfId % 2 ^ 64, ownCap s port % 256))
  ∧ (∀ (port : Nat) (s : State), ainLive s port = true → trngUp s = false →
    Completes (.helloTimer port) s fun t => 16 + port ∈ t.sec.rngWait ∧ t.ainum = s.ainum)
  ∧ (∀ (port : Nat) (msg : AinMsg) (s : State), Inv s → Accepted s port 1 msg → msg.arg.testBit 5 = ainAuth s →
      nbits msg.payload 143 80 ≠ s.top.fuses.selfId % 2 ^ 64 →
    Completes (.hello port msg) s fun t => peerId t port = nbits msg.payload 143 80 ∧ looped t port = false
      ∧ regF t (aAinPort port 4) 28 27 = nbits msg.arg 7 6 ∧ regF t (aAinPort port 4) 7 0 = nbits msg.payload 79 72
      ∧ (getAin t port).peerNonce = some (nbits msg.payload 71 8)
      ∧ (ainAuth s = false → ainPeer t port = true ∧ regBit t (aAinPort port 4) 31 = true ∧ (ainPeer s port = false → 0xB00 ∈ t.crier.pend)))
  ∧ (∀ (port : Nat) (msg : AinMsg) (s : State), Inv s → Accepted s port 1 msg → msg.arg.testBit 5 = ainAuth s →
      nbits msg.payload 143 80 = s.top.fuses.selfId % 2 ^ 64 →
    Completes (.hello port msg) s fun t => looped t port = true ∧ ainPeer t port = false
      ∧ (looped s port = false → 0xB00 ∈ t.crier.pend))
  ∧ (∀ (port : Nat) (msg : AinMsg) (s : State), Accepted s port 1 msg → msg.arg.testBit 5 ≠ ainAuth s →
    Completes (.hello port msg) s fun t => t.ainum = s.ainum ∧ ainPeer t port = ainPeer s port)
  ∧ (∀ (port : Nat) (msg : AinMsg) (s : State), Inv s → ainLive s port = true → msg.type = 1 →
    Completes (.hello port msg) s fun t =>
      (msg.cut = true → t = s)
      ∧ (msg.cut = false → msg.len ≠ 6 → reg64 t (aAin 0x120) = (reg64 s (aAin 0x120) + 1) % 2 ^ 64 ∧ t.ainum = s.ainum)
      ∧ (msg.cut = false → msg.len = 6 → msg.check ≠ ainCrc msg → reg64 t (aAin 0x110) = (reg64 s (aAin 0x110) + 1) % 2 ^ 64 ∧ t.ainum = s.ainum))
  ∧ (∀ (port : Nat) (msg : AinMsg) (s : State), Inv s → Accepted s port 2 msg → ainAuth s = true → looped s port = false →
    Completes (.confirm port msg) s fun t => ainPeer t port = true ∧ regBit t (aAinPort port 4) 31 = true
      ∧ regBit t (aAinPort port 4) 29 = true ∧ (ainPeer s port = false → 0xB00 ∈ t.crier.pend))
  ∧ (∀ (port : Nat) (msg : AinMsg) (s : State), Inv s → ainLive s port = true → ainAuth s = true → msg.type = 2 → msg.len = 0 → msg.cut = false →
      (ainReceive s port msg).2 = false →
    Completes (.confirm port msg) s fun t => reg64 t (aAin 0x118) = (reg64 s (aAin 0x118) + 1) % 2 ^ 64
      ∧ (ainPeer s port = false → ainPeer t port = false))
  ∧ (∀ (port : Nat) (msg : AinMsg) (s : State), Accepted s port 3 msg → mayStep s port = true → looped s port = false → ainPeer s port = true →
      fwRuns s = true →
    Completes (.stepPropose port msg) s fun t => (getAin t port).pend.getLast? = some (mkMsg 4 0 (msg.arg % 256) 0))
  ∧ (∀ (port : Nat) (msg : AinMsg) (s : State), Accepted s port 3 msg → mayStep s port = true → looped s port = false → ainPeer s port = true →
      fwRuns s = false →
    Completes (.stepPropose port msg) s fun t => (getPort t port).owedAck = some (msg.arg % 256))
  ∧ (∀ (port : Nat) (msg : AinMsg) (s : State), Accepted s port 4 msg → mayStep s port = true →
    Completes (.stepAck port msg) s fun t =>
      ((getPort s port).proposed = some (msg.arg % 256) → (getPort t port).stepTaken = true ∧ (getPort t port).proposed = none)
      ∧ ((getPort s port).proposed ≠ some (msg.arg % 256) → t.ports = s.ports))
  ∧ (∀ (port : Nat) (s : State), ainLive s port = true → ainPeer s port = true → regBit s (aAinPort port 0) 29 = true →
      regF s (aAin 0x10) 7 0 ≠ 0 → timeInitiator s port = true →
    Completes (.timeSyncTimer port) s fun t => (getAin t port).pend.getLast? = some (mkMsg 5 4 (((getAin s port).exch + 1) % 256) 0))
  ∧ (∀ (port : Nat) (msg : AinMsg) (t2 : Stamp) (s : State), Accepted s port 5 msg →
    Completes (.timeSync port msg t2) s fun t =>
      (getAin t port).pend.getLast? = some (mkMsg 6 8 (msg.arg % 256) (stampBits (ingressStamp s port t2) * 2 ^ 96)))
  ∧ (∀ (port : Nat) (msg : AinMsg) (t4 : Stamp) (b : Nat) (s : State), Inv s → Accepted s port 6 msg → (getAin s port).t1 = some b →
    Completes (.timeReply port msg t4) s fun t =>
      (msg.arg % 256 = (getAin s port).exch → (getAin t port).t1 = none ∧ regBit t (aAinPort port 0x24) 31 = true
        ∧ (reg t (aAinPort port 0x28)).toNat = ts32Of (ingressStamp s port t4 / 65536) % 2 ^ 32
        ∧ (ExchEnds s t port b 0 t4 msg ∨ ExchEnds s t port b 1 t4 msg)
        ∧ (regBit s (aAinPort port 0) 28 = true → 0xB02 ∈ t.crier.pend))
      ∧ (msg.arg % 256 ≠ (getAin s port).exch → (getAin t port).t1 = some b ∧ reg64 t (aAinPort port 0x18) = reg64 s (aAinPort port 0x18)))
  ∧ (∀ (port : Nat) (s : State), Inv s → port < 1152 → ainPeer s port = true →
    Completes (.peerTimeout port) s fun t => ainPeer t port = false ∧ regF t (aAinPort port 4) 31 29 = 0 ∧ (getAin t port).linkKey = none
      ∧ 0xB00 ∈ t.crier.pend)

/-- Tokens and cap notices. A token received and checked on a port with ROLE UP or PEER is written to TOKEN_LAST, raises 0xB03, is remembered, acts on the
commits that wait for its number (0x206), and is queued with its hop count raised on every DOWN and PEER port except its own (with AUTH = 1, those with a session); one of the same number and instant
within 10 s counts in TOKENS_DUPLICATE and is neither acted on nor sent on; one on a DOWN port counts in TOKENS_WRONG_PORT, and one on a port with ROLE OFF is not accepted (R396, R398). GO
queues the token with hop count 0 on every DOWN and PEER port with a peer and acts on it at once; while BUSY = 1 it is ignored (R397). A CAP_NOTICE is written to CAP_LAST
and raises 0xB05 (R400). -/
def Obligations.TokensComplete : Prop :=
  (∀ (port : Nat) (msg : AinMsg) (s : State), Inv s → Accepted s port 7 msg → ainRole s port = 1 ∨ ainRole s port = 3 → knownToken s msg = false →
    Completes (.token port msg) s fun t => (reg t (aAin 0x40)).toNat = nbits msg.payload 119 88 ∧ 0xB03 ∈ t.crier.pend
      ∧ t.ainum.tokens.head? = some (nbits msg.payload 119 88, tokenNs msg, s.elapsed)
      ∧ (s.prg.groups.any (fun g => g.token == some (nbits msg.payload 119 88) && g.t.isNone) = true → 0x206 ∈ t.crier.pend)
      ∧ (tokenPorts s port).all (fun l => (getAin t l).pend.contains (mkMsg 7 5 ((msg.arg + 1) % 256) (msg.payload / 1024 * 1024))) = true)
  ∧ (∀ (port : Nat) (msg : AinMsg) (s : State), Inv s → Accepted s port 7 msg → ainRole s port = 1 ∨ ainRole s port = 3 → knownToken s msg = true →
    Completes (.token port msg) s fun t => reg64 t (aAin 0x130) = (reg64 s (aAin 0x130) + 1) % 2 ^ 64 ∧ t.ainum.tokens = s.ainum.tokens
      ∧ (tokenPorts s port).all (fun l => (getAin t l).pend == (getAin s l).pend) = true ∧ t.prg = s.prg)
  ∧ (∀ (port : Nat) (msg : AinMsg) (s : State), Inv s → Accepted s port 7 msg → ainRole s port = 2 →
    Completes (.token port msg) s fun t => reg64 t (aAin 0x138) = (reg64 s (aAin 0x138) + 1) % 2 ^ 64 ∧ t.ainum.tokens = s.ainum.tokens
      ∧ (tokenPorts s port).all (fun l => (getAin t l).pend == (getAin s l).pend) = true ∧ t.prg = s.prg)
  ∧ (∀ (port : Nat) (msg : AinMsg) (s : State), Accepted s port 7 msg → ainRole s port = 0 →
    Completes (.token port msg) s fun t => t.ainum.tokens = s.ainum.tokens ∧ t.prg = s.prg ∧ reg t (aAin 0x40) = reg s (aAin 0x40))
  ∧ (∀ (s : State), Inv s → s.top.inReset = false → shut s (aAin 0x34) = false → regBit s (aAin 0x34) 30 = false →
    Completes .tokenGo s fun t => reg t (aAin 0x40) = reg s (aAin 0x20) ∧ regBit t (aAin 0x34) 30 = !(goPorts s).isEmpty
      ∧ ((goPorts s).isEmpty = true → 0xB04 ∈ t.crier.pend)
      ∧ (s.prg.groups.any (fun g => g.token == some (reg s (aAin 0x20)).toNat && g.t.isNone) = true → 0x206 ∈ t.crier.pend)
      ∧ (goPorts s).all (fun l => (getAin t l).pend.contains (mkMsg 7 5 0 ((reg s (aAin 0x20)).toNat * 2 ^ 88
          + reg64 s (aAin 0x28) % 2 ^ 48 * 2 ^ 40 + regF s (aAin 0x30) 29 0 * 1024))) = true)
  ∧ (∀ (s : State), s.top.inReset = false → shut s (aAin 0x34) = false → regBit s (aAin 0x34) 30 = true →
    Completes .tokenGo s fun t => t.ainum = s.ainum ∧ t.prg = s.prg ∧ reg t (aAin 0x40) = reg s (aAin 0x40))
  ∧ (∀ (port : Nat) (msg : AinMsg) (s : State), Inv s → Accepted s port 8 msg →
    Completes (.capNotice port msg) s fun t =>
      reg64 t (aAin 0x48) = 2 ^ 63 + port * 2 ^ 48 + msg.arg % 4 * 2 ^ 46 + nbits msg.payload 71 48 ∧ 0xB05 ∈ t.crier.pend)

/-- Telemetry. FLOW_EVICT_TIMER evicts an entry that has idled for IDLE or lived for ACTIVE seconds, and FLUSH every entry (R410); its record joins the backlog, or
is lost with EN = 0 or a full backlog (R415). A record of the backlog joins the open message, or opens the next one where the frame would exceed MAX_LEN, once every octet of its frames is counted (R410), and the flush
timer closes an open message (R413). A closed message is sent, and if its frame is admitted its records count in Sequence Number; a template goes out in a message of its own that counts no
record (R413, R414). LDG_READ writes the entries of its region and source, waits while its buffer's snapshot is being taken, and ends with BAD_ARG for arguments out of range (R419,
R420). LDG_SNAPSHOT that finds its buffer busy waits, and otherwise sets the buffer's BUSY and takes T 2 µs on; the buffer then holds the Ledger at the first reading from T on, and the command
ends with OK and T, with 0xB81 (R420). A write of an event counter adds the events of its clock, and a counter with CHAIN = 1 none (R421). -/
def Obligations.TelemetryComplete : Prop :=
  (∀ (g slot : Nat) (f : Flow) (s : State), Inv s → flowAt s (g * 16384 + slot) = some f → g < 36 → slot < 16384 →
    Completes (.flowEvictTimer g slot) s fun t =>
      (f.touched + regF s (aTal 0x14) 31 16 * nsPerSec ≤ s.elapsed ∨ f.born + regF s (aTal 0x14) 15 0 * nsPerSec ≤ s.elapsed →
        flowAt t (g * 16384 + slot) = none
        ∧ (regBit s (aTal 0x20) 31 = true → s.telem.backlog.length < 65536 → t.telem.backlog = s.telem.backlog ++ [.flow f])
        ∧ (regBit s (aTal 0x20) 31 = false ∨ 65536 ≤ s.telem.backlog.length →
            t.telem.backlog = s.telem.backlog ∧ reg64 t (aTal 0x910) = (reg64 s (aTal 0x910) + 1) % 2 ^ 64))
      ∧ (s.elapsed < f.touched + regF s (aTal 0x14) 31 16 * nsPerSec → s.elapsed < f.born + regF s (aTal 0x14) 15 0 * nsPerSec →
        t.telem = s.telem))
  ∧ (∀ (s : State), s.top.inReset = false → shut s (aTal 0x18) = false →
    Completes .flowFlush s fun t => s.telem.flows.all (fun x => flowAt t x.1 == none) = true)
  ∧ (∀ (r : ExpRec) (rest : List ExpRec) (s : State), s.telem.backlog = r :: rest →
    Completes .exportRecordForm s fun t =>
      (octetsOwed s r = true → t = s)
      ∧ (octetsOwed s r = false → t.telem.backlog = rest)
      ∧ (octetsOwed s r = false → s.telem.openMsg = [] ∨ exportFrameLen s (s.telem.openMsg ++ [r]) ≤ regF s (aTal 0x24) 13 0 →
        t.telem.openMsg = s.telem.openMsg ++ [r] ∧ t.telem.closed = s.telem.closed)
      ∧ (octetsOwed s r = false → s.telem.openMsg ≠ [] → regF s (aTal 0x24) 13 0 < exportFrameLen s (s.telem.openMsg ++ [r]) →
        t.telem.openMsg = [r] ∧ t.telem.closed = s.telem.closed ++ [s.telem.openMsg]))
  ∧ (∀ (s : State), s.telem.openMsg ≠ [] →
    Completes .exportFlushTimer s fun t => t.telem.openMsg = [] ∧ t.telem.closed = s.telem.closed ++ [s.telem.openMsg])
  ∧ (∀ (l : List ExpRec) (rest : List (List ExpRec)) (s : State), s.telem.closed = l :: rest →
    Completes .exportMessageSend s fun t => t.telem.closed = rest
      ∧ t.telem.seq = if exportSent (sending s rest) (ipfixMessage s (dataSets l)) then (s.telem.seq + l.length) % 2 ^ 32 else s.telem.seq)
  ∧ (∀ (s : State), Inv s → regBit s (aTal 0x20) 31 = true →
    Completes .templateSend s fun t => t.telem.seq = s.telem.seq
      ∧ (exportSent s (ipfixMessage s (templateSet s)) = true → reg64 t (aTal 0x918) = (reg64 s (aTal 0x918) + 1) % 2 ^ 64))
  ∧ (∀ (cmd : HostCmd) (s : State), Ready s cmd .ldgRead →
    Completes (.ldgRead cmd) s fun t => t.telem = s.telem
      ∧ (ldgArgsOk cmd = true → argN cmd 1 1 % 4 = 0 ∨ snapBusy s (argN cmd 1 1 % 4 - 1) = false → Reports cmd stOk t
        ∧ t.out = s.out ++ [.hostWrite cmd.hostAddr ((List.range (argN cmd 8 2)).flatMap fun i =>
            bytesLE 8 (ldgEntry s cmd (ldgSource s cmd) (argN cmd 4 4 + i)).1
              ++ bytesLE 8 (ldgEntry s cmd (ldgSource s cmd) (argN cmd 4 4 + i)).2)])
      ∧ (ldgArgsOk cmd = true → argN cmd 1 1 % 4 ≠ 0 → snapBusy s (argN cmd 1 1 % 4 - 1) = true →
        t.out = s.out ∧ t.hif.completions = s.hif.completions)
      ∧ (ldgArgsOk cmd = false → Reports cmd stBadArg t ∧ t.out = s.out))
  ∧ (∀ (cmd : HostCmd) (s : State), Inv s → Ready s cmd .ldgSnapshot →
    Completes (.ldgSnapshot cmd) s fun t => t.hif.completions = s.hif.completions
      ∧ (snapBusy s (argN cmd 0 1 % 2) = false → regBit t (aLdg 0) (argN cmd 0 1 % 2) = true
        ∧ t.telem.snapJob = s.telem.snapJob ++ [(argN cmd 0 1 % 2, cmd, clkNs s + 2000)])
      ∧ (snapBusy s (argN cmd 0 1 % 2) = true → t.telem = s.telem))
  ∧ (∀ (buffer n : Nat) (cmd : HostCmd) (s : State), Inv s → s.telem.snapJob.find? (·.1 == buffer) = some (buffer, cmd, n) → buffer < 2 →
      s.hif.oldBell < cmd.bell →
    Completes (.ldgSnapshotComplete buffer) s fun t =>
      (n ≤ clkNs s ∨ s.telem.snapTaken.contains buffer = true →
        (if buffer = 0 then t.telem.snap0 else t.telem.snap1)
          = (if s.telem.snapTaken.contains buffer then (if buffer = 0 then s.telem.snap0 else s.telem.snap1) else s.telem.ledger)
        ∧ snapBusy t buffer = false ∧ regBit t (aLdg 0) buffer = false ∧ 0xB81 ∈ t.crier.pend
        ∧ reg64 t (aLdg (0x10 + 8 * buffer)) = n / nsPerSec % 2 ^ 32 * 2 ^ 32 + n % nsPerSec
        ∧ Answers cmd stOk (bytesLE 6 (n / nsPerSec) ++ [0, 0] ++ bytesLE 4 (n % nsPerSec)) t)
      ∧ (clkNs s < n → s.telem.snapTaken.contains buffer = false → t.hif = s.hif ∧ snapBusy t buffer = true))
  ∧ (∀ (n occurrences : Nat) (value : Word) (s : State), Inv s → pmcNamed n = true → s.top.inReset = false → shut s (aPmcCount n) = false →
    Completes (.pmcCountWrite n value occurrences) s fun t =>
      (regBit s (aPmcCfg n) 31 = false → (reg t (aPmcCount n)).toNat = (value.toNat + occurrences) % 2 ^ 32
        ∧ (regBit s (aPmcCfg n) 29 = true → 2 ^ 32 ≤ value.toNat + occurrences → occurrences ≠ 0 → 0xB82 ∈ t.crier.pend))
      ∧ (regBit s (aPmcCfg n) 31 = true → reg t (aPmcCount n) = value))

/-- The Crier and first errors. FORCE raises its source as an event: it is pending and, enabled, counts at its vector (R425, R428, R440). SRC_CFG takes the fields that software
owns and counts a source that is enabled, or moved, while pending; the host's write to a firmware source, or with CORE = 1, is ignored and sets its error bit with 0xE04, and firmware that runs writes its
own (R426, R427). A vector's timer makes it ready (R428). A dispatch takes the masks that have reached the Crier and commits the highest priority: a vector whose entry or function is masked, or MSI-X
disabled, keeps its sources pending with its PBA bit set; an unmasked one sends its MSI-X entry and takes its pending enabled sources into service; with AUTO_EOI its service ends at once (R427 to R430).
A core takes the source on its stack (R431). VEC_EOI ends the service, samples the lines again, and does nothing for a vector not in service (R430); a core's EOI pops its stack, and with an empty stack does nothing (R431). A crossing fault
raises its source, writes the first-error record where none is held, and otherwise counts (R433, R434). -/
def Obligations.CrierComplete : Prop :=
  (∀ (value : Word) (s : State), Inv s → s.top.inReset = false → shut s (aCri 0x10) = false →
    Completes (.sourceForce value) s fun t => fget value 11 0 ∈ t.crier.pend
      ∧ (fget value 11 0 < 0xF00 → regBit s (aSrc (fget value 11 0)) 31 = true →
          min 65535 ((getVec s (regF s (aSrc (fget value 11 0)) 10 0)).counted + 1)
            ≤ (getVec t (regF s (aSrc (fget value 11 0)) 10 0)).counted))
  ∧ (∀ (src : Nat) (value : Word) (s : State), Inv s → src < 0xF00 → value.getLsbD 12 = false → s.top.inReset = false → shut s (aSrc src) = false →
    Completes (.srcCfgWrite src value false) s fun t => reg t (aSrc src) = (reg s (aSrc src) &&& 0x70FFF800) ||| (value &&& 0x8F0007FF)
      ∧ t.crier.pend = s.crier.pend ∧ RegsBut [aSrc src] s t
      ∧ (src ∈ s.crier.pend → value.getLsbD 31 = true → regBit s (aSrc src) 31 = false ∨ fget value 10 0 ≠ regF s (aSrc src) 10 0 →
          (getVec t (fget value 10 0)).counted = min 65535 ((getVec s (fget value 10 0)).counted + 1)))
  ∧ (∀ (src : Nat) (value : Word) (s : State), Inv s → src ≤ 0xFFF → 0xF00 ≤ src ∨ value.getLsbD 12 = true → s.top.inReset = false →
      shut s (aSrc src) = false →
    Completes (.srcCfgWrite src value false) s fun t => reg t (aSrc src) = reg s (aSrc src) ∧ 0xE04 ∈ t.crier.pend
      ∧ (0xF00 ≤ src → regBit t (aCri 0) 0 = true) ∧ (src < 0xF00 → regBit t (aCri 0) 1 = true))
  ∧ (∀ (v : Nat) (s : State), (getVec s v).timer = true →
    Completes (.vectorTimerExpiry v) s fun t => getVec t v = { getVec s v with timer := false, ready := true } ∧ Only [.crier] s t)
  ∧ (∀ (src : Nat) (value : Word) (s : State), Inv s → 0xF00 ≤ src → src ≤ 0xFFF → fwRuns s = true →
    Completes (.srcCfgWrite src value true) s fun t => reg t (aSrc src) = (reg s (aSrc src) &&& 0x70FFE800) ||| (value &&& 0x8F0017FF)
      ∧ RegsBut [aSrc src] s t ∧ t.crier.pend = s.crier.pend)
  ∧ (∀ (m : CrierMasks) (s : State), takesVec (setMasks s m) = none → takesCore (setMasks s m) = none →
    Completes (.dispatchCommit m) s fun t => Only [.hif, .crier] s t ∧ t.crier.pend = s.crier.pend ∧ t.crier.active = s.crier.active
      ∧ (m.msix.isSome = true → s.hif.perst = false → s.top.inReset = false → m.msix = some (t.hif.msixOn, t.hif.msixMask))
      ∧ (m.msix = none → t.hif = s.hif)
      ∧ (m.cores.length = 1 → fwRuns s = true → m.cores.all (fun x => (getCore t x.1).masked == x.2.1) = true))
  ∧ (∀ (m : CrierMasks) (v : Nat) (s : State), Inv s → v < 2048 → takesVec (setMasks s m) = some v → msixMasked (setMasks s m) v = true →
    Completes (.dispatchCommit m) s fun t => (getVec t v).held = true ∧ regBit t (aHif (0x90000 + v / 32 * 4)) (v % 32) = true
      ∧ t.out = s.out ∧ t.crier.pend = s.crier.pend)
  ∧ (∀ (m : CrierMasks) (v : Nat) (s : State), Inv s → v < 2048 → takesVec (setMasks s m) = some v → msixMasked (setMasks s m) v = false →
      regBit s (aVec v 4) 31 = false →
    Completes (.dispatchCommit m) s fun t =>
      t.out = s.out ++ [.msix (reg64 s (aHif (0x80000 + 16 * v))) (reg s (aHif (0x80008 + 16 * v)))]
      ∧ getVec t v = { vecIdle with inService := true } ∧ t.crier.pend = s.crier.pend.filter (fun i => !targets s v i)
      ∧ regBit t (aHif (0x90000 + v / 32 * 4)) (v % 32) = false
      ∧ t.crier.active = s.crier.active ++ (s.crier.pend.filter (targets s v)).map (·, v))
  ∧ (∀ (m : CrierMasks) (v : Nat) (s : State), Inv s → v < 2048 → takesVec (setMasks s m) = some v → msixMasked (setMasks s m) v = false →
      regBit s (aVec v 4) 31 = true →
    Completes (.dispatchCommit m) s fun t =>
      t.out = s.out ++ [.msix (reg64 s (aHif (0x80000 + 16 * v))) (reg s (aHif (0x80008 + 16 * v)))]
      ∧ (getVec t v).inService = false ∧ t.crier.active = s.crier.active.filter (·.2 != v))
  ∧ (∀ (m : CrierMasks) (id : Nat) (s : State), takesCore (setMasks s m) = some id →
    Completes (.dispatchCommit m) s fun t => t.crier.pend = s.crier.pend.erase id ∧ (id, 4096 + regF s (aSrc id) 1 0) ∈ t.crier.active
      ∧ (getCore t (regF s (aSrc id) 1 0)).stack = (regF s (aSrc id) 27 24, id) :: (getCore s (regF s (aSrc id) 1 0)).stack)
  ∧ (∀ (v : Nat) (s : State), v < 2048 → s.top.inReset = false → shut s (aVec v 8) = false →
    Completes (.vecEoi v) s fun t =>
      ((getVec s v).inService = true → (getVec t v).inService = false ∧ t.crier.active = s.crier.active.filter (·.2 != v)
        ∧ (s.crier.active.all fun x => x.2 != v || !s.crier.line.contains x.1 || t.crier.pend.contains x.1) = true)
      ∧ ((getVec s v).inService = false → t.crier = s.crier))
  ∧ (∀ (n : Nat) (s : State),
    Completes (.coreEoi n) s fun t => t.regs = s.regs ∧ (getCore t n).stack = (getCore s n).stack.drop 1
      ∧ ((getCore s n).stack = [] → t.crier = s.crier)
      ∧ ((getCore s n).stack.head?.all fun x => !s.crier.line.contains x.2 || t.crier.pend.contains x.2) = true)
  ∧ (∀ (receiver sender handshake : Nat) (s : State), Inv s → receiver ≤ 128 →
    Completes (.crossingFault receiver sender handshake) s fun t => 0x010 + receiver ∈ t.crier.pend
      ∧ (regBit s (aFlt (0x10000 + 0x20 * (0x010 + receiver))) 31 = false → regBit t (aFlt (0x10000 + 0x20 * (0x010 + receiver))) 31 = true
        ∧ regF t (aFlt (0x10000 + 0x20 * (0x010 + receiver))) 29 0 = s.clock.ns % 2 ^ 30
        ∧ (reg t (aFlt (0x10000 + 0x20 * (0x010 + receiver)) + 4)).toNat = s.clock.sec % 2 ^ 32
        ∧ (reg t (aFlt (0x10000 + 0x20 * (0x010 + receiver)) + 8)).toNat
          = (s.clock.sec >>> 32) % 65536 + (0x010 + receiver) * 65536 + 8 * 2 ^ 28
        ∧ reg t (aFlt (0x10000 + 0x20 * (0x010 + receiver)) + 12) = 0x0001FFFF
        ∧ reg64 t (aFlt (0x10000 + 0x20 * (0x010 + receiver)) + 16) = receiver + sender % 256 * 256
        ∧ reg64 t (aFlt (0x10000 + 0x20 * (0x010 + receiver)) + 24) = handshake % 256)
      ∧ (regBit s (aFlt (0x10000 + 0x20 * (0x010 + receiver))) 31 = true →
        regF t (aFlt (0x10000 + 0x20 * (0x010 + receiver)) + 12) 31 16
          = min 65535 (regF s (aFlt (0x10000 + 0x20 * (0x010 + receiver)) + 12) 31 16 + 1)
        ∧ reg t (aFlt (0x10000 + 0x20 * (0x010 + receiver))) = reg s (aFlt (0x10000 + 0x20 * (0x010 + receiver)))
        ∧ reg64 t (aFlt (0x10000 + 0x20 * (0x010 + receiver)) + 16) = reg64 s (aFlt (0x10000 + 0x20 * (0x010 + receiver)) + 16)
        ∧ reg64 t (aFlt 0x18) = (reg64 s (aFlt 0x18) + 1) % 2 ^ 64))

/-- Escalation. A grace timer that runs out starts its source's list with 0xE00 (R436). ESC_ACK stops a running timer, cancels the actions of a list that are not yet begun, and counts in ACKS;
it does nothing for a source with neither (R436, R437). ACTIONS takes a list of defined actions and ignores any other whole, with ACTIONS_BAD and 0xE04 (R437). Each action counts in ACTIONS_RUN:
END ends the list with 0xE01; ISLAND resets an island and waits for it, or is refused with 0xE02 and ACTIONS_REFUSED; CONTROL resets the cores; COLD resets the part with cause bit 6; QUIESCE sets
PIPE_CTRL.QUIESCE and PORT_OFF clears PORT_CFG.EN, or they wait for their island in reset; LOSE_STACK loses the stack with 0x805; WAIT stands for the whole wait. After each the next
action follows, or the fourth ends the list with 0xE01 (R437, Table CRI-5). The whole lists, and the whole count of expired timers, are stated for a source that alone has its escalation enabled. -/
def Obligations.EscalationComplete : Prop :=
  (∀ (src : Nat) (s : State), Inv s → src < 4096 → src ∈ s.flt.grace → regBit s (aEsc src 0) 31 = true →
    Completes (.graceExpiry src) s fun t => EscRun.mk src 0 false none ∈ t.flt.lists
      ∧ regF t (aEsc src 0) 30 29 = 1 ∧ 0xE00 ∈ t.crier.pend
      ∧ (EscAlone s src → t.flt.lists = s.flt.lists ++ [EscRun.mk src 0 false none]
        ∧ t.flt.grace = s.flt.grace.erase src ∧ reg64 t (aFlt 0x20) = (reg64 s (aFlt 0x20) + 1) % 2 ^ 64))
  ∧ (∀ (value : Word) (s : State), Inv s → s.top.inReset = false → shut s (aFlt 4) = false → fget value 11 0 ∈ s.flt.grace →
    Completes (.escAck value) s fun t => t.flt.grace = s.flt.grace.erase (fget value 11 0) ∧ regBit t (aEsc (fget value 11 0) 0) 30 = false
      ∧ reg64 t (aFlt 0x38) = (reg64 s (aFlt 0x38) + 1) % 2 ^ 64 ∧ t.flt.lists = s.flt.lists)
  ∧ (∀ (value : Word) (n : Nat) (s : State), Inv s → s.top.inReset = false → shut s (aFlt 4) = false → fget value 11 0 ∉ s.flt.grace →
      Running s (fget value 11 0) n →
    Completes (.escAck value) s fun t => reg64 t (aFlt 0x38) = (reg64 s (aFlt 0x38) + 1) % 2 ^ 64 ∧ 0xE01 ∈ t.crier.pend
      ∧ (EscAlone s (fget value 11 0) → fget value 11 0 ≠ 0xE01 → fget value 11 0 ∉ s.crier.line →
        t.flt.lists = s.flt.lists.filter (·.source != fget value 11 0)))
  ∧ (∀ (value : Word) (r : EscRun) (s : State), Inv s → s.top.inReset = false → shut s (aFlt 4) = false → fget value 11 0 ∉ s.flt.grace →
      s.flt.lists.find? (·.source == fget value 11 0) = some r → r.waitIsland.isSome = true →
    Completes (.escAck value) s fun t => reg64 t (aFlt 0x38) = (reg64 s (aFlt 0x38) + 1) % 2 ^ 64
      ∧ t.flt.lists.find? (·.source == fget value 11 0) = some { r with cancelled := true })
  ∧ (∀ (value : Word) (s : State), s.top.inReset = false → shut s (aFlt 4) = false → fget value 11 0 ∉ s.flt.grace →
      s.flt.lists.all (·.source != fget value 11 0) = true →
    Completes (.escAck value) s fun t => t.flt = s.flt ∧ reg64 t (aFlt 0x38) = reg64 s (aFlt 0x38))
  ∧ (∀ (src : Nat) (value : BitVec 64) (s : State), Inv s → src < 4096 → s.top.inReset = false →
    Completes (.actionsWrite src value) s fun t =>
      (((List.range 4).all fun k => actionOk (nbits value.toNat (16 * k + 15) (16 * k))) = true →
        reg64 t (aEsc src 8) = value.toNat ∧ RegsBut [aEsc src 8, aEsc src 8 + 4] s t)
      ∧ (((List.range 4).all fun k => actionOk (nbits value.toNat (16 * k + 15) (16 * k))) = false →
        reg64 t (aEsc src 8) = reg64 s (aEsc src 8) ∧ regBit t (aFlt 8) 0 = true ∧ 0xE04 ∈ t.crier.pend))
  ∧ (∀ (src n a : Nat) (s : State), Inv s → src < 4096 → Acting s src n 0 a →
    Completes (.escEnd src) s fun t => 0xE01 ∈ t.crier.pend ∧ reg64 t (aFlt 0x28) = (reg64 s (aFlt 0x28) + 1) % 2 ^ 64
      ∧ (EscAlone s src → src ≠ 0xE01 → src ∉ s.crier.line →
        t.flt.lists = s.flt.lists.filter (·.source != src) ∧ regBit t (aEsc src 0) 29 = false))
  ∧ (∀ (src n a : Nat) (s : State), Inv s → src < 4096 → Acting s src n 1 a →
    Completes (.escIsland src) s fun t => reg64 t (aFlt 0x28) = (reg64 s (aFlt 0x28) + 1) % 2 ^ 64
      ∧ (islandResettable a = true → a ∈ t.top.islands
        ∧ t.flt.lists.find? (·.source == src) = some { source := src, next := n, cancelled := false, waitIsland := some a })
      ∧ (islandResettable a = false → t.top.islands = s.top.islands ∧ Moves t src n ∧ 0xE02 ∈ t.crier.pend
        ∧ reg64 t (aFlt 0x30) = (reg64 s (aFlt 0x30) + 1) % 2 ^ 64))
  ∧ (∀ (src n a : Nat) (s : State), Inv s → src < 4096 → Acting s src n 2 a → s.top.inReset = false → s.top.controlReset = false →
    Completes (.escControl src) s fun t => fwRuns t = false ∧ t.top.controlReset = true ∧ t.crier.cores = [] ∧ Moves t src n)
  ∧ (∀ (src n a : Nat) (s : State), Inv s → src < 4096 → Acting s src n 3 a →
    Completes (.escCold src) s fun t => ColdResetFrom 6 [] s.top.lands.ioLow (jrnFlush s) t)
  ∧ (∀ (src n a : Nat) (s : State), Inv s → src < 4096 → Acting s src n 4 a → a < 72 → s.top.inReset = false →
    Completes (.escQuiesce src) s fun t => reg64 t (aFlt 0x28) = (reg64 s (aFlt 0x28) + 1) % 2 ^ 64
      ∧ (shut s (aPipe a 0) = false → regBit t (aPipe a 0) 0 = true ∧ Moves t src n)
      ∧ (islandHeld s a = true →
        t.flt.lists.find? (·.source == src) = some { source := src, next := n, cancelled := false, waitIsland := some a }))
  ∧ (∀ (src n a : Nat) (s : State), Inv s → src < 4096 → Acting s src n 5 a → a < 1152 → s.top.inReset = false →
    Completes (.escPortOff src) s fun t => (shut s (aPortCfg a) = false → portEn t a = false ∧ Moves t src n)
      ∧ (islandHeld s (72 + a / 32) = true →
        t.flt.lists.find? (·.source == src) = some { source := src, next := n, cancelled := false, waitIsland := some (72 + a / 32) }))
  ∧ (∀ (src n a : Nat) (s : State), Inv s → src < 4096 → Acting s src n 6 a → a < 2 →
    Completes (.escLoseStack src) s fun t => stackLostBit t a = true ∧ (stackLostBit s a = false → 0x805 ∈ t.crier.pend) ∧ Moves t src n)
  ∧ (∀ (src n a : Nat) (s : State), Inv s → src < 4096 → Acting s src n 7 a →
    Completes (.escWait src) s fun t => Moves t src n ∧ t.top.islands = s.top.islands
      ∧ reg64 t (aFlt 0x28) = (reg64 s (aFlt 0x28) + 1) % 2 ^ 64)

/-- The power loop. REGULATOR_POLL reads every enabled entry at its bus, address and page, and stores the answer's millivolts, milliamperes and degrees; an entry without an answer turns STALE, and MODEL_ONLY follows the VDD_CORE entries with 0xC07 as it is entered (R443, R444).
SCALES_READY restores the phases, writes the warning limits, enables the alerts and sets BRINGUP.SCALES (R445, R453, R454). Over the cap, the loop cuts the one priced pipeline by a step, or its activity, or, protected, defers its cut
with 0xC00; at or under it CAP_UNMET clears and it wants the waiting cuts no more; 3 % below it raises the priced pipeline that stays 1 % below (R448 to R451). DEFERRAL_FORCE takes the cut at
once where the bounds leave one, and waits for a clear hall and detector (R448, R451, R456). A want outside the bounds shows in CONFLICT, with 0xC04 once in 100 ms, unless hardware holds the pipeline below them (R447). A glide completes; a frozen one waits for its detector, and then completes or is undone, which R456 leaves open, but
completes where hardware wants the step low (R448, R456). An alert, or the current at ABS_A, starts the limiter with ACT at most 6 on pipelines that are not protected, and its steps bring ACT to 4 and then cut a step
of every pipeline; it ends with its condition (R453). The fast estimate is the model's, calibrated, and its energy is measured, moved with the estimate since the poll, or the model's (R444, R450, R460). ABS_WRITE takes 400 to 1,600 A, and any other sets CFG_BAD with 0xC09 (R453, R463). -/
def Obligations.PowerComplete : Prop :=
  (∀ (answers : List RegulatorAnswer) (s : State), Inv s → sclLive s = true →
    Completes (.regulatorPoll answers) s fun t => (regulatorsOn s).all (pollShows answers s t) = true ∧ t.scales.pollNw = s.scales.estNw
      ∧ regBit t (aScl 4) 31 = (coreEntries s).all (fun k => regBit t (aRegulator k 4) 31)
      ∧ (regBit s (aScl 4) 31 = false → regBit t (aScl 4) 31 = true → 0xC07 ∈ t.crier.pend))
  ∧ (∀ (s : State), Inv s → bringup s 8 = false → sclPolicy s = true → s.scales.regTable = true →
      (regulatorsOn s).all s.scales.polled.contains = true →
    Completes .scalesReady s fun t => bringup t 8 = true ∧ t.scales.phases = jrnPhases t.journal ∧ 0x003 ∈ t.crier.pend
      ∧ (coreEntries s).all (fun k => t.out.contains (.alertOn k)) = true ∧ warned s t (regF s (aScl 0x14) 10 0) = true)
  ∧ (∀ (savings : List (Nat × Nat)) (s : State), Inv s → sclPolicy s = true → bringup s 8 = true → estMw s ≤ capMw s →
    Completes (.capLoopTick savings) s fun t => regBit t (aScl 4) 26 = false
      ∧ t.scales.deferrals.all (fun d => !d.wanted) = true)
  ∧ (∀ (savings : List (Nat × Nat)) (p mw : Nat) (s : State), Inv s → savings = [(p, mw)] → sclPolicy s = true → bringup s 8 = true →
      capMw s < estMw s → cutOpen (loopState s) p = true → pipeProtected s p = false → hallFree (loopState s) p = true →
    Completes (.capLoopTick savings) s fun t => stepNow t p + 1 = stepNow (loopState s) p ∧ gliding t p = true)
  ∧ (∀ (savings : List (Nat × Nat)) (p mw : Nat) (s : State), Inv s → savings = [(p, mw)] → sclPolicy s = true → bringup s 8 = true →
      capMw s < estMw s → cutOpen (loopState s) p = true → pipeProtected s p = true →
    Completes (.capLoopTick savings) s fun t => (deferralOf t p).any (·.wanted) = true ∧ stepNow t p = stepNow (loopState s) p
      ∧ (deferralOf (loopState s) p = none → regBit t (aPipeClk p) 28 = true ∧ regBit t (aScl 4) 27 = true ∧ 0xC00 ∈ t.crier.pend))
  ∧ (∀ (savings : List (Nat × Nat)) (p mw : Nat) (s : State), Inv s → savings = [(p + 72, mw)] → sclPolicy s = true → bringup s 8 = true →
      capMw s < estMw s → actOpen (loopState s) p = true → mw ≠ 0 →
    Completes (.capLoopTick savings) s fun t => mapGet 8 t.scales.actPolicy p + 1 = mapGet 8 s.scales.actPolicy p
      ∧ stepNow t p = stepNow (loopState s) p)
  ∧ (∀ (savings : List (Nat × Nat)) (p mw : Nat) (s : State), Inv s → savings = [(p + 144, mw)] → sclPolicy s = true → bringup s 8 = true →
      estMw s * 100 < capMw s * 97 → (estMw s + mw) * 100 ≤ capMw s * 99 →
      p < 72 → regBit s (aScl 0) 31 = true → sclThrottle s = false → sclCritical s = false → absActive s = false →
      stepNow (loopState s) p < stepHi s p → gliding (loopState s) p = false → mayGlide s p = true →
    Completes (.capLoopTick savings) s fun t => stepNow t p = stepNow (loopState s) p + 1 ∧ gliding t p = true)
  ∧ (∀ (p : Nat) (d : Deferral) (s : State), Inv s → deferralOf s p = some d → p < 72 → sclLive s = true →
    Completes (.deferralForce p) s fun t =>
      (stepLo s p < stepNow s p → cutReady s p = true → deferralOf t p = none ∧ regBit t (aPipeClk p) 28 = false
        ∧ stepNow t p = stepNow s p - 1 ∧ gliding t p = true ∧ 0xC00 ∈ t.crier.pend)
      ∧ (stepNow s p ≤ stepLo s p → deferralOf t p = none ∧ regBit t (aPipeClk p) 28 = false ∧ stepNow t p = stepNow s p ∧ 0xC00 ∈ t.crier.pend)
      ∧ (stepLo s p < stepNow s p → cutReady s p = false → Only [] s t))
  ∧ (∀ (p step : Nat) (s : State), Inv s → sclPolicy s = true → p < 72 → step < 4 →
    Completes (.sclPolicyConflict p step) s fun t =>
      (step < stepLo s p ∨ stepHi s p < step → heldBelow s p = false → (reg t (aScl 0x30)).toNat = p * 2 ^ 25 + 2 ^ 24 + step
        ∧ (step < stepLo s p → capMw s < estMw s → regBit t (aScl 4) 26 = true)
        ∧ (intervalOver s 0xC04 100000000 = true → 0xC04 ∈ t.crier.pend))
      ∧ (stepLo s p ≤ step ∧ step ≤ stepHi s p ∨ heldBelow s p = true → Only [] s t))
  ∧ (∀ (p : Nat) (s : State), Inv s → p < 72 → gliding s p = true →
    Completes (.glideComplete p) s fun t =>
      (p ∉ s.scales.frozen → gliding t p = false ∧ stepNow t p = stepNow s p ∧ t.scales = s.scales)
      ∧ (p ∈ s.scales.frozen → detectorClear s p = false → t.regs = s.regs ∧ t.scales = s.scales)
      ∧ (p ∈ s.scales.frozen → detectorClear s p = true → sclPolicy s = true ∨ sclCritical s = true ∨ absActive s = true →
        gliding t p = false ∧ t.scales.frozen = s.scales.frozen.erase p
        ∧ (stepNow t p = stepNow s p ∨ stepNow t p = mapGet 0 s.scales.glideFrom p % 4)
        ∧ (sclCritical s = true ∨ absActive s = true → stepNow t p = stepNow s p)))
  ∧ (∀ (bus : Nat) (low : Bool) (s : State), Inv s → bus < 2 → s.top.inReset = false →
    Completes (.pmbusAlert bus low) s fun t => t.scales.alerts = (if low then addOnce s.scales.alerts bus else s.scales.alerts.erase bus)
      ∧ (s.scales.limiter = 0 → limiterCond t = true → t.scales.limiter = 1 ∧ absActive t = true ∧ 0xC01 ∈ t.crier.pend
        ∧ pipesAll.all (fun p => pipeProtected s p || decide (regF t (aPipeClk p) 11 8 ≤ 6)) = true)
      ∧ (s.scales.limiter ≠ 0 ∨ limiterCond t = false → Only [.scales] s t ∧ t.scales.limiter = s.scales.limiter))
  ∧ (∀ (s : State), Inv s → sclLive s = true →
    Completes .fastEstimateTick s fun t => regF t (aScl 0x20) 31 16 = min 65535 (modelNw s * s.scales.calib / 65536 / 1000000000)
      ∧ t.scales.estNw = modelNw s ∧ t.activity.micro = [] ∧ t.scales.energy = s.scales.energy
        + (if modelOnly s then modelNw s * s.scales.calib / 65536
          else 1000 * measuredUw s * (if s.scales.pollNw = 0 then 1 else modelNw s) / max 1 s.scales.pollNw)
      ∧ t.scales.overCurrent = decide (min 1600 (regF s (aScl 0x14) 10 0) * 1000000 ≤ modelUa s)
      ∧ (s.scales.limiter = 0 → min 1600 (regF s (aScl 0x14) 10 0) * 1000000 ≤ modelUa s →
        absActive t = true ∧ t.scales.limiter = 1 ∧ 0xC01 ∈ t.crier.pend))
  ∧ (∀ (s : State), Inv s → limiterCond s = true → s.scales.limiter = 1 →
    Completes .limiterStep s fun t => t.scales.limiter = 2 ∧ pipesAll.all (fun p => decide (regF t (aPipeClk p) 11 8 ≤ 4)) = true
      ∧ (pipesAll.any (pipeProtected s) = true → 0xC00 ∈ t.crier.pend))
  ∧ (∀ (s : State), Inv s → limiterCond s = true → 1 < s.scales.limiter →
    Completes .limiterStep s fun t => t.scales.limiter = 3
      ∧ pipesAll.all (fun p => stepNow t p == if mayGlide s p then stepNow s p - 1 else stepNow s p) = true)
  ∧ (∀ (s : State), Inv s → limiterCond s = false → s.scales.limiter ≠ 0 →
    Completes .limiterRelease s fun t => t.scales.limiter = 0 ∧ absActive t = false
      ∧ pipesAll.all (fun p => regF t (aPipeClk p) 11 8 == min (min (actWanted s p) 8) (if sclCritical s then 4 else 8)) = true)
  ∧ (∀ (value : Word) (s : State), Inv s → s.top.inReset = false → shut s (aScl 0x14) = false →
    Completes (.absWrite value) s fun t =>
      (400 ≤ fget value 10 0 → fget value 10 0 ≤ 1600 → regF t (aScl 0x14) 10 0 = fget value 10 0 ∧ RegsBut [aScl 0x14] s t
        ∧ (bringup s 8 = true → warned s t (fget value 10 0) = true))
      ∧ (fget value 10 0 < 400 ∨ 1600 < fget value 10 0 →
        reg t (aScl 0x14) = reg s (aScl 0x14) ∧ regBit t (aScl 8) 0 = true ∧ 0xC09 ∈ t.crier.pend))

/-- Heat, droop, phases and energy. A droop stretches its island's clock, counts it and freezes a glide in progress, and its end adds its length (R455, R456). Each interval's energy is accumulated, each hall's counter
takes its share of the model's and ENERGY_COMMON the rest, queues are given theirs, and with phases enabled a signature near no phase starts a new one while there is room, unless FREEZE stops learning, while the third interval in a row near a phase makes it current (R454, R459).
TJ and its sensor show the hottest die sensor (R457). From 115 °C every clock that may glide goes to step 0 with ACT at most 4 and 0xC02, is held there, and is released below 110 °C; at the throttle temperature Scales policy starts
the throttle with 0xC03, and ends it once TJ has been 3 °C below for 10 ms (R458). A throttle tick has every open pipeline that is not protected cut, at once those of the highest step in each hall that can have a cut; with no such cut open it
takes an eighth of activity from those at their lowest step, and with neither defers the cuts of protected ones (R380, R448, R451, R458). -/
def Obligations.HeatComplete : Prop :=
  (∀ (island : Nat) (s : State), Inv s → s.top.inReset = false →
    Completes (.droopTrip island) s fun t =>
      (hasDetector island = true → island ∉ s.scales.stretched → t.scales.stretched = s.scales.stretched ++ [island]
        ∧ regF t (aScl (0xA0 + 4 * droopIndex island)) 31 16 = min 65535 (regF s (aScl (0xA0 + 4 * droopIndex island)) 31 16 + 1)
        ∧ (island < 72 → gliding s island = true → island ∈ t.scales.frozen) ∧ (intervalOver s 0xC08 1000000 = true → 0xC08 ∈ t.crier.pend))
      ∧ (hasDetector island = false ∨ island ∈ s.scales.stretched → Only [] s t))
  ∧ (∀ (island stretchedUs : Nat) (s : State), Inv s →
    Completes (.droopClear island stretchedUs) s fun t =>
      (island ∈ s.scales.stretched → t.scales.stretched = s.scales.stretched.erase island
        ∧ regF t (aScl (0xA0 + 4 * droopIndex island)) 15 0 = min 65535 (regF s (aScl (0xA0 + 4 * droopIndex island)) 15 0 + stretchedUs))
      ∧ (island ∉ s.scales.stretched → Only [] s t))
  ∧ (∀ (s : State), Inv s → sclLive s = true →
    Completes .phaseTick s fun t =>
      reg64 t (aScl 0x40) = (reg64 s (aScl 0x40) + s.scales.energy / 1000000000) % 2 ^ 64 ∧ t.scales.energy = s.scales.energy % 1000000000
      ∧ (List.range 9).all (fun h => reg64 t (aScl (0x50 + 8 * h)) == (reg64 s (aScl (0x50 + 8 * h)) + hallShare s h) % 2 ^ 64) = true
      ∧ reg64 t (aScl 0x48) = (reg64 s (aScl 0x48)
        + (s.scales.energy / 1000000000 - ((List.range 9).map (hallShare s)).foldl (· + ·) 0)) % 2 ^ 64
      ∧ t.scales.queueUj = queueShares s (s.scales.energy / 1000000000) ∧ t.scales.parts = [] ∧ t.activity.ms = [] ∧ t.activity.shares = []
      ∧ t.scales.calib = (if modelFj s = 0 ∨ modelOnly s = true then s.scales.calib else s.scales.energy * 65536 / modelFj s)
      ∧ (regBit s (aScl 0) 30 = false → t.scales.phases = s.scales.phases)
      ∧ (sclPolicy s = true → bringup s 8 = true → regBit s (aScl 0) 30 = true → s.scales.phases.findIdx? (nearPhase (signature s)) = none →
        (regBit s (aScl 0) 29 = true → t.scales.phases = s.scales.phases)
        ∧ (regBit s (aScl 0) 29 = false → s.scales.phases.length < 8 →
          t.scales.phases = s.scales.phases ++ [{ centroid := signature s, steps := pipesAll.map (stepNow s), used := s.elapsed }]
          ∧ regF t (aScl 4) 15 8 = 2 ^ (s.scales.phases.length + 1) - 1))
      ∧ (sclPolicy s = true → bringup s 8 = true → regBit s (aScl 0) 30 = true → s.scales.matched.2 = 2 →
        s.scales.phases.findIdx? (nearPhase (signature s)) = some s.scales.matched.1 → t.scales.current = some s.scales.matched.1
        ∧ (s.scales.current ≠ some s.scales.matched.1 → regF t (aScl 4) 18 16 = s.scales.matched.1 % 8)))
  ∧ (∀ (sensors engines : List Nat) (s : State), Inv s → sclLive s = true →
    Completes (.thermalSense sensors engines) s fun t => t.scales.engines = engines ∧ tjNow t = min 255 (hottest sensors)
      ∧ sensors.getD (regF t (aScl 0x24) 11 8) 0 = hottest sensors
      ∧ (sclCritical s = false → 115 ≤ hottest sensors → sclCritical t = true ∧ 0xC02 ∈ t.crier.pend)
      ∧ (115 ≤ hottest sensors ∨ sclCritical s = true ∧ 110 ≤ hottest sensors → sclCritical t = true
        ∧ pipesAll.all (fun p => (stepNow t p == if mayGlide s p then 0 else stepNow s p) && decide (regF t (aPipeClk p) 11 8 ≤ 4)) = true)
      ∧ (hottest sensors < 110 → sclCritical t = false)
      ∧ (sclCritical s = false → hottest sensors < 115 → sclCritical t = false)
      ∧ (sclPolicy s = true → sclThrottle s = false →
        sclThrottle t = decide (throttleC s ≤ min 255 (hottest sensors)) ∧ (sclThrottle t = true → 0xC03 ∈ t.crier.pend))
      ∧ (sclPolicy s = true → sclThrottle s = true → throttleC s < min 255 (hottest sensors) + 3 → sclThrottle t = true)
      ∧ (sclPolicy s = true → sclThrottle s = true → min 255 (hottest sensors) + 3 ≤ throttleC s →
        sclThrottle t = !s.scales.coolSince.any (fun n => decide (n + 10000000 ≤ s.elapsed)) ∧ (sclThrottle t = false → 0xC03 ∈ t.crier.pend)))
  ∧ (∀ (s : State), Inv s → sclPolicy s = true → throttling s = true →
    Completes .throttleTick s fun t =>
      (pipesAll.any (fun p => cutOpen s p && !pipeProtected s p) = true → pipesAll.all (fun p =>
        stepNow t p == if cutOpen s p && !pipeProtected s p && hallFree s p && pipesAll.all (fun q =>
            !(cutOpen s q && !pipeProtected s q && pipeHall q == pipeHall p) || decide (stepNow s q ≤ stepNow s p))
          then stepNow s p - 1 else stepNow s p) = true)
      ∧ (pipesAll.any (fun p => cutOpen s p && !pipeProtected s p) = false → pipesAll.any (actOpen s) = true → pipesAll.all (fun p =>
        stepNow t p == stepNow s p && actWanted t p == if actOpen s p then actWanted s p - 1 else actWanted s p) = true)
      ∧ (pipesAll.any (fun p => cutOpen s p && !pipeProtected s p) = false → pipesAll.any (actOpen s) = false → pipesAll.all (fun p =>
        stepNow t p == stepNow s p && (!cutOpen s p || (deferralOf t p).isSome)) = true))

/-- Laser cartridges. A cartridge that seats is PRESENT, and t0 starts its insertion once the latch is closed; one that leaves ends in EMPTY with EN low, its lit channels failed (R152 to R158). A latch that opens starts the
removal of an ACTIVE or a REFUSED one, with 0x4D0 + c as it starts where an ACTIVE one's partners do not carry its light (log 90), reverses a ramp under way, or abandons an insertion; one that closes begins an insertion, or in a removal is remembered (R156 to R159). A reported shutdown acts as an opening latch, and
waits for firmware (R155). An insertion reads the record, challenges, judges the tag by the policy with TRUSTED, powers, and lights every channel that has not failed, at half beside a share that gives light (R158 to R161). A removal goes
through its steps: partners that give light at full, then EN low (Table CRT-1). A share that fails is marked and its partner goes to full output (R153). Low light marks its four lanes (R151). Wear rises by 0.5 + P / P_full an hour of light and is recorded
(R162). The loop moves at most 0.1 mA toward the wanted current inside the range, and a want outside is reported (R164, R165). -/
def Obligations.CartridgesComplete : Prop :=
  (∀ (bay : Nat) (s : State), Inv s → bay < 9 → islandHeld s 126 = false → bayPres s bay = false →
    Completes (.cartPresenceChange bay true) s fun t => bayPres t bay = true ∧ bayState t bay = stPresent
      ∧ (bayLatched s bay = true → (getBay t bay).step = .inserting 0)
      ∧ (bayLatched s bay = false → (getBay t bay).step = (getBay s bay).step))
  ∧ (∀ (bay : Nat) (s : State), Inv s → bay < 9 → islandHeld s 126 = false → bayPres s bay = true →
    Completes (.cartPresenceChange bay false) s fun t => bayPres t bay = false ∧ bayState t bay = stEmpty ∧ (getBay t bay).identity = none
      ∧ (getBay t bay).step = .idle ∧ (getBay t bay).target = [] ∧ bayEn t bay = false ∧ 0x480 + bay ∈ t.crier.pend
      ∧ (List.range 64).all (fun n => !chLive s bay n || chFailed t bay n) = true)
  ∧ (∀ (bay : Nat) (s : State), Inv s → bay < 9 → islandHeld s 126 = false → bayLatched s bay = true →
    Completes (.cartLatchOpen bay) s fun t => bayLatched t bay = false
      ∧ ((getBay s bay).step = .idle → ramping s bay = false → bayState s bay = stActive ∨ bayState s bay = stRefused →
        (getBay t bay).step = .removing 1 ∧ (bayState s bay = stActive → safeBay s bay = false → 0x4D0 + bay ∈ t.crier.pend))
      ∧ ((getBay s bay).step = .idle → ramping s bay = true →
        (getBay t bay).step = .removing 2 ∧ bayState t bay = stRemoving ∧ 0x480 + bay ∈ t.crier.pend
        ∧ (bayState s bay = stActive → safeBay s bay = false → 0x4D0 + bay ∈ t.crier.pend))
      ∧ ((getBay s bay).step = .idle → ramping s bay = false → bayState s bay ≠ stActive → bayState s bay ≠ stRefused → t.bays = s.bays))
  ∧ (∀ (bay n : Nat) (s : State), Inv s → bay < 9 → islandHeld s 126 = false → bayLatched s bay = true → (getBay s bay).step = .inserting n →
    Completes (.cartLatchOpen bay) s fun t => bayLatched t bay = false ∧ (getBay t bay).step = .idle ∧ bayEn t bay = false
      ∧ (getBay t bay).target = [])
  ∧ (∀ (bay n : Nat) (s : State), Inv s → bay < 9 → islandHeld s 126 = false → bayLatched s bay = true → (getBay s bay).step = .removing n →
    Completes (.cartLatchOpen bay) s fun t => bayLatched t bay = false ∧ getBay t bay = { getBay s bay with reclosed := false })
  ∧ (∀ (bay : Nat) (s : State), Inv s → bay < 9 → islandHeld s 126 = false → bayLatched s bay = false → bayPres s bay = true →
      (getBay s bay).step = .removing 4 ∨ (getBay s bay).step = .idle ∧ bayState s bay ≠ stActive →
    Completes (.cartLatchClose bay) s fun t => bayLatched t bay = true ∧ (getBay t bay).step = .inserting 0 ∧ bayState t bay = stPresent)
  ∧ (∀ (bay n : Nat) (s : State), Inv s → bay < 9 → islandHeld s 126 = false → bayLatched s bay = false → (getBay s bay).step = .removing n →
      n ≠ 4 ∨ bayPres s bay = false →
    Completes (.cartLatchClose bay) s fun t => bayLatched t bay = true ∧ getBay t bay = { getBay s bay with reclosed := true })
  ∧ (∀ (bay : Nat) (s : State), Inv s → bay < 9 → islandHeld s 126 = false → bayPres s bay = true →
    Completes (.cartInt bay true) s fun t =>
      (fwRuns s = false → getBay t bay = { getBay s bay with asked := some true } ∧ t.regs = s.regs)
      ∧ (fwRuns s = true → bayState s bay = stActive ∨ bayState s bay = stRefused → (getBay s bay).step = .idle → ramping s bay = false →
        (getBay t bay).step = .removing 1 ∧ (bayState s bay = stActive → safeBay s bay = false → 0x4D0 + bay ∈ t.crier.pend)))
  ∧ (∀ (bay : Nat) (s : State), bay < 9 → islandHeld s 126 = false → bayPres s bay = true → (getBay s bay).asked = none → fwRuns s = true →
    Completes (.cartInt bay false) s fun t => getBay t bay = getBay s bay ∧ Only [.bays] s t)
  ∧ (∀ (bay : Nat) (identity : Identity) (s : State), Inv s → bay < 9 → (getBay s bay).step = .inserting 0 →
    Completes (.cartAuthenticating bay identity) s fun t => bayState t bay = stAuthenticating ∧ 0x480 + bay ∈ t.crier.pend
      ∧ (fwRuns s = true → (getBay t bay).step = .inserting 2 ∧ (getBay t bay).identity = some identity
        ∧ reg64 t (aBay bay 8) = leAt identity.octets 0 8)
      ∧ (fwRuns s = false → (getBay t bay).step = .inserting 1))
  ∧ (∀ (bay : Nat) (identity : Identity) (s : State), Inv s → bay < 9 → (getBay s bay).step = .inserting 1 → fwRuns s = true →
    Completes (.cartAuthenticating bay identity) s fun t => (getBay t bay).step = .inserting 2 ∧ (getBay t bay).identity = some identity
      ∧ reg64 t (aBay bay 8) = leAt identity.octets 0 8)
  ∧ (∀ (bay : Nat) (tag : List Byte) (s : State), Inv s → bay < 9 → (getBay s bay).step = .inserting 2 → (getBay s bay).challenge ≠ [] →
      fwRuns s = true → sealReady s = true →
    Completes (.cartChallengeCheck bay tag) s fun t => regBit t (aBay bay 0) 11 = tagChecks s bay tag ∧ (getBay t bay).challenge = []
      ∧ (tagChecks s bay tag = true ∨ regBit s (aCrt 0) 0 = true → s.top.fuses.lcs ≠ .retired → (getBay t bay).step = .inserting 3
        ∧ (tagChecks s bay tag = false → 0x4C0 + bay ∈ t.crier.pend))
      ∧ (tagChecks s bay tag = false ∧ regBit s (aCrt 0) 0 = false ∨ s.top.fuses.lcs = .retired →
        (getBay t bay).step = .idle ∧ bayState t bay = stRefused ∧ (bayState s bay ≠ stRefused → 0x480 + bay ∈ t.crier.pend)))
  ∧ (∀ (bay : Nat) (s : State), Inv s → bay < 9 → (getBay s bay).step = .inserting 3 →
    Completes (.cartEnRaise bay) s fun t => bayEn t bay = true ∧ (getBay t bay).step = .inserting 4)
  ∧ (∀ (bay : Nat) (s : State), Inv s → bay < 9 → (getBay s bay).step = .inserting 4 →
    Completes (.cartActivate bay) s fun t => bayState t bay = stActive ∧ (getBay t bay).step = .idle ∧ 0x480 + bay ∈ t.crier.pend
      ∧ (List.range 64).all (fun n => targetOf t bay n == if chFailed s bay n then targetOf s bay n
          else if willLight s (partner bay n).1 (partner bay n).2 then 1 else 2) = true
      ∧ (List.range 64).all (fun n => chFailed s bay n || !chLive s (partner bay n).1 (partner bay n).2
          || targetOf t (partner bay n).1 (partner bay n).2 == 1) = true)
  ∧ (∀ (bay : Nat) (s : State), Inv s → bay < 9 → (getBay s bay).step = .removing 1 →
    Completes (.removalRampStart bay) s fun t => (getBay t bay).step = .removing 2 ∧ bayState t bay = stRemoving ∧ 0x480 + bay ∈ t.crier.pend)
  ∧ (∀ (bay : Nat) (s : State), bay < 9 → (getBay s bay).step = .removing 2 →
    Completes (.removalRampDone bay) s fun t => (getBay t bay).step = .removing 3
      ∧ (List.range 64).all (fun n => if chLive s (partner bay n).1 (partner bay n).2
          then targetOf t bay n == 0 && targetOf t (partner bay n).1 (partner bay n).2 == 2
          else targetOf t bay n == targetOf s bay n) = true)
  ∧ (∀ (bay : Nat) (s : State), Inv s → bay < 9 → (getBay s bay).step = .removing 3 →
    Completes (.removalEnLow bay) s fun t => bayEn t bay = false ∧ (getBay t bay).target = []
      ∧ ((getBay s bay).reclosed = false → (getBay t bay).step = .removing 4)
      ∧ ((getBay s bay).reclosed = true → bayPres s bay = true → bayLatched s bay = true →
        (getBay t bay).step = .inserting 0 ∧ bayState t bay = stPresent))
  ∧ (∀ (bay ch : Nat) (s : State), Inv s → bay < 9 → ch < 64 → chLive s bay ch = true →
    Completes (.shareFailed bay ch) s fun t => chFailed t bay ch = true ∧ 0x490 + bay ∈ t.crier.pend
      ∧ (chLive s (partner bay ch).1 (partner bay ch).2 = true → targetOf t (partner bay ch).1 (partner bay ch).2 = 2))
  ∧ (∀ (g input : Nat) (s : State), Inv s → g < 36 → input < 8 →
    Completes (.lightLow g input) s fun t => (List.range 4).all (fun k => regBit t (aEvtLanes g 7) (4 * input + k)) = true)
  ∧ (∀ (outputs : List (Nat × Nat × Nat)) (bay n k : Nat) (s : State), bay < 9 → (getBay s bay).target = [(n, k)] →
    Completes (.wearTick outputs) s fun t =>
      (chFailed s bay n = false → outputOf outputs bay n k ≠ 0 →
        mapGet 0 (getBay t bay).wear n = mapGet 0 (getBay s bay).wear n + (1000 + 2 * outputOf outputs bay n k))
      ∧ (chFailed s bay n = true ∨ outputOf outputs bay n k = 0 → mapGet 0 (getBay t bay).wear n = mapGet 0 (getBay s bay).wear n))
  ∧ (∀ (failedBlocks : List Nat) (bay : Nat) (i : Identity) (s : State), Inv s → (getBay s bay).identity = some i → bay < 9 →
      fwRuns s = true → bayState s bay = stActive →
    Completes (.wearRecordWrite failedBlocks) s fun t => (getBay t bay).identity = some (idWorn i (bayWear (getBay s bay) / 7200))
      ∧ (sealReady s = true → bayPres s bay = true → reg64 s (aBay bay 8) = idSerial i →
        .wearRecord bay (bayWear (getBay s bay) / 7200) ∈ t.out))
  ∧ (∀ (bay ch want : Nat) (s : State), bay < 9 → ch < 64 →
    Completes (.currentLoopStep bay ch want) s fun t =>
      (targetOf s bay ch ≠ 0 → mapGet 0 (getBay t bay).drive ch
        = if mapGet 0 (getBay s bay).drive ch ≤ curClamp s bay ch want then min (curClamp s bay ch want) (mapGet 0 (getBay s bay).drive ch + 10)
          else max (curClamp s bay ch want) (mapGet 0 (getBay s bay).drive ch - 10))
      ∧ (targetOf s bay ch = 0 → Only [] s t))
  ∧ (∀ (bay ch want : Nat) (s : State), Inv s → bay < 9 → ch < 64 → intervalOver s (0x4B0 + bay) 100000000 = true →
    Completes (.cartPolicyConflict bay ch want) s fun t =>
      (curClamp s bay ch (min want (bayCal s bay ch).2) ≠ min want (bayCal s bay ch).2 →
        (reg t (aBay bay 0x30)).toNat = ch * 2 ^ 26 + want % 65536 ∧ 0x4B0 + bay ∈ t.crier.pend)
      ∧ (curClamp s bay ch (min want (bayCal s bay ch).2) = min want (bayCal s bay ch).2 → Only [] s t))

/-- Cartridge commands and the Cashbox. READ_ID returns the record of a cartridge that has been read, REAUTH judges a cartridge anew once its record is read, an ACTIVE one staying ACTIVE, a REFUSED one that is admitted starting its insertion and one that is entering
service and is not admitted ending REFUSED with its enable low; SET_POLICY sets CTRL.POLICY and the journal's copy, and PREPARE_REMOVE starts a removal; each ends with BAD_ARG for a bay out of range, and NOT_FOUND where the rule names it (R161, R166). KEY_UNWRAP writes a host slot with the unwrapped key, ends with AUTH_FAIL and 0xD01 where the unwrap fails, with BAD_ARG for
a slot, KEK, usage or length that is not allowed, and with NOT_PERMITTED outside PROVISIONED and OPERATIONAL; with ERASE it empties the slot, its GENERATION one higher (R467, R469). CTX_SAVE writes context 0, clear or wrapped; CTX_RESTORE loads it, waits for an idle context, and ends with
AUTH_FAIL for a record that does not verify and BAD_ARG for one whose slot is not usable (R471, R472). A key epoch starts with the host slots empty, the other slots derived as the life-cycle state has them and 0xD03 after an island reset, once the random source is sound, and what waited for it goes on (R465, R468). The source fails with
0xD02, and its return lets what waited go on (R465). -/
def Obligations.CashboxComplete : Prop :=
  (∀ (cmd : HostCmd) (i : Identity) (s : State), (getBay s (cartBay cmd)).identity = some i → Ready s cmd .readId →
    Completes (.readId cmd) s fun t =>
      (cartBay cmd < 9 → cmd.dataLen = 320 → bayState s (cartBay cmd) ≠ stEmpty →
        Reports cmd stOk t ∧ t.out = s.out ++ [.hostWrite cmd.hostAddr (sliceZ i.octets 0 320)])
      ∧ (8 < cartBay cmd ∨ cmd.dataLen ≠ 320 → Reports cmd stBadArg t ∧ t.out = s.out))
  ∧ (∀ (cmd : HostCmd) (s : State), Ready s cmd .readId → cartBay cmd < 9 → cmd.dataLen = 320 → bayState s (cartBay cmd) = stEmpty →
    Completes (.readId cmd) s fun t => Reports cmd stNotFound t ∧ t.out = s.out)
  ∧ (∀ (cmd : HostCmd) (tag : List Byte) (s : State), Inv s → Ready s cmd .reauth → cartBay cmd < 9 → bayState s (cartBay cmd) ≠ stEmpty →
      trngUp s = true → (getBay s (cartBay cmd)).identity ≠ none →
    Completes (.reauth cmd tag) s fun t =>
      Reports cmd (if regBit t (aBay (cartBay cmd) 0) 11 then stOk else stAuthFail) t
      ∧ (bayState s (cartBay cmd) = stActive → (getBay s (cartBay cmd)).step = .idle → bayState t (cartBay cmd) = stActive
        ∧ (getBay t (cartBay cmd)).step = .idle)
      ∧ (bayState s (cartBay cmd) = stRefused → (getBay s (cartBay cmd)).step = .idle → s.top.fuses.lcs ≠ .retired →
          regBit t (aBay (cartBay cmd) 0) 11 = true ∨ regBit s (aCrt 0) 0 = true →
        bayState t (cartBay cmd) = stAuthenticating ∧ (getBay t (cartBay cmd)).step = .inserting 3 ∧ 0x480 + cartBay cmd ∈ t.crier.pend)
      ∧ ((getBay s (cartBay cmd)).step = .idle ∧ bayState s (cartBay cmd) = stRefused ∨ (getBay s (cartBay cmd)).step = .inserting 2
            ∨ (getBay s (cartBay cmd)).step = .inserting 3 ∨ (getBay s (cartBay cmd)).step = .inserting 4 →
          regBit t (aBay (cartBay cmd) 0) 11 = false → regBit s (aCrt 0) 0 = false →
        bayState t (cartBay cmd) = stRefused ∧ (getBay t (cartBay cmd)).step = .idle
        ∧ ((getBay s (cartBay cmd)).step = .inserting 4 → bayEn t (cartBay cmd) = false)))
  ∧ (∀ (cmd : HostCmd) (tag : List Byte) (s : State), Ready s cmd .reauth →
    Completes (.reauth cmd tag) s fun t =>
      (8 < cartBay cmd → Reports cmd stBadArg t ∧ t.bays = s.bays)
      ∧ (cartBay cmd < 9 → bayState s (cartBay cmd) = stEmpty → Reports cmd stNotFound t ∧ t.bays = s.bays)
      ∧ (cartBay cmd < 9 → bayState s (cartBay cmd) ≠ stEmpty → trngUp s = false ∨ (getBay s (cartBay cmd)).identity = none →
        t.bays = s.bays ∧ t.hif.completions = s.hif.completions))
  ∧ (∀ (cmd : HostCmd) (s : State), Inv s → Ready s cmd .setPolicy →
    Completes (.setPolicy cmd) s fun t =>
      (cartBay cmd < 9 → Reports cmd stOk t ∧ regBit t (aCrt 0) 0 = (argN cmd 2 1).testBit 0
        ∧ jrnPolicy t.journal = some ((argN cmd 2 1).testBit 0))
      ∧ (8 < cartBay cmd → Reports cmd stBadArg t ∧ t.journal = s.journal ∧ t.regs = s.regs))
  ∧ (∀ (cmd : HostCmd) (s : State), Ready s cmd .prepareRemove →
    Completes (.prepareRemove cmd) s fun t =>
      (cartBay cmd < 9 → bayState s (cartBay cmd) = stActive → Reports cmd stOk t
        ∧ ((getBay s (cartBay cmd)).step = .idle → (getBay t (cartBay cmd)).step = .removing 1))
      ∧ (cartBay cmd < 9 → bayState s (cartBay cmd) ≠ stActive → Reports cmd stNotFound t ∧ t.bays = s.bays)
      ∧ (8 < cartBay cmd → Reports cmd stBadArg t ∧ t.bays = s.bays))
  ∧ (∀ (cmd : HostCmd) (k : List Byte) (s : State), slotKey s (argN cmd 1 1) 0 = some k → Ready s cmd .keyUnwrap →
      unwrapPermitted s = true → 16 ≤ argN cmd 0 1 → argN cmd 0 1 ≤ 63 →
      argN cmd 1 1 = 0 ∨ 16 ≤ argN cmd 1 1 ∧ argN cmd 1 1 ≤ 63 →
      argN cmd 3 1 % 16 ≠ 0 → cmd.dataLen = 24 ∨ cmd.dataLen = 32 ∨ cmd.dataLen = 40 →
    Completes (.keyUnwrap cmd) s fun t =>
      (∀ x, Config.unwrap (argN cmd 2 1 % 2) k (sliceZ cmd.data 0 cmd.dataLen) = some x →
        (x.length + 8 = cmd.dataLen → Answers cmd stOk (bytesLE 2 (getSlot t (argN cmd 0 1)).gen) t
          ∧ getSlot t (argN cmd 0 1)
            = { key := some x, usage := BitVec.ofNat 4 (argN cmd 3 1), gen := ((getSlot s (argN cmd 0 1)).gen + 1) % 65536 })
        ∧ (x.length + 8 ≠ cmd.dataLen → Reports cmd stAuthFail t ∧ t.sec.slots = s.sec.slots ∧ 0xD01 ∈ t.crier.pend))
      ∧ (Config.unwrap (argN cmd 2 1 % 2) k (sliceZ cmd.data 0 cmd.dataLen) = none →
          Reports cmd stAuthFail t ∧ t.sec.slots = s.sec.slots ∧ 0xD01 ∈ t.crier.pend))
  ∧ (∀ (cmd : HostCmd) (s : State), Ready s cmd .keyUnwrap →
    Completes (.keyUnwrap cmd) s fun t =>
      (unwrapPermitted s = false → Reports cmd stNotPermitted t ∧ t.sec = s.sec)
      ∧ (unwrapPermitted s = true → argN cmd 0 1 < 16 ∨ 63 < argN cmd 0 1 ∨ slotKey s (argN cmd 1 1) 0 = none
          ∨ argN cmd 1 1 ≠ 0 ∧ argN cmd 1 1 < 16 ∨ 63 < argN cmd 1 1 ∨ argN cmd 3 1 % 16 = 0
          ∨ (cmd.dataLen ≠ 24 ∧ cmd.dataLen ≠ 32 ∧ cmd.dataLen ≠ 40) →
        Reports cmd stBadArg t ∧ t.sec = s.sec))
  ∧ (∀ (cmd : HostCmd) (s : State), Ready s cmd .keyErase →
    Completes (.keyErase cmd) s fun t =>
      (unwrapPermitted s = true → 16 ≤ argN cmd 0 1 → argN cmd 0 1 ≤ 63 →
        Answers cmd stOk (bytesLE 2 (getSlot t (argN cmd 0 1)).gen) t
        ∧ getSlot t (argN cmd 0 1) = { key := none, usage := 0, gen := ((getSlot s (argN cmd 0 1)).gen + 1) % 65536 })
      ∧ (unwrapPermitted s = false → Reports cmd stNotPermitted t ∧ t.sec = s.sec)
      ∧ (unwrapPermitted s = true → argN cmd 0 1 < 16 ∨ 63 < argN cmd 0 1 → Reports cmd stBadArg t ∧ t.sec = s.sec))
  ∧ (∀ (cmd : HostCmd) (s : State), Ready s cmd .ctxSave →
    Completes (.ctxSave cmd) s fun t => t.sec = s.sec
      ∧ (s.top.fuses.lcs = .retired → Reports cmd stNotPermitted t ∧ t.out = s.out)
      ∧ (s.top.fuses.lcs ≠ .retired → ctxArgsOk cmd = false → Reports cmd stBadArg t ∧ t.out = s.out)
      ∧ (s.top.fuses.lcs ≠ .retired → ctxArgsOk cmd = true → argN cmd 1 1 = 0 →
        Reports cmd stOk t ∧ t.out = s.out ++ [.hostWrite cmd.hostAddr (ctxRecord s)])
      ∧ (s.top.fuses.lcs ≠ .retired → ctxArgsOk cmd = true → argN cmd 1 1 = 1 →
        (wrapKey s cmd = none → Reports cmd stBadArg t ∧ t.out = s.out)
        ∧ (∀ k, wrapKey s cmd = some k → Reports cmd stOk t ∧ t.out = s.out ++ [.hostWrite cmd.hostAddr (Config.wrap k (ctxRecord s))])))
  ∧ (∀ (cmd : HostCmd) (s : State), Ready s cmd .ctxRestore →
    Completes (.ctxRestore cmd) s fun t =>
      (s.top.fuses.lcs = .retired → Reports cmd stNotPermitted t ∧ t.sec = s.sec)
      ∧ (s.top.fuses.lcs ≠ .retired → ctxArgsOk cmd = false → Reports cmd stBadArg t ∧ t.sec = s.sec)
      ∧ (s.top.fuses.lcs ≠ .retired → ctxArgsOk cmd = true → ctxIdle s = true →
        (argN cmd 1 1 = 1 → wrapKey s cmd = none → Reports cmd stBadArg t ∧ t.sec.ctx0 = s.sec.ctx0)
        ∧ (clearRecord s cmd = none → argN cmd 1 1 = 0 ∨ (wrapKey s cmd).isSome = true → Reports cmd stAuthFail t ∧ t.sec.ctx0 = s.sec.ctx0)
        ∧ (∀ b, clearRecord s cmd = some b →
          (leAt b 0 4 ≠ 0x54435843 ∨ leAt b 4 1 ≠ 0 → Reports cmd stAuthFail t ∧ t.sec.ctx0 = s.sec.ctx0)
          ∧ (leAt b 0 4 = 0x54435843 → leAt b 4 1 = 0 → slotKey s (leAt b 5 1) 2 = none → Reports cmd stBadArg t ∧ t.sec.ctx0 = s.sec.ctx0)
          ∧ (leAt b 0 4 = 0x54435843 → leAt b 4 1 = 0 → slotKey s (leAt b 5 1) 2 ≠ none → Reports cmd stOk t ∧ t.sec.ctx0 = ctxLoad b)))
      ∧ (s.top.fuses.lcs ≠ .retired → ctxArgsOk cmd = true → ctxIdle s = false →
        t.hif.completions = s.hif.completions ∧ t.sec.ctx0 = s.sec.ctx0 ∧ t.sec.waiting.any (fun x => cmdKey x == cmdKey cmd) = true))
  ∧ (∀ (island : Bool) (s : State), Inv s → s.sec.epochDue = some island → bringup s 0 = true → islandDown s 128 = false →
    Completes .keyEpochStart s fun t =>
      (trngUp s = true → t = runHeld (keyEpoch s) ∧ regBit (keyEpoch s) (aSec 0) 30 = true ∧ (keyEpoch s).sec.epochDue = none
        ∧ (keyEpoch s).sec.ctx0.counter = 0
        ∧ (List.range 48).all (fun i => (getSlot (keyEpoch s) (16 + i)).key == none) = true ∧ (getSlot (keyEpoch s) 3).key.isSome = true
        ∧ (getSlot (keyEpoch s) 0).key = (if s.top.fuses.lcs = .provisioned ∨ s.top.fuses.lcs = .operational then s.top.fuses.ownerKek else none)
        ∧ (getSlot (keyEpoch s) 1).key = (if s.top.fuses.lcs = .retired then none
            else some (Config.derive Config.rootKey (if s.top.fuses.lcs = .debug then [2] else [1])))
        ∧ (getSlot (keyEpoch s) 2).key = (if s.top.fuses.lcs = .retired then none else some Config.cartMasterKey)
        ∧ (getSlot (keyEpoch s) 4).key = (if s.top.fuses.lcs = .retired then none else some (Config.derive Config.rootKey [4]))
        ∧ (island = true → 0xD03 ∈ (keyEpoch s).crier.pend))
      ∧ (trngUp s = false → 4096 ∈ t.sec.rngWait ∧ t.sec.epochDue = some island ∧ t.sec.slots = s.sec.slots))
  ∧ (∀ (s : State), Inv s → trngUp s = true → Completes .trngFail s fun t => trngUp t = false ∧ 0xD02 ∈ t.crier.pend)
  ∧ (∀ (s : State), Inv s → trngUp s = false →
    Completes .trngOk s fun t => trngUp t = true ∧ t.sec.rngWait = []
      ∧ s.sec.rngWait.all (fun n => decide (16 ≤ n) || (getBay s n).step != .inserting 2 || (getBay t n).challenge != []) = true
      ∧ (4096 ∈ s.sec.rngWait → bringup s 0 = true → islandDown s 128 = false → t.sec.epochDue = none))

/-- Frames of supply, bring-up and reset commands: whatever the state and the operands, the command answers a next state in which
only the named parts of the state, and of the registers only the named ones, may differ. (The cold resets, which reset every part,
stand in SupplyCommandsComplete, ResetsComplete and EscalationComplete. ISLAND_RESET_COMPLETE is stated where no access waits at
the island; those that wait then act as ResetsComplete says.) -/
def Obligations.SupplyAndResetFrames : Prop :=
  (∀ (mv : Nat) (ns : Nat) (s : State), Completes (.vddCoreWarning mv ns) s fun t => Frame [.owed, .lastRaise, .top, .crier, .flt,
      .scales] [.fltCount2, .escCfg, .droop] s t)
  ∧ (∀ (minMv : Nat) (durNs : Nat) (s : State), Completes (.vddCoreWarningEnd minMv durNs) s fun t => Frame [.owed, .top, .crier,
      .flt] [.vwarn, .fltCount2, .escCfg] s t)
  ∧ (∀ (straps : BitVec 5) (refclks : BitVec 4) (s : State), Completes (.coldResetRelease straps refclks) s fun t => Frame [.owed,
      .top, .crier, .flt] [.strap, .fltCount2, .escCfg, .timRef] s t)
  ∧ (∀ (s : State), Completes .fusesLoaded s fun t => Frame [.owed, .crier, .flt] [.topId, .bringup, .lcs, .fltCount2, .escCfg,
      .selfId, .secStatus, .kRevoke] s t)
  ∧ (∀ (failedBanks : List Nat) (s : State), Completes (.clocksLocked failedBanks) s fun t => Frame [.clock, .freeCtr, .journal,
      .owed, .lastRaise, .top, .pipes, .market, .spill, .sched, .telem, .crier, .flt, .activity] [.bringup, .fltRec, .fltFirst,
      .fltCount0, .fltCount1, .fltCount2, .escCfg, .mktStatus, .poolFree, .mktCount0, .mktCount3, .mktCount4, .mktCount5, .mktCount6,
      .partUsed, .qcfgPitch, .qcfgOcc, .pfcState, .ingUsed, .hdrmUsed, .bankStatus, .stagingFree, .splCount, .stackStatus,
      .qspillStatus, .talCount, .pmcCount] s t)
  ∧ (∀ (s : State), Completes .tableWipeComplete s fun t => Frame [.prog, .freeCtr, .journal, .owed, .lastRaise, .top, .hif, .prg,
      .pipes, .tables, .clerk, .crier, .flt, .activity, .bays, .out] [.bringup, .orphanCtrl, .orphanLog, .fltCount2, .escCfg,
      .secCount, .crtPolicy, .domCtrl, .domT, .clkErr, .flapLast, .flapTable, .clerkCount, .desc, .hashCfg, .pmcCount] s t)
  ∧ (∀ (stack : Nat) (failedCh : List Nat) (s : State), Completes (.hbmWipeComplete stack failedCh) s fun t => Frame [.freeCtr, .owed,
      .lastRaise, .market, .spill, .sched, .telem, .crier, .flt, .activity] [.bringup, .fltCount2, .escCfg, .mktStatus, .poolFree,
      .mktCount3, .mktCount4, .mktCount5, .mktCount6, .partUsed, .qcfgPitch, .qcfgOcc, .pfcState, .ingUsed, .hdrmUsed, .stagingFree,
      .splCount, .stackStatus, .retiredCh, .qspillStatus, .talCount, .pmcCount] s t)
  ∧ (∀ (bad : List JrnRec) (s : State), Completes (.firmwareStart bad) s fun t => Frame [.prog, .freeCtr, .journal, .owed, .lastRaise,
      .top, .hif, .prg, .ports, .pipes, .tables, .clerk, .sched, .ainum, .crier, .flt, .scales, .activity, .bays, .out] [.bringup,
      .orphanCtrl, .orphanLog, .fltCount2, .escCfg, .regCfg, .portLatency, .tokenCtrl, .peerStatus, .secStatus, .secCount, .crtPolicy,
      .bayStatus, .chFull, .domCtrl, .domT, .portsUp, .evtLanes, .portState, .clkErr, .flapLast, .flapTable, .clerkCount, .desc,
      .hashCfg, .pmcCount] s t)
  ∧ (∀ (s : State), Completes .jtagCoreRelease s fun t => Frame [.top] [] s t)
  ∧ (∀ (island : Nat) (s : State), Completes (.islResetIsland island) s fun t => Frame [.freeCtr, .journal, .owed, .lastRaise, .top,
      .hif, .ports, .pipes, .market, .spill, .sched, .ainum, .telem, .crier, .flt, .activity, .sec] [.islReset, .bringup, .orphanCtrl,
      .orphanLog, .fltRec, .fltFirst, .fltCount0, .fltCount1, .fltCount2, .escCfg, .portLatency, .tokenCtrl, .peerStatus, .secStatus,
      .slotStatus, .portsUp, .evtLanes, .portState, .stateCtrl, .mktStatus, .poolFree, .mktCount0, .mktCount3, .mktCount4, .mktCount5,
      .mktCount6, .partUsed, .qcfgPitch, .qcfgOcc, .pfcState, .ingUsed, .hdrmUsed, .stagingFree, .splCount, .stackStatus, .phyStatus,
      .qspillStatus, .talCount, .pmcCount] s t)
  ∧ (∀ (s : State), Completes .islResetControl s fun t => Frame [.owed, .top, .hif, .prg, .crier, .flt] [.islReset, .bringup, .mbCtrl,
      .mbResponse, .orphanCtrl, .orphanLog, .fltCount2, .escCfg] s t)
  ∧ (∀ (island : Nat) (s : State), (∀ h ∈ s.top.held, islandAt h.addr ≠ island) → Completes (.islandResetComplete island) s fun t =>
      Frame [.owed, .top, .slots, .crier, .flt, .sec] [.islReset, .fltCount2, .escCfg, .winSlotStatus, .winErr] s t)
  ∧ (∀ (core : Nat) (s : State), Completes (.coreWatchdogExpiry core) s fun t => Frame [.owed, .top, .hif, .prg, .crier, .flt]
      [.bringup, .mbCtrl, .mbResponse, .orphanCtrl, .orphanLog, .fltCount2, .escCfg] s t)
  ∧ (∀ (s : State), Completes .controlReset s fun t => Frame [.owed, .top, .hif, .prg, .crier, .flt] [.bringup, .mbCtrl, .mbResponse,
      .orphanCtrl, .orphanLog, .fltCount2, .escCfg] s t)
  ∧ (∀ (bad : List JrnRec) (s : State), Completes (.controlResetComplete bad) s fun t => Frame [.prog, .freeCtr, .journal, .owed,
      .lastRaise, .top, .hif, .prg, .ports, .pipes, .tables, .clerk, .sched, .ainum, .crier, .flt, .scales, .activity, .bays, .out]
      [.bringup, .orphanCtrl, .orphanLog, .fltCount2, .escCfg, .regCfg, .portLatency, .tokenCtrl, .peerStatus, .secStatus, .secCount,
      .crtPolicy, .bayStatus, .chFull, .domCtrl, .domT, .portsUp, .evtLanes, .portState, .clkErr, .flapLast, .flapTable, .clerkCount,
      .desc, .hashCfg, .pmcCount] s t)
  ∧ (∀ (stack : Nat) (failedCh : List Nat) (s : State), Completes (.hbmPhyTrained stack failedCh) s fun t => Frame [.freeCtr, .owed,
      .lastRaise, .market, .spill, .sched, .telem, .crier, .flt, .activity] [.bringup, .fltCount2, .escCfg, .mktStatus, .poolFree,
      .mktCount3, .mktCount4, .mktCount5, .mktCount6, .partUsed, .qcfgPitch, .qcfgOcc, .pfcState, .ingUsed, .hdrmUsed, .stagingFree,
      .splCount, .stackStatus, .retiredCh, .phyStatus, .qspillStatus, .talCount, .pmcCount] s t)

/-- Frames of host-interface, ring, mailbox, firmware and journal commands: whatever the state and the operands, the command
answers a next state in which only the named parts of the state, and of the registers only the named ones, may differ. -/
def Obligations.HostInterfaceFrames : Prop :=
  (∀ (cause : PerstCause) (s : State), Completes (.perstNAssert cause) s fun t => Frame [.owed, .lastRaise, .top, .hif, .market,
      .crier, .flt, .activity, .sec] [.hifStatus, .orphanCtrl, .orphanLog, .fltCount2, .escCfg, .tsMissed, .mktStatus, .poolFree,
      .partUsed, .pmcCount] s t)
  ∧ (∀ (s : State), Completes .perstNRelease s fun t => Frame [.hif] [] s t)
  ∧ (∀ (s : State), Completes .hostIslandRelease s fun t => Only [.regs, .owed, .top, .hif, .crier, .flt] s t)
  ∧ (∀ (width : Nat) (speed : Nat) (flit : Bool) (s : State), Completes (.linkTrained width speed flit) s fun t => Frame [.owed,
      .crier, .flt] [.hifStatus, .fltCount2, .escCfg] s t)
  ∧ (∀ (s : State), Completes .lcsChange s fun t => Frame [.owed, .top, .hif, .crier, .flt] [.mbCtrl, .mbResponse, .orphanCtrl,
      .orphanLog, .fltCount2, .escCfg, .secCount] s t)
  ∧ (∀ (image : Image) (cut : Bool) (s : State), Completes (.fwUpdate image cut) s fun t => Frame [.owed, .top, .hif, .crier, .flt]
      [.mbCtrl, .mbResponse, .orphanCtrl, .orphanLog, .fltCount2, .escCfg, .secCount] s t)
  ∧ (∀ (addr : Nat) (write : Bool) (s : State), Completes (.bar0UnmappedAccess addr write) s fun t => Frame [.owed, .crier, .flt,
      .out] [.hifErr, .fltCount2, .escCfg] s t)
  ∧ (∀ (r : Nat) (index : Nat) (s : State), Completes (.crDoorbell r index) s fun t => Frame [.owed, .hif, .crier, .flt] [.hifErr,
      .ringTail, .fltCount2, .escCfg] s t)
  ∧ (∀ (r : Nat) (index : Nat) (s : State), Completes (.cqDoorbell r index) s fun t => Frame [.owed, .crier, .flt] [.hifErr,
      .ringHead, .fltCount2, .escCfg] s t)
  ∧ (∀ (n : Nat) (index : Nat) (s : State), Completes (.rxDoorbell n index) s fun t => Frame [.owed, .crier, .flt] [.hifErr,
      .ringTail, .fltCount2, .escCfg] s t)
  ∧ (∀ (n : Nat) (index : Nat) (s : State), Completes (.nqDoorbell n index) s fun t => Frame [.owed, .crier, .flt] [.hifErr,
      .ringHead, .fltCount2, .escCfg] s t)
  ∧ (∀ (kind : RingKind) (n : Nat) (cfg : Word) (s : State), Completes (.ringEnable kind n cfg) s fun t => Frame [.hif] [.ringCfg,
      .ringHead, .ringTail] s t)
  ∧ (∀ (kind : RingKind) (n : Nat) (cfg : Word) (s : State), Completes (.ringDisable kind n cfg) s fun t => Frame [.owed, .lastRaise,
      .hif, .crier, .flt] [.ringCfg, .fltCount2, .escCfg, .tsMissed] s t)
  ∧ (∀ (kind : RingKind) (n : Nat) (s : State), Completes (.ringDmaError kind n) s fun t => Frame [.owed, .lastRaise, .hif, .crier,
      .flt] [.ringCfg, .fltCount2, .escCfg, .tsMissed] s t)
  ∧ (∀ (r : Nat) (entry : List Byte) (data : List Byte) (s : State), Completes (.commandFetch r entry data) s fun t => Frame [.owed,
      .hif, .crier, .flt, .out] [.ringHead, .orphanCtrl, .orphanLog, .fltCount2, .escCfg] s t)
  ∧ (∀ (q : Nat) (s : State), Completes (.completionWrite q) s fun t => Frame [.owed, .hif, .crier, .flt, .out] [.ringTail,
      .orphanCtrl, .orphanLog, .fltCount2, .escCfg] s t)
  ∧ (∀ (n : Nat) (s : State), Completes (.notificationWrite n) s fun t => Frame [.owed, .hif, .crier, .flt, .out] [.ringTail,
      .fltCount2, .escCfg] s t)
  ∧ (∀ (cmd : HostCmd) (s : State), Completes (.nop cmd) s fun t => Frame [.owed, .hif, .crier, .flt] [.orphanCtrl, .orphanLog,
      .fltCount2, .escCfg] s t)
  ∧ (∀ (cmd : HostCmd) (s : State), Completes (.fence cmd) s fun t => Frame [.hif] [] s t)
  ∧ (∀ (cr : Nat) (index : Nat) (s : State), Completes (.fenceComplete cr index) s fun t => Frame [.owed, .hif, .crier, .flt]
      [.orphanCtrl, .orphanLog, .fltCount2, .escCfg] s t)
  ∧ (∀ (n : Nat) (entry : List Byte) (err : Option DataErr) (s : State), Completes (.rxFrameDma n entry err) s fun t => Frame
      [.freeCtr, .journal, .owed, .lastRaise, .hif, .pipes, .market, .spill, .sched, .telem, .crier, .flt, .activity, .out] [.ringCfg,
      .ringHead, .fltRec, .fltFirst, .fltCount0, .fltCount1, .fltCount2, .escCfg, .tsMissed, .mktStatus, .poolFree, .mktCount0,
      .mktCount3, .mktCount4, .mktCount5, .mktCount6, .mktCount7, .partUsed, .qcfgPitch, .qcfgOcc, .pfcState, .ingUsed, .hdrmUsed,
      .bankStatus, .bankEcc, .stagingFree, .splCount, .stackStatus, .qspillStatus, .talCount, .pmcCount] s t)
  ∧ (∀ (addr : Nat) (data : List Byte) (s : State), Completes (.apertureWrite addr data) s fun t => Frame [.owed, .hif, .crier, .flt]
      [.hifErr, .apertureDrops, .ringHead, .ringTail, .fltCount2, .escCfg] s t)
  ∧ (∀ (addr : Nat) (len : Nat) (s : State), Completes (.apertureRead addr len) s fun t => Frame [.out] [] s t)
  ∧ (∀ (s : State), Completes .mailboxGo s fun t => Frame [.owed, .hif, .crier, .flt] [.mbCtrl, .fltCount2, .escCfg] s t)
  ∧ (∀ (s : State), Completes .mailboxResponse s fun t => Frame [.owed, .top, .hif, .crier, .flt] [.mbCtrl, .mbResponse, .orphanCtrl,
      .orphanLog, .fltCount2, .escCfg, .secCount] s t)
  ∧ (∀ (s : State), Completes .orphanLogClear s fun t => Frame [] [.orphanCtrl, .orphanDword] s t)
  ∧ (∀ (cmd : HostCmd) (badLines : List Nat) (s : State), Completes (.jrnRead cmd badLines) s fun t => Frame [.owed, .hif, .crier,
      .flt, .out] [.orphanCtrl, .orphanLog, .fltCount2, .escCfg, .secCount] s t)
  ∧ (∀ (cmd : HostCmd) (badLines : List Nat) (failedBlocks : List Nat) (s : State), Completes (.jrnWrite cmd badLines failedBlocks) s
      fun t => Frame [.journal, .owed, .hif, .crier, .flt] [.orphanCtrl, .orphanLog, .fltCount2, .escCfg, .secCount] s t)
  ∧ (∀ (cmd : HostCmd) (image : Image) (s : State), Completes (.patchLoad cmd image) s fun t => Frame [.owed, .top, .hif, .prg,
      .crier, .flt] [.orphanCtrl, .orphanLog, .fltCount2, .escCfg, .secCount] s t)
  ∧ (∀ (s : State), Completes .patchSwitchPoint s fun t => Frame [.owed, .top, .hif, .prg, .crier, .flt] [.orphanCtrl, .orphanLog,
      .fltCount2, .escCfg, .secStatus] s t)
  ∧ (∀ (cr : Nat) (index : Nat) (s : State), Completes (.commandTimeout cr index) s fun t => Frame [.owed, .hif, .clerk, .crier, .flt,
      .sec] [.orphanCtrl, .orphanLog, .fltCount2, .escCfg] s t)

/-- Frames of register accesses and the commands of programs and commits: whatever the state and the operands, the command answers
a next state in which only the named parts of the state, and of the registers only the named ones, may differ. (REGISTER_WRITE and
BAR0_BAD_ACCESS, which may carry a write of any register, have no such list.) -/
def Obligations.RegisterAndProgramFrames : Prop :=
  (∀ (addr : Nat) (s : State), Completes (.rcCounterRead addr) s fun t => Only [.regs, .top, .out] s t ∧ RegsBut [addr] s t)
  ∧ (∀ (rq : Requester) (addr : Nat) (s : State), Completes (.reg64LowWordRead rq addr) s fun t => Frame [.top, .hif, .out] [] s t)
  ∧ (∀ (rq : Requester) (addr : Nat) (value : Word) (s : State), Completes (.reg64LowWordWrite rq addr value) s fun t => Frame [.hif]
      [] s t)
  ∧ (∀ (rq : Requester) (addr : Nat) (value : Word) (s : State), Completes (.reg64HighWordWrite rq addr value) s fun t => Only [.regs,
      .journal, .owed, .lastRaise, .top, .hif, .prg, .sched, .ainum, .telem, .crier, .flt, .scales, .sec, .out] s t)
  ∧ (∀ (cmd : HostCmd) (s : State), Completes (.stageWrite cmd) s fun t => Frame [.prog, .owed, .hif, .pipes, .crier, .flt]
      [.orphanCtrl, .orphanLog, .fltCount2, .escCfg] s t)
  ∧ (∀ (cmd : HostCmd) (s : State), Completes (.commit cmd) s fun t => Frame [.owed, .hif, .prg, .crier, .flt] [.orphanCtrl,
      .orphanLog, .fltCount2, .escCfg, .domCtrl, .domT] s t)
  ∧ (∀ (cmd : HostCmd) (s : State), Completes (.commitAt cmd) s fun t => Frame [.owed, .hif, .prg, .crier, .flt] [.orphanCtrl,
      .orphanLog, .fltCount2, .escCfg, .domCtrl, .domT] s t)
  ∧ (∀ (cmd : HostCmd) (s : State), Completes (.commitToken cmd) s fun t => Frame [.owed, .hif, .prg, .crier, .flt] [.orphanCtrl,
      .orphanLog, .fltCount2, .escCfg, .domCtrl, .domT] s t)
  ∧ (∀ (cmd : HostCmd) (s : State), Completes (.commitCancel cmd) s fun t => Frame [.owed, .hif, .prg, .crier, .flt] [.orphanCtrl,
      .orphanLog, .fltCount2, .escCfg, .domCtrl, .domT] s t)
  ∧ (∀ (d : Dom) (s : State), Completes (.commitInstant d) s fun t => Frame [.owed, .hif, .prg, .crier, .flt] [.orphanCtrl,
      .orphanLog, .fltCount2, .escCfg, .domCtrl, .domT] s t)
  ∧ (∀ (d : Dom) (s : State), Completes (.drainEnd d) s fun t => Frame [.prg] [.domCtrl] s t)
  ∧ (∀ (d : Dom) (s : State), Completes (.drainForce d) s fun t => Frame [.freeCtr, .journal, .owed, .lastRaise, .pipes, .market,
      .spill, .sched, .telem, .crier, .flt, .activity] [.fltRec, .fltFirst, .fltCount0, .fltCount1, .fltCount2, .escCfg, .domCtrl,
      .stateCtrl, .mktStatus, .poolFree, .mktCount0, .mktCount3, .mktCount4, .mktCount5, .mktCount6, .partUsed, .qcfgPitch, .qcfgOcc,
      .pfcState, .ingUsed, .hdrmUsed, .stagingFree, .splCount, .stackStatus, .qspillStatus, .talCount, .pmcCount] s t)
  ∧ (∀ (d : Dom) (s : State), Completes (.retireComplete d) s fun t => Frame [.prog, .owed, .prg, .pipes, .crier, .flt] [.fltCount2,
      .escCfg, .domCtrl] s t)
  ∧ (∀ (failedBlocks : List Nat) (s : State), Completes (.commitRecordWrite failedBlocks) s fun t => Frame [.journal, .owed, .prg,
      .crier, .flt] [.fltCount2, .escCfg, .secCount] s t)

/-- Frames of port, link, ladder and lane commands: whatever the state and the operands, the command answers a next state in which
only the named parts of the state, and of the registers only the named ones, may differ. -/
def Obligations.PortFrames : Prop :=
  (∀ (g : Nat) (o : Nat) (value : Word) (s : State), Completes (.octCfgWrite g o value) s fun t => Frame [.owed, .top, .crier, .flt]
      [.fltCount2, .escCfg, .octCfg, .lanErr, .portsUp, .evtLanes, .portState] s t)
  ∧ (∀ (lane : Nat) (value : Word) (s : State), Completes (.portCfgWrite lane value) s fun t => Frame [.freeCtr, .journal, .owed,
      .lastRaise, .top, .ports, .pipes, .market, .spill, .sched, .ainum, .telem, .crier, .flt, .activity] [.bringup, .fltRec,
      .fltFirst, .fltCount0, .fltCount1, .fltCount2, .escCfg, .portLatency, .tokenCtrl, .peerStatus, .lanErr, .portsUp, .evtLanes,
      .portCfg, .portState, .mktStatus, .poolFree, .mktCount0, .mktCount3, .mktCount4, .mktCount5, .mktCount6, .partUsed, .qcfgPitch,
      .qcfgOcc, .pfcState, .ingUsed, .hdrmUsed, .stagingFree, .splCount, .stackStatus, .qspillStatus, .schErr, .talCount, .pmcCount] s
      t)
  ∧ (∀ (lane : Nat) (s : State), Completes (.portEnable lane) s fun t => Frame [.freeCtr, .journal, .owed, .lastRaise, .top, .ports,
      .pipes, .market, .spill, .sched, .ainum, .telem, .crier, .flt, .activity] [.bringup, .fltRec, .fltFirst, .fltCount0, .fltCount1,
      .fltCount2, .escCfg, .portLatency, .tokenCtrl, .peerStatus, .lanErr, .portsUp, .evtLanes, .portCfg, .portState, .mktStatus,
      .poolFree, .mktCount0, .mktCount3, .mktCount4, .mktCount5, .mktCount6, .partUsed, .qcfgPitch, .qcfgOcc, .pfcState, .ingUsed,
      .hdrmUsed, .stagingFree, .splCount, .stackStatus, .qspillStatus, .schErr, .talCount, .pmcCount] s t)
  ∧ (∀ (lane : Nat) (s : State), Completes (.portDisable lane) s fun t => Frame [.freeCtr, .journal, .owed, .lastRaise, .top, .ports,
      .pipes, .market, .spill, .sched, .ainum, .telem, .crier, .flt, .activity] [.bringup, .fltRec, .fltFirst, .fltCount0, .fltCount1,
      .fltCount2, .escCfg, .portLatency, .tokenCtrl, .peerStatus, .lanErr, .portsUp, .evtLanes, .portCfg, .portState, .mktStatus,
      .poolFree, .mktCount0, .mktCount3, .mktCount4, .mktCount5, .mktCount6, .partUsed, .qcfgPitch, .qcfgOcc, .pfcState, .ingUsed,
      .hdrmUsed, .stagingFree, .splCount, .stackStatus, .qspillStatus, .schErr, .talCount, .pmcCount] s t)
  ∧ (∀ (port : Nat) (skewNs : Nat) (s : State), Completes (.portAligned port skewNs) s fun t => Frame [.owed, .ports, .sched, .ainum,
      .crier, .flt] [.bringup, .fltCount2, .escCfg, .portLatency, .tokenCtrl, .peerStatus, .portsUp, .evtLanes, .portState] s t)
  ∧ (∀ (lane : Nat) (signalGone : Bool) (s : State), Completes (.lossOfSignal lane signalGone) s fun t => Frame [.owed, .ports,
      .sched, .ainum, .crier, .flt] [.fltCount2, .escCfg, .portLatency, .tokenCtrl, .peerStatus, .portsUp, .evtLanes, .portState] s t)
  ∧ (∀ (port : Nat) (localFault : Bool) (s : State), Completes (.faultReceived port localFault) s fun t => Frame [.owed, .ports,
      .sched, .ainum, .crier, .flt] [.fltCount2, .escCfg, .portLatency, .tokenCtrl, .peerStatus, .portsUp, .evtLanes, .portState] s t)
  ∧ (∀ (port : Nat) (s : State), Completes (.recoveryEnd port) s fun t => Frame [] [.portState] s t)
  ∧ (∀ (port : Nat) (s : State), Completes (.ladderStepPropose port) s fun t => Frame [.ports, .ainum] [] s t)
  ∧ (∀ (port : Nat) (s : State), Completes (.stepTransmitterSwitch port) s fun t => Frame [.owed, .sched, .ainum, .crier, .flt]
      [.fltCount2, .escCfg, .portLatency, .tokenCtrl, .peerStatus, .portsUp, .evtLanes, .portState] s t)
  ∧ (∀ (port : Nat) (skewNs : Nat) (s : State), Completes (.ladderStepSuccess port skewNs) s fun t => Frame [.journal, .owed, .ports,
      .sched, .ainum, .crier, .flt, .out] [.bringup, .fltCount2, .escCfg, .portLatency, .tokenCtrl, .peerStatus, .secCount, .portsUp,
      .evtLanes, .portState] s t)
  ∧ (∀ (port : Nat) (s : State), Completes (.ladderStepFail port) s fun t => Frame [.journal, .owed, .ports, .sched, .ainum, .crier,
      .flt, .out] [.bringup, .fltCount2, .escCfg, .portLatency, .tokenCtrl, .peerStatus, .secCount, .portsUp, .evtLanes, .portState] s
      t)
  ∧ (∀ (port : Nat) (s : State), Completes (.stepAckTimeout port) s fun t => Frame [.journal, .owed, .ports, .crier, .flt, .out]
      [.bringup, .fltCount2, .escCfg, .secCount, .portsUp, .evtLanes, .portState] s t)
  ∧ (∀ (port : Nat) (s : State), Completes (.ladderRetry port) s fun t => Frame [.ports] [] s t)
  ∧ (∀ (port : Nat) (s : State), Completes (.ladderNoPeer port) s fun t => Frame [.journal, .owed, .ports, .crier, .flt, .out]
      [.bringup, .fltCount2, .escCfg, .secCount, .portsUp, .evtLanes, .portState] s t)
  ∧ (∀ (lane : Nat) (want : Word) (s : State), Completes (.eqLoopStep lane want) s fun t => Frame [] [.eqNow] s t)
  ∧ (∀ (lane : Nat) (want : Word) (s : State), Completes (.eqPolicyConflict lane want) s fun t => Frame [.owed, .lastRaise, .crier,
      .flt] [.fltCount2, .escCfg, .evtLanes, .eqConflict] s t)
  ∧ (∀ (lane : Nat) (symbols : Nat) (words : Nat) (s : State), Completes (.fecDegrade lane symbols words) s fun t => Frame [.owed,
      .crier, .flt] [.fltCount2, .escCfg, .evtLanes, .fecCorr, .fecSymbols] s t)
  ∧ (∀ (port : Nat) (s : State), Completes (.faultCleared port) s fun t => Frame [.owed, .ports, .sched, .ainum, .crier, .flt]
      [.bringup, .fltCount2, .escCfg, .portLatency, .tokenCtrl, .peerStatus, .portsUp, .evtLanes, .portState] s t)
  ∧ (∀ (port : Nat) (s : State), Completes (.signalPresent port) s fun t => Frame [.owed, .sched, .ainum, .crier, .flt] [.fltCount2,
      .escCfg, .portLatency, .tokenCtrl, .peerStatus, .portsUp, .evtLanes, .portState] s t)
  ∧ (∀ (lane : Nat) (s : State), Completes (.uncorrectableCodeword lane) s fun t => Frame [.owed, .crier, .flt] [.fltCount2, .escCfg,
      .evtLanes, .fecUncorr] s t)

/-- Frames of arrival, parse, stall and stall-access commands: whatever the state and the operands, the command answers a next
state in which only the named parts of the state, and of the registers only the named ones, may differ. -/
def Obligations.PipelineFrames : Prop :=
  (∀ (port : Nat) (octets : List Byte) (pcs : Stamp) (s : State), Completes (.frameArrival port octets pcs) s fun t => Frame
      [.freeCtr, .owed, .lastRaise, .pipes, .market, .spill, .sched, .telem, .crier, .flt, .activity] [.fltCount2, .escCfg, .pipeIn,
      .mktStatus, .poolFree, .mktCount3, .mktCount4, .mktCount5, .mktCount6, .partUsed, .qcfgPitch, .qcfgOcc, .pfcState, .ingUsed,
      .hdrmUsed, .stagingFree, .splCount, .stackStatus, .qspillStatus, .talCount, .pmcCount] s t)
  ∧ (∀ (frame : Nat) (octets : List Byte) (verdict : TailVerdict) (s : State), Completes (.frameTailArrival frame octets verdict) s
      fun t => Frame [.freeCtr, .journal, .owed, .lastRaise, .pipes, .market, .spill, .sched, .telem, .crier, .flt, .activity]
      [.fltRec, .fltFirst, .fltCount0, .fltCount1, .fltCount2, .escCfg, .mktStatus, .poolFree, .mktCount0, .mktCount3, .mktCount4,
      .mktCount5, .mktCount6, .partUsed, .qcfgPitch, .qcfgOcc, .pfcState, .ingUsed, .hdrmUsed, .stagingFree, .splCount, .stackStatus,
      .qspillStatus, .talCount, .pmcCount] s t)
  ∧ (∀ (g : Nat) (s : State), Completes (.parseEntry g) s fun t => Frame [.freeCtr, .owed, .lastRaise, .pipes, .market, .spill,
      .sched, .telem, .crier, .flt, .activity] [.fltCount2, .escCfg, .mktStatus, .poolFree, .mktCount3, .mktCount4, .mktCount5,
      .mktCount6, .partUsed, .qcfgPitch, .qcfgOcc, .pfcState, .ingUsed, .hdrmUsed, .stagingFree, .splCount, .stackStatus,
      .qspillStatus, .talCount, .pmcCount] s t)
  ∧ (∀ (g : Nat) (s : State), Completes (.parseExit g) s fun t => Frame [.freeCtr, .owed, .lastRaise, .pipes, .market, .spill, .sched,
      .telem, .crier, .flt, .activity] [.fltCount2, .escCfg, .parCtrl, .parCaptureTs, .parCapture, .parErrCount, .mktStatus,
      .poolFree, .mktCount3, .mktCount4, .mktCount5, .mktCount6, .partUsed, .qcfgPitch, .qcfgOcc, .pfcState, .ingUsed, .hdrmUsed,
      .stagingFree, .splCount, .stackStatus, .qspillStatus, .talCount, .pmcCount] s t)
  ∧ (∀ (g : Nat) (s : State), Completes (.parCaptureArm g) s fun t => Frame [.top] [.parCtrl, .parCapture] s t)
  ∧ (∀ (g : Nat) (space : Nat) (bank : Nat) (offset : Nat) (err : WordErr) (s : State), Completes (.parseWordRepair g space bank
      offset err) s fun t => Frame [.freeCtr, .journal, .owed, .pipes, .crier, .flt] [.fltRec, .fltFirst, .fltCount0, .fltCount1,
      .fltCount2, .escCfg, .parEcc] s t)
  ∧ (∀ (g : Nat) (s : State), Completes (.recircEntry g) s fun t => Frame [.freeCtr, .journal, .owed, .lastRaise, .hif, .pipes,
      .market, .spill, .sched, .telem, .crier, .flt, .activity] [.orphanCtrl, .orphanLog, .fltRec, .fltFirst, .fltCount0, .fltCount1,
      .fltCount2, .escCfg, .mktStatus, .poolFree, .mktCount0, .mktCount3, .mktCount4, .mktCount5, .mktCount6, .partUsed, .qcfgPitch,
      .qcfgOcc, .pfcState, .ingUsed, .hdrmUsed, .stagingFree, .splCount, .stackStatus, .qspillStatus, .talCount, .pmcCount] s t)
  ∧ (∀ (stall : Nat) (s : State), Completes (.stallAdmit stall) s fun t => Frame [.owed, .pipes, .crier, .flt, .activity] [.fltCount2,
      .escCfg, .pmcCount] s t)
  ∧ (∀ (stall : Nat) (ctx : Nat) (parityBad : Bool) (backingBad : Bool) (constErr : Option (Nat × Bool)) (s : State), Completes
      (.stallWordIssue stall ctx parityBad backingBad constErr) s fun t => Frame [.freeCtr, .journal, .owed, .pipes, .tables, .telem,
      .crier, .flt, .activity] [.fltRec, .fltFirst, .fltCount0, .fltCount1, .fltCount2, .escCfg, .faultCount, .stallEcc, .stateCtrl,
      .pmcCount] s t)
  ∧ (∀ (stall : Nat) (ctx : Nat) (s : State), Completes (.waitTimeout stall ctx) s fun t => Frame [.freeCtr, .journal, .owed, .pipes,
      .crier, .flt] [.fltRec, .fltFirst, .fltCount0, .fltCount1, .fltCount2, .escCfg, .faultCount, .stateCtrl] s t)
  ∧ (∀ (stall : Nat) (ctx : Nat) (slot : Nat) (err : Option (Nat × Bool)) (s : State), Completes (.lookupResult stall ctx slot err) s
      fun t => Frame [.freeCtr, .journal, .owed, .lastRaise, .pipes, .tables, .clerk, .crier, .flt, .activity] [.fltRec, .fltFirst,
      .fltCount0, .fltCount1, .fltCount2, .escCfg, .lkpFaults, .hallEcc, .clerkCount, .desc, .pmcCount] s t)
  ∧ (∀ (stall : Nat) (ctx : Nat) (port : Nat) (s : State), Completes (.statefulLockGrant stall ctx port) s fun t => Frame [.pipes]
      [.stateCtrl] s t)
  ∧ (∀ (stall : Nat) (ctx : Nat) (port : Nat) (s : State), Completes (.statefulReadData stall ctx port) s fun t => Frame [.pipes] [] s
      t)
  ∧ (∀ (stall : Nat) (ctx : Nat) (s : State), Completes (.meterColour stall ctx) s fun t => Frame [.pipes] [.stateCtrl] s t)
  ∧ (∀ (stall : Nat) (s : State), Completes (.parityReloadDone stall) s fun t => Frame [.freeCtr, .journal, .owed, .pipes, .crier,
      .flt] [.fltRec, .fltFirst, .fltCount0, .fltCount1, .fltCount2, .escCfg, .faultCount, .stallEcc, .stateCtrl] s t)
  ∧ (∀ (stall : Nat) (s : State), Completes (.stallDepart stall) s fun t => Frame [.pipes] [.stateCtrl] s t)
  ∧ (∀ (stall : Nat) (value : Word) (s : State), Completes (.stateRead stall value) s fun t => Frame [.top] [.stateCtrl, .stateData] s
      t)
  ∧ (∀ (stall : Nat) (value : Word) (s : State), Completes (.stateWrite stall value) s fun t => Frame [.top, .pipes] [.stateCtrl] s t)
  ∧ (∀ (stall : Nat) (value : Word) (s : State), Completes (.meterRead stall value) s fun t => Frame [.top] [.meterCtrl, .meterData] s
      t)
  ∧ (∀ (stall : Nat) (value : Word) (s : State), Completes (.meterWrite stall value) s fun t => Frame [.top, .pipes] [.meterCtrl] s t)
  ∧ (∀ (p : Nat) (s : State), Completes (.pipeQuiesce p) s fun t => Frame [.top] [.pipeCtrl] s t)
  ∧ (∀ (p : Nat) (s : State), Completes (.quiesced p) s fun t => Frame [.owed, .crier, .flt] [.fltCount2, .escCfg, .pipeStatus] s t)
  ∧ (∀ (stall : Nat) (halt : Bool) (s : State), Completes (.stallHalt stall halt) s fun t => Frame [.freeCtr, .journal, .owed, .top,
      .pipes, .tables, .telem, .crier, .flt, .activity] [.fltRec, .fltFirst, .fltCount0, .fltCount1, .fltCount2, .escCfg, .faultCount,
      .stallCtrl, .stallEcc, .stateCtrl, .pmcCount] s t)
  ∧ (∀ (stall : Nat) (parityBad : Bool) (backingBad : Bool) (constErr : Option (Nat × Bool)) (s : State), Completes (.stallStep stall
      parityBad backingBad constErr) s fun t => Frame [.freeCtr, .journal, .owed, .top, .pipes, .tables, .telem, .crier, .flt,
      .activity] [.fltRec, .fltFirst, .fltCount0, .fltCount1, .fltCount2, .escCfg, .faultCount, .stallCtrl, .stallEcc, .stateCtrl,
      .pmcCount] s t)

/-- Frames of tail, scheduler, editor, MAC and flow-control commands: whatever the state and the operands, the command answers a
next state in which only the named parts of the state, and of the registers only the named ones, may differ. -/
def Obligations.EgressFrames : Prop :=
  (∀ (g : Nat) (s : State), Completes (.ingressTail g) s fun t => Frame [.freeCtr, .journal, .owed, .lastRaise, .pipes, .tables,
      .clerk, .market, .spill, .sched, .telem, .crier, .flt, .activity] [.fltRec, .fltFirst, .fltCount0, .fltCount1, .fltCount2,
      .escCfg, .pipeOut, .tailFaults, .mktStatus, .poolFree, .mktCount0, .mktCount3, .mktCount4, .mktCount5, .mktCount6, .partUsed,
      .qcfgPitch, .qcfgOcc, .pfcState, .ingUsed, .hdrmUsed, .stagingFree, .splCount, .stackStatus, .qspillStatus, .desc, .talCount,
      .pmcCount] s t)
  ∧ (∀ (g : Nat) (err : Option DataErr) (s : State), Completes (.dequeueDecision g err) s fun t => Frame [.freeCtr, .journal, .owed,
      .lastRaise, .pipes, .market, .spill, .sched, .telem, .crier, .flt, .activity] [.fltRec, .fltFirst, .fltCount0, .fltCount1,
      .fltCount2, .escCfg, .mktStatus, .poolFree, .mktCount0, .mktCount3, .mktCount4, .mktCount5, .mktCount6, .mktCount7, .partUsed,
      .qcfgPitch, .qcfgOcc, .pfcState, .ingUsed, .hdrmUsed, .bankStatus, .bankEcc, .stagingFree, .splCount, .stackStatus,
      .qspillStatus, .winErr, .winDrops, .talCount, .pmcCount] s t)
  ∧ (∀ (g : Nat) (s : State), Completes (.egressTail g) s fun t => Frame [.freeCtr, .journal, .owed, .lastRaise, .pipes, .market,
      .spill, .sched, .telem, .crier, .flt, .activity] [.fltRec, .fltFirst, .fltCount0, .fltCount1, .fltCount2, .escCfg, .tailFaults,
      .mktStatus, .poolFree, .mktCount0, .mktCount3, .mktCount4, .mktCount5, .mktCount6, .partUsed, .qcfgPitch, .qcfgOcc, .pfcState,
      .ingUsed, .hdrmUsed, .stagingFree, .splCount, .stackStatus, .qspillStatus, .talCount, .pmcCount] s t)
  ∧ (∀ (g : Nat) (s : State), Completes (.editor g) s fun t => Frame [.freeCtr, .journal, .owed, .lastRaise, .pipes, .market, .spill,
      .sched, .telem, .crier, .flt, .activity] [.fltRec, .fltFirst, .fltCount0, .fltCount1, .fltCount2, .escCfg, .editFaults,
      .mktStatus, .poolFree, .mktCount0, .mktCount3, .mktCount4, .mktCount5, .mktCount6, .partUsed, .qcfgPitch, .qcfgOcc, .pfcState,
      .ingUsed, .hdrmUsed, .stagingFree, .splCount, .stackStatus, .qspillStatus, .talCount, .pmcCount] s t)
  ∧ (∀ (port : Nat) (pcs : Stamp) (begun : Bool) (err : Option DataErr) (s : State), Completes (.copyDeparture port pcs begun err) s
      fun t => Frame [.freeCtr, .journal, .owed, .lastRaise, .hif, .ports, .pipes, .market, .spill, .sched, .telem, .crier, .flt,
      .activity, .out] [.fltRec, .fltFirst, .fltCount0, .fltCount1, .fltCount2, .escCfg, .tsMissed, .editFaults, .mktStatus,
      .poolFree, .mktCount0, .mktCount3, .mktCount4, .mktCount5, .mktCount6, .mktCount7, .partUsed, .qcfgPitch, .qcfgOcc, .pfcState,
      .ingUsed, .hdrmUsed, .bankStatus, .bankEcc, .stagingFree, .splCount, .stackStatus, .qspillStatus, .winLate, .winOver, .talCount,
      .pmcCount] s t)
  ∧ (∀ (port : Nat) (enable : BitVec 8) (times : List Nat) (isPause : Bool) (s : State), Completes (.pfcFrameReceived port enable
      times isPause) s fun t => Frame [.sched] [.pfcRx] s t)
  ∧ (∀ (port : Nat) (prio : Nat) (s : State), Completes (.pfcPauseExpiry port prio) s fun t => Frame [.sched] [] s t)
  ∧ (∀ (port : Nat) (s : State), Completes (.pfcFrameSend port) s fun t => Frame [.sched, .out] [.pfcTx] s t)
  ∧ (∀ (port : Nat) (prio : Nat) (s : State), Completes (.pfcRefresh port prio) s fun t => Frame [.out] [.pfcTx] s t)
  ∧ (∀ (port : Nat) (prio : Nat) (s : State), Completes (.pfcWatchdogTrip port prio) s fun t => Frame [.freeCtr, .journal, .owed,
      .lastRaise, .market, .spill, .sched, .telem, .crier, .flt, .activity] [.fltRec, .fltFirst, .fltCount0, .fltCount1, .fltCount2,
      .escCfg, .mktStatus, .poolFree, .mktCount0, .mktCount3, .mktCount4, .mktCount5, .mktCount6, .partUsed, .qcfgPitch, .qcfgOcc,
      .pfcState, .ingUsed, .hdrmUsed, .stagingFree, .splCount, .stackStatus, .qspillStatus, .pfcTrips, .talCount, .pmcCount] s t)
  ∧ (∀ (port : Nat) (prio : Nat) (s : State), Completes (.pfcWatchdogHoldEnd port prio) s fun t => Frame [.owed, .sched, .crier, .flt]
      [.fltCount2, .escCfg] s t)
  ∧ (∀ (s : State), Completes .refillBoundary s fun t => Frame [.pipes, .sched] [.meterCtrl] s t)
  ∧ (∀ (lane : Nat) (value : Word) (s : State), Completes (.portQWrite lane value) s fun t => Frame [.owed, .top, .crier, .flt]
      [.fltCount2, .escCfg, .schErr, .portQ] s t)

/-- Frames of Market, host-buffer and spill commands: whatever the state and the operands, the command answers a next state in
which only the named parts of the state, and of the registers only the named ones, may differ. -/
def Obligations.BufferFrames : Prop :=
  (∀ (value : Word) (s : State), Completes (.carveWrite value) s fun t => Frame [.owed, .top, .crier, .flt] [.fltCount2, .escCfg,
      .carve, .mktErr, .poolFree] s t)
  ∧ (∀ (hdrm : Bool) (value : Word) (s : State), Completes (.reserveWrite hdrm value) s fun t => Frame [.owed, .top, .crier, .flt]
      [.fltCount2, .escCfg, .mktErr, .drainReserve, .hdrmReserve] s t)
  ∧ (∀ (bank : Nat) (value : Word) (s : State), Completes (.bankRetire bank value) s fun t => Frame [.freeCtr, .journal, .owed,
      .lastRaise, .top, .pipes, .market, .spill, .sched, .telem, .crier, .flt, .activity] [.fltRec, .fltFirst, .fltCount0, .fltCount1,
      .fltCount2, .escCfg, .mktStatus, .poolFree, .mktCount0, .mktCount3, .mktCount4, .mktCount5, .mktCount6, .partUsed, .qcfgPitch,
      .qcfgOcc, .pfcState, .ingUsed, .hdrmUsed, .bankStatus, .stagingFree, .splCount, .stackStatus, .qspillStatus, .talCount,
      .pmcCount] s t)
  ∧ (∀ (s : State), Completes .auditSweep s fun t => Frame [.market] [.auditStatus] s t)
  ∧ (∀ (s : State), Completes .auditSweepEnd s fun t => Frame [.journal, .owed, .market, .crier, .flt, .activity] [.fltRec, .fltFirst,
      .fltCount0, .fltCount1, .fltCount2, .escCfg, .mktStatus, .poolFree, .auditStatus, .auditLast, .mktCount1, .mktCount2, .pmcCount]
      s t)
  ∧ (∀ (cmd : HostCmd) (s : State), Completes (.bufAlloc cmd) s fun t => Frame [.freeCtr, .owed, .hif, .market, .crier, .flt,
      .activity] [.orphanCtrl, .orphanLog, .fltCount2, .escCfg, .mktStatus, .poolFree, .mktCount3, .partUsed, .pmcCount] s t)
  ∧ (∀ (cmd : HostCmd) (s : State), Completes (.bufFree cmd) s fun t => Frame [.journal, .owed, .hif, .market, .crier, .flt,
      .activity] [.orphanCtrl, .orphanLog, .fltRec, .fltFirst, .fltCount0, .fltCount1, .fltCount2, .escCfg, .mktStatus, .poolFree,
      .mktCount0, .partUsed, .pmcCount] s t)
  ∧ (∀ (cmd : HostCmd) (s : State), Completes (.bufSendIngress cmd) s fun t => Frame [.freeCtr, .journal, .owed, .lastRaise, .hif,
      .pipes, .market, .spill, .sched, .telem, .crier, .flt, .activity] [.orphanCtrl, .orphanLog, .fltRec, .fltFirst, .fltCount0,
      .fltCount1, .fltCount2, .escCfg, .mktStatus, .poolFree, .mktCount0, .mktCount3, .mktCount4, .mktCount5, .mktCount6, .partUsed,
      .qcfgPitch, .qcfgOcc, .pfcState, .ingUsed, .hdrmUsed, .stagingFree, .splCount, .stackStatus, .qspillStatus, .talCount,
      .pmcCount] s t)
  ∧ (∀ (cmd : HostCmd) (s : State), Completes (.bufSendEgress cmd) s fun t => Frame [.freeCtr, .journal, .owed, .lastRaise, .hif,
      .pipes, .market, .spill, .sched, .telem, .crier, .flt, .activity] [.orphanCtrl, .orphanLog, .fltRec, .fltFirst, .fltCount0,
      .fltCount1, .fltCount2, .escCfg, .mktStatus, .poolFree, .mktCount0, .mktCount3, .mktCount4, .mktCount5, .mktCount6, .partUsed,
      .qcfgPitch, .qcfgOcc, .pfcState, .ingUsed, .hdrmUsed, .stagingFree, .splCount, .stackStatus, .qspillStatus, .talCount,
      .pmcCount] s t)
  ∧ (∀ (queue : Nat) (s : State), Completes (.pageFlushTimer queue) s fun t => Frame [.spill] [] s t)
  ∧ (∀ (queue : Nat) (s : State), Completes (.pageWriteStart queue) s fun t => Frame [.spill] [.stackStatus] s t)
  ∧ (∀ (stack : Nat) (tag : Nat) (failedCh : List Nat) (s : State), Completes (.pageWriteCommit stack tag failedCh) s fun t => Frame
      [.freeCtr, .owed, .lastRaise, .market, .spill, .sched, .telem, .crier, .flt, .activity] [.bringup, .fltCount2, .escCfg,
      .mktStatus, .poolFree, .mktCount3, .mktCount4, .mktCount5, .mktCount6, .partUsed, .qcfgPitch, .qcfgOcc, .pfcState, .ingUsed,
      .hdrmUsed, .stagingFree, .splCount, .stackStatus, .retiredCh, .chEcc, .qspillStatus, .talCount, .pmcCount] s t)
  ∧ (∀ (queue : Nat) (s : State), Completes (.pageReadStart queue) s fun t => Frame [.freeCtr, .owed, .lastRaise, .pipes, .market,
      .spill, .sched, .telem, .crier, .flt, .activity] [.fltCount2, .escCfg, .mktStatus, .poolFree, .mktCount3, .mktCount4,
      .mktCount5, .mktCount6, .partUsed, .qcfgPitch, .qcfgOcc, .pfcState, .ingUsed, .hdrmUsed, .stagingFree, .splCount, .stackStatus,
      .qspillStatus, .talCount, .pmcCount] s t)
  ∧ (∀ (stack : Nat) (tag : Nat) (corrCh : List Nat) (badCh : List Nat) (s : State), Completes (.pageReadCommit stack tag corrCh
      badCh) s fun t => Frame [.freeCtr, .journal, .owed, .lastRaise, .pipes, .market, .spill, .sched, .telem, .crier, .flt,
      .activity] [.bringup, .fltRec, .fltFirst, .fltCount0, .fltCount1, .fltCount2, .escCfg, .mktStatus, .poolFree, .mktCount3,
      .mktCount4, .mktCount5, .mktCount6, .partUsed, .qcfgPitch, .qcfgOcc, .pfcState, .ingUsed, .hdrmUsed, .stagingFree, .splCount,
      .stackStatus, .retiredCh, .chEcc, .qspillStatus, .talCount, .pmcCount] s t)
  ∧ (∀ (stack : Nat) (value : Word) (s : State), Completes (.chRetire stack value) s fun t => Frame [.freeCtr, .owed, .lastRaise,
      .top, .market, .spill, .sched, .telem, .crier, .flt, .activity] [.bringup, .fltCount2, .escCfg, .mktStatus, .poolFree,
      .mktCount3, .mktCount4, .mktCount5, .mktCount6, .partUsed, .qcfgPitch, .qcfgOcc, .pfcState, .ingUsed, .hdrmUsed, .stagingFree,
      .splCount, .stackStatus, .retiredCh, .qspillStatus, .talCount, .pmcCount] s t)
  ∧ (∀ (stack : Nat) (s : State), Completes (.stackLost stack) s fun t => Frame [.freeCtr, .owed, .lastRaise, .market, .spill, .sched,
      .telem, .crier, .flt, .activity] [.bringup, .fltCount2, .escCfg, .mktStatus, .poolFree, .mktCount3, .mktCount4, .mktCount5,
      .mktCount6, .partUsed, .qcfgPitch, .qcfgOcc, .pfcState, .ingUsed, .hdrmUsed, .stagingFree, .splCount, .stackStatus,
      .qspillStatus, .talCount, .pmcCount] s t)
  ∧ (∀ (stack : Nat) (tag : Nat) (s : State), Completes (.hbmNoResponse stack tag) s fun t => Frame [.freeCtr, .owed, .lastRaise,
      .market, .spill, .sched, .telem, .crier, .flt, .activity] [.bringup, .fltCount2, .escCfg, .mktStatus, .poolFree, .mktCount3,
      .mktCount4, .mktCount5, .mktCount6, .partUsed, .qcfgPitch, .qcfgOcc, .pfcState, .ingUsed, .hdrmUsed, .stagingFree, .splCount,
      .stackStatus, .qspillStatus, .talCount, .pmcCount] s t)
  ∧ (∀ (stack : Nat) (ch : Nat) (temp : Nat) (s : State), Completes (.hbmRefresh stack ch temp) s fun t => Frame [.spill] [.phyStatus]
      s t)
  ∧ (∀ (stack : Nat) (page : Nat) (ch : Nat) (corr : Bool) (uncorr : Bool) (s : State), Completes (.patrolScrub stack page ch corr
      uncorr) s fun t => Frame [.freeCtr, .journal, .owed, .lastRaise, .market, .spill, .sched, .telem, .crier, .flt, .activity]
      [.bringup, .fltRec, .fltFirst, .fltCount0, .fltCount1, .fltCount2, .escCfg, .mktStatus, .poolFree, .mktCount3, .mktCount4,
      .mktCount5, .mktCount6, .partUsed, .qcfgPitch, .qcfgOcc, .pfcState, .ingUsed, .hdrmUsed, .stagingFree, .splCount, .stackStatus,
      .retiredCh, .chEcc, .qspillStatus, .talCount, .pmcCount] s t)
  ∧ (∀ (stack : Nat) (value : Word) (s : State), Completes (.diagCellRead stack value) s fun t => Frame [.owed, .top, .crier, .flt,
      .activity] [.fltCount2, .escCfg, .splErr, .diagCtrl, .diagData, .pmcCount] s t)
  ∧ (∀ (stack : Nat) (value : Word) (s : State), Completes (.diagCellWrite stack value) s fun t => Frame [.owed, .top, .spill, .crier,
      .flt, .activity] [.fltCount2, .escCfg, .splErr, .diagCtrl, .pmcCount] s t)
  ∧ (∀ (queue : Nat) (s : State), Completes (.watchdogPageFree queue) s fun t => Frame [.freeCtr, .owed, .lastRaise, .market, .spill,
      .sched, .telem, .crier, .flt, .activity] [.fltCount2, .escCfg, .mktStatus, .poolFree, .mktCount3, .mktCount4, .mktCount5,
      .mktCount6, .partUsed, .qcfgPitch, .qcfgOcc, .pfcState, .ingUsed, .hdrmUsed, .stagingFree, .splCount, .stackStatus,
      .qspillStatus, .talCount, .pmcCount] s t)

/-- Frames of table, Clerk and raw-row commands: whatever the state and the operands, the command answers a next state in which
only the named parts of the state, and of the registers only the named ones, may differ. (CLERK_OP_IN_FORCE is stated where no
access waits at the Clerk; those that wait then act.) -/
def Obligations.TableFrames : Prop :=
  (∀ (cmd : HostCmd) (s : State), Completes (.tblSearch cmd) s fun t => Frame [.freeCtr, .owed, .lastRaise, .hif, .prg, .tables,
      .clerk, .crier, .flt, .activity, .out] [.fltCount2, .escCfg, .clkErr, .flapLast, .flapTable, .clerkCount, .desc, .hashCfg,
      .pmcCount] s t)
  ∧ (∀ (cmd : HostCmd) (s : State), Completes (.tblNext cmd) s fun t => Frame [.freeCtr, .owed, .lastRaise, .hif, .prg, .tables,
      .clerk, .crier, .flt, .activity, .out] [.fltCount2, .escCfg, .clkErr, .flapLast, .flapTable, .clerkCount, .desc, .hashCfg,
      .pmcCount] s t)
  ∧ (∀ (cmd : HostCmd) (s : State), Completes (.tblInsert cmd) s fun t => Frame [.freeCtr, .owed, .lastRaise, .hif, .prg, .tables,
      .clerk, .crier, .flt, .activity, .out] [.fltCount2, .escCfg, .clkErr, .flapLast, .flapTable, .clerkCount, .desc, .hashCfg,
      .pmcCount] s t)
  ∧ (∀ (cmd : HostCmd) (s : State), Completes (.tblUpdate cmd) s fun t => Frame [.freeCtr, .owed, .lastRaise, .hif, .prg, .tables,
      .clerk, .crier, .flt, .activity, .out] [.fltCount2, .escCfg, .clkErr, .flapLast, .flapTable, .clerkCount, .desc, .hashCfg,
      .pmcCount] s t)
  ∧ (∀ (cmd : HostCmd) (s : State), Completes (.tblDelete cmd) s fun t => Frame [.freeCtr, .owed, .lastRaise, .hif, .prg, .tables,
      .clerk, .crier, .flt, .activity, .out] [.fltCount2, .escCfg, .clkErr, .flapLast, .flapTable, .clerkCount, .desc, .hashCfg,
      .pmcCount] s t)
  ∧ (∀ (cmd : HostCmd) (s : State), Completes (.tblFlushPort cmd) s fun t => Frame [.freeCtr, .owed, .lastRaise, .hif, .prg, .tables,
      .clerk, .crier, .flt, .activity, .out] [.fltCount2, .escCfg, .clkErr, .flapLast, .flapTable, .clerkCount, .desc, .hashCfg,
      .pmcCount] s t)
  ∧ (∀ (cmd : HostCmd) (s : State), Completes (.tblRead cmd) s fun t => Frame [.freeCtr, .owed, .lastRaise, .hif, .prg, .tables,
      .clerk, .crier, .flt, .activity, .out] [.fltCount2, .escCfg, .clkErr, .flapLast, .flapTable, .clerkCount, .desc, .hashCfg,
      .pmcCount] s t)
  ∧ (∀ (t : Nat) (word : Nat) (value : Word) (s : State), Completes (.descWrite t word value) s fun t => Frame [.freeCtr, .owed,
      .lastRaise, .top, .prg, .tables, .clerk, .crier, .flt, .activity, .out] [.fltCount2, .escCfg, .clkErr, .flapLast, .flapTable,
      .clerkCount, .desc, .hashCfg, .pmcCount] s t)
  ∧ (∀ (k : Nat) (value : Word) (s : State), Completes (.hashCfgWrite k value) s fun t => Frame [.freeCtr, .owed, .lastRaise, .top,
      .prg, .tables, .clerk, .crier, .flt, .activity, .out] [.fltCount2, .escCfg, .clkErr, .flapLast, .flapTable, .clerkCount, .desc,
      .hashCfg, .pmcCount] s t)
  ∧ (∀ (s : State), Completes .clerkIssue s fun t => Frame [.freeCtr, .owed, .lastRaise, .prg, .tables, .clerk, .crier, .flt,
      .activity, .out] [.fltCount2, .escCfg, .clkErr, .flapLast, .flapTable, .clerkCount, .desc, .hashCfg, .pmcCount] s t)
  ∧ (∀ (s : State), (∀ h ∈ s.top.held, islandAt h.addr ≠ 112) → Completes .clerkOpInForce s fun t => Frame [.owed, .hif, .tables,
      .clerk, .crier, .flt] [.orphanCtrl, .orphanLog, .fltCount2, .escCfg, .clerkCount, .desc] s t)
  ∧ (∀ (s : State), Completes .learnInstall s fun t => Frame [.freeCtr, .owed, .lastRaise, .prg, .tables, .clerk, .crier, .flt,
      .activity, .out] [.fltCount2, .escCfg, .clkErr, .flapLast, .flapTable, .clerkCount, .desc, .hashCfg, .pmcCount] s t)
  ∧ (∀ (table : Nat) (handle : Nat) (s : State), Completes (.flapHoldEnd table handle) s fun t => Frame [.tables] [.desc] s t)
  ∧ (∀ (table : Nat) (handle : Nat) (s : State), Completes (.ageVisit table handle) s fun t => Frame [.freeCtr, .owed, .lastRaise,
      .prg, .tables, .clerk, .crier, .flt, .activity, .out] [.fltCount2, .escCfg, .clkErr, .flapLast, .flapTable, .clerkCount, .desc,
      .hashCfg, .pmcCount] s t)
  ∧ (∀ (table : Nat) (handle : Nat) (s : State), Completes (.ageRemove table handle) s fun t => Frame [.freeCtr, .owed, .lastRaise,
      .prg, .tables, .clerk, .crier, .flt, .activity, .out] [.fltCount2, .escCfg, .clkErr, .flapLast, .flapTable, .clerkCount, .desc,
      .hashCfg, .pmcCount] s t)
  ∧ (∀ (table : Nat) (handle : Nat) (s : State), Completes (.ageRestore table handle) s fun t => Frame [.freeCtr, .owed, .lastRaise,
      .prg, .tables, .clerk, .crier, .flt, .activity, .out] [.fltCount2, .escCfg, .clkErr, .flapLast, .flapTable, .clerkCount, .desc,
      .hashCfg, .pmcCount] s t)
  ∧ (∀ (hall : Nat) (row : Nat) (entries : List (Nat × Nat)) (allBad : Bool) (s : State), Completes (.replicaRepair hall row entries
      allBad) s fun t => Frame [.journal, .owed, .tables, .clerk, .crier, .flt, .activity] [.fltRec, .fltFirst, .fltCount0,
      .fltCount1, .fltCount2, .escCfg, .clerkCount, .desc, .pmcCount] s t)
  ∧ (∀ (hall : Nat) (row : Nat) (corr : Bool) (uncorr : Bool) (s : State), Completes (.tableScrub hall row corr uncorr) s fun t =>
      Frame [.journal, .owed, .clerk, .crier, .flt] [.fltRec, .fltFirst, .fltCount0, .fltCount1, .fltCount2, .escCfg, .hallEcc] s t)
  ∧ (∀ (hall : Nat) (value : Word) (s : State), Completes (.rawRowRead hall value) s fun t => Frame [.freeCtr, .top] [.rawCtrl,
      .rawData] s t)
  ∧ (∀ (hall : Nat) (value : Word) (s : State), Completes (.rawRowWrite hall value) s fun t => Frame [.top, .tables] [.rawCtrl] s t)

/-- Frames of clock, capture, pulse and slot-table commands: whatever the state and the operands, the command answers a next state
in which only the named parts of the state, and of the registers only the named ones, may differ. -/
def Obligations.TimeFrames : Prop :=
  (∀ (cmd : HostCmd) (s : State), Completes (.timeSetSet cmd) s fun t => Frame [.clock, .owed, .hif, .prg, .sched, .slots, .pulses,
      .telem, .crier, .flt, .out] [.orphanCtrl, .orphanLog, .fltCount2, .escCfg, .slewLeft, .outStatus, .domCtrl, .domT,
      .winSlotStatus, .winErr] s t)
  ∧ (∀ (cmd : HostCmd) (s : State), Completes (.timeSetStep cmd) s fun t => Frame [.clock, .owed, .hif, .prg, .sched, .slots, .pulses,
      .telem, .crier, .flt, .out] [.orphanCtrl, .orphanLog, .fltCount2, .escCfg, .slewLeft, .outStatus, .domCtrl, .domT,
      .winSlotStatus, .winErr] s t)
  ∧ (∀ (cmd : HostCmd) (s : State), Completes (.timeSetSlew cmd) s fun t => Frame [.clock, .owed, .hif, .prg, .sched, .slots, .pulses,
      .telem, .crier, .flt, .out] [.orphanCtrl, .orphanLog, .fltCount2, .escCfg, .slewLeft, .outStatus, .domCtrl, .domT,
      .winSlotStatus, .winErr] s t)
  ∧ (∀ (s : State), Completes .slewComplete s fun t => Frame [.clock, .owed, .crier, .flt] [.fltCount2, .escCfg, .slewLeft] s t)
  ∧ (∀ (s : State), Completes .scheduledEventFire s fun t => Frame [.owed, .hif, .prg, .slots, .pulses, .telem, .crier, .flt, .out]
      [.orphanCtrl, .orphanLog, .fltCount2, .escCfg, .outStatus, .domCtrl, .domT, .winSlotStatus, .winErr] s t)
  ∧ (∀ (rq : Requester) (s : State), Completes (.nowNsRead rq) s fun t => Frame [.hif, .out] [] s t)
  ∧ (∀ (value : Word) (s : State), Completes (.freqWrite value) s fun t => Frame [.top] [.timFreq] s t)
  ∧ (∀ (value : Word) (s : State), Completes (.refSelWrite value) s fun t => Frame [.owed, .top, .crier, .flt] [.bringup, .fltCount2,
      .escCfg, .timRef] s t)
  ∧ (∀ (s : State), Completes .referenceLost s fun t => Frame [.owed, .crier, .flt] [.bringup, .fltCount2, .escCfg, .timRef] s t)
  ∧ (∀ (s : State), Completes .timeLock s fun t => Frame [.owed, .crier, .flt] [.bringup, .fltCount2, .escCfg, .timRef] s t)
  ∧ (∀ (set : Nat) (falling : Bool) (s : State), Completes (.captureEdge set falling) s fun t => Frame [.owed, .crier, .flt]
      [.fltCount2, .escCfg, .capStatus, .capNs, .capFrac, .capSec] s t)
  ∧ (∀ (n : Nat) (value : Word) (s : State), Completes (.pulseArm n value) s fun t => Frame [.owed, .top, .pulses, .crier, .flt]
      [.fltCount2, .escCfg, .outCfg, .outStatus] s t)
  ∧ (∀ (n : Nat) (value : Word) (s : State), Completes (.pulseStop n value) s fun t => Frame [.top, .pulses] [.outCfg] s t)
  ∧ (∀ (n : Nat) (s : State), Completes (.pulseEdge n) s fun t => Frame [.pulses, .out] [.outStatus] s t)
  ∧ (∀ (cmd : HostCmd) (s : State), Completes (.slotStageWrite cmd) s fun t => Frame [.owed, .hif, .slots, .crier, .flt] [.orphanCtrl,
      .orphanLog, .fltCount2, .escCfg] s t)
  ∧ (∀ (cmd : HostCmd) (s : State), Completes (.slotStageArm cmd) s fun t => Frame [.owed, .hif, .slots, .crier, .flt] [.orphanCtrl,
      .orphanLog, .fltCount2, .escCfg, .winSlotStatus, .winErr, .winT] s t)
  ∧ (∀ (cmd : HostCmd) (s : State), Completes (.slotStageCancel cmd) s fun t => Frame [.owed, .hif, .slots, .crier, .flt]
      [.orphanCtrl, .orphanLog, .fltCount2, .escCfg, .winSlotStatus] s t)
  ∧ (∀ (cmd : HostCmd) (s : State), Completes (.slotStageRead cmd) s fun t => Frame [.owed, .hif, .crier, .flt, .out] [.orphanCtrl,
      .orphanLog, .fltCount2, .escCfg] s t)
  ∧ (∀ (lane : Nat) (s : State), Completes (.slotSwitch lane) s fun t => Frame [.owed, .slots, .crier, .flt] [.fltCount2, .escCfg,
      .winSlotStatus, .winErr] s t)
  ∧ (∀ (lane : Nat) (s : State), Completes (.slotEntryBoundary lane) s fun t => Frame [] [.winSlotStatus] s t)
  ∧ (∀ (lane : Nat) (s : State), Completes (.protectedSpanStart lane) s fun t => Frame [] [.winSlotStatus] s t)
  ∧ (∀ (lane : Nat) (s : State), Completes (.protectedSpanEnd lane) s fun t => Frame [.owed, .hif, .ainum, .crier, .flt, .scales]
      [.fltCount2, .escCfg, .sclStatus, .pipeClk, .winSlotStatus] s t)

/-- Frames of Ainum, token, export and Ledger commands: whatever the state and the operands, the command answers a next state in
which only the named parts of the state, and of the registers only the named ones, may differ. -/
def Obligations.AinumAndTelemetryFrames : Prop :=
  (∀ (port : Nat) (idle : Nat) (pcs : Stamp) (s : State), Completes (.ainumSend port idle pcs) s fun t => Frame [.owed, .lastRaise,
      .ports, .ainum, .crier, .flt, .out] [.fltCount2, .escCfg, .portLatency, .tokenCtrl, .ainCount, .secCount] s t)
  ∧ (∀ (port : Nat) (s : State), Completes (.helloTimer port) s fun t => Frame [.freeCtr, .ainum, .sec] [] s t)
  ∧ (∀ (port : Nat) (msg : AinMsg) (s : State), Completes (.hello port msg) s fun t => Frame [.journal, .owed, .lastRaise, .ports,
      .ainum, .crier, .flt, .out] [.bringup, .fltCount2, .escCfg, .ainCount, .peerStatus, .peerId, .secCount, .portsUp, .evtLanes,
      .portState] s t)
  ∧ (∀ (port : Nat) (msg : AinMsg) (s : State), Completes (.confirm port msg) s fun t => Frame [.journal, .owed, .lastRaise, .ports,
      .ainum, .crier, .flt, .out] [.bringup, .fltCount2, .escCfg, .ainCount, .peerStatus, .secCount, .portsUp, .evtLanes, .portState]
      s t)
  ∧ (∀ (port : Nat) (msg : AinMsg) (s : State), Completes (.stepPropose port msg) s fun t => Frame [.owed, .lastRaise, .ports, .ainum,
      .crier, .flt] [.fltCount2, .escCfg, .ainCount, .peerStatus, .secCount, .portState] s t)
  ∧ (∀ (port : Nat) (msg : AinMsg) (s : State), Completes (.stepAck port msg) s fun t => Frame [.owed, .lastRaise, .ports, .ainum,
      .crier, .flt] [.fltCount2, .escCfg, .portLatency, .ainCount, .peerStatus, .secCount, .portState] s t)
  ∧ (∀ (port : Nat) (s : State), Completes (.timeSyncTimer port) s fun t => Frame [.ainum] [] s t)
  ∧ (∀ (port : Nat) (msg : AinMsg) (t2 : Stamp) (s : State), Completes (.timeSync port msg t2) s fun t => Frame [.owed, .lastRaise,
      .ainum, .crier, .flt] [.fltCount2, .escCfg, .ainCount, .peerStatus, .secCount, .portState] s t)
  ∧ (∀ (port : Nat) (msg : AinMsg) (t4 : Stamp) (s : State), Completes (.timeReply port msg t4) s fun t => Frame [.freeCtr, .owed,
      .lastRaise, .ainum, .crier, .flt] [.fltCount2, .escCfg, .ainCount, .peerStatus, .ainOffset, .ainDelay, .ainTimeStatus, .exTs32,
      .secCount, .portState] s t)
  ∧ (∀ (port : Nat) (msg : AinMsg) (s : State), Completes (.token port msg) s fun t => Frame [.owed, .lastRaise, .prg, .ainum, .crier,
      .flt] [.fltCount2, .escCfg, .tokenLast, .ainCount, .peerStatus, .secCount, .domCtrl, .domT, .portState] s t)
  ∧ (∀ (port : Nat) (msg : AinMsg) (s : State), Completes (.capNotice port msg) s fun t => Frame [.owed, .lastRaise, .ainum, .crier,
      .flt] [.fltCount2, .escCfg, .capLast, .ainCount, .peerStatus, .secCount, .portState] s t)
  ∧ (∀ (port : Nat) (s : State), Completes (.peerTimeout port) s fun t => Frame [.owed, .ainum, .crier, .flt] [.fltCount2, .escCfg,
      .peerStatus, .portState] s t)
  ∧ (∀ (s : State), Completes .tokenGo s fun t => Frame [.owed, .top, .prg, .ainum, .crier, .flt] [.fltCount2, .escCfg, .tokenCtrl,
      .tokenLast, .domCtrl, .domT] s t)
  ∧ (∀ (g : Nat) (slot : Nat) (s : State), Completes (.flowEvictTimer g slot) s fun t => Frame [.owed, .lastRaise, .telem, .crier,
      .flt] [.fltCount2, .escCfg, .talCount] s t)
  ∧ (∀ (s : State), Completes .flowFlush s fun t => Frame [.owed, .lastRaise, .top, .telem, .crier, .flt] [.fltCount2, .escCfg,
      .talCount] s t)
  ∧ (∀ (s : State), Completes .exportRecordForm s fun t => Frame [.telem] [] s t)
  ∧ (∀ (s : State), Completes .exportMessageSend s fun t => Frame [.freeCtr, .owed, .lastRaise, .hif, .pipes, .market, .spill, .sched,
      .telem, .crier, .flt, .activity, .sec] [.orphanCtrl, .orphanLog, .fltCount2, .escCfg, .secCount, .ctx0Status, .ctx0Bits,
      .mktStatus, .poolFree, .mktCount3, .mktCount4, .mktCount5, .mktCount6, .partUsed, .qcfgPitch, .qcfgOcc, .pfcState, .ingUsed,
      .hdrmUsed, .stagingFree, .splCount, .stackStatus, .qspillStatus, .talCount, .pmcCount] s t)
  ∧ (∀ (s : State), Completes .exportFlushTimer s fun t => Frame [.telem] [] s t)
  ∧ (∀ (s : State), Completes .templateSend s fun t => Frame [.freeCtr, .owed, .lastRaise, .pipes, .market, .spill, .sched, .telem,
      .crier, .flt, .activity, .sec] [.fltCount2, .escCfg, .secCount, .ctx0Status, .ctx0Bits, .mktStatus, .poolFree, .mktCount3,
      .mktCount4, .mktCount5, .mktCount6, .partUsed, .qcfgPitch, .qcfgOcc, .pfcState, .ingUsed, .hdrmUsed, .stagingFree, .splCount,
      .stackStatus, .qspillStatus, .talCount, .pmcCount] s t)
  ∧ (∀ (cmd : HostCmd) (s : State), Completes (.ldgRead cmd) s fun t => Frame [.owed, .hif, .crier, .flt, .out] [.orphanCtrl,
      .orphanLog, .fltCount2, .escCfg] s t)
  ∧ (∀ (cmd : HostCmd) (s : State), Completes (.ldgSnapshot cmd) s fun t => Frame [.hif, .telem] [.ldgStatus] s t)
  ∧ (∀ (buffer : Nat) (s : State), Completes (.ldgSnapshotComplete buffer) s fun t => Frame [.owed, .hif, .telem, .crier, .flt]
      [.orphanCtrl, .orphanLog, .fltCount2, .escCfg, .ldgStatus, .ldgT] s t)
  ∧ (∀ (n : Nat) (value : Word) (occurrences : Nat) (s : State), Completes (.pmcCountWrite n value occurrences) s fun t => Frame
      [.owed, .top, .crier, .flt, .activity] [.fltCount2, .escCfg, .pmcCount] s t)

/-- Frames of Crier, fault and escalation commands: whatever the state and the operands, the command answers a next state in which
only the named parts of the state, and of the registers only the named ones, may differ. -/
def Obligations.CrierAndEscalationFrames : Prop :=
  (∀ (value : Word) (s : State), Completes (.sourceForce value) s fun t => Frame [.owed, .top, .crier, .flt] [.fltCount2, .escCfg] s
      t)
  ∧ (∀ (src : Nat) (value : Word) (fw : Bool) (s : State), Completes (.srcCfgWrite src value fw) s fun t => Frame [.owed, .top,
      .crier, .flt] [.srcCfg, .criErr, .fltCount2, .escCfg] s t)
  ∧ (∀ (v : Nat) (s : State), Completes (.vectorTimerExpiry v) s fun t => Frame [.crier] [] s t)
  ∧ (∀ (masks : CrierMasks) (s : State), Completes (.dispatchCommit masks) s fun t => Frame [.hif, .crier, .out] [.pba] s t)
  ∧ (∀ (v : Nat) (s : State), Completes (.vecEoi v) s fun t => Frame [.top, .crier] [] s t)
  ∧ (∀ (n : Nat) (s : State), Completes (.coreEoi n) s fun t => Frame [.crier] [] s t)
  ∧ (∀ (receiver : Nat) (sender : Nat) (handshake : Nat) (s : State), Completes (.crossingFault receiver sender handshake) s fun t =>
      Frame [.journal, .owed, .crier, .flt] [.fltRec, .fltFirst, .fltCount0, .fltCount1, .fltCount2, .escCfg] s t)
  ∧ (∀ (src : Nat) (s : State), Completes (.graceExpiry src) s fun t => Frame [.journal, .owed, .crier, .flt, .out] [.fltCount2,
      .escCfg, .secCount] s t)
  ∧ (∀ (value : Word) (s : State), Completes (.escAck value) s fun t => Frame [.owed, .top, .crier, .flt] [.fltCount2, .fltCount5,
      .escCfg] s t)
  ∧ (∀ (src : Nat) (value : BitVec 64) (s : State), Completes (.actionsWrite src value) s fun t => Frame [.owed, .crier, .flt]
      [.fltErr, .fltCount2, .escCfg, .escActions] s t)
  ∧ (∀ (src : Nat) (s : State), Completes (.escEnd src) s fun t => Frame [.journal, .owed, .crier, .flt, .out] [.fltCount2,
      .fltCount3, .escCfg, .secCount] s t)
  ∧ (∀ (src : Nat) (s : State), Completes (.escIsland src) s fun t => Frame [.freeCtr, .journal, .owed, .lastRaise, .top, .hif,
      .ports, .pipes, .market, .spill, .sched, .ainum, .telem, .crier, .flt, .activity, .sec, .out] [.bringup, .orphanCtrl,
      .orphanLog, .fltRec, .fltFirst, .fltCount0, .fltCount1, .fltCount2, .fltCount3, .fltCount4, .escCfg, .portLatency, .tokenCtrl,
      .peerStatus, .secStatus, .slotStatus, .secCount, .portsUp, .evtLanes, .portState, .stateCtrl, .mktStatus, .poolFree, .mktCount0,
      .mktCount3, .mktCount4, .mktCount5, .mktCount6, .partUsed, .qcfgPitch, .qcfgOcc, .pfcState, .ingUsed, .hdrmUsed, .stagingFree,
      .splCount, .stackStatus, .phyStatus, .qspillStatus, .talCount, .pmcCount] s t)
  ∧ (∀ (src : Nat) (s : State), Completes (.escControl src) s fun t => Frame [.journal, .owed, .top, .hif, .prg, .crier, .flt, .out]
      [.bringup, .mbCtrl, .mbResponse, .orphanCtrl, .orphanLog, .fltCount2, .fltCount3, .escCfg, .secCount] s t)
  ∧ (∀ (src : Nat) (s : State), Completes (.escQuiesce src) s fun t => Frame [.journal, .owed, .top, .crier, .flt, .out] [.fltCount2,
      .fltCount3, .escCfg, .secCount, .pipeCtrl] s t)
  ∧ (∀ (src : Nat) (s : State), Completes (.escPortOff src) s fun t => Frame [.freeCtr, .journal, .owed, .lastRaise, .top, .ports,
      .pipes, .market, .spill, .sched, .ainum, .telem, .crier, .flt, .activity, .out] [.bringup, .fltRec, .fltFirst, .fltCount0,
      .fltCount1, .fltCount2, .fltCount3, .escCfg, .portLatency, .tokenCtrl, .peerStatus, .secCount, .portsUp, .evtLanes, .portCfg,
      .portState, .mktStatus, .poolFree, .mktCount0, .mktCount3, .mktCount4, .mktCount5, .mktCount6, .partUsed, .qcfgPitch, .qcfgOcc,
      .pfcState, .ingUsed, .hdrmUsed, .stagingFree, .splCount, .stackStatus, .qspillStatus, .talCount, .pmcCount] s t)
  ∧ (∀ (src : Nat) (s : State), Completes (.escLoseStack src) s fun t => Frame [.freeCtr, .journal, .owed, .lastRaise, .market,
      .spill, .sched, .telem, .crier, .flt, .activity, .out] [.bringup, .fltCount2, .fltCount3, .escCfg, .secCount, .mktStatus,
      .poolFree, .mktCount3, .mktCount4, .mktCount5, .mktCount6, .partUsed, .qcfgPitch, .qcfgOcc, .pfcState, .ingUsed, .hdrmUsed,
      .stagingFree, .splCount, .stackStatus, .qspillStatus, .talCount, .pmcCount] s t)
  ∧ (∀ (src : Nat) (s : State), Completes (.escWait src) s fun t => Frame [.journal, .owed, .crier, .flt, .out] [.fltCount2,
      .fltCount3, .escCfg, .secCount] s t)

/-- Frames of Scales commands: whatever the state and the operands, the command answers a next state in which only the named parts
of the state, and of the registers only the named ones, may differ. -/
def Obligations.ScalesFrames : Prop :=
  (∀ (answers : List RegulatorAnswer) (s : State), Completes (.regulatorPoll answers) s fun t => Frame [.owed, .lastRaise, .crier,
      .flt, .scales, .out] [.fltCount2, .escCfg, .sclStatus, .regVi, .regStat] s t)
  ∧ (∀ (s : State), Completes .scalesReady s fun t => Frame [.freeCtr, .journal, .owed, .crier, .flt, .scales, .out] [.bringup,
      .fltCount2, .escCfg, .sclStatus, .secCount] s t)
  ∧ (∀ (savings : List (Nat × Nat)) (s : State), Completes (.capLoopTick savings) s fun t => Frame [.owed, .hif, .ainum, .crier, .flt,
      .scales] [.fltCount2, .escCfg, .sclStatus, .pipeClk] s t)
  ∧ (∀ (p : Nat) (s : State), Completes (.deferralForce p) s fun t => Frame [.owed, .hif, .ainum, .crier, .flt, .scales] [.fltCount2,
      .escCfg, .sclStatus, .pipeClk] s t)
  ∧ (∀ (p : Nat) (step : Nat) (s : State), Completes (.sclPolicyConflict p step) s fun t => Frame [.owed, .lastRaise, .crier, .flt]
      [.fltCount2, .escCfg, .sclStatus, .sclConflict] s t)
  ∧ (∀ (p : Nat) (s : State), Completes (.glideComplete p) s fun t => Frame [.freeCtr, .scales] [.pipeClk] s t)
  ∧ (∀ (bus : Nat) (low : Bool) (s : State), Completes (.pmbusAlert bus low) s fun t => Frame [.owed, .hif, .ainum, .crier, .flt,
      .scales] [.fltCount2, .escCfg, .sclStatus, .pipeClk] s t)
  ∧ (∀ (s : State), Completes .fastEstimateTick s fun t => Frame [.owed, .hif, .ainum, .crier, .flt, .scales, .activity] [.fltCount2,
      .escCfg, .sclStatus, .sclPower, .pipeClk] s t)
  ∧ (∀ (s : State), Completes .limiterStep s fun t => Frame [.owed, .hif, .ainum, .crier, .flt, .scales] [.fltCount2, .escCfg,
      .sclStatus, .pipeClk] s t)
  ∧ (∀ (s : State), Completes .limiterRelease s fun t => Frame [.scales] [.sclStatus, .pipeClk] s t)
  ∧ (∀ (value : Word) (s : State), Completes (.absWrite value) s fun t => Frame [.owed, .top, .crier, .flt, .out] [.fltCount2,
      .escCfg, .sclErr, .sclAbs] s t)
  ∧ (∀ (island : Nat) (s : State), Completes (.droopTrip island) s fun t => Frame [.owed, .lastRaise, .crier, .flt, .scales]
      [.fltCount2, .escCfg, .droop] s t)
  ∧ (∀ (island : Nat) (stretchedUs : Nat) (s : State), Completes (.droopClear island stretchedUs) s fun t => Frame [.owed, .lastRaise,
      .crier, .flt, .scales] [.fltCount2, .escCfg, .droop] s t)
  ∧ (∀ (s : State), Completes .phaseTick s fun t => Frame [.freeCtr, .journal, .owed, .lastRaise, .hif, .crier, .flt, .scales,
      .activity, .out] [.fltCount2, .escCfg, .sclStatus, .sclPower, .energyTotal, .energyCommon, .energyHall, .pipeClk, .secCount] s
      t)
  ∧ (∀ (sensors : List Nat) (engines : List Nat) (s : State), Completes (.thermalSense sensors engines) s fun t => Frame [.freeCtr,
      .owed, .hif, .ainum, .crier, .flt, .scales] [.fltCount2, .escCfg, .sclStatus, .sclTj, .pipeClk] s t)
  ∧ (∀ (s : State), Completes .throttleTick s fun t => Frame [.owed, .hif, .ainum, .crier, .flt, .scales] [.fltCount2, .escCfg,
      .sclStatus, .pipeClk] s t)

/-- Frames of cartridge, key, context and random-source commands: whatever the state and the operands, the command answers a next
state in which only the named parts of the state, and of the registers only the named ones, may differ. -/
def Obligations.CartridgeAndCashboxFrames : Prop :=
  (∀ (bay : Nat) (present : Bool) (s : State), Completes (.cartPresenceChange bay present) s fun t => Frame [.freeCtr, .owed, .ports,
      .sched, .ainum, .crier, .flt, .bays] [.bringup, .fltCount2, .escCfg, .portLatency, .tokenCtrl, .peerStatus, .bayStatus,
      .baySerial, .bayWear, .bayFull, .chFailed, .chFull, .portsUp, .evtLanes, .portState] s t)
  ∧ (∀ (bay : Nat) (s : State), Completes (.cartLatchOpen bay) s fun t => Frame [.owed, .ports, .sched, .ainum, .crier, .flt, .bays]
      [.bringup, .fltCount2, .escCfg, .portLatency, .tokenCtrl, .peerStatus, .bayStatus, .chFull, .portsUp, .evtLanes, .portState] s
      t)
  ∧ (∀ (bay : Nat) (s : State), Completes (.cartLatchClose bay) s fun t => Frame [.owed, .crier, .flt, .bays] [.bringup, .fltCount2,
      .escCfg, .bayStatus] s t)
  ∧ (∀ (bay : Nat) (shutdown : Bool) (s : State), Completes (.cartInt bay shutdown) s fun t => Frame [.owed, .ports, .sched, .ainum,
      .crier, .flt, .bays] [.bringup, .fltCount2, .escCfg, .portLatency, .tokenCtrl, .peerStatus, .bayStatus, .chFull, .portsUp,
      .evtLanes, .portState] s t)
  ∧ (∀ (bay : Nat) (identity : Identity) (s : State), Completes (.cartAuthenticating bay identity) s fun t => Frame [.freeCtr,
      .journal, .owed, .crier, .flt, .bays, .sec, .out] [.bringup, .fltCount2, .escCfg, .secCount, .bayStatus, .baySerial, .bayWear,
      .chFailed] s t)
  ∧ (∀ (bay : Nat) (tag : List Byte) (s : State), Completes (.cartChallengeCheck bay tag) s fun t => Frame [.owed, .crier, .flt,
      .bays] [.bringup, .fltCount2, .escCfg, .secCount, .bayStatus, .bayFull] s t)
  ∧ (∀ (bay : Nat) (s : State), Completes (.cartEnRaise bay) s fun t => Frame [.bays] [.bayStatus] s t)
  ∧ (∀ (bay : Nat) (s : State), Completes (.cartActivate bay) s fun t => Frame [.freeCtr, .owed, .crier, .flt, .bays] [.bringup,
      .fltCount2, .escCfg, .bayStatus, .chFull] s t)
  ∧ (∀ (bay : Nat) (s : State), Completes (.removalRampStart bay) s fun t => Frame [.owed, .crier, .flt, .bays] [.bringup, .fltCount2,
      .escCfg, .bayStatus] s t)
  ∧ (∀ (bay : Nat) (s : State), Completes (.removalRampDone bay) s fun t => Frame [.freeCtr, .bays] [.chFull] s t)
  ∧ (∀ (bay : Nat) (s : State), Completes (.removalEnLow bay) s fun t => Frame [.journal, .owed, .ports, .sched, .ainum, .crier, .flt,
      .bays, .out] [.bringup, .fltCount2, .escCfg, .portLatency, .tokenCtrl, .peerStatus, .secCount, .bayStatus, .chFull, .portsUp,
      .evtLanes, .portState] s t)
  ∧ (∀ (bay : Nat) (ch : Nat) (s : State), Completes (.shareFailed bay ch) s fun t => Frame [.freeCtr, .owed, .ports, .sched, .ainum,
      .crier, .flt, .bays] [.fltCount2, .escCfg, .portLatency, .tokenCtrl, .peerStatus, .bayStatus, .chFailed, .chFull, .portsUp,
      .evtLanes, .portState] s t)
  ∧ (∀ (g : Nat) (input : Nat) (s : State), Completes (.lightLow g input) s fun t => Frame [.owed, .crier, .flt] [.fltCount2, .escCfg,
      .evtLanes] s t)
  ∧ (∀ (outputs : List (Nat × Nat × Nat)) (s : State), Completes (.wearTick outputs) s fun t => Frame [.owed, .crier, .flt, .bays]
      [.fltCount2, .escCfg, .bayStatus, .bayWear] s t)
  ∧ (∀ (failedBlocks : List Nat) (s : State), Completes (.wearRecordWrite failedBlocks) s fun t => Frame [.journal, .owed, .crier,
      .flt, .bays, .out] [.fltCount2, .escCfg, .secCount] s t)
  ∧ (∀ (bay : Nat) (ch : Nat) (want : Nat) (s : State), Completes (.currentLoopStep bay ch want) s fun t => Frame [.bays] [] s t)
  ∧ (∀ (bay : Nat) (ch : Nat) (want : Nat) (s : State), Completes (.cartPolicyConflict bay ch want) s fun t => Frame [.owed,
      .lastRaise, .crier, .flt] [.fltCount2, .escCfg, .bayConflict] s t)
  ∧ (∀ (cmd : HostCmd) (s : State), Completes (.readId cmd) s fun t => Frame [.freeCtr, .owed, .hif, .crier, .flt, .out] [.orphanCtrl,
      .orphanLog, .fltCount2, .escCfg] s t)
  ∧ (∀ (cmd : HostCmd) (tag : List Byte) (s : State), Completes (.reauth cmd tag) s fun t => Frame [.freeCtr, .owed, .hif, .ports,
      .sched, .ainum, .crier, .flt, .bays, .sec, .out] [.bringup, .orphanCtrl, .orphanLog, .fltCount2, .escCfg, .portLatency,
      .tokenCtrl, .peerStatus, .secCount, .bayStatus, .bayFull, .chFull, .portsUp, .evtLanes, .portState] s t)
  ∧ (∀ (cmd : HostCmd) (s : State), Completes (.setPolicy cmd) s fun t => Frame [.journal, .owed, .hif, .crier, .flt, .out]
      [.orphanCtrl, .orphanLog, .fltCount2, .escCfg, .secCount, .crtPolicy] s t)
  ∧ (∀ (cmd : HostCmd) (s : State), Completes (.prepareRemove cmd) s fun t => Frame [.owed, .hif, .crier, .flt, .bays] [.orphanCtrl,
      .orphanLog, .fltCount2, .escCfg] s t)
  ∧ (∀ (cmd : HostCmd) (s : State), Completes (.keyUnwrap cmd) s fun t => Frame [.owed, .lastRaise, .hif, .crier, .flt, .sec]
      [.orphanCtrl, .orphanLog, .fltCount2, .escCfg, .slotStatus, .secCount] s t)
  ∧ (∀ (cmd : HostCmd) (s : State), Completes (.keyErase cmd) s fun t => Frame [.owed, .lastRaise, .hif, .crier, .flt, .sec]
      [.orphanCtrl, .orphanLog, .fltCount2, .escCfg, .slotStatus, .secCount] s t)
  ∧ (∀ (cmd : HostCmd) (s : State), Completes (.ctxSave cmd) s fun t => Frame [.owed, .lastRaise, .hif, .crier, .flt, .out]
      [.orphanCtrl, .orphanLog, .fltCount2, .escCfg] s t)
  ∧ (∀ (cmd : HostCmd) (s : State), Completes (.ctxRestore cmd) s fun t => Frame [.owed, .lastRaise, .hif, .crier, .flt, .sec]
      [.orphanCtrl, .orphanLog, .fltCount2, .escCfg, .ctx0Status, .ctx0Bits] s t)
  ∧ (∀ (s : State), Completes .keyEpochStart s fun t => Frame [.prog, .freeCtr, .journal, .owed, .lastRaise, .top, .hif, .prg, .pipes,
      .tables, .clerk, .crier, .flt, .activity, .bays, .sec, .out] [.orphanCtrl, .orphanLog, .fltCount2, .escCfg, .secStatus,
      .slotStatus, .secCount, .ctx0Bits, .crtPolicy, .domCtrl, .domT, .clkErr, .flapLast, .flapTable, .clerkCount, .desc, .hashCfg,
      .pmcCount] s t)
  ∧ (∀ (s : State), Completes .trngFail s fun t => Frame [.owed, .crier, .flt] [.fltCount2, .escCfg, .secStatus] s t)
  ∧ (∀ (s : State), Completes .trngOk s fun t => Frame [.prog, .freeCtr, .journal, .owed, .lastRaise, .top, .hif, .prg, .pipes,
      .tables, .clerk, .ainum, .crier, .flt, .activity, .bays, .sec, .out] [.orphanCtrl, .orphanLog, .fltCount2, .escCfg, .secStatus,
      .slotStatus, .secCount, .ctx0Bits, .crtPolicy, .domCtrl, .domT, .clkErr, .flapLast, .flapTable, .clerkCount, .desc, .hashCfg,
      .pmcCount] s t)
end

