-- ==== Sys2Proof/Laws/Mem.lean ====
section
/-!
SUPPORT. Sparse stores: a read after a write, and the canonical form that every write keeps.
-/
namespace Sys2Proof.Laws

open Sys2Proof.Machine

@[simp] theorem mapGet_nil {α : Type} (d : α) (k : Nat) : mapGet d [] k = d := rfl

theorem mapGet_cons {α : Type} (d : α) (k' : Nat) (v : α) (r : Store α) (k : Nat) :
    mapGet d ((k', v) :: r) k = if k' = k then v else mapGet d r k := rfl

/-- The canonical form is kept when the bound falls. -/
theorem mapWfFrom_mono {α : Type} [DecidableEq α] {d : Nat → α} {lo lo' : Nat} {m : Store α}
    (hle : lo' ≤ lo) (h : mapWfFrom d lo m = true) : mapWfFrom d lo' m = true := by
  cases m with
  | nil => rfl
  | cons x r =>
    obtain ⟨k, v⟩ := x
    simp only [mapWfFrom, Bool.and_eq_true, decide_eq_true_eq] at h ⊢
    exact ⟨⟨hle.trans h.1.1, h.1.2⟩, h.2⟩

/-- Below the bound of a canonical store every cell is at its default. -/
theorem mapGet_below {α : Type} [DecidableEq α] {d : Nat → α} {lo k : Nat} {m : Store α} {e : α}
    (hk : k < lo) (h : mapWfFrom d lo m = true) : mapGet e m k = e := by
  induction m generalizing lo with
  | nil => rfl
  | cons x r ih =>
    obtain ⟨k', v⟩ := x
    simp only [mapWfFrom, Bool.and_eq_true, decide_eq_true_eq] at h
    have hne : k' ≠ k := by omega
    rw [mapGet_cons, if_neg hne]
    exact ih (by omega) h.2

/-- A write keeps the canonical form above a bound that does not exceed its key. -/
theorem mapWfFrom_mapPut {α : Type} [DecidableEq α] {d : Nat → α} {lo k : Nat} {v : α} {m : Store α}
    (hk : lo ≤ k) (h : mapWfFrom d lo m = true) : mapWfFrom d lo (mapPut (d k) m k v) = true := by
  have key : ∀ {lo lo' : Nat} {m : Store α}, mapWfFrom d lo' m = true → v = d k → mapWfFrom d lo' (mapPut (d k) m k v) = true := by
    intro lo lo' m h hv
    induction m generalizing lo' with
    | nil => simp [mapPut, hv, mapWfFrom]
    | cons x r ih =>
      obtain ⟨k', v'⟩ := x
      simp only [mapWfFrom, Bool.and_eq_true, decide_eq_true_eq] at h
      rw [mapPut, if_pos hv]
      split
      · exact mapWfFrom_mono (by omega) (ih h.2)
      · simp only [mapWfFrom, Bool.and_eq_true, decide_eq_true_eq]
        exact ⟨h.1, ih h.2⟩
  by_cases hv : v = d k
  · exact key (lo := lo) h hv
  · induction m generalizing lo with
    | nil => simp_all [mapPut, mapWfFrom]
    | cons x r ih =>
      obtain ⟨k', v'⟩ := x
      simp only [mapWfFrom, Bool.and_eq_true, decide_eq_true_eq] at h
      rw [mapPut, if_neg hv]
      split
      · simp_all [mapWfFrom]
      · split
        · simp_all [mapWfFrom]
        · simp only [mapWfFrom, Bool.and_eq_true, decide_eq_true_eq]
          exact ⟨h.1, ih (by omega) h.2⟩

/-- A write keeps the canonical form. -/
theorem mapWf_mapPut {α : Type} [DecidableEq α] {d : Nat → α} {k : Nat} {v : α} {m : Store α}
    (h : mapWf d m = true) : mapWf d (mapPut (d k) m k v) = true := mapWfFrom_mapPut (Nat.zero_le k) h

/-- A canonical store without some of its cells is canonical. -/
theorem mapWfFrom_filter {α : Type} [DecidableEq α] {d : Nat → α} {lo : Nat} {m : Store α} {p : Nat × α → Bool}
    (h : mapWfFrom d lo m = true) : mapWfFrom d lo (m.filter p) = true := by
  induction m generalizing lo with
  | nil => rfl
  | cons x r ih =>
    obtain ⟨k, v⟩ := x
    simp only [mapWfFrom, Bool.and_eq_true, decide_eq_true_eq] at h
    rw [List.filter_cons]
    split
    · simp only [mapWfFrom, Bool.and_eq_true, decide_eq_true_eq]
      exact ⟨h.1, ih h.2⟩
    · exact ih (mapWfFrom_mono (by omega) h.2)

/-- Reading the cell that was written. -/
theorem mapGet_mapPut_same {α : Type} [DecidableEq α] {d : α} {k : Nat} {v : α} {m : Store α} :
    mapGet d (mapPut d m k v) k = v := by
  induction m with
  | nil => simp only [mapPut]; split <;> simp_all [mapGet]
  | cons x r ih =>
    obtain ⟨k', v'⟩ := x
    rw [mapPut]
    split
    · split
      · exact ih
      · rename_i hne
        rw [mapGet_cons, if_neg hne]
        exact ih
    · split
      · rw [mapGet_cons, if_pos rfl]
      · split
        · rw [mapGet_cons, if_pos rfl]
        · rename_i hne
          rw [mapGet_cons, if_neg hne]
          exact ih

/-- Reading another cell than the one written. -/
theorem mapGet_mapPut_ne {α : Type} [DecidableEq α] {d e : α} {k j : Nat} {v : α} {m : Store α} (hne : j ≠ k) :
    mapGet e (mapPut d m k v) j = mapGet e m j := by
  induction m with
  | nil => simp only [mapPut]; split <;> simp [mapGet, Ne.symm hne]
  | cons x r ih =>
    obtain ⟨k', v'⟩ := x
    rw [mapPut]
    split
    · split
      · rename_i heq
        rw [ih, mapGet_cons, if_neg (fun h => hne (h.symm.trans heq))]
      · rw [mapGet_cons, mapGet_cons, ih]
    · split
      · rw [mapGet_cons, if_neg (Ne.symm hne)]
      · split
        · rename_i heq
          subst heq
          rw [mapGet_cons, if_neg (Ne.symm hne), mapGet_cons, if_neg (Ne.symm hne)]
        · rw [mapGet_cons, mapGet_cons, ih]

/-- Reading a cell that was changed, or another. -/
theorem mapGet_mapMod {α : Type} [DecidableEq α] {d : α} {k j : Nat} {f : α → α} {m : Store α} :
    mapGet d (mapMod d m k f) j = if j = k then f (mapGet d m k) else mapGet d m j := by
  split
  · rename_i h; subst h; exact mapGet_mapPut_same
  · rename_i h; exact mapGet_mapPut_ne h

end Sys2Proof.Laws
end

