-- ==== Sys2Proof/Laws/Kept.lean ====
section
/-!
SUPPORT. What every operation keeps, said once: the canonical register store and addressed memories, the queue, the order of
the fuses and an accepted life-cycle transition that is permitted.
-/
namespace Sys2Proof.Laws

open Sys2Proof.Machine

/-- From a state with queue `Q` and fuses `G` the operations that led to `s` kept what every operation keeps. -/
structure Kept (Q : List Instr) (G : Fuses) (s : State) : Prop where
  wf : regsWf s.regs = true
  queue : s.pending = Q
  fuses : FusesGe G s.top.fuses
  job : JobPermitted s
  mem : memWf s = true

/-- The same of an outcome's next state. -/
def KeptO (Q : List Instr) (G : Fuses) (o : Host.Outcome State Fault Refusal) : Prop :=
  match o with
  | .next t => Kept Q G t
  | .fault _ => True
  | .refused _ => True

theorem FusesGe.refl (f : Fuses) : FusesGe f f := 
  ⟨rfl, rfl, le_rfl, le_rfl, .inl rfl, List.suffix_refl _, rfl, rfl, fun _ h => h⟩

/-- A state that meets the invariant starts with all of it. -/
theorem Kept.of_inv {s : State} (h : Inv s) : Kept s.pending s.top.fuses s := ⟨h.1, rfl, FusesGe.refl _, h.2.2, h.2.1⟩

theorem KeptO.next {Q : List Instr} {G : Fuses} {s : State} (h : Kept Q G s) : KeptO Q G (.next s) := h


/-- An update of other parts than the registers, the memories, the queue and what stands at the top. -/
theorem Kept.upd {Q : List Instr} {G : Fuses} {s : State} {x_clock x_elapsed x_freeCtr x_owed x_lastRaise x_prg x_ports
    x_pipes x_tables x_clerk x_market x_sched x_slots x_pulses x_ainum x_telem x_crier x_flt x_scales x_activity x_bays x_sec
    x_out} : Kept Q G (State.mk s.pending s.regs s.prog x_clock x_elapsed x_freeCtr s.journal x_owed x_lastRaise s.top s.hif
    x_prg x_ports x_pipes x_tables x_clerk x_market s.spill x_sched x_slots x_pulses x_ainum x_telem x_crier x_flt x_scales
    x_activity x_bays x_sec x_out) ↔ Kept Q G s :=
  ⟨fun h => ⟨h.wf, h.queue, h.fuses, h.job, h.mem⟩, fun h => ⟨h.wf, h.queue, h.fuses, h.job, h.mem⟩⟩

/-- An update of what stands at the top but for the fuses and the accepted transition. -/
theorem Kept.updTop {Q : List Instr} {G : Fuses} {s : State} {x_clock x_elapsed x_freeCtr x_owed x_lastRaise x_prg x_ports
    x_pipes x_tables x_clerk x_market x_sched x_slots x_pulses x_ainum x_telem x_crier x_flt x_scales x_activity x_bays x_sec
    x_out y_flash y_inReset y_islands y_islandsByReg y_unfed y_held y_warning y_warnStarts y_jtagHold y_controlReset y_controlDue
    y_running y_coldBoot y_lands} : Kept Q G (State.mk s.pending s.regs s.prog x_clock x_elapsed x_freeCtr s.journal x_owed
    x_lastRaise (Sys2Proof.Machine.Top.mk s.top.fuses y_flash y_inReset y_islands y_islandsByReg y_unfed y_held s.top.lcsJob
    y_warning y_warnStarts y_jtagHold y_controlReset y_controlDue y_running y_coldBoot y_lands) s.hif x_prg x_ports x_pipes
    x_tables x_clerk x_market s.spill x_sched x_slots x_pulses x_ainum x_telem x_crier x_flt x_scales x_activity x_bays x_sec
    x_out) ↔ Kept Q G s :=
  ⟨fun h => ⟨h.wf, h.queue, h.fuses, h.job, h.mem⟩, fun h => ⟨h.wf, h.queue, h.fuses, h.job, h.mem⟩⟩

/-- An update of the host interface but for the octets of buffers. -/
theorem Kept.updHif {Q : List Instr} {G : Fuses} {s : State} {x_clock x_elapsed x_freeCtr x_owed x_lastRaise x_prg x_ports
    x_pipes x_tables x_clerk x_market x_sched x_slots x_pulses x_ainum x_telem x_crier x_flt x_scales x_activity x_bays x_sec
    x_out y_perst y_fromPerst y_perstHigh y_visible y_bellSeq y_outstanding y_completions y_notifs y_phaseInv y_oldBell
    y_settling y_oldMail y_latches y_heldLow y_mail y_lastCr y_msixOn y_msixMask y_slots} : Kept Q G (State.mk s.pending s.regs
    s.prog x_clock x_elapsed x_freeCtr s.journal x_owed x_lastRaise s.top (Sys2Proof.Machine.Hif.mk y_perst y_fromPerst
    y_perstHigh y_visible y_bellSeq y_outstanding y_completions y_notifs y_phaseInv y_oldBell y_settling y_oldMail y_latches
    y_heldLow y_mail y_lastCr y_msixOn y_msixMask y_slots s.hif.buf) x_prg x_ports x_pipes x_tables x_clerk x_market s.spill
    x_sched x_slots x_pulses x_ainum x_telem x_crier x_flt x_scales x_activity x_bays x_sec x_out) ↔ Kept Q G s :=
  ⟨fun h => ⟨h.wf, h.queue, h.fuses, h.job, h.mem⟩, fun h => ⟨h.wf, h.queue, h.fuses, h.job, h.mem⟩⟩

/-- An update of the spill path but for the page cells. -/
theorem Kept.updSpill {Q : List Instr} {G : Fuses} {s : State} {x_clock x_elapsed x_freeCtr x_owed x_lastRaise x_prg x_ports
    x_pipes x_tables x_clerk x_market x_sched x_slots x_pulses x_ainum x_telem x_crier x_flt x_scales x_activity x_bays x_sec
    x_out y_q y_xfers y_fresh y_freed y_wiping y_wiped y_errs y_refreshes} : Kept Q G (State.mk s.pending s.regs s.prog x_clock
    x_elapsed x_freeCtr s.journal x_owed x_lastRaise s.top s.hif x_prg x_ports x_pipes x_tables x_clerk x_market
    (Sys2Proof.Machine.Spill.mk y_q s.spill.hbm y_xfers y_fresh y_freed y_wiping y_wiped y_errs y_refreshes) x_sched x_slots
    x_pulses x_ainum x_telem x_crier x_flt x_scales x_activity x_bays x_sec x_out) ↔ Kept Q G s :=
  ⟨fun h => ⟨h.wf, h.queue, h.fuses, h.job, h.mem⟩, fun h => ⟨h.wf, h.queue, h.fuses, h.job, h.mem⟩⟩

/-- An update of the journal but for the host partition. -/
theorem Kept.updJrn {Q : List Instr} {G : Fuses} {s : State} {x_clock x_elapsed x_freeCtr x_owed x_lastRaise x_prg x_ports
    x_pipes x_tables x_clerk x_market x_sched x_slots x_pulses x_ainum x_telem x_crier x_flt x_scales x_activity x_bays x_sec
    x_out y_anchorA y_anchorB y_remapA y_remapB y_records y_seq y_wear y_retiredBlocks y_spareList y_hostLost y_exhausted
    y_stuck} : Kept Q G (State.mk s.pending s.regs s.prog x_clock x_elapsed x_freeCtr (Sys2Proof.Machine.Journal.mk y_anchorA
    y_anchorB y_remapA y_remapB y_records s.journal.host y_seq y_wear y_retiredBlocks y_spareList y_hostLost y_exhausted y_stuck)
    x_owed x_lastRaise s.top s.hif x_prg x_ports x_pipes x_tables x_clerk x_market s.spill x_sched x_slots x_pulses x_ainum
    x_telem x_crier x_flt x_scales x_activity x_bays x_sec x_out) ↔ Kept Q G s :=
  ⟨fun h => ⟨h.wf, h.queue, h.fuses, h.job, h.mem⟩, fun h => ⟨h.wf, h.queue, h.fuses, h.job, h.mem⟩⟩

theorem memWf_iff {s : State} : memWf s = true ↔ (mapWf (fun _ => 0) s.prog = true ∧ mapWf (fun _ => 0) s.hif.buf = true)
    ∧ mapWf (fun _ => []) s.spill.hbm = true ∧ mapWf (fun _ => 0) s.journal.host = true := by
  simp only [memWf, Bool.and_eq_true]; tauto

/-- New program stores in canonical form. -/
theorem Kept.withProg {Q : List Instr} {G : Fuses} {s : State} {m : Store Byte} {x : Pipes} (h : Kept Q G s)
    (hm : mapWf (fun _ => 0) s.prog = true → mapWf (fun _ => 0) m = true) : Kept Q G { s with prog := m, pipes := x } :=
  ⟨h.wf, h.queue, h.fuses, h.job, have k := memWf_iff.mp h.mem; memWf_iff.mpr ⟨⟨hm k.1.1, k.1.2⟩, k.2⟩⟩

/-- A new host interface whose buffers are in canonical form. -/
theorem Kept.withBuf {Q : List Instr} {G : Fuses} {s : State} {x : Hif} (h : Kept Q G s)
    (hm : mapWf (fun _ => 0) s.hif.buf = true → mapWf (fun _ => 0) x.buf = true) : Kept Q G { s with hif := x } :=
  ⟨h.wf, h.queue, h.fuses, h.job, have k := memWf_iff.mp h.mem; memWf_iff.mpr ⟨⟨k.1.1, hm k.1.2⟩, k.2⟩⟩

/-- A new spill path whose page cells are in canonical form. -/
theorem Kept.withHbm {Q : List Instr} {G : Fuses} {s : State} {x : Spill} (h : Kept Q G s)
    (hm : mapWf (fun _ => []) s.spill.hbm = true → mapWf (fun _ => []) x.hbm = true) : Kept Q G { s with spill := x } :=
  ⟨h.wf, h.queue, h.fuses, h.job, have k := memWf_iff.mp h.mem; memWf_iff.mpr ⟨k.1, hm k.2.1, k.2.2⟩⟩

/-- A new journal whose host partition is in canonical form. -/
theorem Kept.modJrn {Q : List Instr} {G : Fuses} {s : State} {f : Journal → Journal} (h : Kept Q G s)
    (hm : mapWf (fun _ => 0) s.journal.host = true → mapWf (fun _ => 0) (f s.journal).host = true) : Kept Q G (modJrn s f) :=
  ⟨h.wf, h.queue, h.fuses, h.job, have k := memWf_iff.mp h.mem; memWf_iff.mpr ⟨k.1, k.2.1, hm k.2.2⟩⟩

theorem mapWf_foldl_put {α β : Type} [DecidableEq α] {d : α} {l : List β} {f : β → Nat} {g : β → α} {m : Store α}
    (h : mapWf (fun _ => d) m = true) : mapWf (fun _ => d) (l.foldl (fun m x => mapPut d m (f x) (g x)) m) = true := by
  induction l generalizing m with
  | nil => exact h
  | cons x r ih => exact ih (mapWf_mapPut (d := fun _ => d) h)

theorem Kept.foldl {Q : List Instr} {G : Fuses} {α : Type} {f : State → α → State} {l : List α} {s : State}
    (h : Kept Q G s) (hf : ∀ t x, Kept Q G t → Kept Q G (f t x)) : Kept Q G (l.foldl f s) := by
  induction l generalizing s with
  | nil => exact h
  | cons x r ih => exact ih (hf s x h)

theorem Kept.foldl1 {Q : List Instr} {G : Fuses} {α β : Type} {f : State × β → α → State × β} {l : List α}
    {s : State × β} (h : Kept Q G s.1) (hf : ∀ t x, Kept Q G t.1 → Kept Q G (f t x).1) : Kept Q G (l.foldl f s).1 := by
  induction l generalizing s with
  | nil => exact h
  | cons x r ih => exact ih (hf s x h)

theorem Kept.setReg {Q : List Instr} {G : Fuses} {s : State} {a : Nat} {v : Word} (h : Kept Q G s) :
    Kept Q G (setReg s a v) := ⟨mapWf_mapPut h.wf, h.queue, h.fuses, h.job, h.mem⟩

end Sys2Proof.Laws
end

