-- ==== Sys2Proof/Laws/KeptOps.lean ====
section
/-!
SUPPORT. One lemma for each operation of Ops, Lands, Pcie, Counters, Units, Packet, Barrow, Market, Spill, Slots, Clock, Journal: it keeps the canonical register store, the queue, the fuses' order and a forward transition (`Kept`).
-/
namespace Sys2Proof.Laws

open Sys2Proof.Machine

variable {Q : List Instr} {G : Fuses}



theorem Kept.setF (s : State) (a hi lo v : Nat) (hk : Kept Q G s) : Kept Q G (setF s a hi lo v) := by
  unfold Sys2Proof.Machine.setF
  with_reducible repeat' first
    | assumption | apply Kept.setReg | simp only [Kept.upd] | simp only [Kept.updTop] | simp only [Kept.updHif]
    | simp only [Kept.updSpill] | simp only [Kept.updJrn] | dsimp only | split | intro

theorem Kept.setBit (s : State) (a i : Nat) (b : Bool) (hk : Kept Q G s) : Kept Q G (setBit s a i b) := by
  unfold Sys2Proof.Machine.setBit
  with_reducible repeat' first
    | assumption | apply Kept.setF | simp only [Kept.upd] | simp only [Kept.updTop] | simp only [Kept.updHif]
    | simp only [Kept.updSpill] | simp only [Kept.updJrn] | dsimp only | split | intro

theorem Kept.setReg64 (s : State) (a v : Nat) (hk : Kept Q G s) : Kept Q G (setReg64 s a v) := by
  unfold Sys2Proof.Machine.setReg64
  with_reducible repeat' first
    | assumption | apply Kept.setReg | simp only [Kept.upd] | simp only [Kept.updTop] | simp only [Kept.updHif]
    | simp only [Kept.updSpill] | simp only [Kept.updJrn] | dsimp only | split | intro

theorem Kept.add64 (s : State) (a n : Nat) (hk : Kept Q G s) : Kept Q G (add64 s a n) := by
  unfold Sys2Proof.Machine.add64
  with_reducible repeat' first
    | assumption | apply Kept.setReg64 | simp only [Kept.upd] | simp only [Kept.updTop] | simp only [Kept.updHif]
    | simp only [Kept.updSpill] | simp only [Kept.updJrn] | dsimp only | split | intro

theorem Kept.satF (s : State) (a hi lo n : Nat) (hk : Kept Q G s) : Kept Q G (satF s a hi lo n) := by
  unfold Sys2Proof.Machine.satF
  with_reducible repeat' first
    | assumption | apply Kept.setF | simp only [Kept.upd] | simp only [Kept.updTop] | simp only [Kept.updHif]
    | simp only [Kept.updSpill] | simp only [Kept.updJrn] | dsimp only | split | intro

theorem Kept.whenB (b : Bool) (f : State → State) (s : State) (hf : ∀ t, Kept Q G t → Kept Q G (f t)) (hk : Kept Q G s)
    : Kept Q G (whenB b f s) := by
  unfold Sys2Proof.Machine.whenB
  with_reducible repeat' first
    | assumption | apply hf | simp only [Kept.upd] | simp only [Kept.updTop] | simp only [Kept.updHif]
    | simp only [Kept.updSpill] | simp only [Kept.updJrn] | dsimp only | split | intro

theorem Kept.rowState (o : Host.Outcome State Fault Refusal) (s : State) (hk : Kept Q G s)
    (ho : KeptO Q G o) : Kept Q G (rowState o s) := by
  cases o
  · exact ho
  · exact hk
  · exact hk

theorem Kept.forEach {α : Type} (l : List α) (f : State → α → State) (s : State) (hf : ∀ t x, Kept Q G t → Kept Q G (f t x))
    (hk : Kept Q G s) : Kept Q G (forEach l f s) := by
  unfold Sys2Proof.Machine.forEach
  with_reducible repeat' first
    | assumption | apply hf | apply Kept.foldl | apply Kept.foldl1 | simp only [Kept.upd] | simp only [Kept.updTop]
    | simp only [Kept.updHif] | simp only [Kept.updSpill] | simp only [Kept.updJrn] | dsimp only | split | intro

theorem Kept.drawn (s : State) (hk : Kept Q G s) : Kept Q G (drawn s) := by
  unfold Sys2Proof.Machine.drawn
  with_reducible repeat' first
    | assumption | simp only [Kept.upd] | simp only [Kept.updTop] | simp only [Kept.updHif] | simp only [Kept.updSpill]
    | simp only [Kept.updJrn] | dsimp only | split | intro

theorem Kept.emit (s : State) (o : Output) (hk : Kept Q G s) : Kept Q G (emit s o) := by
  unfold Sys2Proof.Machine.emit
  with_reducible repeat' first
    | assumption | simp only [Kept.upd] | simp only [Kept.updTop] | simp only [Kept.updHif] | simp only [Kept.updSpill]
    | simp only [Kept.updJrn] | dsimp only | split | intro

theorem Kept.noteInterval (s : State) (key : Nat) (hk : Kept Q G s) : Kept Q G (noteInterval s key) := by
  unfold Sys2Proof.Machine.noteInterval
  with_reducible repeat' first
    | assumption | simp only [Kept.upd] | simp only [Kept.updTop] | simp only [Kept.updHif] | simp only [Kept.updSpill]
    | simp only [Kept.updJrn] | dsimp only | split | intro

theorem Kept.countEvent (s : State) (id : Nat) (hk : Kept Q G s) : Kept Q G (countEvent s id) := by
  unfold Sys2Proof.Machine.countEvent
  with_reducible repeat' first
    | assumption | simp only [Kept.upd] | simp only [Kept.updTop] | simp only [Kept.updHif] | simp only [Kept.updSpill]
    | simp only [Kept.updJrn] | dsimp only | split | intro

theorem Kept.wakeCore (s : State) (id : Nat) (hk : Kept Q G s) : Kept Q G (wakeCore s id) := by
  unfold Sys2Proof.Machine.wakeCore
  with_reducible repeat' first
    | assumption | simp only [Kept.upd] | simp only [Kept.updTop] | simp only [Kept.updHif] | simp only [Kept.updSpill]
    | simp only [Kept.updJrn] | dsimp only | split | intro

theorem Kept.pendEvent (s : State) (id : Nat) (hk : Kept Q G s) : Kept Q G (pendEvent s id) := by
  unfold Sys2Proof.Machine.pendEvent
  with_reducible repeat' first
    | assumption | apply Kept.wakeCore | apply Kept.countEvent | simp only [Kept.upd] | simp only [Kept.updTop]
    | simp only [Kept.updHif] | simp only [Kept.updSpill] | simp only [Kept.updJrn] | dsimp only | split | intro

theorem Kept.startList (s : State) (id : Nat) (hk : Kept Q G s) : Kept Q G (startList s id) := by
  unfold Sys2Proof.Machine.startList
  with_reducible repeat' first
    | assumption | apply Kept.add64 | apply Kept.setF | simp only [Kept.upd] | simp only [Kept.updTop]
    | simp only [Kept.updHif] | simp only [Kept.updSpill] | simp only [Kept.updJrn] | dsimp only | split | intro

theorem Kept.graceWith (after : State → State) (s : State) (id : Nat) (hf : ∀ t, Kept Q G t → Kept Q G (after t))
    (hk : Kept Q G s) : Kept Q G (graceWith after s id) := by
  unfold Sys2Proof.Machine.graceWith
  with_reducible repeat' first
    | assumption | apply hf | apply Kept.startList | apply Kept.setBit | simp only [Kept.upd] | simp only [Kept.updTop]
    | simp only [Kept.updHif] | simp only [Kept.updSpill] | simp only [Kept.updJrn] | dsimp only | split | intro

theorem Kept.raiseE00 (s : State) (hk : Kept Q G s) : Kept Q G (raiseE00 s) := by
  unfold Sys2Proof.Machine.raiseE00
  with_reducible repeat' first
    | assumption | apply Kept.graceWith | apply Kept.pendEvent | simp only [Kept.upd] | simp only [Kept.updTop]
    | simp only [Kept.updHif] | simp only [Kept.updSpill] | simp only [Kept.updJrn] | dsimp only | split | intro

theorem Kept.startGrace (s : State) (id : Nat) (hk : Kept Q G s) : Kept Q G (startGrace s id) := by
  unfold Sys2Proof.Machine.startGrace
  with_reducible repeat' first
    | assumption | apply Kept.graceWith | apply Kept.raiseE00 | simp only [Kept.upd] | simp only [Kept.updTop]
    | simp only [Kept.updHif] | simp only [Kept.updSpill] | simp only [Kept.updJrn] | dsimp only | split | intro

theorem Kept.raise (s : State) (id : Nat) (hk : Kept Q G s) : Kept Q G (raise s id) := by
  unfold Sys2Proof.Machine.raise
  with_reducible repeat' first
    | assumption | apply Kept.startGrace | apply Kept.pendEvent | simp only [Kept.upd] | simp only [Kept.updTop]
    | simp only [Kept.updHif] | simp only [Kept.updSpill] | simp only [Kept.updJrn] | dsimp only | split | intro

theorem Kept.raiseLimited (s : State) (id ns : Nat) (hk : Kept Q G s) : Kept Q G (raiseLimited s id ns) := by
  unfold Sys2Proof.Machine.raiseLimited
  with_reducible repeat' first
    | assumption | apply Kept.raise | apply Kept.noteInterval | simp only [Kept.upd] | simp only [Kept.updTop]
    | simp only [Kept.updHif] | simp only [Kept.updSpill] | simp only [Kept.updJrn] | dsimp only | split | intro

theorem Kept.setLine (s : State) (id : Nat) (on : Bool) (hk : Kept Q G s) : Kept Q G (setLine s id on) := by
  unfold Sys2Proof.Machine.setLine
  with_reducible repeat' first
    | assumption | apply Kept.startGrace | apply Kept.raise | apply Kept.setBit | simp only [Kept.upd]
    | simp only [Kept.updTop] | simp only [Kept.updHif] | simp only [Kept.updSpill] | simp only [Kept.updJrn] | dsimp only
    | split | intro

theorem Kept.setErrE04 (s : State) (a i : Nat) (hk : Kept Q G s) : Kept Q G (setErrE04 s a i) := by
  unfold Sys2Proof.Machine.setErrE04
  with_reducible repeat' first
    | assumption | apply Kept.raise | apply Kept.setBit | simp only [Kept.upd] | simp only [Kept.updTop]
    | simp only [Kept.updHif] | simp only [Kept.updSpill] | simp only [Kept.updJrn] | dsimp only | split | intro

theorem Kept.setBringup (s : State) (i : Nat) (hk : Kept Q G s) : Kept Q G (setBringup s i) := by
  unfold Sys2Proof.Machine.setBringup
  with_reducible repeat' first
    | assumption | apply Kept.raise | apply Kept.setBit | simp only [Kept.upd] | simp only [Kept.updTop]
    | simp only [Kept.updHif] | simp only [Kept.updSpill] | simp only [Kept.updJrn] | dsimp only | split | intro

theorem Kept.clearBringup (s : State) (i : Nat) (hk : Kept Q G s) : Kept Q G (clearBringup s i) := by
  unfold Sys2Proof.Machine.clearBringup
  with_reducible repeat' first
    | assumption | apply Kept.setBit | simp only [Kept.upd] | simp only [Kept.updTop] | simp only [Kept.updHif]
    | simp only [Kept.updSpill] | simp only [Kept.updJrn] | dsimp only | split | intro

theorem Kept.tailStep (s : State) (k : RingKind) (n key : Nat) (hk : Kept Q G s) : Kept Q G (tailStep s k n key) := by
  unfold Sys2Proof.Machine.tailStep
  with_reducible repeat' first
    | assumption | apply Kept.setReg | simp only [Kept.upd] | simp only [Kept.updTop] | simp only [Kept.updHif]
    | simp only [Kept.updSpill] | simp only [Kept.updJrn] | dsimp only | split | intro

theorem Kept.settleDone (s : State) (hk : Kept Q G s) : Kept Q G (settleDone s) := by
  unfold Sys2Proof.Machine.settleDone
  with_reducible repeat' first
    | assumption | apply Kept.raise | apply Kept.setBit | simp only [Kept.upd] | simp only [Kept.updTop]
    | simp only [Kept.updHif] | simp only [Kept.updSpill] | simp only [Kept.updJrn] | dsimp only | split | intro

theorem Kept.orphan (s : State) (o : Orphan) (hk : Kept Q G s) : Kept Q G (orphan s o) := by
  unfold Sys2Proof.Machine.orphan
  with_reducible repeat' first
    | assumption | apply Kept.setF | apply Kept.setReg | apply Kept.setBit | simp only [Kept.upd] | simp only [Kept.updTop]
    | simp only [Kept.updHif] | simp only [Kept.updSpill] | simp only [Kept.updJrn] | dsimp only | split | intro

theorem Kept.setPhase (s : State) (c : HostCmd) (p : CmdPhase) (hk : Kept Q G s) : Kept Q G (setPhase s c p) := by
  unfold Sys2Proof.Machine.setPhase
  with_reducible repeat' first
    | assumption | simp only [Kept.upd] | simp only [Kept.updTop] | simp only [Kept.updHif] | simp only [Kept.updSpill]
    | simp only [Kept.updJrn] | dsimp only | split | intro

theorem Kept.dropCmd (s : State) (key : Nat × Nat × Nat) (hk : Kept Q G s) : Kept Q G (dropCmd s key) := by
  unfold Sys2Proof.Machine.dropCmd
  with_reducible repeat' first
    | assumption | simp only [Kept.upd] | simp only [Kept.updTop] | simp only [Kept.updHif] | simp only [Kept.updSpill]
    | simp only [Kept.updJrn] | dsimp only | split | intro

theorem Kept.orphanCmd (s : State) (c : HostCmd) (status : Nat) (hk : Kept Q G s) : Kept Q G (orphanCmd s c status) := by
  unfold Sys2Proof.Machine.orphanCmd
  with_reducible repeat' first
    | assumption | apply Kept.settleDone | apply Kept.orphan | apply Kept.dropCmd | simp only [Kept.upd]
    | simp only [Kept.updTop] | simp only [Kept.updHif] | simp only [Kept.updSpill] | simp only [Kept.updJrn] | dsimp only
    | split | intro

theorem Kept.complete (s : State) (c : HostCmd) (status : Nat) (result : List Byte) (hk : Kept Q G s)
    : Kept Q G (complete s c status result) := by
  unfold Sys2Proof.Machine.complete
  with_reducible repeat' first
    | assumption | apply Kept.orphanCmd | apply Kept.setPhase | apply Kept.notify | simp only [Kept.upd]
    | simp only [Kept.updTop] | simp only [Kept.updHif] | simp only [Kept.updSpill] | simp only [Kept.updJrn] | dsimp only
    | split | intro

theorem Kept.hostWrite (s : State) (addr : Nat) (data : List Byte) (hk : Kept Q G s) : Kept Q G (hostWrite s addr data) := by
  unfold Sys2Proof.Machine.hostWrite
  with_reducible repeat' first
    | assumption | apply Kept.emit | simp only [Kept.upd] | simp only [Kept.updTop] | simp only [Kept.updHif]
    | simp only [Kept.updSpill] | simp only [Kept.updJrn] | dsimp only | split | intro

theorem Kept.dataOut (s : State) (c : HostCmd) (data : List Byte) (hk : Kept Q G s) : Kept Q G (dataOut s c data) := by
  unfold Sys2Proof.Machine.dataOut
  with_reducible repeat' first
    | assumption | apply Kept.hostWrite | simp only [Kept.upd] | simp only [Kept.updTop] | simp only [Kept.updHif]
    | simp only [Kept.updSpill] | simp only [Kept.updJrn] | dsimp only | split | intro

theorem Kept.completeData (s : State) (c : HostCmd) (status : Nat) (result data : List Byte) (hk : Kept Q G s)
    : Kept Q G (completeData s c status result data) := by
  unfold Sys2Proof.Machine.completeData
  with_reducible repeat' first
    | assumption | apply Kept.complete | apply Kept.dataOut | simp only [Kept.upd] | simp only [Kept.updTop]
    | simp only [Kept.updHif] | simp only [Kept.updSpill] | simp only [Kept.updJrn] | dsimp only | split | intro

theorem Kept.runCmd (s : State) (c : HostCmd) (row : CmdRow) (body : State → State) (hk : Kept Q G s)
    (hf : ∀ t, Kept Q G t → Kept Q G (body t)) : Kept Q G (runCmd s c row body) := by
  unfold Sys2Proof.Machine.runCmd
  with_reducible repeat' first
    | assumption | apply hf | apply Kept.setPhase | simp only [Kept.upd] | simp only [Kept.updTop] | simp only [Kept.updHif]
    | simp only [Kept.updSpill] | simp only [Kept.updJrn] | dsimp only | split | intro

theorem Kept.refuseForm (s : State) (c : HostCmd) (hk : Kept Q G s) : Kept Q G (refuseForm s c) := by
  unfold Sys2Proof.Machine.refuseForm
  with_reducible repeat' first
    | assumption | apply Kept.setPhase | apply Kept.complete | simp only [Kept.upd] | simp only [Kept.updTop]
    | simp only [Kept.updHif] | simp only [Kept.updSpill] | simp only [Kept.updJrn] | dsimp only | split | intro

theorem Kept.refuseForms (s : State) (hk : Kept Q G s) : Kept Q G (refuseForms s) := by
  unfold Sys2Proof.Machine.refuseForms
  with_reducible repeat' first
    | assumption | apply Kept.forEach | apply Kept.refuseForm | simp only [Kept.upd] | simp only [Kept.updTop]
    | simp only [Kept.updHif] | simp only [Kept.updSpill] | simp only [Kept.updJrn] | dsimp only | split | intro

theorem Kept.notify (s : State) (n kind : Nat) (payload : List Byte) (hk : Kept Q G s)
    : Kept Q G (notify s n kind payload) := by
  unfold Sys2Proof.Machine.notify
  with_reducible repeat' first
    | assumption | simp only [Kept.upd] | simp only [Kept.updTop] | simp only [Kept.updHif] | simp only [Kept.updSpill]
    | simp only [Kept.updJrn] | dsimp only | split | intro

theorem Kept.atCrossing (s : State) (shut : Bool) (h : Held) (f : State → State) (hk : Kept Q G s)
    (hf : ∀ t, Kept Q G t → Kept Q G (f t)) : Kept Q G (atCrossing s shut h f) := by
  unfold Sys2Proof.Machine.atCrossing
  with_reducible repeat' first
    | assumption | apply hf | simp only [Kept.upd] | simp only [Kept.updTop] | simp only [Kept.updHif]
    | simp only [Kept.updSpill] | simp only [Kept.updJrn] | dsimp only | split | intro

theorem Kept.holdWrite (s : State) (isl a : Nat) (v : Word) (f : State → State) (hk : Kept Q G s)
    (hf : ∀ t, Kept Q G t → Kept Q G (f t)) : Kept Q G (holdWrite s isl a v f) := by
  unfold Sys2Proof.Machine.holdWrite
  with_reducible repeat' first
    | assumption | apply hf | apply Kept.atCrossing | simp only [Kept.upd] | simp only [Kept.updTop]
    | simp only [Kept.updHif] | simp only [Kept.updSpill] | simp only [Kept.updJrn] | dsimp only | split | intro

theorem Kept.setDom (s : State) (d : Dom) (x : Domain) (hk : Kept Q G s) : Kept Q G (setDom s d x) := by
  unfold Sys2Proof.Machine.setDom
  with_reducible repeat' first
    | assumption | simp only [Kept.upd] | simp only [Kept.updTop] | simp only [Kept.updHif] | simp only [Kept.updSpill]
    | simp only [Kept.updJrn] | dsimp only | split | intro

theorem Kept.setLands (s : State) (f : Lands → Lands) (hk : Kept Q G s) : Kept Q G (setLands s f) := by
  unfold Sys2Proof.Machine.setLands
  with_reducible repeat' first
    | assumption | simp only [Kept.upd] | simp only [Kept.updTop] | simp only [Kept.updHif] | simp only [Kept.updSpill]
    | simp only [Kept.updJrn] | dsimp only | split | intro

theorem Kept.landsPcie (s : State) (up : Bool) (hk : Kept Q G s) : Kept Q G (landsPcie s up) := by
  unfold Sys2Proof.Machine.landsPcie
  with_reducible repeat' first
    | assumption | apply Kept.setLands | simp only [Kept.upd] | simp only [Kept.updTop] | simp only [Kept.updHif]
    | simp only [Kept.updSpill] | simp only [Kept.updJrn] | dsimp only | split | intro

theorem Kept.landsFlash (s : State) (hk : Kept Q G s) : Kept Q G (landsFlash s) := by
  unfold Sys2Proof.Machine.landsFlash
  with_reducible repeat' first
    | assumption | apply Kept.setLands | simp only [Kept.upd] | simp only [Kept.updTop] | simp only [Kept.updHif]
    | simp only [Kept.updSpill] | simp only [Kept.updJrn] | dsimp only | split | intro

theorem Kept.landsFirmware (s : State) (hk : Kept Q G s) : Kept Q G (landsFirmware s) := by
  unfold Sys2Proof.Machine.landsFirmware
  with_reducible repeat' first
    | assumption | apply Kept.setLands | simp only [Kept.upd] | simp only [Kept.updTop] | simp only [Kept.updHif]
    | simp only [Kept.updSpill] | simp only [Kept.updJrn] | dsimp only | split | intro

theorem Kept.landsIo (s : State) (mv : Nat) (hk : Kept Q G s) : Kept Q G (landsIo s mv) := by
  unfold Sys2Proof.Machine.landsIo
  with_reducible repeat' first
    | assumption | apply Kept.setLands | simp only [Kept.upd] | simp only [Kept.updTop] | simp only [Kept.updHif]
    | simp only [Kept.updSpill] | simp only [Kept.updJrn] | dsimp only | split | intro



theorem Kept.jrnWarn (before : Nat) (s : State) (hk : Kept Q G s) : Kept Q G (jrnWarn before s) := by
  unfold Sys2Proof.Machine.jrnWarn
  with_reducible repeat' first
    | assumption | apply Kept.whenB | apply Kept.raise | simp only [Kept.upd] | simp only [Kept.updTop]
    | simp only [Kept.updHif] | simp only [Kept.updSpill] | simp only [Kept.updJrn] | dsimp only | split | intro

theorem jrnSwap_host (j : Journal) (l : Nat) : (jrnSwap j l).host = j.host := by
  unfold jrnSwap
  dsimp only
  split
  · rfl
  · split
    · simp only [jrnWear, jrnRemap, jrnWriteAnchor, jrnWriteTable]; split <;> split <;> rfl
    · rfl

theorem jrnSwaps_host (l : List Nat) (j : Journal) : (l.foldl jrnSwap j).host = j.host := by
  induction l generalizing j with
  | nil => rfl
  | cons x r ih => exact (ih _).trans (jrnSwap_host _ _)

theorem jrnRemap_host (j : Journal) (l p : Nat) : (jrnRemap j l p).host = j.host := by
  simp only [jrnRemap, jrnWriteAnchor, jrnWriteTable]; split <;> split <;> rfl

theorem Kept.jrnTouch (s : State) (lines : List Nat) (hk : Kept Q G s) : Kept Q G (jrnTouch s lines) := by
  unfold Sys2Proof.Machine.jrnTouch
  refine Kept.jrnWarn _ _ (Kept.modJrn hk fun h => ?_)
  rw [jrnSwaps_host]
  exact h

theorem Kept.jrnRetire (s : State) (l : Nat) (hk : Kept Q G s) : Kept Q G (jrnRetire s l) := by
  unfold Sys2Proof.Machine.jrnRetire
  dsimp only
  split
  · refine Kept.jrnWarn _ _ (Kept.modJrn hk fun h => ?_)
    simp only [jrnWear, jrnRemap_host]; exact h
  · split
    · refine Kept.raise _ _ (Kept.jrnWarn _ _ (Kept.modJrn hk fun h => ?_))
      simp only [jrnWear, jrnRemap_host]; exact h
    · split
      · exact Kept.modJrn hk fun h => h
      · exact Kept.raise _ _ (Kept.modJrn hk fun h => h)

theorem Kept.jrnFailed (failed : List Nat) (s : State) (hk : Kept Q G s) : Kept Q G (jrnFailed failed s) := by
  unfold Sys2Proof.Machine.jrnFailed
  with_reducible repeat' first
    | assumption | apply Kept.forEach | apply Kept.jrnRetire | simp only [Kept.upd] | simp only [Kept.updTop]
    | simp only [Kept.updHif] | simp only [Kept.updSpill] | simp only [Kept.updJrn] | dsimp only | split | intro

theorem Kept.secCount (s : State) (k : Nat) (hk : Kept Q G s) : Kept Q G (secCount s k) := by
  unfold Sys2Proof.Machine.secCount
  with_reducible repeat' first
    | assumption | apply Kept.add64 | simp only [Kept.upd] | simp only [Kept.updTop] | simp only [Kept.updHif]
    | simp only [Kept.updSpill] | simp only [Kept.updJrn] | dsimp only | split | intro

theorem Kept.jrnTagged (s : State) (part : Nat) (ok : Bool) (hk : Kept Q G s) : Kept Q G (jrnTagged s part ok) := by
  unfold Sys2Proof.Machine.jrnTagged
  with_reducible repeat' first
    | assumption | apply Kept.whenB | apply Kept.secCount | simp only [Kept.upd] | simp only [Kept.updTop]
    | simp only [Kept.updHif] | simp only [Kept.updSpill] | simp only [Kept.updJrn] | dsimp only | split | intro

theorem Kept.jrnStore (s : State) (e : JrnEntry) (hk : Kept Q G s) : Kept Q G (jrnStore s e) := by
  unfold Sys2Proof.Machine.jrnStore
  with_reducible repeat' first
    | assumption | rfl | exact fun h => h | apply Kept.jrnTouch | apply Kept.modJrn | simp only [Kept.upd]
    | simp only [Kept.updTop] | simp only [Kept.updHif] | simp only [Kept.updSpill] | simp only [Kept.updJrn] | dsimp only
    | split | intro

theorem Kept.jrnPut (s : State) (e : JrnEntry) (hk : Kept Q G s) : Kept Q G (jrnPut s e) := by
  unfold Sys2Proof.Machine.jrnPut
  with_reducible repeat' first
    | assumption | apply Kept.jrnStore | apply Kept.jrnTagged | simp only [Kept.upd] | simp only [Kept.updTop]
    | simp only [Kept.updHif] | simp only [Kept.updSpill] | simp only [Kept.updJrn] | dsimp only | split | intro

theorem Kept.jrnLog (s : State) (e : SysEntry) (hk : Kept Q G s) : Kept Q G (jrnLog s e) := by
  unfold Sys2Proof.Machine.jrnLog
  with_reducible repeat' first
    | assumption | apply Kept.jrnStore | simp only [Kept.upd] | simp only [Kept.updTop] | simp only [Kept.updHif]
    | simp only [Kept.updSpill] | simp only [Kept.updJrn] | dsimp only | split | intro

theorem Kept.jrnOwe (s : State) (e : JrnEntry) (hk : Kept Q G s) : Kept Q G (jrnOwe s e) := by
  unfold Sys2Proof.Machine.jrnOwe
  with_reducible repeat' first
    | assumption | apply Kept.whenB | apply Kept.emit | apply Kept.jrnPut | simp only [Kept.upd] | simp only [Kept.updTop]
    | simp only [Kept.updHif] | simp only [Kept.updSpill] | simp only [Kept.updJrn] | dsimp only | split | intro

theorem Kept.jrnOweFault (s : State) (e : FaultEntry) (hk : Kept Q G s) : Kept Q G (jrnOweFault s e) := by
  unfold Sys2Proof.Machine.jrnOweFault
  with_reducible repeat' first
    | assumption | apply Kept.jrnStore | simp only [Kept.upd] | simp only [Kept.updTop] | simp only [Kept.updHif]
    | simp only [Kept.updSpill] | simp only [Kept.updJrn] | dsimp only | split | intro

theorem Kept.jrnFlush (s : State) (hk : Kept Q G s) : Kept Q G (jrnFlush s) := by
  unfold Sys2Proof.Machine.jrnFlush
  with_reducible repeat' first
    | assumption | apply Kept.forEach | apply Kept.jrnOwe | simp only [Kept.upd] | simp only [Kept.updTop]
    | simp only [Kept.updHif] | simp only [Kept.updSpill] | simp only [Kept.updJrn] | dsimp only | split | intro

theorem Kept.faultRecord (s : State) (id access requester address syndrome : Nat) (hk : Kept Q G s)
    : Kept Q G (faultRecord s id access requester address syndrome) := by
  unfold Sys2Proof.Machine.faultRecord
  with_reducible repeat' first
    | assumption | apply Kept.add64 | apply Kept.satF | apply Kept.setReg | apply Kept.setReg64 | apply Kept.jrnOweFault
    | apply Kept.raise | simp only [Kept.upd] | simp only [Kept.updTop] | simp only [Kept.updHif] | simp only [Kept.updSpill]
    | simp only [Kept.updJrn] | dsimp only | split | intro

theorem Kept.fault (s : State) (id access requester address syndrome : Nat) (hk : Kept Q G s)
    : Kept Q G (fault s id access requester address syndrome) := by
  unfold Sys2Proof.Machine.fault
  with_reducible repeat' first
    | assumption | apply Kept.raise | apply Kept.faultRecord | simp only [Kept.upd] | simp only [Kept.updTop]
    | simp only [Kept.updHif] | simp only [Kept.updSpill] | simp only [Kept.updJrn] | dsimp only | split | intro

theorem Kept.jrnDrop (s : State) (r : JrnRecord) (hk : Kept Q G s) : Kept Q G (jrnDrop s r) :=
  Kept.raise _ _ (Kept.modJrn hk fun h => mapWfFrom_filter h)

theorem Kept.jrnTorn (s : State) (b : JrnRec) (hk : Kept Q G s) : Kept Q G (jrnTorn s b) := by
  unfold Sys2Proof.Machine.jrnTorn
  with_reducible repeat' first
    | assumption | rfl | exact fun h => h | apply Kept.raise | apply Kept.modJrn | simp only [Kept.upd]
    | simp only [Kept.updTop] | simp only [Kept.updHif] | simp only [Kept.updSpill] | simp only [Kept.updJrn] | dsimp only
    | split | intro

theorem Kept.journalStart (bad : List JrnRec) (s : State) (hk : Kept Q G s) : Kept Q G (journalStart bad s) := by
  unfold Sys2Proof.Machine.journalStart
  with_reducible repeat' first
    | assumption | rfl | exact fun h => h | apply Kept.forEach | apply Kept.jrnTagged | apply Kept.jrnTorn
    | apply Kept.jrnDrop | apply Kept.modJrn | apply Kept.whenB | apply Kept.jrnLog | simp only [Kept.upd]
    | simp only [Kept.updTop] | simp only [Kept.updHif] | simp only [Kept.updSpill] | simp only [Kept.updJrn] | dsimp only
    | split | intro

theorem Kept.jrnReads (s : State) (pick : JrnEntry → Bool) (hk : Kept Q G s) : Kept Q G (jrnReads s pick) := by
  unfold Sys2Proof.Machine.jrnReads
  with_reducible repeat' first
    | assumption | apply Kept.forEach | apply Kept.whenB | apply Kept.jrnDrop | apply Kept.jrnTagged | apply Kept.drawn
    | simp only [Kept.upd] | simp only [Kept.updTop] | simp only [Kept.updHif] | simp only [Kept.updSpill]
    | simp only [Kept.updJrn] | dsimp only | split | intro

theorem Kept.jrnChecked (s : State) (badLines : List Nat) (c : HostCmd) (hk : Kept Q G s)
    : Kept Q G (jrnChecked s badLines c) := by
  unfold Sys2Proof.Machine.jrnChecked
  with_reducible repeat' first
    | assumption | apply Kept.forEach | apply Kept.jrnTagged | simp only [Kept.upd] | simp only [Kept.updTop]
    | simp only [Kept.updHif] | simp only [Kept.updSpill] | simp only [Kept.updJrn] | dsimp only | split | intro

theorem Kept.doJrnRead (badLines : List Nat) (c : HostCmd) (s : State) (hk : Kept Q G s)
    : Kept Q G (doJrnRead badLines c s) := by
  unfold Sys2Proof.Machine.doJrnRead
  with_reducible repeat' first
    | assumption | apply Kept.jrnChecked | apply Kept.completeData | apply Kept.complete | simp only [Kept.upd]
    | simp only [Kept.updTop] | simp only [Kept.updHif] | simp only [Kept.updSpill] | simp only [Kept.updJrn] | dsimp only
    | split | intro

theorem Kept.doJrnWrite (badLines failed : List Nat) (c : HostCmd) (s : State) (hk : Kept Q G s) :
    Kept Q G (doJrnWrite badLines failed c s) := by
  have hc := Kept.jrnChecked s badLines c hk
  unfold Sys2Proof.Machine.doJrnWrite
  split
  · apply Kept.complete
    apply Kept.jrnFailed
    apply Kept.jrnPut
    exact Kept.modJrn hc fun h => mapWf_foldl_put h
  · exact Kept.complete _ _ _ _ hc

theorem Kept.execJrnRead (cmd : HostCmd) (badLines : List Nat) (s : State) (hk : Kept Q G s)
    : KeptO Q G (execJrnRead cmd badLines s) := by
  unfold Sys2Proof.Machine.execJrnRead
  with_reducible repeat' first
    | assumption | apply Kept.runCmd | apply Kept.doJrnRead | apply KeptO.next | simp only [Kept.upd]
    | simp only [Kept.updTop] | simp only [Kept.updHif] | simp only [Kept.updSpill] | simp only [Kept.updJrn] | dsimp only
    | split | intro

theorem Kept.execJrnWrite (cmd : HostCmd) (badLines failedBlocks : List Nat) (s : State) (hk : Kept Q G s)
    : KeptO Q G (execJrnWrite cmd badLines failedBlocks s) := by
  unfold Sys2Proof.Machine.execJrnWrite
  with_reducible repeat' first
    | assumption | apply Kept.runCmd | apply Kept.doJrnWrite | apply KeptO.next | simp only [Kept.upd]
    | simp only [Kept.updTop] | simp only [Kept.updHif] | simp only [Kept.updSpill] | simp only [Kept.updJrn] | dsimp only
    | split | intro

theorem Kept.ledgerAdd (s : State) (key a b : Nat) (hk : Kept Q G s) : Kept Q G (ledgerAdd s key a b) := by
  unfold Sys2Proof.Machine.ledgerAdd
  with_reducible repeat' first
    | assumption | simp only [Kept.upd] | simp only [Kept.updTop] | simp only [Kept.updHif] | simp only [Kept.updSpill]
    | simp only [Kept.updJrn] | dsimp only | split | intro

theorem Kept.ledgerPacket (s : State) (key : Nat) (p : Packet) (hk : Kept Q G s) : Kept Q G (ledgerPacket s key p) := by
  unfold Sys2Proof.Machine.ledgerPacket
  with_reducible repeat' first
    | assumption | apply Kept.ledgerAdd | simp only [Kept.upd] | simp only [Kept.updTop] | simp only [Kept.updHif]
    | simp only [Kept.updSpill] | simp only [Kept.updJrn] | dsimp only | split | intro

theorem Kept.pmcBump (fuel : Nat) (s : State) (n k : Nat) (hk : Kept Q G s) :
    Kept Q G (pmcBump fuel s n k) := by
  induction fuel generalizing s n k with
  | zero => exact hk
  | succ f ih =>
    unfold Sys2Proof.Machine.pmcBump
    repeat' first
      | with_reducible assumption | with_reducible apply ih | with_reducible apply Kept.whenB
      | with_reducible apply Kept.setReg | with_reducible apply Kept.raise | dsimp only | split | intro

theorem Kept.noteAct (s : State) (k n : Nat) (hk : Kept Q G s) : Kept Q G (noteAct s k n) := by
  unfold Sys2Proof.Machine.noteAct
  with_reducible repeat' first
    | assumption | simp only [Kept.upd] | simp only [Kept.updTop] | simp only [Kept.updHif] | simp only [Kept.updSpill]
    | simp only [Kept.updJrn] | dsimp only | split | intro

theorem Kept.pmcAdd (s : State) (n k : Nat) (hk : Kept Q G s) : Kept Q G (pmcAdd s n k) := by
  unfold Sys2Proof.Machine.pmcAdd
  with_reducible repeat' first
    | assumption | apply Kept.noteAct | apply Kept.pmcBump | simp only [Kept.upd] | simp only [Kept.updTop]
    | simp only [Kept.updHif] | simp only [Kept.updSpill] | simp only [Kept.updJrn] | dsimp only | split | intro

theorem Kept.pmcEvent (s : State) (n k : Nat) (hk : Kept Q G s) : Kept Q G (pmcEvent s n k) := by
  unfold Sys2Proof.Machine.pmcEvent
  with_reducible repeat' first
    | assumption | apply Kept.pmcAdd | simp only [Kept.upd] | simp only [Kept.updTop] | simp only [Kept.updHif]
    | simp only [Kept.updSpill] | simp only [Kept.updJrn] | dsimp only | split | intro

theorem Kept.pmcBeats (s : State) (m ch : Nat) (hk : Kept Q G s) : Kept Q G (pmcBeats s m ch) := by
  unfold Sys2Proof.Machine.pmcBeats
  with_reducible repeat' first
    | assumption | apply Kept.pmcAdd | simp only [Kept.upd] | simp only [Kept.updTop] | simp only [Kept.updHif]
    | simp only [Kept.updSpill] | simp only [Kept.updJrn] | dsimp only | split | intro

theorem Kept.execPmcCountWrite (n : Nat) (value : Word) (occurrences : Nat) (s : State) (hk : Kept Q G s)
    : KeptO Q G (execPmcCountWrite n value occurrences s) := by
  unfold Sys2Proof.Machine.execPmcCountWrite
  with_reducible repeat' first
    | assumption | apply Kept.holdWrite | apply Kept.pmcEvent | apply Kept.setReg | apply KeptO.next | simp only [Kept.upd]
    | simp only [Kept.updTop] | simp only [Kept.updHif] | simp only [Kept.updSpill] | simp only [Kept.updJrn] | dsimp only
    | split | intro

theorem Kept.addTal (s : State) (k : Nat) (hk : Kept Q G s) : Kept Q G (addTal s k) := by
  unfold Sys2Proof.Machine.addTal
  with_reducible repeat' first
    | assumption | apply Kept.add64 | simp only [Kept.upd] | simp only [Kept.updTop] | simp only [Kept.updHif]
    | simp only [Kept.updSpill] | simp only [Kept.updJrn] | dsimp only | split | intro

theorem Kept.recordLost (s : State) (hk : Kept Q G s) : Kept Q G (recordLost s) := by
  unfold Sys2Proof.Machine.recordLost
  with_reducible repeat' first
    | assumption | apply Kept.raiseLimited | apply Kept.addTal | simp only [Kept.upd] | simp only [Kept.updTop]
    | simp only [Kept.updHif] | simp only [Kept.updSpill] | simp only [Kept.updJrn] | dsimp only | split | intro

theorem Kept.exportHand (s : State) (r : ExpRec) (hk : Kept Q G s) : Kept Q G (exportHand s r) := by
  unfold Sys2Proof.Machine.exportHand
  with_reducible repeat' first
    | assumption | apply Kept.addTal | apply Kept.recordLost | simp only [Kept.upd] | simp only [Kept.updTop]
    | simp only [Kept.updHif] | simp only [Kept.updSpill] | simp only [Kept.updJrn] | dsimp only | split | intro

theorem Kept.postcard (s : State) (pipe : Nat) (t : Tally) (isDrop : Bool) (hk : Kept Q G s)
    : Kept Q G (postcard s pipe t isDrop) := by
  unfold Sys2Proof.Machine.postcard
  with_reducible repeat' first
    | assumption | apply Kept.exportHand | simp only [Kept.upd] | simp only [Kept.updTop] | simp only [Kept.updHif]
    | simp only [Kept.updSpill] | simp only [Kept.updJrn] | dsimp only | split | intro

theorem Kept.dropRecord (s : State) (pipe reason : Nat) (p : Packet) (t : Tally) (hk : Kept Q G s)
    : Kept Q G (dropRecord s pipe reason p t) := by
  unfold Sys2Proof.Machine.dropRecord
  with_reducible repeat' first
    | assumption | apply Kept.postcard | apply Kept.ledgerPacket | simp only [Kept.upd] | simp only [Kept.updTop]
    | simp only [Kept.updHif] | simp only [Kept.updSpill] | simp only [Kept.updJrn] | dsimp only | split | intro

theorem Kept.histograms (s : State) (l lat qdly : Nat) (p : Packet) (hk : Kept Q G s)
    : Kept Q G (histograms s l lat qdly p) := by
  unfold Sys2Proof.Machine.histograms
  with_reducible repeat' first
    | assumption | apply Kept.ledgerPacket | simp only [Kept.upd] | simp only [Kept.updTop] | simp only [Kept.updHif]
    | simp only [Kept.updSpill] | simp only [Kept.updJrn] | dsimp only | split | intro

theorem Kept.holdUnit (s : State) (ua pool cls id : Nat) (hk : Kept Q G s) : Kept Q G (holdUnit s ua pool cls id) := by
  unfold Sys2Proof.Machine.holdUnit
  with_reducible repeat' first
    | assumption | apply Kept.setF | apply Kept.pmcEvent | apply Kept.setBit | simp only [Kept.upd] | simp only [Kept.updTop]
    | simp only [Kept.updHif] | simp only [Kept.updSpill] | simp only [Kept.updJrn] | dsimp only | split | intro

theorem Kept.syncEmpty (s : State) (hk : Kept Q G s) : Kept Q G (syncEmpty s) := by
  unfold Sys2Proof.Machine.syncEmpty
  with_reducible repeat' first
    | assumption | apply Kept.setBit | simp only [Kept.upd] | simp only [Kept.updTop] | simp only [Kept.updHif]
    | simp only [Kept.updSpill] | simp only [Kept.updJrn] | dsimp only | split | intro

theorem Kept.freeUnit (s : State) (ua : Nat) (hk : Kept Q G s) : Kept Q G (freeUnit s ua) := by
  unfold Sys2Proof.Machine.freeUnit
  with_reducible repeat' first
    | assumption | apply Kept.whenB | apply Kept.setF | apply Kept.pmcEvent | apply Kept.syncEmpty | simp only [Kept.upd]
    | simp only [Kept.updTop] | simp only [Kept.updHif] | simp only [Kept.updSpill] | simp only [Kept.updJrn] | dsimp only
    | split | intro

theorem Kept.retag (s : State) (ua cls id : Nat) (hk : Kept Q G s) : Kept Q G (retag s ua cls id) := by
  unfold Sys2Proof.Machine.retag
  with_reducible repeat' first
    | assumption | simp only [Kept.upd] | simp only [Kept.updTop] | simp only [Kept.updHif] | simp only [Kept.updSpill]
    | simp only [Kept.updJrn] | dsimp only | split | intro

theorem Kept.grantPool (s : State) (rq pool cls id : Nat) (k : UClass) (hk : Kept Q G s)
    : Kept Q G (grantPool s rq pool cls id k).1 := by
  unfold Sys2Proof.Machine.grantPool
  with_reducible repeat' first
    | assumption | apply Kept.holdUnit | simp only [Kept.upd] | simp only [Kept.updTop] | simp only [Kept.updHif]
    | simp only [Kept.updSpill] | simp only [Kept.updJrn] | dsimp only | split | intro

theorem Kept.fallBack (s : State) (hk : Kept Q G s) : Kept Q G (fallBack s) := by
  unfold Sys2Proof.Machine.fallBack
  with_reducible repeat' first
    | assumption | apply Kept.add64 | simp only [Kept.upd] | simp only [Kept.updTop] | simp only [Kept.updHif]
    | simp only [Kept.updSpill] | simp only [Kept.updJrn] | dsimp only | split | intro

theorem Kept.requestUnit (s : State) (rq pool cls id : Nat) (k : UClass) (hk : Kept Q G s)
    : Kept Q G (requestUnit s rq pool cls id k).1 := by
  unfold Sys2Proof.Machine.requestUnit
  with_reducible repeat' first
    | assumption | apply Kept.fallBack | apply Kept.grantPool | apply Kept.whenB | apply Kept.pmcEvent | apply Kept.foldl
    | apply Kept.foldl1 | simp only [Kept.upd] | simp only [Kept.updTop] | simp only [Kept.updHif]
    | simp only [Kept.updSpill] | simp only [Kept.updJrn] | dsimp only | split | intro

theorem Kept.freeRefused (s : State) (requester ua : Nat) (hk : Kept Q G s) : Kept Q G (freeRefused s requester ua) := by
  unfold Sys2Proof.Machine.freeRefused
  with_reducible repeat' first
    | assumption | apply Kept.fault | apply Kept.add64 | simp only [Kept.upd] | simp only [Kept.updTop]
    | simp only [Kept.updHif] | simp only [Kept.updSpill] | simp only [Kept.updJrn] | dsimp only | split | intro

theorem Kept.addF21 (s : State) (a : Nat) (d : Int) (hk : Kept Q G s) : Kept Q G (addF21 s a d) := by
  unfold Sys2Proof.Machine.addF21
  with_reducible repeat' first
    | assumption | apply Kept.setF | simp only [Kept.upd] | simp only [Kept.updTop] | simp only [Kept.updHif]
    | simp only [Kept.updSpill] | simp only [Kept.updJrn] | dsimp only | split | intro

theorem Kept.addOcc (s : State) (q : Nat) (d : Int) (hk : Kept Q G s) : Kept Q G (addOcc s q d) := by
  unfold Sys2Proof.Machine.addOcc
  with_reducible repeat' first
    | assumption | apply Kept.addF21 | simp only [Kept.upd] | simp only [Kept.updTop] | simp only [Kept.updHif]
    | simp only [Kept.updSpill] | simp only [Kept.updJrn] | dsimp only | split | intro

theorem Kept.addHostUsed (s : State) (d : Int) (hk : Kept Q G s) : Kept Q G (addHostUsed s d) := by
  unfold Sys2Proof.Machine.addHostUsed
  with_reducible repeat' first
    | assumption | apply Kept.addF21 | simp only [Kept.upd] | simp only [Kept.updTop] | simp only [Kept.updHif]
    | simp only [Kept.updSpill] | simp only [Kept.updJrn] | dsimp only | split | intro

theorem Kept.setQueue (s : State) (q : Nat) (l : List Copy) (hk : Kept Q G s) : Kept Q G (setQueue s q l) := by
  unfold Sys2Proof.Machine.setQueue
  with_reducible repeat' first
    | assumption | simp only [Kept.upd] | simp only [Kept.updTop] | simp only [Kept.updHif] | simp only [Kept.updSpill]
    | simp only [Kept.updJrn] | dsimp only | split | intro

theorem Kept.enqueue (s : State) (q : Nat) (c : Copy) (hk : Kept Q G s) : Kept Q G (enqueue s q c) := by
  unfold Sys2Proof.Machine.enqueue
  with_reducible repeat' first
    | assumption | apply Kept.setQueue | simp only [Kept.upd] | simp only [Kept.updTop] | simp only [Kept.updHif]
    | simp only [Kept.updSpill] | simp only [Kept.updJrn] | dsimp only | split | intro

theorem Kept.noteShare (s : State) (kind q n : Nat) (hk : Kept Q G s) : Kept Q G (noteShare s kind q n) := by
  unfold Sys2Proof.Machine.noteShare
  with_reducible repeat' first
    | assumption | simp only [Kept.upd] | simp only [Kept.updTop] | simp only [Kept.updHif] | simp only [Kept.updSpill]
    | simp only [Kept.updJrn] | dsimp only | split | intro

theorem Kept.noteAdmitted (s : State) (c : Copy) (hk : Kept Q G s) : Kept Q G (noteAdmitted s c) := by
  unfold Sys2Proof.Machine.noteAdmitted
  with_reducible repeat' first
    | assumption | apply Kept.noteShare | simp only [Kept.upd] | simp only [Kept.updTop] | simp only [Kept.updHif]
    | simp only [Kept.updSpill] | simp only [Kept.updJrn] | dsimp only | split | intro

theorem Kept.mapPackets (s : State) (f : Packet → Packet) (hk : Kept Q G s) : Kept Q G (mapPackets s f) := by
  unfold Sys2Proof.Machine.mapPackets
  with_reducible repeat' first
    | assumption | simp only [Kept.upd] | simp only [Kept.updTop] | simp only [Kept.updHif] | simp only [Kept.updSpill]
    | simp only [Kept.updJrn] | dsimp only | split | intro

theorem Kept.setSpq (s : State) (q : Nat) (x : SpillQ) (hk : Kept Q G s) : Kept Q G (setSpq s q x) := by
  unfold Sys2Proof.Machine.setSpq
  with_reducible repeat' first
    | assumption | simp only [Kept.upd] | simp only [Kept.updTop] | simp only [Kept.updHif] | simp only [Kept.updSpill]
    | simp only [Kept.updJrn] | dsimp only | split | intro

theorem Kept.addSpl (s : State) (k n : Nat) (hk : Kept Q G s) : Kept Q G (addSpl s k n) := by
  unfold Sys2Proof.Machine.addSpl
  with_reducible repeat' first
    | assumption | apply Kept.add64 | simp only [Kept.upd] | simp only [Kept.updTop] | simp only [Kept.updHif]
    | simp only [Kept.updSpill] | simp only [Kept.updJrn] | dsimp only | split | intro

theorem Kept.setStagingFree (s : State) (n : Nat) (hk : Kept Q G s) : Kept Q G (setStagingFree s n) := by
  unfold Sys2Proof.Machine.setStagingFree
  with_reducible repeat' first
    | assumption | apply Kept.setF | simp only [Kept.upd] | simp only [Kept.updTop] | simp only [Kept.updHif]
    | simp only [Kept.updSpill] | simp only [Kept.updJrn] | dsimp only | split | intro

theorem Kept.takePage (s : State) (m : Nat) (hk : Kept Q G s) : Kept Q G (takePage s m).1 := by
  unfold Sys2Proof.Machine.takePage
  with_reducible repeat' first
    | assumption | apply Kept.setF | simp only [Kept.upd] | simp only [Kept.updTop] | simp only [Kept.updHif]
    | simp only [Kept.updSpill] | simp only [Kept.updJrn] | dsimp only | split | intro

theorem Kept.givePage (s : State) (m p : Nat) (hk : Kept Q G s) : Kept Q G (givePage s m p) := by
  unfold Sys2Proof.Machine.givePage
  with_reducible repeat' first
    | assumption | apply Kept.setF | simp only [Kept.upd] | simp only [Kept.updTop] | simp only [Kept.updHif]
    | simp only [Kept.updSpill] | simp only [Kept.updJrn] | dsimp only | split | intro

theorem Kept.spillEnter (s : State) (q m : Nat) (hk : Kept Q G s) : Kept Q G (spillEnter s q m) := by
  unfold Sys2Proof.Machine.spillEnter
  with_reducible repeat' first
    | assumption | apply Kept.setSpq | apply Kept.addSpl | apply Kept.setF | simp only [Kept.upd] | simp only [Kept.updTop]
    | simp only [Kept.updHif] | simp only [Kept.updSpill] | simp only [Kept.updJrn] | dsimp only | split | intro

theorem Kept.openNext (s : State) (q : Nat) (hk : Kept Q G s) : Kept Q G (openNext s q) := by
  unfold Sys2Proof.Machine.openNext
  with_reducible repeat' first
    | assumption | apply Kept.takePage | apply Kept.setSpq | simp only [Kept.upd] | simp only [Kept.updTop]
    | simp only [Kept.updHif] | simp only [Kept.updSpill] | simp only [Kept.updJrn] | dsimp only | split | intro

theorem Kept.spillHandoff (s : State) (q : Nat) (c : Copy) (hk : Kept Q G s) : Kept Q G (spillHandoff s q c).1 := by
  unfold Sys2Proof.Machine.spillHandoff
  with_reducible repeat' first
    | assumption | apply Kept.openNext | apply Kept.setSpq | apply Kept.addSpl | apply Kept.setStagingFree
    | apply Kept.noteShare | apply Kept.noteAdmitted | simp only [Kept.upd] | simp only [Kept.updTop]
    | simp only [Kept.updHif] | simp only [Kept.updSpill] | simp only [Kept.updJrn] | dsimp only | split | intro

theorem Kept.spillExit (s : State) (q : Nat) (hk : Kept Q G s) : Kept Q G (spillExit s q) := by
  unfold Sys2Proof.Machine.spillExit
  with_reducible repeat' first
    | assumption | apply Kept.forEach | apply Kept.givePage | apply Kept.setBit | apply Kept.setSpq | simp only [Kept.upd]
    | simp only [Kept.updTop] | simp only [Kept.updHif] | simp only [Kept.updSpill] | simp only [Kept.updJrn] | dsimp only
    | split | intro

theorem Kept.spillCount (s : State) (reason : Nat) (hk : Kept Q G s) : Kept Q G (spillCount s reason) := by
  unfold Sys2Proof.Machine.spillCount
  with_reducible repeat' first
    | assumption | apply Kept.raiseLimited | apply Kept.addSpl | simp only [Kept.upd] | simp only [Kept.updTop]
    | simp only [Kept.updHif] | simp only [Kept.updSpill] | simp only [Kept.updJrn] | dsimp only | split | intro

theorem Kept.notePitch (s : State) (q : Nat) (hk : Kept Q G s) : Kept Q G (notePitch s q) := by
  unfold Sys2Proof.Machine.notePitch
  with_reducible repeat' first
    | assumption | apply Kept.setF | simp only [Kept.upd] | simp only [Kept.updTop] | simp only [Kept.updHif]
    | simp only [Kept.updSpill] | simp only [Kept.updJrn] | dsimp only | split | intro

theorem Kept.updXoff (s : State) (l n : Nat) (hk : Kept Q G s) : Kept Q G (updXoff s l n) := by
  unfold Sys2Proof.Machine.updXoff
  with_reducible repeat' first
    | assumption | apply Kept.setBit | simp only [Kept.upd] | simp only [Kept.updTop] | simp only [Kept.updHif]
    | simp only [Kept.updSpill] | simp only [Kept.updJrn] | dsimp only | split | intro

theorem Kept.addIng (s : State) (f : MFrame) (d : Int) (hk : Kept Q G s) : Kept Q G (addIng s f d) := by
  unfold Sys2Proof.Machine.addIng
  with_reducible repeat' first
    | assumption | apply Kept.addF21 | apply Kept.updXoff | simp only [Kept.upd] | simp only [Kept.updTop]
    | simp only [Kept.updHif] | simp only [Kept.updSpill] | simp only [Kept.updJrn] | dsimp only | split | intro

theorem Kept.ecnApply (s : State) (p : Packet) (q : Nat) (hk : Kept Q G s) : Kept Q G (ecnApply s p q).1 := by
  unfold Sys2Proof.Machine.ecnApply
  with_reducible repeat' first
    | assumption | apply Kept.drawn | simp only [Kept.upd] | simp only [Kept.updTop] | simp only [Kept.updHif]
    | simp only [Kept.updSpill] | simp only [Kept.updJrn] | dsimp only | split | intro

theorem Kept.putFrame (s : State) (f : MFrame) (hk : Kept Q G s) : Kept Q G (putFrame s f) := by
  unfold Sys2Proof.Machine.putFrame
  with_reducible repeat' first
    | assumption | simp only [Kept.upd] | simp only [Kept.updTop] | simp only [Kept.updHif] | simp only [Kept.updSpill]
    | simp only [Kept.updJrn] | dsimp only | split | intro

theorem Kept.dropFrameRec (s : State) (id : Nat) (hk : Kept Q G s) : Kept Q G (dropFrameRec s id) := by
  unfold Sys2Proof.Machine.dropFrameRec
  with_reducible repeat' first
    | assumption | simp only [Kept.upd] | simp only [Kept.updTop] | simp only [Kept.updHif] | simp only [Kept.updSpill]
    | simp only [Kept.updJrn] | dsimp only | split | intro

theorem Kept.takeChain (fuel : Nat) (s : State) (rq n : Nat) (tag : Nat × Nat) (k : UClass)
    (hk : Kept Q G s) : Kept Q G (takeChain fuel s rq n tag k).1 := by
  induction fuel generalizing s n with
  | zero => exact hk
  | succ f ih =>
    unfold Sys2Proof.Machine.takeChain
    repeat' first
      | with_reducible assumption | with_reducible apply ih | with_reducible apply Kept.requestUnit | dsimp only | split
      | intro

theorem Kept.takeUnits (s : State) (rq : Nat) (p : Packet) (tag : Nat × Nat) (k : UClass) (hk : Kept Q G s)
    : Kept Q G (takeUnits s rq p tag k).1 := by
  unfold Sys2Proof.Machine.takeUnits
  with_reducible repeat' first
    | assumption | apply Kept.requestUnit | apply Kept.takeChain | simp only [Kept.upd] | simp only [Kept.updTop]
    | simp only [Kept.updHif] | simp only [Kept.updSpill] | simp only [Kept.updJrn] | dsimp only | split | intro

theorem Kept.enqueueCopies (s : State) (p : Packet) (cs : List Copy) (units : List Nat) (hclass : Bool) (hk : Kept Q G s)
    : Kept Q G (enqueueCopies s p cs units hclass) := by
  unfold Sys2Proof.Machine.enqueueCopies
  with_reducible repeat' first
    | assumption | apply Kept.forEach | apply Kept.retag | apply Kept.addIng | apply Kept.putFrame | apply Kept.noteAdmitted
    | apply Kept.addOcc | apply Kept.enqueue | simp only [Kept.upd] | simp only [Kept.updTop] | simp only [Kept.updHif]
    | simp only [Kept.updSpill] | simp only [Kept.updJrn] | dsimp only | split | intro

theorem Kept.shareCopies (s : State) (f : MFrame) (cs : List Copy) (hk : Kept Q G s) : Kept Q G (shareCopies s f cs) := by
  unfold Sys2Proof.Machine.shareCopies
  with_reducible repeat' first
    | assumption | apply Kept.forEach | apply Kept.retag | apply Kept.putFrame | apply Kept.noteAdmitted | apply Kept.addOcc
    | apply Kept.enqueue | simp only [Kept.upd] | simp only [Kept.updTop] | simp only [Kept.updHif]
    | simp only [Kept.updSpill] | simp only [Kept.updJrn] | dsimp only | split | intro

theorem Kept.freeByCopy (s : State) (q u : Nat) (hk : Kept Q G s) : Kept Q G (freeByCopy s q u) := by
  unfold Sys2Proof.Machine.freeByCopy
  with_reducible repeat' first
    | assumption | apply Kept.freeUnit | apply Kept.freeRefused | simp only [Kept.upd] | simp only [Kept.updTop]
    | simp only [Kept.updHif] | simp only [Kept.updSpill] | simp only [Kept.updJrn] | dsimp only | split | intro

theorem Kept.releaseCopy (s : State) (c : Copy) (hk : Kept Q G s) : Kept Q G (releaseCopy s c) := by
  unfold Sys2Proof.Machine.releaseCopy
  with_reducible repeat' first
    | assumption | apply Kept.addOcc | apply Kept.addIng | apply Kept.forEach | apply Kept.freeByCopy
    | apply Kept.dropFrameRec | apply Kept.retag | apply Kept.putFrame | simp only [Kept.upd] | simp only [Kept.updTop]
    | simp only [Kept.updHif] | simp only [Kept.updSpill] | simp only [Kept.updJrn] | dsimp only | split | intro

theorem Kept.spillStep (r : State × List Copy × List (Copy × Nat)) (c : Copy) (hk : Kept Q G r.1)
    : Kept Q G (spillStep r c).1 := by
  unfold Sys2Proof.Machine.spillStep
  with_reducible repeat' first
    | assumption | apply Kept.spillHandoff | apply Kept.spillExit | apply Kept.spillEnter | simp only [Kept.upd]
    | simp only [Kept.updTop] | simp only [Kept.updHif] | simp only [Kept.updSpill] | simp only [Kept.updJrn] | dsimp only
    | split | intro

theorem Kept.placeCopies (s : State) (p : Packet) (cs : List Copy) (units : List Nat) (hclass : Bool) (hk : Kept Q G s)
    : Kept Q G (placeCopies s p cs units hclass) := by
  unfold Sys2Proof.Machine.placeCopies
  with_reducible repeat' first
    | assumption | apply Kept.forEach | apply Kept.add64 | apply Kept.enqueueCopies | simp only [Kept.upd]
    | simp only [Kept.updTop] | simp only [Kept.updHif] | simp only [Kept.updSpill] | simp only [Kept.updJrn] | dsimp only
    | split | intro

theorem Kept.placeFails (s : State) (cs : List Copy) (units : List Nat) (hk : Kept Q G s)
    : Kept Q G (placeFails s cs units).1 := by
  unfold Sys2Proof.Machine.placeFails
  with_reducible repeat' first
    | assumption | apply Kept.forEach | apply Kept.freeUnit | simp only [Kept.upd] | simp only [Kept.updTop]
    | simp only [Kept.updHif] | simp only [Kept.updSpill] | simp only [Kept.updJrn] | dsimp only | split | intro

theorem Kept.takeMore (s : State) (rq : Nat) (p : Packet) (units : List Nat) (hk : Kept Q G s)
    : Kept Q G (takeMore s rq p units).1 := by
  unfold Sys2Proof.Machine.takeMore
  with_reducible repeat' first
    | assumption | apply Kept.takeUnits | apply Kept.takeChain | simp only [Kept.upd] | simp only [Kept.updTop]
    | simp only [Kept.updHif] | simp only [Kept.updSpill] | simp only [Kept.updJrn] | dsimp only | split | intro

theorem Kept.placeMarket (s : State) (rq : Nat) (p : Packet) (cs : List Copy) (hclass : Bool) (hk : Kept Q G s)
    : Kept Q G (placeMarket s rq p cs hclass).1 := by
  unfold Sys2Proof.Machine.placeMarket
  with_reducible repeat' first
    | assumption | apply Kept.shareCopies | apply Kept.takeUnits | apply Kept.placeCopies | apply Kept.placeFails
    | apply Kept.takeMore | simp only [Kept.upd] | simp only [Kept.updTop] | simp only [Kept.updHif]
    | simp only [Kept.updSpill] | simp only [Kept.updJrn] | dsimp only | split | intro

theorem Kept.ecnCount (s : State) (k : Option Bool) (kept : Bool) (hk : Kept Q G s) : Kept Q G (ecnCount s k kept) := by
  unfold Sys2Proof.Machine.ecnCount
  with_reducible repeat' first
    | assumption | apply Kept.add64 | simp only [Kept.upd] | simp only [Kept.updTop] | simp only [Kept.updHif]
    | simp only [Kept.updSpill] | simp only [Kept.updJrn] | dsimp only | split | intro

theorem Kept.admitCopies (s : State) (rq : Nat) (p : Packet) (cs : List Copy) (hk : Kept Q G s)
    : Kept Q G (admitCopies s rq p cs).1 := by
  unfold Sys2Proof.Machine.admitCopies
  with_reducible repeat' first
    | assumption | apply Kept.forEach | apply Kept.notePitch | apply Kept.ecnApply | apply Kept.spillStep
    | apply Kept.placeMarket | apply Kept.ecnCount | apply Kept.foldl | apply Kept.foldl1 | simp only [Kept.upd]
    | simp only [Kept.updTop] | simp only [Kept.updHif] | simp only [Kept.updSpill] | simp only [Kept.updJrn] | dsimp only
    | split | intro

theorem Kept.sessionTakes (s : State) (k : Nat) (hk : Kept Q G s) : Kept Q G (sessionTakes s k).1 := by
  unfold Sys2Proof.Machine.sessionTakes
  with_reducible repeat' first
    | assumption | simp only [Kept.upd] | simp only [Kept.updTop] | simp only [Kept.updHif] | simp only [Kept.updSpill]
    | simp only [Kept.updJrn] | dsimp only | split | intro

theorem Kept.dropCopy (s : State) (pipe reason : Nat) (p : Packet) (t : Tally) (hk : Kept Q G s)
    : Kept Q G (dropCopy s pipe reason p t) := by
  unfold Sys2Proof.Machine.dropCopy
  with_reducible repeat' first
    | assumption | apply Kept.sessionTakes | apply Kept.admitCopies | apply Kept.addTal | apply Kept.raiseLimited
    | simp only [Kept.upd] | simp only [Kept.updTop] | simp only [Kept.updHif] | simp only [Kept.updSpill]
    | simp only [Kept.updJrn] | dsimp only | split | intro

theorem Kept.dropPacket (s : State) (pipe reason : Nat) (p : Packet) (t : Tally) (hk : Kept Q G s)
    : Kept Q G (dropPacket s pipe reason p t) := by
  unfold Sys2Proof.Machine.dropPacket
  with_reducible repeat' first
    | assumption | apply Kept.spillCount | apply Kept.dropRecord | apply Kept.raiseLimited | apply Kept.dropCopy
    | simp only [Kept.upd] | simp only [Kept.updTop] | simp only [Kept.updHif] | simp only [Kept.updSpill]
    | simp only [Kept.updJrn] | dsimp only | split | intro

theorem Kept.dropQueued (s : State) (c : Copy) (reason : Nat) (hk : Kept Q G s) : Kept Q G (dropQueued s c reason) := by
  unfold Sys2Proof.Machine.dropQueued
  with_reducible repeat' first
    | assumption | apply Kept.releaseCopy | apply Kept.dropPacket | simp only [Kept.upd] | simp only [Kept.updTop]
    | simp only [Kept.updHif] | simp only [Kept.updSpill] | simp only [Kept.updJrn] | dsimp only | split | intro

theorem Kept.dropRefused (s : State) (pipe : Nat) (l : List (Copy × Nat)) (hk : Kept Q G s)
    : Kept Q G (dropRefused s pipe l) := by
  unfold Sys2Proof.Machine.dropRefused
  with_reducible repeat' first
    | assumption | apply Kept.forEach | apply Kept.dropPacket | simp only [Kept.upd] | simp only [Kept.updTop]
    | simp only [Kept.updHif] | simp only [Kept.updSpill] | simp only [Kept.updJrn] | dsimp only | split | intro

theorem Kept.putCell (s : State) (m ch page : Nat) (b : List Byte) (hk : Kept Q G s) :
    Kept Q G (putCell s m ch page b) := by
  unfold Sys2Proof.Machine.putCell
  exact Kept.withHbm hk fun h => mapWf_mapPut (d := fun _ => []) h

theorem Kept.execPageFlushTimer (queue : Nat) (s : State) (hk : Kept Q G s) : KeptO Q G (execPageFlushTimer queue s) := by
  unfold Sys2Proof.Machine.execPageFlushTimer
  with_reducible repeat' first
    | assumption | apply Kept.setSpq | apply KeptO.next | simp only [Kept.upd] | simp only [Kept.updTop]
    | simp only [Kept.updHif] | simp only [Kept.updSpill] | simp only [Kept.updJrn] | dsimp only | split | intro

theorem Kept.addXfer (s : State) (t : Xfer) (hk : Kept Q G s) : Kept Q G (addXfer s t) := by
  unfold Sys2Proof.Machine.addXfer
  with_reducible repeat' first
    | assumption | simp only [Kept.upd] | simp only [Kept.updTop] | simp only [Kept.updHif] | simp only [Kept.updSpill]
    | simp only [Kept.updJrn] | dsimp only | split | intro

theorem Kept.dropXfer (s : State) (t : Xfer) (hk : Kept Q G s) : Kept Q G (dropXfer s t) := by
  unfold Sys2Proof.Machine.dropXfer
  with_reducible repeat' first
    | assumption | simp only [Kept.upd] | simp only [Kept.updTop] | simp only [Kept.updHif] | simp only [Kept.updSpill]
    | simp only [Kept.updJrn] | dsimp only | split | intro

theorem Kept.execPageWriteStart (queue : Nat) (s : State) (hk : Kept Q G s) : KeptO Q G (execPageWriteStart queue s) := by
  unfold Sys2Proof.Machine.execPageWriteStart
  with_reducible repeat' first
    | assumption | apply Kept.whenB | apply Kept.openNext | apply Kept.setSpq | apply Kept.addXfer | apply KeptO.next
    | simp only [Kept.upd] | simp only [Kept.updTop] | simp only [Kept.updHif] | simp only [Kept.updSpill]
    | simp only [Kept.updJrn] | dsimp only | split | intro

theorem Kept.dropSpilled (s : State) (q reason : Nat) (r : Record) (hk : Kept Q G s)
    : Kept Q G (dropSpilled s q reason r) := by
  unfold Sys2Proof.Machine.dropSpilled
  with_reducible repeat' first
    | assumption | apply Kept.dropPacket | simp only [Kept.upd] | simp only [Kept.updTop] | simp only [Kept.updHif]
    | simp only [Kept.updSpill] | simp only [Kept.updJrn] | dsimp only | split | intro

theorem Kept.freeDrain (s : State) (q : Nat) (units : List (List Nat)) (hk : Kept Q G s)
    : Kept Q G (freeDrain s q units) := by
  unfold Sys2Proof.Machine.freeDrain
  with_reducible repeat' first
    | assumption | apply Kept.addOcc | apply Kept.forEach | apply Kept.freeUnit | simp only [Kept.upd]
    | simp only [Kept.updTop] | simp only [Kept.updHif] | simp only [Kept.updSpill] | simp only [Kept.updJrn] | dsimp only
    | split | intro

theorem Kept.dropHbmPart (s : State) (q reason : Nat) (hk : Kept Q G s) : Kept Q G (dropHbmPart s q reason) := by
  unfold Sys2Proof.Machine.dropHbmPart
  with_reducible repeat' first
    | assumption | apply Kept.forEach | apply Kept.dropXfer | apply Kept.freeDrain | apply Kept.dropSpilled
    | apply Kept.setStagingFree | apply Kept.setF | apply Kept.setBit | apply Kept.setSpq | apply Kept.foldl
    | apply Kept.foldl1 | simp only [Kept.upd] | simp only [Kept.updTop] | simp only [Kept.updHif]
    | simp only [Kept.updSpill] | simp only [Kept.updJrn] | dsimp only | split | intro

theorem Kept.loseStack (s : State) (m : Nat) (hk : Kept Q G s) : Kept Q G (loseStack s m) := by
  unfold Sys2Proof.Machine.loseStack
  with_reducible repeat' first
    | assumption | apply Kept.raise | apply Kept.setBit | apply Kept.clearBringup | apply Kept.forEach
    | apply Kept.dropHbmPart | apply Kept.whenB | simp only [Kept.upd] | simp only [Kept.updTop] | simp only [Kept.updHif]
    | simp only [Kept.updSpill] | simp only [Kept.updJrn] | dsimp only | split | intro

theorem Kept.retireChannel (s : State) (m c : Nat) (hk : Kept Q G s) : Kept Q G (retireChannel s m c) := by
  unfold Sys2Proof.Machine.retireChannel
  with_reducible repeat' first
    | assumption | apply Kept.raise | apply Kept.setBit | apply Kept.loseStack | simp only [Kept.upd]
    | simp only [Kept.updTop] | simp only [Kept.updHif] | simp only [Kept.updSpill] | simp only [Kept.updJrn] | dsimp only
    | split | intro

theorem Kept.noteChErr (s : State) (m c : Nat) (hk : Kept Q G s) : Kept Q G (noteChErr s m c) := by
  unfold Sys2Proof.Machine.noteChErr
  with_reducible repeat' first
    | assumption | apply Kept.satF | apply Kept.retireChannel | simp only [Kept.upd] | simp only [Kept.updTop]
    | simp only [Kept.updHif] | simp only [Kept.updSpill] | simp only [Kept.updJrn] | dsimp only | split | intro

theorem Kept.noteChCorr (s : State) (m c : Nat) (hk : Kept Q G s) : Kept Q G (noteChCorr s m c) := by
  unfold Sys2Proof.Machine.noteChCorr
  with_reducible repeat' first
    | assumption | apply Kept.pmcBeats | apply Kept.satF | simp only [Kept.upd] | simp only [Kept.updTop]
    | simp only [Kept.updHif] | simp only [Kept.updSpill] | simp only [Kept.updJrn] | dsimp only | split | intro

theorem Kept.rebuiltRecord (s : State) (requester access m c page : Nat) (hk : Kept Q G s)
    : Kept Q G (rebuiltRecord s requester access m c page) := by
  unfold Sys2Proof.Machine.rebuiltRecord
  with_reducible repeat' first
    | assumption | apply Kept.fault | apply Kept.addSpl | simp only [Kept.upd] | simp only [Kept.updTop]
    | simp only [Kept.updHif] | simp only [Kept.updSpill] | simp only [Kept.updJrn] | dsimp only | split | intro

theorem Kept.execPageWriteCommit (stack tag : Nat) (failedCh : List Nat) (s : State) (hk : Kept Q G s)
    : KeptO Q G (execPageWriteCommit stack tag failedCh s) := by
  unfold Sys2Proof.Machine.execPageWriteCommit
  with_reducible repeat' first
    | assumption | apply Kept.forEach | apply Kept.pmcBeats | apply Kept.noteAct | apply Kept.putCell | apply Kept.setSpq
    | apply Kept.setStagingFree | apply Kept.dropXfer | apply Kept.addSpl | apply Kept.setF | apply Kept.noteChErr
    | apply KeptO.next | simp only [Kept.upd] | simp only [Kept.updTop] | simp only [Kept.updHif] | simp only [Kept.updSpill]
    | simp only [Kept.updJrn] | dsimp only | split | intro

theorem Kept.drainUnits (s : State) (recs : List Record) (hk : Kept Q G s) :
    ∀ x, drainUnits s recs = some x → Kept Q G x.1 := by
  unfold Sys2Proof.Machine.drainUnits
  suffices ∀ (l : List Record) (acc : Option (State × List (List Nat))), (∀ x, acc = some x → Kept Q G x.1) →
      ∀ x, l.foldl _ acc = some x → Kept Q G x.1 from this recs _ (by rintro x ⟨⟩; exact hk)
  intro l
  induction l with
  | nil => exact fun acc h x hx => h x hx
  | cons r rest ih =>
    intro acc h
    apply ih
    intro x hx
    dsimp only at hx
    split at hx
    · cases hx
    · rename_i s' us
      have h0 := h _ rfl
      split at hx
      · cases hx
        dsimp only
        refine Kept.foldl1 (s := (s', [])) h0 ?_
        intro t y ht
        exact Kept.requestUnit _ _ _ _ _ _ ht
      · cases hx

theorem Kept.deliverFrame (s : State) (q : Nat) (r : Record) (b : List Byte) (units : List Nat) (hk : Kept Q G s)
    : Kept Q G (deliverFrame s q r b units) := by
  unfold Sys2Proof.Machine.deliverFrame
  with_reducible repeat' first
    | assumption | apply Kept.addIng | apply Kept.putFrame | apply Kept.forEach | apply Kept.retag | apply Kept.addSpl
    | apply Kept.noteShare | apply Kept.enqueue | simp only [Kept.upd] | simp only [Kept.updTop] | simp only [Kept.updHif]
    | simp only [Kept.updSpill] | simp only [Kept.updJrn] | dsimp only | split | intro

theorem Kept.deliverAll (s : State) (q : Nat) (lost : Bool) (l : List (Record × List Nat))
    (stream : List Byte) (cl : Bool) (hk : Kept Q G s) : Kept Q G (deliverAll s q lost l stream cl).1 := by
  induction l generalizing s stream cl with
  | nil => exact hk
  | cons x rest ih =>
    obtain ⟨r, us⟩ := x
    unfold Sys2Proof.Machine.deliverAll
    apply ih
    with_reducible repeat' first
      | assumption | apply Kept.dropSpilled | apply Kept.freeDrain | apply Kept.deliverFrame | split

theorem Kept.commitRead (s : State) (t : Xfer) (d : Option (List Byte)) (hk : Kept Q G s) : Kept Q G (commitRead s t d) := by
  unfold Sys2Proof.Machine.commitRead
  with_reducible repeat' first
    | assumption | apply Kept.deliverAll | apply Kept.dropXfer | apply Kept.setSpq | apply Kept.whenB | apply Kept.raise
    | apply Kept.setStagingFree | apply Kept.addSpl | apply Kept.setF | apply Kept.givePage | simp only [Kept.upd]
    | simp only [Kept.updTop] | simp only [Kept.updHif] | simp only [Kept.updSpill] | simp only [Kept.updJrn] | dsimp only
    | split | intro

theorem Kept.commitReads (fuel : Nat) (s : State) (q : Nat) (hk : Kept Q G s) :
    Kept Q G (commitReads fuel s q) := by
  induction fuel generalizing s with
  | zero => exact hk
  | succ f ih =>
    unfold Sys2Proof.Machine.commitReads
    repeat' first
      | with_reducible assumption | with_reducible apply ih | with_reducible apply Kept.commitRead | dsimp only | split
      | intro

theorem Kept.settleReads (s : State) (q : Nat) (hk : Kept Q G s) : Kept Q G (settleReads s q) := by
  unfold Sys2Proof.Machine.settleReads
  with_reducible repeat' first
    | assumption | apply Kept.spillExit | apply Kept.commitReads | simp only [Kept.upd] | simp only [Kept.updTop]
    | simp only [Kept.updHif] | simp only [Kept.updSpill] | simp only [Kept.updJrn] | dsimp only | split | intro

theorem Kept.execPageReadStart (queue : Nat) (s : State) (hk : Kept Q G s) :
    KeptO Q G (execPageReadStart queue s) := by
  unfold Sys2Proof.Machine.execPageReadStart
  apply KeptO.next
  dsimp only
  split
  · exact hk
  · split
    · split
      · exact hk
      · split
        · rename_i tag s' us h1 h2
          exact Kept.addXfer _ _ (Kept.setSpq _ _ _ (Kept.addOcc _ _ _ (Kept.drainUnits _ _ hk _ h2)))
        · exact hk
    · split
      · exact hk
      · split
        · exact hk
        · rename_i s' us h2
          exact Kept.settleReads _ _ (Kept.addSpl _ _ _
            (Kept.addXfer _ _ (Kept.setSpq _ _ _ (Kept.addOcc _ _ _ (Kept.drainUnits _ _ hk _ h2)))))

theorem Kept.execPageReadCommit (stack tag : Nat) (corrCh badCh : List Nat) (s : State) (hk : Kept Q G s)
    : KeptO Q G (execPageReadCommit stack tag corrCh badCh s) := by
  unfold Sys2Proof.Machine.execPageReadCommit
  with_reducible repeat' first
    | assumption | apply Kept.forEach | apply Kept.pmcBeats | apply Kept.noteAct | apply Kept.noteChCorr
    | apply Kept.settleReads | apply Kept.noteChErr | apply Kept.rebuiltRecord | apply Kept.whenB | apply KeptO.next
    | simp only [Kept.upd] | simp only [Kept.updTop] | simp only [Kept.updHif] | simp only [Kept.updSpill]
    | simp only [Kept.updJrn] | dsimp only | split | intro

theorem Kept.execChRetire (stack : Nat) (value : Word) (s : State) (hk : Kept Q G s)
    : KeptO Q G (execChRetire stack value s) := by
  unfold Sys2Proof.Machine.execChRetire
  with_reducible repeat' first
    | assumption | apply Kept.holdWrite | apply Kept.retireChannel | apply KeptO.next | simp only [Kept.upd]
    | simp only [Kept.updTop] | simp only [Kept.updHif] | simp only [Kept.updSpill] | simp only [Kept.updJrn] | dsimp only
    | split | intro

theorem Kept.execStackLost (stack : Nat) (s : State) (hk : Kept Q G s) : KeptO Q G (execStackLost stack s) := by
  unfold Sys2Proof.Machine.execStackLost
  with_reducible repeat' first
    | assumption | apply Kept.loseStack | apply KeptO.next | simp only [Kept.upd] | simp only [Kept.updTop]
    | simp only [Kept.updHif] | simp only [Kept.updSpill] | simp only [Kept.updJrn] | dsimp only | split | intro

theorem Kept.execHbmNoResponse (stack tag : Nat) (s : State) (hk : Kept Q G s)
    : KeptO Q G (execHbmNoResponse stack tag s) := by
  unfold Sys2Proof.Machine.execHbmNoResponse
  with_reducible repeat' first
    | assumption | apply Kept.loseStack | apply KeptO.next | simp only [Kept.upd] | simp only [Kept.updTop]
    | simp only [Kept.updHif] | simp only [Kept.updSpill] | simp only [Kept.updJrn] | dsimp only | split | intro

theorem Kept.execHbmRefresh (stack ch temp : Nat) (s : State) (hk : Kept Q G s)
    : KeptO Q G (execHbmRefresh stack ch temp s) := by
  unfold Sys2Proof.Machine.execHbmRefresh
  with_reducible repeat' first
    | assumption | apply Kept.setBit | apply Kept.setF | apply KeptO.next | simp only [Kept.upd] | simp only [Kept.updTop]
    | simp only [Kept.updHif] | simp only [Kept.updSpill] | simp only [Kept.updJrn] | dsimp only | split | intro

theorem Kept.mendCell (s : State) (m page ch : Nat) (hk : Kept Q G s) : Kept Q G (mendCell s m page ch) := by
  unfold Sys2Proof.Machine.mendCell
  with_reducible repeat' first
    | assumption | simp only [Kept.upd] | simp only [Kept.updTop] | simp only [Kept.updHif] | simp only [Kept.updSpill]
    | simp only [Kept.updJrn] | dsimp only | split | intro

theorem Kept.execPatrolScrub (stack page ch : Nat) (corr uncorr : Bool) (s : State) (hk : Kept Q G s)
    : KeptO Q G (execPatrolScrub stack page ch corr uncorr s) := by
  unfold Sys2Proof.Machine.execPatrolScrub
  with_reducible repeat' first
    | assumption | apply Kept.whenB | apply Kept.noteChCorr | apply Kept.pmcBeats | apply Kept.noteChErr | apply Kept.forEach
    | apply Kept.mendCell | apply Kept.putCell | apply Kept.rebuiltRecord | apply KeptO.next | simp only [Kept.upd]
    | simp only [Kept.updTop] | simp only [Kept.updHif] | simp only [Kept.updSpill] | simp only [Kept.updJrn] | dsimp only
    | split | intro

theorem Kept.splCfgBad (s : State) (hk : Kept Q G s) : Kept Q G (splCfgBad s) := by
  unfold Sys2Proof.Machine.splCfgBad
  with_reducible repeat' first
    | assumption | apply Kept.raise | apply Kept.setBit | simp only [Kept.upd] | simp only [Kept.updTop]
    | simp only [Kept.updHif] | simp only [Kept.updSpill] | simp only [Kept.updJrn] | dsimp only | split | intro

theorem Kept.diagCtrl (s : State) (m : Nat) (v : Word) (hk : Kept Q G s) : Kept Q G (diagCtrl s m v) := by
  unfold Sys2Proof.Machine.diagCtrl
  with_reducible repeat' first
    | assumption | apply Kept.setF | apply Kept.splCfgBad | simp only [Kept.upd] | simp only [Kept.updTop]
    | simp only [Kept.updHif] | simp only [Kept.updSpill] | simp only [Kept.updJrn] | dsimp only | split | intro

theorem Kept.diagAccess (m : Nat) (v : Word) (f : Nat → Nat → State → State) (s : State)
    (hf : ∀ x0 x1 t, Kept Q G t → Kept Q G (f x0 x1 t)) (hk : Kept Q G s) : Kept Q G (diagAccess m v f s) := by
  unfold Sys2Proof.Machine.diagAccess
  with_reducible repeat' first
    | assumption | apply hf | apply Kept.diagCtrl | apply Kept.setBit | apply Kept.pmcBeats | simp only [Kept.upd]
    | simp only [Kept.updTop] | simp only [Kept.updHif] | simp only [Kept.updSpill] | simp only [Kept.updJrn] | dsimp only
    | split | intro

theorem Kept.execDiagCellRead (stack : Nat) (value : Word) (s : State) (hk : Kept Q G s)
    : KeptO Q G (execDiagCellRead stack value s) := by
  unfold Sys2Proof.Machine.execDiagCellRead
  with_reducible repeat' first
    | assumption | apply Kept.holdWrite | apply Kept.diagAccess | apply Kept.forEach | apply Kept.setReg | apply KeptO.next
    | simp only [Kept.upd] | simp only [Kept.updTop] | simp only [Kept.updHif] | simp only [Kept.updSpill]
    | simp only [Kept.updJrn] | dsimp only | split | intro

theorem Kept.execDiagCellWrite (stack : Nat) (value : Word) (s : State) (hk : Kept Q G s)
    : KeptO Q G (execDiagCellWrite stack value s) := by
  unfold Sys2Proof.Machine.execDiagCellWrite
  with_reducible repeat' first
    | assumption | apply Kept.holdWrite | apply Kept.diagCtrl | apply Kept.diagAccess | apply Kept.putCell | apply KeptO.next
    | simp only [Kept.upd] | simp only [Kept.updTop] | simp only [Kept.updHif] | simp only [Kept.updSpill]
    | simp only [Kept.updJrn] | dsimp only | split | intro

theorem Kept.execWatchdogPageFree (queue : Nat) (s : State) (hk : Kept Q G s)
    : KeptO Q G (execWatchdogPageFree queue s) := by
  unfold Sys2Proof.Machine.execWatchdogPageFree
  with_reducible repeat' first
    | assumption | apply Kept.forEach | apply Kept.dropXfer | apply Kept.freeDrain | apply Kept.dropSpilled
    | apply Kept.givePage | apply Kept.setStagingFree | apply Kept.setF | apply Kept.setSpq | apply Kept.spillExit
    | apply Kept.foldl | apply Kept.foldl1 | apply KeptO.next | simp only [Kept.upd] | simp only [Kept.updTop]
    | simp only [Kept.updHif] | simp only [Kept.updSpill] | simp only [Kept.updJrn] | dsimp only | split | intro

theorem Kept.tick (s : State) (hk : Kept Q G s) : Kept Q G (tick s) := by
  unfold Sys2Proof.Machine.tick
  with_reducible repeat' first
    | assumption | apply Kept.setReg64 | simp only [Kept.upd] | simp only [Kept.updTop] | simp only [Kept.updHif]
    | simp only [Kept.updSpill] | simp only [Kept.updJrn] | dsimp only | split | intro

theorem Kept.setSlots (s : State) (l : Nat) (x : SlotPair) (hk : Kept Q G s) : Kept Q G (setSlots s l x) := by
  unfold Sys2Proof.Machine.setSlots
  with_reducible repeat' first
    | assumption | simp only [Kept.upd] | simp only [Kept.updTop] | simp only [Kept.updHif] | simp only [Kept.updSpill]
    | simp only [Kept.updJrn] | dsimp only | split | intro

theorem Kept.syncSlotStatus (s : State) (l : Nat) (hk : Kept Q G s) : Kept Q G (syncSlotStatus s l) := by
  unfold Sys2Proof.Machine.syncSlotStatus
  with_reducible repeat' first
    | assumption | apply Kept.setReg | simp only [Kept.upd] | simp only [Kept.updTop] | simp only [Kept.updHif]
    | simp only [Kept.updSpill] | simp only [Kept.updJrn] | dsimp only | split | intro

theorem Kept.slotWrite (c : HostCmd) (s : State) (hk : Kept Q G s) : Kept Q G (slotWrite c s) := by
  unfold Sys2Proof.Machine.slotWrite
  with_reducible repeat' first
    | assumption | apply Kept.complete | apply Kept.setSlots | simp only [Kept.upd] | simp only [Kept.updTop]
    | simp only [Kept.updHif] | simp only [Kept.updSpill] | simp only [Kept.updJrn] | dsimp only | split | intro

theorem Kept.slotArm (c : HostCmd) (s : State) (hk : Kept Q G s) : Kept Q G (slotArm c s) := by
  unfold Sys2Proof.Machine.slotArm
  with_reducible repeat' first
    | assumption | apply Kept.complete | apply Kept.setSlots | apply Kept.setReg64 | apply Kept.whenB | apply Kept.raise
    | apply Kept.setBit | apply Kept.syncSlotStatus | simp only [Kept.upd] | simp only [Kept.updTop]
    | simp only [Kept.updHif] | simp only [Kept.updSpill] | simp only [Kept.updJrn] | dsimp only | split | intro

theorem Kept.slotCancel (c : HostCmd) (s : State) (hk : Kept Q G s) : Kept Q G (slotCancel c s) := by
  unfold Sys2Proof.Machine.slotCancel
  with_reducible repeat' first
    | assumption | apply Kept.complete | apply Kept.syncSlotStatus | apply Kept.setSlots | simp only [Kept.upd]
    | simp only [Kept.updTop] | simp only [Kept.updHif] | simp only [Kept.updSpill] | simp only [Kept.updJrn] | dsimp only
    | split | intro

theorem Kept.slotRead (c : HostCmd) (s : State) (hk : Kept Q G s) : Kept Q G (slotRead c s) := by
  unfold Sys2Proof.Machine.slotRead
  with_reducible repeat' first
    | assumption | apply Kept.complete | apply Kept.completeData | simp only [Kept.upd] | simp only [Kept.updTop]
    | simp only [Kept.updHif] | simp only [Kept.updSpill] | simp only [Kept.updJrn] | dsimp only | split | intro

theorem Kept.execSlotStageWrite (cmd : HostCmd) (s : State) (hk : Kept Q G s) : KeptO Q G (execSlotStageWrite cmd s) := by
  unfold Sys2Proof.Machine.execSlotStageWrite
  with_reducible repeat' first
    | assumption | apply Kept.runCmd | apply Kept.slotWrite | apply KeptO.next | simp only [Kept.upd]
    | simp only [Kept.updTop] | simp only [Kept.updHif] | simp only [Kept.updSpill] | simp only [Kept.updJrn] | dsimp only
    | split | intro

theorem Kept.execSlotStageArm (cmd : HostCmd) (s : State) (hk : Kept Q G s) : KeptO Q G (execSlotStageArm cmd s) := by
  unfold Sys2Proof.Machine.execSlotStageArm
  with_reducible repeat' first
    | assumption | apply Kept.runCmd | apply Kept.slotArm | apply KeptO.next | simp only [Kept.upd] | simp only [Kept.updTop]
    | simp only [Kept.updHif] | simp only [Kept.updSpill] | simp only [Kept.updJrn] | dsimp only | split | intro

theorem Kept.execSlotStageCancel (cmd : HostCmd) (s : State) (hk : Kept Q G s) : KeptO Q G (execSlotStageCancel cmd s) := by
  unfold Sys2Proof.Machine.execSlotStageCancel
  with_reducible repeat' first
    | assumption | apply Kept.runCmd | apply Kept.slotCancel | apply KeptO.next | simp only [Kept.upd]
    | simp only [Kept.updTop] | simp only [Kept.updHif] | simp only [Kept.updSpill] | simp only [Kept.updJrn] | dsimp only
    | split | intro

theorem Kept.execSlotStageRead (cmd : HostCmd) (s : State) (hk : Kept Q G s) : KeptO Q G (execSlotStageRead cmd s) := by
  unfold Sys2Proof.Machine.execSlotStageRead
  with_reducible repeat' first
    | assumption | apply Kept.runCmd | apply Kept.slotRead | apply KeptO.next | simp only [Kept.upd]
    | simp only [Kept.updTop] | simp only [Kept.updHif] | simp only [Kept.updSpill] | simp only [Kept.updJrn] | dsimp only
    | split | intro

theorem Kept.takeSwitch (s : State) (l : Nat) (hk : Kept Q G s) : Kept Q G (takeSwitch s l) := by
  unfold Sys2Proof.Machine.takeSwitch
  with_reducible repeat' first
    | assumption | apply Kept.setSlots | apply Kept.raise | apply Kept.syncSlotStatus | apply Kept.setBit
    | simp only [Kept.upd] | simp only [Kept.updTop] | simp only [Kept.updHif] | simp only [Kept.updSpill]
    | simp only [Kept.updJrn] | dsimp only | split | intro

theorem Kept.execSlotSwitch (lane : Nat) (s : State) (hk : Kept Q G s) : KeptO Q G (execSlotSwitch lane s) := by
  unfold Sys2Proof.Machine.execSlotSwitch
  with_reducible repeat' first
    | assumption | apply Kept.takeSwitch | apply KeptO.next | simp only [Kept.upd] | simp only [Kept.updTop]
    | simp only [Kept.updHif] | simp only [Kept.updSpill] | simp only [Kept.updJrn] | dsimp only | split | intro

theorem Kept.execSlotEntryBoundary (lane : Nat) (s : State) (hk : Kept Q G s)
    : KeptO Q G (execSlotEntryBoundary lane s) := by
  unfold Sys2Proof.Machine.execSlotEntryBoundary
  with_reducible repeat' first
    | assumption | apply Kept.setF | apply KeptO.next | simp only [Kept.upd] | simp only [Kept.updTop]
    | simp only [Kept.updHif] | simp only [Kept.updSpill] | simp only [Kept.updJrn] | dsimp only | split | intro

end Sys2Proof.Laws
end

