-- ==== Sys2Proof/Laws/KeptHost.lean ====
section
/-!
SUPPORT. One lemma for each operation of Host, Crier, Programs, Security, Time, Fetch, Sched, Porter: it keeps the canonical register store, the queue, the fuses' order and a forward transition (`Kept`).
-/
namespace Sys2Proof.Laws

open Sys2Proof.Machine

variable {Q : List Instr} {G : Fuses}

theorem Kept.hifErr (s : State) (bit : Nat) (hk : Kept Q G s) : Kept Q G (hifErr s bit) := by
  unfold Sys2Proof.Machine.hifErr
  with_reducible repeat' first
    | assumption | apply Kept.raise | apply Kept.setBit | simp only [Kept.upd] | simp only [Kept.updTop]
    | simp only [Kept.updHif] | simp only [Kept.updSpill] | simp only [Kept.updJrn] | dsimp only | split | intro

theorem Kept.execBar0UnmappedAccess (addr : Nat) (write : Bool) (s : State) (hk : Kept Q G s)
    : KeptO Q G (execBar0UnmappedAccess addr write s) := by
  unfold Sys2Proof.Machine.execBar0UnmappedAccess
  with_reducible repeat' first
    | assumption | apply Kept.hifErr | apply Kept.whenB | apply Kept.emit | apply KeptO.next | simp only [Kept.upd]
    | simp only [Kept.updTop] | simp only [Kept.updHif] | simp only [Kept.updSpill] | simp only [Kept.updJrn] | dsimp only
    | split | intro

theorem Kept.consumerBell (s : State) (k : RingKind) (n i : Nat) (hk : Kept Q G s) : Kept Q G (consumerBell s k n i) := by
  unfold Sys2Proof.Machine.consumerBell
  with_reducible repeat' first
    | assumption | apply Kept.setReg | apply Kept.hifErr | simp only [Kept.upd] | simp only [Kept.updTop]
    | simp only [Kept.updHif] | simp only [Kept.updSpill] | simp only [Kept.updJrn] | dsimp only | split | intro

theorem Kept.crBell (r index : Nat) (s : State) (hk : Kept Q G s) : Kept Q G (crBell r index s) := by
  unfold Sys2Proof.Machine.crBell
  with_reducible repeat' first
    | assumption | apply Kept.setReg | apply Kept.hifErr | simp only [Kept.upd] | simp only [Kept.updTop]
    | simp only [Kept.updHif] | simp only [Kept.updSpill] | simp only [Kept.updJrn] | dsimp only | split | intro

theorem Kept.rxBell (n index : Nat) (s : State) (hk : Kept Q G s) : Kept Q G (rxBell n index s) := by
  unfold Sys2Proof.Machine.rxBell
  with_reducible repeat' first
    | assumption | apply Kept.setReg | apply Kept.hifErr | simp only [Kept.upd] | simp only [Kept.updTop]
    | simp only [Kept.updHif] | simp only [Kept.updSpill] | simp only [Kept.updJrn] | dsimp only | split | intro

theorem Kept.ringBell (s : State) (k : RingKind) (n index : Nat) (hk : Kept Q G s) : Kept Q G (ringBell s k n index) := by
  unfold Sys2Proof.Machine.ringBell
  with_reducible repeat' first
    | assumption | apply Kept.crBell | apply Kept.rxBell | apply Kept.consumerBell | simp only [Kept.upd]
    | simp only [Kept.updTop] | simp only [Kept.updHif] | simp only [Kept.updSpill] | simp only [Kept.updJrn] | dsimp only
    | split | intro

theorem Kept.execCrDoorbell (r index : Nat) (s : State) (hk : Kept Q G s) : KeptO Q G (execCrDoorbell r index s) := by
  unfold Sys2Proof.Machine.execCrDoorbell
  with_reducible repeat' first
    | assumption | apply Kept.crBell | apply KeptO.next | simp only [Kept.upd] | simp only [Kept.updTop]
    | simp only [Kept.updHif] | simp only [Kept.updSpill] | simp only [Kept.updJrn] | dsimp only | split | intro

theorem Kept.execCqDoorbell (r index : Nat) (s : State) (hk : Kept Q G s) : KeptO Q G (execCqDoorbell r index s) := by
  unfold Sys2Proof.Machine.execCqDoorbell
  with_reducible repeat' first
    | assumption | apply Kept.consumerBell | apply KeptO.next | simp only [Kept.upd] | simp only [Kept.updTop]
    | simp only [Kept.updHif] | simp only [Kept.updSpill] | simp only [Kept.updJrn] | dsimp only | split | intro

theorem Kept.execRxDoorbell (n index : Nat) (s : State) (hk : Kept Q G s) : KeptO Q G (execRxDoorbell n index s) := by
  unfold Sys2Proof.Machine.execRxDoorbell
  with_reducible repeat' first
    | assumption | apply Kept.rxBell | apply KeptO.next | simp only [Kept.upd] | simp only [Kept.updTop]
    | simp only [Kept.updHif] | simp only [Kept.updSpill] | simp only [Kept.updJrn] | dsimp only | split | intro

theorem Kept.execNqDoorbell (n index : Nat) (s : State) (hk : Kept Q G s) : KeptO Q G (execNqDoorbell n index s) := by
  unfold Sys2Proof.Machine.execNqDoorbell
  with_reducible repeat' first
    | assumption | apply Kept.consumerBell | apply KeptO.next | simp only [Kept.upd] | simp only [Kept.updTop]
    | simp only [Kept.updHif] | simp only [Kept.updSpill] | simp only [Kept.updJrn] | dsimp only | split | intro

theorem Kept.ringCfgWrite (s : State) (k : RingKind) (n : Nat) (cfg : Word) (hk : Kept Q G s)
    : Kept Q G (ringCfgWrite s k n cfg) := by
  unfold Sys2Proof.Machine.ringCfgWrite
  with_reducible repeat' first
    | assumption | apply Kept.setReg | simp only [Kept.upd] | simp only [Kept.updTop] | simp only [Kept.updHif]
    | simp only [Kept.updSpill] | simp only [Kept.updJrn] | dsimp only | split | intro

theorem Kept.forgetVisible (s : State) (k : RingKind) (n : Nat) (hk : Kept Q G s) : Kept Q G (forgetVisible s k n) := by
  unfold Sys2Proof.Machine.forgetVisible
  with_reducible repeat' first
    | assumption | simp only [Kept.upd] | simp only [Kept.updTop] | simp only [Kept.updHif] | simp only [Kept.updSpill]
    | simp only [Kept.updJrn] | dsimp only | split | intro

theorem Kept.execRingEnable (kind : RingKind) (n : Nat) (cfg : Word) (s : State) (hk : Kept Q G s)
    : KeptO Q G (execRingEnable kind n cfg s) := by
  unfold Sys2Proof.Machine.execRingEnable
  with_reducible repeat' first
    | assumption | apply Kept.ringCfgWrite | apply Kept.forgetVisible | apply Kept.setF | apply Kept.setReg
    | apply KeptO.next | simp only [Kept.upd] | simp only [Kept.updTop] | simp only [Kept.updHif] | simp only [Kept.updSpill]
    | simp only [Kept.updJrn] | dsimp only | split | intro

theorem Kept.dropReports (s : State) (k : RingKind) (n : Nat) (hk : Kept Q G s) : Kept Q G (dropReports s k n) := by
  unfold Sys2Proof.Machine.dropReports
  with_reducible repeat' first
    | assumption | apply Kept.raiseLimited | apply Kept.add64 | simp only [Kept.upd] | simp only [Kept.updTop]
    | simp only [Kept.updHif] | simp only [Kept.updSpill] | simp only [Kept.updJrn] | dsimp only | split | intro

theorem Kept.execRingDisable (kind : RingKind) (n : Nat) (cfg : Word) (s : State) (hk : Kept Q G s)
    : KeptO Q G (execRingDisable kind n cfg s) := by
  unfold Sys2Proof.Machine.execRingDisable
  with_reducible repeat' first
    | assumption | apply Kept.dropReports | apply Kept.forgetVisible | apply Kept.setBit | apply Kept.ringCfgWrite
    | apply KeptO.next | simp only [Kept.upd] | simp only [Kept.updTop] | simp only [Kept.updHif] | simp only [Kept.updSpill]
    | simp only [Kept.updJrn] | dsimp only | split | intro

theorem Kept.ringStop (s : State) (kind : RingKind) (n : Nat) (hk : Kept Q G s) : Kept Q G (ringStop s kind n) := by
  unfold Sys2Proof.Machine.ringStop
  with_reducible repeat' first
    | assumption | apply Kept.raise | apply Kept.dropReports | apply Kept.forgetVisible | apply Kept.setF
    | simp only [Kept.upd] | simp only [Kept.updTop] | simp only [Kept.updHif] | simp only [Kept.updSpill]
    | simp only [Kept.updJrn] | dsimp only | split | intro

theorem Kept.execRingDmaError (kind : RingKind) (n : Nat) (s : State) (hk : Kept Q G s)
    : KeptO Q G (execRingDmaError kind n s) := by
  unfold Sys2Proof.Machine.execRingDmaError
  with_reducible repeat' first
    | assumption | apply Kept.ringStop | apply KeptO.next | simp only [Kept.upd] | simp only [Kept.updTop]
    | simp only [Kept.updHif] | simp only [Kept.updSpill] | simp only [Kept.updJrn] | dsimp only | split | intro

theorem Kept.execCommandFetch (r : Nat) (entry data : List Byte) (s : State) (hk : Kept Q G s)
    : KeptO Q G (execCommandFetch r entry data s) := by
  unfold Sys2Proof.Machine.execCommandFetch
  with_reducible repeat' first
    | assumption | apply Kept.emit | apply Kept.setReg | apply Kept.refuseForms | apply KeptO.next | simp only [Kept.upd]
    | simp only [Kept.updTop] | simp only [Kept.updHif] | simp only [Kept.updSpill] | simp only [Kept.updJrn] | dsimp only
    | split | intro

theorem Kept.execCompletionWrite (q : Nat) (s : State) (hk : Kept Q G s) : KeptO Q G (execCompletionWrite q s) := by
  unfold Sys2Proof.Machine.execCompletionWrite
  with_reducible repeat' first
    | assumption | apply Kept.hostWrite | apply Kept.tailStep | apply Kept.dropCmd | apply Kept.refuseForms
    | apply Kept.whenB | apply Kept.raise | apply KeptO.next | simp only [Kept.upd] | simp only [Kept.updTop]
    | simp only [Kept.updHif] | simp only [Kept.updSpill] | simp only [Kept.updJrn] | dsimp only | split | intro

theorem Kept.execNotificationWrite (n : Nat) (s : State) (hk : Kept Q G s) : KeptO Q G (execNotificationWrite n s) := by
  unfold Sys2Proof.Machine.execNotificationWrite
  with_reducible repeat' first
    | assumption | apply Kept.hostWrite | apply Kept.raise | apply Kept.tailStep | apply KeptO.next | simp only [Kept.upd]
    | simp only [Kept.updTop] | simp only [Kept.updHif] | simp only [Kept.updSpill] | simp only [Kept.updJrn] | dsimp only
    | split | intro

theorem Kept.execNop (cmd : HostCmd) (s : State) (hk : Kept Q G s) : KeptO Q G (execNop cmd s) := by
  unfold Sys2Proof.Machine.execNop
  with_reducible repeat' first
    | assumption | apply Kept.runCmd | apply Kept.complete | apply KeptO.next | simp only [Kept.upd]
    | simp only [Kept.updTop] | simp only [Kept.updHif] | simp only [Kept.updSpill] | simp only [Kept.updJrn] | dsimp only
    | split | intro

theorem Kept.execFence (cmd : HostCmd) (s : State) (hk : Kept Q G s) : KeptO Q G (execFence cmd s) := by
  unfold Sys2Proof.Machine.execFence
  with_reducible repeat' first
    | assumption | apply Kept.runCmd | apply Kept.setPhase | apply KeptO.next | simp only [Kept.upd]
    | simp only [Kept.updTop] | simp only [Kept.updHif] | simp only [Kept.updSpill] | simp only [Kept.updJrn] | dsimp only
    | split | intro

theorem Kept.execFenceComplete (cr index : Nat) (s : State) (hk : Kept Q G s)
    : KeptO Q G (execFenceComplete cr index s) := by
  unfold Sys2Proof.Machine.execFenceComplete
  with_reducible repeat' first
    | assumption | apply Kept.complete | apply KeptO.next | simp only [Kept.upd] | simp only [Kept.updTop]
    | simp only [Kept.updHif] | simp only [Kept.updSpill] | simp only [Kept.updJrn] | dsimp only | split | intro

theorem Kept.execCommandTimeout (cr index : Nat) (s : State) (hk : Kept Q G s)
    : KeptO Q G (execCommandTimeout cr index s) := by
  unfold Sys2Proof.Machine.execCommandTimeout
  with_reducible repeat' first
    | assumption | apply Kept.complete | apply KeptO.next | simp only [Kept.upd] | simp only [Kept.updTop]
    | simp only [Kept.updHif] | simp only [Kept.updSpill] | simp only [Kept.updJrn] | dsimp only | split | intro

theorem Kept.apertureStore (s : State) (off : Nat) (data : List Byte) (hk : Kept Q G s) :
    Kept Q G (apertureStore s off data) := by
  let f : Store Byte → Option Nat × Byte → Store Byte := fun m x => match x.1 with | some k => mapPut 0 m k x.2 | none => m
  have key : ∀ l : List (Option Nat × Byte), Kept Q G { s with hif := { s.hif with buf := l.foldl f s.hif.buf } } := fun l =>
    Kept.withBuf hk fun h => by
      have : ∀ (l : List (Option Nat × Byte)) (m : Store Byte), mapWf (fun _ => 0) m = true → mapWf (fun _ => 0)
          (l.foldl f m) = true := by
        intro l
        induction l with
        | nil => exact fun m h => h
        | cons x r ih =>
          intro m h
          apply ih
          dsimp only [f]
          split
          · exact mapWf_mapPut (d := fun _ => 0) h
          · exact h
      exact this l _ h
  unfold Sys2Proof.Machine.apertureStore
  dsimp only
  split
  · exact Kept.raise _ _ (Kept.setBit _ _ _ _ (Kept.add64 _ _ _ (key _)))
  · exact key _

theorem Kept.execApertureWrite (addr : Nat) (data : List Byte) (s : State) (hk : Kept Q G s)
    : KeptO Q G (execApertureWrite addr data s) := by
  unfold Sys2Proof.Machine.execApertureWrite
  with_reducible repeat' first
    | assumption | apply Kept.ringBell | apply Kept.apertureStore | apply KeptO.next | simp only [Kept.upd]
    | simp only [Kept.updTop] | simp only [Kept.updHif] | simp only [Kept.updSpill] | simp only [Kept.updJrn] | dsimp only
    | split | intro

theorem Kept.execApertureRead (addr len : Nat) (s : State) (hk : Kept Q G s) : KeptO Q G (execApertureRead addr len s) := by
  unfold Sys2Proof.Machine.execApertureRead
  with_reducible repeat' first
    | assumption | apply Kept.emit | apply KeptO.next | simp only [Kept.upd] | simp only [Kept.updTop]
    | simp only [Kept.updHif] | simp only [Kept.updSpill] | simp only [Kept.updJrn] | dsimp only | split | intro

theorem Kept.mailTake (s : State) (hk : Kept Q G s) : Kept Q G (mailTake s) := by
  unfold Sys2Proof.Machine.mailTake
  with_reducible repeat' first
    | assumption | simp only [Kept.upd] | simp only [Kept.updTop] | simp only [Kept.updHif] | simp only [Kept.updSpill]
    | simp only [Kept.updJrn] | dsimp only | split | intro

theorem Kept.execMailboxGo (s : State) (hk : Kept Q G s) : KeptO Q G (execMailboxGo s) := by
  unfold Sys2Proof.Machine.execMailboxGo
  with_reducible repeat' first
    | assumption | apply Kept.setBit | apply Kept.mailTake | apply Kept.raise | apply KeptO.next | simp only [Kept.upd]
    | simp only [Kept.updTop] | simp only [Kept.updHif] | simp only [Kept.updSpill] | simp only [Kept.updJrn] | dsimp only
    | split | intro

theorem Kept.mailPut (s : State) (b : List Byte) (hk : Kept Q G s) : Kept Q G (mailPut s b) := by
  unfold Sys2Proof.Machine.mailPut
  with_reducible repeat' first
    | assumption | apply Kept.forEach | apply Kept.setReg | simp only [Kept.upd] | simp only [Kept.updTop]
    | simp only [Kept.updHif] | simp only [Kept.updSpill] | simp only [Kept.updJrn] | dsimp only | split | intro

theorem Kept.mailRespond (s : State) (status : Nat) (payload : List Byte) (hk : Kept Q G s)
    : Kept Q G (mailRespond s status payload) := by
  unfold Sys2Proof.Machine.mailRespond
  with_reducible repeat' first
    | assumption | apply Kept.mailTake | apply Kept.settleDone | apply Kept.orphan | apply Kept.mailPut | apply Kept.raise
    | apply Kept.setBit | simp only [Kept.upd] | simp only [Kept.updTop] | simp only [Kept.updHif]
    | simp only [Kept.updSpill] | simp only [Kept.updJrn] | dsimp only | split | intro

theorem Kept.execOrphanLogClear (s : State) (hk : Kept Q G s) : KeptO Q G (execOrphanLogClear s) := by
  unfold Sys2Proof.Machine.execOrphanLogClear
  with_reducible repeat' first
    | assumption | apply Kept.forEach | apply Kept.setReg | apply Kept.setF | apply KeptO.next | simp only [Kept.upd]
    | simp only [Kept.updTop] | simp only [Kept.updHif] | simp only [Kept.updSpill] | simp only [Kept.updJrn] | dsimp only
    | split | intro

theorem Kept.crierPerst (s : State) (hk : Kept Q G s) : Kept Q G (crierPerst s) := by
  unfold Sys2Proof.Machine.crierPerst
  with_reducible repeat' first
    | assumption | apply Kept.foldl | apply Kept.foldl1 | simp only [Kept.upd] | simp only [Kept.updTop]
    | simp only [Kept.updHif] | simp only [Kept.updSpill] | simp only [Kept.updJrn] | dsimp only | split | intro

theorem Kept.freeHostUnits (s : State) (hk : Kept Q G s) : Kept Q G (freeHostUnits s) := by
  unfold Sys2Proof.Machine.freeHostUnits
  have key : ∀ (t : State) (m : Market), Kept Q G t → Kept Q G { t with
      market := m, hif := { t.hif with slots := [], buf := [] } } := fun t m h =>
    Kept.withBuf (s := { t with market := m }) (Kept.upd.mpr h) fun _ => rfl
  exact key _ _ (Kept.forEach _ _ _ (fun t u ht => Kept.freeUnit _ _ ht) (Kept.addHostUsed _ _ hk))

theorem Kept.perstDrop (s : State) (hk : Kept Q G s) : Kept Q G (perstDrop s) := by
  unfold Sys2Proof.Machine.perstDrop
  with_reducible repeat' first
    | assumption | simp only [Kept.upd] | simp only [Kept.updTop] | simp only [Kept.updHif] | simp only [Kept.updSpill]
    | simp only [Kept.updJrn] | dsimp only | split | intro

theorem Kept.perstAssert (s : State) (hk : Kept Q G s) : Kept Q G (perstAssert s) := by
  unfold Sys2Proof.Machine.perstAssert
  with_reducible repeat' first
    | assumption | apply Kept.setBit | apply Kept.perstDrop | apply Kept.forEach | apply Kept.orphan | apply Kept.setF
    | apply Kept.raiseLimited | apply Kept.add64 | apply Kept.settleDone | apply Kept.crierPerst | apply Kept.freeHostUnits
    | simp only [Kept.upd] | simp only [Kept.updTop] | simp only [Kept.updHif] | simp only [Kept.updSpill]
    | simp only [Kept.updJrn] | dsimp only | split | intro

theorem Kept.perstLow (s : State) (hk : Kept Q G s) : Kept Q G (perstLow s) := by
  unfold Sys2Proof.Machine.perstLow
  with_reducible repeat' first
    | assumption | apply Kept.landsPcie | simp only [Kept.upd] | simp only [Kept.updTop] | simp only [Kept.updHif]
    | simp only [Kept.updSpill] | simp only [Kept.updJrn] | dsimp only | split | intro

theorem Kept.execPerstNAssert (_cause : PerstCause) (s : State) (hk : Kept Q G s)
    : KeptO Q G (execPerstNAssert _cause s) := by
  unfold Sys2Proof.Machine.execPerstNAssert
  with_reducible repeat' first
    | assumption | apply Kept.perstLow | apply Kept.perstAssert | apply KeptO.next | simp only [Kept.upd]
    | simp only [Kept.updTop] | simp only [Kept.updHif] | simp only [Kept.updSpill] | simp only [Kept.updJrn] | dsimp only
    | split | intro

theorem Kept.execPerstNRelease (s : State) (hk : Kept Q G s) : KeptO Q G (execPerstNRelease s) := by
  unfold Sys2Proof.Machine.execPerstNRelease
  with_reducible repeat' first
    | assumption | apply KeptO.next | simp only [Kept.upd] | simp only [Kept.updTop] | simp only [Kept.updHif]
    | simp only [Kept.updSpill] | simp only [Kept.updJrn] | dsimp only | split | intro

theorem Kept.execHostIslandRelease (s : State) (hk : Kept Q G s) :
    KeptO Q G (execHostIslandRelease s) := by
  have key : ∀ h : Hif, h.buf = s.hif.buf → Kept Q G { s with regs := hifRegsReset s.regs, hif := h } :=
    fun h hb => ⟨mapWfFrom_filter hk.wf, hk.queue, hk.fuses, hk.job,
      memWf_iff.mpr (by have := memWf_iff.mp hk.mem; simpa only [hb] using this)⟩
  unfold Sys2Proof.Machine.execHostIslandRelease
  apply KeptO.next
  dsimp only
  split
  · exact hk
  · apply Kept.landsPcie
    apply Kept.whenB
    · intro t ht; exact Kept.raise _ _ ht
    · apply Kept.whenB
      · intro t ht; exact Kept.setF _ _ _ _ _ ht
      · exact key _ rfl

theorem Kept.execLinkTrained (width speed : Nat) (flit : Bool) (s : State) (hk : Kept Q G s)
    : KeptO Q G (execLinkTrained width speed flit s) := by
  unfold Sys2Proof.Machine.execLinkTrained
  with_reducible repeat' first
    | assumption | apply Kept.setF | apply Kept.setBit | apply Kept.whenB | apply Kept.raise | apply KeptO.next
    | simp only [Kept.upd] | simp only [Kept.updTop] | simp only [Kept.updHif] | simp only [Kept.updSpill]
    | simp only [Kept.updJrn] | dsimp only | split | intro

theorem Kept.execSourceForce (value : Word) (s : State) (hk : Kept Q G s) : KeptO Q G (execSourceForce value s) := by
  unfold Sys2Proof.Machine.execSourceForce
  with_reducible repeat' first
    | assumption | apply Kept.holdWrite | apply Kept.raise | apply KeptO.next | simp only [Kept.upd]
    | simp only [Kept.updTop] | simp only [Kept.updHif] | simp only [Kept.updSpill] | simp only [Kept.updJrn] | dsimp only
    | split | intro

theorem Kept.wakeCores (s : State) (hk : Kept Q G s) : Kept Q G (wakeCores s) := by
  unfold Sys2Proof.Machine.wakeCores
  with_reducible repeat' first
    | assumption | apply Kept.forEach | apply Kept.wakeCore | simp only [Kept.upd] | simp only [Kept.updTop]
    | simp only [Kept.updHif] | simp only [Kept.updSpill] | simp only [Kept.updJrn] | dsimp only | split | intro

theorem Kept.execSrcCfgWrite (id : Nat) (value : Word) (fw : Bool) (s : State) (hk : Kept Q G s)
    : KeptO Q G (execSrcCfgWrite id value fw s) := by
  unfold Sys2Proof.Machine.execSrcCfgWrite
  with_reducible repeat' first
    | assumption | apply Kept.wakeCores | apply Kept.setReg | apply Kept.holdWrite | apply Kept.setErrE04
    | apply Kept.countEvent | apply KeptO.next | simp only [Kept.upd] | simp only [Kept.updTop] | simp only [Kept.updHif]
    | simp only [Kept.updSpill] | simp only [Kept.updJrn] | dsimp only | split | intro

theorem Kept.execVectorTimerExpiry (v : Nat) (s : State) (hk : Kept Q G s) : KeptO Q G (execVectorTimerExpiry v s) := by
  unfold Sys2Proof.Machine.execVectorTimerExpiry
  with_reducible repeat' first
    | assumption | apply KeptO.next | simp only [Kept.upd] | simp only [Kept.updTop] | simp only [Kept.updHif]
    | simp only [Kept.updSpill] | simp only [Kept.updJrn] | dsimp only | split | intro

theorem Kept.eoiVec (s : State) (v : Nat) (hk : Kept Q G s) : Kept Q G (eoiVec s v) := by
  unfold Sys2Proof.Machine.eoiVec
  with_reducible repeat' first
    | assumption | apply Kept.forEach | apply Kept.countEvent | simp only [Kept.upd] | simp only [Kept.updTop]
    | simp only [Kept.updHif] | simp only [Kept.updSpill] | simp only [Kept.updJrn] | dsimp only | split | intro

theorem Kept.pbaSet (s : State) (v : Nat) (b : Bool) (hk : Kept Q G s) : Kept Q G (pbaSet s v b) := by
  unfold Sys2Proof.Machine.pbaSet
  with_reducible repeat' first
    | assumption | apply Kept.setBit | simp only [Kept.upd] | simp only [Kept.updTop] | simp only [Kept.updHif]
    | simp only [Kept.updSpill] | simp only [Kept.updJrn] | dsimp only | split | intro

theorem Kept.commitVec (s : State) (v : Nat) (hk : Kept Q G s) : Kept Q G (commitVec s v) := by
  unfold Sys2Proof.Machine.commitVec
  with_reducible repeat' first
    | assumption | apply Kept.pbaSet | apply Kept.emit | apply Kept.eoiVec | simp only [Kept.upd] | simp only [Kept.updTop]
    | simp only [Kept.updHif] | simp only [Kept.updSpill] | simp only [Kept.updJrn] | dsimp only | split | intro

theorem Kept.commitCore (s : State) (id : Nat) (hk : Kept Q G s) : Kept Q G (commitCore s id) := by
  unfold Sys2Proof.Machine.commitCore
  with_reducible repeat' first
    | assumption | simp only [Kept.upd] | simp only [Kept.updTop] | simp only [Kept.updHif] | simp only [Kept.updSpill]
    | simp only [Kept.updJrn] | dsimp only | split | intro

theorem Kept.setMasks (s : State) (m : CrierMasks) (hk : Kept Q G s) : Kept Q G (setMasks s m) := by
  unfold Sys2Proof.Machine.setMasks
  with_reducible repeat' first
    | assumption | apply Kept.wakeCores | apply Kept.foldl | apply Kept.foldl1 | simp only [Kept.upd]
    | simp only [Kept.updTop] | simp only [Kept.updHif] | simp only [Kept.updSpill] | simp only [Kept.updJrn] | dsimp only
    | split | intro

theorem Kept.dispatch (s : State) (hk : Kept Q G s) : Kept Q G (dispatch s) := by
  unfold Sys2Proof.Machine.dispatch
  with_reducible repeat' first
    | assumption | apply Kept.commitVec | apply Kept.commitCore | simp only [Kept.upd] | simp only [Kept.updTop]
    | simp only [Kept.updHif] | simp only [Kept.updSpill] | simp only [Kept.updJrn] | dsimp only | split | intro

theorem Kept.execDispatchCommit (masks : CrierMasks) (s : State) (hk : Kept Q G s)
    : KeptO Q G (execDispatchCommit masks s) := by
  unfold Sys2Proof.Machine.execDispatchCommit
  with_reducible repeat' first
    | assumption | apply Kept.dispatch | apply Kept.setMasks | apply KeptO.next | simp only [Kept.upd]
    | simp only [Kept.updTop] | simp only [Kept.updHif] | simp only [Kept.updSpill] | simp only [Kept.updJrn] | dsimp only
    | split | intro

theorem Kept.execVecEoi (v : Nat) (s : State) (hk : Kept Q G s) : KeptO Q G (execVecEoi v s) := by
  unfold Sys2Proof.Machine.execVecEoi
  with_reducible repeat' first
    | assumption | apply Kept.holdWrite | apply Kept.eoiVec | apply KeptO.next | simp only [Kept.upd]
    | simp only [Kept.updTop] | simp only [Kept.updHif] | simp only [Kept.updSpill] | simp only [Kept.updJrn] | dsimp only
    | split | intro

theorem Kept.execCoreEoi (n : Nat) (s : State) (hk : Kept Q G s) : KeptO Q G (execCoreEoi n s) := by
  unfold Sys2Proof.Machine.execCoreEoi
  with_reducible repeat' first
    | assumption | apply Kept.wakeCores | apply KeptO.next | simp only [Kept.upd] | simp only [Kept.updTop]
    | simp only [Kept.updHif] | simp only [Kept.updSpill] | simp only [Kept.updJrn] | dsimp only | split | intro

theorem Kept.execCrossingFault (receiver sender handshake : Nat) (s : State) (hk : Kept Q G s)
    : KeptO Q G (execCrossingFault receiver sender handshake s) := by
  unfold Sys2Proof.Machine.execCrossingFault
  with_reducible repeat' first
    | assumption | apply Kept.fault | apply KeptO.next | simp only [Kept.upd] | simp only [Kept.updTop]
    | simp only [Kept.updHif] | simp only [Kept.updSpill] | simp only [Kept.updJrn] | dsimp only | split | intro

theorem Kept.execGraceExpiry (id : Nat) (s : State) (hk : Kept Q G s) : KeptO Q G (execGraceExpiry id s) := by
  unfold Sys2Proof.Machine.execGraceExpiry
  with_reducible repeat' first
    | assumption | apply Kept.jrnFlush | apply Kept.raiseE00 | apply Kept.startList | apply KeptO.next | simp only [Kept.upd]
    | simp only [Kept.updTop] | simp only [Kept.updHif] | simp only [Kept.updSpill] | simp only [Kept.updJrn] | dsimp only
    | split | intro

theorem Kept.endList (s : State) (id : Nat) (hk : Kept Q G s) : Kept Q G (endList s id) := by
  unfold Sys2Proof.Machine.endList
  with_reducible repeat' first
    | assumption | apply Kept.raise | apply Kept.setBit | apply Kept.startGrace | simp only [Kept.upd]
    | simp only [Kept.updTop] | simp only [Kept.updHif] | simp only [Kept.updSpill] | simp only [Kept.updJrn] | dsimp only
    | split | intro

theorem Kept.execEscAck (value : Word) (s : State) (hk : Kept Q G s) : KeptO Q G (execEscAck value s) := by
  unfold Sys2Proof.Machine.execEscAck
  with_reducible repeat' first
    | assumption | apply Kept.holdWrite | apply Kept.add64 | apply Kept.setBit | apply Kept.endList | apply KeptO.next
    | simp only [Kept.upd] | simp only [Kept.updTop] | simp only [Kept.updHif] | simp only [Kept.updSpill]
    | simp only [Kept.updJrn] | dsimp only | split | intro

theorem Kept.execActionsWrite (id : Nat) (value : BitVec 64) (s : State) (hk : Kept Q G s)
    : KeptO Q G (execActionsWrite id value s) := by
  unfold Sys2Proof.Machine.execActionsWrite
  with_reducible repeat' first
    | assumption | apply Kept.setReg64 | apply Kept.setErrE04 | apply KeptO.next | simp only [Kept.upd]
    | simp only [Kept.updTop] | simp only [Kept.updHif] | simp only [Kept.updSpill] | simp only [Kept.updJrn] | dsimp only
    | split | intro

theorem Kept.actionDone (s : State) (id : Nat) (hk : Kept Q G s) : Kept Q G (actionDone s id) := by
  unfold Sys2Proof.Machine.actionDone
  with_reducible repeat' first
    | assumption | apply Kept.endList | simp only [Kept.upd] | simp only [Kept.updTop] | simp only [Kept.updHif]
    | simp only [Kept.updSpill] | simp only [Kept.updJrn] | dsimp only | split | intro

theorem Kept.beginAction (s : State) (id c : Nat) (f : State → Nat → State) (hk : Kept Q G s)
    (hf : ∀ t x, Kept Q G t → Kept Q G (f t x)) : Kept Q G (beginAction s id c f) := by
  unfold Sys2Proof.Machine.beginAction
  with_reducible repeat' first
    | assumption | apply hf | apply Kept.add64 | apply Kept.jrnFlush | simp only [Kept.upd] | simp only [Kept.updTop]
    | simp only [Kept.updHif] | simp only [Kept.updSpill] | simp only [Kept.updJrn] | dsimp only | split | intro

theorem Kept.execEscEnd (id : Nat) (s : State) (hk : Kept Q G s) : KeptO Q G (execEscEnd id s) := by
  unfold Sys2Proof.Machine.execEscEnd
  with_reducible repeat' first
    | assumption | apply Kept.beginAction | apply Kept.endList | apply KeptO.next | simp only [Kept.upd]
    | simp only [Kept.updTop] | simp only [Kept.updHif] | simp only [Kept.updSpill] | simp only [Kept.updJrn] | dsimp only
    | split | intro

theorem Kept.execEscWait (id : Nat) (s : State) (hk : Kept Q G s) : KeptO Q G (execEscWait id s) := by
  unfold Sys2Proof.Machine.execEscWait
  with_reducible repeat' first
    | assumption | apply Kept.beginAction | apply Kept.actionDone | apply KeptO.next | simp only [Kept.upd]
    | simp only [Kept.updTop] | simp only [Kept.updHif] | simp only [Kept.updSpill] | simp only [Kept.updJrn] | dsimp only
    | split | intro

theorem Kept.listWaits (s : State) (src n : Nat) (hk : Kept Q G s) : Kept Q G (listWaits s src n) := by
  unfold Sys2Proof.Machine.listWaits
  with_reducible repeat' first
    | assumption | simp only [Kept.upd] | simp only [Kept.updTop] | simp only [Kept.updHif] | simp only [Kept.updSpill]
    | simp only [Kept.updJrn] | dsimp only | split | intro

theorem Kept.writeDone (s : State) (src n : Nat) (hk : Kept Q G s) : Kept Q G (writeDone s src n) := by
  unfold Sys2Proof.Machine.writeDone
  with_reducible repeat' first
    | assumption | apply Kept.listWaits | apply Kept.actionDone | simp only [Kept.upd] | simp only [Kept.updTop]
    | simp only [Kept.updHif] | simp only [Kept.updSpill] | simp only [Kept.updJrn] | dsimp only | split | intro

theorem Kept.execEscQuiesce (id : Nat) (s : State) (hk : Kept Q G s) : KeptO Q G (execEscQuiesce id s) := by
  unfold Sys2Proof.Machine.execEscQuiesce
  with_reducible repeat' first
    | assumption | apply Kept.beginAction | apply Kept.writeDone | apply Kept.holdWrite | apply Kept.setBit
    | apply KeptO.next | simp only [Kept.upd] | simp only [Kept.updTop] | simp only [Kept.updHif] | simp only [Kept.updSpill]
    | simp only [Kept.updJrn] | dsimp only | split | intro

theorem Kept.openStage (s : State) (d : Dom) (hk : Kept Q G s) : Kept Q G (openStage s d) := by
  unfold Sys2Proof.Machine.openStage
  with_reducible repeat' first
    | assumption | apply Kept.setBit | simp only [Kept.upd] | simp only [Kept.updTop] | simp only [Kept.updHif]
    | simp only [Kept.updSpill] | simp only [Kept.updJrn] | dsimp only | split | intro

theorem Kept.doStageWrite (c : HostCmd) (s : State) (hk : Kept Q G s) : Kept Q G (doStageWrite c s) := by
  unfold Sys2Proof.Machine.doStageWrite
  dsimp only
  split
  · exact Kept.complete _ _ _ _ hk
  · split
    · exact Kept.complete _ _ _ _ hk
    · exact Kept.complete _ _ _ _ (Kept.withProg hk fun h => mapWf_foldl_put h)

theorem Kept.execStageWrite (cmd : HostCmd) (s : State) (hk : Kept Q G s) : KeptO Q G (execStageWrite cmd s) := by
  unfold Sys2Proof.Machine.execStageWrite
  with_reducible repeat' first
    | assumption | apply Kept.runCmd | apply Kept.doStageWrite | apply KeptO.next | simp only [Kept.upd]
    | simp only [Kept.updTop] | simp only [Kept.updHif] | simp only [Kept.updSpill] | simp only [Kept.updJrn] | dsimp only
    | split | intro

theorem Kept.commitEvent (s : State) (g : CommitGrp) (vers : Dom → Nat) (passed : Bool) (hk : Kept Q G s)
    : Kept Q G (commitEvent s g vers passed) := by
  unfold Sys2Proof.Machine.commitEvent
  with_reducible repeat' first
    | assumption | simp only [Kept.upd] | simp only [Kept.updTop] | simp only [Kept.updHif] | simp only [Kept.updSpill]
    | simp only [Kept.updJrn] | dsimp only | split | intro

theorem Kept.setDomT (s : State) (d : Dom) (t : Nat) (hk : Kept Q G s) : Kept Q G (setDomT s d t) := by
  unfold Sys2Proof.Machine.setDomT
  with_reducible repeat' first
    | assumption | apply Kept.setReg64 | simp only [Kept.upd] | simp only [Kept.updTop] | simp only [Kept.updHif]
    | simp only [Kept.updSpill] | simp only [Kept.updJrn] | dsimp only | split | intro

theorem Kept.showLastT (s : State) (d : Dom) (hk : Kept Q G s) : Kept Q G (showLastT s d) := by
  unfold Sys2Proof.Machine.showLastT
  with_reducible repeat' first
    | assumption | apply Kept.setDomT | simp only [Kept.upd] | simp only [Kept.updTop] | simp only [Kept.updHif]
    | simp only [Kept.updSpill] | simp only [Kept.updJrn] | dsimp only | split | intro

theorem Kept.placeGrp (s : State) (g : CommitGrp) (t : Nat) (hk : Kept Q G s) : Kept Q G (placeGrp s g t) := by
  unfold Sys2Proof.Machine.placeGrp
  with_reducible repeat' first
    | assumption | apply Kept.forEach | apply Kept.setDomT | apply Kept.setF | apply Kept.setBit | apply Kept.whenB
    | apply Kept.raise | simp only [Kept.upd] | simp only [Kept.updTop] | simp only [Kept.updHif] | simp only [Kept.updSpill]
    | simp only [Kept.updJrn] | dsimp only | split | intro

theorem Kept.commitAccept (c : HostCmd) (s : State) (hk : Kept Q G s) : Kept Q G (commitAccept c s) := by
  unfold Sys2Proof.Machine.commitAccept
  with_reducible repeat' first
    | assumption | apply Kept.forEach | apply Kept.setBit | apply Kept.complete | apply Kept.commitEvent
    | apply Kept.placeGrp | apply Kept.setPhase | simp only [Kept.upd] | simp only [Kept.updTop] | simp only [Kept.updHif]
    | simp only [Kept.updSpill] | simp only [Kept.updJrn] | dsimp only | split | intro

theorem Kept.doCommit (c : HostCmd) (s : State) (hk : Kept Q G s) : Kept Q G (doCommit c s) := by
  unfold Sys2Proof.Machine.doCommit
  with_reducible repeat' first
    | assumption | apply Kept.complete | apply Kept.forEach | apply Kept.openStage | apply Kept.showLastT | apply Kept.setF
    | apply Kept.commitAccept | simp only [Kept.upd] | simp only [Kept.updTop] | simp only [Kept.updHif]
    | simp only [Kept.updSpill] | simp only [Kept.updJrn] | dsimp only | split | intro

theorem Kept.execCommit (cmd : HostCmd) (s : State) (hk : Kept Q G s) : KeptO Q G (execCommit cmd s) := by
  unfold Sys2Proof.Machine.execCommit
  with_reducible repeat' first
    | assumption | apply Kept.runCmd | apply Kept.doCommit | apply KeptO.next | simp only [Kept.upd]
    | simp only [Kept.updTop] | simp only [Kept.updHif] | simp only [Kept.updSpill] | simp only [Kept.updJrn] | dsimp only
    | split | intro

theorem Kept.execCommitAt (cmd : HostCmd) (s : State) (hk : Kept Q G s) : KeptO Q G (execCommitAt cmd s) := by
  unfold Sys2Proof.Machine.execCommitAt
  with_reducible repeat' first
    | assumption | apply Kept.runCmd | apply Kept.doCommit | apply KeptO.next | simp only [Kept.upd]
    | simp only [Kept.updTop] | simp only [Kept.updHif] | simp only [Kept.updSpill] | simp only [Kept.updJrn] | dsimp only
    | split | intro

theorem Kept.execCommitToken (cmd : HostCmd) (s : State) (hk : Kept Q G s) : KeptO Q G (execCommitToken cmd s) := by
  unfold Sys2Proof.Machine.execCommitToken
  with_reducible repeat' first
    | assumption | apply Kept.runCmd | apply Kept.doCommit | apply KeptO.next | simp only [Kept.upd]
    | simp only [Kept.updTop] | simp only [Kept.updHif] | simp only [Kept.updSpill] | simp only [Kept.updJrn] | dsimp only
    | split | intro

theorem Kept.execCommitCancel (cmd : HostCmd) (s : State) (hk : Kept Q G s) : KeptO Q G (execCommitCancel cmd s) := by
  unfold Sys2Proof.Machine.execCommitCancel
  with_reducible repeat' first
    | assumption | apply Kept.runCmd | apply Kept.doCommit | apply KeptO.next | simp only [Kept.upd]
    | simp only [Kept.updTop] | simp only [Kept.updHif] | simp only [Kept.updSpill] | simp only [Kept.updJrn] | dsimp only
    | split | intro

theorem Kept.tokenArrive (s : State) (id t : Nat) (hk : Kept Q G s) : Kept Q G (tokenArrive s id t) := by
  unfold Sys2Proof.Machine.tokenArrive
  with_reducible repeat' first
    | assumption | apply Kept.forEach | apply Kept.whenB | apply Kept.setBit | apply Kept.raise | apply Kept.placeGrp
    | simp only [Kept.upd] | simp only [Kept.updTop] | simp only [Kept.updHif] | simp only [Kept.updSpill]
    | simp only [Kept.updJrn] | dsimp only | split | intro

theorem Kept.switchDom (t : Nat) (s : State) (d : Dom) (hk : Kept Q G s) : Kept Q G (switchDom t s d) := by
  unfold Sys2Proof.Machine.switchDom
  with_reducible repeat' first
    | assumption | apply Kept.setF | apply Kept.setBit | apply Kept.raise | apply Kept.setDomT | apply Kept.setDom
    | simp only [Kept.upd] | simp only [Kept.updTop] | simp only [Kept.updHif] | simp only [Kept.updSpill]
    | simp only [Kept.updJrn] | dsimp only | split | intro

theorem Kept.execCommitInstant (d : Dom) (s : State) (hk : Kept Q G s) : KeptO Q G (execCommitInstant d s) := by
  unfold Sys2Proof.Machine.execCommitInstant
  with_reducible repeat' first
    | assumption | apply Kept.forEach | apply Kept.switchDom | apply Kept.commitEvent | apply Kept.complete
    | apply KeptO.next | simp only [Kept.upd] | simp only [Kept.updTop] | simp only [Kept.updHif] | simp only [Kept.updSpill]
    | simp only [Kept.updJrn] | dsimp only | split | intro

theorem Kept.execDrainEnd (d : Dom) (s : State) (hk : Kept Q G s) : KeptO Q G (execDrainEnd d s) := by
  unfold Sys2Proof.Machine.execDrainEnd
  with_reducible repeat' first
    | assumption | apply Kept.setF | apply Kept.setDom | apply KeptO.next | simp only [Kept.upd] | simp only [Kept.updTop]
    | simp only [Kept.updHif] | simp only [Kept.updSpill] | simp only [Kept.updJrn] | dsimp only | split | intro

theorem Kept.execCommitRecordWrite (failedBlocks : List Nat) (s : State) (hk : Kept Q G s)
    : KeptO Q G (execCommitRecordWrite failedBlocks s) := by
  unfold Sys2Proof.Machine.execCommitRecordWrite
  with_reducible repeat' first
    | assumption | apply Kept.jrnFailed | apply Kept.jrnPut | apply KeptO.next | simp only [Kept.upd]
    | simp only [Kept.updTop] | simp only [Kept.updHif] | simp only [Kept.updSpill] | simp only [Kept.updJrn] | dsimp only
    | split | intro

theorem Kept.putSlot (s : State) (k : Nat) (key : Option (List Byte)) (usage : BitVec 4) (hk : Kept Q G s)
    : Kept Q G (putSlot s k key usage) := by
  unfold Sys2Proof.Machine.putSlot
  with_reducible repeat' first
    | assumption | apply Kept.setReg | simp only [Kept.upd] | simp only [Kept.updTop] | simp only [Kept.updHif]
    | simp only [Kept.updSpill] | simp only [Kept.updJrn] | dsimp only | split | intro

theorem Kept.wipeSlots (s : State) (hk : Kept Q G s) : Kept Q G (wipeSlots s) := by
  unfold Sys2Proof.Machine.wipeSlots
  with_reducible repeat' first
    | assumption | apply Kept.forEach | apply Kept.setF | apply Kept.setBit | apply Kept.foldl | apply Kept.foldl1
    | simp only [Kept.upd] | simp only [Kept.updTop] | simp only [Kept.updHif] | simp only [Kept.updSpill]
    | simp only [Kept.updJrn] | dsimp only | split | intro

theorem Kept.keyEpoch (s : State) (hk : Kept Q G s) : Kept Q G (keyEpoch s) := by
  unfold Sys2Proof.Machine.keyEpoch
  with_reducible repeat' first
    | assumption | apply Kept.wipeSlots | apply Kept.putSlot | apply Kept.drawn | apply Kept.setBit | apply Kept.setReg64
    | apply Kept.jrnFlush | apply Kept.whenB | apply Kept.raise | simp only [Kept.upd] | simp only [Kept.updTop]
    | simp only [Kept.updHif] | simp only [Kept.updSpill] | simp only [Kept.updJrn] | dsimp only | split | intro

theorem Kept.keyRefused (s : State) (hk : Kept Q G s) : Kept Q G (keyRefused s) := by
  unfold Sys2Proof.Machine.keyRefused
  with_reducible repeat' first
    | assumption | apply Kept.raiseLimited | simp only [Kept.upd] | simp only [Kept.updTop] | simp only [Kept.updHif]
    | simp only [Kept.updSpill] | simp only [Kept.updJrn] | dsimp only | split | intro

theorem Kept.doKeyUnwrap (c : HostCmd) (s : State) (hk : Kept Q G s) : Kept Q G (doKeyUnwrap c s) := by
  unfold Sys2Proof.Machine.doKeyUnwrap
  with_reducible repeat' first
    | assumption | apply Kept.complete | apply Kept.putSlot | apply Kept.keyRefused | apply Kept.raise | apply Kept.secCount
    | simp only [Kept.upd] | simp only [Kept.updTop] | simp only [Kept.updHif] | simp only [Kept.updSpill]
    | simp only [Kept.updJrn] | dsimp only | split | intro

theorem Kept.execKeyUnwrap (cmd : HostCmd) (s : State) (hk : Kept Q G s) : KeptO Q G (execKeyUnwrap cmd s) := by
  unfold Sys2Proof.Machine.execKeyUnwrap
  with_reducible repeat' first
    | assumption | apply Kept.runCmd | apply Kept.doKeyUnwrap | apply KeptO.next | simp only [Kept.upd]
    | simp only [Kept.updTop] | simp only [Kept.updHif] | simp only [Kept.updSpill] | simp only [Kept.updJrn] | dsimp only
    | split | intro

theorem Kept.execKeyErase (cmd : HostCmd) (s : State) (hk : Kept Q G s) : KeptO Q G (execKeyErase cmd s) := by
  unfold Sys2Proof.Machine.execKeyErase
  with_reducible repeat' first
    | assumption | apply Kept.runCmd | apply Kept.doKeyUnwrap | apply KeptO.next | simp only [Kept.upd]
    | simp only [Kept.updTop] | simp only [Kept.updHif] | simp only [Kept.updSpill] | simp only [Kept.updJrn] | dsimp only
    | split | intro

theorem Kept.doCtxSave (c : HostCmd) (s : State) (hk : Kept Q G s) : Kept Q G (doCtxSave c s) := by
  unfold Sys2Proof.Machine.doCtxSave
  with_reducible repeat' first
    | assumption | apply Kept.complete | apply Kept.completeData | apply Kept.keyRefused | simp only [Kept.upd]
    | simp only [Kept.updTop] | simp only [Kept.updHif] | simp only [Kept.updSpill] | simp only [Kept.updJrn] | dsimp only
    | split | intro

theorem Kept.ctxRestoreNow (c : HostCmd) (s : State) (hk : Kept Q G s) : Kept Q G (ctxRestoreNow c s) := by
  unfold Sys2Proof.Machine.ctxRestoreNow
  with_reducible repeat' first
    | assumption | apply Kept.complete | apply Kept.keyRefused | apply Kept.setF | apply Kept.setReg64 | simp only [Kept.upd]
    | simp only [Kept.updTop] | simp only [Kept.updHif] | simp only [Kept.updSpill] | simp only [Kept.updJrn] | dsimp only
    | split | intro

theorem Kept.doCtxRestore (c : HostCmd) (s : State) (hk : Kept Q G s) : Kept Q G (doCtxRestore c s) := by
  unfold Sys2Proof.Machine.doCtxRestore
  with_reducible repeat' first
    | assumption | apply Kept.complete | apply Kept.ctxRestoreNow | apply Kept.setPhase | simp only [Kept.upd]
    | simp only [Kept.updTop] | simp only [Kept.updHif] | simp only [Kept.updSpill] | simp only [Kept.updJrn] | dsimp only
    | split | intro

theorem Kept.ctxPoll (s : State) (hk : Kept Q G s) : Kept Q G (ctxPoll s) := by
  unfold Sys2Proof.Machine.ctxPoll
  with_reducible repeat' first
    | assumption | apply Kept.setBit | apply Kept.forEach | apply Kept.ctxRestoreNow | simp only [Kept.upd]
    | simp only [Kept.updTop] | simp only [Kept.updHif] | simp only [Kept.updSpill] | simp only [Kept.updJrn] | dsimp only
    | split | intro

theorem Kept.execCtxSave (cmd : HostCmd) (s : State) (hk : Kept Q G s) : KeptO Q G (execCtxSave cmd s) := by
  unfold Sys2Proof.Machine.execCtxSave
  with_reducible repeat' first
    | assumption | apply Kept.runCmd | apply Kept.doCtxSave | apply KeptO.next | simp only [Kept.upd]
    | simp only [Kept.updTop] | simp only [Kept.updHif] | simp only [Kept.updSpill] | simp only [Kept.updJrn] | dsimp only
    | split | intro

theorem Kept.execCtxRestore (cmd : HostCmd) (s : State) (hk : Kept Q G s) : KeptO Q G (execCtxRestore cmd s) := by
  unfold Sys2Proof.Machine.execCtxRestore
  with_reducible repeat' first
    | assumption | apply Kept.runCmd | apply Kept.doCtxRestore | apply KeptO.next | simp only [Kept.upd]
    | simp only [Kept.updTop] | simp only [Kept.updHif] | simp only [Kept.updSpill] | simp only [Kept.updJrn] | dsimp only
    | split | intro

theorem Kept.execTrngFail (s : State) (hk : Kept Q G s) : KeptO Q G (execTrngFail s) := by
  unfold Sys2Proof.Machine.execTrngFail
  with_reducible repeat' first
    | assumption | apply Kept.raise | apply Kept.setBit | apply KeptO.next | simp only [Kept.upd] | simp only [Kept.updTop]
    | simp only [Kept.updHif] | simp only [Kept.updSpill] | simp only [Kept.updJrn] | dsimp only | split | intro

theorem Kept.sigCount (s : State) (ok : Bool) (hk : Kept Q G s) : Kept Q G (sigCount s ok) := by
  unfold Sys2Proof.Machine.sigCount
  with_reducible repeat' first
    | assumption | apply Kept.secCount | apply Kept.raise | simp only [Kept.upd] | simp only [Kept.updTop]
    | simp only [Kept.updHif] | simp only [Kept.updSpill] | simp only [Kept.updJrn] | dsimp only | split | intro

theorem Kept.raiseFwFloor (s : State) (svn : Nat) (hk : Kept Q G s) :
    Kept Q G (raiseFwFloor s svn) := by
  unfold Sys2Proof.Machine.raiseFwFloor
  split
  · rename_i hc
    simp only [Bool.and_eq_true, decide_eq_true_eq] at hc
    apply Kept.raise
    apply Kept.setF
    exact ⟨hk.wf, hk.queue, ⟨hk.fuses.1, hk.fuses.2.1, hk.fuses.2.2.1.trans hc.2.le, hk.fuses.2.2.2⟩, hk.job, hk.mem⟩
  · exact hk

theorem Kept.raisePatchFloor (s : State) (svn : Nat) (hk : Kept Q G s) :
    Kept Q G (raisePatchFloor s svn) := by
  unfold Sys2Proof.Machine.raisePatchFloor
  split
  · rename_i hc
    simp only [Bool.and_eq_true, decide_eq_true_eq] at hc
    apply Kept.raise
    apply Kept.setF
    exact ⟨hk.wf, hk.queue,
      ⟨hk.fuses.1, hk.fuses.2.1, hk.fuses.2.2.1, hk.fuses.2.2.2.1.trans hc.2.le, hk.fuses.2.2.2.2⟩, hk.job, hk.mem⟩
  · exact hk

theorem Kept.doPatchLoad (m : Image) (c : HostCmd) (s : State) (hk : Kept Q G s) : Kept Q G (doPatchLoad m c s) := by
  unfold Sys2Proof.Machine.doPatchLoad
  with_reducible repeat' first
    | assumption | apply Kept.setPhase | apply Kept.sigCount | apply Kept.complete | simp only [Kept.upd]
    | simp only [Kept.updTop] | simp only [Kept.updHif] | simp only [Kept.updSpill] | simp only [Kept.updJrn] | dsimp only
    | split | intro

theorem Kept.execPatchLoad (cmd : HostCmd) (image : Image) (s : State) (hk : Kept Q G s)
    : KeptO Q G (execPatchLoad cmd image s) := by
  unfold Sys2Proof.Machine.execPatchLoad
  with_reducible repeat' first
    | assumption | apply Kept.runCmd | apply Kept.doPatchLoad | apply KeptO.next | simp only [Kept.upd]
    | simp only [Kept.updTop] | simp only [Kept.updHif] | simp only [Kept.updSpill] | simp only [Kept.updJrn] | dsimp only
    | split | intro

theorem Kept.execPatchSwitchPoint (s : State) (hk : Kept Q G s) : KeptO Q G (execPatchSwitchPoint s) := by
  unfold Sys2Proof.Machine.execPatchSwitchPoint
  with_reducible repeat' first
    | assumption | apply Kept.raisePatchFloor | apply Kept.raise | apply Kept.complete | apply KeptO.next
    | simp only [Kept.upd] | simp only [Kept.updTop] | simp only [Kept.updHif] | simp only [Kept.updSpill]
    | simp only [Kept.updJrn] | dsimp only | split | intro

theorem Kept.writeSlot (s : State) (image : Image) (sound : Bool) (hk : Kept Q G s)
    : Kept Q G (writeSlot s image sound) := by
  unfold Sys2Proof.Machine.writeSlot
  with_reducible repeat' first
    | assumption | simp only [Kept.upd] | simp only [Kept.updTop] | simp only [Kept.updHif] | simp only [Kept.updSpill]
    | simp only [Kept.updJrn] | dsimp only | split | intro

theorem Kept.execFwUpdate (image : Image) (cut : Bool) (s : State) (hk : Kept Q G s)
    : KeptO Q G (execFwUpdate image cut s) := by
  unfold Sys2Proof.Machine.execFwUpdate
  with_reducible repeat' first
    | assumption | apply Kept.mailRespond | apply Kept.sigCount | apply Kept.writeSlot | apply KeptO.next
    | simp only [Kept.upd] | simp only [Kept.updTop] | simp only [Kept.updHif] | simp only [Kept.updSpill]
    | simp only [Kept.updJrn] | dsimp only | split | intro

theorem lcsJobOf_target {s : State} {dest : LcState} {b : List Byte} {j : LcsJob} (h : lcsJobOf s dest b = some j) :
    j.target = dest := by
  unfold Sys2Proof.Machine.lcsJobOf at h
  repeat' split at h
  all_goals first | (cases h; rfl) | cases h

theorem Kept.lcsAnswer (s : State) (m : MailReq) (hk : Kept Q G s) : Kept Q G (lcsAnswer s m) := by
  unfold Sys2Proof.Machine.lcsAnswer
  dsimp only
  split
  · exact Kept.mailRespond _ _ _ hk
  split
  · exact Kept.mailRespond _ _ _ hk
  rename_i dest _
  split
  · exact Kept.mailRespond _ _ _ hk
  rename_i hstep
  split
  · exact Kept.mailRespond _ _ _ hk
  split
  · exact Kept.mailRespond _ _ _ (Kept.sigCount _ _ hk)
  have h1 := Kept.sigCount s true hk
  have hl : (Machine.sigCount s true).top = s.top := rfl
  split
  · exact Kept.mailRespond _ _ _ h1
  rename_i j hj
  apply Kept.mailRespond
  refine ⟨h1.wf, h1.queue, h1.fuses, ?_, h1.mem⟩
  intro j' hj'
  simp only [hl, Option.some.injEq] at hj'
  simp only [Bool.or_eq_true, Bool.not_eq_true', not_or, Bool.not_eq_false] at hstep
  cases hjob : s.top.lcsJob with
  | some k => rw [hjob] at hj'; subst hj'; exact hk.job _ hjob
  | none =>
    rw [hjob] at hj'; subst hj'
    simp only [hl, Option.getD_none, lcsJobOf_target hj]
    exact hstep.1.2

theorem Kept.execLcsChange (s : State) (hk : Kept Q G s) : KeptO Q G (execLcsChange s) := by
  unfold Sys2Proof.Machine.execLcsChange
  with_reducible repeat' first
    | assumption | apply Kept.mailRespond | apply Kept.lcsAnswer | apply KeptO.next | simp only [Kept.upd]
    | simp only [Kept.updTop] | simp only [Kept.updHif] | simp only [Kept.updSpill] | simp only [Kept.updJrn] | dsimp only
    | split | intro

theorem Kept.execMailboxResponse (s : State) (hk : Kept Q G s) : KeptO Q G (execMailboxResponse s) := by
  unfold Sys2Proof.Machine.execMailboxResponse
  with_reducible repeat' first
    | assumption | apply Kept.mailRespond | apply Kept.lcsAnswer | apply KeptO.next | simp only [Kept.upd]
    | simp only [Kept.updTop] | simp only [Kept.updHif] | simp only [Kept.updSpill] | simp only [Kept.updJrn] | dsimp only
    | split | intro

theorem Kept.setLatch (s : State) (rq : Requester) (a : Nat) (v : Word) (hk : Kept Q G s)
    : Kept Q G (setLatch s rq a v) := by
  unfold Sys2Proof.Machine.setLatch
  with_reducible repeat' first
    | assumption | simp only [Kept.upd] | simp only [Kept.updTop] | simp only [Kept.updHif] | simp only [Kept.updSpill]
    | simp only [Kept.updJrn] | dsimp only | split | intro

theorem Kept.latchNow (s : State) (rq : Requester) (hk : Kept Q G s) : Kept Q G (latchNow s rq) := by
  unfold Sys2Proof.Machine.latchNow
  with_reducible repeat' first
    | assumption | apply Kept.setLatch | simp only [Kept.upd] | simp only [Kept.updTop] | simp only [Kept.updHif]
    | simp only [Kept.updSpill] | simp only [Kept.updJrn] | dsimp only | split | intro

theorem Kept.execNowNsRead (rq : Requester) (s : State) (hk : Kept Q G s) : KeptO Q G (execNowNsRead rq s) := by
  unfold Sys2Proof.Machine.execNowNsRead
  with_reducible repeat' first
    | assumption | apply Kept.emit | apply Kept.latchNow | apply KeptO.next | simp only [Kept.upd] | simp only [Kept.updTop]
    | simp only [Kept.updHif] | simp only [Kept.updSpill] | simp only [Kept.updJrn] | dsimp only | split | intro

theorem Kept.execFreqWrite (value : Word) (s : State) (hk : Kept Q G s) : KeptO Q G (execFreqWrite value s) := by
  unfold Sys2Proof.Machine.execFreqWrite
  with_reducible repeat' first
    | assumption | apply Kept.holdWrite | apply Kept.setReg | apply KeptO.next | simp only [Kept.upd]
    | simp only [Kept.updTop] | simp only [Kept.updHif] | simp only [Kept.updSpill] | simp only [Kept.updJrn] | dsimp only
    | split | intro

theorem Kept.putPulse (s : State) (n : Nat) (p : Pulse) (hk : Kept Q G s) : Kept Q G (putPulse s n p) := by
  unfold Sys2Proof.Machine.putPulse
  with_reducible repeat' first
    | assumption | simp only [Kept.upd] | simp only [Kept.updTop] | simp only [Kept.updHif] | simp only [Kept.updSpill]
    | simp only [Kept.updJrn] | dsimp only | split | intro

theorem Kept.firePulse (n : Nat) (s : State) (hk : Kept Q G s) : Kept Q G (firePulse n s) := by
  unfold Sys2Proof.Machine.firePulse
  with_reducible repeat' first
    | assumption | apply Kept.putPulse | apply Kept.emit | apply Kept.setBit | simp only [Kept.upd] | simp only [Kept.updTop]
    | simp only [Kept.updHif] | simp only [Kept.updSpill] | simp only [Kept.updJrn] | dsimp only | split | intro

theorem firstDue_mem {l : List (Nat × (State → State))} {e : Nat × (State → State)} (h : firstDue l = some e) : e ∈ l := by
  suffices ∀ (l : List (Nat × (State → State))) (b : Option (Nat × (State → State))),
      l.foldl (fun b x => match b with
        | none => some x
        | some y => if x.1 < y.1 then some x else some y) b = some e → e ∈ l ∨ b = some e by
    rcases this l none h with h | h
    · exact h
    · cases h
  intro l
  induction l with
  | nil => exact fun b h => .inr h
  | cons x r ih =>
    intro b h
    rw [List.foldl_cons] at h
    rcases ih _ h with h' | h'
    · exact .inl (List.mem_cons_of_mem _ h')
    · split at h'
      · cases h'; exact .inl List.mem_cons_self
      · split at h' <;> cases h'
        · exact .inl List.mem_cons_self
        · exact .inr rfl

theorem Kept.fireFirst (s : State) (hk : Kept Q G s) : Kept Q G (fireFirst s) := by
  unfold Sys2Proof.Machine.fireFirst
  split
  · rename_i e he
    have hm := firstDue_mem he
    unfold Sys2Proof.Machine.dueEvents at hm
    simp only [List.mem_append, List.mem_filterMap] at hm
    rcases hm with (⟨g, _, hg⟩ | ⟨x, _, hx⟩) | ⟨x, _, hx⟩
    · split at hg
      · split at hg
        · cases hg; exact Kept.rowState _ _ hk (Kept.execCommitInstant _ _ hk)
        · cases hg
      · cases hg
    · split at hx
      · split at hx
        · cases hx; exact Kept.takeSwitch _ _ hk
        · cases hx
      · cases hx
    · split at hx
      · cases hx; exact Kept.firePulse _ _ hk
      · cases hx
  · exact hk

theorem Kept.captureSnaps (s : State) (hk : Kept Q G s) : Kept Q G (captureSnaps s) := by
  unfold Sys2Proof.Machine.captureSnaps
  with_reducible repeat' first
    | assumption | apply Kept.forEach | simp only [Kept.upd] | simp only [Kept.updTop] | simp only [Kept.updHif]
    | simp only [Kept.updSpill] | simp only [Kept.updJrn] | dsimp only | split | intro

theorem Kept.fireDue (f : State → State) (s : State) (hf : ∀ t, Kept Q G t → Kept Q G (f t)) (hk : Kept Q G s)
    : Kept Q G (fireDue f s) := by
  unfold Sys2Proof.Machine.fireDue
  with_reducible repeat' first
    | assumption | apply hf | apply Kept.captureSnaps | apply Kept.forEach | apply Kept.fireFirst | simp only [Kept.upd]
    | simp only [Kept.updTop] | simp only [Kept.updHif] | simp only [Kept.updSpill] | simp only [Kept.updJrn] | dsimp only
    | split | intro

theorem Kept.execScheduledEventFire (s : State) (hk : Kept Q G s) : KeptO Q G (execScheduledEventFire s) := by
  unfold Sys2Proof.Machine.execScheduledEventFire
  with_reducible repeat' first
    | assumption | apply Kept.captureSnaps | apply Kept.fireFirst | apply KeptO.next | simp only [Kept.upd]
    | simp only [Kept.updTop] | simp only [Kept.updHif] | simp only [Kept.updSpill] | simp only [Kept.updJrn] | dsimp only
    | split | intro

theorem Kept.endSlew (s : State) (hk : Kept Q G s) : Kept Q G (endSlew s) := by
  unfold Sys2Proof.Machine.endSlew
  with_reducible repeat' first
    | assumption | apply Kept.setReg64 | simp only [Kept.upd] | simp only [Kept.updTop] | simp only [Kept.updHif]
    | simp only [Kept.updSpill] | simp only [Kept.updJrn] | dsimp only | split | intro

theorem Kept.refillFrom (s : State) (hk : Kept Q G s) : Kept Q G (refillFrom s) := by
  unfold Sys2Proof.Machine.refillFrom
  with_reducible repeat' first
    | assumption | simp only [Kept.upd] | simp only [Kept.updTop] | simp only [Kept.updHif] | simp only [Kept.updSpill]
    | simp only [Kept.updJrn] | dsimp only | split | intro

theorem Kept.resumePulses (s : State) (hk : Kept Q G s) : Kept Q G (resumePulses s) := by
  unfold Sys2Proof.Machine.resumePulses
  with_reducible repeat' first
    | assumption | simp only [Kept.upd] | simp only [Kept.updTop] | simp only [Kept.updHif] | simp only [Kept.updSpill]
    | simp only [Kept.updJrn] | dsimp only | split | intro

theorem Kept.setClock (c : HostCmd) (k : Clock) (s : State) (hk : Kept Q G s) : Kept Q G (setClock c k s) := by
  unfold Sys2Proof.Machine.setClock
  dsimp only
  apply Kept.complete
  apply Kept.fireDue _ _ (fun t ht => Kept.resumePulses _ ht)
  apply Kept.resumePulses
  apply Kept.refillFrom
  rw [Kept.upd]
  exact Kept.endSlew _ (Kept.fireDue _ _ (fun t ht => ht) hk)

theorem Kept.doTimeSet (c : HostCmd) (s : State) (hk : Kept Q G s) : Kept Q G (doTimeSet c s) := by
  unfold Sys2Proof.Machine.doTimeSet
  with_reducible repeat' first
    | assumption | apply Kept.complete | apply Kept.setClock | apply Kept.setReg64 | simp only [Kept.upd]
    | simp only [Kept.updTop] | simp only [Kept.updHif] | simp only [Kept.updSpill] | simp only [Kept.updJrn] | dsimp only
    | split | intro

theorem Kept.execTimeSetSet (cmd : HostCmd) (s : State) (hk : Kept Q G s) : KeptO Q G (execTimeSetSet cmd s) := by
  unfold Sys2Proof.Machine.execTimeSetSet
  with_reducible repeat' first
    | assumption | apply Kept.runCmd | apply Kept.doTimeSet | apply KeptO.next | simp only [Kept.upd]
    | simp only [Kept.updTop] | simp only [Kept.updHif] | simp only [Kept.updSpill] | simp only [Kept.updJrn] | dsimp only
    | split | intro

theorem Kept.execTimeSetStep (cmd : HostCmd) (s : State) (hk : Kept Q G s) : KeptO Q G (execTimeSetStep cmd s) := by
  unfold Sys2Proof.Machine.execTimeSetStep
  with_reducible repeat' first
    | assumption | apply Kept.runCmd | apply Kept.doTimeSet | apply KeptO.next | simp only [Kept.upd]
    | simp only [Kept.updTop] | simp only [Kept.updHif] | simp only [Kept.updSpill] | simp only [Kept.updJrn] | dsimp only
    | split | intro

theorem Kept.execTimeSetSlew (cmd : HostCmd) (s : State) (hk : Kept Q G s) : KeptO Q G (execTimeSetSlew cmd s) := by
  unfold Sys2Proof.Machine.execTimeSetSlew
  with_reducible repeat' first
    | assumption | apply Kept.runCmd | apply Kept.doTimeSet | apply KeptO.next | simp only [Kept.upd]
    | simp only [Kept.updTop] | simp only [Kept.updHif] | simp only [Kept.updSpill] | simp only [Kept.updJrn] | dsimp only
    | split | intro

theorem Kept.execSlewComplete (s : State) (hk : Kept Q G s) : KeptO Q G (execSlewComplete s) := by
  unfold Sys2Proof.Machine.execSlewComplete
  with_reducible repeat' first
    | assumption | apply Kept.raise | apply Kept.setReg64 | apply KeptO.next | simp only [Kept.upd] | simp only [Kept.updTop]
    | simp only [Kept.updHif] | simp only [Kept.updSpill] | simp only [Kept.updJrn] | dsimp only | split | intro

theorem Kept.loseRef (s : State) (hk : Kept Q G s) : Kept Q G (loseRef s) := by
  unfold Sys2Proof.Machine.loseRef
  with_reducible repeat' first
    | assumption | apply Kept.raise | apply Kept.clearBringup | apply Kept.setF | simp only [Kept.upd]
    | simp only [Kept.updTop] | simp only [Kept.updHif] | simp only [Kept.updSpill] | simp only [Kept.updJrn] | dsimp only
    | split | intro

theorem Kept.execReferenceLost (s : State) (hk : Kept Q G s) : KeptO Q G (execReferenceLost s) := by
  unfold Sys2Proof.Machine.execReferenceLost
  with_reducible repeat' first
    | assumption | apply Kept.loseRef | apply KeptO.next | simp only [Kept.upd] | simp only [Kept.updTop]
    | simp only [Kept.updHif] | simp only [Kept.updSpill] | simp only [Kept.updJrn] | dsimp only | split | intro

theorem Kept.execRefSelWrite (value : Word) (s : State) (hk : Kept Q G s) : KeptO Q G (execRefSelWrite value s) := by
  unfold Sys2Proof.Machine.execRefSelWrite
  with_reducible repeat' first
    | assumption | apply Kept.holdWrite | apply Kept.loseRef | apply Kept.setBit | apply KeptO.next | simp only [Kept.upd]
    | simp only [Kept.updTop] | simp only [Kept.updHif] | simp only [Kept.updSpill] | simp only [Kept.updJrn] | dsimp only
    | split | intro

theorem Kept.execTimeLock (s : State) (hk : Kept Q G s) : KeptO Q G (execTimeLock s) := by
  unfold Sys2Proof.Machine.execTimeLock
  with_reducible repeat' first
    | assumption | apply Kept.raise | apply Kept.setBringup | apply Kept.setF | apply KeptO.next | simp only [Kept.upd]
    | simp only [Kept.updTop] | simp only [Kept.updHif] | simp only [Kept.updSpill] | simp only [Kept.updJrn] | dsimp only
    | split | intro

theorem Kept.execCaptureEdge (set : Nat) (falling : Bool) (s : State) (hk : Kept Q G s)
    : KeptO Q G (execCaptureEdge set falling s) := by
  unfold Sys2Proof.Machine.execCaptureEdge
  with_reducible repeat' first
    | assumption | apply Kept.setBit | apply Kept.setReg | apply Kept.raise | apply Kept.setReg64 | apply KeptO.next
    | simp only [Kept.upd] | simp only [Kept.updTop] | simp only [Kept.updHif] | simp only [Kept.updSpill]
    | simp only [Kept.updJrn] | dsimp only | split | intro

theorem Kept.pulseArm (n : Nat) (value : Word) (s : State) (hk : Kept Q G s) : Kept Q G (pulseArm n value s) := by
  unfold Sys2Proof.Machine.pulseArm
  with_reducible repeat' first
    | assumption | apply Kept.setBit | apply Kept.setF | apply Kept.putPulse | apply Kept.raise | simp only [Kept.upd]
    | simp only [Kept.updTop] | simp only [Kept.updHif] | simp only [Kept.updSpill] | simp only [Kept.updJrn] | dsimp only
    | split | intro

theorem Kept.execPulseArm (n : Nat) (value : Word) (s : State) (hk : Kept Q G s) : KeptO Q G (execPulseArm n value s) := by
  unfold Sys2Proof.Machine.execPulseArm
  with_reducible repeat' first
    | assumption | apply Kept.holdWrite | apply Kept.pulseArm | apply KeptO.next | simp only [Kept.upd]
    | simp only [Kept.updTop] | simp only [Kept.updHif] | simp only [Kept.updSpill] | simp only [Kept.updJrn] | dsimp only
    | split | intro

theorem Kept.pulseStop (n : Nat) (value : Word) (s : State) (hk : Kept Q G s) : Kept Q G (pulseStop n value s) := by
  unfold Sys2Proof.Machine.pulseStop
  with_reducible repeat' first
    | assumption | apply Kept.setF | apply Kept.putPulse | simp only [Kept.upd] | simp only [Kept.updTop]
    | simp only [Kept.updHif] | simp only [Kept.updSpill] | simp only [Kept.updJrn] | dsimp only | split | intro

theorem Kept.execPulseStop (n : Nat) (value : Word) (s : State) (hk : Kept Q G s) : KeptO Q G (execPulseStop n value s) := by
  unfold Sys2Proof.Machine.execPulseStop
  with_reducible repeat' first
    | assumption | apply Kept.holdWrite | apply Kept.pulseStop | apply KeptO.next | simp only [Kept.upd]
    | simp only [Kept.updTop] | simp only [Kept.updHif] | simp only [Kept.updSpill] | simp only [Kept.updJrn] | dsimp only
    | split | intro

theorem Kept.execPulseEdge (n : Nat) (s : State) (hk : Kept Q G s) : KeptO Q G (execPulseEdge n s) := by
  unfold Sys2Proof.Machine.execPulseEdge
  with_reducible repeat' first
    | assumption | apply Kept.firePulse | apply KeptO.next | simp only [Kept.upd] | simp only [Kept.updTop]
    | simp only [Kept.updHif] | simp only [Kept.updSpill] | simp only [Kept.updJrn] | dsimp only | split | intro

theorem Kept.setLatency (s : State) (l lanes rate : Nat) (hk : Kept Q G s) : Kept Q G (setLatency s l lanes rate) := by
  unfold Sys2Proof.Machine.setLatency
  with_reducible repeat' first
    | assumption | apply Kept.setReg | simp only [Kept.upd] | simp only [Kept.updTop] | simp only [Kept.updHif]
    | simp only [Kept.updSpill] | simp only [Kept.updJrn] | dsimp only | split | intro

theorem Kept.setStall (s : State) (n : Nat) (x : Stall) (hk : Kept Q G s) : Kept Q G (setStall s n x) := by
  unfold Sys2Proof.Machine.setStall
  with_reducible repeat' first
    | assumption | simp only [Kept.upd] | simp only [Kept.updTop] | simp only [Kept.updHif] | simp only [Kept.updSpill]
    | simp only [Kept.updJrn] | dsimp only | split | intro

theorem Kept.passOn (s : State) (n : Nat) (f : Flight) (hk : Kept Q G s) : Kept Q G (passOn s n f) := by
  unfold Sys2Proof.Machine.passOn
  with_reducible repeat' first
    | assumption | simp only [Kept.upd] | simp only [Kept.updTop] | simp only [Kept.updHif] | simp only [Kept.updSpill]
    | simp only [Kept.updJrn] | dsimp only | split | intro

theorem Kept.mktErr (s : State) (bit : Nat) (hk : Kept Q G s) : Kept Q G (mktErr s bit) := by
  unfold Sys2Proof.Machine.mktErr
  with_reducible repeat' first
    | assumption | apply Kept.raise | apply Kept.setBit | simp only [Kept.upd] | simp only [Kept.updTop]
    | simp only [Kept.updHif] | simp only [Kept.updSpill] | simp only [Kept.updJrn] | dsimp only | split | intro

theorem Kept.execCarveWrite (value : Word) (s : State) (hk : Kept Q G s) : KeptO Q G (execCarveWrite value s) := by
  unfold Sys2Proof.Machine.execCarveWrite
  with_reducible repeat' first
    | assumption | apply Kept.holdWrite | apply Kept.whenB | apply Kept.mktErr | apply Kept.setReg | apply Kept.forEach
    | apply Kept.setF | apply KeptO.next | simp only [Kept.upd] | simp only [Kept.updTop] | simp only [Kept.updHif]
    | simp only [Kept.updSpill] | simp only [Kept.updJrn] | dsimp only | split | intro

theorem Kept.execReserveWrite (hdrm : Bool) (value : Word) (s : State) (hk : Kept Q G s)
    : KeptO Q G (execReserveWrite hdrm value s) := by
  unfold Sys2Proof.Machine.execReserveWrite
  with_reducible repeat' first
    | assumption | apply Kept.holdWrite | apply Kept.mktErr | apply Kept.setF | apply KeptO.next | simp only [Kept.upd]
    | simp only [Kept.updTop] | simp only [Kept.updHif] | simp only [Kept.updSpill] | simp only [Kept.updJrn] | dsimp only
    | split | intro

theorem Kept.markEgress (s : State) (id reason : Nat) (hk : Kept Q G s) : Kept Q G (markEgress s id reason) := by
  unfold Sys2Proof.Machine.markEgress
  with_reducible repeat' first
    | assumption | simp only [Kept.upd] | simp only [Kept.updTop] | simp only [Kept.updHif] | simp only [Kept.updSpill]
    | simp only [Kept.updJrn] | dsimp only | split | intro

theorem Kept.dropEntries (s : State) (q id reason : Nat) (hk : Kept Q G s) : Kept Q G (dropEntries s q id reason) := by
  unfold Sys2Proof.Machine.dropEntries
  with_reducible repeat' first
    | assumption | apply Kept.setQueue | apply Kept.forEach | apply Kept.dropQueued | simp only [Kept.upd]
    | simp only [Kept.updTop] | simp only [Kept.updHif] | simp only [Kept.updSpill] | simp only [Kept.updJrn] | dsimp only
    | split | intro

theorem Kept.loseFrame (s : State) (id reason : Nat) (hk : Kept Q G s) : Kept Q G (loseFrame s id reason) := by
  unfold Sys2Proof.Machine.loseFrame
  with_reducible repeat' first
    | assumption | apply Kept.markEgress | apply Kept.forEach | apply Kept.dropEntries | simp only [Kept.upd]
    | simp only [Kept.updTop] | simp only [Kept.updHif] | simp only [Kept.updSpill] | simp only [Kept.updJrn] | dsimp only
    | split | intro

theorem Kept.retireBank (s : State) (b : Nat) (hk : Kept Q G s) : Kept Q G (retireBank s b) := by
  unfold Sys2Proof.Machine.retireBank
  with_reducible repeat' first
    | assumption | apply Kept.setF | apply Kept.setBit | apply Kept.forEach | apply Kept.raise | apply Kept.loseFrame
    | simp only [Kept.upd] | simp only [Kept.updTop] | simp only [Kept.updHif] | simp only [Kept.updSpill]
    | simp only [Kept.updJrn] | dsimp only | split | intro

theorem Kept.execBankRetire (bank : Nat) (value : Word) (s : State) (hk : Kept Q G s)
    : KeptO Q G (execBankRetire bank value s) := by
  unfold Sys2Proof.Machine.execBankRetire
  with_reducible repeat' first
    | assumption | apply Kept.holdWrite | apply Kept.retireBank | apply KeptO.next | simp only [Kept.upd]
    | simp only [Kept.updTop] | simp only [Kept.updHif] | simp only [Kept.updSpill] | simp only [Kept.updJrn] | dsimp only
    | split | intro

theorem Kept.marketError (s : State) (c : Copy) (unit part : Nat) (hk : Kept Q G s)
    : Kept Q G (marketError s c unit part) := by
  unfold Sys2Proof.Machine.marketError
  with_reducible repeat' first
    | assumption | apply Kept.add64 | apply Kept.satF | apply Kept.drawn | apply Kept.fault | apply Kept.retireBank
    | simp only [Kept.upd] | simp only [Kept.updTop] | simp only [Kept.updHif] | simp only [Kept.updSpill]
    | simp only [Kept.updJrn] | dsimp only | split | intro

theorem Kept.marketRead (s : State) (c : Copy) (err : Option DataErr) (hk : Kept Q G s)
    : Kept Q G (marketRead s c err).1 := by
  unfold Sys2Proof.Machine.marketRead
  with_reducible repeat' first
    | assumption | apply Kept.satF | apply Kept.marketError | simp only [Kept.upd] | simp only [Kept.updTop]
    | simp only [Kept.updHif] | simp only [Kept.updSpill] | simp only [Kept.updJrn] | dsimp only | split | intro

theorem Kept.execAuditSweep (s : State) (hk : Kept Q G s) : KeptO Q G (execAuditSweep s) := by
  unfold Sys2Proof.Machine.execAuditSweep
  with_reducible repeat' first
    | assumption | apply Kept.setBit | apply KeptO.next | simp only [Kept.upd] | simp only [Kept.updTop]
    | simp only [Kept.updHif] | simp only [Kept.updSpill] | simp only [Kept.updJrn] | dsimp only | split | intro

theorem Kept.reportLeak (s : State) (ua : Nat) (hk : Kept Q G s) : Kept Q G (reportLeak s ua) := by
  unfold Sys2Proof.Machine.reportLeak
  with_reducible repeat' first
    | assumption | apply Kept.setReg64 | apply Kept.fault | apply Kept.add64 | apply Kept.freeUnit | simp only [Kept.upd]
    | simp only [Kept.updTop] | simp only [Kept.updHif] | simp only [Kept.updSpill] | simp only [Kept.updJrn] | dsimp only
    | split | intro

theorem Kept.execAuditSweepEnd (s : State) (hk : Kept Q G s) : KeptO Q G (execAuditSweepEnd s) := by
  unfold Sys2Proof.Machine.execAuditSweepEnd
  with_reducible repeat' first
    | assumption | apply Kept.forEach | apply Kept.reportLeak | apply Kept.setReg | apply KeptO.next | simp only [Kept.upd]
    | simp only [Kept.updTop] | simp only [Kept.updHif] | simp only [Kept.updSpill] | simp only [Kept.updJrn] | dsimp only
    | split | intro

theorem Kept.clearBuf (s : State) (ua n : Nat) (hk : Kept Q G s) : Kept Q G (clearBuf s ua n) := by
  unfold Sys2Proof.Machine.clearBuf
  exact Kept.withBuf hk fun h => mapWfFrom_filter h

theorem Kept.doBufAlloc (c : HostCmd) (s : State) (hk : Kept Q G s) : Kept Q G (doBufAlloc c s) := by
  unfold Sys2Proof.Machine.doBufAlloc
  with_reducible repeat' first
    | assumption | apply Kept.complete | apply Kept.requestUnit | apply Kept.setReg64 | apply Kept.clearBuf
    | apply Kept.addHostUsed | apply Kept.drawn | simp only [Kept.upd] | simp only [Kept.updTop] | simp only [Kept.updHif]
    | simp only [Kept.updSpill] | simp only [Kept.updJrn] | dsimp only | split | intro

theorem Kept.execBufAlloc (cmd : HostCmd) (s : State) (hk : Kept Q G s) : KeptO Q G (execBufAlloc cmd s) := by
  unfold Sys2Proof.Machine.execBufAlloc
  with_reducible repeat' first
    | assumption | apply Kept.runCmd | apply Kept.doBufAlloc | apply KeptO.next | simp only [Kept.upd]
    | simp only [Kept.updTop] | simp only [Kept.updHif] | simp only [Kept.updSpill] | simp only [Kept.updJrn] | dsimp only
    | split | intro

theorem Kept.checkHandle (s : State) (ua : Nat) (hk : Kept Q G s) : Kept Q G (checkHandle s ua).1 := by
  unfold Sys2Proof.Machine.checkHandle
  with_reducible repeat' first
    | assumption | apply Kept.freeRefused | simp only [Kept.upd] | simp only [Kept.updTop] | simp only [Kept.updHif]
    | simp only [Kept.updSpill] | simp only [Kept.updJrn] | dsimp only | split | intro

theorem Kept.unmapBuf (s : State) (ua : Nat) (hk : Kept Q G s) : Kept Q G (unmapBuf s ua) := by
  unfold Sys2Proof.Machine.unmapBuf
  with_reducible repeat' first
    | assumption | apply Kept.addHostUsed | simp only [Kept.upd] | simp only [Kept.updTop] | simp only [Kept.updHif]
    | simp only [Kept.updSpill] | simp only [Kept.updJrn] | dsimp only | split | intro

theorem Kept.doBufFree (c : HostCmd) (s : State) (hk : Kept Q G s) : Kept Q G (doBufFree c s) := by
  unfold Sys2Proof.Machine.doBufFree
  with_reducible repeat' first
    | assumption | apply Kept.checkHandle | apply Kept.complete | apply Kept.freeUnit | apply Kept.unmapBuf
    | simp only [Kept.upd] | simp only [Kept.updTop] | simp only [Kept.updHif] | simp only [Kept.updSpill]
    | simp only [Kept.updJrn] | dsimp only | split | intro

theorem Kept.execBufFree (cmd : HostCmd) (s : State) (hk : Kept Q G s) : KeptO Q G (execBufFree cmd s) := by
  unfold Sys2Proof.Machine.execBufFree
  with_reducible repeat' first
    | assumption | apply Kept.runCmd | apply Kept.doBufFree | apply KeptO.next | simp only [Kept.upd]
    | simp only [Kept.updTop] | simp only [Kept.updHif] | simp only [Kept.updSpill] | simp only [Kept.updJrn] | dsimp only
    | split | intro

theorem Kept.takeId (s : State) (hk : Kept Q G s) : Kept Q G (takeId s) := by
  unfold Sys2Proof.Machine.takeId
  with_reducible repeat' first
    | assumption | simp only [Kept.upd] | simp only [Kept.updTop] | simp only [Kept.updHif] | simp only [Kept.updSpill]
    | simp only [Kept.updJrn] | dsimp only | split | intro

theorem Kept.sendIngress (c : HostCmd) (s : State) (hk : Kept Q G s) : Kept Q G (sendIngress c s) := by
  unfold Sys2Proof.Machine.sendIngress
  with_reducible repeat' first
    | assumption | apply Kept.setPhase | apply Kept.takeId | simp only [Kept.upd] | simp only [Kept.updTop]
    | simp only [Kept.updHif] | simp only [Kept.updSpill] | simp only [Kept.updJrn] | dsimp only | split | intro

theorem Kept.admitUnit (s : State) (p : Packet) (c : Copy) (ua : Nat) (hk : Kept Q G s) : Kept Q G (admitUnit s p c ua) := by
  unfold Sys2Proof.Machine.admitUnit
  with_reducible repeat' first
    | assumption | apply Kept.notePitch | apply Kept.freeUnit | apply Kept.dropPacket | apply Kept.unmapBuf
    | apply Kept.ecnApply | apply Kept.spillStep | apply Kept.ecnCount | apply Kept.enqueueCopies | simp only [Kept.upd]
    | simp only [Kept.updTop] | simp only [Kept.updHif] | simp only [Kept.updSpill] | simp only [Kept.updJrn] | dsimp only
    | split | intro

theorem Kept.sendEgress (c : HostCmd) (s : State) (hk : Kept Q G s) : Kept Q G (sendEgress c s) := by
  unfold Sys2Proof.Machine.sendEgress
  with_reducible repeat' first
    | assumption | apply Kept.takeId | apply Kept.admitUnit | apply Kept.freeUnit | apply Kept.dropPacket
    | apply Kept.unmapBuf | apply Kept.complete | simp only [Kept.upd] | simp only [Kept.updTop] | simp only [Kept.updHif]
    | simp only [Kept.updSpill] | simp only [Kept.updJrn] | dsimp only | split | intro

theorem Kept.doBufSend (c : HostCmd) (s : State) (hk : Kept Q G s) : Kept Q G (doBufSend c s) := by
  unfold Sys2Proof.Machine.doBufSend
  with_reducible repeat' first
    | assumption | apply Kept.checkHandle | apply Kept.complete | apply Kept.sendEgress | apply Kept.sendIngress
    | simp only [Kept.upd] | simp only [Kept.updTop] | simp only [Kept.updHif] | simp only [Kept.updSpill]
    | simp only [Kept.updJrn] | dsimp only | split | intro

theorem Kept.execBufSendIngress (cmd : HostCmd) (s : State) (hk : Kept Q G s) : KeptO Q G (execBufSendIngress cmd s) := by
  unfold Sys2Proof.Machine.execBufSendIngress
  with_reducible repeat' first
    | assumption | apply Kept.runCmd | apply Kept.doBufSend | apply KeptO.next | simp only [Kept.upd]
    | simp only [Kept.updTop] | simp only [Kept.updHif] | simp only [Kept.updSpill] | simp only [Kept.updJrn] | dsimp only
    | split | intro

theorem Kept.execBufSendEgress (cmd : HostCmd) (s : State) (hk : Kept Q G s) : KeptO Q G (execBufSendEgress cmd s) := by
  unfold Sys2Proof.Machine.execBufSendEgress
  with_reducible repeat' first
    | assumption | apply Kept.runCmd | apply Kept.doBufSend | apply KeptO.next | simp only [Kept.upd]
    | simp only [Kept.updTop] | simp only [Kept.updHif] | simp only [Kept.updSpill] | simp only [Kept.updJrn] | dsimp only
    | split | intro

theorem Kept.schErr (s : State) (g bit : Nat) (hk : Kept Q G s) : Kept Q G (schErr s g bit) := by
  unfold Sys2Proof.Machine.schErr
  with_reducible repeat' first
    | assumption | apply Kept.raise | apply Kept.setBit | simp only [Kept.upd] | simp only [Kept.updTop]
    | simp only [Kept.updHif] | simp only [Kept.updSpill] | simp only [Kept.updJrn] | dsimp only | split | intro

theorem Kept.execPortQWrite (lane : Nat) (value : Word) (s : State) (hk : Kept Q G s)
    : KeptO Q G (execPortQWrite lane value s) := by
  unfold Sys2Proof.Machine.execPortQWrite
  with_reducible repeat' first
    | assumption | apply Kept.holdWrite | apply Kept.whenB | apply Kept.schErr | apply Kept.setReg | apply KeptO.next
    | simp only [Kept.upd] | simp only [Kept.updTop] | simp only [Kept.updHif] | simp only [Kept.updSpill]
    | simp only [Kept.updJrn] | dsimp only | split | intro

theorem Kept.setPort (s : State) (l : Nat) (x : PortSt) (hk : Kept Q G s) : Kept Q G (setPort s l x) := by
  unfold Sys2Proof.Machine.setPort
  with_reducible repeat' first
    | assumption | simp only [Kept.upd] | simp only [Kept.updTop] | simp only [Kept.updHif] | simp only [Kept.updSpill]
    | simp only [Kept.updJrn] | dsimp only | split | intro

theorem Kept.dropExpired (fuel : Nat) (s : State) (l q : Nat) (hk : Kept Q G s) :
    Kept Q G (dropExpired fuel s l q) := by
  induction fuel generalizing s with
  | zero => exact hk
  | succ f ih =>
    unfold Sys2Proof.Machine.dropExpired
    repeat' first
      | with_reducible assumption | with_reducible apply ih | with_reducible apply Kept.raiseLimited
      | with_reducible apply Kept.setBit | with_reducible apply Kept.add64 | with_reducible apply Kept.dropQueued
      | with_reducible apply Kept.setQueue | dsimp only | split | intro

theorem Kept.expireGroup (s : State) (g : Nat) (hk : Kept Q G s) : Kept Q G (expireGroup s g) := by
  unfold Sys2Proof.Machine.expireGroup
  with_reducible repeat' first
    | assumption | apply Kept.forEach | apply Kept.dropExpired | simp only [Kept.upd] | simp only [Kept.updTop]
    | simp only [Kept.updHif] | simp only [Kept.updSpill] | simp only [Kept.updJrn] | dsimp only | split | intro

theorem Kept.chargeBuckets (s : State) (l q : Nat) (len : Int) (hk : Kept Q G s) : Kept Q G (chargeBuckets s l q len) := by
  unfold Sys2Proof.Machine.chargeBuckets
  with_reducible repeat' first
    | assumption | simp only [Kept.upd] | simp only [Kept.updTop] | simp only [Kept.updHif] | simp only [Kept.updSpill]
    | simp only [Kept.updJrn] | dsimp only | split | intro

theorem Kept.dropDequeued (s : State) (c : Copy) (reason : Nat) (hk : Kept Q G s) : Kept Q G (dropDequeued s c reason) := by
  unfold Sys2Proof.Machine.dropDequeued
  with_reducible repeat' first
    | assumption | apply Kept.dropQueued | simp only [Kept.upd] | simp only [Kept.updTop] | simp only [Kept.updHif]
    | simp only [Kept.updSpill] | simp only [Kept.updJrn] | dsimp only | split | intro

theorem Kept.dequeueSched (s : State) (g l q pass : Nat) (deficits : Store Int) (c : Copy) (hk : Kept Q G s)
    : Kept Q G (dequeueSched s g l q pass deficits c) := by
  unfold Sys2Proof.Machine.dequeueSched
  with_reducible repeat' first
    | assumption | simp only [Kept.upd] | simp only [Kept.updTop] | simp only [Kept.updHif] | simp only [Kept.updSpill]
    | simp only [Kept.updJrn] | dsimp only | split | intro

theorem Kept.dequeueHead
    (s : State) (g l q pass : Nat) (deficits : Store Int) (c : Copy) (rest : List Copy) (err : Option DataErr) (hk : Kept Q G s)
    : Kept Q G (dequeueHead s g l q pass deficits c rest err) := by
  unfold Sys2Proof.Machine.dequeueHead
  with_reducible repeat' first
    | assumption | apply Kept.chargeBuckets | apply Kept.setQueue | apply Kept.dequeueSched | apply Kept.marketRead
    | apply Kept.noteShare | apply Kept.pmcEvent | apply Kept.dropDequeued | apply Kept.passOn | simp only [Kept.upd]
    | simp only [Kept.updTop] | simp only [Kept.updHif] | simp only [Kept.updSpill] | simp only [Kept.updJrn] | dsimp only
    | split | intro

theorem Kept.execDequeueDecision (g : Nat) (err : Option DataErr) (s : State) (hk : Kept Q G s)
    : KeptO Q G (execDequeueDecision g err s) := by
  unfold Sys2Proof.Machine.execDequeueDecision
  with_reducible repeat' first
    | assumption | apply Kept.expireGroup | apply Kept.dequeueHead | apply KeptO.next | simp only [Kept.upd]
    | simp only [Kept.updTop] | simp only [Kept.updHif] | simp only [Kept.updSpill] | simp only [Kept.updJrn] | dsimp only
    | split | intro

theorem Kept.execRefillBoundary (s : State) (hk : Kept Q G s) : KeptO Q G (execRefillBoundary s) := by
  unfold Sys2Proof.Machine.execRefillBoundary
  with_reducible repeat' first
    | assumption | apply Kept.forEach | apply Kept.setBit | apply Kept.foldl | apply Kept.foldl1 | apply KeptO.next
    | simp only [Kept.upd] | simp only [Kept.updTop] | simp only [Kept.updHif] | simp only [Kept.updSpill]
    | simp only [Kept.updJrn] | dsimp only | split | intro

theorem Kept.setPause (s : State) (l n until_ : Nat) (hk : Kept Q G s) : Kept Q G (setPause s l n until_) := by
  unfold Sys2Proof.Machine.setPause
  with_reducible repeat' first
    | assumption | simp only [Kept.upd] | simp only [Kept.updTop] | simp only [Kept.updHif] | simp only [Kept.updSpill]
    | simp only [Kept.updJrn] | dsimp only | split | intro

theorem Kept.execPfcFrameReceived (port : Nat) (enable : BitVec 8) (times : List Nat) (isPause : Bool) (s : State)
    (hk : Kept Q G s) : KeptO Q G (execPfcFrameReceived port enable times isPause s) := by
  unfold Sys2Proof.Machine.execPfcFrameReceived
  with_reducible repeat' first
    | assumption | apply Kept.add64 | apply Kept.forEach | apply Kept.setPause | apply KeptO.next | simp only [Kept.upd]
    | simp only [Kept.updTop] | simp only [Kept.updHif] | simp only [Kept.updSpill] | simp only [Kept.updJrn] | dsimp only
    | split | intro

theorem Kept.execPfcPauseExpiry (port prio : Nat) (s : State) (hk : Kept Q G s)
    : KeptO Q G (execPfcPauseExpiry port prio s) := by
  unfold Sys2Proof.Machine.execPfcPauseExpiry
  with_reducible repeat' first
    | assumption | apply Kept.setPause | apply KeptO.next | simp only [Kept.upd] | simp only [Kept.updTop]
    | simp only [Kept.updHif] | simp only [Kept.updSpill] | simp only [Kept.updJrn] | dsimp only | split | intro

theorem Kept.sendPfc (s : State) (l mask : Nat) (hk : Kept Q G s) : Kept Q G (sendPfc s l mask) := by
  unfold Sys2Proof.Machine.sendPfc
  with_reducible repeat' first
    | assumption | apply Kept.emit | apply Kept.add64 | simp only [Kept.upd] | simp only [Kept.updTop]
    | simp only [Kept.updHif] | simp only [Kept.updSpill] | simp only [Kept.updJrn] | dsimp only | split | intro

theorem Kept.execPfcFrameSend (port : Nat) (s : State) (hk : Kept Q G s) : KeptO Q G (execPfcFrameSend port s) := by
  unfold Sys2Proof.Machine.execPfcFrameSend
  with_reducible repeat' first
    | assumption | apply Kept.sendPfc | apply KeptO.next | simp only [Kept.upd] | simp only [Kept.updTop]
    | simp only [Kept.updHif] | simp only [Kept.updSpill] | simp only [Kept.updJrn] | dsimp only | split | intro

theorem Kept.execPfcRefresh (port prio : Nat) (s : State) (hk : Kept Q G s) : KeptO Q G (execPfcRefresh port prio s) := by
  unfold Sys2Proof.Machine.execPfcRefresh
  with_reducible repeat' first
    | assumption | apply Kept.sendPfc | apply KeptO.next | simp only [Kept.upd] | simp only [Kept.updTop]
    | simp only [Kept.updHif] | simp only [Kept.updSpill] | simp only [Kept.updJrn] | dsimp only | split | intro

theorem Kept.clearPauses (s : State) (l : Nat) (hk : Kept Q G s) : Kept Q G (clearPauses s l) := by
  unfold Sys2Proof.Machine.clearPauses
  with_reducible repeat' first
    | assumption | apply Kept.forEach | apply Kept.setPause | simp only [Kept.upd] | simp only [Kept.updTop]
    | simp only [Kept.updHif] | simp only [Kept.updSpill] | simp only [Kept.updJrn] | dsimp only | split | intro

theorem Kept.selectHbm (s : State) (q : Nat) (hk : Kept Q G s) : Kept Q G (selectHbm s q) := by
  unfold Sys2Proof.Machine.selectHbm
  with_reducible repeat' first
    | assumption | apply Kept.setSpq | simp only [Kept.upd] | simp only [Kept.updTop] | simp only [Kept.updHif]
    | simp only [Kept.updSpill] | simp only [Kept.updJrn] | dsimp only | split | intro

theorem Kept.execPfcWatchdogTrip (port prio : Nat) (s : State) (hk : Kept Q G s)
    : KeptO Q G (execPfcWatchdogTrip port prio s) := by
  unfold Sys2Proof.Machine.execPfcWatchdogTrip
  with_reducible repeat' first
    | assumption | apply Kept.setPause | apply Kept.forEach | apply Kept.dropQueued | apply Kept.setQueue | apply Kept.whenB
    | apply Kept.selectHbm | apply Kept.raise | apply Kept.add64 | apply KeptO.next | simp only [Kept.upd]
    | simp only [Kept.updTop] | simp only [Kept.updHif] | simp only [Kept.updSpill] | simp only [Kept.updJrn] | dsimp only
    | split | intro

theorem Kept.execPfcWatchdogHoldEnd (port prio : Nat) (s : State) (hk : Kept Q G s)
    : KeptO Q G (execPfcWatchdogHoldEnd port prio s) := by
  unfold Sys2Proof.Machine.execPfcWatchdogHoldEnd
  with_reducible repeat' first
    | assumption | apply Kept.setPause | apply Kept.raise | apply KeptO.next | simp only [Kept.upd] | simp only [Kept.updTop]
    | simp only [Kept.updHif] | simp only [Kept.updSpill] | simp only [Kept.updJrn] | dsimp only | split | intro

theorem Kept.execRxFrameDma (n : Nat) (entry : List Byte) (err : Option DataErr) (s : State) (hk : Kept Q G s)
    : KeptO Q G (execRxFrameDma n entry err s) := by
  unfold Sys2Proof.Machine.execRxFrameDma
  with_reducible repeat' first
    | assumption | apply Kept.emit | apply Kept.ringStop | apply Kept.marketRead | apply Kept.setQueue
    | apply Kept.dropQueued | apply Kept.hostWrite | apply Kept.setReg | apply Kept.raise | apply Kept.releaseCopy
    | apply KeptO.next | simp only [Kept.upd] | simp only [Kept.updTop] | simp only [Kept.updHif] | simp only [Kept.updSpill]
    | simp only [Kept.updJrn] | dsimp only | split | intro

end Sys2Proof.Laws
end

