-- ==== Sys2Proof/Laws/KeptPipes.lean ====
section
/-!
SUPPORT. One lemma for each operation of Tables, Clerk, Parse, Arrive, Flags, Operands, Stall, Editor, Tails: it keeps the canonical register store, the queue, the fuses' order and a forward transition (`Kept`).
-/
namespace Sys2Proof.Laws

open Sys2Proof.Machine

variable {Q : List Instr} {G : Fuses}

theorem Kept.setEntries (s : State) (t : Nat) (l : List Entry) (hk : Kept Q G s) : Kept Q G (setEntries s t l) := by
  unfold Sys2Proof.Machine.setEntries
  with_reducible repeat' first
    | assumption | apply Kept.setReg | simp only [Kept.upd] | simp only [Kept.updTop] | simp only [Kept.updHif]
    | simp only [Kept.updSpill] | simp only [Kept.updJrn] | dsimp only | split | intro

theorem Kept.modEntry (s : State) (t h : Nat) (f : Entry → Entry) (hk : Kept Q G s) : Kept Q G (modEntry s t h f) := by
  unfold Sys2Proof.Machine.modEntry
  with_reducible repeat' first
    | assumption | apply Kept.setEntries | simp only [Kept.upd] | simp only [Kept.updTop] | simp only [Kept.updHif]
    | simp only [Kept.updSpill] | simp only [Kept.updJrn] | dsimp only | split | intro

theorem Kept.delEntry (s : State) (t h : Nat) (hk : Kept Q G s) : Kept Q G (delEntry s t h) := by
  unfold Sys2Proof.Machine.delEntry
  with_reducible repeat' first
    | assumption | apply Kept.setEntries | simp only [Kept.upd] | simp only [Kept.updTop] | simp only [Kept.updHif]
    | simp only [Kept.updSpill] | simp only [Kept.updJrn] | dsimp only | split | intro

theorem Kept.addEntry (s : State) (t : Nat) (e : Entry) (hk : Kept Q G s) : Kept Q G (addEntry s t e) := by
  unfold Sys2Proof.Machine.addEntry
  with_reducible repeat' first
    | assumption | apply Kept.setEntries | simp only [Kept.upd] | simp only [Kept.updTop] | simp only [Kept.updHif]
    | simp only [Kept.updSpill] | simp only [Kept.updJrn] | dsimp only | split | intro

theorem Kept.logChange (s : State) (t : Nat) (e : Entry) (handles : List Nat) (hk : Kept Q G s)
    : Kept Q G (logChange s t e handles) := by
  unfold Sys2Proof.Machine.logChange
  with_reducible repeat' first
    | assumption | apply Kept.setDom | simp only [Kept.upd] | simp only [Kept.updTop] | simp only [Kept.updHif]
    | simp only [Kept.updSpill] | simp only [Kept.updJrn] | dsimp only | split | intro

theorem Kept.clerkCount (s : State) (k : Nat) (hk : Kept Q G s) : Kept Q G (clerkCount s k) := by
  unfold Sys2Proof.Machine.clerkCount
  with_reducible repeat' first
    | assumption | apply Kept.add64 | simp only [Kept.upd] | simp only [Kept.updTop] | simp only [Kept.updHif]
    | simp only [Kept.updSpill] | simp only [Kept.updJrn] | dsimp only | split | intro

theorem Kept.learnLoss (s : State) (k : Nat) (hk : Kept Q G s) : Kept Q G (learnLoss s k) := by
  unfold Sys2Proof.Machine.learnLoss
  with_reducible repeat' first
    | assumption | apply Kept.raiseLimited | apply Kept.clerkCount | simp only [Kept.upd] | simp only [Kept.updTop]
    | simp only [Kept.updHif] | simp only [Kept.updSpill] | simp only [Kept.updJrn] | dsimp only | split | intro

theorem Kept.tblInsertAt (s : State) (c : HostCmd) (t : Nat) (k : TblKey) (hk : Kept Q G s)
    : Kept Q G (tblInsertAt s c t k).1 := by
  unfold Sys2Proof.Machine.tblInsertAt
  with_reducible repeat' first
    | assumption | apply Kept.drawn | apply Kept.addEntry | apply Kept.logChange | simp only [Kept.upd]
    | simp only [Kept.updTop] | simp only [Kept.updHif] | simp only [Kept.updSpill] | simp only [Kept.updJrn] | dsimp only
    | split | intro

theorem Kept.tblUpdateAt (s : State) (c : HostCmd) (t : Nat) (k : TblKey) (hk : Kept Q G s)
    : Kept Q G (tblUpdateAt s c t k).1 := by
  unfold Sys2Proof.Machine.tblUpdateAt
  with_reducible repeat' first
    | assumption | apply Kept.modEntry | apply Kept.drawn | apply Kept.logChange | apply Kept.addEntry | simp only [Kept.upd]
    | simp only [Kept.updTop] | simp only [Kept.updHif] | simp only [Kept.updSpill] | simp only [Kept.updJrn] | dsimp only
    | split | intro

theorem Kept.tblDeleteAt (s : State) (c : HostCmd) (t : Nat) (k : TblKey) (hk : Kept Q G s)
    : Kept Q G (tblDeleteAt s c t k).1 := by
  unfold Sys2Proof.Machine.tblDeleteAt
  with_reducible repeat' first
    | assumption | apply Kept.logChange | apply Kept.modEntry | apply Kept.delEntry | apply Kept.foldl | apply Kept.foldl1
    | simp only [Kept.upd] | simp only [Kept.updTop] | simp only [Kept.updHif] | simp only [Kept.updSpill]
    | simp only [Kept.updJrn] | dsimp only | split | intro

theorem Kept.fixedUpdate (s : State) (c : HostCmd) (t : Nat) (hk : Kept Q G s) : Kept Q G (fixedUpdate s c t).1 := by
  unfold Sys2Proof.Machine.fixedUpdate
  with_reducible repeat' first
    | assumption | simp only [Kept.upd] | simp only [Kept.updTop] | simp only [Kept.updHif] | simp only [Kept.updSpill]
    | simp only [Kept.updJrn] | dsimp only | split | intro

theorem Kept.tblSearchAt (s : State) (c : HostCmd) (t : Nat) (hk : Kept Q G s) : Kept Q G (tblSearchAt s c t).1 := by
  unfold Sys2Proof.Machine.tblSearchAt
  with_reducible repeat' first
    | assumption | simp only [Kept.upd] | simp only [Kept.updTop] | simp only [Kept.updHif] | simp only [Kept.updSpill]
    | simp only [Kept.updJrn] | dsimp only | split | intro

theorem Kept.tblReadAt (s : State) (c : HostCmd) (t : Nat) (hk : Kept Q G s) : Kept Q G (tblReadAt s c t).1 := by
  unfold Sys2Proof.Machine.tblReadAt
  with_reducible repeat' first
    | assumption | apply Kept.dataOut | simp only [Kept.upd] | simp only [Kept.updTop] | simp only [Kept.updHif]
    | simp only [Kept.updSpill] | simp only [Kept.updJrn] | dsimp only | split | intro

theorem Kept.tblNextAt (s : State) (c : HostCmd) (t : Nat) (hk : Kept Q G s) : Kept Q G (tblNextAt s c t).1 := by
  unfold Sys2Proof.Machine.tblNextAt
  with_reducible repeat' first
    | assumption | apply Kept.dataOut | simp only [Kept.upd] | simp only [Kept.updTop] | simp only [Kept.updHif]
    | simp only [Kept.updSpill] | simp only [Kept.updJrn] | dsimp only | split | intro

theorem Kept.tblFlushAt (s : State) (c : HostCmd) (hk : Kept Q G s) : Kept Q G (tblFlushAt s c).1 := by
  unfold Sys2Proof.Machine.tblFlushAt
  with_reducible repeat' first
    | assumption | apply Kept.delEntry | apply Kept.foldl | apply Kept.foldl1 | simp only [Kept.upd]
    | simp only [Kept.updTop] | simp only [Kept.updHif] | simp only [Kept.updSpill] | simp only [Kept.updJrn] | dsimp only
    | split | intro

theorem Kept.tblRun (s : State) (c : HostCmd) (hk : Kept Q G s) : Kept Q G (tblRun s c).1 := by
  unfold Sys2Proof.Machine.tblRun
  with_reducible repeat' first
    | assumption | apply Kept.tblFlushAt | apply Kept.fixedUpdate | apply Kept.tblReadAt | apply Kept.tblNextAt
    | apply Kept.tblSearchAt | apply Kept.tblInsertAt | apply Kept.tblUpdateAt | apply Kept.tblDeleteAt
    | simp only [Kept.upd] | simp only [Kept.updTop] | simp only [Kept.updHif] | simp only [Kept.updSpill]
    | simp only [Kept.updJrn] | dsimp only | split | intro

theorem Kept.clkErr (s : State) (bit : Nat) (hk : Kept Q G s) : Kept Q G (clkErr s bit) := by
  unfold Sys2Proof.Machine.clkErr
  with_reducible repeat' first
    | assumption | apply Kept.raise | apply Kept.setBit | simp only [Kept.upd] | simp only [Kept.updTop]
    | simp only [Kept.updHif] | simp only [Kept.updSpill] | simp only [Kept.updJrn] | dsimp only | split | intro

theorem Kept.takeEntry (p : PoolPart) (s : State) (t : Nat) (e : Entry) (hk : Kept Q G s)
    : Kept Q G (takeEntry p s t e) := by
  unfold Sys2Proof.Machine.takeEntry
  with_reducible repeat' first
    | assumption | apply Kept.addEntry | apply Kept.drawn | simp only [Kept.upd] | simp only [Kept.updTop]
    | simp only [Kept.updHif] | simp only [Kept.updSpill] | simp only [Kept.updJrn] | dsimp only | split | intro

theorem Kept.takePart (s : State) (t : Nat) (p : PoolPart) (hk : Kept Q G s) : Kept Q G (takePart s t p).1 := by
  unfold Sys2Proof.Machine.takePart
  with_reducible repeat' first
    | assumption | apply Kept.forEach | apply Kept.takeEntry | simp only [Kept.upd] | simp only [Kept.updTop]
    | simp only [Kept.updHif] | simp only [Kept.updSpill] | simp only [Kept.updJrn] | dsimp only | split | intro

theorem Kept.takeOver (s : State) (t : Nat) (hk : Kept Q G s) : Kept Q G (takeOver s t) := by
  unfold Sys2Proof.Machine.takeOver
  with_reducible repeat' first
    | assumption | apply Kept.setEntries | apply Kept.forEach | apply Kept.takePart | simp only [Kept.upd]
    | simp only [Kept.updTop] | simp only [Kept.updHif] | simp only [Kept.updSpill] | simp only [Kept.updJrn] | dsimp only
    | split | intro

theorem Kept.descApply (s : State) (t word : Nat) (v : Word) (hk : Kept Q G s) : Kept Q G (descApply s t word v) := by
  unfold Sys2Proof.Machine.descApply
  with_reducible repeat' first
    | assumption | apply Kept.clkErr | apply Kept.setReg | apply Kept.takeOver | simp only [Kept.upd]
    | simp only [Kept.updTop] | simp only [Kept.updHif] | simp only [Kept.updSpill] | simp only [Kept.updJrn] | dsimp only
    | split | intro

theorem Kept.hashApply (s : State) (k : Nat) (v : Word) (hk : Kept Q G s) : Kept Q G (hashApply s k v) := by
  unfold Sys2Proof.Machine.hashApply
  with_reducible repeat' first
    | assumption | apply Kept.clkErr | apply Kept.setReg | simp only [Kept.upd] | simp only [Kept.updTop]
    | simp only [Kept.updHif] | simp only [Kept.updSpill] | simp only [Kept.updJrn] | dsimp only | split | intro

theorem Kept.learnOffer (s : State) (r : LearnReq) (hk : Kept Q G s) : Kept Q G (learnOffer s r) := by
  unfold Sys2Proof.Machine.learnOffer
  with_reducible repeat' first
    | assumption | apply Kept.learnLoss | apply Kept.pmcEvent | simp only [Kept.upd] | simp only [Kept.updTop]
    | simp only [Kept.updHif] | simp only [Kept.updSpill] | simp only [Kept.updJrn] | dsimp only | split | intro

theorem Kept.pinEntry (s : State) (t : Nat) (e : Entry) (hk : Kept Q G s) : Kept Q G (pinEntry s t e) := by
  unfold Sys2Proof.Machine.pinEntry
  with_reducible repeat' first
    | assumption | apply Kept.modEntry | apply Kept.setReg | apply Kept.raise | apply Kept.clerkCount | simp only [Kept.upd]
    | simp only [Kept.updTop] | simp only [Kept.updHif] | simp only [Kept.updSpill] | simp only [Kept.updJrn] | dsimp only
    | split | intro

theorem Kept.moveEntry (s : State) (t : Nat) (e : Entry) (port : Nat) (hk : Kept Q G s)
    : Kept Q G (moveEntry s t e port) := by
  unfold Sys2Proof.Machine.moveEntry
  with_reducible repeat' first
    | assumption | apply Kept.clerkCount | apply Kept.modEntry | apply Kept.pinEntry | simp only [Kept.upd]
    | simp only [Kept.updTop] | simp only [Kept.updHif] | simp only [Kept.updSpill] | simp only [Kept.updJrn] | dsimp only
    | split | intro

theorem Kept.learnTake (s : State) (r : LearnReq) (hk : Kept Q G s) : Kept Q G (learnTake s r) := by
  unfold Sys2Proof.Machine.learnTake
  with_reducible repeat' first
    | assumption | apply Kept.learnLoss | apply Kept.drawn | apply Kept.clerkCount | apply Kept.addEntry
    | apply Kept.moveEntry | simp only [Kept.upd] | simp only [Kept.updTop] | simp only [Kept.updHif]
    | simp only [Kept.updSpill] | simp only [Kept.updJrn] | dsimp only | split | intro

theorem Kept.execFlapHoldEnd (table handle : Nat) (s : State) (hk : Kept Q G s)
    : KeptO Q G (execFlapHoldEnd table handle s) := by
  unfold Sys2Proof.Machine.execFlapHoldEnd
  with_reducible repeat' first
    | assumption | apply Kept.modEntry | apply KeptO.next | simp only [Kept.upd] | simp only [Kept.updTop]
    | simp only [Kept.updHif] | simp only [Kept.updSpill] | simp only [Kept.updJrn] | dsimp only | split | intro

theorem Kept.ageTest (s : State) (t h : Nat) (hk : Kept Q G s) : Kept Q G (ageTest s t h) := by
  unfold Sys2Proof.Machine.ageTest
  with_reducible repeat' first
    | assumption | apply Kept.modEntry | simp only [Kept.upd] | simp only [Kept.updTop] | simp only [Kept.updHif]
    | simp only [Kept.updSpill] | simp only [Kept.updJrn] | dsimp only | split | intro

theorem Kept.modBefore (s : State) (t : Nat) (f : List Entry → List Entry) (hk : Kept Q G s)
    : Kept Q G (modBefore s t f) := by
  unfold Sys2Proof.Machine.modBefore
  with_reducible repeat' first
    | assumption | simp only [Kept.upd] | simp only [Kept.updTop] | simp only [Kept.updHif] | simp only [Kept.updSpill]
    | simp only [Kept.updJrn] | dsimp only | split | intro

theorem Kept.modEverywhere (s : State) (t h : Nat) (f : Entry → Entry) (hk : Kept Q G s)
    : Kept Q G (modEverywhere s t h f) := by
  unfold Sys2Proof.Machine.modEverywhere
  with_reducible repeat' first
    | assumption | apply Kept.modEntry | apply Kept.modBefore | simp only [Kept.upd] | simp only [Kept.updTop]
    | simp only [Kept.updHif] | simp only [Kept.updSpill] | simp only [Kept.updJrn] | dsimp only | split | intro

theorem Kept.ageInHall (s : State) (hall : Nat) (op : AgeOp) (hk : Kept Q G s) : Kept Q G (ageInHall s hall op) := by
  unfold Sys2Proof.Machine.ageInHall
  with_reducible repeat' first
    | assumption | apply Kept.modEverywhere | simp only [Kept.upd] | simp only [Kept.updTop] | simp only [Kept.updHif]
    | simp only [Kept.updSpill] | simp only [Kept.updJrn] | dsimp only | split | intro

theorem Kept.ageInForce (s : State) (op : AgeOp) (hk : Kept Q G s) : Kept Q G (ageInForce s op) := by
  unfold Sys2Proof.Machine.ageInForce
  with_reducible repeat' first
    | assumption | apply Kept.clerkCount | apply Kept.delEntry | apply Kept.modBefore | simp only [Kept.upd]
    | simp only [Kept.updTop] | simp only [Kept.updHif] | simp only [Kept.updSpill] | simp only [Kept.updJrn] | dsimp only
    | split | intro

theorem Kept.hallApply (hall : Nat) (s : State) (x : Issued) (hk : Kept Q G s) : Kept Q G (hallApply hall s x) := by
  unfold Sys2Proof.Machine.hallApply
  with_reducible repeat' first
    | assumption | apply Kept.ageInHall | simp only [Kept.upd] | simp only [Kept.updTop] | simp only [Kept.updHif]
    | simp only [Kept.updSpill] | simp only [Kept.updJrn] | dsimp only | split | intro

theorem Kept.hallTake (s : State) (hall n : Nat) (hk : Kept Q G s) : Kept Q G (hallTake s hall n) := by
  unfold Sys2Proof.Machine.hallTake
  with_reducible repeat' first
    | assumption | apply Kept.forEach | apply Kept.hallApply | apply Kept.foldl | apply Kept.foldl1 | simp only [Kept.upd]
    | simp only [Kept.updTop] | simp only [Kept.updHif] | simp only [Kept.updSpill] | simp only [Kept.updJrn] | dsimp only
    | split | intro

theorem Kept.hallAdvance (s : State) (hall : Nat) (hk : Kept Q G s) : Kept Q G (hallAdvance s hall) := by
  unfold Sys2Proof.Machine.hallAdvance
  with_reducible repeat' first
    | assumption | apply Kept.drawn | apply Kept.hallTake | simp only [Kept.upd] | simp only [Kept.updTop]
    | simp only [Kept.updHif] | simp only [Kept.updSpill] | simp only [Kept.updJrn] | dsimp only | split | intro

theorem mapWf_foldl_puts {α : Type} [DecidableEq α] {e : Nat → α} {l : List (Nat × α)} {m : Store α}
    (h : mapWf e m = true) : mapWf e (l.foldl (fun m r => mapPut (e r.1) m r.1 r.2) m) = true := by
  induction l generalizing m with
  | nil => exact h
  | cons x r ih => exact ih (mapWf_mapPut h)

theorem Kept.hallState (s : State) (hall : Nat) (hk : Kept Q G s) : Kept Q G (hallState s hall) := by
  unfold Sys2Proof.Machine.hallState
  split
  · exact hk
  · rename_i x rest _
    refine ⟨?_, hk.queue, hk.fuses, hk.job, hk.mem⟩
    dsimp only
    generalize x :: rest = l
    induction l with
    | nil => exact hk.wf
    | cons y r ih => exact mapWf_foldl_puts ih

theorem Kept.retireChange (s : State) (d : Dom) (c : Change) (hk : Kept Q G s) : Kept Q G (retireChange s d c) := by
  unfold Sys2Proof.Machine.retireChange
  with_reducible repeat' first
    | assumption | apply Kept.modEntry | apply Kept.delEntry | apply Kept.foldl | apply Kept.foldl1 | simp only [Kept.upd]
    | simp only [Kept.updTop] | simp only [Kept.updHif] | simp only [Kept.updSpill] | simp only [Kept.updJrn] | dsimp only
    | split | intro

theorem Kept.clerkIssued
    (s : State) (regs : List Nat) (age : Option AgeOp) (f : State → State) (done : Option (HostCmd × Nat × List Byte))
    (hk : Kept Q G s) (hf : ∀ t, Kept Q G t → Kept Q G (f t)) : Kept Q G (clerkIssued s regs age f done) := by
  unfold Sys2Proof.Machine.clerkIssued
  with_reducible repeat' first
    | assumption | apply hf | apply Kept.pmcEvent | simp only [Kept.upd] | simp only [Kept.updTop] | simp only [Kept.updHif]
    | simp only [Kept.updSpill] | simp only [Kept.updJrn] | dsimp only | split | intro

theorem Kept.issueHost (s : State) (op : ClerkOp) (hk : Kept Q G s) : Kept Q G (issueHost s op) := by
  unfold Sys2Proof.Machine.issueHost
  with_reducible repeat' first
    | assumption | apply Kept.tblRun | apply Kept.clerkIssued | apply Kept.descApply | apply Kept.hashApply
    | simp only [Kept.upd] | simp only [Kept.updTop] | simp only [Kept.updHif] | simp only [Kept.updSpill]
    | simp only [Kept.updJrn] | dsimp only | split | intro

theorem Kept.clerkDo (s : State) (p : ClerkPick) (hk : Kept Q G s) : Kept Q G (clerkDo s p) := by
  unfold Sys2Proof.Machine.clerkDo
  with_reducible repeat' first
    | assumption | apply Kept.clerkIssued | apply Kept.setDom | apply Kept.retireChange | apply Kept.clerkCount
    | apply Kept.issueHost | apply Kept.learnTake | apply Kept.ageTest | simp only [Kept.upd] | simp only [Kept.updTop]
    | simp only [Kept.updHif] | simp only [Kept.updSpill] | simp only [Kept.updJrn] | dsimp only | split | intro

theorem Kept.clerkPost (s : State) (op : ClerkOp) (hk : Kept Q G s) : Kept Q G (clerkPost s op) := by
  unfold Sys2Proof.Machine.clerkPost
  with_reducible repeat' first
    | assumption | apply Kept.clerkDo | simp only [Kept.upd] | simp only [Kept.updTop] | simp only [Kept.updHif]
    | simp only [Kept.updSpill] | simp only [Kept.updJrn] | dsimp only | split | intro

theorem Kept.execClerkIssue (s : State) (hk : Kept Q G s) : KeptO Q G (execClerkIssue s) := by
  unfold Sys2Proof.Machine.execClerkIssue
  with_reducible repeat' first
    | assumption | apply Kept.clerkDo | apply KeptO.next | simp only [Kept.upd] | simp only [Kept.updTop]
    | simp only [Kept.updHif] | simp only [Kept.updSpill] | simp only [Kept.updJrn] | dsimp only | split | intro

theorem Kept.clerkInForce (s : State) (hk : Kept Q G s) : Kept Q G (clerkInForce s) := by
  unfold Sys2Proof.Machine.clerkInForce
  with_reducible repeat' first
    | assumption | apply Kept.forEach | apply Kept.hallApply | apply Kept.ageInForce | apply Kept.complete
    | simp only [Kept.upd] | simp only [Kept.updTop] | simp only [Kept.updHif] | simp only [Kept.updSpill]
    | simp only [Kept.updJrn] | dsimp only | split | intro

theorem Kept.tblStart (s : State) (c : HostCmd) (row : CmdRow) (hk : Kept Q G s) : Kept Q G (tblStart s c row) := by
  unfold Sys2Proof.Machine.tblStart
  with_reducible repeat' first
    | assumption | apply Kept.runCmd | apply Kept.clerkPost | apply Kept.setPhase | simp only [Kept.upd]
    | simp only [Kept.updTop] | simp only [Kept.updHif] | simp only [Kept.updSpill] | simp only [Kept.updJrn] | dsimp only
    | split | intro

theorem Kept.execTblSearch (cmd : HostCmd) (s : State) (hk : Kept Q G s) : KeptO Q G (execTblSearch cmd s) := by
  unfold Sys2Proof.Machine.execTblSearch
  with_reducible repeat' first
    | assumption | apply Kept.tblStart | apply KeptO.next | simp only [Kept.upd] | simp only [Kept.updTop]
    | simp only [Kept.updHif] | simp only [Kept.updSpill] | simp only [Kept.updJrn] | dsimp only | split | intro

theorem Kept.execTblNext (cmd : HostCmd) (s : State) (hk : Kept Q G s) : KeptO Q G (execTblNext cmd s) := by
  unfold Sys2Proof.Machine.execTblNext
  with_reducible repeat' first
    | assumption | apply Kept.tblStart | apply KeptO.next | simp only [Kept.upd] | simp only [Kept.updTop]
    | simp only [Kept.updHif] | simp only [Kept.updSpill] | simp only [Kept.updJrn] | dsimp only | split | intro

theorem Kept.execTblInsert (cmd : HostCmd) (s : State) (hk : Kept Q G s) : KeptO Q G (execTblInsert cmd s) := by
  unfold Sys2Proof.Machine.execTblInsert
  with_reducible repeat' first
    | assumption | apply Kept.tblStart | apply KeptO.next | simp only [Kept.upd] | simp only [Kept.updTop]
    | simp only [Kept.updHif] | simp only [Kept.updSpill] | simp only [Kept.updJrn] | dsimp only | split | intro

theorem Kept.execTblUpdate (cmd : HostCmd) (s : State) (hk : Kept Q G s) : KeptO Q G (execTblUpdate cmd s) := by
  unfold Sys2Proof.Machine.execTblUpdate
  with_reducible repeat' first
    | assumption | apply Kept.tblStart | apply KeptO.next | simp only [Kept.upd] | simp only [Kept.updTop]
    | simp only [Kept.updHif] | simp only [Kept.updSpill] | simp only [Kept.updJrn] | dsimp only | split | intro

theorem Kept.execTblDelete (cmd : HostCmd) (s : State) (hk : Kept Q G s) : KeptO Q G (execTblDelete cmd s) := by
  unfold Sys2Proof.Machine.execTblDelete
  with_reducible repeat' first
    | assumption | apply Kept.tblStart | apply KeptO.next | simp only [Kept.upd] | simp only [Kept.updTop]
    | simp only [Kept.updHif] | simp only [Kept.updSpill] | simp only [Kept.updJrn] | dsimp only | split | intro

theorem Kept.execTblFlushPort (cmd : HostCmd) (s : State) (hk : Kept Q G s) : KeptO Q G (execTblFlushPort cmd s) := by
  unfold Sys2Proof.Machine.execTblFlushPort
  with_reducible repeat' first
    | assumption | apply Kept.tblStart | apply KeptO.next | simp only [Kept.upd] | simp only [Kept.updTop]
    | simp only [Kept.updHif] | simp only [Kept.updSpill] | simp only [Kept.updJrn] | dsimp only | split | intro

theorem Kept.execTblRead (cmd : HostCmd) (s : State) (hk : Kept Q G s) : KeptO Q G (execTblRead cmd s) := by
  unfold Sys2Proof.Machine.execTblRead
  with_reducible repeat' first
    | assumption | apply Kept.tblStart | apply KeptO.next | simp only [Kept.upd] | simp only [Kept.updTop]
    | simp only [Kept.updHif] | simp only [Kept.updSpill] | simp only [Kept.updJrn] | dsimp only | split | intro

theorem Kept.clerkWrite (s : State) (a : Nat) (value : Word) (op : ClerkOp) (hk : Kept Q G s)
    : Kept Q G (clerkWrite s a value op) := by
  unfold Sys2Proof.Machine.clerkWrite
  with_reducible repeat' first
    | assumption | apply Kept.atCrossing | apply Kept.clerkPost | simp only [Kept.upd] | simp only [Kept.updTop]
    | simp only [Kept.updHif] | simp only [Kept.updSpill] | simp only [Kept.updJrn] | dsimp only | split | intro

theorem Kept.execDescWrite (t word : Nat) (value : Word) (s : State) (hk : Kept Q G s)
    : KeptO Q G (execDescWrite t word value s) := by
  unfold Sys2Proof.Machine.execDescWrite
  with_reducible repeat' first
    | assumption | apply Kept.clerkWrite | apply KeptO.next | simp only [Kept.upd] | simp only [Kept.updTop]
    | simp only [Kept.updHif] | simp only [Kept.updSpill] | simp only [Kept.updJrn] | dsimp only | split | intro

theorem Kept.execHashCfgWrite (k : Nat) (value : Word) (s : State) (hk : Kept Q G s)
    : KeptO Q G (execHashCfgWrite k value s) := by
  unfold Sys2Proof.Machine.execHashCfgWrite
  with_reducible repeat' first
    | assumption | apply Kept.clerkWrite | apply KeptO.next | simp only [Kept.upd] | simp only [Kept.updTop]
    | simp only [Kept.updHif] | simp only [Kept.updSpill] | simp only [Kept.updJrn] | dsimp only | split | intro

theorem Kept.execLearnInstall (s : State) (hk : Kept Q G s) : KeptO Q G (execLearnInstall s) := by
  unfold Sys2Proof.Machine.execLearnInstall
  with_reducible repeat' first
    | assumption | apply Kept.clerkDo | apply KeptO.next | simp only [Kept.upd] | simp only [Kept.updTop]
    | simp only [Kept.updHif] | simp only [Kept.updSpill] | simp only [Kept.updJrn] | dsimp only | split | intro

theorem Kept.execAgeVisit (table handle : Nat) (s : State) (hk : Kept Q G s) : KeptO Q G (execAgeVisit table handle s) := by
  unfold Sys2Proof.Machine.execAgeVisit
  with_reducible repeat' first
    | assumption | apply Kept.clerkDo | apply KeptO.next | simp only [Kept.upd] | simp only [Kept.updTop]
    | simp only [Kept.updHif] | simp only [Kept.updSpill] | simp only [Kept.updJrn] | dsimp only | split | intro

theorem Kept.execAgeRemove (table handle : Nat) (s : State) (hk : Kept Q G s)
    : KeptO Q G (execAgeRemove table handle s) := by
  unfold Sys2Proof.Machine.execAgeRemove
  with_reducible repeat' first
    | assumption | apply Kept.clerkDo | apply KeptO.next | simp only [Kept.upd] | simp only [Kept.updTop]
    | simp only [Kept.updHif] | simp only [Kept.updSpill] | simp only [Kept.updJrn] | dsimp only | split | intro

theorem Kept.execAgeRestore (table handle : Nat) (s : State) (hk : Kept Q G s)
    : KeptO Q G (execAgeRestore table handle s) := by
  unfold Sys2Proof.Machine.execAgeRestore
  with_reducible repeat' first
    | assumption | apply Kept.clerkDo | apply KeptO.next | simp only [Kept.upd] | simp only [Kept.updTop]
    | simp only [Kept.updHif] | simp only [Kept.updSpill] | simp only [Kept.updJrn] | dsimp only | split | intro

theorem Kept.copyBank (s : State) (d : Dom) (hk : Kept Q G s) : Kept Q G (copyBank s d) := by
  unfold Sys2Proof.Machine.copyBank
  exact Kept.withProg hk fun h => mapWf_foldl_put (mapWfFrom_filter h)

theorem Kept.execRetireComplete (d : Dom) (s : State) (hk : Kept Q G s) : KeptO Q G (execRetireComplete d s) := by
  unfold Sys2Proof.Machine.execRetireComplete
  with_reducible repeat' first
    | assumption | apply Kept.copyBank | apply Kept.setDom | apply Kept.raise | apply Kept.openStage | apply Kept.setBit
    | apply KeptO.next | simp only [Kept.upd] | simp only [Kept.updTop] | simp only [Kept.updHif] | simp only [Kept.updSpill]
    | simp only [Kept.updJrn] | dsimp only | split | intro

theorem Kept.rowError (s : State) (hall row requester access : Nat) (hk : Kept Q G s)
    : Kept Q G (rowError s hall row requester access) := by
  unfold Sys2Proof.Machine.rowError
  with_reducible repeat' first
    | assumption | apply Kept.fault | apply Kept.satF | simp only [Kept.upd] | simp only [Kept.updTop]
    | simp only [Kept.updHif] | simp only [Kept.updSpill] | simp only [Kept.updJrn] | dsimp only | split | intro

theorem Kept.repairRow (hall row : Nat) (s : State) (hk : Kept Q G s) : Kept Q G (repairRow hall row s) := by
  unfold Sys2Proof.Machine.repairRow
  with_reducible repeat' first
    | assumption | apply Kept.clerkCount | simp only [Kept.upd] | simp only [Kept.updTop] | simp only [Kept.updHif]
    | simp only [Kept.updSpill] | simp only [Kept.updJrn] | dsimp only | split | intro

theorem Kept.execReplicaRepair (hall row : Nat) (entries : List (Nat × Nat)) (allBad : Bool) (s : State) (hk : Kept Q G s)
    : KeptO Q G (execReplicaRepair hall row entries allBad s) := by
  unfold Sys2Proof.Machine.execReplicaRepair
  with_reducible repeat' first
    | assumption | apply Kept.clerkIssued | apply Kept.forEach | apply Kept.faultRecord | apply Kept.delEntry
    | apply Kept.repairRow | apply KeptO.next | simp only [Kept.upd] | simp only [Kept.updTop] | simp only [Kept.updHif]
    | simp only [Kept.updSpill] | simp only [Kept.updJrn] | dsimp only | split | intro

theorem Kept.rowCorrected (s : State) (hall : Nat) (hk : Kept Q G s) : Kept Q G (rowCorrected s hall) := by
  unfold Sys2Proof.Machine.rowCorrected
  with_reducible repeat' first
    | assumption | apply Kept.satF | simp only [Kept.upd] | simp only [Kept.updTop] | simp only [Kept.updHif]
    | simp only [Kept.updSpill] | simp only [Kept.updJrn] | dsimp only | split | intro

theorem Kept.execTableScrub (hall row : Nat) (corr uncorr : Bool) (s : State) (hk : Kept Q G s)
    : KeptO Q G (execTableScrub hall row corr uncorr s) := by
  unfold Sys2Proof.Machine.execTableScrub
  with_reducible repeat' first
    | assumption | apply Kept.rowError | apply Kept.rowCorrected | apply KeptO.next | simp only [Kept.upd]
    | simp only [Kept.updTop] | simp only [Kept.updHif] | simp only [Kept.updSpill] | simp only [Kept.updJrn] | dsimp only
    | split | intro

theorem Kept.rawRow (s : State) (hall : Nat) (value : Word) (hk : Kept Q G s) : Kept Q G (rawRow s hall value) := by
  unfold Sys2Proof.Machine.rawRow
  with_reducible repeat' first
    | assumption | apply Kept.setF | simp only [Kept.upd] | simp only [Kept.updTop] | simp only [Kept.updHif]
    | simp only [Kept.updSpill] | simp only [Kept.updJrn] | dsimp only | split | intro

theorem Kept.execRawRowRead (hall : Nat) (value : Word) (s : State) (hk : Kept Q G s)
    : KeptO Q G (execRawRowRead hall value s) := by
  unfold Sys2Proof.Machine.execRawRowRead
  with_reducible repeat' first
    | assumption | apply Kept.holdWrite | apply Kept.rawRow | apply Kept.forEach | apply Kept.setReg | apply KeptO.next
    | simp only [Kept.upd] | simp only [Kept.updTop] | simp only [Kept.updHif] | simp only [Kept.updSpill]
    | simp only [Kept.updJrn] | dsimp only | split | intro

theorem Kept.execRawRowWrite (hall : Nat) (value : Word) (s : State) (hk : Kept Q G s)
    : KeptO Q G (execRawRowWrite hall value s) := by
  unfold Sys2Proof.Machine.execRawRowWrite
  with_reducible repeat' first
    | assumption | apply Kept.holdWrite | apply Kept.rawRow | apply KeptO.next | simp only [Kept.upd]
    | simp only [Kept.updTop] | simp only [Kept.updHif] | simp only [Kept.updSpill] | simp only [Kept.updJrn] | dsimp only
    | split | intro

theorem Kept.execFrameArrival (port : Nat) (octets : List Byte) (pcs : Stamp) (s : State) (hk : Kept Q G s)
    : KeptO Q G (execFrameArrival port octets pcs s) := by
  unfold Sys2Proof.Machine.execFrameArrival
  with_reducible repeat' first
    | assumption | apply Kept.ledgerAdd | apply Kept.raise | apply Kept.add64 | apply Kept.dropPacket | apply KeptO.next
    | simp only [Kept.upd] | simp only [Kept.updTop] | simp only [Kept.updHif] | simp only [Kept.updSpill]
    | simp only [Kept.updJrn] | dsimp only | split | intro

theorem Kept.enterParse (s : State) (g : Nat) (p : Packet) (hk : Kept Q G s) : Kept Q G (enterParse s g p) := by
  unfold Sys2Proof.Machine.enterParse
  with_reducible repeat' first
    | assumption | apply Kept.dropPacket | simp only [Kept.upd] | simp only [Kept.updTop] | simp only [Kept.updHif]
    | simp only [Kept.updSpill] | simp only [Kept.updJrn] | dsimp only | split | intro

theorem Kept.execParseEntry (g : Nat) (s : State) (hk : Kept Q G s) : KeptO Q G (execParseEntry g s) := by
  unfold Sys2Proof.Machine.execParseEntry
  with_reducible repeat' first
    | assumption | apply Kept.enterParse | apply KeptO.next | simp only [Kept.upd] | simp only [Kept.updTop]
    | simp only [Kept.updHif] | simp only [Kept.updSpill] | simp only [Kept.updJrn] | dsimp only | split | intro

theorem Kept.hostBegun (s : State) (p : Packet) (hk : Kept Q G s) : Kept Q G (hostBegun s p) := by
  unfold Sys2Proof.Machine.hostBegun
  with_reducible repeat' first
    | assumption | apply Kept.freeUnit | apply Kept.unmapBuf | apply Kept.freeRefused | apply Kept.complete
    | simp only [Kept.upd] | simp only [Kept.updTop] | simp only [Kept.updHif] | simp only [Kept.updSpill]
    | simp only [Kept.updJrn] | dsimp only | split | intro

theorem Kept.execRecircEntry (g : Nat) (s : State) (hk : Kept Q G s) : KeptO Q G (execRecircEntry g s) := by
  unfold Sys2Proof.Machine.execRecircEntry
  with_reducible repeat' first
    | assumption | apply Kept.enterParse | apply Kept.hostBegun | apply KeptO.next | simp only [Kept.upd]
    | simp only [Kept.updTop] | simp only [Kept.updHif] | simp only [Kept.updSpill] | simp only [Kept.updJrn] | dsimp only
    | split | intro

theorem Kept.parCapture (s : State) (g : Nat) (p : Packet) (hk : Kept Q G s) : Kept Q G (parCapture s g p) := by
  unfold Sys2Proof.Machine.parCapture
  with_reducible repeat' first
    | assumption | apply Kept.setReg | apply Kept.setReg64 | apply Kept.raise | apply Kept.setBit | simp only [Kept.upd]
    | simp only [Kept.updTop] | simp only [Kept.updHif] | simp only [Kept.updSpill] | simp only [Kept.updJrn] | dsimp only
    | split | intro

theorem Kept.execParseExit (g : Nat) (s : State) (hk : Kept Q G s) : KeptO Q G (execParseExit g s) := by
  unfold Sys2Proof.Machine.execParseExit
  with_reducible repeat' first
    | assumption | apply Kept.parCapture | apply Kept.add64 | apply Kept.dropPacket | apply Kept.passOn | apply KeptO.next
    | simp only [Kept.upd] | simp only [Kept.updTop] | simp only [Kept.updHif] | simp only [Kept.updSpill]
    | simp only [Kept.updJrn] | dsimp only | split | intro

theorem Kept.execParCaptureArm (g : Nat) (s : State) (hk : Kept Q G s) : KeptO Q G (execParCaptureArm g s) := by
  unfold Sys2Proof.Machine.execParCaptureArm
  with_reducible repeat' first
    | assumption | apply Kept.holdWrite | apply Kept.setBit | apply KeptO.next | simp only [Kept.upd]
    | simp only [Kept.updTop] | simp only [Kept.updHif] | simp only [Kept.updSpill] | simp only [Kept.updJrn] | dsimp only
    | split | intro

theorem Kept.execParseWordRepair (g space bank offset : Nat) (err : WordErr) (s : State) (hk : Kept Q G s)
    : KeptO Q G (execParseWordRepair g space bank offset err s) := by
  unfold Sys2Proof.Machine.execParseWordRepair
  with_reducible repeat' first
    | assumption | apply Kept.satF | apply Kept.faultRecord | apply Kept.whenB | apply Kept.raise | apply Kept.drawn
    | apply KeptO.next | simp only [Kept.upd] | simp only [Kept.updTop] | simp only [Kept.updHif] | simp only [Kept.updSpill]
    | simp only [Kept.updJrn] | dsimp only | split | intro

theorem Kept.mapCopies (s : State) (f : Copy → Copy) (hk : Kept Q G s) : Kept Q G (mapCopies s f) := by
  unfold Sys2Proof.Machine.mapCopies
  with_reducible repeat' first
    | assumption | simp only [Kept.upd] | simp only [Kept.updTop] | simp only [Kept.updHif] | simp only [Kept.updSpill]
    | simp only [Kept.updJrn] | dsimp only | split | intro

theorem Kept.growFrame (s : State) (id rq n : Nat) (hk : Kept Q G s) : Kept Q G (growFrame s id rq n).1 := by
  unfold Sys2Proof.Machine.growFrame
  with_reducible repeat' first
    | assumption | apply Kept.takeChain | apply Kept.forEach | apply Kept.addOcc | apply Kept.putFrame | apply Kept.mapCopies
    | apply Kept.whenB | apply Kept.addF21 | apply Kept.addIng | simp only [Kept.upd] | simp only [Kept.updTop]
    | simp only [Kept.updHif] | simp only [Kept.updSpill] | simp only [Kept.updJrn] | dsimp only | split | intro

theorem Kept.growRecord (s : State) (q id : Nat) (hk : Kept Q G s) : Kept Q G (growRecord s q id) := by
  unfold Sys2Proof.Machine.growRecord
  with_reducible repeat' first
    | assumption | apply Kept.forEach | apply Kept.setStagingFree | apply Kept.spillExit | apply Kept.dropSpilled
    | apply Kept.setSpq | simp only [Kept.upd] | simp only [Kept.updTop] | simp only [Kept.updHif]
    | simp only [Kept.updSpill] | simp only [Kept.updJrn] | dsimp only | split | intro

theorem Kept.dropStaged (s : State) (q id : Nat) (hk : Kept Q G s) : Kept Q G (dropStaged s q id) := by
  unfold Sys2Proof.Machine.dropStaged
  with_reducible repeat' first
    | assumption | apply Kept.setSpq | apply Kept.setStagingFree | apply Kept.spillExit | apply Kept.forEach
    | apply Kept.dropSpilled | simp only [Kept.upd] | simp only [Kept.updTop] | simp only [Kept.updHif]
    | simp only [Kept.updSpill] | simp only [Kept.updJrn] | dsimp only | split | intro

theorem Kept.badFrame (s : State) (id reason : Nat) (hk : Kept Q G s) : Kept Q G (badFrame s id reason) := by
  unfold Sys2Proof.Machine.badFrame
  with_reducible repeat' first
    | assumption | apply Kept.forEach | apply Kept.dropStaged | apply Kept.loseFrame | apply Kept.mapPackets
    | simp only [Kept.upd] | simp only [Kept.updTop] | simp only [Kept.updHif] | simp only [Kept.updSpill]
    | simp only [Kept.updJrn] | dsimp only | split | intro

theorem Kept.countReceived (s : State) (port : Nat) (octs : List Byte) (k : Option Nat) (hk : Kept Q G s)
    : Kept Q G (countReceived s port octs k) := by
  unfold Sys2Proof.Machine.countReceived
  with_reducible repeat' first
    | assumption | apply Kept.ledgerAdd | simp only [Kept.upd] | simp only [Kept.updTop] | simp only [Kept.updHif]
    | simp only [Kept.updSpill] | simp only [Kept.updJrn] | dsimp only | split | intro

theorem Kept.settleLength (s : State) (id n : Nat) (hk : Kept Q G s) : Kept Q G (settleLength s id n) := by
  unfold Sys2Proof.Machine.settleLength
  with_reducible repeat' first
    | assumption | apply Kept.forEach | apply Kept.ledgerAdd | apply Kept.mapCopies | apply Kept.foldl | apply Kept.foldl1
    | simp only [Kept.upd] | simp only [Kept.updTop] | simp only [Kept.updHif] | simp only [Kept.updSpill]
    | simp only [Kept.updJrn] | dsimp only | split | intro

theorem Kept.appendOctets (s : State) (id : Nat) (more : List Byte) (hk : Kept Q G s)
    : Kept Q G (appendOctets s id more) := by
  unfold Sys2Proof.Machine.appendOctets
  with_reducible repeat' first
    | assumption | apply Kept.mapPackets | apply Kept.mapCopies | apply Kept.foldl | apply Kept.foldl1 | simp only [Kept.upd]
    | simp only [Kept.updTop] | simp only [Kept.updHif] | simp only [Kept.updSpill] | simp only [Kept.updJrn] | dsimp only
    | split | intro

theorem Kept.execFrameTailArrival (frame : Nat) (octets : List Byte) (verdict : TailVerdict) (s : State) (hk : Kept Q G s)
    : KeptO Q G (execFrameTailArrival frame octets verdict s) := by
  unfold Sys2Proof.Machine.execFrameTailArrival
  with_reducible repeat' first
    | assumption | apply Kept.settleLength | apply Kept.countReceived | apply Kept.growFrame | apply Kept.badFrame
    | apply Kept.appendOctets | apply Kept.forEach | apply Kept.growRecord | apply KeptO.next | simp only [Kept.upd]
    | simp only [Kept.updTop] | simp only [Kept.updHif] | simp only [Kept.updSpill] | simp only [Kept.updJrn] | dsimp only
    | split | intro

theorem Kept.setCtx (s : State) (n i : Nat) (x : Ctx) (hk : Kept Q G s) : Kept Q G (setCtx s n i x) := by
  unfold Sys2Proof.Machine.setCtx
  with_reducible repeat' first
    | assumption | apply Kept.setStall | simp only [Kept.upd] | simp only [Kept.updTop] | simp only [Kept.updHif]
    | simp only [Kept.updSpill] | simp only [Kept.updJrn] | dsimp only | split | intro

theorem Kept.setStateReg (s : State) (n i : Nat) (v : BitVec 64) (hk : Kept Q G s) : Kept Q G (setStateReg s n i v) := by
  unfold Sys2Proof.Machine.setStateReg
  with_reducible repeat' first
    | assumption | simp only [Kept.upd] | simp only [Kept.updTop] | simp only [Kept.updHif] | simp only [Kept.updSpill]
    | simp only [Kept.updJrn] | dsimp only | split | intro

theorem Kept.flushLate (s : State) (n : Nat) (hk : Kept Q G s) : Kept Q G (flushLate s n) := by
  unfold Sys2Proof.Machine.flushLate
  with_reducible repeat' first
    | assumption | apply Kept.forEach | apply Kept.setStateReg | apply Kept.setStall | simp only [Kept.upd]
    | simp only [Kept.updTop] | simp only [Kept.updHif] | simp only [Kept.updSpill] | simp only [Kept.updJrn] | dsimp only
    | split | intro

theorem Kept.flushHost (s : State) (n : Nat) (hk : Kept Q G s) : Kept Q G (flushHost s n) := by
  unfold Sys2Proof.Machine.flushHost
  with_reducible repeat' first
    | assumption | apply Kept.flushLate | apply Kept.forEach | apply Kept.setStateReg | apply Kept.setStall
    | apply Kept.setBit | simp only [Kept.upd] | simp only [Kept.updTop] | simp only [Kept.updHif]
    | simp only [Kept.updSpill] | simp only [Kept.updJrn] | dsimp only | split | intro

theorem Kept.writePort (s : State) (n : Nat) (x : Ctx) (k : Nat) (low : Bool) (v : BitVec 64) (hk : Kept Q G s)
    : Kept Q G (writePort s n x k low v).1 := by
  unfold Sys2Proof.Machine.writePort
  with_reducible repeat' first
    | assumption | apply Kept.setStateReg | simp only [Kept.upd] | simp only [Kept.updTop] | simp only [Kept.updHif]
    | simp only [Kept.updSpill] | simp only [Kept.updJrn] | dsimp only | split | intro

theorem Kept.finishCtx (s : State) (n i : Nat) (x : Ctx) (discard : Bool) (hk : Kept Q G s)
    : Kept Q G (finishCtx s n i x discard) := by
  unfold Sys2Proof.Machine.finishCtx
  with_reducible repeat' first
    | assumption | apply Kept.setStall | apply Kept.flushHost | apply Kept.setCtx | simp only [Kept.upd]
    | simp only [Kept.updTop] | simp only [Kept.updHif] | simp only [Kept.updSpill] | simp only [Kept.updJrn] | dsimp only
    | split | intro

theorem Kept.stallRecord (s : State) (n k space off : Nat) (hk : Kept Q G s) : Kept Q G (stallRecord s n k space off) := by
  unfold Sys2Proof.Machine.stallRecord
  with_reducible repeat' first
    | assumption | apply Kept.drawn | apply Kept.fault | simp only [Kept.upd] | simp only [Kept.updTop]
    | simp only [Kept.updHif] | simp only [Kept.updSpill] | simp only [Kept.updJrn] | dsimp only | split | intro

theorem Kept.stallFault (s : State) (n i : Nat) (x : Ctx) (k space off : Nat) (hk : Kept Q G s)
    : Kept Q G (stallFault s n i x k space off) := by
  unfold Sys2Proof.Machine.stallFault
  with_reducible repeat' first
    | assumption | apply Kept.finishCtx | apply Kept.stallRecord | apply Kept.add64 | simp only [Kept.upd]
    | simp only [Kept.updTop] | simp only [Kept.updHif] | simp only [Kept.updSpill] | simp only [Kept.updJrn] | dsimp only
    | split | intro

theorem Kept.touchEntry (s : State) (t hall : Nat) (e : Entry) (hk : Kept Q G s) : Kept Q G (touchEntry s t hall e) := by
  unfold Sys2Proof.Machine.touchEntry
  with_reducible repeat' first
    | assumption | apply Kept.modEntry | simp only [Kept.upd] | simp only [Kept.updTop] | simp only [Kept.updHif]
    | simp only [Kept.updSpill] | simp only [Kept.updJrn] | dsimp only | split | intro

theorem Kept.learnFrom (s v : State) (r : LkReq) (e : Option Entry) (hk : Kept Q G s) (hk : Kept Q G v)
    : Kept Q G (learnFrom s v r e) := by
  unfold Sys2Proof.Machine.learnFrom
  with_reducible repeat' first
    | assumption | apply Kept.learnOffer | simp only [Kept.upd] | simp only [Kept.updTop] | simp only [Kept.updHif]
    | simp only [Kept.updSpill] | simp only [Kept.updJrn] | dsimp only | split | intro

theorem Kept.lookupFault (s v : State) (hall : Nat) (r : LkReq) (hk : Kept Q G s) (hk : Kept Q G v)
    : Kept Q G (lookupFault s v hall r).1 := by
  unfold Sys2Proof.Machine.lookupFault
  with_reducible repeat' first
    | assumption | apply Kept.add64 | apply Kept.learnFrom | simp only [Kept.upd] | simp only [Kept.updTop]
    | simp only [Kept.updHif] | simp only [Kept.updSpill] | simp only [Kept.updJrn] | dsimp only | split | intro

theorem Kept.lookupRead (s : State) (p hall : Nat) (r : LkReq) (hk : Kept Q G s) : Kept Q G (lookupRead s p hall r).1 := by
  unfold Sys2Proof.Machine.lookupRead
  with_reducible repeat' first
    | assumption | apply Kept.hallState | apply Kept.learnFrom | apply Kept.lookupFault | apply Kept.pmcEvent
    | apply Kept.touchEntry | simp only [Kept.upd] | simp only [Kept.updTop] | simp only [Kept.updHif]
    | simp only [Kept.updSpill] | simp only [Kept.updJrn] | dsimp only | split | intro

theorem Kept.runLookup (s : State) (p hall : Nat) (r : LkReq) (err : Option (Nat × Bool)) (hk : Kept Q G s)
    : Kept Q G (runLookup s p hall r err).1 := by
  unfold Sys2Proof.Machine.runLookup
  with_reducible repeat' first
    | assumption | apply Kept.hallAdvance | apply Kept.pmcEvent | apply Kept.hallState | apply Kept.add64
    | apply Kept.lookupFault | apply Kept.drawn | apply Kept.rowError | apply Kept.lookupRead | apply Kept.rowCorrected
    | simp only [Kept.upd] | simp only [Kept.updTop] | simp only [Kept.updHif] | simp only [Kept.updSpill]
    | simp only [Kept.updJrn] | dsimp only | split | intro

theorem Kept.execLookupResult (stall ctx slot : Nat) (err : Option (Nat × Bool)) (s : State) (hk : Kept Q G s)
    : KeptO Q G (execLookupResult stall ctx slot err s) := by
  unfold Sys2Proof.Machine.execLookupResult
  with_reducible repeat' first
    | assumption | apply Kept.runLookup | apply Kept.setCtx | apply KeptO.next | simp only [Kept.upd]
    | simp only [Kept.updTop] | simp only [Kept.updHif] | simp only [Kept.updSpill] | simp only [Kept.updJrn] | dsimp only
    | split | intro

theorem Kept.startMeter (s : State) (n : Nat) (x : Ctx) (idx : Nat) (c : Option Nat) (hk : Kept Q G s)
    : Kept Q G (startMeter s n x idx c).1 := by
  unfold Sys2Proof.Machine.startMeter
  with_reducible repeat' first
    | assumption | simp only [Kept.upd] | simp only [Kept.updTop] | simp only [Kept.updHif] | simp only [Kept.updSpill]
    | simp only [Kept.updJrn] | dsimp only | split | intro

theorem Kept.execMeterColour (stall ctx : Nat) (s : State) (hk : Kept Q G s) : KeptO Q G (execMeterColour stall ctx s) := by
  unfold Sys2Proof.Machine.execMeterColour
  with_reducible repeat' first
    | assumption | apply Kept.finishCtx | apply Kept.setCtx | apply KeptO.next | simp only [Kept.upd]
    | simp only [Kept.updTop] | simp only [Kept.updHif] | simp only [Kept.updSpill] | simp only [Kept.updJrn] | dsimp only
    | split | intro

theorem Kept.runCnt (s : State) (n : Nat) (x : Ctx) (v w : Nat) (x' : Ctx) (hk : Kept Q G s)
    : Kept Q G (runCnt s n x v w x').1 := by
  unfold Sys2Proof.Machine.runCnt
  with_reducible repeat' first
    | assumption | apply Kept.ledgerPacket | apply Kept.startMeter | simp only [Kept.upd] | simp only [Kept.updTop]
    | simp only [Kept.updHif] | simp only [Kept.updSpill] | simp only [Kept.updJrn] | dsimp only | split | intro

theorem Kept.runPorts (s : State) (n i : Nat) (k : Writes) (x : Ctx) (hk : Kept Q G s)
    : Kept Q G (runPorts s n i k x).1 := by
  unfold Sys2Proof.Machine.runPorts
  with_reducible repeat' first
    | assumption | apply Kept.writePort | apply Kept.foldl | apply Kept.foldl1 | simp only [Kept.upd]
    | simp only [Kept.updTop] | simp only [Kept.updHif] | simp only [Kept.updSpill] | simp only [Kept.updJrn] | dsimp only
    | split | intro

theorem Kept.afterWord (s : State) (n i : Nat) (x : Ctx) (a : Nat) (nxt : Option Nat) (hk : Kept Q G s)
    : Kept Q G (afterWord s n i x a nxt) := by
  unfold Sys2Proof.Machine.afterWord
  with_reducible repeat' first
    | assumption | apply Kept.finishCtx | apply Kept.stallFault | apply Kept.flushHost | apply Kept.setCtx
    | simp only [Kept.upd] | simp only [Kept.updTop] | simp only [Kept.updHif] | simp only [Kept.updSpill]
    | simp only [Kept.updJrn] | dsimp only | split | intro

theorem Kept.issueWord (s : State) (n i : Nat) (x : Ctx) (a w : Nat) (hk : Kept Q G s)
    : Kept Q G (issueWord s n i x a w) := by
  unfold Sys2Proof.Machine.issueWord
  with_reducible repeat' first
    | assumption | apply Kept.runCnt | apply Kept.runPorts | apply Kept.pmcEvent | apply Kept.whenB | apply Kept.afterWord
    | simp only [Kept.upd] | simp only [Kept.updTop] | simp only [Kept.updHif] | simp only [Kept.updSpill]
    | simp only [Kept.updJrn] | dsimp only | split | intro

theorem Kept.takeWord (s : State) (n i : Nat) (x : Ctx) (hk : Kept Q G s) : Kept Q G (takeWord s n i x) := by
  unfold Sys2Proof.Machine.takeWord
  with_reducible repeat' first
    | assumption | apply Kept.stallFault | apply Kept.issueWord | simp only [Kept.upd] | simp only [Kept.updTop]
    | simp only [Kept.updHif] | simp only [Kept.updSpill] | simp only [Kept.updJrn] | dsimp only | split | intro

theorem Kept.parityFail (s : State) (n : Nat) (x : Ctx) (backingBad : Bool) (hk : Kept Q G s)
    : Kept Q G (parityFail s n x backingBad) := by
  unfold Sys2Proof.Machine.parityFail
  with_reducible repeat' first
    | assumption | apply Kept.setStall | simp only [Kept.upd] | simp only [Kept.updTop] | simp only [Kept.updHif]
    | simp only [Kept.updSpill] | simp only [Kept.updJrn] | dsimp only | split | intro

theorem Kept.constError (s : State) (n : Nat) (x : Ctx) (k : Nat) (uncorr : Bool) (hk : Kept Q G s)
    : Kept Q G (constError s n x k uncorr) := by
  unfold Sys2Proof.Machine.constError
  with_reducible repeat' first
    | assumption | apply Kept.satF | apply Kept.stallRecord | simp only [Kept.upd] | simp only [Kept.updTop]
    | simp only [Kept.updHif] | simp only [Kept.updSpill] | simp only [Kept.updJrn] | dsimp only | split | intro

theorem Kept.constSeen (s : State) (n : Nat) (x : Ctx) (constErr : Option (Nat × Bool)) (hk : Kept Q G s)
    : Kept Q G (constSeen s n x constErr) := by
  unfold Sys2Proof.Machine.constSeen
  with_reducible repeat' first
    | assumption | apply Kept.constError | simp only [Kept.upd] | simp only [Kept.updTop] | simp only [Kept.updHif]
    | simp only [Kept.updSpill] | simp only [Kept.updJrn] | dsimp only | split | intro

theorem Kept.readWord (s : State) (n i : Nat) (x : Ctx) (parityBad backingBad : Bool) (constErr : Option (Nat × Bool))
    (hk : Kept Q G s) : Kept Q G (readWord s n i x parityBad backingBad constErr) := by
  unfold Sys2Proof.Machine.readWord
  with_reducible repeat' first
    | assumption | apply Kept.parityFail | apply Kept.takeWord | apply Kept.constSeen | simp only [Kept.upd]
    | simp only [Kept.updTop] | simp only [Kept.updHif] | simp only [Kept.updSpill] | simp only [Kept.updJrn] | dsimp only
    | split | intro

theorem Kept.execStallWordIssue (stall ctx : Nat) (parityBad backingBad : Bool) (constErr : Option (Nat × Bool)) (s : State)
    (hk : Kept Q G s) : KeptO Q G (execStallWordIssue stall ctx parityBad backingBad constErr s) := by
  unfold Sys2Proof.Machine.execStallWordIssue
  with_reducible repeat' first
    | assumption | apply Kept.readWord | apply KeptO.next | simp only [Kept.upd] | simp only [Kept.updTop]
    | simp only [Kept.updHif] | simp only [Kept.updSpill] | simp only [Kept.updJrn] | dsimp only | split | intro

theorem Kept.execWaitTimeout (stall ctx : Nat) (s : State) (hk : Kept Q G s) : KeptO Q G (execWaitTimeout stall ctx s) := by
  unfold Sys2Proof.Machine.execWaitTimeout
  with_reducible repeat' first
    | assumption | apply Kept.stallFault | apply KeptO.next | simp only [Kept.upd] | simp only [Kept.updTop]
    | simp only [Kept.updHif] | simp only [Kept.updSpill] | simp only [Kept.updJrn] | dsimp only | split | intro

theorem Kept.grantLock (s : State) (n : Nat) (x : Ctx) (idx : Nat) (hk : Kept Q G s) : Kept Q G (grantLock s n x idx).1 := by
  unfold Sys2Proof.Machine.grantLock
  with_reducible repeat' first
    | assumption | apply Kept.writePort | apply Kept.foldl | apply Kept.foldl1 | simp only [Kept.upd]
    | simp only [Kept.updTop] | simp only [Kept.updHif] | simp only [Kept.updSpill] | simp only [Kept.updJrn] | dsimp only
    | split | intro

theorem Kept.execStatefulLockGrant (stall ctx port : Nat) (s : State) (hk : Kept Q G s)
    : KeptO Q G (execStatefulLockGrant stall ctx port s) := by
  unfold Sys2Proof.Machine.execStatefulLockGrant
  with_reducible repeat' first
    | assumption | apply Kept.grantLock | apply Kept.flushHost | apply Kept.setCtx | apply KeptO.next | simp only [Kept.upd]
    | simp only [Kept.updTop] | simp only [Kept.updHif] | simp only [Kept.updSpill] | simp only [Kept.updJrn] | dsimp only
    | split | intro

theorem Kept.execStatefulReadData (stall ctx port : Nat) (s : State) (hk : Kept Q G s)
    : KeptO Q G (execStatefulReadData stall ctx port s) := by
  unfold Sys2Proof.Machine.execStatefulReadData
  with_reducible repeat' first
    | assumption | apply Kept.setCtx | apply KeptO.next | simp only [Kept.upd] | simp only [Kept.updTop]
    | simp only [Kept.updHif] | simp only [Kept.updSpill] | simp only [Kept.updJrn] | dsimp only | split | intro

theorem Kept.execStallAdmit (stall : Nat) (s : State) (hk : Kept Q G s) : KeptO Q G (execStallAdmit stall s) := by
  unfold Sys2Proof.Machine.execStallAdmit
  with_reducible repeat' first
    | assumption | apply Kept.setStall | apply Kept.pmcEvent | apply KeptO.next | simp only [Kept.upd]
    | simp only [Kept.updTop] | simp only [Kept.updHif] | simp only [Kept.updSpill] | simp only [Kept.updJrn] | dsimp only
    | split | intro

theorem Kept.leaveLast (s : State) (n : Nat) (x : Ctx) (hk : Kept Q G s) : Kept Q G (leaveLast s n x) := by
  unfold Sys2Proof.Machine.leaveLast
  with_reducible repeat' first
    | assumption | simp only [Kept.upd] | simp only [Kept.updTop] | simp only [Kept.updHif] | simp only [Kept.updSpill]
    | simp only [Kept.updJrn] | dsimp only | split | intro

theorem Kept.execStallDepart (stall : Nat) (s : State) (hk : Kept Q G s) : KeptO Q G (execStallDepart stall s) := by
  unfold Sys2Proof.Machine.execStallDepart
  with_reducible repeat' first
    | assumption | apply Kept.flushHost | apply Kept.setStall | apply Kept.leaveLast | apply Kept.passOn | apply KeptO.next
    | simp only [Kept.upd] | simp only [Kept.updTop] | simp only [Kept.updHif] | simp only [Kept.updSpill]
    | simp only [Kept.updJrn] | dsimp only | split | intro

theorem Kept.endReload (s : State) (n : Nat) (r : Nat × Nat × Bool) (hk : Kept Q G s) : Kept Q G (endReload s n r) := by
  unfold Sys2Proof.Machine.endReload
  with_reducible repeat' first
    | assumption | apply Kept.satF | apply Kept.stallRecord | apply Kept.raise | simp only [Kept.upd]
    | simp only [Kept.updTop] | simp only [Kept.updHif] | simp only [Kept.updSpill] | simp only [Kept.updJrn] | dsimp only
    | split | intro

theorem Kept.execParityReloadDone (stall : Nat) (s : State) (hk : Kept Q G s)
    : KeptO Q G (execParityReloadDone stall s) := by
  unfold Sys2Proof.Machine.execParityReloadDone
  with_reducible repeat' first
    | assumption | apply Kept.forEach | apply Kept.endReload | apply Kept.setStall | apply Kept.stallFault | apply KeptO.next
    | simp only [Kept.upd] | simp only [Kept.updTop] | simp only [Kept.updHif] | simp only [Kept.updSpill]
    | simp only [Kept.updJrn] | dsimp only | split | intro

theorem Kept.execPipeQuiesce (p : Nat) (s : State) (hk : Kept Q G s) : KeptO Q G (execPipeQuiesce p s) := by
  unfold Sys2Proof.Machine.execPipeQuiesce
  with_reducible repeat' first
    | assumption | apply Kept.holdWrite | apply Kept.setBit | apply KeptO.next | simp only [Kept.upd]
    | simp only [Kept.updTop] | simp only [Kept.updHif] | simp only [Kept.updSpill] | simp only [Kept.updJrn] | dsimp only
    | split | intro

theorem Kept.execQuiesced (p : Nat) (s : State) (hk : Kept Q G s) : KeptO Q G (execQuiesced p s) := by
  unfold Sys2Proof.Machine.execQuiesced
  with_reducible repeat' first
    | assumption | apply Kept.raise | apply Kept.setBit | apply KeptO.next | simp only [Kept.upd] | simp only [Kept.updTop]
    | simp only [Kept.updHif] | simp only [Kept.updSpill] | simp only [Kept.updJrn] | dsimp only | split | intro

theorem Kept.stepWord (stall : Nat) (parityBad backingBad : Bool) (constErr : Option (Nat × Bool)) (s : State)
    (hk : Kept Q G s) : Kept Q G (stepWord stall parityBad backingBad constErr s) := by
  unfold Sys2Proof.Machine.stepWord
  with_reducible repeat' first
    | assumption | apply Kept.readWord | simp only [Kept.upd] | simp only [Kept.updTop] | simp only [Kept.updHif]
    | simp only [Kept.updSpill] | simp only [Kept.updJrn] | dsimp only | split | intro

theorem Kept.stallCtrl (stall : Nat) (v : Word) (parityBad backingBad : Bool) (constErr : Option (Nat × Bool)) (s : State)
    (hk : Kept Q G s) : Kept Q G (stallCtrl stall v parityBad backingBad constErr s) := by
  unfold Sys2Proof.Machine.stallCtrl
  with_reducible repeat' first
    | assumption | apply Kept.holdWrite | apply Kept.setBit | apply Kept.stepWord | simp only [Kept.upd]
    | simp only [Kept.updTop] | simp only [Kept.updHif] | simp only [Kept.updSpill] | simp only [Kept.updJrn] | dsimp only
    | split | intro

theorem Kept.execStallHalt (stall : Nat) (halt : Bool) (s : State) (hk : Kept Q G s)
    : KeptO Q G (execStallHalt stall halt s) := by
  unfold Sys2Proof.Machine.execStallHalt
  with_reducible repeat' first
    | assumption | apply Kept.stallCtrl | apply KeptO.next | simp only [Kept.upd] | simp only [Kept.updTop]
    | simp only [Kept.updHif] | simp only [Kept.updSpill] | simp only [Kept.updJrn] | dsimp only | split | intro

theorem Kept.execStallStep (stall : Nat) (parityBad backingBad : Bool) (constErr : Option (Nat × Bool)) (s : State)
    (hk : Kept Q G s) : KeptO Q G (execStallStep stall parityBad backingBad constErr s) := by
  unfold Sys2Proof.Machine.execStallStep
  with_reducible repeat' first
    | assumption | apply Kept.stallCtrl | apply KeptO.next | simp only [Kept.upd] | simp only [Kept.updTop]
    | simp only [Kept.updHif] | simp only [Kept.updSpill] | simp only [Kept.updJrn] | dsimp only | split | intro

theorem Kept.stateAddr (s : State) (n : Nat) (v : Word) (hk : Kept Q G s) : Kept Q G (stateAddr s n v) := by
  unfold Sys2Proof.Machine.stateAddr
  with_reducible repeat' first
    | assumption | apply Kept.setF | simp only [Kept.upd] | simp only [Kept.updTop] | simp only [Kept.updHif]
    | simp only [Kept.updSpill] | simp only [Kept.updJrn] | dsimp only | split | intro

theorem Kept.execStateRead (stall : Nat) (value : Word) (s : State) (hk : Kept Q G s)
    : KeptO Q G (execStateRead stall value s) := by
  unfold Sys2Proof.Machine.execStateRead
  with_reducible repeat' first
    | assumption | apply Kept.holdWrite | apply Kept.setReg64 | apply Kept.stateAddr | apply KeptO.next
    | simp only [Kept.upd] | simp only [Kept.updTop] | simp only [Kept.updHif] | simp only [Kept.updSpill]
    | simp only [Kept.updJrn] | dsimp only | split | intro

theorem Kept.execStateWrite (stall : Nat) (value : Word) (s : State) (hk : Kept Q G s)
    : KeptO Q G (execStateWrite stall value s) := by
  unfold Sys2Proof.Machine.execStateWrite
  with_reducible repeat' first
    | assumption | apply Kept.holdWrite | apply Kept.stateAddr | apply Kept.setBit | apply Kept.setStall
    | apply Kept.setStateReg | apply KeptO.next | simp only [Kept.upd] | simp only [Kept.updTop] | simp only [Kept.updHif]
    | simp only [Kept.updSpill] | simp only [Kept.updJrn] | dsimp only | split | intro

theorem Kept.execMeterRead (stall : Nat) (value : Word) (s : State) (hk : Kept Q G s)
    : KeptO Q G (execMeterRead stall value s) := by
  unfold Sys2Proof.Machine.execMeterRead
  with_reducible repeat' first
    | assumption | apply Kept.holdWrite | apply Kept.setF | apply Kept.forEach | apply Kept.setReg | apply KeptO.next
    | simp only [Kept.upd] | simp only [Kept.updTop] | simp only [Kept.updHif] | simp only [Kept.updSpill]
    | simp only [Kept.updJrn] | dsimp only | split | intro

theorem Kept.execMeterWrite (stall : Nat) (value : Word) (s : State) (hk : Kept Q G s)
    : KeptO Q G (execMeterWrite stall value s) := by
  unfold Sys2Proof.Machine.execMeterWrite
  with_reducible repeat' first
    | assumption | apply Kept.holdWrite | apply Kept.setF | apply Kept.setBit | apply KeptO.next | simp only [Kept.upd]
    | simp only [Kept.updTop] | simp only [Kept.updHif] | simp only [Kept.updSpill] | simp only [Kept.updJrn] | dsimp only
    | split | intro

theorem Kept.dropFlight (s : State) (reason : Nat) (f : Flight) (hk : Kept Q G s) : Kept Q G (dropFlight s reason f) := by
  unfold Sys2Proof.Machine.dropFlight
  with_reducible repeat' first
    | assumption | apply Kept.dropDequeued | apply Kept.dropPacket | simp only [Kept.upd] | simp only [Kept.updTop]
    | simp only [Kept.updHif] | simp only [Kept.updSpill] | simp only [Kept.updJrn] | dsimp only | split | intro

theorem Kept.dropInStall (old : Packet → Bool) (reason : Nat) (s : State) (n : Nat) (hk : Kept Q G s)
    : Kept Q G (dropInStall old reason s n) := by
  unfold Sys2Proof.Machine.dropInStall
  with_reducible repeat' first
    | assumption | apply Kept.setStall | apply Kept.flushHost | apply Kept.forEach | apply Kept.dropFlight
    | simp only [Kept.upd] | simp only [Kept.updTop] | simp only [Kept.updHif] | simp only [Kept.updSpill]
    | simp only [Kept.updJrn] | dsimp only | split | intro

theorem Kept.dropInPipe (old : Packet → Bool) (reason : Nat) (s : State) (p : Nat) (hk : Kept Q G s)
    : Kept Q G (dropInPipe old reason s p) := by
  unfold Sys2Proof.Machine.dropInPipe
  with_reducible repeat' first
    | assumption | apply Kept.forEach | apply Kept.dropInStall | apply Kept.dropPacket | apply Kept.dropDequeued
    | simp only [Kept.upd] | simp only [Kept.updTop] | simp only [Kept.updHif] | simp only [Kept.updSpill]
    | simp only [Kept.updJrn] | dsimp only | split | intro

theorem Kept.execDrainForce (d : Dom) (s : State) (hk : Kept Q G s) : KeptO Q G (execDrainForce d s) := by
  unfold Sys2Proof.Machine.execDrainForce
  with_reducible repeat' first
    | assumption | apply Kept.forEach | apply Kept.dropInPipe | apply Kept.raise | apply Kept.setBit | apply KeptO.next
    | simp only [Kept.upd] | simp only [Kept.updTop] | simp only [Kept.updHif] | simp only [Kept.updSpill]
    | simp only [Kept.updJrn] | dsimp only | split | intro

theorem Kept.editFault (s : State) (c : Copy) (hk : Kept Q G s) : Kept Q G (editFault s c) := by
  unfold Sys2Proof.Machine.editFault
  with_reducible repeat' first
    | assumption | apply Kept.dropDequeued | apply Kept.raise | apply Kept.add64 | simp only [Kept.upd]
    | simp only [Kept.updTop] | simp only [Kept.updHif] | simp only [Kept.updSpill] | simp only [Kept.updJrn] | dsimp only
    | split | intro

theorem Kept.execEditor (g : Nat) (s : State) (hk : Kept Q G s) : KeptO Q G (execEditor g s) := by
  unfold Sys2Proof.Machine.execEditor
  with_reducible repeat' first
    | assumption | apply Kept.dropDequeued | apply Kept.editFault | apply Kept.forEach | apply Kept.addTal
    | apply Kept.raiseLimited | apply Kept.drawn | apply KeptO.next | simp only [Kept.upd] | simp only [Kept.updTop]
    | simp only [Kept.updHif] | simp only [Kept.updSpill] | simp only [Kept.updJrn] | dsimp only | split | intro

theorem Kept.ptpReport (s : State) (c : Copy) (stamp : Nat) (hk : Kept Q G s) : Kept Q G (ptpReport s c stamp) := by
  unfold Sys2Proof.Machine.ptpReport
  with_reducible repeat' first
    | assumption | apply Kept.raiseLimited | apply Kept.add64 | apply Kept.notify | simp only [Kept.upd]
    | simp only [Kept.updTop] | simp only [Kept.updHif] | simp only [Kept.updSpill] | simp only [Kept.updJrn] | dsimp only
    | split | intro

theorem Kept.tailFault (s : State) (p : Nat) (hk : Kept Q G s) : Kept Q G (tailFault s p) := by
  unfold Sys2Proof.Machine.tailFault
  with_reducible repeat' first
    | assumption | apply Kept.fault | apply Kept.add64 | simp only [Kept.upd] | simp only [Kept.updTop]
    | simp only [Kept.updHif] | simp only [Kept.updSpill] | simp only [Kept.updJrn] | dsimp only | split | intro

theorem Kept.mirrorCopies (s : State) (p : Packet) (hk : Kept Q G s) : Kept Q G (mirrorCopies s p).1 := by
  unfold Sys2Proof.Machine.mirrorCopies
  with_reducible repeat' first
    | assumption | apply Kept.sessionTakes | apply Kept.foldl | apply Kept.foldl1 | simp only [Kept.upd]
    | simp only [Kept.updTop] | simp only [Kept.updHif] | simp only [Kept.updSpill] | simp only [Kept.updJrn] | dsimp only
    | split | intro

theorem Kept.evictFlow (s : State) (k : Nat) (hk : Kept Q G s) : Kept Q G (evictFlow s k) := by
  unfold Sys2Proof.Machine.evictFlow
  with_reducible repeat' first
    | assumption | apply Kept.exportHand | simp only [Kept.upd] | simp only [Kept.updTop] | simp only [Kept.updHif]
    | simp only [Kept.updSpill] | simp only [Kept.updJrn] | dsimp only | split | intro

theorem Kept.putFlow (s : State) (k : Nat) (f : Flow) (p : Packet) (dropped : Option Nat) (hk : Kept Q G s)
    : Kept Q G (putFlow s k f p dropped) := by
  unfold Sys2Proof.Machine.putFlow
  with_reducible repeat' first
    | assumption | simp only [Kept.upd] | simp only [Kept.updTop] | simp only [Kept.updHif] | simp only [Kept.updSpill]
    | simp only [Kept.updJrn] | dsimp only | split | intro

theorem Kept.flowTake (s : State) (g : Nat) (p : Packet) (dropped : Option Nat) (hk : Kept Q G s)
    : Kept Q G (flowTake s g p dropped) := by
  unfold Sys2Proof.Machine.flowTake
  with_reducible repeat' first
    | assumption | apply Kept.drawn | apply Kept.putFlow | apply Kept.evictFlow | simp only [Kept.upd]
    | simp only [Kept.updTop] | simp only [Kept.updHif] | simp only [Kept.updSpill] | simp only [Kept.updJrn] | dsimp only
    | split | intro

theorem Kept.frameCopies (s : State) (g : Nat) (p : Packet) (hk : Kept Q G s) : Kept Q G (frameCopies s g p).1 := by
  unfold Sys2Proof.Machine.frameCopies
  with_reducible repeat' first
    | assumption | apply Kept.hallAdvance | apply Kept.mirrorCopies | apply Kept.drawn | simp only [Kept.upd]
    | simp only [Kept.updTop] | simp only [Kept.updHif] | simp only [Kept.updSpill] | simp only [Kept.updJrn] | dsimp only
    | split | intro

theorem Kept.tailForward (s : State) (g : Nat) (p : Packet) (hk : Kept Q G s) : Kept Q G (tailForward s g p) := by
  unfold Sys2Proof.Machine.tailForward
  with_reducible repeat' first
    | assumption | apply Kept.frameCopies | apply Kept.dropPacket | apply Kept.dropRefused | apply Kept.admitCopies
    | apply Kept.badFrame | simp only [Kept.upd] | simp only [Kept.updTop] | simp only [Kept.updHif]
    | simp only [Kept.updSpill] | simp only [Kept.updJrn] | dsimp only | split | intro

theorem Kept.recirculate (s : State) (g : Nat) (p : Packet) (hk : Kept Q G s) : Kept Q G (recirculate s g p) := by
  unfold Sys2Proof.Machine.recirculate
  with_reducible repeat' first
    | assumption | apply Kept.pmcEvent | simp only [Kept.upd] | simp only [Kept.updTop] | simp only [Kept.updHif]
    | simp only [Kept.updSpill] | simp only [Kept.updJrn] | dsimp only | split | intro

theorem Kept.execIngressTail (g : Nat) (s : State) (hk : Kept Q G s) : KeptO Q G (execIngressTail g s) := by
  unfold Sys2Proof.Machine.execIngressTail
  with_reducible repeat' first
    | assumption | apply Kept.flowTake | apply Kept.raise | apply Kept.add64 | apply Kept.tailFault | apply Kept.dropPacket
    | apply Kept.recirculate | apply Kept.tailForward | apply KeptO.next | simp only [Kept.upd] | simp only [Kept.updTop]
    | simp only [Kept.updHif] | simp only [Kept.updSpill] | simp only [Kept.updJrn] | dsimp only | split | intro

theorem Kept.egressMirrors (s : State) (c : Copy) (hk : Kept Q G s) : Kept Q G (egressMirrors s c) := by
  unfold Sys2Proof.Machine.egressMirrors
  with_reducible repeat' first
    | assumption | apply Kept.mirrorCopies | apply Kept.admitCopies | apply Kept.dropRefused | simp only [Kept.upd]
    | simp only [Kept.updTop] | simp only [Kept.updHif] | simp only [Kept.updSpill] | simp only [Kept.updJrn] | dsimp only
    | split | intro

theorem Kept.execEgressTail (g : Nat) (s : State) (hk : Kept Q G s) : KeptO Q G (execEgressTail g s) := by
  unfold Sys2Proof.Machine.execEgressTail
  with_reducible repeat' first
    | assumption | apply Kept.dropDequeued | apply Kept.egressMirrors | apply Kept.tailFault | apply KeptO.next
    | simp only [Kept.upd] | simp only [Kept.updTop] | simp only [Kept.updHif] | simp only [Kept.updSpill]
    | simp only [Kept.updJrn] | dsimp only | split | intro

theorem Kept.countSent (s : State) (l : Nat) (b : List Byte) (tailMarked : Bool) (hk : Kept Q G s)
    : Kept Q G (countSent s l b tailMarked) := by
  unfold Sys2Proof.Machine.countSent
  with_reducible repeat' first
    | assumption | apply Kept.ledgerAdd | simp only [Kept.upd] | simp only [Kept.updTop] | simp only [Kept.updHif]
    | simp only [Kept.updSpill] | simp only [Kept.updJrn] | dsimp only | split | intro

theorem Kept.countWindows (s : State) (c : Copy) (start : Nat) (hk : Kept Q G s) : Kept Q G (countWindows s c start) := by
  unfold Sys2Proof.Machine.countWindows
  with_reducible repeat' first
    | assumption | apply Kept.add64 | simp only [Kept.upd] | simp only [Kept.updTop] | simp only [Kept.updHif]
    | simp only [Kept.updSpill] | simp only [Kept.updJrn] | dsimp only | split | intro

theorem Kept.departCopy (s : State) (c : Copy) (pcs : Stamp) (tailMarked : Bool) (hk : Kept Q G s)
    : Kept Q G (departCopy s c pcs tailMarked) := by
  unfold Sys2Proof.Machine.departCopy
  with_reducible repeat' first
    | assumption | apply Kept.emit | apply Kept.countWindows | apply Kept.countSent | apply Kept.histograms
    | apply Kept.ptpReport | apply Kept.postcard | apply Kept.releaseCopy | simp only [Kept.upd] | simp only [Kept.updTop]
    | simp only [Kept.updHif] | simp only [Kept.updSpill] | simp only [Kept.updJrn] | dsimp only | split | intro

theorem Kept.execCopyDeparture (port : Nat) (pcs : Stamp) (begun : Bool) (err : Option DataErr) (s : State) (hk : Kept Q G s)
    : KeptO Q G (execCopyDeparture port pcs begun err s) := by
  unfold Sys2Proof.Machine.execCopyDeparture
  with_reducible repeat' first
    | assumption | apply Kept.whenB | apply Kept.setPort | apply Kept.marketRead | apply Kept.departCopy
    | apply Kept.dropDequeued | apply Kept.editFault | apply KeptO.next | simp only [Kept.upd] | simp only [Kept.updTop]
    | simp only [Kept.updHif] | simp only [Kept.updSpill] | simp only [Kept.updJrn] | dsimp only | split | intro

end Sys2Proof.Laws
end

