-- ==== Sys2Proof/Laws/KeptPart.lean ====
section
/-!
SUPPORT. One lemma for each operation of Ports, Ainum, Cart, Telemetry, Scales, Reset, View, RegWrite: it keeps the canonical register store, the queue, the fuses' order and a forward transition (`Kept`).
-/
namespace Sys2Proof.Laws

open Sys2Proof.Machine

variable {Q : List Instr} {G : Fuses}

theorem Kept.laneLine (s : State) (g j : Nat) (hk : Kept Q G s) : Kept Q G (laneLine s g j) := by
  unfold Sys2Proof.Machine.laneLine
  with_reducible repeat' first
    | assumption | apply Kept.setLine | simp only [Kept.upd] | simp only [Kept.updTop] | simp only [Kept.updHif]
    | simp only [Kept.updSpill] | simp only [Kept.updJrn] | dsimp only | split | intro

theorem Kept.laneEvent (s : State) (l j : Nat) (hk : Kept Q G s) : Kept Q G (laneEvent s l j) := by
  unfold Sys2Proof.Machine.laneEvent
  with_reducible repeat' first
    | assumption | apply Kept.laneLine | apply Kept.setBit | simp only [Kept.upd] | simp only [Kept.updTop]
    | simp only [Kept.updHif] | simp only [Kept.updSpill] | simp only [Kept.updJrn] | dsimp only | split | intro

theorem Kept.lanErr (s : State) (l bit : Nat) (hk : Kept Q G s) : Kept Q G (lanErr s l bit) := by
  unfold Sys2Proof.Machine.lanErr
  with_reducible repeat' first
    | assumption | apply Kept.laneEvent | apply Kept.setBit | simp only [Kept.upd] | simp only [Kept.updTop]
    | simp only [Kept.updHif] | simp only [Kept.updSpill] | simp only [Kept.updJrn] | dsimp only | split | intro

theorem Kept.portFlags (s : State) (l : Nat) (hk : Kept Q G s) : Kept Q G (portFlags s l) := by
  unfold Sys2Proof.Machine.portFlags
  with_reducible repeat' first
    | assumption | apply Kept.setBit | simp only [Kept.upd] | simp only [Kept.updTop] | simp only [Kept.updHif]
    | simp only [Kept.updSpill] | simp only [Kept.updJrn] | dsimp only | split | intro

theorem Kept.setAin (s : State) (l : Nat) (x : AinPort) (hk : Kept Q G s) : Kept Q G (setAin s l x) := by
  unfold Sys2Proof.Machine.setAin
  with_reducible repeat' first
    | assumption | simp only [Kept.upd] | simp only [Kept.updTop] | simp only [Kept.updHif] | simp only [Kept.updSpill]
    | simp only [Kept.updJrn] | dsimp only | split | intro

theorem Kept.endSession (s : State) (l : Nat) (hk : Kept Q G s) : Kept Q G (endSession s l) := by
  unfold Sys2Proof.Machine.endSession
  with_reducible repeat' first
    | assumption | apply Kept.setAin | apply Kept.setF | apply Kept.setBit | apply Kept.whenB | apply Kept.raise
    | simp only [Kept.upd] | simp only [Kept.updTop] | simp only [Kept.updHif] | simp only [Kept.updSpill]
    | simp only [Kept.updJrn] | dsimp only | split | intro

theorem Kept.goSent (s : State) (l : Nat) (hk : Kept Q G s) : Kept Q G (goSent s l) := by
  unfold Sys2Proof.Machine.goSent
  with_reducible repeat' first
    | assumption | apply Kept.raise | apply Kept.setBit | simp only [Kept.upd] | simp only [Kept.updTop]
    | simp only [Kept.updHif] | simp only [Kept.updSpill] | simp only [Kept.updJrn] | dsimp only | split | intro

theorem Kept.ainumDown (s : State) (l : Nat) (hk : Kept Q G s) : Kept Q G (ainumDown s l) := by
  unfold Sys2Proof.Machine.ainumDown
  with_reducible repeat' first
    | assumption | apply Kept.endSession | apply Kept.setAin | apply Kept.goSent | simp only [Kept.upd]
    | simp only [Kept.updTop] | simp only [Kept.updHif] | simp only [Kept.updSpill] | simp only [Kept.updJrn] | dsimp only
    | split | intro

theorem Kept.ladderDone (s : State) (hk : Kept Q G s) : Kept Q G (ladderDone s) := by
  unfold Sys2Proof.Machine.ladderDone
  with_reducible repeat' first
    | assumption | apply Kept.setBringup | simp only [Kept.upd] | simp only [Kept.updTop] | simp only [Kept.updHif]
    | simp only [Kept.updSpill] | simp only [Kept.updJrn] | dsimp only | split | intro

theorem Kept.enterState (s : State) (l st rate : Nat) (aligned : Bool) (hk : Kept Q G s)
    : Kept Q G (enterState s l st rate aligned) := by
  unfold Sys2Proof.Machine.enterState
  with_reducible repeat' first
    | assumption | apply Kept.setF | apply Kept.setLatency | apply Kept.whenB | apply Kept.laneEvent | apply Kept.ainumDown
    | apply Kept.clearPauses | apply Kept.portFlags | simp only [Kept.upd] | simp only [Kept.updTop]
    | simp only [Kept.updHif] | simp only [Kept.updSpill] | simp only [Kept.updJrn] | dsimp only | split | intro

theorem Kept.modPort (s : State) (l : Nat) (f : PortSt → PortSt) (hk : Kept Q G s) : Kept Q G (modPort s l f) := by
  unfold Sys2Proof.Machine.modPort
  with_reducible repeat' first
    | assumption | apply Kept.setPort | simp only [Kept.upd] | simp only [Kept.updTop] | simp only [Kept.updHif]
    | simp only [Kept.updSpill] | simp only [Kept.updJrn] | dsimp only | split | intro

theorem Kept.enterUp (s : State) (l : Nat) (hk : Kept Q G s) : Kept Q G (enterUp s l) := by
  unfold Sys2Proof.Machine.enterUp
  with_reducible repeat' first
    | assumption | apply Kept.modPort | apply Kept.setF | apply Kept.whenB | apply Kept.setBit | apply Kept.enterState
    | simp only [Kept.upd] | simp only [Kept.updTop] | simp only [Kept.updHif] | simp only [Kept.updSpill]
    | simp only [Kept.updJrn] | dsimp only | split | intro

theorem Kept.cutArriving (s : State) (l : Nat) (f : State → Packet → State) (hk : Kept Q G s)
    (hf : ∀ t x, Kept Q G t → Kept Q G (f t x)) : Kept Q G (cutArriving s l f) := by
  unfold Sys2Proof.Machine.cutArriving
  with_reducible repeat' first
    | assumption | apply hf | apply Kept.forEach | apply Kept.settleLength | apply Kept.badFrame | simp only [Kept.upd]
    | simp only [Kept.updTop] | simp only [Kept.updHif] | simp only [Kept.updSpill] | simp only [Kept.updJrn] | dsimp only
    | split | intro

theorem Kept.octCfgWrite (g o : Nat) (value : Word) (s : State) (hk : Kept Q G s) : Kept Q G (octCfgWrite g o value s) := by
  unfold Sys2Proof.Machine.octCfgWrite
  with_reducible repeat' first
    | assumption | apply Kept.holdWrite | apply Kept.lanErr | apply Kept.setReg | apply Kept.forEach | apply Kept.portFlags
    | simp only [Kept.upd] | simp only [Kept.updTop] | simp only [Kept.updHif] | simp only [Kept.updSpill]
    | simp only [Kept.updJrn] | dsimp only | split | intro

theorem Kept.execOctCfgWrite (g o : Nat) (value : Word) (s : State) (hk : Kept Q G s)
    : KeptO Q G (execOctCfgWrite g o value s) := by
  unfold Sys2Proof.Machine.execOctCfgWrite
  with_reducible repeat' first
    | assumption | apply Kept.octCfgWrite | apply KeptO.next | simp only [Kept.upd] | simp only [Kept.updTop]
    | simp only [Kept.updHif] | simp only [Kept.updSpill] | simp only [Kept.updJrn] | dsimp only | split | intro

theorem Kept.portUp (s : State) (l : Nat) (hk : Kept Q G s) : Kept Q G (portUp s l) := by
  unfold Sys2Proof.Machine.portUp
  with_reducible repeat' first
    | assumption | apply Kept.setBit | apply Kept.lanErr | apply Kept.setPort | apply Kept.setF | apply Kept.enterState
    | simp only [Kept.upd] | simp only [Kept.updTop] | simp only [Kept.updHif] | simp only [Kept.updSpill]
    | simp only [Kept.updJrn] | dsimp only | split | intro

theorem Kept.portDown (s : State) (l : Nat) (hk : Kept Q G s) : Kept Q G (portDown s l) := by
  unfold Sys2Proof.Machine.portDown
  with_reducible repeat' first
    | assumption | apply Kept.setBit | apply Kept.forEach | apply Kept.ledgerAdd | apply Kept.cutArriving
    | apply Kept.dropPacket | apply Kept.setPort | apply Kept.setF | apply Kept.ladderDone | apply Kept.enterState
    | simp only [Kept.upd] | simp only [Kept.updTop] | simp only [Kept.updHif] | simp only [Kept.updSpill]
    | simp only [Kept.updJrn] | dsimp only | split | intro

theorem Kept.noteClash (s : State) (l : Nat) (hk : Kept Q G s) : Kept Q G (noteClash s l) := by
  unfold Sys2Proof.Machine.noteClash
  with_reducible repeat' first
    | assumption | apply Kept.raise | apply Kept.setBit | simp only [Kept.upd] | simp only [Kept.updTop]
    | simp only [Kept.updHif] | simp only [Kept.updSpill] | simp only [Kept.updJrn] | dsimp only | split | intro

theorem Kept.portCfgWrite (lane : Nat) (value : Word) (s : State) (hk : Kept Q G s)
    : Kept Q G (portCfgWrite lane value s) := by
  unfold Sys2Proof.Machine.portCfgWrite
  with_reducible repeat' first
    | assumption | apply Kept.holdWrite | apply Kept.lanErr | apply Kept.portFlags | apply Kept.setReg | apply Kept.noteClash
    | apply Kept.portUp | apply Kept.portDown | simp only [Kept.upd] | simp only [Kept.updTop] | simp only [Kept.updHif]
    | simp only [Kept.updSpill] | simp only [Kept.updJrn] | dsimp only | split | intro

theorem Kept.execPortCfgWrite (lane : Nat) (value : Word) (s : State) (hk : Kept Q G s)
    : KeptO Q G (execPortCfgWrite lane value s) := by
  unfold Sys2Proof.Machine.execPortCfgWrite
  with_reducible repeat' first
    | assumption | apply Kept.portCfgWrite | apply KeptO.next | simp only [Kept.upd] | simp only [Kept.updTop]
    | simp only [Kept.updHif] | simp only [Kept.updSpill] | simp only [Kept.updJrn] | dsimp only | split | intro

theorem Kept.execPortEnable (lane : Nat) (s : State) (hk : Kept Q G s) : KeptO Q G (execPortEnable lane s) := by
  unfold Sys2Proof.Machine.execPortEnable
  with_reducible repeat' first
    | assumption | apply Kept.portCfgWrite | apply KeptO.next | simp only [Kept.upd] | simp only [Kept.updTop]
    | simp only [Kept.updHif] | simp only [Kept.updSpill] | simp only [Kept.updJrn] | dsimp only | split | intro

theorem Kept.execPortDisable (lane : Nat) (s : State) (hk : Kept Q G s) : KeptO Q G (execPortDisable lane s) := by
  unfold Sys2Proof.Machine.execPortDisable
  with_reducible repeat' first
    | assumption | apply Kept.portCfgWrite | apply KeptO.next | simp only [Kept.upd] | simp only [Kept.updTop]
    | simp only [Kept.updHif] | simp only [Kept.updSpill] | simp only [Kept.updJrn] | dsimp only | split | intro

theorem Kept.execPortAligned (port skewNs : Nat) (s : State) (hk : Kept Q G s)
    : KeptO Q G (execPortAligned port skewNs s) := by
  unfold Sys2Proof.Machine.execPortAligned
  with_reducible repeat' first
    | assumption | apply Kept.setF | apply Kept.ladderDone | apply Kept.enterUp | apply KeptO.next | simp only [Kept.upd]
    | simp only [Kept.updTop] | simp only [Kept.updHif] | simp only [Kept.updSpill] | simp only [Kept.updJrn] | dsimp only
    | split | intro

theorem Kept.loseLink (s : State) (l : Nat) (hk : Kept Q G s) : Kept Q G (loseLink s l) := by
  unfold Sys2Proof.Machine.loseLink
  with_reducible repeat' first
    | assumption | apply Kept.modPort | simp only [Kept.upd] | simp only [Kept.updTop] | simp only [Kept.updHif]
    | simp only [Kept.updSpill] | simp only [Kept.updJrn] | dsimp only | split | intro

theorem Kept.linkDown (s : State) (l : Nat) (gone : Bool) (hk : Kept Q G s) : Kept Q G (linkDown s l gone) := by
  unfold Sys2Proof.Machine.linkDown
  with_reducible repeat' first
    | assumption | apply Kept.setF | apply Kept.setBit | apply Kept.loseLink | apply Kept.enterState | apply Kept.whenB
    | apply Kept.laneEvent | simp only [Kept.upd] | simp only [Kept.updTop] | simp only [Kept.updHif]
    | simp only [Kept.updSpill] | simp only [Kept.updJrn] | dsimp only | split | intro

theorem Kept.execLossOfSignal (lane : Nat) (signalGone : Bool) (s : State) (hk : Kept Q G s)
    : KeptO Q G (execLossOfSignal lane signalGone s) := by
  unfold Sys2Proof.Machine.execLossOfSignal
  with_reducible repeat' first
    | assumption | apply Kept.linkDown | apply KeptO.next | simp only [Kept.upd] | simp only [Kept.updTop]
    | simp only [Kept.updHif] | simp only [Kept.updSpill] | simp only [Kept.updJrn] | dsimp only | split | intro

theorem Kept.execSignalPresent (port : Nat) (s : State) (hk : Kept Q G s) : KeptO Q G (execSignalPresent port s) := by
  unfold Sys2Proof.Machine.execSignalPresent
  with_reducible repeat' first
    | assumption | apply Kept.enterState | apply KeptO.next | simp only [Kept.upd] | simp only [Kept.updTop]
    | simp only [Kept.updHif] | simp only [Kept.updSpill] | simp only [Kept.updJrn] | dsimp only | split | intro

theorem Kept.execFaultReceived (port : Nat) (localFault : Bool) (s : State) (hk : Kept Q G s)
    : KeptO Q G (execFaultReceived port localFault s) := by
  unfold Sys2Proof.Machine.execFaultReceived
  with_reducible repeat' first
    | assumption | apply Kept.setF | apply Kept.enterState | apply Kept.modPort | apply Kept.setBit | apply KeptO.next
    | simp only [Kept.upd] | simp only [Kept.updTop] | simp only [Kept.updHif] | simp only [Kept.updSpill]
    | simp only [Kept.updJrn] | dsimp only | split | intro

theorem Kept.execFaultCleared (port : Nat) (s : State) (hk : Kept Q G s) : KeptO Q G (execFaultCleared port s) := by
  unfold Sys2Proof.Machine.execFaultCleared
  with_reducible repeat' first
    | assumption | apply Kept.ladderDone | apply Kept.enterUp | apply Kept.setF | apply KeptO.next | simp only [Kept.upd]
    | simp only [Kept.updTop] | simp only [Kept.updHif] | simp only [Kept.updSpill] | simp only [Kept.updJrn] | dsimp only
    | split | intro

theorem Kept.execRecoveryEnd (port : Nat) (s : State) (hk : Kept Q G s) : KeptO Q G (execRecoveryEnd port s) := by
  unfold Sys2Proof.Machine.execRecoveryEnd
  with_reducible repeat' first
    | assumption | apply Kept.setBit | apply KeptO.next | simp only [Kept.upd] | simp only [Kept.updTop]
    | simp only [Kept.updHif] | simp only [Kept.updSpill] | simp only [Kept.updJrn] | dsimp only | split | intro

theorem Kept.queueMsg (s : State) (l : Nat) (m : AinMsg) (hk : Kept Q G s) : Kept Q G (queueMsg s l m) := by
  unfold Sys2Proof.Machine.queueMsg
  with_reducible repeat' first
    | assumption | apply Kept.setAin | simp only [Kept.upd] | simp only [Kept.updTop] | simp only [Kept.updHif]
    | simp only [Kept.updSpill] | simp only [Kept.updJrn] | dsimp only | split | intro

theorem Kept.takeStep (s : State) (l : Nat) (hk : Kept Q G s) : Kept Q G (takeStep s l) := by
  unfold Sys2Proof.Machine.takeStep
  with_reducible repeat' first
    | assumption | apply Kept.setLatency | apply Kept.modPort | simp only [Kept.upd] | simp only [Kept.updTop]
    | simp only [Kept.updHif] | simp only [Kept.updSpill] | simp only [Kept.updJrn] | dsimp only | split | intro

theorem Kept.recordLadder (s : State) (l : Nat) (hk : Kept Q G s) : Kept Q G (recordLadder s l) := by
  unfold Sys2Proof.Machine.recordLadder
  with_reducible repeat' first
    | assumption | apply Kept.jrnOwe | simp only [Kept.upd] | simp only [Kept.updTop] | simp only [Kept.updHif]
    | simp only [Kept.updSpill] | simp only [Kept.updJrn] | dsimp only | split | intro

theorem Kept.holdLadder (s : State) (l : Nat) (hk : Kept Q G s) : Kept Q G (holdLadder s l) := by
  unfold Sys2Proof.Machine.holdLadder
  with_reducible repeat' first
    | assumption | apply Kept.ladderDone | apply Kept.recordLadder | apply Kept.portFlags | apply Kept.laneEvent
    | apply Kept.modPort | simp only [Kept.upd] | simp only [Kept.updTop] | simp only [Kept.updHif]
    | simp only [Kept.updSpill] | simp only [Kept.updJrn] | dsimp only | split | intro

theorem Kept.execLadderStepPropose (port : Nat) (s : State) (hk : Kept Q G s)
    : KeptO Q G (execLadderStepPropose port s) := by
  unfold Sys2Proof.Machine.execLadderStepPropose
  with_reducible repeat' first
    | assumption | apply Kept.queueMsg | apply Kept.setPort | apply KeptO.next | simp only [Kept.upd]
    | simp only [Kept.updTop] | simp only [Kept.updHif] | simp only [Kept.updSpill] | simp only [Kept.updJrn] | dsimp only
    | split | intro

theorem Kept.execStepTransmitterSwitch (port : Nat) (s : State) (hk : Kept Q G s)
    : KeptO Q G (execStepTransmitterSwitch port s) := by
  unfold Sys2Proof.Machine.execStepTransmitterSwitch
  with_reducible repeat' first
    | assumption | apply Kept.enterState | apply KeptO.next | simp only [Kept.upd] | simp only [Kept.updTop]
    | simp only [Kept.updHif] | simp only [Kept.updSpill] | simp only [Kept.updJrn] | dsimp only | split | intro

theorem Kept.execLadderStepSuccess (port skewNs : Nat) (s : State) (hk : Kept Q G s)
    : KeptO Q G (execLadderStepSuccess port skewNs s) := by
  unfold Sys2Proof.Machine.execLadderStepSuccess
  with_reducible repeat' first
    | assumption | apply Kept.modPort | apply Kept.setF | apply Kept.ladderDone | apply Kept.recordLadder
    | apply Kept.laneEvent | apply Kept.enterUp | apply KeptO.next | simp only [Kept.upd] | simp only [Kept.updTop]
    | simp only [Kept.updHif] | simp only [Kept.updSpill] | simp only [Kept.updJrn] | dsimp only | split | intro

theorem Kept.tryFailed (s : State) (l : Nat) (hk : Kept Q G s) : Kept Q G (tryFailed s l) := by
  unfold Sys2Proof.Machine.tryFailed
  with_reducible repeat' first
    | assumption | apply Kept.setF | apply Kept.holdLadder | apply Kept.modPort | simp only [Kept.upd]
    | simp only [Kept.updTop] | simp only [Kept.updHif] | simp only [Kept.updSpill] | simp only [Kept.updJrn] | dsimp only
    | split | intro

theorem Kept.execLadderStepFail (port : Nat) (s : State) (hk : Kept Q G s) : KeptO Q G (execLadderStepFail port s) := by
  unfold Sys2Proof.Machine.execLadderStepFail
  with_reducible repeat' first
    | assumption | apply Kept.tryFailed | apply Kept.modPort | apply Kept.enterState | apply Kept.setF | apply KeptO.next
    | simp only [Kept.upd] | simp only [Kept.updTop] | simp only [Kept.updHif] | simp only [Kept.updSpill]
    | simp only [Kept.updJrn] | dsimp only | split | intro

theorem Kept.execStepAckTimeout (port : Nat) (s : State) (hk : Kept Q G s) : KeptO Q G (execStepAckTimeout port s) := by
  unfold Sys2Proof.Machine.execStepAckTimeout
  with_reducible repeat' first
    | assumption | apply Kept.tryFailed | apply KeptO.next | simp only [Kept.upd] | simp only [Kept.updTop]
    | simp only [Kept.updHif] | simp only [Kept.updSpill] | simp only [Kept.updJrn] | dsimp only | split | intro

theorem Kept.execLadderRetry (port : Nat) (s : State) (hk : Kept Q G s) : KeptO Q G (execLadderRetry port s) := by
  unfold Sys2Proof.Machine.execLadderRetry
  with_reducible repeat' first
    | assumption | apply Kept.modPort | apply KeptO.next | simp only [Kept.upd] | simp only [Kept.updTop]
    | simp only [Kept.updHif] | simp only [Kept.updSpill] | simp only [Kept.updJrn] | dsimp only | split | intro

theorem Kept.execLadderNoPeer (port : Nat) (s : State) (hk : Kept Q G s) : KeptO Q G (execLadderNoPeer port s) := by
  unfold Sys2Proof.Machine.execLadderNoPeer
  with_reducible repeat' first
    | assumption | apply Kept.holdLadder | apply KeptO.next | simp only [Kept.upd] | simp only [Kept.updTop]
    | simp only [Kept.updHif] | simp only [Kept.updSpill] | simp only [Kept.updJrn] | dsimp only | split | intro

theorem Kept.execFecDegrade (lane symbols words : Nat) (s : State) (hk : Kept Q G s)
    : KeptO Q G (execFecDegrade lane symbols words s) := by
  unfold Sys2Proof.Machine.execFecDegrade
  with_reducible repeat' first
    | assumption | apply Kept.add64 | apply Kept.laneEvent | apply KeptO.next | simp only [Kept.upd]
    | simp only [Kept.updTop] | simp only [Kept.updHif] | simp only [Kept.updSpill] | simp only [Kept.updJrn] | dsimp only
    | split | intro

theorem Kept.execUncorrectableCodeword (lane : Nat) (s : State) (hk : Kept Q G s)
    : KeptO Q G (execUncorrectableCodeword lane s) := by
  unfold Sys2Proof.Machine.execUncorrectableCodeword
  with_reducible repeat' first
    | assumption | apply Kept.laneEvent | apply Kept.add64 | apply KeptO.next | simp only [Kept.upd]
    | simp only [Kept.updTop] | simp only [Kept.updHif] | simp only [Kept.updSpill] | simp only [Kept.updJrn] | dsimp only
    | split | intro

theorem Kept.execEqLoopStep (lane : Nat) (want : Word) (s : State) (hk : Kept Q G s)
    : KeptO Q G (execEqLoopStep lane want s) := by
  unfold Sys2Proof.Machine.execEqLoopStep
  with_reducible repeat' first
    | assumption | apply Kept.forEach | apply Kept.setF | apply KeptO.next | simp only [Kept.upd] | simp only [Kept.updTop]
    | simp only [Kept.updHif] | simp only [Kept.updSpill] | simp only [Kept.updJrn] | dsimp only | split | intro

theorem Kept.execEqPolicyConflict (lane : Nat) (want : Word) (s : State) (hk : Kept Q G s)
    : KeptO Q G (execEqPolicyConflict lane want s) := by
  unfold Sys2Proof.Machine.execEqPolicyConflict
  with_reducible repeat' first
    | assumption | apply Kept.laneEvent | apply Kept.setReg | apply Kept.noteInterval | apply KeptO.next
    | simp only [Kept.upd] | simp only [Kept.updTop] | simp only [Kept.updHif] | simp only [Kept.updSpill]
    | simp only [Kept.updJrn] | dsimp only | split | intro

theorem Kept.ainCount (s : State) (k : Nat) (hk : Kept Q G s) : Kept Q G (ainCount s k) := by
  unfold Sys2Proof.Machine.ainCount
  with_reducible repeat' first
    | assumption | apply Kept.add64 | simp only [Kept.upd] | simp only [Kept.updTop] | simp only [Kept.updHif]
    | simp only [Kept.updSpill] | simp only [Kept.updJrn] | dsimp only | split | intro

theorem Kept.tryConfirm (s : State) (l : Nat) (hk : Kept Q G s) : Kept Q G (tryConfirm s l) := by
  unfold Sys2Proof.Machine.tryConfirm
  with_reducible repeat' first
    | assumption | apply Kept.keyRefused | apply Kept.queueMsg | apply Kept.setAin | simp only [Kept.upd]
    | simp only [Kept.updTop] | simp only [Kept.updHif] | simp only [Kept.updSpill] | simp only [Kept.updJrn] | dsimp only
    | split | intro

theorem Kept.ainAuthFail (s : State) (l : Nat) (hk : Kept Q G s) : Kept Q G (ainAuthFail s l) := by
  unfold Sys2Proof.Machine.ainAuthFail
  with_reducible repeat' first
    | assumption | apply Kept.raiseLimited | apply Kept.secCount | apply Kept.ainCount | apply Kept.setAin
    | apply Kept.endSession | simp only [Kept.upd] | simp only [Kept.updTop] | simp only [Kept.updHif]
    | simp only [Kept.updSpill] | simp only [Kept.updJrn] | dsimp only | split | intro

theorem Kept.ainReceive (s : State) (l : Nat) (m : AinMsg) (hk : Kept Q G s) : Kept Q G (ainReceive s l m).1 := by
  unfold Sys2Proof.Machine.ainReceive
  with_reducible repeat' first
    | assumption | apply Kept.raiseLimited | apply Kept.ainCount | apply Kept.ainAuthFail | apply Kept.secCount
    | apply Kept.setAin | simp only [Kept.upd] | simp only [Kept.updTop] | simp only [Kept.updHif]
    | simp only [Kept.updSpill] | simp only [Kept.updJrn] | dsimp only | split | intro

theorem Kept.ainTake (s : State) (l t : Nat) (m : AinMsg) (f : State → State) (hk : Kept Q G s)
    (hf : ∀ t, Kept Q G t → Kept Q G (f t)) : Kept Q G (ainTake s l t m f) := by
  unfold Sys2Proof.Machine.ainTake
  with_reducible repeat' first
    | assumption | apply hf | apply Kept.ainReceive | simp only [Kept.upd] | simp only [Kept.updTop]
    | simp only [Kept.updHif] | simp only [Kept.updSpill] | simp only [Kept.updJrn] | dsimp only | split | intro

theorem Kept.ainSent (s : State) (l : Nat) (pcs : Stamp) (m : AinMsg) (hk : Kept Q G s) : Kept Q G (ainSent s l pcs m) := by
  unfold Sys2Proof.Machine.ainSent
  with_reducible repeat' first
    | assumption | apply Kept.tryConfirm | apply Kept.setAin | apply Kept.whenB | apply Kept.takeStep | apply Kept.goSent
    | simp only [Kept.upd] | simp only [Kept.updTop] | simp only [Kept.updHif] | simp only [Kept.updSpill]
    | simp only [Kept.updJrn] | dsimp only | split | intro

theorem Kept.execAinumSend (port idle : Nat) (pcs : Stamp) (s : State) (hk : Kept Q G s)
    : KeptO Q G (execAinumSend port idle pcs s) := by
  unfold Sys2Proof.Machine.execAinumSend
  with_reducible repeat' first
    | assumption | apply Kept.setAin | apply Kept.whenB | apply Kept.secCount | apply Kept.ainCount | apply Kept.ainSent
    | apply Kept.forEach | apply Kept.emit | apply KeptO.next | simp only [Kept.upd] | simp only [Kept.updTop]
    | simp only [Kept.updHif] | simp only [Kept.updSpill] | simp only [Kept.updJrn] | dsimp only | split | intro

theorem Kept.queueHello (s : State) (l : Nat) (hk : Kept Q G s) : Kept Q G (queueHello s l) := by
  unfold Sys2Proof.Machine.queueHello
  with_reducible repeat' first
    | assumption | apply Kept.queueMsg | apply Kept.drawn | simp only [Kept.upd] | simp only [Kept.updTop]
    | simp only [Kept.updHif] | simp only [Kept.updSpill] | simp only [Kept.updJrn] | dsimp only | split | intro

theorem Kept.execHelloTimer (port : Nat) (s : State) (hk : Kept Q G s) : KeptO Q G (execHelloTimer port s) := by
  unfold Sys2Proof.Machine.execHelloTimer
  with_reducible repeat' first
    | assumption | apply Kept.queueHello | apply KeptO.next | simp only [Kept.upd] | simp only [Kept.updTop]
    | simp only [Kept.updHif] | simp only [Kept.updSpill] | simp only [Kept.updJrn] | dsimp only | split | intro

theorem Kept.peerFound (s : State) (l : Nat) (hk : Kept Q G s) : Kept Q G (peerFound s l) := by
  unfold Sys2Proof.Machine.peerFound
  with_reducible repeat' first
    | assumption | apply Kept.setBit | apply Kept.whenB | apply Kept.raise | apply Kept.holdLadder | simp only [Kept.upd]
    | simp only [Kept.updTop] | simp only [Kept.updHif] | simp only [Kept.updSpill] | simp only [Kept.updJrn] | dsimp only
    | split | intro

theorem Kept.execHello (port : Nat) (msg : AinMsg) (s : State) (hk : Kept Q G s) : KeptO Q G (execHello port msg s) := by
  unfold Sys2Proof.Machine.execHello
  with_reducible repeat' first
    | assumption | apply Kept.ainTake | apply Kept.raiseLimited | apply Kept.setBit | apply Kept.endSession
    | apply Kept.whenB | apply Kept.raise | apply Kept.setF | apply Kept.setReg64 | apply Kept.setAin | apply Kept.tryConfirm
    | apply Kept.peerFound | apply KeptO.next | simp only [Kept.upd] | simp only [Kept.updTop] | simp only [Kept.updHif]
    | simp only [Kept.updSpill] | simp only [Kept.updJrn] | dsimp only | split | intro

theorem Kept.execConfirm (port : Nat) (msg : AinMsg) (s : State) (hk : Kept Q G s) : KeptO Q G (execConfirm port msg s) := by
  unfold Sys2Proof.Machine.execConfirm
  with_reducible repeat' first
    | assumption | apply Kept.ainTake | apply Kept.peerFound | apply KeptO.next | simp only [Kept.upd]
    | simp only [Kept.updTop] | simp only [Kept.updHif] | simp only [Kept.updSpill] | simp only [Kept.updJrn] | dsimp only
    | split | intro

theorem Kept.execPeerTimeout (port : Nat) (s : State) (hk : Kept Q G s) : KeptO Q G (execPeerTimeout port s) := by
  unfold Sys2Proof.Machine.execPeerTimeout
  with_reducible repeat' first
    | assumption | apply Kept.endSession | apply KeptO.next | simp only [Kept.upd] | simp only [Kept.updTop]
    | simp only [Kept.updHif] | simp only [Kept.updSpill] | simp only [Kept.updJrn] | dsimp only | split | intro

theorem Kept.execStepPropose (port : Nat) (msg : AinMsg) (s : State) (hk : Kept Q G s)
    : KeptO Q G (execStepPropose port msg s) := by
  unfold Sys2Proof.Machine.execStepPropose
  with_reducible repeat' first
    | assumption | apply Kept.ainTake | apply Kept.queueMsg | apply Kept.modPort | apply KeptO.next | simp only [Kept.upd]
    | simp only [Kept.updTop] | simp only [Kept.updHif] | simp only [Kept.updSpill] | simp only [Kept.updJrn] | dsimp only
    | split | intro

theorem Kept.execStepAck (port : Nat) (msg : AinMsg) (s : State) (hk : Kept Q G s) : KeptO Q G (execStepAck port msg s) := by
  unfold Sys2Proof.Machine.execStepAck
  with_reducible repeat' first
    | assumption | apply Kept.ainTake | apply Kept.takeStep | apply KeptO.next | simp only [Kept.upd]
    | simp only [Kept.updTop] | simp only [Kept.updHif] | simp only [Kept.updSpill] | simp only [Kept.updJrn] | dsimp only
    | split | intro

theorem Kept.answerProposals (s : State) (hk : Kept Q G s) : Kept Q G (answerProposals s) := by
  unfold Sys2Proof.Machine.answerProposals
  with_reducible repeat' first
    | assumption | apply Kept.forEach | apply Kept.modPort | apply Kept.queueMsg | simp only [Kept.upd]
    | simp only [Kept.updTop] | simp only [Kept.updHif] | simp only [Kept.updSpill] | simp only [Kept.updJrn] | dsimp only
    | split | intro

theorem Kept.execTimeSyncTimer (port : Nat) (s : State) (hk : Kept Q G s) : KeptO Q G (execTimeSyncTimer port s) := by
  unfold Sys2Proof.Machine.execTimeSyncTimer
  with_reducible repeat' first
    | assumption | apply Kept.queueMsg | apply KeptO.next | simp only [Kept.upd] | simp only [Kept.updTop]
    | simp only [Kept.updHif] | simp only [Kept.updSpill] | simp only [Kept.updJrn] | dsimp only | split | intro

theorem Kept.execTimeSync (port : Nat) (msg : AinMsg) (t2 : Stamp) (s : State) (hk : Kept Q G s)
    : KeptO Q G (execTimeSync port msg t2 s) := by
  unfold Sys2Proof.Machine.execTimeSync
  with_reducible repeat' first
    | assumption | apply Kept.ainTake | apply Kept.queueMsg | apply KeptO.next | simp only [Kept.upd]
    | simp only [Kept.updTop] | simp only [Kept.updHif] | simp only [Kept.updSpill] | simp only [Kept.updJrn] | dsimp only
    | split | intro

theorem Kept.execTimeReply (port : Nat) (msg : AinMsg) (t4 : Stamp) (s : State) (hk : Kept Q G s)
    : KeptO Q G (execTimeReply port msg t4 s) := by
  unfold Sys2Proof.Machine.execTimeReply
  with_reducible repeat' first
    | assumption | apply Kept.ainTake | apply Kept.setAin | apply Kept.drawn | apply Kept.setReg64 | apply Kept.setReg
    | apply Kept.setBit | apply Kept.whenB | apply Kept.raise | apply KeptO.next | simp only [Kept.upd]
    | simp only [Kept.updTop] | simp only [Kept.updHif] | simp only [Kept.updSpill] | simp only [Kept.updJrn] | dsimp only
    | split | intro

theorem Kept.sendToken (s : State) (ports : List Nat) (hop payload : Nat) (hk : Kept Q G s)
    : Kept Q G (sendToken s ports hop payload) := by
  unfold Sys2Proof.Machine.sendToken
  with_reducible repeat' first
    | assumption | apply Kept.forEach | apply Kept.queueMsg | simp only [Kept.upd] | simp only [Kept.updTop]
    | simp only [Kept.updHif] | simp only [Kept.updSpill] | simp only [Kept.updJrn] | dsimp only | split | intro

theorem Kept.execToken (port : Nat) (msg : AinMsg) (s : State) (hk : Kept Q G s) : KeptO Q G (execToken port msg s) := by
  unfold Sys2Proof.Machine.execToken
  with_reducible repeat' first
    | assumption | apply Kept.ainTake | apply Kept.raiseLimited | apply Kept.ainCount | apply Kept.raise | apply Kept.setReg
    | apply Kept.tokenArrive | apply Kept.add64 | apply Kept.sendToken | apply KeptO.next | simp only [Kept.upd]
    | simp only [Kept.updTop] | simp only [Kept.updHif] | simp only [Kept.updSpill] | simp only [Kept.updJrn] | dsimp only
    | split | intro

theorem Kept.execTokenGo (s : State) (hk : Kept Q G s) : KeptO Q G (execTokenGo s) := by
  unfold Sys2Proof.Machine.execTokenGo
  with_reducible repeat' first
    | assumption | apply Kept.holdWrite | apply Kept.setReg | apply Kept.tokenArrive | apply Kept.setBit
    | apply Kept.sendToken | apply Kept.goSent | apply KeptO.next | simp only [Kept.upd] | simp only [Kept.updTop]
    | simp only [Kept.updHif] | simp only [Kept.updSpill] | simp only [Kept.updJrn] | dsimp only | split | intro

theorem Kept.capNotice (s : State) (kind hall step us : Nat) (hk : Kept Q G s)
    : Kept Q G (capNotice s kind hall step us) := by
  unfold Sys2Proof.Machine.capNotice
  with_reducible repeat' first
    | assumption | apply Kept.step | apply Kept.forEach | apply Kept.queueMsg | simp only [Kept.upd]
    | simp only [Kept.updTop] | simp only [Kept.updHif] | simp only [Kept.updSpill] | simp only [Kept.updJrn] | dsimp only
    | split | intro

theorem Kept.execCapNotice (port : Nat) (msg : AinMsg) (s : State) (hk : Kept Q G s)
    : KeptO Q G (execCapNotice port msg s) := by
  unfold Sys2Proof.Machine.execCapNotice
  with_reducible repeat' first
    | assumption | apply Kept.ainTake | apply Kept.raise | apply Kept.setReg64 | apply KeptO.next | simp only [Kept.upd]
    | simp only [Kept.updTop] | simp only [Kept.updHif] | simp only [Kept.updSpill] | simp only [Kept.updJrn] | dsimp only
    | split | intro

theorem Kept.setBay (s : State) (c : Nat) (b : Bay) (hk : Kept Q G s) : Kept Q G (setBay s c b) := by
  unfold Sys2Proof.Machine.setBay
  with_reducible repeat' first
    | assumption | simp only [Kept.upd] | simp only [Kept.updTop] | simp only [Kept.updHif] | simp only [Kept.updSpill]
    | simp only [Kept.updJrn] | dsimp only | split | intro

theorem Kept.modBay (s : State) (c : Nat) (f : Bay → Bay) (hk : Kept Q G s) : Kept Q G (modBay s c f) := by
  unfold Sys2Proof.Machine.modBay
  with_reducible repeat' first
    | assumption | apply Kept.setBay | simp only [Kept.upd] | simp only [Kept.updTop] | simp only [Kept.updHif]
    | simp only [Kept.updSpill] | simp only [Kept.updJrn] | dsimp only | split | intro

theorem Kept.updSafe (s : State) (hk : Kept Q G s) : Kept Q G (updSafe s) := by
  unfold Sys2Proof.Machine.updSafe
  with_reducible repeat' first
    | assumption | apply Kept.forEach | apply Kept.setBit | simp only [Kept.upd] | simp only [Kept.updTop]
    | simp only [Kept.updHif] | simp only [Kept.updSpill] | simp only [Kept.updJrn] | dsimp only | split | intro

theorem Kept.cartDone (s : State) (hk : Kept Q G s) : Kept Q G (cartDone s) := by
  unfold Sys2Proof.Machine.cartDone
  with_reducible repeat' first
    | assumption | apply Kept.ladderDone | apply Kept.setBringup | simp only [Kept.upd] | simp only [Kept.updTop]
    | simp only [Kept.updHif] | simp only [Kept.updSpill] | simp only [Kept.updJrn] | dsimp only | split | intro

theorem Kept.bayTo (s : State) (c st : Nat) (tell : Bool) (hk : Kept Q G s) : Kept Q G (bayTo s c st tell) := by
  unfold Sys2Proof.Machine.bayTo
  with_reducible repeat' first
    | assumption | apply Kept.whenB | apply Kept.raise | apply Kept.cartDone | apply Kept.updSafe | apply Kept.setF
    | simp only [Kept.upd] | simp only [Kept.updTop] | simp only [Kept.updHif] | simp only [Kept.updSpill]
    | simp only [Kept.updJrn] | dsimp only | split | intro

theorem Kept.setTarget (s : State) (c n t : Nat) (hk : Kept Q G s) : Kept Q G (setTarget s c n t) := by
  unfold Sys2Proof.Machine.setTarget
  with_reducible repeat' first
    | assumption | apply Kept.whenB | apply Kept.drawn | apply Kept.modBay | apply Kept.setReg64 | simp only [Kept.upd]
    | simp only [Kept.updTop] | simp only [Kept.updHif] | simp only [Kept.updSpill] | simp only [Kept.updJrn] | dsimp only
    | split | intro

theorem Kept.inputDark (s : State) (g i : Nat) (hk : Kept Q G s) : Kept Q G (inputDark s g i) := by
  unfold Sys2Proof.Machine.inputDark
  with_reducible repeat' first
    | assumption | apply Kept.forEach | apply Kept.linkDown | simp only [Kept.upd] | simp only [Kept.updTop]
    | simp only [Kept.updHif] | simp only [Kept.updSpill] | simp only [Kept.updJrn] | dsimp only | split | intro

theorem Kept.bayDark (s : State) (c : Nat) (hk : Kept Q G s) : Kept Q G (bayDark s c) := by
  unfold Sys2Proof.Machine.bayDark
  with_reducible repeat' first
    | assumption | apply Kept.modBay | apply Kept.setReg64 | apply Kept.forEach | apply Kept.inputDark | simp only [Kept.upd]
    | simp only [Kept.updTop] | simp only [Kept.updHif] | simp only [Kept.updSpill] | simp only [Kept.updJrn] | dsimp only
    | split | intro

theorem Kept.wearReport (s : State) (c : Nat) (hk : Kept Q G s) : Kept Q G (wearReport s c) := by
  unfold Sys2Proof.Machine.wearReport
  with_reducible repeat' first
    | assumption | apply Kept.setReg | apply Kept.setBit | apply Kept.forEach | apply Kept.raise | simp only [Kept.upd]
    | simp only [Kept.updTop] | simp only [Kept.updHif] | simp only [Kept.updSpill] | simp only [Kept.updJrn] | dsimp only
    | split | intro

theorem Kept.wearRecord (s : State) (c : Nat) (hk : Kept Q G s) : Kept Q G (wearRecord s c) := by
  unfold Sys2Proof.Machine.wearRecord
  with_reducible repeat' first
    | assumption | apply Kept.modBay | apply Kept.jrnOwe | simp only [Kept.upd] | simp only [Kept.updTop]
    | simp only [Kept.updHif] | simp only [Kept.updSpill] | simp only [Kept.updJrn] | dsimp only | split | intro

theorem Kept.execWearTick (outputs : List (Nat × Nat × Nat)) (s : State) (hk : Kept Q G s)
    : KeptO Q G (execWearTick outputs s) := by
  unfold Sys2Proof.Machine.execWearTick
  with_reducible repeat' first
    | assumption | apply Kept.forEach | apply Kept.wearReport | apply Kept.setBay | apply Kept.foldl | apply Kept.foldl1
    | apply KeptO.next | simp only [Kept.upd] | simp only [Kept.updTop] | simp only [Kept.updHif] | simp only [Kept.updSpill]
    | simp only [Kept.updJrn] | dsimp only | split | intro

theorem Kept.execWearRecordWrite (failedBlocks : List Nat) (s : State) (hk : Kept Q G s)
    : KeptO Q G (execWearRecordWrite failedBlocks s) := by
  unfold Sys2Proof.Machine.execWearRecordWrite
  with_reducible repeat' first
    | assumption | apply Kept.jrnFailed | apply Kept.forEach | apply Kept.wearRecord | apply KeptO.next
    | simp only [Kept.upd] | simp only [Kept.updTop] | simp only [Kept.updHif] | simp only [Kept.updSpill]
    | simp only [Kept.updJrn] | dsimp only | split | intro

theorem Kept.noteUnsafe (s : State) (c : Nat) (hk : Kept Q G s) : Kept Q G (noteUnsafe s c) := by
  unfold Sys2Proof.Machine.noteUnsafe
  with_reducible repeat' first
    | assumption | apply Kept.whenB | apply Kept.raise | simp only [Kept.upd] | simp only [Kept.updTop]
    | simp only [Kept.updHif] | simp only [Kept.updSpill] | simp only [Kept.updJrn] | dsimp only | split | intro

theorem Kept.startRemoval (s : State) (c : Nat) (hk : Kept Q G s) : Kept Q G (startRemoval s c) := by
  unfold Sys2Proof.Machine.startRemoval
  with_reducible repeat' first
    | assumption | apply Kept.modBay | apply Kept.noteUnsafe | apply Kept.step | simp only [Kept.upd]
    | simp only [Kept.updTop] | simp only [Kept.updHif] | simp only [Kept.updSpill] | simp only [Kept.updJrn] | dsimp only
    | split | intro

theorem Kept.enLow (s : State) (c : Nat) (hk : Kept Q G s) : Kept Q G (enLow s c) := by
  unfold Sys2Proof.Machine.enLow
  with_reducible repeat' first
    | assumption | apply Kept.bayDark | apply Kept.setBit | simp only [Kept.upd] | simp only [Kept.updTop]
    | simp only [Kept.updHif] | simp only [Kept.updSpill] | simp only [Kept.updJrn] | dsimp only | split | intro

theorem Kept.abandon (s : State) (c : Nat) (hk : Kept Q G s) : Kept Q G (abandon s c) := by
  unfold Sys2Proof.Machine.abandon
  with_reducible repeat' first
    | assumption | apply Kept.modBay | apply Kept.enLow | apply Kept.step | simp only [Kept.upd] | simp only [Kept.updTop]
    | simp only [Kept.updHif] | simp only [Kept.updSpill] | simp only [Kept.updJrn] | dsimp only | split | intro

theorem Kept.reverseRamp (s : State) (c : Nat) (hk : Kept Q G s) : Kept Q G (reverseRamp s c) := by
  unfold Sys2Proof.Machine.reverseRamp
  with_reducible repeat' first
    | assumption | apply Kept.bayTo | apply Kept.modBay | apply Kept.noteUnsafe | apply Kept.step | simp only [Kept.upd]
    | simp only [Kept.updTop] | simp only [Kept.updHif] | simp only [Kept.updSpill] | simp only [Kept.updJrn] | dsimp only
    | split | intro

theorem Kept.latchOpened (s : State) (c : Nat) (hk : Kept Q G s) : Kept Q G (latchOpened s c) := by
  unfold Sys2Proof.Machine.latchOpened
  with_reducible repeat' first
    | assumption | apply Kept.abandon | apply Kept.modBay | apply Kept.reverseRamp | apply Kept.startRemoval
    | simp only [Kept.upd] | simp only [Kept.updTop] | simp only [Kept.updHif] | simp only [Kept.updSpill]
    | simp only [Kept.updJrn] | dsimp only | split | intro

theorem Kept.forgetCart (s : State) (c : Nat) (hk : Kept Q G s) : Kept Q G (forgetCart s c) := by
  unfold Sys2Proof.Machine.forgetCart
  with_reducible repeat' first
    | assumption | apply Kept.setReg64 | apply Kept.setReg | apply Kept.setBit | apply Kept.setF | apply Kept.modBay
    | simp only [Kept.upd] | simp only [Kept.updTop] | simp only [Kept.updHif] | simp only [Kept.updSpill]
    | simp only [Kept.updJrn] | dsimp only | split | intro

theorem Kept.failShare (s : State) (bay ch : Nat) (hk : Kept Q G s) : Kept Q G (failShare s bay ch) := by
  unfold Sys2Proof.Machine.failShare
  with_reducible repeat' first
    | assumption | apply Kept.setReg64 | apply Kept.modBay | apply Kept.setTarget | apply Kept.inputDark | apply Kept.raise
    | apply Kept.updSafe | simp only [Kept.upd] | simp only [Kept.updTop] | simp only [Kept.updHif]
    | simp only [Kept.updSpill] | simp only [Kept.updJrn] | dsimp only | split | intro

theorem Kept.startInsert (s : State) (c : Nat) (hk : Kept Q G s) : Kept Q G (startInsert s c) := by
  unfold Sys2Proof.Machine.startInsert
  with_reducible repeat' first
    | assumption | apply Kept.bayTo | apply Kept.modBay | apply Kept.step | simp only [Kept.upd] | simp only [Kept.updTop]
    | simp only [Kept.updHif] | simp only [Kept.updSpill] | simp only [Kept.updJrn] | dsimp only | split | intro

theorem Kept.execCartPresenceChange (bay : Nat) (present : Bool) (s : State) (hk : Kept Q G s)
    : KeptO Q G (execCartPresenceChange bay present s) := by
  unfold Sys2Proof.Machine.execCartPresenceChange
  with_reducible repeat' first
    | assumption | apply Kept.setBit | apply Kept.startInsert | apply Kept.bayTo | apply Kept.forEach | apply Kept.failShare
    | apply Kept.forgetCart | apply Kept.abandon | apply KeptO.next | simp only [Kept.upd] | simp only [Kept.updTop]
    | simp only [Kept.updHif] | simp only [Kept.updSpill] | simp only [Kept.updJrn] | dsimp only | split | intro

theorem Kept.execCartLatchOpen (bay : Nat) (s : State) (hk : Kept Q G s) : KeptO Q G (execCartLatchOpen bay s) := by
  unfold Sys2Proof.Machine.execCartLatchOpen
  with_reducible repeat' first
    | assumption | apply Kept.setBit | apply Kept.latchOpened | apply KeptO.next | simp only [Kept.upd]
    | simp only [Kept.updTop] | simp only [Kept.updHif] | simp only [Kept.updSpill] | simp only [Kept.updJrn] | dsimp only
    | split | intro

theorem Kept.execCartLatchClose (bay : Nat) (s : State) (hk : Kept Q G s) : KeptO Q G (execCartLatchClose bay s) := by
  unfold Sys2Proof.Machine.execCartLatchClose
  with_reducible repeat' first
    | assumption | apply Kept.setBit | apply Kept.startInsert | apply Kept.modBay | apply KeptO.next | simp only [Kept.upd]
    | simp only [Kept.updTop] | simp only [Kept.updHif] | simp only [Kept.updSpill] | simp only [Kept.updJrn] | dsimp only
    | split | intro

theorem Kept.serveAsked (s : State) (c : Nat) (hk : Kept Q G s) : Kept Q G (serveAsked s c) := by
  unfold Sys2Proof.Machine.serveAsked
  with_reducible repeat' first
    | assumption | apply Kept.modBay | apply Kept.latchOpened | simp only [Kept.upd] | simp only [Kept.updTop]
    | simp only [Kept.updHif] | simp only [Kept.updSpill] | simp only [Kept.updJrn] | dsimp only | split | intro

theorem Kept.execCartInt (bay : Nat) (shutdown : Bool) (s : State) (hk : Kept Q G s)
    : KeptO Q G (execCartInt bay shutdown s) := by
  unfold Sys2Proof.Machine.execCartInt
  with_reducible repeat' first
    | assumption | apply Kept.modBay | apply Kept.serveAsked | apply KeptO.next | simp only [Kept.upd]
    | simp only [Kept.updTop] | simp only [Kept.updHif] | simp only [Kept.updSpill] | simp only [Kept.updJrn] | dsimp only
    | split | intro

theorem Kept.execRemovalRampStart (bay : Nat) (s : State) (hk : Kept Q G s) : KeptO Q G (execRemovalRampStart bay s) := by
  unfold Sys2Proof.Machine.execRemovalRampStart
  with_reducible repeat' first
    | assumption | apply Kept.modBay | apply Kept.step | apply Kept.bayTo | apply KeptO.next | simp only [Kept.upd]
    | simp only [Kept.updTop] | simp only [Kept.updHif] | simp only [Kept.updSpill] | simp only [Kept.updJrn] | dsimp only
    | split | intro

theorem Kept.execRemovalRampDone (bay : Nat) (s : State) (hk : Kept Q G s) : KeptO Q G (execRemovalRampDone bay s) := by
  unfold Sys2Proof.Machine.execRemovalRampDone
  with_reducible repeat' first
    | assumption | apply Kept.modBay | apply Kept.step | apply Kept.forEach | apply Kept.setTarget | apply KeptO.next
    | simp only [Kept.upd] | simp only [Kept.updTop] | simp only [Kept.updHif] | simp only [Kept.updSpill]
    | simp only [Kept.updJrn] | dsimp only | split | intro

theorem Kept.execRemovalEnLow (bay : Nat) (s : State) (hk : Kept Q G s) : KeptO Q G (execRemovalEnLow bay s) := by
  unfold Sys2Proof.Machine.execRemovalEnLow
  with_reducible repeat' first
    | assumption | apply Kept.enLow | apply Kept.wearRecord | apply Kept.modBay | apply Kept.step | apply Kept.startInsert
    | apply KeptO.next | simp only [Kept.upd] | simp only [Kept.updTop] | simp only [Kept.updHif] | simp only [Kept.updSpill]
    | simp only [Kept.updJrn] | dsimp only | split | intro

theorem Kept.sendChallenge (s : State) (c : Nat) (hk : Kept Q G s) : Kept Q G (sendChallenge s c) := by
  unfold Sys2Proof.Machine.sendChallenge
  with_reducible repeat' first
    | assumption | apply Kept.emit | apply Kept.modBay | apply Kept.drawn | simp only [Kept.upd] | simp only [Kept.updTop]
    | simp only [Kept.updHif] | simp only [Kept.updSpill] | simp only [Kept.updJrn] | dsimp only | split | intro

theorem Kept.readIdentity (s : State) (c : Nat) (i : Identity) (hk : Kept Q G s) : Kept Q G (readIdentity s c i) := by
  unfold Sys2Proof.Machine.readIdentity
  with_reducible repeat' first
    | assumption | apply Kept.jrnReads | apply Kept.whenB | apply Kept.modBay | apply Kept.setReg64 | apply Kept.emit
    | apply Kept.step | apply Kept.sendChallenge | apply Kept.wearReport | apply Kept.foldl | apply Kept.foldl1
    | simp only [Kept.upd] | simp only [Kept.updTop] | simp only [Kept.updHif] | simp only [Kept.updSpill]
    | simp only [Kept.updJrn] | dsimp only | split | intro

theorem Kept.execCartAuthenticating (bay : Nat) (identity : Identity) (s : State) (hk : Kept Q G s)
    : KeptO Q G (execCartAuthenticating bay identity s) := by
  unfold Sys2Proof.Machine.execCartAuthenticating
  with_reducible repeat' first
    | assumption | apply Kept.bayTo | apply Kept.modBay | apply Kept.step | apply Kept.readIdentity | apply KeptO.next
    | simp only [Kept.upd] | simp only [Kept.updTop] | simp only [Kept.updHif] | simp only [Kept.updSpill]
    | simp only [Kept.updJrn] | dsimp only | split | intro

theorem Kept.noteTrust (s : State) (c : Nat) (ok : Bool) (hk : Kept Q G s) : Kept Q G (noteTrust s c ok) := by
  unfold Sys2Proof.Machine.noteTrust
  with_reducible repeat' first
    | assumption | apply Kept.setBit | apply Kept.whenB | apply Kept.secCount | apply Kept.setReg | apply Kept.modBay
    | apply Kept.foldl | apply Kept.foldl1 | simp only [Kept.upd] | simp only [Kept.updTop] | simp only [Kept.updHif]
    | simp only [Kept.updSpill] | simp only [Kept.updJrn] | dsimp only | split | intro

theorem Kept.applyPolicy (s : State) (c : Nat) (ok : Bool) (hk : Kept Q G s) : Kept Q G (applyPolicy s c ok) := by
  unfold Sys2Proof.Machine.applyPolicy
  with_reducible repeat' first
    | assumption | apply Kept.whenB | apply Kept.raise | apply Kept.modBay | apply Kept.step | apply Kept.bayTo
    | simp only [Kept.upd] | simp only [Kept.updTop] | simp only [Kept.updHif] | simp only [Kept.updSpill]
    | simp only [Kept.updJrn] | dsimp only | split | intro

theorem Kept.execCartChallengeCheck (bay : Nat) (tag : List Byte) (s : State) (hk : Kept Q G s)
    : KeptO Q G (execCartChallengeCheck bay tag s) := by
  unfold Sys2Proof.Machine.execCartChallengeCheck
  with_reducible repeat' first
    | assumption | apply Kept.applyPolicy | apply Kept.noteTrust | apply KeptO.next | simp only [Kept.upd]
    | simp only [Kept.updTop] | simp only [Kept.updHif] | simp only [Kept.updSpill] | simp only [Kept.updJrn] | dsimp only
    | split | intro

theorem Kept.execCartEnRaise (bay : Nat) (s : State) (hk : Kept Q G s) : KeptO Q G (execCartEnRaise bay s) := by
  unfold Sys2Proof.Machine.execCartEnRaise
  with_reducible repeat' first
    | assumption | apply Kept.modBay | apply Kept.setBit | apply Kept.step | apply KeptO.next | simp only [Kept.upd]
    | simp only [Kept.updTop] | simp only [Kept.updHif] | simp only [Kept.updSpill] | simp only [Kept.updJrn] | dsimp only
    | split | intro

theorem Kept.execCartActivate (bay : Nat) (s : State) (hk : Kept Q G s) : KeptO Q G (execCartActivate bay s) := by
  unfold Sys2Proof.Machine.execCartActivate
  with_reducible repeat' first
    | assumption | apply Kept.modBay | apply Kept.step | apply Kept.forEach | apply Kept.setTarget | apply Kept.bayTo
    | apply KeptO.next | simp only [Kept.upd] | simp only [Kept.updTop] | simp only [Kept.updHif] | simp only [Kept.updSpill]
    | simp only [Kept.updJrn] | dsimp only | split | intro

theorem Kept.execShareFailed (bay ch : Nat) (s : State) (hk : Kept Q G s) : KeptO Q G (execShareFailed bay ch s) := by
  unfold Sys2Proof.Machine.execShareFailed
  with_reducible repeat' first
    | assumption | apply Kept.failShare | apply KeptO.next | simp only [Kept.upd] | simp only [Kept.updTop]
    | simp only [Kept.updHif] | simp only [Kept.updSpill] | simp only [Kept.updJrn] | dsimp only | split | intro

theorem Kept.execLightLow (g input : Nat) (s : State) (hk : Kept Q G s) : KeptO Q G (execLightLow g input s) := by
  unfold Sys2Proof.Machine.execLightLow
  with_reducible repeat' first
    | assumption | apply Kept.forEach | apply Kept.laneEvent | apply KeptO.next | simp only [Kept.upd]
    | simp only [Kept.updTop] | simp only [Kept.updHif] | simp only [Kept.updSpill] | simp only [Kept.updJrn] | dsimp only
    | split | intro

theorem Kept.execCurrentLoopStep (bay ch want : Nat) (s : State) (hk : Kept Q G s)
    : KeptO Q G (execCurrentLoopStep bay ch want s) := by
  unfold Sys2Proof.Machine.execCurrentLoopStep
  with_reducible repeat' first
    | assumption | apply Kept.modBay | apply KeptO.next | simp only [Kept.upd] | simp only [Kept.updTop]
    | simp only [Kept.updHif] | simp only [Kept.updSpill] | simp only [Kept.updJrn] | dsimp only | split | intro

theorem Kept.execCartPolicyConflict (bay ch want : Nat) (s : State) (hk : Kept Q G s)
    : KeptO Q G (execCartPolicyConflict bay ch want s) := by
  unfold Sys2Proof.Machine.execCartPolicyConflict
  with_reducible repeat' first
    | assumption | apply Kept.raiseLimited | apply Kept.setReg | apply KeptO.next | simp only [Kept.upd]
    | simp only [Kept.updTop] | simp only [Kept.updHif] | simp only [Kept.updSpill] | simp only [Kept.updJrn] | dsimp only
    | split | intro

theorem Kept.doReadId (c : HostCmd) (s : State) (hk : Kept Q G s) : Kept Q G (doReadId c s) := by
  unfold Sys2Proof.Machine.doReadId
  with_reducible repeat' first
    | assumption | apply Kept.complete | apply Kept.completeData | apply Kept.drawn | simp only [Kept.upd]
    | simp only [Kept.updTop] | simp only [Kept.updHif] | simp only [Kept.updSpill] | simp only [Kept.updJrn] | dsimp only
    | split | intro

theorem Kept.execReadId (cmd : HostCmd) (s : State) (hk : Kept Q G s) : KeptO Q G (execReadId cmd s) := by
  unfold Sys2Proof.Machine.execReadId
  with_reducible repeat' first
    | assumption | apply Kept.runCmd | apply Kept.doReadId | apply KeptO.next | simp only [Kept.upd]
    | simp only [Kept.updTop] | simp only [Kept.updHif] | simp only [Kept.updSpill] | simp only [Kept.updJrn] | dsimp only
    | split | intro

theorem Kept.applyReauth (s : State) (c : Nat) (ok : Bool) (hk : Kept Q G s) : Kept Q G (applyReauth s c ok) := by
  unfold Sys2Proof.Machine.applyReauth
  with_reducible repeat' first
    | assumption | apply Kept.applyPolicy | apply Kept.whenB | apply Kept.raise | apply Kept.enLow | apply Kept.bayTo
    | simp only [Kept.upd] | simp only [Kept.updTop] | simp only [Kept.updHif] | simp only [Kept.updSpill]
    | simp only [Kept.updJrn] | dsimp only | split | intro

theorem Kept.doReauth (tag : List Byte) (c : HostCmd) (s : State) (hk : Kept Q G s) : Kept Q G (doReauth tag c s) := by
  unfold Sys2Proof.Machine.doReauth
  with_reducible repeat' first
    | assumption | apply Kept.complete | apply Kept.setPhase | apply Kept.sendChallenge | apply Kept.applyReauth
    | apply Kept.noteTrust | simp only [Kept.upd] | simp only [Kept.updTop] | simp only [Kept.updHif]
    | simp only [Kept.updSpill] | simp only [Kept.updJrn] | dsimp only | split | intro

theorem Kept.execReauth (cmd : HostCmd) (tag : List Byte) (s : State) (hk : Kept Q G s)
    : KeptO Q G (execReauth cmd tag s) := by
  unfold Sys2Proof.Machine.execReauth
  with_reducible repeat' first
    | assumption | apply Kept.runCmd | apply Kept.doReauth | apply KeptO.next | simp only [Kept.upd]
    | simp only [Kept.updTop] | simp only [Kept.updHif] | simp only [Kept.updSpill] | simp only [Kept.updJrn] | dsimp only
    | split | intro

theorem Kept.setPolicy (s : State) (allow : Bool) (hk : Kept Q G s) : Kept Q G (setPolicy s allow) := by
  unfold Sys2Proof.Machine.setPolicy
  with_reducible repeat' first
    | assumption | apply Kept.jrnOwe | apply Kept.setBit | simp only [Kept.upd] | simp only [Kept.updTop]
    | simp only [Kept.updHif] | simp only [Kept.updSpill] | simp only [Kept.updJrn] | dsimp only | split | intro

theorem Kept.doSetPolicy (c : HostCmd) (s : State) (hk : Kept Q G s) : Kept Q G (doSetPolicy c s) := by
  unfold Sys2Proof.Machine.doSetPolicy
  with_reducible repeat' first
    | assumption | apply Kept.complete | apply Kept.setPolicy | simp only [Kept.upd] | simp only [Kept.updTop]
    | simp only [Kept.updHif] | simp only [Kept.updSpill] | simp only [Kept.updJrn] | dsimp only | split | intro

theorem Kept.execSetPolicy (cmd : HostCmd) (s : State) (hk : Kept Q G s) : KeptO Q G (execSetPolicy cmd s) := by
  unfold Sys2Proof.Machine.execSetPolicy
  with_reducible repeat' first
    | assumption | apply Kept.runCmd | apply Kept.doSetPolicy | apply KeptO.next | simp only [Kept.upd]
    | simp only [Kept.updTop] | simp only [Kept.updHif] | simp only [Kept.updSpill] | simp only [Kept.updJrn] | dsimp only
    | split | intro

theorem Kept.doPrepareRemove (c : HostCmd) (s : State) (hk : Kept Q G s) : Kept Q G (doPrepareRemove c s) := by
  unfold Sys2Proof.Machine.doPrepareRemove
  with_reducible repeat' first
    | assumption | apply Kept.complete | apply Kept.startRemoval | simp only [Kept.upd] | simp only [Kept.updTop]
    | simp only [Kept.updHif] | simp only [Kept.updSpill] | simp only [Kept.updJrn] | dsimp only | split | intro

theorem Kept.execPrepareRemove (cmd : HostCmd) (s : State) (hk : Kept Q G s) : KeptO Q G (execPrepareRemove cmd s) := by
  unfold Sys2Proof.Machine.execPrepareRemove
  with_reducible repeat' first
    | assumption | apply Kept.runCmd | apply Kept.doPrepareRemove | apply KeptO.next | simp only [Kept.upd]
    | simp only [Kept.updTop] | simp only [Kept.updHif] | simp only [Kept.updSpill] | simp only [Kept.updJrn] | dsimp only
    | split | intro

theorem Kept.execFlowEvictTimer (g slot : Nat) (s : State) (hk : Kept Q G s) : KeptO Q G (execFlowEvictTimer g slot s) := by
  unfold Sys2Proof.Machine.execFlowEvictTimer
  with_reducible repeat' first
    | assumption | apply Kept.evictFlow | apply KeptO.next | simp only [Kept.upd] | simp only [Kept.updTop]
    | simp only [Kept.updHif] | simp only [Kept.updSpill] | simp only [Kept.updJrn] | dsimp only | split | intro

theorem Kept.execFlowFlush (s : State) (hk : Kept Q G s) : KeptO Q G (execFlowFlush s) := by
  unfold Sys2Proof.Machine.execFlowFlush
  with_reducible repeat' first
    | assumption | apply Kept.holdWrite | apply Kept.forEach | apply Kept.evictFlow | apply KeptO.next | simp only [Kept.upd]
    | simp only [Kept.updTop] | simp only [Kept.updHif] | simp only [Kept.updSpill] | simp only [Kept.updJrn] | dsimp only
    | split | intro

theorem Kept.sealMessage (s : State) (m : List Byte) (hk : Kept Q G s) : Kept Q G (sealMessage s m).1 := by
  unfold Sys2Proof.Machine.sealMessage
  with_reducible repeat' first
    | assumption | apply Kept.keyRefused | apply Kept.secCount | apply Kept.setF | apply Kept.setReg64 | simp only [Kept.upd]
    | simp only [Kept.updTop] | simp only [Kept.updHif] | simp only [Kept.updSpill] | simp only [Kept.updJrn] | dsimp only
    | split | intro

theorem Kept.exportAdmit (s : State) (octs : List Byte) (hk : Kept Q G s) : Kept Q G (exportAdmit s octs).1 := by
  unfold Sys2Proof.Machine.exportAdmit
  with_reducible repeat' first
    | assumption | apply Kept.takeId | apply Kept.dropPacket | apply Kept.admitCopies | apply Kept.dropRefused
    | simp only [Kept.upd] | simp only [Kept.updTop] | simp only [Kept.updHif] | simp only [Kept.updSpill]
    | simp only [Kept.updJrn] | dsimp only | split | intro

theorem Kept.execExportRecordForm (s : State) (hk : Kept Q G s) : KeptO Q G (execExportRecordForm s) := by
  unfold Sys2Proof.Machine.execExportRecordForm
  with_reducible repeat' first
    | assumption | apply KeptO.next | simp only [Kept.upd] | simp only [Kept.updTop] | simp only [Kept.updHif]
    | simp only [Kept.updSpill] | simp only [Kept.updJrn] | dsimp only | split | intro

theorem Kept.execExportFlushTimer (s : State) (hk : Kept Q G s) : KeptO Q G (execExportFlushTimer s) := by
  unfold Sys2Proof.Machine.execExportFlushTimer
  with_reducible repeat' first
    | assumption | apply KeptO.next | simp only [Kept.upd] | simp only [Kept.updTop] | simp only [Kept.updHif]
    | simp only [Kept.updSpill] | simp only [Kept.updJrn] | dsimp only | split | intro

theorem Kept.execExportMessageSend (s : State) (hk : Kept Q G s) : KeptO Q G (execExportMessageSend s) := by
  unfold Sys2Proof.Machine.execExportMessageSend
  with_reducible repeat' first
    | assumption | apply Kept.sealMessage | apply Kept.exportAdmit | apply Kept.ctxPoll | apply Kept.addTal
    | apply Kept.forEach | apply Kept.recordLost | apply KeptO.next | simp only [Kept.upd] | simp only [Kept.updTop]
    | simp only [Kept.updHif] | simp only [Kept.updSpill] | simp only [Kept.updJrn] | dsimp only | split | intro

theorem Kept.execTemplateSend (s : State) (hk : Kept Q G s) : KeptO Q G (execTemplateSend s) := by
  unfold Sys2Proof.Machine.execTemplateSend
  with_reducible repeat' first
    | assumption | apply Kept.sealMessage | apply Kept.exportAdmit | apply Kept.addTal | apply KeptO.next
    | simp only [Kept.upd] | simp only [Kept.updTop] | simp only [Kept.updHif] | simp only [Kept.updSpill]
    | simp only [Kept.updJrn] | dsimp only | split | intro

theorem Kept.doLdgRead (c : HostCmd) (s : State) (hk : Kept Q G s) : Kept Q G (doLdgRead c s) := by
  unfold Sys2Proof.Machine.doLdgRead
  with_reducible repeat' first
    | assumption | apply Kept.complete | apply Kept.setPhase | apply Kept.completeData | simp only [Kept.upd]
    | simp only [Kept.updTop] | simp only [Kept.updHif] | simp only [Kept.updSpill] | simp only [Kept.updJrn] | dsimp only
    | split | intro

theorem Kept.execLdgRead (cmd : HostCmd) (s : State) (hk : Kept Q G s) : KeptO Q G (execLdgRead cmd s) := by
  unfold Sys2Proof.Machine.execLdgRead
  with_reducible repeat' first
    | assumption | apply Kept.runCmd | apply Kept.doLdgRead | apply KeptO.next | simp only [Kept.upd]
    | simp only [Kept.updTop] | simp only [Kept.updHif] | simp only [Kept.updSpill] | simp only [Kept.updJrn] | dsimp only
    | split | intro

theorem Kept.doLdgSnapshot (c : HostCmd) (s : State) (hk : Kept Q G s) : Kept Q G (doLdgSnapshot c s) := by
  unfold Sys2Proof.Machine.doLdgSnapshot
  with_reducible repeat' first
    | assumption | apply Kept.setPhase | apply Kept.setBit | simp only [Kept.upd] | simp only [Kept.updTop]
    | simp only [Kept.updHif] | simp only [Kept.updSpill] | simp only [Kept.updJrn] | dsimp only | split | intro

theorem Kept.execLdgSnapshot (cmd : HostCmd) (s : State) (hk : Kept Q G s) : KeptO Q G (execLdgSnapshot cmd s) := by
  unfold Sys2Proof.Machine.execLdgSnapshot
  with_reducible repeat' first
    | assumption | apply Kept.runCmd | apply Kept.doLdgSnapshot | apply KeptO.next | simp only [Kept.upd]
    | simp only [Kept.updTop] | simp only [Kept.updHif] | simp only [Kept.updSpill] | simp only [Kept.updJrn] | dsimp only
    | split | intro

theorem Kept.execLdgSnapshotComplete (buffer : Nat) (s : State) (hk : Kept Q G s)
    : KeptO Q G (execLdgSnapshotComplete buffer s) := by
  unfold Sys2Proof.Machine.execLdgSnapshotComplete
  with_reducible repeat' first
    | assumption | apply Kept.captureSnaps | apply Kept.setReg64 | apply Kept.setBit | apply Kept.raise | apply Kept.complete
    | apply KeptO.next | simp only [Kept.upd] | simp only [Kept.updTop] | simp only [Kept.updHif] | simp only [Kept.updSpill]
    | simp only [Kept.updJrn] | dsimp only | split | intro

theorem Kept.setScl (s : State) (f : Scales → Scales) (hk : Kept Q G s) : Kept Q G (setScl s f) := by
  unfold Sys2Proof.Machine.setScl
  with_reducible repeat' first
    | assumption | simp only [Kept.upd] | simp only [Kept.updTop] | simp only [Kept.updHif] | simp only [Kept.updSpill]
    | simp only [Kept.updJrn] | dsimp only | split | intro

theorem Kept.setStep (s : State) (p step : Nat) (hk : Kept Q G s) : Kept Q G (setStep s p step) := by
  unfold Sys2Proof.Machine.setStep
  with_reducible repeat' first
    | assumption | apply Kept.step | apply Kept.setScl | apply Kept.setBit | apply Kept.setF | simp only [Kept.upd]
    | simp only [Kept.updTop] | simp only [Kept.updHif] | simp only [Kept.updSpill] | simp only [Kept.updJrn] | dsimp only
    | split | intro

theorem Kept.cutOne (s : State) (p : Nat) (hk : Kept Q G s) : Kept Q G (cutOne s p) := by
  unfold Sys2Proof.Machine.cutOne
  with_reducible repeat' first
    | assumption | apply Kept.setScl | apply Kept.setStep | simp only [Kept.upd] | simp only [Kept.updTop]
    | simp only [Kept.updHif] | simp only [Kept.updSpill] | simp only [Kept.updJrn] | dsimp only | split | intro

theorem Kept.keepStep (s : State) (p : Nat) (hk : Kept Q G s) : Kept Q G (keepStep s p) := by
  unfold Sys2Proof.Machine.keepStep
  with_reducible repeat' first
    | assumption | apply Kept.setScl | simp only [Kept.upd] | simp only [Kept.updTop] | simp only [Kept.updHif]
    | simp only [Kept.updSpill] | simp only [Kept.updJrn] | dsimp only | split | intro

theorem Kept.cutStep (s : State) (p : Nat) (hk : Kept Q G s) : Kept Q G (cutStep s p) := by
  unfold Sys2Proof.Machine.cutStep
  with_reducible repeat' first
    | assumption | apply Kept.cutOne | apply Kept.setScl | simp only [Kept.upd] | simp only [Kept.updTop]
    | simp only [Kept.updHif] | simp only [Kept.updSpill] | simp only [Kept.updJrn] | dsimp only | split | intro

theorem Kept.syncAct (s : State) (p : Nat) (hk : Kept Q G s) : Kept Q G (syncAct s p) := by
  unfold Sys2Proof.Machine.syncAct
  with_reducible repeat' first
    | assumption | apply Kept.setF | simp only [Kept.upd] | simp only [Kept.updTop] | simp only [Kept.updHif]
    | simp only [Kept.updSpill] | simp only [Kept.updJrn] | dsimp only | split | intro

theorem Kept.syncActs (s : State) (hk : Kept Q G s) : Kept Q G (syncActs s) := by
  unfold Sys2Proof.Machine.syncActs
  with_reducible repeat' first
    | assumption | apply Kept.forEach | apply Kept.syncAct | simp only [Kept.upd] | simp only [Kept.updTop]
    | simp only [Kept.updHif] | simp only [Kept.updSpill] | simp only [Kept.updJrn] | dsimp only | split | intro

theorem Kept.capEvent (s : State) (event hall step us : Nat) (ps : List Nat) (hk : Kept Q G s)
    : Kept Q G (capEvent s event hall step us ps) := by
  unfold Sys2Proof.Machine.capEvent
  with_reducible repeat' first
    | assumption | apply Kept.capNotice | apply Kept.step | apply Kept.raise | apply Kept.notify | simp only [Kept.upd]
    | simp only [Kept.updTop] | simp only [Kept.updHif] | simp only [Kept.updSpill] | simp only [Kept.updJrn] | dsimp only
    | split | intro

theorem Kept.sclEvent (s : State) (event : Nat) (hk : Kept Q G s) : Kept Q G (sclEvent s event) := by
  unfold Sys2Proof.Machine.sclEvent
  with_reducible repeat' first
    | assumption | apply Kept.notify | apply Kept.drawn | simp only [Kept.upd] | simp only [Kept.updTop]
    | simp only [Kept.updHif] | simp only [Kept.updSpill] | simp only [Kept.updJrn] | dsimp only | split | intro

theorem Kept.modDeferral (s : State) (p : Nat) (f : Deferral → Deferral) (hk : Kept Q G s)
    : Kept Q G (modDeferral s p f) := by
  unfold Sys2Proof.Machine.modDeferral
  with_reducible repeat' first
    | assumption | apply Kept.setScl | simp only [Kept.upd] | simp only [Kept.updTop] | simp only [Kept.updHif]
    | simp only [Kept.updSpill] | simp only [Kept.updJrn] | dsimp only | split | intro

theorem Kept.pauseDeferral (s : State) (p : Nat) (hk : Kept Q G s) : Kept Q G (pauseDeferral s p) := by
  unfold Sys2Proof.Machine.pauseDeferral
  with_reducible repeat' first
    | assumption | apply Kept.modDeferral | simp only [Kept.upd] | simp only [Kept.updTop] | simp only [Kept.updHif]
    | simp only [Kept.updSpill] | simp only [Kept.updJrn] | dsimp only | split | intro

theorem Kept.resumeDeferral (s : State) (p : Nat) (hk : Kept Q G s) : Kept Q G (resumeDeferral s p) := by
  unfold Sys2Proof.Machine.resumeDeferral
  with_reducible repeat' first
    | assumption | apply Kept.modDeferral | simp only [Kept.upd] | simp only [Kept.updTop] | simp only [Kept.updHif]
    | simp only [Kept.updSpill] | simp only [Kept.updJrn] | dsimp only | split | intro

theorem Kept.dropDeferral (s : State) (p : Nat) (hk : Kept Q G s) : Kept Q G (dropDeferral s p) := by
  unfold Sys2Proof.Machine.dropDeferral
  with_reducible repeat' first
    | assumption | apply Kept.setScl | apply Kept.setBit | simp only [Kept.upd] | simp only [Kept.updTop]
    | simp only [Kept.updHif] | simp only [Kept.updSpill] | simp only [Kept.updJrn] | dsimp only | split | intro

theorem Kept.forcedNotices (s : State) (ps : List Nat) (cuts : Bool) (hk : Kept Q G s)
    : Kept Q G (forcedNotices s ps cuts) := by
  unfold Sys2Proof.Machine.forcedNotices
  with_reducible repeat' first
    | assumption | apply Kept.whenB | apply Kept.forEach | apply Kept.dropDeferral | apply Kept.capEvent | apply Kept.foldl
    | apply Kept.foldl1 | simp only [Kept.upd] | simp only [Kept.updTop] | simp only [Kept.updHif]
    | simp only [Kept.updSpill] | simp only [Kept.updJrn] | dsimp only | split | intro

theorem Kept.takeDeferred (s : State) (d : Deferral) (hk : Kept Q G s) : Kept Q G (takeDeferred s d) := by
  unfold Sys2Proof.Machine.takeDeferred
  with_reducible repeat' first
    | assumption | apply Kept.cutStep | apply Kept.cutOne | apply Kept.keepStep | simp only [Kept.upd]
    | simp only [Kept.updTop] | simp only [Kept.updHif] | simp only [Kept.updSpill] | simp only [Kept.updJrn] | dsimp only
    | split | intro

theorem Kept.endDeferral (s : State) (p : Nat) (hk : Kept Q G s) : Kept Q G (endDeferral s p) := by
  unfold Sys2Proof.Machine.endDeferral
  with_reducible repeat' first
    | assumption | apply Kept.whenB | apply Kept.takeDeferred | apply Kept.dropDeferral | apply Kept.capEvent
    | simp only [Kept.upd] | simp only [Kept.updTop] | simp only [Kept.updHif] | simp only [Kept.updSpill]
    | simp only [Kept.updJrn] | dsimp only | split | intro

theorem Kept.execProtectedSpanStart (lane : Nat) (s : State) (hk : Kept Q G s)
    : KeptO Q G (execProtectedSpanStart lane s) := by
  unfold Sys2Proof.Machine.execProtectedSpanStart
  with_reducible repeat' first
    | assumption | apply Kept.syncSlotStatus | apply KeptO.next | simp only [Kept.upd] | simp only [Kept.updTop]
    | simp only [Kept.updHif] | simp only [Kept.updSpill] | simp only [Kept.updJrn] | dsimp only | split | intro

theorem Kept.execProtectedSpanEnd (lane : Nat) (s : State) (hk : Kept Q G s) : KeptO Q G (execProtectedSpanEnd lane s) := by
  unfold Sys2Proof.Machine.execProtectedSpanEnd
  with_reducible repeat' first
    | assumption | apply Kept.syncSlotStatus | apply Kept.endDeferral | apply KeptO.next | simp only [Kept.upd]
    | simp only [Kept.updTop] | simp only [Kept.updHif] | simp only [Kept.updSpill] | simp only [Kept.updJrn] | dsimp only
    | split | intro

theorem Kept.forceDeferral (s : State) (p : Nat) (hk : Kept Q G s) : Kept Q G (forceDeferral s p) := by
  unfold Sys2Proof.Machine.forceDeferral
  with_reducible repeat' first
    | assumption | apply Kept.whenB | apply Kept.takeDeferred | apply Kept.dropDeferral | apply Kept.capEvent
    | simp only [Kept.upd] | simp only [Kept.updTop] | simp only [Kept.updHif] | simp only [Kept.updSpill]
    | simp only [Kept.updJrn] | dsimp only | split | intro

theorem Kept.execDeferralForce (p : Nat) (s : State) (hk : Kept Q G s) : KeptO Q G (execDeferralForce p s) := by
  unfold Sys2Proof.Machine.execDeferralForce
  with_reducible repeat' first
    | assumption | apply Kept.forceDeferral | apply KeptO.next | simp only [Kept.upd] | simp only [Kept.updTop]
    | simp only [Kept.updHif] | simp only [Kept.updSpill] | simp only [Kept.updJrn] | dsimp only | split | intro

theorem Kept.syncModelOnly (s : State) (hk : Kept Q G s) : Kept Q G (syncModelOnly s) := by
  unfold Sys2Proof.Machine.syncModelOnly
  with_reducible repeat' first
    | assumption | apply Kept.whenB | apply Kept.raise | apply Kept.setBit | simp only [Kept.upd] | simp only [Kept.updTop]
    | simp only [Kept.updHif] | simp only [Kept.updSpill] | simp only [Kept.updJrn] | dsimp only | split | intro

theorem Kept.pollEntry (answers : List RegulatorAnswer) (s : State) (k : Nat) (hk : Kept Q G s)
    : Kept Q G (pollEntry answers s k) := by
  unfold Sys2Proof.Machine.pollEntry
  with_reducible repeat' first
    | assumption | apply Kept.setScl | apply Kept.emit | apply Kept.setF | apply Kept.setBit | apply Kept.raiseLimited
    | simp only [Kept.upd] | simp only [Kept.updTop] | simp only [Kept.updHif] | simp only [Kept.updSpill]
    | simp only [Kept.updJrn] | dsimp only | split | intro

theorem Kept.execRegulatorPoll (answers : List RegulatorAnswer) (s : State) (hk : Kept Q G s)
    : KeptO Q G (execRegulatorPoll answers s) := by
  unfold Sys2Proof.Machine.execRegulatorPoll
  with_reducible repeat' first
    | assumption | apply Kept.setScl | apply Kept.syncModelOnly | apply Kept.forEach | apply Kept.pollEntry
    | apply KeptO.next | simp only [Kept.upd] | simp only [Kept.updTop] | simp only [Kept.updHif] | simp only [Kept.updSpill]
    | simp only [Kept.updJrn] | dsimp only | split | intro

theorem Kept.writeWarnLimits (s : State) (hk : Kept Q G s) : Kept Q G (writeWarnLimits s) := by
  unfold Sys2Proof.Machine.writeWarnLimits
  with_reducible repeat' first
    | assumption | apply Kept.forEach | apply Kept.emit | simp only [Kept.upd] | simp only [Kept.updTop]
    | simp only [Kept.updHif] | simp only [Kept.updSpill] | simp only [Kept.updJrn] | dsimp only | split | intro

theorem Kept.execScalesReady (s : State) (hk : Kept Q G s) : KeptO Q G (execScalesReady s) := by
  unfold Sys2Proof.Machine.execScalesReady
  with_reducible repeat' first
    | assumption | apply Kept.jrnReads | apply Kept.setScl | apply Kept.setF | apply Kept.writeWarnLimits
    | apply Kept.syncModelOnly | apply Kept.setBringup | apply Kept.forEach | apply Kept.emit | apply KeptO.next
    | simp only [Kept.upd] | simp only [Kept.updTop] | simp only [Kept.updHif] | simp only [Kept.updSpill]
    | simp only [Kept.updJrn] | dsimp only | split | intro

theorem Kept.sclBad (s : State) (hk : Kept Q G s) : Kept Q G (sclBad s) := by
  unfold Sys2Proof.Machine.sclBad
  with_reducible repeat' first
    | assumption | apply Kept.raise | apply Kept.setBit | simp only [Kept.upd] | simp only [Kept.updTop]
    | simp only [Kept.updHif] | simp only [Kept.updSpill] | simp only [Kept.updJrn] | dsimp only | split | intro

theorem Kept.absWrite (value : Word) (s : State) (hk : Kept Q G s) : Kept Q G (absWrite value s) := by
  unfold Sys2Proof.Machine.absWrite
  with_reducible repeat' first
    | assumption | apply Kept.sclBad | apply Kept.setF | apply Kept.whenB | apply Kept.writeWarnLimits | simp only [Kept.upd]
    | simp only [Kept.updTop] | simp only [Kept.updHif] | simp only [Kept.updSpill] | simp only [Kept.updJrn] | dsimp only
    | split | intro

theorem Kept.execAbsWrite (value : Word) (s : State) (hk : Kept Q G s) : KeptO Q G (execAbsWrite value s) := by
  unfold Sys2Proof.Machine.execAbsWrite
  with_reducible repeat' first
    | assumption | apply Kept.holdWrite | apply Kept.absWrite | apply KeptO.next | simp only [Kept.upd]
    | simp only [Kept.updTop] | simp only [Kept.updHif] | simp only [Kept.updSpill] | simp only [Kept.updJrn] | dsimp only
    | split | intro

theorem Kept.unwantDeferrals (s : State) (hk : Kept Q G s) : Kept Q G (unwantDeferrals s) := by
  unfold Sys2Proof.Machine.unwantDeferrals
  with_reducible repeat' first
    | assumption | apply Kept.setScl | simp only [Kept.upd] | simp only [Kept.updTop] | simp only [Kept.updHif]
    | simp only [Kept.updSpill] | simp only [Kept.updJrn] | dsimp only | split | intro

theorem Kept.deferCuts (s : State) (cap : Bool) (ps : List Nat) (hk : Kept Q G s) : Kept Q G (deferCuts s cap ps) := by
  unfold Sys2Proof.Machine.deferCuts
  with_reducible repeat' first
    | assumption | apply Kept.setScl | apply Kept.forEach | apply Kept.setBit | apply Kept.capEvent | simp only [Kept.upd]
    | simp only [Kept.updTop] | simp only [Kept.updHif] | simp only [Kept.updSpill] | simp only [Kept.updJrn] | dsimp only
    | split | intro

theorem Kept.setActPolicy (s : State) (p v : Nat) (hk : Kept Q G s) : Kept Q G (setActPolicy s p v) := by
  unfold Sys2Proof.Machine.setActPolicy
  with_reducible repeat' first
    | assumption | apply Kept.syncAct | apply Kept.setScl | simp only [Kept.upd] | simp only [Kept.updTop]
    | simp only [Kept.updHif] | simp only [Kept.updSpill] | simp only [Kept.updJrn] | dsimp only | split | intro

theorem Kept.capCut (prices : List (Nat × Nat)) (need : Nat) (s : State) (hk : Kept Q G s)
    : Kept Q G (capCut prices need s) := by
  unfold Sys2Proof.Machine.capCut
  with_reducible repeat' first
    | assumption | apply Kept.forEach | apply Kept.cutStep | apply Kept.setActPolicy | apply Kept.deferCuts
    | simp only [Kept.upd] | simp only [Kept.updTop] | simp only [Kept.updHif] | simp only [Kept.updSpill]
    | simp only [Kept.updJrn] | dsimp only | split | intro

theorem Kept.capRaise (prices : List (Nat × Nat)) (s : State) (hk : Kept Q G s) : Kept Q G (capRaise prices s) := by
  unfold Sys2Proof.Machine.capRaise
  with_reducible repeat' first
    | assumption | apply Kept.setActPolicy | apply Kept.setStep | apply Kept.foldl | apply Kept.foldl1 | simp only [Kept.upd]
    | simp only [Kept.updTop] | simp only [Kept.updHif] | simp only [Kept.updSpill] | simp only [Kept.updJrn] | dsimp only
    | split | intro

theorem Kept.stepBounds (s : State) (hk : Kept Q G s) : Kept Q G (stepBounds s) := by
  unfold Sys2Proof.Machine.stepBounds
  with_reducible repeat' first
    | assumption | apply Kept.whenB | apply Kept.forEach | apply Kept.setStep | apply Kept.deferCuts | apply Kept.setScl
    | apply Kept.cutStep | simp only [Kept.upd] | simp only [Kept.updTop] | simp only [Kept.updHif]
    | simp only [Kept.updSpill] | simp only [Kept.updJrn] | dsimp only | split | intro

theorem Kept.throttleCuts (s : State) (hk : Kept Q G s) : Kept Q G (throttleCuts s) := by
  unfold Sys2Proof.Machine.throttleCuts
  with_reducible repeat' first
    | assumption | apply Kept.forEach | apply Kept.cutOne | apply Kept.keepStep | apply Kept.setScl | simp only [Kept.upd]
    | simp only [Kept.updTop] | simp only [Kept.updHif] | simp only [Kept.updSpill] | simp only [Kept.updJrn] | dsimp only
    | split | intro

theorem Kept.restoreSteps (s : State) (hk : Kept Q G s) : Kept Q G (restoreSteps s) := by
  unfold Sys2Proof.Machine.restoreSteps
  with_reducible repeat' first
    | assumption | apply Kept.forEach | apply Kept.whenB | apply Kept.setStep | apply Kept.setScl | simp only [Kept.upd]
    | simp only [Kept.updTop] | simp only [Kept.updHif] | simp only [Kept.updSpill] | simp only [Kept.updJrn] | dsimp only
    | split | intro

theorem Kept.execCapLoopTick (savings : List (Nat × Nat)) (s : State) (hk : Kept Q G s)
    : KeptO Q G (execCapLoopTick savings s) := by
  unfold Sys2Proof.Machine.execCapLoopTick
  with_reducible repeat' first
    | assumption | apply Kept.forEach | apply Kept.endDeferral | apply Kept.forceDeferral | apply Kept.restoreSteps
    | apply Kept.stepBounds | apply Kept.throttleCuts | apply Kept.capCut | apply Kept.unwantDeferrals | apply Kept.setBit
    | apply Kept.capRaise | apply KeptO.next | simp only [Kept.upd] | simp only [Kept.updTop] | simp only [Kept.updHif]
    | simp only [Kept.updSpill] | simp only [Kept.updJrn] | dsimp only | split | intro

theorem Kept.execSclPolicyConflict (p step : Nat) (s : State) (hk : Kept Q G s)
    : KeptO Q G (execSclPolicyConflict p step s) := by
  unfold Sys2Proof.Machine.execSclPolicyConflict
  with_reducible repeat' first
    | assumption | apply Kept.step | apply Kept.setReg | apply Kept.raiseLimited | apply Kept.whenB | apply Kept.setBit
    | apply KeptO.next | simp only [Kept.upd] | simp only [Kept.updTop] | simp only [Kept.updHif] | simp only [Kept.updSpill]
    | simp only [Kept.updJrn] | dsimp only | split | intro

theorem Kept.execGlideComplete (p : Nat) (s : State) (hk : Kept Q G s) : KeptO Q G (execGlideComplete p s) := by
  unfold Sys2Proof.Machine.execGlideComplete
  with_reducible repeat' first
    | assumption | apply Kept.setBit | apply Kept.resumeDeferral | apply Kept.setScl | apply Kept.drawn | apply Kept.whenB
    | apply Kept.setF | apply KeptO.next | simp only [Kept.upd] | simp only [Kept.updTop] | simp only [Kept.updHif]
    | simp only [Kept.updSpill] | simp only [Kept.updJrn] | dsimp only | split | intro

theorem Kept.limitAct (s : State) (ps : List Nat) (v : Nat) (hk : Kept Q G s) : Kept Q G (limitAct s ps v) := by
  unfold Sys2Proof.Machine.limitAct
  with_reducible repeat' first
    | assumption | apply Kept.setScl | apply Kept.forcedNotices | apply Kept.forEach | apply Kept.syncAct | apply Kept.foldl
    | apply Kept.foldl1 | simp only [Kept.upd] | simp only [Kept.updTop] | simp only [Kept.updHif]
    | simp only [Kept.updSpill] | simp only [Kept.updJrn] | dsimp only | split | intro

theorem Kept.limiterStart (s : State) (hk : Kept Q G s) : Kept Q G (limiterStart s) := by
  unfold Sys2Proof.Machine.limiterStart
  with_reducible repeat' first
    | assumption | apply Kept.setScl | apply Kept.setBit | apply Kept.raise | apply Kept.limitAct | simp only [Kept.upd]
    | simp only [Kept.updTop] | simp only [Kept.updHif] | simp only [Kept.updSpill] | simp only [Kept.updJrn] | dsimp only
    | split | intro

theorem Kept.execPmbusAlert (bus : Nat) (low : Bool) (s : State) (hk : Kept Q G s)
    : KeptO Q G (execPmbusAlert bus low s) := by
  unfold Sys2Proof.Machine.execPmbusAlert
  with_reducible repeat' first
    | assumption | apply Kept.limiterStart | apply Kept.setScl | apply KeptO.next | simp only [Kept.upd]
    | simp only [Kept.updTop] | simp only [Kept.updHif] | simp only [Kept.updSpill] | simp only [Kept.updJrn] | dsimp only
    | split | intro

theorem Kept.execLimiterStep (s : State) (hk : Kept Q G s) : KeptO Q G (execLimiterStep s) := by
  unfold Sys2Proof.Machine.execLimiterStep
  with_reducible repeat' first
    | assumption | apply Kept.limitAct | apply Kept.setScl | apply Kept.forcedNotices | apply Kept.forEach
    | apply Kept.cutOne | apply Kept.keepStep | apply KeptO.next | simp only [Kept.upd] | simp only [Kept.updTop]
    | simp only [Kept.updHif] | simp only [Kept.updSpill] | simp only [Kept.updJrn] | dsimp only | split | intro

theorem Kept.execLimiterRelease (s : State) (hk : Kept Q G s) : KeptO Q G (execLimiterRelease s) := by
  unfold Sys2Proof.Machine.execLimiterRelease
  with_reducible repeat' first
    | assumption | apply Kept.syncActs | apply Kept.setBit | apply Kept.setScl | apply KeptO.next | simp only [Kept.upd]
    | simp only [Kept.updTop] | simp only [Kept.updHif] | simp only [Kept.updSpill] | simp only [Kept.updJrn] | dsimp only
    | split | intro

theorem Kept.execFastEstimateTick (s : State) (hk : Kept Q G s) : KeptO Q G (execFastEstimateTick s) := by
  unfold Sys2Proof.Machine.execFastEstimateTick
  with_reducible repeat' first
    | assumption | apply Kept.setF | apply Kept.syncModelOnly | apply Kept.setScl | apply Kept.limiterStart
    | apply Kept.foldl | apply Kept.foldl1 | apply KeptO.next | simp only [Kept.upd] | simp only [Kept.updTop]
    | simp only [Kept.updHif] | simp only [Kept.updSpill] | simp only [Kept.updJrn] | dsimp only | split | intro

theorem Kept.stretch (s : State) (isl : Nat) (hk : Kept Q G s) : Kept Q G (stretch s isl) := by
  unfold Sys2Proof.Machine.stretch
  with_reducible repeat' first
    | assumption | apply Kept.setScl | apply Kept.raiseLimited | apply Kept.satF | apply Kept.whenB
    | apply Kept.pauseDeferral | simp only [Kept.upd] | simp only [Kept.updTop] | simp only [Kept.updHif]
    | simp only [Kept.updSpill] | simp only [Kept.updJrn] | dsimp only | split | intro

theorem Kept.execDroopTrip (island : Nat) (s : State) (hk : Kept Q G s) : KeptO Q G (execDroopTrip island s) := by
  unfold Sys2Proof.Machine.execDroopTrip
  with_reducible repeat' first
    | assumption | apply Kept.stretch | apply KeptO.next | simp only [Kept.upd] | simp only [Kept.updTop]
    | simp only [Kept.updHif] | simp only [Kept.updSpill] | simp only [Kept.updJrn] | dsimp only | split | intro

theorem Kept.execDroopClear (island stretchedUs : Nat) (s : State) (hk : Kept Q G s)
    : KeptO Q G (execDroopClear island stretchedUs s) := by
  unfold Sys2Proof.Machine.execDroopClear
  with_reducible repeat' first
    | assumption | apply Kept.setScl | apply Kept.noteInterval | apply Kept.whenB | apply Kept.raiseLimited | apply Kept.satF
    | apply KeptO.next | simp only [Kept.upd] | simp only [Kept.updTop] | simp only [Kept.updHif] | simp only [Kept.updSpill]
    | simp only [Kept.updJrn] | dsimp only | split | intro

theorem Kept.recognise (s : State) (k : Nat) (hk : Kept Q G s) : Kept Q G (recognise s k) := by
  unfold Sys2Proof.Machine.recognise
  with_reducible repeat' first
    | assumption | apply Kept.setScl | apply Kept.setF | apply Kept.whenB | apply Kept.forEach | apply Kept.setStep
    | apply Kept.sclEvent | apply Kept.raiseLimited | simp only [Kept.upd] | simp only [Kept.updTop]
    | simp only [Kept.updHif] | simp only [Kept.updSpill] | simp only [Kept.updJrn] | dsimp only | split | intro

theorem Kept.storePhases (s : State) (l : List Phase) (hk : Kept Q G s) : Kept Q G (storePhases s l) := by
  unfold Sys2Proof.Machine.storePhases
  with_reducible repeat' first
    | assumption | apply Kept.jrnOwe | apply Kept.setScl | apply Kept.setF | simp only [Kept.upd] | simp only [Kept.updTop]
    | simp only [Kept.updHif] | simp only [Kept.updSpill] | simp only [Kept.updJrn] | dsimp only | split | intro

theorem Kept.clearPhases (s : State) (hk : Kept Q G s) : Kept Q G (clearPhases s) := by
  unfold Sys2Proof.Machine.clearPhases
  with_reducible repeat' first
    | assumption | apply Kept.storePhases | apply Kept.setScl | simp only [Kept.upd] | simp only [Kept.updTop]
    | simp only [Kept.updHif] | simp only [Kept.updSpill] | simp only [Kept.updJrn] | dsimp only | split | intro

theorem Kept.newPhase (s : State) (sig steps : List Nat) (hk : Kept Q G s) : Kept Q G (newPhase s sig steps) := by
  unfold Sys2Proof.Machine.newPhase
  with_reducible repeat' first
    | assumption | apply Kept.storePhases | apply Kept.whenB | apply Kept.setScl | simp only [Kept.upd]
    | simp only [Kept.updTop] | simp only [Kept.updHif] | simp only [Kept.updSpill] | simp only [Kept.updJrn] | dsimp only
    | split | intro

theorem Kept.phaseStep (sig : List Nat) (s : State) (hk : Kept Q G s) : Kept Q G (phaseStep sig s) := by
  unfold Sys2Proof.Machine.phaseStep
  with_reducible repeat' first
    | assumption | apply Kept.setScl | apply Kept.whenB | apply Kept.recognise | apply Kept.storePhases | apply Kept.newPhase
    | simp only [Kept.upd] | simp only [Kept.updTop] | simp only [Kept.updHif] | simp only [Kept.updSpill]
    | simp only [Kept.updJrn] | dsimp only | split | intro

theorem Kept.shareEnergy (s : State) (hk : Kept Q G s) : Kept Q G (shareEnergy s) := by
  unfold Sys2Proof.Machine.shareEnergy
  with_reducible repeat' first
    | assumption | apply Kept.add64 | apply Kept.forEach | apply Kept.setScl | apply Kept.setF | apply Kept.foldl
    | apply Kept.foldl1 | simp only [Kept.upd] | simp only [Kept.updTop] | simp only [Kept.updHif]
    | simp only [Kept.updSpill] | simp only [Kept.updJrn] | dsimp only | split | intro

theorem Kept.execPhaseTick (s : State) (hk : Kept Q G s) : KeptO Q G (execPhaseTick s) := by
  unfold Sys2Proof.Machine.execPhaseTick
  with_reducible repeat' first
    | assumption | apply Kept.shareEnergy | apply Kept.syncModelOnly | apply Kept.phaseStep | apply KeptO.next
    | simp only [Kept.upd] | simp only [Kept.updTop] | simp only [Kept.updHif] | simp only [Kept.updSpill]
    | simp only [Kept.updJrn] | dsimp only | split | intro

theorem Kept.dropSteps (s : State) (ps : List Nat) (hk : Kept Q G s) : Kept Q G (dropSteps s ps) := by
  unfold Sys2Proof.Machine.dropSteps
  with_reducible repeat' first
    | assumption | apply Kept.forEach | apply Kept.setStep | apply Kept.keepStep | simp only [Kept.upd]
    | simp only [Kept.updTop] | simp only [Kept.updHif] | simp only [Kept.updSpill] | simp only [Kept.updJrn] | dsimp only
    | split | intro

theorem Kept.criticalHold (s : State) (hk : Kept Q G s) : Kept Q G (criticalHold s) := by
  unfold Sys2Proof.Machine.criticalHold
  with_reducible repeat' first
    | assumption | apply Kept.forcedNotices | apply Kept.syncActs | apply Kept.dropSteps | simp only [Kept.upd]
    | simp only [Kept.updTop] | simp only [Kept.updHif] | simp only [Kept.updSpill] | simp only [Kept.updJrn] | dsimp only
    | split | intro

theorem Kept.criticalStep (s : State) (hk : Kept Q G s) : Kept Q G (criticalStep s) := by
  unfold Sys2Proof.Machine.criticalStep
  with_reducible repeat' first
    | assumption | apply Kept.syncActs | apply Kept.setBit | apply Kept.criticalHold | apply Kept.dropSteps
    | apply Kept.sclEvent | apply Kept.raise | apply Kept.forcedNotices | simp only [Kept.upd] | simp only [Kept.updTop]
    | simp only [Kept.updHif] | simp only [Kept.updSpill] | simp only [Kept.updJrn] | dsimp only | split | intro

theorem Kept.throttleStep (s : State) (hk : Kept Q G s) : Kept Q G (throttleStep s) := by
  unfold Sys2Proof.Machine.throttleStep
  with_reducible repeat' first
    | assumption | apply Kept.sclEvent | apply Kept.raise | apply Kept.setBit | apply Kept.setScl | apply Kept.syncActs
    | simp only [Kept.upd] | simp only [Kept.updTop] | simp only [Kept.updHif] | simp only [Kept.updSpill]
    | simp only [Kept.updJrn] | dsimp only | split | intro

theorem Kept.execThermalSense (sensors engines : List Nat) (s : State) (hk : Kept Q G s)
    : KeptO Q G (execThermalSense sensors engines s) := by
  unfold Sys2Proof.Machine.execThermalSense
  with_reducible repeat' first
    | assumption | apply Kept.setScl | apply Kept.setReg | apply Kept.throttleStep | apply Kept.criticalStep
    | apply Kept.foldl | apply Kept.foldl1 | apply KeptO.next | simp only [Kept.upd] | simp only [Kept.updTop]
    | simp only [Kept.updHif] | simp only [Kept.updSpill] | simp only [Kept.updJrn] | dsimp only | split | intro

theorem Kept.execThrottleTick (s : State) (hk : Kept Q G s) : KeptO Q G (execThrottleTick s) := by
  unfold Sys2Proof.Machine.execThrottleTick
  with_reducible repeat' first
    | assumption | apply Kept.throttleCuts | apply Kept.setScl | apply Kept.forEach | apply Kept.syncAct
    | apply Kept.deferCuts | apply Kept.foldl | apply Kept.foldl1 | apply KeptO.next | simp only [Kept.upd]
    | simp only [Kept.updTop] | simp only [Kept.updHif] | simp only [Kept.updSpill] | simp only [Kept.updJrn] | dsimp only
    | split | intro

theorem Kept.setTop {s : State} {f : Sys2Proof.Machine.Top → Sys2Proof.Machine.Top} (h : Kept Q G s)
    (h1 : (f s.top).fuses = s.top.fuses) (h2 : (f s.top).lcsJob = s.top.lcsJob) : Kept Q G (setTop s f) := by
  refine ⟨h.wf, h.queue, ?_, ?_, h.mem⟩
  · show FusesGe G (f s.top).fuses
    rw [h1]; exact h.fuses
  · intro j hj
    have hj' : (f s.top).lcsJob = some j := hj
    show lcsStep (f s.top).fuses.lcs _ = true
    rw [h1]; exact h.job j (h2 ▸ hj')

theorem Kept.bayAfterCold (old s : State) (c : Nat) (hk : Kept Q G s) :
    Kept Q G (bayAfterCold old s c) := by
  unfold Sys2Proof.Machine.bayAfterCold
  repeat' first
    | with_reducible assumption | with_reducible apply Kept.setF | with_reducible apply Kept.modBay | dsimp only | split
    | intro

theorem Kept.coldReset (causes : List Nat) (aonLost : Bool) (s : State) (hk : Kept Q G s) :
    Kept Q G (coldReset causes aonLost s) := by
  unfold Sys2Proof.Machine.coldReset
  refine Kept.forEach _ _ _ (fun _ _ h => Kept.bayAfterCold _ _ _ h)
    (Kept.forEach _ _ _ (fun _ _ h => Kept.setBit _ _ _ _ h) (Kept.setReg (Kept.setReg (Kept.setReg ?_))))
  exact ⟨rfl, hk.queue, hk.fuses, fun _ h => (nomatch h), memWf_iff.mpr ⟨⟨rfl, rfl⟩, rfl, (memWf_iff.mp hk.mem).2.2⟩⟩

theorem Kept.execSysRstNLow (lowNs : Nat) (s : State) (hk : Kept Q G s) : KeptO Q G (execSysRstNLow lowNs s) := by
  unfold Sys2Proof.Machine.execSysRstNLow
  with_reducible repeat' first
    | assumption | apply Kept.coldReset | apply Kept.drawn | apply KeptO.next | simp only [Kept.upd]
    | simp only [Kept.updTop] | simp only [Kept.updHif] | simp only [Kept.updSpill] | simp only [Kept.updJrn] | dsimp only
    | split | intro

theorem Kept.recordWarning (s : State) (mv ns : Nat) (hk : Kept Q G s) : Kept Q G (recordWarning s mv ns) := by
  unfold Sys2Proof.Machine.recordWarning
  with_reducible repeat' first
    | assumption | apply Kept.setF | simp only [Kept.upd] | simp only [Kept.updTop] | simp only [Kept.updHif]
    | simp only [Kept.updSpill] | simp only [Kept.updJrn] | dsimp only | split | intro

theorem Kept.execSupplyBelowResetThreshold (rail : Rail) (mv ns : Nat) (s : State) (hk : Kept Q G s)
    : KeptO Q G (execSupplyBelowResetThreshold rail mv ns s) := by
  unfold Sys2Proof.Machine.execSupplyBelowResetThreshold
  with_reducible repeat' first
    | assumption | apply Kept.whenB | apply Kept.landsIo | apply Kept.coldReset | apply Kept.recordWarning
    | apply Kept.setReg | apply KeptO.next | simp only [Kept.upd] | simp only [Kept.updTop] | simp only [Kept.updHif]
    | simp only [Kept.updSpill] | simp only [Kept.updJrn] | dsimp only | split | intro

theorem Kept.execVddCoreWarning (mv ns : Nat) (s : State) (hk : Kept Q G s) :
    KeptO Q G (execVddCoreWarning mv ns s) := by
  have key : ∀ (t : State) (l : List Nat), Kept Q G t → Kept Q G (Machine.forEach l Machine.stretch t) :=
    fun t l ht => Kept.forEach _ _ _ (fun t x ht => Kept.stretch _ _ ht) ht
  unfold Sys2Proof.Machine.execVddCoreWarning
  apply KeptO.next
  generalize List.range 129 = r
  split
  · exact hk
  · dsimp only
    split
    · exact Kept.raise _ _ (key _ _ (Kept.setTop hk rfl rfl))
    · exact key _ _ (Kept.setTop hk rfl rfl)

theorem Kept.execVddCoreWarningEnd (minMv durNs : Nat) (s : State) (hk : Kept Q G s)
    : KeptO Q G (execVddCoreWarningEnd minMv durNs s) := by
  unfold Sys2Proof.Machine.execVddCoreWarningEnd
  with_reducible repeat' first
    | assumption | rfl | exact fun h => h | apply Kept.raise | apply Kept.recordWarning | apply Kept.setTop
    | apply KeptO.next | simp only [Kept.upd] | simp only [Kept.updTop] | simp only [Kept.updHif] | simp only [Kept.updSpill]
    | simp only [Kept.updJrn] | dsimp only | split | intro

theorem lcs_burned (f : Fuses) (x : StateFuses) :
    Fuses.lcs { f with states := x :: f.states } = if x.committed then x.state else f.lcs := by
  simp only [Fuses.lcs, Fuses.decoded, List.filter_cons]
  by_cases h : x.committed <;> simp [h]

theorem Kept.lcsBurn (j : LcsJob) (point : Option LcsPoint) (s : State) (hk : Kept Q G s) (hG : s.top.fuses.lcs = G.lcs)
    (hj : lcsStep s.top.fuses.lcs j.target = true) : Kept Q G (lcsBurn j point s) := by
  have h0 : Kept Q G (Machine.whenB (j.target == .debug || j.target == .retired) (fun s => Machine.modJrn s eraseSealed) s) :=
    Kept.whenB _ _ _ (fun t ht => Kept.modJrn (f := eraseSealed) ht fun _ => rfl) hk
  have ht : (Machine.whenB (j.target == .debug || j.target == .retired) (fun s => Machine.modJrn s eraseSealed) s).top = s.top := by
    unfold Machine.whenB; split <;> rfl
  unfold Sys2Proof.Machine.lcsBurn
  dsimp only
  split
  · exact h0
  · obtain ⟨a, b, c, d, e, u, v, w⟩ := hk.fuses
    refine ⟨h0.wf, h0.queue, ?_, fun _ h => (nomatch h), h0.mem⟩
    simp only [Machine.setTop, ht]
    refine ⟨a, b, c, d, ?_, u.trans (List.suffix_cons _ _), v, w⟩
    rw [lcs_burned]
    split
    · exact .inr (hG ▸ hj)
    · exact e

theorem Kept.keepRetired (old s : State) (hk : Kept Q G old) (hk : Kept Q G s) : Kept Q G (keepRetired old s) := by
  unfold Sys2Proof.Machine.keepRetired
  with_reducible repeat' first
    | assumption | apply Kept.forEach | apply Kept.setBit | apply Kept.setReg | simp only [Kept.upd]
    | simp only [Kept.updTop] | simp only [Kept.updHif] | simp only [Kept.updSpill] | simp only [Kept.updJrn] | dsimp only
    | split | intro

theorem Kept.execLcsTransitionStart (cut : Option (LcsPoint × List Nat)) (s : State) (hk : Kept Q G s)
    (hG : s.top.fuses.lcs = G.lcs) : KeptO Q G (execLcsTransitionStart cut s) := by
  unfold Sys2Proof.Machine.execLcsTransitionStart
  apply KeptO.next
  split
  · exact hk
  · rename_i j _ hj
    exact Kept.keepRetired _ _ hk (Kept.coldReset _ _ _ (Kept.jrnLog _ _ (Kept.lcsBurn _ _ _ hk hG (hk.job _ hj))))
  · rename_i j _ _ hj
    exact Kept.coldReset _ _ _ (Kept.lcsBurn _ _ _ hk hG (hk.job _ hj))

theorem Kept.execColdResetRelease (straps : BitVec 5) (refclks : BitVec 4) (s : State) (hk : Kept Q G s)
    : KeptO Q G (execColdResetRelease straps refclks s) := by
  unfold Sys2Proof.Machine.execColdResetRelease
  with_reducible repeat' first
    | assumption | rfl | exact fun h => h | apply Kept.setLands | apply Kept.setTop | apply Kept.setBit | apply Kept.setReg
    | apply Kept.whenB | apply Kept.raise | apply KeptO.next | simp only [Kept.upd] | simp only [Kept.updTop]
    | simp only [Kept.updHif] | simp only [Kept.updSpill] | simp only [Kept.updJrn] | dsimp only | split | intro

theorem Kept.execFusesLoaded (s : State) (hk : Kept Q G s) : KeptO Q G (execFusesLoaded s) := by
  unfold Sys2Proof.Machine.execFusesLoaded
  with_reducible repeat' first
    | assumption | apply Kept.setF | apply Kept.setReg | apply Kept.setBringup | apply Kept.setReg64 | apply KeptO.next
    | simp only [Kept.upd] | simp only [Kept.updTop] | simp only [Kept.updHif] | simp only [Kept.updSpill]
    | simp only [Kept.updJrn] | dsimp only | split | intro

theorem Kept.execClocksLocked (failedBanks : List Nat) (s : State) (hk : Kept Q G s)
    : KeptO Q G (execClocksLocked failedBanks s) := by
  unfold Sys2Proof.Machine.execClocksLocked
  with_reducible repeat' first
    | assumption | apply Kept.forEach | apply Kept.setBit | apply Kept.retireBank | apply Kept.landsFlash
    | apply Kept.setBringup | apply KeptO.next | simp only [Kept.upd] | simp only [Kept.updTop] | simp only [Kept.updHif]
    | simp only [Kept.updSpill] | simp only [Kept.updJrn] | dsimp only | split | intro

theorem Kept.runHeldCmd (s : State) (c : HostCmd) (hk : Kept Q G s) : Kept Q G (runHeldCmd s c) := by
  unfold Sys2Proof.Machine.runHeldCmd
  with_reducible repeat' first
    | assumption | apply Kept.rowState | apply Kept.execTblSearch | apply Kept.execTblNext | apply Kept.execTblInsert
    | apply Kept.execTblUpdate | apply Kept.execTblDelete | apply Kept.execTblFlushPort | apply Kept.execTblRead
    | apply Kept.execStageWrite | apply Kept.execCommit | apply Kept.execCommitAt | apply Kept.execCommitToken
    | apply Kept.execCommitCancel | apply Kept.execPatchLoad | apply Kept.execReadId | apply Kept.execSetPolicy
    | apply Kept.execPrepareRemove | simp only [Kept.upd] | simp only [Kept.updTop] | simp only [Kept.updHif]
    | simp only [Kept.updSpill] | simp only [Kept.updJrn] | dsimp only | split | intro

theorem Kept.runHeld (s : State) (hk : Kept Q G s) : Kept Q G (runHeld s) := by
  unfold Sys2Proof.Machine.runHeld
  with_reducible repeat' first
    | assumption | apply Kept.refuseForms | apply Kept.forEach | apply Kept.runHeldCmd | simp only [Kept.upd]
    | simp only [Kept.updTop] | simp only [Kept.updHif] | simp only [Kept.updSpill] | simp only [Kept.updJrn] | dsimp only
    | split | intro

theorem Kept.startEpoch (s : State) (hk : Kept Q G s) : Kept Q G (startEpoch s) := by
  unfold Sys2Proof.Machine.startEpoch
  with_reducible repeat' first
    | assumption | apply Kept.keyEpoch | apply Kept.runHeld | simp only [Kept.upd] | simp only [Kept.updTop]
    | simp only [Kept.updHif] | simp only [Kept.updSpill] | simp only [Kept.updJrn] | dsimp only | split | intro

theorem Kept.execKeyEpochStart (s : State) (hk : Kept Q G s) : KeptO Q G (execKeyEpochStart s) := by
  unfold Sys2Proof.Machine.execKeyEpochStart
  with_reducible repeat' first
    | assumption | apply Kept.startEpoch | apply KeptO.next | simp only [Kept.upd] | simp only [Kept.updTop]
    | simp only [Kept.updHif] | simp only [Kept.updSpill] | simp only [Kept.updJrn] | dsimp only | split | intro

theorem Kept.execTrngOk (s : State) (hk : Kept Q G s) : KeptO Q G (execTrngOk s) := by
  unfold Sys2Proof.Machine.execTrngOk
  with_reducible repeat' first
    | assumption | apply Kept.setBit | apply Kept.forEach | apply Kept.startEpoch | apply Kept.queueHello
    | apply Kept.sendChallenge | apply KeptO.next | simp only [Kept.upd] | simp only [Kept.updTop] | simp only [Kept.updHif]
    | simp only [Kept.updSpill] | simp only [Kept.updJrn] | dsimp only | split | intro

theorem Kept.tablesWiped (s : State) (hk : Kept Q G s) : Kept Q G (tablesWiped s) := by
  unfold Sys2Proof.Machine.tablesWiped
  with_reducible repeat' first
    | assumption | apply Kept.setBringup | apply Kept.openStage | simp only [Kept.upd] | simp only [Kept.updTop]
    | simp only [Kept.updHif] | simp only [Kept.updSpill] | simp only [Kept.updJrn] | dsimp only | split | intro

theorem Kept.execTableWipeComplete (s : State) (hk : Kept Q G s) : KeptO Q G (execTableWipeComplete s) := by
  unfold Sys2Proof.Machine.execTableWipeComplete
  with_reducible repeat' first
    | assumption | apply Kept.runHeld | apply Kept.tablesWiped | apply KeptO.next | simp only [Kept.upd]
    | simp only [Kept.updTop] | simp only [Kept.updHif] | simp only [Kept.updSpill] | simp only [Kept.updJrn] | dsimp only
    | split | intro

theorem Kept.startWipe (s : State) (m : Nat) (hk : Kept Q G s) : Kept Q G (startWipe s m) := by
  unfold Sys2Proof.Machine.startWipe
  with_reducible repeat' first
    | assumption | simp only [Kept.upd] | simp only [Kept.updTop] | simp only [Kept.updHif] | simp only [Kept.updSpill]
    | simp only [Kept.updJrn] | dsimp only | split | intro

theorem Kept.stackReady (s : State) (m : Nat) (hk : Kept Q G s) : Kept Q G (stackReady s m) := by
  unfold Sys2Proof.Machine.stackReady
  with_reducible repeat' first
    | assumption | apply Kept.raise | apply Kept.setBringup | simp only [Kept.upd] | simp only [Kept.updTop]
    | simp only [Kept.updHif] | simp only [Kept.updSpill] | simp only [Kept.updJrn] | dsimp only | split | intro

theorem Kept.execHbmPhyTrained (stack : Nat) (failedCh : List Nat) (s : State) (hk : Kept Q G s)
    : KeptO Q G (execHbmPhyTrained stack failedCh s) := by
  unfold Sys2Proof.Machine.execHbmPhyTrained
  with_reducible repeat' first
    | assumption | apply Kept.setBit | apply Kept.setF | apply Kept.forEach | apply Kept.retireChannel
    | apply Kept.stackReady | apply Kept.startWipe | apply Kept.foldl | apply Kept.foldl1 | apply KeptO.next
    | simp only [Kept.upd] | simp only [Kept.updTop] | simp only [Kept.updHif] | simp only [Kept.updSpill]
    | simp only [Kept.updJrn] | dsimp only | split | intro

theorem Kept.wipedStack (s : State) (m : Nat) (hk : Kept Q G s) : Kept Q G (wipedStack s m) := by
  unfold Sys2Proof.Machine.wipedStack
  have h := Kept.forEach ((List.range 16).filter fun c => !(retiredCh s m).testBit c)
    (fun s c => Machine.pmcAdd s (0x880 + 16 * m + c) (8 * 6291456)) s (fun t x ht => Kept.pmcAdd _ _ _ ht) hk
  exact Kept.setF _ _ _ _ _ (Kept.setBit _ _ _ _ (Kept.withHbm h fun h => mapWfFrom_filter h))

theorem Kept.execHbmWipeComplete (stack : Nat) (failedCh : List Nat) (s : State) (hk : Kept Q G s)
    : KeptO Q G (execHbmWipeComplete stack failedCh s) := by
  unfold Sys2Proof.Machine.execHbmWipeComplete
  with_reducible repeat' first
    | assumption | apply Kept.forEach | apply Kept.retireChannel | apply Kept.stackReady | apply Kept.wipedStack
    | apply KeptO.next | simp only [Kept.upd] | simp only [Kept.updTop] | simp only [Kept.updHif] | simp only [Kept.updSpill]
    | simp only [Kept.updJrn] | dsimp only | split | intro

theorem Kept.bootVerified (s : State) (hk : Kept Q G s) : Kept Q G (bootVerified s) := by
  unfold Sys2Proof.Machine.bootVerified
  with_reducible repeat' first
    | assumption | apply Kept.whenB | apply Kept.raise | apply Kept.forEach | apply Kept.secCount | simp only [Kept.upd]
    | simp only [Kept.updTop] | simp only [Kept.updHif] | simp only [Kept.updSpill] | simp only [Kept.updJrn] | dsimp only
    | split | intro

theorem Kept.bootPatch (s : State) (hk : Kept Q G s) : Kept Q G (bootPatch s) := by
  unfold Sys2Proof.Machine.bootPatch
  with_reducible repeat' first
    | assumption | apply Kept.sigCount | apply Kept.raisePatchFloor | simp only [Kept.upd] | simp only [Kept.updTop]
    | simp only [Kept.updHif] | simp only [Kept.updSpill] | simp only [Kept.updJrn] | dsimp only | split | intro

theorem Kept.bootCold (s : State) (hk : Kept Q G s) : Kept Q G (bootCold s) := by
  unfold Sys2Proof.Machine.bootCold
  with_reducible repeat' first
    | assumption | apply Kept.whenB | apply Kept.setBit | apply Kept.forEach | apply Kept.setReg | apply Kept.bootPatch
    | apply Kept.setScl | simp only [Kept.upd] | simp only [Kept.updTop] | simp only [Kept.updHif]
    | simp only [Kept.updSpill] | simp only [Kept.updJrn] | dsimp only | split | intro

theorem Kept.logStart (s : State) (cold : Bool) (svn : Nat) (hk : Kept Q G s) : Kept Q G (logStart s cold svn) := by
  unfold Sys2Proof.Machine.logStart
  with_reducible repeat' first
    | assumption | apply Kept.jrnLog | simp only [Kept.upd] | simp only [Kept.updTop] | simp only [Kept.updHif]
    | simp only [Kept.updSpill] | simp only [Kept.updJrn] | dsimp only | split | intro

theorem Kept.firmwareRuns (s : State) (hk : Kept Q G s) : Kept Q G (firmwareRuns s) := by
  unfold Sys2Proof.Machine.firmwareRuns
  with_reducible repeat' first
    | assumption | apply Kept.mailTake | apply Kept.landsFirmware | apply Kept.jrnFlush | apply Kept.forEach
    | apply Kept.serveAsked | apply Kept.answerProposals | apply Kept.runHeld | apply Kept.cartDone | simp only [Kept.upd]
    | simp only [Kept.updTop] | simp only [Kept.updHif] | simp only [Kept.updSpill] | simp only [Kept.updJrn] | dsimp only
    | split | intro

theorem Kept.firmwareStarted (bad : List JrnRec) (code svn : Nat) (s : State) (hk : Kept Q G s)
    : Kept Q G (firmwareStarted bad code svn s) := by
  unfold Sys2Proof.Machine.firmwareStarted
  with_reducible repeat' first
    | assumption | rfl | exact fun h => h | apply Kept.setTop | apply Kept.bootVerified | apply Kept.whenB
    | apply Kept.bootCold | apply Kept.journalStart | apply Kept.raiseFwFloor | apply Kept.setBringup | apply Kept.logStart
    | simp only [Kept.upd] | simp only [Kept.updTop] | simp only [Kept.updHif] | simp only [Kept.updSpill]
    | simp only [Kept.updJrn] | dsimp only | split | intro

theorem Kept.bootFirmware (bad : List JrnRec) (s : State) (hk : Kept Q G s) : Kept Q G (bootFirmware bad s) := by
  unfold Sys2Proof.Machine.bootFirmware
  with_reducible repeat' first
    | assumption | apply Kept.bootVerified | apply Kept.firmwareRuns | apply Kept.firmwareStarted | simp only [Kept.upd]
    | simp only [Kept.updTop] | simp only [Kept.updHif] | simp only [Kept.updSpill] | simp only [Kept.updJrn] | dsimp only
    | split | intro

theorem Kept.execFirmwareStart (bad : List JrnRec) (s : State) (hk : Kept Q G s) : KeptO Q G (execFirmwareStart bad s) := by
  unfold Sys2Proof.Machine.execFirmwareStart
  with_reducible repeat' first
    | assumption | apply Kept.bootFirmware | apply KeptO.next | simp only [Kept.upd] | simp only [Kept.updTop]
    | simp only [Kept.updHif] | simp only [Kept.updSpill] | simp only [Kept.updJrn] | dsimp only | split | intro

theorem Kept.execJtagCoreRelease (s : State) (hk : Kept Q G s) : KeptO Q G (execJtagCoreRelease s) := by
  unfold Sys2Proof.Machine.execJtagCoreRelease
  with_reducible repeat' first
    | assumption | rfl | exact fun h => h | apply Kept.setTop | apply Kept.setLands | apply Kept.landsFlash
    | apply KeptO.next | simp only [Kept.upd] | simp only [Kept.updTop] | simp only [Kept.updHif] | simp only [Kept.updSpill]
    | simp only [Kept.updJrn] | dsimp only | split | intro

theorem Kept.controlStart (s : State) (hk : Kept Q G s) : Kept Q G (controlStart s) := by
  unfold Sys2Proof.Machine.controlStart
  with_reducible repeat' first
    | assumption | rfl | exact fun h => h | apply Kept.clearBringup | apply Kept.setTop | apply Kept.forEach
    | apply Kept.complete | apply Kept.mailRespond | apply Kept.foldl | apply Kept.foldl1 | simp only [Kept.upd]
    | simp only [Kept.updTop] | simp only [Kept.updHif] | simp only [Kept.updSpill] | simp only [Kept.updJrn] | dsimp only
    | split | intro

theorem Kept.execControlReset (s : State) (hk : Kept Q G s) : KeptO Q G (execControlReset s) := by
  unfold Sys2Proof.Machine.execControlReset
  with_reducible repeat' first
    | assumption | apply Kept.controlStart | apply KeptO.next | simp only [Kept.upd] | simp only [Kept.updTop]
    | simp only [Kept.updHif] | simp only [Kept.updSpill] | simp only [Kept.updJrn] | dsimp only | split | intro

theorem Kept.execControlResetComplete (bad : List JrnRec) (s : State) (hk : Kept Q G s)
    : KeptO Q G (execControlResetComplete bad s) := by
  unfold Sys2Proof.Machine.execControlResetComplete
  with_reducible repeat' first
    | assumption | apply Kept.bootFirmware | apply KeptO.next | simp only [Kept.upd] | simp only [Kept.updTop]
    | simp only [Kept.updHif] | simp only [Kept.updSpill] | simp only [Kept.updJrn] | dsimp only | split | intro

theorem Kept.execCoreWatchdogExpiry (core : Nat) (s : State) (hk : Kept Q G s)
    : KeptO Q G (execCoreWatchdogExpiry core s) := by
  unfold Sys2Proof.Machine.execCoreWatchdogExpiry
  with_reducible repeat' first
    | assumption | apply Kept.controlStart | apply KeptO.next | simp only [Kept.upd] | simp only [Kept.updTop]
    | simp only [Kept.updHif] | simp only [Kept.updSpill] | simp only [Kept.updJrn] | dsimp only | split | intro

theorem Kept.resetPipe (p : Nat) (s : State) (hk : Kept Q G s) : Kept Q G (resetPipe p s) := by
  unfold Sys2Proof.Machine.resetPipe
  with_reducible repeat' first
    | assumption | apply Kept.dropInPipe | apply Kept.forEach | apply Kept.setStall | apply Kept.clearPauses
    | apply Kept.foldl | apply Kept.foldl1 | simp only [Kept.upd] | simp only [Kept.updTop] | simp only [Kept.updHif]
    | simp only [Kept.updSpill] | simp only [Kept.updJrn] | dsimp only | split | intro

theorem Kept.resetPort (s : State) (l : Nat) (hk : Kept Q G s) : Kept Q G (resetPort s l) := by
  unfold Sys2Proof.Machine.resetPort
  with_reducible repeat' first
    | assumption | apply Kept.ainumDown | apply Kept.modPort | apply Kept.enterState | simp only [Kept.upd]
    | simp only [Kept.updTop] | simp only [Kept.updHif] | simp only [Kept.updSpill] | simp only [Kept.updJrn] | dsimp only
    | split | intro

theorem Kept.resetLanes (g : Nat) (s : State) (hk : Kept Q G s) : Kept Q G (resetLanes g s) := by
  unfold Sys2Proof.Machine.resetLanes
  with_reducible repeat' first
    | assumption | apply Kept.forEach | apply Kept.cutArriving | apply Kept.dropPacket | apply Kept.resetPort
    | simp only [Kept.upd] | simp only [Kept.updTop] | simp only [Kept.updHif] | simp only [Kept.updSpill]
    | simp only [Kept.updJrn] | dsimp only | split | intro

theorem Kept.faultLookups (h : Nat) (s : State) (hk : Kept Q G s) : Kept Q G (faultLookups h s) := by
  unfold Sys2Proof.Machine.faultLookups
  with_reducible repeat' first
    | assumption | simp only [Kept.upd] | simp only [Kept.updTop] | simp only [Kept.updHif] | simp only [Kept.updSpill]
    | simp only [Kept.updJrn] | dsimp only | split | intro

theorem Kept.abandonReads (mine : Xfer → Bool) (s : State) (hk : Kept Q G s) : Kept Q G (abandonReads mine s) := by
  unfold Sys2Proof.Machine.abandonReads
  with_reducible repeat' first
    | assumption | apply Kept.forEach | apply Kept.dropXfer | apply Kept.freeDrain | apply Kept.setSpq | simp only [Kept.upd]
    | simp only [Kept.updTop] | simp only [Kept.updHif] | simp only [Kept.updSpill] | simp only [Kept.updJrn] | dsimp only
    | split | intro

theorem Kept.resetPhy (m : Nat) (s : State) (hk : Kept Q G s) : Kept Q G (resetPhy m s) := by
  unfold Sys2Proof.Machine.resetPhy
  with_reducible repeat' first
    | assumption | apply Kept.setBit | apply Kept.clearBringup | apply Kept.abandonReads | simp only [Kept.upd]
    | simp only [Kept.updTop] | simp only [Kept.updHif] | simp only [Kept.updSpill] | simp only [Kept.updJrn] | dsimp only
    | split | intro

theorem Kept.resetSecurity (s : State) (hk : Kept Q G s) : Kept Q G (resetSecurity s) := by
  unfold Sys2Proof.Machine.resetSecurity
  with_reducible repeat' first
    | assumption | apply Kept.forEach | apply Kept.complete | apply Kept.endSession | apply Kept.wipeSlots
    | simp only [Kept.upd] | simp only [Kept.updTop] | simp only [Kept.updHif] | simp only [Kept.updSpill]
    | simp only [Kept.updJrn] | dsimp only | split | intro

theorem Kept.islandEffect (n : Nat) (s : State) (hk : Kept Q G s) : Kept Q G (islandEffect n s) := by
  unfold Sys2Proof.Machine.islandEffect
  with_reducible repeat' first
    | assumption | apply Kept.resetPipe | apply Kept.resetLanes | apply Kept.faultLookups | apply Kept.abandonReads
    | apply Kept.resetPhy | apply Kept.resetSecurity | simp only [Kept.upd] | simp only [Kept.updTop]
    | simp only [Kept.updHif] | simp only [Kept.updSpill] | simp only [Kept.updJrn] | dsimp only | split | intro

theorem Kept.startIsland (s : State) (n : Nat) (hk : Kept Q G s) : Kept Q G (startIsland s n) := by
  unfold Sys2Proof.Machine.startIsland
  with_reducible repeat' first
    | assumption | rfl | exact fun h => h | apply Kept.islandEffect | apply Kept.setTop | simp only [Kept.upd]
    | simp only [Kept.updTop] | simp only [Kept.updHif] | simp only [Kept.updSpill] | simp only [Kept.updJrn] | dsimp only
    | split | intro

theorem Kept.execIslResetIsland (island : Nat) (s : State) (hk : Kept Q G s) : KeptO Q G (execIslResetIsland island s) := by
  unfold Sys2Proof.Machine.execIslResetIsland
  with_reducible repeat' first
    | assumption | rfl | exact fun h => h | apply Kept.setBit | apply Kept.setTop | apply Kept.startIsland | apply Kept.setF
    | apply KeptO.next | simp only [Kept.upd] | simp only [Kept.updTop] | simp only [Kept.updHif] | simp only [Kept.updSpill]
    | simp only [Kept.updJrn] | dsimp only | split | intro

theorem Kept.execIslResetControl (s : State) (hk : Kept Q G s) : KeptO Q G (execIslResetControl s) := by
  unfold Sys2Proof.Machine.execIslResetControl
  with_reducible repeat' first
    | assumption | apply Kept.controlStart | apply Kept.setBit | apply KeptO.next | simp only [Kept.upd]
    | simp only [Kept.updTop] | simp only [Kept.updHif] | simp only [Kept.updSpill] | simp only [Kept.updJrn] | dsimp only
    | split | intro

theorem Kept.execIslResetCold (s : State) (hk : Kept Q G s) : KeptO Q G (execIslResetCold s) := by
  unfold Sys2Proof.Machine.execIslResetCold
  with_reducible repeat' first
    | assumption | apply Kept.coldReset | apply KeptO.next | simp only [Kept.upd] | simp only [Kept.updTop]
    | simp only [Kept.updHif] | simp only [Kept.updSpill] | simp only [Kept.updJrn] | dsimp only | split | intro

theorem Kept.islandEnd (n : Nat) (s : State) (hk : Kept Q G s) : Kept Q G (islandEnd n s) := by
  unfold Sys2Proof.Machine.islandEnd
  with_reducible repeat' first
    | assumption | apply Kept.forEach | apply Kept.takeSwitch | simp only [Kept.upd] | simp only [Kept.updTop]
    | simp only [Kept.updHif] | simp only [Kept.updSpill] | simp only [Kept.updJrn] | dsimp only | split | intro

theorem Kept.leaveIsland (n : Nat) (s : State) (hk : Kept Q G s) : Kept Q G (leaveIsland n s) := by
  unfold Sys2Proof.Machine.leaveIsland
  with_reducible repeat' first
    | assumption | rfl | exact fun h => h | apply Kept.setTop | apply Kept.raise | apply Kept.islandEnd | apply Kept.setBit
    | apply Kept.forEach | apply Kept.actionDone | simp only [Kept.upd] | simp only [Kept.updTop] | simp only [Kept.updHif]
    | simp only [Kept.updSpill] | simp only [Kept.updJrn] | dsimp only | split | intro

theorem Kept.execEscIsland (src : Nat) (s : State) (hk : Kept Q G s) : KeptO Q G (execEscIsland src s) := by
  unfold Sys2Proof.Machine.execEscIsland
  with_reducible repeat' first
    | assumption | apply Kept.beginAction | apply Kept.actionDone | apply Kept.raise | apply Kept.add64
    | apply Kept.startIsland | apply Kept.listWaits | apply KeptO.next | simp only [Kept.upd] | simp only [Kept.updTop]
    | simp only [Kept.updHif] | simp only [Kept.updSpill] | simp only [Kept.updJrn] | dsimp only | split | intro

theorem Kept.execEscControl (src : Nat) (s : State) (hk : Kept Q G s) : KeptO Q G (execEscControl src s) := by
  unfold Sys2Proof.Machine.execEscControl
  with_reducible repeat' first
    | assumption | apply Kept.beginAction | apply Kept.actionDone | apply Kept.controlStart | apply KeptO.next
    | simp only [Kept.upd] | simp only [Kept.updTop] | simp only [Kept.updHif] | simp only [Kept.updSpill]
    | simp only [Kept.updJrn] | dsimp only | split | intro

theorem Kept.execEscCold (src : Nat) (s : State) (hk : Kept Q G s) : KeptO Q G (execEscCold src s) := by
  unfold Sys2Proof.Machine.execEscCold
  with_reducible repeat' first
    | assumption | apply Kept.beginAction | apply Kept.coldReset | apply KeptO.next | simp only [Kept.upd]
    | simp only [Kept.updTop] | simp only [Kept.updHif] | simp only [Kept.updSpill] | simp only [Kept.updJrn] | dsimp only
    | split | intro

theorem Kept.execEscPortOff (src : Nat) (s : State) (hk : Kept Q G s) : KeptO Q G (execEscPortOff src s) := by
  unfold Sys2Proof.Machine.execEscPortOff
  with_reducible repeat' first
    | assumption | apply Kept.beginAction | apply Kept.writeDone | apply Kept.holdWrite | apply Kept.portDown
    | apply KeptO.next | simp only [Kept.upd] | simp only [Kept.updTop] | simp only [Kept.updHif] | simp only [Kept.updSpill]
    | simp only [Kept.updJrn] | dsimp only | split | intro

theorem Kept.execEscLoseStack (src : Nat) (s : State) (hk : Kept Q G s) : KeptO Q G (execEscLoseStack src s) := by
  unfold Sys2Proof.Machine.execEscLoseStack
  with_reducible repeat' first
    | assumption | apply Kept.beginAction | apply Kept.actionDone | apply Kept.loseStack | apply KeptO.next
    | simp only [Kept.upd] | simp only [Kept.updTop] | simp only [Kept.updHif] | simp only [Kept.updSpill]
    | simp only [Kept.updJrn] | dsimp only | split | intro

theorem Kept.latchLow (s : State) (rq : Requester) (a : Nat) (hk : Kept Q G s) : Kept Q G (latchLow s rq a) := by
  unfold Sys2Proof.Machine.latchLow
  with_reducible repeat' first
    | assumption | apply Kept.setLatch | simp only [Kept.upd] | simp only [Kept.updTop] | simp only [Kept.updHif]
    | simp only [Kept.updSpill] | simp only [Kept.updJrn] | dsimp only | split | intro

theorem Kept.clearRc (s : State) (a : Nat) (hk : Kept Q G s) : Kept Q G (clearRc s a) := by
  unfold Sys2Proof.Machine.clearRc
  with_reducible repeat' first
    | assumption | apply Kept.setReg | simp only [Kept.upd] | simp only [Kept.updTop] | simp only [Kept.updHif]
    | simp only [Kept.updSpill] | simp only [Kept.updJrn] | dsimp only | split | intro

theorem Kept.readReg (s : State) (rq : Requester) (a : Nat) (hk : Kept Q G s) : Kept Q G (readReg s rq a).2 := by
  unfold Sys2Proof.Machine.readReg
  with_reducible repeat' first
    | assumption | apply Kept.hifErr | apply Kept.latchLow | apply Kept.latchNow | apply Kept.clearRc | split

theorem Kept.readAt (rq : Requester) (a : Nat) (pair : Bool) (s : State) (hk : Kept Q G s) : Kept Q G (readAt rq a pair s) := by
  unfold Sys2Proof.Machine.readAt
  with_reducible repeat' first
    | assumption | apply Kept.emit | apply Kept.readReg | dsimp only | split

theorem Kept.readEffect (s : State) (rq : Requester) (a : Nat) (pair : Bool) (hk : Kept Q G s)
    : Kept Q G (readEffect s rq a pair) := by
  unfold Sys2Proof.Machine.readEffect
  with_reducible repeat' first
    | assumption | apply Kept.atCrossing | apply Kept.readAt | simp only [Kept.upd] | simp only [Kept.updTop]
    | simp only [Kept.updHif] | simp only [Kept.updSpill] | simp only [Kept.updJrn] | dsimp only | split | intro

theorem Kept.execRcCounterRead (addr : Nat) (s : State) (hk : Kept Q G s) : KeptO Q G (execRcCounterRead addr s) := by
  unfold Sys2Proof.Machine.execRcCounterRead
  with_reducible repeat' first
    | assumption | apply Kept.readEffect | apply KeptO.next | simp only [Kept.upd] | simp only [Kept.updTop]
    | simp only [Kept.updHif] | simp only [Kept.updSpill] | simp only [Kept.updJrn] | dsimp only | split | intro

theorem Kept.execReg64LowWordRead (rq : Requester) (addr : Nat) (s : State) (hk : Kept Q G s)
    : KeptO Q G (execReg64LowWordRead rq addr s) := by
  unfold Sys2Proof.Machine.execReg64LowWordRead
  with_reducible repeat' first
    | assumption | apply Kept.readEffect | apply KeptO.next | simp only [Kept.upd] | simp only [Kept.updTop]
    | simp only [Kept.updHif] | simp only [Kept.updSpill] | simp only [Kept.updJrn] | dsimp only | split | intro

theorem Kept.islResetWrite (v : Word) (s : State) (hk : Kept Q G s) : Kept Q G (islResetWrite v s) := by
  unfold Sys2Proof.Machine.islResetWrite
  with_reducible repeat' first
    | assumption | apply Kept.rowState | apply Kept.execIslResetIsland | apply Kept.execIslResetControl
    | apply Kept.execIslResetCold | simp only [Kept.upd] | simp only [Kept.updTop] | simp only [Kept.updHif]
    | simp only [Kept.updSpill] | simp only [Kept.updJrn] | dsimp only | split | intro

theorem Kept.ringCfg (k : RingKind) (n : Nat) (v : Word) (s : State) (hk : Kept Q G s) : Kept Q G (ringCfg k n v s) := by
  unfold Sys2Proof.Machine.ringCfg
  with_reducible repeat' first
    | assumption | apply Kept.rowState | apply Kept.execRingEnable | apply Kept.execRingDisable | simp only [Kept.upd]
    | simp only [Kept.updTop] | simp only [Kept.updHif] | simp only [Kept.updSpill] | simp only [Kept.updJrn] | dsimp only
    | split | intro

theorem Kept.movePart (n old new : Nat) (s : State) (hk : Kept Q G s) : Kept Q G (movePart n old new s) := by
  unfold Sys2Proof.Machine.movePart
  with_reducible repeat' first
    | assumption | apply Kept.addF21 | simp only [Kept.upd] | simp only [Kept.updTop] | simp only [Kept.updHif]
    | simp only [Kept.updSpill] | simp only [Kept.updJrn] | dsimp only | split | intro

theorem Kept.judgeVec (s : State) (v : Nat) (hk : Kept Q G s) : Kept Q G (judgeVec s v) := by
  unfold Sys2Proof.Machine.judgeVec
  with_reducible repeat' first
    | assumption | simp only [Kept.upd] | simp only [Kept.updTop] | simp only [Kept.updHif] | simp only [Kept.updSpill]
    | simp only [Kept.updJrn] | dsimp only | split | intro

theorem Kept.afterWrite (a : Nat) (old v : Word) (s : State) (hk : Kept Q G s) : Kept Q G (afterWrite a old v s) := by
  unfold Sys2Proof.Machine.afterWrite
  with_reducible repeat' first
    | assumption | apply Kept.rowState | apply Kept.execMailboxGo | apply Kept.execOrphanLogClear | apply Kept.judgeVec
    | apply Kept.forEach | apply Kept.setReg | apply Kept.whenB | apply Kept.clearPhases | apply Kept.syncModelOnly
    | apply Kept.execTokenGo | apply Kept.setPolicy | apply Kept.laneLine | apply Kept.setBit | apply Kept.execParCaptureArm
    | apply Kept.movePart | apply Kept.updXoff | apply Kept.splCfgBad | apply Kept.noteClash | apply Kept.execFlowFlush
    | apply Kept.ctxPoll | apply Kept.foldl | apply Kept.foldl1 | simp only [Kept.upd] | simp only [Kept.updTop]
    | simp only [Kept.updHif] | simp only [Kept.updSpill] | simp only [Kept.updJrn] | dsimp only | split | intro

theorem Kept.noteRefused (b : Blk) (r : RegRow) (v : Word) (s : State) (hk : Kept Q G s)
    : Kept Q G (noteRefused b r v s) := by
  unfold Sys2Proof.Machine.noteRefused
  with_reducible repeat' first
    | assumption | apply Kept.sclBad | apply Kept.raise | apply Kept.setBit | simp only [Kept.upd] | simp only [Kept.updTop]
    | simp only [Kept.updHif] | simp only [Kept.updSpill] | simp only [Kept.updJrn] | dsimp only | split | intro

theorem Kept.plainWrite (a : Nat) (v : Word) (s : State) (hk : Kept Q G s) : Kept Q G (plainWrite a v s) := by
  unfold Sys2Proof.Machine.plainWrite
  with_reducible repeat' first
    | assumption | apply Kept.noteRefused | apply Kept.setReg | apply Kept.afterWrite | simp only [Kept.upd]
    | simp only [Kept.updTop] | simp only [Kept.updHif] | simp only [Kept.updSpill] | simp only [Kept.updJrn] | dsimp only
    | split | intro

theorem Kept.dropLow (s : State) (rq : Requester) (a : Nat) (hk : Kept Q G s) : Kept Q G (dropLow s rq a) := by
  unfold Sys2Proof.Machine.dropLow
  with_reducible repeat' first
    | assumption | simp only [Kept.upd] | simp only [Kept.updTop] | simp only [Kept.updHif] | simp only [Kept.updSpill]
    | simp only [Kept.updJrn] | dsimp only | split | intro

theorem Kept.holdLow (s : State) (rq : Requester) (a : Nat) (v : Word) (hk : Kept Q G s) : Kept Q G (holdLow s rq a v) := by
  unfold Sys2Proof.Machine.holdLow
  with_reducible repeat' first
    | assumption | apply Kept.dropLow | simp only [Kept.upd] | simp only [Kept.updTop] | simp only [Kept.updHif]
    | simp only [Kept.updSpill] | simp only [Kept.updJrn] | dsimp only | split | intro

theorem Kept.applyWide (a : Nat) (lo hi : Word) (s : State) (hk : Kept Q G s) : Kept Q G (applyWide a lo hi s) := by
  unfold Sys2Proof.Machine.applyWide
  with_reducible repeat' first
    | assumption | apply Kept.rowState | apply Kept.execActionsWrite | apply Kept.plainWrite | simp only [Kept.upd]
    | simp only [Kept.updTop] | simp only [Kept.updHif] | simp only [Kept.updSpill] | simp only [Kept.updJrn] | dsimp only
    | split | intro

theorem Kept.wideWrite (s : State) (a : Nat) (lo : Option Word) (hi : Word) (hk : Kept Q G s)
    : Kept Q G (wideWrite s a lo hi) := by
  unfold Sys2Proof.Machine.wideWrite
  with_reducible repeat' first
    | assumption | apply Kept.atCrossing | apply Kept.applyWide | simp only [Kept.upd] | simp only [Kept.updTop]
    | simp only [Kept.updHif] | simp only [Kept.updSpill] | simp only [Kept.updJrn] | dsimp only | split | intro

theorem Kept.writeHigh (s : State) (rq : Requester) (a : Nat) (v : Word) (hk : Kept Q G s)
    : Kept Q G (writeHigh s rq a v) := by
  unfold Sys2Proof.Machine.writeHigh
  with_reducible repeat' first
    | assumption | apply Kept.wideWrite | apply Kept.dropLow | simp only [Kept.upd] | simp only [Kept.updTop]
    | simp only [Kept.updHif] | simp only [Kept.updSpill] | simp only [Kept.updJrn] | dsimp only | split | intro

theorem Kept.stallRegWrite (n o : Nat) (v : Word) (s : State) (hk : Kept Q G s) :
    ∀ t, stallRegWrite n o v s = some t → Kept Q G t := by
  intro t ht
  unfold Sys2Proof.Machine.stallRegWrite at ht
  repeat' split at ht
  all_goals cases ht
  all_goals repeat' first
    | with_reducible assumption | with_reducible apply Kept.rowState | with_reducible apply Kept.stallCtrl
    | with_reducible apply Kept.execStateRead | with_reducible apply Kept.execStateWrite
    | with_reducible apply Kept.execMeterRead | with_reducible apply Kept.execMeterWrite | dsimp only | split

theorem Kept.ownRow (a : Nat) (v : Word) (s : State) (hk : Kept Q G s) :
    ∀ t, ownRow a v s = some t → Kept Q G t := by
  intro t ht
  unfold Sys2Proof.Machine.ownRow at ht
  split at ht
  case h_2 =>
    simp only [Option.map_eq_some_iff] at ht
    obtain ⟨x, _, rfl⟩ := ht
    exact Kept.ringCfg _ _ _ _ hk
  case h_8 => 
    try dsimp only at ht
    split at ht
    · exact Kept.stallRegWrite _ _ _ _ hk _ ht
    · cases ht
  all_goals try dsimp only at ht
  all_goals repeat' split at ht
  all_goals cases ht
  all_goals repeat' first
    | with_reducible assumption | with_reducible apply Kept.rowState | with_reducible apply Kept.islResetWrite
    | with_reducible apply Kept.execSourceForce | with_reducible apply Kept.execSrcCfgWrite | with_reducible apply Kept.execVecEoi
    | with_reducible apply Kept.execEscAck | with_reducible apply Kept.execAbsWrite | with_reducible apply Kept.execRefSelWrite
    | with_reducible apply Kept.execFreqWrite | with_reducible apply Kept.execPulseStop | with_reducible apply Kept.execPulseArm
    | with_reducible apply Kept.execOctCfgWrite | with_reducible apply Kept.execPortCfgWrite | with_reducible apply Kept.execCarveWrite
    | with_reducible apply Kept.execReserveWrite | with_reducible apply Kept.execBankRetire | with_reducible apply Kept.execChRetire
    | with_reducible apply Kept.execDiagCellRead | with_reducible apply Kept.execDiagCellWrite | with_reducible apply Kept.execPortQWrite
    | with_reducible apply Kept.execRawRowRead | with_reducible apply Kept.execRawRowWrite | with_reducible apply Kept.execDescWrite
    | with_reducible apply Kept.execHashCfgWrite | with_reducible apply Kept.execPmcCountWrite | dsimp only | split

theorem Kept.busWrite (s : State) (rq : Requester) (a : Nat) (v : Word) (hk : Kept Q G s) :
    Kept Q G (busWrite s rq a v) := by
  unfold Sys2Proof.Machine.busWrite
  repeat' first
    | with_reducible assumption | with_reducible apply Kept.hifErr | with_reducible apply Kept.holdLow
    | with_reducible apply Kept.writeHigh | with_reducible apply Kept.holdWrite | with_reducible apply Kept.plainWrite
    | exact Kept.ownRow _ _ _ hk _ (by assumption) | split | intro

theorem Kept.execRegisterWrite (addr : Nat) (value : Word) (s : State) (hk : Kept Q G s)
    : KeptO Q G (execRegisterWrite addr value s) := by
  unfold Sys2Proof.Machine.execRegisterWrite
  with_reducible repeat' first
    | assumption | apply Kept.busWrite | apply KeptO.next | simp only [Kept.upd] | simp only [Kept.updTop]
    | simp only [Kept.updHif] | simp only [Kept.updSpill] | simp only [Kept.updJrn] | dsimp only | split | intro

theorem Kept.execReg64LowWordWrite (rq : Requester) (addr : Nat) (value : Word) (s : State) (hk : Kept Q G s)
    : KeptO Q G (execReg64LowWordWrite rq addr value s) := by
  unfold Sys2Proof.Machine.execReg64LowWordWrite
  with_reducible repeat' first
    | assumption | apply Kept.holdLow | apply KeptO.next | simp only [Kept.upd] | simp only [Kept.updTop]
    | simp only [Kept.updHif] | simp only [Kept.updSpill] | simp only [Kept.updJrn] | dsimp only | split | intro

theorem Kept.execReg64HighWordWrite (rq : Requester) (addr : Nat) (value : Word) (s : State) (hk : Kept Q G s)
    : KeptO Q G (execReg64HighWordWrite rq addr value s) := by
  unfold Sys2Proof.Machine.execReg64HighWordWrite
  with_reducible repeat' first
    | assumption | apply Kept.writeHigh | apply KeptO.next | simp only [Kept.upd] | simp only [Kept.updTop]
    | simp only [Kept.updHif] | simp only [Kept.updSpill] | simp only [Kept.updJrn] | dsimp only | split | intro

theorem Kept.execBar0BadAccess (write : Bool) (addr size : Nat) (dwords : List (Word × Bool)) (s : State) (hk : Kept Q G s)
    : KeptO Q G (execBar0BadAccess write addr size dwords s) := by
  unfold Sys2Proof.Machine.execBar0BadAccess
  with_reducible repeat' first
    | assumption | apply Kept.readEffect | apply Kept.hifErr | apply Kept.emit | apply Kept.forEach | apply Kept.busWrite
    | apply KeptO.next | simp only [Kept.upd] | simp only [Kept.updTop] | simp only [Kept.updHif] | simp only [Kept.updSpill]
    | simp only [Kept.updJrn] | dsimp only | split | intro

theorem Kept.applyHeld (s : State) (h : Held) (hk : Kept Q G s) : Kept Q G (applyHeld s h) := by
  unfold Sys2Proof.Machine.applyHeld
  with_reducible repeat' first
    | assumption | apply Kept.busWrite | apply Kept.wideWrite | apply Kept.readEffect | simp only [Kept.upd]
    | simp only [Kept.updTop] | simp only [Kept.updHif] | simp only [Kept.updSpill] | simp only [Kept.updJrn] | dsimp only
    | split | intro

theorem Kept.drainHeld (island : Nat) (s : State) (hk : Kept Q G s) : Kept Q G (drainHeld island s) := by
  unfold Sys2Proof.Machine.drainHeld
  with_reducible repeat' first
    | assumption | rfl | exact fun h => h | apply Kept.forEach | apply Kept.applyHeld | apply Kept.setTop
    | simp only [Kept.upd] | simp only [Kept.updTop] | simp only [Kept.updHif] | simp only [Kept.updSpill]
    | simp only [Kept.updJrn] | dsimp only | split | intro

theorem Kept.execIslandResetComplete (island : Nat) (s : State) (hk : Kept Q G s)
    : KeptO Q G (execIslandResetComplete island s) := by
  unfold Sys2Proof.Machine.execIslandResetComplete
  with_reducible repeat' first
    | assumption | apply Kept.drainHeld | apply Kept.leaveIsland | apply KeptO.next | simp only [Kept.upd]
    | simp only [Kept.updTop] | simp only [Kept.updHif] | simp only [Kept.updSpill] | simp only [Kept.updJrn] | dsimp only
    | split | intro

theorem Kept.execClerkOpInForce (s : State) (hk : Kept Q G s) : KeptO Q G (execClerkOpInForce s) := by
  unfold Sys2Proof.Machine.execClerkOpInForce
  with_reducible repeat' first
    | assumption | apply Kept.drainHeld | apply Kept.clerkInForce | apply KeptO.next | simp only [Kept.upd]
    | simp only [Kept.updTop] | simp only [Kept.updHif] | simp only [Kept.updSpill] | simp only [Kept.updJrn] | dsimp only
    | split | intro

end Sys2Proof.Laws
end

