-- ==== Sys2Proof/Laws/Only.lean ====
section
/-!
SUPPORT. Frames, said once for each operation: from `s0` to the state that an operation makes nothing changes but the parts of
the state listed in `fr`, which have those that the operation writes.
-/
namespace Sys2Proof.Laws

open Sys2Proof.Machine

variable {fr : List Part} {s0 : State}

/-- The frame of an outcome's next state. -/
def OnlyO (fr : List Part) (s0 : State) (o : Host.Outcome State Fault Refusal) : Prop :=
  match o with
  | .next t => Only fr s0 t
  | .fault _ => True
  | .refused _ => True

theorem Only.refl (s : State) : Only fr s s := fun p _ => by cases p <;> rfl

theorem OnlyO.next {s : State} (h : Only fr s0 s) : OnlyO fr s0 (.next s) := h

/-- A frame of a state written out field by field. -/
def OnlyMk (fr : List Part) (s0 : State)
    (x_pending : type_of% s0.pending) (x_regs : type_of% s0.regs) (x_prog : type_of% s0.prog) (x_clock : type_of%
    s0.clock) (x_elapsed : type_of% s0.elapsed) (x_freeCtr : type_of% s0.freeCtr) (x_journal : type_of% s0.journal) (x_owed : type_of% s0.owed) (x_lastRaise : type_of% s0.lastRaise) (x_top : type_of% s0.top) (x_hif :
    type_of% s0.hif) (x_prg : type_of% s0.prg) (x_ports : type_of% s0.ports) (x_pipes : type_of% s0.pipes) (x_tables :
    type_of% s0.tables) (x_clerk : type_of% s0.clerk) (x_market : type_of% s0.market) (x_spill : type_of% s0.spill)
    (x_sched : type_of% s0.sched) (x_slots : type_of% s0.slots) (x_pulses : type_of% s0.pulses) (x_ainum : type_of%
    s0.ainum) (x_telem : type_of% s0.telem) (x_crier : type_of% s0.crier) (x_flt : type_of% s0.flt) (x_scales : type_of%
    s0.scales) (x_activity : type_of% s0.activity) (x_bays : type_of% s0.bays) (x_sec : type_of% s0.sec) (x_out : type_of% s0.out) : Prop :=
  Only fr s0 (State.mk x_pending x_regs x_prog x_clock x_elapsed x_freeCtr x_journal x_owed x_lastRaise x_top x_hif x_prg x_ports x_pipes x_tables x_clerk
      x_market x_spill x_sched x_slots x_pulses x_ainum x_telem x_crier x_flt x_scales x_activity x_bays x_sec x_out)

theorem onlyMk {x_pending x_regs x_prog x_clock x_elapsed x_freeCtr x_journal x_owed x_lastRaise x_top x_hif x_prg x_ports x_pipes x_tables x_clerk x_market
    x_spill x_sched x_slots x_pulses x_ainum x_telem x_crier x_flt x_scales x_activity x_bays x_sec x_out} :
    Only fr s0 (State.mk x_pending x_regs x_prog x_clock x_elapsed x_freeCtr x_journal x_owed x_lastRaise x_top x_hif x_prg x_ports x_pipes x_tables x_clerk
      x_market x_spill x_sched x_slots x_pulses x_ainum x_telem x_crier x_flt x_scales x_activity x_bays x_sec x_out) ↔
    OnlyMk fr s0 x_pending x_regs x_prog x_clock x_elapsed x_freeCtr x_journal x_owed x_lastRaise x_top x_hif x_prg x_ports x_pipes x_tables x_clerk x_market
      x_spill x_sched x_slots x_pulses x_ainum x_telem x_crier x_flt x_scales x_activity x_bays x_sec x_out := Iff.rfl

/-- A state written from `s` keeps a frame when each part is that of `s` or may change. -/
theorem OnlyMk.intro {s : State} (hk : Only fr s0 s)
    {x_regs x_prog x_clock x_elapsed x_freeCtr x_journal x_owed x_lastRaise x_top x_hif x_prg x_ports x_pipes x_tables x_clerk x_market x_spill x_sched
    x_slots x_pulses x_ainum x_telem x_crier x_flt x_scales x_activity x_bays x_sec x_out}
    (h_regs : x_regs = s.regs ∨ Part.regs ∈ fr) (h_prog : x_prog = s.prog ∨ Part.prog ∈ fr) (h_clock : x_clock = s.clock ∨
    Part.clock ∈ fr) (h_elapsed : x_elapsed = s.elapsed ∨ Part.elapsed ∈ fr) (h_freeCtr : x_freeCtr = s.freeCtr ∨
    Part.freeCtr ∈ fr) (h_journal : x_journal = s.journal ∨ Part.journal ∈ fr) (h_owed : x_owed = s.owed ∨ Part.owed ∈ fr) (h_lastRaise : x_lastRaise = s.lastRaise ∨ Part.lastRaise ∈ fr) (h_top : x_top = s.top ∨ Part.top ∈ fr) (h_hif : x_hif = s.hif ∨ Part.hif ∈ fr) (h_prg : x_prg =
    s.prg ∨ Part.prg ∈ fr) (h_ports : x_ports = s.ports ∨ Part.ports ∈ fr) (h_pipes : x_pipes = s.pipes ∨ Part.pipes ∈ fr)
    (h_tables : x_tables = s.tables ∨ Part.tables ∈ fr) (h_clerk : x_clerk = s.clerk ∨ Part.clerk ∈ fr) (h_market :
    x_market = s.market ∨ Part.market ∈ fr) (h_spill : x_spill = s.spill ∨ Part.spill ∈ fr) (h_sched : x_sched = s.sched ∨
    Part.sched ∈ fr) (h_slots : x_slots = s.slots ∨ Part.slots ∈ fr) (h_pulses : x_pulses = s.pulses ∨ Part.pulses ∈ fr)
    (h_ainum : x_ainum = s.ainum ∨ Part.ainum ∈ fr) (h_telem : x_telem = s.telem ∨ Part.telem ∈ fr) (h_crier : x_crier =
    s.crier ∨ Part.crier ∈ fr) (h_flt : x_flt = s.flt ∨ Part.flt ∈ fr) (h_scales : x_scales = s.scales ∨ Part.scales ∈ fr)
    (h_activity : x_activity = s.activity ∨ Part.activity ∈ fr) (h_bays : x_bays = s.bays ∨ Part.bays ∈ fr) (h_sec : x_sec = s.sec ∨ Part.sec ∈ fr) (h_out : x_out = s.out ∨ Part.out
    ∈ fr) :
    OnlyMk fr s0 s.pending x_regs x_prog x_clock x_elapsed x_freeCtr x_journal x_owed x_lastRaise x_top x_hif x_prg x_ports x_pipes x_tables x_clerk x_market x_spill x_sched
      x_slots x_pulses x_ainum x_telem x_crier x_flt x_scales x_activity x_bays x_sec x_out := by
  intro p hp
  have h := hk p hp
  cases p
  · exact h
  all_goals simp only [Same] at h ⊢
  all_goals first
    | exact (h_regs.resolve_right hp).trans h | exact (h_prog.resolve_right hp).trans h
    | exact (h_clock.resolve_right hp).trans h | exact (h_elapsed.resolve_right hp).trans h
    | exact (h_lastRaise.resolve_right hp).trans h | exact (h_journal.resolve_right hp).trans h
    | exact (h_owed.resolve_right hp).trans h
    | exact (h_freeCtr.resolve_right hp).trans h | exact (h_top.resolve_right hp).trans h
    | exact (h_hif.resolve_right hp).trans h | exact (h_prg.resolve_right hp).trans h
    | exact (h_ports.resolve_right hp).trans h | exact (h_pipes.resolve_right hp).trans h
    | exact (h_tables.resolve_right hp).trans h | exact (h_clerk.resolve_right hp).trans h
    | exact (h_market.resolve_right hp).trans h | exact (h_spill.resolve_right hp).trans h
    | exact (h_sched.resolve_right hp).trans h | exact (h_slots.resolve_right hp).trans h
    | exact (h_pulses.resolve_right hp).trans h | exact (h_ainum.resolve_right hp).trans h
    | exact (h_telem.resolve_right hp).trans h | exact (h_crier.resolve_right hp).trans h
    | exact (h_flt.resolve_right hp).trans h | exact (h_scales.resolve_right hp).trans h
    | exact (h_activity.resolve_right hp).trans h | exact (h_bays.resolve_right hp).trans h | exact (h_sec.resolve_right hp).trans h
    | exact (h_out.resolve_right hp).trans h

theorem Only.foldl {α : Type} {f : State → α → State} {l : List α} {s : State} (h : Only fr s0 s)
    (hf : ∀ t x, Only fr s0 t → Only fr s0 (f t x)) : Only fr s0 (l.foldl f s) := by
  induction l generalizing s with
  | nil => exact h
  | cons x r ih => exact ih (hf s x h)

theorem Only.foldl1 {α β : Type} {f : State × β → α → State × β} {l : List α} {s : State × β}
    (h : Only fr s0 s.1) (hf : ∀ t x, Only fr s0 t.1 → Only fr s0 (f t x).1) : Only fr s0 (l.foldl f s).1 := by
  induction l generalizing s with
  | nil => exact h
  | cons x r ih => exact ih (hf s x h)

theorem Only.setReg {s : State} {a : Nat} {v : Word} (h : Only fr s0 s) (m_regs : Part.regs ∈ fr) :
    Only fr s0 (setReg s a v) := by
  intro p hp
  have h := h p hp
  cases p <;> first | exact h | exact absurd m_regs hp

end Sys2Proof.Laws
end

