-- ==== Sys2Proof/Laws/OnlyOps.lean ====
section
/-!
SUPPORT. One lemma for each operation of Ops, Lands, Pcie, Counters, Units, Packet, Barrow, Market, Spill, Slots, Clock, Journal: it changes no part of the state but those it names (`Only`).
-/
namespace Sys2Proof.Laws

open Sys2Proof.Machine

variable {fr : List Part} {s0 : State}



theorem Only.setF (s : State) (a hi lo v : Nat) (hk : Only fr s0 s) (m_regs : Part.regs ∈ fr)
    : Only fr s0 (setF s a hi lo v) := by
  unfold Sys2Proof.Machine.setF
  with_reducible repeat' first
    | assumption | apply Only.setReg | exact Or.inl rfl | exact Or.inr (by assumption) | apply OnlyMk.intro
    | simp only [onlyMk] | dsimp only | split | intro

theorem Only.setBit (s : State) (a i : Nat) (b : Bool) (hk : Only fr s0 s) (m_regs : Part.regs ∈ fr)
    : Only fr s0 (setBit s a i b) := by
  unfold Sys2Proof.Machine.setBit
  with_reducible repeat' first
    | assumption | apply Only.setF | exact Or.inl rfl | exact Or.inr (by assumption) | apply OnlyMk.intro
    | simp only [onlyMk] | dsimp only | split | intro

theorem Only.setReg64 (s : State) (a v : Nat) (hk : Only fr s0 s) (m_regs : Part.regs ∈ fr)
    : Only fr s0 (setReg64 s a v) := by
  unfold Sys2Proof.Machine.setReg64
  with_reducible repeat' first
    | assumption | apply Only.setReg | exact Or.inl rfl | exact Or.inr (by assumption) | apply OnlyMk.intro
    | simp only [onlyMk] | dsimp only | split | intro

theorem Only.add64 (s : State) (a n : Nat) (hk : Only fr s0 s) (m_regs : Part.regs ∈ fr) : Only fr s0 (add64 s a n) := by
  unfold Sys2Proof.Machine.add64
  with_reducible repeat' first
    | assumption | apply Only.setReg64 | exact Or.inl rfl | exact Or.inr (by assumption) | apply OnlyMk.intro
    | simp only [onlyMk] | dsimp only | split | intro

theorem Only.satF (s : State) (a hi lo n : Nat) (hk : Only fr s0 s) (m_regs : Part.regs ∈ fr)
    : Only fr s0 (satF s a hi lo n) := by
  unfold Sys2Proof.Machine.satF
  with_reducible repeat' first
    | assumption | apply Only.setF | exact Or.inl rfl | exact Or.inr (by assumption) | apply OnlyMk.intro
    | simp only [onlyMk] | dsimp only | split | intro

theorem Only.whenB (b : Bool) (f : State → State) (s : State) (hf : ∀ t, Only fr s0 t → Only fr s0 (f t)) (hk : Only fr s0 s)
    : Only fr s0 (whenB b f s) := by
  unfold Sys2Proof.Machine.whenB
  with_reducible repeat' first
    | assumption | apply hf | exact Or.inl rfl | exact Or.inr (by assumption) | apply OnlyMk.intro | simp only [onlyMk]
    | dsimp only | split | intro

theorem Only.rowState (o : Host.Outcome State Fault Refusal) (s : State) (hk : Only fr s0 s)
    (ho : OnlyO fr s0 o) : Only fr s0 (rowState o s) := by
  cases o
  · exact ho
  · exact hk
  · exact hk

theorem Only.forEach {α : Type} (l : List α) (f : State → α → State) (s : State)
    (hf : ∀ t x, Only fr s0 t → Only fr s0 (f t x)) (hk : Only fr s0 s) : Only fr s0 (forEach l f s) := by
  unfold Sys2Proof.Machine.forEach
  with_reducible repeat' first
    | assumption | apply hf | apply Only.foldl | apply Only.foldl1 | exact Or.inl rfl | exact Or.inr (by assumption)
    | apply OnlyMk.intro | simp only [onlyMk] | dsimp only | split | intro

theorem Only.drawn (s : State) (hk : Only fr s0 s) (m_freeCtr : Part.freeCtr ∈ fr) : Only fr s0 (drawn s) := by
  unfold Sys2Proof.Machine.drawn
  with_reducible repeat' first
    | assumption | exact Or.inl rfl | exact Or.inr (by assumption) | apply OnlyMk.intro | simp only [onlyMk] | dsimp only
    | split | intro

theorem Only.emit (s : State) (o : Output) (hk : Only fr s0 s) (m_out : Part.out ∈ fr) : Only fr s0 (emit s o) := by
  unfold Sys2Proof.Machine.emit
  with_reducible repeat' first
    | assumption | exact Or.inl rfl | exact Or.inr (by assumption) | apply OnlyMk.intro | simp only [onlyMk] | dsimp only
    | split | intro

theorem Only.noteInterval (s : State) (key : Nat) (hk : Only fr s0 s) (m_lastRaise : Part.lastRaise ∈ fr)
    : Only fr s0 (noteInterval s key) := by
  unfold Sys2Proof.Machine.noteInterval
  with_reducible repeat' first
    | assumption | exact Or.inl rfl | exact Or.inr (by assumption) | apply OnlyMk.intro | simp only [onlyMk] | dsimp only
    | split | intro

theorem Only.countEvent (s : State) (id : Nat) (hk : Only fr s0 s) (m_crier : Part.crier ∈ fr)
    : Only fr s0 (countEvent s id) := by
  unfold Sys2Proof.Machine.countEvent
  with_reducible repeat' first
    | assumption | exact Or.inl rfl | exact Or.inr (by assumption) | apply OnlyMk.intro | simp only [onlyMk] | dsimp only
    | split | intro

theorem Only.wakeCore (s : State) (id : Nat) (hk : Only fr s0 s) (m_crier : Part.crier ∈ fr)
    : Only fr s0 (wakeCore s id) := by
  unfold Sys2Proof.Machine.wakeCore
  with_reducible repeat' first
    | assumption | exact Or.inl rfl | exact Or.inr (by assumption) | apply OnlyMk.intro | simp only [onlyMk] | dsimp only
    | split | intro

theorem Only.pendEvent (s : State) (id : Nat) (hk : Only fr s0 s) (m_crier : Part.crier ∈ fr)
    : Only fr s0 (pendEvent s id) := by
  unfold Sys2Proof.Machine.pendEvent
  with_reducible repeat' first
    | assumption | apply Only.wakeCore | apply Only.countEvent | exact Or.inl rfl | exact Or.inr (by assumption)
    | apply OnlyMk.intro | simp only [onlyMk] | dsimp only | split | intro

theorem Only.startList (s : State) (id : Nat) (hk : Only fr s0 s) (m_regs : Part.regs ∈ fr) (m_owed : Part.owed ∈ fr)
    (m_flt : Part.flt ∈ fr) : Only fr s0 (startList s id) := by
  unfold Sys2Proof.Machine.startList
  with_reducible repeat' first
    | assumption | apply Only.add64 | apply Only.setF | exact Or.inl rfl | exact Or.inr (by assumption) | apply OnlyMk.intro
    | simp only [onlyMk] | dsimp only | split | intro

theorem Only.graceWith (after : State → State) (s : State) (id : Nat) (hf : ∀ t, Only fr s0 t → Only fr s0 (after t))
    (hk : Only fr s0 s) (m_regs : Part.regs ∈ fr) (m_owed : Part.owed ∈ fr) (m_flt : Part.flt ∈ fr)
    : Only fr s0 (graceWith after s id) := by
  unfold Sys2Proof.Machine.graceWith
  with_reducible repeat' first
    | assumption | apply hf | apply Only.startList | apply Only.setBit | exact Or.inl rfl | exact Or.inr (by assumption)
    | apply OnlyMk.intro | simp only [onlyMk] | dsimp only | split | intro

theorem Only.raiseE00 (s : State) (hk : Only fr s0 s) (m_regs : Part.regs ∈ fr) (m_owed : Part.owed ∈ fr)
    (m_crier : Part.crier ∈ fr) (m_flt : Part.flt ∈ fr) : Only fr s0 (raiseE00 s) := by
  unfold Sys2Proof.Machine.raiseE00
  with_reducible repeat' first
    | assumption | apply Only.graceWith | apply Only.pendEvent | exact Or.inl rfl | exact Or.inr (by assumption)
    | apply OnlyMk.intro | simp only [onlyMk] | dsimp only | split | intro

theorem Only.startGrace (s : State) (id : Nat) (hk : Only fr s0 s) (m_regs : Part.regs ∈ fr) (m_owed : Part.owed ∈ fr)
    (m_crier : Part.crier ∈ fr) (m_flt : Part.flt ∈ fr) : Only fr s0 (startGrace s id) := by
  unfold Sys2Proof.Machine.startGrace
  with_reducible repeat' first
    | assumption | apply Only.graceWith | apply Only.raiseE00 | exact Or.inl rfl | exact Or.inr (by assumption)
    | apply OnlyMk.intro | simp only [onlyMk] | dsimp only | split | intro

theorem Only.raise (s : State) (id : Nat) (hk : Only fr s0 s) (m_regs : Part.regs ∈ fr) (m_owed : Part.owed ∈ fr)
    (m_crier : Part.crier ∈ fr) (m_flt : Part.flt ∈ fr) : Only fr s0 (raise s id) := by
  unfold Sys2Proof.Machine.raise
  with_reducible repeat' first
    | assumption | apply Only.startGrace | apply Only.pendEvent | exact Or.inl rfl | exact Or.inr (by assumption)
    | apply OnlyMk.intro | simp only [onlyMk] | dsimp only | split | intro

theorem Only.raiseLimited (s : State) (id ns : Nat) (hk : Only fr s0 s) (m_regs : Part.regs ∈ fr) (m_owed : Part.owed ∈ fr)
    (m_lastRaise : Part.lastRaise ∈ fr) (m_crier : Part.crier ∈ fr) (m_flt : Part.flt ∈ fr)
    : Only fr s0 (raiseLimited s id ns) := by
  unfold Sys2Proof.Machine.raiseLimited
  with_reducible repeat' first
    | assumption | apply Only.raise | apply Only.noteInterval | exact Or.inl rfl | exact Or.inr (by assumption)
    | apply OnlyMk.intro | simp only [onlyMk] | dsimp only | split | intro

theorem Only.setLine (s : State) (id : Nat) (on : Bool) (hk : Only fr s0 s) (m_regs : Part.regs ∈ fr)
    (m_owed : Part.owed ∈ fr) (m_crier : Part.crier ∈ fr) (m_flt : Part.flt ∈ fr) : Only fr s0 (setLine s id on) := by
  unfold Sys2Proof.Machine.setLine
  with_reducible repeat' first
    | assumption | apply Only.startGrace | apply Only.raise | apply Only.setBit | exact Or.inl rfl
    | exact Or.inr (by assumption) | apply OnlyMk.intro | simp only [onlyMk] | dsimp only | split | intro

theorem Only.setErrE04 (s : State) (a i : Nat) (hk : Only fr s0 s) (m_regs : Part.regs ∈ fr) (m_owed : Part.owed ∈ fr)
    (m_crier : Part.crier ∈ fr) (m_flt : Part.flt ∈ fr) : Only fr s0 (setErrE04 s a i) := by
  unfold Sys2Proof.Machine.setErrE04
  with_reducible repeat' first
    | assumption | apply Only.raise | apply Only.setBit | exact Or.inl rfl | exact Or.inr (by assumption)
    | apply OnlyMk.intro | simp only [onlyMk] | dsimp only | split | intro

theorem Only.setBringup (s : State) (i : Nat) (hk : Only fr s0 s) (m_regs : Part.regs ∈ fr) (m_owed : Part.owed ∈ fr)
    (m_crier : Part.crier ∈ fr) (m_flt : Part.flt ∈ fr) : Only fr s0 (setBringup s i) := by
  unfold Sys2Proof.Machine.setBringup
  with_reducible repeat' first
    | assumption | apply Only.raise | apply Only.setBit | exact Or.inl rfl | exact Or.inr (by assumption)
    | apply OnlyMk.intro | simp only [onlyMk] | dsimp only | split | intro

theorem Only.clearBringup (s : State) (i : Nat) (hk : Only fr s0 s) (m_regs : Part.regs ∈ fr)
    : Only fr s0 (clearBringup s i) := by
  unfold Sys2Proof.Machine.clearBringup
  with_reducible repeat' first
    | assumption | apply Only.setBit | exact Or.inl rfl | exact Or.inr (by assumption) | apply OnlyMk.intro
    | simp only [onlyMk] | dsimp only | split | intro

theorem Only.tailStep (s : State) (k : RingKind) (n key : Nat) (hk : Only fr s0 s) (m_regs : Part.regs ∈ fr)
    (m_hif : Part.hif ∈ fr) : Only fr s0 (tailStep s k n key) := by
  unfold Sys2Proof.Machine.tailStep
  with_reducible repeat' first
    | assumption | apply Only.setReg | exact Or.inl rfl | exact Or.inr (by assumption) | apply OnlyMk.intro
    | simp only [onlyMk] | dsimp only | split | intro

theorem Only.settleDone (s : State) (hk : Only fr s0 s) (m_regs : Part.regs ∈ fr) (m_owed : Part.owed ∈ fr)
    (m_crier : Part.crier ∈ fr) (m_flt : Part.flt ∈ fr) : Only fr s0 (settleDone s) := by
  unfold Sys2Proof.Machine.settleDone
  with_reducible repeat' first
    | assumption | apply Only.raise | apply Only.setBit | exact Or.inl rfl | exact Or.inr (by assumption)
    | apply OnlyMk.intro | simp only [onlyMk] | dsimp only | split | intro

theorem Only.orphan (s : State) (o : Orphan) (hk : Only fr s0 s) (m_regs : Part.regs ∈ fr) : Only fr s0 (orphan s o) := by
  unfold Sys2Proof.Machine.orphan
  with_reducible repeat' first
    | assumption | apply Only.setF | apply Only.setReg | apply Only.setBit | exact Or.inl rfl | exact Or.inr (by assumption)
    | apply OnlyMk.intro | simp only [onlyMk] | dsimp only | split | intro

theorem Only.setPhase (s : State) (c : HostCmd) (p : CmdPhase) (hk : Only fr s0 s) (m_hif : Part.hif ∈ fr)
    : Only fr s0 (setPhase s c p) := by
  unfold Sys2Proof.Machine.setPhase
  with_reducible repeat' first
    | assumption | exact Or.inl rfl | exact Or.inr (by assumption) | apply OnlyMk.intro | simp only [onlyMk] | dsimp only
    | split | intro

theorem Only.dropCmd (s : State) (key : Nat × Nat × Nat) (hk : Only fr s0 s) (m_hif : Part.hif ∈ fr)
    : Only fr s0 (dropCmd s key) := by
  unfold Sys2Proof.Machine.dropCmd
  with_reducible repeat' first
    | assumption | exact Or.inl rfl | exact Or.inr (by assumption) | apply OnlyMk.intro | simp only [onlyMk] | dsimp only
    | split | intro

theorem Only.orphanCmd (s : State) (c : HostCmd) (status : Nat) (hk : Only fr s0 s) (m_regs : Part.regs ∈ fr)
    (m_owed : Part.owed ∈ fr) (m_hif : Part.hif ∈ fr) (m_crier : Part.crier ∈ fr) (m_flt : Part.flt ∈ fr)
    : Only fr s0 (orphanCmd s c status) := by
  unfold Sys2Proof.Machine.orphanCmd
  with_reducible repeat' first
    | assumption | apply Only.settleDone | apply Only.orphan | apply Only.dropCmd | exact Or.inl rfl
    | exact Or.inr (by assumption) | apply OnlyMk.intro | simp only [onlyMk] | dsimp only | split | intro

theorem Only.complete (s : State) (c : HostCmd) (status : Nat) (result : List Byte) (hk : Only fr s0 s)
    (m_regs : Part.regs ∈ fr) (m_owed : Part.owed ∈ fr) (m_hif : Part.hif ∈ fr) (m_crier : Part.crier ∈ fr)
    (m_flt : Part.flt ∈ fr) : Only fr s0 (complete s c status result) := by
  unfold Sys2Proof.Machine.complete
  with_reducible repeat' first
    | assumption | apply Only.orphanCmd | apply Only.setPhase | apply Only.notify | exact Or.inl rfl
    | exact Or.inr (by assumption) | apply OnlyMk.intro | simp only [onlyMk] | dsimp only | split | intro

theorem Only.hostWrite (s : State) (addr : Nat) (data : List Byte) (hk : Only fr s0 s) (m_out : Part.out ∈ fr)
    : Only fr s0 (hostWrite s addr data) := by
  unfold Sys2Proof.Machine.hostWrite
  with_reducible repeat' first
    | assumption | apply Only.emit | exact Or.inl rfl | exact Or.inr (by assumption) | apply OnlyMk.intro
    | simp only [onlyMk] | dsimp only | split | intro

theorem Only.dataOut (s : State) (c : HostCmd) (data : List Byte) (hk : Only fr s0 s) (m_out : Part.out ∈ fr)
    : Only fr s0 (dataOut s c data) := by
  unfold Sys2Proof.Machine.dataOut
  with_reducible repeat' first
    | assumption | apply Only.hostWrite | exact Or.inl rfl | exact Or.inr (by assumption) | apply OnlyMk.intro
    | simp only [onlyMk] | dsimp only | split | intro

theorem Only.completeData (s : State) (c : HostCmd) (status : Nat) (result data : List Byte) (hk : Only fr s0 s)
    (m_regs : Part.regs ∈ fr) (m_owed : Part.owed ∈ fr) (m_hif : Part.hif ∈ fr) (m_crier : Part.crier ∈ fr)
    (m_flt : Part.flt ∈ fr) (m_out : Part.out ∈ fr) : Only fr s0 (completeData s c status result data) := by
  unfold Sys2Proof.Machine.completeData
  with_reducible repeat' first
    | assumption | apply Only.complete | apply Only.dataOut | exact Or.inl rfl | exact Or.inr (by assumption)
    | apply OnlyMk.intro | simp only [onlyMk] | dsimp only | split | intro

theorem Only.runCmd (s : State) (c : HostCmd) (row : CmdRow) (body : State → State) (hk : Only fr s0 s)
    (hf : ∀ t, Only fr s0 t → Only fr s0 (body t)) (m_hif : Part.hif ∈ fr) : Only fr s0 (runCmd s c row body) := by
  unfold Sys2Proof.Machine.runCmd
  with_reducible repeat' first
    | assumption | apply hf | apply Only.setPhase | exact Or.inl rfl | exact Or.inr (by assumption) | apply OnlyMk.intro
    | simp only [onlyMk] | dsimp only | split | intro

theorem Only.refuseForm (s : State) (c : HostCmd) (hk : Only fr s0 s) (m_regs : Part.regs ∈ fr) (m_owed : Part.owed ∈ fr)
    (m_hif : Part.hif ∈ fr) (m_crier : Part.crier ∈ fr) (m_flt : Part.flt ∈ fr) : Only fr s0 (refuseForm s c) := by
  unfold Sys2Proof.Machine.refuseForm
  with_reducible repeat' first
    | assumption | apply Only.setPhase | apply Only.complete | exact Or.inl rfl | exact Or.inr (by assumption)
    | apply OnlyMk.intro | simp only [onlyMk] | dsimp only | split | intro

theorem Only.refuseForms (s : State) (hk : Only fr s0 s) (m_regs : Part.regs ∈ fr) (m_owed : Part.owed ∈ fr)
    (m_hif : Part.hif ∈ fr) (m_crier : Part.crier ∈ fr) (m_flt : Part.flt ∈ fr) : Only fr s0 (refuseForms s) := by
  unfold Sys2Proof.Machine.refuseForms
  with_reducible repeat' first
    | assumption | apply Only.forEach | apply Only.refuseForm | exact Or.inl rfl | exact Or.inr (by assumption)
    | apply OnlyMk.intro | simp only [onlyMk] | dsimp only | split | intro

theorem Only.notify (s : State) (n kind : Nat) (payload : List Byte) (hk : Only fr s0 s) (m_hif : Part.hif ∈ fr)
    : Only fr s0 (notify s n kind payload) := by
  unfold Sys2Proof.Machine.notify
  with_reducible repeat' first
    | assumption | exact Or.inl rfl | exact Or.inr (by assumption) | apply OnlyMk.intro | simp only [onlyMk] | dsimp only
    | split | intro

theorem Only.atCrossing (s : State) (shut : Bool) (h : Held) (f : State → State) (hk : Only fr s0 s)
    (hf : ∀ t, Only fr s0 t → Only fr s0 (f t)) (m_top : Part.top ∈ fr) : Only fr s0 (atCrossing s shut h f) := by
  unfold Sys2Proof.Machine.atCrossing
  with_reducible repeat' first
    | assumption | apply hf | exact Or.inl rfl | exact Or.inr (by assumption) | apply OnlyMk.intro | simp only [onlyMk]
    | dsimp only | split | intro

theorem Only.holdWrite (s : State) (isl a : Nat) (v : Word) (f : State → State) (hk : Only fr s0 s)
    (hf : ∀ t, Only fr s0 t → Only fr s0 (f t)) (m_top : Part.top ∈ fr) : Only fr s0 (holdWrite s isl a v f) := by
  unfold Sys2Proof.Machine.holdWrite
  with_reducible repeat' first
    | assumption | apply hf | apply Only.atCrossing | exact Or.inl rfl | exact Or.inr (by assumption) | apply OnlyMk.intro
    | simp only [onlyMk] | dsimp only | split | intro

theorem Only.setDom (s : State) (d : Dom) (x : Domain) (hk : Only fr s0 s) (m_prg : Part.prg ∈ fr)
    : Only fr s0 (setDom s d x) := by
  unfold Sys2Proof.Machine.setDom
  with_reducible repeat' first
    | assumption | exact Or.inl rfl | exact Or.inr (by assumption) | apply OnlyMk.intro | simp only [onlyMk] | dsimp only
    | split | intro

theorem Only.setLands (s : State) (f : Lands → Lands) (hk : Only fr s0 s) (m_top : Part.top ∈ fr)
    : Only fr s0 (setLands s f) := by
  unfold Sys2Proof.Machine.setLands
  with_reducible repeat' first
    | assumption | exact Or.inl rfl | exact Or.inr (by assumption) | apply OnlyMk.intro | simp only [onlyMk] | dsimp only
    | split | intro

theorem Only.landsPcie (s : State) (up : Bool) (hk : Only fr s0 s) (m_top : Part.top ∈ fr)
    : Only fr s0 (landsPcie s up) := by
  unfold Sys2Proof.Machine.landsPcie
  with_reducible repeat' first
    | assumption | apply Only.setLands | exact Or.inl rfl | exact Or.inr (by assumption) | apply OnlyMk.intro
    | simp only [onlyMk] | dsimp only | split | intro

theorem Only.landsFlash (s : State) (hk : Only fr s0 s) (m_top : Part.top ∈ fr) : Only fr s0 (landsFlash s) := by
  unfold Sys2Proof.Machine.landsFlash
  with_reducible repeat' first
    | assumption | apply Only.setLands | exact Or.inl rfl | exact Or.inr (by assumption) | apply OnlyMk.intro
    | simp only [onlyMk] | dsimp only | split | intro

theorem Only.landsFirmware (s : State) (hk : Only fr s0 s) (m_top : Part.top ∈ fr) : Only fr s0 (landsFirmware s) := by
  unfold Sys2Proof.Machine.landsFirmware
  with_reducible repeat' first
    | assumption | apply Only.setLands | exact Or.inl rfl | exact Or.inr (by assumption) | apply OnlyMk.intro
    | simp only [onlyMk] | dsimp only | split | intro

theorem Only.landsIo (s : State) (mv : Nat) (hk : Only fr s0 s) (m_top : Part.top ∈ fr) : Only fr s0 (landsIo s mv) := by
  unfold Sys2Proof.Machine.landsIo
  with_reducible repeat' first
    | assumption | apply Only.setLands | exact Or.inl rfl | exact Or.inr (by assumption) | apply OnlyMk.intro
    | simp only [onlyMk] | dsimp only | split | intro

theorem Only.modJrn (s : State) (f : Journal → Journal) (hk : Only fr s0 s) (m_journal : Part.journal ∈ fr)
    : Only fr s0 (modJrn s f) := by
  unfold Sys2Proof.Machine.modJrn
  with_reducible repeat' first
    | assumption | exact Or.inl rfl | exact Or.inr (by assumption) | apply OnlyMk.intro | simp only [onlyMk] | dsimp only
    | split | intro

theorem Only.jrnWarn (before : Nat) (s : State) (hk : Only fr s0 s) (m_regs : Part.regs ∈ fr) (m_owed : Part.owed ∈ fr)
    (m_crier : Part.crier ∈ fr) (m_flt : Part.flt ∈ fr) : Only fr s0 (jrnWarn before s) := by
  unfold Sys2Proof.Machine.jrnWarn
  with_reducible repeat' first
    | assumption | apply Only.whenB | apply Only.raise | exact Or.inl rfl | exact Or.inr (by assumption) | apply OnlyMk.intro
    | simp only [onlyMk] | dsimp only | split | intro

theorem Only.jrnTouch (s : State) (lines : List Nat) (hk : Only fr s0 s) (m_regs : Part.regs ∈ fr)
    (m_journal : Part.journal ∈ fr) (m_owed : Part.owed ∈ fr) (m_crier : Part.crier ∈ fr) (m_flt : Part.flt ∈ fr)
    : Only fr s0 (jrnTouch s lines) := by
  unfold Sys2Proof.Machine.jrnTouch
  with_reducible repeat' first
    | assumption | apply Only.jrnWarn | apply Only.modJrn | apply Only.foldl | apply Only.foldl1 | exact Or.inl rfl
    | exact Or.inr (by assumption) | apply OnlyMk.intro | simp only [onlyMk] | dsimp only | split | intro

theorem Only.jrnRetire (s : State) (l : Nat) (hk : Only fr s0 s) (m_regs : Part.regs ∈ fr) (m_journal : Part.journal ∈ fr)
    (m_owed : Part.owed ∈ fr) (m_crier : Part.crier ∈ fr) (m_flt : Part.flt ∈ fr) : Only fr s0 (jrnRetire s l) := by
  unfold Sys2Proof.Machine.jrnRetire
  with_reducible repeat' first
    | assumption | apply Only.jrnWarn | apply Only.modJrn | apply Only.raise | exact Or.inl rfl
    | exact Or.inr (by assumption) | apply OnlyMk.intro | simp only [onlyMk] | dsimp only | split | intro

theorem Only.jrnFailed (failed : List Nat) (s : State) (hk : Only fr s0 s) (m_regs : Part.regs ∈ fr)
    (m_journal : Part.journal ∈ fr) (m_owed : Part.owed ∈ fr) (m_crier : Part.crier ∈ fr) (m_flt : Part.flt ∈ fr)
    : Only fr s0 (jrnFailed failed s) := by
  unfold Sys2Proof.Machine.jrnFailed
  with_reducible repeat' first
    | assumption | apply Only.forEach | apply Only.jrnRetire | exact Or.inl rfl | exact Or.inr (by assumption)
    | apply OnlyMk.intro | simp only [onlyMk] | dsimp only | split | intro

theorem Only.secCount (s : State) (k : Nat) (hk : Only fr s0 s) (m_regs : Part.regs ∈ fr) : Only fr s0 (secCount s k) := by
  unfold Sys2Proof.Machine.secCount
  with_reducible repeat' first
    | assumption | apply Only.add64 | exact Or.inl rfl | exact Or.inr (by assumption) | apply OnlyMk.intro
    | simp only [onlyMk] | dsimp only | split | intro

theorem Only.jrnTagged (s : State) (part : Nat) (ok : Bool) (hk : Only fr s0 s) (m_regs : Part.regs ∈ fr)
    : Only fr s0 (jrnTagged s part ok) := by
  unfold Sys2Proof.Machine.jrnTagged
  with_reducible repeat' first
    | assumption | apply Only.whenB | apply Only.secCount | exact Or.inl rfl | exact Or.inr (by assumption)
    | apply OnlyMk.intro | simp only [onlyMk] | dsimp only | split | intro

theorem Only.jrnStore (s : State) (e : JrnEntry) (hk : Only fr s0 s) (m_regs : Part.regs ∈ fr)
    (m_journal : Part.journal ∈ fr) (m_owed : Part.owed ∈ fr) (m_crier : Part.crier ∈ fr) (m_flt : Part.flt ∈ fr)
    : Only fr s0 (jrnStore s e) := by
  unfold Sys2Proof.Machine.jrnStore
  with_reducible repeat' first
    | assumption | apply Only.jrnTouch | apply Only.modJrn | exact Or.inl rfl | exact Or.inr (by assumption)
    | apply OnlyMk.intro | simp only [onlyMk] | dsimp only | split | intro

theorem Only.jrnPut (s : State) (e : JrnEntry) (hk : Only fr s0 s) (m_regs : Part.regs ∈ fr) (m_journal : Part.journal ∈ fr)
    (m_owed : Part.owed ∈ fr) (m_crier : Part.crier ∈ fr) (m_flt : Part.flt ∈ fr) : Only fr s0 (jrnPut s e) := by
  unfold Sys2Proof.Machine.jrnPut
  with_reducible repeat' first
    | assumption | apply Only.jrnStore | apply Only.jrnTagged | exact Or.inl rfl | exact Or.inr (by assumption)
    | apply OnlyMk.intro | simp only [onlyMk] | dsimp only | split | intro

theorem Only.jrnLog (s : State) (e : SysEntry) (hk : Only fr s0 s) (m_regs : Part.regs ∈ fr) (m_journal : Part.journal ∈ fr)
    (m_owed : Part.owed ∈ fr) (m_crier : Part.crier ∈ fr) (m_flt : Part.flt ∈ fr) : Only fr s0 (jrnLog s e) := by
  unfold Sys2Proof.Machine.jrnLog
  with_reducible repeat' first
    | assumption | apply Only.jrnStore | exact Or.inl rfl | exact Or.inr (by assumption) | apply OnlyMk.intro
    | simp only [onlyMk] | dsimp only | split | intro

theorem Only.jrnOwe (s : State) (e : JrnEntry) (hk : Only fr s0 s) (m_regs : Part.regs ∈ fr) (m_journal : Part.journal ∈ fr)
    (m_owed : Part.owed ∈ fr) (m_crier : Part.crier ∈ fr) (m_flt : Part.flt ∈ fr) (m_out : Part.out ∈ fr)
    : Only fr s0 (jrnOwe s e) := by
  unfold Sys2Proof.Machine.jrnOwe
  with_reducible repeat' first
    | assumption | apply Only.whenB | apply Only.emit | apply Only.jrnPut | exact Or.inl rfl | exact Or.inr (by assumption)
    | apply OnlyMk.intro | simp only [onlyMk] | dsimp only | split | intro

theorem Only.jrnOweFault (s : State) (e : FaultEntry) (hk : Only fr s0 s) (m_regs : Part.regs ∈ fr)
    (m_journal : Part.journal ∈ fr) (m_owed : Part.owed ∈ fr) (m_crier : Part.crier ∈ fr) (m_flt : Part.flt ∈ fr)
    : Only fr s0 (jrnOweFault s e) := by
  unfold Sys2Proof.Machine.jrnOweFault
  with_reducible repeat' first
    | assumption | apply Only.jrnStore | exact Or.inl rfl | exact Or.inr (by assumption) | apply OnlyMk.intro
    | simp only [onlyMk] | dsimp only | split | intro

theorem Only.jrnFlush (s : State) (hk : Only fr s0 s) (m_regs : Part.regs ∈ fr) (m_journal : Part.journal ∈ fr)
    (m_owed : Part.owed ∈ fr) (m_crier : Part.crier ∈ fr) (m_flt : Part.flt ∈ fr) (m_out : Part.out ∈ fr)
    : Only fr s0 (jrnFlush s) := by
  unfold Sys2Proof.Machine.jrnFlush
  with_reducible repeat' first
    | assumption | apply Only.forEach | apply Only.jrnOwe | exact Or.inl rfl | exact Or.inr (by assumption)
    | apply OnlyMk.intro | simp only [onlyMk] | dsimp only | split | intro

theorem Only.faultRecord (s : State) (id access requester address syndrome : Nat) (hk : Only fr s0 s)
    (m_regs : Part.regs ∈ fr) (m_journal : Part.journal ∈ fr) (m_owed : Part.owed ∈ fr) (m_crier : Part.crier ∈ fr)
    (m_flt : Part.flt ∈ fr) : Only fr s0 (faultRecord s id access requester address syndrome) := by
  unfold Sys2Proof.Machine.faultRecord
  with_reducible repeat' first
    | assumption | apply Only.add64 | apply Only.satF | apply Only.setReg | apply Only.setReg64 | apply Only.jrnOweFault
    | apply Only.raise | exact Or.inl rfl | exact Or.inr (by assumption) | apply OnlyMk.intro | simp only [onlyMk]
    | dsimp only | split | intro

theorem Only.fault (s : State) (id access requester address syndrome : Nat) (hk : Only fr s0 s) (m_regs : Part.regs ∈ fr)
    (m_journal : Part.journal ∈ fr) (m_owed : Part.owed ∈ fr) (m_crier : Part.crier ∈ fr) (m_flt : Part.flt ∈ fr)
    : Only fr s0 (fault s id access requester address syndrome) := by
  unfold Sys2Proof.Machine.fault
  with_reducible repeat' first
    | assumption | apply Only.raise | apply Only.faultRecord | exact Or.inl rfl | exact Or.inr (by assumption)
    | apply OnlyMk.intro | simp only [onlyMk] | dsimp only | split | intro

theorem Only.jrnDrop (s : State) (r : JrnRecord) (hk : Only fr s0 s) (m_regs : Part.regs ∈ fr)
    (m_journal : Part.journal ∈ fr) (m_owed : Part.owed ∈ fr) (m_crier : Part.crier ∈ fr) (m_flt : Part.flt ∈ fr)
    : Only fr s0 (jrnDrop s r) := by
  unfold Sys2Proof.Machine.jrnDrop
  with_reducible repeat' first
    | assumption | apply Only.raise | apply Only.modJrn | exact Or.inl rfl | exact Or.inr (by assumption)
    | apply OnlyMk.intro | simp only [onlyMk] | dsimp only | split | intro

theorem Only.jrnTorn (s : State) (b : JrnRec) (hk : Only fr s0 s) (m_regs : Part.regs ∈ fr) (m_journal : Part.journal ∈ fr)
    (m_owed : Part.owed ∈ fr) (m_crier : Part.crier ∈ fr) (m_flt : Part.flt ∈ fr) : Only fr s0 (jrnTorn s b) := by
  unfold Sys2Proof.Machine.jrnTorn
  with_reducible repeat' first
    | assumption | apply Only.raise | apply Only.modJrn | exact Or.inl rfl | exact Or.inr (by assumption)
    | apply OnlyMk.intro | simp only [onlyMk] | dsimp only | split | intro

theorem Only.journalStart (bad : List JrnRec) (s : State) (hk : Only fr s0 s) (m_regs : Part.regs ∈ fr)
    (m_journal : Part.journal ∈ fr) (m_owed : Part.owed ∈ fr) (m_crier : Part.crier ∈ fr) (m_flt : Part.flt ∈ fr)
    : Only fr s0 (journalStart bad s) := by
  unfold Sys2Proof.Machine.journalStart
  with_reducible repeat' first
    | assumption | apply Only.forEach | apply Only.jrnTagged | apply Only.jrnTorn | apply Only.jrnDrop | apply Only.modJrn
    | apply Only.whenB | apply Only.jrnLog | exact Or.inl rfl | exact Or.inr (by assumption) | apply OnlyMk.intro
    | simp only [onlyMk] | dsimp only | split | intro

theorem Only.jrnReads (s : State) (pick : JrnEntry → Bool) (hk : Only fr s0 s) (m_regs : Part.regs ∈ fr)
    (m_freeCtr : Part.freeCtr ∈ fr) (m_journal : Part.journal ∈ fr) (m_owed : Part.owed ∈ fr) (m_crier : Part.crier ∈ fr)
    (m_flt : Part.flt ∈ fr) : Only fr s0 (jrnReads s pick) := by
  unfold Sys2Proof.Machine.jrnReads
  with_reducible repeat' first
    | assumption | apply Only.forEach | apply Only.whenB | apply Only.jrnDrop | apply Only.jrnTagged | apply Only.drawn
    | exact Or.inl rfl | exact Or.inr (by assumption) | apply OnlyMk.intro | simp only [onlyMk] | dsimp only | split | intro

theorem Only.jrnChecked (s : State) (badLines : List Nat) (c : HostCmd) (hk : Only fr s0 s) (m_regs : Part.regs ∈ fr)
    : Only fr s0 (jrnChecked s badLines c) := by
  unfold Sys2Proof.Machine.jrnChecked
  with_reducible repeat' first
    | assumption | apply Only.forEach | apply Only.jrnTagged | exact Or.inl rfl | exact Or.inr (by assumption)
    | apply OnlyMk.intro | simp only [onlyMk] | dsimp only | split | intro

theorem Only.doJrnRead (badLines : List Nat) (c : HostCmd) (s : State) (hk : Only fr s0 s) (m_regs : Part.regs ∈ fr)
    (m_owed : Part.owed ∈ fr) (m_hif : Part.hif ∈ fr) (m_crier : Part.crier ∈ fr) (m_flt : Part.flt ∈ fr) (m_out : Part.out ∈ fr)
    : Only fr s0 (doJrnRead badLines c s) := by
  unfold Sys2Proof.Machine.doJrnRead
  with_reducible repeat' first
    | assumption | apply Only.jrnChecked | apply Only.completeData | apply Only.complete | exact Or.inl rfl
    | exact Or.inr (by assumption) | apply OnlyMk.intro | simp only [onlyMk] | dsimp only | split | intro

theorem Only.doJrnWrite (badLines failed : List Nat) (c : HostCmd) (s : State) (hk : Only fr s0 s) (m_regs : Part.regs ∈ fr)
    (m_journal : Part.journal ∈ fr) (m_owed : Part.owed ∈ fr) (m_hif : Part.hif ∈ fr) (m_crier : Part.crier ∈ fr)
    (m_flt : Part.flt ∈ fr) : Only fr s0 (doJrnWrite badLines failed c s) := by
  unfold Sys2Proof.Machine.doJrnWrite
  with_reducible repeat' first
    | assumption | apply Only.modJrn | apply Only.jrnChecked | apply Only.complete | apply Only.jrnFailed | apply Only.jrnPut
    | exact Or.inl rfl | exact Or.inr (by assumption) | apply OnlyMk.intro | simp only [onlyMk] | dsimp only | split | intro

theorem Only.execJrnRead (cmd : HostCmd) (badLines : List Nat) (s : State) (hk : Only fr s0 s) (m_regs : Part.regs ∈ fr)
    (m_owed : Part.owed ∈ fr) (m_hif : Part.hif ∈ fr) (m_crier : Part.crier ∈ fr) (m_flt : Part.flt ∈ fr) (m_out : Part.out ∈ fr)
    : OnlyO fr s0 (execJrnRead cmd badLines s) := by
  unfold Sys2Proof.Machine.execJrnRead
  with_reducible repeat' first
    | assumption | apply Only.runCmd | apply Only.doJrnRead | apply OnlyO.next | exact Or.inl rfl
    | exact Or.inr (by assumption) | apply OnlyMk.intro | simp only [onlyMk] | dsimp only | split | intro

theorem Only.execJrnWrite (cmd : HostCmd) (badLines failedBlocks : List Nat) (s : State) (hk : Only fr s0 s)
    (m_regs : Part.regs ∈ fr) (m_journal : Part.journal ∈ fr) (m_owed : Part.owed ∈ fr) (m_hif : Part.hif ∈ fr)
    (m_crier : Part.crier ∈ fr) (m_flt : Part.flt ∈ fr) : OnlyO fr s0 (execJrnWrite cmd badLines failedBlocks s) := by
  unfold Sys2Proof.Machine.execJrnWrite
  with_reducible repeat' first
    | assumption | apply Only.runCmd | apply Only.doJrnWrite | apply OnlyO.next | exact Or.inl rfl
    | exact Or.inr (by assumption) | apply OnlyMk.intro | simp only [onlyMk] | dsimp only | split | intro

theorem Only.ledgerAdd (s : State) (key a b : Nat) (hk : Only fr s0 s) (m_telem : Part.telem ∈ fr)
    : Only fr s0 (ledgerAdd s key a b) := by
  unfold Sys2Proof.Machine.ledgerAdd
  with_reducible repeat' first
    | assumption | exact Or.inl rfl | exact Or.inr (by assumption) | apply OnlyMk.intro | simp only [onlyMk] | dsimp only
    | split | intro

theorem Only.ledgerPacket (s : State) (key : Nat) (p : Packet) (hk : Only fr s0 s) (m_owed : Part.owed ∈ fr)
    (m_telem : Part.telem ∈ fr) : Only fr s0 (ledgerPacket s key p) := by
  unfold Sys2Proof.Machine.ledgerPacket
  with_reducible repeat' first
    | assumption | apply Only.ledgerAdd | exact Or.inl rfl | exact Or.inr (by assumption) | apply OnlyMk.intro
    | simp only [onlyMk] | dsimp only | split | intro

theorem Only.pmcBump (fuel : Nat) (s : State) (n k : Nat) (hk : Only fr s0 s)
    (m_regs : Part.regs ∈ fr) (m_owed : Part.owed ∈ fr) (m_crier : Part.crier ∈ fr) (m_flt : Part.flt ∈ fr) :
    Only fr s0 (pmcBump fuel s n k) := by
  induction fuel generalizing s n k with
  | zero => exact hk
  | succ f ih =>
    unfold Sys2Proof.Machine.pmcBump
    with_reducible repeat' first
      | assumption | apply ih | apply Only.whenB | apply Only.setReg | apply Only.raise | dsimp only | split | intro

theorem Only.noteAct (s : State) (k n : Nat) (hk : Only fr s0 s) (m_activity : Part.activity ∈ fr)
    : Only fr s0 (noteAct s k n) := by
  unfold Sys2Proof.Machine.noteAct
  with_reducible repeat' first
    | assumption | exact Or.inl rfl | exact Or.inr (by assumption) | apply OnlyMk.intro | simp only [onlyMk] | dsimp only
    | split | intro

theorem Only.pmcAdd (s : State) (n k : Nat) (hk : Only fr s0 s) (m_regs : Part.regs ∈ fr) (m_owed : Part.owed ∈ fr)
    (m_crier : Part.crier ∈ fr) (m_flt : Part.flt ∈ fr) (m_activity : Part.activity ∈ fr) : Only fr s0 (pmcAdd s n k) := by
  unfold Sys2Proof.Machine.pmcAdd
  with_reducible repeat' first
    | assumption | apply Only.noteAct | apply Only.pmcBump | exact Or.inl rfl | exact Or.inr (by assumption)
    | apply OnlyMk.intro | simp only [onlyMk] | dsimp only | split | intro

theorem Only.pmcEvent (s : State) (n k : Nat) (hk : Only fr s0 s) (m_regs : Part.regs ∈ fr) (m_owed : Part.owed ∈ fr)
    (m_crier : Part.crier ∈ fr) (m_flt : Part.flt ∈ fr) (m_activity : Part.activity ∈ fr) : Only fr s0 (pmcEvent s n k) := by
  unfold Sys2Proof.Machine.pmcEvent
  with_reducible repeat' first
    | assumption | apply Only.pmcAdd | exact Or.inl rfl | exact Or.inr (by assumption) | apply OnlyMk.intro
    | simp only [onlyMk] | dsimp only | split | intro

theorem Only.pmcBeats (s : State) (m ch : Nat) (hk : Only fr s0 s) (m_regs : Part.regs ∈ fr) (m_owed : Part.owed ∈ fr)
    (m_crier : Part.crier ∈ fr) (m_flt : Part.flt ∈ fr) (m_activity : Part.activity ∈ fr) : Only fr s0 (pmcBeats s m ch) := by
  unfold Sys2Proof.Machine.pmcBeats
  with_reducible repeat' first
    | assumption | apply Only.pmcAdd | exact Or.inl rfl | exact Or.inr (by assumption) | apply OnlyMk.intro
    | simp only [onlyMk] | dsimp only | split | intro

theorem Only.execPmcCountWrite (n : Nat) (value : Word) (occurrences : Nat) (s : State) (hk : Only fr s0 s)
    (m_regs : Part.regs ∈ fr) (m_owed : Part.owed ∈ fr) (m_top : Part.top ∈ fr) (m_crier : Part.crier ∈ fr)
    (m_flt : Part.flt ∈ fr) (m_activity : Part.activity ∈ fr) : OnlyO fr s0 (execPmcCountWrite n value occurrences s) := by
  unfold Sys2Proof.Machine.execPmcCountWrite
  with_reducible repeat' first
    | assumption | apply Only.holdWrite | apply Only.pmcEvent | apply Only.setReg | apply OnlyO.next | exact Or.inl rfl
    | exact Or.inr (by assumption) | apply OnlyMk.intro | simp only [onlyMk] | dsimp only | split | intro

theorem Only.addTal (s : State) (k : Nat) (hk : Only fr s0 s) (m_regs : Part.regs ∈ fr) : Only fr s0 (addTal s k) := by
  unfold Sys2Proof.Machine.addTal
  with_reducible repeat' first
    | assumption | apply Only.add64 | exact Or.inl rfl | exact Or.inr (by assumption) | apply OnlyMk.intro
    | simp only [onlyMk] | dsimp only | split | intro

theorem Only.recordLost (s : State) (hk : Only fr s0 s) (m_regs : Part.regs ∈ fr) (m_owed : Part.owed ∈ fr)
    (m_lastRaise : Part.lastRaise ∈ fr) (m_crier : Part.crier ∈ fr) (m_flt : Part.flt ∈ fr) : Only fr s0 (recordLost s) := by
  unfold Sys2Proof.Machine.recordLost
  with_reducible repeat' first
    | assumption | apply Only.raiseLimited | apply Only.addTal | exact Or.inl rfl | exact Or.inr (by assumption)
    | apply OnlyMk.intro | simp only [onlyMk] | dsimp only | split | intro

theorem Only.exportHand (s : State) (r : ExpRec) (hk : Only fr s0 s) (m_regs : Part.regs ∈ fr) (m_owed : Part.owed ∈ fr)
    (m_lastRaise : Part.lastRaise ∈ fr) (m_telem : Part.telem ∈ fr) (m_crier : Part.crier ∈ fr) (m_flt : Part.flt ∈ fr)
    : Only fr s0 (exportHand s r) := by
  unfold Sys2Proof.Machine.exportHand
  with_reducible repeat' first
    | assumption | apply Only.addTal | apply Only.recordLost | exact Or.inl rfl | exact Or.inr (by assumption)
    | apply OnlyMk.intro | simp only [onlyMk] | dsimp only | split | intro

theorem Only.postcard (s : State) (pipe : Nat) (t : Tally) (isDrop : Bool) (hk : Only fr s0 s) (m_regs : Part.regs ∈ fr)
    (m_owed : Part.owed ∈ fr) (m_lastRaise : Part.lastRaise ∈ fr) (m_telem : Part.telem ∈ fr) (m_crier : Part.crier ∈ fr)
    (m_flt : Part.flt ∈ fr) : Only fr s0 (postcard s pipe t isDrop) := by
  unfold Sys2Proof.Machine.postcard
  with_reducible repeat' first
    | assumption | apply Only.exportHand | exact Or.inl rfl | exact Or.inr (by assumption) | apply OnlyMk.intro
    | simp only [onlyMk] | dsimp only | split | intro

theorem Only.dropRecord (s : State) (pipe reason : Nat) (p : Packet) (t : Tally) (hk : Only fr s0 s)
    (m_regs : Part.regs ∈ fr) (m_owed : Part.owed ∈ fr) (m_lastRaise : Part.lastRaise ∈ fr) (m_telem : Part.telem ∈ fr)
    (m_crier : Part.crier ∈ fr) (m_flt : Part.flt ∈ fr) : Only fr s0 (dropRecord s pipe reason p t) := by
  unfold Sys2Proof.Machine.dropRecord
  with_reducible repeat' first
    | assumption | apply Only.postcard | apply Only.ledgerPacket | exact Or.inl rfl | exact Or.inr (by assumption)
    | apply OnlyMk.intro | simp only [onlyMk] | dsimp only | split | intro

theorem Only.histograms (s : State) (l lat qdly : Nat) (p : Packet) (hk : Only fr s0 s) (m_owed : Part.owed ∈ fr)
    (m_telem : Part.telem ∈ fr) : Only fr s0 (histograms s l lat qdly p) := by
  unfold Sys2Proof.Machine.histograms
  with_reducible repeat' first
    | assumption | apply Only.ledgerPacket | exact Or.inl rfl | exact Or.inr (by assumption) | apply OnlyMk.intro
    | simp only [onlyMk] | dsimp only | split | intro

theorem Only.holdUnit (s : State) (ua pool cls id : Nat) (hk : Only fr s0 s) (m_regs : Part.regs ∈ fr)
    (m_owed : Part.owed ∈ fr) (m_market : Part.market ∈ fr) (m_crier : Part.crier ∈ fr) (m_flt : Part.flt ∈ fr)
    (m_activity : Part.activity ∈ fr) : Only fr s0 (holdUnit s ua pool cls id) := by
  unfold Sys2Proof.Machine.holdUnit
  with_reducible repeat' first
    | assumption | apply Only.setF | apply Only.pmcEvent | apply Only.setBit | exact Or.inl rfl
    | exact Or.inr (by assumption) | apply OnlyMk.intro | simp only [onlyMk] | dsimp only | split | intro

theorem Only.syncEmpty (s : State) (hk : Only fr s0 s) (m_regs : Part.regs ∈ fr) : Only fr s0 (syncEmpty s) := by
  unfold Sys2Proof.Machine.syncEmpty
  with_reducible repeat' first
    | assumption | apply Only.setBit | exact Or.inl rfl | exact Or.inr (by assumption) | apply OnlyMk.intro
    | simp only [onlyMk] | dsimp only | split | intro

theorem Only.freeUnit (s : State) (ua : Nat) (hk : Only fr s0 s) (m_regs : Part.regs ∈ fr) (m_owed : Part.owed ∈ fr)
    (m_market : Part.market ∈ fr) (m_crier : Part.crier ∈ fr) (m_flt : Part.flt ∈ fr) (m_activity : Part.activity ∈ fr)
    : Only fr s0 (freeUnit s ua) := by
  unfold Sys2Proof.Machine.freeUnit
  with_reducible repeat' first
    | assumption | apply Only.whenB | apply Only.setF | apply Only.pmcEvent | apply Only.syncEmpty | exact Or.inl rfl
    | exact Or.inr (by assumption) | apply OnlyMk.intro | simp only [onlyMk] | dsimp only | split | intro

theorem Only.retag (s : State) (ua cls id : Nat) (hk : Only fr s0 s) (m_market : Part.market ∈ fr)
    : Only fr s0 (retag s ua cls id) := by
  unfold Sys2Proof.Machine.retag
  with_reducible repeat' first
    | assumption | exact Or.inl rfl | exact Or.inr (by assumption) | apply OnlyMk.intro | simp only [onlyMk] | dsimp only
    | split | intro

theorem Only.grantPool (s : State) (rq pool cls id : Nat) (k : UClass) (hk : Only fr s0 s) (m_regs : Part.regs ∈ fr)
    (m_owed : Part.owed ∈ fr) (m_market : Part.market ∈ fr) (m_crier : Part.crier ∈ fr) (m_flt : Part.flt ∈ fr)
    (m_activity : Part.activity ∈ fr) : Only fr s0 (grantPool s rq pool cls id k).1 := by
  unfold Sys2Proof.Machine.grantPool
  with_reducible repeat' first
    | assumption | apply Only.holdUnit | exact Or.inl rfl | exact Or.inr (by assumption) | apply OnlyMk.intro
    | simp only [onlyMk] | dsimp only | split | intro

theorem Only.fallBack (s : State) (hk : Only fr s0 s) (m_regs : Part.regs ∈ fr) : Only fr s0 (fallBack s) := by
  unfold Sys2Proof.Machine.fallBack
  with_reducible repeat' first
    | assumption | apply Only.add64 | exact Or.inl rfl | exact Or.inr (by assumption) | apply OnlyMk.intro
    | simp only [onlyMk] | dsimp only | split | intro

theorem Only.requestUnit (s : State) (rq pool cls id : Nat) (k : UClass) (hk : Only fr s0 s) (m_regs : Part.regs ∈ fr)
    (m_owed : Part.owed ∈ fr) (m_market : Part.market ∈ fr) (m_crier : Part.crier ∈ fr) (m_flt : Part.flt ∈ fr)
    (m_activity : Part.activity ∈ fr) : Only fr s0 (requestUnit s rq pool cls id k).1 := by
  unfold Sys2Proof.Machine.requestUnit
  with_reducible repeat' first
    | assumption | apply Only.fallBack | apply Only.grantPool | apply Only.whenB | apply Only.pmcEvent | apply Only.foldl
    | apply Only.foldl1 | exact Or.inl rfl | exact Or.inr (by assumption) | apply OnlyMk.intro | simp only [onlyMk]
    | dsimp only | split | intro

theorem Only.freeRefused (s : State) (requester ua : Nat) (hk : Only fr s0 s) (m_regs : Part.regs ∈ fr)
    (m_journal : Part.journal ∈ fr) (m_owed : Part.owed ∈ fr) (m_crier : Part.crier ∈ fr) (m_flt : Part.flt ∈ fr)
    : Only fr s0 (freeRefused s requester ua) := by
  unfold Sys2Proof.Machine.freeRefused
  with_reducible repeat' first
    | assumption | apply Only.fault | apply Only.add64 | exact Or.inl rfl | exact Or.inr (by assumption) | apply OnlyMk.intro
    | simp only [onlyMk] | dsimp only | split | intro

theorem Only.addF21 (s : State) (a : Nat) (d : Int) (hk : Only fr s0 s) (m_regs : Part.regs ∈ fr)
    : Only fr s0 (addF21 s a d) := by
  unfold Sys2Proof.Machine.addF21
  with_reducible repeat' first
    | assumption | apply Only.setF | exact Or.inl rfl | exact Or.inr (by assumption) | apply OnlyMk.intro
    | simp only [onlyMk] | dsimp only | split | intro

theorem Only.addOcc (s : State) (q : Nat) (d : Int) (hk : Only fr s0 s) (m_regs : Part.regs ∈ fr)
    : Only fr s0 (addOcc s q d) := by
  unfold Sys2Proof.Machine.addOcc
  with_reducible repeat' first
    | assumption | apply Only.addF21 | exact Or.inl rfl | exact Or.inr (by assumption) | apply OnlyMk.intro
    | simp only [onlyMk] | dsimp only | split | intro

theorem Only.addHostUsed (s : State) (d : Int) (hk : Only fr s0 s) (m_regs : Part.regs ∈ fr)
    : Only fr s0 (addHostUsed s d) := by
  unfold Sys2Proof.Machine.addHostUsed
  with_reducible repeat' first
    | assumption | apply Only.addF21 | exact Or.inl rfl | exact Or.inr (by assumption) | apply OnlyMk.intro
    | simp only [onlyMk] | dsimp only | split | intro

theorem Only.setQueue (s : State) (q : Nat) (l : List Copy) (hk : Only fr s0 s) (m_market : Part.market ∈ fr)
    (m_sched : Part.sched ∈ fr) : Only fr s0 (setQueue s q l) := by
  unfold Sys2Proof.Machine.setQueue
  with_reducible repeat' first
    | assumption | exact Or.inl rfl | exact Or.inr (by assumption) | apply OnlyMk.intro | simp only [onlyMk] | dsimp only
    | split | intro

theorem Only.enqueue (s : State) (q : Nat) (c : Copy) (hk : Only fr s0 s) (m_market : Part.market ∈ fr)
    (m_sched : Part.sched ∈ fr) : Only fr s0 (enqueue s q c) := by
  unfold Sys2Proof.Machine.enqueue
  with_reducible repeat' first
    | assumption | apply Only.setQueue | exact Or.inl rfl | exact Or.inr (by assumption) | apply OnlyMk.intro
    | simp only [onlyMk] | dsimp only | split | intro

theorem Only.noteShare (s : State) (kind q n : Nat) (hk : Only fr s0 s) (m_activity : Part.activity ∈ fr)
    : Only fr s0 (noteShare s kind q n) := by
  unfold Sys2Proof.Machine.noteShare
  with_reducible repeat' first
    | assumption | exact Or.inl rfl | exact Or.inr (by assumption) | apply OnlyMk.intro | simp only [onlyMk] | dsimp only
    | split | intro

theorem Only.noteAdmitted (s : State) (c : Copy) (hk : Only fr s0 s) (m_activity : Part.activity ∈ fr)
    : Only fr s0 (noteAdmitted s c) := by
  unfold Sys2Proof.Machine.noteAdmitted
  with_reducible repeat' first
    | assumption | apply Only.noteShare | exact Or.inl rfl | exact Or.inr (by assumption) | apply OnlyMk.intro
    | simp only [onlyMk] | dsimp only | split | intro

theorem Only.mapPackets (s : State) (f : Packet → Packet) (hk : Only fr s0 s) (m_pipes : Part.pipes ∈ fr)
    (m_market : Part.market ∈ fr) (m_spill : Part.spill ∈ fr) : Only fr s0 (mapPackets s f) := by
  unfold Sys2Proof.Machine.mapPackets
  with_reducible repeat' first
    | assumption | exact Or.inl rfl | exact Or.inr (by assumption) | apply OnlyMk.intro | simp only [onlyMk] | dsimp only
    | split | intro

theorem Only.setSpq (s : State) (q : Nat) (x : SpillQ) (hk : Only fr s0 s) (m_spill : Part.spill ∈ fr)
    : Only fr s0 (setSpq s q x) := by
  unfold Sys2Proof.Machine.setSpq
  with_reducible repeat' first
    | assumption | exact Or.inl rfl | exact Or.inr (by assumption) | apply OnlyMk.intro | simp only [onlyMk] | dsimp only
    | split | intro

theorem Only.addSpl (s : State) (k n : Nat) (hk : Only fr s0 s) (m_regs : Part.regs ∈ fr) : Only fr s0 (addSpl s k n) := by
  unfold Sys2Proof.Machine.addSpl
  with_reducible repeat' first
    | assumption | apply Only.add64 | exact Or.inl rfl | exact Or.inr (by assumption) | apply OnlyMk.intro
    | simp only [onlyMk] | dsimp only | split | intro

theorem Only.setStagingFree (s : State) (n : Nat) (hk : Only fr s0 s) (m_regs : Part.regs ∈ fr)
    : Only fr s0 (setStagingFree s n) := by
  unfold Sys2Proof.Machine.setStagingFree
  with_reducible repeat' first
    | assumption | apply Only.setF | exact Or.inl rfl | exact Or.inr (by assumption) | apply OnlyMk.intro
    | simp only [onlyMk] | dsimp only | split | intro

theorem Only.takePage (s : State) (m : Nat) (hk : Only fr s0 s) (m_regs : Part.regs ∈ fr) (m_spill : Part.spill ∈ fr)
    : Only fr s0 (takePage s m).1 := by
  unfold Sys2Proof.Machine.takePage
  with_reducible repeat' first
    | assumption | apply Only.setF | exact Or.inl rfl | exact Or.inr (by assumption) | apply OnlyMk.intro
    | simp only [onlyMk] | dsimp only | split | intro

theorem Only.givePage (s : State) (m p : Nat) (hk : Only fr s0 s) (m_regs : Part.regs ∈ fr) (m_spill : Part.spill ∈ fr)
    : Only fr s0 (givePage s m p) := by
  unfold Sys2Proof.Machine.givePage
  with_reducible repeat' first
    | assumption | apply Only.setF | exact Or.inl rfl | exact Or.inr (by assumption) | apply OnlyMk.intro
    | simp only [onlyMk] | dsimp only | split | intro

theorem Only.spillEnter (s : State) (q m : Nat) (hk : Only fr s0 s) (m_regs : Part.regs ∈ fr) (m_spill : Part.spill ∈ fr)
    : Only fr s0 (spillEnter s q m) := by
  unfold Sys2Proof.Machine.spillEnter
  with_reducible repeat' first
    | assumption | apply Only.setSpq | apply Only.addSpl | apply Only.setF | exact Or.inl rfl | exact Or.inr (by assumption)
    | apply OnlyMk.intro | simp only [onlyMk] | dsimp only | split | intro

theorem Only.openNext (s : State) (q : Nat) (hk : Only fr s0 s) (m_regs : Part.regs ∈ fr) (m_spill : Part.spill ∈ fr)
    : Only fr s0 (openNext s q) := by
  unfold Sys2Proof.Machine.openNext
  with_reducible repeat' first
    | assumption | apply Only.takePage | apply Only.setSpq | exact Or.inl rfl | exact Or.inr (by assumption)
    | apply OnlyMk.intro | simp only [onlyMk] | dsimp only | split | intro

theorem Only.spillHandoff (s : State) (q : Nat) (c : Copy) (hk : Only fr s0 s) (m_regs : Part.regs ∈ fr)
    (m_spill : Part.spill ∈ fr) (m_activity : Part.activity ∈ fr) : Only fr s0 (spillHandoff s q c).1 := by
  unfold Sys2Proof.Machine.spillHandoff
  with_reducible repeat' first
    | assumption | apply Only.openNext | apply Only.setSpq | apply Only.addSpl | apply Only.setStagingFree
    | apply Only.noteShare | apply Only.noteAdmitted | exact Or.inl rfl | exact Or.inr (by assumption) | apply OnlyMk.intro
    | simp only [onlyMk] | dsimp only | split | intro

theorem Only.spillExit (s : State) (q : Nat) (hk : Only fr s0 s) (m_regs : Part.regs ∈ fr) (m_spill : Part.spill ∈ fr)
    : Only fr s0 (spillExit s q) := by
  unfold Sys2Proof.Machine.spillExit
  with_reducible repeat' first
    | assumption | apply Only.forEach | apply Only.givePage | apply Only.setBit | apply Only.setSpq | exact Or.inl rfl
    | exact Or.inr (by assumption) | apply OnlyMk.intro | simp only [onlyMk] | dsimp only | split | intro

theorem Only.spillCount (s : State) (reason : Nat) (hk : Only fr s0 s) (m_regs : Part.regs ∈ fr) (m_owed : Part.owed ∈ fr)
    (m_lastRaise : Part.lastRaise ∈ fr) (m_crier : Part.crier ∈ fr) (m_flt : Part.flt ∈ fr)
    : Only fr s0 (spillCount s reason) := by
  unfold Sys2Proof.Machine.spillCount
  with_reducible repeat' first
    | assumption | apply Only.raiseLimited | apply Only.addSpl | exact Or.inl rfl | exact Or.inr (by assumption)
    | apply OnlyMk.intro | simp only [onlyMk] | dsimp only | split | intro

theorem Only.notePitch (s : State) (q : Nat) (hk : Only fr s0 s) (m_regs : Part.regs ∈ fr) : Only fr s0 (notePitch s q) := by
  unfold Sys2Proof.Machine.notePitch
  with_reducible repeat' first
    | assumption | apply Only.setF | exact Or.inl rfl | exact Or.inr (by assumption) | apply OnlyMk.intro
    | simp only [onlyMk] | dsimp only | split | intro

theorem Only.updXoff (s : State) (l n : Nat) (hk : Only fr s0 s) (m_regs : Part.regs ∈ fr) (m_sched : Part.sched ∈ fr)
    : Only fr s0 (updXoff s l n) := by
  unfold Sys2Proof.Machine.updXoff
  with_reducible repeat' first
    | assumption | apply Only.setBit | exact Or.inl rfl | exact Or.inr (by assumption) | apply OnlyMk.intro
    | simp only [onlyMk] | dsimp only | split | intro

theorem Only.addIng (s : State) (f : MFrame) (d : Int) (hk : Only fr s0 s) (m_regs : Part.regs ∈ fr)
    (m_sched : Part.sched ∈ fr) : Only fr s0 (addIng s f d) := by
  unfold Sys2Proof.Machine.addIng
  with_reducible repeat' first
    | assumption | apply Only.addF21 | apply Only.updXoff | exact Or.inl rfl | exact Or.inr (by assumption)
    | apply OnlyMk.intro | simp only [onlyMk] | dsimp only | split | intro

theorem Only.ecnApply (s : State) (p : Packet) (q : Nat) (hk : Only fr s0 s) (m_freeCtr : Part.freeCtr ∈ fr)
    : Only fr s0 (ecnApply s p q).1 := by
  unfold Sys2Proof.Machine.ecnApply
  with_reducible repeat' first
    | assumption | apply Only.drawn | exact Or.inl rfl | exact Or.inr (by assumption) | apply OnlyMk.intro
    | simp only [onlyMk] | dsimp only | split | intro

theorem Only.putFrame (s : State) (f : MFrame) (hk : Only fr s0 s) (m_market : Part.market ∈ fr)
    : Only fr s0 (putFrame s f) := by
  unfold Sys2Proof.Machine.putFrame
  with_reducible repeat' first
    | assumption | exact Or.inl rfl | exact Or.inr (by assumption) | apply OnlyMk.intro | simp only [onlyMk] | dsimp only
    | split | intro

theorem Only.dropFrameRec (s : State) (id : Nat) (hk : Only fr s0 s) (m_market : Part.market ∈ fr)
    : Only fr s0 (dropFrameRec s id) := by
  unfold Sys2Proof.Machine.dropFrameRec
  with_reducible repeat' first
    | assumption | exact Or.inl rfl | exact Or.inr (by assumption) | apply OnlyMk.intro | simp only [onlyMk] | dsimp only
    | split | intro

theorem Only.takeChain (fuel : Nat) (s : State) (rq n : Nat) (tag : Nat × Nat) (k : UClass) (hk : Only fr s0 s)
    (m_regs : Part.regs ∈ fr) (m_owed : Part.owed ∈ fr) (m_market : Part.market ∈ fr) (m_crier : Part.crier ∈ fr)
    (m_flt : Part.flt ∈ fr) (m_activity : Part.activity ∈ fr) :
    Only fr s0 (takeChain fuel s rq n tag k).1 := by
  induction fuel generalizing s n with
  | zero => exact hk
  | succ f ih =>
    unfold Sys2Proof.Machine.takeChain
    with_reducible repeat' first
      | assumption | apply ih | apply Only.requestUnit | dsimp only | split | intro

theorem Only.takeUnits (s : State) (rq : Nat) (p : Packet) (tag : Nat × Nat) (k : UClass) (hk : Only fr s0 s)
    (m_regs : Part.regs ∈ fr) (m_owed : Part.owed ∈ fr) (m_market : Part.market ∈ fr) (m_crier : Part.crier ∈ fr)
    (m_flt : Part.flt ∈ fr) (m_activity : Part.activity ∈ fr) : Only fr s0 (takeUnits s rq p tag k).1 := by
  unfold Sys2Proof.Machine.takeUnits
  with_reducible repeat' first
    | assumption | apply Only.requestUnit | apply Only.takeChain | exact Or.inl rfl | exact Or.inr (by assumption)
    | apply OnlyMk.intro | simp only [onlyMk] | dsimp only | split | intro

theorem Only.enqueueCopies (s : State) (p : Packet) (cs : List Copy) (units : List Nat) (hclass : Bool) (hk : Only fr s0 s)
    (m_regs : Part.regs ∈ fr) (m_market : Part.market ∈ fr) (m_sched : Part.sched ∈ fr) (m_activity : Part.activity ∈ fr)
    : Only fr s0 (enqueueCopies s p cs units hclass) := by
  unfold Sys2Proof.Machine.enqueueCopies
  with_reducible repeat' first
    | assumption | apply Only.forEach | apply Only.retag | apply Only.addIng | apply Only.putFrame | apply Only.noteAdmitted
    | apply Only.addOcc | apply Only.enqueue | exact Or.inl rfl | exact Or.inr (by assumption) | apply OnlyMk.intro
    | simp only [onlyMk] | dsimp only | split | intro

theorem Only.shareCopies (s : State) (f : MFrame) (cs : List Copy) (hk : Only fr s0 s) (m_regs : Part.regs ∈ fr)
    (m_market : Part.market ∈ fr) (m_sched : Part.sched ∈ fr) (m_activity : Part.activity ∈ fr)
    : Only fr s0 (shareCopies s f cs) := by
  unfold Sys2Proof.Machine.shareCopies
  with_reducible repeat' first
    | assumption | apply Only.forEach | apply Only.retag | apply Only.putFrame | apply Only.noteAdmitted | apply Only.addOcc
    | apply Only.enqueue | exact Or.inl rfl | exact Or.inr (by assumption) | apply OnlyMk.intro | simp only [onlyMk]
    | dsimp only | split | intro

theorem Only.freeByCopy (s : State) (q u : Nat) (hk : Only fr s0 s) (m_regs : Part.regs ∈ fr) (m_journal : Part.journal ∈ fr)
    (m_owed : Part.owed ∈ fr) (m_market : Part.market ∈ fr) (m_crier : Part.crier ∈ fr) (m_flt : Part.flt ∈ fr)
    (m_activity : Part.activity ∈ fr) : Only fr s0 (freeByCopy s q u) := by
  unfold Sys2Proof.Machine.freeByCopy
  with_reducible repeat' first
    | assumption | apply Only.freeUnit | apply Only.freeRefused | exact Or.inl rfl | exact Or.inr (by assumption)
    | apply OnlyMk.intro | simp only [onlyMk] | dsimp only | split | intro

theorem Only.releaseCopy (s : State) (c : Copy) (hk : Only fr s0 s) (m_regs : Part.regs ∈ fr) (m_journal : Part.journal ∈ fr)
    (m_owed : Part.owed ∈ fr) (m_market : Part.market ∈ fr) (m_sched : Part.sched ∈ fr) (m_crier : Part.crier ∈ fr)
    (m_flt : Part.flt ∈ fr) (m_activity : Part.activity ∈ fr) : Only fr s0 (releaseCopy s c) := by
  unfold Sys2Proof.Machine.releaseCopy
  with_reducible repeat' first
    | assumption | apply Only.addOcc | apply Only.addIng | apply Only.forEach | apply Only.freeByCopy
    | apply Only.dropFrameRec | apply Only.retag | apply Only.putFrame | exact Or.inl rfl | exact Or.inr (by assumption)
    | apply OnlyMk.intro | simp only [onlyMk] | dsimp only | split | intro

theorem Only.spillStep (r : State × List Copy × List (Copy × Nat)) (c : Copy) (hk : Only fr s0 r.1) (m_regs : Part.regs ∈ fr)
    (m_spill : Part.spill ∈ fr) (m_activity : Part.activity ∈ fr) : Only fr s0 (spillStep r c).1 := by
  unfold Sys2Proof.Machine.spillStep
  with_reducible repeat' first
    | assumption | apply Only.spillHandoff | apply Only.spillExit | apply Only.spillEnter | exact Or.inl rfl
    | exact Or.inr (by assumption) | apply OnlyMk.intro | simp only [onlyMk] | dsimp only | split | intro

theorem Only.placeCopies (s : State) (p : Packet) (cs : List Copy) (units : List Nat) (hclass : Bool) (hk : Only fr s0 s)
    (m_regs : Part.regs ∈ fr) (m_market : Part.market ∈ fr) (m_sched : Part.sched ∈ fr) (m_activity : Part.activity ∈ fr)
    : Only fr s0 (placeCopies s p cs units hclass) := by
  unfold Sys2Proof.Machine.placeCopies
  with_reducible repeat' first
    | assumption | apply Only.forEach | apply Only.add64 | apply Only.enqueueCopies | exact Or.inl rfl
    | exact Or.inr (by assumption) | apply OnlyMk.intro | simp only [onlyMk] | dsimp only | split | intro

theorem Only.placeFails (s : State) (cs : List Copy) (units : List Nat) (hk : Only fr s0 s) (m_regs : Part.regs ∈ fr)
    (m_owed : Part.owed ∈ fr) (m_market : Part.market ∈ fr) (m_crier : Part.crier ∈ fr) (m_flt : Part.flt ∈ fr)
    (m_activity : Part.activity ∈ fr) : Only fr s0 (placeFails s cs units).1 := by
  unfold Sys2Proof.Machine.placeFails
  with_reducible repeat' first
    | assumption | apply Only.forEach | apply Only.freeUnit | exact Or.inl rfl | exact Or.inr (by assumption)
    | apply OnlyMk.intro | simp only [onlyMk] | dsimp only | split | intro

theorem Only.takeMore (s : State) (rq : Nat) (p : Packet) (units : List Nat) (hk : Only fr s0 s) (m_regs : Part.regs ∈ fr)
    (m_owed : Part.owed ∈ fr) (m_market : Part.market ∈ fr) (m_crier : Part.crier ∈ fr) (m_flt : Part.flt ∈ fr)
    (m_activity : Part.activity ∈ fr) : Only fr s0 (takeMore s rq p units).1 := by
  unfold Sys2Proof.Machine.takeMore
  with_reducible repeat' first
    | assumption | apply Only.takeUnits | apply Only.takeChain | exact Or.inl rfl | exact Or.inr (by assumption)
    | apply OnlyMk.intro | simp only [onlyMk] | dsimp only | split | intro

theorem Only.placeMarket (s : State) (rq : Nat) (p : Packet) (cs : List Copy) (hclass : Bool) (hk : Only fr s0 s)
    (m_regs : Part.regs ∈ fr) (m_owed : Part.owed ∈ fr) (m_market : Part.market ∈ fr) (m_sched : Part.sched ∈ fr)
    (m_crier : Part.crier ∈ fr) (m_flt : Part.flt ∈ fr) (m_activity : Part.activity ∈ fr)
    : Only fr s0 (placeMarket s rq p cs hclass).1 := by
  unfold Sys2Proof.Machine.placeMarket
  with_reducible repeat' first
    | assumption | apply Only.shareCopies | apply Only.takeUnits | apply Only.placeCopies | apply Only.placeFails
    | apply Only.takeMore | exact Or.inl rfl | exact Or.inr (by assumption) | apply OnlyMk.intro | simp only [onlyMk]
    | dsimp only | split | intro

theorem Only.ecnCount (s : State) (k : Option Bool) (kept : Bool) (hk : Only fr s0 s) (m_regs : Part.regs ∈ fr)
    : Only fr s0 (ecnCount s k kept) := by
  unfold Sys2Proof.Machine.ecnCount
  with_reducible repeat' first
    | assumption | apply Only.add64 | exact Or.inl rfl | exact Or.inr (by assumption) | apply OnlyMk.intro
    | simp only [onlyMk] | dsimp only | split | intro

theorem Only.admitCopies (s : State) (rq : Nat) (p : Packet) (cs : List Copy) (hk : Only fr s0 s) (m_regs : Part.regs ∈ fr)
    (m_freeCtr : Part.freeCtr ∈ fr) (m_owed : Part.owed ∈ fr) (m_market : Part.market ∈ fr) (m_spill : Part.spill ∈ fr)
    (m_sched : Part.sched ∈ fr) (m_crier : Part.crier ∈ fr) (m_flt : Part.flt ∈ fr) (m_activity : Part.activity ∈ fr)
    : Only fr s0 (admitCopies s rq p cs).1 := by
  unfold Sys2Proof.Machine.admitCopies
  with_reducible repeat' first
    | assumption | apply Only.forEach | apply Only.notePitch | apply Only.ecnApply | apply Only.spillStep
    | apply Only.placeMarket | apply Only.ecnCount | apply Only.foldl | apply Only.foldl1 | exact Or.inl rfl
    | exact Or.inr (by assumption) | apply OnlyMk.intro | simp only [onlyMk] | dsimp only | split | intro

theorem Only.sessionTakes (s : State) (k : Nat) (hk : Only fr s0 s) (m_market : Part.market ∈ fr)
    : Only fr s0 (sessionTakes s k).1 := by
  unfold Sys2Proof.Machine.sessionTakes
  with_reducible repeat' first
    | assumption | exact Or.inl rfl | exact Or.inr (by assumption) | apply OnlyMk.intro | simp only [onlyMk] | dsimp only
    | split | intro

theorem Only.dropCopy (s : State) (pipe reason : Nat) (p : Packet) (t : Tally) (hk : Only fr s0 s) (m_regs : Part.regs ∈ fr)
    (m_freeCtr : Part.freeCtr ∈ fr) (m_owed : Part.owed ∈ fr) (m_lastRaise : Part.lastRaise ∈ fr) (m_market : Part.market ∈ fr)
    (m_spill : Part.spill ∈ fr) (m_sched : Part.sched ∈ fr) (m_crier : Part.crier ∈ fr) (m_flt : Part.flt ∈ fr)
    (m_activity : Part.activity ∈ fr) : Only fr s0 (dropCopy s pipe reason p t) := by
  unfold Sys2Proof.Machine.dropCopy
  with_reducible repeat' first
    | assumption | apply Only.sessionTakes | apply Only.admitCopies | apply Only.addTal | apply Only.raiseLimited
    | exact Or.inl rfl | exact Or.inr (by assumption) | apply OnlyMk.intro | simp only [onlyMk] | dsimp only | split | intro

theorem Only.dropPacket (s : State) (pipe reason : Nat) (p : Packet) (t : Tally) (hk : Only fr s0 s)
    (m_regs : Part.regs ∈ fr) (m_freeCtr : Part.freeCtr ∈ fr) (m_owed : Part.owed ∈ fr) (m_lastRaise : Part.lastRaise ∈ fr)
    (m_market : Part.market ∈ fr) (m_spill : Part.spill ∈ fr) (m_sched : Part.sched ∈ fr) (m_telem : Part.telem ∈ fr)
    (m_crier : Part.crier ∈ fr) (m_flt : Part.flt ∈ fr) (m_activity : Part.activity ∈ fr)
    : Only fr s0 (dropPacket s pipe reason p t) := by
  unfold Sys2Proof.Machine.dropPacket
  with_reducible repeat' first
    | assumption | apply Only.spillCount | apply Only.dropRecord | apply Only.raiseLimited | apply Only.dropCopy
    | exact Or.inl rfl | exact Or.inr (by assumption) | apply OnlyMk.intro | simp only [onlyMk] | dsimp only | split | intro

theorem Only.dropQueued (s : State) (c : Copy) (reason : Nat) (hk : Only fr s0 s) (m_regs : Part.regs ∈ fr)
    (m_freeCtr : Part.freeCtr ∈ fr) (m_journal : Part.journal ∈ fr) (m_owed : Part.owed ∈ fr) (m_lastRaise : Part.lastRaise ∈ fr)
    (m_market : Part.market ∈ fr) (m_spill : Part.spill ∈ fr) (m_sched : Part.sched ∈ fr) (m_telem : Part.telem ∈ fr)
    (m_crier : Part.crier ∈ fr) (m_flt : Part.flt ∈ fr) (m_activity : Part.activity ∈ fr)
    : Only fr s0 (dropQueued s c reason) := by
  unfold Sys2Proof.Machine.dropQueued
  with_reducible repeat' first
    | assumption | apply Only.releaseCopy | apply Only.dropPacket | exact Or.inl rfl | exact Or.inr (by assumption)
    | apply OnlyMk.intro | simp only [onlyMk] | dsimp only | split | intro

theorem Only.dropRefused (s : State) (pipe : Nat) (l : List (Copy × Nat)) (hk : Only fr s0 s) (m_regs : Part.regs ∈ fr)
    (m_freeCtr : Part.freeCtr ∈ fr) (m_owed : Part.owed ∈ fr) (m_lastRaise : Part.lastRaise ∈ fr) (m_market : Part.market ∈ fr)
    (m_spill : Part.spill ∈ fr) (m_sched : Part.sched ∈ fr) (m_telem : Part.telem ∈ fr) (m_crier : Part.crier ∈ fr)
    (m_flt : Part.flt ∈ fr) (m_activity : Part.activity ∈ fr) : Only fr s0 (dropRefused s pipe l) := by
  unfold Sys2Proof.Machine.dropRefused
  with_reducible repeat' first
    | assumption | apply Only.forEach | apply Only.dropPacket | exact Or.inl rfl | exact Or.inr (by assumption)
    | apply OnlyMk.intro | simp only [onlyMk] | dsimp only | split | intro

theorem Only.putCell (s : State) (m ch page : Nat) (b : List Byte) (hk : Only fr s0 s) (m_spill : Part.spill ∈ fr)
    : Only fr s0 (putCell s m ch page b) := by
  unfold Sys2Proof.Machine.putCell
  with_reducible repeat' first
    | assumption | exact Or.inl rfl | exact Or.inr (by assumption) | apply OnlyMk.intro | simp only [onlyMk] | dsimp only
    | split | intro

theorem Only.execPageFlushTimer (queue : Nat) (s : State) (hk : Only fr s0 s) (m_spill : Part.spill ∈ fr)
    : OnlyO fr s0 (execPageFlushTimer queue s) := by
  unfold Sys2Proof.Machine.execPageFlushTimer
  with_reducible repeat' first
    | assumption | apply Only.setSpq | apply OnlyO.next | exact Or.inl rfl | exact Or.inr (by assumption)
    | apply OnlyMk.intro | simp only [onlyMk] | dsimp only | split | intro

theorem Only.addXfer (s : State) (t : Xfer) (hk : Only fr s0 s) (m_spill : Part.spill ∈ fr) : Only fr s0 (addXfer s t) := by
  unfold Sys2Proof.Machine.addXfer
  with_reducible repeat' first
    | assumption | exact Or.inl rfl | exact Or.inr (by assumption) | apply OnlyMk.intro | simp only [onlyMk] | dsimp only
    | split | intro

theorem Only.dropXfer (s : State) (t : Xfer) (hk : Only fr s0 s) (m_spill : Part.spill ∈ fr)
    : Only fr s0 (dropXfer s t) := by
  unfold Sys2Proof.Machine.dropXfer
  with_reducible repeat' first
    | assumption | exact Or.inl rfl | exact Or.inr (by assumption) | apply OnlyMk.intro | simp only [onlyMk] | dsimp only
    | split | intro

theorem Only.execPageWriteStart (queue : Nat) (s : State) (hk : Only fr s0 s) (m_regs : Part.regs ∈ fr)
    (m_spill : Part.spill ∈ fr) : OnlyO fr s0 (execPageWriteStart queue s) := by
  unfold Sys2Proof.Machine.execPageWriteStart
  with_reducible repeat' first
    | assumption | apply Only.whenB | apply Only.openNext | apply Only.setSpq | apply Only.addXfer | apply OnlyO.next
    | exact Or.inl rfl | exact Or.inr (by assumption) | apply OnlyMk.intro | simp only [onlyMk] | dsimp only | split | intro

theorem Only.dropSpilled (s : State) (q reason : Nat) (r : Record) (hk : Only fr s0 s) (m_regs : Part.regs ∈ fr)
    (m_freeCtr : Part.freeCtr ∈ fr) (m_owed : Part.owed ∈ fr) (m_lastRaise : Part.lastRaise ∈ fr) (m_market : Part.market ∈ fr)
    (m_spill : Part.spill ∈ fr) (m_sched : Part.sched ∈ fr) (m_telem : Part.telem ∈ fr) (m_crier : Part.crier ∈ fr)
    (m_flt : Part.flt ∈ fr) (m_activity : Part.activity ∈ fr) : Only fr s0 (dropSpilled s q reason r) := by
  unfold Sys2Proof.Machine.dropSpilled
  with_reducible repeat' first
    | assumption | apply Only.dropPacket | exact Or.inl rfl | exact Or.inr (by assumption) | apply OnlyMk.intro
    | simp only [onlyMk] | dsimp only | split | intro

theorem Only.freeDrain (s : State) (q : Nat) (units : List (List Nat)) (hk : Only fr s0 s) (m_regs : Part.regs ∈ fr)
    (m_owed : Part.owed ∈ fr) (m_market : Part.market ∈ fr) (m_crier : Part.crier ∈ fr) (m_flt : Part.flt ∈ fr)
    (m_activity : Part.activity ∈ fr) : Only fr s0 (freeDrain s q units) := by
  unfold Sys2Proof.Machine.freeDrain
  with_reducible repeat' first
    | assumption | apply Only.addOcc | apply Only.forEach | apply Only.freeUnit | exact Or.inl rfl
    | exact Or.inr (by assumption) | apply OnlyMk.intro | simp only [onlyMk] | dsimp only | split | intro

theorem Only.dropHbmPart (s : State) (q reason : Nat) (hk : Only fr s0 s) (m_regs : Part.regs ∈ fr)
    (m_freeCtr : Part.freeCtr ∈ fr) (m_owed : Part.owed ∈ fr) (m_lastRaise : Part.lastRaise ∈ fr) (m_market : Part.market ∈ fr)
    (m_spill : Part.spill ∈ fr) (m_sched : Part.sched ∈ fr) (m_telem : Part.telem ∈ fr) (m_crier : Part.crier ∈ fr)
    (m_flt : Part.flt ∈ fr) (m_activity : Part.activity ∈ fr) : Only fr s0 (dropHbmPart s q reason) := by
  unfold Sys2Proof.Machine.dropHbmPart
  with_reducible repeat' first
    | assumption | apply Only.forEach | apply Only.dropXfer | apply Only.freeDrain | apply Only.dropSpilled
    | apply Only.setStagingFree | apply Only.setF | apply Only.setBit | apply Only.setSpq | apply Only.foldl
    | apply Only.foldl1 | exact Or.inl rfl | exact Or.inr (by assumption) | apply OnlyMk.intro | simp only [onlyMk]
    | dsimp only | split | intro

theorem Only.loseStack (s : State) (m : Nat) (hk : Only fr s0 s) (m_regs : Part.regs ∈ fr) (m_freeCtr : Part.freeCtr ∈ fr)
    (m_owed : Part.owed ∈ fr) (m_lastRaise : Part.lastRaise ∈ fr) (m_market : Part.market ∈ fr) (m_spill : Part.spill ∈ fr)
    (m_sched : Part.sched ∈ fr) (m_telem : Part.telem ∈ fr) (m_crier : Part.crier ∈ fr) (m_flt : Part.flt ∈ fr)
    (m_activity : Part.activity ∈ fr) : Only fr s0 (loseStack s m) := by
  unfold Sys2Proof.Machine.loseStack
  with_reducible repeat' first
    | assumption | apply Only.raise | apply Only.setBit | apply Only.clearBringup | apply Only.forEach
    | apply Only.dropHbmPart | apply Only.whenB | exact Or.inl rfl | exact Or.inr (by assumption) | apply OnlyMk.intro
    | simp only [onlyMk] | dsimp only | split | intro

theorem Only.retireChannel (s : State) (m c : Nat) (hk : Only fr s0 s) (m_regs : Part.regs ∈ fr)
    (m_freeCtr : Part.freeCtr ∈ fr) (m_owed : Part.owed ∈ fr) (m_lastRaise : Part.lastRaise ∈ fr) (m_market : Part.market ∈ fr)
    (m_spill : Part.spill ∈ fr) (m_sched : Part.sched ∈ fr) (m_telem : Part.telem ∈ fr) (m_crier : Part.crier ∈ fr)
    (m_flt : Part.flt ∈ fr) (m_activity : Part.activity ∈ fr) : Only fr s0 (retireChannel s m c) := by
  unfold Sys2Proof.Machine.retireChannel
  with_reducible repeat' first
    | assumption | apply Only.raise | apply Only.setBit | apply Only.loseStack | exact Or.inl rfl
    | exact Or.inr (by assumption) | apply OnlyMk.intro | simp only [onlyMk] | dsimp only | split | intro

theorem Only.noteChErr (s : State) (m c : Nat) (hk : Only fr s0 s) (m_regs : Part.regs ∈ fr) (m_freeCtr : Part.freeCtr ∈ fr)
    (m_owed : Part.owed ∈ fr) (m_lastRaise : Part.lastRaise ∈ fr) (m_market : Part.market ∈ fr) (m_spill : Part.spill ∈ fr)
    (m_sched : Part.sched ∈ fr) (m_telem : Part.telem ∈ fr) (m_crier : Part.crier ∈ fr) (m_flt : Part.flt ∈ fr)
    (m_activity : Part.activity ∈ fr) : Only fr s0 (noteChErr s m c) := by
  unfold Sys2Proof.Machine.noteChErr
  with_reducible repeat' first
    | assumption | apply Only.satF | apply Only.retireChannel | exact Or.inl rfl | exact Or.inr (by assumption)
    | apply OnlyMk.intro | simp only [onlyMk] | dsimp only | split | intro

theorem Only.noteChCorr (s : State) (m c : Nat) (hk : Only fr s0 s) (m_regs : Part.regs ∈ fr) (m_owed : Part.owed ∈ fr)
    (m_crier : Part.crier ∈ fr) (m_flt : Part.flt ∈ fr) (m_activity : Part.activity ∈ fr) : Only fr s0 (noteChCorr s m c) := by
  unfold Sys2Proof.Machine.noteChCorr
  with_reducible repeat' first
    | assumption | apply Only.pmcBeats | apply Only.satF | exact Or.inl rfl | exact Or.inr (by assumption)
    | apply OnlyMk.intro | simp only [onlyMk] | dsimp only | split | intro

theorem Only.rebuiltRecord (s : State) (requester access m c page : Nat) (hk : Only fr s0 s) (m_regs : Part.regs ∈ fr)
    (m_journal : Part.journal ∈ fr) (m_owed : Part.owed ∈ fr) (m_crier : Part.crier ∈ fr) (m_flt : Part.flt ∈ fr)
    : Only fr s0 (rebuiltRecord s requester access m c page) := by
  unfold Sys2Proof.Machine.rebuiltRecord
  with_reducible repeat' first
    | assumption | apply Only.fault | apply Only.addSpl | exact Or.inl rfl | exact Or.inr (by assumption)
    | apply OnlyMk.intro | simp only [onlyMk] | dsimp only | split | intro

theorem Only.execPageWriteCommit (stack tag : Nat) (failedCh : List Nat) (s : State) (hk : Only fr s0 s)
    (m_regs : Part.regs ∈ fr) (m_freeCtr : Part.freeCtr ∈ fr) (m_owed : Part.owed ∈ fr) (m_lastRaise : Part.lastRaise ∈ fr)
    (m_market : Part.market ∈ fr) (m_spill : Part.spill ∈ fr) (m_sched : Part.sched ∈ fr) (m_telem : Part.telem ∈ fr)
    (m_crier : Part.crier ∈ fr) (m_flt : Part.flt ∈ fr) (m_activity : Part.activity ∈ fr)
    : OnlyO fr s0 (execPageWriteCommit stack tag failedCh s) := by
  unfold Sys2Proof.Machine.execPageWriteCommit
  with_reducible repeat' first
    | assumption | apply Only.forEach | apply Only.pmcBeats | apply Only.noteAct | apply Only.putCell | apply Only.setSpq
    | apply Only.setStagingFree | apply Only.dropXfer | apply Only.addSpl | apply Only.setF | apply Only.noteChErr
    | apply OnlyO.next | exact Or.inl rfl | exact Or.inr (by assumption) | apply OnlyMk.intro | simp only [onlyMk]
    | dsimp only | split | intro

theorem Only.drainUnits (s : State) (recs : List Record) (hk : Only fr s0 s)
    (m_regs : Part.regs ∈ fr) (m_owed : Part.owed ∈ fr) (m_market : Part.market ∈ fr) (m_crier : Part.crier ∈ fr)
    (m_flt : Part.flt ∈ fr) (m_activity : Part.activity ∈ fr) :
    ∀ x, drainUnits s recs = some x → Only fr s0 x.1 := by
  unfold Sys2Proof.Machine.drainUnits
  suffices ∀ (l : List Record) (acc : Option (State × List (List Nat))), (∀ x, acc = some x → Only fr s0 x.1) →
      ∀ x, l.foldl _ acc = some x → Only fr s0 x.1 from this recs _ (by rintro x ⟨⟩; exact hk)
  intro l
  induction l with
  | nil => exact fun acc h x hx => h x hx
  | cons r rest ih =>
    intro acc h
    apply ih
    intro x hx
    dsimp only at hx
    split at hx
    · cases hx
    · rename_i s' us
      have h0 := h _ rfl
      split at hx
      · cases hx
        dsimp only
        refine Only.foldl1 (s := (s', [])) h0 ?_
        intro t y ht
        with_reducible repeat' first | assumption | apply Only.requestUnit
      · cases hx

theorem Only.deliverFrame (s : State) (q : Nat) (r : Record) (b : List Byte) (units : List Nat) (hk : Only fr s0 s)
    (m_regs : Part.regs ∈ fr) (m_pipes : Part.pipes ∈ fr) (m_market : Part.market ∈ fr) (m_sched : Part.sched ∈ fr)
    (m_activity : Part.activity ∈ fr) : Only fr s0 (deliverFrame s q r b units) := by
  unfold Sys2Proof.Machine.deliverFrame
  with_reducible repeat' first
    | assumption | apply Only.addIng | apply Only.putFrame | apply Only.forEach | apply Only.retag | apply Only.addSpl
    | apply Only.noteShare | apply Only.enqueue | exact Or.inl rfl | exact Or.inr (by assumption) | apply OnlyMk.intro
    | simp only [onlyMk] | dsimp only | split | intro

theorem Only.deliverAll (s : State) (q : Nat) (lost : Bool) (l : List (Record × List Nat))
    (stream : List Byte) (cl : Bool) (hk : Only fr s0 s)
    (m_regs : Part.regs ∈ fr) (m_freeCtr : Part.freeCtr ∈ fr) (m_owed : Part.owed ∈ fr) (m_lastRaise : Part.lastRaise ∈ fr)
    (m_pipes : Part.pipes ∈ fr) (m_market : Part.market ∈ fr) (m_spill : Part.spill ∈ fr) (m_sched : Part.sched ∈ fr)
    (m_telem : Part.telem ∈ fr) (m_crier : Part.crier ∈ fr) (m_flt : Part.flt ∈ fr) (m_activity : Part.activity ∈ fr) :
    Only fr s0 (deliverAll s q lost l stream cl).1 := by
  induction l generalizing s stream cl with
  | nil => exact hk
  | cons x rest ih =>
    obtain ⟨r, us⟩ := x
    unfold Sys2Proof.Machine.deliverAll
    with_reducible repeat' first
      | assumption | apply ih | apply Only.dropSpilled | apply Only.freeDrain | apply Only.deliverFrame | split

theorem Only.commitRead (s : State) (t : Xfer) (d : Option (List Byte)) (hk : Only fr s0 s) (m_regs : Part.regs ∈ fr)
    (m_freeCtr : Part.freeCtr ∈ fr) (m_owed : Part.owed ∈ fr) (m_lastRaise : Part.lastRaise ∈ fr) (m_pipes : Part.pipes ∈ fr)
    (m_market : Part.market ∈ fr) (m_spill : Part.spill ∈ fr) (m_sched : Part.sched ∈ fr) (m_telem : Part.telem ∈ fr)
    (m_crier : Part.crier ∈ fr) (m_flt : Part.flt ∈ fr) (m_activity : Part.activity ∈ fr) : Only fr s0 (commitRead s t d) := by
  unfold Sys2Proof.Machine.commitRead
  with_reducible repeat' first
    | assumption | apply Only.deliverAll | apply Only.dropXfer | apply Only.setSpq | apply Only.whenB | apply Only.raise
    | apply Only.setStagingFree | apply Only.addSpl | apply Only.setF | apply Only.givePage | exact Or.inl rfl
    | exact Or.inr (by assumption) | apply OnlyMk.intro | simp only [onlyMk] | dsimp only | split | intro

theorem Only.commitReads (fuel : Nat) (s : State) (q : Nat) (hk : Only fr s0 s)
    (m_regs : Part.regs ∈ fr) (m_freeCtr : Part.freeCtr ∈ fr) (m_owed : Part.owed ∈ fr) (m_lastRaise : Part.lastRaise ∈ fr)
    (m_pipes : Part.pipes ∈ fr) (m_market : Part.market ∈ fr) (m_spill : Part.spill ∈ fr) (m_sched : Part.sched ∈ fr)
    (m_telem : Part.telem ∈ fr) (m_crier : Part.crier ∈ fr) (m_flt : Part.flt ∈ fr) (m_activity : Part.activity ∈ fr) :
    Only fr s0 (commitReads fuel s q) := by
  induction fuel generalizing s with
  | zero => exact hk
  | succ f ih =>
    unfold Sys2Proof.Machine.commitReads
    with_reducible repeat' first
      | assumption | apply ih | apply Only.commitRead | dsimp only | split | intro

theorem Only.settleReads (s : State) (q : Nat) (hk : Only fr s0 s) (m_regs : Part.regs ∈ fr) (m_freeCtr : Part.freeCtr ∈ fr)
    (m_owed : Part.owed ∈ fr) (m_lastRaise : Part.lastRaise ∈ fr) (m_pipes : Part.pipes ∈ fr) (m_market : Part.market ∈ fr)
    (m_spill : Part.spill ∈ fr) (m_sched : Part.sched ∈ fr) (m_telem : Part.telem ∈ fr) (m_crier : Part.crier ∈ fr)
    (m_flt : Part.flt ∈ fr) (m_activity : Part.activity ∈ fr) : Only fr s0 (settleReads s q) := by
  unfold Sys2Proof.Machine.settleReads
  with_reducible repeat' first
    | assumption | apply Only.spillExit | apply Only.commitReads | exact Or.inl rfl | exact Or.inr (by assumption)
    | apply OnlyMk.intro | simp only [onlyMk] | dsimp only | split | intro

theorem Only.execPageReadStart (queue : Nat) (s : State) (hk : Only fr s0 s)
    (m_regs : Part.regs ∈ fr) (m_freeCtr : Part.freeCtr ∈ fr) (m_owed : Part.owed ∈ fr) (m_lastRaise : Part.lastRaise ∈ fr)
    (m_pipes : Part.pipes ∈ fr) (m_market : Part.market ∈ fr) (m_spill : Part.spill ∈ fr) (m_sched : Part.sched ∈ fr)
    (m_telem : Part.telem ∈ fr) (m_crier : Part.crier ∈ fr) (m_flt : Part.flt ∈ fr) (m_activity : Part.activity ∈ fr) :
    OnlyO fr s0 (execPageReadStart queue s) := by
  have hd : ∀ recs x, Machine.drainUnits s recs = some x → Only fr s0 x.1 := fun recs x hx => by
    with_reducible repeat' first | assumption | exact Only.drainUnits _ _ ‹_› ‹_› ‹_› ‹_› ‹_› ‹_› ‹_› _ hx
  unfold Sys2Proof.Machine.execPageReadStart
  with_reducible repeat' first
    | assumption | apply OnlyO.next | apply Only.settleReads | apply Only.addSpl | apply Only.addXfer | apply Only.setSpq
    | apply Only.addOcc | exact hd _ _ (by assumption) | dsimp only | split | intro

theorem Only.execPageReadCommit (stack tag : Nat) (corrCh badCh : List Nat) (s : State) (hk : Only fr s0 s)
    (m_regs : Part.regs ∈ fr) (m_freeCtr : Part.freeCtr ∈ fr) (m_journal : Part.journal ∈ fr) (m_owed : Part.owed ∈ fr)
    (m_lastRaise : Part.lastRaise ∈ fr) (m_pipes : Part.pipes ∈ fr) (m_market : Part.market ∈ fr) (m_spill : Part.spill ∈ fr)
    (m_sched : Part.sched ∈ fr) (m_telem : Part.telem ∈ fr) (m_crier : Part.crier ∈ fr) (m_flt : Part.flt ∈ fr)
    (m_activity : Part.activity ∈ fr) : OnlyO fr s0 (execPageReadCommit stack tag corrCh badCh s) := by
  unfold Sys2Proof.Machine.execPageReadCommit
  with_reducible repeat' first
    | assumption | apply Only.forEach | apply Only.pmcBeats | apply Only.noteAct | apply Only.noteChCorr
    | apply Only.settleReads | apply Only.noteChErr | apply Only.rebuiltRecord | apply Only.whenB | apply OnlyO.next
    | exact Or.inl rfl | exact Or.inr (by assumption) | apply OnlyMk.intro | simp only [onlyMk] | dsimp only | split | intro

theorem Only.execChRetire (stack : Nat) (value : Word) (s : State) (hk : Only fr s0 s) (m_regs : Part.regs ∈ fr)
    (m_freeCtr : Part.freeCtr ∈ fr) (m_owed : Part.owed ∈ fr) (m_lastRaise : Part.lastRaise ∈ fr) (m_top : Part.top ∈ fr)
    (m_market : Part.market ∈ fr) (m_spill : Part.spill ∈ fr) (m_sched : Part.sched ∈ fr) (m_telem : Part.telem ∈ fr)
    (m_crier : Part.crier ∈ fr) (m_flt : Part.flt ∈ fr) (m_activity : Part.activity ∈ fr)
    : OnlyO fr s0 (execChRetire stack value s) := by
  unfold Sys2Proof.Machine.execChRetire
  with_reducible repeat' first
    | assumption | apply Only.holdWrite | apply Only.retireChannel | apply OnlyO.next | exact Or.inl rfl
    | exact Or.inr (by assumption) | apply OnlyMk.intro | simp only [onlyMk] | dsimp only | split | intro

theorem Only.execStackLost (stack : Nat) (s : State) (hk : Only fr s0 s) (m_regs : Part.regs ∈ fr)
    (m_freeCtr : Part.freeCtr ∈ fr) (m_owed : Part.owed ∈ fr) (m_lastRaise : Part.lastRaise ∈ fr) (m_market : Part.market ∈ fr)
    (m_spill : Part.spill ∈ fr) (m_sched : Part.sched ∈ fr) (m_telem : Part.telem ∈ fr) (m_crier : Part.crier ∈ fr)
    (m_flt : Part.flt ∈ fr) (m_activity : Part.activity ∈ fr) : OnlyO fr s0 (execStackLost stack s) := by
  unfold Sys2Proof.Machine.execStackLost
  with_reducible repeat' first
    | assumption | apply Only.loseStack | apply OnlyO.next | exact Or.inl rfl | exact Or.inr (by assumption)
    | apply OnlyMk.intro | simp only [onlyMk] | dsimp only | split | intro

theorem Only.execHbmNoResponse (stack tag : Nat) (s : State) (hk : Only fr s0 s) (m_regs : Part.regs ∈ fr)
    (m_freeCtr : Part.freeCtr ∈ fr) (m_owed : Part.owed ∈ fr) (m_lastRaise : Part.lastRaise ∈ fr) (m_market : Part.market ∈ fr)
    (m_spill : Part.spill ∈ fr) (m_sched : Part.sched ∈ fr) (m_telem : Part.telem ∈ fr) (m_crier : Part.crier ∈ fr)
    (m_flt : Part.flt ∈ fr) (m_activity : Part.activity ∈ fr) : OnlyO fr s0 (execHbmNoResponse stack tag s) := by
  unfold Sys2Proof.Machine.execHbmNoResponse
  with_reducible repeat' first
    | assumption | apply Only.loseStack | apply OnlyO.next | exact Or.inl rfl | exact Or.inr (by assumption)
    | apply OnlyMk.intro | simp only [onlyMk] | dsimp only | split | intro

theorem Only.execHbmRefresh (stack ch temp : Nat) (s : State) (hk : Only fr s0 s) (m_regs : Part.regs ∈ fr)
    (m_spill : Part.spill ∈ fr) : OnlyO fr s0 (execHbmRefresh stack ch temp s) := by
  unfold Sys2Proof.Machine.execHbmRefresh
  with_reducible repeat' first
    | assumption | apply Only.setBit | apply Only.setF | apply OnlyO.next | exact Or.inl rfl | exact Or.inr (by assumption)
    | apply OnlyMk.intro | simp only [onlyMk] | dsimp only | split | intro

theorem Only.mendCell (s : State) (m page ch : Nat) (hk : Only fr s0 s) (m_spill : Part.spill ∈ fr)
    : Only fr s0 (mendCell s m page ch) := by
  unfold Sys2Proof.Machine.mendCell
  with_reducible repeat' first
    | assumption | exact Or.inl rfl | exact Or.inr (by assumption) | apply OnlyMk.intro | simp only [onlyMk] | dsimp only
    | split | intro

theorem Only.execPatrolScrub (stack page ch : Nat) (corr uncorr : Bool) (s : State) (hk : Only fr s0 s)
    (m_regs : Part.regs ∈ fr) (m_freeCtr : Part.freeCtr ∈ fr) (m_journal : Part.journal ∈ fr) (m_owed : Part.owed ∈ fr)
    (m_lastRaise : Part.lastRaise ∈ fr) (m_market : Part.market ∈ fr) (m_spill : Part.spill ∈ fr) (m_sched : Part.sched ∈ fr)
    (m_telem : Part.telem ∈ fr) (m_crier : Part.crier ∈ fr) (m_flt : Part.flt ∈ fr) (m_activity : Part.activity ∈ fr)
    : OnlyO fr s0 (execPatrolScrub stack page ch corr uncorr s) := by
  unfold Sys2Proof.Machine.execPatrolScrub
  with_reducible repeat' first
    | assumption | apply Only.whenB | apply Only.noteChCorr | apply Only.pmcBeats | apply Only.noteChErr | apply Only.forEach
    | apply Only.mendCell | apply Only.putCell | apply Only.rebuiltRecord | apply OnlyO.next | exact Or.inl rfl
    | exact Or.inr (by assumption) | apply OnlyMk.intro | simp only [onlyMk] | dsimp only | split | intro

theorem Only.splCfgBad (s : State) (hk : Only fr s0 s) (m_regs : Part.regs ∈ fr) (m_owed : Part.owed ∈ fr)
    (m_crier : Part.crier ∈ fr) (m_flt : Part.flt ∈ fr) : Only fr s0 (splCfgBad s) := by
  unfold Sys2Proof.Machine.splCfgBad
  with_reducible repeat' first
    | assumption | apply Only.raise | apply Only.setBit | exact Or.inl rfl | exact Or.inr (by assumption)
    | apply OnlyMk.intro | simp only [onlyMk] | dsimp only | split | intro

theorem Only.diagCtrl (s : State) (m : Nat) (v : Word) (hk : Only fr s0 s) (m_regs : Part.regs ∈ fr)
    (m_owed : Part.owed ∈ fr) (m_crier : Part.crier ∈ fr) (m_flt : Part.flt ∈ fr) : Only fr s0 (diagCtrl s m v) := by
  unfold Sys2Proof.Machine.diagCtrl
  with_reducible repeat' first
    | assumption | apply Only.setF | apply Only.splCfgBad | exact Or.inl rfl | exact Or.inr (by assumption)
    | apply OnlyMk.intro | simp only [onlyMk] | dsimp only | split | intro

theorem Only.diagAccess (m : Nat) (v : Word) (f : Nat → Nat → State → State) (s : State)
    (hf : ∀ x0 x1 t, Only fr s0 t → Only fr s0 (f x0 x1 t)) (hk : Only fr s0 s) (m_regs : Part.regs ∈ fr)
    (m_owed : Part.owed ∈ fr) (m_crier : Part.crier ∈ fr) (m_flt : Part.flt ∈ fr) (m_activity : Part.activity ∈ fr)
    : Only fr s0 (diagAccess m v f s) := by
  unfold Sys2Proof.Machine.diagAccess
  with_reducible repeat' first
    | assumption | apply hf | apply Only.diagCtrl | apply Only.setBit | apply Only.pmcBeats | exact Or.inl rfl
    | exact Or.inr (by assumption) | apply OnlyMk.intro | simp only [onlyMk] | dsimp only | split | intro

theorem Only.execDiagCellRead (stack : Nat) (value : Word) (s : State) (hk : Only fr s0 s) (m_regs : Part.regs ∈ fr)
    (m_owed : Part.owed ∈ fr) (m_top : Part.top ∈ fr) (m_crier : Part.crier ∈ fr) (m_flt : Part.flt ∈ fr)
    (m_activity : Part.activity ∈ fr) : OnlyO fr s0 (execDiagCellRead stack value s) := by
  unfold Sys2Proof.Machine.execDiagCellRead
  with_reducible repeat' first
    | assumption | apply Only.holdWrite | apply Only.diagAccess | apply Only.forEach | apply Only.setReg | apply OnlyO.next
    | exact Or.inl rfl | exact Or.inr (by assumption) | apply OnlyMk.intro | simp only [onlyMk] | dsimp only | split | intro

theorem Only.execDiagCellWrite (stack : Nat) (value : Word) (s : State) (hk : Only fr s0 s) (m_regs : Part.regs ∈ fr)
    (m_owed : Part.owed ∈ fr) (m_top : Part.top ∈ fr) (m_spill : Part.spill ∈ fr) (m_crier : Part.crier ∈ fr)
    (m_flt : Part.flt ∈ fr) (m_activity : Part.activity ∈ fr) : OnlyO fr s0 (execDiagCellWrite stack value s) := by
  unfold Sys2Proof.Machine.execDiagCellWrite
  with_reducible repeat' first
    | assumption | apply Only.holdWrite | apply Only.diagCtrl | apply Only.diagAccess | apply Only.putCell | apply OnlyO.next
    | exact Or.inl rfl | exact Or.inr (by assumption) | apply OnlyMk.intro | simp only [onlyMk] | dsimp only | split | intro

theorem Only.execWatchdogPageFree (queue : Nat) (s : State) (hk : Only fr s0 s) (m_regs : Part.regs ∈ fr)
    (m_freeCtr : Part.freeCtr ∈ fr) (m_owed : Part.owed ∈ fr) (m_lastRaise : Part.lastRaise ∈ fr) (m_market : Part.market ∈ fr)
    (m_spill : Part.spill ∈ fr) (m_sched : Part.sched ∈ fr) (m_telem : Part.telem ∈ fr) (m_crier : Part.crier ∈ fr)
    (m_flt : Part.flt ∈ fr) (m_activity : Part.activity ∈ fr) : OnlyO fr s0 (execWatchdogPageFree queue s) := by
  unfold Sys2Proof.Machine.execWatchdogPageFree
  with_reducible repeat' first
    | assumption | apply Only.forEach | apply Only.dropXfer | apply Only.freeDrain | apply Only.dropSpilled
    | apply Only.givePage | apply Only.setStagingFree | apply Only.setF | apply Only.setSpq | apply Only.spillExit
    | apply Only.foldl | apply Only.foldl1 | apply OnlyO.next | exact Or.inl rfl | exact Or.inr (by assumption)
    | apply OnlyMk.intro | simp only [onlyMk] | dsimp only | split | intro

theorem Only.tick (s : State) (hk : Only fr s0 s) (m_regs : Part.regs ∈ fr) (m_clock : Part.clock ∈ fr)
    (m_elapsed : Part.elapsed ∈ fr) : Only fr s0 (tick s) := by
  unfold Sys2Proof.Machine.tick
  with_reducible repeat' first
    | assumption | apply Only.setReg64 | exact Or.inl rfl | exact Or.inr (by assumption) | apply OnlyMk.intro
    | simp only [onlyMk] | dsimp only | split | intro

theorem Only.setSlots (s : State) (l : Nat) (x : SlotPair) (hk : Only fr s0 s) (m_slots : Part.slots ∈ fr)
    : Only fr s0 (setSlots s l x) := by
  unfold Sys2Proof.Machine.setSlots
  with_reducible repeat' first
    | assumption | exact Or.inl rfl | exact Or.inr (by assumption) | apply OnlyMk.intro | simp only [onlyMk] | dsimp only
    | split | intro

theorem Only.syncSlotStatus (s : State) (l : Nat) (hk : Only fr s0 s) (m_regs : Part.regs ∈ fr)
    : Only fr s0 (syncSlotStatus s l) := by
  unfold Sys2Proof.Machine.syncSlotStatus
  with_reducible repeat' first
    | assumption | apply Only.setReg | exact Or.inl rfl | exact Or.inr (by assumption) | apply OnlyMk.intro
    | simp only [onlyMk] | dsimp only | split | intro

theorem Only.slotWrite (c : HostCmd) (s : State) (hk : Only fr s0 s) (m_regs : Part.regs ∈ fr) (m_owed : Part.owed ∈ fr)
    (m_hif : Part.hif ∈ fr) (m_slots : Part.slots ∈ fr) (m_crier : Part.crier ∈ fr) (m_flt : Part.flt ∈ fr)
    : Only fr s0 (slotWrite c s) := by
  unfold Sys2Proof.Machine.slotWrite
  with_reducible repeat' first
    | assumption | apply Only.complete | apply Only.setSlots | exact Or.inl rfl | exact Or.inr (by assumption)
    | apply OnlyMk.intro | simp only [onlyMk] | dsimp only | split | intro

theorem Only.slotArm (c : HostCmd) (s : State) (hk : Only fr s0 s) (m_regs : Part.regs ∈ fr) (m_owed : Part.owed ∈ fr)
    (m_hif : Part.hif ∈ fr) (m_slots : Part.slots ∈ fr) (m_crier : Part.crier ∈ fr) (m_flt : Part.flt ∈ fr)
    : Only fr s0 (slotArm c s) := by
  unfold Sys2Proof.Machine.slotArm
  with_reducible repeat' first
    | assumption | apply Only.complete | apply Only.setSlots | apply Only.setReg64 | apply Only.whenB | apply Only.raise
    | apply Only.setBit | apply Only.syncSlotStatus | exact Or.inl rfl | exact Or.inr (by assumption) | apply OnlyMk.intro
    | simp only [onlyMk] | dsimp only | split | intro

theorem Only.slotCancel (c : HostCmd) (s : State) (hk : Only fr s0 s) (m_regs : Part.regs ∈ fr) (m_owed : Part.owed ∈ fr)
    (m_hif : Part.hif ∈ fr) (m_slots : Part.slots ∈ fr) (m_crier : Part.crier ∈ fr) (m_flt : Part.flt ∈ fr)
    : Only fr s0 (slotCancel c s) := by
  unfold Sys2Proof.Machine.slotCancel
  with_reducible repeat' first
    | assumption | apply Only.complete | apply Only.syncSlotStatus | apply Only.setSlots | exact Or.inl rfl
    | exact Or.inr (by assumption) | apply OnlyMk.intro | simp only [onlyMk] | dsimp only | split | intro

theorem Only.slotRead (c : HostCmd) (s : State) (hk : Only fr s0 s) (m_regs : Part.regs ∈ fr) (m_owed : Part.owed ∈ fr)
    (m_hif : Part.hif ∈ fr) (m_crier : Part.crier ∈ fr) (m_flt : Part.flt ∈ fr) (m_out : Part.out ∈ fr)
    : Only fr s0 (slotRead c s) := by
  unfold Sys2Proof.Machine.slotRead
  with_reducible repeat' first
    | assumption | apply Only.complete | apply Only.completeData | exact Or.inl rfl | exact Or.inr (by assumption)
    | apply OnlyMk.intro | simp only [onlyMk] | dsimp only | split | intro

theorem Only.execSlotStageWrite (cmd : HostCmd) (s : State) (hk : Only fr s0 s) (m_regs : Part.regs ∈ fr)
    (m_owed : Part.owed ∈ fr) (m_hif : Part.hif ∈ fr) (m_slots : Part.slots ∈ fr) (m_crier : Part.crier ∈ fr)
    (m_flt : Part.flt ∈ fr) : OnlyO fr s0 (execSlotStageWrite cmd s) := by
  unfold Sys2Proof.Machine.execSlotStageWrite
  with_reducible repeat' first
    | assumption | apply Only.runCmd | apply Only.slotWrite | apply OnlyO.next | exact Or.inl rfl
    | exact Or.inr (by assumption) | apply OnlyMk.intro | simp only [onlyMk] | dsimp only | split | intro

theorem Only.execSlotStageArm (cmd : HostCmd) (s : State) (hk : Only fr s0 s) (m_regs : Part.regs ∈ fr)
    (m_owed : Part.owed ∈ fr) (m_hif : Part.hif ∈ fr) (m_slots : Part.slots ∈ fr) (m_crier : Part.crier ∈ fr)
    (m_flt : Part.flt ∈ fr) : OnlyO fr s0 (execSlotStageArm cmd s) := by
  unfold Sys2Proof.Machine.execSlotStageArm
  with_reducible repeat' first
    | assumption | apply Only.runCmd | apply Only.slotArm | apply OnlyO.next | exact Or.inl rfl
    | exact Or.inr (by assumption) | apply OnlyMk.intro | simp only [onlyMk] | dsimp only | split | intro

theorem Only.execSlotStageCancel (cmd : HostCmd) (s : State) (hk : Only fr s0 s) (m_regs : Part.regs ∈ fr)
    (m_owed : Part.owed ∈ fr) (m_hif : Part.hif ∈ fr) (m_slots : Part.slots ∈ fr) (m_crier : Part.crier ∈ fr)
    (m_flt : Part.flt ∈ fr) : OnlyO fr s0 (execSlotStageCancel cmd s) := by
  unfold Sys2Proof.Machine.execSlotStageCancel
  with_reducible repeat' first
    | assumption | apply Only.runCmd | apply Only.slotCancel | apply OnlyO.next | exact Or.inl rfl
    | exact Or.inr (by assumption) | apply OnlyMk.intro | simp only [onlyMk] | dsimp only | split | intro

theorem Only.execSlotStageRead (cmd : HostCmd) (s : State) (hk : Only fr s0 s) (m_regs : Part.regs ∈ fr)
    (m_owed : Part.owed ∈ fr) (m_hif : Part.hif ∈ fr) (m_crier : Part.crier ∈ fr) (m_flt : Part.flt ∈ fr) (m_out : Part.out ∈ fr)
    : OnlyO fr s0 (execSlotStageRead cmd s) := by
  unfold Sys2Proof.Machine.execSlotStageRead
  with_reducible repeat' first
    | assumption | apply Only.runCmd | apply Only.slotRead | apply OnlyO.next | exact Or.inl rfl
    | exact Or.inr (by assumption) | apply OnlyMk.intro | simp only [onlyMk] | dsimp only | split | intro

theorem Only.takeSwitch (s : State) (l : Nat) (hk : Only fr s0 s) (m_regs : Part.regs ∈ fr) (m_owed : Part.owed ∈ fr)
    (m_slots : Part.slots ∈ fr) (m_crier : Part.crier ∈ fr) (m_flt : Part.flt ∈ fr) : Only fr s0 (takeSwitch s l) := by
  unfold Sys2Proof.Machine.takeSwitch
  with_reducible repeat' first
    | assumption | apply Only.setSlots | apply Only.raise | apply Only.syncSlotStatus | apply Only.setBit | exact Or.inl rfl
    | exact Or.inr (by assumption) | apply OnlyMk.intro | simp only [onlyMk] | dsimp only | split | intro

theorem Only.execSlotSwitch (lane : Nat) (s : State) (hk : Only fr s0 s) (m_regs : Part.regs ∈ fr) (m_owed : Part.owed ∈ fr)
    (m_slots : Part.slots ∈ fr) (m_crier : Part.crier ∈ fr) (m_flt : Part.flt ∈ fr) : OnlyO fr s0 (execSlotSwitch lane s) := by
  unfold Sys2Proof.Machine.execSlotSwitch
  with_reducible repeat' first
    | assumption | apply Only.takeSwitch | apply OnlyO.next | exact Or.inl rfl | exact Or.inr (by assumption)
    | apply OnlyMk.intro | simp only [onlyMk] | dsimp only | split | intro

theorem Only.execSlotEntryBoundary (lane : Nat) (s : State) (hk : Only fr s0 s) (m_regs : Part.regs ∈ fr)
    : OnlyO fr s0 (execSlotEntryBoundary lane s) := by
  unfold Sys2Proof.Machine.execSlotEntryBoundary
  with_reducible repeat' first
    | assumption | apply Only.setF | apply OnlyO.next | exact Or.inl rfl | exact Or.inr (by assumption) | apply OnlyMk.intro
    | simp only [onlyMk] | dsimp only | split | intro

end Sys2Proof.Laws
end

