-- ==== Sys2Proof/Laws/OnlyHost.lean ====
section
/-!
SUPPORT. One lemma for each operation of Host, Crier, Programs, Security, Time, Fetch, Sched, Porter: it changes no part of the state but those it names (`Only`).
-/
namespace Sys2Proof.Laws

open Sys2Proof.Machine

variable {fr : List Part} {s0 : State}

theorem Only.hifErr (s : State) (bit : Nat) (hk : Only fr s0 s) (m_regs : Part.regs ∈ fr) (m_owed : Part.owed ∈ fr)
    (m_crier : Part.crier ∈ fr) (m_flt : Part.flt ∈ fr) : Only fr s0 (hifErr s bit) := by
  unfold Sys2Proof.Machine.hifErr
  with_reducible repeat' first
    | assumption | apply Only.raise | apply Only.setBit | exact Or.inl rfl | exact Or.inr (by assumption)
    | apply OnlyMk.intro | simp only [onlyMk] | dsimp only | split | intro

theorem Only.execBar0UnmappedAccess (addr : Nat) (write : Bool) (s : State) (hk : Only fr s0 s) (m_regs : Part.regs ∈ fr)
    (m_owed : Part.owed ∈ fr) (m_crier : Part.crier ∈ fr) (m_flt : Part.flt ∈ fr) (m_out : Part.out ∈ fr)
    : OnlyO fr s0 (execBar0UnmappedAccess addr write s) := by
  unfold Sys2Proof.Machine.execBar0UnmappedAccess
  with_reducible repeat' first
    | assumption | apply Only.hifErr | apply Only.whenB | apply Only.emit | apply OnlyO.next | exact Or.inl rfl
    | exact Or.inr (by assumption) | apply OnlyMk.intro | simp only [onlyMk] | dsimp only | split | intro

theorem Only.consumerBell (s : State) (k : RingKind) (n i : Nat) (hk : Only fr s0 s) (m_regs : Part.regs ∈ fr)
    (m_owed : Part.owed ∈ fr) (m_crier : Part.crier ∈ fr) (m_flt : Part.flt ∈ fr) : Only fr s0 (consumerBell s k n i) := by
  unfold Sys2Proof.Machine.consumerBell
  with_reducible repeat' first
    | assumption | apply Only.setReg | apply Only.hifErr | exact Or.inl rfl | exact Or.inr (by assumption)
    | apply OnlyMk.intro | simp only [onlyMk] | dsimp only | split | intro

theorem Only.crBell (r index : Nat) (s : State) (hk : Only fr s0 s) (m_regs : Part.regs ∈ fr) (m_owed : Part.owed ∈ fr)
    (m_hif : Part.hif ∈ fr) (m_crier : Part.crier ∈ fr) (m_flt : Part.flt ∈ fr) : Only fr s0 (crBell r index s) := by
  unfold Sys2Proof.Machine.crBell
  with_reducible repeat' first
    | assumption | apply Only.setReg | apply Only.hifErr | exact Or.inl rfl | exact Or.inr (by assumption)
    | apply OnlyMk.intro | simp only [onlyMk] | dsimp only | split | intro

theorem Only.rxBell (n index : Nat) (s : State) (hk : Only fr s0 s) (m_regs : Part.regs ∈ fr) (m_owed : Part.owed ∈ fr)
    (m_crier : Part.crier ∈ fr) (m_flt : Part.flt ∈ fr) : Only fr s0 (rxBell n index s) := by
  unfold Sys2Proof.Machine.rxBell
  with_reducible repeat' first
    | assumption | apply Only.setReg | apply Only.hifErr | exact Or.inl rfl | exact Or.inr (by assumption)
    | apply OnlyMk.intro | simp only [onlyMk] | dsimp only | split | intro

theorem Only.ringBell (s : State) (k : RingKind) (n index : Nat) (hk : Only fr s0 s) (m_regs : Part.regs ∈ fr)
    (m_owed : Part.owed ∈ fr) (m_hif : Part.hif ∈ fr) (m_crier : Part.crier ∈ fr) (m_flt : Part.flt ∈ fr)
    : Only fr s0 (ringBell s k n index) := by
  unfold Sys2Proof.Machine.ringBell
  with_reducible repeat' first
    | assumption | apply Only.crBell | apply Only.rxBell | apply Only.consumerBell | exact Or.inl rfl
    | exact Or.inr (by assumption) | apply OnlyMk.intro | simp only [onlyMk] | dsimp only | split | intro

theorem Only.execCrDoorbell (r index : Nat) (s : State) (hk : Only fr s0 s) (m_regs : Part.regs ∈ fr)
    (m_owed : Part.owed ∈ fr) (m_hif : Part.hif ∈ fr) (m_crier : Part.crier ∈ fr) (m_flt : Part.flt ∈ fr)
    : OnlyO fr s0 (execCrDoorbell r index s) := by
  unfold Sys2Proof.Machine.execCrDoorbell
  with_reducible repeat' first
    | assumption | apply Only.crBell | apply OnlyO.next | exact Or.inl rfl | exact Or.inr (by assumption)
    | apply OnlyMk.intro | simp only [onlyMk] | dsimp only | split | intro

theorem Only.execCqDoorbell (r index : Nat) (s : State) (hk : Only fr s0 s) (m_regs : Part.regs ∈ fr)
    (m_owed : Part.owed ∈ fr) (m_crier : Part.crier ∈ fr) (m_flt : Part.flt ∈ fr) : OnlyO fr s0 (execCqDoorbell r index s) := by
  unfold Sys2Proof.Machine.execCqDoorbell
  with_reducible repeat' first
    | assumption | apply Only.consumerBell | apply OnlyO.next | exact Or.inl rfl | exact Or.inr (by assumption)
    | apply OnlyMk.intro | simp only [onlyMk] | dsimp only | split | intro

theorem Only.execRxDoorbell (n index : Nat) (s : State) (hk : Only fr s0 s) (m_regs : Part.regs ∈ fr)
    (m_owed : Part.owed ∈ fr) (m_crier : Part.crier ∈ fr) (m_flt : Part.flt ∈ fr) : OnlyO fr s0 (execRxDoorbell n index s) := by
  unfold Sys2Proof.Machine.execRxDoorbell
  with_reducible repeat' first
    | assumption | apply Only.rxBell | apply OnlyO.next | exact Or.inl rfl | exact Or.inr (by assumption)
    | apply OnlyMk.intro | simp only [onlyMk] | dsimp only | split | intro

theorem Only.execNqDoorbell (n index : Nat) (s : State) (hk : Only fr s0 s) (m_regs : Part.regs ∈ fr)
    (m_owed : Part.owed ∈ fr) (m_crier : Part.crier ∈ fr) (m_flt : Part.flt ∈ fr) : OnlyO fr s0 (execNqDoorbell n index s) := by
  unfold Sys2Proof.Machine.execNqDoorbell
  with_reducible repeat' first
    | assumption | apply Only.consumerBell | apply OnlyO.next | exact Or.inl rfl | exact Or.inr (by assumption)
    | apply OnlyMk.intro | simp only [onlyMk] | dsimp only | split | intro

theorem Only.ringCfgWrite (s : State) (k : RingKind) (n : Nat) (cfg : Word) (hk : Only fr s0 s) (m_regs : Part.regs ∈ fr)
    : Only fr s0 (ringCfgWrite s k n cfg) := by
  unfold Sys2Proof.Machine.ringCfgWrite
  with_reducible repeat' first
    | assumption | apply Only.setReg | exact Or.inl rfl | exact Or.inr (by assumption) | apply OnlyMk.intro
    | simp only [onlyMk] | dsimp only | split | intro

theorem Only.forgetVisible (s : State) (k : RingKind) (n : Nat) (hk : Only fr s0 s) (m_hif : Part.hif ∈ fr)
    : Only fr s0 (forgetVisible s k n) := by
  unfold Sys2Proof.Machine.forgetVisible
  with_reducible repeat' first
    | assumption | exact Or.inl rfl | exact Or.inr (by assumption) | apply OnlyMk.intro | simp only [onlyMk] | dsimp only
    | split | intro

theorem Only.execRingEnable (kind : RingKind) (n : Nat) (cfg : Word) (s : State) (hk : Only fr s0 s)
    (m_regs : Part.regs ∈ fr) (m_hif : Part.hif ∈ fr) : OnlyO fr s0 (execRingEnable kind n cfg s) := by
  unfold Sys2Proof.Machine.execRingEnable
  with_reducible repeat' first
    | assumption | apply Only.ringCfgWrite | apply Only.forgetVisible | apply Only.setF | apply Only.setReg
    | apply OnlyO.next | exact Or.inl rfl | exact Or.inr (by assumption) | apply OnlyMk.intro | simp only [onlyMk]
    | dsimp only | split | intro

theorem Only.dropReports (s : State) (k : RingKind) (n : Nat) (hk : Only fr s0 s) (m_regs : Part.regs ∈ fr)
    (m_owed : Part.owed ∈ fr) (m_lastRaise : Part.lastRaise ∈ fr) (m_hif : Part.hif ∈ fr) (m_crier : Part.crier ∈ fr)
    (m_flt : Part.flt ∈ fr) : Only fr s0 (dropReports s k n) := by
  unfold Sys2Proof.Machine.dropReports
  with_reducible repeat' first
    | assumption | apply Only.raiseLimited | apply Only.add64 | exact Or.inl rfl | exact Or.inr (by assumption)
    | apply OnlyMk.intro | simp only [onlyMk] | dsimp only | split | intro

theorem Only.execRingDisable (kind : RingKind) (n : Nat) (cfg : Word) (s : State) (hk : Only fr s0 s)
    (m_regs : Part.regs ∈ fr) (m_owed : Part.owed ∈ fr) (m_lastRaise : Part.lastRaise ∈ fr) (m_hif : Part.hif ∈ fr)
    (m_crier : Part.crier ∈ fr) (m_flt : Part.flt ∈ fr) : OnlyO fr s0 (execRingDisable kind n cfg s) := by
  unfold Sys2Proof.Machine.execRingDisable
  with_reducible repeat' first
    | assumption | apply Only.dropReports | apply Only.forgetVisible | apply Only.setBit | apply Only.ringCfgWrite
    | apply OnlyO.next | exact Or.inl rfl | exact Or.inr (by assumption) | apply OnlyMk.intro | simp only [onlyMk]
    | dsimp only | split | intro

theorem Only.ringStop (s : State) (kind : RingKind) (n : Nat) (hk : Only fr s0 s) (m_regs : Part.regs ∈ fr)
    (m_owed : Part.owed ∈ fr) (m_lastRaise : Part.lastRaise ∈ fr) (m_hif : Part.hif ∈ fr) (m_crier : Part.crier ∈ fr)
    (m_flt : Part.flt ∈ fr) : Only fr s0 (ringStop s kind n) := by
  unfold Sys2Proof.Machine.ringStop
  with_reducible repeat' first
    | assumption | apply Only.raise | apply Only.dropReports | apply Only.forgetVisible | apply Only.setF | exact Or.inl rfl
    | exact Or.inr (by assumption) | apply OnlyMk.intro | simp only [onlyMk] | dsimp only | split | intro

theorem Only.execRingDmaError (kind : RingKind) (n : Nat) (s : State) (hk : Only fr s0 s) (m_regs : Part.regs ∈ fr)
    (m_owed : Part.owed ∈ fr) (m_lastRaise : Part.lastRaise ∈ fr) (m_hif : Part.hif ∈ fr) (m_crier : Part.crier ∈ fr)
    (m_flt : Part.flt ∈ fr) : OnlyO fr s0 (execRingDmaError kind n s) := by
  unfold Sys2Proof.Machine.execRingDmaError
  with_reducible repeat' first
    | assumption | apply Only.ringStop | apply OnlyO.next | exact Or.inl rfl | exact Or.inr (by assumption)
    | apply OnlyMk.intro | simp only [onlyMk] | dsimp only | split | intro

theorem Only.execCommandFetch (r : Nat) (entry data : List Byte) (s : State) (hk : Only fr s0 s) (m_regs : Part.regs ∈ fr)
    (m_owed : Part.owed ∈ fr) (m_hif : Part.hif ∈ fr) (m_crier : Part.crier ∈ fr) (m_flt : Part.flt ∈ fr) (m_out : Part.out ∈ fr)
    : OnlyO fr s0 (execCommandFetch r entry data s) := by
  unfold Sys2Proof.Machine.execCommandFetch
  with_reducible repeat' first
    | assumption | apply Only.emit | apply Only.setReg | apply Only.refuseForms | apply OnlyO.next | exact Or.inl rfl
    | exact Or.inr (by assumption) | apply OnlyMk.intro | simp only [onlyMk] | dsimp only | split | intro

theorem Only.execCompletionWrite (q : Nat) (s : State) (hk : Only fr s0 s) (m_regs : Part.regs ∈ fr)
    (m_owed : Part.owed ∈ fr) (m_hif : Part.hif ∈ fr) (m_crier : Part.crier ∈ fr) (m_flt : Part.flt ∈ fr) (m_out : Part.out ∈ fr)
    : OnlyO fr s0 (execCompletionWrite q s) := by
  unfold Sys2Proof.Machine.execCompletionWrite
  with_reducible repeat' first
    | assumption | apply Only.hostWrite | apply Only.tailStep | apply Only.dropCmd | apply Only.refuseForms
    | apply Only.whenB | apply Only.raise | apply OnlyO.next | exact Or.inl rfl | exact Or.inr (by assumption)
    | apply OnlyMk.intro | simp only [onlyMk] | dsimp only | split | intro

theorem Only.execNotificationWrite (n : Nat) (s : State) (hk : Only fr s0 s) (m_regs : Part.regs ∈ fr)
    (m_owed : Part.owed ∈ fr) (m_hif : Part.hif ∈ fr) (m_crier : Part.crier ∈ fr) (m_flt : Part.flt ∈ fr) (m_out : Part.out ∈ fr)
    : OnlyO fr s0 (execNotificationWrite n s) := by
  unfold Sys2Proof.Machine.execNotificationWrite
  with_reducible repeat' first
    | assumption | apply Only.hostWrite | apply Only.raise | apply Only.tailStep | apply OnlyO.next | exact Or.inl rfl
    | exact Or.inr (by assumption) | apply OnlyMk.intro | simp only [onlyMk] | dsimp only | split | intro

theorem Only.execNop (cmd : HostCmd) (s : State) (hk : Only fr s0 s) (m_regs : Part.regs ∈ fr) (m_owed : Part.owed ∈ fr)
    (m_hif : Part.hif ∈ fr) (m_crier : Part.crier ∈ fr) (m_flt : Part.flt ∈ fr) : OnlyO fr s0 (execNop cmd s) := by
  unfold Sys2Proof.Machine.execNop
  with_reducible repeat' first
    | assumption | apply Only.runCmd | apply Only.complete | apply OnlyO.next | exact Or.inl rfl
    | exact Or.inr (by assumption) | apply OnlyMk.intro | simp only [onlyMk] | dsimp only | split | intro

theorem Only.execFence (cmd : HostCmd) (s : State) (hk : Only fr s0 s) (m_hif : Part.hif ∈ fr)
    : OnlyO fr s0 (execFence cmd s) := by
  unfold Sys2Proof.Machine.execFence
  with_reducible repeat' first
    | assumption | apply Only.runCmd | apply Only.setPhase | apply OnlyO.next | exact Or.inl rfl
    | exact Or.inr (by assumption) | apply OnlyMk.intro | simp only [onlyMk] | dsimp only | split | intro

theorem Only.execFenceComplete (cr index : Nat) (s : State) (hk : Only fr s0 s) (m_regs : Part.regs ∈ fr)
    (m_owed : Part.owed ∈ fr) (m_hif : Part.hif ∈ fr) (m_crier : Part.crier ∈ fr) (m_flt : Part.flt ∈ fr)
    : OnlyO fr s0 (execFenceComplete cr index s) := by
  unfold Sys2Proof.Machine.execFenceComplete
  with_reducible repeat' first
    | assumption | apply Only.complete | apply OnlyO.next | exact Or.inl rfl | exact Or.inr (by assumption)
    | apply OnlyMk.intro | simp only [onlyMk] | dsimp only | split | intro

theorem Only.execCommandTimeout (cr index : Nat) (s : State) (hk : Only fr s0 s) (m_regs : Part.regs ∈ fr)
    (m_owed : Part.owed ∈ fr) (m_hif : Part.hif ∈ fr) (m_clerk : Part.clerk ∈ fr) (m_crier : Part.crier ∈ fr)
    (m_flt : Part.flt ∈ fr) (m_sec : Part.sec ∈ fr) : OnlyO fr s0 (execCommandTimeout cr index s) := by
  unfold Sys2Proof.Machine.execCommandTimeout
  with_reducible repeat' first
    | assumption | apply Only.complete | apply OnlyO.next | exact Or.inl rfl | exact Or.inr (by assumption)
    | apply OnlyMk.intro | simp only [onlyMk] | dsimp only | split | intro

theorem Only.apertureStore (s : State) (off : Nat) (data : List Byte) (hk : Only fr s0 s) (m_regs : Part.regs ∈ fr)
    (m_owed : Part.owed ∈ fr) (m_hif : Part.hif ∈ fr) (m_crier : Part.crier ∈ fr) (m_flt : Part.flt ∈ fr)
    : Only fr s0 (apertureStore s off data) := by
  unfold Sys2Proof.Machine.apertureStore
  with_reducible repeat' first
    | assumption | apply Only.raise | apply Only.setBit | apply Only.add64 | apply Only.foldl | apply Only.foldl1
    | exact Or.inl rfl | exact Or.inr (by assumption) | apply OnlyMk.intro | simp only [onlyMk] | dsimp only | split | intro

theorem Only.execApertureWrite (addr : Nat) (data : List Byte) (s : State) (hk : Only fr s0 s) (m_regs : Part.regs ∈ fr)
    (m_owed : Part.owed ∈ fr) (m_hif : Part.hif ∈ fr) (m_crier : Part.crier ∈ fr) (m_flt : Part.flt ∈ fr)
    : OnlyO fr s0 (execApertureWrite addr data s) := by
  unfold Sys2Proof.Machine.execApertureWrite
  with_reducible repeat' first
    | assumption | apply Only.ringBell | apply Only.apertureStore | apply OnlyO.next | exact Or.inl rfl
    | exact Or.inr (by assumption) | apply OnlyMk.intro | simp only [onlyMk] | dsimp only | split | intro

theorem Only.execApertureRead (addr len : Nat) (s : State) (hk : Only fr s0 s) (m_out : Part.out ∈ fr)
    : OnlyO fr s0 (execApertureRead addr len s) := by
  unfold Sys2Proof.Machine.execApertureRead
  with_reducible repeat' first
    | assumption | apply Only.emit | apply OnlyO.next | exact Or.inl rfl | exact Or.inr (by assumption) | apply OnlyMk.intro
    | simp only [onlyMk] | dsimp only | split | intro

theorem Only.mailTake (s : State) (hk : Only fr s0 s) (m_hif : Part.hif ∈ fr) : Only fr s0 (mailTake s) := by
  unfold Sys2Proof.Machine.mailTake
  with_reducible repeat' first
    | assumption | exact Or.inl rfl | exact Or.inr (by assumption) | apply OnlyMk.intro | simp only [onlyMk] | dsimp only
    | split | intro

theorem Only.execMailboxGo (s : State) (hk : Only fr s0 s) (m_regs : Part.regs ∈ fr) (m_owed : Part.owed ∈ fr)
    (m_hif : Part.hif ∈ fr) (m_crier : Part.crier ∈ fr) (m_flt : Part.flt ∈ fr) : OnlyO fr s0 (execMailboxGo s) := by
  unfold Sys2Proof.Machine.execMailboxGo
  with_reducible repeat' first
    | assumption | apply Only.setBit | apply Only.mailTake | apply Only.raise | apply OnlyO.next | exact Or.inl rfl
    | exact Or.inr (by assumption) | apply OnlyMk.intro | simp only [onlyMk] | dsimp only | split | intro

theorem Only.mailPut (s : State) (b : List Byte) (hk : Only fr s0 s) (m_regs : Part.regs ∈ fr)
    : Only fr s0 (mailPut s b) := by
  unfold Sys2Proof.Machine.mailPut
  with_reducible repeat' first
    | assumption | apply Only.forEach | apply Only.setReg | exact Or.inl rfl | exact Or.inr (by assumption)
    | apply OnlyMk.intro | simp only [onlyMk] | dsimp only | split | intro

theorem Only.mailRespond (s : State) (status : Nat) (payload : List Byte) (hk : Only fr s0 s) (m_regs : Part.regs ∈ fr)
    (m_owed : Part.owed ∈ fr) (m_hif : Part.hif ∈ fr) (m_crier : Part.crier ∈ fr) (m_flt : Part.flt ∈ fr)
    : Only fr s0 (mailRespond s status payload) := by
  unfold Sys2Proof.Machine.mailRespond
  with_reducible repeat' first
    | assumption | apply Only.mailTake | apply Only.settleDone | apply Only.orphan | apply Only.mailPut | apply Only.raise
    | apply Only.setBit | exact Or.inl rfl | exact Or.inr (by assumption) | apply OnlyMk.intro | simp only [onlyMk]
    | dsimp only | split | intro

theorem Only.execOrphanLogClear (s : State) (hk : Only fr s0 s) (m_regs : Part.regs ∈ fr)
    : OnlyO fr s0 (execOrphanLogClear s) := by
  unfold Sys2Proof.Machine.execOrphanLogClear
  with_reducible repeat' first
    | assumption | apply Only.forEach | apply Only.setReg | apply Only.setF | apply OnlyO.next | exact Or.inl rfl
    | exact Or.inr (by assumption) | apply OnlyMk.intro | simp only [onlyMk] | dsimp only | split | intro

theorem Only.crierPerst (s : State) (hk : Only fr s0 s) (m_crier : Part.crier ∈ fr) : Only fr s0 (crierPerst s) := by
  unfold Sys2Proof.Machine.crierPerst
  with_reducible repeat' first
    | assumption | apply Only.foldl | apply Only.foldl1 | exact Or.inl rfl | exact Or.inr (by assumption)
    | apply OnlyMk.intro | simp only [onlyMk] | dsimp only | split | intro

theorem Only.freeHostUnits (s : State) (hk : Only fr s0 s) (m_regs : Part.regs ∈ fr) (m_owed : Part.owed ∈ fr)
    (m_hif : Part.hif ∈ fr) (m_market : Part.market ∈ fr) (m_crier : Part.crier ∈ fr) (m_flt : Part.flt ∈ fr)
    (m_activity : Part.activity ∈ fr) : Only fr s0 (freeHostUnits s) := by
  unfold Sys2Proof.Machine.freeHostUnits
  with_reducible repeat' first
    | assumption | apply Only.forEach | apply Only.freeUnit | apply Only.addHostUsed | apply Only.foldl | apply Only.foldl1
    | exact Or.inl rfl | exact Or.inr (by assumption) | apply OnlyMk.intro | simp only [onlyMk] | dsimp only | split | intro

theorem Only.perstDrop (s : State) (hk : Only fr s0 s) (m_hif : Part.hif ∈ fr) (m_sec : Part.sec ∈ fr)
    : Only fr s0 (perstDrop s) := by
  unfold Sys2Proof.Machine.perstDrop
  with_reducible repeat' first
    | assumption | exact Or.inl rfl | exact Or.inr (by assumption) | apply OnlyMk.intro | simp only [onlyMk] | dsimp only
    | split | intro

theorem Only.perstAssert (s : State) (hk : Only fr s0 s) (m_regs : Part.regs ∈ fr) (m_owed : Part.owed ∈ fr)
    (m_lastRaise : Part.lastRaise ∈ fr) (m_hif : Part.hif ∈ fr) (m_market : Part.market ∈ fr) (m_crier : Part.crier ∈ fr)
    (m_flt : Part.flt ∈ fr) (m_activity : Part.activity ∈ fr) (m_sec : Part.sec ∈ fr) : Only fr s0 (perstAssert s) := by
  unfold Sys2Proof.Machine.perstAssert
  with_reducible repeat' first
    | assumption | apply Only.setBit | apply Only.perstDrop | apply Only.forEach | apply Only.orphan | apply Only.setF
    | apply Only.raiseLimited | apply Only.add64 | apply Only.settleDone | apply Only.crierPerst | apply Only.freeHostUnits
    | exact Or.inl rfl | exact Or.inr (by assumption) | apply OnlyMk.intro | simp only [onlyMk] | dsimp only | split | intro

theorem Only.perstLow (s : State) (hk : Only fr s0 s) (m_top : Part.top ∈ fr) (m_hif : Part.hif ∈ fr)
    : Only fr s0 (perstLow s) := by
  unfold Sys2Proof.Machine.perstLow
  with_reducible repeat' first
    | assumption | apply Only.landsPcie | exact Or.inl rfl | exact Or.inr (by assumption) | apply OnlyMk.intro
    | simp only [onlyMk] | dsimp only | split | intro

theorem Only.execPerstNAssert (_cause : PerstCause) (s : State) (hk : Only fr s0 s) (m_regs : Part.regs ∈ fr)
    (m_owed : Part.owed ∈ fr) (m_lastRaise : Part.lastRaise ∈ fr) (m_top : Part.top ∈ fr) (m_hif : Part.hif ∈ fr)
    (m_market : Part.market ∈ fr) (m_crier : Part.crier ∈ fr) (m_flt : Part.flt ∈ fr) (m_activity : Part.activity ∈ fr)
    (m_sec : Part.sec ∈ fr) : OnlyO fr s0 (execPerstNAssert _cause s) := by
  unfold Sys2Proof.Machine.execPerstNAssert
  with_reducible repeat' first
    | assumption | apply Only.perstLow | apply Only.perstAssert | apply OnlyO.next | exact Or.inl rfl
    | exact Or.inr (by assumption) | apply OnlyMk.intro | simp only [onlyMk] | dsimp only | split | intro

theorem Only.execPerstNRelease (s : State) (hk : Only fr s0 s) (m_hif : Part.hif ∈ fr)
    : OnlyO fr s0 (execPerstNRelease s) := by
  unfold Sys2Proof.Machine.execPerstNRelease
  with_reducible repeat' first
    | assumption | apply OnlyO.next | exact Or.inl rfl | exact Or.inr (by assumption) | apply OnlyMk.intro
    | simp only [onlyMk] | dsimp only | split | intro

theorem Only.execHostIslandRelease (s : State) (hk : Only fr s0 s) (m_regs : Part.regs ∈ fr) (m_owed : Part.owed ∈ fr)
    (m_top : Part.top ∈ fr) (m_hif : Part.hif ∈ fr) (m_crier : Part.crier ∈ fr) (m_flt : Part.flt ∈ fr)
    : OnlyO fr s0 (execHostIslandRelease s) := by
  unfold Sys2Proof.Machine.execHostIslandRelease
  with_reducible repeat' first
    | assumption | apply Only.whenB | apply Only.setF | apply Only.landsPcie | apply Only.raise | apply OnlyO.next
    | exact Or.inl rfl | exact Or.inr (by assumption) | apply OnlyMk.intro | simp only [onlyMk] | dsimp only | split | intro

theorem Only.execLinkTrained (width speed : Nat) (flit : Bool) (s : State) (hk : Only fr s0 s) (m_regs : Part.regs ∈ fr)
    (m_owed : Part.owed ∈ fr) (m_crier : Part.crier ∈ fr) (m_flt : Part.flt ∈ fr)
    : OnlyO fr s0 (execLinkTrained width speed flit s) := by
  unfold Sys2Proof.Machine.execLinkTrained
  with_reducible repeat' first
    | assumption | apply Only.setF | apply Only.setBit | apply Only.whenB | apply Only.raise | apply OnlyO.next
    | exact Or.inl rfl | exact Or.inr (by assumption) | apply OnlyMk.intro | simp only [onlyMk] | dsimp only | split | intro

theorem Only.execSourceForce (value : Word) (s : State) (hk : Only fr s0 s) (m_regs : Part.regs ∈ fr)
    (m_owed : Part.owed ∈ fr) (m_top : Part.top ∈ fr) (m_crier : Part.crier ∈ fr) (m_flt : Part.flt ∈ fr)
    : OnlyO fr s0 (execSourceForce value s) := by
  unfold Sys2Proof.Machine.execSourceForce
  with_reducible repeat' first
    | assumption | apply Only.holdWrite | apply Only.raise | apply OnlyO.next | exact Or.inl rfl
    | exact Or.inr (by assumption) | apply OnlyMk.intro | simp only [onlyMk] | dsimp only | split | intro

theorem Only.wakeCores (s : State) (hk : Only fr s0 s) (m_crier : Part.crier ∈ fr) : Only fr s0 (wakeCores s) := by
  unfold Sys2Proof.Machine.wakeCores
  with_reducible repeat' first
    | assumption | apply Only.forEach | apply Only.wakeCore | exact Or.inl rfl | exact Or.inr (by assumption)
    | apply OnlyMk.intro | simp only [onlyMk] | dsimp only | split | intro

theorem Only.execSrcCfgWrite (id : Nat) (value : Word) (fw : Bool) (s : State) (hk : Only fr s0 s) (m_regs : Part.regs ∈ fr)
    (m_owed : Part.owed ∈ fr) (m_top : Part.top ∈ fr) (m_crier : Part.crier ∈ fr) (m_flt : Part.flt ∈ fr)
    : OnlyO fr s0 (execSrcCfgWrite id value fw s) := by
  unfold Sys2Proof.Machine.execSrcCfgWrite
  with_reducible repeat' first
    | assumption | apply Only.wakeCores | apply Only.setReg | apply Only.holdWrite | apply Only.setErrE04
    | apply Only.countEvent | apply OnlyO.next | exact Or.inl rfl | exact Or.inr (by assumption) | apply OnlyMk.intro
    | simp only [onlyMk] | dsimp only | split | intro

theorem Only.execVectorTimerExpiry (v : Nat) (s : State) (hk : Only fr s0 s) (m_crier : Part.crier ∈ fr)
    : OnlyO fr s0 (execVectorTimerExpiry v s) := by
  unfold Sys2Proof.Machine.execVectorTimerExpiry
  with_reducible repeat' first
    | assumption | apply OnlyO.next | exact Or.inl rfl | exact Or.inr (by assumption) | apply OnlyMk.intro
    | simp only [onlyMk] | dsimp only | split | intro

theorem Only.eoiVec (s : State) (v : Nat) (hk : Only fr s0 s) (m_crier : Part.crier ∈ fr) : Only fr s0 (eoiVec s v) := by
  unfold Sys2Proof.Machine.eoiVec
  with_reducible repeat' first
    | assumption | apply Only.forEach | apply Only.countEvent | exact Or.inl rfl | exact Or.inr (by assumption)
    | apply OnlyMk.intro | simp only [onlyMk] | dsimp only | split | intro

theorem Only.pbaSet (s : State) (v : Nat) (b : Bool) (hk : Only fr s0 s) (m_regs : Part.regs ∈ fr)
    : Only fr s0 (pbaSet s v b) := by
  unfold Sys2Proof.Machine.pbaSet
  with_reducible repeat' first
    | assumption | apply Only.setBit | exact Or.inl rfl | exact Or.inr (by assumption) | apply OnlyMk.intro
    | simp only [onlyMk] | dsimp only | split | intro

theorem Only.commitVec (s : State) (v : Nat) (hk : Only fr s0 s) (m_regs : Part.regs ∈ fr) (m_crier : Part.crier ∈ fr)
    (m_out : Part.out ∈ fr) : Only fr s0 (commitVec s v) := by
  unfold Sys2Proof.Machine.commitVec
  with_reducible repeat' first
    | assumption | apply Only.pbaSet | apply Only.emit | apply Only.eoiVec | exact Or.inl rfl | exact Or.inr (by assumption)
    | apply OnlyMk.intro | simp only [onlyMk] | dsimp only | split | intro

theorem Only.commitCore (s : State) (id : Nat) (hk : Only fr s0 s) (m_crier : Part.crier ∈ fr)
    : Only fr s0 (commitCore s id) := by
  unfold Sys2Proof.Machine.commitCore
  with_reducible repeat' first
    | assumption | exact Or.inl rfl | exact Or.inr (by assumption) | apply OnlyMk.intro | simp only [onlyMk] | dsimp only
    | split | intro

theorem Only.setMasks (s : State) (m : CrierMasks) (hk : Only fr s0 s) (m_hif : Part.hif ∈ fr) (m_crier : Part.crier ∈ fr)
    : Only fr s0 (setMasks s m) := by
  unfold Sys2Proof.Machine.setMasks
  with_reducible repeat' first
    | assumption | apply Only.wakeCores | apply Only.foldl | apply Only.foldl1 | exact Or.inl rfl
    | exact Or.inr (by assumption) | apply OnlyMk.intro | simp only [onlyMk] | dsimp only | split | intro

theorem Only.dispatch (s : State) (hk : Only fr s0 s) (m_regs : Part.regs ∈ fr) (m_crier : Part.crier ∈ fr)
    (m_out : Part.out ∈ fr) : Only fr s0 (dispatch s) := by
  unfold Sys2Proof.Machine.dispatch
  with_reducible repeat' first
    | assumption | apply Only.commitVec | apply Only.commitCore | exact Or.inl rfl | exact Or.inr (by assumption)
    | apply OnlyMk.intro | simp only [onlyMk] | dsimp only | split | intro

theorem Only.execDispatchCommit (masks : CrierMasks) (s : State) (hk : Only fr s0 s) (m_regs : Part.regs ∈ fr)
    (m_hif : Part.hif ∈ fr) (m_crier : Part.crier ∈ fr) (m_out : Part.out ∈ fr) : OnlyO fr s0 (execDispatchCommit masks s) := by
  unfold Sys2Proof.Machine.execDispatchCommit
  with_reducible repeat' first
    | assumption | apply Only.dispatch | apply Only.setMasks | apply OnlyO.next | exact Or.inl rfl
    | exact Or.inr (by assumption) | apply OnlyMk.intro | simp only [onlyMk] | dsimp only | split | intro

theorem Only.execVecEoi (v : Nat) (s : State) (hk : Only fr s0 s) (m_top : Part.top ∈ fr) (m_crier : Part.crier ∈ fr)
    : OnlyO fr s0 (execVecEoi v s) := by
  unfold Sys2Proof.Machine.execVecEoi
  with_reducible repeat' first
    | assumption | apply Only.holdWrite | apply Only.eoiVec | apply OnlyO.next | exact Or.inl rfl
    | exact Or.inr (by assumption) | apply OnlyMk.intro | simp only [onlyMk] | dsimp only | split | intro

theorem Only.execCoreEoi (n : Nat) (s : State) (hk : Only fr s0 s) (m_crier : Part.crier ∈ fr)
    : OnlyO fr s0 (execCoreEoi n s) := by
  unfold Sys2Proof.Machine.execCoreEoi
  with_reducible repeat' first
    | assumption | apply Only.wakeCores | apply OnlyO.next | exact Or.inl rfl | exact Or.inr (by assumption)
    | apply OnlyMk.intro | simp only [onlyMk] | dsimp only | split | intro

theorem Only.execCrossingFault (receiver sender handshake : Nat) (s : State) (hk : Only fr s0 s) (m_regs : Part.regs ∈ fr)
    (m_journal : Part.journal ∈ fr) (m_owed : Part.owed ∈ fr) (m_crier : Part.crier ∈ fr) (m_flt : Part.flt ∈ fr)
    : OnlyO fr s0 (execCrossingFault receiver sender handshake s) := by
  unfold Sys2Proof.Machine.execCrossingFault
  with_reducible repeat' first
    | assumption | apply Only.fault | apply OnlyO.next | exact Or.inl rfl | exact Or.inr (by assumption) | apply OnlyMk.intro
    | simp only [onlyMk] | dsimp only | split | intro

theorem Only.execGraceExpiry (id : Nat) (s : State) (hk : Only fr s0 s) (m_regs : Part.regs ∈ fr)
    (m_journal : Part.journal ∈ fr) (m_owed : Part.owed ∈ fr) (m_crier : Part.crier ∈ fr) (m_flt : Part.flt ∈ fr)
    (m_out : Part.out ∈ fr) : OnlyO fr s0 (execGraceExpiry id s) := by
  unfold Sys2Proof.Machine.execGraceExpiry
  with_reducible repeat' first
    | assumption | apply Only.jrnFlush | apply Only.raiseE00 | apply Only.startList | apply OnlyO.next | exact Or.inl rfl
    | exact Or.inr (by assumption) | apply OnlyMk.intro | simp only [onlyMk] | dsimp only | split | intro

theorem Only.endList (s : State) (id : Nat) (hk : Only fr s0 s) (m_regs : Part.regs ∈ fr) (m_owed : Part.owed ∈ fr)
    (m_crier : Part.crier ∈ fr) (m_flt : Part.flt ∈ fr) : Only fr s0 (endList s id) := by
  unfold Sys2Proof.Machine.endList
  with_reducible repeat' first
    | assumption | apply Only.raise | apply Only.setBit | apply Only.startGrace | exact Or.inl rfl
    | exact Or.inr (by assumption) | apply OnlyMk.intro | simp only [onlyMk] | dsimp only | split | intro

theorem Only.execEscAck (value : Word) (s : State) (hk : Only fr s0 s) (m_regs : Part.regs ∈ fr) (m_owed : Part.owed ∈ fr)
    (m_top : Part.top ∈ fr) (m_crier : Part.crier ∈ fr) (m_flt : Part.flt ∈ fr) : OnlyO fr s0 (execEscAck value s) := by
  unfold Sys2Proof.Machine.execEscAck
  with_reducible repeat' first
    | assumption | apply Only.holdWrite | apply Only.add64 | apply Only.setBit | apply Only.endList | apply OnlyO.next
    | exact Or.inl rfl | exact Or.inr (by assumption) | apply OnlyMk.intro | simp only [onlyMk] | dsimp only | split | intro

theorem Only.execActionsWrite (id : Nat) (value : BitVec 64) (s : State) (hk : Only fr s0 s) (m_regs : Part.regs ∈ fr)
    (m_owed : Part.owed ∈ fr) (m_crier : Part.crier ∈ fr) (m_flt : Part.flt ∈ fr)
    : OnlyO fr s0 (execActionsWrite id value s) := by
  unfold Sys2Proof.Machine.execActionsWrite
  with_reducible repeat' first
    | assumption | apply Only.setReg64 | apply Only.setErrE04 | apply OnlyO.next | exact Or.inl rfl
    | exact Or.inr (by assumption) | apply OnlyMk.intro | simp only [onlyMk] | dsimp only | split | intro

theorem Only.actionDone (s : State) (id : Nat) (hk : Only fr s0 s) (m_regs : Part.regs ∈ fr) (m_owed : Part.owed ∈ fr)
    (m_crier : Part.crier ∈ fr) (m_flt : Part.flt ∈ fr) : Only fr s0 (actionDone s id) := by
  unfold Sys2Proof.Machine.actionDone
  with_reducible repeat' first
    | assumption | apply Only.endList | exact Or.inl rfl | exact Or.inr (by assumption) | apply OnlyMk.intro
    | simp only [onlyMk] | dsimp only | split | intro

theorem Only.beginAction (s : State) (id c : Nat) (f : State → Nat → State) (hk : Only fr s0 s)
    (hf : ∀ t x, Only fr s0 t → Only fr s0 (f t x)) (m_regs : Part.regs ∈ fr) (m_journal : Part.journal ∈ fr)
    (m_owed : Part.owed ∈ fr) (m_crier : Part.crier ∈ fr) (m_flt : Part.flt ∈ fr) (m_out : Part.out ∈ fr)
    : Only fr s0 (beginAction s id c f) := by
  unfold Sys2Proof.Machine.beginAction
  with_reducible repeat' first
    | assumption | apply hf | apply Only.add64 | apply Only.jrnFlush | exact Or.inl rfl | exact Or.inr (by assumption)
    | apply OnlyMk.intro | simp only [onlyMk] | dsimp only | split | intro

theorem Only.execEscEnd (id : Nat) (s : State) (hk : Only fr s0 s) (m_regs : Part.regs ∈ fr) (m_journal : Part.journal ∈ fr)
    (m_owed : Part.owed ∈ fr) (m_crier : Part.crier ∈ fr) (m_flt : Part.flt ∈ fr) (m_out : Part.out ∈ fr)
    : OnlyO fr s0 (execEscEnd id s) := by
  unfold Sys2Proof.Machine.execEscEnd
  with_reducible repeat' first
    | assumption | apply Only.beginAction | apply Only.endList | apply OnlyO.next | exact Or.inl rfl
    | exact Or.inr (by assumption) | apply OnlyMk.intro | simp only [onlyMk] | dsimp only | split | intro

theorem Only.execEscWait (id : Nat) (s : State) (hk : Only fr s0 s) (m_regs : Part.regs ∈ fr) (m_journal : Part.journal ∈ fr)
    (m_owed : Part.owed ∈ fr) (m_crier : Part.crier ∈ fr) (m_flt : Part.flt ∈ fr) (m_out : Part.out ∈ fr)
    : OnlyO fr s0 (execEscWait id s) := by
  unfold Sys2Proof.Machine.execEscWait
  with_reducible repeat' first
    | assumption | apply Only.beginAction | apply Only.actionDone | apply OnlyO.next | exact Or.inl rfl
    | exact Or.inr (by assumption) | apply OnlyMk.intro | simp only [onlyMk] | dsimp only | split | intro

theorem Only.listWaits (s : State) (src n : Nat) (hk : Only fr s0 s) (m_flt : Part.flt ∈ fr)
    : Only fr s0 (listWaits s src n) := by
  unfold Sys2Proof.Machine.listWaits
  with_reducible repeat' first
    | assumption | exact Or.inl rfl | exact Or.inr (by assumption) | apply OnlyMk.intro | simp only [onlyMk] | dsimp only
    | split | intro

theorem Only.writeDone (s : State) (src n : Nat) (hk : Only fr s0 s) (m_regs : Part.regs ∈ fr) (m_owed : Part.owed ∈ fr)
    (m_crier : Part.crier ∈ fr) (m_flt : Part.flt ∈ fr) : Only fr s0 (writeDone s src n) := by
  unfold Sys2Proof.Machine.writeDone
  with_reducible repeat' first
    | assumption | apply Only.listWaits | apply Only.actionDone | exact Or.inl rfl | exact Or.inr (by assumption)
    | apply OnlyMk.intro | simp only [onlyMk] | dsimp only | split | intro

theorem Only.execEscQuiesce (id : Nat) (s : State) (hk : Only fr s0 s) (m_regs : Part.regs ∈ fr)
    (m_journal : Part.journal ∈ fr) (m_owed : Part.owed ∈ fr) (m_top : Part.top ∈ fr) (m_crier : Part.crier ∈ fr)
    (m_flt : Part.flt ∈ fr) (m_out : Part.out ∈ fr) : OnlyO fr s0 (execEscQuiesce id s) := by
  unfold Sys2Proof.Machine.execEscQuiesce
  with_reducible repeat' first
    | assumption | apply Only.beginAction | apply Only.writeDone | apply Only.holdWrite | apply Only.setBit
    | apply OnlyO.next | exact Or.inl rfl | exact Or.inr (by assumption) | apply OnlyMk.intro | simp only [onlyMk]
    | dsimp only | split | intro

theorem Only.openStage (s : State) (d : Dom) (hk : Only fr s0 s) (m_regs : Part.regs ∈ fr) : Only fr s0 (openStage s d) := by
  unfold Sys2Proof.Machine.openStage
  with_reducible repeat' first
    | assumption | apply Only.setBit | exact Or.inl rfl | exact Or.inr (by assumption) | apply OnlyMk.intro
    | simp only [onlyMk] | dsimp only | split | intro

theorem Only.doStageWrite (c : HostCmd) (s : State) (hk : Only fr s0 s) (m_regs : Part.regs ∈ fr) (m_prog : Part.prog ∈ fr)
    (m_owed : Part.owed ∈ fr) (m_hif : Part.hif ∈ fr) (m_pipes : Part.pipes ∈ fr) (m_crier : Part.crier ∈ fr)
    (m_flt : Part.flt ∈ fr) : Only fr s0 (doStageWrite c s) := by
  unfold Sys2Proof.Machine.doStageWrite
  with_reducible repeat' first
    | assumption | apply Only.complete | exact Or.inl rfl | exact Or.inr (by assumption) | apply OnlyMk.intro
    | simp only [onlyMk] | dsimp only | split | intro

theorem Only.execStageWrite (cmd : HostCmd) (s : State) (hk : Only fr s0 s) (m_regs : Part.regs ∈ fr)
    (m_prog : Part.prog ∈ fr) (m_owed : Part.owed ∈ fr) (m_hif : Part.hif ∈ fr) (m_pipes : Part.pipes ∈ fr)
    (m_crier : Part.crier ∈ fr) (m_flt : Part.flt ∈ fr) : OnlyO fr s0 (execStageWrite cmd s) := by
  unfold Sys2Proof.Machine.execStageWrite
  with_reducible repeat' first
    | assumption | apply Only.runCmd | apply Only.doStageWrite | apply OnlyO.next | exact Or.inl rfl
    | exact Or.inr (by assumption) | apply OnlyMk.intro | simp only [onlyMk] | dsimp only | split | intro

theorem Only.commitEvent (s : State) (g : CommitGrp) (vers : Dom → Nat) (passed : Bool) (hk : Only fr s0 s)
    (m_prg : Part.prg ∈ fr) : Only fr s0 (commitEvent s g vers passed) := by
  unfold Sys2Proof.Machine.commitEvent
  with_reducible repeat' first
    | assumption | exact Or.inl rfl | exact Or.inr (by assumption) | apply OnlyMk.intro | simp only [onlyMk] | dsimp only
    | split | intro

theorem Only.setDomT (s : State) (d : Dom) (t : Nat) (hk : Only fr s0 s) (m_regs : Part.regs ∈ fr)
    : Only fr s0 (setDomT s d t) := by
  unfold Sys2Proof.Machine.setDomT
  with_reducible repeat' first
    | assumption | apply Only.setReg64 | exact Or.inl rfl | exact Or.inr (by assumption) | apply OnlyMk.intro
    | simp only [onlyMk] | dsimp only | split | intro

theorem Only.showLastT (s : State) (d : Dom) (hk : Only fr s0 s) (m_regs : Part.regs ∈ fr) : Only fr s0 (showLastT s d) := by
  unfold Sys2Proof.Machine.showLastT
  with_reducible repeat' first
    | assumption | apply Only.setDomT | exact Or.inl rfl | exact Or.inr (by assumption) | apply OnlyMk.intro
    | simp only [onlyMk] | dsimp only | split | intro

theorem Only.placeGrp (s : State) (g : CommitGrp) (t : Nat) (hk : Only fr s0 s) (m_regs : Part.regs ∈ fr)
    (m_owed : Part.owed ∈ fr) (m_prg : Part.prg ∈ fr) (m_crier : Part.crier ∈ fr) (m_flt : Part.flt ∈ fr)
    : Only fr s0 (placeGrp s g t) := by
  unfold Sys2Proof.Machine.placeGrp
  with_reducible repeat' first
    | assumption | apply Only.forEach | apply Only.setDomT | apply Only.setF | apply Only.setBit | apply Only.whenB
    | apply Only.raise | exact Or.inl rfl | exact Or.inr (by assumption) | apply OnlyMk.intro | simp only [onlyMk]
    | dsimp only | split | intro

theorem Only.commitAccept (c : HostCmd) (s : State) (hk : Only fr s0 s) (m_regs : Part.regs ∈ fr) (m_owed : Part.owed ∈ fr)
    (m_hif : Part.hif ∈ fr) (m_prg : Part.prg ∈ fr) (m_crier : Part.crier ∈ fr) (m_flt : Part.flt ∈ fr)
    : Only fr s0 (commitAccept c s) := by
  unfold Sys2Proof.Machine.commitAccept
  with_reducible repeat' first
    | assumption | apply Only.forEach | apply Only.setBit | apply Only.complete | apply Only.commitEvent
    | apply Only.placeGrp | apply Only.setPhase | exact Or.inl rfl | exact Or.inr (by assumption) | apply OnlyMk.intro
    | simp only [onlyMk] | dsimp only | split | intro

theorem Only.doCommit (c : HostCmd) (s : State) (hk : Only fr s0 s) (m_regs : Part.regs ∈ fr) (m_owed : Part.owed ∈ fr)
    (m_hif : Part.hif ∈ fr) (m_prg : Part.prg ∈ fr) (m_crier : Part.crier ∈ fr) (m_flt : Part.flt ∈ fr)
    : Only fr s0 (doCommit c s) := by
  unfold Sys2Proof.Machine.doCommit
  with_reducible repeat' first
    | assumption | apply Only.complete | apply Only.forEach | apply Only.openStage | apply Only.showLastT | apply Only.setF
    | apply Only.commitAccept | exact Or.inl rfl | exact Or.inr (by assumption) | apply OnlyMk.intro | simp only [onlyMk]
    | dsimp only | split | intro

theorem Only.execCommit (cmd : HostCmd) (s : State) (hk : Only fr s0 s) (m_regs : Part.regs ∈ fr) (m_owed : Part.owed ∈ fr)
    (m_hif : Part.hif ∈ fr) (m_prg : Part.prg ∈ fr) (m_crier : Part.crier ∈ fr) (m_flt : Part.flt ∈ fr)
    : OnlyO fr s0 (execCommit cmd s) := by
  unfold Sys2Proof.Machine.execCommit
  with_reducible repeat' first
    | assumption | apply Only.runCmd | apply Only.doCommit | apply OnlyO.next | exact Or.inl rfl
    | exact Or.inr (by assumption) | apply OnlyMk.intro | simp only [onlyMk] | dsimp only | split | intro

theorem Only.execCommitAt (cmd : HostCmd) (s : State) (hk : Only fr s0 s) (m_regs : Part.regs ∈ fr) (m_owed : Part.owed ∈ fr)
    (m_hif : Part.hif ∈ fr) (m_prg : Part.prg ∈ fr) (m_crier : Part.crier ∈ fr) (m_flt : Part.flt ∈ fr)
    : OnlyO fr s0 (execCommitAt cmd s) := by
  unfold Sys2Proof.Machine.execCommitAt
  with_reducible repeat' first
    | assumption | apply Only.runCmd | apply Only.doCommit | apply OnlyO.next | exact Or.inl rfl
    | exact Or.inr (by assumption) | apply OnlyMk.intro | simp only [onlyMk] | dsimp only | split | intro

theorem Only.execCommitToken (cmd : HostCmd) (s : State) (hk : Only fr s0 s) (m_regs : Part.regs ∈ fr)
    (m_owed : Part.owed ∈ fr) (m_hif : Part.hif ∈ fr) (m_prg : Part.prg ∈ fr) (m_crier : Part.crier ∈ fr) (m_flt : Part.flt ∈ fr)
    : OnlyO fr s0 (execCommitToken cmd s) := by
  unfold Sys2Proof.Machine.execCommitToken
  with_reducible repeat' first
    | assumption | apply Only.runCmd | apply Only.doCommit | apply OnlyO.next | exact Or.inl rfl
    | exact Or.inr (by assumption) | apply OnlyMk.intro | simp only [onlyMk] | dsimp only | split | intro

theorem Only.execCommitCancel (cmd : HostCmd) (s : State) (hk : Only fr s0 s) (m_regs : Part.regs ∈ fr)
    (m_owed : Part.owed ∈ fr) (m_hif : Part.hif ∈ fr) (m_prg : Part.prg ∈ fr) (m_crier : Part.crier ∈ fr) (m_flt : Part.flt ∈ fr)
    : OnlyO fr s0 (execCommitCancel cmd s) := by
  unfold Sys2Proof.Machine.execCommitCancel
  with_reducible repeat' first
    | assumption | apply Only.runCmd | apply Only.doCommit | apply OnlyO.next | exact Or.inl rfl
    | exact Or.inr (by assumption) | apply OnlyMk.intro | simp only [onlyMk] | dsimp only | split | intro

theorem Only.tokenArrive (s : State) (id t : Nat) (hk : Only fr s0 s) (m_regs : Part.regs ∈ fr) (m_owed : Part.owed ∈ fr)
    (m_prg : Part.prg ∈ fr) (m_crier : Part.crier ∈ fr) (m_flt : Part.flt ∈ fr) : Only fr s0 (tokenArrive s id t) := by
  unfold Sys2Proof.Machine.tokenArrive
  with_reducible repeat' first
    | assumption | apply Only.forEach | apply Only.whenB | apply Only.setBit | apply Only.raise | apply Only.placeGrp
    | exact Or.inl rfl | exact Or.inr (by assumption) | apply OnlyMk.intro | simp only [onlyMk] | dsimp only | split | intro

theorem Only.switchDom (t : Nat) (s : State) (d : Dom) (hk : Only fr s0 s) (m_regs : Part.regs ∈ fr)
    (m_owed : Part.owed ∈ fr) (m_prg : Part.prg ∈ fr) (m_crier : Part.crier ∈ fr) (m_flt : Part.flt ∈ fr)
    : Only fr s0 (switchDom t s d) := by
  unfold Sys2Proof.Machine.switchDom
  with_reducible repeat' first
    | assumption | apply Only.setF | apply Only.setBit | apply Only.raise | apply Only.setDomT | apply Only.setDom
    | exact Or.inl rfl | exact Or.inr (by assumption) | apply OnlyMk.intro | simp only [onlyMk] | dsimp only | split | intro

theorem Only.execCommitInstant (d : Dom) (s : State) (hk : Only fr s0 s) (m_regs : Part.regs ∈ fr) (m_owed : Part.owed ∈ fr)
    (m_hif : Part.hif ∈ fr) (m_prg : Part.prg ∈ fr) (m_crier : Part.crier ∈ fr) (m_flt : Part.flt ∈ fr)
    : OnlyO fr s0 (execCommitInstant d s) := by
  unfold Sys2Proof.Machine.execCommitInstant
  with_reducible repeat' first
    | assumption | apply Only.forEach | apply Only.switchDom | apply Only.commitEvent | apply Only.complete
    | apply OnlyO.next | exact Or.inl rfl | exact Or.inr (by assumption) | apply OnlyMk.intro | simp only [onlyMk]
    | dsimp only | split | intro

theorem Only.execDrainEnd (d : Dom) (s : State) (hk : Only fr s0 s) (m_regs : Part.regs ∈ fr) (m_prg : Part.prg ∈ fr)
    : OnlyO fr s0 (execDrainEnd d s) := by
  unfold Sys2Proof.Machine.execDrainEnd
  with_reducible repeat' first
    | assumption | apply Only.setF | apply Only.setDom | apply OnlyO.next | exact Or.inl rfl | exact Or.inr (by assumption)
    | apply OnlyMk.intro | simp only [onlyMk] | dsimp only | split | intro

theorem Only.execCommitRecordWrite (failedBlocks : List Nat) (s : State) (hk : Only fr s0 s) (m_regs : Part.regs ∈ fr)
    (m_journal : Part.journal ∈ fr) (m_owed : Part.owed ∈ fr) (m_prg : Part.prg ∈ fr) (m_crier : Part.crier ∈ fr)
    (m_flt : Part.flt ∈ fr) : OnlyO fr s0 (execCommitRecordWrite failedBlocks s) := by
  unfold Sys2Proof.Machine.execCommitRecordWrite
  with_reducible repeat' first
    | assumption | apply Only.jrnFailed | apply Only.jrnPut | apply OnlyO.next | exact Or.inl rfl
    | exact Or.inr (by assumption) | apply OnlyMk.intro | simp only [onlyMk] | dsimp only | split | intro

theorem Only.putSlot (s : State) (k : Nat) (key : Option (List Byte)) (usage : BitVec 4) (hk : Only fr s0 s)
    (m_regs : Part.regs ∈ fr) (m_sec : Part.sec ∈ fr) : Only fr s0 (putSlot s k key usage) := by
  unfold Sys2Proof.Machine.putSlot
  with_reducible repeat' first
    | assumption | apply Only.setReg | exact Or.inl rfl | exact Or.inr (by assumption) | apply OnlyMk.intro
    | simp only [onlyMk] | dsimp only | split | intro

theorem Only.wipeSlots (s : State) (hk : Only fr s0 s) (m_regs : Part.regs ∈ fr) (m_sec : Part.sec ∈ fr)
    : Only fr s0 (wipeSlots s) := by
  unfold Sys2Proof.Machine.wipeSlots
  with_reducible repeat' first
    | assumption | apply Only.forEach | apply Only.setF | apply Only.setBit | apply Only.foldl | apply Only.foldl1
    | exact Or.inl rfl | exact Or.inr (by assumption) | apply OnlyMk.intro | simp only [onlyMk] | dsimp only | split | intro

theorem Only.keyEpoch (s : State) (hk : Only fr s0 s) (m_regs : Part.regs ∈ fr) (m_freeCtr : Part.freeCtr ∈ fr)
    (m_journal : Part.journal ∈ fr) (m_owed : Part.owed ∈ fr) (m_crier : Part.crier ∈ fr) (m_flt : Part.flt ∈ fr)
    (m_sec : Part.sec ∈ fr) (m_out : Part.out ∈ fr) : Only fr s0 (keyEpoch s) := by
  unfold Sys2Proof.Machine.keyEpoch
  with_reducible repeat' first
    | assumption | apply Only.wipeSlots | apply Only.putSlot | apply Only.drawn | apply Only.setBit | apply Only.setReg64
    | apply Only.jrnFlush | apply Only.whenB | apply Only.raise | exact Or.inl rfl | exact Or.inr (by assumption)
    | apply OnlyMk.intro | simp only [onlyMk] | dsimp only | split | intro

theorem Only.keyRefused (s : State) (hk : Only fr s0 s) (m_regs : Part.regs ∈ fr) (m_owed : Part.owed ∈ fr)
    (m_lastRaise : Part.lastRaise ∈ fr) (m_crier : Part.crier ∈ fr) (m_flt : Part.flt ∈ fr) : Only fr s0 (keyRefused s) := by
  unfold Sys2Proof.Machine.keyRefused
  with_reducible repeat' first
    | assumption | apply Only.raiseLimited | exact Or.inl rfl | exact Or.inr (by assumption) | apply OnlyMk.intro
    | simp only [onlyMk] | dsimp only | split | intro

theorem Only.doKeyUnwrap (c : HostCmd) (s : State) (hk : Only fr s0 s) (m_regs : Part.regs ∈ fr) (m_owed : Part.owed ∈ fr)
    (m_lastRaise : Part.lastRaise ∈ fr) (m_hif : Part.hif ∈ fr) (m_crier : Part.crier ∈ fr) (m_flt : Part.flt ∈ fr)
    (m_sec : Part.sec ∈ fr) : Only fr s0 (doKeyUnwrap c s) := by
  unfold Sys2Proof.Machine.doKeyUnwrap
  with_reducible repeat' first
    | assumption | apply Only.complete | apply Only.putSlot | apply Only.keyRefused | apply Only.raise | apply Only.secCount
    | exact Or.inl rfl | exact Or.inr (by assumption) | apply OnlyMk.intro | simp only [onlyMk] | dsimp only | split | intro

theorem Only.execKeyUnwrap (cmd : HostCmd) (s : State) (hk : Only fr s0 s) (m_regs : Part.regs ∈ fr)
    (m_owed : Part.owed ∈ fr) (m_lastRaise : Part.lastRaise ∈ fr) (m_hif : Part.hif ∈ fr) (m_crier : Part.crier ∈ fr)
    (m_flt : Part.flt ∈ fr) (m_sec : Part.sec ∈ fr) : OnlyO fr s0 (execKeyUnwrap cmd s) := by
  unfold Sys2Proof.Machine.execKeyUnwrap
  with_reducible repeat' first
    | assumption | apply Only.runCmd | apply Only.doKeyUnwrap | apply OnlyO.next | exact Or.inl rfl
    | exact Or.inr (by assumption) | apply OnlyMk.intro | simp only [onlyMk] | dsimp only | split | intro

theorem Only.execKeyErase (cmd : HostCmd) (s : State) (hk : Only fr s0 s) (m_regs : Part.regs ∈ fr) (m_owed : Part.owed ∈ fr)
    (m_lastRaise : Part.lastRaise ∈ fr) (m_hif : Part.hif ∈ fr) (m_crier : Part.crier ∈ fr) (m_flt : Part.flt ∈ fr)
    (m_sec : Part.sec ∈ fr) : OnlyO fr s0 (execKeyErase cmd s) := by
  unfold Sys2Proof.Machine.execKeyErase
  with_reducible repeat' first
    | assumption | apply Only.runCmd | apply Only.doKeyUnwrap | apply OnlyO.next | exact Or.inl rfl
    | exact Or.inr (by assumption) | apply OnlyMk.intro | simp only [onlyMk] | dsimp only | split | intro

theorem Only.doCtxSave (c : HostCmd) (s : State) (hk : Only fr s0 s) (m_regs : Part.regs ∈ fr) (m_owed : Part.owed ∈ fr)
    (m_lastRaise : Part.lastRaise ∈ fr) (m_hif : Part.hif ∈ fr) (m_crier : Part.crier ∈ fr) (m_flt : Part.flt ∈ fr)
    (m_out : Part.out ∈ fr) : Only fr s0 (doCtxSave c s) := by
  unfold Sys2Proof.Machine.doCtxSave
  with_reducible repeat' first
    | assumption | apply Only.complete | apply Only.completeData | apply Only.keyRefused | exact Or.inl rfl
    | exact Or.inr (by assumption) | apply OnlyMk.intro | simp only [onlyMk] | dsimp only | split | intro

theorem Only.ctxRestoreNow (c : HostCmd) (s : State) (hk : Only fr s0 s) (m_regs : Part.regs ∈ fr) (m_owed : Part.owed ∈ fr)
    (m_lastRaise : Part.lastRaise ∈ fr) (m_hif : Part.hif ∈ fr) (m_crier : Part.crier ∈ fr) (m_flt : Part.flt ∈ fr)
    (m_sec : Part.sec ∈ fr) : Only fr s0 (ctxRestoreNow c s) := by
  unfold Sys2Proof.Machine.ctxRestoreNow
  with_reducible repeat' first
    | assumption | apply Only.complete | apply Only.keyRefused | apply Only.setF | apply Only.setReg64 | exact Or.inl rfl
    | exact Or.inr (by assumption) | apply OnlyMk.intro | simp only [onlyMk] | dsimp only | split | intro

theorem Only.doCtxRestore (c : HostCmd) (s : State) (hk : Only fr s0 s) (m_regs : Part.regs ∈ fr) (m_owed : Part.owed ∈ fr)
    (m_lastRaise : Part.lastRaise ∈ fr) (m_hif : Part.hif ∈ fr) (m_crier : Part.crier ∈ fr) (m_flt : Part.flt ∈ fr)
    (m_sec : Part.sec ∈ fr) : Only fr s0 (doCtxRestore c s) := by
  unfold Sys2Proof.Machine.doCtxRestore
  with_reducible repeat' first
    | assumption | apply Only.complete | apply Only.ctxRestoreNow | apply Only.setPhase | exact Or.inl rfl
    | exact Or.inr (by assumption) | apply OnlyMk.intro | simp only [onlyMk] | dsimp only | split | intro

theorem Only.ctxPoll (s : State) (hk : Only fr s0 s) (m_regs : Part.regs ∈ fr) (m_owed : Part.owed ∈ fr)
    (m_lastRaise : Part.lastRaise ∈ fr) (m_hif : Part.hif ∈ fr) (m_crier : Part.crier ∈ fr) (m_flt : Part.flt ∈ fr)
    (m_sec : Part.sec ∈ fr) : Only fr s0 (ctxPoll s) := by
  unfold Sys2Proof.Machine.ctxPoll
  with_reducible repeat' first
    | assumption | apply Only.setBit | apply Only.forEach | apply Only.ctxRestoreNow | exact Or.inl rfl
    | exact Or.inr (by assumption) | apply OnlyMk.intro | simp only [onlyMk] | dsimp only | split | intro

theorem Only.execCtxSave (cmd : HostCmd) (s : State) (hk : Only fr s0 s) (m_regs : Part.regs ∈ fr) (m_owed : Part.owed ∈ fr)
    (m_lastRaise : Part.lastRaise ∈ fr) (m_hif : Part.hif ∈ fr) (m_crier : Part.crier ∈ fr) (m_flt : Part.flt ∈ fr)
    (m_out : Part.out ∈ fr) : OnlyO fr s0 (execCtxSave cmd s) := by
  unfold Sys2Proof.Machine.execCtxSave
  with_reducible repeat' first
    | assumption | apply Only.runCmd | apply Only.doCtxSave | apply OnlyO.next | exact Or.inl rfl
    | exact Or.inr (by assumption) | apply OnlyMk.intro | simp only [onlyMk] | dsimp only | split | intro

theorem Only.execCtxRestore (cmd : HostCmd) (s : State) (hk : Only fr s0 s) (m_regs : Part.regs ∈ fr)
    (m_owed : Part.owed ∈ fr) (m_lastRaise : Part.lastRaise ∈ fr) (m_hif : Part.hif ∈ fr) (m_crier : Part.crier ∈ fr)
    (m_flt : Part.flt ∈ fr) (m_sec : Part.sec ∈ fr) : OnlyO fr s0 (execCtxRestore cmd s) := by
  unfold Sys2Proof.Machine.execCtxRestore
  with_reducible repeat' first
    | assumption | apply Only.runCmd | apply Only.doCtxRestore | apply OnlyO.next | exact Or.inl rfl
    | exact Or.inr (by assumption) | apply OnlyMk.intro | simp only [onlyMk] | dsimp only | split | intro

theorem Only.execTrngFail (s : State) (hk : Only fr s0 s) (m_regs : Part.regs ∈ fr) (m_owed : Part.owed ∈ fr)
    (m_crier : Part.crier ∈ fr) (m_flt : Part.flt ∈ fr) : OnlyO fr s0 (execTrngFail s) := by
  unfold Sys2Proof.Machine.execTrngFail
  with_reducible repeat' first
    | assumption | apply Only.raise | apply Only.setBit | apply OnlyO.next | exact Or.inl rfl | exact Or.inr (by assumption)
    | apply OnlyMk.intro | simp only [onlyMk] | dsimp only | split | intro

theorem Only.sigCount (s : State) (ok : Bool) (hk : Only fr s0 s) (m_regs : Part.regs ∈ fr) (m_owed : Part.owed ∈ fr)
    (m_crier : Part.crier ∈ fr) (m_flt : Part.flt ∈ fr) : Only fr s0 (sigCount s ok) := by
  unfold Sys2Proof.Machine.sigCount
  with_reducible repeat' first
    | assumption | apply Only.secCount | apply Only.raise | exact Or.inl rfl | exact Or.inr (by assumption)
    | apply OnlyMk.intro | simp only [onlyMk] | dsimp only | split | intro

theorem Only.raiseFwFloor (s : State) (svn : Nat) (hk : Only fr s0 s) (m_regs : Part.regs ∈ fr) (m_owed : Part.owed ∈ fr)
    (m_top : Part.top ∈ fr) (m_crier : Part.crier ∈ fr) (m_flt : Part.flt ∈ fr) : Only fr s0 (raiseFwFloor s svn) := by
  unfold Sys2Proof.Machine.raiseFwFloor
  with_reducible repeat' first
    | assumption | apply Only.raise | apply Only.setF | exact Or.inl rfl | exact Or.inr (by assumption) | apply OnlyMk.intro
    | simp only [onlyMk] | dsimp only | split | intro

theorem Only.raisePatchFloor (s : State) (svn : Nat) (hk : Only fr s0 s) (m_regs : Part.regs ∈ fr) (m_owed : Part.owed ∈ fr)
    (m_top : Part.top ∈ fr) (m_crier : Part.crier ∈ fr) (m_flt : Part.flt ∈ fr) : Only fr s0 (raisePatchFloor s svn) := by
  unfold Sys2Proof.Machine.raisePatchFloor
  with_reducible repeat' first
    | assumption | apply Only.raise | apply Only.setF | exact Or.inl rfl | exact Or.inr (by assumption) | apply OnlyMk.intro
    | simp only [onlyMk] | dsimp only | split | intro

theorem Only.doPatchLoad (m : Image) (c : HostCmd) (s : State) (hk : Only fr s0 s) (m_regs : Part.regs ∈ fr)
    (m_owed : Part.owed ∈ fr) (m_top : Part.top ∈ fr) (m_hif : Part.hif ∈ fr) (m_prg : Part.prg ∈ fr) (m_crier : Part.crier ∈ fr)
    (m_flt : Part.flt ∈ fr) : Only fr s0 (doPatchLoad m c s) := by
  unfold Sys2Proof.Machine.doPatchLoad
  with_reducible repeat' first
    | assumption | apply Only.setPhase | apply Only.sigCount | apply Only.complete | exact Or.inl rfl
    | exact Or.inr (by assumption) | apply OnlyMk.intro | simp only [onlyMk] | dsimp only | split | intro

theorem Only.execPatchLoad (cmd : HostCmd) (image : Image) (s : State) (hk : Only fr s0 s) (m_regs : Part.regs ∈ fr)
    (m_owed : Part.owed ∈ fr) (m_top : Part.top ∈ fr) (m_hif : Part.hif ∈ fr) (m_prg : Part.prg ∈ fr) (m_crier : Part.crier ∈ fr)
    (m_flt : Part.flt ∈ fr) : OnlyO fr s0 (execPatchLoad cmd image s) := by
  unfold Sys2Proof.Machine.execPatchLoad
  with_reducible repeat' first
    | assumption | apply Only.runCmd | apply Only.doPatchLoad | apply OnlyO.next | exact Or.inl rfl
    | exact Or.inr (by assumption) | apply OnlyMk.intro | simp only [onlyMk] | dsimp only | split | intro

theorem Only.execPatchSwitchPoint (s : State) (hk : Only fr s0 s) (m_regs : Part.regs ∈ fr) (m_owed : Part.owed ∈ fr)
    (m_top : Part.top ∈ fr) (m_hif : Part.hif ∈ fr) (m_prg : Part.prg ∈ fr) (m_crier : Part.crier ∈ fr) (m_flt : Part.flt ∈ fr)
    : OnlyO fr s0 (execPatchSwitchPoint s) := by
  unfold Sys2Proof.Machine.execPatchSwitchPoint
  with_reducible repeat' first
    | assumption | apply Only.raisePatchFloor | apply Only.raise | apply Only.complete | apply OnlyO.next | exact Or.inl rfl
    | exact Or.inr (by assumption) | apply OnlyMk.intro | simp only [onlyMk] | dsimp only | split | intro

theorem Only.writeSlot (s : State) (image : Image) (sound : Bool) (hk : Only fr s0 s) (m_top : Part.top ∈ fr)
    : Only fr s0 (writeSlot s image sound) := by
  unfold Sys2Proof.Machine.writeSlot
  with_reducible repeat' first
    | assumption | exact Or.inl rfl | exact Or.inr (by assumption) | apply OnlyMk.intro | simp only [onlyMk] | dsimp only
    | split | intro

theorem Only.execFwUpdate (image : Image) (cut : Bool) (s : State) (hk : Only fr s0 s) (m_regs : Part.regs ∈ fr)
    (m_owed : Part.owed ∈ fr) (m_top : Part.top ∈ fr) (m_hif : Part.hif ∈ fr) (m_crier : Part.crier ∈ fr) (m_flt : Part.flt ∈ fr)
    : OnlyO fr s0 (execFwUpdate image cut s) := by
  unfold Sys2Proof.Machine.execFwUpdate
  with_reducible repeat' first
    | assumption | apply Only.mailRespond | apply Only.sigCount | apply Only.writeSlot | apply OnlyO.next | exact Or.inl rfl
    | exact Or.inr (by assumption) | apply OnlyMk.intro | simp only [onlyMk] | dsimp only | split | intro

theorem Only.lcsAnswer (s : State) (m : MailReq) (hk : Only fr s0 s) (m_regs : Part.regs ∈ fr) (m_owed : Part.owed ∈ fr)
    (m_top : Part.top ∈ fr) (m_hif : Part.hif ∈ fr) (m_crier : Part.crier ∈ fr) (m_flt : Part.flt ∈ fr)
    : Only fr s0 (lcsAnswer s m) := by
  unfold Sys2Proof.Machine.lcsAnswer
  with_reducible repeat' first
    | assumption | apply Only.mailRespond | apply Only.sigCount | exact Or.inl rfl | exact Or.inr (by assumption)
    | apply OnlyMk.intro | simp only [onlyMk] | dsimp only | split | intro

theorem Only.execLcsChange (s : State) (hk : Only fr s0 s) (m_regs : Part.regs ∈ fr) (m_owed : Part.owed ∈ fr)
    (m_top : Part.top ∈ fr) (m_hif : Part.hif ∈ fr) (m_crier : Part.crier ∈ fr) (m_flt : Part.flt ∈ fr)
    : OnlyO fr s0 (execLcsChange s) := by
  unfold Sys2Proof.Machine.execLcsChange
  with_reducible repeat' first
    | assumption | apply Only.mailRespond | apply Only.lcsAnswer | apply OnlyO.next | exact Or.inl rfl
    | exact Or.inr (by assumption) | apply OnlyMk.intro | simp only [onlyMk] | dsimp only | split | intro

theorem Only.execMailboxResponse (s : State) (hk : Only fr s0 s) (m_regs : Part.regs ∈ fr) (m_owed : Part.owed ∈ fr)
    (m_top : Part.top ∈ fr) (m_hif : Part.hif ∈ fr) (m_crier : Part.crier ∈ fr) (m_flt : Part.flt ∈ fr)
    : OnlyO fr s0 (execMailboxResponse s) := by
  unfold Sys2Proof.Machine.execMailboxResponse
  with_reducible repeat' first
    | assumption | apply Only.mailRespond | apply Only.lcsAnswer | apply OnlyO.next | exact Or.inl rfl
    | exact Or.inr (by assumption) | apply OnlyMk.intro | simp only [onlyMk] | dsimp only | split | intro

theorem Only.setLatch (s : State) (rq : Requester) (a : Nat) (v : Word) (hk : Only fr s0 s) (m_hif : Part.hif ∈ fr)
    : Only fr s0 (setLatch s rq a v) := by
  unfold Sys2Proof.Machine.setLatch
  with_reducible repeat' first
    | assumption | exact Or.inl rfl | exact Or.inr (by assumption) | apply OnlyMk.intro | simp only [onlyMk] | dsimp only
    | split | intro

theorem Only.latchNow (s : State) (rq : Requester) (hk : Only fr s0 s) (m_hif : Part.hif ∈ fr)
    : Only fr s0 (latchNow s rq) := by
  unfold Sys2Proof.Machine.latchNow
  with_reducible repeat' first
    | assumption | apply Only.setLatch | exact Or.inl rfl | exact Or.inr (by assumption) | apply OnlyMk.intro
    | simp only [onlyMk] | dsimp only | split | intro

theorem Only.execNowNsRead (rq : Requester) (s : State) (hk : Only fr s0 s) (m_hif : Part.hif ∈ fr) (m_out : Part.out ∈ fr)
    : OnlyO fr s0 (execNowNsRead rq s) := by
  unfold Sys2Proof.Machine.execNowNsRead
  with_reducible repeat' first
    | assumption | apply Only.emit | apply Only.latchNow | apply OnlyO.next | exact Or.inl rfl | exact Or.inr (by assumption)
    | apply OnlyMk.intro | simp only [onlyMk] | dsimp only | split | intro

theorem Only.execFreqWrite (value : Word) (s : State) (hk : Only fr s0 s) (m_regs : Part.regs ∈ fr) (m_top : Part.top ∈ fr)
    : OnlyO fr s0 (execFreqWrite value s) := by
  unfold Sys2Proof.Machine.execFreqWrite
  with_reducible repeat' first
    | assumption | apply Only.holdWrite | apply Only.setReg | apply OnlyO.next | exact Or.inl rfl
    | exact Or.inr (by assumption) | apply OnlyMk.intro | simp only [onlyMk] | dsimp only | split | intro

theorem Only.putPulse (s : State) (n : Nat) (p : Pulse) (hk : Only fr s0 s) (m_pulses : Part.pulses ∈ fr)
    : Only fr s0 (putPulse s n p) := by
  unfold Sys2Proof.Machine.putPulse
  with_reducible repeat' first
    | assumption | exact Or.inl rfl | exact Or.inr (by assumption) | apply OnlyMk.intro | simp only [onlyMk] | dsimp only
    | split | intro

theorem Only.firePulse (n : Nat) (s : State) (hk : Only fr s0 s) (m_regs : Part.regs ∈ fr) (m_pulses : Part.pulses ∈ fr)
    (m_out : Part.out ∈ fr) : Only fr s0 (firePulse n s) := by
  unfold Sys2Proof.Machine.firePulse
  with_reducible repeat' first
    | assumption | apply Only.putPulse | apply Only.emit | apply Only.setBit | exact Or.inl rfl
    | exact Or.inr (by assumption) | apply OnlyMk.intro | simp only [onlyMk] | dsimp only | split | intro

theorem Only.fireFirst (s : State) (hk : Only fr s0 s)
    (m_regs : Part.regs ∈ fr) (m_owed : Part.owed ∈ fr) (m_hif : Part.hif ∈ fr) (m_prg : Part.prg ∈ fr)
    (m_slots : Part.slots ∈ fr) (m_pulses : Part.pulses ∈ fr) (m_crier : Part.crier ∈ fr) (m_flt : Part.flt ∈ fr)
    (m_out : Part.out ∈ fr) : Only fr s0 (fireFirst s) := by
  unfold Sys2Proof.Machine.fireFirst
  split
  · rename_i e he
    have hm := firstDue_mem he
    unfold Sys2Proof.Machine.dueEvents at hm
    simp only [List.mem_append, List.mem_filterMap] at hm
    rcases hm with (⟨g, _, hg⟩ | ⟨x, _, hx⟩) | ⟨x, _, hx⟩
    · split at hg
      · split at hg
        · cases hg
          with_reducible repeat' first | assumption | apply Only.rowState | apply Only.execCommitInstant
        · cases hg
      · cases hg
    · split at hx
      · split at hx
        · cases hx
          with_reducible repeat' first | assumption | apply Only.takeSwitch
        · cases hx
      · cases hx
    · split at hx
      · cases hx
        with_reducible repeat' first | assumption | apply Only.firePulse
      · cases hx
  · exact hk

theorem Only.captureSnaps (s : State) (hk : Only fr s0 s) (m_telem : Part.telem ∈ fr) : Only fr s0 (captureSnaps s) := by
  unfold Sys2Proof.Machine.captureSnaps
  with_reducible repeat' first
    | assumption | apply Only.forEach | exact Or.inl rfl | exact Or.inr (by assumption) | apply OnlyMk.intro
    | simp only [onlyMk] | dsimp only | split | intro

theorem Only.fireDue (f : State → State) (s : State) (hf : ∀ t, Only fr s0 t → Only fr s0 (f t)) (hk : Only fr s0 s)
    (m_regs : Part.regs ∈ fr) (m_owed : Part.owed ∈ fr) (m_hif : Part.hif ∈ fr) (m_prg : Part.prg ∈ fr)
    (m_slots : Part.slots ∈ fr) (m_pulses : Part.pulses ∈ fr) (m_telem : Part.telem ∈ fr) (m_crier : Part.crier ∈ fr)
    (m_flt : Part.flt ∈ fr) (m_out : Part.out ∈ fr) : Only fr s0 (fireDue f s) := by
  unfold Sys2Proof.Machine.fireDue
  with_reducible repeat' first
    | assumption | apply hf | apply Only.captureSnaps | apply Only.forEach | apply Only.fireFirst | exact Or.inl rfl
    | exact Or.inr (by assumption) | apply OnlyMk.intro | simp only [onlyMk] | dsimp only | split | intro

theorem Only.execScheduledEventFire (s : State) (hk : Only fr s0 s) (m_regs : Part.regs ∈ fr) (m_owed : Part.owed ∈ fr)
    (m_hif : Part.hif ∈ fr) (m_prg : Part.prg ∈ fr) (m_slots : Part.slots ∈ fr) (m_pulses : Part.pulses ∈ fr)
    (m_telem : Part.telem ∈ fr) (m_crier : Part.crier ∈ fr) (m_flt : Part.flt ∈ fr) (m_out : Part.out ∈ fr)
    : OnlyO fr s0 (execScheduledEventFire s) := by
  unfold Sys2Proof.Machine.execScheduledEventFire
  with_reducible repeat' first
    | assumption | apply Only.captureSnaps | apply Only.fireFirst | apply OnlyO.next | exact Or.inl rfl
    | exact Or.inr (by assumption) | apply OnlyMk.intro | simp only [onlyMk] | dsimp only | split | intro

theorem Only.endSlew (s : State) (hk : Only fr s0 s) (m_regs : Part.regs ∈ fr) (m_clock : Part.clock ∈ fr)
    : Only fr s0 (endSlew s) := by
  unfold Sys2Proof.Machine.endSlew
  with_reducible repeat' first
    | assumption | apply Only.setReg64 | exact Or.inl rfl | exact Or.inr (by assumption) | apply OnlyMk.intro
    | simp only [onlyMk] | dsimp only | split | intro

theorem Only.refillFrom (s : State) (hk : Only fr s0 s) (m_sched : Part.sched ∈ fr) : Only fr s0 (refillFrom s) := by
  unfold Sys2Proof.Machine.refillFrom
  with_reducible repeat' first
    | assumption | exact Or.inl rfl | exact Or.inr (by assumption) | apply OnlyMk.intro | simp only [onlyMk] | dsimp only
    | split | intro

theorem Only.resumePulses (s : State) (hk : Only fr s0 s) (m_pulses : Part.pulses ∈ fr) : Only fr s0 (resumePulses s) := by
  unfold Sys2Proof.Machine.resumePulses
  with_reducible repeat' first
    | assumption | exact Or.inl rfl | exact Or.inr (by assumption) | apply OnlyMk.intro | simp only [onlyMk] | dsimp only
    | split | intro

theorem Only.setClock (c : HostCmd) (k : Clock) (s : State) (hk : Only fr s0 s)
    (m_regs : Part.regs ∈ fr) (m_clock : Part.clock ∈ fr) (m_owed : Part.owed ∈ fr) (m_hif : Part.hif ∈ fr)
    (m_prg : Part.prg ∈ fr) (m_sched : Part.sched ∈ fr) (m_slots : Part.slots ∈ fr) (m_pulses : Part.pulses ∈ fr)
    (m_telem : Part.telem ∈ fr) (m_crier : Part.crier ∈ fr) (m_flt : Part.flt ∈ fr) (m_out : Part.out ∈ fr) : Only fr s0 (setClock c k s) := by
  unfold Sys2Proof.Machine.setClock
  dsimp only
  with_reducible repeat' first
    | assumption | apply Only.complete | apply Only.fireDue | apply Only.resumePulses | apply Only.refillFrom | apply Only.endSlew
    | exact Or.inl rfl | exact Or.inr (by assumption) | apply OnlyMk.intro | simp only [onlyMk] | simp only [id] | intro

theorem Only.doTimeSet (c : HostCmd) (s : State) (hk : Only fr s0 s) (m_regs : Part.regs ∈ fr) (m_clock : Part.clock ∈ fr)
    (m_owed : Part.owed ∈ fr) (m_hif : Part.hif ∈ fr) (m_prg : Part.prg ∈ fr) (m_sched : Part.sched ∈ fr)
    (m_slots : Part.slots ∈ fr) (m_pulses : Part.pulses ∈ fr) (m_telem : Part.telem ∈ fr) (m_crier : Part.crier ∈ fr)
    (m_flt : Part.flt ∈ fr) (m_out : Part.out ∈ fr) : Only fr s0 (doTimeSet c s) := by
  unfold Sys2Proof.Machine.doTimeSet
  with_reducible repeat' first
    | assumption | apply Only.complete | apply Only.setClock | apply Only.setReg64 | exact Or.inl rfl
    | exact Or.inr (by assumption) | apply OnlyMk.intro | simp only [onlyMk] | dsimp only | split | intro

theorem Only.execTimeSetSet (cmd : HostCmd) (s : State) (hk : Only fr s0 s) (m_regs : Part.regs ∈ fr)
    (m_clock : Part.clock ∈ fr) (m_owed : Part.owed ∈ fr) (m_hif : Part.hif ∈ fr) (m_prg : Part.prg ∈ fr)
    (m_sched : Part.sched ∈ fr) (m_slots : Part.slots ∈ fr) (m_pulses : Part.pulses ∈ fr) (m_telem : Part.telem ∈ fr)
    (m_crier : Part.crier ∈ fr) (m_flt : Part.flt ∈ fr) (m_out : Part.out ∈ fr) : OnlyO fr s0 (execTimeSetSet cmd s) := by
  unfold Sys2Proof.Machine.execTimeSetSet
  with_reducible repeat' first
    | assumption | apply Only.runCmd | apply Only.doTimeSet | apply OnlyO.next | exact Or.inl rfl
    | exact Or.inr (by assumption) | apply OnlyMk.intro | simp only [onlyMk] | dsimp only | split | intro

theorem Only.execTimeSetStep (cmd : HostCmd) (s : State) (hk : Only fr s0 s) (m_regs : Part.regs ∈ fr)
    (m_clock : Part.clock ∈ fr) (m_owed : Part.owed ∈ fr) (m_hif : Part.hif ∈ fr) (m_prg : Part.prg ∈ fr)
    (m_sched : Part.sched ∈ fr) (m_slots : Part.slots ∈ fr) (m_pulses : Part.pulses ∈ fr) (m_telem : Part.telem ∈ fr)
    (m_crier : Part.crier ∈ fr) (m_flt : Part.flt ∈ fr) (m_out : Part.out ∈ fr) : OnlyO fr s0 (execTimeSetStep cmd s) := by
  unfold Sys2Proof.Machine.execTimeSetStep
  with_reducible repeat' first
    | assumption | apply Only.runCmd | apply Only.doTimeSet | apply OnlyO.next | exact Or.inl rfl
    | exact Or.inr (by assumption) | apply OnlyMk.intro | simp only [onlyMk] | dsimp only | split | intro

theorem Only.execTimeSetSlew (cmd : HostCmd) (s : State) (hk : Only fr s0 s) (m_regs : Part.regs ∈ fr)
    (m_clock : Part.clock ∈ fr) (m_owed : Part.owed ∈ fr) (m_hif : Part.hif ∈ fr) (m_prg : Part.prg ∈ fr)
    (m_sched : Part.sched ∈ fr) (m_slots : Part.slots ∈ fr) (m_pulses : Part.pulses ∈ fr) (m_telem : Part.telem ∈ fr)
    (m_crier : Part.crier ∈ fr) (m_flt : Part.flt ∈ fr) (m_out : Part.out ∈ fr) : OnlyO fr s0 (execTimeSetSlew cmd s) := by
  unfold Sys2Proof.Machine.execTimeSetSlew
  with_reducible repeat' first
    | assumption | apply Only.runCmd | apply Only.doTimeSet | apply OnlyO.next | exact Or.inl rfl
    | exact Or.inr (by assumption) | apply OnlyMk.intro | simp only [onlyMk] | dsimp only | split | intro

theorem Only.execSlewComplete (s : State) (hk : Only fr s0 s) (m_regs : Part.regs ∈ fr) (m_clock : Part.clock ∈ fr)
    (m_owed : Part.owed ∈ fr) (m_crier : Part.crier ∈ fr) (m_flt : Part.flt ∈ fr) : OnlyO fr s0 (execSlewComplete s) := by
  unfold Sys2Proof.Machine.execSlewComplete
  with_reducible repeat' first
    | assumption | apply Only.raise | apply Only.setReg64 | apply OnlyO.next | exact Or.inl rfl
    | exact Or.inr (by assumption) | apply OnlyMk.intro | simp only [onlyMk] | dsimp only | split | intro

theorem Only.loseRef (s : State) (hk : Only fr s0 s) (m_regs : Part.regs ∈ fr) (m_owed : Part.owed ∈ fr)
    (m_crier : Part.crier ∈ fr) (m_flt : Part.flt ∈ fr) : Only fr s0 (loseRef s) := by
  unfold Sys2Proof.Machine.loseRef
  with_reducible repeat' first
    | assumption | apply Only.raise | apply Only.clearBringup | apply Only.setF | exact Or.inl rfl
    | exact Or.inr (by assumption) | apply OnlyMk.intro | simp only [onlyMk] | dsimp only | split | intro

theorem Only.execReferenceLost (s : State) (hk : Only fr s0 s) (m_regs : Part.regs ∈ fr) (m_owed : Part.owed ∈ fr)
    (m_crier : Part.crier ∈ fr) (m_flt : Part.flt ∈ fr) : OnlyO fr s0 (execReferenceLost s) := by
  unfold Sys2Proof.Machine.execReferenceLost
  with_reducible repeat' first
    | assumption | apply Only.loseRef | apply OnlyO.next | exact Or.inl rfl | exact Or.inr (by assumption)
    | apply OnlyMk.intro | simp only [onlyMk] | dsimp only | split | intro

theorem Only.execRefSelWrite (value : Word) (s : State) (hk : Only fr s0 s) (m_regs : Part.regs ∈ fr)
    (m_owed : Part.owed ∈ fr) (m_top : Part.top ∈ fr) (m_crier : Part.crier ∈ fr) (m_flt : Part.flt ∈ fr)
    : OnlyO fr s0 (execRefSelWrite value s) := by
  unfold Sys2Proof.Machine.execRefSelWrite
  with_reducible repeat' first
    | assumption | apply Only.holdWrite | apply Only.loseRef | apply Only.setBit | apply OnlyO.next | exact Or.inl rfl
    | exact Or.inr (by assumption) | apply OnlyMk.intro | simp only [onlyMk] | dsimp only | split | intro

theorem Only.execTimeLock (s : State) (hk : Only fr s0 s) (m_regs : Part.regs ∈ fr) (m_owed : Part.owed ∈ fr)
    (m_crier : Part.crier ∈ fr) (m_flt : Part.flt ∈ fr) : OnlyO fr s0 (execTimeLock s) := by
  unfold Sys2Proof.Machine.execTimeLock
  with_reducible repeat' first
    | assumption | apply Only.raise | apply Only.setBringup | apply Only.setF | apply OnlyO.next | exact Or.inl rfl
    | exact Or.inr (by assumption) | apply OnlyMk.intro | simp only [onlyMk] | dsimp only | split | intro

theorem Only.execCaptureEdge (set : Nat) (falling : Bool) (s : State) (hk : Only fr s0 s) (m_regs : Part.regs ∈ fr)
    (m_owed : Part.owed ∈ fr) (m_crier : Part.crier ∈ fr) (m_flt : Part.flt ∈ fr)
    : OnlyO fr s0 (execCaptureEdge set falling s) := by
  unfold Sys2Proof.Machine.execCaptureEdge
  with_reducible repeat' first
    | assumption | apply Only.setBit | apply Only.setReg | apply Only.raise | apply Only.setReg64 | apply OnlyO.next
    | exact Or.inl rfl | exact Or.inr (by assumption) | apply OnlyMk.intro | simp only [onlyMk] | dsimp only | split | intro

theorem Only.pulseArm (n : Nat) (value : Word) (s : State) (hk : Only fr s0 s) (m_regs : Part.regs ∈ fr)
    (m_owed : Part.owed ∈ fr) (m_pulses : Part.pulses ∈ fr) (m_crier : Part.crier ∈ fr) (m_flt : Part.flt ∈ fr)
    : Only fr s0 (pulseArm n value s) := by
  unfold Sys2Proof.Machine.pulseArm
  with_reducible repeat' first
    | assumption | apply Only.setBit | apply Only.setF | apply Only.putPulse | apply Only.raise | exact Or.inl rfl
    | exact Or.inr (by assumption) | apply OnlyMk.intro | simp only [onlyMk] | dsimp only | split | intro

theorem Only.execPulseArm (n : Nat) (value : Word) (s : State) (hk : Only fr s0 s) (m_regs : Part.regs ∈ fr)
    (m_owed : Part.owed ∈ fr) (m_top : Part.top ∈ fr) (m_pulses : Part.pulses ∈ fr) (m_crier : Part.crier ∈ fr)
    (m_flt : Part.flt ∈ fr) : OnlyO fr s0 (execPulseArm n value s) := by
  unfold Sys2Proof.Machine.execPulseArm
  with_reducible repeat' first
    | assumption | apply Only.holdWrite | apply Only.pulseArm | apply OnlyO.next | exact Or.inl rfl
    | exact Or.inr (by assumption) | apply OnlyMk.intro | simp only [onlyMk] | dsimp only | split | intro

theorem Only.pulseStop (n : Nat) (value : Word) (s : State) (hk : Only fr s0 s) (m_regs : Part.regs ∈ fr)
    (m_pulses : Part.pulses ∈ fr) : Only fr s0 (pulseStop n value s) := by
  unfold Sys2Proof.Machine.pulseStop
  with_reducible repeat' first
    | assumption | apply Only.setF | apply Only.putPulse | exact Or.inl rfl | exact Or.inr (by assumption)
    | apply OnlyMk.intro | simp only [onlyMk] | dsimp only | split | intro

theorem Only.execPulseStop (n : Nat) (value : Word) (s : State) (hk : Only fr s0 s) (m_regs : Part.regs ∈ fr)
    (m_top : Part.top ∈ fr) (m_pulses : Part.pulses ∈ fr) : OnlyO fr s0 (execPulseStop n value s) := by
  unfold Sys2Proof.Machine.execPulseStop
  with_reducible repeat' first
    | assumption | apply Only.holdWrite | apply Only.pulseStop | apply OnlyO.next | exact Or.inl rfl
    | exact Or.inr (by assumption) | apply OnlyMk.intro | simp only [onlyMk] | dsimp only | split | intro

theorem Only.execPulseEdge (n : Nat) (s : State) (hk : Only fr s0 s) (m_regs : Part.regs ∈ fr) (m_pulses : Part.pulses ∈ fr)
    (m_out : Part.out ∈ fr) : OnlyO fr s0 (execPulseEdge n s) := by
  unfold Sys2Proof.Machine.execPulseEdge
  with_reducible repeat' first
    | assumption | apply Only.firePulse | apply OnlyO.next | exact Or.inl rfl | exact Or.inr (by assumption)
    | apply OnlyMk.intro | simp only [onlyMk] | dsimp only | split | intro

theorem Only.setLatency (s : State) (l lanes rate : Nat) (hk : Only fr s0 s) (m_regs : Part.regs ∈ fr)
    : Only fr s0 (setLatency s l lanes rate) := by
  unfold Sys2Proof.Machine.setLatency
  with_reducible repeat' first
    | assumption | apply Only.setReg | exact Or.inl rfl | exact Or.inr (by assumption) | apply OnlyMk.intro
    | simp only [onlyMk] | dsimp only | split | intro

theorem Only.setStall (s : State) (n : Nat) (x : Stall) (hk : Only fr s0 s) (m_pipes : Part.pipes ∈ fr)
    : Only fr s0 (setStall s n x) := by
  unfold Sys2Proof.Machine.setStall
  with_reducible repeat' first
    | assumption | exact Or.inl rfl | exact Or.inr (by assumption) | apply OnlyMk.intro | simp only [onlyMk] | dsimp only
    | split | intro

theorem Only.passOn (s : State) (n : Nat) (f : Flight) (hk : Only fr s0 s) (m_pipes : Part.pipes ∈ fr)
    : Only fr s0 (passOn s n f) := by
  unfold Sys2Proof.Machine.passOn
  with_reducible repeat' first
    | assumption | exact Or.inl rfl | exact Or.inr (by assumption) | apply OnlyMk.intro | simp only [onlyMk] | dsimp only
    | split | intro

theorem Only.mktErr (s : State) (bit : Nat) (hk : Only fr s0 s) (m_regs : Part.regs ∈ fr) (m_owed : Part.owed ∈ fr)
    (m_crier : Part.crier ∈ fr) (m_flt : Part.flt ∈ fr) : Only fr s0 (mktErr s bit) := by
  unfold Sys2Proof.Machine.mktErr
  with_reducible repeat' first
    | assumption | apply Only.raise | apply Only.setBit | exact Or.inl rfl | exact Or.inr (by assumption)
    | apply OnlyMk.intro | simp only [onlyMk] | dsimp only | split | intro

theorem Only.execCarveWrite (value : Word) (s : State) (hk : Only fr s0 s) (m_regs : Part.regs ∈ fr)
    (m_owed : Part.owed ∈ fr) (m_top : Part.top ∈ fr) (m_crier : Part.crier ∈ fr) (m_flt : Part.flt ∈ fr)
    : OnlyO fr s0 (execCarveWrite value s) := by
  unfold Sys2Proof.Machine.execCarveWrite
  with_reducible repeat' first
    | assumption | apply Only.holdWrite | apply Only.whenB | apply Only.mktErr | apply Only.setReg | apply Only.forEach
    | apply Only.setF | apply OnlyO.next | exact Or.inl rfl | exact Or.inr (by assumption) | apply OnlyMk.intro
    | simp only [onlyMk] | dsimp only | split | intro

theorem Only.execReserveWrite (hdrm : Bool) (value : Word) (s : State) (hk : Only fr s0 s) (m_regs : Part.regs ∈ fr)
    (m_owed : Part.owed ∈ fr) (m_top : Part.top ∈ fr) (m_crier : Part.crier ∈ fr) (m_flt : Part.flt ∈ fr)
    : OnlyO fr s0 (execReserveWrite hdrm value s) := by
  unfold Sys2Proof.Machine.execReserveWrite
  with_reducible repeat' first
    | assumption | apply Only.holdWrite | apply Only.mktErr | apply Only.setF | apply OnlyO.next | exact Or.inl rfl
    | exact Or.inr (by assumption) | apply OnlyMk.intro | simp only [onlyMk] | dsimp only | split | intro

theorem Only.markEgress (s : State) (id reason : Nat) (hk : Only fr s0 s) (m_pipes : Part.pipes ∈ fr)
    : Only fr s0 (markEgress s id reason) := by
  unfold Sys2Proof.Machine.markEgress
  with_reducible repeat' first
    | assumption | exact Or.inl rfl | exact Or.inr (by assumption) | apply OnlyMk.intro | simp only [onlyMk] | dsimp only
    | split | intro

theorem Only.dropEntries (s : State) (q id reason : Nat) (hk : Only fr s0 s) (m_regs : Part.regs ∈ fr)
    (m_freeCtr : Part.freeCtr ∈ fr) (m_journal : Part.journal ∈ fr) (m_owed : Part.owed ∈ fr) (m_lastRaise : Part.lastRaise ∈ fr)
    (m_market : Part.market ∈ fr) (m_spill : Part.spill ∈ fr) (m_sched : Part.sched ∈ fr) (m_telem : Part.telem ∈ fr)
    (m_crier : Part.crier ∈ fr) (m_flt : Part.flt ∈ fr) (m_activity : Part.activity ∈ fr)
    : Only fr s0 (dropEntries s q id reason) := by
  unfold Sys2Proof.Machine.dropEntries
  with_reducible repeat' first
    | assumption | apply Only.setQueue | apply Only.forEach | apply Only.dropQueued | exact Or.inl rfl
    | exact Or.inr (by assumption) | apply OnlyMk.intro | simp only [onlyMk] | dsimp only | split | intro

theorem Only.loseFrame (s : State) (id reason : Nat) (hk : Only fr s0 s) (m_regs : Part.regs ∈ fr)
    (m_freeCtr : Part.freeCtr ∈ fr) (m_journal : Part.journal ∈ fr) (m_owed : Part.owed ∈ fr) (m_lastRaise : Part.lastRaise ∈ fr)
    (m_pipes : Part.pipes ∈ fr) (m_market : Part.market ∈ fr) (m_spill : Part.spill ∈ fr) (m_sched : Part.sched ∈ fr)
    (m_telem : Part.telem ∈ fr) (m_crier : Part.crier ∈ fr) (m_flt : Part.flt ∈ fr) (m_activity : Part.activity ∈ fr)
    : Only fr s0 (loseFrame s id reason) := by
  unfold Sys2Proof.Machine.loseFrame
  with_reducible repeat' first
    | assumption | apply Only.markEgress | apply Only.forEach | apply Only.dropEntries | exact Or.inl rfl
    | exact Or.inr (by assumption) | apply OnlyMk.intro | simp only [onlyMk] | dsimp only | split | intro

theorem Only.retireBank (s : State) (b : Nat) (hk : Only fr s0 s) (m_regs : Part.regs ∈ fr) (m_freeCtr : Part.freeCtr ∈ fr)
    (m_journal : Part.journal ∈ fr) (m_owed : Part.owed ∈ fr) (m_lastRaise : Part.lastRaise ∈ fr) (m_pipes : Part.pipes ∈ fr)
    (m_market : Part.market ∈ fr) (m_spill : Part.spill ∈ fr) (m_sched : Part.sched ∈ fr) (m_telem : Part.telem ∈ fr)
    (m_crier : Part.crier ∈ fr) (m_flt : Part.flt ∈ fr) (m_activity : Part.activity ∈ fr) : Only fr s0 (retireBank s b) := by
  unfold Sys2Proof.Machine.retireBank
  with_reducible repeat' first
    | assumption | apply Only.setF | apply Only.setBit | apply Only.forEach | apply Only.raise | apply Only.loseFrame
    | exact Or.inl rfl | exact Or.inr (by assumption) | apply OnlyMk.intro | simp only [onlyMk] | dsimp only | split | intro

theorem Only.execBankRetire (bank : Nat) (value : Word) (s : State) (hk : Only fr s0 s) (m_regs : Part.regs ∈ fr)
    (m_freeCtr : Part.freeCtr ∈ fr) (m_journal : Part.journal ∈ fr) (m_owed : Part.owed ∈ fr) (m_lastRaise : Part.lastRaise ∈ fr)
    (m_top : Part.top ∈ fr) (m_pipes : Part.pipes ∈ fr) (m_market : Part.market ∈ fr) (m_spill : Part.spill ∈ fr)
    (m_sched : Part.sched ∈ fr) (m_telem : Part.telem ∈ fr) (m_crier : Part.crier ∈ fr) (m_flt : Part.flt ∈ fr)
    (m_activity : Part.activity ∈ fr) : OnlyO fr s0 (execBankRetire bank value s) := by
  unfold Sys2Proof.Machine.execBankRetire
  with_reducible repeat' first
    | assumption | apply Only.holdWrite | apply Only.retireBank | apply OnlyO.next | exact Or.inl rfl
    | exact Or.inr (by assumption) | apply OnlyMk.intro | simp only [onlyMk] | dsimp only | split | intro

theorem Only.marketError (s : State) (c : Copy) (unit part : Nat) (hk : Only fr s0 s) (m_regs : Part.regs ∈ fr)
    (m_freeCtr : Part.freeCtr ∈ fr) (m_journal : Part.journal ∈ fr) (m_owed : Part.owed ∈ fr) (m_lastRaise : Part.lastRaise ∈ fr)
    (m_pipes : Part.pipes ∈ fr) (m_market : Part.market ∈ fr) (m_spill : Part.spill ∈ fr) (m_sched : Part.sched ∈ fr)
    (m_telem : Part.telem ∈ fr) (m_crier : Part.crier ∈ fr) (m_flt : Part.flt ∈ fr) (m_activity : Part.activity ∈ fr)
    : Only fr s0 (marketError s c unit part) := by
  unfold Sys2Proof.Machine.marketError
  with_reducible repeat' first
    | assumption | apply Only.add64 | apply Only.satF | apply Only.drawn | apply Only.fault | apply Only.retireBank
    | exact Or.inl rfl | exact Or.inr (by assumption) | apply OnlyMk.intro | simp only [onlyMk] | dsimp only | split | intro

theorem Only.marketRead (s : State) (c : Copy) (err : Option DataErr) (hk : Only fr s0 s) (m_regs : Part.regs ∈ fr)
    (m_freeCtr : Part.freeCtr ∈ fr) (m_journal : Part.journal ∈ fr) (m_owed : Part.owed ∈ fr) (m_lastRaise : Part.lastRaise ∈ fr)
    (m_pipes : Part.pipes ∈ fr) (m_market : Part.market ∈ fr) (m_spill : Part.spill ∈ fr) (m_sched : Part.sched ∈ fr)
    (m_telem : Part.telem ∈ fr) (m_crier : Part.crier ∈ fr) (m_flt : Part.flt ∈ fr) (m_activity : Part.activity ∈ fr)
    : Only fr s0 (marketRead s c err).1 := by
  unfold Sys2Proof.Machine.marketRead
  with_reducible repeat' first
    | assumption | apply Only.satF | apply Only.marketError | exact Or.inl rfl | exact Or.inr (by assumption)
    | apply OnlyMk.intro | simp only [onlyMk] | dsimp only | split | intro

theorem Only.execAuditSweep (s : State) (hk : Only fr s0 s) (m_regs : Part.regs ∈ fr) (m_market : Part.market ∈ fr)
    : OnlyO fr s0 (execAuditSweep s) := by
  unfold Sys2Proof.Machine.execAuditSweep
  with_reducible repeat' first
    | assumption | apply Only.setBit | apply OnlyO.next | exact Or.inl rfl | exact Or.inr (by assumption)
    | apply OnlyMk.intro | simp only [onlyMk] | dsimp only | split | intro

theorem Only.reportLeak (s : State) (ua : Nat) (hk : Only fr s0 s) (m_regs : Part.regs ∈ fr) (m_journal : Part.journal ∈ fr)
    (m_owed : Part.owed ∈ fr) (m_market : Part.market ∈ fr) (m_crier : Part.crier ∈ fr) (m_flt : Part.flt ∈ fr)
    (m_activity : Part.activity ∈ fr) : Only fr s0 (reportLeak s ua) := by
  unfold Sys2Proof.Machine.reportLeak
  with_reducible repeat' first
    | assumption | apply Only.setReg64 | apply Only.fault | apply Only.add64 | apply Only.freeUnit | exact Or.inl rfl
    | exact Or.inr (by assumption) | apply OnlyMk.intro | simp only [onlyMk] | dsimp only | split | intro

theorem Only.execAuditSweepEnd (s : State) (hk : Only fr s0 s) (m_regs : Part.regs ∈ fr) (m_journal : Part.journal ∈ fr)
    (m_owed : Part.owed ∈ fr) (m_market : Part.market ∈ fr) (m_crier : Part.crier ∈ fr) (m_flt : Part.flt ∈ fr)
    (m_activity : Part.activity ∈ fr) : OnlyO fr s0 (execAuditSweepEnd s) := by
  unfold Sys2Proof.Machine.execAuditSweepEnd
  with_reducible repeat' first
    | assumption | apply Only.forEach | apply Only.reportLeak | apply Only.setReg | apply OnlyO.next | exact Or.inl rfl
    | exact Or.inr (by assumption) | apply OnlyMk.intro | simp only [onlyMk] | dsimp only | split | intro

theorem Only.clearBuf (s : State) (ua n : Nat) (hk : Only fr s0 s) (m_hif : Part.hif ∈ fr)
    : Only fr s0 (clearBuf s ua n) := by
  unfold Sys2Proof.Machine.clearBuf
  with_reducible repeat' first
    | assumption | exact Or.inl rfl | exact Or.inr (by assumption) | apply OnlyMk.intro | simp only [onlyMk] | dsimp only
    | split | intro

theorem Only.doBufAlloc (c : HostCmd) (s : State) (hk : Only fr s0 s) (m_regs : Part.regs ∈ fr)
    (m_freeCtr : Part.freeCtr ∈ fr) (m_owed : Part.owed ∈ fr) (m_hif : Part.hif ∈ fr) (m_market : Part.market ∈ fr)
    (m_crier : Part.crier ∈ fr) (m_flt : Part.flt ∈ fr) (m_activity : Part.activity ∈ fr) : Only fr s0 (doBufAlloc c s) := by
  unfold Sys2Proof.Machine.doBufAlloc
  with_reducible repeat' first
    | assumption | apply Only.complete | apply Only.requestUnit | apply Only.setReg64 | apply Only.clearBuf
    | apply Only.addHostUsed | apply Only.drawn | exact Or.inl rfl | exact Or.inr (by assumption) | apply OnlyMk.intro
    | simp only [onlyMk] | dsimp only | split | intro

theorem Only.execBufAlloc (cmd : HostCmd) (s : State) (hk : Only fr s0 s) (m_regs : Part.regs ∈ fr)
    (m_freeCtr : Part.freeCtr ∈ fr) (m_owed : Part.owed ∈ fr) (m_hif : Part.hif ∈ fr) (m_market : Part.market ∈ fr)
    (m_crier : Part.crier ∈ fr) (m_flt : Part.flt ∈ fr) (m_activity : Part.activity ∈ fr)
    : OnlyO fr s0 (execBufAlloc cmd s) := by
  unfold Sys2Proof.Machine.execBufAlloc
  with_reducible repeat' first
    | assumption | apply Only.runCmd | apply Only.doBufAlloc | apply OnlyO.next | exact Or.inl rfl
    | exact Or.inr (by assumption) | apply OnlyMk.intro | simp only [onlyMk] | dsimp only | split | intro

theorem Only.checkHandle (s : State) (ua : Nat) (hk : Only fr s0 s) (m_regs : Part.regs ∈ fr) (m_journal : Part.journal ∈ fr)
    (m_owed : Part.owed ∈ fr) (m_crier : Part.crier ∈ fr) (m_flt : Part.flt ∈ fr) : Only fr s0 (checkHandle s ua).1 := by
  unfold Sys2Proof.Machine.checkHandle
  with_reducible repeat' first
    | assumption | apply Only.freeRefused | exact Or.inl rfl | exact Or.inr (by assumption) | apply OnlyMk.intro
    | simp only [onlyMk] | dsimp only | split | intro

theorem Only.unmapBuf (s : State) (ua : Nat) (hk : Only fr s0 s) (m_regs : Part.regs ∈ fr) (m_hif : Part.hif ∈ fr)
    (m_market : Part.market ∈ fr) : Only fr s0 (unmapBuf s ua) := by
  unfold Sys2Proof.Machine.unmapBuf
  with_reducible repeat' first
    | assumption | apply Only.addHostUsed | exact Or.inl rfl | exact Or.inr (by assumption) | apply OnlyMk.intro
    | simp only [onlyMk] | dsimp only | split | intro

theorem Only.doBufFree (c : HostCmd) (s : State) (hk : Only fr s0 s) (m_regs : Part.regs ∈ fr)
    (m_journal : Part.journal ∈ fr) (m_owed : Part.owed ∈ fr) (m_hif : Part.hif ∈ fr) (m_market : Part.market ∈ fr)
    (m_crier : Part.crier ∈ fr) (m_flt : Part.flt ∈ fr) (m_activity : Part.activity ∈ fr) : Only fr s0 (doBufFree c s) := by
  unfold Sys2Proof.Machine.doBufFree
  with_reducible repeat' first
    | assumption | apply Only.checkHandle | apply Only.complete | apply Only.freeUnit | apply Only.unmapBuf
    | exact Or.inl rfl | exact Or.inr (by assumption) | apply OnlyMk.intro | simp only [onlyMk] | dsimp only | split | intro

theorem Only.execBufFree (cmd : HostCmd) (s : State) (hk : Only fr s0 s) (m_regs : Part.regs ∈ fr)
    (m_journal : Part.journal ∈ fr) (m_owed : Part.owed ∈ fr) (m_hif : Part.hif ∈ fr) (m_market : Part.market ∈ fr)
    (m_crier : Part.crier ∈ fr) (m_flt : Part.flt ∈ fr) (m_activity : Part.activity ∈ fr) : OnlyO fr s0 (execBufFree cmd s) := by
  unfold Sys2Proof.Machine.execBufFree
  with_reducible repeat' first
    | assumption | apply Only.runCmd | apply Only.doBufFree | apply OnlyO.next | exact Or.inl rfl
    | exact Or.inr (by assumption) | apply OnlyMk.intro | simp only [onlyMk] | dsimp only | split | intro

theorem Only.takeId (s : State) (hk : Only fr s0 s) (m_pipes : Part.pipes ∈ fr) : Only fr s0 (takeId s) := by
  unfold Sys2Proof.Machine.takeId
  with_reducible repeat' first
    | assumption | exact Or.inl rfl | exact Or.inr (by assumption) | apply OnlyMk.intro | simp only [onlyMk] | dsimp only
    | split | intro

theorem Only.sendIngress (c : HostCmd) (s : State) (hk : Only fr s0 s) (m_hif : Part.hif ∈ fr) (m_pipes : Part.pipes ∈ fr)
    : Only fr s0 (sendIngress c s) := by
  unfold Sys2Proof.Machine.sendIngress
  with_reducible repeat' first
    | assumption | apply Only.setPhase | apply Only.takeId | exact Or.inl rfl | exact Or.inr (by assumption)
    | apply OnlyMk.intro | simp only [onlyMk] | dsimp only | split | intro

theorem Only.admitUnit (s : State) (p : Packet) (c : Copy) (ua : Nat) (hk : Only fr s0 s) (m_regs : Part.regs ∈ fr)
    (m_freeCtr : Part.freeCtr ∈ fr) (m_owed : Part.owed ∈ fr) (m_lastRaise : Part.lastRaise ∈ fr) (m_hif : Part.hif ∈ fr)
    (m_market : Part.market ∈ fr) (m_spill : Part.spill ∈ fr) (m_sched : Part.sched ∈ fr) (m_telem : Part.telem ∈ fr)
    (m_crier : Part.crier ∈ fr) (m_flt : Part.flt ∈ fr) (m_activity : Part.activity ∈ fr) : Only fr s0 (admitUnit s p c ua) := by
  unfold Sys2Proof.Machine.admitUnit
  with_reducible repeat' first
    | assumption | apply Only.notePitch | apply Only.freeUnit | apply Only.dropPacket | apply Only.unmapBuf
    | apply Only.ecnApply | apply Only.spillStep | apply Only.ecnCount | apply Only.enqueueCopies | exact Or.inl rfl
    | exact Or.inr (by assumption) | apply OnlyMk.intro | simp only [onlyMk] | dsimp only | split | intro

theorem Only.sendEgress (c : HostCmd) (s : State) (hk : Only fr s0 s) (m_regs : Part.regs ∈ fr)
    (m_freeCtr : Part.freeCtr ∈ fr) (m_owed : Part.owed ∈ fr) (m_lastRaise : Part.lastRaise ∈ fr) (m_hif : Part.hif ∈ fr)
    (m_pipes : Part.pipes ∈ fr) (m_market : Part.market ∈ fr) (m_spill : Part.spill ∈ fr) (m_sched : Part.sched ∈ fr)
    (m_telem : Part.telem ∈ fr) (m_crier : Part.crier ∈ fr) (m_flt : Part.flt ∈ fr) (m_activity : Part.activity ∈ fr)
    : Only fr s0 (sendEgress c s) := by
  unfold Sys2Proof.Machine.sendEgress
  with_reducible repeat' first
    | assumption | apply Only.takeId | apply Only.admitUnit | apply Only.freeUnit | apply Only.dropPacket
    | apply Only.unmapBuf | apply Only.complete | exact Or.inl rfl | exact Or.inr (by assumption) | apply OnlyMk.intro
    | simp only [onlyMk] | dsimp only | split | intro

theorem Only.doBufSend (c : HostCmd) (s : State) (hk : Only fr s0 s) (m_regs : Part.regs ∈ fr)
    (m_freeCtr : Part.freeCtr ∈ fr) (m_journal : Part.journal ∈ fr) (m_owed : Part.owed ∈ fr) (m_lastRaise : Part.lastRaise ∈ fr)
    (m_hif : Part.hif ∈ fr) (m_pipes : Part.pipes ∈ fr) (m_market : Part.market ∈ fr) (m_spill : Part.spill ∈ fr)
    (m_sched : Part.sched ∈ fr) (m_telem : Part.telem ∈ fr) (m_crier : Part.crier ∈ fr) (m_flt : Part.flt ∈ fr)
    (m_activity : Part.activity ∈ fr) : Only fr s0 (doBufSend c s) := by
  unfold Sys2Proof.Machine.doBufSend
  with_reducible repeat' first
    | assumption | apply Only.checkHandle | apply Only.complete | apply Only.sendEgress | apply Only.sendIngress
    | exact Or.inl rfl | exact Or.inr (by assumption) | apply OnlyMk.intro | simp only [onlyMk] | dsimp only | split | intro

theorem Only.execBufSendIngress (cmd : HostCmd) (s : State) (hk : Only fr s0 s) (m_regs : Part.regs ∈ fr)
    (m_freeCtr : Part.freeCtr ∈ fr) (m_journal : Part.journal ∈ fr) (m_owed : Part.owed ∈ fr) (m_lastRaise : Part.lastRaise ∈ fr)
    (m_hif : Part.hif ∈ fr) (m_pipes : Part.pipes ∈ fr) (m_market : Part.market ∈ fr) (m_spill : Part.spill ∈ fr)
    (m_sched : Part.sched ∈ fr) (m_telem : Part.telem ∈ fr) (m_crier : Part.crier ∈ fr) (m_flt : Part.flt ∈ fr)
    (m_activity : Part.activity ∈ fr) : OnlyO fr s0 (execBufSendIngress cmd s) := by
  unfold Sys2Proof.Machine.execBufSendIngress
  with_reducible repeat' first
    | assumption | apply Only.runCmd | apply Only.doBufSend | apply OnlyO.next | exact Or.inl rfl
    | exact Or.inr (by assumption) | apply OnlyMk.intro | simp only [onlyMk] | dsimp only | split | intro

theorem Only.execBufSendEgress (cmd : HostCmd) (s : State) (hk : Only fr s0 s) (m_regs : Part.regs ∈ fr)
    (m_freeCtr : Part.freeCtr ∈ fr) (m_journal : Part.journal ∈ fr) (m_owed : Part.owed ∈ fr) (m_lastRaise : Part.lastRaise ∈ fr)
    (m_hif : Part.hif ∈ fr) (m_pipes : Part.pipes ∈ fr) (m_market : Part.market ∈ fr) (m_spill : Part.spill ∈ fr)
    (m_sched : Part.sched ∈ fr) (m_telem : Part.telem ∈ fr) (m_crier : Part.crier ∈ fr) (m_flt : Part.flt ∈ fr)
    (m_activity : Part.activity ∈ fr) : OnlyO fr s0 (execBufSendEgress cmd s) := by
  unfold Sys2Proof.Machine.execBufSendEgress
  with_reducible repeat' first
    | assumption | apply Only.runCmd | apply Only.doBufSend | apply OnlyO.next | exact Or.inl rfl
    | exact Or.inr (by assumption) | apply OnlyMk.intro | simp only [onlyMk] | dsimp only | split | intro

theorem Only.schErr (s : State) (g bit : Nat) (hk : Only fr s0 s) (m_regs : Part.regs ∈ fr) (m_owed : Part.owed ∈ fr)
    (m_crier : Part.crier ∈ fr) (m_flt : Part.flt ∈ fr) : Only fr s0 (schErr s g bit) := by
  unfold Sys2Proof.Machine.schErr
  with_reducible repeat' first
    | assumption | apply Only.raise | apply Only.setBit | exact Or.inl rfl | exact Or.inr (by assumption)
    | apply OnlyMk.intro | simp only [onlyMk] | dsimp only | split | intro

theorem Only.execPortQWrite (lane : Nat) (value : Word) (s : State) (hk : Only fr s0 s) (m_regs : Part.regs ∈ fr)
    (m_owed : Part.owed ∈ fr) (m_top : Part.top ∈ fr) (m_crier : Part.crier ∈ fr) (m_flt : Part.flt ∈ fr)
    : OnlyO fr s0 (execPortQWrite lane value s) := by
  unfold Sys2Proof.Machine.execPortQWrite
  with_reducible repeat' first
    | assumption | apply Only.holdWrite | apply Only.whenB | apply Only.schErr | apply Only.setReg | apply OnlyO.next
    | exact Or.inl rfl | exact Or.inr (by assumption) | apply OnlyMk.intro | simp only [onlyMk] | dsimp only | split | intro

theorem Only.setPort (s : State) (l : Nat) (x : PortSt) (hk : Only fr s0 s) (m_ports : Part.ports ∈ fr)
    : Only fr s0 (setPort s l x) := by
  unfold Sys2Proof.Machine.setPort
  with_reducible repeat' first
    | assumption | exact Or.inl rfl | exact Or.inr (by assumption) | apply OnlyMk.intro | simp only [onlyMk] | dsimp only
    | split | intro

theorem Only.dropExpired (fuel : Nat) (s : State) (l q : Nat) (hk : Only fr s0 s)
    (m_regs : Part.regs ∈ fr) (m_freeCtr : Part.freeCtr ∈ fr) (m_journal : Part.journal ∈ fr) (m_owed : Part.owed ∈ fr)
    (m_lastRaise : Part.lastRaise ∈ fr) (m_market : Part.market ∈ fr) (m_spill : Part.spill ∈ fr) (m_sched : Part.sched ∈ fr)
    (m_telem : Part.telem ∈ fr) (m_crier : Part.crier ∈ fr) (m_flt : Part.flt ∈ fr) (m_activity : Part.activity ∈ fr) :
    Only fr s0 (dropExpired fuel s l q) := by
  induction fuel generalizing s with
  | zero => exact hk
  | succ f ih =>
    unfold Sys2Proof.Machine.dropExpired
    with_reducible repeat' first
      | assumption | apply ih | apply Only.raiseLimited | apply Only.setBit | apply Only.add64 | apply Only.dropQueued | apply Only.setQueue | dsimp only | split | intro

theorem Only.expireGroup (s : State) (g : Nat) (hk : Only fr s0 s) (m_regs : Part.regs ∈ fr) (m_freeCtr : Part.freeCtr ∈ fr)
    (m_journal : Part.journal ∈ fr) (m_owed : Part.owed ∈ fr) (m_lastRaise : Part.lastRaise ∈ fr) (m_market : Part.market ∈ fr)
    (m_spill : Part.spill ∈ fr) (m_sched : Part.sched ∈ fr) (m_telem : Part.telem ∈ fr) (m_crier : Part.crier ∈ fr)
    (m_flt : Part.flt ∈ fr) (m_activity : Part.activity ∈ fr) : Only fr s0 (expireGroup s g) := by
  unfold Sys2Proof.Machine.expireGroup
  with_reducible repeat' first
    | assumption | apply Only.forEach | apply Only.dropExpired | exact Or.inl rfl | exact Or.inr (by assumption)
    | apply OnlyMk.intro | simp only [onlyMk] | dsimp only | split | intro

theorem Only.chargeBuckets (s : State) (l q : Nat) (len : Int) (hk : Only fr s0 s) (m_sched : Part.sched ∈ fr)
    : Only fr s0 (chargeBuckets s l q len) := by
  unfold Sys2Proof.Machine.chargeBuckets
  with_reducible repeat' first
    | assumption | exact Or.inl rfl | exact Or.inr (by assumption) | apply OnlyMk.intro | simp only [onlyMk] | dsimp only
    | split | intro

theorem Only.dropDequeued (s : State) (c : Copy) (reason : Nat) (hk : Only fr s0 s) (m_regs : Part.regs ∈ fr)
    (m_freeCtr : Part.freeCtr ∈ fr) (m_journal : Part.journal ∈ fr) (m_owed : Part.owed ∈ fr) (m_lastRaise : Part.lastRaise ∈ fr)
    (m_market : Part.market ∈ fr) (m_spill : Part.spill ∈ fr) (m_sched : Part.sched ∈ fr) (m_telem : Part.telem ∈ fr)
    (m_crier : Part.crier ∈ fr) (m_flt : Part.flt ∈ fr) (m_activity : Part.activity ∈ fr)
    : Only fr s0 (dropDequeued s c reason) := by
  unfold Sys2Proof.Machine.dropDequeued
  with_reducible repeat' first
    | assumption | apply Only.dropQueued | exact Or.inl rfl | exact Or.inr (by assumption) | apply OnlyMk.intro
    | simp only [onlyMk] | dsimp only | split | intro

theorem Only.dequeueSched (s : State) (g l q pass : Nat) (deficits : Store Int) (c : Copy) (hk : Only fr s0 s)
    (m_owed : Part.owed ∈ fr) (m_sched : Part.sched ∈ fr) : Only fr s0 (dequeueSched s g l q pass deficits c) := by
  unfold Sys2Proof.Machine.dequeueSched
  with_reducible repeat' first
    | assumption | exact Or.inl rfl | exact Or.inr (by assumption) | apply OnlyMk.intro | simp only [onlyMk] | dsimp only
    | split | intro

theorem Only.dequeueHead
    (s : State) (g l q pass : Nat) (deficits : Store Int) (c : Copy) (rest : List Copy) (err : Option DataErr)
    (hk : Only fr s0 s) (m_regs : Part.regs ∈ fr) (m_freeCtr : Part.freeCtr ∈ fr) (m_journal : Part.journal ∈ fr)
    (m_owed : Part.owed ∈ fr) (m_lastRaise : Part.lastRaise ∈ fr) (m_pipes : Part.pipes ∈ fr) (m_market : Part.market ∈ fr)
    (m_spill : Part.spill ∈ fr) (m_sched : Part.sched ∈ fr) (m_telem : Part.telem ∈ fr) (m_crier : Part.crier ∈ fr)
    (m_flt : Part.flt ∈ fr) (m_activity : Part.activity ∈ fr) : Only fr s0 (dequeueHead s g l q pass deficits c rest err) := by
  unfold Sys2Proof.Machine.dequeueHead
  with_reducible repeat' first
    | assumption | apply Only.chargeBuckets | apply Only.setQueue | apply Only.dequeueSched | apply Only.marketRead
    | apply Only.noteShare | apply Only.pmcEvent | apply Only.dropDequeued | apply Only.passOn | exact Or.inl rfl
    | exact Or.inr (by assumption) | apply OnlyMk.intro | simp only [onlyMk] | dsimp only | split | intro

theorem Only.execDequeueDecision (g : Nat) (err : Option DataErr) (s : State) (hk : Only fr s0 s) (m_regs : Part.regs ∈ fr)
    (m_freeCtr : Part.freeCtr ∈ fr) (m_journal : Part.journal ∈ fr) (m_owed : Part.owed ∈ fr) (m_lastRaise : Part.lastRaise ∈ fr)
    (m_pipes : Part.pipes ∈ fr) (m_market : Part.market ∈ fr) (m_spill : Part.spill ∈ fr) (m_sched : Part.sched ∈ fr)
    (m_telem : Part.telem ∈ fr) (m_crier : Part.crier ∈ fr) (m_flt : Part.flt ∈ fr) (m_activity : Part.activity ∈ fr)
    : OnlyO fr s0 (execDequeueDecision g err s) := by
  unfold Sys2Proof.Machine.execDequeueDecision
  with_reducible repeat' first
    | assumption | apply Only.expireGroup | apply Only.dequeueHead | apply OnlyO.next | exact Or.inl rfl
    | exact Or.inr (by assumption) | apply OnlyMk.intro | simp only [onlyMk] | dsimp only | split | intro

theorem Only.execRefillBoundary (s : State) (hk : Only fr s0 s) (m_regs : Part.regs ∈ fr) (m_pipes : Part.pipes ∈ fr)
    (m_sched : Part.sched ∈ fr) : OnlyO fr s0 (execRefillBoundary s) := by
  unfold Sys2Proof.Machine.execRefillBoundary
  with_reducible repeat' first
    | assumption | apply Only.forEach | apply Only.setBit | apply Only.foldl | apply Only.foldl1 | apply OnlyO.next
    | exact Or.inl rfl | exact Or.inr (by assumption) | apply OnlyMk.intro | simp only [onlyMk] | dsimp only | split | intro

theorem Only.setPause (s : State) (l n until_ : Nat) (hk : Only fr s0 s) (m_sched : Part.sched ∈ fr)
    : Only fr s0 (setPause s l n until_) := by
  unfold Sys2Proof.Machine.setPause
  with_reducible repeat' first
    | assumption | exact Or.inl rfl | exact Or.inr (by assumption) | apply OnlyMk.intro | simp only [onlyMk] | dsimp only
    | split | intro

theorem Only.execPfcFrameReceived (port : Nat) (enable : BitVec 8) (times : List Nat) (isPause : Bool) (s : State)
    (hk : Only fr s0 s) (m_regs : Part.regs ∈ fr) (m_sched : Part.sched ∈ fr)
    : OnlyO fr s0 (execPfcFrameReceived port enable times isPause s) := by
  unfold Sys2Proof.Machine.execPfcFrameReceived
  with_reducible repeat' first
    | assumption | apply Only.add64 | apply Only.forEach | apply Only.setPause | apply OnlyO.next | exact Or.inl rfl
    | exact Or.inr (by assumption) | apply OnlyMk.intro | simp only [onlyMk] | dsimp only | split | intro

theorem Only.execPfcPauseExpiry (port prio : Nat) (s : State) (hk : Only fr s0 s) (m_sched : Part.sched ∈ fr)
    : OnlyO fr s0 (execPfcPauseExpiry port prio s) := by
  unfold Sys2Proof.Machine.execPfcPauseExpiry
  with_reducible repeat' first
    | assumption | apply Only.setPause | apply OnlyO.next | exact Or.inl rfl | exact Or.inr (by assumption)
    | apply OnlyMk.intro | simp only [onlyMk] | dsimp only | split | intro

theorem Only.sendPfc (s : State) (l mask : Nat) (hk : Only fr s0 s) (m_regs : Part.regs ∈ fr) (m_out : Part.out ∈ fr)
    : Only fr s0 (sendPfc s l mask) := by
  unfold Sys2Proof.Machine.sendPfc
  with_reducible repeat' first
    | assumption | apply Only.emit | apply Only.add64 | exact Or.inl rfl | exact Or.inr (by assumption) | apply OnlyMk.intro
    | simp only [onlyMk] | dsimp only | split | intro

theorem Only.execPfcFrameSend (port : Nat) (s : State) (hk : Only fr s0 s) (m_regs : Part.regs ∈ fr)
    (m_sched : Part.sched ∈ fr) (m_out : Part.out ∈ fr) : OnlyO fr s0 (execPfcFrameSend port s) := by
  unfold Sys2Proof.Machine.execPfcFrameSend
  with_reducible repeat' first
    | assumption | apply Only.sendPfc | apply OnlyO.next | exact Or.inl rfl | exact Or.inr (by assumption)
    | apply OnlyMk.intro | simp only [onlyMk] | dsimp only | split | intro

theorem Only.execPfcRefresh (port prio : Nat) (s : State) (hk : Only fr s0 s) (m_regs : Part.regs ∈ fr)
    (m_out : Part.out ∈ fr) : OnlyO fr s0 (execPfcRefresh port prio s) := by
  unfold Sys2Proof.Machine.execPfcRefresh
  with_reducible repeat' first
    | assumption | apply Only.sendPfc | apply OnlyO.next | exact Or.inl rfl | exact Or.inr (by assumption)
    | apply OnlyMk.intro | simp only [onlyMk] | dsimp only | split | intro

theorem Only.clearPauses (s : State) (l : Nat) (hk : Only fr s0 s) (m_sched : Part.sched ∈ fr)
    : Only fr s0 (clearPauses s l) := by
  unfold Sys2Proof.Machine.clearPauses
  with_reducible repeat' first
    | assumption | apply Only.forEach | apply Only.setPause | exact Or.inl rfl | exact Or.inr (by assumption)
    | apply OnlyMk.intro | simp only [onlyMk] | dsimp only | split | intro

theorem Only.selectHbm (s : State) (q : Nat) (hk : Only fr s0 s) (m_spill : Part.spill ∈ fr)
    : Only fr s0 (selectHbm s q) := by
  unfold Sys2Proof.Machine.selectHbm
  with_reducible repeat' first
    | assumption | apply Only.setSpq | exact Or.inl rfl | exact Or.inr (by assumption) | apply OnlyMk.intro
    | simp only [onlyMk] | dsimp only | split | intro

theorem Only.execPfcWatchdogTrip (port prio : Nat) (s : State) (hk : Only fr s0 s) (m_regs : Part.regs ∈ fr)
    (m_freeCtr : Part.freeCtr ∈ fr) (m_journal : Part.journal ∈ fr) (m_owed : Part.owed ∈ fr) (m_lastRaise : Part.lastRaise ∈ fr)
    (m_market : Part.market ∈ fr) (m_spill : Part.spill ∈ fr) (m_sched : Part.sched ∈ fr) (m_telem : Part.telem ∈ fr)
    (m_crier : Part.crier ∈ fr) (m_flt : Part.flt ∈ fr) (m_activity : Part.activity ∈ fr)
    : OnlyO fr s0 (execPfcWatchdogTrip port prio s) := by
  unfold Sys2Proof.Machine.execPfcWatchdogTrip
  with_reducible repeat' first
    | assumption | apply Only.setPause | apply Only.forEach | apply Only.dropQueued | apply Only.setQueue | apply Only.whenB
    | apply Only.selectHbm | apply Only.raise | apply Only.add64 | apply OnlyO.next | exact Or.inl rfl
    | exact Or.inr (by assumption) | apply OnlyMk.intro | simp only [onlyMk] | dsimp only | split | intro

theorem Only.execPfcWatchdogHoldEnd (port prio : Nat) (s : State) (hk : Only fr s0 s) (m_regs : Part.regs ∈ fr)
    (m_owed : Part.owed ∈ fr) (m_sched : Part.sched ∈ fr) (m_crier : Part.crier ∈ fr) (m_flt : Part.flt ∈ fr)
    : OnlyO fr s0 (execPfcWatchdogHoldEnd port prio s) := by
  unfold Sys2Proof.Machine.execPfcWatchdogHoldEnd
  with_reducible repeat' first
    | assumption | apply Only.setPause | apply Only.raise | apply OnlyO.next | exact Or.inl rfl
    | exact Or.inr (by assumption) | apply OnlyMk.intro | simp only [onlyMk] | dsimp only | split | intro

theorem Only.execRxFrameDma (n : Nat) (entry : List Byte) (err : Option DataErr) (s : State) (hk : Only fr s0 s)
    (m_regs : Part.regs ∈ fr) (m_freeCtr : Part.freeCtr ∈ fr) (m_journal : Part.journal ∈ fr) (m_owed : Part.owed ∈ fr)
    (m_lastRaise : Part.lastRaise ∈ fr) (m_hif : Part.hif ∈ fr) (m_pipes : Part.pipes ∈ fr) (m_market : Part.market ∈ fr)
    (m_spill : Part.spill ∈ fr) (m_sched : Part.sched ∈ fr) (m_telem : Part.telem ∈ fr) (m_crier : Part.crier ∈ fr)
    (m_flt : Part.flt ∈ fr) (m_activity : Part.activity ∈ fr) (m_out : Part.out ∈ fr)
    : OnlyO fr s0 (execRxFrameDma n entry err s) := by
  unfold Sys2Proof.Machine.execRxFrameDma
  with_reducible repeat' first
    | assumption | apply Only.emit | apply Only.ringStop | apply Only.marketRead | apply Only.setQueue
    | apply Only.dropQueued | apply Only.hostWrite | apply Only.setReg | apply Only.raise | apply Only.releaseCopy
    | apply OnlyO.next | exact Or.inl rfl | exact Or.inr (by assumption) | apply OnlyMk.intro | simp only [onlyMk]
    | dsimp only | split | intro

end Sys2Proof.Laws
end

