-- ==== Sys2Proof/Laws/OnlyPipes.lean ====
section
/-!
SUPPORT. One lemma for each operation of Tables, Clerk, Parse, Arrive, Flags, Operands, Stall, Editor, Tails: it changes no part of the state but those it names (`Only`).
-/
namespace Sys2Proof.Laws

open Sys2Proof.Machine

variable {fr : List Part} {s0 : State}

theorem Only.setEntries (s : State) (t : Nat) (l : List Entry) (hk : Only fr s0 s) (m_regs : Part.regs ∈ fr)
    (m_tables : Part.tables ∈ fr) : Only fr s0 (setEntries s t l) := by
  unfold Sys2Proof.Machine.setEntries
  with_reducible repeat' first
    | assumption | apply Only.setReg | exact Or.inl rfl | exact Or.inr (by assumption) | apply OnlyMk.intro
    | simp only [onlyMk] | dsimp only | split | intro

theorem Only.modEntry (s : State) (t h : Nat) (f : Entry → Entry) (hk : Only fr s0 s) (m_regs : Part.regs ∈ fr)
    (m_tables : Part.tables ∈ fr) : Only fr s0 (modEntry s t h f) := by
  unfold Sys2Proof.Machine.modEntry
  with_reducible repeat' first
    | assumption | apply Only.setEntries | exact Or.inl rfl | exact Or.inr (by assumption) | apply OnlyMk.intro
    | simp only [onlyMk] | dsimp only | split | intro

theorem Only.delEntry (s : State) (t h : Nat) (hk : Only fr s0 s) (m_regs : Part.regs ∈ fr) (m_tables : Part.tables ∈ fr)
    : Only fr s0 (delEntry s t h) := by
  unfold Sys2Proof.Machine.delEntry
  with_reducible repeat' first
    | assumption | apply Only.setEntries | exact Or.inl rfl | exact Or.inr (by assumption) | apply OnlyMk.intro
    | simp only [onlyMk] | dsimp only | split | intro

theorem Only.addEntry (s : State) (t : Nat) (e : Entry) (hk : Only fr s0 s) (m_regs : Part.regs ∈ fr)
    (m_tables : Part.tables ∈ fr) : Only fr s0 (addEntry s t e) := by
  unfold Sys2Proof.Machine.addEntry
  with_reducible repeat' first
    | assumption | apply Only.setEntries | exact Or.inl rfl | exact Or.inr (by assumption) | apply OnlyMk.intro
    | simp only [onlyMk] | dsimp only | split | intro

theorem Only.logChange (s : State) (t : Nat) (e : Entry) (handles : List Nat) (hk : Only fr s0 s) (m_prg : Part.prg ∈ fr)
    : Only fr s0 (logChange s t e handles) := by
  unfold Sys2Proof.Machine.logChange
  with_reducible repeat' first
    | assumption | apply Only.setDom | exact Or.inl rfl | exact Or.inr (by assumption) | apply OnlyMk.intro
    | simp only [onlyMk] | dsimp only | split | intro

theorem Only.clerkCount (s : State) (k : Nat) (hk : Only fr s0 s) (m_regs : Part.regs ∈ fr)
    : Only fr s0 (clerkCount s k) := by
  unfold Sys2Proof.Machine.clerkCount
  with_reducible repeat' first
    | assumption | apply Only.add64 | exact Or.inl rfl | exact Or.inr (by assumption) | apply OnlyMk.intro
    | simp only [onlyMk] | dsimp only | split | intro

theorem Only.learnLoss (s : State) (k : Nat) (hk : Only fr s0 s) (m_regs : Part.regs ∈ fr) (m_owed : Part.owed ∈ fr)
    (m_lastRaise : Part.lastRaise ∈ fr) (m_crier : Part.crier ∈ fr) (m_flt : Part.flt ∈ fr) : Only fr s0 (learnLoss s k) := by
  unfold Sys2Proof.Machine.learnLoss
  with_reducible repeat' first
    | assumption | apply Only.raiseLimited | apply Only.clerkCount | exact Or.inl rfl | exact Or.inr (by assumption)
    | apply OnlyMk.intro | simp only [onlyMk] | dsimp only | split | intro

theorem Only.tblInsertAt (s : State) (c : HostCmd) (t : Nat) (k : TblKey) (hk : Only fr s0 s) (m_regs : Part.regs ∈ fr)
    (m_freeCtr : Part.freeCtr ∈ fr) (m_prg : Part.prg ∈ fr) (m_tables : Part.tables ∈ fr)
    : Only fr s0 (tblInsertAt s c t k).1 := by
  unfold Sys2Proof.Machine.tblInsertAt
  with_reducible repeat' first
    | assumption | apply Only.drawn | apply Only.addEntry | apply Only.logChange | exact Or.inl rfl
    | exact Or.inr (by assumption) | apply OnlyMk.intro | simp only [onlyMk] | dsimp only | split | intro

theorem Only.tblUpdateAt (s : State) (c : HostCmd) (t : Nat) (k : TblKey) (hk : Only fr s0 s) (m_regs : Part.regs ∈ fr)
    (m_freeCtr : Part.freeCtr ∈ fr) (m_prg : Part.prg ∈ fr) (m_tables : Part.tables ∈ fr)
    : Only fr s0 (tblUpdateAt s c t k).1 := by
  unfold Sys2Proof.Machine.tblUpdateAt
  with_reducible repeat' first
    | assumption | apply Only.modEntry | apply Only.drawn | apply Only.logChange | apply Only.addEntry | exact Or.inl rfl
    | exact Or.inr (by assumption) | apply OnlyMk.intro | simp only [onlyMk] | dsimp only | split | intro

theorem Only.tblDeleteAt (s : State) (c : HostCmd) (t : Nat) (k : TblKey) (hk : Only fr s0 s) (m_regs : Part.regs ∈ fr)
    (m_prg : Part.prg ∈ fr) (m_tables : Part.tables ∈ fr) : Only fr s0 (tblDeleteAt s c t k).1 := by
  unfold Sys2Proof.Machine.tblDeleteAt
  with_reducible repeat' first
    | assumption | apply Only.logChange | apply Only.modEntry | apply Only.delEntry | apply Only.foldl | apply Only.foldl1
    | exact Or.inl rfl | exact Or.inr (by assumption) | apply OnlyMk.intro | simp only [onlyMk] | dsimp only | split | intro

theorem Only.fixedUpdate (s : State) (c : HostCmd) (t : Nat) (hk : Only fr s0 s) (m_tables : Part.tables ∈ fr)
    : Only fr s0 (fixedUpdate s c t).1 := by
  unfold Sys2Proof.Machine.fixedUpdate
  with_reducible repeat' first
    | assumption | exact Or.inl rfl | exact Or.inr (by assumption) | apply OnlyMk.intro | simp only [onlyMk] | dsimp only
    | split | intro

theorem Only.tblSearchAt (s : State) (c : HostCmd) (t : Nat) (hk : Only fr s0 s) : Only fr s0 (tblSearchAt s c t).1 := by
  unfold Sys2Proof.Machine.tblSearchAt
  with_reducible repeat' first
    | assumption | exact Or.inl rfl | exact Or.inr (by assumption) | apply OnlyMk.intro | simp only [onlyMk] | dsimp only
    | split | intro

theorem Only.tblReadAt (s : State) (c : HostCmd) (t : Nat) (hk : Only fr s0 s) (m_out : Part.out ∈ fr)
    : Only fr s0 (tblReadAt s c t).1 := by
  unfold Sys2Proof.Machine.tblReadAt
  with_reducible repeat' first
    | assumption | apply Only.dataOut | exact Or.inl rfl | exact Or.inr (by assumption) | apply OnlyMk.intro
    | simp only [onlyMk] | dsimp only | split | intro

theorem Only.tblNextAt (s : State) (c : HostCmd) (t : Nat) (hk : Only fr s0 s) (m_out : Part.out ∈ fr)
    : Only fr s0 (tblNextAt s c t).1 := by
  unfold Sys2Proof.Machine.tblNextAt
  with_reducible repeat' first
    | assumption | apply Only.dataOut | exact Or.inl rfl | exact Or.inr (by assumption) | apply OnlyMk.intro
    | simp only [onlyMk] | dsimp only | split | intro

theorem Only.tblFlushAt (s : State) (c : HostCmd) (hk : Only fr s0 s) (m_regs : Part.regs ∈ fr) (m_tables : Part.tables ∈ fr)
    : Only fr s0 (tblFlushAt s c).1 := by
  unfold Sys2Proof.Machine.tblFlushAt
  with_reducible repeat' first
    | assumption | apply Only.delEntry | apply Only.foldl | apply Only.foldl1 | exact Or.inl rfl
    | exact Or.inr (by assumption) | apply OnlyMk.intro | simp only [onlyMk] | dsimp only | split | intro

theorem Only.tblRun (s : State) (c : HostCmd) (hk : Only fr s0 s) (m_regs : Part.regs ∈ fr) (m_freeCtr : Part.freeCtr ∈ fr)
    (m_prg : Part.prg ∈ fr) (m_tables : Part.tables ∈ fr) (m_out : Part.out ∈ fr) : Only fr s0 (tblRun s c).1 := by
  unfold Sys2Proof.Machine.tblRun
  with_reducible repeat' first
    | assumption | apply Only.tblFlushAt | apply Only.fixedUpdate | apply Only.tblReadAt | apply Only.tblNextAt
    | apply Only.tblSearchAt | apply Only.tblInsertAt | apply Only.tblUpdateAt | apply Only.tblDeleteAt | exact Or.inl rfl
    | exact Or.inr (by assumption) | apply OnlyMk.intro | simp only [onlyMk] | dsimp only | split | intro

theorem Only.clkErr (s : State) (bit : Nat) (hk : Only fr s0 s) (m_regs : Part.regs ∈ fr) (m_owed : Part.owed ∈ fr)
    (m_crier : Part.crier ∈ fr) (m_flt : Part.flt ∈ fr) : Only fr s0 (clkErr s bit) := by
  unfold Sys2Proof.Machine.clkErr
  with_reducible repeat' first
    | assumption | apply Only.raise | apply Only.setBit | exact Or.inl rfl | exact Or.inr (by assumption)
    | apply OnlyMk.intro | simp only [onlyMk] | dsimp only | split | intro

theorem Only.takeEntry (p : PoolPart) (s : State) (t : Nat) (e : Entry) (hk : Only fr s0 s) (m_regs : Part.regs ∈ fr)
    (m_freeCtr : Part.freeCtr ∈ fr) (m_tables : Part.tables ∈ fr) : Only fr s0 (takeEntry p s t e) := by
  unfold Sys2Proof.Machine.takeEntry
  with_reducible repeat' first
    | assumption | apply Only.addEntry | apply Only.drawn | exact Or.inl rfl | exact Or.inr (by assumption)
    | apply OnlyMk.intro | simp only [onlyMk] | dsimp only | split | intro

theorem Only.takePart (s : State) (t : Nat) (p : PoolPart) (hk : Only fr s0 s) (m_regs : Part.regs ∈ fr)
    (m_freeCtr : Part.freeCtr ∈ fr) (m_tables : Part.tables ∈ fr) : Only fr s0 (takePart s t p).1 := by
  unfold Sys2Proof.Machine.takePart
  with_reducible repeat' first
    | assumption | apply Only.forEach | apply Only.takeEntry | exact Or.inl rfl | exact Or.inr (by assumption)
    | apply OnlyMk.intro | simp only [onlyMk] | dsimp only | split | intro

theorem Only.takeOver (s : State) (t : Nat) (hk : Only fr s0 s) (m_regs : Part.regs ∈ fr) (m_freeCtr : Part.freeCtr ∈ fr)
    (m_tables : Part.tables ∈ fr) : Only fr s0 (takeOver s t) := by
  unfold Sys2Proof.Machine.takeOver
  with_reducible repeat' first
    | assumption | apply Only.setEntries | apply Only.forEach | apply Only.takePart | exact Or.inl rfl
    | exact Or.inr (by assumption) | apply OnlyMk.intro | simp only [onlyMk] | dsimp only | split | intro

theorem Only.descApply (s : State) (t word : Nat) (v : Word) (hk : Only fr s0 s) (m_regs : Part.regs ∈ fr)
    (m_freeCtr : Part.freeCtr ∈ fr) (m_owed : Part.owed ∈ fr) (m_tables : Part.tables ∈ fr) (m_crier : Part.crier ∈ fr)
    (m_flt : Part.flt ∈ fr) : Only fr s0 (descApply s t word v) := by
  unfold Sys2Proof.Machine.descApply
  with_reducible repeat' first
    | assumption | apply Only.clkErr | apply Only.setReg | apply Only.takeOver | exact Or.inl rfl
    | exact Or.inr (by assumption) | apply OnlyMk.intro | simp only [onlyMk] | dsimp only | split | intro

theorem Only.hashApply (s : State) (k : Nat) (v : Word) (hk : Only fr s0 s) (m_regs : Part.regs ∈ fr)
    (m_owed : Part.owed ∈ fr) (m_crier : Part.crier ∈ fr) (m_flt : Part.flt ∈ fr) : Only fr s0 (hashApply s k v) := by
  unfold Sys2Proof.Machine.hashApply
  with_reducible repeat' first
    | assumption | apply Only.clkErr | apply Only.setReg | exact Or.inl rfl | exact Or.inr (by assumption)
    | apply OnlyMk.intro | simp only [onlyMk] | dsimp only | split | intro

theorem Only.learnOffer (s : State) (r : LearnReq) (hk : Only fr s0 s) (m_regs : Part.regs ∈ fr) (m_owed : Part.owed ∈ fr)
    (m_lastRaise : Part.lastRaise ∈ fr) (m_clerk : Part.clerk ∈ fr) (m_crier : Part.crier ∈ fr) (m_flt : Part.flt ∈ fr)
    (m_activity : Part.activity ∈ fr) : Only fr s0 (learnOffer s r) := by
  unfold Sys2Proof.Machine.learnOffer
  with_reducible repeat' first
    | assumption | apply Only.learnLoss | apply Only.pmcEvent | exact Or.inl rfl | exact Or.inr (by assumption)
    | apply OnlyMk.intro | simp only [onlyMk] | dsimp only | split | intro

theorem Only.pinEntry (s : State) (t : Nat) (e : Entry) (hk : Only fr s0 s) (m_regs : Part.regs ∈ fr)
    (m_owed : Part.owed ∈ fr) (m_tables : Part.tables ∈ fr) (m_crier : Part.crier ∈ fr) (m_flt : Part.flt ∈ fr)
    : Only fr s0 (pinEntry s t e) := by
  unfold Sys2Proof.Machine.pinEntry
  with_reducible repeat' first
    | assumption | apply Only.modEntry | apply Only.setReg | apply Only.raise | apply Only.clerkCount | exact Or.inl rfl
    | exact Or.inr (by assumption) | apply OnlyMk.intro | simp only [onlyMk] | dsimp only | split | intro

theorem Only.moveEntry (s : State) (t : Nat) (e : Entry) (port : Nat) (hk : Only fr s0 s) (m_regs : Part.regs ∈ fr)
    (m_owed : Part.owed ∈ fr) (m_tables : Part.tables ∈ fr) (m_crier : Part.crier ∈ fr) (m_flt : Part.flt ∈ fr)
    : Only fr s0 (moveEntry s t e port) := by
  unfold Sys2Proof.Machine.moveEntry
  with_reducible repeat' first
    | assumption | apply Only.clerkCount | apply Only.modEntry | apply Only.pinEntry | exact Or.inl rfl
    | exact Or.inr (by assumption) | apply OnlyMk.intro | simp only [onlyMk] | dsimp only | split | intro

theorem Only.learnTake (s : State) (r : LearnReq) (hk : Only fr s0 s) (m_regs : Part.regs ∈ fr)
    (m_freeCtr : Part.freeCtr ∈ fr) (m_owed : Part.owed ∈ fr) (m_lastRaise : Part.lastRaise ∈ fr) (m_tables : Part.tables ∈ fr)
    (m_crier : Part.crier ∈ fr) (m_flt : Part.flt ∈ fr) : Only fr s0 (learnTake s r) := by
  unfold Sys2Proof.Machine.learnTake
  with_reducible repeat' first
    | assumption | apply Only.learnLoss | apply Only.drawn | apply Only.clerkCount | apply Only.addEntry
    | apply Only.moveEntry | exact Or.inl rfl | exact Or.inr (by assumption) | apply OnlyMk.intro | simp only [onlyMk]
    | dsimp only | split | intro

theorem Only.execFlapHoldEnd (table handle : Nat) (s : State) (hk : Only fr s0 s) (m_regs : Part.regs ∈ fr)
    (m_tables : Part.tables ∈ fr) : OnlyO fr s0 (execFlapHoldEnd table handle s) := by
  unfold Sys2Proof.Machine.execFlapHoldEnd
  with_reducible repeat' first
    | assumption | apply Only.modEntry | apply OnlyO.next | exact Or.inl rfl | exact Or.inr (by assumption)
    | apply OnlyMk.intro | simp only [onlyMk] | dsimp only | split | intro

theorem Only.ageTest (s : State) (t h : Nat) (hk : Only fr s0 s) (m_regs : Part.regs ∈ fr) (m_tables : Part.tables ∈ fr)
    (m_clerk : Part.clerk ∈ fr) : Only fr s0 (ageTest s t h) := by
  unfold Sys2Proof.Machine.ageTest
  with_reducible repeat' first
    | assumption | apply Only.modEntry | exact Or.inl rfl | exact Or.inr (by assumption) | apply OnlyMk.intro
    | simp only [onlyMk] | dsimp only | split | intro

theorem Only.modBefore (s : State) (t : Nat) (f : List Entry → List Entry) (hk : Only fr s0 s) (m_clerk : Part.clerk ∈ fr)
    : Only fr s0 (modBefore s t f) := by
  unfold Sys2Proof.Machine.modBefore
  with_reducible repeat' first
    | assumption | exact Or.inl rfl | exact Or.inr (by assumption) | apply OnlyMk.intro | simp only [onlyMk] | dsimp only
    | split | intro

theorem Only.modEverywhere (s : State) (t h : Nat) (f : Entry → Entry) (hk : Only fr s0 s) (m_regs : Part.regs ∈ fr)
    (m_tables : Part.tables ∈ fr) (m_clerk : Part.clerk ∈ fr) : Only fr s0 (modEverywhere s t h f) := by
  unfold Sys2Proof.Machine.modEverywhere
  with_reducible repeat' first
    | assumption | apply Only.modEntry | apply Only.modBefore | exact Or.inl rfl | exact Or.inr (by assumption)
    | apply OnlyMk.intro | simp only [onlyMk] | dsimp only | split | intro

theorem Only.ageInHall (s : State) (hall : Nat) (op : AgeOp) (hk : Only fr s0 s) (m_regs : Part.regs ∈ fr)
    (m_tables : Part.tables ∈ fr) (m_clerk : Part.clerk ∈ fr) : Only fr s0 (ageInHall s hall op) := by
  unfold Sys2Proof.Machine.ageInHall
  with_reducible repeat' first
    | assumption | apply Only.modEverywhere | exact Or.inl rfl | exact Or.inr (by assumption) | apply OnlyMk.intro
    | simp only [onlyMk] | dsimp only | split | intro

theorem Only.ageInForce (s : State) (op : AgeOp) (hk : Only fr s0 s) (m_regs : Part.regs ∈ fr) (m_tables : Part.tables ∈ fr)
    (m_clerk : Part.clerk ∈ fr) : Only fr s0 (ageInForce s op) := by
  unfold Sys2Proof.Machine.ageInForce
  with_reducible repeat' first
    | assumption | apply Only.clerkCount | apply Only.delEntry | apply Only.modBefore | exact Or.inl rfl
    | exact Or.inr (by assumption) | apply OnlyMk.intro | simp only [onlyMk] | dsimp only | split | intro

theorem Only.hallApply (hall : Nat) (s : State) (x : Issued) (hk : Only fr s0 s) (m_regs : Part.regs ∈ fr)
    (m_tables : Part.tables ∈ fr) (m_clerk : Part.clerk ∈ fr) : Only fr s0 (hallApply hall s x) := by
  unfold Sys2Proof.Machine.hallApply
  with_reducible repeat' first
    | assumption | apply Only.ageInHall | exact Or.inl rfl | exact Or.inr (by assumption) | apply OnlyMk.intro
    | simp only [onlyMk] | dsimp only | split | intro

theorem Only.hallTake (s : State) (hall n : Nat) (hk : Only fr s0 s) (m_regs : Part.regs ∈ fr) (m_tables : Part.tables ∈ fr)
    (m_clerk : Part.clerk ∈ fr) : Only fr s0 (hallTake s hall n) := by
  unfold Sys2Proof.Machine.hallTake
  with_reducible repeat' first
    | assumption | apply Only.forEach | apply Only.hallApply | apply Only.foldl | apply Only.foldl1 | exact Or.inl rfl
    | exact Or.inr (by assumption) | apply OnlyMk.intro | simp only [onlyMk] | dsimp only | split | intro

theorem Only.hallAdvance (s : State) (hall : Nat) (hk : Only fr s0 s) (m_regs : Part.regs ∈ fr)
    (m_freeCtr : Part.freeCtr ∈ fr) (m_tables : Part.tables ∈ fr) (m_clerk : Part.clerk ∈ fr)
    : Only fr s0 (hallAdvance s hall) := by
  unfold Sys2Proof.Machine.hallAdvance
  with_reducible repeat' first
    | assumption | apply Only.drawn | apply Only.hallTake | exact Or.inl rfl | exact Or.inr (by assumption)
    | apply OnlyMk.intro | simp only [onlyMk] | dsimp only | split | intro

theorem Only.hallState (s : State) (hall : Nat) (hk : Only fr s0 s) (m_regs : Part.regs ∈ fr) (m_tables : Part.tables ∈ fr)
    : Only fr s0 (hallState s hall) := by
  unfold Sys2Proof.Machine.hallState
  with_reducible repeat' first
    | assumption | apply Only.foldl | apply Only.foldl1 | exact Or.inl rfl | exact Or.inr (by assumption)
    | apply OnlyMk.intro | simp only [onlyMk] | dsimp only | split | intro

theorem Only.retireChange (s : State) (d : Dom) (c : Change) (hk : Only fr s0 s) (m_regs : Part.regs ∈ fr)
    (m_tables : Part.tables ∈ fr) : Only fr s0 (retireChange s d c) := by
  unfold Sys2Proof.Machine.retireChange
  with_reducible repeat' first
    | assumption | apply Only.modEntry | apply Only.delEntry | apply Only.foldl | apply Only.foldl1 | exact Or.inl rfl
    | exact Or.inr (by assumption) | apply OnlyMk.intro | simp only [onlyMk] | dsimp only | split | intro

theorem Only.clerkIssued
    (s : State) (regs : List Nat) (age : Option AgeOp) (f : State → State) (done : Option (HostCmd × Nat × List Byte))
    (hk : Only fr s0 s) (hf : ∀ t, Only fr s0 t → Only fr s0 (f t)) (m_regs : Part.regs ∈ fr) (m_owed : Part.owed ∈ fr)
    (m_clerk : Part.clerk ∈ fr) (m_crier : Part.crier ∈ fr) (m_flt : Part.flt ∈ fr) (m_activity : Part.activity ∈ fr)
    : Only fr s0 (clerkIssued s regs age f done) := by
  unfold Sys2Proof.Machine.clerkIssued
  with_reducible repeat' first
    | assumption | apply hf | apply Only.pmcEvent | exact Or.inl rfl | exact Or.inr (by assumption) | apply OnlyMk.intro
    | simp only [onlyMk] | dsimp only | split | intro

theorem Only.issueHost (s : State) (op : ClerkOp) (hk : Only fr s0 s) (m_regs : Part.regs ∈ fr)
    (m_freeCtr : Part.freeCtr ∈ fr) (m_owed : Part.owed ∈ fr) (m_prg : Part.prg ∈ fr) (m_tables : Part.tables ∈ fr)
    (m_clerk : Part.clerk ∈ fr) (m_crier : Part.crier ∈ fr) (m_flt : Part.flt ∈ fr) (m_activity : Part.activity ∈ fr)
    (m_out : Part.out ∈ fr) : Only fr s0 (issueHost s op) := by
  unfold Sys2Proof.Machine.issueHost
  with_reducible repeat' first
    | assumption | apply Only.tblRun | apply Only.clerkIssued | apply Only.descApply | apply Only.hashApply
    | exact Or.inl rfl | exact Or.inr (by assumption) | apply OnlyMk.intro | simp only [onlyMk] | dsimp only | split | intro

theorem Only.clerkDo (s : State) (p : ClerkPick) (hk : Only fr s0 s) (m_regs : Part.regs ∈ fr)
    (m_freeCtr : Part.freeCtr ∈ fr) (m_owed : Part.owed ∈ fr) (m_lastRaise : Part.lastRaise ∈ fr) (m_prg : Part.prg ∈ fr)
    (m_tables : Part.tables ∈ fr) (m_clerk : Part.clerk ∈ fr) (m_crier : Part.crier ∈ fr) (m_flt : Part.flt ∈ fr)
    (m_activity : Part.activity ∈ fr) (m_out : Part.out ∈ fr) : Only fr s0 (clerkDo s p) := by
  unfold Sys2Proof.Machine.clerkDo
  with_reducible repeat' first
    | assumption | apply Only.clerkIssued | apply Only.setDom | apply Only.retireChange | apply Only.clerkCount
    | apply Only.issueHost | apply Only.learnTake | apply Only.ageTest | exact Or.inl rfl | exact Or.inr (by assumption)
    | apply OnlyMk.intro | simp only [onlyMk] | dsimp only | split | intro

theorem Only.clerkPost (s : State) (op : ClerkOp) (hk : Only fr s0 s) (m_regs : Part.regs ∈ fr)
    (m_freeCtr : Part.freeCtr ∈ fr) (m_owed : Part.owed ∈ fr) (m_lastRaise : Part.lastRaise ∈ fr) (m_prg : Part.prg ∈ fr)
    (m_tables : Part.tables ∈ fr) (m_clerk : Part.clerk ∈ fr) (m_crier : Part.crier ∈ fr) (m_flt : Part.flt ∈ fr)
    (m_activity : Part.activity ∈ fr) (m_out : Part.out ∈ fr) : Only fr s0 (clerkPost s op) := by
  unfold Sys2Proof.Machine.clerkPost
  with_reducible repeat' first
    | assumption | apply Only.clerkDo | exact Or.inl rfl | exact Or.inr (by assumption) | apply OnlyMk.intro
    | simp only [onlyMk] | dsimp only | split | intro

theorem Only.execClerkIssue (s : State) (hk : Only fr s0 s) (m_regs : Part.regs ∈ fr) (m_freeCtr : Part.freeCtr ∈ fr)
    (m_owed : Part.owed ∈ fr) (m_lastRaise : Part.lastRaise ∈ fr) (m_prg : Part.prg ∈ fr) (m_tables : Part.tables ∈ fr)
    (m_clerk : Part.clerk ∈ fr) (m_crier : Part.crier ∈ fr) (m_flt : Part.flt ∈ fr) (m_activity : Part.activity ∈ fr)
    (m_out : Part.out ∈ fr) : OnlyO fr s0 (execClerkIssue s) := by
  unfold Sys2Proof.Machine.execClerkIssue
  with_reducible repeat' first
    | assumption | apply Only.clerkDo | apply OnlyO.next | exact Or.inl rfl | exact Or.inr (by assumption)
    | apply OnlyMk.intro | simp only [onlyMk] | dsimp only | split | intro

theorem Only.clerkInForce (s : State) (hk : Only fr s0 s) (m_regs : Part.regs ∈ fr) (m_owed : Part.owed ∈ fr)
    (m_hif : Part.hif ∈ fr) (m_tables : Part.tables ∈ fr) (m_clerk : Part.clerk ∈ fr) (m_crier : Part.crier ∈ fr)
    (m_flt : Part.flt ∈ fr) : Only fr s0 (clerkInForce s) := by
  unfold Sys2Proof.Machine.clerkInForce
  with_reducible repeat' first
    | assumption | apply Only.forEach | apply Only.hallApply | apply Only.ageInForce | apply Only.complete | exact Or.inl rfl
    | exact Or.inr (by assumption) | apply OnlyMk.intro | simp only [onlyMk] | dsimp only | split | intro

theorem Only.tblStart (s : State) (c : HostCmd) (row : CmdRow) (hk : Only fr s0 s) (m_regs : Part.regs ∈ fr)
    (m_freeCtr : Part.freeCtr ∈ fr) (m_owed : Part.owed ∈ fr) (m_lastRaise : Part.lastRaise ∈ fr) (m_hif : Part.hif ∈ fr)
    (m_prg : Part.prg ∈ fr) (m_tables : Part.tables ∈ fr) (m_clerk : Part.clerk ∈ fr) (m_crier : Part.crier ∈ fr)
    (m_flt : Part.flt ∈ fr) (m_activity : Part.activity ∈ fr) (m_out : Part.out ∈ fr) : Only fr s0 (tblStart s c row) := by
  unfold Sys2Proof.Machine.tblStart
  with_reducible repeat' first
    | assumption | apply Only.runCmd | apply Only.clerkPost | apply Only.setPhase | exact Or.inl rfl
    | exact Or.inr (by assumption) | apply OnlyMk.intro | simp only [onlyMk] | dsimp only | split | intro

theorem Only.execTblSearch (cmd : HostCmd) (s : State) (hk : Only fr s0 s) (m_regs : Part.regs ∈ fr)
    (m_freeCtr : Part.freeCtr ∈ fr) (m_owed : Part.owed ∈ fr) (m_lastRaise : Part.lastRaise ∈ fr) (m_hif : Part.hif ∈ fr)
    (m_prg : Part.prg ∈ fr) (m_tables : Part.tables ∈ fr) (m_clerk : Part.clerk ∈ fr) (m_crier : Part.crier ∈ fr)
    (m_flt : Part.flt ∈ fr) (m_activity : Part.activity ∈ fr) (m_out : Part.out ∈ fr) : OnlyO fr s0 (execTblSearch cmd s) := by
  unfold Sys2Proof.Machine.execTblSearch
  with_reducible repeat' first
    | assumption | apply Only.tblStart | apply OnlyO.next | exact Or.inl rfl | exact Or.inr (by assumption)
    | apply OnlyMk.intro | simp only [onlyMk] | dsimp only | split | intro

theorem Only.execTblNext (cmd : HostCmd) (s : State) (hk : Only fr s0 s) (m_regs : Part.regs ∈ fr)
    (m_freeCtr : Part.freeCtr ∈ fr) (m_owed : Part.owed ∈ fr) (m_lastRaise : Part.lastRaise ∈ fr) (m_hif : Part.hif ∈ fr)
    (m_prg : Part.prg ∈ fr) (m_tables : Part.tables ∈ fr) (m_clerk : Part.clerk ∈ fr) (m_crier : Part.crier ∈ fr)
    (m_flt : Part.flt ∈ fr) (m_activity : Part.activity ∈ fr) (m_out : Part.out ∈ fr) : OnlyO fr s0 (execTblNext cmd s) := by
  unfold Sys2Proof.Machine.execTblNext
  with_reducible repeat' first
    | assumption | apply Only.tblStart | apply OnlyO.next | exact Or.inl rfl | exact Or.inr (by assumption)
    | apply OnlyMk.intro | simp only [onlyMk] | dsimp only | split | intro

theorem Only.execTblInsert (cmd : HostCmd) (s : State) (hk : Only fr s0 s) (m_regs : Part.regs ∈ fr)
    (m_freeCtr : Part.freeCtr ∈ fr) (m_owed : Part.owed ∈ fr) (m_lastRaise : Part.lastRaise ∈ fr) (m_hif : Part.hif ∈ fr)
    (m_prg : Part.prg ∈ fr) (m_tables : Part.tables ∈ fr) (m_clerk : Part.clerk ∈ fr) (m_crier : Part.crier ∈ fr)
    (m_flt : Part.flt ∈ fr) (m_activity : Part.activity ∈ fr) (m_out : Part.out ∈ fr) : OnlyO fr s0 (execTblInsert cmd s) := by
  unfold Sys2Proof.Machine.execTblInsert
  with_reducible repeat' first
    | assumption | apply Only.tblStart | apply OnlyO.next | exact Or.inl rfl | exact Or.inr (by assumption)
    | apply OnlyMk.intro | simp only [onlyMk] | dsimp only | split | intro

theorem Only.execTblUpdate (cmd : HostCmd) (s : State) (hk : Only fr s0 s) (m_regs : Part.regs ∈ fr)
    (m_freeCtr : Part.freeCtr ∈ fr) (m_owed : Part.owed ∈ fr) (m_lastRaise : Part.lastRaise ∈ fr) (m_hif : Part.hif ∈ fr)
    (m_prg : Part.prg ∈ fr) (m_tables : Part.tables ∈ fr) (m_clerk : Part.clerk ∈ fr) (m_crier : Part.crier ∈ fr)
    (m_flt : Part.flt ∈ fr) (m_activity : Part.activity ∈ fr) (m_out : Part.out ∈ fr) : OnlyO fr s0 (execTblUpdate cmd s) := by
  unfold Sys2Proof.Machine.execTblUpdate
  with_reducible repeat' first
    | assumption | apply Only.tblStart | apply OnlyO.next | exact Or.inl rfl | exact Or.inr (by assumption)
    | apply OnlyMk.intro | simp only [onlyMk] | dsimp only | split | intro

theorem Only.execTblDelete (cmd : HostCmd) (s : State) (hk : Only fr s0 s) (m_regs : Part.regs ∈ fr)
    (m_freeCtr : Part.freeCtr ∈ fr) (m_owed : Part.owed ∈ fr) (m_lastRaise : Part.lastRaise ∈ fr) (m_hif : Part.hif ∈ fr)
    (m_prg : Part.prg ∈ fr) (m_tables : Part.tables ∈ fr) (m_clerk : Part.clerk ∈ fr) (m_crier : Part.crier ∈ fr)
    (m_flt : Part.flt ∈ fr) (m_activity : Part.activity ∈ fr) (m_out : Part.out ∈ fr) : OnlyO fr s0 (execTblDelete cmd s) := by
  unfold Sys2Proof.Machine.execTblDelete
  with_reducible repeat' first
    | assumption | apply Only.tblStart | apply OnlyO.next | exact Or.inl rfl | exact Or.inr (by assumption)
    | apply OnlyMk.intro | simp only [onlyMk] | dsimp only | split | intro

theorem Only.execTblFlushPort (cmd : HostCmd) (s : State) (hk : Only fr s0 s) (m_regs : Part.regs ∈ fr)
    (m_freeCtr : Part.freeCtr ∈ fr) (m_owed : Part.owed ∈ fr) (m_lastRaise : Part.lastRaise ∈ fr) (m_hif : Part.hif ∈ fr)
    (m_prg : Part.prg ∈ fr) (m_tables : Part.tables ∈ fr) (m_clerk : Part.clerk ∈ fr) (m_crier : Part.crier ∈ fr)
    (m_flt : Part.flt ∈ fr) (m_activity : Part.activity ∈ fr) (m_out : Part.out ∈ fr)
    : OnlyO fr s0 (execTblFlushPort cmd s) := by
  unfold Sys2Proof.Machine.execTblFlushPort
  with_reducible repeat' first
    | assumption | apply Only.tblStart | apply OnlyO.next | exact Or.inl rfl | exact Or.inr (by assumption)
    | apply OnlyMk.intro | simp only [onlyMk] | dsimp only | split | intro

theorem Only.execTblRead (cmd : HostCmd) (s : State) (hk : Only fr s0 s) (m_regs : Part.regs ∈ fr)
    (m_freeCtr : Part.freeCtr ∈ fr) (m_owed : Part.owed ∈ fr) (m_lastRaise : Part.lastRaise ∈ fr) (m_hif : Part.hif ∈ fr)
    (m_prg : Part.prg ∈ fr) (m_tables : Part.tables ∈ fr) (m_clerk : Part.clerk ∈ fr) (m_crier : Part.crier ∈ fr)
    (m_flt : Part.flt ∈ fr) (m_activity : Part.activity ∈ fr) (m_out : Part.out ∈ fr) : OnlyO fr s0 (execTblRead cmd s) := by
  unfold Sys2Proof.Machine.execTblRead
  with_reducible repeat' first
    | assumption | apply Only.tblStart | apply OnlyO.next | exact Or.inl rfl | exact Or.inr (by assumption)
    | apply OnlyMk.intro | simp only [onlyMk] | dsimp only | split | intro

theorem Only.clerkWrite (s : State) (a : Nat) (value : Word) (op : ClerkOp) (hk : Only fr s0 s) (m_regs : Part.regs ∈ fr)
    (m_freeCtr : Part.freeCtr ∈ fr) (m_owed : Part.owed ∈ fr) (m_lastRaise : Part.lastRaise ∈ fr) (m_top : Part.top ∈ fr)
    (m_prg : Part.prg ∈ fr) (m_tables : Part.tables ∈ fr) (m_clerk : Part.clerk ∈ fr) (m_crier : Part.crier ∈ fr)
    (m_flt : Part.flt ∈ fr) (m_activity : Part.activity ∈ fr) (m_out : Part.out ∈ fr)
    : Only fr s0 (clerkWrite s a value op) := by
  unfold Sys2Proof.Machine.clerkWrite
  with_reducible repeat' first
    | assumption | apply Only.atCrossing | apply Only.clerkPost | exact Or.inl rfl | exact Or.inr (by assumption)
    | apply OnlyMk.intro | simp only [onlyMk] | dsimp only | split | intro

theorem Only.execDescWrite (t word : Nat) (value : Word) (s : State) (hk : Only fr s0 s) (m_regs : Part.regs ∈ fr)
    (m_freeCtr : Part.freeCtr ∈ fr) (m_owed : Part.owed ∈ fr) (m_lastRaise : Part.lastRaise ∈ fr) (m_top : Part.top ∈ fr)
    (m_prg : Part.prg ∈ fr) (m_tables : Part.tables ∈ fr) (m_clerk : Part.clerk ∈ fr) (m_crier : Part.crier ∈ fr)
    (m_flt : Part.flt ∈ fr) (m_activity : Part.activity ∈ fr) (m_out : Part.out ∈ fr)
    : OnlyO fr s0 (execDescWrite t word value s) := by
  unfold Sys2Proof.Machine.execDescWrite
  with_reducible repeat' first
    | assumption | apply Only.clerkWrite | apply OnlyO.next | exact Or.inl rfl | exact Or.inr (by assumption)
    | apply OnlyMk.intro | simp only [onlyMk] | dsimp only | split | intro

theorem Only.execHashCfgWrite (k : Nat) (value : Word) (s : State) (hk : Only fr s0 s) (m_regs : Part.regs ∈ fr)
    (m_freeCtr : Part.freeCtr ∈ fr) (m_owed : Part.owed ∈ fr) (m_lastRaise : Part.lastRaise ∈ fr) (m_top : Part.top ∈ fr)
    (m_prg : Part.prg ∈ fr) (m_tables : Part.tables ∈ fr) (m_clerk : Part.clerk ∈ fr) (m_crier : Part.crier ∈ fr)
    (m_flt : Part.flt ∈ fr) (m_activity : Part.activity ∈ fr) (m_out : Part.out ∈ fr)
    : OnlyO fr s0 (execHashCfgWrite k value s) := by
  unfold Sys2Proof.Machine.execHashCfgWrite
  with_reducible repeat' first
    | assumption | apply Only.clerkWrite | apply OnlyO.next | exact Or.inl rfl | exact Or.inr (by assumption)
    | apply OnlyMk.intro | simp only [onlyMk] | dsimp only | split | intro

theorem Only.execLearnInstall (s : State) (hk : Only fr s0 s) (m_regs : Part.regs ∈ fr) (m_freeCtr : Part.freeCtr ∈ fr)
    (m_owed : Part.owed ∈ fr) (m_lastRaise : Part.lastRaise ∈ fr) (m_prg : Part.prg ∈ fr) (m_tables : Part.tables ∈ fr)
    (m_clerk : Part.clerk ∈ fr) (m_crier : Part.crier ∈ fr) (m_flt : Part.flt ∈ fr) (m_activity : Part.activity ∈ fr)
    (m_out : Part.out ∈ fr) : OnlyO fr s0 (execLearnInstall s) := by
  unfold Sys2Proof.Machine.execLearnInstall
  with_reducible repeat' first
    | assumption | apply Only.clerkDo | apply OnlyO.next | exact Or.inl rfl | exact Or.inr (by assumption)
    | apply OnlyMk.intro | simp only [onlyMk] | dsimp only | split | intro

theorem Only.execAgeVisit (table handle : Nat) (s : State) (hk : Only fr s0 s) (m_regs : Part.regs ∈ fr)
    (m_freeCtr : Part.freeCtr ∈ fr) (m_owed : Part.owed ∈ fr) (m_lastRaise : Part.lastRaise ∈ fr) (m_prg : Part.prg ∈ fr)
    (m_tables : Part.tables ∈ fr) (m_clerk : Part.clerk ∈ fr) (m_crier : Part.crier ∈ fr) (m_flt : Part.flt ∈ fr)
    (m_activity : Part.activity ∈ fr) (m_out : Part.out ∈ fr) : OnlyO fr s0 (execAgeVisit table handle s) := by
  unfold Sys2Proof.Machine.execAgeVisit
  with_reducible repeat' first
    | assumption | apply Only.clerkDo | apply OnlyO.next | exact Or.inl rfl | exact Or.inr (by assumption)
    | apply OnlyMk.intro | simp only [onlyMk] | dsimp only | split | intro

theorem Only.execAgeRemove (table handle : Nat) (s : State) (hk : Only fr s0 s) (m_regs : Part.regs ∈ fr)
    (m_freeCtr : Part.freeCtr ∈ fr) (m_owed : Part.owed ∈ fr) (m_lastRaise : Part.lastRaise ∈ fr) (m_prg : Part.prg ∈ fr)
    (m_tables : Part.tables ∈ fr) (m_clerk : Part.clerk ∈ fr) (m_crier : Part.crier ∈ fr) (m_flt : Part.flt ∈ fr)
    (m_activity : Part.activity ∈ fr) (m_out : Part.out ∈ fr) : OnlyO fr s0 (execAgeRemove table handle s) := by
  unfold Sys2Proof.Machine.execAgeRemove
  with_reducible repeat' first
    | assumption | apply Only.clerkDo | apply OnlyO.next | exact Or.inl rfl | exact Or.inr (by assumption)
    | apply OnlyMk.intro | simp only [onlyMk] | dsimp only | split | intro

theorem Only.execAgeRestore (table handle : Nat) (s : State) (hk : Only fr s0 s) (m_regs : Part.regs ∈ fr)
    (m_freeCtr : Part.freeCtr ∈ fr) (m_owed : Part.owed ∈ fr) (m_lastRaise : Part.lastRaise ∈ fr) (m_prg : Part.prg ∈ fr)
    (m_tables : Part.tables ∈ fr) (m_clerk : Part.clerk ∈ fr) (m_crier : Part.crier ∈ fr) (m_flt : Part.flt ∈ fr)
    (m_activity : Part.activity ∈ fr) (m_out : Part.out ∈ fr) : OnlyO fr s0 (execAgeRestore table handle s) := by
  unfold Sys2Proof.Machine.execAgeRestore
  with_reducible repeat' first
    | assumption | apply Only.clerkDo | apply OnlyO.next | exact Or.inl rfl | exact Or.inr (by assumption)
    | apply OnlyMk.intro | simp only [onlyMk] | dsimp only | split | intro

theorem Only.copyBank (s : State) (d : Dom) (hk : Only fr s0 s) (m_prog : Part.prog ∈ fr) (m_pipes : Part.pipes ∈ fr)
    : Only fr s0 (copyBank s d) := by
  unfold Sys2Proof.Machine.copyBank
  with_reducible repeat' first
    | assumption | apply Only.foldl | apply Only.foldl1 | exact Or.inl rfl | exact Or.inr (by assumption)
    | apply OnlyMk.intro | simp only [onlyMk] | dsimp only | split | intro

theorem Only.execRetireComplete (d : Dom) (s : State) (hk : Only fr s0 s) (m_regs : Part.regs ∈ fr) (m_prog : Part.prog ∈ fr)
    (m_owed : Part.owed ∈ fr) (m_prg : Part.prg ∈ fr) (m_pipes : Part.pipes ∈ fr) (m_crier : Part.crier ∈ fr)
    (m_flt : Part.flt ∈ fr) : OnlyO fr s0 (execRetireComplete d s) := by
  unfold Sys2Proof.Machine.execRetireComplete
  with_reducible repeat' first
    | assumption | apply Only.copyBank | apply Only.setDom | apply Only.raise | apply Only.openStage | apply Only.setBit
    | apply OnlyO.next | exact Or.inl rfl | exact Or.inr (by assumption) | apply OnlyMk.intro | simp only [onlyMk]
    | dsimp only | split | intro

theorem Only.rowError (s : State) (hall row requester access : Nat) (hk : Only fr s0 s) (m_regs : Part.regs ∈ fr)
    (m_journal : Part.journal ∈ fr) (m_owed : Part.owed ∈ fr) (m_clerk : Part.clerk ∈ fr) (m_crier : Part.crier ∈ fr)
    (m_flt : Part.flt ∈ fr) : Only fr s0 (rowError s hall row requester access) := by
  unfold Sys2Proof.Machine.rowError
  with_reducible repeat' first
    | assumption | apply Only.fault | apply Only.satF | exact Or.inl rfl | exact Or.inr (by assumption) | apply OnlyMk.intro
    | simp only [onlyMk] | dsimp only | split | intro

theorem Only.repairRow (hall row : Nat) (s : State) (hk : Only fr s0 s) (m_regs : Part.regs ∈ fr)
    (m_tables : Part.tables ∈ fr) : Only fr s0 (repairRow hall row s) := by
  unfold Sys2Proof.Machine.repairRow
  with_reducible repeat' first
    | assumption | apply Only.clerkCount | exact Or.inl rfl | exact Or.inr (by assumption) | apply OnlyMk.intro
    | simp only [onlyMk] | dsimp only | split | intro

theorem Only.execReplicaRepair (hall row : Nat) (entries : List (Nat × Nat)) (allBad : Bool) (s : State) (hk : Only fr s0 s)
    (m_regs : Part.regs ∈ fr) (m_journal : Part.journal ∈ fr) (m_owed : Part.owed ∈ fr) (m_tables : Part.tables ∈ fr)
    (m_clerk : Part.clerk ∈ fr) (m_crier : Part.crier ∈ fr) (m_flt : Part.flt ∈ fr) (m_activity : Part.activity ∈ fr)
    : OnlyO fr s0 (execReplicaRepair hall row entries allBad s) := by
  unfold Sys2Proof.Machine.execReplicaRepair
  with_reducible repeat' first
    | assumption | apply Only.clerkIssued | apply Only.forEach | apply Only.faultRecord | apply Only.delEntry
    | apply Only.repairRow | apply OnlyO.next | exact Or.inl rfl | exact Or.inr (by assumption) | apply OnlyMk.intro
    | simp only [onlyMk] | dsimp only | split | intro

theorem Only.rowCorrected (s : State) (hall : Nat) (hk : Only fr s0 s) (m_regs : Part.regs ∈ fr)
    : Only fr s0 (rowCorrected s hall) := by
  unfold Sys2Proof.Machine.rowCorrected
  with_reducible repeat' first
    | assumption | apply Only.satF | exact Or.inl rfl | exact Or.inr (by assumption) | apply OnlyMk.intro
    | simp only [onlyMk] | dsimp only | split | intro

theorem Only.execTableScrub (hall row : Nat) (corr uncorr : Bool) (s : State) (hk : Only fr s0 s) (m_regs : Part.regs ∈ fr)
    (m_journal : Part.journal ∈ fr) (m_owed : Part.owed ∈ fr) (m_clerk : Part.clerk ∈ fr) (m_crier : Part.crier ∈ fr)
    (m_flt : Part.flt ∈ fr) : OnlyO fr s0 (execTableScrub hall row corr uncorr s) := by
  unfold Sys2Proof.Machine.execTableScrub
  with_reducible repeat' first
    | assumption | apply Only.rowError | apply Only.rowCorrected | apply OnlyO.next | exact Or.inl rfl
    | exact Or.inr (by assumption) | apply OnlyMk.intro | simp only [onlyMk] | dsimp only | split | intro

theorem Only.rawRow (s : State) (hall : Nat) (value : Word) (hk : Only fr s0 s) (m_regs : Part.regs ∈ fr)
    : Only fr s0 (rawRow s hall value) := by
  unfold Sys2Proof.Machine.rawRow
  with_reducible repeat' first
    | assumption | apply Only.setF | exact Or.inl rfl | exact Or.inr (by assumption) | apply OnlyMk.intro
    | simp only [onlyMk] | dsimp only | split | intro

theorem Only.execRawRowRead (hall : Nat) (value : Word) (s : State) (hk : Only fr s0 s) (m_regs : Part.regs ∈ fr)
    (m_freeCtr : Part.freeCtr ∈ fr) (m_top : Part.top ∈ fr) : OnlyO fr s0 (execRawRowRead hall value s) := by
  unfold Sys2Proof.Machine.execRawRowRead
  with_reducible repeat' first
    | assumption | apply Only.holdWrite | apply Only.rawRow | apply Only.forEach | apply Only.setReg | apply OnlyO.next
    | exact Or.inl rfl | exact Or.inr (by assumption) | apply OnlyMk.intro | simp only [onlyMk] | dsimp only | split | intro

theorem Only.execRawRowWrite (hall : Nat) (value : Word) (s : State) (hk : Only fr s0 s) (m_regs : Part.regs ∈ fr)
    (m_top : Part.top ∈ fr) (m_tables : Part.tables ∈ fr) : OnlyO fr s0 (execRawRowWrite hall value s) := by
  unfold Sys2Proof.Machine.execRawRowWrite
  with_reducible repeat' first
    | assumption | apply Only.holdWrite | apply Only.rawRow | apply OnlyO.next | exact Or.inl rfl
    | exact Or.inr (by assumption) | apply OnlyMk.intro | simp only [onlyMk] | dsimp only | split | intro

theorem Only.execFrameArrival (port : Nat) (octets : List Byte) (pcs : Stamp) (s : State) (hk : Only fr s0 s)
    (m_regs : Part.regs ∈ fr) (m_freeCtr : Part.freeCtr ∈ fr) (m_owed : Part.owed ∈ fr) (m_lastRaise : Part.lastRaise ∈ fr)
    (m_pipes : Part.pipes ∈ fr) (m_market : Part.market ∈ fr) (m_spill : Part.spill ∈ fr) (m_sched : Part.sched ∈ fr)
    (m_telem : Part.telem ∈ fr) (m_crier : Part.crier ∈ fr) (m_flt : Part.flt ∈ fr) (m_activity : Part.activity ∈ fr)
    : OnlyO fr s0 (execFrameArrival port octets pcs s) := by
  unfold Sys2Proof.Machine.execFrameArrival
  with_reducible repeat' first
    | assumption | apply Only.ledgerAdd | apply Only.raise | apply Only.add64 | apply Only.dropPacket | apply OnlyO.next
    | exact Or.inl rfl | exact Or.inr (by assumption) | apply OnlyMk.intro | simp only [onlyMk] | dsimp only | split | intro

theorem Only.enterParse (s : State) (g : Nat) (p : Packet) (hk : Only fr s0 s) (m_regs : Part.regs ∈ fr)
    (m_freeCtr : Part.freeCtr ∈ fr) (m_owed : Part.owed ∈ fr) (m_lastRaise : Part.lastRaise ∈ fr) (m_pipes : Part.pipes ∈ fr)
    (m_market : Part.market ∈ fr) (m_spill : Part.spill ∈ fr) (m_sched : Part.sched ∈ fr) (m_telem : Part.telem ∈ fr)
    (m_crier : Part.crier ∈ fr) (m_flt : Part.flt ∈ fr) (m_activity : Part.activity ∈ fr) : Only fr s0 (enterParse s g p) := by
  unfold Sys2Proof.Machine.enterParse
  with_reducible repeat' first
    | assumption | apply Only.dropPacket | exact Or.inl rfl | exact Or.inr (by assumption) | apply OnlyMk.intro
    | simp only [onlyMk] | dsimp only | split | intro

theorem Only.execParseEntry (g : Nat) (s : State) (hk : Only fr s0 s) (m_regs : Part.regs ∈ fr)
    (m_freeCtr : Part.freeCtr ∈ fr) (m_owed : Part.owed ∈ fr) (m_lastRaise : Part.lastRaise ∈ fr) (m_pipes : Part.pipes ∈ fr)
    (m_market : Part.market ∈ fr) (m_spill : Part.spill ∈ fr) (m_sched : Part.sched ∈ fr) (m_telem : Part.telem ∈ fr)
    (m_crier : Part.crier ∈ fr) (m_flt : Part.flt ∈ fr) (m_activity : Part.activity ∈ fr)
    : OnlyO fr s0 (execParseEntry g s) := by
  unfold Sys2Proof.Machine.execParseEntry
  with_reducible repeat' first
    | assumption | apply Only.enterParse | apply OnlyO.next | exact Or.inl rfl | exact Or.inr (by assumption)
    | apply OnlyMk.intro | simp only [onlyMk] | dsimp only | split | intro

theorem Only.hostBegun (s : State) (p : Packet) (hk : Only fr s0 s) (m_regs : Part.regs ∈ fr) (m_journal : Part.journal ∈ fr)
    (m_owed : Part.owed ∈ fr) (m_hif : Part.hif ∈ fr) (m_market : Part.market ∈ fr) (m_crier : Part.crier ∈ fr)
    (m_flt : Part.flt ∈ fr) (m_activity : Part.activity ∈ fr) : Only fr s0 (hostBegun s p) := by
  unfold Sys2Proof.Machine.hostBegun
  with_reducible repeat' first
    | assumption | apply Only.freeUnit | apply Only.unmapBuf | apply Only.freeRefused | apply Only.complete
    | exact Or.inl rfl | exact Or.inr (by assumption) | apply OnlyMk.intro | simp only [onlyMk] | dsimp only | split | intro

theorem Only.execRecircEntry (g : Nat) (s : State) (hk : Only fr s0 s) (m_regs : Part.regs ∈ fr)
    (m_freeCtr : Part.freeCtr ∈ fr) (m_journal : Part.journal ∈ fr) (m_owed : Part.owed ∈ fr) (m_lastRaise : Part.lastRaise ∈ fr)
    (m_hif : Part.hif ∈ fr) (m_pipes : Part.pipes ∈ fr) (m_market : Part.market ∈ fr) (m_spill : Part.spill ∈ fr)
    (m_sched : Part.sched ∈ fr) (m_telem : Part.telem ∈ fr) (m_crier : Part.crier ∈ fr) (m_flt : Part.flt ∈ fr)
    (m_activity : Part.activity ∈ fr) : OnlyO fr s0 (execRecircEntry g s) := by
  unfold Sys2Proof.Machine.execRecircEntry
  with_reducible repeat' first
    | assumption | apply Only.enterParse | apply Only.hostBegun | apply OnlyO.next | exact Or.inl rfl
    | exact Or.inr (by assumption) | apply OnlyMk.intro | simp only [onlyMk] | dsimp only | split | intro

theorem Only.parCapture (s : State) (g : Nat) (p : Packet) (hk : Only fr s0 s) (m_regs : Part.regs ∈ fr)
    (m_owed : Part.owed ∈ fr) (m_crier : Part.crier ∈ fr) (m_flt : Part.flt ∈ fr) : Only fr s0 (parCapture s g p) := by
  unfold Sys2Proof.Machine.parCapture
  with_reducible repeat' first
    | assumption | apply Only.setReg | apply Only.setReg64 | apply Only.raise | apply Only.setBit | exact Or.inl rfl
    | exact Or.inr (by assumption) | apply OnlyMk.intro | simp only [onlyMk] | dsimp only | split | intro

theorem Only.execParseExit (g : Nat) (s : State) (hk : Only fr s0 s) (m_regs : Part.regs ∈ fr)
    (m_freeCtr : Part.freeCtr ∈ fr) (m_owed : Part.owed ∈ fr) (m_lastRaise : Part.lastRaise ∈ fr) (m_pipes : Part.pipes ∈ fr)
    (m_market : Part.market ∈ fr) (m_spill : Part.spill ∈ fr) (m_sched : Part.sched ∈ fr) (m_telem : Part.telem ∈ fr)
    (m_crier : Part.crier ∈ fr) (m_flt : Part.flt ∈ fr) (m_activity : Part.activity ∈ fr) : OnlyO fr s0 (execParseExit g s) := by
  unfold Sys2Proof.Machine.execParseExit
  with_reducible repeat' first
    | assumption | apply Only.parCapture | apply Only.add64 | apply Only.dropPacket | apply Only.passOn | apply OnlyO.next
    | exact Or.inl rfl | exact Or.inr (by assumption) | apply OnlyMk.intro | simp only [onlyMk] | dsimp only | split | intro

theorem Only.execParCaptureArm (g : Nat) (s : State) (hk : Only fr s0 s) (m_regs : Part.regs ∈ fr) (m_top : Part.top ∈ fr)
    : OnlyO fr s0 (execParCaptureArm g s) := by
  unfold Sys2Proof.Machine.execParCaptureArm
  with_reducible repeat' first
    | assumption | apply Only.holdWrite | apply Only.setBit | apply OnlyO.next | exact Or.inl rfl
    | exact Or.inr (by assumption) | apply OnlyMk.intro | simp only [onlyMk] | dsimp only | split | intro

theorem Only.execParseWordRepair (g space bank offset : Nat) (err : WordErr) (s : State) (hk : Only fr s0 s)
    (m_regs : Part.regs ∈ fr) (m_freeCtr : Part.freeCtr ∈ fr) (m_journal : Part.journal ∈ fr) (m_owed : Part.owed ∈ fr)
    (m_pipes : Part.pipes ∈ fr) (m_crier : Part.crier ∈ fr) (m_flt : Part.flt ∈ fr)
    : OnlyO fr s0 (execParseWordRepair g space bank offset err s) := by
  unfold Sys2Proof.Machine.execParseWordRepair
  with_reducible repeat' first
    | assumption | apply Only.satF | apply Only.faultRecord | apply Only.whenB | apply Only.raise | apply Only.drawn
    | apply OnlyO.next | exact Or.inl rfl | exact Or.inr (by assumption) | apply OnlyMk.intro | simp only [onlyMk]
    | dsimp only | split | intro

theorem Only.mapCopies (s : State) (f : Copy → Copy) (hk : Only fr s0 s) (m_pipes : Part.pipes ∈ fr)
    (m_market : Part.market ∈ fr) : Only fr s0 (mapCopies s f) := by
  unfold Sys2Proof.Machine.mapCopies
  with_reducible repeat' first
    | assumption | exact Or.inl rfl | exact Or.inr (by assumption) | apply OnlyMk.intro | simp only [onlyMk] | dsimp only
    | split | intro

theorem Only.growFrame (s : State) (id rq n : Nat) (hk : Only fr s0 s) (m_regs : Part.regs ∈ fr) (m_owed : Part.owed ∈ fr)
    (m_pipes : Part.pipes ∈ fr) (m_market : Part.market ∈ fr) (m_sched : Part.sched ∈ fr) (m_crier : Part.crier ∈ fr)
    (m_flt : Part.flt ∈ fr) (m_activity : Part.activity ∈ fr) : Only fr s0 (growFrame s id rq n).1 := by
  unfold Sys2Proof.Machine.growFrame
  with_reducible repeat' first
    | assumption | apply Only.takeChain | apply Only.forEach | apply Only.addOcc | apply Only.putFrame | apply Only.mapCopies
    | apply Only.whenB | apply Only.addF21 | apply Only.addIng | exact Or.inl rfl | exact Or.inr (by assumption)
    | apply OnlyMk.intro | simp only [onlyMk] | dsimp only | split | intro

theorem Only.growRecord (s : State) (q id : Nat) (hk : Only fr s0 s) (m_regs : Part.regs ∈ fr)
    (m_freeCtr : Part.freeCtr ∈ fr) (m_owed : Part.owed ∈ fr) (m_lastRaise : Part.lastRaise ∈ fr) (m_market : Part.market ∈ fr)
    (m_spill : Part.spill ∈ fr) (m_sched : Part.sched ∈ fr) (m_telem : Part.telem ∈ fr) (m_crier : Part.crier ∈ fr)
    (m_flt : Part.flt ∈ fr) (m_activity : Part.activity ∈ fr) : Only fr s0 (growRecord s q id) := by
  unfold Sys2Proof.Machine.growRecord
  with_reducible repeat' first
    | assumption | apply Only.forEach | apply Only.setStagingFree | apply Only.spillExit | apply Only.dropSpilled
    | apply Only.setSpq | exact Or.inl rfl | exact Or.inr (by assumption) | apply OnlyMk.intro | simp only [onlyMk]
    | dsimp only | split | intro

theorem Only.dropStaged (s : State) (q id : Nat) (hk : Only fr s0 s) (m_regs : Part.regs ∈ fr)
    (m_freeCtr : Part.freeCtr ∈ fr) (m_owed : Part.owed ∈ fr) (m_lastRaise : Part.lastRaise ∈ fr) (m_market : Part.market ∈ fr)
    (m_spill : Part.spill ∈ fr) (m_sched : Part.sched ∈ fr) (m_telem : Part.telem ∈ fr) (m_crier : Part.crier ∈ fr)
    (m_flt : Part.flt ∈ fr) (m_activity : Part.activity ∈ fr) : Only fr s0 (dropStaged s q id) := by
  unfold Sys2Proof.Machine.dropStaged
  with_reducible repeat' first
    | assumption | apply Only.setSpq | apply Only.setStagingFree | apply Only.spillExit | apply Only.forEach
    | apply Only.dropSpilled | exact Or.inl rfl | exact Or.inr (by assumption) | apply OnlyMk.intro | simp only [onlyMk]
    | dsimp only | split | intro

theorem Only.badFrame (s : State) (id reason : Nat) (hk : Only fr s0 s) (m_regs : Part.regs ∈ fr)
    (m_freeCtr : Part.freeCtr ∈ fr) (m_journal : Part.journal ∈ fr) (m_owed : Part.owed ∈ fr) (m_lastRaise : Part.lastRaise ∈ fr)
    (m_pipes : Part.pipes ∈ fr) (m_market : Part.market ∈ fr) (m_spill : Part.spill ∈ fr) (m_sched : Part.sched ∈ fr)
    (m_telem : Part.telem ∈ fr) (m_crier : Part.crier ∈ fr) (m_flt : Part.flt ∈ fr) (m_activity : Part.activity ∈ fr)
    : Only fr s0 (badFrame s id reason) := by
  unfold Sys2Proof.Machine.badFrame
  with_reducible repeat' first
    | assumption | apply Only.forEach | apply Only.dropStaged | apply Only.loseFrame | apply Only.mapPackets
    | exact Or.inl rfl | exact Or.inr (by assumption) | apply OnlyMk.intro | simp only [onlyMk] | dsimp only | split | intro

theorem Only.countReceived (s : State) (port : Nat) (octs : List Byte) (k : Option Nat) (hk : Only fr s0 s)
    (m_telem : Part.telem ∈ fr) : Only fr s0 (countReceived s port octs k) := by
  unfold Sys2Proof.Machine.countReceived
  with_reducible repeat' first
    | assumption | apply Only.ledgerAdd | exact Or.inl rfl | exact Or.inr (by assumption) | apply OnlyMk.intro
    | simp only [onlyMk] | dsimp only | split | intro

theorem Only.settleLength (s : State) (id n : Nat) (hk : Only fr s0 s) (m_owed : Part.owed ∈ fr) (m_pipes : Part.pipes ∈ fr)
    (m_market : Part.market ∈ fr) (m_sched : Part.sched ∈ fr) (m_telem : Part.telem ∈ fr)
    : Only fr s0 (settleLength s id n) := by
  unfold Sys2Proof.Machine.settleLength
  with_reducible repeat' first
    | assumption | apply Only.forEach | apply Only.ledgerAdd | apply Only.mapCopies | apply Only.foldl | apply Only.foldl1
    | exact Or.inl rfl | exact Or.inr (by assumption) | apply OnlyMk.intro | simp only [onlyMk] | dsimp only | split | intro

theorem Only.appendOctets (s : State) (id : Nat) (more : List Byte) (hk : Only fr s0 s) (m_pipes : Part.pipes ∈ fr)
    (m_market : Part.market ∈ fr) (m_spill : Part.spill ∈ fr) (m_sched : Part.sched ∈ fr)
    : Only fr s0 (appendOctets s id more) := by
  unfold Sys2Proof.Machine.appendOctets
  with_reducible repeat' first
    | assumption | apply Only.mapPackets | apply Only.mapCopies | apply Only.foldl | apply Only.foldl1 | exact Or.inl rfl
    | exact Or.inr (by assumption) | apply OnlyMk.intro | simp only [onlyMk] | dsimp only | split | intro

theorem Only.execFrameTailArrival (frame : Nat) (octets : List Byte) (verdict : TailVerdict) (s : State) (hk : Only fr s0 s)
    (m_regs : Part.regs ∈ fr) (m_freeCtr : Part.freeCtr ∈ fr) (m_journal : Part.journal ∈ fr) (m_owed : Part.owed ∈ fr)
    (m_lastRaise : Part.lastRaise ∈ fr) (m_pipes : Part.pipes ∈ fr) (m_market : Part.market ∈ fr) (m_spill : Part.spill ∈ fr)
    (m_sched : Part.sched ∈ fr) (m_telem : Part.telem ∈ fr) (m_crier : Part.crier ∈ fr) (m_flt : Part.flt ∈ fr)
    (m_activity : Part.activity ∈ fr) : OnlyO fr s0 (execFrameTailArrival frame octets verdict s) := by
  unfold Sys2Proof.Machine.execFrameTailArrival
  with_reducible repeat' first
    | assumption | apply Only.settleLength | apply Only.countReceived | apply Only.growFrame | apply Only.badFrame
    | apply Only.appendOctets | apply Only.forEach | apply Only.growRecord | apply OnlyO.next | exact Or.inl rfl
    | exact Or.inr (by assumption) | apply OnlyMk.intro | simp only [onlyMk] | dsimp only | split | intro

theorem Only.setCtx (s : State) (n i : Nat) (x : Ctx) (hk : Only fr s0 s) (m_pipes : Part.pipes ∈ fr)
    : Only fr s0 (setCtx s n i x) := by
  unfold Sys2Proof.Machine.setCtx
  with_reducible repeat' first
    | assumption | apply Only.setStall | exact Or.inl rfl | exact Or.inr (by assumption) | apply OnlyMk.intro
    | simp only [onlyMk] | dsimp only | split | intro

theorem Only.setStateReg (s : State) (n i : Nat) (v : BitVec 64) (hk : Only fr s0 s) (m_pipes : Part.pipes ∈ fr)
    : Only fr s0 (setStateReg s n i v) := by
  unfold Sys2Proof.Machine.setStateReg
  with_reducible repeat' first
    | assumption | exact Or.inl rfl | exact Or.inr (by assumption) | apply OnlyMk.intro | simp only [onlyMk] | dsimp only
    | split | intro

theorem Only.flushLate (s : State) (n : Nat) (hk : Only fr s0 s) (m_pipes : Part.pipes ∈ fr)
    : Only fr s0 (flushLate s n) := by
  unfold Sys2Proof.Machine.flushLate
  with_reducible repeat' first
    | assumption | apply Only.forEach | apply Only.setStateReg | apply Only.setStall | exact Or.inl rfl
    | exact Or.inr (by assumption) | apply OnlyMk.intro | simp only [onlyMk] | dsimp only | split | intro

theorem Only.flushHost (s : State) (n : Nat) (hk : Only fr s0 s) (m_regs : Part.regs ∈ fr) (m_pipes : Part.pipes ∈ fr)
    : Only fr s0 (flushHost s n) := by
  unfold Sys2Proof.Machine.flushHost
  with_reducible repeat' first
    | assumption | apply Only.flushLate | apply Only.forEach | apply Only.setStateReg | apply Only.setStall
    | apply Only.setBit | exact Or.inl rfl | exact Or.inr (by assumption) | apply OnlyMk.intro | simp only [onlyMk]
    | dsimp only | split | intro

theorem Only.writePort (s : State) (n : Nat) (x : Ctx) (k : Nat) (low : Bool) (v : BitVec 64) (hk : Only fr s0 s)
    (m_pipes : Part.pipes ∈ fr) : Only fr s0 (writePort s n x k low v).1 := by
  unfold Sys2Proof.Machine.writePort
  with_reducible repeat' first
    | assumption | apply Only.setStateReg | exact Or.inl rfl | exact Or.inr (by assumption) | apply OnlyMk.intro
    | simp only [onlyMk] | dsimp only | split | intro

theorem Only.finishCtx (s : State) (n i : Nat) (x : Ctx) (discard : Bool) (hk : Only fr s0 s) (m_regs : Part.regs ∈ fr)
    (m_pipes : Part.pipes ∈ fr) : Only fr s0 (finishCtx s n i x discard) := by
  unfold Sys2Proof.Machine.finishCtx
  with_reducible repeat' first
    | assumption | apply Only.setStall | apply Only.flushHost | apply Only.setCtx | exact Or.inl rfl
    | exact Or.inr (by assumption) | apply OnlyMk.intro | simp only [onlyMk] | dsimp only | split | intro

theorem Only.stallRecord (s : State) (n k space off : Nat) (hk : Only fr s0 s) (m_regs : Part.regs ∈ fr)
    (m_freeCtr : Part.freeCtr ∈ fr) (m_journal : Part.journal ∈ fr) (m_owed : Part.owed ∈ fr) (m_crier : Part.crier ∈ fr)
    (m_flt : Part.flt ∈ fr) : Only fr s0 (stallRecord s n k space off) := by
  unfold Sys2Proof.Machine.stallRecord
  with_reducible repeat' first
    | assumption | apply Only.drawn | apply Only.fault | exact Or.inl rfl | exact Or.inr (by assumption) | apply OnlyMk.intro
    | simp only [onlyMk] | dsimp only | split | intro

theorem Only.stallFault (s : State) (n i : Nat) (x : Ctx) (k space off : Nat) (hk : Only fr s0 s) (m_regs : Part.regs ∈ fr)
    (m_freeCtr : Part.freeCtr ∈ fr) (m_journal : Part.journal ∈ fr) (m_owed : Part.owed ∈ fr) (m_pipes : Part.pipes ∈ fr)
    (m_crier : Part.crier ∈ fr) (m_flt : Part.flt ∈ fr) : Only fr s0 (stallFault s n i x k space off) := by
  unfold Sys2Proof.Machine.stallFault
  with_reducible repeat' first
    | assumption | apply Only.finishCtx | apply Only.stallRecord | apply Only.add64 | exact Or.inl rfl
    | exact Or.inr (by assumption) | apply OnlyMk.intro | simp only [onlyMk] | dsimp only | split | intro

theorem Only.touchEntry (s : State) (t hall : Nat) (e : Entry) (hk : Only fr s0 s) (m_regs : Part.regs ∈ fr)
    (m_tables : Part.tables ∈ fr) : Only fr s0 (touchEntry s t hall e) := by
  unfold Sys2Proof.Machine.touchEntry
  with_reducible repeat' first
    | assumption | apply Only.modEntry | exact Or.inl rfl | exact Or.inr (by assumption) | apply OnlyMk.intro
    | simp only [onlyMk] | dsimp only | split | intro

theorem Only.learnFrom (s v : State) (r : LkReq) (e : Option Entry) (hk : Only fr s0 s) (hk : Only fr s0 v)
    (m_regs : Part.regs ∈ fr) (m_owed : Part.owed ∈ fr) (m_lastRaise : Part.lastRaise ∈ fr) (m_clerk : Part.clerk ∈ fr)
    (m_crier : Part.crier ∈ fr) (m_flt : Part.flt ∈ fr) (m_activity : Part.activity ∈ fr) : Only fr s0 (learnFrom s v r e) := by
  unfold Sys2Proof.Machine.learnFrom
  with_reducible repeat' first
    | assumption | apply Only.learnOffer | exact Or.inl rfl | exact Or.inr (by assumption) | apply OnlyMk.intro
    | simp only [onlyMk] | dsimp only | split | intro

theorem Only.lookupFault (s v : State) (hall : Nat) (r : LkReq) (hk : Only fr s0 s) (hk : Only fr s0 v)
    (m_regs : Part.regs ∈ fr) (m_owed : Part.owed ∈ fr) (m_lastRaise : Part.lastRaise ∈ fr) (m_clerk : Part.clerk ∈ fr)
    (m_crier : Part.crier ∈ fr) (m_flt : Part.flt ∈ fr) (m_activity : Part.activity ∈ fr)
    : Only fr s0 (lookupFault s v hall r).1 := by
  unfold Sys2Proof.Machine.lookupFault
  with_reducible repeat' first
    | assumption | apply Only.add64 | apply Only.learnFrom | exact Or.inl rfl | exact Or.inr (by assumption)
    | apply OnlyMk.intro | simp only [onlyMk] | dsimp only | split | intro

theorem Only.lookupRead (s : State) (p hall : Nat) (r : LkReq) (hk : Only fr s0 s) (m_regs : Part.regs ∈ fr)
    (m_owed : Part.owed ∈ fr) (m_lastRaise : Part.lastRaise ∈ fr) (m_tables : Part.tables ∈ fr) (m_clerk : Part.clerk ∈ fr)
    (m_crier : Part.crier ∈ fr) (m_flt : Part.flt ∈ fr) (m_activity : Part.activity ∈ fr)
    : Only fr s0 (lookupRead s p hall r).1 := by
  unfold Sys2Proof.Machine.lookupRead
  with_reducible repeat' first
    | assumption | apply Only.hallState | apply Only.learnFrom | apply Only.lookupFault | apply Only.pmcEvent
    | apply Only.touchEntry | exact Or.inl rfl | exact Or.inr (by assumption) | apply OnlyMk.intro | simp only [onlyMk]
    | dsimp only | split | intro

theorem Only.runLookup (s : State) (p hall : Nat) (r : LkReq) (err : Option (Nat × Bool)) (hk : Only fr s0 s)
    (m_regs : Part.regs ∈ fr) (m_freeCtr : Part.freeCtr ∈ fr) (m_journal : Part.journal ∈ fr) (m_owed : Part.owed ∈ fr)
    (m_lastRaise : Part.lastRaise ∈ fr) (m_tables : Part.tables ∈ fr) (m_clerk : Part.clerk ∈ fr) (m_crier : Part.crier ∈ fr)
    (m_flt : Part.flt ∈ fr) (m_activity : Part.activity ∈ fr) : Only fr s0 (runLookup s p hall r err).1 := by
  unfold Sys2Proof.Machine.runLookup
  with_reducible repeat' first
    | assumption | apply Only.hallAdvance | apply Only.pmcEvent | apply Only.hallState | apply Only.add64
    | apply Only.lookupFault | apply Only.drawn | apply Only.rowError | apply Only.lookupRead | apply Only.rowCorrected
    | exact Or.inl rfl | exact Or.inr (by assumption) | apply OnlyMk.intro | simp only [onlyMk] | dsimp only | split | intro

theorem Only.execLookupResult (stall ctx slot : Nat) (err : Option (Nat × Bool)) (s : State) (hk : Only fr s0 s)
    (m_regs : Part.regs ∈ fr) (m_freeCtr : Part.freeCtr ∈ fr) (m_journal : Part.journal ∈ fr) (m_owed : Part.owed ∈ fr)
    (m_lastRaise : Part.lastRaise ∈ fr) (m_pipes : Part.pipes ∈ fr) (m_tables : Part.tables ∈ fr) (m_clerk : Part.clerk ∈ fr)
    (m_crier : Part.crier ∈ fr) (m_flt : Part.flt ∈ fr) (m_activity : Part.activity ∈ fr)
    : OnlyO fr s0 (execLookupResult stall ctx slot err s) := by
  unfold Sys2Proof.Machine.execLookupResult
  with_reducible repeat' first
    | assumption | apply Only.runLookup | apply Only.setCtx | apply OnlyO.next | exact Or.inl rfl
    | exact Or.inr (by assumption) | apply OnlyMk.intro | simp only [onlyMk] | dsimp only | split | intro

theorem Only.startMeter (s : State) (n : Nat) (x : Ctx) (idx : Nat) (c : Option Nat) (hk : Only fr s0 s)
    (m_pipes : Part.pipes ∈ fr) : Only fr s0 (startMeter s n x idx c).1 := by
  unfold Sys2Proof.Machine.startMeter
  with_reducible repeat' first
    | assumption | exact Or.inl rfl | exact Or.inr (by assumption) | apply OnlyMk.intro | simp only [onlyMk] | dsimp only
    | split | intro

theorem Only.execMeterColour (stall ctx : Nat) (s : State) (hk : Only fr s0 s) (m_regs : Part.regs ∈ fr)
    (m_pipes : Part.pipes ∈ fr) : OnlyO fr s0 (execMeterColour stall ctx s) := by
  unfold Sys2Proof.Machine.execMeterColour
  with_reducible repeat' first
    | assumption | apply Only.finishCtx | apply Only.setCtx | apply OnlyO.next | exact Or.inl rfl
    | exact Or.inr (by assumption) | apply OnlyMk.intro | simp only [onlyMk] | dsimp only | split | intro

theorem Only.runCnt (s : State) (n : Nat) (x : Ctx) (v w : Nat) (x' : Ctx) (hk : Only fr s0 s) (m_owed : Part.owed ∈ fr)
    (m_pipes : Part.pipes ∈ fr) (m_telem : Part.telem ∈ fr) : Only fr s0 (runCnt s n x v w x').1 := by
  unfold Sys2Proof.Machine.runCnt
  with_reducible repeat' first
    | assumption | apply Only.ledgerPacket | apply Only.startMeter | exact Or.inl rfl | exact Or.inr (by assumption)
    | apply OnlyMk.intro | simp only [onlyMk] | dsimp only | split | intro

theorem Only.runPorts (s : State) (n i : Nat) (k : Writes) (x : Ctx) (hk : Only fr s0 s) (m_pipes : Part.pipes ∈ fr)
    : Only fr s0 (runPorts s n i k x).1 := by
  unfold Sys2Proof.Machine.runPorts
  with_reducible repeat' first
    | assumption | apply Only.writePort | apply Only.foldl | apply Only.foldl1 | exact Or.inl rfl
    | exact Or.inr (by assumption) | apply OnlyMk.intro | simp only [onlyMk] | dsimp only | split | intro

theorem Only.afterWord (s : State) (n i : Nat) (x : Ctx) (a : Nat) (nxt : Option Nat) (hk : Only fr s0 s)
    (m_regs : Part.regs ∈ fr) (m_freeCtr : Part.freeCtr ∈ fr) (m_journal : Part.journal ∈ fr) (m_owed : Part.owed ∈ fr)
    (m_pipes : Part.pipes ∈ fr) (m_crier : Part.crier ∈ fr) (m_flt : Part.flt ∈ fr) : Only fr s0 (afterWord s n i x a nxt) := by
  unfold Sys2Proof.Machine.afterWord
  with_reducible repeat' first
    | assumption | apply Only.finishCtx | apply Only.stallFault | apply Only.flushHost | apply Only.setCtx | exact Or.inl rfl
    | exact Or.inr (by assumption) | apply OnlyMk.intro | simp only [onlyMk] | dsimp only | split | intro

theorem Only.issueWord (s : State) (n i : Nat) (x : Ctx) (a w : Nat) (hk : Only fr s0 s) (m_regs : Part.regs ∈ fr)
    (m_freeCtr : Part.freeCtr ∈ fr) (m_journal : Part.journal ∈ fr) (m_owed : Part.owed ∈ fr) (m_pipes : Part.pipes ∈ fr)
    (m_tables : Part.tables ∈ fr) (m_telem : Part.telem ∈ fr) (m_crier : Part.crier ∈ fr) (m_flt : Part.flt ∈ fr)
    (m_activity : Part.activity ∈ fr) : Only fr s0 (issueWord s n i x a w) := by
  unfold Sys2Proof.Machine.issueWord
  with_reducible repeat' first
    | assumption | apply Only.runCnt | apply Only.runPorts | apply Only.pmcEvent | apply Only.whenB | apply Only.afterWord
    | exact Or.inl rfl | exact Or.inr (by assumption) | apply OnlyMk.intro | simp only [onlyMk] | dsimp only | split | intro

theorem Only.takeWord (s : State) (n i : Nat) (x : Ctx) (hk : Only fr s0 s) (m_regs : Part.regs ∈ fr)
    (m_freeCtr : Part.freeCtr ∈ fr) (m_journal : Part.journal ∈ fr) (m_owed : Part.owed ∈ fr) (m_pipes : Part.pipes ∈ fr)
    (m_tables : Part.tables ∈ fr) (m_telem : Part.telem ∈ fr) (m_crier : Part.crier ∈ fr) (m_flt : Part.flt ∈ fr)
    (m_activity : Part.activity ∈ fr) : Only fr s0 (takeWord s n i x) := by
  unfold Sys2Proof.Machine.takeWord
  with_reducible repeat' first
    | assumption | apply Only.stallFault | apply Only.issueWord | exact Or.inl rfl | exact Or.inr (by assumption)
    | apply OnlyMk.intro | simp only [onlyMk] | dsimp only | split | intro

theorem Only.parityFail (s : State) (n : Nat) (x : Ctx) (backingBad : Bool) (hk : Only fr s0 s) (m_pipes : Part.pipes ∈ fr)
    : Only fr s0 (parityFail s n x backingBad) := by
  unfold Sys2Proof.Machine.parityFail
  with_reducible repeat' first
    | assumption | apply Only.setStall | exact Or.inl rfl | exact Or.inr (by assumption) | apply OnlyMk.intro
    | simp only [onlyMk] | dsimp only | split | intro

theorem Only.constError (s : State) (n : Nat) (x : Ctx) (k : Nat) (uncorr : Bool) (hk : Only fr s0 s)
    (m_regs : Part.regs ∈ fr) (m_freeCtr : Part.freeCtr ∈ fr) (m_journal : Part.journal ∈ fr) (m_owed : Part.owed ∈ fr)
    (m_pipes : Part.pipes ∈ fr) (m_crier : Part.crier ∈ fr) (m_flt : Part.flt ∈ fr)
    : Only fr s0 (constError s n x k uncorr) := by
  unfold Sys2Proof.Machine.constError
  with_reducible repeat' first
    | assumption | apply Only.satF | apply Only.stallRecord | exact Or.inl rfl | exact Or.inr (by assumption)
    | apply OnlyMk.intro | simp only [onlyMk] | dsimp only | split | intro

theorem Only.constSeen (s : State) (n : Nat) (x : Ctx) (constErr : Option (Nat × Bool)) (hk : Only fr s0 s)
    (m_regs : Part.regs ∈ fr) (m_freeCtr : Part.freeCtr ∈ fr) (m_journal : Part.journal ∈ fr) (m_owed : Part.owed ∈ fr)
    (m_pipes : Part.pipes ∈ fr) (m_crier : Part.crier ∈ fr) (m_flt : Part.flt ∈ fr) : Only fr s0 (constSeen s n x constErr) := by
  unfold Sys2Proof.Machine.constSeen
  with_reducible repeat' first
    | assumption | apply Only.constError | exact Or.inl rfl | exact Or.inr (by assumption) | apply OnlyMk.intro
    | simp only [onlyMk] | dsimp only | split | intro

theorem Only.readWord (s : State) (n i : Nat) (x : Ctx) (parityBad backingBad : Bool) (constErr : Option (Nat × Bool))
    (hk : Only fr s0 s) (m_regs : Part.regs ∈ fr) (m_freeCtr : Part.freeCtr ∈ fr) (m_journal : Part.journal ∈ fr)
    (m_owed : Part.owed ∈ fr) (m_pipes : Part.pipes ∈ fr) (m_tables : Part.tables ∈ fr) (m_telem : Part.telem ∈ fr)
    (m_crier : Part.crier ∈ fr) (m_flt : Part.flt ∈ fr) (m_activity : Part.activity ∈ fr)
    : Only fr s0 (readWord s n i x parityBad backingBad constErr) := by
  unfold Sys2Proof.Machine.readWord
  with_reducible repeat' first
    | assumption | apply Only.parityFail | apply Only.takeWord | apply Only.constSeen | exact Or.inl rfl
    | exact Or.inr (by assumption) | apply OnlyMk.intro | simp only [onlyMk] | dsimp only | split | intro

theorem Only.execStallWordIssue (stall ctx : Nat) (parityBad backingBad : Bool) (constErr : Option (Nat × Bool)) (s : State)
    (hk : Only fr s0 s) (m_regs : Part.regs ∈ fr) (m_freeCtr : Part.freeCtr ∈ fr) (m_journal : Part.journal ∈ fr)
    (m_owed : Part.owed ∈ fr) (m_pipes : Part.pipes ∈ fr) (m_tables : Part.tables ∈ fr) (m_telem : Part.telem ∈ fr)
    (m_crier : Part.crier ∈ fr) (m_flt : Part.flt ∈ fr) (m_activity : Part.activity ∈ fr)
    : OnlyO fr s0 (execStallWordIssue stall ctx parityBad backingBad constErr s) := by
  unfold Sys2Proof.Machine.execStallWordIssue
  with_reducible repeat' first
    | assumption | apply Only.readWord | apply OnlyO.next | exact Or.inl rfl | exact Or.inr (by assumption)
    | apply OnlyMk.intro | simp only [onlyMk] | dsimp only | split | intro

theorem Only.execWaitTimeout (stall ctx : Nat) (s : State) (hk : Only fr s0 s) (m_regs : Part.regs ∈ fr)
    (m_freeCtr : Part.freeCtr ∈ fr) (m_journal : Part.journal ∈ fr) (m_owed : Part.owed ∈ fr) (m_pipes : Part.pipes ∈ fr)
    (m_crier : Part.crier ∈ fr) (m_flt : Part.flt ∈ fr) : OnlyO fr s0 (execWaitTimeout stall ctx s) := by
  unfold Sys2Proof.Machine.execWaitTimeout
  with_reducible repeat' first
    | assumption | apply Only.stallFault | apply OnlyO.next | exact Or.inl rfl | exact Or.inr (by assumption)
    | apply OnlyMk.intro | simp only [onlyMk] | dsimp only | split | intro

theorem Only.grantLock (s : State) (n : Nat) (x : Ctx) (idx : Nat) (hk : Only fr s0 s) (m_pipes : Part.pipes ∈ fr)
    : Only fr s0 (grantLock s n x idx).1 := by
  unfold Sys2Proof.Machine.grantLock
  with_reducible repeat' first
    | assumption | apply Only.writePort | apply Only.foldl | apply Only.foldl1 | exact Or.inl rfl
    | exact Or.inr (by assumption) | apply OnlyMk.intro | simp only [onlyMk] | dsimp only | split | intro

theorem Only.execStatefulLockGrant (stall ctx port : Nat) (s : State) (hk : Only fr s0 s) (m_regs : Part.regs ∈ fr)
    (m_pipes : Part.pipes ∈ fr) : OnlyO fr s0 (execStatefulLockGrant stall ctx port s) := by
  unfold Sys2Proof.Machine.execStatefulLockGrant
  with_reducible repeat' first
    | assumption | apply Only.grantLock | apply Only.flushHost | apply Only.setCtx | apply OnlyO.next | exact Or.inl rfl
    | exact Or.inr (by assumption) | apply OnlyMk.intro | simp only [onlyMk] | dsimp only | split | intro

theorem Only.execStatefulReadData (stall ctx port : Nat) (s : State) (hk : Only fr s0 s) (m_pipes : Part.pipes ∈ fr)
    : OnlyO fr s0 (execStatefulReadData stall ctx port s) := by
  unfold Sys2Proof.Machine.execStatefulReadData
  with_reducible repeat' first
    | assumption | apply Only.setCtx | apply OnlyO.next | exact Or.inl rfl | exact Or.inr (by assumption)
    | apply OnlyMk.intro | simp only [onlyMk] | dsimp only | split | intro

theorem Only.execStallAdmit (stall : Nat) (s : State) (hk : Only fr s0 s) (m_regs : Part.regs ∈ fr) (m_owed : Part.owed ∈ fr)
    (m_pipes : Part.pipes ∈ fr) (m_crier : Part.crier ∈ fr) (m_flt : Part.flt ∈ fr) (m_activity : Part.activity ∈ fr)
    : OnlyO fr s0 (execStallAdmit stall s) := by
  unfold Sys2Proof.Machine.execStallAdmit
  with_reducible repeat' first
    | assumption | apply Only.setStall | apply Only.pmcEvent | apply OnlyO.next | exact Or.inl rfl
    | exact Or.inr (by assumption) | apply OnlyMk.intro | simp only [onlyMk] | dsimp only | split | intro

theorem Only.leaveLast (s : State) (n : Nat) (x : Ctx) (hk : Only fr s0 s) (m_pipes : Part.pipes ∈ fr)
    : Only fr s0 (leaveLast s n x) := by
  unfold Sys2Proof.Machine.leaveLast
  with_reducible repeat' first
    | assumption | exact Or.inl rfl | exact Or.inr (by assumption) | apply OnlyMk.intro | simp only [onlyMk] | dsimp only
    | split | intro

theorem Only.execStallDepart (stall : Nat) (s : State) (hk : Only fr s0 s) (m_regs : Part.regs ∈ fr)
    (m_pipes : Part.pipes ∈ fr) : OnlyO fr s0 (execStallDepart stall s) := by
  unfold Sys2Proof.Machine.execStallDepart
  with_reducible repeat' first
    | assumption | apply Only.flushHost | apply Only.setStall | apply Only.leaveLast | apply Only.passOn | apply OnlyO.next
    | exact Or.inl rfl | exact Or.inr (by assumption) | apply OnlyMk.intro | simp only [onlyMk] | dsimp only | split | intro

theorem Only.endReload (s : State) (n : Nat) (r : Nat × Nat × Bool) (hk : Only fr s0 s) (m_regs : Part.regs ∈ fr)
    (m_freeCtr : Part.freeCtr ∈ fr) (m_journal : Part.journal ∈ fr) (m_owed : Part.owed ∈ fr) (m_pipes : Part.pipes ∈ fr)
    (m_crier : Part.crier ∈ fr) (m_flt : Part.flt ∈ fr) : Only fr s0 (endReload s n r) := by
  unfold Sys2Proof.Machine.endReload
  with_reducible repeat' first
    | assumption | apply Only.satF | apply Only.stallRecord | apply Only.raise | exact Or.inl rfl
    | exact Or.inr (by assumption) | apply OnlyMk.intro | simp only [onlyMk] | dsimp only | split | intro

theorem Only.execParityReloadDone (stall : Nat) (s : State) (hk : Only fr s0 s) (m_regs : Part.regs ∈ fr)
    (m_freeCtr : Part.freeCtr ∈ fr) (m_journal : Part.journal ∈ fr) (m_owed : Part.owed ∈ fr) (m_pipes : Part.pipes ∈ fr)
    (m_crier : Part.crier ∈ fr) (m_flt : Part.flt ∈ fr) : OnlyO fr s0 (execParityReloadDone stall s) := by
  unfold Sys2Proof.Machine.execParityReloadDone
  with_reducible repeat' first
    | assumption | apply Only.forEach | apply Only.endReload | apply Only.setStall | apply Only.stallFault | apply OnlyO.next
    | exact Or.inl rfl | exact Or.inr (by assumption) | apply OnlyMk.intro | simp only [onlyMk] | dsimp only | split | intro

theorem Only.execPipeQuiesce (p : Nat) (s : State) (hk : Only fr s0 s) (m_regs : Part.regs ∈ fr) (m_top : Part.top ∈ fr)
    : OnlyO fr s0 (execPipeQuiesce p s) := by
  unfold Sys2Proof.Machine.execPipeQuiesce
  with_reducible repeat' first
    | assumption | apply Only.holdWrite | apply Only.setBit | apply OnlyO.next | exact Or.inl rfl
    | exact Or.inr (by assumption) | apply OnlyMk.intro | simp only [onlyMk] | dsimp only | split | intro

theorem Only.execQuiesced (p : Nat) (s : State) (hk : Only fr s0 s) (m_regs : Part.regs ∈ fr) (m_owed : Part.owed ∈ fr)
    (m_crier : Part.crier ∈ fr) (m_flt : Part.flt ∈ fr) : OnlyO fr s0 (execQuiesced p s) := by
  unfold Sys2Proof.Machine.execQuiesced
  with_reducible repeat' first
    | assumption | apply Only.raise | apply Only.setBit | apply OnlyO.next | exact Or.inl rfl | exact Or.inr (by assumption)
    | apply OnlyMk.intro | simp only [onlyMk] | dsimp only | split | intro

theorem Only.stepWord (stall : Nat) (parityBad backingBad : Bool) (constErr : Option (Nat × Bool)) (s : State)
    (hk : Only fr s0 s) (m_regs : Part.regs ∈ fr) (m_freeCtr : Part.freeCtr ∈ fr) (m_journal : Part.journal ∈ fr)
    (m_owed : Part.owed ∈ fr) (m_pipes : Part.pipes ∈ fr) (m_tables : Part.tables ∈ fr) (m_telem : Part.telem ∈ fr)
    (m_crier : Part.crier ∈ fr) (m_flt : Part.flt ∈ fr) (m_activity : Part.activity ∈ fr)
    : Only fr s0 (stepWord stall parityBad backingBad constErr s) := by
  unfold Sys2Proof.Machine.stepWord
  with_reducible repeat' first
    | assumption | apply Only.readWord | exact Or.inl rfl | exact Or.inr (by assumption) | apply OnlyMk.intro
    | simp only [onlyMk] | dsimp only | split | intro

theorem Only.stallCtrl (stall : Nat) (v : Word) (parityBad backingBad : Bool) (constErr : Option (Nat × Bool)) (s : State)
    (hk : Only fr s0 s) (m_regs : Part.regs ∈ fr) (m_freeCtr : Part.freeCtr ∈ fr) (m_journal : Part.journal ∈ fr)
    (m_owed : Part.owed ∈ fr) (m_top : Part.top ∈ fr) (m_pipes : Part.pipes ∈ fr) (m_tables : Part.tables ∈ fr)
    (m_telem : Part.telem ∈ fr) (m_crier : Part.crier ∈ fr) (m_flt : Part.flt ∈ fr) (m_activity : Part.activity ∈ fr)
    : Only fr s0 (stallCtrl stall v parityBad backingBad constErr s) := by
  unfold Sys2Proof.Machine.stallCtrl
  with_reducible repeat' first
    | assumption | apply Only.holdWrite | apply Only.setBit | apply Only.stepWord | exact Or.inl rfl
    | exact Or.inr (by assumption) | apply OnlyMk.intro | simp only [onlyMk] | dsimp only | split | intro

theorem Only.execStallHalt (stall : Nat) (halt : Bool) (s : State) (hk : Only fr s0 s) (m_regs : Part.regs ∈ fr)
    (m_freeCtr : Part.freeCtr ∈ fr) (m_journal : Part.journal ∈ fr) (m_owed : Part.owed ∈ fr) (m_top : Part.top ∈ fr)
    (m_pipes : Part.pipes ∈ fr) (m_tables : Part.tables ∈ fr) (m_telem : Part.telem ∈ fr) (m_crier : Part.crier ∈ fr)
    (m_flt : Part.flt ∈ fr) (m_activity : Part.activity ∈ fr) : OnlyO fr s0 (execStallHalt stall halt s) := by
  unfold Sys2Proof.Machine.execStallHalt
  with_reducible repeat' first
    | assumption | apply Only.stallCtrl | apply OnlyO.next | exact Or.inl rfl | exact Or.inr (by assumption)
    | apply OnlyMk.intro | simp only [onlyMk] | dsimp only | split | intro

theorem Only.execStallStep (stall : Nat) (parityBad backingBad : Bool) (constErr : Option (Nat × Bool)) (s : State)
    (hk : Only fr s0 s) (m_regs : Part.regs ∈ fr) (m_freeCtr : Part.freeCtr ∈ fr) (m_journal : Part.journal ∈ fr)
    (m_owed : Part.owed ∈ fr) (m_top : Part.top ∈ fr) (m_pipes : Part.pipes ∈ fr) (m_tables : Part.tables ∈ fr)
    (m_telem : Part.telem ∈ fr) (m_crier : Part.crier ∈ fr) (m_flt : Part.flt ∈ fr) (m_activity : Part.activity ∈ fr)
    : OnlyO fr s0 (execStallStep stall parityBad backingBad constErr s) := by
  unfold Sys2Proof.Machine.execStallStep
  with_reducible repeat' first
    | assumption | apply Only.stallCtrl | apply OnlyO.next | exact Or.inl rfl | exact Or.inr (by assumption)
    | apply OnlyMk.intro | simp only [onlyMk] | dsimp only | split | intro

theorem Only.stateAddr (s : State) (n : Nat) (v : Word) (hk : Only fr s0 s) (m_regs : Part.regs ∈ fr)
    : Only fr s0 (stateAddr s n v) := by
  unfold Sys2Proof.Machine.stateAddr
  with_reducible repeat' first
    | assumption | apply Only.setF | exact Or.inl rfl | exact Or.inr (by assumption) | apply OnlyMk.intro
    | simp only [onlyMk] | dsimp only | split | intro

theorem Only.execStateRead (stall : Nat) (value : Word) (s : State) (hk : Only fr s0 s) (m_regs : Part.regs ∈ fr)
    (m_top : Part.top ∈ fr) : OnlyO fr s0 (execStateRead stall value s) := by
  unfold Sys2Proof.Machine.execStateRead
  with_reducible repeat' first
    | assumption | apply Only.holdWrite | apply Only.setReg64 | apply Only.stateAddr | apply OnlyO.next | exact Or.inl rfl
    | exact Or.inr (by assumption) | apply OnlyMk.intro | simp only [onlyMk] | dsimp only | split | intro

theorem Only.execStateWrite (stall : Nat) (value : Word) (s : State) (hk : Only fr s0 s) (m_regs : Part.regs ∈ fr)
    (m_top : Part.top ∈ fr) (m_pipes : Part.pipes ∈ fr) : OnlyO fr s0 (execStateWrite stall value s) := by
  unfold Sys2Proof.Machine.execStateWrite
  with_reducible repeat' first
    | assumption | apply Only.holdWrite | apply Only.stateAddr | apply Only.setBit | apply Only.setStall
    | apply Only.setStateReg | apply OnlyO.next | exact Or.inl rfl | exact Or.inr (by assumption) | apply OnlyMk.intro
    | simp only [onlyMk] | dsimp only | split | intro

theorem Only.execMeterRead (stall : Nat) (value : Word) (s : State) (hk : Only fr s0 s) (m_regs : Part.regs ∈ fr)
    (m_top : Part.top ∈ fr) : OnlyO fr s0 (execMeterRead stall value s) := by
  unfold Sys2Proof.Machine.execMeterRead
  with_reducible repeat' first
    | assumption | apply Only.holdWrite | apply Only.setF | apply Only.forEach | apply Only.setReg | apply OnlyO.next
    | exact Or.inl rfl | exact Or.inr (by assumption) | apply OnlyMk.intro | simp only [onlyMk] | dsimp only | split | intro

theorem Only.execMeterWrite (stall : Nat) (value : Word) (s : State) (hk : Only fr s0 s) (m_regs : Part.regs ∈ fr)
    (m_top : Part.top ∈ fr) (m_pipes : Part.pipes ∈ fr) : OnlyO fr s0 (execMeterWrite stall value s) := by
  unfold Sys2Proof.Machine.execMeterWrite
  with_reducible repeat' first
    | assumption | apply Only.holdWrite | apply Only.setF | apply Only.setBit | apply OnlyO.next | exact Or.inl rfl
    | exact Or.inr (by assumption) | apply OnlyMk.intro | simp only [onlyMk] | dsimp only | split | intro

theorem Only.dropFlight (s : State) (reason : Nat) (f : Flight) (hk : Only fr s0 s) (m_regs : Part.regs ∈ fr)
    (m_freeCtr : Part.freeCtr ∈ fr) (m_journal : Part.journal ∈ fr) (m_owed : Part.owed ∈ fr) (m_lastRaise : Part.lastRaise ∈ fr)
    (m_market : Part.market ∈ fr) (m_spill : Part.spill ∈ fr) (m_sched : Part.sched ∈ fr) (m_telem : Part.telem ∈ fr)
    (m_crier : Part.crier ∈ fr) (m_flt : Part.flt ∈ fr) (m_activity : Part.activity ∈ fr)
    : Only fr s0 (dropFlight s reason f) := by
  unfold Sys2Proof.Machine.dropFlight
  with_reducible repeat' first
    | assumption | apply Only.dropDequeued | apply Only.dropPacket | exact Or.inl rfl | exact Or.inr (by assumption)
    | apply OnlyMk.intro | simp only [onlyMk] | dsimp only | split | intro

theorem Only.dropInStall (old : Packet → Bool) (reason : Nat) (s : State) (n : Nat) (hk : Only fr s0 s)
    (m_regs : Part.regs ∈ fr) (m_freeCtr : Part.freeCtr ∈ fr) (m_journal : Part.journal ∈ fr) (m_owed : Part.owed ∈ fr)
    (m_lastRaise : Part.lastRaise ∈ fr) (m_pipes : Part.pipes ∈ fr) (m_market : Part.market ∈ fr) (m_spill : Part.spill ∈ fr)
    (m_sched : Part.sched ∈ fr) (m_telem : Part.telem ∈ fr) (m_crier : Part.crier ∈ fr) (m_flt : Part.flt ∈ fr)
    (m_activity : Part.activity ∈ fr) : Only fr s0 (dropInStall old reason s n) := by
  unfold Sys2Proof.Machine.dropInStall
  with_reducible repeat' first
    | assumption | apply Only.setStall | apply Only.flushHost | apply Only.forEach | apply Only.dropFlight | exact Or.inl rfl
    | exact Or.inr (by assumption) | apply OnlyMk.intro | simp only [onlyMk] | dsimp only | split | intro

theorem Only.dropInPipe (old : Packet → Bool) (reason : Nat) (s : State) (p : Nat) (hk : Only fr s0 s)
    (m_regs : Part.regs ∈ fr) (m_freeCtr : Part.freeCtr ∈ fr) (m_journal : Part.journal ∈ fr) (m_owed : Part.owed ∈ fr)
    (m_lastRaise : Part.lastRaise ∈ fr) (m_pipes : Part.pipes ∈ fr) (m_market : Part.market ∈ fr) (m_spill : Part.spill ∈ fr)
    (m_sched : Part.sched ∈ fr) (m_telem : Part.telem ∈ fr) (m_crier : Part.crier ∈ fr) (m_flt : Part.flt ∈ fr)
    (m_activity : Part.activity ∈ fr) : Only fr s0 (dropInPipe old reason s p) := by
  unfold Sys2Proof.Machine.dropInPipe
  lift_lets
  intro n g s1
  have h1 : Only fr s0 s1 := by
    with_reducible repeat' first | assumption | apply Only.forEach | apply Only.dropInStall | intro
  clear_value s1
  split
  all_goals with_reducible repeat' first
    | assumption | apply Only.forEach | apply Only.dropPacket | apply Only.dropDequeued
    | exact Or.inl rfl | exact Or.inr (by assumption) | apply OnlyMk.intro | simp only [onlyMk] | dsimp only | split | intro

theorem Only.execDrainForce (d : Dom) (s : State) (hk : Only fr s0 s) (m_regs : Part.regs ∈ fr)
    (m_freeCtr : Part.freeCtr ∈ fr) (m_journal : Part.journal ∈ fr) (m_owed : Part.owed ∈ fr) (m_lastRaise : Part.lastRaise ∈ fr)
    (m_pipes : Part.pipes ∈ fr) (m_market : Part.market ∈ fr) (m_spill : Part.spill ∈ fr) (m_sched : Part.sched ∈ fr)
    (m_telem : Part.telem ∈ fr) (m_crier : Part.crier ∈ fr) (m_flt : Part.flt ∈ fr) (m_activity : Part.activity ∈ fr)
    : OnlyO fr s0 (execDrainForce d s) := by
  unfold Sys2Proof.Machine.execDrainForce
  with_reducible repeat' first
    | assumption | apply Only.forEach | apply Only.dropInPipe | apply Only.raise | apply Only.setBit | apply OnlyO.next
    | exact Or.inl rfl | exact Or.inr (by assumption) | apply OnlyMk.intro | simp only [onlyMk] | dsimp only | split | intro

theorem Only.editFault (s : State) (c : Copy) (hk : Only fr s0 s) (m_regs : Part.regs ∈ fr) (m_freeCtr : Part.freeCtr ∈ fr)
    (m_journal : Part.journal ∈ fr) (m_owed : Part.owed ∈ fr) (m_lastRaise : Part.lastRaise ∈ fr) (m_market : Part.market ∈ fr)
    (m_spill : Part.spill ∈ fr) (m_sched : Part.sched ∈ fr) (m_telem : Part.telem ∈ fr) (m_crier : Part.crier ∈ fr)
    (m_flt : Part.flt ∈ fr) (m_activity : Part.activity ∈ fr) : Only fr s0 (editFault s c) := by
  unfold Sys2Proof.Machine.editFault
  with_reducible repeat' first
    | assumption | apply Only.dropDequeued | apply Only.raise | apply Only.add64 | exact Or.inl rfl
    | exact Or.inr (by assumption) | apply OnlyMk.intro | simp only [onlyMk] | dsimp only | split | intro

theorem Only.execEditor (g : Nat) (s : State) (hk : Only fr s0 s) (m_regs : Part.regs ∈ fr) (m_freeCtr : Part.freeCtr ∈ fr)
    (m_journal : Part.journal ∈ fr) (m_owed : Part.owed ∈ fr) (m_lastRaise : Part.lastRaise ∈ fr) (m_pipes : Part.pipes ∈ fr)
    (m_market : Part.market ∈ fr) (m_spill : Part.spill ∈ fr) (m_sched : Part.sched ∈ fr) (m_telem : Part.telem ∈ fr)
    (m_crier : Part.crier ∈ fr) (m_flt : Part.flt ∈ fr) (m_activity : Part.activity ∈ fr) : OnlyO fr s0 (execEditor g s) := by
  unfold Sys2Proof.Machine.execEditor
  with_reducible repeat' first
    | assumption | apply Only.dropDequeued | apply Only.editFault | apply Only.forEach | apply Only.addTal
    | apply Only.raiseLimited | apply Only.drawn | apply OnlyO.next | exact Or.inl rfl | exact Or.inr (by assumption)
    | apply OnlyMk.intro | simp only [onlyMk] | dsimp only | split | intro

theorem Only.ptpReport (s : State) (c : Copy) (stamp : Nat) (hk : Only fr s0 s) (m_regs : Part.regs ∈ fr)
    (m_owed : Part.owed ∈ fr) (m_lastRaise : Part.lastRaise ∈ fr) (m_hif : Part.hif ∈ fr) (m_crier : Part.crier ∈ fr)
    (m_flt : Part.flt ∈ fr) : Only fr s0 (ptpReport s c stamp) := by
  unfold Sys2Proof.Machine.ptpReport
  with_reducible repeat' first
    | assumption | apply Only.raiseLimited | apply Only.add64 | apply Only.notify | exact Or.inl rfl
    | exact Or.inr (by assumption) | apply OnlyMk.intro | simp only [onlyMk] | dsimp only | split | intro

theorem Only.tailFault (s : State) (p : Nat) (hk : Only fr s0 s) (m_regs : Part.regs ∈ fr) (m_journal : Part.journal ∈ fr)
    (m_owed : Part.owed ∈ fr) (m_crier : Part.crier ∈ fr) (m_flt : Part.flt ∈ fr) : Only fr s0 (tailFault s p) := by
  unfold Sys2Proof.Machine.tailFault
  with_reducible repeat' first
    | assumption | apply Only.fault | apply Only.add64 | exact Or.inl rfl | exact Or.inr (by assumption) | apply OnlyMk.intro
    | simp only [onlyMk] | dsimp only | split | intro

theorem Only.mirrorCopies (s : State) (p : Packet) (hk : Only fr s0 s) (m_market : Part.market ∈ fr)
    : Only fr s0 (mirrorCopies s p).1 := by
  unfold Sys2Proof.Machine.mirrorCopies
  with_reducible repeat' first
    | assumption | apply Only.sessionTakes | apply Only.foldl | apply Only.foldl1 | exact Or.inl rfl
    | exact Or.inr (by assumption) | apply OnlyMk.intro | simp only [onlyMk] | dsimp only | split | intro

theorem Only.evictFlow (s : State) (k : Nat) (hk : Only fr s0 s) (m_regs : Part.regs ∈ fr) (m_owed : Part.owed ∈ fr)
    (m_lastRaise : Part.lastRaise ∈ fr) (m_telem : Part.telem ∈ fr) (m_crier : Part.crier ∈ fr) (m_flt : Part.flt ∈ fr)
    : Only fr s0 (evictFlow s k) := by
  unfold Sys2Proof.Machine.evictFlow
  with_reducible repeat' first
    | assumption | apply Only.exportHand | exact Or.inl rfl | exact Or.inr (by assumption) | apply OnlyMk.intro
    | simp only [onlyMk] | dsimp only | split | intro

theorem Only.putFlow (s : State) (k : Nat) (f : Flow) (p : Packet) (dropped : Option Nat) (hk : Only fr s0 s)
    (m_telem : Part.telem ∈ fr) : Only fr s0 (putFlow s k f p dropped) := by
  unfold Sys2Proof.Machine.putFlow
  with_reducible repeat' first
    | assumption | exact Or.inl rfl | exact Or.inr (by assumption) | apply OnlyMk.intro | simp only [onlyMk] | dsimp only
    | split | intro

theorem Only.flowTake (s : State) (g : Nat) (p : Packet) (dropped : Option Nat) (hk : Only fr s0 s) (m_regs : Part.regs ∈ fr)
    (m_freeCtr : Part.freeCtr ∈ fr) (m_owed : Part.owed ∈ fr) (m_lastRaise : Part.lastRaise ∈ fr) (m_telem : Part.telem ∈ fr)
    (m_crier : Part.crier ∈ fr) (m_flt : Part.flt ∈ fr) : Only fr s0 (flowTake s g p dropped) := by
  unfold Sys2Proof.Machine.flowTake
  with_reducible repeat' first
    | assumption | apply Only.drawn | apply Only.putFlow | apply Only.evictFlow | exact Or.inl rfl
    | exact Or.inr (by assumption) | apply OnlyMk.intro | simp only [onlyMk] | dsimp only | split | intro

theorem Only.frameCopies (s : State) (g : Nat) (p : Packet) (hk : Only fr s0 s) (m_regs : Part.regs ∈ fr)
    (m_freeCtr : Part.freeCtr ∈ fr) (m_tables : Part.tables ∈ fr) (m_clerk : Part.clerk ∈ fr) (m_market : Part.market ∈ fr)
    : Only fr s0 (frameCopies s g p).1 := by
  unfold Sys2Proof.Machine.frameCopies
  with_reducible repeat' first
    | assumption | apply Only.hallAdvance | apply Only.mirrorCopies | apply Only.drawn | exact Or.inl rfl
    | exact Or.inr (by assumption) | apply OnlyMk.intro | simp only [onlyMk] | dsimp only | split | intro

theorem Only.tailForward (s : State) (g : Nat) (p : Packet) (hk : Only fr s0 s) (m_regs : Part.regs ∈ fr)
    (m_freeCtr : Part.freeCtr ∈ fr) (m_journal : Part.journal ∈ fr) (m_owed : Part.owed ∈ fr) (m_lastRaise : Part.lastRaise ∈ fr)
    (m_pipes : Part.pipes ∈ fr) (m_tables : Part.tables ∈ fr) (m_clerk : Part.clerk ∈ fr) (m_market : Part.market ∈ fr)
    (m_spill : Part.spill ∈ fr) (m_sched : Part.sched ∈ fr) (m_telem : Part.telem ∈ fr) (m_crier : Part.crier ∈ fr)
    (m_flt : Part.flt ∈ fr) (m_activity : Part.activity ∈ fr) : Only fr s0 (tailForward s g p) := by
  unfold Sys2Proof.Machine.tailForward
  with_reducible repeat' first
    | assumption | apply Only.frameCopies | apply Only.dropPacket | apply Only.dropRefused | apply Only.admitCopies
    | apply Only.badFrame | exact Or.inl rfl | exact Or.inr (by assumption) | apply OnlyMk.intro | simp only [onlyMk]
    | dsimp only | split | intro

theorem Only.recirculate (s : State) (g : Nat) (p : Packet) (hk : Only fr s0 s) (m_regs : Part.regs ∈ fr)
    (m_owed : Part.owed ∈ fr) (m_pipes : Part.pipes ∈ fr) (m_crier : Part.crier ∈ fr) (m_flt : Part.flt ∈ fr)
    (m_activity : Part.activity ∈ fr) : Only fr s0 (recirculate s g p) := by
  unfold Sys2Proof.Machine.recirculate
  with_reducible repeat' first
    | assumption | apply Only.pmcEvent | exact Or.inl rfl | exact Or.inr (by assumption) | apply OnlyMk.intro
    | simp only [onlyMk] | dsimp only | split | intro

theorem Only.execIngressTail (g : Nat) (s : State) (hk : Only fr s0 s) (m_regs : Part.regs ∈ fr)
    (m_freeCtr : Part.freeCtr ∈ fr) (m_journal : Part.journal ∈ fr) (m_owed : Part.owed ∈ fr) (m_lastRaise : Part.lastRaise ∈ fr)
    (m_pipes : Part.pipes ∈ fr) (m_tables : Part.tables ∈ fr) (m_clerk : Part.clerk ∈ fr) (m_market : Part.market ∈ fr)
    (m_spill : Part.spill ∈ fr) (m_sched : Part.sched ∈ fr) (m_telem : Part.telem ∈ fr) (m_crier : Part.crier ∈ fr)
    (m_flt : Part.flt ∈ fr) (m_activity : Part.activity ∈ fr) : OnlyO fr s0 (execIngressTail g s) := by
  unfold Sys2Proof.Machine.execIngressTail
  with_reducible repeat' first
    | assumption | apply Only.flowTake | apply Only.raise | apply Only.add64 | apply Only.tailFault | apply Only.dropPacket
    | apply Only.recirculate | apply Only.tailForward | apply OnlyO.next | exact Or.inl rfl | exact Or.inr (by assumption)
    | apply OnlyMk.intro | simp only [onlyMk] | dsimp only | split | intro

theorem Only.egressMirrors (s : State) (c : Copy) (hk : Only fr s0 s) (m_regs : Part.regs ∈ fr)
    (m_freeCtr : Part.freeCtr ∈ fr) (m_owed : Part.owed ∈ fr) (m_lastRaise : Part.lastRaise ∈ fr) (m_market : Part.market ∈ fr)
    (m_spill : Part.spill ∈ fr) (m_sched : Part.sched ∈ fr) (m_telem : Part.telem ∈ fr) (m_crier : Part.crier ∈ fr)
    (m_flt : Part.flt ∈ fr) (m_activity : Part.activity ∈ fr) : Only fr s0 (egressMirrors s c) := by
  unfold Sys2Proof.Machine.egressMirrors
  with_reducible repeat' first
    | assumption | apply Only.mirrorCopies | apply Only.admitCopies | apply Only.dropRefused | exact Or.inl rfl
    | exact Or.inr (by assumption) | apply OnlyMk.intro | simp only [onlyMk] | dsimp only | split | intro

theorem Only.execEgressTail (g : Nat) (s : State) (hk : Only fr s0 s) (m_regs : Part.regs ∈ fr)
    (m_freeCtr : Part.freeCtr ∈ fr) (m_journal : Part.journal ∈ fr) (m_owed : Part.owed ∈ fr) (m_lastRaise : Part.lastRaise ∈ fr)
    (m_pipes : Part.pipes ∈ fr) (m_market : Part.market ∈ fr) (m_spill : Part.spill ∈ fr) (m_sched : Part.sched ∈ fr)
    (m_telem : Part.telem ∈ fr) (m_crier : Part.crier ∈ fr) (m_flt : Part.flt ∈ fr) (m_activity : Part.activity ∈ fr)
    : OnlyO fr s0 (execEgressTail g s) := by
  unfold Sys2Proof.Machine.execEgressTail
  with_reducible repeat' first
    | assumption | apply Only.dropDequeued | apply Only.egressMirrors | apply Only.tailFault | apply OnlyO.next
    | exact Or.inl rfl | exact Or.inr (by assumption) | apply OnlyMk.intro | simp only [onlyMk] | dsimp only | split | intro

theorem Only.countSent (s : State) (l : Nat) (b : List Byte) (tailMarked : Bool) (hk : Only fr s0 s)
    (m_telem : Part.telem ∈ fr) : Only fr s0 (countSent s l b tailMarked) := by
  unfold Sys2Proof.Machine.countSent
  with_reducible repeat' first
    | assumption | apply Only.ledgerAdd | exact Or.inl rfl | exact Or.inr (by assumption) | apply OnlyMk.intro
    | simp only [onlyMk] | dsimp only | split | intro

theorem Only.countWindows (s : State) (c : Copy) (start : Nat) (hk : Only fr s0 s) (m_regs : Part.regs ∈ fr)
    : Only fr s0 (countWindows s c start) := by
  unfold Sys2Proof.Machine.countWindows
  with_reducible repeat' first
    | assumption | apply Only.add64 | exact Or.inl rfl | exact Or.inr (by assumption) | apply OnlyMk.intro
    | simp only [onlyMk] | dsimp only | split | intro

theorem Only.departCopy (s : State) (c : Copy) (pcs : Stamp) (tailMarked : Bool) (hk : Only fr s0 s)
    (m_regs : Part.regs ∈ fr) (m_journal : Part.journal ∈ fr) (m_owed : Part.owed ∈ fr) (m_lastRaise : Part.lastRaise ∈ fr)
    (m_hif : Part.hif ∈ fr) (m_market : Part.market ∈ fr) (m_sched : Part.sched ∈ fr) (m_telem : Part.telem ∈ fr)
    (m_crier : Part.crier ∈ fr) (m_flt : Part.flt ∈ fr) (m_activity : Part.activity ∈ fr) (m_out : Part.out ∈ fr)
    : Only fr s0 (departCopy s c pcs tailMarked) := by
  unfold Sys2Proof.Machine.departCopy
  with_reducible repeat' first
    | assumption | apply Only.emit | apply Only.countWindows | apply Only.countSent | apply Only.histograms
    | apply Only.ptpReport | apply Only.postcard | apply Only.releaseCopy | exact Or.inl rfl | exact Or.inr (by assumption)
    | apply OnlyMk.intro | simp only [onlyMk] | dsimp only | split | intro

theorem Only.execCopyDeparture (port : Nat) (pcs : Stamp) (begun : Bool) (err : Option DataErr) (s : State)
    (hk : Only fr s0 s) (m_regs : Part.regs ∈ fr) (m_freeCtr : Part.freeCtr ∈ fr) (m_journal : Part.journal ∈ fr)
    (m_owed : Part.owed ∈ fr) (m_lastRaise : Part.lastRaise ∈ fr) (m_hif : Part.hif ∈ fr) (m_ports : Part.ports ∈ fr)
    (m_pipes : Part.pipes ∈ fr) (m_market : Part.market ∈ fr) (m_spill : Part.spill ∈ fr) (m_sched : Part.sched ∈ fr)
    (m_telem : Part.telem ∈ fr) (m_crier : Part.crier ∈ fr) (m_flt : Part.flt ∈ fr) (m_activity : Part.activity ∈ fr)
    (m_out : Part.out ∈ fr) : OnlyO fr s0 (execCopyDeparture port pcs begun err s) := by
  unfold Sys2Proof.Machine.execCopyDeparture
  with_reducible repeat' first
    | assumption | apply Only.whenB | apply Only.setPort | apply Only.marketRead | apply Only.departCopy
    | apply Only.dropDequeued | apply Only.editFault | apply OnlyO.next | exact Or.inl rfl | exact Or.inr (by assumption)
    | apply OnlyMk.intro | simp only [onlyMk] | dsimp only | split | intro

end Sys2Proof.Laws
end

