-- ==== Sys2Proof/Laws/OnlyPart.lean ====
section
/-!
SUPPORT. One lemma for each operation of Ports, Ainum, Cart, Telemetry, Scales, Reset, View, RegWrite: it changes no part of the state but those it names (`Only`).
-/
namespace Sys2Proof.Laws

open Sys2Proof.Machine

variable {fr : List Part} {s0 : State}

theorem Only.laneLine (s : State) (g j : Nat) (hk : Only fr s0 s) (m_regs : Part.regs ∈ fr) (m_owed : Part.owed ∈ fr)
    (m_crier : Part.crier ∈ fr) (m_flt : Part.flt ∈ fr) : Only fr s0 (laneLine s g j) := by
  unfold Sys2Proof.Machine.laneLine
  with_reducible repeat' first
    | assumption | apply Only.setLine | exact Or.inl rfl | exact Or.inr (by assumption) | apply OnlyMk.intro
    | simp only [onlyMk] | dsimp only | split | intro

theorem Only.laneEvent (s : State) (l j : Nat) (hk : Only fr s0 s) (m_regs : Part.regs ∈ fr) (m_owed : Part.owed ∈ fr)
    (m_crier : Part.crier ∈ fr) (m_flt : Part.flt ∈ fr) : Only fr s0 (laneEvent s l j) := by
  unfold Sys2Proof.Machine.laneEvent
  with_reducible repeat' first
    | assumption | apply Only.laneLine | apply Only.setBit | exact Or.inl rfl | exact Or.inr (by assumption)
    | apply OnlyMk.intro | simp only [onlyMk] | dsimp only | split | intro

theorem Only.lanErr (s : State) (l bit : Nat) (hk : Only fr s0 s) (m_regs : Part.regs ∈ fr) (m_owed : Part.owed ∈ fr)
    (m_crier : Part.crier ∈ fr) (m_flt : Part.flt ∈ fr) : Only fr s0 (lanErr s l bit) := by
  unfold Sys2Proof.Machine.lanErr
  with_reducible repeat' first
    | assumption | apply Only.laneEvent | apply Only.setBit | exact Or.inl rfl | exact Or.inr (by assumption)
    | apply OnlyMk.intro | simp only [onlyMk] | dsimp only | split | intro

theorem Only.portFlags (s : State) (l : Nat) (hk : Only fr s0 s) (m_regs : Part.regs ∈ fr) : Only fr s0 (portFlags s l) := by
  unfold Sys2Proof.Machine.portFlags
  with_reducible repeat' first
    | assumption | apply Only.setBit | exact Or.inl rfl | exact Or.inr (by assumption) | apply OnlyMk.intro
    | simp only [onlyMk] | dsimp only | split | intro

theorem Only.setAin (s : State) (l : Nat) (x : AinPort) (hk : Only fr s0 s) (m_ainum : Part.ainum ∈ fr)
    : Only fr s0 (setAin s l x) := by
  unfold Sys2Proof.Machine.setAin
  with_reducible repeat' first
    | assumption | exact Or.inl rfl | exact Or.inr (by assumption) | apply OnlyMk.intro | simp only [onlyMk] | dsimp only
    | split | intro

theorem Only.endSession (s : State) (l : Nat) (hk : Only fr s0 s) (m_regs : Part.regs ∈ fr) (m_owed : Part.owed ∈ fr)
    (m_ainum : Part.ainum ∈ fr) (m_crier : Part.crier ∈ fr) (m_flt : Part.flt ∈ fr) : Only fr s0 (endSession s l) := by
  unfold Sys2Proof.Machine.endSession
  with_reducible repeat' first
    | assumption | apply Only.setAin | apply Only.setF | apply Only.setBit | apply Only.whenB | apply Only.raise
    | exact Or.inl rfl | exact Or.inr (by assumption) | apply OnlyMk.intro | simp only [onlyMk] | dsimp only | split | intro

theorem Only.goSent (s : State) (l : Nat) (hk : Only fr s0 s) (m_regs : Part.regs ∈ fr) (m_owed : Part.owed ∈ fr)
    (m_ainum : Part.ainum ∈ fr) (m_crier : Part.crier ∈ fr) (m_flt : Part.flt ∈ fr) : Only fr s0 (goSent s l) := by
  unfold Sys2Proof.Machine.goSent
  with_reducible repeat' first
    | assumption | apply Only.raise | apply Only.setBit | exact Or.inl rfl | exact Or.inr (by assumption)
    | apply OnlyMk.intro | simp only [onlyMk] | dsimp only | split | intro

theorem Only.ainumDown (s : State) (l : Nat) (hk : Only fr s0 s) (m_regs : Part.regs ∈ fr) (m_owed : Part.owed ∈ fr)
    (m_ainum : Part.ainum ∈ fr) (m_crier : Part.crier ∈ fr) (m_flt : Part.flt ∈ fr) : Only fr s0 (ainumDown s l) := by
  unfold Sys2Proof.Machine.ainumDown
  with_reducible repeat' first
    | assumption | apply Only.endSession | apply Only.setAin | apply Only.goSent | exact Or.inl rfl
    | exact Or.inr (by assumption) | apply OnlyMk.intro | simp only [onlyMk] | dsimp only | split | intro

theorem Only.ladderDone (s : State) (hk : Only fr s0 s) (m_regs : Part.regs ∈ fr) (m_owed : Part.owed ∈ fr)
    (m_crier : Part.crier ∈ fr) (m_flt : Part.flt ∈ fr) : Only fr s0 (ladderDone s) := by
  unfold Sys2Proof.Machine.ladderDone
  with_reducible repeat' first
    | assumption | apply Only.setBringup | exact Or.inl rfl | exact Or.inr (by assumption) | apply OnlyMk.intro
    | simp only [onlyMk] | dsimp only | split | intro

theorem Only.enterState (s : State) (l st rate : Nat) (aligned : Bool) (hk : Only fr s0 s) (m_regs : Part.regs ∈ fr)
    (m_owed : Part.owed ∈ fr) (m_sched : Part.sched ∈ fr) (m_ainum : Part.ainum ∈ fr) (m_crier : Part.crier ∈ fr)
    (m_flt : Part.flt ∈ fr) : Only fr s0 (enterState s l st rate aligned) := by
  unfold Sys2Proof.Machine.enterState
  with_reducible repeat' first
    | assumption | apply Only.setF | apply Only.setLatency | apply Only.whenB | apply Only.laneEvent | apply Only.ainumDown
    | apply Only.clearPauses | apply Only.portFlags | exact Or.inl rfl | exact Or.inr (by assumption) | apply OnlyMk.intro
    | simp only [onlyMk] | dsimp only | split | intro

theorem Only.modPort (s : State) (l : Nat) (f : PortSt → PortSt) (hk : Only fr s0 s) (m_ports : Part.ports ∈ fr)
    : Only fr s0 (modPort s l f) := by
  unfold Sys2Proof.Machine.modPort
  with_reducible repeat' first
    | assumption | apply Only.setPort | exact Or.inl rfl | exact Or.inr (by assumption) | apply OnlyMk.intro
    | simp only [onlyMk] | dsimp only | split | intro

theorem Only.enterUp (s : State) (l : Nat) (hk : Only fr s0 s) (m_regs : Part.regs ∈ fr) (m_owed : Part.owed ∈ fr)
    (m_ports : Part.ports ∈ fr) (m_sched : Part.sched ∈ fr) (m_ainum : Part.ainum ∈ fr) (m_crier : Part.crier ∈ fr)
    (m_flt : Part.flt ∈ fr) : Only fr s0 (enterUp s l) := by
  unfold Sys2Proof.Machine.enterUp
  with_reducible repeat' first
    | assumption | apply Only.modPort | apply Only.setF | apply Only.whenB | apply Only.setBit | apply Only.enterState
    | exact Or.inl rfl | exact Or.inr (by assumption) | apply OnlyMk.intro | simp only [onlyMk] | dsimp only | split | intro

theorem Only.cutArriving (s : State) (l : Nat) (f : State → Packet → State) (hk : Only fr s0 s)
    (hf : ∀ t x, Only fr s0 t → Only fr s0 (f t x)) (m_regs : Part.regs ∈ fr) (m_freeCtr : Part.freeCtr ∈ fr)
    (m_journal : Part.journal ∈ fr) (m_owed : Part.owed ∈ fr) (m_lastRaise : Part.lastRaise ∈ fr) (m_pipes : Part.pipes ∈ fr)
    (m_market : Part.market ∈ fr) (m_spill : Part.spill ∈ fr) (m_sched : Part.sched ∈ fr) (m_telem : Part.telem ∈ fr)
    (m_crier : Part.crier ∈ fr) (m_flt : Part.flt ∈ fr) (m_activity : Part.activity ∈ fr) : Only fr s0 (cutArriving s l f) := by
  unfold Sys2Proof.Machine.cutArriving
  with_reducible repeat' first
    | assumption | apply hf | apply Only.forEach | apply Only.settleLength | apply Only.badFrame | exact Or.inl rfl
    | exact Or.inr (by assumption) | apply OnlyMk.intro | simp only [onlyMk] | dsimp only | split | intro

theorem Only.octCfgWrite (g o : Nat) (value : Word) (s : State) (hk : Only fr s0 s) (m_regs : Part.regs ∈ fr)
    (m_owed : Part.owed ∈ fr) (m_top : Part.top ∈ fr) (m_crier : Part.crier ∈ fr) (m_flt : Part.flt ∈ fr)
    : Only fr s0 (octCfgWrite g o value s) := by
  unfold Sys2Proof.Machine.octCfgWrite
  with_reducible repeat' first
    | assumption | apply Only.holdWrite | apply Only.lanErr | apply Only.setReg | apply Only.forEach | apply Only.portFlags
    | exact Or.inl rfl | exact Or.inr (by assumption) | apply OnlyMk.intro | simp only [onlyMk] | dsimp only | split | intro

theorem Only.execOctCfgWrite (g o : Nat) (value : Word) (s : State) (hk : Only fr s0 s) (m_regs : Part.regs ∈ fr)
    (m_owed : Part.owed ∈ fr) (m_top : Part.top ∈ fr) (m_crier : Part.crier ∈ fr) (m_flt : Part.flt ∈ fr)
    : OnlyO fr s0 (execOctCfgWrite g o value s) := by
  unfold Sys2Proof.Machine.execOctCfgWrite
  with_reducible repeat' first
    | assumption | apply Only.octCfgWrite | apply OnlyO.next | exact Or.inl rfl | exact Or.inr (by assumption)
    | apply OnlyMk.intro | simp only [onlyMk] | dsimp only | split | intro

theorem Only.portUp (s : State) (l : Nat) (hk : Only fr s0 s) (m_regs : Part.regs ∈ fr) (m_owed : Part.owed ∈ fr)
    (m_ports : Part.ports ∈ fr) (m_sched : Part.sched ∈ fr) (m_ainum : Part.ainum ∈ fr) (m_crier : Part.crier ∈ fr)
    (m_flt : Part.flt ∈ fr) : Only fr s0 (portUp s l) := by
  unfold Sys2Proof.Machine.portUp
  with_reducible repeat' first
    | assumption | apply Only.setBit | apply Only.lanErr | apply Only.setPort | apply Only.setF | apply Only.enterState
    | exact Or.inl rfl | exact Or.inr (by assumption) | apply OnlyMk.intro | simp only [onlyMk] | dsimp only | split | intro

theorem Only.portDown (s : State) (l : Nat) (hk : Only fr s0 s) (m_regs : Part.regs ∈ fr) (m_freeCtr : Part.freeCtr ∈ fr)
    (m_journal : Part.journal ∈ fr) (m_owed : Part.owed ∈ fr) (m_lastRaise : Part.lastRaise ∈ fr) (m_ports : Part.ports ∈ fr)
    (m_pipes : Part.pipes ∈ fr) (m_market : Part.market ∈ fr) (m_spill : Part.spill ∈ fr) (m_sched : Part.sched ∈ fr)
    (m_ainum : Part.ainum ∈ fr) (m_telem : Part.telem ∈ fr) (m_crier : Part.crier ∈ fr) (m_flt : Part.flt ∈ fr)
    (m_activity : Part.activity ∈ fr) : Only fr s0 (portDown s l) := by
  unfold Sys2Proof.Machine.portDown
  with_reducible repeat' first
    | assumption | apply Only.setBit | apply Only.forEach | apply Only.ledgerAdd | apply Only.cutArriving
    | apply Only.dropPacket | apply Only.setPort | apply Only.setF | apply Only.ladderDone | apply Only.enterState
    | exact Or.inl rfl | exact Or.inr (by assumption) | apply OnlyMk.intro | simp only [onlyMk] | dsimp only | split | intro

theorem Only.noteClash (s : State) (l : Nat) (hk : Only fr s0 s) (m_regs : Part.regs ∈ fr) (m_owed : Part.owed ∈ fr)
    (m_crier : Part.crier ∈ fr) (m_flt : Part.flt ∈ fr) : Only fr s0 (noteClash s l) := by
  unfold Sys2Proof.Machine.noteClash
  with_reducible repeat' first
    | assumption | apply Only.raise | apply Only.setBit | exact Or.inl rfl | exact Or.inr (by assumption)
    | apply OnlyMk.intro | simp only [onlyMk] | dsimp only | split | intro

theorem Only.portCfgWrite (lane : Nat) (value : Word) (s : State) (hk : Only fr s0 s) (m_regs : Part.regs ∈ fr)
    (m_freeCtr : Part.freeCtr ∈ fr) (m_journal : Part.journal ∈ fr) (m_owed : Part.owed ∈ fr) (m_lastRaise : Part.lastRaise ∈ fr)
    (m_top : Part.top ∈ fr) (m_ports : Part.ports ∈ fr) (m_pipes : Part.pipes ∈ fr) (m_market : Part.market ∈ fr)
    (m_spill : Part.spill ∈ fr) (m_sched : Part.sched ∈ fr) (m_ainum : Part.ainum ∈ fr) (m_telem : Part.telem ∈ fr)
    (m_crier : Part.crier ∈ fr) (m_flt : Part.flt ∈ fr) (m_activity : Part.activity ∈ fr)
    : Only fr s0 (portCfgWrite lane value s) := by
  unfold Sys2Proof.Machine.portCfgWrite
  with_reducible repeat' first
    | assumption | apply Only.holdWrite | apply Only.lanErr | apply Only.portFlags | apply Only.setReg | apply Only.noteClash
    | apply Only.portUp | apply Only.portDown | exact Or.inl rfl | exact Or.inr (by assumption) | apply OnlyMk.intro
    | simp only [onlyMk] | dsimp only | split | intro

theorem Only.execPortCfgWrite (lane : Nat) (value : Word) (s : State) (hk : Only fr s0 s) (m_regs : Part.regs ∈ fr)
    (m_freeCtr : Part.freeCtr ∈ fr) (m_journal : Part.journal ∈ fr) (m_owed : Part.owed ∈ fr) (m_lastRaise : Part.lastRaise ∈ fr)
    (m_top : Part.top ∈ fr) (m_ports : Part.ports ∈ fr) (m_pipes : Part.pipes ∈ fr) (m_market : Part.market ∈ fr)
    (m_spill : Part.spill ∈ fr) (m_sched : Part.sched ∈ fr) (m_ainum : Part.ainum ∈ fr) (m_telem : Part.telem ∈ fr)
    (m_crier : Part.crier ∈ fr) (m_flt : Part.flt ∈ fr) (m_activity : Part.activity ∈ fr)
    : OnlyO fr s0 (execPortCfgWrite lane value s) := by
  unfold Sys2Proof.Machine.execPortCfgWrite
  with_reducible repeat' first
    | assumption | apply Only.portCfgWrite | apply OnlyO.next | exact Or.inl rfl | exact Or.inr (by assumption)
    | apply OnlyMk.intro | simp only [onlyMk] | dsimp only | split | intro

theorem Only.execPortEnable (lane : Nat) (s : State) (hk : Only fr s0 s) (m_regs : Part.regs ∈ fr)
    (m_freeCtr : Part.freeCtr ∈ fr) (m_journal : Part.journal ∈ fr) (m_owed : Part.owed ∈ fr) (m_lastRaise : Part.lastRaise ∈ fr)
    (m_top : Part.top ∈ fr) (m_ports : Part.ports ∈ fr) (m_pipes : Part.pipes ∈ fr) (m_market : Part.market ∈ fr)
    (m_spill : Part.spill ∈ fr) (m_sched : Part.sched ∈ fr) (m_ainum : Part.ainum ∈ fr) (m_telem : Part.telem ∈ fr)
    (m_crier : Part.crier ∈ fr) (m_flt : Part.flt ∈ fr) (m_activity : Part.activity ∈ fr)
    : OnlyO fr s0 (execPortEnable lane s) := by
  unfold Sys2Proof.Machine.execPortEnable
  with_reducible repeat' first
    | assumption | apply Only.portCfgWrite | apply OnlyO.next | exact Or.inl rfl | exact Or.inr (by assumption)
    | apply OnlyMk.intro | simp only [onlyMk] | dsimp only | split | intro

theorem Only.execPortDisable (lane : Nat) (s : State) (hk : Only fr s0 s) (m_regs : Part.regs ∈ fr)
    (m_freeCtr : Part.freeCtr ∈ fr) (m_journal : Part.journal ∈ fr) (m_owed : Part.owed ∈ fr) (m_lastRaise : Part.lastRaise ∈ fr)
    (m_top : Part.top ∈ fr) (m_ports : Part.ports ∈ fr) (m_pipes : Part.pipes ∈ fr) (m_market : Part.market ∈ fr)
    (m_spill : Part.spill ∈ fr) (m_sched : Part.sched ∈ fr) (m_ainum : Part.ainum ∈ fr) (m_telem : Part.telem ∈ fr)
    (m_crier : Part.crier ∈ fr) (m_flt : Part.flt ∈ fr) (m_activity : Part.activity ∈ fr)
    : OnlyO fr s0 (execPortDisable lane s) := by
  unfold Sys2Proof.Machine.execPortDisable
  with_reducible repeat' first
    | assumption | apply Only.portCfgWrite | apply OnlyO.next | exact Or.inl rfl | exact Or.inr (by assumption)
    | apply OnlyMk.intro | simp only [onlyMk] | dsimp only | split | intro

theorem Only.execPortAligned (port skewNs : Nat) (s : State) (hk : Only fr s0 s) (m_regs : Part.regs ∈ fr)
    (m_owed : Part.owed ∈ fr) (m_ports : Part.ports ∈ fr) (m_sched : Part.sched ∈ fr) (m_ainum : Part.ainum ∈ fr)
    (m_crier : Part.crier ∈ fr) (m_flt : Part.flt ∈ fr) : OnlyO fr s0 (execPortAligned port skewNs s) := by
  unfold Sys2Proof.Machine.execPortAligned
  with_reducible repeat' first
    | assumption | apply Only.setF | apply Only.ladderDone | apply Only.enterUp | apply OnlyO.next | exact Or.inl rfl
    | exact Or.inr (by assumption) | apply OnlyMk.intro | simp only [onlyMk] | dsimp only | split | intro

theorem Only.loseLink (s : State) (l : Nat) (hk : Only fr s0 s) (m_ports : Part.ports ∈ fr) : Only fr s0 (loseLink s l) := by
  unfold Sys2Proof.Machine.loseLink
  with_reducible repeat' first
    | assumption | apply Only.modPort | exact Or.inl rfl | exact Or.inr (by assumption) | apply OnlyMk.intro
    | simp only [onlyMk] | dsimp only | split | intro

theorem Only.linkDown (s : State) (l : Nat) (gone : Bool) (hk : Only fr s0 s) (m_regs : Part.regs ∈ fr)
    (m_owed : Part.owed ∈ fr) (m_ports : Part.ports ∈ fr) (m_sched : Part.sched ∈ fr) (m_ainum : Part.ainum ∈ fr)
    (m_crier : Part.crier ∈ fr) (m_flt : Part.flt ∈ fr) : Only fr s0 (linkDown s l gone) := by
  unfold Sys2Proof.Machine.linkDown
  with_reducible repeat' first
    | assumption | apply Only.setF | apply Only.setBit | apply Only.loseLink | apply Only.enterState | apply Only.whenB
    | apply Only.laneEvent | exact Or.inl rfl | exact Or.inr (by assumption) | apply OnlyMk.intro | simp only [onlyMk]
    | dsimp only | split | intro

theorem Only.execLossOfSignal (lane : Nat) (signalGone : Bool) (s : State) (hk : Only fr s0 s) (m_regs : Part.regs ∈ fr)
    (m_owed : Part.owed ∈ fr) (m_ports : Part.ports ∈ fr) (m_sched : Part.sched ∈ fr) (m_ainum : Part.ainum ∈ fr)
    (m_crier : Part.crier ∈ fr) (m_flt : Part.flt ∈ fr) : OnlyO fr s0 (execLossOfSignal lane signalGone s) := by
  unfold Sys2Proof.Machine.execLossOfSignal
  with_reducible repeat' first
    | assumption | apply Only.linkDown | apply OnlyO.next | exact Or.inl rfl | exact Or.inr (by assumption)
    | apply OnlyMk.intro | simp only [onlyMk] | dsimp only | split | intro

theorem Only.execSignalPresent (port : Nat) (s : State) (hk : Only fr s0 s) (m_regs : Part.regs ∈ fr)
    (m_owed : Part.owed ∈ fr) (m_sched : Part.sched ∈ fr) (m_ainum : Part.ainum ∈ fr) (m_crier : Part.crier ∈ fr)
    (m_flt : Part.flt ∈ fr) : OnlyO fr s0 (execSignalPresent port s) := by
  unfold Sys2Proof.Machine.execSignalPresent
  with_reducible repeat' first
    | assumption | apply Only.enterState | apply OnlyO.next | exact Or.inl rfl | exact Or.inr (by assumption)
    | apply OnlyMk.intro | simp only [onlyMk] | dsimp only | split | intro

theorem Only.execFaultReceived (port : Nat) (localFault : Bool) (s : State) (hk : Only fr s0 s) (m_regs : Part.regs ∈ fr)
    (m_owed : Part.owed ∈ fr) (m_ports : Part.ports ∈ fr) (m_sched : Part.sched ∈ fr) (m_ainum : Part.ainum ∈ fr)
    (m_crier : Part.crier ∈ fr) (m_flt : Part.flt ∈ fr) : OnlyO fr s0 (execFaultReceived port localFault s) := by
  unfold Sys2Proof.Machine.execFaultReceived
  with_reducible repeat' first
    | assumption | apply Only.setF | apply Only.enterState | apply Only.modPort | apply Only.setBit | apply OnlyO.next
    | exact Or.inl rfl | exact Or.inr (by assumption) | apply OnlyMk.intro | simp only [onlyMk] | dsimp only | split | intro

theorem Only.execFaultCleared (port : Nat) (s : State) (hk : Only fr s0 s) (m_regs : Part.regs ∈ fr)
    (m_owed : Part.owed ∈ fr) (m_ports : Part.ports ∈ fr) (m_sched : Part.sched ∈ fr) (m_ainum : Part.ainum ∈ fr)
    (m_crier : Part.crier ∈ fr) (m_flt : Part.flt ∈ fr) : OnlyO fr s0 (execFaultCleared port s) := by
  unfold Sys2Proof.Machine.execFaultCleared
  with_reducible repeat' first
    | assumption | apply Only.ladderDone | apply Only.enterUp | apply Only.setF | apply OnlyO.next | exact Or.inl rfl
    | exact Or.inr (by assumption) | apply OnlyMk.intro | simp only [onlyMk] | dsimp only | split | intro

theorem Only.execRecoveryEnd (port : Nat) (s : State) (hk : Only fr s0 s) (m_regs : Part.regs ∈ fr)
    : OnlyO fr s0 (execRecoveryEnd port s) := by
  unfold Sys2Proof.Machine.execRecoveryEnd
  with_reducible repeat' first
    | assumption | apply Only.setBit | apply OnlyO.next | exact Or.inl rfl | exact Or.inr (by assumption)
    | apply OnlyMk.intro | simp only [onlyMk] | dsimp only | split | intro

theorem Only.queueMsg (s : State) (l : Nat) (m : AinMsg) (hk : Only fr s0 s) (m_ainum : Part.ainum ∈ fr)
    : Only fr s0 (queueMsg s l m) := by
  unfold Sys2Proof.Machine.queueMsg
  with_reducible repeat' first
    | assumption | apply Only.setAin | exact Or.inl rfl | exact Or.inr (by assumption) | apply OnlyMk.intro
    | simp only [onlyMk] | dsimp only | split | intro

theorem Only.takeStep (s : State) (l : Nat) (hk : Only fr s0 s) (m_regs : Part.regs ∈ fr) (m_ports : Part.ports ∈ fr)
    : Only fr s0 (takeStep s l) := by
  unfold Sys2Proof.Machine.takeStep
  with_reducible repeat' first
    | assumption | apply Only.setLatency | apply Only.modPort | exact Or.inl rfl | exact Or.inr (by assumption)
    | apply OnlyMk.intro | simp only [onlyMk] | dsimp only | split | intro

theorem Only.recordLadder (s : State) (l : Nat) (hk : Only fr s0 s) (m_regs : Part.regs ∈ fr) (m_journal : Part.journal ∈ fr)
    (m_owed : Part.owed ∈ fr) (m_crier : Part.crier ∈ fr) (m_flt : Part.flt ∈ fr) (m_out : Part.out ∈ fr)
    : Only fr s0 (recordLadder s l) := by
  unfold Sys2Proof.Machine.recordLadder
  with_reducible repeat' first
    | assumption | apply Only.jrnOwe | exact Or.inl rfl | exact Or.inr (by assumption) | apply OnlyMk.intro
    | simp only [onlyMk] | dsimp only | split | intro

theorem Only.holdLadder (s : State) (l : Nat) (hk : Only fr s0 s) (m_regs : Part.regs ∈ fr) (m_journal : Part.journal ∈ fr)
    (m_owed : Part.owed ∈ fr) (m_ports : Part.ports ∈ fr) (m_crier : Part.crier ∈ fr) (m_flt : Part.flt ∈ fr)
    (m_out : Part.out ∈ fr) : Only fr s0 (holdLadder s l) := by
  unfold Sys2Proof.Machine.holdLadder
  with_reducible repeat' first
    | assumption | apply Only.ladderDone | apply Only.recordLadder | apply Only.portFlags | apply Only.laneEvent
    | apply Only.modPort | exact Or.inl rfl | exact Or.inr (by assumption) | apply OnlyMk.intro | simp only [onlyMk]
    | dsimp only | split | intro

theorem Only.execLadderStepPropose (port : Nat) (s : State) (hk : Only fr s0 s) (m_ports : Part.ports ∈ fr)
    (m_ainum : Part.ainum ∈ fr) : OnlyO fr s0 (execLadderStepPropose port s) := by
  unfold Sys2Proof.Machine.execLadderStepPropose
  with_reducible repeat' first
    | assumption | apply Only.queueMsg | apply Only.setPort | apply OnlyO.next | exact Or.inl rfl
    | exact Or.inr (by assumption) | apply OnlyMk.intro | simp only [onlyMk] | dsimp only | split | intro

theorem Only.execStepTransmitterSwitch (port : Nat) (s : State) (hk : Only fr s0 s) (m_regs : Part.regs ∈ fr)
    (m_owed : Part.owed ∈ fr) (m_sched : Part.sched ∈ fr) (m_ainum : Part.ainum ∈ fr) (m_crier : Part.crier ∈ fr)
    (m_flt : Part.flt ∈ fr) : OnlyO fr s0 (execStepTransmitterSwitch port s) := by
  unfold Sys2Proof.Machine.execStepTransmitterSwitch
  with_reducible repeat' first
    | assumption | apply Only.enterState | apply OnlyO.next | exact Or.inl rfl | exact Or.inr (by assumption)
    | apply OnlyMk.intro | simp only [onlyMk] | dsimp only | split | intro

theorem Only.execLadderStepSuccess (port skewNs : Nat) (s : State) (hk : Only fr s0 s) (m_regs : Part.regs ∈ fr)
    (m_journal : Part.journal ∈ fr) (m_owed : Part.owed ∈ fr) (m_ports : Part.ports ∈ fr) (m_sched : Part.sched ∈ fr)
    (m_ainum : Part.ainum ∈ fr) (m_crier : Part.crier ∈ fr) (m_flt : Part.flt ∈ fr) (m_out : Part.out ∈ fr)
    : OnlyO fr s0 (execLadderStepSuccess port skewNs s) := by
  unfold Sys2Proof.Machine.execLadderStepSuccess
  with_reducible repeat' first
    | assumption | apply Only.modPort | apply Only.setF | apply Only.ladderDone | apply Only.recordLadder
    | apply Only.laneEvent | apply Only.enterUp | apply OnlyO.next | exact Or.inl rfl | exact Or.inr (by assumption)
    | apply OnlyMk.intro | simp only [onlyMk] | dsimp only | split | intro

theorem Only.tryFailed (s : State) (l : Nat) (hk : Only fr s0 s) (m_regs : Part.regs ∈ fr) (m_journal : Part.journal ∈ fr)
    (m_owed : Part.owed ∈ fr) (m_ports : Part.ports ∈ fr) (m_crier : Part.crier ∈ fr) (m_flt : Part.flt ∈ fr)
    (m_out : Part.out ∈ fr) : Only fr s0 (tryFailed s l) := by
  unfold Sys2Proof.Machine.tryFailed
  with_reducible repeat' first
    | assumption | apply Only.setF | apply Only.holdLadder | apply Only.modPort | exact Or.inl rfl
    | exact Or.inr (by assumption) | apply OnlyMk.intro | simp only [onlyMk] | dsimp only | split | intro

theorem Only.execLadderStepFail (port : Nat) (s : State) (hk : Only fr s0 s) (m_regs : Part.regs ∈ fr)
    (m_journal : Part.journal ∈ fr) (m_owed : Part.owed ∈ fr) (m_ports : Part.ports ∈ fr) (m_sched : Part.sched ∈ fr)
    (m_ainum : Part.ainum ∈ fr) (m_crier : Part.crier ∈ fr) (m_flt : Part.flt ∈ fr) (m_out : Part.out ∈ fr)
    : OnlyO fr s0 (execLadderStepFail port s) := by
  unfold Sys2Proof.Machine.execLadderStepFail
  with_reducible repeat' first
    | assumption | apply Only.tryFailed | apply Only.modPort | apply Only.enterState | apply Only.setF | apply OnlyO.next
    | exact Or.inl rfl | exact Or.inr (by assumption) | apply OnlyMk.intro | simp only [onlyMk] | dsimp only | split | intro

theorem Only.execStepAckTimeout (port : Nat) (s : State) (hk : Only fr s0 s) (m_regs : Part.regs ∈ fr)
    (m_journal : Part.journal ∈ fr) (m_owed : Part.owed ∈ fr) (m_ports : Part.ports ∈ fr) (m_crier : Part.crier ∈ fr)
    (m_flt : Part.flt ∈ fr) (m_out : Part.out ∈ fr) : OnlyO fr s0 (execStepAckTimeout port s) := by
  unfold Sys2Proof.Machine.execStepAckTimeout
  with_reducible repeat' first
    | assumption | apply Only.tryFailed | apply OnlyO.next | exact Or.inl rfl | exact Or.inr (by assumption)
    | apply OnlyMk.intro | simp only [onlyMk] | dsimp only | split | intro

theorem Only.execLadderRetry (port : Nat) (s : State) (hk : Only fr s0 s) (m_ports : Part.ports ∈ fr)
    : OnlyO fr s0 (execLadderRetry port s) := by
  unfold Sys2Proof.Machine.execLadderRetry
  with_reducible repeat' first
    | assumption | apply Only.modPort | apply OnlyO.next | exact Or.inl rfl | exact Or.inr (by assumption)
    | apply OnlyMk.intro | simp only [onlyMk] | dsimp only | split | intro

theorem Only.execLadderNoPeer (port : Nat) (s : State) (hk : Only fr s0 s) (m_regs : Part.regs ∈ fr)
    (m_journal : Part.journal ∈ fr) (m_owed : Part.owed ∈ fr) (m_ports : Part.ports ∈ fr) (m_crier : Part.crier ∈ fr)
    (m_flt : Part.flt ∈ fr) (m_out : Part.out ∈ fr) : OnlyO fr s0 (execLadderNoPeer port s) := by
  unfold Sys2Proof.Machine.execLadderNoPeer
  with_reducible repeat' first
    | assumption | apply Only.holdLadder | apply OnlyO.next | exact Or.inl rfl | exact Or.inr (by assumption)
    | apply OnlyMk.intro | simp only [onlyMk] | dsimp only | split | intro

theorem Only.execFecDegrade (lane symbols words : Nat) (s : State) (hk : Only fr s0 s) (m_regs : Part.regs ∈ fr)
    (m_owed : Part.owed ∈ fr) (m_crier : Part.crier ∈ fr) (m_flt : Part.flt ∈ fr)
    : OnlyO fr s0 (execFecDegrade lane symbols words s) := by
  unfold Sys2Proof.Machine.execFecDegrade
  with_reducible repeat' first
    | assumption | apply Only.add64 | apply Only.laneEvent | apply OnlyO.next | exact Or.inl rfl
    | exact Or.inr (by assumption) | apply OnlyMk.intro | simp only [onlyMk] | dsimp only | split | intro

theorem Only.execUncorrectableCodeword (lane : Nat) (s : State) (hk : Only fr s0 s) (m_regs : Part.regs ∈ fr)
    (m_owed : Part.owed ∈ fr) (m_crier : Part.crier ∈ fr) (m_flt : Part.flt ∈ fr)
    : OnlyO fr s0 (execUncorrectableCodeword lane s) := by
  unfold Sys2Proof.Machine.execUncorrectableCodeword
  with_reducible repeat' first
    | assumption | apply Only.laneEvent | apply Only.add64 | apply OnlyO.next | exact Or.inl rfl
    | exact Or.inr (by assumption) | apply OnlyMk.intro | simp only [onlyMk] | dsimp only | split | intro

theorem Only.execEqLoopStep (lane : Nat) (want : Word) (s : State) (hk : Only fr s0 s) (m_regs : Part.regs ∈ fr)
    : OnlyO fr s0 (execEqLoopStep lane want s) := by
  unfold Sys2Proof.Machine.execEqLoopStep
  with_reducible repeat' first
    | assumption | apply Only.forEach | apply Only.setF | apply OnlyO.next | exact Or.inl rfl | exact Or.inr (by assumption)
    | apply OnlyMk.intro | simp only [onlyMk] | dsimp only | split | intro

theorem Only.execEqPolicyConflict (lane : Nat) (want : Word) (s : State) (hk : Only fr s0 s) (m_regs : Part.regs ∈ fr)
    (m_owed : Part.owed ∈ fr) (m_lastRaise : Part.lastRaise ∈ fr) (m_crier : Part.crier ∈ fr) (m_flt : Part.flt ∈ fr)
    : OnlyO fr s0 (execEqPolicyConflict lane want s) := by
  unfold Sys2Proof.Machine.execEqPolicyConflict
  with_reducible repeat' first
    | assumption | apply Only.laneEvent | apply Only.setReg | apply Only.noteInterval | apply OnlyO.next | exact Or.inl rfl
    | exact Or.inr (by assumption) | apply OnlyMk.intro | simp only [onlyMk] | dsimp only | split | intro

theorem Only.ainCount (s : State) (k : Nat) (hk : Only fr s0 s) (m_regs : Part.regs ∈ fr) : Only fr s0 (ainCount s k) := by
  unfold Sys2Proof.Machine.ainCount
  with_reducible repeat' first
    | assumption | apply Only.add64 | exact Or.inl rfl | exact Or.inr (by assumption) | apply OnlyMk.intro
    | simp only [onlyMk] | dsimp only | split | intro

theorem Only.tryConfirm (s : State) (l : Nat) (hk : Only fr s0 s) (m_regs : Part.regs ∈ fr) (m_owed : Part.owed ∈ fr)
    (m_lastRaise : Part.lastRaise ∈ fr) (m_ainum : Part.ainum ∈ fr) (m_crier : Part.crier ∈ fr) (m_flt : Part.flt ∈ fr)
    : Only fr s0 (tryConfirm s l) := by
  unfold Sys2Proof.Machine.tryConfirm
  with_reducible repeat' first
    | assumption | apply Only.keyRefused | apply Only.queueMsg | apply Only.setAin | exact Or.inl rfl
    | exact Or.inr (by assumption) | apply OnlyMk.intro | simp only [onlyMk] | dsimp only | split | intro

theorem Only.ainAuthFail (s : State) (l : Nat) (hk : Only fr s0 s) (m_regs : Part.regs ∈ fr) (m_owed : Part.owed ∈ fr)
    (m_lastRaise : Part.lastRaise ∈ fr) (m_ainum : Part.ainum ∈ fr) (m_crier : Part.crier ∈ fr) (m_flt : Part.flt ∈ fr)
    : Only fr s0 (ainAuthFail s l) := by
  unfold Sys2Proof.Machine.ainAuthFail
  with_reducible repeat' first
    | assumption | apply Only.raiseLimited | apply Only.secCount | apply Only.ainCount | apply Only.setAin
    | apply Only.endSession | exact Or.inl rfl | exact Or.inr (by assumption) | apply OnlyMk.intro | simp only [onlyMk]
    | dsimp only | split | intro

theorem Only.ainReceive (s : State) (l : Nat) (m : AinMsg) (hk : Only fr s0 s) (m_regs : Part.regs ∈ fr)
    (m_owed : Part.owed ∈ fr) (m_lastRaise : Part.lastRaise ∈ fr) (m_ainum : Part.ainum ∈ fr) (m_crier : Part.crier ∈ fr)
    (m_flt : Part.flt ∈ fr) : Only fr s0 (ainReceive s l m).1 := by
  unfold Sys2Proof.Machine.ainReceive
  with_reducible repeat' first
    | assumption | apply Only.raiseLimited | apply Only.ainCount | apply Only.ainAuthFail | apply Only.secCount
    | apply Only.setAin | exact Or.inl rfl | exact Or.inr (by assumption) | apply OnlyMk.intro | simp only [onlyMk]
    | dsimp only | split | intro

theorem Only.ainTake (s : State) (l t : Nat) (m : AinMsg) (f : State → State) (hk : Only fr s0 s)
    (hf : ∀ t, Only fr s0 t → Only fr s0 (f t)) (m_regs : Part.regs ∈ fr) (m_owed : Part.owed ∈ fr)
    (m_lastRaise : Part.lastRaise ∈ fr) (m_ainum : Part.ainum ∈ fr) (m_crier : Part.crier ∈ fr) (m_flt : Part.flt ∈ fr)
    : Only fr s0 (ainTake s l t m f) := by
  unfold Sys2Proof.Machine.ainTake
  with_reducible repeat' first
    | assumption | apply hf | apply Only.ainReceive | exact Or.inl rfl | exact Or.inr (by assumption) | apply OnlyMk.intro
    | simp only [onlyMk] | dsimp only | split | intro

theorem Only.ainSent (s : State) (l : Nat) (pcs : Stamp) (m : AinMsg) (hk : Only fr s0 s) (m_regs : Part.regs ∈ fr)
    (m_owed : Part.owed ∈ fr) (m_lastRaise : Part.lastRaise ∈ fr) (m_ports : Part.ports ∈ fr) (m_ainum : Part.ainum ∈ fr)
    (m_crier : Part.crier ∈ fr) (m_flt : Part.flt ∈ fr) : Only fr s0 (ainSent s l pcs m) := by
  unfold Sys2Proof.Machine.ainSent
  with_reducible repeat' first
    | assumption | apply Only.tryConfirm | apply Only.setAin | apply Only.whenB | apply Only.takeStep | apply Only.goSent
    | exact Or.inl rfl | exact Or.inr (by assumption) | apply OnlyMk.intro | simp only [onlyMk] | dsimp only | split | intro

theorem Only.execAinumSend (port idle : Nat) (pcs : Stamp) (s : State) (hk : Only fr s0 s) (m_regs : Part.regs ∈ fr)
    (m_owed : Part.owed ∈ fr) (m_lastRaise : Part.lastRaise ∈ fr) (m_ports : Part.ports ∈ fr) (m_ainum : Part.ainum ∈ fr)
    (m_crier : Part.crier ∈ fr) (m_flt : Part.flt ∈ fr) (m_out : Part.out ∈ fr)
    : OnlyO fr s0 (execAinumSend port idle pcs s) := by
  unfold Sys2Proof.Machine.execAinumSend
  with_reducible repeat' first
    | assumption | apply Only.setAin | apply Only.whenB | apply Only.secCount | apply Only.ainCount | apply Only.ainSent
    | apply Only.forEach | apply Only.emit | apply OnlyO.next | exact Or.inl rfl | exact Or.inr (by assumption)
    | apply OnlyMk.intro | simp only [onlyMk] | dsimp only | split | intro

theorem Only.queueHello (s : State) (l : Nat) (hk : Only fr s0 s) (m_freeCtr : Part.freeCtr ∈ fr) (m_ainum : Part.ainum ∈ fr)
    (m_sec : Part.sec ∈ fr) : Only fr s0 (queueHello s l) := by
  unfold Sys2Proof.Machine.queueHello
  with_reducible repeat' first
    | assumption | apply Only.queueMsg | apply Only.drawn | exact Or.inl rfl | exact Or.inr (by assumption)
    | apply OnlyMk.intro | simp only [onlyMk] | dsimp only | split | intro

theorem Only.execHelloTimer (port : Nat) (s : State) (hk : Only fr s0 s) (m_freeCtr : Part.freeCtr ∈ fr)
    (m_ainum : Part.ainum ∈ fr) (m_sec : Part.sec ∈ fr) : OnlyO fr s0 (execHelloTimer port s) := by
  unfold Sys2Proof.Machine.execHelloTimer
  with_reducible repeat' first
    | assumption | apply Only.queueHello | apply OnlyO.next | exact Or.inl rfl | exact Or.inr (by assumption)
    | apply OnlyMk.intro | simp only [onlyMk] | dsimp only | split | intro

theorem Only.peerFound (s : State) (l : Nat) (hk : Only fr s0 s) (m_regs : Part.regs ∈ fr) (m_journal : Part.journal ∈ fr)
    (m_owed : Part.owed ∈ fr) (m_ports : Part.ports ∈ fr) (m_crier : Part.crier ∈ fr) (m_flt : Part.flt ∈ fr)
    (m_out : Part.out ∈ fr) : Only fr s0 (peerFound s l) := by
  unfold Sys2Proof.Machine.peerFound
  with_reducible repeat' first
    | assumption | apply Only.setBit | apply Only.whenB | apply Only.raise | apply Only.holdLadder | exact Or.inl rfl
    | exact Or.inr (by assumption) | apply OnlyMk.intro | simp only [onlyMk] | dsimp only | split | intro

theorem Only.execHello (port : Nat) (msg : AinMsg) (s : State) (hk : Only fr s0 s) (m_regs : Part.regs ∈ fr)
    (m_journal : Part.journal ∈ fr) (m_owed : Part.owed ∈ fr) (m_lastRaise : Part.lastRaise ∈ fr) (m_ports : Part.ports ∈ fr)
    (m_ainum : Part.ainum ∈ fr) (m_crier : Part.crier ∈ fr) (m_flt : Part.flt ∈ fr) (m_out : Part.out ∈ fr)
    : OnlyO fr s0 (execHello port msg s) := by
  unfold Sys2Proof.Machine.execHello
  with_reducible repeat' first
    | assumption | apply Only.ainTake | apply Only.raiseLimited | apply Only.setBit | apply Only.endSession
    | apply Only.whenB | apply Only.raise | apply Only.setF | apply Only.setReg64 | apply Only.setAin | apply Only.tryConfirm
    | apply Only.peerFound | apply OnlyO.next | exact Or.inl rfl | exact Or.inr (by assumption) | apply OnlyMk.intro
    | simp only [onlyMk] | dsimp only | split | intro

theorem Only.execConfirm (port : Nat) (msg : AinMsg) (s : State) (hk : Only fr s0 s) (m_regs : Part.regs ∈ fr)
    (m_journal : Part.journal ∈ fr) (m_owed : Part.owed ∈ fr) (m_lastRaise : Part.lastRaise ∈ fr) (m_ports : Part.ports ∈ fr)
    (m_ainum : Part.ainum ∈ fr) (m_crier : Part.crier ∈ fr) (m_flt : Part.flt ∈ fr) (m_out : Part.out ∈ fr)
    : OnlyO fr s0 (execConfirm port msg s) := by
  unfold Sys2Proof.Machine.execConfirm
  with_reducible repeat' first
    | assumption | apply Only.ainTake | apply Only.peerFound | apply OnlyO.next | exact Or.inl rfl
    | exact Or.inr (by assumption) | apply OnlyMk.intro | simp only [onlyMk] | dsimp only | split | intro

theorem Only.execPeerTimeout (port : Nat) (s : State) (hk : Only fr s0 s) (m_regs : Part.regs ∈ fr) (m_owed : Part.owed ∈ fr)
    (m_ainum : Part.ainum ∈ fr) (m_crier : Part.crier ∈ fr) (m_flt : Part.flt ∈ fr) : OnlyO fr s0 (execPeerTimeout port s) := by
  unfold Sys2Proof.Machine.execPeerTimeout
  with_reducible repeat' first
    | assumption | apply Only.endSession | apply OnlyO.next | exact Or.inl rfl | exact Or.inr (by assumption)
    | apply OnlyMk.intro | simp only [onlyMk] | dsimp only | split | intro

theorem Only.execStepPropose (port : Nat) (msg : AinMsg) (s : State) (hk : Only fr s0 s) (m_regs : Part.regs ∈ fr)
    (m_owed : Part.owed ∈ fr) (m_lastRaise : Part.lastRaise ∈ fr) (m_ports : Part.ports ∈ fr) (m_ainum : Part.ainum ∈ fr)
    (m_crier : Part.crier ∈ fr) (m_flt : Part.flt ∈ fr) : OnlyO fr s0 (execStepPropose port msg s) := by
  unfold Sys2Proof.Machine.execStepPropose
  with_reducible repeat' first
    | assumption | apply Only.ainTake | apply Only.queueMsg | apply Only.modPort | apply OnlyO.next | exact Or.inl rfl
    | exact Or.inr (by assumption) | apply OnlyMk.intro | simp only [onlyMk] | dsimp only | split | intro

theorem Only.execStepAck (port : Nat) (msg : AinMsg) (s : State) (hk : Only fr s0 s) (m_regs : Part.regs ∈ fr)
    (m_owed : Part.owed ∈ fr) (m_lastRaise : Part.lastRaise ∈ fr) (m_ports : Part.ports ∈ fr) (m_ainum : Part.ainum ∈ fr)
    (m_crier : Part.crier ∈ fr) (m_flt : Part.flt ∈ fr) : OnlyO fr s0 (execStepAck port msg s) := by
  unfold Sys2Proof.Machine.execStepAck
  with_reducible repeat' first
    | assumption | apply Only.ainTake | apply Only.takeStep | apply OnlyO.next | exact Or.inl rfl
    | exact Or.inr (by assumption) | apply OnlyMk.intro | simp only [onlyMk] | dsimp only | split | intro

theorem Only.answerProposals (s : State) (hk : Only fr s0 s) (m_ports : Part.ports ∈ fr) (m_ainum : Part.ainum ∈ fr)
    : Only fr s0 (answerProposals s) := by
  unfold Sys2Proof.Machine.answerProposals
  with_reducible repeat' first
    | assumption | apply Only.forEach | apply Only.modPort | apply Only.queueMsg | exact Or.inl rfl
    | exact Or.inr (by assumption) | apply OnlyMk.intro | simp only [onlyMk] | dsimp only | split | intro

theorem Only.execTimeSyncTimer (port : Nat) (s : State) (hk : Only fr s0 s) (m_ainum : Part.ainum ∈ fr)
    : OnlyO fr s0 (execTimeSyncTimer port s) := by
  unfold Sys2Proof.Machine.execTimeSyncTimer
  with_reducible repeat' first
    | assumption | apply Only.queueMsg | apply OnlyO.next | exact Or.inl rfl | exact Or.inr (by assumption)
    | apply OnlyMk.intro | simp only [onlyMk] | dsimp only | split | intro

theorem Only.execTimeSync (port : Nat) (msg : AinMsg) (t2 : Stamp) (s : State) (hk : Only fr s0 s) (m_regs : Part.regs ∈ fr)
    (m_owed : Part.owed ∈ fr) (m_lastRaise : Part.lastRaise ∈ fr) (m_ainum : Part.ainum ∈ fr) (m_crier : Part.crier ∈ fr)
    (m_flt : Part.flt ∈ fr) : OnlyO fr s0 (execTimeSync port msg t2 s) := by
  unfold Sys2Proof.Machine.execTimeSync
  with_reducible repeat' first
    | assumption | apply Only.ainTake | apply Only.queueMsg | apply OnlyO.next | exact Or.inl rfl
    | exact Or.inr (by assumption) | apply OnlyMk.intro | simp only [onlyMk] | dsimp only | split | intro

theorem Only.execTimeReply (port : Nat) (msg : AinMsg) (t4 : Stamp) (s : State) (hk : Only fr s0 s) (m_regs : Part.regs ∈ fr)
    (m_freeCtr : Part.freeCtr ∈ fr) (m_owed : Part.owed ∈ fr) (m_lastRaise : Part.lastRaise ∈ fr) (m_ainum : Part.ainum ∈ fr)
    (m_crier : Part.crier ∈ fr) (m_flt : Part.flt ∈ fr) : OnlyO fr s0 (execTimeReply port msg t4 s) := by
  unfold Sys2Proof.Machine.execTimeReply
  with_reducible repeat' first
    | assumption | apply Only.ainTake | apply Only.setAin | apply Only.drawn | apply Only.setReg64 | apply Only.setReg
    | apply Only.setBit | apply Only.whenB | apply Only.raise | apply OnlyO.next | exact Or.inl rfl
    | exact Or.inr (by assumption) | apply OnlyMk.intro | simp only [onlyMk] | dsimp only | split | intro

theorem Only.sendToken (s : State) (ports : List Nat) (hop payload : Nat) (hk : Only fr s0 s) (m_ainum : Part.ainum ∈ fr)
    : Only fr s0 (sendToken s ports hop payload) := by
  unfold Sys2Proof.Machine.sendToken
  with_reducible repeat' first
    | assumption | apply Only.forEach | apply Only.queueMsg | exact Or.inl rfl | exact Or.inr (by assumption)
    | apply OnlyMk.intro | simp only [onlyMk] | dsimp only | split | intro

theorem Only.execToken (port : Nat) (msg : AinMsg) (s : State) (hk : Only fr s0 s) (m_regs : Part.regs ∈ fr)
    (m_owed : Part.owed ∈ fr) (m_lastRaise : Part.lastRaise ∈ fr) (m_prg : Part.prg ∈ fr) (m_ainum : Part.ainum ∈ fr)
    (m_crier : Part.crier ∈ fr) (m_flt : Part.flt ∈ fr) : OnlyO fr s0 (execToken port msg s) := by
  unfold Sys2Proof.Machine.execToken
  with_reducible repeat' first
    | assumption | apply Only.ainTake | apply Only.raiseLimited | apply Only.ainCount | apply Only.raise | apply Only.setReg
    | apply Only.tokenArrive | apply Only.add64 | apply Only.sendToken | apply OnlyO.next | exact Or.inl rfl
    | exact Or.inr (by assumption) | apply OnlyMk.intro | simp only [onlyMk] | dsimp only | split | intro

theorem Only.execTokenGo (s : State) (hk : Only fr s0 s) (m_regs : Part.regs ∈ fr) (m_owed : Part.owed ∈ fr)
    (m_top : Part.top ∈ fr) (m_prg : Part.prg ∈ fr) (m_ainum : Part.ainum ∈ fr) (m_crier : Part.crier ∈ fr)
    (m_flt : Part.flt ∈ fr) : OnlyO fr s0 (execTokenGo s) := by
  unfold Sys2Proof.Machine.execTokenGo
  with_reducible repeat' first
    | assumption | apply Only.holdWrite | apply Only.setReg | apply Only.tokenArrive | apply Only.setBit
    | apply Only.sendToken | apply Only.goSent | apply OnlyO.next | exact Or.inl rfl | exact Or.inr (by assumption)
    | apply OnlyMk.intro | simp only [onlyMk] | dsimp only | split | intro

theorem Only.capNotice (s : State) (kind hall step us : Nat) (hk : Only fr s0 s) (m_ainum : Part.ainum ∈ fr)
    : Only fr s0 (capNotice s kind hall step us) := by
  unfold Sys2Proof.Machine.capNotice
  with_reducible repeat' first
    | assumption | apply Only.step | apply Only.forEach | apply Only.queueMsg | exact Or.inl rfl
    | exact Or.inr (by assumption) | apply OnlyMk.intro | simp only [onlyMk] | dsimp only | split | intro

theorem Only.execCapNotice (port : Nat) (msg : AinMsg) (s : State) (hk : Only fr s0 s) (m_regs : Part.regs ∈ fr)
    (m_owed : Part.owed ∈ fr) (m_lastRaise : Part.lastRaise ∈ fr) (m_ainum : Part.ainum ∈ fr) (m_crier : Part.crier ∈ fr)
    (m_flt : Part.flt ∈ fr) : OnlyO fr s0 (execCapNotice port msg s) := by
  unfold Sys2Proof.Machine.execCapNotice
  with_reducible repeat' first
    | assumption | apply Only.ainTake | apply Only.raise | apply Only.setReg64 | apply OnlyO.next | exact Or.inl rfl
    | exact Or.inr (by assumption) | apply OnlyMk.intro | simp only [onlyMk] | dsimp only | split | intro

theorem Only.setBay (s : State) (c : Nat) (b : Bay) (hk : Only fr s0 s) (m_bays : Part.bays ∈ fr)
    : Only fr s0 (setBay s c b) := by
  unfold Sys2Proof.Machine.setBay
  with_reducible repeat' first
    | assumption | exact Or.inl rfl | exact Or.inr (by assumption) | apply OnlyMk.intro | simp only [onlyMk] | dsimp only
    | split | intro

theorem Only.modBay (s : State) (c : Nat) (f : Bay → Bay) (hk : Only fr s0 s) (m_bays : Part.bays ∈ fr)
    : Only fr s0 (modBay s c f) := by
  unfold Sys2Proof.Machine.modBay
  with_reducible repeat' first
    | assumption | apply Only.setBay | exact Or.inl rfl | exact Or.inr (by assumption) | apply OnlyMk.intro
    | simp only [onlyMk] | dsimp only | split | intro

theorem Only.updSafe (s : State) (hk : Only fr s0 s) (m_regs : Part.regs ∈ fr) : Only fr s0 (updSafe s) := by
  unfold Sys2Proof.Machine.updSafe
  with_reducible repeat' first
    | assumption | apply Only.forEach | apply Only.setBit | exact Or.inl rfl | exact Or.inr (by assumption)
    | apply OnlyMk.intro | simp only [onlyMk] | dsimp only | split | intro

theorem Only.cartDone (s : State) (hk : Only fr s0 s) (m_regs : Part.regs ∈ fr) (m_owed : Part.owed ∈ fr)
    (m_crier : Part.crier ∈ fr) (m_flt : Part.flt ∈ fr) : Only fr s0 (cartDone s) := by
  unfold Sys2Proof.Machine.cartDone
  with_reducible repeat' first
    | assumption | apply Only.ladderDone | apply Only.setBringup | exact Or.inl rfl | exact Or.inr (by assumption)
    | apply OnlyMk.intro | simp only [onlyMk] | dsimp only | split | intro

theorem Only.bayTo (s : State) (c st : Nat) (tell : Bool) (hk : Only fr s0 s) (m_regs : Part.regs ∈ fr)
    (m_owed : Part.owed ∈ fr) (m_crier : Part.crier ∈ fr) (m_flt : Part.flt ∈ fr) : Only fr s0 (bayTo s c st tell) := by
  unfold Sys2Proof.Machine.bayTo
  with_reducible repeat' first
    | assumption | apply Only.whenB | apply Only.raise | apply Only.cartDone | apply Only.updSafe | apply Only.setF
    | exact Or.inl rfl | exact Or.inr (by assumption) | apply OnlyMk.intro | simp only [onlyMk] | dsimp only | split | intro

theorem Only.setTarget (s : State) (c n t : Nat) (hk : Only fr s0 s) (m_regs : Part.regs ∈ fr)
    (m_freeCtr : Part.freeCtr ∈ fr) (m_bays : Part.bays ∈ fr) : Only fr s0 (setTarget s c n t) := by
  unfold Sys2Proof.Machine.setTarget
  with_reducible repeat' first
    | assumption | apply Only.whenB | apply Only.drawn | apply Only.modBay | apply Only.setReg64 | exact Or.inl rfl
    | exact Or.inr (by assumption) | apply OnlyMk.intro | simp only [onlyMk] | dsimp only | split | intro

theorem Only.inputDark (s : State) (g i : Nat) (hk : Only fr s0 s) (m_regs : Part.regs ∈ fr) (m_owed : Part.owed ∈ fr)
    (m_ports : Part.ports ∈ fr) (m_sched : Part.sched ∈ fr) (m_ainum : Part.ainum ∈ fr) (m_crier : Part.crier ∈ fr)
    (m_flt : Part.flt ∈ fr) : Only fr s0 (inputDark s g i) := by
  unfold Sys2Proof.Machine.inputDark
  with_reducible repeat' first
    | assumption | apply Only.forEach | apply Only.linkDown | exact Or.inl rfl | exact Or.inr (by assumption)
    | apply OnlyMk.intro | simp only [onlyMk] | dsimp only | split | intro

theorem Only.bayDark (s : State) (c : Nat) (hk : Only fr s0 s) (m_regs : Part.regs ∈ fr) (m_owed : Part.owed ∈ fr)
    (m_ports : Part.ports ∈ fr) (m_sched : Part.sched ∈ fr) (m_ainum : Part.ainum ∈ fr) (m_crier : Part.crier ∈ fr)
    (m_flt : Part.flt ∈ fr) (m_bays : Part.bays ∈ fr) : Only fr s0 (bayDark s c) := by
  unfold Sys2Proof.Machine.bayDark
  with_reducible repeat' first
    | assumption | apply Only.modBay | apply Only.setReg64 | apply Only.forEach | apply Only.inputDark | exact Or.inl rfl
    | exact Or.inr (by assumption) | apply OnlyMk.intro | simp only [onlyMk] | dsimp only | split | intro

theorem Only.wearReport (s : State) (c : Nat) (hk : Only fr s0 s) (m_regs : Part.regs ∈ fr) (m_owed : Part.owed ∈ fr)
    (m_crier : Part.crier ∈ fr) (m_flt : Part.flt ∈ fr) : Only fr s0 (wearReport s c) := by
  unfold Sys2Proof.Machine.wearReport
  with_reducible repeat' first
    | assumption | apply Only.setReg | apply Only.setBit | apply Only.forEach | apply Only.raise | exact Or.inl rfl
    | exact Or.inr (by assumption) | apply OnlyMk.intro | simp only [onlyMk] | dsimp only | split | intro

theorem Only.wearRecord (s : State) (c : Nat) (hk : Only fr s0 s) (m_regs : Part.regs ∈ fr) (m_journal : Part.journal ∈ fr)
    (m_owed : Part.owed ∈ fr) (m_crier : Part.crier ∈ fr) (m_flt : Part.flt ∈ fr) (m_bays : Part.bays ∈ fr)
    (m_out : Part.out ∈ fr) : Only fr s0 (wearRecord s c) := by
  unfold Sys2Proof.Machine.wearRecord
  with_reducible repeat' first
    | assumption | apply Only.modBay | apply Only.jrnOwe | exact Or.inl rfl | exact Or.inr (by assumption)
    | apply OnlyMk.intro | simp only [onlyMk] | dsimp only | split | intro

theorem Only.execWearTick (outputs : List (Nat × Nat × Nat)) (s : State) (hk : Only fr s0 s) (m_regs : Part.regs ∈ fr)
    (m_owed : Part.owed ∈ fr) (m_crier : Part.crier ∈ fr) (m_flt : Part.flt ∈ fr) (m_bays : Part.bays ∈ fr)
    : OnlyO fr s0 (execWearTick outputs s) := by
  unfold Sys2Proof.Machine.execWearTick
  with_reducible repeat' first
    | assumption | apply Only.forEach | apply Only.wearReport | apply Only.setBay | apply Only.foldl | apply Only.foldl1
    | apply OnlyO.next | exact Or.inl rfl | exact Or.inr (by assumption) | apply OnlyMk.intro | simp only [onlyMk]
    | dsimp only | split | intro

theorem Only.execWearRecordWrite (failedBlocks : List Nat) (s : State) (hk : Only fr s0 s) (m_regs : Part.regs ∈ fr)
    (m_journal : Part.journal ∈ fr) (m_owed : Part.owed ∈ fr) (m_crier : Part.crier ∈ fr) (m_flt : Part.flt ∈ fr)
    (m_bays : Part.bays ∈ fr) (m_out : Part.out ∈ fr) : OnlyO fr s0 (execWearRecordWrite failedBlocks s) := by
  unfold Sys2Proof.Machine.execWearRecordWrite
  with_reducible repeat' first
    | assumption | apply Only.jrnFailed | apply Only.forEach | apply Only.wearRecord | apply OnlyO.next | exact Or.inl rfl
    | exact Or.inr (by assumption) | apply OnlyMk.intro | simp only [onlyMk] | dsimp only | split | intro

theorem Only.noteUnsafe (s : State) (c : Nat) (hk : Only fr s0 s) (m_regs : Part.regs ∈ fr) (m_owed : Part.owed ∈ fr)
    (m_crier : Part.crier ∈ fr) (m_flt : Part.flt ∈ fr) : Only fr s0 (noteUnsafe s c) := by
  unfold Sys2Proof.Machine.noteUnsafe
  with_reducible repeat' first
    | assumption | apply Only.whenB | apply Only.raise | exact Or.inl rfl | exact Or.inr (by assumption) | apply OnlyMk.intro
    | simp only [onlyMk] | dsimp only | split | intro

theorem Only.startRemoval (s : State) (c : Nat) (hk : Only fr s0 s) (m_regs : Part.regs ∈ fr) (m_owed : Part.owed ∈ fr)
    (m_crier : Part.crier ∈ fr) (m_flt : Part.flt ∈ fr) (m_bays : Part.bays ∈ fr) : Only fr s0 (startRemoval s c) := by
  unfold Sys2Proof.Machine.startRemoval
  with_reducible repeat' first
    | assumption | apply Only.modBay | apply Only.noteUnsafe | apply Only.step | exact Or.inl rfl
    | exact Or.inr (by assumption) | apply OnlyMk.intro | simp only [onlyMk] | dsimp only | split | intro

theorem Only.enLow (s : State) (c : Nat) (hk : Only fr s0 s) (m_regs : Part.regs ∈ fr) (m_owed : Part.owed ∈ fr)
    (m_ports : Part.ports ∈ fr) (m_sched : Part.sched ∈ fr) (m_ainum : Part.ainum ∈ fr) (m_crier : Part.crier ∈ fr)
    (m_flt : Part.flt ∈ fr) (m_bays : Part.bays ∈ fr) : Only fr s0 (enLow s c) := by
  unfold Sys2Proof.Machine.enLow
  with_reducible repeat' first
    | assumption | apply Only.bayDark | apply Only.setBit | exact Or.inl rfl | exact Or.inr (by assumption)
    | apply OnlyMk.intro | simp only [onlyMk] | dsimp only | split | intro

theorem Only.abandon (s : State) (c : Nat) (hk : Only fr s0 s) (m_regs : Part.regs ∈ fr) (m_owed : Part.owed ∈ fr)
    (m_ports : Part.ports ∈ fr) (m_sched : Part.sched ∈ fr) (m_ainum : Part.ainum ∈ fr) (m_crier : Part.crier ∈ fr)
    (m_flt : Part.flt ∈ fr) (m_bays : Part.bays ∈ fr) : Only fr s0 (abandon s c) := by
  unfold Sys2Proof.Machine.abandon
  with_reducible repeat' first
    | assumption | apply Only.modBay | apply Only.enLow | apply Only.step | exact Or.inl rfl | exact Or.inr (by assumption)
    | apply OnlyMk.intro | simp only [onlyMk] | dsimp only | split | intro

theorem Only.reverseRamp (s : State) (c : Nat) (hk : Only fr s0 s) (m_regs : Part.regs ∈ fr) (m_owed : Part.owed ∈ fr)
    (m_crier : Part.crier ∈ fr) (m_flt : Part.flt ∈ fr) (m_bays : Part.bays ∈ fr) : Only fr s0 (reverseRamp s c) := by
  unfold Sys2Proof.Machine.reverseRamp
  with_reducible repeat' first
    | assumption | apply Only.bayTo | apply Only.modBay | apply Only.noteUnsafe | apply Only.step | exact Or.inl rfl
    | exact Or.inr (by assumption) | apply OnlyMk.intro | simp only [onlyMk] | dsimp only | split | intro

theorem Only.latchOpened (s : State) (c : Nat) (hk : Only fr s0 s) (m_regs : Part.regs ∈ fr) (m_owed : Part.owed ∈ fr)
    (m_ports : Part.ports ∈ fr) (m_sched : Part.sched ∈ fr) (m_ainum : Part.ainum ∈ fr) (m_crier : Part.crier ∈ fr)
    (m_flt : Part.flt ∈ fr) (m_bays : Part.bays ∈ fr) : Only fr s0 (latchOpened s c) := by
  unfold Sys2Proof.Machine.latchOpened
  with_reducible repeat' first
    | assumption | apply Only.abandon | apply Only.modBay | apply Only.reverseRamp | apply Only.startRemoval
    | exact Or.inl rfl | exact Or.inr (by assumption) | apply OnlyMk.intro | simp only [onlyMk] | dsimp only | split | intro

theorem Only.forgetCart (s : State) (c : Nat) (hk : Only fr s0 s) (m_regs : Part.regs ∈ fr) (m_bays : Part.bays ∈ fr)
    : Only fr s0 (forgetCart s c) := by
  unfold Sys2Proof.Machine.forgetCart
  with_reducible repeat' first
    | assumption | apply Only.setReg64 | apply Only.setReg | apply Only.setBit | apply Only.setF | apply Only.modBay
    | exact Or.inl rfl | exact Or.inr (by assumption) | apply OnlyMk.intro | simp only [onlyMk] | dsimp only | split | intro

theorem Only.failShare (s : State) (bay ch : Nat) (hk : Only fr s0 s) (m_regs : Part.regs ∈ fr)
    (m_freeCtr : Part.freeCtr ∈ fr) (m_owed : Part.owed ∈ fr) (m_ports : Part.ports ∈ fr) (m_sched : Part.sched ∈ fr)
    (m_ainum : Part.ainum ∈ fr) (m_crier : Part.crier ∈ fr) (m_flt : Part.flt ∈ fr) (m_bays : Part.bays ∈ fr)
    : Only fr s0 (failShare s bay ch) := by
  unfold Sys2Proof.Machine.failShare
  with_reducible repeat' first
    | assumption | apply Only.setReg64 | apply Only.modBay | apply Only.setTarget | apply Only.inputDark | apply Only.raise
    | apply Only.updSafe | exact Or.inl rfl | exact Or.inr (by assumption) | apply OnlyMk.intro | simp only [onlyMk]
    | dsimp only | split | intro

theorem Only.startInsert (s : State) (c : Nat) (hk : Only fr s0 s) (m_regs : Part.regs ∈ fr) (m_owed : Part.owed ∈ fr)
    (m_crier : Part.crier ∈ fr) (m_flt : Part.flt ∈ fr) (m_bays : Part.bays ∈ fr) : Only fr s0 (startInsert s c) := by
  unfold Sys2Proof.Machine.startInsert
  with_reducible repeat' first
    | assumption | apply Only.bayTo | apply Only.modBay | apply Only.step | exact Or.inl rfl | exact Or.inr (by assumption)
    | apply OnlyMk.intro | simp only [onlyMk] | dsimp only | split | intro

theorem Only.execCartPresenceChange (bay : Nat) (present : Bool) (s : State) (hk : Only fr s0 s) (m_regs : Part.regs ∈ fr)
    (m_freeCtr : Part.freeCtr ∈ fr) (m_owed : Part.owed ∈ fr) (m_ports : Part.ports ∈ fr) (m_sched : Part.sched ∈ fr)
    (m_ainum : Part.ainum ∈ fr) (m_crier : Part.crier ∈ fr) (m_flt : Part.flt ∈ fr) (m_bays : Part.bays ∈ fr)
    : OnlyO fr s0 (execCartPresenceChange bay present s) := by
  unfold Sys2Proof.Machine.execCartPresenceChange
  with_reducible repeat' first
    | assumption | apply Only.setBit | apply Only.startInsert | apply Only.bayTo | apply Only.forEach | apply Only.failShare
    | apply Only.forgetCart | apply Only.abandon | apply OnlyO.next | exact Or.inl rfl | exact Or.inr (by assumption)
    | apply OnlyMk.intro | simp only [onlyMk] | dsimp only | split | intro

theorem Only.execCartLatchOpen (bay : Nat) (s : State) (hk : Only fr s0 s) (m_regs : Part.regs ∈ fr)
    (m_owed : Part.owed ∈ fr) (m_ports : Part.ports ∈ fr) (m_sched : Part.sched ∈ fr) (m_ainum : Part.ainum ∈ fr)
    (m_crier : Part.crier ∈ fr) (m_flt : Part.flt ∈ fr) (m_bays : Part.bays ∈ fr) : OnlyO fr s0 (execCartLatchOpen bay s) := by
  unfold Sys2Proof.Machine.execCartLatchOpen
  with_reducible repeat' first
    | assumption | apply Only.setBit | apply Only.latchOpened | apply OnlyO.next | exact Or.inl rfl
    | exact Or.inr (by assumption) | apply OnlyMk.intro | simp only [onlyMk] | dsimp only | split | intro

theorem Only.execCartLatchClose (bay : Nat) (s : State) (hk : Only fr s0 s) (m_regs : Part.regs ∈ fr)
    (m_owed : Part.owed ∈ fr) (m_crier : Part.crier ∈ fr) (m_flt : Part.flt ∈ fr) (m_bays : Part.bays ∈ fr)
    : OnlyO fr s0 (execCartLatchClose bay s) := by
  unfold Sys2Proof.Machine.execCartLatchClose
  with_reducible repeat' first
    | assumption | apply Only.setBit | apply Only.startInsert | apply Only.modBay | apply OnlyO.next | exact Or.inl rfl
    | exact Or.inr (by assumption) | apply OnlyMk.intro | simp only [onlyMk] | dsimp only | split | intro

theorem Only.serveAsked (s : State) (c : Nat) (hk : Only fr s0 s) (m_regs : Part.regs ∈ fr) (m_owed : Part.owed ∈ fr)
    (m_ports : Part.ports ∈ fr) (m_sched : Part.sched ∈ fr) (m_ainum : Part.ainum ∈ fr) (m_crier : Part.crier ∈ fr)
    (m_flt : Part.flt ∈ fr) (m_bays : Part.bays ∈ fr) : Only fr s0 (serveAsked s c) := by
  unfold Sys2Proof.Machine.serveAsked
  with_reducible repeat' first
    | assumption | apply Only.modBay | apply Only.latchOpened | exact Or.inl rfl | exact Or.inr (by assumption)
    | apply OnlyMk.intro | simp only [onlyMk] | dsimp only | split | intro

theorem Only.execCartInt (bay : Nat) (shutdown : Bool) (s : State) (hk : Only fr s0 s) (m_regs : Part.regs ∈ fr)
    (m_owed : Part.owed ∈ fr) (m_ports : Part.ports ∈ fr) (m_sched : Part.sched ∈ fr) (m_ainum : Part.ainum ∈ fr)
    (m_crier : Part.crier ∈ fr) (m_flt : Part.flt ∈ fr) (m_bays : Part.bays ∈ fr)
    : OnlyO fr s0 (execCartInt bay shutdown s) := by
  unfold Sys2Proof.Machine.execCartInt
  with_reducible repeat' first
    | assumption | apply Only.modBay | apply Only.serveAsked | apply OnlyO.next | exact Or.inl rfl
    | exact Or.inr (by assumption) | apply OnlyMk.intro | simp only [onlyMk] | dsimp only | split | intro

theorem Only.execRemovalRampStart (bay : Nat) (s : State) (hk : Only fr s0 s) (m_regs : Part.regs ∈ fr)
    (m_owed : Part.owed ∈ fr) (m_crier : Part.crier ∈ fr) (m_flt : Part.flt ∈ fr) (m_bays : Part.bays ∈ fr)
    : OnlyO fr s0 (execRemovalRampStart bay s) := by
  unfold Sys2Proof.Machine.execRemovalRampStart
  with_reducible repeat' first
    | assumption | apply Only.modBay | apply Only.step | apply Only.bayTo | apply OnlyO.next | exact Or.inl rfl
    | exact Or.inr (by assumption) | apply OnlyMk.intro | simp only [onlyMk] | dsimp only | split | intro

theorem Only.execRemovalRampDone (bay : Nat) (s : State) (hk : Only fr s0 s) (m_regs : Part.regs ∈ fr)
    (m_freeCtr : Part.freeCtr ∈ fr) (m_bays : Part.bays ∈ fr) : OnlyO fr s0 (execRemovalRampDone bay s) := by
  unfold Sys2Proof.Machine.execRemovalRampDone
  with_reducible repeat' first
    | assumption | apply Only.modBay | apply Only.step | apply Only.forEach | apply Only.setTarget | apply OnlyO.next
    | exact Or.inl rfl | exact Or.inr (by assumption) | apply OnlyMk.intro | simp only [onlyMk] | dsimp only | split | intro

theorem Only.execRemovalEnLow (bay : Nat) (s : State) (hk : Only fr s0 s) (m_regs : Part.regs ∈ fr)
    (m_journal : Part.journal ∈ fr) (m_owed : Part.owed ∈ fr) (m_ports : Part.ports ∈ fr) (m_sched : Part.sched ∈ fr)
    (m_ainum : Part.ainum ∈ fr) (m_crier : Part.crier ∈ fr) (m_flt : Part.flt ∈ fr) (m_bays : Part.bays ∈ fr)
    (m_out : Part.out ∈ fr) : OnlyO fr s0 (execRemovalEnLow bay s) := by
  unfold Sys2Proof.Machine.execRemovalEnLow
  with_reducible repeat' first
    | assumption | apply Only.enLow | apply Only.wearRecord | apply Only.modBay | apply Only.step | apply Only.startInsert
    | apply OnlyO.next | exact Or.inl rfl | exact Or.inr (by assumption) | apply OnlyMk.intro | simp only [onlyMk]
    | dsimp only | split | intro

theorem Only.sendChallenge (s : State) (c : Nat) (hk : Only fr s0 s) (m_freeCtr : Part.freeCtr ∈ fr)
    (m_bays : Part.bays ∈ fr) (m_sec : Part.sec ∈ fr) (m_out : Part.out ∈ fr) : Only fr s0 (sendChallenge s c) := by
  unfold Sys2Proof.Machine.sendChallenge
  with_reducible repeat' first
    | assumption | apply Only.emit | apply Only.modBay | apply Only.drawn | exact Or.inl rfl | exact Or.inr (by assumption)
    | apply OnlyMk.intro | simp only [onlyMk] | dsimp only | split | intro

theorem Only.readIdentity (s : State) (c : Nat) (i : Identity) (hk : Only fr s0 s) (m_regs : Part.regs ∈ fr)
    (m_freeCtr : Part.freeCtr ∈ fr) (m_journal : Part.journal ∈ fr) (m_owed : Part.owed ∈ fr) (m_crier : Part.crier ∈ fr)
    (m_flt : Part.flt ∈ fr) (m_bays : Part.bays ∈ fr) (m_sec : Part.sec ∈ fr) (m_out : Part.out ∈ fr)
    : Only fr s0 (readIdentity s c i) := by
  unfold Sys2Proof.Machine.readIdentity
  with_reducible repeat' first
    | assumption | apply Only.jrnReads | apply Only.whenB | apply Only.modBay | apply Only.setReg64 | apply Only.emit
    | apply Only.step | apply Only.sendChallenge | apply Only.wearReport | apply Only.foldl | apply Only.foldl1
    | exact Or.inl rfl | exact Or.inr (by assumption) | apply OnlyMk.intro | simp only [onlyMk] | dsimp only | split | intro

theorem Only.execCartAuthenticating (bay : Nat) (identity : Identity) (s : State) (hk : Only fr s0 s)
    (m_regs : Part.regs ∈ fr) (m_freeCtr : Part.freeCtr ∈ fr) (m_journal : Part.journal ∈ fr) (m_owed : Part.owed ∈ fr)
    (m_crier : Part.crier ∈ fr) (m_flt : Part.flt ∈ fr) (m_bays : Part.bays ∈ fr) (m_sec : Part.sec ∈ fr) (m_out : Part.out ∈ fr)
    : OnlyO fr s0 (execCartAuthenticating bay identity s) := by
  unfold Sys2Proof.Machine.execCartAuthenticating
  with_reducible repeat' first
    | assumption | apply Only.bayTo | apply Only.modBay | apply Only.step | apply Only.readIdentity | apply OnlyO.next
    | exact Or.inl rfl | exact Or.inr (by assumption) | apply OnlyMk.intro | simp only [onlyMk] | dsimp only | split | intro

theorem Only.noteTrust (s : State) (c : Nat) (ok : Bool) (hk : Only fr s0 s) (m_regs : Part.regs ∈ fr)
    (m_bays : Part.bays ∈ fr) : Only fr s0 (noteTrust s c ok) := by
  unfold Sys2Proof.Machine.noteTrust
  with_reducible repeat' first
    | assumption | apply Only.setBit | apply Only.whenB | apply Only.secCount | apply Only.setReg | apply Only.modBay
    | apply Only.foldl | apply Only.foldl1 | exact Or.inl rfl | exact Or.inr (by assumption) | apply OnlyMk.intro
    | simp only [onlyMk] | dsimp only | split | intro

theorem Only.applyPolicy (s : State) (c : Nat) (ok : Bool) (hk : Only fr s0 s) (m_regs : Part.regs ∈ fr)
    (m_owed : Part.owed ∈ fr) (m_crier : Part.crier ∈ fr) (m_flt : Part.flt ∈ fr) (m_bays : Part.bays ∈ fr)
    : Only fr s0 (applyPolicy s c ok) := by
  unfold Sys2Proof.Machine.applyPolicy
  with_reducible repeat' first
    | assumption | apply Only.whenB | apply Only.raise | apply Only.modBay | apply Only.step | apply Only.bayTo
    | exact Or.inl rfl | exact Or.inr (by assumption) | apply OnlyMk.intro | simp only [onlyMk] | dsimp only | split | intro

theorem Only.execCartChallengeCheck (bay : Nat) (tag : List Byte) (s : State) (hk : Only fr s0 s) (m_regs : Part.regs ∈ fr)
    (m_owed : Part.owed ∈ fr) (m_crier : Part.crier ∈ fr) (m_flt : Part.flt ∈ fr) (m_bays : Part.bays ∈ fr)
    : OnlyO fr s0 (execCartChallengeCheck bay tag s) := by
  unfold Sys2Proof.Machine.execCartChallengeCheck
  with_reducible repeat' first
    | assumption | apply Only.applyPolicy | apply Only.noteTrust | apply OnlyO.next | exact Or.inl rfl
    | exact Or.inr (by assumption) | apply OnlyMk.intro | simp only [onlyMk] | dsimp only | split | intro

theorem Only.execCartEnRaise (bay : Nat) (s : State) (hk : Only fr s0 s) (m_regs : Part.regs ∈ fr) (m_bays : Part.bays ∈ fr)
    : OnlyO fr s0 (execCartEnRaise bay s) := by
  unfold Sys2Proof.Machine.execCartEnRaise
  with_reducible repeat' first
    | assumption | apply Only.modBay | apply Only.setBit | apply Only.step | apply OnlyO.next | exact Or.inl rfl
    | exact Or.inr (by assumption) | apply OnlyMk.intro | simp only [onlyMk] | dsimp only | split | intro

theorem Only.execCartActivate (bay : Nat) (s : State) (hk : Only fr s0 s) (m_regs : Part.regs ∈ fr)
    (m_freeCtr : Part.freeCtr ∈ fr) (m_owed : Part.owed ∈ fr) (m_crier : Part.crier ∈ fr) (m_flt : Part.flt ∈ fr)
    (m_bays : Part.bays ∈ fr) : OnlyO fr s0 (execCartActivate bay s) := by
  unfold Sys2Proof.Machine.execCartActivate
  with_reducible repeat' first
    | assumption | apply Only.modBay | apply Only.step | apply Only.forEach | apply Only.setTarget | apply Only.bayTo
    | apply OnlyO.next | exact Or.inl rfl | exact Or.inr (by assumption) | apply OnlyMk.intro | simp only [onlyMk]
    | dsimp only | split | intro

theorem Only.execShareFailed (bay ch : Nat) (s : State) (hk : Only fr s0 s) (m_regs : Part.regs ∈ fr)
    (m_freeCtr : Part.freeCtr ∈ fr) (m_owed : Part.owed ∈ fr) (m_ports : Part.ports ∈ fr) (m_sched : Part.sched ∈ fr)
    (m_ainum : Part.ainum ∈ fr) (m_crier : Part.crier ∈ fr) (m_flt : Part.flt ∈ fr) (m_bays : Part.bays ∈ fr)
    : OnlyO fr s0 (execShareFailed bay ch s) := by
  unfold Sys2Proof.Machine.execShareFailed
  with_reducible repeat' first
    | assumption | apply Only.failShare | apply OnlyO.next | exact Or.inl rfl | exact Or.inr (by assumption)
    | apply OnlyMk.intro | simp only [onlyMk] | dsimp only | split | intro

theorem Only.execLightLow (g input : Nat) (s : State) (hk : Only fr s0 s) (m_regs : Part.regs ∈ fr) (m_owed : Part.owed ∈ fr)
    (m_crier : Part.crier ∈ fr) (m_flt : Part.flt ∈ fr) : OnlyO fr s0 (execLightLow g input s) := by
  unfold Sys2Proof.Machine.execLightLow
  with_reducible repeat' first
    | assumption | apply Only.forEach | apply Only.laneEvent | apply OnlyO.next | exact Or.inl rfl
    | exact Or.inr (by assumption) | apply OnlyMk.intro | simp only [onlyMk] | dsimp only | split | intro

theorem Only.execCurrentLoopStep (bay ch want : Nat) (s : State) (hk : Only fr s0 s) (m_bays : Part.bays ∈ fr)
    : OnlyO fr s0 (execCurrentLoopStep bay ch want s) := by
  unfold Sys2Proof.Machine.execCurrentLoopStep
  with_reducible repeat' first
    | assumption | apply Only.modBay | apply OnlyO.next | exact Or.inl rfl | exact Or.inr (by assumption)
    | apply OnlyMk.intro | simp only [onlyMk] | dsimp only | split | intro

theorem Only.execCartPolicyConflict (bay ch want : Nat) (s : State) (hk : Only fr s0 s) (m_regs : Part.regs ∈ fr)
    (m_owed : Part.owed ∈ fr) (m_lastRaise : Part.lastRaise ∈ fr) (m_crier : Part.crier ∈ fr) (m_flt : Part.flt ∈ fr)
    : OnlyO fr s0 (execCartPolicyConflict bay ch want s) := by
  unfold Sys2Proof.Machine.execCartPolicyConflict
  with_reducible repeat' first
    | assumption | apply Only.raiseLimited | apply Only.setReg | apply OnlyO.next | exact Or.inl rfl
    | exact Or.inr (by assumption) | apply OnlyMk.intro | simp only [onlyMk] | dsimp only | split | intro

theorem Only.doReadId (c : HostCmd) (s : State) (hk : Only fr s0 s) (m_regs : Part.regs ∈ fr) (m_freeCtr : Part.freeCtr ∈ fr)
    (m_owed : Part.owed ∈ fr) (m_hif : Part.hif ∈ fr) (m_crier : Part.crier ∈ fr) (m_flt : Part.flt ∈ fr) (m_out : Part.out ∈ fr)
    : Only fr s0 (doReadId c s) := by
  unfold Sys2Proof.Machine.doReadId
  with_reducible repeat' first
    | assumption | apply Only.complete | apply Only.completeData | apply Only.drawn | exact Or.inl rfl
    | exact Or.inr (by assumption) | apply OnlyMk.intro | simp only [onlyMk] | dsimp only | split | intro

theorem Only.execReadId (cmd : HostCmd) (s : State) (hk : Only fr s0 s) (m_regs : Part.regs ∈ fr)
    (m_freeCtr : Part.freeCtr ∈ fr) (m_owed : Part.owed ∈ fr) (m_hif : Part.hif ∈ fr) (m_crier : Part.crier ∈ fr)
    (m_flt : Part.flt ∈ fr) (m_out : Part.out ∈ fr) : OnlyO fr s0 (execReadId cmd s) := by
  unfold Sys2Proof.Machine.execReadId
  with_reducible repeat' first
    | assumption | apply Only.runCmd | apply Only.doReadId | apply OnlyO.next | exact Or.inl rfl
    | exact Or.inr (by assumption) | apply OnlyMk.intro | simp only [onlyMk] | dsimp only | split | intro

theorem Only.applyReauth (s : State) (c : Nat) (ok : Bool) (hk : Only fr s0 s) (m_regs : Part.regs ∈ fr)
    (m_owed : Part.owed ∈ fr) (m_ports : Part.ports ∈ fr) (m_sched : Part.sched ∈ fr) (m_ainum : Part.ainum ∈ fr)
    (m_crier : Part.crier ∈ fr) (m_flt : Part.flt ∈ fr) (m_bays : Part.bays ∈ fr) : Only fr s0 (applyReauth s c ok) := by
  unfold Sys2Proof.Machine.applyReauth
  with_reducible repeat' first
    | assumption | apply Only.applyPolicy | apply Only.whenB | apply Only.raise | apply Only.enLow | apply Only.bayTo
    | exact Or.inl rfl | exact Or.inr (by assumption) | apply OnlyMk.intro | simp only [onlyMk] | dsimp only | split | intro

theorem Only.doReauth (tag : List Byte) (c : HostCmd) (s : State) (hk : Only fr s0 s) (m_regs : Part.regs ∈ fr)
    (m_freeCtr : Part.freeCtr ∈ fr) (m_owed : Part.owed ∈ fr) (m_hif : Part.hif ∈ fr) (m_ports : Part.ports ∈ fr)
    (m_sched : Part.sched ∈ fr) (m_ainum : Part.ainum ∈ fr) (m_crier : Part.crier ∈ fr) (m_flt : Part.flt ∈ fr)
    (m_bays : Part.bays ∈ fr) (m_sec : Part.sec ∈ fr) (m_out : Part.out ∈ fr) : Only fr s0 (doReauth tag c s) := by
  unfold Sys2Proof.Machine.doReauth
  with_reducible repeat' first
    | assumption | apply Only.complete | apply Only.setPhase | apply Only.sendChallenge | apply Only.applyReauth
    | apply Only.noteTrust | exact Or.inl rfl | exact Or.inr (by assumption) | apply OnlyMk.intro | simp only [onlyMk]
    | dsimp only | split | intro

theorem Only.execReauth (cmd : HostCmd) (tag : List Byte) (s : State) (hk : Only fr s0 s) (m_regs : Part.regs ∈ fr)
    (m_freeCtr : Part.freeCtr ∈ fr) (m_owed : Part.owed ∈ fr) (m_hif : Part.hif ∈ fr) (m_ports : Part.ports ∈ fr)
    (m_sched : Part.sched ∈ fr) (m_ainum : Part.ainum ∈ fr) (m_crier : Part.crier ∈ fr) (m_flt : Part.flt ∈ fr)
    (m_bays : Part.bays ∈ fr) (m_sec : Part.sec ∈ fr) (m_out : Part.out ∈ fr) : OnlyO fr s0 (execReauth cmd tag s) := by
  unfold Sys2Proof.Machine.execReauth
  with_reducible repeat' first
    | assumption | apply Only.runCmd | apply Only.doReauth | apply OnlyO.next | exact Or.inl rfl
    | exact Or.inr (by assumption) | apply OnlyMk.intro | simp only [onlyMk] | dsimp only | split | intro

theorem Only.setPolicy (s : State) (allow : Bool) (hk : Only fr s0 s) (m_regs : Part.regs ∈ fr)
    (m_journal : Part.journal ∈ fr) (m_owed : Part.owed ∈ fr) (m_crier : Part.crier ∈ fr) (m_flt : Part.flt ∈ fr)
    (m_out : Part.out ∈ fr) : Only fr s0 (setPolicy s allow) := by
  unfold Sys2Proof.Machine.setPolicy
  with_reducible repeat' first
    | assumption | apply Only.jrnOwe | apply Only.setBit | exact Or.inl rfl | exact Or.inr (by assumption)
    | apply OnlyMk.intro | simp only [onlyMk] | dsimp only | split | intro

theorem Only.doSetPolicy (c : HostCmd) (s : State) (hk : Only fr s0 s) (m_regs : Part.regs ∈ fr)
    (m_journal : Part.journal ∈ fr) (m_owed : Part.owed ∈ fr) (m_hif : Part.hif ∈ fr) (m_crier : Part.crier ∈ fr)
    (m_flt : Part.flt ∈ fr) (m_out : Part.out ∈ fr) : Only fr s0 (doSetPolicy c s) := by
  unfold Sys2Proof.Machine.doSetPolicy
  with_reducible repeat' first
    | assumption | apply Only.complete | apply Only.setPolicy | exact Or.inl rfl | exact Or.inr (by assumption)
    | apply OnlyMk.intro | simp only [onlyMk] | dsimp only | split | intro

theorem Only.execSetPolicy (cmd : HostCmd) (s : State) (hk : Only fr s0 s) (m_regs : Part.regs ∈ fr)
    (m_journal : Part.journal ∈ fr) (m_owed : Part.owed ∈ fr) (m_hif : Part.hif ∈ fr) (m_crier : Part.crier ∈ fr)
    (m_flt : Part.flt ∈ fr) (m_out : Part.out ∈ fr) : OnlyO fr s0 (execSetPolicy cmd s) := by
  unfold Sys2Proof.Machine.execSetPolicy
  with_reducible repeat' first
    | assumption | apply Only.runCmd | apply Only.doSetPolicy | apply OnlyO.next | exact Or.inl rfl
    | exact Or.inr (by assumption) | apply OnlyMk.intro | simp only [onlyMk] | dsimp only | split | intro

theorem Only.doPrepareRemove (c : HostCmd) (s : State) (hk : Only fr s0 s) (m_regs : Part.regs ∈ fr)
    (m_owed : Part.owed ∈ fr) (m_hif : Part.hif ∈ fr) (m_crier : Part.crier ∈ fr) (m_flt : Part.flt ∈ fr)
    (m_bays : Part.bays ∈ fr) : Only fr s0 (doPrepareRemove c s) := by
  unfold Sys2Proof.Machine.doPrepareRemove
  with_reducible repeat' first
    | assumption | apply Only.complete | apply Only.startRemoval | exact Or.inl rfl | exact Or.inr (by assumption)
    | apply OnlyMk.intro | simp only [onlyMk] | dsimp only | split | intro

theorem Only.execPrepareRemove (cmd : HostCmd) (s : State) (hk : Only fr s0 s) (m_regs : Part.regs ∈ fr)
    (m_owed : Part.owed ∈ fr) (m_hif : Part.hif ∈ fr) (m_crier : Part.crier ∈ fr) (m_flt : Part.flt ∈ fr)
    (m_bays : Part.bays ∈ fr) : OnlyO fr s0 (execPrepareRemove cmd s) := by
  unfold Sys2Proof.Machine.execPrepareRemove
  with_reducible repeat' first
    | assumption | apply Only.runCmd | apply Only.doPrepareRemove | apply OnlyO.next | exact Or.inl rfl
    | exact Or.inr (by assumption) | apply OnlyMk.intro | simp only [onlyMk] | dsimp only | split | intro

theorem Only.execFlowEvictTimer (g slot : Nat) (s : State) (hk : Only fr s0 s) (m_regs : Part.regs ∈ fr)
    (m_owed : Part.owed ∈ fr) (m_lastRaise : Part.lastRaise ∈ fr) (m_telem : Part.telem ∈ fr) (m_crier : Part.crier ∈ fr)
    (m_flt : Part.flt ∈ fr) : OnlyO fr s0 (execFlowEvictTimer g slot s) := by
  unfold Sys2Proof.Machine.execFlowEvictTimer
  with_reducible repeat' first
    | assumption | apply Only.evictFlow | apply OnlyO.next | exact Or.inl rfl | exact Or.inr (by assumption)
    | apply OnlyMk.intro | simp only [onlyMk] | dsimp only | split | intro

theorem Only.execFlowFlush (s : State) (hk : Only fr s0 s) (m_regs : Part.regs ∈ fr) (m_owed : Part.owed ∈ fr)
    (m_lastRaise : Part.lastRaise ∈ fr) (m_top : Part.top ∈ fr) (m_telem : Part.telem ∈ fr) (m_crier : Part.crier ∈ fr)
    (m_flt : Part.flt ∈ fr) : OnlyO fr s0 (execFlowFlush s) := by
  unfold Sys2Proof.Machine.execFlowFlush
  with_reducible repeat' first
    | assumption | apply Only.holdWrite | apply Only.forEach | apply Only.evictFlow | apply OnlyO.next | exact Or.inl rfl
    | exact Or.inr (by assumption) | apply OnlyMk.intro | simp only [onlyMk] | dsimp only | split | intro

theorem Only.sealMessage (s : State) (m : List Byte) (hk : Only fr s0 s) (m_regs : Part.regs ∈ fr) (m_owed : Part.owed ∈ fr)
    (m_lastRaise : Part.lastRaise ∈ fr) (m_crier : Part.crier ∈ fr) (m_flt : Part.flt ∈ fr) (m_sec : Part.sec ∈ fr)
    : Only fr s0 (sealMessage s m).1 := by
  unfold Sys2Proof.Machine.sealMessage
  with_reducible repeat' first
    | assumption | apply Only.keyRefused | apply Only.secCount | apply Only.setF | apply Only.setReg64 | exact Or.inl rfl
    | exact Or.inr (by assumption) | apply OnlyMk.intro | simp only [onlyMk] | dsimp only | split | intro

theorem Only.exportAdmit (s : State) (octs : List Byte) (hk : Only fr s0 s) (m_regs : Part.regs ∈ fr)
    (m_freeCtr : Part.freeCtr ∈ fr) (m_owed : Part.owed ∈ fr) (m_lastRaise : Part.lastRaise ∈ fr) (m_pipes : Part.pipes ∈ fr)
    (m_market : Part.market ∈ fr) (m_spill : Part.spill ∈ fr) (m_sched : Part.sched ∈ fr) (m_telem : Part.telem ∈ fr)
    (m_crier : Part.crier ∈ fr) (m_flt : Part.flt ∈ fr) (m_activity : Part.activity ∈ fr)
    : Only fr s0 (exportAdmit s octs).1 := by
  unfold Sys2Proof.Machine.exportAdmit
  with_reducible repeat' first
    | assumption | apply Only.takeId | apply Only.dropPacket | apply Only.admitCopies | apply Only.dropRefused
    | exact Or.inl rfl | exact Or.inr (by assumption) | apply OnlyMk.intro | simp only [onlyMk] | dsimp only | split | intro

theorem Only.execExportRecordForm (s : State) (hk : Only fr s0 s) (m_telem : Part.telem ∈ fr)
    : OnlyO fr s0 (execExportRecordForm s) := by
  unfold Sys2Proof.Machine.execExportRecordForm
  with_reducible repeat' first
    | assumption | apply OnlyO.next | exact Or.inl rfl | exact Or.inr (by assumption) | apply OnlyMk.intro
    | simp only [onlyMk] | dsimp only | split | intro

theorem Only.execExportFlushTimer (s : State) (hk : Only fr s0 s) (m_telem : Part.telem ∈ fr)
    : OnlyO fr s0 (execExportFlushTimer s) := by
  unfold Sys2Proof.Machine.execExportFlushTimer
  with_reducible repeat' first
    | assumption | apply OnlyO.next | exact Or.inl rfl | exact Or.inr (by assumption) | apply OnlyMk.intro
    | simp only [onlyMk] | dsimp only | split | intro

theorem Only.execExportMessageSend (s : State) (hk : Only fr s0 s) (m_regs : Part.regs ∈ fr) (m_freeCtr : Part.freeCtr ∈ fr)
    (m_owed : Part.owed ∈ fr) (m_lastRaise : Part.lastRaise ∈ fr) (m_hif : Part.hif ∈ fr) (m_pipes : Part.pipes ∈ fr)
    (m_market : Part.market ∈ fr) (m_spill : Part.spill ∈ fr) (m_sched : Part.sched ∈ fr) (m_telem : Part.telem ∈ fr)
    (m_crier : Part.crier ∈ fr) (m_flt : Part.flt ∈ fr) (m_activity : Part.activity ∈ fr) (m_sec : Part.sec ∈ fr)
    : OnlyO fr s0 (execExportMessageSend s) := by
  unfold Sys2Proof.Machine.execExportMessageSend
  with_reducible repeat' first
    | assumption | apply Only.sealMessage | apply Only.exportAdmit | apply Only.ctxPoll | apply Only.addTal
    | apply Only.forEach | apply Only.recordLost | apply OnlyO.next | exact Or.inl rfl | exact Or.inr (by assumption)
    | apply OnlyMk.intro | simp only [onlyMk] | dsimp only | split | intro

theorem Only.execTemplateSend (s : State) (hk : Only fr s0 s) (m_regs : Part.regs ∈ fr) (m_freeCtr : Part.freeCtr ∈ fr)
    (m_owed : Part.owed ∈ fr) (m_lastRaise : Part.lastRaise ∈ fr) (m_pipes : Part.pipes ∈ fr) (m_market : Part.market ∈ fr)
    (m_spill : Part.spill ∈ fr) (m_sched : Part.sched ∈ fr) (m_telem : Part.telem ∈ fr) (m_crier : Part.crier ∈ fr)
    (m_flt : Part.flt ∈ fr) (m_activity : Part.activity ∈ fr) (m_sec : Part.sec ∈ fr) : OnlyO fr s0 (execTemplateSend s) := by
  unfold Sys2Proof.Machine.execTemplateSend
  with_reducible repeat' first
    | assumption | apply Only.sealMessage | apply Only.exportAdmit | apply Only.addTal | apply OnlyO.next | exact Or.inl rfl
    | exact Or.inr (by assumption) | apply OnlyMk.intro | simp only [onlyMk] | dsimp only | split | intro

theorem Only.doLdgRead (c : HostCmd) (s : State) (hk : Only fr s0 s) (m_regs : Part.regs ∈ fr) (m_owed : Part.owed ∈ fr)
    (m_hif : Part.hif ∈ fr) (m_crier : Part.crier ∈ fr) (m_flt : Part.flt ∈ fr) (m_out : Part.out ∈ fr)
    : Only fr s0 (doLdgRead c s) := by
  unfold Sys2Proof.Machine.doLdgRead
  with_reducible repeat' first
    | assumption | apply Only.complete | apply Only.setPhase | apply Only.completeData | exact Or.inl rfl
    | exact Or.inr (by assumption) | apply OnlyMk.intro | simp only [onlyMk] | dsimp only | split | intro

theorem Only.execLdgRead (cmd : HostCmd) (s : State) (hk : Only fr s0 s) (m_regs : Part.regs ∈ fr) (m_owed : Part.owed ∈ fr)
    (m_hif : Part.hif ∈ fr) (m_crier : Part.crier ∈ fr) (m_flt : Part.flt ∈ fr) (m_out : Part.out ∈ fr)
    : OnlyO fr s0 (execLdgRead cmd s) := by
  unfold Sys2Proof.Machine.execLdgRead
  with_reducible repeat' first
    | assumption | apply Only.runCmd | apply Only.doLdgRead | apply OnlyO.next | exact Or.inl rfl
    | exact Or.inr (by assumption) | apply OnlyMk.intro | simp only [onlyMk] | dsimp only | split | intro

theorem Only.doLdgSnapshot (c : HostCmd) (s : State) (hk : Only fr s0 s) (m_regs : Part.regs ∈ fr) (m_hif : Part.hif ∈ fr)
    (m_telem : Part.telem ∈ fr) : Only fr s0 (doLdgSnapshot c s) := by
  unfold Sys2Proof.Machine.doLdgSnapshot
  with_reducible repeat' first
    | assumption | apply Only.setPhase | apply Only.setBit | exact Or.inl rfl | exact Or.inr (by assumption)
    | apply OnlyMk.intro | simp only [onlyMk] | dsimp only | split | intro

theorem Only.execLdgSnapshot (cmd : HostCmd) (s : State) (hk : Only fr s0 s) (m_regs : Part.regs ∈ fr)
    (m_hif : Part.hif ∈ fr) (m_telem : Part.telem ∈ fr) : OnlyO fr s0 (execLdgSnapshot cmd s) := by
  unfold Sys2Proof.Machine.execLdgSnapshot
  with_reducible repeat' first
    | assumption | apply Only.runCmd | apply Only.doLdgSnapshot | apply OnlyO.next | exact Or.inl rfl
    | exact Or.inr (by assumption) | apply OnlyMk.intro | simp only [onlyMk] | dsimp only | split | intro

theorem Only.execLdgSnapshotComplete (buffer : Nat) (s : State) (hk : Only fr s0 s) (m_regs : Part.regs ∈ fr)
    (m_owed : Part.owed ∈ fr) (m_hif : Part.hif ∈ fr) (m_telem : Part.telem ∈ fr) (m_crier : Part.crier ∈ fr)
    (m_flt : Part.flt ∈ fr) : OnlyO fr s0 (execLdgSnapshotComplete buffer s) := by
  unfold Sys2Proof.Machine.execLdgSnapshotComplete
  with_reducible repeat' first
    | assumption | apply Only.captureSnaps | apply Only.setReg64 | apply Only.setBit | apply Only.raise | apply Only.complete
    | apply OnlyO.next | exact Or.inl rfl | exact Or.inr (by assumption) | apply OnlyMk.intro | simp only [onlyMk]
    | dsimp only | split | intro

theorem Only.setScl (s : State) (f : Scales → Scales) (hk : Only fr s0 s) (m_scales : Part.scales ∈ fr)
    : Only fr s0 (setScl s f) := by
  unfold Sys2Proof.Machine.setScl
  with_reducible repeat' first
    | assumption | exact Or.inl rfl | exact Or.inr (by assumption) | apply OnlyMk.intro | simp only [onlyMk] | dsimp only
    | split | intro

theorem Only.setStep (s : State) (p step : Nat) (hk : Only fr s0 s) (m_regs : Part.regs ∈ fr) (m_scales : Part.scales ∈ fr)
    : Only fr s0 (setStep s p step) := by
  unfold Sys2Proof.Machine.setStep
  with_reducible repeat' first
    | assumption | apply Only.step | apply Only.setScl | apply Only.setBit | apply Only.setF | exact Or.inl rfl
    | exact Or.inr (by assumption) | apply OnlyMk.intro | simp only [onlyMk] | dsimp only | split | intro

theorem Only.cutOne (s : State) (p : Nat) (hk : Only fr s0 s) (m_regs : Part.regs ∈ fr) (m_scales : Part.scales ∈ fr)
    : Only fr s0 (cutOne s p) := by
  unfold Sys2Proof.Machine.cutOne
  with_reducible repeat' first
    | assumption | apply Only.setScl | apply Only.setStep | exact Or.inl rfl | exact Or.inr (by assumption)
    | apply OnlyMk.intro | simp only [onlyMk] | dsimp only | split | intro

theorem Only.keepStep (s : State) (p : Nat) (hk : Only fr s0 s) (m_scales : Part.scales ∈ fr)
    : Only fr s0 (keepStep s p) := by
  unfold Sys2Proof.Machine.keepStep
  with_reducible repeat' first
    | assumption | apply Only.setScl | exact Or.inl rfl | exact Or.inr (by assumption) | apply OnlyMk.intro
    | simp only [onlyMk] | dsimp only | split | intro

theorem Only.cutStep (s : State) (p : Nat) (hk : Only fr s0 s) (m_regs : Part.regs ∈ fr) (m_scales : Part.scales ∈ fr)
    : Only fr s0 (cutStep s p) := by
  unfold Sys2Proof.Machine.cutStep
  with_reducible repeat' first
    | assumption | apply Only.cutOne | apply Only.setScl | exact Or.inl rfl | exact Or.inr (by assumption)
    | apply OnlyMk.intro | simp only [onlyMk] | dsimp only | split | intro

theorem Only.syncAct (s : State) (p : Nat) (hk : Only fr s0 s) (m_regs : Part.regs ∈ fr) : Only fr s0 (syncAct s p) := by
  unfold Sys2Proof.Machine.syncAct
  with_reducible repeat' first
    | assumption | apply Only.setF | exact Or.inl rfl | exact Or.inr (by assumption) | apply OnlyMk.intro
    | simp only [onlyMk] | dsimp only | split | intro

theorem Only.syncActs (s : State) (hk : Only fr s0 s) (m_regs : Part.regs ∈ fr) : Only fr s0 (syncActs s) := by
  unfold Sys2Proof.Machine.syncActs
  with_reducible repeat' first
    | assumption | apply Only.forEach | apply Only.syncAct | exact Or.inl rfl | exact Or.inr (by assumption)
    | apply OnlyMk.intro | simp only [onlyMk] | dsimp only | split | intro

theorem Only.capEvent (s : State) (event hall step us : Nat) (ps : List Nat) (hk : Only fr s0 s) (m_regs : Part.regs ∈ fr)
    (m_owed : Part.owed ∈ fr) (m_hif : Part.hif ∈ fr) (m_ainum : Part.ainum ∈ fr) (m_crier : Part.crier ∈ fr)
    (m_flt : Part.flt ∈ fr) : Only fr s0 (capEvent s event hall step us ps) := by
  unfold Sys2Proof.Machine.capEvent
  with_reducible repeat' first
    | assumption | apply Only.capNotice | apply Only.step | apply Only.raise | apply Only.notify | exact Or.inl rfl
    | exact Or.inr (by assumption) | apply OnlyMk.intro | simp only [onlyMk] | dsimp only | split | intro

theorem Only.sclEvent (s : State) (event : Nat) (hk : Only fr s0 s) (m_freeCtr : Part.freeCtr ∈ fr) (m_hif : Part.hif ∈ fr)
    : Only fr s0 (sclEvent s event) := by
  unfold Sys2Proof.Machine.sclEvent
  with_reducible repeat' first
    | assumption | apply Only.notify | apply Only.drawn | exact Or.inl rfl | exact Or.inr (by assumption)
    | apply OnlyMk.intro | simp only [onlyMk] | dsimp only | split | intro

theorem Only.modDeferral (s : State) (p : Nat) (f : Deferral → Deferral) (hk : Only fr s0 s) (m_scales : Part.scales ∈ fr)
    : Only fr s0 (modDeferral s p f) := by
  unfold Sys2Proof.Machine.modDeferral
  with_reducible repeat' first
    | assumption | apply Only.setScl | exact Or.inl rfl | exact Or.inr (by assumption) | apply OnlyMk.intro
    | simp only [onlyMk] | dsimp only | split | intro

theorem Only.pauseDeferral (s : State) (p : Nat) (hk : Only fr s0 s) (m_scales : Part.scales ∈ fr)
    : Only fr s0 (pauseDeferral s p) := by
  unfold Sys2Proof.Machine.pauseDeferral
  with_reducible repeat' first
    | assumption | apply Only.modDeferral | exact Or.inl rfl | exact Or.inr (by assumption) | apply OnlyMk.intro
    | simp only [onlyMk] | dsimp only | split | intro

theorem Only.resumeDeferral (s : State) (p : Nat) (hk : Only fr s0 s) (m_scales : Part.scales ∈ fr)
    : Only fr s0 (resumeDeferral s p) := by
  unfold Sys2Proof.Machine.resumeDeferral
  with_reducible repeat' first
    | assumption | apply Only.modDeferral | exact Or.inl rfl | exact Or.inr (by assumption) | apply OnlyMk.intro
    | simp only [onlyMk] | dsimp only | split | intro

theorem Only.dropDeferral (s : State) (p : Nat) (hk : Only fr s0 s) (m_regs : Part.regs ∈ fr) (m_scales : Part.scales ∈ fr)
    : Only fr s0 (dropDeferral s p) := by
  unfold Sys2Proof.Machine.dropDeferral
  with_reducible repeat' first
    | assumption | apply Only.setScl | apply Only.setBit | exact Or.inl rfl | exact Or.inr (by assumption)
    | apply OnlyMk.intro | simp only [onlyMk] | dsimp only | split | intro

theorem Only.forcedNotices (s : State) (ps : List Nat) (cuts : Bool) (hk : Only fr s0 s) (m_regs : Part.regs ∈ fr)
    (m_owed : Part.owed ∈ fr) (m_hif : Part.hif ∈ fr) (m_ainum : Part.ainum ∈ fr) (m_crier : Part.crier ∈ fr)
    (m_flt : Part.flt ∈ fr) (m_scales : Part.scales ∈ fr) : Only fr s0 (forcedNotices s ps cuts) := by
  unfold Sys2Proof.Machine.forcedNotices
  with_reducible repeat' first
    | assumption | apply Only.whenB | apply Only.forEach | apply Only.dropDeferral | apply Only.capEvent | apply Only.foldl
    | apply Only.foldl1 | exact Or.inl rfl | exact Or.inr (by assumption) | apply OnlyMk.intro | simp only [onlyMk]
    | dsimp only | split | intro

theorem Only.takeDeferred (s : State) (d : Deferral) (hk : Only fr s0 s) (m_regs : Part.regs ∈ fr)
    (m_scales : Part.scales ∈ fr) : Only fr s0 (takeDeferred s d) := by
  unfold Sys2Proof.Machine.takeDeferred
  with_reducible repeat' first
    | assumption | apply Only.cutStep | apply Only.cutOne | apply Only.keepStep | exact Or.inl rfl
    | exact Or.inr (by assumption) | apply OnlyMk.intro | simp only [onlyMk] | dsimp only | split | intro

theorem Only.endDeferral (s : State) (p : Nat) (hk : Only fr s0 s) (m_regs : Part.regs ∈ fr) (m_owed : Part.owed ∈ fr)
    (m_hif : Part.hif ∈ fr) (m_ainum : Part.ainum ∈ fr) (m_crier : Part.crier ∈ fr) (m_flt : Part.flt ∈ fr)
    (m_scales : Part.scales ∈ fr) : Only fr s0 (endDeferral s p) := by
  unfold Sys2Proof.Machine.endDeferral
  with_reducible repeat' first
    | assumption | apply Only.whenB | apply Only.takeDeferred | apply Only.dropDeferral | apply Only.capEvent
    | exact Or.inl rfl | exact Or.inr (by assumption) | apply OnlyMk.intro | simp only [onlyMk] | dsimp only | split | intro

theorem Only.execProtectedSpanStart (lane : Nat) (s : State) (hk : Only fr s0 s) (m_regs : Part.regs ∈ fr)
    : OnlyO fr s0 (execProtectedSpanStart lane s) := by
  unfold Sys2Proof.Machine.execProtectedSpanStart
  with_reducible repeat' first
    | assumption | apply Only.syncSlotStatus | apply OnlyO.next | exact Or.inl rfl | exact Or.inr (by assumption)
    | apply OnlyMk.intro | simp only [onlyMk] | dsimp only | split | intro

theorem Only.execProtectedSpanEnd (lane : Nat) (s : State) (hk : Only fr s0 s) (m_regs : Part.regs ∈ fr)
    (m_owed : Part.owed ∈ fr) (m_hif : Part.hif ∈ fr) (m_ainum : Part.ainum ∈ fr) (m_crier : Part.crier ∈ fr)
    (m_flt : Part.flt ∈ fr) (m_scales : Part.scales ∈ fr) : OnlyO fr s0 (execProtectedSpanEnd lane s) := by
  unfold Sys2Proof.Machine.execProtectedSpanEnd
  with_reducible repeat' first
    | assumption | apply Only.syncSlotStatus | apply Only.endDeferral | apply OnlyO.next | exact Or.inl rfl
    | exact Or.inr (by assumption) | apply OnlyMk.intro | simp only [onlyMk] | dsimp only | split | intro

theorem Only.forceDeferral (s : State) (p : Nat) (hk : Only fr s0 s) (m_regs : Part.regs ∈ fr) (m_owed : Part.owed ∈ fr)
    (m_hif : Part.hif ∈ fr) (m_ainum : Part.ainum ∈ fr) (m_crier : Part.crier ∈ fr) (m_flt : Part.flt ∈ fr)
    (m_scales : Part.scales ∈ fr) : Only fr s0 (forceDeferral s p) := by
  unfold Sys2Proof.Machine.forceDeferral
  with_reducible repeat' first
    | assumption | apply Only.whenB | apply Only.takeDeferred | apply Only.dropDeferral | apply Only.capEvent
    | exact Or.inl rfl | exact Or.inr (by assumption) | apply OnlyMk.intro | simp only [onlyMk] | dsimp only | split | intro

theorem Only.execDeferralForce (p : Nat) (s : State) (hk : Only fr s0 s) (m_regs : Part.regs ∈ fr) (m_owed : Part.owed ∈ fr)
    (m_hif : Part.hif ∈ fr) (m_ainum : Part.ainum ∈ fr) (m_crier : Part.crier ∈ fr) (m_flt : Part.flt ∈ fr)
    (m_scales : Part.scales ∈ fr) : OnlyO fr s0 (execDeferralForce p s) := by
  unfold Sys2Proof.Machine.execDeferralForce
  with_reducible repeat' first
    | assumption | apply Only.forceDeferral | apply OnlyO.next | exact Or.inl rfl | exact Or.inr (by assumption)
    | apply OnlyMk.intro | simp only [onlyMk] | dsimp only | split | intro

theorem Only.syncModelOnly (s : State) (hk : Only fr s0 s) (m_regs : Part.regs ∈ fr) (m_owed : Part.owed ∈ fr)
    (m_crier : Part.crier ∈ fr) (m_flt : Part.flt ∈ fr) : Only fr s0 (syncModelOnly s) := by
  unfold Sys2Proof.Machine.syncModelOnly
  with_reducible repeat' first
    | assumption | apply Only.whenB | apply Only.raise | apply Only.setBit | exact Or.inl rfl | exact Or.inr (by assumption)
    | apply OnlyMk.intro | simp only [onlyMk] | dsimp only | split | intro

theorem Only.pollEntry (answers : List RegulatorAnswer) (s : State) (k : Nat) (hk : Only fr s0 s) (m_regs : Part.regs ∈ fr)
    (m_owed : Part.owed ∈ fr) (m_lastRaise : Part.lastRaise ∈ fr) (m_crier : Part.crier ∈ fr) (m_flt : Part.flt ∈ fr)
    (m_scales : Part.scales ∈ fr) (m_out : Part.out ∈ fr) : Only fr s0 (pollEntry answers s k) := by
  unfold Sys2Proof.Machine.pollEntry
  with_reducible repeat' first
    | assumption | apply Only.setScl | apply Only.emit | apply Only.setF | apply Only.setBit | apply Only.raiseLimited
    | exact Or.inl rfl | exact Or.inr (by assumption) | apply OnlyMk.intro | simp only [onlyMk] | dsimp only | split | intro

theorem Only.execRegulatorPoll (answers : List RegulatorAnswer) (s : State) (hk : Only fr s0 s) (m_regs : Part.regs ∈ fr)
    (m_owed : Part.owed ∈ fr) (m_lastRaise : Part.lastRaise ∈ fr) (m_crier : Part.crier ∈ fr) (m_flt : Part.flt ∈ fr)
    (m_scales : Part.scales ∈ fr) (m_out : Part.out ∈ fr) : OnlyO fr s0 (execRegulatorPoll answers s) := by
  unfold Sys2Proof.Machine.execRegulatorPoll
  with_reducible repeat' first
    | assumption | apply Only.setScl | apply Only.syncModelOnly | apply Only.forEach | apply Only.pollEntry
    | apply OnlyO.next | exact Or.inl rfl | exact Or.inr (by assumption) | apply OnlyMk.intro | simp only [onlyMk]
    | dsimp only | split | intro

theorem Only.writeWarnLimits (s : State) (hk : Only fr s0 s) (m_out : Part.out ∈ fr) : Only fr s0 (writeWarnLimits s) := by
  unfold Sys2Proof.Machine.writeWarnLimits
  with_reducible repeat' first
    | assumption | apply Only.forEach | apply Only.emit | exact Or.inl rfl | exact Or.inr (by assumption)
    | apply OnlyMk.intro | simp only [onlyMk] | dsimp only | split | intro

theorem Only.execScalesReady (s : State) (hk : Only fr s0 s) (m_regs : Part.regs ∈ fr) (m_freeCtr : Part.freeCtr ∈ fr)
    (m_journal : Part.journal ∈ fr) (m_owed : Part.owed ∈ fr) (m_crier : Part.crier ∈ fr) (m_flt : Part.flt ∈ fr)
    (m_scales : Part.scales ∈ fr) (m_out : Part.out ∈ fr) : OnlyO fr s0 (execScalesReady s) := by
  unfold Sys2Proof.Machine.execScalesReady
  with_reducible repeat' first
    | assumption | apply Only.jrnReads | apply Only.setScl | apply Only.setF | apply Only.writeWarnLimits
    | apply Only.syncModelOnly | apply Only.setBringup | apply Only.forEach | apply Only.emit | apply OnlyO.next
    | exact Or.inl rfl | exact Or.inr (by assumption) | apply OnlyMk.intro | simp only [onlyMk] | dsimp only | split | intro

theorem Only.sclBad (s : State) (hk : Only fr s0 s) (m_regs : Part.regs ∈ fr) (m_owed : Part.owed ∈ fr)
    (m_crier : Part.crier ∈ fr) (m_flt : Part.flt ∈ fr) : Only fr s0 (sclBad s) := by
  unfold Sys2Proof.Machine.sclBad
  with_reducible repeat' first
    | assumption | apply Only.raise | apply Only.setBit | exact Or.inl rfl | exact Or.inr (by assumption)
    | apply OnlyMk.intro | simp only [onlyMk] | dsimp only | split | intro

theorem Only.absWrite (value : Word) (s : State) (hk : Only fr s0 s) (m_regs : Part.regs ∈ fr) (m_owed : Part.owed ∈ fr)
    (m_crier : Part.crier ∈ fr) (m_flt : Part.flt ∈ fr) (m_out : Part.out ∈ fr) : Only fr s0 (absWrite value s) := by
  unfold Sys2Proof.Machine.absWrite
  with_reducible repeat' first
    | assumption | apply Only.sclBad | apply Only.setF | apply Only.whenB | apply Only.writeWarnLimits | exact Or.inl rfl
    | exact Or.inr (by assumption) | apply OnlyMk.intro | simp only [onlyMk] | dsimp only | split | intro

theorem Only.execAbsWrite (value : Word) (s : State) (hk : Only fr s0 s) (m_regs : Part.regs ∈ fr) (m_owed : Part.owed ∈ fr)
    (m_top : Part.top ∈ fr) (m_crier : Part.crier ∈ fr) (m_flt : Part.flt ∈ fr) (m_out : Part.out ∈ fr)
    : OnlyO fr s0 (execAbsWrite value s) := by
  unfold Sys2Proof.Machine.execAbsWrite
  with_reducible repeat' first
    | assumption | apply Only.holdWrite | apply Only.absWrite | apply OnlyO.next | exact Or.inl rfl
    | exact Or.inr (by assumption) | apply OnlyMk.intro | simp only [onlyMk] | dsimp only | split | intro

theorem Only.unwantDeferrals (s : State) (hk : Only fr s0 s) (m_scales : Part.scales ∈ fr)
    : Only fr s0 (unwantDeferrals s) := by
  unfold Sys2Proof.Machine.unwantDeferrals
  with_reducible repeat' first
    | assumption | apply Only.setScl | exact Or.inl rfl | exact Or.inr (by assumption) | apply OnlyMk.intro
    | simp only [onlyMk] | dsimp only | split | intro

theorem Only.deferCuts (s : State) (cap : Bool) (ps : List Nat) (hk : Only fr s0 s) (m_regs : Part.regs ∈ fr)
    (m_owed : Part.owed ∈ fr) (m_hif : Part.hif ∈ fr) (m_ainum : Part.ainum ∈ fr) (m_crier : Part.crier ∈ fr)
    (m_flt : Part.flt ∈ fr) (m_scales : Part.scales ∈ fr) : Only fr s0 (deferCuts s cap ps) := by
  unfold Sys2Proof.Machine.deferCuts
  with_reducible repeat' first
    | assumption | apply Only.setScl | apply Only.forEach | apply Only.setBit | apply Only.capEvent | exact Or.inl rfl
    | exact Or.inr (by assumption) | apply OnlyMk.intro | simp only [onlyMk] | dsimp only | split | intro

theorem Only.setActPolicy (s : State) (p v : Nat) (hk : Only fr s0 s) (m_regs : Part.regs ∈ fr) (m_scales : Part.scales ∈ fr)
    : Only fr s0 (setActPolicy s p v) := by
  unfold Sys2Proof.Machine.setActPolicy
  with_reducible repeat' first
    | assumption | apply Only.syncAct | apply Only.setScl | exact Or.inl rfl | exact Or.inr (by assumption)
    | apply OnlyMk.intro | simp only [onlyMk] | dsimp only | split | intro

theorem Only.capCut (prices : List (Nat × Nat)) (need : Nat) (s : State) (hk : Only fr s0 s) (m_regs : Part.regs ∈ fr)
    (m_owed : Part.owed ∈ fr) (m_hif : Part.hif ∈ fr) (m_ainum : Part.ainum ∈ fr) (m_crier : Part.crier ∈ fr)
    (m_flt : Part.flt ∈ fr) (m_scales : Part.scales ∈ fr) : Only fr s0 (capCut prices need s) := by
  unfold Sys2Proof.Machine.capCut
  with_reducible repeat' first
    | assumption | apply Only.forEach | apply Only.cutStep | apply Only.setActPolicy | apply Only.deferCuts
    | exact Or.inl rfl | exact Or.inr (by assumption) | apply OnlyMk.intro | simp only [onlyMk] | dsimp only | split | intro

theorem Only.capRaise (prices : List (Nat × Nat)) (s : State) (hk : Only fr s0 s) (m_regs : Part.regs ∈ fr)
    (m_scales : Part.scales ∈ fr) : Only fr s0 (capRaise prices s) := by
  unfold Sys2Proof.Machine.capRaise
  with_reducible repeat' first
    | assumption | apply Only.setActPolicy | apply Only.setStep | apply Only.foldl | apply Only.foldl1 | exact Or.inl rfl
    | exact Or.inr (by assumption) | apply OnlyMk.intro | simp only [onlyMk] | dsimp only | split | intro

theorem Only.stepBounds (s : State) (hk : Only fr s0 s) (m_regs : Part.regs ∈ fr) (m_owed : Part.owed ∈ fr)
    (m_hif : Part.hif ∈ fr) (m_ainum : Part.ainum ∈ fr) (m_crier : Part.crier ∈ fr) (m_flt : Part.flt ∈ fr)
    (m_scales : Part.scales ∈ fr) : Only fr s0 (stepBounds s) := by
  unfold Sys2Proof.Machine.stepBounds
  with_reducible repeat' first
    | assumption | apply Only.whenB | apply Only.forEach | apply Only.setStep | apply Only.deferCuts | apply Only.setScl
    | apply Only.cutStep | exact Or.inl rfl | exact Or.inr (by assumption) | apply OnlyMk.intro | simp only [onlyMk]
    | dsimp only | split | intro

theorem Only.throttleCuts (s : State) (hk : Only fr s0 s) (m_regs : Part.regs ∈ fr) (m_scales : Part.scales ∈ fr)
    : Only fr s0 (throttleCuts s) := by
  unfold Sys2Proof.Machine.throttleCuts
  with_reducible repeat' first
    | assumption | apply Only.forEach | apply Only.cutOne | apply Only.keepStep | apply Only.setScl | exact Or.inl rfl
    | exact Or.inr (by assumption) | apply OnlyMk.intro | simp only [onlyMk] | dsimp only | split | intro

theorem Only.restoreSteps (s : State) (hk : Only fr s0 s) (m_regs : Part.regs ∈ fr) (m_scales : Part.scales ∈ fr)
    : Only fr s0 (restoreSteps s) := by
  unfold Sys2Proof.Machine.restoreSteps
  with_reducible repeat' first
    | assumption | apply Only.forEach | apply Only.whenB | apply Only.setStep | apply Only.setScl | exact Or.inl rfl
    | exact Or.inr (by assumption) | apply OnlyMk.intro | simp only [onlyMk] | dsimp only | split | intro

theorem Only.execCapLoopTick (savings : List (Nat × Nat)) (s : State) (hk : Only fr s0 s) (m_regs : Part.regs ∈ fr)
    (m_owed : Part.owed ∈ fr) (m_hif : Part.hif ∈ fr) (m_ainum : Part.ainum ∈ fr) (m_crier : Part.crier ∈ fr)
    (m_flt : Part.flt ∈ fr) (m_scales : Part.scales ∈ fr) : OnlyO fr s0 (execCapLoopTick savings s) := by
  unfold Sys2Proof.Machine.execCapLoopTick
  with_reducible repeat' first
    | assumption | apply Only.forEach | apply Only.endDeferral | apply Only.forceDeferral | apply Only.restoreSteps
    | apply Only.stepBounds | apply Only.throttleCuts | apply Only.capCut | apply Only.unwantDeferrals | apply Only.setBit
    | apply Only.capRaise | apply OnlyO.next | exact Or.inl rfl | exact Or.inr (by assumption) | apply OnlyMk.intro
    | simp only [onlyMk] | dsimp only | split | intro

theorem Only.execSclPolicyConflict (p step : Nat) (s : State) (hk : Only fr s0 s) (m_regs : Part.regs ∈ fr)
    (m_owed : Part.owed ∈ fr) (m_lastRaise : Part.lastRaise ∈ fr) (m_crier : Part.crier ∈ fr) (m_flt : Part.flt ∈ fr)
    : OnlyO fr s0 (execSclPolicyConflict p step s) := by
  unfold Sys2Proof.Machine.execSclPolicyConflict
  with_reducible repeat' first
    | assumption | apply Only.step | apply Only.setReg | apply Only.raiseLimited | apply Only.whenB | apply Only.setBit
    | apply OnlyO.next | exact Or.inl rfl | exact Or.inr (by assumption) | apply OnlyMk.intro | simp only [onlyMk]
    | dsimp only | split | intro

theorem Only.execGlideComplete (p : Nat) (s : State) (hk : Only fr s0 s) (m_regs : Part.regs ∈ fr)
    (m_freeCtr : Part.freeCtr ∈ fr) (m_scales : Part.scales ∈ fr) : OnlyO fr s0 (execGlideComplete p s) := by
  unfold Sys2Proof.Machine.execGlideComplete
  with_reducible repeat' first
    | assumption | apply Only.setBit | apply Only.resumeDeferral | apply Only.setScl | apply Only.drawn | apply Only.whenB
    | apply Only.setF | apply OnlyO.next | exact Or.inl rfl | exact Or.inr (by assumption) | apply OnlyMk.intro
    | simp only [onlyMk] | dsimp only | split | intro

theorem Only.limitAct (s : State) (ps : List Nat) (v : Nat) (hk : Only fr s0 s) (m_regs : Part.regs ∈ fr)
    (m_owed : Part.owed ∈ fr) (m_hif : Part.hif ∈ fr) (m_ainum : Part.ainum ∈ fr) (m_crier : Part.crier ∈ fr)
    (m_flt : Part.flt ∈ fr) (m_scales : Part.scales ∈ fr) : Only fr s0 (limitAct s ps v) := by
  unfold Sys2Proof.Machine.limitAct
  with_reducible repeat' first
    | assumption | apply Only.setScl | apply Only.forcedNotices | apply Only.forEach | apply Only.syncAct | apply Only.foldl
    | apply Only.foldl1 | exact Or.inl rfl | exact Or.inr (by assumption) | apply OnlyMk.intro | simp only [onlyMk]
    | dsimp only | split | intro

theorem Only.limiterStart (s : State) (hk : Only fr s0 s) (m_regs : Part.regs ∈ fr) (m_owed : Part.owed ∈ fr)
    (m_hif : Part.hif ∈ fr) (m_ainum : Part.ainum ∈ fr) (m_crier : Part.crier ∈ fr) (m_flt : Part.flt ∈ fr)
    (m_scales : Part.scales ∈ fr) : Only fr s0 (limiterStart s) := by
  unfold Sys2Proof.Machine.limiterStart
  with_reducible repeat' first
    | assumption | apply Only.setScl | apply Only.setBit | apply Only.raise | apply Only.limitAct | exact Or.inl rfl
    | exact Or.inr (by assumption) | apply OnlyMk.intro | simp only [onlyMk] | dsimp only | split | intro

theorem Only.execPmbusAlert (bus : Nat) (low : Bool) (s : State) (hk : Only fr s0 s) (m_regs : Part.regs ∈ fr)
    (m_owed : Part.owed ∈ fr) (m_hif : Part.hif ∈ fr) (m_ainum : Part.ainum ∈ fr) (m_crier : Part.crier ∈ fr)
    (m_flt : Part.flt ∈ fr) (m_scales : Part.scales ∈ fr) : OnlyO fr s0 (execPmbusAlert bus low s) := by
  unfold Sys2Proof.Machine.execPmbusAlert
  with_reducible repeat' first
    | assumption | apply Only.limiterStart | apply Only.setScl | apply OnlyO.next | exact Or.inl rfl
    | exact Or.inr (by assumption) | apply OnlyMk.intro | simp only [onlyMk] | dsimp only | split | intro

theorem Only.execLimiterStep (s : State) (hk : Only fr s0 s) (m_regs : Part.regs ∈ fr) (m_owed : Part.owed ∈ fr)
    (m_hif : Part.hif ∈ fr) (m_ainum : Part.ainum ∈ fr) (m_crier : Part.crier ∈ fr) (m_flt : Part.flt ∈ fr)
    (m_scales : Part.scales ∈ fr) : OnlyO fr s0 (execLimiterStep s) := by
  unfold Sys2Proof.Machine.execLimiterStep
  with_reducible repeat' first
    | assumption | apply Only.limitAct | apply Only.setScl | apply Only.forcedNotices | apply Only.forEach
    | apply Only.cutOne | apply Only.keepStep | apply OnlyO.next | exact Or.inl rfl | exact Or.inr (by assumption)
    | apply OnlyMk.intro | simp only [onlyMk] | dsimp only | split | intro

theorem Only.execLimiterRelease (s : State) (hk : Only fr s0 s) (m_regs : Part.regs ∈ fr) (m_scales : Part.scales ∈ fr)
    : OnlyO fr s0 (execLimiterRelease s) := by
  unfold Sys2Proof.Machine.execLimiterRelease
  with_reducible repeat' first
    | assumption | apply Only.syncActs | apply Only.setBit | apply Only.setScl | apply OnlyO.next | exact Or.inl rfl
    | exact Or.inr (by assumption) | apply OnlyMk.intro | simp only [onlyMk] | dsimp only | split | intro

theorem Only.execFastEstimateTick (s : State) (hk : Only fr s0 s) (m_regs : Part.regs ∈ fr) (m_owed : Part.owed ∈ fr)
    (m_hif : Part.hif ∈ fr) (m_ainum : Part.ainum ∈ fr) (m_crier : Part.crier ∈ fr) (m_flt : Part.flt ∈ fr)
    (m_scales : Part.scales ∈ fr) (m_activity : Part.activity ∈ fr) : OnlyO fr s0 (execFastEstimateTick s) := by
  unfold Sys2Proof.Machine.execFastEstimateTick
  with_reducible repeat' first
    | assumption | apply Only.setF | apply Only.syncModelOnly | apply Only.setScl | apply Only.limiterStart
    | apply Only.foldl | apply Only.foldl1 | apply OnlyO.next | exact Or.inl rfl | exact Or.inr (by assumption)
    | apply OnlyMk.intro | simp only [onlyMk] | dsimp only | split | intro

theorem Only.stretch (s : State) (isl : Nat) (hk : Only fr s0 s) (m_regs : Part.regs ∈ fr) (m_owed : Part.owed ∈ fr)
    (m_lastRaise : Part.lastRaise ∈ fr) (m_crier : Part.crier ∈ fr) (m_flt : Part.flt ∈ fr) (m_scales : Part.scales ∈ fr)
    : Only fr s0 (stretch s isl) := by
  unfold Sys2Proof.Machine.stretch
  with_reducible repeat' first
    | assumption | apply Only.setScl | apply Only.raiseLimited | apply Only.satF | apply Only.whenB
    | apply Only.pauseDeferral | exact Or.inl rfl | exact Or.inr (by assumption) | apply OnlyMk.intro | simp only [onlyMk]
    | dsimp only | split | intro

theorem Only.execDroopTrip (island : Nat) (s : State) (hk : Only fr s0 s) (m_regs : Part.regs ∈ fr) (m_owed : Part.owed ∈ fr)
    (m_lastRaise : Part.lastRaise ∈ fr) (m_crier : Part.crier ∈ fr) (m_flt : Part.flt ∈ fr) (m_scales : Part.scales ∈ fr)
    : OnlyO fr s0 (execDroopTrip island s) := by
  unfold Sys2Proof.Machine.execDroopTrip
  with_reducible repeat' first
    | assumption | apply Only.stretch | apply OnlyO.next | exact Or.inl rfl | exact Or.inr (by assumption)
    | apply OnlyMk.intro | simp only [onlyMk] | dsimp only | split | intro

theorem Only.execDroopClear (island stretchedUs : Nat) (s : State) (hk : Only fr s0 s) (m_regs : Part.regs ∈ fr)
    (m_owed : Part.owed ∈ fr) (m_lastRaise : Part.lastRaise ∈ fr) (m_crier : Part.crier ∈ fr) (m_flt : Part.flt ∈ fr)
    (m_scales : Part.scales ∈ fr) : OnlyO fr s0 (execDroopClear island stretchedUs s) := by
  unfold Sys2Proof.Machine.execDroopClear
  with_reducible repeat' first
    | assumption | apply Only.setScl | apply Only.noteInterval | apply Only.whenB | apply Only.raiseLimited | apply Only.satF
    | apply OnlyO.next | exact Or.inl rfl | exact Or.inr (by assumption) | apply OnlyMk.intro | simp only [onlyMk]
    | dsimp only | split | intro

theorem Only.recognise (s : State) (k : Nat) (hk : Only fr s0 s) (m_regs : Part.regs ∈ fr) (m_freeCtr : Part.freeCtr ∈ fr)
    (m_owed : Part.owed ∈ fr) (m_lastRaise : Part.lastRaise ∈ fr) (m_hif : Part.hif ∈ fr) (m_crier : Part.crier ∈ fr)
    (m_flt : Part.flt ∈ fr) (m_scales : Part.scales ∈ fr) : Only fr s0 (recognise s k) := by
  unfold Sys2Proof.Machine.recognise
  with_reducible repeat' first
    | assumption | apply Only.setScl | apply Only.setF | apply Only.whenB | apply Only.forEach | apply Only.setStep
    | apply Only.sclEvent | apply Only.raiseLimited | exact Or.inl rfl | exact Or.inr (by assumption) | apply OnlyMk.intro
    | simp only [onlyMk] | dsimp only | split | intro

theorem Only.storePhases (s : State) (l : List Phase) (hk : Only fr s0 s) (m_regs : Part.regs ∈ fr)
    (m_journal : Part.journal ∈ fr) (m_owed : Part.owed ∈ fr) (m_crier : Part.crier ∈ fr) (m_flt : Part.flt ∈ fr)
    (m_scales : Part.scales ∈ fr) (m_out : Part.out ∈ fr) : Only fr s0 (storePhases s l) := by
  unfold Sys2Proof.Machine.storePhases
  with_reducible repeat' first
    | assumption | apply Only.jrnOwe | apply Only.setScl | apply Only.setF | exact Or.inl rfl | exact Or.inr (by assumption)
    | apply OnlyMk.intro | simp only [onlyMk] | dsimp only | split | intro

theorem Only.clearPhases (s : State) (hk : Only fr s0 s) (m_regs : Part.regs ∈ fr) (m_journal : Part.journal ∈ fr)
    (m_owed : Part.owed ∈ fr) (m_crier : Part.crier ∈ fr) (m_flt : Part.flt ∈ fr) (m_scales : Part.scales ∈ fr)
    (m_out : Part.out ∈ fr) : Only fr s0 (clearPhases s) := by
  unfold Sys2Proof.Machine.clearPhases
  with_reducible repeat' first
    | assumption | apply Only.storePhases | apply Only.setScl | exact Or.inl rfl | exact Or.inr (by assumption)
    | apply OnlyMk.intro | simp only [onlyMk] | dsimp only | split | intro

theorem Only.newPhase (s : State) (sig steps : List Nat) (hk : Only fr s0 s) (m_regs : Part.regs ∈ fr)
    (m_journal : Part.journal ∈ fr) (m_owed : Part.owed ∈ fr) (m_crier : Part.crier ∈ fr) (m_flt : Part.flt ∈ fr)
    (m_scales : Part.scales ∈ fr) (m_out : Part.out ∈ fr) : Only fr s0 (newPhase s sig steps) := by
  unfold Sys2Proof.Machine.newPhase
  with_reducible repeat' first
    | assumption | apply Only.storePhases | apply Only.whenB | apply Only.setScl | exact Or.inl rfl
    | exact Or.inr (by assumption) | apply OnlyMk.intro | simp only [onlyMk] | dsimp only | split | intro

theorem Only.phaseStep (sig : List Nat) (s : State) (hk : Only fr s0 s) (m_regs : Part.regs ∈ fr)
    (m_freeCtr : Part.freeCtr ∈ fr) (m_journal : Part.journal ∈ fr) (m_owed : Part.owed ∈ fr) (m_lastRaise : Part.lastRaise ∈ fr)
    (m_hif : Part.hif ∈ fr) (m_crier : Part.crier ∈ fr) (m_flt : Part.flt ∈ fr) (m_scales : Part.scales ∈ fr)
    (m_out : Part.out ∈ fr) : Only fr s0 (phaseStep sig s) := by
  unfold Sys2Proof.Machine.phaseStep
  with_reducible repeat' first
    | assumption | apply Only.setScl | apply Only.whenB | apply Only.recognise | apply Only.storePhases | apply Only.newPhase
    | exact Or.inl rfl | exact Or.inr (by assumption) | apply OnlyMk.intro | simp only [onlyMk] | dsimp only | split | intro

theorem Only.shareEnergy (s : State) (hk : Only fr s0 s) (m_regs : Part.regs ∈ fr) (m_scales : Part.scales ∈ fr)
    (m_activity : Part.activity ∈ fr) : Only fr s0 (shareEnergy s) := by
  unfold Sys2Proof.Machine.shareEnergy
  with_reducible repeat' first
    | assumption | apply Only.add64 | apply Only.forEach | apply Only.setScl | apply Only.setF | apply Only.foldl
    | apply Only.foldl1 | exact Or.inl rfl | exact Or.inr (by assumption) | apply OnlyMk.intro | simp only [onlyMk]
    | dsimp only | split | intro

theorem Only.execPhaseTick (s : State) (hk : Only fr s0 s) (m_regs : Part.regs ∈ fr) (m_freeCtr : Part.freeCtr ∈ fr)
    (m_journal : Part.journal ∈ fr) (m_owed : Part.owed ∈ fr) (m_lastRaise : Part.lastRaise ∈ fr) (m_hif : Part.hif ∈ fr)
    (m_crier : Part.crier ∈ fr) (m_flt : Part.flt ∈ fr) (m_scales : Part.scales ∈ fr) (m_activity : Part.activity ∈ fr)
    (m_out : Part.out ∈ fr) : OnlyO fr s0 (execPhaseTick s) := by
  unfold Sys2Proof.Machine.execPhaseTick
  with_reducible repeat' first
    | assumption | apply Only.shareEnergy | apply Only.syncModelOnly | apply Only.phaseStep | apply OnlyO.next
    | exact Or.inl rfl | exact Or.inr (by assumption) | apply OnlyMk.intro | simp only [onlyMk] | dsimp only | split | intro

theorem Only.dropSteps (s : State) (ps : List Nat) (hk : Only fr s0 s) (m_regs : Part.regs ∈ fr)
    (m_scales : Part.scales ∈ fr) : Only fr s0 (dropSteps s ps) := by
  unfold Sys2Proof.Machine.dropSteps
  with_reducible repeat' first
    | assumption | apply Only.forEach | apply Only.setStep | apply Only.keepStep | exact Or.inl rfl
    | exact Or.inr (by assumption) | apply OnlyMk.intro | simp only [onlyMk] | dsimp only | split | intro

theorem Only.criticalHold (s : State) (hk : Only fr s0 s) (m_regs : Part.regs ∈ fr) (m_owed : Part.owed ∈ fr)
    (m_hif : Part.hif ∈ fr) (m_ainum : Part.ainum ∈ fr) (m_crier : Part.crier ∈ fr) (m_flt : Part.flt ∈ fr)
    (m_scales : Part.scales ∈ fr) : Only fr s0 (criticalHold s) := by
  unfold Sys2Proof.Machine.criticalHold
  with_reducible repeat' first
    | assumption | apply Only.forcedNotices | apply Only.syncActs | apply Only.dropSteps | exact Or.inl rfl
    | exact Or.inr (by assumption) | apply OnlyMk.intro | simp only [onlyMk] | dsimp only | split | intro

theorem Only.criticalStep (s : State) (hk : Only fr s0 s) (m_regs : Part.regs ∈ fr) (m_freeCtr : Part.freeCtr ∈ fr)
    (m_owed : Part.owed ∈ fr) (m_hif : Part.hif ∈ fr) (m_ainum : Part.ainum ∈ fr) (m_crier : Part.crier ∈ fr)
    (m_flt : Part.flt ∈ fr) (m_scales : Part.scales ∈ fr) : Only fr s0 (criticalStep s) := by
  unfold Sys2Proof.Machine.criticalStep
  with_reducible repeat' first
    | assumption | apply Only.syncActs | apply Only.setBit | apply Only.criticalHold | apply Only.dropSteps
    | apply Only.sclEvent | apply Only.raise | apply Only.forcedNotices | exact Or.inl rfl | exact Or.inr (by assumption)
    | apply OnlyMk.intro | simp only [onlyMk] | dsimp only | split | intro

theorem Only.throttleStep (s : State) (hk : Only fr s0 s) (m_regs : Part.regs ∈ fr) (m_freeCtr : Part.freeCtr ∈ fr)
    (m_owed : Part.owed ∈ fr) (m_hif : Part.hif ∈ fr) (m_crier : Part.crier ∈ fr) (m_flt : Part.flt ∈ fr)
    (m_scales : Part.scales ∈ fr) : Only fr s0 (throttleStep s) := by
  unfold Sys2Proof.Machine.throttleStep
  with_reducible repeat' first
    | assumption | apply Only.sclEvent | apply Only.raise | apply Only.setBit | apply Only.setScl | apply Only.syncActs
    | exact Or.inl rfl | exact Or.inr (by assumption) | apply OnlyMk.intro | simp only [onlyMk] | dsimp only | split | intro

theorem Only.execThermalSense (sensors engines : List Nat) (s : State) (hk : Only fr s0 s) (m_regs : Part.regs ∈ fr)
    (m_freeCtr : Part.freeCtr ∈ fr) (m_owed : Part.owed ∈ fr) (m_hif : Part.hif ∈ fr) (m_ainum : Part.ainum ∈ fr)
    (m_crier : Part.crier ∈ fr) (m_flt : Part.flt ∈ fr) (m_scales : Part.scales ∈ fr)
    : OnlyO fr s0 (execThermalSense sensors engines s) := by
  unfold Sys2Proof.Machine.execThermalSense
  with_reducible repeat' first
    | assumption | apply Only.setScl | apply Only.setReg | apply Only.throttleStep | apply Only.criticalStep
    | apply Only.foldl | apply Only.foldl1 | apply OnlyO.next | exact Or.inl rfl | exact Or.inr (by assumption)
    | apply OnlyMk.intro | simp only [onlyMk] | dsimp only | split | intro

theorem Only.execThrottleTick (s : State) (hk : Only fr s0 s) (m_regs : Part.regs ∈ fr) (m_owed : Part.owed ∈ fr)
    (m_hif : Part.hif ∈ fr) (m_ainum : Part.ainum ∈ fr) (m_crier : Part.crier ∈ fr) (m_flt : Part.flt ∈ fr)
    (m_scales : Part.scales ∈ fr) : OnlyO fr s0 (execThrottleTick s) := by
  unfold Sys2Proof.Machine.execThrottleTick
  with_reducible repeat' first
    | assumption | apply Only.throttleCuts | apply Only.setScl | apply Only.forEach | apply Only.syncAct
    | apply Only.deferCuts | apply Only.foldl | apply Only.foldl1 | apply OnlyO.next | exact Or.inl rfl
    | exact Or.inr (by assumption) | apply OnlyMk.intro | simp only [onlyMk] | dsimp only | split | intro

theorem Only.setTop {s : State} {f : Sys2Proof.Machine.Top → Sys2Proof.Machine.Top} (hk : Only fr s0 s)
    (m_top : Part.top ∈ fr) : Only fr s0 (setTop s f) := by
  intro p hp
  have h := hk p hp
  cases p <;> first | exact h | exact absurd m_top hp

theorem Only.bayAfterCold (old : State) (s : State) (c : Nat) (hk : Only fr s0 old) (hk : Only fr s0 s)
    (m_regs : Part.regs ∈ fr) (m_bays : Part.bays ∈ fr) : Only fr s0 (bayAfterCold old s c) := by
  unfold Sys2Proof.Machine.bayAfterCold
  with_reducible repeat' first
    | assumption | apply Only.setF | apply Only.modBay | apply Only.step | exact Or.inl rfl | exact Or.inr (by assumption)
    | apply OnlyMk.intro | simp only [onlyMk] | dsimp only | split | intro

theorem Only.recordWarning (s : State) (mv ns : Nat) (hk : Only fr s0 s) (m_regs : Part.regs ∈ fr)
    : Only fr s0 (recordWarning s mv ns) := by
  unfold Sys2Proof.Machine.recordWarning
  with_reducible repeat' first
    | assumption | apply Only.setF | exact Or.inl rfl | exact Or.inr (by assumption) | apply OnlyMk.intro
    | simp only [onlyMk] | dsimp only | split | intro

theorem Only.execVddCoreWarning (mv ns : Nat) (s : State) (hk : Only fr s0 s)
    (m_regs : Part.regs ∈ fr) (m_owed : Part.owed ∈ fr) (m_lastRaise : Part.lastRaise ∈ fr) (m_top : Part.top ∈ fr)
    (m_crier : Part.crier ∈ fr) (m_flt : Part.flt ∈ fr) (m_scales : Part.scales ∈ fr) :
    OnlyO fr s0 (execVddCoreWarning mv ns s) := by
  unfold Sys2Proof.Machine.execVddCoreWarning
  generalize List.range 129 = r
  with_reducible repeat' first
    | assumption | apply Only.setTop | apply Only.setF | apply Only.forEach | apply Only.stretch | apply Only.raise
    | apply OnlyO.next | dsimp only | split | intro

theorem Only.execVddCoreWarningEnd (minMv durNs : Nat) (s : State) (hk : Only fr s0 s) (m_regs : Part.regs ∈ fr)
    (m_owed : Part.owed ∈ fr) (m_top : Part.top ∈ fr) (m_crier : Part.crier ∈ fr) (m_flt : Part.flt ∈ fr)
    : OnlyO fr s0 (execVddCoreWarningEnd minMv durNs s) := by
  unfold Sys2Proof.Machine.execVddCoreWarningEnd
  with_reducible repeat' first
    | assumption | apply Only.raise | apply Only.recordWarning | apply Only.setTop | apply OnlyO.next | exact Or.inl rfl
    | exact Or.inr (by assumption) | apply OnlyMk.intro | simp only [onlyMk] | dsimp only | split | intro

theorem Only.lcsBurn (j : LcsJob) (point : Option LcsPoint) (s : State) (hk : Only fr s0 s) (m_journal : Part.journal ∈ fr)
    (m_top : Part.top ∈ fr) : Only fr s0 (lcsBurn j point s) := by
  unfold Sys2Proof.Machine.lcsBurn
  with_reducible repeat' first
    | assumption | apply Only.whenB | apply Only.modJrn | apply Only.setTop | exact Or.inl rfl | exact Or.inr (by assumption)
    | apply OnlyMk.intro | simp only [onlyMk] | dsimp only | split | intro

theorem Only.keepRetired (old s : State) (hk : Only fr s0 old) (hk : Only fr s0 s) (m_regs : Part.regs ∈ fr)
    : Only fr s0 (keepRetired old s) := by
  unfold Sys2Proof.Machine.keepRetired
  with_reducible repeat' first
    | assumption | apply Only.forEach | apply Only.setBit | apply Only.setReg | exact Or.inl rfl
    | exact Or.inr (by assumption) | apply OnlyMk.intro | simp only [onlyMk] | dsimp only | split | intro

theorem Only.execColdResetRelease (straps : BitVec 5) (refclks : BitVec 4) (s : State) (hk : Only fr s0 s)
    (m_regs : Part.regs ∈ fr) (m_owed : Part.owed ∈ fr) (m_top : Part.top ∈ fr) (m_crier : Part.crier ∈ fr)
    (m_flt : Part.flt ∈ fr) : OnlyO fr s0 (execColdResetRelease straps refclks s) := by
  unfold Sys2Proof.Machine.execColdResetRelease
  with_reducible repeat' first
    | assumption | apply Only.setLands | apply Only.setTop | apply Only.setBit | apply Only.setReg | apply Only.whenB
    | apply Only.raise | apply OnlyO.next | exact Or.inl rfl | exact Or.inr (by assumption) | apply OnlyMk.intro
    | simp only [onlyMk] | dsimp only | split | intro

theorem Only.execFusesLoaded (s : State) (hk : Only fr s0 s) (m_regs : Part.regs ∈ fr) (m_owed : Part.owed ∈ fr)
    (m_crier : Part.crier ∈ fr) (m_flt : Part.flt ∈ fr) : OnlyO fr s0 (execFusesLoaded s) := by
  unfold Sys2Proof.Machine.execFusesLoaded
  with_reducible repeat' first
    | assumption | apply Only.setF | apply Only.setReg | apply Only.setBringup | apply Only.setReg64 | apply OnlyO.next
    | exact Or.inl rfl | exact Or.inr (by assumption) | apply OnlyMk.intro | simp only [onlyMk] | dsimp only | split | intro

theorem Only.execClocksLocked (failedBanks : List Nat) (s : State) (hk : Only fr s0 s) (m_regs : Part.regs ∈ fr)
    (m_clock : Part.clock ∈ fr) (m_freeCtr : Part.freeCtr ∈ fr) (m_journal : Part.journal ∈ fr) (m_owed : Part.owed ∈ fr)
    (m_lastRaise : Part.lastRaise ∈ fr) (m_top : Part.top ∈ fr) (m_pipes : Part.pipes ∈ fr) (m_market : Part.market ∈ fr)
    (m_spill : Part.spill ∈ fr) (m_sched : Part.sched ∈ fr) (m_telem : Part.telem ∈ fr) (m_crier : Part.crier ∈ fr)
    (m_flt : Part.flt ∈ fr) (m_activity : Part.activity ∈ fr) : OnlyO fr s0 (execClocksLocked failedBanks s) := by
  unfold Sys2Proof.Machine.execClocksLocked
  with_reducible repeat' first
    | assumption | apply Only.forEach | apply Only.setBit | apply Only.retireBank | apply Only.landsFlash
    | apply Only.setBringup | apply OnlyO.next | exact Or.inl rfl | exact Or.inr (by assumption) | apply OnlyMk.intro
    | simp only [onlyMk] | dsimp only | split | intro

theorem Only.runHeldCmd (s : State) (c : HostCmd) (hk : Only fr s0 s) (m_regs : Part.regs ∈ fr) (m_prog : Part.prog ∈ fr)
    (m_freeCtr : Part.freeCtr ∈ fr) (m_journal : Part.journal ∈ fr) (m_owed : Part.owed ∈ fr) (m_lastRaise : Part.lastRaise ∈ fr)
    (m_top : Part.top ∈ fr) (m_hif : Part.hif ∈ fr) (m_prg : Part.prg ∈ fr) (m_pipes : Part.pipes ∈ fr)
    (m_tables : Part.tables ∈ fr) (m_clerk : Part.clerk ∈ fr) (m_crier : Part.crier ∈ fr) (m_flt : Part.flt ∈ fr)
    (m_activity : Part.activity ∈ fr) (m_bays : Part.bays ∈ fr) (m_out : Part.out ∈ fr) : Only fr s0 (runHeldCmd s c) := by
  unfold Sys2Proof.Machine.runHeldCmd
  with_reducible repeat' first
    | assumption | apply Only.rowState | apply Only.execTblSearch | apply Only.execTblNext | apply Only.execTblInsert
    | apply Only.execTblUpdate | apply Only.execTblDelete | apply Only.execTblFlushPort | apply Only.execTblRead
    | apply Only.execStageWrite | apply Only.execCommit | apply Only.execCommitAt | apply Only.execCommitToken
    | apply Only.execCommitCancel | apply Only.execPatchLoad | apply Only.execReadId | apply Only.execSetPolicy
    | apply Only.execPrepareRemove | exact Or.inl rfl | exact Or.inr (by assumption) | apply OnlyMk.intro
    | simp only [onlyMk] | dsimp only | split | intro

theorem Only.runHeld (s : State) (hk : Only fr s0 s) (m_regs : Part.regs ∈ fr) (m_prog : Part.prog ∈ fr)
    (m_freeCtr : Part.freeCtr ∈ fr) (m_journal : Part.journal ∈ fr) (m_owed : Part.owed ∈ fr) (m_lastRaise : Part.lastRaise ∈ fr)
    (m_top : Part.top ∈ fr) (m_hif : Part.hif ∈ fr) (m_prg : Part.prg ∈ fr) (m_pipes : Part.pipes ∈ fr)
    (m_tables : Part.tables ∈ fr) (m_clerk : Part.clerk ∈ fr) (m_crier : Part.crier ∈ fr) (m_flt : Part.flt ∈ fr)
    (m_activity : Part.activity ∈ fr) (m_bays : Part.bays ∈ fr) (m_out : Part.out ∈ fr) : Only fr s0 (runHeld s) := by
  unfold Sys2Proof.Machine.runHeld
  with_reducible repeat' first
    | assumption | apply Only.refuseForms | apply Only.forEach | apply Only.runHeldCmd | exact Or.inl rfl
    | exact Or.inr (by assumption) | apply OnlyMk.intro | simp only [onlyMk] | dsimp only | split | intro

theorem Only.startEpoch (s : State) (hk : Only fr s0 s) (m_regs : Part.regs ∈ fr) (m_prog : Part.prog ∈ fr)
    (m_freeCtr : Part.freeCtr ∈ fr) (m_journal : Part.journal ∈ fr) (m_owed : Part.owed ∈ fr) (m_lastRaise : Part.lastRaise ∈ fr)
    (m_top : Part.top ∈ fr) (m_hif : Part.hif ∈ fr) (m_prg : Part.prg ∈ fr) (m_pipes : Part.pipes ∈ fr)
    (m_tables : Part.tables ∈ fr) (m_clerk : Part.clerk ∈ fr) (m_crier : Part.crier ∈ fr) (m_flt : Part.flt ∈ fr)
    (m_activity : Part.activity ∈ fr) (m_bays : Part.bays ∈ fr) (m_sec : Part.sec ∈ fr) (m_out : Part.out ∈ fr)
    : Only fr s0 (startEpoch s) := by
  unfold Sys2Proof.Machine.startEpoch
  with_reducible repeat' first
    | assumption | apply Only.keyEpoch | apply Only.runHeld | exact Or.inl rfl | exact Or.inr (by assumption)
    | apply OnlyMk.intro | simp only [onlyMk] | dsimp only | split | intro

theorem Only.execKeyEpochStart (s : State) (hk : Only fr s0 s) (m_regs : Part.regs ∈ fr) (m_prog : Part.prog ∈ fr)
    (m_freeCtr : Part.freeCtr ∈ fr) (m_journal : Part.journal ∈ fr) (m_owed : Part.owed ∈ fr) (m_lastRaise : Part.lastRaise ∈ fr)
    (m_top : Part.top ∈ fr) (m_hif : Part.hif ∈ fr) (m_prg : Part.prg ∈ fr) (m_pipes : Part.pipes ∈ fr)
    (m_tables : Part.tables ∈ fr) (m_clerk : Part.clerk ∈ fr) (m_crier : Part.crier ∈ fr) (m_flt : Part.flt ∈ fr)
    (m_activity : Part.activity ∈ fr) (m_bays : Part.bays ∈ fr) (m_sec : Part.sec ∈ fr) (m_out : Part.out ∈ fr)
    : OnlyO fr s0 (execKeyEpochStart s) := by
  unfold Sys2Proof.Machine.execKeyEpochStart
  with_reducible repeat' first
    | assumption | apply Only.startEpoch | apply OnlyO.next | exact Or.inl rfl | exact Or.inr (by assumption)
    | apply OnlyMk.intro | simp only [onlyMk] | dsimp only | split | intro

theorem Only.execTrngOk (s : State) (hk : Only fr s0 s) (m_regs : Part.regs ∈ fr) (m_prog : Part.prog ∈ fr)
    (m_freeCtr : Part.freeCtr ∈ fr) (m_journal : Part.journal ∈ fr) (m_owed : Part.owed ∈ fr) (m_lastRaise : Part.lastRaise ∈ fr)
    (m_top : Part.top ∈ fr) (m_hif : Part.hif ∈ fr) (m_prg : Part.prg ∈ fr) (m_pipes : Part.pipes ∈ fr)
    (m_tables : Part.tables ∈ fr) (m_clerk : Part.clerk ∈ fr) (m_ainum : Part.ainum ∈ fr) (m_crier : Part.crier ∈ fr)
    (m_flt : Part.flt ∈ fr) (m_activity : Part.activity ∈ fr) (m_bays : Part.bays ∈ fr) (m_sec : Part.sec ∈ fr)
    (m_out : Part.out ∈ fr) : OnlyO fr s0 (execTrngOk s) := by
  unfold Sys2Proof.Machine.execTrngOk
  with_reducible repeat' first
    | assumption | apply Only.setBit | apply Only.forEach | apply Only.startEpoch | apply Only.queueHello
    | apply Only.sendChallenge | apply OnlyO.next | exact Or.inl rfl | exact Or.inr (by assumption) | apply OnlyMk.intro
    | simp only [onlyMk] | dsimp only | split | intro

theorem Only.tablesWiped (s : State) (hk : Only fr s0 s) (m_regs : Part.regs ∈ fr) (m_owed : Part.owed ∈ fr)
    (m_crier : Part.crier ∈ fr) (m_flt : Part.flt ∈ fr) : Only fr s0 (tablesWiped s) := by
  unfold Sys2Proof.Machine.tablesWiped
  with_reducible repeat' first
    | assumption | apply Only.setBringup | apply Only.openStage | exact Or.inl rfl | exact Or.inr (by assumption)
    | apply OnlyMk.intro | simp only [onlyMk] | dsimp only | split | intro

theorem Only.execTableWipeComplete (s : State) (hk : Only fr s0 s) (m_regs : Part.regs ∈ fr) (m_prog : Part.prog ∈ fr)
    (m_freeCtr : Part.freeCtr ∈ fr) (m_journal : Part.journal ∈ fr) (m_owed : Part.owed ∈ fr) (m_lastRaise : Part.lastRaise ∈ fr)
    (m_top : Part.top ∈ fr) (m_hif : Part.hif ∈ fr) (m_prg : Part.prg ∈ fr) (m_pipes : Part.pipes ∈ fr)
    (m_tables : Part.tables ∈ fr) (m_clerk : Part.clerk ∈ fr) (m_crier : Part.crier ∈ fr) (m_flt : Part.flt ∈ fr)
    (m_activity : Part.activity ∈ fr) (m_bays : Part.bays ∈ fr) (m_out : Part.out ∈ fr)
    : OnlyO fr s0 (execTableWipeComplete s) := by
  unfold Sys2Proof.Machine.execTableWipeComplete
  with_reducible repeat' first
    | assumption | apply Only.runHeld | apply Only.tablesWiped | apply OnlyO.next | exact Or.inl rfl
    | exact Or.inr (by assumption) | apply OnlyMk.intro | simp only [onlyMk] | dsimp only | split | intro

theorem Only.startWipe (s : State) (m : Nat) (hk : Only fr s0 s) (m_spill : Part.spill ∈ fr)
    : Only fr s0 (startWipe s m) := by
  unfold Sys2Proof.Machine.startWipe
  with_reducible repeat' first
    | assumption | exact Or.inl rfl | exact Or.inr (by assumption) | apply OnlyMk.intro | simp only [onlyMk] | dsimp only
    | split | intro

theorem Only.stackReady (s : State) (m : Nat) (hk : Only fr s0 s) (m_regs : Part.regs ∈ fr) (m_owed : Part.owed ∈ fr)
    (m_crier : Part.crier ∈ fr) (m_flt : Part.flt ∈ fr) : Only fr s0 (stackReady s m) := by
  unfold Sys2Proof.Machine.stackReady
  with_reducible repeat' first
    | assumption | apply Only.raise | apply Only.setBringup | exact Or.inl rfl | exact Or.inr (by assumption)
    | apply OnlyMk.intro | simp only [onlyMk] | dsimp only | split | intro

theorem Only.execHbmPhyTrained (stack : Nat) (failedCh : List Nat) (s : State) (hk : Only fr s0 s) (m_regs : Part.regs ∈ fr)
    (m_freeCtr : Part.freeCtr ∈ fr) (m_owed : Part.owed ∈ fr) (m_lastRaise : Part.lastRaise ∈ fr) (m_market : Part.market ∈ fr)
    (m_spill : Part.spill ∈ fr) (m_sched : Part.sched ∈ fr) (m_telem : Part.telem ∈ fr) (m_crier : Part.crier ∈ fr)
    (m_flt : Part.flt ∈ fr) (m_activity : Part.activity ∈ fr) : OnlyO fr s0 (execHbmPhyTrained stack failedCh s) := by
  unfold Sys2Proof.Machine.execHbmPhyTrained
  with_reducible repeat' first
    | assumption | apply Only.setBit | apply Only.setF | apply Only.forEach | apply Only.retireChannel
    | apply Only.stackReady | apply Only.startWipe | apply Only.foldl | apply Only.foldl1 | apply OnlyO.next
    | exact Or.inl rfl | exact Or.inr (by assumption) | apply OnlyMk.intro | simp only [onlyMk] | dsimp only | split | intro

theorem Only.wipedStack (s : State) (m : Nat) (hk : Only fr s0 s) (m_regs : Part.regs ∈ fr) (m_owed : Part.owed ∈ fr)
    (m_spill : Part.spill ∈ fr) (m_crier : Part.crier ∈ fr) (m_flt : Part.flt ∈ fr) (m_activity : Part.activity ∈ fr)
    : Only fr s0 (wipedStack s m) := by
  unfold Sys2Proof.Machine.wipedStack
  with_reducible repeat' first
    | assumption | apply Only.forEach | apply Only.pmcAdd | apply Only.setF | apply Only.setBit | exact Or.inl rfl
    | exact Or.inr (by assumption) | apply OnlyMk.intro | simp only [onlyMk] | dsimp only | split | intro

theorem Only.execHbmWipeComplete (stack : Nat) (failedCh : List Nat) (s : State) (hk : Only fr s0 s)
    (m_regs : Part.regs ∈ fr) (m_freeCtr : Part.freeCtr ∈ fr) (m_owed : Part.owed ∈ fr) (m_lastRaise : Part.lastRaise ∈ fr)
    (m_market : Part.market ∈ fr) (m_spill : Part.spill ∈ fr) (m_sched : Part.sched ∈ fr) (m_telem : Part.telem ∈ fr)
    (m_crier : Part.crier ∈ fr) (m_flt : Part.flt ∈ fr) (m_activity : Part.activity ∈ fr)
    : OnlyO fr s0 (execHbmWipeComplete stack failedCh s) := by
  unfold Sys2Proof.Machine.execHbmWipeComplete
  with_reducible repeat' first
    | assumption | apply Only.forEach | apply Only.retireChannel | apply Only.stackReady | apply Only.wipedStack
    | apply OnlyO.next | exact Or.inl rfl | exact Or.inr (by assumption) | apply OnlyMk.intro | simp only [onlyMk]
    | dsimp only | split | intro

theorem Only.bootVerified (s : State) (hk : Only fr s0 s) (m_regs : Part.regs ∈ fr) (m_owed : Part.owed ∈ fr)
    (m_crier : Part.crier ∈ fr) (m_flt : Part.flt ∈ fr) : Only fr s0 (bootVerified s) := by
  unfold Sys2Proof.Machine.bootVerified
  with_reducible repeat' first
    | assumption | apply Only.whenB | apply Only.raise | apply Only.forEach | apply Only.secCount | exact Or.inl rfl
    | exact Or.inr (by assumption) | apply OnlyMk.intro | simp only [onlyMk] | dsimp only | split | intro

theorem Only.bootPatch (s : State) (hk : Only fr s0 s) (m_regs : Part.regs ∈ fr) (m_owed : Part.owed ∈ fr)
    (m_top : Part.top ∈ fr) (m_prg : Part.prg ∈ fr) (m_crier : Part.crier ∈ fr) (m_flt : Part.flt ∈ fr)
    : Only fr s0 (bootPatch s) := by
  unfold Sys2Proof.Machine.bootPatch
  with_reducible repeat' first
    | assumption | apply Only.sigCount | apply Only.raisePatchFloor | exact Or.inl rfl | exact Or.inr (by assumption)
    | apply OnlyMk.intro | simp only [onlyMk] | dsimp only | split | intro

theorem Only.bootCold (s : State) (hk : Only fr s0 s) (m_regs : Part.regs ∈ fr) (m_owed : Part.owed ∈ fr)
    (m_top : Part.top ∈ fr) (m_prg : Part.prg ∈ fr) (m_crier : Part.crier ∈ fr) (m_flt : Part.flt ∈ fr)
    (m_scales : Part.scales ∈ fr) : Only fr s0 (bootCold s) := by
  unfold Sys2Proof.Machine.bootCold
  with_reducible repeat' first
    | assumption | apply Only.whenB | apply Only.setBit | apply Only.forEach | apply Only.setReg | apply Only.bootPatch
    | apply Only.setScl | exact Or.inl rfl | exact Or.inr (by assumption) | apply OnlyMk.intro | simp only [onlyMk]
    | dsimp only | split | intro

theorem Only.logStart (s : State) (cold : Bool) (svn : Nat) (hk : Only fr s0 s) (m_regs : Part.regs ∈ fr)
    (m_journal : Part.journal ∈ fr) (m_owed : Part.owed ∈ fr) (m_crier : Part.crier ∈ fr) (m_flt : Part.flt ∈ fr)
    : Only fr s0 (logStart s cold svn) := by
  unfold Sys2Proof.Machine.logStart
  with_reducible repeat' first
    | assumption | apply Only.jrnLog | exact Or.inl rfl | exact Or.inr (by assumption) | apply OnlyMk.intro
    | simp only [onlyMk] | dsimp only | split | intro

theorem Only.firmwareRuns (s : State) (hk : Only fr s0 s) (m_regs : Part.regs ∈ fr) (m_prog : Part.prog ∈ fr)
    (m_freeCtr : Part.freeCtr ∈ fr) (m_journal : Part.journal ∈ fr) (m_owed : Part.owed ∈ fr) (m_lastRaise : Part.lastRaise ∈ fr)
    (m_top : Part.top ∈ fr) (m_hif : Part.hif ∈ fr) (m_prg : Part.prg ∈ fr) (m_ports : Part.ports ∈ fr)
    (m_pipes : Part.pipes ∈ fr) (m_tables : Part.tables ∈ fr) (m_clerk : Part.clerk ∈ fr) (m_sched : Part.sched ∈ fr)
    (m_ainum : Part.ainum ∈ fr) (m_crier : Part.crier ∈ fr) (m_flt : Part.flt ∈ fr) (m_activity : Part.activity ∈ fr)
    (m_bays : Part.bays ∈ fr) (m_out : Part.out ∈ fr) : Only fr s0 (firmwareRuns s) := by
  unfold Sys2Proof.Machine.firmwareRuns
  with_reducible repeat' first
    | assumption | apply Only.mailTake | apply Only.landsFirmware | apply Only.jrnFlush | apply Only.forEach
    | apply Only.serveAsked | apply Only.answerProposals | apply Only.runHeld | apply Only.cartDone | exact Or.inl rfl
    | exact Or.inr (by assumption) | apply OnlyMk.intro | simp only [onlyMk] | dsimp only | split | intro

theorem Only.firmwareStarted (bad : List JrnRec) (code svn : Nat) (s : State) (hk : Only fr s0 s) (m_regs : Part.regs ∈ fr)
    (m_journal : Part.journal ∈ fr) (m_owed : Part.owed ∈ fr) (m_top : Part.top ∈ fr) (m_prg : Part.prg ∈ fr)
    (m_crier : Part.crier ∈ fr) (m_flt : Part.flt ∈ fr) (m_scales : Part.scales ∈ fr)
    : Only fr s0 (firmwareStarted bad code svn s) := by
  unfold Sys2Proof.Machine.firmwareStarted
  with_reducible repeat' first
    | assumption | apply Only.setTop | apply Only.bootVerified | apply Only.whenB | apply Only.bootCold
    | apply Only.journalStart | apply Only.raiseFwFloor | apply Only.setBringup | apply Only.logStart | exact Or.inl rfl
    | exact Or.inr (by assumption) | apply OnlyMk.intro | simp only [onlyMk] | dsimp only | split | intro

theorem Only.bootFirmware (bad : List JrnRec) (s : State) (hk : Only fr s0 s) (m_regs : Part.regs ∈ fr)
    (m_prog : Part.prog ∈ fr) (m_freeCtr : Part.freeCtr ∈ fr) (m_journal : Part.journal ∈ fr) (m_owed : Part.owed ∈ fr)
    (m_lastRaise : Part.lastRaise ∈ fr) (m_top : Part.top ∈ fr) (m_hif : Part.hif ∈ fr) (m_prg : Part.prg ∈ fr)
    (m_ports : Part.ports ∈ fr) (m_pipes : Part.pipes ∈ fr) (m_tables : Part.tables ∈ fr) (m_clerk : Part.clerk ∈ fr)
    (m_sched : Part.sched ∈ fr) (m_ainum : Part.ainum ∈ fr) (m_crier : Part.crier ∈ fr) (m_flt : Part.flt ∈ fr)
    (m_scales : Part.scales ∈ fr) (m_activity : Part.activity ∈ fr) (m_bays : Part.bays ∈ fr) (m_out : Part.out ∈ fr)
    : Only fr s0 (bootFirmware bad s) := by
  unfold Sys2Proof.Machine.bootFirmware
  with_reducible repeat' first
    | assumption | apply Only.bootVerified | apply Only.firmwareRuns | apply Only.firmwareStarted | exact Or.inl rfl
    | exact Or.inr (by assumption) | apply OnlyMk.intro | simp only [onlyMk] | dsimp only | split | intro

theorem Only.execFirmwareStart (bad : List JrnRec) (s : State) (hk : Only fr s0 s) (m_regs : Part.regs ∈ fr)
    (m_prog : Part.prog ∈ fr) (m_freeCtr : Part.freeCtr ∈ fr) (m_journal : Part.journal ∈ fr) (m_owed : Part.owed ∈ fr)
    (m_lastRaise : Part.lastRaise ∈ fr) (m_top : Part.top ∈ fr) (m_hif : Part.hif ∈ fr) (m_prg : Part.prg ∈ fr)
    (m_ports : Part.ports ∈ fr) (m_pipes : Part.pipes ∈ fr) (m_tables : Part.tables ∈ fr) (m_clerk : Part.clerk ∈ fr)
    (m_sched : Part.sched ∈ fr) (m_ainum : Part.ainum ∈ fr) (m_crier : Part.crier ∈ fr) (m_flt : Part.flt ∈ fr)
    (m_scales : Part.scales ∈ fr) (m_activity : Part.activity ∈ fr) (m_bays : Part.bays ∈ fr) (m_out : Part.out ∈ fr)
    : OnlyO fr s0 (execFirmwareStart bad s) := by
  unfold Sys2Proof.Machine.execFirmwareStart
  with_reducible repeat' first
    | assumption | apply Only.bootFirmware | apply OnlyO.next | exact Or.inl rfl | exact Or.inr (by assumption)
    | apply OnlyMk.intro | simp only [onlyMk] | dsimp only | split | intro

theorem Only.execJtagCoreRelease (s : State) (hk : Only fr s0 s) (m_top : Part.top ∈ fr)
    : OnlyO fr s0 (execJtagCoreRelease s) := by
  unfold Sys2Proof.Machine.execJtagCoreRelease
  with_reducible repeat' first
    | assumption | apply Only.setTop | apply Only.setLands | apply Only.landsFlash | apply OnlyO.next | exact Or.inl rfl
    | exact Or.inr (by assumption) | apply OnlyMk.intro | simp only [onlyMk] | dsimp only | split | intro

theorem Only.controlStart (s : State) (hk : Only fr s0 s) (m_regs : Part.regs ∈ fr) (m_owed : Part.owed ∈ fr)
    (m_top : Part.top ∈ fr) (m_hif : Part.hif ∈ fr) (m_prg : Part.prg ∈ fr) (m_crier : Part.crier ∈ fr) (m_flt : Part.flt ∈ fr)
    : Only fr s0 (controlStart s) := by
  unfold Sys2Proof.Machine.controlStart
  with_reducible repeat' first
    | assumption | apply Only.clearBringup | apply Only.setTop | apply Only.forEach | apply Only.complete
    | apply Only.mailRespond | apply Only.foldl | apply Only.foldl1 | exact Or.inl rfl | exact Or.inr (by assumption)
    | apply OnlyMk.intro | simp only [onlyMk] | dsimp only | split | intro

theorem Only.execControlReset (s : State) (hk : Only fr s0 s) (m_regs : Part.regs ∈ fr) (m_owed : Part.owed ∈ fr)
    (m_top : Part.top ∈ fr) (m_hif : Part.hif ∈ fr) (m_prg : Part.prg ∈ fr) (m_crier : Part.crier ∈ fr) (m_flt : Part.flt ∈ fr)
    : OnlyO fr s0 (execControlReset s) := by
  unfold Sys2Proof.Machine.execControlReset
  with_reducible repeat' first
    | assumption | apply Only.controlStart | apply OnlyO.next | exact Or.inl rfl | exact Or.inr (by assumption)
    | apply OnlyMk.intro | simp only [onlyMk] | dsimp only | split | intro

theorem Only.execControlResetComplete (bad : List JrnRec) (s : State) (hk : Only fr s0 s) (m_regs : Part.regs ∈ fr)
    (m_prog : Part.prog ∈ fr) (m_freeCtr : Part.freeCtr ∈ fr) (m_journal : Part.journal ∈ fr) (m_owed : Part.owed ∈ fr)
    (m_lastRaise : Part.lastRaise ∈ fr) (m_top : Part.top ∈ fr) (m_hif : Part.hif ∈ fr) (m_prg : Part.prg ∈ fr)
    (m_ports : Part.ports ∈ fr) (m_pipes : Part.pipes ∈ fr) (m_tables : Part.tables ∈ fr) (m_clerk : Part.clerk ∈ fr)
    (m_sched : Part.sched ∈ fr) (m_ainum : Part.ainum ∈ fr) (m_crier : Part.crier ∈ fr) (m_flt : Part.flt ∈ fr)
    (m_scales : Part.scales ∈ fr) (m_activity : Part.activity ∈ fr) (m_bays : Part.bays ∈ fr) (m_out : Part.out ∈ fr)
    : OnlyO fr s0 (execControlResetComplete bad s) := by
  unfold Sys2Proof.Machine.execControlResetComplete
  with_reducible repeat' first
    | assumption | apply Only.bootFirmware | apply OnlyO.next | exact Or.inl rfl | exact Or.inr (by assumption)
    | apply OnlyMk.intro | simp only [onlyMk] | dsimp only | split | intro

theorem Only.execCoreWatchdogExpiry (core : Nat) (s : State) (hk : Only fr s0 s) (m_regs : Part.regs ∈ fr)
    (m_owed : Part.owed ∈ fr) (m_top : Part.top ∈ fr) (m_hif : Part.hif ∈ fr) (m_prg : Part.prg ∈ fr) (m_crier : Part.crier ∈ fr)
    (m_flt : Part.flt ∈ fr) : OnlyO fr s0 (execCoreWatchdogExpiry core s) := by
  unfold Sys2Proof.Machine.execCoreWatchdogExpiry
  with_reducible repeat' first
    | assumption | apply Only.controlStart | apply OnlyO.next | exact Or.inl rfl | exact Or.inr (by assumption)
    | apply OnlyMk.intro | simp only [onlyMk] | dsimp only | split | intro

theorem Only.resetPipe (p : Nat) (s : State) (hk : Only fr s0 s) (m_regs : Part.regs ∈ fr) (m_freeCtr : Part.freeCtr ∈ fr) (m_journal : Part.journal ∈ fr) (m_owed : Part.owed ∈ fr)
    (m_lastRaise : Part.lastRaise ∈ fr) (m_pipes : Part.pipes ∈ fr) (m_market : Part.market ∈ fr) (m_spill : Part.spill ∈ fr)
    (m_sched : Part.sched ∈ fr) (m_telem : Part.telem ∈ fr) (m_crier : Part.crier ∈ fr) (m_flt : Part.flt ∈ fr)
    (m_activity : Part.activity ∈ fr) :
    Only fr s0 (resetPipe p s) := by
  unfold Sys2Proof.Machine.resetPipe
  lift_lets
  intro s1 s2
  have h1 : Only fr s0 s1 := by with_reducible repeat' first | assumption | apply Only.dropInPipe
  clear_value s1
  have h2 : Only fr s0 s2 := by
    with_reducible repeat' first
      | assumption | apply Only.forEach | apply Only.setStall | dsimp only | intro
  clear_value s2
  generalize List.range 32 = r
  with_reducible repeat' first
    | assumption | apply Only.forEach | apply Only.clearPauses
    | exact Or.inl rfl | exact Or.inr (by assumption) | apply OnlyMk.intro | simp only [onlyMk] | dsimp only | split | intro

theorem Only.resetPort (s : State) (l : Nat) (hk : Only fr s0 s) (m_regs : Part.regs ∈ fr) (m_owed : Part.owed ∈ fr)
    (m_ports : Part.ports ∈ fr) (m_sched : Part.sched ∈ fr) (m_ainum : Part.ainum ∈ fr) (m_crier : Part.crier ∈ fr)
    (m_flt : Part.flt ∈ fr) : Only fr s0 (resetPort s l) := by
  unfold Sys2Proof.Machine.resetPort
  with_reducible repeat' first
    | assumption | apply Only.ainumDown | apply Only.modPort | apply Only.enterState | exact Or.inl rfl
    | exact Or.inr (by assumption) | apply OnlyMk.intro | simp only [onlyMk] | dsimp only | split | intro

theorem Only.resetLanes (g : Nat) (s : State) (hk : Only fr s0 s) (m_regs : Part.regs ∈ fr) (m_freeCtr : Part.freeCtr ∈ fr)
    (m_journal : Part.journal ∈ fr) (m_owed : Part.owed ∈ fr) (m_lastRaise : Part.lastRaise ∈ fr) (m_ports : Part.ports ∈ fr)
    (m_pipes : Part.pipes ∈ fr) (m_market : Part.market ∈ fr) (m_spill : Part.spill ∈ fr) (m_sched : Part.sched ∈ fr)
    (m_ainum : Part.ainum ∈ fr) (m_telem : Part.telem ∈ fr) (m_crier : Part.crier ∈ fr) (m_flt : Part.flt ∈ fr)
    (m_activity : Part.activity ∈ fr) : Only fr s0 (resetLanes g s) := by
  unfold Sys2Proof.Machine.resetLanes
  with_reducible repeat' first
    | assumption | apply Only.forEach | apply Only.cutArriving | apply Only.dropPacket | apply Only.resetPort
    | exact Or.inl rfl | exact Or.inr (by assumption) | apply OnlyMk.intro | simp only [onlyMk] | dsimp only | split | intro

theorem Only.faultLookups (h : Nat) (s : State) (hk : Only fr s0 s) (m_pipes : Part.pipes ∈ fr)
    : Only fr s0 (faultLookups h s) := by
  unfold Sys2Proof.Machine.faultLookups
  with_reducible repeat' first
    | assumption | exact Or.inl rfl | exact Or.inr (by assumption) | apply OnlyMk.intro | simp only [onlyMk] | dsimp only
    | split | intro

theorem Only.abandonReads (mine : Xfer → Bool) (s : State) (hk : Only fr s0 s) (m_regs : Part.regs ∈ fr)
    (m_owed : Part.owed ∈ fr) (m_market : Part.market ∈ fr) (m_spill : Part.spill ∈ fr) (m_crier : Part.crier ∈ fr)
    (m_flt : Part.flt ∈ fr) (m_activity : Part.activity ∈ fr) : Only fr s0 (abandonReads mine s) := by
  unfold Sys2Proof.Machine.abandonReads
  with_reducible repeat' first
    | assumption | apply Only.forEach | apply Only.dropXfer | apply Only.freeDrain | apply Only.setSpq | exact Or.inl rfl
    | exact Or.inr (by assumption) | apply OnlyMk.intro | simp only [onlyMk] | dsimp only | split | intro

theorem Only.resetPhy (m : Nat) (s : State) (hk : Only fr s0 s) (m_regs : Part.regs ∈ fr) (m_owed : Part.owed ∈ fr)
    (m_market : Part.market ∈ fr) (m_spill : Part.spill ∈ fr) (m_crier : Part.crier ∈ fr) (m_flt : Part.flt ∈ fr)
    (m_activity : Part.activity ∈ fr) : Only fr s0 (resetPhy m s) := by
  unfold Sys2Proof.Machine.resetPhy
  with_reducible repeat' first
    | assumption | apply Only.setBit | apply Only.clearBringup | apply Only.abandonReads | exact Or.inl rfl
    | exact Or.inr (by assumption) | apply OnlyMk.intro | simp only [onlyMk] | dsimp only | split | intro

theorem Only.resetSecurity (s : State) (hk : Only fr s0 s) (m_regs : Part.regs ∈ fr) (m_owed : Part.owed ∈ fr)
    (m_hif : Part.hif ∈ fr) (m_ainum : Part.ainum ∈ fr) (m_crier : Part.crier ∈ fr) (m_flt : Part.flt ∈ fr)
    (m_sec : Part.sec ∈ fr) : Only fr s0 (resetSecurity s) := by
  unfold Sys2Proof.Machine.resetSecurity
  with_reducible repeat' first
    | assumption | apply Only.forEach | apply Only.complete | apply Only.endSession | apply Only.wipeSlots | exact Or.inl rfl
    | exact Or.inr (by assumption) | apply OnlyMk.intro | simp only [onlyMk] | dsimp only | split | intro

theorem Only.islandEffect (n : Nat) (s : State) (hk : Only fr s0 s) (m_regs : Part.regs ∈ fr) (m_freeCtr : Part.freeCtr ∈ fr)
    (m_journal : Part.journal ∈ fr) (m_owed : Part.owed ∈ fr) (m_lastRaise : Part.lastRaise ∈ fr) (m_hif : Part.hif ∈ fr)
    (m_ports : Part.ports ∈ fr) (m_pipes : Part.pipes ∈ fr) (m_market : Part.market ∈ fr) (m_spill : Part.spill ∈ fr)
    (m_sched : Part.sched ∈ fr) (m_ainum : Part.ainum ∈ fr) (m_telem : Part.telem ∈ fr) (m_crier : Part.crier ∈ fr)
    (m_flt : Part.flt ∈ fr) (m_activity : Part.activity ∈ fr) (m_sec : Part.sec ∈ fr) : Only fr s0 (islandEffect n s) := by
  unfold Sys2Proof.Machine.islandEffect
  with_reducible repeat' first
    | assumption | apply Only.resetPipe | apply Only.resetLanes | apply Only.faultLookups | apply Only.abandonReads
    | apply Only.resetPhy | apply Only.resetSecurity | exact Or.inl rfl | exact Or.inr (by assumption) | apply OnlyMk.intro
    | simp only [onlyMk] | dsimp only | split | intro

theorem Only.startIsland (s : State) (n : Nat) (hk : Only fr s0 s) (m_regs : Part.regs ∈ fr) (m_freeCtr : Part.freeCtr ∈ fr)
    (m_journal : Part.journal ∈ fr) (m_owed : Part.owed ∈ fr) (m_lastRaise : Part.lastRaise ∈ fr) (m_top : Part.top ∈ fr)
    (m_hif : Part.hif ∈ fr) (m_ports : Part.ports ∈ fr) (m_pipes : Part.pipes ∈ fr) (m_market : Part.market ∈ fr)
    (m_spill : Part.spill ∈ fr) (m_sched : Part.sched ∈ fr) (m_ainum : Part.ainum ∈ fr) (m_telem : Part.telem ∈ fr)
    (m_crier : Part.crier ∈ fr) (m_flt : Part.flt ∈ fr) (m_activity : Part.activity ∈ fr) (m_sec : Part.sec ∈ fr)
    : Only fr s0 (startIsland s n) := by
  unfold Sys2Proof.Machine.startIsland
  with_reducible repeat' first
    | assumption | apply Only.islandEffect | apply Only.setTop | exact Or.inl rfl | exact Or.inr (by assumption)
    | apply OnlyMk.intro | simp only [onlyMk] | dsimp only | split | intro

theorem Only.execIslResetIsland (island : Nat) (s : State) (hk : Only fr s0 s) (m_regs : Part.regs ∈ fr)
    (m_freeCtr : Part.freeCtr ∈ fr) (m_journal : Part.journal ∈ fr) (m_owed : Part.owed ∈ fr) (m_lastRaise : Part.lastRaise ∈ fr)
    (m_top : Part.top ∈ fr) (m_hif : Part.hif ∈ fr) (m_ports : Part.ports ∈ fr) (m_pipes : Part.pipes ∈ fr)
    (m_market : Part.market ∈ fr) (m_spill : Part.spill ∈ fr) (m_sched : Part.sched ∈ fr) (m_ainum : Part.ainum ∈ fr)
    (m_telem : Part.telem ∈ fr) (m_crier : Part.crier ∈ fr) (m_flt : Part.flt ∈ fr) (m_activity : Part.activity ∈ fr)
    (m_sec : Part.sec ∈ fr) : OnlyO fr s0 (execIslResetIsland island s) := by
  unfold Sys2Proof.Machine.execIslResetIsland
  with_reducible repeat' first
    | assumption | apply Only.setBit | apply Only.setTop | apply Only.startIsland | apply Only.setF | apply OnlyO.next
    | exact Or.inl rfl | exact Or.inr (by assumption) | apply OnlyMk.intro | simp only [onlyMk] | dsimp only | split | intro

theorem Only.execIslResetControl (s : State) (hk : Only fr s0 s) (m_regs : Part.regs ∈ fr) (m_owed : Part.owed ∈ fr)
    (m_top : Part.top ∈ fr) (m_hif : Part.hif ∈ fr) (m_prg : Part.prg ∈ fr) (m_crier : Part.crier ∈ fr) (m_flt : Part.flt ∈ fr)
    : OnlyO fr s0 (execIslResetControl s) := by
  unfold Sys2Proof.Machine.execIslResetControl
  with_reducible repeat' first
    | assumption | apply Only.controlStart | apply Only.setBit | apply OnlyO.next | exact Or.inl rfl
    | exact Or.inr (by assumption) | apply OnlyMk.intro | simp only [onlyMk] | dsimp only | split | intro

theorem Only.islandEnd (n : Nat) (s : State) (hk : Only fr s0 s) (m_regs : Part.regs ∈ fr) (m_owed : Part.owed ∈ fr)
    (m_slots : Part.slots ∈ fr) (m_crier : Part.crier ∈ fr) (m_flt : Part.flt ∈ fr) (m_sec : Part.sec ∈ fr)
    : Only fr s0 (islandEnd n s) := by
  unfold Sys2Proof.Machine.islandEnd
  with_reducible repeat' first
    | assumption | apply Only.forEach | apply Only.takeSwitch | exact Or.inl rfl | exact Or.inr (by assumption)
    | apply OnlyMk.intro | simp only [onlyMk] | dsimp only | split | intro

theorem Only.leaveIsland (n : Nat) (s : State) (hk : Only fr s0 s) (m_regs : Part.regs ∈ fr) (m_owed : Part.owed ∈ fr)
    (m_top : Part.top ∈ fr) (m_slots : Part.slots ∈ fr) (m_crier : Part.crier ∈ fr) (m_flt : Part.flt ∈ fr)
    (m_sec : Part.sec ∈ fr) : Only fr s0 (leaveIsland n s) := by
  unfold Sys2Proof.Machine.leaveIsland
  with_reducible repeat' first
    | assumption | apply Only.setTop | apply Only.raise | apply Only.islandEnd | apply Only.setBit | apply Only.forEach
    | apply Only.actionDone | exact Or.inl rfl | exact Or.inr (by assumption) | apply OnlyMk.intro | simp only [onlyMk]
    | dsimp only | split | intro

theorem Only.execEscIsland (src : Nat) (s : State) (hk : Only fr s0 s) (m_regs : Part.regs ∈ fr)
    (m_freeCtr : Part.freeCtr ∈ fr) (m_journal : Part.journal ∈ fr) (m_owed : Part.owed ∈ fr) (m_lastRaise : Part.lastRaise ∈ fr)
    (m_top : Part.top ∈ fr) (m_hif : Part.hif ∈ fr) (m_ports : Part.ports ∈ fr) (m_pipes : Part.pipes ∈ fr)
    (m_market : Part.market ∈ fr) (m_spill : Part.spill ∈ fr) (m_sched : Part.sched ∈ fr) (m_ainum : Part.ainum ∈ fr)
    (m_telem : Part.telem ∈ fr) (m_crier : Part.crier ∈ fr) (m_flt : Part.flt ∈ fr) (m_activity : Part.activity ∈ fr)
    (m_sec : Part.sec ∈ fr) (m_out : Part.out ∈ fr) : OnlyO fr s0 (execEscIsland src s) := by
  unfold Sys2Proof.Machine.execEscIsland
  with_reducible repeat' first
    | assumption | apply Only.beginAction | apply Only.actionDone | apply Only.raise | apply Only.add64
    | apply Only.startIsland | apply Only.listWaits | apply OnlyO.next | exact Or.inl rfl | exact Or.inr (by assumption)
    | apply OnlyMk.intro | simp only [onlyMk] | dsimp only | split | intro

theorem Only.execEscControl (src : Nat) (s : State) (hk : Only fr s0 s) (m_regs : Part.regs ∈ fr)
    (m_journal : Part.journal ∈ fr) (m_owed : Part.owed ∈ fr) (m_top : Part.top ∈ fr) (m_hif : Part.hif ∈ fr)
    (m_prg : Part.prg ∈ fr) (m_crier : Part.crier ∈ fr) (m_flt : Part.flt ∈ fr) (m_out : Part.out ∈ fr)
    : OnlyO fr s0 (execEscControl src s) := by
  unfold Sys2Proof.Machine.execEscControl
  with_reducible repeat' first
    | assumption | apply Only.beginAction | apply Only.actionDone | apply Only.controlStart | apply OnlyO.next
    | exact Or.inl rfl | exact Or.inr (by assumption) | apply OnlyMk.intro | simp only [onlyMk] | dsimp only | split | intro

theorem Only.execEscPortOff (src : Nat) (s : State) (hk : Only fr s0 s) (m_regs : Part.regs ∈ fr)
    (m_freeCtr : Part.freeCtr ∈ fr) (m_journal : Part.journal ∈ fr) (m_owed : Part.owed ∈ fr) (m_lastRaise : Part.lastRaise ∈ fr)
    (m_top : Part.top ∈ fr) (m_ports : Part.ports ∈ fr) (m_pipes : Part.pipes ∈ fr) (m_market : Part.market ∈ fr)
    (m_spill : Part.spill ∈ fr) (m_sched : Part.sched ∈ fr) (m_ainum : Part.ainum ∈ fr) (m_telem : Part.telem ∈ fr)
    (m_crier : Part.crier ∈ fr) (m_flt : Part.flt ∈ fr) (m_activity : Part.activity ∈ fr) (m_out : Part.out ∈ fr)
    : OnlyO fr s0 (execEscPortOff src s) := by
  unfold Sys2Proof.Machine.execEscPortOff
  with_reducible repeat' first
    | assumption | apply Only.beginAction | apply Only.writeDone | apply Only.holdWrite | apply Only.portDown
    | apply OnlyO.next | exact Or.inl rfl | exact Or.inr (by assumption) | apply OnlyMk.intro | simp only [onlyMk]
    | dsimp only | split | intro

theorem Only.execEscLoseStack (src : Nat) (s : State) (hk : Only fr s0 s) (m_regs : Part.regs ∈ fr)
    (m_freeCtr : Part.freeCtr ∈ fr) (m_journal : Part.journal ∈ fr) (m_owed : Part.owed ∈ fr) (m_lastRaise : Part.lastRaise ∈ fr)
    (m_market : Part.market ∈ fr) (m_spill : Part.spill ∈ fr) (m_sched : Part.sched ∈ fr) (m_telem : Part.telem ∈ fr)
    (m_crier : Part.crier ∈ fr) (m_flt : Part.flt ∈ fr) (m_activity : Part.activity ∈ fr) (m_out : Part.out ∈ fr)
    : OnlyO fr s0 (execEscLoseStack src s) := by
  unfold Sys2Proof.Machine.execEscLoseStack
  with_reducible repeat' first
    | assumption | apply Only.beginAction | apply Only.actionDone | apply Only.loseStack | apply OnlyO.next
    | exact Or.inl rfl | exact Or.inr (by assumption) | apply OnlyMk.intro | simp only [onlyMk] | dsimp only | split | intro

theorem Only.latchLow (s : State) (rq : Requester) (a : Nat) (hk : Only fr s0 s) (m_hif : Part.hif ∈ fr)
    : Only fr s0 (latchLow s rq a) := by
  unfold Sys2Proof.Machine.latchLow
  with_reducible repeat' first
    | assumption | apply Only.setLatch | exact Or.inl rfl | exact Or.inr (by assumption) | apply OnlyMk.intro
    | simp only [onlyMk] | dsimp only | split | intro

theorem Only.clearRc (s : State) (a : Nat) (hk : Only fr s0 s) (m_regs : Part.regs ∈ fr) : Only fr s0 (clearRc s a) := by
  unfold Sys2Proof.Machine.clearRc
  with_reducible repeat' first
    | assumption | apply Only.setReg | exact Or.inl rfl | exact Or.inr (by assumption) | apply OnlyMk.intro
    | simp only [onlyMk] | dsimp only | split | intro

theorem Only.readReg (s : State) (rq : Requester) (a : Nat) (hk : Only fr s0 s)
    (m_regs : Part.regs ∈ fr) (m_owed : Part.owed ∈ fr) (m_hif : Part.hif ∈ fr) (m_crier : Part.crier ∈ fr)
    (m_flt : Part.flt ∈ fr) (m_out : Part.out ∈ fr) : Only fr s0 (readReg s rq a).2 := by
  unfold Sys2Proof.Machine.readReg
  with_reducible repeat' first
    | assumption | apply Only.hifErr | apply Only.latchLow | apply Only.latchNow | apply Only.clearRc | split

theorem Only.readAt (rq : Requester) (a : Nat) (pair : Bool) (s : State) (hk : Only fr s0 s)
    (n_regs : Part.regs ∈ fr) (n_owed : Part.owed ∈ fr) (n_hif : Part.hif ∈ fr) (n_crier : Part.crier ∈ fr)
    (n_flt : Part.flt ∈ fr) (n_out : Part.out ∈ fr) : Only fr s0 (readAt rq a pair s) := by
  unfold Sys2Proof.Machine.readAt
  with_reducible repeat' first
    | assumption | apply Only.emit | apply Only.readReg | dsimp only | split

theorem Only.readEffect (s : State) (rq : Requester) (a : Nat) (pair : Bool) (hk : Only fr s0 s) (m_regs : Part.regs ∈ fr)
    (m_owed : Part.owed ∈ fr) (m_top : Part.top ∈ fr) (m_hif : Part.hif ∈ fr) (m_crier : Part.crier ∈ fr) (m_flt : Part.flt ∈ fr)
    (m_out : Part.out ∈ fr) : Only fr s0 (readEffect s rq a pair) := by
  unfold Sys2Proof.Machine.readEffect
  with_reducible repeat' first
    | assumption | apply Only.atCrossing | apply Only.readAt | exact Or.inl rfl | exact Or.inr (by assumption)
    | apply OnlyMk.intro | simp only [onlyMk] | dsimp only | split | intro

theorem Only.execRcCounterRead (addr : Nat) (s : State) (hk : Only fr s0 s) (m_regs : Part.regs ∈ fr)
    (m_owed : Part.owed ∈ fr) (m_top : Part.top ∈ fr) (m_hif : Part.hif ∈ fr) (m_crier : Part.crier ∈ fr) (m_flt : Part.flt ∈ fr)
    (m_out : Part.out ∈ fr) : OnlyO fr s0 (execRcCounterRead addr s) := by
  unfold Sys2Proof.Machine.execRcCounterRead
  with_reducible repeat' first
    | assumption | apply Only.readEffect | apply OnlyO.next | exact Or.inl rfl | exact Or.inr (by assumption)
    | apply OnlyMk.intro | simp only [onlyMk] | dsimp only | split | intro

theorem Only.execReg64LowWordRead (rq : Requester) (addr : Nat) (s : State) (hk : Only fr s0 s) (m_regs : Part.regs ∈ fr)
    (m_owed : Part.owed ∈ fr) (m_top : Part.top ∈ fr) (m_hif : Part.hif ∈ fr) (m_crier : Part.crier ∈ fr) (m_flt : Part.flt ∈ fr)
    (m_out : Part.out ∈ fr) : OnlyO fr s0 (execReg64LowWordRead rq addr s) := by
  unfold Sys2Proof.Machine.execReg64LowWordRead
  with_reducible repeat' first
    | assumption | apply Only.readEffect | apply OnlyO.next | exact Or.inl rfl | exact Or.inr (by assumption)
    | apply OnlyMk.intro | simp only [onlyMk] | dsimp only | split | intro

theorem Only.ringCfg (k : RingKind) (n : Nat) (v : Word) (s : State) (hk : Only fr s0 s) (m_regs : Part.regs ∈ fr)
    (m_owed : Part.owed ∈ fr) (m_lastRaise : Part.lastRaise ∈ fr) (m_hif : Part.hif ∈ fr) (m_crier : Part.crier ∈ fr)
    (m_flt : Part.flt ∈ fr) : Only fr s0 (ringCfg k n v s) := by
  unfold Sys2Proof.Machine.ringCfg
  with_reducible repeat' first
    | assumption | apply Only.rowState | apply Only.execRingEnable | apply Only.execRingDisable | exact Or.inl rfl
    | exact Or.inr (by assumption) | apply OnlyMk.intro | simp only [onlyMk] | dsimp only | split | intro

theorem Only.movePart (n old new : Nat) (s : State) (hk : Only fr s0 s) (m_regs : Part.regs ∈ fr)
    : Only fr s0 (movePart n old new s) := by
  unfold Sys2Proof.Machine.movePart
  with_reducible repeat' first
    | assumption | apply Only.addF21 | exact Or.inl rfl | exact Or.inr (by assumption) | apply OnlyMk.intro
    | simp only [onlyMk] | dsimp only | split | intro

theorem Only.judgeVec (s : State) (v : Nat) (hk : Only fr s0 s) (m_crier : Part.crier ∈ fr) : Only fr s0 (judgeVec s v) := by
  unfold Sys2Proof.Machine.judgeVec
  with_reducible repeat' first
    | assumption | exact Or.inl rfl | exact Or.inr (by assumption) | apply OnlyMk.intro | simp only [onlyMk] | dsimp only
    | split | intro

theorem Only.afterWrite (a : Nat) (old v : Word) (s : State) (hk : Only fr s0 s) (m_regs : Part.regs ∈ fr)
    (m_journal : Part.journal ∈ fr) (m_owed : Part.owed ∈ fr) (m_lastRaise : Part.lastRaise ∈ fr) (m_top : Part.top ∈ fr)
    (m_hif : Part.hif ∈ fr) (m_prg : Part.prg ∈ fr) (m_sched : Part.sched ∈ fr) (m_ainum : Part.ainum ∈ fr)
    (m_telem : Part.telem ∈ fr) (m_crier : Part.crier ∈ fr) (m_flt : Part.flt ∈ fr) (m_scales : Part.scales ∈ fr)
    (m_sec : Part.sec ∈ fr) (m_out : Part.out ∈ fr) : Only fr s0 (afterWrite a old v s) := by
  unfold Sys2Proof.Machine.afterWrite
  with_reducible repeat' first
    | assumption | apply Only.rowState | apply Only.execMailboxGo | apply Only.execOrphanLogClear | apply Only.judgeVec
    | apply Only.forEach | apply Only.setReg | apply Only.whenB | apply Only.clearPhases | apply Only.syncModelOnly
    | apply Only.execTokenGo | apply Only.setPolicy | apply Only.laneLine | apply Only.setBit | apply Only.execParCaptureArm
    | apply Only.movePart | apply Only.updXoff | apply Only.splCfgBad | apply Only.noteClash | apply Only.execFlowFlush
    | apply Only.ctxPoll | apply Only.foldl | apply Only.foldl1 | exact Or.inl rfl | exact Or.inr (by assumption)
    | apply OnlyMk.intro | simp only [onlyMk] | dsimp only | split | intro

theorem Only.noteRefused (b : Blk) (r : RegRow) (v : Word) (s : State) (hk : Only fr s0 s) (m_regs : Part.regs ∈ fr)
    (m_owed : Part.owed ∈ fr) (m_crier : Part.crier ∈ fr) (m_flt : Part.flt ∈ fr) : Only fr s0 (noteRefused b r v s) := by
  unfold Sys2Proof.Machine.noteRefused
  with_reducible repeat' first
    | assumption | apply Only.sclBad | apply Only.raise | apply Only.setBit | exact Or.inl rfl | exact Or.inr (by assumption)
    | apply OnlyMk.intro | simp only [onlyMk] | dsimp only | split | intro

theorem Only.plainWrite (a : Nat) (v : Word) (s : State) (hk : Only fr s0 s) (m_regs : Part.regs ∈ fr)
    (m_journal : Part.journal ∈ fr) (m_owed : Part.owed ∈ fr) (m_lastRaise : Part.lastRaise ∈ fr) (m_top : Part.top ∈ fr)
    (m_hif : Part.hif ∈ fr) (m_prg : Part.prg ∈ fr) (m_sched : Part.sched ∈ fr) (m_ainum : Part.ainum ∈ fr)
    (m_telem : Part.telem ∈ fr) (m_crier : Part.crier ∈ fr) (m_flt : Part.flt ∈ fr) (m_scales : Part.scales ∈ fr)
    (m_sec : Part.sec ∈ fr) (m_out : Part.out ∈ fr) : Only fr s0 (plainWrite a v s) := by
  unfold Sys2Proof.Machine.plainWrite
  with_reducible repeat' first
    | assumption | apply Only.noteRefused | apply Only.setReg | apply Only.afterWrite | exact Or.inl rfl
    | exact Or.inr (by assumption) | apply OnlyMk.intro | simp only [onlyMk] | dsimp only | split | intro

theorem Only.dropLow (s : State) (rq : Requester) (a : Nat) (hk : Only fr s0 s) (m_hif : Part.hif ∈ fr)
    : Only fr s0 (dropLow s rq a) := by
  unfold Sys2Proof.Machine.dropLow
  with_reducible repeat' first
    | assumption | exact Or.inl rfl | exact Or.inr (by assumption) | apply OnlyMk.intro | simp only [onlyMk] | dsimp only
    | split | intro

theorem Only.holdLow (s : State) (rq : Requester) (a : Nat) (v : Word) (hk : Only fr s0 s) (m_hif : Part.hif ∈ fr)
    : Only fr s0 (holdLow s rq a v) := by
  unfold Sys2Proof.Machine.holdLow
  with_reducible repeat' first
    | assumption | apply Only.dropLow | exact Or.inl rfl | exact Or.inr (by assumption) | apply OnlyMk.intro
    | simp only [onlyMk] | dsimp only | split | intro

theorem Only.applyWide (a : Nat) (lo hi : Word) (s : State) (hk : Only fr s0 s) (m_regs : Part.regs ∈ fr)
    (m_journal : Part.journal ∈ fr) (m_owed : Part.owed ∈ fr) (m_lastRaise : Part.lastRaise ∈ fr) (m_top : Part.top ∈ fr)
    (m_hif : Part.hif ∈ fr) (m_prg : Part.prg ∈ fr) (m_sched : Part.sched ∈ fr) (m_ainum : Part.ainum ∈ fr)
    (m_telem : Part.telem ∈ fr) (m_crier : Part.crier ∈ fr) (m_flt : Part.flt ∈ fr) (m_scales : Part.scales ∈ fr)
    (m_sec : Part.sec ∈ fr) (m_out : Part.out ∈ fr) : Only fr s0 (applyWide a lo hi s) := by
  unfold Sys2Proof.Machine.applyWide
  with_reducible repeat' first
    | assumption | apply Only.rowState | apply Only.execActionsWrite | apply Only.plainWrite | exact Or.inl rfl
    | exact Or.inr (by assumption) | apply OnlyMk.intro | simp only [onlyMk] | dsimp only | split | intro

theorem Only.wideWrite (s : State) (a : Nat) (lo : Option Word) (hi : Word) (hk : Only fr s0 s) (m_regs : Part.regs ∈ fr)
    (m_journal : Part.journal ∈ fr) (m_owed : Part.owed ∈ fr) (m_lastRaise : Part.lastRaise ∈ fr) (m_top : Part.top ∈ fr)
    (m_hif : Part.hif ∈ fr) (m_prg : Part.prg ∈ fr) (m_sched : Part.sched ∈ fr) (m_ainum : Part.ainum ∈ fr)
    (m_telem : Part.telem ∈ fr) (m_crier : Part.crier ∈ fr) (m_flt : Part.flt ∈ fr) (m_scales : Part.scales ∈ fr)
    (m_sec : Part.sec ∈ fr) (m_out : Part.out ∈ fr) : Only fr s0 (wideWrite s a lo hi) := by
  unfold Sys2Proof.Machine.wideWrite
  with_reducible repeat' first
    | assumption | apply Only.atCrossing | apply Only.applyWide | exact Or.inl rfl | exact Or.inr (by assumption)
    | apply OnlyMk.intro | simp only [onlyMk] | dsimp only | split | intro

theorem Only.writeHigh (s : State) (rq : Requester) (a : Nat) (v : Word) (hk : Only fr s0 s) (m_regs : Part.regs ∈ fr)
    (m_journal : Part.journal ∈ fr) (m_owed : Part.owed ∈ fr) (m_lastRaise : Part.lastRaise ∈ fr) (m_top : Part.top ∈ fr)
    (m_hif : Part.hif ∈ fr) (m_prg : Part.prg ∈ fr) (m_sched : Part.sched ∈ fr) (m_ainum : Part.ainum ∈ fr)
    (m_telem : Part.telem ∈ fr) (m_crier : Part.crier ∈ fr) (m_flt : Part.flt ∈ fr) (m_scales : Part.scales ∈ fr)
    (m_sec : Part.sec ∈ fr) (m_out : Part.out ∈ fr) : Only fr s0 (writeHigh s rq a v) := by
  unfold Sys2Proof.Machine.writeHigh
  with_reducible repeat' first
    | assumption | apply Only.wideWrite | apply Only.dropLow | exact Or.inl rfl | exact Or.inr (by assumption)
    | apply OnlyMk.intro | simp only [onlyMk] | dsimp only | split | intro

theorem Only.execReg64LowWordWrite (rq : Requester) (addr : Nat) (value : Word) (s : State) (hk : Only fr s0 s)
    (m_hif : Part.hif ∈ fr) : OnlyO fr s0 (execReg64LowWordWrite rq addr value s) := by
  unfold Sys2Proof.Machine.execReg64LowWordWrite
  with_reducible repeat' first
    | assumption | apply Only.holdLow | apply OnlyO.next | exact Or.inl rfl | exact Or.inr (by assumption)
    | apply OnlyMk.intro | simp only [onlyMk] | dsimp only | split | intro

theorem Only.execReg64HighWordWrite (rq : Requester) (addr : Nat) (value : Word) (s : State) (hk : Only fr s0 s)
    (m_regs : Part.regs ∈ fr) (m_journal : Part.journal ∈ fr) (m_owed : Part.owed ∈ fr) (m_lastRaise : Part.lastRaise ∈ fr)
    (m_top : Part.top ∈ fr) (m_hif : Part.hif ∈ fr) (m_prg : Part.prg ∈ fr) (m_sched : Part.sched ∈ fr)
    (m_ainum : Part.ainum ∈ fr) (m_telem : Part.telem ∈ fr) (m_crier : Part.crier ∈ fr) (m_flt : Part.flt ∈ fr)
    (m_scales : Part.scales ∈ fr) (m_sec : Part.sec ∈ fr) (m_out : Part.out ∈ fr)
    : OnlyO fr s0 (execReg64HighWordWrite rq addr value s) := by
  unfold Sys2Proof.Machine.execReg64HighWordWrite
  with_reducible repeat' first
    | assumption | apply Only.writeHigh | apply OnlyO.next | exact Or.inl rfl | exact Or.inr (by assumption)
    | apply OnlyMk.intro | simp only [onlyMk] | dsimp only | split | intro

end Sys2Proof.Laws
end

