-- ==== Sys2Proof/Laws/State.lean ====
section
/-!
SUPPORT. What the named updates of the state leave alone: one lemma for each update and each part that it does not write.
-/
namespace Sys2Proof.Laws

open Sys2Proof.Machine

@[simp] theorem setReg_pending (s : State) (a : Nat) (v : Word) : (setReg s a v).pending = s.pending := rfl
@[simp] theorem setReg_prog (s : State) (a : Nat) (v : Word) : (setReg s a v).prog = s.prog := rfl
@[simp] theorem setReg_clock (s : State) (a : Nat) (v : Word) : (setReg s a v).clock = s.clock := rfl
@[simp] theorem setReg_elapsed (s : State) (a : Nat) (v : Word) : (setReg s a v).elapsed = s.elapsed := rfl
@[simp] theorem setReg_freeCtr (s : State) (a : Nat) (v : Word) : (setReg s a v).freeCtr = s.freeCtr := rfl
@[simp] theorem setReg_journal (s : State) (a : Nat) (v : Word) : (setReg s a v).journal = s.journal := rfl
@[simp] theorem setReg_owed (s : State) (a : Nat) (v : Word) : (setReg s a v).owed = s.owed := rfl
@[simp] theorem setReg_lastRaise (s : State) (a : Nat) (v : Word) : (setReg s a v).lastRaise = s.lastRaise := rfl
@[simp] theorem setReg_top (s : State) (a : Nat) (v : Word) : (setReg s a v).top = s.top := rfl
@[simp] theorem setReg_hif (s : State) (a : Nat) (v : Word) : (setReg s a v).hif = s.hif := rfl
@[simp] theorem setReg_prg (s : State) (a : Nat) (v : Word) : (setReg s a v).prg = s.prg := rfl
@[simp] theorem setReg_ports (s : State) (a : Nat) (v : Word) : (setReg s a v).ports = s.ports := rfl
@[simp] theorem setReg_pipes (s : State) (a : Nat) (v : Word) : (setReg s a v).pipes = s.pipes := rfl
@[simp] theorem setReg_tables (s : State) (a : Nat) (v : Word) : (setReg s a v).tables = s.tables := rfl
@[simp] theorem setReg_clerk (s : State) (a : Nat) (v : Word) : (setReg s a v).clerk = s.clerk := rfl
@[simp] theorem setReg_market (s : State) (a : Nat) (v : Word) : (setReg s a v).market = s.market := rfl
@[simp] theorem setReg_spill (s : State) (a : Nat) (v : Word) : (setReg s a v).spill = s.spill := rfl
@[simp] theorem setReg_sched (s : State) (a : Nat) (v : Word) : (setReg s a v).sched = s.sched := rfl
@[simp] theorem setReg_slots (s : State) (a : Nat) (v : Word) : (setReg s a v).slots = s.slots := rfl
@[simp] theorem setReg_pulses (s : State) (a : Nat) (v : Word) : (setReg s a v).pulses = s.pulses := rfl
@[simp] theorem setReg_ainum (s : State) (a : Nat) (v : Word) : (setReg s a v).ainum = s.ainum := rfl
@[simp] theorem setReg_telem (s : State) (a : Nat) (v : Word) : (setReg s a v).telem = s.telem := rfl
@[simp] theorem setReg_crier (s : State) (a : Nat) (v : Word) : (setReg s a v).crier = s.crier := rfl
@[simp] theorem setReg_flt (s : State) (a : Nat) (v : Word) : (setReg s a v).flt = s.flt := rfl
@[simp] theorem setReg_scales (s : State) (a : Nat) (v : Word) : (setReg s a v).scales = s.scales := rfl
@[simp] theorem setReg_activity (s : State) (a : Nat) (v : Word) : (setReg s a v).activity = s.activity := rfl
@[simp] theorem setReg_bays (s : State) (a : Nat) (v : Word) : (setReg s a v).bays = s.bays := rfl
@[simp] theorem setReg_sec (s : State) (a : Nat) (v : Word) : (setReg s a v).sec = s.sec := rfl
@[simp] theorem setReg_out (s : State) (a : Nat) (v : Word) : (setReg s a v).out = s.out := rfl

@[simp] theorem setF_pending (s : State) (a hi lo v : Nat) : (setF s a hi lo v).pending = s.pending := rfl
@[simp] theorem setF_prog (s : State) (a hi lo v : Nat) : (setF s a hi lo v).prog = s.prog := rfl
@[simp] theorem setF_clock (s : State) (a hi lo v : Nat) : (setF s a hi lo v).clock = s.clock := rfl
@[simp] theorem setF_elapsed (s : State) (a hi lo v : Nat) : (setF s a hi lo v).elapsed = s.elapsed := rfl
@[simp] theorem setF_freeCtr (s : State) (a hi lo v : Nat) : (setF s a hi lo v).freeCtr = s.freeCtr := rfl
@[simp] theorem setF_journal (s : State) (a hi lo v : Nat) : (setF s a hi lo v).journal = s.journal := rfl
@[simp] theorem setF_owed (s : State) (a hi lo v : Nat) : (setF s a hi lo v).owed = s.owed := rfl
@[simp] theorem setF_lastRaise (s : State) (a hi lo v : Nat) : (setF s a hi lo v).lastRaise = s.lastRaise := rfl
@[simp] theorem setF_top (s : State) (a hi lo v : Nat) : (setF s a hi lo v).top = s.top := rfl
@[simp] theorem setF_hif (s : State) (a hi lo v : Nat) : (setF s a hi lo v).hif = s.hif := rfl
@[simp] theorem setF_prg (s : State) (a hi lo v : Nat) : (setF s a hi lo v).prg = s.prg := rfl
@[simp] theorem setF_ports (s : State) (a hi lo v : Nat) : (setF s a hi lo v).ports = s.ports := rfl
@[simp] theorem setF_pipes (s : State) (a hi lo v : Nat) : (setF s a hi lo v).pipes = s.pipes := rfl
@[simp] theorem setF_tables (s : State) (a hi lo v : Nat) : (setF s a hi lo v).tables = s.tables := rfl
@[simp] theorem setF_clerk (s : State) (a hi lo v : Nat) : (setF s a hi lo v).clerk = s.clerk := rfl
@[simp] theorem setF_market (s : State) (a hi lo v : Nat) : (setF s a hi lo v).market = s.market := rfl
@[simp] theorem setF_spill (s : State) (a hi lo v : Nat) : (setF s a hi lo v).spill = s.spill := rfl
@[simp] theorem setF_sched (s : State) (a hi lo v : Nat) : (setF s a hi lo v).sched = s.sched := rfl
@[simp] theorem setF_slots (s : State) (a hi lo v : Nat) : (setF s a hi lo v).slots = s.slots := rfl
@[simp] theorem setF_pulses (s : State) (a hi lo v : Nat) : (setF s a hi lo v).pulses = s.pulses := rfl
@[simp] theorem setF_ainum (s : State) (a hi lo v : Nat) : (setF s a hi lo v).ainum = s.ainum := rfl
@[simp] theorem setF_telem (s : State) (a hi lo v : Nat) : (setF s a hi lo v).telem = s.telem := rfl
@[simp] theorem setF_crier (s : State) (a hi lo v : Nat) : (setF s a hi lo v).crier = s.crier := rfl
@[simp] theorem setF_flt (s : State) (a hi lo v : Nat) : (setF s a hi lo v).flt = s.flt := rfl
@[simp] theorem setF_scales (s : State) (a hi lo v : Nat) : (setF s a hi lo v).scales = s.scales := rfl
@[simp] theorem setF_activity (s : State) (a hi lo v : Nat) : (setF s a hi lo v).activity = s.activity := rfl
@[simp] theorem setF_bays (s : State) (a hi lo v : Nat) : (setF s a hi lo v).bays = s.bays := rfl
@[simp] theorem setF_sec (s : State) (a hi lo v : Nat) : (setF s a hi lo v).sec = s.sec := rfl
@[simp] theorem setF_out (s : State) (a hi lo v : Nat) : (setF s a hi lo v).out = s.out := rfl

@[simp] theorem setBit_pending (s : State) (a i : Nat) (b : Bool) : (setBit s a i b).pending = s.pending := rfl
@[simp] theorem setBit_prog (s : State) (a i : Nat) (b : Bool) : (setBit s a i b).prog = s.prog := rfl
@[simp] theorem setBit_clock (s : State) (a i : Nat) (b : Bool) : (setBit s a i b).clock = s.clock := rfl
@[simp] theorem setBit_elapsed (s : State) (a i : Nat) (b : Bool) : (setBit s a i b).elapsed = s.elapsed := rfl
@[simp] theorem setBit_freeCtr (s : State) (a i : Nat) (b : Bool) : (setBit s a i b).freeCtr = s.freeCtr := rfl
@[simp] theorem setBit_journal (s : State) (a i : Nat) (b : Bool) : (setBit s a i b).journal = s.journal := rfl
@[simp] theorem setBit_owed (s : State) (a i : Nat) (b : Bool) : (setBit s a i b).owed = s.owed := rfl
@[simp] theorem setBit_lastRaise (s : State) (a i : Nat) (b : Bool) : (setBit s a i b).lastRaise = s.lastRaise := rfl
@[simp] theorem setBit_top (s : State) (a i : Nat) (b : Bool) : (setBit s a i b).top = s.top := rfl
@[simp] theorem setBit_hif (s : State) (a i : Nat) (b : Bool) : (setBit s a i b).hif = s.hif := rfl
@[simp] theorem setBit_prg (s : State) (a i : Nat) (b : Bool) : (setBit s a i b).prg = s.prg := rfl
@[simp] theorem setBit_ports (s : State) (a i : Nat) (b : Bool) : (setBit s a i b).ports = s.ports := rfl
@[simp] theorem setBit_pipes (s : State) (a i : Nat) (b : Bool) : (setBit s a i b).pipes = s.pipes := rfl
@[simp] theorem setBit_tables (s : State) (a i : Nat) (b : Bool) : (setBit s a i b).tables = s.tables := rfl
@[simp] theorem setBit_clerk (s : State) (a i : Nat) (b : Bool) : (setBit s a i b).clerk = s.clerk := rfl
@[simp] theorem setBit_market (s : State) (a i : Nat) (b : Bool) : (setBit s a i b).market = s.market := rfl
@[simp] theorem setBit_spill (s : State) (a i : Nat) (b : Bool) : (setBit s a i b).spill = s.spill := rfl
@[simp] theorem setBit_sched (s : State) (a i : Nat) (b : Bool) : (setBit s a i b).sched = s.sched := rfl
@[simp] theorem setBit_slots (s : State) (a i : Nat) (b : Bool) : (setBit s a i b).slots = s.slots := rfl
@[simp] theorem setBit_pulses (s : State) (a i : Nat) (b : Bool) : (setBit s a i b).pulses = s.pulses := rfl
@[simp] theorem setBit_ainum (s : State) (a i : Nat) (b : Bool) : (setBit s a i b).ainum = s.ainum := rfl
@[simp] theorem setBit_telem (s : State) (a i : Nat) (b : Bool) : (setBit s a i b).telem = s.telem := rfl
@[simp] theorem setBit_crier (s : State) (a i : Nat) (b : Bool) : (setBit s a i b).crier = s.crier := rfl
@[simp] theorem setBit_flt (s : State) (a i : Nat) (b : Bool) : (setBit s a i b).flt = s.flt := rfl
@[simp] theorem setBit_scales (s : State) (a i : Nat) (b : Bool) : (setBit s a i b).scales = s.scales := rfl
@[simp] theorem setBit_activity (s : State) (a i : Nat) (b : Bool) : (setBit s a i b).activity = s.activity := rfl
@[simp] theorem setBit_bays (s : State) (a i : Nat) (b : Bool) : (setBit s a i b).bays = s.bays := rfl
@[simp] theorem setBit_sec (s : State) (a i : Nat) (b : Bool) : (setBit s a i b).sec = s.sec := rfl
@[simp] theorem setBit_out (s : State) (a i : Nat) (b : Bool) : (setBit s a i b).out = s.out := rfl

@[simp] theorem setReg64_pending (s : State) (a v : Nat) : (setReg64 s a v).pending = s.pending := rfl
@[simp] theorem setReg64_prog (s : State) (a v : Nat) : (setReg64 s a v).prog = s.prog := rfl
@[simp] theorem setReg64_clock (s : State) (a v : Nat) : (setReg64 s a v).clock = s.clock := rfl
@[simp] theorem setReg64_elapsed (s : State) (a v : Nat) : (setReg64 s a v).elapsed = s.elapsed := rfl
@[simp] theorem setReg64_freeCtr (s : State) (a v : Nat) : (setReg64 s a v).freeCtr = s.freeCtr := rfl
@[simp] theorem setReg64_journal (s : State) (a v : Nat) : (setReg64 s a v).journal = s.journal := rfl
@[simp] theorem setReg64_owed (s : State) (a v : Nat) : (setReg64 s a v).owed = s.owed := rfl
@[simp] theorem setReg64_lastRaise (s : State) (a v : Nat) : (setReg64 s a v).lastRaise = s.lastRaise := rfl
@[simp] theorem setReg64_top (s : State) (a v : Nat) : (setReg64 s a v).top = s.top := rfl
@[simp] theorem setReg64_hif (s : State) (a v : Nat) : (setReg64 s a v).hif = s.hif := rfl
@[simp] theorem setReg64_prg (s : State) (a v : Nat) : (setReg64 s a v).prg = s.prg := rfl
@[simp] theorem setReg64_ports (s : State) (a v : Nat) : (setReg64 s a v).ports = s.ports := rfl
@[simp] theorem setReg64_pipes (s : State) (a v : Nat) : (setReg64 s a v).pipes = s.pipes := rfl
@[simp] theorem setReg64_tables (s : State) (a v : Nat) : (setReg64 s a v).tables = s.tables := rfl
@[simp] theorem setReg64_clerk (s : State) (a v : Nat) : (setReg64 s a v).clerk = s.clerk := rfl
@[simp] theorem setReg64_market (s : State) (a v : Nat) : (setReg64 s a v).market = s.market := rfl
@[simp] theorem setReg64_spill (s : State) (a v : Nat) : (setReg64 s a v).spill = s.spill := rfl
@[simp] theorem setReg64_sched (s : State) (a v : Nat) : (setReg64 s a v).sched = s.sched := rfl
@[simp] theorem setReg64_slots (s : State) (a v : Nat) : (setReg64 s a v).slots = s.slots := rfl
@[simp] theorem setReg64_pulses (s : State) (a v : Nat) : (setReg64 s a v).pulses = s.pulses := rfl
@[simp] theorem setReg64_ainum (s : State) (a v : Nat) : (setReg64 s a v).ainum = s.ainum := rfl
@[simp] theorem setReg64_telem (s : State) (a v : Nat) : (setReg64 s a v).telem = s.telem := rfl
@[simp] theorem setReg64_crier (s : State) (a v : Nat) : (setReg64 s a v).crier = s.crier := rfl
@[simp] theorem setReg64_flt (s : State) (a v : Nat) : (setReg64 s a v).flt = s.flt := rfl
@[simp] theorem setReg64_scales (s : State) (a v : Nat) : (setReg64 s a v).scales = s.scales := rfl
@[simp] theorem setReg64_activity (s : State) (a v : Nat) : (setReg64 s a v).activity = s.activity := rfl
@[simp] theorem setReg64_bays (s : State) (a v : Nat) : (setReg64 s a v).bays = s.bays := rfl
@[simp] theorem setReg64_sec (s : State) (a v : Nat) : (setReg64 s a v).sec = s.sec := rfl
@[simp] theorem setReg64_out (s : State) (a v : Nat) : (setReg64 s a v).out = s.out := rfl

@[simp] theorem add64_pending (s : State) (a n : Nat) : (add64 s a n).pending = s.pending := rfl
@[simp] theorem add64_prog (s : State) (a n : Nat) : (add64 s a n).prog = s.prog := rfl
@[simp] theorem add64_clock (s : State) (a n : Nat) : (add64 s a n).clock = s.clock := rfl
@[simp] theorem add64_elapsed (s : State) (a n : Nat) : (add64 s a n).elapsed = s.elapsed := rfl
@[simp] theorem add64_freeCtr (s : State) (a n : Nat) : (add64 s a n).freeCtr = s.freeCtr := rfl
@[simp] theorem add64_journal (s : State) (a n : Nat) : (add64 s a n).journal = s.journal := rfl
@[simp] theorem add64_owed (s : State) (a n : Nat) : (add64 s a n).owed = s.owed := rfl
@[simp] theorem add64_lastRaise (s : State) (a n : Nat) : (add64 s a n).lastRaise = s.lastRaise := rfl
@[simp] theorem add64_top (s : State) (a n : Nat) : (add64 s a n).top = s.top := rfl
@[simp] theorem add64_hif (s : State) (a n : Nat) : (add64 s a n).hif = s.hif := rfl
@[simp] theorem add64_prg (s : State) (a n : Nat) : (add64 s a n).prg = s.prg := rfl
@[simp] theorem add64_ports (s : State) (a n : Nat) : (add64 s a n).ports = s.ports := rfl
@[simp] theorem add64_pipes (s : State) (a n : Nat) : (add64 s a n).pipes = s.pipes := rfl
@[simp] theorem add64_tables (s : State) (a n : Nat) : (add64 s a n).tables = s.tables := rfl
@[simp] theorem add64_clerk (s : State) (a n : Nat) : (add64 s a n).clerk = s.clerk := rfl
@[simp] theorem add64_market (s : State) (a n : Nat) : (add64 s a n).market = s.market := rfl
@[simp] theorem add64_spill (s : State) (a n : Nat) : (add64 s a n).spill = s.spill := rfl
@[simp] theorem add64_sched (s : State) (a n : Nat) : (add64 s a n).sched = s.sched := rfl
@[simp] theorem add64_slots (s : State) (a n : Nat) : (add64 s a n).slots = s.slots := rfl
@[simp] theorem add64_pulses (s : State) (a n : Nat) : (add64 s a n).pulses = s.pulses := rfl
@[simp] theorem add64_ainum (s : State) (a n : Nat) : (add64 s a n).ainum = s.ainum := rfl
@[simp] theorem add64_telem (s : State) (a n : Nat) : (add64 s a n).telem = s.telem := rfl
@[simp] theorem add64_crier (s : State) (a n : Nat) : (add64 s a n).crier = s.crier := rfl
@[simp] theorem add64_flt (s : State) (a n : Nat) : (add64 s a n).flt = s.flt := rfl
@[simp] theorem add64_scales (s : State) (a n : Nat) : (add64 s a n).scales = s.scales := rfl
@[simp] theorem add64_activity (s : State) (a n : Nat) : (add64 s a n).activity = s.activity := rfl
@[simp] theorem add64_bays (s : State) (a n : Nat) : (add64 s a n).bays = s.bays := rfl
@[simp] theorem add64_sec (s : State) (a n : Nat) : (add64 s a n).sec = s.sec := rfl
@[simp] theorem add64_out (s : State) (a n : Nat) : (add64 s a n).out = s.out := rfl

@[simp] theorem satF_pending (s : State) (a hi lo n : Nat) : (satF s a hi lo n).pending = s.pending := rfl
@[simp] theorem satF_prog (s : State) (a hi lo n : Nat) : (satF s a hi lo n).prog = s.prog := rfl
@[simp] theorem satF_clock (s : State) (a hi lo n : Nat) : (satF s a hi lo n).clock = s.clock := rfl
@[simp] theorem satF_elapsed (s : State) (a hi lo n : Nat) : (satF s a hi lo n).elapsed = s.elapsed := rfl
@[simp] theorem satF_freeCtr (s : State) (a hi lo n : Nat) : (satF s a hi lo n).freeCtr = s.freeCtr := rfl
@[simp] theorem satF_journal (s : State) (a hi lo n : Nat) : (satF s a hi lo n).journal = s.journal := rfl
@[simp] theorem satF_owed (s : State) (a hi lo n : Nat) : (satF s a hi lo n).owed = s.owed := rfl
@[simp] theorem satF_lastRaise (s : State) (a hi lo n : Nat) : (satF s a hi lo n).lastRaise = s.lastRaise := rfl
@[simp] theorem satF_top (s : State) (a hi lo n : Nat) : (satF s a hi lo n).top = s.top := rfl
@[simp] theorem satF_hif (s : State) (a hi lo n : Nat) : (satF s a hi lo n).hif = s.hif := rfl
@[simp] theorem satF_prg (s : State) (a hi lo n : Nat) : (satF s a hi lo n).prg = s.prg := rfl
@[simp] theorem satF_ports (s : State) (a hi lo n : Nat) : (satF s a hi lo n).ports = s.ports := rfl
@[simp] theorem satF_pipes (s : State) (a hi lo n : Nat) : (satF s a hi lo n).pipes = s.pipes := rfl
@[simp] theorem satF_tables (s : State) (a hi lo n : Nat) : (satF s a hi lo n).tables = s.tables := rfl
@[simp] theorem satF_clerk (s : State) (a hi lo n : Nat) : (satF s a hi lo n).clerk = s.clerk := rfl
@[simp] theorem satF_market (s : State) (a hi lo n : Nat) : (satF s a hi lo n).market = s.market := rfl
@[simp] theorem satF_spill (s : State) (a hi lo n : Nat) : (satF s a hi lo n).spill = s.spill := rfl
@[simp] theorem satF_sched (s : State) (a hi lo n : Nat) : (satF s a hi lo n).sched = s.sched := rfl
@[simp] theorem satF_slots (s : State) (a hi lo n : Nat) : (satF s a hi lo n).slots = s.slots := rfl
@[simp] theorem satF_pulses (s : State) (a hi lo n : Nat) : (satF s a hi lo n).pulses = s.pulses := rfl
@[simp] theorem satF_ainum (s : State) (a hi lo n : Nat) : (satF s a hi lo n).ainum = s.ainum := rfl
@[simp] theorem satF_telem (s : State) (a hi lo n : Nat) : (satF s a hi lo n).telem = s.telem := rfl
@[simp] theorem satF_crier (s : State) (a hi lo n : Nat) : (satF s a hi lo n).crier = s.crier := rfl
@[simp] theorem satF_flt (s : State) (a hi lo n : Nat) : (satF s a hi lo n).flt = s.flt := rfl
@[simp] theorem satF_scales (s : State) (a hi lo n : Nat) : (satF s a hi lo n).scales = s.scales := rfl
@[simp] theorem satF_activity (s : State) (a hi lo n : Nat) : (satF s a hi lo n).activity = s.activity := rfl
@[simp] theorem satF_bays (s : State) (a hi lo n : Nat) : (satF s a hi lo n).bays = s.bays := rfl
@[simp] theorem satF_sec (s : State) (a hi lo n : Nat) : (satF s a hi lo n).sec = s.sec := rfl
@[simp] theorem satF_out (s : State) (a hi lo n : Nat) : (satF s a hi lo n).out = s.out := rfl

@[simp] theorem drawn_pending (s : State) : (drawn s).pending = s.pending := rfl
@[simp] theorem drawn_regs (s : State) : (drawn s).regs = s.regs := rfl
@[simp] theorem drawn_prog (s : State) : (drawn s).prog = s.prog := rfl
@[simp] theorem drawn_clock (s : State) : (drawn s).clock = s.clock := rfl
@[simp] theorem drawn_elapsed (s : State) : (drawn s).elapsed = s.elapsed := rfl
@[simp] theorem drawn_journal (s : State) : (drawn s).journal = s.journal := rfl
@[simp] theorem drawn_owed (s : State) : (drawn s).owed = s.owed := rfl
@[simp] theorem drawn_lastRaise (s : State) : (drawn s).lastRaise = s.lastRaise := rfl
@[simp] theorem drawn_top (s : State) : (drawn s).top = s.top := rfl
@[simp] theorem drawn_hif (s : State) : (drawn s).hif = s.hif := rfl
@[simp] theorem drawn_prg (s : State) : (drawn s).prg = s.prg := rfl
@[simp] theorem drawn_ports (s : State) : (drawn s).ports = s.ports := rfl
@[simp] theorem drawn_pipes (s : State) : (drawn s).pipes = s.pipes := rfl
@[simp] theorem drawn_tables (s : State) : (drawn s).tables = s.tables := rfl
@[simp] theorem drawn_clerk (s : State) : (drawn s).clerk = s.clerk := rfl
@[simp] theorem drawn_market (s : State) : (drawn s).market = s.market := rfl
@[simp] theorem drawn_spill (s : State) : (drawn s).spill = s.spill := rfl
@[simp] theorem drawn_sched (s : State) : (drawn s).sched = s.sched := rfl
@[simp] theorem drawn_slots (s : State) : (drawn s).slots = s.slots := rfl
@[simp] theorem drawn_pulses (s : State) : (drawn s).pulses = s.pulses := rfl
@[simp] theorem drawn_ainum (s : State) : (drawn s).ainum = s.ainum := rfl
@[simp] theorem drawn_telem (s : State) : (drawn s).telem = s.telem := rfl
@[simp] theorem drawn_crier (s : State) : (drawn s).crier = s.crier := rfl
@[simp] theorem drawn_flt (s : State) : (drawn s).flt = s.flt := rfl
@[simp] theorem drawn_scales (s : State) : (drawn s).scales = s.scales := rfl
@[simp] theorem drawn_activity (s : State) : (drawn s).activity = s.activity := rfl
@[simp] theorem drawn_bays (s : State) : (drawn s).bays = s.bays := rfl
@[simp] theorem drawn_sec (s : State) : (drawn s).sec = s.sec := rfl
@[simp] theorem drawn_out (s : State) : (drawn s).out = s.out := rfl

@[simp] theorem emit_pending (s : State) (o : Output) : (emit s o).pending = s.pending := rfl
@[simp] theorem emit_regs (s : State) (o : Output) : (emit s o).regs = s.regs := rfl
@[simp] theorem emit_prog (s : State) (o : Output) : (emit s o).prog = s.prog := rfl
@[simp] theorem emit_clock (s : State) (o : Output) : (emit s o).clock = s.clock := rfl
@[simp] theorem emit_elapsed (s : State) (o : Output) : (emit s o).elapsed = s.elapsed := rfl
@[simp] theorem emit_freeCtr (s : State) (o : Output) : (emit s o).freeCtr = s.freeCtr := rfl
@[simp] theorem emit_journal (s : State) (o : Output) : (emit s o).journal = s.journal := rfl
@[simp] theorem emit_owed (s : State) (o : Output) : (emit s o).owed = s.owed := rfl
@[simp] theorem emit_lastRaise (s : State) (o : Output) : (emit s o).lastRaise = s.lastRaise := rfl
@[simp] theorem emit_top (s : State) (o : Output) : (emit s o).top = s.top := rfl
@[simp] theorem emit_hif (s : State) (o : Output) : (emit s o).hif = s.hif := rfl
@[simp] theorem emit_prg (s : State) (o : Output) : (emit s o).prg = s.prg := rfl
@[simp] theorem emit_ports (s : State) (o : Output) : (emit s o).ports = s.ports := rfl
@[simp] theorem emit_pipes (s : State) (o : Output) : (emit s o).pipes = s.pipes := rfl
@[simp] theorem emit_tables (s : State) (o : Output) : (emit s o).tables = s.tables := rfl
@[simp] theorem emit_clerk (s : State) (o : Output) : (emit s o).clerk = s.clerk := rfl
@[simp] theorem emit_market (s : State) (o : Output) : (emit s o).market = s.market := rfl
@[simp] theorem emit_spill (s : State) (o : Output) : (emit s o).spill = s.spill := rfl
@[simp] theorem emit_sched (s : State) (o : Output) : (emit s o).sched = s.sched := rfl
@[simp] theorem emit_slots (s : State) (o : Output) : (emit s o).slots = s.slots := rfl
@[simp] theorem emit_pulses (s : State) (o : Output) : (emit s o).pulses = s.pulses := rfl
@[simp] theorem emit_ainum (s : State) (o : Output) : (emit s o).ainum = s.ainum := rfl
@[simp] theorem emit_telem (s : State) (o : Output) : (emit s o).telem = s.telem := rfl
@[simp] theorem emit_crier (s : State) (o : Output) : (emit s o).crier = s.crier := rfl
@[simp] theorem emit_flt (s : State) (o : Output) : (emit s o).flt = s.flt := rfl
@[simp] theorem emit_scales (s : State) (o : Output) : (emit s o).scales = s.scales := rfl
@[simp] theorem emit_activity (s : State) (o : Output) : (emit s o).activity = s.activity := rfl
@[simp] theorem emit_bays (s : State) (o : Output) : (emit s o).bays = s.bays := rfl
@[simp] theorem emit_sec (s : State) (o : Output) : (emit s o).sec = s.sec := rfl

@[simp] theorem noteInterval_pending (s : State) (key : Nat) : (noteInterval s key).pending = s.pending := rfl
@[simp] theorem noteInterval_regs (s : State) (key : Nat) : (noteInterval s key).regs = s.regs := rfl
@[simp] theorem noteInterval_prog (s : State) (key : Nat) : (noteInterval s key).prog = s.prog := rfl
@[simp] theorem noteInterval_clock (s : State) (key : Nat) : (noteInterval s key).clock = s.clock := rfl
@[simp] theorem noteInterval_elapsed (s : State) (key : Nat) : (noteInterval s key).elapsed = s.elapsed := rfl
@[simp] theorem noteInterval_freeCtr (s : State) (key : Nat) : (noteInterval s key).freeCtr = s.freeCtr := rfl
@[simp] theorem noteInterval_journal (s : State) (key : Nat) : (noteInterval s key).journal = s.journal := rfl
@[simp] theorem noteInterval_owed (s : State) (key : Nat) : (noteInterval s key).owed = s.owed := rfl
@[simp] theorem noteInterval_top (s : State) (key : Nat) : (noteInterval s key).top = s.top := rfl
@[simp] theorem noteInterval_hif (s : State) (key : Nat) : (noteInterval s key).hif = s.hif := rfl
@[simp] theorem noteInterval_prg (s : State) (key : Nat) : (noteInterval s key).prg = s.prg := rfl
@[simp] theorem noteInterval_ports (s : State) (key : Nat) : (noteInterval s key).ports = s.ports := rfl
@[simp] theorem noteInterval_pipes (s : State) (key : Nat) : (noteInterval s key).pipes = s.pipes := rfl
@[simp] theorem noteInterval_tables (s : State) (key : Nat) : (noteInterval s key).tables = s.tables := rfl
@[simp] theorem noteInterval_clerk (s : State) (key : Nat) : (noteInterval s key).clerk = s.clerk := rfl
@[simp] theorem noteInterval_market (s : State) (key : Nat) : (noteInterval s key).market = s.market := rfl
@[simp] theorem noteInterval_spill (s : State) (key : Nat) : (noteInterval s key).spill = s.spill := rfl
@[simp] theorem noteInterval_sched (s : State) (key : Nat) : (noteInterval s key).sched = s.sched := rfl
@[simp] theorem noteInterval_slots (s : State) (key : Nat) : (noteInterval s key).slots = s.slots := rfl
@[simp] theorem noteInterval_pulses (s : State) (key : Nat) : (noteInterval s key).pulses = s.pulses := rfl
@[simp] theorem noteInterval_ainum (s : State) (key : Nat) : (noteInterval s key).ainum = s.ainum := rfl
@[simp] theorem noteInterval_telem (s : State) (key : Nat) : (noteInterval s key).telem = s.telem := rfl
@[simp] theorem noteInterval_crier (s : State) (key : Nat) : (noteInterval s key).crier = s.crier := rfl
@[simp] theorem noteInterval_flt (s : State) (key : Nat) : (noteInterval s key).flt = s.flt := rfl
@[simp] theorem noteInterval_scales (s : State) (key : Nat) : (noteInterval s key).scales = s.scales := rfl
@[simp] theorem noteInterval_activity (s : State) (key : Nat) : (noteInterval s key).activity = s.activity := rfl
@[simp] theorem noteInterval_bays (s : State) (key : Nat) : (noteInterval s key).bays = s.bays := rfl
@[simp] theorem noteInterval_sec (s : State) (key : Nat) : (noteInterval s key).sec = s.sec := rfl
@[simp] theorem noteInterval_out (s : State) (key : Nat) : (noteInterval s key).out = s.out := rfl

@[simp] theorem setTop_pending (s : State) (f : Sys2Proof.Machine.Top → Sys2Proof.Machine.Top) : (setTop s f).pending = s.pending := rfl
@[simp] theorem setTop_regs (s : State) (f : Sys2Proof.Machine.Top → Sys2Proof.Machine.Top) : (setTop s f).regs = s.regs := rfl
@[simp] theorem setTop_prog (s : State) (f : Sys2Proof.Machine.Top → Sys2Proof.Machine.Top) : (setTop s f).prog = s.prog := rfl
@[simp] theorem setTop_clock (s : State) (f : Sys2Proof.Machine.Top → Sys2Proof.Machine.Top) : (setTop s f).clock = s.clock := rfl
@[simp] theorem setTop_elapsed (s : State) (f : Sys2Proof.Machine.Top → Sys2Proof.Machine.Top) : (setTop s f).elapsed = s.elapsed := rfl
@[simp] theorem setTop_freeCtr (s : State) (f : Sys2Proof.Machine.Top → Sys2Proof.Machine.Top) : (setTop s f).freeCtr = s.freeCtr := rfl
@[simp] theorem setTop_journal (s : State) (f : Sys2Proof.Machine.Top → Sys2Proof.Machine.Top) : (setTop s f).journal = s.journal := rfl
@[simp] theorem setTop_owed (s : State) (f : Sys2Proof.Machine.Top → Sys2Proof.Machine.Top) : (setTop s f).owed = s.owed := rfl
@[simp] theorem setTop_lastRaise (s : State) (f : Sys2Proof.Machine.Top → Sys2Proof.Machine.Top) : (setTop s f).lastRaise = s.lastRaise := rfl
@[simp] theorem setTop_hif (s : State) (f : Sys2Proof.Machine.Top → Sys2Proof.Machine.Top) : (setTop s f).hif = s.hif := rfl
@[simp] theorem setTop_prg (s : State) (f : Sys2Proof.Machine.Top → Sys2Proof.Machine.Top) : (setTop s f).prg = s.prg := rfl
@[simp] theorem setTop_ports (s : State) (f : Sys2Proof.Machine.Top → Sys2Proof.Machine.Top) : (setTop s f).ports = s.ports := rfl
@[simp] theorem setTop_pipes (s : State) (f : Sys2Proof.Machine.Top → Sys2Proof.Machine.Top) : (setTop s f).pipes = s.pipes := rfl
@[simp] theorem setTop_tables (s : State) (f : Sys2Proof.Machine.Top → Sys2Proof.Machine.Top) : (setTop s f).tables = s.tables := rfl
@[simp] theorem setTop_clerk (s : State) (f : Sys2Proof.Machine.Top → Sys2Proof.Machine.Top) : (setTop s f).clerk = s.clerk := rfl
@[simp] theorem setTop_market (s : State) (f : Sys2Proof.Machine.Top → Sys2Proof.Machine.Top) : (setTop s f).market = s.market := rfl
@[simp] theorem setTop_spill (s : State) (f : Sys2Proof.Machine.Top → Sys2Proof.Machine.Top) : (setTop s f).spill = s.spill := rfl
@[simp] theorem setTop_sched (s : State) (f : Sys2Proof.Machine.Top → Sys2Proof.Machine.Top) : (setTop s f).sched = s.sched := rfl
@[simp] theorem setTop_slots (s : State) (f : Sys2Proof.Machine.Top → Sys2Proof.Machine.Top) : (setTop s f).slots = s.slots := rfl
@[simp] theorem setTop_pulses (s : State) (f : Sys2Proof.Machine.Top → Sys2Proof.Machine.Top) : (setTop s f).pulses = s.pulses := rfl
@[simp] theorem setTop_ainum (s : State) (f : Sys2Proof.Machine.Top → Sys2Proof.Machine.Top) : (setTop s f).ainum = s.ainum := rfl
@[simp] theorem setTop_telem (s : State) (f : Sys2Proof.Machine.Top → Sys2Proof.Machine.Top) : (setTop s f).telem = s.telem := rfl
@[simp] theorem setTop_crier (s : State) (f : Sys2Proof.Machine.Top → Sys2Proof.Machine.Top) : (setTop s f).crier = s.crier := rfl
@[simp] theorem setTop_flt (s : State) (f : Sys2Proof.Machine.Top → Sys2Proof.Machine.Top) : (setTop s f).flt = s.flt := rfl
@[simp] theorem setTop_scales (s : State) (f : Sys2Proof.Machine.Top → Sys2Proof.Machine.Top) : (setTop s f).scales = s.scales := rfl
@[simp] theorem setTop_activity (s : State) (f : Sys2Proof.Machine.Top → Sys2Proof.Machine.Top) : (setTop s f).activity = s.activity := rfl
@[simp] theorem setTop_bays (s : State) (f : Sys2Proof.Machine.Top → Sys2Proof.Machine.Top) : (setTop s f).bays = s.bays := rfl
@[simp] theorem setTop_sec (s : State) (f : Sys2Proof.Machine.Top → Sys2Proof.Machine.Top) : (setTop s f).sec = s.sec := rfl
@[simp] theorem setTop_out (s : State) (f : Sys2Proof.Machine.Top → Sys2Proof.Machine.Top) : (setTop s f).out = s.out := rfl

@[simp] theorem setPhase_pending (s : State) (c : HostCmd) (p : CmdPhase) : (setPhase s c p).pending = s.pending := rfl
@[simp] theorem setPhase_regs (s : State) (c : HostCmd) (p : CmdPhase) : (setPhase s c p).regs = s.regs := rfl
@[simp] theorem setPhase_prog (s : State) (c : HostCmd) (p : CmdPhase) : (setPhase s c p).prog = s.prog := rfl
@[simp] theorem setPhase_clock (s : State) (c : HostCmd) (p : CmdPhase) : (setPhase s c p).clock = s.clock := rfl
@[simp] theorem setPhase_elapsed (s : State) (c : HostCmd) (p : CmdPhase) : (setPhase s c p).elapsed = s.elapsed := rfl
@[simp] theorem setPhase_freeCtr (s : State) (c : HostCmd) (p : CmdPhase) : (setPhase s c p).freeCtr = s.freeCtr := rfl
@[simp] theorem setPhase_journal (s : State) (c : HostCmd) (p : CmdPhase) : (setPhase s c p).journal = s.journal := rfl
@[simp] theorem setPhase_owed (s : State) (c : HostCmd) (p : CmdPhase) : (setPhase s c p).owed = s.owed := rfl
@[simp] theorem setPhase_lastRaise (s : State) (c : HostCmd) (p : CmdPhase) : (setPhase s c p).lastRaise = s.lastRaise := rfl
@[simp] theorem setPhase_top (s : State) (c : HostCmd) (p : CmdPhase) : (setPhase s c p).top = s.top := rfl
@[simp] theorem setPhase_prg (s : State) (c : HostCmd) (p : CmdPhase) : (setPhase s c p).prg = s.prg := rfl
@[simp] theorem setPhase_ports (s : State) (c : HostCmd) (p : CmdPhase) : (setPhase s c p).ports = s.ports := rfl
@[simp] theorem setPhase_pipes (s : State) (c : HostCmd) (p : CmdPhase) : (setPhase s c p).pipes = s.pipes := rfl
@[simp] theorem setPhase_tables (s : State) (c : HostCmd) (p : CmdPhase) : (setPhase s c p).tables = s.tables := rfl
@[simp] theorem setPhase_clerk (s : State) (c : HostCmd) (p : CmdPhase) : (setPhase s c p).clerk = s.clerk := rfl
@[simp] theorem setPhase_market (s : State) (c : HostCmd) (p : CmdPhase) : (setPhase s c p).market = s.market := rfl
@[simp] theorem setPhase_spill (s : State) (c : HostCmd) (p : CmdPhase) : (setPhase s c p).spill = s.spill := rfl
@[simp] theorem setPhase_sched (s : State) (c : HostCmd) (p : CmdPhase) : (setPhase s c p).sched = s.sched := rfl
@[simp] theorem setPhase_slots (s : State) (c : HostCmd) (p : CmdPhase) : (setPhase s c p).slots = s.slots := rfl
@[simp] theorem setPhase_pulses (s : State) (c : HostCmd) (p : CmdPhase) : (setPhase s c p).pulses = s.pulses := rfl
@[simp] theorem setPhase_ainum (s : State) (c : HostCmd) (p : CmdPhase) : (setPhase s c p).ainum = s.ainum := rfl
@[simp] theorem setPhase_telem (s : State) (c : HostCmd) (p : CmdPhase) : (setPhase s c p).telem = s.telem := rfl
@[simp] theorem setPhase_crier (s : State) (c : HostCmd) (p : CmdPhase) : (setPhase s c p).crier = s.crier := rfl
@[simp] theorem setPhase_flt (s : State) (c : HostCmd) (p : CmdPhase) : (setPhase s c p).flt = s.flt := rfl
@[simp] theorem setPhase_scales (s : State) (c : HostCmd) (p : CmdPhase) : (setPhase s c p).scales = s.scales := rfl
@[simp] theorem setPhase_activity (s : State) (c : HostCmd) (p : CmdPhase) : (setPhase s c p).activity = s.activity := rfl
@[simp] theorem setPhase_bays (s : State) (c : HostCmd) (p : CmdPhase) : (setPhase s c p).bays = s.bays := rfl
@[simp] theorem setPhase_sec (s : State) (c : HostCmd) (p : CmdPhase) : (setPhase s c p).sec = s.sec := rfl
@[simp] theorem setPhase_out (s : State) (c : HostCmd) (p : CmdPhase) : (setPhase s c p).out = s.out := rfl

@[simp] theorem dropCmd_pending (s : State) (key : Nat × Nat × Nat) : (dropCmd s key).pending = s.pending := rfl
@[simp] theorem dropCmd_regs (s : State) (key : Nat × Nat × Nat) : (dropCmd s key).regs = s.regs := rfl
@[simp] theorem dropCmd_prog (s : State) (key : Nat × Nat × Nat) : (dropCmd s key).prog = s.prog := rfl
@[simp] theorem dropCmd_clock (s : State) (key : Nat × Nat × Nat) : (dropCmd s key).clock = s.clock := rfl
@[simp] theorem dropCmd_elapsed (s : State) (key : Nat × Nat × Nat) : (dropCmd s key).elapsed = s.elapsed := rfl
@[simp] theorem dropCmd_freeCtr (s : State) (key : Nat × Nat × Nat) : (dropCmd s key).freeCtr = s.freeCtr := rfl
@[simp] theorem dropCmd_journal (s : State) (key : Nat × Nat × Nat) : (dropCmd s key).journal = s.journal := rfl
@[simp] theorem dropCmd_owed (s : State) (key : Nat × Nat × Nat) : (dropCmd s key).owed = s.owed := rfl
@[simp] theorem dropCmd_lastRaise (s : State) (key : Nat × Nat × Nat) : (dropCmd s key).lastRaise = s.lastRaise := rfl
@[simp] theorem dropCmd_top (s : State) (key : Nat × Nat × Nat) : (dropCmd s key).top = s.top := rfl
@[simp] theorem dropCmd_prg (s : State) (key : Nat × Nat × Nat) : (dropCmd s key).prg = s.prg := rfl
@[simp] theorem dropCmd_ports (s : State) (key : Nat × Nat × Nat) : (dropCmd s key).ports = s.ports := rfl
@[simp] theorem dropCmd_pipes (s : State) (key : Nat × Nat × Nat) : (dropCmd s key).pipes = s.pipes := rfl
@[simp] theorem dropCmd_tables (s : State) (key : Nat × Nat × Nat) : (dropCmd s key).tables = s.tables := rfl
@[simp] theorem dropCmd_clerk (s : State) (key : Nat × Nat × Nat) : (dropCmd s key).clerk = s.clerk := rfl
@[simp] theorem dropCmd_market (s : State) (key : Nat × Nat × Nat) : (dropCmd s key).market = s.market := rfl
@[simp] theorem dropCmd_spill (s : State) (key : Nat × Nat × Nat) : (dropCmd s key).spill = s.spill := rfl
@[simp] theorem dropCmd_sched (s : State) (key : Nat × Nat × Nat) : (dropCmd s key).sched = s.sched := rfl
@[simp] theorem dropCmd_slots (s : State) (key : Nat × Nat × Nat) : (dropCmd s key).slots = s.slots := rfl
@[simp] theorem dropCmd_pulses (s : State) (key : Nat × Nat × Nat) : (dropCmd s key).pulses = s.pulses := rfl
@[simp] theorem dropCmd_ainum (s : State) (key : Nat × Nat × Nat) : (dropCmd s key).ainum = s.ainum := rfl
@[simp] theorem dropCmd_telem (s : State) (key : Nat × Nat × Nat) : (dropCmd s key).telem = s.telem := rfl
@[simp] theorem dropCmd_crier (s : State) (key : Nat × Nat × Nat) : (dropCmd s key).crier = s.crier := rfl
@[simp] theorem dropCmd_flt (s : State) (key : Nat × Nat × Nat) : (dropCmd s key).flt = s.flt := rfl
@[simp] theorem dropCmd_scales (s : State) (key : Nat × Nat × Nat) : (dropCmd s key).scales = s.scales := rfl
@[simp] theorem dropCmd_activity (s : State) (key : Nat × Nat × Nat) : (dropCmd s key).activity = s.activity := rfl
@[simp] theorem dropCmd_bays (s : State) (key : Nat × Nat × Nat) : (dropCmd s key).bays = s.bays := rfl
@[simp] theorem dropCmd_sec (s : State) (key : Nat × Nat × Nat) : (dropCmd s key).sec = s.sec := rfl
@[simp] theorem dropCmd_out (s : State) (key : Nat × Nat × Nat) : (dropCmd s key).out = s.out := rfl

@[simp] theorem countEvent_pending (s : State) (id : Nat) : (countEvent s id).pending = s.pending := rfl
@[simp] theorem countEvent_regs (s : State) (id : Nat) : (countEvent s id).regs = s.regs := rfl
@[simp] theorem countEvent_prog (s : State) (id : Nat) : (countEvent s id).prog = s.prog := rfl
@[simp] theorem countEvent_clock (s : State) (id : Nat) : (countEvent s id).clock = s.clock := rfl
@[simp] theorem countEvent_elapsed (s : State) (id : Nat) : (countEvent s id).elapsed = s.elapsed := rfl
@[simp] theorem countEvent_freeCtr (s : State) (id : Nat) : (countEvent s id).freeCtr = s.freeCtr := rfl
@[simp] theorem countEvent_journal (s : State) (id : Nat) : (countEvent s id).journal = s.journal := rfl
@[simp] theorem countEvent_owed (s : State) (id : Nat) : (countEvent s id).owed = s.owed := rfl
@[simp] theorem countEvent_lastRaise (s : State) (id : Nat) : (countEvent s id).lastRaise = s.lastRaise := rfl
@[simp] theorem countEvent_top (s : State) (id : Nat) : (countEvent s id).top = s.top := rfl
@[simp] theorem countEvent_hif (s : State) (id : Nat) : (countEvent s id).hif = s.hif := rfl
@[simp] theorem countEvent_prg (s : State) (id : Nat) : (countEvent s id).prg = s.prg := rfl
@[simp] theorem countEvent_ports (s : State) (id : Nat) : (countEvent s id).ports = s.ports := rfl
@[simp] theorem countEvent_pipes (s : State) (id : Nat) : (countEvent s id).pipes = s.pipes := rfl
@[simp] theorem countEvent_tables (s : State) (id : Nat) : (countEvent s id).tables = s.tables := rfl
@[simp] theorem countEvent_clerk (s : State) (id : Nat) : (countEvent s id).clerk = s.clerk := rfl
@[simp] theorem countEvent_market (s : State) (id : Nat) : (countEvent s id).market = s.market := rfl
@[simp] theorem countEvent_spill (s : State) (id : Nat) : (countEvent s id).spill = s.spill := rfl
@[simp] theorem countEvent_sched (s : State) (id : Nat) : (countEvent s id).sched = s.sched := rfl
@[simp] theorem countEvent_slots (s : State) (id : Nat) : (countEvent s id).slots = s.slots := rfl
@[simp] theorem countEvent_pulses (s : State) (id : Nat) : (countEvent s id).pulses = s.pulses := rfl
@[simp] theorem countEvent_ainum (s : State) (id : Nat) : (countEvent s id).ainum = s.ainum := rfl
@[simp] theorem countEvent_telem (s : State) (id : Nat) : (countEvent s id).telem = s.telem := rfl
@[simp] theorem countEvent_flt (s : State) (id : Nat) : (countEvent s id).flt = s.flt := rfl
@[simp] theorem countEvent_scales (s : State) (id : Nat) : (countEvent s id).scales = s.scales := rfl
@[simp] theorem countEvent_activity (s : State) (id : Nat) : (countEvent s id).activity = s.activity := rfl
@[simp] theorem countEvent_bays (s : State) (id : Nat) : (countEvent s id).bays = s.bays := rfl
@[simp] theorem countEvent_sec (s : State) (id : Nat) : (countEvent s id).sec = s.sec := rfl
@[simp] theorem countEvent_out (s : State) (id : Nat) : (countEvent s id).out = s.out := rfl

@[simp] theorem startGrace_pending (s : State) (id : Nat) : (startGrace s id).pending = s.pending := 
  Only.startGrace (fr := [.regs, .owed, .crier, .flt]) _ _ (Only.refl s) (by decide) (by decide) (by decide) (by decide) .pending (by decide)
@[simp] theorem startGrace_prog (s : State) (id : Nat) : (startGrace s id).prog = s.prog := 
  Only.startGrace (fr := [.regs, .owed, .crier, .flt]) _ _ (Only.refl s) (by decide) (by decide) (by decide) (by decide) .prog (by decide)
@[simp] theorem startGrace_clock (s : State) (id : Nat) : (startGrace s id).clock = s.clock := 
  Only.startGrace (fr := [.regs, .owed, .crier, .flt]) _ _ (Only.refl s) (by decide) (by decide) (by decide) (by decide) .clock (by decide)
@[simp] theorem startGrace_elapsed (s : State) (id : Nat) : (startGrace s id).elapsed = s.elapsed := 
  Only.startGrace (fr := [.regs, .owed, .crier, .flt]) _ _ (Only.refl s) (by decide) (by decide) (by decide) (by decide) .elapsed (by decide)
@[simp] theorem startGrace_freeCtr (s : State) (id : Nat) : (startGrace s id).freeCtr = s.freeCtr := 
  Only.startGrace (fr := [.regs, .owed, .crier, .flt]) _ _ (Only.refl s) (by decide) (by decide) (by decide) (by decide) .freeCtr (by decide)
@[simp] theorem startGrace_journal (s : State) (id : Nat) : (startGrace s id).journal = s.journal := 
  Only.startGrace (fr := [.regs, .owed, .crier, .flt]) _ _ (Only.refl s) (by decide) (by decide) (by decide) (by decide) .journal (by decide)
@[simp] theorem startGrace_lastRaise (s : State) (id : Nat) : (startGrace s id).lastRaise = s.lastRaise := 
  Only.startGrace (fr := [.regs, .owed, .crier, .flt]) _ _ (Only.refl s) (by decide) (by decide) (by decide) (by decide) .lastRaise (by decide)
@[simp] theorem startGrace_top (s : State) (id : Nat) : (startGrace s id).top = s.top := 
  Only.startGrace (fr := [.regs, .owed, .crier, .flt]) _ _ (Only.refl s) (by decide) (by decide) (by decide) (by decide) .top (by decide)
@[simp] theorem startGrace_hif (s : State) (id : Nat) : (startGrace s id).hif = s.hif := 
  Only.startGrace (fr := [.regs, .owed, .crier, .flt]) _ _ (Only.refl s) (by decide) (by decide) (by decide) (by decide) .hif (by decide)
@[simp] theorem startGrace_prg (s : State) (id : Nat) : (startGrace s id).prg = s.prg := 
  Only.startGrace (fr := [.regs, .owed, .crier, .flt]) _ _ (Only.refl s) (by decide) (by decide) (by decide) (by decide) .prg (by decide)
@[simp] theorem startGrace_ports (s : State) (id : Nat) : (startGrace s id).ports = s.ports := 
  Only.startGrace (fr := [.regs, .owed, .crier, .flt]) _ _ (Only.refl s) (by decide) (by decide) (by decide) (by decide) .ports (by decide)
@[simp] theorem startGrace_pipes (s : State) (id : Nat) : (startGrace s id).pipes = s.pipes := 
  Only.startGrace (fr := [.regs, .owed, .crier, .flt]) _ _ (Only.refl s) (by decide) (by decide) (by decide) (by decide) .pipes (by decide)
@[simp] theorem startGrace_tables (s : State) (id : Nat) : (startGrace s id).tables = s.tables := 
  Only.startGrace (fr := [.regs, .owed, .crier, .flt]) _ _ (Only.refl s) (by decide) (by decide) (by decide) (by decide) .tables (by decide)
@[simp] theorem startGrace_clerk (s : State) (id : Nat) : (startGrace s id).clerk = s.clerk := 
  Only.startGrace (fr := [.regs, .owed, .crier, .flt]) _ _ (Only.refl s) (by decide) (by decide) (by decide) (by decide) .clerk (by decide)
@[simp] theorem startGrace_market (s : State) (id : Nat) : (startGrace s id).market = s.market := 
  Only.startGrace (fr := [.regs, .owed, .crier, .flt]) _ _ (Only.refl s) (by decide) (by decide) (by decide) (by decide) .market (by decide)
@[simp] theorem startGrace_spill (s : State) (id : Nat) : (startGrace s id).spill = s.spill := 
  Only.startGrace (fr := [.regs, .owed, .crier, .flt]) _ _ (Only.refl s) (by decide) (by decide) (by decide) (by decide) .spill (by decide)
@[simp] theorem startGrace_sched (s : State) (id : Nat) : (startGrace s id).sched = s.sched := 
  Only.startGrace (fr := [.regs, .owed, .crier, .flt]) _ _ (Only.refl s) (by decide) (by decide) (by decide) (by decide) .sched (by decide)
@[simp] theorem startGrace_slots (s : State) (id : Nat) : (startGrace s id).slots = s.slots := 
  Only.startGrace (fr := [.regs, .owed, .crier, .flt]) _ _ (Only.refl s) (by decide) (by decide) (by decide) (by decide) .slots (by decide)
@[simp] theorem startGrace_pulses (s : State) (id : Nat) : (startGrace s id).pulses = s.pulses := 
  Only.startGrace (fr := [.regs, .owed, .crier, .flt]) _ _ (Only.refl s) (by decide) (by decide) (by decide) (by decide) .pulses (by decide)
@[simp] theorem startGrace_ainum (s : State) (id : Nat) : (startGrace s id).ainum = s.ainum := 
  Only.startGrace (fr := [.regs, .owed, .crier, .flt]) _ _ (Only.refl s) (by decide) (by decide) (by decide) (by decide) .ainum (by decide)
@[simp] theorem startGrace_telem (s : State) (id : Nat) : (startGrace s id).telem = s.telem := 
  Only.startGrace (fr := [.regs, .owed, .crier, .flt]) _ _ (Only.refl s) (by decide) (by decide) (by decide) (by decide) .telem (by decide)
@[simp] theorem startGrace_scales (s : State) (id : Nat) : (startGrace s id).scales = s.scales := 
  Only.startGrace (fr := [.regs, .owed, .crier, .flt]) _ _ (Only.refl s) (by decide) (by decide) (by decide) (by decide) .scales (by decide)
@[simp] theorem startGrace_activity (s : State) (id : Nat) : (startGrace s id).activity = s.activity := 
  Only.startGrace (fr := [.regs, .owed, .crier, .flt]) _ _ (Only.refl s) (by decide) (by decide) (by decide) (by decide) .activity (by decide)
@[simp] theorem startGrace_bays (s : State) (id : Nat) : (startGrace s id).bays = s.bays := 
  Only.startGrace (fr := [.regs, .owed, .crier, .flt]) _ _ (Only.refl s) (by decide) (by decide) (by decide) (by decide) .bays (by decide)
@[simp] theorem startGrace_sec (s : State) (id : Nat) : (startGrace s id).sec = s.sec := 
  Only.startGrace (fr := [.regs, .owed, .crier, .flt]) _ _ (Only.refl s) (by decide) (by decide) (by decide) (by decide) .sec (by decide)
@[simp] theorem startGrace_out (s : State) (id : Nat) : (startGrace s id).out = s.out := 
  Only.startGrace (fr := [.regs, .owed, .crier, .flt]) _ _ (Only.refl s) (by decide) (by decide) (by decide) (by decide) .out (by decide)

@[simp] theorem wakeCore_pending (s : State) (id : Nat) : (wakeCore s id).pending = s.pending := rfl
@[simp] theorem wakeCore_regs (s : State) (id : Nat) : (wakeCore s id).regs = s.regs := rfl
@[simp] theorem wakeCore_prog (s : State) (id : Nat) : (wakeCore s id).prog = s.prog := rfl
@[simp] theorem wakeCore_clock (s : State) (id : Nat) : (wakeCore s id).clock = s.clock := rfl
@[simp] theorem wakeCore_elapsed (s : State) (id : Nat) : (wakeCore s id).elapsed = s.elapsed := rfl
@[simp] theorem wakeCore_freeCtr (s : State) (id : Nat) : (wakeCore s id).freeCtr = s.freeCtr := rfl
@[simp] theorem wakeCore_journal (s : State) (id : Nat) : (wakeCore s id).journal = s.journal := rfl
@[simp] theorem wakeCore_owed (s : State) (id : Nat) : (wakeCore s id).owed = s.owed := rfl
@[simp] theorem wakeCore_lastRaise (s : State) (id : Nat) : (wakeCore s id).lastRaise = s.lastRaise := rfl
@[simp] theorem wakeCore_top (s : State) (id : Nat) : (wakeCore s id).top = s.top := rfl
@[simp] theorem wakeCore_hif (s : State) (id : Nat) : (wakeCore s id).hif = s.hif := rfl
@[simp] theorem wakeCore_prg (s : State) (id : Nat) : (wakeCore s id).prg = s.prg := rfl
@[simp] theorem wakeCore_ports (s : State) (id : Nat) : (wakeCore s id).ports = s.ports := rfl
@[simp] theorem wakeCore_pipes (s : State) (id : Nat) : (wakeCore s id).pipes = s.pipes := rfl
@[simp] theorem wakeCore_tables (s : State) (id : Nat) : (wakeCore s id).tables = s.tables := rfl
@[simp] theorem wakeCore_clerk (s : State) (id : Nat) : (wakeCore s id).clerk = s.clerk := rfl
@[simp] theorem wakeCore_market (s : State) (id : Nat) : (wakeCore s id).market = s.market := rfl
@[simp] theorem wakeCore_spill (s : State) (id : Nat) : (wakeCore s id).spill = s.spill := rfl
@[simp] theorem wakeCore_sched (s : State) (id : Nat) : (wakeCore s id).sched = s.sched := rfl
@[simp] theorem wakeCore_slots (s : State) (id : Nat) : (wakeCore s id).slots = s.slots := rfl
@[simp] theorem wakeCore_pulses (s : State) (id : Nat) : (wakeCore s id).pulses = s.pulses := rfl
@[simp] theorem wakeCore_ainum (s : State) (id : Nat) : (wakeCore s id).ainum = s.ainum := rfl
@[simp] theorem wakeCore_telem (s : State) (id : Nat) : (wakeCore s id).telem = s.telem := rfl
@[simp] theorem wakeCore_flt (s : State) (id : Nat) : (wakeCore s id).flt = s.flt := rfl
@[simp] theorem wakeCore_scales (s : State) (id : Nat) : (wakeCore s id).scales = s.scales := rfl
@[simp] theorem wakeCore_activity (s : State) (id : Nat) : (wakeCore s id).activity = s.activity := rfl
@[simp] theorem wakeCore_bays (s : State) (id : Nat) : (wakeCore s id).bays = s.bays := rfl
@[simp] theorem wakeCore_sec (s : State) (id : Nat) : (wakeCore s id).sec = s.sec := rfl
@[simp] theorem wakeCore_out (s : State) (id : Nat) : (wakeCore s id).out = s.out := rfl

@[simp] theorem raise_pending (s : State) (id : Nat) : (raise s id).pending = s.pending := 
  Only.raise (fr := [.regs, .owed, .crier, .flt]) _ _ (Only.refl s) (by decide) (by decide) (by decide) (by decide) .pending (by decide)
@[simp] theorem raise_prog (s : State) (id : Nat) : (raise s id).prog = s.prog := 
  Only.raise (fr := [.regs, .owed, .crier, .flt]) _ _ (Only.refl s) (by decide) (by decide) (by decide) (by decide) .prog (by decide)
@[simp] theorem raise_clock (s : State) (id : Nat) : (raise s id).clock = s.clock := 
  Only.raise (fr := [.regs, .owed, .crier, .flt]) _ _ (Only.refl s) (by decide) (by decide) (by decide) (by decide) .clock (by decide)
@[simp] theorem raise_elapsed (s : State) (id : Nat) : (raise s id).elapsed = s.elapsed := 
  Only.raise (fr := [.regs, .owed, .crier, .flt]) _ _ (Only.refl s) (by decide) (by decide) (by decide) (by decide) .elapsed (by decide)
@[simp] theorem raise_freeCtr (s : State) (id : Nat) : (raise s id).freeCtr = s.freeCtr := 
  Only.raise (fr := [.regs, .owed, .crier, .flt]) _ _ (Only.refl s) (by decide) (by decide) (by decide) (by decide) .freeCtr (by decide)
@[simp] theorem raise_journal (s : State) (id : Nat) : (raise s id).journal = s.journal := 
  Only.raise (fr := [.regs, .owed, .crier, .flt]) _ _ (Only.refl s) (by decide) (by decide) (by decide) (by decide) .journal (by decide)
@[simp] theorem raise_lastRaise (s : State) (id : Nat) : (raise s id).lastRaise = s.lastRaise := 
  Only.raise (fr := [.regs, .owed, .crier, .flt]) _ _ (Only.refl s) (by decide) (by decide) (by decide) (by decide) .lastRaise (by decide)
@[simp] theorem raise_top (s : State) (id : Nat) : (raise s id).top = s.top := 
  Only.raise (fr := [.regs, .owed, .crier, .flt]) _ _ (Only.refl s) (by decide) (by decide) (by decide) (by decide) .top (by decide)
@[simp] theorem raise_hif (s : State) (id : Nat) : (raise s id).hif = s.hif := 
  Only.raise (fr := [.regs, .owed, .crier, .flt]) _ _ (Only.refl s) (by decide) (by decide) (by decide) (by decide) .hif (by decide)
@[simp] theorem raise_prg (s : State) (id : Nat) : (raise s id).prg = s.prg := 
  Only.raise (fr := [.regs, .owed, .crier, .flt]) _ _ (Only.refl s) (by decide) (by decide) (by decide) (by decide) .prg (by decide)
@[simp] theorem raise_ports (s : State) (id : Nat) : (raise s id).ports = s.ports := 
  Only.raise (fr := [.regs, .owed, .crier, .flt]) _ _ (Only.refl s) (by decide) (by decide) (by decide) (by decide) .ports (by decide)
@[simp] theorem raise_pipes (s : State) (id : Nat) : (raise s id).pipes = s.pipes := 
  Only.raise (fr := [.regs, .owed, .crier, .flt]) _ _ (Only.refl s) (by decide) (by decide) (by decide) (by decide) .pipes (by decide)
@[simp] theorem raise_tables (s : State) (id : Nat) : (raise s id).tables = s.tables := 
  Only.raise (fr := [.regs, .owed, .crier, .flt]) _ _ (Only.refl s) (by decide) (by decide) (by decide) (by decide) .tables (by decide)
@[simp] theorem raise_clerk (s : State) (id : Nat) : (raise s id).clerk = s.clerk := 
  Only.raise (fr := [.regs, .owed, .crier, .flt]) _ _ (Only.refl s) (by decide) (by decide) (by decide) (by decide) .clerk (by decide)
@[simp] theorem raise_market (s : State) (id : Nat) : (raise s id).market = s.market := 
  Only.raise (fr := [.regs, .owed, .crier, .flt]) _ _ (Only.refl s) (by decide) (by decide) (by decide) (by decide) .market (by decide)
@[simp] theorem raise_spill (s : State) (id : Nat) : (raise s id).spill = s.spill := 
  Only.raise (fr := [.regs, .owed, .crier, .flt]) _ _ (Only.refl s) (by decide) (by decide) (by decide) (by decide) .spill (by decide)
@[simp] theorem raise_sched (s : State) (id : Nat) : (raise s id).sched = s.sched := 
  Only.raise (fr := [.regs, .owed, .crier, .flt]) _ _ (Only.refl s) (by decide) (by decide) (by decide) (by decide) .sched (by decide)
@[simp] theorem raise_slots (s : State) (id : Nat) : (raise s id).slots = s.slots := 
  Only.raise (fr := [.regs, .owed, .crier, .flt]) _ _ (Only.refl s) (by decide) (by decide) (by decide) (by decide) .slots (by decide)
@[simp] theorem raise_pulses (s : State) (id : Nat) : (raise s id).pulses = s.pulses := 
  Only.raise (fr := [.regs, .owed, .crier, .flt]) _ _ (Only.refl s) (by decide) (by decide) (by decide) (by decide) .pulses (by decide)
@[simp] theorem raise_ainum (s : State) (id : Nat) : (raise s id).ainum = s.ainum := 
  Only.raise (fr := [.regs, .owed, .crier, .flt]) _ _ (Only.refl s) (by decide) (by decide) (by decide) (by decide) .ainum (by decide)
@[simp] theorem raise_telem (s : State) (id : Nat) : (raise s id).telem = s.telem := 
  Only.raise (fr := [.regs, .owed, .crier, .flt]) _ _ (Only.refl s) (by decide) (by decide) (by decide) (by decide) .telem (by decide)
@[simp] theorem raise_scales (s : State) (id : Nat) : (raise s id).scales = s.scales := 
  Only.raise (fr := [.regs, .owed, .crier, .flt]) _ _ (Only.refl s) (by decide) (by decide) (by decide) (by decide) .scales (by decide)
@[simp] theorem raise_activity (s : State) (id : Nat) : (raise s id).activity = s.activity := 
  Only.raise (fr := [.regs, .owed, .crier, .flt]) _ _ (Only.refl s) (by decide) (by decide) (by decide) (by decide) .activity (by decide)
@[simp] theorem raise_bays (s : State) (id : Nat) : (raise s id).bays = s.bays := 
  Only.raise (fr := [.regs, .owed, .crier, .flt]) _ _ (Only.refl s) (by decide) (by decide) (by decide) (by decide) .bays (by decide)
@[simp] theorem raise_sec (s : State) (id : Nat) : (raise s id).sec = s.sec := 
  Only.raise (fr := [.regs, .owed, .crier, .flt]) _ _ (Only.refl s) (by decide) (by decide) (by decide) (by decide) .sec (by decide)
@[simp] theorem raise_out (s : State) (id : Nat) : (raise s id).out = s.out := 
  Only.raise (fr := [.regs, .owed, .crier, .flt]) _ _ (Only.refl s) (by decide) (by decide) (by decide) (by decide) .out (by decide)

@[simp] theorem raiseLimited_pending (s : State) (id ns : Nat) : (raiseLimited s id ns).pending = s.pending := 
  Only.raiseLimited (fr := [.regs, .owed, .lastRaise, .crier, .flt]) _ _ _ (Only.refl s) (by decide) (by decide) (by decide) (by decide) (by decide) .pending (by decide)
@[simp] theorem raiseLimited_prog (s : State) (id ns : Nat) : (raiseLimited s id ns).prog = s.prog := 
  Only.raiseLimited (fr := [.regs, .owed, .lastRaise, .crier, .flt]) _ _ _ (Only.refl s) (by decide) (by decide) (by decide) (by decide) (by decide) .prog (by decide)
@[simp] theorem raiseLimited_clock (s : State) (id ns : Nat) : (raiseLimited s id ns).clock = s.clock := 
  Only.raiseLimited (fr := [.regs, .owed, .lastRaise, .crier, .flt]) _ _ _ (Only.refl s) (by decide) (by decide) (by decide) (by decide) (by decide) .clock (by decide)
@[simp] theorem raiseLimited_elapsed (s : State) (id ns : Nat) : (raiseLimited s id ns).elapsed = s.elapsed := 
  Only.raiseLimited (fr := [.regs, .owed, .lastRaise, .crier, .flt]) _ _ _ (Only.refl s) (by decide) (by decide) (by decide) (by decide) (by decide) .elapsed (by decide)
@[simp] theorem raiseLimited_freeCtr (s : State) (id ns : Nat) : (raiseLimited s id ns).freeCtr = s.freeCtr := 
  Only.raiseLimited (fr := [.regs, .owed, .lastRaise, .crier, .flt]) _ _ _ (Only.refl s) (by decide) (by decide) (by decide) (by decide) (by decide) .freeCtr (by decide)
@[simp] theorem raiseLimited_journal (s : State) (id ns : Nat) : (raiseLimited s id ns).journal = s.journal := 
  Only.raiseLimited (fr := [.regs, .owed, .lastRaise, .crier, .flt]) _ _ _ (Only.refl s) (by decide) (by decide) (by decide) (by decide) (by decide) .journal (by decide)
@[simp] theorem raiseLimited_top (s : State) (id ns : Nat) : (raiseLimited s id ns).top = s.top := 
  Only.raiseLimited (fr := [.regs, .owed, .lastRaise, .crier, .flt]) _ _ _ (Only.refl s) (by decide) (by decide) (by decide) (by decide) (by decide) .top (by decide)
@[simp] theorem raiseLimited_hif (s : State) (id ns : Nat) : (raiseLimited s id ns).hif = s.hif := 
  Only.raiseLimited (fr := [.regs, .owed, .lastRaise, .crier, .flt]) _ _ _ (Only.refl s) (by decide) (by decide) (by decide) (by decide) (by decide) .hif (by decide)
@[simp] theorem raiseLimited_prg (s : State) (id ns : Nat) : (raiseLimited s id ns).prg = s.prg := 
  Only.raiseLimited (fr := [.regs, .owed, .lastRaise, .crier, .flt]) _ _ _ (Only.refl s) (by decide) (by decide) (by decide) (by decide) (by decide) .prg (by decide)
@[simp] theorem raiseLimited_ports (s : State) (id ns : Nat) : (raiseLimited s id ns).ports = s.ports := 
  Only.raiseLimited (fr := [.regs, .owed, .lastRaise, .crier, .flt]) _ _ _ (Only.refl s) (by decide) (by decide) (by decide) (by decide) (by decide) .ports (by decide)
@[simp] theorem raiseLimited_pipes (s : State) (id ns : Nat) : (raiseLimited s id ns).pipes = s.pipes := 
  Only.raiseLimited (fr := [.regs, .owed, .lastRaise, .crier, .flt]) _ _ _ (Only.refl s) (by decide) (by decide) (by decide) (by decide) (by decide) .pipes (by decide)
@[simp] theorem raiseLimited_tables (s : State) (id ns : Nat) : (raiseLimited s id ns).tables = s.tables := 
  Only.raiseLimited (fr := [.regs, .owed, .lastRaise, .crier, .flt]) _ _ _ (Only.refl s) (by decide) (by decide) (by decide) (by decide) (by decide) .tables (by decide)
@[simp] theorem raiseLimited_clerk (s : State) (id ns : Nat) : (raiseLimited s id ns).clerk = s.clerk := 
  Only.raiseLimited (fr := [.regs, .owed, .lastRaise, .crier, .flt]) _ _ _ (Only.refl s) (by decide) (by decide) (by decide) (by decide) (by decide) .clerk (by decide)
@[simp] theorem raiseLimited_market (s : State) (id ns : Nat) : (raiseLimited s id ns).market = s.market := 
  Only.raiseLimited (fr := [.regs, .owed, .lastRaise, .crier, .flt]) _ _ _ (Only.refl s) (by decide) (by decide) (by decide) (by decide) (by decide) .market (by decide)
@[simp] theorem raiseLimited_spill (s : State) (id ns : Nat) : (raiseLimited s id ns).spill = s.spill := 
  Only.raiseLimited (fr := [.regs, .owed, .lastRaise, .crier, .flt]) _ _ _ (Only.refl s) (by decide) (by decide) (by decide) (by decide) (by decide) .spill (by decide)
@[simp] theorem raiseLimited_sched (s : State) (id ns : Nat) : (raiseLimited s id ns).sched = s.sched := 
  Only.raiseLimited (fr := [.regs, .owed, .lastRaise, .crier, .flt]) _ _ _ (Only.refl s) (by decide) (by decide) (by decide) (by decide) (by decide) .sched (by decide)
@[simp] theorem raiseLimited_slots (s : State) (id ns : Nat) : (raiseLimited s id ns).slots = s.slots := 
  Only.raiseLimited (fr := [.regs, .owed, .lastRaise, .crier, .flt]) _ _ _ (Only.refl s) (by decide) (by decide) (by decide) (by decide) (by decide) .slots (by decide)
@[simp] theorem raiseLimited_pulses (s : State) (id ns : Nat) : (raiseLimited s id ns).pulses = s.pulses := 
  Only.raiseLimited (fr := [.regs, .owed, .lastRaise, .crier, .flt]) _ _ _ (Only.refl s) (by decide) (by decide) (by decide) (by decide) (by decide) .pulses (by decide)
@[simp] theorem raiseLimited_ainum (s : State) (id ns : Nat) : (raiseLimited s id ns).ainum = s.ainum := 
  Only.raiseLimited (fr := [.regs, .owed, .lastRaise, .crier, .flt]) _ _ _ (Only.refl s) (by decide) (by decide) (by decide) (by decide) (by decide) .ainum (by decide)
@[simp] theorem raiseLimited_telem (s : State) (id ns : Nat) : (raiseLimited s id ns).telem = s.telem := 
  Only.raiseLimited (fr := [.regs, .owed, .lastRaise, .crier, .flt]) _ _ _ (Only.refl s) (by decide) (by decide) (by decide) (by decide) (by decide) .telem (by decide)
@[simp] theorem raiseLimited_scales (s : State) (id ns : Nat) : (raiseLimited s id ns).scales = s.scales := 
  Only.raiseLimited (fr := [.regs, .owed, .lastRaise, .crier, .flt]) _ _ _ (Only.refl s) (by decide) (by decide) (by decide) (by decide) (by decide) .scales (by decide)
@[simp] theorem raiseLimited_activity (s : State) (id ns : Nat) : (raiseLimited s id ns).activity = s.activity := 
  Only.raiseLimited (fr := [.regs, .owed, .lastRaise, .crier, .flt]) _ _ _ (Only.refl s) (by decide) (by decide) (by decide) (by decide) (by decide) .activity (by decide)
@[simp] theorem raiseLimited_bays (s : State) (id ns : Nat) : (raiseLimited s id ns).bays = s.bays := 
  Only.raiseLimited (fr := [.regs, .owed, .lastRaise, .crier, .flt]) _ _ _ (Only.refl s) (by decide) (by decide) (by decide) (by decide) (by decide) .bays (by decide)
@[simp] theorem raiseLimited_sec (s : State) (id ns : Nat) : (raiseLimited s id ns).sec = s.sec := 
  Only.raiseLimited (fr := [.regs, .owed, .lastRaise, .crier, .flt]) _ _ _ (Only.refl s) (by decide) (by decide) (by decide) (by decide) (by decide) .sec (by decide)
@[simp] theorem raiseLimited_out (s : State) (id ns : Nat) : (raiseLimited s id ns).out = s.out := 
  Only.raiseLimited (fr := [.regs, .owed, .lastRaise, .crier, .flt]) _ _ _ (Only.refl s) (by decide) (by decide) (by decide) (by decide) (by decide) .out (by decide)

@[simp] theorem setLine_pending (s : State) (id : Nat) (on : Bool) : (setLine s id on).pending = s.pending := 
  Only.setLine (fr := [.regs, .owed, .crier, .flt]) _ _ _ (Only.refl s) (by decide) (by decide) (by decide) (by decide) .pending (by decide)
@[simp] theorem setLine_prog (s : State) (id : Nat) (on : Bool) : (setLine s id on).prog = s.prog := 
  Only.setLine (fr := [.regs, .owed, .crier, .flt]) _ _ _ (Only.refl s) (by decide) (by decide) (by decide) (by decide) .prog (by decide)
@[simp] theorem setLine_clock (s : State) (id : Nat) (on : Bool) : (setLine s id on).clock = s.clock := 
  Only.setLine (fr := [.regs, .owed, .crier, .flt]) _ _ _ (Only.refl s) (by decide) (by decide) (by decide) (by decide) .clock (by decide)
@[simp] theorem setLine_elapsed (s : State) (id : Nat) (on : Bool) : (setLine s id on).elapsed = s.elapsed := 
  Only.setLine (fr := [.regs, .owed, .crier, .flt]) _ _ _ (Only.refl s) (by decide) (by decide) (by decide) (by decide) .elapsed (by decide)
@[simp] theorem setLine_freeCtr (s : State) (id : Nat) (on : Bool) : (setLine s id on).freeCtr = s.freeCtr := 
  Only.setLine (fr := [.regs, .owed, .crier, .flt]) _ _ _ (Only.refl s) (by decide) (by decide) (by decide) (by decide) .freeCtr (by decide)
@[simp] theorem setLine_journal (s : State) (id : Nat) (on : Bool) : (setLine s id on).journal = s.journal := 
  Only.setLine (fr := [.regs, .owed, .crier, .flt]) _ _ _ (Only.refl s) (by decide) (by decide) (by decide) (by decide) .journal (by decide)
@[simp] theorem setLine_lastRaise (s : State) (id : Nat) (on : Bool) : (setLine s id on).lastRaise = s.lastRaise := 
  Only.setLine (fr := [.regs, .owed, .crier, .flt]) _ _ _ (Only.refl s) (by decide) (by decide) (by decide) (by decide) .lastRaise (by decide)
@[simp] theorem setLine_top (s : State) (id : Nat) (on : Bool) : (setLine s id on).top = s.top := 
  Only.setLine (fr := [.regs, .owed, .crier, .flt]) _ _ _ (Only.refl s) (by decide) (by decide) (by decide) (by decide) .top (by decide)
@[simp] theorem setLine_hif (s : State) (id : Nat) (on : Bool) : (setLine s id on).hif = s.hif := 
  Only.setLine (fr := [.regs, .owed, .crier, .flt]) _ _ _ (Only.refl s) (by decide) (by decide) (by decide) (by decide) .hif (by decide)
@[simp] theorem setLine_prg (s : State) (id : Nat) (on : Bool) : (setLine s id on).prg = s.prg := 
  Only.setLine (fr := [.regs, .owed, .crier, .flt]) _ _ _ (Only.refl s) (by decide) (by decide) (by decide) (by decide) .prg (by decide)
@[simp] theorem setLine_ports (s : State) (id : Nat) (on : Bool) : (setLine s id on).ports = s.ports := 
  Only.setLine (fr := [.regs, .owed, .crier, .flt]) _ _ _ (Only.refl s) (by decide) (by decide) (by decide) (by decide) .ports (by decide)
@[simp] theorem setLine_pipes (s : State) (id : Nat) (on : Bool) : (setLine s id on).pipes = s.pipes := 
  Only.setLine (fr := [.regs, .owed, .crier, .flt]) _ _ _ (Only.refl s) (by decide) (by decide) (by decide) (by decide) .pipes (by decide)
@[simp] theorem setLine_tables (s : State) (id : Nat) (on : Bool) : (setLine s id on).tables = s.tables := 
  Only.setLine (fr := [.regs, .owed, .crier, .flt]) _ _ _ (Only.refl s) (by decide) (by decide) (by decide) (by decide) .tables (by decide)
@[simp] theorem setLine_clerk (s : State) (id : Nat) (on : Bool) : (setLine s id on).clerk = s.clerk := 
  Only.setLine (fr := [.regs, .owed, .crier, .flt]) _ _ _ (Only.refl s) (by decide) (by decide) (by decide) (by decide) .clerk (by decide)
@[simp] theorem setLine_market (s : State) (id : Nat) (on : Bool) : (setLine s id on).market = s.market := 
  Only.setLine (fr := [.regs, .owed, .crier, .flt]) _ _ _ (Only.refl s) (by decide) (by decide) (by decide) (by decide) .market (by decide)
@[simp] theorem setLine_spill (s : State) (id : Nat) (on : Bool) : (setLine s id on).spill = s.spill := 
  Only.setLine (fr := [.regs, .owed, .crier, .flt]) _ _ _ (Only.refl s) (by decide) (by decide) (by decide) (by decide) .spill (by decide)
@[simp] theorem setLine_sched (s : State) (id : Nat) (on : Bool) : (setLine s id on).sched = s.sched := 
  Only.setLine (fr := [.regs, .owed, .crier, .flt]) _ _ _ (Only.refl s) (by decide) (by decide) (by decide) (by decide) .sched (by decide)
@[simp] theorem setLine_slots (s : State) (id : Nat) (on : Bool) : (setLine s id on).slots = s.slots := 
  Only.setLine (fr := [.regs, .owed, .crier, .flt]) _ _ _ (Only.refl s) (by decide) (by decide) (by decide) (by decide) .slots (by decide)
@[simp] theorem setLine_pulses (s : State) (id : Nat) (on : Bool) : (setLine s id on).pulses = s.pulses := 
  Only.setLine (fr := [.regs, .owed, .crier, .flt]) _ _ _ (Only.refl s) (by decide) (by decide) (by decide) (by decide) .pulses (by decide)
@[simp] theorem setLine_ainum (s : State) (id : Nat) (on : Bool) : (setLine s id on).ainum = s.ainum := 
  Only.setLine (fr := [.regs, .owed, .crier, .flt]) _ _ _ (Only.refl s) (by decide) (by decide) (by decide) (by decide) .ainum (by decide)
@[simp] theorem setLine_telem (s : State) (id : Nat) (on : Bool) : (setLine s id on).telem = s.telem := 
  Only.setLine (fr := [.regs, .owed, .crier, .flt]) _ _ _ (Only.refl s) (by decide) (by decide) (by decide) (by decide) .telem (by decide)
@[simp] theorem setLine_scales (s : State) (id : Nat) (on : Bool) : (setLine s id on).scales = s.scales := 
  Only.setLine (fr := [.regs, .owed, .crier, .flt]) _ _ _ (Only.refl s) (by decide) (by decide) (by decide) (by decide) .scales (by decide)
@[simp] theorem setLine_activity (s : State) (id : Nat) (on : Bool) : (setLine s id on).activity = s.activity := 
  Only.setLine (fr := [.regs, .owed, .crier, .flt]) _ _ _ (Only.refl s) (by decide) (by decide) (by decide) (by decide) .activity (by decide)
@[simp] theorem setLine_bays (s : State) (id : Nat) (on : Bool) : (setLine s id on).bays = s.bays := 
  Only.setLine (fr := [.regs, .owed, .crier, .flt]) _ _ _ (Only.refl s) (by decide) (by decide) (by decide) (by decide) .bays (by decide)
@[simp] theorem setLine_sec (s : State) (id : Nat) (on : Bool) : (setLine s id on).sec = s.sec := 
  Only.setLine (fr := [.regs, .owed, .crier, .flt]) _ _ _ (Only.refl s) (by decide) (by decide) (by decide) (by decide) .sec (by decide)
@[simp] theorem setLine_out (s : State) (id : Nat) (on : Bool) : (setLine s id on).out = s.out := 
  Only.setLine (fr := [.regs, .owed, .crier, .flt]) _ _ _ (Only.refl s) (by decide) (by decide) (by decide) (by decide) .out (by decide)

@[simp] theorem faultRecord_pending (s : State) (id access requester address syndrome : Nat) : (faultRecord s id access requester address syndrome).pending = s.pending := 
  Only.faultRecord (fr := [.regs, .journal, .owed, .crier, .flt]) _ _ _ _ _ _ (Only.refl s) (by decide) (by decide) (by decide) (by decide) (by decide) .pending (by decide)
@[simp] theorem faultRecord_prog (s : State) (id access requester address syndrome : Nat) : (faultRecord s id access requester address syndrome).prog = s.prog := 
  Only.faultRecord (fr := [.regs, .journal, .owed, .crier, .flt]) _ _ _ _ _ _ (Only.refl s) (by decide) (by decide) (by decide) (by decide) (by decide) .prog (by decide)
@[simp] theorem faultRecord_clock (s : State) (id access requester address syndrome : Nat) : (faultRecord s id access requester address syndrome).clock = s.clock := 
  Only.faultRecord (fr := [.regs, .journal, .owed, .crier, .flt]) _ _ _ _ _ _ (Only.refl s) (by decide) (by decide) (by decide) (by decide) (by decide) .clock (by decide)
@[simp] theorem faultRecord_elapsed (s : State) (id access requester address syndrome : Nat) : (faultRecord s id access requester address syndrome).elapsed = s.elapsed := 
  Only.faultRecord (fr := [.regs, .journal, .owed, .crier, .flt]) _ _ _ _ _ _ (Only.refl s) (by decide) (by decide) (by decide) (by decide) (by decide) .elapsed (by decide)
@[simp] theorem faultRecord_freeCtr (s : State) (id access requester address syndrome : Nat) : (faultRecord s id access requester address syndrome).freeCtr = s.freeCtr := 
  Only.faultRecord (fr := [.regs, .journal, .owed, .crier, .flt]) _ _ _ _ _ _ (Only.refl s) (by decide) (by decide) (by decide) (by decide) (by decide) .freeCtr (by decide)
@[simp] theorem faultRecord_lastRaise (s : State) (id access requester address syndrome : Nat) : (faultRecord s id access requester address syndrome).lastRaise = s.lastRaise := 
  Only.faultRecord (fr := [.regs, .journal, .owed, .crier, .flt]) _ _ _ _ _ _ (Only.refl s) (by decide) (by decide) (by decide) (by decide) (by decide) .lastRaise (by decide)
@[simp] theorem faultRecord_top (s : State) (id access requester address syndrome : Nat) : (faultRecord s id access requester address syndrome).top = s.top := 
  Only.faultRecord (fr := [.regs, .journal, .owed, .crier, .flt]) _ _ _ _ _ _ (Only.refl s) (by decide) (by decide) (by decide) (by decide) (by decide) .top (by decide)
@[simp] theorem faultRecord_hif (s : State) (id access requester address syndrome : Nat) : (faultRecord s id access requester address syndrome).hif = s.hif := 
  Only.faultRecord (fr := [.regs, .journal, .owed, .crier, .flt]) _ _ _ _ _ _ (Only.refl s) (by decide) (by decide) (by decide) (by decide) (by decide) .hif (by decide)
@[simp] theorem faultRecord_prg (s : State) (id access requester address syndrome : Nat) : (faultRecord s id access requester address syndrome).prg = s.prg := 
  Only.faultRecord (fr := [.regs, .journal, .owed, .crier, .flt]) _ _ _ _ _ _ (Only.refl s) (by decide) (by decide) (by decide) (by decide) (by decide) .prg (by decide)
@[simp] theorem faultRecord_ports (s : State) (id access requester address syndrome : Nat) : (faultRecord s id access requester address syndrome).ports = s.ports := 
  Only.faultRecord (fr := [.regs, .journal, .owed, .crier, .flt]) _ _ _ _ _ _ (Only.refl s) (by decide) (by decide) (by decide) (by decide) (by decide) .ports (by decide)
@[simp] theorem faultRecord_pipes (s : State) (id access requester address syndrome : Nat) : (faultRecord s id access requester address syndrome).pipes = s.pipes := 
  Only.faultRecord (fr := [.regs, .journal, .owed, .crier, .flt]) _ _ _ _ _ _ (Only.refl s) (by decide) (by decide) (by decide) (by decide) (by decide) .pipes (by decide)
@[simp] theorem faultRecord_tables (s : State) (id access requester address syndrome : Nat) : (faultRecord s id access requester address syndrome).tables = s.tables := 
  Only.faultRecord (fr := [.regs, .journal, .owed, .crier, .flt]) _ _ _ _ _ _ (Only.refl s) (by decide) (by decide) (by decide) (by decide) (by decide) .tables (by decide)
@[simp] theorem faultRecord_clerk (s : State) (id access requester address syndrome : Nat) : (faultRecord s id access requester address syndrome).clerk = s.clerk := 
  Only.faultRecord (fr := [.regs, .journal, .owed, .crier, .flt]) _ _ _ _ _ _ (Only.refl s) (by decide) (by decide) (by decide) (by decide) (by decide) .clerk (by decide)
@[simp] theorem faultRecord_market (s : State) (id access requester address syndrome : Nat) : (faultRecord s id access requester address syndrome).market = s.market := 
  Only.faultRecord (fr := [.regs, .journal, .owed, .crier, .flt]) _ _ _ _ _ _ (Only.refl s) (by decide) (by decide) (by decide) (by decide) (by decide) .market (by decide)
@[simp] theorem faultRecord_spill (s : State) (id access requester address syndrome : Nat) : (faultRecord s id access requester address syndrome).spill = s.spill := 
  Only.faultRecord (fr := [.regs, .journal, .owed, .crier, .flt]) _ _ _ _ _ _ (Only.refl s) (by decide) (by decide) (by decide) (by decide) (by decide) .spill (by decide)
@[simp] theorem faultRecord_sched (s : State) (id access requester address syndrome : Nat) : (faultRecord s id access requester address syndrome).sched = s.sched := 
  Only.faultRecord (fr := [.regs, .journal, .owed, .crier, .flt]) _ _ _ _ _ _ (Only.refl s) (by decide) (by decide) (by decide) (by decide) (by decide) .sched (by decide)
@[simp] theorem faultRecord_slots (s : State) (id access requester address syndrome : Nat) : (faultRecord s id access requester address syndrome).slots = s.slots := 
  Only.faultRecord (fr := [.regs, .journal, .owed, .crier, .flt]) _ _ _ _ _ _ (Only.refl s) (by decide) (by decide) (by decide) (by decide) (by decide) .slots (by decide)
@[simp] theorem faultRecord_pulses (s : State) (id access requester address syndrome : Nat) : (faultRecord s id access requester address syndrome).pulses = s.pulses := 
  Only.faultRecord (fr := [.regs, .journal, .owed, .crier, .flt]) _ _ _ _ _ _ (Only.refl s) (by decide) (by decide) (by decide) (by decide) (by decide) .pulses (by decide)
@[simp] theorem faultRecord_ainum (s : State) (id access requester address syndrome : Nat) : (faultRecord s id access requester address syndrome).ainum = s.ainum := 
  Only.faultRecord (fr := [.regs, .journal, .owed, .crier, .flt]) _ _ _ _ _ _ (Only.refl s) (by decide) (by decide) (by decide) (by decide) (by decide) .ainum (by decide)
@[simp] theorem faultRecord_telem (s : State) (id access requester address syndrome : Nat) : (faultRecord s id access requester address syndrome).telem = s.telem := 
  Only.faultRecord (fr := [.regs, .journal, .owed, .crier, .flt]) _ _ _ _ _ _ (Only.refl s) (by decide) (by decide) (by decide) (by decide) (by decide) .telem (by decide)
@[simp] theorem faultRecord_scales (s : State) (id access requester address syndrome : Nat) : (faultRecord s id access requester address syndrome).scales = s.scales := 
  Only.faultRecord (fr := [.regs, .journal, .owed, .crier, .flt]) _ _ _ _ _ _ (Only.refl s) (by decide) (by decide) (by decide) (by decide) (by decide) .scales (by decide)
@[simp] theorem faultRecord_activity (s : State) (id access requester address syndrome : Nat) : (faultRecord s id access requester address syndrome).activity = s.activity := 
  Only.faultRecord (fr := [.regs, .journal, .owed, .crier, .flt]) _ _ _ _ _ _ (Only.refl s) (by decide) (by decide) (by decide) (by decide) (by decide) .activity (by decide)
@[simp] theorem faultRecord_bays (s : State) (id access requester address syndrome : Nat) : (faultRecord s id access requester address syndrome).bays = s.bays := 
  Only.faultRecord (fr := [.regs, .journal, .owed, .crier, .flt]) _ _ _ _ _ _ (Only.refl s) (by decide) (by decide) (by decide) (by decide) (by decide) .bays (by decide)
@[simp] theorem faultRecord_sec (s : State) (id access requester address syndrome : Nat) : (faultRecord s id access requester address syndrome).sec = s.sec := 
  Only.faultRecord (fr := [.regs, .journal, .owed, .crier, .flt]) _ _ _ _ _ _ (Only.refl s) (by decide) (by decide) (by decide) (by decide) (by decide) .sec (by decide)
@[simp] theorem faultRecord_out (s : State) (id access requester address syndrome : Nat) : (faultRecord s id access requester address syndrome).out = s.out := 
  Only.faultRecord (fr := [.regs, .journal, .owed, .crier, .flt]) _ _ _ _ _ _ (Only.refl s) (by decide) (by decide) (by decide) (by decide) (by decide) .out (by decide)

@[simp] theorem fault_pending (s : State) (id access requester address syndrome : Nat) : (fault s id access requester address syndrome).pending = s.pending := 
  Only.fault (fr := [.regs, .journal, .owed, .crier, .flt]) _ _ _ _ _ _ (Only.refl s) (by decide) (by decide) (by decide) (by decide) (by decide) .pending (by decide)
@[simp] theorem fault_prog (s : State) (id access requester address syndrome : Nat) : (fault s id access requester address syndrome).prog = s.prog := 
  Only.fault (fr := [.regs, .journal, .owed, .crier, .flt]) _ _ _ _ _ _ (Only.refl s) (by decide) (by decide) (by decide) (by decide) (by decide) .prog (by decide)
@[simp] theorem fault_clock (s : State) (id access requester address syndrome : Nat) : (fault s id access requester address syndrome).clock = s.clock := 
  Only.fault (fr := [.regs, .journal, .owed, .crier, .flt]) _ _ _ _ _ _ (Only.refl s) (by decide) (by decide) (by decide) (by decide) (by decide) .clock (by decide)
@[simp] theorem fault_elapsed (s : State) (id access requester address syndrome : Nat) : (fault s id access requester address syndrome).elapsed = s.elapsed := 
  Only.fault (fr := [.regs, .journal, .owed, .crier, .flt]) _ _ _ _ _ _ (Only.refl s) (by decide) (by decide) (by decide) (by decide) (by decide) .elapsed (by decide)
@[simp] theorem fault_freeCtr (s : State) (id access requester address syndrome : Nat) : (fault s id access requester address syndrome).freeCtr = s.freeCtr := 
  Only.fault (fr := [.regs, .journal, .owed, .crier, .flt]) _ _ _ _ _ _ (Only.refl s) (by decide) (by decide) (by decide) (by decide) (by decide) .freeCtr (by decide)
@[simp] theorem fault_lastRaise (s : State) (id access requester address syndrome : Nat) : (fault s id access requester address syndrome).lastRaise = s.lastRaise := 
  Only.fault (fr := [.regs, .journal, .owed, .crier, .flt]) _ _ _ _ _ _ (Only.refl s) (by decide) (by decide) (by decide) (by decide) (by decide) .lastRaise (by decide)
@[simp] theorem fault_top (s : State) (id access requester address syndrome : Nat) : (fault s id access requester address syndrome).top = s.top := 
  Only.fault (fr := [.regs, .journal, .owed, .crier, .flt]) _ _ _ _ _ _ (Only.refl s) (by decide) (by decide) (by decide) (by decide) (by decide) .top (by decide)
@[simp] theorem fault_hif (s : State) (id access requester address syndrome : Nat) : (fault s id access requester address syndrome).hif = s.hif := 
  Only.fault (fr := [.regs, .journal, .owed, .crier, .flt]) _ _ _ _ _ _ (Only.refl s) (by decide) (by decide) (by decide) (by decide) (by decide) .hif (by decide)
@[simp] theorem fault_prg (s : State) (id access requester address syndrome : Nat) : (fault s id access requester address syndrome).prg = s.prg := 
  Only.fault (fr := [.regs, .journal, .owed, .crier, .flt]) _ _ _ _ _ _ (Only.refl s) (by decide) (by decide) (by decide) (by decide) (by decide) .prg (by decide)
@[simp] theorem fault_ports (s : State) (id access requester address syndrome : Nat) : (fault s id access requester address syndrome).ports = s.ports := 
  Only.fault (fr := [.regs, .journal, .owed, .crier, .flt]) _ _ _ _ _ _ (Only.refl s) (by decide) (by decide) (by decide) (by decide) (by decide) .ports (by decide)
@[simp] theorem fault_pipes (s : State) (id access requester address syndrome : Nat) : (fault s id access requester address syndrome).pipes = s.pipes := 
  Only.fault (fr := [.regs, .journal, .owed, .crier, .flt]) _ _ _ _ _ _ (Only.refl s) (by decide) (by decide) (by decide) (by decide) (by decide) .pipes (by decide)
@[simp] theorem fault_tables (s : State) (id access requester address syndrome : Nat) : (fault s id access requester address syndrome).tables = s.tables := 
  Only.fault (fr := [.regs, .journal, .owed, .crier, .flt]) _ _ _ _ _ _ (Only.refl s) (by decide) (by decide) (by decide) (by decide) (by decide) .tables (by decide)
@[simp] theorem fault_clerk (s : State) (id access requester address syndrome : Nat) : (fault s id access requester address syndrome).clerk = s.clerk := 
  Only.fault (fr := [.regs, .journal, .owed, .crier, .flt]) _ _ _ _ _ _ (Only.refl s) (by decide) (by decide) (by decide) (by decide) (by decide) .clerk (by decide)
@[simp] theorem fault_market (s : State) (id access requester address syndrome : Nat) : (fault s id access requester address syndrome).market = s.market := 
  Only.fault (fr := [.regs, .journal, .owed, .crier, .flt]) _ _ _ _ _ _ (Only.refl s) (by decide) (by decide) (by decide) (by decide) (by decide) .market (by decide)
@[simp] theorem fault_spill (s : State) (id access requester address syndrome : Nat) : (fault s id access requester address syndrome).spill = s.spill := 
  Only.fault (fr := [.regs, .journal, .owed, .crier, .flt]) _ _ _ _ _ _ (Only.refl s) (by decide) (by decide) (by decide) (by decide) (by decide) .spill (by decide)
@[simp] theorem fault_sched (s : State) (id access requester address syndrome : Nat) : (fault s id access requester address syndrome).sched = s.sched := 
  Only.fault (fr := [.regs, .journal, .owed, .crier, .flt]) _ _ _ _ _ _ (Only.refl s) (by decide) (by decide) (by decide) (by decide) (by decide) .sched (by decide)
@[simp] theorem fault_slots (s : State) (id access requester address syndrome : Nat) : (fault s id access requester address syndrome).slots = s.slots := 
  Only.fault (fr := [.regs, .journal, .owed, .crier, .flt]) _ _ _ _ _ _ (Only.refl s) (by decide) (by decide) (by decide) (by decide) (by decide) .slots (by decide)
@[simp] theorem fault_pulses (s : State) (id access requester address syndrome : Nat) : (fault s id access requester address syndrome).pulses = s.pulses := 
  Only.fault (fr := [.regs, .journal, .owed, .crier, .flt]) _ _ _ _ _ _ (Only.refl s) (by decide) (by decide) (by decide) (by decide) (by decide) .pulses (by decide)
@[simp] theorem fault_ainum (s : State) (id access requester address syndrome : Nat) : (fault s id access requester address syndrome).ainum = s.ainum := 
  Only.fault (fr := [.regs, .journal, .owed, .crier, .flt]) _ _ _ _ _ _ (Only.refl s) (by decide) (by decide) (by decide) (by decide) (by decide) .ainum (by decide)
@[simp] theorem fault_telem (s : State) (id access requester address syndrome : Nat) : (fault s id access requester address syndrome).telem = s.telem := 
  Only.fault (fr := [.regs, .journal, .owed, .crier, .flt]) _ _ _ _ _ _ (Only.refl s) (by decide) (by decide) (by decide) (by decide) (by decide) .telem (by decide)
@[simp] theorem fault_scales (s : State) (id access requester address syndrome : Nat) : (fault s id access requester address syndrome).scales = s.scales := 
  Only.fault (fr := [.regs, .journal, .owed, .crier, .flt]) _ _ _ _ _ _ (Only.refl s) (by decide) (by decide) (by decide) (by decide) (by decide) .scales (by decide)
@[simp] theorem fault_activity (s : State) (id access requester address syndrome : Nat) : (fault s id access requester address syndrome).activity = s.activity := 
  Only.fault (fr := [.regs, .journal, .owed, .crier, .flt]) _ _ _ _ _ _ (Only.refl s) (by decide) (by decide) (by decide) (by decide) (by decide) .activity (by decide)
@[simp] theorem fault_bays (s : State) (id access requester address syndrome : Nat) : (fault s id access requester address syndrome).bays = s.bays := 
  Only.fault (fr := [.regs, .journal, .owed, .crier, .flt]) _ _ _ _ _ _ (Only.refl s) (by decide) (by decide) (by decide) (by decide) (by decide) .bays (by decide)
@[simp] theorem fault_sec (s : State) (id access requester address syndrome : Nat) : (fault s id access requester address syndrome).sec = s.sec := 
  Only.fault (fr := [.regs, .journal, .owed, .crier, .flt]) _ _ _ _ _ _ (Only.refl s) (by decide) (by decide) (by decide) (by decide) (by decide) .sec (by decide)
@[simp] theorem fault_out (s : State) (id access requester address syndrome : Nat) : (fault s id access requester address syndrome).out = s.out := 
  Only.fault (fr := [.regs, .journal, .owed, .crier, .flt]) _ _ _ _ _ _ (Only.refl s) (by decide) (by decide) (by decide) (by decide) (by decide) .out (by decide)

@[simp] theorem setBringup_pending (s : State) (i : Nat) : (setBringup s i).pending = s.pending := 
  Only.setBringup (fr := [.regs, .owed, .crier, .flt]) _ _ (Only.refl s) (by decide) (by decide) (by decide) (by decide) .pending (by decide)
@[simp] theorem setBringup_prog (s : State) (i : Nat) : (setBringup s i).prog = s.prog := 
  Only.setBringup (fr := [.regs, .owed, .crier, .flt]) _ _ (Only.refl s) (by decide) (by decide) (by decide) (by decide) .prog (by decide)
@[simp] theorem setBringup_clock (s : State) (i : Nat) : (setBringup s i).clock = s.clock := 
  Only.setBringup (fr := [.regs, .owed, .crier, .flt]) _ _ (Only.refl s) (by decide) (by decide) (by decide) (by decide) .clock (by decide)
@[simp] theorem setBringup_elapsed (s : State) (i : Nat) : (setBringup s i).elapsed = s.elapsed := 
  Only.setBringup (fr := [.regs, .owed, .crier, .flt]) _ _ (Only.refl s) (by decide) (by decide) (by decide) (by decide) .elapsed (by decide)
@[simp] theorem setBringup_freeCtr (s : State) (i : Nat) : (setBringup s i).freeCtr = s.freeCtr := 
  Only.setBringup (fr := [.regs, .owed, .crier, .flt]) _ _ (Only.refl s) (by decide) (by decide) (by decide) (by decide) .freeCtr (by decide)
@[simp] theorem setBringup_journal (s : State) (i : Nat) : (setBringup s i).journal = s.journal := 
  Only.setBringup (fr := [.regs, .owed, .crier, .flt]) _ _ (Only.refl s) (by decide) (by decide) (by decide) (by decide) .journal (by decide)
@[simp] theorem setBringup_lastRaise (s : State) (i : Nat) : (setBringup s i).lastRaise = s.lastRaise := 
  Only.setBringup (fr := [.regs, .owed, .crier, .flt]) _ _ (Only.refl s) (by decide) (by decide) (by decide) (by decide) .lastRaise (by decide)
@[simp] theorem setBringup_top (s : State) (i : Nat) : (setBringup s i).top = s.top := 
  Only.setBringup (fr := [.regs, .owed, .crier, .flt]) _ _ (Only.refl s) (by decide) (by decide) (by decide) (by decide) .top (by decide)
@[simp] theorem setBringup_hif (s : State) (i : Nat) : (setBringup s i).hif = s.hif := 
  Only.setBringup (fr := [.regs, .owed, .crier, .flt]) _ _ (Only.refl s) (by decide) (by decide) (by decide) (by decide) .hif (by decide)
@[simp] theorem setBringup_prg (s : State) (i : Nat) : (setBringup s i).prg = s.prg := 
  Only.setBringup (fr := [.regs, .owed, .crier, .flt]) _ _ (Only.refl s) (by decide) (by decide) (by decide) (by decide) .prg (by decide)
@[simp] theorem setBringup_ports (s : State) (i : Nat) : (setBringup s i).ports = s.ports := 
  Only.setBringup (fr := [.regs, .owed, .crier, .flt]) _ _ (Only.refl s) (by decide) (by decide) (by decide) (by decide) .ports (by decide)
@[simp] theorem setBringup_pipes (s : State) (i : Nat) : (setBringup s i).pipes = s.pipes := 
  Only.setBringup (fr := [.regs, .owed, .crier, .flt]) _ _ (Only.refl s) (by decide) (by decide) (by decide) (by decide) .pipes (by decide)
@[simp] theorem setBringup_tables (s : State) (i : Nat) : (setBringup s i).tables = s.tables := 
  Only.setBringup (fr := [.regs, .owed, .crier, .flt]) _ _ (Only.refl s) (by decide) (by decide) (by decide) (by decide) .tables (by decide)
@[simp] theorem setBringup_clerk (s : State) (i : Nat) : (setBringup s i).clerk = s.clerk := 
  Only.setBringup (fr := [.regs, .owed, .crier, .flt]) _ _ (Only.refl s) (by decide) (by decide) (by decide) (by decide) .clerk (by decide)
@[simp] theorem setBringup_market (s : State) (i : Nat) : (setBringup s i).market = s.market := 
  Only.setBringup (fr := [.regs, .owed, .crier, .flt]) _ _ (Only.refl s) (by decide) (by decide) (by decide) (by decide) .market (by decide)
@[simp] theorem setBringup_spill (s : State) (i : Nat) : (setBringup s i).spill = s.spill := 
  Only.setBringup (fr := [.regs, .owed, .crier, .flt]) _ _ (Only.refl s) (by decide) (by decide) (by decide) (by decide) .spill (by decide)
@[simp] theorem setBringup_sched (s : State) (i : Nat) : (setBringup s i).sched = s.sched := 
  Only.setBringup (fr := [.regs, .owed, .crier, .flt]) _ _ (Only.refl s) (by decide) (by decide) (by decide) (by decide) .sched (by decide)
@[simp] theorem setBringup_slots (s : State) (i : Nat) : (setBringup s i).slots = s.slots := 
  Only.setBringup (fr := [.regs, .owed, .crier, .flt]) _ _ (Only.refl s) (by decide) (by decide) (by decide) (by decide) .slots (by decide)
@[simp] theorem setBringup_pulses (s : State) (i : Nat) : (setBringup s i).pulses = s.pulses := 
  Only.setBringup (fr := [.regs, .owed, .crier, .flt]) _ _ (Only.refl s) (by decide) (by decide) (by decide) (by decide) .pulses (by decide)
@[simp] theorem setBringup_ainum (s : State) (i : Nat) : (setBringup s i).ainum = s.ainum := 
  Only.setBringup (fr := [.regs, .owed, .crier, .flt]) _ _ (Only.refl s) (by decide) (by decide) (by decide) (by decide) .ainum (by decide)
@[simp] theorem setBringup_telem (s : State) (i : Nat) : (setBringup s i).telem = s.telem := 
  Only.setBringup (fr := [.regs, .owed, .crier, .flt]) _ _ (Only.refl s) (by decide) (by decide) (by decide) (by decide) .telem (by decide)
@[simp] theorem setBringup_scales (s : State) (i : Nat) : (setBringup s i).scales = s.scales := 
  Only.setBringup (fr := [.regs, .owed, .crier, .flt]) _ _ (Only.refl s) (by decide) (by decide) (by decide) (by decide) .scales (by decide)
@[simp] theorem setBringup_activity (s : State) (i : Nat) : (setBringup s i).activity = s.activity := 
  Only.setBringup (fr := [.regs, .owed, .crier, .flt]) _ _ (Only.refl s) (by decide) (by decide) (by decide) (by decide) .activity (by decide)
@[simp] theorem setBringup_bays (s : State) (i : Nat) : (setBringup s i).bays = s.bays := 
  Only.setBringup (fr := [.regs, .owed, .crier, .flt]) _ _ (Only.refl s) (by decide) (by decide) (by decide) (by decide) .bays (by decide)
@[simp] theorem setBringup_sec (s : State) (i : Nat) : (setBringup s i).sec = s.sec := 
  Only.setBringup (fr := [.regs, .owed, .crier, .flt]) _ _ (Only.refl s) (by decide) (by decide) (by decide) (by decide) .sec (by decide)
@[simp] theorem setBringup_out (s : State) (i : Nat) : (setBringup s i).out = s.out := 
  Only.setBringup (fr := [.regs, .owed, .crier, .flt]) _ _ (Only.refl s) (by decide) (by decide) (by decide) (by decide) .out (by decide)

@[simp] theorem clearBringup_pending (s : State) (i : Nat) : (clearBringup s i).pending = s.pending := rfl
@[simp] theorem clearBringup_prog (s : State) (i : Nat) : (clearBringup s i).prog = s.prog := rfl
@[simp] theorem clearBringup_clock (s : State) (i : Nat) : (clearBringup s i).clock = s.clock := rfl
@[simp] theorem clearBringup_elapsed (s : State) (i : Nat) : (clearBringup s i).elapsed = s.elapsed := rfl
@[simp] theorem clearBringup_freeCtr (s : State) (i : Nat) : (clearBringup s i).freeCtr = s.freeCtr := rfl
@[simp] theorem clearBringup_journal (s : State) (i : Nat) : (clearBringup s i).journal = s.journal := rfl
@[simp] theorem clearBringup_owed (s : State) (i : Nat) : (clearBringup s i).owed = s.owed := rfl
@[simp] theorem clearBringup_lastRaise (s : State) (i : Nat) : (clearBringup s i).lastRaise = s.lastRaise := rfl
@[simp] theorem clearBringup_top (s : State) (i : Nat) : (clearBringup s i).top = s.top := rfl
@[simp] theorem clearBringup_hif (s : State) (i : Nat) : (clearBringup s i).hif = s.hif := rfl
@[simp] theorem clearBringup_prg (s : State) (i : Nat) : (clearBringup s i).prg = s.prg := rfl
@[simp] theorem clearBringup_ports (s : State) (i : Nat) : (clearBringup s i).ports = s.ports := rfl
@[simp] theorem clearBringup_pipes (s : State) (i : Nat) : (clearBringup s i).pipes = s.pipes := rfl
@[simp] theorem clearBringup_tables (s : State) (i : Nat) : (clearBringup s i).tables = s.tables := rfl
@[simp] theorem clearBringup_clerk (s : State) (i : Nat) : (clearBringup s i).clerk = s.clerk := rfl
@[simp] theorem clearBringup_market (s : State) (i : Nat) : (clearBringup s i).market = s.market := rfl
@[simp] theorem clearBringup_spill (s : State) (i : Nat) : (clearBringup s i).spill = s.spill := rfl
@[simp] theorem clearBringup_sched (s : State) (i : Nat) : (clearBringup s i).sched = s.sched := rfl
@[simp] theorem clearBringup_slots (s : State) (i : Nat) : (clearBringup s i).slots = s.slots := rfl
@[simp] theorem clearBringup_pulses (s : State) (i : Nat) : (clearBringup s i).pulses = s.pulses := rfl
@[simp] theorem clearBringup_ainum (s : State) (i : Nat) : (clearBringup s i).ainum = s.ainum := rfl
@[simp] theorem clearBringup_telem (s : State) (i : Nat) : (clearBringup s i).telem = s.telem := rfl
@[simp] theorem clearBringup_crier (s : State) (i : Nat) : (clearBringup s i).crier = s.crier := rfl
@[simp] theorem clearBringup_flt (s : State) (i : Nat) : (clearBringup s i).flt = s.flt := rfl
@[simp] theorem clearBringup_scales (s : State) (i : Nat) : (clearBringup s i).scales = s.scales := rfl
@[simp] theorem clearBringup_activity (s : State) (i : Nat) : (clearBringup s i).activity = s.activity := rfl
@[simp] theorem clearBringup_bays (s : State) (i : Nat) : (clearBringup s i).bays = s.bays := rfl
@[simp] theorem clearBringup_sec (s : State) (i : Nat) : (clearBringup s i).sec = s.sec := rfl
@[simp] theorem clearBringup_out (s : State) (i : Nat) : (clearBringup s i).out = s.out := rfl

@[simp] theorem complete_pending (s : State) (c : HostCmd) (status : Nat) (result : List Byte) : (complete s c status result).pending = s.pending := 
  Only.complete (fr := [.regs, .owed, .hif, .crier, .flt]) _ _ _ _ (Only.refl s) (by decide) (by decide) (by decide) (by decide) (by decide) .pending (by decide)
@[simp] theorem complete_prog (s : State) (c : HostCmd) (status : Nat) (result : List Byte) : (complete s c status result).prog = s.prog := 
  Only.complete (fr := [.regs, .owed, .hif, .crier, .flt]) _ _ _ _ (Only.refl s) (by decide) (by decide) (by decide) (by decide) (by decide) .prog (by decide)
@[simp] theorem complete_clock (s : State) (c : HostCmd) (status : Nat) (result : List Byte) : (complete s c status result).clock = s.clock := 
  Only.complete (fr := [.regs, .owed, .hif, .crier, .flt]) _ _ _ _ (Only.refl s) (by decide) (by decide) (by decide) (by decide) (by decide) .clock (by decide)
@[simp] theorem complete_elapsed (s : State) (c : HostCmd) (status : Nat) (result : List Byte) : (complete s c status result).elapsed = s.elapsed := 
  Only.complete (fr := [.regs, .owed, .hif, .crier, .flt]) _ _ _ _ (Only.refl s) (by decide) (by decide) (by decide) (by decide) (by decide) .elapsed (by decide)
@[simp] theorem complete_freeCtr (s : State) (c : HostCmd) (status : Nat) (result : List Byte) : (complete s c status result).freeCtr = s.freeCtr := 
  Only.complete (fr := [.regs, .owed, .hif, .crier, .flt]) _ _ _ _ (Only.refl s) (by decide) (by decide) (by decide) (by decide) (by decide) .freeCtr (by decide)
@[simp] theorem complete_journal (s : State) (c : HostCmd) (status : Nat) (result : List Byte) : (complete s c status result).journal = s.journal := 
  Only.complete (fr := [.regs, .owed, .hif, .crier, .flt]) _ _ _ _ (Only.refl s) (by decide) (by decide) (by decide) (by decide) (by decide) .journal (by decide)
@[simp] theorem complete_lastRaise (s : State) (c : HostCmd) (status : Nat) (result : List Byte) : (complete s c status result).lastRaise = s.lastRaise := 
  Only.complete (fr := [.regs, .owed, .hif, .crier, .flt]) _ _ _ _ (Only.refl s) (by decide) (by decide) (by decide) (by decide) (by decide) .lastRaise (by decide)
@[simp] theorem complete_top (s : State) (c : HostCmd) (status : Nat) (result : List Byte) : (complete s c status result).top = s.top := 
  Only.complete (fr := [.regs, .owed, .hif, .crier, .flt]) _ _ _ _ (Only.refl s) (by decide) (by decide) (by decide) (by decide) (by decide) .top (by decide)
@[simp] theorem complete_prg (s : State) (c : HostCmd) (status : Nat) (result : List Byte) : (complete s c status result).prg = s.prg := 
  Only.complete (fr := [.regs, .owed, .hif, .crier, .flt]) _ _ _ _ (Only.refl s) (by decide) (by decide) (by decide) (by decide) (by decide) .prg (by decide)
@[simp] theorem complete_ports (s : State) (c : HostCmd) (status : Nat) (result : List Byte) : (complete s c status result).ports = s.ports := 
  Only.complete (fr := [.regs, .owed, .hif, .crier, .flt]) _ _ _ _ (Only.refl s) (by decide) (by decide) (by decide) (by decide) (by decide) .ports (by decide)
@[simp] theorem complete_pipes (s : State) (c : HostCmd) (status : Nat) (result : List Byte) : (complete s c status result).pipes = s.pipes := 
  Only.complete (fr := [.regs, .owed, .hif, .crier, .flt]) _ _ _ _ (Only.refl s) (by decide) (by decide) (by decide) (by decide) (by decide) .pipes (by decide)
@[simp] theorem complete_tables (s : State) (c : HostCmd) (status : Nat) (result : List Byte) : (complete s c status result).tables = s.tables := 
  Only.complete (fr := [.regs, .owed, .hif, .crier, .flt]) _ _ _ _ (Only.refl s) (by decide) (by decide) (by decide) (by decide) (by decide) .tables (by decide)
@[simp] theorem complete_clerk (s : State) (c : HostCmd) (status : Nat) (result : List Byte) : (complete s c status result).clerk = s.clerk := 
  Only.complete (fr := [.regs, .owed, .hif, .crier, .flt]) _ _ _ _ (Only.refl s) (by decide) (by decide) (by decide) (by decide) (by decide) .clerk (by decide)
@[simp] theorem complete_market (s : State) (c : HostCmd) (status : Nat) (result : List Byte) : (complete s c status result).market = s.market := 
  Only.complete (fr := [.regs, .owed, .hif, .crier, .flt]) _ _ _ _ (Only.refl s) (by decide) (by decide) (by decide) (by decide) (by decide) .market (by decide)
@[simp] theorem complete_spill (s : State) (c : HostCmd) (status : Nat) (result : List Byte) : (complete s c status result).spill = s.spill := 
  Only.complete (fr := [.regs, .owed, .hif, .crier, .flt]) _ _ _ _ (Only.refl s) (by decide) (by decide) (by decide) (by decide) (by decide) .spill (by decide)
@[simp] theorem complete_sched (s : State) (c : HostCmd) (status : Nat) (result : List Byte) : (complete s c status result).sched = s.sched := 
  Only.complete (fr := [.regs, .owed, .hif, .crier, .flt]) _ _ _ _ (Only.refl s) (by decide) (by decide) (by decide) (by decide) (by decide) .sched (by decide)
@[simp] theorem complete_slots (s : State) (c : HostCmd) (status : Nat) (result : List Byte) : (complete s c status result).slots = s.slots := 
  Only.complete (fr := [.regs, .owed, .hif, .crier, .flt]) _ _ _ _ (Only.refl s) (by decide) (by decide) (by decide) (by decide) (by decide) .slots (by decide)
@[simp] theorem complete_pulses (s : State) (c : HostCmd) (status : Nat) (result : List Byte) : (complete s c status result).pulses = s.pulses := 
  Only.complete (fr := [.regs, .owed, .hif, .crier, .flt]) _ _ _ _ (Only.refl s) (by decide) (by decide) (by decide) (by decide) (by decide) .pulses (by decide)
@[simp] theorem complete_ainum (s : State) (c : HostCmd) (status : Nat) (result : List Byte) : (complete s c status result).ainum = s.ainum := 
  Only.complete (fr := [.regs, .owed, .hif, .crier, .flt]) _ _ _ _ (Only.refl s) (by decide) (by decide) (by decide) (by decide) (by decide) .ainum (by decide)
@[simp] theorem complete_telem (s : State) (c : HostCmd) (status : Nat) (result : List Byte) : (complete s c status result).telem = s.telem := 
  Only.complete (fr := [.regs, .owed, .hif, .crier, .flt]) _ _ _ _ (Only.refl s) (by decide) (by decide) (by decide) (by decide) (by decide) .telem (by decide)
@[simp] theorem complete_scales (s : State) (c : HostCmd) (status : Nat) (result : List Byte) : (complete s c status result).scales = s.scales := 
  Only.complete (fr := [.regs, .owed, .hif, .crier, .flt]) _ _ _ _ (Only.refl s) (by decide) (by decide) (by decide) (by decide) (by decide) .scales (by decide)
@[simp] theorem complete_activity (s : State) (c : HostCmd) (status : Nat) (result : List Byte) : (complete s c status result).activity = s.activity := 
  Only.complete (fr := [.regs, .owed, .hif, .crier, .flt]) _ _ _ _ (Only.refl s) (by decide) (by decide) (by decide) (by decide) (by decide) .activity (by decide)
@[simp] theorem complete_bays (s : State) (c : HostCmd) (status : Nat) (result : List Byte) : (complete s c status result).bays = s.bays := 
  Only.complete (fr := [.regs, .owed, .hif, .crier, .flt]) _ _ _ _ (Only.refl s) (by decide) (by decide) (by decide) (by decide) (by decide) .bays (by decide)
@[simp] theorem complete_sec (s : State) (c : HostCmd) (status : Nat) (result : List Byte) : (complete s c status result).sec = s.sec := 
  Only.complete (fr := [.regs, .owed, .hif, .crier, .flt]) _ _ _ _ (Only.refl s) (by decide) (by decide) (by decide) (by decide) (by decide) .sec (by decide)
@[simp] theorem complete_out (s : State) (c : HostCmd) (status : Nat) (result : List Byte) : (complete s c status result).out = s.out := 
  Only.complete (fr := [.regs, .owed, .hif, .crier, .flt]) _ _ _ _ (Only.refl s) (by decide) (by decide) (by decide) (by decide) (by decide) .out (by decide)

@[simp] theorem notify_pending (s : State) (n kind : Nat) (payload : List Byte) : (notify s n kind payload).pending = s.pending := 
  Only.notify (fr := [.hif]) _ _ _ _ (Only.refl s) (by decide) .pending (by decide)
@[simp] theorem notify_regs (s : State) (n kind : Nat) (payload : List Byte) : (notify s n kind payload).regs = s.regs := 
  Only.notify (fr := [.hif]) _ _ _ _ (Only.refl s) (by decide) .regs (by decide)
@[simp] theorem notify_prog (s : State) (n kind : Nat) (payload : List Byte) : (notify s n kind payload).prog = s.prog := 
  Only.notify (fr := [.hif]) _ _ _ _ (Only.refl s) (by decide) .prog (by decide)
@[simp] theorem notify_clock (s : State) (n kind : Nat) (payload : List Byte) : (notify s n kind payload).clock = s.clock := 
  Only.notify (fr := [.hif]) _ _ _ _ (Only.refl s) (by decide) .clock (by decide)
@[simp] theorem notify_elapsed (s : State) (n kind : Nat) (payload : List Byte) : (notify s n kind payload).elapsed = s.elapsed := 
  Only.notify (fr := [.hif]) _ _ _ _ (Only.refl s) (by decide) .elapsed (by decide)
@[simp] theorem notify_freeCtr (s : State) (n kind : Nat) (payload : List Byte) : (notify s n kind payload).freeCtr = s.freeCtr := 
  Only.notify (fr := [.hif]) _ _ _ _ (Only.refl s) (by decide) .freeCtr (by decide)
@[simp] theorem notify_journal (s : State) (n kind : Nat) (payload : List Byte) : (notify s n kind payload).journal = s.journal := 
  Only.notify (fr := [.hif]) _ _ _ _ (Only.refl s) (by decide) .journal (by decide)
@[simp] theorem notify_owed (s : State) (n kind : Nat) (payload : List Byte) : (notify s n kind payload).owed = s.owed := 
  Only.notify (fr := [.hif]) _ _ _ _ (Only.refl s) (by decide) .owed (by decide)
@[simp] theorem notify_lastRaise (s : State) (n kind : Nat) (payload : List Byte) : (notify s n kind payload).lastRaise = s.lastRaise := 
  Only.notify (fr := [.hif]) _ _ _ _ (Only.refl s) (by decide) .lastRaise (by decide)
@[simp] theorem notify_top (s : State) (n kind : Nat) (payload : List Byte) : (notify s n kind payload).top = s.top := 
  Only.notify (fr := [.hif]) _ _ _ _ (Only.refl s) (by decide) .top (by decide)
@[simp] theorem notify_prg (s : State) (n kind : Nat) (payload : List Byte) : (notify s n kind payload).prg = s.prg := 
  Only.notify (fr := [.hif]) _ _ _ _ (Only.refl s) (by decide) .prg (by decide)
@[simp] theorem notify_ports (s : State) (n kind : Nat) (payload : List Byte) : (notify s n kind payload).ports = s.ports := 
  Only.notify (fr := [.hif]) _ _ _ _ (Only.refl s) (by decide) .ports (by decide)
@[simp] theorem notify_pipes (s : State) (n kind : Nat) (payload : List Byte) : (notify s n kind payload).pipes = s.pipes := 
  Only.notify (fr := [.hif]) _ _ _ _ (Only.refl s) (by decide) .pipes (by decide)
@[simp] theorem notify_tables (s : State) (n kind : Nat) (payload : List Byte) : (notify s n kind payload).tables = s.tables := 
  Only.notify (fr := [.hif]) _ _ _ _ (Only.refl s) (by decide) .tables (by decide)
@[simp] theorem notify_clerk (s : State) (n kind : Nat) (payload : List Byte) : (notify s n kind payload).clerk = s.clerk := 
  Only.notify (fr := [.hif]) _ _ _ _ (Only.refl s) (by decide) .clerk (by decide)
@[simp] theorem notify_market (s : State) (n kind : Nat) (payload : List Byte) : (notify s n kind payload).market = s.market := 
  Only.notify (fr := [.hif]) _ _ _ _ (Only.refl s) (by decide) .market (by decide)
@[simp] theorem notify_spill (s : State) (n kind : Nat) (payload : List Byte) : (notify s n kind payload).spill = s.spill := 
  Only.notify (fr := [.hif]) _ _ _ _ (Only.refl s) (by decide) .spill (by decide)
@[simp] theorem notify_sched (s : State) (n kind : Nat) (payload : List Byte) : (notify s n kind payload).sched = s.sched := 
  Only.notify (fr := [.hif]) _ _ _ _ (Only.refl s) (by decide) .sched (by decide)
@[simp] theorem notify_slots (s : State) (n kind : Nat) (payload : List Byte) : (notify s n kind payload).slots = s.slots := 
  Only.notify (fr := [.hif]) _ _ _ _ (Only.refl s) (by decide) .slots (by decide)
@[simp] theorem notify_pulses (s : State) (n kind : Nat) (payload : List Byte) : (notify s n kind payload).pulses = s.pulses := 
  Only.notify (fr := [.hif]) _ _ _ _ (Only.refl s) (by decide) .pulses (by decide)
@[simp] theorem notify_ainum (s : State) (n kind : Nat) (payload : List Byte) : (notify s n kind payload).ainum = s.ainum := 
  Only.notify (fr := [.hif]) _ _ _ _ (Only.refl s) (by decide) .ainum (by decide)
@[simp] theorem notify_telem (s : State) (n kind : Nat) (payload : List Byte) : (notify s n kind payload).telem = s.telem := 
  Only.notify (fr := [.hif]) _ _ _ _ (Only.refl s) (by decide) .telem (by decide)
@[simp] theorem notify_crier (s : State) (n kind : Nat) (payload : List Byte) : (notify s n kind payload).crier = s.crier := 
  Only.notify (fr := [.hif]) _ _ _ _ (Only.refl s) (by decide) .crier (by decide)
@[simp] theorem notify_flt (s : State) (n kind : Nat) (payload : List Byte) : (notify s n kind payload).flt = s.flt := 
  Only.notify (fr := [.hif]) _ _ _ _ (Only.refl s) (by decide) .flt (by decide)
@[simp] theorem notify_scales (s : State) (n kind : Nat) (payload : List Byte) : (notify s n kind payload).scales = s.scales := 
  Only.notify (fr := [.hif]) _ _ _ _ (Only.refl s) (by decide) .scales (by decide)
@[simp] theorem notify_activity (s : State) (n kind : Nat) (payload : List Byte) : (notify s n kind payload).activity = s.activity := 
  Only.notify (fr := [.hif]) _ _ _ _ (Only.refl s) (by decide) .activity (by decide)
@[simp] theorem notify_bays (s : State) (n kind : Nat) (payload : List Byte) : (notify s n kind payload).bays = s.bays := 
  Only.notify (fr := [.hif]) _ _ _ _ (Only.refl s) (by decide) .bays (by decide)
@[simp] theorem notify_sec (s : State) (n kind : Nat) (payload : List Byte) : (notify s n kind payload).sec = s.sec := 
  Only.notify (fr := [.hif]) _ _ _ _ (Only.refl s) (by decide) .sec (by decide)
@[simp] theorem notify_out (s : State) (n kind : Nat) (payload : List Byte) : (notify s n kind payload).out = s.out := 
  Only.notify (fr := [.hif]) _ _ _ _ (Only.refl s) (by decide) .out (by decide)

end Sys2Proof.Laws
end

