-- ==== Sys2Proof/Laws/Ops.lean ====
section
/-!
SUPPORT. Bit fields of words, registers read after a write, and what a raised source leaves.
-/
namespace Sys2Proof.Laws

open Sys2Proof.Machine

-- Bit fields.

/-- A bit of a field that was read. -/
theorem testBit_fget (w : Word) (hi lo i : Nat) :
    (fget w hi lo).testBit i = (decide (i < hi + 1 - lo) && w.getLsbD (lo + i)) := by
  simp [fget, nbits, Nat.testBit_mod_two_pow, Nat.testBit_shiftRight, BitVec.testBit_toNat]

/-- A bit of a word whose field was replaced. -/
theorem getLsbD_fset (w : Word) (hi lo v i : Nat) :
    (fset w hi lo v).getLsbD i =
      (decide (i < 32) && if lo ≤ i ∧ i < hi + 1 then v.testBit (i - lo) else w.getLsbD i) := by
  have hm : (fmask hi lo).getLsbD i = (decide (i < 32) && (decide (lo ≤ i) && decide (i < lo + (hi + 1 - lo)))) := by
    rw [fmask, BitVec.getLsbD_ofNat, Nat.testBit_shiftLeft, Nat.testBit_two_pow_sub_one]
    by_cases h : lo ≤ i
    · have h1 : (i - lo < hi + 1 - lo) ↔ (i < lo + (hi + 1 - lo)) := by omega
      simp [h, h1]
    · simp [h]
  rw [fset, BitVec.getLsbD_or, BitVec.getLsbD_and, BitVec.getLsbD_not, hm, BitVec.getLsbD_shiftLeft,
    BitVec.getLsbD_ofNat, Nat.testBit_mod_two_pow]
  by_cases h32 : i < 32
  · by_cases hlo : lo ≤ i
    · by_cases hhi : i < hi + 1
      · have h1 : i < lo + (hi + 1 - lo) := by omega
        have h2 : i - lo < hi + 1 - lo := by omega
        have h3 : i - lo < 32 := by omega
        have h4 : ¬ i < lo := by omega
        simp [h32, hlo, hhi, h1, h2, h3, h4]
      · have h1 : ¬ i < lo + (hi + 1 - lo) := by omega
        have h2 : ¬ i - lo < hi + 1 - lo := by omega
        simp [h32, hlo, hhi, h1, h2]
    · have h4 : i < lo := by omega
      simp [h32, hlo, h4]
  · have : w.getLsbD i = false := BitVec.getLsbD_of_ge _ _ (by omega)
    simp [h32, this]

/-- Reading the field that was replaced. -/
theorem fget_fset_same (w : Word) {hi lo : Nat} (v : Nat) (h : hi < 32) :
    fget (fset w hi lo v) hi lo = v % 2 ^ (hi + 1 - lo) := by
  apply Nat.eq_of_testBit_eq
  intro i
  rw [testBit_fget, getLsbD_fset, Nat.testBit_mod_two_pow]
  by_cases hi' : i < hi + 1 - lo
  · have h1 : lo + i < 32 := by omega
    have h2 : lo + i < hi + 1 := by omega
    simp [hi', h1, h2]
  · simp [hi']

/-- Reading a field apart from the one that was replaced. -/
theorem fget_fset_ne (w : Word) {hi lo hi' lo' : Nat} (v : Nat) (h : hi' < 32) (hd : hi' < lo ∨ hi < lo') :
    fget (fset w hi lo v) hi' lo' = fget w hi' lo' := by
  apply Nat.eq_of_testBit_eq
  intro i
  rw [testBit_fget, testBit_fget, getLsbD_fset]
  by_cases hi' : i < hi' + 1 - lo'
  · have h1 : lo' + i < 32 := by omega
    have h2 : ¬ (lo ≤ lo' + i ∧ lo' + i < hi + 1) := by omega
    rw [if_neg h2]
    simp [hi', h1]
  · simp [hi']

theorem testBit_b2n (b : Bool) : (b2n b).testBit 0 = b := by cases b <;> rfl

-- Registers.

/-- Another register than the one written. -/
theorem reg_setReg_ne {s : State} {a b : Nat} {v : Word} (h : b ≠ a) : reg (setReg s a v) b = reg s b :=
  mapGet_mapPut_ne h

/-- The register that was written. -/
theorem reg_setReg_same {s : State} {a : Nat} {v : Word} : reg (setReg s a v) a = v :=
  mapGet_mapPut_same

theorem regsWf_setReg {s : State} {a : Nat} {v : Word} (h : regsWf s.regs = true) : regsWf (setReg s a v).regs = true :=
  mapWf_mapPut h

theorem regsWf_setF {s : State} {a hi lo v : Nat} (h : regsWf s.regs = true) : regsWf (setF s a hi lo v).regs = true :=
  regsWf_setReg h

theorem regsWf_setBit {s : State} {a i : Nat} {b : Bool} (h : regsWf s.regs = true) :
    regsWf (setBit s a i b).regs = true := regsWf_setReg h

theorem reg_setF_ne {s : State} {a b hi lo v : Nat} (h : b ≠ a) : reg (setF s a hi lo v) b = reg s b := reg_setReg_ne h

theorem reg_setF_same {s : State} {a hi lo v : Nat} :
    reg (setF s a hi lo v) a = fset (reg s a) hi lo v := reg_setReg_same

theorem reg_setBit_ne {s : State} {a b i : Nat} {x : Bool} (h : b ≠ a) : reg (setBit s a i x) b = reg s b :=
  reg_setReg_ne h

theorem reg_setBit_same {s : State} {a i : Nat} {x : Bool} :
    reg (setBit s a i x) a = fset (reg s a) i i (b2n x) := reg_setReg_same

/-- The field that was written. -/
theorem regF_setF_same {s : State} {a hi lo v : Nat} (hh : hi < 32) :
    regF (setF s a hi lo v) a hi lo = v % 2 ^ (hi + 1 - lo) := by
  rw [regF, reg_setF_same, fget_fset_same _ _ hh]

/-- The bit that was written. -/
theorem regBit_setBit_same {s : State} {a i : Nat} {x : Bool} (hi : i < 32) :
    regBit (setBit s a i x) a i = x := by
  rw [regBit, reg_setBit_same, getLsbD_fset]
  cases x <;> simp [b2n, hi]

/-- Another bit than the one written, of any register. -/
theorem regBit_setBit_ne {s : State} {a b i j : Nat} {x : Bool} (hne : b ≠ a ∨ j ≠ i) :
    regBit (setBit s a i x) b j = regBit s b j := by
  by_cases hb : b = a
  · subst hb
    have hj : j ≠ i := hne.resolve_left (fun h => h rfl)
    rw [regBit, reg_setBit_same, getLsbD_fset, if_neg (by omega), regBit]
    by_cases h32 : j < 32
    · simp [h32]
    · rw [BitVec.getLsbD_of_ge (reg s b) j (by omega)]; simp
  · rw [regBit, reg_setBit_ne hb, regBit]

-- Sources.

theorem mem_addOnce (l : List Nat) (x : Nat) : x ∈ addOnce l x := by
  unfold addOnce; split <;> simp_all

theorem mem_addOnce_of_mem {l : List Nat} {x y : Nat} (h : y ∈ l) : y ∈ addOnce l x := by
  unfold addOnce; split <;> simp_all

/-- What is pending after an event. -/
theorem pendEvent_pend (s : State) (id : Nat) : (pendEvent s id).crier.pend = addOnce s.crier.pend id := rfl

/-- An event writes no register. -/
theorem reg_pendEvent (s : State) (id a : Nat) : reg (pendEvent s id) a = reg s a := rfl

/-- The start of a list writes its ESC_CFG and counts. -/
theorem reg_startList_ne {s : State} {id a : Nat} (h : a ≠ aEsc id 0) (h2 : a ≠ aFlt 0x20) (h3 : a ≠ aFlt 0x20 + 4) :
    reg (startList s id) a = reg s a := by
  rw [startList, add64, setReg64, reg_setReg_ne h3, reg_setReg_ne h2, reg_setF_ne h]; rfl

/-- Neither a grace timer nor the start of a list ends what is pending. -/
theorem mem_graceWith {after : State → State} {s : State} {id x : Nat} (hx : x ∈ s.crier.pend)
    (ha : ∀ t : State, x ∈ t.crier.pend → x ∈ (after t).crier.pend) : x ∈ (graceWith after s id).crier.pend := by
  unfold graceWith; split
  · exact hx
  · split
    · exact ha _ hx
    · exact hx

/-- A pending source stays pending when an event is raised. -/
theorem mem_raise_of_mem {s : State} {id x : Nat} (h : x ∈ s.crier.pend) : x ∈ (raise s id).crier.pend :=
  mem_graceWith (mem_addOnce_of_mem h) fun _ ht =>
    mem_graceWith (mem_addOnce_of_mem ht) fun _ hu => mem_addOnce_of_mem hu

/-- A raised source is pending. -/
theorem mem_raise (s : State) (id : Nat) : id ∈ (raise s id).crier.pend :=
  mem_graceWith (mem_addOnce _ _) fun _ ht => mem_graceWith (mem_addOnce_of_mem ht) fun _ hu => mem_addOnce_of_mem hu

/-- What a grace timer or the start of a list leaves of the registers. -/
theorem reg_graceWith_ne {after : State → State} {s : State} {id a : Nat} (h : a ≠ aEsc id 0) (h2 : a ≠ aFlt 0x20)
    (h3 : a ≠ aFlt 0x20 + 4) (ha : ∀ t : State, reg (after t) a = reg t a) : reg (graceWith after s id) a = reg s a := by
  unfold graceWith; split
  · rfl
  · split
    · exact (ha _).trans (reg_startList_ne h h2 h3)
    · exact reg_setBit_ne h

/-- Raising a source writes no register but its ESC_CFG, and where its list starts at once that of 0xE00 and the count of lists. -/
theorem reg_raise_ne {s : State} {id a : Nat} (h : a ≠ aEsc id 0) (h1 : a ≠ aEsc 0xE00 0) (h2 : a ≠ aFlt 0x20)
    (h3 : a ≠ aFlt 0x20 + 4) : reg (raise s id) a = reg s a :=
  reg_graceWith_ne h h2 h3 fun _ => reg_graceWith_ne h1 h2 h3 fun _ => rfl

theorem regsWf_graceWith {after : State → State} {s : State} {id : Nat} (h : regsWf s.regs = true)
    (ha : ∀ t : State, regsWf t.regs = true → regsWf (after t).regs = true) :
    regsWf (graceWith after s id).regs = true := by
  unfold graceWith; split
  · exact h
  · split
    · exact ha _ (regsWf_setReg (regsWf_setReg (regsWf_setF h)))
    · exact regsWf_setBit h

theorem regsWf_raise {s : State} {id : Nat} (h : regsWf s.regs = true) : regsWf (raise s id).regs = true :=
  regsWf_graceWith h fun _ ht => regsWf_graceWith ht fun _ hu => hu

end Sys2Proof.Laws
end

