-- ==== Sys2Proof/Laws/Named.lean ====
section
/-!
SUPPORT. Register frames by name, said once for each operation: from `s0` to the state that an operation makes no register
changes but those that a name of `rs` stands for, which has the names of those that the operation writes.
-/
namespace Sys2Proof.Laws

open Sys2Proof.Machine

variable {rs : List RegName} {s0 : State}

/-- The register frame of an outcome's next state. -/
def NamedO (rs : List RegName) (s0 : State) (o : Host.Outcome State Fault Refusal) : Prop :=
  match o with
  | .next t => RegsOnly rs s0 t
  | .fault _ => True
  | .refused _ => True

theorem NamedO.next {s : State} (h : RegsOnly rs s0 s) : NamedO rs s0 (.next s) := h

theorem Named.refl (s : State) : RegsOnly rs s s := fun _ _ => rfl

/-- An update of other parts than the registers. -/
theorem Named.upd {s : State}
    {x_pending x_prog x_clock x_elapsed x_freeCtr x_journal x_owed x_lastRaise x_top x_hif x_prg x_ports x_pipes x_tables x_clerk x_market x_spill x_sched x_slots x_pulses x_ainum x_telem x_crier x_flt x_scales x_activity x_bays x_sec x_out} :
    RegsOnly rs s0 (State.mk
    x_pending s.regs x_prog x_clock x_elapsed x_freeCtr x_journal x_owed x_lastRaise x_top x_hif x_prg x_ports x_pipes x_tables x_clerk x_market x_spill x_sched x_slots x_pulses x_ainum x_telem x_crier x_flt x_scales x_activity x_bays x_sec x_out) ↔ RegsOnly rs s0 s := Iff.rfl

theorem RegIn.topId (hm : RegName.topId ∈ rs) : RegIn rs (0) := ⟨.topId, hm, rfl⟩
theorem RegIn.strap (hm : RegName.strap ∈ rs) : RegIn rs (0x10) := ⟨.strap, hm, rfl⟩
theorem RegIn.islReset (hm : RegName.islReset ∈ rs) : RegIn rs (aIslReset) := ⟨.islReset, hm, rfl⟩
theorem RegIn.bringup (hm : RegName.bringup ∈ rs) : RegIn rs (0x40) := ⟨.bringup, hm, rfl⟩
theorem RegIn.lcs (hm : RegName.lcs ∈ rs) : RegIn rs (0x50) := ⟨.lcs, hm, rfl⟩
theorem RegIn.vwarn (hm : RegName.vwarn ∈ rs) : RegIn rs (aVwarn) := ⟨.vwarn, hm, rfl⟩
theorem RegIn.hifStatus (hm : RegName.hifStatus ∈ rs) : RegIn rs (aHif 0) := ⟨.hifStatus, hm, rfl⟩
theorem RegIn.hifErr (hm : RegName.hifErr ∈ rs) : RegIn rs (aHif 8) := ⟨.hifErr, hm, rfl⟩
theorem RegIn.apertureDrops (hm : RegName.apertureDrops ∈ rs) : RegIn rs (aHif 0x10) := ⟨.apertureDrops, hm, .inl rfl⟩
theorem RegIn.apertureDrops4 (hm : RegName.apertureDrops ∈ rs) : RegIn rs (aHif 0x10 + 4) := ⟨.apertureDrops, hm, .inr rfl⟩
theorem RegIn.ringCfg {k : RingKind} {n : Nat} (hm : RegName.ringCfg ∈ rs) : RegIn rs (ringBase k n + 8) := ⟨.ringCfg, hm, k, n, rfl⟩
theorem RegIn.ringHead {k : RingKind} {n : Nat} (hm : RegName.ringHead ∈ rs) : RegIn rs (ringBase k n + 0xC) := ⟨.ringHead, hm, k, n, rfl⟩
theorem RegIn.ringTail {k : RingKind} {n : Nat} (hm : RegName.ringTail ∈ rs) : RegIn rs (ringBase k n + 0x10) := ⟨.ringTail, hm, k, n, rfl⟩
theorem RegIn.mbCtrl (hm : RegName.mbCtrl ∈ rs) : RegIn rs (aHif 0x2000) := ⟨.mbCtrl, hm, rfl⟩
theorem RegIn.mbResponse {i : Nat} (hm : RegName.mbResponse ∈ rs) : RegIn rs (aHif (0x2200 + 4 * i)) := ⟨.mbResponse, hm, i, rfl⟩
theorem RegIn.orphanCtrl (hm : RegName.orphanCtrl ∈ rs) : RegIn rs (aHif 0x3000) := ⟨.orphanCtrl, hm, rfl⟩
theorem RegIn.orphanLog {n : Nat} (hm : RegName.orphanLog ∈ rs) : RegIn rs (aHif (0x4000 + 8 * n)) := ⟨.orphanLog, hm, n, .inl rfl⟩
theorem RegIn.orphanLog4 {n : Nat} (hm : RegName.orphanLog ∈ rs) : RegIn rs (aHif (0x4000 + 8 * n) + 4) := ⟨.orphanLog, hm, n, .inr rfl⟩
theorem RegIn.orphanDword {i : Nat} (hm : RegName.orphanDword ∈ rs) : RegIn rs (aHif (0x4000 + 4 * i)) := ⟨.orphanDword, hm, i, rfl⟩
theorem RegIn.pba {v : Nat} (hm : RegName.pba ∈ rs) : RegIn rs (aHif (0x90000 + v / 32 * 4)) := ⟨.pba, hm, v, rfl⟩
theorem RegIn.srcCfg {id : Nat} (hm : RegName.srcCfg ∈ rs) : RegIn rs (aSrc id) := ⟨.srcCfg, hm, id, rfl⟩
theorem RegIn.criErr (hm : RegName.criErr ∈ rs) : RegIn rs (aCri 0) := ⟨.criErr, hm, rfl⟩
theorem RegIn.fltErr (hm : RegName.fltErr ∈ rs) : RegIn rs (aFlt 8) := ⟨.fltErr, hm, rfl⟩
theorem RegIn.fltRec {id : Nat} {k : Nat} (hm : RegName.fltRec ∈ rs) : RegIn rs (aFlt (0x10000 + 0x20 * id) + 4 * k) := ⟨.fltRec, hm, id, k, rfl⟩
theorem RegIn.fltFirst (hm : RegName.fltFirst ∈ rs) : RegIn rs (aFlt 0) := ⟨.fltFirst, hm, rfl⟩
theorem RegIn.fltCount0 (hm : RegName.fltCount0 ∈ rs) : RegIn rs (aFlt 0x10) := ⟨.fltCount0, hm, .inl rfl⟩
theorem RegIn.fltCount04 (hm : RegName.fltCount0 ∈ rs) : RegIn rs (aFlt 0x10 + 4) := ⟨.fltCount0, hm, .inr rfl⟩
theorem RegIn.fltCount1 (hm : RegName.fltCount1 ∈ rs) : RegIn rs (aFlt 0x18) := ⟨.fltCount1, hm, .inl rfl⟩
theorem RegIn.fltCount14 (hm : RegName.fltCount1 ∈ rs) : RegIn rs (aFlt 0x18 + 4) := ⟨.fltCount1, hm, .inr rfl⟩
theorem RegIn.fltCount2 (hm : RegName.fltCount2 ∈ rs) : RegIn rs (aFlt 0x20) := ⟨.fltCount2, hm, .inl rfl⟩
theorem RegIn.fltCount24 (hm : RegName.fltCount2 ∈ rs) : RegIn rs (aFlt 0x20 + 4) := ⟨.fltCount2, hm, .inr rfl⟩
theorem RegIn.fltCount3 (hm : RegName.fltCount3 ∈ rs) : RegIn rs (aFlt 0x28) := ⟨.fltCount3, hm, .inl rfl⟩
theorem RegIn.fltCount34 (hm : RegName.fltCount3 ∈ rs) : RegIn rs (aFlt 0x28 + 4) := ⟨.fltCount3, hm, .inr rfl⟩
theorem RegIn.fltCount4 (hm : RegName.fltCount4 ∈ rs) : RegIn rs (aFlt 0x30) := ⟨.fltCount4, hm, .inl rfl⟩
theorem RegIn.fltCount44 (hm : RegName.fltCount4 ∈ rs) : RegIn rs (aFlt 0x30 + 4) := ⟨.fltCount4, hm, .inr rfl⟩
theorem RegIn.fltCount5 (hm : RegName.fltCount5 ∈ rs) : RegIn rs (aFlt 0x38) := ⟨.fltCount5, hm, .inl rfl⟩
theorem RegIn.fltCount54 (hm : RegName.fltCount5 ∈ rs) : RegIn rs (aFlt 0x38 + 4) := ⟨.fltCount5, hm, .inr rfl⟩
theorem RegIn.escCfg {id : Nat} (hm : RegName.escCfg ∈ rs) : RegIn rs (aEsc id 0) := ⟨.escCfg, hm, id, rfl⟩
theorem RegIn.escActions {id : Nat} (hm : RegName.escActions ∈ rs) : RegIn rs (aEsc id 8) := ⟨.escActions, hm, id, .inl rfl⟩
theorem RegIn.escActions4 {id : Nat} (hm : RegName.escActions ∈ rs) : RegIn rs (aEsc id 8 + 4) := ⟨.escActions, hm, id, .inr rfl⟩
theorem RegIn.sclStatus (hm : RegName.sclStatus ∈ rs) : RegIn rs (aScl 4) := ⟨.sclStatus, hm, rfl⟩
theorem RegIn.sclErr (hm : RegName.sclErr ∈ rs) : RegIn rs (aScl 8) := ⟨.sclErr, hm, rfl⟩
theorem RegIn.sclAbs (hm : RegName.sclAbs ∈ rs) : RegIn rs (aScl 0x14) := ⟨.sclAbs, hm, rfl⟩
theorem RegIn.sclPower (hm : RegName.sclPower ∈ rs) : RegIn rs (aScl 0x20) := ⟨.sclPower, hm, rfl⟩
theorem RegIn.sclTj (hm : RegName.sclTj ∈ rs) : RegIn rs (aScl 0x24) := ⟨.sclTj, hm, rfl⟩
theorem RegIn.sclConflict (hm : RegName.sclConflict ∈ rs) : RegIn rs (aScl 0x30) := ⟨.sclConflict, hm, rfl⟩
theorem RegIn.energyTotal (hm : RegName.energyTotal ∈ rs) : RegIn rs (aScl 0x40) := ⟨.energyTotal, hm, .inl rfl⟩
theorem RegIn.energyTotal4 (hm : RegName.energyTotal ∈ rs) : RegIn rs (aScl 0x40 + 4) := ⟨.energyTotal, hm, .inr rfl⟩
theorem RegIn.energyCommon (hm : RegName.energyCommon ∈ rs) : RegIn rs (aScl 0x48) := ⟨.energyCommon, hm, .inl rfl⟩
theorem RegIn.energyCommon4 (hm : RegName.energyCommon ∈ rs) : RegIn rs (aScl 0x48 + 4) := ⟨.energyCommon, hm, .inr rfl⟩
theorem RegIn.energyHall {h : Nat} (hm : RegName.energyHall ∈ rs) : RegIn rs (aScl (0x50 + 8 * h)) := ⟨.energyHall, hm, h, .inl rfl⟩
theorem RegIn.energyHall4 {h : Nat} (hm : RegName.energyHall ∈ rs) : RegIn rs (aScl (0x50 + 8 * h) + 4) := ⟨.energyHall, hm, h, .inr rfl⟩
theorem RegIn.droop {k : Nat} (hm : RegName.droop ∈ rs) : RegIn rs (aScl (0xA0 + 4 * k)) := ⟨.droop, hm, k, rfl⟩
theorem RegIn.regCfg {k : Nat} (hm : RegName.regCfg ∈ rs) : RegIn rs (aRegulator k 0) := ⟨.regCfg, hm, k, rfl⟩
theorem RegIn.regVi {k : Nat} (hm : RegName.regVi ∈ rs) : RegIn rs (aRegulator k 4) := ⟨.regVi, hm, k, rfl⟩
theorem RegIn.regStat {k : Nat} (hm : RegName.regStat ∈ rs) : RegIn rs (aRegulator k 8) := ⟨.regStat, hm, k, rfl⟩
theorem RegIn.pipeClk {p : Nat} (hm : RegName.pipeClk ∈ rs) : RegIn rs (aPipeClk p) := ⟨.pipeClk, hm, p, rfl⟩
theorem RegIn.timRef (hm : RegName.timRef ∈ rs) : RegIn rs (aTim 0) := ⟨.timRef, hm, rfl⟩
theorem RegIn.timFreq (hm : RegName.timFreq ∈ rs) : RegIn rs (aTim 4) := ⟨.timFreq, hm, rfl⟩
theorem RegIn.slewLeft (hm : RegName.slewLeft ∈ rs) : RegIn rs (aTim 0x10) := ⟨.slewLeft, hm, .inl rfl⟩
theorem RegIn.slewLeft4 (hm : RegName.slewLeft ∈ rs) : RegIn rs (aTim 0x10 + 4) := ⟨.slewLeft, hm, .inr rfl⟩
theorem RegIn.tsMissed (hm : RegName.tsMissed ∈ rs) : RegIn rs (aTim 0x38) := ⟨.tsMissed, hm, .inl rfl⟩
theorem RegIn.tsMissed4 (hm : RegName.tsMissed ∈ rs) : RegIn rs (aTim 0x38 + 4) := ⟨.tsMissed, hm, .inr rfl⟩
theorem RegIn.capStatus {c : Nat} (hm : RegName.capStatus ∈ rs) : RegIn rs (aTim (0x100 + 0x20 * c) + 4) := ⟨.capStatus, hm, c, rfl⟩
theorem RegIn.capNs {c : Nat} (hm : RegName.capNs ∈ rs) : RegIn rs (aTim (0x100 + 0x20 * c) + 8) := ⟨.capNs, hm, c, rfl⟩
theorem RegIn.capFrac {c : Nat} (hm : RegName.capFrac ∈ rs) : RegIn rs (aTim (0x100 + 0x20 * c) + 0xC) := ⟨.capFrac, hm, c, rfl⟩
theorem RegIn.capSec {c : Nat} (hm : RegName.capSec ∈ rs) : RegIn rs (aTim (0x100 + 0x20 * c) + 0x10) := ⟨.capSec, hm, c, .inl rfl⟩
theorem RegIn.capSec4 {c : Nat} (hm : RegName.capSec ∈ rs) : RegIn rs (aTim (0x100 + 0x20 * c) + 0x10 + 4) := ⟨.capSec, hm, c, .inr rfl⟩
theorem RegIn.outCfg {n : Nat} (hm : RegName.outCfg ∈ rs) : RegIn rs (aTim (0x200 + 0x20 * n)) := ⟨.outCfg, hm, n, rfl⟩
theorem RegIn.outStatus {n : Nat} (hm : RegName.outStatus ∈ rs) : RegIn rs (aTim (0x204 + 0x20 * n)) := ⟨.outStatus, hm, n, rfl⟩
theorem RegIn.portLatency {l : Nat} (hm : RegName.portLatency ∈ rs) : RegIn rs (aTim (0x1000C + 0x20 * l)) := ⟨.portLatency, hm, l, .inl rfl⟩
theorem RegIn.portLatency4 {l : Nat} (hm : RegName.portLatency ∈ rs) : RegIn rs (aTim (0x1000C + 0x20 * l) + 4) := ⟨.portLatency, hm, l, .inr rfl⟩
theorem RegIn.selfId (hm : RegName.selfId ∈ rs) : RegIn rs (aAin 8) := ⟨.selfId, hm, .inl rfl⟩
theorem RegIn.selfId4 (hm : RegName.selfId ∈ rs) : RegIn rs (aAin 8 + 4) := ⟨.selfId, hm, .inr rfl⟩
theorem RegIn.tokenCtrl (hm : RegName.tokenCtrl ∈ rs) : RegIn rs (aAin 0x34) := ⟨.tokenCtrl, hm, rfl⟩
theorem RegIn.tokenLast (hm : RegName.tokenLast ∈ rs) : RegIn rs (aAin 0x40) := ⟨.tokenLast, hm, rfl⟩
theorem RegIn.capLast (hm : RegName.capLast ∈ rs) : RegIn rs (aAin 0x48) := ⟨.capLast, hm, .inl rfl⟩
theorem RegIn.capLast4 (hm : RegName.capLast ∈ rs) : RegIn rs (aAin 0x48 + 4) := ⟨.capLast, hm, .inr rfl⟩
theorem RegIn.ainCount {k : Nat} (hm : RegName.ainCount ∈ rs) : RegIn rs (aAin (0x100 + 8 * k)) := ⟨.ainCount, hm, k, .inl rfl⟩
theorem RegIn.ainCount4 {k : Nat} (hm : RegName.ainCount ∈ rs) : RegIn rs (aAin (0x100 + 8 * k) + 4) := ⟨.ainCount, hm, k, .inr rfl⟩
theorem RegIn.peerStatus {l : Nat} (hm : RegName.peerStatus ∈ rs) : RegIn rs (aAinPort l 4) := ⟨.peerStatus, hm, l, rfl⟩
theorem RegIn.peerId {l : Nat} (hm : RegName.peerId ∈ rs) : RegIn rs (aAinPort l 8) := ⟨.peerId, hm, l, .inl rfl⟩
theorem RegIn.peerId4 {l : Nat} (hm : RegName.peerId ∈ rs) : RegIn rs (aAinPort l 8 + 4) := ⟨.peerId, hm, l, .inr rfl⟩
theorem RegIn.ainOffset {l : Nat} (hm : RegName.ainOffset ∈ rs) : RegIn rs (aAinPort l 0x18) := ⟨.ainOffset, hm, l, .inl rfl⟩
theorem RegIn.ainOffset4 {l : Nat} (hm : RegName.ainOffset ∈ rs) : RegIn rs (aAinPort l 0x18 + 4) := ⟨.ainOffset, hm, l, .inr rfl⟩
theorem RegIn.ainDelay {l : Nat} (hm : RegName.ainDelay ∈ rs) : RegIn rs (aAinPort l 0x20) := ⟨.ainDelay, hm, l, rfl⟩
theorem RegIn.ainTimeStatus {l : Nat} (hm : RegName.ainTimeStatus ∈ rs) : RegIn rs (aAinPort l 0x24) := ⟨.ainTimeStatus, hm, l, rfl⟩
theorem RegIn.exTs32 {l : Nat} (hm : RegName.exTs32 ∈ rs) : RegIn rs (aAinPort l 0x28) := ⟨.exTs32, hm, l, rfl⟩
theorem RegIn.secStatus (hm : RegName.secStatus ∈ rs) : RegIn rs (aSec 0) := ⟨.secStatus, hm, rfl⟩
theorem RegIn.kRevoke (hm : RegName.kRevoke ∈ rs) : RegIn rs (aSec 4) := ⟨.kRevoke, hm, rfl⟩
theorem RegIn.slotStatus {k : Nat} (hm : RegName.slotStatus ∈ rs) : RegIn rs (aSec (0x10 + 4 * k)) := ⟨.slotStatus, hm, k, rfl⟩
theorem RegIn.secCount {k : Nat} (hm : RegName.secCount ∈ rs) : RegIn rs (aSec (0x200 + 8 * k)) := ⟨.secCount, hm, k, .inl rfl⟩
theorem RegIn.secCount4 {k : Nat} (hm : RegName.secCount ∈ rs) : RegIn rs (aSec (0x200 + 8 * k) + 4) := ⟨.secCount, hm, k, .inr rfl⟩
theorem RegIn.ctx0Status (hm : RegName.ctx0Status ∈ rs) : RegIn rs (aSec 0x300) := ⟨.ctx0Status, hm, rfl⟩
theorem RegIn.ctx0Bits (hm : RegName.ctx0Bits ∈ rs) : RegIn rs (aSec 0x308) := ⟨.ctx0Bits, hm, .inl rfl⟩
theorem RegIn.ctx0Bits4 (hm : RegName.ctx0Bits ∈ rs) : RegIn rs (aSec 0x308 + 4) := ⟨.ctx0Bits, hm, .inr rfl⟩
theorem RegIn.crtPolicy (hm : RegName.crtPolicy ∈ rs) : RegIn rs (aCrt 0) := ⟨.crtPolicy, hm, rfl⟩
theorem RegIn.bayStatus {c : Nat} (hm : RegName.bayStatus ∈ rs) : RegIn rs (aBay c 0) := ⟨.bayStatus, hm, c, rfl⟩
theorem RegIn.baySerial {c : Nat} (hm : RegName.baySerial ∈ rs) : RegIn rs (aBay c 8) := ⟨.baySerial, hm, c, .inl rfl⟩
theorem RegIn.baySerial4 {c : Nat} (hm : RegName.baySerial ∈ rs) : RegIn rs (aBay c 8 + 4) := ⟨.baySerial, hm, c, .inr rfl⟩
theorem RegIn.bayWear {c : Nat} (hm : RegName.bayWear ∈ rs) : RegIn rs (aBay c 0x10) := ⟨.bayWear, hm, c, rfl⟩
theorem RegIn.bayFull {c : Nat} (hm : RegName.bayFull ∈ rs) : RegIn rs (aBay c 0x14) := ⟨.bayFull, hm, c, rfl⟩
theorem RegIn.bayConflict {c : Nat} (hm : RegName.bayConflict ∈ rs) : RegIn rs (aBay c 0x30) := ⟨.bayConflict, hm, c, rfl⟩
theorem RegIn.chFailed {c : Nat} (hm : RegName.chFailed ∈ rs) : RegIn rs (aBay c 0x38) := ⟨.chFailed, hm, c, .inl rfl⟩
theorem RegIn.chFailed4 {c : Nat} (hm : RegName.chFailed ∈ rs) : RegIn rs (aBay c 0x38 + 4) := ⟨.chFailed, hm, c, .inr rfl⟩
theorem RegIn.chFull {c : Nat} (hm : RegName.chFull ∈ rs) : RegIn rs (aBay c 0x40) := ⟨.chFull, hm, c, .inl rfl⟩
theorem RegIn.chFull4 {c : Nat} (hm : RegName.chFull ∈ rs) : RegIn rs (aBay c 0x40 + 4) := ⟨.chFull, hm, c, .inr rfl⟩
theorem RegIn.domCtrl {d : Dom} (hm : RegName.domCtrl ∈ rs) : RegIn rs (aDom d 0) := ⟨.domCtrl, hm, d, rfl⟩
theorem RegIn.domT {d : Dom} (hm : RegName.domT ∈ rs) : RegIn rs (aDom d 8) := ⟨.domT, hm, d, .inl rfl⟩
theorem RegIn.domT4 {d : Dom} (hm : RegName.domT ∈ rs) : RegIn rs (aDom d 8 + 4) := ⟨.domT, hm, d, .inr rfl⟩
theorem RegIn.octCfg {g : Nat} {o : Nat} (hm : RegName.octCfg ∈ rs) : RegIn rs (aLan g (4 * o)) := ⟨.octCfg, hm, g, o, rfl⟩
theorem RegIn.lanErr {g : Nat} (hm : RegName.lanErr ∈ rs) : RegIn rs (aLan g 0x40) := ⟨.lanErr, hm, g, rfl⟩
theorem RegIn.portsUp {g : Nat} (hm : RegName.portsUp ∈ rs) : RegIn rs (aLan g 0x44) := ⟨.portsUp, hm, g, rfl⟩
theorem RegIn.evtLanes {g : Nat} {j : Nat} (hm : RegName.evtLanes ∈ rs) : RegIn rs (aEvtLanes g j) := ⟨.evtLanes, hm, g, j, rfl⟩
theorem RegIn.portCfg {l : Nat} (hm : RegName.portCfg ∈ rs) : RegIn rs (aPortCfg l) := ⟨.portCfg, hm, l, rfl⟩
theorem RegIn.portState {l : Nat} (hm : RegName.portState ∈ rs) : RegIn rs (aPortState l) := ⟨.portState, hm, l, rfl⟩
theorem RegIn.eqNow {l : Nat} (hm : RegName.eqNow ∈ rs) : RegIn rs (aLane l 0x20) := ⟨.eqNow, hm, l, rfl⟩
theorem RegIn.eqConflict {l : Nat} (hm : RegName.eqConflict ∈ rs) : RegIn rs (aLane l 0x24) := ⟨.eqConflict, hm, l, rfl⟩
theorem RegIn.fecCorr {l : Nat} (hm : RegName.fecCorr ∈ rs) : RegIn rs (aLane l 0x40) := ⟨.fecCorr, hm, l, .inl rfl⟩
theorem RegIn.fecCorr4 {l : Nat} (hm : RegName.fecCorr ∈ rs) : RegIn rs (aLane l 0x40 + 4) := ⟨.fecCorr, hm, l, .inr rfl⟩
theorem RegIn.fecUncorr {l : Nat} (hm : RegName.fecUncorr ∈ rs) : RegIn rs (aLane l 0x48) := ⟨.fecUncorr, hm, l, .inl rfl⟩
theorem RegIn.fecUncorr4 {l : Nat} (hm : RegName.fecUncorr ∈ rs) : RegIn rs (aLane l 0x48 + 4) := ⟨.fecUncorr, hm, l, .inr rfl⟩
theorem RegIn.fecSymbols {l : Nat} (hm : RegName.fecSymbols ∈ rs) : RegIn rs (aLane l 0x50) := ⟨.fecSymbols, hm, l, .inl rfl⟩
theorem RegIn.fecSymbols4 {l : Nat} (hm : RegName.fecSymbols ∈ rs) : RegIn rs (aLane l 0x50 + 4) := ⟨.fecSymbols, hm, l, .inr rfl⟩
theorem RegIn.pipeCtrl {p : Nat} (hm : RegName.pipeCtrl ∈ rs) : RegIn rs (aPipe p 0) := ⟨.pipeCtrl, hm, p, rfl⟩
theorem RegIn.pipeStatus {p : Nat} (hm : RegName.pipeStatus ∈ rs) : RegIn rs (aPipe p 4) := ⟨.pipeStatus, hm, p, rfl⟩
theorem RegIn.pipeIn {p : Nat} (hm : RegName.pipeIn ∈ rs) : RegIn rs (aPipe p 0x10) := ⟨.pipeIn, hm, p, .inl rfl⟩
theorem RegIn.pipeIn4 {p : Nat} (hm : RegName.pipeIn ∈ rs) : RegIn rs (aPipe p 0x10 + 4) := ⟨.pipeIn, hm, p, .inr rfl⟩
theorem RegIn.pipeOut {p : Nat} (hm : RegName.pipeOut ∈ rs) : RegIn rs (aPipe p 0x18) := ⟨.pipeOut, hm, p, .inl rfl⟩
theorem RegIn.pipeOut4 {p : Nat} (hm : RegName.pipeOut ∈ rs) : RegIn rs (aPipe p 0x18 + 4) := ⟨.pipeOut, hm, p, .inr rfl⟩
theorem RegIn.faultCount {p : Nat} {k : Nat} (hm : RegName.faultCount ∈ rs) : RegIn rs (aPipe p (0x20 + 8 * k)) := ⟨.faultCount, hm, p, k, .inl rfl⟩
theorem RegIn.faultCount4 {p : Nat} {k : Nat} (hm : RegName.faultCount ∈ rs) : RegIn rs (aPipe p (0x20 + 8 * k) + 4) := ⟨.faultCount, hm, p, k, .inr rfl⟩
theorem RegIn.tailFaults {p : Nat} (hm : RegName.tailFaults ∈ rs) : RegIn rs (aPipe p 0x30) := ⟨.tailFaults, hm, p, .inl rfl⟩
theorem RegIn.tailFaults4 {p : Nat} (hm : RegName.tailFaults ∈ rs) : RegIn rs (aPipe p 0x30 + 4) := ⟨.tailFaults, hm, p, .inr rfl⟩
theorem RegIn.editFaults {p : Nat} (hm : RegName.editFaults ∈ rs) : RegIn rs (aPipe p 0x40) := ⟨.editFaults, hm, p, .inl rfl⟩
theorem RegIn.editFaults4 {p : Nat} (hm : RegName.editFaults ∈ rs) : RegIn rs (aPipe p 0x40 + 4) := ⟨.editFaults, hm, p, .inr rfl⟩
theorem RegIn.stallCtrl {n : Nat} (hm : RegName.stallCtrl ∈ rs) : RegIn rs (aStall n 0) := ⟨.stallCtrl, hm, n, rfl⟩
theorem RegIn.stallEcc {n : Nat} (hm : RegName.stallEcc ∈ rs) : RegIn rs (aStall n 8) := ⟨.stallEcc, hm, n, rfl⟩
theorem RegIn.stateCtrl {n : Nat} (hm : RegName.stateCtrl ∈ rs) : RegIn rs (aStall n 0x10) := ⟨.stateCtrl, hm, n, rfl⟩
theorem RegIn.stateData {n : Nat} (hm : RegName.stateData ∈ rs) : RegIn rs (aStall n 0x18) := ⟨.stateData, hm, n, .inl rfl⟩
theorem RegIn.stateData4 {n : Nat} (hm : RegName.stateData ∈ rs) : RegIn rs (aStall n 0x18 + 4) := ⟨.stateData, hm, n, .inr rfl⟩
theorem RegIn.meterCtrl {n : Nat} (hm : RegName.meterCtrl ∈ rs) : RegIn rs (aStall n 0x100) := ⟨.meterCtrl, hm, n, rfl⟩
theorem RegIn.meterData {n : Nat} {i : Nat} (hm : RegName.meterData ∈ rs) : RegIn rs (aStall n (0x110 + 4 * i)) := ⟨.meterData, hm, n, i, rfl⟩
theorem RegIn.parCtrl {g : Nat} (hm : RegName.parCtrl ∈ rs) : RegIn rs (aPar g 0) := ⟨.parCtrl, hm, g, rfl⟩
theorem RegIn.parCaptureTs {g : Nat} (hm : RegName.parCaptureTs ∈ rs) : RegIn rs (aPar g 16) := ⟨.parCaptureTs, hm, g, rfl⟩
theorem RegIn.parCapture {g : Nat} (hm : RegName.parCapture ∈ rs) : RegIn rs (aPar g 8) := ⟨.parCapture, hm, g, .inl rfl⟩
theorem RegIn.parCapture4 {g : Nat} (hm : RegName.parCapture ∈ rs) : RegIn rs (aPar g 8 + 4) := ⟨.parCapture, hm, g, .inr rfl⟩
theorem RegIn.parEcc {g : Nat} (hm : RegName.parEcc ∈ rs) : RegIn rs (aPar g 0x20) := ⟨.parEcc, hm, g, rfl⟩
theorem RegIn.parErrCount {g : Nat} {e : Nat} (hm : RegName.parErrCount ∈ rs) : RegIn rs (aPar g (0x100 + 8 * e)) := ⟨.parErrCount, hm, g, e, .inl rfl⟩
theorem RegIn.parErrCount4 {g : Nat} {e : Nat} (hm : RegName.parErrCount ∈ rs) : RegIn rs (aPar g (0x100 + 8 * e) + 4) := ⟨.parErrCount, hm, g, e, .inr rfl⟩
theorem RegIn.carve (hm : RegName.carve ∈ rs) : RegIn rs (aMkt 0) := ⟨.carve, hm, rfl⟩
theorem RegIn.mktStatus (hm : RegName.mktStatus ∈ rs) : RegIn rs (aMkt 4) := ⟨.mktStatus, hm, rfl⟩
theorem RegIn.mktErr (hm : RegName.mktErr ∈ rs) : RegIn rs (aMkt 8) := ⟨.mktErr, hm, rfl⟩
theorem RegIn.drainReserve (hm : RegName.drainReserve ∈ rs) : RegIn rs (aMkt 0x10) := ⟨.drainReserve, hm, rfl⟩
theorem RegIn.hdrmReserve (hm : RegName.hdrmReserve ∈ rs) : RegIn rs (aMkt 0x14) := ⟨.hdrmReserve, hm, rfl⟩
theorem RegIn.poolFree {k : Nat} (hm : RegName.poolFree ∈ rs) : RegIn rs (aPoolFree k) := ⟨.poolFree, hm, k, rfl⟩
theorem RegIn.auditStatus (hm : RegName.auditStatus ∈ rs) : RegIn rs (aMkt 0x44) := ⟨.auditStatus, hm, rfl⟩
theorem RegIn.auditLast (hm : RegName.auditLast ∈ rs) : RegIn rs (aMkt 0x48) := ⟨.auditLast, hm, .inl rfl⟩
theorem RegIn.auditLast4 (hm : RegName.auditLast ∈ rs) : RegIn rs (aMkt 0x48 + 4) := ⟨.auditLast, hm, .inr rfl⟩
theorem RegIn.mktCount0 (hm : RegName.mktCount0 ∈ rs) : RegIn rs (aMkt 0x100) := ⟨.mktCount0, hm, .inl rfl⟩
theorem RegIn.mktCount04 (hm : RegName.mktCount0 ∈ rs) : RegIn rs (aMkt 0x100 + 4) := ⟨.mktCount0, hm, .inr rfl⟩
theorem RegIn.mktCount1 (hm : RegName.mktCount1 ∈ rs) : RegIn rs (aMkt 0x108) := ⟨.mktCount1, hm, .inl rfl⟩
theorem RegIn.mktCount14 (hm : RegName.mktCount1 ∈ rs) : RegIn rs (aMkt 0x108 + 4) := ⟨.mktCount1, hm, .inr rfl⟩
theorem RegIn.mktCount2 (hm : RegName.mktCount2 ∈ rs) : RegIn rs (aMkt 0x110) := ⟨.mktCount2, hm, .inl rfl⟩
theorem RegIn.mktCount24 (hm : RegName.mktCount2 ∈ rs) : RegIn rs (aMkt 0x110 + 4) := ⟨.mktCount2, hm, .inr rfl⟩
theorem RegIn.mktCount3 (hm : RegName.mktCount3 ∈ rs) : RegIn rs (aMkt 0x118) := ⟨.mktCount3, hm, .inl rfl⟩
theorem RegIn.mktCount34 (hm : RegName.mktCount3 ∈ rs) : RegIn rs (aMkt 0x118 + 4) := ⟨.mktCount3, hm, .inr rfl⟩
theorem RegIn.mktCount4 (hm : RegName.mktCount4 ∈ rs) : RegIn rs (aMkt 0x120) := ⟨.mktCount4, hm, .inl rfl⟩
theorem RegIn.mktCount44 (hm : RegName.mktCount4 ∈ rs) : RegIn rs (aMkt 0x120 + 4) := ⟨.mktCount4, hm, .inr rfl⟩
theorem RegIn.mktCount5 (hm : RegName.mktCount5 ∈ rs) : RegIn rs (aMkt 0x128) := ⟨.mktCount5, hm, .inl rfl⟩
theorem RegIn.mktCount54 (hm : RegName.mktCount5 ∈ rs) : RegIn rs (aMkt 0x128 + 4) := ⟨.mktCount5, hm, .inr rfl⟩
theorem RegIn.mktCount6 (hm : RegName.mktCount6 ∈ rs) : RegIn rs (aMkt 0x130) := ⟨.mktCount6, hm, .inl rfl⟩
theorem RegIn.mktCount64 (hm : RegName.mktCount6 ∈ rs) : RegIn rs (aMkt 0x130 + 4) := ⟨.mktCount6, hm, .inr rfl⟩
theorem RegIn.mktCount7 (hm : RegName.mktCount7 ∈ rs) : RegIn rs (aMkt 0x138) := ⟨.mktCount7, hm, .inl rfl⟩
theorem RegIn.mktCount74 (hm : RegName.mktCount7 ∈ rs) : RegIn rs (aMkt 0x138 + 4) := ⟨.mktCount7, hm, .inr rfl⟩
theorem RegIn.partUsed {p : Nat} (hm : RegName.partUsed ∈ rs) : RegIn rs (aUsed p) := ⟨.partUsed, hm, p, rfl⟩
theorem RegIn.qcfgPitch {q : Nat} (hm : RegName.qcfgPitch ∈ rs) : RegIn rs (aQcfg q 8) := ⟨.qcfgPitch, hm, q, rfl⟩
theorem RegIn.qcfgOcc {q : Nat} (hm : RegName.qcfgOcc ∈ rs) : RegIn rs (aQcfg q 0xC) := ⟨.qcfgOcc, hm, q, rfl⟩
theorem RegIn.pfcState {l : Nat} (hm : RegName.pfcState ∈ rs) : RegIn rs (aMPort l 8) := ⟨.pfcState, hm, l, rfl⟩
theorem RegIn.ingUsed {l : Nat} {n : Nat} (hm : RegName.ingUsed ∈ rs) : RegIn rs (aIngUsed l n) := ⟨.ingUsed, hm, l, n, rfl⟩
theorem RegIn.hdrmUsed {l : Nat} {n : Nat} (hm : RegName.hdrmUsed ∈ rs) : RegIn rs (aHdrmUsed l n) := ⟨.hdrmUsed, hm, l, n, rfl⟩
theorem RegIn.bankStatus {b : Nat} (hm : RegName.bankStatus ∈ rs) : RegIn rs (aBank b 0) := ⟨.bankStatus, hm, b, rfl⟩
theorem RegIn.bankEcc {b : Nat} (hm : RegName.bankEcc ∈ rs) : RegIn rs (aBank b 4) := ⟨.bankEcc, hm, b, rfl⟩
theorem RegIn.splErr (hm : RegName.splErr ∈ rs) : RegIn rs (aSpl 8) := ⟨.splErr, hm, rfl⟩
theorem RegIn.stagingFree (hm : RegName.stagingFree ∈ rs) : RegIn rs (aSpl 0x14) := ⟨.stagingFree, hm, rfl⟩
theorem RegIn.splCount {k : Nat} (hm : RegName.splCount ∈ rs) : RegIn rs (aSpl (0x40 + 8 * k)) := ⟨.splCount, hm, k, .inl rfl⟩
theorem RegIn.splCount4 {k : Nat} (hm : RegName.splCount ∈ rs) : RegIn rs (aSpl (0x40 + 8 * k) + 4) := ⟨.splCount, hm, k, .inr rfl⟩
theorem RegIn.stackStatus {m : Nat} (hm : RegName.stackStatus ∈ rs) : RegIn rs (aStack m 0) := ⟨.stackStatus, hm, m, rfl⟩
theorem RegIn.retiredCh {m : Nat} (hm : RegName.retiredCh ∈ rs) : RegIn rs (aStack m 4) := ⟨.retiredCh, hm, m, rfl⟩
theorem RegIn.diagCtrl {m : Nat} (hm : RegName.diagCtrl ∈ rs) : RegIn rs (aStack m 0x20) := ⟨.diagCtrl, hm, m, rfl⟩
theorem RegIn.diagData {m : Nat} {i : Nat} (hm : RegName.diagData ∈ rs) : RegIn rs (aDiag m i) := ⟨.diagData, hm, m, i, rfl⟩
theorem RegIn.chEcc {m : Nat} {c : Nat} (hm : RegName.chEcc ∈ rs) : RegIn rs (aChEcc m c) := ⟨.chEcc, hm, m, c, rfl⟩
theorem RegIn.phyStatus {m : Nat} (hm : RegName.phyStatus ∈ rs) : RegIn rs (aPhy m) := ⟨.phyStatus, hm, m, rfl⟩
theorem RegIn.qspillStatus {q : Nat} (hm : RegName.qspillStatus ∈ rs) : RegIn rs (aQspill q 8) := ⟨.qspillStatus, hm, q, rfl⟩
theorem RegIn.schErr {g : Nat} (hm : RegName.schErr ∈ rs) : RegIn rs (aSch g 0) := ⟨.schErr, hm, g, rfl⟩
theorem RegIn.portQ {l : Nat} (hm : RegName.portQ ∈ rs) : RegIn rs (aSPort l 0) := ⟨.portQ, hm, l, rfl⟩
theorem RegIn.pfcTrips {l : Nat} (hm : RegName.pfcTrips ∈ rs) : RegIn rs (aSPort l 0x28) := ⟨.pfcTrips, hm, l, .inl rfl⟩
theorem RegIn.pfcTrips4 {l : Nat} (hm : RegName.pfcTrips ∈ rs) : RegIn rs (aSPort l 0x28 + 4) := ⟨.pfcTrips, hm, l, .inr rfl⟩
theorem RegIn.pfcRx {l : Nat} (hm : RegName.pfcRx ∈ rs) : RegIn rs (aSPort l 0x30) := ⟨.pfcRx, hm, l, .inl rfl⟩
theorem RegIn.pfcRx4 {l : Nat} (hm : RegName.pfcRx ∈ rs) : RegIn rs (aSPort l 0x30 + 4) := ⟨.pfcRx, hm, l, .inr rfl⟩
theorem RegIn.pfcTx {l : Nat} (hm : RegName.pfcTx ∈ rs) : RegIn rs (aSPort l 0x38) := ⟨.pfcTx, hm, l, .inl rfl⟩
theorem RegIn.pfcTx4 {l : Nat} (hm : RegName.pfcTx ∈ rs) : RegIn rs (aSPort l 0x38 + 4) := ⟨.pfcTx, hm, l, .inr rfl⟩
theorem RegIn.winSlotStatus {l : Nat} (hm : RegName.winSlotStatus ∈ rs) : RegIn rs (aSlot l 0) := ⟨.winSlotStatus, hm, l, rfl⟩
theorem RegIn.winErr {l : Nat} (hm : RegName.winErr ∈ rs) : RegIn rs (aSlot l 4) := ⟨.winErr, hm, l, rfl⟩
theorem RegIn.winT {l : Nat} (hm : RegName.winT ∈ rs) : RegIn rs (aSlot l 0x10) := ⟨.winT, hm, l, .inl rfl⟩
theorem RegIn.winT4 {l : Nat} (hm : RegName.winT ∈ rs) : RegIn rs (aSlot l 0x10 + 4) := ⟨.winT, hm, l, .inr rfl⟩
theorem RegIn.winDrops {l : Nat} (hm : RegName.winDrops ∈ rs) : RegIn rs (aSlot l 0x18) := ⟨.winDrops, hm, l, .inl rfl⟩
theorem RegIn.winDrops4 {l : Nat} (hm : RegName.winDrops ∈ rs) : RegIn rs (aSlot l 0x18 + 4) := ⟨.winDrops, hm, l, .inr rfl⟩
theorem RegIn.winLate {l : Nat} (hm : RegName.winLate ∈ rs) : RegIn rs (aSlot l 0x20) := ⟨.winLate, hm, l, .inl rfl⟩
theorem RegIn.winLate4 {l : Nat} (hm : RegName.winLate ∈ rs) : RegIn rs (aSlot l 0x20 + 4) := ⟨.winLate, hm, l, .inr rfl⟩
theorem RegIn.winOver {l : Nat} (hm : RegName.winOver ∈ rs) : RegIn rs (aSlot l 0x28) := ⟨.winOver, hm, l, .inl rfl⟩
theorem RegIn.winOver4 {l : Nat} (hm : RegName.winOver ∈ rs) : RegIn rs (aSlot l 0x28 + 4) := ⟨.winOver, hm, l, .inr rfl⟩
theorem RegIn.lkpFaults {h : Nat} (hm : RegName.lkpFaults ∈ rs) : RegIn rs (aTbl h 0) := ⟨.lkpFaults, hm, h, .inl rfl⟩
theorem RegIn.lkpFaults4 {h : Nat} (hm : RegName.lkpFaults ∈ rs) : RegIn rs (aTbl h 0 + 4) := ⟨.lkpFaults, hm, h, .inr rfl⟩
theorem RegIn.hallEcc {h : Nat} (hm : RegName.hallEcc ∈ rs) : RegIn rs (aTbl h 8) := ⟨.hallEcc, hm, h, rfl⟩
theorem RegIn.rawCtrl {h : Nat} (hm : RegName.rawCtrl ∈ rs) : RegIn rs (aTbl h 0x100) := ⟨.rawCtrl, hm, h, rfl⟩
theorem RegIn.rawData {h : Nat} {i : Nat} (hm : RegName.rawData ∈ rs) : RegIn rs (aTbl h (0x140 + 4 * i)) := ⟨.rawData, hm, h, i, rfl⟩
theorem RegIn.clkErr (hm : RegName.clkErr ∈ rs) : RegIn rs (aClk 4) := ⟨.clkErr, hm, rfl⟩
theorem RegIn.flapLast (hm : RegName.flapLast ∈ rs) : RegIn rs (aClk 0x18) := ⟨.flapLast, hm, rfl⟩
theorem RegIn.flapTable (hm : RegName.flapTable ∈ rs) : RegIn rs (aClk 0x1C) := ⟨.flapTable, hm, rfl⟩
theorem RegIn.clerkCount {k : Nat} (hm : RegName.clerkCount ∈ rs) : RegIn rs (aClk (0x100 + 8 * k)) := ⟨.clerkCount, hm, k, .inl rfl⟩
theorem RegIn.clerkCount4 {k : Nat} (hm : RegName.clerkCount ∈ rs) : RegIn rs (aClk (0x100 + 8 * k) + 4) := ⟨.clerkCount, hm, k, .inr rfl⟩
theorem RegIn.desc {t : Nat} {w : Nat} (hm : RegName.desc ∈ rs) : RegIn rs (aDesc t w) := ⟨.desc, hm, t, w, rfl⟩
theorem RegIn.hashCfg {k : Nat} (hm : RegName.hashCfg ∈ rs) : RegIn rs (aClk (0x2000 + 4 * k)) := ⟨.hashCfg, hm, k, rfl⟩
theorem RegIn.ldgStatus (hm : RegName.ldgStatus ∈ rs) : RegIn rs (aLdg 0) := ⟨.ldgStatus, hm, rfl⟩
theorem RegIn.ldgT {b : Nat} (hm : RegName.ldgT ∈ rs) : RegIn rs (aLdg (0x10 + 8 * b)) := ⟨.ldgT, hm, b, .inl rfl⟩
theorem RegIn.ldgT4 {b : Nat} (hm : RegName.ldgT ∈ rs) : RegIn rs (aLdg (0x10 + 8 * b) + 4) := ⟨.ldgT, hm, b, .inr rfl⟩
theorem RegIn.talCount {k : Nat} (hm : RegName.talCount ∈ rs) : RegIn rs (aTal (0x900 + 8 * k)) := ⟨.talCount, hm, k, .inl rfl⟩
theorem RegIn.talCount4 {k : Nat} (hm : RegName.talCount ∈ rs) : RegIn rs (aTal (0x900 + 8 * k) + 4) := ⟨.talCount, hm, k, .inr rfl⟩
theorem RegIn.pmcCount {n : Nat} (hm : RegName.pmcCount ∈ rs) : RegIn rs (aPmcCount n) := ⟨.pmcCount, hm, n, rfl⟩
theorem RegIn.outStatus' {n : Nat} (m : RegName.outStatus ∈ rs) : RegIn rs (aTim (0x200 + 0x20 * n) + 4) :=
  ⟨.outStatus, m, n, by simp only [aTim]; omega⟩
theorem RegIn.portLatency' {l : Nat} (m : RegName.portLatency ∈ rs) : RegIn rs (aTim (0x10010 + 0x20 * l)) :=
  ⟨.portLatency, m, l, .inr (by simp only [aTim]; omega)⟩
theorem RegIn.ainCount' (m : RegName.ainCount ∈ rs) : RegIn rs (aAin 0x128) := ⟨.ainCount, m, 5, .inl rfl⟩
theorem RegIn.ainCount4' (m : RegName.ainCount ∈ rs) : RegIn rs (aAin 0x128 + 4) := ⟨.ainCount, m, 5, .inr rfl⟩

theorem Named.setReg {s : State} {a : Nat} {v : Word} (h : RegsOnly rs s0 s) (ha : RegIn rs a) :
    RegsOnly rs s0 (setReg s a v) :=
  fun b hb => (reg_setReg_ne (fun e : b = a => hb (e ▸ ha))).trans (h b hb)

theorem Named.setF {s : State} {a hi lo v : Nat} (h : RegsOnly rs s0 s) (ha : RegIn rs a) :
    RegsOnly rs s0 (setF s a hi lo v) := Named.setReg h ha

theorem Named.setBit {s : State} {a i : Nat} {b : Bool} (h : RegsOnly rs s0 s) (ha : RegIn rs a) :
    RegsOnly rs s0 (setBit s a i b) := Named.setReg h ha

theorem Named.satF {s : State} {a hi lo n : Nat} (h : RegsOnly rs s0 s) (ha : RegIn rs a) :
    RegsOnly rs s0 (satF s a hi lo n) := Named.setReg h ha

theorem Named.addF21 {s : State} {a : Nat} {d : Int} (h : RegsOnly rs s0 s) (ha : RegIn rs a) :
    RegsOnly rs s0 (addF21 s a d) := Named.setReg h ha

theorem Named.setReg64 {s : State} {a v : Nat} (h : RegsOnly rs s0 s) (ha : RegIn rs a) (hb : RegIn rs (a + 4)) :
    RegsOnly rs s0 (setReg64 s a v) := Named.setReg (Named.setReg h ha) hb

theorem Named.add64 {s : State} {a n : Nat} (h : RegsOnly rs s0 s) (ha : RegIn rs a) (hb : RegIn rs (a + 4)) :
    RegsOnly rs s0 (add64 s a n) := Named.setReg64 h ha hb

theorem Named.foldl {α : Type} {f : State → α → State} {l : List α} {s : State} (h : RegsOnly rs s0 s)
    (hf : ∀ t x, RegsOnly rs s0 t → RegsOnly rs s0 (f t x)) : RegsOnly rs s0 (l.foldl f s) := by
  induction l generalizing s with
  | nil => exact h
  | cons x r ih => exact ih (hf s x h)

theorem Named.foldl1 {α β : Type} {f : State × β → α → State × β} {l : List α} {s : State × β}
    (h : RegsOnly rs s0 s.1) (hf : ∀ t x, RegsOnly rs s0 t.1 → RegsOnly rs s0 (f t x).1) :
    RegsOnly rs s0 (l.foldl f s).1 := by
  induction l generalizing s with
  | nil => exact h
  | cons x r ih => exact ih (hf s x h)

/-- A raise writes only ESC_CFG of its source and, where its list starts at once, that of 0xE00 and the count of lists. -/
theorem Named.raise {s : State} {id : Nat} (h : RegsOnly rs s0 s) (r_fltCount2 : RegName.fltCount2 ∈ rs)
    (r_escCfg : RegName.escCfg ∈ rs) : RegsOnly rs s0 (raise s id) :=
  fun b hb => (reg_raise_ne (fun e : b = aEsc id 0 => hb (e ▸ RegIn.escCfg r_escCfg))
    (fun e : b = aEsc 0xE00 0 => hb (e ▸ RegIn.escCfg r_escCfg)) (fun e : b = aFlt 0x20 => hb (e ▸ RegIn.fltCount2 r_fltCount2))
    (fun e : b = aFlt 0x20 + 4 => hb (e ▸ RegIn.fltCount24 r_fltCount2))).trans (h b hb)

theorem Named.setErrE04 {s : State} {a i : Nat} (h : RegsOnly rs s0 s) (ha : RegIn rs a)
    (r_fltCount2 : RegName.fltCount2 ∈ rs) (r_escCfg : RegName.escCfg ∈ rs) : RegsOnly rs s0 (setErrE04 s a i) :=
  Named.raise (Named.setBit h ha) r_fltCount2 r_escCfg

end Sys2Proof.Laws
end

