-- ==== Sys2Proof/Laws/NamedOps.lean ====
section
/-!
SUPPORT. One lemma for each operation of Ops, Lands, Pcie, Counters, Units, Packet, Barrow, Market, Spill, Slots, Clock, Journal: it writes no register but those it names (`RegsOnly`).
-/
namespace Sys2Proof.Laws

open Sys2Proof.Machine

variable {rs : List RegName} {s0 : State}

theorem Named.whenB (b : Bool) (f : State → State) (s : State) (hf : ∀ t, RegsOnly rs s0 t → RegsOnly rs s0 (f t))
    (hk : RegsOnly rs s0 s) : RegsOnly rs s0 (whenB b f s) := by
  unfold Sys2Proof.Machine.whenB
  with_reducible repeat' first
    | assumption | apply hf | simp only [Named.upd] | dsimp only | split | intro

theorem Named.rowState (o : Host.Outcome State Fault Refusal) (s : State) (hk : RegsOnly rs s0 s)
    (ho : NamedO rs s0 o) : RegsOnly rs s0 (rowState o s) := by
  cases o
  · exact ho
  · exact hk
  · exact hk

theorem Named.forEach {α : Type} (l : List α) (f : State → α → State) (s : State)
    (hf : ∀ t x, RegsOnly rs s0 t → RegsOnly rs s0 (f t x)) (hk : RegsOnly rs s0 s) : RegsOnly rs s0 (forEach l f s) := by
  unfold Sys2Proof.Machine.forEach
  with_reducible repeat' first
    | assumption | apply hf | apply Named.foldl | apply Named.foldl1 | simp only [Named.upd] | dsimp only | split | intro

theorem Named.drawn (s : State) (hk : RegsOnly rs s0 s) : RegsOnly rs s0 (drawn s) := by
  unfold Sys2Proof.Machine.drawn
  with_reducible repeat' first
    | assumption | simp only [Named.upd] | dsimp only | split | intro

theorem Named.emit (s : State) (o : Output) (hk : RegsOnly rs s0 s) : RegsOnly rs s0 (emit s o) := by
  unfold Sys2Proof.Machine.emit
  with_reducible repeat' first
    | assumption | simp only [Named.upd] | dsimp only | split | intro

theorem Named.noteInterval (s : State) (key : Nat) (hk : RegsOnly rs s0 s) : RegsOnly rs s0 (noteInterval s key) := by
  unfold Sys2Proof.Machine.noteInterval
  with_reducible repeat' first
    | assumption | simp only [Named.upd] | dsimp only | split | intro

theorem Named.countEvent (s : State) (id : Nat) (hk : RegsOnly rs s0 s) : RegsOnly rs s0 (countEvent s id) := by
  unfold Sys2Proof.Machine.countEvent
  with_reducible repeat' first
    | assumption | simp only [Named.upd] | dsimp only | split | intro

theorem Named.wakeCore (s : State) (id : Nat) (hk : RegsOnly rs s0 s) : RegsOnly rs s0 (wakeCore s id) := by
  unfold Sys2Proof.Machine.wakeCore
  with_reducible repeat' first
    | assumption | simp only [Named.upd] | dsimp only | split | intro

theorem Named.pendEvent (s : State) (id : Nat) (hk : RegsOnly rs s0 s) : RegsOnly rs s0 (pendEvent s id) := by
  unfold Sys2Proof.Machine.pendEvent
  with_reducible repeat' first
    | assumption | apply Named.wakeCore | apply Named.countEvent | simp only [Named.upd] | dsimp only | split | intro

theorem Named.startList (s : State) (id : Nat) (hk : RegsOnly rs s0 s) (r_fltCount2 : RegName.fltCount2 ∈ rs)
    (r_escCfg : RegName.escCfg ∈ rs) : RegsOnly rs s0 (startList s id) := by
  unfold Sys2Proof.Machine.startList
  with_reducible repeat' first
    | assumption | apply Named.add64 | apply Named.setF | apply RegIn.fltCount2 | apply RegIn.fltCount24 | apply RegIn.escCfg
    | simp only [Named.upd] | dsimp only | split | intro

theorem Named.graceWith (after : State → State) (s : State) (id : Nat)
    (hf : ∀ t, RegsOnly rs s0 t → RegsOnly rs s0 (after t)) (hk : RegsOnly rs s0 s) (r_fltCount2 : RegName.fltCount2 ∈ rs)
    (r_escCfg : RegName.escCfg ∈ rs) : RegsOnly rs s0 (graceWith after s id) := by
  unfold Sys2Proof.Machine.graceWith
  with_reducible repeat' first
    | assumption | apply hf | apply Named.startList | apply Named.setBit | apply RegIn.escCfg | simp only [Named.upd]
    | dsimp only | split | intro

theorem Named.raiseE00 (s : State) (hk : RegsOnly rs s0 s) (r_fltCount2 : RegName.fltCount2 ∈ rs)
    (r_escCfg : RegName.escCfg ∈ rs) : RegsOnly rs s0 (raiseE00 s) := by
  unfold Sys2Proof.Machine.raiseE00
  with_reducible repeat' first
    | assumption | apply Named.graceWith | apply Named.pendEvent | simp only [Named.upd] | dsimp only | split | intro

theorem Named.startGrace (s : State) (id : Nat) (hk : RegsOnly rs s0 s) (r_fltCount2 : RegName.fltCount2 ∈ rs)
    (r_escCfg : RegName.escCfg ∈ rs) : RegsOnly rs s0 (startGrace s id) := by
  unfold Sys2Proof.Machine.startGrace
  with_reducible repeat' first
    | assumption | apply Named.graceWith | apply Named.raiseE00 | simp only [Named.upd] | dsimp only | split | intro

theorem Named.raiseLimited (s : State) (id ns : Nat) (hk : RegsOnly rs s0 s) (r_fltCount2 : RegName.fltCount2 ∈ rs)
    (r_escCfg : RegName.escCfg ∈ rs) : RegsOnly rs s0 (raiseLimited s id ns) := by
  unfold Sys2Proof.Machine.raiseLimited
  with_reducible repeat' first
    | assumption | apply Named.raise | apply Named.noteInterval | simp only [Named.upd] | dsimp only | split | intro

theorem Named.setLine (s : State) (id : Nat) (on : Bool) (hk : RegsOnly rs s0 s) (r_fltCount2 : RegName.fltCount2 ∈ rs)
    (r_escCfg : RegName.escCfg ∈ rs) : RegsOnly rs s0 (setLine s id on) := by
  unfold Sys2Proof.Machine.setLine
  with_reducible repeat' first
    | assumption | apply Named.startGrace | apply Named.raise | apply Named.setBit | apply RegIn.escCfg
    | simp only [Named.upd] | dsimp only | split | intro

theorem Named.setBringup (s : State) (i : Nat) (hk : RegsOnly rs s0 s) (r_bringup : RegName.bringup ∈ rs)
    (r_fltCount2 : RegName.fltCount2 ∈ rs) (r_escCfg : RegName.escCfg ∈ rs) : RegsOnly rs s0 (setBringup s i) := by
  unfold Sys2Proof.Machine.setBringup
  with_reducible repeat' first
    | assumption | apply Named.raise | apply Named.setBit | apply RegIn.bringup | simp only [Named.upd] | dsimp only | split
    | intro

theorem Named.clearBringup (s : State) (i : Nat) (hk : RegsOnly rs s0 s) (r_bringup : RegName.bringup ∈ rs)
    : RegsOnly rs s0 (clearBringup s i) := by
  unfold Sys2Proof.Machine.clearBringup
  with_reducible repeat' first
    | assumption | apply Named.setBit | apply RegIn.bringup | simp only [Named.upd] | dsimp only | split | intro

theorem Named.tailStep (s : State) (k : RingKind) (n key : Nat) (hk : RegsOnly rs s0 s) (r_ringTail : RegName.ringTail ∈ rs)
    : RegsOnly rs s0 (tailStep s k n key) := by
  unfold Sys2Proof.Machine.tailStep
  with_reducible repeat' first
    | assumption | apply Named.setReg | apply RegIn.ringTail | simp only [Named.upd] | dsimp only | split | intro

theorem Named.settleDone (s : State) (hk : RegsOnly rs s0 s) (r_orphanCtrl : RegName.orphanCtrl ∈ rs)
    (r_fltCount2 : RegName.fltCount2 ∈ rs) (r_escCfg : RegName.escCfg ∈ rs) : RegsOnly rs s0 (settleDone s) := by
  unfold Sys2Proof.Machine.settleDone
  with_reducible repeat' first
    | assumption | apply Named.raise | apply Named.setBit | apply RegIn.orphanCtrl | simp only [Named.upd] | dsimp only
    | split | intro

theorem Named.orphan (s : State) (o : Orphan) (hk : RegsOnly rs s0 s) (r_orphanCtrl : RegName.orphanCtrl ∈ rs)
    (r_orphanLog : RegName.orphanLog ∈ rs) : RegsOnly rs s0 (orphan s o) := by
  unfold Sys2Proof.Machine.orphan
  with_reducible repeat' first
    | assumption | apply Named.setF | apply Named.setReg | apply Named.setBit | apply RegIn.orphanCtrl
    | apply RegIn.orphanLog | apply RegIn.orphanLog4 | simp only [Named.upd] | dsimp only | split | intro

theorem Named.setPhase (s : State) (c : HostCmd) (p : CmdPhase) (hk : RegsOnly rs s0 s)
    : RegsOnly rs s0 (setPhase s c p) := by
  unfold Sys2Proof.Machine.setPhase
  with_reducible repeat' first
    | assumption | simp only [Named.upd] | dsimp only | split | intro

theorem Named.dropCmd (s : State) (key : Nat × Nat × Nat) (hk : RegsOnly rs s0 s) : RegsOnly rs s0 (dropCmd s key) := by
  unfold Sys2Proof.Machine.dropCmd
  with_reducible repeat' first
    | assumption | simp only [Named.upd] | dsimp only | split | intro

theorem Named.orphanCmd (s : State) (c : HostCmd) (status : Nat) (hk : RegsOnly rs s0 s)
    (r_orphanCtrl : RegName.orphanCtrl ∈ rs) (r_orphanLog : RegName.orphanLog ∈ rs) (r_fltCount2 : RegName.fltCount2 ∈ rs)
    (r_escCfg : RegName.escCfg ∈ rs) : RegsOnly rs s0 (orphanCmd s c status) := by
  unfold Sys2Proof.Machine.orphanCmd
  with_reducible repeat' first
    | assumption | apply Named.settleDone | apply Named.orphan | apply Named.dropCmd | simp only [Named.upd] | dsimp only
    | split | intro

theorem Named.complete (s : State) (c : HostCmd) (status : Nat) (result : List Byte) (hk : RegsOnly rs s0 s)
    (r_orphanCtrl : RegName.orphanCtrl ∈ rs) (r_orphanLog : RegName.orphanLog ∈ rs) (r_fltCount2 : RegName.fltCount2 ∈ rs)
    (r_escCfg : RegName.escCfg ∈ rs) : RegsOnly rs s0 (complete s c status result) := by
  unfold Sys2Proof.Machine.complete
  with_reducible repeat' first
    | assumption | apply Named.orphanCmd | apply Named.setPhase | apply Named.notify | simp only [Named.upd] | dsimp only
    | split | intro

theorem Named.hostWrite (s : State) (addr : Nat) (data : List Byte) (hk : RegsOnly rs s0 s)
    : RegsOnly rs s0 (hostWrite s addr data) := by
  unfold Sys2Proof.Machine.hostWrite
  with_reducible repeat' first
    | assumption | apply Named.emit | simp only [Named.upd] | dsimp only | split | intro

theorem Named.dataOut (s : State) (c : HostCmd) (data : List Byte) (hk : RegsOnly rs s0 s)
    : RegsOnly rs s0 (dataOut s c data) := by
  unfold Sys2Proof.Machine.dataOut
  with_reducible repeat' first
    | assumption | apply Named.hostWrite | simp only [Named.upd] | dsimp only | split | intro

theorem Named.completeData (s : State) (c : HostCmd) (status : Nat) (result data : List Byte) (hk : RegsOnly rs s0 s)
    (r_orphanCtrl : RegName.orphanCtrl ∈ rs) (r_orphanLog : RegName.orphanLog ∈ rs) (r_fltCount2 : RegName.fltCount2 ∈ rs)
    (r_escCfg : RegName.escCfg ∈ rs) : RegsOnly rs s0 (completeData s c status result data) := by
  unfold Sys2Proof.Machine.completeData
  with_reducible repeat' first
    | assumption | apply Named.complete | apply Named.dataOut | simp only [Named.upd] | dsimp only | split | intro

theorem Named.runCmd (s : State) (c : HostCmd) (row : CmdRow) (body : State → State) (hk : RegsOnly rs s0 s)
    (hf : ∀ t, RegsOnly rs s0 t → RegsOnly rs s0 (body t)) : RegsOnly rs s0 (runCmd s c row body) := by
  unfold Sys2Proof.Machine.runCmd
  with_reducible repeat' first
    | assumption | apply hf | apply Named.setPhase | simp only [Named.upd] | dsimp only | split | intro

theorem Named.refuseForm (s : State) (c : HostCmd) (hk : RegsOnly rs s0 s) (r_orphanCtrl : RegName.orphanCtrl ∈ rs)
    (r_orphanLog : RegName.orphanLog ∈ rs) (r_fltCount2 : RegName.fltCount2 ∈ rs) (r_escCfg : RegName.escCfg ∈ rs)
    : RegsOnly rs s0 (refuseForm s c) := by
  unfold Sys2Proof.Machine.refuseForm
  with_reducible repeat' first
    | assumption | apply Named.setPhase | apply Named.complete | simp only [Named.upd] | dsimp only | split | intro

theorem Named.refuseForms (s : State) (hk : RegsOnly rs s0 s) (r_orphanCtrl : RegName.orphanCtrl ∈ rs)
    (r_orphanLog : RegName.orphanLog ∈ rs) (r_fltCount2 : RegName.fltCount2 ∈ rs) (r_escCfg : RegName.escCfg ∈ rs)
    : RegsOnly rs s0 (refuseForms s) := by
  unfold Sys2Proof.Machine.refuseForms
  with_reducible repeat' first
    | assumption | apply Named.forEach | apply Named.refuseForm | simp only [Named.upd] | dsimp only | split | intro

theorem Named.notify (s : State) (n kind : Nat) (payload : List Byte) (hk : RegsOnly rs s0 s)
    : RegsOnly rs s0 (notify s n kind payload) := by
  unfold Sys2Proof.Machine.notify
  with_reducible repeat' first
    | assumption | simp only [Named.upd] | dsimp only | split | intro

theorem Named.atCrossing (s : State) (shut : Bool) (h : Held) (f : State → State) (hk : RegsOnly rs s0 s)
    (hf : ∀ t, RegsOnly rs s0 t → RegsOnly rs s0 (f t)) : RegsOnly rs s0 (atCrossing s shut h f) := by
  unfold Sys2Proof.Machine.atCrossing
  with_reducible repeat' first
    | assumption | apply hf | simp only [Named.upd] | dsimp only | split | intro

theorem Named.holdWrite (s : State) (isl a : Nat) (v : Word) (f : State → State) (hk : RegsOnly rs s0 s)
    (hf : ∀ t, RegsOnly rs s0 t → RegsOnly rs s0 (f t)) : RegsOnly rs s0 (holdWrite s isl a v f) := by
  unfold Sys2Proof.Machine.holdWrite
  with_reducible repeat' first
    | assumption | apply hf | apply Named.atCrossing | simp only [Named.upd] | dsimp only | split | intro

theorem Named.setDom (s : State) (d : Dom) (x : Domain) (hk : RegsOnly rs s0 s) : RegsOnly rs s0 (setDom s d x) := by
  unfold Sys2Proof.Machine.setDom
  with_reducible repeat' first
    | assumption | simp only [Named.upd] | dsimp only | split | intro

theorem Named.setLands (s : State) (f : Lands → Lands) (hk : RegsOnly rs s0 s) : RegsOnly rs s0 (setLands s f) := by
  unfold Sys2Proof.Machine.setLands
  with_reducible repeat' first
    | assumption | simp only [Named.upd] | dsimp only | split | intro

theorem Named.landsPcie (s : State) (up : Bool) (hk : RegsOnly rs s0 s) : RegsOnly rs s0 (landsPcie s up) := by
  unfold Sys2Proof.Machine.landsPcie
  with_reducible repeat' first
    | assumption | apply Named.setLands | simp only [Named.upd] | dsimp only | split | intro

theorem Named.landsFlash (s : State) (hk : RegsOnly rs s0 s) : RegsOnly rs s0 (landsFlash s) := by
  unfold Sys2Proof.Machine.landsFlash
  with_reducible repeat' first
    | assumption | apply Named.setLands | simp only [Named.upd] | dsimp only | split | intro

theorem Named.landsFirmware (s : State) (hk : RegsOnly rs s0 s) : RegsOnly rs s0 (landsFirmware s) := by
  unfold Sys2Proof.Machine.landsFirmware
  with_reducible repeat' first
    | assumption | apply Named.setLands | simp only [Named.upd] | dsimp only | split | intro

theorem Named.landsIo (s : State) (mv : Nat) (hk : RegsOnly rs s0 s) : RegsOnly rs s0 (landsIo s mv) := by
  unfold Sys2Proof.Machine.landsIo
  with_reducible repeat' first
    | assumption | apply Named.setLands | simp only [Named.upd] | dsimp only | split | intro

theorem Named.modJrn (s : State) (f : Journal → Journal) (hk : RegsOnly rs s0 s) : RegsOnly rs s0 (modJrn s f) := by
  unfold Sys2Proof.Machine.modJrn
  with_reducible repeat' first
    | assumption | simp only [Named.upd] | dsimp only | split | intro

theorem Named.jrnWarn (before : Nat) (s : State) (hk : RegsOnly rs s0 s) (r_fltCount2 : RegName.fltCount2 ∈ rs)
    (r_escCfg : RegName.escCfg ∈ rs) : RegsOnly rs s0 (jrnWarn before s) := by
  unfold Sys2Proof.Machine.jrnWarn
  with_reducible repeat' first
    | assumption | apply Named.whenB | apply Named.raise | simp only [Named.upd] | dsimp only | split | intro

theorem Named.jrnTouch (s : State) (lines : List Nat) (hk : RegsOnly rs s0 s) (r_fltCount2 : RegName.fltCount2 ∈ rs)
    (r_escCfg : RegName.escCfg ∈ rs) : RegsOnly rs s0 (jrnTouch s lines) := by
  unfold Sys2Proof.Machine.jrnTouch
  with_reducible repeat' first
    | assumption | apply Named.jrnWarn | apply Named.modJrn | apply Named.foldl | apply Named.foldl1 | simp only [Named.upd]
    | dsimp only | split | intro

theorem Named.jrnRetire (s : State) (l : Nat) (hk : RegsOnly rs s0 s) (r_fltCount2 : RegName.fltCount2 ∈ rs)
    (r_escCfg : RegName.escCfg ∈ rs) : RegsOnly rs s0 (jrnRetire s l) := by
  unfold Sys2Proof.Machine.jrnRetire
  with_reducible repeat' first
    | assumption | apply Named.jrnWarn | apply Named.modJrn | apply Named.raise | simp only [Named.upd] | dsimp only | split
    | intro

theorem Named.jrnFailed (failed : List Nat) (s : State) (hk : RegsOnly rs s0 s) (r_fltCount2 : RegName.fltCount2 ∈ rs)
    (r_escCfg : RegName.escCfg ∈ rs) : RegsOnly rs s0 (jrnFailed failed s) := by
  unfold Sys2Proof.Machine.jrnFailed
  with_reducible repeat' first
    | assumption | apply Named.forEach | apply Named.jrnRetire | simp only [Named.upd] | dsimp only | split | intro

theorem Named.secCount (s : State) (k : Nat) (hk : RegsOnly rs s0 s) (r_secCount : RegName.secCount ∈ rs)
    : RegsOnly rs s0 (secCount s k) := by
  unfold Sys2Proof.Machine.secCount
  with_reducible repeat' first
    | assumption | apply Named.add64 | apply RegIn.secCount | apply RegIn.secCount4 | simp only [Named.upd] | dsimp only
    | split | intro

theorem Named.jrnTagged (s : State) (part : Nat) (ok : Bool) (hk : RegsOnly rs s0 s) (r_secCount : RegName.secCount ∈ rs)
    : RegsOnly rs s0 (jrnTagged s part ok) := by
  unfold Sys2Proof.Machine.jrnTagged
  with_reducible repeat' first
    | assumption | apply Named.whenB | apply Named.secCount | simp only [Named.upd] | dsimp only | split | intro

theorem Named.jrnStore (s : State) (e : JrnEntry) (hk : RegsOnly rs s0 s) (r_fltCount2 : RegName.fltCount2 ∈ rs)
    (r_escCfg : RegName.escCfg ∈ rs) : RegsOnly rs s0 (jrnStore s e) := by
  unfold Sys2Proof.Machine.jrnStore
  with_reducible repeat' first
    | assumption | apply Named.jrnTouch | apply Named.modJrn | simp only [Named.upd] | dsimp only | split | intro

theorem Named.jrnPut (s : State) (e : JrnEntry) (hk : RegsOnly rs s0 s) (r_fltCount2 : RegName.fltCount2 ∈ rs)
    (r_escCfg : RegName.escCfg ∈ rs) (r_secCount : RegName.secCount ∈ rs) : RegsOnly rs s0 (jrnPut s e) := by
  unfold Sys2Proof.Machine.jrnPut
  with_reducible repeat' first
    | assumption | apply Named.jrnStore | apply Named.jrnTagged | simp only [Named.upd] | dsimp only | split | intro

theorem Named.jrnLog (s : State) (e : SysEntry) (hk : RegsOnly rs s0 s) (r_fltCount2 : RegName.fltCount2 ∈ rs)
    (r_escCfg : RegName.escCfg ∈ rs) : RegsOnly rs s0 (jrnLog s e) := by
  unfold Sys2Proof.Machine.jrnLog
  with_reducible repeat' first
    | assumption | apply Named.jrnStore | simp only [Named.upd] | dsimp only | split | intro

theorem Named.jrnOwe (s : State) (e : JrnEntry) (hk : RegsOnly rs s0 s) (r_fltCount2 : RegName.fltCount2 ∈ rs)
    (r_escCfg : RegName.escCfg ∈ rs) (r_secCount : RegName.secCount ∈ rs) : RegsOnly rs s0 (jrnOwe s e) := by
  unfold Sys2Proof.Machine.jrnOwe
  with_reducible repeat' first
    | assumption | apply Named.whenB | apply Named.emit | apply Named.jrnPut | simp only [Named.upd] | dsimp only | split
    | intro

theorem Named.jrnOweFault (s : State) (e : FaultEntry) (hk : RegsOnly rs s0 s) (r_fltCount2 : RegName.fltCount2 ∈ rs)
    (r_escCfg : RegName.escCfg ∈ rs) : RegsOnly rs s0 (jrnOweFault s e) := by
  unfold Sys2Proof.Machine.jrnOweFault
  with_reducible repeat' first
    | assumption | apply Named.jrnStore | simp only [Named.upd] | dsimp only | split | intro

theorem Named.jrnFlush (s : State) (hk : RegsOnly rs s0 s) (r_fltCount2 : RegName.fltCount2 ∈ rs)
    (r_escCfg : RegName.escCfg ∈ rs) (r_secCount : RegName.secCount ∈ rs) : RegsOnly rs s0 (jrnFlush s) := by
  unfold Sys2Proof.Machine.jrnFlush
  with_reducible repeat' first
    | assumption | apply Named.forEach | apply Named.jrnOwe | simp only [Named.upd] | dsimp only | split | intro

theorem Named.faultRecord (s : State) (id access requester address syndrome : Nat) (hk : RegsOnly rs s0 s) (r_fltRec : RegName.fltRec ∈ rs) (r_fltFirst : RegName.fltFirst ∈ rs) (r_fltCount0 : RegName.fltCount0 ∈ rs) (r_fltCount1 : RegName.fltCount1 ∈ rs) (r_fltCount2 : RegName.fltCount2 ∈ rs) (r_escCfg : RegName.escCfg ∈ rs) :
    RegsOnly rs s0 (faultRecord s id access requester address syndrome) := by
  have w (k : Nat) : RegIn rs (aFlt (0x10000 + 0x20 * id) + 4 * k) := RegIn.fltRec r_fltRec
  have w0 := w 0; have w1 := w 1; have w2 := w 2; have w3 := w 3
  have w4 := w 4; have w5 := w 5; have w6 := w 6; have w7 := w 7
  unfold Machine.faultRecord
  dsimp only
  split
  · exact Named.add64 (Named.satF hk w3) (RegIn.fltCount1 r_fltCount1) (RegIn.fltCount14 r_fltCount1)
  · have hb := Named.add64 (n := 1) (Named.setReg64 (v := syndrome) (Named.setReg64 (v := address)
      (Named.setReg (v := BitVec.ofNat 32 (requester % 65536 + 65536))
      (Named.setReg (v := BitVec.ofNat 32 ((s.clock.sec >>> 32) % 65536 + (id % 4096 + access * 4096) * 65536))
        (Named.setReg (v := BitVec.ofNat 32 s.clock.sec)
        (Named.setReg (v := BitVec.ofNat 32 (2 ^ 31 + s.clock.ns % 2 ^ 30)) hk w0) w1) w2) w3) w4 w5) w6 w7)
      (RegIn.fltCount0 r_fltCount0) (RegIn.fltCount04 r_fltCount0)
    split
    · exact Named.jrnOweFault _ _ hb r_fltCount2 r_escCfg
    · exact Named.raise (Named.setReg (Named.jrnOweFault _ _ hb r_fltCount2 r_escCfg) (RegIn.fltFirst r_fltFirst)) r_fltCount2 r_escCfg

theorem Named.fault (s : State) (id access requester address syndrome : Nat) (hk : RegsOnly rs s0 s)
    (r_fltRec : RegName.fltRec ∈ rs) (r_fltFirst : RegName.fltFirst ∈ rs) (r_fltCount0 : RegName.fltCount0 ∈ rs)
    (r_fltCount1 : RegName.fltCount1 ∈ rs) (r_fltCount2 : RegName.fltCount2 ∈ rs) (r_escCfg : RegName.escCfg ∈ rs)
    : RegsOnly rs s0 (fault s id access requester address syndrome) := by
  unfold Sys2Proof.Machine.fault
  with_reducible repeat' first
    | assumption | apply Named.raise | apply Named.faultRecord | simp only [Named.upd] | dsimp only | split | intro

theorem Named.jrnDrop (s : State) (r : JrnRecord) (hk : RegsOnly rs s0 s) (r_fltCount2 : RegName.fltCount2 ∈ rs)
    (r_escCfg : RegName.escCfg ∈ rs) : RegsOnly rs s0 (jrnDrop s r) := by
  unfold Sys2Proof.Machine.jrnDrop
  with_reducible repeat' first
    | assumption | apply Named.raise | apply Named.modJrn | simp only [Named.upd] | dsimp only | split | intro

theorem Named.jrnTorn (s : State) (b : JrnRec) (hk : RegsOnly rs s0 s) (r_fltCount2 : RegName.fltCount2 ∈ rs)
    (r_escCfg : RegName.escCfg ∈ rs) : RegsOnly rs s0 (jrnTorn s b) := by
  unfold Sys2Proof.Machine.jrnTorn
  with_reducible repeat' first
    | assumption | apply Named.raise | apply Named.modJrn | simp only [Named.upd] | dsimp only | split | intro

theorem Named.journalStart (bad : List JrnRec) (s : State) (hk : RegsOnly rs s0 s) (r_fltCount2 : RegName.fltCount2 ∈ rs)
    (r_escCfg : RegName.escCfg ∈ rs) (r_secCount : RegName.secCount ∈ rs) : RegsOnly rs s0 (journalStart bad s) := by
  unfold Sys2Proof.Machine.journalStart
  with_reducible repeat' first
    | assumption | apply Named.forEach | apply Named.jrnTagged | apply Named.jrnTorn | apply Named.jrnDrop
    | apply Named.modJrn | apply Named.whenB | apply Named.jrnLog | simp only [Named.upd] | dsimp only | split | intro

theorem Named.jrnReads (s : State) (pick : JrnEntry → Bool) (hk : RegsOnly rs s0 s) (r_fltCount2 : RegName.fltCount2 ∈ rs)
    (r_escCfg : RegName.escCfg ∈ rs) (r_secCount : RegName.secCount ∈ rs) : RegsOnly rs s0 (jrnReads s pick) := by
  unfold Sys2Proof.Machine.jrnReads
  with_reducible repeat' first
    | assumption | apply Named.forEach | apply Named.whenB | apply Named.jrnDrop | apply Named.jrnTagged | apply Named.drawn
    | simp only [Named.upd] | dsimp only | split | intro

theorem Named.jrnChecked (s : State) (badLines : List Nat) (c : HostCmd) (hk : RegsOnly rs s0 s)
    (r_secCount : RegName.secCount ∈ rs) : RegsOnly rs s0 (jrnChecked s badLines c) := by
  unfold Sys2Proof.Machine.jrnChecked
  with_reducible repeat' first
    | assumption | apply Named.forEach | apply Named.jrnTagged | simp only [Named.upd] | dsimp only | split | intro

theorem Named.doJrnRead (badLines : List Nat) (c : HostCmd) (s : State) (hk : RegsOnly rs s0 s)
    (r_orphanCtrl : RegName.orphanCtrl ∈ rs) (r_orphanLog : RegName.orphanLog ∈ rs) (r_fltCount2 : RegName.fltCount2 ∈ rs)
    (r_escCfg : RegName.escCfg ∈ rs) (r_secCount : RegName.secCount ∈ rs) : RegsOnly rs s0 (doJrnRead badLines c s) := by
  unfold Sys2Proof.Machine.doJrnRead
  with_reducible repeat' first
    | assumption | apply Named.jrnChecked | apply Named.completeData | apply Named.complete | simp only [Named.upd]
    | dsimp only | split | intro

theorem Named.doJrnWrite (badLines failed : List Nat) (c : HostCmd) (s : State) (hk : RegsOnly rs s0 s)
    (r_orphanCtrl : RegName.orphanCtrl ∈ rs) (r_orphanLog : RegName.orphanLog ∈ rs) (r_fltCount2 : RegName.fltCount2 ∈ rs)
    (r_escCfg : RegName.escCfg ∈ rs) (r_secCount : RegName.secCount ∈ rs) : RegsOnly rs s0 (doJrnWrite badLines failed c s) := by
  unfold Sys2Proof.Machine.doJrnWrite
  with_reducible repeat' first
    | assumption | apply Named.modJrn | apply Named.jrnChecked | apply Named.complete | apply Named.jrnFailed
    | apply Named.jrnPut | simp only [Named.upd] | dsimp only | split | intro

theorem Named.execJrnRead (cmd : HostCmd) (badLines : List Nat) (s : State) (hk : RegsOnly rs s0 s)
    (r_orphanCtrl : RegName.orphanCtrl ∈ rs) (r_orphanLog : RegName.orphanLog ∈ rs) (r_fltCount2 : RegName.fltCount2 ∈ rs)
    (r_escCfg : RegName.escCfg ∈ rs) (r_secCount : RegName.secCount ∈ rs) : NamedO rs s0 (execJrnRead cmd badLines s) := by
  unfold Sys2Proof.Machine.execJrnRead
  with_reducible repeat' first
    | assumption | apply Named.runCmd | apply Named.doJrnRead | apply NamedO.next | simp only [Named.upd] | dsimp only
    | split | intro

theorem Named.execJrnWrite (cmd : HostCmd) (badLines failedBlocks : List Nat) (s : State) (hk : RegsOnly rs s0 s)
    (r_orphanCtrl : RegName.orphanCtrl ∈ rs) (r_orphanLog : RegName.orphanLog ∈ rs) (r_fltCount2 : RegName.fltCount2 ∈ rs)
    (r_escCfg : RegName.escCfg ∈ rs) (r_secCount : RegName.secCount ∈ rs)
    : NamedO rs s0 (execJrnWrite cmd badLines failedBlocks s) := by
  unfold Sys2Proof.Machine.execJrnWrite
  with_reducible repeat' first
    | assumption | apply Named.runCmd | apply Named.doJrnWrite | apply NamedO.next | simp only [Named.upd] | dsimp only
    | split | intro

theorem Named.ledgerAdd (s : State) (key a b : Nat) (hk : RegsOnly rs s0 s) : RegsOnly rs s0 (ledgerAdd s key a b) := by
  unfold Sys2Proof.Machine.ledgerAdd
  with_reducible repeat' first
    | assumption | simp only [Named.upd] | dsimp only | split | intro

theorem Named.ledgerPacket (s : State) (key : Nat) (p : Packet) (hk : RegsOnly rs s0 s)
    : RegsOnly rs s0 (ledgerPacket s key p) := by
  unfold Sys2Proof.Machine.ledgerPacket
  with_reducible repeat' first
    | assumption | apply Named.ledgerAdd | simp only [Named.upd] | dsimp only | split | intro

theorem Named.pmcBump (fuel : Nat) (s : State) (n k : Nat) (hk : RegsOnly rs s0 s)
    (r_fltCount2 : RegName.fltCount2 ∈ rs) (r_escCfg : RegName.escCfg ∈ rs) (r_pmcCount : RegName.pmcCount ∈ rs) :
    RegsOnly rs s0 (pmcBump fuel s n k) := by
  induction fuel generalizing s n k with
  | zero => exact hk
  | succ f ih =>
    unfold Sys2Proof.Machine.pmcBump
    with_reducible repeat' first
      | assumption | apply RegIn.pmcCount | apply ih | apply Named.whenB | apply Named.setReg | apply Named.raise | dsimp only | split | intro

theorem Named.noteAct (s : State) (k n : Nat) (hk : RegsOnly rs s0 s) : RegsOnly rs s0 (noteAct s k n) := by
  unfold Sys2Proof.Machine.noteAct
  with_reducible repeat' first
    | assumption | simp only [Named.upd] | dsimp only | split | intro

theorem Named.pmcAdd (s : State) (n k : Nat) (hk : RegsOnly rs s0 s) (r_fltCount2 : RegName.fltCount2 ∈ rs)
    (r_escCfg : RegName.escCfg ∈ rs) (r_pmcCount : RegName.pmcCount ∈ rs) : RegsOnly rs s0 (pmcAdd s n k) := by
  unfold Sys2Proof.Machine.pmcAdd
  with_reducible repeat' first
    | assumption | apply Named.noteAct | apply Named.pmcBump | simp only [Named.upd] | dsimp only | split | intro

theorem Named.pmcEvent (s : State) (n k : Nat) (hk : RegsOnly rs s0 s) (r_fltCount2 : RegName.fltCount2 ∈ rs)
    (r_escCfg : RegName.escCfg ∈ rs) (r_pmcCount : RegName.pmcCount ∈ rs) : RegsOnly rs s0 (pmcEvent s n k) := by
  unfold Sys2Proof.Machine.pmcEvent
  with_reducible repeat' first
    | assumption | apply Named.pmcAdd | simp only [Named.upd] | dsimp only | split | intro

theorem Named.pmcBeats (s : State) (m ch : Nat) (hk : RegsOnly rs s0 s) (r_fltCount2 : RegName.fltCount2 ∈ rs)
    (r_escCfg : RegName.escCfg ∈ rs) (r_pmcCount : RegName.pmcCount ∈ rs) : RegsOnly rs s0 (pmcBeats s m ch) := by
  unfold Sys2Proof.Machine.pmcBeats
  with_reducible repeat' first
    | assumption | apply Named.pmcAdd | simp only [Named.upd] | dsimp only | split | intro

theorem Named.execPmcCountWrite (n : Nat) (value : Word) (occurrences : Nat) (s : State) (hk : RegsOnly rs s0 s)
    (r_fltCount2 : RegName.fltCount2 ∈ rs) (r_escCfg : RegName.escCfg ∈ rs) (r_pmcCount : RegName.pmcCount ∈ rs)
    : NamedO rs s0 (execPmcCountWrite n value occurrences s) := by
  unfold Sys2Proof.Machine.execPmcCountWrite
  with_reducible repeat' first
    | assumption | apply Named.holdWrite | apply Named.pmcEvent | apply Named.setReg | apply RegIn.pmcCount
    | apply NamedO.next | simp only [Named.upd] | dsimp only | split | intro

theorem Named.addTal (s : State) (k : Nat) (hk : RegsOnly rs s0 s) (r_talCount : RegName.talCount ∈ rs)
    : RegsOnly rs s0 (addTal s k) := by
  unfold Sys2Proof.Machine.addTal
  with_reducible repeat' first
    | assumption | apply Named.add64 | apply RegIn.talCount | apply RegIn.talCount4 | simp only [Named.upd] | dsimp only
    | split | intro

theorem Named.recordLost (s : State) (hk : RegsOnly rs s0 s) (r_fltCount2 : RegName.fltCount2 ∈ rs)
    (r_escCfg : RegName.escCfg ∈ rs) (r_talCount : RegName.talCount ∈ rs) : RegsOnly rs s0 (recordLost s) := by
  unfold Sys2Proof.Machine.recordLost
  with_reducible repeat' first
    | assumption | apply Named.raiseLimited | apply Named.addTal | simp only [Named.upd] | dsimp only | split | intro

theorem Named.exportHand (s : State) (r : ExpRec) (hk : RegsOnly rs s0 s) (r_fltCount2 : RegName.fltCount2 ∈ rs)
    (r_escCfg : RegName.escCfg ∈ rs) (r_talCount : RegName.talCount ∈ rs) : RegsOnly rs s0 (exportHand s r) := by
  unfold Sys2Proof.Machine.exportHand
  with_reducible repeat' first
    | assumption | apply Named.addTal | apply Named.recordLost | simp only [Named.upd] | dsimp only | split | intro

theorem Named.postcard (s : State) (pipe : Nat) (t : Tally) (isDrop : Bool) (hk : RegsOnly rs s0 s)
    (r_fltCount2 : RegName.fltCount2 ∈ rs) (r_escCfg : RegName.escCfg ∈ rs) (r_talCount : RegName.talCount ∈ rs)
    : RegsOnly rs s0 (postcard s pipe t isDrop) := by
  unfold Sys2Proof.Machine.postcard
  with_reducible repeat' first
    | assumption | apply Named.exportHand | simp only [Named.upd] | dsimp only | split | intro

theorem Named.dropRecord (s : State) (pipe reason : Nat) (p : Packet) (t : Tally) (hk : RegsOnly rs s0 s)
    (r_fltCount2 : RegName.fltCount2 ∈ rs) (r_escCfg : RegName.escCfg ∈ rs) (r_talCount : RegName.talCount ∈ rs)
    : RegsOnly rs s0 (dropRecord s pipe reason p t) := by
  unfold Sys2Proof.Machine.dropRecord
  with_reducible repeat' first
    | assumption | apply Named.postcard | apply Named.ledgerPacket | simp only [Named.upd] | dsimp only | split | intro

theorem Named.histograms (s : State) (l lat qdly : Nat) (p : Packet) (hk : RegsOnly rs s0 s)
    : RegsOnly rs s0 (histograms s l lat qdly p) := by
  unfold Sys2Proof.Machine.histograms
  with_reducible repeat' first
    | assumption | apply Named.ledgerPacket | simp only [Named.upd] | dsimp only | split | intro

theorem Named.holdUnit (s : State) (ua pool cls id : Nat) (hk : RegsOnly rs s0 s) (r_fltCount2 : RegName.fltCount2 ∈ rs)
    (r_escCfg : RegName.escCfg ∈ rs) (r_mktStatus : RegName.mktStatus ∈ rs) (r_poolFree : RegName.poolFree ∈ rs)
    (r_pmcCount : RegName.pmcCount ∈ rs) : RegsOnly rs s0 (holdUnit s ua pool cls id) := by
  unfold Sys2Proof.Machine.holdUnit
  with_reducible repeat' first
    | assumption | apply Named.setF | apply Named.pmcEvent | apply Named.setBit | apply RegIn.mktStatus
    | apply RegIn.poolFree | simp only [Named.upd] | dsimp only | split | intro

theorem Named.syncEmpty (s : State) (hk : RegsOnly rs s0 s) (r_mktStatus : RegName.mktStatus ∈ rs)
    : RegsOnly rs s0 (syncEmpty s) := by
  unfold Sys2Proof.Machine.syncEmpty
  with_reducible repeat' first
    | assumption | apply Named.setBit | apply RegIn.mktStatus | simp only [Named.upd] | dsimp only | split | intro

theorem Named.freeUnit (s : State) (ua : Nat) (hk : RegsOnly rs s0 s) (r_fltCount2 : RegName.fltCount2 ∈ rs)
    (r_escCfg : RegName.escCfg ∈ rs) (r_mktStatus : RegName.mktStatus ∈ rs) (r_poolFree : RegName.poolFree ∈ rs)
    (r_pmcCount : RegName.pmcCount ∈ rs) : RegsOnly rs s0 (freeUnit s ua) := by
  unfold Sys2Proof.Machine.freeUnit
  with_reducible repeat' first
    | assumption | apply Named.whenB | apply Named.setF | apply Named.pmcEvent | apply Named.syncEmpty | apply RegIn.poolFree
    | simp only [Named.upd] | dsimp only | split | intro

theorem Named.retag (s : State) (ua cls id : Nat) (hk : RegsOnly rs s0 s) : RegsOnly rs s0 (retag s ua cls id) := by
  unfold Sys2Proof.Machine.retag
  with_reducible repeat' first
    | assumption | simp only [Named.upd] | dsimp only | split | intro

theorem Named.grantPool (s : State) (rq pool cls id : Nat) (k : UClass) (hk : RegsOnly rs s0 s)
    (r_fltCount2 : RegName.fltCount2 ∈ rs) (r_escCfg : RegName.escCfg ∈ rs) (r_mktStatus : RegName.mktStatus ∈ rs)
    (r_poolFree : RegName.poolFree ∈ rs) (r_pmcCount : RegName.pmcCount ∈ rs)
    : RegsOnly rs s0 (grantPool s rq pool cls id k).1 := by
  unfold Sys2Proof.Machine.grantPool
  with_reducible repeat' first
    | assumption | apply Named.holdUnit | simp only [Named.upd] | dsimp only | split | intro

theorem Named.fallBack (s : State) (hk : RegsOnly rs s0 s) (r_mktCount3 : RegName.mktCount3 ∈ rs)
    : RegsOnly rs s0 (fallBack s) := by
  unfold Sys2Proof.Machine.fallBack
  with_reducible repeat' first
    | assumption | apply Named.add64 | apply RegIn.mktCount3 | apply RegIn.mktCount34 | simp only [Named.upd] | dsimp only
    | split | intro

theorem Named.requestUnit (s : State) (rq pool cls id : Nat) (k : UClass) (hk : RegsOnly rs s0 s)
    (r_fltCount2 : RegName.fltCount2 ∈ rs) (r_escCfg : RegName.escCfg ∈ rs) (r_mktStatus : RegName.mktStatus ∈ rs)
    (r_poolFree : RegName.poolFree ∈ rs) (r_mktCount3 : RegName.mktCount3 ∈ rs) (r_pmcCount : RegName.pmcCount ∈ rs)
    : RegsOnly rs s0 (requestUnit s rq pool cls id k).1 := by
  unfold Sys2Proof.Machine.requestUnit
  with_reducible repeat' first
    | assumption | apply Named.fallBack | apply Named.grantPool | apply Named.whenB | apply Named.pmcEvent
    | apply Named.foldl | apply Named.foldl1 | simp only [Named.upd] | dsimp only | split | intro

theorem Named.freeRefused (s : State) (requester ua : Nat) (hk : RegsOnly rs s0 s) (r_fltRec : RegName.fltRec ∈ rs)
    (r_fltFirst : RegName.fltFirst ∈ rs) (r_fltCount0 : RegName.fltCount0 ∈ rs) (r_fltCount1 : RegName.fltCount1 ∈ rs)
    (r_fltCount2 : RegName.fltCount2 ∈ rs) (r_escCfg : RegName.escCfg ∈ rs) (r_mktCount0 : RegName.mktCount0 ∈ rs)
    : RegsOnly rs s0 (freeRefused s requester ua) := by
  unfold Sys2Proof.Machine.freeRefused
  with_reducible repeat' first
    | assumption | apply Named.fault | apply Named.add64 | apply RegIn.mktCount0 | apply RegIn.mktCount04
    | simp only [Named.upd] | dsimp only | split | intro

theorem Named.addOcc (s : State) (q : Nat) (d : Int) (hk : RegsOnly rs s0 s) (r_partUsed : RegName.partUsed ∈ rs)
    (r_qcfgOcc : RegName.qcfgOcc ∈ rs) : RegsOnly rs s0 (addOcc s q d) := by
  unfold Sys2Proof.Machine.addOcc
  with_reducible repeat' first
    | assumption | apply Named.addF21 | apply RegIn.partUsed | apply RegIn.qcfgOcc | simp only [Named.upd] | dsimp only
    | split | intro

theorem Named.addHostUsed (s : State) (d : Int) (hk : RegsOnly rs s0 s) (r_partUsed : RegName.partUsed ∈ rs)
    : RegsOnly rs s0 (addHostUsed s d) := by
  unfold Sys2Proof.Machine.addHostUsed
  with_reducible repeat' first
    | assumption | apply Named.addF21 | apply RegIn.partUsed | simp only [Named.upd] | dsimp only | split | intro

theorem Named.setQueue (s : State) (q : Nat) (l : List Copy) (hk : RegsOnly rs s0 s) : RegsOnly rs s0 (setQueue s q l) := by
  unfold Sys2Proof.Machine.setQueue
  with_reducible repeat' first
    | assumption | simp only [Named.upd] | dsimp only | split | intro

theorem Named.enqueue (s : State) (q : Nat) (c : Copy) (hk : RegsOnly rs s0 s) : RegsOnly rs s0 (enqueue s q c) := by
  unfold Sys2Proof.Machine.enqueue
  with_reducible repeat' first
    | assumption | apply Named.setQueue | simp only [Named.upd] | dsimp only | split | intro

theorem Named.noteShare (s : State) (kind q n : Nat) (hk : RegsOnly rs s0 s) : RegsOnly rs s0 (noteShare s kind q n) := by
  unfold Sys2Proof.Machine.noteShare
  with_reducible repeat' first
    | assumption | simp only [Named.upd] | dsimp only | split | intro

theorem Named.noteAdmitted (s : State) (c : Copy) (hk : RegsOnly rs s0 s) : RegsOnly rs s0 (noteAdmitted s c) := by
  unfold Sys2Proof.Machine.noteAdmitted
  with_reducible repeat' first
    | assumption | apply Named.noteShare | simp only [Named.upd] | dsimp only | split | intro

theorem Named.mapPackets (s : State) (f : Packet → Packet) (hk : RegsOnly rs s0 s) : RegsOnly rs s0 (mapPackets s f) := by
  unfold Sys2Proof.Machine.mapPackets
  with_reducible repeat' first
    | assumption | simp only [Named.upd] | dsimp only | split | intro

theorem Named.setSpq (s : State) (q : Nat) (x : SpillQ) (hk : RegsOnly rs s0 s) : RegsOnly rs s0 (setSpq s q x) := by
  unfold Sys2Proof.Machine.setSpq
  with_reducible repeat' first
    | assumption | simp only [Named.upd] | dsimp only | split | intro

theorem Named.addSpl (s : State) (k n : Nat) (hk : RegsOnly rs s0 s) (r_splCount : RegName.splCount ∈ rs)
    : RegsOnly rs s0 (addSpl s k n) := by
  unfold Sys2Proof.Machine.addSpl
  with_reducible repeat' first
    | assumption | apply Named.add64 | apply RegIn.splCount | apply RegIn.splCount4 | simp only [Named.upd] | dsimp only
    | split | intro

theorem Named.setStagingFree (s : State) (n : Nat) (hk : RegsOnly rs s0 s) (r_stagingFree : RegName.stagingFree ∈ rs)
    : RegsOnly rs s0 (setStagingFree s n) := by
  unfold Sys2Proof.Machine.setStagingFree
  with_reducible repeat' first
    | assumption | apply Named.setF | apply RegIn.stagingFree | simp only [Named.upd] | dsimp only | split | intro

theorem Named.takePage (s : State) (m : Nat) (hk : RegsOnly rs s0 s) (r_stackStatus : RegName.stackStatus ∈ rs)
    : RegsOnly rs s0 (takePage s m).1 := by
  unfold Sys2Proof.Machine.takePage
  with_reducible repeat' first
    | assumption | apply Named.setF | apply RegIn.stackStatus | simp only [Named.upd] | dsimp only | split | intro

theorem Named.givePage (s : State) (m p : Nat) (hk : RegsOnly rs s0 s) (r_stackStatus : RegName.stackStatus ∈ rs)
    : RegsOnly rs s0 (givePage s m p) := by
  unfold Sys2Proof.Machine.givePage
  with_reducible repeat' first
    | assumption | apply Named.setF | apply RegIn.stackStatus | simp only [Named.upd] | dsimp only | split | intro

theorem Named.spillEnter (s : State) (q m : Nat) (hk : RegsOnly rs s0 s) (r_splCount : RegName.splCount ∈ rs)
    (r_qspillStatus : RegName.qspillStatus ∈ rs) : RegsOnly rs s0 (spillEnter s q m) := by
  unfold Sys2Proof.Machine.spillEnter
  with_reducible repeat' first
    | assumption | apply Named.setSpq | apply Named.addSpl | apply Named.setF | apply RegIn.qspillStatus
    | simp only [Named.upd] | dsimp only | split | intro

theorem Named.openNext (s : State) (q : Nat) (hk : RegsOnly rs s0 s) (r_stackStatus : RegName.stackStatus ∈ rs)
    : RegsOnly rs s0 (openNext s q) := by
  unfold Sys2Proof.Machine.openNext
  with_reducible repeat' first
    | assumption | apply Named.takePage | apply Named.setSpq | simp only [Named.upd] | dsimp only | split | intro

theorem Named.spillHandoff (s : State) (q : Nat) (c : Copy) (hk : RegsOnly rs s0 s)
    (r_stagingFree : RegName.stagingFree ∈ rs) (r_splCount : RegName.splCount ∈ rs) (r_stackStatus : RegName.stackStatus ∈ rs)
    : RegsOnly rs s0 (spillHandoff s q c).1 := by
  unfold Sys2Proof.Machine.spillHandoff
  with_reducible repeat' first
    | assumption | apply Named.openNext | apply Named.setSpq | apply Named.addSpl | apply Named.setStagingFree
    | apply Named.noteShare | apply Named.noteAdmitted | simp only [Named.upd] | dsimp only | split | intro

theorem Named.spillExit (s : State) (q : Nat) (hk : RegsOnly rs s0 s) (r_stackStatus : RegName.stackStatus ∈ rs)
    (r_qspillStatus : RegName.qspillStatus ∈ rs) : RegsOnly rs s0 (spillExit s q) := by
  unfold Sys2Proof.Machine.spillExit
  with_reducible repeat' first
    | assumption | apply Named.forEach | apply Named.givePage | apply Named.setBit | apply Named.setSpq
    | apply RegIn.qspillStatus | simp only [Named.upd] | dsimp only | split | intro

theorem Named.spillCount (s : State) (reason : Nat) (hk : RegsOnly rs s0 s) (r_fltCount2 : RegName.fltCount2 ∈ rs)
    (r_escCfg : RegName.escCfg ∈ rs) (r_splCount : RegName.splCount ∈ rs) : RegsOnly rs s0 (spillCount s reason) := by
  unfold Sys2Proof.Machine.spillCount
  with_reducible repeat' first
    | assumption | apply Named.raiseLimited | apply Named.addSpl | simp only [Named.upd] | dsimp only | split | intro

theorem Named.notePitch (s : State) (q : Nat) (hk : RegsOnly rs s0 s) (r_qcfgPitch : RegName.qcfgPitch ∈ rs)
    : RegsOnly rs s0 (notePitch s q) := by
  unfold Sys2Proof.Machine.notePitch
  with_reducible repeat' first
    | assumption | apply Named.setF | apply RegIn.qcfgPitch | simp only [Named.upd] | dsimp only | split | intro

theorem Named.updXoff (s : State) (l n : Nat) (hk : RegsOnly rs s0 s) (r_pfcState : RegName.pfcState ∈ rs)
    : RegsOnly rs s0 (updXoff s l n) := by
  unfold Sys2Proof.Machine.updXoff
  with_reducible repeat' first
    | assumption | apply Named.setBit | apply RegIn.pfcState | simp only [Named.upd] | dsimp only | split | intro

theorem Named.addIng (s : State) (f : MFrame) (d : Int) (hk : RegsOnly rs s0 s) (r_pfcState : RegName.pfcState ∈ rs)
    (r_ingUsed : RegName.ingUsed ∈ rs) (r_hdrmUsed : RegName.hdrmUsed ∈ rs) : RegsOnly rs s0 (addIng s f d) := by
  unfold Sys2Proof.Machine.addIng
  with_reducible repeat' first
    | assumption | apply Named.addF21 | apply Named.updXoff | apply RegIn.ingUsed | apply RegIn.hdrmUsed
    | simp only [Named.upd] | dsimp only | split | intro

theorem Named.ecnApply (s : State) (p : Packet) (q : Nat) (hk : RegsOnly rs s0 s) : RegsOnly rs s0 (ecnApply s p q).1 := by
  unfold Sys2Proof.Machine.ecnApply
  with_reducible repeat' first
    | assumption | apply Named.drawn | simp only [Named.upd] | dsimp only | split | intro

theorem Named.putFrame (s : State) (f : MFrame) (hk : RegsOnly rs s0 s) : RegsOnly rs s0 (putFrame s f) := by
  unfold Sys2Proof.Machine.putFrame
  with_reducible repeat' first
    | assumption | simp only [Named.upd] | dsimp only | split | intro

theorem Named.dropFrameRec (s : State) (id : Nat) (hk : RegsOnly rs s0 s) : RegsOnly rs s0 (dropFrameRec s id) := by
  unfold Sys2Proof.Machine.dropFrameRec
  with_reducible repeat' first
    | assumption | simp only [Named.upd] | dsimp only | split | intro

theorem Named.takeChain (fuel : Nat) (s : State) (rq n : Nat) (tag : Nat × Nat) (k : UClass) (hk : RegsOnly rs s0 s)
    (r_fltCount2 : RegName.fltCount2 ∈ rs) (r_escCfg : RegName.escCfg ∈ rs) (r_mktStatus : RegName.mktStatus ∈ rs) (r_poolFree : RegName.poolFree ∈ rs) (r_mktCount3 : RegName.mktCount3 ∈ rs) (r_pmcCount : RegName.pmcCount ∈ rs) :
    RegsOnly rs s0 (takeChain fuel s rq n tag k).1 := by
  induction fuel generalizing s n with
  | zero => exact hk
  | succ f ih =>
    unfold Sys2Proof.Machine.takeChain
    with_reducible repeat' first
      | assumption | apply ih | apply Named.requestUnit | dsimp only | split | intro

theorem Named.takeUnits (s : State) (rq : Nat) (p : Packet) (tag : Nat × Nat) (k : UClass) (hk : RegsOnly rs s0 s)
    (r_fltCount2 : RegName.fltCount2 ∈ rs) (r_escCfg : RegName.escCfg ∈ rs) (r_mktStatus : RegName.mktStatus ∈ rs)
    (r_poolFree : RegName.poolFree ∈ rs) (r_mktCount3 : RegName.mktCount3 ∈ rs) (r_pmcCount : RegName.pmcCount ∈ rs)
    : RegsOnly rs s0 (takeUnits s rq p tag k).1 := by
  unfold Sys2Proof.Machine.takeUnits
  with_reducible repeat' first
    | assumption | apply Named.requestUnit | apply Named.takeChain | simp only [Named.upd] | dsimp only | split | intro

theorem Named.enqueueCopies (s : State) (p : Packet) (cs : List Copy) (units : List Nat) (hclass : Bool)
    (hk : RegsOnly rs s0 s) (r_partUsed : RegName.partUsed ∈ rs) (r_qcfgOcc : RegName.qcfgOcc ∈ rs)
    (r_pfcState : RegName.pfcState ∈ rs) (r_ingUsed : RegName.ingUsed ∈ rs) (r_hdrmUsed : RegName.hdrmUsed ∈ rs)
    : RegsOnly rs s0 (enqueueCopies s p cs units hclass) := by
  unfold Sys2Proof.Machine.enqueueCopies
  with_reducible repeat' first
    | assumption | apply Named.forEach | apply Named.retag | apply Named.addIng | apply Named.putFrame
    | apply Named.noteAdmitted | apply Named.addOcc | apply Named.enqueue | simp only [Named.upd] | dsimp only | split
    | intro

theorem Named.shareCopies (s : State) (f : MFrame) (cs : List Copy) (hk : RegsOnly rs s0 s)
    (r_partUsed : RegName.partUsed ∈ rs) (r_qcfgOcc : RegName.qcfgOcc ∈ rs) : RegsOnly rs s0 (shareCopies s f cs) := by
  unfold Sys2Proof.Machine.shareCopies
  with_reducible repeat' first
    | assumption | apply Named.forEach | apply Named.retag | apply Named.putFrame | apply Named.noteAdmitted
    | apply Named.addOcc | apply Named.enqueue | simp only [Named.upd] | dsimp only | split | intro

theorem Named.freeByCopy (s : State) (q u : Nat) (hk : RegsOnly rs s0 s) (r_fltRec : RegName.fltRec ∈ rs)
    (r_fltFirst : RegName.fltFirst ∈ rs) (r_fltCount0 : RegName.fltCount0 ∈ rs) (r_fltCount1 : RegName.fltCount1 ∈ rs)
    (r_fltCount2 : RegName.fltCount2 ∈ rs) (r_escCfg : RegName.escCfg ∈ rs) (r_mktStatus : RegName.mktStatus ∈ rs)
    (r_poolFree : RegName.poolFree ∈ rs) (r_mktCount0 : RegName.mktCount0 ∈ rs) (r_pmcCount : RegName.pmcCount ∈ rs)
    : RegsOnly rs s0 (freeByCopy s q u) := by
  unfold Sys2Proof.Machine.freeByCopy
  with_reducible repeat' first
    | assumption | apply Named.freeUnit | apply Named.freeRefused | simp only [Named.upd] | dsimp only | split | intro

theorem Named.releaseCopy (s : State) (c : Copy) (hk : RegsOnly rs s0 s) (r_fltRec : RegName.fltRec ∈ rs)
    (r_fltFirst : RegName.fltFirst ∈ rs) (r_fltCount0 : RegName.fltCount0 ∈ rs) (r_fltCount1 : RegName.fltCount1 ∈ rs)
    (r_fltCount2 : RegName.fltCount2 ∈ rs) (r_escCfg : RegName.escCfg ∈ rs) (r_mktStatus : RegName.mktStatus ∈ rs)
    (r_poolFree : RegName.poolFree ∈ rs) (r_mktCount0 : RegName.mktCount0 ∈ rs) (r_partUsed : RegName.partUsed ∈ rs)
    (r_qcfgOcc : RegName.qcfgOcc ∈ rs) (r_pfcState : RegName.pfcState ∈ rs) (r_ingUsed : RegName.ingUsed ∈ rs)
    (r_hdrmUsed : RegName.hdrmUsed ∈ rs) (r_pmcCount : RegName.pmcCount ∈ rs) : RegsOnly rs s0 (releaseCopy s c) := by
  unfold Sys2Proof.Machine.releaseCopy
  with_reducible repeat' first
    | assumption | apply Named.addOcc | apply Named.addIng | apply Named.forEach | apply Named.freeByCopy
    | apply Named.dropFrameRec | apply Named.retag | apply Named.putFrame | simp only [Named.upd] | dsimp only | split
    | intro

theorem Named.spillStep (r : State × List Copy × List (Copy × Nat)) (c : Copy) (hk : RegsOnly rs s0 r.1)
    (r_stagingFree : RegName.stagingFree ∈ rs) (r_splCount : RegName.splCount ∈ rs) (r_stackStatus : RegName.stackStatus ∈ rs)
    (r_qspillStatus : RegName.qspillStatus ∈ rs) : RegsOnly rs s0 (spillStep r c).1 := by
  unfold Sys2Proof.Machine.spillStep
  with_reducible repeat' first
    | assumption | apply Named.spillHandoff | apply Named.spillExit | apply Named.spillEnter | simp only [Named.upd]
    | dsimp only | split | intro

theorem Named.placeCopies (s : State) (p : Packet) (cs : List Copy) (units : List Nat) (hclass : Bool)
    (hk : RegsOnly rs s0 s) (r_mktCount6 : RegName.mktCount6 ∈ rs) (r_partUsed : RegName.partUsed ∈ rs)
    (r_qcfgOcc : RegName.qcfgOcc ∈ rs) (r_pfcState : RegName.pfcState ∈ rs) (r_ingUsed : RegName.ingUsed ∈ rs)
    (r_hdrmUsed : RegName.hdrmUsed ∈ rs) : RegsOnly rs s0 (placeCopies s p cs units hclass) := by
  unfold Sys2Proof.Machine.placeCopies
  with_reducible repeat' first
    | assumption | apply Named.forEach | apply Named.add64 | apply Named.enqueueCopies | apply RegIn.mktCount6
    | apply RegIn.mktCount64 | simp only [Named.upd] | dsimp only | split | intro

theorem Named.placeFails (s : State) (cs : List Copy) (units : List Nat) (hk : RegsOnly rs s0 s)
    (r_fltCount2 : RegName.fltCount2 ∈ rs) (r_escCfg : RegName.escCfg ∈ rs) (r_mktStatus : RegName.mktStatus ∈ rs)
    (r_poolFree : RegName.poolFree ∈ rs) (r_pmcCount : RegName.pmcCount ∈ rs) : RegsOnly rs s0 (placeFails s cs units).1 := by
  unfold Sys2Proof.Machine.placeFails
  with_reducible repeat' first
    | assumption | apply Named.forEach | apply Named.freeUnit | simp only [Named.upd] | dsimp only | split | intro

theorem Named.takeMore (s : State) (rq : Nat) (p : Packet) (units : List Nat) (hk : RegsOnly rs s0 s)
    (r_fltCount2 : RegName.fltCount2 ∈ rs) (r_escCfg : RegName.escCfg ∈ rs) (r_mktStatus : RegName.mktStatus ∈ rs)
    (r_poolFree : RegName.poolFree ∈ rs) (r_mktCount3 : RegName.mktCount3 ∈ rs) (r_pmcCount : RegName.pmcCount ∈ rs)
    : RegsOnly rs s0 (takeMore s rq p units).1 := by
  unfold Sys2Proof.Machine.takeMore
  with_reducible repeat' first
    | assumption | apply Named.takeUnits | apply Named.takeChain | simp only [Named.upd] | dsimp only | split | intro

theorem Named.placeMarket (s : State) (rq : Nat) (p : Packet) (cs : List Copy) (hclass : Bool) (hk : RegsOnly rs s0 s)
    (r_fltCount2 : RegName.fltCount2 ∈ rs) (r_escCfg : RegName.escCfg ∈ rs) (r_mktStatus : RegName.mktStatus ∈ rs)
    (r_poolFree : RegName.poolFree ∈ rs) (r_mktCount3 : RegName.mktCount3 ∈ rs) (r_mktCount6 : RegName.mktCount6 ∈ rs)
    (r_partUsed : RegName.partUsed ∈ rs) (r_qcfgOcc : RegName.qcfgOcc ∈ rs) (r_pfcState : RegName.pfcState ∈ rs)
    (r_ingUsed : RegName.ingUsed ∈ rs) (r_hdrmUsed : RegName.hdrmUsed ∈ rs) (r_pmcCount : RegName.pmcCount ∈ rs)
    : RegsOnly rs s0 (placeMarket s rq p cs hclass).1 := by
  unfold Sys2Proof.Machine.placeMarket
  with_reducible repeat' first
    | assumption | apply Named.shareCopies | apply Named.takeUnits | apply Named.placeCopies | apply Named.placeFails
    | apply Named.takeMore | simp only [Named.upd] | dsimp only | split | intro

theorem Named.ecnCount (s : State) (k : Option Bool) (kept : Bool) (hk : RegsOnly rs s0 s)
    (r_mktCount4 : RegName.mktCount4 ∈ rs) (r_mktCount5 : RegName.mktCount5 ∈ rs) : RegsOnly rs s0 (ecnCount s k kept) := by
  unfold Sys2Proof.Machine.ecnCount
  with_reducible repeat' first
    | assumption | apply Named.add64 | apply RegIn.mktCount4 | apply RegIn.mktCount44 | apply RegIn.mktCount5
    | apply RegIn.mktCount54 | simp only [Named.upd] | dsimp only | split | intro

theorem Named.admitCopies (s : State) (rq : Nat) (p : Packet) (cs : List Copy) (hk : RegsOnly rs s0 s)
    (r_fltCount2 : RegName.fltCount2 ∈ rs) (r_escCfg : RegName.escCfg ∈ rs) (r_mktStatus : RegName.mktStatus ∈ rs)
    (r_poolFree : RegName.poolFree ∈ rs) (r_mktCount3 : RegName.mktCount3 ∈ rs) (r_mktCount4 : RegName.mktCount4 ∈ rs)
    (r_mktCount5 : RegName.mktCount5 ∈ rs) (r_mktCount6 : RegName.mktCount6 ∈ rs) (r_partUsed : RegName.partUsed ∈ rs)
    (r_qcfgPitch : RegName.qcfgPitch ∈ rs) (r_qcfgOcc : RegName.qcfgOcc ∈ rs) (r_pfcState : RegName.pfcState ∈ rs)
    (r_ingUsed : RegName.ingUsed ∈ rs) (r_hdrmUsed : RegName.hdrmUsed ∈ rs) (r_stagingFree : RegName.stagingFree ∈ rs)
    (r_splCount : RegName.splCount ∈ rs) (r_stackStatus : RegName.stackStatus ∈ rs) (r_qspillStatus : RegName.qspillStatus ∈ rs)
    (r_pmcCount : RegName.pmcCount ∈ rs) : RegsOnly rs s0 (admitCopies s rq p cs).1 := by
  unfold Sys2Proof.Machine.admitCopies
  with_reducible repeat' first
    | assumption | apply Named.forEach | apply Named.notePitch | apply Named.ecnApply | apply Named.spillStep
    | apply Named.placeMarket | apply Named.ecnCount | apply Named.foldl | apply Named.foldl1 | simp only [Named.upd]
    | dsimp only | split | intro

theorem Named.sessionTakes (s : State) (k : Nat) (hk : RegsOnly rs s0 s) : RegsOnly rs s0 (sessionTakes s k).1 := by
  unfold Sys2Proof.Machine.sessionTakes
  with_reducible repeat' first
    | assumption | simp only [Named.upd] | dsimp only | split | intro

theorem Named.dropCopy (s : State) (pipe reason : Nat) (p : Packet) (t : Tally) (hk : RegsOnly rs s0 s)
    (r_fltCount2 : RegName.fltCount2 ∈ rs) (r_escCfg : RegName.escCfg ∈ rs) (r_mktStatus : RegName.mktStatus ∈ rs)
    (r_poolFree : RegName.poolFree ∈ rs) (r_mktCount3 : RegName.mktCount3 ∈ rs) (r_mktCount4 : RegName.mktCount4 ∈ rs)
    (r_mktCount5 : RegName.mktCount5 ∈ rs) (r_mktCount6 : RegName.mktCount6 ∈ rs) (r_partUsed : RegName.partUsed ∈ rs)
    (r_qcfgPitch : RegName.qcfgPitch ∈ rs) (r_qcfgOcc : RegName.qcfgOcc ∈ rs) (r_pfcState : RegName.pfcState ∈ rs)
    (r_ingUsed : RegName.ingUsed ∈ rs) (r_hdrmUsed : RegName.hdrmUsed ∈ rs) (r_stagingFree : RegName.stagingFree ∈ rs)
    (r_splCount : RegName.splCount ∈ rs) (r_stackStatus : RegName.stackStatus ∈ rs) (r_qspillStatus : RegName.qspillStatus ∈ rs)
    (r_talCount : RegName.talCount ∈ rs) (r_pmcCount : RegName.pmcCount ∈ rs) : RegsOnly rs s0 (dropCopy s pipe reason p t) := by
  unfold Sys2Proof.Machine.dropCopy
  with_reducible repeat' first
    | assumption | apply Named.sessionTakes | apply Named.admitCopies | apply Named.addTal | apply Named.raiseLimited
    | simp only [Named.upd] | dsimp only | split | intro

theorem Named.dropPacket (s : State) (pipe reason : Nat) (p : Packet) (t : Tally) (hk : RegsOnly rs s0 s)
    (r_fltCount2 : RegName.fltCount2 ∈ rs) (r_escCfg : RegName.escCfg ∈ rs) (r_mktStatus : RegName.mktStatus ∈ rs)
    (r_poolFree : RegName.poolFree ∈ rs) (r_mktCount3 : RegName.mktCount3 ∈ rs) (r_mktCount4 : RegName.mktCount4 ∈ rs)
    (r_mktCount5 : RegName.mktCount5 ∈ rs) (r_mktCount6 : RegName.mktCount6 ∈ rs) (r_partUsed : RegName.partUsed ∈ rs)
    (r_qcfgPitch : RegName.qcfgPitch ∈ rs) (r_qcfgOcc : RegName.qcfgOcc ∈ rs) (r_pfcState : RegName.pfcState ∈ rs)
    (r_ingUsed : RegName.ingUsed ∈ rs) (r_hdrmUsed : RegName.hdrmUsed ∈ rs) (r_stagingFree : RegName.stagingFree ∈ rs)
    (r_splCount : RegName.splCount ∈ rs) (r_stackStatus : RegName.stackStatus ∈ rs) (r_qspillStatus : RegName.qspillStatus ∈ rs)
    (r_talCount : RegName.talCount ∈ rs) (r_pmcCount : RegName.pmcCount ∈ rs)
    : RegsOnly rs s0 (dropPacket s pipe reason p t) := by
  unfold Sys2Proof.Machine.dropPacket
  with_reducible repeat' first
    | assumption | apply Named.spillCount | apply Named.dropRecord | apply Named.raiseLimited | apply Named.dropCopy
    | simp only [Named.upd] | dsimp only | split | intro

theorem Named.dropQueued (s : State) (c : Copy) (reason : Nat) (hk : RegsOnly rs s0 s) (r_fltRec : RegName.fltRec ∈ rs)
    (r_fltFirst : RegName.fltFirst ∈ rs) (r_fltCount0 : RegName.fltCount0 ∈ rs) (r_fltCount1 : RegName.fltCount1 ∈ rs)
    (r_fltCount2 : RegName.fltCount2 ∈ rs) (r_escCfg : RegName.escCfg ∈ rs) (r_mktStatus : RegName.mktStatus ∈ rs)
    (r_poolFree : RegName.poolFree ∈ rs) (r_mktCount0 : RegName.mktCount0 ∈ rs) (r_mktCount3 : RegName.mktCount3 ∈ rs)
    (r_mktCount4 : RegName.mktCount4 ∈ rs) (r_mktCount5 : RegName.mktCount5 ∈ rs) (r_mktCount6 : RegName.mktCount6 ∈ rs)
    (r_partUsed : RegName.partUsed ∈ rs) (r_qcfgPitch : RegName.qcfgPitch ∈ rs) (r_qcfgOcc : RegName.qcfgOcc ∈ rs)
    (r_pfcState : RegName.pfcState ∈ rs) (r_ingUsed : RegName.ingUsed ∈ rs) (r_hdrmUsed : RegName.hdrmUsed ∈ rs)
    (r_stagingFree : RegName.stagingFree ∈ rs) (r_splCount : RegName.splCount ∈ rs) (r_stackStatus : RegName.stackStatus ∈ rs)
    (r_qspillStatus : RegName.qspillStatus ∈ rs) (r_talCount : RegName.talCount ∈ rs) (r_pmcCount : RegName.pmcCount ∈ rs)
    : RegsOnly rs s0 (dropQueued s c reason) := by
  unfold Sys2Proof.Machine.dropQueued
  with_reducible repeat' first
    | assumption | apply Named.releaseCopy | apply Named.dropPacket | simp only [Named.upd] | dsimp only | split | intro

theorem Named.dropRefused (s : State) (pipe : Nat) (l : List (Copy × Nat)) (hk : RegsOnly rs s0 s)
    (r_fltCount2 : RegName.fltCount2 ∈ rs) (r_escCfg : RegName.escCfg ∈ rs) (r_mktStatus : RegName.mktStatus ∈ rs)
    (r_poolFree : RegName.poolFree ∈ rs) (r_mktCount3 : RegName.mktCount3 ∈ rs) (r_mktCount4 : RegName.mktCount4 ∈ rs)
    (r_mktCount5 : RegName.mktCount5 ∈ rs) (r_mktCount6 : RegName.mktCount6 ∈ rs) (r_partUsed : RegName.partUsed ∈ rs)
    (r_qcfgPitch : RegName.qcfgPitch ∈ rs) (r_qcfgOcc : RegName.qcfgOcc ∈ rs) (r_pfcState : RegName.pfcState ∈ rs)
    (r_ingUsed : RegName.ingUsed ∈ rs) (r_hdrmUsed : RegName.hdrmUsed ∈ rs) (r_stagingFree : RegName.stagingFree ∈ rs)
    (r_splCount : RegName.splCount ∈ rs) (r_stackStatus : RegName.stackStatus ∈ rs) (r_qspillStatus : RegName.qspillStatus ∈ rs)
    (r_talCount : RegName.talCount ∈ rs) (r_pmcCount : RegName.pmcCount ∈ rs) : RegsOnly rs s0 (dropRefused s pipe l) := by
  unfold Sys2Proof.Machine.dropRefused
  with_reducible repeat' first
    | assumption | apply Named.forEach | apply Named.dropPacket | simp only [Named.upd] | dsimp only | split | intro

theorem Named.putCell (s : State) (m ch page : Nat) (b : List Byte) (hk : RegsOnly rs s0 s)
    : RegsOnly rs s0 (putCell s m ch page b) := by
  unfold Sys2Proof.Machine.putCell
  with_reducible repeat' first
    | assumption | simp only [Named.upd] | dsimp only | split | intro

theorem Named.execPageFlushTimer (queue : Nat) (s : State) (hk : RegsOnly rs s0 s)
    : NamedO rs s0 (execPageFlushTimer queue s) := by
  unfold Sys2Proof.Machine.execPageFlushTimer
  with_reducible repeat' first
    | assumption | apply Named.setSpq | apply NamedO.next | simp only [Named.upd] | dsimp only | split | intro

theorem Named.addXfer (s : State) (t : Xfer) (hk : RegsOnly rs s0 s) : RegsOnly rs s0 (addXfer s t) := by
  unfold Sys2Proof.Machine.addXfer
  with_reducible repeat' first
    | assumption | simp only [Named.upd] | dsimp only | split | intro

theorem Named.dropXfer (s : State) (t : Xfer) (hk : RegsOnly rs s0 s) : RegsOnly rs s0 (dropXfer s t) := by
  unfold Sys2Proof.Machine.dropXfer
  with_reducible repeat' first
    | assumption | simp only [Named.upd] | dsimp only | split | intro

theorem Named.execPageWriteStart (queue : Nat) (s : State) (hk : RegsOnly rs s0 s) (r_stackStatus : RegName.stackStatus ∈ rs)
    : NamedO rs s0 (execPageWriteStart queue s) := by
  unfold Sys2Proof.Machine.execPageWriteStart
  with_reducible repeat' first
    | assumption | apply Named.whenB | apply Named.openNext | apply Named.setSpq | apply Named.addXfer | apply NamedO.next
    | simp only [Named.upd] | dsimp only | split | intro

theorem Named.dropSpilled (s : State) (q reason : Nat) (r : Record) (hk : RegsOnly rs s0 s)
    (r_fltCount2 : RegName.fltCount2 ∈ rs) (r_escCfg : RegName.escCfg ∈ rs) (r_mktStatus : RegName.mktStatus ∈ rs)
    (r_poolFree : RegName.poolFree ∈ rs) (r_mktCount3 : RegName.mktCount3 ∈ rs) (r_mktCount4 : RegName.mktCount4 ∈ rs)
    (r_mktCount5 : RegName.mktCount5 ∈ rs) (r_mktCount6 : RegName.mktCount6 ∈ rs) (r_partUsed : RegName.partUsed ∈ rs)
    (r_qcfgPitch : RegName.qcfgPitch ∈ rs) (r_qcfgOcc : RegName.qcfgOcc ∈ rs) (r_pfcState : RegName.pfcState ∈ rs)
    (r_ingUsed : RegName.ingUsed ∈ rs) (r_hdrmUsed : RegName.hdrmUsed ∈ rs) (r_stagingFree : RegName.stagingFree ∈ rs)
    (r_splCount : RegName.splCount ∈ rs) (r_stackStatus : RegName.stackStatus ∈ rs) (r_qspillStatus : RegName.qspillStatus ∈ rs)
    (r_talCount : RegName.talCount ∈ rs) (r_pmcCount : RegName.pmcCount ∈ rs) : RegsOnly rs s0 (dropSpilled s q reason r) := by
  unfold Sys2Proof.Machine.dropSpilled
  with_reducible repeat' first
    | assumption | apply Named.dropPacket | simp only [Named.upd] | dsimp only | split | intro

theorem Named.freeDrain (s : State) (q : Nat) (units : List (List Nat)) (hk : RegsOnly rs s0 s)
    (r_fltCount2 : RegName.fltCount2 ∈ rs) (r_escCfg : RegName.escCfg ∈ rs) (r_mktStatus : RegName.mktStatus ∈ rs)
    (r_poolFree : RegName.poolFree ∈ rs) (r_partUsed : RegName.partUsed ∈ rs) (r_qcfgOcc : RegName.qcfgOcc ∈ rs)
    (r_pmcCount : RegName.pmcCount ∈ rs) : RegsOnly rs s0 (freeDrain s q units) := by
  unfold Sys2Proof.Machine.freeDrain
  with_reducible repeat' first
    | assumption | apply Named.addOcc | apply Named.forEach | apply Named.freeUnit | simp only [Named.upd] | dsimp only
    | split | intro

theorem Named.dropHbmPart (s : State) (q reason : Nat) (hk : RegsOnly rs s0 s) (r_fltCount2 : RegName.fltCount2 ∈ rs)
    (r_escCfg : RegName.escCfg ∈ rs) (r_mktStatus : RegName.mktStatus ∈ rs) (r_poolFree : RegName.poolFree ∈ rs)
    (r_mktCount3 : RegName.mktCount3 ∈ rs) (r_mktCount4 : RegName.mktCount4 ∈ rs) (r_mktCount5 : RegName.mktCount5 ∈ rs)
    (r_mktCount6 : RegName.mktCount6 ∈ rs) (r_partUsed : RegName.partUsed ∈ rs) (r_qcfgPitch : RegName.qcfgPitch ∈ rs)
    (r_qcfgOcc : RegName.qcfgOcc ∈ rs) (r_pfcState : RegName.pfcState ∈ rs) (r_ingUsed : RegName.ingUsed ∈ rs)
    (r_hdrmUsed : RegName.hdrmUsed ∈ rs) (r_stagingFree : RegName.stagingFree ∈ rs) (r_splCount : RegName.splCount ∈ rs)
    (r_stackStatus : RegName.stackStatus ∈ rs) (r_qspillStatus : RegName.qspillStatus ∈ rs) (r_talCount : RegName.talCount ∈ rs)
    (r_pmcCount : RegName.pmcCount ∈ rs) : RegsOnly rs s0 (dropHbmPart s q reason) := by
  unfold Sys2Proof.Machine.dropHbmPart
  with_reducible repeat' first
    | assumption | apply Named.forEach | apply Named.dropXfer | apply Named.freeDrain | apply Named.dropSpilled
    | apply Named.setStagingFree | apply Named.setF | apply Named.setBit | apply Named.setSpq | apply Named.foldl
    | apply Named.foldl1 | apply RegIn.qspillStatus | simp only [Named.upd] | dsimp only | split | intro

theorem Named.loseStack (s : State) (m : Nat) (hk : RegsOnly rs s0 s) (r_bringup : RegName.bringup ∈ rs)
    (r_fltCount2 : RegName.fltCount2 ∈ rs) (r_escCfg : RegName.escCfg ∈ rs) (r_mktStatus : RegName.mktStatus ∈ rs)
    (r_poolFree : RegName.poolFree ∈ rs) (r_mktCount3 : RegName.mktCount3 ∈ rs) (r_mktCount4 : RegName.mktCount4 ∈ rs)
    (r_mktCount5 : RegName.mktCount5 ∈ rs) (r_mktCount6 : RegName.mktCount6 ∈ rs) (r_partUsed : RegName.partUsed ∈ rs)
    (r_qcfgPitch : RegName.qcfgPitch ∈ rs) (r_qcfgOcc : RegName.qcfgOcc ∈ rs) (r_pfcState : RegName.pfcState ∈ rs)
    (r_ingUsed : RegName.ingUsed ∈ rs) (r_hdrmUsed : RegName.hdrmUsed ∈ rs) (r_stagingFree : RegName.stagingFree ∈ rs)
    (r_splCount : RegName.splCount ∈ rs) (r_stackStatus : RegName.stackStatus ∈ rs) (r_qspillStatus : RegName.qspillStatus ∈ rs)
    (r_talCount : RegName.talCount ∈ rs) (r_pmcCount : RegName.pmcCount ∈ rs) : RegsOnly rs s0 (loseStack s m) := by
  unfold Sys2Proof.Machine.loseStack
  with_reducible repeat' first
    | assumption | apply Named.raise | apply Named.setBit | apply Named.clearBringup | apply Named.forEach
    | apply Named.dropHbmPart | apply Named.whenB | apply RegIn.stackStatus | simp only [Named.upd] | dsimp only | split
    | intro

theorem Named.retireChannel (s : State) (m c : Nat) (hk : RegsOnly rs s0 s) (r_bringup : RegName.bringup ∈ rs)
    (r_fltCount2 : RegName.fltCount2 ∈ rs) (r_escCfg : RegName.escCfg ∈ rs) (r_mktStatus : RegName.mktStatus ∈ rs)
    (r_poolFree : RegName.poolFree ∈ rs) (r_mktCount3 : RegName.mktCount3 ∈ rs) (r_mktCount4 : RegName.mktCount4 ∈ rs)
    (r_mktCount5 : RegName.mktCount5 ∈ rs) (r_mktCount6 : RegName.mktCount6 ∈ rs) (r_partUsed : RegName.partUsed ∈ rs)
    (r_qcfgPitch : RegName.qcfgPitch ∈ rs) (r_qcfgOcc : RegName.qcfgOcc ∈ rs) (r_pfcState : RegName.pfcState ∈ rs)
    (r_ingUsed : RegName.ingUsed ∈ rs) (r_hdrmUsed : RegName.hdrmUsed ∈ rs) (r_stagingFree : RegName.stagingFree ∈ rs)
    (r_splCount : RegName.splCount ∈ rs) (r_stackStatus : RegName.stackStatus ∈ rs) (r_retiredCh : RegName.retiredCh ∈ rs)
    (r_qspillStatus : RegName.qspillStatus ∈ rs) (r_talCount : RegName.talCount ∈ rs) (r_pmcCount : RegName.pmcCount ∈ rs)
    : RegsOnly rs s0 (retireChannel s m c) := by
  unfold Sys2Proof.Machine.retireChannel
  with_reducible repeat' first
    | assumption | apply Named.raise | apply Named.setBit | apply Named.loseStack | apply RegIn.stackStatus
    | apply RegIn.retiredCh | simp only [Named.upd] | dsimp only | split | intro

theorem Named.noteChErr (s : State) (m c : Nat) (hk : RegsOnly rs s0 s) (r_bringup : RegName.bringup ∈ rs)
    (r_fltCount2 : RegName.fltCount2 ∈ rs) (r_escCfg : RegName.escCfg ∈ rs) (r_mktStatus : RegName.mktStatus ∈ rs)
    (r_poolFree : RegName.poolFree ∈ rs) (r_mktCount3 : RegName.mktCount3 ∈ rs) (r_mktCount4 : RegName.mktCount4 ∈ rs)
    (r_mktCount5 : RegName.mktCount5 ∈ rs) (r_mktCount6 : RegName.mktCount6 ∈ rs) (r_partUsed : RegName.partUsed ∈ rs)
    (r_qcfgPitch : RegName.qcfgPitch ∈ rs) (r_qcfgOcc : RegName.qcfgOcc ∈ rs) (r_pfcState : RegName.pfcState ∈ rs)
    (r_ingUsed : RegName.ingUsed ∈ rs) (r_hdrmUsed : RegName.hdrmUsed ∈ rs) (r_stagingFree : RegName.stagingFree ∈ rs)
    (r_splCount : RegName.splCount ∈ rs) (r_stackStatus : RegName.stackStatus ∈ rs) (r_retiredCh : RegName.retiredCh ∈ rs)
    (r_chEcc : RegName.chEcc ∈ rs) (r_qspillStatus : RegName.qspillStatus ∈ rs) (r_talCount : RegName.talCount ∈ rs)
    (r_pmcCount : RegName.pmcCount ∈ rs) : RegsOnly rs s0 (noteChErr s m c) := by
  unfold Sys2Proof.Machine.noteChErr
  with_reducible repeat' first
    | assumption | apply Named.satF | apply Named.retireChannel | apply RegIn.chEcc | simp only [Named.upd] | dsimp only
    | split | intro

theorem Named.noteChCorr (s : State) (m c : Nat) (hk : RegsOnly rs s0 s) (r_fltCount2 : RegName.fltCount2 ∈ rs)
    (r_escCfg : RegName.escCfg ∈ rs) (r_chEcc : RegName.chEcc ∈ rs) (r_pmcCount : RegName.pmcCount ∈ rs)
    : RegsOnly rs s0 (noteChCorr s m c) := by
  unfold Sys2Proof.Machine.noteChCorr
  with_reducible repeat' first
    | assumption | apply Named.pmcBeats | apply Named.satF | apply RegIn.chEcc | simp only [Named.upd] | dsimp only | split
    | intro

theorem Named.rebuiltRecord (s : State) (requester access m c page : Nat) (hk : RegsOnly rs s0 s)
    (r_fltRec : RegName.fltRec ∈ rs) (r_fltFirst : RegName.fltFirst ∈ rs) (r_fltCount0 : RegName.fltCount0 ∈ rs)
    (r_fltCount1 : RegName.fltCount1 ∈ rs) (r_fltCount2 : RegName.fltCount2 ∈ rs) (r_escCfg : RegName.escCfg ∈ rs)
    (r_splCount : RegName.splCount ∈ rs) : RegsOnly rs s0 (rebuiltRecord s requester access m c page) := by
  unfold Sys2Proof.Machine.rebuiltRecord
  with_reducible repeat' first
    | assumption | apply Named.fault | apply Named.addSpl | simp only [Named.upd] | dsimp only | split | intro

theorem Named.execPageWriteCommit (stack tag : Nat) (failedCh : List Nat) (s : State) (hk : RegsOnly rs s0 s)
    (r_bringup : RegName.bringup ∈ rs) (r_fltCount2 : RegName.fltCount2 ∈ rs) (r_escCfg : RegName.escCfg ∈ rs)
    (r_mktStatus : RegName.mktStatus ∈ rs) (r_poolFree : RegName.poolFree ∈ rs) (r_mktCount3 : RegName.mktCount3 ∈ rs)
    (r_mktCount4 : RegName.mktCount4 ∈ rs) (r_mktCount5 : RegName.mktCount5 ∈ rs) (r_mktCount6 : RegName.mktCount6 ∈ rs)
    (r_partUsed : RegName.partUsed ∈ rs) (r_qcfgPitch : RegName.qcfgPitch ∈ rs) (r_qcfgOcc : RegName.qcfgOcc ∈ rs)
    (r_pfcState : RegName.pfcState ∈ rs) (r_ingUsed : RegName.ingUsed ∈ rs) (r_hdrmUsed : RegName.hdrmUsed ∈ rs)
    (r_stagingFree : RegName.stagingFree ∈ rs) (r_splCount : RegName.splCount ∈ rs) (r_stackStatus : RegName.stackStatus ∈ rs)
    (r_retiredCh : RegName.retiredCh ∈ rs) (r_chEcc : RegName.chEcc ∈ rs) (r_qspillStatus : RegName.qspillStatus ∈ rs)
    (r_talCount : RegName.talCount ∈ rs) (r_pmcCount : RegName.pmcCount ∈ rs)
    : NamedO rs s0 (execPageWriteCommit stack tag failedCh s) := by
  unfold Sys2Proof.Machine.execPageWriteCommit
  with_reducible repeat' first
    | assumption | apply Named.forEach | apply Named.pmcBeats | apply Named.noteAct | apply Named.putCell
    | apply Named.setSpq | apply Named.setStagingFree | apply Named.dropXfer | apply Named.addSpl | apply Named.setF
    | apply Named.noteChErr | apply RegIn.qspillStatus | apply NamedO.next | simp only [Named.upd] | dsimp only | split
    | intro

theorem Named.drainUnits (s : State) (recs : List Record) (hk : RegsOnly rs s0 s)
    (r_fltCount2 : RegName.fltCount2 ∈ rs) (r_escCfg : RegName.escCfg ∈ rs) (r_mktStatus : RegName.mktStatus ∈ rs) (r_poolFree : RegName.poolFree ∈ rs) (r_mktCount3 : RegName.mktCount3 ∈ rs) (r_pmcCount : RegName.pmcCount ∈ rs) :
    ∀ x, drainUnits s recs = some x → RegsOnly rs s0 x.1 := by
  unfold Sys2Proof.Machine.drainUnits
  suffices ∀ (l : List Record) (acc : Option (State × List (List Nat))), (∀ x, acc = some x → RegsOnly rs s0 x.1) →
      ∀ x, l.foldl _ acc = some x → RegsOnly rs s0 x.1 from this recs _ (by rintro x ⟨⟩; exact hk)
  intro l
  induction l with
  | nil => exact fun acc h x hx => h x hx
  | cons r rest ih =>
    intro acc h
    apply ih
    intro x hx
    dsimp only at hx
    split at hx
    · cases hx
    · rename_i s' us
      have h0 := h _ rfl
      split at hx
      · cases hx
        dsimp only
        refine Named.foldl1 (s := (s', [])) h0 ?_
        intro t y ht
        with_reducible repeat' first | assumption | apply Named.requestUnit
      · cases hx

theorem Named.deliverFrame (s : State) (q : Nat) (r : Record) (b : List Byte) (units : List Nat) (hk : RegsOnly rs s0 s)
    (r_pfcState : RegName.pfcState ∈ rs) (r_ingUsed : RegName.ingUsed ∈ rs) (r_hdrmUsed : RegName.hdrmUsed ∈ rs)
    (r_splCount : RegName.splCount ∈ rs) : RegsOnly rs s0 (deliverFrame s q r b units) := by
  unfold Sys2Proof.Machine.deliverFrame
  with_reducible repeat' first
    | assumption | apply Named.addIng | apply Named.putFrame | apply Named.forEach | apply Named.retag | apply Named.addSpl
    | apply Named.noteShare | apply Named.enqueue | simp only [Named.upd] | dsimp only | split | intro

theorem Named.deliverAll (s : State) (q : Nat) (lost : Bool) (l : List (Record × List Nat))
    (stream : List Byte) (cl : Bool) (hk : RegsOnly rs s0 s)
    (r_fltCount2 : RegName.fltCount2 ∈ rs) (r_escCfg : RegName.escCfg ∈ rs) (r_mktStatus : RegName.mktStatus ∈ rs) (r_poolFree : RegName.poolFree ∈ rs) (r_mktCount3 : RegName.mktCount3 ∈ rs) (r_mktCount4 : RegName.mktCount4 ∈ rs) (r_mktCount5 : RegName.mktCount5 ∈ rs) (r_mktCount6 : RegName.mktCount6 ∈ rs) (r_partUsed : RegName.partUsed ∈ rs) (r_qcfgPitch : RegName.qcfgPitch ∈ rs) (r_qcfgOcc : RegName.qcfgOcc ∈ rs) (r_pfcState : RegName.pfcState ∈ rs) (r_ingUsed : RegName.ingUsed ∈ rs) (r_hdrmUsed : RegName.hdrmUsed ∈ rs) (r_stagingFree : RegName.stagingFree ∈ rs) (r_splCount : RegName.splCount ∈ rs) (r_stackStatus : RegName.stackStatus ∈ rs) (r_qspillStatus : RegName.qspillStatus ∈ rs) (r_talCount : RegName.talCount ∈ rs) (r_pmcCount : RegName.pmcCount ∈ rs) :
    RegsOnly rs s0 (deliverAll s q lost l stream cl).1 := by
  induction l generalizing s stream cl with
  | nil => exact hk
  | cons x rest ih =>
    obtain ⟨r, us⟩ := x
    unfold Sys2Proof.Machine.deliverAll
    with_reducible repeat' first
      | assumption | apply ih | apply Named.dropSpilled | apply Named.freeDrain | apply Named.deliverFrame | split

theorem Named.commitRead (s : State) (t : Xfer) (d : Option (List Byte)) (hk : RegsOnly rs s0 s)
    (r_fltCount2 : RegName.fltCount2 ∈ rs) (r_escCfg : RegName.escCfg ∈ rs) (r_mktStatus : RegName.mktStatus ∈ rs)
    (r_poolFree : RegName.poolFree ∈ rs) (r_mktCount3 : RegName.mktCount3 ∈ rs) (r_mktCount4 : RegName.mktCount4 ∈ rs)
    (r_mktCount5 : RegName.mktCount5 ∈ rs) (r_mktCount6 : RegName.mktCount6 ∈ rs) (r_partUsed : RegName.partUsed ∈ rs)
    (r_qcfgPitch : RegName.qcfgPitch ∈ rs) (r_qcfgOcc : RegName.qcfgOcc ∈ rs) (r_pfcState : RegName.pfcState ∈ rs)
    (r_ingUsed : RegName.ingUsed ∈ rs) (r_hdrmUsed : RegName.hdrmUsed ∈ rs) (r_stagingFree : RegName.stagingFree ∈ rs)
    (r_splCount : RegName.splCount ∈ rs) (r_stackStatus : RegName.stackStatus ∈ rs) (r_qspillStatus : RegName.qspillStatus ∈ rs)
    (r_talCount : RegName.talCount ∈ rs) (r_pmcCount : RegName.pmcCount ∈ rs) : RegsOnly rs s0 (commitRead s t d) := by
  unfold Sys2Proof.Machine.commitRead
  with_reducible repeat' first
    | assumption | apply Named.deliverAll | apply Named.dropXfer | apply Named.setSpq | apply Named.whenB | apply Named.raise
    | apply Named.setStagingFree | apply Named.addSpl | apply Named.setF | apply Named.givePage | apply RegIn.qspillStatus
    | simp only [Named.upd] | dsimp only | split | intro

theorem Named.commitReads (fuel : Nat) (s : State) (q : Nat) (hk : RegsOnly rs s0 s)
    (r_fltCount2 : RegName.fltCount2 ∈ rs) (r_escCfg : RegName.escCfg ∈ rs) (r_mktStatus : RegName.mktStatus ∈ rs) (r_poolFree : RegName.poolFree ∈ rs) (r_mktCount3 : RegName.mktCount3 ∈ rs) (r_mktCount4 : RegName.mktCount4 ∈ rs) (r_mktCount5 : RegName.mktCount5 ∈ rs) (r_mktCount6 : RegName.mktCount6 ∈ rs) (r_partUsed : RegName.partUsed ∈ rs) (r_qcfgPitch : RegName.qcfgPitch ∈ rs) (r_qcfgOcc : RegName.qcfgOcc ∈ rs) (r_pfcState : RegName.pfcState ∈ rs) (r_ingUsed : RegName.ingUsed ∈ rs) (r_hdrmUsed : RegName.hdrmUsed ∈ rs) (r_stagingFree : RegName.stagingFree ∈ rs) (r_splCount : RegName.splCount ∈ rs) (r_stackStatus : RegName.stackStatus ∈ rs) (r_qspillStatus : RegName.qspillStatus ∈ rs) (r_talCount : RegName.talCount ∈ rs) (r_pmcCount : RegName.pmcCount ∈ rs) :
    RegsOnly rs s0 (commitReads fuel s q) := by
  induction fuel generalizing s with
  | zero => exact hk
  | succ f ih =>
    unfold Sys2Proof.Machine.commitReads
    with_reducible repeat' first
      | assumption | apply ih | apply Named.commitRead | dsimp only | split | intro

theorem Named.settleReads (s : State) (q : Nat) (hk : RegsOnly rs s0 s) (r_fltCount2 : RegName.fltCount2 ∈ rs)
    (r_escCfg : RegName.escCfg ∈ rs) (r_mktStatus : RegName.mktStatus ∈ rs) (r_poolFree : RegName.poolFree ∈ rs)
    (r_mktCount3 : RegName.mktCount3 ∈ rs) (r_mktCount4 : RegName.mktCount4 ∈ rs) (r_mktCount5 : RegName.mktCount5 ∈ rs)
    (r_mktCount6 : RegName.mktCount6 ∈ rs) (r_partUsed : RegName.partUsed ∈ rs) (r_qcfgPitch : RegName.qcfgPitch ∈ rs)
    (r_qcfgOcc : RegName.qcfgOcc ∈ rs) (r_pfcState : RegName.pfcState ∈ rs) (r_ingUsed : RegName.ingUsed ∈ rs)
    (r_hdrmUsed : RegName.hdrmUsed ∈ rs) (r_stagingFree : RegName.stagingFree ∈ rs) (r_splCount : RegName.splCount ∈ rs)
    (r_stackStatus : RegName.stackStatus ∈ rs) (r_qspillStatus : RegName.qspillStatus ∈ rs) (r_talCount : RegName.talCount ∈ rs)
    (r_pmcCount : RegName.pmcCount ∈ rs) : RegsOnly rs s0 (settleReads s q) := by
  unfold Sys2Proof.Machine.settleReads
  with_reducible repeat' first
    | assumption | apply Named.spillExit | apply Named.commitReads | simp only [Named.upd] | dsimp only | split | intro

theorem Named.execPageReadStart (queue : Nat) (s : State) (hk : RegsOnly rs s0 s) (r_fltCount2 : RegName.fltCount2 ∈ rs) (r_escCfg : RegName.escCfg ∈ rs) (r_mktStatus : RegName.mktStatus ∈ rs) (r_poolFree : RegName.poolFree ∈ rs) (r_mktCount3 : RegName.mktCount3 ∈ rs) (r_mktCount4 : RegName.mktCount4 ∈ rs) (r_mktCount5 : RegName.mktCount5 ∈ rs) (r_mktCount6 : RegName.mktCount6 ∈ rs) (r_partUsed : RegName.partUsed ∈ rs) (r_qcfgPitch : RegName.qcfgPitch ∈ rs) (r_qcfgOcc : RegName.qcfgOcc ∈ rs) (r_pfcState : RegName.pfcState ∈ rs) (r_ingUsed : RegName.ingUsed ∈ rs) (r_hdrmUsed : RegName.hdrmUsed ∈ rs) (r_stagingFree : RegName.stagingFree ∈ rs) (r_splCount : RegName.splCount ∈ rs) (r_stackStatus : RegName.stackStatus ∈ rs) (r_qspillStatus : RegName.qspillStatus ∈ rs) (r_talCount : RegName.talCount ∈ rs) (r_pmcCount : RegName.pmcCount ∈ rs) :
    NamedO rs s0 (execPageReadStart queue s) := by
  have hd : ∀ recs x, Machine.drainUnits s recs = some x → RegsOnly rs s0 x.1 := by
    intro recs
    apply Named.drainUnits <;> assumption
  unfold Sys2Proof.Machine.execPageReadStart
  with_reducible repeat' first
    | assumption | apply NamedO.next | apply Named.settleReads | apply Named.addSpl | apply Named.addXfer | apply Named.setSpq
    | apply Named.addOcc | exact hd _ _ (by assumption) | dsimp only | split | intro

theorem Named.execPageReadCommit (stack tag : Nat) (corrCh badCh : List Nat) (s : State) (hk : RegsOnly rs s0 s)
    (r_bringup : RegName.bringup ∈ rs) (r_fltRec : RegName.fltRec ∈ rs) (r_fltFirst : RegName.fltFirst ∈ rs)
    (r_fltCount0 : RegName.fltCount0 ∈ rs) (r_fltCount1 : RegName.fltCount1 ∈ rs) (r_fltCount2 : RegName.fltCount2 ∈ rs)
    (r_escCfg : RegName.escCfg ∈ rs) (r_mktStatus : RegName.mktStatus ∈ rs) (r_poolFree : RegName.poolFree ∈ rs)
    (r_mktCount3 : RegName.mktCount3 ∈ rs) (r_mktCount4 : RegName.mktCount4 ∈ rs) (r_mktCount5 : RegName.mktCount5 ∈ rs)
    (r_mktCount6 : RegName.mktCount6 ∈ rs) (r_partUsed : RegName.partUsed ∈ rs) (r_qcfgPitch : RegName.qcfgPitch ∈ rs)
    (r_qcfgOcc : RegName.qcfgOcc ∈ rs) (r_pfcState : RegName.pfcState ∈ rs) (r_ingUsed : RegName.ingUsed ∈ rs)
    (r_hdrmUsed : RegName.hdrmUsed ∈ rs) (r_stagingFree : RegName.stagingFree ∈ rs) (r_splCount : RegName.splCount ∈ rs)
    (r_stackStatus : RegName.stackStatus ∈ rs) (r_retiredCh : RegName.retiredCh ∈ rs) (r_chEcc : RegName.chEcc ∈ rs)
    (r_qspillStatus : RegName.qspillStatus ∈ rs) (r_talCount : RegName.talCount ∈ rs) (r_pmcCount : RegName.pmcCount ∈ rs)
    : NamedO rs s0 (execPageReadCommit stack tag corrCh badCh s) := by
  unfold Sys2Proof.Machine.execPageReadCommit
  with_reducible repeat' first
    | assumption | apply Named.forEach | apply Named.pmcBeats | apply Named.noteAct | apply Named.noteChCorr
    | apply Named.settleReads | apply Named.noteChErr | apply Named.rebuiltRecord | apply Named.whenB | apply NamedO.next
    | simp only [Named.upd] | dsimp only | split | intro

theorem Named.execChRetire (stack : Nat) (value : Word) (s : State) (hk : RegsOnly rs s0 s)
    (r_bringup : RegName.bringup ∈ rs) (r_fltCount2 : RegName.fltCount2 ∈ rs) (r_escCfg : RegName.escCfg ∈ rs)
    (r_mktStatus : RegName.mktStatus ∈ rs) (r_poolFree : RegName.poolFree ∈ rs) (r_mktCount3 : RegName.mktCount3 ∈ rs)
    (r_mktCount4 : RegName.mktCount4 ∈ rs) (r_mktCount5 : RegName.mktCount5 ∈ rs) (r_mktCount6 : RegName.mktCount6 ∈ rs)
    (r_partUsed : RegName.partUsed ∈ rs) (r_qcfgPitch : RegName.qcfgPitch ∈ rs) (r_qcfgOcc : RegName.qcfgOcc ∈ rs)
    (r_pfcState : RegName.pfcState ∈ rs) (r_ingUsed : RegName.ingUsed ∈ rs) (r_hdrmUsed : RegName.hdrmUsed ∈ rs)
    (r_stagingFree : RegName.stagingFree ∈ rs) (r_splCount : RegName.splCount ∈ rs) (r_stackStatus : RegName.stackStatus ∈ rs)
    (r_retiredCh : RegName.retiredCh ∈ rs) (r_qspillStatus : RegName.qspillStatus ∈ rs) (r_talCount : RegName.talCount ∈ rs)
    (r_pmcCount : RegName.pmcCount ∈ rs) : NamedO rs s0 (execChRetire stack value s) := by
  unfold Sys2Proof.Machine.execChRetire
  with_reducible repeat' first
    | assumption | apply Named.holdWrite | apply Named.retireChannel | apply NamedO.next | simp only [Named.upd] | dsimp only
    | split | intro

theorem Named.execStackLost (stack : Nat) (s : State) (hk : RegsOnly rs s0 s) (r_bringup : RegName.bringup ∈ rs)
    (r_fltCount2 : RegName.fltCount2 ∈ rs) (r_escCfg : RegName.escCfg ∈ rs) (r_mktStatus : RegName.mktStatus ∈ rs)
    (r_poolFree : RegName.poolFree ∈ rs) (r_mktCount3 : RegName.mktCount3 ∈ rs) (r_mktCount4 : RegName.mktCount4 ∈ rs)
    (r_mktCount5 : RegName.mktCount5 ∈ rs) (r_mktCount6 : RegName.mktCount6 ∈ rs) (r_partUsed : RegName.partUsed ∈ rs)
    (r_qcfgPitch : RegName.qcfgPitch ∈ rs) (r_qcfgOcc : RegName.qcfgOcc ∈ rs) (r_pfcState : RegName.pfcState ∈ rs)
    (r_ingUsed : RegName.ingUsed ∈ rs) (r_hdrmUsed : RegName.hdrmUsed ∈ rs) (r_stagingFree : RegName.stagingFree ∈ rs)
    (r_splCount : RegName.splCount ∈ rs) (r_stackStatus : RegName.stackStatus ∈ rs) (r_qspillStatus : RegName.qspillStatus ∈ rs)
    (r_talCount : RegName.talCount ∈ rs) (r_pmcCount : RegName.pmcCount ∈ rs) : NamedO rs s0 (execStackLost stack s) := by
  unfold Sys2Proof.Machine.execStackLost
  with_reducible repeat' first
    | assumption | apply Named.loseStack | apply NamedO.next | simp only [Named.upd] | dsimp only | split | intro

theorem Named.execHbmNoResponse (stack tag : Nat) (s : State) (hk : RegsOnly rs s0 s) (r_bringup : RegName.bringup ∈ rs)
    (r_fltCount2 : RegName.fltCount2 ∈ rs) (r_escCfg : RegName.escCfg ∈ rs) (r_mktStatus : RegName.mktStatus ∈ rs)
    (r_poolFree : RegName.poolFree ∈ rs) (r_mktCount3 : RegName.mktCount3 ∈ rs) (r_mktCount4 : RegName.mktCount4 ∈ rs)
    (r_mktCount5 : RegName.mktCount5 ∈ rs) (r_mktCount6 : RegName.mktCount6 ∈ rs) (r_partUsed : RegName.partUsed ∈ rs)
    (r_qcfgPitch : RegName.qcfgPitch ∈ rs) (r_qcfgOcc : RegName.qcfgOcc ∈ rs) (r_pfcState : RegName.pfcState ∈ rs)
    (r_ingUsed : RegName.ingUsed ∈ rs) (r_hdrmUsed : RegName.hdrmUsed ∈ rs) (r_stagingFree : RegName.stagingFree ∈ rs)
    (r_splCount : RegName.splCount ∈ rs) (r_stackStatus : RegName.stackStatus ∈ rs) (r_qspillStatus : RegName.qspillStatus ∈ rs)
    (r_talCount : RegName.talCount ∈ rs) (r_pmcCount : RegName.pmcCount ∈ rs)
    : NamedO rs s0 (execHbmNoResponse stack tag s) := by
  unfold Sys2Proof.Machine.execHbmNoResponse
  with_reducible repeat' first
    | assumption | apply Named.loseStack | apply NamedO.next | simp only [Named.upd] | dsimp only | split | intro

theorem Named.execHbmRefresh (stack ch temp : Nat) (s : State) (hk : RegsOnly rs s0 s) (r_phyStatus : RegName.phyStatus ∈ rs)
    : NamedO rs s0 (execHbmRefresh stack ch temp s) := by
  unfold Sys2Proof.Machine.execHbmRefresh
  with_reducible repeat' first
    | assumption | apply Named.setBit | apply Named.setF | apply RegIn.phyStatus | apply NamedO.next | simp only [Named.upd]
    | dsimp only | split | intro

theorem Named.mendCell (s : State) (m page ch : Nat) (hk : RegsOnly rs s0 s) : RegsOnly rs s0 (mendCell s m page ch) := by
  unfold Sys2Proof.Machine.mendCell
  with_reducible repeat' first
    | assumption | simp only [Named.upd] | dsimp only | split | intro

theorem Named.execPatrolScrub (stack page ch : Nat) (corr uncorr : Bool) (s : State) (hk : RegsOnly rs s0 s)
    (r_bringup : RegName.bringup ∈ rs) (r_fltRec : RegName.fltRec ∈ rs) (r_fltFirst : RegName.fltFirst ∈ rs)
    (r_fltCount0 : RegName.fltCount0 ∈ rs) (r_fltCount1 : RegName.fltCount1 ∈ rs) (r_fltCount2 : RegName.fltCount2 ∈ rs)
    (r_escCfg : RegName.escCfg ∈ rs) (r_mktStatus : RegName.mktStatus ∈ rs) (r_poolFree : RegName.poolFree ∈ rs)
    (r_mktCount3 : RegName.mktCount3 ∈ rs) (r_mktCount4 : RegName.mktCount4 ∈ rs) (r_mktCount5 : RegName.mktCount5 ∈ rs)
    (r_mktCount6 : RegName.mktCount6 ∈ rs) (r_partUsed : RegName.partUsed ∈ rs) (r_qcfgPitch : RegName.qcfgPitch ∈ rs)
    (r_qcfgOcc : RegName.qcfgOcc ∈ rs) (r_pfcState : RegName.pfcState ∈ rs) (r_ingUsed : RegName.ingUsed ∈ rs)
    (r_hdrmUsed : RegName.hdrmUsed ∈ rs) (r_stagingFree : RegName.stagingFree ∈ rs) (r_splCount : RegName.splCount ∈ rs)
    (r_stackStatus : RegName.stackStatus ∈ rs) (r_retiredCh : RegName.retiredCh ∈ rs) (r_chEcc : RegName.chEcc ∈ rs)
    (r_qspillStatus : RegName.qspillStatus ∈ rs) (r_talCount : RegName.talCount ∈ rs) (r_pmcCount : RegName.pmcCount ∈ rs)
    : NamedO rs s0 (execPatrolScrub stack page ch corr uncorr s) := by
  unfold Sys2Proof.Machine.execPatrolScrub
  with_reducible repeat' first
    | assumption | apply Named.whenB | apply Named.noteChCorr | apply Named.pmcBeats | apply Named.noteChErr
    | apply Named.forEach | apply Named.mendCell | apply Named.putCell | apply Named.rebuiltRecord | apply NamedO.next
    | simp only [Named.upd] | dsimp only | split | intro

theorem Named.splCfgBad (s : State) (hk : RegsOnly rs s0 s) (r_fltCount2 : RegName.fltCount2 ∈ rs)
    (r_escCfg : RegName.escCfg ∈ rs) (r_splErr : RegName.splErr ∈ rs) : RegsOnly rs s0 (splCfgBad s) := by
  unfold Sys2Proof.Machine.splCfgBad
  with_reducible repeat' first
    | assumption | apply Named.raise | apply Named.setBit | apply RegIn.splErr | simp only [Named.upd] | dsimp only | split
    | intro

theorem Named.diagCtrl (s : State) (m : Nat) (v : Word) (hk : RegsOnly rs s0 s) (r_fltCount2 : RegName.fltCount2 ∈ rs)
    (r_escCfg : RegName.escCfg ∈ rs) (r_splErr : RegName.splErr ∈ rs) (r_diagCtrl : RegName.diagCtrl ∈ rs)
    : RegsOnly rs s0 (diagCtrl s m v) := by
  unfold Sys2Proof.Machine.diagCtrl
  with_reducible repeat' first
    | assumption | apply Named.setF | apply Named.splCfgBad | apply RegIn.diagCtrl | simp only [Named.upd] | dsimp only
    | split | intro

theorem Named.diagAccess (m : Nat) (v : Word) (f : Nat → Nat → State → State) (s : State)
    (hf : ∀ x0 x1 t, RegsOnly rs s0 t → RegsOnly rs s0 (f x0 x1 t)) (hk : RegsOnly rs s0 s)
    (r_fltCount2 : RegName.fltCount2 ∈ rs) (r_escCfg : RegName.escCfg ∈ rs) (r_splErr : RegName.splErr ∈ rs)
    (r_diagCtrl : RegName.diagCtrl ∈ rs) (r_pmcCount : RegName.pmcCount ∈ rs) : RegsOnly rs s0 (diagAccess m v f s) := by
  unfold Sys2Proof.Machine.diagAccess
  with_reducible repeat' first
    | assumption | apply hf | apply Named.diagCtrl | apply Named.setBit | apply Named.pmcBeats | apply RegIn.diagCtrl
    | simp only [Named.upd] | dsimp only | split | intro

theorem Named.execDiagCellRead (stack : Nat) (value : Word) (s : State) (hk : RegsOnly rs s0 s)
    (r_fltCount2 : RegName.fltCount2 ∈ rs) (r_escCfg : RegName.escCfg ∈ rs) (r_splErr : RegName.splErr ∈ rs)
    (r_diagCtrl : RegName.diagCtrl ∈ rs) (r_diagData : RegName.diagData ∈ rs) (r_pmcCount : RegName.pmcCount ∈ rs)
    : NamedO rs s0 (execDiagCellRead stack value s) := by
  unfold Sys2Proof.Machine.execDiagCellRead
  with_reducible repeat' first
    | assumption | apply Named.holdWrite | apply Named.diagAccess | apply Named.forEach | apply Named.setReg
    | apply RegIn.diagData | apply NamedO.next | simp only [Named.upd] | dsimp only | split | intro

theorem Named.execDiagCellWrite (stack : Nat) (value : Word) (s : State) (hk : RegsOnly rs s0 s)
    (r_fltCount2 : RegName.fltCount2 ∈ rs) (r_escCfg : RegName.escCfg ∈ rs) (r_splErr : RegName.splErr ∈ rs)
    (r_diagCtrl : RegName.diagCtrl ∈ rs) (r_pmcCount : RegName.pmcCount ∈ rs)
    : NamedO rs s0 (execDiagCellWrite stack value s) := by
  unfold Sys2Proof.Machine.execDiagCellWrite
  with_reducible repeat' first
    | assumption | apply Named.holdWrite | apply Named.diagCtrl | apply Named.diagAccess | apply Named.putCell
    | apply NamedO.next | simp only [Named.upd] | dsimp only | split | intro

theorem Named.execWatchdogPageFree (queue : Nat) (s : State) (hk : RegsOnly rs s0 s) (r_fltCount2 : RegName.fltCount2 ∈ rs)
    (r_escCfg : RegName.escCfg ∈ rs) (r_mktStatus : RegName.mktStatus ∈ rs) (r_poolFree : RegName.poolFree ∈ rs)
    (r_mktCount3 : RegName.mktCount3 ∈ rs) (r_mktCount4 : RegName.mktCount4 ∈ rs) (r_mktCount5 : RegName.mktCount5 ∈ rs)
    (r_mktCount6 : RegName.mktCount6 ∈ rs) (r_partUsed : RegName.partUsed ∈ rs) (r_qcfgPitch : RegName.qcfgPitch ∈ rs)
    (r_qcfgOcc : RegName.qcfgOcc ∈ rs) (r_pfcState : RegName.pfcState ∈ rs) (r_ingUsed : RegName.ingUsed ∈ rs)
    (r_hdrmUsed : RegName.hdrmUsed ∈ rs) (r_stagingFree : RegName.stagingFree ∈ rs) (r_splCount : RegName.splCount ∈ rs)
    (r_stackStatus : RegName.stackStatus ∈ rs) (r_qspillStatus : RegName.qspillStatus ∈ rs) (r_talCount : RegName.talCount ∈ rs)
    (r_pmcCount : RegName.pmcCount ∈ rs) : NamedO rs s0 (execWatchdogPageFree queue s) := by
  unfold Sys2Proof.Machine.execWatchdogPageFree
  with_reducible repeat' first
    | assumption | apply Named.forEach | apply Named.dropXfer | apply Named.freeDrain | apply Named.dropSpilled
    | apply Named.givePage | apply Named.setStagingFree | apply Named.setF | apply Named.setSpq | apply Named.spillExit
    | apply Named.foldl | apply Named.foldl1 | apply RegIn.qspillStatus | apply NamedO.next | simp only [Named.upd]
    | dsimp only | split | intro

theorem Named.tick (s : State) (hk : RegsOnly rs s0 s) (r_slewLeft : RegName.slewLeft ∈ rs) : RegsOnly rs s0 (tick s) := by
  unfold Sys2Proof.Machine.tick
  with_reducible repeat' first
    | assumption | apply Named.setReg64 | apply RegIn.slewLeft | apply RegIn.slewLeft4 | simp only [Named.upd] | dsimp only
    | split | intro

theorem Named.setSlots (s : State) (l : Nat) (x : SlotPair) (hk : RegsOnly rs s0 s) : RegsOnly rs s0 (setSlots s l x) := by
  unfold Sys2Proof.Machine.setSlots
  with_reducible repeat' first
    | assumption | simp only [Named.upd] | dsimp only | split | intro

theorem Named.syncSlotStatus (s : State) (l : Nat) (hk : RegsOnly rs s0 s) (r_winSlotStatus : RegName.winSlotStatus ∈ rs)
    : RegsOnly rs s0 (syncSlotStatus s l) := by
  unfold Sys2Proof.Machine.syncSlotStatus
  with_reducible repeat' first
    | assumption | apply Named.setReg | apply RegIn.winSlotStatus | simp only [Named.upd] | dsimp only | split | intro

theorem Named.slotWrite (c : HostCmd) (s : State) (hk : RegsOnly rs s0 s) (r_orphanCtrl : RegName.orphanCtrl ∈ rs)
    (r_orphanLog : RegName.orphanLog ∈ rs) (r_fltCount2 : RegName.fltCount2 ∈ rs) (r_escCfg : RegName.escCfg ∈ rs)
    : RegsOnly rs s0 (slotWrite c s) := by
  unfold Sys2Proof.Machine.slotWrite
  with_reducible repeat' first
    | assumption | apply Named.complete | apply Named.setSlots | simp only [Named.upd] | dsimp only | split | intro

theorem Named.slotArm (c : HostCmd) (s : State) (hk : RegsOnly rs s0 s) (r_orphanCtrl : RegName.orphanCtrl ∈ rs)
    (r_orphanLog : RegName.orphanLog ∈ rs) (r_fltCount2 : RegName.fltCount2 ∈ rs) (r_escCfg : RegName.escCfg ∈ rs)
    (r_winSlotStatus : RegName.winSlotStatus ∈ rs) (r_winErr : RegName.winErr ∈ rs) (r_winT : RegName.winT ∈ rs)
    : RegsOnly rs s0 (slotArm c s) := by
  unfold Sys2Proof.Machine.slotArm
  with_reducible repeat' first
    | assumption | apply Named.complete | apply Named.setSlots | apply Named.setReg64 | apply Named.whenB | apply Named.raise
    | apply Named.setBit | apply Named.syncSlotStatus | apply RegIn.winErr | apply RegIn.winT | apply RegIn.winT4
    | simp only [Named.upd] | dsimp only | split | intro

theorem Named.slotCancel (c : HostCmd) (s : State) (hk : RegsOnly rs s0 s) (r_orphanCtrl : RegName.orphanCtrl ∈ rs)
    (r_orphanLog : RegName.orphanLog ∈ rs) (r_fltCount2 : RegName.fltCount2 ∈ rs) (r_escCfg : RegName.escCfg ∈ rs)
    (r_winSlotStatus : RegName.winSlotStatus ∈ rs) : RegsOnly rs s0 (slotCancel c s) := by
  unfold Sys2Proof.Machine.slotCancel
  with_reducible repeat' first
    | assumption | apply Named.complete | apply Named.syncSlotStatus | apply Named.setSlots | simp only [Named.upd]
    | dsimp only | split | intro

theorem Named.slotRead (c : HostCmd) (s : State) (hk : RegsOnly rs s0 s) (r_orphanCtrl : RegName.orphanCtrl ∈ rs)
    (r_orphanLog : RegName.orphanLog ∈ rs) (r_fltCount2 : RegName.fltCount2 ∈ rs) (r_escCfg : RegName.escCfg ∈ rs)
    : RegsOnly rs s0 (slotRead c s) := by
  unfold Sys2Proof.Machine.slotRead
  with_reducible repeat' first
    | assumption | apply Named.complete | apply Named.completeData | simp only [Named.upd] | dsimp only | split | intro

theorem Named.execSlotStageWrite (cmd : HostCmd) (s : State) (hk : RegsOnly rs s0 s) (r_orphanCtrl : RegName.orphanCtrl ∈ rs)
    (r_orphanLog : RegName.orphanLog ∈ rs) (r_fltCount2 : RegName.fltCount2 ∈ rs) (r_escCfg : RegName.escCfg ∈ rs)
    : NamedO rs s0 (execSlotStageWrite cmd s) := by
  unfold Sys2Proof.Machine.execSlotStageWrite
  with_reducible repeat' first
    | assumption | apply Named.runCmd | apply Named.slotWrite | apply NamedO.next | simp only [Named.upd] | dsimp only
    | split | intro

theorem Named.execSlotStageArm (cmd : HostCmd) (s : State) (hk : RegsOnly rs s0 s) (r_orphanCtrl : RegName.orphanCtrl ∈ rs)
    (r_orphanLog : RegName.orphanLog ∈ rs) (r_fltCount2 : RegName.fltCount2 ∈ rs) (r_escCfg : RegName.escCfg ∈ rs)
    (r_winSlotStatus : RegName.winSlotStatus ∈ rs) (r_winErr : RegName.winErr ∈ rs) (r_winT : RegName.winT ∈ rs)
    : NamedO rs s0 (execSlotStageArm cmd s) := by
  unfold Sys2Proof.Machine.execSlotStageArm
  with_reducible repeat' first
    | assumption | apply Named.runCmd | apply Named.slotArm | apply NamedO.next | simp only [Named.upd] | dsimp only | split
    | intro

theorem Named.execSlotStageCancel (cmd : HostCmd) (s : State) (hk : RegsOnly rs s0 s)
    (r_orphanCtrl : RegName.orphanCtrl ∈ rs) (r_orphanLog : RegName.orphanLog ∈ rs) (r_fltCount2 : RegName.fltCount2 ∈ rs)
    (r_escCfg : RegName.escCfg ∈ rs) (r_winSlotStatus : RegName.winSlotStatus ∈ rs)
    : NamedO rs s0 (execSlotStageCancel cmd s) := by
  unfold Sys2Proof.Machine.execSlotStageCancel
  with_reducible repeat' first
    | assumption | apply Named.runCmd | apply Named.slotCancel | apply NamedO.next | simp only [Named.upd] | dsimp only
    | split | intro

theorem Named.execSlotStageRead (cmd : HostCmd) (s : State) (hk : RegsOnly rs s0 s) (r_orphanCtrl : RegName.orphanCtrl ∈ rs)
    (r_orphanLog : RegName.orphanLog ∈ rs) (r_fltCount2 : RegName.fltCount2 ∈ rs) (r_escCfg : RegName.escCfg ∈ rs)
    : NamedO rs s0 (execSlotStageRead cmd s) := by
  unfold Sys2Proof.Machine.execSlotStageRead
  with_reducible repeat' first
    | assumption | apply Named.runCmd | apply Named.slotRead | apply NamedO.next | simp only [Named.upd] | dsimp only | split
    | intro

theorem Named.takeSwitch (s : State) (l : Nat) (hk : RegsOnly rs s0 s) (r_fltCount2 : RegName.fltCount2 ∈ rs)
    (r_escCfg : RegName.escCfg ∈ rs) (r_winSlotStatus : RegName.winSlotStatus ∈ rs) (r_winErr : RegName.winErr ∈ rs)
    : RegsOnly rs s0 (takeSwitch s l) := by
  unfold Sys2Proof.Machine.takeSwitch
  with_reducible repeat' first
    | assumption | apply Named.setSlots | apply Named.raise | apply Named.syncSlotStatus | apply Named.setBit
    | apply RegIn.winErr | simp only [Named.upd] | dsimp only | split | intro

theorem Named.execSlotSwitch (lane : Nat) (s : State) (hk : RegsOnly rs s0 s) (r_fltCount2 : RegName.fltCount2 ∈ rs)
    (r_escCfg : RegName.escCfg ∈ rs) (r_winSlotStatus : RegName.winSlotStatus ∈ rs) (r_winErr : RegName.winErr ∈ rs)
    : NamedO rs s0 (execSlotSwitch lane s) := by
  unfold Sys2Proof.Machine.execSlotSwitch
  with_reducible repeat' first
    | assumption | apply Named.takeSwitch | apply NamedO.next | simp only [Named.upd] | dsimp only | split | intro

theorem Named.execSlotEntryBoundary (lane : Nat) (s : State) (hk : RegsOnly rs s0 s)
    (r_winSlotStatus : RegName.winSlotStatus ∈ rs) : NamedO rs s0 (execSlotEntryBoundary lane s) := by
  unfold Sys2Proof.Machine.execSlotEntryBoundary
  with_reducible repeat' first
    | assumption | apply Named.setF | apply RegIn.winSlotStatus | apply NamedO.next | simp only [Named.upd] | dsimp only
    | split | intro

end Sys2Proof.Laws
end

