-- ==== Sys2Proof/Laws/NamedHost.lean ====
section
/-!
SUPPORT. One lemma for each operation of Host, Crier, Programs, Security, Time, Fetch, Sched, Porter: it writes no register but those it names (`RegsOnly`).
-/
namespace Sys2Proof.Laws

open Sys2Proof.Machine

variable {rs : List RegName} {s0 : State}

theorem Named.hifErr (s : State) (bit : Nat) (hk : RegsOnly rs s0 s) (r_hifErr : RegName.hifErr ∈ rs)
    (r_fltCount2 : RegName.fltCount2 ∈ rs) (r_escCfg : RegName.escCfg ∈ rs) : RegsOnly rs s0 (hifErr s bit) := by
  unfold Sys2Proof.Machine.hifErr
  with_reducible repeat' first
    | assumption | apply Named.raise | apply Named.setBit | apply RegIn.hifErr | simp only [Named.upd] | dsimp only | split
    | intro

theorem Named.execBar0UnmappedAccess (addr : Nat) (write : Bool) (s : State) (hk : RegsOnly rs s0 s)
    (r_hifErr : RegName.hifErr ∈ rs) (r_fltCount2 : RegName.fltCount2 ∈ rs) (r_escCfg : RegName.escCfg ∈ rs)
    : NamedO rs s0 (execBar0UnmappedAccess addr write s) := by
  unfold Sys2Proof.Machine.execBar0UnmappedAccess
  with_reducible repeat' first
    | assumption | apply Named.hifErr | apply Named.whenB | apply Named.emit | apply NamedO.next | simp only [Named.upd]
    | dsimp only | split | intro

theorem Named.consumerBell (s : State) (k : RingKind) (n i : Nat) (hk : RegsOnly rs s0 s) (r_hifErr : RegName.hifErr ∈ rs)
    (r_ringHead : RegName.ringHead ∈ rs) (r_fltCount2 : RegName.fltCount2 ∈ rs) (r_escCfg : RegName.escCfg ∈ rs)
    : RegsOnly rs s0 (consumerBell s k n i) := by
  unfold Sys2Proof.Machine.consumerBell
  with_reducible repeat' first
    | assumption | apply Named.setReg | apply Named.hifErr | apply RegIn.ringHead | simp only [Named.upd] | dsimp only
    | split | intro

theorem Named.crBell (r index : Nat) (s : State) (hk : RegsOnly rs s0 s) (r_hifErr : RegName.hifErr ∈ rs)
    (r_ringTail : RegName.ringTail ∈ rs) (r_fltCount2 : RegName.fltCount2 ∈ rs) (r_escCfg : RegName.escCfg ∈ rs)
    : RegsOnly rs s0 (crBell r index s) := by
  unfold Sys2Proof.Machine.crBell
  with_reducible repeat' first
    | assumption | apply Named.setReg | apply Named.hifErr | apply RegIn.ringTail | simp only [Named.upd] | dsimp only
    | split | intro

theorem Named.rxBell (n index : Nat) (s : State) (hk : RegsOnly rs s0 s) (r_hifErr : RegName.hifErr ∈ rs)
    (r_ringTail : RegName.ringTail ∈ rs) (r_fltCount2 : RegName.fltCount2 ∈ rs) (r_escCfg : RegName.escCfg ∈ rs)
    : RegsOnly rs s0 (rxBell n index s) := by
  unfold Sys2Proof.Machine.rxBell
  with_reducible repeat' first
    | assumption | apply Named.setReg | apply Named.hifErr | apply RegIn.ringTail | simp only [Named.upd] | dsimp only
    | split | intro

theorem Named.ringBell (s : State) (k : RingKind) (n index : Nat) (hk : RegsOnly rs s0 s) (r_hifErr : RegName.hifErr ∈ rs)
    (r_ringHead : RegName.ringHead ∈ rs) (r_ringTail : RegName.ringTail ∈ rs) (r_fltCount2 : RegName.fltCount2 ∈ rs)
    (r_escCfg : RegName.escCfg ∈ rs) : RegsOnly rs s0 (ringBell s k n index) := by
  unfold Sys2Proof.Machine.ringBell
  with_reducible repeat' first
    | assumption | apply Named.crBell | apply Named.rxBell | apply Named.consumerBell | simp only [Named.upd] | dsimp only
    | split | intro

theorem Named.execCrDoorbell (r index : Nat) (s : State) (hk : RegsOnly rs s0 s) (r_hifErr : RegName.hifErr ∈ rs)
    (r_ringTail : RegName.ringTail ∈ rs) (r_fltCount2 : RegName.fltCount2 ∈ rs) (r_escCfg : RegName.escCfg ∈ rs)
    : NamedO rs s0 (execCrDoorbell r index s) := by
  unfold Sys2Proof.Machine.execCrDoorbell
  with_reducible repeat' first
    | assumption | apply Named.crBell | apply NamedO.next | simp only [Named.upd] | dsimp only | split | intro

theorem Named.execCqDoorbell (r index : Nat) (s : State) (hk : RegsOnly rs s0 s) (r_hifErr : RegName.hifErr ∈ rs)
    (r_ringHead : RegName.ringHead ∈ rs) (r_fltCount2 : RegName.fltCount2 ∈ rs) (r_escCfg : RegName.escCfg ∈ rs)
    : NamedO rs s0 (execCqDoorbell r index s) := by
  unfold Sys2Proof.Machine.execCqDoorbell
  with_reducible repeat' first
    | assumption | apply Named.consumerBell | apply NamedO.next | simp only [Named.upd] | dsimp only | split | intro

theorem Named.execRxDoorbell (n index : Nat) (s : State) (hk : RegsOnly rs s0 s) (r_hifErr : RegName.hifErr ∈ rs)
    (r_ringTail : RegName.ringTail ∈ rs) (r_fltCount2 : RegName.fltCount2 ∈ rs) (r_escCfg : RegName.escCfg ∈ rs)
    : NamedO rs s0 (execRxDoorbell n index s) := by
  unfold Sys2Proof.Machine.execRxDoorbell
  with_reducible repeat' first
    | assumption | apply Named.rxBell | apply NamedO.next | simp only [Named.upd] | dsimp only | split | intro

theorem Named.execNqDoorbell (n index : Nat) (s : State) (hk : RegsOnly rs s0 s) (r_hifErr : RegName.hifErr ∈ rs)
    (r_ringHead : RegName.ringHead ∈ rs) (r_fltCount2 : RegName.fltCount2 ∈ rs) (r_escCfg : RegName.escCfg ∈ rs)
    : NamedO rs s0 (execNqDoorbell n index s) := by
  unfold Sys2Proof.Machine.execNqDoorbell
  with_reducible repeat' first
    | assumption | apply Named.consumerBell | apply NamedO.next | simp only [Named.upd] | dsimp only | split | intro

theorem Named.ringCfgWrite (s : State) (k : RingKind) (n : Nat) (cfg : Word) (hk : RegsOnly rs s0 s)
    (r_ringCfg : RegName.ringCfg ∈ rs) : RegsOnly rs s0 (ringCfgWrite s k n cfg) := by
  unfold Sys2Proof.Machine.ringCfgWrite
  with_reducible repeat' first
    | assumption | apply Named.setReg | apply RegIn.ringCfg | simp only [Named.upd] | dsimp only | split | intro

theorem Named.forgetVisible (s : State) (k : RingKind) (n : Nat) (hk : RegsOnly rs s0 s)
    : RegsOnly rs s0 (forgetVisible s k n) := by
  unfold Sys2Proof.Machine.forgetVisible
  with_reducible repeat' first
    | assumption | simp only [Named.upd] | dsimp only | split | intro

theorem Named.execRingEnable (kind : RingKind) (n : Nat) (cfg : Word) (s : State) (hk : RegsOnly rs s0 s)
    (r_ringCfg : RegName.ringCfg ∈ rs) (r_ringHead : RegName.ringHead ∈ rs) (r_ringTail : RegName.ringTail ∈ rs)
    : NamedO rs s0 (execRingEnable kind n cfg s) := by
  unfold Sys2Proof.Machine.execRingEnable
  with_reducible repeat' first
    | assumption | apply Named.ringCfgWrite | apply Named.forgetVisible | apply Named.setF | apply Named.setReg
    | apply RegIn.ringCfg | apply RegIn.ringHead | apply RegIn.ringTail | apply NamedO.next | simp only [Named.upd]
    | dsimp only | split | intro

theorem Named.dropReports (s : State) (k : RingKind) (n : Nat) (hk : RegsOnly rs s0 s) (r_fltCount2 : RegName.fltCount2 ∈ rs)
    (r_escCfg : RegName.escCfg ∈ rs) (r_tsMissed : RegName.tsMissed ∈ rs) : RegsOnly rs s0 (dropReports s k n) := by
  unfold Sys2Proof.Machine.dropReports
  with_reducible repeat' first
    | assumption | apply Named.raiseLimited | apply Named.add64 | apply RegIn.tsMissed | apply RegIn.tsMissed4
    | simp only [Named.upd] | dsimp only | split | intro

theorem Named.execRingDisable (kind : RingKind) (n : Nat) (cfg : Word) (s : State) (hk : RegsOnly rs s0 s)
    (r_ringCfg : RegName.ringCfg ∈ rs) (r_fltCount2 : RegName.fltCount2 ∈ rs) (r_escCfg : RegName.escCfg ∈ rs)
    (r_tsMissed : RegName.tsMissed ∈ rs) : NamedO rs s0 (execRingDisable kind n cfg s) := by
  unfold Sys2Proof.Machine.execRingDisable
  with_reducible repeat' first
    | assumption | apply Named.dropReports | apply Named.forgetVisible | apply Named.setBit | apply Named.ringCfgWrite
    | apply RegIn.ringCfg | apply NamedO.next | simp only [Named.upd] | dsimp only | split | intro

theorem Named.ringStop (s : State) (kind : RingKind) (n : Nat) (hk : RegsOnly rs s0 s) (r_ringCfg : RegName.ringCfg ∈ rs)
    (r_fltCount2 : RegName.fltCount2 ∈ rs) (r_escCfg : RegName.escCfg ∈ rs) (r_tsMissed : RegName.tsMissed ∈ rs)
    : RegsOnly rs s0 (ringStop s kind n) := by
  unfold Sys2Proof.Machine.ringStop
  with_reducible repeat' first
    | assumption | apply Named.raise | apply Named.dropReports | apply Named.forgetVisible | apply Named.setF
    | apply RegIn.ringCfg | simp only [Named.upd] | dsimp only | split | intro

theorem Named.execRingDmaError (kind : RingKind) (n : Nat) (s : State) (hk : RegsOnly rs s0 s)
    (r_ringCfg : RegName.ringCfg ∈ rs) (r_fltCount2 : RegName.fltCount2 ∈ rs) (r_escCfg : RegName.escCfg ∈ rs)
    (r_tsMissed : RegName.tsMissed ∈ rs) : NamedO rs s0 (execRingDmaError kind n s) := by
  unfold Sys2Proof.Machine.execRingDmaError
  with_reducible repeat' first
    | assumption | apply Named.ringStop | apply NamedO.next | simp only [Named.upd] | dsimp only | split | intro

theorem Named.execCommandFetch (r : Nat) (entry data : List Byte) (s : State) (hk : RegsOnly rs s0 s)
    (r_ringHead : RegName.ringHead ∈ rs) (r_orphanCtrl : RegName.orphanCtrl ∈ rs) (r_orphanLog : RegName.orphanLog ∈ rs)
    (r_fltCount2 : RegName.fltCount2 ∈ rs) (r_escCfg : RegName.escCfg ∈ rs)
    : NamedO rs s0 (execCommandFetch r entry data s) := by
  unfold Sys2Proof.Machine.execCommandFetch
  with_reducible repeat' first
    | assumption | apply Named.emit | apply Named.setReg | apply Named.refuseForms | apply RegIn.ringHead | apply NamedO.next
    | simp only [Named.upd] | dsimp only | split | intro

theorem Named.execCompletionWrite (q : Nat) (s : State) (hk : RegsOnly rs s0 s) (r_ringTail : RegName.ringTail ∈ rs)
    (r_orphanCtrl : RegName.orphanCtrl ∈ rs) (r_orphanLog : RegName.orphanLog ∈ rs) (r_fltCount2 : RegName.fltCount2 ∈ rs)
    (r_escCfg : RegName.escCfg ∈ rs) : NamedO rs s0 (execCompletionWrite q s) := by
  unfold Sys2Proof.Machine.execCompletionWrite
  with_reducible repeat' first
    | assumption | apply Named.hostWrite | apply Named.tailStep | apply Named.dropCmd | apply Named.refuseForms
    | apply Named.whenB | apply Named.raise | apply NamedO.next | simp only [Named.upd] | dsimp only | split | intro

theorem Named.execNotificationWrite (n : Nat) (s : State) (hk : RegsOnly rs s0 s) (r_ringTail : RegName.ringTail ∈ rs)
    (r_fltCount2 : RegName.fltCount2 ∈ rs) (r_escCfg : RegName.escCfg ∈ rs) : NamedO rs s0 (execNotificationWrite n s) := by
  unfold Sys2Proof.Machine.execNotificationWrite
  with_reducible repeat' first
    | assumption | apply Named.hostWrite | apply Named.raise | apply Named.tailStep | apply NamedO.next
    | simp only [Named.upd] | dsimp only | split | intro

theorem Named.execNop (cmd : HostCmd) (s : State) (hk : RegsOnly rs s0 s) (r_orphanCtrl : RegName.orphanCtrl ∈ rs)
    (r_orphanLog : RegName.orphanLog ∈ rs) (r_fltCount2 : RegName.fltCount2 ∈ rs) (r_escCfg : RegName.escCfg ∈ rs)
    : NamedO rs s0 (execNop cmd s) := by
  unfold Sys2Proof.Machine.execNop
  with_reducible repeat' first
    | assumption | apply Named.runCmd | apply Named.complete | apply NamedO.next | simp only [Named.upd] | dsimp only | split
    | intro

theorem Named.execFence (cmd : HostCmd) (s : State) (hk : RegsOnly rs s0 s) : NamedO rs s0 (execFence cmd s) := by
  unfold Sys2Proof.Machine.execFence
  with_reducible repeat' first
    | assumption | apply Named.runCmd | apply Named.setPhase | apply NamedO.next | simp only [Named.upd] | dsimp only | split
    | intro

theorem Named.execFenceComplete (cr index : Nat) (s : State) (hk : RegsOnly rs s0 s) (r_orphanCtrl : RegName.orphanCtrl ∈ rs)
    (r_orphanLog : RegName.orphanLog ∈ rs) (r_fltCount2 : RegName.fltCount2 ∈ rs) (r_escCfg : RegName.escCfg ∈ rs)
    : NamedO rs s0 (execFenceComplete cr index s) := by
  unfold Sys2Proof.Machine.execFenceComplete
  with_reducible repeat' first
    | assumption | apply Named.complete | apply NamedO.next | simp only [Named.upd] | dsimp only | split | intro

theorem Named.execCommandTimeout (cr index : Nat) (s : State) (hk : RegsOnly rs s0 s)
    (r_orphanCtrl : RegName.orphanCtrl ∈ rs) (r_orphanLog : RegName.orphanLog ∈ rs) (r_fltCount2 : RegName.fltCount2 ∈ rs)
    (r_escCfg : RegName.escCfg ∈ rs) : NamedO rs s0 (execCommandTimeout cr index s) := by
  unfold Sys2Proof.Machine.execCommandTimeout
  with_reducible repeat' first
    | assumption | apply Named.complete | apply NamedO.next | simp only [Named.upd] | dsimp only | split | intro

theorem Named.apertureStore (s : State) (off : Nat) (data : List Byte) (hk : RegsOnly rs s0 s)
    (r_hifErr : RegName.hifErr ∈ rs) (r_apertureDrops : RegName.apertureDrops ∈ rs) (r_fltCount2 : RegName.fltCount2 ∈ rs)
    (r_escCfg : RegName.escCfg ∈ rs) : RegsOnly rs s0 (apertureStore s off data) := by
  unfold Sys2Proof.Machine.apertureStore
  with_reducible repeat' first
    | assumption | apply Named.raise | apply Named.setBit | apply Named.add64 | apply Named.foldl | apply Named.foldl1
    | apply RegIn.hifErr | apply RegIn.apertureDrops | apply RegIn.apertureDrops4 | simp only [Named.upd] | dsimp only
    | split | intro

theorem Named.execApertureWrite (addr : Nat) (data : List Byte) (s : State) (hk : RegsOnly rs s0 s)
    (r_hifErr : RegName.hifErr ∈ rs) (r_apertureDrops : RegName.apertureDrops ∈ rs) (r_ringHead : RegName.ringHead ∈ rs)
    (r_ringTail : RegName.ringTail ∈ rs) (r_fltCount2 : RegName.fltCount2 ∈ rs) (r_escCfg : RegName.escCfg ∈ rs)
    : NamedO rs s0 (execApertureWrite addr data s) := by
  unfold Sys2Proof.Machine.execApertureWrite
  with_reducible repeat' first
    | assumption | apply Named.ringBell | apply Named.apertureStore | apply NamedO.next | simp only [Named.upd] | dsimp only
    | split | intro

theorem Named.execApertureRead (addr len : Nat) (s : State) (hk : RegsOnly rs s0 s)
    : NamedO rs s0 (execApertureRead addr len s) := by
  unfold Sys2Proof.Machine.execApertureRead
  with_reducible repeat' first
    | assumption | apply Named.emit | apply NamedO.next | simp only [Named.upd] | dsimp only | split | intro

theorem Named.mailTake (s : State) (hk : RegsOnly rs s0 s) : RegsOnly rs s0 (mailTake s) := by
  unfold Sys2Proof.Machine.mailTake
  with_reducible repeat' first
    | assumption | simp only [Named.upd] | dsimp only | split | intro

theorem Named.execMailboxGo (s : State) (hk : RegsOnly rs s0 s) (r_mbCtrl : RegName.mbCtrl ∈ rs)
    (r_fltCount2 : RegName.fltCount2 ∈ rs) (r_escCfg : RegName.escCfg ∈ rs) : NamedO rs s0 (execMailboxGo s) := by
  unfold Sys2Proof.Machine.execMailboxGo
  with_reducible repeat' first
    | assumption | apply Named.setBit | apply Named.mailTake | apply Named.raise | apply RegIn.mbCtrl | apply NamedO.next
    | simp only [Named.upd] | dsimp only | split | intro

theorem Named.mailPut (s : State) (b : List Byte) (hk : RegsOnly rs s0 s) (r_mbResponse : RegName.mbResponse ∈ rs)
    : RegsOnly rs s0 (mailPut s b) := by
  unfold Sys2Proof.Machine.mailPut
  with_reducible repeat' first
    | assumption | apply Named.forEach | apply Named.setReg | apply RegIn.mbResponse | simp only [Named.upd] | dsimp only
    | split | intro

theorem Named.mailRespond (s : State) (status : Nat) (payload : List Byte) (hk : RegsOnly rs s0 s)
    (r_mbCtrl : RegName.mbCtrl ∈ rs) (r_mbResponse : RegName.mbResponse ∈ rs) (r_orphanCtrl : RegName.orphanCtrl ∈ rs)
    (r_orphanLog : RegName.orphanLog ∈ rs) (r_fltCount2 : RegName.fltCount2 ∈ rs) (r_escCfg : RegName.escCfg ∈ rs)
    : RegsOnly rs s0 (mailRespond s status payload) := by
  unfold Sys2Proof.Machine.mailRespond
  with_reducible repeat' first
    | assumption | apply Named.mailTake | apply Named.settleDone | apply Named.orphan | apply Named.mailPut
    | apply Named.raise | apply Named.setBit | apply RegIn.mbCtrl | simp only [Named.upd] | dsimp only | split | intro

theorem Named.execOrphanLogClear (s : State) (hk : RegsOnly rs s0 s) (r_orphanCtrl : RegName.orphanCtrl ∈ rs)
    (r_orphanDword : RegName.orphanDword ∈ rs) : NamedO rs s0 (execOrphanLogClear s) := by
  unfold Sys2Proof.Machine.execOrphanLogClear
  with_reducible repeat' first
    | assumption | apply Named.forEach | apply Named.setReg | apply Named.setF | apply RegIn.orphanCtrl
    | apply RegIn.orphanDword | apply NamedO.next | simp only [Named.upd] | dsimp only | split | intro

theorem Named.crierPerst (s : State) (hk : RegsOnly rs s0 s) : RegsOnly rs s0 (crierPerst s) := by
  unfold Sys2Proof.Machine.crierPerst
  with_reducible repeat' first
    | assumption | apply Named.foldl | apply Named.foldl1 | simp only [Named.upd] | dsimp only | split | intro

theorem Named.freeHostUnits (s : State) (hk : RegsOnly rs s0 s) (r_fltCount2 : RegName.fltCount2 ∈ rs)
    (r_escCfg : RegName.escCfg ∈ rs) (r_mktStatus : RegName.mktStatus ∈ rs) (r_poolFree : RegName.poolFree ∈ rs)
    (r_partUsed : RegName.partUsed ∈ rs) (r_pmcCount : RegName.pmcCount ∈ rs) : RegsOnly rs s0 (freeHostUnits s) := by
  unfold Sys2Proof.Machine.freeHostUnits
  with_reducible repeat' first
    | assumption | apply Named.forEach | apply Named.freeUnit | apply Named.addHostUsed | apply Named.foldl
    | apply Named.foldl1 | simp only [Named.upd] | dsimp only | split | intro

theorem Named.perstDrop (s : State) (hk : RegsOnly rs s0 s) : RegsOnly rs s0 (perstDrop s) := by
  unfold Sys2Proof.Machine.perstDrop
  with_reducible repeat' first
    | assumption | simp only [Named.upd] | dsimp only | split | intro

theorem Named.perstAssert (s : State) (hk : RegsOnly rs s0 s) (r_hifStatus : RegName.hifStatus ∈ rs)
    (r_orphanCtrl : RegName.orphanCtrl ∈ rs) (r_orphanLog : RegName.orphanLog ∈ rs) (r_fltCount2 : RegName.fltCount2 ∈ rs)
    (r_escCfg : RegName.escCfg ∈ rs) (r_tsMissed : RegName.tsMissed ∈ rs) (r_mktStatus : RegName.mktStatus ∈ rs)
    (r_poolFree : RegName.poolFree ∈ rs) (r_partUsed : RegName.partUsed ∈ rs) (r_pmcCount : RegName.pmcCount ∈ rs)
    : RegsOnly rs s0 (perstAssert s) := by
  unfold Sys2Proof.Machine.perstAssert
  with_reducible repeat' first
    | assumption | apply Named.setBit | apply Named.perstDrop | apply Named.forEach | apply Named.orphan | apply Named.setF
    | apply Named.raiseLimited | apply Named.add64 | apply Named.settleDone | apply Named.crierPerst
    | apply Named.freeHostUnits | apply RegIn.hifStatus | apply RegIn.orphanCtrl | apply RegIn.tsMissed
    | apply RegIn.tsMissed4 | simp only [Named.upd] | dsimp only | split | intro

theorem Named.perstLow (s : State) (hk : RegsOnly rs s0 s) : RegsOnly rs s0 (perstLow s) := by
  unfold Sys2Proof.Machine.perstLow
  with_reducible repeat' first
    | assumption | apply Named.landsPcie | simp only [Named.upd] | dsimp only | split | intro

theorem Named.execPerstNAssert (_cause : PerstCause) (s : State) (hk : RegsOnly rs s0 s)
    (r_hifStatus : RegName.hifStatus ∈ rs) (r_orphanCtrl : RegName.orphanCtrl ∈ rs) (r_orphanLog : RegName.orphanLog ∈ rs)
    (r_fltCount2 : RegName.fltCount2 ∈ rs) (r_escCfg : RegName.escCfg ∈ rs) (r_tsMissed : RegName.tsMissed ∈ rs)
    (r_mktStatus : RegName.mktStatus ∈ rs) (r_poolFree : RegName.poolFree ∈ rs) (r_partUsed : RegName.partUsed ∈ rs)
    (r_pmcCount : RegName.pmcCount ∈ rs) : NamedO rs s0 (execPerstNAssert _cause s) := by
  unfold Sys2Proof.Machine.execPerstNAssert
  with_reducible repeat' first
    | assumption | apply Named.perstLow | apply Named.perstAssert | apply NamedO.next | simp only [Named.upd] | dsimp only
    | split | intro

theorem Named.execPerstNRelease (s : State) (hk : RegsOnly rs s0 s) : NamedO rs s0 (execPerstNRelease s) := by
  unfold Sys2Proof.Machine.execPerstNRelease
  with_reducible repeat' first
    | assumption | apply NamedO.next | simp only [Named.upd] | dsimp only | split | intro

theorem Named.execLinkTrained (width speed : Nat) (flit : Bool) (s : State) (hk : RegsOnly rs s0 s)
    (r_hifStatus : RegName.hifStatus ∈ rs) (r_fltCount2 : RegName.fltCount2 ∈ rs) (r_escCfg : RegName.escCfg ∈ rs)
    : NamedO rs s0 (execLinkTrained width speed flit s) := by
  unfold Sys2Proof.Machine.execLinkTrained
  with_reducible repeat' first
    | assumption | apply Named.setF | apply Named.setBit | apply Named.whenB | apply Named.raise | apply RegIn.hifStatus
    | apply NamedO.next | simp only [Named.upd] | dsimp only | split | intro

theorem Named.execSourceForce (value : Word) (s : State) (hk : RegsOnly rs s0 s) (r_fltCount2 : RegName.fltCount2 ∈ rs)
    (r_escCfg : RegName.escCfg ∈ rs) : NamedO rs s0 (execSourceForce value s) := by
  unfold Sys2Proof.Machine.execSourceForce
  with_reducible repeat' first
    | assumption | apply Named.holdWrite | apply Named.raise | apply NamedO.next | simp only [Named.upd] | dsimp only | split
    | intro

theorem Named.wakeCores (s : State) (hk : RegsOnly rs s0 s) : RegsOnly rs s0 (wakeCores s) := by
  unfold Sys2Proof.Machine.wakeCores
  with_reducible repeat' first
    | assumption | apply Named.forEach | apply Named.wakeCore | simp only [Named.upd] | dsimp only | split | intro

theorem Named.execSrcCfgWrite (id : Nat) (value : Word) (fw : Bool) (s : State) (hk : RegsOnly rs s0 s)
    (r_srcCfg : RegName.srcCfg ∈ rs) (r_criErr : RegName.criErr ∈ rs) (r_fltCount2 : RegName.fltCount2 ∈ rs)
    (r_escCfg : RegName.escCfg ∈ rs) : NamedO rs s0 (execSrcCfgWrite id value fw s) := by
  unfold Sys2Proof.Machine.execSrcCfgWrite
  with_reducible repeat' first
    | assumption | apply Named.wakeCores | apply Named.setReg | apply Named.holdWrite | apply Named.setErrE04
    | apply Named.countEvent | apply RegIn.srcCfg | apply RegIn.criErr | apply NamedO.next | simp only [Named.upd]
    | dsimp only | split | intro

theorem Named.execVectorTimerExpiry (v : Nat) (s : State) (hk : RegsOnly rs s0 s)
    : NamedO rs s0 (execVectorTimerExpiry v s) := by
  unfold Sys2Proof.Machine.execVectorTimerExpiry
  with_reducible repeat' first
    | assumption | apply NamedO.next | simp only [Named.upd] | dsimp only | split | intro

theorem Named.eoiVec (s : State) (v : Nat) (hk : RegsOnly rs s0 s) : RegsOnly rs s0 (eoiVec s v) := by
  unfold Sys2Proof.Machine.eoiVec
  with_reducible repeat' first
    | assumption | apply Named.forEach | apply Named.countEvent | simp only [Named.upd] | dsimp only | split | intro

theorem Named.pbaSet (s : State) (v : Nat) (b : Bool) (hk : RegsOnly rs s0 s) (r_pba : RegName.pba ∈ rs)
    : RegsOnly rs s0 (pbaSet s v b) := by
  unfold Sys2Proof.Machine.pbaSet
  with_reducible repeat' first
    | assumption | apply Named.setBit | apply RegIn.pba | simp only [Named.upd] | dsimp only | split | intro

theorem Named.commitVec (s : State) (v : Nat) (hk : RegsOnly rs s0 s) (r_pba : RegName.pba ∈ rs)
    : RegsOnly rs s0 (commitVec s v) := by
  unfold Sys2Proof.Machine.commitVec
  with_reducible repeat' first
    | assumption | apply Named.pbaSet | apply Named.emit | apply Named.eoiVec | simp only [Named.upd] | dsimp only | split
    | intro

theorem Named.commitCore (s : State) (id : Nat) (hk : RegsOnly rs s0 s) : RegsOnly rs s0 (commitCore s id) := by
  unfold Sys2Proof.Machine.commitCore
  with_reducible repeat' first
    | assumption | simp only [Named.upd] | dsimp only | split | intro

theorem Named.setMasks (s : State) (m : CrierMasks) (hk : RegsOnly rs s0 s) : RegsOnly rs s0 (setMasks s m) := by
  unfold Sys2Proof.Machine.setMasks
  with_reducible repeat' first
    | assumption | apply Named.wakeCores | apply Named.foldl | apply Named.foldl1 | simp only [Named.upd] | dsimp only
    | split | intro

theorem Named.dispatch (s : State) (hk : RegsOnly rs s0 s) (r_pba : RegName.pba ∈ rs) : RegsOnly rs s0 (dispatch s) := by
  unfold Sys2Proof.Machine.dispatch
  with_reducible repeat' first
    | assumption | apply Named.commitVec | apply Named.commitCore | simp only [Named.upd] | dsimp only | split | intro

theorem Named.execDispatchCommit (masks : CrierMasks) (s : State) (hk : RegsOnly rs s0 s) (r_pba : RegName.pba ∈ rs)
    : NamedO rs s0 (execDispatchCommit masks s) := by
  unfold Sys2Proof.Machine.execDispatchCommit
  with_reducible repeat' first
    | assumption | apply Named.dispatch | apply Named.setMasks | apply NamedO.next | simp only [Named.upd] | dsimp only
    | split | intro

theorem Named.execVecEoi (v : Nat) (s : State) (hk : RegsOnly rs s0 s) : NamedO rs s0 (execVecEoi v s) := by
  unfold Sys2Proof.Machine.execVecEoi
  with_reducible repeat' first
    | assumption | apply Named.holdWrite | apply Named.eoiVec | apply NamedO.next | simp only [Named.upd] | dsimp only
    | split | intro

theorem Named.execCoreEoi (n : Nat) (s : State) (hk : RegsOnly rs s0 s) : NamedO rs s0 (execCoreEoi n s) := by
  unfold Sys2Proof.Machine.execCoreEoi
  with_reducible repeat' first
    | assumption | apply Named.wakeCores | apply NamedO.next | simp only [Named.upd] | dsimp only | split | intro

theorem Named.execCrossingFault (receiver sender handshake : Nat) (s : State) (hk : RegsOnly rs s0 s)
    (r_fltRec : RegName.fltRec ∈ rs) (r_fltFirst : RegName.fltFirst ∈ rs) (r_fltCount0 : RegName.fltCount0 ∈ rs)
    (r_fltCount1 : RegName.fltCount1 ∈ rs) (r_fltCount2 : RegName.fltCount2 ∈ rs) (r_escCfg : RegName.escCfg ∈ rs)
    : NamedO rs s0 (execCrossingFault receiver sender handshake s) := by
  unfold Sys2Proof.Machine.execCrossingFault
  with_reducible repeat' first
    | assumption | apply Named.fault | apply NamedO.next | simp only [Named.upd] | dsimp only | split | intro

theorem Named.execGraceExpiry (id : Nat) (s : State) (hk : RegsOnly rs s0 s) (r_fltCount2 : RegName.fltCount2 ∈ rs)
    (r_escCfg : RegName.escCfg ∈ rs) (r_secCount : RegName.secCount ∈ rs) : NamedO rs s0 (execGraceExpiry id s) := by
  unfold Sys2Proof.Machine.execGraceExpiry
  with_reducible repeat' first
    | assumption | apply Named.jrnFlush | apply Named.raiseE00 | apply Named.startList | apply NamedO.next
    | simp only [Named.upd] | dsimp only | split | intro

theorem Named.endList (s : State) (id : Nat) (hk : RegsOnly rs s0 s) (r_fltCount2 : RegName.fltCount2 ∈ rs)
    (r_escCfg : RegName.escCfg ∈ rs) : RegsOnly rs s0 (endList s id) := by
  unfold Sys2Proof.Machine.endList
  with_reducible repeat' first
    | assumption | apply Named.raise | apply Named.setBit | apply Named.startGrace | apply RegIn.escCfg
    | simp only [Named.upd] | dsimp only | split | intro

theorem Named.execEscAck (value : Word) (s : State) (hk : RegsOnly rs s0 s) (r_fltCount2 : RegName.fltCount2 ∈ rs)
    (r_fltCount5 : RegName.fltCount5 ∈ rs) (r_escCfg : RegName.escCfg ∈ rs) : NamedO rs s0 (execEscAck value s) := by
  unfold Sys2Proof.Machine.execEscAck
  with_reducible repeat' first
    | assumption | apply Named.holdWrite | apply Named.add64 | apply Named.setBit | apply Named.endList
    | apply RegIn.fltCount5 | apply RegIn.fltCount54 | apply RegIn.escCfg | apply NamedO.next | simp only [Named.upd]
    | dsimp only | split | intro

theorem Named.execActionsWrite (id : Nat) (value : BitVec 64) (s : State) (hk : RegsOnly rs s0 s)
    (r_fltErr : RegName.fltErr ∈ rs) (r_fltCount2 : RegName.fltCount2 ∈ rs) (r_escCfg : RegName.escCfg ∈ rs)
    (r_escActions : RegName.escActions ∈ rs) : NamedO rs s0 (execActionsWrite id value s) := by
  unfold Sys2Proof.Machine.execActionsWrite
  with_reducible repeat' first
    | assumption | apply Named.setReg64 | apply Named.setErrE04 | apply RegIn.fltErr | apply RegIn.escActions
    | apply RegIn.escActions4 | apply NamedO.next | simp only [Named.upd] | dsimp only | split | intro

theorem Named.actionDone (s : State) (id : Nat) (hk : RegsOnly rs s0 s) (r_fltCount2 : RegName.fltCount2 ∈ rs)
    (r_escCfg : RegName.escCfg ∈ rs) : RegsOnly rs s0 (actionDone s id) := by
  unfold Sys2Proof.Machine.actionDone
  with_reducible repeat' first
    | assumption | apply Named.endList | simp only [Named.upd] | dsimp only | split | intro

theorem Named.beginAction (s : State) (id c : Nat) (f : State → Nat → State) (hk : RegsOnly rs s0 s)
    (hf : ∀ t x, RegsOnly rs s0 t → RegsOnly rs s0 (f t x)) (r_fltCount2 : RegName.fltCount2 ∈ rs)
    (r_fltCount3 : RegName.fltCount3 ∈ rs) (r_escCfg : RegName.escCfg ∈ rs) (r_secCount : RegName.secCount ∈ rs)
    : RegsOnly rs s0 (beginAction s id c f) := by
  unfold Sys2Proof.Machine.beginAction
  with_reducible repeat' first
    | assumption | apply hf | apply Named.add64 | apply Named.jrnFlush | apply RegIn.fltCount3 | apply RegIn.fltCount34
    | simp only [Named.upd] | dsimp only | split | intro

theorem Named.execEscEnd (id : Nat) (s : State) (hk : RegsOnly rs s0 s) (r_fltCount2 : RegName.fltCount2 ∈ rs)
    (r_fltCount3 : RegName.fltCount3 ∈ rs) (r_escCfg : RegName.escCfg ∈ rs) (r_secCount : RegName.secCount ∈ rs)
    : NamedO rs s0 (execEscEnd id s) := by
  unfold Sys2Proof.Machine.execEscEnd
  with_reducible repeat' first
    | assumption | apply Named.beginAction | apply Named.endList | apply NamedO.next | simp only [Named.upd] | dsimp only
    | split | intro

theorem Named.execEscWait (id : Nat) (s : State) (hk : RegsOnly rs s0 s) (r_fltCount2 : RegName.fltCount2 ∈ rs)
    (r_fltCount3 : RegName.fltCount3 ∈ rs) (r_escCfg : RegName.escCfg ∈ rs) (r_secCount : RegName.secCount ∈ rs)
    : NamedO rs s0 (execEscWait id s) := by
  unfold Sys2Proof.Machine.execEscWait
  with_reducible repeat' first
    | assumption | apply Named.beginAction | apply Named.actionDone | apply NamedO.next | simp only [Named.upd] | dsimp only
    | split | intro

theorem Named.listWaits (s : State) (src n : Nat) (hk : RegsOnly rs s0 s) : RegsOnly rs s0 (listWaits s src n) := by
  unfold Sys2Proof.Machine.listWaits
  with_reducible repeat' first
    | assumption | simp only [Named.upd] | dsimp only | split | intro

theorem Named.writeDone (s : State) (src n : Nat) (hk : RegsOnly rs s0 s) (r_fltCount2 : RegName.fltCount2 ∈ rs)
    (r_escCfg : RegName.escCfg ∈ rs) : RegsOnly rs s0 (writeDone s src n) := by
  unfold Sys2Proof.Machine.writeDone
  with_reducible repeat' first
    | assumption | apply Named.listWaits | apply Named.actionDone | simp only [Named.upd] | dsimp only | split | intro

theorem Named.execEscQuiesce (id : Nat) (s : State) (hk : RegsOnly rs s0 s) (r_fltCount2 : RegName.fltCount2 ∈ rs)
    (r_fltCount3 : RegName.fltCount3 ∈ rs) (r_escCfg : RegName.escCfg ∈ rs) (r_secCount : RegName.secCount ∈ rs)
    (r_pipeCtrl : RegName.pipeCtrl ∈ rs) : NamedO rs s0 (execEscQuiesce id s) := by
  unfold Sys2Proof.Machine.execEscQuiesce
  with_reducible repeat' first
    | assumption | apply Named.beginAction | apply Named.writeDone | apply Named.holdWrite | apply Named.setBit
    | apply RegIn.pipeCtrl | apply NamedO.next | simp only [Named.upd] | dsimp only | split | intro

theorem Named.openStage (s : State) (d : Dom) (hk : RegsOnly rs s0 s) (r_domCtrl : RegName.domCtrl ∈ rs)
    : RegsOnly rs s0 (openStage s d) := by
  unfold Sys2Proof.Machine.openStage
  with_reducible repeat' first
    | assumption | apply Named.setBit | apply RegIn.domCtrl | simp only [Named.upd] | dsimp only | split | intro

theorem Named.doStageWrite (c : HostCmd) (s : State) (hk : RegsOnly rs s0 s) (r_orphanCtrl : RegName.orphanCtrl ∈ rs)
    (r_orphanLog : RegName.orphanLog ∈ rs) (r_fltCount2 : RegName.fltCount2 ∈ rs) (r_escCfg : RegName.escCfg ∈ rs)
    : RegsOnly rs s0 (doStageWrite c s) := by
  unfold Sys2Proof.Machine.doStageWrite
  with_reducible repeat' first
    | assumption | apply Named.complete | simp only [Named.upd] | dsimp only | split | intro

theorem Named.execStageWrite (cmd : HostCmd) (s : State) (hk : RegsOnly rs s0 s) (r_orphanCtrl : RegName.orphanCtrl ∈ rs)
    (r_orphanLog : RegName.orphanLog ∈ rs) (r_fltCount2 : RegName.fltCount2 ∈ rs) (r_escCfg : RegName.escCfg ∈ rs)
    : NamedO rs s0 (execStageWrite cmd s) := by
  unfold Sys2Proof.Machine.execStageWrite
  with_reducible repeat' first
    | assumption | apply Named.runCmd | apply Named.doStageWrite | apply NamedO.next | simp only [Named.upd] | dsimp only
    | split | intro

theorem Named.commitEvent (s : State) (g : CommitGrp) (vers : Dom → Nat) (passed : Bool) (hk : RegsOnly rs s0 s)
    : RegsOnly rs s0 (commitEvent s g vers passed) := by
  unfold Sys2Proof.Machine.commitEvent
  with_reducible repeat' first
    | assumption | simp only [Named.upd] | dsimp only | split | intro

theorem Named.setDomT (s : State) (d : Dom) (t : Nat) (hk : RegsOnly rs s0 s) (r_domT : RegName.domT ∈ rs)
    : RegsOnly rs s0 (setDomT s d t) := by
  unfold Sys2Proof.Machine.setDomT
  with_reducible repeat' first
    | assumption | apply Named.setReg64 | apply RegIn.domT | apply RegIn.domT4 | simp only [Named.upd] | dsimp only | split
    | intro

theorem Named.showLastT (s : State) (d : Dom) (hk : RegsOnly rs s0 s) (r_domT : RegName.domT ∈ rs)
    : RegsOnly rs s0 (showLastT s d) := by
  unfold Sys2Proof.Machine.showLastT
  with_reducible repeat' first
    | assumption | apply Named.setDomT | simp only [Named.upd] | dsimp only | split | intro

theorem Named.placeGrp (s : State) (g : CommitGrp) (t : Nat) (hk : RegsOnly rs s0 s) (r_fltCount2 : RegName.fltCount2 ∈ rs)
    (r_escCfg : RegName.escCfg ∈ rs) (r_domCtrl : RegName.domCtrl ∈ rs) (r_domT : RegName.domT ∈ rs)
    : RegsOnly rs s0 (placeGrp s g t) := by
  unfold Sys2Proof.Machine.placeGrp
  with_reducible repeat' first
    | assumption | apply Named.forEach | apply Named.setDomT | apply Named.setF | apply Named.setBit | apply Named.whenB
    | apply Named.raise | apply RegIn.domCtrl | simp only [Named.upd] | dsimp only | split | intro

theorem Named.commitAccept (c : HostCmd) (s : State) (hk : RegsOnly rs s0 s) (r_orphanCtrl : RegName.orphanCtrl ∈ rs)
    (r_orphanLog : RegName.orphanLog ∈ rs) (r_fltCount2 : RegName.fltCount2 ∈ rs) (r_escCfg : RegName.escCfg ∈ rs)
    (r_domCtrl : RegName.domCtrl ∈ rs) (r_domT : RegName.domT ∈ rs) : RegsOnly rs s0 (commitAccept c s) := by
  unfold Sys2Proof.Machine.commitAccept
  with_reducible repeat' first
    | assumption | apply Named.forEach | apply Named.setBit | apply Named.complete | apply Named.commitEvent
    | apply Named.placeGrp | apply Named.setPhase | apply RegIn.domCtrl | simp only [Named.upd] | dsimp only | split | intro

theorem Named.doCommit (c : HostCmd) (s : State) (hk : RegsOnly rs s0 s) (r_orphanCtrl : RegName.orphanCtrl ∈ rs)
    (r_orphanLog : RegName.orphanLog ∈ rs) (r_fltCount2 : RegName.fltCount2 ∈ rs) (r_escCfg : RegName.escCfg ∈ rs)
    (r_domCtrl : RegName.domCtrl ∈ rs) (r_domT : RegName.domT ∈ rs) : RegsOnly rs s0 (doCommit c s) := by
  unfold Sys2Proof.Machine.doCommit
  with_reducible repeat' first
    | assumption | apply Named.complete | apply Named.forEach | apply Named.openStage | apply Named.showLastT
    | apply Named.setF | apply Named.commitAccept | apply RegIn.domCtrl | simp only [Named.upd] | dsimp only | split | intro

theorem Named.execCommit (cmd : HostCmd) (s : State) (hk : RegsOnly rs s0 s) (r_orphanCtrl : RegName.orphanCtrl ∈ rs)
    (r_orphanLog : RegName.orphanLog ∈ rs) (r_fltCount2 : RegName.fltCount2 ∈ rs) (r_escCfg : RegName.escCfg ∈ rs)
    (r_domCtrl : RegName.domCtrl ∈ rs) (r_domT : RegName.domT ∈ rs) : NamedO rs s0 (execCommit cmd s) := by
  unfold Sys2Proof.Machine.execCommit
  with_reducible repeat' first
    | assumption | apply Named.runCmd | apply Named.doCommit | apply NamedO.next | simp only [Named.upd] | dsimp only | split
    | intro

theorem Named.execCommitAt (cmd : HostCmd) (s : State) (hk : RegsOnly rs s0 s) (r_orphanCtrl : RegName.orphanCtrl ∈ rs)
    (r_orphanLog : RegName.orphanLog ∈ rs) (r_fltCount2 : RegName.fltCount2 ∈ rs) (r_escCfg : RegName.escCfg ∈ rs)
    (r_domCtrl : RegName.domCtrl ∈ rs) (r_domT : RegName.domT ∈ rs) : NamedO rs s0 (execCommitAt cmd s) := by
  unfold Sys2Proof.Machine.execCommitAt
  with_reducible repeat' first
    | assumption | apply Named.runCmd | apply Named.doCommit | apply NamedO.next | simp only [Named.upd] | dsimp only | split
    | intro

theorem Named.execCommitToken (cmd : HostCmd) (s : State) (hk : RegsOnly rs s0 s) (r_orphanCtrl : RegName.orphanCtrl ∈ rs)
    (r_orphanLog : RegName.orphanLog ∈ rs) (r_fltCount2 : RegName.fltCount2 ∈ rs) (r_escCfg : RegName.escCfg ∈ rs)
    (r_domCtrl : RegName.domCtrl ∈ rs) (r_domT : RegName.domT ∈ rs) : NamedO rs s0 (execCommitToken cmd s) := by
  unfold Sys2Proof.Machine.execCommitToken
  with_reducible repeat' first
    | assumption | apply Named.runCmd | apply Named.doCommit | apply NamedO.next | simp only [Named.upd] | dsimp only | split
    | intro

theorem Named.execCommitCancel (cmd : HostCmd) (s : State) (hk : RegsOnly rs s0 s) (r_orphanCtrl : RegName.orphanCtrl ∈ rs)
    (r_orphanLog : RegName.orphanLog ∈ rs) (r_fltCount2 : RegName.fltCount2 ∈ rs) (r_escCfg : RegName.escCfg ∈ rs)
    (r_domCtrl : RegName.domCtrl ∈ rs) (r_domT : RegName.domT ∈ rs) : NamedO rs s0 (execCommitCancel cmd s) := by
  unfold Sys2Proof.Machine.execCommitCancel
  with_reducible repeat' first
    | assumption | apply Named.runCmd | apply Named.doCommit | apply NamedO.next | simp only [Named.upd] | dsimp only | split
    | intro

theorem Named.tokenArrive (s : State) (id t : Nat) (hk : RegsOnly rs s0 s) (r_fltCount2 : RegName.fltCount2 ∈ rs)
    (r_escCfg : RegName.escCfg ∈ rs) (r_domCtrl : RegName.domCtrl ∈ rs) (r_domT : RegName.domT ∈ rs)
    : RegsOnly rs s0 (tokenArrive s id t) := by
  unfold Sys2Proof.Machine.tokenArrive
  with_reducible repeat' first
    | assumption | apply Named.forEach | apply Named.whenB | apply Named.setBit | apply Named.raise | apply Named.placeGrp
    | apply RegIn.domCtrl | simp only [Named.upd] | dsimp only | split | intro

theorem Named.switchDom (t : Nat) (s : State) (d : Dom) (hk : RegsOnly rs s0 s) (r_fltCount2 : RegName.fltCount2 ∈ rs)
    (r_escCfg : RegName.escCfg ∈ rs) (r_domCtrl : RegName.domCtrl ∈ rs) (r_domT : RegName.domT ∈ rs)
    : RegsOnly rs s0 (switchDom t s d) := by
  unfold Sys2Proof.Machine.switchDom
  with_reducible repeat' first
    | assumption | apply Named.setF | apply Named.setBit | apply Named.raise | apply Named.setDomT | apply Named.setDom
    | apply RegIn.domCtrl | simp only [Named.upd] | dsimp only | split | intro

theorem Named.execCommitInstant (d : Dom) (s : State) (hk : RegsOnly rs s0 s) (r_orphanCtrl : RegName.orphanCtrl ∈ rs)
    (r_orphanLog : RegName.orphanLog ∈ rs) (r_fltCount2 : RegName.fltCount2 ∈ rs) (r_escCfg : RegName.escCfg ∈ rs)
    (r_domCtrl : RegName.domCtrl ∈ rs) (r_domT : RegName.domT ∈ rs) : NamedO rs s0 (execCommitInstant d s) := by
  unfold Sys2Proof.Machine.execCommitInstant
  with_reducible repeat' first
    | assumption | apply Named.forEach | apply Named.switchDom | apply Named.commitEvent | apply Named.complete
    | apply NamedO.next | simp only [Named.upd] | dsimp only | split | intro

theorem Named.execDrainEnd (d : Dom) (s : State) (hk : RegsOnly rs s0 s) (r_domCtrl : RegName.domCtrl ∈ rs)
    : NamedO rs s0 (execDrainEnd d s) := by
  unfold Sys2Proof.Machine.execDrainEnd
  with_reducible repeat' first
    | assumption | apply Named.setF | apply Named.setDom | apply RegIn.domCtrl | apply NamedO.next | simp only [Named.upd]
    | dsimp only | split | intro

theorem Named.execCommitRecordWrite (failedBlocks : List Nat) (s : State) (hk : RegsOnly rs s0 s)
    (r_fltCount2 : RegName.fltCount2 ∈ rs) (r_escCfg : RegName.escCfg ∈ rs) (r_secCount : RegName.secCount ∈ rs)
    : NamedO rs s0 (execCommitRecordWrite failedBlocks s) := by
  unfold Sys2Proof.Machine.execCommitRecordWrite
  with_reducible repeat' first
    | assumption | apply Named.jrnFailed | apply Named.jrnPut | apply NamedO.next | simp only [Named.upd] | dsimp only
    | split | intro

theorem Named.putSlot (s : State) (k : Nat) (key : Option (List Byte)) (usage : BitVec 4) (hk : RegsOnly rs s0 s)
    (r_slotStatus : RegName.slotStatus ∈ rs) : RegsOnly rs s0 (putSlot s k key usage) := by
  unfold Sys2Proof.Machine.putSlot
  with_reducible repeat' first
    | assumption | apply Named.setReg | apply RegIn.slotStatus | simp only [Named.upd] | dsimp only | split | intro

theorem Named.wipeSlots (s : State) (hk : RegsOnly rs s0 s) (r_secStatus : RegName.secStatus ∈ rs)
    (r_slotStatus : RegName.slotStatus ∈ rs) : RegsOnly rs s0 (wipeSlots s) := by
  unfold Sys2Proof.Machine.wipeSlots
  with_reducible repeat' first
    | assumption | apply Named.forEach | apply Named.setF | apply Named.setBit | apply Named.foldl | apply Named.foldl1
    | apply RegIn.secStatus | apply RegIn.slotStatus | simp only [Named.upd] | dsimp only | split | intro

theorem Named.keyEpoch (s : State) (hk : RegsOnly rs s0 s) (r_fltCount2 : RegName.fltCount2 ∈ rs)
    (r_escCfg : RegName.escCfg ∈ rs) (r_secStatus : RegName.secStatus ∈ rs) (r_slotStatus : RegName.slotStatus ∈ rs)
    (r_secCount : RegName.secCount ∈ rs) (r_ctx0Bits : RegName.ctx0Bits ∈ rs) : RegsOnly rs s0 (keyEpoch s) := by
  unfold Sys2Proof.Machine.keyEpoch
  with_reducible repeat' first
    | assumption | apply Named.wipeSlots | apply Named.putSlot | apply Named.drawn | apply Named.setBit
    | apply Named.setReg64 | apply Named.jrnFlush | apply Named.whenB | apply Named.raise | apply RegIn.secStatus
    | apply RegIn.ctx0Bits | apply RegIn.ctx0Bits4 | simp only [Named.upd] | dsimp only | split | intro

theorem Named.keyRefused (s : State) (hk : RegsOnly rs s0 s) (r_fltCount2 : RegName.fltCount2 ∈ rs)
    (r_escCfg : RegName.escCfg ∈ rs) : RegsOnly rs s0 (keyRefused s) := by
  unfold Sys2Proof.Machine.keyRefused
  with_reducible repeat' first
    | assumption | apply Named.raiseLimited | simp only [Named.upd] | dsimp only | split | intro

theorem Named.doKeyUnwrap (c : HostCmd) (s : State) (hk : RegsOnly rs s0 s) (r_orphanCtrl : RegName.orphanCtrl ∈ rs)
    (r_orphanLog : RegName.orphanLog ∈ rs) (r_fltCount2 : RegName.fltCount2 ∈ rs) (r_escCfg : RegName.escCfg ∈ rs)
    (r_slotStatus : RegName.slotStatus ∈ rs) (r_secCount : RegName.secCount ∈ rs) : RegsOnly rs s0 (doKeyUnwrap c s) := by
  unfold Sys2Proof.Machine.doKeyUnwrap
  with_reducible repeat' first
    | assumption | apply Named.complete | apply Named.putSlot | apply Named.keyRefused | apply Named.raise
    | apply Named.secCount | simp only [Named.upd] | dsimp only | split | intro

theorem Named.execKeyUnwrap (cmd : HostCmd) (s : State) (hk : RegsOnly rs s0 s) (r_orphanCtrl : RegName.orphanCtrl ∈ rs)
    (r_orphanLog : RegName.orphanLog ∈ rs) (r_fltCount2 : RegName.fltCount2 ∈ rs) (r_escCfg : RegName.escCfg ∈ rs)
    (r_slotStatus : RegName.slotStatus ∈ rs) (r_secCount : RegName.secCount ∈ rs) : NamedO rs s0 (execKeyUnwrap cmd s) := by
  unfold Sys2Proof.Machine.execKeyUnwrap
  with_reducible repeat' first
    | assumption | apply Named.runCmd | apply Named.doKeyUnwrap | apply NamedO.next | simp only [Named.upd] | dsimp only
    | split | intro

theorem Named.execKeyErase (cmd : HostCmd) (s : State) (hk : RegsOnly rs s0 s) (r_orphanCtrl : RegName.orphanCtrl ∈ rs)
    (r_orphanLog : RegName.orphanLog ∈ rs) (r_fltCount2 : RegName.fltCount2 ∈ rs) (r_escCfg : RegName.escCfg ∈ rs)
    (r_slotStatus : RegName.slotStatus ∈ rs) (r_secCount : RegName.secCount ∈ rs) : NamedO rs s0 (execKeyErase cmd s) := by
  unfold Sys2Proof.Machine.execKeyErase
  with_reducible repeat' first
    | assumption | apply Named.runCmd | apply Named.doKeyUnwrap | apply NamedO.next | simp only [Named.upd] | dsimp only
    | split | intro

theorem Named.doCtxSave (c : HostCmd) (s : State) (hk : RegsOnly rs s0 s) (r_orphanCtrl : RegName.orphanCtrl ∈ rs)
    (r_orphanLog : RegName.orphanLog ∈ rs) (r_fltCount2 : RegName.fltCount2 ∈ rs) (r_escCfg : RegName.escCfg ∈ rs)
    : RegsOnly rs s0 (doCtxSave c s) := by
  unfold Sys2Proof.Machine.doCtxSave
  with_reducible repeat' first
    | assumption | apply Named.complete | apply Named.completeData | apply Named.keyRefused | simp only [Named.upd]
    | dsimp only | split | intro

theorem Named.ctxRestoreNow (c : HostCmd) (s : State) (hk : RegsOnly rs s0 s) (r_orphanCtrl : RegName.orphanCtrl ∈ rs)
    (r_orphanLog : RegName.orphanLog ∈ rs) (r_fltCount2 : RegName.fltCount2 ∈ rs) (r_escCfg : RegName.escCfg ∈ rs)
    (r_ctx0Status : RegName.ctx0Status ∈ rs) (r_ctx0Bits : RegName.ctx0Bits ∈ rs) : RegsOnly rs s0 (ctxRestoreNow c s) := by
  unfold Sys2Proof.Machine.ctxRestoreNow
  with_reducible repeat' first
    | assumption | apply Named.complete | apply Named.keyRefused | apply Named.setF | apply Named.setReg64
    | apply RegIn.ctx0Status | apply RegIn.ctx0Bits | apply RegIn.ctx0Bits4 | simp only [Named.upd] | dsimp only | split
    | intro

theorem Named.doCtxRestore (c : HostCmd) (s : State) (hk : RegsOnly rs s0 s) (r_orphanCtrl : RegName.orphanCtrl ∈ rs)
    (r_orphanLog : RegName.orphanLog ∈ rs) (r_fltCount2 : RegName.fltCount2 ∈ rs) (r_escCfg : RegName.escCfg ∈ rs)
    (r_ctx0Status : RegName.ctx0Status ∈ rs) (r_ctx0Bits : RegName.ctx0Bits ∈ rs) : RegsOnly rs s0 (doCtxRestore c s) := by
  unfold Sys2Proof.Machine.doCtxRestore
  with_reducible repeat' first
    | assumption | apply Named.complete | apply Named.ctxRestoreNow | apply Named.setPhase | simp only [Named.upd]
    | dsimp only | split | intro

theorem Named.ctxPoll (s : State) (hk : RegsOnly rs s0 s) (r_orphanCtrl : RegName.orphanCtrl ∈ rs)
    (r_orphanLog : RegName.orphanLog ∈ rs) (r_fltCount2 : RegName.fltCount2 ∈ rs) (r_escCfg : RegName.escCfg ∈ rs)
    (r_ctx0Status : RegName.ctx0Status ∈ rs) (r_ctx0Bits : RegName.ctx0Bits ∈ rs) : RegsOnly rs s0 (ctxPoll s) := by
  unfold Sys2Proof.Machine.ctxPoll
  with_reducible repeat' first
    | assumption | apply Named.setBit | apply Named.forEach | apply Named.ctxRestoreNow | apply RegIn.ctx0Status
    | simp only [Named.upd] | dsimp only | split | intro

theorem Named.execCtxSave (cmd : HostCmd) (s : State) (hk : RegsOnly rs s0 s) (r_orphanCtrl : RegName.orphanCtrl ∈ rs)
    (r_orphanLog : RegName.orphanLog ∈ rs) (r_fltCount2 : RegName.fltCount2 ∈ rs) (r_escCfg : RegName.escCfg ∈ rs)
    : NamedO rs s0 (execCtxSave cmd s) := by
  unfold Sys2Proof.Machine.execCtxSave
  with_reducible repeat' first
    | assumption | apply Named.runCmd | apply Named.doCtxSave | apply NamedO.next | simp only [Named.upd] | dsimp only
    | split | intro

theorem Named.execCtxRestore (cmd : HostCmd) (s : State) (hk : RegsOnly rs s0 s) (r_orphanCtrl : RegName.orphanCtrl ∈ rs)
    (r_orphanLog : RegName.orphanLog ∈ rs) (r_fltCount2 : RegName.fltCount2 ∈ rs) (r_escCfg : RegName.escCfg ∈ rs)
    (r_ctx0Status : RegName.ctx0Status ∈ rs) (r_ctx0Bits : RegName.ctx0Bits ∈ rs) : NamedO rs s0 (execCtxRestore cmd s) := by
  unfold Sys2Proof.Machine.execCtxRestore
  with_reducible repeat' first
    | assumption | apply Named.runCmd | apply Named.doCtxRestore | apply NamedO.next | simp only [Named.upd] | dsimp only
    | split | intro

theorem Named.execTrngFail (s : State) (hk : RegsOnly rs s0 s) (r_fltCount2 : RegName.fltCount2 ∈ rs)
    (r_escCfg : RegName.escCfg ∈ rs) (r_secStatus : RegName.secStatus ∈ rs) : NamedO rs s0 (execTrngFail s) := by
  unfold Sys2Proof.Machine.execTrngFail
  with_reducible repeat' first
    | assumption | apply Named.raise | apply Named.setBit | apply RegIn.secStatus | apply NamedO.next | simp only [Named.upd]
    | dsimp only | split | intro

theorem Named.sigCount (s : State) (ok : Bool) (hk : RegsOnly rs s0 s) (r_fltCount2 : RegName.fltCount2 ∈ rs)
    (r_escCfg : RegName.escCfg ∈ rs) (r_secCount : RegName.secCount ∈ rs) : RegsOnly rs s0 (sigCount s ok) := by
  unfold Sys2Proof.Machine.sigCount
  with_reducible repeat' first
    | assumption | apply Named.secCount | apply Named.raise | simp only [Named.upd] | dsimp only | split | intro

theorem Named.raiseFwFloor (s : State) (svn : Nat) (hk : RegsOnly rs s0 s) (r_fltCount2 : RegName.fltCount2 ∈ rs)
    (r_escCfg : RegName.escCfg ∈ rs) (r_secStatus : RegName.secStatus ∈ rs) : RegsOnly rs s0 (raiseFwFloor s svn) := by
  unfold Sys2Proof.Machine.raiseFwFloor
  with_reducible repeat' first
    | assumption | apply Named.raise | apply Named.setF | apply RegIn.secStatus | simp only [Named.upd] | dsimp only | split
    | intro

theorem Named.raisePatchFloor (s : State) (svn : Nat) (hk : RegsOnly rs s0 s) (r_fltCount2 : RegName.fltCount2 ∈ rs)
    (r_escCfg : RegName.escCfg ∈ rs) (r_secStatus : RegName.secStatus ∈ rs) : RegsOnly rs s0 (raisePatchFloor s svn) := by
  unfold Sys2Proof.Machine.raisePatchFloor
  with_reducible repeat' first
    | assumption | apply Named.raise | apply Named.setF | apply RegIn.secStatus | simp only [Named.upd] | dsimp only | split
    | intro

theorem Named.doPatchLoad (m : Image) (c : HostCmd) (s : State) (hk : RegsOnly rs s0 s)
    (r_orphanCtrl : RegName.orphanCtrl ∈ rs) (r_orphanLog : RegName.orphanLog ∈ rs) (r_fltCount2 : RegName.fltCount2 ∈ rs)
    (r_escCfg : RegName.escCfg ∈ rs) (r_secCount : RegName.secCount ∈ rs) : RegsOnly rs s0 (doPatchLoad m c s) := by
  unfold Sys2Proof.Machine.doPatchLoad
  with_reducible repeat' first
    | assumption | apply Named.setPhase | apply Named.sigCount | apply Named.complete | simp only [Named.upd] | dsimp only
    | split | intro

theorem Named.execPatchLoad (cmd : HostCmd) (image : Image) (s : State) (hk : RegsOnly rs s0 s)
    (r_orphanCtrl : RegName.orphanCtrl ∈ rs) (r_orphanLog : RegName.orphanLog ∈ rs) (r_fltCount2 : RegName.fltCount2 ∈ rs)
    (r_escCfg : RegName.escCfg ∈ rs) (r_secCount : RegName.secCount ∈ rs) : NamedO rs s0 (execPatchLoad cmd image s) := by
  unfold Sys2Proof.Machine.execPatchLoad
  with_reducible repeat' first
    | assumption | apply Named.runCmd | apply Named.doPatchLoad | apply NamedO.next | simp only [Named.upd] | dsimp only
    | split | intro

theorem Named.execPatchSwitchPoint (s : State) (hk : RegsOnly rs s0 s) (r_orphanCtrl : RegName.orphanCtrl ∈ rs)
    (r_orphanLog : RegName.orphanLog ∈ rs) (r_fltCount2 : RegName.fltCount2 ∈ rs) (r_escCfg : RegName.escCfg ∈ rs)
    (r_secStatus : RegName.secStatus ∈ rs) : NamedO rs s0 (execPatchSwitchPoint s) := by
  unfold Sys2Proof.Machine.execPatchSwitchPoint
  with_reducible repeat' first
    | assumption | apply Named.raisePatchFloor | apply Named.raise | apply Named.complete | apply NamedO.next
    | simp only [Named.upd] | dsimp only | split | intro

theorem Named.writeSlot (s : State) (image : Image) (sound : Bool) (hk : RegsOnly rs s0 s)
    : RegsOnly rs s0 (writeSlot s image sound) := by
  unfold Sys2Proof.Machine.writeSlot
  with_reducible repeat' first
    | assumption | simp only [Named.upd] | dsimp only | split | intro

theorem Named.execFwUpdate (image : Image) (cut : Bool) (s : State) (hk : RegsOnly rs s0 s) (r_mbCtrl : RegName.mbCtrl ∈ rs)
    (r_mbResponse : RegName.mbResponse ∈ rs) (r_orphanCtrl : RegName.orphanCtrl ∈ rs) (r_orphanLog : RegName.orphanLog ∈ rs)
    (r_fltCount2 : RegName.fltCount2 ∈ rs) (r_escCfg : RegName.escCfg ∈ rs) (r_secCount : RegName.secCount ∈ rs)
    : NamedO rs s0 (execFwUpdate image cut s) := by
  unfold Sys2Proof.Machine.execFwUpdate
  with_reducible repeat' first
    | assumption | apply Named.mailRespond | apply Named.sigCount | apply Named.writeSlot | apply NamedO.next
    | simp only [Named.upd] | dsimp only | split | intro

theorem Named.lcsAnswer (s : State) (m : MailReq) (hk : RegsOnly rs s0 s) (r_mbCtrl : RegName.mbCtrl ∈ rs)
    (r_mbResponse : RegName.mbResponse ∈ rs) (r_orphanCtrl : RegName.orphanCtrl ∈ rs) (r_orphanLog : RegName.orphanLog ∈ rs)
    (r_fltCount2 : RegName.fltCount2 ∈ rs) (r_escCfg : RegName.escCfg ∈ rs) (r_secCount : RegName.secCount ∈ rs)
    : RegsOnly rs s0 (lcsAnswer s m) := by
  unfold Sys2Proof.Machine.lcsAnswer
  with_reducible repeat' first
    | assumption | apply Named.mailRespond | apply Named.sigCount | simp only [Named.upd] | dsimp only | split | intro

theorem Named.execLcsChange (s : State) (hk : RegsOnly rs s0 s) (r_mbCtrl : RegName.mbCtrl ∈ rs)
    (r_mbResponse : RegName.mbResponse ∈ rs) (r_orphanCtrl : RegName.orphanCtrl ∈ rs) (r_orphanLog : RegName.orphanLog ∈ rs)
    (r_fltCount2 : RegName.fltCount2 ∈ rs) (r_escCfg : RegName.escCfg ∈ rs) (r_secCount : RegName.secCount ∈ rs)
    : NamedO rs s0 (execLcsChange s) := by
  unfold Sys2Proof.Machine.execLcsChange
  with_reducible repeat' first
    | assumption | apply Named.mailRespond | apply Named.lcsAnswer | apply NamedO.next | simp only [Named.upd] | dsimp only
    | split | intro

theorem Named.execMailboxResponse (s : State) (hk : RegsOnly rs s0 s) (r_mbCtrl : RegName.mbCtrl ∈ rs)
    (r_mbResponse : RegName.mbResponse ∈ rs) (r_orphanCtrl : RegName.orphanCtrl ∈ rs) (r_orphanLog : RegName.orphanLog ∈ rs)
    (r_fltCount2 : RegName.fltCount2 ∈ rs) (r_escCfg : RegName.escCfg ∈ rs) (r_secCount : RegName.secCount ∈ rs)
    : NamedO rs s0 (execMailboxResponse s) := by
  unfold Sys2Proof.Machine.execMailboxResponse
  with_reducible repeat' first
    | assumption | apply Named.mailRespond | apply Named.lcsAnswer | apply NamedO.next | simp only [Named.upd] | dsimp only
    | split | intro

theorem Named.setLatch (s : State) (rq : Requester) (a : Nat) (v : Word) (hk : RegsOnly rs s0 s)
    : RegsOnly rs s0 (setLatch s rq a v) := by
  unfold Sys2Proof.Machine.setLatch
  with_reducible repeat' first
    | assumption | simp only [Named.upd] | dsimp only | split | intro

theorem Named.latchNow (s : State) (rq : Requester) (hk : RegsOnly rs s0 s) : RegsOnly rs s0 (latchNow s rq) := by
  unfold Sys2Proof.Machine.latchNow
  with_reducible repeat' first
    | assumption | apply Named.setLatch | simp only [Named.upd] | dsimp only | split | intro

theorem Named.execNowNsRead (rq : Requester) (s : State) (hk : RegsOnly rs s0 s) : NamedO rs s0 (execNowNsRead rq s) := by
  unfold Sys2Proof.Machine.execNowNsRead
  with_reducible repeat' first
    | assumption | apply Named.emit | apply Named.latchNow | apply NamedO.next | simp only [Named.upd] | dsimp only | split
    | intro

theorem Named.execFreqWrite (value : Word) (s : State) (hk : RegsOnly rs s0 s) (r_timFreq : RegName.timFreq ∈ rs)
    : NamedO rs s0 (execFreqWrite value s) := by
  unfold Sys2Proof.Machine.execFreqWrite
  with_reducible repeat' first
    | assumption | apply Named.holdWrite | apply Named.setReg | apply RegIn.timFreq | apply NamedO.next
    | simp only [Named.upd] | dsimp only | split | intro

theorem Named.putPulse (s : State) (n : Nat) (p : Pulse) (hk : RegsOnly rs s0 s) : RegsOnly rs s0 (putPulse s n p) := by
  unfold Sys2Proof.Machine.putPulse
  with_reducible repeat' first
    | assumption | simp only [Named.upd] | dsimp only | split | intro

theorem Named.firePulse (n : Nat) (s : State) (hk : RegsOnly rs s0 s) (r_outStatus : RegName.outStatus ∈ rs)
    : RegsOnly rs s0 (firePulse n s) := by
  unfold Sys2Proof.Machine.firePulse
  with_reducible repeat' first
    | assumption | apply Named.putPulse | apply Named.emit | apply Named.setBit | apply RegIn.outStatus
    | apply RegIn.outStatus' | simp only [Named.upd] | dsimp only | split | intro

theorem Named.fireFirst (s : State) (hk : RegsOnly rs s0 s) (r_orphanCtrl : RegName.orphanCtrl ∈ rs) (r_orphanLog : RegName.orphanLog ∈ rs) (r_fltCount2 : RegName.fltCount2 ∈ rs) (r_escCfg : RegName.escCfg ∈ rs) (r_outStatus : RegName.outStatus ∈ rs) (r_domCtrl : RegName.domCtrl ∈ rs) (r_domT : RegName.domT ∈ rs) (r_winSlotStatus : RegName.winSlotStatus ∈ rs) (r_winErr : RegName.winErr ∈ rs) : RegsOnly rs s0 (fireFirst s) := by
  unfold Sys2Proof.Machine.fireFirst
  split
  · rename_i e he
    have hm := firstDue_mem he
    unfold Sys2Proof.Machine.dueEvents at hm
    simp only [List.mem_append, List.mem_filterMap] at hm
    rcases hm with (⟨g, _, hg⟩ | ⟨x, _, hx⟩) | ⟨x, _, hx⟩
    · split at hg
      · split at hg
        · cases hg
          with_reducible repeat' first | assumption | apply Named.rowState | apply Named.execCommitInstant
        · cases hg
      · cases hg
    · split at hx
      · split at hx
        · cases hx
          with_reducible repeat' first | assumption | apply Named.takeSwitch
        · cases hx
      · cases hx
    · split at hx
      · cases hx
        with_reducible repeat' first | assumption | apply Named.firePulse
      · cases hx
  · exact hk

theorem Named.captureSnaps (s : State) (hk : RegsOnly rs s0 s) : RegsOnly rs s0 (captureSnaps s) := by
  unfold Sys2Proof.Machine.captureSnaps
  with_reducible repeat' first
    | assumption | apply Named.forEach | simp only [Named.upd] | dsimp only | split | intro

theorem Named.fireDue (f : State → State) (s : State) (hf : ∀ t, RegsOnly rs s0 t → RegsOnly rs s0 (f t))
    (hk : RegsOnly rs s0 s) (r_orphanCtrl : RegName.orphanCtrl ∈ rs) (r_orphanLog : RegName.orphanLog ∈ rs)
    (r_fltCount2 : RegName.fltCount2 ∈ rs) (r_escCfg : RegName.escCfg ∈ rs) (r_outStatus : RegName.outStatus ∈ rs)
    (r_domCtrl : RegName.domCtrl ∈ rs) (r_domT : RegName.domT ∈ rs) (r_winSlotStatus : RegName.winSlotStatus ∈ rs)
    (r_winErr : RegName.winErr ∈ rs) : RegsOnly rs s0 (fireDue f s) := by
  unfold Sys2Proof.Machine.fireDue
  with_reducible repeat' first
    | assumption | apply hf | apply Named.captureSnaps | apply Named.forEach | apply Named.fireFirst | simp only [Named.upd]
    | dsimp only | split | intro

theorem Named.execScheduledEventFire (s : State) (hk : RegsOnly rs s0 s) (r_orphanCtrl : RegName.orphanCtrl ∈ rs)
    (r_orphanLog : RegName.orphanLog ∈ rs) (r_fltCount2 : RegName.fltCount2 ∈ rs) (r_escCfg : RegName.escCfg ∈ rs)
    (r_outStatus : RegName.outStatus ∈ rs) (r_domCtrl : RegName.domCtrl ∈ rs) (r_domT : RegName.domT ∈ rs)
    (r_winSlotStatus : RegName.winSlotStatus ∈ rs) (r_winErr : RegName.winErr ∈ rs)
    : NamedO rs s0 (execScheduledEventFire s) := by
  unfold Sys2Proof.Machine.execScheduledEventFire
  with_reducible repeat' first
    | assumption | apply Named.captureSnaps | apply Named.fireFirst | apply NamedO.next | simp only [Named.upd] | dsimp only
    | split | intro

theorem Named.endSlew (s : State) (hk : RegsOnly rs s0 s) (r_slewLeft : RegName.slewLeft ∈ rs)
    : RegsOnly rs s0 (endSlew s) := by
  unfold Sys2Proof.Machine.endSlew
  with_reducible repeat' first
    | assumption | apply Named.setReg64 | apply RegIn.slewLeft | apply RegIn.slewLeft4 | simp only [Named.upd] | dsimp only
    | split | intro

theorem Named.refillFrom (s : State) (hk : RegsOnly rs s0 s) : RegsOnly rs s0 (refillFrom s) := by
  unfold Sys2Proof.Machine.refillFrom
  with_reducible repeat' first
    | assumption | simp only [Named.upd] | dsimp only | split | intro

theorem Named.resumePulses (s : State) (hk : RegsOnly rs s0 s) : RegsOnly rs s0 (resumePulses s) := by
  unfold Sys2Proof.Machine.resumePulses
  with_reducible repeat' first
    | assumption | simp only [Named.upd] | dsimp only | split | intro

theorem Named.setClock (c : HostCmd) (k : Clock) (s : State) (hk : RegsOnly rs s0 s)
    (r_orphanCtrl : RegName.orphanCtrl ∈ rs) (r_orphanLog : RegName.orphanLog ∈ rs) (r_fltCount2 : RegName.fltCount2 ∈ rs) (r_escCfg : RegName.escCfg ∈ rs) (r_slewLeft : RegName.slewLeft ∈ rs) (r_outStatus : RegName.outStatus ∈ rs) (r_domCtrl : RegName.domCtrl ∈ rs) (r_domT : RegName.domT ∈ rs) (r_winSlotStatus : RegName.winSlotStatus ∈ rs) (r_winErr : RegName.winErr ∈ rs) : RegsOnly rs s0 (setClock c k s) := by
  unfold Sys2Proof.Machine.setClock
  dsimp only
  with_reducible repeat' first
    | assumption | apply Named.complete | apply Named.fireDue | apply Named.resumePulses | apply Named.refillFrom | apply Named.endSlew
    | simp only [Named.upd]  | simp only [id] | intro

theorem Named.doTimeSet (c : HostCmd) (s : State) (hk : RegsOnly rs s0 s) (r_orphanCtrl : RegName.orphanCtrl ∈ rs)
    (r_orphanLog : RegName.orphanLog ∈ rs) (r_fltCount2 : RegName.fltCount2 ∈ rs) (r_escCfg : RegName.escCfg ∈ rs)
    (r_slewLeft : RegName.slewLeft ∈ rs) (r_outStatus : RegName.outStatus ∈ rs) (r_domCtrl : RegName.domCtrl ∈ rs)
    (r_domT : RegName.domT ∈ rs) (r_winSlotStatus : RegName.winSlotStatus ∈ rs) (r_winErr : RegName.winErr ∈ rs)
    : RegsOnly rs s0 (doTimeSet c s) := by
  unfold Sys2Proof.Machine.doTimeSet
  with_reducible repeat' first
    | assumption | apply Named.complete | apply Named.setClock | apply Named.setReg64 | apply RegIn.slewLeft
    | apply RegIn.slewLeft4 | simp only [Named.upd] | dsimp only | split | intro

theorem Named.execTimeSetSet (cmd : HostCmd) (s : State) (hk : RegsOnly rs s0 s) (r_orphanCtrl : RegName.orphanCtrl ∈ rs)
    (r_orphanLog : RegName.orphanLog ∈ rs) (r_fltCount2 : RegName.fltCount2 ∈ rs) (r_escCfg : RegName.escCfg ∈ rs)
    (r_slewLeft : RegName.slewLeft ∈ rs) (r_outStatus : RegName.outStatus ∈ rs) (r_domCtrl : RegName.domCtrl ∈ rs)
    (r_domT : RegName.domT ∈ rs) (r_winSlotStatus : RegName.winSlotStatus ∈ rs) (r_winErr : RegName.winErr ∈ rs)
    : NamedO rs s0 (execTimeSetSet cmd s) := by
  unfold Sys2Proof.Machine.execTimeSetSet
  with_reducible repeat' first
    | assumption | apply Named.runCmd | apply Named.doTimeSet | apply NamedO.next | simp only [Named.upd] | dsimp only
    | split | intro

theorem Named.execTimeSetStep (cmd : HostCmd) (s : State) (hk : RegsOnly rs s0 s) (r_orphanCtrl : RegName.orphanCtrl ∈ rs)
    (r_orphanLog : RegName.orphanLog ∈ rs) (r_fltCount2 : RegName.fltCount2 ∈ rs) (r_escCfg : RegName.escCfg ∈ rs)
    (r_slewLeft : RegName.slewLeft ∈ rs) (r_outStatus : RegName.outStatus ∈ rs) (r_domCtrl : RegName.domCtrl ∈ rs)
    (r_domT : RegName.domT ∈ rs) (r_winSlotStatus : RegName.winSlotStatus ∈ rs) (r_winErr : RegName.winErr ∈ rs)
    : NamedO rs s0 (execTimeSetStep cmd s) := by
  unfold Sys2Proof.Machine.execTimeSetStep
  with_reducible repeat' first
    | assumption | apply Named.runCmd | apply Named.doTimeSet | apply NamedO.next | simp only [Named.upd] | dsimp only
    | split | intro

theorem Named.execTimeSetSlew (cmd : HostCmd) (s : State) (hk : RegsOnly rs s0 s) (r_orphanCtrl : RegName.orphanCtrl ∈ rs)
    (r_orphanLog : RegName.orphanLog ∈ rs) (r_fltCount2 : RegName.fltCount2 ∈ rs) (r_escCfg : RegName.escCfg ∈ rs)
    (r_slewLeft : RegName.slewLeft ∈ rs) (r_outStatus : RegName.outStatus ∈ rs) (r_domCtrl : RegName.domCtrl ∈ rs)
    (r_domT : RegName.domT ∈ rs) (r_winSlotStatus : RegName.winSlotStatus ∈ rs) (r_winErr : RegName.winErr ∈ rs)
    : NamedO rs s0 (execTimeSetSlew cmd s) := by
  unfold Sys2Proof.Machine.execTimeSetSlew
  with_reducible repeat' first
    | assumption | apply Named.runCmd | apply Named.doTimeSet | apply NamedO.next | simp only [Named.upd] | dsimp only
    | split | intro

theorem Named.execSlewComplete (s : State) (hk : RegsOnly rs s0 s) (r_fltCount2 : RegName.fltCount2 ∈ rs)
    (r_escCfg : RegName.escCfg ∈ rs) (r_slewLeft : RegName.slewLeft ∈ rs) : NamedO rs s0 (execSlewComplete s) := by
  unfold Sys2Proof.Machine.execSlewComplete
  with_reducible repeat' first
    | assumption | apply Named.raise | apply Named.setReg64 | apply RegIn.slewLeft | apply RegIn.slewLeft4
    | apply NamedO.next | simp only [Named.upd] | dsimp only | split | intro

theorem Named.loseRef (s : State) (hk : RegsOnly rs s0 s) (r_bringup : RegName.bringup ∈ rs)
    (r_fltCount2 : RegName.fltCount2 ∈ rs) (r_escCfg : RegName.escCfg ∈ rs) (r_timRef : RegName.timRef ∈ rs)
    : RegsOnly rs s0 (loseRef s) := by
  unfold Sys2Proof.Machine.loseRef
  with_reducible repeat' first
    | assumption | apply Named.raise | apply Named.clearBringup | apply Named.setF | apply RegIn.timRef
    | simp only [Named.upd] | dsimp only | split | intro

theorem Named.execReferenceLost (s : State) (hk : RegsOnly rs s0 s) (r_bringup : RegName.bringup ∈ rs)
    (r_fltCount2 : RegName.fltCount2 ∈ rs) (r_escCfg : RegName.escCfg ∈ rs) (r_timRef : RegName.timRef ∈ rs)
    : NamedO rs s0 (execReferenceLost s) := by
  unfold Sys2Proof.Machine.execReferenceLost
  with_reducible repeat' first
    | assumption | apply Named.loseRef | apply NamedO.next | simp only [Named.upd] | dsimp only | split | intro

theorem Named.execRefSelWrite (value : Word) (s : State) (hk : RegsOnly rs s0 s) (r_bringup : RegName.bringup ∈ rs)
    (r_fltCount2 : RegName.fltCount2 ∈ rs) (r_escCfg : RegName.escCfg ∈ rs) (r_timRef : RegName.timRef ∈ rs)
    : NamedO rs s0 (execRefSelWrite value s) := by
  unfold Sys2Proof.Machine.execRefSelWrite
  with_reducible repeat' first
    | assumption | apply Named.holdWrite | apply Named.loseRef | apply Named.setBit | apply RegIn.timRef | apply NamedO.next
    | simp only [Named.upd] | dsimp only | split | intro

theorem Named.execTimeLock (s : State) (hk : RegsOnly rs s0 s) (r_bringup : RegName.bringup ∈ rs)
    (r_fltCount2 : RegName.fltCount2 ∈ rs) (r_escCfg : RegName.escCfg ∈ rs) (r_timRef : RegName.timRef ∈ rs)
    : NamedO rs s0 (execTimeLock s) := by
  unfold Sys2Proof.Machine.execTimeLock
  with_reducible repeat' first
    | assumption | apply Named.raise | apply Named.setBringup | apply Named.setF | apply RegIn.timRef | apply NamedO.next
    | simp only [Named.upd] | dsimp only | split | intro

theorem Named.execCaptureEdge (set : Nat) (falling : Bool) (s : State) (hk : RegsOnly rs s0 s)
    (r_fltCount2 : RegName.fltCount2 ∈ rs) (r_escCfg : RegName.escCfg ∈ rs) (r_capStatus : RegName.capStatus ∈ rs)
    (r_capNs : RegName.capNs ∈ rs) (r_capFrac : RegName.capFrac ∈ rs) (r_capSec : RegName.capSec ∈ rs)
    : NamedO rs s0 (execCaptureEdge set falling s) := by
  unfold Sys2Proof.Machine.execCaptureEdge
  with_reducible repeat' first
    | assumption | apply Named.setBit | apply Named.setReg | apply Named.raise | apply Named.setReg64 | apply RegIn.capStatus
    | apply RegIn.capNs | apply RegIn.capFrac | apply RegIn.capSec | apply RegIn.capSec4 | apply NamedO.next
    | simp only [Named.upd] | dsimp only | split | intro

theorem Named.pulseArm (n : Nat) (value : Word) (s : State) (hk : RegsOnly rs s0 s) (r_fltCount2 : RegName.fltCount2 ∈ rs)
    (r_escCfg : RegName.escCfg ∈ rs) (r_outCfg : RegName.outCfg ∈ rs) (r_outStatus : RegName.outStatus ∈ rs)
    : RegsOnly rs s0 (pulseArm n value s) := by
  unfold Sys2Proof.Machine.pulseArm
  with_reducible repeat' first
    | assumption | apply Named.setBit | apply Named.setF | apply Named.putPulse | apply Named.raise | apply RegIn.outCfg
    | apply RegIn.outStatus | apply RegIn.outStatus' | simp only [Named.upd] | dsimp only | split | intro

theorem Named.execPulseArm (n : Nat) (value : Word) (s : State) (hk : RegsOnly rs s0 s)
    (r_fltCount2 : RegName.fltCount2 ∈ rs) (r_escCfg : RegName.escCfg ∈ rs) (r_outCfg : RegName.outCfg ∈ rs)
    (r_outStatus : RegName.outStatus ∈ rs) : NamedO rs s0 (execPulseArm n value s) := by
  unfold Sys2Proof.Machine.execPulseArm
  with_reducible repeat' first
    | assumption | apply Named.holdWrite | apply Named.pulseArm | apply NamedO.next | simp only [Named.upd] | dsimp only
    | split | intro

theorem Named.pulseStop (n : Nat) (value : Word) (s : State) (hk : RegsOnly rs s0 s) (r_outCfg : RegName.outCfg ∈ rs)
    : RegsOnly rs s0 (pulseStop n value s) := by
  unfold Sys2Proof.Machine.pulseStop
  with_reducible repeat' first
    | assumption | apply Named.setF | apply Named.putPulse | apply RegIn.outCfg | simp only [Named.upd] | dsimp only | split
    | intro

theorem Named.execPulseStop (n : Nat) (value : Word) (s : State) (hk : RegsOnly rs s0 s) (r_outCfg : RegName.outCfg ∈ rs)
    : NamedO rs s0 (execPulseStop n value s) := by
  unfold Sys2Proof.Machine.execPulseStop
  with_reducible repeat' first
    | assumption | apply Named.holdWrite | apply Named.pulseStop | apply NamedO.next | simp only [Named.upd] | dsimp only
    | split | intro

theorem Named.execPulseEdge (n : Nat) (s : State) (hk : RegsOnly rs s0 s) (r_outStatus : RegName.outStatus ∈ rs)
    : NamedO rs s0 (execPulseEdge n s) := by
  unfold Sys2Proof.Machine.execPulseEdge
  with_reducible repeat' first
    | assumption | apply Named.firePulse | apply NamedO.next | simp only [Named.upd] | dsimp only | split | intro

theorem Named.setLatency (s : State) (l lanes rate : Nat) (hk : RegsOnly rs s0 s) (r_portLatency : RegName.portLatency ∈ rs)
    : RegsOnly rs s0 (setLatency s l lanes rate) := by
  unfold Sys2Proof.Machine.setLatency
  with_reducible repeat' first
    | assumption | apply Named.setReg | apply RegIn.portLatency | apply RegIn.portLatency4 | apply RegIn.portLatency'
    | simp only [Named.upd] | dsimp only | split | intro

theorem Named.setStall (s : State) (n : Nat) (x : Stall) (hk : RegsOnly rs s0 s) : RegsOnly rs s0 (setStall s n x) := by
  unfold Sys2Proof.Machine.setStall
  with_reducible repeat' first
    | assumption | simp only [Named.upd] | dsimp only | split | intro

theorem Named.passOn (s : State) (n : Nat) (f : Flight) (hk : RegsOnly rs s0 s) : RegsOnly rs s0 (passOn s n f) := by
  unfold Sys2Proof.Machine.passOn
  with_reducible repeat' first
    | assumption | simp only [Named.upd] | dsimp only | split | intro

theorem Named.mktErr (s : State) (bit : Nat) (hk : RegsOnly rs s0 s) (r_fltCount2 : RegName.fltCount2 ∈ rs)
    (r_escCfg : RegName.escCfg ∈ rs) (r_mktErr : RegName.mktErr ∈ rs) : RegsOnly rs s0 (mktErr s bit) := by
  unfold Sys2Proof.Machine.mktErr
  with_reducible repeat' first
    | assumption | apply Named.raise | apply Named.setBit | apply RegIn.mktErr | simp only [Named.upd] | dsimp only | split
    | intro

theorem Named.execCarveWrite (value : Word) (s : State) (hk : RegsOnly rs s0 s) (r_fltCount2 : RegName.fltCount2 ∈ rs)
    (r_escCfg : RegName.escCfg ∈ rs) (r_carve : RegName.carve ∈ rs) (r_mktErr : RegName.mktErr ∈ rs)
    (r_poolFree : RegName.poolFree ∈ rs) : NamedO rs s0 (execCarveWrite value s) := by
  unfold Sys2Proof.Machine.execCarveWrite
  with_reducible repeat' first
    | assumption | apply Named.holdWrite | apply Named.whenB | apply Named.mktErr | apply Named.setReg | apply Named.forEach
    | apply Named.setF | apply RegIn.carve | apply RegIn.poolFree | apply NamedO.next | simp only [Named.upd] | dsimp only
    | split | intro

theorem Named.execReserveWrite (hdrm : Bool) (value : Word) (s : State) (hk : RegsOnly rs s0 s)
    (r_fltCount2 : RegName.fltCount2 ∈ rs) (r_escCfg : RegName.escCfg ∈ rs) (r_mktErr : RegName.mktErr ∈ rs)
    (r_drainReserve : RegName.drainReserve ∈ rs) (r_hdrmReserve : RegName.hdrmReserve ∈ rs)
    : NamedO rs s0 (execReserveWrite hdrm value s) := by
  unfold Sys2Proof.Machine.execReserveWrite
  with_reducible repeat' first
    | assumption | apply Named.holdWrite | apply Named.mktErr | apply Named.setF | apply RegIn.drainReserve
    | apply RegIn.hdrmReserve | apply NamedO.next | simp only [Named.upd] | dsimp only | split | intro

theorem Named.markEgress (s : State) (id reason : Nat) (hk : RegsOnly rs s0 s)
    : RegsOnly rs s0 (markEgress s id reason) := by
  unfold Sys2Proof.Machine.markEgress
  with_reducible repeat' first
    | assumption | simp only [Named.upd] | dsimp only | split | intro

theorem Named.dropEntries (s : State) (q id reason : Nat) (hk : RegsOnly rs s0 s) (r_fltRec : RegName.fltRec ∈ rs)
    (r_fltFirst : RegName.fltFirst ∈ rs) (r_fltCount0 : RegName.fltCount0 ∈ rs) (r_fltCount1 : RegName.fltCount1 ∈ rs)
    (r_fltCount2 : RegName.fltCount2 ∈ rs) (r_escCfg : RegName.escCfg ∈ rs) (r_mktStatus : RegName.mktStatus ∈ rs)
    (r_poolFree : RegName.poolFree ∈ rs) (r_mktCount0 : RegName.mktCount0 ∈ rs) (r_mktCount3 : RegName.mktCount3 ∈ rs)
    (r_mktCount4 : RegName.mktCount4 ∈ rs) (r_mktCount5 : RegName.mktCount5 ∈ rs) (r_mktCount6 : RegName.mktCount6 ∈ rs)
    (r_partUsed : RegName.partUsed ∈ rs) (r_qcfgPitch : RegName.qcfgPitch ∈ rs) (r_qcfgOcc : RegName.qcfgOcc ∈ rs)
    (r_pfcState : RegName.pfcState ∈ rs) (r_ingUsed : RegName.ingUsed ∈ rs) (r_hdrmUsed : RegName.hdrmUsed ∈ rs)
    (r_stagingFree : RegName.stagingFree ∈ rs) (r_splCount : RegName.splCount ∈ rs) (r_stackStatus : RegName.stackStatus ∈ rs)
    (r_qspillStatus : RegName.qspillStatus ∈ rs) (r_talCount : RegName.talCount ∈ rs) (r_pmcCount : RegName.pmcCount ∈ rs)
    : RegsOnly rs s0 (dropEntries s q id reason) := by
  unfold Sys2Proof.Machine.dropEntries
  with_reducible repeat' first
    | assumption | apply Named.setQueue | apply Named.forEach | apply Named.dropQueued | simp only [Named.upd] | dsimp only
    | split | intro

theorem Named.loseFrame (s : State) (id reason : Nat) (hk : RegsOnly rs s0 s) (r_fltRec : RegName.fltRec ∈ rs)
    (r_fltFirst : RegName.fltFirst ∈ rs) (r_fltCount0 : RegName.fltCount0 ∈ rs) (r_fltCount1 : RegName.fltCount1 ∈ rs)
    (r_fltCount2 : RegName.fltCount2 ∈ rs) (r_escCfg : RegName.escCfg ∈ rs) (r_mktStatus : RegName.mktStatus ∈ rs)
    (r_poolFree : RegName.poolFree ∈ rs) (r_mktCount0 : RegName.mktCount0 ∈ rs) (r_mktCount3 : RegName.mktCount3 ∈ rs)
    (r_mktCount4 : RegName.mktCount4 ∈ rs) (r_mktCount5 : RegName.mktCount5 ∈ rs) (r_mktCount6 : RegName.mktCount6 ∈ rs)
    (r_partUsed : RegName.partUsed ∈ rs) (r_qcfgPitch : RegName.qcfgPitch ∈ rs) (r_qcfgOcc : RegName.qcfgOcc ∈ rs)
    (r_pfcState : RegName.pfcState ∈ rs) (r_ingUsed : RegName.ingUsed ∈ rs) (r_hdrmUsed : RegName.hdrmUsed ∈ rs)
    (r_stagingFree : RegName.stagingFree ∈ rs) (r_splCount : RegName.splCount ∈ rs) (r_stackStatus : RegName.stackStatus ∈ rs)
    (r_qspillStatus : RegName.qspillStatus ∈ rs) (r_talCount : RegName.talCount ∈ rs) (r_pmcCount : RegName.pmcCount ∈ rs)
    : RegsOnly rs s0 (loseFrame s id reason) := by
  unfold Sys2Proof.Machine.loseFrame
  with_reducible repeat' first
    | assumption | apply Named.markEgress | apply Named.forEach | apply Named.dropEntries | simp only [Named.upd]
    | dsimp only | split | intro

theorem Named.retireBank (s : State) (b : Nat) (hk : RegsOnly rs s0 s) (r_fltRec : RegName.fltRec ∈ rs)
    (r_fltFirst : RegName.fltFirst ∈ rs) (r_fltCount0 : RegName.fltCount0 ∈ rs) (r_fltCount1 : RegName.fltCount1 ∈ rs)
    (r_fltCount2 : RegName.fltCount2 ∈ rs) (r_escCfg : RegName.escCfg ∈ rs) (r_mktStatus : RegName.mktStatus ∈ rs)
    (r_poolFree : RegName.poolFree ∈ rs) (r_mktCount0 : RegName.mktCount0 ∈ rs) (r_mktCount3 : RegName.mktCount3 ∈ rs)
    (r_mktCount4 : RegName.mktCount4 ∈ rs) (r_mktCount5 : RegName.mktCount5 ∈ rs) (r_mktCount6 : RegName.mktCount6 ∈ rs)
    (r_partUsed : RegName.partUsed ∈ rs) (r_qcfgPitch : RegName.qcfgPitch ∈ rs) (r_qcfgOcc : RegName.qcfgOcc ∈ rs)
    (r_pfcState : RegName.pfcState ∈ rs) (r_ingUsed : RegName.ingUsed ∈ rs) (r_hdrmUsed : RegName.hdrmUsed ∈ rs)
    (r_bankStatus : RegName.bankStatus ∈ rs) (r_stagingFree : RegName.stagingFree ∈ rs) (r_splCount : RegName.splCount ∈ rs)
    (r_stackStatus : RegName.stackStatus ∈ rs) (r_qspillStatus : RegName.qspillStatus ∈ rs) (r_talCount : RegName.talCount ∈ rs)
    (r_pmcCount : RegName.pmcCount ∈ rs) : RegsOnly rs s0 (retireBank s b) := by
  unfold Sys2Proof.Machine.retireBank
  with_reducible repeat' first
    | assumption | apply Named.setF | apply Named.setBit | apply Named.forEach | apply Named.raise | apply Named.loseFrame
    | apply RegIn.mktStatus | apply RegIn.poolFree | apply RegIn.bankStatus | simp only [Named.upd] | dsimp only | split
    | intro

theorem Named.execBankRetire (bank : Nat) (value : Word) (s : State) (hk : RegsOnly rs s0 s) (r_fltRec : RegName.fltRec ∈ rs)
    (r_fltFirst : RegName.fltFirst ∈ rs) (r_fltCount0 : RegName.fltCount0 ∈ rs) (r_fltCount1 : RegName.fltCount1 ∈ rs)
    (r_fltCount2 : RegName.fltCount2 ∈ rs) (r_escCfg : RegName.escCfg ∈ rs) (r_mktStatus : RegName.mktStatus ∈ rs)
    (r_poolFree : RegName.poolFree ∈ rs) (r_mktCount0 : RegName.mktCount0 ∈ rs) (r_mktCount3 : RegName.mktCount3 ∈ rs)
    (r_mktCount4 : RegName.mktCount4 ∈ rs) (r_mktCount5 : RegName.mktCount5 ∈ rs) (r_mktCount6 : RegName.mktCount6 ∈ rs)
    (r_partUsed : RegName.partUsed ∈ rs) (r_qcfgPitch : RegName.qcfgPitch ∈ rs) (r_qcfgOcc : RegName.qcfgOcc ∈ rs)
    (r_pfcState : RegName.pfcState ∈ rs) (r_ingUsed : RegName.ingUsed ∈ rs) (r_hdrmUsed : RegName.hdrmUsed ∈ rs)
    (r_bankStatus : RegName.bankStatus ∈ rs) (r_stagingFree : RegName.stagingFree ∈ rs) (r_splCount : RegName.splCount ∈ rs)
    (r_stackStatus : RegName.stackStatus ∈ rs) (r_qspillStatus : RegName.qspillStatus ∈ rs) (r_talCount : RegName.talCount ∈ rs)
    (r_pmcCount : RegName.pmcCount ∈ rs) : NamedO rs s0 (execBankRetire bank value s) := by
  unfold Sys2Proof.Machine.execBankRetire
  with_reducible repeat' first
    | assumption | apply Named.holdWrite | apply Named.retireBank | apply NamedO.next | simp only [Named.upd] | dsimp only
    | split | intro

theorem Named.marketError (s : State) (c : Copy) (unit part : Nat) (hk : RegsOnly rs s0 s) (r_fltRec : RegName.fltRec ∈ rs)
    (r_fltFirst : RegName.fltFirst ∈ rs) (r_fltCount0 : RegName.fltCount0 ∈ rs) (r_fltCount1 : RegName.fltCount1 ∈ rs)
    (r_fltCount2 : RegName.fltCount2 ∈ rs) (r_escCfg : RegName.escCfg ∈ rs) (r_mktStatus : RegName.mktStatus ∈ rs)
    (r_poolFree : RegName.poolFree ∈ rs) (r_mktCount0 : RegName.mktCount0 ∈ rs) (r_mktCount3 : RegName.mktCount3 ∈ rs)
    (r_mktCount4 : RegName.mktCount4 ∈ rs) (r_mktCount5 : RegName.mktCount5 ∈ rs) (r_mktCount6 : RegName.mktCount6 ∈ rs)
    (r_mktCount7 : RegName.mktCount7 ∈ rs) (r_partUsed : RegName.partUsed ∈ rs) (r_qcfgPitch : RegName.qcfgPitch ∈ rs)
    (r_qcfgOcc : RegName.qcfgOcc ∈ rs) (r_pfcState : RegName.pfcState ∈ rs) (r_ingUsed : RegName.ingUsed ∈ rs)
    (r_hdrmUsed : RegName.hdrmUsed ∈ rs) (r_bankStatus : RegName.bankStatus ∈ rs) (r_bankEcc : RegName.bankEcc ∈ rs)
    (r_stagingFree : RegName.stagingFree ∈ rs) (r_splCount : RegName.splCount ∈ rs) (r_stackStatus : RegName.stackStatus ∈ rs)
    (r_qspillStatus : RegName.qspillStatus ∈ rs) (r_talCount : RegName.talCount ∈ rs) (r_pmcCount : RegName.pmcCount ∈ rs)
    : RegsOnly rs s0 (marketError s c unit part) := by
  unfold Sys2Proof.Machine.marketError
  with_reducible repeat' first
    | assumption | apply Named.add64 | apply Named.satF | apply Named.drawn | apply Named.fault | apply Named.retireBank
    | apply RegIn.mktCount7 | apply RegIn.mktCount74 | apply RegIn.bankEcc | simp only [Named.upd] | dsimp only | split
    | intro

theorem Named.marketRead (s : State) (c : Copy) (err : Option DataErr) (hk : RegsOnly rs s0 s)
    (r_fltRec : RegName.fltRec ∈ rs) (r_fltFirst : RegName.fltFirst ∈ rs) (r_fltCount0 : RegName.fltCount0 ∈ rs)
    (r_fltCount1 : RegName.fltCount1 ∈ rs) (r_fltCount2 : RegName.fltCount2 ∈ rs) (r_escCfg : RegName.escCfg ∈ rs)
    (r_mktStatus : RegName.mktStatus ∈ rs) (r_poolFree : RegName.poolFree ∈ rs) (r_mktCount0 : RegName.mktCount0 ∈ rs)
    (r_mktCount3 : RegName.mktCount3 ∈ rs) (r_mktCount4 : RegName.mktCount4 ∈ rs) (r_mktCount5 : RegName.mktCount5 ∈ rs)
    (r_mktCount6 : RegName.mktCount6 ∈ rs) (r_mktCount7 : RegName.mktCount7 ∈ rs) (r_partUsed : RegName.partUsed ∈ rs)
    (r_qcfgPitch : RegName.qcfgPitch ∈ rs) (r_qcfgOcc : RegName.qcfgOcc ∈ rs) (r_pfcState : RegName.pfcState ∈ rs)
    (r_ingUsed : RegName.ingUsed ∈ rs) (r_hdrmUsed : RegName.hdrmUsed ∈ rs) (r_bankStatus : RegName.bankStatus ∈ rs)
    (r_bankEcc : RegName.bankEcc ∈ rs) (r_stagingFree : RegName.stagingFree ∈ rs) (r_splCount : RegName.splCount ∈ rs)
    (r_stackStatus : RegName.stackStatus ∈ rs) (r_qspillStatus : RegName.qspillStatus ∈ rs) (r_talCount : RegName.talCount ∈ rs)
    (r_pmcCount : RegName.pmcCount ∈ rs) : RegsOnly rs s0 (marketRead s c err).1 := by
  unfold Sys2Proof.Machine.marketRead
  with_reducible repeat' first
    | assumption | apply Named.satF | apply Named.marketError | apply RegIn.bankEcc | simp only [Named.upd] | dsimp only
    | split | intro

theorem Named.execAuditSweep (s : State) (hk : RegsOnly rs s0 s) (r_auditStatus : RegName.auditStatus ∈ rs)
    : NamedO rs s0 (execAuditSweep s) := by
  unfold Sys2Proof.Machine.execAuditSweep
  with_reducible repeat' first
    | assumption | apply Named.setBit | apply RegIn.auditStatus | apply NamedO.next | simp only [Named.upd] | dsimp only
    | split | intro

theorem Named.reportLeak (s : State) (ua : Nat) (hk : RegsOnly rs s0 s) (r_fltRec : RegName.fltRec ∈ rs)
    (r_fltFirst : RegName.fltFirst ∈ rs) (r_fltCount0 : RegName.fltCount0 ∈ rs) (r_fltCount1 : RegName.fltCount1 ∈ rs)
    (r_fltCount2 : RegName.fltCount2 ∈ rs) (r_escCfg : RegName.escCfg ∈ rs) (r_mktStatus : RegName.mktStatus ∈ rs)
    (r_poolFree : RegName.poolFree ∈ rs) (r_auditLast : RegName.auditLast ∈ rs) (r_mktCount1 : RegName.mktCount1 ∈ rs)
    (r_mktCount2 : RegName.mktCount2 ∈ rs) (r_pmcCount : RegName.pmcCount ∈ rs) : RegsOnly rs s0 (reportLeak s ua) := by
  unfold Sys2Proof.Machine.reportLeak
  with_reducible repeat' first
    | assumption | apply Named.setReg64 | apply Named.fault | apply Named.add64 | apply Named.freeUnit
    | apply RegIn.auditLast | apply RegIn.auditLast4 | apply RegIn.mktCount1 | apply RegIn.mktCount14 | apply RegIn.mktCount2
    | apply RegIn.mktCount24 | simp only [Named.upd] | dsimp only | split | intro

theorem Named.execAuditSweepEnd (s : State) (hk : RegsOnly rs s0 s) (r_fltRec : RegName.fltRec ∈ rs)
    (r_fltFirst : RegName.fltFirst ∈ rs) (r_fltCount0 : RegName.fltCount0 ∈ rs) (r_fltCount1 : RegName.fltCount1 ∈ rs)
    (r_fltCount2 : RegName.fltCount2 ∈ rs) (r_escCfg : RegName.escCfg ∈ rs) (r_mktStatus : RegName.mktStatus ∈ rs)
    (r_poolFree : RegName.poolFree ∈ rs) (r_auditStatus : RegName.auditStatus ∈ rs) (r_auditLast : RegName.auditLast ∈ rs)
    (r_mktCount1 : RegName.mktCount1 ∈ rs) (r_mktCount2 : RegName.mktCount2 ∈ rs) (r_pmcCount : RegName.pmcCount ∈ rs)
    : NamedO rs s0 (execAuditSweepEnd s) := by
  unfold Sys2Proof.Machine.execAuditSweepEnd
  with_reducible repeat' first
    | assumption | apply Named.forEach | apply Named.reportLeak | apply Named.setReg | apply RegIn.auditStatus
    | apply NamedO.next | simp only [Named.upd] | dsimp only | split | intro

theorem Named.clearBuf (s : State) (ua n : Nat) (hk : RegsOnly rs s0 s) : RegsOnly rs s0 (clearBuf s ua n) := by
  unfold Sys2Proof.Machine.clearBuf
  with_reducible repeat' first
    | assumption | simp only [Named.upd] | dsimp only | split | intro

theorem Named.doBufAlloc (c : HostCmd) (s : State) (hk : RegsOnly rs s0 s) (r_orphanCtrl : RegName.orphanCtrl ∈ rs)
    (r_orphanLog : RegName.orphanLog ∈ rs) (r_fltCount2 : RegName.fltCount2 ∈ rs) (r_escCfg : RegName.escCfg ∈ rs)
    (r_mktStatus : RegName.mktStatus ∈ rs) (r_poolFree : RegName.poolFree ∈ rs) (r_mktCount3 : RegName.mktCount3 ∈ rs)
    (r_partUsed : RegName.partUsed ∈ rs) (r_pmcCount : RegName.pmcCount ∈ rs) : RegsOnly rs s0 (doBufAlloc c s) := by
  unfold Sys2Proof.Machine.doBufAlloc
  with_reducible repeat' first
    | assumption | apply Named.complete | apply Named.requestUnit | apply Named.setReg64 | apply Named.clearBuf
    | apply Named.addHostUsed | apply Named.drawn | apply RegIn.mktCount3 | apply RegIn.mktCount34 | simp only [Named.upd]
    | dsimp only | split | intro

theorem Named.execBufAlloc (cmd : HostCmd) (s : State) (hk : RegsOnly rs s0 s) (r_orphanCtrl : RegName.orphanCtrl ∈ rs)
    (r_orphanLog : RegName.orphanLog ∈ rs) (r_fltCount2 : RegName.fltCount2 ∈ rs) (r_escCfg : RegName.escCfg ∈ rs)
    (r_mktStatus : RegName.mktStatus ∈ rs) (r_poolFree : RegName.poolFree ∈ rs) (r_mktCount3 : RegName.mktCount3 ∈ rs)
    (r_partUsed : RegName.partUsed ∈ rs) (r_pmcCount : RegName.pmcCount ∈ rs) : NamedO rs s0 (execBufAlloc cmd s) := by
  unfold Sys2Proof.Machine.execBufAlloc
  with_reducible repeat' first
    | assumption | apply Named.runCmd | apply Named.doBufAlloc | apply NamedO.next | simp only [Named.upd] | dsimp only
    | split | intro

theorem Named.checkHandle (s : State) (ua : Nat) (hk : RegsOnly rs s0 s) (r_fltRec : RegName.fltRec ∈ rs)
    (r_fltFirst : RegName.fltFirst ∈ rs) (r_fltCount0 : RegName.fltCount0 ∈ rs) (r_fltCount1 : RegName.fltCount1 ∈ rs)
    (r_fltCount2 : RegName.fltCount2 ∈ rs) (r_escCfg : RegName.escCfg ∈ rs) (r_mktCount0 : RegName.mktCount0 ∈ rs)
    : RegsOnly rs s0 (checkHandle s ua).1 := by
  unfold Sys2Proof.Machine.checkHandle
  with_reducible repeat' first
    | assumption | apply Named.freeRefused | simp only [Named.upd] | dsimp only | split | intro

theorem Named.unmapBuf (s : State) (ua : Nat) (hk : RegsOnly rs s0 s) (r_partUsed : RegName.partUsed ∈ rs)
    : RegsOnly rs s0 (unmapBuf s ua) := by
  unfold Sys2Proof.Machine.unmapBuf
  with_reducible repeat' first
    | assumption | apply Named.addHostUsed | simp only [Named.upd] | dsimp only | split | intro

theorem Named.doBufFree (c : HostCmd) (s : State) (hk : RegsOnly rs s0 s) (r_orphanCtrl : RegName.orphanCtrl ∈ rs)
    (r_orphanLog : RegName.orphanLog ∈ rs) (r_fltRec : RegName.fltRec ∈ rs) (r_fltFirst : RegName.fltFirst ∈ rs)
    (r_fltCount0 : RegName.fltCount0 ∈ rs) (r_fltCount1 : RegName.fltCount1 ∈ rs) (r_fltCount2 : RegName.fltCount2 ∈ rs)
    (r_escCfg : RegName.escCfg ∈ rs) (r_mktStatus : RegName.mktStatus ∈ rs) (r_poolFree : RegName.poolFree ∈ rs)
    (r_mktCount0 : RegName.mktCount0 ∈ rs) (r_partUsed : RegName.partUsed ∈ rs) (r_pmcCount : RegName.pmcCount ∈ rs)
    : RegsOnly rs s0 (doBufFree c s) := by
  unfold Sys2Proof.Machine.doBufFree
  with_reducible repeat' first
    | assumption | apply Named.checkHandle | apply Named.complete | apply Named.freeUnit | apply Named.unmapBuf
    | simp only [Named.upd] | dsimp only | split | intro

theorem Named.execBufFree (cmd : HostCmd) (s : State) (hk : RegsOnly rs s0 s) (r_orphanCtrl : RegName.orphanCtrl ∈ rs)
    (r_orphanLog : RegName.orphanLog ∈ rs) (r_fltRec : RegName.fltRec ∈ rs) (r_fltFirst : RegName.fltFirst ∈ rs)
    (r_fltCount0 : RegName.fltCount0 ∈ rs) (r_fltCount1 : RegName.fltCount1 ∈ rs) (r_fltCount2 : RegName.fltCount2 ∈ rs)
    (r_escCfg : RegName.escCfg ∈ rs) (r_mktStatus : RegName.mktStatus ∈ rs) (r_poolFree : RegName.poolFree ∈ rs)
    (r_mktCount0 : RegName.mktCount0 ∈ rs) (r_partUsed : RegName.partUsed ∈ rs) (r_pmcCount : RegName.pmcCount ∈ rs)
    : NamedO rs s0 (execBufFree cmd s) := by
  unfold Sys2Proof.Machine.execBufFree
  with_reducible repeat' first
    | assumption | apply Named.runCmd | apply Named.doBufFree | apply NamedO.next | simp only [Named.upd] | dsimp only
    | split | intro

theorem Named.takeId (s : State) (hk : RegsOnly rs s0 s) : RegsOnly rs s0 (takeId s) := by
  unfold Sys2Proof.Machine.takeId
  with_reducible repeat' first
    | assumption | simp only [Named.upd] | dsimp only | split | intro

theorem Named.sendIngress (c : HostCmd) (s : State) (hk : RegsOnly rs s0 s) : RegsOnly rs s0 (sendIngress c s) := by
  unfold Sys2Proof.Machine.sendIngress
  with_reducible repeat' first
    | assumption | apply Named.setPhase | apply Named.takeId | simp only [Named.upd] | dsimp only | split | intro

theorem Named.admitUnit (s : State) (p : Packet) (c : Copy) (ua : Nat) (hk : RegsOnly rs s0 s)
    (r_fltCount2 : RegName.fltCount2 ∈ rs) (r_escCfg : RegName.escCfg ∈ rs) (r_mktStatus : RegName.mktStatus ∈ rs)
    (r_poolFree : RegName.poolFree ∈ rs) (r_mktCount3 : RegName.mktCount3 ∈ rs) (r_mktCount4 : RegName.mktCount4 ∈ rs)
    (r_mktCount5 : RegName.mktCount5 ∈ rs) (r_mktCount6 : RegName.mktCount6 ∈ rs) (r_partUsed : RegName.partUsed ∈ rs)
    (r_qcfgPitch : RegName.qcfgPitch ∈ rs) (r_qcfgOcc : RegName.qcfgOcc ∈ rs) (r_pfcState : RegName.pfcState ∈ rs)
    (r_ingUsed : RegName.ingUsed ∈ rs) (r_hdrmUsed : RegName.hdrmUsed ∈ rs) (r_stagingFree : RegName.stagingFree ∈ rs)
    (r_splCount : RegName.splCount ∈ rs) (r_stackStatus : RegName.stackStatus ∈ rs) (r_qspillStatus : RegName.qspillStatus ∈ rs)
    (r_talCount : RegName.talCount ∈ rs) (r_pmcCount : RegName.pmcCount ∈ rs) : RegsOnly rs s0 (admitUnit s p c ua) := by
  unfold Sys2Proof.Machine.admitUnit
  with_reducible repeat' first
    | assumption | apply Named.notePitch | apply Named.freeUnit | apply Named.dropPacket | apply Named.unmapBuf
    | apply Named.ecnApply | apply Named.spillStep | apply Named.ecnCount | apply Named.enqueueCopies | simp only [Named.upd]
    | dsimp only | split | intro

theorem Named.sendEgress (c : HostCmd) (s : State) (hk : RegsOnly rs s0 s) (r_orphanCtrl : RegName.orphanCtrl ∈ rs)
    (r_orphanLog : RegName.orphanLog ∈ rs) (r_fltCount2 : RegName.fltCount2 ∈ rs) (r_escCfg : RegName.escCfg ∈ rs)
    (r_mktStatus : RegName.mktStatus ∈ rs) (r_poolFree : RegName.poolFree ∈ rs) (r_mktCount3 : RegName.mktCount3 ∈ rs)
    (r_mktCount4 : RegName.mktCount4 ∈ rs) (r_mktCount5 : RegName.mktCount5 ∈ rs) (r_mktCount6 : RegName.mktCount6 ∈ rs)
    (r_partUsed : RegName.partUsed ∈ rs) (r_qcfgPitch : RegName.qcfgPitch ∈ rs) (r_qcfgOcc : RegName.qcfgOcc ∈ rs)
    (r_pfcState : RegName.pfcState ∈ rs) (r_ingUsed : RegName.ingUsed ∈ rs) (r_hdrmUsed : RegName.hdrmUsed ∈ rs)
    (r_stagingFree : RegName.stagingFree ∈ rs) (r_splCount : RegName.splCount ∈ rs) (r_stackStatus : RegName.stackStatus ∈ rs)
    (r_qspillStatus : RegName.qspillStatus ∈ rs) (r_talCount : RegName.talCount ∈ rs) (r_pmcCount : RegName.pmcCount ∈ rs)
    : RegsOnly rs s0 (sendEgress c s) := by
  unfold Sys2Proof.Machine.sendEgress
  with_reducible repeat' first
    | assumption | apply Named.takeId | apply Named.admitUnit | apply Named.freeUnit | apply Named.dropPacket
    | apply Named.unmapBuf | apply Named.complete | simp only [Named.upd] | dsimp only | split | intro

theorem Named.doBufSend (c : HostCmd) (s : State) (hk : RegsOnly rs s0 s) (r_orphanCtrl : RegName.orphanCtrl ∈ rs)
    (r_orphanLog : RegName.orphanLog ∈ rs) (r_fltRec : RegName.fltRec ∈ rs) (r_fltFirst : RegName.fltFirst ∈ rs)
    (r_fltCount0 : RegName.fltCount0 ∈ rs) (r_fltCount1 : RegName.fltCount1 ∈ rs) (r_fltCount2 : RegName.fltCount2 ∈ rs)
    (r_escCfg : RegName.escCfg ∈ rs) (r_mktStatus : RegName.mktStatus ∈ rs) (r_poolFree : RegName.poolFree ∈ rs)
    (r_mktCount0 : RegName.mktCount0 ∈ rs) (r_mktCount3 : RegName.mktCount3 ∈ rs) (r_mktCount4 : RegName.mktCount4 ∈ rs)
    (r_mktCount5 : RegName.mktCount5 ∈ rs) (r_mktCount6 : RegName.mktCount6 ∈ rs) (r_partUsed : RegName.partUsed ∈ rs)
    (r_qcfgPitch : RegName.qcfgPitch ∈ rs) (r_qcfgOcc : RegName.qcfgOcc ∈ rs) (r_pfcState : RegName.pfcState ∈ rs)
    (r_ingUsed : RegName.ingUsed ∈ rs) (r_hdrmUsed : RegName.hdrmUsed ∈ rs) (r_stagingFree : RegName.stagingFree ∈ rs)
    (r_splCount : RegName.splCount ∈ rs) (r_stackStatus : RegName.stackStatus ∈ rs) (r_qspillStatus : RegName.qspillStatus ∈ rs)
    (r_talCount : RegName.talCount ∈ rs) (r_pmcCount : RegName.pmcCount ∈ rs) : RegsOnly rs s0 (doBufSend c s) := by
  unfold Sys2Proof.Machine.doBufSend
  with_reducible repeat' first
    | assumption | apply Named.checkHandle | apply Named.complete | apply Named.sendEgress | apply Named.sendIngress
    | simp only [Named.upd] | dsimp only | split | intro

theorem Named.execBufSendIngress (cmd : HostCmd) (s : State) (hk : RegsOnly rs s0 s) (r_orphanCtrl : RegName.orphanCtrl ∈ rs)
    (r_orphanLog : RegName.orphanLog ∈ rs) (r_fltRec : RegName.fltRec ∈ rs) (r_fltFirst : RegName.fltFirst ∈ rs)
    (r_fltCount0 : RegName.fltCount0 ∈ rs) (r_fltCount1 : RegName.fltCount1 ∈ rs) (r_fltCount2 : RegName.fltCount2 ∈ rs)
    (r_escCfg : RegName.escCfg ∈ rs) (r_mktStatus : RegName.mktStatus ∈ rs) (r_poolFree : RegName.poolFree ∈ rs)
    (r_mktCount0 : RegName.mktCount0 ∈ rs) (r_mktCount3 : RegName.mktCount3 ∈ rs) (r_mktCount4 : RegName.mktCount4 ∈ rs)
    (r_mktCount5 : RegName.mktCount5 ∈ rs) (r_mktCount6 : RegName.mktCount6 ∈ rs) (r_partUsed : RegName.partUsed ∈ rs)
    (r_qcfgPitch : RegName.qcfgPitch ∈ rs) (r_qcfgOcc : RegName.qcfgOcc ∈ rs) (r_pfcState : RegName.pfcState ∈ rs)
    (r_ingUsed : RegName.ingUsed ∈ rs) (r_hdrmUsed : RegName.hdrmUsed ∈ rs) (r_stagingFree : RegName.stagingFree ∈ rs)
    (r_splCount : RegName.splCount ∈ rs) (r_stackStatus : RegName.stackStatus ∈ rs) (r_qspillStatus : RegName.qspillStatus ∈ rs)
    (r_talCount : RegName.talCount ∈ rs) (r_pmcCount : RegName.pmcCount ∈ rs) : NamedO rs s0 (execBufSendIngress cmd s) := by
  unfold Sys2Proof.Machine.execBufSendIngress
  with_reducible repeat' first
    | assumption | apply Named.runCmd | apply Named.doBufSend | apply NamedO.next | simp only [Named.upd] | dsimp only
    | split | intro

theorem Named.execBufSendEgress (cmd : HostCmd) (s : State) (hk : RegsOnly rs s0 s) (r_orphanCtrl : RegName.orphanCtrl ∈ rs)
    (r_orphanLog : RegName.orphanLog ∈ rs) (r_fltRec : RegName.fltRec ∈ rs) (r_fltFirst : RegName.fltFirst ∈ rs)
    (r_fltCount0 : RegName.fltCount0 ∈ rs) (r_fltCount1 : RegName.fltCount1 ∈ rs) (r_fltCount2 : RegName.fltCount2 ∈ rs)
    (r_escCfg : RegName.escCfg ∈ rs) (r_mktStatus : RegName.mktStatus ∈ rs) (r_poolFree : RegName.poolFree ∈ rs)
    (r_mktCount0 : RegName.mktCount0 ∈ rs) (r_mktCount3 : RegName.mktCount3 ∈ rs) (r_mktCount4 : RegName.mktCount4 ∈ rs)
    (r_mktCount5 : RegName.mktCount5 ∈ rs) (r_mktCount6 : RegName.mktCount6 ∈ rs) (r_partUsed : RegName.partUsed ∈ rs)
    (r_qcfgPitch : RegName.qcfgPitch ∈ rs) (r_qcfgOcc : RegName.qcfgOcc ∈ rs) (r_pfcState : RegName.pfcState ∈ rs)
    (r_ingUsed : RegName.ingUsed ∈ rs) (r_hdrmUsed : RegName.hdrmUsed ∈ rs) (r_stagingFree : RegName.stagingFree ∈ rs)
    (r_splCount : RegName.splCount ∈ rs) (r_stackStatus : RegName.stackStatus ∈ rs) (r_qspillStatus : RegName.qspillStatus ∈ rs)
    (r_talCount : RegName.talCount ∈ rs) (r_pmcCount : RegName.pmcCount ∈ rs) : NamedO rs s0 (execBufSendEgress cmd s) := by
  unfold Sys2Proof.Machine.execBufSendEgress
  with_reducible repeat' first
    | assumption | apply Named.runCmd | apply Named.doBufSend | apply NamedO.next | simp only [Named.upd] | dsimp only
    | split | intro

theorem Named.schErr (s : State) (g bit : Nat) (hk : RegsOnly rs s0 s) (r_fltCount2 : RegName.fltCount2 ∈ rs)
    (r_escCfg : RegName.escCfg ∈ rs) (r_schErr : RegName.schErr ∈ rs) : RegsOnly rs s0 (schErr s g bit) := by
  unfold Sys2Proof.Machine.schErr
  with_reducible repeat' first
    | assumption | apply Named.raise | apply Named.setBit | apply RegIn.schErr | simp only [Named.upd] | dsimp only | split
    | intro

theorem Named.execPortQWrite (lane : Nat) (value : Word) (s : State) (hk : RegsOnly rs s0 s)
    (r_fltCount2 : RegName.fltCount2 ∈ rs) (r_escCfg : RegName.escCfg ∈ rs) (r_schErr : RegName.schErr ∈ rs)
    (r_portQ : RegName.portQ ∈ rs) : NamedO rs s0 (execPortQWrite lane value s) := by
  unfold Sys2Proof.Machine.execPortQWrite
  with_reducible repeat' first
    | assumption | apply Named.holdWrite | apply Named.whenB | apply Named.schErr | apply Named.setReg | apply RegIn.portQ
    | apply NamedO.next | simp only [Named.upd] | dsimp only | split | intro

theorem Named.setPort (s : State) (l : Nat) (x : PortSt) (hk : RegsOnly rs s0 s) : RegsOnly rs s0 (setPort s l x) := by
  unfold Sys2Proof.Machine.setPort
  with_reducible repeat' first
    | assumption | simp only [Named.upd] | dsimp only | split | intro

theorem Named.dropExpired (fuel : Nat) (s : State) (l q : Nat) (hk : RegsOnly rs s0 s)
    (r_fltRec : RegName.fltRec ∈ rs) (r_fltFirst : RegName.fltFirst ∈ rs) (r_fltCount0 : RegName.fltCount0 ∈ rs) (r_fltCount1 : RegName.fltCount1 ∈ rs) (r_fltCount2 : RegName.fltCount2 ∈ rs) (r_escCfg : RegName.escCfg ∈ rs) (r_mktStatus : RegName.mktStatus ∈ rs) (r_poolFree : RegName.poolFree ∈ rs) (r_mktCount0 : RegName.mktCount0 ∈ rs) (r_mktCount3 : RegName.mktCount3 ∈ rs) (r_mktCount4 : RegName.mktCount4 ∈ rs) (r_mktCount5 : RegName.mktCount5 ∈ rs) (r_mktCount6 : RegName.mktCount6 ∈ rs) (r_partUsed : RegName.partUsed ∈ rs) (r_qcfgPitch : RegName.qcfgPitch ∈ rs) (r_qcfgOcc : RegName.qcfgOcc ∈ rs) (r_pfcState : RegName.pfcState ∈ rs) (r_ingUsed : RegName.ingUsed ∈ rs) (r_hdrmUsed : RegName.hdrmUsed ∈ rs) (r_stagingFree : RegName.stagingFree ∈ rs) (r_splCount : RegName.splCount ∈ rs) (r_stackStatus : RegName.stackStatus ∈ rs) (r_qspillStatus : RegName.qspillStatus ∈ rs) (r_winErr : RegName.winErr ∈ rs) (r_winDrops : RegName.winDrops ∈ rs) (r_talCount : RegName.talCount ∈ rs) (r_pmcCount : RegName.pmcCount ∈ rs) :
    RegsOnly rs s0 (dropExpired fuel s l q) := by
  induction fuel generalizing s with
  | zero => exact hk
  | succ f ih =>
    unfold Sys2Proof.Machine.dropExpired
    with_reducible repeat' first
      | assumption | apply RegIn.winErr | apply RegIn.winDrops | apply RegIn.winDrops4 | apply ih | apply Named.raiseLimited | apply Named.setBit | apply Named.add64 | apply Named.dropQueued | apply Named.setQueue | dsimp only | split | intro

theorem Named.expireGroup (s : State) (g : Nat) (hk : RegsOnly rs s0 s) (r_fltRec : RegName.fltRec ∈ rs)
    (r_fltFirst : RegName.fltFirst ∈ rs) (r_fltCount0 : RegName.fltCount0 ∈ rs) (r_fltCount1 : RegName.fltCount1 ∈ rs)
    (r_fltCount2 : RegName.fltCount2 ∈ rs) (r_escCfg : RegName.escCfg ∈ rs) (r_mktStatus : RegName.mktStatus ∈ rs)
    (r_poolFree : RegName.poolFree ∈ rs) (r_mktCount0 : RegName.mktCount0 ∈ rs) (r_mktCount3 : RegName.mktCount3 ∈ rs)
    (r_mktCount4 : RegName.mktCount4 ∈ rs) (r_mktCount5 : RegName.mktCount5 ∈ rs) (r_mktCount6 : RegName.mktCount6 ∈ rs)
    (r_partUsed : RegName.partUsed ∈ rs) (r_qcfgPitch : RegName.qcfgPitch ∈ rs) (r_qcfgOcc : RegName.qcfgOcc ∈ rs)
    (r_pfcState : RegName.pfcState ∈ rs) (r_ingUsed : RegName.ingUsed ∈ rs) (r_hdrmUsed : RegName.hdrmUsed ∈ rs)
    (r_stagingFree : RegName.stagingFree ∈ rs) (r_splCount : RegName.splCount ∈ rs) (r_stackStatus : RegName.stackStatus ∈ rs)
    (r_qspillStatus : RegName.qspillStatus ∈ rs) (r_winErr : RegName.winErr ∈ rs) (r_winDrops : RegName.winDrops ∈ rs)
    (r_talCount : RegName.talCount ∈ rs) (r_pmcCount : RegName.pmcCount ∈ rs) : RegsOnly rs s0 (expireGroup s g) := by
  unfold Sys2Proof.Machine.expireGroup
  with_reducible repeat' first
    | assumption | apply Named.forEach | apply Named.dropExpired | simp only [Named.upd] | dsimp only | split | intro

theorem Named.chargeBuckets (s : State) (l q : Nat) (len : Int) (hk : RegsOnly rs s0 s)
    : RegsOnly rs s0 (chargeBuckets s l q len) := by
  unfold Sys2Proof.Machine.chargeBuckets
  with_reducible repeat' first
    | assumption | simp only [Named.upd] | dsimp only | split | intro

theorem Named.dropDequeued (s : State) (c : Copy) (reason : Nat) (hk : RegsOnly rs s0 s) (r_fltRec : RegName.fltRec ∈ rs)
    (r_fltFirst : RegName.fltFirst ∈ rs) (r_fltCount0 : RegName.fltCount0 ∈ rs) (r_fltCount1 : RegName.fltCount1 ∈ rs)
    (r_fltCount2 : RegName.fltCount2 ∈ rs) (r_escCfg : RegName.escCfg ∈ rs) (r_mktStatus : RegName.mktStatus ∈ rs)
    (r_poolFree : RegName.poolFree ∈ rs) (r_mktCount0 : RegName.mktCount0 ∈ rs) (r_mktCount3 : RegName.mktCount3 ∈ rs)
    (r_mktCount4 : RegName.mktCount4 ∈ rs) (r_mktCount5 : RegName.mktCount5 ∈ rs) (r_mktCount6 : RegName.mktCount6 ∈ rs)
    (r_partUsed : RegName.partUsed ∈ rs) (r_qcfgPitch : RegName.qcfgPitch ∈ rs) (r_qcfgOcc : RegName.qcfgOcc ∈ rs)
    (r_pfcState : RegName.pfcState ∈ rs) (r_ingUsed : RegName.ingUsed ∈ rs) (r_hdrmUsed : RegName.hdrmUsed ∈ rs)
    (r_stagingFree : RegName.stagingFree ∈ rs) (r_splCount : RegName.splCount ∈ rs) (r_stackStatus : RegName.stackStatus ∈ rs)
    (r_qspillStatus : RegName.qspillStatus ∈ rs) (r_talCount : RegName.talCount ∈ rs) (r_pmcCount : RegName.pmcCount ∈ rs)
    : RegsOnly rs s0 (dropDequeued s c reason) := by
  unfold Sys2Proof.Machine.dropDequeued
  with_reducible repeat' first
    | assumption | apply Named.dropQueued | simp only [Named.upd] | dsimp only | split | intro

theorem Named.dequeueSched (s : State) (g l q pass : Nat) (deficits : Store Int) (c : Copy) (hk : RegsOnly rs s0 s)
    : RegsOnly rs s0 (dequeueSched s g l q pass deficits c) := by
  unfold Sys2Proof.Machine.dequeueSched
  with_reducible repeat' first
    | assumption | simp only [Named.upd] | dsimp only | split | intro

theorem Named.dequeueHead
    (s : State) (g l q pass : Nat) (deficits : Store Int) (c : Copy) (rest : List Copy) (err : Option DataErr)
    (hk : RegsOnly rs s0 s) (r_fltRec : RegName.fltRec ∈ rs) (r_fltFirst : RegName.fltFirst ∈ rs)
    (r_fltCount0 : RegName.fltCount0 ∈ rs) (r_fltCount1 : RegName.fltCount1 ∈ rs) (r_fltCount2 : RegName.fltCount2 ∈ rs)
    (r_escCfg : RegName.escCfg ∈ rs) (r_mktStatus : RegName.mktStatus ∈ rs) (r_poolFree : RegName.poolFree ∈ rs)
    (r_mktCount0 : RegName.mktCount0 ∈ rs) (r_mktCount3 : RegName.mktCount3 ∈ rs) (r_mktCount4 : RegName.mktCount4 ∈ rs)
    (r_mktCount5 : RegName.mktCount5 ∈ rs) (r_mktCount6 : RegName.mktCount6 ∈ rs) (r_mktCount7 : RegName.mktCount7 ∈ rs)
    (r_partUsed : RegName.partUsed ∈ rs) (r_qcfgPitch : RegName.qcfgPitch ∈ rs) (r_qcfgOcc : RegName.qcfgOcc ∈ rs)
    (r_pfcState : RegName.pfcState ∈ rs) (r_ingUsed : RegName.ingUsed ∈ rs) (r_hdrmUsed : RegName.hdrmUsed ∈ rs)
    (r_bankStatus : RegName.bankStatus ∈ rs) (r_bankEcc : RegName.bankEcc ∈ rs) (r_stagingFree : RegName.stagingFree ∈ rs)
    (r_splCount : RegName.splCount ∈ rs) (r_stackStatus : RegName.stackStatus ∈ rs) (r_qspillStatus : RegName.qspillStatus ∈ rs)
    (r_talCount : RegName.talCount ∈ rs) (r_pmcCount : RegName.pmcCount ∈ rs)
    : RegsOnly rs s0 (dequeueHead s g l q pass deficits c rest err) := by
  unfold Sys2Proof.Machine.dequeueHead
  with_reducible repeat' first
    | assumption | apply Named.chargeBuckets | apply Named.setQueue | apply Named.dequeueSched | apply Named.marketRead
    | apply Named.noteShare | apply Named.pmcEvent | apply Named.dropDequeued | apply Named.passOn | simp only [Named.upd]
    | dsimp only | split | intro

theorem Named.execDequeueDecision (g : Nat) (err : Option DataErr) (s : State) (hk : RegsOnly rs s0 s)
    (r_fltRec : RegName.fltRec ∈ rs) (r_fltFirst : RegName.fltFirst ∈ rs) (r_fltCount0 : RegName.fltCount0 ∈ rs)
    (r_fltCount1 : RegName.fltCount1 ∈ rs) (r_fltCount2 : RegName.fltCount2 ∈ rs) (r_escCfg : RegName.escCfg ∈ rs)
    (r_mktStatus : RegName.mktStatus ∈ rs) (r_poolFree : RegName.poolFree ∈ rs) (r_mktCount0 : RegName.mktCount0 ∈ rs)
    (r_mktCount3 : RegName.mktCount3 ∈ rs) (r_mktCount4 : RegName.mktCount4 ∈ rs) (r_mktCount5 : RegName.mktCount5 ∈ rs)
    (r_mktCount6 : RegName.mktCount6 ∈ rs) (r_mktCount7 : RegName.mktCount7 ∈ rs) (r_partUsed : RegName.partUsed ∈ rs)
    (r_qcfgPitch : RegName.qcfgPitch ∈ rs) (r_qcfgOcc : RegName.qcfgOcc ∈ rs) (r_pfcState : RegName.pfcState ∈ rs)
    (r_ingUsed : RegName.ingUsed ∈ rs) (r_hdrmUsed : RegName.hdrmUsed ∈ rs) (r_bankStatus : RegName.bankStatus ∈ rs)
    (r_bankEcc : RegName.bankEcc ∈ rs) (r_stagingFree : RegName.stagingFree ∈ rs) (r_splCount : RegName.splCount ∈ rs)
    (r_stackStatus : RegName.stackStatus ∈ rs) (r_qspillStatus : RegName.qspillStatus ∈ rs) (r_winErr : RegName.winErr ∈ rs)
    (r_winDrops : RegName.winDrops ∈ rs) (r_talCount : RegName.talCount ∈ rs) (r_pmcCount : RegName.pmcCount ∈ rs)
    : NamedO rs s0 (execDequeueDecision g err s) := by
  unfold Sys2Proof.Machine.execDequeueDecision
  with_reducible repeat' first
    | assumption | apply Named.expireGroup | apply Named.dequeueHead | apply NamedO.next | simp only [Named.upd] | dsimp only
    | split | intro

theorem Named.execRefillBoundary (s : State) (hk : RegsOnly rs s0 s) (r_meterCtrl : RegName.meterCtrl ∈ rs)
    : NamedO rs s0 (execRefillBoundary s) := by
  unfold Sys2Proof.Machine.execRefillBoundary
  with_reducible repeat' first
    | assumption | apply Named.forEach | apply Named.setBit | apply Named.foldl | apply Named.foldl1 | apply RegIn.meterCtrl
    | apply NamedO.next | simp only [Named.upd] | dsimp only | split | intro

theorem Named.setPause (s : State) (l n until_ : Nat) (hk : RegsOnly rs s0 s) : RegsOnly rs s0 (setPause s l n until_) := by
  unfold Sys2Proof.Machine.setPause
  with_reducible repeat' first
    | assumption | simp only [Named.upd] | dsimp only | split | intro

theorem Named.execPfcFrameReceived (port : Nat) (enable : BitVec 8) (times : List Nat) (isPause : Bool) (s : State)
    (hk : RegsOnly rs s0 s) (r_pfcRx : RegName.pfcRx ∈ rs)
    : NamedO rs s0 (execPfcFrameReceived port enable times isPause s) := by
  unfold Sys2Proof.Machine.execPfcFrameReceived
  with_reducible repeat' first
    | assumption | apply Named.add64 | apply Named.forEach | apply Named.setPause | apply RegIn.pfcRx | apply RegIn.pfcRx4
    | apply NamedO.next | simp only [Named.upd] | dsimp only | split | intro

theorem Named.execPfcPauseExpiry (port prio : Nat) (s : State) (hk : RegsOnly rs s0 s)
    : NamedO rs s0 (execPfcPauseExpiry port prio s) := by
  unfold Sys2Proof.Machine.execPfcPauseExpiry
  with_reducible repeat' first
    | assumption | apply Named.setPause | apply NamedO.next | simp only [Named.upd] | dsimp only | split | intro

theorem Named.sendPfc (s : State) (l mask : Nat) (hk : RegsOnly rs s0 s) (r_pfcTx : RegName.pfcTx ∈ rs)
    : RegsOnly rs s0 (sendPfc s l mask) := by
  unfold Sys2Proof.Machine.sendPfc
  with_reducible repeat' first
    | assumption | apply Named.emit | apply Named.add64 | apply RegIn.pfcTx | apply RegIn.pfcTx4 | simp only [Named.upd]
    | dsimp only | split | intro

theorem Named.execPfcFrameSend (port : Nat) (s : State) (hk : RegsOnly rs s0 s) (r_pfcTx : RegName.pfcTx ∈ rs)
    : NamedO rs s0 (execPfcFrameSend port s) := by
  unfold Sys2Proof.Machine.execPfcFrameSend
  with_reducible repeat' first
    | assumption | apply Named.sendPfc | apply NamedO.next | simp only [Named.upd] | dsimp only | split | intro

theorem Named.execPfcRefresh (port prio : Nat) (s : State) (hk : RegsOnly rs s0 s) (r_pfcTx : RegName.pfcTx ∈ rs)
    : NamedO rs s0 (execPfcRefresh port prio s) := by
  unfold Sys2Proof.Machine.execPfcRefresh
  with_reducible repeat' first
    | assumption | apply Named.sendPfc | apply NamedO.next | simp only [Named.upd] | dsimp only | split | intro

theorem Named.clearPauses (s : State) (l : Nat) (hk : RegsOnly rs s0 s) : RegsOnly rs s0 (clearPauses s l) := by
  unfold Sys2Proof.Machine.clearPauses
  with_reducible repeat' first
    | assumption | apply Named.forEach | apply Named.setPause | simp only [Named.upd] | dsimp only | split | intro

theorem Named.selectHbm (s : State) (q : Nat) (hk : RegsOnly rs s0 s) : RegsOnly rs s0 (selectHbm s q) := by
  unfold Sys2Proof.Machine.selectHbm
  with_reducible repeat' first
    | assumption | apply Named.setSpq | simp only [Named.upd] | dsimp only | split | intro

theorem Named.execPfcWatchdogTrip (port prio : Nat) (s : State) (hk : RegsOnly rs s0 s) (r_fltRec : RegName.fltRec ∈ rs)
    (r_fltFirst : RegName.fltFirst ∈ rs) (r_fltCount0 : RegName.fltCount0 ∈ rs) (r_fltCount1 : RegName.fltCount1 ∈ rs)
    (r_fltCount2 : RegName.fltCount2 ∈ rs) (r_escCfg : RegName.escCfg ∈ rs) (r_mktStatus : RegName.mktStatus ∈ rs)
    (r_poolFree : RegName.poolFree ∈ rs) (r_mktCount0 : RegName.mktCount0 ∈ rs) (r_mktCount3 : RegName.mktCount3 ∈ rs)
    (r_mktCount4 : RegName.mktCount4 ∈ rs) (r_mktCount5 : RegName.mktCount5 ∈ rs) (r_mktCount6 : RegName.mktCount6 ∈ rs)
    (r_partUsed : RegName.partUsed ∈ rs) (r_qcfgPitch : RegName.qcfgPitch ∈ rs) (r_qcfgOcc : RegName.qcfgOcc ∈ rs)
    (r_pfcState : RegName.pfcState ∈ rs) (r_ingUsed : RegName.ingUsed ∈ rs) (r_hdrmUsed : RegName.hdrmUsed ∈ rs)
    (r_stagingFree : RegName.stagingFree ∈ rs) (r_splCount : RegName.splCount ∈ rs) (r_stackStatus : RegName.stackStatus ∈ rs)
    (r_qspillStatus : RegName.qspillStatus ∈ rs) (r_pfcTrips : RegName.pfcTrips ∈ rs) (r_talCount : RegName.talCount ∈ rs)
    (r_pmcCount : RegName.pmcCount ∈ rs) : NamedO rs s0 (execPfcWatchdogTrip port prio s) := by
  unfold Sys2Proof.Machine.execPfcWatchdogTrip
  with_reducible repeat' first
    | assumption | apply Named.setPause | apply Named.forEach | apply Named.dropQueued | apply Named.setQueue
    | apply Named.whenB | apply Named.selectHbm | apply Named.raise | apply Named.add64 | apply RegIn.pfcTrips
    | apply RegIn.pfcTrips4 | apply NamedO.next | simp only [Named.upd] | dsimp only | split | intro

theorem Named.execPfcWatchdogHoldEnd (port prio : Nat) (s : State) (hk : RegsOnly rs s0 s)
    (r_fltCount2 : RegName.fltCount2 ∈ rs) (r_escCfg : RegName.escCfg ∈ rs)
    : NamedO rs s0 (execPfcWatchdogHoldEnd port prio s) := by
  unfold Sys2Proof.Machine.execPfcWatchdogHoldEnd
  with_reducible repeat' first
    | assumption | apply Named.setPause | apply Named.raise | apply NamedO.next | simp only [Named.upd] | dsimp only | split
    | intro

theorem Named.execRxFrameDma (n : Nat) (entry : List Byte) (err : Option DataErr) (s : State) (hk : RegsOnly rs s0 s)
    (r_ringCfg : RegName.ringCfg ∈ rs) (r_ringHead : RegName.ringHead ∈ rs) (r_fltRec : RegName.fltRec ∈ rs)
    (r_fltFirst : RegName.fltFirst ∈ rs) (r_fltCount0 : RegName.fltCount0 ∈ rs) (r_fltCount1 : RegName.fltCount1 ∈ rs)
    (r_fltCount2 : RegName.fltCount2 ∈ rs) (r_escCfg : RegName.escCfg ∈ rs) (r_tsMissed : RegName.tsMissed ∈ rs)
    (r_mktStatus : RegName.mktStatus ∈ rs) (r_poolFree : RegName.poolFree ∈ rs) (r_mktCount0 : RegName.mktCount0 ∈ rs)
    (r_mktCount3 : RegName.mktCount3 ∈ rs) (r_mktCount4 : RegName.mktCount4 ∈ rs) (r_mktCount5 : RegName.mktCount5 ∈ rs)
    (r_mktCount6 : RegName.mktCount6 ∈ rs) (r_mktCount7 : RegName.mktCount7 ∈ rs) (r_partUsed : RegName.partUsed ∈ rs)
    (r_qcfgPitch : RegName.qcfgPitch ∈ rs) (r_qcfgOcc : RegName.qcfgOcc ∈ rs) (r_pfcState : RegName.pfcState ∈ rs)
    (r_ingUsed : RegName.ingUsed ∈ rs) (r_hdrmUsed : RegName.hdrmUsed ∈ rs) (r_bankStatus : RegName.bankStatus ∈ rs)
    (r_bankEcc : RegName.bankEcc ∈ rs) (r_stagingFree : RegName.stagingFree ∈ rs) (r_splCount : RegName.splCount ∈ rs)
    (r_stackStatus : RegName.stackStatus ∈ rs) (r_qspillStatus : RegName.qspillStatus ∈ rs) (r_talCount : RegName.talCount ∈ rs)
    (r_pmcCount : RegName.pmcCount ∈ rs) : NamedO rs s0 (execRxFrameDma n entry err s) := by
  unfold Sys2Proof.Machine.execRxFrameDma
  with_reducible repeat' first
    | assumption | apply Named.emit | apply Named.ringStop | apply Named.marketRead | apply Named.setQueue
    | apply Named.dropQueued | apply Named.hostWrite | apply Named.setReg | apply Named.raise | apply Named.releaseCopy
    | apply RegIn.ringHead | apply NamedO.next | simp only [Named.upd] | dsimp only | split | intro

end Sys2Proof.Laws
end

