-- ==== Sys2Proof/Laws/NamedPipes.lean ====
section
/-!
SUPPORT. One lemma for each operation of Tables, Clerk, Parse, Arrive, Flags, Operands, Stall, Editor, Tails: it writes no register but those it names (`RegsOnly`).
-/
namespace Sys2Proof.Laws

open Sys2Proof.Machine

variable {rs : List RegName} {s0 : State}

theorem Named.setEntries (s : State) (t : Nat) (l : List Entry) (hk : RegsOnly rs s0 s) (r_desc : RegName.desc ∈ rs)
    : RegsOnly rs s0 (setEntries s t l) := by
  unfold Sys2Proof.Machine.setEntries
  with_reducible repeat' first
    | assumption | apply Named.setReg | apply RegIn.desc | simp only [Named.upd] | dsimp only | split | intro

theorem Named.modEntry (s : State) (t h : Nat) (f : Entry → Entry) (hk : RegsOnly rs s0 s) (r_desc : RegName.desc ∈ rs)
    : RegsOnly rs s0 (modEntry s t h f) := by
  unfold Sys2Proof.Machine.modEntry
  with_reducible repeat' first
    | assumption | apply Named.setEntries | simp only [Named.upd] | dsimp only | split | intro

theorem Named.delEntry (s : State) (t h : Nat) (hk : RegsOnly rs s0 s) (r_desc : RegName.desc ∈ rs)
    : RegsOnly rs s0 (delEntry s t h) := by
  unfold Sys2Proof.Machine.delEntry
  with_reducible repeat' first
    | assumption | apply Named.setEntries | simp only [Named.upd] | dsimp only | split | intro

theorem Named.addEntry (s : State) (t : Nat) (e : Entry) (hk : RegsOnly rs s0 s) (r_desc : RegName.desc ∈ rs)
    : RegsOnly rs s0 (addEntry s t e) := by
  unfold Sys2Proof.Machine.addEntry
  with_reducible repeat' first
    | assumption | apply Named.setEntries | simp only [Named.upd] | dsimp only | split | intro

theorem Named.logChange (s : State) (t : Nat) (e : Entry) (handles : List Nat) (hk : RegsOnly rs s0 s)
    : RegsOnly rs s0 (logChange s t e handles) := by
  unfold Sys2Proof.Machine.logChange
  with_reducible repeat' first
    | assumption | apply Named.setDom | simp only [Named.upd] | dsimp only | split | intro

theorem Named.clerkCount (s : State) (k : Nat) (hk : RegsOnly rs s0 s) (r_clerkCount : RegName.clerkCount ∈ rs)
    : RegsOnly rs s0 (clerkCount s k) := by
  unfold Sys2Proof.Machine.clerkCount
  with_reducible repeat' first
    | assumption | apply Named.add64 | apply RegIn.clerkCount | apply RegIn.clerkCount4 | simp only [Named.upd] | dsimp only
    | split | intro

theorem Named.learnLoss (s : State) (k : Nat) (hk : RegsOnly rs s0 s) (r_fltCount2 : RegName.fltCount2 ∈ rs)
    (r_escCfg : RegName.escCfg ∈ rs) (r_clerkCount : RegName.clerkCount ∈ rs) : RegsOnly rs s0 (learnLoss s k) := by
  unfold Sys2Proof.Machine.learnLoss
  with_reducible repeat' first
    | assumption | apply Named.raiseLimited | apply Named.clerkCount | simp only [Named.upd] | dsimp only | split | intro

theorem Named.tblInsertAt (s : State) (c : HostCmd) (t : Nat) (k : TblKey) (hk : RegsOnly rs s0 s)
    (r_desc : RegName.desc ∈ rs) : RegsOnly rs s0 (tblInsertAt s c t k).1 := by
  unfold Sys2Proof.Machine.tblInsertAt
  with_reducible repeat' first
    | assumption | apply Named.drawn | apply Named.addEntry | apply Named.logChange | simp only [Named.upd] | dsimp only
    | split | intro

theorem Named.tblUpdateAt (s : State) (c : HostCmd) (t : Nat) (k : TblKey) (hk : RegsOnly rs s0 s)
    (r_desc : RegName.desc ∈ rs) : RegsOnly rs s0 (tblUpdateAt s c t k).1 := by
  unfold Sys2Proof.Machine.tblUpdateAt
  with_reducible repeat' first
    | assumption | apply Named.modEntry | apply Named.drawn | apply Named.logChange | apply Named.addEntry
    | simp only [Named.upd] | dsimp only | split | intro

theorem Named.tblDeleteAt (s : State) (c : HostCmd) (t : Nat) (k : TblKey) (hk : RegsOnly rs s0 s)
    (r_desc : RegName.desc ∈ rs) : RegsOnly rs s0 (tblDeleteAt s c t k).1 := by
  unfold Sys2Proof.Machine.tblDeleteAt
  with_reducible repeat' first
    | assumption | apply Named.logChange | apply Named.modEntry | apply Named.delEntry | apply Named.foldl
    | apply Named.foldl1 | simp only [Named.upd] | dsimp only | split | intro

theorem Named.fixedUpdate (s : State) (c : HostCmd) (t : Nat) (hk : RegsOnly rs s0 s)
    : RegsOnly rs s0 (fixedUpdate s c t).1 := by
  unfold Sys2Proof.Machine.fixedUpdate
  with_reducible repeat' first
    | assumption | simp only [Named.upd] | dsimp only | split | intro

theorem Named.tblSearchAt (s : State) (c : HostCmd) (t : Nat) (hk : RegsOnly rs s0 s)
    : RegsOnly rs s0 (tblSearchAt s c t).1 := by
  unfold Sys2Proof.Machine.tblSearchAt
  with_reducible repeat' first
    | assumption | simp only [Named.upd] | dsimp only | split | intro

theorem Named.tblReadAt (s : State) (c : HostCmd) (t : Nat) (hk : RegsOnly rs s0 s)
    : RegsOnly rs s0 (tblReadAt s c t).1 := by
  unfold Sys2Proof.Machine.tblReadAt
  with_reducible repeat' first
    | assumption | apply Named.dataOut | simp only [Named.upd] | dsimp only | split | intro

theorem Named.tblNextAt (s : State) (c : HostCmd) (t : Nat) (hk : RegsOnly rs s0 s)
    : RegsOnly rs s0 (tblNextAt s c t).1 := by
  unfold Sys2Proof.Machine.tblNextAt
  with_reducible repeat' first
    | assumption | apply Named.dataOut | simp only [Named.upd] | dsimp only | split | intro

theorem Named.tblFlushAt (s : State) (c : HostCmd) (hk : RegsOnly rs s0 s) (r_desc : RegName.desc ∈ rs)
    : RegsOnly rs s0 (tblFlushAt s c).1 := by
  unfold Sys2Proof.Machine.tblFlushAt
  with_reducible repeat' first
    | assumption | apply Named.delEntry | apply Named.foldl | apply Named.foldl1 | simp only [Named.upd] | dsimp only | split
    | intro

theorem Named.tblRun (s : State) (c : HostCmd) (hk : RegsOnly rs s0 s) (r_desc : RegName.desc ∈ rs)
    : RegsOnly rs s0 (tblRun s c).1 := by
  unfold Sys2Proof.Machine.tblRun
  with_reducible repeat' first
    | assumption | apply Named.tblFlushAt | apply Named.fixedUpdate | apply Named.tblReadAt | apply Named.tblNextAt
    | apply Named.tblSearchAt | apply Named.tblInsertAt | apply Named.tblUpdateAt | apply Named.tblDeleteAt
    | simp only [Named.upd] | dsimp only | split | intro

theorem Named.clkErr (s : State) (bit : Nat) (hk : RegsOnly rs s0 s) (r_fltCount2 : RegName.fltCount2 ∈ rs)
    (r_escCfg : RegName.escCfg ∈ rs) (r_clkErr : RegName.clkErr ∈ rs) : RegsOnly rs s0 (clkErr s bit) := by
  unfold Sys2Proof.Machine.clkErr
  with_reducible repeat' first
    | assumption | apply Named.raise | apply Named.setBit | apply RegIn.clkErr | simp only [Named.upd] | dsimp only | split
    | intro

theorem Named.takeEntry (p : PoolPart) (s : State) (t : Nat) (e : Entry) (hk : RegsOnly rs s0 s) (r_desc : RegName.desc ∈ rs)
    : RegsOnly rs s0 (takeEntry p s t e) := by
  unfold Sys2Proof.Machine.takeEntry
  with_reducible repeat' first
    | assumption | apply Named.addEntry | apply Named.drawn | simp only [Named.upd] | dsimp only | split | intro

theorem Named.takePart (s : State) (t : Nat) (p : PoolPart) (hk : RegsOnly rs s0 s) (r_desc : RegName.desc ∈ rs)
    : RegsOnly rs s0 (takePart s t p).1 := by
  unfold Sys2Proof.Machine.takePart
  with_reducible repeat' first
    | assumption | apply Named.forEach | apply Named.takeEntry | simp only [Named.upd] | dsimp only | split | intro

theorem Named.takeOver (s : State) (t : Nat) (hk : RegsOnly rs s0 s) (r_desc : RegName.desc ∈ rs)
    : RegsOnly rs s0 (takeOver s t) := by
  unfold Sys2Proof.Machine.takeOver
  with_reducible repeat' first
    | assumption | apply Named.setEntries | apply Named.forEach | apply Named.takePart | simp only [Named.upd] | dsimp only
    | split | intro

theorem Named.descApply (s : State) (t word : Nat) (v : Word) (hk : RegsOnly rs s0 s) (r_fltCount2 : RegName.fltCount2 ∈ rs)
    (r_escCfg : RegName.escCfg ∈ rs) (r_clkErr : RegName.clkErr ∈ rs) (r_desc : RegName.desc ∈ rs)
    : RegsOnly rs s0 (descApply s t word v) := by
  unfold Sys2Proof.Machine.descApply
  with_reducible repeat' first
    | assumption | apply Named.clkErr | apply Named.setReg | apply Named.takeOver | apply RegIn.desc | simp only [Named.upd]
    | dsimp only | split | intro

theorem Named.hashApply (s : State) (k : Nat) (v : Word) (hk : RegsOnly rs s0 s) (r_fltCount2 : RegName.fltCount2 ∈ rs)
    (r_escCfg : RegName.escCfg ∈ rs) (r_clkErr : RegName.clkErr ∈ rs) (r_hashCfg : RegName.hashCfg ∈ rs)
    : RegsOnly rs s0 (hashApply s k v) := by
  unfold Sys2Proof.Machine.hashApply
  with_reducible repeat' first
    | assumption | apply Named.clkErr | apply Named.setReg | apply RegIn.hashCfg | simp only [Named.upd] | dsimp only | split
    | intro

theorem Named.learnOffer (s : State) (r : LearnReq) (hk : RegsOnly rs s0 s) (r_fltCount2 : RegName.fltCount2 ∈ rs)
    (r_escCfg : RegName.escCfg ∈ rs) (r_clerkCount : RegName.clerkCount ∈ rs) (r_pmcCount : RegName.pmcCount ∈ rs)
    : RegsOnly rs s0 (learnOffer s r) := by
  unfold Sys2Proof.Machine.learnOffer
  with_reducible repeat' first
    | assumption | apply Named.learnLoss | apply Named.pmcEvent | simp only [Named.upd] | dsimp only | split | intro

theorem Named.pinEntry (s : State) (t : Nat) (e : Entry) (hk : RegsOnly rs s0 s) (r_fltCount2 : RegName.fltCount2 ∈ rs)
    (r_escCfg : RegName.escCfg ∈ rs) (r_flapLast : RegName.flapLast ∈ rs) (r_flapTable : RegName.flapTable ∈ rs)
    (r_clerkCount : RegName.clerkCount ∈ rs) (r_desc : RegName.desc ∈ rs) : RegsOnly rs s0 (pinEntry s t e) := by
  unfold Sys2Proof.Machine.pinEntry
  with_reducible repeat' first
    | assumption | apply Named.modEntry | apply Named.setReg | apply Named.raise | apply Named.clerkCount
    | apply RegIn.flapLast | apply RegIn.flapTable | simp only [Named.upd] | dsimp only | split | intro

theorem Named.moveEntry (s : State) (t : Nat) (e : Entry) (port : Nat) (hk : RegsOnly rs s0 s)
    (r_fltCount2 : RegName.fltCount2 ∈ rs) (r_escCfg : RegName.escCfg ∈ rs) (r_flapLast : RegName.flapLast ∈ rs)
    (r_flapTable : RegName.flapTable ∈ rs) (r_clerkCount : RegName.clerkCount ∈ rs) (r_desc : RegName.desc ∈ rs)
    : RegsOnly rs s0 (moveEntry s t e port) := by
  unfold Sys2Proof.Machine.moveEntry
  with_reducible repeat' first
    | assumption | apply Named.clerkCount | apply Named.modEntry | apply Named.pinEntry | simp only [Named.upd] | dsimp only
    | split | intro

theorem Named.learnTake (s : State) (r : LearnReq) (hk : RegsOnly rs s0 s) (r_fltCount2 : RegName.fltCount2 ∈ rs)
    (r_escCfg : RegName.escCfg ∈ rs) (r_flapLast : RegName.flapLast ∈ rs) (r_flapTable : RegName.flapTable ∈ rs)
    (r_clerkCount : RegName.clerkCount ∈ rs) (r_desc : RegName.desc ∈ rs) : RegsOnly rs s0 (learnTake s r) := by
  unfold Sys2Proof.Machine.learnTake
  with_reducible repeat' first
    | assumption | apply Named.learnLoss | apply Named.drawn | apply Named.clerkCount | apply Named.addEntry
    | apply Named.moveEntry | simp only [Named.upd] | dsimp only | split | intro

theorem Named.execFlapHoldEnd (table handle : Nat) (s : State) (hk : RegsOnly rs s0 s) (r_desc : RegName.desc ∈ rs)
    : NamedO rs s0 (execFlapHoldEnd table handle s) := by
  unfold Sys2Proof.Machine.execFlapHoldEnd
  with_reducible repeat' first
    | assumption | apply Named.modEntry | apply NamedO.next | simp only [Named.upd] | dsimp only | split | intro

theorem Named.ageTest (s : State) (t h : Nat) (hk : RegsOnly rs s0 s) (r_desc : RegName.desc ∈ rs)
    : RegsOnly rs s0 (ageTest s t h) := by
  unfold Sys2Proof.Machine.ageTest
  with_reducible repeat' first
    | assumption | apply Named.modEntry | simp only [Named.upd] | dsimp only | split | intro

theorem Named.modBefore (s : State) (t : Nat) (f : List Entry → List Entry) (hk : RegsOnly rs s0 s)
    : RegsOnly rs s0 (modBefore s t f) := by
  unfold Sys2Proof.Machine.modBefore
  with_reducible repeat' first
    | assumption | simp only [Named.upd] | dsimp only | split | intro

theorem Named.modEverywhere (s : State) (t h : Nat) (f : Entry → Entry) (hk : RegsOnly rs s0 s) (r_desc : RegName.desc ∈ rs)
    : RegsOnly rs s0 (modEverywhere s t h f) := by
  unfold Sys2Proof.Machine.modEverywhere
  with_reducible repeat' first
    | assumption | apply Named.modEntry | apply Named.modBefore | simp only [Named.upd] | dsimp only | split | intro

theorem Named.ageInHall (s : State) (hall : Nat) (op : AgeOp) (hk : RegsOnly rs s0 s) (r_desc : RegName.desc ∈ rs)
    : RegsOnly rs s0 (ageInHall s hall op) := by
  unfold Sys2Proof.Machine.ageInHall
  with_reducible repeat' first
    | assumption | apply Named.modEverywhere | simp only [Named.upd] | dsimp only | split | intro

theorem Named.ageInForce (s : State) (op : AgeOp) (hk : RegsOnly rs s0 s) (r_clerkCount : RegName.clerkCount ∈ rs)
    (r_desc : RegName.desc ∈ rs) : RegsOnly rs s0 (ageInForce s op) := by
  unfold Sys2Proof.Machine.ageInForce
  with_reducible repeat' first
    | assumption | apply Named.clerkCount | apply Named.delEntry | apply Named.modBefore | simp only [Named.upd] | dsimp only
    | split | intro

theorem Named.hallApply (hall : Nat) (s : State) (x : Issued) (hk : RegsOnly rs s0 s) (r_desc : RegName.desc ∈ rs)
    : RegsOnly rs s0 (hallApply hall s x) := by
  unfold Sys2Proof.Machine.hallApply
  with_reducible repeat' first
    | assumption | apply Named.ageInHall | simp only [Named.upd] | dsimp only | split | intro

theorem Named.hallTake (s : State) (hall n : Nat) (hk : RegsOnly rs s0 s) (r_desc : RegName.desc ∈ rs)
    : RegsOnly rs s0 (hallTake s hall n) := by
  unfold Sys2Proof.Machine.hallTake
  with_reducible repeat' first
    | assumption | apply Named.forEach | apply Named.hallApply | apply Named.foldl | apply Named.foldl1
    | simp only [Named.upd] | dsimp only | split | intro

theorem Named.hallAdvance (s : State) (hall : Nat) (hk : RegsOnly rs s0 s) (r_desc : RegName.desc ∈ rs)
    : RegsOnly rs s0 (hallAdvance s hall) := by
  unfold Sys2Proof.Machine.hallAdvance
  with_reducible repeat' first
    | assumption | apply Named.drawn | apply Named.hallTake | simp only [Named.upd] | dsimp only | split | intro

theorem Named.retireChange (s : State) (d : Dom) (c : Change) (hk : RegsOnly rs s0 s) (r_desc : RegName.desc ∈ rs)
    : RegsOnly rs s0 (retireChange s d c) := by
  unfold Sys2Proof.Machine.retireChange
  with_reducible repeat' first
    | assumption | apply Named.modEntry | apply Named.delEntry | apply Named.foldl | apply Named.foldl1
    | simp only [Named.upd] | dsimp only | split | intro

theorem Named.clerkIssued
    (s : State) (regs : List Nat) (age : Option AgeOp) (f : State → State) (done : Option (HostCmd × Nat × List Byte))
    (hk : RegsOnly rs s0 s) (hf : ∀ t, RegsOnly rs s0 t → RegsOnly rs s0 (f t)) (r_fltCount2 : RegName.fltCount2 ∈ rs)
    (r_escCfg : RegName.escCfg ∈ rs) (r_pmcCount : RegName.pmcCount ∈ rs) : RegsOnly rs s0 (clerkIssued s regs age f done) := by
  unfold Sys2Proof.Machine.clerkIssued
  with_reducible repeat' first
    | assumption | apply hf | apply Named.pmcEvent | simp only [Named.upd] | dsimp only | split | intro

theorem Named.issueHost (s : State) (op : ClerkOp) (hk : RegsOnly rs s0 s) (r_fltCount2 : RegName.fltCount2 ∈ rs)
    (r_escCfg : RegName.escCfg ∈ rs) (r_clkErr : RegName.clkErr ∈ rs) (r_desc : RegName.desc ∈ rs)
    (r_hashCfg : RegName.hashCfg ∈ rs) (r_pmcCount : RegName.pmcCount ∈ rs) : RegsOnly rs s0 (issueHost s op) := by
  unfold Sys2Proof.Machine.issueHost
  with_reducible repeat' first
    | assumption | apply Named.tblRun | apply Named.clerkIssued | apply Named.descApply | apply Named.hashApply
    | simp only [Named.upd] | dsimp only | split | intro

theorem Named.clerkDo (s : State) (p : ClerkPick) (hk : RegsOnly rs s0 s) (r_fltCount2 : RegName.fltCount2 ∈ rs)
    (r_escCfg : RegName.escCfg ∈ rs) (r_clkErr : RegName.clkErr ∈ rs) (r_flapLast : RegName.flapLast ∈ rs)
    (r_flapTable : RegName.flapTable ∈ rs) (r_clerkCount : RegName.clerkCount ∈ rs) (r_desc : RegName.desc ∈ rs)
    (r_hashCfg : RegName.hashCfg ∈ rs) (r_pmcCount : RegName.pmcCount ∈ rs) : RegsOnly rs s0 (clerkDo s p) := by
  unfold Sys2Proof.Machine.clerkDo
  with_reducible repeat' first
    | assumption | apply Named.clerkIssued | apply Named.setDom | apply Named.retireChange | apply Named.clerkCount
    | apply Named.issueHost | apply Named.learnTake | apply Named.ageTest | simp only [Named.upd] | dsimp only | split
    | intro

theorem Named.clerkPost (s : State) (op : ClerkOp) (hk : RegsOnly rs s0 s) (r_fltCount2 : RegName.fltCount2 ∈ rs)
    (r_escCfg : RegName.escCfg ∈ rs) (r_clkErr : RegName.clkErr ∈ rs) (r_flapLast : RegName.flapLast ∈ rs)
    (r_flapTable : RegName.flapTable ∈ rs) (r_clerkCount : RegName.clerkCount ∈ rs) (r_desc : RegName.desc ∈ rs)
    (r_hashCfg : RegName.hashCfg ∈ rs) (r_pmcCount : RegName.pmcCount ∈ rs) : RegsOnly rs s0 (clerkPost s op) := by
  unfold Sys2Proof.Machine.clerkPost
  with_reducible repeat' first
    | assumption | apply Named.clerkDo | simp only [Named.upd] | dsimp only | split | intro

theorem Named.execClerkIssue (s : State) (hk : RegsOnly rs s0 s) (r_fltCount2 : RegName.fltCount2 ∈ rs)
    (r_escCfg : RegName.escCfg ∈ rs) (r_clkErr : RegName.clkErr ∈ rs) (r_flapLast : RegName.flapLast ∈ rs)
    (r_flapTable : RegName.flapTable ∈ rs) (r_clerkCount : RegName.clerkCount ∈ rs) (r_desc : RegName.desc ∈ rs)
    (r_hashCfg : RegName.hashCfg ∈ rs) (r_pmcCount : RegName.pmcCount ∈ rs) : NamedO rs s0 (execClerkIssue s) := by
  unfold Sys2Proof.Machine.execClerkIssue
  with_reducible repeat' first
    | assumption | apply Named.clerkDo | apply NamedO.next | simp only [Named.upd] | dsimp only | split | intro

theorem Named.clerkInForce (s : State) (hk : RegsOnly rs s0 s) (r_orphanCtrl : RegName.orphanCtrl ∈ rs)
    (r_orphanLog : RegName.orphanLog ∈ rs) (r_fltCount2 : RegName.fltCount2 ∈ rs) (r_escCfg : RegName.escCfg ∈ rs)
    (r_clerkCount : RegName.clerkCount ∈ rs) (r_desc : RegName.desc ∈ rs) : RegsOnly rs s0 (clerkInForce s) := by
  unfold Sys2Proof.Machine.clerkInForce
  with_reducible repeat' first
    | assumption | apply Named.forEach | apply Named.hallApply | apply Named.ageInForce | apply Named.complete
    | simp only [Named.upd] | dsimp only | split | intro

theorem Named.tblStart (s : State) (c : HostCmd) (row : CmdRow) (hk : RegsOnly rs s0 s)
    (r_fltCount2 : RegName.fltCount2 ∈ rs) (r_escCfg : RegName.escCfg ∈ rs) (r_clkErr : RegName.clkErr ∈ rs)
    (r_flapLast : RegName.flapLast ∈ rs) (r_flapTable : RegName.flapTable ∈ rs) (r_clerkCount : RegName.clerkCount ∈ rs)
    (r_desc : RegName.desc ∈ rs) (r_hashCfg : RegName.hashCfg ∈ rs) (r_pmcCount : RegName.pmcCount ∈ rs)
    : RegsOnly rs s0 (tblStart s c row) := by
  unfold Sys2Proof.Machine.tblStart
  with_reducible repeat' first
    | assumption | apply Named.runCmd | apply Named.clerkPost | apply Named.setPhase | simp only [Named.upd] | dsimp only
    | split | intro

theorem Named.execTblSearch (cmd : HostCmd) (s : State) (hk : RegsOnly rs s0 s) (r_fltCount2 : RegName.fltCount2 ∈ rs)
    (r_escCfg : RegName.escCfg ∈ rs) (r_clkErr : RegName.clkErr ∈ rs) (r_flapLast : RegName.flapLast ∈ rs)
    (r_flapTable : RegName.flapTable ∈ rs) (r_clerkCount : RegName.clerkCount ∈ rs) (r_desc : RegName.desc ∈ rs)
    (r_hashCfg : RegName.hashCfg ∈ rs) (r_pmcCount : RegName.pmcCount ∈ rs) : NamedO rs s0 (execTblSearch cmd s) := by
  unfold Sys2Proof.Machine.execTblSearch
  with_reducible repeat' first
    | assumption | apply Named.tblStart | apply NamedO.next | simp only [Named.upd] | dsimp only | split | intro

theorem Named.execTblNext (cmd : HostCmd) (s : State) (hk : RegsOnly rs s0 s) (r_fltCount2 : RegName.fltCount2 ∈ rs)
    (r_escCfg : RegName.escCfg ∈ rs) (r_clkErr : RegName.clkErr ∈ rs) (r_flapLast : RegName.flapLast ∈ rs)
    (r_flapTable : RegName.flapTable ∈ rs) (r_clerkCount : RegName.clerkCount ∈ rs) (r_desc : RegName.desc ∈ rs)
    (r_hashCfg : RegName.hashCfg ∈ rs) (r_pmcCount : RegName.pmcCount ∈ rs) : NamedO rs s0 (execTblNext cmd s) := by
  unfold Sys2Proof.Machine.execTblNext
  with_reducible repeat' first
    | assumption | apply Named.tblStart | apply NamedO.next | simp only [Named.upd] | dsimp only | split | intro

theorem Named.execTblInsert (cmd : HostCmd) (s : State) (hk : RegsOnly rs s0 s) (r_fltCount2 : RegName.fltCount2 ∈ rs)
    (r_escCfg : RegName.escCfg ∈ rs) (r_clkErr : RegName.clkErr ∈ rs) (r_flapLast : RegName.flapLast ∈ rs)
    (r_flapTable : RegName.flapTable ∈ rs) (r_clerkCount : RegName.clerkCount ∈ rs) (r_desc : RegName.desc ∈ rs)
    (r_hashCfg : RegName.hashCfg ∈ rs) (r_pmcCount : RegName.pmcCount ∈ rs) : NamedO rs s0 (execTblInsert cmd s) := by
  unfold Sys2Proof.Machine.execTblInsert
  with_reducible repeat' first
    | assumption | apply Named.tblStart | apply NamedO.next | simp only [Named.upd] | dsimp only | split | intro

theorem Named.execTblUpdate (cmd : HostCmd) (s : State) (hk : RegsOnly rs s0 s) (r_fltCount2 : RegName.fltCount2 ∈ rs)
    (r_escCfg : RegName.escCfg ∈ rs) (r_clkErr : RegName.clkErr ∈ rs) (r_flapLast : RegName.flapLast ∈ rs)
    (r_flapTable : RegName.flapTable ∈ rs) (r_clerkCount : RegName.clerkCount ∈ rs) (r_desc : RegName.desc ∈ rs)
    (r_hashCfg : RegName.hashCfg ∈ rs) (r_pmcCount : RegName.pmcCount ∈ rs) : NamedO rs s0 (execTblUpdate cmd s) := by
  unfold Sys2Proof.Machine.execTblUpdate
  with_reducible repeat' first
    | assumption | apply Named.tblStart | apply NamedO.next | simp only [Named.upd] | dsimp only | split | intro

theorem Named.execTblDelete (cmd : HostCmd) (s : State) (hk : RegsOnly rs s0 s) (r_fltCount2 : RegName.fltCount2 ∈ rs)
    (r_escCfg : RegName.escCfg ∈ rs) (r_clkErr : RegName.clkErr ∈ rs) (r_flapLast : RegName.flapLast ∈ rs)
    (r_flapTable : RegName.flapTable ∈ rs) (r_clerkCount : RegName.clerkCount ∈ rs) (r_desc : RegName.desc ∈ rs)
    (r_hashCfg : RegName.hashCfg ∈ rs) (r_pmcCount : RegName.pmcCount ∈ rs) : NamedO rs s0 (execTblDelete cmd s) := by
  unfold Sys2Proof.Machine.execTblDelete
  with_reducible repeat' first
    | assumption | apply Named.tblStart | apply NamedO.next | simp only [Named.upd] | dsimp only | split | intro

theorem Named.execTblFlushPort (cmd : HostCmd) (s : State) (hk : RegsOnly rs s0 s) (r_fltCount2 : RegName.fltCount2 ∈ rs)
    (r_escCfg : RegName.escCfg ∈ rs) (r_clkErr : RegName.clkErr ∈ rs) (r_flapLast : RegName.flapLast ∈ rs)
    (r_flapTable : RegName.flapTable ∈ rs) (r_clerkCount : RegName.clerkCount ∈ rs) (r_desc : RegName.desc ∈ rs)
    (r_hashCfg : RegName.hashCfg ∈ rs) (r_pmcCount : RegName.pmcCount ∈ rs) : NamedO rs s0 (execTblFlushPort cmd s) := by
  unfold Sys2Proof.Machine.execTblFlushPort
  with_reducible repeat' first
    | assumption | apply Named.tblStart | apply NamedO.next | simp only [Named.upd] | dsimp only | split | intro

theorem Named.execTblRead (cmd : HostCmd) (s : State) (hk : RegsOnly rs s0 s) (r_fltCount2 : RegName.fltCount2 ∈ rs)
    (r_escCfg : RegName.escCfg ∈ rs) (r_clkErr : RegName.clkErr ∈ rs) (r_flapLast : RegName.flapLast ∈ rs)
    (r_flapTable : RegName.flapTable ∈ rs) (r_clerkCount : RegName.clerkCount ∈ rs) (r_desc : RegName.desc ∈ rs)
    (r_hashCfg : RegName.hashCfg ∈ rs) (r_pmcCount : RegName.pmcCount ∈ rs) : NamedO rs s0 (execTblRead cmd s) := by
  unfold Sys2Proof.Machine.execTblRead
  with_reducible repeat' first
    | assumption | apply Named.tblStart | apply NamedO.next | simp only [Named.upd] | dsimp only | split | intro

theorem Named.clerkWrite (s : State) (a : Nat) (value : Word) (op : ClerkOp) (hk : RegsOnly rs s0 s)
    (r_fltCount2 : RegName.fltCount2 ∈ rs) (r_escCfg : RegName.escCfg ∈ rs) (r_clkErr : RegName.clkErr ∈ rs)
    (r_flapLast : RegName.flapLast ∈ rs) (r_flapTable : RegName.flapTable ∈ rs) (r_clerkCount : RegName.clerkCount ∈ rs)
    (r_desc : RegName.desc ∈ rs) (r_hashCfg : RegName.hashCfg ∈ rs) (r_pmcCount : RegName.pmcCount ∈ rs)
    : RegsOnly rs s0 (clerkWrite s a value op) := by
  unfold Sys2Proof.Machine.clerkWrite
  with_reducible repeat' first
    | assumption | apply Named.atCrossing | apply Named.clerkPost | simp only [Named.upd] | dsimp only | split | intro

theorem Named.execDescWrite (t word : Nat) (value : Word) (s : State) (hk : RegsOnly rs s0 s)
    (r_fltCount2 : RegName.fltCount2 ∈ rs) (r_escCfg : RegName.escCfg ∈ rs) (r_clkErr : RegName.clkErr ∈ rs)
    (r_flapLast : RegName.flapLast ∈ rs) (r_flapTable : RegName.flapTable ∈ rs) (r_clerkCount : RegName.clerkCount ∈ rs)
    (r_desc : RegName.desc ∈ rs) (r_hashCfg : RegName.hashCfg ∈ rs) (r_pmcCount : RegName.pmcCount ∈ rs)
    : NamedO rs s0 (execDescWrite t word value s) := by
  unfold Sys2Proof.Machine.execDescWrite
  with_reducible repeat' first
    | assumption | apply Named.clerkWrite | apply NamedO.next | simp only [Named.upd] | dsimp only | split | intro

theorem Named.execHashCfgWrite (k : Nat) (value : Word) (s : State) (hk : RegsOnly rs s0 s)
    (r_fltCount2 : RegName.fltCount2 ∈ rs) (r_escCfg : RegName.escCfg ∈ rs) (r_clkErr : RegName.clkErr ∈ rs)
    (r_flapLast : RegName.flapLast ∈ rs) (r_flapTable : RegName.flapTable ∈ rs) (r_clerkCount : RegName.clerkCount ∈ rs)
    (r_desc : RegName.desc ∈ rs) (r_hashCfg : RegName.hashCfg ∈ rs) (r_pmcCount : RegName.pmcCount ∈ rs)
    : NamedO rs s0 (execHashCfgWrite k value s) := by
  unfold Sys2Proof.Machine.execHashCfgWrite
  with_reducible repeat' first
    | assumption | apply Named.clerkWrite | apply NamedO.next | simp only [Named.upd] | dsimp only | split | intro

theorem Named.execLearnInstall (s : State) (hk : RegsOnly rs s0 s) (r_fltCount2 : RegName.fltCount2 ∈ rs)
    (r_escCfg : RegName.escCfg ∈ rs) (r_clkErr : RegName.clkErr ∈ rs) (r_flapLast : RegName.flapLast ∈ rs)
    (r_flapTable : RegName.flapTable ∈ rs) (r_clerkCount : RegName.clerkCount ∈ rs) (r_desc : RegName.desc ∈ rs)
    (r_hashCfg : RegName.hashCfg ∈ rs) (r_pmcCount : RegName.pmcCount ∈ rs) : NamedO rs s0 (execLearnInstall s) := by
  unfold Sys2Proof.Machine.execLearnInstall
  with_reducible repeat' first
    | assumption | apply Named.clerkDo | apply NamedO.next | simp only [Named.upd] | dsimp only | split | intro

theorem Named.execAgeVisit (table handle : Nat) (s : State) (hk : RegsOnly rs s0 s) (r_fltCount2 : RegName.fltCount2 ∈ rs)
    (r_escCfg : RegName.escCfg ∈ rs) (r_clkErr : RegName.clkErr ∈ rs) (r_flapLast : RegName.flapLast ∈ rs)
    (r_flapTable : RegName.flapTable ∈ rs) (r_clerkCount : RegName.clerkCount ∈ rs) (r_desc : RegName.desc ∈ rs)
    (r_hashCfg : RegName.hashCfg ∈ rs) (r_pmcCount : RegName.pmcCount ∈ rs) : NamedO rs s0 (execAgeVisit table handle s) := by
  unfold Sys2Proof.Machine.execAgeVisit
  with_reducible repeat' first
    | assumption | apply Named.clerkDo | apply NamedO.next | simp only [Named.upd] | dsimp only | split | intro

theorem Named.execAgeRemove (table handle : Nat) (s : State) (hk : RegsOnly rs s0 s) (r_fltCount2 : RegName.fltCount2 ∈ rs)
    (r_escCfg : RegName.escCfg ∈ rs) (r_clkErr : RegName.clkErr ∈ rs) (r_flapLast : RegName.flapLast ∈ rs)
    (r_flapTable : RegName.flapTable ∈ rs) (r_clerkCount : RegName.clerkCount ∈ rs) (r_desc : RegName.desc ∈ rs)
    (r_hashCfg : RegName.hashCfg ∈ rs) (r_pmcCount : RegName.pmcCount ∈ rs) : NamedO rs s0 (execAgeRemove table handle s) := by
  unfold Sys2Proof.Machine.execAgeRemove
  with_reducible repeat' first
    | assumption | apply Named.clerkDo | apply NamedO.next | simp only [Named.upd] | dsimp only | split | intro

theorem Named.execAgeRestore (table handle : Nat) (s : State) (hk : RegsOnly rs s0 s) (r_fltCount2 : RegName.fltCount2 ∈ rs)
    (r_escCfg : RegName.escCfg ∈ rs) (r_clkErr : RegName.clkErr ∈ rs) (r_flapLast : RegName.flapLast ∈ rs)
    (r_flapTable : RegName.flapTable ∈ rs) (r_clerkCount : RegName.clerkCount ∈ rs) (r_desc : RegName.desc ∈ rs)
    (r_hashCfg : RegName.hashCfg ∈ rs) (r_pmcCount : RegName.pmcCount ∈ rs) : NamedO rs s0 (execAgeRestore table handle s) := by
  unfold Sys2Proof.Machine.execAgeRestore
  with_reducible repeat' first
    | assumption | apply Named.clerkDo | apply NamedO.next | simp only [Named.upd] | dsimp only | split | intro

theorem Named.copyBank (s : State) (d : Dom) (hk : RegsOnly rs s0 s) : RegsOnly rs s0 (copyBank s d) := by
  unfold Sys2Proof.Machine.copyBank
  with_reducible repeat' first
    | assumption | apply Named.foldl | apply Named.foldl1 | simp only [Named.upd] | dsimp only | split | intro

theorem Named.execRetireComplete (d : Dom) (s : State) (hk : RegsOnly rs s0 s) (r_fltCount2 : RegName.fltCount2 ∈ rs)
    (r_escCfg : RegName.escCfg ∈ rs) (r_domCtrl : RegName.domCtrl ∈ rs) : NamedO rs s0 (execRetireComplete d s) := by
  unfold Sys2Proof.Machine.execRetireComplete
  with_reducible repeat' first
    | assumption | apply Named.copyBank | apply Named.setDom | apply Named.raise | apply Named.openStage | apply Named.setBit
    | apply RegIn.domCtrl | apply NamedO.next | simp only [Named.upd] | dsimp only | split | intro

theorem Named.rowError (s : State) (hall row requester access : Nat) (hk : RegsOnly rs s0 s) (r_fltRec : RegName.fltRec ∈ rs)
    (r_fltFirst : RegName.fltFirst ∈ rs) (r_fltCount0 : RegName.fltCount0 ∈ rs) (r_fltCount1 : RegName.fltCount1 ∈ rs)
    (r_fltCount2 : RegName.fltCount2 ∈ rs) (r_escCfg : RegName.escCfg ∈ rs) (r_hallEcc : RegName.hallEcc ∈ rs)
    : RegsOnly rs s0 (rowError s hall row requester access) := by
  unfold Sys2Proof.Machine.rowError
  with_reducible repeat' first
    | assumption | apply Named.fault | apply Named.satF | apply RegIn.hallEcc | simp only [Named.upd] | dsimp only | split
    | intro

theorem Named.repairRow (hall row : Nat) (s : State) (hk : RegsOnly rs s0 s) (r_clerkCount : RegName.clerkCount ∈ rs)
    : RegsOnly rs s0 (repairRow hall row s) := by
  unfold Sys2Proof.Machine.repairRow
  with_reducible repeat' first
    | assumption | apply Named.clerkCount | simp only [Named.upd] | dsimp only | split | intro

theorem Named.execReplicaRepair (hall row : Nat) (entries : List (Nat × Nat)) (allBad : Bool) (s : State)
    (hk : RegsOnly rs s0 s) (r_fltRec : RegName.fltRec ∈ rs) (r_fltFirst : RegName.fltFirst ∈ rs)
    (r_fltCount0 : RegName.fltCount0 ∈ rs) (r_fltCount1 : RegName.fltCount1 ∈ rs) (r_fltCount2 : RegName.fltCount2 ∈ rs)
    (r_escCfg : RegName.escCfg ∈ rs) (r_clerkCount : RegName.clerkCount ∈ rs) (r_desc : RegName.desc ∈ rs)
    (r_pmcCount : RegName.pmcCount ∈ rs) : NamedO rs s0 (execReplicaRepair hall row entries allBad s) := by
  unfold Sys2Proof.Machine.execReplicaRepair
  with_reducible repeat' first
    | assumption | apply Named.clerkIssued | apply Named.forEach | apply Named.faultRecord | apply Named.delEntry
    | apply Named.repairRow | apply NamedO.next | simp only [Named.upd] | dsimp only | split | intro

theorem Named.rowCorrected (s : State) (hall : Nat) (hk : RegsOnly rs s0 s) (r_hallEcc : RegName.hallEcc ∈ rs)
    : RegsOnly rs s0 (rowCorrected s hall) := by
  unfold Sys2Proof.Machine.rowCorrected
  with_reducible repeat' first
    | assumption | apply Named.satF | apply RegIn.hallEcc | simp only [Named.upd] | dsimp only | split | intro

theorem Named.execTableScrub (hall row : Nat) (corr uncorr : Bool) (s : State) (hk : RegsOnly rs s0 s)
    (r_fltRec : RegName.fltRec ∈ rs) (r_fltFirst : RegName.fltFirst ∈ rs) (r_fltCount0 : RegName.fltCount0 ∈ rs)
    (r_fltCount1 : RegName.fltCount1 ∈ rs) (r_fltCount2 : RegName.fltCount2 ∈ rs) (r_escCfg : RegName.escCfg ∈ rs)
    (r_hallEcc : RegName.hallEcc ∈ rs) : NamedO rs s0 (execTableScrub hall row corr uncorr s) := by
  unfold Sys2Proof.Machine.execTableScrub
  with_reducible repeat' first
    | assumption | apply Named.rowError | apply Named.rowCorrected | apply NamedO.next | simp only [Named.upd] | dsimp only
    | split | intro

theorem Named.rawRow (s : State) (hall : Nat) (value : Word) (hk : RegsOnly rs s0 s) (r_rawCtrl : RegName.rawCtrl ∈ rs)
    : RegsOnly rs s0 (rawRow s hall value) := by
  unfold Sys2Proof.Machine.rawRow
  with_reducible repeat' first
    | assumption | apply Named.setF | apply RegIn.rawCtrl | simp only [Named.upd] | dsimp only | split | intro

theorem Named.execRawRowRead (hall : Nat) (value : Word) (s : State) (hk : RegsOnly rs s0 s)
    (r_rawCtrl : RegName.rawCtrl ∈ rs) (r_rawData : RegName.rawData ∈ rs) : NamedO rs s0 (execRawRowRead hall value s) := by
  unfold Sys2Proof.Machine.execRawRowRead
  with_reducible repeat' first
    | assumption | apply Named.holdWrite | apply Named.rawRow | apply Named.forEach | apply Named.setReg
    | apply RegIn.rawData | apply NamedO.next | simp only [Named.upd] | dsimp only | split | intro

theorem Named.execRawRowWrite (hall : Nat) (value : Word) (s : State) (hk : RegsOnly rs s0 s)
    (r_rawCtrl : RegName.rawCtrl ∈ rs) : NamedO rs s0 (execRawRowWrite hall value s) := by
  unfold Sys2Proof.Machine.execRawRowWrite
  with_reducible repeat' first
    | assumption | apply Named.holdWrite | apply Named.rawRow | apply NamedO.next | simp only [Named.upd] | dsimp only
    | split | intro

theorem Named.execFrameArrival (port : Nat) (octets : List Byte) (pcs : Stamp) (s : State) (hk : RegsOnly rs s0 s)
    (r_fltCount2 : RegName.fltCount2 ∈ rs) (r_escCfg : RegName.escCfg ∈ rs) (r_pipeIn : RegName.pipeIn ∈ rs)
    (r_mktStatus : RegName.mktStatus ∈ rs) (r_poolFree : RegName.poolFree ∈ rs) (r_mktCount3 : RegName.mktCount3 ∈ rs)
    (r_mktCount4 : RegName.mktCount4 ∈ rs) (r_mktCount5 : RegName.mktCount5 ∈ rs) (r_mktCount6 : RegName.mktCount6 ∈ rs)
    (r_partUsed : RegName.partUsed ∈ rs) (r_qcfgPitch : RegName.qcfgPitch ∈ rs) (r_qcfgOcc : RegName.qcfgOcc ∈ rs)
    (r_pfcState : RegName.pfcState ∈ rs) (r_ingUsed : RegName.ingUsed ∈ rs) (r_hdrmUsed : RegName.hdrmUsed ∈ rs)
    (r_stagingFree : RegName.stagingFree ∈ rs) (r_splCount : RegName.splCount ∈ rs) (r_stackStatus : RegName.stackStatus ∈ rs)
    (r_qspillStatus : RegName.qspillStatus ∈ rs) (r_talCount : RegName.talCount ∈ rs) (r_pmcCount : RegName.pmcCount ∈ rs)
    : NamedO rs s0 (execFrameArrival port octets pcs s) := by
  unfold Sys2Proof.Machine.execFrameArrival
  with_reducible repeat' first
    | assumption | apply Named.ledgerAdd | apply Named.raise | apply Named.add64 | apply Named.dropPacket
    | apply RegIn.pipeIn | apply RegIn.pipeIn4 | apply NamedO.next | simp only [Named.upd] | dsimp only | split | intro

theorem Named.enterParse (s : State) (g : Nat) (p : Packet) (hk : RegsOnly rs s0 s) (r_fltCount2 : RegName.fltCount2 ∈ rs)
    (r_escCfg : RegName.escCfg ∈ rs) (r_mktStatus : RegName.mktStatus ∈ rs) (r_poolFree : RegName.poolFree ∈ rs)
    (r_mktCount3 : RegName.mktCount3 ∈ rs) (r_mktCount4 : RegName.mktCount4 ∈ rs) (r_mktCount5 : RegName.mktCount5 ∈ rs)
    (r_mktCount6 : RegName.mktCount6 ∈ rs) (r_partUsed : RegName.partUsed ∈ rs) (r_qcfgPitch : RegName.qcfgPitch ∈ rs)
    (r_qcfgOcc : RegName.qcfgOcc ∈ rs) (r_pfcState : RegName.pfcState ∈ rs) (r_ingUsed : RegName.ingUsed ∈ rs)
    (r_hdrmUsed : RegName.hdrmUsed ∈ rs) (r_stagingFree : RegName.stagingFree ∈ rs) (r_splCount : RegName.splCount ∈ rs)
    (r_stackStatus : RegName.stackStatus ∈ rs) (r_qspillStatus : RegName.qspillStatus ∈ rs) (r_talCount : RegName.talCount ∈ rs)
    (r_pmcCount : RegName.pmcCount ∈ rs) : RegsOnly rs s0 (enterParse s g p) := by
  unfold Sys2Proof.Machine.enterParse
  with_reducible repeat' first
    | assumption | apply Named.dropPacket | simp only [Named.upd] | dsimp only | split | intro

theorem Named.execParseEntry (g : Nat) (s : State) (hk : RegsOnly rs s0 s) (r_fltCount2 : RegName.fltCount2 ∈ rs)
    (r_escCfg : RegName.escCfg ∈ rs) (r_mktStatus : RegName.mktStatus ∈ rs) (r_poolFree : RegName.poolFree ∈ rs)
    (r_mktCount3 : RegName.mktCount3 ∈ rs) (r_mktCount4 : RegName.mktCount4 ∈ rs) (r_mktCount5 : RegName.mktCount5 ∈ rs)
    (r_mktCount6 : RegName.mktCount6 ∈ rs) (r_partUsed : RegName.partUsed ∈ rs) (r_qcfgPitch : RegName.qcfgPitch ∈ rs)
    (r_qcfgOcc : RegName.qcfgOcc ∈ rs) (r_pfcState : RegName.pfcState ∈ rs) (r_ingUsed : RegName.ingUsed ∈ rs)
    (r_hdrmUsed : RegName.hdrmUsed ∈ rs) (r_stagingFree : RegName.stagingFree ∈ rs) (r_splCount : RegName.splCount ∈ rs)
    (r_stackStatus : RegName.stackStatus ∈ rs) (r_qspillStatus : RegName.qspillStatus ∈ rs) (r_talCount : RegName.talCount ∈ rs)
    (r_pmcCount : RegName.pmcCount ∈ rs) : NamedO rs s0 (execParseEntry g s) := by
  unfold Sys2Proof.Machine.execParseEntry
  with_reducible repeat' first
    | assumption | apply Named.enterParse | apply NamedO.next | simp only [Named.upd] | dsimp only | split | intro

theorem Named.hostBegun (s : State) (p : Packet) (hk : RegsOnly rs s0 s) (r_orphanCtrl : RegName.orphanCtrl ∈ rs)
    (r_orphanLog : RegName.orphanLog ∈ rs) (r_fltRec : RegName.fltRec ∈ rs) (r_fltFirst : RegName.fltFirst ∈ rs)
    (r_fltCount0 : RegName.fltCount0 ∈ rs) (r_fltCount1 : RegName.fltCount1 ∈ rs) (r_fltCount2 : RegName.fltCount2 ∈ rs)
    (r_escCfg : RegName.escCfg ∈ rs) (r_mktStatus : RegName.mktStatus ∈ rs) (r_poolFree : RegName.poolFree ∈ rs)
    (r_mktCount0 : RegName.mktCount0 ∈ rs) (r_partUsed : RegName.partUsed ∈ rs) (r_pmcCount : RegName.pmcCount ∈ rs)
    : RegsOnly rs s0 (hostBegun s p) := by
  unfold Sys2Proof.Machine.hostBegun
  with_reducible repeat' first
    | assumption | apply Named.freeUnit | apply Named.unmapBuf | apply Named.freeRefused | apply Named.complete
    | simp only [Named.upd] | dsimp only | split | intro

theorem Named.execRecircEntry (g : Nat) (s : State) (hk : RegsOnly rs s0 s) (r_orphanCtrl : RegName.orphanCtrl ∈ rs)
    (r_orphanLog : RegName.orphanLog ∈ rs) (r_fltRec : RegName.fltRec ∈ rs) (r_fltFirst : RegName.fltFirst ∈ rs)
    (r_fltCount0 : RegName.fltCount0 ∈ rs) (r_fltCount1 : RegName.fltCount1 ∈ rs) (r_fltCount2 : RegName.fltCount2 ∈ rs)
    (r_escCfg : RegName.escCfg ∈ rs) (r_mktStatus : RegName.mktStatus ∈ rs) (r_poolFree : RegName.poolFree ∈ rs)
    (r_mktCount0 : RegName.mktCount0 ∈ rs) (r_mktCount3 : RegName.mktCount3 ∈ rs) (r_mktCount4 : RegName.mktCount4 ∈ rs)
    (r_mktCount5 : RegName.mktCount5 ∈ rs) (r_mktCount6 : RegName.mktCount6 ∈ rs) (r_partUsed : RegName.partUsed ∈ rs)
    (r_qcfgPitch : RegName.qcfgPitch ∈ rs) (r_qcfgOcc : RegName.qcfgOcc ∈ rs) (r_pfcState : RegName.pfcState ∈ rs)
    (r_ingUsed : RegName.ingUsed ∈ rs) (r_hdrmUsed : RegName.hdrmUsed ∈ rs) (r_stagingFree : RegName.stagingFree ∈ rs)
    (r_splCount : RegName.splCount ∈ rs) (r_stackStatus : RegName.stackStatus ∈ rs) (r_qspillStatus : RegName.qspillStatus ∈ rs)
    (r_talCount : RegName.talCount ∈ rs) (r_pmcCount : RegName.pmcCount ∈ rs) : NamedO rs s0 (execRecircEntry g s) := by
  unfold Sys2Proof.Machine.execRecircEntry
  with_reducible repeat' first
    | assumption | apply Named.enterParse | apply Named.hostBegun | apply NamedO.next | simp only [Named.upd] | dsimp only
    | split | intro

theorem Named.parCapture (s : State) (g : Nat) (p : Packet) (hk : RegsOnly rs s0 s) (r_fltCount2 : RegName.fltCount2 ∈ rs)
    (r_escCfg : RegName.escCfg ∈ rs) (r_parCtrl : RegName.parCtrl ∈ rs) (r_parCaptureTs : RegName.parCaptureTs ∈ rs)
    (r_parCapture : RegName.parCapture ∈ rs) : RegsOnly rs s0 (parCapture s g p) := by
  unfold Sys2Proof.Machine.parCapture
  with_reducible repeat' first
    | assumption | apply Named.setReg | apply Named.setReg64 | apply Named.raise | apply Named.setBit | apply RegIn.parCtrl
    | apply RegIn.parCaptureTs | apply RegIn.parCapture | apply RegIn.parCapture4 | simp only [Named.upd] | dsimp only
    | split | intro

theorem Named.execParseExit (g : Nat) (s : State) (hk : RegsOnly rs s0 s) (r_fltCount2 : RegName.fltCount2 ∈ rs)
    (r_escCfg : RegName.escCfg ∈ rs) (r_parCtrl : RegName.parCtrl ∈ rs) (r_parCaptureTs : RegName.parCaptureTs ∈ rs)
    (r_parCapture : RegName.parCapture ∈ rs) (r_parErrCount : RegName.parErrCount ∈ rs) (r_mktStatus : RegName.mktStatus ∈ rs)
    (r_poolFree : RegName.poolFree ∈ rs) (r_mktCount3 : RegName.mktCount3 ∈ rs) (r_mktCount4 : RegName.mktCount4 ∈ rs)
    (r_mktCount5 : RegName.mktCount5 ∈ rs) (r_mktCount6 : RegName.mktCount6 ∈ rs) (r_partUsed : RegName.partUsed ∈ rs)
    (r_qcfgPitch : RegName.qcfgPitch ∈ rs) (r_qcfgOcc : RegName.qcfgOcc ∈ rs) (r_pfcState : RegName.pfcState ∈ rs)
    (r_ingUsed : RegName.ingUsed ∈ rs) (r_hdrmUsed : RegName.hdrmUsed ∈ rs) (r_stagingFree : RegName.stagingFree ∈ rs)
    (r_splCount : RegName.splCount ∈ rs) (r_stackStatus : RegName.stackStatus ∈ rs) (r_qspillStatus : RegName.qspillStatus ∈ rs)
    (r_talCount : RegName.talCount ∈ rs) (r_pmcCount : RegName.pmcCount ∈ rs) : NamedO rs s0 (execParseExit g s) := by
  unfold Sys2Proof.Machine.execParseExit
  with_reducible repeat' first
    | assumption | apply Named.parCapture | apply Named.add64 | apply Named.dropPacket | apply Named.passOn
    | apply RegIn.parErrCount | apply RegIn.parErrCount4 | apply NamedO.next | simp only [Named.upd] | dsimp only | split
    | intro

theorem Named.execParCaptureArm (g : Nat) (s : State) (hk : RegsOnly rs s0 s) (r_parCtrl : RegName.parCtrl ∈ rs)
    (r_parCapture : RegName.parCapture ∈ rs) : NamedO rs s0 (execParCaptureArm g s) := by
  unfold Sys2Proof.Machine.execParCaptureArm
  with_reducible repeat' first
    | assumption | apply Named.holdWrite | apply Named.setBit | apply RegIn.parCtrl | apply RegIn.parCapture
    | apply RegIn.parCapture4 | apply NamedO.next | simp only [Named.upd] | dsimp only | split | intro

theorem Named.execParseWordRepair (g space bank offset : Nat) (err : WordErr) (s : State) (hk : RegsOnly rs s0 s)
    (r_fltRec : RegName.fltRec ∈ rs) (r_fltFirst : RegName.fltFirst ∈ rs) (r_fltCount0 : RegName.fltCount0 ∈ rs)
    (r_fltCount1 : RegName.fltCount1 ∈ rs) (r_fltCount2 : RegName.fltCount2 ∈ rs) (r_escCfg : RegName.escCfg ∈ rs)
    (r_parEcc : RegName.parEcc ∈ rs) : NamedO rs s0 (execParseWordRepair g space bank offset err s) := by
  unfold Sys2Proof.Machine.execParseWordRepair
  with_reducible repeat' first
    | assumption | apply Named.satF | apply Named.faultRecord | apply Named.whenB | apply Named.raise | apply Named.drawn
    | apply RegIn.parEcc | apply NamedO.next | simp only [Named.upd] | dsimp only | split | intro

theorem Named.mapCopies (s : State) (f : Copy → Copy) (hk : RegsOnly rs s0 s) : RegsOnly rs s0 (mapCopies s f) := by
  unfold Sys2Proof.Machine.mapCopies
  with_reducible repeat' first
    | assumption | simp only [Named.upd] | dsimp only | split | intro

theorem Named.growFrame (s : State) (id rq n : Nat) (hk : RegsOnly rs s0 s) (r_fltCount2 : RegName.fltCount2 ∈ rs)
    (r_escCfg : RegName.escCfg ∈ rs) (r_mktStatus : RegName.mktStatus ∈ rs) (r_poolFree : RegName.poolFree ∈ rs)
    (r_mktCount3 : RegName.mktCount3 ∈ rs) (r_partUsed : RegName.partUsed ∈ rs) (r_qcfgOcc : RegName.qcfgOcc ∈ rs)
    (r_pfcState : RegName.pfcState ∈ rs) (r_ingUsed : RegName.ingUsed ∈ rs) (r_hdrmUsed : RegName.hdrmUsed ∈ rs)
    (r_pmcCount : RegName.pmcCount ∈ rs) : RegsOnly rs s0 (growFrame s id rq n).1 := by
  unfold Sys2Proof.Machine.growFrame
  with_reducible repeat' first
    | assumption | apply Named.takeChain | apply Named.forEach | apply Named.addOcc | apply Named.putFrame
    | apply Named.mapCopies | apply Named.whenB | apply Named.addF21 | apply Named.addIng | apply RegIn.hdrmUsed
    | simp only [Named.upd] | dsimp only | split | intro

theorem Named.growRecord (s : State) (q id : Nat) (hk : RegsOnly rs s0 s) (r_fltCount2 : RegName.fltCount2 ∈ rs)
    (r_escCfg : RegName.escCfg ∈ rs) (r_mktStatus : RegName.mktStatus ∈ rs) (r_poolFree : RegName.poolFree ∈ rs)
    (r_mktCount3 : RegName.mktCount3 ∈ rs) (r_mktCount4 : RegName.mktCount4 ∈ rs) (r_mktCount5 : RegName.mktCount5 ∈ rs)
    (r_mktCount6 : RegName.mktCount6 ∈ rs) (r_partUsed : RegName.partUsed ∈ rs) (r_qcfgPitch : RegName.qcfgPitch ∈ rs)
    (r_qcfgOcc : RegName.qcfgOcc ∈ rs) (r_pfcState : RegName.pfcState ∈ rs) (r_ingUsed : RegName.ingUsed ∈ rs)
    (r_hdrmUsed : RegName.hdrmUsed ∈ rs) (r_stagingFree : RegName.stagingFree ∈ rs) (r_splCount : RegName.splCount ∈ rs)
    (r_stackStatus : RegName.stackStatus ∈ rs) (r_qspillStatus : RegName.qspillStatus ∈ rs) (r_talCount : RegName.talCount ∈ rs)
    (r_pmcCount : RegName.pmcCount ∈ rs) : RegsOnly rs s0 (growRecord s q id) := by
  unfold Sys2Proof.Machine.growRecord
  with_reducible repeat' first
    | assumption | apply Named.forEach | apply Named.setStagingFree | apply Named.spillExit | apply Named.dropSpilled
    | apply Named.setSpq | simp only [Named.upd] | dsimp only | split | intro

theorem Named.dropStaged (s : State) (q id : Nat) (hk : RegsOnly rs s0 s) (r_fltCount2 : RegName.fltCount2 ∈ rs)
    (r_escCfg : RegName.escCfg ∈ rs) (r_mktStatus : RegName.mktStatus ∈ rs) (r_poolFree : RegName.poolFree ∈ rs)
    (r_mktCount3 : RegName.mktCount3 ∈ rs) (r_mktCount4 : RegName.mktCount4 ∈ rs) (r_mktCount5 : RegName.mktCount5 ∈ rs)
    (r_mktCount6 : RegName.mktCount6 ∈ rs) (r_partUsed : RegName.partUsed ∈ rs) (r_qcfgPitch : RegName.qcfgPitch ∈ rs)
    (r_qcfgOcc : RegName.qcfgOcc ∈ rs) (r_pfcState : RegName.pfcState ∈ rs) (r_ingUsed : RegName.ingUsed ∈ rs)
    (r_hdrmUsed : RegName.hdrmUsed ∈ rs) (r_stagingFree : RegName.stagingFree ∈ rs) (r_splCount : RegName.splCount ∈ rs)
    (r_stackStatus : RegName.stackStatus ∈ rs) (r_qspillStatus : RegName.qspillStatus ∈ rs) (r_talCount : RegName.talCount ∈ rs)
    (r_pmcCount : RegName.pmcCount ∈ rs) : RegsOnly rs s0 (dropStaged s q id) := by
  unfold Sys2Proof.Machine.dropStaged
  with_reducible repeat' first
    | assumption | apply Named.setSpq | apply Named.setStagingFree | apply Named.spillExit | apply Named.forEach
    | apply Named.dropSpilled | simp only [Named.upd] | dsimp only | split | intro

theorem Named.badFrame (s : State) (id reason : Nat) (hk : RegsOnly rs s0 s) (r_fltRec : RegName.fltRec ∈ rs)
    (r_fltFirst : RegName.fltFirst ∈ rs) (r_fltCount0 : RegName.fltCount0 ∈ rs) (r_fltCount1 : RegName.fltCount1 ∈ rs)
    (r_fltCount2 : RegName.fltCount2 ∈ rs) (r_escCfg : RegName.escCfg ∈ rs) (r_mktStatus : RegName.mktStatus ∈ rs)
    (r_poolFree : RegName.poolFree ∈ rs) (r_mktCount0 : RegName.mktCount0 ∈ rs) (r_mktCount3 : RegName.mktCount3 ∈ rs)
    (r_mktCount4 : RegName.mktCount4 ∈ rs) (r_mktCount5 : RegName.mktCount5 ∈ rs) (r_mktCount6 : RegName.mktCount6 ∈ rs)
    (r_partUsed : RegName.partUsed ∈ rs) (r_qcfgPitch : RegName.qcfgPitch ∈ rs) (r_qcfgOcc : RegName.qcfgOcc ∈ rs)
    (r_pfcState : RegName.pfcState ∈ rs) (r_ingUsed : RegName.ingUsed ∈ rs) (r_hdrmUsed : RegName.hdrmUsed ∈ rs)
    (r_stagingFree : RegName.stagingFree ∈ rs) (r_splCount : RegName.splCount ∈ rs) (r_stackStatus : RegName.stackStatus ∈ rs)
    (r_qspillStatus : RegName.qspillStatus ∈ rs) (r_talCount : RegName.talCount ∈ rs) (r_pmcCount : RegName.pmcCount ∈ rs)
    : RegsOnly rs s0 (badFrame s id reason) := by
  unfold Sys2Proof.Machine.badFrame
  with_reducible repeat' first
    | assumption | apply Named.forEach | apply Named.dropStaged | apply Named.loseFrame | apply Named.mapPackets
    | simp only [Named.upd] | dsimp only | split | intro

theorem Named.countReceived (s : State) (port : Nat) (octs : List Byte) (k : Option Nat) (hk : RegsOnly rs s0 s)
    : RegsOnly rs s0 (countReceived s port octs k) := by
  unfold Sys2Proof.Machine.countReceived
  with_reducible repeat' first
    | assumption | apply Named.ledgerAdd | simp only [Named.upd] | dsimp only | split | intro

theorem Named.settleLength (s : State) (id n : Nat) (hk : RegsOnly rs s0 s) : RegsOnly rs s0 (settleLength s id n) := by
  unfold Sys2Proof.Machine.settleLength
  with_reducible repeat' first
    | assumption | apply Named.forEach | apply Named.ledgerAdd | apply Named.mapCopies | apply Named.foldl
    | apply Named.foldl1 | simp only [Named.upd] | dsimp only | split | intro

theorem Named.appendOctets (s : State) (id : Nat) (more : List Byte) (hk : RegsOnly rs s0 s)
    : RegsOnly rs s0 (appendOctets s id more) := by
  unfold Sys2Proof.Machine.appendOctets
  with_reducible repeat' first
    | assumption | apply Named.mapPackets | apply Named.mapCopies | apply Named.foldl | apply Named.foldl1
    | simp only [Named.upd] | dsimp only | split | intro

theorem Named.execFrameTailArrival (frame : Nat) (octets : List Byte) (verdict : TailVerdict) (s : State)
    (hk : RegsOnly rs s0 s) (r_fltRec : RegName.fltRec ∈ rs) (r_fltFirst : RegName.fltFirst ∈ rs)
    (r_fltCount0 : RegName.fltCount0 ∈ rs) (r_fltCount1 : RegName.fltCount1 ∈ rs) (r_fltCount2 : RegName.fltCount2 ∈ rs)
    (r_escCfg : RegName.escCfg ∈ rs) (r_mktStatus : RegName.mktStatus ∈ rs) (r_poolFree : RegName.poolFree ∈ rs)
    (r_mktCount0 : RegName.mktCount0 ∈ rs) (r_mktCount3 : RegName.mktCount3 ∈ rs) (r_mktCount4 : RegName.mktCount4 ∈ rs)
    (r_mktCount5 : RegName.mktCount5 ∈ rs) (r_mktCount6 : RegName.mktCount6 ∈ rs) (r_partUsed : RegName.partUsed ∈ rs)
    (r_qcfgPitch : RegName.qcfgPitch ∈ rs) (r_qcfgOcc : RegName.qcfgOcc ∈ rs) (r_pfcState : RegName.pfcState ∈ rs)
    (r_ingUsed : RegName.ingUsed ∈ rs) (r_hdrmUsed : RegName.hdrmUsed ∈ rs) (r_stagingFree : RegName.stagingFree ∈ rs)
    (r_splCount : RegName.splCount ∈ rs) (r_stackStatus : RegName.stackStatus ∈ rs) (r_qspillStatus : RegName.qspillStatus ∈ rs)
    (r_talCount : RegName.talCount ∈ rs) (r_pmcCount : RegName.pmcCount ∈ rs)
    : NamedO rs s0 (execFrameTailArrival frame octets verdict s) := by
  unfold Sys2Proof.Machine.execFrameTailArrival
  with_reducible repeat' first
    | assumption | apply Named.settleLength | apply Named.countReceived | apply Named.growFrame | apply Named.badFrame
    | apply Named.appendOctets | apply Named.forEach | apply Named.growRecord | apply NamedO.next | simp only [Named.upd]
    | dsimp only | split | intro

theorem Named.setCtx (s : State) (n i : Nat) (x : Ctx) (hk : RegsOnly rs s0 s) : RegsOnly rs s0 (setCtx s n i x) := by
  unfold Sys2Proof.Machine.setCtx
  with_reducible repeat' first
    | assumption | apply Named.setStall | simp only [Named.upd] | dsimp only | split | intro

theorem Named.setStateReg (s : State) (n i : Nat) (v : BitVec 64) (hk : RegsOnly rs s0 s)
    : RegsOnly rs s0 (setStateReg s n i v) := by
  unfold Sys2Proof.Machine.setStateReg
  with_reducible repeat' first
    | assumption | simp only [Named.upd] | dsimp only | split | intro

theorem Named.flushLate (s : State) (n : Nat) (hk : RegsOnly rs s0 s) : RegsOnly rs s0 (flushLate s n) := by
  unfold Sys2Proof.Machine.flushLate
  with_reducible repeat' first
    | assumption | apply Named.forEach | apply Named.setStateReg | apply Named.setStall | simp only [Named.upd] | dsimp only
    | split | intro

theorem Named.flushHost (s : State) (n : Nat) (hk : RegsOnly rs s0 s) (r_stateCtrl : RegName.stateCtrl ∈ rs)
    : RegsOnly rs s0 (flushHost s n) := by
  unfold Sys2Proof.Machine.flushHost
  with_reducible repeat' first
    | assumption | apply Named.flushLate | apply Named.forEach | apply Named.setStateReg | apply Named.setStall
    | apply Named.setBit | apply RegIn.stateCtrl | simp only [Named.upd] | dsimp only | split | intro

theorem Named.writePort (s : State) (n : Nat) (x : Ctx) (k : Nat) (low : Bool) (v : BitVec 64) (hk : RegsOnly rs s0 s)
    : RegsOnly rs s0 (writePort s n x k low v).1 := by
  unfold Sys2Proof.Machine.writePort
  with_reducible repeat' first
    | assumption | apply Named.setStateReg | simp only [Named.upd] | dsimp only | split | intro

theorem Named.finishCtx (s : State) (n i : Nat) (x : Ctx) (discard : Bool) (hk : RegsOnly rs s0 s)
    (r_stateCtrl : RegName.stateCtrl ∈ rs) : RegsOnly rs s0 (finishCtx s n i x discard) := by
  unfold Sys2Proof.Machine.finishCtx
  with_reducible repeat' first
    | assumption | apply Named.setStall | apply Named.flushHost | apply Named.setCtx | simp only [Named.upd] | dsimp only
    | split | intro

theorem Named.stallRecord (s : State) (n k space off : Nat) (hk : RegsOnly rs s0 s) (r_fltRec : RegName.fltRec ∈ rs)
    (r_fltFirst : RegName.fltFirst ∈ rs) (r_fltCount0 : RegName.fltCount0 ∈ rs) (r_fltCount1 : RegName.fltCount1 ∈ rs)
    (r_fltCount2 : RegName.fltCount2 ∈ rs) (r_escCfg : RegName.escCfg ∈ rs) : RegsOnly rs s0 (stallRecord s n k space off) := by
  unfold Sys2Proof.Machine.stallRecord
  with_reducible repeat' first
    | assumption | apply Named.drawn | apply Named.fault | simp only [Named.upd] | dsimp only | split | intro

theorem Named.stallFault (s : State) (n i : Nat) (x : Ctx) (k space off : Nat) (hk : RegsOnly rs s0 s)
    (r_fltRec : RegName.fltRec ∈ rs) (r_fltFirst : RegName.fltFirst ∈ rs) (r_fltCount0 : RegName.fltCount0 ∈ rs)
    (r_fltCount1 : RegName.fltCount1 ∈ rs) (r_fltCount2 : RegName.fltCount2 ∈ rs) (r_escCfg : RegName.escCfg ∈ rs)
    (r_faultCount : RegName.faultCount ∈ rs) (r_stateCtrl : RegName.stateCtrl ∈ rs)
    : RegsOnly rs s0 (stallFault s n i x k space off) := by
  unfold Sys2Proof.Machine.stallFault
  with_reducible repeat' first
    | assumption | apply Named.finishCtx | apply Named.stallRecord | apply Named.add64 | apply RegIn.faultCount
    | apply RegIn.faultCount4 | simp only [Named.upd] | dsimp only | split | intro

theorem Named.touchEntry (s : State) (t hall : Nat) (e : Entry) (hk : RegsOnly rs s0 s) (r_desc : RegName.desc ∈ rs)
    : RegsOnly rs s0 (touchEntry s t hall e) := by
  unfold Sys2Proof.Machine.touchEntry
  with_reducible repeat' first
    | assumption | apply Named.modEntry | simp only [Named.upd] | dsimp only | split | intro

theorem Named.learnFrom (s v : State) (r : LkReq) (e : Option Entry) (hk : RegsOnly rs s0 s)
    (r_fltCount2 : RegName.fltCount2 ∈ rs) (r_escCfg : RegName.escCfg ∈ rs) (r_clerkCount : RegName.clerkCount ∈ rs)
    (r_pmcCount : RegName.pmcCount ∈ rs) : RegsOnly rs s0 (learnFrom s v r e) := by
  unfold Sys2Proof.Machine.learnFrom
  with_reducible repeat' first
    | assumption | apply Named.learnOffer | simp only [Named.upd] | dsimp only | split | intro

theorem Named.lookupFault (s v : State) (hall : Nat) (r : LkReq) (hk : RegsOnly rs s0 s)
    (r_fltCount2 : RegName.fltCount2 ∈ rs) (r_escCfg : RegName.escCfg ∈ rs) (r_lkpFaults : RegName.lkpFaults ∈ rs)
    (r_clerkCount : RegName.clerkCount ∈ rs) (r_pmcCount : RegName.pmcCount ∈ rs)
    : RegsOnly rs s0 (lookupFault s v hall r).1 := by
  unfold Sys2Proof.Machine.lookupFault
  with_reducible repeat' first
    | assumption | apply Named.add64 | apply Named.learnFrom | apply RegIn.lkpFaults | apply RegIn.lkpFaults4
    | simp only [Named.upd] | dsimp only | split | intro

theorem Named.lookupRead (s : State) (p hall : Nat) (r : LkReq) (hk : RegsOnly rs s0 s)
    (r_fltCount2 : RegName.fltCount2 ∈ rs) (r_escCfg : RegName.escCfg ∈ rs) (r_lkpFaults : RegName.lkpFaults ∈ rs)
    (r_clerkCount : RegName.clerkCount ∈ rs) (r_desc : RegName.desc ∈ rs) (r_pmcCount : RegName.pmcCount ∈ rs)
    : RegsOnly rs s0 (lookupRead s p hall r).1 := by
  unfold Sys2Proof.Machine.lookupRead
  with_reducible repeat' first
    | assumption | apply Named.learnFrom | apply Named.lookupFault | apply Named.pmcEvent | apply Named.touchEntry
    | simp only [Named.upd] | dsimp only | split | intro

theorem Named.runLookup (s : State) (p hall : Nat) (r : LkReq) (err : Option (Nat × Bool)) (hk : RegsOnly rs s0 s)
    (r_fltRec : RegName.fltRec ∈ rs) (r_fltFirst : RegName.fltFirst ∈ rs) (r_fltCount0 : RegName.fltCount0 ∈ rs)
    (r_fltCount1 : RegName.fltCount1 ∈ rs) (r_fltCount2 : RegName.fltCount2 ∈ rs) (r_escCfg : RegName.escCfg ∈ rs)
    (r_lkpFaults : RegName.lkpFaults ∈ rs) (r_hallEcc : RegName.hallEcc ∈ rs) (r_clerkCount : RegName.clerkCount ∈ rs)
    (r_desc : RegName.desc ∈ rs) (r_pmcCount : RegName.pmcCount ∈ rs) : RegsOnly rs s0 (runLookup s p hall r err).1 := by
  unfold Sys2Proof.Machine.runLookup
  with_reducible repeat' first
    | assumption | apply Named.hallAdvance | apply Named.pmcEvent | apply Named.add64 | apply Named.lookupFault
    | apply Named.drawn | apply Named.rowError | apply Named.lookupRead | apply Named.rowCorrected | apply RegIn.lkpFaults
    | apply RegIn.lkpFaults4 | simp only [Named.upd] | dsimp only | split | intro

theorem Named.execLookupResult (stall ctx slot : Nat) (err : Option (Nat × Bool)) (s : State) (hk : RegsOnly rs s0 s)
    (r_fltRec : RegName.fltRec ∈ rs) (r_fltFirst : RegName.fltFirst ∈ rs) (r_fltCount0 : RegName.fltCount0 ∈ rs)
    (r_fltCount1 : RegName.fltCount1 ∈ rs) (r_fltCount2 : RegName.fltCount2 ∈ rs) (r_escCfg : RegName.escCfg ∈ rs)
    (r_lkpFaults : RegName.lkpFaults ∈ rs) (r_hallEcc : RegName.hallEcc ∈ rs) (r_clerkCount : RegName.clerkCount ∈ rs)
    (r_desc : RegName.desc ∈ rs) (r_pmcCount : RegName.pmcCount ∈ rs)
    : NamedO rs s0 (execLookupResult stall ctx slot err s) := by
  unfold Sys2Proof.Machine.execLookupResult
  with_reducible repeat' first
    | assumption | apply Named.runLookup | apply Named.setCtx | apply NamedO.next | simp only [Named.upd] | dsimp only
    | split | intro

theorem Named.startMeter (s : State) (n : Nat) (x : Ctx) (idx : Nat) (c : Option Nat) (hk : RegsOnly rs s0 s)
    : RegsOnly rs s0 (startMeter s n x idx c).1 := by
  unfold Sys2Proof.Machine.startMeter
  with_reducible repeat' first
    | assumption | simp only [Named.upd] | dsimp only | split | intro

theorem Named.execMeterColour (stall ctx : Nat) (s : State) (hk : RegsOnly rs s0 s) (r_stateCtrl : RegName.stateCtrl ∈ rs)
    : NamedO rs s0 (execMeterColour stall ctx s) := by
  unfold Sys2Proof.Machine.execMeterColour
  with_reducible repeat' first
    | assumption | apply Named.finishCtx | apply Named.setCtx | apply NamedO.next | simp only [Named.upd] | dsimp only
    | split | intro

theorem Named.runCnt (s : State) (n : Nat) (x : Ctx) (v w : Nat) (x' : Ctx) (hk : RegsOnly rs s0 s)
    : RegsOnly rs s0 (runCnt s n x v w x').1 := by
  unfold Sys2Proof.Machine.runCnt
  with_reducible repeat' first
    | assumption | apply Named.ledgerPacket | apply Named.startMeter | simp only [Named.upd] | dsimp only | split | intro

theorem Named.runPorts (s : State) (n i : Nat) (k : Writes) (x : Ctx) (hk : RegsOnly rs s0 s)
    : RegsOnly rs s0 (runPorts s n i k x).1 := by
  unfold Sys2Proof.Machine.runPorts
  with_reducible repeat' first
    | assumption | apply Named.writePort | apply Named.foldl | apply Named.foldl1 | simp only [Named.upd] | dsimp only
    | split | intro

theorem Named.afterWord (s : State) (n i : Nat) (x : Ctx) (a : Nat) (nxt : Option Nat) (hk : RegsOnly rs s0 s)
    (r_fltRec : RegName.fltRec ∈ rs) (r_fltFirst : RegName.fltFirst ∈ rs) (r_fltCount0 : RegName.fltCount0 ∈ rs)
    (r_fltCount1 : RegName.fltCount1 ∈ rs) (r_fltCount2 : RegName.fltCount2 ∈ rs) (r_escCfg : RegName.escCfg ∈ rs)
    (r_faultCount : RegName.faultCount ∈ rs) (r_stateCtrl : RegName.stateCtrl ∈ rs)
    : RegsOnly rs s0 (afterWord s n i x a nxt) := by
  unfold Sys2Proof.Machine.afterWord
  with_reducible repeat' first
    | assumption | apply Named.finishCtx | apply Named.stallFault | apply Named.flushHost | apply Named.setCtx
    | simp only [Named.upd] | dsimp only | split | intro

theorem Named.issueWord (s : State) (n i : Nat) (x : Ctx) (a w : Nat) (hk : RegsOnly rs s0 s)
    (r_fltRec : RegName.fltRec ∈ rs) (r_fltFirst : RegName.fltFirst ∈ rs) (r_fltCount0 : RegName.fltCount0 ∈ rs)
    (r_fltCount1 : RegName.fltCount1 ∈ rs) (r_fltCount2 : RegName.fltCount2 ∈ rs) (r_escCfg : RegName.escCfg ∈ rs)
    (r_faultCount : RegName.faultCount ∈ rs) (r_stateCtrl : RegName.stateCtrl ∈ rs) (r_pmcCount : RegName.pmcCount ∈ rs)
    : RegsOnly rs s0 (issueWord s n i x a w) := by
  unfold Sys2Proof.Machine.issueWord
  with_reducible repeat' first
    | assumption | apply Named.runCnt | apply Named.runPorts | apply Named.pmcEvent | apply Named.whenB
    | apply Named.afterWord | simp only [Named.upd] | dsimp only | split | intro

theorem Named.takeWord (s : State) (n i : Nat) (x : Ctx) (hk : RegsOnly rs s0 s) (r_fltRec : RegName.fltRec ∈ rs)
    (r_fltFirst : RegName.fltFirst ∈ rs) (r_fltCount0 : RegName.fltCount0 ∈ rs) (r_fltCount1 : RegName.fltCount1 ∈ rs)
    (r_fltCount2 : RegName.fltCount2 ∈ rs) (r_escCfg : RegName.escCfg ∈ rs) (r_faultCount : RegName.faultCount ∈ rs)
    (r_stateCtrl : RegName.stateCtrl ∈ rs) (r_pmcCount : RegName.pmcCount ∈ rs) : RegsOnly rs s0 (takeWord s n i x) := by
  unfold Sys2Proof.Machine.takeWord
  with_reducible repeat' first
    | assumption | apply Named.stallFault | apply Named.issueWord | simp only [Named.upd] | dsimp only | split | intro

theorem Named.parityFail (s : State) (n : Nat) (x : Ctx) (backingBad : Bool) (hk : RegsOnly rs s0 s)
    : RegsOnly rs s0 (parityFail s n x backingBad) := by
  unfold Sys2Proof.Machine.parityFail
  with_reducible repeat' first
    | assumption | apply Named.setStall | simp only [Named.upd] | dsimp only | split | intro

theorem Named.constError (s : State) (n : Nat) (x : Ctx) (k : Nat) (uncorr : Bool) (hk : RegsOnly rs s0 s)
    (r_fltRec : RegName.fltRec ∈ rs) (r_fltFirst : RegName.fltFirst ∈ rs) (r_fltCount0 : RegName.fltCount0 ∈ rs)
    (r_fltCount1 : RegName.fltCount1 ∈ rs) (r_fltCount2 : RegName.fltCount2 ∈ rs) (r_escCfg : RegName.escCfg ∈ rs)
    (r_stallEcc : RegName.stallEcc ∈ rs) : RegsOnly rs s0 (constError s n x k uncorr) := by
  unfold Sys2Proof.Machine.constError
  with_reducible repeat' first
    | assumption | apply Named.satF | apply Named.stallRecord | apply RegIn.stallEcc | simp only [Named.upd] | dsimp only
    | split | intro

theorem Named.constSeen (s : State) (n : Nat) (x : Ctx) (constErr : Option (Nat × Bool)) (hk : RegsOnly rs s0 s)
    (r_fltRec : RegName.fltRec ∈ rs) (r_fltFirst : RegName.fltFirst ∈ rs) (r_fltCount0 : RegName.fltCount0 ∈ rs)
    (r_fltCount1 : RegName.fltCount1 ∈ rs) (r_fltCount2 : RegName.fltCount2 ∈ rs) (r_escCfg : RegName.escCfg ∈ rs)
    (r_stallEcc : RegName.stallEcc ∈ rs) : RegsOnly rs s0 (constSeen s n x constErr) := by
  unfold Sys2Proof.Machine.constSeen
  with_reducible repeat' first
    | assumption | apply Named.constError | simp only [Named.upd] | dsimp only | split | intro

theorem Named.readWord (s : State) (n i : Nat) (x : Ctx) (parityBad backingBad : Bool) (constErr : Option (Nat × Bool))
    (hk : RegsOnly rs s0 s) (r_fltRec : RegName.fltRec ∈ rs) (r_fltFirst : RegName.fltFirst ∈ rs)
    (r_fltCount0 : RegName.fltCount0 ∈ rs) (r_fltCount1 : RegName.fltCount1 ∈ rs) (r_fltCount2 : RegName.fltCount2 ∈ rs)
    (r_escCfg : RegName.escCfg ∈ rs) (r_faultCount : RegName.faultCount ∈ rs) (r_stallEcc : RegName.stallEcc ∈ rs)
    (r_stateCtrl : RegName.stateCtrl ∈ rs) (r_pmcCount : RegName.pmcCount ∈ rs)
    : RegsOnly rs s0 (readWord s n i x parityBad backingBad constErr) := by
  unfold Sys2Proof.Machine.readWord
  with_reducible repeat' first
    | assumption | apply Named.parityFail | apply Named.takeWord | apply Named.constSeen | simp only [Named.upd] | dsimp only
    | split | intro

theorem Named.execStallWordIssue (stall ctx : Nat) (parityBad backingBad : Bool) (constErr : Option (Nat × Bool)) (s : State)
    (hk : RegsOnly rs s0 s) (r_fltRec : RegName.fltRec ∈ rs) (r_fltFirst : RegName.fltFirst ∈ rs)
    (r_fltCount0 : RegName.fltCount0 ∈ rs) (r_fltCount1 : RegName.fltCount1 ∈ rs) (r_fltCount2 : RegName.fltCount2 ∈ rs)
    (r_escCfg : RegName.escCfg ∈ rs) (r_faultCount : RegName.faultCount ∈ rs) (r_stallEcc : RegName.stallEcc ∈ rs)
    (r_stateCtrl : RegName.stateCtrl ∈ rs) (r_pmcCount : RegName.pmcCount ∈ rs)
    : NamedO rs s0 (execStallWordIssue stall ctx parityBad backingBad constErr s) := by
  unfold Sys2Proof.Machine.execStallWordIssue
  with_reducible repeat' first
    | assumption | apply Named.readWord | apply NamedO.next | simp only [Named.upd] | dsimp only | split | intro

theorem Named.execWaitTimeout (stall ctx : Nat) (s : State) (hk : RegsOnly rs s0 s) (r_fltRec : RegName.fltRec ∈ rs)
    (r_fltFirst : RegName.fltFirst ∈ rs) (r_fltCount0 : RegName.fltCount0 ∈ rs) (r_fltCount1 : RegName.fltCount1 ∈ rs)
    (r_fltCount2 : RegName.fltCount2 ∈ rs) (r_escCfg : RegName.escCfg ∈ rs) (r_faultCount : RegName.faultCount ∈ rs)
    (r_stateCtrl : RegName.stateCtrl ∈ rs) : NamedO rs s0 (execWaitTimeout stall ctx s) := by
  unfold Sys2Proof.Machine.execWaitTimeout
  with_reducible repeat' first
    | assumption | apply Named.stallFault | apply NamedO.next | simp only [Named.upd] | dsimp only | split | intro

theorem Named.grantLock (s : State) (n : Nat) (x : Ctx) (idx : Nat) (hk : RegsOnly rs s0 s)
    : RegsOnly rs s0 (grantLock s n x idx).1 := by
  unfold Sys2Proof.Machine.grantLock
  with_reducible repeat' first
    | assumption | apply Named.writePort | apply Named.foldl | apply Named.foldl1 | simp only [Named.upd] | dsimp only
    | split | intro

theorem Named.execStatefulLockGrant (stall ctx port : Nat) (s : State) (hk : RegsOnly rs s0 s)
    (r_stateCtrl : RegName.stateCtrl ∈ rs) : NamedO rs s0 (execStatefulLockGrant stall ctx port s) := by
  unfold Sys2Proof.Machine.execStatefulLockGrant
  with_reducible repeat' first
    | assumption | apply Named.grantLock | apply Named.flushHost | apply Named.setCtx | apply NamedO.next
    | simp only [Named.upd] | dsimp only | split | intro

theorem Named.execStatefulReadData (stall ctx port : Nat) (s : State) (hk : RegsOnly rs s0 s)
    : NamedO rs s0 (execStatefulReadData stall ctx port s) := by
  unfold Sys2Proof.Machine.execStatefulReadData
  with_reducible repeat' first
    | assumption | apply Named.setCtx | apply NamedO.next | simp only [Named.upd] | dsimp only | split | intro

theorem Named.execStallAdmit (stall : Nat) (s : State) (hk : RegsOnly rs s0 s) (r_fltCount2 : RegName.fltCount2 ∈ rs)
    (r_escCfg : RegName.escCfg ∈ rs) (r_pmcCount : RegName.pmcCount ∈ rs) : NamedO rs s0 (execStallAdmit stall s) := by
  unfold Sys2Proof.Machine.execStallAdmit
  with_reducible repeat' first
    | assumption | apply Named.setStall | apply Named.pmcEvent | apply NamedO.next | simp only [Named.upd] | dsimp only
    | split | intro

theorem Named.leaveLast (s : State) (n : Nat) (x : Ctx) (hk : RegsOnly rs s0 s) : RegsOnly rs s0 (leaveLast s n x) := by
  unfold Sys2Proof.Machine.leaveLast
  with_reducible repeat' first
    | assumption | simp only [Named.upd] | dsimp only | split | intro

theorem Named.execStallDepart (stall : Nat) (s : State) (hk : RegsOnly rs s0 s) (r_stateCtrl : RegName.stateCtrl ∈ rs)
    : NamedO rs s0 (execStallDepart stall s) := by
  unfold Sys2Proof.Machine.execStallDepart
  with_reducible repeat' first
    | assumption | apply Named.flushHost | apply Named.setStall | apply Named.leaveLast | apply Named.passOn
    | apply NamedO.next | simp only [Named.upd] | dsimp only | split | intro

theorem Named.endReload (s : State) (n : Nat) (r : Nat × Nat × Bool) (hk : RegsOnly rs s0 s) (r_fltRec : RegName.fltRec ∈ rs)
    (r_fltFirst : RegName.fltFirst ∈ rs) (r_fltCount0 : RegName.fltCount0 ∈ rs) (r_fltCount1 : RegName.fltCount1 ∈ rs)
    (r_fltCount2 : RegName.fltCount2 ∈ rs) (r_escCfg : RegName.escCfg ∈ rs) (r_stallEcc : RegName.stallEcc ∈ rs)
    : RegsOnly rs s0 (endReload s n r) := by
  unfold Sys2Proof.Machine.endReload
  with_reducible repeat' first
    | assumption | apply Named.satF | apply Named.stallRecord | apply Named.raise | apply RegIn.stallEcc
    | simp only [Named.upd] | dsimp only | split | intro

theorem Named.execParityReloadDone (stall : Nat) (s : State) (hk : RegsOnly rs s0 s) (r_fltRec : RegName.fltRec ∈ rs)
    (r_fltFirst : RegName.fltFirst ∈ rs) (r_fltCount0 : RegName.fltCount0 ∈ rs) (r_fltCount1 : RegName.fltCount1 ∈ rs)
    (r_fltCount2 : RegName.fltCount2 ∈ rs) (r_escCfg : RegName.escCfg ∈ rs) (r_faultCount : RegName.faultCount ∈ rs)
    (r_stallEcc : RegName.stallEcc ∈ rs) (r_stateCtrl : RegName.stateCtrl ∈ rs)
    : NamedO rs s0 (execParityReloadDone stall s) := by
  unfold Sys2Proof.Machine.execParityReloadDone
  with_reducible repeat' first
    | assumption | apply Named.forEach | apply Named.endReload | apply Named.setStall | apply Named.stallFault
    | apply NamedO.next | simp only [Named.upd] | dsimp only | split | intro

theorem Named.execPipeQuiesce (p : Nat) (s : State) (hk : RegsOnly rs s0 s) (r_pipeCtrl : RegName.pipeCtrl ∈ rs)
    : NamedO rs s0 (execPipeQuiesce p s) := by
  unfold Sys2Proof.Machine.execPipeQuiesce
  with_reducible repeat' first
    | assumption | apply Named.holdWrite | apply Named.setBit | apply RegIn.pipeCtrl | apply NamedO.next
    | simp only [Named.upd] | dsimp only | split | intro

theorem Named.execQuiesced (p : Nat) (s : State) (hk : RegsOnly rs s0 s) (r_fltCount2 : RegName.fltCount2 ∈ rs)
    (r_escCfg : RegName.escCfg ∈ rs) (r_pipeStatus : RegName.pipeStatus ∈ rs) : NamedO rs s0 (execQuiesced p s) := by
  unfold Sys2Proof.Machine.execQuiesced
  with_reducible repeat' first
    | assumption | apply Named.raise | apply Named.setBit | apply RegIn.pipeStatus | apply NamedO.next
    | simp only [Named.upd] | dsimp only | split | intro

theorem Named.stepWord (stall : Nat) (parityBad backingBad : Bool) (constErr : Option (Nat × Bool)) (s : State)
    (hk : RegsOnly rs s0 s) (r_fltRec : RegName.fltRec ∈ rs) (r_fltFirst : RegName.fltFirst ∈ rs)
    (r_fltCount0 : RegName.fltCount0 ∈ rs) (r_fltCount1 : RegName.fltCount1 ∈ rs) (r_fltCount2 : RegName.fltCount2 ∈ rs)
    (r_escCfg : RegName.escCfg ∈ rs) (r_faultCount : RegName.faultCount ∈ rs) (r_stallEcc : RegName.stallEcc ∈ rs)
    (r_stateCtrl : RegName.stateCtrl ∈ rs) (r_pmcCount : RegName.pmcCount ∈ rs)
    : RegsOnly rs s0 (stepWord stall parityBad backingBad constErr s) := by
  unfold Sys2Proof.Machine.stepWord
  with_reducible repeat' first
    | assumption | apply Named.readWord | simp only [Named.upd] | dsimp only | split | intro

theorem Named.stallCtrl (stall : Nat) (v : Word) (parityBad backingBad : Bool) (constErr : Option (Nat × Bool)) (s : State)
    (hk : RegsOnly rs s0 s) (r_fltRec : RegName.fltRec ∈ rs) (r_fltFirst : RegName.fltFirst ∈ rs)
    (r_fltCount0 : RegName.fltCount0 ∈ rs) (r_fltCount1 : RegName.fltCount1 ∈ rs) (r_fltCount2 : RegName.fltCount2 ∈ rs)
    (r_escCfg : RegName.escCfg ∈ rs) (r_faultCount : RegName.faultCount ∈ rs) (r_stallCtrl : RegName.stallCtrl ∈ rs)
    (r_stallEcc : RegName.stallEcc ∈ rs) (r_stateCtrl : RegName.stateCtrl ∈ rs) (r_pmcCount : RegName.pmcCount ∈ rs)
    : RegsOnly rs s0 (stallCtrl stall v parityBad backingBad constErr s) := by
  unfold Sys2Proof.Machine.stallCtrl
  with_reducible repeat' first
    | assumption | apply Named.holdWrite | apply Named.setBit | apply Named.stepWord | apply RegIn.stallCtrl
    | simp only [Named.upd] | dsimp only | split | intro

theorem Named.execStallHalt (stall : Nat) (halt : Bool) (s : State) (hk : RegsOnly rs s0 s) (r_fltRec : RegName.fltRec ∈ rs)
    (r_fltFirst : RegName.fltFirst ∈ rs) (r_fltCount0 : RegName.fltCount0 ∈ rs) (r_fltCount1 : RegName.fltCount1 ∈ rs)
    (r_fltCount2 : RegName.fltCount2 ∈ rs) (r_escCfg : RegName.escCfg ∈ rs) (r_faultCount : RegName.faultCount ∈ rs)
    (r_stallCtrl : RegName.stallCtrl ∈ rs) (r_stallEcc : RegName.stallEcc ∈ rs) (r_stateCtrl : RegName.stateCtrl ∈ rs)
    (r_pmcCount : RegName.pmcCount ∈ rs) : NamedO rs s0 (execStallHalt stall halt s) := by
  unfold Sys2Proof.Machine.execStallHalt
  with_reducible repeat' first
    | assumption | apply Named.stallCtrl | apply NamedO.next | simp only [Named.upd] | dsimp only | split | intro

theorem Named.execStallStep (stall : Nat) (parityBad backingBad : Bool) (constErr : Option (Nat × Bool)) (s : State)
    (hk : RegsOnly rs s0 s) (r_fltRec : RegName.fltRec ∈ rs) (r_fltFirst : RegName.fltFirst ∈ rs)
    (r_fltCount0 : RegName.fltCount0 ∈ rs) (r_fltCount1 : RegName.fltCount1 ∈ rs) (r_fltCount2 : RegName.fltCount2 ∈ rs)
    (r_escCfg : RegName.escCfg ∈ rs) (r_faultCount : RegName.faultCount ∈ rs) (r_stallCtrl : RegName.stallCtrl ∈ rs)
    (r_stallEcc : RegName.stallEcc ∈ rs) (r_stateCtrl : RegName.stateCtrl ∈ rs) (r_pmcCount : RegName.pmcCount ∈ rs)
    : NamedO rs s0 (execStallStep stall parityBad backingBad constErr s) := by
  unfold Sys2Proof.Machine.execStallStep
  with_reducible repeat' first
    | assumption | apply Named.stallCtrl | apply NamedO.next | simp only [Named.upd] | dsimp only | split | intro

theorem Named.stateAddr (s : State) (n : Nat) (v : Word) (hk : RegsOnly rs s0 s) (r_stateCtrl : RegName.stateCtrl ∈ rs)
    : RegsOnly rs s0 (stateAddr s n v) := by
  unfold Sys2Proof.Machine.stateAddr
  with_reducible repeat' first
    | assumption | apply Named.setF | apply RegIn.stateCtrl | simp only [Named.upd] | dsimp only | split | intro

theorem Named.execStateRead (stall : Nat) (value : Word) (s : State) (hk : RegsOnly rs s0 s)
    (r_stateCtrl : RegName.stateCtrl ∈ rs) (r_stateData : RegName.stateData ∈ rs)
    : NamedO rs s0 (execStateRead stall value s) := by
  unfold Sys2Proof.Machine.execStateRead
  with_reducible repeat' first
    | assumption | apply Named.holdWrite | apply Named.setReg64 | apply Named.stateAddr | apply RegIn.stateData
    | apply RegIn.stateData4 | apply NamedO.next | simp only [Named.upd] | dsimp only | split | intro

theorem Named.execStateWrite (stall : Nat) (value : Word) (s : State) (hk : RegsOnly rs s0 s)
    (r_stateCtrl : RegName.stateCtrl ∈ rs) : NamedO rs s0 (execStateWrite stall value s) := by
  unfold Sys2Proof.Machine.execStateWrite
  with_reducible repeat' first
    | assumption | apply Named.holdWrite | apply Named.stateAddr | apply Named.setBit | apply Named.setStall
    | apply Named.setStateReg | apply RegIn.stateCtrl | apply NamedO.next | simp only [Named.upd] | dsimp only | split
    | intro

theorem Named.execMeterRead (stall : Nat) (value : Word) (s : State) (hk : RegsOnly rs s0 s)
    (r_meterCtrl : RegName.meterCtrl ∈ rs) (r_meterData : RegName.meterData ∈ rs)
    : NamedO rs s0 (execMeterRead stall value s) := by
  unfold Sys2Proof.Machine.execMeterRead
  with_reducible repeat' first
    | assumption | apply Named.holdWrite | apply Named.setF | apply Named.forEach | apply Named.setReg
    | apply RegIn.meterCtrl | apply RegIn.meterData | apply NamedO.next | simp only [Named.upd] | dsimp only | split | intro

theorem Named.execMeterWrite (stall : Nat) (value : Word) (s : State) (hk : RegsOnly rs s0 s)
    (r_meterCtrl : RegName.meterCtrl ∈ rs) : NamedO rs s0 (execMeterWrite stall value s) := by
  unfold Sys2Proof.Machine.execMeterWrite
  with_reducible repeat' first
    | assumption | apply Named.holdWrite | apply Named.setF | apply Named.setBit | apply RegIn.meterCtrl | apply NamedO.next
    | simp only [Named.upd] | dsimp only | split | intro

theorem Named.dropFlight (s : State) (reason : Nat) (f : Flight) (hk : RegsOnly rs s0 s) (r_fltRec : RegName.fltRec ∈ rs)
    (r_fltFirst : RegName.fltFirst ∈ rs) (r_fltCount0 : RegName.fltCount0 ∈ rs) (r_fltCount1 : RegName.fltCount1 ∈ rs)
    (r_fltCount2 : RegName.fltCount2 ∈ rs) (r_escCfg : RegName.escCfg ∈ rs) (r_mktStatus : RegName.mktStatus ∈ rs)
    (r_poolFree : RegName.poolFree ∈ rs) (r_mktCount0 : RegName.mktCount0 ∈ rs) (r_mktCount3 : RegName.mktCount3 ∈ rs)
    (r_mktCount4 : RegName.mktCount4 ∈ rs) (r_mktCount5 : RegName.mktCount5 ∈ rs) (r_mktCount6 : RegName.mktCount6 ∈ rs)
    (r_partUsed : RegName.partUsed ∈ rs) (r_qcfgPitch : RegName.qcfgPitch ∈ rs) (r_qcfgOcc : RegName.qcfgOcc ∈ rs)
    (r_pfcState : RegName.pfcState ∈ rs) (r_ingUsed : RegName.ingUsed ∈ rs) (r_hdrmUsed : RegName.hdrmUsed ∈ rs)
    (r_stagingFree : RegName.stagingFree ∈ rs) (r_splCount : RegName.splCount ∈ rs) (r_stackStatus : RegName.stackStatus ∈ rs)
    (r_qspillStatus : RegName.qspillStatus ∈ rs) (r_talCount : RegName.talCount ∈ rs) (r_pmcCount : RegName.pmcCount ∈ rs)
    : RegsOnly rs s0 (dropFlight s reason f) := by
  unfold Sys2Proof.Machine.dropFlight
  with_reducible repeat' first
    | assumption | apply Named.dropDequeued | apply Named.dropPacket | simp only [Named.upd] | dsimp only | split | intro

theorem Named.dropInStall (old : Packet → Bool) (reason : Nat) (s : State) (n : Nat) (hk : RegsOnly rs s0 s)
    (r_fltRec : RegName.fltRec ∈ rs) (r_fltFirst : RegName.fltFirst ∈ rs) (r_fltCount0 : RegName.fltCount0 ∈ rs)
    (r_fltCount1 : RegName.fltCount1 ∈ rs) (r_fltCount2 : RegName.fltCount2 ∈ rs) (r_escCfg : RegName.escCfg ∈ rs)
    (r_stateCtrl : RegName.stateCtrl ∈ rs) (r_mktStatus : RegName.mktStatus ∈ rs) (r_poolFree : RegName.poolFree ∈ rs)
    (r_mktCount0 : RegName.mktCount0 ∈ rs) (r_mktCount3 : RegName.mktCount3 ∈ rs) (r_mktCount4 : RegName.mktCount4 ∈ rs)
    (r_mktCount5 : RegName.mktCount5 ∈ rs) (r_mktCount6 : RegName.mktCount6 ∈ rs) (r_partUsed : RegName.partUsed ∈ rs)
    (r_qcfgPitch : RegName.qcfgPitch ∈ rs) (r_qcfgOcc : RegName.qcfgOcc ∈ rs) (r_pfcState : RegName.pfcState ∈ rs)
    (r_ingUsed : RegName.ingUsed ∈ rs) (r_hdrmUsed : RegName.hdrmUsed ∈ rs) (r_stagingFree : RegName.stagingFree ∈ rs)
    (r_splCount : RegName.splCount ∈ rs) (r_stackStatus : RegName.stackStatus ∈ rs) (r_qspillStatus : RegName.qspillStatus ∈ rs)
    (r_talCount : RegName.talCount ∈ rs) (r_pmcCount : RegName.pmcCount ∈ rs) : RegsOnly rs s0 (dropInStall old reason s n) := by
  unfold Sys2Proof.Machine.dropInStall
  with_reducible repeat' first
    | assumption | apply Named.setStall | apply Named.flushHost | apply Named.forEach | apply Named.dropFlight
    | simp only [Named.upd] | dsimp only | split | intro

theorem Named.dropInPipe (old : Packet → Bool) (reason : Nat) (s : State) (p : Nat) (hk : RegsOnly rs s0 s)
    (r_fltRec : RegName.fltRec ∈ rs) (r_fltFirst : RegName.fltFirst ∈ rs) (r_fltCount0 : RegName.fltCount0 ∈ rs) (r_fltCount1 : RegName.fltCount1 ∈ rs) (r_fltCount2 : RegName.fltCount2 ∈ rs) (r_escCfg : RegName.escCfg ∈ rs) (r_stateCtrl : RegName.stateCtrl ∈ rs) (r_mktStatus : RegName.mktStatus ∈ rs) (r_poolFree : RegName.poolFree ∈ rs) (r_mktCount0 : RegName.mktCount0 ∈ rs) (r_mktCount3 : RegName.mktCount3 ∈ rs) (r_mktCount4 : RegName.mktCount4 ∈ rs) (r_mktCount5 : RegName.mktCount5 ∈ rs) (r_mktCount6 : RegName.mktCount6 ∈ rs) (r_partUsed : RegName.partUsed ∈ rs) (r_qcfgPitch : RegName.qcfgPitch ∈ rs) (r_qcfgOcc : RegName.qcfgOcc ∈ rs) (r_pfcState : RegName.pfcState ∈ rs) (r_ingUsed : RegName.ingUsed ∈ rs) (r_hdrmUsed : RegName.hdrmUsed ∈ rs) (r_stagingFree : RegName.stagingFree ∈ rs) (r_splCount : RegName.splCount ∈ rs) (r_stackStatus : RegName.stackStatus ∈ rs) (r_qspillStatus : RegName.qspillStatus ∈ rs) (r_talCount : RegName.talCount ∈ rs) (r_pmcCount : RegName.pmcCount ∈ rs) : RegsOnly rs s0 (dropInPipe old reason s p) := by
  unfold Sys2Proof.Machine.dropInPipe
  lift_lets
  intro n g s1
  have h1 : RegsOnly rs s0 s1 := by
    with_reducible repeat' first | assumption | apply Named.forEach | apply Named.dropInStall | intro
  clear_value s1
  split
  all_goals with_reducible repeat' first
    | assumption | apply Named.forEach | apply Named.dropPacket | apply Named.dropDequeued
    | simp only [Named.upd]  | dsimp only | split | intro

theorem Named.execDrainForce (d : Dom) (s : State) (hk : RegsOnly rs s0 s) (r_fltRec : RegName.fltRec ∈ rs)
    (r_fltFirst : RegName.fltFirst ∈ rs) (r_fltCount0 : RegName.fltCount0 ∈ rs) (r_fltCount1 : RegName.fltCount1 ∈ rs)
    (r_fltCount2 : RegName.fltCount2 ∈ rs) (r_escCfg : RegName.escCfg ∈ rs) (r_domCtrl : RegName.domCtrl ∈ rs)
    (r_stateCtrl : RegName.stateCtrl ∈ rs) (r_mktStatus : RegName.mktStatus ∈ rs) (r_poolFree : RegName.poolFree ∈ rs)
    (r_mktCount0 : RegName.mktCount0 ∈ rs) (r_mktCount3 : RegName.mktCount3 ∈ rs) (r_mktCount4 : RegName.mktCount4 ∈ rs)
    (r_mktCount5 : RegName.mktCount5 ∈ rs) (r_mktCount6 : RegName.mktCount6 ∈ rs) (r_partUsed : RegName.partUsed ∈ rs)
    (r_qcfgPitch : RegName.qcfgPitch ∈ rs) (r_qcfgOcc : RegName.qcfgOcc ∈ rs) (r_pfcState : RegName.pfcState ∈ rs)
    (r_ingUsed : RegName.ingUsed ∈ rs) (r_hdrmUsed : RegName.hdrmUsed ∈ rs) (r_stagingFree : RegName.stagingFree ∈ rs)
    (r_splCount : RegName.splCount ∈ rs) (r_stackStatus : RegName.stackStatus ∈ rs) (r_qspillStatus : RegName.qspillStatus ∈ rs)
    (r_talCount : RegName.talCount ∈ rs) (r_pmcCount : RegName.pmcCount ∈ rs) : NamedO rs s0 (execDrainForce d s) := by
  unfold Sys2Proof.Machine.execDrainForce
  with_reducible repeat' first
    | assumption | apply Named.forEach | apply Named.dropInPipe | apply Named.raise | apply Named.setBit
    | apply RegIn.domCtrl | apply NamedO.next | simp only [Named.upd] | dsimp only | split | intro

theorem Named.editFault (s : State) (c : Copy) (hk : RegsOnly rs s0 s) (r_fltRec : RegName.fltRec ∈ rs)
    (r_fltFirst : RegName.fltFirst ∈ rs) (r_fltCount0 : RegName.fltCount0 ∈ rs) (r_fltCount1 : RegName.fltCount1 ∈ rs)
    (r_fltCount2 : RegName.fltCount2 ∈ rs) (r_escCfg : RegName.escCfg ∈ rs) (r_editFaults : RegName.editFaults ∈ rs)
    (r_mktStatus : RegName.mktStatus ∈ rs) (r_poolFree : RegName.poolFree ∈ rs) (r_mktCount0 : RegName.mktCount0 ∈ rs)
    (r_mktCount3 : RegName.mktCount3 ∈ rs) (r_mktCount4 : RegName.mktCount4 ∈ rs) (r_mktCount5 : RegName.mktCount5 ∈ rs)
    (r_mktCount6 : RegName.mktCount6 ∈ rs) (r_partUsed : RegName.partUsed ∈ rs) (r_qcfgPitch : RegName.qcfgPitch ∈ rs)
    (r_qcfgOcc : RegName.qcfgOcc ∈ rs) (r_pfcState : RegName.pfcState ∈ rs) (r_ingUsed : RegName.ingUsed ∈ rs)
    (r_hdrmUsed : RegName.hdrmUsed ∈ rs) (r_stagingFree : RegName.stagingFree ∈ rs) (r_splCount : RegName.splCount ∈ rs)
    (r_stackStatus : RegName.stackStatus ∈ rs) (r_qspillStatus : RegName.qspillStatus ∈ rs) (r_talCount : RegName.talCount ∈ rs)
    (r_pmcCount : RegName.pmcCount ∈ rs) : RegsOnly rs s0 (editFault s c) := by
  unfold Sys2Proof.Machine.editFault
  with_reducible repeat' first
    | assumption | apply Named.dropDequeued | apply Named.raise | apply Named.add64 | apply RegIn.editFaults
    | apply RegIn.editFaults4 | simp only [Named.upd] | dsimp only | split | intro

theorem Named.execEditor (g : Nat) (s : State) (hk : RegsOnly rs s0 s) (r_fltRec : RegName.fltRec ∈ rs)
    (r_fltFirst : RegName.fltFirst ∈ rs) (r_fltCount0 : RegName.fltCount0 ∈ rs) (r_fltCount1 : RegName.fltCount1 ∈ rs)
    (r_fltCount2 : RegName.fltCount2 ∈ rs) (r_escCfg : RegName.escCfg ∈ rs) (r_editFaults : RegName.editFaults ∈ rs)
    (r_mktStatus : RegName.mktStatus ∈ rs) (r_poolFree : RegName.poolFree ∈ rs) (r_mktCount0 : RegName.mktCount0 ∈ rs)
    (r_mktCount3 : RegName.mktCount3 ∈ rs) (r_mktCount4 : RegName.mktCount4 ∈ rs) (r_mktCount5 : RegName.mktCount5 ∈ rs)
    (r_mktCount6 : RegName.mktCount6 ∈ rs) (r_partUsed : RegName.partUsed ∈ rs) (r_qcfgPitch : RegName.qcfgPitch ∈ rs)
    (r_qcfgOcc : RegName.qcfgOcc ∈ rs) (r_pfcState : RegName.pfcState ∈ rs) (r_ingUsed : RegName.ingUsed ∈ rs)
    (r_hdrmUsed : RegName.hdrmUsed ∈ rs) (r_stagingFree : RegName.stagingFree ∈ rs) (r_splCount : RegName.splCount ∈ rs)
    (r_stackStatus : RegName.stackStatus ∈ rs) (r_qspillStatus : RegName.qspillStatus ∈ rs) (r_talCount : RegName.talCount ∈ rs)
    (r_pmcCount : RegName.pmcCount ∈ rs) : NamedO rs s0 (execEditor g s) := by
  unfold Sys2Proof.Machine.execEditor
  with_reducible repeat' first
    | assumption | apply Named.dropDequeued | apply Named.editFault | apply Named.forEach | apply Named.addTal
    | apply Named.raiseLimited | apply Named.drawn | apply NamedO.next | simp only [Named.upd] | dsimp only | split | intro

theorem Named.ptpReport (s : State) (c : Copy) (stamp : Nat) (hk : RegsOnly rs s0 s) (r_fltCount2 : RegName.fltCount2 ∈ rs)
    (r_escCfg : RegName.escCfg ∈ rs) (r_tsMissed : RegName.tsMissed ∈ rs) : RegsOnly rs s0 (ptpReport s c stamp) := by
  unfold Sys2Proof.Machine.ptpReport
  with_reducible repeat' first
    | assumption | apply Named.raiseLimited | apply Named.add64 | apply Named.notify | apply RegIn.tsMissed
    | apply RegIn.tsMissed4 | simp only [Named.upd] | dsimp only | split | intro

theorem Named.tailFault (s : State) (p : Nat) (hk : RegsOnly rs s0 s) (r_fltRec : RegName.fltRec ∈ rs)
    (r_fltFirst : RegName.fltFirst ∈ rs) (r_fltCount0 : RegName.fltCount0 ∈ rs) (r_fltCount1 : RegName.fltCount1 ∈ rs)
    (r_fltCount2 : RegName.fltCount2 ∈ rs) (r_escCfg : RegName.escCfg ∈ rs) (r_tailFaults : RegName.tailFaults ∈ rs)
    : RegsOnly rs s0 (tailFault s p) := by
  unfold Sys2Proof.Machine.tailFault
  with_reducible repeat' first
    | assumption | apply Named.fault | apply Named.add64 | apply RegIn.tailFaults | apply RegIn.tailFaults4
    | simp only [Named.upd] | dsimp only | split | intro

theorem Named.mirrorCopies (s : State) (p : Packet) (hk : RegsOnly rs s0 s) : RegsOnly rs s0 (mirrorCopies s p).1 := by
  unfold Sys2Proof.Machine.mirrorCopies
  with_reducible repeat' first
    | assumption | apply Named.sessionTakes | apply Named.foldl | apply Named.foldl1 | simp only [Named.upd] | dsimp only
    | split | intro

theorem Named.evictFlow (s : State) (k : Nat) (hk : RegsOnly rs s0 s) (r_fltCount2 : RegName.fltCount2 ∈ rs)
    (r_escCfg : RegName.escCfg ∈ rs) (r_talCount : RegName.talCount ∈ rs) : RegsOnly rs s0 (evictFlow s k) := by
  unfold Sys2Proof.Machine.evictFlow
  with_reducible repeat' first
    | assumption | apply Named.exportHand | simp only [Named.upd] | dsimp only | split | intro

theorem Named.putFlow (s : State) (k : Nat) (f : Flow) (p : Packet) (dropped : Option Nat) (hk : RegsOnly rs s0 s)
    : RegsOnly rs s0 (putFlow s k f p dropped) := by
  unfold Sys2Proof.Machine.putFlow
  with_reducible repeat' first
    | assumption | simp only [Named.upd] | dsimp only | split | intro

theorem Named.flowTake (s : State) (g : Nat) (p : Packet) (dropped : Option Nat) (hk : RegsOnly rs s0 s)
    (r_fltCount2 : RegName.fltCount2 ∈ rs) (r_escCfg : RegName.escCfg ∈ rs) (r_talCount : RegName.talCount ∈ rs)
    : RegsOnly rs s0 (flowTake s g p dropped) := by
  unfold Sys2Proof.Machine.flowTake
  with_reducible repeat' first
    | assumption | apply Named.drawn | apply Named.putFlow | apply Named.evictFlow | simp only [Named.upd] | dsimp only
    | split | intro

theorem Named.frameCopies (s : State) (g : Nat) (p : Packet) (hk : RegsOnly rs s0 s) (r_desc : RegName.desc ∈ rs)
    : RegsOnly rs s0 (frameCopies s g p).1 := by
  unfold Sys2Proof.Machine.frameCopies
  with_reducible repeat' first
    | assumption | apply Named.hallAdvance | apply Named.mirrorCopies | apply Named.drawn | simp only [Named.upd]
    | dsimp only | split | intro

theorem Named.tailForward (s : State) (g : Nat) (p : Packet) (hk : RegsOnly rs s0 s) (r_fltRec : RegName.fltRec ∈ rs)
    (r_fltFirst : RegName.fltFirst ∈ rs) (r_fltCount0 : RegName.fltCount0 ∈ rs) (r_fltCount1 : RegName.fltCount1 ∈ rs)
    (r_fltCount2 : RegName.fltCount2 ∈ rs) (r_escCfg : RegName.escCfg ∈ rs) (r_mktStatus : RegName.mktStatus ∈ rs)
    (r_poolFree : RegName.poolFree ∈ rs) (r_mktCount0 : RegName.mktCount0 ∈ rs) (r_mktCount3 : RegName.mktCount3 ∈ rs)
    (r_mktCount4 : RegName.mktCount4 ∈ rs) (r_mktCount5 : RegName.mktCount5 ∈ rs) (r_mktCount6 : RegName.mktCount6 ∈ rs)
    (r_partUsed : RegName.partUsed ∈ rs) (r_qcfgPitch : RegName.qcfgPitch ∈ rs) (r_qcfgOcc : RegName.qcfgOcc ∈ rs)
    (r_pfcState : RegName.pfcState ∈ rs) (r_ingUsed : RegName.ingUsed ∈ rs) (r_hdrmUsed : RegName.hdrmUsed ∈ rs)
    (r_stagingFree : RegName.stagingFree ∈ rs) (r_splCount : RegName.splCount ∈ rs) (r_stackStatus : RegName.stackStatus ∈ rs)
    (r_qspillStatus : RegName.qspillStatus ∈ rs) (r_desc : RegName.desc ∈ rs) (r_talCount : RegName.talCount ∈ rs)
    (r_pmcCount : RegName.pmcCount ∈ rs) : RegsOnly rs s0 (tailForward s g p) := by
  unfold Sys2Proof.Machine.tailForward
  with_reducible repeat' first
    | assumption | apply Named.frameCopies | apply Named.dropPacket | apply Named.dropRefused | apply Named.admitCopies
    | apply Named.badFrame | simp only [Named.upd] | dsimp only | split | intro

theorem Named.recirculate (s : State) (g : Nat) (p : Packet) (hk : RegsOnly rs s0 s) (r_fltCount2 : RegName.fltCount2 ∈ rs)
    (r_escCfg : RegName.escCfg ∈ rs) (r_pmcCount : RegName.pmcCount ∈ rs) : RegsOnly rs s0 (recirculate s g p) := by
  unfold Sys2Proof.Machine.recirculate
  with_reducible repeat' first
    | assumption | apply Named.pmcEvent | simp only [Named.upd] | dsimp only | split | intro

theorem Named.execIngressTail (g : Nat) (s : State) (hk : RegsOnly rs s0 s) (r_fltRec : RegName.fltRec ∈ rs)
    (r_fltFirst : RegName.fltFirst ∈ rs) (r_fltCount0 : RegName.fltCount0 ∈ rs) (r_fltCount1 : RegName.fltCount1 ∈ rs)
    (r_fltCount2 : RegName.fltCount2 ∈ rs) (r_escCfg : RegName.escCfg ∈ rs) (r_pipeOut : RegName.pipeOut ∈ rs)
    (r_tailFaults : RegName.tailFaults ∈ rs) (r_mktStatus : RegName.mktStatus ∈ rs) (r_poolFree : RegName.poolFree ∈ rs)
    (r_mktCount0 : RegName.mktCount0 ∈ rs) (r_mktCount3 : RegName.mktCount3 ∈ rs) (r_mktCount4 : RegName.mktCount4 ∈ rs)
    (r_mktCount5 : RegName.mktCount5 ∈ rs) (r_mktCount6 : RegName.mktCount6 ∈ rs) (r_partUsed : RegName.partUsed ∈ rs)
    (r_qcfgPitch : RegName.qcfgPitch ∈ rs) (r_qcfgOcc : RegName.qcfgOcc ∈ rs) (r_pfcState : RegName.pfcState ∈ rs)
    (r_ingUsed : RegName.ingUsed ∈ rs) (r_hdrmUsed : RegName.hdrmUsed ∈ rs) (r_stagingFree : RegName.stagingFree ∈ rs)
    (r_splCount : RegName.splCount ∈ rs) (r_stackStatus : RegName.stackStatus ∈ rs) (r_qspillStatus : RegName.qspillStatus ∈ rs)
    (r_desc : RegName.desc ∈ rs) (r_talCount : RegName.talCount ∈ rs) (r_pmcCount : RegName.pmcCount ∈ rs)
    : NamedO rs s0 (execIngressTail g s) := by
  unfold Sys2Proof.Machine.execIngressTail
  with_reducible repeat' first
    | assumption | apply Named.flowTake | apply Named.raise | apply Named.add64 | apply Named.tailFault
    | apply Named.dropPacket | apply Named.recirculate | apply Named.tailForward | apply RegIn.pipeOut | apply RegIn.pipeOut4
    | apply NamedO.next | simp only [Named.upd] | dsimp only | split | intro

theorem Named.egressMirrors (s : State) (c : Copy) (hk : RegsOnly rs s0 s) (r_fltCount2 : RegName.fltCount2 ∈ rs)
    (r_escCfg : RegName.escCfg ∈ rs) (r_mktStatus : RegName.mktStatus ∈ rs) (r_poolFree : RegName.poolFree ∈ rs)
    (r_mktCount3 : RegName.mktCount3 ∈ rs) (r_mktCount4 : RegName.mktCount4 ∈ rs) (r_mktCount5 : RegName.mktCount5 ∈ rs)
    (r_mktCount6 : RegName.mktCount6 ∈ rs) (r_partUsed : RegName.partUsed ∈ rs) (r_qcfgPitch : RegName.qcfgPitch ∈ rs)
    (r_qcfgOcc : RegName.qcfgOcc ∈ rs) (r_pfcState : RegName.pfcState ∈ rs) (r_ingUsed : RegName.ingUsed ∈ rs)
    (r_hdrmUsed : RegName.hdrmUsed ∈ rs) (r_stagingFree : RegName.stagingFree ∈ rs) (r_splCount : RegName.splCount ∈ rs)
    (r_stackStatus : RegName.stackStatus ∈ rs) (r_qspillStatus : RegName.qspillStatus ∈ rs) (r_talCount : RegName.talCount ∈ rs)
    (r_pmcCount : RegName.pmcCount ∈ rs) : RegsOnly rs s0 (egressMirrors s c) := by
  unfold Sys2Proof.Machine.egressMirrors
  with_reducible repeat' first
    | assumption | apply Named.mirrorCopies | apply Named.admitCopies | apply Named.dropRefused | simp only [Named.upd]
    | dsimp only | split | intro

theorem Named.execEgressTail (g : Nat) (s : State) (hk : RegsOnly rs s0 s) (r_fltRec : RegName.fltRec ∈ rs)
    (r_fltFirst : RegName.fltFirst ∈ rs) (r_fltCount0 : RegName.fltCount0 ∈ rs) (r_fltCount1 : RegName.fltCount1 ∈ rs)
    (r_fltCount2 : RegName.fltCount2 ∈ rs) (r_escCfg : RegName.escCfg ∈ rs) (r_tailFaults : RegName.tailFaults ∈ rs)
    (r_mktStatus : RegName.mktStatus ∈ rs) (r_poolFree : RegName.poolFree ∈ rs) (r_mktCount0 : RegName.mktCount0 ∈ rs)
    (r_mktCount3 : RegName.mktCount3 ∈ rs) (r_mktCount4 : RegName.mktCount4 ∈ rs) (r_mktCount5 : RegName.mktCount5 ∈ rs)
    (r_mktCount6 : RegName.mktCount6 ∈ rs) (r_partUsed : RegName.partUsed ∈ rs) (r_qcfgPitch : RegName.qcfgPitch ∈ rs)
    (r_qcfgOcc : RegName.qcfgOcc ∈ rs) (r_pfcState : RegName.pfcState ∈ rs) (r_ingUsed : RegName.ingUsed ∈ rs)
    (r_hdrmUsed : RegName.hdrmUsed ∈ rs) (r_stagingFree : RegName.stagingFree ∈ rs) (r_splCount : RegName.splCount ∈ rs)
    (r_stackStatus : RegName.stackStatus ∈ rs) (r_qspillStatus : RegName.qspillStatus ∈ rs) (r_talCount : RegName.talCount ∈ rs)
    (r_pmcCount : RegName.pmcCount ∈ rs) : NamedO rs s0 (execEgressTail g s) := by
  unfold Sys2Proof.Machine.execEgressTail
  with_reducible repeat' first
    | assumption | apply Named.dropDequeued | apply Named.egressMirrors | apply Named.tailFault | apply NamedO.next
    | simp only [Named.upd] | dsimp only | split | intro

theorem Named.countSent (s : State) (l : Nat) (b : List Byte) (tailMarked : Bool) (hk : RegsOnly rs s0 s)
    : RegsOnly rs s0 (countSent s l b tailMarked) := by
  unfold Sys2Proof.Machine.countSent
  with_reducible repeat' first
    | assumption | apply Named.ledgerAdd | simp only [Named.upd] | dsimp only | split | intro

theorem Named.countWindows (s : State) (c : Copy) (start : Nat) (hk : RegsOnly rs s0 s) (r_winLate : RegName.winLate ∈ rs)
    (r_winOver : RegName.winOver ∈ rs) : RegsOnly rs s0 (countWindows s c start) := by
  unfold Sys2Proof.Machine.countWindows
  with_reducible repeat' first
    | assumption | apply Named.add64 | apply RegIn.winLate | apply RegIn.winLate4 | apply RegIn.winOver
    | apply RegIn.winOver4 | simp only [Named.upd] | dsimp only | split | intro

theorem Named.departCopy (s : State) (c : Copy) (pcs : Stamp) (tailMarked : Bool) (hk : RegsOnly rs s0 s)
    (r_fltRec : RegName.fltRec ∈ rs) (r_fltFirst : RegName.fltFirst ∈ rs) (r_fltCount0 : RegName.fltCount0 ∈ rs)
    (r_fltCount1 : RegName.fltCount1 ∈ rs) (r_fltCount2 : RegName.fltCount2 ∈ rs) (r_escCfg : RegName.escCfg ∈ rs)
    (r_tsMissed : RegName.tsMissed ∈ rs) (r_mktStatus : RegName.mktStatus ∈ rs) (r_poolFree : RegName.poolFree ∈ rs)
    (r_mktCount0 : RegName.mktCount0 ∈ rs) (r_partUsed : RegName.partUsed ∈ rs) (r_qcfgOcc : RegName.qcfgOcc ∈ rs)
    (r_pfcState : RegName.pfcState ∈ rs) (r_ingUsed : RegName.ingUsed ∈ rs) (r_hdrmUsed : RegName.hdrmUsed ∈ rs)
    (r_winLate : RegName.winLate ∈ rs) (r_winOver : RegName.winOver ∈ rs) (r_talCount : RegName.talCount ∈ rs)
    (r_pmcCount : RegName.pmcCount ∈ rs) : RegsOnly rs s0 (departCopy s c pcs tailMarked) := by
  unfold Sys2Proof.Machine.departCopy
  with_reducible repeat' first
    | assumption | apply Named.emit | apply Named.countWindows | apply Named.countSent | apply Named.histograms
    | apply Named.ptpReport | apply Named.postcard | apply Named.releaseCopy | simp only [Named.upd] | dsimp only | split
    | intro

theorem Named.execCopyDeparture (port : Nat) (pcs : Stamp) (begun : Bool) (err : Option DataErr) (s : State)
    (hk : RegsOnly rs s0 s) (r_fltRec : RegName.fltRec ∈ rs) (r_fltFirst : RegName.fltFirst ∈ rs)
    (r_fltCount0 : RegName.fltCount0 ∈ rs) (r_fltCount1 : RegName.fltCount1 ∈ rs) (r_fltCount2 : RegName.fltCount2 ∈ rs)
    (r_escCfg : RegName.escCfg ∈ rs) (r_tsMissed : RegName.tsMissed ∈ rs) (r_editFaults : RegName.editFaults ∈ rs)
    (r_mktStatus : RegName.mktStatus ∈ rs) (r_poolFree : RegName.poolFree ∈ rs) (r_mktCount0 : RegName.mktCount0 ∈ rs)
    (r_mktCount3 : RegName.mktCount3 ∈ rs) (r_mktCount4 : RegName.mktCount4 ∈ rs) (r_mktCount5 : RegName.mktCount5 ∈ rs)
    (r_mktCount6 : RegName.mktCount6 ∈ rs) (r_mktCount7 : RegName.mktCount7 ∈ rs) (r_partUsed : RegName.partUsed ∈ rs)
    (r_qcfgPitch : RegName.qcfgPitch ∈ rs) (r_qcfgOcc : RegName.qcfgOcc ∈ rs) (r_pfcState : RegName.pfcState ∈ rs)
    (r_ingUsed : RegName.ingUsed ∈ rs) (r_hdrmUsed : RegName.hdrmUsed ∈ rs) (r_bankStatus : RegName.bankStatus ∈ rs)
    (r_bankEcc : RegName.bankEcc ∈ rs) (r_stagingFree : RegName.stagingFree ∈ rs) (r_splCount : RegName.splCount ∈ rs)
    (r_stackStatus : RegName.stackStatus ∈ rs) (r_qspillStatus : RegName.qspillStatus ∈ rs) (r_winLate : RegName.winLate ∈ rs)
    (r_winOver : RegName.winOver ∈ rs) (r_talCount : RegName.talCount ∈ rs) (r_pmcCount : RegName.pmcCount ∈ rs)
    : NamedO rs s0 (execCopyDeparture port pcs begun err s) := by
  unfold Sys2Proof.Machine.execCopyDeparture
  with_reducible repeat' first
    | assumption | apply Named.whenB | apply Named.setPort | apply Named.marketRead | apply Named.departCopy
    | apply Named.dropDequeued | apply Named.editFault | apply NamedO.next | simp only [Named.upd] | dsimp only | split
    | intro

end Sys2Proof.Laws
end

