-- ==== Sys2Proof/Laws/NamedPart.lean ====
section
/-!
SUPPORT. One lemma for each operation of Ports, Ainum, Cart, Telemetry, Scales, Reset, View, RegWrite: it writes no register but those it names (`RegsOnly`).
-/
namespace Sys2Proof.Laws

open Sys2Proof.Machine

variable {rs : List RegName} {s0 : State}

theorem Named.laneLine (s : State) (g j : Nat) (hk : RegsOnly rs s0 s) (r_fltCount2 : RegName.fltCount2 ∈ rs)
    (r_escCfg : RegName.escCfg ∈ rs) : RegsOnly rs s0 (laneLine s g j) := by
  unfold Sys2Proof.Machine.laneLine
  with_reducible repeat' first
    | assumption | apply Named.setLine | simp only [Named.upd] | dsimp only | split | intro

theorem Named.laneEvent (s : State) (l j : Nat) (hk : RegsOnly rs s0 s) (r_fltCount2 : RegName.fltCount2 ∈ rs)
    (r_escCfg : RegName.escCfg ∈ rs) (r_evtLanes : RegName.evtLanes ∈ rs) : RegsOnly rs s0 (laneEvent s l j) := by
  unfold Sys2Proof.Machine.laneEvent
  with_reducible repeat' first
    | assumption | apply Named.laneLine | apply Named.setBit | apply RegIn.evtLanes | simp only [Named.upd] | dsimp only
    | split | intro

theorem Named.lanErr (s : State) (l bit : Nat) (hk : RegsOnly rs s0 s) (r_fltCount2 : RegName.fltCount2 ∈ rs)
    (r_escCfg : RegName.escCfg ∈ rs) (r_lanErr : RegName.lanErr ∈ rs) (r_evtLanes : RegName.evtLanes ∈ rs)
    : RegsOnly rs s0 (lanErr s l bit) := by
  unfold Sys2Proof.Machine.lanErr
  with_reducible repeat' first
    | assumption | apply Named.laneEvent | apply Named.setBit | apply RegIn.lanErr | simp only [Named.upd] | dsimp only
    | split | intro

theorem Named.portFlags (s : State) (l : Nat) (hk : RegsOnly rs s0 s) (r_portsUp : RegName.portsUp ∈ rs)
    (r_portState : RegName.portState ∈ rs) : RegsOnly rs s0 (portFlags s l) := by
  unfold Sys2Proof.Machine.portFlags
  with_reducible repeat' first
    | assumption | apply Named.setBit | apply RegIn.portsUp | apply RegIn.portState | simp only [Named.upd] | dsimp only
    | split | intro

theorem Named.setAin (s : State) (l : Nat) (x : AinPort) (hk : RegsOnly rs s0 s) : RegsOnly rs s0 (setAin s l x) := by
  unfold Sys2Proof.Machine.setAin
  with_reducible repeat' first
    | assumption | simp only [Named.upd] | dsimp only | split | intro

theorem Named.endSession (s : State) (l : Nat) (hk : RegsOnly rs s0 s) (r_fltCount2 : RegName.fltCount2 ∈ rs)
    (r_escCfg : RegName.escCfg ∈ rs) (r_peerStatus : RegName.peerStatus ∈ rs) (r_portState : RegName.portState ∈ rs)
    : RegsOnly rs s0 (endSession s l) := by
  unfold Sys2Proof.Machine.endSession
  with_reducible repeat' first
    | assumption | apply Named.setAin | apply Named.setF | apply Named.setBit | apply Named.whenB | apply Named.raise
    | apply RegIn.peerStatus | apply RegIn.portState | simp only [Named.upd] | dsimp only | split | intro

theorem Named.goSent (s : State) (l : Nat) (hk : RegsOnly rs s0 s) (r_fltCount2 : RegName.fltCount2 ∈ rs)
    (r_escCfg : RegName.escCfg ∈ rs) (r_tokenCtrl : RegName.tokenCtrl ∈ rs) : RegsOnly rs s0 (goSent s l) := by
  unfold Sys2Proof.Machine.goSent
  with_reducible repeat' first
    | assumption | apply Named.raise | apply Named.setBit | apply RegIn.tokenCtrl | simp only [Named.upd] | dsimp only
    | split | intro

theorem Named.ainumDown (s : State) (l : Nat) (hk : RegsOnly rs s0 s) (r_fltCount2 : RegName.fltCount2 ∈ rs)
    (r_escCfg : RegName.escCfg ∈ rs) (r_tokenCtrl : RegName.tokenCtrl ∈ rs) (r_peerStatus : RegName.peerStatus ∈ rs)
    (r_portState : RegName.portState ∈ rs) : RegsOnly rs s0 (ainumDown s l) := by
  unfold Sys2Proof.Machine.ainumDown
  with_reducible repeat' first
    | assumption | apply Named.endSession | apply Named.setAin | apply Named.goSent | simp only [Named.upd] | dsimp only
    | split | intro

theorem Named.ladderDone (s : State) (hk : RegsOnly rs s0 s) (r_bringup : RegName.bringup ∈ rs)
    (r_fltCount2 : RegName.fltCount2 ∈ rs) (r_escCfg : RegName.escCfg ∈ rs) : RegsOnly rs s0 (ladderDone s) := by
  unfold Sys2Proof.Machine.ladderDone
  with_reducible repeat' first
    | assumption | apply Named.setBringup | simp only [Named.upd] | dsimp only | split | intro

theorem Named.enterState (s : State) (l st rate : Nat) (aligned : Bool) (hk : RegsOnly rs s0 s)
    (r_fltCount2 : RegName.fltCount2 ∈ rs) (r_escCfg : RegName.escCfg ∈ rs) (r_portLatency : RegName.portLatency ∈ rs)
    (r_tokenCtrl : RegName.tokenCtrl ∈ rs) (r_peerStatus : RegName.peerStatus ∈ rs) (r_portsUp : RegName.portsUp ∈ rs)
    (r_evtLanes : RegName.evtLanes ∈ rs) (r_portState : RegName.portState ∈ rs)
    : RegsOnly rs s0 (enterState s l st rate aligned) := by
  unfold Sys2Proof.Machine.enterState
  with_reducible repeat' first
    | assumption | apply Named.setF | apply Named.setLatency | apply Named.whenB | apply Named.laneEvent
    | apply Named.ainumDown | apply Named.clearPauses | apply Named.portFlags | apply RegIn.portState | simp only [Named.upd]
    | dsimp only | split | intro

theorem Named.modPort (s : State) (l : Nat) (f : PortSt → PortSt) (hk : RegsOnly rs s0 s)
    : RegsOnly rs s0 (modPort s l f) := by
  unfold Sys2Proof.Machine.modPort
  with_reducible repeat' first
    | assumption | apply Named.setPort | simp only [Named.upd] | dsimp only | split | intro

theorem Named.enterUp (s : State) (l : Nat) (hk : RegsOnly rs s0 s) (r_fltCount2 : RegName.fltCount2 ∈ rs)
    (r_escCfg : RegName.escCfg ∈ rs) (r_portLatency : RegName.portLatency ∈ rs) (r_tokenCtrl : RegName.tokenCtrl ∈ rs)
    (r_peerStatus : RegName.peerStatus ∈ rs) (r_portsUp : RegName.portsUp ∈ rs) (r_evtLanes : RegName.evtLanes ∈ rs)
    (r_portState : RegName.portState ∈ rs) : RegsOnly rs s0 (enterUp s l) := by
  unfold Sys2Proof.Machine.enterUp
  with_reducible repeat' first
    | assumption | apply Named.modPort | apply Named.setF | apply Named.whenB | apply Named.setBit | apply Named.enterState
    | apply RegIn.portState | simp only [Named.upd] | dsimp only | split | intro

theorem Named.cutArriving (s : State) (l : Nat) (f : State → Packet → State) (hk : RegsOnly rs s0 s)
    (hf : ∀ t x, RegsOnly rs s0 t → RegsOnly rs s0 (f t x)) (r_fltRec : RegName.fltRec ∈ rs) (r_fltFirst : RegName.fltFirst ∈ rs)
    (r_fltCount0 : RegName.fltCount0 ∈ rs) (r_fltCount1 : RegName.fltCount1 ∈ rs) (r_fltCount2 : RegName.fltCount2 ∈ rs)
    (r_escCfg : RegName.escCfg ∈ rs) (r_mktStatus : RegName.mktStatus ∈ rs) (r_poolFree : RegName.poolFree ∈ rs)
    (r_mktCount0 : RegName.mktCount0 ∈ rs) (r_mktCount3 : RegName.mktCount3 ∈ rs) (r_mktCount4 : RegName.mktCount4 ∈ rs)
    (r_mktCount5 : RegName.mktCount5 ∈ rs) (r_mktCount6 : RegName.mktCount6 ∈ rs) (r_partUsed : RegName.partUsed ∈ rs)
    (r_qcfgPitch : RegName.qcfgPitch ∈ rs) (r_qcfgOcc : RegName.qcfgOcc ∈ rs) (r_pfcState : RegName.pfcState ∈ rs)
    (r_ingUsed : RegName.ingUsed ∈ rs) (r_hdrmUsed : RegName.hdrmUsed ∈ rs) (r_stagingFree : RegName.stagingFree ∈ rs)
    (r_splCount : RegName.splCount ∈ rs) (r_stackStatus : RegName.stackStatus ∈ rs) (r_qspillStatus : RegName.qspillStatus ∈ rs)
    (r_talCount : RegName.talCount ∈ rs) (r_pmcCount : RegName.pmcCount ∈ rs) : RegsOnly rs s0 (cutArriving s l f) := by
  unfold Sys2Proof.Machine.cutArriving
  with_reducible repeat' first
    | assumption | apply hf | apply Named.forEach | apply Named.settleLength | apply Named.badFrame | simp only [Named.upd]
    | dsimp only | split | intro

theorem Named.octCfgWrite (g o : Nat) (value : Word) (s : State) (hk : RegsOnly rs s0 s)
    (r_fltCount2 : RegName.fltCount2 ∈ rs) (r_escCfg : RegName.escCfg ∈ rs) (r_octCfg : RegName.octCfg ∈ rs)
    (r_lanErr : RegName.lanErr ∈ rs) (r_portsUp : RegName.portsUp ∈ rs) (r_evtLanes : RegName.evtLanes ∈ rs)
    (r_portState : RegName.portState ∈ rs) : RegsOnly rs s0 (octCfgWrite g o value s) := by
  unfold Sys2Proof.Machine.octCfgWrite
  with_reducible repeat' first
    | assumption | apply Named.holdWrite | apply Named.lanErr | apply Named.setReg | apply Named.forEach
    | apply Named.portFlags | apply RegIn.octCfg | simp only [Named.upd] | dsimp only | split | intro

theorem Named.execOctCfgWrite (g o : Nat) (value : Word) (s : State) (hk : RegsOnly rs s0 s)
    (r_fltCount2 : RegName.fltCount2 ∈ rs) (r_escCfg : RegName.escCfg ∈ rs) (r_octCfg : RegName.octCfg ∈ rs)
    (r_lanErr : RegName.lanErr ∈ rs) (r_portsUp : RegName.portsUp ∈ rs) (r_evtLanes : RegName.evtLanes ∈ rs)
    (r_portState : RegName.portState ∈ rs) : NamedO rs s0 (execOctCfgWrite g o value s) := by
  unfold Sys2Proof.Machine.execOctCfgWrite
  with_reducible repeat' first
    | assumption | apply Named.octCfgWrite | apply NamedO.next | simp only [Named.upd] | dsimp only | split | intro

theorem Named.portUp (s : State) (l : Nat) (hk : RegsOnly rs s0 s) (r_fltCount2 : RegName.fltCount2 ∈ rs)
    (r_escCfg : RegName.escCfg ∈ rs) (r_portLatency : RegName.portLatency ∈ rs) (r_tokenCtrl : RegName.tokenCtrl ∈ rs)
    (r_peerStatus : RegName.peerStatus ∈ rs) (r_lanErr : RegName.lanErr ∈ rs) (r_portsUp : RegName.portsUp ∈ rs)
    (r_evtLanes : RegName.evtLanes ∈ rs) (r_portCfg : RegName.portCfg ∈ rs) (r_portState : RegName.portState ∈ rs)
    : RegsOnly rs s0 (portUp s l) := by
  unfold Sys2Proof.Machine.portUp
  with_reducible repeat' first
    | assumption | apply Named.setBit | apply Named.lanErr | apply Named.setPort | apply Named.setF | apply Named.enterState
    | apply RegIn.portCfg | apply RegIn.portState | simp only [Named.upd] | dsimp only | split | intro

theorem Named.portDown (s : State) (l : Nat) (hk : RegsOnly rs s0 s) (r_bringup : RegName.bringup ∈ rs)
    (r_fltRec : RegName.fltRec ∈ rs) (r_fltFirst : RegName.fltFirst ∈ rs) (r_fltCount0 : RegName.fltCount0 ∈ rs)
    (r_fltCount1 : RegName.fltCount1 ∈ rs) (r_fltCount2 : RegName.fltCount2 ∈ rs) (r_escCfg : RegName.escCfg ∈ rs)
    (r_portLatency : RegName.portLatency ∈ rs) (r_tokenCtrl : RegName.tokenCtrl ∈ rs) (r_peerStatus : RegName.peerStatus ∈ rs)
    (r_portsUp : RegName.portsUp ∈ rs) (r_evtLanes : RegName.evtLanes ∈ rs) (r_portCfg : RegName.portCfg ∈ rs)
    (r_portState : RegName.portState ∈ rs) (r_mktStatus : RegName.mktStatus ∈ rs) (r_poolFree : RegName.poolFree ∈ rs)
    (r_mktCount0 : RegName.mktCount0 ∈ rs) (r_mktCount3 : RegName.mktCount3 ∈ rs) (r_mktCount4 : RegName.mktCount4 ∈ rs)
    (r_mktCount5 : RegName.mktCount5 ∈ rs) (r_mktCount6 : RegName.mktCount6 ∈ rs) (r_partUsed : RegName.partUsed ∈ rs)
    (r_qcfgPitch : RegName.qcfgPitch ∈ rs) (r_qcfgOcc : RegName.qcfgOcc ∈ rs) (r_pfcState : RegName.pfcState ∈ rs)
    (r_ingUsed : RegName.ingUsed ∈ rs) (r_hdrmUsed : RegName.hdrmUsed ∈ rs) (r_stagingFree : RegName.stagingFree ∈ rs)
    (r_splCount : RegName.splCount ∈ rs) (r_stackStatus : RegName.stackStatus ∈ rs) (r_qspillStatus : RegName.qspillStatus ∈ rs)
    (r_talCount : RegName.talCount ∈ rs) (r_pmcCount : RegName.pmcCount ∈ rs) : RegsOnly rs s0 (portDown s l) := by
  unfold Sys2Proof.Machine.portDown
  with_reducible repeat' first
    | assumption | apply Named.setBit | apply Named.forEach | apply Named.ledgerAdd | apply Named.cutArriving
    | apply Named.dropPacket | apply Named.setPort | apply Named.setF | apply Named.ladderDone | apply Named.enterState
    | apply RegIn.portCfg | apply RegIn.portState | simp only [Named.upd] | dsimp only | split | intro

theorem Named.noteClash (s : State) (l : Nat) (hk : RegsOnly rs s0 s) (r_fltCount2 : RegName.fltCount2 ∈ rs)
    (r_escCfg : RegName.escCfg ∈ rs) (r_schErr : RegName.schErr ∈ rs) : RegsOnly rs s0 (noteClash s l) := by
  unfold Sys2Proof.Machine.noteClash
  with_reducible repeat' first
    | assumption | apply Named.raise | apply Named.setBit | apply RegIn.schErr | simp only [Named.upd] | dsimp only | split
    | intro

theorem Named.portCfgWrite (lane : Nat) (value : Word) (s : State) (hk : RegsOnly rs s0 s) (r_bringup : RegName.bringup ∈ rs)
    (r_fltRec : RegName.fltRec ∈ rs) (r_fltFirst : RegName.fltFirst ∈ rs) (r_fltCount0 : RegName.fltCount0 ∈ rs)
    (r_fltCount1 : RegName.fltCount1 ∈ rs) (r_fltCount2 : RegName.fltCount2 ∈ rs) (r_escCfg : RegName.escCfg ∈ rs)
    (r_portLatency : RegName.portLatency ∈ rs) (r_tokenCtrl : RegName.tokenCtrl ∈ rs) (r_peerStatus : RegName.peerStatus ∈ rs)
    (r_lanErr : RegName.lanErr ∈ rs) (r_portsUp : RegName.portsUp ∈ rs) (r_evtLanes : RegName.evtLanes ∈ rs)
    (r_portCfg : RegName.portCfg ∈ rs) (r_portState : RegName.portState ∈ rs) (r_mktStatus : RegName.mktStatus ∈ rs)
    (r_poolFree : RegName.poolFree ∈ rs) (r_mktCount0 : RegName.mktCount0 ∈ rs) (r_mktCount3 : RegName.mktCount3 ∈ rs)
    (r_mktCount4 : RegName.mktCount4 ∈ rs) (r_mktCount5 : RegName.mktCount5 ∈ rs) (r_mktCount6 : RegName.mktCount6 ∈ rs)
    (r_partUsed : RegName.partUsed ∈ rs) (r_qcfgPitch : RegName.qcfgPitch ∈ rs) (r_qcfgOcc : RegName.qcfgOcc ∈ rs)
    (r_pfcState : RegName.pfcState ∈ rs) (r_ingUsed : RegName.ingUsed ∈ rs) (r_hdrmUsed : RegName.hdrmUsed ∈ rs)
    (r_stagingFree : RegName.stagingFree ∈ rs) (r_splCount : RegName.splCount ∈ rs) (r_stackStatus : RegName.stackStatus ∈ rs)
    (r_qspillStatus : RegName.qspillStatus ∈ rs) (r_schErr : RegName.schErr ∈ rs) (r_talCount : RegName.talCount ∈ rs)
    (r_pmcCount : RegName.pmcCount ∈ rs) : RegsOnly rs s0 (portCfgWrite lane value s) := by
  unfold Sys2Proof.Machine.portCfgWrite
  with_reducible repeat' first
    | assumption | apply Named.holdWrite | apply Named.lanErr | apply Named.portFlags | apply Named.setReg
    | apply Named.noteClash | apply Named.portUp | apply Named.portDown | apply RegIn.portCfg | simp only [Named.upd]
    | dsimp only | split | intro

theorem Named.execPortCfgWrite (lane : Nat) (value : Word) (s : State) (hk : RegsOnly rs s0 s)
    (r_bringup : RegName.bringup ∈ rs) (r_fltRec : RegName.fltRec ∈ rs) (r_fltFirst : RegName.fltFirst ∈ rs)
    (r_fltCount0 : RegName.fltCount0 ∈ rs) (r_fltCount1 : RegName.fltCount1 ∈ rs) (r_fltCount2 : RegName.fltCount2 ∈ rs)
    (r_escCfg : RegName.escCfg ∈ rs) (r_portLatency : RegName.portLatency ∈ rs) (r_tokenCtrl : RegName.tokenCtrl ∈ rs)
    (r_peerStatus : RegName.peerStatus ∈ rs) (r_lanErr : RegName.lanErr ∈ rs) (r_portsUp : RegName.portsUp ∈ rs)
    (r_evtLanes : RegName.evtLanes ∈ rs) (r_portCfg : RegName.portCfg ∈ rs) (r_portState : RegName.portState ∈ rs)
    (r_mktStatus : RegName.mktStatus ∈ rs) (r_poolFree : RegName.poolFree ∈ rs) (r_mktCount0 : RegName.mktCount0 ∈ rs)
    (r_mktCount3 : RegName.mktCount3 ∈ rs) (r_mktCount4 : RegName.mktCount4 ∈ rs) (r_mktCount5 : RegName.mktCount5 ∈ rs)
    (r_mktCount6 : RegName.mktCount6 ∈ rs) (r_partUsed : RegName.partUsed ∈ rs) (r_qcfgPitch : RegName.qcfgPitch ∈ rs)
    (r_qcfgOcc : RegName.qcfgOcc ∈ rs) (r_pfcState : RegName.pfcState ∈ rs) (r_ingUsed : RegName.ingUsed ∈ rs)
    (r_hdrmUsed : RegName.hdrmUsed ∈ rs) (r_stagingFree : RegName.stagingFree ∈ rs) (r_splCount : RegName.splCount ∈ rs)
    (r_stackStatus : RegName.stackStatus ∈ rs) (r_qspillStatus : RegName.qspillStatus ∈ rs) (r_schErr : RegName.schErr ∈ rs)
    (r_talCount : RegName.talCount ∈ rs) (r_pmcCount : RegName.pmcCount ∈ rs)
    : NamedO rs s0 (execPortCfgWrite lane value s) := by
  unfold Sys2Proof.Machine.execPortCfgWrite
  with_reducible repeat' first
    | assumption | apply Named.portCfgWrite | apply NamedO.next | simp only [Named.upd] | dsimp only | split | intro

theorem Named.execPortEnable (lane : Nat) (s : State) (hk : RegsOnly rs s0 s) (r_bringup : RegName.bringup ∈ rs)
    (r_fltRec : RegName.fltRec ∈ rs) (r_fltFirst : RegName.fltFirst ∈ rs) (r_fltCount0 : RegName.fltCount0 ∈ rs)
    (r_fltCount1 : RegName.fltCount1 ∈ rs) (r_fltCount2 : RegName.fltCount2 ∈ rs) (r_escCfg : RegName.escCfg ∈ rs)
    (r_portLatency : RegName.portLatency ∈ rs) (r_tokenCtrl : RegName.tokenCtrl ∈ rs) (r_peerStatus : RegName.peerStatus ∈ rs)
    (r_lanErr : RegName.lanErr ∈ rs) (r_portsUp : RegName.portsUp ∈ rs) (r_evtLanes : RegName.evtLanes ∈ rs)
    (r_portCfg : RegName.portCfg ∈ rs) (r_portState : RegName.portState ∈ rs) (r_mktStatus : RegName.mktStatus ∈ rs)
    (r_poolFree : RegName.poolFree ∈ rs) (r_mktCount0 : RegName.mktCount0 ∈ rs) (r_mktCount3 : RegName.mktCount3 ∈ rs)
    (r_mktCount4 : RegName.mktCount4 ∈ rs) (r_mktCount5 : RegName.mktCount5 ∈ rs) (r_mktCount6 : RegName.mktCount6 ∈ rs)
    (r_partUsed : RegName.partUsed ∈ rs) (r_qcfgPitch : RegName.qcfgPitch ∈ rs) (r_qcfgOcc : RegName.qcfgOcc ∈ rs)
    (r_pfcState : RegName.pfcState ∈ rs) (r_ingUsed : RegName.ingUsed ∈ rs) (r_hdrmUsed : RegName.hdrmUsed ∈ rs)
    (r_stagingFree : RegName.stagingFree ∈ rs) (r_splCount : RegName.splCount ∈ rs) (r_stackStatus : RegName.stackStatus ∈ rs)
    (r_qspillStatus : RegName.qspillStatus ∈ rs) (r_schErr : RegName.schErr ∈ rs) (r_talCount : RegName.talCount ∈ rs)
    (r_pmcCount : RegName.pmcCount ∈ rs) : NamedO rs s0 (execPortEnable lane s) := by
  unfold Sys2Proof.Machine.execPortEnable
  with_reducible repeat' first
    | assumption | apply Named.portCfgWrite | apply NamedO.next | simp only [Named.upd] | dsimp only | split | intro

theorem Named.execPortDisable (lane : Nat) (s : State) (hk : RegsOnly rs s0 s) (r_bringup : RegName.bringup ∈ rs)
    (r_fltRec : RegName.fltRec ∈ rs) (r_fltFirst : RegName.fltFirst ∈ rs) (r_fltCount0 : RegName.fltCount0 ∈ rs)
    (r_fltCount1 : RegName.fltCount1 ∈ rs) (r_fltCount2 : RegName.fltCount2 ∈ rs) (r_escCfg : RegName.escCfg ∈ rs)
    (r_portLatency : RegName.portLatency ∈ rs) (r_tokenCtrl : RegName.tokenCtrl ∈ rs) (r_peerStatus : RegName.peerStatus ∈ rs)
    (r_lanErr : RegName.lanErr ∈ rs) (r_portsUp : RegName.portsUp ∈ rs) (r_evtLanes : RegName.evtLanes ∈ rs)
    (r_portCfg : RegName.portCfg ∈ rs) (r_portState : RegName.portState ∈ rs) (r_mktStatus : RegName.mktStatus ∈ rs)
    (r_poolFree : RegName.poolFree ∈ rs) (r_mktCount0 : RegName.mktCount0 ∈ rs) (r_mktCount3 : RegName.mktCount3 ∈ rs)
    (r_mktCount4 : RegName.mktCount4 ∈ rs) (r_mktCount5 : RegName.mktCount5 ∈ rs) (r_mktCount6 : RegName.mktCount6 ∈ rs)
    (r_partUsed : RegName.partUsed ∈ rs) (r_qcfgPitch : RegName.qcfgPitch ∈ rs) (r_qcfgOcc : RegName.qcfgOcc ∈ rs)
    (r_pfcState : RegName.pfcState ∈ rs) (r_ingUsed : RegName.ingUsed ∈ rs) (r_hdrmUsed : RegName.hdrmUsed ∈ rs)
    (r_stagingFree : RegName.stagingFree ∈ rs) (r_splCount : RegName.splCount ∈ rs) (r_stackStatus : RegName.stackStatus ∈ rs)
    (r_qspillStatus : RegName.qspillStatus ∈ rs) (r_schErr : RegName.schErr ∈ rs) (r_talCount : RegName.talCount ∈ rs)
    (r_pmcCount : RegName.pmcCount ∈ rs) : NamedO rs s0 (execPortDisable lane s) := by
  unfold Sys2Proof.Machine.execPortDisable
  with_reducible repeat' first
    | assumption | apply Named.portCfgWrite | apply NamedO.next | simp only [Named.upd] | dsimp only | split | intro

theorem Named.execPortAligned (port skewNs : Nat) (s : State) (hk : RegsOnly rs s0 s) (r_bringup : RegName.bringup ∈ rs)
    (r_fltCount2 : RegName.fltCount2 ∈ rs) (r_escCfg : RegName.escCfg ∈ rs) (r_portLatency : RegName.portLatency ∈ rs)
    (r_tokenCtrl : RegName.tokenCtrl ∈ rs) (r_peerStatus : RegName.peerStatus ∈ rs) (r_portsUp : RegName.portsUp ∈ rs)
    (r_evtLanes : RegName.evtLanes ∈ rs) (r_portState : RegName.portState ∈ rs)
    : NamedO rs s0 (execPortAligned port skewNs s) := by
  unfold Sys2Proof.Machine.execPortAligned
  with_reducible repeat' first
    | assumption | apply Named.setF | apply Named.ladderDone | apply Named.enterUp | apply RegIn.portState
    | apply NamedO.next | simp only [Named.upd] | dsimp only | split | intro

theorem Named.loseLink (s : State) (l : Nat) (hk : RegsOnly rs s0 s) : RegsOnly rs s0 (loseLink s l) := by
  unfold Sys2Proof.Machine.loseLink
  with_reducible repeat' first
    | assumption | apply Named.modPort | simp only [Named.upd] | dsimp only | split | intro

theorem Named.linkDown (s : State) (l : Nat) (gone : Bool) (hk : RegsOnly rs s0 s) (r_fltCount2 : RegName.fltCount2 ∈ rs)
    (r_escCfg : RegName.escCfg ∈ rs) (r_portLatency : RegName.portLatency ∈ rs) (r_tokenCtrl : RegName.tokenCtrl ∈ rs)
    (r_peerStatus : RegName.peerStatus ∈ rs) (r_portsUp : RegName.portsUp ∈ rs) (r_evtLanes : RegName.evtLanes ∈ rs)
    (r_portState : RegName.portState ∈ rs) : RegsOnly rs s0 (linkDown s l gone) := by
  unfold Sys2Proof.Machine.linkDown
  with_reducible repeat' first
    | assumption | apply Named.setF | apply Named.setBit | apply Named.loseLink | apply Named.enterState | apply Named.whenB
    | apply Named.laneEvent | apply RegIn.portState | simp only [Named.upd] | dsimp only | split | intro

theorem Named.execLossOfSignal (lane : Nat) (signalGone : Bool) (s : State) (hk : RegsOnly rs s0 s)
    (r_fltCount2 : RegName.fltCount2 ∈ rs) (r_escCfg : RegName.escCfg ∈ rs) (r_portLatency : RegName.portLatency ∈ rs)
    (r_tokenCtrl : RegName.tokenCtrl ∈ rs) (r_peerStatus : RegName.peerStatus ∈ rs) (r_portsUp : RegName.portsUp ∈ rs)
    (r_evtLanes : RegName.evtLanes ∈ rs) (r_portState : RegName.portState ∈ rs)
    : NamedO rs s0 (execLossOfSignal lane signalGone s) := by
  unfold Sys2Proof.Machine.execLossOfSignal
  with_reducible repeat' first
    | assumption | apply Named.linkDown | apply NamedO.next | simp only [Named.upd] | dsimp only | split | intro

theorem Named.execSignalPresent (port : Nat) (s : State) (hk : RegsOnly rs s0 s) (r_fltCount2 : RegName.fltCount2 ∈ rs)
    (r_escCfg : RegName.escCfg ∈ rs) (r_portLatency : RegName.portLatency ∈ rs) (r_tokenCtrl : RegName.tokenCtrl ∈ rs)
    (r_peerStatus : RegName.peerStatus ∈ rs) (r_portsUp : RegName.portsUp ∈ rs) (r_evtLanes : RegName.evtLanes ∈ rs)
    (r_portState : RegName.portState ∈ rs) : NamedO rs s0 (execSignalPresent port s) := by
  unfold Sys2Proof.Machine.execSignalPresent
  with_reducible repeat' first
    | assumption | apply Named.enterState | apply NamedO.next | simp only [Named.upd] | dsimp only | split | intro

theorem Named.execFaultReceived (port : Nat) (localFault : Bool) (s : State) (hk : RegsOnly rs s0 s)
    (r_fltCount2 : RegName.fltCount2 ∈ rs) (r_escCfg : RegName.escCfg ∈ rs) (r_portLatency : RegName.portLatency ∈ rs)
    (r_tokenCtrl : RegName.tokenCtrl ∈ rs) (r_peerStatus : RegName.peerStatus ∈ rs) (r_portsUp : RegName.portsUp ∈ rs)
    (r_evtLanes : RegName.evtLanes ∈ rs) (r_portState : RegName.portState ∈ rs)
    : NamedO rs s0 (execFaultReceived port localFault s) := by
  unfold Sys2Proof.Machine.execFaultReceived
  with_reducible repeat' first
    | assumption | apply Named.setF | apply Named.enterState | apply Named.modPort | apply Named.setBit
    | apply RegIn.portState | apply NamedO.next | simp only [Named.upd] | dsimp only | split | intro

theorem Named.execFaultCleared (port : Nat) (s : State) (hk : RegsOnly rs s0 s) (r_bringup : RegName.bringup ∈ rs)
    (r_fltCount2 : RegName.fltCount2 ∈ rs) (r_escCfg : RegName.escCfg ∈ rs) (r_portLatency : RegName.portLatency ∈ rs)
    (r_tokenCtrl : RegName.tokenCtrl ∈ rs) (r_peerStatus : RegName.peerStatus ∈ rs) (r_portsUp : RegName.portsUp ∈ rs)
    (r_evtLanes : RegName.evtLanes ∈ rs) (r_portState : RegName.portState ∈ rs) : NamedO rs s0 (execFaultCleared port s) := by
  unfold Sys2Proof.Machine.execFaultCleared
  with_reducible repeat' first
    | assumption | apply Named.ladderDone | apply Named.enterUp | apply Named.setF | apply RegIn.portState
    | apply NamedO.next | simp only [Named.upd] | dsimp only | split | intro

theorem Named.execRecoveryEnd (port : Nat) (s : State) (hk : RegsOnly rs s0 s) (r_portState : RegName.portState ∈ rs)
    : NamedO rs s0 (execRecoveryEnd port s) := by
  unfold Sys2Proof.Machine.execRecoveryEnd
  with_reducible repeat' first
    | assumption | apply Named.setBit | apply RegIn.portState | apply NamedO.next | simp only [Named.upd] | dsimp only
    | split | intro

theorem Named.queueMsg (s : State) (l : Nat) (m : AinMsg) (hk : RegsOnly rs s0 s) : RegsOnly rs s0 (queueMsg s l m) := by
  unfold Sys2Proof.Machine.queueMsg
  with_reducible repeat' first
    | assumption | apply Named.setAin | simp only [Named.upd] | dsimp only | split | intro

theorem Named.takeStep (s : State) (l : Nat) (hk : RegsOnly rs s0 s) (r_portLatency : RegName.portLatency ∈ rs)
    : RegsOnly rs s0 (takeStep s l) := by
  unfold Sys2Proof.Machine.takeStep
  with_reducible repeat' first
    | assumption | apply Named.setLatency | apply Named.modPort | simp only [Named.upd] | dsimp only | split | intro

theorem Named.recordLadder (s : State) (l : Nat) (hk : RegsOnly rs s0 s) (r_fltCount2 : RegName.fltCount2 ∈ rs)
    (r_escCfg : RegName.escCfg ∈ rs) (r_secCount : RegName.secCount ∈ rs) : RegsOnly rs s0 (recordLadder s l) := by
  unfold Sys2Proof.Machine.recordLadder
  with_reducible repeat' first
    | assumption | apply Named.jrnOwe | simp only [Named.upd] | dsimp only | split | intro

theorem Named.holdLadder (s : State) (l : Nat) (hk : RegsOnly rs s0 s) (r_bringup : RegName.bringup ∈ rs)
    (r_fltCount2 : RegName.fltCount2 ∈ rs) (r_escCfg : RegName.escCfg ∈ rs) (r_secCount : RegName.secCount ∈ rs)
    (r_portsUp : RegName.portsUp ∈ rs) (r_evtLanes : RegName.evtLanes ∈ rs) (r_portState : RegName.portState ∈ rs)
    : RegsOnly rs s0 (holdLadder s l) := by
  unfold Sys2Proof.Machine.holdLadder
  with_reducible repeat' first
    | assumption | apply Named.ladderDone | apply Named.recordLadder | apply Named.portFlags | apply Named.laneEvent
    | apply Named.modPort | simp only [Named.upd] | dsimp only | split | intro

theorem Named.execLadderStepPropose (port : Nat) (s : State) (hk : RegsOnly rs s0 s)
    : NamedO rs s0 (execLadderStepPropose port s) := by
  unfold Sys2Proof.Machine.execLadderStepPropose
  with_reducible repeat' first
    | assumption | apply Named.queueMsg | apply Named.setPort | apply NamedO.next | simp only [Named.upd] | dsimp only
    | split | intro

theorem Named.execStepTransmitterSwitch (port : Nat) (s : State) (hk : RegsOnly rs s0 s)
    (r_fltCount2 : RegName.fltCount2 ∈ rs) (r_escCfg : RegName.escCfg ∈ rs) (r_portLatency : RegName.portLatency ∈ rs)
    (r_tokenCtrl : RegName.tokenCtrl ∈ rs) (r_peerStatus : RegName.peerStatus ∈ rs) (r_portsUp : RegName.portsUp ∈ rs)
    (r_evtLanes : RegName.evtLanes ∈ rs) (r_portState : RegName.portState ∈ rs)
    : NamedO rs s0 (execStepTransmitterSwitch port s) := by
  unfold Sys2Proof.Machine.execStepTransmitterSwitch
  with_reducible repeat' first
    | assumption | apply Named.enterState | apply NamedO.next | simp only [Named.upd] | dsimp only | split | intro

theorem Named.execLadderStepSuccess (port skewNs : Nat) (s : State) (hk : RegsOnly rs s0 s)
    (r_bringup : RegName.bringup ∈ rs) (r_fltCount2 : RegName.fltCount2 ∈ rs) (r_escCfg : RegName.escCfg ∈ rs)
    (r_portLatency : RegName.portLatency ∈ rs) (r_tokenCtrl : RegName.tokenCtrl ∈ rs) (r_peerStatus : RegName.peerStatus ∈ rs)
    (r_secCount : RegName.secCount ∈ rs) (r_portsUp : RegName.portsUp ∈ rs) (r_evtLanes : RegName.evtLanes ∈ rs)
    (r_portState : RegName.portState ∈ rs) : NamedO rs s0 (execLadderStepSuccess port skewNs s) := by
  unfold Sys2Proof.Machine.execLadderStepSuccess
  with_reducible repeat' first
    | assumption | apply Named.modPort | apply Named.setF | apply Named.ladderDone | apply Named.recordLadder
    | apply Named.laneEvent | apply Named.enterUp | apply RegIn.portState | apply NamedO.next | simp only [Named.upd]
    | dsimp only | split | intro

theorem Named.tryFailed (s : State) (l : Nat) (hk : RegsOnly rs s0 s) (r_bringup : RegName.bringup ∈ rs)
    (r_fltCount2 : RegName.fltCount2 ∈ rs) (r_escCfg : RegName.escCfg ∈ rs) (r_secCount : RegName.secCount ∈ rs)
    (r_portsUp : RegName.portsUp ∈ rs) (r_evtLanes : RegName.evtLanes ∈ rs) (r_portState : RegName.portState ∈ rs)
    : RegsOnly rs s0 (tryFailed s l) := by
  unfold Sys2Proof.Machine.tryFailed
  with_reducible repeat' first
    | assumption | apply Named.setF | apply Named.holdLadder | apply Named.modPort | apply RegIn.portState
    | simp only [Named.upd] | dsimp only | split | intro

theorem Named.execLadderStepFail (port : Nat) (s : State) (hk : RegsOnly rs s0 s) (r_bringup : RegName.bringup ∈ rs)
    (r_fltCount2 : RegName.fltCount2 ∈ rs) (r_escCfg : RegName.escCfg ∈ rs) (r_portLatency : RegName.portLatency ∈ rs)
    (r_tokenCtrl : RegName.tokenCtrl ∈ rs) (r_peerStatus : RegName.peerStatus ∈ rs) (r_secCount : RegName.secCount ∈ rs)
    (r_portsUp : RegName.portsUp ∈ rs) (r_evtLanes : RegName.evtLanes ∈ rs) (r_portState : RegName.portState ∈ rs)
    : NamedO rs s0 (execLadderStepFail port s) := by
  unfold Sys2Proof.Machine.execLadderStepFail
  with_reducible repeat' first
    | assumption | apply Named.tryFailed | apply Named.modPort | apply Named.enterState | apply Named.setF
    | apply RegIn.portState | apply NamedO.next | simp only [Named.upd] | dsimp only | split | intro

theorem Named.execStepAckTimeout (port : Nat) (s : State) (hk : RegsOnly rs s0 s) (r_bringup : RegName.bringup ∈ rs)
    (r_fltCount2 : RegName.fltCount2 ∈ rs) (r_escCfg : RegName.escCfg ∈ rs) (r_secCount : RegName.secCount ∈ rs)
    (r_portsUp : RegName.portsUp ∈ rs) (r_evtLanes : RegName.evtLanes ∈ rs) (r_portState : RegName.portState ∈ rs)
    : NamedO rs s0 (execStepAckTimeout port s) := by
  unfold Sys2Proof.Machine.execStepAckTimeout
  with_reducible repeat' first
    | assumption | apply Named.tryFailed | apply NamedO.next | simp only [Named.upd] | dsimp only | split | intro

theorem Named.execLadderRetry (port : Nat) (s : State) (hk : RegsOnly rs s0 s) : NamedO rs s0 (execLadderRetry port s) := by
  unfold Sys2Proof.Machine.execLadderRetry
  with_reducible repeat' first
    | assumption | apply Named.modPort | apply NamedO.next | simp only [Named.upd] | dsimp only | split | intro

theorem Named.execLadderNoPeer (port : Nat) (s : State) (hk : RegsOnly rs s0 s) (r_bringup : RegName.bringup ∈ rs)
    (r_fltCount2 : RegName.fltCount2 ∈ rs) (r_escCfg : RegName.escCfg ∈ rs) (r_secCount : RegName.secCount ∈ rs)
    (r_portsUp : RegName.portsUp ∈ rs) (r_evtLanes : RegName.evtLanes ∈ rs) (r_portState : RegName.portState ∈ rs)
    : NamedO rs s0 (execLadderNoPeer port s) := by
  unfold Sys2Proof.Machine.execLadderNoPeer
  with_reducible repeat' first
    | assumption | apply Named.holdLadder | apply NamedO.next | simp only [Named.upd] | dsimp only | split | intro

theorem Named.execFecDegrade (lane symbols words : Nat) (s : State) (hk : RegsOnly rs s0 s)
    (r_fltCount2 : RegName.fltCount2 ∈ rs) (r_escCfg : RegName.escCfg ∈ rs) (r_evtLanes : RegName.evtLanes ∈ rs)
    (r_fecCorr : RegName.fecCorr ∈ rs) (r_fecSymbols : RegName.fecSymbols ∈ rs)
    : NamedO rs s0 (execFecDegrade lane symbols words s) := by
  unfold Sys2Proof.Machine.execFecDegrade
  with_reducible repeat' first
    | assumption | apply Named.add64 | apply Named.laneEvent | apply RegIn.fecCorr | apply RegIn.fecCorr4
    | apply RegIn.fecSymbols | apply RegIn.fecSymbols4 | apply NamedO.next | simp only [Named.upd] | dsimp only | split
    | intro

theorem Named.execUncorrectableCodeword (lane : Nat) (s : State) (hk : RegsOnly rs s0 s)
    (r_fltCount2 : RegName.fltCount2 ∈ rs) (r_escCfg : RegName.escCfg ∈ rs) (r_evtLanes : RegName.evtLanes ∈ rs)
    (r_fecUncorr : RegName.fecUncorr ∈ rs) : NamedO rs s0 (execUncorrectableCodeword lane s) := by
  unfold Sys2Proof.Machine.execUncorrectableCodeword
  with_reducible repeat' first
    | assumption | apply Named.laneEvent | apply Named.add64 | apply RegIn.fecUncorr | apply RegIn.fecUncorr4
    | apply NamedO.next | simp only [Named.upd] | dsimp only | split | intro

theorem Named.execEqLoopStep (lane : Nat) (want : Word) (s : State) (hk : RegsOnly rs s0 s) (r_eqNow : RegName.eqNow ∈ rs)
    : NamedO rs s0 (execEqLoopStep lane want s) := by
  unfold Sys2Proof.Machine.execEqLoopStep
  with_reducible repeat' first
    | assumption | apply Named.forEach | apply Named.setF | apply RegIn.eqNow | apply NamedO.next | simp only [Named.upd]
    | dsimp only | split | intro

theorem Named.execEqPolicyConflict (lane : Nat) (want : Word) (s : State) (hk : RegsOnly rs s0 s)
    (r_fltCount2 : RegName.fltCount2 ∈ rs) (r_escCfg : RegName.escCfg ∈ rs) (r_evtLanes : RegName.evtLanes ∈ rs)
    (r_eqConflict : RegName.eqConflict ∈ rs) : NamedO rs s0 (execEqPolicyConflict lane want s) := by
  unfold Sys2Proof.Machine.execEqPolicyConflict
  with_reducible repeat' first
    | assumption | apply Named.laneEvent | apply Named.setReg | apply Named.noteInterval | apply RegIn.eqConflict
    | apply NamedO.next | simp only [Named.upd] | dsimp only | split | intro

theorem Named.ainCount (s : State) (k : Nat) (hk : RegsOnly rs s0 s) (r_ainCount : RegName.ainCount ∈ rs)
    : RegsOnly rs s0 (ainCount s k) := by
  unfold Sys2Proof.Machine.ainCount
  with_reducible repeat' first
    | assumption | apply Named.add64 | apply RegIn.ainCount | apply RegIn.ainCount4 | apply RegIn.ainCount'
    | apply RegIn.ainCount4' | simp only [Named.upd] | dsimp only | split | intro

theorem Named.tryConfirm (s : State) (l : Nat) (hk : RegsOnly rs s0 s) (r_fltCount2 : RegName.fltCount2 ∈ rs)
    (r_escCfg : RegName.escCfg ∈ rs) : RegsOnly rs s0 (tryConfirm s l) := by
  unfold Sys2Proof.Machine.tryConfirm
  with_reducible repeat' first
    | assumption | apply Named.keyRefused | apply Named.queueMsg | apply Named.setAin | simp only [Named.upd] | dsimp only
    | split | intro

theorem Named.ainAuthFail (s : State) (l : Nat) (hk : RegsOnly rs s0 s) (r_fltCount2 : RegName.fltCount2 ∈ rs)
    (r_escCfg : RegName.escCfg ∈ rs) (r_ainCount : RegName.ainCount ∈ rs) (r_peerStatus : RegName.peerStatus ∈ rs)
    (r_secCount : RegName.secCount ∈ rs) (r_portState : RegName.portState ∈ rs) : RegsOnly rs s0 (ainAuthFail s l) := by
  unfold Sys2Proof.Machine.ainAuthFail
  with_reducible repeat' first
    | assumption | apply Named.raiseLimited | apply Named.secCount | apply Named.ainCount | apply Named.setAin
    | apply Named.endSession | simp only [Named.upd] | dsimp only | split | intro

theorem Named.ainReceive (s : State) (l : Nat) (m : AinMsg) (hk : RegsOnly rs s0 s) (r_fltCount2 : RegName.fltCount2 ∈ rs)
    (r_escCfg : RegName.escCfg ∈ rs) (r_ainCount : RegName.ainCount ∈ rs) (r_peerStatus : RegName.peerStatus ∈ rs)
    (r_secCount : RegName.secCount ∈ rs) (r_portState : RegName.portState ∈ rs) : RegsOnly rs s0 (ainReceive s l m).1 := by
  unfold Sys2Proof.Machine.ainReceive
  with_reducible repeat' first
    | assumption | apply Named.raiseLimited | apply Named.ainCount | apply Named.ainAuthFail | apply Named.secCount
    | apply Named.setAin | simp only [Named.upd] | dsimp only | split | intro

theorem Named.ainTake (s : State) (l t : Nat) (m : AinMsg) (f : State → State) (hk : RegsOnly rs s0 s)
    (hf : ∀ t, RegsOnly rs s0 t → RegsOnly rs s0 (f t)) (r_fltCount2 : RegName.fltCount2 ∈ rs) (r_escCfg : RegName.escCfg ∈ rs)
    (r_ainCount : RegName.ainCount ∈ rs) (r_peerStatus : RegName.peerStatus ∈ rs) (r_secCount : RegName.secCount ∈ rs)
    (r_portState : RegName.portState ∈ rs) : RegsOnly rs s0 (ainTake s l t m f) := by
  unfold Sys2Proof.Machine.ainTake
  with_reducible repeat' first
    | assumption | apply hf | apply Named.ainReceive | simp only [Named.upd] | dsimp only | split | intro

theorem Named.ainSent (s : State) (l : Nat) (pcs : Stamp) (m : AinMsg) (hk : RegsOnly rs s0 s)
    (r_fltCount2 : RegName.fltCount2 ∈ rs) (r_escCfg : RegName.escCfg ∈ rs) (r_portLatency : RegName.portLatency ∈ rs)
    (r_tokenCtrl : RegName.tokenCtrl ∈ rs) : RegsOnly rs s0 (ainSent s l pcs m) := by
  unfold Sys2Proof.Machine.ainSent
  with_reducible repeat' first
    | assumption | apply Named.tryConfirm | apply Named.setAin | apply Named.whenB | apply Named.takeStep
    | apply Named.goSent | simp only [Named.upd] | dsimp only | split | intro

theorem Named.execAinumSend (port idle : Nat) (pcs : Stamp) (s : State) (hk : RegsOnly rs s0 s)
    (r_fltCount2 : RegName.fltCount2 ∈ rs) (r_escCfg : RegName.escCfg ∈ rs) (r_portLatency : RegName.portLatency ∈ rs)
    (r_tokenCtrl : RegName.tokenCtrl ∈ rs) (r_ainCount : RegName.ainCount ∈ rs) (r_secCount : RegName.secCount ∈ rs)
    : NamedO rs s0 (execAinumSend port idle pcs s) := by
  unfold Sys2Proof.Machine.execAinumSend
  with_reducible repeat' first
    | assumption | apply Named.setAin | apply Named.whenB | apply Named.secCount | apply Named.ainCount | apply Named.ainSent
    | apply Named.forEach | apply Named.emit | apply NamedO.next | simp only [Named.upd] | dsimp only | split | intro

theorem Named.queueHello (s : State) (l : Nat) (hk : RegsOnly rs s0 s) : RegsOnly rs s0 (queueHello s l) := by
  unfold Sys2Proof.Machine.queueHello
  with_reducible repeat' first
    | assumption | apply Named.queueMsg | apply Named.drawn | simp only [Named.upd] | dsimp only | split | intro

theorem Named.execHelloTimer (port : Nat) (s : State) (hk : RegsOnly rs s0 s) : NamedO rs s0 (execHelloTimer port s) := by
  unfold Sys2Proof.Machine.execHelloTimer
  with_reducible repeat' first
    | assumption | apply Named.queueHello | apply NamedO.next | simp only [Named.upd] | dsimp only | split | intro

theorem Named.peerFound (s : State) (l : Nat) (hk : RegsOnly rs s0 s) (r_bringup : RegName.bringup ∈ rs)
    (r_fltCount2 : RegName.fltCount2 ∈ rs) (r_escCfg : RegName.escCfg ∈ rs) (r_peerStatus : RegName.peerStatus ∈ rs)
    (r_secCount : RegName.secCount ∈ rs) (r_portsUp : RegName.portsUp ∈ rs) (r_evtLanes : RegName.evtLanes ∈ rs)
    (r_portState : RegName.portState ∈ rs) : RegsOnly rs s0 (peerFound s l) := by
  unfold Sys2Proof.Machine.peerFound
  with_reducible repeat' first
    | assumption | apply Named.setBit | apply Named.whenB | apply Named.raise | apply Named.holdLadder
    | apply RegIn.peerStatus | apply RegIn.portState | simp only [Named.upd] | dsimp only | split | intro

theorem Named.execHello (port : Nat) (msg : AinMsg) (s : State) (hk : RegsOnly rs s0 s) (r_bringup : RegName.bringup ∈ rs)
    (r_fltCount2 : RegName.fltCount2 ∈ rs) (r_escCfg : RegName.escCfg ∈ rs) (r_ainCount : RegName.ainCount ∈ rs)
    (r_peerStatus : RegName.peerStatus ∈ rs) (r_peerId : RegName.peerId ∈ rs) (r_secCount : RegName.secCount ∈ rs)
    (r_portsUp : RegName.portsUp ∈ rs) (r_evtLanes : RegName.evtLanes ∈ rs) (r_portState : RegName.portState ∈ rs)
    : NamedO rs s0 (execHello port msg s) := by
  unfold Sys2Proof.Machine.execHello
  with_reducible repeat' first
    | assumption | apply Named.ainTake | apply Named.raiseLimited | apply Named.setBit | apply Named.endSession
    | apply Named.whenB | apply Named.raise | apply Named.setF | apply Named.setReg64 | apply Named.setAin
    | apply Named.tryConfirm | apply Named.peerFound | apply RegIn.peerStatus | apply RegIn.peerId | apply RegIn.peerId4
    | apply NamedO.next | simp only [Named.upd] | dsimp only | split | intro

theorem Named.execConfirm (port : Nat) (msg : AinMsg) (s : State) (hk : RegsOnly rs s0 s) (r_bringup : RegName.bringup ∈ rs)
    (r_fltCount2 : RegName.fltCount2 ∈ rs) (r_escCfg : RegName.escCfg ∈ rs) (r_ainCount : RegName.ainCount ∈ rs)
    (r_peerStatus : RegName.peerStatus ∈ rs) (r_secCount : RegName.secCount ∈ rs) (r_portsUp : RegName.portsUp ∈ rs)
    (r_evtLanes : RegName.evtLanes ∈ rs) (r_portState : RegName.portState ∈ rs) : NamedO rs s0 (execConfirm port msg s) := by
  unfold Sys2Proof.Machine.execConfirm
  with_reducible repeat' first
    | assumption | apply Named.ainTake | apply Named.peerFound | apply NamedO.next | simp only [Named.upd] | dsimp only
    | split | intro

theorem Named.execPeerTimeout (port : Nat) (s : State) (hk : RegsOnly rs s0 s) (r_fltCount2 : RegName.fltCount2 ∈ rs)
    (r_escCfg : RegName.escCfg ∈ rs) (r_peerStatus : RegName.peerStatus ∈ rs) (r_portState : RegName.portState ∈ rs)
    : NamedO rs s0 (execPeerTimeout port s) := by
  unfold Sys2Proof.Machine.execPeerTimeout
  with_reducible repeat' first
    | assumption | apply Named.endSession | apply NamedO.next | simp only [Named.upd] | dsimp only | split | intro

theorem Named.execStepPropose (port : Nat) (msg : AinMsg) (s : State) (hk : RegsOnly rs s0 s)
    (r_fltCount2 : RegName.fltCount2 ∈ rs) (r_escCfg : RegName.escCfg ∈ rs) (r_ainCount : RegName.ainCount ∈ rs)
    (r_peerStatus : RegName.peerStatus ∈ rs) (r_secCount : RegName.secCount ∈ rs) (r_portState : RegName.portState ∈ rs)
    : NamedO rs s0 (execStepPropose port msg s) := by
  unfold Sys2Proof.Machine.execStepPropose
  with_reducible repeat' first
    | assumption | apply Named.ainTake | apply Named.queueMsg | apply Named.modPort | apply NamedO.next
    | simp only [Named.upd] | dsimp only | split | intro

theorem Named.execStepAck (port : Nat) (msg : AinMsg) (s : State) (hk : RegsOnly rs s0 s)
    (r_fltCount2 : RegName.fltCount2 ∈ rs) (r_escCfg : RegName.escCfg ∈ rs) (r_portLatency : RegName.portLatency ∈ rs)
    (r_ainCount : RegName.ainCount ∈ rs) (r_peerStatus : RegName.peerStatus ∈ rs) (r_secCount : RegName.secCount ∈ rs)
    (r_portState : RegName.portState ∈ rs) : NamedO rs s0 (execStepAck port msg s) := by
  unfold Sys2Proof.Machine.execStepAck
  with_reducible repeat' first
    | assumption | apply Named.ainTake | apply Named.takeStep | apply NamedO.next | simp only [Named.upd] | dsimp only
    | split | intro

theorem Named.answerProposals (s : State) (hk : RegsOnly rs s0 s) : RegsOnly rs s0 (answerProposals s) := by
  unfold Sys2Proof.Machine.answerProposals
  with_reducible repeat' first
    | assumption | apply Named.forEach | apply Named.modPort | apply Named.queueMsg | simp only [Named.upd] | dsimp only
    | split | intro

theorem Named.execTimeSyncTimer (port : Nat) (s : State) (hk : RegsOnly rs s0 s)
    : NamedO rs s0 (execTimeSyncTimer port s) := by
  unfold Sys2Proof.Machine.execTimeSyncTimer
  with_reducible repeat' first
    | assumption | apply Named.queueMsg | apply NamedO.next | simp only [Named.upd] | dsimp only | split | intro

theorem Named.execTimeSync (port : Nat) (msg : AinMsg) (t2 : Stamp) (s : State) (hk : RegsOnly rs s0 s)
    (r_fltCount2 : RegName.fltCount2 ∈ rs) (r_escCfg : RegName.escCfg ∈ rs) (r_ainCount : RegName.ainCount ∈ rs)
    (r_peerStatus : RegName.peerStatus ∈ rs) (r_secCount : RegName.secCount ∈ rs) (r_portState : RegName.portState ∈ rs)
    : NamedO rs s0 (execTimeSync port msg t2 s) := by
  unfold Sys2Proof.Machine.execTimeSync
  with_reducible repeat' first
    | assumption | apply Named.ainTake | apply Named.queueMsg | apply NamedO.next | simp only [Named.upd] | dsimp only
    | split | intro

theorem Named.execTimeReply (port : Nat) (msg : AinMsg) (t4 : Stamp) (s : State) (hk : RegsOnly rs s0 s)
    (r_fltCount2 : RegName.fltCount2 ∈ rs) (r_escCfg : RegName.escCfg ∈ rs) (r_ainCount : RegName.ainCount ∈ rs)
    (r_peerStatus : RegName.peerStatus ∈ rs) (r_ainOffset : RegName.ainOffset ∈ rs) (r_ainDelay : RegName.ainDelay ∈ rs)
    (r_ainTimeStatus : RegName.ainTimeStatus ∈ rs) (r_exTs32 : RegName.exTs32 ∈ rs) (r_secCount : RegName.secCount ∈ rs)
    (r_portState : RegName.portState ∈ rs) : NamedO rs s0 (execTimeReply port msg t4 s) := by
  unfold Sys2Proof.Machine.execTimeReply
  with_reducible repeat' first
    | assumption | apply Named.ainTake | apply Named.setAin | apply Named.drawn | apply Named.setReg64 | apply Named.setReg
    | apply Named.setBit | apply Named.whenB | apply Named.raise | apply RegIn.ainOffset | apply RegIn.ainOffset4
    | apply RegIn.ainDelay | apply RegIn.ainTimeStatus | apply RegIn.exTs32 | apply NamedO.next | simp only [Named.upd]
    | dsimp only | split | intro

theorem Named.sendToken (s : State) (ports : List Nat) (hop payload : Nat) (hk : RegsOnly rs s0 s)
    : RegsOnly rs s0 (sendToken s ports hop payload) := by
  unfold Sys2Proof.Machine.sendToken
  with_reducible repeat' first
    | assumption | apply Named.forEach | apply Named.queueMsg | simp only [Named.upd] | dsimp only | split | intro

theorem Named.execToken (port : Nat) (msg : AinMsg) (s : State) (hk : RegsOnly rs s0 s)
    (r_fltCount2 : RegName.fltCount2 ∈ rs) (r_escCfg : RegName.escCfg ∈ rs) (r_tokenLast : RegName.tokenLast ∈ rs)
    (r_ainCount : RegName.ainCount ∈ rs) (r_peerStatus : RegName.peerStatus ∈ rs) (r_secCount : RegName.secCount ∈ rs)
    (r_domCtrl : RegName.domCtrl ∈ rs) (r_domT : RegName.domT ∈ rs) (r_portState : RegName.portState ∈ rs)
    : NamedO rs s0 (execToken port msg s) := by
  unfold Sys2Proof.Machine.execToken
  with_reducible repeat' first
    | assumption | apply Named.ainTake | apply Named.raiseLimited | apply Named.ainCount | apply Named.raise
    | apply Named.setReg | apply Named.tokenArrive | apply Named.add64 | apply Named.sendToken | apply RegIn.tokenLast
    | apply RegIn.ainCount | apply RegIn.ainCount4 | apply RegIn.ainCount' | apply RegIn.ainCount4' | apply NamedO.next
    | simp only [Named.upd] | dsimp only | split | intro

theorem Named.execTokenGo (s : State) (hk : RegsOnly rs s0 s) (r_fltCount2 : RegName.fltCount2 ∈ rs)
    (r_escCfg : RegName.escCfg ∈ rs) (r_tokenCtrl : RegName.tokenCtrl ∈ rs) (r_tokenLast : RegName.tokenLast ∈ rs)
    (r_domCtrl : RegName.domCtrl ∈ rs) (r_domT : RegName.domT ∈ rs) : NamedO rs s0 (execTokenGo s) := by
  unfold Sys2Proof.Machine.execTokenGo
  with_reducible repeat' first
    | assumption | apply Named.holdWrite | apply Named.setReg | apply Named.tokenArrive | apply Named.setBit
    | apply Named.sendToken | apply Named.goSent | apply RegIn.tokenCtrl | apply RegIn.tokenLast | apply NamedO.next
    | simp only [Named.upd] | dsimp only | split | intro

theorem Named.capNotice (s : State) (kind hall step us : Nat) (hk : RegsOnly rs s0 s)
    : RegsOnly rs s0 (capNotice s kind hall step us) := by
  unfold Sys2Proof.Machine.capNotice
  with_reducible repeat' first
    | assumption | apply Named.step | apply Named.forEach | apply Named.queueMsg | simp only [Named.upd] | dsimp only | split
    | intro

theorem Named.execCapNotice (port : Nat) (msg : AinMsg) (s : State) (hk : RegsOnly rs s0 s)
    (r_fltCount2 : RegName.fltCount2 ∈ rs) (r_escCfg : RegName.escCfg ∈ rs) (r_capLast : RegName.capLast ∈ rs)
    (r_ainCount : RegName.ainCount ∈ rs) (r_peerStatus : RegName.peerStatus ∈ rs) (r_secCount : RegName.secCount ∈ rs)
    (r_portState : RegName.portState ∈ rs) : NamedO rs s0 (execCapNotice port msg s) := by
  unfold Sys2Proof.Machine.execCapNotice
  with_reducible repeat' first
    | assumption | apply Named.ainTake | apply Named.raise | apply Named.setReg64 | apply RegIn.capLast
    | apply RegIn.capLast4 | apply NamedO.next | simp only [Named.upd] | dsimp only | split | intro

theorem Named.setBay (s : State) (c : Nat) (b : Bay) (hk : RegsOnly rs s0 s) : RegsOnly rs s0 (setBay s c b) := by
  unfold Sys2Proof.Machine.setBay
  with_reducible repeat' first
    | assumption | simp only [Named.upd] | dsimp only | split | intro

theorem Named.modBay (s : State) (c : Nat) (f : Bay → Bay) (hk : RegsOnly rs s0 s) : RegsOnly rs s0 (modBay s c f) := by
  unfold Sys2Proof.Machine.modBay
  with_reducible repeat' first
    | assumption | apply Named.setBay | simp only [Named.upd] | dsimp only | split | intro

theorem Named.updSafe (s : State) (hk : RegsOnly rs s0 s) (r_bayStatus : RegName.bayStatus ∈ rs)
    : RegsOnly rs s0 (updSafe s) := by
  unfold Sys2Proof.Machine.updSafe
  with_reducible repeat' first
    | assumption | apply Named.forEach | apply Named.setBit | apply RegIn.bayStatus | simp only [Named.upd] | dsimp only
    | split | intro

theorem Named.cartDone (s : State) (hk : RegsOnly rs s0 s) (r_bringup : RegName.bringup ∈ rs)
    (r_fltCount2 : RegName.fltCount2 ∈ rs) (r_escCfg : RegName.escCfg ∈ rs) : RegsOnly rs s0 (cartDone s) := by
  unfold Sys2Proof.Machine.cartDone
  with_reducible repeat' first
    | assumption | apply Named.ladderDone | apply Named.setBringup | simp only [Named.upd] | dsimp only | split | intro

theorem Named.bayTo (s : State) (c st : Nat) (tell : Bool) (hk : RegsOnly rs s0 s) (r_bringup : RegName.bringup ∈ rs)
    (r_fltCount2 : RegName.fltCount2 ∈ rs) (r_escCfg : RegName.escCfg ∈ rs) (r_bayStatus : RegName.bayStatus ∈ rs)
    : RegsOnly rs s0 (bayTo s c st tell) := by
  unfold Sys2Proof.Machine.bayTo
  with_reducible repeat' first
    | assumption | apply Named.whenB | apply Named.raise | apply Named.cartDone | apply Named.updSafe | apply Named.setF
    | apply RegIn.bayStatus | simp only [Named.upd] | dsimp only | split | intro

theorem Named.setTarget (s : State) (c n t : Nat) (hk : RegsOnly rs s0 s) (r_chFull : RegName.chFull ∈ rs)
    : RegsOnly rs s0 (setTarget s c n t) := by
  unfold Sys2Proof.Machine.setTarget
  with_reducible repeat' first
    | assumption | apply Named.whenB | apply Named.drawn | apply Named.modBay | apply Named.setReg64 | apply RegIn.chFull
    | apply RegIn.chFull4 | simp only [Named.upd] | dsimp only | split | intro

theorem Named.inputDark (s : State) (g i : Nat) (hk : RegsOnly rs s0 s) (r_fltCount2 : RegName.fltCount2 ∈ rs)
    (r_escCfg : RegName.escCfg ∈ rs) (r_portLatency : RegName.portLatency ∈ rs) (r_tokenCtrl : RegName.tokenCtrl ∈ rs)
    (r_peerStatus : RegName.peerStatus ∈ rs) (r_portsUp : RegName.portsUp ∈ rs) (r_evtLanes : RegName.evtLanes ∈ rs)
    (r_portState : RegName.portState ∈ rs) : RegsOnly rs s0 (inputDark s g i) := by
  unfold Sys2Proof.Machine.inputDark
  with_reducible repeat' first
    | assumption | apply Named.forEach | apply Named.linkDown | simp only [Named.upd] | dsimp only | split | intro

theorem Named.bayDark (s : State) (c : Nat) (hk : RegsOnly rs s0 s) (r_fltCount2 : RegName.fltCount2 ∈ rs)
    (r_escCfg : RegName.escCfg ∈ rs) (r_portLatency : RegName.portLatency ∈ rs) (r_tokenCtrl : RegName.tokenCtrl ∈ rs)
    (r_peerStatus : RegName.peerStatus ∈ rs) (r_chFull : RegName.chFull ∈ rs) (r_portsUp : RegName.portsUp ∈ rs)
    (r_evtLanes : RegName.evtLanes ∈ rs) (r_portState : RegName.portState ∈ rs) : RegsOnly rs s0 (bayDark s c) := by
  unfold Sys2Proof.Machine.bayDark
  with_reducible repeat' first
    | assumption | apply Named.modBay | apply Named.setReg64 | apply Named.forEach | apply Named.inputDark
    | apply RegIn.chFull | apply RegIn.chFull4 | simp only [Named.upd] | dsimp only | split | intro

theorem Named.wearReport (s : State) (c : Nat) (hk : RegsOnly rs s0 s) (r_fltCount2 : RegName.fltCount2 ∈ rs)
    (r_escCfg : RegName.escCfg ∈ rs) (r_bayStatus : RegName.bayStatus ∈ rs) (r_bayWear : RegName.bayWear ∈ rs)
    : RegsOnly rs s0 (wearReport s c) := by
  unfold Sys2Proof.Machine.wearReport
  with_reducible repeat' first
    | assumption | apply Named.setReg | apply Named.setBit | apply Named.forEach | apply Named.raise | apply RegIn.bayStatus
    | apply RegIn.bayWear | simp only [Named.upd] | dsimp only | split | intro

theorem Named.wearRecord (s : State) (c : Nat) (hk : RegsOnly rs s0 s) (r_fltCount2 : RegName.fltCount2 ∈ rs)
    (r_escCfg : RegName.escCfg ∈ rs) (r_secCount : RegName.secCount ∈ rs) : RegsOnly rs s0 (wearRecord s c) := by
  unfold Sys2Proof.Machine.wearRecord
  with_reducible repeat' first
    | assumption | apply Named.modBay | apply Named.jrnOwe | simp only [Named.upd] | dsimp only | split | intro

theorem Named.execWearTick (outputs : List (Nat × Nat × Nat)) (s : State) (hk : RegsOnly rs s0 s)
    (r_fltCount2 : RegName.fltCount2 ∈ rs) (r_escCfg : RegName.escCfg ∈ rs) (r_bayStatus : RegName.bayStatus ∈ rs)
    (r_bayWear : RegName.bayWear ∈ rs) : NamedO rs s0 (execWearTick outputs s) := by
  unfold Sys2Proof.Machine.execWearTick
  with_reducible repeat' first
    | assumption | apply Named.forEach | apply Named.wearReport | apply Named.setBay | apply Named.foldl | apply Named.foldl1
    | apply NamedO.next | simp only [Named.upd] | dsimp only | split | intro

theorem Named.execWearRecordWrite (failedBlocks : List Nat) (s : State) (hk : RegsOnly rs s0 s)
    (r_fltCount2 : RegName.fltCount2 ∈ rs) (r_escCfg : RegName.escCfg ∈ rs) (r_secCount : RegName.secCount ∈ rs)
    : NamedO rs s0 (execWearRecordWrite failedBlocks s) := by
  unfold Sys2Proof.Machine.execWearRecordWrite
  with_reducible repeat' first
    | assumption | apply Named.jrnFailed | apply Named.forEach | apply Named.wearRecord | apply NamedO.next
    | simp only [Named.upd] | dsimp only | split | intro

theorem Named.noteUnsafe (s : State) (c : Nat) (hk : RegsOnly rs s0 s) (r_fltCount2 : RegName.fltCount2 ∈ rs)
    (r_escCfg : RegName.escCfg ∈ rs) : RegsOnly rs s0 (noteUnsafe s c) := by
  unfold Sys2Proof.Machine.noteUnsafe
  with_reducible repeat' first
    | assumption | apply Named.whenB | apply Named.raise | simp only [Named.upd] | dsimp only | split | intro

theorem Named.startRemoval (s : State) (c : Nat) (hk : RegsOnly rs s0 s) (r_fltCount2 : RegName.fltCount2 ∈ rs)
    (r_escCfg : RegName.escCfg ∈ rs) : RegsOnly rs s0 (startRemoval s c) := by
  unfold Sys2Proof.Machine.startRemoval
  with_reducible repeat' first
    | assumption | apply Named.modBay | apply Named.noteUnsafe | apply Named.step | simp only [Named.upd] | dsimp only
    | split | intro

theorem Named.enLow (s : State) (c : Nat) (hk : RegsOnly rs s0 s) (r_fltCount2 : RegName.fltCount2 ∈ rs)
    (r_escCfg : RegName.escCfg ∈ rs) (r_portLatency : RegName.portLatency ∈ rs) (r_tokenCtrl : RegName.tokenCtrl ∈ rs)
    (r_peerStatus : RegName.peerStatus ∈ rs) (r_bayStatus : RegName.bayStatus ∈ rs) (r_chFull : RegName.chFull ∈ rs)
    (r_portsUp : RegName.portsUp ∈ rs) (r_evtLanes : RegName.evtLanes ∈ rs) (r_portState : RegName.portState ∈ rs)
    : RegsOnly rs s0 (enLow s c) := by
  unfold Sys2Proof.Machine.enLow
  with_reducible repeat' first
    | assumption | apply Named.bayDark | apply Named.setBit | apply RegIn.bayStatus | simp only [Named.upd] | dsimp only
    | split | intro

theorem Named.abandon (s : State) (c : Nat) (hk : RegsOnly rs s0 s) (r_fltCount2 : RegName.fltCount2 ∈ rs)
    (r_escCfg : RegName.escCfg ∈ rs) (r_portLatency : RegName.portLatency ∈ rs) (r_tokenCtrl : RegName.tokenCtrl ∈ rs)
    (r_peerStatus : RegName.peerStatus ∈ rs) (r_bayStatus : RegName.bayStatus ∈ rs) (r_chFull : RegName.chFull ∈ rs)
    (r_portsUp : RegName.portsUp ∈ rs) (r_evtLanes : RegName.evtLanes ∈ rs) (r_portState : RegName.portState ∈ rs)
    : RegsOnly rs s0 (abandon s c) := by
  unfold Sys2Proof.Machine.abandon
  with_reducible repeat' first
    | assumption | apply Named.modBay | apply Named.enLow | apply Named.step | simp only [Named.upd] | dsimp only | split
    | intro

theorem Named.reverseRamp (s : State) (c : Nat) (hk : RegsOnly rs s0 s) (r_bringup : RegName.bringup ∈ rs)
    (r_fltCount2 : RegName.fltCount2 ∈ rs) (r_escCfg : RegName.escCfg ∈ rs) (r_bayStatus : RegName.bayStatus ∈ rs)
    : RegsOnly rs s0 (reverseRamp s c) := by
  unfold Sys2Proof.Machine.reverseRamp
  with_reducible repeat' first
    | assumption | apply Named.bayTo | apply Named.modBay | apply Named.noteUnsafe | apply Named.step | simp only [Named.upd]
    | dsimp only | split | intro

theorem Named.latchOpened (s : State) (c : Nat) (hk : RegsOnly rs s0 s) (r_bringup : RegName.bringup ∈ rs)
    (r_fltCount2 : RegName.fltCount2 ∈ rs) (r_escCfg : RegName.escCfg ∈ rs) (r_portLatency : RegName.portLatency ∈ rs)
    (r_tokenCtrl : RegName.tokenCtrl ∈ rs) (r_peerStatus : RegName.peerStatus ∈ rs) (r_bayStatus : RegName.bayStatus ∈ rs)
    (r_chFull : RegName.chFull ∈ rs) (r_portsUp : RegName.portsUp ∈ rs) (r_evtLanes : RegName.evtLanes ∈ rs)
    (r_portState : RegName.portState ∈ rs) : RegsOnly rs s0 (latchOpened s c) := by
  unfold Sys2Proof.Machine.latchOpened
  with_reducible repeat' first
    | assumption | apply Named.abandon | apply Named.modBay | apply Named.reverseRamp | apply Named.startRemoval
    | simp only [Named.upd] | dsimp only | split | intro

theorem Named.forgetCart (s : State) (c : Nat) (hk : RegsOnly rs s0 s) (r_bayStatus : RegName.bayStatus ∈ rs)
    (r_baySerial : RegName.baySerial ∈ rs) (r_bayWear : RegName.bayWear ∈ rs) (r_bayFull : RegName.bayFull ∈ rs)
    : RegsOnly rs s0 (forgetCart s c) := by
  unfold Sys2Proof.Machine.forgetCart
  with_reducible repeat' first
    | assumption | apply Named.setReg64 | apply Named.setReg | apply Named.setBit | apply Named.setF | apply Named.modBay
    | apply RegIn.bayStatus | apply RegIn.baySerial | apply RegIn.baySerial4 | apply RegIn.bayWear | apply RegIn.bayFull
    | simp only [Named.upd] | dsimp only | split | intro

theorem Named.failShare (s : State) (bay ch : Nat) (hk : RegsOnly rs s0 s) (r_fltCount2 : RegName.fltCount2 ∈ rs)
    (r_escCfg : RegName.escCfg ∈ rs) (r_portLatency : RegName.portLatency ∈ rs) (r_tokenCtrl : RegName.tokenCtrl ∈ rs)
    (r_peerStatus : RegName.peerStatus ∈ rs) (r_bayStatus : RegName.bayStatus ∈ rs) (r_chFailed : RegName.chFailed ∈ rs)
    (r_chFull : RegName.chFull ∈ rs) (r_portsUp : RegName.portsUp ∈ rs) (r_evtLanes : RegName.evtLanes ∈ rs)
    (r_portState : RegName.portState ∈ rs) : RegsOnly rs s0 (failShare s bay ch) := by
  unfold Sys2Proof.Machine.failShare
  with_reducible repeat' first
    | assumption | apply Named.setReg64 | apply Named.modBay | apply Named.setTarget | apply Named.inputDark
    | apply Named.raise | apply Named.updSafe | apply RegIn.chFailed | apply RegIn.chFailed4 | simp only [Named.upd]
    | dsimp only | split | intro

theorem Named.startInsert (s : State) (c : Nat) (hk : RegsOnly rs s0 s) (r_bringup : RegName.bringup ∈ rs)
    (r_fltCount2 : RegName.fltCount2 ∈ rs) (r_escCfg : RegName.escCfg ∈ rs) (r_bayStatus : RegName.bayStatus ∈ rs)
    : RegsOnly rs s0 (startInsert s c) := by
  unfold Sys2Proof.Machine.startInsert
  with_reducible repeat' first
    | assumption | apply Named.bayTo | apply Named.modBay | apply Named.step | simp only [Named.upd] | dsimp only | split
    | intro

theorem Named.execCartPresenceChange (bay : Nat) (present : Bool) (s : State) (hk : RegsOnly rs s0 s)
    (r_bringup : RegName.bringup ∈ rs) (r_fltCount2 : RegName.fltCount2 ∈ rs) (r_escCfg : RegName.escCfg ∈ rs)
    (r_portLatency : RegName.portLatency ∈ rs) (r_tokenCtrl : RegName.tokenCtrl ∈ rs) (r_peerStatus : RegName.peerStatus ∈ rs)
    (r_bayStatus : RegName.bayStatus ∈ rs) (r_baySerial : RegName.baySerial ∈ rs) (r_bayWear : RegName.bayWear ∈ rs)
    (r_bayFull : RegName.bayFull ∈ rs) (r_chFailed : RegName.chFailed ∈ rs) (r_chFull : RegName.chFull ∈ rs)
    (r_portsUp : RegName.portsUp ∈ rs) (r_evtLanes : RegName.evtLanes ∈ rs) (r_portState : RegName.portState ∈ rs)
    : NamedO rs s0 (execCartPresenceChange bay present s) := by
  unfold Sys2Proof.Machine.execCartPresenceChange
  with_reducible repeat' first
    | assumption | apply Named.setBit | apply Named.startInsert | apply Named.bayTo | apply Named.forEach
    | apply Named.failShare | apply Named.forgetCart | apply Named.abandon | apply RegIn.bayStatus | apply NamedO.next
    | simp only [Named.upd] | dsimp only | split | intro

theorem Named.execCartLatchOpen (bay : Nat) (s : State) (hk : RegsOnly rs s0 s) (r_bringup : RegName.bringup ∈ rs)
    (r_fltCount2 : RegName.fltCount2 ∈ rs) (r_escCfg : RegName.escCfg ∈ rs) (r_portLatency : RegName.portLatency ∈ rs)
    (r_tokenCtrl : RegName.tokenCtrl ∈ rs) (r_peerStatus : RegName.peerStatus ∈ rs) (r_bayStatus : RegName.bayStatus ∈ rs)
    (r_chFull : RegName.chFull ∈ rs) (r_portsUp : RegName.portsUp ∈ rs) (r_evtLanes : RegName.evtLanes ∈ rs)
    (r_portState : RegName.portState ∈ rs) : NamedO rs s0 (execCartLatchOpen bay s) := by
  unfold Sys2Proof.Machine.execCartLatchOpen
  with_reducible repeat' first
    | assumption | apply Named.setBit | apply Named.latchOpened | apply RegIn.bayStatus | apply NamedO.next
    | simp only [Named.upd] | dsimp only | split | intro

theorem Named.execCartLatchClose (bay : Nat) (s : State) (hk : RegsOnly rs s0 s) (r_bringup : RegName.bringup ∈ rs)
    (r_fltCount2 : RegName.fltCount2 ∈ rs) (r_escCfg : RegName.escCfg ∈ rs) (r_bayStatus : RegName.bayStatus ∈ rs)
    : NamedO rs s0 (execCartLatchClose bay s) := by
  unfold Sys2Proof.Machine.execCartLatchClose
  with_reducible repeat' first
    | assumption | apply Named.setBit | apply Named.startInsert | apply Named.modBay | apply RegIn.bayStatus
    | apply NamedO.next | simp only [Named.upd] | dsimp only | split | intro

theorem Named.serveAsked (s : State) (c : Nat) (hk : RegsOnly rs s0 s) (r_bringup : RegName.bringup ∈ rs)
    (r_fltCount2 : RegName.fltCount2 ∈ rs) (r_escCfg : RegName.escCfg ∈ rs) (r_portLatency : RegName.portLatency ∈ rs)
    (r_tokenCtrl : RegName.tokenCtrl ∈ rs) (r_peerStatus : RegName.peerStatus ∈ rs) (r_bayStatus : RegName.bayStatus ∈ rs)
    (r_chFull : RegName.chFull ∈ rs) (r_portsUp : RegName.portsUp ∈ rs) (r_evtLanes : RegName.evtLanes ∈ rs)
    (r_portState : RegName.portState ∈ rs) : RegsOnly rs s0 (serveAsked s c) := by
  unfold Sys2Proof.Machine.serveAsked
  with_reducible repeat' first
    | assumption | apply Named.modBay | apply Named.latchOpened | simp only [Named.upd] | dsimp only | split | intro

theorem Named.execCartInt (bay : Nat) (shutdown : Bool) (s : State) (hk : RegsOnly rs s0 s)
    (r_bringup : RegName.bringup ∈ rs) (r_fltCount2 : RegName.fltCount2 ∈ rs) (r_escCfg : RegName.escCfg ∈ rs)
    (r_portLatency : RegName.portLatency ∈ rs) (r_tokenCtrl : RegName.tokenCtrl ∈ rs) (r_peerStatus : RegName.peerStatus ∈ rs)
    (r_bayStatus : RegName.bayStatus ∈ rs) (r_chFull : RegName.chFull ∈ rs) (r_portsUp : RegName.portsUp ∈ rs)
    (r_evtLanes : RegName.evtLanes ∈ rs) (r_portState : RegName.portState ∈ rs) : NamedO rs s0 (execCartInt bay shutdown s) := by
  unfold Sys2Proof.Machine.execCartInt
  with_reducible repeat' first
    | assumption | apply Named.modBay | apply Named.serveAsked | apply NamedO.next | simp only [Named.upd] | dsimp only
    | split | intro

theorem Named.execRemovalRampStart (bay : Nat) (s : State) (hk : RegsOnly rs s0 s) (r_bringup : RegName.bringup ∈ rs)
    (r_fltCount2 : RegName.fltCount2 ∈ rs) (r_escCfg : RegName.escCfg ∈ rs) (r_bayStatus : RegName.bayStatus ∈ rs)
    : NamedO rs s0 (execRemovalRampStart bay s) := by
  unfold Sys2Proof.Machine.execRemovalRampStart
  with_reducible repeat' first
    | assumption | apply Named.modBay | apply Named.step | apply Named.bayTo | apply NamedO.next | simp only [Named.upd]
    | dsimp only | split | intro

theorem Named.execRemovalRampDone (bay : Nat) (s : State) (hk : RegsOnly rs s0 s) (r_chFull : RegName.chFull ∈ rs)
    : NamedO rs s0 (execRemovalRampDone bay s) := by
  unfold Sys2Proof.Machine.execRemovalRampDone
  with_reducible repeat' first
    | assumption | apply Named.modBay | apply Named.step | apply Named.forEach | apply Named.setTarget | apply NamedO.next
    | simp only [Named.upd] | dsimp only | split | intro

theorem Named.execRemovalEnLow (bay : Nat) (s : State) (hk : RegsOnly rs s0 s) (r_bringup : RegName.bringup ∈ rs)
    (r_fltCount2 : RegName.fltCount2 ∈ rs) (r_escCfg : RegName.escCfg ∈ rs) (r_portLatency : RegName.portLatency ∈ rs)
    (r_tokenCtrl : RegName.tokenCtrl ∈ rs) (r_peerStatus : RegName.peerStatus ∈ rs) (r_secCount : RegName.secCount ∈ rs)
    (r_bayStatus : RegName.bayStatus ∈ rs) (r_chFull : RegName.chFull ∈ rs) (r_portsUp : RegName.portsUp ∈ rs)
    (r_evtLanes : RegName.evtLanes ∈ rs) (r_portState : RegName.portState ∈ rs) : NamedO rs s0 (execRemovalEnLow bay s) := by
  unfold Sys2Proof.Machine.execRemovalEnLow
  with_reducible repeat' first
    | assumption | apply Named.enLow | apply Named.wearRecord | apply Named.modBay | apply Named.step
    | apply Named.startInsert | apply NamedO.next | simp only [Named.upd] | dsimp only | split | intro

theorem Named.sendChallenge (s : State) (c : Nat) (hk : RegsOnly rs s0 s) : RegsOnly rs s0 (sendChallenge s c) := by
  unfold Sys2Proof.Machine.sendChallenge
  with_reducible repeat' first
    | assumption | apply Named.emit | apply Named.modBay | apply Named.drawn | simp only [Named.upd] | dsimp only | split
    | intro

theorem Named.readIdentity (s : State) (c : Nat) (i : Identity) (hk : RegsOnly rs s0 s)
    (r_fltCount2 : RegName.fltCount2 ∈ rs) (r_escCfg : RegName.escCfg ∈ rs) (r_secCount : RegName.secCount ∈ rs)
    (r_bayStatus : RegName.bayStatus ∈ rs) (r_baySerial : RegName.baySerial ∈ rs) (r_bayWear : RegName.bayWear ∈ rs)
    (r_chFailed : RegName.chFailed ∈ rs) : RegsOnly rs s0 (readIdentity s c i) := by
  unfold Sys2Proof.Machine.readIdentity
  with_reducible repeat' first
    | assumption | apply Named.jrnReads | apply Named.whenB | apply Named.modBay | apply Named.setReg64 | apply Named.emit
    | apply Named.step | apply Named.sendChallenge | apply Named.wearReport | apply Named.foldl | apply Named.foldl1
    | apply RegIn.baySerial | apply RegIn.baySerial4 | apply RegIn.chFailed | apply RegIn.chFailed4 | simp only [Named.upd]
    | dsimp only | split | intro

theorem Named.execCartAuthenticating (bay : Nat) (identity : Identity) (s : State) (hk : RegsOnly rs s0 s)
    (r_bringup : RegName.bringup ∈ rs) (r_fltCount2 : RegName.fltCount2 ∈ rs) (r_escCfg : RegName.escCfg ∈ rs)
    (r_secCount : RegName.secCount ∈ rs) (r_bayStatus : RegName.bayStatus ∈ rs) (r_baySerial : RegName.baySerial ∈ rs)
    (r_bayWear : RegName.bayWear ∈ rs) (r_chFailed : RegName.chFailed ∈ rs)
    : NamedO rs s0 (execCartAuthenticating bay identity s) := by
  unfold Sys2Proof.Machine.execCartAuthenticating
  with_reducible repeat' first
    | assumption | apply Named.bayTo | apply Named.modBay | apply Named.step | apply Named.readIdentity | apply NamedO.next
    | simp only [Named.upd] | dsimp only | split | intro

theorem Named.noteTrust (s : State) (c : Nat) (ok : Bool) (hk : RegsOnly rs s0 s) (r_secCount : RegName.secCount ∈ rs)
    (r_bayStatus : RegName.bayStatus ∈ rs) (r_bayFull : RegName.bayFull ∈ rs) : RegsOnly rs s0 (noteTrust s c ok) := by
  unfold Sys2Proof.Machine.noteTrust
  with_reducible repeat' first
    | assumption | apply Named.setBit | apply Named.whenB | apply Named.secCount | apply Named.setReg | apply Named.modBay
    | apply Named.foldl | apply Named.foldl1 | apply RegIn.bayStatus | apply RegIn.bayFull | simp only [Named.upd]
    | dsimp only | split | intro

theorem Named.applyPolicy (s : State) (c : Nat) (ok : Bool) (hk : RegsOnly rs s0 s) (r_bringup : RegName.bringup ∈ rs)
    (r_fltCount2 : RegName.fltCount2 ∈ rs) (r_escCfg : RegName.escCfg ∈ rs) (r_bayStatus : RegName.bayStatus ∈ rs)
    : RegsOnly rs s0 (applyPolicy s c ok) := by
  unfold Sys2Proof.Machine.applyPolicy
  with_reducible repeat' first
    | assumption | apply Named.whenB | apply Named.raise | apply Named.modBay | apply Named.step | apply Named.bayTo
    | simp only [Named.upd] | dsimp only | split | intro

theorem Named.execCartChallengeCheck (bay : Nat) (tag : List Byte) (s : State) (hk : RegsOnly rs s0 s)
    (r_bringup : RegName.bringup ∈ rs) (r_fltCount2 : RegName.fltCount2 ∈ rs) (r_escCfg : RegName.escCfg ∈ rs)
    (r_secCount : RegName.secCount ∈ rs) (r_bayStatus : RegName.bayStatus ∈ rs) (r_bayFull : RegName.bayFull ∈ rs)
    : NamedO rs s0 (execCartChallengeCheck bay tag s) := by
  unfold Sys2Proof.Machine.execCartChallengeCheck
  with_reducible repeat' first
    | assumption | apply Named.applyPolicy | apply Named.noteTrust | apply NamedO.next | simp only [Named.upd] | dsimp only
    | split | intro

theorem Named.execCartEnRaise (bay : Nat) (s : State) (hk : RegsOnly rs s0 s) (r_bayStatus : RegName.bayStatus ∈ rs)
    : NamedO rs s0 (execCartEnRaise bay s) := by
  unfold Sys2Proof.Machine.execCartEnRaise
  with_reducible repeat' first
    | assumption | apply Named.modBay | apply Named.setBit | apply Named.step | apply RegIn.bayStatus | apply NamedO.next
    | simp only [Named.upd] | dsimp only | split | intro

theorem Named.execCartActivate (bay : Nat) (s : State) (hk : RegsOnly rs s0 s) (r_bringup : RegName.bringup ∈ rs)
    (r_fltCount2 : RegName.fltCount2 ∈ rs) (r_escCfg : RegName.escCfg ∈ rs) (r_bayStatus : RegName.bayStatus ∈ rs)
    (r_chFull : RegName.chFull ∈ rs) : NamedO rs s0 (execCartActivate bay s) := by
  unfold Sys2Proof.Machine.execCartActivate
  with_reducible repeat' first
    | assumption | apply Named.modBay | apply Named.step | apply Named.forEach | apply Named.setTarget | apply Named.bayTo
    | apply NamedO.next | simp only [Named.upd] | dsimp only | split | intro

theorem Named.execShareFailed (bay ch : Nat) (s : State) (hk : RegsOnly rs s0 s) (r_fltCount2 : RegName.fltCount2 ∈ rs)
    (r_escCfg : RegName.escCfg ∈ rs) (r_portLatency : RegName.portLatency ∈ rs) (r_tokenCtrl : RegName.tokenCtrl ∈ rs)
    (r_peerStatus : RegName.peerStatus ∈ rs) (r_bayStatus : RegName.bayStatus ∈ rs) (r_chFailed : RegName.chFailed ∈ rs)
    (r_chFull : RegName.chFull ∈ rs) (r_portsUp : RegName.portsUp ∈ rs) (r_evtLanes : RegName.evtLanes ∈ rs)
    (r_portState : RegName.portState ∈ rs) : NamedO rs s0 (execShareFailed bay ch s) := by
  unfold Sys2Proof.Machine.execShareFailed
  with_reducible repeat' first
    | assumption | apply Named.failShare | apply NamedO.next | simp only [Named.upd] | dsimp only | split | intro

theorem Named.execLightLow (g input : Nat) (s : State) (hk : RegsOnly rs s0 s) (r_fltCount2 : RegName.fltCount2 ∈ rs)
    (r_escCfg : RegName.escCfg ∈ rs) (r_evtLanes : RegName.evtLanes ∈ rs) : NamedO rs s0 (execLightLow g input s) := by
  unfold Sys2Proof.Machine.execLightLow
  with_reducible repeat' first
    | assumption | apply Named.forEach | apply Named.laneEvent | apply NamedO.next | simp only [Named.upd] | dsimp only
    | split | intro

theorem Named.execCurrentLoopStep (bay ch want : Nat) (s : State) (hk : RegsOnly rs s0 s)
    : NamedO rs s0 (execCurrentLoopStep bay ch want s) := by
  unfold Sys2Proof.Machine.execCurrentLoopStep
  with_reducible repeat' first
    | assumption | apply Named.modBay | apply NamedO.next | simp only [Named.upd] | dsimp only | split | intro

theorem Named.execCartPolicyConflict (bay ch want : Nat) (s : State) (hk : RegsOnly rs s0 s)
    (r_fltCount2 : RegName.fltCount2 ∈ rs) (r_escCfg : RegName.escCfg ∈ rs) (r_bayConflict : RegName.bayConflict ∈ rs)
    : NamedO rs s0 (execCartPolicyConflict bay ch want s) := by
  unfold Sys2Proof.Machine.execCartPolicyConflict
  with_reducible repeat' first
    | assumption | apply Named.raiseLimited | apply Named.setReg | apply RegIn.bayConflict | apply NamedO.next
    | simp only [Named.upd] | dsimp only | split | intro

theorem Named.doReadId (c : HostCmd) (s : State) (hk : RegsOnly rs s0 s) (r_orphanCtrl : RegName.orphanCtrl ∈ rs)
    (r_orphanLog : RegName.orphanLog ∈ rs) (r_fltCount2 : RegName.fltCount2 ∈ rs) (r_escCfg : RegName.escCfg ∈ rs)
    : RegsOnly rs s0 (doReadId c s) := by
  unfold Sys2Proof.Machine.doReadId
  with_reducible repeat' first
    | assumption | apply Named.complete | apply Named.completeData | apply Named.drawn | simp only [Named.upd] | dsimp only
    | split | intro

theorem Named.execReadId (cmd : HostCmd) (s : State) (hk : RegsOnly rs s0 s) (r_orphanCtrl : RegName.orphanCtrl ∈ rs)
    (r_orphanLog : RegName.orphanLog ∈ rs) (r_fltCount2 : RegName.fltCount2 ∈ rs) (r_escCfg : RegName.escCfg ∈ rs)
    : NamedO rs s0 (execReadId cmd s) := by
  unfold Sys2Proof.Machine.execReadId
  with_reducible repeat' first
    | assumption | apply Named.runCmd | apply Named.doReadId | apply NamedO.next | simp only [Named.upd] | dsimp only | split
    | intro

theorem Named.applyReauth (s : State) (c : Nat) (ok : Bool) (hk : RegsOnly rs s0 s) (r_bringup : RegName.bringup ∈ rs)
    (r_fltCount2 : RegName.fltCount2 ∈ rs) (r_escCfg : RegName.escCfg ∈ rs) (r_portLatency : RegName.portLatency ∈ rs)
    (r_tokenCtrl : RegName.tokenCtrl ∈ rs) (r_peerStatus : RegName.peerStatus ∈ rs) (r_bayStatus : RegName.bayStatus ∈ rs)
    (r_chFull : RegName.chFull ∈ rs) (r_portsUp : RegName.portsUp ∈ rs) (r_evtLanes : RegName.evtLanes ∈ rs)
    (r_portState : RegName.portState ∈ rs) : RegsOnly rs s0 (applyReauth s c ok) := by
  unfold Sys2Proof.Machine.applyReauth
  with_reducible repeat' first
    | assumption | apply Named.applyPolicy | apply Named.whenB | apply Named.raise | apply Named.enLow | apply Named.bayTo
    | simp only [Named.upd] | dsimp only | split | intro

theorem Named.doReauth (tag : List Byte) (c : HostCmd) (s : State) (hk : RegsOnly rs s0 s) (r_bringup : RegName.bringup ∈ rs)
    (r_orphanCtrl : RegName.orphanCtrl ∈ rs) (r_orphanLog : RegName.orphanLog ∈ rs) (r_fltCount2 : RegName.fltCount2 ∈ rs)
    (r_escCfg : RegName.escCfg ∈ rs) (r_portLatency : RegName.portLatency ∈ rs) (r_tokenCtrl : RegName.tokenCtrl ∈ rs)
    (r_peerStatus : RegName.peerStatus ∈ rs) (r_secCount : RegName.secCount ∈ rs) (r_bayStatus : RegName.bayStatus ∈ rs)
    (r_bayFull : RegName.bayFull ∈ rs) (r_chFull : RegName.chFull ∈ rs) (r_portsUp : RegName.portsUp ∈ rs)
    (r_evtLanes : RegName.evtLanes ∈ rs) (r_portState : RegName.portState ∈ rs) : RegsOnly rs s0 (doReauth tag c s) := by
  unfold Sys2Proof.Machine.doReauth
  with_reducible repeat' first
    | assumption | apply Named.complete | apply Named.setPhase | apply Named.sendChallenge | apply Named.applyReauth
    | apply Named.noteTrust | simp only [Named.upd] | dsimp only | split | intro

theorem Named.execReauth (cmd : HostCmd) (tag : List Byte) (s : State) (hk : RegsOnly rs s0 s)
    (r_bringup : RegName.bringup ∈ rs) (r_orphanCtrl : RegName.orphanCtrl ∈ rs) (r_orphanLog : RegName.orphanLog ∈ rs)
    (r_fltCount2 : RegName.fltCount2 ∈ rs) (r_escCfg : RegName.escCfg ∈ rs) (r_portLatency : RegName.portLatency ∈ rs)
    (r_tokenCtrl : RegName.tokenCtrl ∈ rs) (r_peerStatus : RegName.peerStatus ∈ rs) (r_secCount : RegName.secCount ∈ rs)
    (r_bayStatus : RegName.bayStatus ∈ rs) (r_bayFull : RegName.bayFull ∈ rs) (r_chFull : RegName.chFull ∈ rs)
    (r_portsUp : RegName.portsUp ∈ rs) (r_evtLanes : RegName.evtLanes ∈ rs) (r_portState : RegName.portState ∈ rs)
    : NamedO rs s0 (execReauth cmd tag s) := by
  unfold Sys2Proof.Machine.execReauth
  with_reducible repeat' first
    | assumption | apply Named.runCmd | apply Named.doReauth | apply NamedO.next | simp only [Named.upd] | dsimp only | split
    | intro

theorem Named.setPolicy (s : State) (allow : Bool) (hk : RegsOnly rs s0 s) (r_fltCount2 : RegName.fltCount2 ∈ rs)
    (r_escCfg : RegName.escCfg ∈ rs) (r_secCount : RegName.secCount ∈ rs) (r_crtPolicy : RegName.crtPolicy ∈ rs)
    : RegsOnly rs s0 (setPolicy s allow) := by
  unfold Sys2Proof.Machine.setPolicy
  with_reducible repeat' first
    | assumption | apply Named.jrnOwe | apply Named.setBit | apply RegIn.crtPolicy | simp only [Named.upd] | dsimp only
    | split | intro

theorem Named.doSetPolicy (c : HostCmd) (s : State) (hk : RegsOnly rs s0 s) (r_orphanCtrl : RegName.orphanCtrl ∈ rs)
    (r_orphanLog : RegName.orphanLog ∈ rs) (r_fltCount2 : RegName.fltCount2 ∈ rs) (r_escCfg : RegName.escCfg ∈ rs)
    (r_secCount : RegName.secCount ∈ rs) (r_crtPolicy : RegName.crtPolicy ∈ rs) : RegsOnly rs s0 (doSetPolicy c s) := by
  unfold Sys2Proof.Machine.doSetPolicy
  with_reducible repeat' first
    | assumption | apply Named.complete | apply Named.setPolicy | simp only [Named.upd] | dsimp only | split | intro

theorem Named.execSetPolicy (cmd : HostCmd) (s : State) (hk : RegsOnly rs s0 s) (r_orphanCtrl : RegName.orphanCtrl ∈ rs)
    (r_orphanLog : RegName.orphanLog ∈ rs) (r_fltCount2 : RegName.fltCount2 ∈ rs) (r_escCfg : RegName.escCfg ∈ rs)
    (r_secCount : RegName.secCount ∈ rs) (r_crtPolicy : RegName.crtPolicy ∈ rs) : NamedO rs s0 (execSetPolicy cmd s) := by
  unfold Sys2Proof.Machine.execSetPolicy
  with_reducible repeat' first
    | assumption | apply Named.runCmd | apply Named.doSetPolicy | apply NamedO.next | simp only [Named.upd] | dsimp only
    | split | intro

theorem Named.doPrepareRemove (c : HostCmd) (s : State) (hk : RegsOnly rs s0 s) (r_orphanCtrl : RegName.orphanCtrl ∈ rs)
    (r_orphanLog : RegName.orphanLog ∈ rs) (r_fltCount2 : RegName.fltCount2 ∈ rs) (r_escCfg : RegName.escCfg ∈ rs)
    : RegsOnly rs s0 (doPrepareRemove c s) := by
  unfold Sys2Proof.Machine.doPrepareRemove
  with_reducible repeat' first
    | assumption | apply Named.complete | apply Named.startRemoval | simp only [Named.upd] | dsimp only | split | intro

theorem Named.execPrepareRemove (cmd : HostCmd) (s : State) (hk : RegsOnly rs s0 s) (r_orphanCtrl : RegName.orphanCtrl ∈ rs)
    (r_orphanLog : RegName.orphanLog ∈ rs) (r_fltCount2 : RegName.fltCount2 ∈ rs) (r_escCfg : RegName.escCfg ∈ rs)
    : NamedO rs s0 (execPrepareRemove cmd s) := by
  unfold Sys2Proof.Machine.execPrepareRemove
  with_reducible repeat' first
    | assumption | apply Named.runCmd | apply Named.doPrepareRemove | apply NamedO.next | simp only [Named.upd] | dsimp only
    | split | intro

theorem Named.execFlowEvictTimer (g slot : Nat) (s : State) (hk : RegsOnly rs s0 s) (r_fltCount2 : RegName.fltCount2 ∈ rs)
    (r_escCfg : RegName.escCfg ∈ rs) (r_talCount : RegName.talCount ∈ rs) : NamedO rs s0 (execFlowEvictTimer g slot s) := by
  unfold Sys2Proof.Machine.execFlowEvictTimer
  with_reducible repeat' first
    | assumption | apply Named.evictFlow | apply NamedO.next | simp only [Named.upd] | dsimp only | split | intro

theorem Named.execFlowFlush (s : State) (hk : RegsOnly rs s0 s) (r_fltCount2 : RegName.fltCount2 ∈ rs)
    (r_escCfg : RegName.escCfg ∈ rs) (r_talCount : RegName.talCount ∈ rs) : NamedO rs s0 (execFlowFlush s) := by
  unfold Sys2Proof.Machine.execFlowFlush
  with_reducible repeat' first
    | assumption | apply Named.holdWrite | apply Named.forEach | apply Named.evictFlow | apply NamedO.next
    | simp only [Named.upd] | dsimp only | split | intro

theorem Named.sealMessage (s : State) (m : List Byte) (hk : RegsOnly rs s0 s) (r_fltCount2 : RegName.fltCount2 ∈ rs)
    (r_escCfg : RegName.escCfg ∈ rs) (r_secCount : RegName.secCount ∈ rs) (r_ctx0Status : RegName.ctx0Status ∈ rs)
    (r_ctx0Bits : RegName.ctx0Bits ∈ rs) : RegsOnly rs s0 (sealMessage s m).1 := by
  unfold Sys2Proof.Machine.sealMessage
  with_reducible repeat' first
    | assumption | apply Named.keyRefused | apply Named.secCount | apply Named.setF | apply Named.setReg64
    | apply RegIn.ctx0Status | apply RegIn.ctx0Bits | apply RegIn.ctx0Bits4 | simp only [Named.upd] | dsimp only | split
    | intro

theorem Named.exportAdmit (s : State) (octs : List Byte) (hk : RegsOnly rs s0 s) (r_fltCount2 : RegName.fltCount2 ∈ rs)
    (r_escCfg : RegName.escCfg ∈ rs) (r_mktStatus : RegName.mktStatus ∈ rs) (r_poolFree : RegName.poolFree ∈ rs)
    (r_mktCount3 : RegName.mktCount3 ∈ rs) (r_mktCount4 : RegName.mktCount4 ∈ rs) (r_mktCount5 : RegName.mktCount5 ∈ rs)
    (r_mktCount6 : RegName.mktCount6 ∈ rs) (r_partUsed : RegName.partUsed ∈ rs) (r_qcfgPitch : RegName.qcfgPitch ∈ rs)
    (r_qcfgOcc : RegName.qcfgOcc ∈ rs) (r_pfcState : RegName.pfcState ∈ rs) (r_ingUsed : RegName.ingUsed ∈ rs)
    (r_hdrmUsed : RegName.hdrmUsed ∈ rs) (r_stagingFree : RegName.stagingFree ∈ rs) (r_splCount : RegName.splCount ∈ rs)
    (r_stackStatus : RegName.stackStatus ∈ rs) (r_qspillStatus : RegName.qspillStatus ∈ rs) (r_talCount : RegName.talCount ∈ rs)
    (r_pmcCount : RegName.pmcCount ∈ rs) : RegsOnly rs s0 (exportAdmit s octs).1 := by
  unfold Sys2Proof.Machine.exportAdmit
  with_reducible repeat' first
    | assumption | apply Named.takeId | apply Named.dropPacket | apply Named.admitCopies | apply Named.dropRefused
    | simp only [Named.upd] | dsimp only | split | intro

theorem Named.execExportRecordForm (s : State) (hk : RegsOnly rs s0 s) : NamedO rs s0 (execExportRecordForm s) := by
  unfold Sys2Proof.Machine.execExportRecordForm
  with_reducible repeat' first
    | assumption | apply NamedO.next | simp only [Named.upd] | dsimp only | split | intro

theorem Named.execExportFlushTimer (s : State) (hk : RegsOnly rs s0 s) : NamedO rs s0 (execExportFlushTimer s) := by
  unfold Sys2Proof.Machine.execExportFlushTimer
  with_reducible repeat' first
    | assumption | apply NamedO.next | simp only [Named.upd] | dsimp only | split | intro

theorem Named.execExportMessageSend (s : State) (hk : RegsOnly rs s0 s) (r_orphanCtrl : RegName.orphanCtrl ∈ rs)
    (r_orphanLog : RegName.orphanLog ∈ rs) (r_fltCount2 : RegName.fltCount2 ∈ rs) (r_escCfg : RegName.escCfg ∈ rs)
    (r_secCount : RegName.secCount ∈ rs) (r_ctx0Status : RegName.ctx0Status ∈ rs) (r_ctx0Bits : RegName.ctx0Bits ∈ rs)
    (r_mktStatus : RegName.mktStatus ∈ rs) (r_poolFree : RegName.poolFree ∈ rs) (r_mktCount3 : RegName.mktCount3 ∈ rs)
    (r_mktCount4 : RegName.mktCount4 ∈ rs) (r_mktCount5 : RegName.mktCount5 ∈ rs) (r_mktCount6 : RegName.mktCount6 ∈ rs)
    (r_partUsed : RegName.partUsed ∈ rs) (r_qcfgPitch : RegName.qcfgPitch ∈ rs) (r_qcfgOcc : RegName.qcfgOcc ∈ rs)
    (r_pfcState : RegName.pfcState ∈ rs) (r_ingUsed : RegName.ingUsed ∈ rs) (r_hdrmUsed : RegName.hdrmUsed ∈ rs)
    (r_stagingFree : RegName.stagingFree ∈ rs) (r_splCount : RegName.splCount ∈ rs) (r_stackStatus : RegName.stackStatus ∈ rs)
    (r_qspillStatus : RegName.qspillStatus ∈ rs) (r_talCount : RegName.talCount ∈ rs) (r_pmcCount : RegName.pmcCount ∈ rs)
    : NamedO rs s0 (execExportMessageSend s) := by
  unfold Sys2Proof.Machine.execExportMessageSend
  with_reducible repeat' first
    | assumption | apply Named.sealMessage | apply Named.exportAdmit | apply Named.ctxPoll | apply Named.addTal
    | apply Named.forEach | apply Named.recordLost | apply NamedO.next | simp only [Named.upd] | dsimp only | split | intro

theorem Named.execTemplateSend (s : State) (hk : RegsOnly rs s0 s) (r_fltCount2 : RegName.fltCount2 ∈ rs)
    (r_escCfg : RegName.escCfg ∈ rs) (r_secCount : RegName.secCount ∈ rs) (r_ctx0Status : RegName.ctx0Status ∈ rs)
    (r_ctx0Bits : RegName.ctx0Bits ∈ rs) (r_mktStatus : RegName.mktStatus ∈ rs) (r_poolFree : RegName.poolFree ∈ rs)
    (r_mktCount3 : RegName.mktCount3 ∈ rs) (r_mktCount4 : RegName.mktCount4 ∈ rs) (r_mktCount5 : RegName.mktCount5 ∈ rs)
    (r_mktCount6 : RegName.mktCount6 ∈ rs) (r_partUsed : RegName.partUsed ∈ rs) (r_qcfgPitch : RegName.qcfgPitch ∈ rs)
    (r_qcfgOcc : RegName.qcfgOcc ∈ rs) (r_pfcState : RegName.pfcState ∈ rs) (r_ingUsed : RegName.ingUsed ∈ rs)
    (r_hdrmUsed : RegName.hdrmUsed ∈ rs) (r_stagingFree : RegName.stagingFree ∈ rs) (r_splCount : RegName.splCount ∈ rs)
    (r_stackStatus : RegName.stackStatus ∈ rs) (r_qspillStatus : RegName.qspillStatus ∈ rs) (r_talCount : RegName.talCount ∈ rs)
    (r_pmcCount : RegName.pmcCount ∈ rs) : NamedO rs s0 (execTemplateSend s) := by
  unfold Sys2Proof.Machine.execTemplateSend
  with_reducible repeat' first
    | assumption | apply Named.sealMessage | apply Named.exportAdmit | apply Named.addTal | apply NamedO.next
    | simp only [Named.upd] | dsimp only | split | intro

theorem Named.doLdgRead (c : HostCmd) (s : State) (hk : RegsOnly rs s0 s) (r_orphanCtrl : RegName.orphanCtrl ∈ rs)
    (r_orphanLog : RegName.orphanLog ∈ rs) (r_fltCount2 : RegName.fltCount2 ∈ rs) (r_escCfg : RegName.escCfg ∈ rs)
    : RegsOnly rs s0 (doLdgRead c s) := by
  unfold Sys2Proof.Machine.doLdgRead
  with_reducible repeat' first
    | assumption | apply Named.complete | apply Named.setPhase | apply Named.completeData | simp only [Named.upd]
    | dsimp only | split | intro

theorem Named.execLdgRead (cmd : HostCmd) (s : State) (hk : RegsOnly rs s0 s) (r_orphanCtrl : RegName.orphanCtrl ∈ rs)
    (r_orphanLog : RegName.orphanLog ∈ rs) (r_fltCount2 : RegName.fltCount2 ∈ rs) (r_escCfg : RegName.escCfg ∈ rs)
    : NamedO rs s0 (execLdgRead cmd s) := by
  unfold Sys2Proof.Machine.execLdgRead
  with_reducible repeat' first
    | assumption | apply Named.runCmd | apply Named.doLdgRead | apply NamedO.next | simp only [Named.upd] | dsimp only
    | split | intro

theorem Named.doLdgSnapshot (c : HostCmd) (s : State) (hk : RegsOnly rs s0 s) (r_ldgStatus : RegName.ldgStatus ∈ rs)
    : RegsOnly rs s0 (doLdgSnapshot c s) := by
  unfold Sys2Proof.Machine.doLdgSnapshot
  with_reducible repeat' first
    | assumption | apply Named.setPhase | apply Named.setBit | apply RegIn.ldgStatus | simp only [Named.upd] | dsimp only
    | split | intro

theorem Named.execLdgSnapshot (cmd : HostCmd) (s : State) (hk : RegsOnly rs s0 s) (r_ldgStatus : RegName.ldgStatus ∈ rs)
    : NamedO rs s0 (execLdgSnapshot cmd s) := by
  unfold Sys2Proof.Machine.execLdgSnapshot
  with_reducible repeat' first
    | assumption | apply Named.runCmd | apply Named.doLdgSnapshot | apply NamedO.next | simp only [Named.upd] | dsimp only
    | split | intro

theorem Named.execLdgSnapshotComplete (buffer : Nat) (s : State) (hk : RegsOnly rs s0 s)
    (r_orphanCtrl : RegName.orphanCtrl ∈ rs) (r_orphanLog : RegName.orphanLog ∈ rs) (r_fltCount2 : RegName.fltCount2 ∈ rs)
    (r_escCfg : RegName.escCfg ∈ rs) (r_ldgStatus : RegName.ldgStatus ∈ rs) (r_ldgT : RegName.ldgT ∈ rs)
    : NamedO rs s0 (execLdgSnapshotComplete buffer s) := by
  unfold Sys2Proof.Machine.execLdgSnapshotComplete
  with_reducible repeat' first
    | assumption | apply Named.captureSnaps | apply Named.setReg64 | apply Named.setBit | apply Named.raise
    | apply Named.complete | apply RegIn.ldgStatus | apply RegIn.ldgT | apply RegIn.ldgT4 | apply NamedO.next
    | simp only [Named.upd] | dsimp only | split | intro

theorem Named.setScl (s : State) (f : Scales → Scales) (hk : RegsOnly rs s0 s) : RegsOnly rs s0 (setScl s f) := by
  unfold Sys2Proof.Machine.setScl
  with_reducible repeat' first
    | assumption | simp only [Named.upd] | dsimp only | split | intro

theorem Named.setStep (s : State) (p step : Nat) (hk : RegsOnly rs s0 s) (r_pipeClk : RegName.pipeClk ∈ rs)
    : RegsOnly rs s0 (setStep s p step) := by
  unfold Sys2Proof.Machine.setStep
  with_reducible repeat' first
    | assumption | apply Named.step | apply Named.setScl | apply Named.setBit | apply Named.setF | apply RegIn.pipeClk
    | simp only [Named.upd] | dsimp only | split | intro

theorem Named.cutOne (s : State) (p : Nat) (hk : RegsOnly rs s0 s) (r_pipeClk : RegName.pipeClk ∈ rs)
    : RegsOnly rs s0 (cutOne s p) := by
  unfold Sys2Proof.Machine.cutOne
  with_reducible repeat' first
    | assumption | apply Named.setScl | apply Named.setStep | simp only [Named.upd] | dsimp only | split | intro

theorem Named.keepStep (s : State) (p : Nat) (hk : RegsOnly rs s0 s) : RegsOnly rs s0 (keepStep s p) := by
  unfold Sys2Proof.Machine.keepStep
  with_reducible repeat' first
    | assumption | apply Named.setScl | simp only [Named.upd] | dsimp only | split | intro

theorem Named.cutStep (s : State) (p : Nat) (hk : RegsOnly rs s0 s) (r_pipeClk : RegName.pipeClk ∈ rs)
    : RegsOnly rs s0 (cutStep s p) := by
  unfold Sys2Proof.Machine.cutStep
  with_reducible repeat' first
    | assumption | apply Named.cutOne | apply Named.setScl | simp only [Named.upd] | dsimp only | split | intro

theorem Named.syncAct (s : State) (p : Nat) (hk : RegsOnly rs s0 s) (r_pipeClk : RegName.pipeClk ∈ rs)
    : RegsOnly rs s0 (syncAct s p) := by
  unfold Sys2Proof.Machine.syncAct
  with_reducible repeat' first
    | assumption | apply Named.setF | apply RegIn.pipeClk | simp only [Named.upd] | dsimp only | split | intro

theorem Named.syncActs (s : State) (hk : RegsOnly rs s0 s) (r_pipeClk : RegName.pipeClk ∈ rs)
    : RegsOnly rs s0 (syncActs s) := by
  unfold Sys2Proof.Machine.syncActs
  with_reducible repeat' first
    | assumption | apply Named.forEach | apply Named.syncAct | simp only [Named.upd] | dsimp only | split | intro

theorem Named.capEvent (s : State) (event hall step us : Nat) (ps : List Nat) (hk : RegsOnly rs s0 s)
    (r_fltCount2 : RegName.fltCount2 ∈ rs) (r_escCfg : RegName.escCfg ∈ rs)
    : RegsOnly rs s0 (capEvent s event hall step us ps) := by
  unfold Sys2Proof.Machine.capEvent
  with_reducible repeat' first
    | assumption | apply Named.capNotice | apply Named.step | apply Named.raise | apply Named.notify | simp only [Named.upd]
    | dsimp only | split | intro

theorem Named.sclEvent (s : State) (event : Nat) (hk : RegsOnly rs s0 s) : RegsOnly rs s0 (sclEvent s event) := by
  unfold Sys2Proof.Machine.sclEvent
  with_reducible repeat' first
    | assumption | apply Named.notify | apply Named.drawn | simp only [Named.upd] | dsimp only | split | intro

theorem Named.modDeferral (s : State) (p : Nat) (f : Deferral → Deferral) (hk : RegsOnly rs s0 s)
    : RegsOnly rs s0 (modDeferral s p f) := by
  unfold Sys2Proof.Machine.modDeferral
  with_reducible repeat' first
    | assumption | apply Named.setScl | simp only [Named.upd] | dsimp only | split | intro

theorem Named.pauseDeferral (s : State) (p : Nat) (hk : RegsOnly rs s0 s) : RegsOnly rs s0 (pauseDeferral s p) := by
  unfold Sys2Proof.Machine.pauseDeferral
  with_reducible repeat' first
    | assumption | apply Named.modDeferral | simp only [Named.upd] | dsimp only | split | intro

theorem Named.resumeDeferral (s : State) (p : Nat) (hk : RegsOnly rs s0 s) : RegsOnly rs s0 (resumeDeferral s p) := by
  unfold Sys2Proof.Machine.resumeDeferral
  with_reducible repeat' first
    | assumption | apply Named.modDeferral | simp only [Named.upd] | dsimp only | split | intro

theorem Named.dropDeferral (s : State) (p : Nat) (hk : RegsOnly rs s0 s) (r_sclStatus : RegName.sclStatus ∈ rs)
    (r_pipeClk : RegName.pipeClk ∈ rs) : RegsOnly rs s0 (dropDeferral s p) := by
  unfold Sys2Proof.Machine.dropDeferral
  with_reducible repeat' first
    | assumption | apply Named.setScl | apply Named.setBit | apply RegIn.sclStatus | apply RegIn.pipeClk
    | simp only [Named.upd] | dsimp only | split | intro

theorem Named.forcedNotices (s : State) (ps : List Nat) (cuts : Bool) (hk : RegsOnly rs s0 s)
    (r_fltCount2 : RegName.fltCount2 ∈ rs) (r_escCfg : RegName.escCfg ∈ rs) (r_sclStatus : RegName.sclStatus ∈ rs)
    (r_pipeClk : RegName.pipeClk ∈ rs) : RegsOnly rs s0 (forcedNotices s ps cuts) := by
  unfold Sys2Proof.Machine.forcedNotices
  with_reducible repeat' first
    | assumption | apply Named.whenB | apply Named.forEach | apply Named.dropDeferral | apply Named.capEvent
    | apply Named.foldl | apply Named.foldl1 | simp only [Named.upd] | dsimp only | split | intro

theorem Named.takeDeferred (s : State) (d : Deferral) (hk : RegsOnly rs s0 s) (r_pipeClk : RegName.pipeClk ∈ rs)
    : RegsOnly rs s0 (takeDeferred s d) := by
  unfold Sys2Proof.Machine.takeDeferred
  with_reducible repeat' first
    | assumption | apply Named.cutStep | apply Named.cutOne | apply Named.keepStep | simp only [Named.upd] | dsimp only
    | split | intro

theorem Named.endDeferral (s : State) (p : Nat) (hk : RegsOnly rs s0 s) (r_fltCount2 : RegName.fltCount2 ∈ rs)
    (r_escCfg : RegName.escCfg ∈ rs) (r_sclStatus : RegName.sclStatus ∈ rs) (r_pipeClk : RegName.pipeClk ∈ rs)
    : RegsOnly rs s0 (endDeferral s p) := by
  unfold Sys2Proof.Machine.endDeferral
  with_reducible repeat' first
    | assumption | apply Named.whenB | apply Named.takeDeferred | apply Named.dropDeferral | apply Named.capEvent
    | simp only [Named.upd] | dsimp only | split | intro

theorem Named.execProtectedSpanStart (lane : Nat) (s : State) (hk : RegsOnly rs s0 s)
    (r_winSlotStatus : RegName.winSlotStatus ∈ rs) : NamedO rs s0 (execProtectedSpanStart lane s) := by
  unfold Sys2Proof.Machine.execProtectedSpanStart
  with_reducible repeat' first
    | assumption | apply Named.syncSlotStatus | apply NamedO.next | simp only [Named.upd] | dsimp only | split | intro

theorem Named.execProtectedSpanEnd (lane : Nat) (s : State) (hk : RegsOnly rs s0 s) (r_fltCount2 : RegName.fltCount2 ∈ rs)
    (r_escCfg : RegName.escCfg ∈ rs) (r_sclStatus : RegName.sclStatus ∈ rs) (r_pipeClk : RegName.pipeClk ∈ rs)
    (r_winSlotStatus : RegName.winSlotStatus ∈ rs) : NamedO rs s0 (execProtectedSpanEnd lane s) := by
  unfold Sys2Proof.Machine.execProtectedSpanEnd
  with_reducible repeat' first
    | assumption | apply Named.syncSlotStatus | apply Named.endDeferral | apply NamedO.next | simp only [Named.upd]
    | dsimp only | split | intro

theorem Named.forceDeferral (s : State) (p : Nat) (hk : RegsOnly rs s0 s) (r_fltCount2 : RegName.fltCount2 ∈ rs)
    (r_escCfg : RegName.escCfg ∈ rs) (r_sclStatus : RegName.sclStatus ∈ rs) (r_pipeClk : RegName.pipeClk ∈ rs)
    : RegsOnly rs s0 (forceDeferral s p) := by
  unfold Sys2Proof.Machine.forceDeferral
  with_reducible repeat' first
    | assumption | apply Named.whenB | apply Named.takeDeferred | apply Named.dropDeferral | apply Named.capEvent
    | simp only [Named.upd] | dsimp only | split | intro

theorem Named.execDeferralForce (p : Nat) (s : State) (hk : RegsOnly rs s0 s) (r_fltCount2 : RegName.fltCount2 ∈ rs)
    (r_escCfg : RegName.escCfg ∈ rs) (r_sclStatus : RegName.sclStatus ∈ rs) (r_pipeClk : RegName.pipeClk ∈ rs)
    : NamedO rs s0 (execDeferralForce p s) := by
  unfold Sys2Proof.Machine.execDeferralForce
  with_reducible repeat' first
    | assumption | apply Named.forceDeferral | apply NamedO.next | simp only [Named.upd] | dsimp only | split | intro

theorem Named.syncModelOnly (s : State) (hk : RegsOnly rs s0 s) (r_fltCount2 : RegName.fltCount2 ∈ rs)
    (r_escCfg : RegName.escCfg ∈ rs) (r_sclStatus : RegName.sclStatus ∈ rs) : RegsOnly rs s0 (syncModelOnly s) := by
  unfold Sys2Proof.Machine.syncModelOnly
  with_reducible repeat' first
    | assumption | apply Named.whenB | apply Named.raise | apply Named.setBit | apply RegIn.sclStatus | simp only [Named.upd]
    | dsimp only | split | intro

theorem Named.pollEntry (answers : List RegulatorAnswer) (s : State) (k : Nat) (hk : RegsOnly rs s0 s)
    (r_fltCount2 : RegName.fltCount2 ∈ rs) (r_escCfg : RegName.escCfg ∈ rs) (r_regVi : RegName.regVi ∈ rs)
    (r_regStat : RegName.regStat ∈ rs) : RegsOnly rs s0 (pollEntry answers s k) := by
  unfold Sys2Proof.Machine.pollEntry
  with_reducible repeat' first
    | assumption | apply Named.setScl | apply Named.emit | apply Named.setF | apply Named.setBit | apply Named.raiseLimited
    | apply RegIn.regVi | apply RegIn.regStat | simp only [Named.upd] | dsimp only | split | intro

theorem Named.execRegulatorPoll (answers : List RegulatorAnswer) (s : State) (hk : RegsOnly rs s0 s)
    (r_fltCount2 : RegName.fltCount2 ∈ rs) (r_escCfg : RegName.escCfg ∈ rs) (r_sclStatus : RegName.sclStatus ∈ rs)
    (r_regVi : RegName.regVi ∈ rs) (r_regStat : RegName.regStat ∈ rs) : NamedO rs s0 (execRegulatorPoll answers s) := by
  unfold Sys2Proof.Machine.execRegulatorPoll
  with_reducible repeat' first
    | assumption | apply Named.setScl | apply Named.syncModelOnly | apply Named.forEach | apply Named.pollEntry
    | apply NamedO.next | simp only [Named.upd] | dsimp only | split | intro

theorem Named.writeWarnLimits (s : State) (hk : RegsOnly rs s0 s) : RegsOnly rs s0 (writeWarnLimits s) := by
  unfold Sys2Proof.Machine.writeWarnLimits
  with_reducible repeat' first
    | assumption | apply Named.forEach | apply Named.emit | simp only [Named.upd] | dsimp only | split | intro

theorem Named.execScalesReady (s : State) (hk : RegsOnly rs s0 s) (r_bringup : RegName.bringup ∈ rs)
    (r_fltCount2 : RegName.fltCount2 ∈ rs) (r_escCfg : RegName.escCfg ∈ rs) (r_sclStatus : RegName.sclStatus ∈ rs)
    (r_secCount : RegName.secCount ∈ rs) : NamedO rs s0 (execScalesReady s) := by
  unfold Sys2Proof.Machine.execScalesReady
  with_reducible repeat' first
    | assumption | apply Named.jrnReads | apply Named.setScl | apply Named.setF | apply Named.writeWarnLimits
    | apply Named.syncModelOnly | apply Named.setBringup | apply Named.forEach | apply Named.emit | apply RegIn.sclStatus
    | apply NamedO.next | simp only [Named.upd] | dsimp only | split | intro

theorem Named.sclBad (s : State) (hk : RegsOnly rs s0 s) (r_fltCount2 : RegName.fltCount2 ∈ rs)
    (r_escCfg : RegName.escCfg ∈ rs) (r_sclErr : RegName.sclErr ∈ rs) : RegsOnly rs s0 (sclBad s) := by
  unfold Sys2Proof.Machine.sclBad
  with_reducible repeat' first
    | assumption | apply Named.raise | apply Named.setBit | apply RegIn.sclErr | simp only [Named.upd] | dsimp only | split
    | intro

theorem Named.absWrite (value : Word) (s : State) (hk : RegsOnly rs s0 s) (r_fltCount2 : RegName.fltCount2 ∈ rs)
    (r_escCfg : RegName.escCfg ∈ rs) (r_sclErr : RegName.sclErr ∈ rs) (r_sclAbs : RegName.sclAbs ∈ rs)
    : RegsOnly rs s0 (absWrite value s) := by
  unfold Sys2Proof.Machine.absWrite
  with_reducible repeat' first
    | assumption | apply Named.sclBad | apply Named.setF | apply Named.whenB | apply Named.writeWarnLimits
    | apply RegIn.sclAbs | simp only [Named.upd] | dsimp only | split | intro

theorem Named.execAbsWrite (value : Word) (s : State) (hk : RegsOnly rs s0 s) (r_fltCount2 : RegName.fltCount2 ∈ rs)
    (r_escCfg : RegName.escCfg ∈ rs) (r_sclErr : RegName.sclErr ∈ rs) (r_sclAbs : RegName.sclAbs ∈ rs)
    : NamedO rs s0 (execAbsWrite value s) := by
  unfold Sys2Proof.Machine.execAbsWrite
  with_reducible repeat' first
    | assumption | apply Named.holdWrite | apply Named.absWrite | apply NamedO.next | simp only [Named.upd] | dsimp only
    | split | intro

theorem Named.unwantDeferrals (s : State) (hk : RegsOnly rs s0 s) : RegsOnly rs s0 (unwantDeferrals s) := by
  unfold Sys2Proof.Machine.unwantDeferrals
  with_reducible repeat' first
    | assumption | apply Named.setScl | simp only [Named.upd] | dsimp only | split | intro

theorem Named.deferCuts (s : State) (cap : Bool) (ps : List Nat) (hk : RegsOnly rs s0 s)
    (r_fltCount2 : RegName.fltCount2 ∈ rs) (r_escCfg : RegName.escCfg ∈ rs) (r_sclStatus : RegName.sclStatus ∈ rs)
    (r_pipeClk : RegName.pipeClk ∈ rs) : RegsOnly rs s0 (deferCuts s cap ps) := by
  unfold Sys2Proof.Machine.deferCuts
  with_reducible repeat' first
    | assumption | apply Named.setScl | apply Named.forEach | apply Named.setBit | apply Named.capEvent
    | apply RegIn.sclStatus | apply RegIn.pipeClk | simp only [Named.upd] | dsimp only | split | intro

theorem Named.setActPolicy (s : State) (p v : Nat) (hk : RegsOnly rs s0 s) (r_pipeClk : RegName.pipeClk ∈ rs)
    : RegsOnly rs s0 (setActPolicy s p v) := by
  unfold Sys2Proof.Machine.setActPolicy
  with_reducible repeat' first
    | assumption | apply Named.syncAct | apply Named.setScl | simp only [Named.upd] | dsimp only | split | intro

theorem Named.capCut (prices : List (Nat × Nat)) (need : Nat) (s : State) (hk : RegsOnly rs s0 s)
    (r_fltCount2 : RegName.fltCount2 ∈ rs) (r_escCfg : RegName.escCfg ∈ rs) (r_sclStatus : RegName.sclStatus ∈ rs)
    (r_pipeClk : RegName.pipeClk ∈ rs) : RegsOnly rs s0 (capCut prices need s) := by
  unfold Sys2Proof.Machine.capCut
  with_reducible repeat' first
    | assumption | apply Named.forEach | apply Named.cutStep | apply Named.setActPolicy | apply Named.deferCuts
    | simp only [Named.upd] | dsimp only | split | intro

theorem Named.capRaise (prices : List (Nat × Nat)) (s : State) (hk : RegsOnly rs s0 s) (r_pipeClk : RegName.pipeClk ∈ rs)
    : RegsOnly rs s0 (capRaise prices s) := by
  unfold Sys2Proof.Machine.capRaise
  with_reducible repeat' first
    | assumption | apply Named.setActPolicy | apply Named.setStep | apply Named.foldl | apply Named.foldl1
    | simp only [Named.upd] | dsimp only | split | intro

theorem Named.stepBounds (s : State) (hk : RegsOnly rs s0 s) (r_fltCount2 : RegName.fltCount2 ∈ rs)
    (r_escCfg : RegName.escCfg ∈ rs) (r_sclStatus : RegName.sclStatus ∈ rs) (r_pipeClk : RegName.pipeClk ∈ rs)
    : RegsOnly rs s0 (stepBounds s) := by
  unfold Sys2Proof.Machine.stepBounds
  with_reducible repeat' first
    | assumption | apply Named.whenB | apply Named.forEach | apply Named.setStep | apply Named.deferCuts | apply Named.setScl
    | apply Named.cutStep | simp only [Named.upd] | dsimp only | split | intro

theorem Named.throttleCuts (s : State) (hk : RegsOnly rs s0 s) (r_pipeClk : RegName.pipeClk ∈ rs)
    : RegsOnly rs s0 (throttleCuts s) := by
  unfold Sys2Proof.Machine.throttleCuts
  with_reducible repeat' first
    | assumption | apply Named.forEach | apply Named.cutOne | apply Named.keepStep | apply Named.setScl
    | simp only [Named.upd] | dsimp only | split | intro

theorem Named.restoreSteps (s : State) (hk : RegsOnly rs s0 s) (r_pipeClk : RegName.pipeClk ∈ rs)
    : RegsOnly rs s0 (restoreSteps s) := by
  unfold Sys2Proof.Machine.restoreSteps
  with_reducible repeat' first
    | assumption | apply Named.forEach | apply Named.whenB | apply Named.setStep | apply Named.setScl | simp only [Named.upd]
    | dsimp only | split | intro

theorem Named.execCapLoopTick (savings : List (Nat × Nat)) (s : State) (hk : RegsOnly rs s0 s)
    (r_fltCount2 : RegName.fltCount2 ∈ rs) (r_escCfg : RegName.escCfg ∈ rs) (r_sclStatus : RegName.sclStatus ∈ rs)
    (r_pipeClk : RegName.pipeClk ∈ rs) : NamedO rs s0 (execCapLoopTick savings s) := by
  unfold Sys2Proof.Machine.execCapLoopTick
  with_reducible repeat' first
    | assumption | apply Named.forEach | apply Named.endDeferral | apply Named.forceDeferral | apply Named.restoreSteps
    | apply Named.stepBounds | apply Named.throttleCuts | apply Named.capCut | apply Named.unwantDeferrals
    | apply Named.setBit | apply Named.capRaise | apply RegIn.sclStatus | apply NamedO.next | simp only [Named.upd]
    | dsimp only | split | intro

theorem Named.execSclPolicyConflict (p step : Nat) (s : State) (hk : RegsOnly rs s0 s) (r_fltCount2 : RegName.fltCount2 ∈ rs)
    (r_escCfg : RegName.escCfg ∈ rs) (r_sclStatus : RegName.sclStatus ∈ rs) (r_sclConflict : RegName.sclConflict ∈ rs)
    : NamedO rs s0 (execSclPolicyConflict p step s) := by
  unfold Sys2Proof.Machine.execSclPolicyConflict
  with_reducible repeat' first
    | assumption | apply Named.step | apply Named.setReg | apply Named.raiseLimited | apply Named.whenB | apply Named.setBit
    | apply RegIn.sclStatus | apply RegIn.sclConflict | apply NamedO.next | simp only [Named.upd] | dsimp only | split
    | intro

theorem Named.execGlideComplete (p : Nat) (s : State) (hk : RegsOnly rs s0 s) (r_pipeClk : RegName.pipeClk ∈ rs)
    : NamedO rs s0 (execGlideComplete p s) := by
  unfold Sys2Proof.Machine.execGlideComplete
  with_reducible repeat' first
    | assumption | apply Named.setBit | apply Named.resumeDeferral | apply Named.setScl | apply Named.drawn
    | apply Named.whenB | apply Named.setF | apply RegIn.pipeClk | apply NamedO.next | simp only [Named.upd] | dsimp only
    | split | intro

theorem Named.limitAct (s : State) (ps : List Nat) (v : Nat) (hk : RegsOnly rs s0 s) (r_fltCount2 : RegName.fltCount2 ∈ rs)
    (r_escCfg : RegName.escCfg ∈ rs) (r_sclStatus : RegName.sclStatus ∈ rs) (r_pipeClk : RegName.pipeClk ∈ rs)
    : RegsOnly rs s0 (limitAct s ps v) := by
  unfold Sys2Proof.Machine.limitAct
  with_reducible repeat' first
    | assumption | apply Named.setScl | apply Named.forcedNotices | apply Named.forEach | apply Named.syncAct
    | apply Named.foldl | apply Named.foldl1 | simp only [Named.upd] | dsimp only | split | intro

theorem Named.limiterStart (s : State) (hk : RegsOnly rs s0 s) (r_fltCount2 : RegName.fltCount2 ∈ rs)
    (r_escCfg : RegName.escCfg ∈ rs) (r_sclStatus : RegName.sclStatus ∈ rs) (r_pipeClk : RegName.pipeClk ∈ rs)
    : RegsOnly rs s0 (limiterStart s) := by
  unfold Sys2Proof.Machine.limiterStart
  with_reducible repeat' first
    | assumption | apply Named.setScl | apply Named.setBit | apply Named.raise | apply Named.limitAct | apply RegIn.sclStatus
    | simp only [Named.upd] | dsimp only | split | intro

theorem Named.execPmbusAlert (bus : Nat) (low : Bool) (s : State) (hk : RegsOnly rs s0 s)
    (r_fltCount2 : RegName.fltCount2 ∈ rs) (r_escCfg : RegName.escCfg ∈ rs) (r_sclStatus : RegName.sclStatus ∈ rs)
    (r_pipeClk : RegName.pipeClk ∈ rs) : NamedO rs s0 (execPmbusAlert bus low s) := by
  unfold Sys2Proof.Machine.execPmbusAlert
  with_reducible repeat' first
    | assumption | apply Named.limiterStart | apply Named.setScl | apply NamedO.next | simp only [Named.upd] | dsimp only
    | split | intro

theorem Named.execLimiterStep (s : State) (hk : RegsOnly rs s0 s) (r_fltCount2 : RegName.fltCount2 ∈ rs)
    (r_escCfg : RegName.escCfg ∈ rs) (r_sclStatus : RegName.sclStatus ∈ rs) (r_pipeClk : RegName.pipeClk ∈ rs)
    : NamedO rs s0 (execLimiterStep s) := by
  unfold Sys2Proof.Machine.execLimiterStep
  with_reducible repeat' first
    | assumption | apply Named.limitAct | apply Named.setScl | apply Named.forcedNotices | apply Named.forEach
    | apply Named.cutOne | apply Named.keepStep | apply NamedO.next | simp only [Named.upd] | dsimp only | split | intro

theorem Named.execLimiterRelease (s : State) (hk : RegsOnly rs s0 s) (r_sclStatus : RegName.sclStatus ∈ rs)
    (r_pipeClk : RegName.pipeClk ∈ rs) : NamedO rs s0 (execLimiterRelease s) := by
  unfold Sys2Proof.Machine.execLimiterRelease
  with_reducible repeat' first
    | assumption | apply Named.syncActs | apply Named.setBit | apply Named.setScl | apply RegIn.sclStatus | apply NamedO.next
    | simp only [Named.upd] | dsimp only | split | intro

theorem Named.execFastEstimateTick (s : State) (hk : RegsOnly rs s0 s) (r_fltCount2 : RegName.fltCount2 ∈ rs)
    (r_escCfg : RegName.escCfg ∈ rs) (r_sclStatus : RegName.sclStatus ∈ rs) (r_sclPower : RegName.sclPower ∈ rs)
    (r_pipeClk : RegName.pipeClk ∈ rs) : NamedO rs s0 (execFastEstimateTick s) := by
  unfold Sys2Proof.Machine.execFastEstimateTick
  with_reducible repeat' first
    | assumption | apply Named.setF | apply Named.syncModelOnly | apply Named.setScl | apply Named.limiterStart
    | apply Named.foldl | apply Named.foldl1 | apply RegIn.sclPower | apply NamedO.next | simp only [Named.upd] | dsimp only
    | split | intro

theorem Named.stretch (s : State) (isl : Nat) (hk : RegsOnly rs s0 s) (r_fltCount2 : RegName.fltCount2 ∈ rs)
    (r_escCfg : RegName.escCfg ∈ rs) (r_droop : RegName.droop ∈ rs) : RegsOnly rs s0 (stretch s isl) := by
  unfold Sys2Proof.Machine.stretch
  with_reducible repeat' first
    | assumption | apply Named.setScl | apply Named.raiseLimited | apply Named.satF | apply Named.whenB
    | apply Named.pauseDeferral | apply RegIn.droop | simp only [Named.upd] | dsimp only | split | intro

theorem Named.execDroopTrip (island : Nat) (s : State) (hk : RegsOnly rs s0 s) (r_fltCount2 : RegName.fltCount2 ∈ rs)
    (r_escCfg : RegName.escCfg ∈ rs) (r_droop : RegName.droop ∈ rs) : NamedO rs s0 (execDroopTrip island s) := by
  unfold Sys2Proof.Machine.execDroopTrip
  with_reducible repeat' first
    | assumption | apply Named.stretch | apply NamedO.next | simp only [Named.upd] | dsimp only | split | intro

theorem Named.execDroopClear (island stretchedUs : Nat) (s : State) (hk : RegsOnly rs s0 s)
    (r_fltCount2 : RegName.fltCount2 ∈ rs) (r_escCfg : RegName.escCfg ∈ rs) (r_droop : RegName.droop ∈ rs)
    : NamedO rs s0 (execDroopClear island stretchedUs s) := by
  unfold Sys2Proof.Machine.execDroopClear
  with_reducible repeat' first
    | assumption | apply Named.setScl | apply Named.noteInterval | apply Named.whenB | apply Named.raiseLimited
    | apply Named.satF | apply RegIn.droop | apply NamedO.next | simp only [Named.upd] | dsimp only | split | intro

theorem Named.recognise (s : State) (k : Nat) (hk : RegsOnly rs s0 s) (r_fltCount2 : RegName.fltCount2 ∈ rs)
    (r_escCfg : RegName.escCfg ∈ rs) (r_sclStatus : RegName.sclStatus ∈ rs) (r_pipeClk : RegName.pipeClk ∈ rs)
    : RegsOnly rs s0 (recognise s k) := by
  unfold Sys2Proof.Machine.recognise
  with_reducible repeat' first
    | assumption | apply Named.setScl | apply Named.setF | apply Named.whenB | apply Named.forEach | apply Named.setStep
    | apply Named.sclEvent | apply Named.raiseLimited | apply RegIn.sclStatus | simp only [Named.upd] | dsimp only | split
    | intro

theorem Named.storePhases (s : State) (l : List Phase) (hk : RegsOnly rs s0 s) (r_fltCount2 : RegName.fltCount2 ∈ rs)
    (r_escCfg : RegName.escCfg ∈ rs) (r_sclStatus : RegName.sclStatus ∈ rs) (r_secCount : RegName.secCount ∈ rs)
    : RegsOnly rs s0 (storePhases s l) := by
  unfold Sys2Proof.Machine.storePhases
  with_reducible repeat' first
    | assumption | apply Named.jrnOwe | apply Named.setScl | apply Named.setF | apply RegIn.sclStatus | simp only [Named.upd]
    | dsimp only | split | intro

theorem Named.clearPhases (s : State) (hk : RegsOnly rs s0 s) (r_fltCount2 : RegName.fltCount2 ∈ rs)
    (r_escCfg : RegName.escCfg ∈ rs) (r_sclStatus : RegName.sclStatus ∈ rs) (r_secCount : RegName.secCount ∈ rs)
    : RegsOnly rs s0 (clearPhases s) := by
  unfold Sys2Proof.Machine.clearPhases
  with_reducible repeat' first
    | assumption | apply Named.storePhases | apply Named.setScl | simp only [Named.upd] | dsimp only | split | intro

theorem Named.newPhase (s : State) (sig steps : List Nat) (hk : RegsOnly rs s0 s) (r_fltCount2 : RegName.fltCount2 ∈ rs)
    (r_escCfg : RegName.escCfg ∈ rs) (r_sclStatus : RegName.sclStatus ∈ rs) (r_secCount : RegName.secCount ∈ rs)
    : RegsOnly rs s0 (newPhase s sig steps) := by
  unfold Sys2Proof.Machine.newPhase
  with_reducible repeat' first
    | assumption | apply Named.storePhases | apply Named.whenB | apply Named.setScl | simp only [Named.upd] | dsimp only
    | split | intro

theorem Named.phaseStep (sig : List Nat) (s : State) (hk : RegsOnly rs s0 s) (r_fltCount2 : RegName.fltCount2 ∈ rs)
    (r_escCfg : RegName.escCfg ∈ rs) (r_sclStatus : RegName.sclStatus ∈ rs) (r_pipeClk : RegName.pipeClk ∈ rs)
    (r_secCount : RegName.secCount ∈ rs) : RegsOnly rs s0 (phaseStep sig s) := by
  unfold Sys2Proof.Machine.phaseStep
  with_reducible repeat' first
    | assumption | apply Named.setScl | apply Named.whenB | apply Named.recognise | apply Named.storePhases
    | apply Named.newPhase | simp only [Named.upd] | dsimp only | split | intro

theorem Named.shareEnergy (s : State) (hk : RegsOnly rs s0 s) (r_sclPower : RegName.sclPower ∈ rs)
    (r_energyTotal : RegName.energyTotal ∈ rs) (r_energyCommon : RegName.energyCommon ∈ rs)
    (r_energyHall : RegName.energyHall ∈ rs) : RegsOnly rs s0 (shareEnergy s) := by
  unfold Sys2Proof.Machine.shareEnergy
  with_reducible repeat' first
    | assumption | apply Named.add64 | apply Named.forEach | apply Named.setScl | apply Named.setF | apply Named.foldl
    | apply Named.foldl1 | apply RegIn.sclPower | apply RegIn.energyTotal | apply RegIn.energyTotal4
    | apply RegIn.energyCommon | apply RegIn.energyCommon4 | apply RegIn.energyHall | apply RegIn.energyHall4
    | simp only [Named.upd] | dsimp only | split | intro

theorem Named.execPhaseTick (s : State) (hk : RegsOnly rs s0 s) (r_fltCount2 : RegName.fltCount2 ∈ rs)
    (r_escCfg : RegName.escCfg ∈ rs) (r_sclStatus : RegName.sclStatus ∈ rs) (r_sclPower : RegName.sclPower ∈ rs)
    (r_energyTotal : RegName.energyTotal ∈ rs) (r_energyCommon : RegName.energyCommon ∈ rs)
    (r_energyHall : RegName.energyHall ∈ rs) (r_pipeClk : RegName.pipeClk ∈ rs) (r_secCount : RegName.secCount ∈ rs)
    : NamedO rs s0 (execPhaseTick s) := by
  unfold Sys2Proof.Machine.execPhaseTick
  with_reducible repeat' first
    | assumption | apply Named.shareEnergy | apply Named.syncModelOnly | apply Named.phaseStep | apply NamedO.next
    | simp only [Named.upd] | dsimp only | split | intro

theorem Named.dropSteps (s : State) (ps : List Nat) (hk : RegsOnly rs s0 s) (r_pipeClk : RegName.pipeClk ∈ rs)
    : RegsOnly rs s0 (dropSteps s ps) := by
  unfold Sys2Proof.Machine.dropSteps
  with_reducible repeat' first
    | assumption | apply Named.forEach | apply Named.setStep | apply Named.keepStep | simp only [Named.upd] | dsimp only
    | split | intro

theorem Named.criticalHold (s : State) (hk : RegsOnly rs s0 s) (r_fltCount2 : RegName.fltCount2 ∈ rs)
    (r_escCfg : RegName.escCfg ∈ rs) (r_sclStatus : RegName.sclStatus ∈ rs) (r_pipeClk : RegName.pipeClk ∈ rs)
    : RegsOnly rs s0 (criticalHold s) := by
  unfold Sys2Proof.Machine.criticalHold
  with_reducible repeat' first
    | assumption | apply Named.forcedNotices | apply Named.syncActs | apply Named.dropSteps | simp only [Named.upd]
    | dsimp only | split | intro

theorem Named.criticalStep (s : State) (hk : RegsOnly rs s0 s) (r_fltCount2 : RegName.fltCount2 ∈ rs)
    (r_escCfg : RegName.escCfg ∈ rs) (r_sclStatus : RegName.sclStatus ∈ rs) (r_pipeClk : RegName.pipeClk ∈ rs)
    : RegsOnly rs s0 (criticalStep s) := by
  unfold Sys2Proof.Machine.criticalStep
  with_reducible repeat' first
    | assumption | apply Named.syncActs | apply Named.setBit | apply Named.criticalHold | apply Named.dropSteps
    | apply Named.sclEvent | apply Named.raise | apply Named.forcedNotices | apply RegIn.sclStatus | simp only [Named.upd]
    | dsimp only | split | intro

theorem Named.throttleStep (s : State) (hk : RegsOnly rs s0 s) (r_fltCount2 : RegName.fltCount2 ∈ rs)
    (r_escCfg : RegName.escCfg ∈ rs) (r_sclStatus : RegName.sclStatus ∈ rs) (r_pipeClk : RegName.pipeClk ∈ rs)
    : RegsOnly rs s0 (throttleStep s) := by
  unfold Sys2Proof.Machine.throttleStep
  with_reducible repeat' first
    | assumption | apply Named.sclEvent | apply Named.raise | apply Named.setBit | apply Named.setScl | apply Named.syncActs
    | apply RegIn.sclStatus | simp only [Named.upd] | dsimp only | split | intro

theorem Named.execThermalSense (sensors engines : List Nat) (s : State) (hk : RegsOnly rs s0 s)
    (r_fltCount2 : RegName.fltCount2 ∈ rs) (r_escCfg : RegName.escCfg ∈ rs) (r_sclStatus : RegName.sclStatus ∈ rs)
    (r_sclTj : RegName.sclTj ∈ rs) (r_pipeClk : RegName.pipeClk ∈ rs) : NamedO rs s0 (execThermalSense sensors engines s) := by
  unfold Sys2Proof.Machine.execThermalSense
  with_reducible repeat' first
    | assumption | apply Named.setScl | apply Named.setReg | apply Named.throttleStep | apply Named.criticalStep
    | apply Named.foldl | apply Named.foldl1 | apply RegIn.sclTj | apply NamedO.next | simp only [Named.upd] | dsimp only
    | split | intro

theorem Named.execThrottleTick (s : State) (hk : RegsOnly rs s0 s) (r_fltCount2 : RegName.fltCount2 ∈ rs)
    (r_escCfg : RegName.escCfg ∈ rs) (r_sclStatus : RegName.sclStatus ∈ rs) (r_pipeClk : RegName.pipeClk ∈ rs)
    : NamedO rs s0 (execThrottleTick s) := by
  unfold Sys2Proof.Machine.execThrottleTick
  with_reducible repeat' first
    | assumption | apply Named.throttleCuts | apply Named.setScl | apply Named.forEach | apply Named.syncAct
    | apply Named.deferCuts | apply Named.foldl | apply Named.foldl1 | apply NamedO.next | simp only [Named.upd] | dsimp only
    | split | intro

theorem Named.setTop {s : State} {f : Sys2Proof.Machine.Top → Sys2Proof.Machine.Top} (hk : RegsOnly rs s0 s)
    : RegsOnly rs s0 (setTop s f) := by
  intro p hp
  have h := hk p hp
  cases p <;> first | exact h | exact absurd m_top hp

theorem Named.bayAfterCold (old : State) (s : State) (c : Nat) (hk : RegsOnly rs s0 old) (hk : RegsOnly rs s0 s)
    (r_bayStatus : RegName.bayStatus ∈ rs) : RegsOnly rs s0 (bayAfterCold old s c) := by
  unfold Sys2Proof.Machine.bayAfterCold
  with_reducible repeat' first
    | assumption | apply Named.setF | apply Named.modBay | apply Named.step | apply RegIn.bayStatus | simp only [Named.upd]
    | dsimp only | split | intro

theorem Named.recordWarning (s : State) (mv ns : Nat) (hk : RegsOnly rs s0 s) (r_vwarn : RegName.vwarn ∈ rs)
    : RegsOnly rs s0 (recordWarning s mv ns) := by
  unfold Sys2Proof.Machine.recordWarning
  with_reducible repeat' first
    | assumption | apply Named.setF | apply RegIn.vwarn | simp only [Named.upd] | dsimp only | split | intro

theorem Named.execVddCoreWarning (mv ns : Nat) (s : State) (hk : RegsOnly rs s0 s)
    (r_fltCount2 : RegName.fltCount2 ∈ rs) (r_escCfg : RegName.escCfg ∈ rs) (r_droop : RegName.droop ∈ rs) :
    NamedO rs s0 (execVddCoreWarning mv ns s) := by
  unfold Sys2Proof.Machine.execVddCoreWarning
  generalize List.range 129 = r
  with_reducible repeat' first
    | assumption | apply Named.setTop | apply Named.setF | apply Named.forEach | apply Named.stretch | apply Named.raise
    | apply NamedO.next | dsimp only | split | intro

theorem Named.execVddCoreWarningEnd (minMv durNs : Nat) (s : State) (hk : RegsOnly rs s0 s) (r_vwarn : RegName.vwarn ∈ rs)
    (r_fltCount2 : RegName.fltCount2 ∈ rs) (r_escCfg : RegName.escCfg ∈ rs)
    : NamedO rs s0 (execVddCoreWarningEnd minMv durNs s) := by
  unfold Sys2Proof.Machine.execVddCoreWarningEnd
  with_reducible repeat' first
    | assumption | apply Named.raise | apply Named.recordWarning | apply Named.setTop | apply NamedO.next
    | simp only [Named.upd] | dsimp only | split | intro

theorem Named.lcsBurn (j : LcsJob) (point : Option LcsPoint) (s : State) (hk : RegsOnly rs s0 s)
    : RegsOnly rs s0 (lcsBurn j point s) := by
  unfold Sys2Proof.Machine.lcsBurn
  with_reducible repeat' first
    | assumption | apply Named.whenB | apply Named.modJrn | apply Named.setTop | simp only [Named.upd] | dsimp only | split
    | intro

theorem Named.keepRetired (old s : State) (hk : RegsOnly rs s0 old) (hk : RegsOnly rs s0 s)
    (r_stackStatus : RegName.stackStatus ∈ rs) (r_retiredCh : RegName.retiredCh ∈ rs) : RegsOnly rs s0 (keepRetired old s) := by
  unfold Sys2Proof.Machine.keepRetired
  with_reducible repeat' first
    | assumption | apply Named.forEach | apply Named.setBit | apply Named.setReg | apply RegIn.stackStatus
    | apply RegIn.retiredCh | simp only [Named.upd] | dsimp only | split | intro

theorem Named.execColdResetRelease (straps : BitVec 5) (refclks : BitVec 4) (s : State) (hk : RegsOnly rs s0 s)
    (r_strap : RegName.strap ∈ rs) (r_fltCount2 : RegName.fltCount2 ∈ rs) (r_escCfg : RegName.escCfg ∈ rs)
    (r_timRef : RegName.timRef ∈ rs) : NamedO rs s0 (execColdResetRelease straps refclks s) := by
  unfold Sys2Proof.Machine.execColdResetRelease
  with_reducible repeat' first
    | assumption | apply Named.setLands | apply Named.setTop | apply Named.setBit | apply Named.setReg | apply Named.whenB
    | apply Named.raise | apply RegIn.strap | apply RegIn.timRef | apply NamedO.next | simp only [Named.upd] | dsimp only
    | split | intro

theorem Named.execFusesLoaded (s : State) (hk : RegsOnly rs s0 s) (r_topId : RegName.topId ∈ rs)
    (r_bringup : RegName.bringup ∈ rs) (r_lcs : RegName.lcs ∈ rs) (r_fltCount2 : RegName.fltCount2 ∈ rs)
    (r_escCfg : RegName.escCfg ∈ rs) (r_selfId : RegName.selfId ∈ rs) (r_secStatus : RegName.secStatus ∈ rs)
    (r_kRevoke : RegName.kRevoke ∈ rs) : NamedO rs s0 (execFusesLoaded s) := by
  unfold Sys2Proof.Machine.execFusesLoaded
  with_reducible repeat' first
    | assumption | apply Named.setF | apply Named.setReg | apply Named.setBringup | apply Named.setReg64 | apply RegIn.topId
    | apply RegIn.lcs | apply RegIn.selfId | apply RegIn.selfId4 | apply RegIn.secStatus | apply RegIn.kRevoke
    | apply NamedO.next | simp only [Named.upd] | dsimp only | split | intro

theorem Named.execClocksLocked (failedBanks : List Nat) (s : State) (hk : RegsOnly rs s0 s)
    (r_bringup : RegName.bringup ∈ rs) (r_fltRec : RegName.fltRec ∈ rs) (r_fltFirst : RegName.fltFirst ∈ rs)
    (r_fltCount0 : RegName.fltCount0 ∈ rs) (r_fltCount1 : RegName.fltCount1 ∈ rs) (r_fltCount2 : RegName.fltCount2 ∈ rs)
    (r_escCfg : RegName.escCfg ∈ rs) (r_mktStatus : RegName.mktStatus ∈ rs) (r_poolFree : RegName.poolFree ∈ rs)
    (r_mktCount0 : RegName.mktCount0 ∈ rs) (r_mktCount3 : RegName.mktCount3 ∈ rs) (r_mktCount4 : RegName.mktCount4 ∈ rs)
    (r_mktCount5 : RegName.mktCount5 ∈ rs) (r_mktCount6 : RegName.mktCount6 ∈ rs) (r_partUsed : RegName.partUsed ∈ rs)
    (r_qcfgPitch : RegName.qcfgPitch ∈ rs) (r_qcfgOcc : RegName.qcfgOcc ∈ rs) (r_pfcState : RegName.pfcState ∈ rs)
    (r_ingUsed : RegName.ingUsed ∈ rs) (r_hdrmUsed : RegName.hdrmUsed ∈ rs) (r_bankStatus : RegName.bankStatus ∈ rs)
    (r_stagingFree : RegName.stagingFree ∈ rs) (r_splCount : RegName.splCount ∈ rs) (r_stackStatus : RegName.stackStatus ∈ rs)
    (r_qspillStatus : RegName.qspillStatus ∈ rs) (r_talCount : RegName.talCount ∈ rs) (r_pmcCount : RegName.pmcCount ∈ rs)
    : NamedO rs s0 (execClocksLocked failedBanks s) := by
  unfold Sys2Proof.Machine.execClocksLocked
  with_reducible repeat' first
    | assumption | apply Named.forEach | apply Named.setBit | apply Named.retireBank | apply Named.landsFlash
    | apply Named.setBringup | apply RegIn.bankStatus | apply NamedO.next | simp only [Named.upd] | dsimp only | split
    | intro

theorem Named.runHeldCmd (s : State) (c : HostCmd) (hk : RegsOnly rs s0 s) (r_orphanCtrl : RegName.orphanCtrl ∈ rs)
    (r_orphanLog : RegName.orphanLog ∈ rs) (r_fltCount2 : RegName.fltCount2 ∈ rs) (r_escCfg : RegName.escCfg ∈ rs)
    (r_secCount : RegName.secCount ∈ rs) (r_crtPolicy : RegName.crtPolicy ∈ rs) (r_domCtrl : RegName.domCtrl ∈ rs)
    (r_domT : RegName.domT ∈ rs) (r_clkErr : RegName.clkErr ∈ rs) (r_flapLast : RegName.flapLast ∈ rs)
    (r_flapTable : RegName.flapTable ∈ rs) (r_clerkCount : RegName.clerkCount ∈ rs) (r_desc : RegName.desc ∈ rs)
    (r_hashCfg : RegName.hashCfg ∈ rs) (r_pmcCount : RegName.pmcCount ∈ rs) : RegsOnly rs s0 (runHeldCmd s c) := by
  unfold Sys2Proof.Machine.runHeldCmd
  with_reducible repeat' first
    | assumption | apply Named.rowState | apply Named.execTblSearch | apply Named.execTblNext | apply Named.execTblInsert
    | apply Named.execTblUpdate | apply Named.execTblDelete | apply Named.execTblFlushPort | apply Named.execTblRead
    | apply Named.execStageWrite | apply Named.execCommit | apply Named.execCommitAt | apply Named.execCommitToken
    | apply Named.execCommitCancel | apply Named.execPatchLoad | apply Named.execReadId | apply Named.execSetPolicy
    | apply Named.execPrepareRemove | simp only [Named.upd] | dsimp only | split | intro

theorem Named.runHeld (s : State) (hk : RegsOnly rs s0 s) (r_orphanCtrl : RegName.orphanCtrl ∈ rs)
    (r_orphanLog : RegName.orphanLog ∈ rs) (r_fltCount2 : RegName.fltCount2 ∈ rs) (r_escCfg : RegName.escCfg ∈ rs)
    (r_secCount : RegName.secCount ∈ rs) (r_crtPolicy : RegName.crtPolicy ∈ rs) (r_domCtrl : RegName.domCtrl ∈ rs)
    (r_domT : RegName.domT ∈ rs) (r_clkErr : RegName.clkErr ∈ rs) (r_flapLast : RegName.flapLast ∈ rs)
    (r_flapTable : RegName.flapTable ∈ rs) (r_clerkCount : RegName.clerkCount ∈ rs) (r_desc : RegName.desc ∈ rs)
    (r_hashCfg : RegName.hashCfg ∈ rs) (r_pmcCount : RegName.pmcCount ∈ rs) : RegsOnly rs s0 (runHeld s) := by
  unfold Sys2Proof.Machine.runHeld
  with_reducible repeat' first
    | assumption | apply Named.refuseForms | apply Named.forEach | apply Named.runHeldCmd | simp only [Named.upd]
    | dsimp only | split | intro

theorem Named.startEpoch (s : State) (hk : RegsOnly rs s0 s) (r_orphanCtrl : RegName.orphanCtrl ∈ rs)
    (r_orphanLog : RegName.orphanLog ∈ rs) (r_fltCount2 : RegName.fltCount2 ∈ rs) (r_escCfg : RegName.escCfg ∈ rs)
    (r_secStatus : RegName.secStatus ∈ rs) (r_slotStatus : RegName.slotStatus ∈ rs) (r_secCount : RegName.secCount ∈ rs)
    (r_ctx0Bits : RegName.ctx0Bits ∈ rs) (r_crtPolicy : RegName.crtPolicy ∈ rs) (r_domCtrl : RegName.domCtrl ∈ rs)
    (r_domT : RegName.domT ∈ rs) (r_clkErr : RegName.clkErr ∈ rs) (r_flapLast : RegName.flapLast ∈ rs)
    (r_flapTable : RegName.flapTable ∈ rs) (r_clerkCount : RegName.clerkCount ∈ rs) (r_desc : RegName.desc ∈ rs)
    (r_hashCfg : RegName.hashCfg ∈ rs) (r_pmcCount : RegName.pmcCount ∈ rs) : RegsOnly rs s0 (startEpoch s) := by
  unfold Sys2Proof.Machine.startEpoch
  with_reducible repeat' first
    | assumption | apply Named.keyEpoch | apply Named.runHeld | simp only [Named.upd] | dsimp only | split | intro

theorem Named.execKeyEpochStart (s : State) (hk : RegsOnly rs s0 s) (r_orphanCtrl : RegName.orphanCtrl ∈ rs)
    (r_orphanLog : RegName.orphanLog ∈ rs) (r_fltCount2 : RegName.fltCount2 ∈ rs) (r_escCfg : RegName.escCfg ∈ rs)
    (r_secStatus : RegName.secStatus ∈ rs) (r_slotStatus : RegName.slotStatus ∈ rs) (r_secCount : RegName.secCount ∈ rs)
    (r_ctx0Bits : RegName.ctx0Bits ∈ rs) (r_crtPolicy : RegName.crtPolicy ∈ rs) (r_domCtrl : RegName.domCtrl ∈ rs)
    (r_domT : RegName.domT ∈ rs) (r_clkErr : RegName.clkErr ∈ rs) (r_flapLast : RegName.flapLast ∈ rs)
    (r_flapTable : RegName.flapTable ∈ rs) (r_clerkCount : RegName.clerkCount ∈ rs) (r_desc : RegName.desc ∈ rs)
    (r_hashCfg : RegName.hashCfg ∈ rs) (r_pmcCount : RegName.pmcCount ∈ rs) : NamedO rs s0 (execKeyEpochStart s) := by
  unfold Sys2Proof.Machine.execKeyEpochStart
  with_reducible repeat' first
    | assumption | apply Named.startEpoch | apply NamedO.next | simp only [Named.upd] | dsimp only | split | intro

theorem Named.execTrngOk (s : State) (hk : RegsOnly rs s0 s) (r_orphanCtrl : RegName.orphanCtrl ∈ rs)
    (r_orphanLog : RegName.orphanLog ∈ rs) (r_fltCount2 : RegName.fltCount2 ∈ rs) (r_escCfg : RegName.escCfg ∈ rs)
    (r_secStatus : RegName.secStatus ∈ rs) (r_slotStatus : RegName.slotStatus ∈ rs) (r_secCount : RegName.secCount ∈ rs)
    (r_ctx0Bits : RegName.ctx0Bits ∈ rs) (r_crtPolicy : RegName.crtPolicy ∈ rs) (r_domCtrl : RegName.domCtrl ∈ rs)
    (r_domT : RegName.domT ∈ rs) (r_clkErr : RegName.clkErr ∈ rs) (r_flapLast : RegName.flapLast ∈ rs)
    (r_flapTable : RegName.flapTable ∈ rs) (r_clerkCount : RegName.clerkCount ∈ rs) (r_desc : RegName.desc ∈ rs)
    (r_hashCfg : RegName.hashCfg ∈ rs) (r_pmcCount : RegName.pmcCount ∈ rs) : NamedO rs s0 (execTrngOk s) := by
  unfold Sys2Proof.Machine.execTrngOk
  with_reducible repeat' first
    | assumption | apply Named.setBit | apply Named.forEach | apply Named.startEpoch | apply Named.queueHello
    | apply Named.sendChallenge | apply RegIn.secStatus | apply NamedO.next | simp only [Named.upd] | dsimp only | split
    | intro

theorem Named.tablesWiped (s : State) (hk : RegsOnly rs s0 s) (r_bringup : RegName.bringup ∈ rs)
    (r_fltCount2 : RegName.fltCount2 ∈ rs) (r_escCfg : RegName.escCfg ∈ rs) (r_domCtrl : RegName.domCtrl ∈ rs)
    : RegsOnly rs s0 (tablesWiped s) := by
  unfold Sys2Proof.Machine.tablesWiped
  with_reducible repeat' first
    | assumption | apply Named.setBringup | apply Named.openStage | simp only [Named.upd] | dsimp only | split | intro

theorem Named.execTableWipeComplete (s : State) (hk : RegsOnly rs s0 s) (r_bringup : RegName.bringup ∈ rs)
    (r_orphanCtrl : RegName.orphanCtrl ∈ rs) (r_orphanLog : RegName.orphanLog ∈ rs) (r_fltCount2 : RegName.fltCount2 ∈ rs)
    (r_escCfg : RegName.escCfg ∈ rs) (r_secCount : RegName.secCount ∈ rs) (r_crtPolicy : RegName.crtPolicy ∈ rs)
    (r_domCtrl : RegName.domCtrl ∈ rs) (r_domT : RegName.domT ∈ rs) (r_clkErr : RegName.clkErr ∈ rs)
    (r_flapLast : RegName.flapLast ∈ rs) (r_flapTable : RegName.flapTable ∈ rs) (r_clerkCount : RegName.clerkCount ∈ rs)
    (r_desc : RegName.desc ∈ rs) (r_hashCfg : RegName.hashCfg ∈ rs) (r_pmcCount : RegName.pmcCount ∈ rs)
    : NamedO rs s0 (execTableWipeComplete s) := by
  unfold Sys2Proof.Machine.execTableWipeComplete
  with_reducible repeat' first
    | assumption | apply Named.runHeld | apply Named.tablesWiped | apply NamedO.next | simp only [Named.upd] | dsimp only
    | split | intro

theorem Named.startWipe (s : State) (m : Nat) (hk : RegsOnly rs s0 s) : RegsOnly rs s0 (startWipe s m) := by
  unfold Sys2Proof.Machine.startWipe
  with_reducible repeat' first
    | assumption | simp only [Named.upd] | dsimp only | split | intro

theorem Named.stackReady (s : State) (m : Nat) (hk : RegsOnly rs s0 s) (r_bringup : RegName.bringup ∈ rs)
    (r_fltCount2 : RegName.fltCount2 ∈ rs) (r_escCfg : RegName.escCfg ∈ rs) : RegsOnly rs s0 (stackReady s m) := by
  unfold Sys2Proof.Machine.stackReady
  with_reducible repeat' first
    | assumption | apply Named.raise | apply Named.setBringup | simp only [Named.upd] | dsimp only | split | intro

theorem Named.execHbmPhyTrained (stack : Nat) (failedCh : List Nat) (s : State) (hk : RegsOnly rs s0 s)
    (r_bringup : RegName.bringup ∈ rs) (r_fltCount2 : RegName.fltCount2 ∈ rs) (r_escCfg : RegName.escCfg ∈ rs)
    (r_mktStatus : RegName.mktStatus ∈ rs) (r_poolFree : RegName.poolFree ∈ rs) (r_mktCount3 : RegName.mktCount3 ∈ rs)
    (r_mktCount4 : RegName.mktCount4 ∈ rs) (r_mktCount5 : RegName.mktCount5 ∈ rs) (r_mktCount6 : RegName.mktCount6 ∈ rs)
    (r_partUsed : RegName.partUsed ∈ rs) (r_qcfgPitch : RegName.qcfgPitch ∈ rs) (r_qcfgOcc : RegName.qcfgOcc ∈ rs)
    (r_pfcState : RegName.pfcState ∈ rs) (r_ingUsed : RegName.ingUsed ∈ rs) (r_hdrmUsed : RegName.hdrmUsed ∈ rs)
    (r_stagingFree : RegName.stagingFree ∈ rs) (r_splCount : RegName.splCount ∈ rs) (r_stackStatus : RegName.stackStatus ∈ rs)
    (r_retiredCh : RegName.retiredCh ∈ rs) (r_phyStatus : RegName.phyStatus ∈ rs) (r_qspillStatus : RegName.qspillStatus ∈ rs)
    (r_talCount : RegName.talCount ∈ rs) (r_pmcCount : RegName.pmcCount ∈ rs)
    : NamedO rs s0 (execHbmPhyTrained stack failedCh s) := by
  unfold Sys2Proof.Machine.execHbmPhyTrained
  with_reducible repeat' first
    | assumption | apply Named.setBit | apply Named.setF | apply Named.forEach | apply Named.retireChannel
    | apply Named.stackReady | apply Named.startWipe | apply Named.foldl | apply Named.foldl1 | apply RegIn.phyStatus
    | apply NamedO.next | simp only [Named.upd] | dsimp only | split | intro

theorem Named.wipedStack (s : State) (m : Nat) (hk : RegsOnly rs s0 s) (r_fltCount2 : RegName.fltCount2 ∈ rs)
    (r_escCfg : RegName.escCfg ∈ rs) (r_stackStatus : RegName.stackStatus ∈ rs) (r_pmcCount : RegName.pmcCount ∈ rs)
    : RegsOnly rs s0 (wipedStack s m) := by
  unfold Sys2Proof.Machine.wipedStack
  with_reducible repeat' first
    | assumption | apply Named.forEach | apply Named.pmcAdd | apply Named.setF | apply Named.setBit | apply RegIn.stackStatus
    | simp only [Named.upd] | dsimp only | split | intro

theorem Named.execHbmWipeComplete (stack : Nat) (failedCh : List Nat) (s : State) (hk : RegsOnly rs s0 s)
    (r_bringup : RegName.bringup ∈ rs) (r_fltCount2 : RegName.fltCount2 ∈ rs) (r_escCfg : RegName.escCfg ∈ rs)
    (r_mktStatus : RegName.mktStatus ∈ rs) (r_poolFree : RegName.poolFree ∈ rs) (r_mktCount3 : RegName.mktCount3 ∈ rs)
    (r_mktCount4 : RegName.mktCount4 ∈ rs) (r_mktCount5 : RegName.mktCount5 ∈ rs) (r_mktCount6 : RegName.mktCount6 ∈ rs)
    (r_partUsed : RegName.partUsed ∈ rs) (r_qcfgPitch : RegName.qcfgPitch ∈ rs) (r_qcfgOcc : RegName.qcfgOcc ∈ rs)
    (r_pfcState : RegName.pfcState ∈ rs) (r_ingUsed : RegName.ingUsed ∈ rs) (r_hdrmUsed : RegName.hdrmUsed ∈ rs)
    (r_stagingFree : RegName.stagingFree ∈ rs) (r_splCount : RegName.splCount ∈ rs) (r_stackStatus : RegName.stackStatus ∈ rs)
    (r_retiredCh : RegName.retiredCh ∈ rs) (r_qspillStatus : RegName.qspillStatus ∈ rs) (r_talCount : RegName.talCount ∈ rs)
    (r_pmcCount : RegName.pmcCount ∈ rs) : NamedO rs s0 (execHbmWipeComplete stack failedCh s) := by
  unfold Sys2Proof.Machine.execHbmWipeComplete
  with_reducible repeat' first
    | assumption | apply Named.forEach | apply Named.retireChannel | apply Named.stackReady | apply Named.wipedStack
    | apply NamedO.next | simp only [Named.upd] | dsimp only | split | intro

theorem Named.bootVerified (s : State) (hk : RegsOnly rs s0 s) (r_fltCount2 : RegName.fltCount2 ∈ rs)
    (r_escCfg : RegName.escCfg ∈ rs) (r_secCount : RegName.secCount ∈ rs) : RegsOnly rs s0 (bootVerified s) := by
  unfold Sys2Proof.Machine.bootVerified
  with_reducible repeat' first
    | assumption | apply Named.whenB | apply Named.raise | apply Named.forEach | apply Named.secCount | simp only [Named.upd]
    | dsimp only | split | intro

theorem Named.bootPatch (s : State) (hk : RegsOnly rs s0 s) (r_fltCount2 : RegName.fltCount2 ∈ rs)
    (r_escCfg : RegName.escCfg ∈ rs) (r_secStatus : RegName.secStatus ∈ rs) (r_secCount : RegName.secCount ∈ rs)
    : RegsOnly rs s0 (bootPatch s) := by
  unfold Sys2Proof.Machine.bootPatch
  with_reducible repeat' first
    | assumption | apply Named.sigCount | apply Named.raisePatchFloor | simp only [Named.upd] | dsimp only | split | intro

theorem Named.bootCold (s : State) (hk : RegsOnly rs s0 s) (r_fltCount2 : RegName.fltCount2 ∈ rs)
    (r_escCfg : RegName.escCfg ∈ rs) (r_regCfg : RegName.regCfg ∈ rs) (r_secStatus : RegName.secStatus ∈ rs)
    (r_secCount : RegName.secCount ∈ rs) (r_crtPolicy : RegName.crtPolicy ∈ rs) : RegsOnly rs s0 (bootCold s) := by
  unfold Sys2Proof.Machine.bootCold
  with_reducible repeat' first
    | assumption | apply Named.whenB | apply Named.setBit | apply Named.forEach | apply Named.setReg | apply Named.bootPatch
    | apply Named.setScl | apply RegIn.regCfg | apply RegIn.crtPolicy | simp only [Named.upd] | dsimp only | split | intro

theorem Named.logStart (s : State) (cold : Bool) (svn : Nat) (hk : RegsOnly rs s0 s) (r_fltCount2 : RegName.fltCount2 ∈ rs)
    (r_escCfg : RegName.escCfg ∈ rs) : RegsOnly rs s0 (logStart s cold svn) := by
  unfold Sys2Proof.Machine.logStart
  with_reducible repeat' first
    | assumption | apply Named.jrnLog | simp only [Named.upd] | dsimp only | split | intro

theorem Named.firmwareRuns (s : State) (hk : RegsOnly rs s0 s) (r_bringup : RegName.bringup ∈ rs)
    (r_orphanCtrl : RegName.orphanCtrl ∈ rs) (r_orphanLog : RegName.orphanLog ∈ rs) (r_fltCount2 : RegName.fltCount2 ∈ rs)
    (r_escCfg : RegName.escCfg ∈ rs) (r_portLatency : RegName.portLatency ∈ rs) (r_tokenCtrl : RegName.tokenCtrl ∈ rs)
    (r_peerStatus : RegName.peerStatus ∈ rs) (r_secCount : RegName.secCount ∈ rs) (r_crtPolicy : RegName.crtPolicy ∈ rs)
    (r_bayStatus : RegName.bayStatus ∈ rs) (r_chFull : RegName.chFull ∈ rs) (r_domCtrl : RegName.domCtrl ∈ rs)
    (r_domT : RegName.domT ∈ rs) (r_portsUp : RegName.portsUp ∈ rs) (r_evtLanes : RegName.evtLanes ∈ rs)
    (r_portState : RegName.portState ∈ rs) (r_clkErr : RegName.clkErr ∈ rs) (r_flapLast : RegName.flapLast ∈ rs)
    (r_flapTable : RegName.flapTable ∈ rs) (r_clerkCount : RegName.clerkCount ∈ rs) (r_desc : RegName.desc ∈ rs)
    (r_hashCfg : RegName.hashCfg ∈ rs) (r_pmcCount : RegName.pmcCount ∈ rs) : RegsOnly rs s0 (firmwareRuns s) := by
  unfold Sys2Proof.Machine.firmwareRuns
  with_reducible repeat' first
    | assumption | apply Named.mailTake | apply Named.landsFirmware | apply Named.jrnFlush | apply Named.forEach
    | apply Named.serveAsked | apply Named.answerProposals | apply Named.runHeld | apply Named.cartDone
    | simp only [Named.upd] | dsimp only | split | intro

theorem Named.firmwareStarted (bad : List JrnRec) (code svn : Nat) (s : State) (hk : RegsOnly rs s0 s)
    (r_bringup : RegName.bringup ∈ rs) (r_fltCount2 : RegName.fltCount2 ∈ rs) (r_escCfg : RegName.escCfg ∈ rs)
    (r_regCfg : RegName.regCfg ∈ rs) (r_secStatus : RegName.secStatus ∈ rs) (r_secCount : RegName.secCount ∈ rs)
    (r_crtPolicy : RegName.crtPolicy ∈ rs) : RegsOnly rs s0 (firmwareStarted bad code svn s) := by
  unfold Sys2Proof.Machine.firmwareStarted
  with_reducible repeat' first
    | assumption | apply Named.setTop | apply Named.bootVerified | apply Named.whenB | apply Named.bootCold
    | apply Named.journalStart | apply Named.raiseFwFloor | apply Named.setBringup | apply Named.logStart
    | simp only [Named.upd] | dsimp only | split | intro

theorem Named.bootFirmware (bad : List JrnRec) (s : State) (hk : RegsOnly rs s0 s) (r_bringup : RegName.bringup ∈ rs)
    (r_orphanCtrl : RegName.orphanCtrl ∈ rs) (r_orphanLog : RegName.orphanLog ∈ rs) (r_fltCount2 : RegName.fltCount2 ∈ rs)
    (r_escCfg : RegName.escCfg ∈ rs) (r_regCfg : RegName.regCfg ∈ rs) (r_portLatency : RegName.portLatency ∈ rs)
    (r_tokenCtrl : RegName.tokenCtrl ∈ rs) (r_peerStatus : RegName.peerStatus ∈ rs) (r_secStatus : RegName.secStatus ∈ rs)
    (r_secCount : RegName.secCount ∈ rs) (r_crtPolicy : RegName.crtPolicy ∈ rs) (r_bayStatus : RegName.bayStatus ∈ rs)
    (r_chFull : RegName.chFull ∈ rs) (r_domCtrl : RegName.domCtrl ∈ rs) (r_domT : RegName.domT ∈ rs)
    (r_portsUp : RegName.portsUp ∈ rs) (r_evtLanes : RegName.evtLanes ∈ rs) (r_portState : RegName.portState ∈ rs)
    (r_clkErr : RegName.clkErr ∈ rs) (r_flapLast : RegName.flapLast ∈ rs) (r_flapTable : RegName.flapTable ∈ rs)
    (r_clerkCount : RegName.clerkCount ∈ rs) (r_desc : RegName.desc ∈ rs) (r_hashCfg : RegName.hashCfg ∈ rs)
    (r_pmcCount : RegName.pmcCount ∈ rs) : RegsOnly rs s0 (bootFirmware bad s) := by
  unfold Sys2Proof.Machine.bootFirmware
  with_reducible repeat' first
    | assumption | apply Named.bootVerified | apply Named.firmwareRuns | apply Named.firmwareStarted | simp only [Named.upd]
    | dsimp only | split | intro

theorem Named.execFirmwareStart (bad : List JrnRec) (s : State) (hk : RegsOnly rs s0 s) (r_bringup : RegName.bringup ∈ rs)
    (r_orphanCtrl : RegName.orphanCtrl ∈ rs) (r_orphanLog : RegName.orphanLog ∈ rs) (r_fltCount2 : RegName.fltCount2 ∈ rs)
    (r_escCfg : RegName.escCfg ∈ rs) (r_regCfg : RegName.regCfg ∈ rs) (r_portLatency : RegName.portLatency ∈ rs)
    (r_tokenCtrl : RegName.tokenCtrl ∈ rs) (r_peerStatus : RegName.peerStatus ∈ rs) (r_secStatus : RegName.secStatus ∈ rs)
    (r_secCount : RegName.secCount ∈ rs) (r_crtPolicy : RegName.crtPolicy ∈ rs) (r_bayStatus : RegName.bayStatus ∈ rs)
    (r_chFull : RegName.chFull ∈ rs) (r_domCtrl : RegName.domCtrl ∈ rs) (r_domT : RegName.domT ∈ rs)
    (r_portsUp : RegName.portsUp ∈ rs) (r_evtLanes : RegName.evtLanes ∈ rs) (r_portState : RegName.portState ∈ rs)
    (r_clkErr : RegName.clkErr ∈ rs) (r_flapLast : RegName.flapLast ∈ rs) (r_flapTable : RegName.flapTable ∈ rs)
    (r_clerkCount : RegName.clerkCount ∈ rs) (r_desc : RegName.desc ∈ rs) (r_hashCfg : RegName.hashCfg ∈ rs)
    (r_pmcCount : RegName.pmcCount ∈ rs) : NamedO rs s0 (execFirmwareStart bad s) := by
  unfold Sys2Proof.Machine.execFirmwareStart
  with_reducible repeat' first
    | assumption | apply Named.bootFirmware | apply NamedO.next | simp only [Named.upd] | dsimp only | split | intro

theorem Named.execJtagCoreRelease (s : State) (hk : RegsOnly rs s0 s) : NamedO rs s0 (execJtagCoreRelease s) := by
  unfold Sys2Proof.Machine.execJtagCoreRelease
  with_reducible repeat' first
    | assumption | apply Named.setTop | apply Named.setLands | apply Named.landsFlash | apply NamedO.next
    | simp only [Named.upd] | dsimp only | split | intro

theorem Named.controlStart (s : State) (hk : RegsOnly rs s0 s) (r_bringup : RegName.bringup ∈ rs)
    (r_mbCtrl : RegName.mbCtrl ∈ rs) (r_mbResponse : RegName.mbResponse ∈ rs) (r_orphanCtrl : RegName.orphanCtrl ∈ rs)
    (r_orphanLog : RegName.orphanLog ∈ rs) (r_fltCount2 : RegName.fltCount2 ∈ rs) (r_escCfg : RegName.escCfg ∈ rs)
    : RegsOnly rs s0 (controlStart s) := by
  unfold Sys2Proof.Machine.controlStart
  with_reducible repeat' first
    | assumption | apply Named.clearBringup | apply Named.setTop | apply Named.forEach | apply Named.complete
    | apply Named.mailRespond | apply Named.foldl | apply Named.foldl1 | simp only [Named.upd] | dsimp only | split | intro

theorem Named.execControlReset (s : State) (hk : RegsOnly rs s0 s) (r_bringup : RegName.bringup ∈ rs)
    (r_mbCtrl : RegName.mbCtrl ∈ rs) (r_mbResponse : RegName.mbResponse ∈ rs) (r_orphanCtrl : RegName.orphanCtrl ∈ rs)
    (r_orphanLog : RegName.orphanLog ∈ rs) (r_fltCount2 : RegName.fltCount2 ∈ rs) (r_escCfg : RegName.escCfg ∈ rs)
    : NamedO rs s0 (execControlReset s) := by
  unfold Sys2Proof.Machine.execControlReset
  with_reducible repeat' first
    | assumption | apply Named.controlStart | apply NamedO.next | simp only [Named.upd] | dsimp only | split | intro

theorem Named.execControlResetComplete (bad : List JrnRec) (s : State) (hk : RegsOnly rs s0 s)
    (r_bringup : RegName.bringup ∈ rs) (r_orphanCtrl : RegName.orphanCtrl ∈ rs) (r_orphanLog : RegName.orphanLog ∈ rs)
    (r_fltCount2 : RegName.fltCount2 ∈ rs) (r_escCfg : RegName.escCfg ∈ rs) (r_regCfg : RegName.regCfg ∈ rs)
    (r_portLatency : RegName.portLatency ∈ rs) (r_tokenCtrl : RegName.tokenCtrl ∈ rs) (r_peerStatus : RegName.peerStatus ∈ rs)
    (r_secStatus : RegName.secStatus ∈ rs) (r_secCount : RegName.secCount ∈ rs) (r_crtPolicy : RegName.crtPolicy ∈ rs)
    (r_bayStatus : RegName.bayStatus ∈ rs) (r_chFull : RegName.chFull ∈ rs) (r_domCtrl : RegName.domCtrl ∈ rs)
    (r_domT : RegName.domT ∈ rs) (r_portsUp : RegName.portsUp ∈ rs) (r_evtLanes : RegName.evtLanes ∈ rs)
    (r_portState : RegName.portState ∈ rs) (r_clkErr : RegName.clkErr ∈ rs) (r_flapLast : RegName.flapLast ∈ rs)
    (r_flapTable : RegName.flapTable ∈ rs) (r_clerkCount : RegName.clerkCount ∈ rs) (r_desc : RegName.desc ∈ rs)
    (r_hashCfg : RegName.hashCfg ∈ rs) (r_pmcCount : RegName.pmcCount ∈ rs) : NamedO rs s0 (execControlResetComplete bad s) := by
  unfold Sys2Proof.Machine.execControlResetComplete
  with_reducible repeat' first
    | assumption | apply Named.bootFirmware | apply NamedO.next | simp only [Named.upd] | dsimp only | split | intro

theorem Named.execCoreWatchdogExpiry (core : Nat) (s : State) (hk : RegsOnly rs s0 s) (r_bringup : RegName.bringup ∈ rs)
    (r_mbCtrl : RegName.mbCtrl ∈ rs) (r_mbResponse : RegName.mbResponse ∈ rs) (r_orphanCtrl : RegName.orphanCtrl ∈ rs)
    (r_orphanLog : RegName.orphanLog ∈ rs) (r_fltCount2 : RegName.fltCount2 ∈ rs) (r_escCfg : RegName.escCfg ∈ rs)
    : NamedO rs s0 (execCoreWatchdogExpiry core s) := by
  unfold Sys2Proof.Machine.execCoreWatchdogExpiry
  with_reducible repeat' first
    | assumption | apply Named.controlStart | apply NamedO.next | simp only [Named.upd] | dsimp only | split | intro

theorem Named.resetPipe (p : Nat) (s : State) (hk : RegsOnly rs s0 s) (r_fltRec : RegName.fltRec ∈ rs) (r_fltFirst : RegName.fltFirst ∈ rs) (r_fltCount0 : RegName.fltCount0 ∈ rs) (r_fltCount1 : RegName.fltCount1 ∈ rs) (r_fltCount2 : RegName.fltCount2 ∈ rs) (r_escCfg : RegName.escCfg ∈ rs) (r_stateCtrl : RegName.stateCtrl ∈ rs) (r_mktStatus : RegName.mktStatus ∈ rs) (r_poolFree : RegName.poolFree ∈ rs) (r_mktCount0 : RegName.mktCount0 ∈ rs) (r_mktCount3 : RegName.mktCount3 ∈ rs) (r_mktCount4 : RegName.mktCount4 ∈ rs) (r_mktCount5 : RegName.mktCount5 ∈ rs) (r_mktCount6 : RegName.mktCount6 ∈ rs) (r_partUsed : RegName.partUsed ∈ rs) (r_qcfgPitch : RegName.qcfgPitch ∈ rs) (r_qcfgOcc : RegName.qcfgOcc ∈ rs) (r_pfcState : RegName.pfcState ∈ rs) (r_ingUsed : RegName.ingUsed ∈ rs) (r_hdrmUsed : RegName.hdrmUsed ∈ rs) (r_stagingFree : RegName.stagingFree ∈ rs) (r_splCount : RegName.splCount ∈ rs) (r_stackStatus : RegName.stackStatus ∈ rs) (r_qspillStatus : RegName.qspillStatus ∈ rs) (r_talCount : RegName.talCount ∈ rs) (r_pmcCount : RegName.pmcCount ∈ rs) :
    RegsOnly rs s0 (resetPipe p s) := by
  unfold Sys2Proof.Machine.resetPipe
  lift_lets
  intro s1 s2
  have h1 : RegsOnly rs s0 s1 := by with_reducible repeat' first | assumption | apply Named.dropInPipe
  clear_value s1
  have h2 : RegsOnly rs s0 s2 := by
    with_reducible repeat' first
      | assumption | apply Named.forEach | apply Named.setStall | dsimp only | intro
  clear_value s2
  generalize List.range 32 = r
  with_reducible repeat' first
    | assumption | apply Named.forEach | apply Named.clearPauses
    | simp only [Named.upd]  | dsimp only | split | intro

theorem Named.resetPort (s : State) (l : Nat) (hk : RegsOnly rs s0 s) (r_fltCount2 : RegName.fltCount2 ∈ rs)
    (r_escCfg : RegName.escCfg ∈ rs) (r_portLatency : RegName.portLatency ∈ rs) (r_tokenCtrl : RegName.tokenCtrl ∈ rs)
    (r_peerStatus : RegName.peerStatus ∈ rs) (r_portsUp : RegName.portsUp ∈ rs) (r_evtLanes : RegName.evtLanes ∈ rs)
    (r_portState : RegName.portState ∈ rs) : RegsOnly rs s0 (resetPort s l) := by
  unfold Sys2Proof.Machine.resetPort
  with_reducible repeat' first
    | assumption | apply Named.ainumDown | apply Named.modPort | apply Named.enterState | simp only [Named.upd] | dsimp only
    | split | intro

theorem Named.resetLanes (g : Nat) (s : State) (hk : RegsOnly rs s0 s) (r_fltRec : RegName.fltRec ∈ rs)
    (r_fltFirst : RegName.fltFirst ∈ rs) (r_fltCount0 : RegName.fltCount0 ∈ rs) (r_fltCount1 : RegName.fltCount1 ∈ rs)
    (r_fltCount2 : RegName.fltCount2 ∈ rs) (r_escCfg : RegName.escCfg ∈ rs) (r_portLatency : RegName.portLatency ∈ rs)
    (r_tokenCtrl : RegName.tokenCtrl ∈ rs) (r_peerStatus : RegName.peerStatus ∈ rs) (r_portsUp : RegName.portsUp ∈ rs)
    (r_evtLanes : RegName.evtLanes ∈ rs) (r_portState : RegName.portState ∈ rs) (r_mktStatus : RegName.mktStatus ∈ rs)
    (r_poolFree : RegName.poolFree ∈ rs) (r_mktCount0 : RegName.mktCount0 ∈ rs) (r_mktCount3 : RegName.mktCount3 ∈ rs)
    (r_mktCount4 : RegName.mktCount4 ∈ rs) (r_mktCount5 : RegName.mktCount5 ∈ rs) (r_mktCount6 : RegName.mktCount6 ∈ rs)
    (r_partUsed : RegName.partUsed ∈ rs) (r_qcfgPitch : RegName.qcfgPitch ∈ rs) (r_qcfgOcc : RegName.qcfgOcc ∈ rs)
    (r_pfcState : RegName.pfcState ∈ rs) (r_ingUsed : RegName.ingUsed ∈ rs) (r_hdrmUsed : RegName.hdrmUsed ∈ rs)
    (r_stagingFree : RegName.stagingFree ∈ rs) (r_splCount : RegName.splCount ∈ rs) (r_stackStatus : RegName.stackStatus ∈ rs)
    (r_qspillStatus : RegName.qspillStatus ∈ rs) (r_talCount : RegName.talCount ∈ rs) (r_pmcCount : RegName.pmcCount ∈ rs)
    : RegsOnly rs s0 (resetLanes g s) := by
  unfold Sys2Proof.Machine.resetLanes
  with_reducible repeat' first
    | assumption | apply Named.forEach | apply Named.cutArriving | apply Named.dropPacket | apply Named.resetPort
    | simp only [Named.upd] | dsimp only | split | intro

theorem Named.faultLookups (h : Nat) (s : State) (hk : RegsOnly rs s0 s) : RegsOnly rs s0 (faultLookups h s) := by
  unfold Sys2Proof.Machine.faultLookups
  with_reducible repeat' first
    | assumption | simp only [Named.upd] | dsimp only | split | intro

theorem Named.abandonReads (mine : Xfer → Bool) (s : State) (hk : RegsOnly rs s0 s) (r_fltCount2 : RegName.fltCount2 ∈ rs)
    (r_escCfg : RegName.escCfg ∈ rs) (r_mktStatus : RegName.mktStatus ∈ rs) (r_poolFree : RegName.poolFree ∈ rs)
    (r_partUsed : RegName.partUsed ∈ rs) (r_qcfgOcc : RegName.qcfgOcc ∈ rs) (r_pmcCount : RegName.pmcCount ∈ rs)
    : RegsOnly rs s0 (abandonReads mine s) := by
  unfold Sys2Proof.Machine.abandonReads
  with_reducible repeat' first
    | assumption | apply Named.forEach | apply Named.dropXfer | apply Named.freeDrain | apply Named.setSpq
    | simp only [Named.upd] | dsimp only | split | intro

theorem Named.resetPhy (m : Nat) (s : State) (hk : RegsOnly rs s0 s) (r_bringup : RegName.bringup ∈ rs)
    (r_fltCount2 : RegName.fltCount2 ∈ rs) (r_escCfg : RegName.escCfg ∈ rs) (r_mktStatus : RegName.mktStatus ∈ rs)
    (r_poolFree : RegName.poolFree ∈ rs) (r_partUsed : RegName.partUsed ∈ rs) (r_qcfgOcc : RegName.qcfgOcc ∈ rs)
    (r_phyStatus : RegName.phyStatus ∈ rs) (r_pmcCount : RegName.pmcCount ∈ rs) : RegsOnly rs s0 (resetPhy m s) := by
  unfold Sys2Proof.Machine.resetPhy
  with_reducible repeat' first
    | assumption | apply Named.setBit | apply Named.clearBringup | apply Named.abandonReads | apply RegIn.phyStatus
    | simp only [Named.upd] | dsimp only | split | intro

theorem Named.resetSecurity (s : State) (hk : RegsOnly rs s0 s) (r_orphanCtrl : RegName.orphanCtrl ∈ rs)
    (r_orphanLog : RegName.orphanLog ∈ rs) (r_fltCount2 : RegName.fltCount2 ∈ rs) (r_escCfg : RegName.escCfg ∈ rs)
    (r_peerStatus : RegName.peerStatus ∈ rs) (r_secStatus : RegName.secStatus ∈ rs) (r_slotStatus : RegName.slotStatus ∈ rs)
    (r_portState : RegName.portState ∈ rs) : RegsOnly rs s0 (resetSecurity s) := by
  unfold Sys2Proof.Machine.resetSecurity
  with_reducible repeat' first
    | assumption | apply Named.forEach | apply Named.complete | apply Named.endSession | apply Named.wipeSlots
    | simp only [Named.upd] | dsimp only | split | intro

theorem Named.islandEffect (n : Nat) (s : State) (hk : RegsOnly rs s0 s) (r_bringup : RegName.bringup ∈ rs)
    (r_orphanCtrl : RegName.orphanCtrl ∈ rs) (r_orphanLog : RegName.orphanLog ∈ rs) (r_fltRec : RegName.fltRec ∈ rs)
    (r_fltFirst : RegName.fltFirst ∈ rs) (r_fltCount0 : RegName.fltCount0 ∈ rs) (r_fltCount1 : RegName.fltCount1 ∈ rs)
    (r_fltCount2 : RegName.fltCount2 ∈ rs) (r_escCfg : RegName.escCfg ∈ rs) (r_portLatency : RegName.portLatency ∈ rs)
    (r_tokenCtrl : RegName.tokenCtrl ∈ rs) (r_peerStatus : RegName.peerStatus ∈ rs) (r_secStatus : RegName.secStatus ∈ rs)
    (r_slotStatus : RegName.slotStatus ∈ rs) (r_portsUp : RegName.portsUp ∈ rs) (r_evtLanes : RegName.evtLanes ∈ rs)
    (r_portState : RegName.portState ∈ rs) (r_stateCtrl : RegName.stateCtrl ∈ rs) (r_mktStatus : RegName.mktStatus ∈ rs)
    (r_poolFree : RegName.poolFree ∈ rs) (r_mktCount0 : RegName.mktCount0 ∈ rs) (r_mktCount3 : RegName.mktCount3 ∈ rs)
    (r_mktCount4 : RegName.mktCount4 ∈ rs) (r_mktCount5 : RegName.mktCount5 ∈ rs) (r_mktCount6 : RegName.mktCount6 ∈ rs)
    (r_partUsed : RegName.partUsed ∈ rs) (r_qcfgPitch : RegName.qcfgPitch ∈ rs) (r_qcfgOcc : RegName.qcfgOcc ∈ rs)
    (r_pfcState : RegName.pfcState ∈ rs) (r_ingUsed : RegName.ingUsed ∈ rs) (r_hdrmUsed : RegName.hdrmUsed ∈ rs)
    (r_stagingFree : RegName.stagingFree ∈ rs) (r_splCount : RegName.splCount ∈ rs) (r_stackStatus : RegName.stackStatus ∈ rs)
    (r_phyStatus : RegName.phyStatus ∈ rs) (r_qspillStatus : RegName.qspillStatus ∈ rs) (r_talCount : RegName.talCount ∈ rs)
    (r_pmcCount : RegName.pmcCount ∈ rs) : RegsOnly rs s0 (islandEffect n s) := by
  unfold Sys2Proof.Machine.islandEffect
  with_reducible repeat' first
    | assumption | apply Named.resetPipe | apply Named.resetLanes | apply Named.faultLookups | apply Named.abandonReads
    | apply Named.resetPhy | apply Named.resetSecurity | simp only [Named.upd] | dsimp only | split | intro

theorem Named.startIsland (s : State) (n : Nat) (hk : RegsOnly rs s0 s) (r_bringup : RegName.bringup ∈ rs)
    (r_orphanCtrl : RegName.orphanCtrl ∈ rs) (r_orphanLog : RegName.orphanLog ∈ rs) (r_fltRec : RegName.fltRec ∈ rs)
    (r_fltFirst : RegName.fltFirst ∈ rs) (r_fltCount0 : RegName.fltCount0 ∈ rs) (r_fltCount1 : RegName.fltCount1 ∈ rs)
    (r_fltCount2 : RegName.fltCount2 ∈ rs) (r_escCfg : RegName.escCfg ∈ rs) (r_portLatency : RegName.portLatency ∈ rs)
    (r_tokenCtrl : RegName.tokenCtrl ∈ rs) (r_peerStatus : RegName.peerStatus ∈ rs) (r_secStatus : RegName.secStatus ∈ rs)
    (r_slotStatus : RegName.slotStatus ∈ rs) (r_portsUp : RegName.portsUp ∈ rs) (r_evtLanes : RegName.evtLanes ∈ rs)
    (r_portState : RegName.portState ∈ rs) (r_stateCtrl : RegName.stateCtrl ∈ rs) (r_mktStatus : RegName.mktStatus ∈ rs)
    (r_poolFree : RegName.poolFree ∈ rs) (r_mktCount0 : RegName.mktCount0 ∈ rs) (r_mktCount3 : RegName.mktCount3 ∈ rs)
    (r_mktCount4 : RegName.mktCount4 ∈ rs) (r_mktCount5 : RegName.mktCount5 ∈ rs) (r_mktCount6 : RegName.mktCount6 ∈ rs)
    (r_partUsed : RegName.partUsed ∈ rs) (r_qcfgPitch : RegName.qcfgPitch ∈ rs) (r_qcfgOcc : RegName.qcfgOcc ∈ rs)
    (r_pfcState : RegName.pfcState ∈ rs) (r_ingUsed : RegName.ingUsed ∈ rs) (r_hdrmUsed : RegName.hdrmUsed ∈ rs)
    (r_stagingFree : RegName.stagingFree ∈ rs) (r_splCount : RegName.splCount ∈ rs) (r_stackStatus : RegName.stackStatus ∈ rs)
    (r_phyStatus : RegName.phyStatus ∈ rs) (r_qspillStatus : RegName.qspillStatus ∈ rs) (r_talCount : RegName.talCount ∈ rs)
    (r_pmcCount : RegName.pmcCount ∈ rs) : RegsOnly rs s0 (startIsland s n) := by
  unfold Sys2Proof.Machine.startIsland
  with_reducible repeat' first
    | assumption | apply Named.islandEffect | apply Named.setTop | simp only [Named.upd] | dsimp only | split | intro

theorem Named.execIslResetIsland (island : Nat) (s : State) (hk : RegsOnly rs s0 s) (r_islReset : RegName.islReset ∈ rs)
    (r_bringup : RegName.bringup ∈ rs) (r_orphanCtrl : RegName.orphanCtrl ∈ rs) (r_orphanLog : RegName.orphanLog ∈ rs)
    (r_fltRec : RegName.fltRec ∈ rs) (r_fltFirst : RegName.fltFirst ∈ rs) (r_fltCount0 : RegName.fltCount0 ∈ rs)
    (r_fltCount1 : RegName.fltCount1 ∈ rs) (r_fltCount2 : RegName.fltCount2 ∈ rs) (r_escCfg : RegName.escCfg ∈ rs)
    (r_portLatency : RegName.portLatency ∈ rs) (r_tokenCtrl : RegName.tokenCtrl ∈ rs) (r_peerStatus : RegName.peerStatus ∈ rs)
    (r_secStatus : RegName.secStatus ∈ rs) (r_slotStatus : RegName.slotStatus ∈ rs) (r_portsUp : RegName.portsUp ∈ rs)
    (r_evtLanes : RegName.evtLanes ∈ rs) (r_portState : RegName.portState ∈ rs) (r_stateCtrl : RegName.stateCtrl ∈ rs)
    (r_mktStatus : RegName.mktStatus ∈ rs) (r_poolFree : RegName.poolFree ∈ rs) (r_mktCount0 : RegName.mktCount0 ∈ rs)
    (r_mktCount3 : RegName.mktCount3 ∈ rs) (r_mktCount4 : RegName.mktCount4 ∈ rs) (r_mktCount5 : RegName.mktCount5 ∈ rs)
    (r_mktCount6 : RegName.mktCount6 ∈ rs) (r_partUsed : RegName.partUsed ∈ rs) (r_qcfgPitch : RegName.qcfgPitch ∈ rs)
    (r_qcfgOcc : RegName.qcfgOcc ∈ rs) (r_pfcState : RegName.pfcState ∈ rs) (r_ingUsed : RegName.ingUsed ∈ rs)
    (r_hdrmUsed : RegName.hdrmUsed ∈ rs) (r_stagingFree : RegName.stagingFree ∈ rs) (r_splCount : RegName.splCount ∈ rs)
    (r_stackStatus : RegName.stackStatus ∈ rs) (r_phyStatus : RegName.phyStatus ∈ rs)
    (r_qspillStatus : RegName.qspillStatus ∈ rs) (r_talCount : RegName.talCount ∈ rs) (r_pmcCount : RegName.pmcCount ∈ rs)
    : NamedO rs s0 (execIslResetIsland island s) := by
  unfold Sys2Proof.Machine.execIslResetIsland
  with_reducible repeat' first
    | assumption | apply Named.setBit | apply Named.setTop | apply Named.startIsland | apply Named.setF
    | apply RegIn.islReset | apply NamedO.next | simp only [Named.upd] | dsimp only | split | intro

theorem Named.execIslResetControl (s : State) (hk : RegsOnly rs s0 s) (r_islReset : RegName.islReset ∈ rs)
    (r_bringup : RegName.bringup ∈ rs) (r_mbCtrl : RegName.mbCtrl ∈ rs) (r_mbResponse : RegName.mbResponse ∈ rs)
    (r_orphanCtrl : RegName.orphanCtrl ∈ rs) (r_orphanLog : RegName.orphanLog ∈ rs) (r_fltCount2 : RegName.fltCount2 ∈ rs)
    (r_escCfg : RegName.escCfg ∈ rs) : NamedO rs s0 (execIslResetControl s) := by
  unfold Sys2Proof.Machine.execIslResetControl
  with_reducible repeat' first
    | assumption | apply Named.controlStart | apply Named.setBit | apply RegIn.islReset | apply NamedO.next
    | simp only [Named.upd] | dsimp only | split | intro

theorem Named.islandEnd (n : Nat) (s : State) (hk : RegsOnly rs s0 s) (r_fltCount2 : RegName.fltCount2 ∈ rs)
    (r_escCfg : RegName.escCfg ∈ rs) (r_winSlotStatus : RegName.winSlotStatus ∈ rs) (r_winErr : RegName.winErr ∈ rs)
    : RegsOnly rs s0 (islandEnd n s) := by
  unfold Sys2Proof.Machine.islandEnd
  with_reducible repeat' first
    | assumption | apply Named.forEach | apply Named.takeSwitch | simp only [Named.upd] | dsimp only | split | intro

theorem Named.leaveIsland (n : Nat) (s : State) (hk : RegsOnly rs s0 s) (r_islReset : RegName.islReset ∈ rs)
    (r_fltCount2 : RegName.fltCount2 ∈ rs) (r_escCfg : RegName.escCfg ∈ rs) (r_winSlotStatus : RegName.winSlotStatus ∈ rs)
    (r_winErr : RegName.winErr ∈ rs) : RegsOnly rs s0 (leaveIsland n s) := by
  unfold Sys2Proof.Machine.leaveIsland
  with_reducible repeat' first
    | assumption | apply Named.setTop | apply Named.raise | apply Named.islandEnd | apply Named.setBit | apply Named.forEach
    | apply Named.actionDone | apply RegIn.islReset | simp only [Named.upd] | dsimp only | split | intro

theorem Named.execEscIsland (src : Nat) (s : State) (hk : RegsOnly rs s0 s) (r_bringup : RegName.bringup ∈ rs)
    (r_orphanCtrl : RegName.orphanCtrl ∈ rs) (r_orphanLog : RegName.orphanLog ∈ rs) (r_fltRec : RegName.fltRec ∈ rs)
    (r_fltFirst : RegName.fltFirst ∈ rs) (r_fltCount0 : RegName.fltCount0 ∈ rs) (r_fltCount1 : RegName.fltCount1 ∈ rs)
    (r_fltCount2 : RegName.fltCount2 ∈ rs) (r_fltCount3 : RegName.fltCount3 ∈ rs) (r_fltCount4 : RegName.fltCount4 ∈ rs)
    (r_escCfg : RegName.escCfg ∈ rs) (r_portLatency : RegName.portLatency ∈ rs) (r_tokenCtrl : RegName.tokenCtrl ∈ rs)
    (r_peerStatus : RegName.peerStatus ∈ rs) (r_secStatus : RegName.secStatus ∈ rs) (r_slotStatus : RegName.slotStatus ∈ rs)
    (r_secCount : RegName.secCount ∈ rs) (r_portsUp : RegName.portsUp ∈ rs) (r_evtLanes : RegName.evtLanes ∈ rs)
    (r_portState : RegName.portState ∈ rs) (r_stateCtrl : RegName.stateCtrl ∈ rs) (r_mktStatus : RegName.mktStatus ∈ rs)
    (r_poolFree : RegName.poolFree ∈ rs) (r_mktCount0 : RegName.mktCount0 ∈ rs) (r_mktCount3 : RegName.mktCount3 ∈ rs)
    (r_mktCount4 : RegName.mktCount4 ∈ rs) (r_mktCount5 : RegName.mktCount5 ∈ rs) (r_mktCount6 : RegName.mktCount6 ∈ rs)
    (r_partUsed : RegName.partUsed ∈ rs) (r_qcfgPitch : RegName.qcfgPitch ∈ rs) (r_qcfgOcc : RegName.qcfgOcc ∈ rs)
    (r_pfcState : RegName.pfcState ∈ rs) (r_ingUsed : RegName.ingUsed ∈ rs) (r_hdrmUsed : RegName.hdrmUsed ∈ rs)
    (r_stagingFree : RegName.stagingFree ∈ rs) (r_splCount : RegName.splCount ∈ rs) (r_stackStatus : RegName.stackStatus ∈ rs)
    (r_phyStatus : RegName.phyStatus ∈ rs) (r_qspillStatus : RegName.qspillStatus ∈ rs) (r_talCount : RegName.talCount ∈ rs)
    (r_pmcCount : RegName.pmcCount ∈ rs) : NamedO rs s0 (execEscIsland src s) := by
  unfold Sys2Proof.Machine.execEscIsland
  with_reducible repeat' first
    | assumption | apply Named.beginAction | apply Named.actionDone | apply Named.raise | apply Named.add64
    | apply Named.startIsland | apply Named.listWaits | apply RegIn.fltCount4 | apply RegIn.fltCount44 | apply NamedO.next
    | simp only [Named.upd] | dsimp only | split | intro

theorem Named.execEscControl (src : Nat) (s : State) (hk : RegsOnly rs s0 s) (r_bringup : RegName.bringup ∈ rs)
    (r_mbCtrl : RegName.mbCtrl ∈ rs) (r_mbResponse : RegName.mbResponse ∈ rs) (r_orphanCtrl : RegName.orphanCtrl ∈ rs)
    (r_orphanLog : RegName.orphanLog ∈ rs) (r_fltCount2 : RegName.fltCount2 ∈ rs) (r_fltCount3 : RegName.fltCount3 ∈ rs)
    (r_escCfg : RegName.escCfg ∈ rs) (r_secCount : RegName.secCount ∈ rs) : NamedO rs s0 (execEscControl src s) := by
  unfold Sys2Proof.Machine.execEscControl
  with_reducible repeat' first
    | assumption | apply Named.beginAction | apply Named.actionDone | apply Named.controlStart | apply NamedO.next
    | simp only [Named.upd] | dsimp only | split | intro

theorem Named.execEscPortOff (src : Nat) (s : State) (hk : RegsOnly rs s0 s) (r_bringup : RegName.bringup ∈ rs)
    (r_fltRec : RegName.fltRec ∈ rs) (r_fltFirst : RegName.fltFirst ∈ rs) (r_fltCount0 : RegName.fltCount0 ∈ rs)
    (r_fltCount1 : RegName.fltCount1 ∈ rs) (r_fltCount2 : RegName.fltCount2 ∈ rs) (r_fltCount3 : RegName.fltCount3 ∈ rs)
    (r_escCfg : RegName.escCfg ∈ rs) (r_portLatency : RegName.portLatency ∈ rs) (r_tokenCtrl : RegName.tokenCtrl ∈ rs)
    (r_peerStatus : RegName.peerStatus ∈ rs) (r_secCount : RegName.secCount ∈ rs) (r_portsUp : RegName.portsUp ∈ rs)
    (r_evtLanes : RegName.evtLanes ∈ rs) (r_portCfg : RegName.portCfg ∈ rs) (r_portState : RegName.portState ∈ rs)
    (r_mktStatus : RegName.mktStatus ∈ rs) (r_poolFree : RegName.poolFree ∈ rs) (r_mktCount0 : RegName.mktCount0 ∈ rs)
    (r_mktCount3 : RegName.mktCount3 ∈ rs) (r_mktCount4 : RegName.mktCount4 ∈ rs) (r_mktCount5 : RegName.mktCount5 ∈ rs)
    (r_mktCount6 : RegName.mktCount6 ∈ rs) (r_partUsed : RegName.partUsed ∈ rs) (r_qcfgPitch : RegName.qcfgPitch ∈ rs)
    (r_qcfgOcc : RegName.qcfgOcc ∈ rs) (r_pfcState : RegName.pfcState ∈ rs) (r_ingUsed : RegName.ingUsed ∈ rs)
    (r_hdrmUsed : RegName.hdrmUsed ∈ rs) (r_stagingFree : RegName.stagingFree ∈ rs) (r_splCount : RegName.splCount ∈ rs)
    (r_stackStatus : RegName.stackStatus ∈ rs) (r_qspillStatus : RegName.qspillStatus ∈ rs) (r_talCount : RegName.talCount ∈ rs)
    (r_pmcCount : RegName.pmcCount ∈ rs) : NamedO rs s0 (execEscPortOff src s) := by
  unfold Sys2Proof.Machine.execEscPortOff
  with_reducible repeat' first
    | assumption | apply Named.beginAction | apply Named.writeDone | apply Named.holdWrite | apply Named.portDown
    | apply NamedO.next | simp only [Named.upd] | dsimp only | split | intro

theorem Named.execEscLoseStack (src : Nat) (s : State) (hk : RegsOnly rs s0 s) (r_bringup : RegName.bringup ∈ rs)
    (r_fltCount2 : RegName.fltCount2 ∈ rs) (r_fltCount3 : RegName.fltCount3 ∈ rs) (r_escCfg : RegName.escCfg ∈ rs)
    (r_secCount : RegName.secCount ∈ rs) (r_mktStatus : RegName.mktStatus ∈ rs) (r_poolFree : RegName.poolFree ∈ rs)
    (r_mktCount3 : RegName.mktCount3 ∈ rs) (r_mktCount4 : RegName.mktCount4 ∈ rs) (r_mktCount5 : RegName.mktCount5 ∈ rs)
    (r_mktCount6 : RegName.mktCount6 ∈ rs) (r_partUsed : RegName.partUsed ∈ rs) (r_qcfgPitch : RegName.qcfgPitch ∈ rs)
    (r_qcfgOcc : RegName.qcfgOcc ∈ rs) (r_pfcState : RegName.pfcState ∈ rs) (r_ingUsed : RegName.ingUsed ∈ rs)
    (r_hdrmUsed : RegName.hdrmUsed ∈ rs) (r_stagingFree : RegName.stagingFree ∈ rs) (r_splCount : RegName.splCount ∈ rs)
    (r_stackStatus : RegName.stackStatus ∈ rs) (r_qspillStatus : RegName.qspillStatus ∈ rs) (r_talCount : RegName.talCount ∈ rs)
    (r_pmcCount : RegName.pmcCount ∈ rs) : NamedO rs s0 (execEscLoseStack src s) := by
  unfold Sys2Proof.Machine.execEscLoseStack
  with_reducible repeat' first
    | assumption | apply Named.beginAction | apply Named.actionDone | apply Named.loseStack | apply NamedO.next
    | simp only [Named.upd] | dsimp only | split | intro

theorem Named.latchLow (s : State) (rq : Requester) (a : Nat) (hk : RegsOnly rs s0 s)
    : RegsOnly rs s0 (latchLow s rq a) := by
  unfold Sys2Proof.Machine.latchLow
  with_reducible repeat' first
    | assumption | apply Named.setLatch | simp only [Named.upd] | dsimp only | split | intro

theorem Named.ringCfg (k : RingKind) (n : Nat) (v : Word) (s : State) (hk : RegsOnly rs s0 s)
    (r_ringCfg : RegName.ringCfg ∈ rs) (r_ringHead : RegName.ringHead ∈ rs) (r_ringTail : RegName.ringTail ∈ rs)
    (r_fltCount2 : RegName.fltCount2 ∈ rs) (r_escCfg : RegName.escCfg ∈ rs) (r_tsMissed : RegName.tsMissed ∈ rs)
    : RegsOnly rs s0 (ringCfg k n v s) := by
  unfold Sys2Proof.Machine.ringCfg
  with_reducible repeat' first
    | assumption | apply Named.rowState | apply Named.execRingEnable | apply Named.execRingDisable | simp only [Named.upd]
    | dsimp only | split | intro

theorem Named.movePart (n old new : Nat) (s : State) (hk : RegsOnly rs s0 s) (r_partUsed : RegName.partUsed ∈ rs)
    : RegsOnly rs s0 (movePart n old new s) := by
  unfold Sys2Proof.Machine.movePart
  with_reducible repeat' first
    | assumption | apply Named.addF21 | apply RegIn.partUsed | simp only [Named.upd] | dsimp only | split | intro

theorem Named.judgeVec (s : State) (v : Nat) (hk : RegsOnly rs s0 s) : RegsOnly rs s0 (judgeVec s v) := by
  unfold Sys2Proof.Machine.judgeVec
  with_reducible repeat' first
    | assumption | simp only [Named.upd] | dsimp only | split | intro

theorem Named.noteRefused (b : Blk) (r : RegRow) (v : Word) (s : State) (hk : RegsOnly rs s0 s)
    (r_fltCount2 : RegName.fltCount2 ∈ rs) (r_escCfg : RegName.escCfg ∈ rs) (r_sclErr : RegName.sclErr ∈ rs)
    (r_splErr : RegName.splErr ∈ rs) : RegsOnly rs s0 (noteRefused b r v s) := by
  unfold Sys2Proof.Machine.noteRefused
  with_reducible repeat' first
    | assumption | apply Named.sclBad | apply Named.raise | apply Named.setBit | apply RegIn.splErr | simp only [Named.upd]
    | dsimp only | split | intro

theorem Named.dropLow (s : State) (rq : Requester) (a : Nat) (hk : RegsOnly rs s0 s) : RegsOnly rs s0 (dropLow s rq a) := by
  unfold Sys2Proof.Machine.dropLow
  with_reducible repeat' first
    | assumption | simp only [Named.upd] | dsimp only | split | intro

theorem Named.holdLow (s : State) (rq : Requester) (a : Nat) (v : Word) (hk : RegsOnly rs s0 s)
    : RegsOnly rs s0 (holdLow s rq a v) := by
  unfold Sys2Proof.Machine.holdLow
  with_reducible repeat' first
    | assumption | apply Named.dropLow | simp only [Named.upd] | dsimp only | split | intro

theorem Named.execReg64LowWordWrite (rq : Requester) (addr : Nat) (value : Word) (s : State) (hk : RegsOnly rs s0 s)
    : NamedO rs s0 (execReg64LowWordWrite rq addr value s) := by
  unfold Sys2Proof.Machine.execReg64LowWordWrite
  with_reducible repeat' first
    | assumption | apply Named.holdLow | apply NamedO.next | simp only [Named.upd] | dsimp only | split | intro

end Sys2Proof.Laws
end

