-- ==== Sys2Proof/WellFormed.lean ====
section
/-!
DEFINITION. The operands that the part's own sizes admit (R1, Tables SCP-1, HIF-6, HIF-8, SEC-6, CRT-5, AIN-1): one check per
kind of operand, and Instr.wf, which asks of each command the checks of its operands. The meanings are total and do not rest
on it: an operand out of range names an object that the part does not have.
-/
namespace Sys2Proof.WellFormed

/-- A number below the part's count of such objects. -/
def below (n count : Nat) : Bool := decide (n < count)

def laneOk (l : Nat) : Bool := below l 1152
def groupOk (g : Nat) : Bool := below g 36
def pipeOk (p : Nat) : Bool := below p 72
def stallOk (s : Nat) : Bool := below s 1152
def hallOk (h : Nat) : Bool := below h 9
def stackOk (m : Nat) : Bool := below m 2
def bayOk (b : Nat) : Bool := below b 9
def queueOk (q : Nat) : Bool := below q 10368
def channelsOk (l : List Nat) : Bool := l.all (below · 16)
def ringOk : RingKind → Nat → Bool
  | .cr, n => below n 16
  | .cq, n => below n 16
  | .rx, n => below n 64
  | .nq, n => below n 8
/-- BAR0 is 256 MiB of registers, read and written by dword (R71, R72). -/
def bar0Ok (a : Nat) : Bool := below a 0x10000000
def dwordOk (a : Nat) : Bool := bar0Ok a && a % 4 == 0
/-- BAR2 is 64 MiB (R71). -/
def bar2Ok (a len : Nat) : Bool := decide (a + len ≤ 0x4000000)
def requesterOk : Requester → Bool
  | .host => true
  | .core n => below n 4
def stampOk (t : Stamp) : Bool := below t.sec (2 ^ 48) && below t.ns 1000000000 && below t.frac 65536
/-- A command entry of Table HIF-8, with the host data of its length. -/
def cmdOk (c : HostCmd) : Bool :=
  below c.cr 16 && below c.index 4096 && below c.opcode 256 && below c.tag 65536 && below c.dataLen 65536 &&
    below c.hostAddr (2 ^ 64) && c.arg.length == 48 && decide (c.data.length ≤ c.dataLen)
def imageOk (i : Image) : Bool :=
  below i.magic (2 ^ 32) && below i.kind 256 && below i.keyId 4 && below i.svn 64 && below i.rev 256 &&
    below i.length (2 ^ 32) && below i.level 65536 && below i.engines 65536 && decide (i.body.length ≤ i.length)
/-- An identity record is 320 octets (Table CRT-5). -/
def identityOk (i : Identity) : Bool := i.octets.length == 320
/-- The levelled pool has 1,984 logical blocks, and the host partition 65,536 lines (R65). -/
def blocksOk (l : List Nat) : Bool := l.all (below · 1984)
def linesOk (l : List Nat) : Bool := l.all (below · 65536)
/-- A record of one of the six partitions of the levelled pool (Table ISL-14). -/
def jrnRecOk (r : JrnRec) : Bool := below r.partition 6
/-- A frame has at most 64 cells of 256 octets, and a unit eight parts of 32 octets. -/
def dataErrOk : Option DataErr → Bool
  | some (.uncorrectable u p) => below u 64 && below p 8
  | some (.corrected u) => below u 64
  | none => true
/-- RESET_CAUSE has the bits 0 to 7 (Table ISL-10). -/
def cutOk : Option (LcsPoint × List Nat) → Bool
  | some (_, l) => l.all (below · 8)
  | none => true
def constErrOk (e : Option (Nat × Bool)) : Bool := e.all fun x => below x.1 8
def msgOk (m : AinMsg) : Bool :=
  below m.type 16 && below m.len 16 && below m.ctr 256 && below m.arg 256 && below m.payload (2 ^ 264) &&
    below m.check (2 ^ 72)

end Sys2Proof.WellFormed

namespace Sys2Proof

open WellFormed

/-- The operands of a command lie in the ranges of the part. -/
def Instr.wf : Instr → Bool
  | .coldResetRelease _ _ | .fusesLoaded | .tableWipeComplete | .jtagCoreRelease | .islResetControl => true
  | .islResetCold | .controlReset | .perstNAssert _ | .perstNRelease | .hostIslandRelease => true
  | .lcsChange | .mailboxGo | .mailboxResponse | .orphanLogClear | .commitInstant _ | .drainEnd _ | .drainForce _ => true
  | .retireComplete _ | .patchSwitchPoint | .refillBoundary | .auditSweep | .auditSweepEnd => true
  | .clerkIssue | .clerkOpInForce | .learnInstall | .slewComplete | .scheduledEventFire | .referenceLost | .timeLock => true
  | .tokenGo | .flowFlush | .exportRecordForm | .exportMessageSend | .exportFlushTimer | .templateSend => true
  | .scalesReady | .limiterStep | .limiterRelease | .throttleTick | .fastEstimateTick | .phaseTick => true
  | .keyEpochStart | .trngFail | .trngOk | .sysRstNLow _ | .supplyBelowResetThreshold _ _ _ | .vddCoreWarning _ _ => true
  | .vddCoreWarningEnd _ _ | .carveWrite _ | .reserveWrite _ _ | .hashCfgWrite _ _ | .freqWrite _ | .refSelWrite _ => true
  | .sourceForce _ | .escAck _ | .absWrite _ | .capLoopTick _ | .bankRetire _ _ => true
  | .apertureWrite a d => bar2Ok a d.length
  | .apertureRead a n => bar2Ok a n
  | .firmwareStart l | .controlResetComplete l => l.all jrnRecOk
  | .lcsTransitionStart c => cutOk c
  | .commitRecordWrite l | .wearRecordWrite l => blocksOk l
  | .wearTick l => l.all fun x => below x.1 9 && below x.2.1 64 && below x.2.2 1001
  | .clocksLocked banks => banks.all (below · 256)
  | .hbmWipeComplete m l | .hbmPhyTrained m l => stackOk m && channelsOk l
  | .islResetIsland i | .islandResetComplete i => below i 129
  | .coreWatchdogExpiry n | .coreEoi n => below n 4
  | .linkTrained w sp _ => below w 17 && below sp 7
  | .fwUpdate i _ => imageOk i
  | .registerWrite a _ | .rcCounterRead a => dwordOk a
  | .reg64LowWordRead rq a | .reg64LowWordWrite rq a _ | .reg64HighWordWrite rq a _ => requesterOk rq && dwordOk a
  | .bar0UnmappedAccess a _ | .bar0BadAccess _ a _ _ => bar0Ok a
  | .crDoorbell r i | .cqDoorbell r i => below r 16 && below i 65536
  | .rxDoorbell n i => below n 64 && below i 65536
  | .nqDoorbell n i => below n 8 && below i 65536
  | .ringEnable k n _ | .ringDisable k n _ | .ringDmaError k n => ringOk k n
  | .commandFetch r e d => below r 16 && e.length == 64 && below d.length 65536
  | .completionWrite q => below q 16
  | .notificationWrite n => below n 8
  | .nop c | .fence c | .stageWrite c | .commit c | .commitAt c | .commitToken c => cmdOk c
  | .commitCancel c | .bufAlloc c | .bufFree c | .bufSendIngress c | .bufSendEgress c | .tblSearch c | .tblNext c => cmdOk c
  | .tblInsert c | .tblUpdate c | .tblDelete c | .tblFlushPort c | .tblRead c | .timeSetSet c | .timeSetStep c => cmdOk c
  | .timeSetSlew c | .slotStageWrite c | .slotStageArm c | .slotStageCancel c | .slotStageRead c | .ldgRead c => cmdOk c
  | .ldgSnapshot c | .readId c | .reauth c _ | .setPolicy c | .prepareRemove c | .keyUnwrap c | .keyErase c => cmdOk c
  | .ctxSave c | .ctxRestore c => cmdOk c
  | .jrnRead c l => cmdOk c && linesOk l
  | .jrnWrite c l b => cmdOk c && linesOk l && blocksOk b
  | .patchLoad c i => cmdOk c && imageOk i
  | .fenceComplete cr i | .commandTimeout cr i => below cr 16 && below i 4096
  | .rxFrameDma n en e => below n 64 && en.length == 32 && dataErrOk e
  | .octCfgWrite g o _ => groupOk g && below o 4
  | .portCfgWrite l _ | .portEnable l | .portDisable l | .lossOfSignal l _ | .eqLoopStep l _ | .eqPolicyConflict l _ => laneOk l
  | .fecDegrade l _ _ | .portQWrite l _ | .slotSwitch l | .slotEntryBoundary l | .protectedSpanStart l => laneOk l
  | .protectedSpanEnd l | .uncorrectableCodeword l => laneOk l
  | .portAligned p _ | .faultReceived p _ | .recoveryEnd p | .ladderStepPropose p | .stepTransmitterSwitch p => laneOk p
  | .ladderStepSuccess p _ | .ladderStepFail p | .stepAckTimeout p | .ladderRetry p | .ladderNoPeer p | .pfcFrameSend p => laneOk p
  | .helloTimer p | .timeSyncTimer p | .peerTimeout p | .faultCleared p | .signalPresent p => laneOk p
  | .frameArrival p o t => laneOk p && decide (o.length ≤ 16384) && stampOk t
  | .frameTailArrival _ o _ => decide (o.length ≤ 16384)
  | .parseEntry g | .parseExit g | .parCaptureArm g | .recircEntry g | .ingressTail g => groupOk g
  | .dequeueDecision g e => groupOk g && dataErrOk e
  | .egressTail g | .editor g => groupOk g
  | .parseWordRepair g sp b _ _ => groupOk g && (sp == 3 || sp == 4) && below b 2
  | .stallWordIssue s _ _ _ e | .stallStep s _ _ e => stallOk s && constErrOk e
  | .lookupResult s _ _ e => stallOk s && e.all fun x => below x.1 (2 ^ 21)
  | .stallAdmit s | .waitTimeout s _ | .statefulLockGrant s _ _ => stallOk s
  | .statefulReadData s _ _ | .meterColour s _ | .parityReloadDone s | .stallDepart s | .stateRead s _ | .stateWrite s _ => stallOk s
  | .meterRead s _ | .meterWrite s _ | .stallHalt s _ => stallOk s
  | .copyDeparture p t _ e => laneOk p && stampOk t && dataErrOk e
  | .pfcFrameReceived p _ ts _ => laneOk p && ts.length == 8 && ts.all (below · 65536)
  | .pfcPauseExpiry p q | .pfcRefresh p q | .pfcWatchdogTrip p q | .pfcWatchdogHoldEnd p q => laneOk p && below q 8
  | .pageFlushTimer q | .pageWriteStart q | .pageReadStart q | .watchdogPageFree q => queueOk q
  | .pageWriteCommit m _ l => stackOk m && channelsOk l
  | .pageReadCommit m _ l l' => stackOk m && channelsOk l && channelsOk l'
  | .chRetire m _ | .stackLost m | .hbmNoResponse m _ | .diagCellRead m _ | .diagCellWrite m _ => stackOk m
  | .hbmRefresh m c deg => stackOk m && below c 16 && below deg 256
  | .patrolScrub m _ c _ _ => stackOk m && below c 16
  | .descWrite t w _ => below t 64 && below w 2
  | .flapHoldEnd t _ | .ageVisit t _ | .ageRemove t _ | .ageRestore t _ => below t 64
  | .replicaRepair h _ _ _ | .tableScrub h _ _ _ | .rawRowRead h _ | .rawRowWrite h _ => hallOk h
  | .pipeQuiesce p | .quiesced p | .deferralForce p | .sclPolicyConflict p _ | .glideComplete p => pipeOk p
  | .nowNsRead rq => requesterOk rq
  | .captureEdge n _ => below n 3
  | .pulseArm n _ | .pulseStop n _ | .pulseEdge n => below n 4
  | .ainumSend p _ t => laneOk p && stampOk t
  | .hello p m | .confirm p m | .stepPropose p m | .stepAck p m | .token p m | .capNotice p m => laneOk p && msgOk m
  | .timeSync p m t | .timeReply p m t => laneOk p && msgOk m && stampOk t
  | .flowEvictTimer g sl => groupOk g && below sl 16384
  | .ldgSnapshotComplete b => below b 2
  | .pmcCountWrite n _ _ => below n 4096
  | .dispatchCommit m => m.cores.all fun x => below x.1 4
  | .srcCfgWrite s _ _ | .graceExpiry s | .actionsWrite s _ | .escEnd s | .escIsland s | .escControl s | .escCold s => below s 4096
  | .escQuiesce s | .escPortOff s | .escLoseStack s | .escWait s => below s 4096
  | .vectorTimerExpiry v | .vecEoi v => below v 2048
  | .crossingFault r s _ => below r 129 && below s 129
  | .regulatorPoll l => l.all fun r => below r.bus 2 && below r.addr 128 && below r.page 32
      && below r.voutMode 256 && below r.vout 65536 && below r.iout 65536 && below r.temp 65536
  | .pmbusAlert b _ => below b 2
  | .droopTrip i | .droopClear i _ => below i 129
  | .thermalSense t e => t.length == 13 && e.length == 36
  | .cartPresenceChange b _ | .cartLatchOpen b | .cartLatchClose b | .cartInt b _ | .cartChallengeCheck b _ => bayOk b
  | .cartEnRaise b | .cartActivate b | .removalRampStart b | .removalRampDone b | .removalEnLow b => bayOk b
  | .cartAuthenticating b i => bayOk b && identityOk i
  | .shareFailed b c | .currentLoopStep b c _ | .cartPolicyConflict b c _ => bayOk b && below c 64
  | .lightLow g i => groupOk g && below i 8

end Sys2Proof
end

