-- ==== Sys2Proof/Tests/Slice0.lean ====
section
/-!
SUPPORT. Tests: ill-formed operands that the checks refuse, values worked out in the spec, and a witness for the hypotheses of
every clause of the statements. Expected values are from the spec's examples, which each comment names.
-/
namespace Sys2Proof.Tests

open Sys2Proof Sys2Proof.Machine

-- One theorem after another: each is evaluated by the kernel, which needs those before it checked.
set_option Elab.async false

/-- A part that is up: out of reset, every BRINGUP bit set, the host island released and the clock running. -/
def live : State :=
  { State.reset with
    regs := [(0x40, 0x3FF#32)]
    clock := { State.reset.clock with running := true }
    top := { Top.reset with inReset := false }
    hif := { Hif.reset with perst := false } }

/-- The part just released from cold reset. -/
def released : State := { State.reset with top := { Top.reset with inReset := false } }

/-- The part with registers written. -/
def withRegs (l : List (Nat × Word)) (s : State) : State := l.foldl (fun s x => setReg s x.1 x.2) s

/-- Ring 1 of each kind is enabled with 64 entries; completion and notification ring 1 hold three. -/
def ring1 : State :=
  withRegs [(ringBase .cr 1 + 8, 0x80010600#32), (ringBase .cq 1 + 8, 0x80000600#32), (ringBase .rx 1 + 8, 0x80000600#32),
    (ringBase .nq 1 + 8, 0x80000600#32), (ringBase .cq 1 + 0x10, 3#32), (ringBase .nq 1 + 0x10, 3#32)] live

/-- A command of ring 1. -/
def cmd1 (op : Nat) (arg : List Byte) : HostCmd :=
  { bell := 1, cr := 1, index := 0, opcode := op, notify := true, ordered := false, tag := 7, dataLen := 0, hostAddr := 0, arg := arg, data := [] }

/-- Ring 1 with a command fetched from it. -/
def taken1 (c : HostCmd) : State :=
  { ring1 with hif := { ring1.hif with outstanding := [{ cmd := c, phase := .fetched, covers := [], since := 0 }] } }

/-- Ring 1 with a command that a core has taken. -/
def taken2 : State :=
  { ring1 with hif := { ring1.hif with outstanding := [{ cmd := cmd1 0x80 [], phase := .taken, covers := [], since := 0 }] } }

/-- A signed image of a kind. -/
def image0 (kind : Nat) : Image :=
  { magic := 0x4B594E44, kind := kind, keyId := 0, svn := 1, rev := 0, length := 0, level := 1, engines := 1, body := [], signature := [] }

/-- A frame of 64 octets that the host sent, and a copy of it for a queue. -/
def pkt0 : Packet := hostPacket live (List.replicate 64 1#8) 3 0
def copy0 (q port : Nat) : Copy := mkCopy pkt0 .port q port

def badCopy0 : Copy := { copy0 0 0 with pkt := { pkt0 with bad := 0x20 } }

/-- A commit group of both domains that waits for its instant. -/
def group0 (t : Option Nat) (byCommit : Bool) : CommitGrp :=
  { doms := [.ing, .egr], t := t, token := none, byCommit := byCommit, cmd := cmd1 0x21 [3#8], deferred := false }

/-- Ring 1 with a command that names both domains, both open for staging. -/
def staged1 (op : Nat) (b : Byte) : State := withRegs [(aDom .ing 0, 1#32), (aDom .egr 0, 1#32)] (taken1 (cmd1 op [b]))

/-- Lane 0 carries a port of one lane in a link state. -/
def port0 (st : Nat) : State :=
  withRegs [(aPortCfg 0, 0xB0002600#32), (aPortState 0, BitVec.ofNat 32 (st * 2 ^ 28)), (aLan 0 0, 0x40#32)] live

/-- A ladder port of one lane in UP_LADDER with a peer that is capable of the step. -/
def ladder0 : State :=
  withRegs [(aPortCfg 0, 0x90002600#32), (aPortState 0, 0x3A200000#32), (aLan 0 0, 0#32), (aAinPort 0 4, 0x200000FF#32),
    (aAinPort 0 8, 0xFFFFFFFF#32)] live

/-- A context of a stall, and a live part with it in stall 3. -/
def ctx0 : Ctx := freshCtx 0 { pkt := pkt0, copy := none }
def stall3 (x : Ctx) : State := { live with pipes := { live.pipes with stalls := [(3, { stallIdle with ctxs := [x] })] } }

/-- A lookup in flight. -/
def lk0 : LkReq :=
  { table := 0, key := 0, parity := 0, dom := .ing, noTouch := false, member := none, learn := none, bits := none }

/-- The fuses of a life-cycle state, and a live part in the DEBUG state. -/
def fusesOf (x : LcState) : StateFuses :=
  { state := x, rma := false, ownerHash := none, ownerKek := none, keyDisable := false, committed := true }
def debug0 : State := { live with top := { live.top with fuses := { live.top.fuses with states := [fusesOf .debug] } } }

/-- Port 0 is up and has a copy in its one queue. -/
def queued0 : State :=
  { withRegs [(aSPort 0 0, 1#32), (aPortState 0, 0x50400000#32)] (port0 5) with
    market := { live.market with queues := [(0, [copy0 0 0])] } }

/-- A live part in which the host holds the cell buffer 0. -/
def buf0 : State :=
  { live with market := { live.market with units := [(0, { noTag with pool := 0, cls := 4, id := 9 })], hostHeld := [0] } }

/-- A page, a transfer of it, and a live part in which queue 5 spills to stack 0 with a record staged. -/
def page0 : Page := { page := 300, seq := 0, used := 0, ends := [], runsOn := false, degraded := none, bad := [], selected := false }
def xfer0 (k : XferKind) : Xfer :=
  { stack := 0, tag := 9, kind := k, queue := 5, page := page0, data := [], units := [], done := none }
def spill5 : State :=
  { live with spill := { live.spill with q := [(5, { spqIdle with
      spilling := true, openPage := some (300, none), staging := [{ copy := copy0 5 0, bytes := 128 }] })] } }

/-- An entry of handle 5, and a live part with it in table 2, whose descriptor is enabled for learning and ageing. -/
def entry0 : Entry :=
  { handle := 5, key := 9, mask := 0, plen := 0, data := 0, present := 3, static := false, age := true, learned := true, pinned := false,
    hit := 0, armed := 0, gone := 0, visited := false, moves := 0, window := 0 }
def table2 (e : Entry) : State :=
  { withRegs [(aDesc 2 0, 0x83010005#32), (aDesc 2 1, 1#32)] live with tables := { live.tables with entries := [(2, [e])] } }

/-- An issued TBL_SEARCH that waits to be in force. -/
def issued0 : Issued :=
  { before := live.tables, old := [], seen := 0, age := none, done := some (cmd1 0x10 [2#8], 0, []), write := false }

/-- A message as port 0 hears it, with its CRC; a part with a message pending there. -/
def heard (type len arg payload : Nat) : AinMsg :=
  { mkMsg type len arg payload with check := ainCrc (mkMsg type len arg payload) }
def ainPend (m : AinMsg) : State := setAin ladder0 0 { noAin with pend := [m] }

/-- Authentication is on, port 0 has a link key and no peer yet; the CONFIRM that its neighbour sends. -/
def keyed0 : State :=
  setAin (withRegs [(aAin 0, 0x80000000#32), (aPortState 0, 0x38200000#32)] ladder0) 0 { noAin with linkKey := some [1#8] }
def sealed0 : AinMsg :=
  { mkMsg 2 0 0 0 with check := ainTag [1#8] (!selfLower keyed0 0) (ainCounter (getAin keyed0 0) 0) (mkMsg 2 0 0 0) }

/-- A flow entry. -/
def flow0 : Flow :=
  { key := 1, octets := 64, packets := 1, first := 0, last := 0, drops := 0, lastReason := 0, born := 0, touched := 0, id := 0, order := 0 }

/-- A dispatch to which no masks have come. -/
def noMasks : CrierMasks := { msix := none, cores := [] }

/-- Vector 9 is ready with source 5 of priority 3 pending. -/
def readyVec (l : List (Nat × Word)) : State :=
  { withRegs ((aSrc 5, 0x83000009#32) :: l) live with
    crier := { live.crier with pend := [5], vecs := [(9, { vecIdle with counted := 1, ready := true })] } }

/-- The list of source 0x305 runs and begins the action given. -/
def acting0 (action : Nat) : State :=
  { withRegs [(aEsc 0x305 0, 0xA0000000#32), (aEsc 0x305 8, BitVec.ofNat 32 action)] live with
    flt := { live.flt with lists := [{ source := 0x305, next := 0, cancelled := false, waitIsland := none }] } }

/-- An identity record; a bay in a step with its STATE register; an ACTIVE cartridge and a command of ring 1; a host key in slot 17. -/
def ident0 : Identity := { octets := [] }
def bay2 (st : BayStep) (status : Nat) : State :=
  { withRegs [(aBay 2 0, BitVec.ofNat 32 status)] live with bays := [(2, { bayEmpty with step := st })] }
def cart1 (arg : List Byte) : State :=
  withRegs [(aBay 2 0, 0x703#32), (aSec 0, 0xC0000000#32)] (taken1 (cmd1 0x80 arg))
def keyed1 (c : HostCmd) : State :=
  let s := taken1 c
  { s with
    top := { s.top with fuses := { s.top.fuses with states := [fusesOf .operational] } }
    sec := { s.sec with slots := [(17, { key := some [7#8], usage := 5, gen := 0 })] } }

/-- A mailbox request of CODE 1 that a core has taken. -/
def mail0 : MailReq := { code := 1, tag := 9, area := [1#8, 0#8, 9#8], taken := true }

/-- Group 5 is window-protected: lane 160 has a table of one protected entry. -/
def prot5 : State :=
  { live with slots := [(160, { noSlots with oper := { noSlots.oper with cycle := 1000, entries := [{ prot := true, interval := 1000, gates := 0 }] } })] }


/-- A CONFIRM with the tag of its session is accepted, whatever the tag is. -/
theorem accepted_sealed : Accepted keyed0 0 2 sealed0 := by
  refine ⟨rfl, ?_⟩
  have k : (getAin keyed0 0).linkKey = some [1#8] := by decide +kernel
  have d : selfLower (secCount keyed0 0) 0 = selfLower keyed0 0 := by decide +kernel
  have m : sealed0.check = ainTag [1#8] (!selfLower keyed0 0) (ainCounter (getAin keyed0 0) sealed0.ctr) sealed0 := by
    simp only [sealed0, ainTag, mkMsg, ainHead]
  unfold ainReceive
  rw [if_neg (by decide +kernel), if_neg (by decide +kernel), if_neg (by decide +kernel)]
  simp only [k, d, if_pos m]

/-- A state with canonical stores and no accepted transition meets the invariant. -/
theorem inv_of {s : State} (h : (regsWf s.regs && memWf s) = true) (hj : s.top.lcsJob = none) : Inv s :=
  ⟨(Bool.and_eq_true_iff.mp h).1, (Bool.and_eq_true_iff.mp h).2, fun j h => by rw [hj] at h; cases h⟩

-- Ill-formed operands, one for each check of WellFormed.

theorem test_wf_core : (Instr.coreWatchdogExpiry 4).wf = false := by decide
theorem test_wf_lane : (Instr.portEnable 1152).wf = false := by decide
theorem test_wf_group : (Instr.parseExit 36).wf = false := by decide
theorem test_wf_pipe : (Instr.pipeQuiesce 72).wf = false := by decide
theorem test_wf_stall : (Instr.stallAdmit 1152).wf = false := by decide
theorem test_wf_hall : (Instr.rawRowRead 9 0).wf = false := by decide
theorem test_wf_stack : (Instr.stackLost 2).wf = false := by decide
theorem test_wf_bay : (Instr.cartEnRaise 9).wf = false := by decide
theorem test_wf_queue : (Instr.pageFlushTimer 10368).wf = false := by decide
theorem test_wf_channels : (Instr.hbmWipeComplete 0 [16]).wf = false := by decide
theorem test_wf_ring : (Instr.ringDmaError .nq 8).wf = false := by decide
theorem test_wf_dword : (Instr.registerWrite 2 0).wf = false := by decide
theorem test_wf_requester : (Instr.nowNsRead (.core 4)).wf = false := by decide
theorem test_wf_stamp : (Instr.copyDeparture 0 { sec := 0, ns := 1000000000, frac := 0 } true none).wf = false := by decide
theorem test_wf_cmd : (Instr.nop (cmd1 0 [])).wf = false := by decide
theorem test_wf_cmd_good : (Instr.nop (cmd1 0 (List.replicate 48 0))).wf = true := by decide
theorem test_wf_image : (Instr.fwUpdate { image0 0 with svn := 64 } false).wf = false := by decide
theorem test_wf_identity : (Instr.cartAuthenticating 0 ident0).wf = false := by decide
theorem test_wf_msg : (Instr.hello 0 (mkMsg 16 0 0 0)).wf = false := by decide

-- Values worked out in the spec.

/-- Example of chapter 00: lane L777 through the numbering. -/
theorem test_lane_777 : grp 777 = 24 ∧ 777 % 32 = 9 ∧ hallOf 24 = 6 ∧ firstStall 24 = 480 ∧ firstStall 60 = 1008 ∧ lastStall 1151 = true
    ∧ aLan 24 0 = 0x01600000 ∧ aPipe 24 0 = 0x03800000 ∧ aPipe 60 0 = 0x05C00000 := by decide
/-- Example of chapter 01: channel 45 of bay C3 feeds input 5 of E9, and the other share is channel 13 of C2. -/
theorem test_channel_45 : feeds 3 45 = (9, 5) ∧ partner 3 45 = (2, 13) := by decide
/-- Example of chapter 09: the parity of the two assembled words (Table SWR-15). -/
theorem test_stall_word_0 :
    stallParity 0xC110_0000_0010_4080_0000_0000_0000_0000_0000_0000_0080_0007_F000_0000_10C0_0000 = true := by decide +kernel
theorem test_stall_word_1 :
    stallParity 0x0631_0000_1000_0000_0000_0000_0000_0000_0000_0000_0015_9BC2_005C_C007_0000_0201 = true := by decide +kernel
theorem test_stall_word_flipped :
    stallParity 0x0631_0000_1000_0000_0000_0000_0000_0000_0000_0000_0015_9BC2_005C_C007_0000_0200 = false := by decide +kernel
/-- Example of chapter 12: page 1,000 has data cell 0 in channel 8 and its parity cell in channel 7. -/
theorem test_page_1000 : (pageChannels { page0 with page := 1000 }).1.head? = some 8 ∧ (pageChannels { page0 with page := 1000 }).2 = 7 := by
  decide
/-- Example of chapter 11: the register of queue 7,000 and its pitch. -/
theorem test_qcfg_7000 : aQcfg 7000 0 = 0x0705B580 := by decide
theorem test_pitch_7000 : pitchOf (withRegs [(aMkt 0x200, 600000), (aUsed 0, 200000), (aQcfg 7000 0, 0x1C000000), (aMkt 0x10, 16000), (aMkt 0x14, 4000),
    (aPoolFree 0, 420000)] live) 7000 = 100000 := by decide +kernel
/-- Example of chapter 15: T_C, S and LATE_START of the late table on P776, accepted at 1,200 s 350,400 ns. -/
theorem test_late_table : switchTimes
    { noSlots with
      oper := { noTable with baseSec := 1000, cycle := 70000, entries := [{ prot := false, interval := 70000, gates := 0 }] }
      staged := { noTable with baseSec := 1200, cycle := 100000, entries := [{ prot := true, interval := 40000, gates := 0 }] } }
    1200000350400 = (1200000400000, 1200000430000, true) := by decide +kernel
theorem test_slot_set : aSlot 776 0 = 0x07B08200 := by decide
/-- The check value of CRC-32 over the digits 1 to 9, 0xCBF43926. -/
theorem test_crc32 : crc32 [0x31, 0x32, 0x33, 0x34, 0x35, 0x36, 0x37, 0x38, 0x39] = 0xCBF43926 := by decide +kernel
/-- Example of chapter 18: PBA bit 40 is bit 8 of the dword at HIF +0x9_0004. -/
theorem test_pba_40 : regBit (pbaSet live 40 true) (aHif 0x90004) 8 = true := by decide +kernel

-- Witnesses: for every clause of the statements that has hypotheses, a state and operands that meet them all.

theorem witness_queue : ∃ (c : Instr) (rest : List Instr) (s : State), s.pending = c :: rest :=
  ⟨.fusesLoaded, [], { State.reset with pending := [.fusesLoaded] }, rfl⟩
theorem witness_empty_queue : ∃ (s : State), s.pending = [] := ⟨State.reset, rfl⟩
theorem reset_inv : Inv State.reset := inv_of (by decide) rfl
theorem witness_inv_step : ∃ (s t : State), Inv s ∧ step s = .next t := ⟨State.reset, _, reset_inv, rfl⟩
theorem witness_retired : ∃ (s t : State), Inv s ∧ step s = .next t ∧ s.top.fuses.lcs = .retired :=
  ⟨{ State.reset with top := { Top.reset with fuses := { Top.reset.fuses with states := [fusesOf .retired] } } }, _,
    inv_of (by decide) rfl, rfl, rfl⟩
theorem witness_next : ∃ (c : Instr) (s t : State), exec c s = .next t := ⟨.fusesLoaded, State.reset, _, rfl⟩
theorem witness_bringup_lost : ∃ (c : Instr) (s t : State), exec c s = .next t ∧ bringup s 7 = true ∧ bringup t 7 = false :=
  ⟨.referenceLost, live, _, rfl, by decide +kernel, by decide +kernel⟩
theorem witness_bringup_cold : ∃ (c : Instr) (s t : State), exec c s = .next t ∧ s.top.inReset = false ∧ t.top.inReset = true :=
  ⟨.islResetCold, live, _, rfl, rfl, by decide +kernel⟩
theorem witness_bringup_control : ∃ (c : Instr) (s t : State), exec c s = .next t ∧ s.top.controlReset = false ∧ t.top.controlReset = true :=
  ⟨.islResetControl, live, _, rfl, rfl, by decide +kernel⟩
theorem witness_bringup_phy : ∃ (c : Instr) (s t : State) (m : Nat), exec c s = .next t ∧ m < 2 ∧ 122 + m ∉ s.top.islands ∧ 122 + m ∈ t.top.islands :=
  ⟨.islResetIsland 123, live, _, 1, rfl, by decide, by decide +kernel, by decide +kernel⟩
theorem witness_bringup_stack : ∃ (c : Instr) (s t : State) (m : Nat), exec c s = .next t ∧ m < 2 ∧ stackLostBit s m = false ∧ stackLostBit t m = true :=
  ⟨.stackLost 1, live, _, 1, rfl, by decide, by decide +kernel, by decide +kernel⟩
theorem witness_bringup_reference : ∃ (c : Instr) (s t : State), exec c s = .next t ∧ regBit s (aTim 0) 31 = true ∧ regBit t (aTim 0) 31 = false :=
  ⟨.referenceLost, setBit live (aTim 0) 31 true, _, rfl, by decide +kernel, by decide +kernel⟩
theorem witness_clock : ∃ (s : State), s.pending = [] ∧ s.clock.running = true ∧ s.clock.sec < 2 ^ 48 - 2 ∧ s.clock.ns < 1000000000
    ∧ s.clock.frac < 65536 ∧ s.clock.rem < 1000000000 :=
  ⟨{ live with clock := { live.clock with ns := 999999999, frac := 65535, rem := 999999999 } }, rfl, by decide⟩
theorem witness_clock_range : ∃ (s t : State), ClockInRange s.clock ∧ step s = .next t :=
  ⟨live, _, by unfold ClockInRange; decide, rfl⟩
theorem witness_freq : ∃ (s : State), s.top.inReset = false ∧ shut s (aTim 4) = false := ⟨live, by decide +kernel⟩
theorem witness_go : ∃ (s : State), s.top.inReset = false ∧ shut s (aAin 0x34) = false ∧ regBit s (aAin 0x34) 30 = false :=
  ⟨live, by decide +kernel⟩
theorem witness_go_busy : ∃ (s : State), s.top.inReset = false ∧ shut s (aAin 0x34) = false ∧ regBit s (aAin 0x34) 30 = true :=
  ⟨setBit live (aAin 0x34) 30 true, by decide +kernel⟩
theorem witness_conflict : ∃ (bay ch want : Nat) (s : State), bay < 9 ∧ ch < 64 ∧ intervalOver s (0x4B0 + bay) 100000000 = true
    ∧ curClamp s bay ch (min want (bayCal s bay ch).2) ≠ min want (bayCal s bay ch).2 :=
  ⟨8, 63, 19000, withRegs [(aBay 8 0x20, 0x100)] live, by decide +kernel⟩
theorem witness_conflict_soon : ∃ (bay : Nat) (s : State), intervalOver s (0x4B0 + bay) 100000000 = false :=
  ⟨8, noteInterval live 0x4B8, by decide +kernel⟩
theorem witness_conflict_none : ∃ (bay ch want : Nat) (s : State), curClamp s bay ch (min want (bayCal s bay ch).2) = min want (bayCal s bay ch).2 :=
  ⟨8, 63, 19000, withRegs [(aBay 8 0x20, 0xFFFF)] live, by decide +kernel⟩
theorem witness_low_light : ∃ (g input : Nat), g < 36 ∧ input < 8 := ⟨35, 7, by decide, by decide⟩
theorem witness_step_up : ∃ (bay ch : Nat) (s : State), bay < 9 ∧ ch < 64 ∧ chLive s bay ch = true
    ∧ chLive s (partner bay ch).1 (partner bay ch).2 = true :=
  ⟨2, 5, { live with bays := [(2, { bayEmpty with target := [(5, 1)] }), (3, { bayEmpty with target := [(37, 1)] })] }, by decide +kernel⟩
theorem witness_eoi : ∃ (v : Nat) (s : State), v < 2048 ∧ s.top.inReset = false ∧ shut s (aVec v 8) = false ∧ (getVec s v).inService = true :=
  ⟨2047, { live with crier := { live.crier with vecs := [(2047, { vecIdle with inService := true })] } }, by decide +kernel⟩
theorem witness_eoi_idle : ∃ (v : Nat) (s : State), s.top.inReset = false ∧ shut s (aVec v 8) = false ∧ (getVec s v).inService = false :=
  ⟨2047, live, by decide +kernel⟩
theorem witness_other_island : ∃ (island : Nat) (s : State), ∀ h ∈ s.top.held, islandAt h.addr ≠ island :=
  ⟨126, { live with top := { live.top with held := [.read .host (aTim 4) false] } }, by decide +kernel⟩
theorem witness_clerk_free : ∃ (s : State), ∀ h ∈ s.top.held, islandAt h.addr ≠ 112 :=
  ⟨{ live with top := { live.top with held := [.read .host (aTim 4) false] } }, by decide +kernel⟩


theorem witness_sysRstNLow_01_0 : ∃ (lowNs : Nat) (s : State), 10000 ≤ lowNs :=
  ⟨10000, released, by decide +kernel⟩

theorem witness_sysRstNLow_01_1 : ∃ (lowNs : Nat) (s : State), lowNs ≤ 1000 :=
  ⟨1000, live, by decide +kernel⟩

theorem witness_supplyBelowResetThreshold_01_2 : ∃ (mv ns : Nat) (s : State), mv < 700 ∧ 1000 ≤ ns :=
  ⟨699, 1000, released, by decide +kernel⟩

theorem witness_supplyBelowResetThreshold_01_3 : ∃ (mv ns : Nat) (s : State), mv < 1600 ∧ 1000 ≤ ns :=
  ⟨1599, 1000, live, by decide +kernel⟩

theorem witness_supplyBelowResetThreshold_01_4 : ∃ (mv ns : Nat) (s : State), mv < 600 ∧ 20 ≤ ns :=
  ⟨599, 20, live, by decide +kernel⟩

theorem witness_supplyBelowResetThreshold_01_5 : ∃ (mv ns : Nat) (s : State), mv < 700 ∧ 1000 ≤ ns :=
  ⟨699, 1000, live, by decide +kernel⟩

theorem witness_vddCoreWarning_01_6 : ∃ (mv ns : Nat) (s : State), Inv s ∧ 600 ≤ mv ∧ mv < 660 ∧ 20 ≤ ns ∧ s.top.inReset = false :=
  ⟨600, 20, live, inv_of (by decide +kernel) rfl, by decide +kernel⟩

theorem witness_vddCoreWarningEnd_01_7 : ∃ (minMv durNs : Nat) (s : State), Inv s ∧ s.top.warning = true :=
  ⟨610, 30, { live with top := { live.top with warning := true } }, inv_of (by decide +kernel) rfl, by decide +kernel⟩

theorem witness_coldResetRelease_02_0 : ∃ (straps : BitVec 5) (refclks : BitVec 4) (s : State), Inv s ∧ s.top.inReset = true :=
  ⟨0x1F#5, 0xF#4, State.reset, inv_of (by decide +kernel) rfl, by decide +kernel⟩

theorem witness_fusesLoaded_02_1 : ∃ (s : State), Inv s ∧ s.top.inReset = false ∧ bringup s 0 = false :=
  ⟨released, inv_of (by decide +kernel) rfl, by decide +kernel⟩

theorem witness_clocksLocked_02_2 : ∃ (failedBanks : List Nat) (s : State), Inv s ∧ bringup s 0 = true ∧ bringup s 1 = false ∧ bringup s 2 = false ∧ s.top.unfed = [] :=
  ⟨[0, 255, 256], withRegs [(0x40, 1#32)] released, inv_of (by decide +kernel) rfl, by decide +kernel⟩

theorem witness_tableWipeComplete_02_3 : ∃ (s : State), Inv s ∧ bringup s 1 = true ∧ bringup s 4 = false :=
  ⟨withRegs [(0x40, 0xF#32)] released, inv_of (by decide +kernel) rfl, by decide +kernel⟩

theorem witness_hbmPhyTrained_02_4 : ∃ (stack : Nat) (failedCh : List Nat) (s : State), Inv s ∧ stack ≤ 1 ∧ bringup s 1 = true ∧ phyTrained s stack = false ∧ islandDown s (122 + stack) = false :=
  ⟨1, [15], live, inv_of (by decide +kernel) rfl, by decide +kernel⟩

theorem witness_hbmWipeComplete_02_5 : ∃ (stack : Nat) (failedCh : List Nat) (s : State), Inv s ∧ stack ≤ 1 ∧ stack ∈ s.spill.wiping ∧ phyTrained s stack = true ∧ islandDown s (122 + stack) = false ∧ islandDown s 121 = false :=
  ⟨1, [15], { withRegs [(aPhy 1, 0x80000000#32)] live with spill := { live.spill with wiping := [1] } }, inv_of (by decide +kernel) rfl, by decide +kernel⟩

theorem witness_firmwareStart_02_6 : ∃ (bad : List JrnRec) (code svn : Nat) (s : State), Inv s ∧ bringup s 1 = true ∧ fwRuns s = false ∧ s.top.jtagHold = false ∧ s.top.controlReset = false ∧ bootChoice s = some (code, svn) :=
  ⟨[], 0, 0, withRegs [(0x40, 7#32)] released, inv_of (by decide +kernel) rfl, by decide +kernel⟩

theorem witness_firmwareStart_02_7 : ∃ (bad : List JrnRec) (s : State), bringup s 1 = true ∧ fwRuns s = false ∧ s.top.jtagHold = false ∧ s.top.controlReset = false ∧ bootChoice s = none :=
  ⟨[], { withRegs [(0x40, 7#32)] released with top := { released.top with flash := { released.top.flash with sound := [] } } }, by decide +kernel⟩

theorem witness_jtagCoreRelease_02_8 : ∃ (s : State), s.top.inReset = false :=
  ⟨live, by decide +kernel⟩

theorem witness_islResetIsland_03_0 : ∃ (island : Nat) (s : State), Inv s ∧ s.top.inReset = false ∧ islandResettable island = true :=
  ⟨107, live, inv_of (by decide +kernel) rfl, by decide +kernel⟩

theorem witness_islResetIsland_03_1 : ∃ (island : Nat) (s : State), Inv s ∧ s.top.inReset = false ∧ islandResettable island = false :=
  ⟨108, live, inv_of (by decide +kernel) rfl, by decide +kernel⟩

theorem witness_islResetControl_03_2 : ∃ (s : State), Inv s ∧ s.top.inReset = false :=
  ⟨taken2, inv_of (by decide +kernel) rfl, by decide +kernel⟩

theorem witness_islResetCold_03_3 : ∃ (s : State), s.top.inReset = false :=
  ⟨live, by decide +kernel⟩

theorem witness_coreWatchdogExpiry_03_4 : ∃ (core : Nat) (s : State), Inv s ∧ core < 4 ∧ s.top.inReset = false ∧ s.top.controlReset = false :=
  ⟨3, taken2, inv_of (by decide +kernel) rfl, by decide +kernel⟩

theorem witness_controlReset_03_5 : ∃ (s : State), Inv s ∧ s.top.controlDue = true ∧ s.top.inReset = false ∧ s.top.controlReset = false :=
  ⟨{ taken2 with top := { live.top with controlDue := true } }, inv_of (by decide +kernel) rfl, by decide +kernel⟩

theorem witness_controlResetComplete_03_6 : ∃ (bad : List JrnRec) (code svn : Nat) (s : State), Inv s ∧ s.top.controlReset = true ∧ s.top.jtagHold = false ∧ bringup s 1 = true ∧ bootChoice s = some (code, svn) :=
  ⟨[], 0, 0, { live with top := { live.top with controlReset := true } }, inv_of (by decide +kernel) rfl, by decide +kernel⟩

theorem witness_controlResetComplete_03_7 : ∃ (bad : List JrnRec) (s : State), s.top.controlReset = true ∧ s.top.jtagHold = false ∧ bringup s 1 = true ∧ bootChoice s = none :=
  ⟨[], { live with top := { live.top with controlReset := true, flash := { live.top.flash with sound := [] } } }, by decide +kernel⟩

theorem witness_islandResetComplete_03_8 : ∃ (island : Nat) (s : State), Inv s ∧ s.top.inReset = false ∧ island ∈ s.top.islands :=
  ⟨107, { live with top := { live.top with islands := [107, 3], held := [.write 0x100 1#32] } }, inv_of (by decide +kernel) rfl, by decide +kernel⟩

theorem witness_lcsTransitionStart_03_9 : ∃ (j : LcsJob) (s : State), s.top.lcsJob = some j :=
  ⟨{ target := .retired, rma := false, ownerHash := none, ownerKek := none }, { live with top := { live.top with lcsJob := some { target := .retired, rma := false, ownerHash := none, ownerKek := none } } }, by decide +kernel⟩

theorem witness_lcsTransitionStart_03_10 : ∃ (j : LcsJob) (p : LcsPoint) (causes : List Nat) (s : State), s.top.lcsJob = some j :=
  ⟨{ target := .debug, rma := false, ownerHash := none, ownerKek := none }, .burned, [0, 5], { live with top := { live.top with lcsJob := some { target := .debug, rma := false, ownerHash := none, ownerKek := none } } }, by decide +kernel⟩

theorem witness_perstNAssert_04_0 : ∃ (cause : PerstCause) (s : State), Inv s ∧ s.top.inReset = false ∧ s.hif.perst = false :=
  ⟨.pin, taken2, inv_of (by decide +kernel) rfl, by decide +kernel⟩

theorem witness_hostIslandRelease_04_2 : ∃ (s : State), Inv s ∧ s.hif.perst = true ∧ s.hif.perstHigh = true ∧ bringup s 1 = true :=
  ⟨{ live with hif := { live.hif with perst := true, perstHigh := true, fromPerst := true } }, inv_of (by decide +kernel) rfl, by decide +kernel⟩

theorem witness_linkTrained_04_3 : ∃ (width speed : Nat) (flit : Bool) (s : State), Inv s ∧ s.hif.perst = false ∧ width < 16 ∧ speed < 16 :=
  ⟨4, 5, true, live, inv_of (by decide +kernel) rfl, by decide +kernel⟩

theorem witness_bar0UnmappedAccess_05_0 : ∃ (addr : Nat) (write : Bool) (s : State), Inv s ∧ (regInfo addr).isSome = false ∧ s.hif.perst = false ∧ s.top.inReset = false :=
  ⟨0x000004, false, live, inv_of (by decide +kernel) rfl, by decide +kernel⟩

theorem witness_apertureWrite_05_1 : ∃ (addr : Nat) (data : List Byte) (s : State), Inv s ∧ s.hif.perst = false ∧ s.top.inReset = false ∧ 0x100000 ≤ addr ∧ addr < 0x4000000 :=
  ⟨0x100002, [1#8, 2#8], { live with hif := { live.hif with slots := [(0, 8)] } }, inv_of (by decide +kernel) rfl, by decide +kernel⟩

theorem witness_apertureRead_05_2 : ∃ (addr len : Nat) (s : State), s.hif.perst = false ∧ s.top.inReset = false :=
  ⟨2, 4, live, by decide +kernel⟩

theorem witness_mailboxGo_05_3 : ∃ (s : State), Inv s ∧ s.hif.perst = false ∧ s.top.inReset = false ∧ regBit s (aHif 0x2000) 1 = false :=
  ⟨live, inv_of (by decide +kernel) rfl, by decide +kernel⟩

theorem witness_mailboxGo_05_4 : ∃ (s : State), Inv s ∧ s.hif.perst = false ∧ s.top.inReset = false ∧ regBit s (aHif 0x2000) 1 = true :=
  ⟨withRegs [(aHif 0x2000, 2#32)] live, inv_of (by decide +kernel) rfl, by decide +kernel⟩

theorem witness_mailboxResponse_05_5 : ∃ (m : MailReq) (s : State), Inv s ∧ s.hif.oldMail = none ∧ s.hif.mail = some m ∧ m.taken = true ∧ fwRuns s = true ∧ mailBad m = true :=
  ⟨{ mail0 with code := 3 }, { live with hif := { live.hif with mail := some { mail0 with code := 3 } } }, inv_of (by decide +kernel) rfl, by decide +kernel⟩

theorem witness_mailboxResponse_05_6 : ∃ (m : MailReq) (s : State), Inv s ∧ s.hif.oldMail = none ∧ s.hif.mail = some m ∧ m.taken = true ∧ fwRuns s = true ∧ mailBad m = false ∧ m.code = 1 :=
  ⟨mail0, { live with hif := { live.hif with mail := some mail0 } }, inv_of (by decide +kernel) rfl, by decide +kernel⟩

theorem witness_mailboxResponse_05_7 : ∃ (m : MailReq) (s : State), mailServed s = some m ∧ mailBad m = false ∧ m.code = 2 :=
  ⟨{ mail0 with code := 2 }, { live with hif := { live.hif with mail := some { mail0 with code := 2 } } }, by decide +kernel⟩

theorem witness_mailboxResponse_05_8 : ∃ (m : MailReq) (s : State), Inv s ∧ s.hif.oldMail = some m ∧ fwRuns s = true ∧ (mailBad m = true ∨ m.code = 1) :=
  ⟨mail0, { live with hif := { live.hif with oldMail := some mail0 } }, inv_of (by decide +kernel) rfl, by decide +kernel⟩

theorem witness_orphanLogClear_05_9 : ∃ (s : State), Inv s ∧ s.hif.perst = false :=
  ⟨withRegs [(aHif 0x3000, 2#32), (aHif 0x4008, 7#32)] live, inv_of (by decide +kernel) rfl, by decide +kernel⟩

theorem witness_crDoorbell_06_0 : ∃ (r index : Nat) (s : State), Inv s ∧ s.hif.perst = false ∧ producerOk s .cr r index = true :=
  ⟨1, 5, ring1, inv_of (by decide +kernel) rfl, by decide +kernel⟩

theorem witness_crDoorbell_06_1 : ∃ (r index : Nat) (s : State), Inv s ∧ s.hif.perst = false ∧ producerOk s .cr r index = false :=
  ⟨2, 5, ring1, inv_of (by decide +kernel) rfl, by decide +kernel⟩

theorem witness_cqDoorbell_06_2 : ∃ (r index : Nat) (s : State), Inv s ∧ s.hif.perst = false ∧ r < 16 ∧ ringEn s .cq r = true ∧ consumerOk s .cq r index = true :=
  ⟨1, 2, ring1, inv_of (by decide +kernel) rfl, by decide +kernel⟩

theorem witness_cqDoorbell_06_3 : ∃ (r index : Nat) (s : State), Inv s ∧ s.hif.perst = false ∧ (ringEn s .cq r = false ∨ consumerOk s .cq r index = false) :=
  ⟨1, 5, ring1, inv_of (by decide +kernel) rfl, by decide +kernel⟩

theorem witness_rxDoorbell_06_4 : ∃ (n index : Nat) (s : State), Inv s ∧ s.hif.perst = false ∧ producerOk s .rx n index = true :=
  ⟨1, 5, ring1, inv_of (by decide +kernel) rfl, by decide +kernel⟩

theorem witness_rxDoorbell_06_5 : ∃ (n index : Nat) (s : State), Inv s ∧ s.hif.perst = false ∧ producerOk s .rx n index = false :=
  ⟨1, 64, ring1, inv_of (by decide +kernel) rfl, by decide +kernel⟩

theorem witness_nqDoorbell_06_6 : ∃ (n index : Nat) (s : State), Inv s ∧ s.hif.perst = false ∧ n < 8 ∧ ringEn s .nq n = true ∧ consumerOk s .nq n index = true :=
  ⟨1, 2, ring1, inv_of (by decide +kernel) rfl, by decide +kernel⟩

theorem witness_nqDoorbell_06_7 : ∃ (n index : Nat) (s : State), Inv s ∧ s.hif.perst = false ∧ (ringEn s .nq n = false ∨ consumerOk s .nq n index = false) :=
  ⟨2, 0, ring1, inv_of (by decide +kernel) rfl, by decide +kernel⟩

theorem witness_ringEnable_06_8 : ∃ (kind : RingKind) (n : Nat) (cfg : Word) (s : State), Inv s ∧ s.hif.perst = false ∧ n < ringCount kind ∧ ringEn s kind n = false :=
  ⟨.nq, 2, 0x80000700#32, live, inv_of (by decide +kernel) rfl, by decide +kernel⟩

theorem witness_ringEnable_06_9 : ∃ (kind : RingKind) (n : Nat) (cfg : Word) (s : State), Inv s ∧ s.hif.perst = false ∧ n < ringCount kind ∧ ringEn s kind n = true :=
  ⟨.nq, 1, 0x80000600#32, ring1, inv_of (by decide +kernel) rfl, by decide +kernel⟩

theorem witness_ringDisable_06_10 : ∃ (kind : RingKind) (n : Nat) (cfg : Word) (s : State), Inv s ∧ s.hif.perst = false ∧ n < ringCount kind :=
  ⟨.cr, 1, 0x00000600#32, ring1, inv_of (by decide +kernel) rfl, by decide +kernel⟩

theorem witness_ringDmaError_06_11 : ∃ (kind : RingKind) (n : Nat) (s : State), Inv s ∧ s.hif.perst = false ∧ n < ringCount kind ∧ ringEn s kind n = true :=
  ⟨.cq, 1, ring1, inv_of (by decide +kernel) rfl, by decide +kernel⟩

theorem witness_commandFetch_07_0 : ∃ (r : Nat) (entry data : List Byte) (s : State), Inv s ∧ s.hif.perst = false ∧ s.hif.outstanding.length < 1024 ∧ nextCr s = some r :=
  ⟨1, [1#8, 1#8], [], withRegs [(ringBase .cr 1 + 0x10, 2#32)] ring1, inv_of (by decide +kernel) rfl, by decide +kernel⟩

theorem witness_completionWrite_07_1 : ∃ (q : Nat) (x : Completion) (rest : List (Nat × Completion)) (s : State), Inv s ∧ s.hif.perst = false ∧ ringEn s .cq q = true ∧ ringRoom s .cq q = true ∧ takeFirst (fun y => y.1 == q) s.hif.completions = (some (q, x), rest) :=
  ⟨1, { bell := 1, cr := 1, index := 0, opcode := 1, status := 0, tag := 7, result := [], ts32 := 0, notify := true }, [], { ring1 with hif := { ring1.hif with completions := [(1, { bell := 1, cr := 1, index := 0, opcode := 1, status := 0, tag := 7, result := [], ts32 := 0, notify := true })] } }, inv_of (by decide +kernel) rfl, by decide +kernel⟩

theorem witness_notificationWrite_07_2 : ∃ (n : Nat) (x : Notif) (rest : List (Nat × Notif)) (s : State), Inv s ∧ s.hif.perst = false ∧ ringEn s .nq n = true ∧ ringRoom s .nq n = true ∧ takeFirst (fun y => y.1 == n) s.hif.notifs = (some (n, x), rest) :=
  ⟨1, { kind := 1, payload := [] }, [], { ring1 with hif := { ring1.hif with notifs := [(1, { kind := 1, payload := [] })] } }, inv_of (by decide +kernel) rfl, by decide +kernel⟩

theorem witness_nop_07_3 : ∃ (cmd : HostCmd) (s : State), Ready s cmd .nop :=
  ⟨cmd1 1 [], taken1 (cmd1 1 []), by unfold Ready; decide +kernel⟩

theorem witness_fence_07_4 : ∃ (cmd : HostCmd) (s : State), Ready s cmd .fence :=
  ⟨cmd1 2 [], taken1 (cmd1 2 []), by unfold Ready; decide +kernel⟩

theorem witness_fenceComplete_07_5 : ∃ (cr index : Nat) (o : OutCmd) (s : State), (heldCmds s).find? (fun y => y.cmd.cr == cr && y.cmd.index == index && y.cmd.opcode == 2 && y.phase == .started) = some o ∧ s.hif.oldBell < o.cmd.bell ∧ o.covers = [] ∧ writesDue s = false :=
  ⟨1, 0, { cmd := cmd1 2 [], phase := .started, covers := [], since := 0 }, { ring1 with hif := { ring1.hif with outstanding := [{ cmd := cmd1 2 [], phase := .started, covers := [], since := 0 }] } }, by decide +kernel⟩

theorem witness_commandTimeout_07_6 : ∃ (cr index : Nat) (o : OutCmd) (s : State), (heldCmds s).find? (fun y => y.cmd.cr == cr && y.cmd.index == index && (clerkHolds s (cmdKey y.cmd) || mayTimeout y)) = some o ∧ s.hif.oldBell < o.cmd.bell :=
  ⟨1, 0, { cmd := cmd1 0x30 [], phase := .held, covers := [], since := 0 }, { ring1 with hif := { ring1.hif with outstanding := [{ cmd := cmd1 0x30 [], phase := .held, covers := [], since := 0 }] } }, by decide +kernel⟩

theorem witness_lcsChange_08_0 : ∃ (m : MailReq) (s : State), Inv s ∧ mailServed s = some m ∧ m.code = 1 ∧ fwRuns s = true :=
  ⟨mail0, { live with hif := { live.hif with mail := some mail0 } }, inv_of (by decide +kernel) rfl, by decide +kernel⟩

theorem witness_fwUpdate_08_1 : ∃ (image : Image) (cut : Bool) (m : MailReq) (s : State), Inv s ∧ mailServed s = some m ∧ m.code = 2 ∧ fwRuns s = true :=
  ⟨image0 0, false, { mail0 with code := 2 }, { live with hif := { live.hif with mail := some { mail0 with code := 2 } } }, inv_of (by decide +kernel) rfl, by decide +kernel⟩

theorem witness_patchLoad_08_2 : ∃ (cmd : HostCmd) (image : Image) (s : State), Inv s ∧ Ready s cmd .patchLoad ∧ s.prg.patch = none :=
  ⟨cmd1 0x24 [1#8], image0 2, taken1 (cmd1 0x24 [1#8]), inv_of (by decide +kernel) rfl, by unfold Ready; decide +kernel⟩

theorem witness_patchSwitchPoint_08_3 : ∃ (j : PatchJob) (s : State), Inv s ∧ s.prg.patch = some j ∧ fwRuns s = true :=
  ⟨{ cmd := cmd1 0x24 [], image := image0 2 }, { taken1 (cmd1 0x24 []) with prg := { ring1.prg with patch := some { cmd := cmd1 0x24 [], image := image0 2 } } }, inv_of (by decide +kernel) rfl, by decide +kernel⟩

theorem witness_jrnRead_08_4 : ∃ (cmd : HostCmd) (badLines : List Nat) (s : State), Ready s cmd .jrnRead :=
  ⟨{ cmd1 0x70 [0#8, 0#8, 1#8, 0#8] with dataLen := 64 }, [], taken1 { cmd1 0x70 [0#8, 0#8, 1#8, 0#8] with dataLen := 64 }, by unfold Ready; decide +kernel⟩

theorem witness_jrnWrite_08_5 : ∃ (cmd : HostCmd) (badLines failedBlocks : List Nat) (s : State), Inv s ∧ Ready s cmd .jrnWrite :=
  ⟨{ cmd1 0x71 [0#8, 0#8, 1#8, 0#8] with dataLen := 64, data := [5#8] }, [], [], withRegs [(aSec 0, 0x40000000#32)] (taken1 { cmd1 0x71 [0#8, 0#8, 1#8, 0#8] with dataLen := 64, data := [5#8] }), inv_of (by decide +kernel) rfl, by unfold Ready; decide +kernel⟩

theorem witness_rxFrameDma_08_6 : ∃ (n : Nat) (entry : List Byte) (err : Option DataErr) (c : Copy) (rest : List Copy) (s : State), Inv s ∧ s.hif.perst = false ∧ nextCpu s = some n ∧ bufLenOk (leAt entry 8 2) = true ∧ qEntries s (cpuQueue n) = c :: rest :=
  ⟨1, bytesLE 8 0x1000 ++ bytesLE 2 512, none, copy0 (cpuQueue 1) 0x7FF, [], withRegs [(ringBase .rx 1 + 0x10, 5#32)] { ring1 with market := { ring1.market with queues := [(cpuQueue 1, [copy0 (cpuQueue 1) 0x7FF])] } }, inv_of (by decide +kernel) rfl, by decide +kernel⟩

theorem witness_rxFrameDma_08_7 : ∃ (n : Nat) (entry : List Byte) (err : Option DataErr) (s : State), Inv s ∧ s.hif.perst = false ∧ nextCpu s = some n ∧ bufLenOk (leAt entry 8 2) = false :=
  ⟨1, bytesLE 8 0x1000 ++ bytesLE 2 500, none, withRegs [(ringBase .rx 1 + 0x10, 5#32)] { ring1 with market := { ring1.market with queues := [(cpuQueue 1, [copy0 (cpuQueue 1) 0x7FF])] } }, inv_of (by decide +kernel) rfl, by decide +kernel⟩

theorem witness_registerWrite_09_0 : ∃ (addr : Nat) (value : Word) (s : State), Inv s ∧ s.hif.perst = false ∧ s.top.inReset = false ∧ regInfo addr = none :=
  ⟨0x4, 5#32, live, inv_of (by decide +kernel) rfl, by decide +kernel⟩

theorem witness_registerWrite_09_1 : ∃ (addr : Nat) (value : Word) (s : State), s.hif.perst = false ∧ s.top.inReset = false ∧ absent s addr = true :=
  ⟨aAinPort 3 0x10, 5#32, port0 5, by decide +kernel⟩

theorem witness_registerWrite_09_2 : ∃ (addr : Nat) (value : Word) (u : State) (s : State), s.hif.perst = false ∧ s.top.inReset = false ∧ (regInfo addr).isSome = true ∧ absent s addr = false ∧ isWide addr = false ∧ ownRow addr value s = some u :=
  ⟨(aScl 0x14), 5#32, rowState (execAbsWrite 5#32 live) live, live, by decide +kernel⟩

theorem witness_registerWrite_09_3 : ∃ (addr : Nat) (value : Word) (s : State), s.hif.perst = false ∧ s.top.inReset = false ∧ (regInfo addr).isSome = true ∧ absent s addr = false ∧ isWide addr = false ∧ (ownRow addr value s).isNone = true ∧ shut s addr = true :=
  ⟨aTim 8, 5#32, { live with top := { live.top with islands := [islandAt (aTim 8)] } }, by decide +kernel⟩

theorem witness_registerWrite_09_4 : ∃ (addr : Nat) (value : Word) (b : Blk) (n : Nat) (r : RegRow) (i j : Nat) (s : State), Inv s ∧ s.hif.perst = false ∧ s.top.inReset = false ∧ regInfo addr = some (b, n, r, i, j) ∧ absent s addr = false ∧ isWide addr = false ∧ (ownRow addr value s).isNone = true ∧ shut s addr = false :=
  ⟨aTim 8, 5#32, .tim, 0, { base := 0x8, rw := 0xFFFFF, reset := 0xC350, ok := [(19, 0, 1, 500000)] }, 0, 0, live, inv_of (by decide +kernel) rfl, by decide +kernel⟩

theorem witness_registerWrite_09_5 : ∃ (addr : Nat) (value : Word) (s : State), s.hif.perst = false ∧ s.top.inReset = false ∧ (regInfo addr).isSome = true ∧ absent s addr = false ∧ isWide addr = true ∧ addr % 8 = 0 :=
  ⟨aTim 0x210, 5#32, live, by decide +kernel⟩

theorem witness_registerWrite_09_6 : ∃ (addr : Nat) (value : Word) (s : State), s.hif.perst = false ∧ s.top.inReset = false ∧ (regInfo addr).isSome = true ∧ absent s addr = false ∧ isWide addr = true ∧ addr % 8 = 4 :=
  ⟨aTim 0x214, 5#32, live, by decide +kernel⟩

theorem witness_rcCounterRead_09_7 : ∃ (addr : Nat) (s : State), Inv s ∧ rcMask addr ≠ 0 ∧ s.hif.perst = false ∧ s.top.inReset = false ∧ absent s addr = false :=
  ⟨aScl 0xA0, withRegs [(aScl 0xA0, 7#32)] live, inv_of (by decide +kernel) rfl, by decide +kernel⟩

theorem witness_reg64LowWordRead_09_8 : ∃ (rq : Requester) (addr : Nat) (s : State), isWide addr = true ∧ addr % 8 = 0 ∧ canAccess s rq = true ∧ s.top.inReset = false :=
  ⟨.host, aTim 0x10, live, by decide +kernel⟩

theorem witness_reg64LowWordWrite_09_9 : ∃ (rq : Requester) (addr : Nat) (value : Word) (s : State), isWide addr = true ∧ addr % 8 = 0 ∧ canAccess s rq = true ∧ s.top.inReset = false ∧ absent s addr = false :=
  ⟨.host, aTim 0x210, 5#32, live, by decide +kernel⟩

theorem witness_reg64HighWordWrite_09_10 : ∃ (rq : Requester) (addr : Nat) (value : Word) (b : Blk) (n : Nat) (r : RegRow) (i j : Nat) (s : State), Inv s ∧ regInfo addr = some (b, n, r, i, j) ∧ isWide addr = true ∧ addr % 8 = 4 ∧ canAccess s rq = true ∧ s.top.inReset = false ∧ absent s addr = false ∧ shut s (addr - 4) = false :=
  ⟨.host, aTim 0x214, 5#32, .tim, 0, { base := 0x214, n1 := 4, s1 := 0x20, rw := 0xFFFF, wide := true }, 0, 0, live, inv_of (by decide +kernel) rfl, by decide +kernel⟩

theorem witness_reg64HighWordWrite_09_11 : ∃ (rq : Requester) (addr : Nat) (value : Word) (s : State), isWide addr = true ∧ addr % 8 = 4 ∧ canAccess s rq = true ∧ s.top.inReset = false ∧ absent s addr = false ∧ shut s (addr - 4) = true :=
  ⟨.host, aTim 0x214, 5#32, { live with top := { live.top with islands := [islandAt (aTim 8)] } }, by decide +kernel⟩

theorem witness_bar0BadAccess_09_12 : ∃ (addr size : Nat) (dwords : List (Word × Bool)) (s : State), Inv s ∧ s.hif.perst = false ∧ s.top.inReset = false ∧ readServed addr size = false :=
  ⟨0x10, 3, [], live, inv_of (by decide +kernel) rfl, by decide +kernel⟩

theorem witness_bar0BadAccess_09_13 : ∃ (addr size : Nat) (dwords : List (Word × Bool)) (s : State), s.hif.perst = false ∧ s.top.inReset = false ∧ readServed addr size = true ∧ shut s addr = false ∧ (regInfo addr).isSome = true :=
  ⟨0x10, 4, [], live, by decide +kernel⟩

theorem witness_bar0BadAccess_09_14 : ∃ (addr size : Nat) (dwords : List (Word × Bool)) (s : State), Inv s ∧ s.hif.perst = false ∧ s.top.inReset = false ∧ (64 < size ∨ dwords.all (·.2) = false) :=
  ⟨aTim 8, 2, [(1#32, false)], live, inv_of (by decide +kernel) rfl, by decide +kernel⟩

theorem witness_bar0BadAccess_09_15 : ∃ (addr size : Nat) (dwords : List (Word × Bool)) (s : State), s.hif.perst = false ∧ s.top.inReset = false ∧ size ≤ 64 ∧ dwords.all (·.2) = true :=
  ⟨aTim 8, 4, [(5#32, true)], live, by decide +kernel⟩

theorem witness_stageWrite_10_0 : ∃ (cmd : HostCmd) (s : State), Ready s cmd .stageWrite ∧ stageArgsOk cmd = true ∧ stageOpen s (spaceDom (argN cmd 0 1) (argN cmd 1 1)) = true :=
  ⟨{ cmd1 0x20 ([5#8, 36#8, 0#8, 0#8, 0#8, 0#8, 0#8, 0#8] ++ bytesLE 4 (crc32 (List.replicate 32 0#8))) with dataLen := 32, data := List.replicate 32 0#8 }, withRegs [(aDom .ing 0, 1#32), (aDom .egr 0, 1#32)] (taken1 { cmd1 0x20 ([5#8, 36#8, 0#8, 0#8, 0#8, 0#8, 0#8, 0#8] ++ bytesLE 4 (crc32 (List.replicate 32 0#8))) with dataLen := 32, data := List.replicate 32 0#8 }), by unfold Ready; decide +kernel⟩

theorem witness_stageWrite_10_1 : ∃ (cmd : HostCmd) (s : State), Ready s cmd .stageWrite ∧ (stageArgsOk cmd = false ∨ stageOpen s (spaceDom (argN cmd 0 1) (argN cmd 1 1)) = false) :=
  ⟨cmd1 0x20 [], taken1 (cmd1 0x20 []), by unfold Ready; decide +kernel⟩

theorem witness_commit_10_2 : ∃ (cmd : HostCmd) (s : State), Inv s ∧ Ready s cmd .commit ∧ commitStatus s cmd = stOk :=
  ⟨cmd1 0x21 [3#8], staged1 0x21 3#8, inv_of (by decide +kernel) rfl, by unfold Ready; decide +kernel⟩

theorem witness_commit_10_3 : ∃ (cmd : HostCmd) (s : State), Ready s cmd .commit ∧ commitStatus s cmd ≠ stOk :=
  ⟨cmd1 0x21 [0#8], staged1 0x21 0#8, by unfold Ready; decide +kernel⟩

theorem witness_commitAt_10_4 : ∃ (cmd : HostCmd) (s : State), Inv s ∧ Ready s cmd .commitAt ∧ commitStatus s cmd = stOk :=
  ⟨cmd1 0x22 [3#8, 0#8, 0#8, 0#8, 0#8, 0#8, 0#8, 0#8, 5#8], withRegs [(aDom .ing 0, 1#32), (aDom .egr 0, 1#32)] (taken1 (cmd1 0x22 [3#8, 0#8, 0#8, 0#8, 0#8, 0#8, 0#8, 0#8, 5#8])), inv_of (by decide +kernel) rfl, by unfold Ready; decide +kernel⟩

theorem witness_commitAt_10_5 : ∃ (cmd : HostCmd) (s : State), Ready s cmd .commitAt ∧ commitStatus s cmd ≠ stOk :=
  ⟨cmd1 0x22 [0#8], staged1 0x22 0#8, by unfold Ready; decide +kernel⟩

theorem witness_commitToken_10_6 : ∃ (cmd : HostCmd) (s : State), Inv s ∧ Ready s cmd .commitToken ∧ commitStatus s cmd = stOk :=
  ⟨cmd1 0x23 [3#8], staged1 0x23 3#8, inv_of (by decide +kernel) rfl, by unfold Ready; decide +kernel⟩

theorem witness_commitToken_10_7 : ∃ (cmd : HostCmd) (s : State), Ready s cmd .commitToken ∧ commitStatus s cmd ≠ stOk :=
  ⟨cmd1 0x23 [0#8], staged1 0x23 0#8, by unfold Ready; decide +kernel⟩

theorem witness_commitCancel_10_8 : ∃ (cmd : HostCmd) (s : State), Inv s ∧ Ready s cmd .commitCancel ∧ commitStatus s cmd = stOk ∧ cancelStatus s cmd = stOk :=
  ⟨cmd1 0x22 [0x83#8], { taken1 (cmd1 0x22 [0x83#8]) with prg := { ring1.prg with groups := [group0 (some 5000000) false] } }, inv_of (by decide +kernel) rfl, by unfold Ready; decide +kernel⟩

theorem witness_commitCancel_10_9 : ∃ (cmd : HostCmd) (s : State), Ready s cmd .commitCancel ∧ (commitStatus s cmd ≠ stOk ∨ cancelStatus s cmd ≠ stOk) :=
  ⟨cmd1 0x22 [0x80#8], taken1 (cmd1 0x22 [0x80#8]), by unfold Ready; decide +kernel⟩

theorem witness_commitInstant_10_10 : ∃ (d : Dom) (g : CommitGrp) (n : Nat) (s : State), Inv s ∧ grpOf s d = some g ∧ g.t = some n ∧ n ≤ clkNs s ∧ g.doms.Nodup :=
  ⟨.ing, group0 (some 5) true, 5, { withRegs [] live with prg := { live.prg with groups := [group0 (some 5) true] }, clock := { live.clock with ns := 100 } }, inv_of (by decide +kernel) rfl, by decide +kernel⟩

theorem witness_drainEnd_10_11 : ∃ (d : Dom) (s : State), Inv s ∧ regBit s (aDom d 0) 1 = true ∧ domHolds s d = false :=
  ⟨.egr, withRegs [(aDom .egr 0, 2#32)] live, inv_of (by decide +kernel) rfl, by decide +kernel⟩

theorem witness_commitRecordWrite_10_12 : ∃ (failedBlocks : List Nat) (s : State), Inv s ∧ fwRuns s = true ∧ sealReady s = true ∧ s.prg.events ≠ [] :=
  ⟨[], { withRegs [(aSec 0, 0x40000000#32)] live with prg := { live.prg with events := [{ ing := 1, egr := 1, passed := true, t := none, token := none }] } }, inv_of (by decide +kernel) rfl, by decide +kernel⟩

theorem witness_drainForce_10_13 : ∃ (d : Dom) (n : Nat) (s : State), Inv s ∧ regBit s (aDom d 0) 1 = true ∧ domHolds s d = true ∧ (getDom s d).prevT = some n ∧ n + 100000 ≤ clkNs s :=
  ⟨.ing, 0, { withRegs [(aDom .ing 0, 2#32)] live with pipes := { live.pipes with parse := [(0, [{ pkt0 with ingVer := 1 }])] }, prg := { live.prg with ing := { live.prg.ing with prevT := some 0 } }, clock := { live.clock with ns := 100000 } }, inv_of (by decide +kernel) rfl, by decide +kernel⟩

theorem witness_retireComplete_10_14 : ∃ (d : Dom) (s : State), Inv s ∧ regBit s (aDom d 0) 2 = true ∧ (getDom s d).retireTodo = [] :=
  ⟨.ing, withRegs [(aDom .ing 0, 4#32)] live, inv_of (by decide +kernel) rfl, by decide +kernel⟩

theorem witness_octCfgWrite_11_0 : ∃ (g o : Nat) (value : Word) (s : State), Inv s ∧ g < 36 ∧ o < 4 ∧ s.top.inReset = false ∧ shut s (aLan g (4 * o)) = false :=
  ⟨1, 2, 0x40#32, live, inv_of (by decide +kernel) rfl, by decide +kernel⟩

theorem witness_portCfgWrite_11_1 : ∃ (lane : Nat) (value : Word) (s : State), Inv s ∧ lane < 1152 ∧ s.top.inReset = false ∧ shut s (aPortCfg lane) = false ∧ ((regBit s (aPortCfg lane) 31 = false ∧ portState s lane = 0) ∨ portCfgNew (reg s (aPortCfg lane)) value &&& 0x7FFFFFFF = reg s (aPortCfg lane) &&& 0x7FFFFFFF) :=
  ⟨3, 0x50000080#32, live, inv_of (by decide +kernel) rfl, by decide +kernel⟩

theorem witness_portCfgWrite_11_2 : ∃ (lane : Nat) (value : Word) (s : State), Inv s ∧ lane < 1152 ∧ s.top.inReset = false ∧ shut s (aPortCfg lane) = false ∧ (regBit s (aPortCfg lane) 31 = true ∨ portState s lane ≠ 0) ∧ portCfgNew (reg s (aPortCfg lane)) value &&& 0x7FFFFFFF ≠ reg s (aPortCfg lane) &&& 0x7FFFFFFF :=
  ⟨0, 0xD0000080#32, port0 5, inv_of (by decide +kernel) rfl, by decide +kernel⟩

theorem witness_portEnable_11_3 : ∃ (lane : Nat) (s : State), Inv s ∧ lane < 1152 ∧ s.top.inReset = false ∧ shut s (aPortCfg lane) = false ∧ regBit s (aPortCfg lane) 31 = false ∧ portState s lane = 0 :=
  ⟨0, live, inv_of (by decide +kernel) rfl, by decide +kernel⟩

theorem witness_portDisable_11_4 : ∃ (lane : Nat) (s : State), Inv s ∧ lane < 1152 ∧ s.top.inReset = false ∧ shut s (aPortCfg lane) = false ∧ regBit s (aPortCfg lane) 31 = true ∧ portCfgNew (reg s (aPortCfg lane)) (reg s (aPortCfg lane) &&& 0x7FFFFFFF) = reg s (aPortCfg lane) &&& 0x7FFFFFFF :=
  ⟨0, port0 5, inv_of (by decide +kernel) rfl, by decide +kernel⟩

theorem witness_portAligned_11_5 : ∃ (port skewNs : Nat) (s : State), Inv s ∧ portLocks s port = true ∧ skewNs ≤ 180 :=
  ⟨0, 100, port0 2, inv_of (by decide +kernel) rfl, by decide +kernel⟩

theorem witness_portAligned_11_6 : ∃ (port skewNs : Nat) (s : State), Inv s ∧ portLocks s port = true ∧ 180 < skewNs :=
  ⟨0, 300, port0 2, inv_of (by decide +kernel) rfl, by decide +kernel⟩

theorem witness_lossOfSignal_11_7 : ∃ (lane l : Nat) (signalGone : Bool) (s : State), Inv s ∧ lane < 1152 ∧ portOf s lane = l ∧ portLive s l = true ∧ portState s l ≠ 1 ∧ (signalGone = true ∨ (portState s l ≠ 2 ∧ portState s l ≠ 4)) :=
  ⟨0, 0, true, port0 5, inv_of (by decide +kernel) rfl, by decide +kernel⟩

theorem witness_faultReceived_11_8 : ∃ (port : Nat) (localFault : Bool) (s : State), Inv s ∧ portLive s port = true ∧ portState s port ≠ 1 :=
  ⟨0, true, port0 5, inv_of (by decide +kernel) rfl, by decide +kernel⟩

theorem witness_faultCleared_11_9 : ∃ (port : Nat) (s : State), Inv s ∧ portLive s port = true ∧ portState s port = 6 :=
  ⟨0, port0 6, inv_of (by decide +kernel) rfl, by decide +kernel⟩

theorem witness_signalPresent_11_10 : ∃ (port : Nat) (s : State), Inv s ∧ portLive s port = true ∧ portState s port = 1 ∧ portLit s port = true :=
  ⟨0, { port0 1 with bays := [(0, { bayEmpty with target := [(0, 2), (1, 2)] })] }, inv_of (by decide +kernel) rfl, by decide +kernel⟩

theorem witness_recoveryEnd_11_11 : ∃ (port : Nat) (s : State), Inv s ∧ (portLanes s port).isSome = true :=
  ⟨0, port0 5, inv_of (by decide +kernel) rfl, by decide +kernel⟩

theorem witness_ladderStepPropose_12_0 : ∃ (port : Nat) (s : State), mayStep s port = true ∧ fwRuns s = true ∧ ainumEn s port = true ∧ ainPeer s port = true ∧ allCapable s port = true ∧ (getPort s port).retry = false ∧ (getPort s port).proposed = none ∧ s.top.fuses.selfId < reg64 s (aAinPort port 8) ∧ regBit s (aSlot port 0) 29 = false :=
  ⟨0, ladder0, by decide +kernel⟩

theorem witness_stepTransmitterSwitch_12_1 : ∃ (port : Nat) (s : State), Inv s ∧ portLive s port = true ∧ (getPort s port).stepTaken = true ∧ portState s port = 3 :=
  ⟨0, { ladder0 with ports := [(0, { portSt0 with stepTaken := true })] }, inv_of (by decide +kernel) rfl, by decide +kernel⟩

theorem witness_ladderStepSuccess_12_2 : ∃ (port skewNs : Nat) (s : State), Inv s ∧ portLive s port = true ∧ portState s port = 4 ∧ isLadder s port = true ∧ skewNs ≤ 180 ∧ regF s (aPortState port) 24 23 = 0 :=
  ⟨0, 90, withRegs [(aPortState 0, 0x40000000#32)] ladder0, inv_of (by decide +kernel) rfl, by decide +kernel⟩

theorem witness_ladderStepFail_12_3 : ∃ (port : Nat) (s : State), Inv s ∧ portLive s port = true ∧ (getPort s port).stepTaken = true :=
  ⟨0, { ladder0 with ports := [(0, { portSt0 with stepTaken := true })] }, inv_of (by decide +kernel) rfl, by decide +kernel⟩

theorem witness_stepAckTimeout_12_4 : ∃ (port : Nat) (s : State), Inv s ∧ fwRuns s = true ∧ mayStep s port = true ∧ (getPort s port).proposed ≠ none :=
  ⟨0, { ladder0 with ports := [(0, { portSt0 with proposed := some 3 })] }, inv_of (by decide +kernel) rfl, by decide +kernel⟩

theorem witness_ladderRetry_12_5 : ∃ (port : Nat) (s : State), fwRuns s = true ∧ (getPort s port).retry = true :=
  ⟨0, { ladder0 with ports := [(0, { portSt0 with retry := true })] }, by decide +kernel⟩

theorem witness_ladderNoPeer_12_6 : ∃ (port : Nat) (s : State), Inv s ∧ fwRuns s = true ∧ mayStep s port = true ∧ ainPeer s port = false :=
  ⟨0, withRegs [(aPortState 0, 0x30000000#32)] ladder0, inv_of (by decide +kernel) rfl, by decide +kernel⟩

theorem witness_fecDegrade_12_7 : ∃ (lane l symbols words : Nat) (s : State), Inv s ∧ lane < 1152 ∧ portOf s lane = l ∧ portLive s l = true ∧ portState s l ≠ 1 :=
  ⟨0, 0, 30, 4, port0 5, inv_of (by decide +kernel) rfl, by decide +kernel⟩

theorem witness_uncorrectableCodeword_12_8 : ∃ (lane l : Nat) (s : State), Inv s ∧ lane < 1152 ∧ portOf s lane = l ∧ portLive s l = true ∧ portState s l ≠ 1 :=
  ⟨0, 0, port0 5, inv_of (by decide +kernel) rfl, by decide +kernel⟩

theorem witness_eqLoopStep_12_9 : ∃ (lane : Nat) (want : Word) (s : State), Inv s ∧ lane < 1152 ∧ islandDown s (72 + lane / 32) = false :=
  ⟨3, 0x01020304#32, live, inv_of (by decide +kernel) rfl, by decide +kernel⟩

theorem witness_eqPolicyConflict_12_10 : ∃ (lane : Nat) (want : Word) (s : State), Inv s ∧ lane < 1152 ∧ (∃ n ∈ List.range 4, eqConflict s lane n want = true) ∧ intervalOver s (laneKey lane) 100000000 = true :=
  ⟨3, 0xFFFFFFFF#32, live, inv_of (by decide +kernel) rfl, by decide +kernel⟩

theorem witness_frameArrival_13_0 : ∃ (port : Nat) (octets : List Byte) (pcs : Stamp) (s : State), (portLanes s port).isSome = true ∧ islandDown s (72 + port / 32) = false ∧ portEn s port = false :=
  ⟨3, [1#8], { sec := 0, ns := 5, frac := 0 }, live, by decide +kernel⟩

theorem witness_frameArrival_13_1 : ∃ (port : Nat) (octets : List Byte) (pcs : Stamp) (s : State), islandDown s (72 + port / 32) = true :=
  ⟨3, [1#8], { sec := 0, ns := 5, frac := 0 }, { live with top := { live.top with islands := [72] } }, by decide +kernel⟩

theorem witness_frameArrival_13_2 : ∃ (port : Nat) (octets : List Byte) (pcs : Stamp) (s : State), (portLanes s port).isSome = true ∧ islandDown s (72 + port / 32) = false ∧ portEn s port = true ∧ carries s port = true ∧ holdUsed s (port / 32) + 16384 ≤ 1048576 :=
  ⟨0, List.replicate 64 1#8, { sec := 0, ns := 5, frac := 0 }, port0 5, by decide +kernel⟩

theorem witness_frameArrival_13_3 : ∃ (port : Nat) (octets : List Byte) (pcs : Stamp) (s : State), (portLanes s port).isSome = true ∧ islandDown s (72 + port / 32) = false ∧ portEn s port = true ∧ carries s port = true ∧ 1048576 < holdUsed s (port / 32) + 16384 :=
  ⟨0, List.replicate 64 1#8, { sec := 0, ns := 5, frac := 0 }, { port0 5 with pipes := { live.pipes with hold := [(0, List.replicate 64 { pkt0 with octets := List.replicate 16200 0#8 })] } }, by decide +kernel⟩

theorem witness_frameTailArrival_13_4 : ∃ (frame : Nat) (octets : List Byte) (verdict : TailVerdict) (a : Arriving) (s : State), s.pipes.arriving.find? (fun y => y.id == frame) = some a :=
  ⟨9, [1#8], { fcsOk := false, tailMarked := false, codewordBad := false }, { id := 9, port := 0, got := [1#8] }, { port0 5 with pipes := { live.pipes with arriving := [{ id := 9, port := 0, got := [1#8] }], hold := [(0, [{ pkt0 with id := 9 }])] } }, by decide +kernel⟩

theorem witness_parseEntry_13_5 : ∃ (g : Nat) (p : Packet) (s : State), g < 36 ∧ headAt s.pipes.hold g = some p ∧ (p.whole = true ∨ 260 ≤ p.octets.length) ∧ parseReady s g = true ∧ regBit s (aPipe g 0) 0 = false ∧ mapGet [] s.pipes.recirc g = [] :=
  ⟨0, pkt0, { withRegs [(aDom .ing 0, 0#32)] live with pipes := { live.pipes with hold := [(0, [pkt0])] } }, by decide +kernel⟩

theorem witness_parseExit_13_6 : ∃ (g : Nat) (p : Packet) (s : State), g < 36 ∧ headAt s.pipes.parse g = some p ∧ p.parseErr = 0 :=
  ⟨0, pkt0, { live with pipes := { live.pipes with parse := [(0, [pkt0])] } }, by decide +kernel⟩

theorem witness_parseExit_13_7 : ∃ (g : Nat) (p : Packet) (s : State), g < 36 ∧ headAt s.pipes.parse g = some p ∧ p.parseErr ≠ 0 ∧ p.parseErr < 15 :=
  ⟨0, { pkt0 with parseErr := 2 }, { live with prog := [(progKey 0 3 0 0 0x3F00, 4#8)], pipes := { live.pipes with parse := [(0, [{ pkt0 with parseErr := 2 }])] } }, by decide +kernel⟩

theorem witness_parCaptureArm_13_8 : ∃ (g : Nat) (s : State), Inv s ∧ g < 36 ∧ s.top.inReset = false ∧ shut s (aPar g 0) = false :=
  ⟨3, live, inv_of (by decide +kernel) rfl, by decide +kernel⟩

theorem witness_parseWordRepair_13_9 : ∃ (g space bank offset : Nat) (err : WordErr) (s : State), Inv s ∧ g < 36 ∧ (space = 3 ∨ space = 4) ∧ bank < 2 ∧ offset < spaceSize space :=
  ⟨3, 4, 0, 64, .uncorrectable false, live, inv_of (by decide +kernel) rfl, by decide +kernel⟩

theorem witness_recircEntry_13_10 : ∃ (g : Nat) (p : Packet) (s : State), g < 36 ∧ nextRecirc s g = some p ∧ parseReady s g = true :=
  ⟨0, pkt0, { withRegs [(aDom .ing 0, 0#32)] live with pipes := { live.pipes with recirc := [(0, [pkt0])] } }, by decide +kernel⟩

theorem witness_stallAdmit_14_0 : ∃ (stall : Nat) (f : Flight) (s : State), headAt s.pipes.entry stall = some f ∧ stallDown s stall = false ∧ (getStall s stall).paused = false ∧ (getStall s stall).ctxs.length < 32 :=
  ⟨3, { pkt := pkt0, copy := none }, { live with pipes := { live.pipes with entry := [(3, [{ pkt := pkt0, copy := none }])] } }, by decide +kernel⟩

theorem witness_stallWordIssue_14_1 : ∃ (stall ctx : Nat) (backingBad : Bool) (constErr : Option (Nat × Bool)) (x : Ctx) (s : State), getCtx s stall ctx = some x ∧ x.finished = false ∧ x.marked = false ∧ stallDown s stall = false ∧ regBit s (aStall stall 0) 0 = false :=
  ⟨3, 0, false, none, ctx0, stall3 ctx0, by decide +kernel⟩

theorem witness_stallWordIssue_14_2 : ∃ (stall ctx : Nat) (backingBad : Bool) (constErr : Option (Nat × Bool)) (x : Ctx) (s : State), getCtx s stall ctx = some x ∧ x.finished = false ∧ x.marked = false ∧ stallDown s stall = false ∧ (getStall s stall).paused = false ∧ regBit s (aStall stall 0) 0 = false :=
  ⟨3, 0, false, none, ctx0, stall3 ctx0, by decide +kernel⟩

theorem witness_stallWordIssue_14_3 : ∃ (stall ctx : Nat) (backingBad : Bool) (constErr : Option (Nat × Bool)) (x : Ctx) (s : State), getCtx s stall ctx = some x ∧ x.finished = false ∧ x.marked = false ∧ stallDown s stall = false ∧ (getStall s stall).paused = false ∧ regBit s (aStall stall 0) 0 = false ∧ stallWordKey stall (stallVer stall x.pkt) x.next ∉ s.pipes.poison ∧ wordReserved (progNat s (stallWordKey stall (stallVer stall x.pkt) x.next) 32) = true :=
  ⟨3, 0, false, none, ctx0, { stall3 ctx0 with prog := [(stallWordKey 3 0 0 + 30, 0xF0#8)] }, by decide +kernel⟩

theorem witness_waitTimeout_14_4 : ∃ (stall ctx : Nat) (x : Ctx) (s : State), getCtx s stall ctx = some x ∧ x.finished = false ∧ x.marked = false ∧ stallDown s stall = false ∧ regBit s (aStall stall 0) 0 = false ∧ wordReserved (progNat s (stallWordKey stall (stallVer stall x.pkt) x.next) 32) = false ∧ wordReady x (progNat s (stallWordKey stall (stallVer stall x.pkt) x.next) 32) = false :=
  ⟨3, 0, { ctx0 with slots := [{ noSlot with req := some lk0 }] }, { stall3 { ctx0 with slots := [{ noSlot with req := some lk0 }] } with prog := [(stallWordKey 3 0 0 + 27, 0x10#8)] }, by decide +kernel⟩

theorem witness_lookupResult_14_5 : ∃ (stall ctx slot : Nat) (err : Option (Nat × Bool)) (x : Ctx) (r : LkReq) (s : State), getCtx s stall ctx = some x ∧ (ctxSlot x slot).req = some r :=
  ⟨3, 0, 0, none, { ctx0 with slots := [{ noSlot with req := some lk0 }] }, lk0, stall3 { ctx0 with slots := [{ noSlot with req := some lk0 }] }, by decide +kernel⟩

theorem witness_statefulLockGrant_14_6 : ∃ (stall ctx port idx : Nat) (x : Ctx) (s : State), getCtx s stall ctx = some x ∧ port < 4 ∧ port < x.ports.length ∧ (ctxPort x port).index = some idx ∧ (ctxPort x port).waiting = true ∧ ((∀ k : Nat, k < 4 → (ctxPort x k).heldWrite = none)) ∧ otherLocks s stall ctx idx = false :=
  ⟨3, 0, 1, 5, { ctx0 with ports := [noPort, { noPort with index := some 5, waiting := true }] }, stall3 { ctx0 with ports := [noPort, { noPort with index := some 5, waiting := true }] }, by decide +kernel⟩

theorem witness_statefulLockGrant_14_7 : ∃ (stall ctx port idx : Nat) (low : Bool) (v : BitVec 64) (x : Ctx) (s : State), getCtx s stall ctx = some x ∧ port < 4 ∧ port < x.ports.length ∧ (ctxPort x port).index = some idx ∧ (ctxPort x port).waiting = true ∧ (ctxPort x port).heldWrite = some (low, v) ∧ ((∀ k : Nat, k < 4 → k ≠ port → (ctxPort x k).waiting = false)) ∧ otherLocks s stall ctx idx = false ∧ (getStall s stall).hostWrites = [] :=
  ⟨3, 0, 1, 5, false, 7#64, { ctx0 with ports := [noPort, { noPort with index := some 5, waiting := true, heldWrite := some (false, 7#64) }] }, stall3 { ctx0 with ports := [noPort, { noPort with index := some 5, waiting := true, heldWrite := some (false, 7#64) }] }, by decide +kernel⟩

theorem witness_statefulReadData_14_8 : ∃ (stall ctx port : Nat) (v : BitVec 64) (x : Ctx) (s : State), getCtx s stall ctx = some x ∧ port < x.ports.length ∧ (ctxPort x port).reading = some v :=
  ⟨3, 0, 1, 7#64, { ctx0 with ports := [noPort, { noPort with index := some 5, reading := some 7#64 }] }, stall3 { ctx0 with ports := [noPort, { noPort with index := some 5, reading := some 7#64 }] }, by decide +kernel⟩

theorem witness_meterColour_14_9 : ∃ (stall ctx c : Nat) (red : Bool) (rest : List (Nat × Bool)) (x : Ctx) (s : State), getCtx s stall ctx = some x ∧ x.meters = (c, red) :: rest :=
  ⟨3, 0, 2, true, [], { ctx0 with meters := [(2, true)] }, stall3 { ctx0 with meters := [(2, true)] }, by decide +kernel⟩

theorem witness_parityReloadDone_14_10 : ∃ (stall : Nat) (s : State), (getStall s stall).paused = true :=
  ⟨3, { live with pipes := { live.pipes with stalls := [(3, { stallIdle with paused := true, reloads := [(96, 3, true)] })] } }, by decide +kernel⟩

theorem witness_stallDepart_14_11 : ∃ (stall : Nat) (x : Ctx) (rest : List Ctx) (s : State), (getStall s stall).ctxs = x :: rest ∧ x.finished = true ∧ stallDown s stall = false ∧ stallNum stall = true ∧ lastStall stall = false ∧ stallCredit s (stall + 1) = true :=
  ⟨3, { ctx0 with finished := true }, [], stall3 { ctx0 with finished := true }, by decide +kernel⟩

theorem witness_stallDepart_14_12 : ∃ (stall : Nat) (x : Ctx) (rest : List Ctx) (s : State), (getStall s stall).ctxs = x :: rest ∧ x.finished = true ∧ stallDown s stall = false ∧ stallNum stall = true ∧ lastStall stall = true ∧ x.copy = none :=
  ⟨19, { ctx0 with finished := true }, [], { live with pipes := { live.pipes with stalls := [(19, { stallIdle with ctxs := [{ ctx0 with finished := true }] })] } }, by decide +kernel⟩

theorem witness_stallDepart_14_13 : ∃ (stall : Nat) (x : Ctx) (c : Copy) (rest : List Ctx) (s : State), (getStall s stall).ctxs = x :: rest ∧ x.finished = true ∧ stallDown s stall = false ∧ stallNum stall = true ∧ lastStall stall = true ∧ x.copy = some c :=
  ⟨731, { ctx0 with finished := true, copy := some (copy0 0 0) }, copy0 0 0, [], { live with pipes := { live.pipes with stalls := [(731, { stallIdle with ctxs := [{ ctx0 with finished := true, copy := some (copy0 0 0) }] })] } }, by decide +kernel⟩

theorem witness_pipeQuiesce_15_0 : ∃ (p : Nat) (s : State), Inv s ∧ p < 72 ∧ s.top.inReset = false ∧ shut s (aPipe p 0) = false :=
  ⟨40, live, inv_of (by decide +kernel) rfl, by decide +kernel⟩

theorem witness_quiesced_15_1 : ∃ (p : Nat) (s : State), Inv s ∧ p < 72 ∧ regBit s (aPipe p 0) 0 = true ∧ regBit s (aPipe p 4) 1 = false ∧ pipeEmpty s p = true :=
  ⟨40, withRegs [(aPipe 40 0, 1#32)] live, inv_of (by decide +kernel) rfl, by decide +kernel⟩

theorem witness_stallHalt_15_2 : ∃ (stall : Nat) (halt : Bool) (s : State), Inv s ∧ stall < 1152 ∧ inDebug s = true ∧ s.top.inReset = false ∧ shut s (aStall stall 0) = false :=
  ⟨3, true, debug0, inv_of (by decide +kernel) rfl, by decide +kernel⟩

theorem witness_stallHalt_15_3 : ∃ (stall : Nat) (halt : Bool) (s : State), inDebug s = false :=
  ⟨3, true, live, by decide +kernel⟩

theorem witness_stallStep_15_4 : ∃ (stall i : Nat) (parityBad backingBad : Bool) (constErr : Option (Nat × Bool)) (x : Ctx) (s : State), stall < 1152 ∧ inDebug s = true ∧ s.top.inReset = false ∧ shut s (aStall stall 0) = false ∧ regBit s (aStall stall 0) 0 = true ∧ (getStall s stall).paused = false ∧ oldestReady s stall = some i ∧ getCtx s stall i = some x :=
  ⟨3, 0, false, false, none, ctx0, withRegs [(aStall 3 0, 1#32)] { debug0 with pipes := (stall3 ctx0).pipes }, by decide +kernel⟩

theorem witness_stallStep_15_5 : ∃ (stall : Nat) (parityBad backingBad : Bool) (constErr : Option (Nat × Bool)) (s : State), inDebug s = false :=
  ⟨3, false, false, none, live, by decide +kernel⟩

theorem witness_stateRead_15_6 : ∃ (stall : Nat) (value : Word) (s : State), Inv s ∧ stall < 1152 ∧ s.top.inReset = false ∧ shut s (aStall stall 0x10) = false :=
  ⟨3, 5#32, live, inv_of (by decide +kernel) rfl, by decide +kernel⟩

theorem witness_stateWrite_15_7 : ∃ (stall : Nat) (value : Word) (s : State), Inv s ∧ stall < 1152 ∧ s.top.inReset = false ∧ shut s (aStall stall 0x10) = false ∧ indexLocked s stall (fget value 15 0) = false :=
  ⟨3, 5#32, withRegs [(aStall 3 0x18, 7#32)] live, inv_of (by decide +kernel) rfl, by decide +kernel⟩

theorem witness_stateWrite_15_8 : ∃ (stall : Nat) (value : Word) (s : State), Inv s ∧ stall < 1152 ∧ s.top.inReset = false ∧ shut s (aStall stall 0x10) = false ∧ indexLocked s stall (fget value 15 0) = true :=
  ⟨3, 5#32, stall3 { ctx0 with ports := [{ noPort with index := some 5, locked := true }] }, inv_of (by decide +kernel) rfl, by decide +kernel⟩

theorem witness_meterRead_15_9 : ∃ (stall : Nat) (value : Word) (s : State), Inv s ∧ stall < 1152 ∧ s.top.inReset = false ∧ shut s (aStall stall 0x100) = false :=
  ⟨3, 5#32, live, inv_of (by decide +kernel) rfl, by decide +kernel⟩

theorem witness_meterWrite_15_10 : ∃ (stall : Nat) (value : Word) (s : State), Inv s ∧ stall < 1152 ∧ s.top.inReset = false ∧ shut s (aStall stall 0x100) = false ∧ meterOk ((List.range 4).map fun i => reg s (aStall stall (0x110 + 4 * i))) = true :=
  ⟨3, 5#32, withRegs [(aStall 3 0x110, 0x40000064#32)] live, inv_of (by decide +kernel) rfl, by decide +kernel⟩

theorem witness_meterWrite_15_11 : ∃ (stall : Nat) (value : Word) (s : State), stall < 1152 ∧ s.top.inReset = false ∧ shut s (aStall stall 0x100) = false ∧ meterOk ((List.range 4).map fun i => reg s (aStall stall (0x110 + 4 * i))) = false :=
  ⟨3, 5#32, withRegs [(aStall 3 0x110, 0xC0000064#32)] live, by decide +kernel⟩

theorem witness_ingressTail_16_0 : ∃ (g : Nat) (p : Packet) (s : State), g < 36 ∧ islandDown s g = false ∧ headAt s.pipes.toTail g = some p ∧ mdAct p = 2 ∧ p.whole = true ∧ tailDrop s g p = none :=
  ⟨0, setMdF pkt0 204 31 29 2, { live with pipes := { live.pipes with toTail := [(0, [setMdF pkt0 204 31 29 2])] } }, by decide +kernel⟩

theorem witness_ingressTail_16_1 : ∃ (g : Nat) (p : Packet) (s : State), g < 36 ∧ islandDown s g = false ∧ headAt s.pipes.toTail g = some p ∧ (mdAct p = 0 ∨ mdAct p = 3) :=
  ⟨0, pkt0, { live with pipes := { live.pipes with toTail := [(0, [pkt0])] } }, by decide +kernel⟩

theorem witness_ingressTail_16_2 : ∃ (g r : Nat) (p : Packet) (s : State), g < 36 ∧ islandDown s g = false ∧ headAt s.pipes.toTail g = some p ∧ (mdAct p ≠ 2 ∨ p.whole = true) ∧ tailDrop s g p = some r :=
  ⟨0, 2, setMdF pkt0 204 31 29 1, { live with pipes := { live.pipes with toTail := [(0, [setMdF pkt0 204 31 29 1])] } }, by decide +kernel⟩

theorem witness_dequeueDecision_16_3 : ∃ (g l pass q : Nat) (d : Store Int) (c : Copy) (rest : List Copy) (err : Option DataErr) (s : State), g < 36 ∧ islandDown s (36 + g) = false ∧ stallCredit (expireGroup s g) (720 + 12 * g) = true ∧ regBit (expireGroup s g) (aPipe (36 + g) 0) 0 = false ∧ nextPort (expireGroup s g) g = some l ∧ chooseQueue (expireGroup s g) l = some (pass, q, d) ∧ qEntries (expireGroup s g) q = c :: rest :=
  ⟨0, 0, 1, 0, [(0, 4096)], copy0 0 0, [], none, queued0, by decide +kernel⟩

theorem witness_egressTail_16_4 : ∃ (g : Nat) (c : Copy) (s : State), g < 36 ∧ islandDown s (36 + g) = false ∧ headAt s.pipes.toETail g = some c :=
  ⟨0, copy0 0 0, { live with pipes := { live.pipes with toETail := [(0, [copy0 0 0])] } }, by decide +kernel⟩

theorem witness_editor_16_5 : ∃ (g : Nat) (c : Copy) (s : State), g < 36 ∧ islandDown s (36 + g) = false ∧ headAt s.pipes.toEditor g = some c ∧ editArrived c = true :=
  ⟨0, copy0 0 0, { live with pipes := { live.pipes with toEditor := [(0, [copy0 0 0])] } }, by decide +kernel⟩

theorem witness_copyDeparture_16_6 : ∃ (port : Nat) (pcs : Stamp) (begun : Bool) (c : Copy) (s : State), headAt s.pipes.mac port = some c ∧ c.pkt.whole = true ∧ c.port = port ∧ sends s port begun = true ∧ tooSoon c pcs = false ∧ islandDown s (72 + port / 32) = false ∧ editedLen c ≤ 16383 ∧ (c.pkt.bad = 0 ∨ begun = true) :=
  ⟨0, { sec := 0, ns := 9, frac := 0 }, false, copy0 0 0, { port0 5 with pipes := { live.pipes with mac := [(0, [copy0 0 0])] } }, by decide +kernel⟩

theorem witness_copyDeparture_16_7 : ∃ (port : Nat) (pcs : Stamp) (c : Copy) (s : State), headAt s.pipes.mac port = some c ∧ c.pkt.whole = true ∧ c.port = port ∧ sends s port false = true ∧ tooSoon c pcs = false ∧ islandDown s (72 + port / 32) = false ∧ c.pkt.bad ≠ 0 :=
  ⟨0, { sec := 0, ns := 9, frac := 0 }, badCopy0, { port0 5 with pipes := { live.pipes with mac := [(0, [badCopy0])] } }, by decide +kernel⟩

theorem witness_copyDeparture_16_8 : ∃ (port : Nat) (pcs : Stamp) (begun : Bool) (err : DataErr) (c : Copy) (s : State), headAt s.pipes.mac port = some c ∧ c.pkt.whole = true ∧ c.port = port ∧ sends s port begun = true ∧ tooSoon c pcs = false ∧ islandDown s (72 + port / 32) = false ∧ (marketRead s c (some err)).2 = true :=
  ⟨0, { sec := 0, ns := 9, frac := 0 }, true, .uncorrectable 0 5, copy0 0 0, { port0 5 with pipes := { live.pipes with mac := [(0, [copy0 0 0])] } }, by decide +kernel⟩

theorem witness_pfcFrameReceived_17_0 : ∃ (port : Nat) (enable : BitVec 8) (times : List Nat) (isPause : Bool) (s : State), Inv s ∧ (portLanes s port).isSome = true ∧ carries s port = true :=
  ⟨0, 3#8, [5, 0], false, withRegs [(aPortState 0, 0x50400000#32)] { port0 5 with sched := { live.sched with force := [(aSPort 0 0x10, 0xFF00FFFF#32)] } }, inv_of (by decide +kernel) rfl, by decide +kernel⟩

theorem witness_pfcPauseExpiry_17_1 : ∃ (port prio : Nat) (s : State), prio < 8 :=
  ⟨0, 3, { live with sched := { live.sched with pauseEnd := [(prioKey 0 3, 90)] } }, by decide +kernel⟩

theorem witness_pfcFrameSend_17_2 : ∃ (port : Nat) (s : State), mapGet 0 s.sched.xoffDue port ≠ 0 ∧ carries s port = true :=
  ⟨0, { port0 5 with sched := { live.sched with xoffDue := [(0, 3)] } }, by decide +kernel⟩

theorem witness_pfcRefresh_17_3 : ∃ (port prio : Nat) (s : State), port < 1152 ∧ prio < 8 ∧ regBit s (aMPort port 8) prio = true ∧ (mapGet 0 s.sched.xoffDue port).testBit prio = false ∧ carries s port = true :=
  ⟨0, 1, withRegs [(aMPort 0 8, 3#32)] (port0 5), by decide +kernel⟩

theorem witness_pfcWatchdogTrip_17_4 : ∃ (port prio : Nat) (s : State), Inv s ∧ prio < 8 ∧ wdDue s port prio = true :=
  ⟨0, 3, { port0 5 with elapsed := 2000000000, sched := { live.sched with pauseEnd := [(prioKey 0 3, 90)], pausedSince := [(prioKey 0 3, 1)], force := [(aSPort 0 0x14, 0x00010000#32)] } }, inv_of (by decide +kernel) rfl, by decide +kernel⟩

theorem witness_pfcWatchdogHoldEnd_17_5 : ∃ (port prio : Nat) (s : State), prio < 8 ∧ wdHolding s port prio = true :=
  ⟨0, 3, { port0 5 with sched := { live.sched with wdHold := [(prioKey 0 3, 90)] } }, by decide +kernel⟩

theorem witness_portQWrite_17_7 : ∃ (lane : Nat) (value : Word) (s : State), Inv s ∧ lane < 1152 ∧ s.top.inReset = false ∧ shut s (aSPort lane 0) = false ∧ portEn s lane = false ∧ (((ownedLocal s lane).filter (fun j => !decide (fget value 24 16 ≤ j ∧ j < fget value 24 16 + fget value 6 0))).all (fun j => !queueBusy s (288 * (lane / 32) + j)) = true) ∧ fget value 6 0 ≤ 64 ∧ fget value 24 16 + fget value 6 0 ≤ 288 ∧ fget value 24 16 < 288 ∧ (headLanes s (lane / 32)).all (fun m => m == lane || !rangesMeet (fget value 24 16) (fget value 6 0) (qBase s m) (qCount s m)) = true :=
  ⟨3, 0x001B0008#32, live, inv_of (by decide +kernel) rfl, by decide +kernel⟩

theorem witness_portQWrite_17_8 : ∃ (lane : Nat) (value : Word) (s : State), Inv s ∧ lane < 1152 ∧ s.top.inReset = false ∧ shut s (aSPort lane 0) = false ∧ (portEn s lane = true ∨ ((ownedLocal s lane).filter (fun j => !decide (fget value 24 16 ≤ j ∧ j < fget value 24 16 + fget value 6 0))).any (fun j => queueBusy s (288 * (lane / 32) + j)) = true) :=
  ⟨0, 0x00100008#32, port0 5, inv_of (by decide +kernel) rfl, by decide +kernel⟩

theorem witness_portQWrite_17_9 : ∃ (lane : Nat) (value : Word) (s : State), Inv s ∧ lane < 1152 ∧ s.top.inReset = false ∧ shut s (aSPort lane 0) = false ∧ (64 < fget value 6 0 ∨ 288 < fget value 24 16 + fget value 6 0 ∨ 287 < fget value 24 16 ∨ (headLanes s (lane / 32)).any (fun m => m != lane && rangesMeet (fget value 24 16) (fget value 6 0) (qBase s m) (qCount s m)) = true) :=
  ⟨0, 0x00100041#32, port0 5, inv_of (by decide +kernel) rfl, by decide +kernel⟩

theorem witness_carveWrite_18_0 : ∃ (value : Word) (s : State), Inv s ∧ s.top.inReset = false ∧ shut s (aMkt 0) = false ∧ s.market.units = [] ∧ fget value 22 16 ≤ 64 ∧ fget value 9 0 ≤ 512 ∧ 8 * fget value 9 0 + 64 * fget value 22 16 ≤ 4096 ∧ drainReserve s ≤ 256 * (4096 - 8 * fget value 9 0 - 64 * fget value 22 16) :=
  ⟨0x00080080#32, live, inv_of (by decide +kernel) rfl, by decide +kernel⟩

theorem witness_carveWrite_18_1 : ∃ (value : Word) (s : State), Inv s ∧ s.top.inReset = false ∧ shut s (aMkt 0) = false ∧ (s.market.units ≠ [] ∨ 64 < fget value 22 16 ∨ 512 < fget value 9 0 ∨ 4096 < 8 * fget value 9 0 + 64 * fget value 22 16 ∨ 256 * (4096 - 8 * fget value 9 0 - 64 * fget value 22 16) < drainReserve s) :=
  ⟨0x00080080#32, buf0, inv_of (by decide +kernel) rfl, by decide +kernel⟩

theorem witness_reserveWrite_18_2 : ∃ (hdrm : Bool) (value : Word) (s : State), Inv s ∧ s.top.inReset = false ∧ shut s (aMkt (if hdrm then 0x14 else 0x10)) = false ∧ (if hdrm then drainReserve s else fget value 20 0) ≤ 256 * cellPool s ∧ (if hdrm then drainReserve s + fget value 20 0 else fget value 20 0 + hdrmReserve s) ≤ 1048576 :=
  ⟨true, 0x100#32, live, inv_of (by decide +kernel) rfl, by decide +kernel⟩

theorem witness_reserveWrite_18_3 : ∃ (hdrm : Bool) (value : Word) (s : State), Inv s ∧ s.top.inReset = false ∧ shut s (aMkt (if hdrm then 0x14 else 0x10)) = false ∧ (256 * cellPool s < (if hdrm then drainReserve s else fget value 20 0) ∨ 1048576 < (if hdrm then drainReserve s + fget value 20 0 else fget value 20 0 + hdrmReserve s)) :=
  ⟨false, 0x1FFFFF#32, live, inv_of (by decide +kernel) rfl, by decide +kernel⟩

theorem witness_bankRetire_18_4 : ∃ (bank : Nat) (value : Word) (s : State), Inv s ∧ bank < 256 ∧ s.top.inReset = false ∧ shut s (aBank bank 8) = false :=
  ⟨70, 1#32, live, inv_of (by decide +kernel) rfl, by decide +kernel⟩

theorem witness_auditSweep_18_5 : ∃ (s : State), Inv s ∧ regBit s (aMkt 0x40) 31 = true ∧ s.market.sweep = none :=
  ⟨live, inv_of (by decide +kernel) rfl, by decide +kernel⟩

theorem witness_auditSweepEnd_18_6 : ∃ (l : List Nat) (s : State), s.market.sweep = some l :=
  ⟨[3], { live with market := { live.market with sweep := some [3] } }, by decide +kernel⟩

theorem witness_bufAlloc_18_7 : ∃ (cmd : HostCmd) (s : State), Ready s cmd .bufAlloc ∧ (argN cmd 0 2 < 1 ∨ 16384 < argN cmd 0 2) :=
  ⟨cmd1 0x40 [], taken1 (cmd1 0x40 []), by unfold Ready; decide +kernel⟩

theorem witness_bufAlloc_18_8 : ∃ (cmd : HostCmd) (s : State), Inv s ∧ Ready s cmd .bufAlloc ∧ 1 ≤ argN cmd 0 2 ∧ argN cmd 0 2 ≤ 16384 :=
  ⟨cmd1 0x40 [64#8], taken1 (cmd1 0x40 [64#8]), inv_of (by decide +kernel) rfl, by unfold Ready; decide +kernel⟩

theorem witness_bufFree_18_9 : ∃ (cmd : HostCmd) (s : State), Inv s ∧ Ready s cmd .bufFree :=
  ⟨cmd1 0x41 [0#8], { buf0 with hif := (taken1 (cmd1 0x41 [0#8])).hif, regs := ring1.regs }, inv_of (by decide +kernel) rfl, by unfold Ready; decide +kernel⟩

theorem witness_bufSendIngress_18_10 : ∃ (cmd : HostCmd) (s : State), Ready s cmd .bufSendIngress ∧ sendArgsOk cmd = true ∧ (checkHandle s (argN cmd 0 4)).2 = stOk ∧ argN cmd 4 2 ≤ 256 * unitCells (unitTag s (argN cmd 0 4)).pool :=
  ⟨cmd1 0x42 [0#8, 0#8, 0#8, 0#8, 64#8], { buf0 with hif := (taken1 (cmd1 0x42 [0#8, 0#8, 0#8, 0#8, 64#8])).hif }, by unfold Ready; decide +kernel⟩

theorem witness_bufSendIngress_18_11 : ∃ (cmd : HostCmd) (s : State), Inv s ∧ Ready s cmd .bufSendIngress ∧ (sendArgsOk cmd = false ∨ (checkHandle s (argN cmd 0 4)).2 ≠ stOk ∨ 256 * unitCells (unitTag s (argN cmd 0 4)).pool < argN cmd 4 2) :=
  ⟨cmd1 0x42 [], taken1 (cmd1 0x42 []), inv_of (by decide +kernel) rfl, by unfold Ready; decide +kernel⟩

theorem witness_bufSendEgress_18_12 : ∃ (cmd : HostCmd) (s : State), Inv s ∧ Ready s cmd .bufSendEgress ∧ sendArgsOk cmd = true ∧ (checkHandle s (argN cmd 0 4)).2 = stOk ∧ argN cmd 4 2 ≤ 256 * unitCells (unitTag s (argN cmd 0 4)).pool :=
  ⟨cmd1 0x42 [0#8, 0#8, 0#8, 0#8, 64#8, 0#8, 1#8], { buf0 with hif := (taken1 (cmd1 0x42 [0#8, 0#8, 0#8, 0#8, 64#8, 0#8, 1#8])).hif }, inv_of (by decide +kernel) rfl, by unfold Ready; decide +kernel⟩

theorem witness_bufSendEgress_18_13 : ∃ (cmd : HostCmd) (s : State), Inv s ∧ Ready s cmd .bufSendEgress ∧ (sendArgsOk cmd = false ∨ (checkHandle s (argN cmd 0 4)).2 ≠ stOk ∨ 256 * unitCells (unitTag s (argN cmd 0 4)).pool < argN cmd 4 2) :=
  ⟨cmd1 0x42 [0#8, 0#8, 0#8, 0#8, 0#8, 0#8, 1#8], taken1 (cmd1 0x42 [0#8, 0#8, 0#8, 0#8, 0#8, 0#8, 1#8]), inv_of (by decide +kernel) rfl, by unfold Ready; decide +kernel⟩

theorem witness_pageFlushTimer_19_0 : ∃ (queue : Nat) (s : State), (getSpq s queue).spilling = true ∧ (getSpq s queue).cut < readyBytes (getSpq s queue).staging :=
  ⟨5, spill5, by decide +kernel⟩

theorem witness_pageWriteStart_19_1 : ∃ (queue tag : Nat) (page : Nat × Option Nat) (s : State), canMove s (getSpq s queue) queue = true ∧ ((getSpq s queue).flush = true ∨ pageRoom page.2 ≤ readyBytes (getSpq s queue).staging - (getSpq s queue).cut) ∧ freeTag s (getSpq s queue).stack = some tag ∧ (getSpq s queue).openPage = some page ∧ readyBytes (getSpq s queue).staging - (getSpq s queue).cut ≠ 0 :=
  ⟨5, 0, (300, none), { spill5 with spill := { spill5.spill with q := [(5, { (getSpq spill5 5) with flush := true })] } }, by decide +kernel⟩

theorem witness_pageWriteCommit_19_2 : ∃ (stack tag : Nat) (failedCh : List Nat) (x : Xfer) (s : State), findXfer s stack tag = some x ∧ x.kind = .write ∧ islandDown s 121 = false ∧ stackUsable s stack = true :=
  ⟨0, 9, [], xfer0 .write, { spill5 with spill := { spill5.spill with xfers := [xfer0 .write] } }, by decide +kernel⟩

theorem witness_pageReadStart_19_3 : ∃ (queue tag : Nat) (p : Page) (rest : List Page) (s : State), canMove s (getSpq s queue) queue = true ∧ occOf s queue + 21 * readsOf s queue < regF s (aQspill queue 12) 20 0 ∧ (getSpq s queue).pages = p :: rest ∧ isNext s queue p.seq = true ∧ freeTag s (getSpq s queue).stack = some tag ∧ (drainUnits s p.ends).isSome = true :=
  ⟨5, 0, page0, [], { spill5 with spill := { spill5.spill with q := [(5, { (getSpq spill5 5) with pages := [page0] })] } }, by decide +kernel⟩

theorem witness_pageReadStart_19_4 : ∃ (queue : Nat) (s : State), Inv s ∧ canMove s (getSpq s queue) queue = true ∧ occOf s queue + 21 * readsOf s queue < regF s (aQspill queue 12) 20 0 ∧ (getSpq s queue).pages = [] ∧ s.spill.xfers.any (fun f => f.queue == queue && f.kind == .write) = false ∧ (getSpq s queue).cut < readyBytes (getSpq s queue).staging ∧ (drainUnits s (formPage s queue).1.ends).isSome = true :=
  ⟨5, spill5, inv_of (by decide +kernel) rfl, by decide +kernel⟩

theorem witness_pageReadCommit_19_5 : ∃ (stack tag : Nat) (x : Xfer) (s : State), findXfer s stack tag = some x ∧ x.kind = .read ∧ x.done = none ∧ islandDown s 121 = false ∧ stackUsable s stack = true ∧ retiredCh s stack = 0 ∧ x.page.bad = [] ∧ s.spill.xfers = [x] :=
  ⟨0, 9, { xfer0 .read with page := { page0 with seq := 4 } }, { spill5 with spill := { spill5.spill with xfers := [{ xfer0 .read with page := { page0 with seq := 4 } }] } }, by decide +kernel⟩

theorem witness_chRetire_19_6 : ∃ (stack : Nat) (value : Word) (s : State), Inv s ∧ stack < 2 ∧ s.top.inReset = false ∧ shut s (aStack stack 8) = false :=
  ⟨1, 0x80000003#32, live, inv_of (by decide +kernel) rfl, by decide +kernel⟩

theorem witness_stackLost_19_7 : ∃ (stack : Nat) (s : State), Inv s ∧ stack < 2 ∧ stackLostBit s stack = false :=
  ⟨1, live, inv_of (by decide +kernel) rfl, by decide +kernel⟩

theorem witness_hbmNoResponse_19_8 : ∃ (stack tag : Nat) (s : State), Inv s ∧ stack < 2 ∧ (findXfer s stack tag).isSome = true ∧ stackLostBit s stack = false :=
  ⟨0, 9, { live with spill := { live.spill with xfers := [xfer0 .read] } }, inv_of (by decide +kernel) rfl, by decide +kernel⟩

theorem witness_hbmRefresh_19_9 : ∃ (stack ch temp : Nat) (s : State), Inv s ∧ stack < 2 ∧ ch < 16 :=
  ⟨1, 3, 90, live, inv_of (by decide +kernel) rfl, by decide +kernel⟩

theorem witness_patrolScrub_19_10 : ∃ (stack page ch : Nat) (corr uncorr : Bool) (s : State), Inv s ∧ stack < 2 ∧ ch < 16 ∧ stackUsable s stack = true ∧ regF s (aSpl 0x18) 7 0 ≠ 0 ∧ (retiredCh s stack).testBit ch = false :=
  ⟨1, 500, 3, true, false, live, inv_of (by decide +kernel) rfl, by decide +kernel⟩

theorem witness_diagCellRead_19_11 : ∃ (stack : Nat) (value : Word) (s : State), Inv s ∧ stack < 2 ∧ s.top.inReset = false ∧ shut s (aStack stack 0x20) = false ∧ fget value 22 0 ≤ 6291455 :=
  ⟨1, 0x40800100#32, live, inv_of (by decide +kernel) rfl, by decide +kernel⟩

theorem witness_diagCellWrite_19_12 : ∃ (stack : Nat) (value : Word) (s : State), Inv s ∧ stack < 2 ∧ s.top.inReset = false ∧ shut s (aStack stack 0x20) = false ∧ fget value 22 0 ≤ 6291455 :=
  ⟨1, 0x80800100#32, debug0, inv_of (by decide +kernel) rfl, by decide +kernel⟩

theorem witness_watchdogPageFree_19_13 : ∃ (queue : Nat) (s : State), (getSpq s queue).spilling = true ∧ ((getSpq s queue).pages.any (·.selected) = true ∨ (getSpq s queue).staging.any (·.copy.selected) = true ∨ s.spill.xfers.any (fun f => f.queue == queue && f.page.selected) = true) :=
  ⟨5, { live with spill := { live.spill with q := [(5, { spqIdle with spilling := true, pages := [{ page0 with selected := true }] })] } }, by decide +kernel⟩

theorem witness_tblSearch_20_0 : ∃ (cmd : HostCmd) (s : State), Ready s cmd .tblSearch :=
  ⟨cmd1 0x10 [2#8], taken1 (cmd1 0x10 [2#8]), by unfold Ready; decide +kernel⟩

theorem witness_tblNext_20_1 : ∃ (cmd : HostCmd) (s : State), Ready s cmd .tblNext :=
  ⟨cmd1 0x11 [2#8], taken1 (cmd1 0x11 [2#8]), by unfold Ready; decide +kernel⟩

theorem witness_tblInsert_20_2 : ∃ (cmd : HostCmd) (s : State), Ready s cmd .tblInsert :=
  ⟨cmd1 0x12 [2#8], taken1 (cmd1 0x12 [2#8]), by unfold Ready; decide +kernel⟩

theorem witness_tblUpdate_20_3 : ∃ (cmd : HostCmd) (s : State), Ready s cmd .tblUpdate :=
  ⟨cmd1 0x13 [2#8], taken1 (cmd1 0x13 [2#8]), by unfold Ready; decide +kernel⟩

theorem witness_tblDelete_20_4 : ∃ (cmd : HostCmd) (s : State), Ready s cmd .tblDelete :=
  ⟨cmd1 0x14 [2#8], taken1 (cmd1 0x14 [2#8]), by unfold Ready; decide +kernel⟩

theorem witness_tblFlushPort_20_5 : ∃ (cmd : HostCmd) (s : State), Ready s cmd .tblFlushPort :=
  ⟨cmd1 0x15 [2#8], taken1 (cmd1 0x15 [2#8]), by unfold Ready; decide +kernel⟩

theorem witness_tblRead_20_6 : ∃ (cmd : HostCmd) (s : State), Ready s cmd .tblRead :=
  ⟨cmd1 0x16 [2#8], taken1 (cmd1 0x16 [2#8]), by unfold Ready; decide +kernel⟩

theorem witness_clerkIssue_20_7 : ∃ (p : ClerkPick) (s : State), clerkNext s = some p :=
  ⟨.learn, { live with clerk := { live.clerk with learn := [{ table := 2, key := 9, port := 3 }] } }, by decide +kernel⟩

theorem witness_clerkOpInForce_20_8 : ∃ (x : Issued) (rest : List Issued) (s : State), s.clerk.inFlight = x :: rest ∧ ((∀ h : Nat, h < 9 → islandDown s (112 + h) = false)) :=
  ⟨issued0, [], { live with clerk := { live.clerk with inFlight := [issued0] } }, by decide +kernel⟩

theorem witness_learnInstall_20_9 : ∃ (r : LearnReq) (rest : List LearnReq) (s : State), clerkNext s = some .learn ∧ s.clerk.learn = r :: rest :=
  ⟨{ table := 2, key := 9, port := 3 }, [], { live with clerk := { live.clerk with learn := [{ table := 2, key := 9, port := 3 }] } }, by decide +kernel⟩

theorem witness_flapHoldEnd_20_10 : ∃ (table handle : Nat) (e : Entry) (s : State), findEntry s table handle = some e ∧ e.pinned = true :=
  ⟨2, 5, { entry0 with pinned := true }, table2 { entry0 with pinned := true }, by decide +kernel⟩

theorem witness_ageVisit_20_11 : ∃ (table handle : Nat) (e : Entry) (s : State), ageable s table handle = true ∧ findEntry s table handle = some e :=
  ⟨2, 5, entry0, table2 entry0, by decide +kernel⟩

theorem witness_ageRemove_20_12 : ∃ (table handle : Nat) (s : State), s.clerk.remove.head? = some (table, handle) ∧ clerkNext s = some .age :=
  ⟨2, 5, { table2 { entry0 with armed := 0x1FF } with clerk := { live.clerk with remove := [(2, 5)] } }, by decide +kernel⟩

theorem witness_ageRestore_20_13 : ∃ (table handle : Nat) (s : State), s.clerk.restore.head? = some (table, handle) ∧ clerkNext s = some .restore :=
  ⟨2, 5, { table2 { entry0 with gone := 3, hit := 7 } with clerk := { live.clerk with restore := [(2, 5)] } }, by decide +kernel⟩

theorem witness_descWrite_20_14 : ∃ (n : Nat) (value : Word) (s : State), Inv s ∧ n < 64 ∧ s.top.inReset = false ∧ crossingShut s 112 = false ∧ ClerkFree s :=
  ⟨3, 0x00100010#32, live, inv_of (by decide +kernel) rfl, by unfold ClerkFree; decide +kernel⟩

theorem witness_descWrite_20_15 : ∃ (n : Nat) (value : Word) (s : State), Inv s ∧ n < 64 ∧ s.top.inReset = false ∧ crossingShut s 112 = false ∧ ClerkFree s :=
  ⟨3, 0x80100000#32, live, inv_of (by decide +kernel) rfl, by unfold ClerkFree; decide +kernel⟩

theorem witness_hashCfgWrite_20_16 : ∃ (k : Nat) (value : Word) (s : State), Inv s ∧ k < 16 ∧ s.top.inReset = false ∧ crossingShut s 112 = false ∧ ClerkFree s :=
  ⟨3, 0x80000005#32, live, inv_of (by decide +kernel) rfl, by unfold ClerkFree; decide +kernel⟩

theorem witness_replicaRepair_20_17 : ∃ (hall row : Nat) (entries : List (Nat × Nat)) (allBad : Bool) (s : State), s.clerk.repair.head? = some (hall, row) ∧ clerkNext s = some .repair :=
  ⟨3, 77, [], false, { live with clerk := { live.clerk with repair := [(3, 77)] } }, by decide +kernel⟩

theorem witness_tableScrub_20_18 : ∃ (hall row : Nat) (corr uncorr : Bool) (s : State), Inv s ∧ hall < 9 ∧ islandDown s (112 + hall) = false :=
  ⟨3, 77, true, false, live, inv_of (by decide +kernel) rfl, by decide +kernel⟩

theorem witness_rawRowRead_20_19 : ∃ (hall : Nat) (value : Word) (s : State), Inv s ∧ hall < 9 ∧ s.top.inReset = false ∧ shut s (aTbl hall 0x100) = false ∧ fget value 20 0 ≤ 1572863 :=
  ⟨3, 0x40000005#32, { live with tables := { live.tables with raw := [(3 * 2 ^ 21 + 5, [7#32])] } }, inv_of (by decide +kernel) rfl, by decide +kernel⟩

theorem witness_rawRowWrite_20_20 : ∃ (hall : Nat) (value : Word) (s : State), Inv s ∧ hall < 9 ∧ s.top.inReset = false ∧ shut s (aTbl hall 0x100) = false ∧ fget value 20 0 ≤ 1572863 :=
  ⟨3, 0x80000005#32, debug0, inv_of (by decide +kernel) rfl, by decide +kernel⟩

theorem witness_timeSetSet_21_0 : ∃ (cmd : HostCmd) (s : State), Ready s cmd .timeSet :=
  ⟨cmd1 0x90 [0#8, 0#8, 0#8, 0#8, 0#8, 0#8, 0#8, 0#8, 5#8], taken1 (cmd1 0x90 [0#8, 0#8, 0#8, 0#8, 0#8, 0#8, 0#8, 0#8, 5#8]), by unfold Ready; decide +kernel⟩

theorem witness_timeSetStep_21_1 : ∃ (cmd : HostCmd) (s : State), Ready s cmd .timeStep :=
  ⟨cmd1 0x90 [1#8], taken1 (cmd1 0x90 [1#8]), by unfold Ready; decide +kernel⟩

theorem witness_timeSetSlew_21_2 : ∃ (cmd : HostCmd) (s : State), Ready s cmd .timeSlew :=
  ⟨cmd1 0x90 [2#8], taken1 (cmd1 0x90 [2#8]), by unfold Ready; decide +kernel⟩

theorem witness_slewComplete_21_3 : ∃ (s : State), Inv s ∧ s.clock.slewing = true ∧ s.clock.slewLeft = 0 :=
  ⟨{ live with clock := { live.clock with slewing := true, slewLeft := 0 } }, inv_of (by decide +kernel) rfl, by decide +kernel⟩

theorem witness_scheduledEventFire_21_4 : ∃ (n : Nat) (p : Pulse) (s : State), s.prg.groups = [] ∧ s.slots = [] ∧ s.pulses = [(n, p)] ∧ p.mode ≠ 0 ∧ p.high = false ∧ edgeAt p ≤ clkNs s ∧ s.telem.snapJob = [] :=
  ⟨2, { noPulse with mode := 1, width := 5 }, { live with pulses := [(2, { noPulse with mode := 1, width := 5 })] }, by decide +kernel⟩

theorem witness_scheduledEventFire_21_5 : ∃ (d : Dom) (rest : List Dom) (g : CommitGrp) (n : Nat) (s : State), s.prg.groups = [g] ∧ g.t = some n ∧ g.doms = d :: rest ∧ n ≤ clkNs s ∧ s.slots = [] ∧ s.pulses = [] ∧ s.telem.snapJob = [] :=
  ⟨.ing, [.egr], group0 (some 0) false, 0, { live with prg := { live.prg with groups := [group0 (some 0) false] } }, by decide +kernel⟩

theorem witness_scheduledEventFire_21_6 : ∃ (l : Nat) (x : SlotPair) (s : State), s.prg.groups = [] ∧ s.slots = [(l, x)] ∧ switchDue s l = true ∧ s.pulses = [] ∧ s.telem.snapJob = [] :=
  ⟨3, { noSlots with armed := some 0 }, { live with slots := [(3, { noSlots with armed := some 0 })] }, by decide +kernel⟩

theorem witness_nowNsRead_21_7 : ∃ (rq : Requester) (s : State), canAccess s rq = true :=
  ⟨.core 1, live, by decide +kernel⟩

theorem witness_freqWrite_21_8 : ∃ (value : Word) (s : State), Inv s ∧ s.top.inReset = false ∧ shut s (aTim 4) = false :=
  ⟨0x1000#32, live, inv_of (by decide +kernel) rfl, by decide +kernel⟩

theorem witness_refSelWrite_21_9 : ∃ (value : Word) (s : State), Inv s ∧ s.top.inReset = false ∧ shut s (aTim 0) = false :=
  ⟨1#32, live, inv_of (by decide +kernel) rfl, by decide +kernel⟩

theorem witness_referenceLost_21_10 : ∃ (s : State), Inv s ∧ s.clock.running = true ∧ regBit s (aTim 0) 30 = false :=
  ⟨live, inv_of (by decide +kernel) rfl, by decide +kernel⟩

theorem witness_timeLock_21_11 : ∃ (s : State), Inv s ∧ s.clock.running = true ∧ regBit s (aTim 0) 31 = false :=
  ⟨live, inv_of (by decide +kernel) rfl, by decide +kernel⟩

theorem witness_captureEdge_21_12 : ∃ (n : Nat) (falling : Bool) (s : State), Inv s ∧ n < 3 ∧ regBit s (aTim (0x100 + 0x20 * n)) (b2n falling) = true ∧ regBit s (aTim (0x104 + 0x20 * n)) 31 = false :=
  ⟨1, true, withRegs [(aTim 0x120, 2#32)] live, inv_of (by decide +kernel) rfl, by decide +kernel⟩

theorem witness_captureEdge_21_13 : ∃ (n : Nat) (falling : Bool) (s : State), Inv s ∧ n < 3 ∧ regBit s (aTim (0x100 + 0x20 * n)) (b2n falling) = true ∧ regBit s (aTim (0x104 + 0x20 * n)) 31 = true :=
  ⟨1, true, withRegs [(aTim 0x120, 2#32), (aTim 0x124, 0x80000000#32)] live, inv_of (by decide +kernel) rfl, by decide +kernel⟩

theorem witness_pulseArm_22_0 : ∃ (n : Nat) (value : Word) (s : State), Inv s ∧ n < 4 ∧ s.top.inReset = false ∧ shut s (aTim (0x200 + 0x20 * n)) = false ∧ (fget value 31 30 = 1 ∨ fget value 31 30 = 2) :=
  ⟨1, 0xA0000000#32, withRegs [(aTim 0x230, 9#32)] live, inv_of (by decide +kernel) rfl, by decide +kernel⟩

theorem witness_pulseStop_22_1 : ∃ (n : Nat) (value : Word) (s : State), Inv s ∧ n < 4 ∧ s.top.inReset = false ∧ shut s (aTim (0x200 + 0x20 * n)) = false ∧ fget value 31 30 = 0 :=
  ⟨1, 0#32, { live with pulses := [(1, { noPulse with mode := 2, high := true })] }, inv_of (by decide +kernel) rfl, by decide +kernel⟩

theorem witness_pulseEdge_22_2 : ∃ (n : Nat) (s : State), (getPulse s n).mode ≠ 0 ∧ (getPulse s n).high = false ∧ edgeAt (getPulse s n) ≤ clkNs s :=
  ⟨1, { live with pulses := [(1, { noPulse with mode := 2 })] }, by decide +kernel⟩

theorem witness_pulseEdge_22_3 : ∃ (n : Nat) (s : State), Inv s ∧ (getPulse s n).high = true ∧ edgeAt (getPulse s n) ≤ clkNs s :=
  ⟨1, { live with pulses := [(1, { noPulse with mode := 1, high := true })] }, inv_of (by decide +kernel) rfl, by decide +kernel⟩

theorem witness_slotStageWrite_22_4 : ∃ (cmd : HostCmd) (s : State), Ready s cmd .slotWrite :=
  ⟨{ cmd1 0x50 [0#8, 0#8, 3#8] with dataLen := 64, data := List.replicate 12 0#8 ++ [0xE8#8, 3#8] }, taken1 { cmd1 0x50 [0#8, 0#8, 3#8] with dataLen := 64, data := List.replicate 12 0#8 ++ [0xE8#8, 3#8] }, by unfold Ready; decide +kernel⟩

theorem witness_slotStageArm_22_5 : ∃ (cmd : HostCmd) (s : State), Ready s cmd .slotArm :=
  ⟨cmd1 0x50 [1#8, 0#8, 3#8], taken1 (cmd1 0x50 [1#8, 0#8, 3#8]), by unfold Ready; decide +kernel⟩

theorem witness_slotStageCancel_22_6 : ∃ (cmd : HostCmd) (s : State), Ready s cmd .slotCancel :=
  ⟨cmd1 0x50 [2#8, 0#8, 3#8], { taken1 (cmd1 0x50 [2#8, 0#8, 3#8]) with slots := [(3, { noSlots with armed := some 5000 })] }, by unfold Ready; decide +kernel⟩

theorem witness_slotStageRead_22_7 : ∃ (cmd : HostCmd) (s : State), Ready s cmd .slotRead :=
  ⟨{ cmd1 0x50 [3#8, 0#8, 3#8] with dataLen := 4160 }, taken1 { cmd1 0x50 [3#8, 0#8, 3#8] with dataLen := 4160 }, by unfold Ready; decide +kernel⟩

theorem witness_slotSwitch_22_8 : ∃ (lane : Nat) (s : State), Inv s ∧ switchDue s lane = true :=
  ⟨3, { live with slots := [(3, { noSlots with armed := some 0 })] }, inv_of (by decide +kernel) rfl, by decide +kernel⟩

theorem witness_slotEntryBoundary_22_9 : ∃ (lane : Nat) (s : State), Inv s ∧ lane < 1152 :=
  ⟨3, live, inv_of (by decide +kernel) rfl, by decide +kernel⟩

theorem witness_protectedSpanStart_22_10 : ∃ (lane : Nat) (s : State), Inv s ∧ lane < 1152 :=
  ⟨3, live, inv_of (by decide +kernel) rfl, by decide +kernel⟩

theorem witness_protectedSpanEnd_22_11 : ∃ (lane : Nat) (s : State), Inv s ∧ lane < 1152 :=
  ⟨3, { live with scales := { live.scales with deferrals := [{ pipe := 0, since := 0, wanted := false, paused := none }] } }, inv_of (by decide +kernel) rfl, by decide +kernel⟩

theorem witness_ainumSend_23_0 : ∃ (port idle : Nat) (pcs : Stamp) (m : AinMsg) (s : State), ainLive s port = true ∧ ainNext s port (ainIdle s port idle) = some m :=
  ⟨0, 5, { sec := 0, ns := 0, frac := 0 }, mkMsg 3 0 9 0, ainPend (mkMsg 3 0 9 0), by decide +kernel⟩

theorem witness_ainumSend_23_1 : ∃ (port idle : Nat) (pcs : Stamp) (s : State), ainLive s port = true ∧ ainNext s port (ainIdle s port idle) = none :=
  ⟨0, 5, { sec := 0, ns := 0, frac := 0 }, ladder0, by decide +kernel⟩

theorem witness_helloTimer_23_2 : ∃ (port : Nat) (s : State), ainLive s port = true ∧ trngUp s = true :=
  ⟨0, ladder0, by decide +kernel⟩

theorem witness_helloTimer_23_3 : ∃ (port : Nat) (s : State), ainLive s port = true ∧ trngUp s = false :=
  ⟨0, setBit ladder0 (aSec 0) 31 false, by decide +kernel⟩

theorem witness_hello_23_4 : ∃ (port : Nat) (msg : AinMsg) (s : State), Inv s ∧ Accepted s port 1 msg ∧ msg.arg.testBit 5 = ainAuth s ∧ nbits msg.payload 143 80 ≠ s.top.fuses.selfId % 2 ^ 64 :=
  ⟨0, heard 1 6 0 (77 * 2 ^ 80), ladder0, inv_of (by decide +kernel) rfl, by unfold Accepted; decide +kernel⟩

theorem witness_hello_23_5 : ∃ (port : Nat) (msg : AinMsg) (s : State), Inv s ∧ Accepted s port 1 msg ∧ msg.arg.testBit 5 = ainAuth s ∧ nbits msg.payload 143 80 = s.top.fuses.selfId % 2 ^ 64 :=
  ⟨0, heard 1 6 0 (2 ^ 80), withRegs [(aAinPort 0 4, 0#32)] ladder0, inv_of (by decide +kernel) rfl, by unfold Accepted; decide +kernel⟩

theorem witness_hello_23_6 : ∃ (port : Nat) (msg : AinMsg) (s : State), Accepted s port 1 msg ∧ msg.arg.testBit 5 ≠ ainAuth s :=
  ⟨0, heard 1 6 32 (2 ^ 80), ladder0, by unfold Accepted; decide +kernel⟩

theorem witness_hello_23_7 : ∃ (port : Nat) (msg : AinMsg) (s : State), Inv s ∧ ainLive s port = true ∧ msg.type = 1 :=
  ⟨0, { heard 1 6 0 (2 ^ 80) with check := 1 }, ladder0, inv_of (by decide +kernel) rfl, by decide +kernel⟩

theorem witness_confirm_23_8 : ∃ (port : Nat) (msg : AinMsg) (s : State), Inv s ∧ Accepted s port 2 msg ∧ ainAuth s = true ∧ looped s port = false :=
  ⟨0, sealed0, keyed0, inv_of (by decide +kernel) rfl, accepted_sealed, by decide +kernel⟩

theorem witness_confirm_23_9 : ∃ (port : Nat) (msg : AinMsg) (s : State), Inv s ∧ ainLive s port = true ∧ ainAuth s = true ∧ msg.type = 2 ∧ msg.len = 0 ∧ msg.cut = false ∧ (ainReceive s port msg).2 = false :=
  ⟨0, sealed0, withRegs [(aAin 0, 0x80000000#32), (aPortState 0, 0x38200000#32)] ladder0, inv_of (by decide +kernel) rfl, by decide +kernel⟩

theorem witness_stepPropose_23_10 : ∃ (port : Nat) (msg : AinMsg) (s : State), Accepted s port 3 msg ∧ mayStep s port = true ∧ looped s port = false ∧ ainPeer s port = true ∧ fwRuns s = true :=
  ⟨0, heard 3 0 9 0, ladder0, by unfold Accepted; decide +kernel⟩

theorem witness_stepPropose_23_11 : ∃ (port : Nat) (msg : AinMsg) (s : State), Accepted s port 3 msg ∧ mayStep s port = true ∧ looped s port = false ∧ ainPeer s port = true ∧ fwRuns s = false :=
  ⟨0, heard 3 0 9 0, withRegs [(0x40, 0#32)] ladder0, by unfold Accepted; decide +kernel⟩

theorem witness_stepAck_23_12 : ∃ (port : Nat) (msg : AinMsg) (s : State), Accepted s port 4 msg ∧ mayStep s port = true :=
  ⟨0, heard 4 0 9 0, modPort ladder0 0 fun x => { x with proposed := some 9 }, by unfold Accepted; decide +kernel⟩

theorem witness_timeSyncTimer_23_13 : ∃ (port : Nat) (s : State), ainLive s port = true ∧ ainPeer s port = true ∧ regBit s (aAinPort port 0) 29 = true ∧ regF s (aAin 0x10) 7 0 ≠ 0 ∧ timeInitiator s port = true :=
  ⟨0, withRegs [(aAinPort 0 0, 0x60000000#32), (aAin 0x10, 1#32)] ladder0, by decide +kernel⟩

theorem witness_timeSync_23_14 : ∃ (port : Nat) (msg : AinMsg) (t2 : Stamp) (s : State), Accepted s port 5 msg :=
  ⟨0, heard 5 4 1 0, { sec := 0, ns := 0, frac := 0 }, ladder0, by unfold Accepted; decide +kernel⟩

theorem witness_timeReply_23_15 : ∃ (port : Nat) (msg : AinMsg) (t4 : Stamp) (b : Nat) (s : State), Inv s ∧ Accepted s port 6 msg ∧ (getAin s port).t1 = some b :=
  ⟨0, heard 6 8 0 0, { sec := 0, ns := 0, frac := 0 }, 5, setAin ladder0 0 { noAin with t1 := some 5 }, inv_of (by decide +kernel) rfl, by unfold Accepted; decide +kernel⟩

theorem witness_peerTimeout_23_16 : ∃ (port : Nat) (s : State), Inv s ∧ port < 1152 ∧ ainPeer s port = true :=
  ⟨0, ladder0, inv_of (by decide +kernel) rfl, by decide +kernel⟩

theorem witness_token_24_0 : ∃ (port : Nat) (msg : AinMsg) (s : State), Inv s ∧ Accepted s port 7 msg ∧ (ainRole s port = 1 ∨ ainRole s port = 3) ∧ knownToken s msg = false :=
  ⟨0, heard 7 5 0 0, withRegs [(aAinPort 0 0, 0x40000000#32)] ladder0, inv_of (by decide +kernel) rfl, by unfold Accepted; decide +kernel⟩

theorem witness_token_24_1 : ∃ (port : Nat) (msg : AinMsg) (s : State), Inv s ∧ Accepted s port 7 msg ∧ (ainRole s port = 1 ∨ ainRole s port = 3) ∧ knownToken s msg = true :=
  ⟨0, heard 7 5 0 0, { withRegs [(aAinPort 0 0, 0x40000000#32)] ladder0 with ainum := { ports := [], tokens := [(0, 0, 0)], goLeft := [] } }, inv_of (by decide +kernel) rfl, by unfold Accepted; decide +kernel⟩

theorem witness_token_24_2 : ∃ (port : Nat) (msg : AinMsg) (s : State), Inv s ∧ Accepted s port 7 msg ∧ ainRole s port = 2 :=
  ⟨0, heard 7 5 0 0, withRegs [(aAinPort 0 0, 0x80000000#32)] ladder0, inv_of (by decide +kernel) rfl, by unfold Accepted; decide +kernel⟩

theorem witness_token_24_3 : ∃ (port : Nat) (msg : AinMsg) (s : State), Accepted s port 7 msg ∧ ainRole s port = 0 :=
  ⟨0, heard 7 5 0 0, ladder0, by unfold Accepted; decide +kernel⟩

theorem witness_tokenGo_24_4 : ∃ (s : State), Inv s ∧ s.top.inReset = false ∧ shut s (aAin 0x34) = false ∧ regBit s (aAin 0x34) 30 = false :=
  ⟨live, inv_of (by decide +kernel) rfl, by decide +kernel⟩

theorem witness_tokenGo_24_5 : ∃ (s : State), s.top.inReset = false ∧ shut s (aAin 0x34) = false ∧ regBit s (aAin 0x34) 30 = true :=
  ⟨withRegs [(aAin 0x34, 0x40000000#32)] live, by decide +kernel⟩

theorem witness_capNotice_24_6 : ∃ (port : Nat) (msg : AinMsg) (s : State), Inv s ∧ Accepted s port 8 msg :=
  ⟨0, heard 8 3 1 0, ladder0, inv_of (by decide +kernel) rfl, by unfold Accepted; decide +kernel⟩

theorem witness_flowEvictTimer_25_0 : ∃ (g slot : Nat) (f : Flow) (s : State), Inv s ∧ flowAt s (g * 16384 + slot) = some f ∧ g < 36 ∧ slot < 16384 :=
  ⟨2, 5, flow0, withRegs [(aTal 0x14, 0#32)] { live with telem := { live.telem with flows := [(32773, some flow0)] } }, inv_of (by decide +kernel) rfl, by decide +kernel⟩

theorem witness_flowFlush_25_1 : ∃ (s : State), s.top.inReset = false ∧ shut s (aTal 0x18) = false :=
  ⟨{ live with telem := { live.telem with flows := [(32773, some flow0)] } }, by decide +kernel⟩

theorem witness_exportRecordForm_25_2 : ∃ (r : ExpRec) (rest : List ExpRec) (s : State), s.telem.backlog = r :: rest :=
  ⟨.flow flow0, [], { live with telem := { live.telem with backlog := [.flow flow0], openMsg := List.replicate 40 (.flow flow0) } }, by decide +kernel⟩

theorem witness_exportFlushTimer_25_3 : ∃ (s : State), s.telem.openMsg ≠ [] :=
  ⟨{ live with telem := { live.telem with openMsg := [.flow flow0] } }, by decide +kernel⟩

theorem witness_exportMessageSend_25_4 : ∃ (l : List ExpRec) (rest : List (List ExpRec)) (s : State), s.telem.closed = l :: rest :=
  ⟨[.flow flow0], [], { withRegs [(aTal 0x20, 0x80000010#32)] queued0 with telem := { live.telem with closed := [[.flow flow0]] } }, by decide +kernel⟩

theorem witness_templateSend_25_5 : ∃ (s : State), Inv s ∧ regBit s (aTal 0x20) 31 = true :=
  ⟨withRegs [(aTal 0x20, 0x80000010#32)] queued0, inv_of (by decide +kernel) rfl, by decide +kernel⟩

theorem witness_ldgRead_25_6 : ∃ (cmd : HostCmd) (s : State), Ready s cmd .ldgRead :=
  ⟨{ cmd1 0x31 [2#8, 0#8, 0#8, 0#8, 0#8, 0#8, 0#8, 0#8, 1#8] with dataLen := 16 }, taken1 { cmd1 0x31 [2#8, 0#8, 0#8, 0#8, 0#8, 0#8, 0#8, 0#8, 1#8] with dataLen := 16 }, by unfold Ready; decide +kernel⟩

theorem witness_ldgSnapshot_25_7 : ∃ (cmd : HostCmd) (s : State), Inv s ∧ Ready s cmd .ldgSnapshot :=
  ⟨cmd1 0x30 [1#8], taken1 (cmd1 0x30 [1#8]), inv_of (by decide +kernel) rfl, by unfold Ready; decide +kernel⟩

theorem witness_ldgSnapshotComplete_25_8 : ∃ (buffer n : Nat) (cmd : HostCmd) (s : State), Inv s ∧ s.telem.snapJob.find? (·.1 == buffer) = some (buffer, cmd, n) ∧ buffer < 2 ∧ s.hif.oldBell < cmd.bell :=
  ⟨1, 0, cmd1 0x30 [1#8], { taken1 (cmd1 0x30 [1#8]) with telem := { live.telem with snapJob := [(1, cmd1 0x30 [1#8], 0)] } }, inv_of (by decide +kernel) rfl, by decide +kernel⟩

theorem witness_pmcCountWrite_25_9 : ∃ (n occurrences : Nat) (value : Word) (s : State), Inv s ∧ pmcNamed n = true ∧ s.top.inReset = false ∧ shut s (aPmcCount n) = false :=
  ⟨0, 3, 5#32, live, inv_of (by decide +kernel) rfl, by decide +kernel⟩

theorem witness_sourceForce_26_0 : ∃ (value : Word) (s : State), Inv s ∧ s.top.inReset = false ∧ shut s (aCri 0x10) = false :=
  ⟨0xC00#32, live, inv_of (by decide +kernel) rfl, by decide +kernel⟩

theorem witness_srcCfgWrite_26_1 : ∃ (src : Nat) (value : Word) (s : State), Inv s ∧ src < 0xF00 ∧ value.getLsbD 12 = false ∧ s.top.inReset = false ∧ shut s (aSrc src) = false :=
  ⟨5, 0x83000007#32, live, inv_of (by decide +kernel) rfl, by decide +kernel⟩

theorem witness_srcCfgWrite_26_2 : ∃ (src : Nat) (value : Word) (s : State), Inv s ∧ src ≤ 0xFFF ∧ (0xF00 ≤ src ∨ value.getLsbD 12 = true) ∧ s.top.inReset = false ∧ shut s (aSrc src) = false :=
  ⟨0xF05, 0x83000007#32, live, inv_of (by decide +kernel) rfl, by decide +kernel⟩

theorem witness_vectorTimerExpiry_26_3 : ∃ (v : Nat) (s : State), (getVec s v).timer = true :=
  ⟨9, { live with crier := { live.crier with vecs := [(9, { vecIdle with timer := true })] } }, by decide +kernel⟩

theorem witness_srcCfgWrite_26_4 : ∃ (src : Nat) (value : Word) (s : State), Inv s ∧ 0xF00 ≤ src ∧ src ≤ 0xFFF ∧ fwRuns s = true :=
  ⟨0xF05, 0x83000007#32, live, inv_of (by decide +kernel) rfl, by decide +kernel⟩

theorem witness_dispatchCommit_26_5 : ∃ (m : CrierMasks) (s : State), takesVec (setMasks s m) = none ∧ takesCore (setMasks s m) = none :=
  ⟨{ msix := some (true, false), cores := [(2, true, false)] }, live, by decide +kernel⟩

theorem witness_dispatchCommit_26_6 : ∃ (m : CrierMasks) (v : Nat) (s : State), Inv s ∧ v < 2048 ∧ takesVec (setMasks s m) = some v ∧ msixMasked (setMasks s m) v = true :=
  ⟨noMasks, 9, readyVec [(aHif 0x8009C, 1#32)], inv_of (by decide +kernel) rfl, by decide +kernel⟩

theorem witness_dispatchCommit_26_7 : ∃ (m : CrierMasks) (v : Nat) (s : State), Inv s ∧ v < 2048 ∧ takesVec (setMasks s m) = some v ∧ msixMasked (setMasks s m) v = false ∧ regBit s (aVec v 4) 31 = false :=
  ⟨{ msix := some (true, false), cores := [] }, 9, readyVec [(aHif 0x8009C, 0#32)], inv_of (by decide +kernel) rfl, by decide +kernel⟩

theorem witness_dispatchCommit_26_8 : ∃ (m : CrierMasks) (v : Nat) (s : State), Inv s ∧ v < 2048 ∧ takesVec (setMasks s m) = some v ∧ msixMasked (setMasks s m) v = false ∧ regBit s (aVec v 4) 31 = true :=
  ⟨{ msix := some (true, false), cores := [] }, 9, readyVec [(aHif 0x8009C, 0#32), (aVec 9 4, 0x80000000#32)], inv_of (by decide +kernel) rfl, by decide +kernel⟩

theorem witness_dispatchCommit_26_9 : ∃ (m : CrierMasks) (id : Nat) (s : State), takesCore (setMasks s m) = some id :=
  ⟨noMasks, 0xF05, { withRegs [(aSrc 0xF05, 0x83000001#32)] live with crier := { live.crier with pend := [0xF05] } }, by decide +kernel⟩

theorem witness_vecEoi_26_10 : ∃ (v : Nat) (s : State), v < 2048 ∧ s.top.inReset = false ∧ shut s (aVec v 8) = false :=
  ⟨9, { live with crier := { live.crier with vecs := [(9, { vecIdle with inService := true })], active := [(0x305, 9)], line := [0x305] } }, by decide +kernel⟩

theorem witness_crossingFault_26_12 : ∃ (receiver sender handshake : Nat) (s : State), Inv s ∧ receiver ≤ 128 :=
  ⟨5, 126, 2, live, inv_of (by decide +kernel) rfl, by decide +kernel⟩

theorem witness_graceExpiry_27_0 : ∃ (src : Nat) (s : State), Inv s ∧ src < 4096 ∧ src ∈ s.flt.grace ∧ regBit s (aEsc src 0) 31 = true :=
  ⟨0x305, { withRegs [(aEsc 0x305 0, 0xC0000000#32)] live with flt := { live.flt with grace := [0x305] } }, inv_of (by decide +kernel) rfl, by decide +kernel⟩

theorem witness_escAck_27_1 : ∃ (value : Word) (s : State), Inv s ∧ s.top.inReset = false ∧ shut s (aFlt 4) = false ∧ fget value 11 0 ∈ s.flt.grace :=
  ⟨0x305#32, { withRegs [(aEsc 0x305 0, 0xC0000000#32)] live with flt := { live.flt with grace := [0x305] } }, inv_of (by decide +kernel) rfl, by decide +kernel⟩

theorem witness_escAck_27_2 : ∃ (value : Word) (n : Nat) (s : State), Inv s ∧ s.top.inReset = false ∧ shut s (aFlt 4) = false ∧ fget value 11 0 ∉ s.flt.grace ∧ Running s (fget value 11 0) n :=
  ⟨0x305#32, 0, acting0 0, inv_of (by decide +kernel) rfl, by unfold Running; decide +kernel⟩

theorem witness_escAck_27_3 : ∃ (value : Word) (r : EscRun) (s : State), Inv s ∧ s.top.inReset = false ∧ shut s (aFlt 4) = false ∧ fget value 11 0 ∉ s.flt.grace ∧ s.flt.lists.find? (·.source == fget value 11 0) = some r ∧ r.waitIsland.isSome = true :=
  ⟨0x305#32, { source := 0x305, next := 0, cancelled := false, waitIsland := some 4 }, { acting0 0 with flt := { live.flt with lists := [{ source := 0x305, next := 0, cancelled := false, waitIsland := some 4 }] } }, inv_of (by decide +kernel) rfl, by decide +kernel⟩

theorem witness_escAck_27_4 : ∃ (value : Word) (s : State), s.top.inReset = false ∧ shut s (aFlt 4) = false ∧ fget value 11 0 ∉ s.flt.grace ∧ s.flt.lists.all (·.source != fget value 11 0) = true :=
  ⟨0x305#32, live, by decide +kernel⟩

theorem witness_actionsWrite_27_5 : ∃ (src : Nat) (value : BitVec 64) (s : State), Inv s ∧ src < 4096 ∧ s.top.inReset = false :=
  ⟨0x305, 0x7005#64, live, inv_of (by decide +kernel) rfl, by decide +kernel⟩

theorem witness_escEnd_27_6 : ∃ (src n a : Nat) (s : State), Inv s ∧ src < 4096 ∧ Acting s src n 0 a :=
  ⟨0x305, 0, 0, acting0 0, inv_of (by decide +kernel) rfl, by unfold Acting Running; decide +kernel⟩

theorem witness_escIsland_27_7 : ∃ (src n a : Nat) (s : State), Inv s ∧ src < 4096 ∧ Acting s src n 1 a :=
  ⟨0x305, 0, 4, acting0 0x1004, inv_of (by decide +kernel) rfl, by unfold Acting Running; decide +kernel⟩

theorem witness_escControl_27_8 : ∃ (src n a : Nat) (s : State), Inv s ∧ src < 4096 ∧ Acting s src n 2 a ∧ s.top.inReset = false ∧ s.top.controlReset = false :=
  ⟨0x305, 0, 0, acting0 0x2000, inv_of (by decide +kernel) rfl, by unfold Acting Running; decide +kernel⟩

theorem witness_escCold_27_9 : ∃ (src n a : Nat) (s : State), Inv s ∧ src < 4096 ∧ Acting s src n 3 a :=
  ⟨0x305, 0, 0, acting0 0x3000, inv_of (by decide +kernel) rfl, by unfold Acting Running; decide +kernel⟩

theorem witness_escQuiesce_27_10 : ∃ (src n a : Nat) (s : State), Inv s ∧ src < 4096 ∧ Acting s src n 4 a ∧ a < 72 ∧ s.top.inReset = false :=
  ⟨0x305, 0, 4, acting0 0x4004, inv_of (by decide +kernel) rfl, by unfold Acting Running; decide +kernel⟩

theorem witness_escPortOff_27_11 : ∃ (src n a : Nat) (s : State), Inv s ∧ src < 4096 ∧ Acting s src n 5 a ∧ a < 1152 ∧ s.top.inReset = false :=
  ⟨0x305, 0, 0, acting0 0x5000, inv_of (by decide +kernel) rfl, by unfold Acting Running; decide +kernel⟩

theorem witness_escLoseStack_27_12 : ∃ (src n a : Nat) (s : State), Inv s ∧ src < 4096 ∧ Acting s src n 6 a ∧ a < 2 :=
  ⟨0x305, 0, 1, acting0 0x6001, inv_of (by decide +kernel) rfl, by unfold Acting Running; decide +kernel⟩

theorem witness_escWait_27_13 : ∃ (src n a : Nat) (s : State), Inv s ∧ src < 4096 ∧ Acting s src n 7 a :=
  ⟨0x305, 0, 9, acting0 0x7009, inv_of (by decide +kernel) rfl, by unfold Acting Running; decide +kernel⟩

theorem witness_regulatorPoll_28_0 : ∃ (answers : List RegulatorAnswer) (s : State), Inv s ∧ sclLive s = true :=
  ⟨[{ bus := 0, addr := 0x20, page := 0, pecOk := true, voutMode := 0x17, vout := 384, iout := 0xF00A, temp := 40 }], withRegs [(aRegulator 0 0, 0x90000000#32), (aRegulator 1 0, 0x80000000#32)] live, inv_of (by decide +kernel) rfl, by decide +kernel⟩

theorem witness_scalesReady_28_1 : ∃ (s : State), Inv s ∧ bringup s 8 = false ∧ sclPolicy s = true ∧ s.scales.regTable = true ∧ (regulatorsOn s).all s.scales.polled.contains = true :=
  ⟨{ withRegs [(0x40, 0xFF#32)] live with scales := { live.scales with regTable := true } }, inv_of (by decide +kernel) rfl, by decide +kernel⟩

theorem witness_capLoopTick_28_2 : ∃ (savings : List (Nat × Nat)) (s : State), Inv s ∧ sclPolicy s = true ∧ bringup s 8 = true ∧ estMw s ≤ capMw s :=
  ⟨[], live, inv_of (by decide +kernel) rfl, by decide +kernel⟩

theorem witness_capLoopTick_28_3 : ∃ (savings : List (Nat × Nat)) (p mw : Nat) (s : State), Inv s ∧ savings = [(p, mw)] ∧ sclPolicy s = true ∧ bringup s 8 = true ∧ capMw s < estMw s ∧ cutOpen (loopState s) p = true ∧ pipeProtected s p = false ∧ hallFree (loopState s) p = true :=
  ⟨[(5, 700)], 5, 700, withRegs [(aScl 0x20, 0xFFFF0000#32)] live, inv_of (by decide +kernel) rfl, by decide +kernel⟩

theorem witness_capLoopTick_28_4 : ∃ (savings : List (Nat × Nat)) (p mw : Nat) (s : State), Inv s ∧ savings = [(p, mw)] ∧ sclPolicy s = true ∧ bringup s 8 = true ∧ capMw s < estMw s ∧ cutOpen (loopState s) p = true ∧ pipeProtected s p = true :=
  ⟨[(5, 700)], 5, 700, withRegs [(aScl 0x20, 0xFFFF0000#32)] prot5, inv_of (by decide +kernel) rfl, by decide +kernel⟩

theorem witness_capLoopTick_28_5 : ∃ (savings : List (Nat × Nat)) (p mw : Nat) (s : State), Inv s ∧ savings = [(p + 72, mw)] ∧ sclPolicy s = true ∧ bringup s 8 = true ∧ capMw s < estMw s ∧ actOpen (loopState s) p = true ∧ mw ≠ 0 :=
  ⟨[(77, 700)], 5, 700, withRegs [(aScl 0x20, 0xFFFF0000#32), (aPipeClk 5, 0x0000080C#32)] live, inv_of (by decide +kernel) rfl, by decide +kernel⟩

theorem witness_capLoopTick_28_6 : ∃ (savings : List (Nat × Nat)) (p mw : Nat) (s : State), Inv s ∧ savings = [(p + 144, mw)] ∧ sclPolicy s = true ∧ bringup s 8 = true ∧ estMw s * 100 < capMw s * 97 ∧ (estMw s + mw) * 100 ≤ capMw s * 99 ∧ p < 72 ∧ regBit s (aScl 0) 31 = true ∧ sclThrottle s = false ∧ sclCritical s = false ∧ absActive s = false ∧ stepNow (loopState s) p < stepHi s p ∧ gliding (loopState s) p = false ∧ mayGlide s p = true :=
  ⟨[(149, 1)], 5, 1, withRegs [(aScl 0, 0x80000000#32), (aScl 0x10, 0x500#32), (aPipeClk 5, 0x4000080C#32)] live, inv_of (by decide +kernel) rfl, by decide +kernel⟩

theorem witness_deferralForce_28_7 : ∃ (p : Nat) (d : Deferral) (s : State), Inv s ∧ deferralOf s p = some d ∧ p < 72 ∧ sclLive s = true :=
  ⟨5, { pipe := 5, since := 0, wanted := true, paused := none }, withRegs [(aPipeClk 5, 0xC000080C#32)] { live with scales := { live.scales with deferrals := [{ pipe := 5, since := 0, wanted := true, paused := none }] } }, inv_of (by decide +kernel) rfl, by decide +kernel⟩

theorem witness_sclPolicyConflict_28_8 : ∃ (p step : Nat) (s : State), Inv s ∧ sclPolicy s = true ∧ p < 72 ∧ step < 4 :=
  ⟨5, 3, withRegs [(aPipeClk 5, 0x40000804#32)] live, inv_of (by decide +kernel) rfl, by decide +kernel⟩

theorem witness_glideComplete_28_9 : ∃ (p : Nat) (s : State), Inv s ∧ p < 72 ∧ gliding s p = true :=
  ⟨5, withRegs [(aPipeClk 5, 0x6000080C#32)] live, inv_of (by decide +kernel) rfl, by decide +kernel⟩

theorem witness_pmbusAlert_28_10 : ∃ (bus : Nat) (low : Bool) (s : State), Inv s ∧ bus < 2 ∧ s.top.inReset = false :=
  ⟨1, true, live, inv_of (by decide +kernel) rfl, by decide +kernel⟩

theorem witness_fastEstimateTick_28_11 : ∃ (s : State), Inv s ∧ sclLive s = true :=
  ⟨live, inv_of (by decide +kernel) rfl, by decide +kernel⟩

theorem witness_limiterStep_28_12 : ∃ (s : State), Inv s ∧ limiterCond s = true ∧ s.scales.limiter = 1 :=
  ⟨{ live with scales := { live.scales with alerts := [1], limiter := 1 } }, inv_of (by decide +kernel) rfl, by decide +kernel⟩

theorem witness_limiterStep_28_13 : ∃ (s : State), Inv s ∧ limiterCond s = true ∧ 1 < s.scales.limiter :=
  ⟨{ live with scales := { live.scales with alerts := [1], limiter := 2 } }, inv_of (by decide +kernel) rfl, by decide +kernel⟩

theorem witness_limiterRelease_28_14 : ∃ (s : State), Inv s ∧ limiterCond s = false ∧ s.scales.limiter ≠ 0 :=
  ⟨{ live with scales := { live.scales with limiter := 2 } }, inv_of (by decide +kernel) rfl, by decide +kernel⟩

theorem witness_absWrite_28_15 : ∃ (value : Word) (s : State), Inv s ∧ s.top.inReset = false ∧ shut s (aScl 0x14) = false :=
  ⟨1000#32, live, inv_of (by decide +kernel) rfl, by decide +kernel⟩

theorem witness_droopTrip_29_0 : ∃ (island : Nat) (s : State), Inv s ∧ s.top.inReset = false :=
  ⟨5, withRegs [(aPipeClk 5, 0x6000080C#32)] live, inv_of (by decide +kernel) rfl, by decide +kernel⟩

theorem witness_droopClear_29_1 : ∃ (island stretchedUs : Nat) (s : State), Inv s :=
  ⟨5, 40, { live with scales := { live.scales with stretched := [5] } }, inv_of (by decide +kernel) rfl⟩

theorem witness_phaseTick_29_2 : ∃ (s : State), Inv s ∧ sclLive s = true :=
  ⟨{ withRegs [(aScl 0, 0x40000000#32)] live with scales := { live.scales with energy := 5000000000, parts := [(3, 700), (80, 100)] } }, inv_of (by decide +kernel) rfl, by decide +kernel⟩

theorem witness_thermalSense_29_3 : ∃ (sensors engines : List Nat) (s : State), Inv s ∧ sclLive s = true :=
  ⟨[40, 116], [50], live, inv_of (by decide +kernel) rfl, by decide +kernel⟩

theorem witness_throttleTick_29_4 : ∃ (s : State), Inv s ∧ sclPolicy s = true ∧ throttling s = true :=
  ⟨withRegs [(aScl 4, 0x40000000#32), (aScl 0x24, 0x68#32)] live, inv_of (by decide +kernel) rfl, by decide +kernel⟩

theorem witness_cartPresenceChange_30_0 : ∃ (bay : Nat) (s : State), Inv s ∧ bay < 9 ∧ islandHeld s 126 = false ∧ bayPres s bay = false :=
  ⟨2, bay2 .idle 0x200, inv_of (by decide +kernel) rfl, by decide +kernel⟩

theorem witness_cartPresenceChange_30_1 : ∃ (bay : Nat) (s : State), Inv s ∧ bay < 9 ∧ islandHeld s 126 = false ∧ bayPres s bay = true :=
  ⟨2, bay2 .idle 0x101, inv_of (by decide +kernel) rfl, by decide +kernel⟩

theorem witness_cartLatchOpen_30_2 : ∃ (bay : Nat) (s : State), Inv s ∧ bay < 9 ∧ islandHeld s 126 = false ∧ bayLatched s bay = true :=
  ⟨2, bay2 .idle 0x303, inv_of (by decide +kernel) rfl, by decide +kernel⟩

theorem witness_cartLatchOpen_30_3 : ∃ (bay n : Nat) (s : State), Inv s ∧ bay < 9 ∧ islandHeld s 126 = false ∧ bayLatched s bay = true ∧ (getBay s bay).step = .inserting n :=
  ⟨2, 1, bay2 (.inserting 1) 0x302, inv_of (by decide +kernel) rfl, by decide +kernel⟩

theorem witness_cartLatchOpen_30_4 : ∃ (bay n : Nat) (s : State), Inv s ∧ bay < 9 ∧ islandHeld s 126 = false ∧ bayLatched s bay = true ∧ (getBay s bay).step = .removing n :=
  ⟨2, 1, bay2 (.removing 1) 0x303, inv_of (by decide +kernel) rfl, by decide +kernel⟩

theorem witness_cartLatchClose_30_5 : ∃ (bay : Nat) (s : State), Inv s ∧ bay < 9 ∧ islandHeld s 126 = false ∧ bayLatched s bay = false ∧ bayPres s bay = true ∧ ((getBay s bay).step = .removing 4 ∨ (getBay s bay).step = .idle ∧ bayState s bay ≠ stActive) :=
  ⟨2, bay2 .idle 0x101, inv_of (by decide +kernel) rfl, by decide +kernel⟩

theorem witness_cartLatchClose_30_6 : ∃ (bay n : Nat) (s : State), Inv s ∧ bay < 9 ∧ islandHeld s 126 = false ∧ bayLatched s bay = false ∧ (getBay s bay).step = .removing n ∧ (n ≠ 4 ∨ bayPres s bay = false) :=
  ⟨2, 1, bay2 (.removing 1) 0x103, inv_of (by decide +kernel) rfl, by decide +kernel⟩

theorem witness_cartInt_30_7 : ∃ (bay : Nat) (s : State), Inv s ∧ bay < 9 ∧ islandHeld s 126 = false ∧ bayPres s bay = true :=
  ⟨2, bay2 .idle 0x303, inv_of (by decide +kernel) rfl, by decide +kernel⟩

theorem witness_cartInt_30_8 : ∃ (bay : Nat) (s : State), bay < 9 ∧ islandHeld s 126 = false ∧ bayPres s bay = true ∧ (getBay s bay).asked = none ∧ fwRuns s = true :=
  ⟨2, bay2 .idle 0x303, by decide +kernel⟩

theorem witness_cartAuthenticating_30_9 : ∃ (bay : Nat) (identity : Identity) (s : State), Inv s ∧ bay < 9 ∧ (getBay s bay).step = .inserting 0 :=
  ⟨2, ident0, bay2 (.inserting 0) 0x301, inv_of (by decide +kernel) rfl, by decide +kernel⟩

theorem witness_cartAuthenticating_30_10 : ∃ (bay : Nat) (identity : Identity) (s : State), Inv s ∧ bay < 9 ∧ (getBay s bay).step = .inserting 1 ∧ fwRuns s = true :=
  ⟨2, ident0, bay2 (.inserting 1) 0x302, inv_of (by decide +kernel) rfl, by decide +kernel⟩

theorem witness_cartChallengeCheck_30_11 : ∃ (bay : Nat) (tag : List Byte) (s : State), Inv s ∧ bay < 9 ∧ (getBay s bay).step = .inserting 2 ∧ (getBay s bay).challenge ≠ [] ∧ fwRuns s = true ∧ sealReady s = true :=
  ⟨2, [], setBit (modBay (bay2 (.inserting 2) 0x302) 2 fun b => { b with challenge := [1#8] }) (aSec 0) 30 true, inv_of (by decide +kernel) rfl, by decide +kernel⟩

theorem witness_cartEnRaise_30_12 : ∃ (bay : Nat) (s : State), Inv s ∧ bay < 9 ∧ (getBay s bay).step = .inserting 3 :=
  ⟨2, bay2 (.inserting 3) 0x302, inv_of (by decide +kernel) rfl, by decide +kernel⟩

theorem witness_cartActivate_30_13 : ∃ (bay : Nat) (s : State), Inv s ∧ bay < 9 ∧ (getBay s bay).step = .inserting 4 :=
  ⟨2, bay2 (.inserting 4) 0x702, inv_of (by decide +kernel) rfl, by decide +kernel⟩

theorem witness_removalRampStart_30_14 : ∃ (bay : Nat) (s : State), Inv s ∧ bay < 9 ∧ (getBay s bay).step = .removing 1 :=
  ⟨2, bay2 (.removing 1) 0x703, inv_of (by decide +kernel) rfl, by decide +kernel⟩

theorem witness_removalRampDone_30_15 : ∃ (bay : Nat) (s : State), bay < 9 ∧ (getBay s bay).step = .removing 2 :=
  ⟨2, modBay (bay2 (.removing 2) 0x705) 3 fun b => { b with target := [(37, 1)] }, by decide +kernel⟩

theorem witness_removalEnLow_30_16 : ∃ (bay : Nat) (s : State), Inv s ∧ bay < 9 ∧ (getBay s bay).step = .removing 3 :=
  ⟨2, bay2 (.removing 3) 0x705, inv_of (by decide +kernel) rfl, by decide +kernel⟩

theorem witness_shareFailed_30_17 : ∃ (bay ch : Nat) (s : State), Inv s ∧ bay < 9 ∧ ch < 64 ∧ chLive s bay ch = true :=
  ⟨2, 5, modBay (bay2 .idle 0x703) 2 fun b => { b with target := [(5, 1)] }, inv_of (by decide +kernel) rfl, by decide +kernel⟩

theorem witness_lightLow_30_18 : ∃ (g input : Nat) (s : State), Inv s ∧ g < 36 ∧ input < 8 :=
  ⟨3, 4, live, inv_of (by decide +kernel) rfl, by decide +kernel⟩

theorem witness_wearTick_30_19 : ∃ (outputs : List (Nat × Nat × Nat)) (bay n k : Nat) (s : State), bay < 9 ∧ (getBay s bay).target = [(n, k)] :=
  ⟨[], 2, 5, 1, modBay (bay2 .idle 0x703) 2 fun b => { b with target := [(5, 1)] }, by decide +kernel⟩

theorem witness_wearRecordWrite_30_20 : ∃ (failedBlocks : List Nat) (bay : Nat) (i : Identity) (s : State), Inv s ∧ (getBay s bay).identity = some i ∧ bay < 9 ∧ fwRuns s = true ∧ bayState s bay = stActive :=
  ⟨[], 2, ident0, setBit (modBay (bay2 .idle 0x703) 2 fun b => { b with identity := some ident0, wear := [(5, 7200)] }) (aSec 0) 30 true, inv_of (by decide +kernel) rfl, by decide +kernel⟩

theorem witness_currentLoopStep_30_21 : ∃ (bay ch want : Nat) (s : State), bay < 9 ∧ ch < 64 :=
  ⟨2, 5, 9000, modBay (bay2 .idle 0x703) 2 fun b => { b with target := [(5, 1)] }, by decide +kernel⟩

theorem witness_cartPolicyConflict_30_22 : ∃ (bay ch want : Nat) (s : State), Inv s ∧ bay < 9 ∧ ch < 64 ∧ intervalOver s (0x4B0 + bay) 100000000 = true :=
  ⟨2, 5, 19000, withRegs [(aBay 2 0x20, 0x100#32)] live, inv_of (by decide +kernel) rfl, by decide +kernel⟩

theorem witness_readId_31_0 : ∃ (cmd : HostCmd) (i : Identity) (s : State), (getBay s (cartBay cmd)).identity = some i ∧ Ready s cmd .readId :=
  ⟨{ cmd1 0x80 [1#8, 2#8] with dataLen := 320 }, ident0, { taken1 { cmd1 0x80 [1#8, 2#8] with dataLen := 320 } with bays := [(2, { bayEmpty with identity := some ident0 })], regs := (bay2 .idle 0x703).regs }, by unfold Ready; decide +kernel⟩

theorem witness_readId_31_1 : ∃ (cmd : HostCmd) (s : State), Ready s cmd .readId ∧ cartBay cmd < 9 ∧ cmd.dataLen = 320 ∧ bayState s (cartBay cmd) = stEmpty :=
  ⟨{ cmd1 0x80 [1#8, 2#8] with dataLen := 320 }, taken1 { cmd1 0x80 [1#8, 2#8] with dataLen := 320 }, by unfold Ready; decide +kernel⟩

theorem witness_reauth_31_2 : ∃ (cmd : HostCmd) (tag : List Byte) (s : State), Inv s ∧ Ready s cmd .reauth ∧ cartBay cmd < 9 ∧ bayState s (cartBay cmd) ≠ stEmpty ∧ trngUp s = true ∧ (getBay s (cartBay cmd)).identity ≠ none :=
  ⟨cmd1 0x80 [2#8, 2#8], [], modBay (cart1 [2#8, 2#8]) 2 fun b => { b with identity := some ident0 }, inv_of (by decide +kernel) rfl, by unfold Ready; decide +kernel⟩

theorem witness_reauth_31_3 : ∃ (cmd : HostCmd) (tag : List Byte) (s : State), Ready s cmd .reauth :=
  ⟨cmd1 0x80 [2#8, 3#8], [], cart1 [2#8, 3#8], by unfold Ready; decide +kernel⟩

theorem witness_setPolicy_31_4 : ∃ (cmd : HostCmd) (s : State), Inv s ∧ Ready s cmd .setPolicy :=
  ⟨cmd1 0x80 [3#8, 2#8, 1#8], cart1 [3#8, 2#8, 1#8], inv_of (by decide +kernel) rfl, by unfold Ready; decide +kernel⟩

theorem witness_prepareRemove_31_5 : ∃ (cmd : HostCmd) (s : State), Ready s cmd .prepareRemove :=
  ⟨cmd1 0x80 [4#8, 2#8], cart1 [4#8, 2#8], by unfold Ready; decide +kernel⟩

theorem witness_keyUnwrap_31_6 : ∃ (cmd : HostCmd) (k : List Byte) (s : State), slotKey s (argN cmd 1 1) 0 = some k ∧ Ready s cmd .keyUnwrap ∧ unwrapPermitted s = true ∧ 16 ≤ argN cmd 0 1 ∧ argN cmd 0 1 ≤ 63 ∧ (argN cmd 1 1 = 0 ∨ 16 ≤ argN cmd 1 1 ∧ argN cmd 1 1 ≤ 63) ∧ argN cmd 3 1 % 16 ≠ 0 ∧ (cmd.dataLen = 24 ∨ cmd.dataLen = 32 ∨ cmd.dataLen = 40) :=
  ⟨{ cmd1 0x60 [20#8, 17#8, 0#8, 1#8] with dataLen := 24 }, [7#8], keyed1 { cmd1 0x60 [20#8, 17#8, 0#8, 1#8] with dataLen := 24 }, by unfold Ready; decide +kernel⟩

theorem witness_keyUnwrap_31_7 : ∃ (cmd : HostCmd) (s : State), Ready s cmd .keyUnwrap :=
  ⟨cmd1 0x60 [20#8, 17#8, 0#8, 1#8], taken1 (cmd1 0x60 [20#8, 17#8, 0#8, 1#8]), by unfold Ready; decide +kernel⟩

theorem witness_keyErase_31_8 : ∃ (cmd : HostCmd) (s : State), Ready s cmd .keyErase :=
  ⟨cmd1 0x60 [20#8, 0#8, 2#8], keyed1 (cmd1 0x60 [20#8, 0#8, 2#8]), by unfold Ready; decide +kernel⟩

theorem witness_ctxSave_31_9 : ∃ (cmd : HostCmd) (s : State), Ready s cmd .ctxSave :=
  ⟨{ cmd1 0x61 [] with dataLen := 128 }, taken1 { cmd1 0x61 [] with dataLen := 128 }, by unfold Ready; decide +kernel⟩

theorem witness_ctxRestore_31_10 : ∃ (cmd : HostCmd) (s : State), Ready s cmd .ctxRestore :=
  ⟨{ cmd1 0x62 [] with dataLen := 128, data := [0x43#8, 0x58#8, 0x43#8, 0x54#8, 0#8, 17#8] }, keyed1 { cmd1 0x62 [] with dataLen := 128, data := [0x43#8, 0x58#8, 0x43#8, 0x54#8, 0#8, 17#8] }, by unfold Ready; decide +kernel⟩

theorem witness_keyEpochStart_31_11 : ∃ (island : Bool) (s : State), Inv s ∧ s.sec.epochDue = some island ∧ bringup s 0 = true ∧ islandDown s 128 = false :=
  ⟨true, { live with sec := { live.sec with epochDue := some true } }, inv_of (by decide +kernel) rfl, by decide +kernel⟩

theorem witness_trngFail_31_12 : ∃ (s : State), Inv s ∧ trngUp s = true :=
  ⟨live, inv_of (by decide +kernel) rfl, by decide +kernel⟩

theorem witness_trngOk_31_13 : ∃ (s : State), Inv s ∧ trngUp s = false :=
  ⟨setBit live (aSec 0) 31 false, inv_of (by decide +kernel) rfl, by decide +kernel⟩

end Sys2Proof.Tests
end

section
/-!
Proofs of the scope statements: what every command and every step keeps, and what the reset state holds.
-/
namespace Sys2Proof.Proofs

open Sys2Proof Sys2Proof.Machine Sys2Proof.Laws

-- What every command and every step keeps.

/-- Every command keeps what every operation keeps: the case of a command is the law of its meaning. -/
theorem keptO_exec {Q : List Instr} {s : State} (hk : Kept Q s.top.fuses s) (c : Instr) :
    KeptO Q s.top.fuses (exec c s) :=
  match c with
  | .sysRstNLow _ => Kept.execSysRstNLow _ s hk
  | .supplyBelowResetThreshold _ _ _ => Kept.execSupplyBelowResetThreshold _ _ _ s hk
  | .vddCoreWarning _ _ => Kept.execVddCoreWarning _ _ s hk
  | .vddCoreWarningEnd _ _ => Kept.execVddCoreWarningEnd _ _ s hk
  | .coldResetRelease _ _ => Kept.execColdResetRelease _ _ s hk
  | .fusesLoaded => Kept.execFusesLoaded s hk
  | .clocksLocked _ => Kept.execClocksLocked _ s hk
  | .tableWipeComplete => Kept.execTableWipeComplete s hk
  | .hbmWipeComplete _ _ => Kept.execHbmWipeComplete _ _ s hk
  | .firmwareStart _ => Kept.execFirmwareStart _ s hk
  | .jtagCoreRelease => Kept.execJtagCoreRelease s hk
  | .islResetIsland _ => Kept.execIslResetIsland _ s hk
  | .islResetControl => Kept.execIslResetControl s hk
  | .islResetCold => Kept.execIslResetCold s hk
  | .islandResetComplete _ => Kept.execIslandResetComplete _ s hk
  | .coreWatchdogExpiry _ => Kept.execCoreWatchdogExpiry _ s hk
  | .controlReset => Kept.execControlReset s hk
  | .controlResetComplete _ => Kept.execControlResetComplete _ s hk
  | .perstNAssert cause => Kept.execPerstNAssert cause s hk
  | .perstNRelease => Kept.execPerstNRelease s hk
  | .hostIslandRelease => Kept.execHostIslandRelease s hk
  | .linkTrained _ _ _ => Kept.execLinkTrained _ _ _ s hk
  | .lcsChange => Kept.execLcsChange s hk
  | .lcsTransitionStart _ => Kept.execLcsTransitionStart _ s hk rfl
  | .fwUpdate _ _ => Kept.execFwUpdate _ _ s hk
  | .registerWrite _ _ => Kept.execRegisterWrite _ _ s hk
  | .rcCounterRead _ => Kept.execRcCounterRead _ s hk
  | .reg64LowWordRead _ _ => Kept.execReg64LowWordRead _ _ s hk
  | .reg64LowWordWrite _ _ _ => Kept.execReg64LowWordWrite _ _ _ s hk
  | .reg64HighWordWrite _ _ _ => Kept.execReg64HighWordWrite _ _ _ s hk
  | .bar0UnmappedAccess _ _ => Kept.execBar0UnmappedAccess _ _ s hk
  | .bar0BadAccess _ _ _ _ => Kept.execBar0BadAccess _ _ _ _ s hk
  | .crDoorbell _ _ => Kept.execCrDoorbell _ _ s hk
  | .cqDoorbell _ _ => Kept.execCqDoorbell _ _ s hk
  | .rxDoorbell _ _ => Kept.execRxDoorbell _ _ s hk
  | .nqDoorbell _ _ => Kept.execNqDoorbell _ _ s hk
  | .ringEnable _ _ _ => Kept.execRingEnable _ _ _ s hk
  | .ringDisable _ _ _ => Kept.execRingDisable _ _ _ s hk
  | .ringDmaError _ _ => Kept.execRingDmaError _ _ s hk
  | .commandFetch _ _ _ => Kept.execCommandFetch _ _ _ s hk
  | .completionWrite _ => Kept.execCompletionWrite _ s hk
  | .notificationWrite _ => Kept.execNotificationWrite _ s hk
  | .nop _ => Kept.execNop _ s hk
  | .fence _ => Kept.execFence _ s hk
  | .fenceComplete _ _ => Kept.execFenceComplete _ _ s hk
  | .rxFrameDma _ _ _ => Kept.execRxFrameDma _ _ _ s hk
  | .apertureWrite _ _ => Kept.execApertureWrite _ _ s hk
  | .apertureRead _ _ => Kept.execApertureRead _ _ s hk
  | .mailboxGo => Kept.execMailboxGo s hk
  | .mailboxResponse => Kept.execMailboxResponse s hk
  | .orphanLogClear => Kept.execOrphanLogClear s hk
  | .jrnRead _ _ => Kept.execJrnRead _ _ s hk
  | .jrnWrite _ _ _ => Kept.execJrnWrite _ _ _ s hk
  | .stageWrite _ => Kept.execStageWrite _ s hk
  | .commit _ => Kept.execCommit _ s hk
  | .commitAt _ => Kept.execCommitAt _ s hk
  | .commitToken _ => Kept.execCommitToken _ s hk
  | .commitCancel _ => Kept.execCommitCancel _ s hk
  | .commitInstant _ => Kept.execCommitInstant _ s hk
  | .drainEnd _ => Kept.execDrainEnd _ s hk
  | .drainForce _ => Kept.execDrainForce _ s hk
  | .retireComplete _ => Kept.execRetireComplete _ s hk
  | .commitRecordWrite _ => Kept.execCommitRecordWrite _ s hk
  | .patchLoad _ _ => Kept.execPatchLoad _ _ s hk
  | .patchSwitchPoint => Kept.execPatchSwitchPoint s hk
  | .octCfgWrite _ _ _ => Kept.execOctCfgWrite _ _ _ s hk
  | .portCfgWrite _ _ => Kept.execPortCfgWrite _ _ s hk
  | .portEnable _ => Kept.execPortEnable _ s hk
  | .portDisable _ => Kept.execPortDisable _ s hk
  | .portAligned _ _ => Kept.execPortAligned _ _ s hk
  | .lossOfSignal _ _ => Kept.execLossOfSignal _ _ s hk
  | .faultReceived _ _ => Kept.execFaultReceived _ _ s hk
  | .recoveryEnd _ => Kept.execRecoveryEnd _ s hk
  | .ladderStepPropose _ => Kept.execLadderStepPropose _ s hk
  | .stepTransmitterSwitch _ => Kept.execStepTransmitterSwitch _ s hk
  | .ladderStepSuccess _ _ => Kept.execLadderStepSuccess _ _ s hk
  | .ladderStepFail _ => Kept.execLadderStepFail _ s hk
  | .stepAckTimeout _ => Kept.execStepAckTimeout _ s hk
  | .ladderRetry _ => Kept.execLadderRetry _ s hk
  | .ladderNoPeer _ => Kept.execLadderNoPeer _ s hk
  | .eqLoopStep _ _ => Kept.execEqLoopStep _ _ s hk
  | .eqPolicyConflict _ _ => Kept.execEqPolicyConflict _ _ s hk
  | .fecDegrade _ _ _ => Kept.execFecDegrade _ _ _ s hk
  | .frameArrival _ _ _ => Kept.execFrameArrival _ _ _ s hk
  | .frameTailArrival _ _ _ => Kept.execFrameTailArrival _ _ _ s hk
  | .parseEntry _ => Kept.execParseEntry _ s hk
  | .parseExit _ => Kept.execParseExit _ s hk
  | .parCaptureArm _ => Kept.execParCaptureArm _ s hk
  | .parseWordRepair _ _ _ _ _ => Kept.execParseWordRepair _ _ _ _ _ s hk
  | .recircEntry _ => Kept.execRecircEntry _ s hk
  | .stallAdmit _ => Kept.execStallAdmit _ s hk
  | .stallWordIssue _ _ _ _ _ => Kept.execStallWordIssue _ _ _ _ _ s hk
  | .waitTimeout _ _ => Kept.execWaitTimeout _ _ s hk
  | .lookupResult _ _ _ _ => Kept.execLookupResult _ _ _ _ s hk
  | .statefulLockGrant _ _ _ => Kept.execStatefulLockGrant _ _ _ s hk
  | .statefulReadData _ _ _ => Kept.execStatefulReadData _ _ _ s hk
  | .meterColour _ _ => Kept.execMeterColour _ _ s hk
  | .parityReloadDone _ => Kept.execParityReloadDone _ s hk
  | .stallDepart _ => Kept.execStallDepart _ s hk
  | .ingressTail _ => Kept.execIngressTail _ s hk
  | .dequeueDecision _ _ => Kept.execDequeueDecision _ _ s hk
  | .egressTail _ => Kept.execEgressTail _ s hk
  | .editor _ => Kept.execEditor _ s hk
  | .copyDeparture _ _ _ _ => Kept.execCopyDeparture _ _ _ _ s hk
  | .pfcFrameReceived _ _ _ _ => Kept.execPfcFrameReceived _ _ _ _ s hk
  | .pfcPauseExpiry _ _ => Kept.execPfcPauseExpiry _ _ s hk
  | .pfcFrameSend _ => Kept.execPfcFrameSend _ s hk
  | .pfcRefresh _ _ => Kept.execPfcRefresh _ _ s hk
  | .pfcWatchdogTrip _ _ => Kept.execPfcWatchdogTrip _ _ s hk
  | .pfcWatchdogHoldEnd _ _ => Kept.execPfcWatchdogHoldEnd _ _ s hk
  | .refillBoundary => Kept.execRefillBoundary s hk
  | .portQWrite _ _ => Kept.execPortQWrite _ _ s hk
  | .carveWrite _ => Kept.execCarveWrite _ s hk
  | .reserveWrite _ _ => Kept.execReserveWrite _ _ s hk
  | .bankRetire _ _ => Kept.execBankRetire _ _ s hk
  | .auditSweep => Kept.execAuditSweep s hk
  | .auditSweepEnd => Kept.execAuditSweepEnd s hk
  | .bufAlloc _ => Kept.execBufAlloc _ s hk
  | .bufFree _ => Kept.execBufFree _ s hk
  | .bufSendIngress _ => Kept.execBufSendIngress _ s hk
  | .bufSendEgress _ => Kept.execBufSendEgress _ s hk
  | .pageFlushTimer _ => Kept.execPageFlushTimer _ s hk
  | .pageWriteStart _ => Kept.execPageWriteStart _ s hk
  | .pageWriteCommit _ _ _ => Kept.execPageWriteCommit _ _ _ s hk
  | .pageReadStart _ => Kept.execPageReadStart _ s hk
  | .pageReadCommit _ _ _ _ => Kept.execPageReadCommit _ _ _ _ s hk
  | .chRetire _ _ => Kept.execChRetire _ _ s hk
  | .stackLost _ => Kept.execStackLost _ s hk
  | .hbmNoResponse _ _ => Kept.execHbmNoResponse _ _ s hk
  | .hbmRefresh _ _ _ => Kept.execHbmRefresh _ _ _ s hk
  | .patrolScrub _ _ _ _ _ => Kept.execPatrolScrub _ _ _ _ _ s hk
  | .diagCellRead _ _ => Kept.execDiagCellRead _ _ s hk
  | .diagCellWrite _ _ => Kept.execDiagCellWrite _ _ s hk
  | .tblSearch _ => Kept.execTblSearch _ s hk
  | .tblNext _ => Kept.execTblNext _ s hk
  | .tblInsert _ => Kept.execTblInsert _ s hk
  | .tblUpdate _ => Kept.execTblUpdate _ s hk
  | .tblDelete _ => Kept.execTblDelete _ s hk
  | .tblFlushPort _ => Kept.execTblFlushPort _ s hk
  | .tblRead _ => Kept.execTblRead _ s hk
  | .descWrite _ _ _ => Kept.execDescWrite _ _ _ s hk
  | .hashCfgWrite _ _ => Kept.execHashCfgWrite _ _ s hk
  | .clerkIssue => Kept.execClerkIssue s hk
  | .clerkOpInForce => Kept.execClerkOpInForce s hk
  | .learnInstall => Kept.execLearnInstall s hk
  | .flapHoldEnd _ _ => Kept.execFlapHoldEnd _ _ s hk
  | .ageVisit _ _ => Kept.execAgeVisit _ _ s hk
  | .ageRemove _ _ => Kept.execAgeRemove _ _ s hk
  | .ageRestore _ _ => Kept.execAgeRestore _ _ s hk
  | .replicaRepair _ _ _ _ => Kept.execReplicaRepair _ _ _ _ s hk
  | .tableScrub _ _ _ _ => Kept.execTableScrub _ _ _ _ s hk
  | .rawRowRead _ _ => Kept.execRawRowRead _ _ s hk
  | .rawRowWrite _ _ => Kept.execRawRowWrite _ _ s hk
  | .stateRead _ _ => Kept.execStateRead _ _ s hk
  | .stateWrite _ _ => Kept.execStateWrite _ _ s hk
  | .meterRead _ _ => Kept.execMeterRead _ _ s hk
  | .meterWrite _ _ => Kept.execMeterWrite _ _ s hk
  | .pipeQuiesce _ => Kept.execPipeQuiesce _ s hk
  | .quiesced _ => Kept.execQuiesced _ s hk
  | .stallHalt _ _ => Kept.execStallHalt _ _ s hk
  | .stallStep _ _ _ _ => Kept.execStallStep _ _ _ _ s hk
  | .timeSetSet _ => Kept.execTimeSetSet _ s hk
  | .timeSetStep _ => Kept.execTimeSetStep _ s hk
  | .timeSetSlew _ => Kept.execTimeSetSlew _ s hk
  | .slewComplete => Kept.execSlewComplete s hk
  | .scheduledEventFire => Kept.execScheduledEventFire s hk
  | .nowNsRead _ => Kept.execNowNsRead _ s hk
  | .freqWrite _ => Kept.execFreqWrite _ s hk
  | .refSelWrite _ => Kept.execRefSelWrite _ s hk
  | .referenceLost => Kept.execReferenceLost s hk
  | .timeLock => Kept.execTimeLock s hk
  | .captureEdge _ _ => Kept.execCaptureEdge _ _ s hk
  | .pulseArm _ _ => Kept.execPulseArm _ _ s hk
  | .pulseStop _ _ => Kept.execPulseStop _ _ s hk
  | .pulseEdge _ => Kept.execPulseEdge _ s hk
  | .slotStageWrite _ => Kept.execSlotStageWrite _ s hk
  | .slotStageArm _ => Kept.execSlotStageArm _ s hk
  | .slotStageCancel _ => Kept.execSlotStageCancel _ s hk
  | .slotStageRead _ => Kept.execSlotStageRead _ s hk
  | .slotSwitch _ => Kept.execSlotSwitch _ s hk
  | .slotEntryBoundary _ => Kept.execSlotEntryBoundary _ s hk
  | .protectedSpanStart _ => Kept.execProtectedSpanStart _ s hk
  | .protectedSpanEnd _ => Kept.execProtectedSpanEnd _ s hk
  | .ainumSend _ _ _ => Kept.execAinumSend _ _ _ s hk
  | .helloTimer _ => Kept.execHelloTimer _ s hk
  | .hello _ _ => Kept.execHello _ _ s hk
  | .confirm _ _ => Kept.execConfirm _ _ s hk
  | .stepPropose _ _ => Kept.execStepPropose _ _ s hk
  | .stepAck _ _ => Kept.execStepAck _ _ s hk
  | .timeSyncTimer _ => Kept.execTimeSyncTimer _ s hk
  | .timeSync _ _ _ => Kept.execTimeSync _ _ _ s hk
  | .timeReply _ _ _ => Kept.execTimeReply _ _ _ s hk
  | .token _ _ => Kept.execToken _ _ s hk
  | .capNotice _ _ => Kept.execCapNotice _ _ s hk
  | .peerTimeout _ => Kept.execPeerTimeout _ s hk
  | .tokenGo => Kept.execTokenGo s hk
  | .flowEvictTimer _ _ => Kept.execFlowEvictTimer _ _ s hk
  | .flowFlush => Kept.execFlowFlush s hk
  | .exportRecordForm => Kept.execExportRecordForm s hk
  | .exportMessageSend => Kept.execExportMessageSend s hk
  | .exportFlushTimer => Kept.execExportFlushTimer s hk
  | .templateSend => Kept.execTemplateSend s hk
  | .ldgRead _ => Kept.execLdgRead _ s hk
  | .ldgSnapshot _ => Kept.execLdgSnapshot _ s hk
  | .ldgSnapshotComplete _ => Kept.execLdgSnapshotComplete _ s hk
  | .pmcCountWrite _ _ _ => Kept.execPmcCountWrite _ _ _ s hk
  | .sourceForce _ => Kept.execSourceForce _ s hk
  | .srcCfgWrite _ _ _ => Kept.execSrcCfgWrite _ _ _ s hk
  | .vectorTimerExpiry _ => Kept.execVectorTimerExpiry _ s hk
  | .dispatchCommit _ => Kept.execDispatchCommit _ s hk
  | .vecEoi _ => Kept.execVecEoi _ s hk
  | .coreEoi _ => Kept.execCoreEoi _ s hk
  | .crossingFault _ _ _ => Kept.execCrossingFault _ _ _ s hk
  | .graceExpiry _ => Kept.execGraceExpiry _ s hk
  | .escAck _ => Kept.execEscAck _ s hk
  | .actionsWrite _ _ => Kept.execActionsWrite _ _ s hk
  | .escEnd _ => Kept.execEscEnd _ s hk
  | .escIsland _ => Kept.execEscIsland _ s hk
  | .escControl _ => Kept.execEscControl _ s hk
  | .escCold _ => Kept.execEscCold _ s hk
  | .escQuiesce _ => Kept.execEscQuiesce _ s hk
  | .escPortOff _ => Kept.execEscPortOff _ s hk
  | .escLoseStack _ => Kept.execEscLoseStack _ s hk
  | .escWait _ => Kept.execEscWait _ s hk
  | .regulatorPoll _ => Kept.execRegulatorPoll _ s hk
  | .scalesReady => Kept.execScalesReady s hk
  | .capLoopTick _ => Kept.execCapLoopTick _ s hk
  | .deferralForce _ => Kept.execDeferralForce _ s hk
  | .sclPolicyConflict _ _ => Kept.execSclPolicyConflict _ _ s hk
  | .glideComplete _ => Kept.execGlideComplete _ s hk
  | .pmbusAlert _ _ => Kept.execPmbusAlert _ _ s hk
  | .fastEstimateTick => Kept.execFastEstimateTick s hk
  | .limiterStep => Kept.execLimiterStep s hk
  | .limiterRelease => Kept.execLimiterRelease s hk
  | .absWrite _ => Kept.execAbsWrite _ s hk
  | .droopTrip _ => Kept.execDroopTrip _ s hk
  | .droopClear _ _ => Kept.execDroopClear _ _ s hk
  | .phaseTick => Kept.execPhaseTick s hk
  | .thermalSense _ _ => Kept.execThermalSense _ _ s hk
  | .throttleTick => Kept.execThrottleTick s hk
  | .cartPresenceChange _ _ => Kept.execCartPresenceChange _ _ s hk
  | .cartLatchOpen _ => Kept.execCartLatchOpen _ s hk
  | .cartLatchClose _ => Kept.execCartLatchClose _ s hk
  | .cartInt _ _ => Kept.execCartInt _ _ s hk
  | .cartAuthenticating _ _ => Kept.execCartAuthenticating _ _ s hk
  | .cartChallengeCheck _ _ => Kept.execCartChallengeCheck _ _ s hk
  | .cartEnRaise _ => Kept.execCartEnRaise _ s hk
  | .cartActivate _ => Kept.execCartActivate _ s hk
  | .removalRampStart _ => Kept.execRemovalRampStart _ s hk
  | .removalRampDone _ => Kept.execRemovalRampDone _ s hk
  | .removalEnLow _ => Kept.execRemovalEnLow _ s hk
  | .shareFailed _ _ => Kept.execShareFailed _ _ s hk
  | .lightLow _ _ => Kept.execLightLow _ _ s hk
  | .wearTick _ => Kept.execWearTick _ s hk
  | .wearRecordWrite _ => Kept.execWearRecordWrite _ s hk
  | .currentLoopStep _ _ _ => Kept.execCurrentLoopStep _ _ _ s hk
  | .cartPolicyConflict _ _ _ => Kept.execCartPolicyConflict _ _ _ s hk
  | .readId _ => Kept.execReadId _ s hk
  | .reauth _ _ => Kept.execReauth _ _ s hk
  | .setPolicy _ => Kept.execSetPolicy _ s hk
  | .prepareRemove _ => Kept.execPrepareRemove _ s hk
  | .keyUnwrap _ => Kept.execKeyUnwrap _ s hk
  | .keyErase _ => Kept.execKeyErase _ s hk
  | .ctxSave _ => Kept.execCtxSave _ s hk
  | .ctxRestore _ => Kept.execCtxRestore _ s hk
  | .keyEpochStart => Kept.execKeyEpochStart s hk
  | .trngFail => Kept.execTrngFail s hk
  | .hbmPhyTrained _ _ => Kept.execHbmPhyTrained _ _ s hk
  | .watchdogPageFree _ => Kept.execWatchdogPageFree _ s hk
  | .trngOk => Kept.execTrngOk s hk
  | .faultCleared _ => Kept.execFaultCleared _ s hk
  | .signalPresent _ => Kept.execSignalPresent _ s hk
  | .uncorrectableCodeword _ => Kept.execUncorrectableCodeword _ s hk
  | .commandTimeout _ _ => Kept.execCommandTimeout _ _ s hk

/-- A step takes the first command off the queue and keeps what every operation keeps. -/
theorem kept_step {s t : State} (hi : Inv s) (hs : step s = .next t) : Kept s.pending.tail s.top.fuses t := by
  unfold step at hs
  split at hs
  next hq =>
    have hk := Kept.of_inv hi
    rw [hq] at hk ⊢
    cases hs
    exact Kept.captureSnaps _ (Kept.tick _ hk)
  next c rest hq =>
    have hk : Kept rest s.top.fuses { s with pending := rest } :=
      ⟨hi.1, rfl, FusesGe.refl _, hi.2.2, hi.2.1⟩
    have ho := keptO_exec (s := { s with pending := rest }) hk c
    rw [hs] at ho
    rw [hq]
    exact ho

-- The fuses.

/-- No transition leads out of RETIRED (R56). -/
theorem lcsStep_retired (l : LcState) : lcsStep .retired l = false := by
  cases l <;> rfl

/-- Fuses that only moved forward from RETIRED are those of a RETIRED part. -/
theorem lcs_retired_of_fusesGe {g f : Fuses} (h : FusesGe g f) (hg : g.lcs = .retired) : f.lcs = .retired := by
  obtain ⟨-, -, -, -, hl, -⟩ := h
  rw [hg, lcsStep_retired] at hl
  simpa using hl

/-- Settles O6: each command keeps the order of the fuses, and RETIRED has no transition out. -/
theorem fusesOnlyForward : Obligations.FusesOnlyForward := by
  unfold Obligations.FusesOnlyForward
  intro s t hi hs
  have hf := (kept_step hi hs).fuses
  exact ⟨hf, lcs_retired_of_fusesGe hf⟩

-- The state at reset.

/-- Settles O3: the stores of the reset state are empty, and no transition is accepted. -/
theorem resetMeetsInvariant : Obligations.ResetMeetsInvariant := by
  unfold Obligations.ResetMeetsInvariant
  refine ⟨rfl, rfl, ?_⟩
  intro j hj
  cases hj

/-- At reset every register holds its reset word, since the register store is empty. -/
theorem reg_reset (a : Nat) : reg State.reset a = resetWord a := rfl

/-- Settles O7: the register clauses hold by the reset words of the registers that they name, the others by the fields of the state. -/
theorem resetLeaves : Obligations.ResetLeaves := by
  unfold Obligations.ResetLeaves
  have hb : resetWord 0x40 = 0#32 := by decide
  have hs : resetWord (aSrc 5) = 0#32 := by decide
  have he : resetWord (aEsc 5 0) = 0#32 := by decide
  refine ⟨rfl, rfl, ?_, reg_reset, rfl, rfl, rfl, rfl, rfl, rfl, rfl, rfl, rfl, rfl, ?_, ?_⟩
  · intro i _
    rw [bringup, regBit, reg_reset, hb, BitVec.getLsbD_zero]
  · rw [regF, reg_reset, hs]; rfl
  · rw [regF, reg_reset, he]; rfl

end Sys2Proof.Proofs
end

section
/-!
Proofs of the scope statements: accesses to registers, from the register map through the crossings to what a read shows and a
write does.
-/
namespace Sys2Proof.Proofs

open Sys2Proof Sys2Proof.Machine Sys2Proof.Laws

-- The register map.

/-- A register that the map names stands in a row of its block, at the offset of its address. -/
theorem blkOf_of_regInfo {a n i j : Nat} {b : Blk} {r : RegRow} (h : regInfo a = some (b, n, r, i, j)) :
    ∃ off, blkOf a = some (b, n, off) ∧ r ∈ blkRows b ∧ r.hit off = some (i, j) := by
  unfold regInfo at h
  split at h
  · cases h
  next b' n' off hb =>
    obtain ⟨r', hr, hm⟩ := List.exists_of_findSome?_eq_some h
    obtain ⟨x, hx, he⟩ := Option.map_eq_some_iff.mp hm
    cases he
    exact ⟨off, hb, hr, hx⟩

theorem regInfo_isSome_of_wide {a : Nat} (h : isWide a = true) : (regInfo a).isSome = true := by
  unfold isWide at h
  split at h
  next hr => rw [hr]; rfl
  · cases h

theorem regInfo_isSome_of_rcMask {a : Nat} (h : rcMask a ≠ 0) : (regInfo a).isSome = true := by
  unfold rcMask at h
  split at h
  next hr => rw [hr]; rfl
  · exact absurd rfl h

theorem regInfo_isSome_of_absent {s : State} {a : Nat} (h : absent s a = true) : (regInfo a).isSome = true := by
  unfold absent at h
  split at h
  next hr => rw [hr]; rfl
  · cases h

/-- Blocks and their units start at multiples of 8, so both words of a 64-bit register lie in the same one. -/
theorem blkOf_low_word {a n off : Nat} {b : Blk} (ha : a % 8 = 4) (h : blkOf a = some (b, n, off)) :
    blkOf (a - 4) = some (b, n, off - 4) ∧ off % 8 = 4 := by
  have haligned : ∀ x ∈ blkMap, x.2.1 % 8 = 0 ∧ x.2.2.1 % 8 = 0 := by decide
  unfold blkOf at h ⊢
  generalize blkMap = m at h haligned
  induction m with
  | nil => cases h
  | cons x m ih =>
    obtain ⟨b', base, size, cnt⟩ := x
    have hx : base % 8 = 0 ∧ size % 8 = 0 := haligned _ List.mem_cons_self
    obtain ⟨hbase, hsize⟩ := hx
    have hend : (base + size * cnt) % 8 = 0 := by
      rw [Nat.add_mod, Nat.mul_mod, hbase, hsize]; simp
    simp only [List.findSome?_cons] at h ⊢
    by_cases hin : base ≤ a ∧ a < base + size * cnt
    · have hin' : base ≤ a - 4 ∧ a - 4 < base + size * cnt := by omega
      rw [if_pos hin] at h
      rw [if_pos hin']
      cases h
      have hmod : (a - base) % size % 8 = 4 := by
        rw [Nat.mod_mod_of_dvd _ (Nat.dvd_of_mod_eq_zero hsize)]; omega
      have hsub : a - 4 - base = a - base - 4 := by omega
      have hdm := Nat.div_add_mod (a - base) size
      have hlt : 0 < size := Nat.pos_of_ne_zero fun h0 => by subst h0; omega
      have hml := Nat.mod_lt (a - base) hlt
      have heq : a - base - 4 = (a - base) % size - 4 + size * ((a - base) / size) := by omega
      refine ⟨?_, hmod⟩
      have hdiv : (a - 4 - base) / size = (a - base) / size := by
        rw [hsub, heq, Nat.add_mul_div_left _ _ hlt, Nat.div_eq_of_lt (by omega), Nat.zero_add]
      have hrem : (a - 4 - base) % size = (a - base) % size - 4 := by
        rw [hsub, heq, Nat.add_mul_mod_self_left, Nat.mod_eq_of_lt (by omega)]
      rw [hdiv, hrem]
    · have hin' : ¬ (base ≤ a - 4 ∧ a - 4 < base + size * cnt) := by omega
      rw [if_neg hin] at h
      rw [if_neg hin']
      exact ih h fun y hy => haligned y (List.mem_cons_of_mem _ hy)

-- Crossings.

theorem atCrossing_open {s : State} {h : Held} {f : State → State} (hr : s.top.inReset = false) :
    atCrossing s false h f = f s := by
  simp [atCrossing, hr]

theorem atCrossing_shut {s : State} {h : Held} {f : State → State} (hr : s.top.inReset = false) :
    atCrossing s true h f = { s with top := { s.top with held := s.top.held ++ [h] } } := by
  simp [atCrossing, hr]

/-- A read goes through the crossing of the register that it reads. -/
theorem readEffect_eq {s : State} {rq : Requester} {a : Nat} {pair : Bool} (hc : canAccess s rq = true) :
    readEffect s rq a pair = atCrossing s (shut s a) (.read rq a pair) (readAt rq a pair) := by
  rw [readEffect, hc]; rfl

theorem writeHigh_eq (s : State) (rq : Requester) (a : Nat) (v : Word) :
    writeHigh s rq a v = atCrossing (dropLow s rq (a - 4)) (shut s (a - 4)) (.wide (a - 4) (heldLowOf s rq (a - 4)) v)
      fun t => applyWide (a - 4) ((heldLowOf s rq (a - 4)).getD (reg t (a - 4))) v t := rfl

/-- The high word of a 64-bit register is applied with the low word that is held for it, or with the present one (R75). -/
theorem writeHigh_open {s : State} {rq : Requester} {a : Nat} {v : Word} (hr : s.top.inReset = false)
    (hs : shut s (a - 4) = false) : writeHigh s rq a v
      = applyWide (a - 4) ((heldLowOf s rq (a - 4)).getD (reg s (a - 4))) v (dropLow s rq (a - 4)) := by
  have hr' : (dropLow s rq (a - 4)).top.inReset = false := hr
  have hreg : reg (dropLow s rq (a - 4)) (a - 4) = reg s (a - 4) := rfl
  rw [writeHigh_eq, hs, atCrossing_open hr', hreg]

/-- At a shut crossing it waits together with the low word that was held for it. -/
theorem writeHigh_shut {s : State} {rq : Requester} {a : Nat} {v : Word} (hr : s.top.inReset = false)
    (hs : shut s (a - 4) = true) : writeHigh s rq a v = { dropLow s rq (a - 4) with
      top := { s.top with held := s.top.held ++ [.wide (a - 4) (heldLowOf s rq (a - 4)) v] } } := by
  have hr' : (dropLow s rq (a - 4)).top.inReset = false := hr
  have htop : (dropLow s rq (a - 4)).top = s.top := rfl
  rw [writeHigh_eq, hs, atCrossing_shut hr', htop]

-- Errors of accesses (R73, R74).

/-- A refused access sets its bit of HIF.ERR. -/
theorem regBit_hifErr (s : State) {bit : Nat} (h : bit < 32) : regBit (hifErr s bit) (aHif 8) bit = true := by
  rw [hifErr, regBit, reg_raise_ne (by decide) (by decide) (by decide) (by decide)]
  exact regBit_setBit_same h

theorem mem_pend_hifErr (s : State) (bit : Nat) : 0x161 ∈ (hifErr s bit).crier.pend := mem_raise _ _

theorem hifErr_out (s : State) (bit : Nat) : (hifErr s bit).out = s.out :=
  Only.hifErr (fr := [.regs, .owed, .crier, .flt]) s bit (Only.refl s) (by decide) (by decide) (by decide) (by decide)
    .out (by decide)

-- What a read shows and does (R10, R75, R350).

/-- The registers that clear when read are no 64-bit registers, and lie neither in TIM nor in AIN. -/
theorem clears_on_read_row : ∀ b : Blk, ∀ r ∈ blkRows b, r.rc ≠ 0 → r.wide = false ∧ b ≠ .tim ∧ b ≠ .ain := by
  intro b
  cases b <;> decide

theorem showsLatch_of_blkOf {a n off : Nat} {b : Blk} (h : blkOf a = some (b, n, off)) (ht : b ≠ .tim) (ha : b ≠ .ain) :
    showsLatch a = false := by
  unfold showsLatch
  rw [h]
  split
  next he => cases he; exact absurd rfl ht
  next he => cases he; exact absurd rfl ha
  · rfl

theorem readReg_latched {s : State} {rq : Requester} {a : Nat} (hi : (regInfo a).isSome = true)
    (hl : showsLatch a = true) : readReg s rq a = (latchOf s rq a, s) := by
  simp [readReg, Option.isNone_eq_false_iff.mpr hi, hl]

theorem readReg_low {s : State} {rq : Requester} {a : Nat} (hw : isWide a = true) (ha : a % 8 = 0)
    (hl : showsLatch a = false) : readReg s rq a = (regView s a, latchLow s rq a) := by
  simp [readReg, Option.isNone_eq_false_iff.mpr (regInfo_isSome_of_wide hw), hl, hw, ha]

/-- A read of a whole dword register shows its value and sends nothing yet. -/
theorem readReg_dword {s : State} {rq : Requester} {a : Nat} (hi : (regInfo a).isSome = true)
    (hl : showsLatch a = false) (hw : isWide a = false) :
    (readReg s rq a).1 = regView s a ∧ (readReg s rq a).2.out = s.out := by
  simp only [readReg, Option.isNone_eq_false_iff.mpr hi, hl, hw]
  by_cases ha : a = aTim 0x20
  · simp only [ha, if_true]
    exact ⟨rfl, rfl⟩
  · simp only [ha, if_false]
    refine ⟨rfl, ?_⟩
    exact Only.clearRc (fr := [.regs]) s a (Only.refl s) (by decide) .out (by decide)

/-- A read of a counter that clears when read. -/
theorem readReg_counter {s : State} {rq : Requester} {a : Nat} (h : rcMask a ≠ 0) (hab : absent s a = false) :
    readReg s rq a = (regView s a, setReg s a ((regView s a &&& ~~~(rcMask a)) ||| (resetWord a &&& rcMask a))) := by
  obtain ⟨⟨b, n, r, i, j⟩, hr⟩ := Option.isSome_iff_exists.mp (regInfo_isSome_of_rcMask h)
  obtain ⟨off, hb, hmem, -⟩ := blkOf_of_regInfo hr
  have hrc : r.rc ≠ 0 := by simpa [rcMask, hr] using h
  obtain ⟨hwide, htim, hain⟩ := clears_on_read_row b r hmem hrc
  have hne : a ≠ aTim 0x20 := by
    rintro rfl
    exact htim (congrArg (·.1) (Option.some.inj (hb.symm.trans (by decide : blkOf (aTim 0x20) = some (.tim, 0, 0x20)))))
  simp [readReg, clearRc, isWide, hr, hwide, showsLatch_of_blkOf hb htim hain, hne, hab, (show rcMask a ≠ 0#32 from h)]

theorem mem_setLatch {s : State} {rq : Requester} {a : Nat} {v : Word} :
    (rq, a, v) ∈ (setLatch s rq a v).hif.latches := List.mem_cons_self

theorem mem_setLatch_of_ne {s : State} {rq : Requester} {a b : Nat} {v w : Word} (hne : b ≠ a)
    (h : (rq, b, w) ∈ s.hif.latches) : (rq, b, w) ∈ (setLatch s rq a v).hif.latches :=
  List.mem_cons_of_mem _ (List.mem_filter.mpr ⟨h, by simp [hne]⟩)

/-- The read of a low word latches its high word (R75), whatever else it latches (R402). -/
theorem mem_latchLow (s : State) (rq : Requester) (a : Nat) :
    (rq, a + 4, regView s (a + 4)) ∈ (latchLow s rq a).hif.latches := by
  unfold latchLow
  dsimp only
  split
  · split
    · exact mem_setLatch_of_ne (by omega) (mem_setLatch_of_ne (by omega) mem_setLatch)
    · exact mem_setLatch
  · exact mem_setLatch

theorem latchLow_regs (s : State) (rq : Requester) (a : Nat) : (latchLow s rq a).regs = s.regs :=
  Only.latchLow (fr := [.hif]) s rq a (Only.refl s) (by decide) .regs (by decide)

theorem latchLow_out (s : State) (rq : Requester) (a : Nat) : (latchLow s rq a).out = s.out :=
  Only.latchLow (fr := [.hif]) s rq a (Only.refl s) (by decide) .out (by decide)

-- What a write does (R10, R16, R75).

/-- A write of a register by its access codes. -/
theorem plainWrite_eq {a n i j : Nat} {b : Blk} {r : RegRow} (h : regInfo a = some (b, n, r, i, j)) (s : State) (v : Word) :
    plainWrite a v s = if writeRefused r v
      then noteRefused b r v (setReg s a (applyWrite r (reg s a) v))
      else afterWrite a (reg s a) v (noteRefused b r v (setReg s a (applyWrite r (reg s a) v))) := by
  unfold plainWrite
  rw [h]

/-- A block, and an offset in it, where a write changes its register and has no effect beside. -/
def writesOnly : Blk → Nat → Bool
  | .top, _ | .tim, _ | .prg, _ | .tbl, _ | .pmc, _ | .sec, _ | .ldg, _ => true
  | .hif, off => off != 0x2000 && off != 0x3000
  | _, _ => false

theorem noteRefused_of_writesOnly {b : Blk} {off : Nat} (h : writesOnly b off = true) (r : RegRow) (v : Word) (s : State) :
    noteRefused b r v s = s := by
  unfold noteRefused
  split
  · cases h
  · cases h
  · rfl

theorem afterWrite_of_writesOnly {a n off : Nat} {b : Blk} (hb : blkOf a = some (b, n, off)) (h : writesOnly b off = true)
    (old v : Word) (s : State) : afterWrite a old v s = s := by
  cases b <;> simp_all [afterWrite, writesOnly]

/-- There a write is a write of the register. -/
theorem plainWrite_of_writesOnly {a n i j off : Nat} {b : Blk} {r : RegRow} (h : regInfo a = some (b, n, r, i, j))
    (hb : blkOf a = some (b, n, off)) (hw : writesOnly b off = true) (s : State) (v : Word) :
    plainWrite a v s = setReg s a (applyWrite r (reg s a) v) := by
  rw [plainWrite_eq h, afterWrite_of_writesOnly hb hw, noteRefused_of_writesOnly hw, ite_self]

/-- There a write changes no other part of the state and no other register, whether the map names one at the address or not. -/
theorem plainWrite_frame {a n off : Nat} {b : Blk} (hb : blkOf a = some (b, n, off)) (hw : writesOnly b off = true)
    (s : State) (v : Word) : Only [.regs] s (plainWrite a v s) ∧ RegsBut [a] s (plainWrite a v s) := by
  cases hr : regInfo a with
  | none =>
    have heq : plainWrite a v s = s := by rw [plainWrite, hr]
    rw [heq]
    exact ⟨Only.refl s, fun _ _ => rfl⟩
  | some x =>
    obtain ⟨b', n', r, i, j⟩ := x
    obtain ⟨off', hb', -, -⟩ := blkOf_of_regInfo hr
    obtain ⟨⟩ := Option.some.inj (hb.symm.trans hb')
    rw [plainWrite_of_writesOnly hr hb hw]
    exact ⟨Only.setReg (Only.refl s) (by decide), fun c hc => reg_setReg_ne (by simpa using hc)⟩

/-- The row of the register at an address can refuse a write. -/
def mayRefuse (a : Nat) : Bool :=
  match regInfo a with
  | some (_, _, r, _, _) => r.whole || r.sumMax != 0
  | none => false

theorem ne_of_writeRefused {a c n i j : Nat} {b : Blk} {r : RegRow} {v : Word} (h : regInfo a = some (b, n, r, i, j))
    (hr : writeRefused r v = true) (hc : mayRefuse c = false) : a ≠ c := by
  rintro rfl
  simp only [mayRefuse, h, Bool.or_eq_false_iff] at hc
  simp [writeRefused, hc.1, hc.2] at hr

/-- What a block notes of a bad code is written to registers that refuse no write. -/
theorem reg_noteRefused {a : Nat} (hne : ∀ c, mayRefuse c = false → a ≠ c) (b : Blk) (r : RegRow) (v : Word) (s : State) :
    reg (noteRefused b r v s) a = reg s a := by
  have herr : ∀ (t : State) (e i id : Nat), mayRefuse e = false → mayRefuse (aEsc id 0) = false →
      reg (raise (setBit t e i true) id) a = reg t a := fun t e i id he hid =>
    (reg_raise_ne (hne _ hid) (hne _ (by decide)) (hne _ (by decide)) (hne _ (by decide))).trans (reg_setBit_ne (hne _ he))
  have hspl : ∀ (t : State) (i : Nat), reg (raise (setBit t (aSpl 8) i true) 0x807) a = reg t a :=
    fun t i => herr t _ i _ (by decide) (by decide)
  unfold noteRefused
  split
  · split
    · exact herr s _ 0 _ (by decide) (by decide)
    · rfl
  · dsimp only
    split <;> split <;> simp only [hspl]
  · rfl

/-- A write that is refused whole leaves its register. -/
theorem reg_plainWrite_refused {a n i j : Nat} {b : Blk} {r : RegRow} {v : Word} (h : regInfo a = some (b, n, r, i, j))
    (hr : writeRefused r v = true) (s : State) : reg (plainWrite a v s) a = reg s a := by
  rw [plainWrite_eq h, if_pos hr, reg_noteRefused (fun _ hc => ne_of_writeRefused h hr hc), reg_setReg_same, applyWrite,
    if_pos hr]

/-- The low words held stand in the host interface. -/
theorem heldLowOf_congr {s t : State} {rq : Requester} {a : Nat} (h : t.hif = s.hif) :
    heldLowOf t rq a = heldLowOf s rq a := by
  rw [heldLowOf, heldLowOf, h]

theorem heldLowOf_holdLow (s : State) (rq : Requester) (a : Nat) (v : Word) : heldLowOf (holdLow s rq a v) rq a = some v := by
  simp [heldLowOf, holdLow]

theorem heldLowOf_dropLow (s : State) (rq : Requester) (a : Nat) : heldLowOf (dropLow s rq a) rq a = none := by
  have hnone : (dropLow s rq a).hif.heldLow.find? (fun x => x.1 == rq && x.2.1 == a) = none := by
    rw [List.find?_eq_none]
    intro x hx
    rw [Bool.not_eq_true]
    exact (Bool.not_eq_true' _).mp (List.mem_filter.mp hx).2
  rw [heldLowOf, hnone]
  rfl

/-- No 64-bit register of HIF stands above MB_CTRL or the orphan log's control register. -/
theorem wide_row_of_hif : ∀ r ∈ hifRows, r.wide = true → r.hit 0x2004 = none ∧ r.hit 0x3004 = none := by
  decide

/-- Both words of a 64-bit register of TIM and HIF stand where a write changes its register alone. -/
theorem writesOnly_of_wide {b : Blk} {r : RegRow} {off i j : Nat} (hb : b ∈ [Blk.tim, Blk.hif]) (hr : r ∈ blkRows b)
    (hw : r.wide = true) (hit : r.hit off = some (i, j)) (ho : off % 8 = 4) :
    writesOnly b off = true ∧ writesOnly b (off - 4) = true := by
  simp only [List.mem_cons, List.not_mem_nil, or_false] at hb
  rcases hb with rfl | rfl
  · exact ⟨rfl, rfl⟩
  · obtain ⟨hmail, horphan⟩ := wide_row_of_hif r hr hw
    have h1 : off ≠ 0x2004 := by rintro rfl; rw [hmail] at hit; cases hit
    have h2 : off ≠ 0x3004 := by rintro rfl; rw [horphan] at hit; cases hit
    simp only [writesOnly, Bool.and_eq_true, bne_iff_ne]
    omega

theorem applyWide_of_ne_flt {a n off : Nat} {b : Blk} (hb : blkOf a = some (b, n, off)) (hne : b ≠ .flt) (lo hi : Word)
    (s : State) : applyWide a lo hi s = plainWrite (a + 4) hi (plainWrite a lo s) := by
  unfold applyWide
  rw [hb]
  split
  next he => cases he; exact absurd rfl hne
  · rfl

/-- A whole value applied to a 64-bit register of TIM or HIF: its high word takes it by the access codes, and nothing but its two
words changes. -/
theorem applyWide_high {a n i j : Nat} {b : Blk} {r : RegRow} (h : regInfo a = some (b, n, r, i, j)) (hb : b ∈ [Blk.tim, Blk.hif])
    (hw : isWide a = true) (ha : a % 8 = 4) (lo hi : Word) (s : State) :
    reg (applyWide (a - 4) lo hi s) a = applyWrite r (reg s a) hi ∧ Only [.regs] s (applyWide (a - 4) lo hi s)
      ∧ RegsBut [a - 4, a] s (applyWide (a - 4) lo hi s) := by
  obtain ⟨off, hblk, hrow, hit⟩ := blkOf_of_regInfo h
  obtain ⟨hlow, ho⟩ := blkOf_low_word ha hblk
  have hwide : r.wide = true := by simpa [isWide, h] using hw
  obtain ⟨hq, hqlow⟩ := writesOnly_of_wide hb hrow hwide hit ho
  obtain ⟨honly, hbut⟩ := plainWrite_frame hlow hqlow s lo
  have hne : b ≠ .flt := by rintro rfl; cases hq
  have hback : a - 4 + 4 = a := by omega
  rw [applyWide_of_ne_flt hlow hne, hback, plainWrite_of_writesOnly h hblk hq]
  refine ⟨?_, Only.setReg honly (by decide), ?_⟩
  · rw [reg_setReg_same, hbut a (by simp; omega)]
  · intro c hc
    simp only [List.mem_cons, List.not_mem_nil, or_false, not_or] at hc
    rw [reg_setReg_ne hc.2, hbut c (by simpa using hc.1)]

-- Writes of whole dwords (R72 to R76), one equation for each way.

theorem busWrite_undefined {s : State} {rq : Requester} {a : Nat} {v : Word} (h : regInfo a = none) :
    busWrite s rq a v = hifErr s 0 := by
  simp [busWrite, h]

theorem busWrite_absent {s : State} {rq : Requester} {a : Nat} {v : Word} (h : absent s a = true) :
    busWrite s rq a v = s := by
  simp [busWrite, Option.isNone_eq_false_iff.mpr (regInfo_isSome_of_absent h), h]

theorem busWrite_low {s : State} {rq : Requester} {a : Nat} {v : Word} (hab : absent s a = false) (hw : isWide a = true)
    (ha : a % 8 = 0) : busWrite s rq a v = holdLow s rq a v := by
  simp [busWrite, Option.isNone_eq_false_iff.mpr (regInfo_isSome_of_wide hw), hab, hw, ha]

theorem busWrite_high {s : State} {rq : Requester} {a : Nat} {v : Word} (hab : absent s a = false) (hw : isWide a = true)
    (ha : a % 8 = 4) : busWrite s rq a v = writeHigh s rq a v := by
  simp [busWrite, Option.isNone_eq_false_iff.mpr (regInfo_isSome_of_wide hw), hab, hw, ha]

theorem busWrite_ownRow {s u : State} {rq : Requester} {a : Nat} {v : Word} (hi : (regInfo a).isSome = true)
    (hab : absent s a = false) (hw : isWide a = false) (ho : ownRow a v s = some u) : busWrite s rq a v = u := by
  simp [busWrite, Option.isNone_eq_false_iff.mpr hi, hab, hw, ho]

theorem busWrite_plain {s : State} {rq : Requester} {a : Nat} {v : Word} (hi : (regInfo a).isSome = true)
    (hab : absent s a = false) (hw : isWide a = false) (ho : (ownRow a v s).isNone = true) :
    busWrite s rq a v = atCrossing s (shut s a) (.write a v) (plainWrite a v) := by
  simp [busWrite, Option.isNone_eq_false_iff.mpr hi, hab, hw, Option.isNone_iff_eq_none.mp ho, holdWrite, shut]

/-- With whole dwords alone every one of them is written. -/
theorem forEach_whole_dwords {l : List (Word × Bool)} (h : l.all (·.2) = true) (f : State → (Word × Bool) × Nat → State)
    (s : State) : forEach l.zipIdx (fun s x => if x.1.2 then f s x else s) s = forEach l.zipIdx f s := by
  refine List.foldl_ext _ _ _ fun t x hx => ?_
  have hx2 : x.1.2 = true := List.all_eq_true.mp h _ (List.fst_mem_of_mem_zipIdx hx)
  exact if_pos hx2

/-- A word merged under a mask shows under it what it took. -/
theorem merge_and_mask (x y m : Word) : ((x &&& ~~~m) ||| (y &&& m)) &&& m = y &&& m := by
  ext i hi
  simp only [BitVec.getElem_and, BitVec.getElem_or, BitVec.getElem_not]
  cases m[i] <;> simp

-- The commands that carry an access, where it reaches the part.

theorem completes_registerWrite {a : Nat} {v : Word} {s : State} {P : State → Prop} (hp : s.hif.perst = false)
    (hr : s.top.inReset = false) (h : P (busWrite s .host a v)) : Completes (.registerWrite a v) s P := by
  refine ⟨_, ?_, h⟩
  change execRegisterWrite a v s = _
  simp [execRegisterWrite, hp, hr]

theorem completes_rcCounterRead {a : Nat} {s : State} {P : State → Prop} (hc : rcMask a ≠ 0)
    (h : P (readEffect s .host a false)) : Completes (.rcCounterRead a) s P := by
  refine ⟨_, ?_, h⟩
  change execRcCounterRead a s = _
  rw [execRcCounterRead, if_neg hc]

theorem completes_reg64LowWordRead {rq : Requester} {a : Nat} {s : State} {P : State → Prop} (hw : isWide a = true)
    (ha : a % 8 = 0) (h : P (readEffect s rq a false)) : Completes (.reg64LowWordRead rq a) s P := by
  refine ⟨_, ?_, h⟩
  change execReg64LowWordRead rq a s = _
  simp [execReg64LowWordRead, hw, ha]

theorem completes_reg64LowWordWrite {rq : Requester} {a : Nat} {v : Word} {s : State} {P : State → Prop}
    (hw : isWide a = true) (ha : a % 8 = 0) (hc : canAccess s rq = true) (hr : s.top.inReset = false)
    (hab : absent s a = false) (h : P (holdLow s rq a v)) : Completes (.reg64LowWordWrite rq a v) s P := by
  refine ⟨_, ?_, h⟩
  change execReg64LowWordWrite rq a v s = _
  simp [execReg64LowWordWrite, hw, ha, hc, hr, hab]

theorem completes_reg64HighWordWrite {rq : Requester} {a : Nat} {v : Word} {s : State} {P : State → Prop}
    (hw : isWide a = true) (ha : a % 8 = 4) (hc : canAccess s rq = true) (hr : s.top.inReset = false)
    (hab : absent s a = false) (h : P (writeHigh s rq a v)) : Completes (.reg64HighWordWrite rq a v) s P := by
  refine ⟨_, ?_, h⟩
  change execReg64HighWordWrite rq a v s = _
  simp [execReg64HighWordWrite, hw, ha, hc, hr, hab]

theorem completes_read_refused {a size : Nat} {dwords : List (Word × Bool)} {s : State} {P : State → Prop}
    (hp : s.hif.perst = false) (hr : s.top.inReset = false) (hs : readServed a size = false)
    (h : P (hifErr (emit s .completerAbort) 1)) : Completes (.bar0BadAccess false a size dwords) s P := by
  refine ⟨_, ?_, h⟩
  change execBar0BadAccess false a size dwords s = _
  simp [execBar0BadAccess, hp, hr, hs]

theorem completes_read_served {a size : Nat} {dwords : List (Word × Bool)} {s : State} {P : State → Prop}
    (hp : s.hif.perst = false) (hr : s.top.inReset = false) (hs : readServed a size = true)
    (h : P (readEffect s .host a (size == 8))) : Completes (.bar0BadAccess false a size dwords) s P := by
  refine ⟨_, ?_, h⟩
  change execBar0BadAccess false a size dwords s = _
  simp [execBar0BadAccess, hp, hr, hs]

/-- A write beyond 64 octets, or with a dword that is not whole, ends in an access error. -/
theorem completes_write_refused {a size : Nat} {dwords : List (Word × Bool)} {s : State} {P : State → Prop}
    (hp : s.hif.perst = false) (hr : s.top.inReset = false) (hs : 64 < size ∨ dwords.all (·.2) = false)
    (h : ∀ t : State, P (hifErr t 1)) : Completes (.bar0BadAccess true a size dwords) s P := by
  by_cases h64 : 64 < size
  · refine ⟨_, ?_, h s⟩
    change execBar0BadAccess true a size dwords s = _
    simp [execBar0BadAccess, hp, hr, h64]
  · refine ⟨hifErr (forEach dwords.zipIdx (fun u x => if x.1.2 then busWrite u .host (a / 4 * 4 + 4 * x.2) x.1.1 else u) s) 1,
      ?_, h _⟩
    change execBar0BadAccess true a size dwords s = _
    rw [execBar0BadAccess, hs.resolve_left h64]
    simp [hp, hr, h64]

theorem completes_write_whole {a size : Nat} {dwords : List (Word × Bool)} {s : State} {P : State → Prop}
    (hp : s.hif.perst = false) (hr : s.top.inReset = false) (hs : size ≤ 64) (hd : dwords.all (·.2) = true)
    (h : P (forEach dwords.zipIdx (fun u x => busWrite u .host (a / 4 * 4 + 4 * x.2) x.1.1) s)) :
    Completes (.bar0BadAccess true a size dwords) s P := by
  refine ⟨_, ?_, h⟩
  change execBar0BadAccess true a size dwords s = _
  rw [execBar0BadAccess, forEach_whole_dwords hd, hd]
  simp [hp, hr, Nat.not_lt.mpr hs]

/-- Settles O24: each clause runs its command to the access that reaches the part, and reads the effect off the equation of that
access. -/
theorem registerAccessesComplete : Obligations.RegisterAccessesComplete := by
  unfold Obligations.RegisterAccessesComplete
  refine ⟨?_, ?_, ?_, ?_, ?_, ?_, ?_, ?_, ?_, ?_, ?_, ?_, ?_, ?_, ?_, ?_⟩
  · -- R73: no register stands at the address.
    intro addr value s _ hp hr hn
    apply completes_registerWrite hp hr
    rw [busWrite_undefined hn]
    exact ⟨regBit_hifErr s (by decide), mem_pend_hifErr s 0⟩
  · -- R73: the unit lacks the register.
    intro addr value s hp hr hab
    exact completes_registerWrite hp hr (busWrite_absent hab)
  · -- The register has a row of its own.
    intro addr value u s hp hr hi hab hw ho
    exact completes_registerWrite hp hr (busWrite_ownRow hi hab hw ho)
  · -- R41, R48: the write waits at the crossing.
    intro addr value s hp hr hi hab hw ho hs
    apply completes_registerWrite hp hr
    rw [busWrite_plain hi hab hw ho, hs, atCrossing_shut hr]
  · -- R10, R16: the write acts by the access codes of its register.
    intro addr value b n r i j s _ hp hr hinfo hab hw ho hs
    apply completes_registerWrite hp hr
    rw [busWrite_plain (by rw [hinfo]; rfl) hab hw ho, hs, atCrossing_open hr]
    refine ⟨fun hrf => reg_plainWrite_refused hinfo hrf s, fun hrf => ?_, fun hb => ?_⟩
    · rw [plainWrite_eq hinfo, hrf, if_neg Bool.false_ne_true]
    · obtain ⟨off, hblk, -, -⟩ := blkOf_of_regInfo hinfo
      have hq : writesOnly b off = true := by
        fin_cases hb <;> rfl
      obtain ⟨honly, hbut⟩ := plainWrite_frame hblk hq s value
      refine ⟨?_, hbut, honly⟩
      rw [plainWrite_of_writesOnly hinfo hblk hq, reg_setReg_same]
  · -- R75: the low word of a 64-bit register is held.
    intro addr value s hp hr _ hab hw ha
    apply completes_registerWrite hp hr
    rw [busWrite_low hab hw ha]
    exact ⟨heldLowOf_holdLow s .host addr value, rfl⟩
  · -- R75: its high word goes on with what is held.
    intro addr value s hp hr _ hab hw ha
    exact completes_registerWrite hp hr (busWrite_high hab hw ha)
  · -- R10, R12: a counter that clears when read.
    intro addr s _ hc hp hr hab
    apply completes_rcCounterRead hc
    rw [readEffect_eq (by rw [canAccess, hp]; rfl)]
    refine ⟨fun hs => ?_, fun hs => ?_⟩
    · rw [hs, atCrossing_open hr, readAt, readReg_counter hc hab]
      refine ⟨rfl, ?_, fun c hne => reg_setReg_ne (by simpa using hne)⟩
      exact (congrArg (· &&& rcMask addr) reg_setReg_same).trans (merge_and_mask _ _ _)
    · rw [hs, atCrossing_shut hr]
  · -- R75, R350, R402: the read of a low word.
    intro rq addr s hw ha hc hr
    apply completes_reg64LowWordRead hw ha
    rw [readEffect_eq hc]
    cases hs : shut s addr with
    | true =>
      rw [atCrossing_shut hr]
      exact ⟨rfl, nofun, nofun, fun _ => ⟨rfl, rfl⟩⟩
    | false =>
      rw [atCrossing_open hr, readAt]
      cases hl : showsLatch addr with
      | true =>
        rw [readReg_latched (regInfo_isSome_of_wide hw) hl]
        exact ⟨rfl, nofun, fun _ _ => rfl, nofun⟩
      | false =>
        rw [readReg_low hw ha hl]
        refine ⟨latchLow_regs s rq addr, fun _ _ => ⟨?_, mem_latchLow s rq addr⟩, nofun, nofun⟩
        exact congrArg (· ++ _) (latchLow_out s rq addr)
  · -- R75: REG64_LOW_WORD_WRITE.
    intro rq addr value s hw ha hc hr hab
    exact completes_reg64LowWordWrite hw ha hc hr hab ⟨heldLowOf_holdLow s rq addr value, rfl⟩
  · -- R75: REG64_HIGH_WORD_WRITE, applied.
    intro rq addr value b n r i j s _ hinfo hw ha hc hr hab hs
    apply completes_reg64HighWordWrite hw ha hc hr hab
    rw [writeHigh_open hr hs]
    refine ⟨rfl, fun hb => ?_⟩
    obtain ⟨hreg, honly, hbut⟩ := applyWide_high hinfo hb hw ha ((heldLowOf s rq (addr - 4)).getD (reg s (addr - 4))) value
      (dropLow s rq (addr - 4))
    refine ⟨hreg, ?_, hbut⟩
    rw [heldLowOf_congr (honly .hif (by decide)), heldLowOf_dropLow]
  · -- R48, R75: REG64_HIGH_WORD_WRITE, waiting.
    intro rq addr value s hw ha hc hr hab hs
    apply completes_reg64HighWordWrite hw ha hc hr hab
    rw [writeHigh_shut hr hs]
    exact ⟨rfl, rfl⟩
  · -- R74: a read of another size.
    intro addr size dwords s _ hp hr hs
    apply completes_read_refused hp hr hs
    exact ⟨hifErr_out _ 1, regBit_hifErr _ (by decide), mem_pend_hifErr _ 1⟩
  · -- R74: a read of 4 or 8 aligned octets.
    intro addr size dwords s hp hr hs hopen hi
    apply completes_read_served hp hr hs
    rw [readEffect_eq (by rw [canAccess, hp]; rfl), hopen, atCrossing_open hr, readAt]
    refine ⟨?_, ?_, ?_⟩
    · rintro rfl hw hl
      obtain ⟨hval, hout⟩ := readReg_dword (s := s) (rq := .host) hi hl hw
      simp [emit, hval, hout]
    · rintro rfl hl
      rw [readReg_latched hi hl]
      rfl
    · rintro rfl hw hl
      have ha : addr % 8 = 0 := by simpa [readServed] using hs
      rw [readReg_low hw ha hl]
      simp [emit, hw, hl, latchLow_out]
  · -- R74: a write that is refused, or has a dword that is not whole.
    intro addr size dwords s _ hp hr hs
    exact completes_write_refused hp hr hs fun t => ⟨regBit_hifErr t (by decide), mem_pend_hifErr t 1⟩
  · -- R74: a write of whole dwords.
    intro addr size dwords s hp hr hs hd
    exact completes_write_whole hp hr hs hd rfl

end Sys2Proof.Proofs
end

section
/-!
Proofs of the bring-up statements: without reference clock pair 0 the control island stays in reset, and no fuses are loaded.
-/
namespace Sys2Proof.Proofs

open Sys2Proof Sys2Proof.Machine Sys2Proof.Laws

/-- Fuse load is the control island's: held in reset, it leaves the state alone. -/
theorem exec_fusesLoaded_of_controlIslandDown {s : State} (h : islandDown s 126 = true) : exec .fusesLoaded s = .next s := by
  change execFusesLoaded s = .next s
  rw [execFusesLoaded, h]
  rfl

/-- The part released from its cold reset with REFCLK pair 0 absent: the islands that the pair feeds stay in reset (R40). -/
def releasedWithoutRefclk0 : State :=
  { State.reset with top := { Top.reset with inReset := false, unfed := [124, 126, 127, 128] } }

/-- The release leads there from reset, with every strap low and the other three pairs present. -/
theorem exec_coldResetRelease_withoutRefclk0 :
    exec (.coldResetRelease 0#5 0b1110#4) State.reset = .next releasedWithoutRefclk0 := rfl

theorem inv_releasedWithoutRefclk0 : Inv releasedWithoutRefclk0 := by
  refine ⟨rfl, rfl, ?_⟩
  intro j hj
  cases hj

theorem bringup_releasedWithoutRefclk0 : bringup releasedWithoutRefclk0 0 = false := by
  have hword : resetWord 0x40 = 0#32 := by decide
  have hreg : reg releasedWithoutRefclk0 0x40 = resetWord 0x40 := rfl
  rw [bringup, regBit, hreg, hword, BitVec.getLsbD_zero]

/-- Refutes O17: its clause on fuse load asks only that the part is out of reset and that the fuses have not been loaded. After a release
without REFCLK pair 0 both hold, but the control island (126) is in reset for want of its clock (R40), and FUSES_LOADED sets no bit. -/
theorem not_bringUpCompletes : ¬ Obligations.BringUpCompletes := by
  unfold Obligations.BringUpCompletes
  rintro ⟨-, hfuses, -⟩
  obtain ⟨t, hexec, hset, -⟩ :=
    hfuses releasedWithoutRefclk0 inv_releasedWithoutRefclk0 rfl bringup_releasedWithoutRefclk0
  have hdown : islandDown releasedWithoutRefclk0 126 = true := by decide
  have hsame : releasedWithoutRefclk0 = t :=
    Host.Outcome.next.inj ((exec_fusesLoaded_of_controlIslandDown hdown).symm.trans hexec)
  rw [← hsame, bringup_releasedWithoutRefclk0] at hset
  cases hset

end Sys2Proof.Proofs
end

section
/-!
Proofs of the statements on islands, clocks and reset: the step keeps the invariant, and a cold reset drops what firmware owes the
journal, which the frame of a cold reset in the statements on supplies and resets leaves out.
-/
namespace Sys2Proof.Proofs

open Sys2Proof Sys2Proof.Machine Sys2Proof.Laws

/-- Settles O4: the next state of a step keeps what every operation keeps, of which the invariant is a part. -/
theorem stepKeepsInvariant : Obligations.StepKeepsInvariant := by
  unfold Obligations.StepKeepsInvariant
  intro s t hi hs
  have hk := kept_step hi hs
  exact ⟨hk.wf, hk.mem, hk.job⟩

-- A cold reset and what firmware owes the journal.

/-- The frame of a cold reset asks of the records owed to the journal both that they are those of the reset state, which has none, and
that they have not changed: it can hold only where none was owed. -/
theorem owed_eq_nil_of_coldResetFrom {cause : Nat} {more : List Nat} {io : Bool} {s t : State}
    (h : ColdResetFrom cause more io s t) : s.owed = [] := by
  obtain ⟨-, -, -, -, -, -, -, -, hreset, hsame⟩ := h
  have hwiped : t.owed = State.reset.owed := hreset .owed (by decide)
  have hkept : t.owed = s.owed := hsame .owed (by decide)
  exact hkept.symm.trans hwiped

/-- The part released from its cold reset with every strap low and every REFCLK pair present. -/
def releasedPart : State := { State.reset with top := { Top.reset with inReset := false } }

theorem exec_coldResetRelease_allRefclks : exec (.coldResetRelease 0#5 0b1111#4) State.reset = .next releasedPart := rfl

/-- Source 0x010 has been forced: its action list starts at once (R436), and firmware, which does not run yet, owes the journal a
record of it (R435). -/
def owingPart : State := raise releasedPart 0x010

theorem exec_sourceForce_releasedPart : exec (.sourceForce 0x010#32) releasedPart = .next owingPart := by
  have hopen : crossingShut releasedPart 126 = false := by decide
  have hid : fget 0x010#32 11 0 = 0x010 := by decide
  change execSourceForce 0x010#32 releasedPart = _
  simp [execSourceForce, holdWrite, hopen, atCrossing_open (show releasedPart.top.inReset = false from rfl), hid, owingPart]

theorem owingPart_owed : owingPart.owed = [.fault (.escalation 0x010)] := by decide

theorem not_coldResetFrom_owingPart {cause : Nat} {more : List Nat} {io : Bool} {t : State} :
    ¬ ColdResetFrom cause more io owingPart t := fun h =>
  List.cons_ne_nil _ _ (owingPart_owed.symm.trans (owed_eq_nil_of_coldResetFrom h))

/-- Refutes O16: a cold reset loses the records owed to the journal, but its frame lists the part that holds them neither among those
that change nor among those that are kept. From a part that owes one, SYS_RST_N low for 10 µs does not lead where the first clause says. -/
theorem not_supplyCommandsComplete : ¬ Obligations.SupplyCommandsComplete := by
  unfold Obligations.SupplyCommandsComplete
  rintro ⟨hlow, -⟩
  obtain ⟨t, -, hcold⟩ := hlow 10000 owingPart le_rfl
  exact not_coldResetFrom_owingPart hcold

/-- Refutes O18: its clause on the cold reset from TOP.ISL_RESET has the same frame. -/
theorem not_resetsComplete : ¬ Obligations.ResetsComplete := by
  unfold Obligations.ResetsComplete
  rintro ⟨-, -, -, hcold, -⟩
  obtain ⟨t, -, ht⟩ := hcold owingPart rfl
  exact not_coldResetFrom_owingPart ht

end Sys2Proof.Proofs
end

section
/-!
Proofs of the statements on islands, clocks and reset: what leaves the host island alone, the mailbox response and the orphan log, and
the completion of a host command.
-/
namespace Sys2Proof.Proofs

open Sys2Proof Sys2Proof.Machine Sys2Proof.Laws

-- The host island left alone.

/-- The registers, none of them of the host island, that a signature check, a read of Market data and the drop of a copy write. -/
def apartFromHost : List RegName :=
  [.fltRec, .fltFirst, .fltCount0, .fltCount1, .fltCount2, .escCfg, .mktStatus, .poolFree, .mktCount0, .mktCount3, .mktCount4,
   .mktCount5, .mktCount6, .mktCount7, .partUsed, .qcfgPitch, .qcfgOcc, .pfcState, .ingUsed, .hdrmUsed, .bankStatus, .bankEcc,
   .stagingFree, .splCount, .stackStatus, .qspillStatus, .talCount, .pmcCount, .secCount]

/-- They lie above the registers of the host island. -/
theorem not_regIn_apartFromHost {a : Nat} (h : a < 0x200000) : ¬ RegIn apartFromHost a := by
  rintro ⟨r, hr, ha⟩
  fin_cases hr <;>
    grind [RegName.at, aFlt, aEsc, aMkt, aPoolFree, aUsed, aQcfg, aMPort, aIngUsed, aHdrmUsed, aBank, aSpl, aStack, aQspill,
      aTal, aPmc, aPmcCount, aSec]

/-- From `s` to `t` the host island has not changed: neither its part of the state nor a register up to the end of its block. -/
structure SameHost (s t : State) : Prop where
  hif : t.hif = s.hif
  regs : ∀ a, a < 0x200000 → reg t a = reg s a

theorem SameHost.refl (s : State) : SameHost s s := ⟨rfl, fun _ _ => rfl⟩

theorem SameHost.trans {s t u : State} (h : SameHost s t) (k : SameHost t u) : SameHost s u :=
  ⟨k.hif.trans h.hif, fun a ha => (k.regs a ha).trans (h.regs a ha)⟩

theorem SameHost.withTop {s t : State} (h : SameHost s t) (x : Top) : SameHost s { t with top := x } := ⟨h.hif, h.regs⟩

/-- Parts without that of the host island, and registers apart from its own, frame what leaves it alone. -/
theorem SameHost.of_frame {ps : List Part} {s t : State} (ho : Only ps s t) (hp : Part.hif ∉ ps)
    (hr : RegsOnly apartFromHost s t) : SameHost s t :=
  ⟨ho .hif hp, fun _ ha => hr _ (not_regIn_apartFromHost ha)⟩

theorem onlySigCount (s : State) (ok : Bool) : Only [.regs, .owed, .crier, .flt] s (sigCount s ok) :=
  Only.sigCount s ok (Only.refl s) (by decide) (by decide) (by decide) (by decide)

theorem sameHost_sigCount (s : State) (ok : Bool) : SameHost s (sigCount s ok) :=
  .of_frame (onlySigCount s ok) (by decide)
    (Named.sigCount s ok (fun _ _ => rfl) (by decide) (by decide) (by decide))

/-- A raised source writes no register of the host island. -/
theorem reg_raise_host (s : State) (id : Nat) {a : Nat} (h : a < 0x200000) : reg (raise s id) a = reg s a :=
  Named.raise (rs := apartFromHost) (fun _ _ => rfl) (by decide) (by decide) a (not_regIn_apartFromHost h)

-- The orphan log (R98, R101).

/-- The end of settling changes no register of the host island but a bit of the log's control register. -/
theorem reg_settleDone_ne (s : State) {a : Nat} (h : a < 0x200000) (hne : a ≠ aHif 0x3000) :
    reg (settleDone s) a = reg s a := by
  unfold settleDone
  split
  · rw [reg_raise_host _ _ h, reg_setBit_ne hne]
  · rfl

/-- It leaves the number of entries. -/
theorem regF_settleDone (s : State) : regF (settleDone s) (aHif 0x3000) 10 0 = regF s (aHif 0x3000) 10 0 := by
  unfold settleDone
  split
  · rw [regF, reg_raise_host _ _ (by decide), reg_setBit_same, fget_fset_ne _ _ (by decide) (by decide)]
    rfl
  · rfl

/-- Where the log has room, the record of a command or request that has ended is its next entry (Table HIF-15). -/
theorem settleDone_orphan_of_room {s : State} {o : Orphan} {n : Nat} (hn : regF s (aHif 0x3000) 10 0 = n) (h : n < 1024) :
    regF (settleDone (orphan s o)) (aHif 0x3000) 10 0 = n + 1
      ∧ reg (settleDone (orphan s o)) (aHif (0x4000 + 8 * n))
        = BitVec.ofNat 32 (o.tag % 65536 + (o.opcode % 256) * 65536 + (o.cr % 256) * 2 ^ 24)
      ∧ reg (settleDone (orphan s o)) (aHif (0x4000 + 8 * n) + 4) = BitVec.ofNat 32 (o.status % 256) := by
  have hctrl : aHif 0x3000 = 0x103000 := rfl
  have hentry : aHif (0x4000 + 8 * n) = 0x104000 + 8 * n := by simp only [aHif]; omega
  have ho : orphan s o = setF (setReg (setReg s (0x104000 + 8 * n)
      (BitVec.ofNat 32 (o.tag % 65536 + (o.opcode % 256) * 65536 + (o.cr % 256) * 2 ^ 24)))
      (0x104000 + 8 * n + 4) (BitVec.ofNat 32 (o.status % 256))) 0x103000 10 0 (n + 1) := by
    unfold orphan
    dsimp only
    rw [hn, if_pos h, hentry, hctrl]
  rw [regF_settleDone, hentry, reg_settleDone_ne _ (by omega) (by rw [hctrl]; omega),
    reg_settleDone_ne _ (by omega) (by rw [hctrl]; omega), hctrl, ho]
  refine ⟨?_, ?_, ?_⟩
  · rw [regF_setF_same (by decide)]
    omega
  · rw [reg_setF_ne (by omega), reg_setReg_ne (by omega), reg_setReg_same]
  · rw [reg_setF_ne (by omega), reg_setReg_same]

-- The mailbox response (R96).

/-- The response area takes a response dword by dword. -/
theorem reg_mailPut (s : State) (b : List Byte) {i : Nat} (h : i < 64) :
    reg (mailPut s b) (aHif (0x2200 + 4 * i)) = BitVec.ofNat 32 (leAt b (4 * i) 4) := by
  have key : ∀ n, i < n → reg (forEach (List.range n)
      (fun s i => setReg s (aHif (0x2200 + 4 * i)) (BitVec.ofNat 32 (leAt b (4 * i) 4))) s) (aHif (0x2200 + 4 * i))
        = BitVec.ofNat 32 (leAt b (4 * i) 4) := by
    intro n
    induction n with
    | zero => intro hi; omega
    | succ n ih =>
      intro hi
      rw [forEach, List.range_succ, List.foldl_append, List.foldl_cons, List.foldl_nil]
      by_cases hn : i = n
      · rw [hn, reg_setReg_same]
      · rw [reg_setReg_ne (by simp only [aHif]; omega)]
        exact ih (by omega)
  exact key 64 h

theorem mailPut_hif (s : State) (b : List Byte) : (mailPut s b).hif = s.hif :=
  Only.mailPut (fr := [.regs]) s b (Only.refl s) (by decide) .hif (by decide)

/-- The first two dwords of a response: CODE with TAG, and STATUS (Table HIF-13). -/
theorem leAt_response (code tag status : Nat) :
    leAt (bytesLE 2 code ++ bytesLE 2 tag ++ bytesLE 4 (status % 256) ++ []) 0 4 = code % 65536 + tag % 65536 * 65536
      ∧ leAt (bytesLE 2 code ++ bytesLE 2 tag ++ bytesLE 4 (status % 256) ++ []) 4 4 = status % 256 := by
  simp [leAt, sliceZ, bytesLE, leNat, List.range_succ, Nat.shiftRight_eq_div_pow]
  omega

/-- The request that is served is one that a PERST_N reset left, or the one that a core has taken. -/
theorem mailServed_cases {s : State} {m : MailReq} (h : mailServed s = some m) :
    s.hif.oldMail = some m ∨ (s.hif.oldMail = none ∧ s.hif.mail = some m) := by
  unfold mailServed at h
  split at h
  next x hx => exact .inl (hx.trans h)
  next hx =>
    refine .inr ⟨hx, ?_⟩
    split at h
    next y hy =>
      split at h
      · exact hy.trans h
      · cases h
    · cases h

theorem mailTake_oldMail (s : State) : (mailTake s).hif.oldMail = s.hif.oldMail := by
  unfold mailTake
  split <;> rfl

theorem mailTake_reg (s : State) (a : Nat) : reg (mailTake s) a = reg s a := by
  unfold mailTake
  split <;> rfl

theorem settleDone_orphan_hif (s : State) (o : Orphan) : (settleDone (orphan s o)).hif = s.hif :=
  Only.settleDone (fr := [.regs, .owed, .crier, .flt]) _ (Only.orphan s o (Only.refl s) (by decide)) (by decide) (by decide)
    (by decide) (by decide) .hif (by decide)

/-- Firmware that has left the host island alone meanwhile answers the request that it serves. -/
theorem responds_mailRespond {s u : State} {m : MailReq} (hm : mailServed s = some m) (hu : SameHost s u) (status : Nat) :
    Responds s (mailRespond u status []) m status := by
  rcases mailServed_cases hm with hold | ⟨hnone, hmail⟩
  · have hl : regF u (aHif 0x3000) 10 0 = regF s (aHif 0x3000) 10 0 := congrArg (fget · 10 0) (hu.regs _ (by decide))
    have ht : mailRespond u status [] = mailTake (settleDone (orphan { u with hif := { u.hif with oldMail := none } }
        { tag := m.tag, opcode := 0xFF, cr := 0xFF, status := status })) := by
      simp only [mailRespond, hu.hif, hold]
    rw [ht]
    refine ⟨?_, fun h => by simp [hold] at h, fun _ hroom => ?_⟩
    · rw [mailTake_oldMail, settleDone_orphan_hif]
    · simp only [regF, mailTake_reg]
      exact settleDone_orphan_of_room hl hroom
  · have ht : mailRespond u status [] = raise (setBit (mailPut { u with hif := { u.hif with mail := none } }
        (bytesLE 2 m.code ++ bytesLE 2 m.tag ++ bytesLE 4 (status % 256) ++ [])) (aHif 0x2000) 1 false) 0x160 := by
      simp only [mailRespond, hu.hif, hnone, hmail]
    obtain ⟨hcode, hstatus⟩ := leAt_response m.code m.tag status
    rw [ht]
    refine ⟨?_, fun _ => ⟨?_, ?_, mem_raise _ _, ?_, ?_⟩, fun h => absurd hnone h⟩
    · simp [mailPut_hif, hu.hif, hnone]
    · simp [mailPut_hif]
    · rw [regBit, reg_raise_host _ _ (by decide)]
      exact regBit_setBit_same (by decide)
    · rw [reg_raise_host _ _ (by decide), reg_setBit_ne (by decide)]
      exact (reg_mailPut _ _ (i := 0) (by decide)).trans (congrArg (BitVec.ofNat 32) hcode)
    · rw [reg_raise_host _ _ (by decide), reg_setBit_ne (by decide)]
      exact (reg_mailPut _ _ (i := 1) (by decide)).trans (congrArg (BitVec.ofNat 32) hstatus)

theorem mailRespond_top (s : State) (status : Nat) (payload : List Byte) : (mailRespond s status payload).top = s.top :=
  Only.mailRespond (fr := [.regs, .owed, .hif, .crier, .flt]) s status payload (Only.refl s) (by decide) (by decide) (by decide)
    (by decide) (by decide) .top (by decide)

theorem sigCount_top (s : State) (ok : Bool) : (sigCount s ok).top = s.top := onlySigCount s ok .top (by decide)

end Sys2Proof.Proofs
end

section
/-!
Proofs of the statements on islands, clocks and reset: the two services of the mailbox.
-/
namespace Sys2Proof.Proofs

open Sys2Proof Sys2Proof.Machine Sys2Proof.Laws

-- LCS_CHANGE (R56, R482).

/-- An accepted transition waits to begin: the first that was accepted. -/
def withJob (s : State) (j : LcsJob) : State := { s with top := { s.top with lcsJob := some (s.top.lcsJob.getD j) } }

/-- A signature check changes nothing that a transition's fuses are taken from. -/
theorem lcsJobOf_sigCount (s : State) (ok : Bool) (dest : LcState) (b : List Byte) :
    lcsJobOf (sigCount s ok) dest b = lcsJobOf s dest b := by
  have hsec : (sigCount s ok).sec = s.sec := onlySigCount s ok .sec (by decide)
  simp only [lcsJobOf, slot4, getSlot, hsec, isE1, sigCount_top]

/-- The job of a transition leads to the state that the request names. -/
theorem lcsJobOf_target {s : State} {dest : LcState} {b : List Byte} {j : LcsJob} (h : lcsJobOf s dest b = some j) :
    j.target = dest := by
  cases dest <;> simp only [lcsJobOf] at h
  case provisioned =>
    split at h
    · cases h; rfl
    · cases h
  all_goals cases h; rfl

section Answer

variable {s : State} {m : MailReq} {dest : LcState}

theorem lcsAnswer_malformed (h : lcsMalformed (leAt m.area 8 1) (leAt m.area 12 2) (lcsBlob m) = true) :
    lcsAnswer s m = mailRespond s stBadArg [] := by
  unfold lcsBlob at h
  simp [lcsAnswer, h]

theorem lcsAnswer_forbidden (hwf : lcsMalformed (leAt m.area 8 1) (leAt m.area 12 2) (lcsBlob m) = false)
    (hd : lcsOf (leAt (lcsBlob m) 5 1) = some dest) (h : lcsForbidden s m dest = true) :
    lcsAnswer s m = mailRespond s stNotPermitted [] := by
  simp only [lcsBlob, lcsForbidden] at hwf hd h
  simp_all [lcsAnswer]

/-- A permitted request is proved by its blob (check 3), of whose parts the signature alone is counted. -/
theorem lcsAnswer_permitted (hwf : lcsMalformed (leAt m.area 8 1) (leAt m.area 12 2) (lcsBlob m) = false)
    (hd : lcsOf (leAt (lcsBlob m) 5 1) = some dest) (h : lcsForbidden s m dest = false) :
    lcsAnswer s m =
      if !(blobId s (lcsBlob m) && signerOk s dest (leAt (lcsBlob m) 6 1) && ownerKeyOk s (lcsBlob m)) then
        mailRespond s stAuthFail []
      else if !blobSig s (lcsBlob m) then mailRespond (sigCount s false) stAuthFail []
      else (lcsJobOf s dest (lcsBlob m)).elim (mailRespond (sigCount s true) stAuthFail [])
        fun j => mailRespond (withJob (sigCount s true) j) stOk [] := by
  simp only [lcsBlob, lcsForbidden] at hwf hd h ⊢
  simp only [lcsAnswer, hwf, hd, if_neg Bool.false_ne_true, lcsJobOf_sigCount, Bool.not_and]
  rw [if_neg (by simpa using h)]
  cases lcsJobOf s dest (sliceZ m.area 16 240) <;> rfl

/-- A blob that does not prove itself is answered with AUTH_FAIL, whichever of its parts is at fault. -/
theorem lcsAnswer_unproved (hwf : lcsMalformed (leAt m.area 8 1) (leAt m.area 12 2) (lcsBlob m) = false)
    (hd : lcsOf (leAt (lcsBlob m) 5 1) = some dest) (h : lcsForbidden s m dest = false) (hp : lcsProved s m dest = false) :
    ∃ u, lcsAnswer s m = mailRespond u stAuthFail [] ∧ SameHost s u ∧ u.top = s.top := by
  rw [lcsAnswer_permitted hwf hd h]
  split
  · exact ⟨s, rfl, .refl s, rfl⟩
  next hid =>
    have hsig : blobSig s (lcsBlob m) = false := by simp_all [lcsProved]
    rw [hsig]
    exact ⟨_, rfl, sameHost_sigCount s false, sigCount_top s false⟩

/-- A blob that proves itself has its transition accepted. -/
theorem lcsAnswer_proved (hwf : lcsMalformed (leAt m.area 8 1) (leAt m.area 12 2) (lcsBlob m) = false)
    (hd : lcsOf (leAt (lcsBlob m) 5 1) = some dest) (h : lcsForbidden s m dest = false) (hp : lcsProved s m dest = true)
    {j : LcsJob} (hj : lcsJobOf s dest (lcsBlob m) = some j) :
    lcsAnswer s m = mailRespond (withJob (sigCount s true) j) stOk [] := by
  simp only [lcsProved, Bool.and_eq_true] at hp
  simp [lcsAnswer_permitted hwf hd h, hp, hj]

/-- No answer burns a fuse: an accepted transition begins later. -/
theorem lcsAnswer_fuses (s : State) (m : MailReq) : (lcsAnswer s m).top.fuses = s.top.fuses := by
  unfold lcsAnswer
  dsimp only
  repeat' split
  all_goals simp only [mailRespond_top, sigCount_top]

end Answer

/-- R482: LCS_CHANGE answers by the first check that fails, and an accepted transition waits. -/
theorem execLcsChange_answers {m : MailReq} {s : State} (hm : mailServed s = some m) (hc : m.code = 1) (hfw : fwRuns s = true) :
    Completes .lcsChange s fun t => t.top.fuses = s.top.fuses
      ∧ (lcsBad m = true → Responds s t m stBadArg ∧ t.top.lcsJob = s.top.lcsJob)
      ∧ (∀ dest, lcsOf (leAt (lcsBlob m) 5 1) = some dest → lcsBad m = false →
          (lcsForbidden s m dest = true → Responds s t m stNotPermitted ∧ t.top.lcsJob = s.top.lcsJob)
          ∧ (lcsForbidden s m dest = false → lcsProved s m dest = false → Responds s t m stAuthFail ∧ t.top.lcsJob = s.top.lcsJob)
          ∧ (lcsForbidden s m dest = false → lcsProved s m dest = true → ∀ j, lcsJobOf s dest (lcsBlob m) = some j →
              Responds s t m stOk ∧ t.top.lcsJob = some (s.top.lcsJob.getD j) ∧ j.target = dest)) := by
  have hexec : exec .lcsChange s = .next (if mailBad m then mailRespond s stBadArg [] else lcsAnswer s m) := by
    change execLcsChange s = _
    simp [execLcsChange, hm, hc, hfw]
  refine ⟨_, hexec, ?_⟩
  cases hbad : mailBad m with
  | true =>
    have hlcs : lcsBad m = true := by rw [lcsBad, hbad, Bool.true_or]
    rw [if_pos rfl, mailRespond_top, hlcs]
    exact ⟨rfl, fun _ => ⟨responds_mailRespond hm (.refl s) _, rfl⟩, nofun⟩
  | false =>
    have hlcs : lcsBad m = lcsMalformed (leAt m.area 8 1) (leAt m.area 12 2) (lcsBlob m) := by
      rw [lcsBad, hbad, Bool.false_or]
    rw [if_neg Bool.false_ne_true, hlcs]
    refine ⟨lcsAnswer_fuses s m, fun hmal => ?_, fun dest hd hwf => ⟨fun hf => ?_, fun hf hp => ?_, fun hf hp j hj => ?_⟩⟩
    · rw [lcsAnswer_malformed hmal, mailRespond_top]
      exact ⟨responds_mailRespond hm (.refl s) _, rfl⟩
    · rw [lcsAnswer_forbidden hwf hd hf, mailRespond_top]
      exact ⟨responds_mailRespond hm (.refl s) _, rfl⟩
    · obtain ⟨u, hu, hhost, htop⟩ := lcsAnswer_unproved hwf hd hf hp
      rw [hu, mailRespond_top, htop]
      exact ⟨responds_mailRespond hm hhost _, rfl⟩
    · rw [lcsAnswer_proved hwf hd hf hp hj, mailRespond_top, withJob, sigCount_top]
      exact ⟨responds_mailRespond hm ((sameHost_sigCount s true).withTop _) _, rfl, lcsJobOf_target hj⟩

-- FW_UPDATE (R479).

section Update

variable {s : State} {m : MailReq} {image : Image} {cut : Bool} (hm : mailServed s = some m) (hc : m.code = 2)
  (hfw : fwRuns s = true)

include hm hc hfw

theorem exec_fwUpdate_bad (h : mailBad m = true) :
    exec (.fwUpdate image cut) s = .next (mailRespond s stBadArg []) := by
  change execFwUpdate image cut s = _
  simp [execFwUpdate, hm, hc, hfw, h]

theorem exec_fwUpdate_retired (hb : mailBad m = false) (h : s.top.fuses.lcs = .retired) :
    exec (.fwUpdate image cut) s = .next (mailRespond s stNotPermitted []) := by
  change execFwUpdate image cut s = _
  simp [execFwUpdate, hm, hc, hfw, hb, h]

variable (hb : mailBad m = false) (hr : s.top.fuses.lcs ≠ .retired)

include hb hr

theorem exec_fwUpdate_tooLong (h : 1048800 < leAt m.area 16 4) :
    exec (.fwUpdate image cut) s = .next (mailRespond s stBadArg []) := by
  change execFwUpdate image cut s = _
  simp [execFwUpdate, hm, hc, hfw, hb, hr, h]

variable (hl : leAt m.area 16 4 ≤ 1048800)

include hl

theorem exec_fwUpdate_unverified (h : imageOk s 0 image = false) :
    exec (.fwUpdate image cut) s = .next (mailRespond (sigCount s false) stAuthFail []) := by
  change execFwUpdate image cut s = _
  simp [execFwUpdate, hm, hc, hfw, hb, hr, hl, h]

variable (hok : imageOk s 0 image = true)

include hok

omit hr in
theorem exec_fwUpdate_belowFloor (h : s.top.fuses.lcs = .operational ∧ image.svn < s.top.fuses.fwFloor) :
    exec (.fwUpdate image cut) s = .next (mailRespond (sigCount s true) stBadArg []) := by
  change execFwUpdate image cut s = _
  simp [execFwUpdate, hm, hc, hfw, hb, hl, hok, sigCount_top, h.1, h.2]

/-- A verified image is written to the slot that does not run; one that is cut off is not answered. -/
theorem exec_fwUpdate_written (h : ¬(s.top.fuses.lcs = .operational ∧ image.svn < s.top.fuses.fwFloor)) :
    exec (.fwUpdate image cut) s = .next (
      let u := writeSlot (sigCount s true) image (!cut)
      if cut then u
      else mailRespond { u with top := { u.top with
        controlDue := (leAt m.area 20 1).testBit 0 || u.top.controlDue } } stOk []) := by
  change execFwUpdate image cut s = _
  simp [execFwUpdate, hm, hc, hfw, hb, hr, hl, hok, sigCount_top, h]

end Update

theorem writeSlot_hif (s : State) (image : Image) (sound : Bool) : (writeSlot s image sound).hif = s.hif :=
  Only.writeSlot (fr := [.top]) s image sound (Only.refl s) (by decide) .hif (by decide)

theorem sameHost_writeSlot (s : State) (image : Image) (sound : Bool) : SameHost s (writeSlot s image sound) :=
  ⟨writeSlot_hif s image sound, fun _ _ => rfl⟩

/-- The marks of sound places with a place added or taken out. -/
theorem contains_soundMarks (l : List Nat) (n : Nat) (sound : Bool) :
    (if sound then addOnce l n else l.filter (· != n)).contains n = sound := by
  cases sound with
  | true => simpa using mem_addOnce l n
  | false => simp

/-- The slot that firmware does not run from takes the image, and is marked sound once it has been read back. -/
theorem writeSlot_flash (s : State) (image : Image) (sound : Bool) :
    (s.top.running = 0 → (writeSlot s image sound).top.flash.slotB = some image
        ∧ (writeSlot s image sound).top.flash.slotA = s.top.flash.slotA
        ∧ (writeSlot s image sound).top.flash.sound.contains 1 = sound)
      ∧ (s.top.running ≠ 0 → (writeSlot s image sound).top.flash.slotA = some image
        ∧ (writeSlot s image sound).top.flash.slotB = s.top.flash.slotB
        ∧ (writeSlot s image sound).top.flash.sound.contains 0 = sound) := by
  refine ⟨fun h => ?_, fun h => ?_⟩
  · simp only [writeSlot, h, if_true]
    exact ⟨trivial, trivial, contains_soundMarks _ 1 sound⟩
  · simp only [writeSlot, h, if_false, zero_ne_one]
    exact ⟨trivial, trivial, contains_soundMarks _ 0 sound⟩

theorem writeSlot_controlDue (s : State) (image : Image) (sound : Bool) :
    (writeSlot s image sound).top.controlDue = s.top.controlDue := by
  unfold writeSlot
  dsimp only

/-- R479: FW_UPDATE answers by the first check that fails, and writes an image that passes them all. -/
theorem execFwUpdate_answers {image : Image} {cut : Bool} {m : MailReq} {s : State} (hm : mailServed s = some m)
    (hc : m.code = 2) (hfw : fwRuns s = true) :
    Completes (.fwUpdate image cut) s fun t =>
      (mailBad m = true → Responds s t m stBadArg ∧ t.top.flash = s.top.flash)
      ∧ (mailBad m = false → s.top.fuses.lcs = .retired → Responds s t m stNotPermitted ∧ t.top.flash = s.top.flash)
      ∧ (mailBad m = false → s.top.fuses.lcs ≠ .retired → 1048800 < leAt m.area 16 4 → Responds s t m stBadArg ∧ t.top.flash = s.top.flash)
      ∧ (mailBad m = false → s.top.fuses.lcs ≠ .retired → leAt m.area 16 4 ≤ 1048800 → imageOk s 0 image = false →
          Responds s t m stAuthFail ∧ t.top.flash = s.top.flash)
      ∧ (mailBad m = false → s.top.fuses.lcs ≠ .retired → leAt m.area 16 4 ≤ 1048800 → imageOk s 0 image = true →
          (s.top.fuses.lcs = .operational → image.svn < s.top.fuses.fwFloor → Responds s t m stBadArg ∧ t.top.flash = s.top.flash)
          ∧ (¬(s.top.fuses.lcs = .operational ∧ image.svn < s.top.fuses.fwFloor) →
              (s.top.running = 0 → t.top.flash.slotB = some image ∧ t.top.flash.slotA = s.top.flash.slotA ∧ t.top.flash.sound.contains 1 = !cut)
              ∧ (s.top.running ≠ 0 → t.top.flash.slotA = some image ∧ t.top.flash.slotB = s.top.flash.slotB
                  ∧ t.top.flash.sound.contains 0 = !cut)
              ∧ (cut = true → t.hif = s.hif ∧ t.top.controlDue = s.top.controlDue)
              ∧ (cut = false → Responds s t m stOk ∧ t.top.controlDue = ((leAt m.area 20 1).testBit 0 || s.top.controlDue)))) := by
  obtain ⟨t, ht⟩ : ∃ t, exec (.fwUpdate image cut) s = .next t := ⟨_, rfl⟩
  refine ⟨t, ht, fun hb => ?_, fun hb hr => ?_, fun hb hr hl => ?_, fun hb hr hl hok => ?_, fun hb hr hl hok =>
    ⟨fun hop hsvn => ?_, fun hfloor => ?_⟩⟩
  · cases ht.symm.trans (exec_fwUpdate_bad hm hc hfw hb)
    exact ⟨responds_mailRespond hm (.refl s) _, by rw [mailRespond_top]⟩
  · cases ht.symm.trans (exec_fwUpdate_retired hm hc hfw hb hr)
    exact ⟨responds_mailRespond hm (.refl s) _, by rw [mailRespond_top]⟩
  · cases ht.symm.trans (exec_fwUpdate_tooLong hm hc hfw hb hr hl)
    exact ⟨responds_mailRespond hm (.refl s) _, by rw [mailRespond_top]⟩
  · cases ht.symm.trans (exec_fwUpdate_unverified hm hc hfw hb hr hl hok)
    exact ⟨responds_mailRespond hm (sameHost_sigCount s false) _, by rw [mailRespond_top, sigCount_top]⟩
  · cases ht.symm.trans (exec_fwUpdate_belowFloor hm hc hfw hb hl hok ⟨hop, hsvn⟩)
    exact ⟨responds_mailRespond hm (sameHost_sigCount s true) _, by rw [mailRespond_top, sigCount_top]⟩
  · have hw := writeSlot_flash (sigCount s true) image (!cut)
    rw [sigCount_top] at hw
    have hhost := (sameHost_sigCount s true).trans (sameHost_writeSlot _ image (!cut))
    have hdue : (writeSlot (sigCount s true) image (!cut)).top.controlDue = s.top.controlDue := by
      rw [writeSlot_controlDue, sigCount_top]
    rw [exec_fwUpdate_written hm hc hfw hb hr hl hok hfloor] at ht
    generalize writeSlot (sigCount s true) image (!cut) = u at ht hw hhost hdue
    cases cut with
    | true =>
      simp only [if_true] at ht
      cases ht
      exact ⟨hw.1, hw.2, fun _ => ⟨hhost.hif, hdue⟩, nofun⟩
    | false =>
      simp only [if_neg Bool.false_ne_true, hdue] at ht
      cases ht
      rw [mailRespond_top]
      exact ⟨hw.1, hw.2, nofun, fun _ => ⟨responds_mailRespond hm (hhost.withTop _) _, rfl⟩⟩

end Sys2Proof.Proofs
end

section
/-!
Proofs of the statements on islands, clocks and reset: patches and the journal's host commands.
-/
namespace Sys2Proof.Proofs

open Sys2Proof Sys2Proof.Machine Sys2Proof.Laws

-- Host commands that complete (R85, R90 to R92).

/-- A command that may start runs its body. -/
theorem runCmd_ready {s : State} {c : HostCmd} {row : CmdRow} (h : Ready s c row) (body : State → State) :
    runCmd s c row body = body s := by
  obtain ⟨-, hrow, hwait, hstart, hgate⟩ := h
  simp [runCmd, hrow, hwait, hstart, hgate]

/-- A command fetched since the last PERST_N reset has its completion formed. -/
theorem answers_complete {s : State} {c : HostCmd} (h : s.hif.oldBell < c.bell) (status : Nat) (result : List Byte) :
    Answers c status result (complete s c status result) := by
  rw [complete, if_neg (by omega)]
  exact ⟨_, List.getLast?_concat, rfl, rfl, rfl, rfl, rfl⟩

theorem reports_of_answers {c : HostCmd} {status : Nat} {result : List Byte} {t : State} (h : Answers c status result t) :
    Reports c status t := by
  obtain ⟨x, hx, hcr, hindex, htag, hstatus, -⟩ := h
  exact ⟨x, hx, hcr, hindex, htag, hstatus⟩

/-- The completions stand in the host interface. -/
theorem answers_congr {c : HostCmd} {status : Nat} {result : List Byte} {t u : State} (h : Answers c status result t)
    (hu : u.hif = t.hif) : Answers c status result u := by
  rw [Answers, hu]
  exact h

-- PATCH_LOAD (R125, R126).

/-- A refused patch completes at once, with its signature counted where it was checked. -/
theorem doPatchLoad_refused {s : State} {c : HostCmd} {image : Image} (hp : s.prg.patch = none)
    (h : patchStatus s image ≠ stOk) :
    ∃ u, doPatchLoad image c s = complete u c (patchStatus s image) ∧ u.hif = s.hif ∧ u.prg = s.prg ∧ u.top = s.top := by
  have hdo : doPatchLoad image c s = complete (if patchStatus s image = stNotPermitted then s
      else sigCount s (patchStatus s image ≠ stAuthFail)) c (patchStatus s image) := by
    simp [doPatchLoad, hp, h]
  rw [hdo]
  refine ⟨_, rfl, ?_⟩
  split
  · exact ⟨rfl, rfl, rfl⟩
  · exact ⟨onlySigCount s _ .hif (by decide), onlySigCount s _ .prg (by decide), sigCount_top s _⟩

/-- An accepted patch waits for its switch point. -/
theorem doPatchLoad_accepted_prg {s : State} {c : HostCmd} {image : Image} (hp : s.prg.patch = none)
    (h : patchStatus s image = stOk) :
    (doPatchLoad image c s).prg = { s.prg with patch := some { cmd := c, image := image } } := by
  have hprg : ∀ ok, (sigCount s ok).prg = s.prg := fun ok => onlySigCount s ok .prg (by decide)
  by_cases hpersist : argN c 0 1 % 2 = 1 <;> simp [doPatchLoad, hp, h, hpersist, hprg, stOk, stNotPermitted]

/-- With PERSIST it stands in the flash patch area. -/
theorem doPatchLoad_accepted_flash {s : State} {c : HostCmd} {image : Image} (hp : s.prg.patch = none)
    (h : patchStatus s image = stOk) :
    (doPatchLoad image c s).top.flash.patch = if argN c 0 1 % 2 = 1 then some image else s.top.flash.patch := by
  by_cases hpersist : argN c 0 1 % 2 = 1 <;>
    simp [doPatchLoad, hp, h, hpersist, sigCount_top, stOk, stNotPermitted]

/-- R125: PATCH_LOAD, where no patch is before it. -/
theorem execPatchLoad_answers {cmd : HostCmd} {image : Image} {s : State} (hr : Ready s cmd .patchLoad)
    (hp : s.prg.patch = none) :
    Completes (.patchLoad cmd image) s fun t =>
      (patchStatus s image = stOk → t.prg.patch = some { cmd := cmd, image := image } ∧ t.prg.patchInForce = s.prg.patchInForce
        ∧ (argN cmd 0 1 % 2 = 1 → t.top.flash.patch = some image)
        ∧ (argN cmd 0 1 % 2 = 0 → t.top.flash.patch = s.top.flash.patch))
      ∧ (patchStatus s image ≠ stOk → Reports cmd (patchStatus s image) t ∧ t.prg = s.prg ∧ t.top.flash = s.top.flash) := by
  have hexec : exec (.patchLoad cmd image) s = .next (doPatchLoad image cmd s) :=
    congrArg Host.Outcome.next (runCmd_ready hr _)
  refine ⟨_, hexec, fun hok => ?_, fun hne => ?_⟩
  · rw [doPatchLoad_accepted_prg hp hok, doPatchLoad_accepted_flash hp hok]
    exact ⟨rfl, rfl, fun h1 => if_pos h1, fun h0 => if_neg (by omega)⟩
  · obtain ⟨u, hu, hhif, hprg, htop⟩ := doPatchLoad_refused (c := cmd) hp hne
    rw [hu, complete_prg, complete_top, hprg, htop]
    exact ⟨reports_of_answers (answers_complete (by rw [hhif]; exact hr.1) _ _), rfl, rfl⟩

-- PATCH_SWITCH_POINT (R126, R480).

theorem raisePatchFloor_prg (s : State) (svn : Nat) : (raisePatchFloor s svn).prg = s.prg :=
  Only.raisePatchFloor (fr := [.regs, .owed, .top, .crier, .flt]) s svn (Only.refl s) (by decide) (by decide) (by decide)
    (by decide) (by decide) .prg (by decide)

theorem raisePatchFloor_hif (s : State) (svn : Nat) : (raisePatchFloor s svn).hif = s.hif :=
  Only.raisePatchFloor (fr := [.regs, .owed, .top, .crier, .flt]) s svn (Only.refl s) (by decide) (by decide) (by decide)
    (by decide) (by decide) .hif (by decide)

theorem mem_raisePatchFloor_of_mem {s : State} {svn id : Nat} (h : id ∈ s.crier.pend) :
    id ∈ (raisePatchFloor s svn).crier.pend := by
  unfold raisePatchFloor
  split
  · exact mem_raise_of_mem h
  · exact h

/-- In OPERATIONAL the floor of patches rises to an SVN above it. -/
theorem raisePatchFloor_operational {s : State} (h : s.top.fuses.lcs = .operational) (svn : Nat) :
    (raisePatchFloor s svn).top.fuses.patchFloor = max s.top.fuses.patchFloor svn := by
  by_cases hlt : s.top.fuses.patchFloor < svn
  · simp [raisePatchFloor, h, hlt]
    omega
  · simp [raisePatchFloor, h, hlt]
    omega

theorem raisePatchFloor_of_ne_operational {s : State} (h : s.top.fuses.lcs ≠ .operational) (svn : Nat) :
    raisePatchFloor s svn = s := by
  simp [raisePatchFloor, h]

/-- The engines have taken a patch. -/
def patchSwitched (s : State) (j : PatchJob) : State :=
  { s with prg := { s.prg with patch := none, patchInForce := some j.image } }

/-- R126: at its switch point the patch is in force, and its command completes with the level. -/
theorem execPatchSwitchPoint_answers {j : PatchJob} {s : State} (hj : s.prg.patch = some j) (hfw : fwRuns s = true) :
    Completes .patchSwitchPoint s fun t => t.prg.patch = none ∧ t.prg.patchInForce = some j.image
      ∧ (s.hif.oldBell < j.cmd.bell → Answers j.cmd stOk (bytesLE 2 j.image.level) t) ∧ 0x207 ∈ t.crier.pend
      ∧ (s.top.fuses.lcs = .operational → t.top.fuses.patchFloor = max s.top.fuses.patchFloor j.image.svn)
      ∧ (s.top.fuses.lcs ≠ .operational → t.top.fuses = s.top.fuses) := by
  have hexec : exec .patchSwitchPoint s = .next (raisePatchFloor (raise (complete (patchSwitched s j) j.cmd stOk
      (bytesLE 2 j.image.level)) 0x207) j.image.svn) := by
    change execPatchSwitchPoint s = _
    simp [execPatchSwitchPoint, hj, hfw, patchSwitched]
  refine ⟨_, hexec, ?_, ?_, fun hbell => ?_, mem_raisePatchFloor_of_mem (mem_raise _ _), fun hop => ?_, fun hne => ?_⟩
  · simp [raisePatchFloor_prg, patchSwitched]
  · simp [raisePatchFloor_prg, patchSwitched]
  · exact answers_congr (answers_complete (s := patchSwitched s j) hbell _ _) (by rw [raisePatchFloor_hif, raise_hif])
  · rw [raisePatchFloor_operational] <;> simp [hop, patchSwitched]
  · rw [raisePatchFloor_of_ne_operational] <;> simp [hne, patchSwitched]

end Sys2Proof.Proofs
end

section
/-!
Proofs of the statements on islands, clocks and reset: the journal's host commands.
-/
namespace Sys2Proof.Proofs

open Sys2Proof Sys2Proof.Machine Sys2Proof.Laws

-- What wear levelling leaves of the journal (R66, R69).

/-- From `j` to `k` the journal moved its blocks about, and holds what it held. -/
structure SameRecords (j k : Journal) : Prop where
  host : k.host = j.host
  seq : k.seq = j.seq
  records : k.records = j.records

theorem SameRecords.refl (j : Journal) : SameRecords j j := ⟨rfl, rfl, rfl⟩

theorem SameRecords.trans {j k l : Journal} (h : SameRecords j k) (h' : SameRecords k l) : SameRecords j l :=
  ⟨h'.host.trans h.host, h'.seq.trans h.seq, h'.records.trans h.records⟩

theorem sameRecords_jrnRemap (j : Journal) (l p : Nat) : SameRecords j (jrnRemap j l p) := by
  have htable : SameRecords j (jrnWriteTable j l p) := by
    unfold jrnWriteTable
    dsimp only
    split <;> exact ⟨rfl, rfl, rfl⟩
  have hanchor : ∀ k, SameRecords k (jrnWriteAnchor k) := fun k => by
    unfold jrnWriteAnchor
    dsimp only
    split <;> exact ⟨rfl, rfl, rfl⟩
  exact htable.trans (hanchor _)

theorem sameRecords_jrnWear (j : Journal) (lines : List Nat) : SameRecords j (jrnWear j lines) := ⟨rfl, rfl, rfl⟩

theorem SameRecords.withSpares {j k : Journal} (h : SameRecords j k) (l : List Nat) : SameRecords j { k with spareList := l } :=
  ⟨h.host, h.seq, h.records⟩

theorem sameRecords_jrnSwap (j : Journal) (l : Nat) : SameRecords j (jrnSwap j l) := by
  unfold jrnSwap
  dsimp only
  split
  · exact .refl j
  next sp rest _ =>
    split
    · exact ((sameRecords_jrnRemap j l sp).withSpares _).trans (sameRecords_jrnWear _ _)
    · exact .refl j

theorem sameRecords_foldl_jrnSwap (ls : List Nat) (j : Journal) : SameRecords j (ls.foldl jrnSwap j) := by
  induction ls generalizing j with
  | nil => exact .refl j
  | cons l ls ih => exact (sameRecords_jrnSwap j l).trans (ih _)

/-- The writes of lines wear the journal, and change nothing that it holds. -/
theorem sameRecords_jrnTouch (s : State) (lines : List Nat) : SameRecords s.journal (jrnTouch s lines).journal := by
  have hwarn : ∀ (n : Nat) (t : State), (jrnWarn n t).journal = t.journal := fun n t =>
    Only.jrnWarn (fr := [.regs, .owed, .crier, .flt]) n t (Only.refl t) (by decide) (by decide) (by decide) (by decide)
      .journal (by decide)
  rw [jrnTouch, hwarn]
  exact (sameRecords_jrnWear _ _).trans (sameRecords_foldl_jrnSwap _ _)

-- Records (R68, R97).

theorem jrnTagged_journal (s : State) (part : Nat) (ok : Bool) : (jrnTagged s part ok).journal = s.journal :=
  Only.jrnTagged (fr := [.regs]) s part ok (Only.refl s) (by decide) .journal (by decide)

/-- A record joins the journal under the next number of its partition, before the lines that hold it are written. -/
def jrnJoined (s : State) (e : JrnEntry) : State :=
  let n := jrnSeq s.journal (jrnPart e)
  let r : JrnRecord := { entry := e, line := jrnLineOf s e n }
  modJrn s fun j => { j with
    records := r :: j.records.filter fun x => !jrnReplaces e x.entry
    seq := mapPut 0 j.seq (jrnPart e) n }

theorem jrnStore_eq (s : State) (e : JrnEntry) :
    jrnStore s e = jrnTouch (jrnJoined s e) (jrnPlace e (jrnSeq s.journal (jrnPart e))) := rfl

/-- A record that is written stands first, under the next number of its partition. -/
theorem jrnPut_journal (s : State) (e : JrnEntry) :
    (jrnPut s e).journal.host = s.journal.host
      ∧ jrnSeq (jrnPut s e).journal (jrnPart e) = jrnSeq s.journal (jrnPart e) + 1
      ∧ (jrnPut s e).journal.records.head?.map (·.entry) = some e := by
  have hj := jrnTagged_journal s (jrnPart e) true
  rw [jrnPut, jrnStore_eq]
  generalize jrnTagged s (jrnPart e) true = t at hj ⊢
  obtain ⟨hhost, hnum, hrec⟩ := sameRecords_jrnTouch (jrnJoined t e) (jrnPlace e (jrnSeq t.journal (jrnPart e)))
  refine ⟨?_, ?_, ?_⟩
  · rw [hhost, ← hj]
    rfl
  · rw [jrnSeq, hnum, ← hj]
    exact congrArg (· + 1) mapGet_mapPut_same
  · rw [hrec]
    rfl

theorem jrnPut_hif (s : State) (e : JrnEntry) : (jrnPut s e).hif = s.hif :=
  Only.jrnPut (fr := [.regs, .journal, .owed, .crier, .flt]) s e (Only.refl s) (by decide) (by decide) (by decide) (by decide)
    (by decide) .hif (by decide)

theorem jrnFailed_hif (failed : List Nat) (s : State) : (jrnFailed failed s).hif = s.hif :=
  Only.jrnFailed (fr := [.regs, .journal, .owed, .crier, .flt]) failed s (Only.refl s) (by decide) (by decide) (by decide)
    (by decide) (by decide) .hif (by decide)

theorem onlyJrnChecked (s : State) (badLines : List Nat) (c : HostCmd) : Only [.regs] s (jrnChecked s badLines c) :=
  Only.jrnChecked s badLines c (Only.refl s) (by decide)

-- JRN_READ (R97).

/-- R97: JRN_READ completes with its status, and the lines that it names go to the host. -/
theorem execJrnRead_answers {cmd : HostCmd} {badLines : List Nat} {s : State} (hr : Ready s cmd .jrnRead) :
    Completes (.jrnRead cmd badLines) s fun t => Reports cmd (jrnStatus s badLines cmd) t
      ∧ (jrnStatus s badLines cmd = stOk → t.out = s.out ++ [.hostWrite cmd.hostAddr ((jrnLines cmd).flatMap (jrnLine s.journal))])
      ∧ (jrnStatus s badLines cmd ≠ stOk → t.out = s.out) := by
  have hexec : exec (.jrnRead cmd badLines) s = .next (doJrnRead badLines cmd s) :=
    congrArg Host.Outcome.next (runCmd_ready hr _)
  have hbell : s.hif.oldBell < cmd.bell := hr.1
  have hhif := onlyJrnChecked s badLines cmd .hif (by decide)
  have hout := onlyJrnChecked s badLines cmd .out (by decide)
  simp only [Same] at hhif hout
  refine ⟨_, hexec, ?_⟩
  by_cases hok : jrnStatus s badLines cmd = stOk
  · have hdata : ∀ data, dataOut (jrnChecked s badLines cmd) cmd data
        = hostWrite (jrnChecked s badLines cmd) cmd.hostAddr data := fun data => by
      rw [dataOut, hhif, if_neg (by omega)]
    have hdo : doJrnRead badLines cmd s = complete (hostWrite (jrnChecked s badLines cmd) cmd.hostAddr
        ((jrnLines cmd).flatMap (jrnLine s.journal))) cmd stOk [] := by
      simp only [doJrnRead, completeData, hok, if_true, hdata]
    rw [hdo, hok]
    refine ⟨reports_of_answers (answers_complete ?_ _ _), fun _ => ?_, fun h => absurd rfl h⟩
    · change (jrnChecked s badLines cmd).hif.oldBell < cmd.bell
      rwa [hhif]
    · rw [complete_out, hostWrite, emit, hout]
  · have hdo : doJrnRead badLines cmd s = complete (jrnChecked s badLines cmd) cmd (jrnStatus s badLines cmd) := by
      simp only [doJrnRead, if_neg hok]
    rw [hdo]
    refine ⟨reports_of_answers (answers_complete (by rwa [hhif]) _ _), fun h => absurd h hok, fun _ => ?_⟩
    rw [complete_out, hout]

-- JRN_WRITE (R97, R66 to R69).

/-- The octets of a JRN_WRITE stand in the host partition. -/
def hostPut (s : State) (c : HostCmd) : State :=
  { s with journal := { s.journal with host := putBytes s.journal.host (64 * argN c 0 2) (sliceZ c.data 0 c.dataLen) } }

/-- R97: JRN_WRITE completes with its status, and an accepted one is a record of the host partition. -/
theorem execJrnWrite_answers {cmd : HostCmd} {badLines failedBlocks : List Nat} {s : State} (hr : Ready s cmd .jrnWrite) :
    Completes (.jrnWrite cmd badLines failedBlocks) s fun t =>
      (jrnStatus s badLines cmd = stOk → failedBlocks = [] → Answers cmd stOk (bytesLE 4 (jrnSeq s.journal 5)) t
        ∧ t.journal.host = putBytes s.journal.host (64 * argN cmd 0 2) (sliceZ cmd.data 0 cmd.dataLen)
        ∧ jrnSeq t.journal 5 = jrnSeq s.journal 5 + 1
        ∧ t.journal.records.head?.map (·.entry) = some (.host (argN cmd 0 2) (sliceZ cmd.data 0 cmd.dataLen)))
      ∧ (jrnStatus s badLines cmd = stOk → Reports cmd stOk t)
      ∧ (jrnStatus s badLines cmd ≠ stOk → Reports cmd (jrnStatus s badLines cmd) t ∧ t.journal.seq = s.journal.seq) := by
  have hexec : exec (.jrnWrite cmd badLines failedBlocks) s = .next (doJrnWrite badLines failedBlocks cmd s) :=
    congrArg Host.Outcome.next (runCmd_ready hr _)
  have hbell : s.hif.oldBell < cmd.bell := hr.1
  have hhif := onlyJrnChecked s badLines cmd .hif (by decide)
  have hjrn := onlyJrnChecked s badLines cmd .journal (by decide)
  simp only [Same] at hhif hjrn
  refine ⟨_, hexec, ?_⟩
  by_cases hok : jrnStatus s badLines cmd = stOk
  · have hdo : doJrnWrite badLines failedBlocks cmd s = complete (jrnFailed failedBlocks (jrnPut (hostPut (jrnChecked s badLines cmd)
        cmd) (.host (argN cmd 0 2) (sliceZ cmd.data 0 cmd.dataLen)))) cmd stOk (bytesLE 4 (jrnSeq s.journal 5)) := by
      simp only [doJrnWrite, hok, if_true]
      rfl
    have hans : Answers cmd stOk (bytesLE 4 (jrnSeq s.journal 5)) (doJrnWrite badLines failedBlocks cmd s) := by
      rw [hdo]
      refine answers_complete ?_ _ _
      rw [jrnFailed_hif, jrnPut_hif]
      change (jrnChecked s badLines cmd).hif.oldBell < cmd.bell
      rwa [hhif]
    refine ⟨fun _ hnone => ⟨hans, ?_⟩, fun _ => reports_of_answers hans, fun h => absurd hok h⟩
    obtain ⟨hhost, hseq, hrec⟩ := jrnPut_journal (hostPut (jrnChecked s badLines cmd) cmd)
      (.host (argN cmd 0 2) (sliceZ cmd.data 0 cmd.dataLen))
    rw [hdo, complete_journal, hnone]
    refine ⟨hhost.trans ?_, hseq.trans ?_, hrec⟩
    · rw [hostPut, hjrn]
    · rw [hostPut, hjrn]
      rfl
  · have hdo : doJrnWrite badLines failedBlocks cmd s
        = complete (jrnChecked s badLines cmd) cmd (jrnStatus s badLines cmd) := by
      simp only [doJrnWrite, if_neg hok]
    rw [hdo]
    refine ⟨fun h => absurd h hok, fun h => absurd h hok, fun _ => ⟨?_, ?_⟩⟩
    · exact reports_of_answers (answers_complete (by rwa [hhif]) _ _)
    · rw [complete_journal, hjrn]

end Sys2Proof.Proofs
end

section
/-!
Proofs of the statements on islands, clocks and reset: frames for the CPU (R93, R298, R342).
-/
namespace Sys2Proof.Proofs

open Sys2Proof Sys2Proof.Machine Sys2Proof.Laws

-- The CPU queue served last: only RX_FRAME_DMA itself moves on the turn of the CPU queues.

/-- The parts that the operations on copies change which leave the scheduler alone. -/
def unscheduled : List Part :=
  [.regs, .freeCtr, .journal, .owed, .lastRaise, .market, .spill, .telem, .crier, .flt, .activity]

theorem lastCpu_of_only {s t : State} (h : Only unscheduled s t) : t.sched.lastCpu = s.sched.lastCpu :=
  congrArg Sched.lastCpu (h .sched (by decide))

theorem forEach_lastCpu {α : Type} {f : State → α → State} (hf : ∀ s x, (f s x).sched.lastCpu = s.sched.lastCpu) (l : List α)
    (s : State) : (forEach l f s).sched.lastCpu = s.sched.lastCpu := by
  induction l generalizing s with
  | nil => rfl
  | cons x l ih => exact (ih (f s x)).trans (hf s x)

theorem updXoff_lastCpu (s : State) (l n : Nat) : (updXoff s l n).sched.lastCpu = s.sched.lastCpu := by
  unfold updXoff
  dsimp only
  split <;> rfl

theorem addF21_lastCpu (s : State) (a : Nat) (d : Int) : (addF21 s a d).sched.lastCpu = s.sched.lastCpu :=
  lastCpu_of_only (Only.addF21 s a d (Only.refl s) (by decide))

theorem addIng_lastCpu (s : State) (f : MFrame) (d : Int) : (addIng s f d).sched.lastCpu = s.sched.lastCpu := by
  unfold addIng
  dsimp only
  split
  · rfl
  · split <;> simp only [updXoff_lastCpu, addF21_lastCpu]

theorem retag_lastCpu (s : State) (ua cls id : Nat) : (retag s ua cls id).sched.lastCpu = s.sched.lastCpu :=
  lastCpu_of_only (Only.retag s ua cls id (Only.refl s) (by decide))

theorem addOcc_lastCpu (s : State) (q : Nat) (d : Int) : (addOcc s q d).sched.lastCpu = s.sched.lastCpu :=
  lastCpu_of_only (Only.addOcc s q d (Only.refl s) (by decide))

theorem noteAdmitted_lastCpu (s : State) (c : Copy) : (noteAdmitted s c).sched.lastCpu = s.sched.lastCpu :=
  lastCpu_of_only (Only.noteAdmitted s c (Only.refl s) (by decide))

theorem putFrame_lastCpu (s : State) (f : MFrame) : (putFrame s f).sched.lastCpu = s.sched.lastCpu := rfl

theorem dropFrameRec_lastCpu (s : State) (id : Nat) : (dropFrameRec s id).sched.lastCpu = s.sched.lastCpu := rfl

theorem freeByCopy_lastCpu (s : State) (q u : Nat) : (freeByCopy s q u).sched.lastCpu = s.sched.lastCpu :=
  lastCpu_of_only (Only.freeByCopy s q u (Only.refl s) (by decide) (by decide) (by decide) (by decide) (by decide) (by decide)
    (by decide))

/-- A copy that joins its queue. -/
theorem admitted_lastCpu (n : Nat) (s : State) (c : Copy) :
    (noteAdmitted (addOcc (enqueue s c.queue { c with cells := n }) c.queue n) c).sched.lastCpu = s.sched.lastCpu := by
  rw [noteAdmitted_lastCpu, addOcc_lastCpu]
  rfl

theorem enqueueCopies_lastCpu (s : State) (p : Packet) (cs : List Copy) (units : List Nat) (hclass : Bool) :
    (enqueueCopies s p cs units hclass).sched.lastCpu = s.sched.lastCpu := by
  unfold enqueueCopies
  dsimp only
  rw [forEach_lastCpu (admitted_lastCpu _), addIng_lastCpu]
  exact forEach_lastCpu (fun s u => retag_lastCpu s u _ _) _ _

theorem shareCopies_lastCpu (s : State) (f : MFrame) (cs : List Copy) :
    (shareCopies s f cs).sched.lastCpu = s.sched.lastCpu := by
  unfold shareCopies
  dsimp only
  rw [forEach_lastCpu (admitted_lastCpu _), forEach_lastCpu (fun s u => retag_lastCpu s u _ _)]
  rfl

theorem placeCopies_lastCpu (s : State) (p : Packet) (cs : List Copy) (units : List Nat) (hclass : Bool) :
    (placeCopies s p cs units hclass).sched.lastCpu = s.sched.lastCpu := by
  unfold placeCopies
  dsimp only
  rw [enqueueCopies_lastCpu, forEach_lastCpu]
  intro s c
  split
  · exact lastCpu_of_only (Only.add64 s _ _ (Only.refl s) (by decide))
  · rfl

theorem takeUnits_lastCpu (s : State) (rq : Nat) (p : Packet) (tag : Nat × Nat) (k : UClass) :
    (takeUnits s rq p tag k).1.sched.lastCpu = s.sched.lastCpu :=
  lastCpu_of_only (Only.takeUnits s rq p tag k (Only.refl s) (by decide) (by decide) (by decide) (by decide) (by decide)
    (by decide))

theorem takeMore_lastCpu (s : State) (rq : Nat) (p : Packet) (units : List Nat) :
    (takeMore s rq p units).1.sched.lastCpu = s.sched.lastCpu :=
  lastCpu_of_only (Only.takeMore s rq p units (Only.refl s) (by decide) (by decide) (by decide) (by decide) (by decide)
    (by decide))

theorem placeFails_lastCpu (s : State) (cs : List Copy) (units : List Nat) :
    (placeFails s cs units).1.sched.lastCpu = s.sched.lastCpu :=
  lastCpu_of_only (Only.placeFails s cs units (Only.refl s) (by decide) (by decide) (by decide) (by decide) (by decide)
    (by decide))

theorem placeMarket_lastCpu (s : State) (rq : Nat) (p : Packet) (cs : List Copy) (hclass : Bool) :
    (placeMarket s rq p cs hclass).1.sched.lastCpu = s.sched.lastCpu := by
  unfold placeMarket
  split
  · rfl
  · exact shareCopies_lastCpu s _ _
  · dsimp only
    repeat' split
    all_goals simp only [placeCopies_lastCpu, placeFails_lastCpu, takeMore_lastCpu, takeUnits_lastCpu]

theorem foldl_spillStep_lastCpu (l : List Copy) (r : State × List Copy × List (Copy × Nat)) :
    (l.foldl spillStep r).1.sched.lastCpu = r.1.sched.lastCpu := by
  induction l generalizing r with
  | nil => rfl
  | cons c l ih =>
    exact (ih (spillStep r c)).trans
      (lastCpu_of_only (Only.spillStep r c (Only.refl r.1) (by decide) (by decide) (by decide)))

theorem ecnApply_lastCpu (s : State) (p : Packet) (q : Nat) : (ecnApply s p q).1.sched.lastCpu = s.sched.lastCpu :=
  lastCpu_of_only (Only.ecnApply s p q (Only.refl s) (by decide))

theorem ecnCount_lastCpu (s : State) (k : Option Bool) (kept : Bool) :
    (ecnCount s k kept).sched.lastCpu = s.sched.lastCpu :=
  lastCpu_of_only (Only.ecnCount s k kept (Only.refl s) (by decide))

theorem notePitch_lastCpu (s : State) (q : Nat) : (notePitch s q).sched.lastCpu = s.sched.lastCpu :=
  lastCpu_of_only (Only.notePitch s q (Only.refl s) (by decide))

theorem admitCopies_lastCpu (s : State) (rq : Nat) (p : Packet) (cs : List Copy) :
    (admitCopies s rq p cs).1.sched.lastCpu = s.sched.lastCpu := by
  unfold admitCopies
  dsimp only
  rw [ecnCount_lastCpu, placeMarket_lastCpu, foldl_spillStep_lastCpu]
  split <;> simp only [ecnApply_lastCpu, forEach_lastCpu (fun s (c : Copy) => notePitch_lastCpu s c.queue)]

theorem sessionTakes_lastCpu (s : State) (k : Nat) : (sessionTakes s k).1.sched.lastCpu = s.sched.lastCpu :=
  lastCpu_of_only (Only.sessionTakes s k (Only.refl s) (by decide))

theorem addTal_lastCpu (s : State) (k : Nat) : (addTal s k).sched.lastCpu = s.sched.lastCpu :=
  lastCpu_of_only (Only.addTal s k (Only.refl s) (by decide))

theorem raiseLimited_lastCpu (s : State) (id ns : Nat) : (raiseLimited s id ns).sched.lastCpu = s.sched.lastCpu :=
  lastCpu_of_only (Only.raiseLimited s id ns (Only.refl s) (by decide) (by decide) (by decide) (by decide) (by decide))

theorem dropCopy_lastCpu (s : State) (pipe reason : Nat) (p : Packet) (t : Tally) :
    (dropCopy s pipe reason p t).sched.lastCpu = s.sched.lastCpu := by
  unfold dropCopy
  dsimp only
  repeat' split
  all_goals simp only [raiseLimited_lastCpu, addTal_lastCpu, admitCopies_lastCpu, sessionTakes_lastCpu]

theorem dropRecord_lastCpu (s : State) (pipe reason : Nat) (p : Packet) (t : Tally) :
    (dropRecord s pipe reason p t).sched.lastCpu = s.sched.lastCpu :=
  lastCpu_of_only (Only.dropRecord s pipe reason p t (Only.refl s) (by decide) (by decide) (by decide) (by decide) (by decide)
    (by decide))

theorem spillCount_lastCpu (s : State) (reason : Nat) : (spillCount s reason).sched.lastCpu = s.sched.lastCpu :=
  lastCpu_of_only (Only.spillCount s reason (Only.refl s) (by decide) (by decide) (by decide) (by decide) (by decide))

theorem dropPacket_lastCpu (s : State) (pipe reason : Nat) (p : Packet) (t : Tally) :
    (dropPacket s pipe reason p t).sched.lastCpu = s.sched.lastCpu := by
  simp only [dropPacket, dropCopy_lastCpu]
  split
  · rw [raiseLimited_lastCpu, spillCount_lastCpu, dropRecord_lastCpu]
  · split
    · rw [raiseLimited_lastCpu, spillCount_lastCpu, dropRecord_lastCpu]
    · rw [spillCount_lastCpu, dropRecord_lastCpu]

theorem releaseCopy_lastCpu (s : State) (c : Copy) : (releaseCopy s c).sched.lastCpu = s.sched.lastCpu := by
  have hretag : ∀ n (s : State) (u : Nat),
      (if (unitTag s u).cls = 6 then retag s u 6 n else s).sched.lastCpu = s.sched.lastCpu := by
    intro n s u
    split
    · exact retag_lastCpu s u 6 n
    · rfl
  unfold releaseCopy
  dsimp only
  split
  · exact addOcc_lastCpu s c.queue (-(c.cells : Int))
  · split
    · rw [addIng_lastCpu, forEach_lastCpu (fun s u => freeByCopy_lastCpu s _ u), dropFrameRec_lastCpu, addOcc_lastCpu]
    · rw [forEach_lastCpu (hretag _), putFrame_lastCpu, addOcc_lastCpu]

theorem dropQueued_lastCpu (s : State) (c : Copy) (reason : Nat) :
    (dropQueued s c reason).sched.lastCpu = s.sched.lastCpu := by
  rw [dropQueued, releaseCopy_lastCpu, dropPacket_lastCpu]

end Sys2Proof.Proofs
end

section
/-!
Proofs of the statements on islands, clocks and reset: RX_FRAME_DMA, and the services of firmware together.
-/
namespace Sys2Proof.Proofs

open Sys2Proof Sys2Proof.Machine Sys2Proof.Laws

-- What the read and the end of a copy leave of the host island and of the outputs.

/-- The parts that the read of a copy's data, its release and its drop change. -/
def copyParts : List Part :=
  [.regs, .freeCtr, .journal, .owed, .lastRaise, .pipes, .market, .spill, .sched, .telem, .crier, .flt, .activity]

theorem onlyMarketRead (s : State) (c : Copy) (err : Option DataErr) : Only copyParts s (marketRead s c err).1 :=
  Only.marketRead s c err (Only.refl s) (by decide) (by decide) (by decide) (by decide) (by decide) (by decide) (by decide)
    (by decide) (by decide) (by decide) (by decide) (by decide) (by decide)

theorem onlySetQueue (s : State) (q : Nat) (l : List Copy) : Only copyParts s (setQueue s q l) :=
  Only.setQueue s q l (Only.refl s) (by decide) (by decide)

theorem onlyReleaseCopy (s : State) (c : Copy) : Only copyParts s (releaseCopy s c) :=
  Only.releaseCopy s c (Only.refl s) (by decide) (by decide) (by decide) (by decide) (by decide) (by decide) (by decide)
    (by decide)

theorem onlyDropQueued (s : State) (c : Copy) (reason : Nat) : Only copyParts s (dropQueued s c reason) :=
  Only.dropQueued s c reason (Only.refl s) (by decide) (by decide) (by decide) (by decide) (by decide) (by decide) (by decide)
    (by decide) (by decide) (by decide) (by decide) (by decide)

theorem sameHost_marketRead (s : State) (c : Copy) (err : Option DataErr) : SameHost s (marketRead s c err).1 :=
  .of_frame (onlyMarketRead s c err) (by decide) (by
    apply Named.marketRead s c err (fun _ _ => rfl) <;> decide)

theorem sameHost_setQueue (s : State) (q : Nat) (l : List Copy) : SameHost s (setQueue s q l) :=
  ⟨rfl, fun _ _ => rfl⟩

theorem sameHost_releaseCopy (s : State) (c : Copy) : SameHost s (releaseCopy s c) :=
  .of_frame (onlyReleaseCopy s c) (by decide) (by apply Named.releaseCopy s c (fun _ _ => rfl) <;> decide)

theorem sameHost_dropQueued (s : State) (c : Copy) (reason : Nat) : SameHost s (dropQueued s c reason) :=
  .of_frame (onlyDropQueued s c reason) (by decide) (by apply Named.dropQueued s c reason (fun _ _ => rfl) <;> decide)

theorem marketRead_out (s : State) (c : Copy) (err : Option DataErr) : (marketRead s c err).1.out = s.out :=
  onlyMarketRead s c err .out (by decide)

theorem releaseCopy_out (s : State) (c : Copy) : (releaseCopy s c).out = s.out :=
  onlyReleaseCopy s c .out (by decide)

theorem dropQueued_out (s : State) (c : Copy) (reason : Nat) : (dropQueued s c reason).out = s.out :=
  onlyDropQueued s c reason .out (by decide)

/-- Whether the data is lost is the error's to say. -/
theorem marketRead_lost (s t : State) (c : Copy) (err : Option DataErr) : (marketRead s c err).2 = (marketRead t c err).2 := by
  cases err with
  | none => rfl
  | some e => cases e <;> rfl

-- A receive ring (Table HIF-6) goes with the host island.

/-- The registers of the receive ring of a CPU queue lie in the host island's block. -/
theorem ringBase_rx_lt {n k : Nat} (hn : n < 64) (hk : k ≤ 0x10) : ringBase .rx n + k < 0x200000 := by
  simp only [ringBase, aHif]
  omega

/-- A state with the same receive ring: the same place of its entries, size and HEAD. -/
structure SameRing (n : Nat) (s t : State) : Prop where
  addr : ∀ i entry, ringAddr t .rx n i entry = ringAddr s .rx n i entry
  size : ringSize t .rx n = ringSize s .rx n
  head : ringHead t .rx n = ringHead s .rx n

theorem SameHost.ring {s t : State} (h : SameHost s t) {n : Nat} (hn : n < 64) : SameRing n s t where
  addr i entry := by
    rw [ringAddr, ringAddr, reg64, reg64, h.regs (ringBase .rx n) (ringBase_rx_lt (k := 0) hn (by omega)),
      h.regs _ (ringBase_rx_lt hn (by omega))]
  size := by rw [ringSize, ringSize, regF, regF, h.regs _ (ringBase_rx_lt hn (by omega))]
  head := by rw [ringHead, ringHead, h.regs _ (ringBase_rx_lt hn (by omega))]

/-- A HEAD that has wrapped fits its register: RING_SIZE has at most 2^15 entries. -/
theorem ringWrap_lt (s : State) (k : RingKind) (n h : Nat) : h % ringSize s k n < 2 ^ 32 := by
  have hf : regF s (ringBase k n + 8) 11 8 < 2 ^ 4 := Nat.mod_lt _ (by decide)
  calc h % ringSize s k n < ringSize s k n := Nat.mod_lt _ (Nat.two_pow_pos _)
    _ ≤ 2 ^ 32 := Nat.pow_le_pow_right (by decide) (by omega)

/-- The CPU queue whose turn it is exists. -/
theorem nextCpu_lt {s : State} {n : Nat} (h : nextCpu s = some n) : n < 64 := by
  have hmem := List.mem_of_find?_eq_some h
  simp only [rotateAfter, List.mem_append, List.mem_filter, List.mem_range] at hmem
  omega

-- RX_FRAME_DMA (R93, R298, R342).

/-- The entry at HEAD of the receive ring has been read. -/
def entryRead (s : State) (n : Nat) : State := emit s (.hostRead (ringAddr s .rx n (ringHead s .rx n) 32) 32)

/-- The copy at the head of CPU queue `n` has left it, and its data has been read. -/
def copyRead (s : State) (n : Nat) (c : Copy) (rest : List Copy) (err : Option DataErr) : State :=
  let r := (marketRead (setQueue (entryRead s n) (cpuQueue n) rest) c err).1
  { r with sched := { r.sched with lastCpu := n } }

/-- The frame and its entry have been written to the host, and HEAD has advanced. -/
def frameWritten (s : State) (n bufAddr bufLen : Nat) (c : Copy) : State :=
  let w := hostWrite (hostWrite s bufAddr ((copyOctets c).take bufLen)) (ringAddr s .rx n (ringHead s .rx n) 32 + 12)
    (rxEntry c (decide (bufLen < (copyOctets c).length)))
  setReg w (ringBase .rx n + 0xC) (BitVec.ofNat 32 ((ringHead s .rx n + 1) % ringSize s .rx n))

theorem sameHost_copyRead (s : State) (n : Nat) (c : Copy) (rest : List Copy) (err : Option DataErr) :
    SameHost s (copyRead s n c rest err) := by
  have h := sameHost_marketRead (setQueue (entryRead s n) (cpuQueue n) rest) c err
  exact ⟨h.hif, h.regs⟩

theorem copyRead_out (s : State) (n : Nat) (c : Copy) (rest : List Copy) (err : Option DataErr) :
    (copyRead s n c rest err).out = s.out ++ [.hostRead (ringAddr s .rx n (ringHead s .rx n) 32) 32] :=
  marketRead_out _ c err

theorem frameWritten_out (s : State) (n bufAddr bufLen : Nat) (c : Copy) :
    (frameWritten s n bufAddr bufLen c).out = s.out ++ [.hostWrite bufAddr ((copyOctets c).take bufLen),
      .hostWrite (ringAddr s .rx n (ringHead s .rx n) 32 + 12) (rxEntry c (decide (bufLen < (copyOctets c).length)))] := by
  simp only [frameWritten, hostWrite, emit, setReg_out, List.append_assoc, List.cons_append, List.nil_append]

theorem frameWritten_head (s : State) (n bufAddr bufLen : Nat) (c : Copy) :
    ringHead (frameWritten s n bufAddr bufLen c) .rx n = (ringHead s .rx n + 1) % ringSize s .rx n := by
  rw [ringHead, frameWritten, reg_setReg_same, BitVec.toNat_ofNat, Nat.mod_eq_of_lt (ringWrap_lt _ _ _ _)]

/-- R93, R298: what RX_FRAME_DMA does with a frame and a BUF_LEN that is admitted. -/
theorem exec_rxFrameDma {n : Nat} {entry : List Byte} {err : Option DataErr} {c : Copy} {rest : List Copy} {s : State}
    (hp : s.hif.perst = false) (hn : nextCpu s = some n) (hb : bufLenOk (leAt entry 8 2) = true)
    (hq : qEntries s (cpuQueue n) = c :: rest) :
    exec (.rxFrameDma n entry err) s = .next (if (marketRead s c err).2 then dropQueued (copyRead s n c rest err) c 0x41
      else raise (releaseCopy (frameWritten (copyRead s n c rest err) n (leAt entry 0 8) (leAt entry 8 2) c) c) (0x110 + n)) := by
  have hqe : qEntries (emit s (.hostRead (ringAddr s .rx n (ringHead s .rx n) 32) 32)) (cpuQueue n) = c :: rest := hq
  change execRxFrameDma n entry err s = _
  simp only [execRxFrameDma, hp, hn, hb, hqe, marketRead_lost _ s c err, bne_self_eq_false, Bool.or_self, Bool.not_true,
    Bool.false_eq_true, if_false]
  rfl

/-- R93, R298, R342: the frame whose turn it is goes to the posted buffer, or its data is lost and the buffer stays posted. -/
theorem execRxFrameDma_delivers {n : Nat} {entry : List Byte} {err : Option DataErr} {c : Copy} {rest : List Copy} {s : State}
    (hp : s.hif.perst = false) (hn : nextCpu s = some n) (hb : bufLenOk (leAt entry 8 2) = true)
    (hq : qEntries s (cpuQueue n) = c :: rest) :
    Completes (.rxFrameDma n entry err) s fun t => t.sched.lastCpu = n
      ∧ ((marketRead s c err).2 = false → ringHead t .rx n = (ringHead s .rx n + 1) % ringSize s .rx n ∧ 0x110 + n ∈ t.crier.pend
          ∧ t.out = s.out ++ [.hostRead (ringAddr s .rx n (ringHead s .rx n) 32) 32,
              .hostWrite (leAt entry 0 8) ((copyOctets c).take (leAt entry 8 2)),
              .hostWrite (ringAddr s .rx n (ringHead s .rx n) 32 + 12) (rxEntry c (decide (leAt entry 8 2 < (copyOctets c).length)))])
      ∧ ((marketRead s c err).2 = true → ringHead t .rx n = ringHead s .rx n
          ∧ t.out = s.out ++ [.hostRead (ringAddr s .rx n (ringHead s .rx n) 32) 32]) := by
  have hn64 := nextCpu_lt hn
  have hring := (sameHost_copyRead s n c rest err).ring hn64
  refine ⟨_, exec_rxFrameDma hp hn hb hq, ?_⟩
  cases hlost : (marketRead s c err).2
  case true =>
    rw [if_pos rfl]
    refine ⟨(dropQueued_lastCpu _ _ _).trans rfl, fun h => by simp at h, fun _ => ⟨?_, ?_⟩⟩
    · exact ((sameHost_dropQueued _ c 0x41).ring hn64).head.trans hring.head
    · rw [dropQueued_out, copyRead_out]
  case false =>
    rw [if_neg (by decide)]
    refine ⟨?_, fun _ => ⟨?_, mem_raise _ _, ?_⟩, fun h => by simp at h⟩
    · rw [raise_sched, releaseCopy_lastCpu]
      rfl
    · rw [ringHead, reg_raise_host _ _ (ringBase_rx_lt hn64 (by omega)), ← ringHead, ((sameHost_releaseCopy _ c).ring hn64).head,
        frameWritten_head, hring.head, hring.size]
    · rw [raise_out, releaseCopy_out, frameWritten_out, copyRead_out, hring.head, hring.addr, List.append_assoc]
      rfl

/-- The ring that a BUF_LEN which is not admitted stops. -/
theorem ringStop_rx (s : State) (n : Nat) : ringStop s .rx n = raise (setF s (ringBase .rx n + 8) 31 30 1) 0x161 := by
  have hnone : ∀ l : List (Nat × Notif), l.filter (fun x => RingKind.rx == .nq && x.1 == n && x.2.kind == 1) = [] :=
    fun l => List.filter_eq_nil_iff.mpr (by simp)
  simp only [ringStop, forgetVisible, dropReports, hnone, List.isEmpty_nil, if_true]

/-- R93, Table HIF-7: with a BUF_LEN that is not admitted the ring stops, with EN = 0, ERR = 1 and source 0x161. -/
theorem execRxFrameDma_stops {n : Nat} {entry : List Byte} {err : Option DataErr} {s : State} (hp : s.hif.perst = false)
    (hn : nextCpu s = some n) (hb : bufLenOk (leAt entry 8 2) = false) :
    Completes (.rxFrameDma n entry err) s fun t => ringEn t .rx n = false ∧ regBit t (ringBase .rx n + 8) 30 = true
      ∧ 0x161 ∈ t.crier.pend ∧ t.out = s.out ++ [.hostRead (ringAddr s .rx n (ringHead s .rx n) 32) 32] := by
  have hexec : exec (.rxFrameDma n entry err) s = .next (raise (setF (entryRead s n) (ringBase .rx n + 8) 31 30 1) 0x161) := by
    change execRxFrameDma n entry err s = _
    simp only [execRxFrameDma, hp, hn, hb, bne_self_eq_false, Bool.or_self, Bool.not_false, Bool.false_eq_true, if_false, if_true,
      ringStop_rx, entryRead]
  have hcfg : ringBase .rx n + 8 < 0x200000 := ringBase_rx_lt (nextCpu_lt hn) (by omega)
  refine ⟨_, hexec, ?_, ?_, mem_raise _ _, ?_⟩
  · rw [ringEn, regBit, reg_raise_host _ _ hcfg, reg_setF_same, getLsbD_fset]
    rfl
  · rw [regBit, reg_raise_host _ _ hcfg, reg_setF_same, getLsbD_fset]
    rfl
  · rw [raise_out, setF_out]
    rfl

/-- Settles O23: each service of firmware answers as its own lemma says, whether or not the state meets the invariant. -/
theorem firmwareServicesComplete : Obligations.FirmwareServicesComplete := by
  unfold Obligations.FirmwareServicesComplete
  exact ⟨fun _ _ _ hm hc hfw => execLcsChange_answers hm hc hfw,
    fun _ _ _ _ _ hm hc hfw => execFwUpdate_answers hm hc hfw,
    fun _ _ _ _ hr hp => execPatchLoad_answers hr hp,
    fun _ _ _ hj hfw => execPatchSwitchPoint_answers hj hfw,
    fun _ _ _ hr => execJrnRead_answers hr,
    fun _ _ _ _ _ hr => execJrnWrite_answers hr,
    fun _ _ _ _ _ _ _ hp hn hb hq => execRxFrameDma_delivers hp hn hb hq,
    fun _ _ _ _ _ hp hn hb => execRxFrameDma_stops hp hn hb⟩

end Sys2Proof.Proofs
end

section
/-!
Proofs of the statements on the host interface: PERST_N, the release of the host island and the link.
-/
namespace Sys2Proof.Proofs

open Sys2Proof Sys2Proof.Machine Sys2Proof.Laws

-- What leaves the host interface's part of the state alone.

theorem forEach_hif {α : Type} {f : State → α → State} (hf : ∀ s x, (f s x).hif = s.hif) (l : List α) (s : State) :
    (forEach l f s).hif = s.hif := by
  induction l generalizing s with
  | nil => rfl
  | cons x l ih => exact (ih (f s x)).trans (hf s x)

theorem orphan_hif (s : State) (o : Orphan) : (orphan s o).hif = s.hif :=
  Only.orphan (fr := [.regs]) s o (Only.refl s) (by decide) .hif (by decide)

theorem onlySettleDone (s : State) : Only [.regs, .owed, .crier, .flt] s (settleDone s) :=
  Only.settleDone s (Only.refl s) (by decide) (by decide) (by decide) (by decide)

theorem settleDone_hif (s : State) : (settleDone s).hif = s.hif := onlySettleDone s .hif (by decide)

theorem crierPerst_hif (s : State) : (crierPerst s).hif = s.hif := rfl

theorem freeUnit_hif (s : State) (u : Nat) : (freeUnit s u).hif = s.hif :=
  Only.freeUnit (fr := [.regs, .owed, .market, .crier, .flt, .activity]) s u (Only.refl s) (by decide) (by decide) (by decide)
    (by decide) (by decide) (by decide) .hif (by decide)

theorem addHostUsed_hif (s : State) (d : Int) : (addHostUsed s d).hif = s.hif :=
  Only.addHostUsed (fr := [.regs]) s d (Only.refl s) (by decide) .hif (by decide)

-- PERST_N falls (R98, R294).

/-- Freeing the host's units unmaps every slot and empties the buffers (R294). -/
theorem freeHostUnits_hif (s : State) : (freeHostUnits s).hif = { s.hif with slots := [], buf := [] } := by
  simp only [freeHostUnits, forEach_hif freeUnit_hif, addHostUsed_hif]

theorem freeHostUnits_hostHeld (s : State) : (freeHostUnits s).market.hostHeld = [] := rfl

/-- What is recorded as PERST_N falls leaves the host interface as `perstDrop` makes it; the host's units are freed after that. -/
theorem perstAssert_eq (s : State) :
    ∃ u, perstAssert s = settleDone (crierPerst (freeHostUnits u)) ∧ u.hif = (perstDrop s).hif := by
  refine ⟨_, rfl, ?_⟩
  have hcmds : ∀ (g : OutCmd → Orphan) l t, (forEach l (fun s o => orphan s (g o)) t).hif = t.hif :=
    fun g => forEach_hif fun s o => orphan_hif s (g o)
  split <;> split <;> simp only [raiseLimited_hif, add64_hif, setF_hif, setBit_hif, orphan_hif, hcmds]

theorem perstAssert_hif (s : State) : (perstAssert s).hif = { (perstDrop s).hif with slots := [], buf := [] } := by
  obtain ⟨u, hu, hhif⟩ := perstAssert_eq s
  rw [hu, settleDone_hif, crierPerst_hif, freeHostUnits_hif, hhif]

theorem perstAssert_hostHeld (s : State) : (perstAssert s).market.hostHeld = [] := by
  obtain ⟨u, hu, -⟩ := perstAssert_eq s
  have hmarket : (settleDone (crierPerst (freeHostUnits u))).market = (freeHostUnits u).market :=
    onlySettleDone _ .market (by decide)
  rw [hu, hmarket, freeHostUnits_hostHeld]

/-- A command that had started is left to be settled. -/
theorem mem_perstDrop_settling {s : State} {o : OutCmd} (ho : o ∈ s.hif.outstanding) (hs : startedCmd o = true) :
    o.cmd ∈ (perstDrop s).hif.settling.map (·.cmd) := by
  simp only [perstDrop, List.map_map]
  exact List.mem_map.mpr ⟨o, List.mem_append_right _ (List.mem_filter.mpr ⟨ho, hs⟩), rfl⟩

/-- R98: PERST_N falls with the host island out of reset. -/
theorem execPerstNAssert_resets {cause : PerstCause} {s : State} (hr : s.top.inReset = false) (hp : s.hif.perst = false) :
    Completes (.perstNAssert cause) s fun t =>
      t.hif.perst = true ∧ t.hif.perstHigh = false ∧ t.hif.fromPerst = true ∧ t.hif.completions = [] ∧ t.hif.notifs = []
      ∧ t.hif.visible = [] ∧ t.hif.outstanding = [] ∧ t.hif.slots = [] ∧ t.market.hostHeld = []
      ∧ (∀ o ∈ s.hif.outstanding, startedCmd o = true → o.cmd ∈ t.hif.settling.map (·.cmd))
      ∧ t.top.lands.pcieTx = .idle ∧ t.top.lands.pcieRx = .termOff := by
  have hexec : exec (.perstNAssert cause) s = .next (perstLow (perstAssert s)) := by
    change execPerstNAssert cause s = _
    simp [execPerstNAssert, hr, hp]
  have hhif : (perstLow (perstAssert s)).hif = { (perstDrop s).hif with slots := [], buf := [], perstHigh := false } := by
    change { (perstAssert s).hif with perstHigh := false } = _
    rw [perstAssert_hif]
  refine ⟨_, hexec, ?_⟩
  dsimp only
  rw [hhif]
  exact ⟨rfl, rfl, rfl, rfl, rfl, rfl, rfl, rfl, perstAssert_hostHeld s, fun _ ho hs => mem_perstDrop_settling ho hs, rfl, rfl⟩

-- The host island leaves reset (R98, R101, Table ISL-7).

/-- A store without the cells whose keys fail a test reads the default there, and elsewhere what it read. -/
theorem mapGet_filter_key {α : Type} (d : α) (m : Store α) (q : Nat → Bool) (k : Nat) :
    mapGet d (m.filter fun x => q x.1) k = if q k then mapGet d m k else d := by
  induction m with
  | nil => simp
  | cons x r ih =>
    obtain ⟨k', v⟩ := x
    rw [List.filter_cons]
    by_cases hk : k' = k
    · subst hk
      cases hq : q k'
      · simpa [hq] using ih
      · simp [mapGet_cons]
    · split
      · simpa [mapGet_cons, hk] using ih
      · simpa [mapGet_cons, hk] using ih

/-- The state with the registers of the host island at their reset values, and the island out of reset. -/
def hostReleased (s : State) : State :=
  { s with regs := hifRegsReset s.regs, hif := { s.hif with perst := false, fromPerst := false, phaseInv := [], lastCr := 15 } }

/-- The registers that the release of the host island keeps: those of other blocks, the orphan log and STATUS. -/
def heldOver (a : Nat) : Bool :=
  decide (a < 0x100000) || decide (0x200000 ≤ a) || (decide (0x103000 ≤ a) && decide (a < 0x106000)) || a == 0x100000

theorem reg_hostReleased (s : State) (a : Nat) : reg (hostReleased s) a = if heldOver a then reg s a else resetWord a :=
  mapGet_filter_key (resetWord a) s.regs heldOver a

/-- A register of HIF, STATUS and the orphan log apart, is at its reset value. -/
theorem reg_hostReleased_reset (s : State) {a : Nat} (h : (0x100004 ≤ a ∧ a < 0x103000) ∨ (0x106000 ≤ a ∧ a < 0x200000)) :
    reg (hostReleased s) a = resetWord a := by
  have hq : heldOver a = false := by
    simp only [heldOver, Bool.or_eq_false_iff, Bool.and_eq_false_iff, decide_eq_false_iff_not, beq_eq_false_iff_ne]
    omega
  rw [reg_hostReleased, hq, if_neg Bool.false_ne_true]

/-- STATUS and the orphan log's control register are those before. -/
theorem reg_hostReleased_kept (s : State) {a : Nat} (h : a = aHif 0 ∨ a = aHif 0x3000) :
    reg (hostReleased s) a = reg s a := by
  rw [reg_hostReleased, if_pos]
  rcases h with rfl | rfl <;> rfl

/-- EPOCH advances after a PERST_N reset. -/
def epochAdvanced (s : State) : State :=
  whenB s.hif.fromPerst (fun t => setF t (aHif 0) 23 16 (regF t (aHif 0) 23 16 + 1)) (hostReleased s)

theorem reg_epochAdvanced_ne (s : State) {a : Nat} (h : a ≠ aHif 0) : reg (epochAdvanced s) a = reg (hostReleased s) a := by
  unfold epochAdvanced whenB
  split
  · exact reg_setF_ne h
  · rfl

theorem epochAdvanced_hif (s : State) : (epochAdvanced s).hif = (hostReleased s).hif := by
  unfold epochAdvanced whenB
  split
  · rfl
  · rfl

theorem regF_epochAdvanced (s : State) :
    regF (epochAdvanced s) (aHif 0) 23 16 = (regF s (aHif 0) 23 16 + b2n s.hif.fromPerst) % 256 := by
  have hkept : regF (hostReleased s) (aHif 0) 23 16 = regF s (aHif 0) 23 16 := by
    rw [regF, reg_hostReleased_kept s (.inl rfl), regF]
  have hlt : regF s (aHif 0) 23 16 < 256 := Nat.mod_lt _ (by decide)
  unfold epochAdvanced
  cases s.hif.fromPerst
  · exact hkept.trans (Nat.mod_eq_of_lt hlt).symm
  · simp only [whenB, if_true, regF_setF_same (by decide : 23 < 32), hkept, b2n]
    rfl

/-- Source 0x164 tells of an orphan log that is not empty. -/
def logTold (s : State) : State :=
  whenB (s.hif.fromPerst && decide (regF (epochAdvanced s) (aHif 0x3000) 10 0 ≠ 0)) (raise · 0x164) (epochAdvanced s)

theorem reg_logTold (s : State) {a : Nat} (h : a < 0x200000) : reg (logTold s) a = reg (epochAdvanced s) a := by
  unfold logTold whenB
  split
  · exact reg_raise_host _ _ h
  · rfl

theorem logTold_hif (s : State) : (logTold s).hif = (hostReleased s).hif := by
  unfold logTold whenB
  split
  · rw [raise_hif, epochAdvanced_hif]
  · exact epochAdvanced_hif s

theorem mem_pend_logTold {s : State} (hf : s.hif.fromPerst = true) (hn : regF s (aHif 0x3000) 10 0 ≠ 0) :
    0x164 ∈ (logTold s).crier.pend := by
  have hkept : regF (epochAdvanced s) (aHif 0x3000) 10 0 = regF s (aHif 0x3000) 10 0 := by
    rw [regF, reg_epochAdvanced_ne s (by decide), reg_hostReleased_kept s (.inr rfl), regF]
  rw [logTold, hkept, hf, whenB, if_pos (by simpa using hn)]
  exact mem_raise _ _

/-- R98 step 5: the host island leaves reset. -/
theorem execHostIslandRelease_releases {s : State} (hp : s.hif.perst = true) (hh : s.hif.perstHigh = true)
    (hb : bringup s 1 = true) :
    Completes .hostIslandRelease s fun t =>
      t.hif.perst = false ∧ t.hif.fromPerst = false
      ∧ (∀ a : Nat, 0x100004 ≤ a → a < 0x103000 → reg t a = resetWord a)
      ∧ (∀ a : Nat, 0x106000 ≤ a → a < 0x200000 → reg t a = resetWord a)
      ∧ regF t (aHif 0) 23 16 = (regF s (aHif 0) 23 16 + b2n s.hif.fromPerst) % 256
      ∧ (s.hif.fromPerst = true → regF s (aHif 0x3000) 10 0 ≠ 0 → 0x164 ∈ t.crier.pend) := by
  have hexec : exec .hostIslandRelease s = .next (landsPcie (logTold s) true) := by
    change execHostIslandRelease s = _
    rw [execHostIslandRelease, hp, hh, hb]
    rfl
  have hreset : ∀ a, (0x100004 ≤ a ∧ a < 0x103000) ∨ (0x106000 ≤ a ∧ a < 0x200000) →
      reg (landsPcie (logTold s) true) a = resetWord a := fun a ha => by
    change reg (logTold s) a = _
    rw [reg_logTold s (by omega), reg_epochAdvanced_ne s (by simp only [aHif]; omega), reg_hostReleased_reset s ha]
  have hhif : (landsPcie (logTold s) true).hif = (hostReleased s).hif := logTold_hif s
  refine ⟨_, hexec, ?_, ?_, fun a h1 h2 => hreset a (.inl ⟨h1, h2⟩), fun a h1 h2 => hreset a (.inr ⟨h1, h2⟩), ?_,
    fun hf hn => mem_pend_logTold hf hn⟩
  · rw [hhif]; rfl
  · rw [hhif]; rfl
  · change regF (logTold s) _ _ _ = _
    rw [regF, reg_logTold s (by decide), ← regF, regF_epochAdvanced]

-- The link (R34, R102).

/-- STATUS shows a trained link: its mode, its speed and its width (Table HIF-2). -/
def linkShown (s : State) (width speed : Nat) (flit : Bool) : State :=
  setF (setF (setBit s (aHif 0) 0 flit) (aHif 0) 7 4 speed) (aHif 0) 11 8 width

theorem linkShown_fields (s : State) (flit : Bool) {width speed : Nat} (hw : width < 16) (hv : speed < 16) :
    regBit (linkShown s width speed flit) (aHif 0) 0 = flit ∧ regF (linkShown s width speed flit) (aHif 0) 11 8 = width
      ∧ regF (linkShown s width speed flit) (aHif 0) 7 4 = speed := by
  refine ⟨?_, ?_, ?_⟩
  · rw [linkShown, regBit, reg_setF_same, getLsbD_fset, reg_setF_same, getLsbD_fset]
    exact (regBit_setBit_same (s := s) (a := aHif 0) (by decide : 0 < 32))
  · rw [linkShown, regF_setF_same (by decide)]
    exact Nat.mod_eq_of_lt hw
  · rw [linkShown, regF, reg_setF_same, fget_fset_ne _ _ (by decide) (by decide), ← regF, regF_setF_same (by decide)]
    exact Nat.mod_eq_of_lt hv

/-- R34, R102: a trained link is shown, and source 0x163 tells of one below x8 or below the highest speed. -/
theorem execLinkTrained_shows {width speed : Nat} {flit : Bool} {s : State} (hp : s.hif.perst = false) (hw : width < 16)
    (hv : speed < 16) :
    Completes (.linkTrained width speed flit) s fun t =>
      regBit t (aHif 0) 0 = flit ∧ regF t (aHif 0) 11 8 = width ∧ regF t (aHif 0) 7 4 = min speed (topSpeed s)
      ∧ (width < 8 ∨ speed < topSpeed s → 0x163 ∈ t.crier.pend) := by
  have htop : topSpeed (linkShown s width (min speed (topSpeed s)) flit) = topSpeed s := by
    have hstrap : reg (linkShown s width (min speed (topSpeed s)) flit) 0x10 = reg s 0x10 := by
      rw [linkShown, reg_setF_ne (by decide), reg_setF_ne (by decide), reg_setBit_ne (by decide)]
    rw [topSpeed, regBit, hstrap, topSpeed, regBit]
  have hslow : (decide (width < 8) || decide (min speed (topSpeed s) < topSpeed s)) = decide (width < 8 ∨ speed < topSpeed s) := by
    simp
  have hexec : exec (.linkTrained width speed flit) s = .next (whenB (decide (width < 8 ∨ speed < topSpeed s)) (raise · 0x163)
      (linkShown s width (min speed (topSpeed s)) flit)) := by
    change execLinkTrained width speed flit s = _
    rw [execLinkTrained, hp, if_neg Bool.false_ne_true]
    simp only [linkShown] at htop ⊢
    simp only [htop, hslow]
  obtain ⟨hflit, hwidth, hspeed⟩ := linkShown_fields s flit hw (Nat.lt_of_le_of_lt (Nat.min_le_left speed (topSpeed s)) hv)
  have hreg : ∀ b, reg (whenB b (raise · 0x163) (linkShown s width (min speed (topSpeed s)) flit)) (aHif 0)
      = reg (linkShown s width (min speed (topSpeed s)) flit) (aHif 0) := fun b => by
    cases b
    · rfl
    · exact reg_raise_host _ _ (by decide)
  refine ⟨_, hexec, ?_, ?_, ?_, fun h => ?_⟩
  · rw [regBit, hreg, ← regBit, hflit]
  · rw [regF, hreg, ← regF, hwidth]
  · rw [regF, hreg, ← regF, hspeed]
  · rw [whenB, if_pos (decide_eq_true h)]
    exact mem_raise _ _

/-- Settles O19: each clause is the rule of its command, whether or not the state meets the invariant. -/
theorem hostLinkComplete : Obligations.HostLinkComplete := by
  unfold Obligations.HostLinkComplete
  exact ⟨fun _ _ _ hr hp => execPerstNAssert_resets hr hp, fun _ => ⟨_, rfl, rfl⟩,
    fun _ _ hp hh hb => execHostIslandRelease_releases hp hh hb,
    fun _ _ _ _ _ hp hw hv => execLinkTrained_shows hp hw hv⟩

end Sys2Proof.Proofs
end

section
/-!
Proofs of the statements on the host interface: the windows of BAR0 and BAR2, the mailbox and the orphan log.
-/
namespace Sys2Proof.Proofs

open Sys2Proof Sys2Proof.Machine Sys2Proof.Laws

-- BAR0 where no register stands (R73).

/-- R73: the access sets its error, and a read returns zero. -/
theorem execBar0UnmappedAccess_errs {addr : Nat} {write : Bool} {s : State} (hn : (regInfo addr).isSome = false)
    (hp : s.hif.perst = false) (hr : s.top.inReset = false) :
    Completes (.bar0UnmappedAccess addr write) s fun t =>
      regBit t (aHif 8) 0 = true ∧ 0x161 ∈ t.crier.pend ∧ t.out = s.out ++ (if write then [] else [.readData (bytesLE 4 0)]) := by
  have hexec : exec (.bar0UnmappedAccess addr write) s
      = .next (hifErr (whenB (!write) (emit · (.readData (bytesLE 4 0))) s) 0) := by
    change execBar0UnmappedAccess addr write s = _
    rw [execBar0UnmappedAccess, hn, hp, hr]
    rfl
  refine ⟨_, hexec, regBit_hifErr _ (by decide), mem_pend_hifErr _ 0, ?_⟩
  rw [hifErr_out]
  cases write
  · rfl
  · exact (List.append_nil _).symm

-- The buffer aperture (R95).

/-- The octets of a write through the aperture, each with the key of its place in a mapped buffer. -/
def keyed (s : State) (off : Nat) (data : List Byte) : List (Option Nat × Byte) :=
  data.zipIdx.map fun x => (apertureKey s (off + x.2), x.1)

/-- The buffers with the octets of a write that lie in them. -/
def buffersAfter (s : State) (off : Nat) (data : List Byte) : Store Byte :=
  data.zipIdx.foldl (fun m x => match apertureKey s (off + x.2) with | some k => mapPut 0 m k x.1 | none => m) s.hif.buf

/-- A write through the aperture keeps the octets in buffers; the others count once, with their error. -/
theorem apertureStore_eq (s : State) (off : Nat) (data : List Byte) :
    apertureStore s off data =
      let u := { s with hif := { s.hif with buf := buffersAfter s off data } }
      if (keyed s off data).any (·.1.isNone) then raise (setBit (add64 u (aHif 0x10) 1) (aHif 8) 3 true) 0x162 else u := by
  have hbuf : (keyed s off data).foldl (fun m x => match x.1 with | some k => mapPut 0 m k x.2 | none => m) s.hif.buf
      = buffersAfter s off data := by
    rw [keyed, List.foldl_map]
    rfl
  rw [← hbuf]
  rfl

/-- A write with an octet outside every mapped buffer. -/
theorem keyed_any_none {s : State} {off : Nat} {data : List Byte}
    (h : ∃ x ∈ data.zipIdx, apertureKey s (off + x.2) = none) : (keyed s off data).any (·.1.isNone) = true := by
  obtain ⟨x, hx, hnone⟩ := h
  rw [List.any_eq_true]
  exact ⟨_, List.mem_map_of_mem hx, by rw [hnone]; rfl⟩

/-- R95: a BAR2 write in the aperture. -/
theorem execApertureWrite_stores {addr : Nat} {data : List Byte} {s : State} (hp : s.hif.perst = false)
    (hr : s.top.inReset = false) (hlo : 0x100000 ≤ addr) (hhi : addr < 0x4000000) :
    Completes (.apertureWrite addr data) s fun t => t.hif.buf = buffersAfter s (addr - 0x100000) data
      ∧ ((∃ x ∈ data.zipIdx, apertureKey s (addr - 0x100000 + x.2) = none) → regBit t (aHif 8) 3 = true ∧ 0x162 ∈ t.crier.pend) := by
  have hpart : bar2Part addr = .aperture (addr - 0x100000) := by
    have hbar : barSize 2 = 0x4000000 := rfl
    unfold bar2Part apertureBase
    dsimp only
    rw [hbar, if_neg (by omega), if_neg (by omega), if_neg (by omega), if_neg (by omega), if_neg (by omega), if_pos hhi]
  have hexec : exec (.apertureWrite addr data) s = .next (apertureStore s (addr - 0x100000) data) := by
    change execApertureWrite addr data s = _
    rw [execApertureWrite, hp, hr, hpart]
    rfl
  refine ⟨_, hexec, ?_, fun h => ?_⟩
  · rw [apertureStore_eq]
    dsimp only
    split
    · rw [raise_hif, setBit_hif, add64_hif]
    · rfl
  · rw [apertureStore_eq]
    dsimp only
    rw [if_pos (keyed_any_none h), regBit, reg_raise_host _ _ (by decide)]
    exact ⟨regBit_setBit_same (by decide), mem_raise _ _⟩

/-- R73, R95: a BAR2 read answers with the octets of BAR2. -/
theorem execApertureRead_reads {addr len : Nat} {s : State} (hp : s.hif.perst = false) (hr : s.top.inReset = false) :
    Completes (.apertureRead addr len) s fun t =>
      t = { s with out := s.out ++ [.readData ((List.range len).map fun i => bar2Octet s (addr + i))] } := by
  refine ⟨_, ?_, rfl⟩
  change execApertureRead addr len s = _
  rw [execApertureRead, hp, hr]
  rfl

-- MAILBOX_GO (R96).

/-- The request that the request area spells. -/
def mailAsked (s : State) : MailReq :=
  { code := leAt (mailArea s) 0 2, tag := leAt (mailArea s) 2 2, area := mailArea s, taken := false }

/-- CODE and TAG stand in the first two words of the request area (Table HIF-13). -/
theorem mailAsked_code (s : State) : (mailAsked s).code = (mailOctet s 0).toNat + 256 * (mailOctet s 1).toNat := rfl

theorem mailAsked_tag (s : State) : (mailAsked s).tag = (mailOctet s 2).toNat + 256 * (mailOctet s 3).toNat := rfl

/-- The taking of a request marks it, and changes nothing else of it. -/
theorem mailTake_mail (s : State) {α : Type} (f : MailReq → α) (hf : ∀ m b, f { m with taken := b } = f m) :
    (mailTake s).hif.mail.map f = s.hif.mail.map f := by
  unfold mailTake
  split
  · rw [Option.map_map]
    exact congrArg (Option.map · s.hif.mail) (funext fun m => hf m true)
  · rfl

/-- R96: GO with BUSY clear. -/
theorem execMailboxGo_asks {s : State} (hp : s.hif.perst = false) (hr : s.top.inReset = false)
    (hb : regBit s (aHif 0x2000) 1 = false) :
    Completes .mailboxGo s fun t => regBit t (aHif 0x2000) 1 = true
      ∧ t.hif.mail.map (·.code) = some ((mailOctet s 0).toNat + 256 * (mailOctet s 1).toNat)
      ∧ t.hif.mail.map (·.tag) = some ((mailOctet s 2).toNat + 256 * (mailOctet s 3).toNat)
      ∧ t.hif.mail.map (·.area) = some ((List.range 256).map (mailOctet s)) := by
  have hexec : exec .mailboxGo s = .next (mailTake (raise
      (setBit { s with hif := { s.hif with mail := some (mailAsked s) } } (aHif 0x2000) 1 true)
      (0xF00 + Config.mailboxSource % 256))) := by
    change execMailboxGo s = _
    rw [execMailboxGo, hp, hr, hb]
    rfl
  refine ⟨_, hexec, ?_, ?_, ?_, ?_⟩
  · rw [regBit, mailTake_reg, reg_raise_host _ _ (by decide)]
    exact regBit_setBit_same (by decide)
  · rw [mailTake_mail _ (·.code) fun _ _ => rfl, raise_hif, setBit_hif, ← mailAsked_code]
    rfl
  · rw [mailTake_mail _ (·.tag) fun _ _ => rfl, raise_hif, setBit_hif, ← mailAsked_tag]
    rfl
  · rw [mailTake_mail _ (·.area) fun _ _ => rfl, raise_hif, setBit_hif]
    rfl

/-- R96: GO with BUSY set. -/
theorem execMailboxGo_overruns {s : State} (hp : s.hif.perst = false) (hr : s.top.inReset = false)
    (hb : regBit s (aHif 0x2000) 1 = true) :
    Completes .mailboxGo s fun t => regBit t (aHif 0x2000) 2 = true ∧ t.hif.mail = s.hif.mail := by
  have hexec : exec .mailboxGo s = .next (setBit s (aHif 0x2000) 2 true) := by
    change execMailboxGo s = _
    rw [execMailboxGo, hp, hr, hb]
    rfl
  exact ⟨_, hexec, regBit_setBit_same (by decide), rfl⟩

-- MAILBOX_RESPONSE (R96, R98, R482).

/-- Whichever check of R482 decides, the request is answered, and the host island is left alone before that. -/
theorem lcsAnswer_responds (s : State) (m : MailReq) :
    ∃ u status, lcsAnswer s m = mailRespond u status [] ∧ SameHost s u := by
  cases hwf : lcsMalformed (leAt m.area 8 1) (leAt m.area 12 2) (lcsBlob m) with
  | true => exact ⟨s, _, lcsAnswer_malformed hwf, .refl s⟩
  | false =>
    cases hd : lcsOf (leAt (lcsBlob m) 5 1) with
    | none => simp [lcsMalformed, hd] at hwf
    | some dest =>
      cases hf : lcsForbidden s m dest with
      | true => exact ⟨s, _, lcsAnswer_forbidden hwf hd hf, .refl s⟩
      | false =>
        rw [lcsAnswer_permitted hwf hd hf]
        split
        · exact ⟨s, _, rfl, .refl s⟩
        · split
          · exact ⟨_, _, rfl, sameHost_sigCount s false⟩
          · cases lcsJobOf s dest (lcsBlob m) with
            | none => exact ⟨_, _, rfl, sameHost_sigCount s true⟩
            | some j => exact ⟨_, _, rfl, (sameHost_sigCount s true).withTop _⟩

/-- The answer to a request that a PERST_N reset left leaves the contents of the one that waits. -/
theorem mailRespond_mail_area {u : State} {m : MailReq} (h : u.hif.oldMail = some m) (status : Nat) :
    (mailRespond u status []).hif.mail.map (·.area) = u.hif.mail.map (·.area) := by
  have ht : mailRespond u status [] = mailTake (settleDone (orphan { u with hif := { u.hif with oldMail := none } }
      { tag := m.tag, opcode := 0xFF, cr := 0xFF, status := status })) := by
    simp only [mailRespond, h]
  rw [ht, mailTake_mail _ (·.area) fun _ _ => rfl, settleDone_orphan_hif]

section Response

variable {m : MailReq} {s : State}

theorem mailServed_of_taken (ho : s.hif.oldMail = none) (hm : s.hif.mail = some m) (ht : m.taken = true) :
    mailServed s = some m := by
  simp [mailServed, ho, hm, ht]

theorem mailServed_of_old (ho : s.hif.oldMail = some m) : mailServed s = some m := by
  simp [mailServed, ho]

/-- A request of a reserved CODE or LEN is answered with BAD_ARG (R16). -/
theorem exec_mailboxResponse_bad (hm : mailServed s = some m) (hfw : fwRuns s = true) (hb : mailBad m = true) :
    exec .mailboxResponse s = .next (mailRespond s stBadArg []) := by
  change execMailboxResponse s = _
  simp [execMailboxResponse, hm, hfw, hb]

/-- A life-cycle request is answered by its checks. -/
theorem exec_mailboxResponse_lcs (hm : mailServed s = some m) (hfw : fwRuns s = true) (hb : mailBad m = false)
    (hc : m.code = 1) : exec .mailboxResponse s = .next (lcsAnswer s m) := by
  change execMailboxResponse s = _
  simp [execMailboxResponse, hm, hfw, hb, hc]

/-- The answer to a firmware update comes with its own row. -/
theorem exec_mailboxResponse_update (hm : mailServed s = some m) (hb : mailBad m = false) (hc : m.code = 2) :
    exec .mailboxResponse s = .next s := by
  change execMailboxResponse s = _
  simp [execMailboxResponse, hm, hb, hc]

/-- R16, R96: the response to a reserved CODE or LEN. -/
theorem execMailboxResponse_refuses (ho : s.hif.oldMail = none) (hm : s.hif.mail = some m) (ht : m.taken = true)
    (hfw : fwRuns s = true) (hb : mailBad m = true) :
    Completes .mailboxResponse s fun t =>
      t.hif.mail = none ∧ regBit t (aHif 0x2000) 1 = false ∧ 0x160 ∈ t.crier.pend
      ∧ reg t (aHif 0x2200) = BitVec.ofNat 32 (m.code % 65536 + m.tag % 65536 * 65536) ∧ reg t (aHif 0x2204) = 8 := by
  have hserved := mailServed_of_taken ho hm ht
  obtain ⟨-, hanswer, -⟩ := responds_mailRespond hserved (.refl s) stBadArg
  exact ⟨_, exec_mailboxResponse_bad hserved hfw hb, hanswer ho⟩

/-- R96, R482: the response to a life-cycle request. -/
theorem execMailboxResponse_checks (ho : s.hif.oldMail = none) (hm : s.hif.mail = some m) (ht : m.taken = true)
    (hfw : fwRuns s = true) (hb : mailBad m = false) (hc : m.code = 1) :
    Completes .mailboxResponse s fun t => t = lcsAnswer s m
      ∧ t.hif.mail = none ∧ regBit t (aHif 0x2000) 1 = false ∧ 0x160 ∈ t.crier.pend
      ∧ reg t (aHif 0x2200) = BitVec.ofNat 32 (1 + m.tag % 65536 * 65536) := by
  have hserved := mailServed_of_taken ho hm ht
  obtain ⟨u, status, hu, hhost⟩ := lcsAnswer_responds s m
  obtain ⟨-, hanswer, -⟩ := responds_mailRespond hserved hhost status
  obtain ⟨hmail, hbusy, hpend, hcode, -⟩ := hanswer ho
  refine ⟨_, exec_mailboxResponse_lcs hserved hfw hb hc, rfl, ?_⟩
  rw [hu]
  rw [hc] at hcode
  exact ⟨hmail, hbusy, hpend, hcode⟩

/-- R98, R101: the answer to a request that a PERST_N reset left is recorded. -/
theorem execMailboxResponse_records (ho : s.hif.oldMail = some m) (hfw : fwRuns s = true) (hb : mailBad m = true ∨ m.code = 1) :
    Completes .mailboxResponse s fun t =>
      t.hif.oldMail = none ∧ t.hif.mail.map (·.area) = s.hif.mail.map (·.area)
      ∧ (regF s (aHif 0x3000) 10 0 < 1024 →
          (reg t (aHif (0x4000 + 8 * regF s (aHif 0x3000) 10 0))).toNat = m.tag % 65536 + 0xFFFF0000
          ∧ regF t (aHif 0x3000) 10 0 = regF s (aHif 0x3000) 10 0 + 1) := by
  have hserved := mailServed_of_old ho
  have hanswer : ∃ u status, exec .mailboxResponse s = .next (mailRespond u status []) ∧ SameHost s u := by
    cases hbad : mailBad m with
    | true => exact ⟨s, _, exec_mailboxResponse_bad hserved hfw hbad, .refl s⟩
    | false =>
      obtain ⟨u, status, hu, hhost⟩ := lcsAnswer_responds s m
      have hcode : m.code = 1 := hb.resolve_left (by rw [hbad]; exact Bool.false_ne_true)
      exact ⟨u, status, (exec_mailboxResponse_lcs hserved hfw hbad hcode).trans (by rw [hu]), hhost⟩
  obtain ⟨u, status, hexec, hhost⟩ := hanswer
  obtain ⟨hold, -, hlog⟩ := responds_mailRespond hserved hhost status
  refine ⟨_, hexec, hold, ?_, fun hroom => ?_⟩
  · rw [mailRespond_mail_area (hhost.hif ▸ ho), hhost.hif]
  · obtain ⟨hcount, hentry, -⟩ := hlog (by rw [ho]; exact Option.some_ne_none m) hroom
    refine ⟨?_, hcount⟩
    rw [hentry, BitVec.toNat_ofNat]
    omega

end Response

-- ORPHAN_LOG_CLEAR (R101).

/-- The dwords of the orphan log have been zeroed. -/
def logZeroed (s : State) : State := forEach (List.range 2048) (fun s i => setReg s (aHif (0x4000 + 4 * i)) 0) s

theorem reg_logZeroed (s : State) {i : Nat} (h : i < 2048) : reg (logZeroed s) (aHif (0x4000 + 4 * i)) = 0 := by
  have key : ∀ n, i < n →
      reg (forEach (List.range n) (fun s i => setReg s (aHif (0x4000 + 4 * i)) 0) s) (aHif (0x4000 + 4 * i)) = 0 := by
    intro n
    induction n with
    | zero => intro hi; omega
    | succ n ih =>
      intro hi
      rw [forEach, List.range_succ, List.foldl_append, List.foldl_cons, List.foldl_nil]
      by_cases hn : i = n
      · rw [hn, reg_setReg_same]
      · rw [reg_setReg_ne (by simp only [aHif]; omega)]
        exact ih (by omega)
  exact key 2048 h

/-- R101: clearing the orphan log empties it. -/
theorem execOrphanLogClear_empties {s : State} (hp : s.hif.perst = false) :
    Completes .orphanLogClear s fun t =>
      regF t (aHif 0x3000) 16 0 = 0 ∧ ∀ i : Nat, i < 2048 → reg t (aHif (0x4000 + 4 * i)) = 0 := by
  have hexec : exec .orphanLogClear s = .next (setF (logZeroed s) (aHif 0x3000) 16 0 0) := by
    change execOrphanLogClear s = _
    rw [execOrphanLogClear, hp]
    rfl
  refine ⟨_, hexec, regF_setF_same (by decide), fun i hi => ?_⟩
  rw [reg_setF_ne (by simp only [aHif]; omega), reg_logZeroed s hi]

/-- Settles O20: each clause is the rule of its command, whether or not the state meets the invariant. -/
theorem hostWindowsComplete : Obligations.HostWindowsComplete := by
  unfold Obligations.HostWindowsComplete
  exact ⟨fun _ _ _ _ hn hp hr => execBar0UnmappedAccess_errs hn hp hr,
    fun _ _ _ _ hp hr hlo hhi => execApertureWrite_stores hp hr hlo hhi,
    fun _ _ _ hp hr => execApertureRead_reads hp hr,
    fun _ _ hp hr hb => execMailboxGo_asks hp hr hb,
    fun _ _ hp hr hb => execMailboxGo_overruns hp hr hb,
    fun _ _ _ ho hm ht hfw hb => execMailboxResponse_refuses ho hm ht hfw hb,
    fun _ _ _ ho hm ht hfw hb hc => execMailboxResponse_checks ho hm ht hfw hb hc,
    fun _ s hm hb hc => ⟨s, exec_mailboxResponse_update hm hb hc, rfl⟩,
    fun _ _ _ ho hfw hb => execMailboxResponse_records ho hfw hb,
    fun _ _ hp => execOrphanLogClear_empties hp⟩

end Sys2Proof.Proofs
end

section
/-!
Proofs of the statements on the host interface: doorbells and rings.
-/
namespace Sys2Proof.Proofs

open Sys2Proof Sys2Proof.Machine Sys2Proof.Laws

-- Indexes and registers of a ring (Tables HIF-5 and HIF-6).

/-- An index below the ring's size fits its register. -/
theorem ringIndex_toNat {s : State} {k : RingKind} {n i : Nat} (h : i < ringSize s k n) : (BitVec.ofNat 32 i).toNat = i := by
  have hwrap := ringWrap_lt s k n i
  rw [Nat.mod_eq_of_lt h] at hwrap
  rw [BitVec.toNat_ofNat, Nat.mod_eq_of_lt hwrap]

/-- The registers of a ring that the part has lie in the host island's block. -/
theorem ringReg_lt {k : RingKind} {n off : Nat} (hn : n < ringCount k) (ho : off ≤ 0x10) : ringBase k n + off < 0x200000 := by
  cases k <;> simp only [ringBase, ringCount, aHif] at hn ⊢ <;> omega

theorem decide_ringCount_le {k : RingKind} {n : Nat} (hn : n < ringCount k) : decide (ringCount k ≤ n) = false :=
  decide_eq_false (Nat.not_le.mpr hn)

/-- HEAD and TAIL of a ring from the registers that hold them. -/
theorem ringHead_congr {s t : State} {k : RingKind} {n : Nat} (h : reg t (ringBase k n + 0xC) = reg s (ringBase k n + 0xC)) :
    ringHead t k n = ringHead s k n := congrArg BitVec.toNat h

theorem ringTail_congr {s t : State} {k : RingKind} {n : Nat} (h : reg t (ringBase k n + 0x10) = reg s (ringBase k n + 0x10)) :
    ringTail t k n = ringTail s k n := congrArg BitVec.toNat h

-- Doorbells (R80).

/-- A write of HEAD or of TAIL moves that index alone. -/
theorem ringIndexes_setHead {s : State} {k : RingKind} {n i : Nat} (h : i < ringSize s k n) :
    ringHead (setReg s (ringBase k n + 0xC) (BitVec.ofNat 32 i)) k n = i
      ∧ ringTail (setReg s (ringBase k n + 0xC) (BitVec.ofNat 32 i)) k n = ringTail s k n :=
  ⟨(congrArg BitVec.toNat reg_setReg_same).trans (ringIndex_toNat h), ringTail_congr (reg_setReg_ne (by omega))⟩

theorem ringIndexes_setTail {s : State} {k : RingKind} {n i : Nat} (h : i < ringSize s k n) :
    ringTail (setReg s (ringBase k n + 0x10) (BitVec.ofNat 32 i)) k n = i
      ∧ ringHead (setReg s (ringBase k n + 0x10) (BitVec.ofNat 32 i)) k n = ringHead s k n :=
  ⟨(congrArg BitVec.toNat reg_setReg_same).trans (ringIndex_toNat h), ringHead_congr (reg_setReg_ne (by omega))⟩

theorem lt_ringSize_of_producerOk {s : State} {k : RingKind} {n i : Nat} (h : producerOk s k n i = true) : i < ringSize s k n := by
  simp only [producerOk, Bool.and_eq_true, decide_eq_true_eq] at h
  exact h.1.2

theorem lt_ringSize_of_consumerOk {s : State} {k : RingKind} {n i : Nat} (h : consumerOk s k n i = true) : i < ringSize s k n := by
  simp only [consumerOk, Bool.and_eq_true, decide_eq_true_eq] at h
  exact h.1

/-- A doorbell that its ring refuses sets ERR.DOORBELL, with its source, and changes nothing of the host interface. -/
theorem doorbell_refused (s : State) :
    regBit (hifErr s 2) (aHif 8) 2 = true ∧ 0x161 ∈ (hifErr s 2).crier.pend ∧ (hifErr s 2).hif = s.hif :=
  ⟨regBit_hifErr s (by decide), mem_pend_hifErr s 2,
    Only.hifErr (fr := [.regs, .owed, .crier, .flt]) s 2 (Only.refl s) (by decide) (by decide) (by decide) (by decide)
      .hif (by decide)⟩

/-- The state after a doorbell that a CR admits: TAIL moved, and the new entries visible by it. -/
def crMoved (s : State) (r index : Nat) : State :=
  let new := (List.range ((index + ringSize s .cr r - ringTail s .cr r) % ringSize s .cr r)).map fun i =>
    (r, (ringTail s .cr r + i) % ringSize s .cr r, s.hif.bellSeq + 1)
  { setReg s (ringBase .cr r + 0x10) (BitVec.ofNat 32 index) with
    hif := { s.hif with bellSeq := s.hif.bellSeq + 1, visible := s.hif.visible ++ new } }

theorem crBell_eq {s : State} {r index : Nat} (hp : s.hif.perst = false) :
    crBell r index s = if producerOk s .cr r index then crMoved s r index else hifErr s 2 := by
  rw [crBell, hp]
  rfl

theorem rxBell_eq {s : State} {n index : Nat} (hp : s.hif.perst = false) :
    rxBell n index s
      = if producerOk s .rx n index then setReg s (ringBase .rx n + 0x10) (BitVec.ofNat 32 index) else hifErr s 2 := by
  rw [rxBell, hp]
  rfl

section Consumer

variable {s : State} {k : RingKind} {n index : Nat}

theorem consumerBell_admitted (hp : s.hif.perst = false) (hn : n < ringCount k) (he : ringEn s k n = true)
    (ho : consumerOk s k n index = true) :
    consumerBell s k n index = setReg s (ringBase k n + 0xC) (BitVec.ofNat 32 index) := by
  simp [consumerBell, hp, hn, he, ho]

theorem consumerBell_refused (hp : s.hif.perst = false) (h : ringEn s k n = false ∨ consumerOk s k n index = false) :
    consumerBell s k n index = hifErr s 2 := by
  rcases h with h | h <;> simp [consumerBell, hp, h]

end Consumer

/-- R80: a doorbell that a CR admits. -/
theorem execCrDoorbell_moves {r index : Nat} {s : State} (hp : s.hif.perst = false) (ho : producerOk s .cr r index = true) :
    Completes (.crDoorbell r index) s fun t => ringTail t .cr r = index ∧ ringHead t .cr r = ringHead s .cr r
      ∧ t.hif.visible.length = s.hif.visible.length + (index + ringSize s .cr r - ringTail s .cr r) % ringSize s .cr r := by
  have hexec : exec (.crDoorbell r index) s = .next (crMoved s r index) := by
    change Host.Outcome.next (crBell r index s) = _
    rw [crBell_eq hp, if_pos ho]
  obtain ⟨htail, hhead⟩ := ringIndexes_setTail (lt_ringSize_of_producerOk ho)
  exact ⟨_, hexec, htail, hhead, by simp [crMoved]⟩

theorem execCrDoorbell_refuses {r index : Nat} {s : State} (hp : s.hif.perst = false) (ho : producerOk s .cr r index = false) :
    Completes (.crDoorbell r index) s fun t => regBit t (aHif 8) 2 = true ∧ 0x161 ∈ t.crier.pend ∧ t.hif = s.hif := by
  refine ⟨hifErr s 2, ?_, doorbell_refused s⟩
  change Host.Outcome.next (crBell r index s) = _
  rw [crBell_eq hp, ho, if_neg Bool.false_ne_true]

/-- R80, R93: a doorbell that an RX ring admits. -/
theorem execRxDoorbell_moves {n index : Nat} {s : State} (hp : s.hif.perst = false) (ho : producerOk s .rx n index = true) :
    Completes (.rxDoorbell n index) s fun t => ringTail t .rx n = index ∧ ringHead t .rx n = ringHead s .rx n := by
  refine ⟨_, ?_, ringIndexes_setTail (lt_ringSize_of_producerOk ho)⟩
  change Host.Outcome.next (rxBell n index s) = _
  rw [rxBell_eq hp, if_pos ho]

theorem execRxDoorbell_refuses {n index : Nat} {s : State} (hp : s.hif.perst = false) (ho : producerOk s .rx n index = false) :
    Completes (.rxDoorbell n index) s fun t => regBit t (aHif 8) 2 = true ∧ 0x161 ∈ t.crier.pend ∧ t.hif = s.hif := by
  refine ⟨hifErr s 2, ?_, doorbell_refused s⟩
  change Host.Outcome.next (rxBell n index s) = _
  rw [rxBell_eq hp, ho, if_neg Bool.false_ne_true]

-- Writes of CFG (R81, R82, Table HIF-7).

theorem reg_ringCfgWrite_ne {s : State} {k : RingKind} {n a : Nat} {cfg : Word} (h : a ≠ ringBase k n + 8) :
    reg (ringCfgWrite s k n cfg) a = reg s a := by
  unfold ringCfgWrite
  split
  · exact reg_setReg_ne h
  · rfl

theorem ringCfgWrite_hif (s : State) (k : RingKind) (n : Nat) (cfg : Word) : (ringCfgWrite s k n cfg).hif = s.hif :=
  Only.ringCfgWrite (fr := [.regs]) s k n cfg (Only.refl s) (by decide) .hif (by decide)

theorem reg_forgetVisible (s : State) (k : RingKind) (n a : Nat) : reg (forgetVisible s k n) a = reg s a := by
  cases k <;> rfl

theorem reg_raiseLimited_host (s : State) (id ns : Nat) {a : Nat} (h : a < 0x200000) :
    reg (raiseLimited s id ns) a = reg s a := by
  unfold raiseLimited
  split
  · exact reg_raise_host _ _ h
  · rfl

/-- The reports discarded with an NQ count in a register of another block. -/
theorem reg_dropReports_host (s : State) (k : RingKind) (n : Nat) {a : Nat} (h : a < 0x200000) :
    reg (dropReports s k n) a = reg s a := by
  unfold dropReports
  dsimp only
  split
  · rfl
  · rw [reg_raiseLimited_host _ _ _ h, add64, setReg64, reg_setReg_ne (by simp only [aTim]; omega),
      reg_setReg_ne (by simp only [aTim]; omega)]
    rfl

/-- No report waits for a ring other than an NQ. -/
theorem dropReports_of_ne_nq {k : RingKind} (h : k ≠ .nq) (s : State) (n : Nat) : dropReports s k n = s := by
  have hk : (k == RingKind.nq) = false := beq_eq_false_iff_ne.mpr h
  have hnone : s.hif.notifs.filter (fun x => k == .nq && x.1 == n && x.2.kind == 1) = [] :=
    List.filter_eq_nil_iff.mpr (by simp [hk])
  simp only [dropReports, hnone, List.isEmpty_nil, if_true]

/-- A ring whose EN was 0 starts: its visible entries forgotten, EN = 1 with ERR = 0, HEAD and TAIL zero. -/
def ringStarted (s : State) (k : RingKind) (n : Nat) (cfg : Word) : State :=
  setReg (setReg (setF (forgetVisible (ringCfgWrite s k n cfg) k n) (ringBase k n + 8) 31 30 2) (ringBase k n + 0xC) 0)
    (ringBase k n + 0x10) 0

section Config

variable {s : State} {k : RingKind} {n : Nat} {cfg : Word} (hp : s.hif.perst = false) (hn : n < ringCount k)

include hp hn

/-- Beside that the PHASE of a CQ or NQ starts its first pass, which is in no register. -/
theorem exec_ringEnable_start (he : ringEn s k n = false) :
    ∃ t, exec (.ringEnable k n cfg) s = .next t ∧ t.regs = (ringStarted s k n cfg).regs := by
  change ∃ t, execRingEnable k n cfg s = .next t ∧ _
  rw [execRingEnable, hp, decide_ringCount_le hn, he]
  cases k <;> exact ⟨_, rfl, rfl⟩

/-- R81: EN from 0 to 1. -/
theorem execRingEnable_starts (he : ringEn s k n = false) :
    Completes (.ringEnable k n cfg) s fun t => ringEn t k n = true ∧ regBit t (ringBase k n + 8) 30 = false
      ∧ ringHead t k n = 0 ∧ ringTail t k n = 0 := by
  obtain ⟨t, hexec, hregs⟩ := exec_ringEnable_start (cfg := cfg) hp hn he
  have ht : ∀ a, reg t a = reg (ringStarted s k n cfg) a := fun a => congrArg (mapGet (resetWord a) · a) hregs
  have hcfg : reg t (ringBase k n + 8) = fset (reg (ringCfgWrite s k n cfg) (ringBase k n + 8)) 31 30 2 := by
    rw [ht, ringStarted, reg_setReg_ne (by omega), reg_setReg_ne (by omega), reg_setF_same, reg_forgetVisible]
  have hhead : reg t (ringBase k n + 0xC) = 0 := by
    rw [ht, ringStarted, reg_setReg_ne (by omega), reg_setReg_same]
  have htail : reg t (ringBase k n + 0x10) = 0 := by
    rw [ht, ringStarted, reg_setReg_same]
  refine ⟨t, hexec, ?_, ?_, congrArg BitVec.toNat hhead, congrArg BitVec.toNat htail⟩
  · rw [ringEn, regBit, hcfg, getLsbD_fset]
    rfl
  · rw [regBit, hcfg, getLsbD_fset]
    rfl

/-- R81: CFG of an enabled ring. -/
theorem execRingEnable_enabled (he : ringEn s k n = true) :
    Completes (.ringEnable k n cfg) s fun t => ringHead t k n = ringHead s k n ∧ ringTail t k n = ringTail s k n := by
  have hexec : exec (.ringEnable k n cfg) s = .next (ringCfgWrite s k n cfg) := by
    change execRingEnable k n cfg s = _
    rw [execRingEnable, hp, decide_ringCount_le hn, he]
    rfl
  exact ⟨_, hexec, ringHead_congr (reg_ringCfgWrite_ne (by omega)), ringTail_congr (reg_ringCfgWrite_ne (by omega))⟩

/-- R82: EN cleared. -/
theorem execRingDisable_stops :
    Completes (.ringDisable k n cfg) s fun t => ringEn t k n = false
      ∧ (k = .cr → ringIdle t k n = !s.hif.outstanding.any (·.cmd.cr == n))
      ∧ (k = .cr → ∀ x ∈ t.hif.visible, x.1 ≠ n) := by
  have hexec : exec (.ringDisable k n cfg) s
      = .next (dropReports (forgetVisible (setBit (ringCfgWrite s k n cfg) (ringBase k n + 8) 31 false) k n) k n) := by
    change execRingDisable k n cfg s = _
    rw [execRingDisable, hp, decide_ringCount_le hn]
    rfl
  have hen : ringEn (dropReports (forgetVisible (setBit (ringCfgWrite s k n cfg) (ringBase k n + 8) 31 false) k n) k n) k n
      = false := by
    rw [ringEn, regBit, reg_dropReports_host _ _ _ (ringReg_lt hn (by decide)), reg_forgetVisible]
    exact regBit_setBit_same (by decide)
  refine ⟨_, hexec, hen, ?_, ?_⟩
  · rintro rfl
    rw [ringIdle, hen, dropReports_of_ne_nq (by decide)]
    simp [forgetVisible, ringCfgWrite_hif, List.any_map, Function.comp_def]
  · rintro rfl
    rw [dropReports_of_ne_nq (by decide)]
    simp [forgetVisible]

/-- Table HIF-7: a DMA error stops an enabled ring. -/
theorem execRingDmaError_stops (he : ringEn s k n = true) :
    Completes (.ringDmaError k n) s fun t =>
      ringEn t k n = false ∧ regBit t (ringBase k n + 8) 30 = true ∧ 0x161 ∈ t.crier.pend := by
  have hexec : exec (.ringDmaError k n) s = .next (ringStop s k n) := by
    change execRingDmaError k n s = _
    rw [execRingDmaError, hp, decide_ringCount_le hn, he]
    rfl
  have hcfg : reg (ringStop s k n) (ringBase k n + 8) = fset (reg s (ringBase k n + 8)) 31 30 1 := by
    rw [ringStop, reg_raise_host _ _ (ringReg_lt hn (by decide)), reg_dropReports_host _ _ _ (ringReg_lt hn (by decide)),
      reg_forgetVisible, reg_setF_same]
  refine ⟨_, hexec, ?_, ?_, mem_raise _ _⟩
  · rw [ringEn, regBit, hcfg, getLsbD_fset]
    rfl
  · rw [regBit, hcfg, getLsbD_fset]
    rfl

end Config

/-- Settles O21: each clause is the rule of its command, whether or not the state meets the invariant. -/
theorem ringsComplete : Obligations.RingsComplete := by
  unfold Obligations.RingsComplete
  refine ⟨fun _ _ _ _ hp ho => execCrDoorbell_moves hp ho, fun _ _ _ _ hp ho => execCrDoorbell_refuses hp ho, ?_, ?_,
    fun _ _ _ _ hp ho => execRxDoorbell_moves hp ho, fun _ _ _ _ hp ho => execRxDoorbell_refuses hp ho, ?_, ?_,
    fun _ _ _ _ _ hp hn he => execRingEnable_starts hp hn he, fun _ _ _ _ _ hp hn he => execRingEnable_enabled hp hn he,
    fun _ _ _ _ _ hp hn => execRingDisable_stops hp hn, fun _ _ _ _ hp hn he => execRingDmaError_stops hp hn he⟩
  · intro r index s _ hp hr he ho
    exact ⟨_, congrArg Host.Outcome.next (consumerBell_admitted hp hr he ho), ringIndexes_setHead (lt_ringSize_of_consumerOk ho)⟩
  · intro r index s _ hp h
    exact ⟨_, congrArg Host.Outcome.next (consumerBell_refused hp h), doorbell_refused s⟩
  · intro n index s _ hp hn he ho
    exact ⟨_, congrArg Host.Outcome.next (consumerBell_admitted hp hn he ho), ringIndexes_setHead (lt_ringSize_of_consumerOk ho)⟩
  · intro n index s _ hp h
    exact ⟨_, congrArg Host.Outcome.next (consumerBell_refused hp h), doorbell_refused s⟩

end Sys2Proof.Proofs
end

section
/-!
Proofs of the statements on the host interface: the clause on the writing of completions also speaks of rings that the part does not
have, and there the orphan log stands where such a ring would have its TAIL.
-/
namespace Sys2Proof.Proofs

open Sys2Proof Sys2Proof.Machine Sys2Proof.Laws

/-- A command of a reserved opcode from before the last PERST_N reset: its end is recorded in the orphan log (R98). -/
def staleCmd : HostCmd :=
  { bell := 0, cr := 0, index := 0, opcode := 0xFF, notify := false, ordered := false, tag := 7, dataLen := 0, hostAddr := 0,
    arg := [], data := [] }

/-- The completion of a NOP of another ring. -/
def nopCompletion : Completion :=
  { bell := 1, cr := 1, index := 0, opcode := 1, status := stOk, tag := 0, result := [], ts32 := 0, notify := false }

/-- The number of a completion ring, far above the 16 of Table HIF-5, whose CFG would be entry 1 of the orphan log and whose TAIL would
be entry 2. -/
def ringInLog : Nat := 0x170

theorem ringTail_ringInLog (s : State) : ringTail s .cq ringInLog = (reg s (aHif (0x4000 + 8 * 2))).toNat := rfl

/-- The orphan log holds two entries, of which one reads as the CFG of an enabled ring of 64 entries. A completion waits for that ring,
and a stale command may start. -/
def logAsRing : State :=
  { State.reset with
    regs := [(aHif 0x3000, 2#32), (aHif 0x4008, 0x80000600#32)]
    hif := { Hif.reset with
      perst := false
      outstanding := [{ cmd := staleCmd, phase := .fetched, covers := [], since := 0 }]
      completions := [(ringInLog, nopCompletion)] } }

theorem inv_logAsRing : Inv logAsRing := by
  refine ⟨by decide, rfl, ?_⟩
  intro j hj
  cases hj

/-- The completion has been written at TAIL, which has advanced to 1, and no longer waits. -/
def tailAdvanced : State :=
  tailStep { hostWrite logAsRing (ringAddr logAsRing .cq ringInLog 0 32) (completionOctets nopCompletion true) with
    hif := { logAsRing.hif with completions := [] } } .cq ringInLog ringInLog

/-- COMPLETION_WRITE goes on to refuse the command of a reserved opcode, which ends as one that a PERST_N reset left. -/
theorem exec_completionWrite_logAsRing :
    exec (.completionWrite ringInLog) logAsRing = .next (orphanCmd tailAdvanced staleCmd stBadArg) := rfl

/-- Its record is entry 2 of the log: TAG 7 with OPCODE 0xFF. -/
theorem reg_orphanCmd_tailAdvanced : reg (orphanCmd tailAdvanced staleCmd stBadArg) (aHif (0x4000 + 8 * 2)) = 0xFF0007#32 := by
  have hcount : regF (dropCmd tailAdvanced (cmdKey staleCmd)) (aHif 0x3000) 10 0 = 2 := by decide
  obtain ⟨-, hentry, -⟩ := settleDone_orphan_of_room (o := { tag := 7, opcode := 0xFF, cr := 0, status := stBadArg }) hcount
    (by decide)
  exact hentry

/-- Refutes O22: its clause on COMPLETION_WRITE bounds the number of the ring nowhere, nor rules out a command from before the last
PERST_N reset among those outstanding. From `logAsRing` such a command is recorded where ring 0x170 would have its TAIL, which then does not
read 1. -/
theorem not_commandFlowComplete : ¬ Obligations.CommandFlowComplete := by
  unfold Obligations.CommandFlowComplete
  rintro ⟨-, hwrite, -⟩
  obtain ⟨t, hexec, -, htail, -⟩ :=
    hwrite ringInLog nopCompletion [] logAsRing inv_logAsRing rfl (by decide) (by decide) rfl
  obtain rfl : orphanCmd tailAdvanced staleCmd stBadArg = t :=
    Host.Outcome.next.inj (exec_completionWrite_logAsRing.symm.trans hexec)
  have hone : (ringTail logAsRing .cq ringInLog + 1) % ringSize logAsRing .cq ringInLog = 1 := by decide
  rw [ringTail_ringInLog, reg_orphanCmd_tailAdvanced, hone] at htail
  exact absurd htail (by decide)

end Sys2Proof.Proofs
end

section
/-!
Proofs of the statements on programs and versions: the status register of a version domain (Table PRG-5), what writes it and what leaves
it alone, and the groups of commits that wait.
-/
namespace Sys2Proof.Proofs

open Sys2Proof Sys2Proof.Machine Sys2Proof.Laws

-- The status register of a domain (Table PRG-5).

/-- ING_STATUS or EGR_STATUS. -/
def domStatus (s : State) (d : Dom) : Word := reg s (aDom d 0)

theorem aDom_status_ne {d e : Dom} (h : e ≠ d) : aDom e 0 ≠ aDom d 0 := by
  cases d <;> cases e <;> simp_all [aDom, aPrg, domIdx]

/-- The status registers lie apart from the instants that the domains show, ING_T and EGR_T. -/
theorem aDom_status_ne_instant (d e : Dom) : aDom e 0 ≠ aDom d 8 ∧ aDom e 0 ≠ aDom d 8 + 4 := by
  cases d <;> cases e <;> simp [aDom, aPrg, domIdx]

/-- They lie in the PRG block, above those of the host island and of the faults. -/
theorem le_aDom_status (d : Dom) : 0xC00000 ≤ aDom d 0 := by
  simp only [aDom, aPrg]
  omega

theorem domStatus_congr {s t : State} (h : t.regs = s.regs) (d : Dom) : domStatus t d = domStatus s d := by
  rw [domStatus, reg, h]
  rfl

/-- A field of one status register written. -/
theorem domStatus_setF (s : State) (d : Dom) (hi lo v : Nat) (e : Dom) :
    domStatus (setF s (aDom d 0) hi lo v) e = if e = d then fset (domStatus s e) hi lo v else domStatus s e := by
  split
  next h => rw [h]; exact reg_setF_same
  next h => exact reg_setF_ne (aDom_status_ne h)

theorem domStatus_setBit (s : State) (d : Dom) (i : Nat) (b : Bool) (e : Dom) :
    domStatus (setBit s (aDom d 0) i b) e = if e = d then fset (domStatus s e) i i (b2n b) else domStatus s e :=
  domStatus_setF s d i i (b2n b) e

theorem domStatus_setDomT (s : State) (d : Dom) (t : Nat) (e : Dom) : domStatus (setDomT s d t) e = domStatus s e := by
  obtain ⟨hlow, hhigh⟩ := aDom_status_ne_instant d e
  rw [domStatus, setDomT, setReg64, reg_setReg_ne hhigh, reg_setReg_ne hlow]
  rfl

/-- A raised source writes registers of FLT alone. -/
theorem domStatus_raise (s : State) {id : Nat} (h : id < 4096) (d : Dom) : domStatus (raise s id) d = domStatus s d := by
  have hd := le_aDom_status d
  refine reg_raise_ne ?_ ?_ ?_ ?_ <;> simp only [aEsc, aFlt] <;> omega

theorem domStatus_settleDone (s : State) (d : Dom) : domStatus (settleDone s) d = domStatus s d := by
  have hd := le_aDom_status d
  unfold settleDone
  split
  · rw [domStatus_raise _ (by decide)]
    exact reg_setBit_ne (by simp only [aHif]; omega)
  · rfl

/-- The orphan log and its control register lie below. -/
theorem domStatus_orphan (s : State) (o : Orphan) (d : Dom) : domStatus (orphan s o) d = domStatus s d := by
  have hd := le_aDom_status d
  unfold orphan
  dsimp only
  generalize regF s (aHif 0x3000) 10 0 = n
  split
  · refine (reg_setF_ne ?_).trans ((reg_setReg_ne ?_).trans (reg_setReg_ne ?_)) <;> simp only [aHif] <;> omega
  · exact reg_setBit_ne (by simp only [aHif]; omega)

theorem domStatus_complete (s : State) (c : HostCmd) (status : Nat) (result : List Byte) (d : Dom) :
    domStatus (complete s c status result) d = domStatus s d := by
  unfold complete
  split
  · rw [orphanCmd, domStatus_settleDone, domStatus_orphan]
    exact domStatus_congr rfl d
  · rfl

/-- The registers of a command that completes after the last PERST_N reset are left alone. -/
theorem complete_regs {s : State} {c : HostCmd} (h : s.hif.oldBell < c.bell) (status : Nat) (result : List Byte) :
    (complete s c status result).regs = s.regs := by
  rw [complete, if_neg (by omega)]
  rfl

/-- A pending source stays pending when a command completes. -/
theorem mem_complete_of_mem {s : State} {x : Nat} (h : x ∈ s.crier.pend) (c : HostCmd) (status : Nat) (result : List Byte) :
    x ∈ (complete s c status result).crier.pend := by
  have horphan : ∀ (u : State) (o : Orphan), (orphan u o).crier = u.crier := fun u o =>
    Only.orphan (fr := [.regs]) u o (Only.refl u) (by decide) .crier (by decide)
  unfold complete
  split
  · unfold orphanCmd settleDone
    split
    · exact mem_raise_of_mem (by rwa [setBit_crier, horphan])
    · rwa [horphan]
  · exact h

-- An operation carried out for each of several domains.

/-- What the operation keeps is kept. -/
theorem forEach_keeps {α : Type} {P : State → Prop} {f : State → α → State} (hf : ∀ s x, P s → P (f s x)) (l : List α) {s : State}
    (h : P s) : P (forEach l f s) :=
  List.foldlRecOn l f h fun s hs x _ => hf s x hs

/-- What the operation brings about for one of them, and keeps for the others, holds in the end. -/
theorem forEach_brings {α : Type} {P : State → Prop} {f : State → α → State} {x : α} (hx : ∀ s, P (f s x))
    (hf : ∀ s y, P s → P (f s y)) {l : List α} (h : x ∈ l) (s : State) : P (forEach l f s) := by
  induction l generalizing s with
  | nil => cases h
  | cons y l ih =>
    rcases List.mem_cons.mp h with rfl | hl
    · exact forEach_keeps hf l (hx s)
    · exact ih hl (f s y)

theorem forEach_prg {α : Type} {f : State → α → State} (hf : ∀ s x, (f s x).prg = s.prg) (l : List α) (s : State) :
    (forEach l f s).prg = s.prg :=
  forEach_keeps (P := fun u => u.prg = s.prg) (fun u x hu => (hf u x).trans hu) l rfl

/-- Where it changes its own domain's status alone, each domain's status is changed once. -/
theorem domStatus_forEach {f : State → Dom → State} {g : Word → Word}
    (hf : ∀ s d e, domStatus (f s d) e = if e = d then g (domStatus s e) else domStatus s e) {l : List Dom} (hl : l.Nodup)
    (s : State) (e : Dom) : domStatus (forEach l f s) e = if e ∈ l then g (domStatus s e) else domStatus s e := by
  induction l generalizing s with
  | nil => rfl
  | cons d l ih =>
    obtain ⟨hd, hl⟩ := List.nodup_cons.mp hl
    change domStatus (forEach l f (f s d)) e = _
    rw [ih hl, hf]
    by_cases he : e = d
    · simp [he, hd]
    · simp [he]

end Sys2Proof.Proofs
end

section
/-!
Proofs of the statements on programs and versions: staging, and the commands that make and cancel commits.
-/
namespace Sys2Proof.Proofs

open Sys2Proof Sys2Proof.Machine Sys2Proof.Laws

/-- A command that completes at once in a state with the same host interface reports its status. -/
theorem reports_complete {s u : State} {c : HostCmd} {row : CmdRow} (h : Ready s c row) (hu : u.hif = s.hif) (status : Nat)
    (result : List Byte) : Reports c status (complete u c status result) :=
  reports_of_answers (answers_complete (by rw [hu]; exact h.1) status result)

-- STAGE_WRITE (R112).

/-- The bank to be staged takes the octets. -/
theorem doStageWrite_accepted {c : HostCmd} {s : State} (ha : stageArgsOk c = true)
    (ho : stageOpen s (spaceDom (argN c 0 1) (argN c 1 1)) = true) :
    ∃ x : Pipes, doStageWrite c s = complete { s with
      prog := putBytes s.prog (progKey (stagedBank s (spaceDom (argN c 0 1) (argN c 1 1))) (argN c 0 1) (argN c 1 1)
        (argN c 2 1) (argN c 4 4)) (sliceZ c.data 0 c.dataLen)
      pipes := x } c stOk := by
  rw [doStageWrite]
  dsimp only
  rw [ha, ho]
  exact ⟨_, rfl⟩

theorem doStageWrite_refused {c : HostCmd} {s : State}
    (h : stageArgsOk c = false ∨ stageOpen s (spaceDom (argN c 0 1) (argN c 1 1)) = false) :
    doStageWrite c s = complete s c (if stageArgsOk c then stVersionBusy else stBadArg) := by
  cases ha : stageArgsOk c with
  | false => simp [doStageWrite, ha]
  | true => simp [doStageWrite, ha, h.resolve_left (by simp [ha])]

theorem exec_stageWrite_ready {c : HostCmd} {s : State} (hr : Ready s c .stageWrite) :
    exec (.stageWrite c) s = .next (doStageWrite c s) :=
  congrArg Host.Outcome.next (runCmd_ready hr _)

/-- R112: STAGE_WRITE to a domain open for staging. -/
theorem execStageWrite_stores {cmd : HostCmd} {s : State} (hr : Ready s cmd .stageWrite) (ha : stageArgsOk cmd = true)
    (ho : stageOpen s (spaceDom (argN cmd 0 1) (argN cmd 1 1)) = true) :
    Completes (.stageWrite cmd) s fun t => Reports cmd stOk t
      ∧ t.prog = putBytes s.prog (progKey (stagedBank s (spaceDom (argN cmd 0 1) (argN cmd 1 1))) (argN cmd 0 1) (argN cmd 1 1)
          (argN cmd 2 1) (argN cmd 4 4)) (sliceZ cmd.data 0 cmd.dataLen) := by
  obtain ⟨x, hx⟩ := doStageWrite_accepted ha ho
  refine ⟨_, exec_stageWrite_ready hr, ?_⟩
  dsimp only
  rw [hx, complete_prog]
  refine ⟨reports_complete hr ?_ _ _, rfl⟩
  rfl

/-- R112: STAGE_WRITE refused. -/
theorem execStageWrite_refuses {cmd : HostCmd} {s : State} (hr : Ready s cmd .stageWrite)
    (h : stageArgsOk cmd = false ∨ stageOpen s (spaceDom (argN cmd 0 1) (argN cmd 1 1)) = false) :
    Completes (.stageWrite cmd) s fun t => t.prog = s.prog
      ∧ Reports cmd (if stageArgsOk cmd then stVersionBusy else stBadArg) t := by
  refine ⟨_, exec_stageWrite_ready hr, ?_⟩
  dsimp only
  rw [doStageWrite_refused h, complete_prog]
  exact ⟨rfl, reports_complete hr rfl _ _⟩

-- The forms of the commit commands (Table HIF-10, R119).

theorem opcode_of_commit {c : HostCmd} (h : rowOf c = some .commit) : c.opcode = 0x21 := by
  unfold rowOf at h
  split at h <;> grind

theorem opcode_of_commitAt {c : HostCmd} (h : rowOf c = some .commitAt) : c.opcode = 0x22 ∧ cancelBit c = false := by
  unfold rowOf at h
  split at h <;> grind [cancelBit]

theorem opcode_of_commitToken {c : HostCmd} (h : rowOf c = some .commitToken) : c.opcode = 0x23 ∧ cancelBit c = false := by
  unfold rowOf at h
  split at h <;> grind [cancelBit]

theorem cancelBit_of_commitCancel {c : HostCmd} (h : rowOf c = some .commitCancel) : cancelBit c = true := by
  unfold rowOf at h
  split at h <;> grind [cancelBit]

end Sys2Proof.Proofs
end

section
/-!
Proofs of the statements on programs and versions: accepted commits and cancels (R116 to R120).
-/
namespace Sys2Proof.Proofs

open Sys2Proof Sys2Proof.Machine Sys2Proof.Laws

-- The groups of commits that wait.

theorem grpOf_congr {s t : State} (h : t.prg.groups = s.prg.groups) (d : Dom) : grpOf t d = grpOf s d := by
  rw [grpOf, h]
  rfl

/-- R117 looks at the previous commit instants of the domains. -/
theorem deferT_congr {s t : State} (h : ∀ d, getDom t d = getDom s d) (doms : List Dom) (n : Nat) :
    deferT t doms n = deferT s doms n := by
  simp only [deferT, h]

/-- The group as R117 gives it its instant. -/
def withInstant (g : CommitGrp) (s : State) (n : Nat) : CommitGrp :=
  { g with t := some (deferT s g.doms n), deferred := decide (deferT s g.doms n ≠ n) }

/-- A domain's status as its commit becomes PENDING, DEFERRED where its instant was moved. -/
def pendingStatus (moved : Bool) (w : Word) : Word := fset (fset w 6 6 (b2n (moved || w.getLsbD 6))) 4 3 1

theorem placeGrp_prg (s : State) (g : CommitGrp) (n : Nat) :
    (placeGrp s g n).prg = { s.prg with groups := s.prg.groups.map fun x => if x = g then withInstant g s n else x } := by
  rw [placeGrp, whenB]
  dsimp only
  split
  · rw [raise_prg]
    exact forEach_prg (fun _ _ => by rfl) _ _
  · exact forEach_prg (fun _ _ => by rfl) _ _

theorem commitEvent_regs (s : State) (g : CommitGrp) (vers : Dom → Nat) (passed : Bool) :
    (commitEvent s g vers passed).regs = s.regs := rfl

theorem commitEvent_groups (s : State) (g : CommitGrp) (vers : Dom → Nat) (passed : Bool) :
    (commitEvent s g vers passed).prg.groups = s.prg.groups := rfl

/-- A COMMIT that has been recorded and started leaves the completions, the registers and the groups. -/
theorem commitStarted_same (s : State) (g : CommitGrp) (vers : Dom → Nat) (c : HostCmd) :
    (setPhase (commitEvent s g vers false) c .started).hif.completions = s.hif.completions
      ∧ (setPhase (commitEvent s g vers false) c .started).regs = s.regs
      ∧ (setPhase (commitEvent s g vers false) c .started).prg.groups = s.prg.groups := ⟨rfl, rfl, rfl⟩

theorem grpOf_placeGrp {s : State} {g : CommitGrp} {d : Dom} (h : grpOf s d = some g) (n : Nat) :
    grpOf (placeGrp s g n) d = some (withInstant g s n) := by
  have hdoms : (fun x : CommitGrp => x.doms.contains d) ∘ (fun x => if x = g then withInstant g s n else x)
      = fun x => x.doms.contains d := by
    funext x
    by_cases hx : x = g <;> simp [hx, withInstant]
  unfold grpOf at h ⊢
  rw [placeGrp_prg, List.find?_map, hdoms, h]
  simp

theorem domStatus_placeGrp (s : State) {g : CommitGrp} (hg : g.doms.Nodup) (n : Nat) (d : Dom) :
    domStatus (placeGrp s g n) d
      = if d ∈ g.doms then pendingStatus (decide (deferT s g.doms n ≠ n)) (domStatus s d) else domStatus s d := by
  have hraise : ∀ (b : Bool) (u : State), domStatus (whenB b (raise · 0x204) u) d = domStatus u d := by
    intro b u
    cases b
    · rfl
    · exact domStatus_raise u (by decide) d
  rw [placeGrp]
  dsimp only
  rw [hraise, domStatus_forEach (g := pendingStatus (decide (deferT s g.doms n ≠ n))) _ hg]
  · rfl
  · intro u e x
    rw [domStatus_setDomT, domStatus_setF, domStatus_setBit]
    split
    next h => rw [h]; rfl
    next => rfl

-- A commit is accepted (R117, R118, R120).

/-- The group that a commit command forms. -/
def newGrp (c : HostCmd) : CommitGrp :=
  { doms := namedDoms c, t := none, token := if c.opcode == 0x23 then some (argN c 8 4) else none, byCommit := c.opcode == 0x21,
    cmd := c, deferred := false }

/-- The group waits, and staging of its domains is closed. -/
def closedFor (c : HostCmd) (s : State) : State :=
  forEach (namedDoms c) (fun s d => setBit s (aDom d 0) 0 false)
    { s with prg := { s.prg with groups := s.prg.groups ++ [newGrp c] } }

theorem nodup_namedDoms (c : HostCmd) : (namedDoms c).Nodup := by
  unfold namedDoms
  split <;> split <;> decide

theorem closedFor_prg (c : HostCmd) (s : State) :
    (closedFor c s).prg = { s.prg with groups := s.prg.groups ++ [newGrp c] } :=
  forEach_prg (fun _ _ => by rfl) _ _

theorem getDom_closedFor (c : HostCmd) (s : State) (d : Dom) : getDom (closedFor c s) d = getDom s d := by
  cases d <;> simp only [getDom, closedFor_prg]

theorem closedFor_hif (c : HostCmd) (s : State) : (closedFor c s).hif = s.hif := forEach_hif (fun _ _ => by rfl) _ _

theorem closedFor_clock (c : HostCmd) (s : State) : (closedFor c s).clock = s.clock :=
  forEach_keeps (P := fun u => u.clock = s.clock) (fun _ _ hu => by exact hu) _ rfl

theorem domStatus_closedFor (c : HostCmd) (s : State) (d : Dom) :
    domStatus (closedFor c s) d = if d ∈ namedDoms c then fset (domStatus s d) 0 0 0 else domStatus s d :=
  domStatus_forEach (g := fun w => fset w 0 0 0) (fun u d e => domStatus_setBit u d 0 false e) (nodup_namedDoms c) _ d

/-- A domain that no group holds is in the new one. -/
theorem grpOf_closedFor {c : HostCmd} {s : State} {d : Dom} (hd : d ∈ namedDoms c) (h : grpOf s d = none) :
    grpOf (closedFor c s) d = some (newGrp c) := by
  unfold grpOf at h ⊢
  rw [closedFor_prg, List.find?_append, h]
  simp [newGrp, hd]

/-- The accepted commit has been given the instant `n`, or a later one by R117. -/
def placedFor (c : HostCmd) (s : State) (n : Nat) : State := placeGrp (closedFor c s) (newGrp c) n

theorem placedFor_hif (c : HostCmd) (s : State) (n : Nat) : (placedFor c s n).hif = s.hif :=
  (Only.placeGrp (fr := [.regs, .owed, .prg, .crier, .flt]) _ _ _ (Only.refl _) (by decide) (by decide) (by decide) (by decide)
    (by decide) .hif (by decide)).trans (closedFor_hif c s)

/-- With the status registers and the groups of that state the domain is closed for staging and PENDING, in a group that waits for its
instant. -/
theorem waits_of_placedFor {c : HostCmd} {s t : State} {n : Nat} (hregs : ∀ d, domStatus t d = domStatus (placedFor c s n) d)
    (hgroups : t.prg.groups = (placedFor c s n).prg.groups) {d : Dom} (hd : d ∈ namedDoms c) (h : grpOf s d = none) :
    stageOpen t d = false ∧ regF t (aDom d 0) 4 3 = 1
      ∧ ∃ g, grpOf t d = some g ∧ g.doms = namedDoms c ∧ g.byCommit = (c.opcode == 0x21)
        ∧ g.t = some (deferT s (namedDoms c) n) := by
  have hstatus : domStatus t d = pendingStatus (decide (deferT (closedFor c s) (namedDoms c) n ≠ n))
      (fset (domStatus s d) 0 0 0) := by
    have hplace := domStatus_placeGrp (closedFor c s) (g := newGrp c) (nodup_namedDoms c) n d
    rw [domStatus_closedFor, if_pos hd, if_pos (show d ∈ (newGrp c).doms from hd)] at hplace
    exact (hregs d).trans hplace
  have hgrp : grpOf t d = some (withInstant (newGrp c) (closedFor c s) n) :=
    (grpOf_congr hgroups d).trans (grpOf_placeGrp (grpOf_closedFor hd h) n)
  refine ⟨?_, ?_, _, hgrp, rfl, rfl, congrArg some (deferT_congr (getDom_closedFor c s) _ n)⟩
  · change (domStatus t d).getLsbD 0 = false
    rw [hstatus]
    simp only [pendingStatus, getLsbD_fset]
    rfl
  · change fget (domStatus t d) 4 3 = 1
    rw [hstatus, pendingStatus, fget_fset_same _ _ (by decide)]
    rfl

/-- COMMIT_TOKEN arms its domains. -/
def armedFor (c : HostCmd) (s : State) : State :=
  forEach (namedDoms c) (fun s d => setBit s (aDom d 0) 4 true) (commitEvent (closedFor c s) (newGrp c) (nextVer s) false)

/-- The group as it has been placed, in which the commit's RESULT and its event show the instant. -/
def placedGrp (c : HostCmd) (u : State) : CommitGrp := ((namedDoms c).head?.bind (grpOf u)).getD (newGrp c)

theorem commitAccept_eq (c : HostCmd) (s : State) :
    commitAccept c s =
      if c.opcode == 0x23 then complete (armedFor c s) c stOk (commitResult (namedDoms c) (nextVer s) none false)
      else
        let u := placedFor c s (if c.opcode == 0x21 then clkNs (closedFor c s) + 2000
          else argN c 8 6 * nsPerSec + argN c 16 4 % 2 ^ 30)
        if c.opcode == 0x21 then setPhase (commitEvent u (placedGrp c u) (nextVer s) false) c .started
        else complete (commitEvent u (placedGrp c u) (nextVer s) false) c stOk
          (commitResult (namedDoms c) (nextVer s) (placedGrp c u).t (placedGrp c u).deferred) := rfl

/-- COMMIT waits for its instant, and completes then. -/
theorem commitAccept_commit {c : HostCmd} {s : State} (h : c.opcode = 0x21) :
    ∃ g, commitAccept c s = setPhase (commitEvent (placedFor c s (clkNs s + 2000)) g (nextVer s) false) c .started := by
  have hclk : clkNs (closedFor c s) = clkNs s := by
    rw [clkNs, closedFor_clock]
    rfl
  rw [commitAccept_eq, h, hclk]
  exact ⟨_, rfl⟩

/-- COMMIT_AT completes at once. -/
theorem commitAccept_commitAt {c : HostCmd} {s : State} (h : c.opcode = 0x22) :
    ∃ g r, commitAccept c s = complete (commitEvent (placedFor c s (argN c 8 6 * nsPerSec + argN c 16 4 % 2 ^ 30)) g
      (nextVer s) false) c stOk r := by
  rw [commitAccept_eq, h]
  exact ⟨_, _, rfl⟩

theorem commitAccept_commitToken {c : HostCmd} {s : State} (h : c.opcode = 0x23) :
    commitAccept c s = complete (armedFor c s) c stOk (commitResult (namedDoms c) (nextVer s) none false) := by
  rw [commitAccept_eq, h]
  rfl

theorem armedFor_hif (c : HostCmd) (s : State) : (armedFor c s).hif = s.hif :=
  (forEach_hif (fun _ _ => by rfl) _ _).trans (closedFor_hif c s)

theorem grpOf_armedFor (c : HostCmd) (s : State) (d : Dom) : grpOf (armedFor c s) d = grpOf (closedFor c s) d :=
  grpOf_congr (congrArg Prg.groups (forEach_prg (fun _ _ => by rfl) _ _)) d

/-- The domain is closed for staging and ARMED, in a group that waits for its token. -/
theorem armedFor_waits {c : HostCmd} {s : State} {d : Dom} (hd : d ∈ namedDoms c) (h : grpOf s d = none) :
    stageOpen (armedFor c s) d = false ∧ regBit (armedFor c s) (aDom d 0) 4 = true
      ∧ grpOf (armedFor c s) d = some (newGrp c) := by
  have hstatus : domStatus (armedFor c s) d = fset (fset (domStatus s d) 0 0 0) 4 4 1 := by
    have harm := domStatus_forEach (g := fun w => fset w 4 4 1) (fun u d e => domStatus_setBit u d 4 true e)
      (nodup_namedDoms c) (commitEvent (closedFor c s) (newGrp c) (nextVer s) false) d
    have hevent : domStatus (commitEvent (closedFor c s) (newGrp c) (nextVer s) false) d = domStatus (closedFor c s) d :=
      domStatus_congr rfl d
    rwa [if_pos hd, hevent, domStatus_closedFor, if_pos hd] at harm
  refine ⟨?_, ?_, ?_⟩
  · change (domStatus (armedFor c s) d).getLsbD 0 = false
    rw [hstatus]
    simp only [getLsbD_fset]
    rfl
  · change (domStatus (armedFor c s) d).getLsbD 4 = true
    rw [hstatus, getLsbD_fset]
    rfl
  · rw [grpOf_armedFor, grpOf_closedFor hd h]

-- The checks (R116, R119).

/-- COMMIT has no cancelling form. -/
theorem cancelBit_of_commitStatus {c : HostCmd} {s : State} (ho : c.opcode = 0x21) (h : commitStatus s c = stOk) :
    cancelBit c = false := by
  cases hc : cancelBit c with
  | false => rfl
  | true =>
    simp only [commitStatus, ho, hc] at h
    grind [stOk, stNotPermitted, stBadArg]

/-- No group holds a domain of a commit that passes the checks. -/
theorem grpOf_of_commitStatus {c : HostCmd} {s : State} (hc : cancelBit c = false) (h : commitStatus s c = stOk) {d : Dom}
    (hd : d ∈ namedDoms c) : grpOf s d = none := by
  by_contra hg
  have hbusy : (namedDoms c).any (fun d => !stageOpen s d || (grpOf s d).isSome) = true :=
    List.any_eq_true.mpr ⟨d, hd, by simp [Option.isSome_iff_ne_none.mpr hg]⟩
  simp only [commitStatus, hc, hbusy] at h
  grind [stOk, stNotPermitted, stBadArg, stVersionBusy]

theorem doCommit_refused {c : HostCmd} {s : State} (h : commitStatus s c ≠ stOk) :
    doCommit c s = complete s c (commitStatus s c) := if_pos h

theorem doCommit_accepted {c : HostCmd} {s : State} (hc : cancelBit c = false) (h : commitStatus s c = stOk) :
    doCommit c s = commitAccept c s := by
  simp [doCommit, hc, h]

/-- R116: what a refused commit or cancel leaves. -/
theorem complete_refuses {s : State} {c : HostCmd} {row : CmdRow} (hr : Ready s c row) (status : Nat) :
    Reports c status (complete s c status) ∧ (complete s c status).prg = s.prg ∧ (complete s c status).regs = s.regs :=
  ⟨reports_complete hr rfl _ _, complete_prg _ _ _ _, complete_regs hr.1 _ _⟩

-- The four commands.

/-- R117, R118: COMMIT accepted. -/
theorem execCommit_waits {cmd : HostCmd} {s : State} (hr : Ready s cmd .commit) (hok : commitStatus s cmd = stOk) :
    Completes (.commit cmd) s fun t => t.hif.completions = s.hif.completions
      ∧ ∀ d ∈ namedDoms cmd, stageOpen t d = false ∧ regF t (aDom d 0) 4 3 = 1
      ∧ ∃ g, grpOf t d = some g ∧ g.doms = namedDoms cmd ∧ g.byCommit = true ∧ g.t = some (deferT s (namedDoms cmd) (clkNs s + 2000)) := by
  have hexec : exec (.commit cmd) s = .next (doCommit cmd s) := congrArg Host.Outcome.next (runCmd_ready hr _)
  have hop := opcode_of_commit hr.2.1
  have hc := cancelBit_of_commitStatus hop hok
  have hbyCommit : (cmd.opcode == 0x21) = true := by rw [hop]; rfl
  obtain ⟨g, hg⟩ := commitAccept_commit (s := s) hop
  obtain ⟨hcompletions, hregs, hgroups⟩ :=
    commitStarted_same (placedFor cmd s (clkNs s + 2000)) g (nextVer s) cmd
  refine ⟨_, hexec, ?_⟩
  dsimp only
  rw [doCommit_accepted hc hok, hg, hcompletions, placedFor_hif]
  refine ⟨rfl, fun d hd => ?_⟩
  rw [← hbyCommit]
  exact waits_of_placedFor (domStatus_congr hregs) hgroups hd (grpOf_of_commitStatus hc hok hd)

/-- R117: COMMIT_AT accepted. -/
theorem execCommitAt_waits {cmd : HostCmd} {s : State} (hr : Ready s cmd .commitAt) (hok : commitStatus s cmd = stOk) :
    Completes (.commitAt cmd) s fun t => Reports cmd stOk t ∧ ∀ d ∈ namedDoms cmd, stageOpen t d = false ∧ regF t (aDom d 0) 4 3 = 1
      ∧ ∃ g, grpOf t d = some g ∧ g.doms = namedDoms cmd
        ∧ g.t = some (deferT s (namedDoms cmd) (argN cmd 8 6 * nsPerSec + argN cmd 16 4 % 2 ^ 30)) := by
  have hexec : exec (.commitAt cmd) s = .next (doCommit cmd s) := congrArg Host.Outcome.next (runCmd_ready hr _)
  obtain ⟨hop, hc⟩ := opcode_of_commitAt hr.2.1
  obtain ⟨g, r, hg⟩ := commitAccept_commitAt (s := s) hop
  refine ⟨_, hexec, ?_⟩
  dsimp only
  rw [doCommit_accepted hc hok, hg]
  refine ⟨reports_complete hr (by exact placedFor_hif cmd s _) _ _, fun d hd => ?_⟩
  obtain ⟨hopen, hpending, g', hgrp, hdoms, -, hinstant⟩ := waits_of_placedFor
    (fun d => (domStatus_complete _ cmd stOk r d).trans (domStatus_congr (commitEvent_regs _ g (nextVer s) false) d))
    ((congrArg Prg.groups (complete_prg _ cmd stOk r)).trans (commitEvent_groups _ g (nextVer s) false)) hd (grpOf_of_commitStatus hc hok hd)
  exact ⟨hopen, hpending, g', hgrp, hdoms, hinstant⟩

/-- R120: COMMIT_TOKEN accepted. -/
theorem execCommitToken_waits {cmd : HostCmd} {s : State} (hr : Ready s cmd .commitToken) (hok : commitStatus s cmd = stOk) :
    Completes (.commitToken cmd) s fun t => Reports cmd stOk t ∧ ∀ d ∈ namedDoms cmd, stageOpen t d = false
      ∧ regBit t (aDom d 0) 4 = true ∧ ∃ g, grpOf t d = some g ∧ g.doms = namedDoms cmd ∧ g.token = some (argN cmd 8 4) ∧ g.t = none := by
  have hexec : exec (.commitToken cmd) s = .next (doCommit cmd s) := congrArg Host.Outcome.next (runCmd_ready hr _)
  obtain ⟨hop, hc⟩ := opcode_of_commitToken hr.2.1
  refine ⟨_, hexec, ?_⟩
  dsimp only
  rw [doCommit_accepted hc hok, commitAccept_commitToken hop]
  refine ⟨reports_complete hr (armedFor_hif cmd s) _ _, fun d hd => ?_⟩
  obtain ⟨hopen, harmed, hgrp⟩ := armedFor_waits hd (grpOf_of_commitStatus hc hok hd)
  have hstatus := domStatus_complete (armedFor cmd s) cmd stOk (commitResult (namedDoms cmd) (nextVer s) none false) d
  exact ⟨(congrArg (·.getLsbD 0) hstatus).trans hopen, (congrArg (·.getLsbD 4) hstatus).trans harmed, _,
    (grpOf_congr (by rw [complete_prg]) d).trans hgrp, rfl, by simp [newGrp, hop], rfl⟩

-- A cancel (R119).

/-- The domains are taken out of their groups, and staging opens. -/
def cancelledFor (c : HostCmd) (s : State) : State :=
  forEach (namedDoms c) (fun s d => openStage (showLastT (setF s (aDom d 0) 4 3 0) d) d)
    { s with prg := { s.prg with
      groups := (s.prg.groups.map fun g => { g with doms := g.doms.filter fun d => !(namedDoms c).contains d }).filter
        (!·.doms.isEmpty) } }

theorem doCommit_cancelled {c : HostCmd} {s : State} (hc : cancelBit c = true) (h : commitStatus s c = stOk)
    (hcancel : cancelStatus s c = stOk) :
    doCommit c s
      = complete (cancelledFor c s) c stOk (commitResult (namedDoms c) (nextVer (cancelledFor c s)) none false) := by
  rw [doCommit, if_neg (not_not_intro h), if_pos hc, if_neg (not_not_intro hcancel)]
  rfl

theorem cancelledFor_hif (c : HostCmd) (s : State) : (cancelledFor c s).hif = s.hif :=
  forEach_hif (fun _ _ => by rfl) _ _

theorem grpOf_cancelledFor {c : HostCmd} (s : State) {d : Dom} (hd : d ∈ namedDoms c) : grpOf (cancelledFor c s) d = none := by
  have hprg : (cancelledFor c s).prg = { s.prg with
      groups := (s.prg.groups.map fun g => { g with doms := g.doms.filter fun d => !(namedDoms c).contains d }).filter
        (!·.doms.isEmpty) } := forEach_prg (fun _ _ => by rfl) _ _
  rw [grpOf, hprg, List.find?_eq_none]
  intro g hg
  obtain ⟨g', -, rfl⟩ := List.mem_map.mp (List.mem_filter.mp hg).1
  simp [hd]

theorem domStatus_cancelledFor {c : HostCmd} (s : State) {d : Dom} (hd : d ∈ namedDoms c) :
    domStatus (cancelledFor c s) d = fset (fset (domStatus s d) 4 3 0) 0 0 1 := by
  have hopen := domStatus_forEach (g := fun w => fset (fset w 4 3 0) 0 0 1)
    (f := fun s d => openStage (showLastT (setF s (aDom d 0) 4 3 0) d) d)
    (fun u d e => by
      rw [openStage, domStatus_setBit, showLastT, domStatus_setDomT, domStatus_setF]
      split <;> rfl) (nodup_namedDoms c)
  exact (hopen _ d).trans (if_pos hd)

/-- R119: a cancel of every domain that it names. -/
theorem execCommitCancel_cancels {cmd : HostCmd} {s : State} (hr : Ready s cmd .commitCancel) (hok : commitStatus s cmd = stOk)
    (hcancel : cancelStatus s cmd = stOk) :
    Completes (.commitCancel cmd) s fun t => Reports cmd stOk t ∧ ∀ d ∈ namedDoms cmd, grpOf t d = none
      ∧ stageOpen t d = true ∧ regF t (aDom d 0) 4 3 = 0 := by
  have hexec : exec (.commitCancel cmd) s = .next (doCommit cmd s) := congrArg Host.Outcome.next (runCmd_ready hr _)
  refine ⟨_, hexec, ?_⟩
  dsimp only
  rw [doCommit_cancelled (cancelBit_of_commitCancel hr.2.1) hok hcancel]
  refine ⟨reports_complete hr (cancelledFor_hif cmd s) _ _, fun d hd => ⟨?_, ?_, ?_⟩⟩
  · exact (grpOf_congr (congrArg Prg.groups (complete_prg _ _ _ _)) d).trans (grpOf_cancelledFor s hd)
  · change (domStatus (complete _ _ _ _) d).getLsbD 0 = true
    rw [domStatus_complete, domStatus_cancelledFor s hd, getLsbD_fset]
    rfl
  · change fget (domStatus (complete _ _ _ _) d) 4 3 = 0
    rw [domStatus_complete, domStatus_cancelledFor s hd, fget_fset_ne _ _ (by decide) (by decide), fget_fset_same _ _ (by decide)]
    rfl

/-- R116, R119: a cancel refused by the checks of a commit, or by its own. -/
theorem execCommitCancel_refuses {cmd : HostCmd} {s : State} (hr : Ready s cmd .commitCancel)
    (h : commitStatus s cmd ≠ stOk ∨ cancelStatus s cmd ≠ stOk) :
    Completes (.commitCancel cmd) s fun t => t.prg = s.prg ∧ t.regs = s.regs
      ∧ Reports cmd (if commitStatus s cmd = stOk then cancelStatus s cmd else commitStatus s cmd) t := by
  have hexec : exec (.commitCancel cmd) s = .next (doCommit cmd s) := congrArg Host.Outcome.next (runCmd_ready hr _)
  have hdo : doCommit cmd s
      = complete s cmd (if commitStatus s cmd = stOk then cancelStatus s cmd else commitStatus s cmd) := by
    by_cases hok : commitStatus s cmd = stOk
    · simp [doCommit, hok, cancelBit_of_commitCancel hr.2.1, h.resolve_left (not_not_intro hok)]
    · simp [doCommit, hok]
  refine ⟨_, hexec, ?_⟩
  dsimp only
  rw [hdo]
  obtain ⟨hrep, hprg, hregs⟩ := complete_refuses hr _
  exact ⟨hprg, hregs, hrep⟩

end Sys2Proof.Proofs
end

section
/-!
Proofs of the statements on programs and versions: the commit instant, drain, retirement and the commit records (R107, R121 to R124).
-/
namespace Sys2Proof.Proofs

open Sys2Proof Sys2Proof.Machine Sys2Proof.Laws

-- The commit instant (R107, R118, R121).

/-- A domain's status at the instant: the next version is current, the domain drains, and neither NULL nor PENDING is left. -/
def switchedStatus (w : Word) : Word :=
  fset (fset (fset (fset w 31 16 ((fget w 31 16 + 1) % 65536)) 8 8 0) 3 3 0) 1 1 1

theorem switchedStatus_fields (w : Word) :
    fget (switchedStatus w) 31 16 = (fget w 31 16 + 1) % 65536 ∧ (switchedStatus w).getLsbD 1 = true := by
  refine ⟨?_, ?_⟩
  · rw [switchedStatus, fget_fset_ne _ _ (by decide) (by decide), fget_fset_ne _ _ (by decide) (by decide),
      fget_fset_ne _ _ (by decide) (by decide), fget_fset_same _ _ (by decide)]
    omega
  · rw [switchedStatus, getLsbD_fset]
    rfl

theorem domSource_lt (d : Dom) : 0x200 + domIdx d < 4096 := by cases d <;> decide

theorem domStatus_switchDom (t : Nat) (s : State) (d e : Dom) :
    domStatus (switchDom t s d) e = if e = d then switchedStatus (domStatus s e) else domStatus s e := by
  have hdom : ∀ (u : State) (x : Domain), domStatus (setDom u d x) e = domStatus u e := fun _ _ => rfl
  rw [switchDom, domStatus_raise _ (domSource_lt d), domStatus_setDomT, hdom, domStatus_setF, domStatus_setBit, domStatus_setBit,
    domStatus_setF]
  split
  next h => rw [h]; rfl
  next => rfl

theorem switchDom_groups (t : Nat) (s : State) (d : Dom) : (switchDom t s d).prg.groups = s.prg.groups := by
  rw [switchDom, raise_prg]
  cases d <;> rfl

theorem switchDom_hif (t : Nat) (s : State) (d : Dom) : (switchDom t s d).hif = s.hif :=
  Only.switchDom (fr := [.regs, .owed, .prg, .crier, .flt]) t s d (Only.refl s) (by decide) (by decide) (by decide) (by decide)
    (by decide) .hif (by decide)

/-- The switch raises source 0x200 or 0x201. -/
theorem mem_switchDom (t : Nat) (s : State) (d : Dom) : 0x200 + domIdx d ∈ (switchDom t s d).crier.pend := by
  rw [switchDom]
  exact mem_raise _ _

theorem mem_switchDom_of_mem {s : State} {x : Nat} (h : x ∈ s.crier.pend) (t : Nat) (d : Dom) :
    x ∈ (switchDom t s d).crier.pend := by
  rw [switchDom]
  exact mem_raise_of_mem h

/-- The group no longer waits, and its domains have taken their versions. -/
def switchedFor (g : CommitGrp) (t : Nat) (s : State) : State :=
  forEach g.doms (switchDom t) { s with prg := { s.prg with groups := s.prg.groups.filter (· ≠ g) } }

theorem switchedFor_hif (g : CommitGrp) (t : Nat) (s : State) : (switchedFor g t s).hif = s.hif :=
  forEach_hif (switchDom_hif t) _ _

theorem switchedFor_groups (g : CommitGrp) (t : Nat) (s : State) :
    (switchedFor g t s).prg.groups = s.prg.groups.filter (· ≠ g) :=
  forEach_keeps (P := fun u => u.prg.groups = s.prg.groups.filter (· ≠ g))
    (fun u d hu => (switchDom_groups t u d).trans hu) _ rfl

theorem domStatus_switchedFor {g : CommitGrp} (hg : g.doms.Nodup) (t : Nat) (s : State) {d : Dom} (hd : d ∈ g.doms) :
    domStatus (switchedFor g t s) d = switchedStatus (domStatus s d) :=
  (domStatus_forEach (domStatus_switchDom t) hg _ d).trans (if_pos hd)

theorem mem_switchedFor {g : CommitGrp} (t : Nat) (s : State) {d : Dom} (hd : d ∈ g.doms) :
    0x200 + domIdx d ∈ (switchedFor g t s).crier.pend :=
  forEach_brings (P := fun u => 0x200 + domIdx d ∈ u.crier.pend) (fun u => mem_switchDom t u d)
    (fun _ e hu => mem_switchDom_of_mem hu t e) hd _

/-- At the instant the group's domains switch, and a COMMIT completes. -/
theorem exec_commitInstant_due {d : Dom} {g : CommitGrp} {n : Nat} {s : State} (hg : grpOf s d = some g) (hn : g.t = some n)
    (hdue : n ≤ clkNs s) :
    exec (.commitInstant d) s = .next (
      let u := commitEvent (switchedFor g n s) g (nextVer s) true
      if g.byCommit then complete u g.cmd stOk (commitResult g.doms (nextVer s) (some n) g.deferred) else u) := by
  change execCommitInstant d s = _
  simp only [execCommitInstant, hg, hn, if_pos hdue]
  rfl

/-- R107, R118, R121: the instant of a commit. -/
theorem execCommitInstant_switches {d : Dom} {g : CommitGrp} {n : Nat} {s : State} (hg : grpOf s d = some g) (hn : g.t = some n)
    (hdue : n ≤ clkNs s) (hnodup : g.doms.Nodup) :
    Completes (.commitInstant d) s fun t => (∀ x ∈ g.doms, curVer t x = nextVer s x ∧ regBit t (aDom x 0) 1 = true
        ∧ 0x200 + domIdx x ∈ t.crier.pend)
      ∧ (g.byCommit = true → s.hif.oldBell < g.cmd.bell → Reports g.cmd stOk t) ∧ t.prg.groups = s.prg.groups.filter (· ≠ g) := by
  refine ⟨_, exec_commitInstant_due hg hn hdue, ?_⟩
  dsimp only
  have hstatus : ∀ x, domStatus (commitEvent (switchedFor g n s) g (nextVer s) true) x = domStatus (switchedFor g n s) x :=
    domStatus_congr (commitEvent_regs _ _ _ _)
  have hpend : ∀ x ∈ g.doms, 0x200 + domIdx x ∈ (commitEvent (switchedFor g n s) g (nextVer s) true).crier.pend :=
    fun x hx => mem_switchedFor n s hx
  have hgroups := (commitEvent_groups (switchedFor g n s) g (nextVer s) true).trans (switchedFor_groups g n s)
  have hhif : (commitEvent (switchedFor g n s) g (nextVer s) true).hif = s.hif := switchedFor_hif g n s
  have hswitch : ∀ x ∈ g.doms, fget (domStatus (switchedFor g n s) x) 31 16 = nextVer s x
      ∧ (domStatus (switchedFor g n s) x).getLsbD 1 = true := by
    intro x hx
    rw [domStatus_switchedFor hnodup n s hx]
    exact switchedStatus_fields _
  generalize commitEvent (switchedFor g n s) g (nextVer s) true = u at hstatus hpend hgroups hhif ⊢
  cases hby : g.byCommit with
  | true =>
    refine ⟨fun x hx => ?_, fun _ hbell => ?_, ?_⟩
    · have hall := (domStatus_complete u g.cmd stOk (commitResult g.doms (nextVer s) (some n) g.deferred) x).trans (hstatus x)
      exact ⟨(congrArg (fget · 31 16) hall).trans (hswitch x hx).1, (congrArg (·.getLsbD 1) hall).trans (hswitch x hx).2,
        mem_complete_of_mem (hpend x hx) _ _ _⟩
    · exact reports_of_answers (answers_complete (by rwa [hhif]) _ _)
    · rw [if_pos rfl, complete_prg, hgroups]
  | false =>
    exact ⟨fun x hx => ⟨(congrArg (fget · 31 16) (hstatus x)).trans (hswitch x hx).1,
      (congrArg (·.getLsbD 1) (hstatus x)).trans (hswitch x hx).2, hpend x hx⟩, nofun, hgroups⟩

-- Drain and retirement (R121 to R123).

theorem getDom_congr {s t : State} (h : t.prg = s.prg) (d : Dom) : getDom t d = getDom s d := by
  cases d <;> simp only [getDom, h]

theorem getDom_setDom (s : State) (d : Dom) (x : Domain) : getDom (setDom s d x) d = x := by cases d <;> rfl

/-- R121: no packet of the previous parity is left. -/
theorem execDrainEnd_retires {d : Dom} {s : State} (hd : regBit s (aDom d 0) 1 = true) (hnone : domHolds s d = false) :
    Completes (.drainEnd d) s fun t => regBit t (aDom d 0) 1 = false ∧ regBit t (aDom d 0) 2 = true
      ∧ (getDom t d).retireTodo = (getDom s d).changeLog := by
  have hexec : exec (.drainEnd d) s = .next (setDom (setF s (aDom d 0) 2 1 2) d
      { getDom s d with retireTodo := (getDom s d).changeLog }) := by
    change execDrainEnd d s = _
    simp only [execDrainEnd, hd, hnone]
    cases d <;> rfl
  have hstatus : domStatus (setF s (aDom d 0) 2 1 2) d = fset (domStatus s d) 2 1 2 := reg_setF_same
  refine ⟨_, hexec, ?_, ?_, ?_⟩
  · change (domStatus (setF s (aDom d 0) 2 1 2) d).getLsbD 1 = false
    rw [hstatus, getLsbD_fset]
    rfl
  · change (domStatus (setF s (aDom d 0) 2 1 2) d).getLsbD 2 = true
    rw [hstatus, getLsbD_fset]
    rfl
  · dsimp only
    rw [getDom_setDom]

/-- R122: 100 µs after the instant. -/
theorem execDrainForce_forces {d : Dom} {n : Nat} {s : State} (hd : regBit s (aDom d 0) 1 = true) (hholds : domHolds s d = true)
    (hprev : (getDom s d).prevT = some n) (hdue : n + 100000 ≤ clkNs s) :
    Completes (.drainForce d) s fun t => regBit t (aDom d 0) 5 = true ∧ 0x205 ∈ t.crier.pend := by
  have hexec : ∃ u, exec (.drainForce d) s = .next (raise (setBit u (aDom d 0) 5 true) 0x205) := by
    change ∃ u, execDrainForce d s = _
    simp only [execDrainForce, hd, hholds, hprev, decide_eq_true hdue]
    exact ⟨_, rfl⟩
  obtain ⟨u, hu⟩ := hexec
  refine ⟨_, hu, ?_, mem_raise _ _⟩
  change (domStatus (raise (setBit u (aDom d 0) 5 true) 0x205) d).getLsbD 5 = true
  rw [domStatus_raise _ (by decide)]
  exact regBit_setBit_same (by decide)

/-- R123: the change log has been worked off. -/
theorem execRetireComplete_opens {d : Dom} {s : State} (hd : regBit s (aDom d 0) 2 = true)
    (htodo : (getDom s d).retireTodo = []) :
    Completes (.retireComplete d) s fun t => stageOpen t d = true ∧ regBit t (aDom d 0) 2 = false ∧ (getDom t d).changeLog = []
      ∧ 0x202 + domIdx d ∈ t.crier.pend := by
  have hexec : exec (.retireComplete d) s = .next (raise (openStage (setBit (copyBank
      (setDom s d { getDom s d with changeLog := [] }) d) (aDom d 0) 2 false) d) (0x202 + domIdx d)) := by
    change execRetireComplete d s = _
    simp only [execRetireComplete, hd, htodo]
    rfl
  have hid : 0x202 + domIdx d < 4096 := by cases d <;> decide
  generalize hu : copyBank (setDom s d { getDom s d with changeLog := [] }) d = u at hexec
  have hlog : (getDom u d).changeLog = [] := by
    rw [← hu]
    cases d <;> rfl
  have hstatus : domStatus (raise (openStage (setBit u (aDom d 0) 2 false) d) (0x202 + domIdx d)) d
      = fset (fset (domStatus u d) 2 2 0) 0 0 1 := by
    rw [domStatus_raise _ hid, openStage, domStatus_setBit, if_pos rfl, domStatus_setBit, if_pos rfl]
    rfl
  refine ⟨_, hexec, ?_, ?_, ?_, mem_raise _ _⟩
  · change (domStatus _ d).getLsbD 0 = true
    rw [hstatus, getLsbD_fset]
    rfl
  · change (domStatus _ d).getLsbD 2 = false
    rw [hstatus]
    simp only [getLsbD_fset]
    rfl
  · exact (congrArg Domain.changeLog (getDom_congr (raise_prg _ _) d)).trans hlog

-- The records of commits (R124).

/-- A block that leaves service takes its contents along. -/
theorem jrnLeave_records (j : Journal) (l p : Nat) (retired lines : List Nat) :
    (jrnWear { jrnRemap j l p with retiredBlocks := retired } lines).records = j.records :=
  (sameRecords_jrnRemap j l p).records

theorem jrnRetire_records (s : State) (l : Nat) : (jrnRetire s l).journal.records = s.journal.records := by
  have hwarn : ∀ (n : Nat) (u : State), (jrnWarn n u).journal = u.journal := fun n u =>
    Only.jrnWarn (fr := [.regs, .owed, .crier, .flt]) n u (Only.refl u) (by decide) (by decide) (by decide) (by decide)
      .journal (by decide)
  unfold jrnRetire
  dsimp only
  split
  · rw [hwarn]
    exact jrnLeave_records _ l _ _ _
  · split
    · rw [raise_journal, hwarn]
      exact jrnLeave_records _ l _ _ _
    · split
      · rfl
      · rw [raise_journal]
        rfl

theorem jrnFailed_records (failed : List Nat) (s : State) : (jrnFailed failed s).journal.records = s.journal.records :=
  forEach_keeps (P := fun u => u.journal.records = s.journal.records) (fun u l hu => (jrnRetire_records u l).trans hu) _ rfl

/-- A commit record stands for no older record. -/
theorem jrnPut_commit_records (s : State) (e : CommitRec) :
    ∃ line, (jrnPut s (.commit e)).journal.records = { entry := .commit e, line := line } :: s.journal.records := by
  have hkeep : (s.journal.records.filter fun x => !jrnReplaces (.commit e) x.entry) = s.journal.records :=
    List.filter_eq_self.mpr fun x _ => by cases x.entry <;> rfl
  have hj := jrnTagged_journal s (jrnPart (.commit e)) true
  rw [jrnPut, jrnStore_eq, (sameRecords_jrnTouch _ _).records]
  refine ⟨_, congrArg (List.cons _) ?_⟩
  rw [hj, hkeep]

theorem jrnCommits_cons_commit {j k : Journal} {e : CommitRec} {line : CommitLine}
    (h : j.records = { entry := .commit e, line := line } :: k.records) : jrnCommits j = e :: jrnCommits k := by
  rw [jrnCommits, h]
  rfl

/-- R124: the oldest event goes into the journal. -/
theorem execCommitRecordWrite_records {failedBlocks : List Nat} {s : State} (hfw : fwRuns s = true) (hseal : sealReady s = true)
    (hne : s.prg.events ≠ []) :
    Completes (.commitRecordWrite failedBlocks) s fun t => t.prg.events = s.prg.events.tail
      ∧ ∃ e, s.prg.events.head? = some e ∧ jrnCommits t.journal = e :: jrnCommits s.journal := by
  obtain ⟨e, rest, hevents⟩ := List.exists_cons_of_ne_nil hne
  have hexec : exec (.commitRecordWrite failedBlocks) s = .next (jrnFailed failedBlocks
      (jrnPut { s with prg := { s.prg with events := rest } } (.commit e))) := by
    change execCommitRecordWrite failedBlocks s = _
    simp only [execCommitRecordWrite, hevents, hfw, hseal]
    rfl
  have hprg : ∀ u, (jrnFailed failedBlocks (jrnPut u (.commit e))).prg = u.prg := fun u =>
    Only.jrnFailed (fr := [.regs, .journal, .owed, .crier, .flt]) failedBlocks _
      (Only.jrnPut u _ (Only.refl u) (by decide) (by decide) (by decide) (by decide) (by decide)) (by decide) (by decide)
      (by decide) (by decide) (by decide) .prg (by decide)
  refine ⟨_, hexec, ?_, e, ?_, ?_⟩
  · rw [hprg, hevents]
    rfl
  · rw [hevents]
    rfl
  · obtain ⟨line, hline⟩ := jrnPut_commit_records { s with prg := { s.prg with events := rest } } e
    exact jrnCommits_cons_commit ((jrnFailed_records _ _).trans hline)

/-- Settles O25: each clause is the rule of its command, whether or not the state meets the invariant. -/
theorem commitsComplete : Obligations.CommitsComplete := by
  unfold Obligations.CommitsComplete
  refine ⟨fun _ _ hr ha ho => execStageWrite_stores hr ha ho, fun _ _ hr h => execStageWrite_refuses hr h,
    fun _ _ _ hr hok => execCommit_waits hr hok, ?_, fun _ _ _ hr hok => execCommitAt_waits hr hok, ?_,
    fun _ _ _ hr hok => execCommitToken_waits hr hok, ?_, fun _ _ _ hr hok hc => execCommitCancel_cancels hr hok hc,
    fun _ _ hr h => execCommitCancel_refuses hr h, fun _ _ _ _ _ hg hn hdue hnodup => execCommitInstant_switches hg hn hdue hnodup,
    fun _ _ _ hd hnone => execDrainEnd_retires hd hnone, fun _ _ _ hfw hseal hne => execCommitRecordWrite_records hfw hseal hne,
    fun _ _ _ _ hd hholds hprev hdue => execDrainForce_forces hd hholds hprev hdue,
    fun _ _ _ hd htodo => execRetireComplete_opens hd htodo⟩
  all_goals
    intro cmd s hr h
    refine ⟨_, congrArg Host.Outcome.next (runCmd_ready hr (doCommit cmd)), ?_⟩
    rw [doCommit_refused h]
    exact complete_refuses hr _

end Sys2Proof.Proofs
end

section
/-!
Proofs of the statements on optical ports and lanes: an uncorrectable parse word that can no longer be counted raises no source.
-/
namespace Sys2Proof.Proofs

open Sys2Proof Sys2Proof.Machine Sys2Proof.Laws

-- What becomes pending with a raised source and with a first-error record.

/-- A grace timer or the start of a list makes nothing pending but what its start raises. -/
theorem mem_pend_graceWith {after : State → State} {s : State} {id x y : Nat}
    (ha : ∀ t : State, x ∈ (after t).crier.pend → x ∈ t.crier.pend ∨ x = y)
    (h : x ∈ (graceWith after s id).crier.pend) : x ∈ s.crier.pend ∨ x = y := by
  unfold graceWith at h
  split at h
  · exact .inl h
  · split at h
    · exact ha (startList s id) h
    · exact .inl h

theorem mem_pend_pendEvent {s : State} {id x : Nat} (h : x ∈ (pendEvent s id).crier.pend) : x ∈ s.crier.pend ∨ x = id := by
  rw [pendEvent_pend, addOnce] at h
  split at h
  · exact .inl h
  · simpa using h

/-- A raised source makes itself pending, and 0xE00 where its list starts at once (R436). -/
theorem mem_pend_raise {s : State} {id x : Nat} (h : x ∈ (raise s id).crier.pend) :
    x ∈ s.crier.pend ∨ x = id ∨ x = 0xE00 := by
  have hE00 : ∀ t : State, x ∈ (raiseE00 t).crier.pend → x ∈ t.crier.pend ∨ x = 0xE00 := fun t ht =>
    (mem_pend_graceWith (fun _ => mem_pend_pendEvent) ht).elim mem_pend_pendEvent .inr
  rcases mem_pend_graceWith hE00 h with hx | hx
  · exact (mem_pend_pendEvent hx).imp_right .inl
  · exact .inr (.inr hx)

/-- While firmware does not run, a fault record is owed to the journal, and nothing becomes pending with it (R435). -/
theorem jrnOweFault_crier {s : State} {e : FaultEntry} (h : fwRuns s = false) : (jrnOweFault s e).crier = s.crier := by
  rw [jrnOweFault, h]
  rfl

/-- FW of BRINGUP is none of the registers of FLT. -/
theorem fwRuns_setReg_flt (s : State) (o : Nat) (v : Word) : fwRuns (setReg s (aFlt o) v) = fwRuns s := by
  have hne : 0x40 ≠ aFlt o := by simp only [aFlt]; omega
  rw [fwRuns, bringup, regBit, reg_setReg_ne hne]
  rfl

/-- While firmware does not run, a first-error record raises 0xE03 alone. -/
theorem mem_pend_faultRecord {s : State} {id access requester address syndrome x : Nat} (hfw : fwRuns s = false)
    (h : x ∈ (faultRecord s id access requester address syndrome).crier.pend) :
    x ∈ s.crier.pend ∨ x = 0xE03 ∨ x = 0xE00 := by
  have hadd : ∀ o n : Nat, aFlt o + n = aFlt (o + n) := fun o n => Nat.add_assoc _ _ _
  unfold faultRecord at h
  dsimp only at h
  split at h
  · exact .inl h
  · split at h
    · rw [jrnOweFault_crier (by simpa [add64, setReg64, hadd, fwRuns_setReg_flt] using hfw)] at h
      exact .inl h
    · refine (mem_pend_raise h).imp_left fun hx => ?_
      rw [setReg_crier, jrnOweFault_crier (by simpa [add64, setReg64, hadd, fwRuns_setReg_flt] using hfw)] at hx
      exact hx

-- The counterexample.

/-- The parse engine of group 0 has counted 65,535 uncorrectable words: PAR_ECC.UNCORR stands at its highest value. -/
def uncorrFull : State := { State.reset with regs := [(aPar 0 0x20, 0xFFFF0000#32)] }

theorem inv_uncorrFull : Inv uncorrFull := by
  refine ⟨by decide, rfl, ?_⟩
  intro j hj
  cases hj

/-- One more uncorrectable word of space 3 leaves the count where it is, and has its first-error record (R188). -/
def uncorrRecorded : State :=
  faultRecord (satF uncorrFull (aPar 0 0x20) 31 16 1) 0x500 5 0 (3 * 2 ^ 40) (Config.syndrome 0 % 65536)

theorem exec_parseWordRepair_uncorrFull :
    exec (.parseWordRepair 0 3 0 0 (.uncorrectable false)) uncorrFull = .next (drawn uncorrRecorded) := by
  have hfull : (regF uncorrFull (aPar 0 0x20) 31 16 == 65535) = true := by decide
  change execParseWordRepair 0 3 0 0 (.uncorrectable false) uncorrFull = _
  simp [execParseWordRepair, hfull, whenB, spaceSize, uncorrRecorded]
  rfl

theorem not_mem_pend_uncorrRecorded : 0x500 ∉ uncorrRecorded.crier.pend := by
  have hfw : fwRuns (satF uncorrFull (aPar 0 0x20) 31 16 1) = false := by decide
  have hnone : (satF uncorrFull (aPar 0 0x20) 31 16 1).crier.pend = [] := rfl
  intro h
  rcases mem_pend_faultRecord hfw h with hpend | hid | hid
  · rw [hnone] at hpend
    cases hpend
  · exact absurd hid (by decide)
  · exact absurd hid (by decide)

/-- Refutes O28: its clause on PARSE_WORD_REPAIR has source 0x500 + 4g pending after every uncorrectable word. Where PAR_ECC.UNCORR
already stands at 65,535 the count does not rise, and by R188 the source is raised only where it does. -/
theorem not_parseComplete : ¬ Obligations.ParseComplete := by
  unfold Obligations.ParseComplete
  rintro ⟨-, -, -, -, -, -, -, -, -, hrepair, -⟩
  obtain ⟨t, hexec, -, huncorr⟩ := hrepair 0 3 0 0 (.uncorrectable false) uncorrFull inv_uncorrFull (by decide) (.inl rfl)
    (by decide) (by decide)
  obtain rfl : drawn uncorrRecorded = t := Host.Outcome.next.inj (exec_parseWordRepair_uncorrFull.symm.trans hexec)
  obtain ⟨hraised, -⟩ := huncorr nofun
  exact not_mem_pend_uncorrRecorded (by simpa using hraised)

end Sys2Proof.Proofs
end

section
/-!
Proofs of the statements on optical ports and lanes: what raised sources, records, the release of Market units and the drop of packets
leave of the registers of CRT, PRG, LAN and PIPE.
-/
namespace Sys2Proof.Proofs

open Sys2Proof Sys2Proof.Machine Sys2Proof.Laws

/-- An address of CRT, PRG, LAN or PIPE (Table HIF-3): above what a raised source and a record write, below the Market. -/
def MidBlock (a : Nat) : Prop := 0x800000 ≤ a ∧ a < 0x7000000

/-- The registers of the Market, the Barrow and the Tally that the admission, release and drop of copies write. -/
def copyNames : List RegName :=
  [.mktStatus, .poolFree, .mktCount0, .mktCount3, .mktCount4, .mktCount5, .mktCount6, .partUsed, .qcfgPitch, .qcfgOcc, .pfcState,
   .ingUsed, .hdrmUsed, .stagingFree, .splCount, .stackStatus, .qspillStatus, .talCount]

/-- They lie from the Market on. -/
theorem le_of_regIn_copyNames {a : Nat} (h : RegIn copyNames a) : 0x7000000 ≤ a := by
  obtain ⟨r, hr, ha⟩ := h
  fin_cases hr <;>
    grind [RegName.at, aMkt, aPoolFree, aUsed, aQcfg, aMPort, aIngUsed, aHdrmUsed, aSpl, aStack, aQspill, aTal]

section Frame

variable {a : Nat} (ha : MidBlock a)

include ha

theorem reg_of_copyNames {s t : State} (h : RegsOnly copyNames s t) : reg t a = reg s a :=
  h a fun hin => absurd (le_of_regIn_copyNames hin) (by have := ha.2; omega)

-- Registers below and above.

theorem reg_setReg_below (s : State) {b : Nat} (v : Word) (hb : b < 0x800000) : reg (setReg s b v) a = reg s a :=
  reg_setReg_ne (by have := ha.1; omega)

theorem reg_setF_above (s : State) {b hi lo v : Nat} (hb : 0x7000000 ≤ b) : reg (setF s b hi lo v) a = reg s a :=
  reg_setF_ne (by have := ha.2; omega)

theorem reg_setBit_above (s : State) {b i : Nat} {x : Bool} (hb : 0x7000000 ≤ b) : reg (setBit s b i x) a = reg s a :=
  reg_setF_above ha s hb

theorem reg_add64_above (s : State) {b n : Nat} (hb : 0x7000000 ≤ b) : reg (add64 s b n) a = reg s a := by
  have hlt := ha.2
  rw [add64, setReg64, reg_setReg_ne (by omega), reg_setReg_ne (by omega)]

theorem reg_add64_below (s : State) {b n : Nat} (hb : b + 4 < 0x800000) : reg (add64 s b n) a = reg s a := by
  rw [add64, setReg64, reg_setReg_below ha _ _ hb, reg_setReg_below ha _ _ (by omega)]

-- Combinators.

omit ha in
theorem reg_forEach {α : Type} {f : State → α → State} (hf : ∀ s x, reg (f s x) a = reg s a) (l : List α) (s : State) :
    reg (forEach l f s) a = reg s a :=
  forEach_keeps (P := fun u => reg u a = reg s a) (fun u x hu => (hf u x).trans hu) l rfl

omit ha in
theorem reg_whenB {f : State → State} (hf : ∀ s, reg (f s) a = reg s a) (b : Bool) (s : State) : reg (whenB b f s) a = reg s a := by
  cases b
  · rfl
  · exact hf s

-- Sources and records (R425, R433, R435).

theorem reg_raise_mid (s : State) {id : Nat} (hid : id < 4096) : reg (raise s id) a = reg s a := by
  have hlow := ha.1
  refine reg_raise_ne ?_ ?_ ?_ ?_ <;> simp only [aEsc, aFlt] <;> omega

theorem reg_raiseLimited_mid (s : State) {id : Nat} (ns : Nat) (hid : id < 4096) : reg (raiseLimited s id ns) a = reg s a := by
  rw [raiseLimited]
  split
  · exact reg_raise_mid ha _ hid
  · rfl

theorem reg_startGrace_mid (s : State) {id : Nat} (hid : id < 4096) : reg (startGrace s id) a = reg s a := by
  have hlow := ha.1
  have hne : ∀ i, i < 4096 → a ≠ aEsc i 0 := fun i hi => by simp only [aEsc, aFlt]; omega
  have hcount : a ≠ aFlt 0x20 ∧ a ≠ aFlt 0x20 + 4 := by simp only [aFlt]; omega
  refine reg_graceWith_ne (hne id hid) hcount.1 hcount.2 fun t => ?_
  exact reg_graceWith_ne (hne _ (by decide)) hcount.1 hcount.2 fun _ => reg_pendEvent _ _ _

theorem reg_setLine_mid (s : State) {id : Nat} (on : Bool) (hid : id < 4096) : reg (setLine s id on) a = reg s a := by
  have hlow := ha.1
  unfold setLine
  split
  · split
    · rfl
    · dsimp only
      split
      · exact reg_startGrace_mid ha _ hid
      · exact reg_raise_mid ha _ hid
  · split
    · rfl
    · exact reg_setBit_ne (by simp only [aEsc, aFlt]; omega)

theorem reg_setBringup_mid (s : State) (i : Nat) : reg (setBringup s i) a = reg s a := by
  have hlow := ha.1
  unfold setBringup
  split
  · rfl
  · rw [reg_raise_mid ha _ (by decide), reg_setBit_ne (by omega)]

theorem reg_jrnTouch_mid (s : State) (lines : List Nat) : reg (jrnTouch s lines) a = reg s a := by
  rw [jrnTouch, jrnWarn, reg_whenB (fun _ => reg_raise_mid ha _ (by decide)), reg_whenB (fun _ => reg_raise_mid ha _ (by decide))]
  rfl

theorem reg_jrnStore_mid (s : State) (e : JrnEntry) : reg (jrnStore s e) a = reg s a := by
  rw [jrnStore_eq, reg_jrnTouch_mid ha]
  rfl

theorem reg_secCount_mid (s : State) {k : Nat} (hk : k < 16) : reg (secCount s k) a = reg s a :=
  reg_add64_below ha s (by simp only [aSec]; omega)

theorem reg_jrnPut_mid (s : State) (e : JrnEntry) : reg (jrnPut s e) a = reg s a := by
  rw [jrnPut, reg_jrnStore_mid ha, jrnTagged]
  split
  · rw [reg_whenB (fun _ => reg_secCount_mid ha _ (by decide)), reg_secCount_mid ha _ (by decide)]
  · rfl

theorem reg_jrnOwe_mid (s : State) (e : JrnEntry) : reg (jrnOwe s e) a = reg s a := by
  unfold jrnOwe
  split
  · rw [reg_jrnPut_mid ha]
    split
    · exact reg_whenB (f := (emit · _)) (fun _ => rfl) _ _
    · rfl
  · rfl

theorem reg_jrnOweFault_mid (s : State) (e : FaultEntry) : reg (jrnOweFault s e) a = reg s a := by
  rw [jrnOweFault]
  split
  · exact reg_jrnStore_mid ha _ _
  · rfl

/-- A first-error record stands in FLT. -/
theorem reg_faultRecord_mid (s : State) {id : Nat} (access requester address syndrome : Nat) (hid : id < 4096) :
    reg (faultRecord s id access requester address syndrome) a = reg s a := by
  have hset : ∀ (u : State) (o : Nat) (v : Word), o < 0x500000 → reg (setReg u (aFlt o) v) a = reg u a := fun u o v ho =>
    reg_setReg_below ha u v (by simp only [aFlt]; omega)
  have hadd : ∀ o n : Nat, aFlt o + n = aFlt (o + n) := fun o n => Nat.add_assoc _ _ _
  unfold faultRecord
  dsimp only
  split
  · rw [reg_add64_below ha _ (by simp only [aFlt]; omega), satF, setF, hadd, hset _ _ _ (by omega)]
  · have hwhole : ∀ (u : State) (e : FaultEntry), reg u a = reg s a → reg (jrnOweFault u e) a = reg s a :=
      fun u e hu => (reg_jrnOweFault_mid ha u e).trans hu
    split
    · apply hwhole
      simp only [add64, setReg64, hadd]
      repeat rw [hset _ _ _ (by omega)]
    · rw [reg_raise_mid ha _ (by decide), hset _ _ _ (by omega)]
      apply hwhole
      simp only [add64, setReg64, hadd]
      repeat rw [hset _ _ _ (by omega)]

theorem reg_fault_mid (s : State) {id : Nat} (access requester address syndrome : Nat) (hid : id < 4096) :
    reg (fault s id access requester address syndrome) a = reg s a := by
  rw [fault, reg_raise_mid ha _ hid, reg_faultRecord_mid ha _ _ _ _ _ hid]

-- Performance counters, postcards and drop records (R407, R412, R421).

theorem reg_pmcBump_mid (fuel : Nat) (s : State) (n k : Nat) : reg (pmcBump fuel s n k) a = reg s a := by
  have hlt := ha.2
  have hset : ∀ (u : State) (n : Nat) (v : Word), reg (setReg u (aPmcCount n) v) a = reg u a := fun u n v =>
    reg_setReg_ne (by simp only [aPmcCount, aPmc]; omega)
  induction fuel generalizing s n k with
  | zero => rfl
  | succ fuel ih =>
    rw [pmcBump]
    split
    · rfl
    · dsimp only
      split
      · exact hset _ _ _
      · split
        · rw [ih, reg_whenB (fun _ => reg_raise_mid ha _ (by decide)), hset]
        · rw [reg_whenB (fun _ => reg_raise_mid ha _ (by decide)), hset]

theorem reg_pmcEvent_mid (s : State) (n k : Nat) : reg (pmcEvent s n k) a = reg s a := by
  rw [pmcEvent]
  unfold pmcAdd
  extract_lets u
  have hu : reg u a = reg s a := by
    unfold u
    split <;> rfl
  split
  · exact hu
  · rw [reg_pmcBump_mid ha, hu]

theorem reg_addTal_mid (s : State) (k : Nat) : reg (addTal s k) a = reg s a :=
  reg_add64_above ha s (by simp only [aTal]; omega)

theorem reg_exportHand_mid (s : State) (r : ExpRec) : reg (exportHand s r) a = reg s a := by
  have hcount : ∀ r : ExpRec, reg (match r with | .postcard _ => addTal s 0 | .flow _ => addTal s 1) a = reg s a := fun r => by
    cases r <;> exact reg_addTal_mid ha s _
  unfold exportHand
  extract_lets u
  split
  · rw [recordLost, reg_raiseLimited_mid ha _ _ (by decide), reg_addTal_mid ha]
    exact hcount r
  · exact hcount r

theorem reg_postcard_mid (s : State) (pipe : Nat) (t : Tally) (isDrop : Bool) : reg (postcard s pipe t isDrop) a = reg s a := by
  unfold postcard
  dsimp only
  split
  · split
    · exact reg_exportHand_mid ha _ _
    · rfl
  · rfl

theorem reg_dropRecord_mid (s : State) (pipe reason : Nat) (p : Packet) (t : Tally) :
    reg (dropRecord s pipe reason p t) a = reg s a := by
  rw [dropRecord, reg_postcard_mid ha, ledgerPacket]
  split <;> rfl

-- Units of the Market (R278, R288, R291).

theorem reg_holdUnit_mid (s : State) (ua pool cls id : Nat) : reg (holdUnit s ua pool cls id) a = reg s a := by
  rw [holdUnit, reg_pmcEvent_mid ha, reg_setBit_above ha _ (by simp only [aMkt]; omega),
    reg_setF_above ha _ (by simp only [aPoolFree, aMkt]; omega)]
  rfl

theorem reg_freeUnit_mid (s : State) (ua : Nat) : reg (freeUnit s ua) a = reg s a := by
  unfold freeUnit
  dsimp only
  split
  · rfl
  · rw [reg_pmcEvent_mid ha, syncEmpty, reg_setBit_above ha _ (by simp only [aMkt]; omega),
      reg_whenB (fun _ => reg_setF_above ha _ (by simp only [aPoolFree, aMkt]; omega))]
    rfl

theorem reg_grantPool_mid (s : State) (rq pool cls id : Nat) (k : UClass) : reg (grantPool s rq pool cls id k).1 a = reg s a := by
  unfold grantPool
  split
  · rfl
  · split
    · rfl
    · exact reg_holdUnit_mid ha _ _ _ _ _

theorem reg_requestUnit_mid (s : State) (rq pool cls id : Nat) (k : UClass) :
    reg (requestUnit s rq pool cls id k).1 a = reg s a := by
  unfold requestUnit
  dsimp only
  refine List.foldlRecOn (motive := fun r : State × Option Nat => reg r.1 a = reg s a) _ _ rfl fun r hr p _ => ?_
  split
  · exact hr
  · have hfall : reg (if p = pool then r.1 else fallBack r.1) a = reg s a := by
      split
      · exact hr
      · exact (reg_add64_above ha _ (by simp only [aMkt]; omega)).trans hr
    split
    · rw [reg_whenB (fun _ => reg_pmcEvent_mid ha _ _ _), reg_grantPool_mid ha, hfall]
    · rw [reg_grantPool_mid ha, hfall]

theorem reg_takeChain_mid (fuel : Nat) (s : State) (rq n : Nat) (tag : Nat × Nat) (k : UClass) :
    reg (takeChain fuel s rq n tag k).1 a = reg s a := by
  induction fuel generalizing s n with
  | zero => rfl
  | succ fuel ih =>
    rw [takeChain]
    dsimp only
    split
    · exact reg_requestUnit_mid ha _ _ _ _ _ _
    · split
      · exact reg_requestUnit_mid ha _ _ _ _ _ _
      · rw [ih, reg_requestUnit_mid ha]

theorem reg_takeUnits_mid (s : State) (rq : Nat) (p : Packet) (tag : Nat × Nat) (k : UClass) :
    reg (takeUnits s rq p tag k).1 a = reg s a := by
  rw [takeUnits]
  split
  · exact reg_requestUnit_mid ha _ _ _ _ _ _
  · exact reg_takeChain_mid ha _ _ _ _ _ _

theorem reg_takeMore_mid (s : State) (rq : Nat) (p : Packet) (units : List Nat) : reg (takeMore s rq p units).1 a = reg s a := by
  rw [takeMore]
  dsimp only
  split
  · exact reg_takeUnits_mid ha _ _ _ _ _
  · exact reg_takeChain_mid ha _ _ _ _ _ _

theorem reg_addIng_mid (s : State) (f : MFrame) (d : Int) : reg (addIng s f d) a = reg s a :=
  reg_of_copyNames ha (Named.addIng s f d (Named.refl s) (by decide) (by decide) (by decide))

theorem reg_addOcc_mid (s : State) (q : Nat) (d : Int) : reg (addOcc s q d) a = reg s a :=
  reg_of_copyNames ha (Named.addOcc s q d (Named.refl s) (by decide) (by decide))

omit ha in
theorem reg_retag (s : State) (ua cls id : Nat) : reg (retag s ua cls id) a = reg s a := by
  rw [retag]
  split <;> rfl

theorem reg_freeByCopy_mid (s : State) (q u : Nat) : reg (freeByCopy s q u) a = reg s a := by
  unfold freeByCopy
  extract_lets t
  split
  · exact reg_freeUnit_mid ha _ _
  · rw [freeRefused, reg_fault_mid ha _ _ _ _ _ (by decide), reg_add64_above ha _ (by simp only [aMkt]; omega)]

theorem reg_releaseCopy_mid (s : State) (c : Copy) : reg (releaseCopy s c) a = reg s a := by
  have hdrop : ∀ (u : State) (id : Nat), reg (dropFrameRec u id) a = reg u a := fun _ _ => rfl
  have hput : ∀ (u : State) (f : MFrame), reg (putFrame u f) a = reg u a := fun _ _ => rfl
  unfold releaseCopy
  extract_lets u
  have hu : reg u a = reg s a := reg_addOcc_mid ha _ _ _
  split
  · exact hu
  · split
    · rw [reg_addIng_mid ha, reg_forEach (fun _ _ => reg_freeByCopy_mid ha _ _ _), hdrop, hu]
    · rw [reg_forEach (fun u x => by split; exacts [reg_retag _ _ _ _, rfl]), hput, hu]

-- Admission and drops (R277 to R291, R405 to R411).

theorem reg_placeCopies_mid (s : State) (p : Packet) (cs : List Copy) (units : List Nat) (hclass : Bool) :
    reg (placeCopies s p cs units hclass) a = reg s a :=
  reg_of_copyNames ha (Named.placeCopies s p cs units hclass (Named.refl s) (by decide) (by decide) (by decide) (by decide)
    (by decide) (by decide))

theorem reg_placeFails_mid (s : State) (cs : List Copy) (units : List Nat) : reg (placeFails s cs units).1 a = reg s a :=
  reg_forEach (fun _ _ => reg_freeUnit_mid ha _ _) _ _

theorem reg_placeMarket_mid (s : State) (rq : Nat) (p : Packet) (cs : List Copy) (hclass : Bool) :
    reg (placeMarket s rq p cs hclass).1 a = reg s a := by
  unfold placeMarket
  split
  · rfl
  · exact reg_of_copyNames ha (Named.shareCopies s _ _ (Named.refl s) (by decide) (by decide))
  · extract_lets t js r cs' u
    have ht : reg t.1 a = reg s a := reg_takeUnits_mid ha _ _ _ _ _
    split
    · exact (reg_placeCopies_mid ha _ _ _ _ _).trans ht
    · split
      · exact (reg_placeFails_mid ha _ _ _).trans ht
      · split
        · exact (reg_placeFails_mid ha _ _ _ : reg r.1 a = reg t.1 a).trans ht
        · have hu : reg u.1 a = reg s a := (reg_takeMore_mid ha _ _ _ _).trans ht
          split
          · exact (reg_placeCopies_mid ha _ _ _ _ _).trans hu
          · exact (reg_placeFails_mid ha _ _ _).trans hu

theorem reg_spillStep_mid (r : State × List Copy × List (Copy × Nat)) (c : Copy) : reg (spillStep r c).1 a = reg r.1 a :=
  reg_of_copyNames ha (Named.spillStep r c (Named.refl r.1) (by decide) (by decide) (by decide) (by decide))

theorem reg_foldl_spillStep_mid (l : List Copy) (r : State × List Copy × List (Copy × Nat)) :
    reg (l.foldl spillStep r).1 a = reg r.1 a := by
  induction l generalizing r with
  | nil => rfl
  | cons c l ih => exact (ih _).trans (reg_spillStep_mid ha r c)

theorem reg_admitCopies_mid (s : State) (rq : Nat) (p : Packet) (cs : List Copy) : reg (admitCopies s rq p cs).1 a = reg s a := by
  have hpitch : ∀ (u : State) (q : Nat), reg (notePitch u q) a = reg u a := fun u q =>
    reg_of_copyNames ha (Named.notePitch u q (Named.refl u) (by decide))
  have hcount : ∀ (u : State) (x : Option Bool) (kept : Bool), reg (ecnCount u x kept) a = reg u a := fun u x kept =>
    reg_of_copyNames ha (Named.ecnCount u x kept (Named.refl u) (by decide) (by decide))
  unfold admitCopies
  extract_lets js u e marked ok no t m out
  have hu : reg u a = reg s a := reg_forEach (fun _ _ => hpitch _ _) _ _
  have he : reg e.1 a = reg s a := by
    unfold e
    split
    · exact (reg_of_copyNames ha (Named.ecnApply u p _ (Named.refl u))).trans hu
    · exact hu
  have ht : reg t.1 a = reg e.1 a := reg_foldl_spillStep_mid ha ok (e.1, [], [])
  have hm : reg m.1 a = reg t.1 a := reg_placeMarket_mid ha _ _ _ _ _
  exact (hcount m.1 _ _).trans (hm.trans (ht.trans he))

theorem reg_dropCopy_mid (s : State) (pipe reason : Nat) (p : Packet) (t : Tally) :
    reg (dropCopy s pipe reason p t) a = reg s a := by
  have htakes : ∀ k, reg (sessionTakes s k).1 a = reg s a := fun k => by
    rw [sessionTakes]
    split <;> rfl
  unfold dropCopy
  extract_lets cfg k q c e x
  split
  · rfl
  · split
    · exact htakes _
    · have hx : reg x.1 a = reg s a := by
        refine Eq.trans ?_ (htakes (fget cfg 4 0))
        unfold x
        split
        · exact reg_admitCopies_mid ha _ _ _ _
        · rfl
      split
      · exact (reg_addTal_mid ha _ _).trans hx
      · exact (reg_raiseLimited_mid ha _ _ (by decide)).trans ((reg_addTal_mid ha _ _).trans hx)

theorem reg_spillCount_mid (s : State) (reason : Nat) : reg (spillCount s reason) a = reg s a := by
  have hadd : ∀ k, reg (addSpl s k 1) a = reg s a := fun k => reg_add64_above ha s (by simp only [aSpl]; omega)
  rw [spillCount]
  split
  · rw [reg_raiseLimited_mid ha _ _ (by decide), hadd]
  · split
    · rw [reg_raiseLimited_mid ha _ _ (by decide), hadd]
    · split
      · exact hadd _
      · rfl

/-- A dropped packet is counted and recorded outside these blocks, and its drop copy goes to the Market. -/
theorem reg_dropPacket_mid (s : State) (pipe reason : Nat) (p : Packet) (t : Tally) :
    reg (dropPacket s pipe reason p t) a = reg s a := by
  unfold dropPacket
  extract_lets u v
  have hu : reg u a = reg s a := (reg_spillCount_mid ha _ _).trans (reg_dropRecord_mid ha _ _ _ _ _)
  refine (reg_dropCopy_mid ha _ _ _ _ _).trans ?_
  unfold v
  split
  · exact (reg_raiseLimited_mid ha _ _ (by decide)).trans hu
  · split
    · exact (reg_raiseLimited_mid ha _ _ (by decide)).trans hu
    · exact hu

-- Frames that turn bad (R286, R310).

theorem reg_loseFrame_mid (s : State) (id reason : Nat) : reg (loseFrame s id reason) a = reg s a := by
  rw [loseFrame, reg_forEach]
  · rfl
  · intro u q
    split
    · rw [dropEntries, reg_forEach (fun v c => by rw [dropQueued, reg_releaseCopy_mid ha, reg_dropPacket_mid ha])]
      rfl
    · rfl

theorem reg_dropStaged_mid (s : State) (q id : Nat) : reg (dropStaged s q id) a = reg s a := by
  have hexit : ∀ u : State, reg (spillExit u q) a = reg u a := fun u =>
    reg_of_copyNames ha (Named.spillExit u q (Named.refl u) (by decide) (by decide))
  rw [dropStaged, hexit, reg_forEach (fun u r => by rw [dropSpilled, reg_dropPacket_mid ha]), setStagingFree,
    reg_setF_above ha _ (by simp only [aSpl]; omega)]
  rfl

/-- A frame that turns bad loses its copies, which these blocks do not show. -/
theorem reg_badFrame_mid (s : State) (id reason : Nat) : reg (badFrame s id reason) a = reg s a := by
  have hmap : ∀ (u : State) (f : Packet → Packet), reg (mapPackets u f) a = reg u a := fun _ _ => rfl
  rw [badFrame, hmap, reg_loseFrame_mid ha, reg_forEach (fun _ _ => reg_dropStaged_mid ha _ _ _)]

end Frame

end Sys2Proof.Proofs
end

section
/-!
Proofs of the statements on optical ports and lanes: what the operations on links leave in the registers of a lane set, and what they
leave of the other registers of CRT, PRG, LAN and PIPE.
-/
namespace Sys2Proof.Proofs

open Sys2Proof Sys2Proof.Machine Sys2Proof.Laws

-- Fields and bits of a register.

/-- A bit is a field of its own. -/
theorem regBit_congr {s t : State} {a i : Nat} (h : regF t a i i = regF s a i i) : regBit t a i = regBit s a i := by
  have hbit : ∀ u : State, regBit u a i = (regF u a i i).testBit 0 := fun u => by rw [regF, testBit_fget]; simp [regBit]
  rw [hbit, hbit, h]

theorem regBit_of_reg {s t : State} {a : Nat} (h : reg t a = reg s a) (i : Nat) : regBit t a i = regBit s a i := by
  rw [regBit, h, regBit]

theorem regF_of_reg {s t : State} {a : Nat} (h : reg t a = reg s a) (hi lo : Nat) : regF t a hi lo = regF s a hi lo := by
  rw [regF, h, regF]

/-- Another field than the one written, of any register. -/
theorem regF_setF_ne {s : State} {a b hi lo v hi' lo' : Nat} (h : hi' < 32) (hd : hi' < lo ∨ hi < lo') :
    regF (setF s a hi lo v) b hi' lo' = regF s b hi' lo' := by
  by_cases hb : b = a
  · rw [hb, regF, reg_setF_same, fget_fset_ne _ _ h hd, regF]
  · exact regF_of_reg (reg_setF_ne hb) _ _

/-- A bit outside the field written. -/
theorem regBit_setF_ne {s : State} {a b hi lo v i : Nat} (h : i < 32) (hd : i < lo ∨ hi < i) :
    regBit (setF s a hi lo v) b i = regBit s b i :=
  regBit_congr (regF_setF_ne h hd)

-- Addresses of LAN (Table LAN-1).

theorem midBlock_aLan {g o : Nat} (hg : g < 36) (ho : o < 0x40000) : MidBlock (aLan g o) := by
  constructor <;> simp only [aLan] <;> omega

theorem midBlock_aLane {l o : Nat} (hl : l < 1152) (ho : o < 0x100) : MidBlock (aLane l o) :=
  midBlock_aLan (by omega) (by omega)

theorem midBlock_portState {l : Nat} (hl : l < 1152) : MidBlock (aPortState l) := midBlock_aLane hl (by decide)

theorem midBlock_portCfg {l : Nat} (hl : l < 1152) : MidBlock (aPortCfg l) := midBlock_aLane hl (by decide)

theorem midBlock_evtLanes {l j : Nat} (hl : l < 1152) (hj : j < 8) : MidBlock (aEvtLanes (l / 32) j) :=
  midBlock_aLan (by omega) (by omega)

theorem aLan_ne {g o g' o' : Nat} (ho : o < 0x40000) (ho' : o' < 0x40000) (h : g ≠ g' ∨ o ≠ o') : aLan g o ≠ aLan g' o' := by
  simp only [aLan]; omega

/-- Registers of a lane set and registers of a group. -/
theorem aLane_ne_aLan {l o g o' : Nat} (ho : o < 0x100) (ho' : o' < 0x1000) : aLane l o ≠ aLan g o' :=
  aLan_ne (by omega) (by omega) (by omega)

theorem aLane_ne {l o o' : Nat} (ho : o < 0x100) (ho' : o' < 0x100) (h : o ≠ o') : aLane l o ≠ aLane l o' :=
  aLan_ne (by omega) (by omega) (by omega)

/-- A register of a group stands in the island of its lanes. -/
theorem islandAt_aLan {g o : Nat} (hg : g < 36) (ho : o < 0x40000) : islandAt (aLan g o) = 72 + g := by
  have hdiv : (aLan g o - 0x1000000) / 0x40000 = g ∧ (aLan g o - 0x1000000) % 0x40000 = o := by simp only [aLan]; omega
  have hlow : 0x1000000 ≤ aLan g o ∧ aLan g o < 0x1900000 := by simp only [aLan]; omega
  have hblk : blkOf (aLan g o) = some (.lan, g, o) := by
    simp (disch := omega) only [blkOf, blkMap, List.findSome?_cons, if_neg, if_pos, hdiv]
  rw [islandAt, hblk]

/-- A write of a lane's or group's register acts at once where its island is in reach. -/
theorem holdWrite_aLan {g o : Nat} {v : Word} {f : State → State} {s : State} (hg : g < 36) (ho : o < 0x40000)
    (hr : s.top.inReset = false) (hs : shut s (aLan g o) = false) : holdWrite s (72 + g) (aLan g o) v f = f s := by
  rw [shut, islandAt_aLan hg ho] at hs
  rw [holdWrite, hs, atCrossing_open hr]

-- The ports that the configuration of an octet forms (R130, R131).

theorem lt_of_portLanes {s : State} {l : Nat} (h : (portLanes s l).isSome = true) : l < 1152 := by
  unfold portLanes at h
  split at h
  · assumption
  · cases h

theorem lt_of_portLive {s : State} {l : Nat} (h : portLive s l = true) : l < 1152 := by
  simp only [portLive, Bool.and_eq_true] at h
  exact lt_of_portLanes h.1.1

theorem portLanes_congr {s t : State} {l : Nat}
    (h : l < 1152 → reg t (aLan (l / 32) (4 * (l % 32 / 8))) = reg s (aLan (l / 32) (4 * (l % 32 / 8)))) :
    portLanes t l = portLanes s l := by
  unfold portLanes
  split
  · rw [h (by assumption)]
  · rfl

theorem isLadder_congr {s t : State} {l : Nat} (h : reg t (aPortCfg l) = reg s (aPortCfg l)) : isLadder t l = isLadder s l := by
  rw [isLadder, portRateCfg, regF_of_reg h, isLadder, portRateCfg]

-- Events of lanes (R132, R149).

section LaneEvents

variable {a l j : Nat}

theorem reg_laneLine (ha : MidBlock a) (s : State) {g : Nat} (hg : g < 36) (hj : j < 8) : reg (laneLine s g j) a = reg s a :=
  reg_setLine_mid ha s _ (by omega)

theorem reg_laneEvent (ha : MidBlock a) (s : State) (hl : l < 1152) (hj : j < 8) (hne : a ≠ aEvtLanes (l / 32) j) :
    reg (laneEvent s l j) a = reg s a := by
  rw [laneEvent, reg_laneLine ha _ (by omega) hj, reg_setBit_ne hne]

/-- The event shows the lane. -/
theorem regBit_laneEvent (s : State) (hl : l < 1152) (hj : j < 8) :
    regBit (laneEvent s l j) (aEvtLanes (l / 32) j) (l % 32) = true := by
  rw [laneEvent, regBit_of_reg (reg_laneLine (midBlock_evtLanes hl hj) _ (by omega) hj), regBit_setBit_same (by omega)]

theorem reg_lanErr (ha : MidBlock a) (s : State) (bit : Nat) (hl : l < 1152) (herr : a ≠ aLan (l / 32) 0x40)
    (hevt : a ≠ aEvtLanes (l / 32) 6) : reg (lanErr s l bit) a = reg s a := by
  rw [lanErr, reg_laneEvent ha _ hl (by decide) hevt, reg_setBit_ne herr]

/-- LAN.ERR shows the error. -/
theorem regBit_lanErr (s : State) {bit : Nat} (hl : l < 1152) (hb : bit < 32) :
    regBit (lanErr s l bit) (aLan (l / 32) 0x40) bit = true := by
  have hevt : aLan (l / 32) 0x40 ≠ aEvtLanes (l / 32) 6 := aLan_ne (by decide) (by decide) (.inr (by decide))
  rw [lanErr, regBit_of_reg (reg_laneEvent (midBlock_aLan (by omega) (by decide)) _ hl (by decide) hevt),
    regBit_setBit_same hb]

end LaneEvents

-- PORT_STATE (R143). `enterState` writes three of its fields and what follows from them.

/-- The fields of PORT_STATE apart from BRINGUP, TEST and AINUM_PEER (bits 20, 19 and 25), which follow the state of the port. -/
abbrev StateField (hi lo : Nat) : Prop := hi < 19 ∨ (20 < lo ∧ hi < 25) ∨ (25 < lo ∧ hi < 32)

section Link

variable {a l : Nat}

theorem reg_portFlags (s : State) (hstate : a ≠ aPortState l) (hup : a ≠ aLan (l / 32) 0x44) :
    reg (portFlags s l) a = reg s a := by
  rw [portFlags, reg_setBit_ne hup, reg_setBit_ne hstate, reg_setBit_ne hstate]

theorem portState_ne_portsUp {g : Nat} : aPortState l ≠ aLan g 0x44 := aLane_ne_aLan (by decide) (by decide)

/-- BRINGUP and TEST are all that the flags of a port write in its PORT_STATE. -/
theorem regF_portFlags (s : State) {hi lo : Nat} (h : hi < 19 ∨ (20 < lo ∧ hi < 32)) :
    regF (portFlags s l) (aPortState l) hi lo = regF s (aPortState l) hi lo := by
  rw [portFlags, regF_of_reg (reg_setBit_ne portState_ne_portsUp), setBit, regF_setF_ne (by omega) (by omega), setBit,
    regF_setF_ne (by omega) (by omega)]

theorem reg_setLatency (ha : MidBlock a) (s : State) (lanes rate : Nat) (hl : l < 1152) :
    reg (setLatency s l lanes rate) a = reg s a := by
  rw [setLatency, reg_setReg_below ha _ _ (by simp only [aTim]; omega), reg_setReg_below ha _ _ (by simp only [aTim]; omega)]

theorem reg_clearPauses (s : State) : reg (clearPauses s l) a = reg s a := by
  have hregs : (clearPauses s l).regs = s.regs := Only.clearPauses (fr := [.sched]) s l (Only.refl s) (by decide) .regs (by decide)
  rw [reg, hregs, reg]

/-- A session that ends takes AINUM_PEER with it. -/
theorem reg_endSession (ha : MidBlock a) (s : State) (hl : l < 1152) :
    reg (endSession s l) a = reg (setBit s (aPortState l) 25 false) a := by
  rw [endSession, reg_whenB (fun _ => reg_raise_mid ha _ (by decide)), setF,
    reg_setReg_below ha _ _ (by simp only [aAinPort, aAin]; omega)]
  rfl

theorem reg_goSent (ha : MidBlock a) (s : State) : reg (goSent s l) a = reg s a := by
  unfold goSent
  extract_lets left u
  split
  · rw [reg_raise_mid ha _ (by decide), setBit, setF, reg_setReg_below ha _ _ (by decide)]
    rfl
  · rfl

/-- What a link that ends takes with it leaves these blocks but AINUM_PEER. -/
theorem reg_ainumDown (ha : MidBlock a) (s : State) (hl : l < 1152) :
    reg (ainumDown s l) a = reg (setBit s (aPortState l) 25 false) a := by
  rw [ainumDown, reg_goSent ha]
  exact reg_endSession ha s hl

theorem reg_ladderDone (ha : MidBlock a) (s : State) : reg (ladderDone s) a = reg s a := by
  unfold ladderDone
  split
  · exact reg_setBringup_mid ha _ _
  · rfl

theorem reg_recordLadder (ha : MidBlock a) (s : State) : reg (recordLadder s l) a = reg s a :=
  reg_jrnOwe_mid ha _ _

theorem reg_enterState (ha : MidBlock a) (s : State) (st rate : Nat) (aligned : Bool) (hl : l < 1152) (hstate : a ≠ aPortState l)
    (hup : a ≠ aLan (l / 32) 0x44) (hevt : a ≠ aEvtLanes (l / 32) 0) : reg (enterState s l st rate aligned) a = reg s a := by
  unfold enterState
  extract_lets before s1 s2 s3 after s4 s5
  have h3 : reg s3 a = reg s a := by
    unfold s3 s2 s1
    rw [reg_setLatency ha _ _ _ hl, reg_setF_ne hstate, reg_setF_ne hstate, reg_setF_ne hstate]
  have h4 : reg s4 a = reg s3 a := reg_whenB (fun _ => reg_laneEvent ha _ hl (by decide) hevt) _ _
  have h5 : reg s5 a = reg s4 a := by
    unfold s5
    split
    · rw [reg_ainumDown ha _ hl, reg_setBit_ne hstate, reg_clearPauses]
    · rfl
  rw [reg_portFlags _ hstate hup, h5, h4, h3]

/-- The fields of PORT_STATE that a change of state writes, and those that it keeps. -/
theorem regF_enterState (s : State) (st rate : Nat) (aligned : Bool) (hl : l < 1152) {hi lo : Nat} (h : StateField hi lo) :
    regF (enterState s l st rate aligned) (aPortState l) hi lo =
      fget (fset (fset (fset (reg s (aPortState l)) 31 28 st) 27 26 (if aligned then 3 else 0)) 22 21 rate) hi lo := by
  have hmid := midBlock_portState hl
  unfold enterState
  extract_lets before s1 s2 s3 after s4 s5
  have h3 : reg s3 (aPortState l) =
      fset (fset (fset (reg s (aPortState l)) 31 28 st) 27 26 (if aligned then 3 else 0)) 22 21 rate := by
    unfold s3 s2 s1
    rw [reg_setLatency hmid _ _ _ hl, reg_setF_same, reg_setF_same, reg_setF_same]
  have h4 : reg s4 (aPortState l) = reg s3 (aPortState l) :=
    reg_whenB (fun _ => reg_laneEvent hmid _ hl (by decide) (aLane_ne_aLan (by decide) (by decide))) _ _
  have h5 : regF s5 (aPortState l) hi lo = regF s4 (aPortState l) hi lo := by
    unfold s5
    split
    · rw [regF_of_reg (reg_ainumDown hmid _ hl), setBit,
        regF_setF_ne (by unfold StateField at h; omega) (by unfold StateField at h; omega), regF_of_reg (reg_clearPauses _)]
    · rfl
  rw [regF_portFlags _ (by unfold StateField at h; omega), h5, regF, h4, h3]

theorem portState_enterState (s : State) {st : Nat} (rate : Nat) (aligned : Bool) (hl : l < 1152) (hst : st < 16) :
    portState (enterState s l st rate aligned) l = st := by
  rw [portState, regF_enterState s st rate aligned hl (by decide), fget_fset_ne _ _ (by decide) (by decide),
    fget_fset_ne _ _ (by decide) (by decide), fget_fset_same _ _ (by decide)]
  exact Nat.mod_eq_of_lt hst

theorem rateNow_enterState (s : State) (st : Nat) {rate : Nat} (aligned : Bool) (hl : l < 1152) (hrate : rate < 4) :
    rateNow (enterState s l st rate aligned) l = rate := by
  rw [rateNow, regF_enterState s st rate aligned hl (by decide), fget_fset_same _ _ (by decide)]
  exact Nat.mod_eq_of_lt hrate

/-- A change of state keeps STEP_TRIES, RECOVERY, the received fault and the skew. -/
theorem regF_enterState_other (s : State) (st rate : Nat) (aligned : Bool) (hl : l < 1152) {hi lo : Nat}
    (h : hi < 19 ∨ (22 < lo ∧ hi < 25)) : regF (enterState s l st rate aligned) (aPortState l) hi lo = regF s (aPortState l) hi lo := by
  rw [regF_enterState s st rate aligned hl (by unfold StateField; omega), fget_fset_ne _ _ (by omega) (by omega),
    fget_fset_ne _ _ (by omega) (by omega), fget_fset_ne _ _ (by omega) (by omega), regF]

/-- RX_ALIGNED shows whether the port is aligned. -/
theorem aligned_enterState (s : State) (st rate : Nat) (aligned : Bool) (hl : l < 1152) :
    regBit (enterState s l st rate aligned) (aPortState l) 27 = aligned := by
  have hfield := regF_enterState s st rate aligned hl (show StateField 27 27 by decide)
  have hbit := congrArg (·.testBit 0) hfield
  simp only [regF, testBit_fget, getLsbD_fset] at hbit
  rw [regBit]
  cases aligned
  · simpa using hbit
  · simpa [show Nat.testBit 3 1 = true from rfl] using hbit

/-- A port that leaves UP and UP_LADDER loses its peer (R390). -/
theorem ainPeer_enterState (s : State) {st : Nat} (rate : Nat) (aligned : Bool) (hl : l < 1152) (hst : st < 16)
    (hbefore : carries s l = true) (hafter : st ≠ 3 ∧ st ≠ 5) : ainPeer (enterState s l st rate aligned) l = false := by
  have hmid := midBlock_portState hl
  unfold enterState
  extract_lets before s1 s2 s3 after s4 s5
  have h3 : portState s3 l = st := by
    unfold s3 s2 s1
    rw [portState, regF_of_reg (reg_setLatency hmid _ _ _ hl), regF_setF_ne (by decide) (by decide),
      regF_setF_ne (by decide) (by decide), regF_setF_same (by decide)]
    exact Nat.mod_eq_of_lt hst
  have hends : (before && !after) = true := by
    have hno : after = false := by simp [after, carries, h3, hafter]
    rw [hno]
    simp [before, hbefore]
  have h5 : s5 = ainumDown (clearPauses s4 l) l := if_pos hends
  rw [ainPeer, regBit_congr (regF_portFlags s5 (by decide)), h5, regBit_of_reg (reg_ainumDown hmid _ hl),
    regBit_setBit_same (by decide)]

theorem ports_enterState (s : State) (st rate : Nat) (aligned : Bool) : (enterState s l st rate aligned).ports = s.ports :=
  Only.enterState (fr := [.regs, .owed, .sched, .ainum, .crier, .flt]) s l st rate aligned (Only.refl s) (by decide) (by decide)
    (by decide) (by decide) (by decide) (by decide) .ports (by decide)

-- The port's own state beside its registers.

theorem getPort_setPort (s : State) (x : PortSt) : getPort (setPort s l x) l = x := mapGet_mapPut_same

theorem getPort_modPort (s : State) (f : PortSt → PortSt) : getPort (modPort s l f) l = f (getPort s l) := mapGet_mapPut_same

theorem getPort_of_ports {s t : State} (h : t.ports = s.ports) : getPort t l = getPort s l := by rw [getPort, h, getPort]

theorem ports_laneEvent (s : State) (j : Nat) : (laneEvent s l j).ports = s.ports :=
  Only.laneEvent (fr := [.regs, .owed, .crier, .flt]) s l j (Only.refl s) (by decide) (by decide) (by decide) (by decide) .ports
    (by decide)

theorem ports_ladderDone (s : State) : (ladderDone s).ports = s.ports :=
  Only.ladderDone (fr := [.regs, .owed, .crier, .flt]) s (Only.refl s) (by decide) (by decide) (by decide) (by decide) .ports
    (by decide)

theorem ports_recordLadder (s : State) : (recordLadder s l).ports = s.ports :=
  Only.recordLadder (fr := [.regs, .journal, .owed, .crier, .flt, .out]) s l (Only.refl s) (by decide) (by decide) (by decide)
    (by decide) (by decide) (by decide) .ports (by decide)

-- A port that enters UP or UP_LADDER (R139, R143).

/-- The port runs at 200 Gbit/s per lane. -/
def fullRate (s : State) (l : Nat) : Bool := portRateCfg s l == 1 || (isLadder s l && (getPort s l).full)

/-- The state in which a port enters UP or UP_LADDER: what it held of a fault is done, with RECOVERY where it comes from one. -/
def upReady (s : State) (l : Nat) : State :=
  whenB (getPort s l).fromFault (setBit · (aPortState l) 18 true)
    (setF (modPort s l fun x => { x with fromFault := false, finished := x.finished || (isLadder s l && fullRate s l) })
      (aPortState l) 24 23 0)

theorem reg_upReady (s : State) (hstate : a ≠ aPortState l) : reg (upReady s l) a = reg s a := by
  rw [upReady, reg_whenB (fun _ => reg_setBit_ne hstate), reg_setF_ne hstate]
  rfl

theorem enterUp_eq (s : State) :
    enterUp s l = enterState (upReady s l) l (if isLadder s l && !fullRate s l then 3 else 5) (if fullRate s l then 2 else 1) true := by
  rw [← isLadder_congr (reg_upReady s (aLane_ne (by decide) (by decide) (by decide)) : reg (upReady s l) (aPortCfg l) = _)]
  rfl

theorem portState_enterUp (s : State) (hl : l < 1152) :
    portState (enterUp s l) l = if isLadder s l && !(getPort s l).full then 3 else 5 := by
  have hcond : (isLadder s l && !fullRate s l) = (isLadder s l && !(getPort s l).full) := by
    cases hlad : isLadder s l
    · rfl
    · have hcfg : portRateCfg s l = 0 := by simpa [isLadder] using hlad
      simp [fullRate, hlad, hcfg]
  rw [enterUp_eq, portState_enterState _ _ _ hl (by split <;> decide), hcond]

theorem rateNow_enterUp (s : State) (hl : l < 1152) : rateNow (enterUp s l) l = if fullRate s l then 2 else 1 := by
  rw [enterUp_eq, rateNow_enterState _ _ _ hl (by split <;> decide)]

theorem aligned_enterUp (s : State) (hl : l < 1152) : regBit (enterUp s l) (aPortState l) 27 = true := by
  rw [enterUp_eq, aligned_enterState _ _ _ _ hl]

/-- STEP_TRIES and the skew stay. -/
theorem regF_enterUp (s : State) (hl : l < 1152) {hi lo : Nat} (h : hi < 18) :
    regF (enterUp s l) (aPortState l) hi lo = regF s (aPortState l) hi lo := by
  rw [enterUp_eq, regF_enterState_other _ _ _ _ hl (by omega), upReady]
  cases (getPort s l).fromFault
  · rw [whenB, if_neg (by decide), regF_setF_ne (by omega) (by omega)]
    rfl
  · rw [whenB, if_pos rfl, setBit, regF_setF_ne (by omega) (by omega), regF_setF_ne (by omega) (by omega)]
    rfl

/-- No received fault stays. -/
theorem fault_enterUp (s : State) (hl : l < 1152) : regF (enterUp s l) (aPortState l) 24 23 = 0 := by
  rw [enterUp_eq, regF_enterState_other _ _ _ _ hl (by decide), upReady]
  cases (getPort s l).fromFault
  · rw [whenB, if_neg (by decide), regF_setF_same (by decide)]
    rfl
  · rw [whenB, if_pos rfl, setBit, regF_setF_ne (by decide) (by decide), regF_setF_same (by decide)]
    rfl

/-- RECOVERY sets where the port comes from a fault, and is as it was otherwise. -/
theorem recovery_enterUp (s : State) (hl : l < 1152) :
    regBit (enterUp s l) (aPortState l) 18 = ((getPort s l).fromFault || regBit s (aPortState l) 18) := by
  rw [enterUp_eq, regBit_congr (regF_enterState_other _ _ _ _ hl (by decide)), upReady]
  cases (getPort s l).fromFault
  · rw [whenB, if_neg (by decide), regBit_setF_ne (by decide) (by decide)]
    rfl
  · rw [whenB, if_pos rfl, regBit_setBit_same (by decide)]
    rfl

theorem getPort_enterUp (s : State) : getPort (enterUp s l) l =
    { getPort s l with fromFault := false, finished := (getPort s l).finished || (isLadder s l && fullRate s l) } := by
  have hports : (upReady s l).ports =
      (modPort s l fun x => { x with fromFault := false, finished := x.finished || (isLadder s l && fullRate s l) }).ports := by
    rw [upReady]
    cases (getPort s l).fromFault <;> rfl
  rw [enterUp_eq, getPort_of_ports (ports_enterState _ _ _ _), getPort_of_ports hports, getPort_modPort]

end Link

end Sys2Proof.Proofs
end

section
/-!
Proofs of the statement on port configuration and link events (R130 to R144).
-/
namespace Sys2Proof.Proofs

open Sys2Proof Sys2Proof.Machine Sys2Proof.Laws

section LinkEvents

variable {l : Nat} {s : State}

theorem lt_of_portLocks (h : portLocks s l = true) : l < 1152 := by
  simp only [portLocks, Bool.and_eq_true] at h
  exact lt_of_portLanes h.1.1.1

theorem portState_of_portLocks (h : portLocks s l = true) : portState s l = 2 := by
  simp only [portLocks, Bool.and_eq_true, beq_iff_eq] at h
  exact h.1.1.2

theorem portState_ladderDone (hl : l < 1152) : portState (ladderDone s) l = portState s l :=
  regF_of_reg (reg_ladderDone (midBlock_portState hl) s) _ _

/-- A port in ACQUIRE comes up aligned, with its skew (R134, R139). -/
theorem portAligned_up {skew : Nat} (h : portLocks s l = true) (hk : skew ≤ 180) :
    Completes (.portAligned l skew) s fun t => regF t (aPortState l) 7 0 = skew ∧ regBit t (aPortState l) 27 = true
      ∧ portState t l = (if isLadder s l && !(getPort s l).full then 3 else 5) := by
  have hl := lt_of_portLocks h
  have hdone := reg_ladderDone (midBlock_portState hl)
  have hcfg : isLadder (setF s (aPortState l) 7 0 (min 255 skew)) l = isLadder s l :=
    isLadder_congr (reg_setF_ne (aLane_ne (by decide) (by decide) (by decide)))
  have hexec : exec (.portAligned l skew) s = .next (ladderDone (enterUp (setF s (aPortState l) 7 0 (min 255 skew)) l)) := by
    change execPortAligned l skew s = _
    simp [execPortAligned, h, hk]
  refine ⟨_, hexec, ?_, ?_, ?_⟩
  · rw [regF_of_reg (hdone _), regF_enterUp _ hl (by decide), regF_setF_same (by decide), Nat.min_eq_right (by omega)]
    exact Nat.mod_eq_of_lt (by omega)
  · rw [regBit_of_reg (hdone _), aligned_enterUp _ hl]
  · rw [portState_ladderDone hl, portState_enterUp _ hl, hcfg]
    rfl

/-- Skew beyond 180 ns keeps the port in ACQUIRE and is recorded (R134, R139). -/
theorem portAligned_skewed {skew : Nat} (h : portLocks s l = true) (hk : 180 < skew) :
    Completes (.portAligned l skew) s fun t => portState t l = 2
      ∧ regF t (aPortState l) 7 0 = max (regF s (aPortState l) 7 0) (min 255 skew) := by
  have hexec : exec (.portAligned l skew) s =
      .next (setF s (aPortState l) 7 0 (max (regF s (aPortState l) 7 0) (min 255 skew))) := by
    change execPortAligned l skew s = _
    simp [execPortAligned, h, hk]
  refine ⟨_, hexec, ?_, ?_⟩
  · rw [portState, regF_setF_ne (by decide) (by decide)]
    exact portState_of_portLocks h
  · have hbyte : regF s (aPortState l) 7 0 < 256 := Nat.mod_lt _ (by decide)
    rw [regF_setF_same (by decide)]
    exact Nat.mod_eq_of_lt (by omega)

/-- What a link that goes down leaves of its port: not aligned, no received fault, and event 5 where it was aligned (R143). -/
theorem linkDown_spec (gone : Bool) (hl : l < 1152) :
    portState (linkDown s l gone) l = (if gone then 1 else 2) ∧ regBit (linkDown s l gone) (aPortState l) 27 = false
      ∧ regF (linkDown s l gone) (aPortState l) 24 23 = 0
      ∧ (regBit s (aPortState l) 27 = true → regBit (linkDown s l gone) (aEvtLanes (l / 32) 5) (l % 32) = true) := by
  have hevent : ∀ (b : Bool) (u : State), reg (whenB b (laneEvent · l 5) u) (aPortState l) = reg u (aPortState l) := fun b u =>
    reg_whenB (fun _ => reg_laneEvent (midBlock_portState hl) _ hl (by decide) (aLane_ne_aLan (by decide) (by decide))) b u
  unfold linkDown
  extract_lets aligned u v
  refine ⟨?_, ?_, ?_, fun ha => ?_⟩
  · rw [portState, regF_of_reg (hevent _ _)]
    exact portState_enterState _ _ _ hl (by split <;> decide)
  · rw [regBit_of_reg (hevent _ _), aligned_enterState _ _ _ _ hl]
  · rw [regF_of_reg (hevent _ _), regF_enterState_other _ _ _ _ hl (by decide), regF_setF_same (by decide)]
    rfl
  · have haligned : aligned = true := ha
    rw [haligned]
    exact regBit_laneEvent _ hl (by decide)

/-- A lost signal leads to NO_SIGNAL, lost alignment to ACQUIRE (R143). -/
theorem lossOfSignal_down {lane : Nat} {gone : Bool} (hlane : lane < 1152) (hport : portOf s lane = l) (hlive : portLive s l = true)
    (hst : portState s l ≠ 1) (hgone : gone = true ∨ (portState s l ≠ 2 ∧ portState s l ≠ 4)) :
    Completes (.lossOfSignal lane gone) s fun t => portState t l = (if gone then 1 else 2)
      ∧ regBit t (aPortState l) 27 = false ∧ regF t (aPortState l) 24 23 = 0
      ∧ (regBit s (aPortState l) 27 = true → regBit t (aEvtLanes (l / 32) 5) (l % 32) = true) := by
  have hacts : (!gone && (portState s l == 2 || portState s l == 4)) = false := by
    rcases hgone with hgone | ⟨h2, h4⟩
    · simp [hgone]
    · simp [h2, h4]
  have hexec : exec (.lossOfSignal lane gone) s = .next (linkDown s l gone) := by
    change execLossOfSignal lane gone s = _
    simp [execLossOfSignal, hport, hlive, hst, hacts, Nat.not_lt.mpr (Nat.le_of_lt_succ hlane)]
  exact ⟨_, hexec, linkDown_spec gone (lt_of_portLive hlive)⟩

/-- A received fault is recorded, and STEPPING apart puts the port into FAULT (R136, R143). -/
theorem faultReceived_fault (localFault : Bool) (hlive : portLive s l = true) (hst : portState s l ≠ 1) :
    Completes (.faultReceived l localFault) s fun t => regF t (aPortState l) 24 23 = (if localFault then 2 else 1)
      ∧ (portState s l ≠ 4 → portState t l = 6 ∧ (getPort t l).fromFault = true)
      ∧ (portState s l = 4 → portState t l = 4) := by
  have hl := lt_of_portLive hlive
  have hcode : ∀ u : State, regF (setF u (aPortState l) 24 23 (if localFault then 2 else 1)) (aPortState l) 24 23 =
      if localFault then 2 else 1 := fun u => by
    rw [regF_setF_same (by decide)]
    cases localFault <;> rfl
  by_cases h4 : portState s l = 4
  · have hexec : exec (.faultReceived l localFault) s = .next (setF s (aPortState l) 24 23 (if localFault then 2 else 1)) := by
      change execFaultReceived l localFault s = _
      simp [execFaultReceived, hlive, h4]
    refine ⟨_, hexec, hcode s, fun h => absurd h4 h, fun _ => ?_⟩
    rw [portState, regF_setF_ne (by decide) (by decide)]
    exact h4
  · have hguard : (!portLive s l || portState s l == 1) = false := by simp [hlive, hst]
    change ∃ t, execFaultReceived l localFault s = .next t ∧ _
    unfold execFaultReceived
    extract_lets st u full rate
    rw [if_neg (by rw [hguard]; decide), if_neg h4]
    refine ⟨_, rfl, ?_, fun _ => ⟨portState_enterState _ _ _ hl (by decide), ?_⟩, fun h => absurd h h4⟩
    · rw [regF_enterState_other _ _ _ _ hl (by decide)]
      exact (regF_setF_ne (by decide) (by decide)).trans (hcode s)
    · rw [getPort_of_ports (ports_enterState _ _ _ _), getPort_modPort]

/-- A fault that ends leads to UP or UP_LADDER, with RECOVERY where the port came from a fault (R136, R143). -/
theorem faultCleared_up (hlive : portLive s l = true) (hst : portState s l = 6) :
    Completes (.faultCleared l) s fun t => portState t l = (if isLadder s l && !(getPort s l).full then 3 else 5)
      ∧ regF t (aPortState l) 24 23 = 0 ∧ ((getPort s l).fromFault = true → regBit t (aPortState l) 18 = true) := by
  have hl := lt_of_portLive hlive
  have hdone := reg_ladderDone (midBlock_portState hl) (enterUp s l)
  have hexec : exec (.faultCleared l) s = .next (ladderDone (enterUp s l)) := by
    change execFaultCleared l s = _
    simp [execFaultCleared, hlive, hst]
  refine ⟨_, hexec, ?_, ?_, fun hfault => ?_⟩
  · rw [portState_ladderDone hl, portState_enterUp s hl]
  · rw [regF_of_reg hdone, fault_enterUp s hl]
  · rw [regBit_of_reg hdone, recovery_enterUp s hl, hfault, Bool.true_or]

/-- A signal that comes back leads to ACQUIRE (R143). -/
theorem signalPresent_acquires (hlive : portLive s l = true) (hst : portState s l = 1) (hlit : portLit s l = true) :
    Completes (.signalPresent l) s fun t => portState t l = 2 := by
  have hexec : exec (.signalPresent l) s = .next (enterState s l 2 0 false) := by
    change execSignalPresent l s = _
    simp [execSignalPresent, hlive, hst, hlit]
  exact ⟨_, hexec, portState_enterState s 0 false (lt_of_portLive hlive) (by decide)⟩

/-- RECOVERY clears when its time is over, and nothing else (R143). -/
theorem recoveryEnd_clears (h : (portLanes s l).isSome = true) :
    Completes (.recoveryEnd l) s fun t => regBit t (aPortState l) 18 = false ∧ RegsBut [aPortState l] s t := by
  have hexec : exec (.recoveryEnd l) s = .next (setBit s (aPortState l) 18 false) := by
    change execRecoveryEnd l s = _
    simp [execRecoveryEnd, h]
  exact ⟨_, hexec, regBit_setBit_same (by decide), fun a ha => reg_setBit_ne (by simpa using ha)⟩

end LinkEvents

end Sys2Proof.Proofs
end

section
/-!
Proofs of the statement on port configuration and link events: a port that is disabled (R144), and the writes that configure ports
(R130 to R132).
-/
namespace Sys2Proof.Proofs

open Sys2Proof Sys2Proof.Machine Sys2Proof.Laws

-- The frames still arriving on a port that is disabled (R144, R286).

theorem pipes_dropPacket (s : State) (pipe reason : Nat) (p : Packet) (t : Tally) : (dropPacket s pipe reason p t).pipes = s.pipes :=
  Only.dropPacket (fr := [.regs, .freeCtr, .owed, .lastRaise, .market, .spill, .sched, .telem, .crier, .flt, .activity])
    s pipe reason p t (Only.refl s) (by decide) (by decide) (by decide) (by decide) (by decide) (by decide) (by decide) (by decide)
    (by decide) (by decide) (by decide) .pipes (by decide)

theorem pipes_dropStaged (s : State) (q id : Nat) : (dropStaged s q id).pipes = s.pipes :=
  Only.dropStaged (fr := [.regs, .freeCtr, .owed, .lastRaise, .market, .spill, .sched, .telem, .crier, .flt, .activity])
    s q id (Only.refl s) (by decide) (by decide) (by decide) (by decide) (by decide) (by decide) (by decide) (by decide)
    (by decide) (by decide) (by decide) .pipes (by decide)

theorem pipes_dropEntries (s : State) (q id reason : Nat) : (dropEntries s q id reason).pipes = s.pipes :=
  Only.dropEntries (fr := [.regs, .freeCtr, .journal, .owed, .lastRaise, .market, .spill, .sched, .telem, .crier, .flt, .activity])
    s q id reason (Only.refl s) (by decide) (by decide) (by decide) (by decide) (by decide) (by decide) (by decide) (by decide)
    (by decide) (by decide) (by decide) (by decide) .pipes (by decide)

theorem arriving_forEach {α : Type} {f : State → α → State} (hf : ∀ s x, (f s x).pipes.arriving = s.pipes.arriving) (l : List α)
    (s : State) : (forEach l f s).pipes.arriving = s.pipes.arriving :=
  forEach_keeps (P := fun u => u.pipes.arriving = s.pipes.arriving) (fun u x hu => (hf u x).trans hu) l rfl

theorem arriving_settleLength (s : State) (id n : Nat) : (settleLength s id n).pipes.arriving = s.pipes.arriving := by
  unfold settleLength
  exact arriving_forEach (by intros; rfl) _ s

/-- A frame that turns bad ends no other arrival. -/
theorem arriving_badFrame (s : State) (id reason : Nat) : (badFrame s id reason).pipes.arriving = s.pipes.arriving := by
  have hmap : ∀ (u : State) (f : Packet → Packet), (mapPackets u f).pipes.arriving = u.pipes.arriving := fun _ _ => rfl
  have hmark : ∀ u : State, (markEgress u id reason).pipes.arriving = u.pipes.arriving := fun _ => rfl
  rw [badFrame, hmap, loseFrame, arriving_forEach, hmark, arriving_forEach (fun u q => by rw [pipes_dropStaged])]
  intro u q
  split
  · rw [pipes_dropEntries]
  · rfl

/-- Frames that are cut arrive no more, whatever becomes of those still in the hold. -/
theorem arriving_cutArriving {f : State → Packet → State} (hf : ∀ s p, (f s p).pipes.arriving = s.pipes.arriving) (s : State)
    (l : Nat) : (cutArriving s l f).pipes.arriving = s.pipes.arriving.filter (·.port != l) := by
  unfold cutArriving
  extract_lets mine pipes u
  refine arriving_forEach (fun v x => ?_) mine u
  extract_lets w
  have hw : w.pipes.arriving = v.pipes.arriving := arriving_settleLength _ _ _
  split
  · exact (hf _ _).trans hw
  · exact (arriving_badFrame _ _ _).trans hw

theorem reg_cutArriving {a : Nat} (ha : MidBlock a) {f : State → Packet → State} (hf : ∀ s p, reg (f s p) a = reg s a) (s : State)
    (l : Nat) : reg (cutArriving s l f) a = reg s a := by
  have hsettle : ∀ (u : State) (id n : Nat), reg (settleLength u id n) a = reg u a := fun u id n => by
    have hregs : (settleLength u id n).regs = u.regs :=
      Only.settleLength (fr := [.owed, .pipes, .market, .sched, .telem]) u id n (Only.refl u) (by decide) (by decide) (by decide)
        (by decide) (by decide) .regs (by decide)
    rw [reg, hregs, reg]
  unfold cutArriving
  extract_lets mine pipes u
  refine reg_forEach (fun v x => ?_) mine u
  extract_lets w
  have hw : reg w a = reg v a := hsettle _ _ _
  split
  · exact (hf _ _).trans hw
  · exact (reg_badFrame_mid ha _ _ _).trans hw

theorem pipes_enterState (s : State) (l st rate : Nat) (aligned : Bool) : (enterState s l st rate aligned).pipes = s.pipes :=
  Only.enterState (fr := [.regs, .owed, .sched, .ainum, .crier, .flt]) s l st rate aligned (Only.refl s) (by decide) (by decide)
    (by decide) (by decide) (by decide) (by decide) .pipes (by decide)

theorem pipes_ladderDone (s : State) : (ladderDone s).pipes = s.pipes :=
  Only.ladderDone (fr := [.regs, .owed, .crier, .flt]) s (Only.refl s) (by decide) (by decide) (by decide) (by decide) .pipes
    (by decide)

-- EN that goes from 1 to 0 (R142, R144).

section Disable

variable {a l : Nat}

/-- What becomes of a frame that is cut in the ingress hold. -/
def cutHeld (l : Nat) (s : State) (p : Packet) : State := if p.octets.length ≤ 256 then s else dropPacket s (l / 32) 0x23 p p.tally

/-- The port with its arriving frames counted and cut. -/
def cutPort (s : State) (l : Nat) : State :=
  cutArriving (forEach (s.pipes.arriving.filter (·.port == l)) (fun s _ => ledgerAdd s (ldgPort l 8) 1 0) s) l (cutHeld l)

theorem arriving_cutPort (s : State) : (cutPort s l).pipes.arriving = s.pipes.arriving.filter (·.port != l) := by
  have hledger : ∀ (u : State) (_ : Arriving), (ledgerAdd u (ldgPort l 8) 1 0).pipes.arriving = u.pipes.arriving := fun _ _ => rfl
  rw [cutPort, arriving_cutArriving, arriving_forEach hledger]
  intro u p
  rw [cutHeld]
  split
  · rfl
  · rw [pipes_dropPacket]

theorem reg_cutPort (ha : MidBlock a) (s : State) : reg (cutPort s l) a = reg s a := by
  have hledger : ∀ (u : State) (_ : Arriving), reg (ledgerAdd u (ldgPort l 8) 1 0) a = reg u a := fun _ _ => rfl
  rw [cutPort, reg_cutArriving ha, reg_forEach hledger]
  intro u p
  rw [cutHeld]
  split
  · rfl
  · exact reg_dropPacket_mid ha _ _ _ _ _

/-- A head lane goes down to DISABLED with its arriving frames cut. -/
theorem portDown_head {s : State} (h : (portLanes (setBit s (aPortCfg l) 31 false) l).isSome = true) :
    ∃ u : State, portDown s l = ladderDone (enterState u l 0 0 false)
      ∧ (∀ b, MidBlock b → b ≠ aPortState l → reg u b = reg (setBit s (aPortCfg l) 31 false) b)
      ∧ u.pipes.arriving = s.pipes.arriving.filter (·.port != l) := by
  unfold portDown
  extract_lets s1 s2 s3 busy src s4 s5
  have hhead : (!(portLanes s1 l).isSome) ≠ true := by
    rw [show (portLanes s1 l).isSome = true from h]
    decide
  refine ⟨s5, if_neg hhead, fun b hb hne => ?_, arriving_cutPort s1⟩
  calc reg s5 b = reg s3 b := (reg_setF_ne hne).trans (reg_setBit_ne hne)
    _ = reg s1 b := reg_cutPort hb s1

end Disable

-- PORT_CFG (R131, R132, R139).

section PortCfg

variable {a l : Nat} {s : State}

/-- A bit of a word whose bit was replaced. -/
theorem getLsbD_fset_bit (w : Word) (i v : Nat) {k : Nat} (hk : k < 32) :
    (fset w i i v).getLsbD k = if k = i then v.testBit 0 else w.getLsbD k := by
  rw [getLsbD_fset, decide_eq_true hk, Bool.true_and]
  by_cases hki : k = i
  · rw [if_pos ⟨hki.ge, by omega⟩, if_pos hki, hki, Nat.sub_self]
  · rw [if_neg (by omega), if_neg hki]

/-- A bit that is replaced by itself. -/
theorem fset_bit_self (w : Word) (i : Nat) : fset w i i (b2n (w.getLsbD i)) = w := by
  refine BitVec.eq_of_getLsbD_eq fun k hk => ?_
  rw [getLsbD_fset_bit _ _ _ hk, testBit_b2n]
  split
  · rw [‹k = i›]
  · rfl

/-- A bit that is replaced and set back. -/
theorem fset_fset_bit (w : Word) (i v : Nat) : fset (fset w i i v) i i (b2n (w.getLsbD i)) = w := by
  refine BitVec.eq_of_getLsbD_eq fun k hk => ?_
  rw [getLsbD_fset_bit _ _ _ hk, getLsbD_fset_bit _ _ _ hk, testBit_b2n]
  split
  · rw [‹k = i›]
  · rfl

theorem portCfg_ne_portState : aPortCfg l ≠ aPortState l := aLane_ne (by decide) (by decide) (by decide)

theorem portState_ne_portCfg : aPortState l ≠ aPortCfg l := aLane_ne (by decide) (by decide) (by decide)

theorem aLan_ne_aLane {g o o' : Nat} (ho : o < 0x1000) (ho' : o' < 0x100) : aLan g o ≠ aLane l o' := (aLane_ne_aLan ho' ho).symm

theorem reg_noteClash (ha : MidBlock a) (s : State) (hl : l < 1152) : reg (noteClash s l) a = reg s a := by
  unfold noteClash
  split
  · rw [reg_raise_mid ha _ (by omega), reg_setBit_above ha _ (by simp only [aSch]; omega)]
  · rfl

theorem portLanes_setReg_aLane (s : State) {o : Nat} (v : Word) (ho : o < 0x100) :
    portLanes (setReg s (aLane l o) v) l = portLanes s l :=
  portLanes_congr fun _ => reg_setReg_ne (aLan_ne_aLane (by omega) ho)

theorem portLanes_setEn (s : State) (en : Bool) : portLanes (setBit s (aPortCfg l) 31 en) l = portLanes s l :=
  portLanes_setReg_aLane s _ (by decide)

theorem modeReserved_congr {t : State} (hcfg : portRateCfg t l = portRateCfg s l) (hlanes : portLanes t l = portLanes s l) :
    modeReserved t l = modeReserved s l := by
  rw [modeReserved, hcfg, hlanes, modeReserved]

/-- What light reaches a port depends on the bays and their registers alone. -/
theorem portLit_congr {t : State} (hl : l < 1152) (hbays : t.bays = s.bays) (hlanes : portLanes t l = portLanes s l)
    (hbay : ∀ bay o, bay < 9 → o < 0x100 → reg t (aBay bay o) = reg s (aBay bay o)) : portLit t l = portLit s l := by
  have hshare : ∀ bay ch, bay < 9 → shareLit t bay ch = shareLit s bay ch := fun bay ch hlt => by
    have hword : reg64 t (aBay bay 0x38) = reg64 s (aBay bay 0x38) := by
      rw [reg64, hbay bay 0x38 hlt (by decide), show aBay bay 0x38 + 4 = aBay bay 0x3C from rfl, hbay bay 0x3C hlt (by decide), reg64]
      rfl
    rw [shareLit, hbays, hword, shareLit]
  have hinput : ∀ i, inputLit t (l / 32) i = inputLit s (l / 32) i := fun i => by
    simp only [inputLit]
    rw [hshare _ _ (by omega), hshare _ _ (by omega)]
  simp only [portLit, hlanes, hinput]

theorem aBay_ne_aLane {bay o o' : Nat} (hbay : bay < 9) (ho : o < 0x100) : aBay bay o ≠ aLane l o' := by
  simp only [aBay, aLane, aLan]; omega

-- EN that goes from 0 to 1.

theorem portUp_other (h : portLanes s l = none) : portUp s l = setBit s (aPortCfg l) 31 true := by
  unfold portUp
  extract_lets u
  rw [if_pos (by rw [portLanes_setEn, h]; rfl)]

theorem portUp_reserved (h : (portLanes s l).isSome = true) (hmode : modeReserved s l = true) :
    portUp s l = lanErr (setBit s (aPortCfg l) 31 true) l 1 := by
  have hsame : modeReserved (setBit s (aPortCfg l) 31 true) l = modeReserved s l :=
    modeReserved_congr (regF_setF_ne (by decide) (by decide)) (portLanes_setEn s true)
  unfold portUp
  extract_lets u x src v w
  rw [if_neg (by rw [portLanes_setEn, h]; decide), if_pos (hsame.trans hmode)]

/-- A head lane starts in ACQUIRE where its laser inputs carry light, and in NO_SIGNAL otherwise. -/
theorem portUp_head (h : (portLanes s l).isSome = true) (hmode : modeReserved s l = false) :
    ∃ u : State, portUp s l = enterState u l (if portLit s l then 2 else 1) 0 false
      ∧ ∀ b, b ≠ aPortState l → reg u b = reg (setBit s (aPortCfg l) 31 true) b := by
  have hl := lt_of_portLanes h
  have hsame : modeReserved (setBit s (aPortCfg l) 31 true) l = modeReserved s l :=
    modeReserved_congr (regF_setF_ne (by decide) (by decide)) (portLanes_setEn s true)
  unfold portUp
  extract_lets u x src v w
  have hw : ∀ b, b ≠ aPortState l → reg w b = reg u b := fun b hb => reg_setF_ne hb
  have hlit : portLit w l = portLit s l := by
    refine portLit_congr hl rfl ?_ fun bay o hbay ho => ?_
    · exact portLanes_congr fun _ => (hw _ (aLan_ne_aLane (by omega) (by decide))).trans
        (reg_setBit_ne (aLan_ne_aLane (by omega) (by decide)))
    · exact (hw _ (aBay_ne_aLane hbay ho)).trans (reg_setBit_ne (aBay_ne_aLane hbay ho))
  refine ⟨w, ?_, hw⟩
  rw [if_neg (by rw [portLanes_setEn, h]; decide), if_neg (by rw [hsame, hmode]; decide), hlit]

theorem reg_portUp (ha : MidBlock a) (s : State) (hl : l < 1152) (hstate : a ≠ aPortState l) (hup : a ≠ aLan (l / 32) 0x44)
    (hevt : a ≠ aEvtLanes (l / 32) 0) (herr : a ≠ aLan (l / 32) 0x40) (herrEvt : a ≠ aEvtLanes (l / 32) 6) :
    reg (portUp s l) a = reg (setBit s (aPortCfg l) 31 true) a := by
  cases hlanes : portLanes s l with
  | none => rw [portUp_other hlanes]
  | some n =>
    have hhead : (portLanes s l).isSome = true := by rw [hlanes]; rfl
    cases hmode : modeReserved s l
    · obtain ⟨u, hu, hreg⟩ := portUp_head hhead hmode
      rw [hu, reg_enterState ha _ _ _ _ hl hstate hup hevt, hreg a hstate]
    · rw [portUp_reserved hhead hmode, reg_lanErr ha _ _ hl herr herrEvt]

theorem portDown_other (h : portLanes s l = none) : portDown s l = setBit s (aPortCfg l) 31 false := by
  unfold portDown
  extract_lets u
  rw [if_pos (by rw [portLanes_setEn, h]; rfl)]

theorem reg_portDown (ha : MidBlock a) (s : State) (hl : l < 1152) (hstate : a ≠ aPortState l) (hup : a ≠ aLan (l / 32) 0x44)
    (hevt : a ≠ aEvtLanes (l / 32) 0) : reg (portDown s l) a = reg (setBit s (aPortCfg l) 31 false) a := by
  cases hlanes : portLanes s l with
  | none => rw [portDown_other hlanes]
  | some n =>
    obtain ⟨u, hu, hreg, -⟩ := portDown_head (s := s) (l := l) (by rw [portLanes_setEn, hlanes]; rfl)
    rw [hu, reg_ladderDone ha, reg_enterState ha _ _ _ _ hl hstate hup hevt, hreg a ha hstate]

end PortCfg

end Sys2Proof.Proofs
end

section
/-!
Proofs of the statement on port configuration and link events: the configuration writes themselves (R16, R130 to R132), and the
statement.
-/
namespace Sys2Proof.Proofs

open Sys2Proof Sys2Proof.Machine Sys2Proof.Laws

-- OCT_CFG_WRITE (R130, R132).

section OctCfg

variable {g o : Nat} {value : Word} {s : State}

/-- The lanes of an octet. -/
def octLanes (g o : Nat) : List Nat := (List.range 8).map fun k => 32 * g + 8 * o + k

theorem octCfgWrite_eq (hg : g < 36) (ho : o < 4) (hr : s.top.inReset = false) (hs : shut s (aLan g (4 * o)) = false) :
    octCfgWrite g o value s = if (octLanes g o).any (portEn s) then lanErr s (32 * g + 8 * o) 0
      else forEach (octLanes g o) portFlags (setReg s (aLan g (4 * o)) (value &&& 0x7F)) := by
  rw [octCfgWrite, if_neg (by simp; omega), holdWrite_aLan hg (by omega) hr hs]
  rfl

theorem any_octLanes : (octLanes g o).any (portEn s) = true ↔ ∃ k ∈ List.range 8, portEn s (32 * g + 8 * o + k) = true := by
  simp [octLanes]

/-- The octet's configuration changes where none of its lanes is enabled, and is refused with LAN.ERR otherwise. -/
theorem octCfgWrite_completes (hg : g < 36) (ho : o < 4) (hr : s.top.inReset = false) (hs : shut s (aLan g (4 * o)) = false) :
    Completes (.octCfgWrite g o value) s fun t =>
      ((∀ k : Nat, k < 8 → portEn s (32 * g + 8 * o + k) = false) → reg t (aLan g (4 * o)) = value &&& 0x7F)
      ∧ ((∃ k ∈ List.range 8, portEn s (32 * g + 8 * o + k) = true) →
          reg t (aLan g (4 * o)) = reg s (aLan g (4 * o)) ∧ regBit t (aLan g 0x40) 0 = true) := by
  refine ⟨octCfgWrite g o value s, rfl, fun hfree => ?_, fun hsome => ?_⟩
  · have hnone : (octLanes g o).any (portEn s) ≠ true := fun h => by
      obtain ⟨k, hk, hen⟩ := any_octLanes.mp h
      rw [hfree k (List.mem_range.mp hk)] at hen
      cases hen
    have hflags : ∀ (u : State) (l : Nat), reg (portFlags u l) (aLan g (4 * o)) = reg u (aLan g (4 * o)) := fun u l =>
      reg_portFlags u (aLan_ne_aLane (by omega) (by decide)) (aLan_ne (by omega) (by decide) (by omega))
    rw [octCfgWrite_eq hg ho hr hs, if_neg hnone, reg_forEach hflags, reg_setReg_same]
  · have hgroup : (32 * g + 8 * o) / 32 = g := by omega
    have hbit := regBit_lanErr (l := 32 * g + 8 * o) s (bit := 0) (by omega) (by decide)
    rw [hgroup] at hbit
    rw [octCfgWrite_eq hg ho hr hs, if_pos (any_octLanes.mpr hsome)]
    refine ⟨reg_lanErr (midBlock_aLan hg (by omega)) s 0 (by omega) ?_ ?_, hbit⟩
    · exact aLan_ne (by omega) (by decide) (by omega)
    · exact aLan_ne (by omega) (by decide) (by omega)

end OctCfg

-- PORT_CFG_WRITE (R132).

section PortCfgWrite

variable {a l : Nat} {s : State} {new : Word}

/-- PORT_CFG with every field of a write but EN, which acts on its own. -/
def portCfgSet (s : State) (l : Nat) (new : Word) : State :=
  portFlags (setReg s (aPortCfg l) (fset new 31 31 (b2n ((reg s (aPortCfg l)).getLsbD 31)))) l

/-- A write that is not refused. -/
def portCfgApplied (s : State) (l : Nat) (new : Word) : State :=
  if new.getLsbD 31 && !(reg s (aPortCfg l)).getLsbD 31 then noteClash (portUp (portCfgSet s l new) l) l
  else if !new.getLsbD 31 && (reg s (aPortCfg l)).getLsbD 31 then portDown (portCfgSet s l new) l
  else portCfgSet s l new

/-- A write that LAN.ERR refuses: it changes a field of a lane that is not in DISABLED. -/
def portCfgRefused (s : State) (l : Nat) (new : Word) : Bool :=
  ((reg s (aPortCfg l)).getLsbD 31 || portState s l != 0) && (new &&& 0x7FFFFFFF) != (reg s (aPortCfg l) &&& 0x7FFFFFFF)

theorem portCfgWrite_eq {value : Word} (hl : l < 1152) (hr : s.top.inReset = false) (hs : shut s (aPortCfg l) = false) :
    portCfgWrite l value s =
      if portCfgRefused s l (portCfgNew (reg s (aPortCfg l)) value) then lanErr s l 0
      else portCfgApplied s l (portCfgNew (reg s (aPortCfg l)) value) := by
  rw [portCfgWrite, if_neg (by simp; omega)]
  exact holdWrite_aLan (by omega) (by omega) hr hs

theorem portsUp_ne_portCfg {g : Nat} : aPortCfg l ≠ aLan g 0x44 := aLane_ne_aLan (by decide) (by decide)

theorem portCfg_ne_evtLanes {g j : Nat} (hj : j < 8) : aPortCfg l ≠ aEvtLanes g j := aLane_ne_aLan (by decide) (by omega)

theorem reg_portCfgSet_same : reg (portCfgSet s l new) (aPortCfg l) = fset new 31 31 (b2n ((reg s (aPortCfg l)).getLsbD 31)) := by
  rw [portCfgSet, reg_portFlags _ portCfg_ne_portState portsUp_ne_portCfg, reg_setReg_same]

theorem reg_portCfgSet_ne (hcfg : a ≠ aPortCfg l) (hstate : a ≠ aPortState l) (hup : a ≠ aLan (l / 32) 0x44) :
    reg (portCfgSet s l new) a = reg s a := by
  rw [portCfgSet, reg_portFlags _ hstate hup, reg_setReg_ne hcfg]

theorem portState_portCfgSet : portState (portCfgSet s l new) l = portState s l := by
  rw [portState, portCfgSet, regF_portFlags _ (by decide), regF_of_reg (reg_setReg_ne portState_ne_portCfg), portState]

theorem portLanes_portCfgSet : portLanes (portCfgSet s l new) l = portLanes s l :=
  portLanes_congr fun _ => reg_portCfgSet_ne (aLan_ne_aLane (by omega) (by decide)) (aLan_ne_aLane (by omega) (by decide))
    (aLan_ne (by omega) (by decide) (by omega))

theorem portLit_portCfgSet (hl : l < 1152) : portLit (portCfgSet s l new) l = portLit s l :=
  portLit_congr hl rfl portLanes_portCfgSet fun bay o hbay ho =>
    reg_portCfgSet_ne (aBay_ne_aLane hbay ho) (aBay_ne_aLane hbay ho) (by simp only [aBay, aLan]; omega)

/-- PORT_CFG after EN has gone to 1. -/
theorem reg_enabled (hl : l < 1152) (hen : new.getLsbD 31 = true) :
    reg (noteClash (portUp (portCfgSet s l new) l) l) (aPortCfg l) = new := by
  rw [reg_noteClash (midBlock_portCfg hl) _ hl, reg_portUp (midBlock_portCfg hl) _ hl portCfg_ne_portState portsUp_ne_portCfg
    (portCfg_ne_evtLanes (by decide)) (aLane_ne_aLan (by decide) (by decide)) (portCfg_ne_evtLanes (by decide)),
    reg_setBit_same, reg_portCfgSet_same, ← hen, fset_fset_bit]

/-- PORT_CFG after EN has gone to 0. -/
theorem reg_disabled (hl : l < 1152) (hen : new.getLsbD 31 = false) : reg (portDown (portCfgSet s l new) l) (aPortCfg l) = new := by
  rw [reg_portDown (midBlock_portCfg hl) _ hl portCfg_ne_portState portsUp_ne_portCfg (portCfg_ne_evtLanes (by decide)),
    reg_setBit_same, reg_portCfgSet_same, ← hen, fset_fset_bit]

/-- A write that is applied leaves its value. -/
theorem reg_portCfgApplied (hl : l < 1152) : reg (portCfgApplied s l new) (aPortCfg l) = new := by
  cases hnew : new.getLsbD 31 <;> cases hold : (reg s (aPortCfg l)).getLsbD 31 <;> rw [portCfgApplied, hnew, hold]
  case false.false => exact reg_portCfgSet_same.trans (by rw [hold, ← hnew, fset_bit_self])
  case false.true => exact reg_disabled hl hnew
  case true.false => exact reg_enabled hl hnew
  case true.true => exact reg_portCfgSet_same.trans (by rw [hold, ← hnew, fset_bit_self])

/-- A configuration write is applied to a lane in DISABLED, and where it keeps the fields. -/
theorem portCfgWrite_applies {value : Word} (hl : l < 1152) (hr : s.top.inReset = false) (hs : shut s (aPortCfg l) = false)
    (hfree : (regBit s (aPortCfg l) 31 = false ∧ portState s l = 0)
      ∨ portCfgNew (reg s (aPortCfg l)) value &&& 0x7FFFFFFF = reg s (aPortCfg l) &&& 0x7FFFFFFF) :
    portCfgWrite l value s = portCfgApplied s l (portCfgNew (reg s (aPortCfg l)) value) := by
  have hok : portCfgRefused s l (portCfgNew (reg s (aPortCfg l)) value) = false := by
    rcases hfree with ⟨hen, hst⟩ | hsame
    · rw [portCfgRefused, show (reg s (aPortCfg l)).getLsbD 31 = false from hen, hst]
      rfl
    · rw [portCfgRefused, hsame, bne_self_eq_false, Bool.and_false]
  rw [portCfgWrite_eq hl hr hs, hok]
  rfl

theorem portCfgWrite_refuses {value : Word} (hl : l < 1152) (hr : s.top.inReset = false) (hs : shut s (aPortCfg l) = false)
    (hbusy : regBit s (aPortCfg l) 31 = true ∨ portState s l ≠ 0)
    (hother : portCfgNew (reg s (aPortCfg l)) value &&& 0x7FFFFFFF ≠ reg s (aPortCfg l) &&& 0x7FFFFFFF) :
    portCfgWrite l value s = lanErr s l 0 := by
  have hno : portCfgRefused s l (portCfgNew (reg s (aPortCfg l)) value) = true := by
    rw [portCfgRefused, Bool.and_eq_true, Bool.or_eq_true]
    exact ⟨hbusy.imp id fun h => by simpa using h, by simpa using hother⟩
  rw [portCfgWrite_eq hl hr hs, hno]
  rfl

/-- A bit above the field that was replaced. -/
theorem getLsbD_fset_above (w : Word) {hi i : Nat} (lo v : Nat) (hhi : hi < i) (hi32 : i < 32) :
    (fset w hi lo v).getLsbD i = w.getLsbD i := by
  rw [getLsbD_fset, if_neg (by omega), decide_eq_true hi32, Bool.true_and]

/-- EN stands in every write. -/
theorem getLsbD_portCfgNew (old value : Word) : (portCfgNew old value).getLsbD 31 = value.getLsbD 31 := by
  have hkeep : ∀ (c : Prop) [Decidable c] (w : Word) (hi lo v : Nat), hi < 31 →
      (if c then fset w hi lo v else w).getLsbD 31 = w.getLsbD 31 := fun c _ w hi lo v h => by
    split
    · exact getLsbD_fset_above w lo v h (by decide)
    · rfl
  have hmask : (value &&& 0xFC003FFF).getLsbD 31 = value.getLsbD 31 := by simp
  rw [portCfgNew, hkeep _ _ _ _ _ (by decide), hkeep _ _ _ _ _ (by decide), hkeep _ _ _ _ _ (by decide), hmask]

/-- The rate of a write that keeps it. -/
theorem fget_rate_portCfgNew {old value : Word} (h : fget value 30 29 = fget old 30 29) :
    fget (portCfgNew old value) 30 29 = fget old 30 29 := by
  have hkeep : ∀ (c : Prop) [Decidable c] (w : Word) (hi lo v : Nat), hi < 29 →
      fget (if c then fset w hi lo v else w) 30 29 = fget w 30 29 := fun c _ w hi lo v hlt => by
    split
    · exact fget_fset_ne w v (by decide) (.inr hlt)
    · rfl
  have hmask : fget (value &&& 0xFC003FFF) 30 29 = fget old 30 29 := by
    rw [← h]
    refine Nat.eq_of_testBit_eq fun i => ?_
    rw [testBit_fget, testBit_fget, BitVec.getLsbD_and]
    by_cases hi : i < 2
    · interval_cases i <;> simp
    · simp [hi]
  have hrate : fget old 30 29 < 4 := Nat.mod_lt _ (by decide)
  rw [portCfgNew, hkeep _ _ _ _ _ (by decide), hkeep _ _ _ _ _ (by decide)]
  split
  · rw [fget_fset_same _ _ (by decide)]
    exact Nat.mod_eq_of_lt hrate
  · exact hmask

/-- A lane that a write enables: it starts by its light, or LAN.ERR refuses its mode, or it is no head lane. -/
theorem portEnable_starts (hl : l < 1152) (hr : s.top.inReset = false) (hs : shut s (aPortCfg l) = false)
    (hoff : regBit s (aPortCfg l) 31 = false) (hst : portState s l = 0) :
    Completes (.portEnable l) s fun t => regBit t (aPortCfg l) 31 = true
      ∧ ((portLanes s l).isSome = true → modeReserved s l = false → portState t l = (if portLit s l then 2 else 1))
      ∧ ((portLanes s l).isSome = true → modeReserved s l = true → portState t l = 0 ∧ regBit t (aLan (l / 32) 0x40) 1 = true)
      ∧ (portLanes s l = none → portState t l = 0) := by
  have hmid := midBlock_portState hl
  obtain ⟨value, hvalue⟩ : ∃ v, v = reg s (aPortCfg l) ||| 0x80000000 := ⟨_, rfl⟩
  obtain ⟨new, hnew⟩ : ∃ v, v = portCfgNew (reg s (aPortCfg l)) value := ⟨_, rfl⟩
  have hen : new.getLsbD 31 = true := by
    rw [hnew, getLsbD_portCfgNew, hvalue]
    simp
  have hrate : fget new 30 29 = portRateCfg s l := by
    rw [hnew]
    refine fget_rate_portCfgNew ?_
    rw [hvalue]
    refine Nat.eq_of_testBit_eq fun i => ?_
    rw [testBit_fget, testBit_fget, BitVec.getLsbD_or]
    by_cases hi : i < 2
    · interval_cases i <;> simp
    · simp [hi]
  have hlanes : portLanes (portCfgSet s l new) l = portLanes s l := portLanes_portCfgSet
  have hmode : modeReserved (portCfgSet s l new) l = modeReserved s l := by
    refine modeReserved_congr ?_ hlanes
    rw [portRateCfg, regF, reg_portCfgSet_same, fget_fset_ne _ _ (by decide) (by decide), hrate]
  have hexec : exec (.portEnable l) s = .next (noteClash (portUp (portCfgSet s l new) l) l) := by
    change Host.Outcome.next (portCfgWrite l (reg s (aPortCfg l) ||| 0x80000000) s) = _
    rw [← hvalue, portCfgWrite_applies hl hr hs (.inl ⟨hoff, hst⟩), ← hnew, portCfgApplied, hen,
      show (reg s (aPortCfg l)).getLsbD 31 = false from hoff]
    rfl
  have hclash : ∀ u, portState (noteClash u l) l = portState u l := fun u => regF_of_reg (reg_noteClash hmid u hl) _ _
  have hsetEn : portState (setBit (portCfgSet s l new) (aPortCfg l) 31 true) l = 0 :=
    (regF_of_reg (reg_setBit_ne portState_ne_portCfg) _ _).trans (portState_portCfgSet.trans hst)
  refine ⟨_, hexec, ?_, fun hhead hok => ?_, fun hhead hbad => ?_, fun hno => ?_⟩
  · rw [regBit, reg_enabled hl hen, hen]
  · obtain ⟨u, hu, -⟩ := portUp_head (hlanes.symm ▸ hhead) (hmode.trans hok)
    rw [hclash, hu, portState_enterState _ _ _ hl (by split <;> decide), portLit_portCfgSet hl]
  · have hup := portUp_reserved (hlanes.symm ▸ hhead) (hmode.trans hbad)
    rw [hclash, hup]
    constructor
    · exact (regF_of_reg (reg_lanErr hmid _ _ hl (aLane_ne_aLan (by decide) (by decide)) (aLane_ne_aLan (by decide) (by decide)))
        _ _).trans hsetEn
    · rw [regBit_of_reg (reg_noteClash (midBlock_aLan (by omega) (by decide)) _ hl), regBit_lanErr _ hl (by decide)]
  · rw [hclash, portUp_other (hlanes.trans hno), hsetEn]

/-- A lane that a write disables is in DISABLED, and nothing arrives there. -/
theorem portDisable_stops (hl : l < 1152) (hr : s.top.inReset = false) (hs : shut s (aPortCfg l) = false)
    (hon : regBit s (aPortCfg l) 31 = true)
    (hkeep : portCfgNew (reg s (aPortCfg l)) (reg s (aPortCfg l) &&& 0x7FFFFFFF) = reg s (aPortCfg l) &&& 0x7FFFFFFF) :
    Completes (.portDisable l) s fun t => regBit t (aPortCfg l) 31 = false
      ∧ ((portLanes s l).isSome = true → portState t l = 0 ∧ ∀ a ∈ t.pipes.arriving, a.port ≠ l)
      ∧ (portLanes s l = none → portState t l = portState s l) := by
  obtain ⟨new, hnew⟩ : ∃ v, v = reg s (aPortCfg l) &&& 0x7FFFFFFF := ⟨_, rfl⟩
  rw [← hnew] at hkeep
  have hen : new.getLsbD 31 = false := by
    rw [hnew]
    simp
  have hsame : portCfgNew (reg s (aPortCfg l)) new &&& 0x7FFFFFFF = reg s (aPortCfg l) &&& 0x7FFFFFFF := by
    rw [hkeep, hnew, BitVec.and_assoc, BitVec.and_self]
  have hexec : exec (.portDisable l) s = .next (portDown (portCfgSet s l new) l) := by
    change Host.Outcome.next (portCfgWrite l (reg s (aPortCfg l) &&& 0x7FFFFFFF) s) = _
    rw [← hnew, portCfgWrite_applies hl hr hs (.inr hsame), hkeep, portCfgApplied, hen,
      show (reg s (aPortCfg l)).getLsbD 31 = true from hon]
    rfl
  have hlanes : portLanes (portCfgSet s l new) l = portLanes s l := portLanes_portCfgSet
  refine ⟨_, hexec, ?_, fun hhead => ?_, fun hno => ?_⟩
  · rw [regBit, reg_disabled hl hen, hen]
  · obtain ⟨u, hu, -, harr⟩ := portDown_head (((portLanes_setEn _ false).trans hlanes).symm ▸ hhead)
    rw [hu]
    refine ⟨(portState_ladderDone hl).trans (portState_enterState _ _ _ hl (by decide)), fun x hx => ?_⟩
    rw [pipes_ladderDone, pipes_enterState, harr] at hx
    simpa using (List.mem_filter.mp hx).2
  · rw [portDown_other (hlanes.trans hno)]
    exact (regF_of_reg (reg_setBit_ne portState_ne_portCfg) _ _).trans portState_portCfgSet

end PortCfgWrite

/-- Settles O26: each configuration write and link event by what the operations on links leave in the registers of the lane and its
group. -/
theorem portsComplete : Obligations.PortsComplete := by
  unfold Obligations.PortsComplete
  refine ⟨fun g o value s _ hg ho hr hs => octCfgWrite_completes hg ho hr hs,
    fun lane value s _ hl hr hs hfree => ⟨_, rfl, ?_⟩,
    fun lane value s _ hl hr hs hbusy hother => ⟨_, rfl, ?_⟩,
    fun lane s _ hl hr hs hoff hst => portEnable_starts hl hr hs hoff hst,
    fun lane s _ hl hr hs hon hkeep => portDisable_stops hl hr hs hon hkeep,
    fun port skew s _ h hk => portAligned_up h hk,
    fun port skew s _ h hk => portAligned_skewed h hk,
    fun lane l gone s _ hlane hport hlive hst hgone => lossOfSignal_down hlane hport hlive hst hgone,
    fun port localFault s _ hlive hst => faultReceived_fault localFault hlive hst,
    fun port s _ hlive hst => faultCleared_up hlive hst,
    fun port s _ hlive hst hlit => signalPresent_acquires hlive hst hlit,
    fun port s _ h => recoveryEnd_clears h⟩
  · rw [portCfgWrite_applies hl hr hs hfree]
    exact reg_portCfgApplied hl
  · rw [portCfgWrite_refuses hl hr hs hbusy hother]
    exact ⟨reg_lanErr (midBlock_portCfg hl) s 0 hl (aLane_ne_aLan (by decide) (by decide)) (portCfg_ne_evtLanes (by decide)),
      regBit_lanErr s hl (by decide)⟩

end Sys2Proof.Proofs
end

section
/-!
Proofs of the statement on the ladder, FEC counters and the equaliser (R135, R139 to R148, R392).
-/
namespace Sys2Proof.Proofs

open Sys2Proof Sys2Proof.Machine Sys2Proof.Laws

-- The ladder (R139, R140, R142, R392).

section Ladder

variable {l : Nat} {s : State}

theorem portLive_of_mayStep (h : mayStep s l = true) : portLive s l = true := by
  simp only [mayStep, Bool.and_eq_true] at h
  exact h.1.1.1.1

theorem portState_of_mayStep (h : mayStep s l = true) : portState s l = 3 := by
  simp only [mayStep, Bool.and_eq_true, beq_iff_eq] at h
  exact h.1.1.2

/-- A message that is queued waits to be sent. -/
theorem mem_pend_queueMsg (s : State) (l : Nat) (m : AinMsg) : m ∈ (getAin (queueMsg s l m) l).pend := by
  have hain : getAin (queueMsg s l m) l =
      { getAin s l with pend := (getAin s l).pend.filter (·.type != m.type) ++ [m] } := mapGet_mapPut_same
  rw [hain]
  exact List.mem_append_right _ (List.mem_singleton.mpr rfl)

/-- The initiator proposes the step, once its number counts (R139, R392). -/
theorem ladderStepPropose_proposes (hmay : mayStep s l = true) (hfw : fwRuns s = true) (hen : ainumEn s l = true)
    (hpeer : ainPeer s l = true) (hcap : allCapable s l = true) (hretry : (getPort s l).retry = false)
    (hnone : (getPort s l).proposed = none) (hinit : s.top.fuses.selfId < reg64 s (aAinPort l 8))
    (hspan : regBit s (aSlot l 0) 29 = false) :
    Completes (.ladderStepPropose l) s fun t => (getPort t l).proposed = some ((getPort s l).stepNo % 256)
      ∧ (getPort t l).stepNo = ((getPort s l).stepNo % 256 + 1) % 256
      ∧ mkMsg 3 0 ((getPort s l).stepNo % 256) 0 ∈ (getAin t l).pend := by
  obtain ⟨x, hx⟩ : ∃ x : PortSt, x = { getPort s l with
    proposed := some ((getPort s l).stepNo % 256), stepNo := ((getPort s l).stepNo % 256 + 1) % 256 } := ⟨_, rfl⟩
  have hexec : exec (.ladderStepPropose l) s =
      .next (queueMsg (setPort s l x) l (mkMsg 3 0 ((getPort s l).stepNo % 256) 0)) := by
    change execLadderStepPropose l s = _
    simp [execLadderStepPropose, hmay, hfw, hen, hpeer, hcap, hretry, hnone, hinit, hspan, hx]
  have hport : getPort (queueMsg (setPort s l x) l (mkMsg 3 0 ((getPort s l).stepNo % 256) 0)) l = x := getPort_setPort s x
  exact ⟨_, hexec, by rw [hport, hx], by rw [hport, hx], mem_pend_queueMsg _ _ _⟩

/-- The transmitters switch, and the peer is lost (R139, R390). -/
theorem stepTransmitterSwitch_steps (hlive : portLive s l = true) (htaken : (getPort s l).stepTaken = true)
    (hst : portState s l = 3) :
    Completes (.stepTransmitterSwitch l) s fun t => portState t l = 4 ∧ rateNow t l = 1 ∧ ainPeer t l = false := by
  have hl := lt_of_portLive hlive
  have hexec : exec (.stepTransmitterSwitch l) s = .next (enterState s l 4 1 false) := by
    change execStepTransmitterSwitch l s = _
    simp [execStepTransmitterSwitch, hlive, htaken, hst]
  exact ⟨_, hexec, portState_enterState s 1 false hl (by decide), rateNow_enterState s 4 false hl (by decide),
    ainPeer_enterState s 1 false hl (by decide) (by simp [carries, hst]) (by decide)⟩

/-- What a recorded ladder leaves of the registers. -/
theorem reg_recorded {a : Nat} (ha : MidBlock a) (s : State) : reg (ladderDone (recordLadder s l)) a = reg s a :=
  (reg_ladderDone ha _).trans (reg_recordLadder ha s)

theorem getPort_recorded (s : State) : getPort (ladderDone (recordLadder s l)) l = getPort s l :=
  getPort_of_ports ((ports_ladderDone _).trans (ports_recordLadder s))

/-- A step that succeeds brings the port to UP at 200 Gbit/s per lane, with event 1 and RECOVERY as it was (R139, R143). -/
theorem ladderStepSuccess_up {skew : Nat} (hlive : portLive s l = true) (hst : portState s l = 4) (hlad : isLadder s l = true)
    (hk : skew ≤ 180) (hfault : regF s (aPortState l) 24 23 = 0) :
    Completes (.ladderStepSuccess l skew) s fun t => portState t l = 5 ∧ rateNow t l = 2
      ∧ (getPort t l).finished = true ∧ (getPort t l).stepTaken = false ∧ regBit t (aEvtLanes (l / 32) 1) (l % 32) = true
      ∧ regBit t (aPortState l) 18 = regBit s (aPortState l) 18 := by
  have hl := lt_of_portLive hlive
  obtain ⟨u, hu⟩ : ∃ u, u = modPort (setF s (aPortState l) 7 0 skew) l fun x =>
    { x with stepTaken := false, full := true, finished := true, fromFault := false } := ⟨_, rfl⟩
  have hexec : exec (.ladderStepSuccess l skew) s = .next (ladderDone (recordLadder (laneEvent (enterUp u l) l 1) l)) := by
    change execLadderStepSuccess l skew s = _
    simp [execLadderStepSuccess, hlive, hst, hk, hfault, hu]
  have hport : getPort u l = { getPort s l with stepTaken := false, full := true, finished := true, fromFault := false } := by
    rw [hu, getPort_modPort]
    rfl
  have hladder : isLadder u l = true := by
    rw [hu, ← hlad]
    exact isLadder_congr (reg_setF_ne portCfg_ne_portState)
  have hfull : fullRate u l = true := by rw [fullRate, hladder, hport]; simp
  have hrec : regBit u (aPortState l) 18 = regBit s (aPortState l) 18 := by
    rw [hu]
    exact regBit_setF_ne (by decide) (by decide)
  have hend : reg (ladderDone (recordLadder (laneEvent (enterUp u l) l 1) l)) (aPortState l) = reg (enterUp u l) (aPortState l) :=
    (reg_recorded (midBlock_portState hl) _).trans
      (reg_laneEvent (midBlock_portState hl) _ hl (by decide) (aLane_ne_aLan (by decide) (by decide)))
  have hportEnd : getPort (ladderDone (recordLadder (laneEvent (enterUp u l) l 1) l)) l =
      { getPort u l with fromFault := false, finished := (getPort u l).finished || (isLadder u l && fullRate u l) } :=
    (getPort_recorded _).trans ((getPort_of_ports (ports_laneEvent _ _)).trans (getPort_enterUp u))
  refine ⟨_, hexec, ?_, ?_, ?_, ?_, ?_, ?_⟩
  · rw [portState, regF_of_reg hend]
    exact (portState_enterUp u hl).trans (by rw [hport]; simp)
  · rw [rateNow, regF_of_reg hend]
    exact (rateNow_enterUp u hl).trans (by rw [hfull]; rfl)
  · rw [hportEnd, hport]
    rfl
  · rw [hportEnd, hport]
  · rw [regBit_of_reg (reg_recorded (midBlock_evtLanes hl (by decide)) _), regBit_laneEvent _ hl (by decide)]
  · rw [regBit_of_reg hend, recovery_enterUp u hl, hport, hrec]
    rfl

-- A ladder that ends short of 200 Gbit/s, and tries that fail (R140).

theorem getPort_portFlags (s : State) : getPort (portFlags s l) l = getPort s l := rfl

theorem getPort_holdLadder (s : State) :
    getPort (holdLadder s l) l = { getPort s l with finished := true, retry := false, proposed := none } := by
  rw [holdLadder, getPort_recorded, getPort_portFlags, getPort_of_ports (ports_laneEvent _ _), getPort_modPort]

theorem regF_holdLadder (s : State) (hl : l < 1152) {hi lo : Nat} (h : hi < 19 ∨ (20 < lo ∧ hi < 32)) :
    regF (holdLadder s l) (aPortState l) hi lo = regF s (aPortState l) hi lo := by
  rw [holdLadder, regF_of_reg (reg_recorded (midBlock_portState hl) _), regF_portFlags _ h,
    regF_of_reg (reg_laneEvent (midBlock_portState hl) _ hl (by decide) (aLane_ne_aLan (by decide) (by decide)))]
  rfl

/-- Event 2 shows the lane. -/
theorem event_holdLadder (s : State) (hl : l < 1152) : regBit (holdLadder s l) (aEvtLanes (l / 32) 2) (l % 32) = true := by
  have hstate : aEvtLanes (l / 32) 2 ≠ aPortState l := aLan_ne_aLane (by decide) (by decide)
  have hup : aEvtLanes (l / 32) 2 ≠ aLan (l / 32) 0x44 := aLan_ne (by decide) (by decide) (.inr (by decide))
  rw [holdLadder, regBit_of_reg (reg_recorded (midBlock_evtLanes hl (by decide)) _), regBit_of_reg (reg_portFlags _ hstate hup),
    regBit_laneEvent _ hl (by decide)]

/-- The port after a try that has failed: retried, or with the third try finished. -/
theorem getPort_tryFailed (s : State) : getPort (tryFailed s l) l =
    if 2 ≤ regF s (aPortState l) 17 16 then { getPort s l with finished := true, retry := false, proposed := none }
    else { getPort s l with retry := true, proposed := none } := by
  rw [tryFailed]
  by_cases h : 2 ≤ regF s (aPortState l) 17 16
  · rw [if_pos (by omega), if_pos h]
    exact getPort_holdLadder _
  · rw [if_neg (by omega), if_neg h]
    exact getPort_modPort _ _

/-- A failed try writes STEP_TRIES, and keeps the state of the port. -/
theorem regF_tryFailed (s : State) (hl : l < 1152) {hi lo : Nat} (h : hi < 19 ∨ (20 < lo ∧ hi < 32)) :
    regF (tryFailed s l) (aPortState l) hi lo =
      regF (setF s (aPortState l) 17 16 (min 3 (regF s (aPortState l) 17 16 + 1))) (aPortState l) hi lo := by
  rw [tryFailed]
  split
  · exact regF_holdLadder _ hl h
  · rfl

theorem tries_tryFailed (s : State) (hl : l < 1152) :
    regF (tryFailed s l) (aPortState l) 17 16 = min 3 (regF s (aPortState l) 17 16 + 1) := by
  rw [regF_tryFailed s hl (by decide), regF_setF_same (by decide)]
  exact Nat.mod_eq_of_lt (by omega)

theorem portState_tryFailed (s : State) (hl : l < 1152) : portState (tryFailed s l) l = portState s l := by
  rw [portState, regF_tryFailed s hl (by decide), regF_setF_ne (by decide) (by decide), portState]

/-- A failed step counts in STEP_TRIES, and takes a port that is not in NO_SIGNAL to ACQUIRE. -/
theorem ladderStepFail_fails (hlive : portLive s l = true) (htaken : (getPort s l).stepTaken = true) :
    Completes (.ladderStepFail l) s fun t => (getPort t l).stepTaken = false
      ∧ portState t l = (if portState s l = 1 then 1 else 2)
      ∧ regF t (aPortState l) 17 16 = min 3 (regF s (aPortState l) 17 16 + 1)
      ∧ (regF s (aPortState l) 17 16 < 2 → (getPort t l).retry = true)
      ∧ (2 ≤ regF s (aPortState l) 17 16 → (getPort t l).finished = true) := by
  have hl := lt_of_portLive hlive
  obtain ⟨u, hu⟩ : ∃ u, u = modPort s l fun x => { x with stepTaken := false, full := false } := ⟨_, rfl⟩
  have htries : ∀ hi lo, regF u (aPortState l) hi lo = regF s (aPortState l) hi lo := fun _ _ => by rw [hu]; rfl
  have htaken' : (getPort u l).stepTaken = false := by rw [hu, getPort_modPort]
  have hexec : exec (.ladderStepFail l) s = .next (if portState s l = 1 then tryFailed u l
      else enterState (setF (tryFailed u l) (aPortState l) 24 23 0) l 2 0 false) := by
    change execLadderStepFail l s = _
    simp only [execLadderStepFail, hlive, htaken, hu]
    rfl
  have hport : ∀ t, getPort t l = getPort (tryFailed u l) l → (getPort t l).stepTaken = false
      ∧ (regF s (aPortState l) 17 16 < 2 → (getPort t l).retry = true)
      ∧ (2 ≤ regF s (aPortState l) 17 16 → (getPort t l).finished = true) := fun t ht => by
    rw [ht, getPort_tryFailed, htries]
    by_cases h : 2 ≤ regF s (aPortState l) 17 16
    · rw [if_pos h]
      exact ⟨htaken', fun hlt => absurd hlt (by omega), fun _ => rfl⟩
    · rw [if_neg h]
      exact ⟨htaken', fun _ => rfl, fun hge => absurd hge h⟩
  have hcount := tries_tryFailed u hl
  rw [htries] at hcount
  refine ⟨_, hexec, ?_⟩
  split
  · obtain ⟨hst, hretry, hfinished⟩ := hport (tryFailed u l) rfl
    have hkept : portState (tryFailed u l) l = 1 := by
      rw [portState_tryFailed u hl, portState, htries]
      assumption
    exact ⟨hst, hkept, hcount, hretry, hfinished⟩
  · obtain ⟨hst, hretry, hfinished⟩ :=
      hport (enterState (setF (tryFailed u l) (aPortState l) 24 23 0) l 2 0 false) (getPort_of_ports (ports_enterState _ _ _ _))
    refine ⟨hst, portState_enterState _ _ _ hl (by decide), ?_, hretry, hfinished⟩
    rw [regF_enterState_other _ _ _ _ hl (by decide), regF_setF_ne (by decide) (by decide), hcount]

/-- A proposal without an answer is a failed try (R140, R392). -/
theorem stepAckTimeout_fails (hfw : fwRuns s = true) (hmay : mayStep s l = true) (hsome : (getPort s l).proposed ≠ none) :
    Completes (.stepAckTimeout l) s fun t => regF t (aPortState l) 17 16 = min 3 (regF s (aPortState l) 17 16 + 1)
      ∧ (getPort t l).proposed = none ∧ (regF s (aPortState l) 17 16 < 2 → (getPort t l).retry = true)
      ∧ (2 ≤ regF s (aPortState l) 17 16 → (getPort t l).finished = true) := by
  have hexec : exec (.stepAckTimeout l) s = .next (tryFailed s l) := by
    change execStepAckTimeout l s = _
    simp [execStepAckTimeout, hfw, hmay, Option.isSome_iff_ne_none.mpr hsome]
  refine ⟨_, hexec, tries_tryFailed s (lt_of_portLive (portLive_of_mayStep hmay)), ?_⟩
  rw [getPort_tryFailed]
  by_cases h : 2 ≤ regF s (aPortState l) 17 16
  · rw [if_pos h]
    exact ⟨rfl, fun hlt => absurd hlt (by omega), fun _ => rfl⟩
  · rw [if_neg h]
    exact ⟨rfl, fun _ => rfl, fun hge => absurd hge h⟩

/-- The next try begins, and nothing else changes (R140). -/
theorem ladderRetry_retries (hfw : fwRuns s = true) (hretry : (getPort s l).retry = true) :
    Completes (.ladderRetry l) s fun t => getPort t l = { getPort s l with retry := false } ∧ t.regs = s.regs := by
  have hexec : exec (.ladderRetry l) s = .next (modPort s l fun x => { x with retry := false }) := by
    change execLadderRetry l s = _
    simp [execLadderRetry, hfw, hretry]
  exact ⟨_, hexec, getPort_modPort _ _, rfl⟩

/-- With no peer the port holds UP_LADDER (R140). -/
theorem ladderNoPeer_holds (hfw : fwRuns s = true) (hmay : mayStep s l = true) (hpeer : ainPeer s l = false) :
    Completes (.ladderNoPeer l) s fun t => (getPort t l).finished = true ∧ portState t l = 3
      ∧ regBit t (aEvtLanes (l / 32) 2) (l % 32) = true := by
  have hl := lt_of_portLive (portLive_of_mayStep hmay)
  have hexec : exec (.ladderNoPeer l) s = .next (holdLadder s l) := by
    change execLadderNoPeer l s = _
    simp [execLadderNoPeer, hfw, hmay, hpeer]
  refine ⟨_, hexec, ?_, ?_, event_holdLadder s hl⟩
  · rw [getPort_holdLadder]
  · rw [portState, regF_holdLadder s hl (by decide)]
    exact portState_of_mayStep hmay

end Ladder

-- FEC counters (R135, R148).

section Fec

variable {a b n : Nat} {s : State}

/-- A 64-bit counter after an addition. -/
theorem reg64_add64_same (s : State) (a n : Nat) : reg64 (add64 s a n) a = (reg64 s a + n) % 2 ^ 64 := by
  have hlow : reg (add64 s a n) a = BitVec.ofNat 32 (reg64 s a + n) := by
    rw [add64, setReg64, reg_setReg_ne (by omega), reg_setReg_same]
  have hhigh : reg (add64 s a n) (a + 4) = BitVec.ofNat 32 ((reg64 s a + n) >>> 32) := by
    rw [add64, setReg64, reg_setReg_same]
  rw [reg64, hlow, hhigh, BitVec.toNat_ofNat, BitVec.toNat_ofNat, Nat.shiftRight_eq_div_pow]
  omega

theorem reg_add64_ne (hlow : b ≠ a) (hhigh : b ≠ a + 4) : reg (add64 s a n) b = reg s b := by
  rw [add64, setReg64, reg_setReg_ne hhigh, reg_setReg_ne hlow]

theorem reg64_of_reg {t : State} (hlow : reg t a = reg s a) (hhigh : reg t (a + 4) = reg s (a + 4)) : reg64 t a = reg64 s a := by
  rw [reg64, hlow, hhigh, reg64]

/-- Counters of a lane set that lie apart. -/
theorem reg64_add64_aLane {l o o' : Nat} (ho : o + 4 < o' ∨ o' + 4 < o) :
    reg64 (add64 s (aLane l o') n) (aLane l o) = reg64 s (aLane l o) :=
  reg64_of_reg (reg_add64_ne (by simp only [aLane, aLan]; omega) (by simp only [aLane, aLan]; omega))
    (reg_add64_ne (by simp only [aLane, aLan]; omega) (by simp only [aLane, aLan]; omega))

/-- A lane event leaves the counters of a lane set. -/
theorem reg64_laneEvent {l m o j : Nat} (hl : l < 1152) (hm : m < 1152) (hj : j < 8) (ho : o + 4 < 0x100) :
    reg64 (laneEvent s m j) (aLane l o) = reg64 s (aLane l o) :=
  reg64_of_reg (reg_laneEvent (midBlock_aLane hl (by omega)) s hm hj (aLane_ne_aLan (by omega) (by omega)))
    (reg_laneEvent (midBlock_aLane (o := o + 4) hl ho) s hm hj (aLane_ne_aLan (o := o + 4) ho (by omega)))

/-- FEC counts go to the set of the port's head lane, with event 4 above the threshold (R135, R148). -/
theorem fecDegrade_counts {lane l symbols words : Nat} (hlane : lane < 1152) (hport : portOf s lane = l)
    (hlive : portLive s l = true) (hst : portState s l ≠ 1) :
    Completes (.fecDegrade lane symbols words) s fun t => reg64 t (aLane l 0x50) = (reg64 s (aLane l 0x50) + symbols) % 2 ^ 64
      ∧ reg64 t (aLane l 0x40) = (reg64 s (aLane l 0x40) + min words symbols) % 2 ^ 64
      ∧ (regF s (aLan (lane / 32) 0xC0) 23 0 ≠ 0 → regF s (aLan (lane / 32) 0xC0) 23 0 < symbols →
          regBit t (aEvtLanes (lane / 32) 4) (lane % 32) = true) := by
  have hl := lt_of_portLive hlive
  obtain ⟨u, hu⟩ : ∃ u, u = add64 (add64 s (aLane l 0x50) symbols) (aLane l 0x40) (min words symbols) := ⟨_, rfl⟩
  have hsymbols : reg64 u (aLane l 0x50) = (reg64 s (aLane l 0x50) + symbols) % 2 ^ 64 := by
    rw [hu, reg64_add64_aLane (by decide), reg64_add64_same]
  have hwords : reg64 u (aLane l 0x40) = (reg64 s (aLane l 0x40) + min words symbols) % 2 ^ 64 := by
    rw [hu, reg64_add64_same, reg64_add64_aLane (by decide)]
  have hmost : regF u (aLan (lane / 32) 0xC0) 23 0 = regF s (aLan (lane / 32) 0xC0) 23 0 := by
    refine regF_of_reg ?_ _ _
    rw [hu, reg_add64_ne, reg_add64_ne] <;> simp only [aLane, aLan] <;> omega
  have hexec : exec (.fecDegrade lane symbols words) s = .next (if (regF s (aLan (lane / 32) 0xC0) 23 0 != 0
      && decide (regF s (aLan (lane / 32) 0xC0) 23 0 < symbols)) = true then laneEvent u lane 4 else u) := by
    change execFecDegrade lane symbols words s = _
    rw [← hmost, hu]
    simp only [execFecDegrade, hport, hlive]
    rw [if_neg (by simp [hst]; omega)]
  refine ⟨_, hexec, ?_⟩
  split
  · rw [reg64_laneEvent hl hlane (by decide) (by decide), reg64_laneEvent hl hlane (by decide) (by decide)]
    exact ⟨hsymbols, hwords, fun _ _ => regBit_laneEvent u hlane (by decide)⟩
  · next hbelow => exact ⟨hsymbols, hwords, fun h0 hlt => absurd (by simp [h0, hlt]) hbelow⟩

/-- A codeword that cannot be corrected counts in the same set, with event 5 (R135). -/
theorem uncorrectableCodeword_counts {lane l : Nat} (hlane : lane < 1152) (hport : portOf s lane = l)
    (hlive : portLive s l = true) (hst : portState s l ≠ 1) :
    Completes (.uncorrectableCodeword lane) s fun t => reg64 t (aLane l 0x48) = (reg64 s (aLane l 0x48) + 1) % 2 ^ 64
      ∧ regBit t (aEvtLanes (l / 32) 5) (l % 32) = true := by
  have hl := lt_of_portLive hlive
  have hexec : exec (.uncorrectableCodeword lane) s = .next (laneEvent (add64 s (aLane l 0x48) 1) l 5) := by
    change execUncorrectableCodeword lane s = _
    simp only [execUncorrectableCodeword, hport, hlive]
    rw [if_neg (by simp [hst]; omega)]
  refine ⟨_, hexec, ?_, regBit_laneEvent _ hl (by decide)⟩
  rw [reg64_laneEvent hl hl (by decide) (by decide), reg64_add64_same]

end Fec

-- The equaliser (R145 to R147).

section Equaliser

variable {lane : Nat} {want : Word} {s : State}

/-- The bytes of a register that is written byte by byte. -/
theorem regF_forEach_bytes (s : State) (a : Nat) (v : Nat → Nat) {n : Nat} (hn : n < 4) :
    regF (forEach (List.range 4) (fun t m => setF t a (8 * m + 7) (8 * m) (v m)) s) a (8 * n + 7) (8 * n) = v n % 256 := by
  have hwrites : ∀ t : State, regF (setF t a (8 * n + 7) (8 * n) (v n)) a (8 * n + 7) (8 * n) = v n % 256 := fun t => by
    rw [regF_setF_same (by omega), show 8 * n + 7 + 1 - 8 * n = 8 by omega, show 2 ^ 8 = 256 from rfl]
  refine forEach_brings (P := fun t => regF t a (8 * n + 7) (8 * n) = v n % 256)
    (f := fun t m => setF t a (8 * m + 7) (8 * m) (v m)) hwrites (fun t m ht => ?_) (List.mem_range.mpr hn) s
  by_cases hm : m = n
  · rw [hm, hwrites]
  · exact (regF_setF_ne (by omega) (by omega)).trans ht

/-- Each parameter takes its step. -/
theorem eqLoopStep_steps (hlane : lane < 1152) (hup : islandDown s (72 + lane / 32) = false) :
    Completes (.eqLoopStep lane want) s fun t => ∀ n : Nat, n < 4 →
      regF t (aLane lane 0x20) (8 * n + 7) (8 * n) = ofSigned 8 (eqStep s lane n want) % 256 := by
  have hexec : exec (.eqLoopStep lane want) s = .next (forEach (List.range 4)
      (fun t n => setF t (aLane lane 0x20) (8 * n + 7) (8 * n) (ofSigned 8 (eqStep s lane n want))) s) := by
    change execEqLoopStep lane want s = _
    rw [execEqLoopStep, if_neg (by simp [hup]; omega)]
  exact ⟨_, hexec, fun n hn => regF_forEach_bytes s (aLane lane 0x20) (fun m => ofSigned 8 (eqStep s lane m want)) hn⟩

/-- A wanted value in conflict with the policy is shown with event 3. -/
theorem eqPolicyConflict_shows (hlane : lane < 1152) (hconflict : ∃ n ∈ List.range 4, eqConflict s lane n want = true)
    (hover : intervalOver s (laneKey lane) 100000000 = true) :
    Completes (.eqPolicyConflict lane want) s fun t => reg t (aLane lane 0x24) = want
      ∧ regBit t (aEvtLanes (lane / 32) 3) (lane % 32) = true := by
  have hany : (List.range 4).any (fun n => eqConflict s lane n want) = true := List.any_eq_true.mpr hconflict
  have hexec : exec (.eqPolicyConflict lane want) s =
      .next (laneEvent (setReg (noteInterval s (laneKey lane)) (aLane lane 0x24) want) lane 3) := by
    change execEqPolicyConflict lane want s = _
    rw [execEqPolicyConflict, hany, hover, if_neg (by simp; omega)]
  refine ⟨_, hexec, ?_, regBit_laneEvent _ hlane (by decide)⟩
  rw [reg_laneEvent (midBlock_aLane hlane (by decide)) _ hlane (by decide) (aLane_ne_aLan (by decide) (by decide)), reg_setReg_same]

end Equaliser

/-- Settles O27: each step of the ladder and each report of a lane by what its operation leaves in the registers of the lane and in
the port. -/
theorem ladderAndLanesComplete : Obligations.LadderAndLanesComplete := by
  unfold Obligations.LadderAndLanesComplete
  exact ⟨fun _ _ hmay hfw hen hpeer hcap hretry hnone hinit hspan =>
      ladderStepPropose_proposes hmay hfw hen hpeer hcap hretry hnone hinit hspan,
    fun _ _ _ hlive htaken hst => stepTransmitterSwitch_steps hlive htaken hst,
    fun _ _ _ _ hlive hst hlad hk hfault => ladderStepSuccess_up hlive hst hlad hk hfault,
    fun _ _ _ hlive htaken => ladderStepFail_fails hlive htaken,
    fun _ _ _ hfw hmay hsome => stepAckTimeout_fails hfw hmay hsome,
    fun _ _ hfw hretry => ladderRetry_retries hfw hretry,
    fun _ _ _ hfw hmay hpeer => ladderNoPeer_holds hfw hmay hpeer,
    fun _ _ _ _ _ _ hlane hport hlive hst => fecDegrade_counts hlane hport hlive hst,
    fun _ _ _ _ hlane hport hlive hst => uncorrectableCodeword_counts hlane hport hlive hst,
    fun _ _ _ _ hlane hup => eqLoopStep_steps hlane hup,
    fun _ _ _ _ hlane hconflict hover => eqPolicyConflict_shows hlane hconflict hover⟩

end Sys2Proof.Proofs
end

section
/-!
Proofs of the statements on laser cartridges: what the operations of a bay leave in it and in its registers, and what leaves every bay
alone.
-/
namespace Sys2Proof.Proofs

open Sys2Proof Sys2Proof.Machine Sys2Proof.Laws

-- What a bay holds beside its registers.

theorem getBay_modBay_same (s : State) (c : Nat) (f : Bay → Bay) : getBay (modBay s c f) c = f (getBay s c) := mapGet_mapPut_same

theorem getBay_modBay_ne (s : State) {c d : Nat} (f : Bay → Bay) (h : d ≠ c) : getBay (modBay s c f) d = getBay s d :=
  mapGet_mapPut_ne h

theorem getBay_of_bays {s t : State} (h : t.bays = s.bays) (c : Nat) : getBay t c = getBay s c := by rw [getBay, h, getBay]

theorem reg_modBay (s : State) (c : Nat) (f : Bay → Bay) (a : Nat) : reg (modBay s c f) a = reg s a := rfl

-- The registers of CRT (Tables CRT-3 and CRT-4).

/-- An address of CRT (Table HIF-3). -/
def CrtBlock (a : Nat) : Prop := 0x800000 ≤ a ∧ a < 0xC00000

theorem CrtBlock.mid {a : Nat} (h : CrtBlock a) : MidBlock a := ⟨h.1, by have := h.2; omega⟩

theorem CrtBlock.ne_aLan {a : Nat} (h : CrtBlock a) (g o : Nat) : a ≠ aLan g o := by
  have := h.2
  simp only [aLan]
  omega

theorem crtBlock_aBay {c o : Nat} (hc : c < 9) (ho : o < 0x100) : CrtBlock (aBay c o) := by
  constructor <;> simp only [aBay] <;> omega

theorem crtBlock_aCrt : CrtBlock (aCrt 0) := by constructor <;> decide

theorem aBay_ne {c o d p : Nat} (ho : o < 0x100) (hp : p < 0x100) (h : c ≠ d ∨ o ≠ p) : aBay c o ≠ aBay d p := by
  simp only [aBay]
  omega

theorem aCrt_ne_aBay (c o : Nat) : aCrt 0 ≠ aBay c o := by
  simp only [aCrt, aBay]
  omega

theorem aBay_add {c o : Nat} : aBay c o + 4 = aBay c (o + 4) := rfl

-- What leaves the bays alone.

/-- From `s` to `t` neither a bay nor a register of CRT has changed. -/
structure BaysApart (s t : State) : Prop where
  bays : t.bays = s.bays
  regs : ∀ a, CrtBlock a → reg t a = reg s a

namespace BaysApart

variable {s t u : State} {c n : Nat}

theorem refl (s : State) : BaysApart s s := ⟨rfl, fun _ _ => rfl⟩

theorem trans (h : BaysApart s t) (k : BaysApart t u) : BaysApart s u :=
  ⟨k.bays.trans h.bays, fun a ha => (k.regs a ha).trans (h.regs a ha)⟩

theorem getBay (h : BaysApart s t) (c : Nat) : getBay t c = getBay s c := getBay_of_bays h.bays c

theorem reg (h : BaysApart s t) {o : Nat} (hc : c < 9) (ho : o < 0x100) : reg t (aBay c o) = reg s (aBay c o) :=
  h.regs _ (crtBlock_aBay hc ho)

theorem regBit (h : BaysApart s t) (i : Nat) (hc : c < 9) : regBit t (aBay c 0) i = regBit s (aBay c 0) i :=
  regBit_of_reg (h.reg hc (by decide)) i

theorem bayState (h : BaysApart s t) (hc : c < 9) : bayState t c = bayState s c := regF_of_reg (h.reg hc (by decide)) _ _

theorem policy (h : BaysApart s t) : Machine.regBit t (aCrt 0) 0 = Machine.regBit s (aCrt 0) 0 :=
  regBit_of_reg (h.regs _ crtBlock_aCrt) 0

theorem whenB {f : State → State} (hf : ∀ s, BaysApart s (f s)) (b : Bool) (s : State) : BaysApart s (whenB b f s) := by
  cases b
  · exact .refl s
  · exact hf s

theorem forEach {α : Type} {f : State → α → State} (hf : ∀ s x, BaysApart s (f s x)) (l : List α) (s : State) :
    BaysApart s (forEach l f s) :=
  forEach_keeps (P := BaysApart s) (fun u x hu => hu.trans (hf u x)) l (.refl s)

theorem raise (s : State) {id : Nat} (hid : id < 4096) : BaysApart s (raise s id) :=
  ⟨raise_bays s id, fun _ ha => reg_raise_mid ha.mid s hid⟩

theorem drawn (s : State) : BaysApart s (drawn s) := ⟨rfl, fun _ _ => rfl⟩

/-- A bit of BRINGUP, and what follows as CART sets (R141, R158). -/
theorem cartDone (s : State) : BaysApart s (cartDone s) :=
  ⟨Only.cartDone (fr := [.regs, .owed, .crier, .flt]) s (Only.refl s) (by decide) (by decide) (by decide) (by decide) .bays (by decide),
   fun a ha => by
    unfold Machine.cartDone
    split
    · rw [reg_ladderDone ha.mid, reg_setBringup_mid ha.mid]
    · rfl⟩

/-- A link that goes down writes registers of LAN, TIM and AIN. -/
theorem linkDown (s : State) {l : Nat} (gone : Bool) (hl : l < 1152) : BaysApart s (linkDown s l gone) :=
  ⟨Only.linkDown (fr := [.regs, .owed, .ports, .sched, .ainum, .crier, .flt]) s l gone (Only.refl s) (by decide) (by decide)
    (by decide) (by decide) (by decide) (by decide) (by decide) .bays (by decide),
   fun a ha => by
    have hstate : a ≠ aPortState l := ha.ne_aLan _ _
    unfold Machine.linkDown
    extract_lets aligned u v
    rw [reg_whenB (fun _ => reg_laneEvent ha.mid _ hl (by decide) (ha.ne_aLan _ _)),
      reg_enterState ha.mid _ _ _ _ hl hstate (ha.ne_aLan _ _) (ha.ne_aLan _ _), reg_setF_ne hstate, reg_setBit_ne hstate]
    rfl⟩

theorem inputDark (s : State) (g i : Nat) : BaysApart s (inputDark s g i) := by
  refine .forEach (fun u l => ?_) _ s
  split
  next h =>
    rw [Bool.and_eq_true] at h
    exact .linkDown u true (lt_of_portLive h.1)
  · exact .refl u

theorem secCount (s : State) {k : Nat} (hk : k < 16) : BaysApart s (secCount s k) := ⟨rfl, fun _ ha => reg_secCount_mid ha.mid s hk⟩

theorem jrnTagged (s : State) (part : Nat) (ok : Bool) : BaysApart s (jrnTagged s part ok) := by
  rw [Machine.jrnTagged]
  split
  · exact (secCount s (by decide)).trans (.whenB (fun u => secCount u (by decide)) _ _)
  · exact .refl s

/-- Firmware's records go to the journal. -/
theorem jrnOwe (s : State) (e : JrnEntry) : BaysApart s (jrnOwe s e) :=
  ⟨Only.jrnOwe (fr := [.regs, .journal, .owed, .crier, .flt, .out]) s e (Only.refl s) (by decide) (by decide) (by decide) (by decide)
    (by decide) (by decide) .bays (by decide), fun _ ha => reg_jrnOwe_mid ha.mid s e⟩

theorem jrnReads (s : State) (pick : JrnEntry → Bool) : BaysApart s (jrnReads s pick) := by
  have hdrop : ∀ (r : JrnRecord) (u : State), BaysApart u (jrnDrop u r) := fun r u =>
    BaysApart.trans (t := modJrn u _) ⟨rfl, fun _ _ => rfl⟩ (raise _ (by decide))
  refine .forEach (fun u r => ?_) _ s
  split
  · exact ((drawn u).trans (jrnTagged _ _ _)).trans (.whenB (hdrop r) _ _)
  · exact jrnTagged u _ _

theorem jrnWarn (n : Nat) (s : State) : BaysApart s (jrnWarn n s) :=
  (BaysApart.whenB (fun u => raise u (by decide)) _ s).trans (.whenB (fun u => raise u (by decide)) _ _)

theorem jrnRetire (s : State) (l : Nat) : BaysApart s (jrnRetire s l) := by
  have hmod : ∀ (u : State) (f : Journal → Journal), BaysApart u (modJrn u f) := fun u f => ⟨rfl, fun _ _ => rfl⟩
  unfold Machine.jrnRetire
  extract_lets j pct leave
  split
  · exact (hmod s _).trans (jrnWarn _ _)
  · split
    · exact ((hmod s _).trans (jrnWarn _ _)).trans (raise _ (by decide))
    · split
      · exact hmod s _
      · exact (hmod s _).trans (raise _ (by decide))

theorem jrnFailed (failed : List Nat) (s : State) : BaysApart s (jrnFailed failed s) := .forEach jrnRetire _ s

end BaysApart

end Sys2Proof.Proofs
end

section
/-!
Proofs of the statements on laser cartridges: a change of STATE, a channel's target, a bay that goes dark, and a share that fails.
-/
namespace Sys2Proof.Proofs

open Sys2Proof Sys2Proof.Machine Sys2Proof.Laws

variable {c d n m : Nat}

-- SAFE_TO_REMOVE (R157), bit 12 of every BAY_STATUS.

theorem reg_updSafe (s : State) {a : Nat} (ha : ∀ c < 9, a ≠ aBay c 0) : reg (updSafe s) a = reg s a := by
  have hkeep : ∀ l : List Nat, (∀ c ∈ l, c < 9) → ∀ u,
      reg (forEach l (fun s c => setBit s (aBay c 0) 12 (safeBay s c)) u) a = reg u a := by
    intro l
    induction l with
    | nil => exact fun _ _ => rfl
    | cons c l ih =>
      intro hl u
      exact (ih (fun x hx => hl x (List.mem_cons_of_mem c hx)) _).trans (reg_setBit_ne (ha c (hl c List.mem_cons_self)))
  exact hkeep _ (fun _ => List.mem_range.mp) s

/-- Every other field of a register stays. -/
theorem regF_updSafe (s : State) (a : Nat) {hi lo : Nat} (hhi : hi < 32) (h : hi < 12 ∨ 12 < lo) :
    regF (updSafe s) a hi lo = regF s a hi lo :=
  forEach_keeps (P := fun u => regF u a hi lo = regF s a hi lo) (fun _ _ hu => (regF_setF_ne hhi h).trans hu) _ rfl

theorem updSafe_bays (s : State) : (updSafe s).bays = s.bays :=
  Only.updSafe (fr := [.regs]) s (Only.refl s) (by decide) .bays (by decide)

theorem updSafe_crier (s : State) : (updSafe s).crier = s.crier :=
  Only.updSafe (fr := [.regs]) s (Only.refl s) (by decide) .crier (by decide)

-- STATE of a bay (Table CRT-4).

/-- A bay that enters a state holds beside its registers what it held. -/
theorem getBay_bayTo (s : State) (c st : Nat) (tell : Bool) (d : Nat) : getBay (bayTo s c st tell) d = getBay s d :=
  getBay_of_bays (Only.bayTo (fr := [.regs, .owed, .crier, .flt]) s c st tell (Only.refl s) (by decide) (by decide) (by decide)
    (by decide) .bays (by decide)) d

/-- What follows a change of STATE and SAFE_TO_REMOVE leaves the bays alone. -/
theorem baysApart_bayTo (s : State) (st : Nat) (tell : Bool) (hc : c < 9) :
    BaysApart (updSafe (setF s (aBay c 0) 2 0 st)) (bayTo s c st tell) :=
  (BaysApart.cartDone _).trans (.whenB (fun u => .raise u (by omega)) _ _)

theorem bayState_bayTo (s : State) {st : Nat} (tell : Bool) (hc : c < 9) (hst : st < 8) : bayState (bayTo s c st tell) c = st := by
  rw [(baysApart_bayTo s st tell hc).bayState hc, bayState, regF_updSafe _ _ (by decide) (by decide), regF_setF_same (by decide)]
  exact Nat.mod_eq_of_lt hst

/-- The other bits of a BAY_STATUS stay. -/
theorem regBit_bayTo (s : State) (st : Nat) (tell : Bool) {i : Nat} (hc : c < 9) (hd : d < 9) (hi : 2 < i ∧ i < 32) (h12 : i ≠ 12) :
    regBit (bayTo s c st tell) (aBay d 0) i = regBit s (aBay d 0) i := by
  rw [(baysApart_bayTo s st tell hc).regBit i hd, regBit_congr (regF_updSafe _ _ hi.2 (by omega)),
    regBit_setF_ne hi.2 (.inr hi.1)]

/-- The other registers of CRT stay. -/
theorem reg_bayTo_ne (s : State) (st : Nat) (tell : Bool) {a : Nat} (hc : c < 9) (ha : CrtBlock a) (hne : ∀ d < 9, a ≠ aBay d 0) :
    reg (bayTo s c st tell) a = reg s a := by
  rw [(baysApart_bayTo s st tell hc).regs a ha, reg_updSafe _ hne, reg_setF_ne (hne c hc)]

theorem reg_bayTo_aBay (s : State) (st : Nat) (tell : Bool) {o : Nat} (hc : c < 9) (hd : d < 9) (ho : 0 < o ∧ o < 0x100) :
    reg (bayTo s c st tell) (aBay d o) = reg s (aBay d o) :=
  reg_bayTo_ne s st tell hc (crtBlock_aBay hd ho.2) fun _ _ => aBay_ne ho.2 (by decide) (.inr (by omega))

theorem mem_setBringup_of_mem {s : State} {x : Nat} (h : x ∈ s.crier.pend) (i : Nat) : x ∈ (setBringup s i).crier.pend := by
  unfold setBringup
  split
  · exact h
  · exact mem_raise_of_mem h

theorem mem_whenB_of_mem {f : State → State} {x : Nat} (hf : ∀ s : State, x ∈ s.crier.pend → x ∈ (f s).crier.pend) (b : Bool) {s : State}
    (h : x ∈ s.crier.pend) : x ∈ (whenB b f s).crier.pend := by
  cases b
  · exact h
  · exact hf s h

theorem mem_cartDone_of_mem {s : State} {x : Nat} (h : x ∈ s.crier.pend) : x ∈ (cartDone s).crier.pend := by
  unfold cartDone
  split
  · unfold ladderDone
    split
    · exact mem_setBringup_of_mem (mem_setBringup_of_mem h 9) 10
    · exact mem_setBringup_of_mem h 9
  · exact h

/-- A pending source stays pending as a bay enters a state. -/
theorem mem_bayTo_of_mem {s : State} {x : Nat} (h : x ∈ s.crier.pend) (c st : Nat) (tell : Bool) :
    x ∈ (bayTo s c st tell).crier.pend := by
  refine mem_whenB_of_mem (fun _ => mem_raise_of_mem) tell (mem_cartDone_of_mem ?_)
  rwa [updSafe_crier]

/-- A change of STATE is told (Table CRT-4). -/
theorem mem_bayTo_told (s : State) (c st : Nat) : 0x480 + c ∈ (bayTo s c st true).crier.pend := mem_raise _ _

/-- FW of BRINGUP stays. -/
theorem fwRuns_bayTo (s : State) (st : Nat) (tell : Bool) (hc : c < 9) : fwRuns (bayTo s c st tell) = fwRuns s := by
  have hset : ∀ (u : State) {i : Nat}, i ≠ 3 → fwRuns (setBringup u i) = fwRuns u := fun u i hi => by
    unfold setBringup
    split
    · rfl
    · rw [fwRuns, bringup, regBit_of_reg (reg_raise_host _ _ (by decide)), regBit_setBit_ne (.inr hi.symm)]
      rfl
  have hdone : ∀ u, fwRuns (cartDone u) = fwRuns u := fun u => by
    unfold cartDone
    split
    · unfold ladderDone
      split
      · rw [hset _ (by decide), hset _ (by decide)]
      · exact hset _ (by decide)
    · rfl
  have htell : ∀ u, fwRuns (whenB tell (raise · (0x480 + c)) u) = fwRuns u := fun u =>
    regBit_of_reg (reg_whenB (fun _ => reg_raise_host _ _ (by decide)) _ _) _
  have hsafe : reg (updSafe (setF s (aBay c 0) 2 0 st)) 0x40 = reg s 0x40 := by
    rw [reg_updSafe _ fun _ _ => by simp only [aBay]; omega, reg_setF_ne (by simp only [aBay]; omega)]
  rw [bayTo, htell, hdone]
  exact regBit_of_reg hsafe 3

-- 64-bit registers (R75).

/-- A 64-bit register reads back what it holds of a number. -/
theorem reg64_setReg64 (s : State) (a v : Nat) : reg64 (setReg64 s a v) a = v % 2 ^ 64 := by
  rw [reg64, setReg64, reg_setReg_ne (by omega), reg_setReg_same, reg_setReg_same, BitVec.toNat_ofNat, BitVec.toNat_ofNat,
    Nat.shiftRight_eq_div_pow]
  omega

theorem reg_setReg64_ne (s : State) {a b : Nat} (v : Nat) (hlow : b ≠ a) (hhigh : b ≠ a + 4) : reg (setReg64 s a v) b = reg s b := by
  rw [setReg64, reg_setReg_ne hhigh, reg_setReg_ne hlow]

-- A channel's target (R150, R164).

/-- A target is one of the bay's channel, with the current that it takes. -/
theorem setTarget_bays (s : State) (c n t : Nat) : ∃ i : Nat, (setTarget s c n t).bays =
    (modBay s c fun b => { b with target := mapPut 0 b.target n t, drive := mapPut 0 b.drive n i }).bays := by
  rw [setTarget]
  cases t == 1 <;> exact ⟨_, rfl⟩

theorem getBay_setTarget_ne (s : State) (n t : Nat) (h : d ≠ c) : getBay (setTarget s c n t) d = getBay s d := by
  obtain ⟨i, hi⟩ := setTarget_bays s c n t
  rw [getBay_of_bays hi, getBay_modBay_ne _ _ h]

theorem step_setTarget (s : State) (c n t d : Nat) : (getBay (setTarget s c n t) d).step = (getBay s d).step := by
  obtain ⟨i, hi⟩ := setTarget_bays s c n t
  rw [getBay_of_bays hi]
  by_cases h : d = c
  · rw [h, getBay_modBay_same]
  · rw [getBay_modBay_ne _ _ h]

theorem targetOf_setTarget_same (s : State) (c n t : Nat) : targetOf (setTarget s c n t) c n = t := by
  obtain ⟨i, hi⟩ := setTarget_bays s c n t
  rw [targetOf, getBay_of_bays hi, getBay_modBay_same]
  exact mapGet_mapPut_same

theorem targetOf_setTarget_ne (s : State) (t : Nat) (h : d ≠ c ∨ m ≠ n) : targetOf (setTarget s c n t) d m = targetOf s d m := by
  by_cases hd : d = c
  · subst hd
    obtain ⟨i, hi⟩ := setTarget_bays s d n t
    rw [targetOf, getBay_of_bays hi, getBay_modBay_same]
    exact mapGet_mapPut_ne (h.resolve_left fun hn => hn rfl)
  · rw [targetOf, getBay_setTarget_ne s n t hd, targetOf]

/-- CH_FULL alone follows. -/
theorem reg_setTarget (s : State) (n t : Nat) {a : Nat} (hlow : a ≠ aBay c 0x40) (hhigh : a ≠ aBay c 0x44) :
    reg (setTarget s c n t) a = reg s a := by
  unfold setTarget
  extract_lets half i u v
  rw [reg_setReg64_ne _ _ hlow hhigh, reg_modBay]
  exact reg_whenB (f := drawn) (fun _ => rfl) _ s

theorem reg_setTarget_aBay (s : State) (n t : Nat) {o : Nat} (ho : o < 0x40) : reg (setTarget s c n t) (aBay d o) = reg s (aBay d o) :=
  reg_setTarget s n t (aBay_ne (by omega) (by decide) (.inr (by omega))) (aBay_ne (by omega) (by decide) (.inr (by omega)))

-- CH_FAILED (R153).

theorem chFailed_congr {s t : State} (hlow : reg t (aBay c 0x38) = reg s (aBay c 0x38))
    (hhigh : reg t (aBay c 0x3C) = reg s (aBay c 0x3C)) (n : Nat) : chFailed t c n = chFailed s c n := by
  rw [chFailed, reg64_of_reg hlow hhigh, chFailed]

theorem BaysApart.chFailed {s t : State} (h : BaysApart s t) (hc : c < 9) (n : Nat) : chFailed t c n = Machine.chFailed s c n :=
  chFailed_congr (h.reg hc (by decide)) (h.reg hc (by decide)) n

theorem chFailed_bayTo (s : State) (st : Nat) (tell : Bool) (hc : c < 9) (hd : d < 9) (n : Nat) :
    chFailed (bayTo s c st tell) d n = chFailed s d n :=
  chFailed_congr (reg_bayTo_aBay s st tell hc hd (by decide)) (reg_bayTo_aBay s st tell hc hd (by decide)) n

theorem chFailed_setTarget (s : State) (c n t d m : Nat) : chFailed (setTarget s c n t) d m = chFailed s d m :=
  chFailed_congr (reg_setTarget_aBay s n t (by decide)) (reg_setTarget_aBay s n t (by decide)) m

-- The partner of a share (R3, R31).

theorem partner_bay_lt (c n : Nat) : (partner c n).1 < 9 := by
  unfold partner
  split <;> exact Nat.mod_lt _ (by decide)

theorem partner_bay_ne (c n : Nat) : (partner c n).1 ≠ c := by
  unfold partner
  split <;> dsimp only <;> omega

/-- Channels of one bay have different partners. -/
theorem partner_injective (hn : n < 64) (hm : m < 64) (h : partner c n = partner c m) : n = m := by
  unfold partner at h
  split at h <;> split at h <;> simp only [Prod.mk.injEq] at h <;> omega

-- A bay that goes dark (R154).

/-- The bay with every channel turned off, and CH_FULL zero. -/
def bayOff (s : State) (c : Nat) : State := setReg64 (modBay s c fun b => { b with target := [], drive := [] }) (aBay c 0x40) 0

theorem baysApart_bayDark (s : State) (c : Nat) : BaysApart (bayOff s c) (bayDark s c) :=
  .forEach (fun u _ => .inputDark u _ _) _ _

theorem getBay_bayDark (s : State) (c : Nat) : getBay (bayDark s c) c = { getBay s c with target := [], drive := [] } := by
  rw [(baysApart_bayDark s c).getBay]
  exact getBay_modBay_same s c fun b => { b with target := [], drive := [] }

theorem reg_bayDark (s : State) {o : Nat} (hd : d < 9) (ho : o < 0x40) : reg (bayDark s c) (aBay d o) = reg s (aBay d o) := by
  rw [(baysApart_bayDark s c).reg hd (by omega), bayOff, reg_setReg64_ne _ _ (aBay_ne (by omega) (by decide) (.inr (by omega)))
    (by rw [aBay_add]; exact aBay_ne (by omega) (by decide) (.inr (by omega))), reg_modBay]

theorem getBay_enLow (s : State) (c : Nat) : getBay (enLow s c) c = { getBay s c with target := [], drive := [] } :=
  getBay_bayDark _ c

theorem bayEn_enLow (s : State) (hc : c < 9) : bayEn (enLow s c) c = false := by
  rw [bayEn, enLow, regBit_of_reg (reg_bayDark _ hc (by decide)), regBit_setBit_same (by decide)]

theorem regBit_enLow (s : State) {i : Nat} (hd : d < 9) (hi : i ≠ 10) : regBit (enLow s c) (aBay d 0) i = regBit s (aBay d 0) i := by
  rw [enLow, regBit_of_reg (reg_bayDark _ hd (by decide)), regBit_setBit_ne (.inr hi)]

theorem chFailed_enLow (s : State) (hd : d < 9) (n : Nat) : chFailed (enLow s c) d n = chFailed s d n :=
  (chFailed_congr (reg_bayDark _ hd (by decide)) (reg_bayDark _ hd (by decide)) n).trans
    (chFailed_congr (reg_setBit_ne (aBay_ne (by decide) (by decide) (.inr (by decide))))
      (reg_setBit_ne (aBay_ne (by decide) (by decide) (.inr (by decide)))) n)

/-- An insertion is abandoned (R159). -/
theorem getBay_abandon (s : State) (c : Nat) :
    getBay (abandon s c) c = { getBay s c with target := [], drive := [], step := .idle, challenge := [] } := by
  rw [abandon, getBay_modBay_same, getBay_enLow]

-- A share that fails (R153).

/-- CH_FAILED and the cartridge of which it speaks. -/
def shareMarked (s : State) (c n : Nat) : State :=
  modBay (setReg64 s (aBay c 0x38) (putBit (reg64 s (aBay c 0x38)) n true)) c fun b => { b with failedOf := b.identity.map idSerial }

theorem chFailed_shareMarked (s : State) (c : Nat) (hm : m < 64) :
    chFailed (shareMarked s c n) c m = (chFailed s c m || decide (n = m)) := by
  have hreg : reg64 (shareMarked s c n) (aBay c 0x38) = putBit (reg64 s (aBay c 0x38)) n true % 2 ^ 64 := reg64_setReg64 s _ _
  rw [chFailed, hreg, putBit, if_pos rfl, Nat.testBit_mod_two_pow, Nat.testBit_or, Nat.testBit_two_pow, chFailed]
  simp [hm]

theorem reg_shareMarked (s : State) {a : Nat} (hlow : a ≠ aBay c 0x38) (hhigh : a ≠ aBay c 0x3C) : reg (shareMarked s c n) a = reg s a :=
  reg_setReg64_ne s _ hlow hhigh

/-- The partner at full output, or an input that goes dark. -/
def shareMoved (s : State) (c n : Nat) : State :=
  if chLive s (partner c n).1 (partner c n).2 then setTarget s (partner c n).1 (partner c n).2 2
  else inputDark s (feeds c n).1 (feeds c n).2

theorem failShare_eq (s : State) (c n : Nat) : failShare s c n = raise (updSafe (shareMoved (shareMarked s c n) c n)) (0x490 + c) := rfl

theorem reg_shareMoved (s : State) (c n : Nat) {o : Nat} (hd : d < 9) (ho : o < 0x40) :
    reg (shareMoved s c n) (aBay d o) = reg s (aBay d o) := by
  unfold shareMoved
  split
  · exact reg_setTarget_aBay s _ _ ho
  · exact (BaysApart.inputDark s _ _).reg hd (by omega)

theorem getBay_shareMoved (s : State) (c n : Nat) : getBay (shareMoved s c n) c = getBay s c := by
  unfold shareMoved
  split
  · exact getBay_setTarget_ne s _ _ (partner_bay_ne c n).symm
  · exact (BaysApart.inputDark s _ _).getBay c

theorem chFailed_failShare (s : State) (n : Nat) (hc : c < 9) (hm : m < 64) :
    chFailed (failShare s c n) c m = (chFailed s c m || decide (n = m)) := by
  have hne : ∀ o, 0 < o → o < 0x100 → ∀ d < 9, aBay c o ≠ aBay d 0 := fun o h0 ho d _ => aBay_ne ho (by decide) (.inr (by omega))
  rw [failShare_eq, (BaysApart.raise _ (by omega)).chFailed hc,
    chFailed_congr (reg_updSafe _ (hne _ (by decide) (by decide))) (reg_updSafe _ (hne _ (by decide) (by decide))),
    chFailed_congr (reg_shareMoved _ c n hc (by decide)) (reg_shareMoved _ c n hc (by decide)), chFailed_shareMarked s c hm]

/-- The bits of BAY_STATUS stay but SAFE_TO_REMOVE. -/
theorem regBit_failShare (s : State) (n : Nat) {i : Nat} (hc : c < 9) (hd : d < 9) (hi : i < 32) (h12 : i ≠ 12) :
    regBit (failShare s c n) (aBay d 0) i = regBit s (aBay d 0) i := by
  rw [failShare_eq, (BaysApart.raise _ (by omega)).regBit i hd, regBit_congr (regF_updSafe _ _ hi (by omega)),
    regBit_of_reg (reg_shareMoved _ c n hd (by decide)), regBit_of_reg (reg_shareMarked s (aBay_ne (by decide) (by decide)
      (.inr (by decide))) (aBay_ne (by decide) (by decide) (.inr (by decide))))]

/-- The marking of a share leaves the light of the bay beside it. -/
theorem chLive_shareMarked (s : State) (h : d ≠ c) (m : Nat) : chLive (shareMarked s c n) d m = chLive s d m := by
  have hfail : chFailed (shareMarked s c n) d m = chFailed s d m :=
    chFailed_congr (reg_shareMarked s (aBay_ne (by decide) (by decide) (.inl h)) (aBay_ne (by decide) (by decide) (.inl h)))
      (reg_shareMarked s (aBay_ne (by decide) (by decide) (.inl h)) (aBay_ne (by decide) (by decide) (.inl h))) m
  have htarget : targetOf (shareMarked s c n) d m = targetOf s d m := by
    rw [targetOf, shareMarked, getBay_modBay_ne _ _ h]
    rfl
  rw [chLive, hfail, htarget, chLive]

/-- A partner that gives light steps to full output. -/
theorem targetOf_failShare (s : State) (h : chLive s (partner c n).1 (partner c n).2 = true) :
    targetOf (failShare s c n) (partner c n).1 (partner c n).2 = 2 := by
  have hmoved : shareMoved (shareMarked s c n) c n = setTarget (shareMarked s c n) (partner c n).1 (partner c n).2 2 := by
    rw [shareMoved, if_pos (by rw [chLive_shareMarked s (partner_bay_ne c n), h])]
  have hbays : getBay (failShare s c n) (partner c n).1
      = getBay (setTarget (shareMarked s c n) (partner c n).1 (partner c n).2 2) (partner c n).1 := by
    rw [failShare_eq, hmoved]
    exact getBay_of_bays ((raise_bays _ _).trans (updSafe_bays _)) _
  rw [targetOf, hbays]
  exact targetOf_setTarget_same _ _ _ 2

/-- The failure is told. -/
theorem mem_failShare (s : State) (c n : Nat) : 0x490 + c ∈ (failShare s c n).crier.pend := mem_raise _ _

end Sys2Proof.Proofs
end

section
/-!
Proofs of the statements on laser cartridges: a wanted current outside its range (R165), and the events of lanes that low light brings
(R151).
-/
namespace Sys2Proof.Proofs

open Sys2Proof Sys2Proof.Machine Sys2Proof.Laws

-- CART_POLICY_CONFLICT (R165).

section Conflict

variable {bay ch want : Nat} {s : State}

/-- A wanted current, as far as HWMAX_MA lets it go, that the range of the channel keeps out. -/
def OutOfRange (s : State) (bay ch want : Nat) : Prop :=
  curClamp s bay ch (min want (bayCal s bay ch).2) ≠ min want (bayCal s bay ch).2

/-- CONFLICT as it shows a channel and a wanted current. -/
def conflictWord (ch want : Nat) : Word := BitVec.ofNat 32 (ch * 2 ^ 26 + want % 65536)

theorem toNat_conflictWord (hch : ch < 64) : (conflictWord ch want).toNat = ch * 2 ^ 26 + want % 65536 := by
  rw [conflictWord, BitVec.toNat_ofNat]
  omega

theorem conflictWord_fields (hch : ch < 64) :
    fget (conflictWord ch want) 31 26 = ch ∧ fget (conflictWord ch want) 15 0 = want % 65536 := by
  simp only [fget, nbits, toNat_conflictWord hch, Nat.shiftRight_eq_div_pow]
  omega

theorem intervalOver_noteInterval (s : State) (key : Nat) {ns : Nat} (hns : 0 < ns) : intervalOver (noteInterval s key) key ns = false := by
  have hlast : lastOf (noteInterval s key) key = s.elapsed + 1 := mapGet_mapPut_same
  have helapsed : (noteInterval s key).elapsed = s.elapsed := rfl
  rw [intervalOver, hlast, helapsed]
  simp
  omega

theorem intervalOver_raise (s : State) (id key ns : Nat) : intervalOver (raise s id) key ns = intervalOver s key ns := by
  rw [intervalOver, lastOf, raise_lastRaise, raise_elapsed]
  rfl

theorem exec_cartPolicyConflict_shown (hbay : bay < 9) (hch : ch < 64) (hover : intervalOver s (0x4B0 + bay) 100000000 = true)
    (hout : OutOfRange s bay ch want) :
    exec (.cartPolicyConflict bay ch want) s
      = .next (raise (noteInterval (setReg s (aBay bay 0x30) (conflictWord ch want)) (0x4B0 + bay)) (0x4B0 + bay)) := by
  have hagain : intervalOver (setReg s (aBay bay 0x30) (conflictWord ch want)) (0x4B0 + bay) 100000000 = true := hover
  unfold OutOfRange at hout
  change execCartPolicyConflict bay ch want s = _
  rw [execCartPolicyConflict]
  dsimp only
  rw [hover, if_neg (by simp [hout]; omega), raiseLimited, ← conflictWord, hagain, if_pos rfl]

/-- R165: the conflict is shown and told, and the interval begins again. -/
theorem cartPolicyConflict_shows (hbay : bay < 9) (hch : ch < 64) (hover : intervalOver s (0x4B0 + bay) 100000000 = true)
    (hout : OutOfRange s bay ch want) :
    Completes (.cartPolicyConflict bay ch want) s fun t => reg t (aBay bay 0x30) = conflictWord ch want ∧ 0x4B0 + bay ∈ t.crier.pend
      ∧ intervalOver t (0x4B0 + bay) 100000000 = false := by
  refine ⟨_, exec_cartPolicyConflict_shown hbay hch hover hout, ?_, mem_raise _ _, ?_⟩
  · rw [(BaysApart.raise _ (by omega)).reg hbay (by decide)]
    exact reg_setReg_same
  · rw [intervalOver_raise, intervalOver_noteInterval _ _ (by decide)]

/-- Within the interval, or inside the range, nothing changes. -/
theorem cartPolicyConflict_silent (h : intervalOver s (0x4B0 + bay) 100000000 = false ∨ ¬ OutOfRange s bay ch want) :
    Completes (.cartPolicyConflict bay ch want) s fun t => Only [] s t := by
  refine ⟨s, ?_, Only.refl s⟩
  unfold OutOfRange at h
  change execCartPolicyConflict bay ch want s = _
  rw [execCartPolicyConflict]
  dsimp only
  rw [if_pos]
  rcases h with h | h
  · simp [h]
  · simp [not_not.mp h]

end Conflict

/-- Settles O13: a current kept out of its range is shown once an interval has passed; any other row leaves the part alone. -/
theorem cartridgePolicyConflict : Obligations.CartridgePolicyConflict := by
  unfold Obligations.CartridgePolicyConflict
  refine ⟨fun bay ch want s hbay hch hover hout => ?_, fun _ _ _ _ h => cartPolicyConflict_silent (.inl h),
    fun _ _ _ _ h => cartPolicyConflict_silent (.inr (not_not.mpr h))⟩
  obtain ⟨t, hexec, hreg, hpend, hinterval⟩ := cartPolicyConflict_shows hbay hch hover hout
  obtain ⟨hchannel, hwant⟩ := conflictWord_fields (want := want) hch
  exact ⟨t, hexec, by rw [regF, hreg, hchannel], by rw [regF, hreg, hwant], hpend, hinterval⟩

-- LIGHT_LOW (R151).

section LightLow

variable {g input : Nat}

/-- An event of a lane sets its bit alone. -/
theorem regBit_laneEvent_group (s : State) {g p j k : Nat} (hg : g < 36) (hp : p < 32) (hj : j < 8) :
    regBit (laneEvent s (32 * g + p) j) (aEvtLanes g j) k = (regBit s (aEvtLanes g j) k || decide (k = p)) := by
  have hgroup : (32 * g + p) / 32 = g := by omega
  have hlane : (32 * g + p) % 32 = p := by omega
  have hmid : MidBlock (aEvtLanes g j) := midBlock_aLan hg (by omega)
  rw [laneEvent, hgroup, hlane, regBit_of_reg (reg_laneLine hmid _ hg hj)]
  by_cases hk : k = p
  · simp [hk, regBit_setBit_same hp]
  · simp [hk, regBit_setBit_ne (.inr hk)]

theorem exec_lightLow (s : State) (hg : g < 36) (hi : input < 8) :
    exec (.lightLow g input) s = .next (forEach (List.range 4) (fun s k => laneEvent s (32 * g + 4 * input + k) 7) s) := by
  change execLightLow g input s = _
  rw [execLightLow, if_neg (by simp; omega)]

/-- Events of several lanes of an input set the bits of those lanes. -/
theorem regBit_forEach_laneEvent (l : List Nat) (s : State) {k : Nat} (hg : g < 36) (hi : input < 8) (hl : ∀ i ∈ l, i < 4) :
    regBit (forEach l (fun s i => laneEvent s (32 * g + 4 * input + i) 7) s) (aEvtLanes g 7) k
      = (regBit s (aEvtLanes g 7) k || l.any (fun i => k == 4 * input + i)) := by
  induction l generalizing s with
  | nil => exact (Bool.or_false _).symm
  | cons i l ih =>
    have hlt := hl i List.mem_cons_self
    have hone : regBit (laneEvent s (32 * g + 4 * input + i) 7) (aEvtLanes g 7) k
        = (regBit s (aEvtLanes g 7) k || decide (k = 4 * input + i)) := by
      rw [Nat.add_assoc, regBit_laneEvent_group s hg (by omega) (by decide)]
    refine (ih _ fun x hx => hl x (List.mem_cons_of_mem i hx)).trans ?_
    rw [hone, List.any_cons, Bool.or_assoc]
    rfl

/-- R151: the four lanes of the input, and no other, are marked. -/
theorem lightLow_marks (s : State) (hg : g < 36) (hi : input < 8) :
    Completes (.lightLow g input) s fun t => ∀ k : Nat, k < 32 →
      regBit t (aEvtLanes g 7) k = (regBit s (aEvtLanes g 7) k || decide (k / 4 = input)) := by
  refine ⟨_, exec_lightLow s hg hi, fun k _ => ?_⟩
  have hlanes : (List.range 4).any (fun i => k == 4 * input + i) = decide (k / 4 = input) := by
    rw [Bool.eq_iff_iff, List.any_eq_true, decide_eq_true_eq]
    simp only [List.mem_range, beq_iff_eq]
    exact ⟨fun ⟨i, h, hk⟩ => by omega, fun h => ⟨k % 4, by omega, by omega⟩⟩
  rw [regBit_forEach_laneEvent _ s hg hi fun _ => List.mem_range.mp, hlanes]

end LightLow

-- SHARE_FAILED (R153).

section ShareFailed

variable {bay ch : Nat} {s : State}

theorem exec_shareFailed (hbay : bay < 9) (hch : ch < 64) (hlive : chLive s bay ch = true) :
    exec (.shareFailed bay ch) s = .next (failShare s bay ch) := by
  change execShareFailed bay ch s = _
  rw [execShareFailed, hlive, if_neg (by simp; omega)]

/-- R151: a step-up brings no event of a lane. -/
theorem shareFailed_no_laneEvent (hbay : bay < 9) (hch : ch < 64) (hlive : chLive s bay ch = true)
    (hpartner : chLive s (partner bay ch).1 (partner bay ch).2 = true) :
    Completes (.shareFailed bay ch) s fun t => ∀ g j : Nat, g < 36 → j < 8 → reg t (aEvtLanes g j) = reg s (aEvtLanes g j) := by
  refine ⟨_, exec_shareFailed hbay hch hlive, fun g j hg hj => ?_⟩
  have hne : ∀ {c o : Nat}, c < 9 → o < 0x100 → aEvtLanes g j ≠ aBay c o :=
    fun hc ho => ((crtBlock_aBay hc ho).ne_aLan g _).symm
  have hbay' := partner_bay_lt bay ch
  rw [failShare_eq, shareMoved, if_pos (by rw [chLive_shareMarked s (partner_bay_ne bay ch), hpartner]),
    reg_raise_mid (a := aEvtLanes g j) (midBlock_aLan hg (by omega)) _ (by omega), reg_updSafe _ fun _ hc => hne hc (by decide),
    reg_setTarget _ _ _ (hne hbay' (by decide)) (hne hbay' (by decide)),
    reg_shareMarked _ (hne hbay (by decide)) (hne hbay (by decide))]

end ShareFailed

/-- Settles O14: low light marks the lanes of its input, and a share that fails beside a live partner writes no EVT_LANES register. -/
theorem lightLowMarksFourLanes : Obligations.LightLowMarksFourLanes := by
  unfold Obligations.LightLowMarksFourLanes
  exact ⟨fun _ _ s hg hi => lightLow_marks s hg hi,
    fun _ _ _ hbay hch hlive hpartner => shareFailed_no_laneEvent hbay hch hlive hpartner⟩

end Sys2Proof.Proofs
end

section
/-!
Proofs of the statements on laser cartridges: presence, the latch and a reported shutdown (R152 to R159).
-/
namespace Sys2Proof.Proofs

open Sys2Proof Sys2Proof.Machine Sys2Proof.Laws

variable {c : Nat} {s : State}

-- A bit of BAY_STATUS above STATE that is written.

section StatusBit

variable {i : Nat} {b : Bool}

theorem bayState_setBit (s : State) (d : Nat) (hi : 2 < i) : bayState (setBit s (aBay c 0) i b) d = bayState s d :=
  regF_setF_ne (by decide) (.inl hi)

theorem chFailed_setBit (s : State) (d n : Nat) : chFailed (setBit s (aBay c 0) i b) d n = chFailed s d n :=
  chFailed_congr (reg_setBit_ne (aBay_ne (by decide) (by decide) (.inr (by decide))))
    (reg_setBit_ne (aBay_ne (by decide) (by decide) (.inr (by decide)))) n

theorem chLive_setBit (s : State) (d n : Nat) : chLive (setBit s (aBay c 0) i b) d n = chLive s d n := by
  rw [chLive, chFailed_setBit]
  rfl

theorem safeBay_setBit (s : State) (d : Nat) (hi : 2 < i) : safeBay (setBit s (aBay c 0) i b) d = safeBay s d := by
  simp only [safeBay, bayState_setBit s _ hi, chFailed_setBit]

end StatusBit

-- The start of a removal (R156, R157).

theorem modBay_crier (s : State) (c : Nat) (f : Bay → Bay) : (modBay s c f).crier = s.crier := rfl

theorem baysApart_noteUnsafe (s : State) (hc : c < 9) : BaysApart s (noteUnsafe s c) := .whenB (fun u => .raise u (by omega)) _ s

/-- The removal of a cartridge in service whose partners do not carry its light is told. -/
theorem mem_noteUnsafe (hactive : bayState s c = stActive) (hsafe : safeBay s c = false) : 0x4D0 + c ∈ (noteUnsafe s c).crier.pend := by
  rw [noteUnsafe, hactive, hsafe, whenB, if_pos (by decide)]
  exact mem_raise _ _

theorem startRemoval_starts (hidle : (getBay s c).step = .idle) (hst : bayState s c = stActive ∨ bayState s c = stRefused) :
    startRemoval s c = modBay (noteUnsafe s c) c fun b => { b with step := .removing 1, reclosed := false } := by
  rw [startRemoval, hidle, if_neg]
  rcases hst with h | h <;> simp [h]

theorem startRemoval_stays (hactive : bayState s c ≠ stActive) (hrefused : bayState s c ≠ stRefused) : startRemoval s c = s := by
  rw [startRemoval, if_pos (by simp [hactive, hrefused])]

-- What an opening latch brings, case by case.

theorem latchOpened_idle (hidle : (getBay s c).step = .idle) :
    latchOpened s c = if ramping s c then reverseRamp s c else startRemoval s c := by rw [latchOpened, hidle]

/-- A cartridge in service, or a refused one, begins its removal. -/
theorem latchOpened_removes (hidle : (getBay s c).step = .idle) (hramp : ramping s c = false)
    (hst : bayState s c = stActive ∨ bayState s c = stRefused) :
    (getBay (latchOpened s c) c).step = .removing 1
      ∧ (bayState s c = stActive → safeBay s c = false → 0x4D0 + c ∈ (latchOpened s c).crier.pend) := by
  rw [latchOpened_idle hidle, hramp, if_neg (by decide), startRemoval_starts hidle hst, getBay_modBay_same]
  refine ⟨rfl, fun hactive hsafe => ?_⟩
  rw [modBay_crier]
  exact mem_noteUnsafe hactive hsafe

/-- A ramp under way is reversed. -/
theorem latchOpened_reverses (hc : c < 9) (hidle : (getBay s c).step = .idle) (hramp : ramping s c = true) :
    (getBay (latchOpened s c) c).step = .removing 2 ∧ bayState (latchOpened s c) c = stRemoving
      ∧ 0x480 + c ∈ (latchOpened s c).crier.pend
      ∧ (bayState s c = stActive → safeBay s c = false → 0x4D0 + c ∈ (latchOpened s c).crier.pend) := by
  rw [latchOpened_idle hidle, hramp, if_pos rfl, reverseRamp]
  refine ⟨?_, bayState_bayTo _ _ hc (by decide), mem_bayTo_told _ _ _, fun hactive hsafe => ?_⟩
  · rw [getBay_bayTo, getBay_modBay_same]
  · refine mem_bayTo_of_mem ?_ _ _ _
    rw [modBay_crier]
    exact mem_noteUnsafe hactive hsafe

theorem latchOpened_inserting {n : Nat} (h : (getBay s c).step = .inserting n) : latchOpened s c = abandon s c := by
  rw [latchOpened, h]

theorem latchOpened_removing {n : Nat} (h : (getBay s c).step = .removing n) :
    latchOpened s c = modBay s c fun b => { b with reclosed := false } := by
  rw [latchOpened, h]

theorem latchOpened_stays (hidle : (getBay s c).step = .idle) (hramp : ramping s c = false) (hactive : bayState s c ≠ stActive)
    (hrefused : bayState s c ≠ stRefused) : latchOpened s c = s := by
  rw [latchOpened_idle hidle, hramp, if_neg (by decide), startRemoval_stays hactive hrefused]

theorem bayEn_abandon (s : State) (hc : c < 9) : bayEn (abandon s c) c = false := bayEn_enLow s hc

theorem regBit_abandon (s : State) {i : Nat} (hc : c < 9) (hi : i ≠ 10) : regBit (abandon s c) (aBay c 0) i = regBit s (aBay c 0) i :=
  regBit_enLow s hc hi

theorem regBit_startRemoval (s : State) (i : Nat) (hc : c < 9) : regBit (startRemoval s c) (aBay c 0) i = regBit s (aBay c 0) i := by
  unfold startRemoval
  split
  · rfl
  · exact (baysApart_noteUnsafe s hc).regBit i hc

/-- LATCHED stays as it is. -/
theorem bayLatched_latchOpened (s : State) (hc : c < 9) : bayLatched (latchOpened s c) c = bayLatched s c := by
  unfold latchOpened
  split
  · exact regBit_abandon s hc (by decide)
  · rfl
  · split
    · exact (regBit_bayTo _ _ _ hc hc (by decide) (by decide)).trans ((baysApart_noteUnsafe s hc).regBit 9 hc)
    · exact regBit_startRemoval s 9 hc

/-- The bay with its latch as the pins show it. -/
def latchSeen (s : State) (c : Nat) (b : Bool) : State := setBit s (aBay c 0) 9 b

theorem bayLatched_latchSeen (s : State) (c : Nat) (b : Bool) : bayLatched (latchSeen s c b) c = b := regBit_setBit_same (by decide)

theorem bayState_latchSeen (s : State) (c : Nat) (b : Bool) : bayState (latchSeen s c b) c = bayState s c := bayState_setBit s c (by decide)

theorem safeBay_latchSeen (s : State) (c : Nat) (b : Bool) : safeBay (latchSeen s c b) c = safeBay s c := safeBay_setBit s c (by decide)

-- CART_LATCH_OPEN (R156, R159).

section LatchOpen

variable (hc : c < 9) (hheld : islandHeld s 126 = false) (hlatch : bayLatched s c = true)

include hc hheld hlatch

theorem exec_cartLatchOpen : exec (.cartLatchOpen c) s = .next (latchOpened (latchSeen s c false) c) := by
  have hheld' : islandHeld (setBit s (aBay c 0) 9 false) 126 = false := hheld
  change execCartLatchOpen c s = _
  rw [execCartLatchOpen, hlatch, if_neg (by simp; omega)]
  dsimp only
  rw [hheld', if_neg (by decide), latchSeen]

/-- A cartridge that is in no step of an insertion or removal. -/
theorem cartLatchOpen_idle : Completes (.cartLatchOpen c) s fun t => bayLatched t c = false
    ∧ ((getBay s c).step = .idle → ramping s c = false → bayState s c = stActive ∨ bayState s c = stRefused →
      (getBay t c).step = .removing 1 ∧ (bayState s c = stActive → safeBay s c = false → 0x4D0 + c ∈ t.crier.pend))
    ∧ ((getBay s c).step = .idle → ramping s c = true →
      (getBay t c).step = .removing 2 ∧ bayState t c = stRemoving ∧ 0x480 + c ∈ t.crier.pend
      ∧ (bayState s c = stActive → safeBay s c = false → 0x4D0 + c ∈ t.crier.pend))
    ∧ ((getBay s c).step = .idle → ramping s c = false → bayState s c ≠ stActive → bayState s c ≠ stRefused → t.bays = s.bays) := by
  refine ⟨_, exec_cartLatchOpen hc hheld hlatch, ?_, fun hidle hramp hst => ?_, fun hidle hramp => ?_,
    fun hidle hramp hactive hrefused => ?_⟩
  · rw [bayLatched_latchOpened _ hc, bayLatched_latchSeen]
  · rw [← bayState_latchSeen s c false] at hst ⊢
    rw [← safeBay_latchSeen s c false]
    exact latchOpened_removes (s := latchSeen s c false) hidle hramp hst
  · rw [← bayState_latchSeen s c false, ← safeBay_latchSeen s c false]
    exact latchOpened_reverses (s := latchSeen s c false) hc hidle hramp
  · rw [← bayState_latchSeen s c false] at hactive hrefused
    rw [latchOpened_stays (s := latchSeen s c false) hidle hramp hactive hrefused]
    rfl

/-- An insertion is abandoned. -/
theorem cartLatchOpen_abandons {n : Nat} (hstep : (getBay s c).step = .inserting n) :
    Completes (.cartLatchOpen c) s fun t => bayLatched t c = false ∧ (getBay t c).step = .idle ∧ bayEn t c = false
      ∧ (getBay t c).target = [] := by
  refine ⟨_, exec_cartLatchOpen hc hheld hlatch, ?_⟩
  dsimp only
  rw [bayLatched_latchOpened _ hc, bayLatched_latchSeen, latchOpened_inserting (s := latchSeen s c false) hstep, bayEn_abandon _ hc,
    getBay_abandon]
  exact ⟨rfl, rfl, rfl, rfl⟩

/-- A removal goes on. -/
theorem cartLatchOpen_removing {n : Nat} (hstep : (getBay s c).step = .removing n) :
    Completes (.cartLatchOpen c) s fun t => bayLatched t c = false ∧ getBay t c = { getBay s c with reclosed := false } := by
  refine ⟨_, exec_cartLatchOpen hc hheld hlatch, ?_⟩
  dsimp only
  rw [bayLatched_latchOpened _ hc, bayLatched_latchSeen, latchOpened_removing (s := latchSeen s c false) hstep, getBay_modBay_same]
  exact ⟨rfl, rfl⟩

end LatchOpen

-- The start of an insertion (R158).

theorem getBay_startInsert (s : State) (c : Nat) :
    getBay (startInsert s c) c = { getBay s c with step := .inserting 0, reclosed := false } := by
  rw [startInsert, getBay_bayTo, getBay_modBay_same]

theorem bayState_startInsert (s : State) (hc : c < 9) : bayState (startInsert s c) c = stPresent :=
  bayState_bayTo _ _ hc (by decide)

theorem regBit_startInsert (s : State) {i : Nat} (hc : c < 9) (hi : 2 < i ∧ i < 32) (h12 : i ≠ 12) :
    regBit (startInsert s c) (aBay c 0) i = regBit s (aBay c 0) i :=
  regBit_bayTo _ _ _ hc hc hi h12

-- CART_LATCH_CLOSE (R158, R159).

section LatchClose

variable (hc : c < 9) (hheld : islandHeld s 126 = false) (hlatch : bayLatched s c = false)

include hc hheld hlatch

/-- In a removal a latch that closes starts an insertion once the bay is without power, and is remembered before that. -/
theorem exec_cartLatchClose_removing {n : Nat} (hstep : (getBay s c).step = .removing n) :
    exec (.cartLatchClose c) s = .next (if n = 4 && bayPres s c then startInsert (latchSeen s c true) c
      else modBay (latchSeen s c true) c fun b => { b with reclosed := true }) := by
  have hheld' : islandHeld (latchSeen s c true) 126 = false := hheld
  have hpres : bayPres (latchSeen s c true) c = bayPres s c := regBit_setBit_ne (.inr (by decide))
  have hstep' : (getBay (latchSeen s c true) c).step = .removing n := hstep
  change execCartLatchClose c s = _
  rw [execCartLatchClose, hlatch, if_neg (by simp; omega), ← latchSeen]
  dsimp only
  rw [hheld', if_neg (by decide), hpres, hstep']

/-- Else it starts one unless the cartridge is in service. -/
theorem exec_cartLatchClose_idle (hstep : (getBay s c).step = .idle) :
    exec (.cartLatchClose c) s = .next (if bayPres s c && bayState s c != stActive then startInsert (latchSeen s c true) c
      else latchSeen s c true) := by
  have hheld' : islandHeld (latchSeen s c true) 126 = false := hheld
  have hpres : bayPres (latchSeen s c true) c = bayPres s c := regBit_setBit_ne (.inr (by decide))
  have hstep' : (getBay (latchSeen s c true) c).step = .idle := hstep
  change execCartLatchClose c s = _
  rw [execCartLatchClose, hlatch, if_neg (by simp; omega), ← latchSeen]
  dsimp only
  rw [hheld', if_neg (by decide), hpres, hstep', bayState_latchSeen]

/-- An insertion begins. -/
theorem cartLatchClose_inserts (hpres : bayPres s c = true)
    (hstep : (getBay s c).step = .removing 4 ∨ (getBay s c).step = .idle ∧ bayState s c ≠ stActive) :
    Completes (.cartLatchClose c) s fun t => bayLatched t c = true ∧ (getBay t c).step = .inserting 0 ∧ bayState t c = stPresent := by
  have hexec : exec (.cartLatchClose c) s = .next (startInsert (latchSeen s c true) c) := by
    rcases hstep with h | ⟨h, hactive⟩
    · rw [exec_cartLatchClose_removing hc hheld hlatch h, if_pos (by rw [hpres]; decide)]
    · rw [exec_cartLatchClose_idle hc hheld hlatch h, if_pos (by rw [hpres, Bool.true_and, bne_iff_ne]; exact hactive)]
  refine ⟨_, hexec, ?_, ?_, bayState_startInsert _ hc⟩
  · exact (regBit_startInsert _ hc (by decide) (by decide)).trans (bayLatched_latchSeen s c true)
  · rw [getBay_startInsert]

/-- In a removal the closing is remembered. -/
theorem cartLatchClose_remembers {n : Nat} (hstep : (getBay s c).step = .removing n) (hn : n ≠ 4 ∨ bayPres s c = false) :
    Completes (.cartLatchClose c) s fun t => bayLatched t c = true ∧ getBay t c = { getBay s c with reclosed := true } := by
  have hexec : exec (.cartLatchClose c) s = .next (modBay (latchSeen s c true) c fun b => { b with reclosed := true }) := by
    rw [exec_cartLatchClose_removing hc hheld hlatch hstep, if_neg (by rcases hn with h | h <;> simp [h])]
  refine ⟨_, hexec, bayLatched_latchSeen s c true, ?_⟩
  rw [getBay_modBay_same]
  rfl

end LatchClose

-- CART_INT (R155).

section Interrupt

variable (hc : c < 9) (hheld : islandHeld s 126 = false) (hpres : bayPres s c = true)

include hc hheld hpres

theorem exec_cartInt (shutdown : Bool) : exec (.cartInt c shutdown) s = .next (
    let u := modBay s c fun b => { b with asked := some (shutdown || b.asked == some true) }
    if fwRuns s then serveAsked u c else u) := by
  change execCartInt c shutdown s = _
  rw [execCartInt, hheld, hpres, if_neg (by simp; omega)]
  rfl

/-- R155: a reported shutdown waits for firmware, or acts as an opening latch. -/
theorem cartInt_shutdown : Completes (.cartInt c true) s fun t =>
    (fwRuns s = false → getBay t c = { getBay s c with asked := some true } ∧ t.regs = s.regs)
    ∧ (fwRuns s = true → bayState s c = stActive ∨ bayState s c = stRefused → (getBay s c).step = .idle → ramping s c = false →
      (getBay t c).step = .removing 1 ∧ (bayState s c = stActive → safeBay s c = false → 0x4D0 + c ∈ t.crier.pend)) := by
  refine ⟨_, exec_cartInt hc hheld hpres true, fun hfw => ?_, fun hfw hst hidle hramp => ?_⟩
  · simp only [hfw, Bool.true_or, if_neg Bool.false_ne_true]
    exact ⟨getBay_modBay_same s c _, rfl⟩
  · simp only [hfw, Bool.true_or, if_true]
    generalize hu : modBay s c (fun b => { b with asked := some true }) = u
    have hbay : getBay u c = { getBay s c with asked := some true } := by rw [← hu, getBay_modBay_same]
    have hv : getBay (modBay u c fun b => { b with asked := none }) c = { getBay s c with asked := none } := by
      rw [getBay_modBay_same, hbay]
    have hstate : bayState u c = bayState s c := by rw [← hu]; rfl
    have hserve : serveAsked u c = latchOpened (modBay u c fun b => { b with asked := none }) c := by
      have hne : (bayState (modBay u c fun b => { b with asked := none }) c != stRemoving) = true := by
        change (bayState u c != stRemoving) = true
        rw [hstate]
        rcases hst with h | h <;> rw [h] <;> rfl
      rw [serveAsked, hbay]
      dsimp only
      rw [hne]
      rfl
    have hramp' : ramping (modBay u c fun b => { b with asked := none }) c = false := by
      rw [ramping, hv, ← hramp, ramping, ← hu]
      rfl
    rw [hserve]
    have h := latchOpened_removes (by rw [hv, hidle]) hramp' (show bayState u c = _ ∨ bayState u c = _ by rwa [hstate])
    subst hu
    exact h

/-- R155: any other status changes nothing. -/
theorem cartInt_other (hasked : (getBay s c).asked = none) (hfw : fwRuns s = true) :
    Completes (.cartInt c false) s fun t => getBay t c = getBay s c ∧ Only [.bays] s t := by
  have hsame : { getBay s c with asked := none } = getBay s c := by
    rw [← hasked]
  refine ⟨_, exec_cartInt hc hheld hpres false, ?_⟩
  have hbay : getBay (modBay s c fun b => { b with asked := some (false || b.asked == some true) }) c
      = { getBay s c with asked := some false } := by
    rw [getBay_modBay_same, hasked]
    rfl
  simp only [hfw, if_true, serveAsked, hbay, Bool.false_and, if_neg Bool.false_ne_true]
  refine ⟨?_, Only.modBay _ _ _ (Only.modBay s _ _ (Only.refl s) (by decide)) (by decide)⟩
  rw [getBay_modBay_same, hbay, hsame]

end Interrupt

-- CART_PRESENCE_CHANGE (R152, R154, R156, R158).

section Presence

variable (hc : c < 9) (hheld : islandHeld s 126 = false)

/-- The bay with its presence as the pins show it. -/
def presSeen (s : State) (c : Nat) (b : Bool) : State := setBit s (aBay c 0) 8 b

include hc hheld

theorem exec_cartPresenceChange {b : Bool} (hpres : bayPres s c = !b) : exec (.cartPresenceChange c b) s = .next (
    if b then if bayLatched s c then startInsert (presSeen s c true) c else bayTo (presSeen s c true) c stPresent false
    else bayTo (forgetCart (abandon (forEach ((List.range 64).filter (chLive s c)) (fun s n => failShare s c n) (presSeen s c false)) c) c)
      c stEmpty true) := by
  have hheld' : ∀ b, islandHeld (presSeen s c b) 126 = false := fun _ => hheld
  have hlatch : ∀ b, bayLatched (presSeen s c b) c = bayLatched s c := fun _ => regBit_setBit_ne (.inr (by decide))
  have hlive : ∀ b, chLive (presSeen s c b) c = chLive s c := fun _ => funext fun _ => chLive_setBit s c _
  change execCartPresenceChange c b s = _
  rw [execCartPresenceChange, hpres, if_neg (by cases b <;> simp <;> omega), ← presSeen]
  dsimp only
  rw [hheld', if_neg (by decide), hlatch, hlive]
  cases b with
  | true => rw [if_pos rfl, if_pos rfl]
  | false => rw [if_neg Bool.false_ne_true, if_neg Bool.false_ne_true]

/-- A cartridge that seats is PRESENT, and begins its insertion where the latch is closed. -/
theorem cartPresenceChange_seats (hpres : bayPres s c = false) : Completes (.cartPresenceChange c true) s fun t =>
    bayPres t c = true ∧ bayState t c = stPresent ∧ (bayLatched s c = true → (getBay t c).step = .inserting 0)
      ∧ (bayLatched s c = false → (getBay t c).step = (getBay s c).step) := by
  refine ⟨_, exec_cartPresenceChange hc hheld hpres, ?_⟩
  have hseen : bayPres (presSeen s c true) c = true := regBit_setBit_same (by decide)
  beta_reduce
  rw [if_pos rfl]
  cases hlatch : bayLatched s c with
  | true =>
    rw [if_pos rfl, getBay_startInsert]
    exact ⟨(regBit_startInsert _ hc (by decide) (by decide)).trans hseen, bayState_startInsert _ hc, fun _ => rfl, nofun⟩
  | false =>
    rw [if_neg (by decide), getBay_bayTo]
    exact ⟨(regBit_bayTo _ _ _ hc hc (by decide) (by decide)).trans hseen, bayState_bayTo _ _ hc (by decide), nofun, fun _ => rfl⟩

end Presence

-- A cartridge that leaves.

/-- The registers of a bay without the cartridge's serial number, wear and currents. -/
def numbersForgotten (s : State) (c : Nat) : State := setReg64 (setReg (setReg s (aBay c 0x10) 0) (aBay c 0x14) 0) (aBay c 8) 0

theorem reg_numbersForgotten (s : State) {o : Nat} (h : o = 0 ∨ o = 0x38 ∨ o = 0x3C) :
    reg (numbersForgotten s c) (aBay c o) = reg s (aBay c o) := by
  have hne : ∀ p, 0 < p → p < 0x38 → aBay c o ≠ aBay c p := fun p h0 hp => aBay_ne (by omega) (by omega) (.inr (by omega))
  rw [numbersForgotten, reg_setReg64_ne _ _ (hne 8 (by decide) (by decide)) (hne 12 (by decide) (by decide)),
    reg_setReg_ne (hne _ (by decide) (by decide)), reg_setReg_ne (hne _ (by decide) (by decide))]

theorem forgetCart_regs (s : State) (c : Nat) :
    (forgetCart s c).regs = (setBit (setF (numbersForgotten s c) (aBay c 0) 15 13 0) (aBay c 0) 11 false).regs := rfl

theorem regBit_forgetCart (s : State) {i : Nat} (hi : i < 11) : regBit (forgetCart s c) (aBay c 0) i = regBit s (aBay c 0) i := by
  rw [regBit_of_reg (congrArg (fun m => mapGet (resetWord (aBay c 0)) m (aBay c 0)) (forgetCart_regs s c)),
    regBit_setBit_ne (.inr (by omega)), regBit_setF_ne (by omega) (.inl (by omega)),
    regBit_of_reg (reg_numbersForgotten s (.inl rfl))]

theorem chFailed_forgetCart (s : State) (n : Nat) : chFailed (forgetCart s c) c n = chFailed s c n := by
  have hkeep : ∀ o, o = 0x38 ∨ o = 0x3C → reg (forgetCart s c) (aBay c o) = reg s (aBay c o) := fun o ho => by
    have hne : aBay c o ≠ aBay c 0 := aBay_ne (by omega) (by decide) (.inr (by omega))
    rw [reg, forgetCart_regs, ← reg, reg_setBit_ne hne, reg_setF_ne hne, reg_numbersForgotten s (.inr ho)]
  exact chFailed_congr (hkeep _ (.inl rfl)) (hkeep _ (.inr rfl)) n

theorem getBay_forgetCart (s : State) (c : Nat) : getBay (forgetCart s c) c = { getBay s c with
    identity := none, challenge := [], wear := [], reclosed := false, ramp := 0, asked := none } :=
  getBay_modBay_same _ c _

/-- Shares that fail one after another leave the other bits of their BAY_STATUS. -/
theorem regBit_forEach_failShare (l : List Nat) (s : State) {i : Nat} (hc : c < 9) (hi : i < 32) (h12 : i ≠ 12) :
    regBit (forEach l (fun s n => failShare s c n) s) (aBay c 0) i = regBit s (aBay c 0) i :=
  forEach_keeps (P := fun u => regBit u (aBay c 0) i = regBit s (aBay c 0) i)
    (fun _ n hu => (regBit_failShare _ n hc hc hi h12).trans hu) l rfl

/-- Each of them is marked. -/
theorem chFailed_forEach_failShare {l : List Nat} {n : Nat} (s : State) (hc : c < 9) (hn : n < 64) (h : n ∈ l) :
    chFailed (forEach l (fun s n => failShare s c n) s) c n = true :=
  forEach_brings (P := fun u => chFailed u c n = true) (fun u => by rw [chFailed_failShare u n hc hn]; simp)
    (fun u m hu => by rw [chFailed_failShare u m hc hn, hu, Bool.true_or]) h s

/-- A cartridge that leaves ends in EMPTY, with EN low and its lit channels failed. -/
theorem cartPresenceChange_leaves (hc : c < 9) (hheld : islandHeld s 126 = false) (hpres : bayPres s c = true) :
    Completes (.cartPresenceChange c false) s fun t => bayPres t c = false ∧ bayState t c = stEmpty ∧ (getBay t c).identity = none
      ∧ (getBay t c).step = .idle ∧ (getBay t c).target = [] ∧ bayEn t c = false ∧ 0x480 + c ∈ t.crier.pend
      ∧ (List.range 64).all (fun n => !chLive s c n || chFailed t c n) = true := by
  refine ⟨_, exec_cartPresenceChange hc hheld hpres, ?_⟩
  beta_reduce
  rw [if_neg Bool.false_ne_true]
  have hpins : bayPres (forEach ((List.range 64).filter (chLive s c)) (fun s n => failShare s c n) (presSeen s c false)) c = false :=
    (regBit_forEach_failShare _ _ hc (by decide) (by decide)).trans (regBit_setBit_same (by decide))
  have hmarks : ∀ n < 64, chLive s c n = true →
      chFailed (forEach ((List.range 64).filter (chLive s c)) (fun s n => failShare s c n) (presSeen s c false)) c n = true :=
    fun n hn hlive => chFailed_forEach_failShare _ hc hn (List.mem_filter.mpr ⟨List.mem_range.mpr hn, hlive⟩)
  generalize forEach ((List.range 64).filter (chLive s c)) (fun s n => failShare s c n) (presSeen s c false) = u at hpins hmarks ⊢
  rw [getBay_bayTo, getBay_forgetCart, getBay_abandon]
  refine ⟨?_, bayState_bayTo _ _ hc (by decide), rfl, rfl, rfl, ?_, mem_bayTo_told _ _ _, ?_⟩
  · rw [bayPres, regBit_bayTo _ _ _ hc hc (by decide) (by decide), regBit_forgetCart _ (by decide), regBit_abandon _ hc (by decide)]
    exact hpins
  · rw [bayEn, regBit_bayTo _ _ _ hc hc (by decide) (by decide), regBit_forgetCart _ (by decide)]
    exact bayEn_abandon u hc
  · rw [List.all_eq_true]
    intro n hn
    rw [chFailed_bayTo _ _ _ hc hc, chFailed_forgetCart]
    change (!chLive s c n || chFailed (enLow u c) c n) = true
    rw [chFailed_enLow u hc]
    cases hlive : chLive s c n
    · rfl
    · rw [hmarks n (List.mem_range.mp hn) hlive]
      rfl

end Sys2Proof.Proofs
end

section
/-!
Proofs of the statements on laser cartridges: the steps of an insertion up to its power (R158 to R161, Table CRT-2).
-/
namespace Sys2Proof.Proofs

open Sys2Proof Sys2Proof.Machine Sys2Proof.Laws

variable {c : Nat} {s : State}

-- WEAR and its warnings (R163).

theorem getBay_wearReport (s : State) (c d : Nat) : getBay (wearReport s c) d = getBay s d :=
  getBay_of_bays (Only.wearReport (fr := [.regs, .owed, .crier, .flt]) s c (Only.refl s) (by decide) (by decide) (by decide)
    (by decide) .bays (by decide)) d

/-- WEAR and bits 15 to 13 of BAY_STATUS are written. -/
theorem regF_wearReport (s : State) {a hi lo : Nat} (hc : c < 9) (ha : CrtBlock a) (hwear : a ≠ aBay c 0x10)
    (h : hi < 32 ∧ hi < 13 ∨ a ≠ aBay c 0) : regF (wearReport s c) a hi lo = regF s a hi lo := by
  have hbit : ∀ (u : State) {i : Nat} (b : Bool), 12 < i → regF (setBit u (aBay c 0) i b) a hi lo = regF u a hi lo := fun u i b hi => by
    rcases h with ⟨h32, h13⟩ | hne
    · exact regF_setF_ne h32 (.inl (by omega))
    · exact regF_of_reg (reg_setBit_ne hne) _ _
  have hraise : ∀ (u : State) (l : List Nat), regF (forEach l (fun s _ => raise s (0x4A0 + c)) u) a hi lo = regF u a hi lo := fun u l =>
    regF_of_reg (reg_forEach (fun v _ => reg_raise_mid ha.mid v (by omega)) l u) _ _
  unfold wearReport
  extract_lets w b w80 w95 u k v
  rw [hraise, show v = setBit (setBit (setBit u b 13 w80) b 14 w95) b 15 (decide (90000000 ≤ w)) from rfl, hbit _ _ (by decide),
    hbit _ _ (by decide), hbit _ _ (by decide)]
  exact regF_of_reg (reg_setReg_ne hwear) _ _

theorem reg64_congr_regF {t : State} {a : Nat} (hlow : regF t a 31 0 = regF s a 31 0) (hhigh : regF t (a + 4) 31 0 = regF s (a + 4) 31 0) :
    reg64 t a = reg64 s a := by
  have hword : ∀ (u : State) b, regF u b 31 0 = (reg u b).toNat := fun u b => Nat.mod_eq_of_lt (reg u b).isLt
  rw [hword, hword] at hlow hhigh
  rw [reg64, hlow, hhigh, reg64]

theorem mem_wearReport_of_mem {x : Nat} (h : x ∈ s.crier.pend) (c : Nat) : x ∈ (wearReport s c).crier.pend := by
  unfold wearReport
  exact forEach_keeps (P := fun u => x ∈ u.crier.pend) (fun _ _ hu => mem_raise_of_mem hu) _ h

-- The challenge (R160, R465).

/-- A challenge changes of a bay its octets alone. -/
theorem getBay_sendChallenge (s : State) (c : Nat) : ∃ ch, getBay (sendChallenge s c) c = { getBay s c with challenge := ch } := by
  unfold sendChallenge
  split
  · exact ⟨_, rfl⟩
  · exact ⟨_, getBay_modBay_same (drawn s) c fun b => { b with challenge := sliceZ (Config.random 16 s.freeCtr) 0 16 }⟩

theorem sendChallenge_regs (s : State) (c : Nat) : (sendChallenge s c).regs = s.regs := by
  unfold sendChallenge
  split <;> rfl

theorem sendChallenge_crier (s : State) (c : Nat) : (sendChallenge s c).crier = s.crier := by
  unfold sendChallenge
  split <;> rfl

-- The identity record (Table CRT-2 step 2, Table CRT-5).

theorem leNat_lt (b : List Byte) : leNat b < 256 ^ b.length := by
  induction b with
  | nil => decide
  | cons x b ih =>
    have hx : x.toNat < 256 := x.isLt
    change x.toNat + 256 * leNat b < 256 ^ (b.length + 1)
    rw [Nat.pow_succ]
    omega

theorem length_sliceZ (b : List Byte) (o n : Nat) : (sliceZ b o n).length = n := by
  simp only [sliceZ, List.length_append, List.length_replicate, List.length_take]
  omega

theorem leAt_lt (b : List Byte) (o n : Nat) : leAt b o n < 256 ^ n := by
  have h := leNat_lt (sliceZ b o n)
  rwa [length_sliceZ] at h

/-- The failed channels of another cartridge are forgotten (R154). -/
def failuresOf (s : State) (c serial : Nat) : State :=
  whenB (!((getBay s c).failedOf == some serial))
    (fun s => modBay (setReg64 s (aBay c 0x38) 0) c fun b => { b with failedOf := none }) s

theorem step_failuresOf (s : State) (c serial : Nat) : (getBay (failuresOf s c serial) c).step = (getBay s c).step := by
  unfold failuresOf whenB
  split
  · rw [getBay_modBay_same]
    rfl
  · rfl

theorem reg_failuresOf (s : State) (serial : Nat) {a : Nat} (hlow : a ≠ aBay c 0x38) (hhigh : a ≠ aBay c 0x3C) :
    reg (failuresOf s c serial) a = reg s a :=
  reg_whenB (f := fun s => modBay (setReg64 s (aBay c 0x38) 0) c fun b => { b with failedOf := none })
    (fun u => reg_setReg64_ne u 0 hlow hhigh) _ s

theorem failuresOf_crier (s : State) (c serial : Nat) : (failuresOf s c serial).crier = s.crier := by
  unfold failuresOf whenB
  split <;> rfl

/-- The bay with the record that has been read, before its wear is shown and its challenge sent. -/
def recordHeld (s : State) (c : Nat) (i : Identity) (wear : Store Nat) : State :=
  setReg64 (modBay (emit s (.i2cIdentity c)) c fun b => { b with identity := some i, wear := wear, step := .inserting 2 })
    (aBay c 8) (idSerial i)

/-- A record is read in four parts: its journal copy, the failures that go with it, the record itself, and what follows. -/
theorem readIdentity_eq (s : State) (c : Nat) (i : Identity) : ∃ pick wear, readIdentity s c i
    = sendChallenge (wearReport (recordHeld (failuresOf (jrnReads s pick) c (idSerial i)) c i wear) c) c := ⟨_, _, rfl⟩

theorem mem_jrnReads_of_mem {x : Nat} (h : x ∈ s.crier.pend) (pick : JrnEntry → Bool) : x ∈ (jrnReads s pick).crier.pend := by
  have htagged : ∀ (u : State) part ok, (jrnTagged u part ok).crier = u.crier := fun u part ok =>
    Only.jrnTagged (fr := [.regs]) u part ok (Only.refl u) (by decide) .crier (by decide)
  have hdrop : ∀ (r : JrnRecord) (u : State), x ∈ u.crier.pend → x ∈ (jrnDrop u r).crier.pend := fun r u hu => by
    unfold jrnDrop
    exact mem_raise_of_mem hu
  refine forEach_keeps (P := fun u => x ∈ u.crier.pend) (fun u r hu => ?_) _ h
  split
  · refine mem_whenB_of_mem (hdrop r) _ ?_
    rw [htagged]
    exact hu
  · rwa [htagged]

/-- R158, R162: what a bay holds of a record once it has been read. -/
theorem readIdentity_reads (s : State) (i : Identity) (hc : c < 9) :
    (getBay (readIdentity s c i) c).step = .inserting 2 ∧ (getBay (readIdentity s c i) c).identity = some i
      ∧ reg64 (readIdentity s c i) (aBay c 8) = leAt i.octets 0 8 ∧ bayState (readIdentity s c i) c = bayState s c
      ∧ ∀ x, x ∈ s.crier.pend → x ∈ (readIdentity s c i).crier.pend := by
  obtain ⟨pick, wear, heq⟩ := readIdentity_eq s c i
  rw [heq]
  generalize hu : failuresOf (jrnReads s pick) c (idSerial i) = u
  obtain ⟨ch, hch⟩ := getBay_sendChallenge (wearReport (recordHeld u c i wear) c) c
  have hreg : ∀ a, reg (sendChallenge (wearReport (recordHeld u c i wear) c) c) a = reg (wearReport (recordHeld u c i wear) c) a := fun a => by
    rw [reg, sendChallenge_regs, ← reg]
  have hbay : getBay (recordHeld u c i wear) c = { getBay u c with identity := some i, wear := wear, step := .inserting 2 } :=
    getBay_modBay_same (emit u (.i2cIdentity c)) c fun b => { b with identity := some i, wear := wear, step := .inserting 2 }
  have hserial : reg64 (recordHeld u c i wear) (aBay c 8) = leAt i.octets 0 8 :=
    (reg64_setReg64 _ _ _).trans (Nat.mod_eq_of_lt (leAt_lt i.octets 0 8))
  have hne : ∀ o p, o < 0x100 → p < 0x100 → o ≠ p → aBay c o ≠ aBay c p := fun o p ho hp h => aBay_ne ho hp (.inr h)
  have hwear : ∀ o, 0 < o → o < 0x10 → regF (wearReport (recordHeld u c i wear) c) (aBay c o) 31 0
      = regF (recordHeld u c i wear) (aBay c o) 31 0 := fun o h0 ho =>
    regF_wearReport _ hc (crtBlock_aBay hc (by omega)) (hne _ _ (by omega) (by decide) (by omega))
      (.inr (hne _ _ (by omega) (by decide) (by omega)))
  refine ⟨?_, ?_, ?_, ?_, fun x hx => ?_⟩
  · rw [hch, getBay_wearReport, hbay]
  · rw [hch, getBay_wearReport, hbay]
  · rw [reg64_of_reg (hreg _) (hreg _), reg64_congr_regF (hwear 8 (by decide) (by decide)) (hwear 12 (by decide) (by decide)), hserial]
  · have hstatus : reg (recordHeld u c i wear) (aBay c 0) = reg s (aBay c 0) := by
      rw [recordHeld, reg_setReg64_ne _ _ (hne _ _ (by decide) (by decide) (by decide)) (hne 0 12 (by decide) (by decide) (by decide)),
        reg_modBay, ← hu]
      exact (reg_failuresOf _ _ (hne _ _ (by decide) (by decide) (by decide)) (hne _ _ (by decide) (by decide) (by decide))).trans
        ((BaysApart.jrnReads s pick).reg hc (by decide))
    rw [bayState, regF_of_reg (hreg _), regF_wearReport _ hc (crtBlock_aBay hc (by decide))
      (hne _ _ (by decide) (by decide) (by decide)) (.inl (by decide)), regF_of_reg hstatus, bayState]
  · rw [sendChallenge_crier]
    refine mem_wearReport_of_mem ?_ c
    change x ∈ u.crier.pend
    rw [← hu, failuresOf_crier]
    exact mem_jrnReads_of_mem hx pick

-- CART_AUTHENTICATING (Table CRT-2 steps 1 and 2).

/-- Step 1 leads to AUTHENTICATING, and to step 2 where firmware runs. -/
theorem cartAuthenticating_starts (i : Identity) (hc : c < 9) (hstep : (getBay s c).step = .inserting 0) :
    Completes (.cartAuthenticating c i) s fun t => bayState t c = stAuthenticating ∧ 0x480 + c ∈ t.crier.pend
      ∧ (fwRuns s = true → (getBay t c).step = .inserting 2 ∧ (getBay t c).identity = some i
        ∧ reg64 t (aBay c 8) = leAt i.octets 0 8)
      ∧ (fwRuns s = false → (getBay t c).step = .inserting 1) := by
  generalize hu : bayTo (modBay s c fun b => { b with step := .inserting 1 }) c stAuthenticating true = u
  have hfw : fwRuns u = fwRuns s := by
    rw [← hu, fwRuns_bayTo _ _ _ hc]
    rfl
  have hexec : exec (.cartAuthenticating c i) s = .next (if fwRuns s then readIdentity u c i else u) := by
    change execCartAuthenticating c i s = _
    rw [execCartAuthenticating, if_neg (by simp; omega), hstep, ← hfw, ← hu]
    rfl
  have hstate : bayState u c = stAuthenticating := by
    rw [← hu]
    exact bayState_bayTo _ _ hc (by decide)
  have htold : 0x480 + c ∈ u.crier.pend := by
    rw [← hu]
    exact mem_bayTo_told _ _ _
  refine ⟨_, hexec, ?_⟩
  cases fwRuns s with
  | true =>
    obtain ⟨hread, hid, hserial, hsame, hpend⟩ := readIdentity_reads u i hc
    exact ⟨hsame.trans hstate, hpend _ htold, fun _ => ⟨hread, hid, hserial⟩, nofun⟩
  | false =>
    refine ⟨hstate, htold, nofun, fun _ => ?_⟩
    rw [if_neg Bool.false_ne_true, ← hu, getBay_bayTo, getBay_modBay_same]

/-- Step 2, once firmware runs. -/
theorem cartAuthenticating_reads (i : Identity) (hc : c < 9) (hstep : (getBay s c).step = .inserting 1) (hfw : fwRuns s = true) :
    Completes (.cartAuthenticating c i) s fun t => (getBay t c).step = .inserting 2 ∧ (getBay t c).identity = some i
      ∧ reg64 t (aBay c 8) = leAt i.octets 0 8 := by
  have hexec : exec (.cartAuthenticating c i) s = .next (readIdentity s c i) := by
    change execCartAuthenticating c i s = _
    rw [execCartAuthenticating, if_neg (by simp; omega), hstep, hfw]
    rfl
  obtain ⟨hread, hid, hserial, -⟩ := readIdentity_reads s i hc
  exact ⟨_, hexec, hread, hid, hserial⟩

-- The outcome of a check (R160, R161, R476).

/-- TRUSTED shows the outcome. -/
theorem reg_noteTrust (s : State) (ok : Bool) {a : Nat} (ha : CrtBlock a) (hne : a ≠ aBay c 0x14) :
    reg (noteTrust s c ok) a = reg (setBit s (aBay c 0) 11 ok) a := by
  have hcount : BaysApart s (whenB (!ok) (secCount · 1) (secCount s 0)) :=
    (BaysApart.secCount s (by decide)).trans (.whenB (fun u => .secCount u (by decide)) _ _)
  unfold noteTrust
  extract_lets u full hw
  rw [reg_setReg_ne hne, reg_modBay, show u = setBit (whenB (!ok) (secCount · 1) (secCount s 0)) (aBay c 0) 11 ok from rfl]
  by_cases h : a = aBay c 0
  · rw [h, reg_setBit_same, reg_setBit_same, hcount.regs _ (h ▸ ha)]
  · rw [reg_setBit_ne h, reg_setBit_ne h, hcount.regs _ ha]

theorem getBay_noteTrust (s : State) (c : Nat) (ok : Bool) : getBay (noteTrust s c ok) c = { getBay s c with challenge := [] } := by
  have hcount : (whenB (!ok) (secCount · 1) (secCount s 0)).bays = s.bays := by cases ok <;> rfl
  unfold noteTrust
  extract_lets u full hw
  refine (getBay_modBay_same u c fun b => { b with challenge := [] }).trans ?_
  rw [show getBay u c = getBay s c from getBay_of_bays hcount c]

theorem noteTrust_top (s : State) (c : Nat) (ok : Bool) : (noteTrust s c ok).top = s.top :=
  Only.noteTrust (fr := [.regs, .bays]) s c ok (Only.refl s) (by decide) (by decide) .top (by decide)

section NoteTrust

variable (s : State) (ok : Bool) (hc : c < 9)

include hc

theorem reg_noteTrust_status : reg (noteTrust s c ok) (aBay c 0) = reg (setBit s (aBay c 0) 11 ok) (aBay c 0) :=
  reg_noteTrust s ok (crtBlock_aBay hc (by decide)) (aBay_ne (by decide) (by decide) (.inr (by decide)))

theorem trusted_noteTrust : regBit (noteTrust s c ok) (aBay c 0) 11 = ok := by
  rw [regBit_of_reg (reg_noteTrust_status s ok hc), regBit_setBit_same (by decide)]

theorem bayState_noteTrust : bayState (noteTrust s c ok) c = bayState s c := by
  rw [bayState, regF_of_reg (reg_noteTrust_status s ok hc)]
  exact bayState_setBit s c (by decide)

omit hc in
theorem policy_noteTrust : regBit (noteTrust s c ok) (aCrt 0) 0 = regBit s (aCrt 0) 0 := by
  rw [regBit_of_reg (reg_noteTrust s ok crtBlock_aCrt (aCrt_ne_aBay c _)), regBit_of_reg (reg_setBit_ne (aCrt_ne_aBay c _))]

end NoteTrust

-- The policy (R161).

section Policy

variable {ok : Bool}

/-- An admitted cartridge goes on to its power. -/
theorem applyPolicy_admits (h : (ok || regBit s (aCrt 0) 0) = true) (hlcs : s.top.fuses.lcs ≠ .retired) :
    applyPolicy s c ok = whenB (!ok) (raise · (0x4C0 + c)) (modBay s c fun b => { b with step := .inserting 3 }) := by
  rw [applyPolicy, h, if_pos (by simpa using hlcs)]

/-- One that is not admitted ends in REFUSED. -/
theorem applyPolicy_refuses (h : (ok || regBit s (aCrt 0) 0) = false ∨ s.top.fuses.lcs = .retired) :
    applyPolicy s c ok = bayTo (modBay s c fun b => { b with step := .idle }) c stRefused (bayState s c != stRefused) := by
  rw [applyPolicy, if_neg]
  rcases h with h | h <;> simp [h]

theorem admitted_spec (s : State) (ok : Bool) (hc : c < 9) :
    let t := whenB (!ok) (raise · (0x4C0 + c)) (modBay s c fun b => { b with step := .inserting 3 })
    getBay t c = { getBay s c with step := .inserting 3 } ∧ reg t (aBay c 0) = reg s (aBay c 0) ∧ (ok = false → 0x4C0 + c ∈ t.crier.pend) := by
  have hapart : ∀ u, BaysApart u (whenB (!ok) (raise · (0x4C0 + c)) u) := .whenB (fun u => .raise u (by omega)) _
  refine ⟨?_, (hapart _).reg hc (by decide), fun hok => ?_⟩
  · rw [(hapart _).getBay, getBay_modBay_same]
  · rw [hok]
    exact mem_raise _ _

/-- The policy leaves TRUSTED and the challenge. -/
theorem applyPolicy_keeps (s : State) (ok : Bool) (hc : c < 9) : regBit (applyPolicy s c ok) (aBay c 0) 11 = regBit s (aBay c 0) 11
    ∧ (getBay (applyPolicy s c ok) c).challenge = (getBay s c).challenge := by
  unfold applyPolicy
  split
  · obtain ⟨hbay, hreg, -⟩ := admitted_spec s ok hc
    exact ⟨regBit_of_reg hreg 11, by rw [hbay]⟩
  · refine ⟨regBit_bayTo _ _ _ hc hc (by decide) (by decide), ?_⟩
    rw [getBay_bayTo, getBay_modBay_same]

end Policy

-- CART_CHALLENGE_CHECK (Table CRT-2 step 3, R160, R161).

/-- R160, R161: the tag is judged, and the policy with TRUSTED decides. -/
theorem cartChallengeCheck_judges (tag : List Byte) (hc : c < 9) (hstep : (getBay s c).step = .inserting 2) (hch : (getBay s c).challenge ≠ [])
    (hfw : fwRuns s = true) (hseal : sealReady s = true) :
    Completes (.cartChallengeCheck c tag) s fun t => regBit t (aBay c 0) 11 = tagChecks s c tag ∧ (getBay t c).challenge = []
      ∧ (tagChecks s c tag = true ∨ regBit s (aCrt 0) 0 = true → s.top.fuses.lcs ≠ .retired → (getBay t c).step = .inserting 3
        ∧ (tagChecks s c tag = false → 0x4C0 + c ∈ t.crier.pend))
      ∧ (tagChecks s c tag = false ∧ regBit s (aCrt 0) 0 = false ∨ s.top.fuses.lcs = .retired →
        (getBay t c).step = .idle ∧ bayState t c = stRefused ∧ (bayState s c ≠ stRefused → 0x480 + c ∈ t.crier.pend)) := by
  have hexec : exec (.cartChallengeCheck c tag) s
      = .next (applyPolicy (noteTrust s c (tagChecks s c tag)) c (tagChecks s c tag)) := by
    change execCartChallengeCheck c tag s = _
    rw [execCartChallengeCheck, hstep, hfw, hseal, if_neg (by simp [hch]; omega)]
  refine ⟨_, hexec, ?_⟩
  generalize tagChecks s c tag = ok
  obtain ⟨htrusted, hchallenge⟩ := applyPolicy_keeps (noteTrust s c ok) ok hc
  refine ⟨htrusted.trans (trusted_noteTrust s ok hc), ?_, fun hok hlcs => ?_, fun hno => ?_⟩
  · rw [hchallenge, getBay_noteTrust]
  · rw [applyPolicy_admits (by rw [policy_noteTrust]; simpa using hok) (by rwa [noteTrust_top])]
    obtain ⟨hbay, -, hpend⟩ := admitted_spec (noteTrust s c ok) ok hc
    exact ⟨by rw [hbay], hpend⟩
  · rw [applyPolicy_refuses (by rw [policy_noteTrust, noteTrust_top]; simpa using hno), bayState_noteTrust s ok hc, getBay_bayTo,
      getBay_modBay_same]
    refine ⟨rfl, bayState_bayTo _ _ hc (by decide), fun hne => ?_⟩
    rw [bne_iff_ne.mpr hne]
    exact mem_bayTo_told _ _ _

-- CART_EN_RAISE (Table CRT-2 step 4).

theorem cartEnRaise_powers (hc : c < 9) (hstep : (getBay s c).step = .inserting 3) :
    Completes (.cartEnRaise c) s fun t => bayEn t c = true ∧ (getBay t c).step = .inserting 4 := by
  have hexec : exec (.cartEnRaise c) s
      = .next (modBay (setBit s (aBay c 0) 10 true) c fun b => { b with step := .inserting 4 }) := by
    change execCartEnRaise c s = _
    rw [execCartEnRaise, hstep, if_neg (by simp; omega)]
  refine ⟨_, hexec, regBit_setBit_same (by decide), ?_⟩
  rw [getBay_modBay_same]

end Sys2Proof.Proofs
end

section
/-!
Proofs of the statements on laser cartridges: an operation carried out for each of several channels or bays, lighting up (Table CRT-2
step 5), and the steps of a removal (Table CRT-1).
-/
namespace Sys2Proof.Proofs

open Sys2Proof Sys2Proof.Machine Sys2Proof.Laws

variable {c d n m : Nat} {s : State}

-- An operation carried out for each element of a list, seen through what one element decides.

section Each

variable {α β : Type} {f : State → α → State} {V : State → β} {l : List α} {x : α}

/-- What no element of the list touches stays. -/
theorem forEach_view (hf : ∀ s, ∀ y ∈ l, V (f s y) = V s) (s : State) : V (forEach l f s) = V s :=
  List.foldlRecOn (motive := fun u => V u = V s) l f rfl fun u hu y hy => (hf u y hy).trans hu

/-- What one element alone touches is in the end what that element makes of it, and what every element keeps holds from there. -/
theorem forEach_view_at (hl : l.Nodup) (hx : x ∈ l) (hf : ∀ s, ∀ y ∈ l, y ≠ x → V (f s y) = V s) (s : State) :
    ∃ u, V u = V s ∧ V (forEach l f s) = V (f u x) ∧ ∀ P : State → Prop, (∀ t y, P t → P (f t y)) → P (f u x) → P (forEach l f s) := by
  obtain ⟨before, after, rfl⟩ := List.append_of_mem hx
  have hsplit : forEach (before ++ x :: after) f s = forEach after f (f (forEach before f s) x) := List.foldl_append
  have hbefore : ∀ y ∈ before, y ≠ x := fun y hy h =>
    (List.nodup_append.mp hl).2.2 y hy x List.mem_cons_self h
  have hafter : ∀ y ∈ after, y ≠ x := fun y hy h =>
    (List.nodup_cons.mp (List.nodup_append.mp hl).2.1).1 (h ▸ hy)
  refine ⟨forEach before f s, ?_, ?_, fun P hP hu => ?_⟩
  · exact forEach_view (fun t y hy => hf t y (List.mem_append_left _ hy) (hbefore y hy)) s
  · rw [hsplit]
    exact forEach_view (fun t y hy => hf t y (List.mem_append_right _ (List.mem_cons_of_mem x hy)) (hafter y hy)) _
  · rw [hsplit]
    exact forEach_keeps hP _ hu

end Each

-- What decides the light of a channel beside its partner.

/-- The targets of a channel and of its partner, and what decides whether the partner gives light. -/
def shareView (c n : Nat) (s : State) : Nat × Nat × Bool × Nat × BayStep :=
  let p := partner c n
  (targetOf s c n, targetOf s p.1 p.2, chFailed s p.1 p.2, bayState s p.1, (getBay s p.1).step)

section ShareView

variable {t u : State}

theorem chLive_of_shareView (h : shareView c n t = shareView c n s) :
    chLive t (partner c n).1 (partner c n).2 = chLive s (partner c n).1 (partner c n).2 := by
  simp only [shareView, Prod.mk.injEq] at h
  obtain ⟨-, htarget, hfail, -, -⟩ := h
  rw [chLive, htarget, hfail, chLive]

theorem willLight_of_shareView (h : shareView c n t = shareView c n s) :
    willLight t (partner c n).1 (partner c n).2 = willLight s (partner c n).1 (partner c n).2 := by
  simp only [shareView, Prod.mk.injEq] at h
  obtain ⟨-, htarget, hfail, hstate, hstep⟩ := h
  rw [willLight, htarget, hfail, hstate, hstep, willLight]

theorem targetOf_of_shareView (h : shareView c n t = shareView c n s) : targetOf t c n = targetOf s c n
    ∧ targetOf t (partner c n).1 (partner c n).2 = targetOf s (partner c n).1 (partner c n).2 := by
  simp only [shareView, Prod.mk.injEq] at h
  obtain ⟨htarget, hpartner, -, -, -⟩ := h
  exact ⟨htarget, hpartner⟩

/-- A target of neither share leaves them. -/
theorem shareView_setTarget (s : State) (k : Nat) (hown : d ≠ c ∨ m ≠ n) (hpartner : d ≠ (partner c n).1 ∨ m ≠ (partner c n).2) :
    shareView c n (setTarget s d m k) = shareView c n s := by
  have hstate : ∀ e, bayState (setTarget s d m k) e = bayState s e := fun e =>
    regF_of_reg (reg_setTarget_aBay s m k (by decide)) _ _
  simp only [shareView, step_setTarget, chFailed_setTarget, hstate]
  rw [targetOf_setTarget_ne s k (by omega), targetOf_setTarget_ne s k (by omega)]

/-- The target of another channel of the bay leaves the two shares. -/
theorem shareView_setTarget_other (s : State) (k : Nat) (h : m ≠ n) : shareView c n (setTarget s c m k) = shareView c n s :=
  shareView_setTarget s k (.inr h) (.inl (partner_bay_ne c n).symm)

/-- So does that of its partner. -/
theorem shareView_setTarget_otherPartner (s : State) (k : Nat) (hn : n < 64) (hm : m < 64) (h : m ≠ n) :
    shareView c n (setTarget s (partner c m).1 (partner c m).2 k) = shareView c n s := by
  refine shareView_setTarget s k (.inl (partner_bay_ne c m)) ?_
  rw [← not_and_or]
  exact fun ⟨hbay, hch⟩ => h (partner_injective hm hn (Prod.ext hbay hch))

end ShareView

-- CART_ACTIVATE (Table CRT-2 step 5, R154).

section Activate

/-- A channel that has not failed is lit: at half beside a share that gives light or will, whose own target is half then. -/
def lightUp (c : Nat) (s : State) (n : Nat) : State :=
  let t := setTarget s c n (if willLight s (partner c n).1 (partner c n).2 then 1 else 2)
  if chLive t (partner c n).1 (partner c n).2 then setTarget t (partner c n).1 (partner c n).2 1 else t

/-- The bay that ramps up from now on. -/
def rampBegun (s : State) (c : Nat) : State := modBay s c fun b => { b with step := .idle, ramp := s.elapsed + 1 }

theorem exec_cartActivate (hc : c < 9) (hstep : (getBay s c).step = .inserting 4) :
    exec (.cartActivate c) s = .next (bayTo (forEach ((List.range 64).filter (!chFailed s c ·)) (lightUp c) (rampBegun s c)) c stActive true) := by
  change execCartActivate c s = _
  rw [execCartActivate, hstep, if_neg (by simp; omega)]
  rfl

theorem shareView_lightUp (s : State) (hn : n < 64) (hm : m < 64) (h : m ≠ n) : shareView c n (lightUp c s m) = shareView c n s := by
  unfold lightUp
  extract_lets t
  have ht : shareView c n t = shareView c n s := shareView_setTarget_other s _ h
  split
  · exact (shareView_setTarget_otherPartner t 1 hn hm h).trans ht
  · exact ht

theorem step_lightUp (s : State) (c m d : Nat) : (getBay (lightUp c s m) d).step = (getBay s d).step := by
  unfold lightUp
  extract_lets t
  have ht : (getBay t d).step = (getBay s d).step := step_setTarget s c m _ d
  split
  · rw [step_setTarget, ht]
  · exact ht

/-- What lighting up makes of the two shares. -/
theorem targetOf_lightUp (s : State) (c n : Nat) :
    targetOf (lightUp c s n) c n = (if willLight s (partner c n).1 (partner c n).2 then 1 else 2)
      ∧ (chLive s (partner c n).1 (partner c n).2 = true → targetOf (lightUp c s n) (partner c n).1 (partner c n).2 = 1) := by
  unfold lightUp
  extract_lets t
  have hown : targetOf t c n = if willLight s (partner c n).1 (partner c n).2 then 1 else 2 := targetOf_setTarget_same s c n _
  have hlive : chLive t (partner c n).1 (partner c n).2 = chLive s (partner c n).1 (partner c n).2 := by
    rw [chLive, chFailed_setTarget, targetOf_setTarget_ne s _ (.inl (partner_bay_ne c n)), chLive]
  rw [hlive]
  split
  · rw [targetOf_setTarget_ne t 1 (.inl (partner_bay_ne c n).symm)]
    exact ⟨hown, fun _ => targetOf_setTarget_same t _ _ 1⟩
  next h => exact ⟨hown, fun hl => absurd hl h⟩

theorem shareView_rampBegun (s : State) (c n : Nat) : shareView c n (rampBegun s c) = shareView c n s := by
  have hne : getBay (rampBegun s c) (partner c n).1 = getBay s (partner c n).1 := getBay_modBay_ne s _ (partner_bay_ne c n)
  have hown : targetOf (rampBegun s c) c n = targetOf s c n := by
    rw [targetOf, rampBegun, getBay_modBay_same]
    rfl
  have hpartner : ∀ m, targetOf (rampBegun s c) (partner c n).1 m = targetOf s (partner c n).1 m := fun m => by rw [targetOf, hne, targetOf]
  simp only [shareView, hown, hpartner, hne]
  rfl

/-- The whole of lighting up, for a channel of the bay. -/
theorem lit_channels (s : State) (c : Nat) (hn : n < 64) :
    let t := forEach ((List.range 64).filter (!chFailed s c ·)) (lightUp c) (rampBegun s c)
    targetOf t c n = (if chFailed s c n then targetOf s c n else if willLight s (partner c n).1 (partner c n).2 then 1 else 2)
      ∧ (chFailed s c n = false → chLive s (partner c n).1 (partner c n).2 = true → targetOf t (partner c n).1 (partner c n).2 = 1) := by
  have hmem : ∀ y, y ∈ (List.range 64).filter (!chFailed s c ·) ↔ y < 64 ∧ chFailed s c y = false := fun y => by
    simp only [List.mem_filter, List.mem_range, Bool.not_eq_true']
  have hothers : ∀ u, ∀ y ∈ (List.range 64).filter (!chFailed s c ·), y ≠ n → shareView c n (lightUp c u y) = shareView c n u :=
    fun u y hy h => shareView_lightUp u hn ((hmem y).mp hy).1 h
  dsimp only
  cases hfail : chFailed s c n with
  | true =>
    have hkept := (forEach_view (fun u y hy => hothers u y hy fun h => by rw [h] at hy; simp [(hmem n).mp hy] at hfail) (rampBegun s c)).trans
      (shareView_rampBegun s c n)
    exact ⟨(targetOf_of_shareView hkept).1, nofun⟩
  | false =>
    obtain ⟨u, hu, hend, -⟩ := forEach_view_at (List.nodup_range.filter _) ((hmem n).mpr ⟨hn, hfail⟩) hothers (rampBegun s c)
    replace hu := hu.trans (shareView_rampBegun s c n)
    obtain ⟨hown, hpartner⟩ := targetOf_of_shareView hend
    obtain ⟨hlit, hhalf⟩ := targetOf_lightUp u c n
    rw [hown, hpartner, hlit, willLight_of_shareView hu]
    rw [chLive_of_shareView hu] at hhalf
    exact ⟨rfl, fun _ => hhalf⟩

/-- Every channel that has not failed is lit, and the cartridge is in service. -/
theorem cartActivate_lights (hc : c < 9) (hstep : (getBay s c).step = .inserting 4) :
    Completes (.cartActivate c) s fun t => bayState t c = stActive ∧ (getBay t c).step = .idle ∧ 0x480 + c ∈ t.crier.pend
      ∧ (List.range 64).all (fun n => targetOf t c n == if chFailed s c n then targetOf s c n
          else if willLight s (partner c n).1 (partner c n).2 then 1 else 2) = true
      ∧ (List.range 64).all (fun n => chFailed s c n || !chLive s (partner c n).1 (partner c n).2
          || targetOf t (partner c n).1 (partner c n).2 == 1) = true := by
  refine ⟨_, exec_cartActivate hc hstep, bayState_bayTo _ _ hc (by decide), ?_, mem_bayTo_told _ _ _, ?_, ?_⟩
  · rw [getBay_bayTo, forEach_view (V := fun u => (getBay u c).step) (fun u y _ => step_lightUp u c y c), rampBegun, getBay_modBay_same]
  · rw [List.all_eq_true]
    intro n hn
    rw [beq_iff_eq, ← (lit_channels s c (List.mem_range.mp hn)).1, targetOf, getBay_bayTo, targetOf]
  · rw [List.all_eq_true]
    intro n hn
    obtain ⟨-, hhalf⟩ := lit_channels s c (List.mem_range.mp hn)
    rw [targetOf, getBay_bayTo, ← targetOf]
    cases hfail : chFailed s c n
    · cases hlive : chLive s (partner c n).1 (partner c n).2
      · rfl
      · rw [hhalf hfail hlive]
        rfl
    · rfl

end Activate

-- A removal (Table CRT-1).

theorem removalRampStart_ramps (hc : c < 9) (hstep : (getBay s c).step = .removing 1) :
    Completes (.removalRampStart c) s fun t => (getBay t c).step = .removing 2 ∧ bayState t c = stRemoving ∧ 0x480 + c ∈ t.crier.pend := by
  have hexec : exec (.removalRampStart c) s
      = .next (bayTo (modBay s c fun b => { b with step := .removing 2 }) c stRemoving true) := by
    change execRemovalRampStart c s = _
    rw [execRemovalRampStart, hstep, if_neg (by simp; omega)]
  refine ⟨_, hexec, ?_, bayState_bayTo _ _ hc (by decide), mem_bayTo_told _ _ _⟩
  rw [getBay_bayTo, getBay_modBay_same]

section RampDone

/-- A channel whose partner gives light is turned off, and the partner is at full output (R157). -/
def handOver (c : Nat) (s : State) (n : Nat) : State := setTarget (setTarget s (partner c n).1 (partner c n).2 2) c n 0

theorem shareView_handOver (s : State) (hn : n < 64) (hm : m < 64) (h : m ≠ n) : shareView c n (handOver c s m) = shareView c n s :=
  (shareView_setTarget_other _ 0 h).trans (shareView_setTarget_otherPartner s 2 hn hm h)

theorem targetOf_handOver (s : State) (c n : Nat) :
    targetOf (handOver c s n) c n = 0 ∧ targetOf (handOver c s n) (partner c n).1 (partner c n).2 = 2 := by
  refine ⟨targetOf_setTarget_same _ c n 0, ?_⟩
  rw [handOver, targetOf_setTarget_ne _ 0 (.inl (partner_bay_ne c n)), targetOf_setTarget_same]

theorem step_handOver (s : State) (c m d : Nat) : (getBay (handOver c s m) d).step = (getBay s d).step := by
  rw [handOver, step_setTarget, step_setTarget]

/-- The bay that has ramped down. -/
def rampEnded (s : State) (c : Nat) : State := modBay s c fun b => { b with step := .removing 3 }

theorem targetOf_rampEnded (s : State) (c d m : Nat) : targetOf (rampEnded s c) d m = targetOf s d m := by
  by_cases h : d = c
  · rw [targetOf, rampEnded, h, getBay_modBay_same]
    rfl
  · rw [targetOf, rampEnded, getBay_modBay_ne _ _ h, targetOf]

theorem chLive_rampEnded (s : State) (c d m : Nat) : chLive (rampEnded s c) d m = chLive s d m := by
  rw [chLive, targetOf_rampEnded]
  rfl

/-- The channels whose partners give light. -/
def carried (s : State) (c : Nat) : List Nat := (List.range 64).filter fun n => chLive s (partner c n).1 (partner c n).2

theorem mem_carried : n ∈ carried s c ↔ n < 64 ∧ chLive s (partner c n).1 (partner c n).2 = true := by
  rw [carried, List.mem_filter, List.mem_range]

theorem exec_removalRampDone (hc : c < 9) (hstep : (getBay s c).step = .removing 2) :
    exec (.removalRampDone c) s = .next (forEach (carried s c) (handOver c) (rampEnded s c)) := by
  have hlive : ∀ n, chLive (rampEnded s c) (partner c n).1 (partner c n).2 = chLive s (partner c n).1 (partner c n).2 :=
    fun n => chLive_rampEnded s c _ _
  change execRemovalRampDone c s = _
  rw [execRemovalRampDone, hstep, if_neg (by simp; omega), ← rampEnded]
  simp only [hlive]
  rfl

/-- R157: partners that give light carry it at full output; an input without one keeps this bay's light. -/
theorem handed_over (s : State) (c : Nat) (hn : n < 64) :
    let t := forEach (carried s c) (handOver c) (rampEnded s c)
    if chLive s (partner c n).1 (partner c n).2 then targetOf t c n = 0 ∧ targetOf t (partner c n).1 (partner c n).2 = 2
    else targetOf t c n = targetOf s c n := by
  have hothers : ∀ u, ∀ y ∈ carried s c, y ≠ n → shareView c n (handOver c u y) = shareView c n u :=
    fun u y hy h => shareView_handOver u hn (mem_carried.mp hy).1 h
  dsimp only
  split
  next hlive =>
    obtain ⟨u, -, hend, -⟩ := forEach_view_at (l := carried s c) (List.nodup_range.filter _) (mem_carried.mpr ⟨hn, hlive⟩) hothers (rampEnded s c)
    obtain ⟨hown, hpartner⟩ := targetOf_of_shareView hend
    rw [hown, hpartner]
    exact targetOf_handOver u c n
  next hdark =>
    have hkept := forEach_view (fun u y hy => hothers u y hy fun h => hdark (mem_carried.mp (h ▸ hy)).2) (rampEnded s c)
    rw [(targetOf_of_shareView hkept).1, targetOf_rampEnded]

theorem removalRampDone_carries (hc : c < 9) (hstep : (getBay s c).step = .removing 2) :
    Completes (.removalRampDone c) s fun t => (getBay t c).step = .removing 3
      ∧ (List.range 64).all (fun n => if chLive s (partner c n).1 (partner c n).2
          then targetOf t c n == 0 && targetOf t (partner c n).1 (partner c n).2 == 2
          else targetOf t c n == targetOf s c n) = true := by
  refine ⟨_, exec_removalRampDone hc hstep, ?_, ?_⟩
  · rw [forEach_view (V := fun u => (getBay u c).step) (fun u y _ => step_handOver u c y c), rampEnded, getBay_modBay_same]
  · rw [List.all_eq_true]
    intro n hn
    have h := handed_over s c (List.mem_range.mp hn)
    cases hlive : chLive s (partner c n).1 (partner c n).2 with
    | true =>
      simp only [hlive, if_true] at h
      simp [h]
    | false =>
      simp only [hlive, Bool.false_eq_true, if_false] at h
      simp [h]

end RampDone

end Sys2Proof.Proofs
end

section
/-!
Proofs of the statements on laser cartridges: the end of a removal (Table CRT-1 step 4), wear and its records (R162), and the loop of a
channel's current (R164).
-/
namespace Sys2Proof.Proofs

open Sys2Proof Sys2Proof.Machine Sys2Proof.Laws

variable {c d n : Nat} {s : State}

-- The wear record of a bay (R162).

section WearRecord

variable {i : Identity}

/-- The record that goes to the journal. -/
def wearEntry (s : State) (c : Nat) (i : Identity) : JrnEntry :=
  let w := bayWear (getBay s c) / 7200
  .cart { serial := idSerial i, bay := c, identity := (idWorn i w).octets, wear := w }

theorem wearRecord_none (h : (getBay s c).identity = none) : wearRecord s c = s := by rw [wearRecord, h]

theorem wearRecord_some (h : (getBay s c).identity = some i) : wearRecord s c
    = jrnOwe (modBay s c fun b => { b with identity := some (idWorn i (bayWear (getBay s c) / 7200)) }) (wearEntry s c i) := by
  rw [wearRecord, h]
  rfl

/-- The record of a bay changes nothing of it but its identity. -/
theorem getBay_wearRecord (s : State) (c : Nat) : ∃ identity, getBay (wearRecord s c) c = { getBay s c with identity := identity } := by
  cases h : (getBay s c).identity with
  | none => exact ⟨none, by rw [wearRecord_none h, ← h]⟩
  | some i =>
    rw [wearRecord_some h, (BaysApart.jrnOwe _ _).getBay, getBay_modBay_same]
    exact ⟨_, rfl⟩

theorem getBay_wearRecord_ne (s : State) (h : d ≠ c) : getBay (wearRecord s c) d = getBay s d := by
  cases hid : (getBay s c).identity with
  | none => rw [wearRecord_none hid]
  | some i => rw [wearRecord_some hid, (BaysApart.jrnOwe _ _).getBay, getBay_modBay_ne _ _ h]

theorem reg_wearRecord (s : State) (c : Nat) {a : Nat} (ha : CrtBlock a) : reg (wearRecord s c) a = reg s a := by
  cases h : (getBay s c).identity with
  | none => rw [wearRecord_none h]
  | some i => rw [wearRecord_some h, (BaysApart.jrnOwe _ _).regs a ha, reg_modBay]

theorem regBit_wearRecord (s : State) (c i : Nat) (hd : d < 9) : regBit (wearRecord s c) (aBay d 0) i = regBit s (aBay d 0) i :=
  regBit_of_reg (reg_wearRecord s c (crtBlock_aBay hd (by decide))) i

theorem fwRuns_wearRecord (s : State) (c : Nat) : fwRuns (wearRecord s c) = fwRuns s :=
  regBit_of_reg (Named.wearRecord (rs := apartFromHost) s c (fun _ _ => rfl) (by decide) (by decide) (by decide) 0x40
    (not_regIn_apartFromHost (by decide))) 3

/-- Records and their tags leave the status of the Cashbox. -/
theorem sealReady_jrnOwe (s : State) (e : JrnEntry) : sealReady (jrnOwe s e) = sealReady s := by
  have hraise : ∀ (u : State) {id : Nat}, id < 16 → reg (raise u id) (aSec 0) = reg u (aSec 0) := fun u id hid => by
    refine reg_raise_ne ?_ ?_ ?_ ?_ <;> simp only [aEsc, aFlt, aSec] <;> omega
  have hcount : ∀ (u : State) k, reg (secCount u k) (aSec 0) = reg u (aSec 0) := fun u k =>
    reg_setReg64_ne u _ (by simp only [aSec]; omega) (by simp only [aSec]; omega)
  have htagged : ∀ u : State, reg (jrnTagged u (jrnPart e) true) (aSec 0) = reg u (aSec 0) := fun u => by
    unfold jrnTagged
    split
    · exact hcount u 0
    · rfl
  have hput : ∀ u : State, reg (jrnPut u e) (aSec 0) = reg u (aSec 0) := fun u => by
    rw [jrnPut, jrnStore_eq, jrnTouch, jrnWarn, reg_whenB (fun _ => hraise _ (by decide)), reg_whenB (fun _ => hraise _ (by decide))]
    exact htagged u
  refine regBit_of_reg ?_ 30
  unfold jrnOwe
  split
  · rw [hput]
    split
    · exact reg_whenB (f := (emit · _)) (fun _ => rfl) _ _
    · rfl
  · rfl

theorem sealReady_wearRecord (s : State) (c : Nat) : sealReady (wearRecord s c) = sealReady s := by
  cases h : (getBay s c).identity with
  | none => rw [wearRecord_none h]
  | some i =>
    rw [wearRecord_some h, sealReady_jrnOwe]
    rfl

-- What goes to the cartridge.

theorem jrnPut_out (s : State) (e : JrnEntry) : (jrnPut s e).out = s.out :=
  Only.jrnPut (fr := [.regs, .journal, .owed, .crier, .flt]) s e (Only.refl s) (by decide) (by decide) (by decide) (by decide)
    (by decide) .out (by decide)

theorem jrnFailed_out (failed : List Nat) (s : State) : (jrnFailed failed s).out = s.out :=
  Only.jrnFailed (fr := [.regs, .journal, .owed, .crier, .flt]) failed s (Only.refl s) (by decide) (by decide) (by decide) (by decide)
    (by decide) .out (by decide)

/-- What has been put out stays so. -/
theorem mem_out_jrnOwe_of_mem {o : Output} (h : o ∈ s.out) (e : JrnEntry) : o ∈ (jrnOwe s e).out := by
  have hemit : ∀ (b : Bool) (x : Output), o ∈ (whenB b (emit · x) s).out := fun b x => by
    cases b
    · exact h
    · exact List.mem_append_left _ h
  unfold jrnOwe
  split
  · rw [jrnPut_out]
    split
    · exact hemit _ _
    · exact h
  · exact h

theorem mem_out_wearRecord_of_mem {o : Output} (h : o ∈ s.out) (c : Nat) : o ∈ (wearRecord s c).out := by
  cases hid : (getBay s c).identity with
  | none => rwa [wearRecord_none hid]
  | some i =>
    rw [wearRecord_some hid]
    exact mem_out_jrnOwe_of_mem (s := modBay s c _) h _

/-- Firmware with the seal key writes the record of a cartridge to it while it is there. -/
theorem mem_out_jrnOwe (r : CartRec) (hfw : fwRuns s = true) (hseal : sealReady s = true) (hpres : bayPres s r.bay = true)
    (hserial : reg64 s (aBay r.bay 8) = r.serial) : .wearRecord r.bay r.wear ∈ (jrnOwe s (.cart r)).out := by
  have hready : (fwRuns s && (!jrnSealed (jrnPart (.cart r)) || sealReady s)) = true := by rw [hfw, hseal, Bool.or_true, Bool.and_true]
  have hthere : (regBit s (aBay r.bay 0) 8 && reg64 s (aBay r.bay 8) == r.serial) = true := by
    rw [hserial, beq_self_eq_true, Bool.and_true]
    exact hpres
  rw [jrnOwe, if_pos hready, jrnPut_out, hthere]
  exact List.mem_append_right _ List.mem_cons_self

theorem mem_out_wearRecord (hid : (getBay s c).identity = some i) (hfw : fwRuns s = true) (hseal : sealReady s = true)
    (hpres : bayPres s c = true) (hserial : reg64 s (aBay c 8) = idSerial i) :
    .wearRecord c (bayWear (getBay s c) / 7200) ∈ (wearRecord s c).out := by
  rw [wearRecord_some hid]
  exact mem_out_jrnOwe (s := modBay s c _) _ hfw hseal hpres hserial

end WearRecord

-- REMOVAL_EN_LOW (Table CRT-1 step 4).

section EnLow

/-- The bay with its wear recorded and EN low. -/
def powerEnded (s : State) (c : Nat) : State := modBay (enLow (wearRecord s c) c) c fun b => { b with step := .removing 4 }

theorem getBay_powerEnded (s : State) (c : Nat) : ∃ identity, getBay (powerEnded s c) c
    = { getBay s c with identity := identity, target := [], drive := [], step := .removing 4 } := by
  obtain ⟨identity, h⟩ := getBay_wearRecord s c
  exact ⟨identity, by rw [powerEnded, getBay_modBay_same, getBay_enLow, h]⟩

theorem regBit_powerEnded (s : State) {i : Nat} (hc : c < 9) (hi : i ≠ 10) :
    regBit (powerEnded s c) (aBay c 0) i = regBit s (aBay c 0) i :=
  (regBit_enLow (wearRecord s c) hc hi).trans (regBit_wearRecord s c i hc)

theorem bayEn_powerEnded (s : State) (hc : c < 9) : bayEn (powerEnded s c) c = false := bayEn_enLow (wearRecord s c) hc

theorem exec_removalEnLow (hc : c < 9) (hstep : (getBay s c).step = .removing 3) : exec (.removalEnLow c) s
    = .next (if (getBay s c).reclosed && bayPres s c && bayLatched s c then startInsert (powerEnded s c) c else powerEnded s c) := by
  have hreclosed : (getBay (enLow (wearRecord s c) c) c).reclosed = (getBay s c).reclosed := by
    obtain ⟨identity, h⟩ := getBay_wearRecord s c
    rw [getBay_enLow, h]
  have hpres : bayPres (enLow (wearRecord s c) c) c = bayPres s c := regBit_powerEnded s hc (by decide)
  have hlatch : bayLatched (enLow (wearRecord s c) c) c = bayLatched s c := regBit_powerEnded s hc (by decide)
  change execRemovalEnLow c s = _
  rw [execRemovalEnLow, hstep, if_neg (by simp; omega)]
  dsimp only
  rw [hreclosed, hpres, hlatch, ← powerEnded]

/-- EN is low, and a latch that has closed meanwhile starts an insertion (R159). -/
theorem removalEnLow_ends (hc : c < 9) (hstep : (getBay s c).step = .removing 3) :
    Completes (.removalEnLow c) s fun t => bayEn t c = false ∧ (getBay t c).target = []
      ∧ ((getBay s c).reclosed = false → (getBay t c).step = .removing 4)
      ∧ ((getBay s c).reclosed = true → bayPres s c = true → bayLatched s c = true →
        (getBay t c).step = .inserting 0 ∧ bayState t c = stPresent) := by
  obtain ⟨identity, hbay⟩ := getBay_powerEnded s c
  refine ⟨_, exec_removalEnLow hc hstep, ?_⟩
  dsimp only
  split
  next hagain =>
    rw [getBay_startInsert, hbay]
    refine ⟨(regBit_startInsert _ hc (by decide) (by decide)).trans (bayEn_powerEnded s hc), rfl, fun hno => ?_, fun _ _ _ =>
      ⟨rfl, bayState_startInsert _ hc⟩⟩
    rw [hno] at hagain
    exact absurd hagain Bool.false_ne_true
  next hagain =>
    rw [hbay]
    exact ⟨bayEn_powerEnded s hc, rfl, fun _ => rfl, fun hre hpres hlatch => absurd (by rw [hre, hpres, hlatch]; rfl) hagain⟩

end EnLow

-- WEAR_TICK (R162).

section WearTick

/-- The wear of a bay a second later. -/
def tickedWear (outputs : List (Nat × Nat × Nat)) (s : State) (c : Nat) : Store Nat :=
  (getBay s c).target.foldl (fun m x =>
    let p := if chFailed s c x.1 then 0 else outputOf outputs c x.1 x.2
    if p = 0 then m else mapMod 0 m x.1 (· + (1000 + 2 * p))) (getBay s c).wear

/-- A second of wear of one bay. -/
def wearTicked (outputs : List (Nat × Nat × Nat)) (s : State) (c : Nat) : State :=
  if (getBay s c).target.isEmpty then s else wearReport (modBay s c fun b => { b with wear := tickedWear outputs s c }) c

theorem exec_wearTick (outputs : List (Nat × Nat × Nat)) (s : State) :
    exec (.wearTick outputs) s = .next (forEach (List.range 9) (wearTicked outputs) s) := by
  have hbody : (fun (s : State) (c : Nat) =>
      if (getBay s c).target.isEmpty then s
      else wearReport (setBay s c { getBay s c with wear := tickedWear outputs s c }) c) = wearTicked outputs := rfl
  change execWearTick outputs s = _
  rw [execWearTick, ← hbody]
  rfl

/-- A channel's failure and the bay that holds it: what its wear rests on. -/
def wearView (c n : Nat) (s : State) : Bay × Bool := (getBay s c, chFailed s c n)

theorem chFailed_wearReport (s : State) (hc : c < 9) (hd : d < 9) (n : Nat) : chFailed (wearReport s c) d n = chFailed s d n := by
  have hkeep : ∀ o, 0x14 < o → o < 0x100 → regF (wearReport s c) (aBay d o) 31 0 = regF s (aBay d o) 31 0 := fun o h0 ho =>
    regF_wearReport s hc (crtBlock_aBay hd ho) (aBay_ne ho (by decide) (.inr (by omega)))
      (.inr (aBay_ne ho (by decide) (.inr (by omega))))
  rw [chFailed, reg64_congr_regF (hkeep 0x38 (by decide) (by decide)) (hkeep 0x3C (by decide) (by decide)), chFailed]

theorem wearView_wearTicked_ne (outputs : List (Nat × Nat × Nat)) (s : State) (hc : c < 9) (hd : d < 9) (h : d ≠ c) :
    wearView c n (wearTicked outputs s d) = wearView c n s := by
  unfold wearTicked
  split
  · rfl
  · rw [wearView, getBay_wearReport, getBay_modBay_ne _ _ h.symm, chFailed_wearReport _ hd hc]
    rfl

/-- The wear of a bay that has one channel with a target. -/
theorem getBay_wearTicked {outputs : List (Nat × Nat × Nat)} {k : Nat} (h : (getBay s c).target = [(n, k)]) :
    mapGet 0 (getBay (wearTicked outputs s c) c).wear n = (if chFailed s c n = true ∨ outputOf outputs c n k = 0
      then mapGet 0 (getBay s c).wear n else mapGet 0 (getBay s c).wear n + (1000 + 2 * outputOf outputs c n k)) := by
  have hone : tickedWear outputs s c = (if chFailed s c n = true ∨ outputOf outputs c n k = 0 then (getBay s c).wear
      else mapMod 0 (getBay s c).wear n (· + (1000 + 2 * outputOf outputs c n k))) := by
    rw [tickedWear, h]
    cases hfail : chFailed s c n <;> simp [hfail]
  rw [wearTicked, h, List.isEmpty_cons, if_neg Bool.false_ne_true, getBay_wearReport, getBay_modBay_same, hone]
  split
  · rfl
  · rw [mapGet_mapMod, if_pos rfl]

/-- R162: a channel that gives light wears by what it gives, one that is dark not at all. -/
theorem wearTick_wears (outputs : List (Nat × Nat × Nat)) {k : Nat} (hc : c < 9) (h : (getBay s c).target = [(n, k)]) :
    Completes (.wearTick outputs) s fun t =>
      (chFailed s c n = false → outputOf outputs c n k ≠ 0 →
        mapGet 0 (getBay t c).wear n = mapGet 0 (getBay s c).wear n + (1000 + 2 * outputOf outputs c n k))
      ∧ (chFailed s c n = true ∨ outputOf outputs c n k = 0 → mapGet 0 (getBay t c).wear n = mapGet 0 (getBay s c).wear n) := by
  obtain ⟨u, hu, hend, -⟩ := forEach_view_at (V := wearView c n) List.nodup_range (List.mem_range.mpr hc)
    (fun v d hd hne => wearView_wearTicked_ne outputs v hc (List.mem_range.mp hd) hne) s
  simp only [wearView, Prod.mk.injEq] at hu hend
  obtain ⟨hbay, hfail⟩ := hu
  obtain ⟨hlast, -⟩ := hend
  have hwear := getBay_wearTicked (outputs := outputs) (s := u) (by rw [hbay, h])
  rw [hbay, hfail, ← hlast] at hwear
  refine ⟨_, exec_wearTick outputs s, fun hlit hout => ?_, fun hdark => ?_⟩
  · rw [hwear, if_neg (by simp [hlit, hout])]
  · rw [hwear, if_pos hdark]

end WearTick

-- WEAR_RECORD_WRITE (R66, R162).

section WearRecordWrite

variable {i : Identity} {failedBlocks : List Nat}

/-- A bay, and what lets its record go out. -/
def recordView (c : Nat) (s : State) : Bay × Bool × Bool × Bool × Nat :=
  (getBay s c, fwRuns s, sealReady s, bayPres s c, reg64 s (aBay c 8))

theorem recordView_wearRecord_ne (s : State) (hc : c < 9) (h : d ≠ c) : recordView c (wearRecord s d) = recordView c s := by
  have hserial : reg64 (wearRecord s d) (aBay c 8) = reg64 s (aBay c 8) :=
    reg64_of_reg (reg_wearRecord s d (crtBlock_aBay hc (by decide))) (reg_wearRecord s d (crtBlock_aBay (o := 12) hc (by decide)))
  rw [recordView, getBay_wearRecord_ne s h.symm, fwRuns_wearRecord, sealReady_wearRecord, hserial, bayPres, regBit_wearRecord s d 8 hc]
  rfl

/-- The bays in service. -/
def inService (s : State) : List Nat := (List.range 9).filter fun c => bayState s c == stActive

theorem exec_wearRecordWrite (hfw : fwRuns s = true) : exec (.wearRecordWrite failedBlocks) s
    = .next (jrnFailed failedBlocks (forEach (inService s) wearRecord s)) := by
  change execWearRecordWrite failedBlocks s = _
  rw [execWearRecordWrite, hfw]
  rfl

/-- R162: the record of a cartridge in service holds its wear, and goes to it while it is there. -/
theorem wearRecordWrite_records (hid : (getBay s c).identity = some i) (hc : c < 9) (hfw : fwRuns s = true) (hst : bayState s c = stActive) :
    Completes (.wearRecordWrite failedBlocks) s fun t => (getBay t c).identity = some (idWorn i (bayWear (getBay s c) / 7200))
      ∧ (sealReady s = true → bayPres s c = true → reg64 s (aBay c 8) = idSerial i →
        .wearRecord c (bayWear (getBay s c) / 7200) ∈ t.out) := by
  have hmem : c ∈ inService s := List.mem_filter.mpr ⟨List.mem_range.mpr hc, beq_iff_eq.mpr hst⟩
  obtain ⟨u, hu, hend, hkeep⟩ := forEach_view_at (V := recordView c) (List.nodup_range.filter _) hmem
    (fun v d _ hne => recordView_wearRecord_ne v hc hne) s
  simp only [recordView, Prod.mk.injEq] at hu hend
  obtain ⟨hbay, hruns, hseal, hpres, hserial⟩ := hu
  obtain ⟨hlast, -⟩ := hend
  rw [← hbay] at hid
  refine ⟨_, exec_wearRecordWrite hfw, ?_, fun hready hthere hsame => ?_⟩
  · rw [(BaysApart.jrnFailed _ _).getBay]
    rw [inService, hlast, wearRecord_some hid, (BaysApart.jrnOwe _ _).getBay, getBay_modBay_same, hbay]
  · rw [jrnFailed_out]
    refine hkeep (fun t => .wearRecord c (bayWear (getBay s c) / 7200) ∈ t.out) (fun _ d h => mem_out_wearRecord_of_mem h d) ?_
    rw [← hbay]
    exact mem_out_wearRecord hid (hruns.trans hfw) (hseal.trans hready) (hpres.trans hthere) (hserial.trans hsame)

end WearRecordWrite

-- CURRENT_LOOP_STEP (R164).

/-- R164: a channel that is lit moves at most 0.1 mA toward the wanted current inside its range. -/
theorem currentLoopStep_moves (want : Nat) (s : State) (hc : c < 9) (hn : n < 64) : Completes (.currentLoopStep c n want) s fun t =>
    (targetOf s c n ≠ 0 → mapGet 0 (getBay t c).drive n
      = if mapGet 0 (getBay s c).drive n ≤ curClamp s c n want then min (curClamp s c n want) (mapGet 0 (getBay s c).drive n + 10)
        else max (curClamp s c n want) (mapGet 0 (getBay s c).drive n - 10))
    ∧ (targetOf s c n = 0 → Only [] s t) := by
  have hexec : exec (.currentLoopStep c n want) s = execCurrentLoopStep c n want s := rfl
  by_cases hdark : targetOf s c n = 0
  · refine ⟨s, ?_, fun h => absurd hdark h, fun _ => Only.refl s⟩
    rw [hexec, execCurrentLoopStep, if_pos (by simp [hdark])]
  · refine ⟨_, hexec.trans (congrArg Host.Outcome.next (if_neg (by simp [hdark]; omega))), fun _ => ?_, fun h => absurd h hdark⟩
    rw [getBay_modBay_same, mapGet_mapPut_same]

end Sys2Proof.Proofs
end

section
/-!
Proofs of the statements on laser cartridges: their commands complete with their effects.
-/
namespace Sys2Proof.Proofs

open Sys2Proof Sys2Proof.Machine Sys2Proof.Laws

variable {bay ch want g input : Nat} {s : State}

/-- R153: a share that fails is marked and told, and a partner that gives light carries on at full output. -/
theorem shareFailed_marks (hbay : bay < 9) (hch : ch < 64) (hlive : chLive s bay ch = true) :
    Completes (.shareFailed bay ch) s fun t => chFailed t bay ch = true ∧ 0x490 + bay ∈ t.crier.pend
      ∧ (chLive s (partner bay ch).1 (partner bay ch).2 = true → targetOf t (partner bay ch).1 (partner bay ch).2 = 2) := by
  refine ⟨_, exec_shareFailed hbay hch hlive, ?_, mem_failShare s bay ch, targetOf_failShare s⟩
  rw [chFailed_failShare s ch hbay hch, decide_eq_true rfl, Bool.or_true]

/-- R151: each of the four lanes of the input is marked. -/
theorem lightLow_marks_all (s : State) (hg : g < 36) (hi : input < 8) : Completes (.lightLow g input) s fun t =>
    (List.range 4).all (fun k => regBit t (aEvtLanes g 7) (4 * input + k)) = true := by
  obtain ⟨t, hexec, hmarks⟩ := lightLow_marks s hg hi
  refine ⟨t, hexec, List.all_eq_true.mpr fun k hk => ?_⟩
  have hk4 : k < 4 := List.mem_range.mp hk
  rw [hmarks _ (by omega), decide_eq_true (by omega), Bool.or_true]

/-- R165: a want outside the range is reported, one inside changes nothing. -/
theorem cartPolicyConflict_reports (hbay : bay < 9) (hch : ch < 64) (hover : intervalOver s (0x4B0 + bay) 100000000 = true) :
    Completes (.cartPolicyConflict bay ch want) s fun t =>
      (curClamp s bay ch (min want (bayCal s bay ch).2) ≠ min want (bayCal s bay ch).2 →
        (reg t (aBay bay 0x30)).toNat = ch * 2 ^ 26 + want % 65536 ∧ 0x4B0 + bay ∈ t.crier.pend)
      ∧ (curClamp s bay ch (min want (bayCal s bay ch).2) = min want (bayCal s bay ch).2 → Only [] s t) := by
  by_cases hout : OutOfRange s bay ch want
  · obtain ⟨t, hexec, hreg, hpend, -⟩ := cartPolicyConflict_shows hbay hch hover hout
    exact ⟨t, hexec, fun _ => ⟨by rw [hreg, toNat_conflictWord hch], hpend⟩, fun hin => absurd hin hout⟩
  · obtain ⟨t, hexec, honly⟩ := cartPolicyConflict_silent (.inr hout)
    exact ⟨t, hexec, fun h => absurd h hout, fun _ => honly⟩

/-- Settles O45: each command of a cartridge completes with its effects. -/
theorem cartridgesComplete : Obligations.CartridgesComplete := by
  unfold Obligations.CartridgesComplete
  refine ⟨?presenceSeats, ?presenceLeaves, ?latchOpenIdle, ?latchOpenInserting, ?latchOpenRemoving, ?latchCloseInserts,
    ?latchCloseRemembers, ?intShutdown, ?intOther, ?authStarts, ?authReads, ?challengeCheck, ?enRaise, ?activate, ?rampStart, ?rampDone,
    ?enLow, ?shareFailed, ?lightLow, ?wearTick, ?wearRecordWrite, ?currentLoopStep, ?policyConflict⟩
  case presenceSeats => exact fun _ _ _ hc hheld hpres => cartPresenceChange_seats hc hheld hpres
  case presenceLeaves => exact fun _ _ _ hc hheld hpres => cartPresenceChange_leaves hc hheld hpres
  case latchOpenIdle => exact fun _ _ _ hc hheld hlatch => cartLatchOpen_idle hc hheld hlatch
  case latchOpenInserting => exact fun _ _ _ _ hc hheld hlatch hstep => cartLatchOpen_abandons hc hheld hlatch hstep
  case latchOpenRemoving => exact fun _ _ _ _ hc hheld hlatch hstep => cartLatchOpen_removing hc hheld hlatch hstep
  case latchCloseInserts => exact fun _ _ _ hc hheld hlatch hpres hstep => cartLatchClose_inserts hc hheld hlatch hpres hstep
  case latchCloseRemembers => exact fun _ _ _ _ hc hheld hlatch hstep hn => cartLatchClose_remembers hc hheld hlatch hstep hn
  case intShutdown => exact fun _ _ _ hc hheld hpres => cartInt_shutdown hc hheld hpres
  case intOther => exact fun _ _ hc hheld hpres hasked hfw => cartInt_other hc hheld hpres hasked hfw
  case authStarts => exact fun _ i _ _ hc hstep => cartAuthenticating_starts i hc hstep
  case authReads => exact fun _ i _ _ hc hstep hfw => cartAuthenticating_reads i hc hstep hfw
  case challengeCheck => exact fun _ tag _ _ hc hstep hch hfw hseal => cartChallengeCheck_judges tag hc hstep hch hfw hseal
  case enRaise => exact fun _ _ _ hc hstep => cartEnRaise_powers hc hstep
  case activate => exact fun _ _ _ hc hstep => cartActivate_lights hc hstep
  case rampStart => exact fun _ _ _ hc hstep => removalRampStart_ramps hc hstep
  case rampDone => exact fun _ _ hc hstep => removalRampDone_carries hc hstep
  case enLow => exact fun _ _ _ hc hstep => removalEnLow_ends hc hstep
  case shareFailed => exact fun _ _ _ _ hbay hch hlive => shareFailed_marks hbay hch hlive
  case lightLow => exact fun _ _ s _ hg hi => lightLow_marks_all s hg hi
  case wearTick => exact fun outputs _ _ _ _ hc h => wearTick_wears outputs hc h
  case wearRecordWrite => exact fun _ _ _ _ _ hid hc hfw hst => wearRecordWrite_records hid hc hfw hst
  case currentLoopStep => exact fun _ _ want s hbay hch => currentLoopStep_moves want s hbay hch
  case policyConflict => exact fun _ _ _ _ _ hbay hch hover => cartPolicyConflict_reports hbay hch hover

end Sys2Proof.Proofs
end

section
/-!
Proofs of the statements on laser cartridges and the Cashbox: the clause on the failure of the random source leaves the reset of its
island out.
-/
namespace Sys2Proof.Proofs

open Sys2Proof Sys2Proof.Machine Sys2Proof.Laws

/-- The failure of the random source is the security island's: held in reset, it leaves the state alone. -/
theorem exec_trngFail_of_islandHeld {s : State} (h : islandHeld s 128 = true) : exec .trngFail s = .next s := by
  change execTrngFail s = .next s
  rw [execTrngFail, h, Bool.not_true, Bool.and_false]
  rfl

/-- Refutes O46: its clause on TRNG_FAIL asks only that the source is sound. After a release without REFCLK pair 0 it is,
as TRNG_OK reads 1 at reset, but the security island (128) is held in reset for want of its clock (R40), and TRNG_FAIL changes nothing. -/
theorem not_cashboxComplete : ¬ Obligations.CashboxComplete := by
  unfold Obligations.CashboxComplete
  rintro ⟨-, -, -, -, -, -, -, -, -, -, -, -, hfail, -⟩
  have hup : trngUp releasedWithoutRefclk0 = true := by decide
  have hheld : islandHeld releasedWithoutRefclk0 128 = true := by decide
  obtain ⟨t, hexec, hdown, -⟩ := hfail releasedWithoutRefclk0 inv_releasedWithoutRefclk0 hup
  obtain rfl : releasedWithoutRefclk0 = t := Host.Outcome.next.inj ((exec_trngFail_of_islandHeld hheld).symm.trans hexec)
  rw [hup] at hdown
  cases hdown

end Sys2Proof.Proofs
end

section
/-!
Proofs of the statements on stall execution: a poisoned word ends the routine that reaches it and pauses nothing, whatever the parity
check of the read says.
-/
namespace Sys2Proof.Proofs

open Sys2Proof Sys2Proof.Machine Sys2Proof.Laws

variable {n i : Nat} {x : Ctx} {s : State}

-- What the end of a routine leaves of its stall.

theorem getStall_setStall_same (s : State) (n : Nat) (st : Stall) : getStall (setStall s n st) n = st := mapGet_mapPut_same

/-- The waiting writes that act change registers alone: the stall is as it was. -/
theorem getStall_forEach_setStateReg {α : Type} (l : List α) (k : State → α → Nat) (v : State → α → BitVec 64) :
    getStall (forEach l (fun s w => setStateReg s n (k s w) (v s w)) s) n = getStall s n :=
  forEach_keeps (P := fun u => getStall u n = getStall s n)
    (fun u w hu => show getStall (setStateReg u n (k u w) (v u w)) n = getStall s n from hu) l rfl

theorem paused_flushLate (s : State) (n : Nat) : (getStall (flushLate s n) n).paused = (getStall s n).paused := by
  unfold flushLate
  dsimp only
  split
  · rfl
  · rw [getStall_forEach_setStateReg, getStall_setStall_same]

theorem paused_flushHost (s : State) (n : Nat) : (getStall (flushHost s n) n).paused = (getStall s n).paused := by
  rw [← paused_flushLate s n]
  unfold flushHost
  dsimp only
  split
  · rfl
  · rw [getStall, setBit_pipes, ← getStall, getStall_forEach_setStateReg, getStall_setStall_same]

theorem paused_setCtx (s : State) (n i : Nat) (x : Ctx) : (getStall (setCtx s n i x) n).paused = (getStall s n).paused := by
  rw [setCtx, getStall_setStall_same]

theorem paused_finishCtx (s : State) (n i : Nat) (x : Ctx) (discard : Bool) :
    (getStall (finishCtx s n i x discard) n).paused = (getStall s n).paused := by
  rw [finishCtx, paused_flushHost, paused_setCtx, getStall_setStall_same]

theorem stallRecord_pipes (s : State) (n k space off : Nat) : (stallRecord s n k space off).pipes = s.pipes := by
  rw [stallRecord, drawn_pipes, fault_pipes]

/-- R212: a stall fault ends one routine, and neither pauses its stall nor resumes it. -/
theorem paused_stallFault (s : State) (n i : Nat) (x : Ctx) (k space off : Nat) :
    (getStall (stallFault s n i x k space off) n).paused = (getStall s n).paused := by
  rw [stallFault, getStall, stallRecord_pipes, add64_pipes]
  exact paused_finishCtx _ _ _ _ _

-- A poisoned word (R214).

/-- R214: a packet that reaches a poisoned word takes STALL_PARITY. -/
theorem takeWord_of_poisoned (h : stallWordKey n (stallVer n x.pkt) x.next ∈ s.pipes.poison) :
    takeWord s n i x = stallFault s n i x 3 1 (32 * x.next) :=
  if_pos (List.contains_iff_mem.mpr h)

/-- R213, R214: the parity of a poisoned word starts no machine check. -/
theorem readWord_of_poisoned (parityBad backingBad : Bool) (h : stallWordKey n (stallVer n x.pkt) x.next ∈ s.pipes.poison)
    (hrun : (getStall s n).paused = false) :
    readWord s n i x parityBad backingBad none = stallFault s n i x 3 1 (32 * x.next) := by
  rw [readWord, List.contains_iff_mem.mpr h, Bool.not_true, Bool.and_false, hrun, constSeen]
  exact takeWord_of_poisoned h

theorem exec_stallWordIssue_of_poisoned (parityBad backingBad : Bool) (hx : getCtx s n i = some x) (hfin : x.finished = false)
    (hmark : x.marked = false) (hup : stallDown s n = false) (hhalt : regBit s (aStall n 0) 0 = false)
    (h : stallWordKey n (stallVer n x.pkt) x.next ∈ s.pipes.poison) (hrun : (getStall s n).paused = false) :
    exec (.stallWordIssue n i parityBad backingBad none) s = .next (stallFault s n i x 3 1 (32 * x.next)) := by
  change execStallWordIssue n i parityBad backingBad none s = _
  simp [execStallWordIssue, hx, hfin, hmark, hup, hhalt, readWord_of_poisoned parityBad backingBad h hrun]

-- The counterexample.

/-- A context with a frame of 64 octets from the host, which reads word 0 of its stall next. -/
def startingCtx : Ctx := freshCtx 0 { pkt := hostPacket releasedPart (List.replicate 64 1#8) 3 0, copy := none }

/-- Stall 3 runs with that context, and word 0 of its routine is poisoned. -/
def atPoisonedWord : State :=
  { releasedPart with pipes := { Pipes.reset with
      stalls := [(3, { stallIdle with ctxs := [startingCtx] })]
      poison := [stallWordKey 3 0 0] } }

/-- Refutes O29: its clause on a parity failure leaves poisoned words out. By R214 a packet that reaches one takes STALL_PARITY
without a pause: from `atPoisonedWord` the routine ends, and stall 3 goes on. -/
theorem not_stallsComplete : ¬ Obligations.StallsComplete := by
  unfold Obligations.StallsComplete
  rintro ⟨-, hparity, -⟩
  have hctx : getCtx atPoisonedWord 3 0 = some startingCtx := rfl
  have hup : stallDown atPoisonedWord 3 = false := by decide
  have hhalt : regBit atPoisonedWord (aStall 3 0) 0 = false := by decide
  have hpoison : stallWordKey 3 (stallVer 3 startingCtx.pkt) startingCtx.next ∈ atPoisonedWord.pipes.poison :=
    List.mem_singleton.mpr rfl
  have hrun : (getStall atPoisonedWord 3).paused = false := rfl
  obtain ⟨t, hexec, hpaused, -⟩ := hparity 3 0 false none startingCtx atPoisonedWord hctx (by decide) rfl hup hhalt
  have hfault := exec_stallWordIssue_of_poisoned true false hctx (by decide) rfl hup hhalt hpoison hrun
  obtain rfl : stallFault atPoisonedWord 3 0 startingCtx 3 1 0 = t := Host.Outcome.next.inj (hfault.symm.trans hexec)
  rw [paused_stallFault, hrun] at hpaused
  cases hpaused

end Sys2Proof.Proofs
end

section
/-!
Proofs of the statements on stall execution: a step of a halted stall also writes HALT as it is, which moves the cells of a register
store that is out of its canonical order.
-/
namespace Sys2Proof.Proofs

open Sys2Proof Sys2Proof.Machine Sys2Proof.Laws

/-- R216: in the DEBUG state a write of STEP that reaches its stall leaves HALT as the write holds it, and issues the word of the oldest
ready context. -/
theorem exec_stallStep_of_open {n : Nat} {s : State} (parityBad backingBad : Bool) (constErr : Option (Nat × Bool))
    (hn : stallNum n = true) (hdebug : inDebug s = true) (hr : s.top.inReset = false)
    (hopen : (crossingShut s (stallPipe n) || (stallPipe n == 112 && clerkWrites s)) = false) :
    exec (.stallStep n parityBad backingBad constErr) s = .next (stepWord n parityBad backingBad constErr
      (setBit s (aStall n 0) 0 ((regDue s (aStall n 0) ||| 2).getLsbD 0))) := by
  have hstep : (regDue s (aStall n 0) ||| 2).getLsbD 1 = true := by
    rw [BitVec.getLsbD_or]
    exact Bool.or_true _
  change execStallStep n parityBad backingBad constErr s = _
  rw [execStallStep, stallCtrl, hn, hdebug, holdWrite, hopen, atCrossing_open hr, hstep]
  rfl

/-- In a halted stall that is neither paused nor in reset, STEP reads the next word of the oldest ready context. -/
theorem stepWord_of_halted {n i : Nat} {x : Ctx} {s : State} (parityBad backingBad : Bool) (constErr : Option (Nat × Bool))
    (hhalt : regBit s (aStall n 0) 0 = true) (hrun : (getStall s n).paused = false) (hup : stallDown s n = false)
    (hready : oldestReady s n = some i) (hx : getCtx s n i = some x) :
    stepWord n parityBad backingBad constErr s = readWord s n i x parityBad backingBad constErr := by
  rw [stepWord, hhalt, hrun, hup, hready]
  dsimp only
  rw [hx]
  rfl

/-- A parity failure of a word that is not poisoned changes the stalls and no register (R213). -/
theorem readWord_parityBad_regs {n i : Nat} {x : Ctx} {s : State} (backingBad : Bool) (constErr : Option (Nat × Bool))
    (h : stallWordKey n (stallVer n x.pkt) x.next ∉ s.pipes.poison) : (readWord s n i x true backingBad constErr).regs = s.regs := by
  simp [readWord, h, parityFail, setStall]

-- The counterexample.

/-- A part in the DEBUG state with stalls 3 and 4 halted and that context in stall 3. Its register store lists the two registers in
falling order: it does not meet the invariant, and no run from reset leads there. -/
def haltedOutOfOrder : State :=
  { releasedPart with
    regs := [(aStall 4 0, 1#32), (aStall 3 0, 1#32)]
    top := { releasedPart.top with fuses := { releasedPart.top.fuses with states :=
      [{ state := .debug, rma := false, ownerHash := none, ownerKek := none, keyDisable := false, committed := true }] } }
    pipes := { Pipes.reset with stalls := [(3, { stallIdle with ctxs := [startingCtx] })] } }

theorem exec_stallStep_haltedOutOfOrder : exec (.stallStep 3 true false none) haltedOutOfOrder
    = .next (readWord (setBit haltedOutOfOrder (aStall 3 0) 0 true) 3 0 startingCtx true false none) := by
  rw [exec_stallStep_of_open true false none (by decide) (by decide) rfl (by decide),
    show (regDue haltedOutOfOrder (aStall 3 0) ||| 2).getLsbD 0 = true by decide]
  exact congrArg Host.Outcome.next (stepWord_of_halted true false none (by decide) rfl (by decide) (by decide) rfl)

/-- Refutes O30: its clause on a step, unlike those beside it, does not ask for the invariant, and has the whole state be what the read of
the word alone makes of it. The write of STEP also writes HALT as it is; from `haltedOutOfOrder` that leaves another register store than
before, while a word that fails its parity check writes no register. -/
theorem not_stallAccessesComplete : ¬ Obligations.StallAccessesComplete := by
  unfold Obligations.StallAccessesComplete
  rintro ⟨-, -, -, -, hstep, -⟩
  obtain ⟨t, hexec, hclause⟩ := hstep 3 0 true false none startingCtx haltedOutOfOrder (by decide) (by decide) rfl (by decide)
    (by decide) rfl (by decide) rfl
  obtain rfl : readWord (setBit haltedOutOfOrder (aStall 3 0) 0 true) 3 0 startingCtx true false none = t :=
    Host.Outcome.next.inj (exec_stallStep_haltedOutOfOrder.symm.trans hexec)
  have hregs := congrArg State.regs hclause
  rw [readWord_parityBad_regs _ _ List.not_mem_nil, readWord_parityBad_regs _ _ List.not_mem_nil] at hregs
  exact absurd hregs (by decide)

end Sys2Proof.Proofs
end

section
/-!
Proofs of the statements on the tails: the final record of a frame that the ingress tail drops holds the priority and colour of its metadata.
-/
namespace Sys2Proof.Proofs

open Sys2Proof Sys2Proof.Machine Sys2Proof.Laws

/-- R206, R405: a frame whose disposition is DROP is dropped with its reason and the record that it has at the tail. -/
theorem exec_ingressTail_of_drop {g : Nat} {p : Packet} {s : State} (hg : g < 36) (hup : islandDown s g = false)
    (hhead : headAt s.pipes.toTail g = some p) (hact : mdAct p = 1) (hr : dropReason p ≠ 0x0A) :
    exec (.ingressTail g) s = .next (dropPacket
      (flowTake { s with pipes := { s.pipes with toTail := popAt s.pipes.toTail g } } g p (some (dropReason p)))
      g (dropReason p) p (tailTally p)) := by
  have hge : ¬ 35 < g := by omega
  change execIngressTail g s = _
  simp [execIngressTail, hhead, hge, hup, hact, hr, tailDrop]

-- The counterexample.

/-- A frame of 64 octets from the host with MD_DISP.ACT 1 (DROP) and priority 5 in MD_QOS; its record has had priority 0 since its parse. -/
def droppedFrame : Packet :=
  setMdF (setMdF (hostPacket releasedPart (List.replicate 64 1#8) 3 0) 204 31 29 1) 209 2 0 5

/-- The frame is at the ingress tail of group 3, and every drop yields a postcard that is exported. -/
def droppedAtTail : State :=
  { releasedPart with
    regs := [(aTal 0, 0x40000000#32), (aTal 0x20, 0x80000000#32)]
    pipes := { Pipes.reset with toTail := [(3, [droppedFrame])] } }

/-- The frame has left the tail. -/
def takenFromTail : State :=
  flowTake { droppedAtTail with pipes := { droppedAtTail.pipes with toTail := popAt droppedAtTail.pipes.toTail 3 } } 3 droppedFrame (some 0x02)

theorem exec_ingressTail_droppedAtTail :
    exec (.ingressTail 3) droppedAtTail = .next (dropPacket takenFromTail 3 0x02 droppedFrame (tailTally droppedFrame)) :=
  exec_ingressTail_of_drop (by decide) (by decide) rfl (by decide) (by decide)

/-- The postcard of the drop with the record as the tail has it shows priority 5. -/
theorem backlog_droppedWithTailTally : (dropPacket takenFromTail 3 0x02 droppedFrame (tailTally droppedFrame)).telem.backlog
    = [.postcard { droppedFrame.tally with prio := 5, reason := 0x02 }] := by decide

/-- With the record as it came from parse it would show priority 0. -/
theorem backlog_droppedWithParseTally : (dropPacket takenFromTail 3 0x02 droppedFrame droppedFrame.tally).telem.backlog
    = [.postcard { droppedFrame.tally with prio := 0, reason := 0x02 }] := by decide

/-- Refutes O31: its clause on a drop at the ingress tail gives the dropped frame the record as it came from parse. The tail puts the
priority and the colour of the metadata into the record first (R403, Table TAL-1): from `droppedAtTail` the
postcard of the drop shows priority 5, where the clause asks for 0. -/
theorem not_egressComplete : ¬ Obligations.EgressComplete := by
  unfold Obligations.EgressComplete
  rintro ⟨-, -, hdrop, -⟩
  obtain ⟨t, hexec, -, -, -, hclause⟩ :=
    hdrop 3 0x02 droppedFrame droppedAtTail (by decide) (by decide) rfl (.inl (by decide)) (by decide)
  obtain rfl : dropPacket takenFromTail 3 0x02 droppedFrame (tailTally droppedFrame) = t :=
    Host.Outcome.next.inj (exec_ingressTail_droppedAtTail.symm.trans hexec)
  have hcard := congrArg (fun u : State => u.telem.backlog) (hclause (by decide) (by decide))
  have hprio := backlog_droppedWithTailTally.symm.trans (hcard.trans backlog_droppedWithParseTally)
  exact absurd hprio (by decide)

end Sys2Proof.Proofs
end

section
/-!
Proofs of the statements on the tables and the Clerk: a REMOVE that comes into force also leaves the tables that the operations after it
remember as they stood before them.
-/
namespace Sys2Proof.Proofs

open Sys2Proof Sys2Proof.Machine Sys2Proof.Laws

variable {s : State} {x : Issued} {rest : List Issued} {table handle : Nat} {e : Entry}

/-- An operation with the tables that it found, but for an entry of one of them. -/
def forgetting (table handle : Nat) (x : Issued) : Issued :=
  { x with before := { x.before with entries := mapMod [] x.before.entries table fun l => l.filter (·.handle != handle) } }

/-- R258: an entry that every replica has removed is gone, and no operation that is still to come into force remembers it. -/
theorem inFlight_ageInForce_of_goneEverywhere (he : findEntry s table handle = some e) (hgone : e.gone = 0x1FF) :
    (ageInForce s (.remove table handle)).clerk.inFlight = s.clerk.inFlight.map (forgetting table handle) := by
  simp only [ageInForce, he, if_pos hgone]
  rfl

/-- R252, R258: a REMOVE that all nine replicas have applied, each removing the entry, comes into force. -/
theorem inFlight_clerkInForce_of_removed (hflight : s.clerk.inFlight = x :: rest)
    (hup : ∀ h : Nat, h < 9 → islandDown s (112 + h) = false) (hseen : x.seen = 0x1FF) (hage : x.age = some (.remove table handle))
    (hdone : x.done = none) (he : findEntry s table handle = some e) (hgone : e.gone = 0x1FF) :
    (clerkInForce s).clerk.inFlight = rest.map (forgetting table handle) := by
  have hrun : ((List.range 9).any fun h => islandDown s (112 + h)) = false :=
    List.any_eq_false.mpr fun h hh => by simp [hup h (List.mem_range.mp hh)]
  have hlate : ((List.range 9).filter fun h => !x.seen.getLsbD h) = [] := by rw [hseen]; decide
  have hforce : clerkInForce s = ageInForce { s with clerk := { s.clerk with inFlight := rest } } (.remove table handle) := by
    simp [clerkInForce, hflight, hrun, hlate, hage, hdone, forEach]
  rw [hforce]
  exact inFlight_ageInForce_of_goneEverywhere he hgone

-- The counterexample.

/-- An entry of handle 5 that the REMOVE of its visit has taken out of every replica. -/
def removedEntry : Entry :=
  { freshEntry 5 0x0A 0 0 0 3 false true true with gone := 0x1FF, visited := true }

/-- Table 0 holds that entry. -/
def holdingRemoved : State := addEntry releasedPart 0 removedEntry

/-- The REMOVE, which all nine replicas have applied and which is not yet in force. -/
def appliedRemove : Issued :=
  { before := holdingRemoved.tables, old := [], seen := 0x1FF, age := some (.remove 0 5), done := none, write := false }

/-- A write of HASH_CFG 0 that the Clerk issued after it, and that no replica has applied. -/
def laterHashWrite : Issued :=
  { before := holdingRemoved.tables, old := [(aClk 0x2000, reg holdingRemoved (aClk 0x2000))], seen := 0, age := none, done := none,
    write := true }

/-- Both are in flight. -/
def removeBeforeWrite : State :=
  { holdingRemoved with clerk := { Clerk.reset with inFlight := [appliedRemove, laterHashWrite] } }

theorem hallsUp_removeBeforeWrite : ∀ h : Nat, h < 9 → islandDown removeBeforeWrite (112 + h) = false := by decide

theorem inFlight_clerkInForce_removeBeforeWrite :
    (clerkInForce removeBeforeWrite).clerk.inFlight = [forgetting 0 5 laterHashWrite] :=
  inFlight_clerkInForce_of_removed (s := removeBeforeWrite) (x := appliedRemove) (e := removedEntry) rfl hallsUp_removeBeforeWrite rfl rfl rfl rfl rfl

/-- Refutes O35: its clause on CLERK_OP_IN_FORCE leaves the operations behind the oldest as they were. Where the oldest is a REMOVE that
takes its entry out of the tables, the entry also leaves the tables that those operations remember (R252, R258): from `removeBeforeWrite` the
write that stays in flight found one entry in table 0, and remembers none. -/
theorem not_tablesComplete : ¬ Obligations.TablesComplete := by
  unfold Obligations.TablesComplete
  rintro ⟨-, -, -, -, -, -, -, -, hinForce, -⟩
  obtain ⟨t, -, -, hflight, -⟩ := hinForce appliedRemove [laterHashWrite] removeBeforeWrite rfl hallsUp_removeBeforeWrite
  have hsame : forgetting 0 5 laterHashWrite = laterHashWrite :=
    List.head_eq_of_cons_eq (inFlight_clerkInForce_removeBeforeWrite.symm.trans hflight)
  have hbefore : entriesOf (forgetting 0 5 laterHashWrite).before 0 = entriesOf laterHashWrite.before 0 :=
    congrArg (fun y : Issued => entriesOf y.before 0) hsame
  exact absurd hbefore (by decide)

end Sys2Proof.Proofs
end
section
/-!
Proofs of the statements on the Market: a bank that is out of service stays so, whatever is freed, dropped, admitted or reported (R299).
-/
namespace Sys2Proof.Proofs

open Sys2Proof Sys2Proof.Machine Sys2Proof.Laws

/-- The banks that a register store shows out of service. -/
def banksOut (m : Store Word) : List Nat :=
  (List.range 256).filter fun b => (mapGet (resetWord (aBank b 0)) m (aBank b 0)).getLsbD 31

theorem mem_banksOut {s : State} {b : Nat} (hb : b < 256) : b ∈ banksOut s.regs ↔ bankRetired s b = true := by
  simp [banksOut, hb, bankRetired, regBit, reg]

theorem banksOut_congr {s t : State} (h : ∀ b < 256, bankRetired t b = bankRetired s b) : banksOut t.regs = banksOut s.regs :=
  List.filter_congr fun b hb => h b (List.mem_range.mp hb)

-- The writes that leave the banks alone.

/-- The STATUS registers of the banks lie in the Market, each at the start of 16 octets. -/
theorem aBank_status {b : Nat} (hb : b < 256) :
    0x7010000 ≤ aBank b 0 ∧ aBank b 0 < 0x7400000 ∧ aBank b 0 % 16 = 0 := by
  simp only [aBank]; omega

/-- A write elsewhere. -/
theorem banksOut_setReg {s : State} {a : Nat} {v : Word} (h : a < 0x7010000 ∨ 0x7400000 ≤ a) :
    banksOut (setReg s a v).regs = banksOut s.regs := by
  refine banksOut_congr fun b hb => regBit_of_reg (reg_setReg_ne ?_) 31
  have := aBank_status hb
  omega

theorem banksOut_setReg64 {s : State} {a v : Nat} (h : a + 4 < 0x7010000 ∨ 0x7400000 ≤ a) :
    banksOut (setReg64 s a v).regs = banksOut s.regs := by
  rw [setReg64, banksOut_setReg (by omega), banksOut_setReg (by omega)]

theorem banksOut_add64 {s : State} {a n : Nat} (h : a + 4 < 0x7010000 ∨ 0x7400000 ≤ a) :
    banksOut (add64 s a n).regs = banksOut s.regs := banksOut_setReg64 h

/-- A write of a field below bit 31, wherever it goes: a count that a broken tag or frame places in a bank leaves its RETIRED bit alone. -/
@[simp] theorem banksOut_setF_low (s : State) (a : Nat) {hi : Nat} (lo v : Nat) (h : hi < 31) :
    banksOut (setF s a hi lo v).regs = banksOut s.regs := by
  refine banksOut_congr fun b _ => ?_
  by_cases hab : aBank b 0 = a
  · rw [bankRetired, hab, regBit_setF_ne (by decide) (.inr h), bankRetired, hab]
  · exact regBit_of_reg (reg_setF_ne hab) 31

@[simp] theorem banksOut_addF21 (s : State) (a : Nat) (d : Int) : banksOut (addF21 s a d).regs = banksOut s.regs :=
  banksOut_setF_low s a _ _ (by decide)

/-- The registers beside the banks that the admission, release and drop of copies write whole. -/
def bankless : List RegName :=
  [.mktStatus, .mktCount4, .mktCount5, .mktCount6, .partUsed, .qcfgPitch, .qcfgOcc, .pfcState, .stagingFree, .splCount, .stackStatus,
   .qspillStatus, .talCount]

theorem banksOut_of_bankless {s t : State} (h : RegsOnly bankless s t) : banksOut t.regs = banksOut s.regs := by
  refine banksOut_congr fun b hb => regBit_of_reg (h _ ?_) 31
  rintro ⟨r, hr, ha⟩
  have := aBank_status hb
  fin_cases hr <;> grind [RegName.at, aMkt, aUsed, aQcfg, aMPort, aSpl, aStack, aQspill, aTal]

-- Combinators.

theorem banksOut_forEach {α : Type} {f : State → α → State} (hf : ∀ s x, banksOut (f s x).regs = banksOut s.regs) (l : List α)
    (s : State) : banksOut (forEach l f s).regs = banksOut s.regs :=
  forEach_view (V := fun u => banksOut u.regs) (fun u x _ => hf u x) s

theorem banksOut_whenB {f : State → State} (hf : ∀ s, banksOut (f s).regs = banksOut s.regs) (b : Bool) (s : State) :
    banksOut (whenB b f s).regs = banksOut s.regs := by
  cases b
  · rfl
  · exact hf s

-- Sources and records (R425, R433, R435).

theorem banksOut_graceWith {after : State → State} (hafter : ∀ t, banksOut (after t).regs = banksOut t.regs) (s : State) (id : Nat) :
    banksOut (graceWith after s id).regs = banksOut s.regs := by
  unfold graceWith
  split
  · rfl
  · split
    · rw [hafter, startList, banksOut_add64 (by decide), banksOut_setF_low _ _ _ _ (by decide)]
    · rw [setBit, banksOut_setF_low _ _ _ _ (by decide)]

@[simp] theorem banksOut_raise (s : State) (id : Nat) : banksOut (raise s id).regs = banksOut s.regs :=
  banksOut_graceWith (after := raiseE00)
    (fun t => banksOut_graceWith (after := (pendEvent · 0xE00)) (fun _ => rfl) (pendEvent t 0xE00) 0xE00) (pendEvent s id) id

@[simp] theorem banksOut_raiseLimited (s : State) (id ns : Nat) : banksOut (raiseLimited s id ns).regs = banksOut s.regs := by
  rw [raiseLimited]
  split
  · exact banksOut_raise _ _
  · rfl

theorem banksOut_jrnStore (s : State) (e : JrnEntry) : banksOut (jrnStore s e).regs = banksOut s.regs := by
  rw [jrnStore_eq, jrnTouch, jrnWarn, banksOut_whenB fun _ => banksOut_raise _ _, banksOut_whenB fun _ => banksOut_raise _ _]
  rfl

theorem banksOut_jrnOweFault (s : State) (e : FaultEntry) : banksOut (jrnOweFault s e).regs = banksOut s.regs := by
  rw [jrnOweFault]
  split
  · exact banksOut_jrnStore _ _
  · rfl

/-- A first-error record stands in FLT. -/
theorem banksOut_faultRecord (s : State) {id : Nat} (access requester address syndrome : Nat) (hid : id < 4096) :
    banksOut (faultRecord s id access requester address syndrome).regs = banksOut s.regs := by
  have hset : ∀ (u : State) (o : Nat) (v : Word), o < 0x500000 → banksOut (setReg u (aFlt o) v).regs = banksOut u.regs :=
    fun u o v ho => banksOut_setReg (.inl (by simp only [aFlt]; omega))
  have hadd : ∀ o n : Nat, aFlt o + n = aFlt (o + n) := fun o n => Nat.add_assoc _ _ _
  unfold faultRecord
  extract_lets a u1 u2 u3 u4 u5 u6 u7 u8
  split
  · rw [banksOut_add64 (by decide), satF, setF, hadd, hset _ _ _ (by omega)]
  · have hu8 : banksOut u8.regs = banksOut s.regs := by
      simp only [u8, banksOut_jrnOweFault, u7, u6, u5, u4, u3, u2, u1, a, add64, setReg64, hadd]
      repeat rw [hset _ _ _ (by omega)]
    split
    · exact hu8
    · rw [banksOut_raise, hset _ _ _ (by decide), hu8]

theorem banksOut_fault (s : State) {id : Nat} (access requester address syndrome : Nat) (hid : id < 4096) :
    banksOut (fault s id access requester address syndrome).regs = banksOut s.regs := by
  rw [fault, banksOut_raise, banksOut_faultRecord _ _ _ _ _ hid]

-- Performance counters, postcards and drop records (R407, R412, R421).

theorem banksOut_pmcBump (fuel : Nat) (s : State) (n k : Nat) : banksOut (pmcBump fuel s n k).regs = banksOut s.regs := by
  have hset : ∀ (u : State) (n : Nat) (v : Word), banksOut (setReg u (aPmcCount n) v).regs = banksOut u.regs := fun u n v =>
    banksOut_setReg (.inr (by simp only [aPmcCount, aPmc]; omega))
  induction fuel generalizing s n k with
  | zero => rfl
  | succ fuel ih =>
    rw [pmcBump]
    split
    · rfl
    · dsimp only
      split
      · exact hset _ _ _
      · split
        · rw [ih, banksOut_whenB fun _ => banksOut_raise _ _, hset]
        · rw [banksOut_whenB fun _ => banksOut_raise _ _, hset]

@[simp] theorem banksOut_pmcEvent (s : State) (n k : Nat) : banksOut (pmcEvent s n k).regs = banksOut s.regs := by
  rw [pmcEvent]
  unfold pmcAdd
  extract_lets u
  have hu : u.regs = s.regs := by
    unfold u
    split <;> rfl
  split
  · rw [hu]
  · rw [banksOut_pmcBump, hu]

@[simp] theorem banksOut_addTal (s : State) (k : Nat) : banksOut (addTal s k).regs = banksOut s.regs :=
  banksOut_of_bankless (Named.addTal s k (Named.refl s) (by decide))

@[simp] theorem banksOut_dropRecord (s : State) (pipe reason : Nat) (p : Packet) (t : Tally) :
    banksOut (dropRecord s pipe reason p t).regs = banksOut s.regs := by
  have hhand : ∀ (u : State) (r : ExpRec), banksOut (exportHand u r).regs = banksOut u.regs := fun u r => by
    cases r <;> unfold exportHand <;> dsimp only <;> split <;> simp [recordLost]
  have hledger : (ledgerPacket s (ldgDrop pipe reason) p).regs = s.regs := by
    unfold ledgerPacket
    split <;> rfl
  rw [dropRecord, ← hledger]
  unfold postcard
  dsimp only
  split
  · split
    · exact hhand _ _
    · rfl
  · rfl

-- Units of the Market (R273, R274, R278, R288, R291).

theorem banksOut_holdUnit (s : State) (ua pool cls id : Nat) : banksOut (holdUnit s ua pool cls id).regs = banksOut s.regs := by
  rw [holdUnit, banksOut_pmcEvent, setBit, setF, banksOut_setReg (.inl (by decide)), banksOut_setF_low _ _ _ _ (by decide)]

@[simp] theorem banksOut_freeUnit (s : State) (ua : Nat) : banksOut (freeUnit s ua).regs = banksOut s.regs := by
  unfold freeUnit
  dsimp only
  split
  · rfl
  · rw [banksOut_pmcEvent, syncEmpty, setBit, setF, banksOut_setReg (.inl (by decide)),
      banksOut_whenB fun _ => banksOut_setF_low _ _ _ _ (by decide)]

@[simp] theorem banksOut_grantPool (s : State) (rq pool cls id : Nat) (k : UClass) :
    banksOut (grantPool s rq pool cls id k).1.regs = banksOut s.regs := by
  unfold grantPool
  split
  · rfl
  · split
    · rfl
    · exact banksOut_holdUnit _ _ _ _ _

@[simp] theorem banksOut_requestUnit (s : State) (rq pool cls id : Nat) (k : UClass) :
    banksOut (requestUnit s rq pool cls id k).1.regs = banksOut s.regs := by
  unfold requestUnit
  dsimp only
  refine List.foldlRecOn (motive := fun r : State × Option Nat => banksOut r.1.regs = banksOut s.regs) _ _ rfl fun r hr p _ => ?_
  split
  · exact hr
  · have hfall : banksOut (if p = pool then r.1 else fallBack r.1).regs = banksOut s.regs := by
      split
      · exact hr
      · exact (banksOut_add64 (by decide)).trans hr
    split
    · rw [banksOut_whenB fun _ => banksOut_pmcEvent _ _ _, banksOut_grantPool, hfall]
    · rw [banksOut_grantPool, hfall]

@[simp] theorem banksOut_takeChain (fuel : Nat) (s : State) (rq n : Nat) (tag : Nat × Nat) (k : UClass) :
    banksOut (takeChain fuel s rq n tag k).1.regs = banksOut s.regs := by
  induction fuel generalizing s n with
  | zero => rfl
  | succ fuel ih =>
    rw [takeChain]
    dsimp only
    split
    · simp
    · split
      · simp
      · simp [ih]

@[simp] theorem banksOut_takeUnits (s : State) (rq : Nat) (p : Packet) (tag : Nat × Nat) (k : UClass) :
    banksOut (takeUnits s rq p tag k).1.regs = banksOut s.regs := by
  rw [takeUnits]
  split <;> simp

@[simp] theorem banksOut_takeMore (s : State) (rq : Nat) (p : Packet) (units : List Nat) :
    banksOut (takeMore s rq p units).1.regs = banksOut s.regs := by
  rw [takeMore]
  dsimp only
  split <;> simp

@[simp] theorem banksOut_addIng (s : State) (f : MFrame) (d : Int) : banksOut (addIng s f d).regs = banksOut s.regs := by
  have hxoff : ∀ (u : State) (l n : Nat), banksOut (updXoff u l n).regs = banksOut u.regs := fun u l n =>
    banksOut_of_bankless (Named.updXoff u l n (Named.refl u) (by decide))
  unfold addIng
  split
  · rfl
  · dsimp only
    rw [hxoff]
    split <;> simp

theorem banksOut_addOcc (s : State) (q : Nat) (d : Int) : banksOut (addOcc s q d).regs = banksOut s.regs := by
  simp [addOcc]

theorem retag_regs (s : State) (ua cls id : Nat) : (retag s ua cls id).regs = s.regs := by
  rw [retag]
  split <;> rfl

theorem banksOut_freeByCopy (s : State) (q u : Nat) : banksOut (freeByCopy s q u).regs = banksOut s.regs := by
  unfold freeByCopy
  dsimp only
  split
  · simp
  · rw [freeRefused, banksOut_fault _ _ _ _ _ (by decide), banksOut_add64 (by decide)]

@[simp] theorem banksOut_releaseCopy (s : State) (c : Copy) : banksOut (releaseCopy s c).regs = banksOut s.regs := by
  have hdrop : ∀ (u : State) (id : Nat), (dropFrameRec u id).regs = u.regs := fun _ _ => rfl
  have hput : ∀ (u : State) (f : MFrame), (putFrame u f).regs = u.regs := fun _ _ => rfl
  have htag : ∀ (u : State) (ua n : Nat), banksOut (if (unitTag u ua).cls = 6 then retag u ua 6 n else u).regs = banksOut u.regs := by
    intro u ua n
    split
    · rw [retag_regs]
    · rfl
  unfold releaseCopy
  dsimp only
  split
  · exact banksOut_addOcc _ _ _
  · split
    · rw [banksOut_addIng, banksOut_forEach fun _ _ => banksOut_freeByCopy _ _ _, hdrop, banksOut_addOcc]
    · rw [banksOut_forEach fun u x => htag u x _, hput, banksOut_addOcc]

-- Admission and drops (R277 to R291, R405 to R411).

@[simp] theorem banksOut_placeCopies (s : State) (p : Packet) (cs : List Copy) (units : List Nat) (hclass : Bool) :
    banksOut (placeCopies s p cs units hclass).regs = banksOut s.regs := by
  have hput : ∀ (u : State) (f : MFrame), (putFrame u f).regs = u.regs := fun _ _ => rfl
  have hnote : ∀ (u : State) (c : Copy), (noteAdmitted u c).regs = u.regs := fun u c => by
    unfold noteAdmitted noteShare
    split
    · split <;> rfl
    · rfl
  have hqueue : ∀ (u : State) (q : Nat) (c : Copy), (enqueue u q c).regs = u.regs := fun _ _ _ => rfl
  have hcut : ∀ (u : State) (c : Copy), banksOut (if isCut c then add64 u (aMkt 0x130) 1 else u).regs = banksOut u.regs := fun u c => by
    split
    · exact banksOut_add64 (by decide)
    · rfl
  unfold placeCopies enqueueCopies
  dsimp only
  rw [banksOut_forEach fun u c => by rw [hnote, banksOut_addOcc, hqueue], banksOut_addIng, hput,
    banksOut_forEach fun u x => by rw [retag_regs], banksOut_forEach hcut]

@[simp] theorem banksOut_placeFails (s : State) (cs : List Copy) (units : List Nat) :
    banksOut (placeFails s cs units).1.regs = banksOut s.regs :=
  banksOut_forEach banksOut_freeUnit _ _

theorem banksOut_placeMarket (s : State) (rq : Nat) (p : Packet) (cs : List Copy) (hclass : Bool) :
    banksOut (placeMarket s rq p cs hclass).1.regs = banksOut s.regs := by
  unfold placeMarket
  split
  · rfl
  · exact banksOut_of_bankless (Named.shareCopies s _ _ (Named.refl s) (by decide) (by decide))
  · extract_lets t js r cs' u
    have ht : banksOut t.1.regs = banksOut s.regs := banksOut_takeUnits _ _ _ _ _
    have hu : banksOut u.1.regs = banksOut t.1.regs := banksOut_takeMore _ _ _ _
    split
    · exact (banksOut_placeCopies _ _ _ _ _).trans ht
    · split
      · exact (banksOut_placeFails _ _ _).trans ht
      · split
        · exact (banksOut_placeFails _ _ _ : banksOut r.1.regs = _).trans ht
        · split
          · exact (banksOut_placeCopies _ _ _ _ _).trans (hu.trans ht)
          · exact (banksOut_placeFails _ _ _).trans (hu.trans ht)

theorem banksOut_spillStep (r : State × List Copy × List (Copy × Nat)) (c : Copy) :
    banksOut (spillStep r c).1.regs = banksOut r.1.regs :=
  banksOut_of_bankless (Named.spillStep r c (Named.refl r.1) (by decide) (by decide) (by decide) (by decide))

theorem banksOut_foldl_spillStep (l : List Copy) (r : State × List Copy × List (Copy × Nat)) :
    banksOut (l.foldl spillStep r).1.regs = banksOut r.1.regs := by
  induction l generalizing r with
  | nil => rfl
  | cons c l ih => exact (ih _).trans (banksOut_spillStep r c)

@[simp] theorem banksOut_admitCopies (s : State) (rq : Nat) (p : Packet) (cs : List Copy) :
    banksOut (admitCopies s rq p cs).1.regs = banksOut s.regs := by
  unfold admitCopies
  extract_lets js u e marked ok no t m out
  have hu : banksOut u.regs = banksOut s.regs := banksOut_forEach (fun v c => by simp [notePitch]) _ _
  have he : banksOut e.1.regs = banksOut u.regs := by
    unfold e
    split
    · exact banksOut_of_bankless (Named.ecnApply u p _ (Named.refl u))
    · dsimp only
  have ht : banksOut t.1.regs = banksOut e.1.regs := banksOut_foldl_spillStep ok (e.1, [], [])
  have hm : banksOut m.1.regs = banksOut t.1.regs := banksOut_placeMarket _ _ _ _ _
  have hcount : ∀ x kept, banksOut (ecnCount m.1 x kept).regs = banksOut m.1.regs := fun x kept =>
    banksOut_of_bankless (Named.ecnCount m.1 x kept (Named.refl m.1) (by decide) (by decide))
  exact (hcount _ _).trans (hm.trans (ht.trans (he.trans hu)))

theorem banksOut_dropCopy (s : State) (pipe reason : Nat) (p : Packet) (t : Tally) :
    banksOut (dropCopy s pipe reason p t).regs = banksOut s.regs := by
  have htakes : ∀ k, (sessionTakes s k).1.regs = s.regs := fun k => by
    rw [sessionTakes]
    split <;> rfl
  unfold dropCopy
  dsimp only
  split
  · rfl
  · split
    · rw [htakes]
    · split <;> split <;> simp [htakes]

@[simp] theorem banksOut_spillCount (s : State) (reason : Nat) : banksOut (spillCount s reason).regs = banksOut s.regs := by
  have hadd : ∀ k, banksOut (addSpl s k 1).regs = banksOut s.regs := fun k =>
    banksOut_add64 (.inr (by simp only [aSpl]; omega))
  rw [spillCount]
  split
  · simp [hadd]
  · split
    · simp [hadd]
    · split
      · exact hadd _
      · rfl

@[simp] theorem banksOut_dropPacket (s : State) (pipe reason : Nat) (p : Packet) (t : Tally) :
    banksOut (dropPacket s pipe reason p t).regs = banksOut s.regs := by
  unfold dropPacket
  dsimp only
  rw [banksOut_dropCopy]
  split
  · simp
  · split <;> simp

/-- A frame that loses its data leaves the banks as they are (R286, R298). -/
@[simp] theorem banksOut_loseFrame (s : State) (id reason : Nat) : banksOut (loseFrame s id reason).regs = banksOut s.regs := by
  rw [loseFrame, banksOut_forEach]
  · rfl
  · intro u q
    split
    · rw [dropEntries, banksOut_forEach fun v c => by simp [dropQueued]]
      rfl
    · rfl

end Sys2Proof.Proofs
end

section
/-!
Proofs of the statements on the Market: the writes of CARVE and of the reserves, the retirement of a bank and the audit.
-/
namespace Sys2Proof.Proofs

open Sys2Proof Sys2Proof.Machine Sys2Proof.Laws

-- Writes at an open crossing (R41, R42, R48).

theorem holdWrite_open {isl a : Nat} {v : Word} {f : State → State} {s : State} (hisl : islandAt a = isl)
    (hr : s.top.inReset = false) (hs : shut s a = false) : holdWrite s isl a v f = f s := by
  rw [shut, hisl] at hs
  rw [holdWrite, hs, atCrossing_open hr]

/-- The island of a register of the Market is that of its quadrant (Table HIF-3). -/
theorem islandAt_market {a q : Nat} (hq : q < 4) (hlow : 0x7000000 + q * 0x100000 ≤ a) (hhigh : a < 0x7100000 + q * 0x100000) :
    islandAt a = 108 + q := by
  have hdiv : (a - 0x7000000) / 0x100000 = q := by omega
  have hblk : blkOf a = some (.mkt, q, (a - 0x7000000) % 0x100000) := by
    simp (disch := omega) only [blkOf, blkMap, List.findSome?_cons, if_neg, if_pos, hdiv]
  rw [islandAt, hblk]

theorem islandAt_bankRetire {bank : Nat} (hb : bank < 256) : islandAt (aBank bank 8) = 108 + bank / 64 :=
  islandAt_market (by omega) (by simp only [aBank]; omega) (by simp only [aBank]; omega)

-- MKT.ERR (R272, R275).

theorem mem_pend_mktErr (s : State) (bit : Nat) : 0x704 ∈ (mktErr s bit).crier.pend := mem_raise _ _

/-- The source of MKT.ERR writes no register of the Market. -/
theorem reg_mktErr (s : State) (bit o : Nat) : reg (mktErr s bit) (aMkt o) = reg (setBit s (aMkt 8) bit true) (aMkt o) := by
  rw [mktErr, reg_raise_ne] <;> simp only [aMkt, aEsc, aFlt] <;> omega

theorem reg_mktErr_ne (s : State) (bit : Nat) {o : Nat} (h : o ≠ 8) : reg (mktErr s bit) (aMkt o) = reg s (aMkt o) := by
  rw [reg_mktErr, reg_setBit_ne (by simp only [aMkt]; omega)]

theorem regBit_mktErr (s : State) {bit : Nat} (h : bit < 32) : regBit (mktErr s bit) (aMkt 8) bit = true := by
  rw [regBit_of_reg (reg_mktErr s bit 8), regBit_setBit_same h]

theorem regBit_mktErr_ne (s : State) {bit i : Nat} (h : i ≠ bit) : regBit (mktErr s bit) (aMkt 8) i = regBit s (aMkt 8) i := by
  rw [regBit_of_reg (reg_mktErr s bit 8), regBit_setBit_ne (.inr h)]

-- CARVE (R271, R272).

/-- The value does not fit: too many slabs or blocks, or too few cells left for the drain reserve. -/
def carveBad (s : State) (value : Word) : Bool :=
  decide (64 < fget value 22 16) || decide (512 < fget value 9 0) || decide (4096 < 8 * fget value 9 0 + 64 * fget value 22 16)
    || decide (256 * (4096 - 8 * fget value 9 0 - 64 * fget value 22 16) < drainReserve s)

/-- The part has the new carving, and its pools are counted anew. -/
def carved (s : State) (value : Word) : State :=
  forEach [0, 1, 2] (fun s k => setF s (aPoolFree k) 20 0 (poolUnits s k * banksLeft s)) (setReg s (aMkt 0) (value &&& 0x007F03FF))

/-- A write that comes while a unit is held sets CARVE_BUSY, and one that does not fit sets CARVE_BAD (R272). -/
def carveErrs (s : State) (value : Word) : State :=
  whenB (carveBad s value) (mktErr · 1) (whenB (!s.market.units.isEmpty) (mktErr · 0) s)

theorem exec_carveWrite {value : Word} {s : State} (hr : s.top.inReset = false) (hs : shut s (aMkt 0) = false) :
    exec (.carveWrite value) s = .next (
      if !s.market.units.isEmpty || carveBad s value then carveErrs s value else carved s value) := by
  change execCarveWrite value s = _
  rw [execCarveWrite, holdWrite_open (by decide) hr hs]
  change Host.Outcome.next (if (!s.market.units.isEmpty || carveBad s value) = true then carveErrs s value
    else carved (carveErrs s value) value) = _
  split
  · rfl
  · have hnone : carveErrs s value = s := by simp_all [carveErrs, whenB]
    rw [hnone]

theorem reg_setF_aPoolFree (s : State) (k v : Nat) {o : Nat} (h : o < 0x20) :
    reg (setF s (aPoolFree k) 20 0 v) (aMkt o) = reg s (aMkt o) := reg_setF_ne (by simp only [aPoolFree, aMkt]; omega)

theorem reg_carved_carve (s : State) (value : Word) : reg (carved s value) (aMkt 0) = value &&& 0x007F03FF := by
  simp only [carved, forEach, List.foldl_cons, List.foldl_nil, reg_setF_aPoolFree _ _ _ (show 0 < 0x20 by decide)]
  exact reg_setReg_same

theorem fget_carveMask (value : Word) : fget (value &&& 0x007F03FF) 9 0 = fget value 9 0 := by
  refine Nat.eq_of_testBit_eq fun i => ?_
  rw [testBit_fget, testBit_fget, BitVec.getLsbD_and]
  by_cases hi : i < 10
  · interval_cases i <;> simp
  · simp [hi]

/-- POOL_FREE of the blocks counts those of every bank in service. -/
theorem regF_carved_blocks (s : State) (value : Word) :
    regF (carved s value) (aPoolFree 1) 20 0 = fget value 9 0 * banksLeft s % 2 ^ 21 := by
  have hblocks : ∀ v, carveBlocks (setF (setReg s (aMkt 0) (value &&& 0x007F03FF)) (aPoolFree 0) 20 0 v) = fget value 9 0 := fun v => by
    rw [carveBlocks, regF_of_reg (reg_setF_aPoolFree _ _ _ (by decide)), regF, reg_setReg_same, fget_carveMask]
  have hleft : ∀ v, banksLeft (setF (setReg s (aMkt 0) (value &&& 0x007F03FF)) (aPoolFree 0) 20 0 v) = banksLeft s := fun v => by
    rw [banksLeft, regF_of_reg (reg_setF_aPoolFree _ _ _ (by decide)), regF_of_reg (reg_setReg_ne (by decide)), banksLeft]
  simp only [carved, forEach, List.foldl_cons, List.foldl_nil]
  rw [regF_of_reg (reg_setF_ne (by decide)), regF_setF_same (by decide), poolUnits, if_neg (by decide), if_pos rfl, hblocks, hleft]

/-- R271: a carving that fits is taken while nothing is held. -/
theorem execCarveWrite_takes {value : Word} {s : State} (hr : s.top.inReset = false) (hs : shut s (aMkt 0) = false)
    (hempty : s.market.units = []) (hslabs : fget value 22 16 ≤ 64) (hblocks : fget value 9 0 ≤ 512)
    (hfits : 8 * fget value 9 0 + 64 * fget value 22 16 ≤ 4096)
    (hdrain : drainReserve s ≤ 256 * (4096 - 8 * fget value 9 0 - 64 * fget value 22 16)) :
    Completes (.carveWrite value) s fun t => reg t (aMkt 0) = value &&& 0x007F03FF
      ∧ regF t (aPoolFree 1) 20 0 = fget value 9 0 * banksLeft s % 2 ^ 21 := by
  have hok : carveBad s value = false := by simp [carveBad]; omega
  refine ⟨_, exec_carveWrite hr hs, ?_⟩
  rw [if_neg (by simp [hempty, hok])]
  exact ⟨reg_carved_carve s value, regF_carved_blocks s value⟩

/-- R272: one that does not fit, or comes while a unit is held, leaves CARVE alone and sets an error. -/
theorem execCarveWrite_refuses {value : Word} {s : State} (hr : s.top.inReset = false) (hs : shut s (aMkt 0) = false)
    (h : s.market.units ≠ [] ∨ 64 < fget value 22 16 ∨ 512 < fget value 9 0 ∨ 4096 < 8 * fget value 9 0 + 64 * fget value 22 16
      ∨ 256 * (4096 - 8 * fget value 9 0 - 64 * fget value 22 16) < drainReserve s) :
    Completes (.carveWrite value) s fun t => reg t (aMkt 0) = reg s (aMkt 0) ∧ 0x704 ∈ t.crier.pend
      ∧ (s.market.units ≠ [] → regBit t (aMkt 8) 0 = true) ∧ (s.market.units = [] → regBit t (aMkt 8) 1 = true) := by
  have hbad : carveBad s value = true ∨ s.market.units ≠ [] := by simp [carveBad]; tauto
  refine ⟨_, exec_carveWrite hr hs, ?_⟩
  rw [if_pos (by simpa [or_comm] using hbad), carveErrs]
  by_cases hheld : s.market.units = []
  · have hbad := hbad.resolve_right (not_not_intro hheld)
    simp only [hheld, hbad, whenB, List.isEmpty_nil, Bool.not_true, Bool.false_eq_true, if_false, if_true]
    exact ⟨reg_mktErr_ne _ _ (by decide), mem_pend_mktErr _ _, fun h => absurd rfl h, fun _ => regBit_mktErr _ (by decide)⟩
  · have hbusy : s.market.units.isEmpty = false := by simpa using hheld
    simp only [hbusy, whenB, Bool.not_false, if_true]
    cases carveBad s value with
    | false => exact ⟨reg_mktErr_ne _ _ (by decide), mem_pend_mktErr _ _, fun _ => regBit_mktErr _ (by decide), fun h => absurd h hheld⟩
    | true =>
      simp only [if_true]
      rw [reg_mktErr_ne _ _ (by decide), reg_mktErr_ne _ _ (by decide), regBit_mktErr_ne _ (by decide)]
      exact ⟨rfl, mem_pend_mktErr _ _, fun _ => regBit_mktErr _ (by decide), fun h => absurd h hheld⟩

-- The reserves (R275).

/-- The reserves that a write of HDRM_RESERVE or DRAIN_RESERVE would make do not fit. -/
def reserveBad (s : State) (hdrm : Bool) (value : Word) : Prop :=
  256 * cellPool s < (if hdrm then drainReserve s else fget value 20 0)
    ∨ 1048576 < (if hdrm then drainReserve s + fget value 20 0 else fget value 20 0 + hdrmReserve s)

theorem exec_reserveWrite {hdrm : Bool} {value : Word} {s : State} (hr : s.top.inReset = false)
    (hs : shut s (aMkt (if hdrm then 0x14 else 0x10)) = false) :
    (reserveBad s hdrm value → exec (.reserveWrite hdrm value) s = .next (mktErr s 2))
    ∧ (¬reserveBad s hdrm value →
      exec (.reserveWrite hdrm value) s = .next (setF s (aMkt (if hdrm then 0x14 else 0x10)) 20 0 (fget value 20 0))) := by
  change (_ → execReserveWrite hdrm value s = _) ∧ (_ → execReserveWrite hdrm value s = _)
  rw [execReserveWrite, holdWrite_open (by cases hdrm <;> decide) hr hs]
  cases hdrm <;> simp +contextual [reserveBad]

theorem execReserveWrite_takes {hdrm : Bool} {value : Word} {s : State} (hr : s.top.inReset = false)
    (hs : shut s (aMkt (if hdrm then 0x14 else 0x10)) = false)
    (hcells : (if hdrm then drainReserve s else fget value 20 0) ≤ 256 * cellPool s)
    (hsum : (if hdrm then drainReserve s + fget value 20 0 else fget value 20 0 + hdrmReserve s) ≤ 1048576) :
    Completes (.reserveWrite hdrm value) s fun t => regF t (aMkt (if hdrm then 0x14 else 0x10)) 20 0 = fget value 20 0 := by
  refine ⟨_, (exec_reserveWrite hr hs).2 (by rw [reserveBad]; omega), ?_⟩
  dsimp only
  rw [regF_setF_same (by decide), fget, nbits, Nat.mod_mod]

theorem execReserveWrite_refuses {hdrm : Bool} {value : Word} {s : State} (hr : s.top.inReset = false)
    (hs : shut s (aMkt (if hdrm then 0x14 else 0x10)) = false) (h : reserveBad s hdrm value) :
    Completes (.reserveWrite hdrm value) s fun t => reg t (aMkt (if hdrm then 0x14 else 0x10)) = reg s (aMkt (if hdrm then 0x14 else 0x10))
      ∧ regBit t (aMkt 8) 2 = true ∧ 0x704 ∈ t.crier.pend :=
  ⟨_, (exec_reserveWrite hr hs).1 h, reg_mktErr_ne _ _ (by cases hdrm <;> decide), regBit_mktErr _ (by decide), mem_pend_mktErr _ _⟩

-- Retirement of a bank (R299).

theorem retireBank_retired {s : State} {b : Nat} (h : bankRetired s b = true) : retireBank s b = s := by
  rw [retireBank, h, Bool.or_true, if_pos rfl]

theorem retireBank_retires {s : State} {b : Nat} (hb : b < 256) (h : bankRetired s b = false) :
    bankRetired (retireBank s b) b = true ∧ 0x703 ∈ (retireBank s b).crier.pend := by
  have hlt : decide (255 < b) = false := decide_eq_false (by omega)
  rw [← mem_banksOut hb]
  unfold retireBank
  rw [hlt, h, Bool.or_false, if_neg Bool.false_ne_true]
  dsimp only
  refine ⟨?_, mem_raise _ _⟩
  rw [banksOut_raise, banksOut_forEach fun _ _ => banksOut_loseFrame _ _ _,
    banksOut_forEach fun _ _ => banksOut_setF_low _ _ _ _ (by decide), banksOut_setF_low _ _ _ _ (by decide), mem_banksOut hb]
  exact regBit_setBit_same (by decide)

/-- R299: the value 1 retires a bank in service, and nothing else acts. -/
theorem execBankRetire_retires {bank : Nat} {value : Word} {s : State} (hb : bank < 256) (hr : s.top.inReset = false)
    (hs : shut s (aBank bank 8) = false) : Completes (.bankRetire bank value) s fun t =>
      (value = 1 → bankRetired s bank = false → bankRetired t bank = true ∧ 0x703 ∈ t.crier.pend)
      ∧ (value ≠ 1 ∨ bankRetired s bank = true → t = s) := by
  have hexec : exec (.bankRetire bank value) s = .next (if value = 1 then retireBank s bank else s) := by
    change execBankRetire bank value s = _
    rw [execBankRetire, holdWrite_open (islandAt_bankRetire hb) hr hs]
  refine ⟨_, hexec, fun hv hin => ?_, fun h => ?_⟩
  · rw [if_pos hv]
    exact retireBank_retires hb hin
  · split
    · exact retireBank_retired (h.resolve_left (not_not_intro ‹_›))
    · rfl

-- The audit (R295).

theorem execAuditSweep_takes {s : State} (hen : regBit s (aMkt 0x40) 31 = true) (hnone : s.market.sweep = none) :
    Completes .auditSweep s fun t => t.market.sweep = some ((s.market.units.filter fun x => x.2.cls != 4).map (·.1))
      ∧ regBit t (aMkt 0x44) 31 = true := by
  have hexec : exec .auditSweep s = .next (setBit { s with market := { s.market with
      sweep := some ((s.market.units.filter fun x => x.2.cls != 4).map (·.1)) } } (aMkt 0x44) 31 true) := by
    change execAuditSweep s = _
    simp [execAuditSweep, hen, hnone]
  exact ⟨_, hexec, by rw [setBit_market], regBit_setBit_same (by decide)⟩

theorem pmcEvent_market (s : State) (n k : Nat) : (pmcEvent s n k).market = s.market :=
  Only.pmcEvent (fr := [.regs, .owed, .crier, .flt, .activity]) s n k (Only.refl s) (by decide) (by decide) (by decide) (by decide)
    (by decide) .market (by decide)

theorem syncEmpty_market (s : State) : (syncEmpty s).market = s.market := setBit_market _ _ _ _

/-- A unit that is freed leaves the Market with no tag, and neither the host nor a sweep holds it. -/
theorem freeUnit_market {s : State} {ua : Nat} (h : (unitTag s ua).cls ≠ 0) :
    (freeUnit s ua).market = { s.market with
      units := mapPut noTag s.market.units ua noTag, hostHeld := s.market.hostHeld.erase ua, sweep := s.market.sweep.map (·.erase ua) } := by
  unfold freeUnit
  rw [if_neg h, pmcEvent_market, syncEmpty_market, whenB]
  split
  · rw [setF_market]
  · rfl

theorem freeUnit_sweep_none {s : State} (h : s.market.sweep = none) (ua : Nat) : (freeUnit s ua).market.sweep = none := by
  by_cases hcls : (unitTag s ua).cls = 0
  · rwa [freeUnit, if_pos hcls]
  · rw [freeUnit_market hcls, h]
    rfl

theorem reportLeak_sweep_none {s : State} (h : s.market.sweep = none) (ua : Nat) : (reportLeak s ua).market.sweep = none := by
  unfold reportLeak
  dsimp only
  split
  · rw [add64_market]
    exact freeUnit_sweep_none (by simpa using h) ua
  · simpa using h

theorem execAuditSweepEnd_ends {l : List Nat} {s : State} (h : s.market.sweep = some l) :
    Completes .auditSweepEnd s fun t => t.market.sweep = none := by
  refine ⟨_, rfl, ?_⟩
  dsimp only
  rw [h]
  refine forEach_keeps (P := fun u => u.market.sweep = none) (fun u x hu => reportLeak_sweep_none hu x) _ ?_
  rw [setReg_market]
  exact (forEach_view (V := fun u => u.market.sweep) (by intros; rfl) _).trans rfl

end Sys2Proof.Proofs
end

section
/-!
Proofs of the statements on the Market: the commands on host buffers.
-/
namespace Sys2Proof.Proofs

open Sys2Proof Sys2Proof.Machine Sys2Proof.Laws

variable {s : State} {c : HostCmd}

-- Completions (R85) beside what a host buffer changes of the host interface.

/-- A command that may start reports where no PERST_N reset has come between. -/
theorem reports_complete_of_oldBell {row : CmdRow} {u : State} (h : Ready s c row) (hu : u.hif.oldBell = s.hif.oldBell) (status : Nat)
    (result : List Byte) : Reports c status (complete u c status result) :=
  reports_of_answers (answers_complete (by rw [hu]; exact h.1) status result)

theorem complete_slots {u : State} (h : u.hif.oldBell < c.bell) (status : Nat) (result : List Byte) :
    (complete u c status result).hif.slots = u.hif.slots := by
  rw [complete, if_neg (by omega)]
  rfl

-- BUF_ALLOC (R293).

theorem exec_bufAlloc_ready (h : Ready s c .bufAlloc) : exec (.bufAlloc c) s = .next (doBufAlloc c s) :=
  congrArg Host.Outcome.next (runCmd_ready h _)

theorem requestUnit_hif (s : State) (rq pool cls id : Nat) (k : UClass) : (requestUnit s rq pool cls id k).1.hif = s.hif :=
  Only.requestUnit (fr := [.regs, .owed, .market, .crier, .flt, .activity]) s rq pool cls id k (Only.refl s) (by decide) (by decide)
    (by decide) (by decide) (by decide) (by decide) .hif (by decide)

theorem doBufAlloc_badLength (h : argN c 0 2 < 1 ∨ 16384 < argN c 0 2) : doBufAlloc c s = complete s c stBadArg :=
  if_pos (by simpa using h)

/-- What the Market answers to a request for a host buffer. -/
def bufRequest (s : State) (c : HostCmd) (slot : Nat) : State × Option Nat := requestUnit s 37 (poolFor (argN c 0 2)) 4 slot .ordinary

/-- The cells of a unit of that answer. -/
def bufCells (s : State) (c : HostCmd) (slot ua : Nat) : Nat := unitCells (unitTag (bufRequest s c slot).1 ua).pool

/-- The unit goes beyond what the host's partition may hold. -/
def overPartition (s : State) (n : Nat) : Prop :=
  regF s (aMkt (0x200 + 16 * regF s (aMkt 0x18) 31 29)) 20 0 < regF s (aUsed (regF s (aMkt 0x18) 31 29)) 20 0 + n

/-- The unit is handed to the host: charged, cleared, held and mapped. -/
def bufHanded (s : State) (c : HostCmd) (slot ua : Nat) : State :=
  let n := bufCells s c slot ua
  let u := clearBuf (addHostUsed (drawn (bufRequest s c slot).1) n) ua (256 * n)
  { u with
    market := { u.market with hostHeld := u.market.hostHeld ++ [ua] }
    hif := { u.hif with slots := mapPut 0 u.hif.slots slot (ua + 1) } }

section Alloc

variable (hmin : 1 ≤ argN c 0 2) (hmax : argN c 0 2 ≤ 16384)

include hmin hmax

/-- A length that a unit holds passes the test of BUF_ALLOC. -/
theorem length_held : ¬(decide (argN c 0 2 < 1) || decide (16384 < argN c 0 2)) = true := by
  simp only [Bool.or_eq_true, decide_eq_true_eq]
  omega

theorem doBufAlloc_full (h : freeSlot s = none ∨ regF s (aMkt 0x18) 11 0 ≤ s.market.hostHeld.length) :
    doBufAlloc c s = complete s c stTableFull := by
  unfold doBufAlloc
  extract_lets len
  rw [if_neg (length_held hmin hmax)]
  split
  · rfl
  · rw [if_pos (h.resolve_left (by simp_all))]

variable {slot : Nat} (hslot : freeSlot s = some slot) (hroom : s.market.hostHeld.length < regF s (aMkt 0x18) 11 0)

include hslot hroom

/-- With a free slot and room for one unit more, BUF_ALLOC answers as the request and then the partition say. -/
theorem doBufAlloc_requests :
    ((bufRequest s c slot).2 = none → doBufAlloc c s = complete (bufRequest s c slot).1 c stPoolEmpty)
    ∧ ∀ ua, (bufRequest s c slot).2 = some ua →
      (overPartition s (bufCells s c slot ua) →
        doBufAlloc c s = complete (setReg64 s (aMkt 0x118) (reg64 (bufRequest s c slot).1 (aMkt 0x118))) c stPoolEmpty)
      ∧ (¬overPartition s (bufCells s c slot ua) → doBufAlloc c s = complete (bufHanded s c slot ua) c stOk
        (bytesLE 4 ua ++ bytesLE 2 slot ++ bytesLE 1 (unitTag (bufRequest s c slot).1 ua).pool)) := by
  unfold doBufAlloc
  extract_lets len
  rw [if_neg (length_held hmin hmax)]
  split
  · simp_all
  · next slot' hslot' =>
    obtain rfl : slot' = slot := Option.some.inj (hslot'.symm.trans hslot)
    rw [if_neg (Nat.not_le.mpr hroom)]
    extract_lets g
    refine ⟨fun hnone => ?_, fun ua hsome => ⟨fun hover => ?_, fun hfits => ?_⟩⟩
    · rw [show g.2 = none from hnone]
      rfl
    · rw [show g.2 = some ua from hsome]
      exact if_pos hover
    · rw [show g.2 = some ua from hsome]
      exact if_neg hfits

end Alloc

theorem bufHanded_hif (s : State) (c : HostCmd) (slot ua : Nat) :
    (bufHanded s c slot ua).hif.oldBell = s.hif.oldBell
    ∧ (bufHanded s c slot ua).hif.slots = mapPut 0 s.hif.slots slot (ua + 1) := by
  have hhif : (addHostUsed (drawn (bufRequest s c slot).1) (bufCells s c slot ua)).hif = s.hif := by
    rw [addHostUsed_hif, drawn, bufRequest, requestUnit_hif]
  simp only [bufHanded, clearBuf, hhif, and_self]

/-- R293: BUF_ALLOC of a length that no unit holds. -/
theorem execBufAlloc_badLength (hr : Ready s c .bufAlloc) (h : argN c 0 2 < 1 ∨ 16384 < argN c 0 2) :
    Completes (.bufAlloc c) s fun t => Reports c stBadArg t ∧ t.market = s.market := by
  refine ⟨_, exec_bufAlloc_ready hr, ?_⟩
  rw [doBufAlloc_badLength h]
  exact ⟨reports_complete hr rfl _ _, complete_market _ _ _ _⟩

/-- R293: BUF_ALLOC answers by the first of slot, unit and partition that is missing, and otherwise hands the unit to the host. -/
theorem execBufAlloc_answers (hr : Ready s c .bufAlloc) (hmin : 1 ≤ argN c 0 2) (hmax : argN c 0 2 ≤ 16384) :
    Completes (.bufAlloc c) s fun t =>
      (freeSlot s = none ∨ regF s (aMkt 0x18) 11 0 ≤ s.market.hostHeld.length → Reports c stTableFull t)
      ∧ (∀ slot, freeSlot s = some slot → s.market.hostHeld.length < regF s (aMkt 0x18) 11 0 →
        ((bufRequest s c slot).2 = none → Reports c stPoolEmpty t)
        ∧ (∀ ua, (bufRequest s c slot).2 = some ua →
          (overPartition s (bufCells s c slot ua) → Reports c stPoolEmpty t)
          ∧ (¬overPartition s (bufCells s c slot ua) →
            Reports c stOk t ∧ ua ∈ t.market.hostHeld ∧ mapGet 0 t.hif.slots slot = ua + 1))) := by
  refine ⟨_, exec_bufAlloc_ready hr, fun hfull => ?_, fun slot hslot hroom => ⟨fun hnone => ?_, fun ua hsome =>
    ⟨fun hover => ?_, fun hfits => ?_⟩⟩⟩
  · rw [doBufAlloc_full hmin hmax hfull]
    exact reports_complete hr rfl _ _
  · rw [(doBufAlloc_requests hmin hmax hslot hroom).1 hnone]
    exact reports_complete hr (requestUnit_hif _ _ _ _ _ _) _ _
  · rw [((doBufAlloc_requests hmin hmax hslot hroom).2 ua hsome).1 hover]
    exact reports_complete hr (setReg64_hif _ _ _) _ _
  · obtain ⟨hbell, hslots⟩ := bufHanded_hif s c slot ua
    rw [((doBufAlloc_requests hmin hmax hslot hroom).2 ua hsome).2 hfits, complete_market,
      complete_slots (hbell ▸ hr.1), hslots]
    exact ⟨reports_complete_of_oldBell hr hbell _ _, List.mem_append_right _ (List.mem_singleton_self ua), mapGet_mapPut_same⟩

-- BUF_FREE (R292, R293).

theorem exec_bufFree_ready (h : Ready s c .bufFree) : exec (.bufFree c) s = .next (doBufFree c s) :=
  congrArg Host.Outcome.next (runCmd_ready h _)

/-- A refused handle is recorded outside the host interface and the pipelines. -/
theorem onlyCheckHandle (s : State) (ua : Nat) : Only [.regs, .journal, .owed, .crier, .flt] s (checkHandle s ua).1 :=
  Only.checkHandle s ua (Only.refl s) (by decide) (by decide) (by decide) (by decide) (by decide)

/-- A unit that has been freed has no holder, nor had one that was free. -/
theorem unitTag_freeUnit (s : State) (ua : Nat) : (unitTag (freeUnit s ua) ua).cls = 0 := by
  by_cases h : (unitTag s ua).cls = 0
  · rw [freeUnit, if_pos h, h]
  · rw [unitTag, freeUnit_market h, mapGet_mapPut_same]
    rfl

theorem unmapBuf_hif (s : State) (ua : Nat) :
    (unmapBuf s ua).hif = { s.hif with slots := mapPut 0 s.hif.slots (unitTag s ua).id 0 } := by
  have h := addHostUsed_hif s (-(unitCells (unitTag s ua).pool : Int))
  simp only [unmapBuf, h]

/-- R293: BUF_FREE ends with the status of its handle, and frees and unmaps a host buffer. -/
theorem execBufFree_answers (hr : Ready s c .bufFree) : Completes (.bufFree c) s fun t => Reports c (checkHandle s (argN c 0 4)).2 t
    ∧ ((checkHandle s (argN c 0 4)).2 = stOk → (unitTag t (argN c 0 4)).cls = 0
        ∧ mapGet 0 t.hif.slots (unitTag s (argN c 0 4)).id = 0) := by
  refine ⟨_, exec_bufFree_ready hr, ?_⟩
  unfold doBufFree
  extract_lets ua k
  split
  · exact ⟨reports_complete hr (onlyCheckHandle s ua .hif (by decide)) _ _, fun h => absurd h ‹_›⟩
  · have hok : k.2 = stOk := not_not.mp ‹_›
    have hhif := (freeUnit_hif (unmapBuf s ua) ua).trans (unmapBuf_hif s ua)
    have hbell : (freeUnit (unmapBuf s ua) ua).hif.oldBell = s.hif.oldBell := by rw [hhif]
    rw [hok, complete_slots (hbell ▸ hr.1), hhif, unitTag, complete_market]
    exact ⟨reports_complete_of_oldBell hr hbell _ _, fun _ => ⟨unitTag_freeUnit _ ua, mapGet_mapPut_same⟩⟩

-- BUF_SEND (R292, R293).

theorem exec_bufSendIngress_ready (h : Ready s c .bufSendIngress) : exec (.bufSendIngress c) s = .next (doBufSend c s) :=
  congrArg Host.Outcome.next (runCmd_ready h _)

theorem exec_bufSendEgress_ready (h : Ready s c .bufSendEgress) : exec (.bufSendEgress c) s = .next (doBufSend c s) :=
  congrArg Host.Outcome.next (runCmd_ready h _)

/-- MODE chooses the form (Table HIF-10). -/
theorem mode_of_bufSendIngress (h : rowOf c = some .bufSendIngress) : (argN c 6 1).testBit 0 = false := by
  unfold rowOf at h
  split at h <;> grind

theorem mode_of_bufSendEgress (h : rowOf c = some .bufSendEgress) : (argN c 6 1).testBit 0 = true := by
  unfold rowOf at h
  split at h <;> grind

/-- The status of a BUF_SEND whose arguments, handle or length are refused. -/
def sendStatus (s : State) (c : HostCmd) : Nat :=
  if sendArgsOk c = false then stBadArg
  else if (checkHandle s (argN c 0 4)).2 ≠ stOk then (checkHandle s (argN c 0 4)).2
  else stBadArg

theorem doBufSend_refused (h : sendArgsOk c = false ∨ (checkHandle s (argN c 0 4)).2 ≠ stOk
      ∨ 256 * unitCells (unitTag s (argN c 0 4)).pool < argN c 4 2) :
    ∃ u, doBufSend c s = complete u c (sendStatus s c) ∧ u.hif = s.hif ∧ u.pipes = s.pipes := by
  have hframe := onlyCheckHandle s (argN c 0 4)
  unfold doBufSend sendStatus
  extract_lets ua k
  cases hargs : sendArgsOk c with
  | false => exact ⟨s, rfl, rfl, rfl⟩
  | true =>
    simp only [Bool.not_true, Bool.false_eq_true, Bool.true_eq_false, if_false]
    by_cases hk : k.2 = stOk
    · have hlong := (h.resolve_left (by simp [hargs])).resolve_left (not_not_intro hk)
      rw [if_neg (not_not_intro hk), if_pos hlong, if_neg (not_not_intro hk)]
      exact ⟨s, rfl, rfl, rfl⟩
    · rw [if_pos hk, if_pos hk]
      exact ⟨k.1, rfl, hframe .hif (by decide), hframe .pipes (by decide)⟩

/-- A refused BUF_SEND of either form completes and sends nothing. -/
theorem doBufSend_refuses {row : CmdRow} (hr : Ready s c row) (h : sendArgsOk c = false ∨ (checkHandle s (argN c 0 4)).2 ≠ stOk
      ∨ 256 * unitCells (unitTag s (argN c 0 4)).pool < argN c 4 2) :
    (doBufSend c s).pipes = s.pipes ∧ Reports c (sendStatus s c) (doBufSend c s) := by
  obtain ⟨u, hdo, hhif, hpipes⟩ := doBufSend_refused h
  rw [hdo, complete_pipes]
  exact ⟨hpipes, reports_complete hr hhif _ _⟩

section Sent

variable (hargs : sendArgsOk c = true) (hhandle : (checkHandle s (argN c 0 4)).2 = stOk)
  (hlen : argN c 4 2 ≤ 256 * unitCells (unitTag s (argN c 0 4)).pool)

include hargs hhandle hlen

theorem doBufSend_sends : doBufSend c s = if (argN c 6 1).testBit 0 then sendEgress c s else sendIngress c s := by
  simp [doBufSend, hargs, hhandle, hlen]

/-- R293: the frame of a buffer joins the recirculation path of its group. -/
theorem execBufSendIngress_sends (hr : Ready s c .bufSendIngress) : Completes (.bufSendIngress c) s fun t =>
    ∃ p ∈ mapGet [] t.pipes.recirc (argN c 8 2), p.unit = argN c 0 4 + 1 ∧ p.octets = bufOctets s (argN c 0 4) (argN c 4 2) := by
  refine ⟨_, exec_bufSendIngress_ready hr, ?_⟩
  rw [doBufSend_sends hargs hhandle hlen, mode_of_bufSendIngress hr.2.1, if_neg Bool.false_ne_true]
  refine ⟨{ hostPacket s (bufOctets s (argN c 0 4) (argN c 4 2)) (argN c 10 2) (argN c 8 2) with unit := argN c 0 4 + 1 }, ?_, rfl, rfl⟩
  change _ ∈ mapGet [] (pushAt s.pipes.recirc _ _) _
  rw [pushAt, mapGet_mapMod, if_pos rfl]
  exact List.mem_append_right _ (List.mem_singleton_self _)

end Sent

/-- The parts that the admission or the drop of a frame changes: the host interface is none of them. -/
def admissionParts : List Part := [.regs, .freeCtr, .owed, .lastRaise, .market, .spill, .sched, .telem, .crier, .flt, .activity]

theorem dropPacket_hif (s : State) (pipe reason : Nat) (p : Packet) (t : Tally) : (dropPacket s pipe reason p t).hif = s.hif :=
  Only.dropPacket (fr := admissionParts) s pipe reason p t (Only.refl s) (by decide) (by decide) (by decide) (by decide) (by decide)
    (by decide) (by decide) (by decide) (by decide) (by decide) (by decide) .hif (by decide)

theorem enqueueCopies_hif (s : State) (p : Packet) (cs : List Copy) (units : List Nat) (hclass : Bool) :
    (enqueueCopies s p cs units hclass).hif = s.hif :=
  Only.enqueueCopies (fr := admissionParts) s p cs units hclass (Only.refl s) (by decide) (by decide) (by decide) (by decide)
    .hif (by decide)

theorem ecnApply_hif (s : State) (p : Packet) (q : Nat) : (ecnApply s p q).1.hif = s.hif :=
  Only.ecnApply (fr := admissionParts) s p q (Only.refl s) (by decide) .hif (by decide)

theorem spillStep_hif (r : State × List Copy × List (Copy × Nat)) (x : Copy) : (spillStep r x).1.hif = r.1.hif :=
  Only.spillStep (fr := admissionParts) r x (Only.refl r.1) (by decide) (by decide) (by decide) .hif (by decide)

theorem ecnCount_hif (s : State) (k : Option Bool) (kept : Bool) : (ecnCount s k kept).hif = s.hif :=
  Only.ecnCount (fr := admissionParts) s k kept (Only.refl s) (by decide) .hif (by decide)

theorem unmapBuf_oldBell (s : State) (ua : Nat) : (unmapBuf s ua).hif.oldBell = s.hif.oldBell := by
  rw [unmapBuf_hif]

/-- Of the host interface, the admission of a host's frame changes the slot of its unit alone. -/
theorem admitUnit_oldBell (s : State) (p : Packet) (x : Copy) (ua : Nat) : (admitUnit s p x ua).hif.oldBell = s.hif.oldBell := by
  unfold admitUnit
  extract_lets j u refuse e y t v
  have hrefuse : ∀ (w : State) (z : Copy) (r : Nat), (refuse w z r).hif.oldBell = w.hif.oldBell := fun w z r => by
    simp only [refuse, freeUnit_hif, dropPacket_hif, unmapBuf_oldBell]
  have he : e.1.hif = s.hif := by
    unfold e
    split
    · exact ecnApply_hif _ _ _
    · rfl
  have hv : v.hif = s.hif := by simp only [v, ecnCount_hif, t, spillStep_hif, he]
  split
  · exact hrefuse _ _ _
  · split
    · rw [enqueueCopies_hif, unmapBuf_oldBell, hv]
    · rw [hrefuse, hv]
    · rw [freeUnit_hif, unmapBuf_oldBell, hv]

/-- R293: a BUF_SEND to a port completes with OK, whatever becomes of its frame. -/
theorem sendEgress_reports (hr : Ready s c .bufSendEgress) : Reports c stOk (sendEgress c s) := by
  unfold sendEgress
  extract_lets ua port p u v
  refine reports_complete_of_oldBell hr ?_ _ _
  unfold v
  split
  · exact admitUnit_oldBell _ _ _ _
  · rw [freeUnit_hif, dropPacket_hif, unmapBuf_oldBell]
    rfl

theorem execBufSendEgress_sends (hr : Ready s c .bufSendEgress) (hargs : sendArgsOk c = true)
    (hhandle : (checkHandle s (argN c 0 4)).2 = stOk) (hlen : argN c 4 2 ≤ 256 * unitCells (unitTag s (argN c 0 4)).pool) :
    Completes (.bufSendEgress c) s fun t => Reports c stOk t := by
  refine ⟨_, exec_bufSendEgress_ready hr, ?_⟩
  rw [doBufSend_sends hargs hhandle hlen, mode_of_bufSendEgress hr.2.1, if_pos rfl]
  exact sendEgress_reports hr

/-- Settles O33: each clause is the rule of its command, whether or not the state meets the invariant. -/
theorem marketComplete : Obligations.MarketComplete := by
  unfold Obligations.MarketComplete
  exact ⟨fun _ _ _ hr hs hempty hslabs hblocks hfits hdrain => execCarveWrite_takes hr hs hempty hslabs hblocks hfits hdrain,
    fun _ _ _ hr hs h => execCarveWrite_refuses hr hs h,
    fun _ _ _ _ hr hs hcells hsum => execReserveWrite_takes hr hs hcells hsum,
    fun _ _ _ _ hr hs h => execReserveWrite_refuses hr hs h,
    fun _ _ _ _ hb hr hs => execBankRetire_retires hb hr hs,
    fun _ _ hen hnone => execAuditSweep_takes hen hnone,
    fun _ _ h => execAuditSweepEnd_ends h,
    fun _ _ hr h => execBufAlloc_badLength hr h,
    fun _ _ _ hr hmin hmax => by
      simpa only [overPartition, bufRequest, bufCells, Nat.not_lt] using execBufAlloc_answers hr hmin hmax,
    fun _ _ _ hr => execBufFree_answers hr,
    fun _ _ hr hargs hhandle hlen => execBufSendIngress_sends hargs hhandle hlen hr,
    fun _ _ _ hr h => ⟨_, exec_bufSendIngress_ready hr, doBufSend_refuses hr h⟩,
    fun _ _ _ hr hargs hhandle hlen => execBufSendEgress_sends hr hargs hhandle hlen,
    fun _ _ _ hr h => ⟨_, exec_bufSendEgress_ready hr, doBufSend_refuses hr h⟩⟩

end Sys2Proof.Proofs
end

section
/-!
Proofs of the statements on escalation: an action list that ends in a cold reset drops what firmware owes the journal.
-/
namespace Sys2Proof.Proofs

open Sys2Proof Sys2Proof.Machine Sys2Proof.Laws

/-- A record asked of firmware that does not run is owed, after those before it. -/
theorem jrnOwe_of_fwStopped {s : State} (e : JrnEntry) (h : fwRuns s = false) :
    jrnOwe s e = { s with owed := s.owed ++ [e] } := by
  simp [jrnOwe, h]

theorem forEach_jrnOwe_owed {s : State} (l : List JrnEntry) (h : fwRuns s = false) :
    (forEach l jrnOwe s).owed = s.owed ++ l := by
  induction l generalizing s with
  | nil => exact (List.append_nil _).symm
  | cons e l ih =>
    change (forEach l jrnOwe (jrnOwe s e)).owed = s.owed ++ e :: l
    rw [jrnOwe_of_fwStopped e h]
    exact (ih (s := { s with owed := s.owed ++ [e] }) h).trans (List.append_assoc s.owed [e] l)

/-- A flush while firmware does not run leaves every owed record owed. -/
theorem jrnFlush_owed_of_fwStopped {s : State} (h : fwRuns s = false) : (jrnFlush s).owed = s.owed :=
  forEach_jrnOwe_owed (s := { s with owed := [] }) s.owed h

/-- `owingPart`, where the list of source 0x010 runs, with that source's ACTIONS written to begin with COLD. -/
def owingColdPart : State := setReg64 owingPart (aEsc 0x010 8) 0x3000

theorem exec_actionsWrite_owingPart : exec (.actionsWrite 0x010 0x3000#64) owingPart = .next owingColdPart := by
  have hvalid : ((List.range 4).all fun k => actionOk (nbits (0x3000#64).toNat (16 * k + 15) (16 * k))) = true := by decide
  have hup : owingPart.top.inReset = false := rfl
  change execActionsWrite 0x010 0x3000#64 owingPart = _
  rw [execActionsWrite, hup, hvalid]
  rfl

theorem inv_owingColdPart : Inv owingColdPart := by
  refine ⟨regsWf_setReg (regsWf_setReg (regsWf_raise rfl)), rfl, ?_⟩
  intro j hj
  cases hj

/-- Its list begins with COLD (action code 3). -/
theorem acting_owingColdPart : Acting owingColdPart 0x010 0 3 0 := ⟨rfl, by decide⟩

theorem fwRuns_owingColdPart : fwRuns owingColdPart = false := by decide

theorem jrnFlush_owingColdPart_owed : (jrnFlush owingColdPart).owed = [.fault (.escalation 0x010)] :=
  (jrnFlush_owed_of_fwStopped fwRuns_owingColdPart).trans owingPart_owed

/-- Refutes O42: its clause on COLD has the frame of a cold reset, which holds only where firmware owes the journal nothing. From
`owingColdPart`, which a SOURCE_FORCE and an ACTIONS_WRITE reach after release, firmware does not run and still owes the record of the list's start,
which the cold reset drops. -/
theorem not_escalationComplete : ¬ Obligations.EscalationComplete := by
  unfold Obligations.EscalationComplete
  rintro ⟨-, -, -, -, -, -, -, -, -, hcold, -⟩
  obtain ⟨t, -, ht⟩ := hcold 0x010 0 0 owingColdPart inv_owingColdPart (by decide) acting_owingColdPart
  exact List.cons_ne_nil _ _ (jrnFlush_owingColdPart_owed.symm.trans (owed_eq_nil_of_coldResetFrom ht))

end Sys2Proof.Proofs
end

section
/-!
Proofs of the statements on the spill path: the loss of a stack frees the units of its reads, and the register that counts the free
units of a pool which the part does not have is RETIRED_CH of a stack.
-/
namespace Sys2Proof.Proofs

open Sys2Proof Sys2Proof.Machine Sys2Proof.Laws

/-- The number of a pool, far above the three of Table MKT-1. -/
def strayPool : Nat := 0x1003F9

/-- Its POOL_FREE would be RETIRED_CH of stack 0. -/
theorem aPoolFree_strayPool : aPoolFree strayPool = aStack 0 4 := rfl

/-- A read of a page of queue 0 on stack 0 that holds unit 0. -/
def readOfUnit0 : Xfer :=
  { stack := 0, tag := 0, kind := .read, queue := 0,
    page := { page := 256, seq := 0, used := 0, ends := [], runsOn := false, degraded := some 0, bad := [], selected := false },
    data := [], units := [[0]], done := none }

/-- Queue 0 spills on stack 0, of which channel 0 is retired, and reads a page; the tag of the unit that the read holds names that pool.
The state meets the invariant, which says nothing of tags; no run from reset leads there. -/
def strayUnit : State :=
  { releasedPart with
    regs := [(0x40, 0x37#32), (aStack 0 4, 1#32)]
    spill := { Spill.reset with q := [(0, { spqIdle with spilling := true })], xfers := [readOfUnit0] }
    market := { Market.reset with units := [(0, { cls := 5, id := 0, pool := strayPool, marks := 0 })] } }

theorem inv_strayUnit : Inv strayUnit := by
  refine ⟨by decide, rfl, ?_⟩
  intro j hj
  cases hj

/-- The state in which the retirement of channel 1, the second one, goes on to lose the stack (R320, R321). -/
def secondRetired : State := raise (setBit (setBit strayUnit (aStack 0 4) 1 true) (aStack 0 0) 30 true) 0x804

theorem exec_chRetire_strayUnit : exec (.chRetire 0 0x80000001#32) strayUnit = .next (loseStack secondRetired 0) := rfl

/-- With the stack its read is dropped, and unit 0 counts as free where RETIRED_CH stands: 0b11 becomes 0b100. -/
theorem retiredCh_loseStack_secondRetired : retiredCh (loseStack secondRetired 0) 0 = 0b100 := by decide

/-- Refutes O34: its clause on CH_RETIRE speaks of every state that meets the invariant, which bounds the pools of unit tags nowhere. From
`strayUnit` the loss of the stack frees a unit of pool 0x1003F9, whose POOL_FREE would be RETIRED_CH: channel 1, which the command
retires, does not read retired after it. -/
theorem not_spillComplete : ¬ Obligations.SpillComplete := by
  unfold Obligations.SpillComplete
  rintro ⟨-, -, -, -, -, -, hretire, -⟩
  obtain ⟨t, hexec, hfirst, -⟩ := hretire 0 0x80000001#32 strayUnit inv_strayUnit (by decide) rfl (by decide)
  obtain rfl : loseStack secondRetired 0 = t := Host.Outcome.next.inj (exec_chRetire_strayUnit.symm.trans hexec)
  obtain ⟨hbit, -⟩ := hfirst (by decide) (by decide)
  rw [retiredCh_loseStack_secondRetired] at hbit
  exact absurd hbit (by decide)

end Sys2Proof.Proofs
end

section
/-!
Proofs of the statements on a step and on time: every command answers a next state, only the commands that set, slew, start or
reset the clock touch it, and an idle step is one clock of R352.
-/
namespace Sys2Proof.Proofs

open Sys2Proof Sys2Proof.Machine Sys2Proof.Laws

/-- Every part of the state but the queue, the count of clocks that have passed and the clock. -/
def untimed : List Part :=
  [.regs, .prog, .freeCtr, .journal, .owed, .lastRaise, .top, .hif, .prg, .ports, .pipes, .tables, .clerk, .market, .spill, .sched,
    .slots, .pulses, .ainum, .telem, .crier, .flt, .scales, .bays, .sec, .activity, .out]

/-- From `s` to `t` no clock has passed and the queue is the same, and a clock in the ranges of R349 has stayed there. -/
structure TimeKept (s t : State) : Prop where
  pending : t.pending = s.pending
  elapsed : t.elapsed = s.elapsed
  clock : ClockInRange s.clock → ClockInRange t.clock

theorem TimeKept.refl (s : State) : TimeKept s s := ⟨rfl, rfl, id⟩

theorem TimeKept.trans {s t u : State} (h : TimeKept s t) (k : TimeKept t u) : TimeKept s u :=
  ⟨k.pending.trans h.pending, k.elapsed.trans h.elapsed, k.clock ∘ h.clock⟩

theorem TimeKept.of_only {s t : State} (h : Only untimed s t) : TimeKept s t where
  pending := h .pending (by decide)
  elapsed := h .elapsed (by decide)
  clock := by
    have hc : t.clock = s.clock := h .clock (by decide)
    rw [hc]
    exact id

/-- What an outcome's next state keeps. -/
def TimeKeptO (s : State) (o : Host.Outcome State Fault Refusal) : Prop :=
  match o with
  | .next t => TimeKept s t
  | .fault _ => True
  | .refused _ => True

theorem TimeKeptO.of_only {s : State} {o : Host.Outcome State Fault Refusal} (h : OnlyO untimed s o) : TimeKeptO s o := by
  cases o
  case next t => exact TimeKept.of_only h
  all_goals trivial

theorem TimeKept.rowState {s : State} {o : Host.Outcome State Fault Refusal} (h : TimeKeptO s o) : TimeKept s (rowState o s) := by
  cases o
  case next t => exact h
  all_goals exact TimeKept.refl s

theorem TimeKept.forEach {α : Type} {f : State → α → State} (hf : ∀ s x, TimeKept s (f s x)) (l : List α) (s : State) :
    TimeKept s (forEach l f s) := by
  induction l generalizing s with
  | nil => exact TimeKept.refl s
  | cons x l ih => exact (hf s x).trans (ih (f s x))

-- The cold reset, and the commands that begin one.

theorem onlyBayAfterCold (old s : State) (c : Nat) : Only [.regs, .bays] s (bayAfterCold old s c) := by
  unfold bayAfterCold
  dsimp only
  split
  · exact Only.setF _ _ _ _ _ (Only.modBay _ _ _ (Only.setF _ _ _ _ _ (Only.refl s) (by decide)) (by decide)) (by decide)
  · split
    · exact Only.setF _ _ _ _ _ (Only.setF _ _ _ _ _ (Only.refl s) (by decide)) (by decide)
    · exact Only.setF _ _ _ _ _ (Only.refl s) (by decide)

theorem clockInRange_reset : ClockInRange State.reset.clock := by
  unfold ClockInRange
  decide

/-- A cold reset stops the clock at zero (R45). -/
theorem timeKept_coldReset (causes : List Nat) (aonLost : Bool) (s : State) : TimeKept s (coldReset causes aonLost s) := by
  unfold coldReset
  dsimp only
  refine TimeKept.trans ?_ (TimeKept.forEach (fun t c => .of_only fun p hp => onlyBayAfterCold s t c p (by revert hp; cases p <;> decide)) _ _)
  refine TimeKept.trans ?_ (TimeKept.forEach (f := fun t i => setBit t aResetCause i true) (fun t i => ⟨rfl, rfl, id⟩) _ _)
  exact ⟨rfl, rfl, fun _ => clockInRange_reset⟩


theorem onlyKeepRetired (old s : State) : Only [.regs] s (keepRetired old s) := by
  unfold keepRetired
  refine Only.forEach _ _ _ (fun t m ht => ?_) (Only.refl s)
  dsimp only
  split
  · exact ht
  · exact Only.setBit _ _ _ _ (Only.setBit _ _ _ _ (Only.setReg ht (by decide)) (by decide)) (by decide)

theorem timeKept_keepRetired (old s : State) : TimeKept s (keepRetired old s) :=
  .of_only fun p hp => onlyKeepRetired old s p (by revert hp; cases p <;> decide)

theorem timeKept_sysRstNLow (lowNs : Nat) (s : State) : TimeKeptO s (execSysRstNLow lowNs s) := by
  have hd : TimeKept s (drawn s) := ⟨rfl, rfl, id⟩
  show TimeKept s _
  split_ifs
  · exact timeKept_coldReset _ _ _
  · exact .refl s
  · exact hd.trans (timeKept_coldReset _ _ _)
  · exact hd

theorem timeKept_supplyBelowResetThreshold (rail : Rail) (mv ns : Nat) (s : State) :
    TimeKeptO s (execSupplyBelowResetThreshold rail mv ns s) := by
  show TimeKept s _
  dsimp only
  have hl : TimeKept s (whenB (rail == .io) (landsIo · mv) s) :=
    .of_only (Only.whenB _ _ _ (fun _ ht => Only.landsIo _ _ ht (by decide)) (Only.refl s))
  split_ifs
  · exact hl
  · exact hl.trans ((timeKept_coldReset _ _ _).trans
      (.of_only (Only.recordWarning _ _ _ (Only.setReg (Only.refl _) (by decide)) (by decide))))
  · exact hl.trans (timeKept_coldReset _ _ _)

theorem timeKept_islResetCold (s : State) : TimeKeptO s (execIslResetCold s) := by
  show TimeKept s _
  split_ifs
  · exact .refl s
  · exact timeKept_coldReset _ _ _

theorem timeKept_beginAction {f : State → Nat → State} (hf : ∀ t x, TimeKept t (f t x)) (s : State) (id c : Nat) :
    TimeKept s (beginAction s id c f) := by
  unfold beginAction
  split
  · split_ifs
    · refine TimeKept.trans (.of_only ?_) (hf _ _)
      exact Only.add64 _ _ _ (by apply Only.jrnFlush (hk := Only.refl s) <;> decide) (by decide)
    · exact .refl s
  · exact .refl s

theorem timeKept_escCold (src : Nat) (s : State) : TimeKeptO s (execEscCold src s) :=
  timeKept_beginAction (fun t _ => timeKept_coldReset [6] false t) s src 3

theorem timeKept_lcsTransitionStart (cut : Option (LcsPoint × List Nat)) (s : State) :
    TimeKeptO s (execLcsTransitionStart cut s) := by
  show TimeKept s _
  split
  next => exact .refl s
  next j _ =>
    have hb : TimeKept s (jrnLog (lcsBurn j none s) (.lifeCycle (lcsCode j.target))) :=
      .of_only (Only.jrnLog _ _ (Only.lcsBurn _ _ _ (Only.refl s) (by decide) (by decide)) (by decide) (by decide) (by decide)
        (by decide) (by decide))
    exact hb.trans ((timeKept_coldReset _ _ _).trans (timeKept_keepRetired _ _))
  next j p causes _ =>
    exact TimeKept.trans (.of_only (Only.lcsBurn j (some p) s (Only.refl s) (by decide) (by decide))) (timeKept_coldReset _ _ _)

-- The commands that set, step or slew the clock, and the one that starts it.

theorem timeKept_clock {s : State} {c : Clock} (h : ClockInRange s.clock → ClockInRange c) : TimeKept s { s with clock := c } :=
  ⟨rfl, rfl, h⟩

theorem timeKept_clocksLocked (failedBanks : List Nat) (s : State) : TimeKeptO s (execClocksLocked failedBanks s) := by
  show TimeKept s _
  dsimp only
  have hb : ∀ u : State, Only untimed u (forEach (failedBanks.filter (· < 256)) (fun s b => setBit (retireBank s b) (aBank b 0) 30 true) u) := by
    refine fun u => Only.forEach _ _ _ (fun t b ht => Only.setBit _ _ _ _ ?_ (by decide)) (Only.refl u)
    apply Only.retireBank (hk := ht) <;> decide
  have hup : ∀ u t : State, Only untimed u t → Only untimed u (setBringup (setBringup t 1) 2) := fun u t ht =>
    Only.setBringup _ _ (Only.setBringup _ _ ht (by decide) (by decide) (by decide) (by decide)) (by decide) (by decide) (by decide)
      (by decide)
  have hrun := timeKept_clock (s := s) (c := { s.clock with running := true }) id
  split_ifs
  · exact .refl s
  · exact hrun.trans (.of_only (hup _ _ (hb _)))
  · exact hrun.trans (.of_only (hup _ _ (Only.landsFlash _ (hb _) (by decide))))

theorem onlyUntimed_complete {s t : State} (c : HostCmd) (status : Nat) (result : List Byte) (h : Only untimed s t) :
    Only untimed s (complete t c status result) :=
  Only.complete _ _ _ _ h (by decide) (by decide) (by decide) (by decide) (by decide)

theorem timeKept_complete (s : State) (c : HostCmd) (status : Nat) (result : List Byte) : TimeKept s (complete s c status result) :=
  .of_only (onlyUntimed_complete _ _ _ (Only.refl s))

theorem onlyUntimed_fireDue {f : State → State} (hf : ∀ s t, Only untimed s t → Only untimed s (f t)) (s : State) :
    Only untimed s (fireDue f s) :=
  Only.fireDue f s (hf s) (Only.refl s) (by decide) (by decide) (by decide) (by decide) (by decide) (by decide) (by decide)
    (by decide) (by decide) (by decide)

theorem onlyUntimed_resumePulses (s t : State) (h : Only untimed s t) : Only untimed s (resumePulses t) :=
  Only.resumePulses _ h (by decide)

theorem timeKept_setReg64 (s : State) (a v : Nat) : TimeKept s (setReg64 s a v) := ⟨rfl, rfl, id⟩

theorem timeKept_raise (s : State) (id : Nat) : TimeKept s (raise s id) :=
  .of_only (Only.raise _ _ (Only.refl s) (by decide) (by decide) (by decide) (by decide))

theorem timeKept_endSlew (s : State) : TimeKept s (endSlew s) := ⟨rfl, rfl, id⟩

/-- A set or a step leaves the clock at the reading it was given, or as it was carried there. -/
theorem timeKept_setClock (c : HostCmd) (k : Clock) (s : State) (hsec : k.sec < 2 ^ 48) (hns : k.ns < nsPerSec) (hfrac : k.frac < 2 ^ 16) :
    TimeKept s (setClock c k s) := by
  have hset : ∀ t : State, TimeKept t { t with clock := { t.clock with sec := k.sec, ns := k.ns, frac := k.frac } } :=
    fun t => timeKept_clock fun hc => ⟨hsec, hns, hfrac, hc.2.2.2⟩
  have hrefill : ∀ t : State, TimeKept t (resumePulses (refillFrom t)) :=
    fun t => .of_only (onlyUntimed_resumePulses _ _ (Only.refillFrom _ (Only.refl t) (by decide)))
  unfold setClock
  refine TimeKept.trans ?_ (timeKept_complete _ _ _ _)
  refine TimeKept.trans ?_ (.of_only (onlyUntimed_fireDue onlyUntimed_resumePulses _))
  refine TimeKept.trans ?_ (hrefill _)
  refine TimeKept.trans ?_ (hset _)
  refine TimeKept.trans ?_ (timeKept_endSlew _)
  exact .of_only (onlyUntimed_fireDue (fun _ _ h => h) s)

theorem clkAdd_sec_lt (c : Clock) (d : Int) : (clkAdd c d).sec < 2 ^ 48 := Nat.mod_lt _ (by decide)

theorem clkAdd_ns_lt (c : Clock) (d : Int) : (clkAdd c d).ns < nsPerSec := Nat.mod_lt _ (by decide)

theorem clkAdd_frac_lt (c : Clock) (d : Int) : (clkAdd c d).frac < 2 ^ 16 := Nat.mod_lt _ (by decide)

theorem timeKept_doTimeSet (c : HostCmd) (s : State) : TimeKept s (doTimeSet c s) := by
  unfold doTimeSet
  split
  · dsimp only
    split_ifs with hns
    · exact timeKept_complete _ _ _ _
    · exact timeKept_setClock _ _ _ (leAt_lt _ 8 6) (by unfold nsPerSec; dsimp only; omega) (leAt_lt _ 20 2)
  · split_ifs
    · exact timeKept_complete _ _ _ _
    · exact timeKept_setClock _ _ _ (clkAdd_sec_lt _ _) (clkAdd_ns_lt _ _) (clkAdd_frac_lt _ _)
  · dsimp only
    split_ifs
    · exact timeKept_complete _ _ _ _
    · refine TimeKept.trans (.trans (timeKept_clock ?_) (timeKept_setReg64 _ _ _)) (timeKept_complete _ _ _ _)
      exact id
  · exact timeKept_complete _ _ _ _

theorem timeKept_runCmd {body : State → State} (hb : ∀ t, TimeKept t (body t)) (s : State) (c : HostCmd) (row : CmdRow) :
    TimeKept s (runCmd s c row body) := by
  unfold runCmd
  split_ifs
  · exact .refl s
  · exact .of_only (Only.setPhase _ _ _ (Only.refl s) (by decide))
  · exact hb s

theorem timeKept_slewComplete (s : State) : TimeKeptO s (execSlewComplete s) := by
  show TimeKept s _
  split_ifs
  · refine TimeKept.trans (.trans (timeKept_clock ?_) (timeKept_setReg64 _ _ _)) (timeKept_raise _ _)
    exact id
  · exact .refl s

-- The bus: a write that reaches a register's own row, and what a held access does when its island answers.

theorem timeKept_row {s : State} {o : Host.Outcome State Fault Refusal} (h : OnlyO untimed s o) : TimeKept s (rowState o s) :=
  .of_only (Only.rowState _ _ (Only.refl s) h)

theorem timeKept_islResetWrite (v : Word) (s : State) : TimeKept s (islResetWrite v s) := by
  unfold islResetWrite
  split
  · exact timeKept_row (by apply Only.execIslResetIsland (hk := Only.refl s) <;> decide)
  · exact timeKept_row (by apply Only.execIslResetControl (hk := Only.refl s) <;> decide)
  · exact .rowState (timeKept_islResetCold s)
  · exact .refl s

theorem timeKept_stallRegWrite {n o : Nat} {v : Word} {s t : State} (h : stallRegWrite n o v s = some t) : TimeKept s t := by
  unfold stallRegWrite at h
  split at h
  · cases h
    exact .of_only (by apply Only.stallCtrl (hk := Only.refl s) <;> decide)
  · split at h <;> cases h
    · exact timeKept_row (by apply Only.execStateRead (hk := Only.refl s) <;> decide)
    · exact timeKept_row (by apply Only.execStateWrite (hk := Only.refl s) <;> decide)
  · split at h <;> cases h
    · exact timeKept_row (by apply Only.execMeterRead (hk := Only.refl s) <;> decide)
    · exact timeKept_row (by apply Only.execMeterWrite (hk := Only.refl s) <;> decide)
  · cases h

theorem timeKept_ownRow {a : Nat} {v : Word} {s t : State} (h : ownRow a v s = some t) : TimeKept s t := by
  unfold ownRow at h
  split at h
  · cases h
    exact timeKept_islResetWrite v s
  · obtain ⟨x, _, rfl⟩ := Option.map_eq_some_iff.mp h
    exact .of_only (by apply Only.ringCfg (hk := Only.refl s) <;> decide)
  · split_ifs at h <;> cases h
    · exact timeKept_row (by apply Only.execSourceForce (hk := Only.refl s) <;> decide)
    · exact timeKept_row (by apply Only.execSrcCfgWrite (hk := Only.refl s) <;> decide)
    · exact timeKept_row (by apply Only.execVecEoi (hk := Only.refl s) <;> decide)
  · cases h
    exact timeKept_row (by apply Only.execEscAck (hk := Only.refl s) <;> decide)
  · cases h
    exact timeKept_row (by apply Only.execAbsWrite (hk := Only.refl s) <;> decide)
  · split_ifs at h <;> cases h
    · exact timeKept_row (by apply Only.execRefSelWrite (hk := Only.refl s) <;> decide)
    · exact timeKept_row (by apply Only.execFreqWrite (hk := Only.refl s) <;> decide)
    · exact timeKept_row (by apply Only.execPulseStop (hk := Only.refl s) <;> decide)
    · exact timeKept_row (by apply Only.execPulseArm (hk := Only.refl s) <;> decide)
  · split_ifs at h <;> cases h
    · exact timeKept_row (by apply Only.execOctCfgWrite (hk := Only.refl s) <;> decide)
    · exact timeKept_row (by apply Only.execPortCfgWrite (hk := Only.refl s) <;> decide)
  · split_ifs at h
    exact timeKept_stallRegWrite h
  · split_ifs at h <;> cases h
    · exact timeKept_row (by apply Only.execCarveWrite (hk := Only.refl s) <;> decide)
    · exact timeKept_row (by apply Only.execReserveWrite (hk := Only.refl s) <;> decide)
    · exact timeKept_row (by apply Only.execReserveWrite (hk := Only.refl s) <;> decide)
    · exact timeKept_row (by apply Only.execBankRetire (hk := Only.refl s) <;> decide)
  · split_ifs at h
    · cases h
      exact timeKept_row (by apply Only.execChRetire (hk := Only.refl s) <;> decide)
    · split at h <;> cases h
      · exact timeKept_row (by apply Only.execDiagCellRead (hk := Only.refl s) <;> decide)
      · exact timeKept_row (by apply Only.execDiagCellWrite (hk := Only.refl s) <;> decide)
  · split_ifs at h
    cases h
    exact timeKept_row (by apply Only.execPortQWrite (hk := Only.refl s) <;> decide)
  · split_ifs at h
    · split at h <;> cases h
      · exact timeKept_row (by apply Only.execRawRowRead (hk := Only.refl s) <;> decide)
      · exact timeKept_row (by apply Only.execRawRowWrite (hk := Only.refl s) <;> decide)
    · cases h
      exact timeKept_row (by apply Only.execDescWrite (hk := Only.refl s) <;> decide)
    · cases h
      exact timeKept_row (by apply Only.execHashCfgWrite (hk := Only.refl s) <;> decide)
  · split_ifs at h
    cases h
    exact timeKept_row (by apply Only.execPmcCountWrite (hk := Only.refl s) <;> decide)
  · cases h

theorem timeKept_busWrite (s : State) (rq : Requester) (a : Nat) (v : Word) : TimeKept s (busWrite s rq a v) := by
  unfold busWrite
  split_ifs
  · exact .of_only (by apply Only.hifErr (hk := Only.refl s) <;> decide)
  · exact .refl s
  · exact .of_only (by apply Only.holdLow (hk := Only.refl s) <;> decide)
  · exact .of_only (by apply Only.writeHigh (hk := Only.refl s) <;> decide)
  · split
    next t ht => exact timeKept_ownRow ht
    next =>
      refine .of_only (Only.holdWrite _ _ _ _ _ (Only.refl s) (fun t ht => ?_) (by decide))
      apply Only.plainWrite (hk := ht) <;> decide

theorem timeKept_applyHeld (s : State) (h : Held) : TimeKept s (applyHeld s h) := by
  unfold applyHeld
  split
  · exact timeKept_busWrite _ _ _ _
  · exact .of_only (by apply Only.wideWrite (hk := Only.refl s) <;> decide)
  · exact .of_only (by apply Only.readEffect (hk := Only.refl s) <;> decide)

theorem timeKept_drainHeld (island : Nat) (s : State) : TimeKept s (drainHeld island s) :=
  TimeKept.trans (t := setTop s fun t => { t with held := t.held.filter fun x => !(islandAt x.addr == island) }) ⟨rfl, rfl, id⟩
    (TimeKept.forEach timeKept_applyHeld _ _)

theorem timeKept_hifErr (s : State) (bit : Nat) : TimeKept s (hifErr s bit) :=
  .of_only (by apply Only.hifErr (hk := Only.refl s) <;> decide)

theorem timeKept_registerWrite (addr : Nat) (value : Word) (s : State) : TimeKeptO s (execRegisterWrite addr value s) := by
  show TimeKept s _
  split_ifs
  · exact .refl s
  · exact timeKept_busWrite _ _ _ _

theorem timeKept_bar0BadAccess (write : Bool) (addr size : Nat) (dwords : List (Word × Bool)) (s : State) :
    TimeKeptO s (execBar0BadAccess write addr size dwords s) := by
  show TimeKept s _
  have hw : ∀ l : List ((Word × Bool) × Nat), TimeKept s
      (forEach l (fun s x => if x.1.2 then busWrite s .host (addr / 4 * 4 + 4 * x.2) x.1.1 else s) s) := by
    refine fun l => TimeKept.forEach (fun t x => ?_) l s
    split_ifs
    · exact timeKept_busWrite _ _ _ _
    · exact .refl t
  dsimp only
  split_ifs
  · exact .refl s
  · exact .of_only (by apply Only.readEffect (hk := Only.refl s) <;> decide)
  · exact TimeKept.trans (t := emit s .completerAbort) ⟨rfl, rfl, id⟩ (timeKept_hifErr _ _)
  · exact timeKept_hifErr _ _
  · exact hw _
  · exact (hw _).trans (timeKept_hifErr _ _)

theorem timeKept_islandResetComplete (island : Nat) (s : State) : TimeKeptO s (execIslandResetComplete island s) := by
  show TimeKept s _
  split_ifs
  · exact .refl s
  · exact TimeKept.trans (.of_only (by apply Only.leaveIsland (hk := Only.refl s) <;> decide)) (timeKept_drainHeld _ _)

theorem timeKept_clerkOpInForce (s : State) : TimeKeptO s (execClerkOpInForce s) :=
  TimeKept.trans (.of_only (by apply Only.clerkInForce (hk := Only.refl s) <;> decide)) (timeKept_drainHeld _ _)

/-- What every command does to the time: nothing, but for those that set, step, slew, start or reset the clock. -/
theorem timeKept_exec (i : Instr) (s : State) : TimeKeptO s (exec i s) :=
  match i with
  | .sysRstNLow _ => timeKept_sysRstNLow _ s
  | .supplyBelowResetThreshold _ _ _ => timeKept_supplyBelowResetThreshold _ _ _ s
  | .vddCoreWarning _ _ => .of_only (by apply Only.execVddCoreWarning (hk := Only.refl s) <;> decide)
  | .vddCoreWarningEnd _ _ => .of_only (by apply Only.execVddCoreWarningEnd (hk := Only.refl s) <;> decide)
  | .coldResetRelease _ _ => .of_only (by apply Only.execColdResetRelease (hk := Only.refl s) <;> decide)
  | .fusesLoaded => .of_only (by apply Only.execFusesLoaded (hk := Only.refl s) <;> decide)
  | .clocksLocked _ => timeKept_clocksLocked _ s
  | .tableWipeComplete => .of_only (by apply Only.execTableWipeComplete (hk := Only.refl s) <;> decide)
  | .hbmWipeComplete _ _ => .of_only (by apply Only.execHbmWipeComplete (hk := Only.refl s) <;> decide)
  | .firmwareStart _ => .of_only (by apply Only.execFirmwareStart (hk := Only.refl s) <;> decide)
  | .jtagCoreRelease => .of_only (by apply Only.execJtagCoreRelease (hk := Only.refl s) <;> decide)
  | .islResetIsland _ => .of_only (by apply Only.execIslResetIsland (hk := Only.refl s) <;> decide)
  | .islResetControl => .of_only (by apply Only.execIslResetControl (hk := Only.refl s) <;> decide)
  | .islResetCold => timeKept_islResetCold s
  | .islandResetComplete _ => timeKept_islandResetComplete _ s
  | .coreWatchdogExpiry _ => .of_only (by apply Only.execCoreWatchdogExpiry (hk := Only.refl s) <;> decide)
  | .controlReset => .of_only (by apply Only.execControlReset (hk := Only.refl s) <;> decide)
  | .controlResetComplete _ => .of_only (by apply Only.execControlResetComplete (hk := Only.refl s) <;> decide)
  | .perstNAssert c => .of_only (by apply Only.execPerstNAssert c (hk := Only.refl s) <;> decide)
  | .perstNRelease => .of_only (by apply Only.execPerstNRelease (hk := Only.refl s) <;> decide)
  | .hostIslandRelease => .of_only (by apply Only.execHostIslandRelease (hk := Only.refl s) <;> decide)
  | .linkTrained _ _ _ => .of_only (by apply Only.execLinkTrained (hk := Only.refl s) <;> decide)
  | .lcsChange => .of_only (by apply Only.execLcsChange (hk := Only.refl s) <;> decide)
  | .lcsTransitionStart _ => timeKept_lcsTransitionStart _ s
  | .fwUpdate _ _ => .of_only (by apply Only.execFwUpdate (hk := Only.refl s) <;> decide)
  | .registerWrite _ _ => timeKept_registerWrite _ _ s
  | .rcCounterRead _ => .of_only (by apply Only.execRcCounterRead (hk := Only.refl s) <;> decide)
  | .reg64LowWordRead _ _ => .of_only (by apply Only.execReg64LowWordRead (hk := Only.refl s) <;> decide)
  | .reg64LowWordWrite _ _ _ => .of_only (by apply Only.execReg64LowWordWrite (hk := Only.refl s) <;> decide)
  | .reg64HighWordWrite _ _ _ => .of_only (by apply Only.execReg64HighWordWrite (hk := Only.refl s) <;> decide)
  | .bar0UnmappedAccess _ _ => .of_only (by apply Only.execBar0UnmappedAccess (hk := Only.refl s) <;> decide)
  | .bar0BadAccess _ _ _ _ => timeKept_bar0BadAccess _ _ _ _ s
  | .crDoorbell _ _ => .of_only (by apply Only.execCrDoorbell (hk := Only.refl s) <;> decide)
  | .cqDoorbell _ _ => .of_only (by apply Only.execCqDoorbell (hk := Only.refl s) <;> decide)
  | .rxDoorbell _ _ => .of_only (by apply Only.execRxDoorbell (hk := Only.refl s) <;> decide)
  | .nqDoorbell _ _ => .of_only (by apply Only.execNqDoorbell (hk := Only.refl s) <;> decide)
  | .ringEnable _ _ _ => .of_only (by apply Only.execRingEnable (hk := Only.refl s) <;> decide)
  | .ringDisable _ _ _ => .of_only (by apply Only.execRingDisable (hk := Only.refl s) <;> decide)
  | .ringDmaError _ _ => .of_only (by apply Only.execRingDmaError (hk := Only.refl s) <;> decide)
  | .commandFetch _ _ _ => .of_only (by apply Only.execCommandFetch (hk := Only.refl s) <;> decide)
  | .completionWrite _ => .of_only (by apply Only.execCompletionWrite (hk := Only.refl s) <;> decide)
  | .notificationWrite _ => .of_only (by apply Only.execNotificationWrite (hk := Only.refl s) <;> decide)
  | .nop _ => .of_only (by apply Only.execNop (hk := Only.refl s) <;> decide)
  | .fence _ => .of_only (by apply Only.execFence (hk := Only.refl s) <;> decide)
  | .fenceComplete _ _ => .of_only (by apply Only.execFenceComplete (hk := Only.refl s) <;> decide)
  | .rxFrameDma _ _ _ => .of_only (by apply Only.execRxFrameDma (hk := Only.refl s) <;> decide)
  | .apertureWrite _ _ => .of_only (by apply Only.execApertureWrite (hk := Only.refl s) <;> decide)
  | .apertureRead _ _ => .of_only (by apply Only.execApertureRead (hk := Only.refl s) <;> decide)
  | .mailboxGo => .of_only (by apply Only.execMailboxGo (hk := Only.refl s) <;> decide)
  | .mailboxResponse => .of_only (by apply Only.execMailboxResponse (hk := Only.refl s) <;> decide)
  | .orphanLogClear => .of_only (by apply Only.execOrphanLogClear (hk := Only.refl s) <;> decide)
  | .jrnRead _ _ => .of_only (by apply Only.execJrnRead (hk := Only.refl s) <;> decide)
  | .jrnWrite _ _ _ => .of_only (by apply Only.execJrnWrite (hk := Only.refl s) <;> decide)
  | .stageWrite _ => .of_only (by apply Only.execStageWrite (hk := Only.refl s) <;> decide)
  | .commit _ => .of_only (by apply Only.execCommit (hk := Only.refl s) <;> decide)
  | .commitAt _ => .of_only (by apply Only.execCommitAt (hk := Only.refl s) <;> decide)
  | .commitToken _ => .of_only (by apply Only.execCommitToken (hk := Only.refl s) <;> decide)
  | .commitCancel _ => .of_only (by apply Only.execCommitCancel (hk := Only.refl s) <;> decide)
  | .commitInstant _ => .of_only (by apply Only.execCommitInstant (hk := Only.refl s) <;> decide)
  | .drainEnd _ => .of_only (by apply Only.execDrainEnd (hk := Only.refl s) <;> decide)
  | .drainForce _ => .of_only (by apply Only.execDrainForce (hk := Only.refl s) <;> decide)
  | .retireComplete _ => .of_only (by apply Only.execRetireComplete (hk := Only.refl s) <;> decide)
  | .commitRecordWrite _ => .of_only (by apply Only.execCommitRecordWrite (hk := Only.refl s) <;> decide)
  | .patchLoad _ _ => .of_only (by apply Only.execPatchLoad (hk := Only.refl s) <;> decide)
  | .patchSwitchPoint => .of_only (by apply Only.execPatchSwitchPoint (hk := Only.refl s) <;> decide)
  | .octCfgWrite _ _ _ => .of_only (by apply Only.execOctCfgWrite (hk := Only.refl s) <;> decide)
  | .portCfgWrite _ _ => .of_only (by apply Only.execPortCfgWrite (hk := Only.refl s) <;> decide)
  | .portEnable _ => .of_only (by apply Only.execPortEnable (hk := Only.refl s) <;> decide)
  | .portDisable _ => .of_only (by apply Only.execPortDisable (hk := Only.refl s) <;> decide)
  | .portAligned _ _ => .of_only (by apply Only.execPortAligned (hk := Only.refl s) <;> decide)
  | .lossOfSignal _ _ => .of_only (by apply Only.execLossOfSignal (hk := Only.refl s) <;> decide)
  | .faultReceived _ _ => .of_only (by apply Only.execFaultReceived (hk := Only.refl s) <;> decide)
  | .recoveryEnd _ => .of_only (by apply Only.execRecoveryEnd (hk := Only.refl s) <;> decide)
  | .ladderStepPropose _ => .of_only (by apply Only.execLadderStepPropose (hk := Only.refl s) <;> decide)
  | .stepTransmitterSwitch _ => .of_only (by apply Only.execStepTransmitterSwitch (hk := Only.refl s) <;> decide)
  | .ladderStepSuccess _ _ => .of_only (by apply Only.execLadderStepSuccess (hk := Only.refl s) <;> decide)
  | .ladderStepFail _ => .of_only (by apply Only.execLadderStepFail (hk := Only.refl s) <;> decide)
  | .stepAckTimeout _ => .of_only (by apply Only.execStepAckTimeout (hk := Only.refl s) <;> decide)
  | .ladderRetry _ => .of_only (by apply Only.execLadderRetry (hk := Only.refl s) <;> decide)
  | .ladderNoPeer _ => .of_only (by apply Only.execLadderNoPeer (hk := Only.refl s) <;> decide)
  | .eqLoopStep _ _ => .of_only (by apply Only.execEqLoopStep (hk := Only.refl s) <;> decide)
  | .eqPolicyConflict _ _ => .of_only (by apply Only.execEqPolicyConflict (hk := Only.refl s) <;> decide)
  | .fecDegrade _ _ _ => .of_only (by apply Only.execFecDegrade (hk := Only.refl s) <;> decide)
  | .frameArrival _ _ _ => .of_only (by apply Only.execFrameArrival (hk := Only.refl s) <;> decide)
  | .frameTailArrival _ _ _ => .of_only (by apply Only.execFrameTailArrival (hk := Only.refl s) <;> decide)
  | .parseEntry _ => .of_only (by apply Only.execParseEntry (hk := Only.refl s) <;> decide)
  | .parseExit _ => .of_only (by apply Only.execParseExit (hk := Only.refl s) <;> decide)
  | .parCaptureArm _ => .of_only (by apply Only.execParCaptureArm (hk := Only.refl s) <;> decide)
  | .parseWordRepair _ _ _ _ _ => .of_only (by apply Only.execParseWordRepair (hk := Only.refl s) <;> decide)
  | .recircEntry _ => .of_only (by apply Only.execRecircEntry (hk := Only.refl s) <;> decide)
  | .stallAdmit _ => .of_only (by apply Only.execStallAdmit (hk := Only.refl s) <;> decide)
  | .stallWordIssue _ _ _ _ _ => .of_only (by apply Only.execStallWordIssue (hk := Only.refl s) <;> decide)
  | .waitTimeout _ _ => .of_only (by apply Only.execWaitTimeout (hk := Only.refl s) <;> decide)
  | .lookupResult _ _ _ _ => .of_only (by apply Only.execLookupResult (hk := Only.refl s) <;> decide)
  | .statefulLockGrant _ _ _ => .of_only (by apply Only.execStatefulLockGrant (hk := Only.refl s) <;> decide)
  | .statefulReadData _ _ _ => .of_only (by apply Only.execStatefulReadData (hk := Only.refl s) <;> decide)
  | .meterColour _ _ => .of_only (by apply Only.execMeterColour (hk := Only.refl s) <;> decide)
  | .parityReloadDone _ => .of_only (by apply Only.execParityReloadDone (hk := Only.refl s) <;> decide)
  | .stallDepart _ => .of_only (by apply Only.execStallDepart (hk := Only.refl s) <;> decide)
  | .ingressTail _ => .of_only (by apply Only.execIngressTail (hk := Only.refl s) <;> decide)
  | .dequeueDecision _ _ => .of_only (by apply Only.execDequeueDecision (hk := Only.refl s) <;> decide)
  | .egressTail _ => .of_only (by apply Only.execEgressTail (hk := Only.refl s) <;> decide)
  | .editor _ => .of_only (by apply Only.execEditor (hk := Only.refl s) <;> decide)
  | .copyDeparture _ _ _ _ => .of_only (by apply Only.execCopyDeparture (hk := Only.refl s) <;> decide)
  | .pfcFrameReceived _ _ _ _ => .of_only (by apply Only.execPfcFrameReceived (hk := Only.refl s) <;> decide)
  | .pfcPauseExpiry _ _ => .of_only (by apply Only.execPfcPauseExpiry (hk := Only.refl s) <;> decide)
  | .pfcFrameSend _ => .of_only (by apply Only.execPfcFrameSend (hk := Only.refl s) <;> decide)
  | .pfcRefresh _ _ => .of_only (by apply Only.execPfcRefresh (hk := Only.refl s) <;> decide)
  | .pfcWatchdogTrip _ _ => .of_only (by apply Only.execPfcWatchdogTrip (hk := Only.refl s) <;> decide)
  | .pfcWatchdogHoldEnd _ _ => .of_only (by apply Only.execPfcWatchdogHoldEnd (hk := Only.refl s) <;> decide)
  | .refillBoundary => .of_only (by apply Only.execRefillBoundary (hk := Only.refl s) <;> decide)
  | .portQWrite _ _ => .of_only (by apply Only.execPortQWrite (hk := Only.refl s) <;> decide)
  | .carveWrite _ => .of_only (by apply Only.execCarveWrite (hk := Only.refl s) <;> decide)
  | .reserveWrite _ _ => .of_only (by apply Only.execReserveWrite (hk := Only.refl s) <;> decide)
  | .bankRetire _ _ => .of_only (by apply Only.execBankRetire (hk := Only.refl s) <;> decide)
  | .auditSweep => .of_only (by apply Only.execAuditSweep (hk := Only.refl s) <;> decide)
  | .auditSweepEnd => .of_only (by apply Only.execAuditSweepEnd (hk := Only.refl s) <;> decide)
  | .bufAlloc _ => .of_only (by apply Only.execBufAlloc (hk := Only.refl s) <;> decide)
  | .bufFree _ => .of_only (by apply Only.execBufFree (hk := Only.refl s) <;> decide)
  | .bufSendIngress _ => .of_only (by apply Only.execBufSendIngress (hk := Only.refl s) <;> decide)
  | .bufSendEgress _ => .of_only (by apply Only.execBufSendEgress (hk := Only.refl s) <;> decide)
  | .pageFlushTimer _ => .of_only (by apply Only.execPageFlushTimer (hk := Only.refl s) <;> decide)
  | .pageWriteStart _ => .of_only (by apply Only.execPageWriteStart (hk := Only.refl s) <;> decide)
  | .pageWriteCommit _ _ _ => .of_only (by apply Only.execPageWriteCommit (hk := Only.refl s) <;> decide)
  | .pageReadStart _ => .of_only (by apply Only.execPageReadStart (hk := Only.refl s) <;> decide)
  | .pageReadCommit _ _ _ _ => .of_only (by apply Only.execPageReadCommit (hk := Only.refl s) <;> decide)
  | .chRetire _ _ => .of_only (by apply Only.execChRetire (hk := Only.refl s) <;> decide)
  | .stackLost _ => .of_only (by apply Only.execStackLost (hk := Only.refl s) <;> decide)
  | .hbmNoResponse _ _ => .of_only (by apply Only.execHbmNoResponse (hk := Only.refl s) <;> decide)
  | .hbmRefresh _ _ _ => .of_only (by apply Only.execHbmRefresh (hk := Only.refl s) <;> decide)
  | .patrolScrub _ _ _ _ _ => .of_only (by apply Only.execPatrolScrub (hk := Only.refl s) <;> decide)
  | .diagCellRead _ _ => .of_only (by apply Only.execDiagCellRead (hk := Only.refl s) <;> decide)
  | .diagCellWrite _ _ => .of_only (by apply Only.execDiagCellWrite (hk := Only.refl s) <;> decide)
  | .tblSearch _ => .of_only (by apply Only.execTblSearch (hk := Only.refl s) <;> decide)
  | .tblNext _ => .of_only (by apply Only.execTblNext (hk := Only.refl s) <;> decide)
  | .tblInsert _ => .of_only (by apply Only.execTblInsert (hk := Only.refl s) <;> decide)
  | .tblUpdate _ => .of_only (by apply Only.execTblUpdate (hk := Only.refl s) <;> decide)
  | .tblDelete _ => .of_only (by apply Only.execTblDelete (hk := Only.refl s) <;> decide)
  | .tblFlushPort _ => .of_only (by apply Only.execTblFlushPort (hk := Only.refl s) <;> decide)
  | .tblRead _ => .of_only (by apply Only.execTblRead (hk := Only.refl s) <;> decide)
  | .descWrite _ _ _ => .of_only (by apply Only.execDescWrite (hk := Only.refl s) <;> decide)
  | .hashCfgWrite _ _ => .of_only (by apply Only.execHashCfgWrite (hk := Only.refl s) <;> decide)
  | .clerkIssue => .of_only (by apply Only.execClerkIssue (hk := Only.refl s) <;> decide)
  | .clerkOpInForce => timeKept_clerkOpInForce s
  | .learnInstall => .of_only (by apply Only.execLearnInstall (hk := Only.refl s) <;> decide)
  | .flapHoldEnd _ _ => .of_only (by apply Only.execFlapHoldEnd (hk := Only.refl s) <;> decide)
  | .ageVisit _ _ => .of_only (by apply Only.execAgeVisit (hk := Only.refl s) <;> decide)
  | .ageRemove _ _ => .of_only (by apply Only.execAgeRemove (hk := Only.refl s) <;> decide)
  | .ageRestore _ _ => .of_only (by apply Only.execAgeRestore (hk := Only.refl s) <;> decide)
  | .replicaRepair _ _ _ _ => .of_only (by apply Only.execReplicaRepair (hk := Only.refl s) <;> decide)
  | .tableScrub _ _ _ _ => .of_only (by apply Only.execTableScrub (hk := Only.refl s) <;> decide)
  | .rawRowRead _ _ => .of_only (by apply Only.execRawRowRead (hk := Only.refl s) <;> decide)
  | .rawRowWrite _ _ => .of_only (by apply Only.execRawRowWrite (hk := Only.refl s) <;> decide)
  | .stateRead _ _ => .of_only (by apply Only.execStateRead (hk := Only.refl s) <;> decide)
  | .stateWrite _ _ => .of_only (by apply Only.execStateWrite (hk := Only.refl s) <;> decide)
  | .meterRead _ _ => .of_only (by apply Only.execMeterRead (hk := Only.refl s) <;> decide)
  | .meterWrite _ _ => .of_only (by apply Only.execMeterWrite (hk := Only.refl s) <;> decide)
  | .pipeQuiesce _ => .of_only (by apply Only.execPipeQuiesce (hk := Only.refl s) <;> decide)
  | .quiesced _ => .of_only (by apply Only.execQuiesced (hk := Only.refl s) <;> decide)
  | .stallHalt _ _ => .of_only (by apply Only.execStallHalt (hk := Only.refl s) <;> decide)
  | .stallStep _ _ _ _ => .of_only (by apply Only.execStallStep (hk := Only.refl s) <;> decide)
  | .timeSetSet _ => timeKept_runCmd (timeKept_doTimeSet _) s _ _
  | .timeSetStep _ => timeKept_runCmd (timeKept_doTimeSet _) s _ _
  | .timeSetSlew _ => timeKept_runCmd (timeKept_doTimeSet _) s _ _
  | .slewComplete => timeKept_slewComplete s
  | .scheduledEventFire => .of_only (by apply Only.execScheduledEventFire (hk := Only.refl s) <;> decide)
  | .nowNsRead _ => .of_only (by apply Only.execNowNsRead (hk := Only.refl s) <;> decide)
  | .freqWrite _ => .of_only (by apply Only.execFreqWrite (hk := Only.refl s) <;> decide)
  | .refSelWrite _ => .of_only (by apply Only.execRefSelWrite (hk := Only.refl s) <;> decide)
  | .referenceLost => .of_only (by apply Only.execReferenceLost (hk := Only.refl s) <;> decide)
  | .timeLock => .of_only (by apply Only.execTimeLock (hk := Only.refl s) <;> decide)
  | .captureEdge _ _ => .of_only (by apply Only.execCaptureEdge (hk := Only.refl s) <;> decide)
  | .pulseArm _ _ => .of_only (by apply Only.execPulseArm (hk := Only.refl s) <;> decide)
  | .pulseStop _ _ => .of_only (by apply Only.execPulseStop (hk := Only.refl s) <;> decide)
  | .pulseEdge _ => .of_only (by apply Only.execPulseEdge (hk := Only.refl s) <;> decide)
  | .slotStageWrite _ => .of_only (by apply Only.execSlotStageWrite (hk := Only.refl s) <;> decide)
  | .slotStageArm _ => .of_only (by apply Only.execSlotStageArm (hk := Only.refl s) <;> decide)
  | .slotStageCancel _ => .of_only (by apply Only.execSlotStageCancel (hk := Only.refl s) <;> decide)
  | .slotStageRead _ => .of_only (by apply Only.execSlotStageRead (hk := Only.refl s) <;> decide)
  | .slotSwitch _ => .of_only (by apply Only.execSlotSwitch (hk := Only.refl s) <;> decide)
  | .slotEntryBoundary _ => .of_only (by apply Only.execSlotEntryBoundary (hk := Only.refl s) <;> decide)
  | .protectedSpanStart _ => .of_only (by apply Only.execProtectedSpanStart (hk := Only.refl s) <;> decide)
  | .protectedSpanEnd _ => .of_only (by apply Only.execProtectedSpanEnd (hk := Only.refl s) <;> decide)
  | .ainumSend _ _ _ => .of_only (by apply Only.execAinumSend (hk := Only.refl s) <;> decide)
  | .helloTimer _ => .of_only (by apply Only.execHelloTimer (hk := Only.refl s) <;> decide)
  | .hello _ _ => .of_only (by apply Only.execHello (hk := Only.refl s) <;> decide)
  | .confirm _ _ => .of_only (by apply Only.execConfirm (hk := Only.refl s) <;> decide)
  | .stepPropose _ _ => .of_only (by apply Only.execStepPropose (hk := Only.refl s) <;> decide)
  | .stepAck _ _ => .of_only (by apply Only.execStepAck (hk := Only.refl s) <;> decide)
  | .timeSyncTimer _ => .of_only (by apply Only.execTimeSyncTimer (hk := Only.refl s) <;> decide)
  | .timeSync _ _ _ => .of_only (by apply Only.execTimeSync (hk := Only.refl s) <;> decide)
  | .timeReply _ _ _ => .of_only (by apply Only.execTimeReply (hk := Only.refl s) <;> decide)
  | .token _ _ => .of_only (by apply Only.execToken (hk := Only.refl s) <;> decide)
  | .capNotice _ _ => .of_only (by apply Only.execCapNotice (hk := Only.refl s) <;> decide)
  | .peerTimeout _ => .of_only (by apply Only.execPeerTimeout (hk := Only.refl s) <;> decide)
  | .tokenGo => .of_only (by apply Only.execTokenGo (hk := Only.refl s) <;> decide)
  | .flowEvictTimer _ _ => .of_only (by apply Only.execFlowEvictTimer (hk := Only.refl s) <;> decide)
  | .flowFlush => .of_only (by apply Only.execFlowFlush (hk := Only.refl s) <;> decide)
  | .exportRecordForm => .of_only (by apply Only.execExportRecordForm (hk := Only.refl s) <;> decide)
  | .exportMessageSend => .of_only (by apply Only.execExportMessageSend (hk := Only.refl s) <;> decide)
  | .exportFlushTimer => .of_only (by apply Only.execExportFlushTimer (hk := Only.refl s) <;> decide)
  | .templateSend => .of_only (by apply Only.execTemplateSend (hk := Only.refl s) <;> decide)
  | .ldgRead _ => .of_only (by apply Only.execLdgRead (hk := Only.refl s) <;> decide)
  | .ldgSnapshot _ => .of_only (by apply Only.execLdgSnapshot (hk := Only.refl s) <;> decide)
  | .ldgSnapshotComplete _ => .of_only (by apply Only.execLdgSnapshotComplete (hk := Only.refl s) <;> decide)
  | .pmcCountWrite _ _ _ => .of_only (by apply Only.execPmcCountWrite (hk := Only.refl s) <;> decide)
  | .sourceForce _ => .of_only (by apply Only.execSourceForce (hk := Only.refl s) <;> decide)
  | .srcCfgWrite _ _ _ => .of_only (by apply Only.execSrcCfgWrite (hk := Only.refl s) <;> decide)
  | .vectorTimerExpiry _ => .of_only (by apply Only.execVectorTimerExpiry (hk := Only.refl s) <;> decide)
  | .dispatchCommit _ => .of_only (by apply Only.execDispatchCommit (hk := Only.refl s) <;> decide)
  | .vecEoi _ => .of_only (by apply Only.execVecEoi (hk := Only.refl s) <;> decide)
  | .coreEoi _ => .of_only (by apply Only.execCoreEoi (hk := Only.refl s) <;> decide)
  | .crossingFault _ _ _ => .of_only (by apply Only.execCrossingFault (hk := Only.refl s) <;> decide)
  | .graceExpiry _ => .of_only (by apply Only.execGraceExpiry (hk := Only.refl s) <;> decide)
  | .escAck _ => .of_only (by apply Only.execEscAck (hk := Only.refl s) <;> decide)
  | .actionsWrite _ _ => .of_only (by apply Only.execActionsWrite (hk := Only.refl s) <;> decide)
  | .escEnd _ => .of_only (by apply Only.execEscEnd (hk := Only.refl s) <;> decide)
  | .escIsland _ => .of_only (by apply Only.execEscIsland (hk := Only.refl s) <;> decide)
  | .escControl _ => .of_only (by apply Only.execEscControl (hk := Only.refl s) <;> decide)
  | .escCold _ => timeKept_escCold _ s
  | .escQuiesce _ => .of_only (by apply Only.execEscQuiesce (hk := Only.refl s) <;> decide)
  | .escPortOff _ => .of_only (by apply Only.execEscPortOff (hk := Only.refl s) <;> decide)
  | .escLoseStack _ => .of_only (by apply Only.execEscLoseStack (hk := Only.refl s) <;> decide)
  | .escWait _ => .of_only (by apply Only.execEscWait (hk := Only.refl s) <;> decide)
  | .regulatorPoll _ => .of_only (by apply Only.execRegulatorPoll (hk := Only.refl s) <;> decide)
  | .scalesReady => .of_only (by apply Only.execScalesReady (hk := Only.refl s) <;> decide)
  | .capLoopTick _ => .of_only (by apply Only.execCapLoopTick (hk := Only.refl s) <;> decide)
  | .deferralForce _ => .of_only (by apply Only.execDeferralForce (hk := Only.refl s) <;> decide)
  | .sclPolicyConflict _ _ => .of_only (by apply Only.execSclPolicyConflict (hk := Only.refl s) <;> decide)
  | .glideComplete _ => .of_only (by apply Only.execGlideComplete (hk := Only.refl s) <;> decide)
  | .pmbusAlert _ _ => .of_only (by apply Only.execPmbusAlert (hk := Only.refl s) <;> decide)
  | .fastEstimateTick => .of_only (by apply Only.execFastEstimateTick (hk := Only.refl s) <;> decide)
  | .limiterStep => .of_only (by apply Only.execLimiterStep (hk := Only.refl s) <;> decide)
  | .limiterRelease => .of_only (by apply Only.execLimiterRelease (hk := Only.refl s) <;> decide)
  | .absWrite _ => .of_only (by apply Only.execAbsWrite (hk := Only.refl s) <;> decide)
  | .droopTrip _ => .of_only (by apply Only.execDroopTrip (hk := Only.refl s) <;> decide)
  | .droopClear _ _ => .of_only (by apply Only.execDroopClear (hk := Only.refl s) <;> decide)
  | .phaseTick => .of_only (by apply Only.execPhaseTick (hk := Only.refl s) <;> decide)
  | .thermalSense _ _ => .of_only (by apply Only.execThermalSense (hk := Only.refl s) <;> decide)
  | .throttleTick => .of_only (by apply Only.execThrottleTick (hk := Only.refl s) <;> decide)
  | .cartPresenceChange _ _ => .of_only (by apply Only.execCartPresenceChange (hk := Only.refl s) <;> decide)
  | .cartLatchOpen _ => .of_only (by apply Only.execCartLatchOpen (hk := Only.refl s) <;> decide)
  | .cartLatchClose _ => .of_only (by apply Only.execCartLatchClose (hk := Only.refl s) <;> decide)
  | .cartInt _ _ => .of_only (by apply Only.execCartInt (hk := Only.refl s) <;> decide)
  | .cartAuthenticating _ _ => .of_only (by apply Only.execCartAuthenticating (hk := Only.refl s) <;> decide)
  | .cartChallengeCheck _ _ => .of_only (by apply Only.execCartChallengeCheck (hk := Only.refl s) <;> decide)
  | .cartEnRaise _ => .of_only (by apply Only.execCartEnRaise (hk := Only.refl s) <;> decide)
  | .cartActivate _ => .of_only (by apply Only.execCartActivate (hk := Only.refl s) <;> decide)
  | .removalRampStart _ => .of_only (by apply Only.execRemovalRampStart (hk := Only.refl s) <;> decide)
  | .removalRampDone _ => .of_only (by apply Only.execRemovalRampDone (hk := Only.refl s) <;> decide)
  | .removalEnLow _ => .of_only (by apply Only.execRemovalEnLow (hk := Only.refl s) <;> decide)
  | .shareFailed _ _ => .of_only (by apply Only.execShareFailed (hk := Only.refl s) <;> decide)
  | .lightLow _ _ => .of_only (by apply Only.execLightLow (hk := Only.refl s) <;> decide)
  | .wearTick _ => .of_only (by apply Only.execWearTick (hk := Only.refl s) <;> decide)
  | .wearRecordWrite _ => .of_only (by apply Only.execWearRecordWrite (hk := Only.refl s) <;> decide)
  | .currentLoopStep _ _ _ => .of_only (by apply Only.execCurrentLoopStep (hk := Only.refl s) <;> decide)
  | .cartPolicyConflict _ _ _ => .of_only (by apply Only.execCartPolicyConflict (hk := Only.refl s) <;> decide)
  | .readId _ => .of_only (by apply Only.execReadId (hk := Only.refl s) <;> decide)
  | .reauth _ _ => .of_only (by apply Only.execReauth (hk := Only.refl s) <;> decide)
  | .setPolicy _ => .of_only (by apply Only.execSetPolicy (hk := Only.refl s) <;> decide)
  | .prepareRemove _ => .of_only (by apply Only.execPrepareRemove (hk := Only.refl s) <;> decide)
  | .keyUnwrap _ => .of_only (by apply Only.execKeyUnwrap (hk := Only.refl s) <;> decide)
  | .keyErase _ => .of_only (by apply Only.execKeyErase (hk := Only.refl s) <;> decide)
  | .ctxSave _ => .of_only (by apply Only.execCtxSave (hk := Only.refl s) <;> decide)
  | .ctxRestore _ => .of_only (by apply Only.execCtxRestore (hk := Only.refl s) <;> decide)
  | .keyEpochStart => .of_only (by apply Only.execKeyEpochStart (hk := Only.refl s) <;> decide)
  | .trngFail => .of_only (by apply Only.execTrngFail (hk := Only.refl s) <;> decide)
  | .hbmPhyTrained _ _ => .of_only (by apply Only.execHbmPhyTrained (hk := Only.refl s) <;> decide)
  | .watchdogPageFree _ => .of_only (by apply Only.execWatchdogPageFree (hk := Only.refl s) <;> decide)
  | .trngOk => .of_only (by apply Only.execTrngOk (hk := Only.refl s) <;> decide)
  | .faultCleared _ => .of_only (by apply Only.execFaultCleared (hk := Only.refl s) <;> decide)
  | .signalPresent _ => .of_only (by apply Only.execSignalPresent (hk := Only.refl s) <;> decide)
  | .uncorrectableCodeword _ => .of_only (by apply Only.execUncorrectableCodeword (hk := Only.refl s) <;> decide)
  | .commandTimeout _ _ => .of_only (by apply Only.execCommandTimeout (hk := Only.refl s) <;> decide)

theorem exec_completes (i : Instr) (s : State) : ∃ t, exec i s = .next t := by
  cases i <;> exact ⟨_, rfl⟩

/-- Every command answers a next state, and what it does to the time is `TimeKept`. -/
theorem exec_keepsTime (i : Instr) (s : State) : ∃ t, exec i s = .next t ∧ TimeKept s t := by
  obtain ⟨t, ht⟩ := exec_completes i s
  have hk := timeKept_exec i s
  rw [ht] at hk
  exact ⟨t, ht, hk⟩

/-- Settles O5: no command answers a fault or a refusal, and none touches the queue or the count of clocks. -/
theorem commandsLeaveQueueAndTime : Obligations.CommandsLeaveQueueAndTime := by
  unfold Obligations.CommandsLeaveQueueAndTime
  intro i s
  obtain ⟨t, ht, hk⟩ := exec_keepsTime i s
  exact ⟨t, ht, hk.pending, hk.elapsed⟩

theorem tick_clock (s : State) : (tick s).clock = clkTick s := rfl

theorem clkTick_inRange {s : State} (h : ClockInRange s.clock) : ClockInRange (clkTick s) := by
  unfold clkTick
  split_ifs
  · exact h
  · refine ⟨clkAdd_sec_lt _ _, clkAdd_ns_lt _ _, clkAdd_frac_lt _ _, ?_⟩
    dsimp only
    omega

theorem captureSnaps_clock (s : State) : (captureSnaps s).clock = s.clock :=
  Only.captureSnaps (fr := [.telem]) s (Only.refl s) (by decide) .clock (by decide)

theorem step_idle {s : State} (h : s.pending = []) : step s = .next (captureSnaps (tick s)) := by
  unfold step
  rw [h]

/-- Settles O11: an idle step is a tick of `clkTick`, whose sums are taken modulo their ranges, and a command is one of
`timeKept_exec`. -/
theorem clockStaysInRange : Obligations.ClockStaysInRange := by
  unfold Obligations.ClockStaysInRange
  refine ⟨clockInRange_reset, fun s t hc hs => ?_⟩
  unfold step at hs
  split at hs
  · cases hs
    rw [captureSnaps_clock, tick_clock]
    exact clkTick_inRange hc
  next i rest _ =>
    have hk := timeKept_exec i { s with pending := rest }
    rw [hs] at hk
    exact hk.clock hc

/-- Settles O8. -/
theorem noWordSpellsACommand : Obligations.NoWordSpellsACommand := by
  unfold Obligations.NoWordSpellsACommand
  exact fun _ _ _ => ⟨rfl, rfl⟩

/-- Settles O1. -/
theorem stepRunsFrontCommand : Obligations.StepRunsFrontCommand := by
  unfold Obligations.StepRunsFrontCommand
  intro i rest s h
  unfold step
  rw [h]

theorem Only.withClock {fr : List Part} {s0 s : State} {c : Clock} {n : Nat} (h : Only fr s0 s) (m_clock : Part.clock ∈ fr)
    (m_elapsed : Part.elapsed ∈ fr) : Only fr s0 { s with clock := c, elapsed := n } := by
  intro p hp
  have hs := h p hp
  cases p
  case clock => exact absurd m_clock hp
  case elapsed => exact absurd m_elapsed hp
  all_goals exact hs

theorem onlyTick (s : State) : Only [.regs, .clock, .elapsed, .telem] s (tick s) := by
  refine Only.withClock ?_ (by decide) (by decide)
  split_ifs
  · exact Only.setReg64 _ _ _ (Only.refl s) (by decide)
  · exact Only.refl s

theorem tick_elapsed (s : State) : (tick s).elapsed = s.elapsed + 1 := by
  unfold tick
  dsimp only
  split_ifs <;> rfl

theorem reg_of_only {fr : List Part} {s t : State} (h : Only fr s t) (hr : Part.regs ∉ fr) (a : Nat) : reg t a = reg s a :=
  congrArg (fun m => mapGet (resetWord a) m a) (h .regs hr)

/-- A tick writes no register but SLEW_LEFT (R353). -/
theorem reg_tick {s : State} {a : Nat} (hlow : a ≠ aTim 0x10) (hhigh : a ≠ aTim 0x14) : reg (tick s) a = reg s a := by
  change reg (if s.clock.slewing then setReg64 s (aTim 0x10) (slewLeftReg (clkTick s)) else s) a = reg s a
  split_ifs
  · exact reg_setReg64_ne s _ hlow hhigh
  · rfl

/-- Settles O2: an idle step is a tick, and then the capture of a snapshot that is due. -/
theorem emptyQueueTicks : Obligations.EmptyQueueTicks := by
  unfold Obligations.EmptyQueueTicks
  intro s h
  have hs : Only [.telem] (tick s) (captureSnaps (tick s)) := Only.captureSnaps _ (Only.refl _) (by decide)
  have ht : Only [.regs, .clock, .elapsed, .telem] s (captureSnaps (tick s)) := Only.captureSnaps _ (onlyTick s) (by decide)
  refine ⟨_, step_idle h, (ht .pending (by decide)).trans h, Eq.trans (hs .elapsed (by decide)) (tick_elapsed s), hs .clock (by decide), ht, fun a ha => ?_⟩
  simp only [List.mem_cons, List.not_mem_nil, or_false, not_or] at ha
  rw [reg_of_only hs (by decide), reg_tick ha.1 ha.2]

-- The sum of R352, in units of 2^-16 ns × 10^-9.

/-- The reading in units of 2^-16 ns. -/
def clkUnits (c : Clock) : Nat := (c.sec * nsPerSec + c.ns) * 65536 + c.frac

/-- A reading that stays below 2^48 seconds is moved by exactly the amount added. -/
theorem clkUnits_clkAdd {c : Clock} {d : Int} (h0 : 0 ≤ (clkUnits c : Int) + d) (h1 : (clkUnits c : Int) + d < 2 ^ 48 * 1000000000 * 65536) :
    (clkUnits (clkAdd c d) : Int) = clkUnits c + d := by
  obtain ⟨u, hu⟩ := Int.eq_ofNat_of_zero_le h0
  have hlt : u < 2 ^ 48 * 1000000000 * 65536 := by omega
  have hadd : clkUnits (clkAdd c d) = (u / 65536 / 1000000000 % 2 ^ 48 * 1000000000 + u / 65536 % 1000000000) * 65536 + u % 65536 := by
    have hd : ((((c.sec * nsPerSec + c.ns) * 65536 + c.frac : Nat) : Int) + d).toNat = u := by
      show ((clkUnits c : Int) + d).toNat = u
      omega
    unfold clkUnits clkAdd
    dsimp only
    rw [hd]
    rfl
  rw [hadd, hu]
  have hmod : u / 65536 / 1000000000 % 2 ^ 48 = u / 65536 / 1000000000 := Nat.mod_eq_of_lt (by omega)
  rw [hmod]
  omega

theorem toSigned_bounds (x : Nat) : -2147483648 ≤ toSigned 32 x ∧ toSigned 32 x < 2147483648 := by
  unfold toSigned
  split_ifs <;> omega

theorem slewTerm_bounds (s : State) : -68719476736 ≤ slewTerm s ∧ slewTerm s ≤ 68719476736 := by
  have hr : regF s (aTim 8) 19 0 < 2 ^ 20 := Nat.mod_lt _ (by decide)
  unfold slewTerm
  dsimp only
  split_ifs <;> omega

/-- What one clock adds beside the whole nanosecond, with the remainder carried so far. -/
def clkAcc (s : State) : Int := s.clock.rem + 16 * freqOf s + slewTerm s

theorem clkUnits_clkTick {s : State} (h : s.clock.running = true) :
    clkUnits (clkTick s) = clkUnits (clkAdd s.clock (65536 + clkAcc s / 1000000000)) := by
  simp only [clkTick, h, Bool.not_true, Bool.false_eq_true, if_false]
  rfl

theorem rem_clkTick {s : State} (h : s.clock.running = true) : (clkTick s).rem = (clkAcc s % 1000000000).toNat := by
  simp only [clkTick, h, Bool.not_true, Bool.false_eq_true, if_false]
  rfl

theorem clkAcc_bounds {s : State} (h : s.clock.rem < 1000000000) : -103079215104 ≤ clkAcc s ∧ clkAcc s < 104079215104 := by
  have hf := toSigned_bounds (reg s (aTim 4)).toNat
  have hsl := slewTerm_bounds s
  unfold clkAcc freqOf
  omega

/-- One clock adds the period, whose quotient goes to the reading and whose rest is carried. -/
theorem clkTick_adds {s : State} (hrun : s.clock.running = true) (hsec : s.clock.sec < 2 ^ 48 - 2) (hc : ClockInRange s.clock) :
    (clkUnits (clkTick s) * 1000000000 + (clkTick s).rem : Int)
      = clkUnits s.clock * 1000000000 + 65536 * 1000000000 + clkAcc s := by
  obtain ⟨_, hns, hfrac, hrem⟩ := hc
  have hacc := clkAcc_bounds hrem
  have hu : clkUnits s.clock = (s.clock.sec * 1000000000 + s.clock.ns) * 65536 + s.clock.frac := rfl
  unfold nsPerSec at hns
  rw [clkUnits_clkTick hrun, rem_clkTick hrun, clkUnits_clkAdd] <;> omega

/-- Settles O10: the sum of `clkTick_adds`; and a FREQ write that crosses reaches no clock. -/
theorem clockAddsThePeriod : Obligations.ClockAddsThePeriod := by
  unfold Obligations.ClockAddsThePeriod
  refine ⟨fun s h hrun hsec hns hfrac hrem => ?_, fun value s hr hs => ?_⟩
  · have hc : ClockInRange s.clock := ⟨by omega, hns, hfrac, hrem⟩
    obtain ⟨_, tns, tfrac, trem⟩ := clkTick_inRange hc
    refine ⟨_, step_idle h, ?_⟩
    rw [captureSnaps_clock, tick_clock]
    refine ⟨tns, tfrac, trem, ?_⟩
    have hadds := clkTick_adds hrun hsec hc
    simp only [clkUnits, nsPerSec, clkAcc, freqOf] at hadds
    push_cast at hadds ⊢
    omega
  · refine ⟨_, congrArg Host.Outcome.next (holdWrite_open rfl hr hs), reg_setReg_same, rfl⟩

end Sys2Proof.Proofs
end

section
/-!
Refutation of the statement on flow control and PORT_Q: a QBASE of 288 with no queue is taken as no code of the field.
-/
namespace Sys2Proof.Proofs

open Sys2Proof Sys2Proof.Machine Sys2Proof.Laws

theorem inv_releasedPart : Inv releasedPart := ⟨rfl, rfl, fun _ hj => by cases hj⟩

/-- QCOUNT 0 with QBASE 288, which is no code of the field: the write leaves QBASE as it was (R16, R329). -/
def queuelessPastTheEnd : Word := 0x01200000#32

theorem exec_portQWrite_queuelessPastTheEnd :
    exec (.portQWrite 0 queuelessPastTheEnd) releasedPart = .next (setReg releasedPart (aSPort 0 0) 0) := rfl

/-- Refutes O32: its clause on the ranges that PORT_Q refuses counts among them every QBASE above 287. With QCOUNT 0 a QBASE of 288 keeps
QBASE + QCOUNT within 288: the write is taken with the QBASE that stood, and sets no bit of SCH.ERR. -/
theorem not_flowControlComplete : ¬ Obligations.FlowControlComplete := by
  unfold Obligations.FlowControlComplete
  rintro ⟨-, -, -, -, -, -, -, -, -, hbad⟩
  obtain ⟨t, hexec, -, hbit, -⟩ := hbad 0 queuelessPastTheEnd releasedPart inv_releasedPart (by decide) rfl (by decide) (by decide)
  obtain rfl : setReg releasedPart (aSPort 0 0) 0 = t := Host.Outcome.next.inj (exec_portQWrite_queuelessPastTheEnd.symm.trans hexec)
  exact absurd hbit (by decide)

end Sys2Proof.Proofs
end

section
/-!
Refutation of the statement on slot tables: a deferred cut waits for the glide in progress as the protected span ends.
-/
namespace Sys2Proof.Proofs

open Sys2Proof Sys2Proof.Machine Sys2Proof.Laws

/-- Firmware and Scales are up, pipeline 0 glides at step 1, and the cap still wants the cut that it deferred there (R448, R451). -/
def glidingDeferral : State :=
  { setF (setBit (setReg releasedPart 0x40 0b100001000#32) (aPipeClk 0) 29 true) (aPipeClk 0) 31 30 1 with
    scales := { Scales.reset with deferrals := [{ pipe := 0, since := 0, wanted := true, paused := none }] } }

theorem inv_glidingDeferral : Inv glidingDeferral :=
  ⟨regsWf_setF (regsWf_setBit (regsWf_setReg rfl)), rfl, fun _ hj => by cases hj⟩

theorem deferralOf_protectedSpanEnd_glidingDeferral :
    (deferralOf (rowState (execProtectedSpanEnd 0 glidingDeferral) glidingDeferral) 0).isSome = true := by
  decide

/-- Refutes O37: its clause on the end of a protected span ends the deferral wherever Scales policy runs and a glide can start. A cut that the cap
still wants also waits for a glide of its pipeline that is in progress: from `glidingDeferral` the deferral stays. -/
theorem not_slotsComplete : ¬ Obligations.SlotsComplete := by
  unfold Obligations.SlotsComplete
  rintro ⟨-, -, -, -, -, -, -, -, -, -, -, hend⟩
  obtain ⟨t, hexec, -, hdef⟩ := hend 0 glidingDeferral inv_glidingDeferral (by decide)
  obtain ⟨hnone, -⟩ := hdef (by decide) (by decide)
  have ht : rowState (execProtectedSpanEnd 0 glidingDeferral) glidingDeferral = t := congrArg (rowState · glidingDeferral) hexec
  have hsome := deferralOf_protectedSpanEnd_glidingDeferral
  rw [ht, hnone (by decide)] at hsome
  exact absurd hsome (by decide)

end Sys2Proof.Proofs
end

section
/-!
Refutation of the statement on telemetry: two snapshots of one buffer end together.
-/
namespace Sys2Proof.Proofs

open Sys2Proof Sys2Proof.Machine Sys2Proof.Laws

/-- LDG_SNAPSHOT (Table HIF-14) of buffer 0. -/
def snapshotCmd : HostCmd :=
  { bell := 1, cr := 0, index := 0, opcode := 0x30, notify := false, ordered := false, tag := 7, dataLen := 0, hostAddr := 0,
    arg := [], data := [] }

/-- Two snapshots of buffer 0 are under way at time 0, the first for the instant 1 ns and the second for the present one. -/
def twoSnapshots : State :=
  { releasedPart with telem := { releasedPart.telem with snapJob := [(0, snapshotCmd, 1), (0, snapshotCmd, 0)] } }

theorem inv_twoSnapshots : Inv twoSnapshots := ⟨rfl, rfl, fun _ hj => by cases hj⟩

/-- The second snapshot is captured, and its capture ends them both. -/
theorem snapBusy_ldgSnapshotComplete_twoSnapshots :
    snapBusy (rowState (execLdgSnapshotComplete 0 twoSnapshots) twoSnapshots) 0 = false := by
  decide

/-- Refutes O40: its clause on the end of a snapshot speaks of the first job of the buffer alone, and the invariant does not say that a buffer
has one job only. From `twoSnapshots` the instant of the first is still to come, but the buffer is filled by the second, and BUSY falls. -/
theorem not_telemetryComplete : ¬ Obligations.TelemetryComplete := by
  unfold Obligations.TelemetryComplete
  rintro ⟨-, -, -, -, -, -, -, -, hend, -⟩
  obtain ⟨t, hexec, -, hwait⟩ := hend 0 1 snapshotCmd twoSnapshots inv_twoSnapshots rfl (by decide) (by decide)
  obtain ⟨-, hbusy⟩ := hwait (by decide) rfl
  have ht : rowState (execLdgSnapshotComplete 0 twoSnapshots) twoSnapshots = t := congrArg (rowState · twoSnapshots) hexec
  have hfree := snapBusy_ldgSnapshotComplete_twoSnapshots
  rw [ht, hbusy] at hfree
  exact absurd hfree (by decide)

end Sys2Proof.Proofs
end

section
/-!
Refutation of the statement on the power loop: an alert does not reach a monitoring island that is held in reset.
-/
namespace Sys2Proof.Proofs

open Sys2Proof Sys2Proof.Machine Sys2Proof.Laws

/-- The monitoring island is held in reset, so that no alert reaches it (R40). -/
theorem exec_pmbusAlert_releasedWithoutRefclk0 :
    exec (.pmbusAlert 0 true) releasedWithoutRefclk0 = .next releasedWithoutRefclk0 := rfl

/-- Refutes O43: its clause on a PMBus alert asks only that the part is out of reset, but while island 126 is held in reset the alert is not
taken: from `releasedWithoutRefclk0` none stands low after it. -/
theorem not_powerComplete : ¬ Obligations.PowerComplete := by
  unfold Obligations.PowerComplete
  rintro ⟨-, -, -, -, -, -, -, -, -, -, halert, -⟩
  obtain ⟨t, hexec, hlow, -⟩ := halert 0 true releasedWithoutRefclk0 inv_releasedWithoutRefclk0 (by decide) rfl
  obtain rfl : releasedWithoutRefclk0 = t := Host.Outcome.next.inj (exec_pmbusAlert_releasedWithoutRefclk0.symm.trans hexec)
  exact absurd hlow (by decide)

end Sys2Proof.Proofs
end

section
/-!
Proofs of the statement on VEC_EOI: the end of service samples the level sources again, each of which pends and counts.
-/
namespace Sys2Proof.Proofs

open Sys2Proof Sys2Proof.Machine Sys2Proof.Laws

-- The Crier's registers and vectors (R426, R428).

theorem islandAt_aCri {o : Nat} (h : o < 0x100000) : islandAt (aCri o) = 126 := by
  have hblk : blkOf (aCri o) = some (.cri, 0, o) := by
    unfold aCri
    simp (disch := omega) only [blkOf, blkMap, List.findSome?_cons, if_neg, if_pos]
    simp; omega
  rw [islandAt, hblk]

theorem mem_addOnce_iff {l : List Nat} {x y : Nat} : y ∈ addOnce l x ↔ y ∈ l ∨ y = x := by
  unfold addOnce
  split
  next h =>
    have hx : x ∈ l := by simpa using h
    exact ⟨.inl, fun hy => hy.elim id fun e => e ▸ hx⟩
  next => simp

/-- An event counts at the vector that its source targets, and nowhere else (R428). -/
theorem getVec_countEvent (s : State) (id w : Nat) :
    getVec (countEvent s id) w = if targets s w id then countVec (getVec s w) (reg s (aVec w 0)) else getVec s w := by
  unfold getVec countEvent targets
  dsimp only
  by_cases hon : ((reg s (aSrc id)).getLsbD 31 && decide (id < 0xF00)) = true
  · simp only [Bool.and_eq_true, decide_eq_true_eq] at hon
    simp only [regBit, regF, hon.1, hon.2, decide_true, Bool.and_true, if_true, mapGet_mapMod, Bool.true_and, beq_iff_eq, eq_comm (a := w)]
    split_ifs with hw
    · rw [hw]
    · rfl
  · rw [if_neg hon, if_neg]
    intro h
    simp only [Bool.and_eq_true, decide_eq_true_eq, regBit] at h hon
    exact hon ⟨h.1.2, h.1.1⟩

/-- A level source whose line stands, sampled again as its service ends: it is pending, and counts (R430). -/
def pendAgain (s : State) (id : Nat) : State :=
  countEvent { s with crier := { s.crier with pend := addOnce s.crier.pend id } } id

theorem getVec_pendAgain (s : State) (id w : Nat) :
    getVec (pendAgain s id) w = if targets s w id then countVec (getVec s w) (reg s (aVec w 0)) else getVec s w :=
  getVec_countEvent { s with crier := { s.crier with pend := addOnce s.crier.pend id } } id w

theorem active_pendAgain (l : List Nat) (s : State) : (forEach l pendAgain s).crier.active = s.crier.active := by
  induction l generalizing s with
  | nil => rfl
  | cons x l ih => exact ih (pendAgain s x)

theorem mem_pend_pendAgain (l : List Nat) (s : State) (id : Nat) :
    id ∈ (forEach l pendAgain s).crier.pend ↔ id ∈ s.crier.pend ∨ id ∈ l := by
  induction l generalizing s with
  | nil => simp [forEach]
  | cons x l ih =>
    have h : id ∈ (forEach (x :: l) pendAgain s).crier.pend ↔ id ∈ addOnce s.crier.pend x ∨ id ∈ l := ih (pendAgain s x)
    rw [h, mem_addOnce_iff, List.mem_cons, or_assoc]

theorem inService_pendAgain (l : List Nat) (s : State) (w : Nat) :
    (getVec (forEach l pendAgain s) w).inService = (getVec s w).inService := by
  induction l generalizing s with
  | nil => rfl
  | cons x l ih =>
    have h : (getVec (pendAgain s x) w).inService = (getVec s w).inService := by
      rw [getVec_pendAgain]
      split <;> rfl
    exact (ih (pendAgain s x)).trans h

/-- Each source that the vector's entries name counts one event at it, up to the top of the counter. -/
theorem counted_pendAgain (l : List Nat) (s : State) (w : Nat) (h : (getVec s w).counted ≤ 65535) :
    (getVec (forEach l pendAgain s) w).counted = min 65535 ((getVec s w).counted + (l.filter (targets s w)).length) := by
  induction l generalizing s with
  | nil => simp [forEach, h]
  | cons x l ih =>
    have hx : (getVec (pendAgain s x) w).counted = if targets s w x then min 65535 ((getVec s w).counted + 1) else (getVec s w).counted := by
      rw [getVec_pendAgain]
      split <;> rfl
    have hle : (getVec (pendAgain s x) w).counted ≤ 65535 := by
      rw [hx]
      split <;> omega
    have hl : (getVec (forEach (x :: l) pendAgain s) w).counted
        = min 65535 ((getVec (pendAgain s x) w).counted + (l.filter (targets s w)).length) := ih (pendAgain s x) hle
    rw [hl, hx, List.filter_cons]
    split
    · simp only [List.length_cons]
      omega
    · omega

-- The end of a vector's service (R430).

/-- The vector out of service, with none of its sources active. -/
def leftService (s : State) (v : Nat) : State :=
  { s with crier := { s.crier with
      vecs := mapMod vecIdle s.crier.vecs v fun x => { x with inService := false }
      active := s.crier.active.filter (·.2 != v) } }

/-- The level sources among them whose line stands. -/
def standing (s : State) (v : Nat) : List Nat := ((s.crier.active.filter (·.2 == v)).map (·.1)).filter s.crier.line.contains

theorem eoiVec_of_inService {s : State} {v : Nat} (h : (getVec s v).inService = true) :
    eoiVec s v = forEach (standing s v) pendAgain (leftService s v) := by
  rw [eoiVec, h]
  rfl

theorem eoiVec_of_idle {s : State} {v : Nat} (h : (getVec s v).inService = false) : eoiVec s v = s := by
  rw [eoiVec, h]
  rfl

theorem counted_leftService (s : State) (v w : Nat) : (getVec (leftService s v) w).counted = (getVec s w).counted := by
  unfold getVec leftService
  rw [mapGet_mapMod]
  split_ifs with h
  · rw [h]
  · rfl

theorem inService_eoiVec {s : State} {v : Nat} (h : (getVec s v).inService = true) : (getVec (eoiVec s v) v).inService = false := by
  rw [eoiVec_of_inService h, inService_pendAgain, leftService, getVec, mapGet_mapMod, if_pos rfl]

theorem active_eoiVec {s : State} {v : Nat} (h : (getVec s v).inService = true) :
    (eoiVec s v).crier.active = s.crier.active.filter (·.2 != v) := by
  rw [eoiVec_of_inService h, active_pendAgain]
  rfl

theorem mem_standing {s : State} {v id : Nat} : id ∈ standing s v ↔ (id, v) ∈ s.crier.active ∧ id ∈ s.crier.line := by
  simp only [standing, List.mem_filter, List.mem_map, beq_iff_eq, List.contains_iff_mem, Prod.exists, exists_and_right, exists_eq_right]

theorem mem_pend_eoiVec {s : State} {v id : Nat} (h : (getVec s v).inService = true) :
    id ∈ (eoiVec s v).crier.pend ↔ id ∈ s.crier.pend ∨ ((id, v) ∈ s.crier.active ∧ id ∈ s.crier.line) := by
  rw [eoiVec_of_inService h, mem_pend_pendAgain, mem_standing]
  rfl

theorem counted_eoiVec {s : State} {v w : Nat} (h : (getVec s v).inService = true) (hw : (getVec s w).counted ≤ 65535) :
    (getVec (eoiVec s v) w).counted = min 65535 ((getVec s w).counted + ((standing s v).filter (targets s w)).length) := by
  rw [eoiVec_of_inService h, counted_pendAgain _ _ _ (by rw [counted_leftService]; exact hw), counted_leftService]
  rfl

theorem exec_vecEoi {v : Nat} {s : State} (hv : v < 2048) (hr : s.top.inReset = false) (hs : shut s (aVec v 8) = false) :
    exec (.vecEoi v) s = .next (eoiVec s v) := by
  have hisl : islandAt (aVec v 8) = 126 := islandAt_aCri (by omega)
  change Host.Outcome.next (if 2047 < v then s else holdWrite s 126 (aVec v 8) 0 (eoiVec · v)) = _
  rw [if_neg (by omega), holdWrite_open hisl hr hs]

/-- Settles O15: the end of service takes the vector's sources from the active ones and pends again those whose line stands. -/
theorem vecEoiEndsService : Obligations.VecEoiEndsService := by
  unfold Obligations.VecEoiEndsService
  refine ⟨fun v s hv hr hs hin => ⟨_, exec_vecEoi hv hr hs, inService_eoiVec hin, fun x => ?_, fun id => mem_pend_eoiVec hin,
    fun w hw => ?_⟩, fun v s hr hs hidle => ?_⟩
  · rw [active_eoiVec hin]
    simp
  · rw [counted_eoiVec hin hw, standing, List.filter_filter]
    simp only [Bool.and_comm]
  · by_cases hv : 2047 < v
    · exact ⟨s, congrArg Host.Outcome.next (if_pos hv), Only.refl s⟩
    · exact ⟨s, (exec_vecEoi (by omega) hr hs).trans (congrArg Host.Outcome.next (eoiVec_of_idle hidle)), Only.refl s⟩

end Sys2Proof.Proofs
end

section
/-!
Proofs of the statement on the Crier and first errors: SRC_CFG, dispatch, the ends of service and the records of R433.
-/
namespace Sys2Proof.Proofs

open Sys2Proof Sys2Proof.Machine Sys2Proof.Laws

-- A register that no record of a list's start touches keeps its value as a source is raised (R425, R435, R436).

/-- Raising a source and recording a fault write FLT.COUNT2 and the ESC_CFG words alone. -/
theorem not_regIn_escalation {a : Nat} (h : a < aFlt 0x20 ∨ (aFlt 0x24 < a ∧ a < aFlt 0x40000)) : ¬ RegIn [.fltCount2, .escCfg] a := by
  rintro ⟨r, hr, ha⟩
  simp only [List.mem_cons, List.not_mem_nil, or_false] at hr
  rcases hr with rfl | rfl
  · have he : a = aFlt 0x20 ∨ a = aFlt 0x20 + 4 := ha
    simp only [aFlt] at he h
    omega
  · obtain ⟨id, he⟩ : ∃ id, a = aEsc id 0 := ha
    simp only [aFlt, aEsc] at he h
    omega

theorem reg_raise_low {s : State} {a : Nat} (id : Nat) (h : a < aFlt 0x20 ∨ (aFlt 0x24 < a ∧ a < aFlt 0x40000)) :
    reg (raise s id) a = reg s a :=
  Named.raise (Named.refl s) (by decide) (by decide) a (not_regIn_escalation h)

theorem reg_jrnOweFault_low {s : State} {a : Nat} (e : FaultEntry) (h : a < aFlt 0x20 ∨ (aFlt 0x24 < a ∧ a < aFlt 0x40000)) :
    reg (jrnOweFault s e) a = reg s a :=
  Named.jrnOweFault s e (Named.refl s) (by decide) (by decide) a (not_regIn_escalation h)

theorem aCri_low {o : Nat} (h : o < 0x100000) : aCri o < aFlt 0x20 := by
  simp only [aCri, aFlt]
  omega

-- Counting at a vector goes up, to the top of the counter (R428).

theorem counted_countEvent_le {s : State} {id w n : Nat} (hn : n ≤ 65535) (h : n ≤ (getVec s w).counted) :
    n ≤ (getVec (countEvent s id) w).counted := by
  rw [getVec_countEvent]
  split
  · have : (countVec (getVec s w) (reg s (aVec w 0))).counted = min 65535 ((getVec s w).counted + 1) := rfl
    omega
  · exact h

theorem counted_pendEvent_le {s : State} {id w n : Nat} (hn : n ≤ 65535) (h : n ≤ (getVec s w).counted) :
    n ≤ (getVec (pendEvent s id) w).counted :=
  counted_countEvent_le (s := { s with crier := { s.crier with pend := addOnce s.crier.pend id } }) hn h

theorem counted_graceWith_le {after : State → State} {s : State} {id w n : Nat}
    (ha : ∀ t : State, n ≤ (getVec t w).counted → n ≤ (getVec (after t) w).counted) (h : n ≤ (getVec s w).counted) :
    n ≤ (getVec (graceWith after s id) w).counted := by
  unfold graceWith
  split
  · exact h
  · split
    · exact ha (startList s id) h
    · exact h

/-- A raised source that is enabled counts at the vector that it targets. -/
theorem counted_raise {s : State} {id w : Nat} (ht : targets s w id = true) :
    min 65535 ((getVec s w).counted + 1) ≤ (getVec (raise s id) w).counted := by
  have hn : min 65535 ((getVec s w).counted + 1) ≤ 65535 := Nat.min_le_left _ _
  have hfirst : (getVec (pendEvent s id) w).counted = min 65535 ((getVec s w).counted + 1) := by
    have he : getVec (pendEvent s id) w = getVec (pendAgain s id) w := rfl
    rw [he, getVec_pendAgain, if_pos ht]
    rfl
  refine counted_graceWith_le (fun t h => ?_) hfirst.ge
  exact counted_graceWith_le (fun u hu => counted_pendEvent_le hn hu) (counted_pendEvent_le hn h)

theorem targets_own {s : State} {id : Nat} (hid : id < 0xF00) (hon : regBit s (aSrc id) 31 = true) :
    targets s (regF s (aSrc id) 10 0) id = true := by
  simp [targets, hid, hon]

theorem crierComplete_sourceForce (value : Word) (s : State) (hr : s.top.inReset = false) (hs : shut s (aCri 0x10) = false) :
    Completes (.sourceForce value) s fun t => fget value 11 0 ∈ t.crier.pend
      ∧ (fget value 11 0 < 0xF00 → regBit s (aSrc (fget value 11 0)) 31 = true →
          min 65535 ((getVec s (regF s (aSrc (fget value 11 0)) 10 0)).counted + 1)
            ≤ (getVec t (regF s (aSrc (fget value 11 0)) 10 0)).counted) :=
  ⟨_, congrArg Host.Outcome.next (holdWrite_open (islandAt_aCri (by decide)) hr hs), mem_raise _ _,
    fun hid hon => counted_raise (targets_own hid hon)⟩

-- SRC_CFG (R426, R427).

/-- What the host's write leaves in SRC_CFG: the fields that software owns are taken. -/
def srcCfgNew (old value : Word) : Word := (old &&& ~~~(0x8F0007FF : Word)) ||| (value &&& 0x8F0007FF)

theorem getLsbD_31_srcCfgNew (old value : Word) : (srcCfgNew old value).getLsbD 31 = value.getLsbD 31 := by
  simp [srcCfgNew]

theorem fget_10_0_srcCfgNew (old value : Word) : fget (srcCfgNew old value) 10 0 = fget value 10 0 := by
  refine Nat.eq_of_testBit_eq fun i => ?_
  rw [testBit_fget, testBit_fget, srcCfgNew, BitVec.getLsbD_or, BitVec.getLsbD_and, BitVec.getLsbD_and]
  by_cases hi : i < 11
  · interval_cases i <;> simp
  · simp [hi]

/-- A source that is enabled, or moved to another vector, while it is pending counts one event there. -/
def moves (s : State) (id : Nat) (value : Word) : Bool :=
  s.crier.pend.contains id && value.getLsbD 31 && (!regBit s (aSrc id) 31 || regF s (aSrc id) 10 0 != fget value 10 0)

theorem exec_srcCfgWrite_taken {src : Nat} {value : Word} {s : State} (hsrc : src < 0xF00) (hcore : value.getLsbD 12 = false)
    (hr : s.top.inReset = false) (hs : shut s (aSrc src) = false) :
    exec (.srcCfgWrite src value false) s = .next (
      if moves s src value then countEvent (setReg s (aSrc src) (srcCfgNew (reg s (aSrc src)) value)) src
      else setReg s (aSrc src) (srcCfgNew (reg s (aSrc src)) value)) := by
  have hisl : islandAt (aSrc src) = 126 := islandAt_aCri (by omega)
  have hmoves : (s.crier.pend.contains src && (srcCfgNew (reg s (aSrc src)) value).getLsbD 31
      && (!(reg s (aSrc src)).getLsbD 31 || fget (reg s (aSrc src)) 10 0 != fget (srcCfgNew (reg s (aSrc src)) value) 10 0))
      = moves s src value := by
    rw [getLsbD_31_srcCfgNew, fget_10_0_srcCfgNew]
    rfl
  change execSrcCfgWrite src value false s = _
  rw [execSrcCfgWrite, if_neg (by omega), if_neg (by decide), holdWrite_open hisl hr hs]
  rw [if_neg (by simpa using hsrc), if_neg (by rw [hcore]; decide), ← hmoves]
  rfl

theorem crierComplete_srcCfgWrite (src : Nat) (value : Word) (s : State) (hsrc : src < 0xF00) (hcore : value.getLsbD 12 = false)
    (hr : s.top.inReset = false) (hs : shut s (aSrc src) = false) :
    Completes (.srcCfgWrite src value false) s fun t => reg t (aSrc src) = (reg s (aSrc src) &&& 0x70FFF800) ||| (value &&& 0x8F0007FF)
      ∧ t.crier.pend = s.crier.pend ∧ RegsBut [aSrc src] s t
      ∧ (src ∈ s.crier.pend → value.getLsbD 31 = true → regBit s (aSrc src) 31 = false ∨ fget value 10 0 ≠ regF s (aSrc src) 10 0 →
          (getVec t (fget value 10 0)).counted = min 65535 ((getVec s (fget value 10 0)).counted + 1)) := by
  refine ⟨_, exec_srcCfgWrite_taken hsrc hcore hr hs, ?_⟩
  have hreg : reg (setReg s (aSrc src) (srcCfgNew (reg s (aSrc src)) value)) (aSrc src) = srcCfgNew (reg s (aSrc src)) value :=
    reg_setReg_same
  refine ⟨?_, ?_, fun a ha => ?_, fun hp hon hmoved => ?_⟩
  · split <;> exact hreg
  · split <;> rfl
  · split <;> exact reg_setReg_ne (by simpa using ha)
  · have hm : moves s src value = true := by
      simp only [moves, List.contains_iff_mem.mpr hp, hon, Bool.and_true, Bool.true_and, Bool.or_eq_true, Bool.not_eq_true', bne_iff_ne]
      exact hmoved.imp_right Ne.symm
    have ht : targets (setReg s (aSrc src) (srcCfgNew (reg s (aSrc src)) value)) (fget value 10 0) src = true := by
      simp [targets, regBit, regF, hreg, hsrc, getLsbD_31_srcCfgNew, fget_10_0_srcCfgNew, hon]
    rw [if_pos hm, getVec_countEvent, if_pos ht]
    rfl

theorem crierComplete_srcCfgRefused (src : Nat) (value : Word) (s : State) (hsrc : src ≤ 0xFFF)
    (hno : 0xF00 ≤ src ∨ value.getLsbD 12 = true) (hr : s.top.inReset = false) (hs : shut s (aSrc src) = false) :
    Completes (.srcCfgWrite src value false) s fun t => reg t (aSrc src) = reg s (aSrc src) ∧ 0xE04 ∈ t.crier.pend
      ∧ (0xF00 ≤ src → regBit t (aCri 0) 0 = true) ∧ (src < 0xF00 → regBit t (aCri 0) 1 = true) := by
  have hisl : islandAt (aSrc src) = 126 := islandAt_aCri (by omega)
  have hexec : exec (.srcCfgWrite src value false) s = .next (setErrE04 s (aCri 0) (if 0xF00 ≤ src then 0 else 1)) := by
    change execSrcCfgWrite src value false s = _
    rw [execSrcCfgWrite, if_neg (by omega), if_neg (by decide), holdWrite_open hisl hr hs]
    by_cases hfw : 0xF00 ≤ src
    · rw [if_pos (by simpa using hfw), if_pos hfw]
    · rw [if_neg (by simpa using hfw), if_pos (hno.resolve_left hfw), if_neg hfw]
  have herr : ∀ i < 32, regBit (setErrE04 s (aCri 0) i) (aCri 0) i = true := fun i hi => by
    rw [setErrE04, regBit_of_reg (reg_raise_low 0xE04 (.inl (aCri_low (by decide)))), regBit_setBit_same hi]
  refine ⟨_, hexec, ?_, mem_raise _ _, fun h => ?_, fun h => ?_⟩
  · have hlow : aSrc src < aFlt 0x20 := aCri_low (by omega)
    rw [setErrE04, reg_raise_low 0xE04 (.inl hlow), reg_setBit_ne]
    simp only [aSrc, aCri]
    omega
  · rw [if_pos h]
    exact herr 0 (by decide)
  · rw [if_neg (by omega)]
    exact herr 1 (by decide)

-- Cores that a pending source wakes, and the masks that reach the Crier (R429, R431).

/-- Waking cores changes the Crier's cores alone. -/
theorem wakeCores_eq (s : State) : ∃ cores, wakeCores s = { s with crier := { s.crier with cores := cores } } := by
  have h : ∀ (l : List Nat) (u : State), ∃ cores, forEach l wakeCore u = { u with crier := { u.crier with cores := cores } } := by
    intro l
    induction l with
    | nil => exact fun u => ⟨_, rfl⟩
    | cons x l ih =>
      intro u
      obtain ⟨cores, hc⟩ := ih (wakeCore u x)
      exact ⟨cores, hc⟩
  exact h s.crier.pend s

theorem crierComplete_vectorTimer (v : Nat) (s : State) (ht : (getVec s v).timer = true) :
    Completes (.vectorTimerExpiry v) s fun t => getVec t v = { getVec s v with timer := false, ready := true } ∧ Only [.crier] s t := by
  refine ⟨_, congrArg Host.Outcome.next (if_pos ht), ?_, ?_⟩
  · rw [getVec, mapGet_mapMod, if_pos rfl]
    rfl
  · intro p hp
    cases p
    case crier => exact absurd (by decide) hp
    all_goals rfl

theorem crierComplete_srcCfgFirmware (src : Nat) (value : Word) (s : State) (hlow : 0xF00 ≤ src) (hsrc : src ≤ 0xFFF)
    (hfw : fwRuns s = true) :
    Completes (.srcCfgWrite src value true) s fun t => reg t (aSrc src) = (reg s (aSrc src) &&& 0x70FFE800) ||| (value &&& 0x8F0017FF)
      ∧ RegsBut [aSrc src] s t ∧ t.crier.pend = s.crier.pend := by
  have hexec : exec (.srcCfgWrite src value true) s
      = .next (wakeCores (setReg s (aSrc src) ((reg s (aSrc src) &&& 0x70FFE800) ||| (value &&& 0x8F0017FF)))) := by
    change execSrcCfgWrite src value true s = _
    rw [execSrcCfgWrite, if_neg (by omega), if_pos rfl, if_neg]
    simp [hfw, hlow]
  obtain ⟨cores, hcores⟩ := wakeCores_eq (setReg s (aSrc src) ((reg s (aSrc src) &&& 0x70FFE800) ||| (value &&& 0x8F0017FF)))
  rw [hcores] at hexec
  exact ⟨_, hexec, reg_setReg_same, fun a ha => reg_setReg_ne (by simpa using ha), rfl⟩

/-- MSI-X's control as configuration software wrote it: it reaches a Crier that is not held in reset. -/
def maskedHif (s : State) (m : CrierMasks) : Hif :=
  match m.msix with
  | some (on, off) => if s.hif.perst || s.top.inReset then s.hif else { s.hif with msixOn := on, msixMask := off }
  | none => s.hif

/-- A core with the mask and the sleep that it gave itself. -/
def maskCore (l : Store Core) (x : Nat × Bool × Bool) : Store Core :=
  mapMod coreIdle l x.1 fun c => { c with masked := x.2.1, sleep := x.2.2 }

def maskedCores (s : State) (m : CrierMasks) : Store Core := if fwRuns s then m.cores.foldl maskCore s.crier.cores else s.crier.cores

theorem setMasks_def (s : State) (m : CrierMasks) :
    setMasks s m = wakeCores { s with hif := maskedHif s m, crier := { s.crier with cores := maskedCores s m } } := rfl

/-- The masks change MSI-X's control and the cores, and nothing else. -/
theorem setMasks_eq (s : State) (m : CrierMasks) :
    ∃ cores, setMasks s m = { s with hif := maskedHif s m, crier := { s.crier with cores := cores } } := by
  rw [setMasks_def]
  obtain ⟨cores, h⟩ := wakeCores_eq { s with hif := maskedHif s m, crier := { s.crier with cores := maskedCores s m } }
  exact ⟨cores, h⟩

section
variable (s : State) (m : CrierMasks)

@[simp] theorem regs_setMasks : (setMasks s m).regs = s.regs := by
  obtain ⟨cores, h⟩ := setMasks_eq s m
  rw [h]

@[simp] theorem out_setMasks : (setMasks s m).out = s.out := by
  obtain ⟨cores, h⟩ := setMasks_eq s m
  rw [h]

@[simp] theorem pend_setMasks : (setMasks s m).crier.pend = s.crier.pend := by
  obtain ⟨cores, h⟩ := setMasks_eq s m
  rw [h]

@[simp] theorem active_setMasks : (setMasks s m).crier.active = s.crier.active := by
  obtain ⟨cores, h⟩ := setMasks_eq s m
  rw [h]

theorem only_setMasks : Only [.hif, .crier] s (setMasks s m) := by
  obtain ⟨cores, h⟩ := setMasks_eq s m
  rw [h]
  intro p hp
  cases p
  case hif => exact absurd (by decide) hp
  case crier => exact absurd (by decide) hp
  all_goals rfl

theorem hif_setMasks : (setMasks s m).hif = maskedHif s m := by
  obtain ⟨cores, h⟩ := setMasks_eq s m
  rw [h]

@[simp] theorem reg_setMasks (a : Nat) : reg (setMasks s m) a = reg s a :=
  congrArg (fun r => mapGet (resetWord a) r a) (regs_setMasks s m)

@[simp] theorem reg64_setMasks (a : Nat) : reg64 (setMasks s m) a = reg64 s a := by
  rw [reg64, reg_setMasks, reg_setMasks, reg64]

@[simp] theorem regF_setMasks (a hi lo : Nat) : regF (setMasks s m) a hi lo = regF s a hi lo := congrArg (fget · hi lo) (reg_setMasks s m a)

@[simp] theorem targets_setMasks : targets (setMasks s m) = targets s := by
  funext v id
  simp only [targets, regBit, regF, reg_setMasks]
end

-- The cores' stacks and masks (R431).

theorem stack_maskCore (l : Store Core) (x : Nat × Bool × Bool) (n : Nat) :
    (mapGet coreIdle (maskCore l x) n).stack = (mapGet coreIdle l n).stack := by
  rw [maskCore, mapGet_mapMod]
  split_ifs with h
  · rw [h]
  · rfl

/-- A source that wakes a core leaves the core's stack and mask as they were. -/
theorem getCore_wakeCore (s : State) (id n : Nat) :
    (getCore (wakeCore s id) n).stack = (getCore s n).stack ∧ (getCore (wakeCore s id) n).masked = (getCore s n).masked := by
  unfold wakeCore getCore
  dsimp only
  split
  · rw [mapGet_mapMod]
    split_ifs with h
    · rw [h]
      exact ⟨rfl, rfl⟩
    · exact ⟨rfl, rfl⟩
  · exact ⟨rfl, rfl⟩

theorem getCore_wakeCores (s : State) (n : Nat) :
    (getCore (wakeCores s) n).stack = (getCore s n).stack ∧ (getCore (wakeCores s) n).masked = (getCore s n).masked :=
  forEach_keeps (P := fun u => (getCore u n).stack = (getCore s n).stack ∧ (getCore u n).masked = (getCore s n).masked)
    (fun u x hu => ⟨(getCore_wakeCore u x n).1.trans hu.1, (getCore_wakeCore u x n).2.trans hu.2⟩) _ ⟨rfl, rfl⟩

theorem stack_setMasks (s : State) (m : CrierMasks) (n : Nat) : (getCore (setMasks s m) n).stack = (getCore s n).stack := by
  rw [setMasks_def, (getCore_wakeCores _ n).1]
  change (mapGet coreIdle (maskedCores s m) n).stack = _
  unfold maskedCores
  split
  · exact List.foldlRecOn m.cores maskCore (motive := fun l => (mapGet coreIdle l n).stack = (getCore s n).stack) rfl
      fun l hl x _ => (stack_maskCore l x n).trans hl
  · rfl

/-- The mask of the one core that changed is as the core gave it. -/
theorem masked_setMasks {s : State} {m : CrierMasks} (hfw : fwRuns s = true) (h : m.cores.length = 1) :
    m.cores.all (fun x => (getCore (setMasks s m) x.1).masked == x.2.1) = true := by
  obtain ⟨x, hx⟩ := List.length_eq_one_iff.mp h
  have hcore : (getCore (setMasks s m) x.1).masked = x.2.1 := by
    rw [setMasks_def, (getCore_wakeCores _ x.1).2]
    change (mapGet coreIdle (maskedCores s m) x.1).masked = _
    rw [maskedCores, if_pos hfw, hx, List.foldl_cons, List.foldl_nil, maskCore, mapGet_mapMod, if_pos rfl]
  simp [hx, hcore]

-- What a dispatch commits (R427 to R431).

theorem dispatch_of_takesVec {s : State} {v : Nat} (h : takesVec s = some v) : dispatch s = commitVec s v := by
  unfold takesVec at h
  obtain ⟨x, hx, hv⟩ := Option.bind_eq_some_iff.mp h
  split_ifs at hv with hall
  obtain rfl := Option.some.inj hv
  unfold dispatch
  cases hc : bestOf (coreCands s) with
  | none => simp [hx]
  | some c =>
    have hle : c.1 ≤ x.1 := by simpa [hc] using hall
    simp [hx, hle]

theorem dispatch_of_takesCore {s : State} {id : Nat} (h : takesCore s = some id) : dispatch s = commitCore s id := by
  unfold takesCore at h
  obtain ⟨c, hc, hid⟩ := Option.bind_eq_some_iff.mp h
  split_ifs at hid with hall
  obtain rfl := Option.some.inj hid
  unfold dispatch
  cases hv : bestOf (vecCands s) with
  | none => simp [hc]
  | some v =>
    have hlt : v.1 < c.1 := by simpa [hv] using hall
    simp [hc, Nat.not_le.mpr hlt]

theorem dispatch_of_none {s : State} (hv : takesVec s = none) (hc : takesCore s = none) : dispatch s = s := by
  unfold takesVec at hv
  unfold takesCore at hc
  unfold dispatch
  cases hbv : bestOf (vecCands s) with
  | none =>
    cases hbc : bestOf (coreCands s) with
    | none => rfl
    | some c => simp [hbv, hbc] at hc
  | some v =>
    cases hbc : bestOf (coreCands s) with
    | none => simp [hbv, hbc] at hv
    | some c =>
      simp only [hbv, hbc, Option.bind_some, Option.all_some, decide_eq_true_eq, ite_eq_right_iff, reduceCtorEq, imp_false] at hv hc
      omega

theorem crierComplete_dispatchNone (m : CrierMasks) (s : State) (hv : takesVec (setMasks s m) = none) (hc : takesCore (setMasks s m) = none) :
    Completes (.dispatchCommit m) s fun t => Only [.hif, .crier] s t ∧ t.crier.pend = s.crier.pend ∧ t.crier.active = s.crier.active
      ∧ (m.msix.isSome = true → s.hif.perst = false → s.top.inReset = false → m.msix = some (t.hif.msixOn, t.hif.msixMask))
      ∧ (m.msix = none → t.hif = s.hif)
      ∧ (m.cores.length = 1 → fwRuns s = true → m.cores.all (fun x => (getCore t x.1).masked == x.2.1) = true) := by
  refine ⟨_, congrArg Host.Outcome.next (dispatch_of_none hv hc), only_setMasks s m, pend_setMasks s m, active_setMasks s m,
    fun hsome hp hr => ?_, fun hnone => ?_, fun hlen hfw => masked_setMasks hfw hlen⟩
  · obtain ⟨x, hx⟩ := Option.isSome_iff_exists.mp hsome
    rw [hif_setMasks, maskedHif, hx]
    simp [hp, hr]
  · rw [hif_setMasks, maskedHif, hnone]

/-- A vector whose entry or function is masked, or with MSI-X disabled, keeps its sources pending with its PBA bit set (R429). -/
theorem crierComplete_dispatchMasked (m : CrierMasks) (v : Nat) (s : State) (hv : takesVec (setMasks s m) = some v)
    (hmask : msixMasked (setMasks s m) v = true) :
    Completes (.dispatchCommit m) s fun t => (getVec t v).held = true ∧ regBit t (aHif (0x90000 + v / 32 * 4)) (v % 32) = true
      ∧ t.out = s.out ∧ t.crier.pend = s.crier.pend := by
  have hexec : exec (.dispatchCommit m) s = .next (commitVec (setMasks s m) v) := congrArg Host.Outcome.next (dispatch_of_takesVec hv)
  rw [commitVec, if_pos hmask] at hexec
  refine ⟨_, hexec, ?_, regBit_setBit_same (Nat.mod_lt _ (by decide)), out_setMasks s m, pend_setMasks s m⟩
  change (mapGet vecIdle (mapMod vecIdle (setMasks s m).crier.vecs v fun x => { x with held := true }) v).held = true
  rw [mapGet_mapMod, if_pos rfl]

/-- The state in which an unmasked vector has sent its MSI-X entry and taken its pending enabled sources into service. -/
def sentVec (s : State) (v : Nat) : State :=
  pbaSet { emit s (.msix (reg64 s (aHif (0x80000 + 16 * v))) (reg s (aHif (0x80008 + 16 * v)))) with
    crier := { s.crier with
      pend := s.crier.pend.filter fun id => !(s.crier.pend.filter (targets s v)).contains id
      active := s.crier.active ++ (s.crier.pend.filter (targets s v)).map (·, v)
      vecs := mapPut vecIdle s.crier.vecs v { vecIdle with inService := true } } } v false

theorem commitVec_unmasked {s : State} {v : Nat} (h : msixMasked s v = false) :
    commitVec s v = if regBit s (aVec v 4) 31 then eoiVec (sentVec s v) v else sentVec s v := by
  have hreg : regBit (sentVec s v) (aVec v 4) 31 = regBit s (aVec v 4) 31 := by
    refine regBit_setBit_ne (.inl ?_)
    simp only [aVec, aCri, aHif]
    omega
  rw [← hreg, commitVec, if_neg (by rw [h]; decide)]
  rfl

theorem pend_sentVec (s : State) (v : Nat) : (sentVec s v).crier.pend = s.crier.pend.filter (fun i => !targets s v i) := by
  change s.crier.pend.filter (fun id => !(s.crier.pend.filter (targets s v)).contains id) = _
  refine List.filter_congr fun id hid => ?_
  congr 1
  rw [Bool.eq_iff_iff, List.contains_iff_mem, List.mem_filter]
  exact ⟨And.right, fun h => ⟨hid, h⟩⟩

theorem getVec_sentVec (s : State) (v : Nat) : getVec (sentVec s v) v = { vecIdle with inService := true } := mapGet_mapPut_same

theorem crierComplete_dispatchSent (m : CrierMasks) (v : Nat) (s : State) (hv : takesVec (setMasks s m) = some v)
    (hmask : msixMasked (setMasks s m) v = false) (hauto : regBit s (aVec v 4) 31 = false) :
    Completes (.dispatchCommit m) s fun t =>
      t.out = s.out ++ [.msix (reg64 s (aHif (0x80000 + 16 * v))) (reg s (aHif (0x80008 + 16 * v)))]
      ∧ getVec t v = { vecIdle with inService := true } ∧ t.crier.pend = s.crier.pend.filter (fun i => !targets s v i)
      ∧ regBit t (aHif (0x90000 + v / 32 * 4)) (v % 32) = false
      ∧ t.crier.active = s.crier.active ++ (s.crier.pend.filter (targets s v)).map (·, v) := by
  have hexec : exec (.dispatchCommit m) s = .next (commitVec (setMasks s m) v) := congrArg Host.Outcome.next (dispatch_of_takesVec hv)
  rw [commitVec_unmasked hmask, if_neg (by rw [regBit_of_reg (reg_setMasks s m _), hauto]; decide)] at hexec
  refine ⟨_, hexec, ?_, getVec_sentVec _ _, ?_, regBit_setBit_same (Nat.mod_lt _ (by decide)), ?_⟩
  · change (setMasks s m).out ++ [.msix (reg64 (setMasks s m) _) (reg (setMasks s m) _)] = _
    rw [out_setMasks, reg64_setMasks, reg_setMasks]
  · rw [pend_sentVec, pend_setMasks, targets_setMasks]
  · change (setMasks s m).crier.active ++ ((setMasks s m).crier.pend.filter (targets (setMasks s m) v)).map (·, v) = _
    rw [active_setMasks, pend_setMasks, targets_setMasks]

theorem crierComplete_dispatchAutoEoi (m : CrierMasks) (v : Nat) (s : State) (hv : takesVec (setMasks s m) = some v)
    (hmask : msixMasked (setMasks s m) v = false) (hauto : regBit s (aVec v 4) 31 = true) :
    Completes (.dispatchCommit m) s fun t =>
      t.out = s.out ++ [.msix (reg64 s (aHif (0x80000 + 16 * v))) (reg s (aHif (0x80008 + 16 * v)))]
      ∧ (getVec t v).inService = false ∧ t.crier.active = s.crier.active.filter (·.2 != v) := by
  have hexec : exec (.dispatchCommit m) s = .next (commitVec (setMasks s m) v) := congrArg Host.Outcome.next (dispatch_of_takesVec hv)
  rw [commitVec_unmasked hmask, if_pos (by rw [regBit_of_reg (reg_setMasks s m _), hauto])] at hexec
  have hin : (getVec (sentVec (setMasks s m) v) v).inService = true := by rw [getVec_sentVec]
  refine ⟨_, hexec, ?_, inService_eoiVec hin, ?_⟩
  · have hout : (eoiVec (sentVec (setMasks s m) v) v).out = (sentVec (setMasks s m) v).out :=
      Only.eoiVec (fr := [.crier]) _ _ (Only.refl _) (by decide) .out (by decide)
    rw [hout]
    change (setMasks s m).out ++ [.msix (reg64 (setMasks s m) _) (reg (setMasks s m) _)] = _
    rw [out_setMasks, reg64_setMasks, reg_setMasks]
  · rw [active_eoiVec hin]
    change ((setMasks s m).crier.active ++ ((setMasks s m).crier.pend.filter (targets (setMasks s m) v)).map (·, v)).filter _ = _
    have hmine : (((setMasks s m).crier.pend.filter (targets (setMasks s m) v)).map (·, v)).filter (·.2 != v) = [] := by
      rw [List.filter_eq_nil_iff]
      intro x hx
      obtain ⟨i, -, rfl⟩ := List.mem_map.mp hx
      simp
    rw [List.filter_append, hmine, List.append_nil, active_setMasks]

theorem crierComplete_dispatchCore (m : CrierMasks) (id : Nat) (s : State) (hc : takesCore (setMasks s m) = some id) :
    Completes (.dispatchCommit m) s fun t => t.crier.pend = s.crier.pend.erase id ∧ (id, 4096 + regF s (aSrc id) 1 0) ∈ t.crier.active
      ∧ (getCore t (regF s (aSrc id) 1 0)).stack = (regF s (aSrc id) 27 24, id) :: (getCore s (regF s (aSrc id) 1 0)).stack := by
  have hexec : exec (.dispatchCommit m) s = .next (commitCore (setMasks s m) id) := congrArg Host.Outcome.next (dispatch_of_takesCore hc)
  rw [commitCore, regF_setMasks, regF_setMasks] at hexec
  refine ⟨_, hexec, congrArg (List.erase · id) (pend_setMasks s m), List.mem_append_right _ (List.mem_singleton_self _), ?_⟩
  rw [getCore, mapGet_mapMod, if_pos rfl, ← stack_setMasks s m]
  rfl

-- The ends of service (R430, R431).

theorem crierComplete_vecEoi (v : Nat) (s : State) (hv : v < 2048) (hr : s.top.inReset = false) (hs : shut s (aVec v 8) = false) :
    Completes (.vecEoi v) s fun t =>
      ((getVec s v).inService = true → (getVec t v).inService = false ∧ t.crier.active = s.crier.active.filter (·.2 != v)
        ∧ (s.crier.active.all fun x => x.2 != v || !s.crier.line.contains x.1 || t.crier.pend.contains x.1) = true)
      ∧ ((getVec s v).inService = false → t.crier = s.crier) := by
  refine ⟨_, exec_vecEoi hv hr hs, fun hin => ⟨inService_eoiVec hin, active_eoiVec hin, ?_⟩, fun hidle => by rw [eoiVec_of_idle hidle]⟩
  rw [List.all_eq_true]
  intro x hx
  by_cases hxv : x.2 = v
  · by_cases hline : x.1 ∈ s.crier.line
    · have hpend : x.1 ∈ (eoiVec s v).crier.pend := (mem_pend_eoiVec hin).mpr (.inr ⟨hxv ▸ hx, hline⟩)
      simp [hpend]
    · simp [hline]
  · simp [hxv]

/-- The core's stack without its top, a level source whose line stands pending again (R431). -/
def popped (s : State) (n id : Nat) (rest : List (Nat × Nat)) : State :=
  { s with crier := { s.crier with
      cores := mapMod coreIdle s.crier.cores n fun c => { c with stack := rest }
      active := s.crier.active.filter (· != (id, 4096 + n))
      pend := if s.crier.line.contains id then addOnce s.crier.pend id else s.crier.pend } }

theorem crierComplete_coreEoi (n : Nat) (s : State) :
    Completes (.coreEoi n) s fun t => t.regs = s.regs ∧ (getCore t n).stack = (getCore s n).stack.drop 1
      ∧ ((getCore s n).stack = [] → t.crier = s.crier)
      ∧ ((getCore s n).stack.head?.all fun x => !s.crier.line.contains x.2 || t.crier.pend.contains x.2) = true := by
  cases hst : (getCore s n).stack with
  | nil =>
    have hexec : exec (.coreEoi n) s = .next s := by
      change execCoreEoi n s = _
      rw [execCoreEoi, hst]
    exact ⟨s, hexec, rfl, by rw [hst, List.drop_nil], fun _ => rfl, rfl⟩
  | cons x rest =>
    obtain ⟨prio, id⟩ := x
    have hexec : exec (.coreEoi n) s = .next (wakeCores (popped s n id rest)) := by
      change execCoreEoi n s = _
      rw [execCoreEoi, hst, popped]
      dsimp only
      split <;> rfl
    obtain ⟨cores, hcores⟩ := wakeCores_eq (popped s n id rest)
    refine ⟨_, hexec, by rw [hcores]; rfl, ?_, fun h => absurd h (List.cons_ne_nil _ _), ?_⟩
    · rw [(getCore_wakeCores _ n).1]
      change (mapGet coreIdle (mapMod coreIdle s.crier.cores n fun c => { c with stack := rest }) n).stack = _
      rw [mapGet_mapMod, if_pos rfl]
      rfl
    · by_cases hline : id ∈ s.crier.line
      · have hpend : id ∈ addOnce s.crier.pend id := mem_addOnce_iff.mpr (.inr rfl)
        rw [hcores]
        simp [popped, hline, hpend]
      · simp [hline]

-- First errors (R433, R434).

/-- The first-error record of a source (Table FLT-1): the clock, the access, its requester, its address and the syndrome. -/
def firstRecord (s : State) (id access requester address syndrome : Nat) : State :=
  let a := aFlt (0x10000 + 0x20 * id)
  let s := setReg s a (BitVec.ofNat 32 (2 ^ 31 + s.clock.ns % 2 ^ 30))
  let s := setReg s (a + 4) (BitVec.ofNat 32 s.clock.sec)
  let s := setReg s (a + 8) (BitVec.ofNat 32 ((s.clock.sec >>> 32) % 65536 + (id % 4096 + access * 4096) * 65536))
  let s := setReg s (a + 12) (BitVec.ofNat 32 (requester % 65536 + 65536))
  setReg64 (setReg64 s (a + 16) address) (a + 24) syndrome

section
variable (s : State) (id access requester address syndrome : Nat)

/-- What is recorded beside the record itself, the count, the journal's entry and the first of all errors, touches no record. -/
theorem reg_fault_first {a : Nat} (h : regBit s (aFlt (0x10000 + 0x20 * id)) 31 = false) (hlow : aFlt 0x24 < a) (hhigh : a < aFlt 0x40000) :
    reg (fault s id access requester address syndrome) a = reg (firstRecord s id access requester address syndrome) a := by
  have ha : a < aFlt 0x20 ∨ (aFlt 0x24 < a ∧ a < aFlt 0x40000) := .inr ⟨hlow, hhigh⟩
  have hjrn : ∀ e, reg (jrnOweFault (add64 (firstRecord s id access requester address syndrome) (aFlt 0x10) 1) e) a
      = reg (firstRecord s id access requester address syndrome) a := fun e => by
    simp only [aFlt] at hlow
    rw [reg_jrnOweFault_low e ha, add64, reg_setReg64_ne] <;> simp only [aFlt] <;> omega
  rw [fault, reg_raise_low id ha]
  unfold faultRecord
  dsimp only
  rw [if_neg (by rw [h]; decide)]
  split
  · exact hjrn _
  · rw [reg_raise_low 0xE03 ha, reg_setReg_ne]
    · exact hjrn _
    · simp only [aFlt] at hlow ⊢
      omega

theorem reg_firstRecord_status :
    reg (firstRecord s id access requester address syndrome) (aFlt (0x10000 + 0x20 * id)) = BitVec.ofNat 32 (2 ^ 31 + s.clock.ns % 2 ^ 30) := by
  unfold firstRecord
  dsimp only
  simp (disch := omega) only [reg_setReg64_ne, reg_setReg_ne, reg_setReg_same]

theorem reg_firstRecord_seconds :
    reg (firstRecord s id access requester address syndrome) (aFlt (0x10000 + 0x20 * id) + 4) = BitVec.ofNat 32 s.clock.sec := by
  unfold firstRecord
  dsimp only
  simp (disch := omega) only [reg_setReg64_ne, reg_setReg_ne, reg_setReg_same, setReg_clock]

theorem reg_firstRecord_access :
    reg (firstRecord s id access requester address syndrome) (aFlt (0x10000 + 0x20 * id) + 8)
      = BitVec.ofNat 32 ((s.clock.sec >>> 32) % 65536 + (id % 4096 + access * 4096) * 65536) := by
  unfold firstRecord
  dsimp only
  simp (disch := omega) only [reg_setReg64_ne, reg_setReg_ne, reg_setReg_same, setReg_clock]

theorem reg_firstRecord_requester :
    reg (firstRecord s id access requester address syndrome) (aFlt (0x10000 + 0x20 * id) + 12) = BitVec.ofNat 32 (requester % 65536 + 65536) := by
  unfold firstRecord
  dsimp only
  simp (disch := omega) only [reg_setReg64_ne, reg_setReg_same]

theorem reg64_firstRecord_address :
    reg64 (firstRecord s id access requester address syndrome) (aFlt (0x10000 + 0x20 * id) + 16) = address % 2 ^ 64 := by
  unfold firstRecord
  dsimp only
  rw [reg64_of_reg (reg_setReg64_ne _ _ (by omega) (by omega)) (reg_setReg64_ne _ _ (by omega) (by omega)), reg64_setReg64]

theorem reg64_firstRecord_syndrome :
    reg64 (firstRecord s id access requester address syndrome) (aFlt (0x10000 + 0x20 * id) + 24) = syndrome % 2 ^ 64 :=
  reg64_setReg64 _ _ _

/-- While a record is held, a fault only counts: in the record's own field and in FLT.COUNT1. -/
theorem fault_of_held (h : regBit s (aFlt (0x10000 + 0x20 * id)) 31 = true) :
    fault s id access requester address syndrome = raise (add64 (satF s (aFlt (0x10000 + 0x20 * id) + 12) 31 16 1) (aFlt 0x18) 1) id := by
  rw [fault, faultRecord]
  exact congrArg (raise · id) (if_pos h)
end

theorem crierComplete_crossingFault (receiver sender handshake : Nat) (s : State) (hrec : receiver ≤ 128) :
    Completes (.crossingFault receiver sender handshake) s fun t => 0x010 + receiver ∈ t.crier.pend
      ∧ (regBit s (aFlt (0x10000 + 0x20 * (0x010 + receiver))) 31 = false → regBit t (aFlt (0x10000 + 0x20 * (0x010 + receiver))) 31 = true
        ∧ regF t (aFlt (0x10000 + 0x20 * (0x010 + receiver))) 29 0 = s.clock.ns % 2 ^ 30
        ∧ (reg t (aFlt (0x10000 + 0x20 * (0x010 + receiver)) + 4)).toNat = s.clock.sec % 2 ^ 32
        ∧ (reg t (aFlt (0x10000 + 0x20 * (0x010 + receiver)) + 8)).toNat
          = (s.clock.sec >>> 32) % 65536 + (0x010 + receiver) * 65536 + 8 * 2 ^ 28
        ∧ reg t (aFlt (0x10000 + 0x20 * (0x010 + receiver)) + 12) = 0x0001FFFF
        ∧ reg64 t (aFlt (0x10000 + 0x20 * (0x010 + receiver)) + 16) = receiver + sender % 256 * 256
        ∧ reg64 t (aFlt (0x10000 + 0x20 * (0x010 + receiver)) + 24) = handshake % 256)
      ∧ (regBit s (aFlt (0x10000 + 0x20 * (0x010 + receiver))) 31 = true →
        regF t (aFlt (0x10000 + 0x20 * (0x010 + receiver)) + 12) 31 16
          = min 65535 (regF s (aFlt (0x10000 + 0x20 * (0x010 + receiver)) + 12) 31 16 + 1)
        ∧ reg t (aFlt (0x10000 + 0x20 * (0x010 + receiver))) = reg s (aFlt (0x10000 + 0x20 * (0x010 + receiver)))
        ∧ reg64 t (aFlt (0x10000 + 0x20 * (0x010 + receiver)) + 16) = reg64 s (aFlt (0x10000 + 0x20 * (0x010 + receiver)) + 16)
        ∧ reg64 t (aFlt 0x18) = (reg64 s (aFlt 0x18) + 1) % 2 ^ 64) := by
  have hexec : exec (.crossingFault receiver sender handshake) s
      = .next (fault s (0x010 + receiver) 8 0xFFFF (receiver + sender % 256 * 256) (handshake % 256)) :=
    congrArg Host.Outcome.next (if_neg (by simpa using hrec))
  have ha : aFlt (0x10000 + 0x20 * (0x010 + receiver)) = 0x310200 + 0x20 * receiver := by
    simp only [aFlt]
    omega
  refine ⟨_, hexec, mem_raise _ _, fun hfree => ?_, fun hheld => ?_⟩
  · have hreg : ∀ k < 32, reg (fault s (0x010 + receiver) 8 0xFFFF (receiver + sender % 256 * 256) (handshake % 256))
        (aFlt (0x10000 + 0x20 * (0x010 + receiver)) + k)
        = reg (firstRecord s (0x010 + receiver) 8 0xFFFF (receiver + sender % 256 * 256) (handshake % 256))
          (aFlt (0x10000 + 0x20 * (0x010 + receiver)) + k) := fun k hk =>
      reg_fault_first _ _ _ _ _ _ hfree (by rw [ha, aFlt]; omega) (by rw [ha, aFlt]; omega)
    have hstatus := (hreg 0 (by decide)).trans (reg_firstRecord_status s (0x010 + receiver) _ _ _ _)
    rw [Nat.add_zero] at hstatus
    have hns : s.clock.ns % 2 ^ 30 < 2 ^ 30 := Nat.mod_lt _ (by decide)
    refine ⟨?_, ?_, ?_, ?_, ?_, ?_, ?_⟩
    · rw [regBit, hstatus, BitVec.getLsbD_ofNat, Nat.testBit_two_pow_add_eq, Nat.testBit_lt_two_pow (by omega)]
      rfl
    · rw [regF, hstatus, fget, nbits, BitVec.toNat_ofNat]
      omega
    · rw [hreg 4 (by decide), reg_firstRecord_seconds, BitVec.toNat_ofNat]
    · rw [hreg 8 (by decide), reg_firstRecord_access, BitVec.toNat_ofNat]
      omega
    · rw [hreg 12 (by decide), reg_firstRecord_requester]
      rfl
    · rw [reg64_of_reg (hreg 16 (by decide)) (hreg 20 (by decide)), reg64_firstRecord_address]
      omega
    · rw [reg64_of_reg (hreg 24 (by decide)) (hreg 28 (by decide)), reg64_firstRecord_syndrome]
      omega
  · rw [fault_of_held _ _ _ _ _ _ hheld]
    have hsat : ∀ b, aFlt 0x24 < b → b < aFlt 0x40000 →
        reg (raise (add64 (satF s (aFlt (0x10000 + 0x20 * (0x010 + receiver)) + 12) 31 16 1) (aFlt 0x18) 1) (0x010 + receiver)) b
          = reg (satF s (aFlt (0x10000 + 0x20 * (0x010 + receiver)) + 12) 31 16 1) b := fun b hlow hhigh => by
      simp only [aFlt] at hlow
      rw [reg_raise_low _ (.inr ⟨by simpa only [aFlt] using hlow, hhigh⟩), reg_add64_ne] <;> simp only [aFlt] <;> omega
    have hother : ∀ k < 32, k ≠ 12 →
        reg (raise (add64 (satF s (aFlt (0x10000 + 0x20 * (0x010 + receiver)) + 12) 31 16 1) (aFlt 0x18) 1) (0x010 + receiver))
          (aFlt (0x10000 + 0x20 * (0x010 + receiver)) + k) = reg s (aFlt (0x10000 + 0x20 * (0x010 + receiver)) + k) := fun k hk hne => by
      rw [hsat _ (by rw [ha, aFlt]; omega) (by rw [ha, aFlt]; omega), satF, reg_setF_ne (by omega)]
    refine ⟨?_, hother 0 (by decide) (by decide), reg64_of_reg (hother 16 (by decide) (by decide)) (hother 20 (by decide) (by decide)), ?_⟩
    · rw [regF_of_reg (hsat _ (by rw [ha, aFlt]; omega) (by rw [ha, aFlt]; omega)), satF, regF_setF_same (by decide), satAdd]
      omega
    · rw [reg64_of_reg (reg_raise_low _ (.inl (by decide))) (reg_raise_low _ (.inl (by decide))), reg64_add64_same, satF,
        reg64_of_reg (reg_setF_ne (by rw [ha, aFlt]; omega)) (reg_setF_ne (by rw [ha, aFlt]; omega))]

/-- Settles O41, clause by clause. -/
theorem crierComplete : Obligations.CrierComplete := by
  unfold Obligations.CrierComplete
  exact ⟨fun value s _ => crierComplete_sourceForce value s,
    fun src value s _ => crierComplete_srcCfgWrite src value s,
    fun src value s _ => crierComplete_srcCfgRefused src value s,
    crierComplete_vectorTimer,
    fun src value s _ => crierComplete_srcCfgFirmware src value s,
    crierComplete_dispatchNone,
    fun m v s _ _ => crierComplete_dispatchMasked m v s,
    fun m v s _ _ => crierComplete_dispatchSent m v s,
    fun m v s _ _ => crierComplete_dispatchAutoEoi m v s,
    crierComplete_dispatchCore,
    crierComplete_vecEoi,
    crierComplete_coreEoi,
    fun receiver sender handshake s _ => crierComplete_crossingFault receiver sender handshake s⟩

end Sys2Proof.Proofs
end

section
/-!
The ports of the chain: what says which ports there are and what they do, and what a source, a token and a queued message leave of it.
-/
namespace Sys2Proof.Proofs

open Sys2Proof Sys2Proof.Machine Sys2Proof.Laws

-- The lane islands' registers, which say what ports there are (R130, R136).

/-- The written registers of the lane islands, as the register store holds them. -/
def laneRegs (s : State) : Store Word := s.regs.filter fun x => decide (0x1000000 ≤ x.1) && decide (x.1 < 0x2000000)

theorem filter_mapPut {α : Type} [DecidableEq α] {d v : α} {k : Nat} {p : Nat × α → Bool} (h : ∀ x, x.1 = k → p x = false) (m : Store α) :
    (mapPut d m k v).filter p = m.filter p := by
  have hk : ∀ w, p (k, w) = false := fun w => h _ rfl
  induction m with
  | nil =>
    unfold mapPut
    split
    · rfl
    · simp [hk]
  | cons x m ih =>
    obtain ⟨k', v'⟩ := x
    by_cases hkk : k' = k
    · subst hkk
      unfold mapPut
      split_ifs <;> simp_all
    · unfold mapPut
      split_ifs <;> simp_all [List.filter_cons]

/-- An address outside the lane islands. -/
def offLanes (a : Nat) : Prop := a < 0x1000000 ∨ 0x2000000 ≤ a

theorem laneRegs_setReg {s : State} {a : Nat} {v : Word} (h : offLanes a) : laneRegs (setReg s a v) = laneRegs s := by
  refine filter_mapPut (fun x hx => ?_) s.regs
  rw [Bool.and_eq_false_iff, decide_eq_false_iff_not, decide_eq_false_iff_not]
  unfold offLanes at h
  omega

theorem laneRegs_setReg64 {s : State} {a v : Nat} (h : offLanes a) (h4 : offLanes (a + 4)) : laneRegs (setReg64 s a v) = laneRegs s :=
  (laneRegs_setReg h4).trans (laneRegs_setReg h)

theorem mapGet_filter {α : Type} {d : α} {k : Nat} {p : Nat × α → Bool} (h : ∀ x, x.1 = k → p x = true) (m : Store α) :
    mapGet d (m.filter p) k = mapGet d m k := by
  induction m with
  | nil => rfl
  | cons x m ih =>
    obtain ⟨k', v'⟩ := x
    by_cases hkk : k' = k
    · rw [List.filter_cons, if_pos (h _ hkk)]
      simp only [mapGet, if_pos hkk]
    · rw [List.filter_cons]
      split
      · simp only [mapGet, if_neg hkk, ih]
      · simp only [mapGet, if_neg hkk, ih]

theorem reg_of_laneRegs {s t : State} (h : laneRegs t = laneRegs s) {a : Nat} (hlow : 0x1000000 ≤ a) (hhigh : a < 0x2000000) :
    reg t a = reg s a := by
  have hfilter : ∀ u : State, mapGet (resetWord a) (laneRegs u) a = reg u a := fun u =>
    mapGet_filter (fun x hx => by rw [hx, decide_eq_true hlow, decide_eq_true hhigh]; rfl) u.regs
  rw [← hfilter t, h, hfilter s]

theorem enabledLanes_of_laneRegs {s t : State} (h : laneRegs t = laneRegs s) : enabledLanes t = enabledLanes s := by
  have hfilter : ∀ u : State, enabledLanes u = enabledLanes { u with regs := laneRegs u } := fun u => by
    unfold enabledLanes laneRegs
    rw [List.filterMap_filter]
    refine List.filterMap_congr fun x _ => ?_
    by_cases hx : (decide (0x1000000 ≤ x.1) && decide (x.1 < 0x2000000)) = true
    · exact (if_pos hx).symm
    · have hout : ¬ (0x1000000 ≤ x.1 ∧ x.1 < 0x2000000) := by simpa using hx
      refine Eq.trans (if_neg ?_) (if_neg hx).symm
      omega
  rw [hfilter t, hfilter s, h]
  rfl

theorem portLanes_of_laneRegs {s t : State} (h : laneRegs t = laneRegs s) (l : Nat) : portLanes t l = portLanes s l := by
  unfold portLanes
  split
  · rw [reg_of_laneRegs h] <;> simp only [aLan] <;> omega
  · rfl

theorem enabledPorts_of_laneRegs {s t : State} (h : laneRegs t = laneRegs s) : enabledPorts t = enabledPorts s := by
  unfold enabledPorts
  rw [enabledLanes_of_laneRegs h]
  exact List.filter_congr fun l _ => by rw [portLanes_of_laneRegs h]

theorem lt_of_mem_enabledPorts {s : State} {l : Nat} (h : l ∈ enabledPorts s) : l < 1152 := by
  have hport := (List.mem_filter.mp h).2
  by_contra hl
  rw [portLanes, if_neg hl] at hport
  exact absurd hport (by decide)

theorem reg_aLane_of_laneRegs {s t : State} (h : laneRegs t = laneRegs s) {l o : Nat} (hl : l < 1152) (ho : o < 0x100) :
    reg t (aLane l o) = reg s (aLane l o) := by
  rw [reg_of_laneRegs h] <;> simp only [aLane, aLan] <;> omega

-- What a raised source leaves of them.

theorem laneRegs_setBit {s : State} {a i : Nat} {b : Bool} (h : offLanes a) : laneRegs (setBit s a i b) = laneRegs s := laneRegs_setReg h

theorem laneRegs_graceWith {after : State → State} (hafter : ∀ t, laneRegs (after t) = laneRegs t) (s : State) {id : Nat} (hid : id < 4096) :
    laneRegs (graceWith after s id) = laneRegs s := by
  have hesc : offLanes (aEsc id 0) := .inl (by simp only [aEsc, aFlt]; omega)
  unfold graceWith
  split
  · rfl
  · split
    · rw [hafter]
      exact (laneRegs_setReg64 (.inl (by decide)) (.inl (by decide))).trans (laneRegs_setReg hesc)
    · exact laneRegs_setBit hesc

theorem laneRegs_raise (s : State) {id : Nat} (hid : id < 4096) : laneRegs (raise s id) = laneRegs s :=
  laneRegs_graceWith (after := raiseE00) (fun t => laneRegs_graceWith (after := (pendEvent · 0xE00)) (fun _ => rfl) (pendEvent t 0xE00) (by decide))
    (pendEvent s id) hid

theorem laneRegs_whenB {f : State → State} (hf : ∀ s, laneRegs (f s) = laneRegs s) (b : Bool) (s : State) :
    laneRegs (whenB b f s) = laneRegs s := by
  cases b
  · rfl
  · exact hf s

theorem laneRegs_forEach {α : Type} {f : State → α → State} (hf : ∀ s x, laneRegs (f s x) = laneRegs s) (l : List α) (s : State) :
    laneRegs (forEach l f s) = laneRegs s :=
  forEach_view (V := laneRegs) (fun u x _ => hf u x) s

-- A token that arrives acts on the program domains alone (R120).

theorem offLanes_aDom (d : Dom) {o : Nat} (h : o < 0x100000) : offLanes (aDom d o) := by
  cases d <;> exact .inl (by simp only [aDom, aPrg, domIdx]; omega)

theorem laneRegs_placeGrp (s : State) (g : CommitGrp) (t : Nat) : laneRegs (placeGrp s g t) = laneRegs s := by
  unfold placeGrp
  dsimp only
  rw [laneRegs_whenB fun u => laneRegs_raise u (by decide), laneRegs_forEach fun u d => ?_]
  · rfl
  · exact (laneRegs_setReg64 (offLanes_aDom d (o := 8) (by decide)) (offLanes_aDom d (o := 12) (by decide))).trans
      ((laneRegs_setReg (offLanes_aDom d (by decide))).trans (laneRegs_setReg (offLanes_aDom d (by decide))))

theorem laneRegs_tokenArrive (s : State) (id t : Nat) : laneRegs (tokenArrive s id t) = laneRegs s := by
  unfold tokenArrive
  dsimp only
  rw [laneRegs_whenB fun u => laneRegs_raise u (by decide), laneRegs_forEach fun u g => ?_]
  have hbits : ∀ v : State, laneRegs (forEach g.doms (fun s d => setBit s (aDom d 0) 7 true) v) = laneRegs v := fun v =>
    laneRegs_forEach (fun w d => laneRegs_setBit (offLanes_aDom d (by decide))) _ v
  rw [laneRegs_whenB fun v => laneRegs_raise v (by decide), laneRegs_placeGrp, laneRegs_whenB hbits]

theorem mem_pend_tokenArrive {s : State} {id t : Nat} (h : (s.prg.groups.any fun g => g.token == some id && g.t.isNone) = true) :
    0x206 ∈ (tokenArrive s id t).crier.pend := by
  have hmine : (!(s.prg.groups.filter fun g => g.token == some id && g.t.isNone).isEmpty) = true := by
    obtain ⟨g, hg, ht⟩ := List.any_eq_true.mp h
    rw [Bool.not_eq_true', List.isEmpty_eq_false_iff_exists_mem]
    exact ⟨g, List.mem_filter.mpr ⟨hg, ht⟩⟩
  unfold tokenArrive
  dsimp only
  rw [hmine]
  exact mem_raise _ _

-- Queued messages (R388).

theorem getAin_queueMsg_ne {s : State} {l l' : Nat} (m : AinMsg) (h : l' ≠ l) : getAin (queueMsg s l m) l' = getAin s l' :=
  mapGet_mapPut_ne h

theorem getAin_queueMsg_same (s : State) (l : Nat) (m : AinMsg) : getAin (queueMsg s l m) l
    = { getAin s l with pend := (getAin s l).pend.filter (·.type != m.type) ++ [m] } := mapGet_mapPut_same

/-- A message that waits on a port still waits there when the same message is queued anywhere. -/
theorem mem_pend_queueMsg_of_mem {s : State} {l : Nat} {m : AinMsg} (l' : Nat) (h : m ∈ (getAin s l).pend) :
    m ∈ (getAin (queueMsg s l' m) l).pend := by
  by_cases hl : l = l'
  · exact hl ▸ mem_pend_queueMsg s l m
  · rw [getAin_queueMsg_ne m hl]
    exact h

theorem mem_pend_sendToken {ports : List Nat} {l : Nat} (h : l ∈ ports) (s : State) (hop payload : Nat) :
    mkMsg 7 5 (hop % 256) payload ∈ (getAin (sendToken s ports hop payload) l).pend :=
  forEach_brings (P := fun u => mkMsg 7 5 (hop % 256) payload ∈ (getAin u l).pend) (f := fun s l => queueMsg s l (mkMsg 7 5 (hop % 256) payload))
    (fun u => mem_pend_queueMsg u l _) (fun _ l' hu => mem_pend_queueMsg_of_mem l' hu) h s

theorem tokens_sendToken (ports : List Nat) (s : State) (hop payload : Nat) : (sendToken s ports hop payload).ainum.tokens = s.ainum.tokens :=
  forEach_view (V := fun u => u.ainum.tokens) (f := fun s l => queueMsg s l (mkMsg 7 5 (hop % 256) payload)) (fun _ _ _ => rfl) s

theorem only_sendToken (ports : List Nat) (s : State) (hop payload : Nat) : Only [.ainum] s (sendToken s ports hop payload) :=
  Only.sendToken _ _ _ _ (Only.refl s) (by decide)

-- The ports that tokens go out on (R397, R398).

/-- From `s` to `t` no register changed that says which ports there are and what they do on the chain. -/
structure ChainKept (s t : State) : Prop where
  lanes : laneRegs t = laneRegs s
  ports : ∀ o, o < 0x20 ∨ 0x10000 ≤ o → o < 0x100000 → reg t (aAin o) = reg s (aAin o)
  top : t.top = s.top

theorem ChainKept.role {s t : State} (h : ChainKept s t) {l : Nat} (hl : l < 1152) : ainRole t l = ainRole s l :=
  regF_of_reg (h.ports _ (.inr (by omega)) (by omega)) 31 30

theorem ChainKept.looped {s t : State} (h : ChainKept s t) {l : Nat} (hl : l < 1152) : looped t l = looped s l :=
  regBit_of_reg (h.ports _ (.inr (by omega)) (by omega)) 30

theorem ChainKept.auth {s t : State} (h : ChainKept s t) : ainAuth t = ainAuth s :=
  regBit_of_reg (h.ports 0 (.inl (by decide)) (by decide)) 31

theorem ChainKept.peer {s t : State} (h : ChainKept s t) {l : Nat} (hl : l < 1152) : ainPeer t l = ainPeer s l :=
  regBit_of_reg (reg_aLane_of_laneRegs h.lanes hl (by decide)) 25

theorem ChainKept.live {s t : State} (h : ChainKept s t) {l : Nat} (hl : l < 1152) : ainLive t l = ainLive s l := by
  have hcarries : carries t l = carries s l := by
    unfold carries portState
    rw [aPortState, regF_of_reg (reg_aLane_of_laneRegs h.lanes hl (by decide))]
  have hen : ainumEn t l = ainumEn s l := regBit_of_reg (reg_aLane_of_laneRegs h.lanes hl (by decide)) 28
  have hdown : islandDown t (72 + l / 32) = islandDown s (72 + l / 32) := by
    unfold islandDown islandHeld
    rw [h.top]
  rw [ainLive, ainLive, portLanes_of_laneRegs h.lanes, hcarries, hen, hdown]

theorem goPorts_of_chainKept {s t : State} (h : ChainKept s t) : goPorts t = goPorts s := by
  have hpeer : peerPorts t = peerPorts s := by
    unfold peerPorts
    rw [enabledPorts_of_laneRegs h.lanes]
    refine List.filter_congr fun l hl => ?_
    have hlt := lt_of_mem_enabledPorts hl
    rw [h.live hlt, h.peer hlt, h.looped hlt]
  unfold goPorts
  rw [hpeer]
  refine List.filter_congr fun l hl => ?_
  rw [h.role (lt_of_mem_enabledPorts (List.mem_filter.mp hl).1)]

theorem tokenPorts_of_chainKept {s t : State} (h : ChainKept s t) (port : Nat)
    (hkey : ∀ l, (getAin t l).linkKey = (getAin s l).linkKey) : tokenPorts t port = tokenPorts s port := by
  unfold tokenPorts
  rw [enabledPorts_of_laneRegs h.lanes]
  refine List.filter_congr fun l hl => ?_
  have hlt := lt_of_mem_enabledPorts hl
  rw [h.role hlt, h.live hlt, h.looped hlt, h.auth, hkey]

end Sys2Proof.Proofs
end

section
/-!
Proofs of the statements on TOKEN_CTRL.GO: the token is acted on, shown and queued (R397).
-/
namespace Sys2Proof.Proofs

open Sys2Proof Sys2Proof.Machine Sys2Proof.Laws

-- What a token that arrives leaves of Ainum's registers (R120).

theorem reg_raise_aAin (s : State) {id o : Nat} (hid : id < 4096) : reg (raise s id) (aAin o) = reg s (aAin o) := by
  refine reg_raise_ne ?_ ?_ ?_ ?_ <;> simp only [aAin, aEsc, aFlt] <;> omega

theorem aAin_ne_aDom {o k : Nat} (d : Dom) (h : o < 0x100000) : aAin o ≠ aDom d k := by
  simp only [aAin, aDom, aPrg]
  omega

theorem reg_placeGrp_aAin (s : State) (g : CommitGrp) (t : Nat) {o : Nat} (h : o < 0x100000) :
    reg (placeGrp s g t) (aAin o) = reg s (aAin o) := by
  unfold placeGrp
  dsimp only
  rw [reg_whenB fun u => reg_raise_aAin u (by decide), reg_forEach fun u d => ?_]
  · rfl
  · rw [setDomT, reg_setReg64_ne _ _ (aAin_ne_aDom (k := 8) d h) (aAin_ne_aDom (k := 12) d h), reg_setF_ne (aAin_ne_aDom d h), reg_setBit_ne (aAin_ne_aDom d h)]

theorem reg_tokenArrive_aAin (s : State) (id t : Nat) {o : Nat} (h : o < 0x100000) :
    reg (tokenArrive s id t) (aAin o) = reg s (aAin o) := by
  unfold tokenArrive
  dsimp only
  rw [reg_whenB fun u => reg_raise_aAin u (by decide), reg_forEach fun u g => ?_]
  have hbits : ∀ v : State, reg (forEach g.doms (fun s d => setBit s (aDom d 0) 7 true) v) (aAin o) = reg v (aAin o) := fun v =>
    reg_forEach (fun w d => reg_setBit_ne (aAin_ne_aDom d h)) _ v
  rw [reg_whenB fun v => reg_raise_aAin v (by decide), reg_placeGrp_aAin _ _ _ h, reg_whenB hbits]

theorem only_tokenArrive (s : State) (id t : Nat) : Only [.regs, .owed, .prg, .crier, .flt] s (tokenArrive s id t) :=
  Only.tokenArrive _ _ _ (Only.refl s) (by decide) (by decide) (by decide) (by decide) (by decide)

-- TOKEN_CTRL.GO (R397).

/-- The instant of the token that GO sends, in ns, and the token's payload. -/
def goNs (s : State) : Nat := reg64 s (aAin 0x28) % 2 ^ 48 * nsPerSec + regF s (aAin 0x30) 29 0
def goPayload (s : State) : Nat :=
  (reg s (aAin 0x20)).toNat * 2 ^ 88 + reg64 s (aAin 0x28) % 2 ^ 48 * 2 ^ 40 + regF s (aAin 0x30) 29 0 * 1024

/-- The token of the registers acted on here, with BUSY set (R397). -/
def goArrived (s : State) : State := tokenArrive (setBit s (aAin 0x34) 30 true) (reg s (aAin 0x20)).toNat (goNs s)

/-- The token shown in TOKEN_LAST, and the ports that it is still to be sent on. -/
def goShown (s : State) : State := setReg (goArrived s) (aAin 0x40) (BitVec.ofNat 32 (reg s (aAin 0x20)).toNat)
def goWaits (s : State) (on : List Nat) : State := { goShown s with ainum := { (goShown s).ainum with goLeft := on } }

/-- The token queued on them. -/
def goQueued (s : State) : State := sendToken (goWaits s (goPorts s)) (goPorts s) 0 (goPayload s)

theorem reg_goShown {s : State} {o : Nat} (h34 : o ≠ 0x34) (h40 : o ≠ 0x40) (h : o < 0x100000) : reg (goShown s) (aAin o) = reg s (aAin o) := by
  have hne : ∀ k, o ≠ k → aAin o ≠ aAin k := fun k hk => by
    simp only [aAin]
    omega
  rw [goShown, reg_setReg_ne (hne _ h40), goArrived, reg_tokenArrive_aAin _ _ _ h, reg_setBit_ne (hne _ h34)]

theorem chainKept_goShown (s : State) : ChainKept s (goShown s) where
  lanes := by
    rw [goShown, laneRegs_setReg (.inl (by decide)), goArrived, laneRegs_tokenArrive, laneRegs_setBit (.inl (by decide))]
  ports := fun o ho h => reg_goShown (by omega) (by omega) h
  top := only_tokenArrive (setBit s (aAin 0x34) 30 true) _ _ .top (by decide)

theorem exec_tokenGo {s : State} (hr : s.top.inReset = false) (hs : shut s (aAin 0x34) = false) (hbusy : regBit s (aAin 0x34) 30 = false) :
    exec .tokenGo s = .next (if (goPorts s).isEmpty then goSent (goQueued s) 1152 else goQueued s) := by
  have hports : goPorts (goShown s) = goPorts s := goPorts_of_chainKept (chainKept_goShown s)
  have hgo : exec .tokenGo s = .next (if (goPorts (goShown s)).isEmpty then
      goSent (sendToken (goWaits s (goPorts (goShown s))) (goPorts (goShown s)) 0 (goPayload s)) 1152
      else sendToken (goWaits s (goPorts (goShown s))) (goPorts (goShown s)) 0 (goPayload s)) := by
    change execTokenGo s = _
    rw [execTokenGo, holdWrite_open (show islandAt (aAin 0x34) = 126 by decide) hr hs, if_neg (by rw [hbusy]; decide)]
    rfl
  rw [hgo, hports]
  rfl

theorem exec_tokenGo_busy {s : State} (hr : s.top.inReset = false) (hs : shut s (aAin 0x34) = false) (hbusy : regBit s (aAin 0x34) 30 = true) :
    exec .tokenGo s = .next s := by
  change execTokenGo s = _
  rw [execTokenGo, holdWrite_open (show islandAt (aAin 0x34) = 126 by decide) hr hs, if_pos hbusy]

theorem only_goSent (s : State) (l : Nat) : Only [.regs, .owed, .ainum, .crier, .flt] s (goSent s l) :=
  Only.goSent _ _ (Only.refl s) (by decide) (by decide) (by decide) (by decide) (by decide)

theorem prg_goQueued (s : State) : (goQueued s).prg = (goArrived s).prg := only_sendToken _ _ _ _ .prg (by decide)

theorem mem_pend_goQueued {s : State} {l : Nat} (h : l ∈ goPorts s) : mkMsg 7 5 0 (goPayload s) ∈ (getAin (goQueued s) l).pend :=
  mem_pend_sendToken h (goWaits s (goPorts s)) 0 (goPayload s)

theorem mem_goPorts_ne_nil {s : State} {l : Nat} (h : l ∈ goPorts s) : ¬ (goPorts s).isEmpty = true := by
  rw [List.isEmpty_iff]
  exact List.ne_nil_of_mem h

/-- Settles O12: the token of the registers is acted on, and queued on the ports with ROLE DOWN or PEER that have a peer. -/
theorem tokenGoSendsAndActs : Obligations.TokenGoSendsAndActs := by
  unfold Obligations.TokenGoSendsAndActs
  refine ⟨fun s hr hs hbusy => ⟨_, exec_tokenGo hr hs hbusy, ?_, fun l hl => ?_⟩,
    fun s hr hs hbusy => ⟨s, exec_tokenGo_busy hr hs hbusy, Only.refl s⟩⟩
  · split
    · exact (only_goSent (goQueued s) 1152 .prg (by decide)).trans (prg_goQueued s)
    · exact prg_goQueued s
  · rw [if_neg (mem_goPorts_ne_nil hl)]
    exact mem_pend_goQueued hl

theorem reg_goQueued (s : State) (a : Nat) : reg (goQueued s) a = reg (goShown s) a := reg_of_only (only_sendToken _ _ _ _) (by decide) a

theorem busy_goShown (s : State) : regBit (goShown s) (aAin 0x34) 30 = true := by
  rw [goShown, regBit_of_reg (reg_setReg_ne (by decide)), goArrived, regBit_of_reg (reg_tokenArrive_aAin _ _ _ (by decide)),
    regBit_setBit_same (by decide)]

/-- With no port to send on, GO is done at once. -/
theorem goSent_goQueued {s : State} (h : (goPorts s).isEmpty = true) :
    goSent (goQueued s) 1152 = raise (setBit (goQueued s) (aAin 0x34) 30 false) 0xB04 := by
  have hnil : goPorts s = [] := List.isEmpty_iff.mp h
  have hq : goQueued s = goWaits s [] := by
    rw [goQueued, hnil]
    rfl
  have hleft : (goQueued s).ainum.goLeft = [] := by rw [hq, goWaits]
  have hbusy : regBit (goQueued s) (aAin 0x34) 30 = true := (regBit_of_reg (reg_goQueued s _) 30).trans (busy_goShown s)
  have hsame : { goQueued s with ainum := { (goQueued s).ainum with goLeft := [] } } = goQueued s := by
    rw [hq, goWaits]
  unfold goSent
  dsimp only
  rw [hleft, List.filter_nil, hsame, hbusy]
  rfl

theorem tokensComplete_go (s : State) (hr : s.top.inReset = false) (hs : shut s (aAin 0x34) = false) (hbusy : regBit s (aAin 0x34) 30 = false) :
    Completes .tokenGo s fun t => reg t (aAin 0x40) = reg s (aAin 0x20) ∧ regBit t (aAin 0x34) 30 = !(goPorts s).isEmpty
      ∧ ((goPorts s).isEmpty = true → 0xB04 ∈ t.crier.pend)
      ∧ (s.prg.groups.any (fun g => g.token == some (reg s (aAin 0x20)).toNat && g.t.isNone) = true → 0x206 ∈ t.crier.pend)
      ∧ (goPorts s).all (fun l => (getAin t l).pend.contains (mkMsg 7 5 0 ((reg s (aAin 0x20)).toNat * 2 ^ 88
          + reg64 s (aAin 0x28) % 2 ^ 48 * 2 ^ 40 + regF s (aAin 0x30) 29 0 * 1024))) = true := by
  have hlast : reg (goQueued s) (aAin 0x40) = reg s (aAin 0x20) := by
    rw [reg_goQueued, goShown, reg_setReg_same, BitVec.ofNat_toNat, BitVec.setWidth_eq]
  have hcommit : s.prg.groups.any (fun g => g.token == some (reg s (aAin 0x20)).toNat && g.t.isNone) = true → 0x206 ∈ (goQueued s).crier.pend := by
    intro hg
    have hp : (goQueued s).crier = (goArrived s).crier := only_sendToken _ _ _ _ .crier (by decide)
    rw [hp]
    exact mem_pend_tokenArrive (s := setBit s (aAin 0x34) 30 true) hg
  refine ⟨_, exec_tokenGo hr hs hbusy, ?_⟩
  by_cases hnone : (goPorts s).isEmpty = true
  · rw [if_pos hnone, goSent_goQueued hnone]
    refine ⟨?_, ?_, fun _ => mem_raise _ _, fun hg => mem_raise_of_mem (hcommit hg), by rw [List.isEmpty_iff.mp hnone]; rfl⟩
    · rw [reg_raise_aAin _ (by decide), reg_setBit_ne (by decide), hlast]
    · rw [regBit_of_reg (reg_raise_aAin _ (by decide)), regBit_setBit_same (by decide), hnone]
      rfl
  · rw [if_neg hnone]
    refine ⟨hlast, ?_, fun h => absurd h hnone, hcommit, ?_⟩
    · rw [regBit_of_reg (reg_goQueued s _), busy_goShown, Bool.not_eq_true _ |>.mp hnone]
      rfl
    · exact List.all_eq_true.mpr fun l hl => List.contains_iff_mem.mpr (mem_pend_goQueued hl)

theorem tokensComplete_goBusy (s : State) (hr : s.top.inReset = false) (hs : shut s (aAin 0x34) = false) (hbusy : regBit s (aAin 0x34) 30 = true) :
    Completes .tokenGo s fun t => t.ainum = s.ainum ∧ t.prg = s.prg ∧ reg t (aAin 0x40) = reg s (aAin 0x40) :=
  ⟨s, exec_tokenGo_busy hr hs hbusy, rfl, rfl, rfl⟩

end Sys2Proof.Proofs
end

section
/-!
Proofs of the statement on tokens and cap notices: what the acceptance of a message leaves, and what a TOKEN then does (R398, R400).
-/
namespace Sys2Proof.Proofs

open Sys2Proof Sys2Proof.Machine Sys2Proof.Laws

-- A message that is accepted (R386 to R389, R391).

/-- What the acceptance of a message on port `l` leaves: it is counted in MSGS_RECEIVED, and under AUTH = 1 its counter is the port's last. -/
structure TakenOn (s : State) (l : Nat) (u : State) : Prop where
  only : Only [.regs, .ainum] s u
  reg : ∀ a, a ∉ [aAin 0x108, aAin 0x10C, aSec 0x200, aSec 0x204] → reg u a = reg s a
  lanes : laneRegs u = laneRegs s
  port : ∃ c, getAin u l = { getAin s l with rxCtr := c }
  other : ∀ l', l' ≠ l → getAin u l' = getAin s l'
  tokens : u.ainum.tokens = s.ainum.tokens

theorem reg_ainCount {s : State} {a : Nat} (k : Nat) (h : a ≠ aAin (0x100 + 8 * k)) (h4 : a ≠ aAin (0x100 + 8 * k) + 4) :
    reg (ainCount s k) a = reg s a := by
  rw [ainCount, reg_add64_ne h h4]

theorem laneRegs_ainCount (s : State) (k : Nat) (hk : k < 0x100) : laneRegs (ainCount s k) = laneRegs s :=
  laneRegs_setReg64 (.inl (by simp only [aAin]; omega)) (.inl (by simp only [aAin]; omega))

theorem ainReceive_accepted {s : State} {l : Nat} {m : AinMsg} (h : (ainReceive s l m).2 = true) :
    (ainReceive s l m).1 = ainCount s 1
      ∨ ∃ c, (ainReceive s l m).1 = ainCount (setAin (secCount s 0) l { getAin s l with rxCtr := some c }) 1 := by
  unfold ainReceive at h ⊢
  split_ifs at h ⊢
  · exact .inl rfl
  · dsimp only at h ⊢
    split at h
    · cases h
    · split_ifs at h ⊢
      exact .inr ⟨_, rfl⟩

theorem takenOn_ainReceive {s : State} {l : Nat} {m : AinMsg} (h : (ainReceive s l m).2 = true) : TakenOn s l (ainReceive s l m).1 := by
  rcases ainReceive_accepted h with hu | ⟨c, hu⟩ <;> rw [hu]
  · exact {
      only := Only.add64 _ _ _ (Only.refl s) (by decide)
      reg := fun a ha => by
        simp only [List.mem_cons, List.not_mem_nil, or_false, not_or] at ha
        exact reg_ainCount 1 ha.1 ha.2.1
      lanes := laneRegs_ainCount s 1 (by decide)
      port := ⟨_, rfl⟩
      other := fun _ _ => rfl
      tokens := rfl }
  · exact {
      only := Only.add64 _ _ _ (Only.setAin _ _ _ (Only.add64 _ _ _ (Only.refl s) (by decide)) (by decide)) (by decide)
      reg := fun a ha => by
        simp only [List.mem_cons, List.not_mem_nil, or_false, not_or] at ha
        exact (reg_ainCount 1 ha.1 ha.2.1).trans (reg_add64_ne ha.2.2.1 ha.2.2.2)
      lanes := (laneRegs_ainCount _ 1 (by decide)).trans (laneRegs_setReg64 (.inl (by decide)) (.inl (by decide)))
      port := ⟨some c, mapGet_mapPut_same⟩
      other := fun l' hl => mapGet_mapPut_ne hl
      tokens := rfl }

theorem reg_raiseLimited_aAin {s : State} {id : Nat} (ns : Nat) {o : Nat} (hid : id < 4096) : reg (raiseLimited s id ns) (aAin o) = reg s (aAin o) := by
  rw [raiseLimited]
  split
  · exact reg_raise_aAin _ hid
  · rfl

section
variable {s u : State} {l : Nat}

theorem TakenOn.pend (h : TakenOn s l u) (l' : Nat) : (getAin u l').pend = (getAin s l').pend := by
  by_cases hl : l' = l
  · obtain ⟨c, hc⟩ := h.port
    rw [hl, hc]
  · rw [h.other l' hl]

theorem TakenOn.linkKey (h : TakenOn s l u) (l' : Nat) : (getAin u l').linkKey = (getAin s l').linkKey := by
  by_cases hl : l' = l
  · obtain ⟨c, hc⟩ := h.port
    rw [hl, hc]
  · rw [h.other l' hl]

/-- A register of Ainum beside the counter of received messages. -/
theorem TakenOn.aAin (h : TakenOn s l u) {o : Nat} (ho : o < 0x100 ∨ 0x110 ≤ o) (hhigh : o < 0x100000) :
    Machine.reg u (Machine.aAin o) = Machine.reg s (Machine.aAin o) := by
  refine h.reg _ ?_
  simp only [List.mem_cons, List.not_mem_nil, or_false, not_or, Machine.aAin, aSec]
  omega

theorem TakenOn.chainKept (h : TakenOn s l u) : ChainKept s u where
  lanes := h.lanes
  ports := fun o ho hhigh => h.aAin (by omega) hhigh
  top := h.only .top (by decide)

theorem TakenOn.elapsed (h : TakenOn s l u) : u.elapsed = s.elapsed := h.only .elapsed (by decide)
end

/-- A message of the TYPE that the command takes, once accepted, has the command's effect. -/
theorem ainTake_of_accepted {s : State} {l t : Nat} {m : AinMsg} (h : Accepted s l t m) (f : State → State) :
    ainTake s l t m f = f (ainReceive s l m).1 := by
  obtain ⟨ht, hr⟩ := h
  unfold ainTake
  rw [if_neg (by simp [ht])]
  dsimp only
  rw [if_pos hr]

-- TOKEN (R398).

/-- The tokens of the last 10 s. -/
def recentTokens (s : State) : List (Nat × Nat × Nat) := s.ainum.tokens.filter fun x => decide (s.elapsed < x.2.2 + 10000000000)

/-- A new token remembered, acted on and shown in TOKEN_LAST. -/
def tokenHeard (msg : AinMsg) (s : State) : State :=
  { s with ainum := { s.ainum with tokens := (nbits msg.payload 119 88, tokenNs msg, s.elapsed) :: recentTokens s } }
def tokenShown (msg : AinMsg) (s : State) : State :=
  raise (setReg (tokenArrive (tokenHeard msg s) (nbits msg.payload 119 88) (tokenNs msg)) (aAin 0x40)
    (BitVec.ofNat 32 (nbits msg.payload 119 88))) 0xB03

/-- The token counted and queued, its hop count raised, on the ports that it goes out on. -/
def tokenSent (port : Nat) (msg : AinMsg) (t : State) : State :=
  sendToken (add64 t (aAin 0x128) (tokenPorts t port).length) (tokenPorts t port) (msg.arg + 1) (msg.payload / 1024 * 1024)

/-- What a token does in the state that accepted it. -/
def tokenTaken (port : Nat) (msg : AinMsg) (s : State) : State :=
  if ainRole s port = 0 then s
  else if ainRole s port = 2 then raiseLimited (ainCount s 7) 0xB06 1000000
  else if (recentTokens s).any fun x => x.1 == nbits msg.payload 119 88 && x.2.1 == tokenNs msg then ainCount s 6
  else tokenSent port msg (tokenShown msg s)

theorem exec_token {port : Nat} {msg : AinMsg} {s : State} (h : Accepted s port 7 msg) :
    exec (.token port msg) s = .next (tokenTaken port msg (ainReceive s port msg).1) :=
  congrArg Host.Outcome.next (ainTake_of_accepted h (tokenTaken port msg))

/-- A port on which a message is accepted has lanes. -/
theorem lt_of_accepted {s : State} {l t : Nat} {m : AinMsg} (h : Accepted s l t m) : l < 1152 := by
  have hlive : ainLive s l = true := by
    by_contra hl
    have hr := h.2
    unfold ainReceive at hr
    rw [if_pos (by rw [Bool.not_eq_true _ |>.mp hl]; rfl)] at hr
    cases hr
  by_contra hl
  simp [ainLive, portLanes, hl] at hlive

theorem recentTokens_any (s : State) (msg : AinMsg) :
    ((recentTokens s).any fun x => x.1 == nbits msg.payload 119 88 && x.2.1 == tokenNs msg) = knownToken s msg := by
  rw [recentTokens, List.any_filter, knownToken]
  simp only [Bool.and_assoc]

section
variable {port : Nat} {msg : AinMsg} {s : State}

theorem tokenTaken_new {u : State} (h0 : ainRole u port ≠ 0) (h2 : ainRole u port ≠ 2) (hnew : knownToken u msg = false) :
    tokenTaken port msg u = tokenSent port msg (tokenShown msg u) := by
  rw [tokenTaken, if_neg h0, if_neg h2, if_neg]
  rw [recentTokens_any, hnew]
  decide

theorem tokenTaken_known {u : State} (h0 : ainRole u port ≠ 0) (h2 : ainRole u port ≠ 2) (hknown : knownToken u msg = true) :
    tokenTaken port msg u = ainCount u 6 := by
  rw [tokenTaken, if_neg h0, if_neg h2, if_pos]
  rw [recentTokens_any, hknown]

theorem TakenOn.knownToken {u : State} (h : TakenOn s port u) (msg : AinMsg) : Machine.knownToken u msg = Machine.knownToken s msg := by
  unfold Machine.knownToken
  rw [h.tokens, h.elapsed]

theorem reg_tokenShown {u : State} {o : Nat} (h40 : o ≠ 0x40) (h : o < 0x100000) : reg (tokenShown msg u) (aAin o) = reg u (aAin o) := by
  rw [tokenShown, reg_raise_aAin _ (by decide), reg_setReg_ne (by simp only [aAin]; omega), reg_tokenArrive_aAin _ _ _ h]
  rfl

theorem chainKept_tokenShown (msg : AinMsg) (u : State) : ChainKept u (tokenShown msg u) where
  lanes := by
    rw [tokenShown, laneRegs_raise _ (by decide), laneRegs_setReg (.inl (by decide)), laneRegs_tokenArrive]
    rfl
  ports := fun o ho h => reg_tokenShown (by omega) h
  top := by
    have hr : (tokenShown msg u).top = (tokenArrive (tokenHeard msg u) (nbits msg.payload 119 88) (tokenNs msg)).top :=
      Only.raise (fr := [.regs, .owed, .crier, .flt]) _ _ (Only.setReg (Only.refl _) (by decide)) (by decide) (by decide) (by decide)
        (by decide) .top (by decide)
    exact hr.trans (only_tokenArrive _ _ _ .top (by decide))

theorem ainum_tokenShown (msg : AinMsg) (u : State) : (tokenShown msg u).ainum = (tokenHeard msg u).ainum := by
  have hr : (tokenShown msg u).ainum = (tokenArrive (tokenHeard msg u) (nbits msg.payload 119 88) (tokenNs msg)).ainum :=
    Only.raise (fr := [.regs, .owed, .crier, .flt]) _ _ (Only.setReg (Only.refl _) (by decide)) (by decide) (by decide) (by decide)
      (by decide) .ainum (by decide)
  exact hr.trans (only_tokenArrive _ _ _ .ainum (by decide))

theorem getAin_tokenShown (msg : AinMsg) (u : State) (l : Nat) : getAin (tokenShown msg u) l = getAin u l := by
  rw [getAin, ainum_tokenShown]
  rfl

theorem ChainKept.trans {s t u : State} (h : ChainKept s t) (k : ChainKept t u) : ChainKept s u :=
  ⟨k.lanes.trans h.lanes, fun o ho hh => (k.ports o ho hh).trans (h.ports o ho hh), k.top.trans h.top⟩

theorem tokensComplete_new (hacc : Accepted s port 7 msg) (hrole : ainRole s port = 1 ∨ ainRole s port = 3) (hnew : knownToken s msg = false) :
    Completes (.token port msg) s fun t => (reg t (aAin 0x40)).toNat = nbits msg.payload 119 88 ∧ 0xB03 ∈ t.crier.pend
      ∧ t.ainum.tokens.head? = some (nbits msg.payload 119 88, tokenNs msg, s.elapsed)
      ∧ (s.prg.groups.any (fun g => g.token == some (nbits msg.payload 119 88) && g.t.isNone) = true → 0x206 ∈ t.crier.pend)
      ∧ (tokenPorts s port).all (fun l => (getAin t l).pend.contains (mkMsg 7 5 ((msg.arg + 1) % 256) (msg.payload / 1024 * 1024))) = true := by
  obtain ⟨u, hu⟩ : ∃ u, u = (ainReceive s port msg).1 := ⟨_, rfl⟩
  have htaken : TakenOn s port u := hu ▸ takenOn_ainReceive hacc.2
  have hr : ainRole u port = ainRole s port := htaken.chainKept.role (lt_of_accepted hacc)
  have hexec := exec_token hacc
  rw [← hu, tokenTaken_new (by omega) (by omega) ((htaken.knownToken msg).trans hnew)] at hexec
  have hports : tokenPorts (tokenShown msg u) port = tokenPorts s port :=
    tokenPorts_of_chainKept (htaken.chainKept.trans (chainKept_tokenShown msg u)) port fun l => by
      rw [getAin_tokenShown, htaken.linkKey]
  have hsent : Only [.ainum] (add64 (tokenShown msg u) (aAin 0x128) (tokenPorts (tokenShown msg u) port).length) (tokenSent port msg (tokenShown msg u)) :=
    only_sendToken _ _ _ _
  have hpend : (tokenSent port msg (tokenShown msg u)).crier = (tokenShown msg u).crier := hsent .crier (by decide)
  refine ⟨_, hexec, ?_, ?_, ?_, fun hg => ?_, ?_⟩
  · rw [reg_of_only hsent (by decide), reg_add64_ne (by decide) (by decide), tokenShown, reg_raise_aAin _ (by decide), reg_setReg_same,
      BitVec.toNat_ofNat]
    exact Nat.mod_eq_of_lt (Nat.mod_lt _ (by decide))
  · rw [hpend]
    exact mem_raise _ _
  · rw [tokenSent, tokens_sendToken]
    change (tokenShown msg u).ainum.tokens.head? = _
    rw [ainum_tokenShown, ← htaken.elapsed]
    rfl
  · rw [hpend]
    refine mem_raise_of_mem (mem_pend_tokenArrive (s := tokenHeard msg u) ?_)
    have hprg : u.prg = s.prg := htaken.only .prg (by decide)
    change (u.prg.groups.any _) = true
    rw [hprg]
    exact hg
  · rw [← hports]
    exact List.all_eq_true.mpr fun l hl => List.contains_iff_mem.mpr (mem_pend_sendToken hl _ _ _)

/-- A token that is not taken leaves the tokens, the messages and the domains as its acceptance did. -/
theorem tokensComplete_counted {k : Nat} (hacc : Accepted s port 7 msg) (hk : k = 6 ∨ k = 7) {t : State}
    (hexec : exec (.token port msg) s = .next t) (hainum : t.ainum = (ainReceive s port msg).1.ainum) (hprg : t.prg = (ainReceive s port msg).1.prg)
    (hreg : reg64 t (aAin (0x100 + 8 * k)) = (reg64 (ainReceive s port msg).1 (aAin (0x100 + 8 * k)) + 1) % 2 ^ 64) :
    Completes (.token port msg) s fun t => reg64 t (aAin (0x100 + 8 * k)) = (reg64 s (aAin (0x100 + 8 * k)) + 1) % 2 ^ 64 ∧ t.ainum.tokens = s.ainum.tokens
      ∧ (tokenPorts s port).all (fun l => (getAin t l).pend == (getAin s l).pend) = true ∧ t.prg = s.prg := by
  have htaken := takenOn_ainReceive hacc.2
  refine ⟨t, hexec, ?_, by rw [hainum, htaken.tokens], ?_, hprg.trans (htaken.only .prg (by decide))⟩
  · rw [hreg, reg64_of_reg (htaken.aAin (by omega) (by omega)) (htaken.aAin (o := 0x100 + 8 * k + 4) (by omega) (by omega))]
  · refine List.all_eq_true.mpr fun l _ => ?_
    rw [getAin, hainum, beq_iff_eq]
    exact htaken.pend l

theorem tokensComplete_known (hacc : Accepted s port 7 msg) (hrole : ainRole s port = 1 ∨ ainRole s port = 3) (hknown : knownToken s msg = true) :
    Completes (.token port msg) s fun t => reg64 t (aAin 0x130) = (reg64 s (aAin 0x130) + 1) % 2 ^ 64 ∧ t.ainum.tokens = s.ainum.tokens
      ∧ (tokenPorts s port).all (fun l => (getAin t l).pend == (getAin s l).pend) = true ∧ t.prg = s.prg := by
  have htaken := takenOn_ainReceive hacc.2
  have hr := htaken.chainKept.role (lt_of_accepted hacc)
  have hexec := exec_token hacc
  rw [tokenTaken_known (by omega) (by omega) ((htaken.knownToken msg).trans hknown)] at hexec
  exact tokensComplete_counted (k := 6) hacc (.inl rfl) hexec rfl rfl (reg64_add64_same _ _ _)

theorem tokensComplete_wrongPort (hacc : Accepted s port 7 msg) (hrole : ainRole s port = 2) :
    Completes (.token port msg) s fun t => reg64 t (aAin 0x138) = (reg64 s (aAin 0x138) + 1) % 2 ^ 64 ∧ t.ainum.tokens = s.ainum.tokens
      ∧ (tokenPorts s port).all (fun l => (getAin t l).pend == (getAin s l).pend) = true ∧ t.prg = s.prg := by
  have htaken := takenOn_ainReceive hacc.2
  have hr := htaken.chainKept.role (lt_of_accepted hacc)
  have hexec := exec_token hacc
  rw [tokenTaken, if_neg (by omega), if_pos (by omega)] at hexec
  have honly : Only [.regs, .owed, .lastRaise, .crier, .flt] (ainReceive s port msg).1 (raiseLimited (ainCount (ainReceive s port msg).1 7) 0xB06 1000000) :=
    Only.raiseLimited _ _ _ (Only.add64 _ _ _ (Only.refl _) (by decide)) (by decide) (by decide) (by decide) (by decide) (by decide)
  refine tokensComplete_counted (k := 7) hacc (.inr rfl) hexec (honly .ainum (by decide)) (honly .prg (by decide)) ?_
  rw [reg64_of_reg (reg_raiseLimited_aAin _ (by decide)) (reg_raiseLimited_aAin (o := 0x13C) _ (by decide))]
  exact reg64_add64_same _ _ _

theorem tokensComplete_off (hacc : Accepted s port 7 msg) (hrole : ainRole s port = 0) :
    Completes (.token port msg) s fun t => t.ainum.tokens = s.ainum.tokens ∧ t.prg = s.prg ∧ reg t (aAin 0x40) = reg s (aAin 0x40) := by
  have htaken := takenOn_ainReceive hacc.2
  have hr := htaken.chainKept.role (lt_of_accepted hacc)
  have hexec := exec_token hacc
  rw [tokenTaken, if_pos (by omega)] at hexec
  exact ⟨_, hexec, htaken.tokens, htaken.only .prg (by decide), htaken.aAin (by decide) (by decide)⟩

/-- A CAP_NOTICE is shown in CAP_LAST with its port (R400). -/
theorem tokensComplete_capNotice (hacc : Accepted s port 8 msg) :
    Completes (.capNotice port msg) s fun t =>
      reg64 t (aAin 0x48) = 2 ^ 63 + port * 2 ^ 48 + msg.arg % 4 * 2 ^ 46 + nbits msg.payload 71 48 ∧ 0xB05 ∈ t.crier.pend := by
  have hport := lt_of_accepted hacc
  have hbits : nbits msg.payload 71 48 < 2 ^ 24 := Nat.mod_lt _ (by decide)
  refine ⟨_, congrArg Host.Outcome.next (ainTake_of_accepted hacc _), ?_, mem_raise _ _⟩
  rw [reg64_of_reg (reg_raise_aAin _ (by decide)) (reg_raise_aAin (o := 0x4C) _ (by decide)), reg64_setReg64]
  omega
end

/-- Settles O39, clause by clause. -/
theorem tokensComplete : Obligations.TokensComplete := by
  unfold Obligations.TokensComplete
  exact ⟨fun _ _ _ _ => tokensComplete_new, fun _ _ _ _ => tokensComplete_known, fun _ _ _ _ => tokensComplete_wrongPort,
    fun _ _ _ => tokensComplete_off, fun s _ => tokensComplete_go s, tokensComplete_goBusy, fun _ _ _ _ => tokensComplete_capNotice⟩

end Sys2Proof.Proofs
end

section
/-!
Proofs of the statement on the clock and its services: TIME_SET, the timed events, NOW, FREQ, the reference and captures.
-/
namespace Sys2Proof.Proofs

open Sys2Proof Sys2Proof.Machine Sys2Proof.Laws

-- TIME_SET (R353).

theorem form_of_timeSet {c : HostCmd} (h : rowOf c = some .timeSet) : argN c 0 1 % 4 = 0 := by
  unfold rowOf at h
  split at h <;> grind

theorem form_of_timeStep {c : HostCmd} (h : rowOf c = some .timeStep) : argN c 0 1 % 4 = 1 := by
  unfold rowOf at h
  split at h <;> grind

theorem form_of_timeSlew {c : HostCmd} (h : rowOf c = some .timeSlew) : argN c 0 1 % 4 = 2 := by
  unfold rowOf at h
  split at h <;> grind

theorem doTimeSet_set {c : HostCmd} (h : argN c 0 1 % 4 = 0) (s : State) : doTimeSet c s =
    if 999999999 < argN c 16 4 % 2 ^ 30 then complete s c stBadArg
    else setClock c { s.clock with sec := argN c 8 6, ns := argN c 16 4 % 2 ^ 30, frac := argN c 20 2 } s := by
  rw [doTimeSet, h]
  rfl

theorem doTimeSet_step {c : HostCmd} (h : argN c 0 1 % 4 = 1) (s : State) : doTimeSet c s =
    if ((clkNs s * 65536 + s.clock.frac : Nat) : Int) + timeOffset c < 0 then complete s c stBadArg
    else setClock c (clkAdd s.clock (timeOffset c)) s := by
  rw [doTimeSet, h]
  rfl

/-- The clock with a slew begun, and the rest of the last one discarded. -/
def slewBegun (c : HostCmd) (s : State) : State :=
  let t := { s with clock := { s.clock with slewLeft := timeOffset c * 1000000000, slewing := true } }
  setReg64 t (aTim 0x10) (slewLeftReg t.clock)

theorem clock_slewBegun (c : HostCmd) (s : State) :
    (slewBegun c s).clock = { s.clock with slewLeft := timeOffset c * 1000000000, slewing := true } := rfl

theorem doTimeSet_slew {c : HostCmd} (h : argN c 0 1 % 4 = 2) (s : State) : doTimeSet c s =
    if 65536000000000 < timeOffset c ∨ timeOffset c < -65536000000000 then complete s c stBadArg
    else complete (slewBegun c s) c stOk (bytesLE 8 (discarded s)) := by
  rw [doTimeSet, h]
  rfl

-- The timed events (R354), and what they leave of the clock and of the count of doorbells that answers go by.

theorem mem_of_firstDue {l : List (Nat × (State → State))} {e : Nat × (State → State)} (h : firstDue l = some e) : e ∈ l := by
  refine List.foldlRecOn l _ (motive := fun b => ∀ e, b = some e → e ∈ l) (fun _ he => by cases he) (fun b hb x hx e he => ?_) e h
  split at he
  · cases he
    exact hx
  · split_ifs at he
    · cases he
      exact hx
    · exact hb e he

/-- What fires first is a commit, a slot switch or an edge of a pulse; where nothing is due, nothing happens. -/
theorem fireFirst_cases {P : State → Prop} {s : State} (hnone : P s) (hcommit : ∀ d, P (rowState (execCommitInstant d s) s))
    (hswitch : ∀ l, P (takeSwitch s l)) (hedge : ∀ n, P (firePulse n s)) : P (fireFirst s) := by
  unfold fireFirst
  split
  next e he =>
    have hmem := mem_of_firstDue he
    unfold dueEvents at hmem
    simp only [List.mem_append, List.mem_filterMap] at hmem
    rcases hmem with (⟨g, -, hg⟩ | ⟨x, -, hx⟩) | ⟨x, -, hx⟩
    · split at hg
      · split_ifs at hg
        cases hg
        exact hcommit _
      · cases hg
    · split at hx
      · split_ifs at hx
        cases hx
        exact hswitch _
      · cases hx
    · split_ifs at hx
      cases hx
      exact hedge _
  next => exact hnone

theorem oldBell_complete (s : State) (c : HostCmd) (status : Nat) (result : List Byte) :
    (complete s c status result).hif.oldBell = s.hif.oldBell := by
  have horphan : ∀ o, (orphan (dropCmd s (cmdKey c)) o).hif.oldBell = s.hif.oldBell := fun o => by
    unfold orphan
    dsimp only
    split <;> rfl
  unfold complete
  split
  · unfold orphanCmd settleDone
    split
    · rw [raise_hif]
      exact horphan _
    · exact horphan _
  · rfl

theorem hif_switchDom (t : Nat) (s : State) (d : Dom) : (switchDom t s d).hif = s.hif := by
  unfold switchDom
  dsimp only
  rw [raise_hif]
  cases d <;> rfl

/-- The state in which a group's domains have switched at its instant. -/
def switched (g : CommitGrp) (t : Nat) (s : State) : State :=
  commitEvent (forEach g.doms (switchDom t) { s with prg := { s.prg with groups := s.prg.groups.filter (· ≠ g) } }) g (nextVer s) true

theorem commitInstant_due {s : State} {d : Dom} {g : CommitGrp} {t : Nat} (hg : grpOf s d = some g) (ht : g.t = some t) (hdue : t ≤ clkNs s) :
    rowState (execCommitInstant d s) s
      = if g.byCommit then complete (switched g t s) g.cmd stOk (commitResult g.doms (nextVer s) (some t) g.deferred) else switched g t s := by
  unfold execCommitInstant
  rw [hg]
  dsimp only
  rw [ht]
  dsimp only [rowState]
  rw [if_pos hdue]
  rfl

theorem commitInstant_cases (d : Dom) (s : State) : rowState (execCommitInstant d s) s = s
    ∨ ∃ g t, grpOf s d = some g ∧ g.t = some t ∧ t ≤ clkNs s := by
  cases hg : grpOf s d with
  | none =>
    left
    unfold execCommitInstant
    rw [hg]
    rfl
  | some g =>
    cases ht : g.t with
    | none =>
      left
      unfold execCommitInstant
      rw [hg]
      dsimp only
      rw [ht]
      rfl
    | some t =>
      by_cases hdue : t ≤ clkNs s
      · exact .inr ⟨g, t, rfl, ht, hdue⟩
      · left
        unfold execCommitInstant
        rw [hg]
        dsimp only
        rw [ht]
        dsimp only [rowState]
        rw [if_neg hdue]

theorem oldBell_commitInstant (d : Dom) (s : State) : (rowState (execCommitInstant d s) s).hif.oldBell = s.hif.oldBell := by
  rcases commitInstant_cases d s with h | ⟨g, t, hg, ht, hdue⟩
  · rw [h]
  · have hswitched : (switched g t s).hif = s.hif := forEach_view (V := State.hif) (fun v x _ => hif_switchDom t v x) _
    rw [commitInstant_due hg ht hdue]
    split
    · rw [oldBell_complete, hswitched]
    · rw [hswitched]

theorem hif_takeSwitch (s : State) (l : Nat) : (takeSwitch s l).hif = s.hif := by
  unfold takeSwitch
  split
  · rfl
  · exact raise_hif _ _

theorem hif_firePulse (n : Nat) (s : State) : (firePulse n s).hif = s.hif := by
  unfold firePulse
  dsimp only
  split_ifs <;> rfl

theorem oldBell_fireFirst (s : State) : (fireFirst s).hif.oldBell = s.hif.oldBell :=
  fireFirst_cases (P := fun t => t.hif.oldBell = s.hif.oldBell) rfl (fun d => oldBell_commitInstant d s)
    (fun l => congrArg Hif.oldBell (hif_takeSwitch s l)) fun n => congrArg Hif.oldBell (hif_firePulse n s)

theorem hif_captureSnaps (s : State) : (captureSnaps s).hif = s.hif :=
  Only.captureSnaps (fr := [.telem]) s (Only.refl s) (by decide) .hif (by decide)

theorem oldBell_fireDue {f : State → State} (hf : ∀ t, (f t).hif = t.hif) (s : State) : (fireDue f s).hif.oldBell = s.hif.oldBell := by
  rw [fireDue, hif_captureSnaps]
  exact forEach_view (V := fun t : State => t.hif.oldBell) (f := fun s _ => f (fireFirst s))
    (fun t _ _ => (congrArg Hif.oldBell (hf _)).trans (oldBell_fireFirst t)) s

theorem clock_fireDue {f : State → State} (hf : ∀ s t, Only untimed s t → Only untimed s (f t)) (s : State) : (fireDue f s).clock = s.clock :=
  onlyUntimed_fireDue hf s .clock (by decide)

-- TIME_SET sets, steps or slews the clock (R353).

/-- The clock at its new reading, with no slew, and the events that are due by it fired. -/
def clockSet (k : Clock) (s : State) : State :=
  let t := endSlew (fireDue id s)
  fireDue resumePulses (resumePulses (refillFrom { t with clock := { t.clock with sec := k.sec, ns := k.ns, frac := k.frac } }))

theorem setClock_completes (c : HostCmd) (k : Clock) (s : State) : ∃ result, setClock c k s = complete (clockSet k s) c stOk result := by
  unfold setClock clockSet
  exact ⟨_, rfl⟩

theorem clock_clockSet (k : Clock) (s : State) :
    (clockSet k s).clock = { s.clock with sec := k.sec, ns := k.ns, frac := k.frac, slewLeft := 0, slewing := false } := by
  have hclock := clock_fireDue (f := id) (fun _ _ h => h) s
  unfold clockSet
  dsimp only
  rw [clock_fireDue onlyUntimed_resumePulses]
  change Clock.mk k.sec k.ns k.frac (fireDue id s).clock.rem (fireDue id s).clock.running 0 false = _
  rw [hclock]

theorem oldBell_clockSet (k : Clock) (s : State) : (clockSet k s).hif.oldBell = s.hif.oldBell := by
  unfold clockSet
  dsimp only
  rw [oldBell_fireDue (f := resumePulses) (fun _ => rfl)]
  exact oldBell_fireDue (f := id) (fun _ => rfl) s

theorem clock_setClock (c : HostCmd) (k : Clock) (s : State) :
    (setClock c k s).clock = { s.clock with sec := k.sec, ns := k.ns, frac := k.frac, slewLeft := 0, slewing := false } := by
  obtain ⟨result, h⟩ := setClock_completes c k s
  rw [h, complete_clock, clock_clockSet]

theorem reports_setClock {s : State} {c : HostCmd} {row : CmdRow} (h : Ready s c row) (k : Clock) : Reports c stOk (setClock c k s) := by
  obtain ⟨result, hset⟩ := setClock_completes c k s
  rw [hset]
  exact reports_complete_of_oldBell h (oldBell_clockSet k s) _ _

section
variable {cmd : HostCmd} {s : State}

/-- A reading or an offset that is refused leaves the clock as it was. -/
theorem refuses_badArg {row : CmdRow} (h : Ready s cmd row) :
    Reports cmd stBadArg (complete s cmd stBadArg) ∧ (complete s cmd stBadArg).clock = s.clock :=
  ⟨reports_complete h rfl _ _, complete_clock _ _ _ _⟩

theorem timeComplete_set (h : Ready s cmd .timeSet) :
    Completes (.timeSetSet cmd) s fun t =>
      (argN cmd 16 4 % 2 ^ 30 ≤ 999999999 → Reports cmd stOk t ∧ t.clock.sec = argN cmd 8 6
        ∧ t.clock.ns = argN cmd 16 4 % 2 ^ 30 ∧ t.clock.frac = argN cmd 20 2 ∧ t.clock.slewing = false)
      ∧ (999999999 < argN cmd 16 4 % 2 ^ 30 → Reports cmd stBadArg t ∧ t.clock = s.clock) := by
  refine ⟨_, congrArg Host.Outcome.next (runCmd_ready h _), ?_⟩
  rw [doTimeSet_set (form_of_timeSet h.2.1)]
  refine ⟨fun hns => ?_, fun hns => ?_⟩
  · rw [if_neg (by omega), clock_setClock]
    exact ⟨reports_setClock h _, rfl, rfl, rfl, rfl⟩
  · rw [if_pos hns]
    exact refuses_badArg h

theorem timeComplete_step (h : Ready s cmd .timeStep) :
    Completes (.timeSetStep cmd) s fun t =>
      (0 ≤ ((clkNs s * 65536 + s.clock.frac : Nat) : Int) + timeOffset cmd → Reports cmd stOk t
        ∧ t.clock.sec = (clkAdd s.clock (timeOffset cmd)).sec ∧ t.clock.ns = (clkAdd s.clock (timeOffset cmd)).ns
        ∧ t.clock.frac = (clkAdd s.clock (timeOffset cmd)).frac ∧ t.clock.slewing = false)
      ∧ (((clkNs s * 65536 + s.clock.frac : Nat) : Int) + timeOffset cmd < 0 → Reports cmd stBadArg t ∧ t.clock = s.clock) := by
  refine ⟨_, congrArg Host.Outcome.next (runCmd_ready h _), ?_⟩
  rw [doTimeSet_step (form_of_timeStep h.2.1)]
  refine ⟨fun ho => ?_, fun ho => ?_⟩
  · rw [if_neg (by omega), clock_setClock]
    exact ⟨reports_setClock h _, rfl, rfl, rfl, rfl⟩
  · rw [if_pos ho]
    exact refuses_badArg h

theorem timeComplete_slew (h : Ready s cmd .timeSlew) :
    Completes (.timeSetSlew cmd) s fun t =>
      (timeOffset cmd ≤ 65536000000000 → -65536000000000 ≤ timeOffset cmd → Answers cmd stOk (bytesLE 8 (discarded s)) t
        ∧ t.clock.slewing = true ∧ t.clock.slewLeft = timeOffset cmd * 1000000000 ∧ clkNs t = clkNs s)
      ∧ (65536000000000 < timeOffset cmd ∨ timeOffset cmd < -65536000000000 → Reports cmd stBadArg t ∧ t.clock = s.clock) := by
  refine ⟨_, congrArg Host.Outcome.next (runCmd_ready h _), ?_⟩
  rw [doTimeSet_slew (form_of_timeSlew h.2.1)]
  refine ⟨fun hhigh hlow => ?_, fun ho => ?_⟩
  · rw [if_neg (by omega), clkNs, complete_clock, clock_slewBegun]
    exact ⟨answers_complete (s := slewBegun cmd s) h.1 _ _, rfl, rfl, rfl⟩
  · rw [if_pos ho]
    exact refuses_badArg h
end

-- The end of a slew and a lone timed event (R353, R354).

theorem reg_raise_aTim (s : State) {id o : Nat} (hid : id < 4096) : reg (raise s id) (aTim o) = reg s (aTim o) := by
  refine reg_raise_ne ?_ ?_ ?_ ?_ <;> simp only [aTim, aEsc, aFlt] <;> omega

theorem timeComplete_slewEnd (s : State) (hslew : s.clock.slewing = true) (hleft : s.clock.slewLeft = 0) :
    Completes .slewComplete s fun t => t.clock.slewing = false ∧ reg64 t (aTim 0x10) = 0 ∧ 0xA05 ∈ t.crier.pend := by
  refine ⟨_, congrArg Host.Outcome.next (if_pos (by rw [hslew, hleft]; rfl)), ?_, ?_, mem_raise _ _⟩
  · rw [raise_clock]
    rfl
  · rw [reg64_of_reg (reg_raise_aTim _ (by decide)) (reg_raise_aTim (o := 0x14) _ (by decide)), reg64_setReg64]
    rfl

theorem captureSnaps_of_nil {s : State} (h : s.telem.snapJob = []) : captureSnaps s = s := by
  unfold captureSnaps
  rw [h]
  rfl

/-- A lone event that is due fires. -/
theorem fireFirst_of_lone {s : State} {e : Nat × (State → State)} (h : dueEvents s = [e]) : fireFirst s = e.2 s := by
  rw [fireFirst, h]
  rfl

theorem timeComplete_edge (n : Nat) (p : Pulse) (s : State) (hgroups : s.prg.groups = []) (hslots : s.slots = []) (hpulses : s.pulses = [(n, p)])
    (hmode : p.mode ≠ 0) (hlow : p.high = false) (hdue : edgeAt p ≤ clkNs s) (hsnap : s.telem.snapJob = []) :
    Completes .scheduledEventFire s fun t => t.out = s.out ++ [.pulse n (!p.pol)] ∧ getPulse t n = { p with high := true } := by
  have hget : getPulse s n = p := by
    rw [getPulse, hpulses]
    exact if_pos rfl
  have hlone : dueEvents s = [(edgeAt p, fun s => firePulse n s)] := by
    unfold dueEvents
    simp [hgroups, hslots, hpulses, hmode, hdue]
  have hfire : firePulse n s = putPulse (emit s (.pulse n (!p.pol))) n { p with high := true } := by
    unfold firePulse
    dsimp only
    rw [hget, if_neg (by simp [hmode]), if_pos (by simp [hlow])]
  have hexec : exec .scheduledEventFire s = .next (captureSnaps (putPulse (emit s (.pulse n (!p.pol))) n { p with high := true })) :=
    congrArg Host.Outcome.next (congrArg captureSnaps ((fireFirst_of_lone hlone).trans hfire))
  rw [captureSnaps_of_nil (s := putPulse (emit s (.pulse n (!p.pol))) n { p with high := true }) hsnap] at hexec
  exact ⟨_, hexec, rfl, mapGet_mapPut_same⟩

theorem groups_switchDom (t : Nat) (s : State) (d : Dom) : (switchDom t s d).prg.groups = s.prg.groups := by
  unfold switchDom
  dsimp only
  rw [raise_prg]
  cases d <;> rfl

theorem timeComplete_commit (d : Dom) (rest : List Dom) (g : CommitGrp) (n : Nat) (s : State) (hgroups : s.prg.groups = [g]) (ht : g.t = some n)
    (hdoms : g.doms = d :: rest) (hdue : n ≤ clkNs s) (hslots : s.slots = []) (hpulses : s.pulses = []) (_ : s.telem.snapJob = []) :
    Completes .scheduledEventFire s fun t => t.prg.groups = [] ∧ curVer t d = curVer (rowState (execCommitInstant d s) s) d := by
  have hgrp : grpOf s d = some g := by
    rw [grpOf, hgroups]
    simp [hdoms]
  have hlone : dueEvents s = [(n, fun s => rowState (execCommitInstant d s) s)] := by
    unfold dueEvents
    simp [hgroups, hslots, hpulses, ht, hdoms, hdue]
  have hexec : exec .scheduledEventFire s = .next (captureSnaps (rowState (execCommitInstant d s) s)) :=
    congrArg Host.Outcome.next (congrArg captureSnaps (fireFirst_of_lone hlone))
  have hcapture := Only.captureSnaps (fr := [.telem]) (rowState (execCommitInstant d s) s) (Only.refl _) (by decide)
  refine ⟨_, hexec, ?_, regF_of_reg (reg_of_only hcapture (by decide) _) 31 16⟩
  have hprg : (rowState (execCommitInstant d s) s).prg = (switched g n s).prg := by
    rw [commitInstant_due hgrp ht hdue]
    split
    · exact complete_prg _ _ _ _
    · rfl
  have hswitched : (switched g n s).prg.groups = s.prg.groups.filter (· ≠ g) :=
    forEach_view (V := fun u : State => u.prg.groups) (fun v x _ => groups_switchDom n v x) _
  rw [hcapture .prg (by decide), hprg, hswitched, hgroups]
  simp

theorem timeComplete_switch (l : Nat) (x : SlotPair) (s : State) (hgroups : s.prg.groups = []) (hslots : s.slots = [(l, x)])
    (hdue : switchDue s l = true) (hpulses : s.pulses = []) (hsnap : s.telem.snapJob = []) :
    Completes .scheduledEventFire s fun t => getSlots t l = { x with oper := x.staged, armed := none } ∧ 0xA41 + 4 * (l / 32) ∈ t.crier.pend := by
  have hget : getSlots s l = x := by
    rw [getSlots, hslots]
    exact if_pos rfl
  obtain ⟨sw, hsw⟩ : ∃ sw, x.armed = some sw := by
    unfold switchDue at hdue
    rw [hget] at hdue
    split at hdue
    next sw hsw => exact ⟨sw, hsw⟩
    next => cases hdue
  have hlone : dueEvents s = [(sw, fun s => takeSwitch s l)] := by
    unfold dueEvents
    simp [hgroups, hslots, hpulses, hsw, hdue]
  have htake : takeSwitch s l = raise (syncSlotStatus (setBit (setSlots s l { x with oper := x.staged, armed := none }) (aSlot l 4) 1 true) l)
      (0xA41 + 4 * (l / 32)) := by
    unfold takeSwitch
    rw [if_neg (by rw [hdue]; decide), hget]
  have hexec : exec .scheduledEventFire s = .next (captureSnaps (takeSwitch s l)) :=
    congrArg Host.Outcome.next (congrArg captureSnaps (fireFirst_of_lone hlone))
  have htelem : (takeSwitch s l).telem.snapJob = [] := by
    rw [htake, raise_telem]
    exact hsnap
  rw [captureSnaps_of_nil htelem, htake] at hexec
  refine ⟨_, hexec, ?_, mem_raise _ _⟩
  rw [getSlots, raise_slots]
  exact mapGet_mapPut_same

-- NOW, FREQ and the reference (R350 to R352).

theorem timeComplete_nowNs (rq : Requester) (s : State) (h : canAccess s rq = true) :
    Completes (.nowNsRead rq) s fun t => t.out = s.out ++ [.readData (bytesLE 4 s.clock.ns)]
      ∧ (rq, aTim 0x24, BitVec.ofNat 32 s.clock.frac) ∈ t.hif.latches ∧ (rq, aTim 0x28, BitVec.ofNat 32 s.clock.sec) ∈ t.hif.latches
      ∧ (rq, aTim 0x2C, BitVec.ofNat 32 (s.clock.sec >>> 32)) ∈ t.hif.latches := by
  refine ⟨_, congrArg Host.Outcome.next (if_neg (by rw [h]; decide)), rfl, ?_, ?_, ?_⟩
  all_goals simp [latchNow, setLatch, emit, aTim]

theorem timeComplete_freq (value : Word) (s : State) (hr : s.top.inReset = false) (hs : shut s (aTim 4) = false) :
    Completes (.freqWrite value) s fun t => reg t (aTim 4) = value ∧ t.clock = s.clock :=
  ⟨_, congrArg Host.Outcome.next (holdWrite_open rfl hr hs), reg_setReg_same, rfl⟩

theorem reg_raise_bringup (s : State) (id : Nat) : reg (raise s id) 0x40 = reg s 0x40 := reg_raise_host s id (by decide)

/-- A lost reference shows in REF and BRINGUP (R351). -/
theorem loseRef_effect (s : State) : regF (loseRef s) (aTim 0) 31 30 = 1 ∧ bringup (loseRef s) 7 = false ∧ 0xA00 ∈ (loseRef s).crier.pend
    ∧ regBit (loseRef s) (aTim 0) 0 = regBit s (aTim 0) 0 := by
  refine ⟨?_, ?_, mem_raise _ _, ?_⟩
  · rw [loseRef, regF_of_reg (reg_raise_aTim _ (by decide)), clearBringup, regF_of_reg (reg_setBit_ne (by decide)), regF_setF_same (by decide)]
    rfl
  · rw [loseRef, bringup, regBit_of_reg (reg_raise_bringup _ _), clearBringup, regBit_setBit_same (by decide)]
  · rw [loseRef, regBit_of_reg (reg_raise_aTim _ (by decide)), clearBringup, regBit_of_reg (reg_setBit_ne (by decide)),
      regBit_setF_ne (by decide) (.inl (by decide))]

theorem timeComplete_refSel (value : Word) (s : State) (hr : s.top.inReset = false) (hs : shut s (aTim 0) = false) :
    Completes (.refSelWrite value) s fun t =>
      (value.getLsbD 0 ≠ regBit s (aTim 0) 0 → regBit t (aTim 0) 0 = value.getLsbD 0 ∧ regF t (aTim 0) 31 30 = 1 ∧ bringup t 7 = false
        ∧ 0xA00 ∈ t.crier.pend)
      ∧ (value.getLsbD 0 = regBit s (aTim 0) 0 → t = s) := by
  refine ⟨_, congrArg Host.Outcome.next (holdWrite_open rfl hr hs), fun hne => ?_, fun heq => if_pos (by rw [heq]; exact beq_self_eq_true _)⟩
  rw [if_neg (by simpa using hne)]
  obtain ⟨hlost, hbring, hpend, hsel⟩ := loseRef_effect (setBit s (aTim 0) 0 (value.getLsbD 0))
  exact ⟨hsel.trans (regBit_setBit_same (by decide)), hlost, hbring, hpend⟩

theorem timeComplete_lost (s : State) (hrun : s.clock.running = true) (hlost : regBit s (aTim 0) 30 = false) :
    Completes .referenceLost s fun t => regF t (aTim 0) 31 30 = 1 ∧ bringup t 7 = false ∧ 0xA00 ∈ t.crier.pend := by
  obtain ⟨hbits, hbring, hpend, -⟩ := loseRef_effect s
  exact ⟨_, congrArg Host.Outcome.next (if_neg (by rw [hrun, hlost]; decide)), hbits, hbring, hpend⟩

theorem timeComplete_lock (s : State) (hrun : s.clock.running = true) (hlock : regBit s (aTim 0) 31 = false) :
    Completes .timeLock s fun t => regF t (aTim 0) 31 30 = 2 ∧ bringup t 7 = true ∧ 0xA01 ∈ t.crier.pend := by
  refine ⟨_, congrArg Host.Outcome.next (if_neg (by rw [hrun, hlock]; decide)), ?_, ?_, mem_raise _ _⟩
  · have hlocked : regF (setF s (aTim 0) 31 30 2) (aTim 0) 31 30 = 2 := regF_setF_same (by decide)
    rw [regF_of_reg (reg_raise_aTim _ (by decide)), setBringup]
    split
    · exact hlocked
    · rw [regF_of_reg (reg_raise_aTim _ (by decide)), regF_of_reg (reg_setBit_ne (by decide)), hlocked]
  · rw [bringup, regBit_of_reg (reg_raise_bringup _ _), setBringup]
    split
    next h => exact h
    next => rw [regBit_of_reg (reg_raise_bringup _ _), regBit_setBit_same (by decide)]

-- Captures (R364).

theorem aTim_capture (n k : Nat) : aTim (0x100 + 0x20 * n) + k = aTim (0x100 + k + 0x20 * n) := by
  simp only [aTim]
  omega

/-- The first edge of a capture set: which edge it was, and its reading. -/
def captured (n : Nat) (falling : Bool) (s : State) : State :=
  let t := setBit (setBit s (aTim (0x104 + 0x20 * n)) 31 true) (aTim (0x104 + 0x20 * n)) 29 falling
  setReg64 (setReg (setReg t (aTim (0x108 + 0x20 * n)) (BitVec.ofNat 32 s.clock.ns)) (aTim (0x10C + 0x20 * n)) (BitVec.ofNat 32 s.clock.frac))
    (aTim (0x110 + 0x20 * n)) s.clock.sec

theorem exec_captureEdge {n : Nat} {falling : Bool} {s : State} (hn : n < 3) (hen : regBit s (aTim (0x100 + 0x20 * n)) (b2n falling) = true) :
    exec (.captureEdge n falling) s = .next (if regBit s (aTim (0x104 + 0x20 * n)) 31 then setBit s (aTim (0x104 + 0x20 * n)) 30 true
      else raise (captured n falling s) (0xA02 + n)) := by
  change execCaptureEdge n falling s = _
  unfold execCaptureEdge
  simp only [aTim_capture, Nat.reduceAdd]
  rw [if_neg (by rw [hen, decide_eq_false (by omega)]; decide)]
  rfl

theorem timeComplete_capture (n : Nat) (falling : Bool) (s : State) (hn : n < 3) (hen : regBit s (aTim (0x100 + 0x20 * n)) (b2n falling) = true)
    (hfree : regBit s (aTim (0x104 + 0x20 * n)) 31 = false) :
    Completes (.captureEdge n falling) s fun t => regBit t (aTim (0x104 + 0x20 * n)) 31 = true ∧ regBit t (aTim (0x104 + 0x20 * n)) 29 = falling
      ∧ reg t (aTim (0x108 + 0x20 * n)) = BitVec.ofNat 32 s.clock.ns ∧ reg t (aTim (0x10C + 0x20 * n)) = BitVec.ofNat 32 s.clock.frac
      ∧ reg64 t (aTim (0x110 + 0x20 * n)) = s.clock.sec % 2 ^ 64 ∧ 0xA02 + n ∈ t.crier.pend := by
  have hexec := exec_captureEdge hn hen
  rw [if_neg (by rw [hfree]; decide)] at hexec
  have hraise : ∀ o, reg (raise (captured n falling s) (0xA02 + n)) (aTim o) = reg (captured n falling s) (aTim o) := fun o =>
    reg_raise_aTim _ (by omega)
  have hne : ∀ o o', o ≠ o' → aTim o ≠ aTim o' := fun o o' h => by
    simp only [aTim]
    omega
  have hstatus : reg (captured n falling s) (aTim (0x104 + 0x20 * n))
      = reg (setBit (setBit s (aTim (0x104 + 0x20 * n)) 31 true) (aTim (0x104 + 0x20 * n)) 29 falling) (aTim (0x104 + 0x20 * n)) := by
    rw [captured, reg_setReg64_ne, reg_setReg_ne, reg_setReg_ne]
    all_goals simp only [aTim]; omega
  refine ⟨_, hexec, ?_, ?_, ?_, ?_, ?_, mem_raise _ _⟩
  · rw [regBit_of_reg ((hraise _).trans hstatus), regBit_setBit_ne (.inr (by decide)), regBit_setBit_same (by decide)]
  · rw [regBit_of_reg ((hraise _).trans hstatus), regBit_setBit_same (by decide)]
  · rw [hraise, captured, reg_setReg64_ne, reg_setReg_ne, reg_setReg_same]
    all_goals simp only [aTim]; omega
  · rw [hraise, captured, reg_setReg64_ne, reg_setReg_same]
    all_goals simp only [aTim]; omega
  · have hhigh : aTim (0x110 + 0x20 * n) + 4 = aTim (0x114 + 0x20 * n) := by
      simp only [aTim]
      omega
    rw [reg64_of_reg (hraise _) (by rw [hhigh]; exact hraise _), captured, reg64_setReg64]

theorem timeComplete_overrun (n : Nat) (falling : Bool) (s : State) (hn : n < 3) (hen : regBit s (aTim (0x100 + 0x20 * n)) (b2n falling) = true)
    (hheld : regBit s (aTim (0x104 + 0x20 * n)) 31 = true) :
    Completes (.captureEdge n falling) s fun t =>
      regBit t (aTim (0x104 + 0x20 * n)) 30 = true ∧ reg t (aTim (0x108 + 0x20 * n)) = reg s (aTim (0x108 + 0x20 * n)) := by
  have hexec := exec_captureEdge hn hen
  rw [if_pos hheld] at hexec
  exact ⟨_, hexec, regBit_setBit_same (by decide), reg_setBit_ne (by simp only [aTim]; omega)⟩

/-- Settles O36, clause by clause. -/
theorem timeComplete : Obligations.TimeComplete := by
  unfold Obligations.TimeComplete
  exact ⟨fun _ _ => timeComplete_set, fun _ _ => timeComplete_step, fun _ _ => timeComplete_slew, fun s _ => timeComplete_slewEnd s,
    timeComplete_edge, timeComplete_commit, timeComplete_switch, timeComplete_nowNs, fun value s _ => timeComplete_freq value s,
    fun value s _ => timeComplete_refSel value s, fun s _ => timeComplete_lost s, fun s _ => timeComplete_lock s,
    fun n falling s _ => timeComplete_capture n falling s, fun n falling s _ => timeComplete_overrun n falling s⟩

end Sys2Proof.Proofs
end

section
/-!
Proofs of the statement on Ainum messages: what is sent, HELLO and CONFIRM, proposals of a step, exchanges of time (R386 to R394).
-/
namespace Sys2Proof.Proofs

open Sys2Proof Sys2Proof.Machine Sys2Proof.Laws

-- Messages that are sent (R387 to R391).

section
variable {s : State} {l : Nat}

theorem pend_last_queueMsg (s : State) (l : Nat) (m : AinMsg) : (getAin (queueMsg s l m) l).pend.getLast? = some m := by
  rw [getAin_queueMsg_same]
  exact List.getLast?_concat

theorem out_blocks (bs : List Nat) (s : State) (port : Nat) :
    (forEach bs (fun s b => emit s (.ainum port (ainBlock b))) s).out = s.out ++ bs.map (fun b => Output.ainum port (ainBlock b)) := by
  induction bs generalizing s with
  | nil => simp [forEach]
  | cons b bs ih =>
    refine (ih (emit s (.ainum port (ainBlock b)))).trans ?_
    rw [List.map_cons, List.append_cons]
    rfl

theorem ainum_blocks (bs : List Nat) (s : State) (port : Nat) :
    (forEach bs (fun s b => emit s (.ainum port (ainBlock b))) s).ainum = s.ainum :=
  forEach_view (V := State.ainum) (f := fun s b => emit s (.ainum port (ainBlock b))) (fun _ _ _ => rfl) s

/-- A port that may confirm its peer keeps what it knows, derives the key and queues CONFIRM; or the key's slot refuses, or nothing happens. -/
theorem tryConfirm_cases (s : State) (l : Nat) : tryConfirm s l = s ∨ tryConfirm s l = keyRefused s
    ∨ ∃ key, tryConfirm s l = queueMsg (setAin s l { getAin s l with linkKey := some key, txCtr := 0, rxCtr := none, fails := [] }) l (mkMsg 2 0 0 0) := by
  unfold tryConfirm
  dsimp only
  split
  · split_ifs
    · exact .inl rfl
    · split
      · exact .inr (.inl rfl)
      · exact .inr (.inr ⟨_, rfl⟩)
    · split
      · exact .inr (.inl rfl)
      · exact .inr (.inr ⟨_, rfl⟩)
  · exact .inl rfl

theorem only_keyRefused (s : State) : Only [.regs, .owed, .lastRaise, .crier, .flt] s (keyRefused s) :=
  Only.raiseLimited _ _ _ (Only.refl s) (by decide) (by decide) (by decide) (by decide) (by decide)

theorem nonces_tryConfirm (s : State) (l : Nat) : (getAin (tryConfirm s l) l).myNonce = (getAin s l).myNonce
    ∧ (getAin (tryConfirm s l) l).peerNonce = (getAin s l).peerNonce := by
  rcases tryConfirm_cases s l with h | h | ⟨key, h⟩ <;> rw [h]
  · exact ⟨rfl, rfl⟩
  · have hain : getAin (keyRefused s) l = getAin s l := by rw [getAin, only_keyRefused s .ainum (by decide), getAin]
    rw [hain]
    exact ⟨rfl, rfl⟩
  · rw [getAin_queueMsg_same]
    have hset : ∀ x, getAin (setAin s l x) l = x := fun x => mapGet_mapPut_same
    rw [hset]
    exact ⟨rfl, rfl⟩

theorem reg_tryConfirm_aAin (s : State) (l : Nat) {o : Nat} : reg (tryConfirm s l) (aAin o) = reg s (aAin o) := by
  rcases tryConfirm_cases s l with h | h | ⟨key, h⟩ <;> rw [h]
  · exact reg_raiseLimited_aAin _ (by decide)
  · rfl

theorem out_ainSent (s : State) (l : Nat) (pcs : Stamp) (m : AinMsg) : (ainSent s l pcs m).out = s.out := by
  unfold ainSent
  split_ifs
  · exact Only.tryConfirm (fr := [.regs, .owed, .lastRaise, .ainum, .crier, .flt]) _ _ (Only.refl _) (by decide) (by decide) (by decide)
      (by decide) (by decide) (by decide) .out (by decide)
  · exact Only.whenB (fr := [.regs, .ports]) _ (takeStep · l) s (fun t ht => Only.takeStep t l ht (by decide) (by decide)) (Only.refl s) .out
      (by decide)
  · rfl
  · exact only_goSent s l .out (by decide)
  · rfl

theorem ports_goSent (s : State) (l : Nat) : (goSent s l).ainum.ports = s.ainum.ports := by
  unfold goSent
  dsimp only
  split
  · rw [raise_ainum]
    rfl
  · rfl

/-- A message other than HELLO leaves its port with the same messages and counter as its blocks did. -/
theorem getAin_ainSent (s : State) (l : Nat) (pcs : Stamp) {m : AinMsg} (h : m.type ≠ 1) :
    (getAin (ainSent s l pcs m) l).pend = (getAin s l).pend ∧ (getAin (ainSent s l pcs m) l).txCtr = (getAin s l).txCtr := by
  unfold ainSent
  rw [if_neg h]
  split_ifs
  · have hstep : (whenB (mayStep s l) (takeStep · l) s).ainum = s.ainum :=
      Only.whenB (fr := [.regs, .ports]) _ (takeStep · l) s (fun t ht => Only.takeStep t l ht (by decide) (by decide)) (Only.refl s) .ainum (by decide)
    rw [getAin, hstep, getAin]
    exact ⟨rfl, rfl⟩
  · have hset : ∀ x, getAin (setAin s l x) l = x := fun x => mapGet_mapPut_same
    rw [hset]
    exact ⟨rfl, rfl⟩
  · rw [getAin, ports_goSent, getAin]
    exact ⟨rfl, rfl⟩
  · exact ⟨rfl, rfl⟩

/-- The port as its message leaves, and the state that has sent the blocks. -/
def sentPort (s : State) (l idle : Nat) (pcs : Stamp) (m : AinMsg) : AinPort :=
  let x := ainIdle s l idle
  { ainUsed s x (ainStream s l (ainFill s l pcs m)).length (!ainUrgent m.type) with pend := x.pend.erase m, txCtr := x.txCtr + 1 }
def sentBlocks (s : State) (l idle : Nat) (pcs : Stamp) (m : AinMsg) : State :=
  forEach (ainStream s l (ainFill s l pcs m)) (fun s b => emit s (.ainum l (ainBlock b)))
    (whenB (ainAuth s && m.type != 1) (secCount · 0) (ainCount (setAin s l (sentPort s l idle pcs m)) 0))

theorem exec_ainumSend_message {port idle : Nat} {pcs : Stamp} {m : AinMsg} (hlive : ainLive s port = true)
    (hnext : ainNext s port (ainIdle s port idle) = some m) :
    exec (.ainumSend port idle pcs) s = .next (ainSent (sentBlocks s port idle pcs m) port pcs (ainFill s port pcs m)) := by
  change execAinumSend port idle pcs s = _
  unfold execAinumSend
  rw [if_neg (by rw [hlive]; decide)]
  dsimp only
  rw [hnext]
  dsimp only
  have hfill : (ainAuth s && (ainFill s port pcs m).type != 1) = (ainAuth s && m.type != 1) := rfl
  rw [sentBlocks, sentPort, ainStream, hfill]
  by_cases hauth : (ainAuth s && m.type != 1) = true
  · simp only [hauth, if_true]
    rfl
  · simp only [hauth]
    rfl

theorem getAin_sentBlocks (s : State) (l idle : Nat) (pcs : Stamp) (m : AinMsg) :
    getAin (sentBlocks s l idle pcs m) l = sentPort s l idle pcs m := by
  have hset : getAin (setAin s l (sentPort s l idle pcs m)) l = sentPort s l idle pcs m := mapGet_mapPut_same
  rw [getAin, sentBlocks, ainum_blocks]
  unfold whenB
  split <;> exact hset

theorem out_sentBlocks (s : State) (l idle : Nat) (pcs : Stamp) (m : AinMsg) :
    (sentBlocks s l idle pcs m).out = s.out ++ (ainStream s l (ainFill s l pcs m)).map (fun b => Output.ainum l (ainBlock b)) := by
  rw [sentBlocks, out_blocks]
  unfold whenB
  split <;> rfl

theorem ainumComplete_send {port idle : Nat} {pcs : Stamp} {m : AinMsg} (hlive : ainLive s port = true)
    (hnext : ainNext s port (ainIdle s port idle) = some m) :
    Completes (.ainumSend port idle pcs) s fun t =>
      t.out = s.out ++ (ainStream s port (ainFill s port pcs m)).map (fun b => Output.ainum port (ainBlock b))
      ∧ (m.type ≠ 1 → (getAin t port).pend = (getAin s port).pend.erase m ∧ (getAin t port).txCtr = (getAin s port).txCtr + 1)
      ∧ (m.type = 1 → (getAin t port).myNonce = some (nbits m.payload 71 8)) := by
  refine ⟨_, exec_ainumSend_message hlive hnext, ?_, fun hne => ?_, fun hhello => ?_⟩
  · rw [out_ainSent, out_sentBlocks]
  · obtain ⟨hpend, hctr⟩ := getAin_ainSent (sentBlocks s port idle pcs m) port pcs (m := ainFill s port pcs m) hne
    rw [hpend, hctr, getAin_sentBlocks]
    exact ⟨rfl, rfl⟩
  · have hfill : (ainFill s port pcs m).payload = m.payload := by simp [ainFill, hhello]
    have htype : (ainFill s port pcs m).type = 1 := hhello
    have hset : ∀ (u : State) x, getAin (setAin u port x) port = x := fun u x => mapGet_mapPut_same
    rw [ainSent, if_pos htype, (nonces_tryConfirm _ port).1, hset, hfill]

theorem ainumComplete_idle {port idle : Nat} {pcs : Stamp} (hlive : ainLive s port = true) (hnext : ainNext s port (ainIdle s port idle) = none) :
    Completes (.ainumSend port idle pcs) s fun t => t.out = s.out ∧ (getAin t port).pend = (getAin s port).pend := by
  have hexec : exec (.ainumSend port idle pcs) s = .next (setAin s port (ainIdle s port idle)) := by
    change execAinumSend port idle pcs s = _
    unfold execAinumSend
    rw [if_neg (by rw [hlive]; decide)]
    dsimp only
    rw [hnext]
  have hset : getAin (setAin s port (ainIdle s port idle)) port = ainIdle s port idle := mapGet_mapPut_same
  refine ⟨_, hexec, rfl, ?_⟩
  rw [hset]
  rfl

-- HELLO_TIMER (R390).

theorem ainumComplete_hello (hlive : ainLive s l = true) (hrng : trngUp s = true) :
    Completes (.helloTimer l) s fun t =>
      ((getAin t l).pend.getLast?.map fun m => (m.type, m.len, m.arg, m.payload >>> 80, nbits m.payload 79 72))
      = some (1, 6, ainRole s l * 64 + b2n (ainAuth s) * 32, s.top.fuses.selfId % 2 ^ 64, ownCap s l % 256) := by
  have hexec : exec (.helloTimer l) s = .next (queueMsg (drawn s) l (mkMsg 1 6 (ainRole s l * 64 + b2n (ainAuth s) * 32)
      (s.top.fuses.selfId % 2 ^ 64 * 2 ^ 80 + ownCap s l % 256 * 2 ^ 72 + beNat (Config.random 8 s.freeCtr) % 2 ^ 64 * 256))) := by
    refine congrArg Host.Outcome.next ((if_pos hlive).trans ?_)
    rw [queueHello, if_neg (by rw [hrng]; decide)]
  have hnonce : beNat (Config.random 8 s.freeCtr) % 2 ^ 64 < 2 ^ 64 := Nat.mod_lt _ (by decide)
  have hcap : ownCap s l % 256 < 256 := Nat.mod_lt _ (by decide)
  refine ⟨_, hexec, ?_⟩
  beta_reduce
  rw [pend_last_queueMsg]
  simp only [Option.map_some, mkMsg, nbits, Nat.shiftRight_eq_div_pow, Option.some.injEq, Prod.mk.injEq, true_and]
  omega

theorem ainumComplete_helloWaits (hlive : ainLive s l = true) (hrng : trngUp s = false) :
    Completes (.helloTimer l) s fun t => 16 + l ∈ t.sec.rngWait ∧ t.ainum = s.ainum := by
  have hexec : exec (.helloTimer l) s = .next { s with sec := { s.sec with rngWait := addOnce s.sec.rngWait (16 + l) } } := by
    refine congrArg Host.Outcome.next ((if_pos hlive).trans ?_)
    rw [queueHello, if_pos (by rw [hrng]; rfl)]
  exact ⟨_, hexec, mem_addOnce_iff.mpr (.inr rfl), rfl⟩
end

-- A port's status on the chain (Table AIN-6).

theorem aAinPort_ne_aPortState {l m o : Nat} (hl : l < 1152) (ho : o < 0x40) : aAinPort l o ≠ aPortState m := by
  simp only [aAinPort, aAin, aPortState, aLane, aLan]
  omega

theorem aAinPort_ne {l o o' : Nat} (h : o ≠ o') : aAinPort l o ≠ aAinPort l o' := by
  simp only [aAinPort, aAin]
  omega

theorem reg_raise_aLane {l o : Nat} (s : State) {id : Nat} (hid : id < 4096) : reg (raise s id) (aLane l o) = reg s (aLane l o) := by
  refine reg_raise_ne ?_ ?_ ?_ ?_ <;> simp only [aLane, aLan, aEsc, aFlt] <;> omega

theorem reg_raise_aAinPort {l o : Nat} (s : State) {id : Nat} (hid : id < 4096) : reg (raise s id) (aAinPort l o) = reg s (aAinPort l o) :=
  reg_raise_aAin s hid

/-- A journal entry leaves the registers that no source and no count of the Security island writes. -/
theorem reg_jrnOwe_of_raise {a : Nat} (hraise : ∀ id < 4096, ∀ u : State, reg (raise u id) a = reg u a)
    (hcount : ∀ k (u : State), reg (secCount u k) a = reg u a) (e : JrnEntry) (s : State) : reg (jrnOwe s e) a = reg s a := by
  have hput : ∀ u : State, reg (jrnPut u e) a = reg u a := fun u => by
    rw [jrnPut, jrnStore_eq, jrnTouch, jrnWarn, reg_whenB (hraise _ (by decide)), reg_whenB (hraise _ (by decide))]
    change reg (jrnTagged u (jrnPart e) true) _ = _
    unfold jrnTagged
    split
    · rw [reg_whenB (hcount 1), hcount]
    · rfl
  unfold jrnOwe
  split
  · rw [hput]
    split
    · exact reg_whenB (f := (emit · _)) (fun _ => rfl) _ _
    · rfl
  · rfl

section
variable {s : State} {l : Nat}

-- The end of a session (R390).

/-- A session that ends clears the peer's bits and keeps the rest of the port's status. -/
theorem status_endSession (s : State) (hl : l < 1152) :
    reg (endSession s l) (aAinPort l 4) = fset (reg s (aAinPort l 4)) 31 29 0 := by
  unfold endSession
  dsimp only
  rw [reg_whenB fun u => reg_raise_aAinPort u (by decide), setF, reg_setReg_same, reg_setBit_ne (aAinPort_ne_aPortState hl (by decide))]
  rfl

theorem ainPeer_endSession (s : State) (hl : l < 1152) : ainPeer (endSession s l) l = false := by
  unfold ainPeer endSession
  dsimp only
  have hraise : ∀ u : State, reg (raise u 0xB00) (aPortState l) = reg u (aPortState l) := fun u => reg_raise_aLane u (by decide)
  rw [regBit_of_reg (reg_whenB hraise _ _), regBit_of_reg (reg_setF_ne (aAinPort_ne_aPortState hl (by decide)).symm),
    regBit_setBit_same (by decide)]

theorem getAin_endSession (s : State) (l : Nat) : getAin (endSession s l) l
    = { getAin s l with peerNonce := none, txCtr := 0, rxCtr := none, linkKey := none, fails := [], t1 := none } := by
  have hraise : ∀ (b : Bool) (u : State), (whenB b (raise · 0xB00) u).ainum = u.ainum := fun b u => by
    unfold whenB
    split
    · exact raise_ainum _ _
    · rfl
  unfold endSession
  dsimp only
  rw [getAin, hraise]
  exact mapGet_mapPut_same

/-- A peer that was found is lost, with source 0xB00. -/
theorem mem_pend_endSession (h : ainPeer s l = true) : 0xB00 ∈ (endSession s l).crier.pend := by
  unfold endSession
  dsimp only
  rw [h]
  exact mem_raise _ _

theorem ainumComplete_timeout (hl : l < 1152) (hpeer : ainPeer s l = true) :
    Completes (.peerTimeout l) s fun t => ainPeer t l = false ∧ regF t (aAinPort l 4) 31 29 = 0 ∧ (getAin t l).linkKey = none
      ∧ 0xB00 ∈ t.crier.pend := by
  refine ⟨_, congrArg Host.Outcome.next (if_pos (by rw [hpeer]; rfl)), ainPeer_endSession s hl, ?_, ?_, mem_pend_endSession hpeer⟩
  · rw [regF, status_endSession s hl, fget_fset_same _ _ (by decide)]
    rfl
  · rw [getAin_endSession]

-- The peer is found (R390).

section
variable {o : Nat} (hl : l < 1152) (ho : o < 0x40)
include hl ho

theorem aAinPort_ne_aLan (g q : Nat) : aAinPort l o ≠ aLan g q := by
  simp only [aAinPort, aAin, aLan]
  omega

theorem reg_jrnOwe_aAinPort (e : JrnEntry) (s : State) : reg (jrnOwe s e) (aAinPort l o) = reg s (aAinPort l o) := by
  refine reg_jrnOwe_of_raise (fun id hid u => reg_raise_aAinPort u hid) (fun k u => ?_) e s
  refine reg_add64_ne ?_ ?_ <;> simp only [aAinPort, aAin, aSec] <;> omega

theorem reg_setLine_aAinPort {id : Nat} (hid : id < 4096) (on : Bool) (s : State) : reg (setLine s id on) (aAinPort l o) = reg s (aAinPort l o) := by
  have hesc : ∀ i < 4096, aAinPort l o ≠ aEsc i 0 := fun i hi => by
    simp only [aAinPort, aAin, aEsc, aFlt]
    omega
  have hcount : aAinPort l o ≠ aFlt 0x20 ∧ aAinPort l o ≠ aFlt 0x20 + 4 := by
    simp only [aAinPort, aAin, aFlt]
    omega
  unfold setLine
  dsimp only
  split_ifs
  · rfl
  · refine reg_graceWith_ne (hesc id hid) hcount.1 hcount.2 fun t => ?_
    exact reg_graceWith_ne (hesc _ (by decide)) hcount.1 hcount.2 fun _ => reg_pendEvent _ _ _
  · exact reg_raise_aAinPort _ hid
  · rfl
  · exact reg_setBit_ne (hesc id hid)

/-- A held ladder leaves the chain's registers of a port. -/
theorem reg_holdLadder_aAinPort (s : State) : reg (holdLadder s l) (aAinPort l o) = reg s (aAinPort l o) := by
  have hdone : ∀ u : State, reg (ladderDone u) (aAinPort l o) = reg u (aAinPort l o) := fun u => by
    unfold ladderDone setBringup
    split_ifs
    · rfl
    · rw [reg_raise_aAinPort _ (by decide), reg_setBit_ne (by simp only [aAinPort, aAin]; omega)]
    · rfl
  rw [holdLadder, hdone, recordLadder, reg_jrnOwe_aAinPort hl ho,
    reg_portFlags _ (aAinPort_ne_aPortState hl ho) (aAinPort_ne_aLan hl ho _ _), laneEvent, laneLine,
    reg_setLine_aAinPort hl ho (by omega), aEvtLanes, reg_setBit_ne (aAinPort_ne_aLan hl ho _ _)]
  rfl

end

-- What stays pending over a held ladder.

theorem mem_setLine_of_mem {x id : Nat} (h : x ∈ s.crier.pend) (hne : x ≠ id) (on : Bool) : x ∈ (setLine s id on).crier.pend := by
  unfold setLine
  dsimp only
  split_ifs
  · exact h
  · exact mem_graceWith h fun t ht => mem_graceWith (mem_addOnce_of_mem ht) fun _ hu => mem_addOnce_of_mem hu
  · exact mem_raise_of_mem h
  · exact h
  · exact (List.mem_erase_of_ne hne).mpr h

theorem mem_jrnOwe_of_mem {x : Nat} (h : x ∈ s.crier.pend) (e : JrnEntry) : x ∈ (jrnOwe s e).crier.pend := by
  have hput : ∀ u : State, x ∈ u.crier.pend → x ∈ (jrnPut u e).crier.pend := fun u hu => by
    rw [jrnPut, jrnStore_eq, jrnTouch, jrnWarn]
    refine mem_whenB_of_mem (fun _ => mem_raise_of_mem) _ (mem_whenB_of_mem (fun _ => mem_raise_of_mem) _ ?_)
    change x ∈ (jrnTagged u (jrnPart e) true).crier.pend
    rwa [Only.jrnTagged (fr := [.regs]) u _ true (Only.refl u) (by decide) .crier (by decide)]
  unfold jrnOwe
  split
  · refine hput _ ?_
    split
    · exact mem_whenB_of_mem (f := (emit · _)) (fun _ hu => hu) _ h
    · exact h
  · exact h

theorem mem_holdLadder_of_mem {x : Nat} (hl : l < 1152) (hx : 0x420 ≤ x) (h : x ∈ s.crier.pend) : x ∈ (holdLadder s l).crier.pend := by
  have hdone : ∀ u : State, x ∈ u.crier.pend → x ∈ (ladderDone u).crier.pend := fun u hu => by
    unfold ladderDone
    split
    · exact mem_setBringup_of_mem hu _
    · exact hu
  have hlane : ∀ u : State, x ∈ u.crier.pend → x ∈ (laneEvent u l 2).crier.pend := fun u hu =>
    mem_setLine_of_mem (s := setBit u (aEvtLanes (l / 32) 2) (l % 32) true) (id := 0x300 + 8 * (l / 32) + 2) hu (by omega) _
  refine hdone _ (mem_jrnOwe_of_mem (s := portFlags (laneEvent (modPort s l _) l 2) l) ?_ _)
  exact hlane _ h

-- The peer is found (R390).

/-- The state of `peerFound` before the ladder of a port that may not step is held. -/
def peerShown (s : State) (l : Nat) : State :=
  whenB (!ainPeer s l) (raise · 0xB00)
    (setBit (setBit (setBit s (aPortState l) 25 true) (aAinPort l 4) 31 true) (aAinPort l 4) 29 (ainAuth s))

theorem peerFound_cases (s : State) (l : Nat) : peerFound s l = holdLadder (peerShown s l) l ∨ peerFound s l = peerShown s l := by
  unfold peerFound
  dsimp only
  split
  · exact .inl rfl
  · exact .inr rfl

/-- PEER and AUTHENTIC are all that `peerFound` writes of the chain's registers of the port. -/
theorem reg_peerFound_aAinPort {o : Nat} (hl : l < 1152) (ho : o < 0x40) : reg (peerFound s l) (aAinPort l o)
    = reg (setBit (setBit s (aAinPort l 4) 31 true) (aAinPort l 4) 29 (ainAuth s)) (aAinPort l o) := by
  have hshown : reg (peerShown s l) (aAinPort l o) = _ :=
    reg_whenB (fun u => reg_raise_aAinPort u (by decide)) _ _
  have hstate : reg (setBit s (aPortState l) 25 true) (aAinPort l 4) = reg s (aAinPort l 4) :=
    reg_setBit_ne (aAinPort_ne_aPortState hl (by decide))
  have hne : reg (setBit s (aPortState l) 25 true) (aAinPort l o) = reg s (aAinPort l o) := reg_setBit_ne (aAinPort_ne_aPortState hl ho)
  have hsame : reg (peerShown s l) (aAinPort l o)
      = reg (setBit (setBit s (aAinPort l 4) 31 true) (aAinPort l 4) 29 (ainAuth s)) (aAinPort l o) := by
    rw [hshown]
    by_cases h4 : o = 4
    · subst h4
      simp only [setBit, setF, reg_setReg_same] at hstate ⊢
      rw [hstate]
    · rw [reg_setBit_ne (aAinPort_ne h4), reg_setBit_ne (aAinPort_ne h4), hne, reg_setBit_ne (aAinPort_ne h4), reg_setBit_ne (aAinPort_ne h4)]
  rcases peerFound_cases s l with h | h <;> rw [h]
  · rw [reg_holdLadder_aAinPort hl ho, hsame]
  · exact hsame

theorem ainPeer_peerFound (hl : l < 1152) : ainPeer (peerFound s l) l = true := by
  have hraise : ∀ u : State, reg (raise u 0xB00) (aPortState l) = reg u (aPortState l) := fun u => reg_raise_aLane u (by decide)
  have hne := (aAinPort_ne_aPortState (m := l) hl (show 4 < 0x40 by decide)).symm
  have hshown : regBit (peerShown s l) (aPortState l) 25 = true := by
    unfold peerShown
    rw [regBit_of_reg (reg_whenB hraise _ _), regBit_of_reg (reg_setBit_ne hne), regBit_of_reg (reg_setBit_ne hne), regBit_setBit_same (by decide)]
  unfold ainPeer
  rcases peerFound_cases s l with h | h <;> rw [h]
  · have hbit := regF_holdLadder (peerShown s l) hl (show 25 < 19 ∨ (20 < 25 ∧ 25 < 32) by decide)
    have hsame := congrArg (Nat.testBit · 0) hbit
    simp only [regF, testBit_fget] at hsame
    rw [← hshown, regBit, regBit]
    simpa using hsame
  · exact hshown

theorem mem_pend_peerFound (hl : l < 1152) (hpeer : ainPeer s l = false) : 0xB00 ∈ (peerFound s l).crier.pend := by
  have hshown : 0xB00 ∈ (peerShown s l).crier.pend := by
    unfold peerShown
    rw [hpeer]
    exact mem_raise _ _
  rcases peerFound_cases s l with h | h <;> rw [h]
  · exact mem_holdLadder_of_mem hl (by decide) hshown
  · exact hshown

theorem ainum_peerFound (s : State) (l : Nat) : (peerFound s l).ainum = s.ainum :=
  Only.peerFound (fr := [.regs, .journal, .owed, .ports, .crier, .flt, .out]) s l (Only.refl s) (by decide) (by decide) (by decide) (by decide)
    (by decide) (by decide) (by decide) .ainum (by decide)

end

section
variable {s u v : State} {port : Nat} {msg : AinMsg}

-- HELLO (R386, R389, R390).

theorem regF_setBit_ne {a b i hi lo : Nat} {x : Bool} (h : hi < 32) (hd : hi < i ∨ i < lo) : regF (setBit s a i x) b hi lo = regF s b hi lo := by
  rw [setBit, regF_setF_ne h hd]

/-- The state in which a neighbour's HELLO is written: a session with another part has ended. -/
def helloPeer (port : Nat) (msg : AinMsg) (s : State) : State :=
  if ainPeer s port && peerId s port != nbits msg.payload 143 80 then endSession s port else s

/-- The neighbour's far ROLE, PEER_CAP and PEER_ID are written. -/
def helloWritten (port : Nat) (msg : AinMsg) (s : State) : State :=
  setReg64 (setF (setF (setBit s (aAinPort port 4) 30 false) (aAinPort port 4) 28 27 (nbits msg.arg 7 6)) (aAinPort port 4) 7 0
    (nbits msg.payload 79 72)) (aAinPort port 8) (nbits msg.payload 143 80)

/-- The neighbour's nonce is kept too. -/
def helloNoted (port : Nat) (msg : AinMsg) (s : State) : State :=
  setAin (helloWritten port msg (helloPeer port msg s)) port
    { getAin (helloWritten port msg (helloPeer port msg s)) port with peerNonce := some (nbits msg.payload 71 8) }

/-- The part's own SELF_ID. -/
def helloLooped (port : Nat) (s : State) : State :=
  whenB (!looped s port) (raise · 0xB00) (setBit (endSession s port) (aAinPort port 4) 30 true)

/-- What a HELLO does in the state that accepted it. -/
def helloHeard (port : Nat) (msg : AinMsg) (s : State) : State :=
  if msg.arg.testBit 5 != ainAuth s then raiseLimited s 0xB01 1000000
  else if nbits msg.payload 143 80 = s.top.fuses.selfId % 2 ^ 64 then helloLooped port s
  else if ainAuth (helloNoted port msg s) then tryConfirm (helloNoted port msg s) port else peerFound (helloNoted port msg s) port

theorem exec_hello (h : Accepted s port 1 msg) : exec (.hello port msg) s = .next (helloHeard port msg (ainReceive s port msg).1) :=
  congrArg Host.Outcome.next (ainTake_of_accepted h (helloHeard port msg))

/-- The fields of a neighbour's HELLO stand in the port's status. -/
structure HelloShown (port : Nat) (msg : AinMsg) (t : State) : Prop where
  id : peerId t port = nbits msg.payload 143 80
  looped : looped t port = false
  role : regF t (aAinPort port 4) 28 27 = nbits msg.arg 7 6
  cap : regF t (aAinPort port 4) 7 0 = nbits msg.payload 79 72

theorem helloShown_written (port : Nat) (msg : AinMsg) (s : State) : HelloShown port msg (helloWritten port msg s) := by
  have hstatus : ∀ u : State, reg (setReg64 u (aAinPort port 8) (nbits msg.payload 143 80)) (aAinPort port 4) = reg u (aAinPort port 4) := fun u =>
    reg_setReg64_ne u _ (aAinPort_ne (by decide)) (aAinPort_ne (o' := 0xC) (by decide))
  constructor
  · exact (reg64_setReg64 _ _ _).trans (Nat.mod_eq_of_lt (Nat.mod_lt _ (by decide)))
  · rw [Machine.looped, helloWritten, regBit_of_reg (hstatus _), regBit_setF_ne (by decide) (.inr (by decide)),
      regBit_setF_ne (by decide) (.inr (by decide)), regBit_setBit_same (by decide)]
  · rw [helloWritten, regF_of_reg (hstatus _), regF_setF_ne (by decide) (.inr (by decide)), regF_setF_same (by decide)]
    exact Nat.mod_eq_of_lt (Nat.mod_lt _ (by decide))
  · rw [helloWritten, regF_of_reg (hstatus _), regF_setF_same (by decide)]
    exact Nat.mod_eq_of_lt (Nat.mod_lt _ (by decide))

/-- They stand where the port's registers are left but for PEER and AUTHENTIC. -/
theorem HelloShown.of_reg {t : State} (h : HelloShown port msg v) (hlow : reg t (aAinPort port 8) = reg v (aAinPort port 8))
    (hhigh : reg t (aAinPort port 0xC) = reg v (aAinPort port 0xC)) {x : Bool}
    (hstatus : reg t (aAinPort port 4) = reg (setBit (setBit v (aAinPort port 4) 31 true) (aAinPort port 4) 29 x) (aAinPort port 4)) :
    HelloShown port msg t where
  id := (reg64_of_reg hlow hhigh).trans h.id
  looped := by
    rw [Machine.looped, regBit_of_reg hstatus, regBit_setBit_ne (.inr (by decide)), regBit_setBit_ne (.inr (by decide))]
    exact h.looped
  role := by
    rw [regF_of_reg hstatus, regF_setBit_ne (by decide) (.inl (by decide)), regF_setBit_ne (by decide) (.inl (by decide))]
    exact h.role
  cap := by
    rw [regF_of_reg hstatus, regF_setBit_ne (by decide) (.inl (by decide)), regF_setBit_ne (by decide) (.inl (by decide))]
    exact h.cap

theorem HelloShown.peerFound (h : HelloShown port msg v) (hl : port < 1152) : HelloShown port msg (Machine.peerFound v port) := by
  refine h.of_reg ?_ ?_ (reg_peerFound_aAinPort hl (by decide)) <;> rw [reg_peerFound_aAinPort hl (by decide)]
  · rw [reg_setBit_ne (aAinPort_ne (by decide)), reg_setBit_ne (aAinPort_ne (by decide))]
  · rw [reg_setBit_ne (aAinPort_ne (by decide)), reg_setBit_ne (aAinPort_ne (by decide))]

theorem HelloShown.tryConfirm (h : HelloShown port msg v) : HelloShown port msg (Machine.tryConfirm v port) where
  id := (reg64_of_reg (reg_tryConfirm_aAin _ _) (reg_tryConfirm_aAin (o := _ + 4) _ _)).trans h.id
  looped := (regBit_of_reg (reg_tryConfirm_aAin _ _) _).trans h.looped
  role := (regF_of_reg (reg_tryConfirm_aAin _ _) _ _).trans h.role
  cap := (regF_of_reg (reg_tryConfirm_aAin _ _) _ _).trans h.cap

theorem nonce_helloNoted : (getAin (helloNoted port msg u) port).peerNonce = some (nbits msg.payload 71 8) :=
  congrArg AinPort.peerNonce mapGet_mapPut_same

theorem ainAuth_helloNoted (hl : port < 1152) : ainAuth (helloNoted port msg u) = ainAuth u := by
  have hne : ∀ o, o < 0x40 → aAin 0 ≠ aAinPort port o := fun o _ => by
    simp only [aAinPort, aAin]
    omega
  have hpeer : reg (helloPeer port msg u) (aAin 0) = reg u (aAin 0) := by
    unfold helloPeer
    split
    · unfold endSession
      dsimp only
      rw [reg_whenB fun w => reg_raise_aAin w (by decide), reg_setF_ne (hne 4 (by decide)),
        reg_setBit_ne (by simp only [aAin, aPortState, aLane, aLan]; omega)]
      rfl
    · rfl
  refine regBit_of_reg (Eq.trans ?_ hpeer) 31
  change reg (helloWritten port msg _) (aAin 0) = _
  rw [helloWritten, reg_setReg64_ne _ _ (hne 8 (by decide)) (hne 0xC (by decide)), reg_setF_ne (hne 4 (by decide)),
    reg_setF_ne (hne 4 (by decide)), reg_setBit_ne (hne 4 (by decide))]

/-- No peer before the HELLO, none before `peerFound`. -/
theorem ainPeer_helloNoted (hl : port < 1152) (h : ainPeer u port = false) : ainPeer (helloNoted port msg u) port = false := by
  have hne : ∀ o, o < 0x40 → aPortState port ≠ aAinPort port o := fun o ho => (aAinPort_ne_aPortState hl ho).symm
  have hwritten : reg (helloWritten port msg u) (aPortState port) = reg u (aPortState port) := by
    rw [helloWritten, reg_setReg64_ne _ _ (hne 8 (by decide)) (hne 0xC (by decide)), reg_setF_ne (hne 4 (by decide)),
      reg_setF_ne (hne 4 (by decide)), reg_setBit_ne (hne 4 (by decide))]
  have hsame : helloPeer port msg u = u := by rw [helloPeer, h, Bool.false_and, if_neg Bool.false_ne_true]
  refine (regBit_of_reg ?_ 25).trans h
  change reg (helloWritten port msg (helloPeer port msg u)) _ = _
  rw [hsame, hwritten]

/-- With the AUTH bit that the HELLO has, the neighbour is found at once, or its nonce awaits CONFIRM. -/
theorem helloHeard_neighbour (hl : port < 1152) (hauth : msg.arg.testBit 5 = ainAuth u) (hid : nbits msg.payload 143 80 ≠ u.top.fuses.selfId % 2 ^ 64) :
    helloHeard port msg u
      = if ainAuth u then tryConfirm (helloNoted port msg u) port else peerFound (helloNoted port msg u) port := by
  rw [helloHeard, if_neg (by simp [hauth]), if_neg hid, ainAuth_helloNoted hl]

theorem ainumComplete_neighbour (hacc : Accepted s port 1 msg) (hauth : msg.arg.testBit 5 = ainAuth s)
    (hid : nbits msg.payload 143 80 ≠ s.top.fuses.selfId % 2 ^ 64) :
    Completes (.hello port msg) s fun t => peerId t port = nbits msg.payload 143 80 ∧ looped t port = false
      ∧ regF t (aAinPort port 4) 28 27 = nbits msg.arg 7 6 ∧ regF t (aAinPort port 4) 7 0 = nbits msg.payload 79 72
      ∧ (getAin t port).peerNonce = some (nbits msg.payload 71 8)
      ∧ (ainAuth s = false → ainPeer t port = true ∧ regBit t (aAinPort port 4) 31 = true ∧ (ainPeer s port = false → 0xB00 ∈ t.crier.pend)) := by
  have hl := lt_of_accepted hacc
  have htaken := takenOn_ainReceive hacc.2
  obtain ⟨u, hu⟩ : ∃ u, u = (ainReceive s port msg).1 := ⟨_, rfl⟩
  rw [← hu] at htaken
  have hkept := htaken.chainKept
  have hwritten := helloShown_written port msg (helloPeer port msg u)
  have hnoted : HelloShown port msg (helloNoted port msg u) := ⟨hwritten.id, hwritten.looped, hwritten.role, hwritten.cap⟩
  have hheard := helloHeard_neighbour (u := u) hl (hauth.trans hkept.auth.symm) (by rw [hkept.top]; exact hid)
  refine ⟨_, (exec_hello hacc).trans (by rw [← hu, hheard]), ?_⟩
  rcases hon : ainAuth s with _ | _ <;> rw [hkept.auth, hon]
  · have hshown := hnoted.peerFound hl
    refine ⟨hshown.id, hshown.looped, hshown.role, hshown.cap, ?_, fun _ => ⟨ainPeer_peerFound hl, ?_, fun hpeer => ?_⟩⟩
    · rw [if_neg Bool.false_ne_true, getAin, ainum_peerFound]
      exact nonce_helloNoted
    · rw [if_neg Bool.false_ne_true, regBit_of_reg (reg_peerFound_aAinPort hl (by decide)), regBit_setBit_ne (.inr (by decide)),
        regBit_setBit_same (by decide)]
    · exact mem_pend_peerFound hl (ainPeer_helloNoted hl (by rw [hkept.peer hl, hpeer]))
  · have hshown := hnoted.tryConfirm
    exact ⟨hshown.id, hshown.looped, hshown.role, hshown.cap, (nonces_tryConfirm _ _).2.trans nonce_helloNoted, fun h => absurd h (by decide)⟩

/-- LOOPED ends the session (R390). -/
theorem ainumComplete_looped (hacc : Accepted s port 1 msg) (hauth : msg.arg.testBit 5 = ainAuth s)
    (hid : nbits msg.payload 143 80 = s.top.fuses.selfId % 2 ^ 64) :
    Completes (.hello port msg) s fun t => looped t port = true ∧ ainPeer t port = false ∧ (looped s port = false → 0xB00 ∈ t.crier.pend) := by
  have hl := lt_of_accepted hacc
  have hkept := (takenOn_ainReceive hacc.2).chainKept
  have hheard : helloHeard port msg (ainReceive s port msg).1 = helloLooped port (ainReceive s port msg).1 := by
    rw [helloHeard, if_neg (by simp [hauth, hkept.auth]), if_pos (by rw [hkept.top]; exact hid)]
  refine ⟨_, (exec_hello hacc).trans (congrArg Host.Outcome.next hheard), ?_, ?_, fun hpend => ?_⟩
  · unfold Machine.looped helloLooped
    rw [regBit_of_reg (reg_whenB (fun w => reg_raise_aAinPort w (by decide)) _ _), regBit_setBit_same (by decide)]
  · have hraise : ∀ w : State, reg (raise w 0xB00) (aPortState port) = reg w (aPortState port) := fun w => reg_raise_aLane w (by decide)
    unfold ainPeer helloLooped
    rw [regBit_of_reg (reg_whenB hraise _ _),
      regBit_of_reg (reg_setBit_ne (aAinPort_ne_aPortState hl (by decide)).symm)]
    exact ainPeer_endSession _ hl
  · rw [helloLooped, hkept.looped hl, hpend]
    exact mem_raise _ _

/-- A HELLO is counted without a look at the session (R386). -/
theorem ainReceive_hello (htype : msg.type = 1) (h : (ainReceive s port msg).2 = true) : (ainReceive s port msg).1 = ainCount s 1 := by
  unfold ainReceive at h ⊢
  simp only [htype] at h ⊢
  split_ifs at h ⊢ <;> simp_all

theorem ainumComplete_otherAuth (hacc : Accepted s port 1 msg) (hauth : msg.arg.testBit 5 ≠ ainAuth s) :
    Completes (.hello port msg) s fun t => t.ainum = s.ainum ∧ ainPeer t port = ainPeer s port := by
  have hl := lt_of_accepted hacc
  have hkept := (takenOn_ainReceive hacc.2).chainKept
  have hheard : helloHeard port msg (ainReceive s port msg).1 = raiseLimited (ainCount s 1) 0xB01 1000000 := by
    rw [helloHeard, if_pos (by simpa [hkept.auth] using hauth), ainReceive_hello hacc.1 hacc.2]
  refine ⟨_, (exec_hello hacc).trans (congrArg Host.Outcome.next hheard), ?_, ?_⟩
  · exact Only.raiseLimited (fr := [.regs, .owed, .lastRaise, .crier, .flt]) _ 0xB01 1000000
      (Only.add64 _ _ _ (Only.refl s) (by decide)) (by decide) (by decide) (by decide) (by decide) (by decide) .ainum (by decide)
  · have hpeer : ainPeer (ainCount s 1) port = ainPeer s port := by rw [← ainReceive_hello hacc.1 hacc.2, hkept.peer hl]
    exact (regBit_of_reg (reg_raiseLimited_mid (midBlock_portState hl) _ _ (by decide)) 25).trans hpeer

/-- A HELLO that is cut, or whose LEN or CRC is wrong (R386, R389, R401). -/
theorem ainumComplete_discarded (htype : msg.type = 1) (hlive : ainLive s port = true) :
    Completes (.hello port msg) s fun t =>
      (msg.cut = true → t = s)
      ∧ (msg.cut = false → msg.len ≠ 6 → reg64 t (aAin 0x120) = (reg64 s (aAin 0x120) + 1) % 2 ^ 64 ∧ t.ainum = s.ainum)
      ∧ (msg.cut = false → msg.len = 6 → msg.check ≠ ainCrc msg →
        reg64 t (aAin 0x110) = (reg64 s (aAin 0x110) + 1) % 2 ^ 64 ∧ t.ainum = s.ainum) := by
  have hcounted : ∀ k, reg64 (raiseLimited (ainCount s k) 0xB06 1000000) (aAin (0x100 + 8 * k)) = (reg64 s (aAin (0x100 + 8 * k)) + 1) % 2 ^ 64
      ∧ (raiseLimited (ainCount s k) 0xB06 1000000).ainum = s.ainum := fun k => by
    constructor
    · rw [reg64_of_reg (reg_raiseLimited_aAin _ (by decide)) (reg_raiseLimited_aAin (o := 0x100 + 8 * k + 4) _ (by decide)), ainCount,
        reg64_add64_same]
    · exact Only.raiseLimited (fr := [.regs, .owed, .lastRaise, .crier, .flt]) _ 0xB06 1000000
        (Only.add64 _ _ _ (Only.refl s) (by decide)) (by decide) (by decide) (by decide) (by decide) (by decide) .ainum (by decide)
  have hexec : exec (.hello port msg) s
      = .next (if (ainReceive s port msg).2 = true then helloHeard port msg (ainReceive s port msg).1 else (ainReceive s port msg).1) := by
    refine congrArg Host.Outcome.next ?_
    unfold ainTake
    rw [if_neg (by simp [htype])]
    rfl
  have hcut : msg.cut = true → ainReceive s port msg = (s, false) := fun h => by simp [ainReceive, h]
  have hlen : msg.cut = false → msg.len ≠ 6 → ainReceive s port msg = (raiseLimited (ainCount s 4) 0xB06 1000000, false) := fun h h6 => by
    simp [ainReceive, h, hlive, htype, ainLen, Ne.symm h6]
  have hcrc : msg.cut = false → msg.len = 6 → msg.check ≠ ainCrc msg →
      ainReceive s port msg = (raiseLimited (ainCount s 2) 0xB06 1000000, false) := fun h h6 hc => by
    simp [ainReceive, h, hlive, htype, ainLen, h6, hc]
  refine ⟨_, hexec, fun h => ?_, fun h h6 => ?_, fun h h6 hc => ?_⟩
  · rw [hcut h]
    rfl
  · rw [hlen h h6]
    exact hcounted 4
  · rw [hcrc h h6 hc]
    exact hcounted 2

-- CONFIRM (R390, R391).

theorem exec_confirm (h : Accepted s port 2 msg) : exec (.confirm port msg) s
    = .next (if (ainAuth (ainReceive s port msg).1 && !looped (ainReceive s port msg).1 port) = true
      then peerFound (ainReceive s port msg).1 port else (ainReceive s port msg).1) :=
  congrArg Host.Outcome.next (ainTake_of_accepted h _)

theorem ainumComplete_confirmed (hacc : Accepted s port 2 msg) (hauth : ainAuth s = true) (hloop : looped s port = false) :
    Completes (.confirm port msg) s fun t => ainPeer t port = true ∧ regBit t (aAinPort port 4) 31 = true
      ∧ regBit t (aAinPort port 4) 29 = true ∧ (ainPeer s port = false → 0xB00 ∈ t.crier.pend) := by
  have hl := lt_of_accepted hacc
  have hkept := (takenOn_ainReceive hacc.2).chainKept
  have hstatus := reg_peerFound_aAinPort (s := (ainReceive s port msg).1) hl (show 4 < 0x40 by decide)
  refine ⟨_, (exec_confirm hacc).trans (by rw [hkept.auth, hkept.looped hl, hauth, hloop, Bool.not_false, Bool.and_self, if_pos rfl]),
    ainPeer_peerFound hl, ?_, ?_, fun hpeer => ?_⟩
  · rw [regBit_of_reg hstatus, regBit_setBit_ne (.inr (by decide)), regBit_setBit_same (by decide)]
  · rw [regBit_of_reg hstatus, regBit_setBit_same (by decide), hkept.auth, hauth]
  · exact mem_pend_peerFound hl (by rw [hkept.peer hl, hpeer])

/-- A failed check under AUTH = 1 ends in `ainAuthFail`, the requests for the link key counted or not. -/
theorem ainReceive_failed (hlive : ainLive s port = true) (hauth : ainAuth s = true) (htype : msg.type = 2) (hlen : msg.len = 0)
    (hcut : msg.cut = false) (hfail : (ainReceive s port msg).2 = false) :
    (ainReceive s port msg).1 = ainAuthFail s port ∨ (ainReceive s port msg).1 = ainAuthFail (secCount s 0) port := by
  unfold ainReceive at hfail ⊢
  rw [if_neg (by simp [hlive, hcut]), if_neg (by simp [htype, hlen, ainLen]), if_neg (by simp [hauth, htype])] at hfail ⊢
  dsimp only at hfail ⊢
  split
  next => exact .inl rfl
  next k hk =>
    simp only [hk] at hfail
    split_ifs at hfail ⊢
    exact .inr rfl

/-- The failures of the last second, this one with them. -/
theorem ainAuthFail_cases (s : State) (l : Nat) : ∃ x, ainAuthFail s l = setAin (raiseLimited (secCount (ainCount s 3) 1) 0xB01 1000000) l x
    ∨ ainAuthFail s l = endSession (setAin (raiseLimited (secCount (ainCount s 3) 1) 0xB01 1000000) l x) l := by
  unfold ainAuthFail
  dsimp only
  split
  · exact ⟨_, .inr rfl⟩
  · exact ⟨_, .inl rfl⟩

theorem reg_secCount_aAin (k : Nat) (s : State) {o : Nat} (ho : o < 0x100000) : reg (secCount s k) (aAin o) = reg s (aAin o) := by
  refine reg_add64_ne ?_ ?_ <;> simp only [aAin, aSec] <;> omega

theorem reg_endSession_aAin (s : State) {l o : Nat} (hl : l < 1152) (ho : o < 0x10000) : reg (endSession s l) (aAin o) = reg s (aAin o) := by
  unfold endSession
  dsimp only
  rw [reg_whenB fun u => reg_raise_aAin u (by decide), reg_setF_ne (by simp only [aAin, aAinPort]; omega),
    reg_setBit_ne (by simp only [aAin, aPortState, aLane, aLan]; omega)]
  rfl

/-- The failure is counted in AUTH_FAILS. -/
theorem reg64_ainAuthFail (s : State) {l : Nat} (hl : l < 1152) : reg64 (ainAuthFail s l) (aAin 0x118) = (reg64 s (aAin 0x118) + 1) % 2 ^ 64 := by
  have hcounted : ∀ x, reg64 (setAin (raiseLimited (secCount (ainCount s 3) 1) 0xB01 1000000) l x) (aAin 0x118)
      = (reg64 s (aAin 0x118) + 1) % 2 ^ 64 := fun x => by
    have hlimited : reg64 (raiseLimited (secCount (ainCount s 3) 1) 0xB01 1000000) (aAin 0x118) = reg64 (ainCount s 3) (aAin 0x118) :=
      reg64_of_reg ((reg_raiseLimited_aAin _ (by decide)).trans (reg_secCount_aAin 1 _ (by decide)))
        ((reg_raiseLimited_aAin (o := 0x11C) _ (by decide)).trans (reg_secCount_aAin 1 _ (by decide)))
    exact hlimited.trans (reg64_add64_same _ _ _)
  obtain ⟨x, h | h⟩ := ainAuthFail_cases s l <;> rw [h]
  · exact hcounted x
  · rw [reg64_of_reg (reg_endSession_aAin _ hl (by decide)) (reg_endSession_aAin (o := 0x11C) _ hl (by decide)), hcounted]

theorem ainPeer_ainAuthFail (hl : port < 1152) (h : ainPeer s port = false) : ainPeer (ainAuthFail s port) port = false := by
  have hlane : ∀ (u : State) k, k < 0x100 → reg (ainCount u k) (aPortState port) = reg u (aPortState port) := fun u k hk =>
    reg_aLane_of_laneRegs (laneRegs_ainCount u k hk) hl (by decide)
  have hsec : ∀ u : State, reg (secCount u 1) (aPortState port) = reg u (aPortState port) := fun u =>
    reg_secCount_mid (midBlock_portState hl) u (by decide)
  obtain ⟨x, hx | hx⟩ := ainAuthFail_cases s port <;> rw [hx]
  · refine (regBit_of_reg ?_ 25).trans h
    change reg (raiseLimited _ _ _) (aPortState port) = _
    rw [reg_raiseLimited_mid (midBlock_portState hl) _ _ (by decide), hsec, hlane _ _ (by decide)]
  · exact ainPeer_endSession _ hl

theorem lt_of_ainLive (h : ainLive s port = true) : port < 1152 := by
  by_contra hl
  simp [ainLive, portLanes, hl] at h

theorem ainumComplete_unconfirmed (hlive : ainLive s port = true) (hauth : ainAuth s = true) (htype : msg.type = 2) (hlen : msg.len = 0)
    (hcut : msg.cut = false) (hfail : (ainReceive s port msg).2 = false) :
    Completes (.confirm port msg) s fun t => reg64 t (aAin 0x118) = (reg64 s (aAin 0x118) + 1) % 2 ^ 64
      ∧ (ainPeer s port = false → ainPeer t port = false) := by
  have hl : port < 1152 := lt_of_ainLive hlive
  have hexec : exec (.confirm port msg) s = .next (ainReceive s port msg).1 := by
    refine congrArg Host.Outcome.next ?_
    unfold ainTake
    rw [if_neg (by simp [htype])]
    dsimp only
    rw [if_neg (by rw [hfail]; exact Bool.false_ne_true)]
  refine ⟨_, hexec, ?_⟩
  rcases ainReceive_failed hlive hauth htype hlen hcut hfail with h | h <;> rw [h]
  · exact ⟨reg64_ainAuthFail s hl, ainPeer_ainAuthFail hl⟩
  · refine ⟨?_, fun hpeer => ainPeer_ainAuthFail hl ?_⟩
    · rw [reg64_ainAuthFail _ hl, reg64_of_reg (reg_secCount_aAin 0 s (by decide)) (reg_secCount_aAin (o := 0x11C) 0 s (by decide))]
    · exact (regBit_of_reg (reg_secCount_mid (midBlock_portState hl) s (by decide)) 25).trans hpeer

-- STEP_PROPOSE and STEP_ACK (R142, R392).

theorem TakenOn.ports (h : TakenOn s port u) : u.ports = s.ports := h.only .ports (by decide)

theorem TakenOn.mayStep (h : TakenOn s port u) (hl : port < 1152) : Machine.mayStep u port = Machine.mayStep s port := by
  have hstate : ∀ o, o < 0x100 → Machine.reg u (aLane port o) = Machine.reg s (aLane port o) := fun o ho => reg_aLane_of_laneRegs h.lanes hl ho
  have hladder : isLadder u port = isLadder s port := isLadder_congr (hstate 0 (by decide))
  have hstate3 : portState u port = portState s port := regF_of_reg (hstate 4 (by decide)) _ _
  have hdown : islandDown u (72 + port / 32) = islandDown s (72 + port / 32) := by
    unfold islandDown islandHeld
    rw [h.only .top (by decide)]
  have hport : getPort u port = getPort s port := getPort_of_ports h.ports
  rw [Machine.mayStep, Machine.mayStep, portLive, portLive, portLanes_of_laneRegs h.lanes, hladder, hstate3, hdown, hport]

theorem TakenOn.fwRuns (h : TakenOn s port u) : Machine.fwRuns u = Machine.fwRuns s :=
  regBit_of_reg (h.reg 0x40 (by decide)) 3

/-- A proposal in the state that accepted it. -/
theorem exec_stepPropose (hacc : Accepted s port 3 msg) (hmay : mayStep s port = true) (hloop : looped s port = false)
    (hpeer : ainPeer s port = true) : exec (.stepPropose port msg) s
      = .next (if fwRuns s then queueMsg (ainReceive s port msg).1 port (mkMsg 4 0 (msg.arg % 256) 0)
        else modPort (ainReceive s port msg).1 port fun x => { x with owedAck := some (msg.arg % 256) }) := by
  have hl := lt_of_accepted hacc
  have htaken := takenOn_ainReceive hacc.2
  have hkept := htaken.chainKept
  refine congrArg Host.Outcome.next ((ainTake_of_accepted hacc _).trans ?_)
  rw [htaken.mayStep hl, hkept.looped hl, hkept.peer hl, htaken.fwRuns, hmay, hloop, hpeer, if_neg (by decide)]

theorem ainumComplete_propose (hacc : Accepted s port 3 msg) (hmay : mayStep s port = true) (hloop : looped s port = false)
    (hpeer : ainPeer s port = true) (hfw : fwRuns s = true) :
    Completes (.stepPropose port msg) s fun t => (getAin t port).pend.getLast? = some (mkMsg 4 0 (msg.arg % 256) 0) :=
  ⟨_, (exec_stepPropose hacc hmay hloop hpeer).trans (congrArg Host.Outcome.next (if_pos hfw)), pend_last_queueMsg _ _ _⟩

theorem ainumComplete_proposeOwed (hacc : Accepted s port 3 msg) (hmay : mayStep s port = true) (hloop : looped s port = false)
    (hpeer : ainPeer s port = true) (hfw : fwRuns s = false) :
    Completes (.stepPropose port msg) s fun t => (getPort t port).owedAck = some (msg.arg % 256) :=
  ⟨_, (exec_stepPropose hacc hmay hloop hpeer).trans (congrArg Host.Outcome.next (if_neg (by simp [hfw]))),
    congrArg PortSt.owedAck (getPort_modPort _ _)⟩

theorem ports_takeStep (s : State) (l : Nat) :
    (takeStep s l).ports = (modPort s l fun x => { x with stepTaken := true, proposed := none }).ports := rfl

theorem ainumComplete_stepAck (hacc : Accepted s port 4 msg) (hmay : mayStep s port = true) :
    Completes (.stepAck port msg) s fun t =>
      ((getPort s port).proposed = some (msg.arg % 256) → (getPort t port).stepTaken = true ∧ (getPort t port).proposed = none)
      ∧ ((getPort s port).proposed ≠ some (msg.arg % 256) → t.ports = s.ports) := by
  have hl := lt_of_accepted hacc
  have htaken := takenOn_ainReceive hacc.2
  have hport : getPort (ainReceive s port msg).1 port = getPort s port := getPort_of_ports htaken.ports
  have hexec : exec (.stepAck port msg) s = .next (if (getPort s port).proposed = some (msg.arg % 256)
      then takeStep (ainReceive s port msg).1 port else (ainReceive s port msg).1) := by
    refine congrArg Host.Outcome.next ((ainTake_of_accepted hacc _).trans ?_)
    rw [htaken.mayStep hl, hmay, hport, Bool.true_and]
    simp only [beq_iff_eq]
  refine ⟨_, hexec, fun h => ?_, fun h => ?_⟩
  · rw [if_pos h, getPort_of_ports (ports_takeStep _ _), getPort_modPort]
    exact ⟨rfl, rfl⟩
  · rw [if_neg h, htaken.ports]

-- Time (R393, R394).

theorem ainumComplete_exchange (hlive : ainLive s port = true) (hpeer : ainPeer s port = true) (hen : regBit s (aAinPort port 0) 29 = true)
    (hrate : regF s (aAin 0x10) 7 0 ≠ 0) (hinit : timeInitiator s port = true) :
    Completes (.timeSyncTimer port) s fun t =>
      (getAin t port).pend.getLast? = some (mkMsg 5 4 (((getAin s port).exch + 1) % 256) 0) :=
  ⟨_, congrArg Host.Outcome.next (if_pos (by simp [hlive, hpeer, hen, hrate, hinit])), pend_last_queueMsg _ _ _⟩

theorem TakenOn.ingressStamp (h : TakenOn s port u) (hl : port < 1152) (pcs : Stamp) :
    Machine.ingressStamp u port pcs = Machine.ingressStamp s port pcs := by
  have hreg : ∀ o, o < 0x100000 → Machine.reg u (aTim o) = Machine.reg s (aTim o) := fun o ho => h.reg _ (by
    simp only [List.mem_cons, List.not_mem_nil, or_false, not_or, aTim, Machine.aAin, aSec]
    omega)
  rw [Machine.ingressStamp, Machine.ingressStamp, portAdj, portAdj, hreg _ (by omega), hreg _ (by omega)]

theorem ainumComplete_timeSync {t2 : Stamp} (hacc : Accepted s port 5 msg) :
    Completes (.timeSync port msg t2) s fun t =>
      (getAin t port).pend.getLast? = some (mkMsg 6 8 (msg.arg % 256) (stampBits (ingressStamp s port t2) * 2 ^ 96)) := by
  refine ⟨_, congrArg Host.Outcome.next (ainTake_of_accepted hacc _), ?_⟩
  beta_reduce
  rw [pend_last_queueMsg, (takenOn_ainReceive hacc.2).ingressStamp (lt_of_accepted hacc)]

/-- The mean of an exchange in the state that accepted its reply, rounded freely, and the offset that it gives. -/
def replyMean (s : State) (port b : Nat) (t4 : Stamp) (msg : AinMsg) : Int :=
  (exchTwice s port b t4 msg + (b2n (Config.freeBool s.freeCtr) : Nat)) / 2
def replyOffset (s : State) (port b : Nat) (t4 : Stamp) (msg : AinMsg) : Int :=
  exchT2 msg - (b : Int) - replyMean s port b t4 msg - toSigned 32 (reg s (aAinPort port 0x10)).toNat

/-- The registers that end an exchange. -/
def replyShown (s : State) (port b : Nat) (t4 : Stamp) (msg : AinMsg) : State :=
  setBit (setReg (setReg (setReg64 (setAin (drawn s) port { getAin s port with t1 := none }) (aAinPort port 0x18)
      (ofSigned 64 (replyOffset s port b t4 msg))) (aAinPort port 0x20) (BitVec.ofNat 32 (ofSigned 32 (replyMean s port b t4 msg))))
    (aAinPort port 0x28) (BitVec.ofNat 32 (ts32Of (ingressStamp s port t4 / 65536)))) (aAinPort port 0x24) 31 true
def replyEnds (s : State) (port b : Nat) (t4 : Stamp) (msg : AinMsg) : State :=
  whenB (regBit (replyShown s port b t4 msg) (aAinPort port 0) 28) (raise · 0xB02) (replyShown s port b t4 msg)

theorem exec_timeReply {t4 : Stamp} {b : Nat} (hacc : Accepted s port 6 msg) (ht1 : (getAin (ainReceive s port msg).1 port).t1 = some b) :
    exec (.timeReply port msg t4) s = .next (if msg.arg % 256 ≠ (getAin (ainReceive s port msg).1 port).exch then (ainReceive s port msg).1
      else replyEnds (ainReceive s port msg).1 port b t4 msg) := by
  refine congrArg Host.Outcome.next ((ainTake_of_accepted hacc _).trans ?_)
  rw [ht1]
  rfl

theorem ofSigned_lt (w : Nat) (i : Int) : ofSigned w i < 2 ^ w := by
  have hpos : (0 : Int) < (2 ^ w : Nat) := by exact_mod_cast Nat.two_pow_pos w
  have hlow := Int.emod_nonneg i hpos.ne'
  have hhigh := Int.emod_lt_of_pos i hpos
  unfold ofSigned
  omega

theorem reg_replyEnds (u : State) {b : Nat} {t4 : Stamp} {o : Nat} :
    reg (replyEnds u port b t4 msg) (aAinPort port o) = reg (replyShown u port b t4 msg) (aAinPort port o) :=
  reg_whenB (fun w => reg_raise_aAinPort w (by decide)) _ _

theorem getAin_replyEnds (u : State) {b : Nat} {t4 : Stamp} : (getAin (replyEnds u port b t4 msg) port).t1 = none := by
  have hshown : getAin (replyShown u port b t4 msg) port = { getAin u port with t1 := none } := mapGet_mapPut_same
  have hraise : (replyEnds u port b t4 msg).ainum = (replyShown u port b t4 msg).ainum := by
    unfold replyEnds whenB
    split
    · exact raise_ainum _ _
    · rfl
  rw [getAin, hraise]
  exact congrArg AinPort.t1 hshown

/-- DELAY, OFFSET and EX_TS32 show the exchange. -/
theorem regs_replyShown (u : State) (b : Nat) (t4 : Stamp) :
    regBit (replyShown u port b t4 msg) (aAinPort port 0x24) 31 = true
      ∧ (reg (replyShown u port b t4 msg) (aAinPort port 0x28)).toNat = ts32Of (ingressStamp u port t4 / 65536) % 2 ^ 32
      ∧ (reg (replyShown u port b t4 msg) (aAinPort port 0x20)).toNat = ofSigned 32 (replyMean u port b t4 msg)
      ∧ reg64 (replyShown u port b t4 msg) (aAinPort port 0x18) = ofSigned 64 (replyOffset u port b t4 msg) := by
  refine ⟨regBit_setBit_same (by decide), ?_, ?_, ?_⟩
  · rw [replyShown, reg_setBit_ne (aAinPort_ne (by decide)), reg_setReg_same]
    rfl
  · rw [replyShown, reg_setBit_ne (aAinPort_ne (by decide)), reg_setReg_ne (aAinPort_ne (by decide)), reg_setReg_same, BitVec.toNat_ofNat,
      Nat.mod_eq_of_lt (ofSigned_lt _ _)]
  · have hkept : ∀ o, o ≠ 0x24 → o ≠ 0x28 → o ≠ 0x20 → reg (replyShown u port b t4 msg) (aAinPort port o)
        = reg (setReg64 (setAin (drawn u) port { getAin u port with t1 := none }) (aAinPort port 0x18)
          (ofSigned 64 (replyOffset u port b t4 msg))) (aAinPort port o) := fun o h1 h2 h3 => by
      rw [replyShown, reg_setBit_ne (aAinPort_ne h1), reg_setReg_ne (aAinPort_ne h2), reg_setReg_ne (aAinPort_ne h3)]
    rw [reg64_of_reg (hkept 0x18 (by decide) (by decide) (by decide)) (hkept 0x1C (by decide) (by decide) (by decide)), reg64_setReg64,
      Nat.mod_eq_of_lt (ofSigned_lt _ _)]

theorem regBit_replyShown (u : State) (b : Nat) (t4 : Stamp) :
    regBit (replyShown u port b t4 msg) (aAinPort port 0) 28 = regBit u (aAinPort port 0) 28 := by
  refine regBit_of_reg ?_ 28
  rw [replyShown, reg_setBit_ne (aAinPort_ne (by decide)), reg_setReg_ne (aAinPort_ne (by decide)), reg_setReg_ne (aAinPort_ne (by decide)),
    reg_setReg64_ne _ _ (aAinPort_ne (by decide)) (aAinPort_ne (o' := 0x1C) (by decide))]
  rfl

/-- The exchange ends as `ExchEnds` has it, whichever way the mean is rounded. -/
theorem exchEnds_replyEnds (htaken : TakenOn s port u) (hl : port < 1152) (b : Nat) (t4 : Stamp) :
    ExchEnds s (replyEnds u port b t4 msg) port b 0 t4 msg ∨ ExchEnds s (replyEnds u port b t4 msg) port b 1 t4 msg := by
  obtain ⟨-, -, hdelay, hoffset⟩ := regs_replyShown (port := port) (msg := msg) u b t4
  have hstamp : exchTwice u port b t4 msg = exchTwice s port b t4 msg := by rw [exchTwice, exchTwice, htaken.ingressStamp hl]
  have hcorr : reg u (aAinPort port 0x10) = reg s (aAinPort port 0x10) := htaken.aAin (.inr (by omega)) (by omega)
  have hends : ∀ half : Nat, b2n (Config.freeBool u.freeCtr) = half → ExchEnds s (replyEnds u port b t4 msg) port b half t4 msg := fun half hh => by
    constructor
    · rw [reg_replyEnds, hdelay, replyMean, hstamp, hh]
    · rw [reg64_of_reg (reg_replyEnds u) (reg_replyEnds (o := 0x1C) u), hoffset, replyOffset, replyMean, hstamp, hcorr, hh]
  cases hfree : Config.freeBool u.freeCtr
  · exact .inl (hends 0 (by rw [hfree]; rfl))
  · exact .inr (hends 1 (by rw [hfree]; rfl))

theorem ainumComplete_reply {t4 : Stamp} {b : Nat} (hacc : Accepted s port 6 msg) (ht1 : (getAin s port).t1 = some b) :
    Completes (.timeReply port msg t4) s fun t =>
      (msg.arg % 256 = (getAin s port).exch → (getAin t port).t1 = none ∧ regBit t (aAinPort port 0x24) 31 = true
        ∧ (reg t (aAinPort port 0x28)).toNat = ts32Of (ingressStamp s port t4 / 65536) % 2 ^ 32
        ∧ (ExchEnds s t port b 0 t4 msg ∨ ExchEnds s t port b 1 t4 msg)
        ∧ (regBit s (aAinPort port 0) 28 = true → 0xB02 ∈ t.crier.pend))
      ∧ (msg.arg % 256 ≠ (getAin s port).exch → (getAin t port).t1 = some b ∧ reg64 t (aAinPort port 0x18) = reg64 s (aAinPort port 0x18)) := by
  have hl := lt_of_accepted hacc
  have htaken := takenOn_ainReceive hacc.2
  obtain ⟨c, hc⟩ := htaken.port
  have ht1u : (getAin (ainReceive s port msg).1 port).t1 = some b := by rw [hc, ← ht1]
  have hexch : (getAin (ainReceive s port msg).1 port).exch = (getAin s port).exch := by rw [hc]
  refine ⟨_, exec_timeReply hacc ht1u, fun h => ?_, fun h => ?_⟩
  · rw [if_neg (by rw [hexch]; exact not_not_intro h)]
    obtain ⟨hvalid, hts, -, -⟩ := regs_replyShown (port := port) (msg := msg) (ainReceive s port msg).1 b t4
    refine ⟨getAin_replyEnds _, (regBit_of_reg (reg_replyEnds _) 31).trans hvalid, ?_, exchEnds_replyEnds htaken hl b t4, fun hirq => ?_⟩
    · rw [reg_replyEnds, hts, htaken.ingressStamp hl]
    · have hbit : regBit (ainReceive s port msg).1 (aAinPort port 0) 28 = true :=
        (regBit_of_reg (htaken.aAin (.inr (by omega)) (by omega)) 28).trans hirq
      rw [replyEnds, regBit_replyShown, hbit]
      exact mem_raise _ _
  · rw [if_pos (by rw [hexch]; exact h)]
    exact ⟨ht1u, reg64_of_reg (htaken.aAin (.inr (by omega)) (by omega)) (htaken.aAin (o := 0x10000 + 0x40 * port + 0x1C) (.inr (by omega)) (by omega))⟩

end

/-- Settles O38: each clause is one message command, on the state that took the message where it takes one. -/
theorem ainumComplete : Obligations.AinumComplete := by
  unfold Obligations.AinumComplete
  exact ⟨fun _ _ _ _ _ => ainumComplete_send, fun _ _ _ _ => ainumComplete_idle, fun _ _ => ainumComplete_hello, fun _ _ => ainumComplete_helloWaits,
    fun _ _ _ _ => ainumComplete_neighbour, fun _ _ _ _ => ainumComplete_looped, fun _ _ _ => ainumComplete_otherAuth,
    fun _ _ _ _ hlive htype => ainumComplete_discarded htype hlive, fun _ _ _ _ => ainumComplete_confirmed,
    fun _ _ _ _ => ainumComplete_unconfirmed, fun _ _ _ => ainumComplete_propose, fun _ _ _ => ainumComplete_proposeOwed,
    fun _ _ _ => ainumComplete_stepAck, fun _ _ => ainumComplete_exchange, fun _ _ _ _ => ainumComplete_timeSync,
    fun _ _ _ _ _ _ => ainumComplete_reply, fun _ _ _ => ainumComplete_timeout⟩

end Sys2Proof.Proofs
end

section
/-!
Proofs of the statement on heat: what a source and a record leave of the registers of Scales, and the droop detectors (R455, R456).
-/
namespace Sys2Proof.Proofs

open Sys2Proof Sys2Proof.Machine Sys2Proof.Laws

-- What a source and a record leave of the registers of Scales.

theorem aScl_ne {o o' : Nat} (h : o ≠ o') : aScl o ≠ aScl o' := by
  simp only [aScl]
  omega

theorem reg_raise_aScl (s : State) {id o : Nat} (hid : id < 4096) : reg (raise s id) (aScl o) = reg s (aScl o) := by
  refine reg_raise_ne ?_ ?_ ?_ ?_ <;> simp only [aScl, aEsc, aFlt] <;> omega

theorem reg_raiseLimited_aScl (s : State) {id o : Nat} (ns : Nat) (hid : id < 4096) : reg (raiseLimited s id ns) (aScl o) = reg s (aScl o) := by
  rw [raiseLimited]
  split
  · exact reg_raise_aScl _ hid
  · rfl

/-- A raise that its interval lets through. -/
theorem mem_raiseLimited {s : State} {id ns : Nat} (h : intervalOver s id ns = true) : id ∈ (raiseLimited s id ns).crier.pend := by
  rw [raiseLimited, if_pos h]
  exact mem_raise _ _

/-- A field counted up, stopping at its greatest value. -/
theorem regF_satF {s : State} {a hi lo n : Nat} (hh : hi < 32) :
    regF (satF s a hi lo n) a hi lo = min (2 ^ (hi + 1 - lo) - 1) (regF s a hi lo + n) := by
  have hpos := Nat.two_pow_pos (hi + 1 - lo)
  rw [satF, regF_setF_same hh, satAdd, Nat.mod_eq_of_lt (by omega)]

-- Droop (R455, R456).

section
variable {s : State} {island : Nat}

theorem droopIndex_le (island : Nat) : droopIndex island ≤ 17 := by
  unfold droopIndex pipeHall pipeGroup hallOf
  split_ifs <;> omega

/-- The island's detector trips: the clock is stretched, the trip counted. -/
def droopCounted (s : State) (island : Nat) : State :=
  raiseLimited (satF (setScl s fun x => { x with stretched := x.stretched ++ [island] }) (aScl (0xA0 + 4 * droopIndex island)) 31 16 1) 0xC08 1000000

/-- A glide in progress freezes. -/
def droopFrozen (s : State) (island : Nat) : State := pauseDeferral (setScl s fun x => { x with frozen := addOnce x.frozen island }) island

theorem stretch_new (hdet : hasDetector island = true) (hnew : island ∉ s.scales.stretched) : stretch s island
    = whenB (decide (island < 72) && gliding (droopCounted s island) island) (droopFrozen · island) (droopCounted s island) := by
  rw [stretch, if_neg (by simp [hdet, hnew])]
  rfl

theorem gliding_droopCounted (s : State) {p : Nat} : gliding (droopCounted s island) p = gliding s p := by
  have hle := droopIndex_le island
  refine regBit_of_reg ?_ 29
  rw [aPipeClk, droopCounted, reg_raiseLimited_aScl _ _ (by decide), satF, reg_setF_ne (aScl_ne (by omega))]
  rfl

theorem regF_droopCounted (s : State) : regF (droopCounted s island) (aScl (0xA0 + 4 * droopIndex island)) 31 16
    = min 65535 (regF s (aScl (0xA0 + 4 * droopIndex island)) 31 16 + 1) :=
  (regF_of_reg (reg_raiseLimited_aScl _ _ (by decide)) 31 16).trans (regF_satF (by decide))

theorem heatComplete_trip (hreset : s.top.inReset = false) :
    Completes (.droopTrip island) s fun t =>
      (hasDetector island = true → island ∉ s.scales.stretched → t.scales.stretched = s.scales.stretched ++ [island]
        ∧ regF t (aScl (0xA0 + 4 * droopIndex island)) 31 16 = min 65535 (regF s (aScl (0xA0 + 4 * droopIndex island)) 31 16 + 1)
        ∧ (island < 72 → gliding s island = true → island ∈ t.scales.frozen) ∧ (intervalOver s 0xC08 1000000 = true → 0xC08 ∈ t.crier.pend))
      ∧ (hasDetector island = false ∨ island ∈ s.scales.stretched → Only [] s t) := by
  have hcounted : (droopCounted s island).scales.stretched = s.scales.stretched ++ [island] := by
    rw [droopCounted, raiseLimited_scales]
    rfl
  have hpend : intervalOver s 0xC08 1000000 = true → 0xC08 ∈ (droopCounted s island).crier.pend := fun h => mem_raiseLimited h
  refine ⟨stretch s island, congrArg Host.Outcome.next (by rw [hreset]; exact if_neg Bool.false_ne_true), fun hdet hnew => ?_, fun hnone => ?_⟩
  · rw [stretch_new hdet hnew, gliding_droopCounted]
    rcases hfreeze : decide (island < 72) && gliding s island with _ | _
    · exact ⟨hcounted, regF_droopCounted s, fun hp hg => by simp [hp, hg] at hfreeze, hpend⟩
    · exact ⟨hcounted, regF_droopCounted s, fun _ _ => mem_addOnce _ _, hpend⟩
  · have hsame : stretch s island = s := by
      rw [stretch, if_pos (by rcases hnone with h | h <;> simp [h])]
    rw [hsame]
    exact Only.refl s

theorem heatComplete_clear {us : Nat} :
    Completes (.droopClear island us) s fun t =>
      (island ∈ s.scales.stretched → t.scales.stretched = s.scales.stretched.erase island
        ∧ regF t (aScl (0xA0 + 4 * droopIndex island)) 15 0 = min 65535 (regF s (aScl (0xA0 + 4 * droopIndex island)) 15 0 + us))
      ∧ (island ∉ s.scales.stretched → Only [] s t) := by
  by_cases hin : island ∈ s.scales.stretched
  · refine ⟨_, congrArg Host.Outcome.next (if_neg (by simp [hin])), fun _ => ⟨?_, ?_⟩, absurd hin⟩
    · have hraise : ∀ (b : Bool) (u : State), (whenB b (raiseLimited · 0xC08 1000000) u).scales = u.scales := fun b u => by
        cases b
        · rfl
        · exact raiseLimited_scales _ _ _
      rw [hraise]
      rfl
    · exact (regF_of_reg (reg_whenB (fun u => reg_raiseLimited_aScl u _ (by decide)) _ _) 15 0).trans (regF_satF (by decide))
  · exact ⟨s, congrArg Host.Outcome.next (if_pos (by simp [hin])), fun h => absurd h hin, fun _ => Only.refl s⟩

end

end Sys2Proof.Proofs
end

section
/-!
Proofs of the statement on heat: what governs heat and glides, PIPE_CLK, and a throttle tick (R448, R451, R458).
-/
namespace Sys2Proof.Proofs

open Sys2Proof Sys2Proof.Machine Sys2Proof.Laws

section
variable {s t u : State} {p q o : Nat}

-- What governs temperature and glides: the state beside the clocks and the flags of STATUS.

/-- All that decides whether a glide may start, whether policy runs and what the temperature asks for. -/
def heatView (s : State) : (Word × Top × Nat × Store Nat) × (List Nat × List Nat × List Nat × Option Nat) × Word × Word :=
  ((reg s 0x40, s.top, s.elapsed, s.lastRaise), (s.scales.stretched, s.scales.frozen, s.scales.engines, s.scales.coolSince),
    reg s (aScl 0x18), reg s (aScl 0x24))

theorem heatView_setReg (s : State) (w : Word) (h18 : o ≠ 0x18) (h24 : o ≠ 0x24) : heatView (setReg s (aScl o) w) = heatView s := by
  have hlow : 0x40 ≠ aScl o := by
    simp only [aScl]
    omega
  rw [heatView, reg_setReg_ne hlow, reg_setReg_ne (aScl_ne h18.symm), reg_setReg_ne (aScl_ne h24.symm)]
  rfl

theorem low_of_heatView (h : heatView t = heatView s) : reg t 0x40 = reg s 0x40 := by
  simp only [heatView, Prod.mk.injEq] at h
  obtain ⟨⟨hlow, -⟩, -⟩ := h
  exact hlow

theorem elapsed_of_heatView (h : heatView t = heatView s) : t.elapsed = s.elapsed := by
  simp only [heatView, Prod.mk.injEq] at h
  obtain ⟨⟨-, -, helapsed, -⟩, -⟩ := h
  exact helapsed

theorem tj_of_heatView (h : heatView t = heatView s) : reg t (aScl 0x24) = reg s (aScl 0x24) := by
  simp only [heatView, Prod.mk.injEq] at h
  obtain ⟨-, -, -, htj⟩ := h
  exact htj

theorem engines_of_heatView (h : heatView t = heatView s) : t.scales.engines = s.scales.engines := by
  simp only [heatView, Prod.mk.injEq] at h
  obtain ⟨-, ⟨-, -, hengines, -⟩, -⟩ := h
  exact hengines

theorem mayGlide_of_heatView (h : heatView t = heatView s) (p : Nat) : mayGlide t p = mayGlide s p := by
  simp only [heatView, Prod.mk.injEq] at h
  obtain ⟨⟨h40, -, helapsed, hlast⟩, ⟨hstretched, hfrozen, -, -⟩, -, -⟩ := h
  rw [mayGlide, mayGlide, detectorClear, detectorClear, intervalOver, intervalOver, lastOf, lastOf, bringup, bringup, regBit_of_reg h40,
    helapsed, hlast, hstretched, hfrozen]

theorem sclPolicy_of_heatView (h : heatView t = heatView s) : sclPolicy t = sclPolicy s := by
  simp only [heatView, Prod.mk.injEq] at h
  obtain ⟨⟨h40, htop, -, -⟩, -, -, -⟩ := h
  rw [sclPolicy, sclPolicy, fwRuns, fwRuns, bringup, bringup, regBit_of_reg h40, sclLive, sclLive, islandDown, islandDown, islandHeld, islandHeld,
    htop]

-- PIPE_CLK (Table SCL-5): a glide changes the step of its pipeline and nothing else of a clock.

theorem aPipeClk_ne (h : p ≠ q) : aPipeClk p ≠ aPipeClk q := aScl_ne (by omega)

theorem stepNow_lt (s : State) (p : Nat) : stepNow s p < 4 := Nat.mod_lt _ (by decide)

theorem heatView_setStep (s : State) (p st : Nat) : heatView (setStep s p st) = heatView s := by
  unfold setStep
  split
  · rfl
  · exact (heatView_setReg _ _ (by omega) (by omega)).trans ((heatView_setReg _ _ (by omega) (by omega)).trans rfl)

theorem reg_setStep_ne {a : Nat} (h : a ≠ aPipeClk p) (s : State) (st : Nat) : reg (setStep s p st) a = reg s a := by
  unfold setStep
  split
  · rfl
  · dsimp only
    rw [reg_setBit_ne h, reg_setF_ne h]
    rfl

theorem stepNow_setStep_ne (h : q ≠ p) (s : State) (st : Nat) : stepNow (setStep s p st) q = stepNow s q :=
  regF_of_reg (reg_setStep_ne (aPipeClk_ne h) s st) 31 30

/-- NOW names the step commanded, where a glide may start. -/
theorem stepNow_setStep_same (s : State) {st : Nat} (hst : st < 4) : stepNow (setStep s p st) p = if mayGlide s p then st else stepNow s p := by
  unfold setStep
  by_cases hglide : mayGlide s p = true
  · rw [if_pos hglide]
    by_cases hsame : stepNow s p = st
    · rw [if_pos (by simp [hsame]), hsame]
    · rw [if_neg (by simp [hsame, hglide])]
      dsimp only
      rw [stepNow, regF_setBit_ne (by decide) (.inr (by decide)), regF_setF_same (by decide)]
      exact Nat.mod_eq_of_lt hst
  · rw [if_pos (by simp [hglide]), if_neg hglide]

theorem scales_setStep (s : State) (p st : Nat) : ∃ from', (setStep s p st).scales = { s.scales with glideFrom := from' } := by
  unfold setStep
  split
  · exact ⟨_, rfl⟩
  · exact ⟨_, rfl⟩

-- A cut of one step whose step is kept for its restoring (R448, R458).

/-- The step of a pipeline, and what governs it. -/
def clockView (p : Nat) (s : State) := (stepNow s p, heatView s)

theorem clockView_cut_ne (h : q ≠ p) (s : State) : clockView q (cutOne (keepStep s p) p) = clockView q s := by
  refine Prod.ext ?_ ?_
  · exact (stepNow_setStep_ne h _ _).trans rfl
  · exact (heatView_setStep _ _ _).trans rfl

theorem stepNow_cut_same (hglide : mayGlide s p = true) : stepNow (cutOne (keepStep s p) p) p = stepNow s p - 1 := by
  have hkeep : mayGlide (keepStep s p) p = true := hglide
  have hlt := stepNow_lt s p
  exact (stepNow_setStep_same (keepStep s p) (st := stepNow (keepStep s p) p - 1) (Nat.lt_of_le_of_lt (Nat.sub_le _ _) hlt)).trans (if_pos hkeep)

/-- Cuts of several pipelines, each of which can glide. -/
theorem stepNow_cuts {ps : List Nat} (hps : ps.Nodup) (hglide : ∀ p ∈ ps, mayGlide s p = true) (q : Nat) :
    stepNow (forEach ps (fun s p => cutOne (keepStep s p) p) s) q = if q ∈ ps then stepNow s q - 1 else stepNow s q := by
  have hview : ∀ u, ∀ p ∈ ps, p ≠ q → clockView q (cutOne (keepStep u p) p) = clockView q u := fun u p _ hne => clockView_cut_ne (Ne.symm hne) u
  by_cases hq : q ∈ ps
  · obtain ⟨u, hu, ht, -⟩ := forEach_view_at hps hq hview s
    have hstep : stepNow u q = stepNow s q := congrArg Prod.fst hu
    have hmay : mayGlide u q = true := by rw [mayGlide_of_heatView (congrArg Prod.snd hu), hglide q hq]
    rw [if_pos hq, ← hstep, ← stepNow_cut_same hmay]
    exact congrArg Prod.fst ht
  · rw [if_neg hq]
    exact congrArg Prod.fst (forEach_view (V := clockView q) (fun u p hp => hview u p hp fun h => hq (h ▸ hp)) s)

-- THROTTLE_TICK (R448, R451, R458).

/-- The pipelines that a throttle tick cuts: open to a cut, not protected. -/
def cutFree (s : State) (p : Nat) : Bool := cutOpen s p && !pipeProtected s p
def cutNow (s : State) (p : Nat) : Bool :=
  cutFree s p && hallFree s p && pipesAll.all fun q => !(cutFree s q && pipeHall q == pipeHall p) || decide (stepNow s q ≤ stepNow s p)

/-- They are the pipelines that a tick finds due. -/
def cutsDue (s : State) : List Nat := (pipesAll.filter (cutOpen s)).filter fun p => !pipeProtected s p

theorem mem_cutsDue : p ∈ cutsDue s ↔ p ∈ pipesAll ∧ cutFree s p = true := by
  simp only [cutsDue, List.mem_filter, cutFree, Bool.and_eq_true, and_assoc]

theorem any_cutFree : pipesAll.any (cutFree s) = !(cutsDue s).isEmpty := by
  rw [Bool.eq_iff_iff, List.any_eq_true, Bool.not_eq_true', List.isEmpty_eq_false_iff_exists_mem]
  simp only [mem_cutsDue]

/-- Of those due, the ones at the highest step of a hall that can have a cut are cut at once. -/
theorem throttleCuts_due (hthr : throttling s = true) : ∃ ps want, ps.Nodup ∧ (∀ p, p ∈ ps ↔ p ∈ pipesAll ∧ cutNow s p = true)
    ∧ throttleCuts (setScl s fun x => { x with throttleWant := cutsDue s })
      = forEach ps (fun s p => cutOne (keepStep s p) p) (setScl s fun x => { x with throttleWant := want }) := by
  obtain ⟨due, hdue⟩ : ∃ due, due = (cutsDue s).filter fun p => cutOpen s p && !pipeProtected s p := ⟨_, rfl⟩
  have hmem : ∀ p, p ∈ due ↔ p ∈ pipesAll ∧ cutFree s p = true := fun p => by
    rw [hdue, List.mem_filter, mem_cutsDue, cutFree]
    tauto
  have hnodup : due.Nodup := hdue ▸ (((List.nodup_range.filter _).filter _).filter _)
  obtain ⟨now, hnow⟩ : ∃ now, now = due.filter fun p => hallFree s p && due.all fun q => pipeHall q != pipeHall p || decide (stepNow s q ≤ stepNow s p) :=
    ⟨_, rfl⟩
  refine ⟨now, due.filter fun p => !now.contains p, hnow ▸ hnodup.filter _, fun p => ?_, ?_⟩
  · rw [hnow, List.mem_filter, hmem, cutNow]
    simp only [Bool.and_eq_true, List.all_eq_true, hmem, Bool.or_eq_true, Bool.not_eq_true', Bool.and_eq_false_iff, beq_eq_false_iff_ne, bne_iff_ne]
    refine ⟨fun ⟨⟨hp, hfree⟩, hhall, hall⟩ => ⟨hp, ⟨hfree, hhall⟩, fun q hq => ?_⟩, fun ⟨hp, ⟨hfree, hhall⟩, hall⟩ => ⟨⟨hp, hfree⟩, hhall, fun q hq => ?_⟩⟩
    · by_cases hqf : cutFree s q = true
      · exact (hall q ⟨hq, hqf⟩).imp .inr id
      · exact .inl (.inl (Bool.not_eq_true _ |>.mp hqf))
    · exact (hall q hq.1).imp (fun h => h.resolve_left (by simp [hq.2])) id
  · subst hnow hdue
    unfold throttleCuts
    rw [if_pos (show throttling (setScl s fun x => { x with throttleWant := cutsDue s }) = true from hthr)]
    rfl

theorem mayGlide_of_cutNow (h : cutNow s p = true) : mayGlide s p = true := by
  simp only [cutNow, cutFree, cutOpen, Bool.and_eq_true] at h
  obtain ⟨⟨⟨⟨-, hmay⟩, -⟩, -⟩, -⟩ := h
  exact hmay

theorem throttleTick_cuts (hpol : sclPolicy s = true) (hthr : throttling s = true) (hfree : pipesAll.any (cutFree s) = true) :
    exec .throttleTick s = .next (throttleCuts (setScl s fun x => { x with throttleWant := cutsDue s }))
      ∧ pipesAll.all (fun p => stepNow (throttleCuts (setScl s fun x => { x with throttleWant := cutsDue s })) p
        == if cutNow s p then stepNow s p - 1 else stepNow s p) = true := by
  constructor
  · rw [any_cutFree] at hfree
    refine congrArg Host.Outcome.next ((if_neg (by simp [hpol, hthr])).trans ?_)
    exact if_pos hfree
  · obtain ⟨ps, want, hps, hmem, hcuts⟩ := throttleCuts_due hthr
    rw [hcuts, List.all_eq_true]
    intro p hp
    have hmay : ∀ q ∈ ps, mayGlide (setScl s fun x => { x with throttleWant := want }) q = true := fun q hq =>
      mayGlide_of_cutNow ((hmem q).mp hq).2
    rw [stepNow_cuts hps hmay, beq_iff_eq]
    have hiff : (p ∈ ps) = (cutNow s p = true) := propext ⟨fun h => ((hmem p).mp h).2, fun h => (hmem p).mpr ⟨hp, h⟩⟩
    simp only [hiff]
    rfl

-- With no cut due, activity is taken (R458).

theorem mapGet_foldl_mapPut {α : Type} [DecidableEq α] {d : α} (f : Nat → α) (q : Nat) (l : List Nat) (m : Store α) :
    mapGet d (l.foldl (fun m p => mapPut d m p (f p)) m) q = if q ∈ l then f q else mapGet d m q := by
  induction l generalizing m with
  | nil => rfl
  | cons p l ih =>
    rw [List.foldl_cons, ih]
    by_cases hl : q ∈ l
    · rw [if_pos hl, if_pos (List.mem_cons_of_mem p hl)]
    · by_cases hp : q = p
      · subst hp
        rw [if_neg hl, if_pos List.mem_cons_self, mapGet_mapPut_same]
      · rw [if_neg hl, if_neg (by simp [hl, hp]), mapGet_mapPut_ne hp]

theorem stepNow_syncAct (s : State) (p q : Nat) : stepNow (syncAct s p) q = stepNow s q := regF_setF_ne (by decide) (.inr (by decide))

theorem scales_syncAct (s : State) (p : Nat) : (syncAct s p).scales = s.scales := rfl

/-- The activity of some pipelines taken by the throttle. -/
def actTaken (acts : List Nat) (s : State) : State :=
  setScl s fun x => { x with actThrottle := acts.foldl (fun m p => mapPut 8 m p (actWanted s p - 1)) x.actThrottle }

theorem actWanted_actTaken (acts : List Nat) (p : Nat) :
    actWanted (actTaken acts s) p = if p ∈ acts then actWanted s p - 1 else actWanted s p := by
  change min (mapGet 8 s.scales.actPolicy p) (mapGet 8 (acts.foldl _ s.scales.actThrottle) p) = _
  rw [mapGet_foldl_mapPut]
  split
  · have hle : actWanted s p ≤ mapGet 8 s.scales.actPolicy p := Nat.min_le_left _ _
    omega
  · rfl

theorem actWanted_of_scales (h : t.scales = s.scales) (p : Nat) : actWanted t p = actWanted s p := by rw [actWanted, h, actWanted]

theorem throttleTick_acts (hpol : sclPolicy s = true) (hthr : throttling s = true) (hfree : pipesAll.any (cutFree s) = false)
    (hact : pipesAll.any (actOpen s) = true) :
    exec .throttleTick s = .next (forEach (pipesAll.filter (actOpen s)) syncAct (actTaken (pipesAll.filter (actOpen s)) s)) := by
  have hsome : (pipesAll.filter (actOpen s)).isEmpty = false := by
    rw [List.isEmpty_eq_false_iff_exists_mem]
    obtain ⟨p, hp, hopen⟩ := List.any_eq_true.mp hact
    exact ⟨p, List.mem_filter.mpr ⟨hp, hopen⟩⟩
  rw [any_cutFree, cutsDue] at hfree
  refine congrArg Host.Outcome.next ((if_neg (by simp [hpol, hthr])).trans ?_)
  dsimp only
  rw [hfree, hsome]
  rfl

theorem actsTaken_all : pipesAll.all (fun p => stepNow (forEach (pipesAll.filter (actOpen s)) syncAct (actTaken (pipesAll.filter (actOpen s)) s)) p
      == stepNow s p && actWanted (forEach (pipesAll.filter (actOpen s)) syncAct (actTaken (pipesAll.filter (actOpen s)) s)) p
      == if actOpen s p then actWanted s p - 1 else actWanted s p) = true := by
  rw [List.all_eq_true]
  intro p hp
  have hstep := forEach_view (V := (stepNow · p)) (f := syncAct) (l := pipesAll.filter (actOpen s)) (fun u q _ => stepNow_syncAct u q p)
  have hscales := forEach_view (V := State.scales) (f := syncAct) (l := pipesAll.filter (actOpen s)) (fun u q _ => scales_syncAct u q)
  have hmem : (p ∈ pipesAll.filter (actOpen s)) = (actOpen s p = true) := propext (by simp [List.mem_filter, hp])
  rw [Bool.and_eq_true, beq_iff_eq, beq_iff_eq]
  refine ⟨(hstep _).trans rfl, ?_⟩
  rw [actWanted_of_scales (hscales _), actWanted_actTaken]
  simp only [hmem]

-- With neither, the cuts of protected pipelines are deferred (R451).

/-- What an event that is told of Scales leaves: its registers, the rest of what governs heat, and the sources that are pending. -/
structure Told (s t : State) : Prop where
  regs : ∀ o, reg t (aScl o) = reg s (aScl o)
  heat : heatView t = heatView s
  scales : t.scales = s.scales
  pend : ∀ x ∈ s.crier.pend, x ∈ t.crier.pend

theorem Told.refl (s : State) : Told s s := ⟨fun _ => rfl, rfl, rfl, fun _ h => h⟩

theorem Told.trans (h : Told s t) (k : Told t u) : Told s u :=
  ⟨fun o => (k.regs o).trans (h.regs o), k.heat.trans h.heat, k.scales.trans h.scales, fun x hx => k.pend x (h.pend x hx)⟩

theorem Told.stepNow (h : Told s t) (p : Nat) : Machine.stepNow t p = Machine.stepNow s p := regF_of_reg (h.regs _) 31 30

theorem told_of_only (h : Only [.hif, .ainum, .freeCtr] s t) : Told s t where
  regs := fun o => reg_of_only h (by decide) _
  heat := by
    rw [heatView, heatView, reg_of_only h (by decide), reg_of_only h (by decide), reg_of_only h (by decide), h .top (by decide),
      h .elapsed (by decide), h .lastRaise (by decide), h .scales (by decide)]
  scales := h .scales (by decide)
  pend := fun x hx => by rwa [h .crier (by decide)]

theorem told_raise (s : State) {id : Nat} (hid : id < 4096) : Told s (raise s id) where
  regs := fun o => reg_raise_aScl s hid
  heat := by
    have hlow : reg (raise s id) 0x40 = reg s 0x40 := by
      refine reg_raise_ne ?_ ?_ ?_ ?_ <;> simp only [aEsc, aFlt] <;> omega
    have honly : Only [.regs, .owed, .crier, .flt] s (raise s id) := Only.raise _ _ (Only.refl s) (by decide) (by decide) (by decide) (by decide)
    rw [heatView, heatView, reg_raise_aScl s hid, reg_raise_aScl s hid, hlow, honly .top (by decide), honly .elapsed (by decide),
      honly .lastRaise (by decide), raise_scales]
  scales := raise_scales s id
  pend := fun x hx => mem_raise_of_mem hx

theorem told_forEach {α : Type} {f : State → α → State} (h : ∀ s x, Told s (f s x)) (l : List α) (s : State) : Told s (forEach l f s) :=
  forEach_keeps (P := Told s) (fun t x ht => ht.trans (h t x)) l (Told.refl s)

theorem told_capEvent (s : State) (event hall step us : Nat) (ps : List Nat) : Told s (capEvent s event hall step us ps) := by
  have hnotice : Only [.hif, .ainum, .freeCtr] s (capNotice s (event - 1) hall step us) := Only.capNotice _ _ _ _ _ (Only.refl s) (by decide)
  unfold capEvent
  exact (told_of_only (Only.notify _ _ _ _ hnotice (by decide))).trans (told_raise _ (by decide))

theorem told_sclEvent (s : State) (event : Nat) : Told s (sclEvent s event) :=
  told_of_only (Only.notify _ _ _ _ (Only.drawn s (Only.refl s) (by decide)) (by decide))

/-- A deferral that begins. -/
def deferOne (cap : Bool) (s : State) (p : Nat) : State :=
  setBit (setBit (setScl s fun x => { x with
    deferrals := x.deferrals ++ [{ pipe := p, since := s.elapsed, wanted := cap, paused := none }] }) (aPipeClk p) 28 true) (aScl 4) 27 true

/-- The deferrals there are, told whether the cap wants them. -/
def deferNoted (cap : Bool) (ps : List Nat) (s : State) : State :=
  setScl s fun x => { x with deferrals := x.deferrals.map fun d => { d with wanted := d.wanted || (cap && ps.contains d.pipe) } }

theorem deferCuts_told (s : State) (cap : Bool) (ps : List Nat) : Told
    (forEach (ps.filter fun p => (deferralOf (deferNoted cap ps s) p).isNone) (deferOne cap) (deferNoted cap ps s)) (deferCuts s cap ps) := by
  unfold deferCuts
  exact told_forEach (fun u _ => told_capEvent u _ _ _ _ _) _ _

theorem stepNow_deferOne (cap : Bool) (s : State) (p q : Nat) : stepNow (deferOne cap s p) q = stepNow s q := by
  rw [stepNow, deferOne, regF_setBit_ne (by decide) (.inr (by decide)), regF_setBit_ne (by decide) (.inr (by decide))]
  rfl

theorem deferralOf_isSome {p : Nat} : (deferralOf s p).isSome = true ↔ ∃ d ∈ s.scales.deferrals, d.pipe = p := by
  simp [deferralOf, List.find?_isSome]

/-- Every pipeline given to it has a deferral then. -/
theorem deferralOf_deferCuts {cap : Bool} {ps : List Nat} (hp : p ∈ ps) : (deferralOf (deferCuts s cap ps) p).isSome = true := by
  rw [deferralOf, (deferCuts_told s cap ps).scales]
  change (deferralOf (forEach _ _ _) p).isSome = true
  rw [deferralOf_isSome]
  have hkeep : ∀ (u : State) (q : Nat), (∃ d ∈ u.scales.deferrals, d.pipe = p) → ∃ d ∈ (deferOne cap u q).scales.deferrals, d.pipe = p :=
    fun u q ⟨d, hd, hpipe⟩ => ⟨d, List.mem_append_left _ hd, hpipe⟩
  by_cases hold : (deferralOf (deferNoted cap ps s) p).isSome = true
  · exact forEach_keeps (P := fun u => ∃ d ∈ u.scales.deferrals, d.pipe = p) hkeep _ (deferralOf_isSome.mp hold)
  · have hnew : p ∈ ps.filter fun p => (deferralOf (deferNoted cap ps s) p).isNone :=
      List.mem_filter.mpr ⟨hp, by simpa using hold⟩
    exact forEach_brings (P := fun u => ∃ d ∈ u.scales.deferrals, d.pipe = p) (fun u => ⟨_, List.mem_append_right _ (List.mem_singleton.mpr rfl), rfl⟩)
      hkeep hnew _

theorem stepNow_deferCuts (cap : Bool) (ps : List Nat) (p : Nat) : stepNow (deferCuts s cap ps) p = stepNow s p :=
  ((deferCuts_told s cap ps).stepNow p).trans
    (forEach_view (V := (stepNow · p)) (fun u q _ => stepNow_deferOne cap u q p) (deferNoted cap ps s))

theorem throttleTick_defers (hpol : sclPolicy s = true) (hthr : throttling s = true) (hfree : pipesAll.any (cutFree s) = false)
    (hact : pipesAll.any (actOpen s) = false) : exec .throttleTick s = .next (deferCuts s false (pipesAll.filter (cutOpen s))) := by
  have hnone : (pipesAll.filter (actOpen s)).isEmpty = true := by
    rw [List.isEmpty_iff, List.filter_eq_nil_iff]
    exact List.any_eq_false.mp hact
  rw [any_cutFree, cutsDue] at hfree
  refine congrArg Host.Outcome.next ((if_neg (by simp [hpol, hthr])).trans ?_)
  dsimp only
  rw [hfree, hnone]
  rfl

theorem heatComplete_throttle (hpol : sclPolicy s = true) (hthr : throttling s = true) :
    Completes .throttleTick s fun t =>
      (pipesAll.any (fun p => cutOpen s p && !pipeProtected s p) = true → pipesAll.all (fun p =>
        stepNow t p == if cutOpen s p && !pipeProtected s p && hallFree s p && pipesAll.all (fun q =>
            !(cutOpen s q && !pipeProtected s q && pipeHall q == pipeHall p) || decide (stepNow s q ≤ stepNow s p))
          then stepNow s p - 1 else stepNow s p) = true)
      ∧ (pipesAll.any (fun p => cutOpen s p && !pipeProtected s p) = false → pipesAll.any (actOpen s) = true → pipesAll.all (fun p =>
        stepNow t p == stepNow s p && actWanted t p == if actOpen s p then actWanted s p - 1 else actWanted s p) = true)
      ∧ (pipesAll.any (fun p => cutOpen s p && !pipeProtected s p) = false → pipesAll.any (actOpen s) = false → pipesAll.all (fun p =>
        stepNow t p == stepNow s p && (!cutOpen s p || (deferralOf t p).isSome)) = true) := by
  rcases hfree : pipesAll.any (cutFree s) with _ | _
  · have hnot : ¬ pipesAll.any (cutFree s) = true := by rw [hfree]; decide
    rcases hact : pipesAll.any (actOpen s) with _ | _
    · refine ⟨_, throttleTick_defers hpol hthr hfree hact, fun h => absurd h hnot, fun _ h => absurd h (by decide), fun _ _ => ?_⟩
      rw [List.all_eq_true]
      intro p hp
      rw [stepNow_deferCuts, beq_self_eq_true, Bool.true_and, Bool.or_eq_true, Bool.not_eq_true', ← Bool.not_eq_true, ← imp_iff_not_or]
      exact fun hopen => deferralOf_deferCuts (List.mem_filter.mpr ⟨hp, hopen⟩)
    · exact ⟨_, throttleTick_acts hpol hthr hfree hact, fun h => absurd h hnot, fun _ _ => actsTaken_all, fun _ h => absurd h (by decide)⟩
  · obtain ⟨hexec, hcuts⟩ := throttleTick_cuts hpol hthr hfree
    have hno : pipesAll.any (cutFree s) ≠ false := by rw [hfree]; decide
    exact ⟨_, hexec, fun _ => hcuts, fun h => absurd h hno, fun h => absurd h hno⟩

end

end Sys2Proof.Proofs
end

section
/-!
Proofs of the statement on heat: the sensors, critical temperature and the throttle temperature (R457, R458).
-/
namespace Sys2Proof.Proofs

open Sys2Proof Sys2Proof.Machine Sys2Proof.Laws

section
variable {s t u : State} {p q : Nat}

-- What the responses to temperature leave: what governs heat, the flags of STATUS and the sources that are pending.

structure Reacts (s t : State) : Prop where
  heat : heatView t = heatView s
  critical : sclCritical t = sclCritical s
  throttle : sclThrottle t = sclThrottle s
  pend : ∀ x ∈ s.crier.pend, x ∈ t.crier.pend

theorem Reacts.refl (s : State) : Reacts s s := ⟨rfl, rfl, rfl, fun _ h => h⟩

theorem Reacts.trans (h : Reacts s t) (k : Reacts t u) : Reacts s u :=
  ⟨k.heat.trans h.heat, k.critical.trans h.critical, k.throttle.trans h.throttle, fun x hx => k.pend x (h.pend x hx)⟩

theorem reacts_forEach {α : Type} {f : State → α → State} (h : ∀ s x, Reacts s (f s x)) (l : List α) (s : State) : Reacts s (forEach l f s) :=
  forEach_keeps (P := Reacts s) (fun t x ht => ht.trans (h t x)) l (Reacts.refl s)

theorem Told.reacts (h : Told s t) : Reacts s t := ⟨h.heat, regBit_of_reg (h.regs 4) 29, regBit_of_reg (h.regs 4) 30, h.pend⟩

theorem status_ne_aPipeClk (p : Nat) : aScl 4 ≠ aPipeClk p := aScl_ne (by omega)

theorem setStep_crier (s : State) (p st : Nat) : (setStep s p st).crier = s.crier := by
  unfold setStep
  split <;> rfl

theorem reacts_dropStep (s : State) (p st : Nat) : Reacts s (setStep (keepStep s p) p st) where
  heat := (heatView_setStep _ _ _).trans rfl
  critical := (regBit_of_reg (reg_setStep_ne (status_ne_aPipeClk p) _ _) 29).trans rfl
  throttle := (regBit_of_reg (reg_setStep_ne (status_ne_aPipeClk p) _ _) 30).trans rfl
  pend := fun x hx => by rwa [setStep_crier]

theorem reacts_syncAct (s : State) (p : Nat) : Reacts s (syncAct s p) where
  heat := heatView_setReg _ _ (by omega) (by omega)
  critical := regBit_of_reg (reg_setF_ne (status_ne_aPipeClk p)) 29
  throttle := regBit_of_reg (reg_setF_ne (status_ne_aPipeClk p)) 30
  pend := fun _ hx => hx

theorem reacts_dropDeferral (s : State) (p : Nat) : Reacts s (dropDeferral s p) where
  heat := (heatView_setReg _ _ (by omega) (by omega)).trans ((heatView_setReg _ _ (by omega) (by omega)).trans rfl)
  critical := by
    rw [sclCritical, dropDeferral, regBit_setBit_ne (.inr (by decide)), regBit_setBit_ne (.inl (status_ne_aPipeClk p))]
    rfl
  throttle := by
    rw [sclThrottle, dropDeferral, regBit_setBit_ne (.inr (by decide)), regBit_setBit_ne (.inl (status_ne_aPipeClk p))]
    rfl
  pend := fun _ hx => hx

theorem reacts_syncActs (s : State) : Reacts s (syncActs s) := reacts_forEach reacts_syncAct _ _

theorem reacts_dropSteps (s : State) (ps : List Nat) : Reacts s (dropSteps s ps) := reacts_forEach (fun u p => reacts_dropStep u p 0) _ _

/-- The notices of what a limit took are told once the deferrals that it took have ended. -/
theorem forcedNotices_told (s : State) (ps : List Nat) :
    Told (forEach (ps.filter (pipeProtected s)) dropDeferral s) (forcedNotices s ps true) := by
  unfold forcedNotices
  exact told_forEach (fun u _ => told_capEvent u _ _ _ _ _) _ _

theorem reacts_forcedNotices (s : State) (ps : List Nat) : Reacts s (forcedNotices s ps true) :=
  (reacts_forEach reacts_dropDeferral _ _).trans (forcedNotices_told s ps).reacts

-- What they leave of the clocks.

def actNow (s : State) (p : Nat) : Nat := regF s (aPipeClk p) 11 8

theorem regF_dropDeferral (s : State) (p : Nat) {a hi lo : Nat} (h : hi < 27 ∨ 28 < lo) (hhi : hi < 32) :
    regF (dropDeferral s p) a hi lo = regF s a hi lo := by
  rw [dropDeferral, regF_setBit_ne hhi (by omega), regF_setBit_ne hhi (by omega)]
  rfl

theorem regF_forcedNotices (s : State) (ps : List Nat) {hi lo : Nat} (h : hi < 27 ∨ 28 < lo) (hhi : hi < 32) :
    regF (forcedNotices s ps true) (aPipeClk p) hi lo = regF s (aPipeClk p) hi lo :=
  (regF_of_reg ((forcedNotices_told s ps).regs _) hi lo).trans
    (forEach_view (V := (regF · (aPipeClk p) hi lo)) (fun u q _ => regF_dropDeferral u q h hhi) s)

theorem stepNow_syncActs (s : State) : stepNow (syncActs s) p = stepNow s p :=
  forEach_view (V := (stepNow · p)) (fun u q _ => stepNow_syncAct u q p) s

/-- While the temperature is critical, ACT is at most 4. -/
theorem actNow_syncActs (hcrit : sclCritical s = true) (hp : p ∈ pipesAll) : actNow (syncActs s) p ≤ 4 := by
  obtain ⟨u, hu, ht, -⟩ := forEach_view_at (f := syncAct) (V := fun u => (actNow u p, sclCritical u)) List.nodup_range hp
    (fun u q _ hne => Prod.ext (regF_of_reg (reg_setF_ne (aPipeClk_ne (Ne.symm hne))) 11 8) (reacts_syncAct u q).critical) s
  have hon : sclCritical u = true := (congrArg Prod.snd hu).trans hcrit
  have hact : actNow (syncActs s) p = actNow (syncAct u p) p := congrArg Prod.fst ht
  rw [hact, actNow, syncAct, regF_setF_same (by decide), if_pos hon]
  exact (Nat.mod_le _ _).trans (Nat.min_le_right _ _)

theorem stepNow_dropSteps {ps : List Nat} (hps : ps.Nodup) (s : State) (q : Nat) :
    stepNow (dropSteps s ps) q = if q ∈ ps ∧ mayGlide s q = true then 0 else stepNow s q := by
  have hview : ∀ u, ∀ p ∈ ps, p ≠ q → clockView q (setStep (keepStep u p) p 0) = clockView q u := fun u p _ hne =>
    Prod.ext ((stepNow_setStep_ne (Ne.symm hne) _ _).trans rfl) (reacts_dropStep u p 0).heat
  by_cases hq : q ∈ ps
  · obtain ⟨u, hu, ht, -⟩ := forEach_view_at hps hq hview s
    have hstep : stepNow u q = stepNow s q := congrArg Prod.fst hu
    have hmay : mayGlide u q = mayGlide s q := mayGlide_of_heatView (congrArg Prod.snd hu) q
    have hdrop : stepNow (setStep (keepStep u q) q 0) q = if mayGlide u q then 0 else stepNow u q := stepNow_setStep_same (keepStep u q) (by decide)
    have hend : stepNow (dropSteps s ps) q = stepNow (setStep (keepStep u q) q 0) q := congrArg Prod.fst ht
    rw [hend, hdrop, hmay, hstep]
    simp only [hq, true_and]
  · rw [if_neg fun h => hq h.1]
    exact congrArg Prod.fst (forEach_view (V := clockView q) (fun u p hp => hview u p hp fun h => hq (h ▸ hp)) s)

-- Critical temperature (R458).

/-- A clock that is held at critical temperature. -/
def Held (s t : State) : Prop := ∀ p ∈ pipesAll, stepNow t p = (if mayGlide s p then 0 else stepNow s p) ∧ actNow t p ≤ 4

/-- The critical response from the clocks of `ps` on, those that may glide and are not at step 0 among them. -/
theorem held_drop {ps qs : List Nat} (hps : ps.Nodup) (hcrit : sclCritical s = true)
    (hall : ∀ p ∈ pipesAll, mayGlide s p = true → p ∈ ps ∨ stepNow s p = 0) : Held s (forcedNotices (syncActs (dropSteps s ps)) qs true) := by
  intro p hp
  constructor
  · rw [stepNow, regF_forcedNotices _ _ (.inr (by decide)) (by decide)]
    refine (stepNow_syncActs _).trans ((stepNow_dropSteps hps s p).trans ?_)
    by_cases hmay : mayGlide s p = true
    · rcases hall p hp hmay with hin | hzero
      · rw [if_pos ⟨hin, hmay⟩, if_pos hmay]
      · rw [if_pos hmay, hzero, ite_self]
    · rw [if_neg fun h => hmay h.2, if_neg hmay]
  · rw [actNow, regF_forcedNotices _ _ (.inl (by decide)) (by decide)]
    exact actNow_syncActs ((reacts_dropSteps s ps).critical.trans hcrit) hp

theorem reacts_drop (s : State) (ps qs : List Nat) : Reacts s (forcedNotices (syncActs (dropSteps s ps)) qs true) :=
  (reacts_dropSteps s ps).trans ((reacts_syncActs _).trans (reacts_forcedNotices _ qs))

end

section
variable {s t u v : State} {p q : Nat}

theorem held_criticalHold (hcrit : sclCritical s = true) : Held s (criticalHold s) := by
  refine held_drop (List.nodup_range.filter _) hcrit fun p hp hmay => ?_
  by_cases hzero : stepNow s p = 0
  · exact .inr hzero
  · exact .inl (List.mem_filter.mpr ⟨hp, by simp [hmay, Nat.pos_of_ne_zero hzero]⟩)

/-- What the look at critical temperature ends in. -/
structure CriticalEnds (u v : State) : Prop where
  heat : heatView v = heatView u
  throttle : sclThrottle v = sclThrottle u
  critical : sclCritical v = if sclCritical u then decide (110 ≤ tjNow u) else decide (115 ≤ tjNow u)
  held : sclCritical v = true → Held u v
  pend : sclCritical u = false → sclCritical v = true → 0xC02 ∈ v.crier.pend

/-- The temperature becomes critical. -/
def criticalBegun (u : State) : State := setBit u (aScl 4) 29 true

theorem heat_criticalBegun (u : State) (x : Bool) : heatView (setBit u (aScl 4) 29 x) = heatView u := heatView_setReg _ _ (by decide) (by decide)

theorem held_criticalBegun (h : Held (criticalBegun u) v) : Held u v := fun p hp => by
  have hstep : stepNow (criticalBegun u) p = stepNow u p := regF_setBit_ne (by decide) (.inr (by decide))
  have hmay : mayGlide (criticalBegun u) p = mayGlide u p := mayGlide_of_heatView (heat_criticalBegun u true) p
  have hheld := h p hp
  rwa [hstep, hmay] at hheld

theorem criticalEnds_criticalStep (u : State) : CriticalEnds u (criticalStep u) := by
  have hbit : ∀ x, sclCritical (setBit u (aScl 4) 29 x) = x := fun x => regBit_setBit_same (by decide)
  have hthrottle : ∀ x, sclThrottle (setBit u (aScl 4) 29 x) = sclThrottle u := fun x => regBit_setBit_ne (.inr (by decide))
  unfold criticalStep
  rcases hcrit : sclCritical u with _ | _
  · rw [if_neg Bool.false_ne_true]
    by_cases htj : 115 ≤ tjNow u
    · rw [if_pos htj]
      obtain ⟨w, hw⟩ : ∃ w, w = forcedNotices (syncActs (dropSteps (criticalBegun u) pipesAll)) (pipesAll.filter (pipeProtected (criticalBegun u))) true :=
        ⟨_, rfl⟩
      have hdrop : Reacts (criticalBegun u) w := hw ▸ reacts_drop _ _ _
      have htold : Told w (sclEvent (raise w 0xC02) 5) := (told_raise w (by decide)).trans (told_sclEvent _ _)
      have hreacts := hdrop.trans htold.reacts
      have hheld : Held (criticalBegun u) w := hw ▸ held_drop List.nodup_range (hbit true) fun p hp _ => .inl hp
      have hon : sclCritical (sclEvent (raise w 0xC02) 5) = true := hreacts.critical.trans (hbit true)
      dsimp only
      rw [← criticalBegun, ← hw]
      refine ⟨hreacts.heat.trans (heat_criticalBegun u true), hreacts.throttle.trans (hthrottle true), ?_, fun _ => ?_, fun _ _ => ?_⟩
      · rw [hon, hcrit, if_neg Bool.false_ne_true, decide_eq_true htj]
      · refine held_criticalBegun fun p hp => ?_
        have hact : actNow (sclEvent (raise w 0xC02) 5) p = actNow w p := regF_of_reg (htold.regs _) 11 8
        rw [htold.stepNow, hact]
        exact hheld p hp
      · exact (told_sclEvent _ _).pend _ (mem_raise _ _)
    · rw [if_neg htj]
      exact ⟨rfl, rfl, by rw [hcrit, if_neg Bool.false_ne_true, decide_eq_false htj], fun h => absurd (hcrit.symm.trans h) (by decide),
        fun _ h => absurd (hcrit.symm.trans h) (by decide)⟩
  · rw [if_pos rfl]
    by_cases htj : tjNow u < 110
    · rw [if_pos htj]
      have hreacts := reacts_syncActs (setBit u (aScl 4) 29 false)
      have hoff : sclCritical (syncActs (setBit u (aScl 4) 29 false)) = false := hreacts.critical.trans (hbit false)
      refine ⟨hreacts.heat.trans (heat_criticalBegun u false), hreacts.throttle.trans (hthrottle false), ?_,
        fun h => absurd (hoff.symm.trans h) (by decide), fun h => absurd (hcrit.symm.trans h) (by decide)⟩
      rw [hoff, hcrit, if_pos rfl, decide_eq_false (Nat.not_le.mpr htj)]
    · rw [if_neg htj]
      have hreacts : Reacts u (criticalHold u) := reacts_drop _ _ _
      refine ⟨hreacts.heat, hreacts.throttle, ?_, fun _ => held_criticalHold hcrit, fun h => absurd (hcrit.symm.trans h) (by decide)⟩
      rw [hreacts.critical, hcrit, if_pos rfl, decide_eq_true (Nat.not_lt.mp htj)]

-- The throttle temperature (R458).

/-- What the look at the throttle temperature leaves. -/
structure ThrottleKeeps (v t : State) : Prop where
  tj : reg t (aScl 0x24) = reg v (aScl 0x24)
  engines : t.scales.engines = v.scales.engines
  critical : sclCritical t = sclCritical v
  steps : ∀ p, stepNow t p = stepNow v p
  acts : sclCritical v = true → (∀ p ∈ pipesAll, actNow v p ≤ 4) → ∀ p ∈ pipesAll, actNow t p ≤ 4
  pend : ∀ x ∈ v.crier.pend, x ∈ t.crier.pend

theorem ThrottleKeeps.refl (v : State) : ThrottleKeeps v v := ⟨rfl, rfl, rfl, fun _ => rfl, fun _ h => h, fun _ h => h⟩

theorem ThrottleKeeps.told (h : ThrottleKeeps v u) (k : Told u t) : ThrottleKeeps v t where
  tj := (k.regs _).trans h.tj
  engines := by rw [k.scales, h.engines]
  critical := k.reacts.critical.trans h.critical
  steps := fun p => (k.stepNow p).trans (h.steps p)
  acts := fun hc ha p hp => (regF_of_reg (k.regs _) 11 8).trans_le (h.acts hc ha p hp)
  pend := fun x hx => k.pend x (h.pend x hx)

theorem throttleKeeps_cool (v : State) (n : Option Nat) : ThrottleKeeps v (setScl v fun x => { x with coolSince := n }) :=
  ⟨rfl, rfl, rfl, fun _ => rfl, fun _ h => h, fun _ h => h⟩

/-- The throttle begins, or ends and gives back its activity. -/
theorem throttleKeeps_flag (hengines : u.scales.engines = v.scales.engines) (hregs : u.regs = v.regs) (hcrier : u.crier = v.crier) (x : Bool) :
    ThrottleKeeps v (setBit u (aScl 4) 30 x) := by
  have hreg : ∀ o, o ≠ 4 → reg (setBit u (aScl 4) 30 x) (aScl o) = reg v (aScl o) := fun o ho => by
    rw [reg_setBit_ne (aScl_ne ho), reg, hregs, reg]
  have hpipe : ∀ p, reg (setBit u (aScl 4) 30 x) (aPipeClk p) = reg v (aPipeClk p) := fun p => hreg _ (by omega)
  refine ⟨hreg 0x24 (by decide), hengines, ?_, fun p => regF_of_reg (hpipe p) 31 30, fun _ ha p hp => ?_, fun y hy => ?_⟩
  · rw [sclCritical, regBit_setBit_ne (.inr (by decide)), regBit, reg, hregs]
    rfl
  · exact (regF_of_reg (hpipe p) 11 8).trans_le (ha p hp)
  · change y ∈ u.crier.pend
    rwa [hcrier]

theorem ThrottleKeeps.syncActs (h : ThrottleKeeps v u) : ThrottleKeeps v (Machine.syncActs u) where
  tj := (tj_of_heatView (reacts_syncActs u).heat).trans h.tj
  engines := (engines_of_heatView (reacts_syncActs u).heat).trans h.engines
  critical := (reacts_syncActs u).critical.trans h.critical
  steps := fun p => (stepNow_syncActs u).trans (h.steps p)
  acts := fun hc _ _ hp => actNow_syncActs (h.critical.trans hc) hp
  pend := fun x hx => (reacts_syncActs u).pend x (h.pend x hx)

theorem throttleKeeps_throttleStep (v : State) : ThrottleKeeps v (throttleStep v) := by
  unfold throttleStep
  split_ifs
  · exact ThrottleKeeps.refl v
  · exact ((throttleKeeps_flag (v := v) (u := setScl v fun x => { x with coolSince := none }) rfl rfl rfl true).told (told_raise (id := 0xC03) _ (by decide))).told
      (told_sclEvent _ _)
  · exact ThrottleKeeps.refl v
  · exact throttleKeeps_cool v none
  · split
    · exact throttleKeeps_cool v _
    · split_ifs
      · exact ((throttleKeeps_flag (v := v) (u := setScl v fun x => { x with coolSince := none, actThrottle := [], throttleWant := [] }) rfl rfl rfl false).syncActs).told
          (told_raise (id := 0xC03) _ (by decide))
      · exact ThrottleKeeps.refl v

/-- A throttle that is off begins at its temperature. -/
theorem sclThrottle_begins (hpol : sclPolicy v = true) (hoff : sclThrottle v = false) :
    sclThrottle (throttleStep v) = decide (throttleC v ≤ tjNow v) ∧ (sclThrottle (throttleStep v) = true → 0xC03 ∈ (throttleStep v).crier.pend) := by
  unfold throttleStep
  rw [if_neg (by simp [hpol]), if_pos (by simp [hoff])]
  by_cases hhot : throttleC v ≤ tjNow v
  · rw [if_pos hhot, decide_eq_true hhot]
    refine ⟨?_, fun _ => (told_sclEvent _ _).pend _ (mem_raise _ _)⟩
    exact ((told_raise (id := 0xC03) _ (by decide)).trans (told_sclEvent _ _)).reacts.throttle.trans (regBit_setBit_same (by decide))
  · rw [if_neg hhot, decide_eq_false hhot]
    exact ⟨hoff, fun h => absurd (hoff.symm.trans h) (by decide)⟩

/-- It stays while TJ is less than 3 °C below. -/
theorem sclThrottle_stays (hpol : sclPolicy v = true) (hon : sclThrottle v = true) (hhot : throttleC v < tjNow v + 3) :
    sclThrottle (throttleStep v) = true := by
  unfold throttleStep
  rw [if_neg (by simp [hpol]), if_neg (by simp [hon]), if_pos hhot]
  exact hon

/-- And ends once TJ has been for 10 ms. -/
theorem sclThrottle_ends (hpol : sclPolicy v = true) (hon : sclThrottle v = true) (hcool : tjNow v + 3 ≤ throttleC v) :
    sclThrottle (throttleStep v) = (!v.scales.coolSince.any fun n => decide (n + 10000000 ≤ v.elapsed))
      ∧ (sclThrottle (throttleStep v) = false → 0xC03 ∈ (throttleStep v).crier.pend) := by
  have hstays : sclThrottle v = false → 0xC03 ∈ v.crier.pend := fun h => absurd (hon.symm.trans h) (by decide)
  unfold throttleStep
  rw [if_neg (by simp [hpol]), if_neg (by simp [hon]), if_neg (by omega)]
  cases hsince : v.scales.coolSince with
  | none => exact ⟨hon, hstays⟩
  | some n =>
    dsimp only
    by_cases hover : n + 10000000 ≤ v.elapsed
    · rw [if_pos hover, Option.any_some, decide_eq_true hover]
      refine ⟨?_, fun _ => mem_raise _ _⟩
      exact ((reacts_syncActs _).trans (told_raise (id := 0xC03) _ (by decide)).reacts).throttle.trans (regBit_setBit_same (by decide))
    · rw [if_neg hover, Option.any_some, decide_eq_false hover]
      exact ⟨hon, hstays⟩

-- THERMAL_SENSE (R457, R458).

/-- The 13 die sensors. -/
def dieSensors (sensors : List Nat) : List Nat := (List.range 13).map fun i => sensors.getD i 0

/-- TJ names the first of the hottest. -/
def sensed (sensors engines : List Nat) (s : State) : State :=
  setReg (setScl s fun x => { x with engines := engines }) (aScl 0x24)
    (BitVec.ofNat 32 ((dieSensors sensors).findIdx (· == hottest sensors) % 16 * 256 + min 255 (hottest sensors)))

theorem foldl_max_mem (x : Nat) (l : List Nat) : l.foldl max x ∈ x :: l := by
  induction l generalizing x with
  | nil => exact List.mem_singleton.mpr rfl
  | cons y l ih =>
    rcases List.mem_cons.mp (ih (max x y)) with h | h
    · rw [List.foldl_cons, h]
      rcases max_choice x y with hm | hm <;> rw [hm] <;> simp
    · exact List.mem_cons_of_mem x (List.mem_cons_of_mem y h)

theorem hottest_mem (sensors : List Nat) : hottest sensors ∈ dieSensors sensors := by
  have hcons : dieSensors sensors = sensors.getD 0 0 :: (dieSensors sensors).tail := rfl
  have hfold : hottest sensors = (dieSensors sensors).foldl max 0 := rfl
  rw [hfold, hcons, List.foldl_cons, Nat.zero_max]
  exact foldl_max_mem _ _

theorem sensor_hottest (sensors : List Nat) : (dieSensors sensors).findIdx (· == hottest sensors) < 13
    ∧ sensors.getD ((dieSensors sensors).findIdx (· == hottest sensors)) 0 = hottest sensors := by
  have hlt := List.findIdx_lt_length_of_exists (p := (· == hottest sensors)) ⟨_, hottest_mem sensors, beq_self_eq_true _⟩
  have hfound := List.findIdx_getElem (w := hlt)
  refine ⟨hlt.trans_eq (by simp [dieSensors]), ?_⟩
  rw [beq_iff_eq] at hfound
  conv_rhs => rw [← hfound]
  simp [dieSensors]

theorem tj_sensed (sensors engines : List Nat) (s : State) : tjNow (sensed sensors engines s) = min 255 (hottest sensors)
    ∧ regF (sensed sensors engines s) (aScl 0x24) 11 8 = (dieSensors sensors).findIdx (· == hottest sensors) := by
  obtain ⟨hlt, -⟩ := sensor_hottest sensors
  have hle : min 255 (hottest sensors) < 256 := by omega
  constructor
  · rw [tjNow, regF, sensed, reg_setReg_same, fget, nbits, BitVec.toNat_ofNat, Nat.shiftRight_zero]
    omega
  · rw [regF, sensed, reg_setReg_same, fget, nbits, BitVec.toNat_ofNat, Nat.shiftRight_eq_div_pow]
    omega

/-- What the sensors write beside TJ is nothing that governs heat. -/
theorem reg_sensed_ne {o : Nat} (h : o ≠ 0x24) (sensors engines : List Nat) (s : State) : reg (sensed sensors engines s) (aScl o) = reg s (aScl o) := by
  rw [sensed, reg_setReg_ne (aScl_ne h)]
  rfl

theorem reg_sensed_low (sensors engines : List Nat) (s : State) : reg (sensed sensors engines s) 0x40 = reg s 0x40 := by
  rw [sensed, reg_setReg_ne (by decide)]
  rfl

theorem mayGlide_sensed (sensors engines : List Nat) (s : State) (p : Nat) : mayGlide (sensed sensors engines s) p = mayGlide s p := by
  rw [mayGlide, bringup, regBit_of_reg (reg_sensed_low sensors engines s)]
  rfl

theorem sclPolicy_sensed (sensors engines : List Nat) (s : State) : sclPolicy (sensed sensors engines s) = sclPolicy s := by
  rw [sclPolicy, fwRuns, bringup, regBit_of_reg (reg_sensed_low sensors engines s)]
  rfl

theorem exec_thermalSense {sensors engines : List Nat} (hlive : sclLive s = true) :
    exec (.thermalSense sensors engines) s = .next (throttleStep (criticalStep (sensed sensors engines s))) :=
  congrArg Host.Outcome.next (if_neg (by simp [hlive]))

/-- A reading `s` that the look at critical temperature takes to `v`, and the look at the throttle temperature to `t`. -/
structure SenseEnds (sensors engines : List Nat) (s v t : State) : Prop where
  first : CriticalEnds (sensed sensors engines s) v
  second : ThrottleKeeps v t

section Sense
variable {sensors engines : List Nat} (h : SenseEnds sensors engines s v t)
include h

theorem SenseEnds.tj_v : tjNow v = min 255 (hottest sensors) :=
  (regF_of_reg (tj_of_heatView h.first.heat) 7 0).trans (tj_sensed sensors engines s).1

theorem SenseEnds.enginesKept : t.scales.engines = engines :=
  h.second.engines.trans ((engines_of_heatView h.first.heat).trans rfl)

theorem SenseEnds.tj : tjNow t = min 255 (hottest sensors) := (regF_of_reg h.second.tj 7 0).trans h.tj_v

theorem SenseEnds.sensor : sensors.getD (regF t (aScl 0x24) 11 8) 0 = hottest sensors := by
  rw [regF_of_reg h.second.tj, regF_of_reg (tj_of_heatView h.first.heat), (tj_sensed sensors engines s).2, (sensor_hottest sensors).2]

theorem SenseEnds.critical : sclCritical t = if sclCritical s then decide (110 ≤ hottest sensors) else decide (115 ≤ hottest sensors) := by
  have hbit : sclCritical (sensed sensors engines s) = sclCritical s := regBit_of_reg (reg_sensed_ne (by decide) sensors engines s) 29
  have h110 : decide (110 ≤ min 255 (hottest sensors)) = decide (110 ≤ hottest sensors) := decide_eq_decide.mpr (by omega)
  have h115 : decide (115 ≤ min 255 (hottest sensors)) = decide (115 ≤ hottest sensors) := decide_eq_decide.mpr (by omega)
  rw [h.second.critical, h.first.critical, hbit, (tj_sensed sensors engines s).1, h110, h115]

theorem SenseEnds.criticalPend (hoff : sclCritical s = false) (hon : sclCritical t = true) : 0xC02 ∈ t.crier.pend :=
  h.second.pend _ (h.first.pend ((regBit_of_reg (reg_sensed_ne (by decide) sensors engines s) 29).trans hoff) (h.second.critical.symm.trans hon))

theorem SenseEnds.held (hon : sclCritical t = true) :
    pipesAll.all (fun p => (stepNow t p == if mayGlide s p then 0 else stepNow s p) && decide (regF t (aPipeClk p) 11 8 ≤ 4)) = true := by
  have hcrit : sclCritical v = true := h.second.critical.symm.trans hon
  have hheld := h.first.held hcrit
  rw [List.all_eq_true]
  intro p hp
  have hstep : stepNow (sensed sensors engines s) p = stepNow s p := regF_of_reg (reg_sensed_ne (by omega) sensors engines s) 31 30
  have hact := h.second.acts hcrit (fun q hq => (hheld q hq).2) p hp
  rw [Bool.and_eq_true, beq_iff_eq, decide_eq_true_eq, h.second.steps, (hheld p hp).1, mayGlide_sensed, hstep]
  exact ⟨rfl, hact⟩

theorem SenseEnds.policy : sclPolicy v = sclPolicy s := (sclPolicy_of_heatView h.first.heat).trans (sclPolicy_sensed sensors engines s)

theorem SenseEnds.throttle_v : sclThrottle v = sclThrottle s :=
  h.first.throttle.trans (regBit_of_reg (reg_sensed_ne (by decide) sensors engines s) 30)

theorem SenseEnds.throttleC : Machine.throttleC v = Machine.throttleC s := by
  have hheat := h.first.heat
  simp only [heatView, Prod.mk.injEq] at hheat
  obtain ⟨-, -, hsoft, -⟩ := hheat
  rw [Machine.throttleC, Machine.throttleC, regF_of_reg (hsoft.trans (reg_sensed_ne (by decide) sensors engines s))]

theorem SenseEnds.cool : v.scales.coolSince = s.scales.coolSince ∧ v.elapsed = s.elapsed := by
  have hheat := h.first.heat
  simp only [heatView, Prod.mk.injEq] at hheat
  obtain ⟨-, ⟨-, -, -, hcool⟩, -, -⟩ := hheat
  exact ⟨hcool, (elapsed_of_heatView h.first.heat).trans rfl⟩

end Sense

theorem heatComplete_sense {sensors engines : List Nat} (hlive : sclLive s = true) :
    Completes (.thermalSense sensors engines) s fun t => t.scales.engines = engines ∧ tjNow t = min 255 (hottest sensors)
      ∧ sensors.getD (regF t (aScl 0x24) 11 8) 0 = hottest sensors
      ∧ (sclCritical s = false → 115 ≤ hottest sensors → sclCritical t = true ∧ 0xC02 ∈ t.crier.pend)
      ∧ (115 ≤ hottest sensors ∨ sclCritical s = true ∧ 110 ≤ hottest sensors → sclCritical t = true
        ∧ pipesAll.all (fun p => (stepNow t p == if mayGlide s p then 0 else stepNow s p) && decide (regF t (aPipeClk p) 11 8 ≤ 4)) = true)
      ∧ (hottest sensors < 110 → sclCritical t = false)
      ∧ (sclCritical s = false → hottest sensors < 115 → sclCritical t = false)
      ∧ (sclPolicy s = true → sclThrottle s = false →
        sclThrottle t = decide (throttleC s ≤ min 255 (hottest sensors)) ∧ (sclThrottle t = true → 0xC03 ∈ t.crier.pend))
      ∧ (sclPolicy s = true → sclThrottle s = true → throttleC s < min 255 (hottest sensors) + 3 → sclThrottle t = true)
      ∧ (sclPolicy s = true → sclThrottle s = true → min 255 (hottest sensors) + 3 ≤ throttleC s →
        sclThrottle t = !s.scales.coolSince.any (fun n => decide (n + 10000000 ≤ s.elapsed)) ∧ (sclThrottle t = false → 0xC03 ∈ t.crier.pend)) := by
  obtain ⟨v, hv⟩ : ∃ v, v = criticalStep (sensed sensors engines s) := ⟨_, rfl⟩
  have h : SenseEnds sensors engines s v (throttleStep v) := ⟨hv ▸ criticalEnds_criticalStep _, throttleKeeps_throttleStep v⟩
  have hcrit := h.critical
  have hbegun : sclCritical s = false → 115 ≤ hottest sensors → sclCritical (throttleStep v) = true := fun hoff hhot => by
    rw [hcrit, hoff, if_neg Bool.false_ne_true, decide_eq_true hhot]
  refine ⟨throttleStep v, (exec_thermalSense hlive).trans (by rw [hv]), h.enginesKept, h.tj, h.sensor, fun hoff hhot => ?_, fun hhot => ?_, fun hcold => ?_,
    fun hoff hcold => ?_, fun hpol hoff => ?_, fun hpol hon hhot => ?_, fun hpol hon hcold => ?_⟩
  · exact ⟨hbegun hoff hhot, h.criticalPend hoff (hbegun hoff hhot)⟩
  · have hon : sclCritical (throttleStep v) = true := by
      rcases hs : sclCritical s with _ | _
      · exact hbegun hs (hhot.resolve_right (by simp [hs]))
      · rw [hcrit, hs, if_pos rfl, decide_eq_true_eq]
        omega
    exact ⟨hon, h.held hon⟩
  · rw [hcrit, decide_eq_false (Nat.not_le.mpr hcold), decide_eq_false (by omega), ite_self]
  · rw [hcrit, hoff, if_neg Bool.false_ne_true, decide_eq_false (Nat.not_le.mpr hcold)]
  · rw [← h.throttleC, ← h.tj_v]
    exact sclThrottle_begins (h.policy.trans hpol) (h.throttle_v.trans hoff)
  · exact sclThrottle_stays (h.policy.trans hpol) (h.throttle_v.trans hon) (by rw [h.throttleC, h.tj_v]; exact hhot)
  · rw [← h.cool.1, ← h.cool.2]
    exact sclThrottle_ends (h.policy.trans hpol) (h.throttle_v.trans hon) (by rw [h.throttleC, h.tj_v]; exact hcold)

end

end Sys2Proof.Proofs
end

section
/-!
Proofs of the statement on heat: the energy of an interval, its phase and what is learnt of it (R454, R459 to R461).
-/
namespace Sys2Proof.Proofs

open Sys2Proof Sys2Proof.Machine Sys2Proof.Laws

section
variable {s t u v : State} {p q : Nat}

-- What the learning of phases leaves: the energies of the interval and the activity (R454, R459 to R461).

structure EnergyKept (s t : State) : Prop where
  regs : ∀ o, 0x40 ≤ o → o < 0x98 → reg t (aScl o) = reg s (aScl o)
  energy : t.scales.energy = s.scales.energy
  queues : t.scales.queueUj = s.scales.queueUj
  parts : t.scales.parts = s.scales.parts
  calib : t.scales.calib = s.scales.calib
  activity : t.activity = s.activity

theorem EnergyKept.refl (s : State) : EnergyKept s s := ⟨fun _ _ _ => rfl, rfl, rfl, rfl, rfl, rfl⟩

theorem EnergyKept.trans (h : EnergyKept s t) (k : EnergyKept t u) : EnergyKept s u :=
  ⟨fun o h1 h2 => (k.regs o h1 h2).trans (h.regs o h1 h2), k.energy.trans h.energy, k.queues.trans h.queues, k.parts.trans h.parts,
    k.calib.trans h.calib, k.activity.trans h.activity⟩

theorem energyKept_of_scales (hregs : ∀ o, 0x40 ≤ o → o < 0x98 → reg t (aScl o) = reg s (aScl o)) (hscales : t.scales = s.scales)
    (hact : t.activity = s.activity) : EnergyKept s t :=
  ⟨hregs, by rw [hscales], by rw [hscales], by rw [hscales], by rw [hscales], hact⟩

theorem energyKept_status (s : State) (hi lo x : Nat) : EnergyKept s (setF s (aScl 4) hi lo x) :=
  energyKept_of_scales (fun o h _ => reg_setF_ne (aScl_ne (by omega))) rfl rfl

theorem energyKept_setStep (s : State) (p st : Nat) : EnergyKept s (setStep s p st) := by
  obtain ⟨g, hg⟩ := scales_setStep s p st
  refine ⟨fun o _ _ => reg_setStep_ne (aScl_ne (by omega)) s st, by rw [hg], by rw [hg], by rw [hg], by rw [hg], ?_⟩
  unfold setStep
  split <;> rfl

theorem energyKept_told (s : State) : EnergyKept s (sclEvent (raiseLimited s 0xC06 100000000) 6) := by
  have hevent : Only [.hif, .ainum, .freeCtr] (raiseLimited s 0xC06 100000000) (sclEvent (raiseLimited s 0xC06 100000000) 6) :=
    Only.notify _ _ _ _ (Only.drawn _ (Only.refl _) (by decide)) (by decide)
  refine energyKept_of_scales (fun o _ _ => ?_) ?_ ?_
  · rw [reg_of_only hevent (by decide), reg_raiseLimited_aScl _ _ (by decide)]
  · rw [hevent .scales (by decide), raiseLimited_scales]
  · rw [hevent .activity (by decide), raiseLimited_activity]

theorem reg_jrnOwe_aScl (e : JrnEntry) (s : State) {o : Nat} (ho : o < 0x100000) : reg (jrnOwe s e) (aScl o) = reg s (aScl o) := by
  refine reg_jrnOwe_of_raise (fun id hid u => reg_raise_aScl u hid) (fun k u => ?_) e s
  refine reg_add64_ne ?_ ?_ <;> simp only [aScl, aSec] <;> omega

theorem only_jrnOwe (s : State) (e : JrnEntry) : Only [.regs, .journal, .owed, .crier, .flt, .out] s (jrnOwe s e) :=
  Only.jrnOwe s e (Only.refl s) (by decide) (by decide) (by decide) (by decide) (by decide) (by decide)

-- The phases stored (R454).

theorem scales_storePhases (s : State) (l : List Phase) : (storePhases s l).scales = { s.scales with phases := l } :=
  only_jrnOwe (setScl s fun x => { x with phases := l }) (.phases l) .scales (by decide)

theorem energyKept_storePhases (s : State) (l : List Phase) : EnergyKept s (storePhases s l) := by
  have hscales := scales_storePhases s l
  refine ⟨fun o h _ => ?_, by rw [hscales], by rw [hscales], by rw [hscales], by rw [hscales], ?_⟩
  · rw [storePhases, reg_setF_ne (aScl_ne (by omega)), reg_jrnOwe_aScl _ _ (by omega)]
    rfl
  · exact only_jrnOwe (setScl s fun x => { x with phases := l }) (.phases l) .activity (by decide)

theorem validNow_storePhases (s : State) (l : List Phase) : regF (storePhases s l) (aScl 4) 15 8 = (2 ^ l.length - 1) % 2 ^ 8 :=
  regF_setF_same (by decide)

theorem phaseNow_storePhases (s : State) (l : List Phase) : regF (storePhases s l) (aScl 4) 18 16 = regF s (aScl 4) 18 16 := by
  rw [storePhases, regF_setF_ne (by decide) (.inr (by decide)), regF_of_reg (reg_jrnOwe_aScl _ _ (by decide))]
  rfl

-- Recognition (R454).

/-- A phase that has become current: its steps are wanted, and raised where there is room. -/
def phaseRaised (steps : List Nat) (k : Nat) (s : State) : State :=
  let s := setF (setScl s fun x => { x with current := some k, want := steps.zipIdx.map fun y => (y.2, y.1 + 1) }) (aScl 4) 18 16 k
  whenB (decide (estMw s * 100 < capMw s * 97) && !sclThrottle s && !sclCritical s && !absActive s)
    (forEach (steps.zipIdx.filter fun y => decide (stepNow s y.2 < min y.1 (stepHi s y.2))) fun s y => setStep s y.2 (min y.1 (stepHi s y.2))) s

/-- A match counted. -/
def matchCounted (s : State) (k : Nat) : State :=
  setScl s fun x => { x with
    matched := (k, if s.scales.matched.1 = k then s.scales.matched.2 + 1 else 1), phases := modAt x.phases k fun f => { f with used := s.elapsed } }

/-- Source 0xC06 and the notice of a phase, at most once per 100 ms. -/
def phaseTold (s : State) : State := if intervalOver s 0xC06 100000000 then sclEvent (raiseLimited s 0xC06 100000000) 6 else s

/-- The intervals in a row that a phase has matched, this one counted. -/
def matchesOf (s : State) (k : Nat) : Nat := if s.scales.matched.1 = k then s.scales.matched.2 + 1 else 1

theorem recognise_eq (s : State) (k : Nat) : recognise s k
    = if matchesOf s k < 3 ∨ s.scales.current = some k then matchCounted s k
      else phaseTold (phaseRaised (((matchCounted s k).scales.phases.getD k { centroid := [], steps := [], used := 0 }).steps) k (matchCounted s k)) :=
  rfl

theorem energyKept_phaseTold (s : State) : EnergyKept s (phaseTold s) := by
  unfold phaseTold
  split
  · exact energyKept_told s
  · exact EnergyKept.refl s

theorem energyKept_glides {l : List (Nat × Nat)} {st : State → Nat × Nat → Nat} (s : State) :
    EnergyKept s (forEach l (fun s y => setStep s y.2 (st s y)) s) :=
  forEach_keeps (P := EnergyKept s) (fun t _ ht => ht.trans (energyKept_setStep t _ _)) l (EnergyKept.refl s)

theorem energyKept_phaseRaised (steps : List Nat) (k : Nat) (s : State) : EnergyKept s (phaseRaised steps k s) := by
  have hcurrent : EnergyKept s (setScl s fun x => { x with current := some k, want := steps.zipIdx.map fun y => (y.2, y.1 + 1) }) :=
    ⟨fun _ _ _ => rfl, rfl, rfl, rfl, rfl, rfl⟩
  have hshown := hcurrent.trans (energyKept_status _ 18 16 k)
  unfold phaseRaised whenB
  dsimp only
  split
  · exact hshown.trans (energyKept_glides _)
  · exact hshown

theorem energyKept_recognise (s : State) (k : Nat) : EnergyKept s (recognise s k) := by
  have hcounted : EnergyKept s (matchCounted s k) := ⟨fun _ _ _ => rfl, rfl, rfl, rfl, rfl, rfl⟩
  rw [recognise_eq]
  split
  · exact hcounted
  · exact hcounted.trans ((energyKept_phaseRaised _ _ _).trans (energyKept_phaseTold _))

/-- The phase that is current, and its number in STATUS. -/
def phaseView (s : State) : Option Nat × Nat := (s.scales.current, regF s (aScl 4) 18 16)

theorem phaseView_glides {l : List (Nat × Nat)} {st : State → Nat × Nat → Nat} (s : State) :
    phaseView (forEach l (fun s y => setStep s y.2 (st s y)) s) = phaseView s := by
  refine forEach_view (V := phaseView) (fun t y _ => Prod.ext ?_ ?_) s
  · obtain ⟨g, hg⟩ := scales_setStep t y.2 (st t y)
    exact (congrArg Scales.current hg).trans rfl
  · exact regF_of_reg (reg_setStep_ne (status_ne_aPipeClk _) _ _) 18 16

theorem phaseView_phaseRaised (steps : List Nat) (k : Nat) (s : State) : phaseView (phaseRaised steps k s) = (some k, k % 8) := by
  unfold phaseRaised whenB
  dsimp only
  split
  · rw [phaseView_glides]
    exact Prod.ext rfl (regF_setF_same (by decide))
  · exact Prod.ext rfl (regF_setF_same (by decide))

theorem phaseView_phaseTold (s : State) : phaseView (phaseTold s) = phaseView s := by
  have hevent : Only [.hif, .ainum, .freeCtr] (raiseLimited s 0xC06 100000000) (sclEvent (raiseLimited s 0xC06 100000000) 6) :=
    Only.notify _ _ _ _ (Only.drawn _ (Only.refl _) (by decide)) (by decide)
  unfold phaseTold
  split
  · refine Prod.ext ?_ (regF_of_reg ?_ 18 16)
    · rw [phaseView, phaseView, hevent .scales (by decide), raiseLimited_scales]
    · rw [reg_of_only hevent (by decide), reg_raiseLimited_aScl _ _ (by decide)]
  · rfl

/-- The third match in a row makes the phase current. -/
theorem current_recognise (k : Nat) (h : 3 ≤ matchesOf s k) :
    (recognise s k).scales.current = some k ∧ (s.scales.current ≠ some k → regF (recognise s k) (aScl 4) 18 16 = k % 8) := by
  rw [recognise_eq]
  by_cases hcur : s.scales.current = some k
  · rw [if_pos (.inr hcur)]
    exact ⟨hcur, fun hn => absurd hcur hn⟩
  · rw [if_neg (by simp [hcur, Nat.not_lt.mpr h])]
    have hview : ∀ steps, phaseView (phaseTold (phaseRaised steps k (matchCounted s k))) = (some k, k % 8) := fun steps =>
      (phaseView_phaseTold _).trans (phaseView_phaseRaised steps k _)
    exact ⟨congrArg Prod.fst (hview _), fun _ => congrArg Prod.snd (hview _)⟩

-- Recognition and learning (R454).

/-- The steps that stand, for as long as they have stood. -/
def stepsHeld (s : State) : State :=
  setScl s fun x => { x with heldSteps := (pipesAll.map (stepNow s), if x.heldSteps.1 = pipesAll.map (stepNow s) then x.heldSteps.2 + 1 else 1) }

/-- An interval that matches a phase. -/
def phaseMatched (s : State) (k : Nat) : State :=
  recognise (whenB ((stepsHeld s).scales.current != some k) (setScl · fun x => { x with heldSteps := (pipesAll.map (stepNow s), 1) }) (stepsHeld s)) k

theorem phaseStep_known {sig : List Nat} {k : Nat} (hk : s.scales.phases.findIdx? (nearPhase sig) = some k) :
    phaseStep sig s = phaseMatched s k ∨ ∃ l, phaseStep sig s = storePhases (phaseMatched s k) l := by
  have hk' : (stepsHeld s).scales.phases.findIdx? (nearPhase sig) = some k := hk
  unfold phaseStep
  dsimp only
  rw [← stepsHeld, hk']
  dsimp only
  split
  · exact .inr ⟨_, rfl⟩
  · exact .inl rfl

theorem phaseStep_unknown {sig : List Nat} (hk : s.scales.phases.findIdx? (nearPhase sig) = none) :
    phaseStep sig s = if regBit s (aScl 0) 29 then setScl (stepsHeld s) fun x => { x with matched := (8, 0) }
      else newPhase (setScl (stepsHeld s) fun x => { x with matched := (8, 0) }) sig (pipesAll.map (stepNow s)) := by
  have hk' : (stepsHeld s).scales.phases.findIdx? (nearPhase sig) = none := hk
  unfold phaseStep
  dsimp only
  rw [← stepsHeld, hk']
  dsimp only
  cases regBit s (aScl 0) 29 <;> rfl

theorem energyKept_newPhase (s : State) (sig steps : List Nat) : EnergyKept s (newPhase s sig steps) := by
  have hcurrent : ∀ b, EnergyKept s (whenB b (setScl · fun x => { x with current := none }) s) := fun b => by
    cases b
    · exact EnergyKept.refl s
    · exact ⟨fun _ _ _ => rfl, rfl, rfl, rfl, rfl, rfl⟩
  unfold newPhase
  dsimp only
  split
  · exact energyKept_storePhases s _
  · exact (hcurrent _).trans (energyKept_storePhases _ _)

theorem energyKept_phaseMatched (s : State) (k : Nat) : EnergyKept s (phaseMatched s k) := by
  have hheld : EnergyKept s (stepsHeld s) := ⟨fun _ _ _ => rfl, rfl, rfl, rfl, rfl, rfl⟩
  refine EnergyKept.trans ?_ (energyKept_recognise _ k)
  unfold whenB
  split
  · exact hheld.trans ⟨fun _ _ _ => rfl, rfl, rfl, rfl, rfl, rfl⟩
  · exact hheld

theorem energyKept_phaseStep (sig : List Nat) (s : State) : EnergyKept s (phaseStep sig s) := by
  cases hk : s.scales.phases.findIdx? (nearPhase sig) with
  | some k =>
    rcases phaseStep_known hk with h | ⟨l, h⟩ <;> rw [h]
    · exact energyKept_phaseMatched s k
    · exact (energyKept_phaseMatched s k).trans (energyKept_storePhases _ l)
  | none =>
    have hnoted : EnergyKept s (setScl (stepsHeld s) fun x => { x with matched := (8, 0) }) := ⟨fun _ _ _ => rfl, rfl, rfl, rfl, rfl, rfl⟩
    rw [phaseStep_unknown hk]
    split
    · exact hnoted
    · exact hnoted.trans (energyKept_newPhase _ _ _)

/-- The third interval in a row near a phase makes it current. -/
theorem current_phaseStep {sig : List Nat} (hk : s.scales.phases.findIdx? (nearPhase sig) = some s.scales.matched.1) (htwo : s.scales.matched.2 = 2) :
    (phaseStep sig s).scales.current = some s.scales.matched.1
      ∧ (s.scales.current ≠ some s.scales.matched.1 → regF (phaseStep sig s) (aScl 4) 18 16 = s.scales.matched.1 % 8) := by
  have hmatched : (phaseMatched s s.scales.matched.1).scales.current = some s.scales.matched.1
      ∧ (s.scales.current ≠ some s.scales.matched.1 → regF (phaseMatched s s.scales.matched.1) (aScl 4) 18 16 = s.scales.matched.1 % 8) := by
    unfold phaseMatched whenB
    split
    · exact current_recognise (s := setScl (stepsHeld s) _) s.scales.matched.1 (by simp [matchesOf, setScl, stepsHeld, htwo])
    · exact current_recognise (s := stepsHeld s) s.scales.matched.1 (by simp [matchesOf, setScl, stepsHeld, htwo])
  rcases phaseStep_known hk with h | ⟨l, h⟩ <;> rw [h]
  · exact hmatched
  · rw [scales_storePhases, phaseNow_storePhases]
    exact hmatched

/-- A signature near no phase starts one, while there is room and learning goes on. -/
theorem learnt_phaseStep {sig : List Nat} (hk : s.scales.phases.findIdx? (nearPhase sig) = none) :
    (regBit s (aScl 0) 29 = true → (phaseStep sig s).scales.phases = s.scales.phases)
      ∧ (regBit s (aScl 0) 29 = false → s.scales.phases.length < 8 →
        (phaseStep sig s).scales.phases = s.scales.phases ++ [{ centroid := sig, steps := pipesAll.map (stepNow s), used := s.elapsed }]
        ∧ regF (phaseStep sig s) (aScl 4) 15 8 = 2 ^ (s.scales.phases.length + 1) - 1) := by
  rw [phaseStep_unknown hk]
  refine ⟨fun hfreeze => ?_, fun hfreeze hroom => ?_⟩
  · rw [if_pos hfreeze]
    rfl
  · have hlen : (setScl (stepsHeld s) fun x => { x with matched := (8, 0) }).scales.phases.length < 8 := hroom
    rw [if_neg (by simp [hfreeze]), newPhase]
    dsimp only
    rw [if_pos hlen, scales_storePhases, validNow_storePhases, List.length_append, List.length_singleton]
    have hpow : 2 ^ (s.scales.phases.length + 1) ≤ 2 ^ 8 := Nat.pow_le_pow_right (by decide) hroom
    have hpos := Nat.two_pow_pos (s.scales.phases.length + 1)
    exact ⟨rfl, Nat.mod_eq_of_lt (a := 2 ^ (s.scales.phases.length + 1) - 1) (by omega)⟩

-- The energy of an interval (R450, R459 to R461).

/-- MODEL_ONLY as it is shown leaves all that an interval is shared out by. -/
theorem told_syncModelOnly (s : State) : Told (setBit s (aScl 4) 31 (modelOnly s)) (syncModelOnly s) := by
  unfold syncModelOnly whenB
  split
  · exact told_raise _ (by decide)
  · exact Told.refl _

theorem reg_syncModelOnly {o : Nat} (h : o ≠ 4) (s : State) : reg (syncModelOnly s) (aScl o) = reg s (aScl o) := by
  rw [(told_syncModelOnly s).regs, reg_setBit_ne (aScl_ne h)]

theorem heatView_syncModelOnly (s : State) : heatView (syncModelOnly s) = heatView s :=
  (told_syncModelOnly s).heat.trans (heatView_setReg _ _ (by decide) (by decide))

theorem scales_syncModelOnly (s : State) : (syncModelOnly s).scales = s.scales := (told_syncModelOnly s).scales

theorem activity_syncModelOnly (s : State) : (syncModelOnly s).activity = s.activity := by
  unfold syncModelOnly whenB
  split
  · exact Only.raise (fr := [.regs, .owed, .crier, .flt]) _ _ (Only.refl _) (by decide) (by decide) (by decide) (by decide) .activity (by decide)
  · rfl

theorem modelOnly_syncModelOnly (s : State) : modelOnly (syncModelOnly s) = modelOnly s := by
  have hreg : ∀ k o, reg (syncModelOnly s) (aRegulator k o) = reg s (aRegulator k o) := fun k o => reg_syncModelOnly (by omega) s
  have hon : regulatorsOn (syncModelOnly s) = regulatorsOn s := List.filter_congr fun k _ => regBit_of_reg (hreg k 0) 31
  have hcore : coreEntries (syncModelOnly s) = coreEntries s := by
    rw [coreEntries, coreEntries, hon]
    exact List.filter_congr fun k _ => by rw [regF_of_reg (hreg k 0)]
  have hstale : ∀ k, regBit (syncModelOnly s) (aRegulator k 4) 31 = regBit s (aRegulator k 4) 31 := fun k => regBit_of_reg (hreg k 4) 31
  rw [modelOnly, modelOnly, hcore]
  simp only [hstale]

/-- The halls' counters take their shares. -/
def hallsTake (l : List (Nat × Nat)) (s : State) : State := forEach l (fun s x => add64 s (aScl (0x50 + 8 * x.2)) x.1) s

theorem only_hallsTake (l : List (Nat × Nat)) (h : Only [.regs] s t) : Only [.regs] s (hallsTake l t) :=
  forEach_keeps (P := Only [.regs] s) (fun _ _ h => Only.add64 _ _ _ h (by decide)) l h

theorem heatView_setF (s : State) {o : Nat} (hi lo x : Nat) (h18 : o ≠ 0x18) (h24 : o ≠ 0x24) : heatView (setF s (aScl o) hi lo x) = heatView s :=
  heatView_setReg s _ h18 h24

theorem heatView_setReg64 (s : State) {o : Nat} (x : Nat) (h : 0x28 ≤ o) : heatView (setReg64 s (aScl o) x) = heatView s :=
  (heatView_setReg (o := o + 4) _ _ (by omega) (by omega)).trans (heatView_setReg _ _ (by omega) (by omega))

theorem heatView_hallsTake (l : List (Nat × Nat)) (s : State) : heatView (hallsTake l s) = heatView s :=
  forEach_view (V := heatView) (fun u x _ => heatView_setReg64 u _ (by omega)) s

/-- The counters from 0x50 to 0x97 are the halls'. -/
theorem reg_hallsTake (n : Nat) (f : Nat → Nat) (s : State) {o : Nat} (ho : o < 0x50 ∨ 0x50 + 8 * n ≤ o) :
    reg (hallsTake ((List.range n).map fun h => (f h, h)) s) (aScl o) = reg s (aScl o) := by
  refine forEach_view (V := (reg · (aScl o))) (fun u x hx => ?_) s
  obtain ⟨h, hh, rfl⟩ := List.mem_map.mp hx
  have hlt := List.mem_range.mp hh
  exact reg_add64_ne (aScl_ne (by omega)) (aScl_ne (o' := 0x50 + 8 * h + 4) (by omega))

theorem reg64_hallsTake {n h : Nat} (hh : h < n) (f : Nat → Nat) (s : State) :
    reg64 (hallsTake ((List.range n).map fun h => (f h, h)) s) (aScl (0x50 + 8 * h)) = (reg64 s (aScl (0x50 + 8 * h)) + f h) % 2 ^ 64 := by
  have hmap : hallsTake ((List.range n).map fun h => (f h, h)) s = forEach (List.range n) (fun s k => add64 s (aScl (0x50 + 8 * k)) (f k)) s :=
    List.foldl_map
  obtain ⟨u, hu, ht, -⟩ := forEach_view_at (V := (reg64 · (aScl (0x50 + 8 * h)))) (f := fun s k => add64 s (aScl (0x50 + 8 * k)) (f k))
    List.nodup_range (List.mem_range.mpr hh) (fun u k _ hne => reg64_of_reg
      (reg_add64_ne (aScl_ne (by omega)) (aScl_ne (o' := 0x50 + 8 * k + 4) (by omega)))
      (reg_add64_ne (aScl_ne (o := 0x50 + 8 * h + 4) (by omega)) (aScl_ne (o := 0x50 + 8 * h + 4) (o' := 0x50 + 8 * k + 4) (by omega)))) s
  rw [hmap, ht, reg64_add64_same, hu]

/-- The counters after an interval: ENERGY_TOTAL, those of the halls, and ENERGY_COMMON with the rest. -/
def energyCounted (s : State) : State :=
  add64 (hallsTake ((List.range 9).map fun h => (hallShare s h, h)) (add64 s (aScl 0x40) (s.scales.energy / 1000000000))) (aScl 0x48)
    (s.scales.energy / 1000000000 - ((List.range 9).map (hallShare s)).foldl (· + ·) 0)

/-- What an interval is shared out by begins anew. -/
def energyCleared (s : State) (x : Scales) : Scales := { x with
  queueUj := queueShares s (s.scales.energy / 1000000000)
  calib := if modelFj s = 0 ∨ modelOnly s = true then s.scales.calib else s.scales.energy * 65536 / modelFj s
  parts := [], energy := x.energy % 1000000000
  window := (s.scales.energy / 1000000000 / 1000 :: x.window).take 1000 }

/-- The parts and the activity of an interval are taken. -/
def intervalCleared (f : Scales → Scales) (s : State) : State :=
  { setScl s f with activity := { s.activity with ms := [], shares := [] } }

theorem reg_intervalCleared (f : Scales → Scales) (s : State) (a : Nat) : reg (intervalCleared f s) a = reg s a := rfl

theorem heatView_intervalCleared (s u : State) : heatView (intervalCleared (energyCleared s) u) = heatView u := rfl

theorem only_energyCounted (s : State) : Only [.regs] s (energyCounted s) :=
  Only.add64 _ _ _ (only_hallsTake _ (Only.add64 _ _ _ (Only.refl s) (by decide))) (by decide)

theorem zipIdx_map_range (n : Nat) (f : Nat → Nat) : ((List.range n).map f).zipIdx = (List.range n).map fun h => (f h, h) := by
  refine List.ext_getElem (by simp) fun i h1 h2 => ?_
  simp

theorem shareEnergy_eq (s : State) : ∃ x, shareEnergy s = setF (intervalCleared (energyCleared s) (energyCounted s)) (aScl 0x20) 15 0 x := by
  unfold shareEnergy
  dsimp only
  rw [zipIdx_map_range]
  exact ⟨_, rfl⟩

theorem reg_shareEnergy {o : Nat} (h : o ≠ 0x20) (s : State) : reg (shareEnergy s) (aScl o) = reg (energyCounted s) (aScl o) := by
  obtain ⟨x, hx⟩ := shareEnergy_eq s
  rw [hx, reg_setF_ne (aScl_ne h), reg_intervalCleared]

theorem reg_shareEnergy_ne {o : Nat} (h : o < 0x20 ∨ 0x98 ≤ o) (s : State) : reg (shareEnergy s) (aScl o) = reg s (aScl o) := by
  rw [reg_shareEnergy (by omega), energyCounted, reg_add64_ne (aScl_ne (by omega)) (aScl_ne (o' := 0x4C) (by omega)), reg_hallsTake 9 _ _ (by omega),
    reg_add64_ne (aScl_ne (by omega)) (aScl_ne (o' := 0x44) (by omega))]

theorem scales_shareEnergy (s : State) : (shareEnergy s).scales = energyCleared s s.scales := by
  obtain ⟨x, hx⟩ := shareEnergy_eq s
  rw [hx, setF_scales]
  exact congrArg (energyCleared s) (only_energyCounted s .scales (by decide))

theorem activity_shareEnergy (s : State) : (shareEnergy s).activity = { s.activity with ms := [], shares := [] } := by
  obtain ⟨x, hx⟩ := shareEnergy_eq s
  have hcounted : (energyCounted s).activity = s.activity := only_energyCounted s .activity (by decide)
  rw [hx, setF_activity, ← hcounted]
  rfl

theorem heatView_shareEnergy (s : State) : heatView (shareEnergy s) = heatView s := by
  obtain ⟨x, hx⟩ := shareEnergy_eq s
  have hcounted : heatView (energyCounted s) = heatView s :=
    (heatView_setReg64 _ _ (by decide)).trans ((heatView_hallsTake _ _).trans (heatView_setReg64 _ _ (by decide)))
  rw [hx, heatView_setF _ _ _ _ (by decide) (by decide), heatView_intervalCleared, hcounted]

theorem total_shareEnergy (s : State) : reg64 (shareEnergy s) (aScl 0x40) = (reg64 s (aScl 0x40) + s.scales.energy / 1000000000) % 2 ^ 64 := by
  have hreg : ∀ o, o = 0x40 ∨ o = 0x44 → reg (shareEnergy s) (aScl o) = reg (add64 s (aScl 0x40) (s.scales.energy / 1000000000)) (aScl o) := fun o ho => by
    rw [reg_shareEnergy (by omega), energyCounted, reg_add64_ne (aScl_ne (by omega)) (aScl_ne (o' := 0x4C) (by omega)), reg_hallsTake 9 _ _ (by omega)]
  rw [reg64_of_reg (hreg 0x40 (by decide)) (hreg 0x44 (by decide)), reg64_add64_same]

theorem hall_shareEnergy {h : Nat} (hh : h < 9) (s : State) :
    reg64 (shareEnergy s) (aScl (0x50 + 8 * h)) = (reg64 s (aScl (0x50 + 8 * h)) + hallShare s h) % 2 ^ 64 := by
  have hreg : ∀ o, o = 0x50 + 8 * h ∨ o = 0x50 + 8 * h + 4 → reg (shareEnergy s) (aScl o)
      = reg (hallsTake ((List.range 9).map fun h => (hallShare s h, h)) (add64 s (aScl 0x40) (s.scales.energy / 1000000000))) (aScl o) := fun o ho => by
    rw [reg_shareEnergy (by omega), energyCounted, reg_add64_ne (aScl_ne (by omega)) (aScl_ne (o' := 0x4C) (by omega))]
  have hbefore : ∀ o, 0x48 ≤ o → reg (add64 s (aScl 0x40) (s.scales.energy / 1000000000)) (aScl o) = reg s (aScl o) := fun o ho =>
    reg_add64_ne (aScl_ne (by omega)) (aScl_ne (o' := 0x44) (by omega))
  rw [reg64_of_reg (hreg (0x50 + 8 * h) (.inl rfl)) (hreg (0x50 + 8 * h + 4) (.inr rfl)), reg64_hallsTake hh, reg64_of_reg (hbefore (0x50 + 8 * h) (by omega)) (hbefore (0x50 + 8 * h + 4) (by omega))]

theorem common_shareEnergy (s : State) : reg64 (shareEnergy s) (aScl 0x48)
    = (reg64 s (aScl 0x48) + (s.scales.energy / 1000000000 - ((List.range 9).map (hallShare s)).foldl (· + ·) 0)) % 2 ^ 64 := by
  have hbefore : ∀ o, o = 0x48 ∨ o = 0x4C → reg (hallsTake ((List.range 9).map fun h => (hallShare s h, h))
      (add64 s (aScl 0x40) (s.scales.energy / 1000000000))) (aScl o) = reg s (aScl o) := fun o ho => by
    rw [reg_hallsTake 9 _ _ (by omega), reg_add64_ne (aScl_ne (by omega)) (aScl_ne (o' := 0x44) (by omega))]
  rw [reg64_of_reg (reg_shareEnergy (by decide) s) (reg_shareEnergy (o := 0x4C) (by decide) s), energyCounted, reg64_add64_same,
    reg64_of_reg (hbefore 0x48 (.inl rfl)) (hbefore 0x4C (.inr rfl))]

-- PHASE_TICK (R454, R459 to R461).

/-- The state in which an interval's phase is recognised. -/
def intervalShared (s : State) : State := shareEnergy (syncModelOnly s)

theorem exec_phaseTick (hlive : sclLive s = true) : exec .phaseTick s
    = .next (if (sclPolicy (intervalShared s) && bringup (intervalShared s) 8 && regBit (intervalShared s) (aScl 0) 30) = true
      then phaseStep (signature s) (intervalShared s) else intervalShared s) :=
  congrArg Host.Outcome.next (if_neg (by simp [hlive]))

theorem hallShare_syncModelOnly (s : State) (h : Nat) : hallShare (syncModelOnly s) h = hallShare s h := by
  unfold hallShare shareOf modelFj
  rw [scales_syncModelOnly]

theorem cleared_syncModelOnly (s : State) (x : Scales) : energyCleared (syncModelOnly s) x = energyCleared s x := by
  unfold energyCleared queueShares shareOf modelFj
  rw [scales_syncModelOnly, activity_syncModelOnly, modelOnly_syncModelOnly]

theorem scales_intervalShared (s : State) : (intervalShared s).scales = energyCleared s s.scales := by
  rw [intervalShared, scales_shareEnergy, cleared_syncModelOnly, scales_syncModelOnly]

theorem reg_intervalShared {o : Nat} (h : o < 0x20 ∨ 0x98 ≤ o) (h4 : o ≠ 4) (s : State) : reg (intervalShared s) (aScl o) = reg s (aScl o) := by
  rw [intervalShared, reg_shareEnergy_ne h, reg_syncModelOnly h4]

theorem heatView_intervalShared (s : State) : heatView (intervalShared s) = heatView s :=
  (heatView_shareEnergy _).trans (heatView_syncModelOnly s)

theorem reg64_syncModelOnly {o : Nat} (h : 4 < o) (s : State) : reg64 (syncModelOnly s) (aScl o) = reg64 s (aScl o) :=
  reg64_of_reg (reg_syncModelOnly (by omega) s) (reg_syncModelOnly (o := o + 4) (by omega) s)

/-- The energies of an interval, as PHASE_TICK leaves them whatever it learns. -/
theorem energies_phaseTick (h : EnergyKept (intervalShared s) t) :
    reg64 t (aScl 0x40) = (reg64 s (aScl 0x40) + s.scales.energy / 1000000000) % 2 ^ 64 ∧ t.scales.energy = s.scales.energy % 1000000000
      ∧ (List.range 9).all (fun h => reg64 t (aScl (0x50 + 8 * h)) == (reg64 s (aScl (0x50 + 8 * h)) + hallShare s h) % 2 ^ 64) = true
      ∧ reg64 t (aScl 0x48) = (reg64 s (aScl 0x48)
        + (s.scales.energy / 1000000000 - ((List.range 9).map (hallShare s)).foldl (· + ·) 0)) % 2 ^ 64
      ∧ t.scales.queueUj = queueShares s (s.scales.energy / 1000000000) ∧ t.scales.parts = [] ∧ t.activity.ms = [] ∧ t.activity.shares = []
      ∧ t.scales.calib = (if modelFj s = 0 ∨ modelOnly s = true then s.scales.calib else s.scales.energy * 65536 / modelFj s) := by
  have hscales := scales_intervalShared s
  have hregs : ∀ o, 0x40 ≤ o → o + 4 < 0x98 → reg64 t (aScl o) = reg64 (intervalShared s) (aScl o) := fun o h1 h2 =>
    reg64_of_reg (h.regs o h1 (by omega)) (h.regs (o + 4) (by omega) h2)
  have hhalls : hallShare (syncModelOnly s) = hallShare s := funext (hallShare_syncModelOnly s)
  have hact : t.activity = { s.activity with ms := [], shares := [] } := by
    rw [h.activity, intervalShared, activity_shareEnergy, activity_syncModelOnly]
  refine ⟨?_, ?_, ?_, ?_, ?_, ?_, by rw [hact], by rw [hact], ?_⟩
  · rw [hregs 0x40 (by decide) (by decide), intervalShared, total_shareEnergy, reg64_syncModelOnly (by decide), scales_syncModelOnly]
  · rw [h.energy, hscales]
    rfl
  · rw [List.all_eq_true]
    intro k hk
    have hlt := List.mem_range.mp hk
    rw [beq_iff_eq, hregs _ (by omega) (by omega), intervalShared, hall_shareEnergy hlt, reg64_syncModelOnly (by omega), hhalls]
  · rw [hregs 0x48 (by decide) (by decide), intervalShared, common_shareEnergy, reg64_syncModelOnly (by decide), scales_syncModelOnly, hhalls]
  · rw [h.queues, hscales]
    rfl
  · rw [h.parts, hscales]
    rfl
  · rw [h.calib, hscales]
    rfl

theorem heatComplete_phaseTick (hlive : sclLive s = true) :
    Completes .phaseTick s fun t =>
      reg64 t (aScl 0x40) = (reg64 s (aScl 0x40) + s.scales.energy / 1000000000) % 2 ^ 64 ∧ t.scales.energy = s.scales.energy % 1000000000
      ∧ (List.range 9).all (fun h => reg64 t (aScl (0x50 + 8 * h)) == (reg64 s (aScl (0x50 + 8 * h)) + hallShare s h) % 2 ^ 64) = true
      ∧ reg64 t (aScl 0x48) = (reg64 s (aScl 0x48)
        + (s.scales.energy / 1000000000 - ((List.range 9).map (hallShare s)).foldl (· + ·) 0)) % 2 ^ 64
      ∧ t.scales.queueUj = queueShares s (s.scales.energy / 1000000000) ∧ t.scales.parts = [] ∧ t.activity.ms = [] ∧ t.activity.shares = []
      ∧ t.scales.calib = (if modelFj s = 0 ∨ modelOnly s = true then s.scales.calib else s.scales.energy * 65536 / modelFj s)
      ∧ (regBit s (aScl 0) 30 = false → t.scales.phases = s.scales.phases)
      ∧ (sclPolicy s = true → bringup s 8 = true → regBit s (aScl 0) 30 = true → s.scales.phases.findIdx? (nearPhase (signature s)) = none →
        (regBit s (aScl 0) 29 = true → t.scales.phases = s.scales.phases)
        ∧ (regBit s (aScl 0) 29 = false → s.scales.phases.length < 8 →
          t.scales.phases = s.scales.phases ++ [{ centroid := signature s, steps := pipesAll.map (stepNow s), used := s.elapsed }]
          ∧ regF t (aScl 4) 15 8 = 2 ^ (s.scales.phases.length + 1) - 1))
      ∧ (sclPolicy s = true → bringup s 8 = true → regBit s (aScl 0) 30 = true → s.scales.matched.2 = 2 →
        s.scales.phases.findIdx? (nearPhase (signature s)) = some s.scales.matched.1 → t.scales.current = some s.scales.matched.1
        ∧ (s.scales.current ≠ some s.scales.matched.1 → regF t (aScl 4) 18 16 = s.scales.matched.1 % 8)) := by
  have hscales := scales_intervalShared s
  have hheat := heatView_intervalShared s
  have hctrl : reg (intervalShared s) (aScl 0) = reg s (aScl 0) := reg_intervalShared (by decide) (by decide) s
  have hphases : (intervalShared s).scales.phases = s.scales.phases := by rw [hscales]; rfl
  have hmatched : (intervalShared s).scales.matched = s.scales.matched := by rw [hscales]; rfl
  have hcurrent : (intervalShared s).scales.current = s.scales.current := by rw [hscales]; rfl
  have hsteps : pipesAll.map (stepNow (intervalShared s)) = pipesAll.map (stepNow s) :=
    List.map_congr_left fun p _ => regF_of_reg (reg_intervalShared (.inr (by omega)) (by omega) s) 31 30
  have hup : bringup (intervalShared s) 8 = bringup s 8 := regBit_of_reg (low_of_heatView hheat) 8
  have helapsed : (intervalShared s).elapsed = s.elapsed := elapsed_of_heatView hheat
  have hexec := exec_phaseTick hlive
  rw [sclPolicy_of_heatView hheat, hup, regBit_of_reg hctrl] at hexec
  by_cases hlearn : (sclPolicy s && bringup s 8 && regBit s (aScl 0) 30) = true
  · rw [if_pos hlearn] at hexec
    have hen : regBit s (aScl 0) 30 = true := (Bool.and_eq_true _ _ |>.mp hlearn).2
    obtain ⟨htotal, henergy, hhalls, hcommon, hqueues, hparts, hms, hshares, hcalib⟩ := energies_phaseTick (energyKept_phaseStep (signature s) (intervalShared s))
    refine ⟨_, hexec, htotal, henergy, hhalls, hcommon, hqueues, hparts, hms, hshares, hcalib, fun h => absurd (hen.symm.trans h) (by decide),
      fun _ _ _ hnone => ?_, fun _ _ _ htwo hfound => ?_⟩
    · have hlearnt := learnt_phaseStep (s := intervalShared s) (sig := signature s) (by rw [hphases]; exact hnone)
      rwa [regBit_of_reg hctrl, hphases, hsteps, helapsed] at hlearnt
    · have hcur := current_phaseStep (s := intervalShared s) (sig := signature s) (by rw [hphases, hmatched]; exact hfound) (by rw [hmatched]; exact htwo)
      rwa [hmatched, hcurrent] at hcur
  · rw [if_neg hlearn] at hexec
    have hnot : sclPolicy s = true → bringup s 8 = true → regBit s (aScl 0) 30 = true → False := fun h1 h2 h3 => hlearn (by simp [h1, h2, h3])
    obtain ⟨htotal, henergy, hhalls, hcommon, hqueues, hparts, hms, hshares, hcalib⟩ := energies_phaseTick (EnergyKept.refl (intervalShared s))
    exact ⟨_, hexec, htotal, henergy, hhalls, hcommon, hqueues, hparts, hms, hshares, hcalib, fun _ => hphases,
      fun h1 h2 h3 => (hnot h1 h2 h3).elim, fun h1 h2 h3 => (hnot h1 h2 h3).elim⟩

end

/-- Settles O44: a droop and its end, an interval's energy and phase, the sensors with what they call for, and a throttle tick. -/
theorem heatComplete : Obligations.HeatComplete := by
  unfold Obligations.HeatComplete
  exact ⟨fun _ _ _ => heatComplete_trip, fun _ _ _ _ => heatComplete_clear, fun _ _ => heatComplete_phaseTick, fun _ _ _ _ => heatComplete_sense,
    fun _ _ => heatComplete_throttle⟩

end Sys2Proof.Proofs
end
